-- ==== Sys2Proof/Word.lean ====
section
/-! DEFINITION. Words, names and small fixed sets of the RK-7140: the widths the manual gives (R3 to R7), the ports and
access agents, the register pages of Table 02.2, and the small records that the commands of Syntax.lean carry. -/

namespace Sys2Proof

/-- A register (R7). -/
abbrev Word := BitVec 32
abbrev Byte := BitVec 8
/-- One 64-byte line of the lamp window (R151). -/
abbrev Line := BitVec 512
/-- The 4,096 bytes of one logical block, byte i in bits [8i+7:8i] (R5). -/
abbrev Block := BitVec 32768
/-- Bytes 0 to 4,159 of a codeword: the payload and the metadata behind it (Table 09.1). -/
abbrev Body := BitVec 33280
/-- A 64-byte submission entry (R107), dword i in bits [32i+31:32i]. -/
abbrev Entry := BitVec 512
abbrev Chan := Fin 32
/-- Die row r = 4 × target + LUN of a channel (R184). -/
abbrev Row := Fin 64
/-- Die index 64 × channel + row (R29). -/
abbrev Die := Fin 2048
abbrev Vid := Fin 64

/-- The two CXL ports. -/
inductive Port where
  | p0 | p1
  deriving DecidableEq, Repr

def Port.other : Port → Port
  | .p0 => .p1
  | .p1 => .p0

def Port.num : Port → Nat
  | .p0 => 0
  | .p1 => 1

/-- The agents of register access (R33, R413): the two ports and management firmware. -/
inductive Agent where
  | p0 | p1 | mgmt
  deriving DecidableEq, Repr

def Port.agent : Port → Agent
  | .p0 => .p0
  | .p1 => .p1

/-- The numbers of PF_CONS.AGENT (Table 02.12). -/
def Agent.num : Agent → Nat
  | .p0 => 0
  | .p1 => 1
  | .mgmt => 2

/-- The port through which a host agent reaches the part; none for management firmware. -/
def Agent.port : Agent → Option Port
  | .p0 => some .p0
  | .p1 => some .p1
  | .mgmt => none

/-- A thing held once per port. -/
structure PerPort (α : Type) where
  p0 : α
  p1 : α
  deriving DecidableEq, Repr

def PerPort.get {α : Type} (x : PerPort α) : Port → α
  | .p0 => x.p0
  | .p1 => x.p1

def PerPort.set {α : Type} (x : PerPort α) (p : Port) (v : α) : PerPort α :=
  match p with
  | .p0 => { x with p0 := v }
  | .p1 => { x with p1 := v }

/-- A thing held once per access agent. -/
structure PerAgent (α : Type) where
  p0 : α
  p1 : α
  mgmt : α
  deriving DecidableEq, Repr

def PerAgent.get {α : Type} (x : PerAgent α) : Agent → α
  | .p0 => x.p0
  | .p1 => x.p1
  | .mgmt => x.mgmt

def PerAgent.set {α : Type} (x : PerAgent α) (a : Agent) (v : α) : PerAgent α :=
  match a with
  | .p0 => { x with p0 := v }
  | .p1 => { x with p1 := v }
  | .mgmt => { x with mgmt := v }

/-- The register pages of Table 02.2, by name and instance. -/
inductive Page where
  | dev | port (p : Port) | qct | dbl | rlk | lmp | lnt | map | sow | gln | hdl | ecc | cip | key | thm | snf | alm
  | pwr | clk | twn | wpt | fch (c : Fin 32) | drc (d : Fin 4) | drg | pff (n : Fin 8)
  deriving DecidableEq, Repr

/-- The producer of a packet FIFO word: a register access, or the block that Table 02.11 names. -/
inductive Source where
  | agent (a : Agent)
  | block
  deriving DecidableEq, Repr

/-- What the DRAM accesses of one lamp-window request meet (R166, R167, R171). -/
inductive MemErr where
  | clean | lineLost | descLost | lanternParity
  deriving DecidableEq, Repr

/-- The outcome of stages 1 and 2 of a data codeword (R216, R217): bits corrected, the ladder step, or neither. -/
inductive HardDecode where
  | stage1 (bits : Nat)
  | stage2 (step : Nat)
  | failed
  deriving DecidableEq, Repr

/-- What the checks behind a decode find (R219, R220): the metadata CRC, then the authentication tag. -/
inductive CwCheck where
  | good | badMetadata | badTag
  deriving DecidableEq, Repr

/-- What a status poll that finds a die ready reports (Table 08.8), with the decode of a read's codeword. -/
inductive OpOutcome where
  | pass (d : HardDecode) (k : CwCheck)
  | fail
  deriving DecidableEq, Repr

/-- How the boot blocks answered while a slot was read (R62). -/
inductive SlotRead where
  | read | unreadable | noBootBlocks
  deriving DecidableEq, Repr

/-- The PLLs of Table 19.1; group g of the FCLKn PLLs serves channels 4g to 4g + 3. -/
inductive Pll where
  | mclk | qclk | aclk | twclk | fclk (g : Fin 8)
  deriving DecidableEq, Repr

/-- What READ ID, the parameter page and the factory marks tell of one die (Table 08.3): maker and model, data bytes of a page, the
feature address of its temperature (0 where none is named), the greatest array times in µs, endurance, geometry, bad blocks. -/
structure ParamPage where
  row : Row
  maker : Byte
  model : BitVec 160
  dataBytes : Nat
  tempFa : Nat
  tReadUs : Nat
  tProgUs : Nat
  tBersUs : Nat
  endurance : Nat
  planes : Nat
  pages : Nat
  blocks : Nat
  factoryBad : List Nat
  deriving DecidableEq, Repr

/-- What the controller uses of one die: its parameter page, and the fields of the DIECAP entry that matches it or their defaults
(Table 08.9); typical times in ns. -/
structure DieInfo where
  row : Row
  matched : Bool
  extrate : Bool
  nested : Bool
  resMin : Nat
  slc : Bool
  tempFa : Nat
  retry : Nat
  slcPages : Nat
  slcCycles : Nat
  tReadNs : Nat
  tProgNs : Nat
  tBersNs : Nat
  tSlcNs : Nat
  maxSlcUs : Nat
  tProgMaxUs : Nat
  endurance : Nat
  planes : Nat
  pages : Nat
  blocks : Nat
  factoryBad : List Nat
  deriving DecidableEq, Repr

/-- The result of Table 08.3 on one channel: steps 1 to 5, the dies found, and the edges (left, right) of the per-pin windows that the
sweep of R181 finds, pin q reading at index q and writing at 8 + q. -/
structure ChanTraining where
  ok : Bool
  dies : List ParamPage
  windows : List (Nat × Nat)
  deriving DecidableEq, Repr

/-- A section entry of an Amold header (Table 14.5), and whether the section's bytes have its digest. -/
structure Section where
  type : Nat
  offset : Nat
  length : Nat
  loadAddr : Nat := 0
  digest : BitVec 384 := 0
  ok : Bool := true
  deriving DecidableEq, Repr

/-- A firmware image: the fields of its Amold header (R336); whether SIGNER has the digest of the fuses and whether SIG verifies (R337),
which are facts of the image to the model; and the bytes of its DIECAP section (R453). -/
structure Image where
  magic : BitVec 32 := 0x444C4D41
  format : Nat := 1
  sv : Nat := 1
  nsect : Nat := 4
  imglen : Nat := 0x1000
  fwrev : BitVec 128 := 0
  devid : Nat := 0x7140
  stepping : Nat := 0xA2
  sections : List Section := [⟨1, 0x400, 0x80, 0, 0, true⟩, ⟨2, 0x480, 0x80, 0, 0, true⟩, ⟨3, 0x500, 0x80, 0, 0, true⟩, ⟨4, 0x580, 0x80, 0, 0, true⟩]
  signerOk : Bool := true
  sigOk : Bool := true
  diecap : List Byte := []
  deriving DecidableEq, Repr

/-- What one codeword of a Gleaner source read meets at the stages of Table 09.3: the hard decode, the soft decode, the checks behind
them; the peers of a reconstruction that do not decode, and the checks behind it. -/
structure SrcRead where
  hard : HardDecode
  soft : Bool
  check : CwCheck
  peers : List (Fin 32)
  check4 : CwCheck
  deriving DecidableEq, Repr

/-- Table 06.7 after VOL. -/
structure VolArgs where
  vol : Vid
  layout1 : Bool
  enc : Bool
  keySlot : Nat
  size : Nat
  deriving DecidableEq, Repr

/-- The header fields of a twin frame that its receiver uses (Table 17.1). -/
structure FrameHdr where
  seq : Nat
  ack : Nat
  xid : Nat
  deriving DecidableEq, Repr

/-- What a scrub or requester read of a DRAM line meets (Table 13.3): how many symbols, in which devices, on which pins. -/
structure DramSyndrome where
  symbols : Nat
  devices : List (Fin 5)
  pins : Word
  deriving DecidableEq, Repr

/-- The user of a DRAM line that proved uncorrectable (Table 13.4). -/
inductive DramUser where
  | mapEntry (index : Nat)
  | bufferOpenWrite (slot : Nat)
  | bufferVersion (id : Nat) (lbs : List (Fin 4))
  | frameLine (line : Nat)
  | descriptor (region : Fin 4) (block : Nat)
  | voltage (die : Die) (block : Nat)
  | furrowTable
  | copyStaging (id : Nat)
  | duplicated (bothLost : Bool)
  | lantern (entry : Fin 64)
  | unused
  deriving DecidableEq, Repr

end Sys2Proof
end

