-- ==== Sys2Proof/Syntax.lean ====
section
/-! DEFINITION. The commands of the block: one constructor for each row of spec/opcode_table.json, in the table's order. The
table gives a row no bits, so each carries the operands that its rules name; what the outside decides (a pin's level, a
decode's outcome, a sensor's result) is an operand. `len` is the payload length of a mailbox command in bytes. `off` of a register access
counts through BAR0 (8 MiB), then BAR2 (128 MiB), then the port's configuration space (4 KiB). -/

namespace Sys2Proof

inductive Instr where
  -- register pages and access (chapter 02)
  | pageStart (a : Agent) (p : Page)
  | pageStop (a : Agent) (p : Page)
  | pageClearFault (a : Agent) (p : Page)
  | pageStartingEnd (p : Page) (trained : Bool)
  | pageStoppingEnd (p : Page)
  | blockFault (p : Page) (parity : Bool)
  | registerWrite (a : Agent) (off width : Nat) (v : BitVec 64)
  | rcRegisterRead (a : Agent) (off width : Nat)
  | peakFieldRead (a : Agent) (off width : Nat)
  -- packet FIFOs (chapter 02)
  | pfPush (src : Source) (n : Fin 8) (w : Word) (frameOk : Bool)
  | pfCtrlEnd (src : Source) (n : Fin 8)
  | pfCtrlAbort (src : Source) (n : Fin 8)
  | pfCtrlDrop (a : Agent) (n : Fin 8)
  | pfDataRead (a : Agent) (n : Fin 8) (width : Nat)
  | pfPushStallComplete (n : Fin 8)
  | packetVisible (n : Fin 8)
  -- start-up, reset and shutdown (chapters 03, 12, 22)
  | powerOn (straps : BitVec 3)
  | pwrgdFall
  | resetNAssert
  | resetNDeassert (straps : BitVec 3)
  | smbusImmediateReset (pecOk : Bool)
  | smbusOrderlyReset (pecOk : Bool)
  | smbusStatusWindow
  | watchdogExpiry
  | devWdogWrite (a : Agent) (v : Word)
  | slotCheck (r : SlotRead)
  | managementFirmwareStart
  | dramTrainingDone (d : Fin 4) (ok : Bool)
  | flashTrainingDone (c : Chan) (t : ChanTraining)
  | devBootctlGo (a : Agent)
  | headlandLoadDone (unreadable : List Nat)
  | replayDone (unreadable : List Nat)
  | interruptedEraseReerase (c : Chan) (r : Row) (b : Nat)
  | shutdownRequest (a : Agent)
  | shutdownPhaseEnd
  | perstNAssert (p : Port)
  | perstNDeassert (p : Port)
  | linkHotReset (p : Port)
  | linkUp (p : Port) (width speed : Nat) (cxl rev : Bool)
  | linkDown (p : Port)
  | pfailNAssert
  | programsInFlightEnd
  | dumpEnd (complete : Bool)
  | pfailNRelease
  -- CXL ports and the lamp window (chapters 04, 07)
  | hdmDecoderCommit (p : Port) (k : Fin 4) (base size skip : Nat) (lock : Bool)
  | cxlMemRead (p : Port) (hpa : Nat) (e : MemErr)
  | cxlMemWrite (p : Port) (hpa : Nat) (d : Line) (e : MemErr)
  | cxlMemPoisonedWrite (p : Port) (hpa : Nat) (e : MemErr)
  | capholdRelease
  | viralReceived (p : Port)
  | gpfPhase1 (p : Port)
  | gpfPhase2 (p : Port)
  | d3hotEntry (p : Port)
  | d3hotExit (p : Port)
  | doeDiscovery (p : Port) (index : Byte)
  | cdatTableAccess (p : Port) (handle : Nat)
  | getCertificate (p : Port) (off length : Nat)
  | challenge (p : Port) (summary : Bool) (nonce : BitVec 384)
  | getMeasurements (p : Port) (index : Byte) (sign : Bool) (nonce : BitVec 384)
  -- standard mailbox commands (chapter 04)
  | getEventRecords (p : Port) (log : Fin 4)
  | clearEventRecords (p : Port) (log : Fin 4) (all : Bool) (handles : List Nat)
  | getFwInfo (p : Port)
  | getSupportedLogs (p : Port)
  | getLog (p : Port) (cel : Bool) (off length : Nat)
  | identifyMemoryDevice (p : Port)
  | getHealthInfo (p : Port)
  | getPoisonList (p : Port) (dpa length : Nat)
  | unsupportedOpcode (p : Port) (opcode : BitVec 16)
  | invalidVendorOpcode (p : Port) (opcode : BitVec 16)
  -- firmware (chapter 06)
  | transferFwFull (p : Port) (slot : Fin 2) (length : Nat) (img : Image)
  | transferFwInitiate (p : Port) (slot : Fin 2) (length : Nat)
  | transferFwContinue (p : Port) (slot : Fin 2) (off length : Nat)
  | transferFwEnd (p : Port) (slot : Fin 2) (off length : Nat) (img : Image)
  | transferFwAbort (p : Port)
  | activateFwNextReset (p : Port) (slot : Fin 2)
  | activateFwOnline (p : Port) (slot : Fin 2)
  | hitlessSwitchPause
  | hitlessSwitchReady
  | hitlessSwitchRollback
  -- command queues (chapter 05)
  | sqTailDoorbell (a : Agent) (qid : Fin 256) (v : Word)
  | cqHeadDoorbell (a : Agent) (qid : Fin 256) (v : Word)
  | fetchArbitration
  | fetchReadReturn (id : Nat) (entries : List Entry)
  | fetchReadFailure (id : Nat)
  | commandAdmission
  | write (slot : Fin 4096)
  | read (slot : Fin 4096) (lost : List DramUser)
  | flush (slot : Fin 4096)
  | deallocate (slot : Fin 4096)
  | verify (slot : Fin 4096) (lost : List DramUser)
  | light (slot : Fin 4096) (lost : List DramUser)
  | douse (slot : Fin 4096) (lost : List DramUser)
  | persist (slot : Fin 4096) (lost : List DramUser)
  | sglListReadReturn (slot : Fin 4096) (ok : Bool) (elems : List (BitVec 128))
  | writeDataArrival (slot : Fin 4096) (d : Block)
  | writeDataReadFailure (slot : Fin 4096)
  | writeTransferResume (slot : Fin 4096)
  | queueCreate (p : Port) (len : Nat) (qid : Fin 256) (depth cls : Nat) (crc : Bool) (sqBase cqBase : Nat)
  | queueDelete (p : Port) (len : Nat) (qid : Fin 256)
  | queueDeleteEnd (qid : Fin 256)
  | abort (p : Port) (len : Nat) (tag : BitVec 12)
  | abortDecision
  -- administration and volumes (chapter 06)
  | identifyController (p : Port) (len : Nat)
  | getLogExt (p : Port) (len : Nat) (logId selector off length : Nat)
  | getFeature (p : Port) (len : Nat) (fid selector : Nat)
  | setFeature (p : Port) (len : Nat) (fid selector : Nat) (v : Nat)
  | setHoldupUs (p : Port) (len : Nat) (v : Nat)
  | setServiceKey (p : Port) (len : Nat) (k : BitVec 776)
  | setSvCommit (p : Port) (len : Nat) (v : Nat)
  | setVolumeRo (p : Port) (len : Nat) (vol : Vid) (v : Nat)
  | volumeCreate (p : Port) (len : Nat) (x : VolArgs)
  | volumeFormat (p : Port) (len : Nat) (x : VolArgs)
  | volumeDelete (p : Port) (len : Nat) (vol : Vid)
  | volumeRepeat (vol : Vid)
  | serviceUnlockChallenge (p : Port) (len : Nat)
  | serviceUnlockSignature (p : Port) (len : Nat) (sig : BitVec 768)
  | signatureLockout
  | serviceUnlockRelock (p : Port) (len : Nat)
  | serviceStop (p : Port) (len : Nat) (pg : Page)
  | serviceChange (p : Port) (len : Nat) (pg : Page) (pairs : List (Nat × Word))
  | serviceStart (p : Port) (len : Nat) (pg : Page)
  | serviceStopChangeStart (p : Port) (len : Nat) (pg : Page) (pairs : List (Nat × Word))
  | serviceRetrainFch (p : Port) (len : Nat) (c : Chan)
  | serviceRetrainDrc (p : Port) (len : Nat) (d : Fin 4)
  | serviceRetrainPort (p : Port) (len : Nat) (target : Port)
  | retrainDone (ok : Bool)
  | serviceRetire (p : Port) (len : Nat) (c : Chan)
  | rebuildComplete
  | serviceRecalibrate (p : Port) (len : Nat) (offsets : List Int)
  -- keys and the twin commands (chapters 14, 17)
  | getTransport (p : Port) (len : Nat)
  | importKey (p : Port) (len : Nat) (slot : Nat) (point : BitVec 776) (wrapped : BitVec 320)
  | keyRotate (p : Port) (len : Nat) (slot : Nat)
  | keyRetire (p : Port) (len : Nat) (slot : Nat)
  | pair (p : Port) (len : Nat) (serial : BitVec 160)
  | mirror (p : Port) (len : Nat) (vol : Vid) (pkeySlot : Nat)
  | unmirror (p : Port) (len : Nat) (vol : Vid)
  | demote (p : Port) (len : Nat) (vol : Vid) (fence : Nat)
  | twinTakeover (p : Port) (len : Nat) (vol : Vid) (force : Bool) (fence : Nat)
  -- lamp window commands and the Lantern (chapter 07)
  | define (p : Port) (len : Nat) (region : Fin 4) (lot : Bool) (vol : Vid) (base size : Nat)
  | delete (p : Port) (len : Nat) (region : Fin 4)
  | setLot (p : Port) (len : Nat) (region : Fin 4) (lot : Bool)
  | lightLbFill (task : Nat)
  | touchLightRun
  | autoWriteback
  | lanternFetchReturn (e : MemErr)
  | lanternWritebackDone (i : Fin 64)
  | lanternEntryOff (i : Fin 64)
  | lntCtrlEnWrite (a : Agent) (en : Bool)
  | lanternFlushEnd
  | mapProbe (a : Agent) (hi : Word)
  | drgDecode (a : Agent) (hi : Word)
  -- the command aperture (chapter 08)
  | aptUnlock1Write (a : Agent) (d : Die) (v : BitVec 16)
  | aptUnlock2Write (a : Agent) (d : Die) (v : BitVec 16)
  | parameterBlockWrite (a : Agent) (d : Die) (off : Nat) (v : Word)
  | aptStageWrite (a : Agent) (d : Die) (off : Nat) (v : Word)
  | readPage (a : Agent) (d : Die)
  | readPageCache (a : Agent) (d : Die)
  | programPage (a : Agent) (d : Die)
  | programNested (a : Agent) (d : Die)
  | eraseBlock (a : Agent) (d : Die)
  | suspend (a : Agent) (d : Die)
  | resume (a : Agent) (d : Die)
  | aptSetFeature (a : Agent) (d : Die)
  | aptGetFeature (a : Agent) (d : Die)
  | setRetryStep (a : Agent) (d : Die)
  | readId (a : Agent) (d : Die)
  | readParameterPage (a : Agent) (d : Die)
  | resetDie (a : Agent) (d : Die)
  | aptBadcmd (a : Agent) (d : Die) (code : Byte)
  | operationIssue (c : Chan)
  | completionDetection (c : Chan) (r : Row) (o : OpOutcome)
  | operationTimeout (c : Chan) (r : Row)
  | svcWaitExpiry (c : Chan) (r : Row)
  | svcTransferTimeout (c : Chan)
  | schedulerSuspend (c : Chan) (r : Row) (eraseEnded : Bool)
  | schedulerResume (c : Chan) (r : Row)
  | resumeIntervalEnd (c : Chan) (r : Row)
  | wptSet (a : Agent) (hi : Bool) (v : Word)
  | wptAllset (a : Agent) (hi : Bool) (v : Word)
  | junctionTrip
  | junctionTripClear
  -- error correction, placement and gleaning (chapters 09, 10, 11)
  | softDecodeDone (task : Nat) (ok : Bool) (k : CwCheck)
  | reconstructionCombine (task : Nat) (k : CwCheck)
  | versionSealAge (version : Nat)
  | bufferHiwatSeal
  | rmwReadDone (version : Nat)
  | furrowOpen (pos : Fin 8)
  | sowerPageProgram (pos : Fin 8) (faulty : List (Fin 4))
  | slotExhausted (slot : Nat)
  | slotHalted (slot : Nat)
  | integrityKeyExhausted
  | sequenceLimit
  | mapRecoveryEnd (ok : Bool)
  | victimSelection
  | gleanerSourceRead (low : Bool) (reads : List SrcRead)
  | residualSearch (low : Bool)
  | eraseGate
  | patrolScan (furrow : Nat) (flagged passEnd : Bool)
  | disturbScan (c : Chan) (r : Row) (b : Nat) (flagged : Bool)
  -- headland and DRAM (chapters 12, 13)
  | headlandWrite
  | headlandRecordDurable
  | headlandFurrowRelease
  | dumpConsumed
  | patrolScrub (d : Fin 4) (b rank1 : Bool) (x : DramSyndrome) (u : DramUser) (passEnd : Bool)
  | caParityAlert (d : Fin 4) (b replayOk : Bool)
  | replayFailFault (d : Fin 4)
  | refreshBatch (d : Fin 4) (mr4 : BitVec 3) (low high : Bool)
  -- temperature, power and clocks (chapter 15)
  | thmSample (a : Agent) (mask : BitVec 16)
  | thermalTaskSample (dies : List Int)
  | conversionEnd (sensor : Fin 16) (t : Int) (stamp : BitVec 48)
  | snfCeilWrite (a : Agent) (level : BitVec 4)
  | powerDomainOff (a : Agent) (d : Fin 64)
  | powerDomainOn (a : Agent) (d : Fin 64)
  | domainSwitchEnd
  | pllLossOfLock (p : Pll)
  -- Almanac (chapter 16)
  | recordSealTimeout
  | batchTimeout (badCrc : List Nat) (writeOk : Bool)
  | almFlushRequest (a : Agent)
  | almBufreqWrite (a : Agent) (on : Bool)
  | timeEvent
  | almanacSnapshot
  | potAdvance
  -- twin pair (chapter 17)
  | twinLinkUp (x4 rate16 : Bool)
  | twinLinkDown
  | frameAlignmentLoss
  | idle (h : FrameHdr)
  | heartbeat (h : FrameHdr) (serial : BitVec 160) (txStamp echo now : Word)
  | nak (h : FrameHdr) (seq : Nat)
  | wbegin (h : FrameHdr) (vol : Vid) (fence slba nlb : Nat) (fua resync : Bool)
  | wdata (h : FrameHdr) (idx : Nat) (d : BitVec 2048)
  | wack (h : FrameHdr) (status : BitVec 16) (epoch : Nat)
  | twinDealloc (h : FrameHdr) (vol : Vid) (fence slba nlb : Nat)
  | durable (h : FrameHdr) (vol : Vid)
  | volstate (h : FrameHdr) (vol : Vid) (fence : Nat) (mirrored owner mapValid : Bool) (state : Fin 32) (size : Nat)
  | rsmap (h : FrameHdr) (vol : Vid) (first : Nat) (dirty : List Nat)
  | ctrlCreate (h : FrameHdr) (vol : Vid) (keySlot : Nat) (fence size : Nat) (layout1 enc : Bool)
  | result (h : FrameHdr) (vol : Vid) (status : BitVec 16)
  | take (h : FrameHdr) (vol : Vid) (fence : Nat)
  | takeAck (h : FrameHdr) (vol : Vid) (fence : Nat)
  | ctrlFormat (h : FrameHdr) (vol : Vid) (layout1 enc : Bool) (keySlot : Nat)
  | ctrlDelete (h : FrameHdr) (vol : Vid)
  | ctrlUnmirror (h : FrameHdr) (vol : Vid)
  | heartbeatInterval (now : Word)
  | partnerLossTimeout
  | frameResendTimeout
  | durableInterval
  | handoverTimeout (vol : Vid)
  | resyncPiece (vol : Vid)
  -- TAP and late rows (chapters 22, 12, 17, 04, 03, 19, 14)
  | idcode
  | samplePreload
  | extest
  | highz
  | clamp
  | bypass
  | holdUpTimeExpiry
  | twinFrameCrcFailure (sequenced : Bool)
  | flitCrcError (p : Port)
  | fuseCheckDone (ok : Bool)
  | pllLock (p : Pll)
  | shaviErrorRequest (p : Port) (code : Byte) (dwords : Nat) (lengthOk bodyOk : Bool)
  deriving DecidableEq, Repr

end Sys2Proof
end

