-- ==== Sys2Proof/Machine/Amold.lean ====
section
/-! DEFINITION. The checks of an Amold image (R336, R337). -/

namespace Sys2Proof

/-- A section starts at or after 0x400, at a multiple of 128 bytes, and ends within the image (R336). -/
def Section.placed (x : Section) (imglen : Nat) : Bool := decide (0x400 ≤ x.offset) && x.offset % 128 == 0 && decide (x.offset + x.length ≤ imglen)

/-- Two sections share no byte. -/
def Section.apart (x y : Section) : Bool := decide (x.offset + x.length ≤ y.offset) || decide (y.offset + y.length ≤ x.offset)

/-- No two sections of a list overlap. -/
def sectionsApart : List Section → Bool
  | [] => true
  | x :: xs => xs.all x.apart && sectionsApart xs

/-- Exactly one section of each type, in their places (R336). -/
def Image.sectionsOk (i : Image) : Bool :=
  i.sections.length == 4 && ([1, 2, 3, 4].all fun t => (i.sections.filter fun x => x.type == t).length == 1) &&
    i.sections.all (fun x => x.placed i.imglen) && sectionsApart i.sections

/-- Step 1 of R337: MAGIC, FORMAT, DEVID, STEPPING, NSECT, IMGLEN and the section placement. -/
def Image.headerOk (i : Image) : Bool :=
  i.magic == 0x444C4D41 && i.format == 1 && i.devid == 0x7140 && i.stepping == 0xA2 && i.nsect == 4 && decide (i.imglen ≤ 4 * 2 ^ 20) &&
    i.sectionsOk

/-- Steps 1 to 4 of R337: the header, the signer, the signature and each section digest. -/
def Image.good (i : Image) : Bool := i.headerOk && i.signerOk && i.sigOk && i.sections.all (·.ok)

/-- The Amold digest of the section of a type. -/
def Image.digest (i : Image) (t : Nat) : BitVec 384 :=
  match i.sections.find? fun x => x.type == t with
  | some x => x.digest
  | none => 0

end Sys2Proof
end

