-- ==== Sys2Proof/Config.lean ====
section
/-! DEFINITION. The free values: what the manual leaves open and no text of this model fixes. Each is opaque, so no proof can
see it. The counter `Mach.free` of State is advanced for every fresh value drawn. -/

namespace Sys2Proof.Config

/-- Random bits of the security processor: challenges (R145), device nonces (R338), SALT (R329), DEVSALT (R320). -/
opaque random384 : Nat → BitVec 384
/-- The device's ephemeral public key (R329). -/
opaque ephemeralPoint : Nat → BitVec 776
/-- An ECDSA signature under the identity key over the given message digest input (R329, R338). -/
opaque signature : Nat → List Byte → BitVec 768
/-- SHA-384 of a byte string. -/
opaque sha384 : List Byte → BitVec 384
/-- Does an ECDSA signature verify under a public key over SHA-384 of a byte string (R145)? -/
opaque verifies : BitVec 776 → List Byte → BitVec 768 → Bool
/-- Is an uncompressed point on brainpoolP384r1 and not the point at infinity (R331)? -/
opaque onCurve : BitVec 776 → Bool
/-- The unwrap of R330: salt draw, host point, slot and wrapped key to the key, or none when the integrity check fails. -/
opaque unwrap : Nat → BitVec 776 → Nat → BitVec 320 → Option (BitVec 256)
/-- Bytes of the certificate chain in one-time storage (R335). -/
opaque certificateByte : Nat → Byte
/-- Length of the chain as it is read (R338); at most 4,196 bytes. -/
opaque certificateLength : Nat
/-- The digest of a measurement of Table 14.7: index, and what the model holds of its input. -/
opaque measurement : Nat → List Byte → BitVec 384
/-- TYPE of a measurement block (Table 14.6): the manual gives no values. -/
opaque measureType : Nat → Byte
/-- UUIDs and contents of the standard logs are of CXL 2.0, outside the manual (R85). -/
opaque standardLogByte : Nat → Byte
/-- Bytes of a standard CXL payload whose layout is of CXL 2.0 and not in the manual (R85, R88): draw, command, byte. -/
opaque standardByte : Nat → Nat → Nat → Byte
/-- The bytes of a read of the block being erased (R201): undefined content, by draw and word. -/
opaque eraseReadWord : Nat → Nat → Word
/-- What a service-port read returns where the model holds nothing stored: an erased page, identifiers, parameter pages, features
never set (R196): draw, word. -/
opaque rawWord : Nat → Nat → Word
/-- The bits of a sensed page that differ from what was stored there: draw, word. -/
opaque bitErrors : Nat → Nat → Word
/-- Does a SUSPEND of the service port reach its die as the erase completes (Table 08.10)? Draw. -/
opaque eraseEnded : Nat → Bool
/-- The 448 parity bytes that make every check of R214 hold for bytes 0 to 4,159: a function of the base matrix. -/
opaque ldpcParity : BitVec 33280 → BitVec 3584
/-- HKDF-SHA-384 with L = 32: salt, IKM, info (R320, R322). -/
opaque hkdf384 : List Byte → List Byte → List Byte → BitVec 256
/-- The fused hardware key (R325). -/
opaque hardwareKey : List Byte
/-- AES-256-GCM (R319, R322): the ciphertext of 4,096 bytes under a key and an IV; the tag of an AAD and a ciphertext. -/
opaque gcmCipher : BitVec 256 → List Byte → BitVec 32768 → BitVec 32768
opaque gcmTag : BitVec 256 → List Byte → List Byte → List Byte → BitVec 128
/-- What a fault of the cipher adds to payload and tag (R324): draw, slot. -/
opaque faultPayload : Nat → Nat → BitVec 32768
opaque faultTag : Nat → Nat → BitVec 128
/-- The ECC base matrix of R214: fixed in silicon, its values not in the manual. -/
opaque baseMatrix : Nat → Word
/-- Sensor calibration offsets in the fuses (Table 15.5). -/
opaque fuseOffset : Nat → BitVec 8
/-- KCLK measured in Hz (R359): a free-running oscillator. -/
opaque kclkHz : Nat → Word
/-- Which of the later values a native-mode stop leaves (R293): draw, buffered version. -/
opaque survives : Nat → Nat → Bool
/-- Does a codeword share the cells of a page whose program a power loss cut off (R294)? -/
opaque sharesCells : Nat → Nat → Bool

/-- The time in µs that an interval took, where a register or a record of the Almanac holds it and the model has no clock. -/
opaque elapsedUs : Nat → Nat

/-- The DRAM channel of a line whose place in its structure the manual does not give (R25): draw. -/
opaque dramHome : Nat → Fin 4
/-- Edges of a DRAM lane's eye (R307), by draw and edge. -/
opaque eyeEdge : Nat → Nat → Nat
/-- Progress of a running volume command in percent (R139): draw, volume. -/
opaque percent : Nat → Nat → Nat
/-- Does the lane that encrypts an LB miss the slot's key in its cache (R340)? Slot, epoch, nonce. -/
opaque encryptMiss : Nat → Nat → Nat → Bool
/-- Does the lane that decrypts an LB miss the slot's key in its cache (R340)? Draw, LBs decrypted so far. -/
opaque decryptMiss : Nat → Nat → Bool

/-- The code of the CRIT record that PFAIL_N makes: Table 12.6 asks for the record, and Table 16.3 gives it no code. -/
opaque pfailCode : Nat

/-- Chostan's JEP106 identity, in IDCODE (R447): the manual does not give it. -/
opaque jep106 : BitVec 11
/-- What the boundary register captures of the signal balls, 32 of its bits: draw. The BSDL file that describes it is not in the manual. -/
opaque boundary : Nat → Word

/-- The header log of a port's RAS capability (R95): draw. The manual gives it no layout. -/
opaque rasHeader : Nat → BitVec 512
/-- BOOT_SEL as the pins stand when a reset that the controller itself ends is released (R60): draw. -/
opaque bootSel : Nat → BitVec 3
/-- Has step 4 of start-up ended, which no command of the table ends (Table 03.3)? Draw. -/
opaque stepFourOver : Nat → Bool
/-- Does a record of the Almanac's working ring still pass its CRC-32C after a reset that keeps the ring (Table 03.1)? Draw, SEQ. -/
opaque recordStands : Nat → Nat → Bool
/-- The code of the INFO record that holds the outcome of a background operation whose port was reset (Table 03.7): Table 16.3 has none. -/
opaque outcomeCode : Nat
/-- The step of Table 15.3 that a domain switch in progress has reached: draw. -/
opaque switchStep : Nat → BitVec 3
/-- What MAP_PRES.SRC and MAP_PENT hold of a probe that MAP_PRES.ERR answers (R253): draw. -/
opaque probeSrc : Nat → BitVec 2
opaque probeEntry : Nat → BitVec 40

end Sys2Proof.Config
end

