-- ==== Sys2Proof/Machine/Bytes.lean ====
section
/-! DEFINITION. Byte order and bit fields (R3 to R7), and the numbers of Table 02.2 by page. -/

namespace Sys2Proof

/-- The offset of the page in BAR0 as management firmware sees it (Table 02.2, R33). -/
def Page.base : Page → Nat
  | .dev => 0x0 | .port .p0 => 0x1000 | .port .p1 => 0x2000 | .qct => 0xA000 | .dbl => 0xB000 | .rlk => 0xC000
  | .lmp => 0x10000 | .lnt => 0x11000 | .map => 0x12000 | .sow => 0x13000 | .gln => 0x14000 | .hdl => 0x15000
  | .ecc => 0x16000 | .cip => 0x17000 | .key => 0x18000 | .thm => 0x19000 | .snf => 0x1A000 | .alm => 0x1B000
  | .pwr => 0x1C000 | .clk => 0x1D000 | .twn => 0x1E000 | .wpt => 0x1F000 | .fch c => 0x20000 + c.val * 0x1000
  | .drc d => 0x40000 + d.val * 0x1000 | .drg => 0x44000 | .pff n => 0x48000 + n.val * 0x1000

/-- The type codes of Table 02.2, which are also the SRC of Almanac records (Table 16.1). -/
def Page.typeCode : Page → Nat
  | .dev => 0x01 | .port _ => 0x02 | .qct => 0x04 | .dbl => 0x05 | .rlk => 0x06 | .lmp => 0x10 | .lnt => 0x11
  | .map => 0x12 | .sow => 0x13 | .gln => 0x14 | .hdl => 0x15 | .ecc => 0x16 | .cip => 0x17 | .key => 0x18
  | .thm => 0x19 | .snf => 0x1A | .alm => 0x1B | .pwr => 0x1C | .clk => 0x1D | .twn => 0x1E | .wpt => 0x1F
  | .fch _ => 0x20 | .drc _ => 0x21 | .drg => 0x22 | .pff _ => 0x23

/-- PG_ID.INST (Table 02.2). -/
def Page.inst : Page → Nat
  | .port p => p.num
  | .fch c => c.val
  | .drc d => d.val
  | .pff n => n.val
  | _ => 0

/-- Little-endian bytes (R5): n bytes of v. -/
def leBytes : Nat → Nat → List Byte
  | 0, _ => []
  | n + 1, v => BitVec.ofNat 8 v :: leBytes n (v / 256)

/-- The number that little-endian bytes hold (R5). -/
def ofLeBytes : List Byte → Nat
  | [] => 0
  | b :: bs => b.toNat + 256 * ofLeBytes bs

/-- Bits [hi:lo] of a number. -/
def bits (v hi lo : Nat) : Nat := (v / 2 ^ lo) % 2 ^ (hi + 1 - lo)

/-- Does bit i of v read 1? -/
def bitOf (v i : Nat) : Bool := v.testBit i

/-- The bits of a 32-bit mask that are set, ascending. -/
def maskBits (w : Word) : List (Fin 32) := (List.finRange 32).filter fun i => w.getLsbD i.val

/-- The 32-bit mask with only bit i set. -/
def bit32 (i : Nat) : Word := BitVec.ofNat 32 1 <<< i

end Sys2Proof
end

