-- ==== Sys2Proof/Machine/RegNames.lean ====
section
/-! DEFINITION. The registers by the manual's names: addresses as management firmware sees them for pages that stand once,
offsets within the page for PORT, FCH, DRC and PFF. -/

namespace Sys2Proof.Machine.Reg

abbrev DEV_ID : Nat := 0x40
abbrev DEV_VID : Nat := 0x44
abbrev DEV_STATUS : Nat := 0x48
abbrev DEV_RST_CAUSE : Nat := 0x100
abbrev DEV_BOOT : Nat := 0x104
abbrev DEV_BOOTCTL : Nat := 0x108
abbrev DEV_SHDN : Nat := 0x10C
abbrev DEV_SHDN_STAT : Nat := 0x110
abbrev DEV_WDOG : Nat := 0x114
abbrev DEV_WDOG_CNT : Nat := 0x118
abbrev PF_CTRL : Nat := 0x40
abbrev PF_STAT : Nat := 0x44
abbrev PF_DATA : Nat := 0x48
abbrev PF_PUSH : Nat := 0x4C
abbrev PF_LEVEL : Nat := 0x50
abbrev PF_HEADLEN : Nat := 0x54
abbrev PF_CFG : Nat := 0x58
abbrev PF_CONS : Nat := 0x5C
abbrev PF_CHKFAIL : Nat := 0x60
abbrev PF_OVERSIZE : Nat := 0x64
abbrev PF_DROPS : Nat := 0x68
abbrev PF_FOREIGN : Nat := 0x6C
abbrev PORT_LINK : Nat := 0x40
abbrev PORT_CFG : Nat := 0x44
abbrev PORT_LINKDOWN : Nat := 0x48
abbrev PORT_WDROP : Nat := 0x4C
abbrev PORT_B2DROP : Nat := 0x50
abbrev PORT_CRCERR : Nat := 0x54
abbrev PORT_LLRETRY : Nat := 0x58
abbrev PORT_MEMRD_LO : Nat := 0x5C
abbrev PORT_MEMRD_HI : Nat := 0x60
abbrev PORT_MEMWR_LO : Nat := 0x64
abbrev PORT_MEMWR_HI : Nat := 0x68
abbrev PORT_POISON_TX : Nat := 0x6C
abbrev PORT_POISON_RX : Nat := 0x70
abbrev PORT_NODEC : Nat := 0x74
abbrev PORT_VIRAL : Nat := 0x78
abbrev PORT_MEMINFL : Nat := 0x7C
abbrev QCT_ARB : Nat := 0xA040
abbrev QCT_BURST : Nat := 0xA044
abbrev QCT_SLOTRES : Nat := 0xA048
abbrev QCT_SLOTS : Nat := 0xA04C
abbrev QCT_PORTSLOTS : Nat := 0xA050
abbrev QCT_QCOUNT : Nat := 0xA054
abbrev QCT_QSEL : Nat := 0xA058
abbrev QCT_QCTX0 : Nat := 0xA05C
abbrev QCT_QCTX1 : Nat := 0xA060
abbrev QCT_QCTX2 : Nat := 0xA064
abbrev QCT_QCTX3 : Nat := 0xA068
abbrev QCT_QCTX_SQB_LO : Nat := 0xA06C
abbrev QCT_QCTX_SQB_HI : Nat := 0xA070
abbrev QCT_QCTX_CQB_LO : Nat := 0xA074
abbrev QCT_QCTX_CQB_HI : Nat := 0xA078
abbrev QCT_FETCH_LO : Nat := 0xA07C
abbrev QCT_FETCH_HI : Nat := 0xA080
abbrev QCT_DUPTAG : Nat := 0xA084
abbrev QCT_CRCERR : Nat := 0xA088
abbrev QCT_FETCHERR : Nat := 0xA08C
abbrev DBL_BADDB : Nat := 0xB040
abbrev DBL_LASTBAD : Nat := 0xB044
abbrev RLK_ACTIVE : Nat := 0xC040
abbrev RLK_PEAK : Nat := 0xC044
abbrev RLK_CONFL_LO : Nat := 0xC048
abbrev RLK_CONFL_HI : Nat := 0xC04C
abbrev RLK_MAXWAIT : Nat := 0xC050
abbrev RLK_SEL : Nat := 0xC054
abbrev RLK_ENT0 : Nat := 0xC058
abbrev RLK_ENT_SLBA_LO : Nat := 0xC05C
abbrev RLK_ENT_SLBA_HI : Nat := 0xC060
abbrev RLK_ENT_NLB : Nat := 0xC064
abbrev RLK_ENT_SEQ : Nat := 0xC068
abbrev RLK_ENT_WAIT : Nat := 0xC06C
abbrev LMP_RSEL : Nat := 0x10040
abbrev LMP_RCFG : Nat := 0x10044
abbrev LMP_RBASE_LO : Nat := 0x10048
abbrev LMP_RBASE_HI : Nat := 0x1004C
abbrev LMP_RBLOCKS : Nat := 0x10050
abbrev LMP_RDESC_LO : Nat := 0x10054
abbrev LMP_RDESC_HI : Nat := 0x10058
abbrev LMP_FRAMES : Nat := 0x1005C
abbrev LMP_LIT : Nat := 0x10060
abbrev LMP_DIRTY : Nat := 0x10064
abbrev LMP_TAINTED : Nat := 0x10068
abbrev LMP_DIRTYCAP : Nat := 0x1006C
abbrev LMP_AUTOWB : Nat := 0x10070
abbrev LMP_TOUCHQ : Nat := 0x10074
abbrev LMP_TOUCHDROP : Nat := 0x10078
abbrev LMP_EARLYWR : Nat := 0x1007C
abbrev LMP_DARKRD : Nat := 0x10080
abbrev LMP_DARKWR : Nat := 0x10084
abbrev LMP_CAPHOLD : Nat := 0x10088
abbrev LMP_LINELOST : Nat := 0x1008C
abbrev LNT_CTRL : Nat := 0x11040
abbrev LNT_STAT : Nat := 0x11044
abbrev LNT_HIT_LO : Nat := 0x11048
abbrev LNT_HIT_HI : Nat := 0x1104C
abbrev LNT_MISS_LO : Nat := 0x11050
abbrev LNT_MISS_HI : Nat := 0x11054
abbrev LNT_PARERR : Nat := 0x11058
abbrev LNT_REDIRTY : Nat := 0x1105C
abbrev LNT_TAINTALL : Nat := 0x11060
abbrev LNT_ESEL : Nat := 0x11064
abbrev LNT_ENT : Nat := 0x11068
abbrev LNT_ENT_TAG : Nat := 0x1106C
abbrev FCH_STAT : Nat := 0x40
abbrev FCH_TOKMAX : Nat := 0x44
abbrev FCH_TOKNOW : Nat := 0x48
abbrev FCH_SUSPALLOW : Nat := 0x4C
abbrev FCH_POLL : Nat := 0x50
abbrev FCH_SVCWAIT : Nat := 0x54
abbrev FCH_SVCTMO : Nat := 0x58
abbrev FCH_OPTMO : Nat := 0x5C
abbrev FCH_QDEPTH : Nat := 0x60
abbrev FCH_SEQERR : Nat := 0x64
abbrev FCH_WPREF : Nat := 0x68
abbrev FCH_EPEND : Nat := 0x6C
abbrev FCH_SUSPENDS : Nat := 0x70
abbrev FCH_SUSPMAX : Nat := 0x74
abbrev FCH_TOKWAIT : Nat := 0x78
abbrev FCH_APTDROP : Nat := 0x7C
abbrev FCH_DSEL : Nat := 0x80
abbrev FCH_DCAP : Nat := 0x84
abbrev FCH_PINSEL : Nat := 0x88
abbrev FCH_DESKEW : Nat := 0x8C
abbrev FCH_OPS_LO : Nat := 0x90
abbrev FCH_OPS_HI : Nat := 0x94
abbrev FCH_OPTIMEOUT : Nat := 0x98
abbrev WPT_DSEL : Nat := 0x1F040
abbrev WPT_LO : Nat := 0x1F044
abbrev WPT_HI : Nat := 0x1F048
abbrev WPT_SET_LO : Nat := 0x1F04C
abbrev WPT_SET_HI : Nat := 0x1F050
abbrev WPT_ALLSET_LO : Nat := 0x1F054
abbrev WPT_ALLSET_HI : Nat := 0x1F058
abbrev WPT_REFUSED : Nat := 0x1F05C
abbrev WPT_LAST : Nat := 0x1F060
abbrev ECC_SOFTITER : Nat := 0x16040
abbrev ECC_SOFTDELTA : Nat := 0x16044
abbrev ECC_REFTHR : Nat := 0x16048
abbrev ECC_SOFTQ : Nat := 0x1604C
abbrev ECC_CORR_LO : Nat := 0x16050
abbrev ECC_CORR_HI : Nat := 0x16054
abbrev ECC_LADDER_LO : Nat := 0x16058
abbrev ECC_LADDER_HI : Nat := 0x1605C
abbrev ECC_SOFT_LO : Nat := 0x16060
abbrev ECC_SOFT_HI : Nat := 0x16064
abbrev ECC_RECON_LO : Nat := 0x16068
abbrev ECC_RECON_HI : Nat := 0x1606C
abbrev ECC_UNREC : Nat := 0x16070
abbrev ECC_AUTHFAIL : Nat := 0x16074
abbrev ECC_MDMISS : Nat := 0x16078
abbrev ECC_MAXSTEP : Nat := 0x1607C
abbrev ECC_ERASEMASK : Nat := 0x16080
abbrev ECC_RETIRED : Nat := 0x16084
abbrev ECC_RBSTAT : Nat := 0x16088
abbrev ECC_RBLEFT : Nat := 0x1608C
abbrev ECC_PROVREC : Nat := 0x16090
abbrev ECC_HMSEL : Nat := 0x16094
abbrev ECC_HMAT : Nat := 0x16098
abbrev MAP_ENTRIES_LO : Nat := 0x12040
abbrev MAP_ENTRIES_HI : Nat := 0x12044
abbrev MAP_CHUNKS : Nat := 0x12048
abbrev MAP_RECOV : Nat := 0x1204C
abbrev MAP_RECOVCNT : Nat := 0x12050
abbrev MAP_BADENT : Nat := 0x12054
abbrev MAP_WSN_LO : Nat := 0x12058
abbrev MAP_WSN_HI : Nat := 0x1205C
abbrev MAP_FSN_LO : Nat := 0x12060
abbrev MAP_FSN_HI : Nat := 0x12064
abbrev MAP_INSTALL_LO : Nat := 0x12068
abbrev MAP_INSTALL_HI : Nat := 0x1206C
abbrev MAP_SUPERSEDED : Nat := 0x12070
abbrev MAP_PVOL : Nat := 0x12074
abbrev MAP_PLBA_LO : Nat := 0x12078
abbrev MAP_PLBA_HI : Nat := 0x1207C
abbrev MAP_PRES : Nat := 0x12080
abbrev MAP_PENT_LO : Nat := 0x12084
abbrev MAP_PENT_HI : Nat := 0x12088
abbrev SOW_SEALUS : Nat := 0x13040
abbrev SOW_HIWAT : Nat := 0x13044
abbrev SOW_BUFCAP : Nat := 0x13048
abbrev SOW_BUFUSED : Nat := 0x1304C
abbrev SOW_BUFOPEN : Nat := 0x13050
abbrev SOW_HELD : Nat := 0x13054
abbrev SOW_OSEL : Nat := 0x13058
abbrev SOW_OSTAT : Nat := 0x1305C
abbrev SOW_OFSN_LO : Nat := 0x13060
abbrev SOW_OFSN_HI : Nat := 0x13064
abbrev SOW_OABSENT : Nat := 0x13068
abbrev SOW_OMASK : Nat := 0x1306C
abbrev SOW_PAGES_LO : Nat := 0x13070
abbrev SOW_PAGES_HI : Nat := 0x13074
abbrev SOW_RMW_LO : Nat := 0x13078
abbrev SOW_RMW_HI : Nat := 0x1307C
abbrev SOW_RMWFAIL : Nat := 0x13080
abbrev SOW_FILLER : Nat := 0x13084
abbrev SOW_PROGFAIL : Nat := 0x13088
abbrev SOW_DISCARD : Nat := 0x1308C
abbrev GLN_WV : Nat := 0x14040
abbrev GLN_WA : Nat := 0x14044
abbrev GLN_WW : Nat := 0x14048
abbrev GLN_HIWM : Nat := 0x1404C
abbrev GLN_FLOOR : Nat := 0x14050
abbrev GLN_EXHTHR : Nat := 0x14054
abbrev GLN_HYST : Nat := 0x14058
abbrev GLN_LOWMIN : Nat := 0x1405C
abbrev GLN_COLDAGE : Nat := 0x14060
abbrev GLN_DEBTMAX : Nat := 0x14064
abbrev GLN_RATED : Nat := 0x14068
abbrev GLN_SCANDAYS : Nat := 0x1406C
abbrev GLN_RDDIST : Nat := 0x14070
abbrev GLN_STAT : Nat := 0x14074
abbrev GLN_FALLOW : Nat := 0x14078
abbrev GLN_RELEASED : Nat := 0x1407C
abbrev GLN_RELOCQ : Nat := 0x14080
abbrev GLN_RETIRED : Nat := 0x14084
abbrev GLN_DEBT : Nat := 0x14088
abbrev GLN_VFSN_LO : Nat := 0x1408C
abbrev GLN_VFSN_HI : Nat := 0x14090
abbrev GLN_COPIES_LO : Nat := 0x14094
abbrev GLN_COPIES_HI : Nat := 0x14098
abbrev GLN_ERASES_LO : Nat := 0x1409C
abbrev GLN_ERASES_HI : Nat := 0x140A0
abbrev GLN_CASLOST : Nat := 0x140A4
abbrev GLN_POISON : Nat := 0x140A8
abbrev GLN_RESIDUAL : Nat := 0x140AC
abbrev GLN_REFRESH : Nat := 0x140B0
abbrev GLN_DISTURB : Nat := 0x140B4
abbrev GLN_SCANPASS : Nat := 0x140B8
abbrev GLN_FSEL : Nat := 0x140BC
abbrev GLN_FSTAT : Nat := 0x140C0
abbrev GLN_FMASK : Nat := 0x140C4
abbrev GLN_FVALID : Nat := 0x140C8
abbrev GLN_FPLACED : Nat := 0x140CC
abbrev HDL_EPOCH_LO : Nat := 0x15040
abbrev HDL_EPOCH_HI : Nat := 0x15044
abbrev HDL_DURABLE_LO : Nat := 0x15048
abbrev HDL_DURABLE_HI : Nat := 0x1504C
abbrev HDL_WINDOW : Nat := 0x15050
abbrev HDL_WINMAX : Nat := 0x15054
abbrev HDL_RFSN_LO : Nat := 0x15058
abbrev HDL_RFSN_HI : Nat := 0x1505C
abbrev HDL_SEGS : Nat := 0x15060
abbrev HDL_DELTACAP : Nat := 0x15064
abbrev HDL_DIRINT : Nat := 0x15068
abbrev HDL_RESERVE : Nat := 0x1506C
abbrev HDL_FURROWS : Nat := 0x15070
abbrev HDL_SEGWR_LO : Nat := 0x15074
abbrev HDL_SEGWR_HI : Nat := 0x15078
abbrev HDL_WINHOLD : Nat := 0x1507C
abbrev HDL_PLPBUDGET_LO : Nat := 0x15080
abbrev HDL_PLPBUDGET_HI : Nat := 0x15084
abbrev HDL_BUFCAP : Nat := 0x15088
abbrev HDL_LAMPPCT : Nat := 0x1508C
abbrev HDL_FIXUS : Nat := 0x15090
abbrev HDL_MINHOLD : Nat := 0x15094
abbrev HDL_DUMPSTAT : Nat := 0x15098
abbrev HDL_DUMPCW : Nat := 0x1509C
abbrev HDL_WEAR : Nat := 0x150A0
abbrev HDL_SLCRATED : Nat := 0x150A4
abbrev HDL_LOADMS : Nat := 0x150A8
abbrev DRC_STAT : Nat := 0x40
abbrev DRC_SPARE : Nat := 0x44
abbrev DRC_LSEL : Nat := 0x48
abbrev DRC_EYE : Nat := 0x4C
abbrev DRC_RECAL : Nat := 0x50
abbrev DRC_RFCFG : Nat := 0x54
abbrev DRC_RFSTAT : Nat := 0x58
abbrev DRC_SCRUBH : Nat := 0x5C
abbrev DRC_SPARETHR : Nat := 0x60
abbrev DRC_CE_LO : Nat := 0x64
abbrev DRC_CE_HI : Nat := 0x68
abbrev DRC_UE : Nat := 0x6C
abbrev DRC_DEVCE : Nat := 0x70
abbrev DRC_CAPAR : Nat := 0x74
abbrev DRC_REPLAYFAIL : Nat := 0x78
abbrev DRC_CATCHUP : Nat := 0x7C
abbrev DRC_SCRUBPASS : Nat := 0x80
abbrev DRC_SPAREPIN : Nat := 0x84
abbrev DRG_CFG : Nat := 0x44040
abbrev DRG_ILV : Nat := 0x44044
abbrev DRG_CAP : Nat := 0x44048
abbrev DRG_TRAIN : Nat := 0x4404C
abbrev DRG_PADDR_LO : Nat := 0x44050
abbrev DRG_PADDR_HI : Nat := 0x44054
abbrev DRG_PRES : Nat := 0x44058
abbrev DRG_PROW : Nat := 0x4405C
abbrev DRG_CE_LO : Nat := 0x44060
abbrev DRG_CE_HI : Nat := 0x44064
abbrev DRG_UE : Nat := 0x44068
abbrev CIP_STAT : Nat := 0x17040
abbrev CIP_ENC_LO : Nat := 0x17044
abbrev CIP_ENC_HI : Nat := 0x17048
abbrev CIP_DEC_LO : Nat := 0x1704C
abbrev CIP_DEC_HI : Nat := 0x17050
abbrev CIP_MAC_LO : Nat := 0x17054
abbrev CIP_MAC_HI : Nat := 0x17058
abbrev CIP_TAGFAIL : Nat := 0x1705C
abbrev CIP_KEYWAIT : Nat := 0x17060
abbrev CIP_KEYMISS : Nat := 0x17064
abbrev KEY_STAT : Nat := 0x18040
abbrev KEY_NEXTEPOCH : Nat := 0x18044
abbrev KEY_SSEL : Nat := 0x18048
abbrev KEY_SLOT : Nat := 0x1804C
abbrev KEY_SEPOCH : Nat := 0x18050
abbrev KEY_SNONCE_LO : Nat := 0x18054
abbrev KEY_SNONCE_HI : Nat := 0x18058
abbrev KEY_SHWM_LO : Nat := 0x1805C
abbrev KEY_SHWM_HI : Nat := 0x18060
abbrev KEY_IMPORTS : Nat := 0x18064
abbrev KEY_REFUSED : Nat := 0x18068
abbrev KEY_RSVWAIT : Nat := 0x1806C
abbrev THM_SAMPLE : Nat := 0x19040
abbrev THM_SSEL : Nat := 0x19044
abbrev THM_RESULT : Nat := 0x19048
abbrev THM_RTS_LO : Nat := 0x1904C
abbrev THM_RTS_HI : Nat := 0x19050
abbrev THM_RATE : Nat := 0x19054
abbrev THM_CAL : Nat := 0x19058
abbrev THM_RISEHI : Nat := 0x1905C
abbrev THM_RISELO : Nat := 0x19060
abbrev THM_MINDT : Nat := 0x19064
abbrev THM_NOW_LO : Nat := 0x19068
abbrev THM_NOW_HI : Nat := 0x1906C
abbrev THM_TRIP : Nat := 0x19070
abbrev THM_TRIPCNT : Nat := 0x19074
abbrev THM_STAT : Nat := 0x19078
abbrev SNF_LEVEL : Nat := 0x1A040
abbrev SNF_CEIL : Nat := 0x1A044
abbrev SNF_HOLD : Nat := 0x1A048
abbrev SNF_TRIPLVL : Nat := 0x1A04C
abbrev SNF_DOWNS : Nat := 0x1A050
abbrev SNF_UPS : Nat := 0x1A054
abbrev SNF_FLOORHIT : Nat := 0x1A058
abbrev PWR_DOMCMD : Nat := 0x1C040
abbrev PWR_DOMSEL : Nat := 0x1C044
abbrev PWR_DOMSTAT : Nat := 0x1C048
abbrev PWR_ONMAP_LO : Nat := 0x1C04C
abbrev PWR_ONMAP_HI : Nat := 0x1C050
abbrev PWR_LASTERR : Nat := 0x1C054
abbrev PWR_SWITCHES : Nat := 0x1C058
abbrev PWR_PINS : Nat := 0x1C05C
abbrev CLK_LOCK : Nat := 0x1D040
abbrev CLK_FRATE : Nat := 0x1D044
abbrev CLK_KCLKHZ : Nat := 0x1D048
abbrev CLK_UNLOCK : Nat := 0x1D04C
abbrev ALM_CTRL : Nat := 0x1B040
abbrev ALM_STAT : Nat := 0x1B044
abbrev ALM_SEQ : Nat := 0x1B048
abbrev ALM_NEXTSEQ : Nat := 0x1B04C
abbrev ALM_POT : Nat := 0x1B050
abbrev ALM_PCC : Nat := 0x1B054
abbrev ALM_BATCHMS : Nat := 0x1B058
abbrev ALM_SEALMS : Nat := 0x1B05C
abbrev ALM_EXPORT : Nat := 0x1B060
abbrev ALM_LOST : Nat := 0x1B064
abbrev ALM_OVERWRITE : Nat := 0x1B068
abbrev ALM_PDROP : Nat := 0x1B06C
abbrev ALM_CRCFAIL : Nat := 0x1B070
abbrev ALM_EXPDROP : Nat := 0x1B074
abbrev ALM_PCOUNT : Nat := 0x1B078
abbrev ALM_RSEL : Nat := 0x1B07C
abbrev ALM_RSTAT : Nat := 0x1B080
abbrev TWN_CFG : Nat := 0x1E040
abbrev TWN_LINK : Nat := 0x1E044
abbrev TWN_RSYNCPCT : Nat := 0x1E048
abbrev TWN_DURMS : Nat := 0x1E04C
abbrev TWN_HOTMS : Nat := 0x1E050
abbrev TWN_RTT : Nat := 0x1E054
abbrev TWN_INFLIGHT : Nat := 0x1E058
abbrev TWN_TXFR_LO : Nat := 0x1E05C
abbrev TWN_TXFR_HI : Nat := 0x1E060
abbrev TWN_RXFR_LO : Nat := 0x1E064
abbrev TWN_RXFR_HI : Nat := 0x1E068
abbrev TWN_CRCERR : Nat := 0x1E06C
abbrev TWN_REPLAY : Nat := 0x1E070
abbrev TWN_RETRAIN : Nat := 0x1E074
abbrev TWN_LOSTCNT : Nat := 0x1E078
abbrev TWN_STALE : Nat := 0x1E07C
abbrev TWN_VSEL : Nat := 0x1E080
abbrev TWN_VSTAT : Nat := 0x1E084
abbrev TWN_VFENCE_LO : Nat := 0x1E088
abbrev TWN_VFENCE_HI : Nat := 0x1E08C
abbrev TWN_VDIRTY : Nat := 0x1E090

end Sys2Proof.Machine.Reg
end

