-- ==== Sys2Proof/Machine/RegTable.lean ====
section
/-! DEFINITION. The register tables of the manual, one row a register: page type, offset, access code of Table 00.3, whether it
is /M (R9), the bits that are not RSVD (R10), and the reset value. The rows of the common header stand apart (Table 02.3). -/

namespace Sys2Proof.Machine

/-- The access codes of Table 00.3. -/
inductive Acc where
  | ro | rw | rw1c | wo | rc | rs | rl
  deriving DecidableEq, Repr

/-- A register of a page type. -/
structure RegRow where
  key : Nat
  acc : Acc
  mgmt : Bool
  mask : Nat
  reset : Nat
  deriving DecidableEq, Repr

/-- Page type DEV. -/
def rowsDev : List RegRow := [
  { key := 0x1040, acc := .ro, mgmt := false, mask := 0xFFFF00FF, reset := 0x714000A2 }, -- DEV_ID
  { key := 0x1044, acc := .ro, mgmt := false, mask := 0xFFFF, reset := 0x2C51 }, -- DEV_VID
  { key := 0x1048, acc := .ro, mgmt := false, mask := 0x7FF, reset := 0x0 }, -- DEV_STATUS
  { key := 0x1100, acc := .rw1c, mgmt := false, mask := 0x7F, reset := 0x1 }, -- DEV_RST_CAUSE
  { key := 0x1104, acc := .ro, mgmt := false, mask := 0xFFFF, reset := 0x0 }, -- DEV_BOOT
  { key := 0x1108, acc := .wo, mgmt := false, mask := 0x1, reset := 0x0 }, -- DEV_BOOTCTL
  { key := 0x110C, acc := .wo, mgmt := false, mask := 0x1, reset := 0x0 }, -- DEV_SHDN
  { key := 0x1110, acc := .ro, mgmt := false, mask := 0x7, reset := 0x0 }, -- DEV_SHDN_STAT
  { key := 0x1114, acc := .rw, mgmt := true, mask := 0xFFFF, reset := 0x3E8 }, -- DEV_WDOG
  { key := 0x1118, acc := .ro, mgmt := false, mask := 0xFFFFFFFF, reset := 0x0 } ] -- DEV_WDOG_CNT

/-- Page type PF. -/
def rowsPf : List RegRow := [
  { key := 0x23040, acc := .wo, mgmt := false, mask := 0x7, reset := 0x0 }, -- PF_CTRL
  { key := 0x23044, acc := .ro, mgmt := false, mask := 0x1F, reset := 0x1 }, -- PF_STAT
  { key := 0x23048, acc := .ro, mgmt := false, mask := 0xFFFFFFFF, reset := 0x0 }, -- PF_DATA
  { key := 0x2304C, acc := .wo, mgmt := true, mask := 0xFFFFFFFF, reset := 0x0 }, -- PF_PUSH
  { key := 0x23050, acc := .ro, mgmt := false, mask := 0xFFFFFFFF, reset := 0x0 }, -- PF_LEVEL
  { key := 0x23054, acc := .ro, mgmt := false, mask := 0xFFFF, reset := 0x0 }, -- PF_HEADLEN
  { key := 0x23058, acc := .ro, mgmt := false, mask := 0xFFFF, reset := 0x0 }, -- PF_CFG
  { key := 0x2305C, acc := .rs, mgmt := true, mask := 0x3, reset := 0x2 }, -- PF_CONS
  { key := 0x23060, acc := .rc, mgmt := false, mask := 0xFFFFFFFF, reset := 0x0 }, -- PF_CHKFAIL
  { key := 0x23064, acc := .rc, mgmt := false, mask := 0xFFFFFFFF, reset := 0x0 }, -- PF_OVERSIZE
  { key := 0x23068, acc := .rc, mgmt := false, mask := 0xFFFFFFFF, reset := 0x0 }, -- PF_DROPS
  { key := 0x2306C, acc := .rc, mgmt := false, mask := 0xFFFFFFFF, reset := 0x0 } ] -- PF_FOREIGN

/-- Page type PORT. -/
def rowsPort : List RegRow := [
  { key := 0x2040, acc := .ro, mgmt := false, mask := 0xFFF, reset := 0x0 }, -- PORT_LINK
  { key := 0x2044, acc := .rs, mgmt := true, mask := 0xF, reset := 0xA }, -- PORT_CFG
  { key := 0x2048, acc := .rc, mgmt := false, mask := 0xFFFFFFFF, reset := 0x0 }, -- PORT_LINKDOWN
  { key := 0x204C, acc := .rc, mgmt := false, mask := 0xFFFFFFFF, reset := 0x0 }, -- PORT_WDROP
  { key := 0x2050, acc := .rc, mgmt := false, mask := 0xFFFFFFFF, reset := 0x0 }, -- PORT_B2DROP
  { key := 0x2054, acc := .rc, mgmt := false, mask := 0xFFFFFFFF, reset := 0x0 }, -- PORT_CRCERR
  { key := 0x2058, acc := .rc, mgmt := false, mask := 0xFFFFFFFF, reset := 0x0 }, -- PORT_LLRETRY
  { key := 0x205C, acc := .ro, mgmt := false, mask := 0xFFFFFFFF, reset := 0x0 }, -- PORT_MEMRD_LO
  { key := 0x2060, acc := .ro, mgmt := false, mask := 0xFFFFFFFF, reset := 0x0 }, -- PORT_MEMRD_HI
  { key := 0x2064, acc := .ro, mgmt := false, mask := 0xFFFFFFFF, reset := 0x0 }, -- PORT_MEMWR_LO
  { key := 0x2068, acc := .ro, mgmt := false, mask := 0xFFFFFFFF, reset := 0x0 }, -- PORT_MEMWR_HI
  { key := 0x206C, acc := .rc, mgmt := false, mask := 0xFFFFFFFF, reset := 0x0 }, -- PORT_POISON_TX
  { key := 0x2070, acc := .rc, mgmt := false, mask := 0xFFFFFFFF, reset := 0x0 }, -- PORT_POISON_RX
  { key := 0x2074, acc := .rc, mgmt := false, mask := 0xFFFFFFFF, reset := 0x0 }, -- PORT_NODEC
  { key := 0x2078, acc := .ro, mgmt := false, mask := 0x3, reset := 0x0 }, -- PORT_VIRAL
  { key := 0x207C, acc := .ro, mgmt := false, mask := 0x1FF01FF, reset := 0x0 } ] -- PORT_MEMINFL

/-- Page type QCT. -/
def rowsQct : List RegRow := [
  { key := 0x4040, acc := .rs, mgmt := true, mask := 0xFFFFFF, reset := 0x10408 }, -- QCT_ARB
  { key := 0x4044, acc := .rs, mgmt := true, mask := 0xF, reset := 0x8 }, -- QCT_BURST
  { key := 0x4048, acc := .rs, mgmt := true, mask := 0xFFF0FFF, reset := 0x0 }, -- QCT_SLOTRES
  { key := 0x404C, acc := .ro, mgmt := false, mask := 0x1FFF1FFF, reset := 0x0 }, -- QCT_SLOTS
  { key := 0x4050, acc := .ro, mgmt := false, mask := 0x1FFF1FFF, reset := 0x0 }, -- QCT_PORTSLOTS
  { key := 0x4054, acc := .ro, mgmt := false, mask := 0xFFFF, reset := 0x0 }, -- QCT_QCOUNT
  { key := 0x4058, acc := .rl, mgmt := false, mask := 0xFF, reset := 0x0 }, -- QCT_QSEL
  { key := 0x405C, acc := .ro, mgmt := false, mask := 0x1FFF007F, reset := 0x0 }, -- QCT_QCTX0
  { key := 0x4060, acc := .ro, mgmt := false, mask := 0x1FFF1FFF, reset := 0x0 }, -- QCT_QCTX1
  { key := 0x4064, acc := .ro, mgmt := false, mask := 0x9FFF1FFF, reset := 0x0 }, -- QCT_QCTX2
  { key := 0x4068, acc := .ro, mgmt := false, mask := 0x1FFF, reset := 0x0 }, -- QCT_QCTX3
  { key := 0x406C, acc := .ro, mgmt := false, mask := 0xFFFFFFFF, reset := 0x0 }, -- QCT_QCTX_SQB_LO
  { key := 0x4070, acc := .ro, mgmt := false, mask := 0xFFFFFFFF, reset := 0x0 }, -- QCT_QCTX_SQB_HI
  { key := 0x4074, acc := .ro, mgmt := false, mask := 0xFFFFFFFF, reset := 0x0 }, -- QCT_QCTX_CQB_LO
  { key := 0x4078, acc := .ro, mgmt := false, mask := 0xFFFFFFFF, reset := 0x0 }, -- QCT_QCTX_CQB_HI
  { key := 0x407C, acc := .ro, mgmt := false, mask := 0xFFFFFFFF, reset := 0x0 }, -- QCT_FETCH_LO
  { key := 0x4080, acc := .ro, mgmt := false, mask := 0xFFFFFFFF, reset := 0x0 }, -- QCT_FETCH_HI
  { key := 0x4084, acc := .rc, mgmt := false, mask := 0xFFFFFFFF, reset := 0x0 }, -- QCT_DUPTAG
  { key := 0x4088, acc := .rc, mgmt := false, mask := 0xFFFFFFFF, reset := 0x0 }, -- QCT_CRCERR
  { key := 0x408C, acc := .rc, mgmt := false, mask := 0xFFFFFFFF, reset := 0x0 } ] -- QCT_FETCHERR

/-- Page type DBL. -/
def rowsDbl : List RegRow := [
  { key := 0x5040, acc := .rc, mgmt := false, mask := 0xFFFFFFFF, reset := 0x0 }, -- DBL_BADDB
  { key := 0x5044, acc := .ro, mgmt := false, mask := 0x3FF, reset := 0x0 } ] -- DBL_LASTBAD

/-- Page type RLK. -/
def rowsRlk : List RegRow := [
  { key := 0x6040, acc := .ro, mgmt := false, mask := 0x1FFF1FFF, reset := 0x0 }, -- RLK_ACTIVE
  { key := 0x6044, acc := .ro, mgmt := false, mask := 0x1FFF1FFF, reset := 0x0 }, -- RLK_PEAK
  { key := 0x6048, acc := .ro, mgmt := false, mask := 0xFFFFFFFF, reset := 0x0 }, -- RLK_CONFL_LO
  { key := 0x604C, acc := .ro, mgmt := false, mask := 0xFFFFFFFF, reset := 0x0 }, -- RLK_CONFL_HI
  { key := 0x6050, acc := .rc, mgmt := false, mask := 0xFFFFFFFF, reset := 0x0 }, -- RLK_MAXWAIT
  { key := 0x6054, acc := .rl, mgmt := false, mask := 0xFFF, reset := 0x0 }, -- RLK_SEL
  { key := 0x6058, acc := .ro, mgmt := false, mask := 0x3FFFFF, reset := 0x0 }, -- RLK_ENT0
  { key := 0x605C, acc := .ro, mgmt := false, mask := 0xFFFFFFFF, reset := 0x0 }, -- RLK_ENT_SLBA_LO
  { key := 0x6060, acc := .ro, mgmt := false, mask := 0xFFFFFFFF, reset := 0x0 }, -- RLK_ENT_SLBA_HI
  { key := 0x6064, acc := .ro, mgmt := false, mask := 0xFFFF, reset := 0x0 }, -- RLK_ENT_NLB
  { key := 0x6068, acc := .ro, mgmt := false, mask := 0xFFFFFFFF, reset := 0x0 }, -- RLK_ENT_SEQ
  { key := 0x606C, acc := .ro, mgmt := false, mask := 0x1FFF, reset := 0x0 } ] -- RLK_ENT_WAIT

/-- Page type LMP. -/
def rowsLmp : List RegRow := [
  { key := 0x10040, acc := .rl, mgmt := false, mask := 0x3, reset := 0x0 }, -- LMP_RSEL
  { key := 0x10044, acc := .ro, mgmt := false, mask := 0xFF, reset := 0x0 }, -- LMP_RCFG
  { key := 0x10048, acc := .ro, mgmt := false, mask := 0xFFFFFFFF, reset := 0x0 }, -- LMP_RBASE_LO
  { key := 0x1004C, acc := .ro, mgmt := false, mask := 0xFFFFFFFF, reset := 0x0 }, -- LMP_RBASE_HI
  { key := 0x10050, acc := .ro, mgmt := false, mask := 0x3FFFFFF, reset := 0x0 }, -- LMP_RBLOCKS
  { key := 0x10054, acc := .ro, mgmt := false, mask := 0xFFFFFFFF, reset := 0x0 }, -- LMP_RDESC_LO
  { key := 0x10058, acc := .ro, mgmt := false, mask := 0xFFFFFFFF, reset := 0x0 }, -- LMP_RDESC_HI
  { key := 0x1005C, acc := .ro, mgmt := false, mask := 0xFFFFFFFF, reset := 0x0 }, -- LMP_FRAMES
  { key := 0x10060, acc := .ro, mgmt := false, mask := 0xFFFFFFFF, reset := 0x0 }, -- LMP_LIT
  { key := 0x10064, acc := .ro, mgmt := false, mask := 0xFFFFFFFF, reset := 0x0 }, -- LMP_DIRTY
  { key := 0x10068, acc := .ro, mgmt := false, mask := 0xFFFFFFFF, reset := 0x0 }, -- LMP_TAINTED
  { key := 0x1006C, acc := .rs, mgmt := true, mask := 0x1FFFFFF, reset := 0x0 }, -- LMP_DIRTYCAP
  { key := 0x10070, acc := .rs, mgmt := true, mask := 0x1FFFFFF, reset := 0x0 }, -- LMP_AUTOWB
  { key := 0x10074, acc := .ro, mgmt := false, mask := 0x7F, reset := 0x0 }, -- LMP_TOUCHQ
  { key := 0x10078, acc := .rc, mgmt := false, mask := 0xFFFFFFFF, reset := 0x0 }, -- LMP_TOUCHDROP
  { key := 0x1007C, acc := .rc, mgmt := false, mask := 0xFFFFFFFF, reset := 0x0 }, -- LMP_EARLYWR
  { key := 0x10080, acc := .rc, mgmt := false, mask := 0xFFFFFFFF, reset := 0x0 }, -- LMP_DARKRD
  { key := 0x10084, acc := .rc, mgmt := false, mask := 0xFFFFFFFF, reset := 0x0 }, -- LMP_DARKWR
  { key := 0x10088, acc := .rc, mgmt := false, mask := 0xFFFFFFFF, reset := 0x0 }, -- LMP_CAPHOLD
  { key := 0x1008C, acc := .rc, mgmt := false, mask := 0xFFFFFFFF, reset := 0x0 } ] -- LMP_LINELOST

/-- Page type LNT. -/
def rowsLnt : List RegRow := [
  { key := 0x11040, acc := .rl, mgmt := true, mask := 0x1, reset := 0x1 }, -- LNT_CTRL
  { key := 0x11044, acc := .ro, mgmt := false, mask := 0x1FFFF, reset := 0x0 }, -- LNT_STAT
  { key := 0x11048, acc := .ro, mgmt := false, mask := 0xFFFFFFFF, reset := 0x0 }, -- LNT_HIT_LO
  { key := 0x1104C, acc := .ro, mgmt := false, mask := 0xFFFFFFFF, reset := 0x0 }, -- LNT_HIT_HI
  { key := 0x11050, acc := .ro, mgmt := false, mask := 0xFFFFFFFF, reset := 0x0 }, -- LNT_MISS_LO
  { key := 0x11054, acc := .ro, mgmt := false, mask := 0xFFFFFFFF, reset := 0x0 }, -- LNT_MISS_HI
  { key := 0x11058, acc := .rc, mgmt := false, mask := 0xFFFFFFFF, reset := 0x0 }, -- LNT_PARERR
  { key := 0x1105C, acc := .rc, mgmt := false, mask := 0xFFFFFFFF, reset := 0x0 }, -- LNT_REDIRTY
  { key := 0x11060, acc := .rc, mgmt := false, mask := 0xFFFFFFFF, reset := 0x0 }, -- LNT_TAINTALL
  { key := 0x11064, acc := .rl, mgmt := false, mask := 0x3F, reset := 0x0 }, -- LNT_ESEL
  { key := 0x11068, acc := .ro, mgmt := false, mask := 0xFF, reset := 0x0 }, -- LNT_ENT
  { key := 0x1106C, acc := .ro, mgmt := false, mask := 0xFFFFFFF, reset := 0x0 } ] -- LNT_ENT_TAG

/-- Page type FCH. -/
def rowsFch : List RegRow := [
  { key := 0x20040, acc := .ro, mgmt := false, mask := 0x7FF, reset := 0x0 }, -- FCH_STAT
  { key := 0x20044, acc := .rs, mgmt := true, mask := 0x3FF, reset := 0x1A0 }, -- FCH_TOKMAX
  { key := 0x20048, acc := .ro, mgmt := false, mask := 0x3FF03FF, reset := 0x0 }, -- FCH_TOKNOW
  { key := 0x2004C, acc := .rs, mgmt := true, mask := 0xFFFF, reset := 0x0 }, -- FCH_SUSPALLOW
  { key := 0x20050, acc := .rs, mgmt := true, mask := 0x3FFF, reset := 0x384 }, -- FCH_POLL
  { key := 0x20054, acc := .rs, mgmt := true, mask := 0xFFFF, reset := 0x3E8 }, -- FCH_SVCWAIT
  { key := 0x20058, acc := .rs, mgmt := true, mask := 0xFFFF, reset := 0x64 }, -- FCH_SVCTMO
  { key := 0x2005C, acc := .rs, mgmt := true, mask := 0xFFFF, reset := 0x32 }, -- FCH_OPTMO
  { key := 0x20060, acc := .ro, mgmt := false, mask := 0xFFFFFFFF, reset := 0x0 }, -- FCH_QDEPTH
  { key := 0x20064, acc := .rc, mgmt := false, mask := 0xFFFFFFFF, reset := 0x0 }, -- FCH_SEQERR
  { key := 0x20068, acc := .rc, mgmt := false, mask := 0xFFFFFFFF, reset := 0x0 }, -- FCH_WPREF
  { key := 0x2006C, acc := .rc, mgmt := false, mask := 0xFFFFFFFF, reset := 0x0 }, -- FCH_EPEND
  { key := 0x20070, acc := .rc, mgmt := false, mask := 0xFFFFFFFF, reset := 0x0 }, -- FCH_SUSPENDS
  { key := 0x20074, acc := .rc, mgmt := false, mask := 0xFFFF, reset := 0x0 }, -- FCH_SUSPMAX
  { key := 0x20078, acc := .rc, mgmt := false, mask := 0xFFFFFFFF, reset := 0x0 }, -- FCH_TOKWAIT
  { key := 0x2007C, acc := .rc, mgmt := false, mask := 0xFFFFFFFF, reset := 0x0 }, -- FCH_APTDROP
  { key := 0x20080, acc := .rl, mgmt := false, mask := 0x3F, reset := 0x0 }, -- FCH_DSEL
  { key := 0x20084, acc := .ro, mgmt := false, mask := 0xFFFF007F, reset := 0x0 }, -- FCH_DCAP
  { key := 0x20088, acc := .rl, mgmt := false, mask := 0xF, reset := 0x0 }, -- FCH_PINSEL
  { key := 0x2008C, acc := .ro, mgmt := false, mask := 0x3F3F3F, reset := 0x0 }, -- FCH_DESKEW
  { key := 0x20090, acc := .ro, mgmt := false, mask := 0xFFFFFFFF, reset := 0x0 }, -- FCH_OPS_LO
  { key := 0x20094, acc := .ro, mgmt := false, mask := 0xFFFFFFFF, reset := 0x0 }, -- FCH_OPS_HI
  { key := 0x20098, acc := .rc, mgmt := false, mask := 0xFFFFFFFF, reset := 0x0 } ] -- FCH_OPTIMEOUT

/-- Page type WPT. -/
def rowsWpt : List RegRow := [
  { key := 0x1F040, acc := .rl, mgmt := false, mask := 0x7FF, reset := 0x0 }, -- WPT_DSEL
  { key := 0x1F044, acc := .ro, mgmt := false, mask := 0xFFFFFFFF, reset := 0x0 }, -- WPT_LO
  { key := 0x1F048, acc := .ro, mgmt := false, mask := 0xFFFFFFFF, reset := 0x0 }, -- WPT_HI
  { key := 0x1F04C, acc := .wo, mgmt := true, mask := 0xFFFFFFFF, reset := 0x0 }, -- WPT_SET_LO
  { key := 0x1F050, acc := .wo, mgmt := true, mask := 0xFFFFFFFF, reset := 0x0 }, -- WPT_SET_HI
  { key := 0x1F054, acc := .wo, mgmt := true, mask := 0xFFFFFFFF, reset := 0x0 }, -- WPT_ALLSET_LO
  { key := 0x1F058, acc := .wo, mgmt := true, mask := 0xFFFFFFFF, reset := 0x0 }, -- WPT_ALLSET_HI
  { key := 0x1F05C, acc := .rc, mgmt := false, mask := 0xFFFFFFFF, reset := 0x0 }, -- WPT_REFUSED
  { key := 0x1F060, acc := .ro, mgmt := false, mask := 0x7FFFF, reset := 0x0 } ] -- WPT_LAST

/-- Page type ECC. -/
def rowsEcc : List RegRow := [
  { key := 0x16040, acc := .rs, mgmt := true, mask := 0x3F, reset := 0x20 }, -- ECC_SOFTITER
  { key := 0x16044, acc := .rs, mgmt := true, mask := 0xF, reset := 0x4 }, -- ECC_SOFTDELTA
  { key := 0x16048, acc := .rs, mgmt := true, mask := 0x3FF, reset := 0xF0 }, -- ECC_REFTHR
  { key := 0x1604C, acc := .ro, mgmt := false, mask := 0x7F0F7F, reset := 0x0 }, -- ECC_SOFTQ
  { key := 0x16050, acc := .ro, mgmt := false, mask := 0xFFFFFFFF, reset := 0x0 }, -- ECC_CORR_LO
  { key := 0x16054, acc := .ro, mgmt := false, mask := 0xFFFFFFFF, reset := 0x0 }, -- ECC_CORR_HI
  { key := 0x16058, acc := .ro, mgmt := false, mask := 0xFFFFFFFF, reset := 0x0 }, -- ECC_LADDER_LO
  { key := 0x1605C, acc := .ro, mgmt := false, mask := 0xFFFFFFFF, reset := 0x0 }, -- ECC_LADDER_HI
  { key := 0x16060, acc := .ro, mgmt := false, mask := 0xFFFFFFFF, reset := 0x0 }, -- ECC_SOFT_LO
  { key := 0x16064, acc := .ro, mgmt := false, mask := 0xFFFFFFFF, reset := 0x0 }, -- ECC_SOFT_HI
  { key := 0x16068, acc := .ro, mgmt := false, mask := 0xFFFFFFFF, reset := 0x0 }, -- ECC_RECON_LO
  { key := 0x1606C, acc := .ro, mgmt := false, mask := 0xFFFFFFFF, reset := 0x0 }, -- ECC_RECON_HI
  { key := 0x16070, acc := .rc, mgmt := false, mask := 0xFFFFFFFF, reset := 0x0 }, -- ECC_UNREC
  { key := 0x16074, acc := .rc, mgmt := false, mask := 0xFFFFFFFF, reset := 0x0 }, -- ECC_AUTHFAIL
  { key := 0x16078, acc := .rc, mgmt := false, mask := 0xFFFFFFFF, reset := 0x0 }, -- ECC_MDMISS
  { key := 0x1607C, acc := .rc, mgmt := false, mask := 0xF, reset := 0x0 }, -- ECC_MAXSTEP
  { key := 0x16080, acc := .ro, mgmt := false, mask := 0xFFFFFFFF, reset := 0x0 }, -- ECC_ERASEMASK
  { key := 0x16084, acc := .ro, mgmt := false, mask := 0xFFFFFFFF, reset := 0x0 }, -- ECC_RETIRED
  { key := 0x16088, acc := .ro, mgmt := false, mask := 0x7F3F, reset := 0x0 }, -- ECC_RBSTAT
  { key := 0x1608C, acc := .ro, mgmt := false, mask := 0xFFFFFFFF, reset := 0x0 }, -- ECC_RBLEFT
  { key := 0x16090, acc := .rc, mgmt := false, mask := 0xFFFFFFFF, reset := 0x0 }, -- ECC_PROVREC
  { key := 0x16094, acc := .rl, mgmt := false, mask := 0xFFF, reset := 0x0 }, -- ECC_HMSEL
  { key := 0x16098, acc := .ro, mgmt := false, mask := 0x1FF, reset := 0x0 } ] -- ECC_HMAT

/-- Page type MAP. -/
def rowsMap : List RegRow := [
  { key := 0x12040, acc := .ro, mgmt := false, mask := 0xFFFFFFFF, reset := 0x0 }, -- MAP_ENTRIES_LO
  { key := 0x12044, acc := .ro, mgmt := false, mask := 0xFFFFFFFF, reset := 0x0 }, -- MAP_ENTRIES_HI
  { key := 0x12048, acc := .ro, mgmt := false, mask := 0x7FFFF, reset := 0x0 }, -- MAP_CHUNKS
  { key := 0x1204C, acc := .ro, mgmt := false, mask := 0x11FFF, reset := 0x0 }, -- MAP_RECOV
  { key := 0x12050, acc := .rc, mgmt := false, mask := 0xFFFFFFFF, reset := 0x0 }, -- MAP_RECOVCNT
  { key := 0x12054, acc := .rc, mgmt := false, mask := 0xFFFFFFFF, reset := 0x0 }, -- MAP_BADENT
  { key := 0x12058, acc := .ro, mgmt := false, mask := 0xFFFFFFFF, reset := 0x0 }, -- MAP_WSN_LO
  { key := 0x1205C, acc := .ro, mgmt := false, mask := 0xFFFFFFFF, reset := 0x0 }, -- MAP_WSN_HI
  { key := 0x12060, acc := .ro, mgmt := false, mask := 0xFFFFFFFF, reset := 0x0 }, -- MAP_FSN_LO
  { key := 0x12064, acc := .ro, mgmt := false, mask := 0xFF, reset := 0x0 }, -- MAP_FSN_HI
  { key := 0x12068, acc := .ro, mgmt := false, mask := 0xFFFFFFFF, reset := 0x0 }, -- MAP_INSTALL_LO
  { key := 0x1206C, acc := .ro, mgmt := false, mask := 0xFFFFFFFF, reset := 0x0 }, -- MAP_INSTALL_HI
  { key := 0x12070, acc := .rc, mgmt := false, mask := 0xFFFFFFFF, reset := 0x0 }, -- MAP_SUPERSEDED
  { key := 0x12074, acc := .rl, mgmt := false, mask := 0x3F, reset := 0x0 }, -- MAP_PVOL
  { key := 0x12078, acc := .rl, mgmt := false, mask := 0xFFFFFFFF, reset := 0x0 }, -- MAP_PLBA_LO
  { key := 0x1207C, acc := .rl, mgmt := false, mask := 0xFFFFFFFF, reset := 0x0 }, -- MAP_PLBA_HI
  { key := 0x12080, acc := .ro, mgmt := false, mask := 0x1F, reset := 0x0 }, -- MAP_PRES
  { key := 0x12084, acc := .ro, mgmt := false, mask := 0xFFFFFFFF, reset := 0x0 }, -- MAP_PENT_LO
  { key := 0x12088, acc := .ro, mgmt := false, mask := 0xFF, reset := 0x0 } ] -- MAP_PENT_HI

/-- Page type SOW. -/
def rowsSow : List RegRow := [
  { key := 0x13040, acc := .rs, mgmt := true, mask := 0xFFFF, reset := 0xC8 }, -- SOW_SEALUS
  { key := 0x13044, acc := .rs, mgmt := true, mask := 0x7F, reset := 0x4B }, -- SOW_HIWAT
  { key := 0x13048, acc := .ro, mgmt := false, mask := 0x3FFFFF, reset := 0x80000 }, -- SOW_BUFCAP
  { key := 0x1304C, acc := .ro, mgmt := false, mask := 0x3FFFFF, reset := 0x0 }, -- SOW_BUFUSED
  { key := 0x13050, acc := .ro, mgmt := false, mask := 0x3FFFFF, reset := 0x0 }, -- SOW_BUFOPEN
  { key := 0x13054, acc := .ro, mgmt := false, mask := 0x3FFFFF, reset := 0x0 }, -- SOW_HELD
  { key := 0x13058, acc := .rl, mgmt := false, mask := 0x7, reset := 0x0 }, -- SOW_OSEL
  { key := 0x1305C, acc := .ro, mgmt := false, mask := 0x3FFF, reset := 0x0 }, -- SOW_OSTAT
  { key := 0x13060, acc := .ro, mgmt := false, mask := 0xFFFFFFFF, reset := 0x0 }, -- SOW_OFSN_LO
  { key := 0x13064, acc := .ro, mgmt := false, mask := 0xFF, reset := 0x0 }, -- SOW_OFSN_HI
  { key := 0x13068, acc := .ro, mgmt := false, mask := 0xFFFFFFFF, reset := 0x0 }, -- SOW_OABSENT
  { key := 0x1306C, acc := .ro, mgmt := false, mask := 0xFFFFFFFF, reset := 0x0 }, -- SOW_OMASK
  { key := 0x13070, acc := .ro, mgmt := false, mask := 0xFFFFFFFF, reset := 0x0 }, -- SOW_PAGES_LO
  { key := 0x13074, acc := .ro, mgmt := false, mask := 0xFFFFFFFF, reset := 0x0 }, -- SOW_PAGES_HI
  { key := 0x13078, acc := .ro, mgmt := false, mask := 0xFFFFFFFF, reset := 0x0 }, -- SOW_RMW_LO
  { key := 0x1307C, acc := .ro, mgmt := false, mask := 0xFFFFFFFF, reset := 0x0 }, -- SOW_RMW_HI
  { key := 0x13080, acc := .rc, mgmt := false, mask := 0xFFFFFFFF, reset := 0x0 }, -- SOW_RMWFAIL
  { key := 0x13084, acc := .rc, mgmt := false, mask := 0xFFFFFFFF, reset := 0x0 }, -- SOW_FILLER
  { key := 0x13088, acc := .rc, mgmt := false, mask := 0xFFFFFFFF, reset := 0x0 }, -- SOW_PROGFAIL
  { key := 0x1308C, acc := .rc, mgmt := false, mask := 0xFFFFFFFF, reset := 0x0 } ] -- SOW_DISCARD

/-- Page type GLN. -/
def rowsGln : List RegRow := [
  { key := 0x14040, acc := .rs, mgmt := true, mask := 0xFF, reset := 0x4 }, -- GLN_WV
  { key := 0x14044, acc := .rs, mgmt := true, mask := 0xFF, reset := 0x8 }, -- GLN_WA
  { key := 0x14048, acc := .rs, mgmt := true, mask := 0xFF, reset := 0x10 }, -- GLN_WW
  { key := 0x1404C, acc := .rs, mgmt := true, mask := 0x3FFFF, reset := 0x40 }, -- GLN_HIWM
  { key := 0x14050, acc := .rs, mgmt := true, mask := 0x3FFFF, reset := 0x20 }, -- GLN_FLOOR
  { key := 0x14054, acc := .rs, mgmt := true, mask := 0x3FFFF, reset := 0x8 }, -- GLN_EXHTHR
  { key := 0x14058, acc := .rs, mgmt := true, mask := 0xFF, reset := 0x2 }, -- GLN_HYST
  { key := 0x1405C, acc := .rs, mgmt := true, mask := 0x7FF, reset := 0x200 }, -- GLN_LOWMIN
  { key := 0x14060, acc := .rs, mgmt := true, mask := 0x1F, reset := 0xE }, -- GLN_COLDAGE
  { key := 0x14064, acc := .rs, mgmt := true, mask := 0xFFFFFFFF, reset := 0x100000 }, -- GLN_DEBTMAX
  { key := 0x14068, acc := .rs, mgmt := true, mask := 0xFFFF, reset := 0xBB8 }, -- GLN_RATED
  { key := 0x1406C, acc := .rs, mgmt := true, mask := 0xFF, reset := 0x7 }, -- GLN_SCANDAYS
  { key := 0x14070, acc := .rs, mgmt := true, mask := 0xFFFFFF, reset := 0x30D40 }, -- GLN_RDDIST
  { key := 0x14074, acc := .ro, mgmt := false, mask := 0xF, reset := 0x0 }, -- GLN_STAT
  { key := 0x14078, acc := .ro, mgmt := false, mask := 0x3FFFF, reset := 0x0 }, -- GLN_FALLOW
  { key := 0x1407C, acc := .ro, mgmt := false, mask := 0x3FFFF, reset := 0x0 }, -- GLN_RELEASED
  { key := 0x14080, acc := .ro, mgmt := false, mask := 0x3FFFF, reset := 0x0 }, -- GLN_RELOCQ
  { key := 0x14084, acc := .ro, mgmt := false, mask := 0x3FFFF, reset := 0x0 }, -- GLN_RETIRED
  { key := 0x14088, acc := .ro, mgmt := false, mask := 0xFFFFFFFF, reset := 0x0 }, -- GLN_DEBT
  { key := 0x1408C, acc := .ro, mgmt := false, mask := 0xFFFFFFFF, reset := 0x0 }, -- GLN_VFSN_LO
  { key := 0x14090, acc := .ro, mgmt := false, mask := 0xFFFF, reset := 0x0 }, -- GLN_VFSN_HI
  { key := 0x14094, acc := .ro, mgmt := false, mask := 0xFFFFFFFF, reset := 0x0 }, -- GLN_COPIES_LO
  { key := 0x14098, acc := .ro, mgmt := false, mask := 0xFFFFFFFF, reset := 0x0 }, -- GLN_COPIES_HI
  { key := 0x1409C, acc := .ro, mgmt := false, mask := 0xFFFFFFFF, reset := 0x0 }, -- GLN_ERASES_LO
  { key := 0x140A0, acc := .ro, mgmt := false, mask := 0xFFFFFFFF, reset := 0x0 }, -- GLN_ERASES_HI
  { key := 0x140A4, acc := .rc, mgmt := false, mask := 0xFFFFFFFF, reset := 0x0 }, -- GLN_CASLOST
  { key := 0x140A8, acc := .rc, mgmt := false, mask := 0xFFFFFFFF, reset := 0x0 }, -- GLN_POISON
  { key := 0x140AC, acc := .rc, mgmt := false, mask := 0xFFFFFFFF, reset := 0x0 }, -- GLN_RESIDUAL
  { key := 0x140B0, acc := .rc, mgmt := false, mask := 0xFFFFFFFF, reset := 0x0 }, -- GLN_REFRESH
  { key := 0x140B4, acc := .rc, mgmt := false, mask := 0xFFFFFFFF, reset := 0x0 }, -- GLN_DISTURB
  { key := 0x140B8, acc := .ro, mgmt := false, mask := 0xFFFFFFFF, reset := 0x0 }, -- GLN_SCANPASS
  { key := 0x140BC, acc := .rl, mgmt := false, mask := 0x3FFFF, reset := 0x0 }, -- GLN_FSEL
  { key := 0x140C0, acc := .ro, mgmt := false, mask := 0xFF, reset := 0x0 }, -- GLN_FSTAT
  { key := 0x140C4, acc := .ro, mgmt := false, mask := 0xFFFFFFFF, reset := 0x0 }, -- GLN_FMASK
  { key := 0x140C8, acc := .ro, mgmt := false, mask := 0xFFFFF, reset := 0x0 }, -- GLN_FVALID
  { key := 0x140CC, acc := .ro, mgmt := false, mask := 0xFFFFF, reset := 0x0 } ] -- GLN_FPLACED

/-- Page type HDL. -/
def rowsHdl : List RegRow := [
  { key := 0x15040, acc := .ro, mgmt := false, mask := 0xFFFFFFFF, reset := 0x0 }, -- HDL_EPOCH_LO
  { key := 0x15044, acc := .ro, mgmt := false, mask := 0xFFFFFFFF, reset := 0x0 }, -- HDL_EPOCH_HI
  { key := 0x15048, acc := .ro, mgmt := false, mask := 0xFFFFFFFF, reset := 0x0 }, -- HDL_DURABLE_LO
  { key := 0x1504C, acc := .ro, mgmt := false, mask := 0xFFFFFFFF, reset := 0x0 }, -- HDL_DURABLE_HI
  { key := 0x15050, acc := .ro, mgmt := false, mask := 0x1F1F, reset := 0x0 }, -- HDL_WINDOW
  { key := 0x15054, acc := .rs, mgmt := true, mask := 0x1F, reset := 0x10 }, -- HDL_WINMAX
  { key := 0x15058, acc := .ro, mgmt := false, mask := 0xFFFFFFFF, reset := 0x0 }, -- HDL_RFSN_LO
  { key := 0x1505C, acc := .ro, mgmt := false, mask := 0xFF, reset := 0x0 }, -- HDL_RFSN_HI
  { key := 0x15060, acc := .ro, mgmt := false, mask := 0x1FFF1FFF, reset := 0x0 }, -- HDL_SEGS
  { key := 0x15064, acc := .rs, mgmt := true, mask := 0x1F, reset := 0x8 }, -- HDL_DELTACAP
  { key := 0x15068, acc := .rs, mgmt := true, mask := 0xFFFF, reset := 0x100 }, -- HDL_DIRINT
  { key := 0x1506C, acc := .rs, mgmt := true, mask := 0xFF, reset := 0x2 }, -- HDL_RESERVE
  { key := 0x15070, acc := .ro, mgmt := false, mask := 0x3FF03FF, reset := 0x0 }, -- HDL_FURROWS
  { key := 0x15074, acc := .ro, mgmt := false, mask := 0xFFFFFFFF, reset := 0x0 }, -- HDL_SEGWR_LO
  { key := 0x15078, acc := .ro, mgmt := false, mask := 0xFFFFFFFF, reset := 0x0 }, -- HDL_SEGWR_HI
  { key := 0x1507C, acc := .rc, mgmt := false, mask := 0xFFFFFFFF, reset := 0x0 }, -- HDL_WINHOLD
  { key := 0x15080, acc := .ro, mgmt := false, mask := 0xFFFFFFFF, reset := 0x0 }, -- HDL_PLPBUDGET_LO
  { key := 0x15084, acc := .ro, mgmt := false, mask := 0xFFFFFFFF, reset := 0x0 }, -- HDL_PLPBUDGET_HI
  { key := 0x15088, acc := .ro, mgmt := false, mask := 0x3FFFFF, reset := 0x0 }, -- HDL_BUFCAP
  { key := 0x1508C, acc := .rs, mgmt := true, mask := 0x7F, reset := 0x19 }, -- HDL_LAMPPCT
  { key := 0x15090, acc := .rs, mgmt := true, mask := 0xFFFF, reset := 0x3E8 }, -- HDL_FIXUS
  { key := 0x15094, acc := .ro, mgmt := false, mask := 0x1FFFF, reset := 0x7D0 }, -- HDL_MINHOLD
  { key := 0x15098, acc := .ro, mgmt := false, mask := 0x7, reset := 0x0 }, -- HDL_DUMPSTAT
  { key := 0x1509C, acc := .ro, mgmt := false, mask := 0xFFFFFFFF, reset := 0x0 }, -- HDL_DUMPCW
  { key := 0x150A0, acc := .ro, mgmt := false, mask := 0xFFFFFFFF, reset := 0x0 }, -- HDL_WEAR
  { key := 0x150A4, acc := .rs, mgmt := true, mask := 0xFFFFF, reset := 0xFFFF }, -- HDL_SLCRATED
  { key := 0x150A8, acc := .ro, mgmt := false, mask := 0xFFFFFFFF, reset := 0x0 } ] -- HDL_LOADMS

/-- Page type DRC. -/
def rowsDrc : List RegRow := [
  { key := 0x21040, acc := .ro, mgmt := false, mask := 0x3, reset := 0x0 }, -- DRC_STAT
  { key := 0x21044, acc := .rs, mgmt := true, mask := 0xFFFF, reset := 0x0 }, -- DRC_SPARE
  { key := 0x21048, acc := .rl, mgmt := false, mask := 0x3F, reset := 0x0 }, -- DRC_LSEL
  { key := 0x2104C, acc := .ro, mgmt := false, mask := 0x3F3F3F3F, reset := 0x0 }, -- DRC_EYE
  { key := 0x21050, acc := .rs, mgmt := true, mask := 0xF0F, reset := 0x803 }, -- DRC_RECAL
  { key := 0x21054, acc := .rs, mgmt := true, mask := 0x37, reset := 0x24 }, -- DRC_RFCFG
  { key := 0x21058, acc := .ro, mgmt := false, mask := 0x1FF, reset := 0x0 }, -- DRC_RFSTAT
  { key := 0x2105C, acc := .rs, mgmt := true, mask := 0xFF, reset := 0x18 }, -- DRC_SCRUBH
  { key := 0x21060, acc := .rs, mgmt := true, mask := 0xFFFF, reset := 0x400 }, -- DRC_SPARETHR
  { key := 0x21064, acc := .ro, mgmt := false, mask := 0xFFFFFFFF, reset := 0x0 }, -- DRC_CE_LO
  { key := 0x21068, acc := .ro, mgmt := false, mask := 0xFFFFFFFF, reset := 0x0 }, -- DRC_CE_HI
  { key := 0x2106C, acc := .rc, mgmt := false, mask := 0xFFFFFFFF, reset := 0x0 }, -- DRC_UE
  { key := 0x21070, acc := .ro, mgmt := false, mask := 0xFFFF, reset := 0x0 }, -- DRC_DEVCE
  { key := 0x21074, acc := .rc, mgmt := false, mask := 0xFFFFFFFF, reset := 0x0 }, -- DRC_CAPAR
  { key := 0x21078, acc := .rc, mgmt := false, mask := 0xFFFFFFFF, reset := 0x0 }, -- DRC_REPLAYFAIL
  { key := 0x2107C, acc := .rc, mgmt := false, mask := 0xFFFFFFFF, reset := 0x0 }, -- DRC_CATCHUP
  { key := 0x21080, acc := .ro, mgmt := false, mask := 0xFFFFFFFF, reset := 0x0 }, -- DRC_SCRUBPASS
  { key := 0x21084, acc := .ro, mgmt := false, mask := 0xFFFFFFFF, reset := 0x0 } ] -- DRC_SPAREPIN

/-- Page type DRG. -/
def rowsDrg : List RegRow := [
  { key := 0x22040, acc := .rs, mgmt := true, mask := 0x3F, reset := 0x4 }, -- DRG_CFG
  { key := 0x22044, acc := .rs, mgmt := true, mask := 0xF, reset := 0xC }, -- DRG_ILV
  { key := 0x22048, acc := .ro, mgmt := false, mask := 0x1FF, reset := 0x0 }, -- DRG_CAP
  { key := 0x2204C, acc := .ro, mgmt := false, mask := 0xFF, reset := 0x0 }, -- DRG_TRAIN
  { key := 0x22050, acc := .rl, mgmt := false, mask := 0xFFFFFFFF, reset := 0x0 }, -- DRG_PADDR_LO
  { key := 0x22054, acc := .rl, mgmt := false, mask := 0x3F, reset := 0x0 }, -- DRG_PADDR_HI
  { key := 0x22058, acc := .ro, mgmt := false, mask := 0xFFFF, reset := 0x0 }, -- DRG_PRES
  { key := 0x2205C, acc := .ro, mgmt := false, mask := 0x1FFFF, reset := 0x0 }, -- DRG_PROW
  { key := 0x22060, acc := .ro, mgmt := false, mask := 0xFFFFFFFF, reset := 0x0 }, -- DRG_CE_LO
  { key := 0x22064, acc := .ro, mgmt := false, mask := 0xFFFFFFFF, reset := 0x0 }, -- DRG_CE_HI
  { key := 0x22068, acc := .rc, mgmt := false, mask := 0xFFFFFFFF, reset := 0x0 } ] -- DRG_UE

/-- Page type CIP. -/
def rowsCip : List RegRow := [
  { key := 0x17040, acc := .ro, mgmt := false, mask := 0xFF, reset := 0x0 }, -- CIP_STAT
  { key := 0x17044, acc := .ro, mgmt := false, mask := 0xFFFFFFFF, reset := 0x0 }, -- CIP_ENC_LO
  { key := 0x17048, acc := .ro, mgmt := false, mask := 0xFFFFFFFF, reset := 0x0 }, -- CIP_ENC_HI
  { key := 0x1704C, acc := .ro, mgmt := false, mask := 0xFFFFFFFF, reset := 0x0 }, -- CIP_DEC_LO
  { key := 0x17050, acc := .ro, mgmt := false, mask := 0xFFFFFFFF, reset := 0x0 }, -- CIP_DEC_HI
  { key := 0x17054, acc := .ro, mgmt := false, mask := 0xFFFFFFFF, reset := 0x0 }, -- CIP_MAC_LO
  { key := 0x17058, acc := .ro, mgmt := false, mask := 0xFFFFFFFF, reset := 0x0 }, -- CIP_MAC_HI
  { key := 0x1705C, acc := .rc, mgmt := false, mask := 0xFFFFFFFF, reset := 0x0 }, -- CIP_TAGFAIL
  { key := 0x17060, acc := .rc, mgmt := false, mask := 0xFFFFFFFF, reset := 0x0 }, -- CIP_KEYWAIT
  { key := 0x17064, acc := .rc, mgmt := false, mask := 0xFFFFFFFF, reset := 0x0 } ] -- CIP_KEYMISS

/-- Page type KEY. -/
def rowsKey : List RegRow := [
  { key := 0x18040, acc := .ro, mgmt := false, mask := 0x1FFF, reset := 0x0 }, -- KEY_STAT
  { key := 0x18044, acc := .ro, mgmt := false, mask := 0xFFFFFFFF, reset := 0x1 }, -- KEY_NEXTEPOCH
  { key := 0x18048, acc := .rl, mgmt := false, mask := 0x3FF, reset := 0x0 }, -- KEY_SSEL
  { key := 0x1804C, acc := .ro, mgmt := false, mask := 0x1FF, reset := 0x0 }, -- KEY_SLOT
  { key := 0x18050, acc := .ro, mgmt := false, mask := 0xFFFFFFFF, reset := 0x0 }, -- KEY_SEPOCH
  { key := 0x18054, acc := .ro, mgmt := false, mask := 0xFFFFFFFF, reset := 0x0 }, -- KEY_SNONCE_LO
  { key := 0x18058, acc := .ro, mgmt := false, mask := 0xFFFFFFFF, reset := 0x0 }, -- KEY_SNONCE_HI
  { key := 0x1805C, acc := .ro, mgmt := false, mask := 0xFFFFFFFF, reset := 0x0 }, -- KEY_SHWM_LO
  { key := 0x18060, acc := .ro, mgmt := false, mask := 0xFFFFFFFF, reset := 0x0 }, -- KEY_SHWM_HI
  { key := 0x18064, acc := .rc, mgmt := false, mask := 0xFFFFFFFF, reset := 0x0 }, -- KEY_IMPORTS
  { key := 0x18068, acc := .rc, mgmt := false, mask := 0xFFFFFFFF, reset := 0x0 }, -- KEY_REFUSED
  { key := 0x1806C, acc := .rc, mgmt := false, mask := 0xFFFFFFFF, reset := 0x0 } ] -- KEY_RSVWAIT

/-- Page type THM. -/
def rowsThm : List RegRow := [
  { key := 0x19040, acc := .wo, mgmt := false, mask := 0xFFFF, reset := 0x0 }, -- THM_SAMPLE
  { key := 0x19044, acc := .rl, mgmt := false, mask := 0xF, reset := 0x0 }, -- THM_SSEL
  { key := 0x19048, acc := .ro, mgmt := false, mask := 0x30FFF, reset := 0x0 }, -- THM_RESULT
  { key := 0x1904C, acc := .ro, mgmt := false, mask := 0xFFFFFFFF, reset := 0x0 }, -- THM_RTS_LO
  { key := 0x19050, acc := .ro, mgmt := false, mask := 0xFFFF, reset := 0x0 }, -- THM_RTS_HI
  { key := 0x19054, acc := .ro, mgmt := false, mask := 0xFFFF, reset := 0x0 }, -- THM_RATE
  { key := 0x19058, acc := .ro, mgmt := false, mask := 0xFF, reset := 0x0 }, -- THM_CAL
  { key := 0x1905C, acc := .rs, mgmt := true, mask := 0xFFFF, reset := 0x80 }, -- THM_RISEHI
  { key := 0x19060, acc := .rs, mgmt := true, mask := 0xFFFF, reset := 0x10 }, -- THM_RISELO
  { key := 0x19064, acc := .rs, mgmt := true, mask := 0xFFFFFF, reset := 0x2710 }, -- THM_MINDT
  { key := 0x19068, acc := .ro, mgmt := false, mask := 0xFFFFFFFF, reset := 0x0 }, -- THM_NOW_LO
  { key := 0x1906C, acc := .ro, mgmt := false, mask := 0xFFFF, reset := 0x0 }, -- THM_NOW_HI
  { key := 0x19070, acc := .ro, mgmt := false, mask := 0x1, reset := 0x0 }, -- THM_TRIP
  { key := 0x19074, acc := .rc, mgmt := false, mask := 0xFFFFFFFF, reset := 0x0 }, -- THM_TRIPCNT
  { key := 0x19078, acc := .ro, mgmt := false, mask := 0xFFFF, reset := 0x0 } ] -- THM_STAT

/-- Page type SNF. -/
def rowsSnf : List RegRow := [
  { key := 0x1A040, acc := .ro, mgmt := false, mask := 0xF, reset := 0xF }, -- SNF_LEVEL
  { key := 0x1A044, acc := .rl, mgmt := false, mask := 0xF, reset := 0xF }, -- SNF_CEIL
  { key := 0x1A048, acc := .rs, mgmt := true, mask := 0xFFFF, reset := 0x3E8 }, -- SNF_HOLD
  { key := 0x1A04C, acc := .rs, mgmt := true, mask := 0xF, reset := 0x7 }, -- SNF_TRIPLVL
  { key := 0x1A050, acc := .rc, mgmt := false, mask := 0xFFFFFFFF, reset := 0x0 }, -- SNF_DOWNS
  { key := 0x1A054, acc := .rc, mgmt := false, mask := 0xFFFFFFFF, reset := 0x0 }, -- SNF_UPS
  { key := 0x1A058, acc := .rc, mgmt := false, mask := 0xFFFFFFFF, reset := 0x0 } ] -- SNF_FLOORHIT

/-- Page type PWR. -/
def rowsPwr : List RegRow := [
  { key := 0x1C040, acc := .wo, mgmt := false, mask := 0x13F, reset := 0x0 }, -- PWR_DOMCMD
  { key := 0x1C044, acc := .rl, mgmt := false, mask := 0x3F, reset := 0x0 }, -- PWR_DOMSEL
  { key := 0x1C048, acc := .ro, mgmt := false, mask := 0x1F, reset := 0x0 }, -- PWR_DOMSTAT
  { key := 0x1C04C, acc := .ro, mgmt := false, mask := 0xFFFFFFFF, reset := 0x0 }, -- PWR_ONMAP_LO
  { key := 0x1C050, acc := .ro, mgmt := false, mask := 0x1FFFF, reset := 0x0 }, -- PWR_ONMAP_HI
  { key := 0x1C054, acc := .ro, mgmt := false, mask := 0xFF, reset := 0x0 }, -- PWR_LASTERR
  { key := 0x1C058, acc := .rc, mgmt := false, mask := 0xFFFFFFFF, reset := 0x0 }, -- PWR_SWITCHES
  { key := 0x1C05C, acc := .ro, mgmt := false, mask := 0x7, reset := 0x0 } ] -- PWR_PINS

/-- Page type CLK. -/
def rowsClk : List RegRow := [
  { key := 0x1D040, acc := .ro, mgmt := false, mask := 0xFFF, reset := 0x0 }, -- CLK_LOCK
  { key := 0x1D044, acc := .ro, mgmt := false, mask := 0xFFFF, reset := 0x0 }, -- CLK_FRATE
  { key := 0x1D048, acc := .ro, mgmt := false, mask := 0xFFFFFFFF, reset := 0x0 }, -- CLK_KCLKHZ
  { key := 0x1D04C, acc := .rc, mgmt := false, mask := 0xFFFFFFFF, reset := 0x0 } ] -- CLK_UNLOCK

/-- Page type ALM. -/
def rowsAlm : List RegRow := [
  { key := 0x1B040, acc := .rl, mgmt := true, mask := 0x3, reset := 0x0 }, -- ALM_CTRL
  { key := 0x1B044, acc := .ro, mgmt := false, mask := 0x7FFF, reset := 0x1 }, -- ALM_STAT
  { key := 0x1B048, acc := .ro, mgmt := false, mask := 0xFFFFFFFF, reset := 0x0 }, -- ALM_SEQ
  { key := 0x1B04C, acc := .ro, mgmt := false, mask := 0xFFFFFFFF, reset := 0x0 }, -- ALM_NEXTSEQ
  { key := 0x1B050, acc := .ro, mgmt := false, mask := 0xFFFFFFFF, reset := 0x0 }, -- ALM_POT
  { key := 0x1B054, acc := .ro, mgmt := false, mask := 0xFFFFFFFF, reset := 0x0 }, -- ALM_PCC
  { key := 0x1B058, acc := .rs, mgmt := true, mask := 0xFFFF, reset := 0x3E8 }, -- ALM_BATCHMS
  { key := 0x1B05C, acc := .rs, mgmt := true, mask := 0xFFFF, reset := 0x3E8 }, -- ALM_SEALMS
  { key := 0x1B060, acc := .rs, mgmt := true, mask := 0x7, reset := 0x2 }, -- ALM_EXPORT
  { key := 0x1B064, acc := .rc, mgmt := false, mask := 0xFFFFFFFF, reset := 0x0 }, -- ALM_LOST
  { key := 0x1B068, acc := .rc, mgmt := false, mask := 0xFFFFFFFF, reset := 0x0 }, -- ALM_OVERWRITE
  { key := 0x1B06C, acc := .rc, mgmt := false, mask := 0xFFFFFFFF, reset := 0x0 }, -- ALM_PDROP
  { key := 0x1B070, acc := .rc, mgmt := false, mask := 0xFFFFFFFF, reset := 0x0 }, -- ALM_CRCFAIL
  { key := 0x1B074, acc := .rc, mgmt := false, mask := 0xFFFFFFFF, reset := 0x0 }, -- ALM_EXPDROP
  { key := 0x1B078, acc := .ro, mgmt := false, mask := 0x3FFFF, reset := 0x0 }, -- ALM_PCOUNT
  { key := 0x1B07C, acc := .rl, mgmt := false, mask := 0x7FF, reset := 0x0 }, -- ALM_RSEL
  { key := 0x1B080, acc := .ro, mgmt := false, mask := 0x7, reset := 0x0 } ] -- ALM_RSTAT

/-- Page type TWN. -/
def rowsTwn : List RegRow := [
  { key := 0x1E040, acc := .rs, mgmt := true, mask := 0x7, reset := 0x1 }, -- TWN_CFG
  { key := 0x1E044, acc := .ro, mgmt := false, mask := 0x1FF, reset := 0x0 }, -- TWN_LINK
  { key := 0x1E048, acc := .rs, mgmt := true, mask := 0x7F, reset := 0x32 }, -- TWN_RSYNCPCT
  { key := 0x1E04C, acc := .rs, mgmt := true, mask := 0xFFFF, reset := 0x64 }, -- TWN_DURMS
  { key := 0x1E050, acc := .rs, mgmt := true, mask := 0xFFFF, reset := 0x3E8 }, -- TWN_HOTMS
  { key := 0x1E054, acc := .ro, mgmt := false, mask := 0xFFFF, reset := 0x0 }, -- TWN_RTT
  { key := 0x1E058, acc := .ro, mgmt := false, mask := 0x7F007F, reset := 0x0 }, -- TWN_INFLIGHT
  { key := 0x1E05C, acc := .ro, mgmt := false, mask := 0xFFFFFFFF, reset := 0x0 }, -- TWN_TXFR_LO
  { key := 0x1E060, acc := .ro, mgmt := false, mask := 0xFFFFFFFF, reset := 0x0 }, -- TWN_TXFR_HI
  { key := 0x1E064, acc := .ro, mgmt := false, mask := 0xFFFFFFFF, reset := 0x0 }, -- TWN_RXFR_LO
  { key := 0x1E068, acc := .ro, mgmt := false, mask := 0xFFFFFFFF, reset := 0x0 }, -- TWN_RXFR_HI
  { key := 0x1E06C, acc := .rc, mgmt := false, mask := 0xFFFFFFFF, reset := 0x0 }, -- TWN_CRCERR
  { key := 0x1E070, acc := .rc, mgmt := false, mask := 0xFFFFFFFF, reset := 0x0 }, -- TWN_REPLAY
  { key := 0x1E074, acc := .rc, mgmt := false, mask := 0xFFFFFFFF, reset := 0x0 }, -- TWN_RETRAIN
  { key := 0x1E078, acc := .rc, mgmt := false, mask := 0xFFFFFFFF, reset := 0x0 }, -- TWN_LOSTCNT
  { key := 0x1E07C, acc := .rc, mgmt := false, mask := 0xFFFFFFFF, reset := 0x0 }, -- TWN_STALE
  { key := 0x1E080, acc := .rl, mgmt := false, mask := 0x3F, reset := 0x0 }, -- TWN_VSEL
  { key := 0x1E084, acc := .ro, mgmt := false, mask := 0x7F00003F, reset := 0x0 }, -- TWN_VSTAT
  { key := 0x1E088, acc := .ro, mgmt := false, mask := 0xFFFFFFFF, reset := 0x0 }, -- TWN_VFENCE_LO
  { key := 0x1E08C, acc := .ro, mgmt := false, mask := 0xFFFFFFFF, reset := 0x0 }, -- TWN_VFENCE_HI
  { key := 0x1E090, acc := .ro, mgmt := false, mask := 0x7FFFFF, reset := 0x0 } ] -- TWN_VDIRTY

/-- Every register row of the manual but the runs of like registers: doorbells, ALM_REC, TWN_PSER. -/
def regTable : List RegRow :=
  rowsDev ++ rowsPf ++ rowsPort ++ rowsQct ++ rowsDbl ++ rowsRlk ++
  rowsLmp ++ rowsLnt ++ rowsFch ++ rowsWpt ++ rowsEcc ++ rowsMap ++
  rowsSow ++ rowsGln ++ rowsHdl ++ rowsDrc ++ rowsDrg ++ rowsCip ++
  rowsKey ++ rowsThm ++ rowsSnf ++ rowsPwr ++ rowsClk ++ rowsAlm ++
  rowsTwn

/-- The runs of like registers (Tables 05.12, 16.7, 17.10). -/
def runRow (key : Nat) : Option RegRow :=
  if 0x5100 ≤ key ∧ key < 0x5900 ∧ key % 4 = 0 then some { key, acc := .rl, mgmt := false, mask := 0x1FFF, reset := 0 }
  else if (0x1B100 ≤ key ∧ key < 0x1B180 ∨ 0x1E094 ≤ key ∧ key < 0x1E0A8) ∧ key % 4 = 0 then
    some { key, acc := .ro, mgmt := false, mask := 0xFFFFFFFF, reset := 0 }
  else none

/-- The row of a register by page type and offset. -/
def rowOf (key : Nat) : Option RegRow :=
  match runRow key with
  | some r => some r
  | none => regTable.find? fun r => r.key == key

end Sys2Proof.Machine
end

