-- ==== Sys2Proof/Machine/SMap.lean ====
section
/-! DEFINITION. The one form of keyed state: a list of (key, value) pairs with keys strictly rising and no pair equal to what
an unlisted key reads as. Registers, map entries, frame lines, furrows and every other sparse table of State are held so. -/

namespace Sys2Proof.Machine

/-- Sparse data by key, canonical under `SMap.wf`. -/
abbrev SMap (α : Type) := List (Nat × α)

/-- The value at key k; `d` is what an unlisted key reads as. -/
def SMap.get {α : Type} (d : α) : SMap α → Nat → α
  | [], _ => d
  | (k', v) :: m, k => if k = k' then v else SMap.get d m k

/-- Insert or replace without regard to the default. -/
def SMap.put {α : Type} : SMap α → Nat → α → SMap α
  | [], k, v => [(k, v)]
  | (k', v') :: m, k, v =>
    if k = k' then (k, v) :: m else if k < k' then (k, v) :: (k', v') :: m else (k', v') :: SMap.put m k v

/-- Take a key out. -/
def SMap.del {α : Type} : SMap α → Nat → SMap α
  | [], _ => []
  | (k', v') :: m, k => if k = k' then SMap.del m k else (k', v') :: SMap.del m k

/-- Write v at k: writing what an unlisted key reads as removes the entry. -/
def SMap.set {α : Type} [DecidableEq α] (d : α) (m : SMap α) (k : Nat) (v : α) : SMap α :=
  if v = d then SMap.del m k else SMap.put m k v

/-- Change the value at k. -/
def SMap.modify {α : Type} [DecidableEq α] (d : α) (m : SMap α) (k : Nat) (f : α → α) : SMap α :=
  SMap.set d m k (f (SMap.get d m k))

/-- Keys strictly rising, the first at or above `lo`. -/
def SMap.rising {α : Type} : SMap α → Nat → Bool
  | [], _ => true
  | (k, _) :: m, lo => decide (lo ≤ k) && SMap.rising m (k + 1)

/-- The canonical form: keys strictly rising, no entry equal to what its key reads as when unlisted. -/
def SMap.wf {α : Type} [DecidableEq α] (d : Nat → α) (m : SMap α) : Bool :=
  SMap.rising m 0 && m.all fun e => decide (e.2 ≠ d e.1)

end Sys2Proof.Machine
end

