-- ==== Sys2Proof/Machine/State.lean ====
section
/-! DEFINITION. The state of the RK-7140 as plain data, the reasons a step can stop, and the machine after reset. Every
field's default is its value at reset; where the manual gives none, the assumption log names the value (entries 1 to 9). -/

namespace Sys2Proof.Machine

/-! ### Register pages (chapter 02) -/

/-- PG_STATE.STATE (Table 02.4). -/
inductive PageSt where
  | off | stopped | starting | running | stopping | faulted
  deriving DecidableEq, Repr

/-- What the common header holds of one page (Table 02.3), and whether a service action holds the page stopped (R19). -/
structure PageHdr where
  st : PageSt := .off
  err : Word := 0
  mask : Word := 0
  seq : Word := 0
  gen : Word := 0
  held : Bool := false
  deriving DecidableEq, Repr

/-- The stored registers. `r` and `c64` are keyed by the address in BAR0 as management firmware sees it; a register of which
each agent has its own copy is keyed 0x800000 × agent above that. `low` holds the low words that R35 holds back. -/
structure Regs where
  r : SMap Word := []
  c64 : SMap (BitVec 64) := []
  low : SMap Word := []
  pg : SMap PageHdr := []
  deriving DecidableEq, Repr

/-- One packet FIFO (R45 to R52). `vis` is what the consumer sees, each word with its END mark; `hidden` holds committed
packets that have not crossed the synchroniser; `opn` the open packet. -/
structure Fifo where
  vis : List (Word × Bool) := []
  hidden : List (List Word) := []
  opn : List Word := []
  endNext : Bool := false
  last : Word := 0
  eop : Bool := false
  underrun : Bool := false
  stalled : Option (Word × Bool) := none
  partPopped : Bool := false
  deriving DecidableEq, Repr

/-! ### The device (chapters 01, 03) -/

/-- DEV_STATUS.STATE (Table 01.2). -/
inductive DevSt where
  | boot | adminReady | ioReady | degraded | service | failed
  deriving DecidableEq, Repr

/-- DEV_SHDN_STAT.PHASE (Table 03.6). -/
inductive Phase where
  | idle | quiesce | lamp | drain | checkpoint | done | abandoned | failed
  deriving DecidableEq, Repr

/-- Where the power-fail sequence of Table 12.6 stands: not running; steps 1 to 3; step 4; at its end. -/
inductive PfStep where
  | none | ending | writing | over
  deriving DecidableEq, Repr

/-- What started a write-out (R57, R97, R299). -/
inductive DumpFor where
  | powerFail | resetPin | smbReset | gpf
  deriving DecidableEq, Repr

/-- The device as a whole. -/
structure Dev where
  st : DevSt := .boot
  pwrgd : Bool := true
  resetN : Bool := true
  pfailN : Bool := true
  /-- DEV_RST_CAUSE (Table 03.8). -/
  cause : Word := 1
  /-- Fields of DEV_BOOT (Table 03.8). -/
  stage : Nat := 0
  bootErr : Nat := 0
  slot : Fin 2 := 0
  fallback : Bool := false
  recovery : Bool := false
  strap : BitVec 3 := 0
  clean : Bool := false
  unformatted : Bool := false
  /-- Slots already found bad in this boot or restart (R62). -/
  tried : List (Fin 2) := []
  /-- The boot ROM is checking a slot: a start-up or a watchdog restart (R58). -/
  checking : Bool := false
  phase : Phase := .idle
  /-- The running shutdown came from an ORDERLY request (R446). -/
  orderly : Bool := false
  pf : PfStep := .none
  /-- A write-out in progress in capacitor-backed mode. -/
  dump : Option DumpFor := none
  /-- The internal reset is held behind the write-out (R57). -/
  resetHeld : Bool := false
  /-- A GPF Phase 2 waits for its acknowledgement, by port (R97). -/
  gpfWait : PerPort Bool := { p0 := false, p1 := false }
  fwRunning : Bool := false
  /-- A watchdog restart found no slot (R58, R83): FW Halt. -/
  fwHalt : Bool := false
  memActive : Bool := false
  dramDone : BitVec 4 := 0
  dramFail : BitVec 4 := 0
  flashDone : Word := 0
  flashFail : Word := 0
  /-- Step 9 is over, so volumes are known. -/
  loaded : Bool := false
  /-- Step 10 is over (Table 22.7). -/
  started : Bool := false
  /-- A root is awaited whose durability ends start-up (R292). -/
  startRoot : Bool := false
  /-- The format state of the boot record (R65, R279). -/
  formatted : Bool := false
  /-- Which condition of R18 holds: 0 none, then its place in the list of R18. -/
  failCause : Nat := 0
  /-- PLLs locked: MCLK, QCLK, ACLK, TWCLK, FCLK groups (R359). -/
  mclk : Bool := false
  qclk : Bool := false
  aclk : Bool := false
  twclk : Bool := false
  fclk : BitVec 8 := 0
  deriving DecidableEq, Repr

/-! ### Ports (chapter 04) -/

/-- One HDM decoder (R89). -/
structure Hdm where
  base : Nat := 0
  size : Nat := 0
  skip : Nat := 0
  committed : Bool := false
  lock : Bool := false
  err : Bool := false
  deriving DecidableEq, Repr

/-- One port. `everUp` is since the last device reset (R17). -/
structure PortSt where
  perst : Bool := true
  up : Bool := false
  everUp : Bool := false
  training : Bool := false
  speed : Nat := 0
  width : Nat := 0
  cxl : Bool := false
  rev : Bool := false
  d3 : Bool := false
  hdm : SMap Hdm := []
  unlocked : Bool := false
  challenge : Option (BitVec 384) := none
  viralTx : Bool := false
  viralRx : Bool := false
  /-- CXL.mem requests in flight (PORT_MEMINFL.NOW). -/
  inflight : Nat := 0
  doeError : Bool := false
  /-- RAS capability (R94, R95): poison received, an internal error, and the header of the request that met the first error. -/
  rasPoison : Bool := false
  rasUncorrectable : Bool := false
  rasHeader : BitVec 512 := 0
  /-- What the host has written to configuration space, by register (R81, R96), and to the HDM decoders' registers (R89). -/
  cfg : SMap Word := []
  hdmReg : SMap Word := []
  /-- How much of `out` had been sent when the mailbox's registers were last reset: its status shows later answers (R87). -/
  mboxFrom : Nat := 0
  /-- Background Command Status: opcode, percentage, return code, extended status (R84, R87). -/
  bgOpcode : Nat := 0
  bgPct : Nat := 0
  bgRc : Nat := 0
  bgExt : Nat := 0
  deriving DecidableEq, Repr

/-! ### Administration (chapters 06, 18, 21) -/

/-- The features of Table 06.6 that hold one value each. -/
structure Features where
  wbufGib : Nat := 8
  plmode : Nat := 0
  holdupUs : Nat := 2000
  boardMw : Nat := 0
  poolGib : Nat := 96
  partnerLost : Nat := 0
  thermMs : Nat := 50
  frateCap : Nat := 1
  deriving DecidableEq, Repr

/-- A firmware slot (R142, R336). -/
structure FwSlot where
  valid : Bool := true
  img : Image := {}
  deriving DecidableEq, Repr

/-- An open Transfer FW: its port, slot, and where the next part begins, in bytes (R142). -/
structure Transfer where
  port : Port
  slot : Fin 2
  next : Nat
  deriving DecidableEq, Repr

/-- The background operation that runs (R86). -/
inductive BgOp where
  | volCreate (v : Vid)
  | volFormat (v : Vid)
  | volDelete (v : Vid)
  | keyRotate (slot : Nat)
  | activate (slot : Fin 2)
  | svcStop (pg : Page)
  | svcStart (pg : Page) (gen : Word)
  | svcStopChangeStart (pg : Page) (pairs : List (Nat × Word)) (gen : Word)
  | svcRetrain (pg : Page)
  | svcRetire (c : Chan)
  deriving DecidableEq, Repr

/-- `orphan`: its port has been reset, so its outcome goes to the health log and the Almanac (Table 03.7). -/
structure Bg where
  port : Port
  op : BgOp
  orphan : Bool := false
  deriving DecidableEq, Repr

/-- A record of a CXL event log (R88): which kind, the facts it names, and the Almanac time in its vendor data. -/
inductive EvKind where
  | media (dpa : Nat) | dram (ch : Nat) | module (st : DevSt) | vendor (words : List Word)
  deriving DecidableEq, Repr

structure EvRec where
  handle : Nat
  kind : EvKind
  pot : Word
  pcc : Word
  deriving DecidableEq, Repr

structure EvLog where
  recs : List EvRec := []
  overflow : Nat := 0
  next : Nat := 1
  deriving DecidableEq, Repr

/-- The counts of the health log that are kept from the first format (Table 06.4). -/
structure Health where
  popErr : Nat := 0
  unrec : Nat := 0
  authFail : Nat := 0
  recon : Nat := 0
  wfault : Nat := 0
  dramCe : Nat := 0
  dramUe : Nat := 0
  grownBad : Nat := 0
  intErase : Nat := 0
  unclean : Nat := 0
  /-- CRIT as last computed for the sideband window (Table 22.7). -/
  tripSeen : Bool := false
  /-- U0 and N0 of R274, fixed at the first format. -/
  u0 : Nat := 0
  n0 : Nat := 0
  spare : Nat := 100
  /-- Opcode and status of the last background operation whose port had been reset (Table 03.7). -/
  orphan : Option (Nat × Nat) := none
  deriving DecidableEq, Repr

/-- What the board carries: geometry, DRAM, identity (R21, R303, Table 06.2). -/
structure Board where
  targets : Nat := 1
  dies : Nat := 1
  planes : Nat := 1
  pages : Nat := 1
  blocks : Nat := 1
  slcPages : Nat := 1
  tprogMaxUs : Nat := 1600
  tprogSlcUs : Nat := 145
  slcNative : Bool := true
  /-- The Device Serial Number. -/
  dsn : BitVec 64 := 0
  smbAddr : BitVec 2 := 0
  testMode : Bool := false
  deriving DecidableEq, Repr

structure Admin where
  now : Features := {}
  nxt : Features := {}
  serviceKey : Option (BitVec 776) := none
  svFloor : Nat := 0
  fw : PerPort FwSlot := { p0 := {}, p1 := {} }
  active : Fin 2 := 0
  xfer : Option Transfer := none
  /-- The hitless switch: its slot and whether doorbells are paused (Table 06.10 steps 1 to 3, then 4). -/
  hitless : Option (Fin 2 × Bool) := none
  bg : Option Bg := none
  /-- Mailbox commands whose doorbells have been rung and that wait their turn, in that order (R86, R144). -/
  mboxQ : List (Port × Instr) := []
  sigFails : Nat := 0
  sigLocked : Bool := false
  ev : SMap EvLog := []
  /-- The poison list (R95): DPA, length in lines, source code. -/
  poison : List (Nat × Nat × Nat) := []
  poisonOver : Bool := false
  health : Health := {}
  board : Board := {}
  /-- The power-loss mode in effect since start-up (PLM of Table 06.2). -/
  plm : Nat := 0
  deriving DecidableEq, Repr

/-! ### Command queues (chapter 05) -/

/-- R104. -/
inductive QpSt where
  | absent | active | deleting | faulted
  deriving DecidableEq, Repr

/-- A queue pair (R101 to R105). -/
structure Qp where
  st : QpSt := .absent
  port : Port := .p0
  cls : Nat := 0
  depth : Nat := 0
  crc : Bool := false
  dbErr : Bool := false
  sqBase : Nat := 0
  cqBase : Nat := 0
  fetch : Nat := 0
  tail : Nat := 0
  cqTail : Nat := 0
  cqHead : Nat := 0
  phase : Bool := true
  inflight : Nat := 0
  /-- The mailbox that waits for the end of QUEUE_DELETE. -/
  delBy : Option Port := none
  deriving DecidableEq, Repr

/-- Where a command slot stands: its fetch read is outstanding; its entry waits for the admission point; it waits in the
range-lock table; admitted, its work not begun; its work runs, short of its commit point; past its commit point. -/
inductive Stage where
  | fetching | waiting | blocked | admitted | running | committed
  deriving DecidableEq, Repr

/-- What a command still needs to be durable (R122): a buffered version by its number; a confirmed page's place in a stripe,
until final or provisional parity protects it; a deallocation record by its number; the partner's answer to a transfer. -/
inductive Cover where
  | version (id : Nat)
  | stripe (fsn page : Nat) (ch : Chan)
  | record (id : Nat)
  | partner (xid : Nat)
  deriving DecidableEq, Repr

/-- Whose command a slot holds: a host's, a touch light's (R159), a write-back's (R165), a resync piece's (R392). -/
inductive CmdKind where
  | host | touch | autowb | resync
  deriving DecidableEq, Repr

/-- A command slot. `todo` are the offsets of LBs whose work is outstanding, `fails` the failed ones with their status. -/
structure Cmd where
  kind : CmdKind := .host
  qid : Option (Fin 256) := none
  port : Option Port := none
  sqhd : Nat := 0
  entry : Entry := 0
  stage : Stage := .fetching
  wait : List Nat := []
  seq : Word := 0
  locked : Bool := false
  sglPending : Bool := false
  sgl : List (BitVec 128) := []
  stalled : Bool := false
  todo : List Nat := []
  /-- Host reads of a WRITE's data that the port has not sent yet (R78): the LB, address and length. -/
  unsent : List (Nat × Nat × Nat) := []
  fails : List (Nat × Nat) := []
  rebuilt : Nat := 0
  done : Nat := 0
  cover : List Cover := []
  covering : Bool := false
  /-- The write-back of the page at the head of `todo` has begun (R160, R161). -/
  copying : Bool := false
  /-- Versions that hold LBs of this command. -/
  vers : List Nat := []
  /-- A twin transfer sent for this command and not yet acknowledged, and the partner's refusal if any. -/
  xid : Option Nat := none
  partnerStatus : Nat := 0
  deriving DecidableEq, Repr

/-- A fetch read of a queue (R117); a wrapping fetch is two reads of one group. -/
structure FetchRd where
  id : Nat
  group : Nat
  qid : Fin 256
  slots : List Nat
  back : Bool
  deriving DecidableEq, Repr

structure Queues where
  qp : SMap Qp := []
  cmd : SMap Cmd := []
  /-- Slots in use, ascending; slots whose entries wait at the admission point, in order. -/
  used : List Nat := []
  adm : List Nat := []
  fetches : List FetchRd := []
  nextFetch : Nat := 0
  /-- The arbiter of R117. -/
  cur : Fin 3 := 0
  credit : List Int := [8, 4, 1]
  rr : List Nat := [255, 255, 255]
  rlkSeq : Word := 0
  /-- ABORT commands carried to the queue core, oldest first (R125). -/
  aborts : List (Port × BitVec 12) := []
  deriving DecidableEq, Repr

/-! ### Volumes, map and write buffer (chapters 06, 10) -/

inductive VolSt where
  | absent | formatting | ready | readOnly | faulted
  deriving DecidableEq, Repr

/-- Table 17.4. -/
inductive TwinSt where
  | none | inSync | resyncing | lost | stale | handover
  deriving DecidableEq, Repr

inductive VolOp where
  | create | format | delete
  deriving DecidableEq, Repr

structure Vol where
  st : VolSt := .absent
  layout1 : Bool := false
  enc : Bool := false
  keySlot : Nat := 0
  size : Nat := 0
  chunks : List Nat := []
  fmtWsn : Nat := 0
  fence : Nat := 0
  mirrored : Bool := false
  owner : Bool := false
  twin : TwinSt := .none
  /-- The volume command in progress (R139), its new layout and key, whether its work has been done, R140's INTERNAL. -/
  op : Option VolOp := none
  newLayout1 : Bool := false
  newEnc : Bool := false
  newKey : Nat := 0
  worked : Bool := false
  internal : Bool := false
  pkeySlot : Nat := 0
  mapValid : Bool := false
  /-- A later fence epoch, with the role and state it brings, that waits for its DEFINITION record (R383). -/
  pendFence : Option (Nat × Bool × TwinSt) := none
  /-- The region bitmaps of R389 as ascending lists of regions. -/
  unconf : List Nat := []
  dirty : List Nat := []
  deriving DecidableEq, Repr

/-- 0xFF_FFFF_FFFF (Table 10.2). -/
def unmapped : BitVec 40 := 0xFFFFFFFFFF
/-- 0xFF_FFFF_FFFE (Table 10.2). -/
def poisoned : BitVec 40 := 0xFFFFFFFFFE

inductive CwKind where
  | erased | data | filler | system | parity | raw
  deriving DecidableEq, Repr

/-- A stored codeword by its plaintext and metadata (Tables 09.1 and 09.2). -/
structure Cw where
  kind : CwKind := .erased
  vol : Nat := 0
  enc : Bool := false
  keySlot : Nat := 0
  epoch : Nat := 0
  lba : Nat := 0
  wsn : Nat := 0
  nonce : Nat := 0
  fsn : Nat := 0
  copy : Bool := false
  lampwb : Bool := false
  data : Block := 0
  /-- Payload and TAG as the cipher produced them (R319, R322); P or Q where it is a parity codeword (R223). -/
  payload : Block := 0
  tag : BitVec 128 := 0
  par : Body := 0
  /-- The tag that reached flash is the right one (R324). -/
  tagOk : Bool := true
  /-- A raw program or erase destroyed it; parity still holds it (R196). -/
  gone : Bool := false
  deriving DecidableEq, Repr

/-- A buffered MU version (R239 to R242). -/
inductive VerSt where
  | opn | sealed | complete | placed | held
  deriving DecidableEq, Repr

structure Ver where
  id : Nat
  vol : Vid
  mu : Nat
  mask : BitVec 4
  data : SMap Block
  wsn : Nat
  st : VerSt
  pos : Fin 8
  lampwb : BitVec 4
  /-- RMW reads outstanding (LBs) and whether one failed. -/
  rmwTodo : List Nat
  rmwFail : Bool
  /-- LBs lost to a DRAM error (Table 13.4). -/
  lost : BitVec 4
  /-- Precedence under a FLUSH or FUA write (R249). -/
  pri : Bool
  /-- Holds an LB of a command whose completion has been built (R122). -/
  cov : Bool
  /-- May be placed from the reserve (R264): accepted below EXHAUSTED, or zeros of a DEALLOCATE. -/
  rsv : Bool
  /-- Its page failed and it waits to be placed again (R250). -/
  again : Bool
  deriving DecidableEq, Repr

/-- An open furrow of a position (R245): its page offset, its next member in walk order, the channels in the accumulator,
pages in flight, and whether it closes at this stripe. -/
structure OpenF where
  furrow : Nat
  fsn : Nat
  layout1 : Bool
  absent : Word
  page : Nat
  walk : Nat
  mask : Word
  flying : Nat
  parityLeft : Nat
  parityBad : Nat
  closing : Bool
  /-- The running P and Q of the stripe, by 4 × plane + slot (R224). -/
  accP : SMap Body := []
  accQ : SMap Body := []
  deriving DecidableEq, Repr

/-- What one plane of a member page holds. -/
inductive PlaneItem where
  | version (id : Nat)
  | copy (id : Nat)
  | filler
  deriving DecidableEq, Repr

/-- A member page program in flight. -/
structure PagePgm where
  id : Nat
  pos : Fin 8
  furrow : Nat
  fsn : Nat
  chan : Chan
  page : Nat
  items : List PlaneItem
  /-- Its codewords, four a plane in ascending plane order. -/
  cws : List Cw
  parity : Bool
  deriving DecidableEq, Repr

/-- A confirmed version whose stripe no parity protects yet (R122): where its page lies. -/
structure Unprot where
  vol : Vid
  fsn : Nat
  page : Nat
  ch : Chan
  cov : Bool
  ver : Nat
  deriving DecidableEq, Repr

structure Buf where
  vers : List Ver := []
  nextId : Nat := 0
  opn : SMap OpenF := []
  pgms : List PagePgm := []
  unprot : List Unprot := []
  nextPgm : Nat := 0
  /-- WSN and FSN handed out next (R237, R238); 0 before the first format. -/
  wsn : Nat := 0
  fsn : Nat := 0
  limit : Bool := false
  deriving DecidableEq, Repr

/-- A map update that waits for a segment under recovery (R251): an install, with the version that stays in the buffer until then, or
a compare-and-set from a source address. -/
structure WaitUpd where
  entry : Nat
  addr : BitVec 40
  wsn : Nat
  cas : Option (BitVec 40)
  ver : Option Nat := none
  deriving DecidableEq, Repr

structure Vols where
  v : SMap Vol := []
  map : SMap (BitVec 40) := []
  usercap : Nat := 0
  entries : Nat := 0
  /-- The segment under recovery (R251), and installs that wait for it. -/
  recov : Option Nat := none
  waiting : List WaitUpd := []
  /-- Map segments loaded again after a DRAM error during the replay (Table 12.8). -/
  reloaded : List Nat := []
  /-- WSN of the version installed last at an entry, for the comparison of R248. -/
  inst : SMap Nat := []
  deriving DecidableEq, Repr

/-! ### Lamp window (chapter 07) -/

structure Region where
  defined : Bool := false
  lot : Bool := false
  vol : Vid := 0
  base : Nat := 0
  size : Nat := 0
  desc : Nat := 0
  deriving DecidableEq, Repr

/-- A lamp-block descriptor (Table 07.3); FVALID is `frame ≠ none`. -/
structure Desc where
  frame : Option Nat := none
  lit : BitVec 512 := 0
  dirty : BitVec 512 := 0
  pendl : BitVec 128 := 0
  pendw : BitVec 128 := 0
  tsrc : BitVec 128 := 0
  taintAll : Bool := false
  deriving DecidableEq, Repr

inductive LntSt where
  | invalid | clean | dirty | evicting
  deriving DecidableEq, Repr

/-- A Lantern entry (R168). -/
structure LntEnt where
  st : LntSt := .invalid
  redirty : Bool := false
  err : Nat := 0
  off : Bool := false
  tag : Nat := 0
  deriving DecidableEq, Repr

inductive LntMode where
  | enabled | flushing | disabled
  deriving DecidableEq, Repr

/-- A CXL.mem request that waits, for a descriptor fetch or at the dirty cap. -/
inductive LampReq where
  | rd (p : Port) (dpa : Nat) (e : MemErr)
  | wr (p : Port) (dpa : Nat) (d : Line)
  | poisonWr (p : Port) (dpa : Nat)
  /-- A write whose link went down behind it (R99). -/
  | wrMute (p : Port) (dpa : Nat) (d : Line)
  | poisonMute (p : Port) (dpa : Nat)
  deriving DecidableEq, Repr

structure LampFetch where
  tag : Nat
  reqs : List LampReq
  deriving DecidableEq, Repr

structure Lamp where
  reg : SMap Region := []
  desc : SMap Desc := []
  /-- Lines of the frames, keyed 32,768 × frame + line; lines lost; owner (k << 26) + b of each frame taken. -/
  line : SMap Line := []
  lost : List Nat := []
  owner : List (Nat × Nat) := []
  frames : Nat := 0
  /-- DRAM address of frame 0 (R25). -/
  poolBase : Nat := 0
  lnt : SMap LntEnt := []
  victim : Nat := 0
  mode : LntMode := .enabled
  enPend : Bool := false
  fetches : List LampFetch := []
  /-- Further misses that wait for a fetch to return (R169). -/
  late : List LampReq := []
  touch : List (Nat × Nat) := []
  capHeld : List LampReq := []
  /-- The next frame that the automatic write-back scans (R165). -/
  scan : Nat := 0
  /-- LMP_DIRTY has reached LMP_DIRTYCAP (PG_ERR.BLK bit 18). -/
  capSeen : Bool := false
  deriving DecidableEq, Repr

/-! ### Flash channels (chapters 08, 09) -/

/-- Block states of Table 11.1 that are kept per block; `normal` carries the state of its furrow. -/
inductive BlkSt where
  | normal | factoryBad | grownBad | erasing | eraseSuspended | eraseInterrupted | fallow
  deriving DecidableEq, Repr

structure Blk where
  st : BlkSt := .normal
  erases : Nat := 0
  reads : Nat := 0
  intr : Nat := 0
  step : Nat := 0
  /-- Interrupted by a WP refusal: not erased again before the next device reset (Table 11.1). -/
  wpHeld : Bool := false
  deriving DecidableEq, Repr

/-- A grown-table entry (Table 11.6). -/
structure Grown where
  block : Nat
  cause : Nat
  pot : Word
  deriving DecidableEq, Repr

/-- One die: its capabilities, its erase, its protect bits and its bad-block tables. -/
structure DieSt where
  info : Option DieInfo := none
  erun : Option Nat := none
  esusp : Option Nat := none
  suspends : Nat := 0
  inInterval : Bool := false
  /-- Operation that runs on the die, and the read or nested program beside a suspended erase. -/
  op : Option Nat := none
  step : Nat := 0
  wp : BitVec 64 := 0
  grown : List Grown := []
  subst : SMap Nat := []
  /-- APT_STAT.CODE and OPC, and the retry step, of each agent's service port (R194, R193). -/
  code : PerAgent Nat := { p0 := 0, p1 := 0, mgmt := 0 }
  opc : PerAgent Nat := { p0 := 0, p1 := 0, mgmt := 0 }
  retry : PerAgent Nat := { p0 := 0, p1 := 0, mgmt := 0 }
  /-- The feature registers of the die that SET_FEATURE wrote. -/
  feat : SMap Word := []
  /-- Page in the cache register and the agent that filled it (R193). -/
  cache : Option (Nat × Agent) := none
  deriving DecidableEq, Repr

/-- The requesters of Table 08.4. -/
inductive Req where
  | q0 | q1 | q2 | q3 | svc (a : Agent)
  deriving DecidableEq, Repr

/-- The parameters of one aperture command (Table 08.6), latched when its code is written (R192). -/
structure Apt where
  page : Nat := 0
  block : Nat := 0
  planes : Nat := 0
  buf : Nat := 0
  step : Nat := 0
  fa : Nat := 0
  fval : Word := 0
  col : Nat := 0
  len : Nat := 0
  slc : Bool := false
  deriving DecidableEq, Repr

/-- What a channel operation does. -/
inductive OpKind where
  | readCw (task : Nat)
  | program (pgm : Nat)
  | headland (rec : Nat) (nested : Bool)
  | erase (block : Nat) (system : Bool)
  | svc (code : Nat) (x : Apt)
  deriving DecidableEq, Repr

/-- A channel operation, queued or issued to its die. -/
structure Op where
  id : Nat
  ch : Chan
  row : Row
  req : Req
  kind : OpKind
  issued : Bool
  rank0 : Bool
  waited : Bool
  /-- An outbound transfer that waits for room in PFF4 (R196). -/
  stalled : Bool
  /-- The staged words that a service-port program moved to the die, by byte. -/
  data : SMap Word := []
  deriving DecidableEq, Repr

/-- The place of a codeword in its parity group (R222). -/
inductive PeerRole where
  | p | q | data (i : Nat)
  deriving DecidableEq, Repr

/-- How the read of a peer stands: not asked for; in stages 1 to 3; its bytes are at hand; unavailable (R225). -/
inductive PeerSt where
  | unasked | reading | good | bad
  deriving DecidableEq, Repr

structure Peer where
  role : PeerRole
  ch : Chan
  st : PeerSt
  body : Body := 0
  deriving DecidableEq, Repr

/-- A group as its reconstruction began (R226, R232): the data index of the codeword that is rebuilt, and its peers. -/
structure Group where
  me : Nat
  peers : List Peer
  deriving DecidableEq, Repr

/-- Whom a codeword read serves; a peer's read serves the reconstruction of another task. -/
inductive RdFor where
  | peer (task : Nat) (role : PeerRole)
  | cmd (slot : Nat) (off : Nat)
  | light (slot : Nat) (off : Nat)
  | rmw (ver : Nat) (lb : Nat)
  | resync (slot : Nat) (off : Nat)
  deriving DecidableEq, Repr

/-- A data codeword read that escalates through Table 09.3. -/
structure RdTask where
  id : Nat
  addr : BitVec 40
  vol : Vid
  lba : Nat
  stage : Nat
  tagRetry : Bool
  who : List RdFor
  /-- At stage 3 the offsets of the four further sensings, in voltage-shift units (R218). -/
  sens : List Int := []
  /-- At stage 4 the group; none where no parity covers the codeword. -/
  grp : Option Group := none
  deriving DecidableEq, Repr

/-- A decoded LB of a LIGHT whose 64 lines wait to be written (R158). -/
structure Fill where
  task : Nat
  slot : Nat
  off : Nat
  data : Block
  deriving DecidableEq, Repr

/-- One channel engine. -/
structure Chn where
  rate : Nat := 0
  trained : Bool := false
  deskew : Bool := false
  extqual : Bool := false
  windows : List (Nat × Nat × Nat) := []
  /-- The Snuffer level of the budget it last received (R347). -/
  level : Nat := 15
  /-- Which of Q2 and Q3 is served next where they alternate (Table 08.4). -/
  turn3 : Bool := false
  stage0 : SMap Word := []
  stage1 : SMap Word := []
  deriving DecidableEq, Repr

/-- Sequence state of one agent (R191). -/
inductive SeqSt where
  | idle | u1 | u2
  deriving DecidableEq, Repr

structure SeqS where
  st : SeqSt := .idle
  die : Die := 0
  deriving DecidableEq, Repr

structure Flash where
  ch : SMap Chn := []
  die : SMap DieSt := []
  blk : SMap Blk := []
  /-- Codewords by 40-bit physical unit address (Table 10.1). -/
  cw : SMap Cw := []
  /-- Plane pages that the service port programmed, by the address of slot 0: their words by byte (R196). -/
  raw : SMap (SMap Word) := []
  ops : List Op := []
  /-- Outbound transfers that wait, in the order in which their dies became ready (R187). -/
  xfers : List Nat := []
  /-- Service-port erases that a device reset cut off: die and block (R66). -/
  cut : List (Nat × Nat) := []
  nextOp : Nat := 0
  tasks : List RdTask := []
  nextTask : Nat := 0
  fills : List Fill := []
  seq : PerAgent SeqS := { p0 := {}, p1 := {}, mgmt := {} }
  par : PerAgent (SMap Word) := { p0 := [], p1 := [], mgmt := [] }
  trip : Bool := false
  /-- Protect bits set on every die, and on every T0 die by the boot ROM (R205, R211). -/
  wpAll : BitVec 64 := 0
  wpT0 : BitVec 64 := 0
  /-- Soft requests queued, engines busy, peak (ECC_SOFTQ). -/
  softTasks : List Nat := []
  retired : Word := 0
  rbActive : Bool := false
  rbChan : Nat := 0
  rbTotal : Nat := 0
  /-- Stripes that the furrows held on flash when the controller stopped: what a scan of them finds (R291). -/
  scan : SMap Nat := []
  deriving DecidableEq, Repr

/-! ### Gleaner (chapter 11) -/

/-- GLN_FSTAT.STATE without the erase states of single members. -/
inductive FurSt where
  | fallow | opn | closed | gleaning | released | erasing | none
  deriving DecidableEq, Repr

/-- A furrow-table entry (R255). -/
structure Fur where
  st : FurSt := .none
  fsn : Nat := 0
  layout1 : Bool := false
  absent : Word := 0
  lost : Word := 0
  placed : Nat := 0
  valid : Nat := 0
  refresh : Bool := false
  relocate : Bool := false
  retired : Bool := false
  /-- Epoch of the root that must be durable before the erase (R268). -/
  eRel : Nat := 0
  /-- Members whose erase has not completed. -/
  toErase : Word := 0
  /-- Stripes programmed; parity from provisional records for these pages. -/
  stripes : Nat := 0
  deriving DecidableEq, Repr

/-- A victim in progress (R259): its furrow, the walk's next place, its rank-4 counts. -/
structure Victim where
  furrow : Nat
  rank4 : Bool
  cold : Bool
  page : Nat
  walk : Nat
  plane : Nat
  v0 : Nat
  t0 : Nat
  walked : Bool
  /-- Positions of which no slot could be read. -/
  unidentified : Nat := 0
  /-- Plane pages to be read again, since their copies are no longer staged (Table 11.4). -/
  again : List (BitVec 40) := []
  deriving DecidableEq, Repr

/-- A staged copy (R265, R266). -/
structure Copy where
  id : Nat
  vol : Vid
  mu : Nat
  src : BitVec 40
  wsn : Nat
  data : SMap Block
  lampwb : BitVec 4
  pos : Fin 8
  flying : Bool
  deriving DecidableEq, Repr

inductive Urgency where
  | low | normal | urgent | exhausted
  deriving DecidableEq, Repr

structure Glean where
  fur : SMap Fur := []
  vic0 : Option Victim := none
  vic1 : Option Victim := none
  copies : List Copy := []
  nextCopy : Nat := 0
  level : Urgency := .low
  debt : Nat := 0
  /-- Good furrow positions of the device, fixed by the first format. -/
  rated : Nat := 3000
  ratedSaved : Option Nat := none
  /-- Whose turn it is where both victims have a source read ready: that of ranks 1 to 3 (R259). -/
  turnLow : Bool := true
  /-- A residual search is due: its furrow (R265). -/
  residual : Option Nat := none
  deriving DecidableEq, Repr

/-! ### Headland (chapter 12) -/

/-- What a DEFINITION record holds (Table 12.3). -/
structure Defn where
  vols : SMap Vol := []
  regions : SMap Region := []
  features : Features := {}
  serviceKey : Option (BitVec 776) := none
  keys : SMap (Nat × Nat × BitVec 256 × Nat) := []
  nextEpoch : Nat := 1
  devsalt : Option (BitVec 256) := none
  partner : BitVec 160 := 0
  spare : SMap Word := []
  retired : Word := 0
  usercap : Nat := 0
  /-- Map entries, fixed at the first format (R25). -/
  entries : Nat := 0
  rated : Option Nat := none
  deriving DecidableEq, Repr

/-- The bad-block tables of a die as they are checkpointed (R272, R273, R283). -/
structure BadTab where
  grown : List Grown := []
  subst : SMap Nat := []
  deriving DecidableEq, Repr

/-- What the newest usable root gives a start-up: the checkpointed map and tables, and the root's own fields. -/
structure Ckpt where
  epoch : Nat := 0
  clean : Bool := false
  dump : Bool := false
  /-- FLAGS.CAP, and SEGID: the segment written just before (Table 12.4). -/
  cap : Bool := false
  segId : Option Nat := none
  replayFsn : Nat := 0
  nextFsn : Nat := 0
  wsn : Nat := 0
  map : SMap (BitVec 40) := []
  fur : SMap Fur := []
  blk : SMap Blk := []
  bad : SMap BadTab := []
  defn : Defn := {}
  /-- Record numbers of the newest table-segment records, by segment, and of this root. -/
  tabRec : SMap Nat := []
  pos : Nat := 0
  dumped : List Ver := []
  deriving DecidableEq, Repr

/-- A provisional parity record (R230): its stripe, the data members it includes, and P and Q of each group by 4 × plane + slot. -/
structure ProvRec where
  furrow : Nat
  fsn : Nat
  page : Nat
  layout1 : Bool
  absent : Word
  mask : Word
  p : SMap Body
  q : SMap Body
  deriving DecidableEq, Repr

/-- What a BLOCK_BAD record tells: the failure, or the substitution or retirement that followed it (Table 12.3, R272). -/
inductive BadEnd where
  | failed | spare (s index : Nat) | retired
  deriving DecidableEq, Repr

/-- The body of a headland record (Table 12.3). A DUMP record holds the data codewords of one version. -/
inductive HBody where
  | root (k : Ckpt)
  | seg (id : Nat) (full : Bool) (entries : List (Nat × BitVec 40))
  | directory
  | definition (d : Defn)
  | furrowOpen (furrow fsn : Nat) (pos : Fin 8) (layout1 : Bool) (absent : Word)
  | eraseBegin (furrow : Nat) (members : Word)
  | eraseDone (furrows : List Nat)
  | blockBad (die : Nat) (block cause : Nat) (pot : Word) (what : BadEnd)
  | dealloc (vol : Vid) (mu count wsn : Nat)
  | poison (vol : Vid) (mu wsn : Nat)
  | provpar (x : ProvRec)
  | nonce (slot : Nat) (epoch hwm : Nat)
  | dump (ver cws : Nat)
  | dumpIndex (seq cws : Nat) (complete : Bool)
  deriving DecidableEq, Repr

/-- A record of the headland log (R281). -/
structure HRec where
  id : Nat
  body : HBody
  epoch : Nat
  /-- Some page of it is not confirmed. -/
  flying : Bool
  durable : Bool
  /-- Headland furrows that hold it, and its place in log order. -/
  furs : List Nat
  pos : Nat
  deriving DecidableEq, Repr

/-- Who waits for a record's durability. The last two are of a command whose mailbox was reset meanwhile: nobody is answered. -/
inductive Waiter where
  | mbox (p : Port) (opcode : Nat)
  | keyImport (p : Port) (slot : Nat)
  | keyRotate (slot : Nat)
  | keyRetire (p : Port)
  | volume (v : Vid)
  | region (p : Port) (k : Nat) (r : Region)
  | feature (p : Port)
  | retire (c : Chan)
  | takeover (v : Vid)
  | importAlone (slot : Nat)
  | regionAlone (k : Nat) (r : Region)
  deriving DecidableEq, Repr

/-- A segment: dirty, covered FSN, chain size in bytes (R283 to R285). -/
structure Seg where
  dirty : Bool := false
  cov : Nat := 0
  chain : Nat := 0
  full : Bool := false
  deriving DecidableEq, Repr

inductive HFurSt where
  | fallow | opn | closed | released | erasing | dead
  deriving DecidableEq, Repr

structure HFur where
  st : HFurSt := .fallow
  fsn : Nat := 0
  absent : Word := 0
  lost : Word := 0
  eRel : Nat := 0
  used : Nat := 0
  deriving DecidableEq, Repr

structure Headland where
  fur : SMap HFur := []
  opn : Option Nat := none
  /-- Records asked for and not yet appended, each under its number; the log; who waits for a record, and whether also for a
  root behind it. -/
  want : List (Nat × HBody) := []
  log : List HRec := []
  nextRec : Nat := 0
  nextPos : Nat := 1
  waiters : List (Nat × Bool × Waiter) := []
  epoch : Nat := 0
  durable : Nat := 0
  seg : SMap Seg := []
  /-- Checkpoints of the durable roots, newest first, and the segment records since the newest root. -/
  roots : List Ckpt := []
  /-- The newest segment images, of which the next root is made (R283 to R286). -/
  img : Ckpt := {}
  sinceDir : Nat := 0
  needRoot : Bool := false
  cleanRoot : Bool := false
  winPeak : Nat := 0
  budget : Nat := 0
  bufCap : Nat := 0
  minHold : Nat := 2000
  dumpValid : Bool := false
  dumpPartial : Bool := false
  dumpActive : Bool := false
  dumpCw : Nat := 0
  /-- The sequence number of the newest dump. -/
  dumpSeq : Nat := 0
  /-- Versions written out by the newest dump, and those read back and not yet durable. -/
  dumped : List Ver := []
  dumpWait : List Nat := []
  erases : SMap Nat := []
  /-- Volume commands whose ending DEFINITION record and root are not durable (R140), by volume. -/
  marks : SMap Vol := []
  deriving DecidableEq, Repr

/-! ### DRAM channels (chapter 13) -/

structure Drc where
  trained : Bool := false
  /-- Marked device and pin mask per subchannel rank 2 × sc + rank (R311); 0 none. -/
  marked : SMap Nat := []
  pins : SMap Nat := []
  /-- Corrected lines of this pass, keyed 5 × subrank + device, and pins that carried them. -/
  devCe : SMap Nat := []
  passPins : SMap Nat := []
  /-- Eye of each lane, keyed 10 × subrank + 2 × lane + dir: centre in use, trained centre, left, right. -/
  eye : SMap (Nat × Nat × Nat × Nat) := []
  nextLane : Nat := 0
  doubled : Bool := false
  catchup : Bool := false
  owed : Nat := 0
  mr4 : Nat := 0
  normals : Nat := 0
  fails : Nat := 0
  deriving DecidableEq, Repr

/-! ### Keys and identity (chapter 14) -/

inductive KeySt where
  | empty | loaded | exhausted | halted
  deriving DecidableEq, Repr

/-- A key slot (Table 14.2, R326, R327); `hwm` is the highest durable reservation. -/
structure KeySlot where
  st : KeySt := .empty
  epoch : Nat := 0
  nonce : Nat := 0
  hwm : Nat := 0
  asked : Nat := 0
  key : BitVec 256 := 0
  importing : Bool := false
  rotating : Option Nat := none
  /-- Encryptions wait for the next block (R327), already counted. -/
  waiting : Bool := false
  deriving DecidableEq, Repr

structure Keys where
  slot : SMap KeySlot := []
  /-- The integrity key's counter (R322). -/
  integ : KeySlot := {}
  nextEpoch : Nat := 1
  /-- The draw that made the ephemeral key, while it is present (R329). -/
  xport : Option Nat := none
  devsalt : Option (BitVec 256) := none
  scrub : Bool := false
  /-- The store has lost its slots with PD_KEY and reloads them at START (R325, R353). -/
  lost : Bool := false
  deriving DecidableEq, Repr

/-! ### Temperature, power, clocks (chapter 15) -/

structure Sensor where
  temp : Int := 0
  valid : Bool := false
  busy : Bool := false
  stamp : BitVec 48 := 0
  ref : Option (Int × BitVec 48) := none
  rate : Int := 0
  /-- The start that its conversion shares with others: they end in one ACLK cycle (R343, R346). -/
  batch : Nat := 0
  /-- The offset that RECALIBRATE wrote; none while the fuses' value stands (Table 15.5). -/
  cal : Option (BitVec 8) := none
  deriving DecidableEq, Repr

structure Therm where
  sensor : SMap Sensor := []
  now : BitVec 48 := 0
  calFail : Word := 0
  trip : Bool := false
  level : Nat := 15
  /-- Start of the hold interval and whether a rate has been computed in it (R346). -/
  holdFrom : BitVec 48 := 0
  intervals : Nat := 0
  /-- Starts of conversions so far, and those whose results last stepped the level down and up (R346, Table 15.1). -/
  batch : Nat := 0
  down : Option Nat := none
  up : Option Nat := none
  /-- Power domains that are ON (Table 15.2), and the switch that runs. -/
  domOn : BitVec 49 := 1
  switching : Option (Fin 64 × Bool) := none
  /-- Sensors whose results the thermal task awaits, and its intervals, modulo 20 (R344). -/
  task : BitVec 16 := 0
  ticks : Nat := 0
  /-- The SNF page has lost its level with PD_THERM (R347); a trip cleared while it was not running (Table 15.1). -/
  cycled : Bool := false
  tripPend : Bool := false
  deriving DecidableEq, Repr

/-! ### Almanac (chapter 16) -/

inductive Sev where
  | info | notice | warn | crit
  deriving DecidableEq, Repr

inductive RecBody where
  | event (code inst : Nat) (arg : BitVec 64) (detail : List Word)
  | snapshot (qty : Nat) (extreme : Bool) (sat : Nat) (bins : List Nat) (mn mx : Int) (potMn potMx : Word)
  deriving DecidableEq, Repr

/-- A record (Table 16.1); its CRC is computed from the other fields when it is read. -/
structure AlmRec where
  seq : Word
  pot : Word
  pcc : Word
  sev : Sev
  src : Nat
  rep : Nat
  pinned : Bool
  body : RecBody
  persisted : Bool
  /-- Its slot has been freed: it was persisted while the mode was NORMAL, or when it became so (R366). -/
  freed : Bool := false
  deriving DecidableEq, Repr

structure Accum where
  bins : SMap Nat := []
  sat : Nat := 0
  seen : Bool := false
  mn : Int := 0
  mx : Int := 0
  potMn : Word := 0
  potMx : Word := 0
  deriving DecidableEq, Repr

structure Alm where
  /-- The working ring by slot, and the slot of the open record. -/
  ring : List (Nat × AlmRec) := []
  opn : Option Nat := none
  pers : List AlmRec := []
  nextSeq : Word := 0
  pot : Word := 0
  pcc : Word := 1
  acc : SMap Accum := []
  buffered : Bool := true
  bufReq : Bool := false
  flushing : Bool := false
  /-- POT at which the newest record was created (R364). -/
  lastPot : Word := 0
  seqReg : Word := 0
  deriving DecidableEq, Repr

/-! ### Twin pair (chapter 17) -/

/-- A twin frame (Tables 17.1 to 17.3) as it is sent: type, flags, fields used by its receiver. -/
structure Frame where
  type : Nat
  flags : Nat
  seq : Nat
  ack : Nat
  xid : Nat
  idx : Nat
  words : List Nat
  data : BitVec 2048
  deriving DecidableEq, Repr

/-- A transfer being received as the mirror (R385): LBs received whole and the parts of the next, offsets of LBs not yet in the
buffer, versions that took LBs. A DURABLE takes its place in the order with nothing to accept (R386). -/
structure RxXfer where
  xid : Nat
  vol : Vid
  slba : Nat
  ask : Bool
  fua : Bool
  zeros : Bool
  /-- LBs of a DEALLOC whose whole MUs are still to be unmapped. -/
  hole : Nat
  data : SMap Block
  whole : Nat
  todo : List Nat
  vers : List Nat
  deriving DecidableEq, Repr

/-- What waits its turn to be sent: a transfer with LBs still to come, or one frame of another kind (R385). -/
structure TxOpen where
  xid : Option Nat
  left : Nat
  held : List Frame
  deriving DecidableEq, Repr

/-- What an outgoing transfer was for. A DURABLE, of a FLUSH or of the interval, holds the regions it covers (R389). -/
inductive TxFor where
  | cmd (slot : Nat)
  | resync (vol : Vid) (region : Nat)
  | copy (vol : Vid) (region : Nat)
  | flush (slot : Nat) (vol : Vid) (regs : List Nat)
  | durable (vol : Vid) (regs : List Nat)
  deriving DecidableEq, Repr

/-- A mirror's answer that waits for durability (R386). -/
structure RxWait where
  xid : Nat
  vol : Vid
  cover : List Cover
  status : Nat
  deriving DecidableEq, Repr

/-- A mailbox operation that waits for the partner's RESULT, for its TAKE_ACK, or for its own fence epoch to be durable: 1 MIRROR,
2 UNMIRROR, 3 DEMOTE, 4 TWIN_TAKEOVER, 6 VOLUME_FORMAT, 7 VOLUME_DELETE. `was` is the twin state that a handover left. -/
structure TwinWait where
  port : Port
  op : Nat
  vol : Vid
  fence : Nat
  arg : Nat
  was : TwinSt
  /-- Its mailbox was reset meanwhile: nobody is answered. -/
  alone : Bool := false
  deriving DecidableEq, Repr

/-- The walk of a volume's resync (R392): the next piece of 512 LBs by its place in the volume, regions whose pieces are all sent and
not all acknowledged, regions to which this pass is not enough, and what has been read of the present piece. -/
structure Resync where
  next : Nat := 0
  walked : List Nat := []
  bad : List Nat := []
  data : SMap Block := []
  deriving DecidableEq, Repr

structure Twin where
  up : Bool := false
  x4 : Bool := false
  rate16 : Bool := false
  expected : BitVec 160 := 0
  paired : Bool := false
  present : Bool := false
  mismatch : Bool := false
  heard : BitVec 160 := 0
  txSeq : Nat := 0
  rxSeq : Nat := 0
  unacked : List Frame := []
  /-- Sequenced frames that wait for room in the window of 64. -/
  waiting : List Frame := []
  /-- The transfer whose frames go now, and what follows it. -/
  order : List TxOpen := []
  nakSent : Bool := false
  crcRun : Nat := 0
  lastStamp : Word := 0
  rtt : Word := 0
  nextXid : Nat := 0
  tx : SMap TxFor := []
  rx : List RxXfer := []
  rxWait : List RxWait := []
  wait : List TwinWait := []
  rs : SMap Resync := []
  /-- Volumes whose command was asked for by the partner, which is owed a RESULT; volumes given up to it, which is owed a TAKE_ACK;
  mirrored volumes that it does not hold mirrored. -/
  owed : List Vid := []
  giving : List Vid := []
  lone : List Vid := []
  peak : Nat := 0
  /-- CTRL frames whose packets wait in PFF2 for management firmware, and those that firmware has still to push into PFF3 (R379). -/
  ctlIn : List Instr := []
  ctlOut : List (List Nat) := []
  deriving DecidableEq, Repr

/-! ### TAP (chapter 22) -/

inductive TapIr where
  | idcode | sample | extest | highz | clamp | bypass
  deriving DecidableEq, Repr

/-! ### What leaves the part -/

/-- Everything the part sends: the model's own record of it, newest last. -/
inductive Out where
  | mbox (p : Port) (rc ext : Nat) (payload : List Byte)
  | background (p : Port) (opcode rc ext : Nat)
  | completion (p : Port) (qid : Nat) (addr : Nat) (dw : BitVec 128)
  | fetchRead (p : Port) (id addr len : Nat)
  | listRead (p : Port) (addr : Nat)
  | dataRead (p : Port) (slot addr len : Nat)
  /-- Data of a READ to the host, with Relaxed Ordering or without (R78); a completion entry goes without. -/
  | hostData (p : Port) (addr len : Nat) (d : Block) (relaxed : Bool)
  | memData (p : Port) (d : Line) (poison : Bool)
  | memAck (p : Port)
  | reg (a : Agent) (width : Nat) (v : BitVec 64)
  | doe (p : Port) (bytes : List Byte)
  | smbus (bytes : List Byte)
  | smbNack
  | gpfAck (p : Port) (phase : Nat)
  | viral (p : Port)
  | frame (f : Frame)
  | linkRetry (p : Port)
  | tdo (ir : TapIr) (dr : Word)
  deriving DecidableEq, Repr

/-! ### The whole machine -/

/-- The machine without its queue of commands. `free` counts the free values drawn; `out` is what has left the part. -/
structure Mach where
  dev : Dev := {}
  reg : Regs := {}
  pff : SMap Fifo := []
  port : PerPort PortSt := { p0 := {}, p1 := {} }
  adm : Admin := {}
  q : Queues := {}
  vol : Vols := {}
  buf : Buf := {}
  lamp : Lamp := {}
  fl : Flash := {}
  gln : Glean := {}
  hdl : Headland := {}
  drc : SMap Drc := []
  key : Keys := {}
  thm : Therm := {}
  alm : Alm := {}
  twn : Twin := {}
  tap : TapIr := .idcode
  out : List Out := []
  free : Nat := 0
  deriving DecidableEq, Repr

/-- The state: the machine and the commands that wait, first in first out. -/
structure State where
  m : Mach := {}
  pending : List Instr := []
  deriving DecidableEq, Repr

/-- Why a step stops as a fault. No command of the table faults: every row has an effect in the manual. -/
inductive Fault where
  /-- Raised by no meaning (safe): the manual describes no stop of this block. -/
  | none
  deriving DecidableEq, Repr

/-- Why a step has no meaning. -/
inductive Refusal where
  /-- An arm of `exec` whose command is not modelled yet (safe: nothing follows from it). -/
  | notModelled (mnemonic : String)
  deriving DecidableEq, Repr

/-- The machine right after the power-on device reset of a part never formatted: BOOT, no PLL locked yet, every register at its
reset value, every sparse table empty. -/
def State.reset : State := {}

end Sys2Proof.Machine
end

