-- ==== Sys2Proof/Machine/Ops.lean ====
section
/-! DEFINITION. The named operations over the state that every family shares: one update per part of the machine, the registers
and page headers (R7 to R10, R36 to R43), counters (R419 to R421), what leaves the part, and free values. -/

namespace Sys2Proof.Machine

/-! ### Updates of one part -/

def Mach.updDev (f : Dev → Dev) (m : Mach) : Mach := { m with dev := f m.dev }
def Mach.updReg (f : Regs → Regs) (m : Mach) : Mach := { m with reg := f m.reg }
def Mach.updPff (f : (SMap Fifo) → (SMap Fifo)) (m : Mach) : Mach := { m with pff := f m.pff }
def Mach.updAdm (f : Admin → Admin) (m : Mach) : Mach := { m with adm := f m.adm }
def Mach.updQ (f : Queues → Queues) (m : Mach) : Mach := { m with q := f m.q }
def Mach.updVol (f : Vols → Vols) (m : Mach) : Mach := { m with vol := f m.vol }
def Mach.updBuf (f : Buf → Buf) (m : Mach) : Mach := { m with buf := f m.buf }
def Mach.updLamp (f : Lamp → Lamp) (m : Mach) : Mach := { m with lamp := f m.lamp }
def Mach.updFl (f : Flash → Flash) (m : Mach) : Mach := { m with fl := f m.fl }
def Mach.updGln (f : Glean → Glean) (m : Mach) : Mach := { m with gln := f m.gln }
def Mach.updHdl (f : Headland → Headland) (m : Mach) : Mach := { m with hdl := f m.hdl }
def Mach.updDrc (f : (SMap Drc) → (SMap Drc)) (m : Mach) : Mach := { m with drc := f m.drc }
def Mach.updKey (f : Keys → Keys) (m : Mach) : Mach := { m with key := f m.key }
def Mach.updThm (f : Therm → Therm) (m : Mach) : Mach := { m with thm := f m.thm }
def Mach.updAlm (f : Alm → Alm) (m : Mach) : Mach := { m with alm := f m.alm }
def Mach.updTwn (f : Twin → Twin) (m : Mach) : Mach := { m with twn := f m.twn }
def Mach.updPort (p : Port) (f : PortSt → PortSt) (m : Mach) : Mach := { m with port := m.port.set p (f (m.port.get p)) }

/-- Something leaves the part. -/
def Mach.send (o : Out) (m : Mach) : Mach := { m with out := m.out ++ [o] }

/-- Advance the counter of free values drawn. -/
def Mach.draw (m : Mach) : Mach := { m with free := m.free + 1 }

/-- Apply f where b holds. -/
def Mach.when (b : Bool) (f : Mach → Mach) (m : Mach) : Mach := if b then f m else m

/-- Fold a machine update over a list. -/
def Mach.each {α : Type} (l : List α) (f : α → Mach → Mach) (m : Mach) : Mach := l.foldl (fun m a => f a m) m

/-- The outcome of every command: the next state, in which the machine has taken a total update and the queue stands. -/
def State.on (s : State) (f : Mach → Mach) : Host.Outcome State Fault Refusal := .next { s with m := f s.m }

/-! ### Pages and registers -/

/-- The page at an address of BAR0 as management firmware sees it (Table 02.2, R33). -/
def pageAt (addr : Nat) : Option Page :=
  let n := addr / 0x1000
  if h : 0x20 ≤ n ∧ n < 0x40 then some (.fch ⟨n - 0x20, by omega⟩)
  else if h : 0x40 ≤ n ∧ n < 0x44 then some (.drc ⟨n - 0x40, by omega⟩)
  else if h : 0x48 ≤ n ∧ n < 0x50 then some (.pff ⟨n - 0x48, by omega⟩)
  else match n with
    | 0x0 => some .dev | 0x1 => some (.port .p0) | 0x2 => some (.port .p1) | 0xA => some .qct | 0xB => some .dbl
    | 0xC => some .rlk | 0x10 => some .lmp | 0x11 => some .lnt | 0x12 => some .map | 0x13 => some .sow
    | 0x14 => some .gln | 0x15 => some .hdl | 0x16 => some .ecc | 0x17 => some .cip | 0x18 => some .key
    | 0x19 => some .thm | 0x1A => some .snf | 0x1B => some .alm | 0x1C => some .pwr | 0x1D => some .clk
    | 0x1E => some .twn | 0x1F => some .wpt | 0x44 => some .drg | _ => none

/-- The register row at an address, by the page there. -/
def rowAt (addr : Nat) : Option RegRow :=
  match pageAt addr with
  | none => none
  | some p => rowOf (p.typeCode * 0x1000 + addr % 0x1000)

/-- The key of an agent's own copy of a banked register (R128 and its like). -/
def bank (a : Agent) (addr : Nat) : Nat := a.num * 0x800000 + addr

/-- What a stored register reads at reset (the Reset column). -/
def regReset (key : Nat) : Word :=
  match rowAt (key % 0x800000) with
  | some r => BitVec.ofNat 32 r.reset
  | none => 0

/-- The stored value of a register. -/
def Mach.rd (m : Mach) (key : Nat) : Word := SMap.get (regReset key) m.reg.r key

def Mach.rdN (m : Mach) (key : Nat) : Nat := (m.rd key).toNat

/-- Store a register. -/
def Mach.wr (key : Nat) (v : Word) (m : Mach) : Mach :=
  m.updReg fun g => { g with r := SMap.set (regReset key) g.r key v }

/-- PG_CAP: STOPPABLE, STAGED, SEQ, CLK of each page (R28, R100 and the like; Table 02.6). -/
def pageCaps : Page → Bool × Bool × Bool × Nat
  | .dev => (false, false, false, 3) | .port _ => (true, true, true, 0) | .qct => (true, true, true, 1)
  | .dbl => (false, false, false, 1) | .rlk => (true, false, true, 1) | .lmp => (true, true, true, 0)
  | .lnt => (true, false, true, 0) | .map => (true, false, true, 1) | .sow => (true, true, true, 1)
  | .gln => (true, true, true, 1) | .hdl => (true, true, true, 1) | .ecc => (true, true, true, 1)
  | .cip => (true, false, true, 1) | .key => (true, false, true, 4) | .thm => (true, true, true, 3)
  | .snf => (true, true, false, 3) | .alm => (true, true, true, 3) | .pwr => (false, false, true, 3)
  | .clk => (false, false, false, 3) | .twn => (true, true, true, 5) | .wpt => (false, false, false, 3)
  | .fch _ => (true, true, true, 2) | .drc _ => (true, true, true, 0) | .drg => (false, true, true, 0)
  | .pff _ => (true, true, false, 3)

/-- The power domain of a page, by its index of Table 15.2. -/
def pageDomain : Page → Nat
  | .dev | .pwr | .clk | .wpt | .drg => 0
  | .key => 1 | .alm | .pff _ => 2 | .port .p0 => 3 | .port .p1 => 4 | .twn => 5 | .drc d => 6 + d.val
  | .lmp | .lnt => 10 | .qct | .dbl | .rlk | .map | .hdl => 11 | .sow => 12 | .gln => 13 | .cip => 14 | .ecc => 15
  | .thm | .snf => 16 | .fch c => 17 + c.val

/-- Every page, in the order of Table 02.2. -/
def allPages : List Page :=
  [.dev, .port .p0, .port .p1, .qct, .dbl, .rlk, .lmp, .lnt, .map, .sow, .gln, .hdl, .ecc, .cip, .key, .thm, .snf, .alm,
    .pwr, .clk, .twn, .wpt] ++ (List.finRange 32).map Page.fch ++ (List.finRange 4).map Page.drc ++ [.drg] ++
    (List.finRange 8).map Page.pff

/-- The header of a page at reset: the pages of PD_AON are powered and STOPPED, every other page is OFF (R37). -/
def hdrReset (key : Nat) : PageHdr :=
  match pageAt key with
  | some p => if pageDomain p = 0 then { st := .stopped } else {}
  | none => {}

def Mach.hdr (m : Mach) (p : Page) : PageHdr := SMap.get (hdrReset p.base) m.reg.pg p.base

def Mach.setHdr (p : Page) (h : PageHdr) (m : Mach) : Mach :=
  m.updReg fun g => { g with pg := SMap.set (hdrReset p.base) g.pg p.base h }

def Mach.pageSt (m : Mach) (p : Page) : PageSt := (m.hdr p).st

def Mach.running (m : Mach) (p : Page) : Bool := m.pageSt p == .running

def Mach.setPageSt (p : Page) (s : PageSt) (m : Mach) : Mach := m.setHdr p { m.hdr p with st := s }

/-- One update of a value on a page: PG_SEQ goes odd and even again (R43). -/
def Mach.touch (p : Page) (m : Mach) : Mach :=
  if (pageCaps p).2.2.1 then m.setHdr p { m.hdr p with seq := (m.hdr p).seq + 2 } else m

/-- Store a register that a block updates. -/
def Mach.set (key : Nat) (v : Word) (m : Mach) : Mach :=
  match pageAt (key % 0x800000) with
  | some p => (m.wr key v).touch p
  | none => m.wr key v

/-- Add n to a 32-bit counter that sticks at 0xFFFF_FFFF (R419). -/
def Mach.bumpBy (key n : Nat) (m : Mach) : Mach := m.set key (BitVec.ofNat 32 (min 0xFFFFFFFF (m.rdN key + n)))

def Mach.bump (key : Nat) (m : Mach) : Mach := m.bumpBy key 1

/-- One more of a count that sticks (Table 20.1). -/
def stickWord (w : Word) : Word := if w = 0xFFFFFFFF then w else w + 1

/-- Raise a 32-bit maximum to at least n, sticking at `top`. -/
def Mach.raiseTo (key n top : Nat) (m : Mach) : Mach :=
  if m.rdN key < min n top then m.set key (BitVec.ofNat 32 (min n top)) else m

/-- A 32-bit counter that wraps. -/
def Mach.bumpWrap (key : Nat) (m : Mach) : Mach := m.set key (m.rd key + 1)

/-- The value of a 64-bit counter, by the address of its low word. -/
def Mach.rd64 (m : Mach) (key : Nat) : BitVec 64 := SMap.get 0 m.reg.c64 key

/-- Add n to a 64-bit counter, which wraps (R419). -/
def Mach.bump64By (key n : Nat) (m : Mach) : Mach :=
  let m' := m.updReg fun g => { g with c64 := SMap.set 0 g.c64 key (SMap.get 0 g.c64 key + BitVec.ofNat 64 n) }
  match pageAt key with
  | some p => m'.touch p
  | none => m'

def Mach.bump64 (key : Nat) (m : Mach) : Mach := m.bump64By key 1

/-- Offsets within instanced pages. -/
def portReg (p : Port) (off : Nat) : Nat := (Page.port p).base + off
def fchReg (c : Chan) (off : Nat) : Nat := (Page.fch c).base + off
def drcReg (d : Fin 4) (off : Nat) : Nat := (Page.drc d).base + off
def pffReg (n : Fin 8) (off : Nat) : Nat := (Page.pff n).base + off

/-- A write of an agent that is dropped and counted in PORT_WDROP of the port it came through (R9, R30, R34). -/
def Mach.wdrop (a : Agent) (m : Mach) : Mach :=
  match a.port with
  | some p => m.bump (portReg p Reg.PORT_WDROP)
  | none => m

/-! ### Keyed state -/

def Mach.fifo (m : Mach) (n : Fin 8) : Fifo := SMap.get {} m.pff n.val
def Mach.setFifo (n : Fin 8) (x : Fifo) (m : Mach) : Mach := m.updPff fun t => SMap.set {} t n.val x
def Mach.qp (m : Mach) (q : Fin 256) : Qp := SMap.get {} m.q.qp q.val
def Mach.setQp (q : Fin 256) (x : Qp) (m : Mach) : Mach := m.updQ fun t => { t with qp := SMap.set {} t.qp q.val x }
def Mach.cmd (m : Mach) (s : Nat) : Cmd := SMap.get {} m.q.cmd s
def Mach.setCmd (s : Nat) (x : Cmd) (m : Mach) : Mach := m.updQ fun t => { t with cmd := SMap.set {} t.cmd s x }
def Mach.volu (m : Mach) (v : Vid) : Vol := SMap.get {} m.vol.v v.val
def Mach.setVol (v : Vid) (x : Vol) (m : Mach) : Mach := m.updVol fun t => { t with v := SMap.set {} t.v v.val x }
def Mach.entry (m : Mach) (i : Nat) : BitVec 40 := SMap.get unmapped m.vol.map i
def Mach.region (m : Mach) (k : Nat) : Region := SMap.get {} m.lamp.reg k
def Mach.setRegion (k : Nat) (x : Region) (m : Mach) : Mach := m.updLamp fun t => { t with reg := SMap.set {} t.reg k x }
def Mach.desc (m : Mach) (key : Nat) : Desc := SMap.get {} m.lamp.desc key
def Mach.setDesc (key : Nat) (x : Desc) (m : Mach) : Mach := m.updLamp fun t => { t with desc := SMap.set {} t.desc key x }
def Mach.chn (m : Mach) (c : Chan) : Chn := SMap.get {} m.fl.ch c.val
def Mach.setChn (c : Chan) (x : Chn) (m : Mach) : Mach := m.updFl fun t => { t with ch := SMap.set {} t.ch c.val x }
def Mach.die (m : Mach) (d : Nat) : DieSt := SMap.get {} m.fl.die d
def Mach.setDie (d : Nat) (x : DieSt) (m : Mach) : Mach := m.updFl fun t => { t with die := SMap.set {} t.die d x }
/-- Blocks are keyed 4,096 × die + block index (R255). -/
def Mach.blk (m : Mach) (d b : Nat) : Blk := SMap.get {} m.fl.blk (4096 * d + b)
def Mach.setBlk (d b : Nat) (x : Blk) (m : Mach) : Mach := m.updFl fun t => { t with blk := SMap.set {} t.blk (4096 * d + b) x }
def Mach.fur (m : Mach) (f : Nat) : Fur := SMap.get {} m.gln.fur f
def Mach.setFur (f : Nat) (x : Fur) (m : Mach) : Mach := m.updGln fun t => { t with fur := SMap.set {} t.fur f x }
def Mach.dram (m : Mach) (d : Fin 4) : Drc := SMap.get {} m.drc d.val
def Mach.setDram (d : Fin 4) (x : Drc) (m : Mach) : Mach := m.updDrc fun t => SMap.set {} t d.val x
def Mach.kslot (m : Mach) (k : Nat) : KeySlot := SMap.get {} m.key.slot k
def Mach.setKslot (k : Nat) (x : KeySlot) (m : Mach) : Mach := m.updKey fun t => { t with slot := SMap.set {} t.slot k x }
def Mach.sens (m : Mach) (i : Nat) : Sensor := SMap.get {} m.thm.sensor i
def Mach.setSens (i : Nat) (x : Sensor) (m : Mach) : Mach := m.updThm fun t => { t with sensor := SMap.set {} t.sensor i x }
def Mach.openF (m : Mach) (pos : Fin 8) : Option OpenF := (m.buf.opn.find? fun e => e.1 == pos.val).map (·.2)
def Mach.setOpenF (pos : Fin 8) (x : Option OpenF) (m : Mach) : Mach :=
  m.updBuf fun t => { t with opn := match x with | some o => SMap.put t.opn pos.val o | none => SMap.del t.opn pos.val }

/-! ### Device sparing as the DEFINITION record keeps it (R311) -/

/-- DRC_SPARE: the marked device of each subchannel rank, 0 none. -/
def Drc.spareWord (x : Drc) : Word :=
  BitVec.ofNat 32 (((List.range 4).map fun i => SMap.get 0 x.marked i * 16 ^ i).sum)

/-- DRC_SPAREPIN. -/
def Drc.pinWord (x : Drc) : Word := BitVec.ofNat 32 (((List.range 4).map fun i => SMap.get 0 x.pins i * 256 ^ i).sum)

/-- Both words of every channel that has a mark, keyed 2 × channel and 2 × channel + 1. -/
def Mach.spareWords (m : Mach) : SMap Word :=
  (List.finRange 4).foldl (fun t d =>
    SMap.set 0 (SMap.set 0 t (2 * d.val) (m.dram d).spareWord) (2 * d.val + 1) (m.dram d).pinWord) []

/-- A field of a word as an entry of a sparse table. -/
def fieldMap (w : Word) (n : Nat) : SMap Nat :=
  (List.range 4).foldl (fun t i => SMap.set 0 t i (w.toNat / n ^ i % n)) []

/-- The marks of a DEFINITION record are applied again at each start-up. -/
def spareDrc (t : SMap Word) : SMap Drc :=
  (List.range 4).foldl (fun r d =>
    SMap.set {} r d { marked := fieldMap (SMap.get 0 t (2 * d)) 16, pins := fieldMap (SMap.get 0 t (2 * d + 1)) 256 }) []

end Sys2Proof.Machine
end

