-- ==== Sys2Proof/Machine/DieCap.lean ====
section
/-! DEFINITION. The die capability table (R182, R453, Table 08.9) and the deskew windows of R181. -/

namespace Sys2Proof.Machine

/-! ### The DIECAP section -/

/-- The slot that runs. -/
def Mach.runSlot (m : Mach) : FwSlot := if m.dev.slot = 0 then m.adm.fw.p0 else m.adm.fw.p1

/-- The number in a field of an entry. -/
def capField (b : List Byte) (off size : Nat) : Nat := ofLeBytes ((b.drop off).take size)

/-- The 16-byte header: "DCAP", version 1, the entry count; the entries of 64 bytes that follow. A section that opens otherwise has
none (log entry 174). -/
def dieCaps (b : List Byte) : List (List Byte) :=
  if b.take 6 = [0x44, 0x43, 0x41, 0x50, 0x01, 0x00] then
    ((List.range (capField b 6 2)).map fun i => (b.drop (16 + 64 * i)).take 64).filter fun e => e.length == 64
  else []

/-- MFR and MODEL of an entry equal those of the parameter page. -/
def isCap (i : ParamPage) (e : List Byte) : Bool := capField e 0 1 == i.maker.toNat && capField e 1 20 == i.model.toNat

/-- Microseconds that hold a time in ns. -/
def nsUs (n : Nat) : Nat := (n + 999) / 1000

/-- What the controller uses of a die that matches no entry: the last column of Table 08.9. -/
def unmatchedDie (i : ParamPage) : DieInfo :=
  { row := i.row, matched := false, extrate := false, nested := false, resMin := 1000, slc := false, tempFa := i.tempFa, retry := 1,
    slcPages := i.pages, slcCycles := i.endurance, tReadNs := 500 * i.tReadUs, tProgNs := 500 * i.tProgUs,
    tBersNs := 500 * i.tBersUs, tSlcNs := 500 * i.tProgUs, maxSlcUs := i.tProgUs, tProgMaxUs := i.tProgUs,
    endurance := i.endurance, planes := i.planes, pages := i.pages, blocks := i.blocks, factoryBad := i.factoryBad }

/-- What the controller uses of a die that an entry matches. -/
def matchedDie (i : ParamPage) (e : List Byte) : DieInfo :=
  { unmatchedDie i with
    matched := true
    extrate := bitOf (capField e 0x15 1) 0
    nested := bitOf (capField e 0x15 1) 1
    resMin := capField e 0x16 2
    slc := capField e 0x18 1 != 0
    tempFa := capField e 0x19 1
    retry := capField e 0x1A 1
    slcPages := capField e 0x1C 2
    slcCycles := capField e 0x20 4
    tReadNs := capField e 0x24 4
    tProgNs := capField e 0x28 4
    tBersNs := capField e 0x2C 4
    tSlcNs := capField e 0x30 4
    maxSlcUs := nsUs (capField e 0x34 4) }

/-- The first entry that matches applies to the die. -/
def dieInfoOf (i : ParamPage) (diecap : List Byte) : DieInfo :=
  match (dieCaps diecap).find? (isCap i) with
  | some e => matchedDie i e
  | none => unmatchedDie i

/-! ### Deskew (R181) -/

/-- At least 26 taps wide. -/
def wideEnough (w : Nat × Nat) : Bool := decide (w.1 + 26 ≤ w.2)

/-- A window with its centre, rounded down. -/
def centred (w : Nat × Nat) : Nat × Nat × Nat := ((w.1 + w.2) / 2, w.1, w.2)

/-- Deskew passes when every window, of each pin in both directions, is wide enough. -/
def deskewPasses (ws : List (Nat × Nat × Nat)) : Bool := ws.length == 16 && ws.all fun w => wideEnough w.2

end Sys2Proof.Machine
end

