-- ==== Sys2Proof/Machine/FifoOps.lean ====
section
/-! DEFINITION. The one packet-FIFO design (R45 to R53) and the two checks of Table 02.11. -/

namespace Sys2Proof.Machine

/-- One step of a reflected CRC-32 on a bit. -/
def crcBit (poly : Word) (c : Word) : Word := if c.getLsbD 0 then (c >>> 1) ^^^ poly else c >>> 1

/-- One byte into a reflected CRC-32. -/
def crcByte (poly : Word) (c : Word) (b : Byte) : Word :=
  let x := c ^^^ b.setWidth 32
  crcBit poly (crcBit poly (crcBit poly (crcBit poly (crcBit poly (crcBit poly (crcBit poly (crcBit poly x)))))))

/-- A reflected CRC-32 with initial value and final complement of all ones. -/
def crc32With (poly : Word) (bs : List Byte) : Word := ~~~(bs.foldl (crcByte poly) 0xFFFFFFFF)

/-- CRC-32C (R360, R219). -/
def crc32c (bs : List Byte) : Word := crc32With 0x82F63B78 bs

/-- The IEEE 802.3 CRC-32 of a twin frame (R378). -/
def crc32 (bs : List Byte) : Word := crc32With 0xEDB88320 bs

/-- The little-endian bytes of words (R5). -/
def wordBytes (ws : List Word) : List Byte := ws.flatMap fun w => leBytes 4 w.toNat

/-- Depth in words (Table 02.11). -/
def pffDepth (n : Fin 8) : Nat :=
  match n.val with
  | 0 => 1024 | 1 => 512 | 2 => 1088 | 3 => 1088 | 4 => 4096 | 5 => 256 | 6 => 256 | _ => 128

/-- PFF7 has one clock; every other instance crosses clocks (Table 02.11). -/
def pffSingleClock (n : Fin 8) : Bool := n.val == 7

/-- PF_CONS is fixed at 2 on PFF2, PFF3, PFF5, PFF6 and PFF7 (Table 02.12). -/
def pffConsFixed (n : Fin 8) : Bool := n.val == 2 || n.val == 3 || n.val == 5 || n.val == 6 || n.val == 7

/-- The agent that PF_CONS names. -/
def Mach.pffCons (m : Mach) (n : Fin 8) : Nat := if pffConsFixed n then 2 else m.rdN (pffReg n Reg.PF_CONS) % 4

/-- Words that a FIFO holds, committed or not. -/
def Fifo.used (f : Fifo) : Nat := f.vis.length + (f.hidden.map List.length).sum + f.opn.length

def Mach.pffFree (m : Mach) (n : Fin 8) : Nat := pffDepth n - (m.fifo n).used

/-- A packet as the consumer sees it: its last word carries the END mark. -/
def packetWords : List Word → List (Word × Bool)
  | [] => []
  | [w] => [(w, true)]
  | w :: ws => (w, false) :: packetWords ws

/-- The packet check of Table 02.11: PFF0 the CRC-32C of the record, its last word; PFF2 what the frame's CRC-32 showed. -/
def packetCheck (n : Fin 8) (frameOk : Bool) (ws : List Word) : Bool :=
  match n.val with
  | 0 => match ws.reverse with
    | c :: r => c == crc32c (wordBytes r.reverse)
    | [] => false
  | 2 => frameOk
  | _ => true

/-- The packet is whole: it commits, or its check rewinds it (R45, R46). A single-clock instance shows it at once. DESIGN
CHOICE (log entry 160): a failed check has taken the word END marked, so the mark is gone. -/
def Mach.pffCommit (n : Fin 8) (frameOk : Bool) (ws : List Word) (m : Mach) : Mach :=
  let f := m.fifo n
  if packetCheck n frameOk ws then
    if pffSingleClock n then m.setFifo n { f with opn := [], endNext := false, vis := f.vis ++ packetWords ws }
    else m.setFifo n { f with opn := [], endNext := false, hidden := f.hidden ++ [ws] }
  else (m.setFifo n { f with opn := [], endNext := false }).bump (pffReg n Reg.PF_CHKFAIL)

/-- A word enters the open packet; END commits it (R45). -/
def Mach.pffAccept (n : Fin 8) (w : Word) (frameOk : Bool) (m : Mach) : Mach :=
  let f := m.fifo n
  if f.endNext then m.pffCommit n frameOk (f.opn ++ [w]) else m.setFifo n { f with opn := f.opn ++ [w] }

/-- The open packet fills the FIFO alone: it is aborted, and the word that did not fit is discarded (R48). -/
def Mach.pffOversize (n : Fin 8) (m : Mach) : Mach :=
  (m.setFifo n { m.fifo n with opn := [], stalled := none }).bump (pffReg n Reg.PF_OVERSIZE)

/-- May this instance take pushes? Pushes stall while the page is not running, except that the packet being pushed goes on
while the page is STOPPING (Table 02.8). -/
def Mach.pffOpenTo (m : Mach) (n : Fin 8) : Bool :=
  match m.pageSt (.pff n) with
  | .running => true
  | .stopping => !(m.fifo n).opn.isEmpty
  | _ => false

/-- One push (R45, R48). A push already stalled keeps its producer waiting, so a further one does nothing. -/
def Mach.pffPush (n : Fin 8) (w : Word) (frameOk : Bool) (m : Mach) : Mach :=
  let f := m.fifo n
  if f.stalled.isSome then m
  else if !m.pffOpenTo n then m.setFifo n { f with stalled := some (w, frameOk) }
  else if m.pffFree n = 0 then
    if f.vis.isEmpty && f.hidden.isEmpty then m.pffOversize n
    else m.setFifo n { f with stalled := some (w, frameOk) }
  else m.pffAccept n w frameOk

/-- A stalled push completes once a word is free, or by the abort of R48. -/
def Mach.pffResume (n : Fin 8) (m : Mach) : Mach :=
  let f := m.fifo n
  match f.stalled with
  | none => m
  | some (w, ok) =>
    if !m.pffOpenTo n then m
    else if m.pffFree n = 0 then if f.vis.isEmpty && f.hidden.isEmpty then m.pffOversize n else m
    else (m.setFifo n { f with stalled := none }).pffAccept n w ok

/-- A block pushes a whole packet that fits, as the controller's own producers do. -/
def Mach.pffPacket (n : Fin 8) (ws : List Word) (m : Mach) : Mach := m.pffCommit n true ws

/-- Rewind to the start of the open packet (R46). DESIGN CHOICE (log entry 160): a pending END mark stays, here and at the abort of
R48, as no word has been committed. -/
def Mach.pffAbort (n : Fin 8) (m : Mach) : Mach := m.setFifo n { m.fifo n with opn := [] }

/-- A whole packet passes a FIFO at once: pushed, committed and popped to its end. -/
def Mach.fifoPass (n : Fin 8) (ws : List Word) (m : Mach) : Mach := m.setFifo n { m.fifo n with last := ws.getLastD 0, eop := true }

/-- Words up to and including the first END. -/
def dropPacket : List (Word × Bool) → List (Word × Bool)
  | [] => []
  | (_, true) :: r => r
  | (_, false) :: r => dropPacket r

/-- Discard the rest of the head packet (R47). -/
def Mach.pffDrop (n : Fin 8) (m : Mach) : Mach :=
  let f := m.fifo n
  if f.vis.isEmpty then m
  else (m.setFifo n { f with vis := dropPacket f.vis, partPopped := false }).bump (pffReg n Reg.PF_DROPS)

/-- One pop by the consumer: the machine and the word it reads (R47, R49, R51). -/
def Mach.pffPop (n : Fin 8) (m : Mach) : Mach × Word :=
  let f := m.fifo n
  if m.pageSt (.pff n) != .running then (m.setFifo n { f with underrun := true }, f.last)
  else match f.vis with
    | [] => (m.setFifo n { f with underrun := true }, f.last)
    | (w, e) :: r =>
      let m := m.setFifo n { f with vis := r, last := w, eop := e, partPopped := !e }
      (if pffSingleClock n then m.pffResume n else m, w)

/-- A read of PF_DATA by an agent (R49, R50). -/
def Mach.pffRead (a : Agent) (n : Fin 8) (m : Mach) : Mach × Word :=
  if m.pageSt (.pff n) == .off then (m, 0)
  else if m.pffCons n = a.num then m.pffPop n
  else (m.bump (pffReg n Reg.PF_FOREIGN), 0)

/-- The oldest committed packet crosses the synchroniser (R52). -/
def Mach.pffShow (n : Fin 8) (m : Mach) : Mach :=
  let f := m.fifo n
  match f.hidden with
  | [] => m
  | p :: r => m.setFifo n { f with hidden := r, vis := f.vis ++ packetWords p }

/-- Packets that the consumer sees, whole or in part (PF_LEVEL.PKTS). -/
def Fifo.packets (f : Fifo) : Nat := (f.vis.filter (·.2)).length

/-- Words left in the head packet (PF_HEADLEN). -/
def headLen : List (Word × Bool) → Nat
  | [] => 0
  | (_, true) :: _ => 1
  | (_, false) :: r => 1 + headLen r

end Sys2Proof.Machine
end

