-- ==== Sys2Proof/Machine/AlmOps.lean ====
section
/-! DEFINITION. The Almanac's operations (R360 to R375), the CXL event logs it mirrors into (R88, R374), and the setting of a
PG_ERR bit with its event (R361). -/

namespace Sys2Proof.Machine

/-! ### CXL event logs -/

/-- Append a record to one of the four logs: 0 Informational, 1 Warning, 2 Failure, 3 Fatal. Each holds 256; beyond that the
record is only counted (R88). -/
def Mach.logEvent (log : Nat) (k : EvKind) (m : Mach) : Mach :=
  let l := SMap.get {} m.adm.ev log
  let l' : EvLog := if l.recs.length < 256 then
      { l with recs := l.recs ++ [{ handle := l.next, kind := k, pot := m.alm.pot, pcc := m.alm.pcc }],
               next := if l.next = 65535 then 1 else l.next + 1 }
    else { l with overflow := min 65535 (l.overflow + 1) }
  m.updAdm fun a => { a with ev := SMap.set {} a.ev log l' }

/-! ### Records as words (Tables 16.1, 16.2, 16.4) -/

def Sev.num : Sev → Nat
  | .info => 0
  | .notice => 1
  | .warn => 2
  | .crit => 3

/-- Little-endian words of bytes. -/
def bytesWords : List Byte → List Word
  | a :: b :: c :: d :: r => BitVec.ofNat 32 (ofLeBytes [a, b, c, d]) :: bytesWords r
  | _ => []

/-- Exactly n words: cut, or filled with zeros. -/
def padWords (n : Nat) (ws : List Word) : List Word := (ws ++ List.replicate n 0).take n

def intWord (x : Int) : Word := BitVec.ofInt 32 x

/-- The 27 payload words. -/
def RecBody.words : RecBody → List Word
  | .event code inst arg detail =>
    [BitVec.ofNat 32 (code % 65536 + 65536 * inst), arg.setWidth 32, (arg >>> 32).setWidth 32] ++ padWords 24 detail
  | .snapshot qty false sat bins mn mx _ _ =>
    [BitVec.ofNat 32 (qty % 65536 + 65536 * sat)] ++
      padWords 24 (bytesWords ((List.range 16).flatMap fun i => leBytes 6 (bins.getD i 0))) ++ [intWord mn, intWord mx]
  | .snapshot qty true _ _ mn mx potMn potMx =>
    [BitVec.ofNat 32 qty, intWord mn, intWord mx, potMn, potMx] ++ List.replicate 22 0

/-- CLS: severity, kind, REPSAT, PINNED. -/
def AlmRec.cls (r : AlmRec) : Nat :=
  r.sev.num + (match r.body with | .event .. => 0 | .snapshot _ false .. => 4 | .snapshot _ true .. => 8) +
    (if r.rep = 65535 then 16 else 0) + (if r.pinned then 32 else 0)

/-- The 31 words that the CRC covers. -/
def AlmRec.body31 (r : AlmRec) : List Word :=
  [r.seq, r.pot, r.pcc, BitVec.ofNat 32 (r.cls + 256 * r.src + 65536 * r.rep)] ++ r.body.words

/-- The 32 words of a record, its CRC-32C last (R360). -/
def AlmRec.words (r : AlmRec) : List Word := r.body31 ++ [crc32c (wordBytes r.body31)]

/-! ### Serial order (R365) -/

/-- a comes before b by serial arithmetic on 32 bits. -/
def serialLt (a b : Word) : Bool := a != b && decide ((b - a).toNat < 2 ^ 31)

/-- Insert by ascending SEQ. -/
def insertRec (r : AlmRec) : List AlmRec → List AlmRec
  | [] => [r]
  | x :: xs => if serialLt r.seq x.seq then r :: x :: xs else x :: insertRec r xs

def sortRecs (l : List AlmRec) : List AlmRec := l.foldr insertRec []

/-- The record that R367 gives up for a new one of severity s: lowest SEQ, severity at or below s, not PINNED. -/
def overwriteVictim (s : Sev) (l : List AlmRec) : Option AlmRec :=
  (sortRecs (l.filter fun r => !r.pinned && decide (r.sev.num ≤ s.num))).head?

/-! ### The rings -/

/-- MODE (R371): BUFFERED from step 5 to step 11 and in the power-fail sequence, under BUFREQ, and in a RECOVERY boot. -/
def Mach.almBuffered (m : Mach) : Bool := m.alm.buffered || m.alm.bufReq || m.dev.recovery

/-- A slot counts as in use unless NORMAL mode has freed it (R366). -/
def Mach.almUsed (m : Mach) : Nat := (m.alm.ring.filter fun e => !e.2.freed).length

/-- In NORMAL mode the slots of persisted records are free (R366). -/
def Mach.almRelease (m : Mach) : Mach :=
  if m.almBuffered then m
  else m.updAlm fun a => { a with ring := a.ring.map fun e => (e.1, { e.2 with freed := e.2.freed || e.2.persisted }) }

/-- A free slot: the lowest that never held a record, else the freed one of the oldest record. -/
def Mach.almFreeSlot (m : Mach) : Option Nat :=
  match (List.range 2048).find? fun i => !(m.alm.ring.any fun e => e.1 == i) with
  | some i => some i
  | none =>
    match (sortRecs ((m.alm.ring.filter fun e => e.2.freed).map (·.2))).head? with
      | some r => (m.alm.ring.find? fun e => e.2.seq == r.seq).map (·.1)
      | none => none

/-- One change of a slot: ALM_SEQ goes odd and even again (R372). -/
def Mach.almTouch (m : Mach) : Mach := (m.updAlm fun a => { a with seqReg := a.seqReg + 2 }).touch .alm

/-- Put a record into a slot. -/
def Mach.almPut (slot : Nat) (r : AlmRec) (m : Mach) : Mach :=
  (m.updAlm fun a => { a with ring := (slot, r) :: a.ring.filter (fun e => e.1 != slot) }).almTouch

def Mach.almAt (m : Mach) (slot : Nat) : Option AlmRec := (m.alm.ring.find? fun e => e.1 == slot).map (·.2)

/-- Push a sealed record to PFF0 and mirror a CRIT (R373, R374). -/
def Mach.almSealed (r : AlmRec) (m : Mach) : Mach :=
  let ex := m.rdN Reg.ALM_EXPORT
  let m := if bitOf ex 2 && decide (bits ex 1 0 ≤ r.sev.num) then
      if 32 ≤ m.pffFree 0 && (m.fifo 0).stalled.isNone && m.running (.pff 0) && (m.fifo 0).opn.isEmpty then
        m.pffPacket 0 r.words
      else m.bump Reg.ALM_EXPDROP
    else m
  if r.sev == .crit then
    let fatal := match r.body with
      | .event code _ _ _ => code == 0x0102 || (r.src == 0x19 && code == 17)
      | _ => false
    m.logEvent (if fatal then 3 else 2) (.vendor (r.words.take 20))
  else m

/-- Seal the open record (R368). -/
def Mach.almSeal (m : Mach) : Mach :=
  match m.alm.opn with
  | none => m
  | some s =>
    let m' := m.updAlm fun a => { a with opn := none }
    match m.almAt s with
    | some r => m'.almSealed r
    | none => m'

/-- Take a slot for a new record, by R366 and R367; none when the record is dropped. SEQ is handed out here (R365). -/
def Mach.almPlace (mk : Word → AlmRec) (m : Mach) : Option (Mach × Nat) :=
  let r := mk m.alm.nextSeq
  let take (slot : Nat) (m : Mach) : Mach × Nat :=
    ((m.almPut slot r).updAlm fun a => { a with nextSeq := a.nextSeq + 1, lastPot := a.pot }, slot)
  match m.almFreeSlot with
  | some i => some (take i m)
  | none =>
    match overwriteVictim r.sev (m.alm.ring.map (·.2)) with
    | some v => (m.alm.ring.find? fun e => e.2.seq == v.seq).map fun e => take e.1 (m.bump Reg.ALM_OVERWRITE)
    | none => none

/-- An event record with the present POT and PCC. -/
def Mach.almEvent (m : Mach) (sev : Sev) (src code inst : Nat) (arg : BitVec 64) (detail : List Word) (q : Word) : AlmRec :=
  { seq := q, pot := m.alm.pot, pcc := m.alm.pcc, sev := sev, src := src, rep := 0, pinned := false,
    body := .event code inst arg detail, persisted := false }

/-- Set PG_ERR bits without an event. -/
def Mach.errBit (p : Page) (i : Nat) (m : Mach) : Mach :=
  m.setHdr p { m.hdr p with err := (m.hdr p).err ||| bit32 i }

/-- A new record: the open record is sealed, then a slot is taken. A drop counts in ALM_LOST and sets PG_ERR.BLK bit 16, whose
own event is tried once. -/
def Mach.almNew (isEvent : Bool) (mk : Word → AlmRec) (m : Mach) : Mach :=
  let m := m.almSeal
  match m.almPlace mk with
  | some (m', slot) => if isEvent then m'.updAlm fun a => { a with opn := some slot } else
      match m'.almAt slot with
      | some r => m'.almSealed r
      | none => m'
  | none =>
    let m := (m.bump Reg.ALM_LOST).errBit .alm 16
    if (m.hdr .alm).mask.getLsbD 16 then m
    else match m.almPlace (m.almEvent .warn 0x1B 16 0 0 []) with
      | some (m', slot) => m'.updAlm fun a => { a with opn := some slot }
      | none => m.bump Reg.ALM_LOST

/-! ### Writing to the persisted ring (R369 to R371) -/

/-- A record enters the log; the overwrite rule of R367 holds at 131,072 live records. -/
def Mach.almPersist1 (r : AlmRec) (m : Mach) : Mach :=
  let r := { r with persisted := true }
  if m.alm.pers.length < 131072 then m.updAlm fun a => { a with pers := a.pers ++ [r] }
  else match overwriteVictim r.sev m.alm.pers with
    | some v => (m.updAlm fun a => { a with pers := a.pers.filter (fun x => x.seq != v.seq) ++ [r] }).bump Reg.ALM_PDROP
    | none => (m.bump Reg.ALM_LOST).errBit .alm 16

/-- Mark the record of a slot as written; NORMAL mode frees the slot. -/
def Mach.almMark (seq : Word) (m : Mach) : Mach :=
  (m.updAlm fun a => { a with ring := a.ring.map fun e =>
    if e.2.seq == seq then (e.1, { e.2 with persisted := true, freed := !m.almBuffered }) else e }).almTouch

/-- The unpersisted records in SEQ order. -/
def Mach.almUnpersisted (m : Mach) : List AlmRec := sortRecs ((m.alm.ring.map (·.2)).filter fun r => !r.persisted)

/-- Write every unpersisted record in SEQ order. The open record is sealed by it (R368). -/
def Mach.almWriteAll (m : Mach) : Mach :=
  let m := m.almSeal
  m.each m.almUnpersisted fun r m => (m.almPersist1 r).almMark r.seq

/-- May ring pages be written? The page runs, flash training has ended, and no power-fail sequence is short of its step 4 (R371,
Tables 02.8 and 12.6). -/
def Mach.almCanWrite (m : Mach) : Bool := m.running .alm && m.dev.flashDone == 0xFFFFFFFF#32 && m.dev.pf == .none && m.dev.phase != .done

/-- A TIME event, which is never merged (R364, R368). -/
def Mach.almTime (m : Mach) : Mach := m.almNew true (m.almEvent .info 0x01 0x0101 0 0 [])

/-- A flush: every unpersisted record, then a TIME event; it waits where ring pages cannot be written yet (R371, R375). -/
def Mach.almFlush (m : Mach) : Mach :=
  if m.almCanWrite then
    (m.almWriteAll.almTime.almWriteAll).updAlm fun a => { a with flushing := false }
  else m.updAlm fun a => { a with flushing := true }

/-- A flush that was asked for and has waited. -/
def Mach.almFlushPending (m : Mach) : Mach := if m.alm.flushing && m.almCanWrite then m.almFlush else m

/-- What follows a new record: a CRIT flushes; in NORMAL mode 128 waiting records are written as a batch (R370, R371). -/
def Mach.almAfter (sev : Sev) (m : Mach) : Mach :=
  if sev == .crit then m.almFlush
  else if !m.almBuffered && m.almCanWrite && decide (128 ≤ m.almUnpersisted.length) then m.almWriteAll
  else m

/-- Would this event merge into the open record (R368)? -/
def AlmRec.merges (r : AlmRec) (sev : Sev) (src code inst : Nat) (arg : BitVec 64) : Bool :=
  match r.body with
  | .event c i a _ => c != 0x0101 && r.sev == sev && r.src == src && c == code && i == inst && a == arg
  | _ => false

/-- An event reaches the Almanac: it merges into the open record, or takes a slot. -/
def Mach.event (sev : Sev) (src code inst : Nat) (arg : BitVec 64) (detail : List Word) (m : Mach) : Mach :=
  let fresh := (m.almNew true (m.almEvent sev src code inst arg detail)).almAfter sev
  match m.alm.opn with
  | none => fresh
  | some s =>
    match m.almAt s with
    | none => fresh
    | some r =>
      if r.merges sev src code inst arg then m.almPut s { r with rep := min 65535 (r.rep + 1) } else fresh

/-- A device-level event of Table 16.3. -/
def Mach.devEvent (sev : Sev) (code : Nat) (arg : BitVec 64) (detail : List Word) (m : Mach) : Mach :=
  m.event sev 0x01 code 0 arg detail

/-! ### PG_ERR (R361) -/

/-- The severity of a PG_ERR bit. The bits that a chapter calls CRIT: THM 17 (R348), GLN 19 (R263), MAP 18 (R422), KEY 17
(R328). FCH 18 and HDL 17 are CRIT on some occasions and are raised with `raiseAs`. -/
def errSev (p : Page) (i : Nat) : Sev :=
  match p, i with
  | _, 0 => .notice
  | _, 1 => .notice
  | _, 4 => .notice
  | _, 2 => .crit
  | _, 3 => .crit
  | .thm, 17 => .crit
  | .gln, 19 => .crit
  | .map, 18 => .crit
  | .key, 17 => .crit
  | _, _ => .warn

/-- A PG_ERR bit sets: its event is written unless PG_ERRMASK masks the bit. -/
def Mach.raiseAs (sev : Sev) (p : Page) (i : Nat) (arg : BitVec 64) (m : Mach) : Mach :=
  let m := m.errBit p i
  if (m.hdr p).mask.getLsbD i then m else m.event sev p.typeCode i p.inst arg []

def Mach.raise (p : Page) (i : Nat) (arg : BitVec 64) (m : Mach) : Mach := m.raiseAs (errSev p i) p i arg

/-! ### Accumulators and snapshots (R362, R363) -/

/-- One observation of a quantity, from the first format onward: histograms add 1 to a bin, which sticks at 2^48 − 1; extremes keep POT. -/
def Mach.observe (qty : Nat) (bin : Option Nat) (v : Int) (m : Mach) : Mach :=
  if !m.dev.formatted then m else
  let a := SMap.get {} m.alm.acc qty
  let a := match bin with
    | none => a
    | some b =>
      let c := SMap.get 0 a.bins b
      if c + 1 < 2 ^ 48 - 1 then { a with bins := SMap.set 0 a.bins b (c + 1) }
      else { a with bins := SMap.set 0 a.bins b (2 ^ 48 - 1), sat := a.sat ||| 2 ^ b }
  let a : Accum := if !a.seen || decide (v < a.mn) then { a with mn := v, potMn := m.alm.pot } else a
  let a : Accum := if !a.seen || decide (a.mx < v) then { a with mx := v, potMx := m.alm.pot } else a
  m.updAlm fun t => { t with acc := SMap.set {} t.acc qty { a with seen := true } }

/-- The recorded quantities of Table 16.5: number and whether EXTREME. -/
def quantities : List (Nat × Bool) :=
  [(0x01, false), (0x02, false), (0x03, false), (0x04, false), (0x10, false), (0x11, false), (0x20, false), (0x21, false)] ++
    (List.range 16).map (fun n => (0x40 + n, true)) ++ [(0x50, true), (0x51, true), (0x52, true)]

/-- Is this the snapshot of a quantity? -/
def RecBody.isQty (b : RecBody) (qty : Nat) : Bool :=
  match b with
  | .snapshot q .. => q == qty
  | _ => false

/-- One snapshot record at INFO, PINNED in place of the older one. -/
def Mach.snapshot1 (q : Nat × Bool) (m : Mach) : Mach :=
  let a := SMap.get {} m.alm.acc q.1
  let unpin (r : AlmRec) : AlmRec := if r.body.isQty q.1 then { r with pinned := false } else r
  let m := m.updAlm fun t => { t with ring := t.ring.map fun e => (e.1, unpin e.2), pers := t.pers.map unpin }
  let mk (s : Word) : AlmRec :=
    { seq := s, pot := m.alm.pot, pcc := m.alm.pcc, sev := .info, src := 0x01, rep := 0, pinned := true,
      body := .snapshot q.1 q.2 a.sat ((List.range 16).map fun i => SMap.get 0 a.bins i) a.mn a.mx a.potMn a.potMx,
      persisted := false }
  (m.almNew false mk).almAfter .info

/-- A snapshot of every quantity (R363). -/
def Mach.snapshots (m : Mach) : Mach := m.each quantities Mach.snapshot1

/-- The mode becomes NORMAL where nothing holds it BUFFERED, and the change flushes (R371). -/
def Mach.almNormal (m : Mach) : Mach :=
  let was := m.almBuffered
  let m := m.updAlm fun a => { a with buffered := false }
  if was && !m.almBuffered then m.almRelease.almFlush else m

end Sys2Proof.Machine
end

