-- ==== Sys2Proof/Machine/Flags.lean ====
section
/-! DEFINITION. Statuses and the flags computed from the state: the status values of Table 21.1, the mailbox Return Code of
Table 04.4, the degraded conditions of R17, and the readiness tests that many commands share. -/

namespace Sys2Proof.Machine

/-! ### Status values (Table 21.1) -/

namespace St
def success : Nat := 0x0000
def reconstructed : Nat := 0x0001
def invalidOpcode : Nat := 0x1001
def invalidField : Nat := 0x1002
def lbaRange : Nat := 0x1003
def dupTag : Nat := 0x1004
def volumeNotReady : Nat := 0x1005
def unrecoveredRead : Nat := 0x2001
def authFail : Nat := 0x2002
def writeFault : Nat := 0x2003
def poisonedMu : Nat := 0x2004
def noSpace : Nat := 0x3001
def keyExhausted : Nat := 0x3002
def mapRecovering : Nat := 0x3003
def backgroundBusy : Nat := 0x3004
def keySlotEmpty : Nat := 0x4001
def accessDenied : Nat := 0x4002
def writeProtected : Nat := 0x4003
def imageInvalid : Nat := 0x4004
def rollbackRefused : Nat := 0x4005
def twinUnavailable : Nat := 0x5001
def notOwner : Nat := 0x5002
def abortedByRequest : Nat := 0x6001
def abortedByReset : Nat := 0x6002
def abortedQueueDeleted : Nat := 0x6003
end St

/-- The Return Code that Table 04.4 derives from a status; `badLen` when the payload length is wrong for the opcode, `bg` when
the command goes on in the background. -/
def returnCode (status : Nat) (badLen bg : Bool) : Nat :=
  if status = 0 then if bg then 0x0001 else 0x0000
  else if status = St.invalidOpcode then 0x0003
  else if status = St.invalidField && badLen then 0x0016
  else if status = St.volumeNotReady then 0x0005
  else if status = St.backgroundBusy then 0x0006
  else match status / 0x1000 with
    | 1 => 0x0002
    | 2 => 0x0004
    | 3 => 0x0005
    | 4 => 0x0013
    | 5 => 0x0004
    | 6 => 0x0012
    | _ => 0x0000

/-! ### Degraded conditions (R17) -/

/-- A flash channel is FAULTED, or retired with its rebuild incomplete. -/
def Mach.flashDegraded (m : Mach) : Bool :=
  (List.finRange 32).any (fun c => m.pageSt (.fch c) == .faulted) || m.fl.rbActive

/-- A DRAM device is marked as an erasure. -/
def Mach.dramMarked (m : Mach) : Bool := (List.finRange 4).any fun d => !(m.dram d).marked.isEmpty

/-- The twin partner counts as present (R381): link up, expected SERIAL heard, the TWN page running. -/
def Mach.partnerPresent (m : Mach) : Bool := m.twn.present && m.twn.up && m.running .twn

/-- The partner is lost while this controller owns a mirrored volume. -/
def Mach.twinDegraded (m : Mach) : Bool :=
  !m.partnerPresent && (List.finRange 64).any fun v => (m.volu v).mirrored && (m.volu v).owner

/-- A port that has had its link up since the last device reset is in reset or down while the other port's link is up. -/
def Mach.portDegraded (m : Mach) : Bool :=
  [Port.p0, Port.p1].any fun p => (m.port.get p).everUp && ((m.port.get p).perst || !(m.port.get p).up) &&
    (m.port.get p.other).up

/-- DEV_STATUS.DEGR (R17, R19). -/
def Mach.degraded (m : Mach) : Bool := m.flashDegraded || m.dramMarked || m.twinDegraded || m.portDegraded

/-- Pages held stopped by service actions (DEV_STATUS.HELD). -/
def Mach.heldPages (m : Mach) : Nat := (allPages.filter fun p => (m.hdr p).held).length

/-- Start-up is over and the device has not failed: IO_READY, DEGRADED or SERVICE. -/
def Mach.ioUp (m : Mach) : Bool := m.dev.st == .ioReady || m.dev.st == .degraded || m.dev.st == .service

/-- The number of Table 01.2. -/
def DevSt.num : DevSt → Nat
  | .boot => 0
  | .adminReady => 1
  | .ioReady => 2
  | .degraded => 3
  | .service => 4
  | .failed => 5

/-- The number of Table 03.6. -/
def Phase.num : Phase → Nat
  | .idle => 0
  | .quiesce => 1
  | .lamp => 2
  | .drain => 3
  | .checkpoint => 4
  | .done => 5
  | .abandoned => 6
  | .failed => 7

/-- A volume serves commands: READY or READ_ONLY (Table 05.4, check 5). -/
def Vol.serves (v : Vol) : Bool := v.st == .ready || v.st == .readOnly

/-- The layout that counts for R245: layout in force, or the one a CREATE or FORMAT in progress binds. -/
def Vol.countsLayout1 (v : Vol) : Bool := v.st != .absent && (v.layout1 || (v.op.isSome && v.newLayout1))

def Mach.anyLayout1 (m : Mach) : Bool := (List.finRange 64).any fun v => (m.volu v).countsLayout1

/-- Channels that serve no data path: not RUNNING, or retired (R187, R228). -/
def Mach.chanAway (m : Mach) (c : Chan) : Bool := !m.running (.fch c) || m.fl.retired.getLsbD c.val

end Sys2Proof.Machine
end

