-- ==== Sys2Proof/Machine/TwinOps.lean ====
section
/-! DEFINITION. Sending on the twin link (R378 to R386): frames, the window of 64, transfers and their identifiers. -/

namespace Sys2Proof.Machine

/-- The ACK of an outgoing frame: SEQ of the last sequenced frame received in order. -/
def Mach.twnAck (m : Mach) : Nat := (m.twn.rxSeq + 65535) % 65536

/-- Send an unsequenced frame. -/
def Mach.twnPlain (type : Nat) (words : List Nat) (m : Mach) : Mach :=
  if m.twn.up && m.running .twn then
    m.send (.frame { type := type, flags := 0, seq := 0, ack := m.twnAck, xid := 0, idx := 0, words := words, data := 0 })
  else m

/-- Put one sequenced frame on the link: it takes the next SEQ and is kept until an ACK covers it (R380). -/
def Mach.twnPut (f : Frame) (m : Mach) : Mach :=
  let g := { f with seq := m.twn.txSeq, ack := m.twnAck }
  ((m.updTwn fun t => { t with
      txSeq := (t.txSeq + 1) % 65536
      unacked := t.unacked ++ [g]
      peak := max t.peak (t.unacked.length + 1) }).send (.frame g)).bump64 Reg.TWN_TXFR_LO

/-- A sequenced frame goes out; with 64 unacknowledged it waits. -/
def Mach.twnGo (f : Frame) (m : Mach) : Mach :=
  if m.twn.unacked.length < 64 && m.twn.waiting.isEmpty then m.twnPut f
  else m.updTwn fun t => { t with waiting := t.waiting ++ [f] }

/-- What is first in the order goes out; where it is done, what follows it does (R385). -/
def Mach.twnNext : Nat → Mach → Mach
  | 0, m => m
  | n + 1, m =>
    match m.twn.order with
    | [] => m
    | o :: os =>
      let m := m.each o.held Mach.twnGo
      if o.left = 0 then (m.updTwn fun t => { t with order := os }).twnNext n
      else m.updTwn fun t => { t with order := { o with held := [] } :: os }

/-- Something joins the order. With the partner lost nothing is sent (R381). -/
def Mach.twnQueue (x : TxOpen) (m : Mach) : Mach :=
  if !m.partnerPresent then m
  else (m.updTwn fun t => { t with order := t.order ++ [x] }).twnNext (m.twn.order.length + 1)

def txFrame (type flags xid idx : Nat) (words : List Nat) (data : BitVec 2048) : Frame :=
  { type := type, flags := flags, seq := 0, ack := 0, xid := xid, idx := idx, words := words, data := data }

/-- Send a sequenced frame of its own. -/
def Mach.twnSend (type flags xid idx : Nat) (words : List Nat) (data : BitVec 2048) (m : Mach) : Mach :=
  m.twnQueue { xid := none, left := 0, held := [txFrame type flags xid idx words data] }

/-- Begin a transfer of `lbs` LBs with its WBEGIN or DEALLOC. -/
def Mach.twnBegin (type flags xid lbs : Nat) (words : List Nat) (m : Mach) : Mach :=
  m.twnQueue { xid := some xid, left := lbs, held := [txFrame type flags xid 0 words 0] }

/-- Change the place of a transfer in the order. -/
def Mach.twnFeed (xid : Nat) (f : TxOpen → TxOpen) (m : Mach) : Mach :=
  (m.updTwn fun t => { t with order := t.order.map fun o => if o.xid == some xid then f o else o }).twnNext (m.twn.order.length + 1)

/-- The transfers of a slot that is freed carry nothing more, and their answers are not awaited. -/
def Mach.twnForget (s : Nat) (m : Mach) : Mach :=
  let ids := (m.twn.tx.filter fun e => e.2 == .cmd s).map (·.1)
  let m := m.each ids fun x m => m.twnFeed x fun o => { o with left := 0 }
  let loose (e : Nat × TxFor) : Nat × TxFor := match e.2 with
    | .flush s' v rs => if s' = s then (e.1, .durable v rs) else e
    | _ => e
  m.updTwn fun t => { t with tx := (t.tx.filter fun e => !ids.contains e.1).map loose }

/-- Frames that waited go while the window has room. -/
def Mach.twnDrain (m : Mach) : Mach :=
  m.each m.twn.waiting fun f m =>
    if m.twn.unacked.length < 64 then (m.updTwn fun t => { t with waiting := t.waiting.drop 1 }).twnPut f else m

/-- Send again every unacknowledged frame from `seq` on, in order (R380). -/
def Mach.twnResend (seq : Nat) (m : Mach) : Mach :=
  m.each (m.twn.unacked.filter fun f => decide ((f.seq + 65536 - seq) % 65536 < 32768)) fun f m =>
    (m.send (.frame { f with ack := m.twnAck })).bump Reg.TWN_REPLAY

/-- A received ACK covers every frame up to it. -/
def Mach.twnAcked (ack : Nat) (m : Mach) : Mach :=
  (m.updTwn fun t => { t with unacked := t.unacked.filter fun f => decide (0 < (f.seq + 65536 - ack) % 65536 ∧
    (f.seq + 65536 - ack) % 65536 < 32768) }).twnDrain

/-- A transfer identifier for a new WBEGIN, DEALLOC or DURABLE. -/
def Mach.twnXid (w : TxFor) (m : Mach) : Mach × Nat :=
  let x := m.twn.nextXid
  (m.updTwn fun t => { t with nextXid := (x + 1) % 65536, tx := SMap.put t.tx x w }, x)

/-- The header and payload fields of WBEGIN, DEALLOC (Table 17.2). -/
def beginWords (v : Vid) (fence slba nlb : Nat) : List Nat := [v.val, fence, slba, nlb]

/-- FLAGS of part j of an LB: LAST marks the last frame of a transfer. -/
def lastFlag (left j : Nat) : Nat := if left ≤ 1 ∧ j = 15 then 4 else 0

/-- One LB as 16 WDATA frames (R385); part j carries bytes 256 j to 256 j + 255. -/
def Mach.twnData (xid off : Nat) (d : Block) (m : Mach) : Mach :=
  let part (left j : Nat) : Frame := txFrame 0x11 (lastFlag left j) xid (16 * off + j) [] ((d >>> (2048 * j)).setWidth 2048)
  let fs (left : Nat) : List Frame := (List.range 16).map (part left)
  m.twnFeed xid fun o => { o with left := o.left - 1, held := o.held ++ fs o.left }

/-- Which bits of a bitmap are set, in bytes. -/
def mapBytes (n : Nat) (l : List Nat) : List Byte :=
  (List.range n).map fun i => BitVec.ofNat 8 (((List.range 8).map fun j => if l.contains (8 * i + j) then 2 ^ j else 0).sum)

/-- The payload of a CTRL frame (Table 17.3) up to its last field: of RSMAP the first region and the bits, else OP, VOL, ARG, FENCE,
ROLE, SIZE and LAYOUT. -/
def ctrlPayload (ws : List Nat) : List Byte :=
  let f (i : Nat) : Nat := ws.getD i 0
  if f 0 = 8 then leBytes 1 8 ++ leBytes 1 (f 1) ++ leBytes 14 0 ++ leBytes 8 (f 2) ++ mapBytes 232 (ws.drop 3)
  else leBytes 1 (f 0) ++ leBytes 1 (f 1) ++ leBytes 2 (f 2) ++ leBytes 4 0 ++ leBytes 8 (f 3) ++ leBytes 1 (f 4) ++ leBytes 7 0 ++
    leBytes 8 (f 5) ++ leBytes 1 (f 6) ++ leBytes 223 0

/-- The packet of 68 words that holds a CTRL frame: its header, of which the link fills in SEQ and ACK, and its payload (R379). -/
def ctrlPacket (h : FrameHdr) (ws : List Nat) : List Word :=
  bytesWords (leBytes 1 0x20 ++ leBytes 1 0 ++ leBytes 2 h.seq ++ leBytes 2 h.ack ++ leBytes 2 h.xid ++ leBytes 2 0 ++ leBytes 2 256 ++
    leBytes 4 0 ++ ctrlPayload ws)

/-- The fields that a packet of 68 words holds. -/
def ctrlFields (p : List Word) : List Nat :=
  let w (i : Nat) : Nat := (p.getD (4 + i) 0).toNat
  if w 0 % 256 = 8 then
    [8, w 0 / 256 % 256, w 4 + 2 ^ 32 * w 5] ++ (List.range 1856).filter fun i => w (6 + i / 32) / 2 ^ (i % 32) % 2 == 1
  else [w 0 % 256, w 0 / 256 % 256, w 0 / 65536, w 2 + 2 ^ 32 * w 3, w 4 % 256, w 6 + 2 ^ 32 * w 7, w 8 % 256]

/-- Management firmware makes a CTRL frame and pushes it through PFF3 (R379): it passes at once, or waits until firmware and the page
run (DESIGN CHOICE, log entry 20). -/
def Mach.twnCtl (ws : List Nat) (m : Mach) : Mach :=
  if m.dev.fwRunning && m.running (.pff 3) then (m.fifoPass 3 (ctrlPacket ⟨0, 0, 0⟩ ws)).twnSend 0x20 0 0 0 ws 0
  else m.updTwn fun t => { t with ctlOut := t.ctlOut ++ [ws] }

/-- A CTRL frame (Table 17.3): OP, VOL, ARG, FENCE, ROLE, SIZE, LAYOUT. -/
def Mach.twnCtrl (op : Nat) (v : Vid) (arg fence role size layout : Nat) (m : Mach) : Mach :=
  m.twnCtl [op, v.val, arg, fence, role, size, layout]

/-- The transmitter takes the packets of PFF3 that it sees, each a CTRL frame of 68 words. -/
def Mach.ctlTaken (m : Mach) : Mach :=
  let f := m.fifo 3
  if m.running (.pff 3) && f.vis.length == 68 then
    let ws := f.vis.map (·.1)
    (m.setFifo 3 { f with vis := [], last := ws.getLastD 0, eop := true }).twnSend 0x20 0 0 0 (ctrlFields ws) 0
  else m

/-- A WACK with a status and the fence epoch held here (R385). -/
def Mach.twnWack (xid : Nat) (v : Vid) (status : Nat) (m : Mach) : Mach :=
  m.twnSend 0x12 0 xid 0 [status, (m.volu v).fence] 0

/-- What a waiting mailbox operation answers, unless its mailbox was reset meanwhile. -/
def TwinWait.reply (w : TwinWait) (f : Port → Mach → Mach) (m : Mach) : Mach := if w.alone then m else f w.port m

/-- A mailbox operation begins to wait (R393, R394). -/
def Mach.twnAwait (w : TwinWait) (m : Mach) : Mach := m.updTwn fun t => { t with wait := t.wait ++ [w] }

/-- It waits no longer. -/
def Mach.twnUnwait (w : TwinWait) (m : Mach) : Mach := m.updTwn fun t => { t with wait := t.wait.filter (· != w) }

/-- The regions of 16,384 LBs that a range touches (R389). -/
def regionsOf (slba n : Nat) : List Nat :=
  if n = 0 then [] else (List.range ((slba + n - 1) / 16384 - slba / 16384 + 1)).map (· + slba / 16384)

/-- Union into an ascending list without repeats. -/
def insertNat (x : Nat) : List Nat → List Nat
  | [] => [x]
  | y :: ys => if x < y then x :: y :: ys else if x = y then y :: ys else y :: insertNat x ys

def unionNat (a b : List Nat) : List Nat := a.foldl (fun l x => insertNat x l) b

/-- Regions become dirty (R389). -/
def Mach.markDirty (v : Vid) (rs : List Nat) (m : Mach) : Mach :=
  m.setVol v { m.volu v with dirty := unionNat rs (m.volu v).dirty }

/-- Are this volume's writes mirrored now: owner, partner present, IN_SYNC or RESYNCING (R385)? -/
def Mach.mirroring (m : Mach) (v : Vid) : Bool :=
  let x := m.volu v
  x.mirrored && x.owner && m.partnerPresent && (x.twin == .inSync || x.twin == .resyncing)

/-- The owner writes or deallocates a range: unconfirmed while it is mirrored, else dirty (R389). -/
def Mach.markWritten (v : Vid) (slba n : Nat) (m : Mach) : Mach :=
  let x := m.volu v
  if !(x.mirrored && x.owner) then m
  else if m.mirroring v then m.setVol v { x with unconf := unionNat (regionsOf slba n) x.unconf }
  else m.markDirty v (regionsOf slba n)

end Sys2Proof.Machine
end

