-- ==== Sys2Proof/Machine/Operands.lean ====
section
/-! DEFINITION. Operand forms: the fields of a submission entry (Table 05.2) and its CRC (R108), scatter lists (R109), physical
unit addresses (Table 10.1), the place of an LB in the map array (R236), and the parts of a device physical address (R151). -/

namespace Sys2Proof.Machine

/-! ### Submission entries -/

/-- Bits [hi:lo] of a dword of an entry. -/
def ent (e : Entry) (dword lo n : Nat) : Nat := (e.extractLsb' (32 * dword + lo) n).toNat

def entOpc (e : Entry) : Nat := ent e 0 0 8
def entFua (e : Entry) : Bool := ent e 0 8 1 == 1
def entStream (e : Entry) : Nat := ent e 0 9 3
def entLcb (e : Entry) : Bool := ent e 0 12 1 == 1
def entSgl (e : Entry) : Bool := ent e 0 13 1 == 1
def entTag (e : Entry) : BitVec 12 := e.extractLsb' 16 12
def entVol (e : Entry) : Vid := ⟨ent e 1 0 6, by unfold ent; exact (e.extractLsb' 32 6).isLt⟩
def entSlba (e : Entry) : Nat := ent e 2 0 64
def entNlb (e : Entry) : Nat := ent e 4 0 16
def entDptr (e : Entry) : Nat := ent e 6 0 64
def entFence (e : Entry) : Nat := ent e 8 0 64
def entFev (e : Entry) : Bool := ent e 10 0 1 == 1
def entCrc (e : Entry) : Nat := ent e 15 0 16

/-- Block count of the range. -/
def entCount (e : Entry) : Nat := entNlb e + 1

/-- An entry built by the controller itself: opcode, volume and range (touch lights, write-backs, resync pieces). -/
def mkEntry (opc : Nat) (v : Vid) (slba nlb : Nat) : Entry :=
  BitVec.ofNat 512 opc ||| (BitVec.ofNat 512 v.val <<< 32) ||| (BitVec.ofNat 512 slba <<< 64) ||| (BitVec.ofNat 512 nlb <<< 128)

/-- One bit of the CRC-16 of R108, not reflected. -/
def crc16Bit (c : BitVec 16) : BitVec 16 := if c.getLsbD 15 then (c <<< 1) ^^^ 0x1021 else c <<< 1

def crc16Byte (c : BitVec 16) (b : Byte) : BitVec 16 :=
  let x := c ^^^ (b.setWidth 16 <<< 8)
  crc16Bit (crc16Bit (crc16Bit (crc16Bit (crc16Bit (crc16Bit (crc16Bit (crc16Bit x)))))))

/-- CRC-16, polynomial 0x1021, initial value 0xFFFF, no reflection and no final XOR (R108). -/
def crc16 (bs : List Byte) : BitVec 16 := bs.foldl crc16Byte 0xFFFF

/-- The CRC over bytes 0 to 59 of an entry. -/
def entryCrc (e : Entry) : Nat := (crc16 ((List.range 60).map fun i => e.extractLsb' (8 * i) 8)).toNat

/-- Opcodes of Table 05.3. -/
def opWrite : Nat := 0x01
def opRead : Nat := 0x02
def opFlush : Nat := 0x03
def opDealloc : Nat := 0x04
def opVerify : Nat := 0x05
def opLight : Nat := 0x08
def opDouse : Nat := 0x09
def opPersist : Nat := 0x0A

def knownOpc (o : Nat) : Bool := [opWrite, opRead, opFlush, opDealloc, opVerify, opLight, opDouse, opPersist].contains o

/-- The lock column: exclusive. FLUSH takes no lock. -/
def exclOpc (o : Nat) : Bool := o == opWrite || o == opDealloc || o == opLight || o == opDouse || o == opPersist

/-- The largest block count of each opcode; FLUSH has none. -/
def maxCount (o : Nat) : Nat := if o = opDealloc then 65536 else 512

/-- Do two LB ranges (start, count) meet? -/
def overlaps (a n b k : Nat) : Bool := decide (a < b + k ∧ b < a + n)

/-! ### Scatter lists (R109) -/

def sglAddr (x : BitVec 128) : Nat := (x.extractLsb' 0 64).toNat
def sglLen (x : BitVec 128) : Nat := (x.extractLsb' 64 32).toNat
def sglLast (x : BitVec 128) : Bool := x.getLsbD 96

/-- The elements up to and including the first LAST one; none where no element is LAST. -/
def sglCut : List (BitVec 128) → Option (List (BitVec 128))
  | [] => none
  | x :: xs => if sglLast x then some [x] else (sglCut xs).map (x :: ·)

/-- The list is well formed for `total` bytes: at most 512 elements, addresses and lengths in order, the exact sum. -/
def sglOk (total : Nat) (l : List (BitVec 128)) : Option (List (BitVec 128)) :=
  match sglCut l with
  | none => none
  | some xs =>
    if xs.length ≤ 512 && xs.all (fun x => sglAddr x % 4 == 0 && sglLen x != 0 && sglLen x % 4 == 0) &&
      (xs.map sglLen).sum == total then some xs else none

/-- The host pieces (address, length) of bytes [start, start + len) of a buffer that a list describes. -/
def sglPieces : List (BitVec 128) → Nat → Nat → List (Nat × Nat)
  | [], _, _ => []
  | x :: xs, start, len =>
    if len = 0 then []
    else if sglLen x ≤ start then sglPieces xs (start - sglLen x) len
    else
      let n := min len (sglLen x - start)
      (sglAddr x + start, n) :: sglPieces xs 0 (len - n)

/-! ### Physical unit addresses (Table 10.1) -/

def adrChan (a : BitVec 40) : Chan := ⟨(a.extractLsb' 35 5).toNat, (a.extractLsb' 35 5).isLt⟩
def adrRow (a : BitVec 40) : Row := ⟨(a.extractLsb' 29 6).toNat, (a.extractLsb' 29 6).isLt⟩
def adrPlane (a : BitVec 40) : Nat := (a.extractLsb' 26 3).toNat
def adrBlock (a : BitVec 40) : Nat := (a.extractLsb' 14 12).toNat
def adrPage (a : BitVec 40) : Nat := (a.extractLsb' 2 12).toNat
def adrSlot (a : BitVec 40) : Nat := (a.extractLsb' 0 2).toNat

/-- The physical unit address of a codeword. -/
def mkAddr (c : Chan) (row plane block page slot : Nat) : BitVec 40 :=
  BitVec.ofNat 40 (c.val * 2 ^ 35 + (row % 64) * 2 ^ 29 + (plane % 8) * 2 ^ 26 + (block % 4096) * 2 ^ 14 +
    (page % 4096) * 4 + slot % 4)

/-- The die of an address: 64 × channel + die row (R29, R184). -/
def adrDie (a : BitVec 40) : Nat := 64 * (adrChan a).val + (adrRow a).val

/-- The furrow of an address: 4,096 × die row + block index (R255). -/
def adrFurrow (a : BitVec 40) : Nat := 4096 * (adrRow a).val + adrBlock a

/-- Is a map entry an address, neither special value (R235)? -/
def isAddr (a : BitVec 40) : Bool := a != unmapped && a != poisoned

/-! ### The map array (R236) -/

/-- The entry index of the MU of an LBA; none beyond the volume's chunks. -/
def entryIndex (v : Vol) (lba : Nat) : Option Nat :=
  (v.chunks[lba / 262144]?).map fun c => 65536 * c + (lba / 4) % 65536

/-! ### Device physical addresses (R151) -/

/-- One address of the lamp window, taken apart. -/
structure LampAddr where
  region : Nat
  block : Nat
  page : Nat
  line : Nat
  lba : Nat
  off : Nat
  deriving DecidableEq, Repr

/-- R151 for a defined region and an offset within its size. -/
def Mach.lampAddr (m : Mach) (dpa : Nat) : Option LampAddr :=
  let k := dpa / 2 ^ 46
  let off := dpa % 2 ^ 46
  let r := m.region k
  if k < 4 && r.defined && decide (off < r.size) then
    some { region := k, block := off / 2 ^ 21, page := (off / 4096) % 512, line := (off / 64) % 64,
           lba := r.base + 512 * (off / 2 ^ 21) + (off / 4096) % 512, off := off }
  else none

/-! ### Control bits of configuration space -/

/-- Offsets in a port's configuration space of the registers whose control bits the data path obeys: Device Control, and CXL Control of
the DVSEC for CXL Devices. -/
def cfgDevCtl : Nat := 0x58
def cfgCxlCtl : Nat := 0x16C

/-- What the host's writes have left in a register of configuration space. -/
def PortSt.cfgRd (x : PortSt) (reset : Word) (off : Nat) : Word := SMap.get reset x.cfg off

/-- Device Control at reset, as the PCIe base specification has it (PRESUMED): Relaxed Ordering and No Snoop enabled, reads of 512 bytes. -/
def devCtlReset : Word := 0x2810

/-- Enable Relaxed Ordering of Device Control (R78). -/
def PortSt.relaxedEn (x : PortSt) : Bool := (x.cfgRd devCtlReset cfgDevCtl).getLsbD 4

/-- Mem_Enable and Viral_Enable of CXL Control (R96, Table 04.7). -/
def PortSt.memEn (x : PortSt) : Bool := (x.cfgRd 0 cfgCxlCtl).getLsbD 2
def PortSt.viralEn (x : PortSt) : Bool := (x.cfgRd 0 cfgCxlCtl).getLsbD 14

end Sys2Proof.Machine
end

