-- ==== Sys2Proof/Machine/QueueOps.lean ====
section
/-! DEFINITION. Command slots (R115), the range-lock table (R119, R120) and the building of completions (R112, R113). -/

namespace Sys2Proof.Machine

/-! ### Slots -/

def Mach.slotUsed (m : Mach) (s : Nat) : Bool := m.q.used.contains s

/-- Slots in use by commands of a port. -/
def Mach.portSlots (m : Mach) (p : Port) : Nat := (m.q.used.filter fun s => (m.cmd s).port == some p).length

/-- RES0 and RES1 of QCT_SLOTRES. -/
def Mach.slotRes (m : Mach) (p : Port) : Nat :=
  match p with
  | .p0 => bits (m.rdN Reg.QCT_SLOTRES) 11 0
  | .p1 => bits (m.rdN Reg.QCT_SLOTRES) 27 16

/-- A port's unmet reservation (R115). -/
def Mach.unmet (m : Mach) (p : Port) : Nat := m.slotRes p - m.portSlots p

/-- How many slots a port may still take; a command of neither port must leave both reservations (R115, R159). -/
def Mach.slotsFree (m : Mach) (p : Option Port) : Nat :=
  4096 - m.q.used.length - (match p with
    | some p => m.unmet p.other
    | none => m.unmet .p0 + m.unmet .p1)

/-- The lowest-numbered free slot. -/
def Mach.lowSlot (m : Mach) : Nat := ((List.range 4096).find? fun s => !m.q.used.contains s).getD 0

/-- Take the lowest free slot for a command. -/
def Mach.takeSlot (c : Cmd) (m : Mach) : Mach × Nat :=
  let s := m.lowSlot
  let m := (m.updQ fun q => { q with used := insertNat s q.used }).setCmd s c
  ((m.raiseTo Reg.QCT_SLOTS m.q.used.length 4096).touch .qct, s)

/-- Free a slot. -/
def Mach.freeSlot (s : Nat) (m : Mach) : Mach :=
  ((m.twnForget s |>.updQ fun q => { q with used := q.used.filter (· != s), adm := q.adm.filter (· != s) }).setCmd s {}).touch .qct

/-! ### Range locks -/

/-- Slots with an entry in the table. -/
def Mach.locks (m : Mach) : List Nat := m.q.used.filter fun s => (m.cmd s).locked

/-- Keep RLK_PEAK at the highest levels seen (Table 05.13). -/
def Mach.lockPeak (m : Mach) : Mach :=
  let e := m.locks.length
  let w := (m.locks.filter fun s => !(m.cmd s).wait.isEmpty).length
  let v := m.rdN Reg.RLK_PEAK
  m.wr Reg.RLK_PEAK (BitVec.ofNat 32 (max e (bits v 12 0) + 65536 * max w (bits v 28 16)))

/-- Do two commands exclude each other (R119)? -/
def conflicts (a b : Cmd) : Bool :=
  entVol a.entry == entVol b.entry && overlaps (entSlba a.entry) (entCount a.entry) (entSlba b.entry) (entCount b.entry) &&
    (exclOpc (entOpc a.entry) || exclOpc (entOpc b.entry))

/-- The WBEGIN or DEALLOC of a command, once (R385). -/
def Mach.twinOpen (s : Nat) (m : Mach) : Mach :=
  let c := m.cmd s
  let o := entOpc c.entry
  let v := entVol c.entry
  if (o == opWrite || o == opDealloc) && c.kind == .host && m.mirroring v &&
      !(match c.xid with | some x => m.twn.tx.any (fun e => e.1 == x) | none => false) then
    let (m, x) := m.twnXid (.cmd s)
    (m.setCmd s { m.cmd s with xid := some x }).twnBegin (if o == opWrite then 0x10 else 0x13)
      (if o == opWrite && entFua c.entry then 1 else 0) x (if o == opWrite then entCount c.entry else 0)
      (beginWords v (m.volu v).fence (entSlba c.entry) (entNlb c.entry))
  else m

/-- Admission to execution. The owner of a mirrored volume sends WBEGIN or DEALLOC in this cycle (R385). -/
def Mach.admitCmd (s : Nat) (m : Mach) : Mach := (m.setCmd s { m.cmd s with stage := .admitted }).twinOpen s

/-- A wait set has become empty: the wait is over (RLK_MAXWAIT, quantity 0x52) and the command is admitted. -/
def Mach.admitWaiter (s : Nat) (m : Mach) : Mach :=
  let us := Config.elapsedUs m.free
  ((m.draw.raiseTo Reg.RLK_MAXWAIT us 0xFFFFFFFF).observe 0x52 none us).admitCmd s

/-- Take an entry out of the table; waiters whose wait set empties are admitted. -/
def Mach.release (s : Nat) (m : Mach) : Mach :=
  if !(m.cmd s).locked then m
  else
    let m := (m.setCmd s { m.cmd s with locked := false, wait := [] }).touch .rlk
    m.each m.locks fun t m =>
      let c := m.cmd t
      if c.wait.contains s then
        let w := c.wait.filter (· != s)
        let m := m.setCmd t { c with wait := w }
        if w.isEmpty && c.stage == .blocked then m.admitWaiter t else m
      else m

/-- A command enters the table (R119). -/
def Mach.enterLock (s : Nat) (m : Mach) : Mach :=
  let c := m.cmd s
  let w := m.locks.filter fun t => t != s && conflicts (m.cmd t) c
  let m := m.setCmd s { c with locked := true, wait := w, seq := m.q.rlkSeq, stage := .blocked }
  let m := (m.updQ fun q => { q with rlkSeq := q.rlkSeq + 1 }).touch .rlk
  let m := m.lockPeak
  if w.isEmpty then m.admitCmd s else m.bump64 Reg.RLK_CONFL_LO

/-! ### Completions -/

/-- The 16 bytes of a completion entry (Table 05.5). -/
def completionWord (status tag : Nat) (phase : Bool) (qid sqhd dw2 dw3 : Nat) : BitVec 128 :=
  BitVec.ofNat 128 (status % 65536 + 65536 * (tag % 4096) + (if phase then 2 ^ 31 else 0) +
    2 ^ 32 * (qid % 256 + 256 * (sqhd % 65536)) + 2 ^ 64 * (dw2 % 2 ^ 32) + 2 ^ 96 * (dw3 % 2 ^ 32))

/-- Write a completion into the queue's CQ and advance its tail; P inverts where the tail wraps (R113). -/
def Mach.post (q : Fin 256) (tag sqhd status dw2 dw3 : Nat) (m : Mach) : Mach :=
  let x := m.qp q
  let wraps := x.depth ≤ x.cqTail + 1
  ((m.setQp q { x with
      cqTail := if wraps then 0 else x.cqTail + 1
      phase := if wraps then !x.phase else x.phase
      inflight := x.inflight - 1 }).touch .qct).send
    (.completion x.port q.val (x.cqBase + 16 * x.cqTail) (completionWord status tag x.phase q.val sqhd dw2 dw3))

/-- The LBs of a command whose completion is built count as covered by a later FLUSH (R122). -/
def Mach.markCovered (ids : List Nat) (m : Mach) : Mach :=
  let mark (v : Ver) : Ver := if ids.contains v.id then { v with cov := true } else v
  let mark' (u : Unprot) : Unprot := if ids.contains u.ver then { u with cov := true } else u
  m.updBuf fun b => { b with vers := b.vers.map mark, unprot := b.unprot.map mark' }

/-- Nobody waits any longer for the flash reads of a slot; the reads themselves go on (R125). -/
def Mach.forgetReads (s : Nat) (m : Mach) : Mach :=
  m.updFl fun f => { f with
    tasks := f.tasks.map fun t => { t with who := t.who.filter fun w =>
      match w with
      | .cmd s' _ => s' != s
      | .light s' _ => s' != s
      | .resync s' _ => s' != s
      | .rmw .. => true
      | .peer .. => true }
    fills := f.fills.filter fun x => x.slot != s }

/-- A command's completion is built: its lock is released, a host's command is answered, and slot and tag become free (R115,
R120). WRITE_FAULT counts in the health log, and sets SOW PG_ERR bit 18 for a FLUSH or FUA write (R254). -/
def Mach.complete (s status dw2 dw3 : Nat) (m : Mach) : Mach :=
  let c := m.cmd s
  let o := entOpc c.entry
  let m := m.release s
  let m := m.forgetReads s
  let m := if o == opWrite || o == opDealloc then m.markCovered c.vers else m
  let m := if status = St.writeFault && c.kind == .host then
      let m := m.updAdm fun a => { a with health := { a.health with wfault := (a.health.wfault + 1) % 2 ^ 64 } }
      if o == opFlush || (o == opWrite && entFua c.entry) then m.raise .sow 18 0 else m
    else m
  let m := if c.kind == .host then
      let us := Config.elapsedUs m.free
      m.draw.observe 0x20 (some (if us = 0 then 0 else min 15 (Nat.log2 us + 1))) us
    else m
  let m := match c.qid with
    | some q => m.post q (entTag c.entry).toNat c.sqhd status dw2 dw3
    | none => m
  m.freeSlot s

/-- Commands whose every durability condition is met and whose partner, if any, has answered. -/
def Mach.coveredSlots (m : Mach) : List Nat :=
  m.q.used.filter fun s => (m.cmd s).covering && (m.cmd s).cover.isEmpty && (m.cmd s).todo.isEmpty

/-- The status of a command that waited for durability: its first failure in LBA order, else the partner's, else SUCCESS. -/
def Cmd.finalStatus (c : Cmd) : Nat :=
  match c.fails with
  | f :: _ => f.2
  | [] => c.partnerStatus

/-- The mirror's answers whose data is durable are sent (R386). -/
def Mach.settleRx (m : Mach) : Mach :=
  let done := m.twn.rxWait.filter fun w => w.cover.isEmpty
  m.each done fun w m => (m.updTwn fun t => { t with rxWait := t.rxWait.filter fun x => x.xid != w.xid }).twnWack w.xid w.vol w.status

/-- Complete every command that waited for durability and has it (R122, R123, R160), and answer the partner likewise. -/
def Mach.settleCovers (m : Mach) : Mach :=
  let m := m.settleRx
  m.each m.coveredSlots fun s m =>
    let c := m.cmd s
    let o := entOpc c.entry
    m.complete s c.finalStatus (if o == opDouse || o == opPersist then c.done else 0) 0

/-- Every cover that `f` no longer needs goes; a cover may be replaced. -/
def Mach.mapCovers (f : Cover → Option Cover) (m : Mach) : Mach :=
  let m := m.each m.q.used fun s m =>
    let c := m.cmd s
    if c.cover.isEmpty then m else m.setCmd s { c with cover := c.cover.filterMap f }
  m.updTwn fun t => { t with rxWait := t.rxWait.map fun w => { w with cover := w.cover.filterMap f } }

end Sys2Proof.Machine
end

