-- ==== Sys2Proof/Machine/FurOps.lean ====
section
/-! DEFINITION. Furrows and blocks (R255 to R275), the asking for headland records (R281, R288), dirty segments (R283 to R285), and
the urgency level (R261 to R263). -/

namespace Sys2Proof.Machine

/-! ### Headland records -/

/-- Ask the headland writer for a record; its number. -/
def Mach.ask (b : HBody) (m : Mach) : Mach × Nat :=
  let id := m.hdl.nextRec
  (m.updHdl fun h => { h with want := h.want ++ [(id, b)], nextRec := id + 1 }, id)

/-- Ask for a record and have someone wait for it, and where `root` also for the root behind it. -/
def Mach.askFor (b : HBody) (root : Bool) (w : Waiter) (m : Mach) : Mach :=
  let (m, id) := m.ask b
  m.updHdl fun h => { h with waiters := h.waiters ++ [(id, root, w)] }

/-- A DEFINITION record and the root that follows it. -/
def Mach.askDefinition (w : Waiter) (m : Mach) : Mach := m.askFor (.definition {}) true w

/-- The epoch of the next root to be started (R268, R286). -/
def Mach.nextRootEpoch (m : Mach) : Nat := m.hdl.epoch + 1

/-! ### Segments -/

/-- FSN of the furrows open in data positions. -/
def Mach.openDataFsns (m : Mach) : List Nat := (m.buf.opn.filter fun e => e.1 != 6).map fun e => e.2.fsn

/-- The covered FSN of a change made now (R285): the lowest FSN among open data furrows, or the next FSN. -/
def Mach.coverNow (m : Mach) : Nat := m.openDataFsns.foldl min m.buf.fsn

/-- REPLAYFSN of a root built now: the lowest covered FSN, a clean segment counting as covered at the next FSN. -/
def Mach.replayFsn (m : Mach) : Nat := (m.hdl.seg.filter fun e => e.2.dirty).foldl (fun a e => min a e.2.cov) m.buf.fsn

/-- Data furrows whose FSN is at or above it. -/
def Mach.window (m : Mach) : Nat := (m.gln.fur.filter fun e => e.2.fsn != 0 && decide (m.replayFsn ≤ e.2.fsn)).length

/-- HDL_WINDOW.PEAK follows the window up (R452). -/
def Mach.raiseWindow (m : Mach) : Mach :=
  let w := min m.window 31
  if m.hdl.winPeak < w then (m.updHdl fun h => { h with winPeak := w }).touch .hdl else m

/-- A segment changes: it becomes dirty and keeps the covered FSN of its first change, which may lengthen the window. -/
def Mach.markSeg (s : Nat) (m : Mach) : Mach :=
  let x := SMap.get {} m.hdl.seg s
  if x.dirty then m
  else (m.updHdl fun h => { h with seg := SMap.set {} h.seg s { x with dirty := true, cov := m.coverNow } }).raiseWindow

/-- Map segments that hold a byte of an entry (R283). -/
def mapSegsOf (i : Nat) : List Nat :=
  if 5 * i / 2 ^ 25 = (5 * i + 4) / 2 ^ 25 then [5 * i / 2 ^ 25] else [5 * i / 2 ^ 25, (5 * i + 4) / 2 ^ 25]

/-- Count of map segments: ⌈5 × entries / 2^25⌉. -/
def Mach.mapSegs (m : Mach) : Nat := (5 * m.vol.entries + 2 ^ 25 - 1) / 2 ^ 25

/-- Die rows of the board, R = TARGETS × DIES (R283). -/
def Mach.rows (m : Mach) : Nat := m.adm.board.targets * m.adm.board.dies

/-- Is this die row populated: target r / 4, LUN r mod 4. -/
def Mach.rowPresent (m : Mach) (r : Nat) : Bool := decide (r / 4 < m.adm.board.targets ∧ r % 4 < m.adm.board.dies)

/-- Count of table segments: ⌈11 × R / 256⌉. -/
def Mach.tableSegs (m : Mach) : Nat := (11 * m.rows + 255) / 256

/-- The definition segment, always the last. -/
def Mach.defSeg (m : Mach) : Nat := m.mapSegs + m.tableSegs

/-- The place of a die row among the rows of the board, and that of a die among its dies, in the order of the die index (R283; log
entry 180). -/
def Mach.rowNo (m : Mach) (r : Nat) : Nat := m.adm.board.dies * (r / 4) + r % 4
def Mach.dieNo (m : Mach) (d : Nat) : Nat := m.rows * (d / 64) + m.rowNo (d % 64)

/-- Byte offsets in the concatenated tables (R283): the entry of a furrow, the entry of a block, its voltage byte, the bad-block tables
of a die. -/
def Mach.furOffset (m : Mach) (f : Nat) : Nat := 32 * (4096 * m.rowNo (f / 4096) + f % 4096)
def Mach.blkOffset (m : Mach) (d b : Nat) : Nat := 32 * 4096 * m.rows + 8 * (4096 * m.dieNo d + b)
def Mach.voltOffset (m : Mach) (d b : Nat) : Nat := (32 + 8 * 32) * 4096 * m.rows + (4096 * m.dieNo d + b)
def Mach.badOffset (m : Mach) (d : Nat) : Nat := (32 + 9 * 32) * 4096 * m.rows + 4096 * m.dieNo d

/-- The table segment of a byte of the tables. -/
def Mach.tableSeg (m : Mach) (off : Nat) : Nat := m.mapSegs + off / 2 ^ 25

def Mach.markTable (off : Nat) (m : Mach) : Mach := m.markSeg (m.tableSeg off)

/-! ### Furrow and block tables -/

/-- Write a furrow's entry; its table segment becomes dirty. -/
def Mach.putFur (f : Nat) (x : Fur) (m : Mach) : Mach := (m.setFur f x).markTable (m.furOffset f)

/-- Write a block's entry, or the voltage byte beside it. -/
def Mach.putBlk (d b : Nat) (x : Blk) (m : Mach) : Mach :=
  let y := m.blk d b
  let m' := m.setBlk d b x
  let m' := if { x with step := y.step } = y then m' else m'.markTable (m.blkOffset d b)
  if x.step = y.step then m' else m'.markTable (m.voltOffset d b)

/-- Write the bad-block tables of a die. -/
def Mach.putBad (d : Nat) (x : BadTab) (m : Mach) : Mach :=
  (m.setDie d { m.die d with grown := x.grown, subst := x.subst }).markTable (m.badOffset d)

def DieSt.bad (x : DieSt) : BadTab := { grown := x.grown, subst := x.subst }

/-- Senses of a block add to its read count, which sticks at 0xFF_FFFF (R277). -/
def Mach.senses (d b n : Nat) (m : Mach) : Mach := m.putBlk d b { m.blk d b with reads := min 0xFFFFFF ((m.blk d b).reads + n) }

/-- Die index of a channel and die row (R29). -/
def dieOf (c : Chan) (row : Nat) : Nat := 64 * c.val + row % 64

/-- Spares of a die: the highest ⌈BLOCKS / 32⌉ block indices (R255). -/
def Mach.nspare (m : Mach) : Nat := (m.adm.board.blocks + 31) / 32

def Mach.firstSpare (m : Mach) : Nat := m.adm.board.blocks - m.nspare

/-- System blocks: block indices 0 to 127 of the dies of target T0 (R185, R255). -/
def isSystem (row b : Nat) : Bool := decide (row < 4 ∧ b < 128)

/-- Is furrow index f a furrow position (R255)? -/
def Mach.isFurrow (m : Mach) (f : Nat) : Bool :=
  m.rowPresent (f / 4096) && decide (f % 4096 < m.firstSpare) && !isSystem (f / 4096) (f % 4096)

/-- The physical block that serves block index b of furrow f on a channel: itself, or the spare substituted (R272). -/
def Mach.memberBlock (m : Mach) (c : Chan) (f : Nat) : Nat :=
  match ((m.die (dieOf c (f / 4096))).subst.find? fun e => e.2 == f % 4096) with
  | some e => e.1
  | none => f % 4096

/-- The furrow of a physical block of a die row on a channel, spares by the substitution list. -/
def Mach.furrowOf (m : Mach) (c : Chan) (row b : Nat) : Nat :=
  let s := SMap.get 0xFFFF (m.die (dieOf c row)).subst b
  4096 * row + (if m.firstSpare ≤ b && s < 4096 then s else b)

def Mach.furrowOfAddr (m : Mach) (a : BitVec 40) : Nat := m.furrowOf (adrChan a) (adrRow a).val (adrBlock a)

/-- Channels that are members of a furrow: neither absent nor lost. -/
def goodMembers (x : Fur) : List Chan := (List.finRange 32).filter fun c => !(x.absent ||| x.lost).getLsbD c.val

/-- ⌊mean⌋ of the erase counts of the members that are neither absent nor lost (R260). -/
def Mach.meanErase (m : Mach) (f : Nat) : Nat :=
  let cs := goodMembers (m.fur f)
  if cs.isEmpty then 0
  else (cs.map fun c => (m.blk (dieOf c (f / 4096)) (m.memberBlock c f)).erases).sum / cs.length

/-- The walk of R222: channels from f mod 32 upward, modulo 32, that are present. -/
def walk (fsn : Nat) (absent : Word) : List Chan :=
  ((List.finRange 32).map fun i => i + Fin.ofNat 32 fsn).filter fun c => !absent.getLsbD c.val

/-- Parity members of the walk: P, and Q under layout 0. -/
def parityCount (layout1 : Bool) : Nat := if layout1 then 1 else 2

/-- Data members in walk order. -/
def dataWalk (fsn : Nat) (layout1 : Bool) (absent : Word) : List Chan := (walk fsn absent).drop (parityCount layout1)

/-! ### Urgency (R261) -/

/-- FALLOW furrows that may be opened. -/
def Mach.fallows (m : Mach) : List Nat :=
  (m.gln.fur.filter fun e => e.2.st == .fallow && !e.2.retired).map (·.1)

def Mach.fallowCount (m : Mach) : Nat := m.fallows.length

def Urgency.num : Urgency → Nat
  | .low => 0
  | .normal => 1
  | .urgent => 2
  | .exhausted => 3

/-- The level that Table 11.3 gives a fallow count. -/
def Mach.levelFor (m : Mach) (n : Nat) : Urgency :=
  if n ≤ m.rdN Reg.GLN_EXHTHR then .exhausted
  else if n < m.rdN Reg.GLN_FLOOR then .urgent
  else if n < m.rdN Reg.GLN_HIWM then .normal
  else .low

/-- The level falls by the hysteresis rule: as far as the count allows. -/
def Mach.levelFall (m : Mach) (n : Nat) : Urgency :=
  let h := m.rdN Reg.GLN_HYST
  let l0 := m.gln.level
  let l1 : Urgency := if l0 == .exhausted && decide (m.rdN Reg.GLN_EXHTHR + 1 + h ≤ n) then .urgent else l0
  let l2 : Urgency := if l1 == .urgent && decide (m.rdN Reg.GLN_FLOOR + h ≤ n) then .normal else l1
  if l2 == .normal && decide (m.rdN Reg.GLN_HIWM + h ≤ n) then .low else l2

/-- WRITEs short of their commit point that the range-lock table or execution holds. -/
def Mach.shortWrites (m : Mach) : List Nat :=
  m.q.used.filter fun s =>
    let c := m.cmd s
    entOpc c.entry == opWrite && c.kind == .host && (c.stage == .blocked || c.stage == .admitted || c.stage == .running)

/-- EXHAUSTED is reached: such WRITEs complete with NO_SPACE, PG_ERR bit 19 sets as CRIT (R263). -/
def Mach.enterExhausted (m : Mach) : Mach :=
  (m.each m.shortWrites fun s m => m.complete s St.noSpace 0 0).raise .gln 19 0

/-- Follow the fallow count. Before the first format there is no fallow pool, and the level stays LOW. -/
def Mach.urgency (m : Mach) : Mach :=
  if !m.dev.loaded then m
  else
    let n := m.fallowCount
    let up := m.levelFor n
    let l := if m.gln.level.num < up.num then up else m.levelFall n
    let m' := m.updGln fun g => { g with level := l, debt := if l == .low then 0 else g.debt }
    let m' := if l == m.gln.level then m' else m'.touch .gln
    if l == .exhausted && m.gln.level != .exhausted then m'.enterExhausted else m'

/-- Change the debt by d (R262): it sticks at 0 below and at 0xFFFF_FFFF above, and LOW holds it at 0. -/
def Mach.addDebt (d : Int) (m : Mach) : Mach :=
  m.updGln fun g => { g with debt := if g.level == .low then 0 else min 0xFFFFFFFF ((g.debt : Int) + d).toNat }

/-! ### Valid counts and release (R258, R268) -/

/-- Furrows in ranks 1 to 3 or a rebuild take note when a furrow is released: a victim's slot frees. -/
def Mach.endVictim (f : Nat) (m : Mach) : Mach :=
  m.updGln fun g => { g with
    vic0 := g.vic0.filter fun v => v.furrow != f
    vic1 := g.vic1.filter fun v => v.furrow != f
    residual := g.residual.filter (· != f) }

/-- A furrow becomes RELEASED and notes e_rel. -/
def Mach.releaseFur (f : Nat) (m : Mach) : Mach :=
  (m.putFur f { m.fur f with st := .released, eRel := m.nextRootEpoch }).endVictim f

/-- An entry takes an address in a furrow. -/
def Mach.validUp (f : Nat) (m : Mach) : Mach := m.setFur f { m.fur f with valid := (m.fur f).valid + 1 }

/-- An entry gives up an address in a furrow; at 0 a CLOSED or GLEANING furrow is RELEASED. -/
def Mach.validDown (f : Nat) (m : Mach) : Mach :=
  let x := m.fur f
  let m := m.setFur f { x with valid := x.valid - 1 }
  if x.valid ≤ 1 && (x.st == .closed || x.st == .gleaning) then m.releaseFur f else m

/-- A furrow closes; it is RELEASED at once where nothing in it is valid. -/
def Mach.closeFur (f : Nat) (m : Mach) : Mach :=
  let m := m.putFur f { m.fur f with st := .closed }
  if (m.fur f).valid = 0 then m.releaseFur f else m

/-! ### Capacity (R135) -/

/-- The dies present, with their indices. -/
def Mach.dies (m : Mach) : List (Nat × DieInfo) := m.fl.die.filterMap fun e => e.2.info.map fun i => (e.1, i)

/-- Blocks of a die that are not bad. -/
def Mach.goodBlocks (m : Mach) (d : Nat) : Nat :=
  ((List.range m.adm.board.blocks).filter fun b =>
    let st := (m.blk d b).st
    st != .factoryBad && st != .grownBad && !((m.die d).info.any fun i => i.factoryBad.contains b)).length

/-- LBs that the good blocks of the channels outside a mask of retired ones hold. -/
def Mach.goodLbsWith (m : Mach) (retired : Word) : Nat :=
  ((m.dies.filter fun e => !retired.getLsbD (e.1 / 64)).map fun e => m.goodBlocks e.1).sum * m.adm.board.planes *
    m.adm.board.pages * 4

def Mach.goodLbs (m : Mach) : Nat := m.goodLbsWith m.fl.retired

/-- USERCAP for a good-block capacity (R135; 29/31 once a channel is retired, R231). -/
def userCapOf (good num den : Nat) : Nat := good * num * 100 / (den * 111) / 262144 * 262144

/-- USERCAP where the channels of a mask are retired. -/
def Mach.userCapWith (m : Mach) (retired : Word) : Nat :=
  if retired = 0 then userCapOf (m.goodLbsWith 0) 30 32 else userCapOf (m.goodLbsWith retired) 29 31

def Mach.userCapNow (m : Mach) : Nat := m.userCapWith m.fl.retired

/-- ALLOCCAP: LBs allocated to volumes. -/
def Mach.allocCap (m : Mach) : Nat := (m.vol.v.map fun e => e.2.size).sum

/-! ### Bad blocks (R270 to R274) -/

/-- Is every slot of the grown table of a die taken (R273)? -/
def Mach.grownFull (m : Mach) (d : Nat) : Bool := decide (256 ≤ (m.die d).grown.length)

/-- N of R274: the layout-0 furrows that hold USERCAP, plus GLN_FLOOR. A layout-0 furrow holds 30 × PLANES × PAGES MUs. -/
def Mach.spareN (m : Mach) : Nat :=
  let per := 30 * m.adm.board.planes * m.adm.board.pages
  (m.vol.usercap / 4 + per - 1) / (max per 1) + m.rdN Reg.GLN_FLOOR

/-- U of R274: furrows not RETIRED. -/
def Mach.spareU (m : Mach) : Nat := (m.gln.fur.filter fun e => !e.2.retired).length

/-- Every READY volume becomes READ_ONLY (R141, R422), and the next DEFINITION record says so. -/
def Mach.allReadOnly (m : Mach) : Mach :=
  if (List.finRange 64).all fun v => (m.volu v).st != .ready then m
  else
    let m := m.each (List.finRange 64) fun v m =>
      if (m.volu v).st == .ready then m.setVol v { m.volu v with st := .readOnly } else m
    (m.ask (.definition {})).1

/-- Recompute SPARE; at 0 every READY volume becomes READ_ONLY (R274, R141), and a rebuild pauses (R231). -/
def Mach.spareUpdate (m : Mach) : Mach :=
  let h := m.adm.health
  let u := m.spareU
  let n := m.spareN
  let s := if u ≤ n then 0 else 100 * (u - n) / max 1 (h.u0 - h.n0)
  let s := if m.fl.rbActive then s else min s h.spare
  let m := m.updAdm fun a => { a with health := { a.health with spare := s } }
  if s = 0 then
    let m := m.allReadOnly
    if m.fl.rbActive then m.raise .ecc 18 0 else m
  else m

/-- A furrow is RETIRED and never opened again (R272). -/
def Mach.retireFur (f : Nat) (m : Mach) : Mach :=
  if (m.fur f).retired then m
  else ((m.putFur f { m.fur f with retired := true }).raise .gln 18 (BitVec.ofNat 64 f)).spareUpdate.urgency

/-- A block becomes GROWN_BAD (R273): its die's table takes an entry while it has room, and GROWNBAD counts it. -/
def Mach.growBad (d b cause : Nat) (m : Mach) : Mach :=
  let x := m.die d
  let m := m.putBlk d b { m.blk d b with st := .grownBad }
  let m := m.updAdm fun a => { a with health := { a.health with grownBad := min 0xFFFFFFFF (a.health.grownBad + 1) } }
  let m := (m.ask (.blockBad d b cause m.alm.pot .failed)).1
  if m.grownFull d then m
  else
    let m := m.putBad d { x.bad with grown := x.grown ++ [{ block := b, cause := cause, pot := m.alm.pot }] }
    if m.grownFull d then m.raise .gln 17 (BitVec.ofNat 64 d) else m

/-- What followed a block's failure is recorded; what the first format finds stands in its initial images (R272, R285). -/
def Mach.recordBad (d b : Nat) (e : BadEnd) (m : Mach) : Mach :=
  if m.dev.loaded then
    let g := (m.die d).grown.find? fun g => g.block == b
    (m.ask (.blockBad d b (g.elim 0 (·.cause)) m.alm.pot e)).1
  else m

/-- A member of a furrow that holds data becomes GROWN_BAD: its channel joins the lost mask and the furrow gets RELOCATE. -/
def Mach.memberBad (c : Chan) (f cause : Nat) (m : Mach) : Mach :=
  let m := m.growBad (dieOf c (f / 4096)) (m.memberBlock c f) cause
  let m := m.putFur f { m.fur f with lost := (m.fur f).lost ||| bit32 c.val, relocate := true }
  if (m.die (dieOf c (f / 4096))).grown.any fun g => g.block == m.memberBlock c f then m
  else (m.recordBad (dieOf c (f / 4096)) (m.memberBlock c f) .retired).retireFur f

/-- The lowest-index FALLOW spare of a die that serves no furrow (R272). -/
def Mach.freeSpare (m : Mach) (d : Nat) : Option Nat :=
  (List.range m.nspare).map (· + m.firstSpare) |>.find? fun b =>
    SMap.get 0xFFFF (m.die d).subst b == 0xFFFF && (m.blk d b).st != .factoryBad && (m.blk d b).st != .grownBad &&
      (m.blk d b).st != .erasing && (m.blk d b).st != .eraseSuspended && (m.blk d b).st != .eraseInterrupted

/-- A spare serves a furrow block index in place of a bad block, which is marked where it was a spare itself. -/
def BadTab.substituted (x : BadTab) (firstSpare b s index : Nat) : BadTab :=
  let t := if firstSpare ≤ b then SMap.set 0xFFFF x.subst b 0xFFFE else x.subst
  { x with subst := SMap.set 0xFFFF t s index }

/-- Replace the bad member of a furrow on one channel; without a free spare, or with a full grown table, the furrow is RETIRED. -/
def Mach.substitute (f : Nat) (c : Chan) (m : Mach) : Mach :=
  let d := dieOf c (f / 4096)
  let b := m.memberBlock c f
  let bad := (m.blk d b).st == .factoryBad || (m.blk d b).st == .grownBad
  if !bad then m
  else match (if m.grownFull d then none else m.freeSpare d) with
    | none => (m.recordBad d b .retired).retireFur f
    | some s => (m.putBad d ((m.die d).bad.substituted m.firstSpare b s (f % 4096))).recordBad d b (.spare s (f % 4096))

/-- Every member of a furrow is erased: bad members are replaced and the furrow is FALLOW (R256, R272, R275). -/
def Mach.makeFallow (f : Nat) (m : Mach) : Mach :=
  let x := m.fur f
  let m := m.each ((List.finRange 32).filter fun c => !x.absent.getLsbD c.val) fun c m => m.substitute f c
  (m.putFur f { (m.fur f) with
    st := .fallow, fsn := 0, layout1 := false, absent := 0, lost := 0, placed := 0, valid := 0, refresh := false,
    relocate := false, eRel := 0, toErase := 0, stripes := 0 }).urgency

end Sys2Proof.Machine
end

