-- ==== Sys2Proof/Machine/LampOps.lean ====
section
/-! DEFINITION. Lamp pages, frames, descriptors, the poison list and the Lantern's lookups (R94, R95, R148 to R172). -/

namespace Sys2Proof.Machine

/-- Bit i of a bitmap, set or cleared. -/
def setBit {w : Nat} (x : BitVec w) (i : Nat) (b : Bool) : BitVec w :=
  if b then x ||| BitVec.ofNat w (2 ^ i) else x &&& ~~~(BitVec.ofNat w (2 ^ i))

/-- How many bits are set. -/
def popCount {w : Nat} (x : BitVec w) : Nat := ((List.range w).filter fun i => x.getLsbD i).length

/-! ### Page states (Table 07.4) -/

inductive PageLamp where
  | dark | lighting | lit | litDirty | persisting | dousing | tainted
  deriving DecidableEq, Repr

/-- The state of page p, by the order of checks of R155; a TAINTALL block is tainted throughout (R167). -/
def Desc.state (d : Desc) (p : Nat) : PageLamp :=
  if d.taintAll then .tainted
  else if d.lit.getLsbD p then
    if d.pendw.getLsbD (p / 4) then .persisting else if d.dirty.getLsbD p then .litDirty else .lit
  else if d.dirty.getLsbD p then .tainted
  else if d.pendl.getLsbD (p / 4) then .lighting
  else if d.pendw.getLsbD (p / 4) then .dousing
  else .dark

/-- Does a page hold its value in a frame line by line? -/
def PageLamp.isLit : PageLamp → Bool
  | .lit => true
  | .litDirty => true
  | .persisting => true
  | _ => false

/-- The key (k << 26) + b of a lamp block, which is also its CHECK (R152). -/
def descKey (k b : Nat) : Nat := k * 2 ^ 26 + b

/-- The DPA of a page of a block. -/
def pageDpa (key p : Nat) : Nat := (key / 2 ^ 26) * 2 ^ 46 + (key % 2 ^ 26) * 2 ^ 21 + p * 4096

/-- The lamp page of an LB: block key and page, where a region holds it. -/
def Mach.lampOf (m : Mach) (v : Vid) (lba : Nat) : Option (Nat × Nat) :=
  let k? := (List.range 4).find? fun k =>
    let r := m.region k
    r.defined && r.vol == v && decide (r.base ≤ lba ∧ lba < r.base + r.size / 4096)
  k?.map fun k =>
    let o := lba - (m.region k).base
    (descKey k (o / 512), o % 512)

/-! ### A descriptor as it lies in DRAM (Table 07.3) -/

/-- Tainted pages of a block. -/
def Desc.tainted (d : Desc) : Nat := popCount (d.dirty &&& ~~~d.lit)

/-- HDR: FRAME, FVALID, LITCNT, DIRTYCNT, CHECK. -/
def Desc.hdrWord (d : Desc) (key : Nat) : Nat :=
  d.frame.getD 0 % 2 ^ 17 + (if d.frame.isSome then 2 ^ 17 else 0) + 2 ^ 18 * popCount d.lit + 2 ^ 28 * popCount (d.lit &&& d.dirty) +
    2 ^ 48 * (key % 2 ^ 16)

/-- TSTAT: TAINTCNT and TAINTALL. -/
def Desc.tstatWord (d : Desc) : Nat := d.tainted + (if d.taintAll then 2 ^ 10 else 0)

/-- The 192 bytes of a lamp block's descriptor. -/
def Desc.bytes (d : Desc) (key : Nat) : List Byte :=
  leBytes 8 (d.hdrWord key) ++ leBytes 64 d.lit.toNat ++ leBytes 64 d.dirty.toNat ++ leBytes 16 d.pendl.toNat ++ leBytes 16 d.pendw.toNat ++
    leBytes 16 d.tsrc.toNat ++ leBytes 8 d.tstatWord

/-- CHECK of a loaded descriptor is the one its place asks for; a mismatch is treated as an uncorrectable error in it (R152, R167). -/
def checkOk (b : List Byte) (key : Nat) : Bool := ofLeBytes ((b.drop 6).take 2) == key % 2 ^ 16

/-! ### Frames -/

def lineKey (frame page line : Nat) : Nat := 32768 * frame + 64 * page + line

/-- The lowest free frame (R154). -/
def Mach.freeFrame (m : Mach) : Option Nat :=
  (List.range m.lamp.frames).find? fun f => !m.lamp.owner.any fun o => o.1 == f

def Mach.framesFree (m : Mach) : Nat := m.lamp.frames - m.lamp.owner.length

/-- A block takes a frame when its first page begins lighting. -/
def Mach.takeFrame (key : Nat) (m : Mach) : Mach :=
  if (m.desc key).frame.isSome then m
  else match m.freeFrame with
    | none => m
    | some f => (m.updLamp fun l => { l with owner := l.owner ++ [(f, key)] }).setDesc key { m.desc key with frame := some f }

/-- The 4 KiB of a page in its frame. -/
def Mach.framePage (m : Mach) (frame page : Nat) : Block :=
  (List.range 64).foldl (fun b i => b ||| ((SMap.get 0 m.lamp.line (lineKey frame page i)).setWidth 32768 <<< (512 * i))) 0

def Mach.pageLost (m : Mach) (frame page : Nat) : Bool :=
  m.lamp.lost.any fun k => decide (lineKey frame page 0 ≤ k ∧ k ≤ lineKey frame page 63)

/-! ### The poison list (R95) -/

/-- An entry joins the list while it holds fewer than 1,024; beyond that the overflow flag sets. -/
def Mach.addPoison (dpa len src : Nat) (m : Mach) : Mach :=
  m.updAdm fun a => if a.poison.length < 1024 then { a with poison := a.poison ++ [(dpa, len, src)] }
    else { a with poisonOver := true }

/-- Entries leave; the overflow flag clears when the list holds none. -/
def Mach.dropPoison (p : Nat × Nat × Nat → Bool) (m : Mach) : Mach :=
  m.updAdm fun a =>
    let l := a.poison.filter fun e => !p e
    { a with poison := l, poisonOver := a.poisonOver && !l.isEmpty }

/-- A line is written whole: it is no longer lost (R166). -/
def Mach.unlose (key frame page line : Nat) (m : Mach) : Mach :=
  if m.lamp.lost.contains (lineKey frame page line) then
    (m.updLamp fun l => { l with lost := l.lost.filter (· != lineKey frame page line) }).dropPoison fun e =>
      e.1 == pageDpa key page + 64 * line && e.2.1 == 1
  else m

/-- A frame line becomes lost: listed with source Internal, counted, PG_ERR.BLK bit 17 (R166, R174). -/
def Mach.loseLine (frame page line : Nat) (m : Mach) : Mach :=
  if m.lamp.lost.contains (lineKey frame page line) then m
  else match m.lamp.owner.find? fun o => o.1 == frame with
    | none => m
    | some o =>
      (((m.updLamp fun l => { l with lost := insertNat (lineKey frame page line) l.lost }).addPoison
        (pageDpa o.2 page + 64 * line) 1 2).bump Reg.LMP_LINELOST).raise .lmp 17 (BitVec.ofNat 64 (pageDpa o.2 page + 64 * line))
        |>.logEvent 1 (.media (pageDpa o.2 page + 64 * line))

/-- Write one line of a frame. -/
def Mach.putLine (key frame page line : Nat) (d : Line) (m : Mach) : Mach :=
  (m.updLamp fun l => { l with line := SMap.set 0 l.line (lineKey frame page line) d }).unlose key frame page line

/-- Write the 64 lines of a page in ascending order (R162). -/
def Mach.putPage (key frame page : Nat) (d : Block) (m : Mach) : Mach :=
  m.each (List.range 64) fun i m => m.putLine key frame page i ((d >>> (512 * i)).setWidth 512)

/-- A block releases its frame when nothing is lit, lighting or written back (R154); its lost lines leave the list (R95). -/
def Mach.frameCheck (key : Nat) (m : Mach) : Mach :=
  let d := m.desc key
  match d.frame with
  | none => m
  | some f =>
    if d.lit = 0 && d.pendl = 0 && d.pendw = 0 then
      ((m.updLamp fun l => { l with
          owner := l.owner.filter fun o => o.1 != f
          lost := l.lost.filter fun k => k / 32768 != f }).setDesc key { d with frame := none }).dropPoison fun e =>
        e.2.1 == 1 && decide (pageDpa key 0 ≤ e.1 ∧ e.1 < pageDpa key 512)
    else m

/-! ### The Lantern's lookups (R168 to R172) -/

def Mach.lnt (m : Mach) (i : Nat) : LntEnt := SMap.get {} m.lamp.lnt i
def Mach.setLnt (i : Nat) (x : LntEnt) (m : Mach) : Mach := m.updLamp fun l => { l with lnt := SMap.set {} l.lnt i x }

/-- The entry that holds a descriptor. -/
def Mach.lntFind (m : Mach) (key : Nat) : Option Nat :=
  (List.range 64).find? fun i => (m.lnt i).st != .invalid && !(m.lnt i).off && (m.lnt i).tag == key

/-- What a hit does to an entry. While FLUSHING every change is written through (R172). -/
def LntEnt.hit (x : LntEnt) (mode : LntMode) (changed : Bool) : LntEnt :=
  if !changed || mode != .enabled then x
  else match x.st with
    | .clean => { x with st := .dirty }
    | .evicting => { x with redirty := true }
    | _ => x

/-- The next place of the victim pointer: entries OFF are skipped. -/
def Mach.lntNext (m : Mach) (i : Nat) : Nat :=
  (((List.range 64).map fun j => (i + 1 + j) % 64).find? fun j => !(m.lnt j).off && (m.lnt j).err < 4).getD i

/-- The entry at the victim pointer, where it is not OFF. -/
def Mach.lntVictim (m : Mach) : Option Nat :=
  let i := m.lamp.victim
  if (m.lnt i).off || decide (4 ≤ (m.lnt i).err) then
    let j := m.lntNext i
    if (m.lnt j).off || decide (4 ≤ (m.lnt j).err) then none else some j
  else some i

/-- After a miss was served: the descriptor is installed, or a DIRTY victim begins its write-back (R169). -/
def Mach.lntInstall (key : Nat) (changed : Bool) (m : Mach) : Mach :=
  if m.lamp.mode != .enabled || (m.lntFind key).isSome then m
  else match m.lntVictim with
    | none => m
    | some i =>
      let x := m.lnt i
      match x.st with
      | .dirty => m.setLnt i { x with st := .evicting, redirty := false }
      | .evicting => m
      | _ =>
        (m.setLnt i { x with st := if changed then .dirty else .clean, redirty := false, tag := key }).updLamp fun l =>
          { l with victim := m.lntNext i }

/-- A descriptor is looked up by a block command, which changes it or not: a hit changes the entry that holds it; a miss is served from
DRAM, and the victim rule follows, unless a fetch of the descriptor is out, from which the miss is served (R169). -/
def Mach.lntUpdate (key : Nat) (changed : Bool) (m : Mach) : Mach :=
  match (if m.lamp.mode == .disabled then none else m.lntFind key) with
  | some i => (m.setLnt i ((m.lnt i).hit m.lamp.mode changed)).bump64 Reg.LNT_HIT_LO
  | none =>
    let m := m.bump64 Reg.LNT_MISS_LO
    if m.lamp.fetches.any fun f => f.tag == key then m else m.lntInstall key changed

/-- Write a descriptor through the Lantern. -/
def Mach.putDesc (key : Nat) (d : Desc) (m : Mach) : Mach := (m.setDesc key d).lntUpdate key (d != m.desc key)

/-! ### Levels -/

/-- The dirty lit pages of a block; one whose descriptor cannot be trusted has none (R167). -/
def Desc.dirtyPages (d : Desc) : BitVec 512 := if d.taintAll then 0 else d.lit &&& d.dirty

/-- Dirty lit pages (LMP_DIRTY). -/
def Mach.dirtyLit (m : Mach) : Nat := (m.lamp.desc.map fun e => popCount e.2.dirtyPages).sum

/-- PG_ERR.BLK bit 18 when LMP_DIRTY first reaches LMP_DIRTYCAP (R174). -/
def Mach.capCheck (m : Mach) : Mach :=
  let c := m.rdN Reg.LMP_DIRTYCAP
  if c != 0 && !m.lamp.capSeen && decide (c ≤ m.dirtyLit) then
    (m.updLamp fun l => { l with capSeen := true }).raise .lmp 18 0
  else m

/-! ### Taint (R157, R160) -/

/-- A page becomes TAINTED; `ext` for a poisoned write (source External). -/
def Mach.taint (key p : Nat) (ext : Bool) (m : Mach) : Mach :=
  let d := m.desc key
  let was := d.state p == .tainted
  let d' := { d with lit := setBit d.lit p false, dirty := setBit d.dirty p true,
                     tsrc := if ext then setBit d.tsrc (p / 4) true else d.tsrc }
  let m := m.setDesc key d'
  let m := if was then
      let mark (e : Nat × Nat × Nat) : Nat × Nat × Nat :=
        if e.1 == pageDpa key p && e.2.1 == 64 then (e.1, e.2.1, 1) else e
      if ext then m.updAdm fun a => { a with poison := a.poison.map mark } else m
    else (m.addPoison (pageDpa key p) 64 (if ext then 1 else 7)).logEvent 1 (.media (pageDpa key p))
  m.frameCheck key

/-- A page's taint is cleared: it is DARK, and its entry leaves the list. -/
def Mach.untaint (key p : Nat) (m : Mach) : Mach :=
  let d := m.desc key
  let dirty := setBit d.dirty p false
  let others := (List.range 4).any fun i => (dirty &&& ~~~d.lit).getLsbD (4 * (p / 4) + i)
  (m.putDesc key { d with dirty := dirty, tsrc := if others then d.tsrc else setBit d.tsrc (p / 4) false }).dropPoison
    fun e => e.1 == pageDpa key p && e.2.1 == 64

/-- The lamp block loses its descriptor: TAINTALL (R167). -/
def Mach.taintBlock (key : Nat) (m : Mach) : Mach :=
  if (m.desc key).taintAll then m
  else ((((m.setDesc key { m.desc key with taintAll := true }).bump Reg.LNT_TAINTALL).addPoison (pageDpa key 0) 32768 2).logEvent 1
    (.media (pageDpa key 0))).raise .lmp 16 (BitVec.ofNat 64 key)

/-- A lit page becomes dark; nothing of it is kept. -/
def Mach.darken (key p : Nat) (m : Mach) : Mach :=
  let d := m.desc key
  m.putDesc key { d with lit := setBit d.lit p false, dirty := setBit d.dirty p false }

/-! ### Pending lights -/

/-- Offsets of a command's range that lie in one MU of a block. -/
def Mach.inMu (m : Mach) (c : Cmd) (key mu : Nat) (off : Nat) : Bool :=
  match m.lampOf (entVol c.entry) (entSlba c.entry + off) with
  | some (k, p) => k == key && p / 4 == mu
  | none => false

/-- PENDL of an MU holds while a light of it is queued or running (R158, R162). -/
def Mach.lightPending (m : Mach) (key mu : Nat) : Bool :=
  m.lamp.touch.any (fun t => t.1 == key && t.2 / 4 == mu) ||
    m.q.used.any fun s => entOpc (m.cmd s).entry == opLight && (m.cmd s).todo.any (m.inMu (m.cmd s) key mu)

def Mach.pendlCheck (key mu : Nat) (m : Mach) : Mach :=
  if (m.desc key).pendl.getLsbD mu && !m.lightPending key mu then
    (m.putDesc key { m.desc key with pendl := setBit (m.desc key).pendl mu false }).frameCheck key
  else m

/-- PENDL of every MU of a command's range is looked at again. -/
def Mach.pendlRange (v : Vid) (slba n : Nat) (m : Mach) : Mach :=
  m.each (List.range n) fun o m =>
    match m.lampOf v (slba + o) with
    | some (k, p) => (m.pendlCheck k (p / 4)).frameCheck k
    | none => m

/-- PENDL of the MU of a command's LB is looked at again: a page of it has settled (R158). -/
def Mach.pendlOf (s off : Nat) (m : Mach) : Mach :=
  match m.lampOf (entVol (m.cmd s).entry) (entSlba (m.cmd s).entry + off) with
  | some (k, p) => m.pendlCheck k (p / 4)
  | none => m

/-! ### Ending a command short of its commit point -/

/-- The page whose write-back a command has begun and not ended: block key and page. -/
def Mach.copying (m : Mach) (s : Nat) : Option (Nat × Nat) :=
  let c := m.cmd s
  if c.copying then c.todo.head?.bind fun off => m.lampOf (entVol c.entry) (entSlba c.entry + off) else none

/-- PENDW of an MU clears once no write-back of a page of it is in progress (Table 07.3). -/
def Mach.pendwCheck (key mu : Nat) (m : Mach) : Mach :=
  if m.q.used.any fun s => (m.copying s).any fun x => x.1 == key && x.2 / 4 == mu then m
  else m.putDesc key { m.desc key with pendw := setBit (m.desc key).pendw mu false }

/-- A command's write-back of a page is over. -/
def Mach.wbClear (s k p : Nat) (m : Mach) : Mach :=
  ((m.setCmd s { m.cmd s with copying := false }).pendwCheck k (p / 4)).frameCheck k

/-- A page whose copy was not made is LIT_DIRTY again, unless it has been tainted. -/
def Mach.wbUndo (s k p : Nat) (m : Mach) : Mach :=
  let d := m.desc k
  (if !d.lit.getLsbD p && d.dirty.getLsbD p then m
    else m.putDesc k { d with lit := setBit d.lit p true, dirty := setBit d.dirty p true }).wbClear s k p

/-- A write-back that stands in a page when its volume's key goes, or the controller fails, is given up. -/
def Mach.wbAbandon (s : Nat) (m : Mach) : Mach :=
  match m.copying s with
  | some (k, p) => m.wbUndo s k p
  | none => m

/-- A command is cut off and completes with a status and result: a LIGHT is dropped, reads are discarded, a write-back is given up. -/
def Mach.cutWith (s status dw2 dw3 : Nat) (m : Mach) : Mach :=
  let m := m.wbAbandon s
  let c := m.cmd s
  let m := m.setCmd s { c with todo := [], cover := [], covering := false, unsent := [] }
  let m := if entOpc c.entry == opLight then m.pendlRange (entVol c.entry) (entSlba c.entry) (entCount c.entry) else m
  m.complete s status dw2 dw3

/-- A command short of its commit point is abandoned (R125). -/
def Mach.cutShort (s status : Nat) (m : Mach) : Mach := m.cutWith s status 0 0

/-- Result dwords 2 and 3 of a command that fails as it stands (Table 05.6). -/
def Cmd.cutResult (c : Cmd) : Nat × Nat :=
  let o := entOpc c.entry
  if o == opRead || o == opVerify then
    let bad := c.fails.map (·.1) ++ c.todo
    (bad.foldl min 0xFFFF + 65536 * c.rebuilt, bad.length)
  else if o == opWrite || o == opDealloc then (if c.stage == .committed then c.todo.headD 0 else 0, 0)
  else if o == opFlush then (0, 0)
  else (c.done, 0)

/-- Commands whose entries reached the admission point and that stand short of their commit point. -/
def Cmd.short (c : Cmd) : Bool := c.stage == .waiting || c.stage == .blocked || c.stage == .admitted || c.stage == .running

/-- A bound volume becomes FAULTED: its lit pages go dark, dirty ones TAINTED, with a WARN for each region (R150). -/
def Mach.darkRegions (v : Vid) (m : Mach) : Mach :=
  m.each (List.range 4) fun k m =>
    let r := m.region k
    if !(r.defined && r.vol == v) then m
    else
      let keys := (m.lamp.desc.map (·.1)).filter fun key => key / 2 ^ 26 == k
      let lost := (keys.map fun key => popCount (m.desc key).dirtyPages).sum
      let m := m.each keys fun key m =>
        let d := m.desc key
        let m := m.each ((List.range 512).filter fun p => d.dirtyPages.getLsbD p) fun p m => m.taint key p false
        (m.setDesc key { m.desc key with lit := 0 }).frameCheck key
      m.devEvent .warn 0x010B (BitVec.ofNat 64 k) [BitVec.ofNat 32 lost]

end Sys2Proof.Machine
end

