-- ==== Sys2Proof/Machine/Codeword.lean ====
section
/-! DEFINITION. A codeword as flash holds it (R212 to R214): the 64 bytes of its metadata, bytes 0 to 4,159, the LDPC code behind
them; and what the cipher makes of an LB (R319 to R324). -/

namespace Sys2Proof.Machine

/-! ### Metadata (Table 09.2) -/

/-- KIND; the values above 2 are reserved, and no codeword of another kind has metadata. -/
def CwKind.code (k : CwKind) : Nat :=
  match k with
  | .data => 0
  | .filler => 1
  | .system => 2
  | _ => 3

/-- Metadata bytes 0x00 to 0x3B. -/
def Cw.metaBytes (x : Cw) : List Byte :=
  leBytes 1 x.kind.code ++ leBytes 1 (x.vol % 64) ++ leBytes 2 (x.keySlot % 1024 + if x.enc then 2 ^ 15 else 0) ++
    leBytes 4 x.epoch ++ leBytes 8 x.lba ++ leBytes 8 x.wsn ++ leBytes 8 x.nonce ++ leBytes 5 x.fsn ++
    leBytes 1 ((if x.copy then 1 else 0) + if x.lampwb then 2 else 0) ++ leBytes 2 0 ++ leBytes 16 x.tag.toNat ++ leBytes 4 0

/-- MCRC: the CRC-32C of those bytes. -/
def Cw.mcrc (x : Cw) : Word := crc32c x.metaBytes

/-! ### Bytes of a codeword (Table 09.1) -/

/-- Bytes 0 to 4,159: payload and metadata, or P or Q (R213). -/
def Cw.body (x : Cw) : Body :=
  if x.kind == .parity then x.par
  else BitVec.ofNat 33280 (x.payload.toNat + 2 ^ 32768 * ofLeBytes (x.metaBytes ++ leBytes 4 x.mcrc.toNat))

/-- What a data member adds to P and Q: a FILLER codeword adds zeros (R223). -/
def Cw.term (x : Cw) : Body := if x.kind == .filler then 0 else x.body

/-- The 4,608 bytes of a codeword: behind byte 4,159 the LDPC parity of what is before it. -/
def Cw.image (x : Cw) : BitVec 36864 := BitVec.ofNat 36864 (x.body.toNat + 2 ^ 33280 * (Config.ldpcParity x.body).toNat)

/-! ### The LDPC code (R214) -/

/-- Entry r × 144 + c of the base matrix: a circulant shift, or none for a zero block. -/
def ldpcShift (r c : Nat) : Option Nat :=
  let w := Config.baseMatrix (144 * r + c)
  if w.getLsbD 8 then some (w.toNat % 256) else none

/-- The 256 checks of a row of the base matrix, bytes taken in address order and each from its least significant bit. A shift of s
takes bit i + s of a block, modulo 256, into check i: DESIGN CHOICE (log entry 175). -/
def ldpcChecks (x : BitVec 36864) (r : Nat) : BitVec 256 :=
  (List.range 144).foldl (fun a c => match ldpcShift r c with
    | some s => a ^^^ (x.extractLsb' (256 * c) 256).rotateRight s
    | none => a) 0

/-- Is every check satisfied (R216)? -/
def ldpcHolds (x : BitVec 36864) : Bool := (List.range 14).all fun r => ldpcChecks x r == 0

/-! ### The cipher (R319 to R324) -/

def asciiBytes (s : String) : List Byte := s.toList.map fun c => BitVec.ofNat 8 c.toNat

/-- The data key of a slot (R320), under DEVSALT. -/
def dataKey (salt : BitVec 256) (k : BitVec 256) : BitVec 256 :=
  Config.hkdf384 (leBytes 32 salt.toNat) (leBytes 32 k.toNat) (asciiBytes "RURAK-DATA-KEY")

/-- The device integrity key (R322). -/
def integrityKey (salt : BitVec 256) : BitVec 256 :=
  Config.hkdf384 (leBytes 32 salt.toNat) Config.hardwareKey (asciiBytes "RURAK-INTEGRITY")

/-- The IV of Table 14.1, big-endian. -/
def ivBytes (epoch nonce : Nat) : List Byte := (leBytes 4 epoch).reverse ++ (leBytes 8 nonce).reverse

/-- The AAD of Table 14.1, big-endian. -/
def aadBytes (vol lba wsn : Nat) : List Byte :=
  leBytes 1 (vol % 64) ++ List.replicate 7 0 ++ (leBytes 8 lba).reverse ++ (leBytes 8 wsn).reverse

/-- An LB is encrypted, or where its volume has ENC = 0 tagged in the clear (R322): the payload and TAG of its codeword. -/
def Cw.sealed (x : Cw) (key : BitVec 256) : Cw :=
  let iv := ivBytes x.epoch x.nonce
  let aad := aadBytes x.vol x.lba x.wsn
  if x.enc then
    let c := Config.gcmCipher key iv x.data
    { x with payload := c, tag := Config.gcmTag key iv aad (leBytes 4096 c.toNat) }
  else { x with payload := x.data, tag := Config.gcmTag key iv (aad ++ leBytes 4096 x.data.toNat) [] }

/-- A fault while encrypting leaves a payload or tag that is wrong (R324). -/
def Cw.faulted (x : Cw) (draw slot : Nat) : Cw :=
  { x with payload := x.payload ^^^ Config.faultPayload draw slot, tag := x.tag ^^^ Config.faultTag draw slot, tagOk := false }

end Sys2Proof.Machine
end

