-- ==== Sys2Proof/Machine/Parity.lean ====
section
/-! DEFINITION. The parity code of a group (R223, R225): the field GF(2^8), P and Q, and the recovery formulas, at one byte position
and at all 4,160 at once. -/

namespace Sys2Proof.Machine

/-! ### GF(2^8) with x^8 + x^4 + x^3 + x^2 + 1 (R223) -/

/-- Multiply by g = 0x02. -/
def gfDouble (a : Byte) : Byte := if a.getLsbD 7 then (a <<< 1) ^^^ 0x1D else a <<< 1

/-- The product, over the lowest n bits of b. -/
def gfMulN (a : Byte) (b : Byte) : Nat → Byte
  | 0 => 0
  | n + 1 => (if b.getLsbD 0 then a else 0) ^^^ gfMulN (gfDouble a) (b >>> 1) n

def gfMul (a b : Byte) : Byte := gfMulN a b 8

/-- g^i. -/
def gfPow : Nat → Byte
  | 0 => 1
  | n + 1 => gfDouble (gfPow n)

/-- a^n. -/
def gfExp (a : Byte) : Nat → Byte
  | 0 => 1
  | n + 1 => gfMul a (gfExp a n)

/-- The inverse: a^254, since a^255 = 1 for every a but 0. -/
def gfInv (a : Byte) : Byte :=
  let a2 := gfMul a a
  let a4 := gfMul a2 a2
  let a8 := gfMul a4 a4
  let a16 := gfMul a8 a8
  let a32 := gfMul a16 a16
  let a64 := gfMul a32 a32
  let a128 := gfMul a64 a64
  gfMul a128 (gfMul a64 (gfMul a32 (gfMul a16 (gfMul a8 (gfMul a4 a2)))))

/-- One byte position of P. -/
def parityP (d : List Byte) : Byte := d.foldl (· ^^^ ·) 0

/-- One byte position of Q; the first byte has index i. -/
def parityQ : Nat → List Byte → Byte
  | _, [] => 0
  | i, b :: bs => gfMul (gfPow i) b ^^^ parityQ (i + 1) bs

/-- Dx alone erased: P′. -/
def recoverOne (p' : Byte) : Byte := p'

/-- Dx and P erased: Q′ · g^(−x). -/
def recoverWithQ (x : Nat) (q' : Byte) : Byte := gfMul q' (gfInv (gfPow x))

/-- Dx and Dy erased: (Dx, Dy). -/
def recoverTwo (x y : Nat) (p' q' : Byte) : Byte × Byte :=
  let dx := gfMul (q' ^^^ gfMul (gfPow y) p') (gfInv (gfPow x ^^^ gfPow y))
  (dx, p' ^^^ dx)

/-! ### All byte positions at once -/

/-- The byte b at every position. -/
def allBytes (b : Nat) : Body := BitVec.ofNat 33280 (b * ((256 ^ 4160 - 1) / 255))

/-- Multiply every byte by g. -/
def gfDoubleAll (v : Body) : Body := ((v &&& allBytes 0x7F) <<< 1) ^^^ (((v &&& allBytes 0x80) >>> 7) * BitVec.ofNat 33280 0x1D)

/-- Every byte times b, over the lowest n bits of b. -/
def gfScaleN (v : Body) (b : Byte) : Nat → Body
  | 0 => 0
  | n + 1 => (if b.getLsbD 0 then v else 0) ^^^ gfScaleN (gfDoubleAll v) (b >>> 1) n

def gfScale (b : Byte) (v : Body) : Body := gfScaleN v b 8

/-- Dx from Q′ where P is erased too. -/
def rebuildWithQ (x : Nat) (q' : Body) : Body := gfScale (gfInv (gfPow x)) q'

/-- Dx where Dy is erased too. -/
def rebuildTwo (x y : Nat) (p' q' : Body) : Body := gfScale (gfInv (gfPow x ^^^ gfPow y)) (q' ^^^ gfScale (gfPow y) p')

end Sys2Proof.Machine
end

