-- ==== Sys2Proof/Machine/GroupOps.lean ====
section
/-! DEFINITION. Parity groups and their reconstruction (R215, R222 to R232): which parity covers a codeword, the reads of its peers,
and the codeword rebuilt from them. -/

namespace Sys2Proof.Machine

/-- The members of a list, numbered from n on. -/
def indexed {α : Type} : Nat → List α → List (Nat × α)
  | _, [] => []
  | n, x :: xs => (n, x) :: indexed (n + 1) xs

/-- Add to the health counts of LB outcomes (R432). -/
def Mach.health (f : Health → Health) (m : Mach) : Mach := m.updAdm fun a => { a with health := f a.health }

def stick32 (n : Nat) : Nat := min 0xFFFFFFFF n

/-! ### Operations and tasks -/

/-- Append an operation to the queue of a channel. -/
def Mach.queueOp (c : Chan) (row : Row) (r : Req) (k : OpKind) (m : Mach) : Mach :=
  m.updFl fun f => { f with
    ops := f.ops ++ [{ id := f.nextOp, ch := c, row := row, req := r, kind := k, issued := false, rank0 := false,
                       waited := false, stalled := false }]
    nextOp := f.nextOp + 1 }

def Mach.task (m : Mach) (id : Nat) : Option RdTask := m.fl.tasks.find? fun t => t.id == id

def Mach.setTask (t : RdTask) (m : Mach) : Mach :=
  m.updFl fun f => { f with tasks := f.tasks.map fun x => if x.id == t.id then t else x }

def Mach.dropTask (id : Nat) (m : Mach) : Mach :=
  m.updFl fun f => { f with tasks := f.tasks.filter (fun x => x.id != id), softTasks := f.softTasks.filter (· != id) }

/-- The codeword at an address. -/
def Mach.cwAt (m : Mach) (a : BitVec 40) : Cw := SMap.get {} m.fl.cw a.toNat

/-! ### Where the codewords of a group lie (R222) -/

/-- The codeword of a member of a furrow. -/
def Mach.memberAddr (m : Mach) (c : Chan) (f plane page slot : Nat) : BitVec 40 :=
  mkAddr c (f / 4096) plane (m.memberBlock c f) page slot

/-- The codeword of a channel in the group of an address. -/
def Mach.peerAddr (m : Mach) (a : BitVec 40) (c : Chan) : BitVec 40 :=
  m.memberAddr c (m.furrowOfAddr a) (adrPlane a) (adrPage a) (adrSlot a)

/-- Is a member of the furrow of an address unavailable: its channel away, or the member lost (R225, R228, R257)? -/
def Mach.memberDown (m : Mach) (a : BitVec 40) (c : Chan) : Bool := m.chanAway c || (m.fur (m.furrowOfAddr a)).lost.getLsbD c.val

/-- The place of a codeword among the groups of its stripe. -/
def adrGroup (a : BitVec 40) : Nat := 4 * adrPlane a + adrSlot a

/-! ### Which parity a group has (R226) -/

/-- The newest durable PROVPAR record of a stripe. -/
def Mach.provNow (m : Mach) (fsn page : Nat) : Option ProvRec :=
  (m.hdl.log.reverse.filterMap fun r => match r.body with
    | .provpar x => if x.fsn == fsn && x.page == page && r.durable then some x else none
    | _ => none).head?

/-- Was the final parity of a stripe programmed: does flash hold its P, or its Q? -/
def Mach.parityWritten (m : Mach) (f page : Nat) : Bool :=
  let x := m.fur f
  decide (page < x.stripes) &&
    ((walk x.fsn x.absent).take (parityCount x.layout1)).any fun c => (m.cwAt (m.memberAddr c f 0 page 0)).kind == .parity

/-- Parity that is at hand in the controller. -/
def heldParity (layout1 : Bool) (p q : Body) : List Peer :=
  { role := .p, ch := 0, st := .good, body := p } :: if layout1 then [] else [{ role := .q, ch := 0, st := .good, body := q }]

/-- Parity on flash: P is read with the data, Q only where a second erasure asks for it. -/
def Mach.flashParity (m : Mach) (a : BitVec 40) (x : Fur) : List Peer :=
  (((walk x.fsn x.absent).take (parityCount x.layout1)).zip [PeerRole.p, PeerRole.q]).map fun e =>
    { role := e.2, ch := e.1, st := if m.memberDown a e.1 then .bad else if e.2 == .p then .reading else .unasked }

/-- The data members that a mask includes, with their indices. -/
def dataMembers (x : Fur) (mask : Word) : List (Nat × Chan) :=
  (indexed 0 (dataWalk x.fsn x.layout1 x.absent)).filter fun e => mask.getLsbD e.2.val

/-- The group of a codeword under some parity; none where the parity does not include it. -/
def Mach.groupWith (m : Mach) (a : BitVec 40) (x : Fur) (mask : Word) (parity : List Peer) : Option Group :=
  let data := dataMembers x mask
  (data.find? fun e => e.2 == adrChan a).map fun me =>
    { me := me.1
      peers := parity ++ (data.filter fun e => e.1 != me.1).map fun e =>
        { role := .data e.1, ch := e.2, st := if m.memberDown a e.2 then .bad else .reading } }

/-- The group of a codeword as R226 gives its parity: the accumulator of an open stripe, P and Q on flash, or the newest record. -/
def Mach.parityGroup (m : Mach) (a : BitVec 40) : Option Group :=
  let f := m.furrowOfAddr a
  let x := m.fur f
  let page := adrPage a
  let k := adrGroup a
  match m.buf.opn.find? fun e => e.2.furrow == f && e.2.page == page with
  | some e => m.groupWith a x e.2.mask (heldParity x.layout1 (SMap.get 0 e.2.accP k) (SMap.get 0 e.2.accQ k))
  | none =>
    if m.parityWritten f page then m.groupWith a x 0xFFFFFFFF (m.flashParity a x)
    else (m.provNow x.fsn page).bind fun r =>
      m.groupWith a x r.mask (heldParity x.layout1 (SMap.get 0 r.p k) (SMap.get 0 r.q k))

/-! ### A group that is rebuilt (R225) -/

/-- A second erasure among P and the data members asks for Q. -/
def Group.asksQ (g : Group) : Bool := g.peers.any fun p => p.role != .q && p.st == .bad

def Group.askQ (g : Group) : Group :=
  if g.asksQ then { g with peers := g.peers.map fun p => if p.st == .unasked then { p with st := .reading } else p } else g

/-- Has the last peer that was asked for arrived? -/
def Group.settled (g : Group) : Bool := !g.peers.any fun p => p.st == .reading

/-- A peer's read has ended. -/
def Group.settle (g : Group) (r : PeerRole) (b : Option Body) : Group :=
  { g with peers := g.peers.map fun p =>
      if p.role == r then (match b with | some x => { p with st := .good, body := x } | none => { p with st := .bad }) else p }

/-- The bytes of a parity peer that is at hand. -/
def Group.parity (g : Group) (r : PeerRole) : Option Body :=
  (g.peers.find? fun p => p.role == r && p.st == .good).map (·.body)

/-- Data members at hand, and those erased, by index. -/
def Group.survivors (g : Group) : List (Nat × Body) :=
  g.peers.filterMap fun p => match p.role with
    | .data i => if p.st == .good then some (i, p.body) else none
    | _ => none

def Group.erased (g : Group) : List Nat :=
  g.peers.filterMap fun p => match p.role with
    | .data i => if p.st == .good then none else some i
    | _ => none

/-- P′ and Q′: the surviving terms folded out. -/
def foldP (l : List (Nat × Body)) (p : Body) : Body := l.foldl (fun a e => a ^^^ e.2) p
def foldQ (l : List (Nat × Body)) (q : Body) : Body := l.foldl (fun a e => a ^^^ gfScale (gfPow e.1) e.2) q

/-- The codeword rebuilt; none where more is erased than the parity covers. -/
def Group.rebuilt (g : Group) : Option Body :=
  let l := g.survivors
  match g.erased, g.parity .p, g.parity .q with
  | [], some p, _ => some (foldP l p)
  | [], none, some q => some (rebuildWithQ g.me (foldQ l q))
  | [y], some p, some q => some (rebuildTwo g.me y (foldP l p) (foldQ l q))
  | _, _, _ => none

/-! ### Reads of peers -/

/-- A peer's read begins: stage 1 in its channel, through Q0. -/
def Mach.readPeer (t : RdTask) (p : Peer) (m : Mach) : Mach :=
  let a := m.peerAddr t.addr p.ch
  let id := m.fl.nextTask
  let m := m.updFl fun f => { f with
    nextTask := id + 1
    tasks := f.tasks ++ [{ id := id, addr := a, vol := 0, lba := 0, stage := 1, tagRetry := false, who := [.peer t.id p.role] }] }
  m.queueOp p.ch (adrRow a) .q0 (.readCw id)

/-- Stage 4 begins: the group is taken as it stands, with its parity (R226), and its peers are asked for. -/
def Mach.beginStage4 (t : RdTask) (m : Mach) : Mach :=
  let g := (m.parityGroup t.addr).map Group.askQ
  let t := { t with stage := 4, sens := [], grp := g }
  (m.setTask t).each ((g.map (·.peers)).getD [] |>.filter fun p => p.st == .reading) fun p m => m.readPeer t p

/-- A peer's read has ended, with its bytes or without: a second erasure asks for Q. -/
def Mach.peerEnded (task : Nat) (r : PeerRole) (b : Option Body) (m : Mach) : Mach :=
  match m.task task with
  | none => m
  | some t =>
    match t.grp with
    | none => m
    | some g =>
      let g := g.settle r b
      let asked := g.peers.filter fun p => p.st == .unasked && g.asksQ
      let t := { t with grp := some g.askQ }
      (m.setTask t).each asked fun p m => m.readPeer t p

/-- The reconstruction that a read serves. -/
def RdTask.serves (t : RdTask) : Option (Nat × PeerRole) :=
  match t.who with
  | [.peer p r] => some (p, r)
  | _ => none

/-- A read is over short of stage 4 without its codeword: it goes to stage 4, but a peer is never reconstructed itself. -/
def Mach.escalate (t : RdTask) (m : Mach) : Mach :=
  match t.serves with
  | some (p, r) => (m.dropTask t.id).peerEnded p r none
  | none => m.beginStage4 t

/-! ### Reads that a command makes at once -/

/-- The codeword at an address rebuilt from what flash holds, where the peers on some channels fail. -/
def Mach.rebuildNow (m : Mach) (a : BitVec 40) (failed : List Chan) : Option Body :=
  (m.parityGroup a).bind fun g =>
    Group.rebuilt { g with peers := g.peers.map fun p =>
      if p.st == .reading || p.st == .unasked then
        let x := m.cwAt (m.peerAddr a p.ch)
        if x.gone || failed.contains p.ch then { p with st := .bad } else { p with st := .good, body := x.term }
      else p }

/-- Does a codeword read without any help from outside: from its own die, or rebuilt? -/
def Mach.readsNow (m : Mach) (a : BitVec 40) : Bool :=
  !(m.memberDown a (adrChan a) || (m.cwAt a).gone) || m.rebuildNow a [] == some (m.cwAt a).body

end Sys2Proof.Machine
end

