-- ==== Sys2Proof/Machine/BufOps.lean ====
section
/-! DEFINITION. The map, the write buffer and the flash reads they ask for (R215, R234 to R251): lookups, acceptance of LBs,
sealing with read-modify-write, installs and supersession. -/

namespace Sys2Proof.Machine

/-! ### Flash reads of data codewords (R215) -/

/-- Is the member that an address lies on lost to its furrow (R257)? -/
def Mach.addrLost (m : Mach) (a : BitVec 40) : Bool :=
  (m.fur (m.furrowOfAddr a)).lost.getLsbD (adrChan a).val || (m.blk (adrDie a) (adrBlock a)).st == .grownBad

/-- Begin a read of a codeword: stage 1 in its channel through Q0, or straight to stage 4 on a channel that is away or a lost
member (R228, R257). A reconstruction already under way serves it too (R227). -/
def Mach.startRead (a : BitVec 40) (v : Vid) (lba : Nat) (r : Req) (w : RdFor) (m : Mach) : Mach :=
  match m.fl.tasks.find? fun t => t.addr == a && t.stage == 4 && t.vol == v && t.lba == lba with
  | some t => m.updFl fun f => { f with tasks := f.tasks.map fun x => if x.id == t.id then { x with who := x.who ++ [w] } else x }
  | none =>
    let direct := m.chanAway (adrChan a) || m.addrLost a
    let id := m.fl.nextTask
    let t : RdTask := { id := id, addr := a, vol := v, lba := lba, stage := 1, tagRetry := false, who := [w] }
    let m := m.updFl fun f => { f with nextTask := id + 1, tasks := f.tasks ++ [t] }
    if direct then m.beginStage4 t else m.queueOp (adrChan a) (adrRow a) r (.readCw id)

/-! ### Lookup (R235, R241) -/

/-- Where an LB's current value is. -/
inductive LbSrc where
  | frame (key page frame : Nat)
  | tainted
  | version (id : Nat) (d : Block)
  | zero
  | poison
  | flash (a : BitVec 40)
  | recovering
  deriving DecidableEq, Repr

/-- Is a map entry under recovery (R251)? -/
def Mach.recovering (m : Mach) (i : Nat) : Bool :=
  match m.vol.recov with
  | some s => (mapSegsOf i).contains s
  | none => false

/-- A segment of the map is found bad: it recovers (R251). During the replay it is loaded again once first (Table 12.8). -/
def Mach.recoverSegment (i : Nat) (m : Mach) : Mach :=
  if m.vol.recov.isSome then m
  else if m.dev.st == .adminReady && m.dev.stage == 8 && !m.vol.reloaded.contains (5 * i / 2 ^ 25) then
    m.updVol fun x => { x with reloaded := x.reloaded ++ [5 * i / 2 ^ 25] }
  else ((m.updVol fun x => { x with recov := some (5 * i / 2 ^ 25) }).bump Reg.MAP_RECOVCNT).raise .map 16 (BitVec.ofNat 64 i)

/-- The map engine reads an entry with an invalid slot field: a DRAM uncorrectable error in the entry (R235, R251). -/
def Mach.badEntry (v : Vid) (lba : Nat) (m : Mach) : Mach :=
  match entryIndex (m.volu v) lba with
  | none => m
  | some i =>
    if m.recovering i || !isAddr (m.entry i) || adrSlot (m.entry i) = 0 then m
    else ((m.bump Reg.MAP_BADENT).health fun h => { h with dramUe := (h.dramUe + 1) % 2 ^ 64 }).recoverSegment i

/-- Must a change of an entry wait: its map segment, or a table segment, is under recovery (R251, Table 13.4)? -/
def Mach.installHeld (m : Mach) (i : Nat) : Bool :=
  m.recovering i || (match m.vol.recov with | some s => decide (m.mapSegs ≤ s) | none => false)

/-- The newest of some versions that has an LB in its mask. -/
def newestWith (lb : Nat) (l : List Ver) : Option Ver :=
  l.foldl (fun best x =>
    if x.mask.getLsbD lb then
      match best with
      | none => some x
      | some b => if b.wsn < x.wsn then some x else best
    else best) none

/-- WSN of what was installed last at an entry, an install that waits for its segment among them. -/
def Mach.installed (m : Mach) (i : Nat) : Nat :=
  max (SMap.get 0 m.vol.inst i) (((m.vol.waiting.filter fun w => w.entry == i && w.cas.isNone).map (·.wsn)).foldl max 0)

/-- Is a confirmed version superseded instead of installed (R248)? -/
def Mach.superseded (m : Mach) (v : Vid) (mu wsn : Nat) : Bool :=
  (m.volu v).st == .absent || decide (wsn < (m.volu v).fmtWsn) ||
    match entryIndex (m.volu v) (4 * mu) with
    | some i => decide (wsn < m.installed i)
    | none => true

/-- The buffered versions of an MU that count: one that a DEALLOCATE or a FORMAT has replaced while its page is being programmed is
already out of the order of R241. -/
def Mach.versAt (m : Mach) (v : Vid) (mu : Nat) : List Ver :=
  m.buf.vers.filter fun x => x.vol == v && x.mu == mu && !(x.st == .placed && m.superseded v mu x.wsn)

/-- The newest buffered version that holds an LB. -/
def Mach.verOf (m : Mach) (v : Vid) (lba : Nat) : Option Ver := newestWith (lba % 4) (m.versAt v (lba / 4))

/-- The map's answer for an LB. An entry with a slot field that no address has is a lost one (R235). -/
def Mach.mapSrc (m : Mach) (v : Vid) (lba : Nat) : LbSrc :=
  match entryIndex (m.volu v) lba with
  | none => .zero
  | some i =>
    if m.recovering i then .recovering
    else
      let e := m.entry i
      if e == unmapped then .zero else if e == poisoned then .poison
      else if adrSlot e ≠ 0 then .recovering else .flash (e + BitVec.ofNat 40 (lba % 4))

/-- Buffer, then map (R241 items 2 and 3). An LB that a DRAM error took from its version reads as poisoned (Table 13.4). -/
def Mach.storedSrc (m : Mach) (v : Vid) (lba : Nat) : LbSrc :=
  match m.verOf v lba with
  | some x => if x.lost.getLsbD (lba % 4) then .poison else .version x.id (SMap.get 0 x.data (lba % 4))
  | none => m.mapSrc v lba

/-- The current value of an LB (R12, R241), lamp frame first; a tainted page has none (Table 07.5). -/
def Mach.current (m : Mach) (v : Vid) (lba : Nat) : LbSrc :=
  match m.lampOf v lba with
  | none => m.storedSrc v lba
  | some (key, p) =>
    let d := m.desc key
    match d.state p, d.frame with
    | .tainted, _ => .tainted
    | s, some f => if s.isLit then .frame key p f else m.storedSrc v lba
    | _, none => m.storedSrc v lba

/-! ### Room in the buffer (R241, R296) -/

/-- Version slots: WBUF_GIB × 65,536. -/
def Mach.bufCap (m : Mach) : Nat := m.adm.now.wbufGib * 65536

def Mach.bufUsed (m : Mach) : Nat := m.buf.vers.length

/-- Does an LB find room: an open version of its MU, or a free slot under the buffer cap? -/
def Mach.bufRoom (m : Mach) : Bool :=
  decide (m.bufUsed < m.bufCap) && (m.hdl.bufCap == 0 || decide (m.bufUsed < m.hdl.bufCap))

def Mach.openVer (m : Mach) (v : Vid) (mu : Nat) : Option Ver :=
  m.buf.vers.find? fun x => x.vol == v && x.mu == mu && x.st == .opn

def Mach.lbRoom (m : Mach) (v : Vid) (lba : Nat) : Bool := (m.openVer v (lba / 4)).isSome || m.bufRoom

/-- Quantity 0x50: SOW_BUFUSED. -/
def Mach.observeBuf (m : Mach) : Mach := (m.observe 0x50 none m.bufUsed).touch .sow

def Mach.ver (m : Mach) (id : Nat) : Option Ver := m.buf.vers.find? fun x => x.id == id

def Mach.setVer (x : Ver) (m : Mach) : Mach :=
  m.updBuf fun b => { b with vers := b.vers.map fun y => if y.id == x.id then x else y }

/-- Versions leave the buffer. -/
def Mach.dropVers (ids : List Nat) (m : Mach) : Mach :=
  if ids.isEmpty then m else (m.updBuf fun b => { b with vers := b.vers.filter fun x => !ids.contains x.id }).observeBuf

def Mach.dropVer (id : Nat) (m : Mach) : Mach := m.dropVers [id]

/-! ### Sealing and completion (R240, R242) -/

/-- A version becomes held that commands wait for: they end with WRITE_FAULT (R243). -/
def Mach.failCovers (id : Nat) (m : Mach) : Mach :=
  let m := m.each (m.q.used.filter fun s => (m.cmd s).cover.contains (.version id)) fun s m =>
    let c := m.cmd s
    m.setCmd s { c with cover := [], fails := c.fails ++ [(0, St.writeFault)] }
  let fault (w : RxWait) : RxWait :=
    if w.cover.contains (Cover.version id) then { w with cover := [], status := St.writeFault } else w
  m.updTwn fun t => { t with rxWait := t.rxWait.map fault }

/-- Held versions of the MU that are older than a version leave the buffer (R242). -/
def Mach.supersedeHeld (x : Ver) (m : Mach) : Mach :=
  m.dropVers ((m.buf.vers.filter fun y => y.vol == x.vol && y.mu == x.mu && y.st == .held && decide (y.wsn < x.wsn)).map (·.id))

/-- Is a newer version of the MU held? -/
def Mach.newerHeld (m : Mach) (x : Ver) : Bool :=
  m.buf.vers.any fun y => y.vol == x.vol && y.mu == x.mu && y.st == .held && decide (x.wsn < y.wsn)

/-- A sealed version has what it could get: it is complete, or held (R242). Where a newer one of its MU is held already, that one has
taken its place. -/
def Mach.finishVer (id : Nat) (m : Mach) : Mach :=
  match m.ver id with
  | none => m
  | some x =>
    if x.st != .sealed || !x.rmwTodo.isEmpty then m
    else if x.rmwFail then
      let m := (m.setVer { x with st := .held }).supersedeHeld x
      let m := ((m.bump Reg.SOW_RMWFAIL).raise .sow 17 (BitVec.ofNat 64 (x.vol.val + 64 * x.mu))).failCovers id
      if m.newerHeld x then m.dropVer id else m
    else (m.setVer { x with st := .complete, mask := 15 }).supersedeHeld x

/-- One missing LB of a sealing version, never from a lamp frame. -/
def Mach.fillLb (id lb : Nat) (m : Mach) : Mach :=
  match m.ver id with
  | none => m
  | some x =>
    if x.mask.getLsbD lb && !x.lost.getLsbD lb then m
    else
      let lba := 4 * x.mu + lb
      let older := newestWith lb ((m.versAt x.vol x.mu).filter fun y => decide (y.wsn < x.wsn))
      let got (d : Block) : Mach :=
        m.setVer { x with mask := setBit x.mask lb true, lost := setBit x.lost lb false, data := SMap.set 0 x.data lb d }
      match older with
      | some y => if y.lost.getLsbD lb then m.setVer { x with rmwFail := true } else got (SMap.get 0 y.data lb)
      | none =>
        match m.mapSrc x.vol lba with
        | .flash a => ((m.setVer { x with rmwTodo := x.rmwTodo ++ [lb] }).startRead a x.vol lba .q2 (.rmw id lb)).bump64 Reg.SOW_RMW_LO
        | .recovering => (m.setVer { x with rmwTodo := x.rmwTodo ++ [lb] }).badEntry x.vol lba
        | .poison => m.setVer { x with rmwFail := true }
        | _ => got 0

/-- Seal an open version and begin to complete it (R240, R242). -/
def Mach.seal (id : Nat) (m : Mach) : Mach :=
  match m.ver id with
  | none => m
  | some x =>
    if x.st != .opn then m
    else (((((m.setVer { x with st := .sealed }).fillLb id 0).fillLb id 1).fillLb id 2).fillLb id 3).finishVer id

/-- Sealing may run only while the SOW page is not stopped (Table 10.5). -/
def Mach.sealAllowed (m : Mach) : Bool := m.running .sow || m.pageSt .sow == .stopping

/-! ### Acceptance (R237, R239) -/

/-- Accept an LB into the buffer under a new WSN; the version it joined or opened. A fourth LB seals it. -/
def Mach.acceptLb (v : Vid) (lba : Nat) (d : Block) (pos : Fin 8) (lampwb dealloc : Bool) (m : Mach) : Mach × Nat :=
  let wsn := m.buf.wsn
  let m := (m.updBuf fun b => { b with wsn := wsn + 1 }).touch .map
  let lb := lba % 4
  let rsv := dealloc || m.gln.level != .exhausted
  match m.openVer v (lba / 4) with
  | some x =>
    let x' := { x with mask := setBit x.mask lb true, lost := setBit x.lost lb false, data := SMap.set 0 x.data lb d, wsn := wsn,
                       pos := pos, lampwb := setBit x.lampwb lb lampwb, rsv := x.rsv || rsv }
    let m := m.setVer x'
    (if x'.mask = 15 && m.sealAllowed then m.seal x.id else m, x.id)
  | none =>
    let id := m.buf.nextId
    let x : Ver := { id := id, vol := v, mu := lba / 4, mask := setBit 0 lb true, data := SMap.set 0 [] lb d, wsn := wsn, st := .opn,
                     pos := pos, lampwb := setBit 0 lb lampwb, rmwTodo := [], rmwFail := false, lost := 0, pri := false, cov := false,
                     rsv := rsv, again := false }
    ((m.updBuf fun b => { b with vers := b.vers ++ [x], nextId := id + 1 }).observeBuf, id)

/-- The position of an accepted LB (Table 10.4, R245): versions of layout-1 volumes go to position 3, and position 3 takes no
other while such a volume exists. -/
def Mach.posFor (m : Mach) (v : Vid) (want : Fin 8) : Fin 8 :=
  if (m.volu v).layout1 then 3 else if want == 3 && m.anyLayout1 then 2 else want

/-- Held versions are discarded, each with a WARN (R243). -/
def Mach.discardVers (l : List Ver) (m : Mach) : Mach :=
  m.each (l.filter fun x => x.st == .held) fun x m =>
    ((m.dropVer x.id).bump Reg.SOW_DISCARD).devEvent .warn 0x010D (BitVec.ofNat 64 (x.vol.val + 64 * x.mu)) []

/-- No slot is free and an LB waits: the oldest held version goes. -/
def Mach.discardHeld (m : Mach) : Mach := m.discardVers (m.buf.vers.find? fun x => x.st == .held).toList

/-- The DRAIN phase, a device reset and a power loss discard the held versions that no write-out holds (R243, R297). -/
def Mach.discardAllHeld (m : Mach) : Mach :=
  m.discardVers (m.buf.vers.filter fun x => !(m.hdl.dumpValid && m.hdl.dumped.any fun y => y.id == x.id))

/-- Make room for an LB if discarding a held version does it. -/
def Mach.makeRoom (v : Vid) (lba : Nat) (m : Mach) : Mach := if m.lbRoom v lba then m else m.discardHeld

/-! ### Map changes (R248, R258) -/

/-- Write a map entry: segments become dirty, furrows gain and lose validity. -/
def Mach.setEntry (i : Nat) (e : BitVec 40) (m : Mach) : Mach :=
  let old := m.entry i
  if old = e then m
  else
    let m := m.updVol fun x => { x with map := SMap.set unmapped x.map i e }
    let m := m.each (mapSegsOf i) Mach.markSeg
    let m := if isAddr e then m.validUp (m.furrowOfAddr e) else m
    if isAddr old then m.validDown (m.furrowOfAddr old) else m

/-- An entry takes the value of a version, which then leaves the buffer (R248); it counts in MAP_INSTALL. -/
def Mach.installAt (i wsn : Nat) (e : BitVec 40) (ver : Option Nat) (m : Mach) : Mach :=
  ((((m.updVol fun x => { x with inst := SMap.set 0 x.inst i wsn }).setEntry i e).bump64 Reg.MAP_INSTALL_LO)).dropVers ver.toList

/-- Install a value for an MU under a WSN, for a buffered version or a DEALLOCATE. While its segment recovers the install waits, and the
version stays (R241, R251). -/
def Mach.install (v : Vid) (mu wsn : Nat) (e : BitVec 40) (ver : Option Nat) (m : Mach) : Mach :=
  match entryIndex (m.volu v) (4 * mu) with
  | none => m
  | some i =>
    if m.installHeld i then
      m.updVol fun x => { x with waiting := x.waiting ++ [{ entry := i, addr := e, wsn := wsn, cas := none, ver := ver }] }
    else m.installAt i wsn e ver

/-- Buffered versions of an MU with a lower WSN are discarded, save those being programmed (R248). Covers on them pass to the
record that makes the UNMAPPED durable. -/
def Mach.discardOlder (v : Vid) (mu wsn rec : Nat) (m : Mach) : Mach :=
  let ids := (m.buf.vers.filter fun x => x.vol == v && x.mu == mu && decide (x.wsn < wsn) && x.st != .placed).map (·.id)
  let m := m.updBuf fun b => { b with vers := b.vers.filter fun x => !ids.contains x.id }
  if ids.isEmpty then m
  else (m.mapCovers fun c => match c with
    | .version id => if ids.contains id then some (.record rec) else some c
    | _ => some c).observeBuf

/-- Staged copies that no page in flight carries are given up: their positions are to be read again (Table 11.4). -/
def Mach.unstage (which : Copy → Bool) (m : Mach) : Mach :=
  let l := m.gln.copies.filter fun c => which c && !c.flying
  let again (v : Victim) : Victim :=
    { v with again := v.again ++ (l.filter fun c => m.furrowOfAddr c.src == v.furrow).map (·.src) }
  m.updGln fun g => { g with copies := g.copies.filter fun c => !(which c && !c.flying), vic0 := g.vic0.map again, vic1 := g.vic1.map again }

/-! ### Durability (R122, R249) -/

/-- Versions of a volume that hold an LB of a completed command and are not yet confirmed. -/
def Mach.coveredVers (m : Mach) (v : Vid) : List Nat := (m.buf.vers.filter fun x => x.vol == v && x.cov).map (·.id)

/-- The provisional parity record of an open stripe as it stands (R230). -/
def OpenF.prov (o : OpenF) : ProvRec :=
  { furrow := o.furrow, fsn := o.fsn, page := o.page, layout1 := o.layout1, absent := o.absent, mask := o.mask, p := o.accP, q := o.accQ }

/-- Ask for a provisional parity record of a stripe, unless one for the same members waits or is being written (R229). -/
def Mach.askProvpar (fsn page : Nat) (m : Mach) : Mach :=
  match m.buf.opn.find? fun e => e.2.fsn == fsn && e.2.page == page with
  | none => m
  | some e =>
    let o := e.2
    let same (b : HBody) : Bool := match b with
      | .provpar x => x.fsn == fsn && x.page == page && x.mask == o.mask
      | _ => false
    if m.hdl.want.any (fun w => same w.2) || m.hdl.log.any (fun r => !r.durable && same r.body) then m
    else (m.ask (.provpar o.prov)).1

/-- A stripe is protected for the members of a mask: its covers go, and nothing of it is unprotected (R122). -/
def Mach.stripeSafe (fsn page : Nat) (mask : Word) (m : Mach) : Mach :=
  let m := m.updBuf fun b => { b with unprot := b.unprot.filter fun u => !(u.fsn == fsn && u.page == page && mask.getLsbD u.ch.val) }
  m.mapCovers fun c => match c with
    | .stripe f p ch => if f == fsn && p == page && mask.getLsbD ch.val then none else some c
    | _ => some c

/-- Give versions precedence and seal them (R249). -/
def Mach.pushVers (ids : List Nat) (m : Mach) : Mach :=
  m.each ids fun id m =>
    match m.ver id with
    | some x =>
      let m := m.setVer { x with pri := true }
      if m.sealAllowed then m.seal id else m
    | none => m

/-- What an open version, once pushed, still needs, as covers; a held one faults its waiter. -/
def Mach.verCovers (m : Mach) (ids : List Nat) : List Cover × Bool :=
  (ids.map Cover.version, ids.any fun id => match m.ver id with
    | some x => x.st == .held
    | none => false)

end Sys2Proof.Machine
end

