-- ==== Sys2Proof/Machine/ReadOps.lean ====
section
/-! DEFINITION. What a read of a data codeword goes through (R215 to R228) and where its outcome goes: to a READ or VERIFY, to a
LIGHT, or to a version that is being completed. -/

namespace Sys2Proof.Machine

/-! ### Lists of failed LBs -/

/-- Note the failure of an LB, ascending by offset. -/
def insertFail (o st : Nat) : List (Nat × Nat) → List (Nat × Nat)
  | [] => [(o, st)]
  | f :: fs => if o < f.1 then (o, st) :: f :: fs else if o = f.1 then f :: fs else f :: insertFail o st fs

/-! ### Host buffers -/

/-- The host pieces that take bytes of LB `off`. -/
def Cmd.pieces (c : Cmd) (off : Nat) : List (Nat × Nat) :=
  if entSgl c.entry then sglPieces c.sgl (4096 * off) 4096 else [(entDptr c.entry + 4096 * off, 4096)]

/-- Send the data of an LB to the host, piece by piece. -/
def Mach.sendLb (c : Cmd) (off : Nat) (d : Block) (m : Mach) : Mach :=
  match c.port with
  | none => m
  | some p =>
    ((c.pieces off).foldl (fun (a : Mach × Nat) x =>
      (a.1.send (.hostData p x.1 x.2 (d >>> (8 * a.2)) (m.port.get p).relaxedEn), a.2 + x.2)) (m, 0)).1

/-! ### Non-posted reads of a port (R78) -/

/-- The reads of WRITE data that a command has in flight. -/
def Cmd.readsOut (c : Cmd) : Nat :=
  if entOpc c.entry == opWrite && (c.stage == .running || c.stage == .committed) then
    (c.todo.map fun off => (c.pieces off).length).sum - c.unsent.length
  else 0

/-- Non-posted reads to host memory that a port has in flight: fetches, scatter lists, WRITE data. -/
def Mach.portReads (m : Mach) (p : Port) : Nat :=
  (m.q.fetches.filter fun f => !f.back && (m.qp f.qid).port == p).length +
    ((m.q.used.filter fun s => (m.cmd s).port == some p).map fun s => (m.cmd s).readsOut + if (m.cmd s).sglPending then 1 else 0).sum

/-- At most 768 are kept in flight. -/
def maxReads : Nat := 768

/-- A command's data reads go out while the port may send more. -/
def Mach.sendReads (p : Port) (s : Nat) (m : Mach) : Mach :=
  let c := m.cmd s
  let n := maxReads - m.portReads p
  if c.unsent.isEmpty || n = 0 then m
  else (m.setCmd s { c with unsent := c.unsent.drop n }).each (c.unsent.take n) fun x m => m.send (.dataRead p s x.2.1 x.2.2)

/-- Reads that had to wait go out, by slot: which command's go first is a DESIGN CHOICE (log entry 168). -/
def Mach.moreReads (p : Port) (m : Mach) : Mach :=
  m.each (m.q.used.filter fun s => (m.cmd s).port == some p) fun s m => m.sendReads p s

/-- The data of an LB is there, so its reads had been sent. -/
def Mach.lbArrived (s off : Nat) (m : Mach) : Mach :=
  let c := m.cmd s
  match c.port with
  | none => m
  | some p =>
    if !(c.unsent.any fun x => x.1 == off) then m
    else (m.setCmd s { c with unsent := c.unsent.filter fun x => x.1 != off }).each (c.unsent.filter fun x => x.1 == off) fun x m =>
      m.send (.dataRead p s x.2.1 x.2.2)

/-! ### READ and VERIFY -/

/-- Status and result of a READ or VERIFY whose every LB is settled (Table 05.6). -/
def readResult (c : Cmd) : Nat × Nat × Nat :=
  match c.fails with
  | f :: _ => (f.2, f.1 % 65536 + 65536 * c.rebuilt, c.fails.length)
  | [] => (if c.rebuilt = 0 then St.success else St.reconstructed, 0xFFFF + 65536 * c.rebuilt, 0)

def Mach.readDone (s : Nat) (m : Mach) : Mach :=
  let c := m.cmd s
  if c.todo.isEmpty then
    let r := readResult c
    m.complete s r.1 r.2.1 r.2.2
  else m

/-- One LB of a READ or VERIFY is settled. The first data beat is the READ's commit point (Table 05.3). -/
def Mach.readLb (s off status : Nat) (d : Block) (rebuilt : Bool) (m : Mach) : Mach :=
  let c := m.cmd s
  let isRead := entOpc c.entry == opRead
  let c' := { c with
    todo := c.todo.filter (· != off)
    fails := if status = 0 then c.fails else insertFail off status c.fails
    rebuilt := if rebuilt then c.rebuilt + 1 else c.rebuilt
    stage := if status = 0 && isRead then .committed else c.stage }
  let m := m.setCmd s c'
  if status = 0 && isRead then m.sendLb c off d else m

/-! ### LIGHT -/

/-- A LIGHT whose every page is settled completes; a failed touch light writes a NOTICE (R158, R159). -/
def Mach.lightDone (s : Nat) (m : Mach) : Mach :=
  let c := m.cmd s
  if !c.todo.isEmpty then m
  else
    let m := m.pendlRange (entVol c.entry) (entSlba c.entry) (entCount c.entry)
    let m := m.each (List.range (entCount c.entry)) fun o m =>
      match m.lampOf (entVol c.entry) (entSlba c.entry + o) with
      | some (k, _) => m.frameCheck k
      | none => m
    let m := if c.kind == .touch && !c.fails.isEmpty then
        m.devEvent .notice 0x010C (BitVec.ofNat 64 (entSlba c.entry)) []
      else m
    m.complete s c.finalStatus c.done 0

/-- A page of a LIGHT settles without being lit. -/
def Mach.lightFail (s off status : Nat) (m : Mach) : Mach :=
  let c := m.cmd s
  (m.setCmd s { c with todo := c.todo.filter (· != off), fails := insertFail off status c.fails }).pendlOf s off |>.lightDone s

/-- The value of a LIGHT's LB is at hand; its 64 line writes follow. -/
def Mach.addFill (task s off : Nat) (d : Block) (m : Mach) : Mach :=
  m.updFl fun f => { f with fills := f.fills ++ [{ task := task, slot := s, off := off, data := d }] }

/-! ### Pieces of a resync (R392) -/

def Mach.rs (m : Mach) (v : Vid) : Resync := SMap.get {} m.twn.rs v.val
def Mach.setRs (v : Vid) (x : Resync) (m : Mach) : Mach := m.updTwn fun t => { t with rs := SMap.set {} t.rs v.val x }

/-- How many numbers from i on, below n, have a property. -/
def runFrom (p : Nat → Bool) (n i : Nat) : Nat := ((List.range (n - i)).find? fun j => !p (i + j)).getD (n - i)

/-- The maximal runs, below n, of numbers with a property: first and length. -/
def runsBelow (p : Nat → Bool) (n : Nat) : List (Nat × Nat) :=
  ((List.range n).filter fun i => p i && (i == 0 || !p (i - 1))).map fun i => (i, runFrom p n i)

/-- An LB of a piece has been read, or cannot be. -/
def Mach.pieceLb (s off status : Nat) (d : Block) (m : Mach) : Mach :=
  let c := m.cmd s
  let v := entVol c.entry
  let m := m.setCmd s { c with
    todo := c.todo.filter (· != off)
    fails := if status = 0 then c.fails else insertFail off status c.fails }
  if status = 0 then m.setRs v { m.rs v with data := SMap.put (m.rs v).data off d } else m

/-- A run of LBs goes as one transfer with FLAGS.RESYNC. -/
def Mach.sendRun (v : Vid) (slba : Nat) (data : SMap Block) (run : Nat × Nat) (m : Mach) : Mach :=
  let r := m.twnXid (.resync v (slba / 16384))
  let m := r.1.twnBegin 0x10 2 r.2 run.2 (beginWords v (m.volu v).fence (slba + run.1) (run.2 - 1))
  m.each (List.range run.2) fun k m => m.twnData r.2 k (SMap.get 0 data (run.1 + k))

/-- An UNMAPPED MU goes as DEALLOC. -/
def Mach.sendHole (v : Vid) (slba mu : Nat) (m : Mach) : Mach :=
  let r := m.twnXid (.resync v (slba / 16384))
  r.1.twnBegin 0x13 2 r.2 0 (beginWords v (m.volu v).fence (slba + 4 * mu) 3)

/-- Every LB of a piece is settled: it is sent, and the walk moves on. An LB that could not be read leaves its region to the next
pass. -/
def Mach.pieceSend (s : Nat) (m : Mach) : Mach :=
  let c := m.cmd s
  let v := entVol c.entry
  let slba := entSlba c.entry
  let x := m.rs v
  let failed (off : Nat) : Bool := c.fails.any fun f => f.1 == off
  let held (off : Nat) : Bool := x.data.any fun e => e.1 == off
  let hole (mu : Nat) : Bool := !(List.range 4).any fun i => held (4 * mu + i) || failed (4 * mu + i)
  let m := m.each (runsBelow (fun off => !failed off && !hole (off / 4)) 512) fun run m => m.sendRun v slba x.data run
  let m := m.each ((List.range 128).filter hole) fun mu m => m.sendHole v slba mu
  let m := m.each ((List.range 128).filter fun mu => (List.range 4).any fun i => failed (4 * mu + i)) fun mu m =>
    m.raise .twn 19 (BitVec.ofNat 64 (v.val + 64 * (slba / 4 + mu)))
  let next := slba / 512 + 1
  let r := slba / 16384
  let m := m.setRs v { x with
    next := next
    walked := if next % 32 = 0 then insertNat r x.walked else x.walked
    bad := if c.fails.isEmpty then x.bad else insertNat r x.bad
    data := [] }
  (m.release s).freeSlot s

def Mach.pieceDone (s : Nat) (m : Mach) : Mach :=
  let c := m.cmd s
  if c.kind == .resync && c.stage == .running && c.todo.isEmpty then m.pieceSend s else m

/-! ### Outcomes -/

/-- A missing LB of a version arrives, or cannot be had (R242). -/
def Mach.rmwLb (id lb status : Nat) (d : Block) (m : Mach) : Mach :=
  match m.ver id with
  | none => m
  | some x =>
    let x := { x with rmwTodo := x.rmwTodo.filter (· != lb) }
    if status = 0 then m.setVer { x with mask := setBit x.mask lb true, lost := setBit x.lost lb false, data := SMap.set 0 x.data lb d }
    else m.setVer { x with rmwFail := true }

/-- Give the outcome of a codeword to one that asked for it. -/
def Mach.deliver (task status : Nat) (d : Block) (rebuilt : Bool) (w : RdFor) (m : Mach) : Mach :=
  match w with
  | .cmd s off => (m.readLb s off status d rebuilt).readDone s
  | .light s off => if status = 0 then m.addFill task s off d else m.lightFail s off status
  | .rmw id lb => m.rmwLb id lb status d
  | .resync s off => (m.pieceLb s off status d).pieceDone s
  | .peer .. => m

/-- The counts of n data-codeword reads that end with a status, at a stage (R220, R221, R227, R432). -/
def Mach.readEnds (a : BitVec 40) (status stage n : Nat) (m : Mach) : Mach :=
  let m := if status = 0 ∧ stage = 4 then
      (m.bump64By Reg.ECC_RECON_LO n).health fun h => { h with recon := (h.recon + n) % 2 ^ 64 }
    else if status = St.unrecoveredRead then
      ((m.bump Reg.ECC_UNREC).health fun h => { h with unrec := (h.unrec + n) % 2 ^ 64 }).raise .ecc 16 (a.setWidth 64)
    else if status = St.authFail then
      ((m.bump Reg.ECC_AUTHFAIL).health fun h => { h with authFail := (h.authFail + n) % 2 ^ 64 }).raise .ecc 17 (a.setWidth 64)
    else m
  let bin : Option Nat :=
    if status = 0 then some (stage - 1) else if status = St.unrecoveredRead then some 4 else if status = St.authFail then some 5 else none
  match bin with
  | some b => m.each (List.range n) fun _ m => m.observe 0x11 (some b) b
  | none => m

/-- A codeword ends with a status: it is counted for each read that it serves, then given to each. -/
def Mach.endTask (t : RdTask) (status : Nat) (m : Mach) : Mach :=
  let d := (m.cwAt t.addr).data
  let m := (m.dropTask t.id).readEnds t.addr status t.stage t.who.length
  m.each t.who (Mach.deliver t.id status d (status == 0 && t.stage == 4))

/-- May the slot and epoch of a codeword's metadata decrypt it (R323)? -/
def Mach.cwKeyOk (m : Mach) (v : Vid) (x : Cw) : Bool :=
  !x.enc || (let k := m.kslot x.keySlot
    (k.st == .loaded || k.st == .exhausted || k.st == .halted) &&
      !((List.finRange 64).any fun u => u != v && (m.volu u).st != .absent && (m.volu u).enc && (m.volu u).keySlot == x.keySlot))

/-- A block is flagged for refresh relocation: its furrow gets REFRESH, unless it is being gleaned (R216, R271). -/
def Mach.flagRefresh (f : Nat) (m : Mach) : Mach :=
  let x := m.fur f
  if x.refresh || x.st == .gleaning || x.st == .none then m
  else (m.putFur f { x with refresh := true }).bump Reg.GLN_REFRESH

/-- Stage 4 ends without the codeword (R219, R220). -/
def Mach.stage4Fails (t : RdTask) (m : Mach) : Mach := m.endTask t (if t.tagRetry then St.authFail else St.unrecoveredRead)

/-- An LB is decrypted, or only verified under the integrity key (R319, R322); a slot's key that its lane had not cached is a miss (R340). -/
def Mach.decrypted (enc : Bool) (m : Mach) : Mach :=
  let m := if enc && Config.decryptMiss m.free (m.rd64 Reg.CIP_DEC_LO).toNat then m.bump Reg.CIP_KEYMISS else m
  m.bump64 (if enc then Reg.CIP_DEC_LO else Reg.CIP_MAC_LO)

/-- The checks of R219 on what is known of a request: MCRC, KIND, VOL and LBA. -/
def Cw.meets (x : Cw) (v : Vid) (lba : Nat) (k : CwCheck) : Bool := k != .badMetadata && x.kind == .data && x.vol == v.val && x.lba == lba

/-- A stage has decoded the codeword: the checks of R219, key selection (R428), then the tag (R220). -/
def Mach.checkCw (t : RdTask) (k : CwCheck) (m : Mach) : Mach :=
  let x := m.cwAt t.addr
  if !x.meets t.vol t.lba k then
    let m := m.bump Reg.ECC_MDMISS
    if t.stage = 4 then m.stage4Fails t else m.beginStage4 t
  else if !m.cwKeyOk t.vol x then m.endTask t St.keySlotEmpty
  else
  let m := m.decrypted x.enc
  if k == .badTag || !x.tagOk then
    if t.stage = 4 then m.endTask t St.authFail
    else (m.bump Reg.CIP_TAGFAIL).beginStage4 { t with tagRetry := true }
  else m.endTask t St.success

/-- A stage has decoded a peer. Of R219 a data member has MCRC and KIND to show; P and Q have no metadata. -/
def Mach.checkPeer (t : RdTask) (task : Nat) (r : PeerRole) (k : CwCheck) (m : Mach) : Mach :=
  let x := m.cwAt t.addr
  let ok : Bool := match r with
    | .data _ => k != .badMetadata && (x.kind == .data || x.kind == .filler)
    | _ => x.kind == .parity
  if ok then (m.dropTask t.id).peerEnded task r (some x.term)
  else ((m.bump Reg.ECC_MDMISS).dropTask t.id).peerEnded task r none

/-- A stage has decoded the codeword. -/
def Mach.decoded (t : RdTask) (k : CwCheck) (m : Mach) : Mach :=
  match t.serves with
  | some (p, r) => m.checkPeer t p r k
  | none => m.checkCw t k

/-! ### Stages 1 to 3 (R216 to R218) -/

/-- Read-retry steps of a die (Table 08.9). -/
def Mach.retrySteps (m : Mach) (d : Nat) : Nat := (m.die d).info.elim 1 (·.retry)

/-- The outcome of stages 1 and 2 as the ladder allows it: steps from 0 up to n − 1, but for the one tried at stage 1 (R217). What a
raw program or erase destroyed does not decode (R196). -/
def Mach.hardOf (m : Mach) (a : BitVec 40) (d : HardDecode) : HardDecode :=
  if (m.cwAt a).gone then .failed
  else match d with
    | .stage2 step => if step < m.retrySteps (adrDie a) && step != (m.die (adrDie a)).step then d else .failed
    | d => d

/-- Senses that the ladder takes behind that of stage 1. -/
def Mach.ladderSenses (m : Mach) (a : BitVec 40) (d : HardDecode) : Nat :=
  let tried := (m.die (adrDie a)).step
  match d with
  | .stage1 _ => 0
  | .stage2 step => if tried < step then step else step + 1
  | .failed => m.retrySteps (adrDie a) - 1

/-- What stages 1 and 2 leave in counters, histogram, remembered step and refresh flag (R216, R217). -/
def Mach.hardCounts (a : BitVec 40) (d : HardDecode) (m : Mach) : Mach :=
  let f := m.furrowOfAddr a
  let die := adrDie a
  let b := adrBlock a
  let m := m.senses die b (m.ladderSenses a d)
  match d with
  | .stage1 bits =>
    let m := m.observe 0x10 (some (if bits = 0 then 0 else if 280 < bits then 15 else (bits + 19) / 20)) bits
    let m := if 0 < bits then m.bump64 Reg.ECC_CORR_LO else m
    if m.rdN Reg.ECC_REFTHR ≤ bits then m.flagRefresh f else m
  | .stage2 step =>
    let m := (m.bump64 Reg.ECC_LADDER_LO).raiseTo Reg.ECC_MAXSTEP step 15
    (m.putBlk die b { m.blk die b with step := step }).flagRefresh f
  | .failed => m

/-- The offsets of the four further sensings of stage 3 (R218). -/
def Mach.softOffsets (m : Mach) : List Int :=
  let d : Int := m.rdN Reg.ECC_SOFTDELTA
  [-2 * d, -d, d, 2 * d]

/-- Stage 3 begins: four more senses, and the request joins the soft queue. -/
def Mach.beginSoft (t : RdTask) (m : Mach) : Mach :=
  let m := m.senses (adrDie t.addr) (adrBlock t.addr) 4
  let m := m.updFl fun x => { x with softTasks := x.softTasks ++ [t.id] }
  (m.setTask { t with stage := 3, sens := m.softOffsets }).raiseTo Reg.ECC_SOFTQ (min 64 (m.fl.softTasks.length - 8)) 64

/-- Stages 1 and 2 are over in the channel. -/
def Mach.hardDone (t : RdTask) (d : HardDecode) (k : CwCheck) (m : Mach) : Mach :=
  let d := m.hardOf t.addr d
  let m := m.hardCounts t.addr d
  match d with
  | .stage1 _ => m.decoded { t with stage := 1 } k
  | .stage2 _ => m.decoded { t with stage := 2 } k
  | .failed => if m.running .ecc then m.beginSoft t else m.escalate t

/-- A read's die gave no data: a failed hard decode (Table 08.8, TIMEOUT). -/
def Mach.hardFailed (t : RdTask) (m : Mach) : Mach := m.hardDone t .failed .good

end Sys2Proof.Machine
end

