-- ==== Sys2Proof/Machine/MemOps.lean ====
section
/-! DEFINITION. What a CXL.mem request is answered with (R90, R94, R99), and the DRAM address decode with the places of frames and descriptors (R25, R151, R306). -/

namespace Sys2Proof.Machine

/-! ### The serial number (Table 06.2) -/

/-- A hexadecimal digit in ASCII. -/
def hexDigit (n : Nat) : Byte := BitVec.ofNat 8 (if n < 10 then 48 + n else 55 + n)

/-- SERIAL: the Device Serial Number in text, 16 hexadecimal digits (DESIGN CHOICE, log entry 167), padded with spaces to 20 bytes; the
first byte lowest. -/
def Board.serial (b : Board) : BitVec 160 :=
  BitVec.ofNat 160 (((List.range 20).map fun i =>
    (if i < 16 then hexDigit (b.dsn.toNat / 16 ^ (15 - i) % 16) else 32).toNat * 256 ^ i).sum)

/-! ### Requests in flight and their answers -/

def Mach.memEnd (p : Port) (m : Mach) : Mach := (m.updPort p fun x => { x with inflight := x.inflight - 1 }).touch (.port p)

/-- Zero data with poison (R94). -/
def Mach.poisonOut (p : Port) (m : Mach) : Mach :=
  ((m.bump (portReg p Reg.PORT_POISON_TX)).send (.memData p 0 true)).memEnd p

def Mach.lineOut (p : Port) (d : Line) (m : Mach) : Mach := (m.send (.memData p d false)).memEnd p

def Mach.writeAck (p : Port) (m : Mach) : Mach := (m.send (.memAck p)).memEnd p

/-- A write is complete: its port is told, unless the link went down behind it (R99). -/
def Mach.writeDone (p : Port) (mute : Bool) (m : Mach) : Mach := if mute then m else m.writeAck p

def LampReq.port (r : LampReq) : Port :=
  match r with
  | .rd p _ _ => p
  | .wr p _ _ => p
  | .poisonWr p _ => p
  | .wrMute p _ _ => p
  | .poisonMute p _ => p

def LampReq.dpa (r : LampReq) : Nat :=
  match r with
  | .rd _ a _ => a
  | .wr _ a _ => a
  | .poisonWr _ a => a
  | .wrMute _ a _ => a
  | .poisonMute _ a => a

def LampReq.isRead (r : LampReq) : Bool :=
  match r with
  | .rd .. => true
  | _ => false

/-- Its link went down after it had reached the lamp path: no completion is sent (R99). -/
def LampReq.isMute (r : LampReq) : Bool :=
  match r with
  | .wrMute .. => true
  | .poisonMute .. => true
  | _ => false

/-- The request once its link is down. -/
def LampReq.mute (r : LampReq) : LampReq :=
  match r with
  | .wr p a d => .wrMute p a d
  | .poisonWr p a => .poisonMute p a
  | x => x

/-- The request has no page to meet: a read is answered with poison, a write dropped. -/
def Mach.memMiss (r : LampReq) (m : Mach) : Mach := if r.isRead then m.poisonOut r.port else m.writeDone r.port r.isMute

/-- Requests of a port that wait in the lamp path when its link goes down: the writes stand, unanswered; a read has nobody to go to. -/
def Mach.muteReqs (p : Port) (m : Mach) : Mach :=
  let f (l : List LampReq) : List LampReq :=
    (l.filter fun r => r.port != p || !r.isRead).map fun r => if r.port == p then r.mute else r
  m.updLamp fun l => { l with capHeld := f l.capHeld, late := f l.late, fetches := l.fetches.map fun x => { x with reqs := f x.reqs } }

/-! ### The DRAM address decode (R306) -/

/-- A decoded DRAM address. -/
structure DramPlace where
  ch : Nat
  sc : Nat
  rank : Nat
  bg : Nat
  bank : Nat
  colline : Nat
  row : Nat
  deriving DecidableEq, Repr

/-- R306 for a grain and a count of ranks. -/
def dramDecode (g : Nat) (ranks2 : Bool) (a : Nat) : DramPlace :=
  let ac := a / 2 ^ (g + 2) * 2 ^ g + a % 2 ^ g
  let l := ac / 128
  { ch := a / 2 ^ g % 4, sc := ac / 64 % 2, rank := if ranks2 then l / 2048 % 2 else 0, bg := l % 8, bank := l / 8 % 4,
    colline := l / 32 % 64, row := l / (if ranks2 then 4096 else 2048) }

def Mach.dramPlace (m : Mach) (a : Nat) : DramPlace :=
  dramDecode (bits (m.rdN Reg.DRG_ILV) 3 0) (bitOf (m.rdN Reg.DRG_CFG) 5) a

/-- The channel that holds an address. -/
def Mach.dramChan (m : Mach) (a : Nat) : Fin 4 := Fin.ofNat 4 (m.dramPlace a).ch

/-- The DRAM address of a line of a frame. -/
def Mach.lineAddr (m : Mach) (frame page line : Nat) : Nat := m.lamp.poolBase + 2 ^ 21 * frame + 4096 * page + 64 * line

/-- The DRAM address of a lamp block's descriptor (R151). -/
def Mach.descAddr (m : Mach) (key : Nat) : Nat := (m.region (key / 2 ^ 26)).desc + 192 * (key % 2 ^ 26)

end Sys2Proof.Machine
end

