-- ==== Sys2Proof/Machine/DevOps.lean ====
section
/-! DEFINITION. The device state (R15 to R20), the entry into FAILED, faults of pages (R39), uncorrectable DRAM lines (Table 13.4),
mailbox replies and background operations (R63, R84 to R87). -/

namespace Sys2Proof.Machine

/-! ### Device state -/

/-- The device state changes: a Memory Module Event, by how bad the new state is (R88, Table 21.2). -/
def Mach.setDev (st : DevSt) (m : Mach) : Mach :=
  if m.dev.st == st then m
  else (m.updDev fun d => { d with st := st }).logEvent
    (match st with | .failed => 3 | .degraded => 1 | _ => 0) (.module st)

/-- Which of IO_READY, DEGRADED and SERVICE the held pages and the conditions of R17 ask for (Table 01.3, R19). -/
def Mach.ioState (m : Mach) : DevSt := if m.heldPages != 0 then .service else if m.degraded then .degraded else .ioReady

/-- IO_READY, DEGRADED and SERVICE follow the held pages and the conditions of R17. -/
def Mach.settleDev (m : Mach) : Mach := if m.ioUp then m.setDev m.ioState else m

/-- What a command that had started completes with when the controller fails: the rule asks for "the media or resource status of its
failure" and names none. DESIGN CHOICE (log entry 158): UNRECOVERED_READ for what reads, WRITE_FAULT for the rest. -/
def failStatus (c : Cmd) : Nat :=
  let o := entOpc c.entry
  if o == opRead || o == opVerify || o == opLight then St.unrecoveredRead else St.writeFault

/-- Every command in flight completes: ABORTED_BY_RESET where it had not started, else the failure's status (R18). -/
def Mach.failCommands (m : Mach) : Mach :=
  m.each m.q.used fun s m =>
    let c := m.cmd s
    match c.stage with
    | .fetching => m
    | .waiting => m.cutShort s St.abortedByReset
    | .blocked => m.cutShort s St.abortedByReset
    | .admitted => m.cutShort s St.abortedByReset
    | .running => m.cutWith s (failStatus c) c.cutResult.1 c.cutResult.2
    | .committed => m.cutWith s (failStatus c) c.cutResult.1 c.cutResult.2

/-- Writes held at the dirty cap, and what waits behind them, are answered as R18 has it: reads with poison, writes dropped. -/
def Mach.dropHeld (m : Mach) : Mach :=
  let l := m.lamp.capHeld
  (m.updLamp fun x => { x with capHeld := [] }).each l Mach.memMiss

/-- The number of a condition of R18: 1 flash channels, 2 a DRAM channel, 3 no headland root, 4 PD_QCORE or PD_AON, 5 a table
segment, 6 a duplicated structure, 7 a PLL. -/
def Mach.fail (cause : Nat) (m : Mach) : Mach :=
  if m.dev.st == .failed then m
  else
    let m := m.updDev fun d => { d with
      failCause := cause
      phase := if d.phase == .idle || d.phase == .done || d.phase == .abandoned then d.phase else .failed }
    let m := (m.setDev .failed).failCommands.dropHeld
    let m := m.each [Port.p0, Port.p1] fun p m =>
      if (m.port.get p).viralEn then ((m.updPort p fun x => { x with viralTx := true }).touch (.port p)).send (.viral p) else m
    m.devEvent .crit 0x0102 0 [BitVec.ofNat 32 cause]

/-- Channels unavailable to the data path: away, or retired (R18). -/
def Mach.chansAway (m : Mach) : Nat := ((List.finRange 32).filter fun c => m.chanAway c).length

/-- How many channels the layouts of the volumes cover: one where any volume has LAYOUT 1, else two (R18, R245). -/
def Mach.layoutCovers (m : Mach) : Nat := if m.anyLayout1 then 1 else 2

/-- More flash channels are unavailable than the layout of any volume covers (R18). -/
def Mach.chanCheck (m : Mach) : Mach := if m.layoutCovers < m.chansAway then m.fail 1 else m

/-! ### Uncorrectable DRAM lines (R312, Table 13.4) -/

/-- A volume becomes FAULTED, and the next DEFINITION record says so: only FORMAT or DELETE ends it (R141, R150). -/
def Mach.faultVol (v : Vid) (m : Mach) : Mach :=
  ((m.setVol v { m.volu v with st := .faulted }).darkRegions v).ask (.definition {}) |>.1

/-- LBs of a buffered version are lost: it becomes held, and those who wait for it fail (R242, R243). -/
def Mach.loseVersion (id : Nat) (lbs : List (Fin 4)) (m : Mach) : Mach :=
  match m.ver id with
  | none => m
  | some x =>
    if x.st == .placed then m
    else ((m.setVer { x with st := .held, lost := lbs.foldl (fun b i => setBit b i.val true) x.lost }).supersedeHeld x
      ).failCovers id

/-- The response to an uncorrectable line, by its user. -/
def Mach.dramUser (u : DramUser) (m : Mach) : Mach :=
  match u with
  | .mapEntry i => m.recoverSegment i
  | .bufferOpenWrite s =>
    if m.slotUsed s && entOpc (m.cmd s).entry == opWrite then
      m.complete s St.writeFault ((m.cmd s).todo.headD 0) 0
    else m
  | .bufferVersion id lbs => (m.loseVersion id lbs).settleCovers
  | .frameLine l => m.loseLine (l / 32768) ((l / 64) % 512) (l % 64)
  | .descriptor k b => m.taintBlock (descKey k.val b)
  | .voltage d b => m.putBlk d.val b { m.blk d.val b with step := 0 }
  | .furrowTable =>
    if m.vol.recov.isSome then m
    else (m.updVol fun x => { x with recov := some m.mapSegs }).bump Reg.MAP_RECOVCNT
  | .copyStaging id => m.unstage fun c => c.id == id
  | .duplicated both => if both then m.fail 6 else m
  | .lantern _ => m
  | .unused => m

/-- Count it against a channel, then respond (R312). -/
def Mach.dramLost (d : Fin 4) (u : DramUser) (m : Mach) : Mach :=
  let m := (m.bump (drcReg d Reg.DRC_UE)).bump Reg.DRG_UE
  let m := m.health fun h => { h with dramUe := (h.dramUe + 1) % 2 ^ 64 }
  (m.raise (.drc d) 17 0).dramUser u

/-! ### Mailbox (R63, R84 to R87) -/

/-- Mailbox Interface Ready (R72, R83, R78): management firmware runs, the port is up and not held in D3hot. -/
def Mach.mailboxReady (m : Mach) (p : Port) : Bool :=
  m.dev.fwRunning && !m.dev.fwHalt && m.dev.st != .boot && !(m.port.get p).d3 && !(m.port.get p).perst && (m.port.get p).up

/-- Doorbell handling is paused (Table 06.10, steps 3 and 4). -/
def Mach.mailboxPaused (m : Mach) : Bool := m.adm.hitless.any (·.2)

/-- The port whose foreground mailbox command waits for a record. -/
def Waiter.busyPort (w : Waiter) : Option Port :=
  match w with
  | .mbox p _ => some p
  | .keyImport p _ => some p
  | .keyRetire p => some p
  | .region p _ _ => some p
  | .feature p => some p
  | .keyRotate _ => none
  | .volume _ => none
  | .retire _ => none
  | .takeover _ => none
  | .importAlone _ => none
  | .regionAlone .. => none

/-- The ports with a foreground mailbox command in progress: one that waits for a record, for the partner, or for the queue core. -/
def Mach.busyPorts (m : Mach) : List Port :=
  m.hdl.waiters.filterMap (fun w => w.2.2.busyPort) ++
    ((m.twn.wait.filter fun w => decide (w.op < 6) && !w.alone).map (·.port)) ++ m.q.qp.filterMap (fun e => e.2.delBy) ++
    m.q.aborts.map (·.1)

/-- A foreground mailbox command is in progress on either port. -/
def Mach.foreground (m : Mach) : Bool := !m.busyPorts.isEmpty

/-- A port's doorbell reads 1 (R84): a command of it is in progress, or waits its turn. -/
def Mach.doorbell (m : Mach) (p : Port) : Bool := m.busyPorts.contains p || m.adm.mboxQ.any fun e => e.1 == p

/-- The mailbox takes a command of a port up at once: it is ready and not paused, and no command of either port runs or waits (R86). -/
def Mach.mailboxUp (m : Mach) (p : Port) : Bool :=
  m.mailboxReady p && !m.mailboxPaused && !m.foreground && m.adm.mboxQ.isEmpty

/-- Answer a mailbox command: Return Code and extended status (R87, Table 04.4). -/
def Mach.answer (p : Port) (status : Nat) (badLen bg : Bool) (payload : List Byte) (m : Mach) : Mach :=
  m.send (.mbox p (returnCode status badLen bg) status payload)

def Mach.ok (p : Port) (payload : List Byte) (m : Mach) : Mach := m.answer p St.success false false payload

def Mach.refuse (p : Port) (status : Nat) (m : Mach) : Mach := m.answer p status false false []

/-- Commands outside the list of R63 are refused before IO_READY, in FAILED, and once a shutdown has begun (Table 03.6). -/
def Mach.mailGated (m : Mach) : Bool := !m.ioUp || m.dev.phase != .idle

/-- A mailbox command runs. `want` is the payload length its opcode takes; `early` marks the commands of R63. -/
def Mach.mailRuns (p : Port) (len want : Nat) (early : Bool) (f : Mach → Mach) (m : Mach) : Mach :=
  if len != want then m.answer p St.invalidField true false []
  else if !early && m.mailGated then m.refuse p St.volumeNotReady
  else f m

/-- A doorbell is rung with a command (R86): it runs, or waits its turn. While the mailbox is not ready nothing is taken, and a port
whose doorbell is set takes no second command. -/
def Mach.mail (i : Instr) (p : Port) (len want : Nat) (early : Bool) (f : Mach → Mach) (m : Mach) : Mach :=
  if m.mailboxUp p then m.mailRuns p len want early f
  else if !m.mailboxReady p || m.doorbell p then m
  else m.updAdm fun a => { a with mboxQ := a.mboxQ ++ [(p, i)] }

/-- Start a background operation, or refuse it while one runs (R86). -/
def Mach.startBg (p : Port) (op : BgOp) (opcode : Nat) (f : Mach → Mach) (m : Mach) : Mach :=
  if m.adm.bg.isSome then m.refuse p St.backgroundBusy
  else
    let m := m.updAdm fun a => { a with bg := some { port := p, op := op } }
    f ((m.updPort p fun x => { x with bgOpcode := opcode, bgPct := 0, bgRc := 0, bgExt := 0 }).answer p St.success false true [])

/-- The opcode that starts each background operation (Table 06.1). -/
def BgOp.opcode (b : BgOp) : Nat :=
  match b with
  | .volCreate _ => 0xC010
  | .volDelete _ => 0xC011
  | .volFormat _ => 0xC012
  | .keyRotate _ => 0xC032
  | .activate _ => 0x0202
  | .svcStop _ => 0xC071
  | .svcStart .. => 0xC071
  | .svcStopChangeStart .. => 0xC071
  | .svcRetrain _ => 0xC071
  | .svcRetire _ => 0xC071

/-- The outcome of a background operation whose port was reset goes to the health log and the Almanac (Table 03.7). -/
def Mach.orphanEnd (opcode status : Nat) (m : Mach) : Mach :=
  (m.updAdm fun a => { a with health := { a.health with orphan := some (opcode, status) } }).devEvent .info Config.outcomeCode
    (BitVec.ofNat 64 opcode) [BitVec.ofNat 32 status]

/-- The background operation ends with a status. -/
def Mach.endBg (status : Nat) (m : Mach) : Mach :=
  match m.adm.bg with
  | none => m
  | some b =>
    let m := m.updAdm fun a => { a with bg := none }
    if b.orphan then m.orphanEnd b.op.opcode status
    else
      let op := (m.port.get b.port).bgOpcode
      (m.updPort b.port fun x => { x with bgPct := 100, bgRc := returnCode status false false, bgExt := status }).send
        (.background b.port op (returnCode status false false) status)

/-- A port's mailbox is reset: its commands in progress are carried through unanswered, those that wait are gone, and a background
operation started through it runs on (Tables 03.1 and 03.7). -/
def Mach.dropMailbox (p : Port) (m : Mach) : Mach :=
  let w (x : Waiter) : List Waiter :=
    if x.busyPort != some p then [x]
    else match x with
      | .keyImport _ k => [.importAlone k]
      | .region _ k r => [.regionAlone k r]
      | _ => []
  let m := m.updHdl fun h => { h with waiters := h.waiters.flatMap fun x => (w x.2.2).map fun y => (x.1, x.2.1, y) }
  let m := m.updTwn fun t => { t with wait := t.wait.map fun x => if x.port == p && decide (x.op < 6) then { x with alone := true } else x }
  let m := m.updQ fun q => { q with
    qp := q.qp.map fun e => (e.1, if e.2.delBy == some p then { e.2 with delBy := none } else e.2)
    aborts := q.aborts.filter fun a => a.1 != p }
  m.updAdm fun a => { a with
    mboxQ := a.mboxQ.filter fun e => e.1 != p
    bg := a.bg.map fun b => if b.port == p then { b with orphan := true } else b }

end Sys2Proof.Machine
end

