-- ==== Sys2Proof/Machine/KeyOps.lean ====
section
/-! DEFINITION. Nonce counters and their reservations (R322, R326 to R328), and the numbers of the key slots. -/

namespace Sys2Proof.Machine

/-- The slot number under which a NONCE record names the integrity key (R327: it follows the same rule as a slot). -/
def integSlot : Nat := 1024

/-- A key slot, or the integrity key's counter. -/
def Mach.nslot (m : Mach) (k : Nat) : KeySlot := if k = integSlot then m.key.integ else m.kslot k

def Mach.setNslot (k : Nat) (x : KeySlot) (m : Mach) : Mach :=
  if k = integSlot then m.updKey fun t => { t with integ := x } else m.setKslot k x

/-- The slot under which a volume's LBs are encrypted or tagged (R319, R322). -/
def Vol.nonceSlot (v : Vol) : Nat := if v.enc then v.keySlot else integSlot

/-- Size of a reserved block (R327). -/
def nonceBlock : Nat := 2 ^ 20

/-- Where EXHAUSTED and HALTED begin (R328, R424). -/
def nonceSoft : Nat := 2 ^ 64 - 2 ^ 32
def nonceHard : Nat := 2 ^ 64 - 1

/-- Ask for the next block of a slot, unless it has been asked for. -/
def Mach.askNonce (k : Nat) (m : Mach) : Mach :=
  let x := m.nslot k
  let want := min nonceHard ((x.hwm / nonceBlock + 1) * nonceBlock)
  if want ≤ x.asked then m
  else (m.setNslot k { x with asked := want }).ask (.nonce k x.epoch want) |>.1

/-- Past the middle of the current block the next one is requested (R327). -/
def Mach.nonceMiddle (k : Nat) (m : Mach) : Mach :=
  let x := m.nslot k
  if x.hwm ≤ x.nonce + nonceBlock / 2 then m.askNonce k else m

/-- Can n LBs be encrypted under a slot now: inside what is reserved, and never at 2^64 − 1? -/
def Mach.nonceOk (m : Mach) (k n : Nat) : Bool :=
  let x := m.nslot k
  (k == integSlot || x.st == .loaded || x.st == .exhausted) && x.st != .halted && decide (x.nonce + n ≤ x.hwm) &&
    decide (x.nonce + n ≤ nonceHard)

/-- Of n LBs encrypted from a nonce on, those whose lane had not cached the slot's key (R340). Which lanes take them and what each has
cached is not stated: a free value of each encryption. The integrity key is no slot. -/
def Mach.encryptMisses (m : Mach) (k n : Nat) : Nat :=
  if k = integSlot then 0
  else ((List.range n).filter fun i => Config.encryptMiss k (m.nslot k).epoch ((m.nslot k).nonce + i)).length

/-- Draw n nonces: the first one, with the counter moved on. -/
def Mach.drawNonces (k n : Nat) (m : Mach) : Mach × Nat :=
  let x := m.nslot k
  let m := m.bumpBy Reg.CIP_KEYMISS (m.encryptMisses k n)
  ((((m.setNslot k { x with nonce := x.nonce + n }).nonceMiddle k).bump64By
    (if k = integSlot then Reg.CIP_MAC_LO else Reg.CIP_ENC_LO) n).touch .key, x.nonce)


/-- LBs begin to wait for a reservation (R327): they are counted once. -/
def Mach.nonceWait (k n : Nat) (m : Mach) : Mach :=
  let m := m.askNonce k
  if (m.nslot k).waiting then m
  else ((m.setNslot k { m.nslot k with waiting := true }).bumpBy Reg.CIP_KEYWAIT n).bump Reg.KEY_RSVWAIT

/-- A NONCE record is durable: its block may be used. -/
def Mach.nonceDurable (k epoch hwm : Nat) (m : Mach) : Mach :=
  let x := m.nslot k
  if x.epoch = epoch then (m.setNslot k { x with hwm := max x.hwm hwm, waiting := false }).touch .key else m

end Sys2Proof.Machine
end

