-- ==== Sys2Proof/Machine/SowOps.lean ====
section
/-! DEFINITION. Page formation and placement (R222 to R224, R244 to R250, R262, R264 to R267, R288): what the Sower places where,
what a confirmed or failed page does, and how stripes and furrows end. -/

namespace Sys2Proof.Machine

/-! ### The replay window (R286, R288) -/

/-- HDL_WINDOW changes: its peak and quantity 0x51. -/
def Mach.observeWindow (m : Mach) : Mach :=
  let w := m.window
  ((m.updHdl fun h => { h with winPeak := max h.winPeak (min w 31) }).touch .hdl).observe 0x51 none w

/-! ### What waits for a position -/

/-- The layout of the furrows a position opens (R245). -/
def Mach.posLayout (m : Mach) (pos : Fin 8) : Bool := pos == 3 && m.anyLayout1

/-- Is the slot of a volume HALTED, so that its versions and copies are held (R328)? -/
def Mach.heldKey (m : Mach) (v : Vid) : Bool := (m.nslot (m.volu v).nonceSlot).st == .halted

/-- Complete versions of a position and layout, those with precedence first (R246, R249). -/
def Mach.readyVers (m : Mach) (pos : Fin 8) (layout1 : Bool) : List Ver :=
  let l := m.buf.vers.filter fun x =>
    x.st == .complete && m.posFor x.vol x.pos == pos && (m.volu x.vol).layout1 == layout1 && !m.heldKey x.vol
  l.filter (fun x => x.pri) ++ l.filter (fun x => !x.pri)

/-- Staged copies of a position that no page in flight carries. -/
def Mach.readyCopies (m : Mach) (pos : Fin 8) (layout1 : Bool) : List Copy :=
  m.gln.copies.filter fun c => c.pos == pos && !c.flying && (m.volu c.vol).layout1 == layout1 && !m.heldKey c.vol

def Mach.posHasWork (m : Mach) (pos : Fin 8) (layout1 : Bool) : Bool :=
  !(m.readyVers pos layout1).isEmpty || !(m.readyCopies pos layout1).isEmpty

/-! ### Opening a furrow (R245, R264) -/

/-- May a position take a furrow of the reserve? -/
def Mach.mayReserve (m : Mach) (pos : Fin 8) : Bool :=
  pos == 4 || pos == 5 || pos == 7 || (pos == 3 && !(m.readyCopies 3 (m.posLayout 3)).isEmpty) ||
    (m.readyVers pos (m.posLayout pos)).any fun x => x.rsv || m.gln.level != .exhausted

/-- The fallow furrow of the lowest mean erase count, or for position 5 the highest; ties to the lower index. -/
def Mach.pickFallow (m : Mach) (pos : Fin 8) : Option Nat :=
  m.fallows.foldl (fun best f =>
    match best with
    | none => some f
    | some b =>
      if pos == 5 then if m.meanErase b < m.meanErase f then some f else some b
      else if m.meanErase f < m.meanErase b then some f else some b) none

/-- ECC_ERASEMASK: the channels treated as erasures (R228). -/
def Mach.eraseMask (m : Mach) : Word := (List.finRange 32).foldl (fun w c => if m.chanAway c then w ||| bit32 c.val else w) 0

/-- Take the next FSN (R238). -/
def Mach.takeFsn (m : Mach) : Mach × Nat := ((m.updBuf fun b => { b with fsn := b.fsn + 1 }).touch .map, m.buf.fsn)

/-- Versions whose page failed and that no furrow can take: a FLUSH or FUA write waiting on them ends with WRITE_FAULT (R250). -/
def Mach.failAgain (pos : Fin 8) (m : Mach) : Mach :=
  (m.each ((m.buf.vers.filter fun x => x.again && m.posFor x.vol x.pos == pos).map (·.id)) Mach.failCovers).settleCovers

/-- The furrow of a data position is opened: next FSN, layout, absent mask, FURROW_OPEN record. -/
def Mach.openAt (pos : Fin 8) (f : Nat) (m : Mach) : Mach :=
  let (m, fsn) := m.takeFsn
  let l := m.posLayout pos
  let a := m.eraseMask
  let m := m.putFur f { m.fur f with st := .opn, fsn := fsn, layout1 := l, absent := a, lost := 0, placed := 0, valid := 0,
                                     refresh := false, relocate := false, stripes := 0 }
  let m := m.setOpenF pos (some { furrow := f, fsn := fsn, layout1 := l, absent := a, page := 0, walk := 0, mask := 0, flying := 0,
                                  parityLeft := 0, parityBad := 0, closing := false })
  let m := (m.ask (.furrowOpen f fsn pos l a)).1
  (m.touch .sow).observeWindow.urgency

/-- Placement runs: the SOW page is RUNNING and no power-fail sequence has stopped the Sower. -/
def Mach.sowing (m : Mach) : Bool := m.running .sow && m.dev.pf == .none && m.ioUp && m.dev.phase != .done

/-- A position that needs a furrow takes one (R245, R263, R264, R288). -/
def Mach.openFurrow (pos : Fin 8) (m : Mach) : Mach :=
  if pos == 6 || !m.sowing || (m.openF pos).isSome || !m.posHasWork pos (m.posLayout pos) then m
  else if m.rdN Reg.HDL_WINMAX ≤ m.window then m.bump Reg.HDL_WINHOLD
  else if m.fallowCount ≤ m.rdN Reg.GLN_EXHTHR && !m.mayReserve pos then m.failAgain pos
  else match m.pickFallow pos with
    | none => m.failAgain pos
    | some f => m.openAt pos f

/-! ### Forming a page (R246, R247, R319, R327) -/

/-- The volume of an item. -/
def Mach.itemVol (m : Mach) (it : PlaneItem) : Option Vid :=
  match it with
  | .version id => (m.ver id).map (·.vol)
  | .copy id => (m.gln.copies.find? fun c => c.id == id).map (·.vol)
  | .filler => none

def Mach.itemSlot (m : Mach) (it : PlaneItem) : Option Nat := (m.itemVol it).map fun v => (m.volu v).nonceSlot

/-- LBs of a page that a nonce slot must encrypt. -/
def Mach.slotNeed (m : Mach) (items : List PlaneItem) (k : Nat) : Nat :=
  4 * (items.filter fun it => m.itemSlot it == some k).length

/-- The key under which a volume's LBs are encrypted or tagged (R320, R322). -/
def Mach.cwKey (m : Mach) (v : Vol) : BitVec 256 :=
  let salt := m.key.devsalt.getD 0
  if v.enc then dataKey salt (m.kslot v.keySlot).key else integrityKey salt

/-- The four codewords of one plane of a data page: `head` holds what they share, with the first LBA and nonce. -/
def mkCws (head : Cw) (key : BitVec 256) (data : SMap Block) (lampwb : BitVec 4) (faulty : List (Fin 4)) (draw : Nat) : List Cw :=
  (List.finRange 4).map fun i =>
    let x := Cw.sealed { head with lba := head.lba + i.val, nonce := head.nonce + i.val, lampwb := lampwb.getLsbD i.val,
                                   data := SMap.get 0 data i.val } key
    if faulty.contains i then x.faulted draw i.val else x

def fillerCws (fsn : Nat) : List Cw := List.replicate 4 { kind := .filler, fsn := fsn }

/-- One plane of an MU is encrypted: its four nonces are drawn and its codewords formed. -/
def Mach.formMu (vol : Vid) (mu wsn fsn : Nat) (data : SMap Block) (lampwb : BitVec 4) (copy : Bool) (faulty : List (Fin 4)) (m : Mach) :
    Mach × List Cw :=
  let v := m.volu vol
  let (m, n) := (m.when (!faulty.isEmpty) Mach.draw).drawNonces v.nonceSlot 4
  (m, mkCws { kind := .data, vol := vol.val, enc := v.enc, keySlot := if v.enc then v.keySlot else 0, epoch := (m.nslot v.nonceSlot).epoch,
              lba := 4 * mu, wsn := wsn, nonce := n, fsn := fsn, copy := copy } (m.cwKey v) data lampwb faulty m.free)

/-- Encrypt one plane. -/
def Mach.formPlane (fsn : Nat) (faulty : List (Fin 4)) (it : PlaneItem) (m : Mach) : Mach × List Cw :=
  match it with
  | .filler => (m.bump Reg.SOW_FILLER, fillerCws fsn)
  | .version id =>
    match m.ver id with
    | none => (m, fillerCws fsn)
    | some x =>
      let (m, l) := m.formMu x.vol x.mu x.wsn fsn x.data x.lampwb false faulty
      (m.setVer { x with st := .placed, again := false }, l)
  | .copy id =>
    match m.gln.copies.find? fun c => c.id == id with
    | none => (m, fillerCws fsn)
    | some c =>
      let (m, l) := m.formMu c.vol c.mu c.wsn fsn c.data c.lampwb true faulty
      (m.updGln fun g => { g with copies := g.copies.map fun y => if y.id == id then { y with flying := true } else y }, l)

/-- All planes in ascending order; encryption faults are named for the slots of plane 0. -/
def Mach.formPage (fsn : Nat) (faulty : List (Fin 4)) : List PlaneItem → Mach → Mach × List Cw
  | [], m => (m, [])
  | it :: its, m =>
    let (m, a) := m.formPlane fsn faulty it
    let (m, b) := m.formPage fsn [] its
    (m, a ++ b)

/-- What a version placed from a host position adds to the debt (R262). -/
def Mach.debtStep (m : Mach) : Int :=
  match m.gln.vic1 with
  | none => 0
  | some v => if v.t0 ≤ v.v0 then 1048576 else (min 1048576 (1024 * v.v0 / (v.t0 - v.v0)) : Nat)

def Mach.pageDebt (items : List PlaneItem) (m : Mach) : Mach :=
  m.each items fun it m => match it with
    | .version _ => m.addDebt m.debtStep
    | .copy _ => m.addDebt (-1024)
    | .filler => m

/-- The queue of a position's data pages (R246, R266). -/
def posReq (pos : Fin 8) : Req := if pos == 4 || pos == 5 then .q3 else .q2

/-- Queue one member page. -/
def Mach.queuePage (pos : Fin 8) (o : OpenF) (c : Chan) (items : List PlaneItem) (cws : List Cw) (parity : Bool) (m : Mach) : Mach :=
  let id := m.buf.nextPgm
  let pg : PagePgm := { id := id, pos := pos, furrow := o.furrow, fsn := o.fsn, chan := c, page := o.page, items := items, cws := cws,
                        parity := parity }
  (m.updBuf fun b => { b with pgms := b.pgms ++ [pg], nextPgm := id + 1 }).queueOp c ⟨(o.furrow / 4096) % 64, Nat.mod_lt _ (by omega)⟩
    (posReq pos) (.program id)

/-- The FURROW_OPEN record of a furrow is durable, so its first program may go (R245). -/
def Mach.openRecorded (m : Mach) (fsn : Nat) : Bool :=
  let is (b : HBody) : Bool := match b with | .furrowOpen _ n _ _ _ => n == fsn | _ => false
  !(m.hdl.want.any fun w => is w.2) && !(m.hdl.log.any fun r => !r.durable && is r.body)

/-- Must a page be programmed although too few versions wait (R240, R246)? -/
def Mach.pageDue (m : Mach) (o : OpenF) (vs : List Ver) : Bool :=
  o.closing || vs.any (fun x => x.pri) || m.dev.phase == .quiesce || m.dev.phase == .drain || m.pageSt .gln == .stopping

/-! ### Ends of stripes and furrows -/

/-- A furrow leaves its position and is CLOSED. -/
def Mach.closeAt (pos : Fin 8) (m : Mach) : Mach :=
  match m.openF pos with
  | none => m
  | some o => ((m.setOpenF pos none).closeFur o.furrow).touch .sow

/-- A furrow is closed at its current stripe with provisional parity (Table 03.6, R271, R292). -/
def Mach.closePartial (pos : Fin 8) (m : Mach) : Mach :=
  match m.openF pos with
  | none => m
  | some o => (if o.mask = 0 then m else m.askProvpar o.fsn o.page).closeAt pos

/-- The last parity page of a stripe has ended: the stripe closes, its accumulator is cleared, and at the last stripe, or where
a page failed, the furrow is CLOSED (R224, R245, R250). -/
def Mach.stripeEnd (pos : Fin 8) (o : OpenF) (m : Mach) : Mach :=
  let m := if parityCount o.layout1 ≤ o.parityBad then m.askProvpar o.fsn o.page else m.stripeSafe o.fsn o.page 0xFFFFFFFF
  let m := m.putFur o.furrow { m.fur o.furrow with stripes := o.page + 1 }
  let m := m.setOpenF pos (some { o with page := o.page + 1, walk := 0, mask := 0, parityLeft := 0, parityBad := 0, accP := [], accQ := [] })
  let m := m.touch .sow
  if o.closing || m.adm.board.pages ≤ o.page + 1 then m.closeAt pos else m

/-- The codewords of a parity page: P, or Q, of every group of the stripe (R213, R223). -/
def OpenF.parityCws (o : OpenF) (planes : Nat) (q : Bool) : List Cw :=
  (List.range (4 * planes)).map fun k => { kind := .parity, par := SMap.get 0 (if q then o.accQ else o.accP) k }

/-- With every data page of the stripe confirmed or left out, P and Q are programmed (R224), save on a channel retired meanwhile,
which counts as a failed member (Table 10.5); a closing furrow whose stripe is empty closes. -/
def Mach.stripeStep (pos : Fin 8) (m : Mach) : Mach :=
  match m.openF pos with
  | none => m
  | some o =>
    if o.flying != 0 || o.parityLeft != 0 then m
    else if o.closing && o.walk = 0 then m.closeAt pos
    else if (dataWalk o.fsn o.layout1 o.absent).length ≤ o.walk then
      let ps := (walk o.fsn o.absent).take (parityCount o.layout1)
      let live := (indexed 0 ps).filter fun e => !m.fl.retired.getLsbD e.2.val
      let bad := ps.length - live.length
      let o := { o with parityLeft := live.length, parityBad := bad, closing := o.closing || bad != 0 }
      if live.isEmpty then m.stripeEnd pos o
      else
        m.each live (fun e m => m.queuePage pos o e.2 [] (o.parityCws m.adm.board.planes (e.1 == 1)) true) |>.setOpenF pos (some o)
    else m

/-- A parity page has ended, well or badly. -/
def Mach.parityEnded (pg : PagePgm) (bad : Bool) (m : Mach) : Mach :=
  match m.openF pg.pos with
  | none => m
  | some o =>
    if o.fsn != pg.fsn then m
    else
      let o := { o with parityLeft := o.parityLeft - 1, parityBad := if bad then o.parityBad + 1 else o.parityBad,
                        closing := o.closing || bad }
      let m := m.setOpenF pg.pos (some o)
      if o.parityLeft = 0 then m.stripeEnd pg.pos o else m

/-! ### A confirmed page (R248, R267) -/

/-- Where a plane's slot 0 lies. -/
def Mach.planeAddr (m : Mach) (c : Chan) (f page plane : Nat) : BitVec 40 :=
  mkAddr c (f / 4096) plane (m.memberBlock c f) page 0

/-- Write codewords to flash from an address on. -/
def Mach.putCws (a : BitVec 40) (cws : List Cw) (m : Mach) : Mach :=
  m.updFl fun f => { f with cw := (cws.foldl (fun (t : SMap Cw × Nat) x => (SMap.set {} t.1 t.2 x, t.2 + 1)) (f.cw, a.toNat)).1 }

/-- Install a confirmed version or supersede it (R248). -/
def Mach.placeVersion (id : Nat) (a : BitVec 40) (m : Mach) : Mach :=
  match m.ver id with
  | none => m
  | some x =>
    if m.superseded x.vol x.mu x.wsn then (m.bump Reg.MAP_SUPERSEDED).dropVer id else m.install x.vol x.mu x.wsn a (some id)

/-- Compare and set one entry for a Gleaner copy (R267). -/
def Mach.casCopy (i : Nat) (src a : BitVec 40) (m : Mach) : Mach :=
  if m.entry i == src then ((m.setEntry i a).bump64 Reg.GLN_COPIES_LO).bump64 Reg.MAP_INSTALL_LO else m.bump Reg.GLN_CASLOST

/-- A confirmed copy; while its segment recovers, the comparison waits (R251). -/
def Mach.placeCopy (id : Nat) (a : BitVec 40) (m : Mach) : Mach :=
  match m.gln.copies.find? fun c => c.id == id with
  | none => m
  | some c =>
    let m := m.updGln fun g => { g with copies := g.copies.filter fun y => y.id != id }
    match entryIndex (m.volu c.vol) (4 * c.mu) with
    | none => m.bump Reg.GLN_CASLOST
    | some i =>
      if m.installHeld i then
        m.updVol fun x => { x with waiting := x.waiting ++ [{ entry := i, addr := a, wsn := c.wsn, cas := some c.src }] }
      else m.casCopy i c.src a

/-- Does a command, or a mirror's answer, wait for parity of a stripe? -/
def Mach.parityAwaited (m : Mach) (fsn page : Nat) : Bool :=
  let is (c : Cover) : Bool := match c with | .stripe f p _ => f == fsn && p == page | _ => false
  m.q.used.any (fun s => (m.cmd s).cover.any is) || m.twn.rxWait.any fun w => w.cover.any is

/-- What a version's confirmation means to those who wait for it: its stripe now needs parity. -/
def Mach.confirmCovers (id fsn page : Nat) (ch : Chan) (m : Mach) : Mach :=
  let m := match m.ver id with
    | some x => m.updBuf fun b => { b with unprot := b.unprot ++ [({ vol := x.vol, fsn := fsn, page := page, ch := ch, cov := x.cov, ver := x.id } : Unprot)] }
    | none => m
  m.mapCovers fun c => if c == Cover.version id then some (.stripe fsn page ch) else some c

/-- The codewords of a page reach the flash, four a plane. -/
def Mach.storePage (pg : PagePgm) (m : Mach) : Mach :=
  m.each (List.range (pg.cws.length / 4)) fun i m =>
    m.putCws (m.planeAddr pg.chan pg.furrow pg.page i) ((pg.cws.drop (4 * i)).take 4)

/-- The codewords of a data page join the accumulator of its stripe (R223, R224); `i` is the index of the member. -/
def OpenF.include (o : OpenF) (c : Chan) (i : Nat) (cws : List Cw) : OpenF :=
  let add (g : Byte) (t : SMap Body) : SMap Body :=
    (indexed 0 cws).foldl (fun t e => SMap.put t e.1 (SMap.get 0 t e.1 ^^^ gfScale g e.2.term)) t
  { o with mask := o.mask ||| bit32 c.val, accP := add 1 o.accP, accQ := if o.layout1 then o.accQ else add (gfPow i) o.accQ }

/-- The index of a data member. -/
def dataIndex (x : OpenF) (c : Chan) : Nat := ((dataWalk x.fsn x.layout1 x.absent).findIdx? (· == c)).getD 0

/-- A member page is confirmed. -/
def Mach.pageConfirmed (pg : PagePgm) (m : Mach) : Mach :=
  let m := (m.updBuf fun b => { b with pgms := b.pgms.filter fun x => x.id != pg.id }).bump64 Reg.SOW_PAGES_LO
  let m := m.storePage pg
  if pg.parity then m.parityEnded pg false
  else
    let x := m.fur pg.furrow
    let n := (pg.items.filter fun it => it != .filler).length
    let m := m.putFur pg.furrow { x with placed := x.placed + n }
    let m := match m.openF pg.pos with
      | some o => if o.fsn == pg.fsn then
            (m.setOpenF pg.pos (some { o.include pg.chan (dataIndex o pg.chan) pg.cws with flying := o.flying - 1 })).touch .sow
          else m
      | none => m
    let m := m.each (indexed 0 pg.items) fun e m =>
      match e.2 with
      | .version id =>
        (m.confirmCovers id pg.fsn pg.page pg.chan).placeVersion id (m.planeAddr pg.chan pg.furrow pg.page e.1)
      | .copy id => m.placeCopy id (m.planeAddr pg.chan pg.furrow pg.page e.1)
      | .filler => m
    let m := if m.parityAwaited pg.fsn pg.page || m.pageSt .sow == .stopping then m.askProvpar pg.fsn pg.page else m
    (m.stripeStep pg.pos).settleCovers

/-! ### A failed page (R250, R270) -/

/-- Items of a failed page are to be placed again. -/
def Mach.itemsBack (items : List PlaneItem) (m : Mach) : Mach :=
  m.each items fun it m => match it with
    | .version id => match m.ver id with
      | some x => m.setVer { x with st := .complete, again := true }
      | none => m
    | .copy id => m.updGln fun g => { g with copies := g.copies.map fun y => if y.id == id then { y with flying := false } else y }
    | .filler => m

/-- A page's program failed: `cause` of Table 11.6, or none for a write-protect refusal, which spoils no block. -/
def Mach.pageFailed (pg : PagePgm) (cause : Option Nat) (m : Mach) : Mach :=
  let m := m.updBuf fun b => { b with pgms := b.pgms.filter fun x => x.id != pg.id }
  let m := (m.bump Reg.SOW_PROGFAIL).raise .sow 16 (BitVec.ofNat 64 pg.furrow)
  let m := match cause with
    | some k => m.memberBad pg.chan pg.furrow k
    | none => m
  if pg.parity then (m.parityEnded pg true).settleCovers
  else
    let m := m.itemsBack pg.items
    let m := match m.openF pg.pos with
      | some o => if o.fsn == pg.fsn then m.setOpenF pg.pos (some { o with flying := o.flying - 1, closing := true }) else m
      | none => m
    let m := if cause.isNone then
        m.each pg.items fun it m => match it with | .version id => m.failCovers id | _ => m
      else m
    (m.stripeStep pg.pos).settleCovers

/-- A queued page whose channel has been retired is given up, and its furrow closes as for a failed member (Table 10.5). -/
def Mach.pageGivenUp (pg : PagePgm) (m : Mach) : Mach :=
  let m := m.updBuf fun b => { b with pgms := b.pgms.filter fun x => x.id != pg.id }
  if pg.parity then (m.parityEnded pg true).settleCovers
  else
    let m := m.itemsBack pg.items
    let m := match m.openF pg.pos with
      | some o => if o.fsn == pg.fsn then m.setOpenF pg.pos (some { o with flying := o.flying - 1, closing := true }) else m
      | none => m
    (m.stripeStep pg.pos).settleCovers

/-! ### The Sower's next page -/

/-- Where no version of an open furrow's layout remains and the position opens the other layout, the furrow closes (R245). -/
def Mach.layoutClose (pos : Fin 8) (o : OpenF) (m : Mach) : OpenF :=
  if o.layout1 != m.posLayout pos && !m.posHasWork pos o.layout1 then { o with closing := true } else o

/-- The items of the next page. -/
def Mach.nextItems (m : Mach) (pos : Fin 8) (o : OpenF) : List PlaneItem :=
  if o.closing then []
  else (((m.readyVers pos o.layout1).map fun x => PlaneItem.version x.id) ++
    ((m.readyCopies pos o.layout1).map fun c => PlaneItem.copy c.id)).take m.adm.board.planes

/-- The first nonce slot that holds a page back. -/
def Mach.slotShort (m : Mach) (items : List PlaneItem) : Option Nat :=
  (items.filterMap m.itemSlot).find? fun k => !m.nonceOk k (m.slotNeed items k)

/-- Form the next member page of a position and issue its program (R246). -/
def Mach.programPage (pos : Fin 8) (faulty : List (Fin 4)) (m : Mach) : Mach :=
  match m.openF pos with
  | none => m
  | some o =>
    let o := m.layoutClose pos o
    if !m.sowing || o.parityLeft != 0 || !m.openRecorded o.fsn then m
    else match (dataWalk o.fsn o.layout1 o.absent)[o.walk]? with
      | none => m
      | some c =>
        if m.fl.retired.getLsbD c.val then
          (m.setOpenF pos (some { o with closing := true, walk := if o.walk = 0 then 0 else o.walk + 1 })).stripeStep pos
        else if m.chanAway c then m
        else if o.closing && o.walk = 0 then (m.setOpenF pos (some o)).stripeStep pos
        else
          let items := m.nextItems pos o
          let full := items.length = m.adm.board.planes
          if !full && !(m.pageDue o (m.readyVers pos o.layout1) && (o.closing || !items.isEmpty)) then m
          else match m.slotShort items with
            | some k => m.nonceWait k (m.slotNeed items k)
            | none =>
              let all := items ++ List.replicate (m.adm.board.planes - items.length) .filler
              let (m, cws) := m.formPage o.fsn faulty all
              let m := m.pageDebt items
              let m := m.queuePage pos o c all cws false
              m.setOpenF pos (some { o with walk := o.walk + 1, flying := o.flying + 1 })

end Sys2Proof.Machine
end

