-- ==== Sys2Proof/Machine/GleanOps.lean ====
section
/-! DEFINITION. The Gleaner (R257 to R260, R265, R268, R269): scores and ranks, its walk over a victim, poisoning, and the erase
gate. -/

namespace Sys2Proof.Machine

/-! ### Choice of a victim (R259, R260) -/

/-- ⌊1024 × invalid / placed⌋. -/
def Fur.vterm (x : Fur) : Nat := if x.placed = 0 then 0 else 1024 * (x.placed - x.valid) / x.placed

/-- min(31, ⌊log2(FSN_now − FSN + 1)⌋). -/
def Mach.ageBucket (m : Mach) (x : Fur) : Nat := min 31 (Nat.log2 (m.buf.fsn - x.fsn + 1))

def Mach.wearBucket (m : Mach) (f : Nat) : Nat := min 63 (32 * m.meanErase f / max 1 (m.rdN Reg.GLN_RATED))

/-- The score of rank 4. -/
def Mach.score (m : Mach) (f : Nat) : Int :=
  let x := m.fur f
  (m.rdN Reg.GLN_WV * x.vterm + m.rdN Reg.GLN_WA * m.ageBucket x : Nat) - (m.rdN Reg.GLN_WW * m.wearBucket f : Nat)

def Mach.closedFurs (m : Mach) : List Nat := (m.gln.fur.filter fun e => e.2.st == .closed && !e.2.retired).map (·.1)

/-- Furrows that are CLOSED, RETIRED ones too: a retired furrow is still emptied by ranks 1 to 3. -/
def Mach.closedAny (m : Mach) : List Nat := (m.gln.fur.filter fun e => e.2.st == .closed).map (·.1)

/-- Has a furrow a member on a retired channel? -/
def Mach.onRetired (m : Mach) (x : Fur) : Bool := (m.fl.retired &&& ~~~x.absent) != 0

/-- The rank of a CLOSED furrow (Table 11.2). -/
def Mach.rank (m : Mach) (f : Nat) : Nat :=
  let x := m.fur f
  if m.onRetired x && x.st == .closed then 1 else if x.relocate then 2 else if x.refresh then 3 else 4

/-- The lowest FSN of some furrows. -/
def Mach.lowestFsn (m : Mach) (l : List Nat) : Option Nat :=
  l.foldl (fun best f =>
    match best with
    | none => some f
    | some b => if (m.fur f).fsn < (m.fur b).fsn then some f else some b) none

/-- Rank-1 work pauses while SPARE is 0 and the volumes exceed USERCAP (R231). -/
def Mach.rebuildPaused (m : Mach) : Bool := m.fl.rbActive && m.adm.health.spare == 0 && decide (m.vol.usercap < m.allocCap)

/-- The furrow that ranks 1 to 3 give. -/
def Mach.lowVictim (m : Mach) : Option Nat :=
  let r (k : Nat) : List Nat := m.closedAny.filter fun f => m.rank f == k
  match (if m.rebuildPaused then none else m.lowestFsn (r 1)) with
  | some f => some f
  | none =>
    match m.lowestFsn (r 2) with
    | some f => some f
    | none => m.lowestFsn (r 3)

/-- The furrow of highest score; a tie goes to the lower FSN. -/
def Mach.bestVictim (m : Mach) : Option Nat :=
  (m.closedFurs.filter fun f => m.rank f == 4).foldl (fun best f =>
    match best with
    | none => some f
    | some b =>
      if m.score b < m.score f || (m.score b == m.score f && decide ((m.fur f).fsn < (m.fur b).fsn)) then some f else some b) none

/-- A furrow becomes GLEANING. -/
def Mach.beginVictim (f : Nat) (rank4 : Bool) (m : Mach) : Mach :=
  let x := m.fur f
  let v : Victim := { furrow := f, rank4 := rank4, cold := !rank4 || decide (m.rdN Reg.GLN_COLDAGE ≤ m.ageBucket x), page := 0,
                      walk := 0, plane := 0, v0 := x.valid, t0 := x.placed, walked := false }
  let m := m.putFur f { x with st := .gleaning }
  (m.updGln fun g => if rank4 then { g with vic1 := some v } else { g with vic0 := some v }).touch .gln

/-- The Gleaner starts new work: its page RUNNING, no shutdown or power failure (Tables 02.8, 03.6, 12.6). -/
def Mach.gleaning (m : Mach) : Bool :=
  m.running .gln && m.dev.pf == .none && m.ioUp && m.dev.phase == .idle && !(m.vol.recov.any fun s => decide (m.mapSegs ≤ s))

/-! ### Poisoning (R265, R269) -/

/-- The volume and MU of a map entry, by the chunk tables. -/
def Mach.entryOwner (m : Mach) (i : Nat) : Option (Vid × Nat) :=
  (List.finRange 64).findSome? fun v =>
    (m.volu v).chunks.findIdx? (fun c => c == i / 65536) |>.map fun k => (v, 65536 * k + i % 65536)

/-- Compare and set POISONED into an entry that points at an address. -/
def Mach.casPoison (i : Nat) (src : BitVec 40) (v : Vid) (mu wsn : Nat) (m : Mach) : Mach :=
  if m.entry i != src then m.bump Reg.GLN_CASLOST
  else
    let m := ((m.setEntry i poisoned).bump64 Reg.MAP_INSTALL_LO).bump Reg.GLN_POISON
    (m.ask (.poison v mu wsn)).1

/-! ### The walk (R265) -/

/-- The victim of a slot. -/
def Mach.victim (m : Mach) (low : Bool) : Option Victim := if low then m.gln.vic0 else m.gln.vic1

def Mach.setVictim (low : Bool) (v : Option Victim) (m : Mach) : Mach :=
  m.updGln fun g => if low then { g with vic0 := v } else { g with vic1 := v }

/-- The next place of the walk: plane, then member, then stripe. It ends after the stripe behind the last closed one. -/
def Mach.advance (low : Bool) (v : Victim) (m : Mach) : Mach :=
  let x := m.fur v.furrow
  let n := (dataWalk x.fsn x.layout1 x.absent).length
  let v := if v.plane + 1 < m.adm.board.planes then { v with plane := v.plane + 1 }
    else if v.walk + 1 < n then { v with plane := 0, walk := v.walk + 1 }
    else { v with plane := 0, walk := 0, page := v.page + 1 }
  m.setVictim low (some { v with walked := decide (min m.adm.board.pages (x.stripes + 1) ≤ v.page) })

/-- What a source read meets where the command names nothing else. -/
def goodRead : SrcRead := { hard := .stage1 0, soft := true, check := .good, peers := [], check4 := .good }

/-- Rebuild the codeword of a source read at stage 4 (R225): a sense at every peer that is read, a refresh flag where it succeeds. -/
def Mach.srcRebuild (a : BitVec 40) (r : SrcRead) (m : Mach) : Mach × Bool :=
  let reads := ((m.parityGroup a).map fun g => g.askQ.peers.filter fun p => p.st == .reading).getD []
  let ok := m.rebuildNow a r.peers == some (m.cwAt a).body
  let m := m.each reads fun p m =>
    let b := m.peerAddr a p.ch
    m.senses (adrDie b) (adrBlock b) 1
  (if ok then m.flagRefresh (m.furrowOfAddr a) else m, ok)

/-- Stages 1 to 3 of a source read; the one that decoded, none where it goes to stage 4 (R216 to R218, R228, R257). -/
def Mach.srcDecode (a : BitVec 40) (r : SrcRead) (m : Mach) : Mach × Option Nat :=
  if m.chanAway (adrChan a) || m.addrLost a then (m, none)
  else
    let m := m.senses (adrDie a) (adrBlock a) 1
    let d := m.hardOf a r.hard
    let m := m.hardCounts a d
    match d with
    | .stage1 _ => (m, some 1)
    | .stage2 _ => (m, some 2)
    | .failed =>
      if !m.running .ecc then (m, none)
      else
        let m := m.senses (adrDie a) (adrBlock a) 4
        if r.soft && !(m.cwAt a).gone then ((m.bump64 Reg.ECC_SOFT_LO).flagRefresh (m.furrowOfAddr a), some 3) else (m, none)

/-- Stage 4 of a source read, its last; `good` says whether the metadata meet the request. -/
def Mach.srcStage4 (a : BitVec 40) (good : Bool) (r : SrcRead) (m : Mach) : Mach × Option Nat :=
  let (m, ok) := m.srcRebuild a r
  if !ok then (m.readEnds a St.unrecoveredRead 4 1, none)
  else if good && r.check4 != .badMetadata then (m, some 4)
  else ((m.bump Reg.ECC_MDMISS).readEnds a St.unrecoveredRead 4 1, none)

/-- A source read up to the checks of R219, of which `meets` are those on what the metadata say; the stage at which the codeword passed
them, none where it is unreadable. -/
def Mach.srcRead (a : BitVec 40) (meets : Cw → Bool) (r : SrcRead) (m : Mach) : Mach × Option Nat :=
  let good := meets (m.cwAt a)
  let (m, st) := m.srcDecode a r
  match st with
  | some k => if good && r.check != .badMetadata then (m, some k) else (m.bump Reg.ECC_MDMISS).srcStage4 a good r
  | none => m.srcStage4 a good r

/-- The tag of a codeword that is to be copied (R220, R323): a failure short of stage 4 is reconstructed once. -/
def Mach.srcTag (v : Vid) (a : BitVec 40) (stage : Nat) (r : SrcRead) (m : Mach) : Mach × Bool :=
  let x := m.cwAt a
  if !m.cwKeyOk v x then (m, false)
  else
    let m := m.decrypted x.enc
    let check := if stage = 4 then r.check4 else r.check
    if check != .badTag && x.tagOk then (m.readEnds a St.success stage 1, true)
    else if stage = 4 then (m.readEnds a St.authFail 4 1, false)
    else
      let (m, ok) := (m.bump Reg.CIP_TAGFAIL).srcRebuild a r
      if ok && r.check4 == .good && x.tagOk then (m.readEnds a St.success 4 1, true) else (m.readEnds a St.authFail 4 1, false)

/-- The codeword that identifies a position, the first of some slots that reads, and its stage (R265). -/
def Mach.identifyMu (a : BitVec 40) (reads : List SrcRead) : List Nat → Mach → Mach × Option (Nat × Nat)
  | [], m => (m, none)
  | s :: ss, m =>
    match m.srcRead (a + BitVec.ofNat 40 s) (fun x => (x.kind == .data && x.lba % 4 == s) || x.kind == .filler) (reads.getD s goodRead) with
    | (m, some k) => (m, some (s, k))
    | (m, none) => m.identifyMu a reads ss

/-- An LB of a valid MU: behind the identifying codeword each must carry its VOL, MU and WSN, and each must pass its tag. -/
def Mach.copyLb (a : BitVec 40) (id : Cw) (s0 k0 s : Nat) (r : SrcRead) (m : Mach) : Mach × Option Block :=
  let b := a + BitVec.ofNat 40 s
  let (m, st) := if s < s0 then (m, none) else if s = s0 then (m, some k0)
    else m.srcRead b (fun x => x.kind == .data && x.vol == id.vol && x.lba == id.lba / 4 * 4 + s && x.wsn == id.wsn) r
  match st with
  | none => (m, none)
  | some k =>
    let (m, ok) := m.srcTag (Fin.ofNat 64 id.vol) b k r
    (m, if ok then some (m.cwAt b).data else none)

/-- The LBs of an MU in slot order. -/
def Mach.copyLbs (a : BitVec 40) (reads : List SrcRead) (id : Cw) (s0 k0 : Nat) : List Nat → Mach → Mach × List (Nat × Option Block)
  | [], m => (m, [])
  | s :: ss, m =>
    let (m, b) := m.copyLb a id s0 k0 s (reads.getD s goodRead)
    let (m, l) := m.copyLbs a reads id s0 k0 ss
    (m, (s, b) :: l)

/-- The LBs that could be read, as the data of a version. -/
def lbData (l : List (Nat × Option Block)) : SMap Block :=
  l.foldl (fun d e => match e.2 with | some b => SMap.set 0 d e.1 b | none => d) []

/-- A valid MU whose every LB has been read is staged. -/
def Mach.stageCopy (v : Victim) (a : BitVec 40) (id : Cw) (l : List (Nat × Option Block)) (m : Mach) : Mach :=
  let vol : Vid := Fin.ofNat 64 id.vol
  let lampwb : BitVec 4 := (List.range 4).foldl (fun w s => setBit w s (m.cwAt (a + BitVec.ofNat 40 s)).lampwb) 0
  let c : Copy := { id := m.gln.nextCopy, vol := vol, mu := id.lba / 4, src := a, wsn := id.wsn, data := lbData l, lampwb := lampwb,
                    pos := if (m.volu vol).layout1 then 3 else if v.cold then 5 else 4, flying := false }
  m.updGln fun g => { g with copies := g.copies ++ [c], nextCopy := g.nextCopy + 1 }

/-- A valid MU of which an LB cannot be had is poisoned; the LBs that could be read become a held version (R269). Where no slot is left
for it in the buffer, it is discarded at once as R243 has it (DESIGN CHOICE, log entry 177). -/
def Mach.poisonMu (i : Nat) (a : BitVec 40) (id : Cw) (l : List (Nat × Option Block)) (m : Mach) : Mach :=
  let vol : Vid := Fin.ofNat 64 id.vol
  let mu := id.lba / 4
  let mask : BitVec 4 := l.foldl (fun w e => setBit w e.1 e.2.isSome) 0
  let m := (m.casPoison i a vol mu id.wsn).raise .gln 16 (BitVec.ofNat 64 (vol.val + 64 * mu))
  let held : Ver := { id := m.buf.nextId, vol := vol, mu := mu, mask := mask, data := lbData l, wsn := id.wsn, st := .held, pos := 0,
                      lampwb := 0, rmwTodo := [], rmwFail := false, lost := 0, pri := false, cov := false, rsv := true,
                      again := false }
  if mask = 0 then m
  else
    let m := if m.bufRoom then m else m.discardHeld
    let m := (m.updBuf fun b => { b with vers := b.vers ++ [held], nextId := b.nextId + 1 }).observeBuf
    if m.bufCap < m.bufUsed then m.discardVers [held] else m

/-- Steps 2 to 4 of R265 for a position identified by the codeword of slot s0, which was read at stage k0. -/
def Mach.gleanMu (v : Victim) (a : BitVec 40) (reads : List SrcRead) (s0 k0 : Nat) (m : Mach) : Mach :=
  let b := a + BitVec.ofNat 40 s0
  let id := m.cwAt b
  let vol : Vid := Fin.ofNat 64 id.vol
  if id.kind != .data then m
  else match entryIndex (m.volu vol) id.lba with
    | none => m.readEnds b St.success k0 1
    | some i =>
      if m.entry i != a then (m.badEntry vol id.lba).readEnds b St.success k0 1
      else
        let (m, l) := m.copyLbs a reads id s0 k0 [0, 1, 2, 3]
        if l.all fun e => e.2.isSome then m.stageCopy v a id l else m.poisonMu i a id l

/-- One plane page is read. A page that no program has reached holds nothing (log entry 176). -/
def Mach.gleanPlane (low : Bool) (v : Victim) (a : BitVec 40) (reads : List SrcRead) (m : Mach) : Mach :=
  if (m.cwAt a).kind == .erased then m
  else match m.identifyMu a reads [0, 1, 2, 3] with
    | (m, some (s, k)) => m.gleanMu v a reads s k
    | (m, none) => m.setVictim low ((m.victim low).map fun v => { v with unidentified := v.unidentified + 1 })

/-- The plane page that a victim reads next: one whose copy is no longer staged, or the walk's place. -/
def Mach.nextSource (m : Mach) (v : Victim) : Option (BitVec 40) :=
  match v.again with
  | a :: _ => some a
  | [] =>
    let x := m.fur v.furrow
    if v.walked then none
    else ((dataWalk x.fsn x.layout1 x.absent)[v.walk]?).map fun c => m.planeAddr c v.furrow v.page v.plane

/-- Has a victim a source read ready: room in the staging, and its place not under a recovery of the map (R251, R265)? -/
def Mach.sourceReady (m : Mach) (low : Bool) : Bool :=
  decide (m.gln.copies.length < 512) && ((m.victim low).bind m.nextSource).any fun a =>
    !(entryIndex (m.volu (Fin.ofNat 64 (m.cwAt a).vol)) (m.cwAt a).lba).any m.installHeld

/-- One source read. While both victims have one ready, they take turns (R259). -/
def Mach.gleanRead (low : Bool) (reads : List SrcRead) (m : Mach) : Mach :=
  if !m.gleaning || !m.sourceReady low || (m.sourceReady (!low) && m.gln.turnLow != low) then m
  else match m.victim low with
    | none => m
    | some v =>
      match m.nextSource v with
      | none => m
      | some a =>
        let m := (m.updGln fun g => { g with turnLow := !low }).gleanPlane low v a reads
        match m.victim low with
        | some w => if v.again.isEmpty then m.advance low w else m.setVictim low (some { w with again := v.again.drop 1 })
        | none => m

/-- Copies taken from a furrow that are still staged. -/
def Mach.stagedFrom (m : Mach) (f : Nat) : Bool := m.gln.copies.any fun c => m.furrowOfAddr c.src == f

/-- The whole map is searched for entries into a furrow that no position supports; each is poisoned (R265). -/
def Mach.residual (low : Bool) (m : Mach) : Mach :=
  match m.victim low with
  | none => m
  | some v =>
    let l := m.vol.map.filter fun e => isAddr e.2 && m.furrowOfAddr e.2 == v.furrow
    if !m.gleaning || !v.walked || !v.again.isEmpty || m.stagedFrom v.furrow || (m.fur v.furrow).valid = 0 || l.any (fun e => m.installHeld e.1)
    then m
    else
      (m.bump Reg.GLN_RESIDUAL).each l fun e m =>
        match m.entryOwner e.1 with
        | none => m
        | some (vol, mu) =>
          (m.casPoison e.1 e.2 vol mu (m.installed e.1)).devEvent .warn 0x010E (BitVec.ofNat 64 (vol.val + 64 * mu)) []

/-! ### The erase gate (R268, R66) -/

/-- Queue an erase of a block; its die and members are recorded by the caller. -/
def Mach.queueErase (c : Chan) (row b : Nat) (system : Bool) (m : Mach) : Mach :=
  m.queueOp c ⟨row % 64, Nat.mod_lt _ (by omega)⟩ (if system then .q1 else .q2) (.erase b system)

/-- Members of a released furrow that are erased: neither absent, lost, nor on a retired channel. -/
def Mach.eraseMembers (m : Mach) (f : Nat) : List Chan := (goodMembers (m.fur f)).filter fun c => !m.fl.retired.getLsbD c.val

/-- One released furrow passes the gate. -/
def Mach.passGate (f : Nat) (m : Mach) : Mach :=
  let cs := m.eraseMembers f
  let mask : Word := cs.foldl (fun w c => w ||| bit32 c.val) 0
  let m := (m.ask (.eraseBegin f mask)).1
  let m := m.putFur f { m.fur f with st := .erasing, toErase := mask }
  let m := m.each cs fun c m =>
    let d := dieOf c (f / 4096)
    let b := m.memberBlock c f
    (m.putBlk d b { m.blk d b with st := .erasing }).queueErase c (f / 4096) b false
  if mask = 0 then m.makeFallow f else m

/-- The released furrow of least e_rel passes once the durable epoch reaches it and the HDL page runs. -/
def Mach.gate (m : Mach) : Mach :=
  if !m.running .hdl || m.dev.pf != .none || !m.ioUp then m
  else
    let l := (m.gln.fur.filter fun e => e.2.st == .released).map (·.1)
    let best := l.foldl (fun (best : Option Nat) f =>
      match best with
      | none => some f
      | some b => if (m.fur f).eRel < (m.fur b).eRel then some f else some b) none
    match best with
    | none => m
    | some f => if (m.fur f).eRel ≤ m.hdl.durable then m.passGate f else m

/-- What an erase clears of a block: its codewords, its counts and its remembered step. -/
def Mach.wipeBlock (d b : Nat) (m : Mach) : Mach :=
  let hit (k : Nat) : Bool := adrDie (BitVec.ofNat 40 k) == d && adrBlock (BitVec.ofNat 40 k) == b
  m.updFl fun f => { f with cw := f.cw.filter (fun e => !hit e.1), raw := f.raw.filter fun e => !hit e.1 }

end Sys2Proof.Machine
end

