-- ==== Sys2Proof/Machine/HdlOps.lean ====
section
/-! DEFINITION. The headland writer (R279 to R289): headland furrows, the size and order of records, segment images, definitions
and roots. -/

namespace Sys2Proof.Machine

/-! ### Headland furrows (R279, R280) -/

/-- Headland furrows, keyed 128 × die row + block index. -/
def Mach.hdlFurs (m : Mach) : List Nat :=
  (List.range (128 * m.adm.board.dies)).filter fun k => decide (8 ≤ k)

def Mach.hfur (m : Mach) (k : Nat) : HFur := SMap.get {} m.hdl.fur k
def Mach.setHfur (k : Nat) (x : HFur) (m : Mach) : Mach := m.updHdl fun h => { h with fur := SMap.set {} h.fur k x }

/-- Die of a member, and its block. -/
def hfurDie (k : Nat) (c : Chan) : Nat := dieOf c (k / 128)
def hfurBlock (k : Nat) : Nat := k % 128

/-- S of R279. -/
def Mach.sysPages (m : Mach) : Nat := if m.adm.board.slcNative then m.adm.board.pages else m.adm.board.slcPages

/-- Data codewords that a headland furrow of an absent mask holds. -/
def Mach.hfurCap (m : Mach) (x : HFur) : Nat :=
  (dataWalk x.fsn false x.absent).length * m.adm.board.planes * m.sysPages * 4

def Mach.hdlFallow (m : Mach) : List Nat := m.hdlFurs.filter fun k => (m.hfur k).st == .fallow

/-- Members that are unavailable: channels away and system blocks gone bad. -/
def Mach.hfurLoss (m : Mach) (k : Nat) : Nat :=
  ((List.finRange 32).filter fun c => m.chanAway c || (m.blk (hfurDie k c) (hfurBlock k)).st == .grownBad).length

/-- The next furrow that can be opened: the lowest fallow one with at most one unavailable member (R280). -/
def Mach.hdlNext (m : Mach) : Option Nat := m.hdlFallow.find? fun k => m.hfurLoss k ≤ 1

/-- PG_ERR.BLK bit 18 while fewer than HDL_RESERVE are fallow (R289). -/
def Mach.hdlLow (m : Mach) : Bool := decide (m.hdlFallow.length < m.rdN Reg.HDL_RESERVE)

/-- Open a headland furrow: the next FSN, the absent mask of ECC_ERASEMASK. -/
def Mach.hdlOpen (m : Mach) : Option Mach :=
  m.hdlNext.map fun k =>
    let (m, fsn) := m.takeFsn
    let m := (m.setHfur k { st := .opn, fsn := fsn, absent := m.eraseMask, lost := 0, eRel := 0, used := 0 }).updHdl fun h =>
      { h with opn := some k }
    if m.hdlLow then m.raise .hdl 18 0 else m

def Mach.hdlClose (m : Mach) : Mach :=
  match m.hdl.opn with
  | none => m
  | some k => (m.setHfur k { m.hfur k with st := .closed }).updHdl fun h => { h with opn := none }

/-- Room for n codewords is taken from the open furrow on, furrow by furrow; the furrows used. -/
def Mach.hdlRoom : Nat → Nat → Mach → Option (Mach × List Nat)
  | 0, _, _ => none
  | fuel + 1, n, m =>
    match m.hdl.opn with
    | none =>
      match m.hdlOpen with
      | none => none
      | some m => m.hdlRoom fuel n
    | some k =>
      let x := m.hfur k
      let free := m.hfurCap x - x.used
      if n ≤ free then some (m.setHfur k { x with used := x.used + n }, [k])
      else
        let m := (m.setHfur k { x with used := x.used + free }).hdlClose
        if free = 0 then m.hdlRoom fuel n
        else (m.hdlRoom fuel (n - free)).map fun r => (r.1, k :: r.2)

/-- The channel whose page takes the next codeword of a furrow. -/
def Mach.hdlChan (m : Mach) (k : Nat) : Chan :=
  let x := m.hfur k
  let w := dataWalk x.fsn false x.absent
  w.getD (((x.used - 1) / (4 * m.adm.board.planes)) % max 1 w.length) 0

/-! ### Sizes (R281 to R284) -/

def cwsOf (bytes : Nat) : Nat := (bytes + 4095) / 4096

/-- Segments in all (HDL_SEGS.TOTAL). -/
def Mach.segTotal (m : Mach) : Nat := m.mapSegs + m.tableSegs + 1

/-- Codewords of a record. A DEFINITION, whose layout the manual does not give, is taken as one. -/
def Mach.recCws (m : Mach) (b : HBody) : Nat :=
  match b with
  | .seg _ true _ => cwsOf (32 + 2 ^ 25)
  | .seg _ false l => cwsOf (32 + 8 * l.length)
  | .directory => cwsOf (32 + 16 * m.segTotal)
  | .dump _ n => n
  | .provpar x => cwsOf (32 + 32 + 4160 * 4 * m.adm.board.planes * parityCount x.layout1)
  | _ => 1

/-! ### Images (R283 to R285) -/

/-- Map entries of a segment. -/
def segEntries (s : Nat) (t : SMap (BitVec 40)) : SMap (BitVec 40) := t.filter fun e => (mapSegsOf e.1).contains s

/-- Entries of a segment that differ from its newest image, in index order. -/
def Mach.segDelta (m : Mach) (s : Nat) : List (Nat × BitVec 40) :=
  let new := segEntries s m.vol.map
  let old := segEntries s m.hdl.img.map
  (new.filter fun e => SMap.get unmapped old e.1 != e.2) ++
    ((old.filter fun e => SMap.get unmapped new e.1 == unmapped).map fun e => (e.1, unmapped))

/-- The bad-block tables of the dies. -/
def Mach.badTabs (m : Mach) : SMap BadTab := (m.fl.die.map fun e => (e.1, e.2.bad)).filter fun e => e.2 != {}

/-- Bytes of the changes of a table segment, by the entries of its tables that changed. -/
def Mach.tableDelta (m : Mach) (s : Nat) : Nat :=
  let inSeg (off : Nat) : Bool := m.mapSegs + off / 2 ^ 25 == s
  64 * (m.gln.fur.filter fun e => inSeg (m.furOffset e.1) && decide (SMap.get {} m.hdl.img.fur e.1 ≠ e.2)).length +
    16 * (m.fl.blk.filter fun e => inSeg (m.blkOffset (e.1 / 4096) (e.1 % 4096)) && decide (SMap.get {} m.hdl.img.blk e.1 ≠ e.2)).length +
    (m.badTabs.map fun e =>
      let y := SMap.get {} m.hdl.img.bad e.1
      if inSeg (m.badOffset e.1) && decide (y ≠ e.2) then
        16 * (e.2.grown.length - y.grown.length) + 8 * (e.2.subst.filter fun z => SMap.get 0xFFFF y.subst z.1 != z.2).length + 8
      else 0).sum

/-- Merge: keys of `old` outside p, keys of `new` inside. -/
def mergeBy {α : Type} (p : Nat → Bool) (old new : SMap α) : SMap α :=
  (new.filter fun e => p e.1).foldl (fun t e => SMap.put t e.1 e.2) (old.filter fun e => !p e.1)

/-- Block entries of an image: the entry by one segment, its voltage byte by another. -/
def mergeBlk (entry volt : Nat → Bool) (old new : SMap Blk) : SMap Blk :=
  let pick (k : Nat) : Blk :=
    let x := if entry k then SMap.get {} new k else SMap.get {} old k
    { x with step := if volt k then (SMap.get {} new k).step else (SMap.get {} old k).step }
  new.foldl (fun t e => SMap.set {} t e.1 (pick e.1)) (old.map fun e => (e.1, pick e.1))

/-- The image of a segment is taken. -/
def Mach.imageSeg (s pos : Nat) (m : Mach) : Mach :=
  if s < m.mapSegs then
    m.updHdl fun h => { h with img := { h.img with map := mergeBy (fun i => (mapSegsOf i).contains s) h.img.map m.vol.map } }
  else
    let pf (i : Nat) : Bool := m.tableSeg (m.furOffset i) == s
    let pb (i : Nat) : Bool := m.tableSeg (m.blkOffset (i / 4096) (i % 4096)) == s
    let pv (i : Nat) : Bool := m.tableSeg (m.voltOffset (i / 4096) (i % 4096)) == s
    m.updHdl fun h => { h with img := { h.img with
      fur := mergeBy pf h.img.fur m.gln.fur
      blk := mergeBlk pb pv h.img.blk m.fl.blk
      bad := mergeBy (fun d => m.tableSeg (m.badOffset d) == s) h.img.bad m.badTabs
      tabRec := SMap.set 0 h.img.tabRec s pos } }

/-! ### Definitions (Table 12.3) -/

/-- A volume with the fence epoch, role and state that wait for a record (R383). -/
def Vol.pended (v : Vol) : Vol :=
  match v.pendFence with
  | some (e, o, t) => { v with fence := e, owner := o, twin := t, pendFence := none }
  | none => v

/-- A volume as the end of its command leaves it (R139). -/
def Vol.ended (v : Vol) : Vol :=
  match v.op with
  | some .delete => {}
  | some _ => { v with st := .ready, op := none, worked := false, internal := false }
  | none => v

/-- What a DEFINITION record says of a volume: a command whose work is done has ended in it. -/
def Vol.recorded (v : Vol) : Vol := if v.worked then v.pended.ended else v.pended

/-- What a DEFINITION record appended now holds, values that wait for it included. -/
def Mach.defnNow (m : Mach) : Defn :=
  let regions := m.hdl.waiters.foldl (fun (t : SMap Region) w =>
    match w.2.2 with
    | .region _ k r => SMap.set {} t k r
    | .regionAlone k r => SMap.set {} t k r
    | _ => t) m.lamp.reg
  let retired := m.hdl.waiters.foldl (fun (t : Word) w =>
    match w.2.2 with
    | .retire c => t ||| bit32 c.val
    | _ => t) m.fl.retired
  let keys := (m.key.slot.filter fun e => e.2.importing || e.2.st != .empty).map fun e =>
    (e.1, (e.2.rotating.getD e.2.epoch, (if e.2.rotating.isSome then 0 else e.2.hwm), e.2.key, (0 : Nat)))
  { vols := (m.vol.v.map fun e => (e.1, e.2.recorded)).filter fun e => e.2 != {}, regions := regions, features := m.adm.nxt, serviceKey := m.adm.serviceKey,
    keys := keys, nextEpoch := m.key.nextEpoch, devsalt := m.key.devsalt, partner := if m.twn.paired then m.twn.expected else 0,
    spare := m.spareWords, retired := retired, usercap := if retired = m.fl.retired then m.vol.usercap else m.userCapWith retired, entries := m.vol.entries,
    rated := m.gln.ratedSaved }

/-! ### Appending -/

/-- Append a body that has its number; the machine unchanged where no furrow has room. -/
def Mach.append (id : Nat) (b : HBody) (m : Mach) : Option Mach :=
  (m.hdlRoom (2 * m.hdlFurs.length + 4) (m.recCws b)).map fun r =>
    let m := r.1
    let k := r.2.getLastD 0
    let pos := m.hdl.nextPos
    let m := m.updHdl fun h => { h with
      log := h.log ++ [{ id := id, body := b, epoch := h.epoch + 1, flying := true, durable := false, furs := r.2, pos := pos }]
      nextPos := pos + 1 }
    m.queueOp (m.hdlChan k) ⟨(k / 128) % 64, Nat.mod_lt _ (by omega)⟩ .q1 (.headland id false)

/-- A root built now (Table 12.4). -/
def Mach.rootNow (m : Mach) : Ckpt :=
  { m.hdl.img with
    epoch := m.hdl.epoch + 1, clean := m.hdl.cleanRoot, dump := m.hdl.dumpValid, cap := m.adm.plm == 1, segId := none, replayFsn := m.replayFsn, nextFsn := m.buf.fsn,
    wsn := m.buf.wsn, pos := m.hdl.nextPos, dumped := if m.hdl.dumpValid then m.hdl.dumped else [] }

/-- Append a ROOT, behind a segment record or not: the headland epoch rises by 1 (R286). -/
def Mach.appendRootFor (s : Option Nat) (m : Mach) : Mach :=
  let id := m.hdl.nextRec
  let k := { m.rootNow with segId := s }
  match (m.updHdl fun h => { h with nextRec := id + 1 }).append id (.root k) with
  | none => m.updHdl fun h => { h with needRoot := true }
  | some m => (m.updHdl fun h => { h with epoch := k.epoch, needRoot := false }).touch .hdl

def Mach.appendRoot (m : Mach) : Mach := m.appendRootFor none

/-- Append a segment record: SEG_DELTA within HDL_DELTACAP, else SEG_FULL, then its root (R284, R286). -/
def Mach.appendSeg (s : Nat) (force : Bool) (m : Mach) : Mach :=
  let x := SMap.get {} m.hdl.seg s
  let l := if s < m.mapSegs then m.segDelta s else []
  let bytes := 4096 * cwsOf (32 + (if s < m.mapSegs then 8 * l.length else m.tableDelta s))
  let delta := !force && x.full && decide (x.chain + bytes ≤ m.rdN Reg.HDL_DELTACAP * 2 ^ 20)
  let id := m.hdl.nextRec
  let pos := m.hdl.nextPos
  match (m.updHdl fun h => { h with nextRec := id + 1 }).append id (.seg s (!delta) l) with
  | none => m
  | some m =>
    let m := m.imageSeg s pos
    let m := m.updHdl fun h => { h with
      seg := SMap.set {} h.seg s { dirty := false, cov := 0, chain := if delta then x.chain + bytes else 0, full := true }
      sinceDir := h.sinceDir + 1 }
    ((m.bump64 Reg.HDL_SEGWR_LO).appendRootFor (some s)).observeWindow

/-- Append a DIRECTORY and its root (R287). -/
def Mach.appendDirectory (m : Mach) : Mach :=
  let id := m.hdl.nextRec
  match (m.updHdl fun h => { h with nextRec := id + 1 }).append id .directory with
  | none => m
  | some m => (m.updHdl fun h => { h with sinceDir := 0 }).appendRoot

/-- Map entries of a segment image that a later DEFINITION disregards: those of the chunks of a volume whose FMTWSN it changes. -/
def freshMap (old new : Defn) (t : SMap (BitVec 40)) : SMap (BitVec 40) :=
  let v (d : Defn) (i : Nat) : Vol := SMap.get {} d.vols i
  t.filter fun e => !(List.range 64).any fun i => (v old i).fmtWsn != (v new i).fmtWsn &&
    ((v old i).chunks ++ (v new i).chunks).contains (e.1 / 65536)

/-- Append a record that was asked for. -/
def Mach.appendWant (w : Nat × HBody) (m : Mach) : Mach :=
  let d := m.defnNow
  let b := match w.2 with
    | .definition _ => .definition d
    | b => b
  match m.append w.1 b with
  | none => m
  | some m =>
    let m := m.updHdl fun h => { h with want := h.want.filter fun x => x.1 != w.1 }
    match b with
    | .definition d => (m.updHdl fun h => { h with img := { h.img with defn := d, map := freshMap h.img.defn d h.img.map } }).appendRoot
    | .provpar .. => m.bump Reg.ECC_PROVREC
    | .dumpIndex .. => m.appendRoot
    | _ => m

/-! ### Order (R288, R289) -/

/-- Records that R288 puts ahead of segment records. -/
def HBody.first (b : HBody) : Bool :=
  match b with
  | .provpar .. => true
  | .furrowOpen .. => true
  | .eraseBegin .. => true
  | .dealloc .. => true
  | .poison .. => true
  | .nonce .. => true
  | _ => false

/-- Records that change a table segment (R285). -/
def HBody.isTable (b : HBody) : Bool :=
  match b with
  | .furrowOpen .. => true
  | .eraseBegin .. => true
  | .eraseDone _ => true
  | .blockBad .. => true
  | _ => false

def HBody.isErase (b : HBody) : Bool := match b with | .eraseBegin .. => true | _ => false

/-- Closed headland furrows by FSN, the oldest first. -/
def Mach.oldestClosed (m : Mach) : Option Nat :=
  (m.hdlFurs.filter fun k => (m.hfur k).st == .closed).foldl (fun best k =>
    match best with
    | none => some k
    | some b => if (m.hfur k).fsn < (m.hfur b).fsn then some k else some b) none

/-- Is a record the newest SEG_FULL of its segment? -/
def Mach.newestFull (m : Mach) (r : HRec) : Option Nat :=
  match r.body with
  | .seg s true _ =>
    if m.hdl.log.any fun x => decide (r.pos < x.pos) && (match x.body with | .seg s' true _ => s' == s | _ => false) then none else some s
  | _ => none

/-- A segment that R289 rewrites: its newest SEG_FULL lies in the oldest closed furrow, and the reserve is needed. -/
def Mach.rewriteSeg (m : Mach) : Option Nat :=
  if m.rdN Reg.HDL_RESERVE < m.hdlFallow.length then none
  else m.oldestClosed.bind fun k => (m.hdl.log.filter fun r => r.furs.contains k).findSome? m.newestFull

/-- May the image of a segment be taken: for a table segment, no record that changes the tables waits to be appended (R285)? -/
def Mach.imageable (m : Mach) (s : Nat) : Bool := decide (s < m.mapSegs) || !m.hdl.want.any fun w => w.2.isTable

/-- The dirty segment of lowest covered FSN; a tie goes to the lower SEGID. -/
def Mach.nextDirty (m : Mach) : Option Nat :=
  ((m.hdl.seg.filter fun e => e.2.dirty).foldl (fun (best : Option (Nat × Nat)) e =>
    match best with
    | none => some (e.1, e.2.cov)
    | some b => if e.2.cov < b.2 then some (e.1, e.2.cov) else some b) none).map (·.1)

/-- Segment, DIRECTORY and ERASE_BEGIN records are written: the HDL page RUNNING, no power-fail sequence. -/
def Mach.hdlSegs (m : Mach) : Bool := m.running .hdl && m.dev.pf == .none

/-- Can any record be written: start-up has brought the headland up, or the first format is under way, and nothing has ended it? -/
def Mach.hdlUp (m : Mach) : Bool :=
  m.dev.loaded && m.dev.pf == .none && m.dev.phase != .done

/-- Put a record whose program failed into the next furrow, at its place in the log (R280). -/
def Mach.replaceRec (r : HRec) (m : Mach) : Mach :=
  match m.hdlRoom (2 * m.hdlFurs.length + 4) (m.recCws r.body) with
  | none => m
  | some (m, furs) =>
    let k := furs.getLastD 0
    let m := m.updHdl fun h => { h with log := h.log.map fun x => if x.id == r.id then { x with furs := furs } else x }
    m.queueOp (m.hdlChan k) ⟨(k / 128) % 64, Nat.mod_lt _ (by omega)⟩ .q1 (.headland r.id false)

/-- Is the program of a record queued or running? -/
def Mach.recQueued (m : Mach) (id : Nat) : Bool :=
  m.fl.ops.any fun o => match o.kind with
    | .headland r _ => r == id
    | _ => false

/-! ### Live records (R289) -/

/-- Newest of its kind in the log. -/
def Mach.newestBy (m : Mach) (r : HRec) (same : HBody → Bool) : Bool :=
  !(m.hdl.log.any fun x => decide (r.pos < x.pos) && same x.body)

/-- Does a record still count for a later start-up? The newest root and the newest NONCE record of a slot count too. -/
def Mach.liveRec (m : Mach) (r : HRec) : Bool :=
  match r.body with
  | .root _ => m.newestBy r fun b => match b with | .root _ => true | _ => false
  | .seg s _ _ => m.newestBy r fun b => match b with | .seg s' true _ => s' == s | _ => false
  | .directory => m.newestBy r fun b => match b with | .directory => true | _ => false
  | .definition _ => m.newestBy r fun b => match b with | .definition _ => true | _ => false
  | .provpar x =>
    (m.newestBy r fun b => match b with | .provpar y => y.fsn == x.fsn && y.page == x.page | _ => false) &&
      (m.fur x.furrow).fsn == x.fsn && !m.parityWritten x.furrow x.page
  | .nonce k e _ =>
    (m.newestBy r fun b => match b with | .nonce k' e' _ => k' == k && e' == e | _ => false) &&
      (k == 1024 || ((m.kslot k).epoch == e || (m.kslot k).rotating == some e))
  | .dump .. => m.hdl.dumpValid
  | .dumpIndex .. => m.hdl.dumpValid
  | _ => false

/-! ### Furrows that hold retired keys (R333) -/

/-- Does a DEFINITION record hold the wrapped key of a slot that has been retired since? -/
def Mach.holdsRetired (m : Mach) (r : HRec) : Bool :=
  match r.body with
  | .definition d => d.keys.any fun e =>
    let x := m.kslot e.1
    (x.st == .empty && !x.importing) || x.key != e.2.2.2.1
  | _ => false

/-- Headland furrows that hold such a record. -/
def Mach.scrubFurs (m : Mach) : List Nat :=
  m.hdlFurs.filter fun k => m.hdl.log.any fun r => r.furs.contains k && m.holdsRetired r

/-- Write a record again at the head of the log. -/
def Mach.rewriteRec (b : HBody) (m : Mach) : Mach :=
  let (m, id) := m.ask b
  m.appendWant (id, b)

/-- The next step of the scrub: the open furrow closes once the log is durable; then live records are written again. -/
def Mach.scrubNext (m : Mach) : Option Mach :=
  let fs := m.scrubFurs
  if fs.isEmpty || !m.hdl.log.all (fun r => r.durable) then none
  else if m.hdl.opn.any fs.contains then some m.hdlClose
  else match m.hdl.log.find? fun r => r.furs.any fs.contains && m.liveRec r with
    | none => none
    | some r =>
      match r.body with
      | .root _ => some m.appendRoot
      | .seg s _ _ => some (m.appendSeg s true)
      | .directory => some m.appendDirectory
      | .definition d => some (m.rewriteRec (.definition d))
      | .nonce k e h => some (m.rewriteRec (.nonce k e h))
      | .provpar x => some (m.rewriteRec (.provpar x))
      | _ => none

/-- The headland writer's next record (R288). -/
def Mach.headlandWrite (m : Mach) : Mach :=
  if !m.hdlUp then m
  else match m.hdl.log.find? fun r => r.flying && !m.recQueued r.id with
    | some r => m.replaceRec r
    | none =>
      if m.hdl.needRoot then m.appendRoot
      else match (if m.hdlSegs then m.rewriteSeg.filter m.imageable else none) with
        | some s => m.appendSeg s true
        | none =>
          match m.hdl.want.find? fun w => w.2.first && (m.hdlSegs || !w.2.isErase) with
          | some w => m.appendWant w
          | none =>
            if m.hdlLow then m
            else match m.hdl.want.find? fun w => !w.2.first with
              | some w => m.appendWant w
              | none =>
                if !m.hdlSegs then m
                else match m.scrubNext with
                | some m => m
                | none =>
                if m.rdN Reg.HDL_DIRINT ≤ m.hdl.sinceDir && m.hdl.sinceDir != 0 then m.appendDirectory
                else match m.nextDirty with
                  | some s => m.appendSeg s false
                  | none => m

/-- A closed headland furrow without a live record. -/
def Mach.releasable (m : Mach) (k : Nat) : Bool :=
  (m.hfur k).st == .closed && !(m.hdl.log.any fun r => r.furs.contains k && (m.liveRec r || !r.durable))

/-- The oldest headland furrow is released once it has no live record (R289), and so is one that holds a retired key (R333). -/
def Mach.hdlRelease (m : Mach) : Mach :=
  match (m.oldestClosed.toList ++ m.scrubFurs).find? m.releasable with
  | none => m
  | some k => (m.setHfur k { m.hfur k with st := .released, eRel := m.nextRootEpoch }).touch .hdl

/-- Released headland furrows whose root is durable are erased through Q1. -/
def Mach.hdlErase (m : Mach) : Mach :=
  if !m.hdlSegs then m
  else m.each (m.hdlFurs.filter fun k => (m.hfur k).st == .released && decide ((m.hfur k).eRel ≤ m.hdl.durable)) fun k m =>
    let x := m.hfur k
    let cs := (List.finRange 32).filter fun c => !(x.absent ||| x.lost ||| m.fl.retired).getLsbD c.val
    let m := (m.ask (.eraseBegin (4096 * (k / 128) + k % 128) (cs.foldl (fun w c => w ||| bit32 c.val) 0))).1
    let m := (m.setHfur k { x with st := .erasing }).updHdl fun h => { h with
      log := h.log.filter fun r => !r.furs.all (· == k)
      erases := SMap.set 0 h.erases k cs.length }
    m.each cs fun c m =>
      (m.putBlk (hfurDie k c) (hfurBlock k) { m.blk (hfurDie k c) (hfurBlock k) with st := .erasing }).queueErase c (k / 128)
        (hfurBlock k) true

/-- A headland program fails (R280): the member is GROWN_BAD and lost, the furrow closes, and the record is written again. -/
def Mach.hdlFailed (id : Nat) (c : Chan) (cause : Nat) (m : Mach) : Mach :=
  match m.hdl.log.find? fun r => r.id == id with
  | none => m
  | some r =>
    let k := r.furs.getLastD 0
    let m := m.growBad (hfurDie k c) (hfurBlock k) cause
    let m := m.setHfur k { m.hfur k with lost := (m.hfur k).lost ||| bit32 c.val }
    let m := if m.hdl.opn == some k then m.hdlClose else m
    m.replaceRec r

/-- A headland program passes. -/
def Mach.hdlPassed (id : Nat) (m : Mach) : Mach :=
  m.updHdl fun h => { h with log := h.log.map fun r => if r.id == id then { r with flying := false } else r }

end Sys2Proof.Machine
end

