-- ==== Sys2Proof/Machine/FlashOps.lean ====
section
/-! DEFINITION. The channel engines (R186 to R210): readiness, ranks, tokens, write protection, the ends of operations, and the
loss and the end of erases (R66, R202, R270, R275). -/

namespace Sys2Proof.Machine

/-! ### Kinds of operation -/

/-- Codes of Table 08.7. -/
def codeRead : Nat := 0x10
def codeReadCache : Nat := 0x11
def codeProgram : Nat := 0x20
def codeNested : Nat := 0x21
def codeErase : Nat := 0x30
def codeSuspend : Nat := 0xB0
def codeResume : Nat := 0xD0
def codeSetFeature : Nat := 0x40
def codeGetFeature : Nat := 0x48
def codeRetry : Nat := 0x5A
def codeReadId : Nat := 0x90
def codeParam : Nat := 0xEC
def codeReset : Nat := 0xFF

/-- Status values of Table 08.8. -/
def aptDone : Nat := 0
def aptInProgress : Nat := 1
def aptProgramFail : Nat := 2
def aptEraseFail : Nat := 3
def aptErasePending : Nat := 4
def aptWp : Nat := 5
def aptBadCmd : Nat := 6
def aptBadParam : Nat := 7
def aptDieBusy : Nat := 8
def aptNoErase : Nat := 9
def aptNotStopped : Nat := 10
def aptTimeout : Nat := 11

def OpKind.isErase (k : OpKind) : Bool :=
  match k with
  | .erase .. => true
  | .svc c _ => c == codeErase
  | _ => false

def OpKind.isProgram (k : OpKind) : Bool :=
  match k with
  | .program _ => true
  | .headland .. => true
  | .svc c _ => c == codeProgram || c == codeNested
  | _ => false

def OpKind.isRead (k : OpKind) : Bool :=
  match k with
  | .readCw _ => true
  | .svc c _ => c == codeRead || c == codeReadCache
  | _ => false

def OpKind.isResume (k : OpKind) : Bool := match k with | .svc c _ => c == codeResume | _ => false

def OpKind.isSvc (k : OpKind) : Bool := match k with | .svc .. => true | _ => false

/-- Tokens of an array operation (R206); what touches no array takes none. -/
def OpKind.tokens (k : OpKind) : Nat :=
  if k.isProgram then 6 else if k.isErase || k.isResume then 5 else if k.isRead then 2 else 0

/-- The block an operation works on. -/
def Mach.opBlock (m : Mach) (o : Op) : Nat :=
  match o.kind with
  | .readCw t => (m.task t).elim 0 fun t => adrBlock t.addr
  | .program p => (m.buf.pgms.find? fun x => x.id == p).elim 0 fun x => m.memberBlock x.chan x.furrow
  | .headland r _ => (m.hdl.log.find? fun x => x.id == r).elim 0 fun x => hfurBlock (x.furs.getLastD 0)
  | .erase b _ => b
  | .svc _ x => x.block

def Mach.op (m : Mach) (id : Nat) : Option Op := m.fl.ops.find? fun o => o.id == id
def Mach.setOp (o : Op) (m : Mach) : Mach :=
  m.updFl fun f => { f with ops := f.ops.map fun x => if x.id == o.id then o else x }
def Mach.dropOp (id : Nat) (m : Mach) : Mach :=
  m.updFl fun f => { f with ops := f.ops.filter (fun x => x.id != id), xfers := f.xfers.filter (· != id) }

def Op.dieIx (o : Op) : Nat := dieOf o.ch o.row.val

/-! ### Tokens (R207, R208) -/

/-- The budget of a channel at its Snuffer level. -/
def Mach.budget (m : Mach) (c : Chan) : Nat := m.rdN (fchReg c Reg.FCH_TOKMAX) * ((m.chn c).level + 1) / 16

/-- Tokens held: issued operations whose dies have not reported ready, a suspended erase holding none (R206). -/
def Mach.tokensHeld (m : Mach) (c : Chan) : Nat :=
  ((m.fl.ops.filter fun o => o.ch == c && o.issued && !o.stalled).map fun o =>
    if o.kind.isErase && (m.die o.dieIx).esusp.isSome then 0 else o.kind.tokens).sum

def Mach.tokensFit (m : Mach) (c : Chan) (n : Nat) : Bool := decide (m.tokensHeld c + n + 1 ≤ m.budget c) || n == 0

/-! ### Ranks and readiness (R186 to R188, R197 to R200) -/

/-- The rank of an operation (Table 08.4); rank 0 for a service operation that waited. -/
def Mach.opRank (m : Mach) (o : Op) : Nat :=
  if o.rank0 then 0
  else match o.req with
    | .q0 => 1
    | .q1 => 2
    | .q2 => match m.gln.level with
      | .low => 3
      | .normal => 3
      | _ => 4
    | .q3 => match m.gln.level with
      | .low => 4
      | _ => 3
    | .svc _ => 5

/-- At NORMAL, which of Q2 and Q3 takes this rank-3 turn: alternating, or Q3 whenever it is ready while the debt is high (R261). -/
def Mach.q3Turn (m : Mach) (c : Chan) : Bool := (m.chn c).turn3 || decide (m.rdN Reg.GLN_DEBTMAX ≤ m.gln.debt)

/-- No erase of a furrow is issued before its ERASE_BEGIN record is durable (R66). -/
def Mach.eraseRecorded (m : Mach) (o : Op) : Bool :=
  match o.kind with
  | .erase b sys =>
    let f := if sys then 4096 * o.row.val + b else m.furrowOf o.ch o.row.val b
    let is (x : HBody) : Bool := match x with | .eraseBegin g _ => g == f | _ => false
    !(m.hdl.want.any fun w => is w.2) && !(m.hdl.log.any fun r => !r.durable && is r.body)
  | _ => true

/-- Does the channel take this operation: RUNNING, or a service operation on a STOPPED channel (R188)? -/
def Mach.chanTakes (m : Mach) (o : Op) : Bool :=
  m.running (.fch o.ch) || (o.kind.isSvc && m.pageSt (.fch o.ch) == .stopped)

/-- Is the fallow pool below its floor, so that on a running channel reads wait for erases (R199)? The writes that follow PFAIL_N do
not: no RESUME follows it (Table 08.10). -/
def Mach.erasesFirst (m : Mach) (c : Chan) : Bool :=
  decide (m.fallowCount < m.rdN Reg.GLN_FLOOR) && m.running (.fch c) && m.dev.pf == .none

/-- Does the die take an operation now (R187, R199, R200)? -/
def Mach.dieTakes (m : Mach) (o : Op) : Bool :=
  let d := m.die o.dieIx
  d.op.isNone && d.erun.isNone &&
    match d.esusp with
    | none => true
    | some b =>
      if m.erasesFirst o.ch && o.kind.tokens != 0 && !o.kind.isResume then false
      else if o.kind.isRead || !(o.kind.isProgram || o.kind.isErase) then true
      else if o.kind.isErase then false
      else match o.kind with
        | .headland .. => decide (o.row.val < 4) && d.info.any (fun i => i.nested) && m.opBlock o != b
        | .svc c _ => c == codeNested
        | _ => false

/-- Is an operation that has not been issued in its queue, which is 128 entries deep (R186)? Those behind wait with the requester; the
service port is no queue. -/
def Mach.inQueue (m : Mach) (o : Op) : Bool :=
  o.kind.isSvc ||
    decide ((m.fl.ops.filter fun x => decide (x.id < o.id) && x.ch == o.ch && x.req == o.req && !x.issued).length < 128)

/-- Is an operation ready? At the junction trip no array operation starts (R202); in the power-fail sequence only headland
programs start (Table 12.6); once a shutdown is DONE nothing is written to flash (Table 03.6). -/
def Mach.opReady (m : Mach) (o : Op) : Bool :=
  !o.issued && m.inQueue o && m.chanTakes o && m.dieTakes o && m.eraseRecorded o && (!m.fl.trip || o.kind.tokens == 0) &&
    (m.dev.pf == .none || (match o.kind with | .headland .. => true | _ => false)) &&
    !(m.dev.phase == .done && (o.kind.isProgram || o.kind.isErase || o.kind.isResume)) &&
    !(m.fl.ops.any fun x => decide (x.id < o.id) && x.ch == o.ch && x.row == o.row && x.req == o.req && !x.issued)

/-- Consideration order: lower rank, then, at a shared rank 3, the queue whose turn it is, then queue order. -/
def Mach.opBefore (m : Mach) (c : Chan) (a b : Op) : Bool :=
  let ra := m.opRank a
  let rb := m.opRank b
  if ra != rb then decide (ra < rb)
  else if a.req == .q2 && b.req == .q3 then !m.q3Turn c
  else if a.req == .q3 && b.req == .q2 then m.q3Turn c
  else decide (a.id < b.id)

/-- The operation that the engine considers first. -/
def Mach.nextOp (m : Mach) (c : Chan) : Option Op :=
  (m.fl.ops.filter fun o => o.ch == c && m.opReady o).foldl (fun best o =>
    match best with
    | none => some o
    | some b => if m.opBefore c o b then some o else some b) none

/-! ### The service port's status (R194) -/

def Mach.svcStatus (d : Nat) (a : Agent) (code opc : Nat) (m : Mach) : Mach :=
  let x := m.die d
  m.setDie d { x with code := x.code.set a code, opc := x.opc.set a opc }

/-- A service operation ends with a status. -/
def Mach.svcEnd (o : Op) (a : Agent) (opc status : Nat) (m : Mach) : Mach :=
  let d := m.die o.dieIx
  let m := m.setDie o.dieIx { d with op := if d.op == some o.id then none else d.op }
  (m.dropOp o.id).svcStatus o.dieIx a status opc

def Mach.svcAgent (o : Op) : Agent := match o.req with | .svc a => a | _ => .mgmt

/-! ### Ends of erases -/

/-- A furrow whose members have all been erased, or are bad, becomes FALLOW (R256, R275). -/
def Mach.memberErased (c : Chan) (f : Nat) (m : Mach) : Mach :=
  let x := m.fur f
  let left := x.toErase &&& ~~~(bit32 c.val)
  let m := m.setFur f { x with toErase := left }
  if left = 0 && x.st == .erasing then ((m.makeFallow f).ask (.eraseDone [f])).1 else m

/-- The furrow key of a system block where a headland furrow is being erased. -/
def Mach.hdlErased (row b : Nat) (m : Mach) : Mach :=
  let k := 128 * row + b
  let n := SMap.get 0 m.hdl.erases k
  if n = 0 then m
  else
    let m := m.updHdl fun h => { h with erases := SMap.set 0 h.erases k (n - 1) }
    if n = 1 then
      let m := ((m.ask (.eraseDone [4096 * row + b])).1.setHfur k {}).touch .hdl
      m.updKey fun t => { t with scrub := t.scrub && !(m.scrubFurs.isEmpty && m.hdl.erases.isEmpty) }
    else m

/-- A die's erase is over: the erase registers of the die are cleared. -/
def Mach.dieEraseOver (d : Nat) (m : Mach) : Mach :=
  m.setDie d { m.die d with erun := none, esusp := none, suspends := 0, inInterval := false }

/-- Erase counts of the headland blocks, and their mean (HDL_WEAR). -/
def Mach.hdlErases (m : Mach) : List Nat :=
  m.hdlFurs.flatMap fun k => (List.finRange 32).map fun c => (m.blk (hfurDie k c) (hfurBlock k)).erases

def Mach.hdlWear (m : Mach) : Nat := m.hdlErases.sum / max 1 m.hdlErases.length

/-- A headland block has been erased once more, from a count of n: bit 19 sets when the mean reaches HDL_SLCRATED (R302; log entry
181). -/
def Mach.hdlWorn (n : Nat) (m : Mach) : Mach :=
  let l := m.hdlErases
  let before := (l.sum - (if n < 65535 then 1 else 0)) / max 1 l.length
  if m.rdN Reg.HDL_SLCRATED ≤ m.hdlWear && before < m.rdN Reg.HDL_SLCRATED then m.raise .hdl 19 0 else m

/-- An erase completes with DONE (R275): count, wiped contents, quantity 0x21, the furrow. -/
def Mach.eraseDone (o : Op) (b : Nat) (system : Bool) (m : Mach) : Mach :=
  let d := o.dieIx
  let n := (m.die d).suspends
  let x := m.blk d b
  let m := (m.putBlk d b { st := if x.st == .factoryBad || x.st == .grownBad then x.st else .normal,
                           erases := min 65535 (x.erases + 1), reads := 0, intr := 0, step := 0, wpHeld := false }).wipeBlock d b
  let m := ((m.bump64 Reg.GLN_ERASES_LO).observe 0x21 (some (min n 15)) n).dieEraseOver d
  let m := m.dropOp o.id
  if system then (m.hdlWorn x.erases).hdlErased o.row.val b else m.memberErased o.ch (m.furrowOf o.ch o.row.val b)

/-- An erase fails (R270): the member becomes GROWN_BAD; the other members go on. -/
def Mach.eraseFailed (o : Op) (b : Nat) (system : Bool) (cause : Nat) (m : Mach) : Mach :=
  let d := o.dieIx
  let cause := if (m.blk d b).intr != 0 && cause == 2 then 4 else cause
  let m := ((m.dieEraseOver d).dropOp o.id).growBad d b cause
  if system then m.hdlErased o.row.val b
  else
    let f := m.furrowOf o.ch o.row.val b
    let m := m.putFur f { m.fur f with lost := (m.fur f).lost ||| bit32 o.ch.val }
    m.memberErased o.ch f

/-- A running or suspended erase is lost: ERASE_INTERRUPTED, with the counts of R66. -/
def Mach.eraseLost (d b : Nat) (m : Mach) : Mach :=
  let x := m.blk d b
  let n := min 7 (x.intr + 1)
  let m := m.putBlk d b { x with st := .eraseInterrupted, intr := n }
  let m := m.health fun h => { h with intErase := stick32 (h.intErase + 1) }
  if 3 ≤ n then m.devEvent .notice 0x0106 (BitVec.ofNat 64 (4096 * d + b)) [] else m

/-- The erase operation issued to a die, with its block. -/
def Mach.eraseOp (m : Mach) (d : Nat) : Option Op := m.fl.ops.find? fun o => o.issued && o.kind.isErase && o.dieIx == d

/-- RESET_DIE: a running or suspended erase is lost (Table 08.10). A service-port erase that is lost ends without a status. -/
def Mach.resetDie (d : Nat) (m : Mach) : Mach :=
  match m.eraseOp d with
  | none => m.dieEraseOver d
  | some o =>
    let b := m.opBlock o
    let m := ((m.dieEraseOver d).dropOp o.id).eraseLost d b
    match o.kind with
    | .svc c _ => m.svcStatus d (Mach.svcAgent o) aptTimeout c
    | _ => m

/-- The running erase of a die is suspended. -/
def Mach.suspendErase (d : Nat) (count : Bool) (m : Mach) : Mach :=
  let x := m.die d
  match x.erun with
  | none => m
  | some b =>
    let ch : Chan := Fin.ofNat 32 (d / 64)
    let n := x.suspends + 1
    let m := (m.setDie d { x with erun := none, esusp := some b, suspends := if count then n else x.suspends }).putBlk d b
      { m.blk d b with st := if (m.blk d b).st == .erasing then .eraseSuspended else (m.blk d b).st }
    let m := m.bump (fchReg ch Reg.FCH_SUSPENDS)
    if count then m.raiseTo (fchReg ch Reg.FCH_SUSPMAX) n 65535 else m

/-- The suspended erase of a die is resumed. -/
def Mach.resumeErase (d : Nat) (m : Mach) : Mach :=
  let x := m.die d
  match x.esusp with
  | none => m
  | some b =>
    (m.setDie d { x with erun := some b, esusp := none, inInterval := true }).putBlk d b
      { m.blk d b with st := if (m.blk d b).st == .eraseSuspended then .erasing else (m.blk d b).st }

/-- Every running erase of a channel is suspended, whatever the allowance and the floor (Table 08.10). -/
def Mach.suspendChan (c : Chan) (m : Mach) : Mach := m.each (List.range 64) fun r m => m.suspendErase (dieOf c r) false

/-! ### Raw pages (R196) -/

/-- Is a codeword in a block, and where given in one page and plane of it? -/
def inSite (d b : Nat) (site : Option (Nat × Nat)) (a : BitVec 40) : Bool :=
  adrDie a == d && adrBlock a == b &&
    match site with
    | none => true
    | some (p, pl) => adrPage a == p && adrPlane a == pl

/-- Codewords of a block, or of one page and plane of it, are destroyed, and what a raw program left there is. -/
def Mach.destroy (d b : Nat) (site : Option (Nat × Nat)) (m : Mach) : Mach :=
  let hit (k : Nat) : Bool := inSite d b site (BitVec.ofNat 40 k)
  m.updFl fun f => { f with
    cw := f.cw.map fun e => if hit e.1 then (e.1, { e.2 with gone := true }) else e
    raw := f.raw.filter fun e => !hit e.1 }

/-- An erase of the service port clears the block in each plane of its mask. -/
def Mach.erasePlanes (d : Nat) (x : Apt) (m : Mach) : Mach :=
  m.each ((List.range 8).filter fun i => x.planes.testBit i) fun pl m =>
    m.each (List.range m.adm.board.pages) fun p m => m.destroy d x.block (some (p, pl))

/-- The one plane of a service-port read or program. -/
def Apt.plane (x : Apt) : Nat := Nat.log2 (max 1 x.planes)

/-- The address of slot 0 of the page of a service-port command. -/
def svcBase (o : Op) (x : Apt) : BitVec 40 := mkAddr o.ch o.row.val x.plane x.block x.page 0

/-- A raw program ends: the page holds what was staged; after a failure nothing that is known. -/
def Mach.rawProgram (o : Op) (x : Apt) (pass : Bool) (m : Mach) : Mach :=
  let m := m.destroy o.dieIx x.block (some (x.page, x.plane))
  if pass then m.updFl fun f => { f with raw := SMap.put f.raw (svcBase o x).toNat o.data } else m

/-- What is stored at a byte of the page of a service-port read: staged words, or a codeword's image (Table 09.1). -/
def Mach.storedWord (m : Mach) (o : Op) (x : Apt) (off : Nat) : Option Word :=
  let a := svcBase o x
  match m.fl.raw.find? fun e => e.1 == a.toNat with
  | some e => some (SMap.get 0 e.2 off)
  | none =>
    let y := m.cwAt (a + BitVec.ofNat 40 (off / 4608))
    if y.kind == .erased || y.gone then none else some (y.image.extractLsb' (8 * (off % 4608)) 32)

/-! ### Outbound service transfers (R187, R196) -/

/-- Free words for a packet: a draw of free values. -/
def freeWords (f : Nat → Nat → Word) (draw n : Nat) : List Word := (List.range n).map (f draw)

/-- A read of the block being erased carries its code plus this (R201). -/
def erasedMark : Nat := 0x100

/-- The words that a service read returns. A page comes as it was stored, with the bit errors of its sensing. Identifiers, parameter pages
and features never set are of the die, outside the model; what a read of the block being erased returns is undefined. -/
def Mach.svcWords (m : Mach) (o : Op) (code : Nat) (x : Apt) : List Word :=
  if erasedMark ≤ code then freeWords Config.eraseReadWord m.free (x.len / 4)
  else if code = codeGetFeature then
    [((m.die o.dieIx).feat.find? fun e => e.1 == x.fa).elim (Config.rawWord m.free 0) (·.2)]
  else if code = codeRead ∨ code = codeReadCache then
    (List.range (x.len / 4)).map fun i => match m.storedWord o x (x.col + 4 * i) with
      | some w => w ^^^ Config.bitErrors m.free i
      | none => Config.rawWord m.free i
  else freeWords Config.rawWord m.free (x.len / 4)

/-- Does a transfer of its channel wait that became ready before this one? -/
def Mach.xferBehind (m : Mach) (o : Op) : Bool :=
  (m.fl.xfers.takeWhile (· != o.id)).any fun id => (m.op id).any fun x => x.ch == o.ch

/-- A transfer waits for its turn, and its die stays busy. -/
def Mach.stallXfer (o : Op) (m : Mach) : Mach :=
  (m.setOp { o with stalled := true }).updFl fun f => { f with xfers := if f.xfers.contains o.id then f.xfers else f.xfers ++ [o.id] }

/-- Push the packet of a finished read where PFF4 has room and the bus's order lets it; otherwise the transfer waits. -/
def Mach.svcTransfer (o : Op) (code : Nat) (x : Apt) (m : Mach) : Mach :=
  let ws := m.svcWords o code x
  if ws.length ≤ m.pffFree 4 && m.running (.pff 4) && !m.xferBehind o then
    (m.draw.pffPacket 4 ws).svcEnd o (Mach.svcAgent o) (code % erasedMark) (if erasedMark ≤ code then aptErasePending else aptDone)
  else m.stallXfer o

/-- Transfers that waited go on once there is room. -/
def Mach.svcDrain (m : Mach) : Mach :=
  m.each m.fl.xfers fun id m =>
    match m.op id with
    | some o =>
      match o.kind with
      | .svc code x => m.svcTransfer o code x
      | _ => m
    | none => m

/-! ### Reads of the block being erased (R201) -/

/-- The planes that the erase of a die works on: all of them, or the mask of a service-port erase. -/
def Op.erasePlanes (o : Op) : Nat := match o.kind with | .svc _ x => x.planes | _ => 0xFF

/-- Does a service-port read ask for the block that an erase works on, in a plane of it? -/
def readsErased (e : Op) (b : Nat) (x : Apt) : Bool := x.block == b && e.erasePlanes &&& x.planes != 0

/-- It completes at once with ERASE_PENDING: its packet goes, or waits for room. -/
def Mach.svcErased (o : Op) (code : Nat) (x : Apt) (m : Mach) : Mach :=
  let o := { o with issued := true, kind := .svc (code + erasedMark) x }
  ((m.setOp o).bump (fchReg o.ch Reg.FCH_EPEND)).svcTransfer o (code + erasedMark) x

/-- An erase has been issued: the reads of its block that wait complete. -/
def Mach.pendReads (e : Op) (m : Mach) : Mach :=
  m.each (m.fl.ops.filter fun o => !o.issued && o.dieIx == e.dieIx && o.kind.isSvc && o.kind.isRead) fun o m =>
    match o.kind with
    | .svc code x => if readsErased e (m.opBlock e) x then m.svcErased o code x else m
    | _ => m

/-! ### Ends of service-port erases -/

/-- The service port's erase ends: contents gone in each plane of the mask. -/
def Mach.svcErased1 (o : Op) (x : Apt) (pass : Bool) (m : Mach) : Mach :=
  let d := o.dieIx
  let m := (m.erasePlanes d x).dieEraseOver d
  if pass then
    (m.putBlk d x.block { m.blk d x.block with erases := min 65535 ((m.blk d x.block).erases + 1), reads := 0, intr := 0, step := 0 }
      ).svcEnd o (Mach.svcAgent o) codeErase aptDone
  else (m.growBad d x.block 2).svcEnd o (Mach.svcAgent o) codeErase aptEraseFail

/-- The erase of a die counts as complete. -/
def Mach.eraseCompletes (d : Nat) (m : Mach) : Mach :=
  match m.eraseOp d with
  | none => m
  | some o =>
    match o.kind with
    | .erase b sys => m.eraseDone o b sys
    | .svc _ x => m.svcErased1 o x true
    | _ => m

/-! ### Write protection (R203, R204) -/

/-- The protect bits of a die. -/
def Mach.wpBits (m : Mach) (d : Nat) : BitVec 64 :=
  (m.die d).wp ||| m.fl.wpAll ||| (if d % 64 < 4 then m.fl.wpT0 else 0)

/-- Is a program or erase refused at its grant? -/
def Mach.wpHit (m : Mach) (o : Op) : Bool :=
  (o.kind.isProgram || o.kind.isErase) && o.req != .q1 && (m.wpBits o.dieIx).getLsbD (m.opBlock o / 64)

end Sys2Proof.Machine
end

