-- ==== Sys2Proof/Machine/VolOps.lean ====
section
/-! DEFINITION. Population, capacity and the first format (R21, R25, R26, R65, R135, R272, R274, R275), the move to IO_READY (R16,
R37), and the progress of volume commands (R138 to R141). -/

namespace Sys2Proof.Machine

/-! ### What training found -/

def Mach.chanDies (m : Mach) (c : Nat) : List (Nat × DieInfo) := m.dies.filter fun e => e.1 / 64 == c

/-- Targets of a channel: one more than the highest populated target, where every lower one is populated. -/
def Mach.targetsOf (m : Mach) (c : Nat) : Nat :=
  ((List.range 16).filter fun t => (m.chanDies c).any fun e => (e.1 % 64) / 4 == t).length

def Mach.diesOf (m : Mach) (c t : Nat) : Nat := ((m.chanDies c).filter fun e => (e.1 % 64) / 4 == t).length

/-- Least of some numbers; 0 of none. -/
def least (l : List Nat) : Nat := match l with | [] => 0 | x :: xs => xs.foldl min x

def greatest (l : List Nat) : Nat := l.foldl max 0

/-- The T0 dies. -/
def Mach.t0Dies (m : Mach) : List DieInfo := (m.dies.filter fun e => e.1 % 64 < 4).map (·.2)

/-- GLN_RATED before the first format (R275). -/
def Mach.ratedNow (m : Mach) : Nat :=
  let l := (m.dies.map fun e => min 65535 e.2.endurance).filter (· != 0)
  if l.isEmpty then 3000 else least l

/-- HDL_SLCRATED: the least rated SLC cycles of the T0 dies (R302, R453). -/
def Mach.slcRatedNow (m : Mach) : Nat := min 1048575 (least (m.t0Dies.map (·.slcCycles)))

/-- The geometry that training gives the board. It is fixed at the first format. -/
def Mach.learnBoard (m : Mach) : Mach :=
  match m.dies with
  | [] => m
  | (d, i) :: _ =>
    m.updAdm fun a => { a with board := { a.board with
      targets := m.targetsOf (d / 64)
      dies := m.diesOf (d / 64) ((d % 64) / 4)
      planes := i.planes
      pages := i.pages
      blocks := i.blocks
      slcPages := least (m.t0Dies.map (·.slcPages))
      slcNative := m.t0Dies.any fun x => !x.slc } }

/-- The program times that hold for several dies: the greatest (R294, R453). -/
def Mach.learnTimes (m : Mach) : Mach :=
  m.updAdm fun a => { a with board := { a.board with
    tprogMaxUs := greatest (m.dies.map fun e => e.2.tProgMaxUs)
    tprogSlcUs := greatest (m.t0Dies.map (·.maxSlcUs)) } }

/-- DRAM data capacity in GiB, by DRG_CFG (Table 01.4, R303): density in GiB of a device, 32 data devices a rank. -/
def Mach.dramGib (m : Mach) : Nat :=
  let cfg := m.rdN Reg.DRG_CFG
  let dens := match bits cfg 4 3 with
    | 0 => 2
    | 1 => 3
    | 2 => 4
    | _ => 0
  32 * dens * (if bitOf cfg 5 then 2 else 1)

/-- POPERR (Table 06.4): the first rule of Table 01.4 that the population breaks. -/
def Mach.population (m : Mach) : Nat :=
  let cs := List.range 32
  let b := m.adm.board
  if cs.any fun c => (m.chanDies c).isEmpty then 1
  else if cs.any fun c => m.targetsOf c != b.targets then 2
  else if cs.any fun c => (List.range b.targets).any fun t => m.diesOf c t != b.dies then 3
  else if m.dies.any fun e => e.2.planes != b.planes || e.2.pages != b.pages || e.2.blocks != b.blocks then 4
  else if m.dramGib < 64 then 5
  else 0

/-! ### Capacity -/


/-- Bytes of descriptors: 192 for each 2 MiB of a region. -/
def Mach.descBytes (m : Mach) : Nat := (m.lamp.reg.map fun e => 192 * ((e.2.size + 2 ^ 21 - 1) / 2 ^ 21)).sum

/-- Do reserved area, map, write buffer and descriptors fit the DRAM (R25, R26)? -/
def Mach.dramFits (m : Mach) (entries wbufGib desc : Nat) : Bool :=
  decide (2 ^ 30 + 5 * entries + wbufGib * 2 ^ 30 + desc ≤ m.dramGib * 2 ^ 30)

/-- Frames of the pool: the lower of POOL_GIB and what R25 leaves. -/
def Mach.poolFrames (m : Mach) : Nat :=
  let used := 2 ^ 30 + 5 * m.vol.entries + m.adm.now.wbufGib * 2 ^ 30 + m.descBytes
  min (m.adm.now.poolGib * 512) (m.dramGib * 512 - (used + 2 ^ 21 - 1) / 2 ^ 21)

/-- Chunks that no volume holds, ascending (R236). -/
def Mach.freeChunks (m : Mach) : List Nat :=
  (List.range (m.vol.entries / 65536)).filter fun c => !m.vol.v.any fun e => e.2.chunks.contains c

/-! ### IO_READY -/

/-- STAGE of DEV_BOOT (Table 03.3). -/
def Mach.stageShown (m : Mach) : Nat := if m.dev.st == .boot && m.dev.stage = 3 && Config.stepFourOver m.free then 4 else m.dev.stage

/-- DEV_BOOT (Table 03.8). -/
def Mach.bootWord (m : Mach) : Word :=
  let d := m.dev
  BitVec.ofNat 32 (m.stageShown + 16 * d.bootErr + 256 * d.slot.val + (if d.fallback then 512 else 0) + (if d.recovery then 1024 else 0) +
    2048 * d.strap.toNat + (if d.clean then 2 ^ 14 else 0) + (if d.unformatted then 2 ^ 15 else 0))

/-- A page that start-up brings to RUNNING: powered, not faulted; an FCH page only where its channel trained and serves. -/
def Mach.startsPage (m : Mach) (p : Page) : Bool :=
  m.pageSt p == .stopped &&
    match p with
    | .fch c => (m.chn c).trained && !m.fl.retired.getLsbD c.val
    | .drc d => (m.dram d).trained
    | _ => true

/-- Channels that step 11 leaves away from the data path: those it cannot bring to RUNNING, and the retired ones. -/
def Mach.chansAwayAtStart (m : Mach) : Nat :=
  ((List.finRange 32).filter fun c => m.fl.retired.getLsbD c.val || !(m.running (.fch c) || m.startsPage (.fch c))).length

/-! ### The hold-up budget (R294 to R296) -/

/-- HDL_MINHOLD. -/
def Mach.minHold (m : Mach) : Nat := max 2000 (m.adm.board.tprogMaxUs + 400)

/-- reserve_bytes: the data capacity of the fallow headland furrows beyond HDL_RESERVE. -/
def Mach.reserveBytes (m : Mach) : Nat :=
  (m.hdlFallow.length - m.rdN Reg.HDL_RESERVE) * (29 * m.adm.board.planes * m.sysPages * 16384)

/-- PLP_BUDGET for a hold-up time in µs. -/
def Mach.budgetFor (m : Mach) (us : Nat) : Nat :=
  let b := m.adm.board
  let dump := us - b.tprogMaxUs - m.rdN Reg.HDL_FIXUS
  min (dump * 29 * b.dies * b.planes * 7 / (8 * max 1 b.tprogSlcUs) * 16384) (m.reserveBytes / 2)

/-- LMP_DIRTYCAP for a budget. -/
def Mach.lampCapFor (m : Mach) (budget : Nat) : Nat := budget * m.rdN Reg.HDL_LAMPPCT / 100 / 4096

/-- The buffer cap for a budget beside a lamp cap. -/
def bufCapFor (budget cap : Nat) : Nat := (budget - 4096 * cap) / 16384

/-- The division of the budget at start-up. Below 16 MiB the controller runs in native mode, with a WARN. -/
def Mach.fixBudget (m : Mach) : Mach :=
  let m := m.updHdl fun h => { h with minHold := m.minHold }
  if m.adm.now.plmode = 0 then m.updAdm fun a => { a with plm := 0 }
  else
    let b := m.budgetFor m.adm.now.holdupUs
    if b < 2 ^ 24 then
      (m.updAdm fun a => { a with plm := 0 }).devEvent .warn 0x010F 0 []
    else
      let cap := m.lampCapFor b
      (((m.updAdm fun a => { a with plm := 1 }).wr Reg.LMP_DIRTYCAP (BitVec.ofNat 32 cap)).wr Reg.LMP_AUTOWB
        (BitVec.ofNat 32 (3 * cap / 4))).updHdl fun h => { h with budget := b, bufCap := bufCapFor b cap }

/-- DRAM addresses of the descriptors of the defined regions, in ascending order behind the write buffer, and of the pool (R25,
R153, R154). -/
def Mach.placeDram (m : Mach) : Mach :=
  let start := 2 ^ 30 + 5 * m.vol.entries + m.adm.now.wbufGib * 2 ^ 30
  let r := m.lamp.reg.foldl (fun (a : SMap Region × Nat) e =>
    (SMap.put a.1 e.1 { e.2 with desc := a.2 }, a.2 + 192 * (e.2.size / 2 ^ 21))) ([], start)
  m.updLamp fun l => { l with reg := r.1, poolBase := (r.2 + 2 ^ 21 - 1) / 2 ^ 21 * 2 ^ 21, frames := m.poolFrames }

/-- Step 11: pages RUNNING, Memory_Active, the Almanac NORMAL, and IO_READY, DEGRADED or FAILED at once (Tables 01.3 and 03.3). A
controller that has FAILED meanwhile stays so, and RECOVERY stays in ADMIN_READY (Table 03.2). -/
def Mach.enterIo (m : Mach) : Mach :=
  if m.dev.st != .adminReady || m.dev.recovery then m
  else if m.layoutCovers < m.chansAwayAtStart then m.fail 1
  else
    let m := m.each (allPages.filter m.startsPage) fun p m => m.setPageSt p .running
    let m := m.fixBudget.placeDram
    let m := m.updDev fun d => { d with memActive := true, stage := 10, started := true }
    let m := m.setDev m.ioState
    let m := if m.adm.health.spare = 0 then m.allReadOnly else m
    (m.devEvent .info 0x0100 0 [m.dev.cause, m.bootWord]).almNormal

/-! ### The first format -/

/-- Every block of a die that is not SYSTEM: factory marks are entered, the others erased (R272). -/
def Mach.formatDie (d : Nat) (i : DieInfo) (m : Mach) : Mach :=
  m.each ((List.range i.blocks).filter fun b => !isSystem (d % 64) b) fun b m =>
    if i.factoryBad.contains b then m.setBlk d b { st := .factoryBad }
    else (m.setBlk d b { m.blk d b with erases := 1 }).bump64 Reg.GLN_ERASES_LO

/-- The first successful VOLUME_CREATE: capacity, counters, erased furrows, DEVSALT, and the initial segment images. Its erases are
part of it (see the log). -/
def Mach.firstFormat (m : Mach) : Mach :=
  let cap := m.userCapNow
  let m := m.each m.dies fun e m => m.formatDie e.1 e.2
  let m := m.updVol fun v => { v with usercap := cap, entries := cap / 4, map := [], inst := [] }
  let m := m.updBuf fun b => { b with wsn := 1, fsn := 1 }
  let m := m.updGln fun g => { g with ratedSaved := some (m.rdN Reg.GLN_RATED) }
  let m := m.updKey fun k => { k with devsalt := some ((Config.random384 m.free).setWidth 256), nextEpoch := 1, integ := { st := .loaded } }
  let m := m.draw
  let m := m.each ((List.range (4096 * m.rows)).filter m.isFurrow) fun f m => m.makeFallow f
  let m := m.updHdl fun h => { h with seg := [], img := { fur := m.gln.fur, blk := m.fl.blk, bad := m.badTabs } }
  let m := m.updAdm fun a => { a with health := { a.health with u0 := m.spareU, n0 := m.spareN, spare := 100 } }
  let m := m.updDev fun d => { d with loaded := true }
  (m.askNonce integSlot).urgency

/-! ### Volume commands (R138 to R141) -/

/-- A command of a volume that passed validation and has not completed. -/
def Mach.volBusy (m : Mach) (v : Vid) : Bool :=
  m.q.used.any fun s =>
    let c := m.cmd s
    entVol c.entry == v && (c.stage == .blocked || c.stage == .admitted || c.stage == .running || c.stage == .committed)

/-- The map extent of a volume is set UNMAPPED, and what waited for its entries is superseded. -/
def Mach.unmapExtent (v : Vid) (m : Mach) : Mach :=
  let cs := (m.volu v).chunks
  let mine (i : Nat) : Bool := cs.contains (i / 65536)
  let m := m.each ((m.vol.map.filter fun e => mine e.1).map (·.1)) fun i m => m.setEntry i unmapped
  let gone := m.vol.waiting.filter fun w => mine w.entry
  let m := m.updVol fun x => { x with inst := x.inst.filter fun e => !mine e.1, waiting := x.waiting.filter fun w => !mine w.entry }
  m.each (gone.filterMap (·.ver)) fun id m => (m.bump Reg.MAP_SUPERSEDED).dropVer id

/-- Buffered versions of a volume are discarded, save those being programmed, which are superseded when confirmed (R248). -/
def Mach.discardVersions (v : Vid) (m : Mach) : Mach :=
  (m.updBuf fun b => { b with vers := b.vers.filter fun x => x.vol != v || x.st == .placed }).observeBuf

/-- The work of a volume's command, once no validated command of the volume is left; its DEFINITION record is asked for. -/
def Mach.volWork (v : Vid) (m : Mach) : Mach :=
  let x := m.volu v
  if x.op.isNone || x.worked || m.volBusy v then m
  else
    let m := (m.unmapExtent v).discardVersions v
    let y := { m.volu v with fmtWsn := m.buf.wsn }
    let m := m.setVol v { y with
      layout1 := y.newLayout1, enc := y.newEnc, keySlot := if y.newEnc then y.newKey else 0, worked := true }
    (m.updHdl fun h => { h with marks := SMap.put h.marks v.val { y with internal := false } }).askDefinition (.volume v)

/-- The volumes' commands go on; what a start-up repeats waits for IO_READY (R140). -/
def Mach.volProgress (m : Mach) : Mach := if m.ioUp || !m.dev.formatted then m.each (List.finRange 64) Mach.volWork else m

/-- A command of a volume begins: FORMATTING, its FMTWSN, and the mark by which a later start-up finds it (R140). -/
def Mach.volBegin (v : Vid) (x : Vol) (m : Mach) : Mach :=
  let x := { x with st := .formatting, fmtWsn := m.buf.wsn, worked := false, internal := false }
  ((m.setVol v x).updHdl fun h => { h with marks := SMap.put h.marks v.val x }).volWork v

/-- The twin's RESULT is awaited for a FORMAT or DELETE of a volume (R393). -/
def Mach.volAwaitsTwin (m : Mach) (v : Vid) : Bool := m.twn.wait.any fun w => w.vol == v && (w.op == 6 || w.op == 7)

/-- The RESULT that the partner is owed for a volume (R393). -/
def Mach.twnResult (v : Vid) (status : Nat) (m : Mach) : Mach :=
  if m.twn.owed.contains v then
    (m.updTwn fun t => { t with owed := t.owed.filter (· != v) }).twnCtrl 3 v status (m.volu v).fence 0 0 0
  else m

/-- The DEFINITION record and root that end a volume's command are durable (Table 06.9). On the first format the boot record is
marked, and the controller moves to IO_READY (R65). -/
def Mach.volEnd (v : Vid) (m : Mach) : Mach :=
  let x := m.volu v
  if x.op.isNone then m
  else
    let m := (m.setVol v x.ended).updHdl fun h => { h with marks := SMap.del h.marks v.val }
    let m := if m.dev.formatted then m
      else ((m.updDev fun d => { d with formatted := true, unformatted := false }).enterIo)
    let m := m.twnResult v St.success
    if x.internal || m.volAwaitsTwin v then m else m.endBg St.success

/-- Is a lamp region bound to a volume, or about to be? -/
def Mach.regionBound (m : Mach) (v : Vid) : Bool :=
  m.lamp.reg.any (fun e => e.2.defined && e.2.vol == v) ||
    m.hdl.waiters.any fun w => match w.2.2 with
      | .region _ _ r => r.defined && r.vol == v
      | .regionAlone _ r => r.defined && r.vol == v
      | _ => false

/-- Is a key slot bound to a volume other than v? -/
def Mach.slotBound (m : Mach) (v : Vid) (k : Nat) : Bool :=
  (List.finRange 64).any fun u => u != v && (m.volu u).st != .absent && (m.volu u).enc && (m.volu u).keySlot == k

/-- The device row of Table 06.8, for CREATE and FORMAT: both are taken on an unformatted device in ADMIN_READY (R63). -/
def Mach.volGated (m : Mach) : Bool :=
  m.mailGated && !(m.dev.st == .adminReady && m.dev.unformatted && m.dev.phase == .idle)

/-- The key rows of Table 06.8. -/
def Mach.volKeyRefusal (m : Mach) (x : VolArgs) : Option Nat :=
  if !x.enc then none
  else if (m.kslot (x.keySlot % 1024)).st == .empty then some St.keySlotEmpty
  else if m.slotBound x.vol (x.keySlot % 1024) then some St.invalidField
  else none

/-- POPERR as R21 checks it at the first format. -/
def Mach.checkPopulation (m : Mach) : Mach :=
  if m.dev.unformatted && !m.dev.loaded then m.health fun h => { h with popErr := m.population } else m

/-- USERCAP for the checks: what the first format would fix. -/
def Mach.capForCheck (m : Mach) : Nat := if m.dev.loaded then m.vol.usercap else m.userCapNow

/-- The first refusal of Table 06.8 for CREATE, with R26 and R422 behind it. -/
def Mach.createRefusal (m : Mach) (x : VolArgs) : Option Nat :=
  if m.adm.health.popErr != 0 then some St.invalidField
  else if (m.volu x.vol).st != .absent then some St.invalidField
  else if x.size = 0 then some St.invalidField
  else if x.size % 262144 != 0 || m.capForCheck < m.allocCap + x.size then some St.noSpace
  else match m.volKeyRefusal x with
    | some e => some e
    | none =>
      if m.buf.limit then some St.noSpace
      else if !m.dramFits (m.capForCheck / 4) m.adm.now.wbufGib m.descBytes then some St.invalidField
      else none

/-- The first refusal for FORMAT. -/
def Mach.formatRefusal (m : Mach) (x : VolArgs) : Option Nat :=
  let v := m.volu x.vol
  if m.adm.health.popErr != 0 then some St.invalidField
  else if v.st == .absent || v.st == .formatting then some St.invalidField
  else if x.size != 0 then some St.invalidField
  else if m.regionBound x.vol then some St.invalidField
  else match m.volKeyRefusal x with
    | some e => some e
    | none =>
      if v.mirrored && !v.owner then some St.notOwner
      else if v.mirrored && !m.partnerPresent then some St.twinUnavailable
      else none

/-- The first refusal for DELETE. -/
def Mach.deleteRefusal (m : Mach) (u : Vid) : Option Nat :=
  let v := m.volu u
  if v.st == .absent || v.st == .formatting then some St.invalidField
  else if m.regionBound u then some St.invalidField
  else if m.twn.lone.contains u then none
  else if v.mirrored && !v.owner then some St.notOwner
  else if v.mirrored && !m.partnerPresent then some St.twinUnavailable
  else none

/-- The chunks of a new volume: free ones in ascending order. -/
def Mach.takeChunks (m : Mach) (size : Nat) : List Nat := m.freeChunks.take (size / 262144)

/-- VOLUME_CREATE is accepted. -/
def Mach.createAccepted (x : VolArgs) (m : Mach) : Mach :=
  let m := if m.dev.loaded then m else m.firstFormat
  m.volBegin x.vol { size := x.size, chunks := m.takeChunks x.size, op := some .create, newLayout1 := x.layout1, newEnc := x.enc,
                     newKey := x.keySlot % 1024 }

/-- The owner of a mirrored volume has the mirror repeat a FORMAT or DELETE before the command completes (R393). -/
def Mach.twinRepeat (p : Port) (op : Nat) (v : Vid) (layout : Nat) (arg : Nat) (m : Mach) : Mach :=
  let x := m.volu v
  if !x.mirrored || m.twn.lone.contains v then m
  else (m.twnAwait { port := p, op := op, vol := v, fence := 0, arg := arg, was := x.twin }).twnCtrl op v arg x.fence 0 0 layout

/-- LAYOUT of a CTRL frame. -/
def layoutBits (layout1 enc : Bool) : Nat := (if layout1 then 1 else 0) + (if enc then 2 else 0)

def Mach.formatAccepted (p : Port) (x : VolArgs) (m : Mach) : Mach :=
  let v := m.volu x.vol
  let m := m.twinRepeat p 6 x.vol (layoutBits x.layout1 x.enc) v.pkeySlot
  m.volBegin x.vol { v with op := some .format, newLayout1 := x.layout1, newEnc := x.enc, newKey := x.keySlot % 1024 }

def Mach.deleteAccepted (p : Port) (u : Vid) (m : Mach) : Mach :=
  let v := m.volu u
  let m := m.twinRepeat p 7 u 0 0
  m.volBegin u { v with op := some .delete, newLayout1 := v.layout1, newEnc := false, newKey := 0 }

end Sys2Proof.Machine
end

