-- ==== Sys2Proof/Machine/PairOps.lean ====
section
/-! DEFINITION. The loss and return of the twin partner, ownership and fence epochs (R381 to R395), and the retirement of a key
(R333). -/

namespace Sys2Proof.Machine

/-! ### Fence epochs (R383) -/

/-- A later fence epoch, with the role and state it brings, waits for its DEFINITION record. -/
def Mach.pendEpoch (v : Vid) (e : Nat) (owner : Bool) (t : TwinSt) (m : Mach) : Mach :=
  (m.setVol v { m.volu v with pendFence := some (e, owner, t) }).askDefinition (.takeover v)

/-- Host commands of a volume short of their commit point end with NOT_OWNER (R393, Table 17.6, R390). -/
def Mach.notOwnerCut (v : Vid) (m : Mach) : Mach :=
  m.each (m.q.used.filter fun s => let c := m.cmd s
    c.kind == .host && entVol c.entry == v && c.short && c.stage != .waiting) fun s m => m.cutShort s St.notOwner

/-- The regions of a volume. -/
def Vol.regions (v : Vol) : List Nat := regionsOf 0 v.size

/-- Transfers sent for a volume and not yet answered. -/
def Mach.txOf (m : Mach) (v : Vid) : Bool :=
  m.twn.tx.any fun e => match e.2 with
    | .cmd s => entVol (m.cmd s).entry == v
    | .resync u _ => u == v
    | .copy u _ => u == v
    | .flush _ u _ => u == v
    | .durable u _ => u == v

/-- Step 3 of Table 17.6: with its last WACK in, the former owner sends TAKE_ACK and is IN_SYNC as mirror. -/
def Mach.takeAckCheck (v : Vid) (m : Mach) : Mach :=
  let x := m.volu v
  if x.twin == .handover && !x.owner && x.pendFence.isNone && m.twn.giving.contains v && !m.txOf v then
    ((m.setVol v { x with twin := .inSync }).updTwn fun t => { t with giving := t.giving.filter (· != v) }).twnCtrl 5 v 0 x.fence 0 0 0
  else m

/-- Slots of a volume's resync pieces. -/
def Mach.pieceSlots (m : Mach) (v : Vid) : List Nat :=
  m.q.used.filter fun s => (m.cmd s).kind == .resync && entVol (m.cmd s).entry == v

/-- Resync pieces of a volume that are not sent yet are given up, and its walk is over; their regions stay dirty. -/
def Mach.dropPieces (v : Vid) (m : Mach) : Mach :=
  (m.each (m.pieceSlots v) fun s m => ((m.release s).forgetReads s).freeSlot s).setRs v {}

/-- The number of a twin state (Table 17.4). -/
def twinNum (t : TwinSt) : Nat :=
  match t with
  | .none => 0
  | .inSync => 1
  | .resyncing => 2
  | .lost => 3
  | .stale => 4
  | .handover => 5

/-- ROLE of a VOLSTATE frame (Table 17.3). -/
def Vol.role (v : Vol) : Nat :=
  (if v.mirrored then 1 else 0) + (if v.owner then 2 else 0) + (if v.mapValid then 4 else 0) + 8 * twinNum v.twin

def Mach.sendVolstate (v : Vid) (m : Mach) : Mach :=
  let x := m.volu v
  m.twnCtrl 1 v 0 x.fence x.role x.size 0

/-- The twin state that an epoch brings, where the partner has been lost meanwhile. -/
def TwinSt.alone (t : TwinSt) (owner : Bool) : TwinSt :=
  if owner then .lost
  else match t with
    | .handover => .stale
    | .resyncing => .stale
    | x => x

/-- Mailbox operations that a fence epoch's durability completes: TWIN_TAKEOVER where it makes this controller owner, else DEMOTE. -/
def Mach.epochAnswers (v : Vid) (owner : Bool) (m : Mach) : Mach :=
  m.each (m.twn.wait.filter fun w => w.vol == v && (if owner then w.op == 4 else w.op == 3)) fun w m => w.reply (fun p m => m.ok p []) (m.twnUnwait w)

/-- A fence epoch is durable: it takes effect. A takeover completes; a former owner may be able to hand over; a controller that adopted
its partner's epoch says so. -/
def Mach.epochDurable (v : Vid) (m : Mach) : Mach :=
  let x := m.volu v
  match x.pendFence with
  | none => m
  | some (e, o, t) =>
    let t := if m.partnerPresent then t else t.alone o
    let m := m.setVol v { x with fence := max x.fence e, owner := o, twin := t, pendFence := none }
    let m := if o then m else (m.notOwnerCut v).dropPieces v
    let m := m.epochAnswers v o
    let m := if t == .resyncing && !o then m.sendVolstate v else m
    (m.takeAckCheck v).settleDev

/-- The partner holds a later epoch: this controller adopts it and becomes mirror; its lamp pages of the volume go dark, and commands
short of their commit point end with NOT_OWNER (R390, R391). -/
def Mach.learnEpoch (v : Vid) (e : Nat) (t : TwinSt) (m : Mach) : Mach :=
  if (m.volu v).pendFence.any fun p => decide (e ≤ p.1) then m
  else ((m.notOwnerCut v).darkRegions v).pendEpoch v e false t

/-! ### Loss of the partner (R381, R389, R390) -/

/-- What one mirrored volume becomes. -/
def Vol.atLoss (v : Vol) : Vol :=
  let v := { v with dirty := unionNat v.unconf v.dirty, unconf := [] }
  if v.owner then { v with twin := .lost }
  else if v.twin == .inSync then { v with twin := .lost }
  else { v with twin := .stale }

/-- Mirrored writes past their commit point, and FLUSHes, no longer wait for the partner; with PARTNER_LOST 1 the writes do. -/
def Mach.dropPartner (m : Mach) : Mach :=
  let hold := m.adm.now.partnerLost = 1
  let m := m.each m.q.used fun s m =>
    let c := m.cmd s
    if c.kind == .touch || (hold && c.kind == .host && entOpc c.entry != opFlush) then m
    else m.setCmd s { c with xid := none, cover := c.cover.filter fun x => match x with
      | .partner _ => false
      | _ => true }
  m.settleCovers

/-- A mailbox operation that waits for the partner ends, or a takeover goes on as with the partner lost. DEMOTE needs no partner. -/
def Mach.waitLost (w : TwinWait) (m : Mach) : Mach :=
  if w.op = 3 then m
  else if w.op = 4 then m.pendEpoch w.vol w.fence true .lost
  else
    let m := m.twnUnwait w
    if w.op = 6 ∨ w.op = 7 then
      (m.setVol w.vol { m.volu w.vol with internal := (m.volu w.vol).op.isSome }).endBg St.twinUnavailable
    else w.reply (fun p m => m.refuse p St.twinUnavailable) m

/-- The regions of DURABLEs that were not answered are unconfirmed still (Table 17.8). -/
def Mach.durableBack (m : Mach) : Mach :=
  m.each m.twn.tx fun e m =>
    match e.2 with
    | .flush _ v rs => m.setVol v { m.volu v with unconf := unionNat rs (m.volu v).unconf }
    | .durable v rs => m.setVol v { m.volu v with unconf := unionNat rs (m.volu v).unconf }
    | _ => m

def Mach.partnerLost (m : Mach) : Mach :=
  if !m.twn.present then m
  else
    let m := m.durableBack
    let m := m.updTwn fun t => { t with present := false, unacked := [], waiting := [], order := [], tx := [], rx := [], rxWait := [],
                                         owed := [], giving := [], lone := [], ctlOut := [], nakSent := false, txSeq := 0, rxSeq := 0 }
    let m := (m.bump Reg.TWN_LOSTCNT).raise .twn 16 0
    let m := m.each ((List.finRange 64).filter fun v => (m.volu v).mirrored) fun v m =>
      (m.setVol v (m.volu v).atLoss).dropPieces v
    let m := m.dropPartner
    (m.each m.twn.wait Mach.waitLost).settleDev

/-! ### The partner returns (R381, R391) -/

/-- The dirty map as RSMAP frames of 1,856 regions each (Table 17.3). -/
def Mach.sendRsmap (v : Vid) (m : Mach) : Mach :=
  let x := m.volu v
  let n := (x.regions.length + 1855) / 1856
  m.each (List.range n) fun i m =>
    m.twnCtl ([8, v.val, 1856 * i] ++ (x.dirty.filter fun r => r / 1856 == i).map (· % 1856))

/-- The partner is present again: VOLSTATE for every mirrored volume. -/
def Mach.partnerBack (m : Mach) : Mach :=
  if m.twn.present then m
  else
    let m := m.updTwn fun t => { t with present := true, mismatch := false }
    (m.each ((List.finRange 64).filter fun v => (m.volu v).mirrored) fun v m => m.sendVolstate v).settleDev

/-- Both copies are current: IN_SYNC, told to the mirror, and writes that were held for the regions complete (Table 17.5). -/
def Mach.inSync (v : Vid) (m : Mach) : Mach :=
  let m := (m.setVol v { m.volu v with twin := .inSync, dirty := [], mapValid := true }).sendVolstate v
  let awaited (x : Cover) : Bool := match x with
    | .partner i => m.twn.tx.any fun e => e.1 == i
    | _ => true
  let m := m.each (m.q.used.filter fun s => entVol (m.cmd s).entry == v) fun s m =>
    let c := m.cmd s
    if c.cover.all awaited then m else m.setCmd s { c with xid := none, cover := c.cover.filter awaited }
  m.settleCovers

/-! ### KEY_RETIRE (R333) -/

/-- Commands in flight of a volume end with KEY_SLOT_EMPTY. -/
def Mach.keyCut (v : Vid) (m : Mach) : Mach :=
  m.each (m.q.used.filter fun s => entVol (m.cmd s).entry == v && (m.cmd s).stage != .fetching && (m.cmd s).stage != .waiting)
    fun s m => m.cutShort s St.keySlotEmpty

/-- Staged copies of a volume are discarded (Table 14.4). -/
def Mach.discardCopies (v : Vid) (m : Mach) : Mach :=
  m.updGln fun g => { g with copies := g.copies.filter fun c => c.vol != v || c.flying }

/-- Steps 1 and 2 of R333 for a bound volume: its extent is unmapped as by a format, FMTWSN and all. -/
def Mach.retireVol (v : Vid) (m : Mach) : Mach :=
  let m := ((((m.faultVol v).keyCut v).discardVersions v).discardCopies v).unmapExtent v
  m.setVol v { m.volu v with fmtWsn := m.buf.wsn }

/-- Volumes bound to a slot. -/
def Mach.boundVols (m : Mach) (k : Nat) : List Vid :=
  (List.finRange 64).filter fun v => (m.volu v).st != .absent && (m.volu v).enc && (m.volu v).keySlot == k

/-- Steps 1 to 3: the slot is EMPTY, its keys gone. -/
def Mach.zeroiseSlot (k : Nat) (m : Mach) : Mach :=
  let m := m.each (m.boundVols k) Mach.retireVol
  ((m.setKslot k {}).updKey fun t => { t with scrub := true }).touch .key

end Sys2Proof.Machine
end

