-- ==== Sys2Proof/Machine/ResetOps.lean ====
section
/-! DEFINITION. What a device reset keeps and clears (R55, Table 03.1), what a stop leaves of programs in flight (R293, R294), the
power domains (R351), and the reset of one port (R71). -/

namespace Sys2Proof.Machine

/-! ### What the stop leaves on flash -/

/-- Is an operation on its die when the controller stops, and does the die finish it? -/
def Mach.endsWell (m : Mach) (o : Op) : Bool := o.issued && Config.survives m.free o.id

/-- A program that a power loss cuts off: its page reads as failed, and so do the pages that share its cells, which the manual does not
name (R294). -/
def Mach.cutPage (pg : PagePgm) (m : Mach) : Mach :=
  let m := m.storePage { pg with cws := pg.cws.map fun _ => { kind := .raw, gone := true } }
  let d := dieOf pg.chan (pg.furrow / 4096)
  let hit (k : Nat) : Bool := inSite d (m.memberBlock pg.chan pg.furrow) none (BitVec.ofNat 40 k) && Config.sharesCells m.free k
  m.updFl fun f => { f with cw := f.cw.map fun e => if hit e.1 then (e.1, { e.2 with gone := true }) else e }

/-- Programs in flight end, or with the power are cut off, and so are running erases. -/
def Mach.landOps (power : Bool) (m : Mach) : Mach :=
  m.each m.fl.ops fun o m =>
    match o.kind with
    | .program p =>
      match m.buf.pgms.find? fun x => x.id == p with
      | some pg => if m.endsWell o then m.storePage pg else if power && o.issued then m.cutPage pg else m
      | none => m
    | .erase b _ => if o.issued then m.destroy o.dieIx b none else m
    | .svc code x =>
      if !o.issued then m
      else if code = codeErase then
        (m.erasePlanes o.dieIx x).updFl fun f => { f with cut := f.cut ++ [(o.dieIx, x.block)] }
      else if code = codeProgram ∨ code = codeNested then m.rawProgram o x (m.endsWell o)
      else m
    | _ => m

/-- Does a headland record stand after the stop: its pages confirmed, or its program ended well? -/
def Mach.recStands (m : Mach) (r : HRec) : Bool :=
  !r.flying || m.fl.ops.any fun o => (match o.kind with | .headland id _ => id == r.id | _ => false) && m.endsWell o

/-- The headland log as it stands: a root counts only behind records that all stand. Newest roots first. -/
def Mach.landLog (m : Mach) : Mach :=
  let step (a : List HRec × List Ckpt × Bool) (r : HRec) : List HRec × List Ckpt × Bool :=
    if !m.recStands r then (a.1, a.2.1, false)
    else
      let r' := { r with flying := false, durable := true }
      match r.body with
      | .root k => if a.2.2 then (a.1 ++ [r'], if r.durable then a.2.1 else k :: a.2.1, a.2.2) else a
      | _ => (a.1 ++ [r'], a.2.1, a.2.2)
  let x := m.hdl.log.foldl step ([], m.hdl.roots, true)
  m.updHdl fun h => { h with log := x.1, roots := x.2.1 }

/-- Are the furrow tables complete, so that they tell what the flash holds? -/
def Mach.tablesKnown (m : Mach) : Bool := m.dev.loaded && (m.dev.startRoot || m.dev.stage == 10)

/-- Everything in flight on the flash when the controller stops. -/
def Mach.stop (power : Bool) (m : Mach) : Mach :=
  let m := ((m.landOps power).landLog).draw
  if m.tablesKnown then m.updFl fun f => { f with scan := m.gln.fur.map fun e => (e.1, e.2.stripes) } else m

/-! ### What is kept -/

def Dev.kept (d : Dev) (cause : Nat) : Dev :=
  { pwrgd := d.pwrgd, resetN := d.resetN, pfailN := d.pfailN, cause := bit32 cause, strap := d.strap, formatted := d.formatted,
    mclk := d.mclk, qclk := d.qclk, aclk := d.aclk, twclk := d.twclk, fclk := d.fclk }

/-- A transfer cut off leaves its slot invalid (R142, Table 03.7). -/
def Admin.slots (a : Admin) : PerPort FwSlot :=
  match a.xfer with
  | none => a.fw
  | some x => if x.slot = 0 then { a.fw with p0 := { a.fw.p0 with valid := false } } else { a.fw with p1 := { a.fw.p1 with valid := false } }

/-- Firmware slots, fuses and the counts kept from the first format stay; features are the persisted ones. -/
def Admin.kept (a : Admin) (d : Option Defn) : Admin :=
  { fw := a.slots, active := a.active, svFloor := a.svFloor, board := a.board,
    health := { a.health with tripSeen := false },
    now := (d.map (·.features)).getD {}, nxt := (d.map (·.features)).getD {}, serviceKey := d.bind (·.serviceKey) }

/-- Flash keeps what it stores; what it tells of the dies is learned and loaded again. -/
def Flash.kept (f : Flash) : Flash := { cw := f.cw, raw := f.raw, cut := f.cut, scan := f.scan }

def Headland.kept (h : Headland) : Headland :=
  { fur := h.fur, log := h.log, nextRec := h.nextRec, nextPos := h.nextPos, roots := h.roots, marks := h.marks,
    seg := (h.seg.map fun e => (e.1, ({ chain := e.2.chain, full := e.2.full } : Seg))).filter fun e => e.2 != {},
    sinceDir := h.sinceDir, dumpValid := h.dumpValid, dumpPartial := h.dumpPartial, dumped := h.dumped,
    dumpSeq := h.dumpSeq }

/-- Largest value of a field over the records of the rings. -/
def maxWord (l : List Word) : Word := BitVec.ofNat 32 (greatest (l.map (·.toNat)))

/-- The serially greatest SEQ of some records. -/
def lastSeq (l : List AlmRec) : Option Word := (sortRecs l).reverse.head?.map (·.seq)

/-- The accumulator of a quantity as its newest snapshot holds it (R363). -/
def snapshotAccum (l : List AlmRec) (qty : Nat) : Accum :=
  match (sortRecs (l.filter fun r => r.body.isQty qty)).reverse.head? with
  | some r =>
    match r.body with
    | .snapshot _ _ sat bins mn mx potMn potMx =>
      let t := (indexed 0 bins).foldl (fun (t : SMap Nat) e => SMap.set 0 t e.1 e.2) []
      { bins := t, sat := sat, seen := bins.any (· != 0) || mn != 0 || mx != 0 || potMn != 0 || potMx != 0, mn := mn, mx := mx,
        potMn := potMn, potMx := potMx }
    | _ => {}
  | none => {}

/-- The Almanac after a device reset: the working ring is lost at power-on, else each record of it that still passes its CRC-32C is
kept; POT, PCC, SEQ and the accumulators resume from what the rings hold (R363 to R365). -/
def Alm.kept (a : Alm) (power : Bool) (stands : Word → Bool) : Alm :=
  let ring := if power then [] else a.ring.filter fun e => stands e.2.seq
  let l := ring.map (·.2) ++ a.pers
  let acc := quantities.foldl (fun (t : SMap Accum) q => SMap.set {} t q.1 (snapshotAccum l q.1)) []
  { ring := ring, pers := a.pers, nextSeq := ((lastSeq l).map (· + 1)).getD 0, acc := acc,
    pot := if power then maxWord (l.map (·.pot)) else a.pot
    pcc := if power then maxWord (l.map (·.pcc)) else a.pcc
    lastPot := if power then maxWord (l.map (·.pot)) else a.lastPot }

/-- A port between resets of the device: only its PERST_N level; `n` answers had been sent (R87). -/
def PortSt.kept (p : PortSt) (n : Nat) : PortSt := { perst := p.perst, training := !p.perst, mboxFrom := n }

/-- The device reset: `power` where power was lost, `cause` the bit of DEV_RST_CAUSE. -/
def Mach.deviceReset (power : Bool) (cause : Nat) (m : Mach) : Mach :=
  let m := m.discardAllHeld.stop power
  let d := m.hdl.roots.head?.map (·.defn)
  { dev := m.dev.kept cause
    port := { p0 := m.port.p0.kept m.out.length, p1 := m.port.p1.kept m.out.length }
    adm := m.adm.kept (if m.dev.formatted then d else none)
    fl := m.fl.kept
    hdl := if m.dev.formatted then m.hdl.kept else {}
    alm := m.alm.kept power fun q => Config.recordStands m.free q.toNat
    drc := if m.dev.formatted then spareDrc ((d.map (·.spare)).getD []) else []
    tap := m.tap
    out := m.out
    free := m.free }

/-! ### Power domains (R351 to R353) -/

/-- The pages of a domain. -/
def domainPages (i : Nat) : List Page := allPages.filter fun p => pageDomain p == i

/-- A domain is on: its pages are STOPPED. -/
def Mach.domainOn (i : Nat) (m : Mach) : Mach :=
  let m := m.updThm fun t => { t with domOn := t.domOn ||| BitVec.ofNat 49 (2 ^ i) }
  m.each (domainPages i) fun p m => m.setPageSt p .stopped

/-- A domain is off: its pages are OFF. -/
def Mach.domainOff (i : Nat) (m : Mach) : Mach :=
  let m := m.updThm fun t => { t with domOn := t.domOn &&& ~~~(BitVec.ofNat 49 (2 ^ i)) }
  m.each (domainPages i) fun p m => m.setPageSt p .off

def Mach.domainIsOn (m : Mach) (i : Nat) : Bool := m.thm.domOn.getLsbD i

/-- Start-up powers a domain that is off. -/
def Mach.powerUp (i : Nat) (m : Mach) : Mach := if m.domainIsOn i then m else m.domainOn i

/-- The registers of a page take their reset values, the selects of every agent among them. -/
def Mach.resetPage (p : Page) (m : Mach) : Mach :=
  let mine (k : Nat) : Bool := k % 0x800000 / 0x1000 == p.base / 0x1000
  (m.updReg fun g => { g with
    r := g.r.filter fun e => !mine e.1
    c64 := g.c64.filter fun e => !mine e.1
    low := g.low.filter fun e => !mine e.1 }).setHdr p {}

/-- The domain is on: its blocks hold no state but what they reload at START. GLN_RATED keeps the value of R275. -/
def Mach.domComesOn (d : Nat) (m : Mach) : Mach :=
  let m := (m.each (domainPages d) Mach.resetPage).domainOn d
  if d = 13 then m.wr Reg.GLN_RATED (BitVec.ofNat 32 m.gln.rated) else m

/-- A switch finishes. -/
def Mach.switchEnd (m : Mach) : Mach :=
  match m.thm.switching with
  | none => m
  | some (d, on) =>
    let m := m.updThm fun t => { t with switching := none }
    (if on then m.domComesOn d.val else m.domainOff d.val).bump Reg.PWR_SWITCHES

/-- A page that start-up brings up early goes to RUNNING. -/
def Mach.bringUp (p : Page) (m : Mach) : Mach := if m.pageSt p == .stopped then m.setPageSt p .running else m

/-! ### Ports (R70, R71, R99) -/

/-- Commands of a port's queues: those short of their commit point are abandoned, those past it run on without a completion. -/
def Mach.dropPortCmds (p : Port) (m : Mach) : Mach :=
  m.each (m.q.used.filter fun s => (m.cmd s).port == some p && (m.cmd s).kind == .host) fun s m =>
    let c := m.cmd s
    if c.stage == .committed then m.setCmd s { c with qid := none, port := none }
    else
      let m := m.setCmd s { c with qid := none, kind := .host, port := none, todo := [], cover := [], covering := false }
      let m := if entOpc c.entry == opLight then m.pendlRange (entVol c.entry) (entSlba c.entry) (entCount c.entry) else m
      ((m.release s).forgetReads s).freeSlot s

/-- The queue pairs of a port are deleted. -/
def Mach.dropPortQueues (p : Port) (m : Mach) : Mach :=
  let gone (e : Nat × Qp) : Bool := e.2.port == p && e.2.st != .absent
  let ids := (m.q.qp.filter gone).map (·.1)
  m.updQ fun q => { q with
    qp := q.qp.filter fun e => !gone e
    fetches := q.fetches.filter fun f => !ids.contains f.qid.val
    aborts := q.aborts.filter fun a => a.1 != p }

/-- The PORT page's registers take their reset values; its header keeps the page's state. -/
def Mach.resetPortPage (p : Port) (m : Mach) : Mach :=
  let b := (Page.port p).base
  let mine (k : Nat) : Bool := k / 0x1000 == b / 0x1000
  let h := m.hdr (.port p)
  (m.updReg fun g => { g with
    r := g.r.filter fun e => !mine e.1
    c64 := g.c64.filter fun e => !mine e.1
    low := g.low.filter fun e => !mine e.1 }).setHdr (.port p) { h with err := 0, mask := 0, seq := 0, gen := 0 }

/-- An open Transfer FW of the port is abandoned, and its slot is invalid. -/
def Mach.dropTransfer (p : Port) (m : Mach) : Mach :=
  match m.adm.xfer with
  | some x => if x.port == p then m.updAdm fun a => { a with fw := a.slots, xfer := none } else m
  | none => m

/-- The viral condition ends when every port that received viral has been through a port reset (R96). -/
def Mach.viral (m : Mach) : Bool := m.port.p0.viralRx || m.port.p1.viralRx

/-- The reset of one port (Table 03.1). -/
def Mach.portReset (p : Port) (m : Mach) : Mach :=
  let x := m.port.get p
  let m := ((m.dropMailbox p).dropPortCmds p).dropPortQueues p
  let m := (m.dropTransfer p).resetPortPage p
  let m := m.updPort p fun _ => { perst := x.perst, everUp := x.everUp, training := x.training, mboxFrom := m.out.length }
  (m.muteReqs p).settleDev

end Sys2Proof.Machine
end

