-- ==== Sys2Proof/Machine/BootOps.lean ====
section
/-! DEFINITION. Start-up (R60 to R67, R290 to R292): its steps, the load of the headland, and the replay. -/

namespace Sys2Proof.Machine

/-! ### Steps 1 to 5 -/

/-- Step 1 can end: power and reset released, ACLK and MCLK locked, the part not in test mode (R435). -/
def Mach.canBoot (m : Mach) : Bool :=
  m.dev.st == .boot && m.dev.stage == 0 && m.dev.bootErr == 0 && m.dev.pwrgd && m.dev.resetN && !m.dev.resetHeld && m.dev.mclk &&
    m.dev.aclk && !m.adm.board.testMode

/-- Step 1 ends: the boot ROM powers PD_CXL0, PD_CXL1 and PD_KEY. -/
def Mach.bootGo (m : Mach) : Mach :=
  if m.canBoot then (((m.powerUp 3).powerUp 4).powerUp 1).updDev fun d => { d with stage := 1 } else m

/-- BOOT_SEL is sampled (R60); a reserved value behaves as NORMAL, with a NOTICE. -/
def Mach.sampleStraps (v : BitVec 3) (m : Mach) : Mach := m.updDev fun d => { d with strap := v }

def Dev.strapN (d : Dev) : Nat := d.strap.toNat
def Dev.isRecovery (d : Dev) : Bool := d.strapN == 3
def Dev.isHold (d : Dev) : Bool := d.strapN == 4
def Dev.isSafeRate (d : Dev) : Bool := d.strapN == 5

/-- The slot that the strap names, where it names one alone. -/
def Dev.onlySlot (d : Dev) : Option (Fin 2) := if d.strapN = 1 then some 0 else if d.strapN = 2 then some 1 else none

/-- A reset that the controller itself ends: BOOT_SEL is sampled as its pins stand by then, and start-up begins (R60, R61). -/
def Mach.restart (cause : Nat) (m : Mach) : Mach :=
  let m := m.deviceReset false cause
  (if m.dev.resetN then (m.sampleStraps (Config.bootSel m.free)).draw else m).bootGo

/-- Step 2 ends. -/
def Mach.fuseCheck (ok : Bool) (m : Mach) : Mach :=
  if m.dev.st != .boot || m.dev.stage != 1 || m.dev.bootErr != 0 then m
  else if ok then m.updDev fun d => { d with stage := 2, checking := true, tried := [] }
  else m.updDev fun d => { d with bootErr := 1 }

/-- The slot to check next. -/
def Mach.slotToCheck (m : Mach) : Fin 2 :=
  match m.dev.onlySlot with
  | some s => s
  | none => if m.dev.tried.isEmpty then m.adm.active else m.adm.active + 1

/-- A check of a slot's image: passes, or why not: 0 for its contents, 1 for its security version (R337). -/
def Mach.imageFault (m : Mach) (s : Fin 2) : Option Nat :=
  let w := if s = 0 then m.adm.fw.p0 else m.adm.fw.p1
  if !w.valid || !w.img.good then some 0 else if w.img.sv < m.adm.svFloor then some 1 else none

/-- The check of step 3 has passed: step 4 sets the write-protect bits of the T0 dies, or a restart's cores may run. No command of the
table ends step 4, so STAGE reads 3 or 4 until step 5 ends (`Dev.stageShown`). -/
def Mach.slotPassed (s : Fin 2) (m : Mach) : Mach :=
  let m := m.updDev fun d => { d with slot := s, recovery := d.isRecovery, checking := false, fallback := d.fallback || !d.tried.isEmpty }
  if m.dev.st == .boot then (m.updDev fun d => { d with stage := 3 }).updFl fun f => { f with wpT0 := 3 } else m

/-- No slot is left to try: the cores stay in reset with DEV_BOOT.ERR (Table 03.4). -/
def Mach.slotsFailed (err : Nat) (m : Mach) : Mach :=
  m.updDev fun d => { d with bootErr := err, checking := false, fwHalt := d.st != .boot }

/-- The groups that hold the boot blocks, on CH0 to CH2 and CH16 to CH18 (R61, Table 12.1). -/
def bootChans : List Chan := (List.finRange 32).filter fun c => c.val / 4 == 0 || c.val / 4 == 4

/-- The boot ROM reads the boot blocks at 400 MT/s before the channels train (R61, R178). -/
def Mach.bootRate (m : Mach) : Mach :=
  if m.dev.st == .boot then m.each bootChans fun c m => m.setChn c { m.chn c with rate := 1 } else m

/-- Step 3 of a start-up, or of a watchdog restart (R58, R62). -/
def Mach.slotCheck (r : SlotRead) (m : Mach) : Mach :=
  if !m.dev.checking then m
  else
  let m := m.bootRate
  if r == .noBootBlocks then m.slotsFailed 6
  else if m.dev.isRecovery then
    if r == .read then m.slotPassed 0 else m.slotsFailed 7
  else
    let s := m.slotToCheck
    match (if r == .unreadable then some 0 else m.imageFault s) with
    | none =>
      let m := m.slotPassed s
      if m.dev.tried.isEmpty then m
      else (m.updDev fun d => { d with bootErr := if d.tried.contains 0 then 2 else 3 }).devEvent .warn 0x0104 0 []
    | some why =>
      match m.dev.onlySlot with
      | some s => m.slotsFailed (if why = 1 then 5 else 2 + s.val)
      | none =>
        if m.dev.tried.isEmpty then m.updDev fun d => { d with tried := [s] } else m.slotsFailed 4

/-- Step 5: management firmware runs and the mailbox answers; after a watchdog restart, it runs again. -/
def Mach.firmwareStart (m : Mach) : Mach :=
  if m.dev.checking || m.dev.fwRunning then m
  else if m.dev.st == .boot then
    if m.dev.stage != 3 then m
    else
      let m := m.each (List.range 49) Mach.powerUp
      let m := m.updDev fun d => { d with stage := 5, fwRunning := true }
      let m := m.each (allPages.filter fun p => pageDomain p ≤ 4 && p != .drg || pageDomain p == 16) Mach.bringUp
      let m := m.setDev .adminReady
      if 6 ≤ m.dev.strapN then m.devEvent .notice 0x0105 (BitVec.ofNat 64 m.dev.strapN) [] else m
  else if m.dev.fwHalt then m else m.updDev fun d => { d with fwRunning := true }

/-! ### Steps 6 and 7 -/

/-- Steps 6 to 10 fail or go on only while start-up has not ended. -/
def Mach.starting (m : Mach) (stage : Nat) : Bool := m.dev.st == .adminReady && m.dev.stage == stage

def Mach.ranks2 (m : Mach) : Bool := bitOf (m.rdN Reg.DRG_CFG) 5

/-- The lanes and directions of a channel: keys 10 × subrank + 2 × lane + direction, without the second rank where there is none. -/
def Mach.laneKeys (m : Mach) : List Nat := (List.range 40).filter fun k => m.ranks2 || k / 10 % 2 == 0

/-- The edges that training finds of each lane of each subchannel rank that there is, reading and writing: free values within what passing allows
(R307: 64 taps, a window of at least 20), the centre between them rounded down. -/
def Mach.learnEyes (d : Fin 4) (m : Mach) : Mach :=
  let eye (k : Nat) : Nat × Nat × Nat × Nat :=
    let l := Config.eyeEdge m.free (2 * k) % 44
    let r := l + 20 + Config.eyeEdge m.free (2 * k + 1) % (44 - l)
    ((l + r) / 2, (l + r) / 2, l, r)
  let t := m.laneKeys.foldl (fun (t : SMap (Nat × Nat × Nat × Nat)) k => SMap.put t k (eye k)) []
  (m.setDram d { m.dram d with trained := true, eye := t }).draw

/-- Step 6 on one channel. -/
def Mach.dramTrained (d : Fin 4) (ok : Bool) (m : Mach) : Mach :=
  if !m.starting 5 || m.dev.dramDone.getLsbD d.val then m
  else
    let m := m.updDev fun x => { x with dramDone := x.dramDone ||| BitVec.ofNat 4 (2 ^ d.val) }
    let m := if ok then (m.learnEyes d).bringUp (.drc d)
      else
        let m := m.updDev fun x => { x with dramFail := x.dramFail ||| BitVec.ofNat 4 (2 ^ d.val) }
        ((m.setPageSt (.drc d) .faulted).raise (.drc d) 2 0).raise (.drc d) 16 0
    if !ok then m.fail 2
    else if m.dev.dramDone = 15 then (m.updDev fun x => { x with stage := 6 }).bringUp .drg
    else m

/-- The four channels of a group. -/
def groupOf (c : Chan) : List Chan := (List.finRange 32).filter fun x => x.val / 4 == c.val / 4

/-- A group qualifies for the extended rate by its dies, FRATE_CAP and the strap (R179). -/
def Mach.groupQualifies (m : Mach) (cs : List Chan) : Bool :=
  m.adm.now.frateCap == 1 && !m.dev.isSafeRate && !m.dev.isRecovery && cs.all fun c => (m.chn c).extqual

/-- All four channels of a group run at one rate (R178). -/
def Mach.setRate (cs : List Chan) (r : Nat) (m : Mach) : Mach := m.each cs fun x m => m.setChn x { m.chn x with rate := r }

/-- A channel and pin whose window is too narrow, as the WARN record of a group names them (R179): the channel in bits [4:0] of its
argument, the pin in [8:5] (log entry 173). -/
def Mach.narrowPin (m : Mach) (cs : List Chan) : Nat :=
  ((cs.findSome? fun x => ((List.range 16).find? fun q => !((m.chn x).windows[q]?.any (wideEnough ·.2))).map fun q => x.val + 32 * q)).getD 0

/-- With its four channels trained, the rate of a group is fixed: 3 for 3,600 MT/s, else 2 (R178, R179). Deskew is a step of the
groups that qualify by capability (Table 08.3). -/
def Mach.fixRate (c : Chan) (m : Mach) : Mach :=
  let cs := groupOf c
  if !cs.all fun x => m.dev.flashDone.getLsbD x.val then m
  else if !m.groupQualifies cs then (m.each cs fun x m => m.setChn x { m.chn x with deskew := false, windows := [] }).setRate cs 2
  else if cs.all fun x => (m.chn x).deskew then m.setRate cs 3
  else (m.setRate cs 2).each cs fun x m => m.raise (.fch x) 20 (BitVec.ofNat 64 (m.narrowPin cs))

/-- What training learns of one die: its parameter page against the DIECAP section of the running slot (R182). -/
def Mach.learnDie (c : Chan) (i : ParamPage) (m : Mach) : Mach :=
  m.setDie (dieOf c i.row.val) { m.die (dieOf c i.row.val) with info := some (dieInfoOf i m.runSlot.img.diecap) }

/-- Does a die let its channel train: pages of at least 18,432 data bytes, and the device's geometry (R453), which is the one fixed at
the first format (Table 12.1)? -/
def Mach.dieFits (m : Mach) (i : ParamPage) : Bool :=
  let b := m.adm.board
  decide (18432 ≤ i.dataBytes) && (!m.dev.formatted || (i.planes == b.planes && i.pages == b.pages && i.blocks == b.blocks))

/-- A channel has trained: RUNNING, or FAULTED with PG_ERR.BLK bit 16 (R180). -/
def Mach.chanTrained (c : Chan) (t : ChanTraining) (m : Mach) : Mach :=
  if t.ok && t.dies.all m.dieFits then
    let m := m.each t.dies fun i m => m.learnDie c i
    let ws := t.windows.map centred
    (m.setChn c { m.chn c with
      trained := true, deskew := deskewPasses ws, windows := ws
      extqual := t.dies.all fun i => (dieInfoOf i m.runSlot.img.diecap).extrate }).bringUp (.fch c)
  else
    let m := m.updDev fun x => { x with flashFail := x.flashFail ||| bit32 c.val }
    ((m.setPageSt (.fch c) .faulted).raise (.fch c) 2 0).raise (.fch c) 16 0

/-- Before the first format GLN_RATED and the geometry follow what training read (R275). -/
def Mach.learnAll (m : Mach) : Mach :=
  let m := (m.wr Reg.HDL_SLCRATED (BitVec.ofNat 32 m.slcRatedNow)).learnTimes
  if m.dev.formatted then m else (m.learnBoard).wr Reg.GLN_RATED (BitVec.ofNat 32 m.ratedNow)

/-- Step 8 or step 9 follows; a part never formatted shows UNFORMATTED and stays in ADMIN_READY (R65), and so does one under RECOVERY.
DESIGN CHOICE (log entry 159): under RECOVERY no further step follows, and STAGE stays at 6, that of the last one. -/
def Mach.afterTraining (m : Mach) : Mach :=
  let m := (m.learnAll.almFlushPending).updDev fun x => { x with unformatted := !x.formatted }
  if m.dev.isRecovery then m
  else if m.dev.isHold then m.updDev fun x => { x with stage := 9 }
  else m.updDev fun x => { x with stage := if x.formatted then 7 else 10 }

/-- Step 7 on one channel. -/
def Mach.flashTrained (c : Chan) (t : ChanTraining) (m : Mach) : Mach :=
  if !m.starting 6 || m.dev.flashDone.getLsbD c.val then m
  else
    let m := m.updDev fun x => { x with flashDone := x.flashDone ||| bit32 c.val }
    let m := (m.chanTrained c t).fixRate c
    let m := if m.dev.flashDone = 0xFFFFFFFF then m.afterTraining else m
    let fails := (maskBits m.dev.flashFail).length
    if 2 < fails then m.fail 1 else m

/-- DEV_BOOTCTL.GO (R74). -/
def Mach.bootctlGo (m : Mach) : Mach :=
  if !m.starting 9 then m else m.updDev fun x => { x with stage := if x.formatted then 7 else 10 }

/-! ### Step 9: the load (R290) -/

/-- A volume as a start-up finds it: a mirrored one whole regions dirty, its partner not yet heard; one with a mark FORMATTING. -/
def Vol.loaded (v : Vol) (mark : Option Vol) : Vol :=
  let v := { v with op := none, worked := false, internal := false, unconf := [], pendFence := none,
                    mapValid := false, dirty := if v.mirrored then v.regions else [],
                    twin := if !v.mirrored then .none else if v.owner then .lost else .stale }
  match mark with
  | none => v
  | some x => { v with st := .formatting, op := x.op, newLayout1 := x.newLayout1, newEnc := x.newEnc, newKey := x.newKey,
                       fmtWsn := x.fmtWsn, chunks := x.chunks, size := x.size, internal := true }

/-- The definition holds the end of the command that a mark tells of: its DEFINITION record and root were durable (R140). -/
def Vol.endedIn (mark v : Vol) : Bool :=
  match mark.op with
  | some .delete => v.st == .absent
  | _ => v.st != .absent && v.fmtWsn == mark.fmtWsn

/-- Volumes of a definition and of the marks. -/
def loadedVols (d : Defn) (marks : SMap Vol) : SMap Vol :=
  (List.range 64).foldl (fun (t : SMap Vol) v =>
    let x := SMap.get {} d.vols v
    SMap.set {} t v (x.loaded (((marks.find? fun e => e.1 == v).map (·.2)).filter fun k => !k.endedIn x))) []

/-- The highest durable reservation of a slot for an epoch (R327). -/
def Mach.durableHwm (m : Mach) (k epoch : Nat) : Nat :=
  greatest (m.hdl.log.filterMap fun r => match r.body with
    | .nonce k' e h => if k' == k && e == epoch then some h else none
    | _ => none)

/-- A counter that resumes above everything reserved. -/
def resumed (epoch hwm : Nat) (key : BitVec 256) : KeySlot :=
  { st := .loaded, epoch := epoch, nonce := hwm, hwm := hwm, asked := hwm, key := key }

/-- The key store of a definition. -/
def Mach.loadedKeys (m : Mach) (d : Defn) : Keys :=
  { slot := d.keys.map fun e => (e.1, resumed e.2.1 (max e.2.2.1 (m.durableHwm e.1 e.2.1)) e.2.2.2.1)
    integ := resumed 0 (m.durableHwm integSlot 0) 0
    nextEpoch := d.nextEpoch
    devsalt := d.devsalt }

/-- Load a root. -/
def Mach.loadRoot (k : Ckpt) (m : Mach) : Mach :=
  let d := k.defn
  let m := m.updVol fun _ => { v := loadedVols d m.hdl.marks, map := k.map, usercap := d.usercap, entries := d.entries }
  let m := { m with key := m.loadedKeys d }
  let m := m.updGln fun _ => { fur := k.fur, rated := d.rated.getD 3000, ratedSaved := d.rated }
  let m := m.wr Reg.GLN_RATED (BitVec.ofNat 32 (d.rated.getD 3000))
  let m := m.updFl fun f => { f with
    blk := k.blk, retired := d.retired
    die := k.bad.foldl (fun t e => SMap.set {} t e.1 { SMap.get {} t e.1 with grown := e.2.grown, subst := e.2.subst }) f.die }
  let m := m.updLamp fun _ => { reg := d.regions }
  let m := m.updTwn fun t => { t with expected := d.partner, paired := d.partner != 0 }
  let m := m.updAdm fun a => { a with now := d.features, nxt := d.features, serviceKey := d.serviceKey }
  let m := m.updBuf fun _ => { wsn := k.wsn, fsn := k.nextFsn }
  let m := m.updHdl fun h => { h with img := k, epoch := k.epoch, durable := k.epoch }
  let m := m.each (maskBits d.retired) fun c m => m.domainOff (17 + c.val)
  m.updDev fun x => { x with clean := k.clean, loaded := true, stage := 8 }

/-- Step 9 ends: the newest root that can be read, or FAILED. -/
def Mach.headlandLoad (unreadable : List Nat) (m : Mach) : Mach :=
  if !m.starting 7 then m
  else match m.hdl.roots.find? fun k => !unreadable.contains k.epoch with
    | none => m.fail 3
    | some k =>
      let m := m.loadRoot k
      let m := if m.hdl.roots.head?.any fun x => x.epoch != k.epoch then m.raise .hdl 16 0 else m
      let ms := Config.elapsedUs m.free / 1000
      (m.draw.wr Reg.HDL_LOADMS (BitVec.ofNat 32 (ms % 65536))).touch .hdl

/-! ### Step 10: the replay (R291) -/

/-- The root that is loaded. -/
def Mach.root (m : Mach) : Ckpt := m.hdl.img

/-- L: where the replay starts in the log. -/
def Mach.replayFrom (m : Mach) : Nat :=
  let first := m.hdl.log.find? fun r => match r.body with
    | .furrowOpen _ fsn p _ _ => p != 6 && decide (m.root.replayFsn ≤ fsn)
    | _ => false
  match first with
  | some r => if r.pos ≤ m.root.pos then r.pos else m.root.pos + 1
  | none => m.root.pos + 1

/-- Does a record follow the newest record of the table segment that holds a byte of the tables? -/
def Mach.follows (m : Mach) (r : HRec) (off : Nat) : Bool := decide (SMap.get 0 m.hdl.img.tabRec (m.tableSeg off) < r.pos)

/-- A segment that replay changes is dirty, with the covered FSN it had at load (R292). -/
def Mach.replaySeg (s : Nat) (m : Mach) : Mach :=
  let x := SMap.get {} m.hdl.seg s
  m.updHdl fun h => { h with seg := SMap.set {} h.seg s { x with dirty := true, cov := m.root.replayFsn } }

def Mach.replayFur (f : Nat) (x : Fur) (m : Mach) : Mach := (m.setFur f x).replaySeg (m.tableSeg (m.furOffset f))

def Mach.replayBlk (d b : Nat) (x : Blk) (m : Mach) : Mach := (m.setBlk d b x).replaySeg (m.tableSeg (m.blkOffset d b))

/-- What a BLOCK_BAD record changes in the bad-block tables of its die (R272, R273). -/
def Mach.replayBad (d b cause : Nat) (pot : Word) (e : BadEnd) (m : Mach) : Mach :=
  let x := (m.die d).bad
  let put (y : BadTab) : Mach := (m.setDie d { m.die d with grown := y.grown, subst := y.subst }).replaySeg (m.tableSeg (m.badOffset d))
  match e with
  | .failed => if m.grownFull d then m else put { x with grown := x.grown ++ [{ block := b, cause := cause, pot := pot }] }
  | .spare s i => put (x.substituted m.firstSpare b s i)
  | .retired => m

/-- The members of a furrow's mask, as dies and blocks. -/
def Mach.memberSites (m : Mach) (f : Nat) (mask : Word) : List (Nat × Nat) :=
  (maskBits mask).map fun c => (dieOf c (f / 4096), m.memberBlock c f)

/-- A furrow whose members are all erased is FALLOW; one that could not be mended is RETIRED. -/
def Mach.replayErased (f : Nat) (m : Mach) : Mach :=
  let x := m.fur f
  let m := m.each (m.memberSites f x.toErase) fun e m =>
    let b := m.blk e.1 e.2
    if b.st == .erasing || b.st == .eraseSuspended || b.st == .eraseInterrupted then
      m.replayBlk e.1 e.2 { b with st := .normal, erases := min 65535 (b.erases + 1), reads := 0, intr := 0, step := 0 }
    else m
  let bad := (List.finRange 32).any fun c => let b := m.blk (dieOf c (f / 4096)) (m.memberBlock c f)
    b.st == .grownBad || b.st == .factoryBad
  if m.isFurrow f then m.replayFur f { st := .fallow, retired := x.retired || bad } else m

/-- A record that changes a table is applied. -/
def Mach.applyRec (r : HRec) (m : Mach) : Mach :=
  match r.body with
  | .furrowOpen f fsn p l a =>
    if p = 6 || !m.follows r (m.furOffset f) then m
    else m.replayFur f { st := .opn, fsn := fsn, layout1 := l, absent := a, retired := (m.fur f).retired }
  | .eraseBegin f mask =>
    let m := if m.follows r (m.furOffset f) && m.isFurrow f then m.replayFur f { m.fur f with st := .erasing, toErase := mask } else m
    m.each (m.memberSites f mask) fun e m =>
      if m.follows r (m.blkOffset e.1 e.2) then m.replayBlk e.1 e.2 { m.blk e.1 e.2 with st := .erasing } else m
  | .eraseDone fs => m.each fs fun f m => if m.follows r (m.furOffset f) then m.replayErased f else m
  | .blockBad d b cause pot e =>
    let c : Chan := Fin.ofNat 32 (d / 64)
    let f := m.furrowOf c (d % 64) b
    let m := if m.follows r (m.badOffset d) then m.replayBad d b cause pot e else m
    match e with
    | .failed =>
      if !m.follows r (m.blkOffset d b) then m
      else
        let m := m.replayBlk d b { m.blk d b with st := .grownBad }
        let x := m.fur f
        if !m.isFurrow f || x.st == .fallow || x.st == .none then m
        else m.replayFur f { x with lost := x.lost ||| bit32 c.val, relocate := true }
    | .spare .. => m
    | .retired => if m.follows r (m.furOffset f) && m.isFurrow f then m.replayFur f { m.fur f with retired := true } else m
  | _ => m

/-- An offer for a map entry. -/
structure Offer where
  entry : Nat
  vol : Nat
  wsn : Nat
  logged : Bool
  fsn : Nat
  page : Nat
  value : BitVec 40
  deriving DecidableEq, Repr

/-- Does an offer win over another (R291)? -/
def Offer.beats (a b : Offer) : Bool :=
  if a.wsn != b.wsn then decide (b.wsn < a.wsn)
  else if a.logged != b.logged then a.logged
  else if a.fsn != b.fsn then decide (b.fsn < a.fsn)
  else decide (b.page < a.page)

/-- Does a codeword read at start-up? -/
def Mach.scanReads (m : Mach) (unreadable : List Nat) (a : Nat) : Bool :=
  (SMap.get {} m.fl.cw a).kind != .erased && !unreadable.contains a && m.readsNow (BitVec.ofNat 40 a)

/-- The metadata of a plane page: slot 0, or slots 1 to 3 in order. -/
def Mach.scanMeta (m : Mach) (unreadable : List Nat) (base : Nat) : Option Cw :=
  ((List.range 4).find? fun s => m.scanReads unreadable (base + s)).map fun s => SMap.get {} m.fl.cw (base + s)

/-- The plane pages that hold anything. -/
def Mach.scanBases (m : Mach) : List Nat := (m.fl.cw.map fun e => e.1 / 4 * 4).foldr insertNat []

/-- The offer of one plane page of a furrow of F. -/
def Mach.scanOffer (m : Mach) (unreadable : List Nat) (fs : List (Nat × Nat)) (base : Nat) : Option Offer :=
  let a := BitVec.ofNat 40 base
  let f := m.furrowOfAddr a
  match fs.find? (fun e => e.1 == f), m.scanMeta unreadable base with
  | some e, some x =>
    let v := m.volu (Fin.ofNat 64 x.vol)
    if x.kind == .data && x.fsn == e.2 && v.st != .absent && decide (v.fmtWsn ≤ x.wsn) then
      (entryIndex v x.lba).map fun i =>
        { entry := i, vol := x.vol, wsn := x.wsn, logged := false, fsn := e.2, page := adrPage a, value := a }
    else none
  | _, _ => none

/-- The offers of the logged records. -/
def Mach.logOffers (m : Mach) (r : HRec) : List Offer :=
  let mk (v : Vid) (mu wsn : Nat) (e : BitVec 40) : Option Offer :=
    if decide (wsn < (m.volu v).fmtWsn) then none
    else (entryIndex (m.volu v) (4 * mu)).map fun i =>
      { entry := i, vol := v.val, wsn := wsn, logged := true, fsn := 0, page := 0, value := e }
  match r.body with
  | .dealloc v mu n wsn => (List.range n).filterMap fun i => mk v (mu + i) wsn unmapped
  | .poison v mu wsn => (mk v mu wsn poisoned).toList
  | _ => []

/-- Does a record begin the erase of a member of a furrow? -/
def HBody.erases (b : HBody) (f : Nat) (c : Chan) : Bool := match b with | .eraseBegin g mask => g == f && mask.getLsbD c.val | _ => false

/-- The present entry as an offer: its address where it still reads as what it was, else WSN 0. -/
def Mach.presentOffer (m : Mach) (unreadable : List Nat) (recs : List HRec) (o : Offer) : Offer :=
  let c := m.entry o.entry
  let f := m.furrowOfAddr c
  let x := SMap.get {} m.fl.cw c.toNat
  let b := m.blk (adrDie c) (adrBlock c)
  let same := entryIndex (m.volu (Fin.ofNat 64 x.vol)) x.lba == some o.entry
  let good := isAddr c && m.scanReads unreadable c.toNat && x.vol == o.vol && same && x.fsn == (m.fur f).fsn && b.st != .erasing &&
    b.st != .eraseSuspended && b.st != .eraseInterrupted && !recs.any fun r => r.body.erases f (adrChan c)
  { o with wsn := if good then x.wsn else 0, logged := false, fsn := if good then x.fsn else 0, page := if good then adrPage c else 0,
           value := c }

/-- The winner among some offers for each entry. -/
def bestOffers (l : List Offer) : List Offer :=
  l.foldl (fun best o =>
    match best.find? fun x => x.entry == o.entry with
    | none => best ++ [o]
    | some x => if o.beats x then best.map fun y => if y.entry == o.entry then o else y else best) []

/-- Install one winner. -/
def Mach.applyOffer (unreadable : List Nat) (recs : List HRec) (o : Offer) (m : Mach) : Mach :=
  let c := m.presentOffer unreadable recs o
  let w := if o.beats c then o else c
  let m := m.updVol fun x => { x with inst := SMap.set 0 x.inst o.entry w.wsn }
  if w.value = m.entry o.entry then m
  else m.each (mapSegsOf o.entry) Mach.replaySeg |>.updVol fun x => { x with map := SMap.set unmapped x.map o.entry w.value }

/-- The WSN of what every entry that points at flash holds, for later comparisons (R248). -/
def Mach.learnInst (m : Mach) : Mach :=
  m.each (m.vol.map.filter fun e => isAddr e.2) fun e m =>
    m.updVol fun x => { x with inst := SMap.set 0 x.inst e.1 (max (SMap.get 0 x.inst e.1) (SMap.get {} m.fl.cw e.2.toNat).wsn) }

/-- Map entries that point into a furrow. -/
def Mach.countValid (m : Mach) (f : Nat) : Nat := (m.vol.map.filter fun e => isAddr e.2 && m.furrowOfAddr e.2 == f).length

/-- Data plane pages of a furrow. -/
def Mach.countPlaced (m : Mach) (f fsn : Nat) : Nat :=
  (m.scanBases.filter fun b => m.furrowOfAddr (BitVec.ofNat 40 b) == f && (SMap.get {} m.fl.cw b).kind == .data &&
    (SMap.get {} m.fl.cw b).fsn == fsn).length

/-- What the scan makes of one furrow: its counts; an open one is closed at its stripe, and one with nothing valid is released. -/
def Mach.settleFur (fs : List (Nat × Nat)) (f : Nat) (m : Mach) : Mach :=
  let x := m.fur f
  if x.st != .opn && x.st != .closed && x.st != .gleaning && x.st != .released then m
  else
    let n := m.countValid f
    let scanned := x.st == .opn || fs.any fun e => e.1 == f
    let x := { x with valid := n, stripes := if scanned then SMap.get 0 m.fl.scan f else x.stripes
                      placed := if scanned then m.countPlaced f x.fsn else x.placed }
    let y := if n = 0 then { x with st := .released, eRel := m.nextRootEpoch } else { x with st := .closed }
    if x.st == y.st then m.setFur f y else m.replayFur f y

/-- Blocks found in an erase state, and those whose erase by the service port was cut off, are ERASE_INTERRUPTED, counted, and wait to
be erased again (R66). -/
def Mach.markErases (m : Mach) : Mach :=
  let found := (m.fl.blk.filter fun e => e.2.st == .erasing || e.2.st == .eraseSuspended || e.2.st == .eraseInterrupted).map
    fun e => (e.1 / 4096, e.1 % 4096)
  (m.updFl fun f => { f with cut := [] }).each (found ++ m.fl.cut.filter fun e => !found.contains e) fun e m =>
    let m := m.eraseLost e.1 e.2
    m.putBlk e.1 e.2 { m.blk e.1 e.2 with wpHeld := false }

/-- Members of a furrow or headland furrow that wait for a fresh erase. -/
def Mach.waitsErase (m : Mach) (e : Nat × Nat) : Bool := (m.blk e.1 e.2).st == .eraseInterrupted

/-- A furrow whose erase was cut off waits for those members; a headland furrow likewise, and one whose erase had not begun is
released again. The open headland furrow is closed. -/
def Mach.settleErases (m : Mach) : Mach :=
  let m := m.each ((m.gln.fur.filter fun e => e.2.st == .erasing).map (·.1)) fun f m =>
    let mask : Word := ((List.finRange 32).filter fun c => m.waitsErase (dieOf c (f / 4096), m.memberBlock c f)).foldl
      (fun w c => w ||| bit32 c.val) 0
    m.setFur f { m.fur f with toErase := mask }
  m.each m.hdlFurs fun k m =>
    let n := ((List.finRange 32).filter fun c => m.waitsErase (hfurDie k c, hfurBlock k)).length
    let x := m.hfur k
    if n != 0 then (m.setHfur k { x with st := .erasing }).updHdl fun h => { h with erases := SMap.set 0 h.erases k n }
    else if x.st == .erasing then m.setHfur k { x with st := .released, eRel := m.nextRootEpoch }
    else if x.st == .opn then m.setHfur k { x with st := .closed }
    else m

/-- Versions of a dump that waits go back into the buffer, sealed or held (R298). -/
def Mach.readDump (m : Mach) : Mach :=
  if !m.hdl.dumpValid then m
  else
    let vs := m.hdl.dumped.map fun x =>
      { x with st := if x.st == .held then VerSt.held else .opn, rmwTodo := [], rmwFail := false, pri := false, cov := true, again := false,
               rsv := true }
    let m := m.updBuf fun b => { b with vers := vs, nextId := greatest (vs.map (·.id)) + 1 }
    let m := m.updHdl fun h => { h with dumpWait := vs.map (·.id) }
    let m := m.each ((vs.filter fun x => x.st == .opn).map (·.id)) Mach.seal
    if m.hdl.dumpPartial then m.raiseAs .crit .hdl 17 0 else m

/-- The next FSN and WSN, from the root and from what the replay read of the furrows of F (R238). -/
def Mach.nextCounters (unreadable : List Nat) (fs : List (Nat × Nat)) (m : Mach) : Mach :=
  let k := m.root
  let fsns := (m.hdl.fur.map fun e => e.2.fsn) ++ (m.gln.fur.map fun e => e.2.fsn)
  let wsns := (m.scanBases.filter fun a => fs.any fun e => e.1 == m.furrowOfAddr (BitVec.ofNat 40 a)).map fun a =>
    match m.scanMeta unreadable a with
    | some x => if x.kind == .data then x.wsn else 0
    | none => 0
  m.updBuf fun b => { b with fsn := max k.nextFsn (greatest fsns + 1), wsn := 2 ^ 32 + max k.wsn (greatest wsns) }

/-- A retired channel's rebuild goes on where furrows with a member on it are left (R231). -/
def Mach.resumeRebuild (m : Mach) : Mach :=
  let l := m.gln.fur.filter fun e => (e.2.st == .closed || e.2.st == .gleaning) && m.onRetired e.2
  if l.isEmpty then m
  else m.updFl fun f => { f with rbActive := true, rbChan := ((maskBits f.retired).headD 0).val, rbTotal := l.length }

/-- Step 10 ends: the map, the tables, the counters and any dump; then a root is to be written (R291, R292). -/
def Mach.replay (unreadable : List Nat) (m : Mach) : Mach :=
  if !m.starting 8 || m.dev.startRoot then m
  else
    let l := m.replayFrom
    let recs := m.hdl.log.filter fun r => decide (l ≤ r.pos)
    let m := m.each recs Mach.applyRec
    let fs : List (Nat × Nat) := recs.filterMap fun r => match r.body with
      | .furrowOpen f fsn p _ _ => if p == 6 then none else some (f, fsn)
      | _ => none
    let fs := fs.filter fun e => (m.fur e.1).fsn == e.2
    let m := m.each fs fun e m => m.setFur e.1 { m.fur e.1 with stripes := SMap.get 0 m.fl.scan e.1 }
    let offers := recs.flatMap m.logOffers ++ m.scanBases.filterMap (m.scanOffer unreadable fs)
    let m := m.each (bestOffers offers) (Mach.applyOffer unreadable recs)
    let m := m.learnInst
    let m := m.each ((m.gln.fur).map (·.1)) (Mach.settleFur fs)
    let m := (m.nextCounters unreadable fs).markErases.settleErases.readDump.resumeRebuild
    let m := if m.dev.clean then m else m.health fun h => { h with unclean := stick32 (h.unclean + 1) }
    let ms := Config.elapsedUs m.free / 1000
    let m := (m.draw.wr Reg.HDL_LOADMS (BitVec.ofNat 32 (m.rdN Reg.HDL_LOADMS % 65536 + 65536 * (ms % 65536)))).touch .hdl
    let m := m.updHdl fun h => { h with needRoot := true }
    (m.updDev fun x => { x with startRoot := true }).urgency

end Sys2Proof.Machine
end

