-- ==== Sys2Proof/Machine/Firmware.lean ====
section
/-! DEFINITION. Transfer FW, Activate FW and the hitless switch (R142 to R144). -/

namespace Sys2Proof.Machine

/-! ### Transfer FW (R142) -/

def Mach.slot (m : Mach) (s : Fin 2) : FwSlot := if s = 0 then m.adm.fw.p0 else m.adm.fw.p1

def Mach.setSlot (s : Fin 2) (x : FwSlot) (m : Mach) : Mach :=
  m.updAdm fun a => { a with fw := if s = 0 then { a.fw with p0 := x } else { a.fw with p1 := x } }

/-- The slot that does not run; under the RECOVERY strap both. -/
def Mach.inactive (m : Mach) (s : Fin 2) : Bool := m.dev.recovery || s != m.dev.slot

/-- A part is a multiple of 128 bytes, at most 16,256. -/
def partOk (len : Nat) : Bool := len % 128 == 0 && decide (len ≤ 16256)

/-- The largest image. -/
def imageMax : Nat := 4 * 2 ^ 20

/-- A slot is marked invalid. -/
def Mach.spoilSlot (s : Fin 2) (m : Mach) : Mach := m.setSlot s { m.slot s with valid := false }

/-- The open transfer is abandoned: its slot is invalid. -/
def Mach.abandon (m : Mach) : Mach :=
  match m.adm.xfer with
  | none => m
  | some x => (m.updAdm fun a => { a with xfer := none }).spoilSlot x.slot

/-- The check of R337 at the end of a transfer. -/
def Mach.checkImage (p : Port) (s : Fin 2) (img : Image) (m : Mach) : Mach :=
  let m := m.updAdm fun a => { a with xfer := none }
  if !img.good then (m.spoilSlot s).refuse p St.imageInvalid
  else if img.sv < m.adm.svFloor then (m.spoilSlot s).refuse p St.rollbackRefused
  else (m.setSlot s { valid := true, img := img }).ok p []

/-- Full and initiate begin a transfer, unless one is open on either port. DESIGN CHOICE (log entry 172): a first part that R142 refuses
begins no transfer, so that nothing is abandoned and the inactive slot stays as it was. -/
def Mach.beginTransfer (p : Port) (s : Fin 2) (len : Nat) (f : Mach → Mach) (m : Mach) : Mach :=
  if m.adm.xfer.isSome then m.refuse p St.backgroundBusy
  else if !m.inactive s || !partOk len then m.refuse p St.invalidField
  else f m

def Mach.transferFull (p : Port) (s : Fin 2) (len : Nat) (img : Image) (m : Mach) : Mach :=
  m.mail (.transferFwFull p s len img) p 0 0 true (Mach.beginTransfer p s len (Mach.checkImage p s img))

def execTransferFwFull (p : Port) (slot : Fin 2) (length : Nat) (img : Image) (s : State) : Host.Outcome State Fault Refusal :=
  s.on (Mach.transferFull p slot length img)

def Mach.transferInitiate (p : Port) (s : Fin 2) (len : Nat) (m : Mach) : Mach :=
  m.mail (.transferFwInitiate p s len) p 0 0 true (Mach.beginTransfer p s len fun m =>
    ((m.spoilSlot s).updAdm fun a => { a with xfer := some { port := p, slot := s, next := len } }).ok p [])

def execTransferFwInitiate (p : Port) (slot : Fin 2) (length : Nat) (s : State) : Host.Outcome State Fault Refusal :=
  s.on (Mach.transferInitiate p slot length)

/-- A later part of the transfer that a port has open: in order, of a good length, within 4 MiB, to its slot; otherwise INVALID_FIELD
abandons the transfer. -/
def Mach.laterPart (p : Port) (s : Fin 2) (off len : Nat) (f : Nat → Mach → Mach) (m : Mach) : Mach :=
  match m.adm.xfer with
  | none => m.refuse p St.invalidField
  | some x =>
    if x.port != p then m.refuse p St.invalidField
    else if x.slot != s || !m.inactive s || !partOk len || 128 * off != x.next || imageMax < x.next + len then
      m.abandon.refuse p St.invalidField
    else f (x.next + len) m

def Mach.transferContinue (p : Port) (s : Fin 2) (off len : Nat) (m : Mach) : Mach :=
  m.mail (.transferFwContinue p s off len) p 0 0 true (Mach.laterPart p s off len fun n m =>
    (m.updAdm fun a => { a with xfer := some { port := p, slot := s, next := n } }).ok p [])

def execTransferFwContinue (p : Port) (slot : Fin 2) (off length : Nat) (s : State) : Host.Outcome State Fault Refusal :=
  s.on (Mach.transferContinue p slot off length)

def Mach.transferEnd (p : Port) (s : Fin 2) (off len : Nat) (img : Image) (m : Mach) : Mach :=
  m.mail (.transferFwEnd p s off len img) p 0 0 true (Mach.laterPart p s off len fun _ m => m.checkImage p s img)

def execTransferFwEnd (p : Port) (slot : Fin 2) (off length : Nat) (img : Image) (s : State) : Host.Outcome State Fault Refusal :=
  s.on (Mach.transferEnd p slot off length img)

def Mach.transferAbort (p : Port) (m : Mach) : Mach :=
  m.mail (.transferFwAbort p) p 0 0 true fun m =>
    if m.adm.xfer.any fun x => x.port == p then m.abandon.ok p [] else m.refuse p St.invalidField

def execTransferFwAbort (p : Port) (s : State) : Host.Outcome State Fault Refusal := s.on (Mach.transferAbort p)

/-! ### Activate FW (R143) -/

/-- The refusals that both actions share. -/
def Mach.activateRefusal (m : Mach) (s : Fin 2) : Option Nat :=
  if !(m.slot s).valid || !(m.slot s).img.good then some St.invalidField
  else if (m.slot s).img.sv < m.adm.svFloor then some St.rollbackRefused
  else none

def Mach.activateNext (p : Port) (s : Fin 2) (m : Mach) : Mach :=
  m.mail (.activateFwNextReset p s) p 0 0 true fun m =>
    match m.activateRefusal s with
    | some e => m.refuse p e
    | none => (m.updAdm fun a => { a with active := s }).ok p []

def execActivateFwNextReset (p : Port) (slot : Fin 2) (s : State) : Host.Outcome State Fault Refusal := s.on (Mach.activateNext p slot)

def Mach.activateOnline (p : Port) (s : Fin 2) (m : Mach) : Mach :=
  m.mail (.activateFwOnline p s) p 0 0 true fun m =>
    if m.adm.bg.isSome then m.refuse p St.backgroundBusy
    else if m.dev.recovery then m.refuse p St.invalidField
    else match m.activateRefusal s with
      | some e => m.refuse p e
      | none => m.startBg p (.activate s) 0x0202 fun m => m.updAdm fun a => { a with hitless := some (s, false) }

def execActivateFwOnline (p : Port) (slot : Fin 2) (s : State) : Host.Outcome State Fault Refusal := s.on (Mach.activateOnline p slot)

/-! ### The hitless switch (R144) -/

/-- Steps 1 to 3: the slot is loaded and checked again, no foreground command runs, and doorbell handling pauses. A slot that fails the
check ends the activation. -/
def Mach.hitlessPause (m : Mach) : Mach :=
  match m.adm.hitless with
  | some (s, false) =>
    match m.imageFault s with
    | some why => (m.updAdm fun a => { a with hitless := none }).endBg (if why = 1 then St.rollbackRefused else St.imageInvalid)
    | none => if m.foreground then m else m.updAdm fun a => { a with hitless := some (s, true) }
  | _ => m

def execHitlessSwitchPause (s : State) : Host.Outcome State Fault Refusal := s.on Mach.hitlessPause

/-- Step 5: the choice is persisted, doorbells resume. -/
def Mach.hitlessReady (m : Mach) : Mach :=
  match m.adm.hitless with
  | some (s, true) =>
    ((m.updAdm fun a => { a with active := s, hitless := none }).updDev fun d => { d with slot := s }).endBg St.success
  | _ => m

/-- The new firmware is not ready in time: the old bank resumes, with a WARN; the choice stays. -/
def Mach.hitlessRollback (m : Mach) : Mach :=
  match m.adm.hitless with
  | some (_, true) =>
    ((m.updAdm fun a => { a with hitless := none }).endBg St.imageInvalid).devEvent .warn 0x0109 0 []
  | _ => m

end Sys2Proof.Machine
end

