-- ==== Sys2Proof/Machine/LampServe.lean ====
section
/-! DEFINITION. How a CXL.mem request is served once its lamp block's descriptor is at hand (R90, R94, R95, R99, R155 to R159, R163, R165,
R166). -/

namespace Sys2Proof.Machine

/-- New lamp requests are taken: the device past start-up and not FAILED, the LMP page running, no shutdown past QUIESCE (R18, R20, R403,
Tables 02.8 and 03.6). -/
def Mach.lampOpen (m : Mach) : Bool := m.ioUp && m.running .lmp && (m.dev.phase == .idle || m.dev.phase == .quiesce)

/-- Requests that were taken are served, also while the LMP page is STOPPING (Table 02.8). -/
def Mach.lampServes (m : Mach) : Bool :=
  m.ioUp && (m.running .lmp || m.pageSt .lmp == .stopping) && (m.dev.phase == .idle || m.dev.phase == .quiesce)

/-! ### Touch lights (R159) -/

/-- A read found a DARK page. -/
def Mach.touchPage (a : LampAddr) (m : Mach) : Mach :=
  let key := descKey a.region a.block
  let d := m.desc key
  if !(m.region a.region).lot || d.state a.page != .dark then m
  else if 64 ≤ m.lamp.touch.length || (d.frame.isNone && m.framesFree = 0) || !m.ioUp then m.bump Reg.LMP_TOUCHDROP
  else
    (m.updLamp fun l => { l with touch := l.touch ++ [(key, a.page)] }).setDesc key { d with pendl := setBit d.pendl (a.page / 4) true }

/-! ### Serving a request whose page state is known (Table 07.4) -/

/-- An error of the lamp path or its DRAM shows in the RAS capability of the port that carried the request; its header log keeps that
of the first error, a free value, since the manual gives the log no layout (R95). -/
def Mach.rasUncor (p : Port) (m : Mach) : Mach :=
  if (m.port.get p).rasUncorrectable then m
  else (m.updPort p fun x => { x with rasUncorrectable := true, rasHeader := Config.rasHeader m.free }).draw

/-- A read: the line, or poison where the page is not lit or the line is lost. -/
def Mach.serveRead (p : Port) (a : LampAddr) (e : MemErr) (m : Mach) : Mach :=
  let key := descKey a.region a.block
  let d := m.desc key
  match (d.state a.page).isLit, d.frame with
  | true, some f =>
    if m.lamp.lost.contains (lineKey f a.page a.line) then m.poisonOut p
    else if e == .lineLost then
      ((m.dramLost (m.dramChan (m.lineAddr f a.page a.line)) (.frameLine (lineKey f a.page a.line))).rasUncor p).poisonOut p
    else m.lineOut p (SMap.get 0 m.lamp.line (lineKey f a.page a.line))
  | _, _ => ((m.bump Reg.LMP_DARKRD).touchPage a).poisonOut p

/-- Would this write make a LIT page dirty at the cap (R165)? -/
def Mach.capStops (m : Mach) (d : Desc) (p : Nat) : Bool :=
  let cap := m.rdN Reg.LMP_DIRTYCAP
  cap != 0 && decide (cap ≤ m.dirtyLit) && !d.dirty.getLsbD p

/-- A write: the line, or a taint where the page is not lit. A write held at the cap waits unanswered. -/
def Mach.serveWrite (p : Port) (dpa : Nat) (a : LampAddr) (x : Line) (mute held : Bool) (m : Mach) : Mach :=
  let key := descKey a.region a.block
  let d := m.desc key
  match (d.state a.page).isLit, d.frame with
  | true, some f =>
    if m.capStops d a.page then
      let m := m.updLamp fun l => { l with capHeld := l.capHeld ++ [if mute then .wrMute p dpa x else .wr p dpa x] }
      if held then m else m.bump Reg.LMP_CAPHOLD
    else
      let m := m.putLine key f a.page a.line x
      ((m.setDesc key { m.desc key with dirty := setBit (m.desc key).dirty a.page true }).capCheck).writeDone p mute
  | _, _ => ((m.bump Reg.LMP_DARKWR).taint key a.page false).writeDone p mute

/-- A poisoned write acts as a write to a dark page on every page (R157). -/
def Mach.servePoison (p : Port) (a : LampAddr) (mute : Bool) (m : Mach) : Mach :=
  ((m.bump Reg.LMP_DARKWR).taint (descKey a.region a.block) a.page true).writeDone p mute

/-- A request that meets its page (R163). -/
def Mach.meetPage (r : LampReq) (a : LampAddr) (held : Bool) (m : Mach) : Mach :=
  match r with
  | .rd p _ e => m.serveRead p a e
  | .wr p dpa x => m.serveWrite p dpa a x false held
  | .poisonWr p _ => m.servePoison p a false
  | .wrMute p dpa x => m.serveWrite p dpa a x true held
  | .poisonMute p _ => m.servePoison p a true

/-- A request takes its place in the order of R163. One to a line whose write is held at the dirty cap waits behind it (R99). -/
def Mach.serveReq (r : LampReq) (held : Bool) (m : Mach) : Mach :=
  match m.lampAddr r.dpa with
  | none => (m.bump (portReg r.port Reg.PORT_NODEC)).memMiss r
  | some a =>
    if !held && m.lamp.capHeld.any (fun x => x.dpa / 64 == r.dpa / 64) then m.updLamp fun l => { l with capHeld := l.capHeld ++ [r] }
    else m.meetPage r a held

end Sys2Proof.Machine
end

