-- ==== Sys2Proof/Machine/HdlDone.lean ====
section
/-! DEFINITION. What follows from durable headland records and roots (R281, R286, R288), the write-out of R297, and the shutdown
phases (R68, Table 03.6). -/

namespace Sys2Proof.Machine

/-! ### Lamp regions (R148 to R150, R153) -/

/-- Everything of a region's blocks goes: descriptors, frames, list entries, Lantern entries, touch lights. -/
def Mach.clearRegion (k : Nat) (m : Mach) : Mach :=
  let mine (key : Nat) : Bool := key / 2 ^ 26 == k
  let m := m.updLamp fun l =>
    let frames := (l.owner.filter fun o => mine o.2).map (·.1)
    { l with
      desc := l.desc.filter fun e => !mine e.1
      owner := l.owner.filter fun o => !mine o.2
      lost := l.lost.filter fun x => !frames.contains (x / 32768)
      lnt := (l.lnt.map fun e => if mine e.2.tag then (e.1, { e.2 with st := .invalid, redirty := false, tag := 0 }) else e).filter
        fun e => e.2 != {}
      touch := l.touch.filter fun t => !mine t.1 }
  m.dropPoison fun e => e.1 / 2 ^ 46 == k

/-- CXL.mem requests to a region that were decoded before its definition changes are answered under the old one (R150). -/
def Mach.serveOld (k : Nat) (m : Mach) : Mach :=
  let old (r : LampReq) : Bool := r.dpa / 2 ^ 46 == k
  let l := m.lamp.fetches.flatMap (·.reqs) ++ m.lamp.late ++ m.lamp.capHeld
  let m := m.updLamp fun x => { x with
    fetches := x.fetches.map fun f => { f with reqs := f.reqs.filter fun r => !old r }
    late := x.late.filter fun r => !old r
    capHeld := x.capHeld.filter fun r => !old r }
  let m := m.each (l.filter old) fun r m => if m.lampServes then m.serveReq r true else m.memMiss r
  let stuck := m.lamp.capHeld.filter old
  (m.updLamp fun x => { x with capHeld := x.capHeld.filter fun r => !old r }).each stuck Mach.memMiss

/-- A DEFINE or DELETE takes effect. -/
def Mach.regionDone (k : Nat) (r : Region) (m : Mach) : Mach := (((m.serveOld k).clearRegion k).setRegion k r).touch .lmp

/-! ### Channel retirement (R231) -/

/-- The background operation that runs ends, where it is the one meant. -/
def Mach.endOp (mine : BgOp → Bool) (status : Nat) (m : Mach) : Mach := if m.adm.bg.any fun b => mine b.op then m.endBg status else m

/-- A headland record queued on a retired channel goes to the next furrow. -/
def Mach.recGivenUp (id : Nat) (c : Chan) (m : Mach) : Mach :=
  match m.hdl.log.find? fun r => r.id == id with
  | none => m
  | some r =>
    let k := r.furs.getLastD 0
    let m := m.setHfur k { m.hfur k with lost := (m.hfur k).lost ||| bit32 c.val }
    (if m.hdl.opn == some k then m.hdlClose else m).replaceRec r

/-- One operation that waits for a retired channel. Its erases are no longer needed; its reads have gone to stage 4. -/
def Mach.opGivenUp (o : Op) (m : Mach) : Mach :=
  let m := m.dropOp o.id
  match o.kind with
  | .program p =>
    match m.buf.pgms.find? fun x => x.id == p with
    | some pg => m.pageGivenUp pg
    | none => m
  | .headland r _ => m.recGivenUp r o.ch
  | .erase b system => if system then m.hdlErased o.row.val b else m.memberErased o.ch (m.furrowOf o.ch o.row.val b)
  | _ => m

/-- Work queued on a retired channel is given up, and open furrows with a member there close at their current stripe (Table 10.5). -/
def Mach.chanGivenUp (c : Chan) (m : Mach) : Mach :=
  let m := m.updBuf fun b => { b with opn := b.opn.map fun e => (e.1, if e.2.absent.getLsbD c.val then e.2 else { e.2 with closing := true }) }
  let m := m.each (m.fl.ops.filter fun o => o.ch == c) Mach.opGivenUp
  m.each [0, 1, 2, 3, 4, 5, 7] fun p m => m.stripeStep (Fin.ofNat 8 p)

/-- Furrows that hold data, with a member on a retired channel (ECC_RBLEFT). -/
def Mach.rebuildLeft (m : Mach) : List Nat :=
  (m.gln.fur.filter fun e => (e.2.st == .opn || e.2.st == .closed || e.2.st == .gleaning) && m.onRetired e.2).map (·.1)

def Mach.retireDone (c : Chan) (m : Mach) : Mach :=
  let m := m.updFl fun f => { f with retired := f.retired ||| bit32 c.val }
  let m := (m.setHdr (.fch c) { m.hdr (.fch c) with held := false }).domainOff (17 + c.val)
  let m := m.chanGivenUp c
  let m := m.updVol fun v => { v with usercap := m.userCapWith m.fl.retired }
  let m := m.updFl fun f => { f with rbActive := true, rbChan := c.val, rbTotal := m.rebuildLeft.length }
  ((m.spareUpdate).settleDev).endOp (fun b => b == .svcRetire c) St.success

/-! ### Who waited (R138 to R148, R333, R383) -/

/-- What a waiter does once its record, and where asked for its root, is durable. -/
def Mach.resolve (w : Waiter) (m : Mach) : Mach :=
  match w with
  | .mbox p _ => m.ok p []
  | .keyImport p k =>
    (((m.setKslot k { m.kslot k with st := .loaded, importing := false }).touch .key).bump Reg.KEY_IMPORTS).ok p []
  | .keyRotate k =>
    let x := m.kslot k
    match x.rotating with
    | none => m.endOp (fun b => b == .keyRotate k) St.keySlotEmpty
    | some e =>
      let m := m.setKslot k { x with st := .loaded, epoch := e, nonce := 0, hwm := nonceBlock, asked := nonceBlock,
                                     rotating := none, waiting := false }
      (m.touch .key).endOp (fun b => b == .keyRotate k) St.success
  | .keyRetire p => m.ok p []
  | .volume v => m.volEnd v
  | .region p k r => (m.regionDone k r).ok p []
  | .importAlone k => ((m.setKslot k { m.kslot k with st := .loaded, importing := false }).touch .key).bump Reg.KEY_IMPORTS
  | .regionAlone k r => m.regionDone k r
  | .feature p => m.ok p []
  | .retire c => m.retireDone c
  | .takeover v => m.epochDurable v

/-- Resolve those that wait for a record alone. -/
def Mach.resolveRec (id : Nat) (m : Mach) : Mach :=
  let now := m.hdl.waiters.filter fun w => w.1 == id && !w.2.1
  (m.updHdl fun h => { h with waiters := h.waiters.filter fun w => !(w.1 == id && !w.2.1) }).each now fun w m => m.resolve w.2.2

/-- Is a record durable and its next root no later than an epoch? -/
def Mach.rootCovers (m : Mach) (id epoch : Nat) : Bool :=
  m.hdl.log.any fun r => r.id == id && r.durable && decide (r.epoch ≤ epoch)

/-- Resolve those that wait for a root as well. -/
def Mach.resolveRoot (epoch : Nat) (m : Mach) : Mach :=
  let mine (w : Nat × Bool × Waiter) : Bool := w.2.1 && m.rootCovers w.1 epoch
  let now := m.hdl.waiters.filter mine
  (m.updHdl fun h => { h with waiters := h.waiters.filter fun w => !mine w }).each now fun w m => m.resolve w.2.2

/-! ### The end of a shutdown and of start-up -/

/-- The clean root stands: the Almanac ring is flushed and PHASE is DONE; after an ORDERLY request the device reset follows. -/
def Mach.shutdownDone (m : Mach) : Mach :=
  let m := m.almFlush.updDev fun d => { d with phase := .done }
  if m.dev.orderly then m.restart 3 else m

/-- A root is durable (R286). -/
def Mach.rootDurable (k : Ckpt) (m : Mach) : Mach :=
  let m := (m.updHdl fun h => { h with durable := k.epoch, roots := k :: h.roots }).touch .hdl
  let m := (m.resolveRoot k.epoch).hdlErase
  let m := if m.dev.startRoot then (m.updDev fun d => { d with startRoot := false }).enterIo else m
  if k.clean && m.dev.phase == .checkpoint && m.dev.pf == .none then m.shutdownDone else m

/-- What a record's durability means by itself. -/
def Mach.recordDurable (r : HRec) (m : Mach) : Mach :=
  match r.body with
  | .root k => m.rootDurable k
  | .dealloc .. => (m.mapCovers fun c => if c == Cover.record r.id then none else some c).settleCovers
  | .provpar x => (m.stripeSafe x.fsn x.page x.mask).settleCovers
  | .nonce k e h => m.nonceDurable k e h
  | _ => m

/-- The oldest record that is not durable becomes so, once it and every page before it are confirmed. -/
def Mach.headlandDurable (m : Mach) : Mach :=
  match m.hdl.log.find? fun r => !r.durable with
  | none => m
  | some r =>
    if r.flying then m
    else
      let m := m.updHdl fun h => { h with log := h.log.map fun x => if x.id == r.id then { x with durable := true } else x }
      (m.resolveRec r.id).recordDurable r

/-! ### The write-out (R297, R298) -/

/-- A record that the write-out leaves behind, durable at once, in the fallow headland furrows held for it. -/
def Mach.dumpRecord (b : HBody) (m : Mach) : Mach :=
  let r := (m.hdlRoom (2 * m.hdlFurs.length + 4) (m.recCws b)).getD (m, [])
  r.1.updHdl fun t => { t with
    log := t.log ++ [{ id := t.nextRec, body := b, epoch := t.epoch + 1, flying := false, durable := true, furs := r.2, pos := t.nextPos }]
    nextRec := t.nextRec + 1
    nextPos := t.nextPos + 1 }

/-- Encryptions of a dump: the reservation they need is made with them. -/
def Mach.dumpNonces (k n : Nat) (m : Mach) : Mach :=
  let x := m.nslot k
  let need := x.nonce + n
  let m := if need ≤ x.hwm then m
    else
      let h := min nonceHard ((need / nonceBlock + 1) * nonceBlock)
      (m.setNslot k { x with hwm := h, asked := max x.asked h }).dumpRecord (.nonce k x.epoch h)
  (m.drawNonces k n).1

/-- Dirty lit pages in frame-index order: volume, LBA, data. -/
def Mach.dirtyPages (m : Mach) : List (Vid × Nat × Block) :=
  (List.range m.lamp.frames).flatMap fun f =>
    match m.lamp.owner.find? fun o => o.1 == f with
    | none => []
    | some o =>
      let d := m.desc o.2
      let r := m.region (o.2 / 2 ^ 26)
      ((List.range 512).filter fun p => d.dirtyPages.getLsbD p && !m.pageLost f p).map fun p =>
        (r.vol, r.base + 512 * (o.2 % 2 ^ 26) + p, m.framePage f p)

/-- Add a lamp page to the versions of a dump; pages of one MU share the one WSN handed out at its start. -/
def addLampVer (wsn : Nat) (x : Vid × Nat × Block) (l : List Ver) : List Ver :=
  let lb := x.2.1 % 4
  if l.any fun y => y.vol == x.1 && y.mu == x.2.1 / 4 then
    l.map fun y => if y.vol == x.1 && y.mu == x.2.1 / 4 then
        { y with mask := setBit y.mask lb true, data := SMap.set 0 y.data lb x.2.2, lampwb := setBit y.lampwb lb true }
      else y
  else l ++ [{ id := 0, vol := x.1, mu := x.2.1 / 4, mask := setBit 0 lb true, data := SMap.set 0 [] lb x.2.2, wsn := wsn, st := .sealed,
               pos := 7, lampwb := setBit 0 lb true, rmwTodo := [], rmwFail := false, lost := 0, pri := false, cov := true, rsv := true,
               again := false }]

/-- Insert a version by ascending WSN. -/
def insertVer (x : Ver) : List Ver → List Ver
  | [] => [x]
  | y :: ys => if x.wsn < y.wsn then x :: y :: ys else y :: insertVer x ys

/-- Give versions fresh numbers from n on. -/
def numberVers (n : Nat) : List Ver → List Ver
  | [] => []
  | x :: xs => { x with id := n } :: numberVers (n + 1) xs

/-- What a dump holds: buffered versions in ascending WSN, then the dirty lit pages. -/
def Mach.dumpVers (m : Mach) : List Ver :=
  m.buf.vers.foldr insertVer [] ++ numberVers m.buf.nextId (m.dirtyPages.foldl (fun l x => addLampVer m.buf.wsn x l) [])

def Mach.dumpRoot (m : Mach) : Mach :=
  let k := m.rootNow
  let m := m.dumpRecord (.root k)
  (m.updHdl fun h => { h with epoch := k.epoch, durable := k.epoch, roots := k :: h.roots }).touch .hdl

/-- The write-out ends: complete with its index and a root, or cut short, leaving codewords that the model does not choose. What an
unconsumed dump before it holds stands (R298). -/
def Mach.writeDump (complete : Bool) (m : Mach) : Mach :=
  let vs := m.dumpVers
  let kept := if complete then vs else vs.filter fun x => Config.survives m.free x.id
  let m := m.draw
  let m := m.each kept fun x m => m.dumpNonces (m.volu x.vol).nonceSlot (popCount x.mask)
  let m := m.updBuf fun b => { b with wsn := b.wsn + 1, nextId := greatest (vs.map (·.id)) + 1 }
  let m := m.each kept fun x m => m.dumpRecord (.dump x.id (popCount x.mask))
  let n := (kept.map fun x => popCount x.mask).sum
  let older := if m.hdl.dumpValid then m.hdl.dumped.filter fun x => !kept.any fun y => y.id == x.id else []
  let m := m.updHdl fun h => { h with
    dumped := older ++ kept, dumpValid := true, dumpPartial := !complete, dumpActive := false, dumpCw := n, dumpSeq := h.dumpSeq + 1
    dumpWait := (m.buf.vers.filter fun x => (older ++ kept).any fun y => y.id == x.id).map (·.id) }
  if complete then (m.dumpRecord (.dumpIndex m.hdl.dumpSeq n true)).dumpRoot else m

/-- Capacitor-backed mode is in effect and there is something to write out: nothing after DONE (Table 03.6). -/
def Mach.capMode (m : Mach) : Bool := m.adm.plm == 1 && m.dev.loaded && m.ioUp && m.dev.phase != .done

/-- A write-out begins. -/
def Mach.startDump (w : DumpFor) (m : Mach) : Mach :=
  (m.updDev fun d => { d with dump := some w }).updHdl fun h => { h with dumpActive := true }

/-- GPF Phase 2 requests that wait are acknowledged. -/
def Mach.ackGpf (m : Mach) : Mach :=
  let ack (p : Port) (m : Mach) : Mach :=
    if m.dev.gpfWait.get p then (m.updDev fun d => { d with gpfWait := d.gpfWait.set p false }).send (.gpfAck p 2) else m
  ack .p1 (ack .p0 m)

/-- The Almanac's last act in the power-fail sequence: snapshots, then the flush (R363, R369, Table 12.6). It is a headland-target
write, so it waits for the clear of a trip (R350); it goes on with ring pages although the sequence runs. -/
def Mach.pfFlush (m : Mach) : Mach :=
  if m.fl.trip then m.updDev fun d => { d with pf := .writing, dump := none }
  else
    let m := m.updDev fun d => { d with pf := .none }
    let m := m.discardAllHeld.snapshots.almFlush
    m.updDev fun d => { d with pf := .over, dump := none }

/-- The reset that was held behind a write-out takes effect (R57). -/
def Mach.heldReset (m : Mach) : Mach :=
  let cause := if m.dev.dump == some .smbReset then 2 else 1
  (m.updDev fun d => { d with resetHeld := false }).restart cause

/-- A write-out has ended: what it was for goes on. -/
def Mach.dumpOver (m : Mach) : Mach :=
  let m := m.ackGpf
  if m.dev.resetHeld then m.heldReset
  else if m.dev.pf == .none then m.updDev fun d => { d with dump := none }
  else m.pfFlush

/-! ### Shutdown (R68, Table 03.6) -/

/-- A clean shutdown begins, unless one has begun. -/
def Mach.startShutdown (orderly : Bool) (m : Mach) : Mach :=
  if m.dev.phase != .idle then m else m.updDev fun d => { d with phase := .quiesce, orderly := orderly }

/-- No command of a host is in flight. -/
def Mach.hostIdle (m : Mach) : Bool := m.q.used.isEmpty && m.q.fetches.isEmpty

/-- A page that the LAMP phase writes back goes to the mirror as a WRITE of one LB; no command waits for the answer. -/
def Mach.mirrorLb (v : Vid) (lba : Nat) (d : Block) (m : Mach) : Mach :=
  if m.mirroring v then
    let (m, i) := m.twnXid (.copy v (lba / 16384))
    (m.twnBegin 0x10 0 i 1 (beginWords v (m.volu v).fence lba 0)).twnData i 0 d
  else m

/-- One dirty lit page goes into the write buffer, as by PERSIST, while there is room; it stays lit and is clean. -/
def Mach.lampPageOut (frame key p : Nat) (m : Mach) : Mach :=
  let r := m.region (key / 2 ^ 26)
  let lba := r.base + 512 * (key % 2 ^ 26) + p
  let clean (m : Mach) : Mach := m.setDesc key { m.desc key with dirty := setBit (m.desc key).dirty p false }
  if m.pageLost frame p then clean (m.raise .lmp 17 (BitVec.ofNat 64 (pageDpa key p)))
  else if !m.lbRoom r.vol lba then m
  else
    let d := m.framePage frame p
    let m := m.markWritten r.vol lba 1
    clean ((m.acceptLb r.vol lba d (m.posFor r.vol 7) true false).1.mirrorLb r.vol lba d)

/-- The LAMP phase writes back dirty lit pages; a page that holds a lost line is given up with a WARN. -/
def Mach.lampOut (m : Mach) : Mach :=
  m.each m.lamp.owner fun o m =>
    m.each ((List.range 512).filter fun p => (m.desc o.2).dirtyPages.getLsbD p) fun p m => m.lampPageOut o.1 o.2 p

/-- The write buffer is drained and every data furrow closed. -/
def Mach.drained (m : Mach) : Bool := (m.buf.vers.all fun x => x.st == .held) && m.buf.pgms.isEmpty

/-- What a DEFINITION record would newly hold is asked to be recorded (SET_LOT, R148). -/
def Mach.definitionIfChanged (m : Mach) : Mach := if m.defnNow = m.hdl.img.defn then m else (m.ask (.definition {})).1

/-- Every segment is clean, nothing waits to be written, and the log is durable. -/
def Mach.checkpointed (m : Mach) : Bool :=
  m.hdl.seg.all (fun e => !e.2.dirty) && m.hdl.want.isEmpty && m.hdl.log.all (fun r => r.durable) && !m.hdl.needRoot

/-- A phase's work has ended: the next begins. -/
def Mach.phaseEnd (m : Mach) : Mach :=
  match m.dev.phase with
  | .quiesce =>
    if !m.dev.loaded then m.updDev fun d => { d with phase := .checkpoint }
    else if m.hostIdle && m.gln.copies.isEmpty then m.updDev fun d => { d with phase := .lamp } else m
  | .lamp =>
    let m := m.lampOut
    if m.dirtyLit = 0 then m.updDev fun d => { d with phase := .drain } else m
  | .drain =>
    if m.drained then
      let m := m.discardAllHeld.each [0, 1, 2, 3, 4, 5, 7] fun p m => m.closePartial (Fin.ofNat 8 p)
      (m.snapshots.definitionIfChanged).updDev fun d => { d with phase := .checkpoint }
    else m.pushVers ((m.buf.vers.filter fun x => x.st != .held).map (·.id))
  | .checkpoint =>
    if !m.dev.loaded then m.shutdownDone
    else if m.checkpointed && !m.hdl.cleanRoot then (m.updHdl fun h => { h with cleanRoot := true }).appendDirectory else m
  | _ => m

end Sys2Proof.Machine
end

