-- ==== Sys2Proof/Machine/HealthOps.lean ====
section
/-! DEFINITION. The figures of the health log (Table 06.4) and the SMBus status window (Table 22.7). -/

namespace Sys2Proof.Machine

/-! ### Health -/

/-- Furrow positions of the device. -/
def Mach.positions (m : Mach) : List Nat := (List.range (4096 * m.rows)).filter m.isFurrow

/-- ⌊100 × mean erase count of the blocks in furrows / GLN_RATED⌋, sticking at 65,535 (R275). -/
def Mach.wear (m : Mach) : Nat :=
  let ps := m.positions
  let sum := (ps.map fun f => ((List.finRange 32).map fun c => (m.blk (dieOf c (f / 4096)) (m.memberBlock c f)).erases).sum).sum
  min 65535 (100 * sum / max 1 (32 * ps.length * m.rdN Reg.GLN_RATED))

/-- CRIT of the health log. -/
def Mach.crit (m : Mach) : Nat :=
  let b (x : Bool) (i : Nat) : Nat := if x then 2 ^ i else 0
  b (decide (m.adm.health.spare < 10)) 0 + b (decide (100 ≤ m.wear)) 1 +
    b ((List.finRange 64).any fun v => (m.volu v).st == .readOnly) 2 + b m.degraded 3 +
    b (m.adm.health.popErr != 0) 4 + b m.adm.health.tripSeen 5

/-- TWIN of IDENTIFY_CONTROLLER: no partner, partner link up, partner lost. -/
def Mach.twinField (m : Mach) : Nat := if !m.twn.paired then 0 else if m.partnerPresent then 1 else 2

/-- The highest on-die result, if any sensor has one. -/
def Mach.hottest (m : Mach) : Option Int :=
  (List.range 16).foldl (fun best i =>
    let s := m.sens i
    if !s.valid then best
    else match best with
      | none => some s.temp
      | some b => some (max b s.temp)) none

/-! ### The status window (R445) -/

/-- Two's complement of a number in n bytes. -/
def intBytes (n : Nat) (x : Int) : List Byte := leBytes n (x % (256 ^ n : Nat)).toNat

/-- The 16 bytes of Table 22.7. CRIT reads 0 until start-up step 10 ends, but for bit 5. -/
def Mach.statusWindow (m : Mach) : List Byte :=
  let d := m.dev
  leBytes 1 (d.st.num + (if m.degraded then 8 else 0)) ++ leBytes 2 m.bootWord.toNat ++ leBytes 1 d.cause.toNat ++
    leBytes 1 d.phase.num ++ leBytes 4 (if m.dev.started then m.crit else if m.adm.health.tripSeen then 32 else 0) ++
    (match m.hottest with | some t => intBytes 2 t | none => leBytes 2 0x8000) ++ leBytes 1 m.thm.level ++
    leBytes 1 ((if m.thm.trip then 1 else 0) + (if d.pf != .none then 2 else 0) + (if m.twinField = 2 then 4 else 0)) ++
    leBytes 1 m.adm.health.spare ++ leBytes 1 (min 255 m.wear) ++ leBytes 1 1

/-- Does the SMBus target answer: power and reset released, and step 1 over (R444)? -/
def Mach.smbusUp (m : Mach) : Bool := m.dev.pwrgd && m.dev.resetN && !(m.dev.st == .boot && m.dev.stage == 0)

end Sys2Proof.Machine
end

