-- ==== Sys2Proof/Machine/Mailbox.lean ====
section
/-! DEFINITION. The standard mailbox commands (R62, R84 to R88, R93, R95). Where a payload's layout is of CXL 2.0 and not in the manual
it is the model's (PRESUMED); bytes whose content neither gives are free values. -/

namespace Sys2Proof.Machine

/-- n bytes of a standard payload that the manual leaves to CXL 2.0: those of a command from byte i on, by the present draw. -/
def Mach.stdBytes (m : Mach) (cmd i n : Nat) : List Byte := (List.range n).map fun j => Config.standardByte m.free cmd (i + j)

/-- An identifier of n bytes that is of CXL 2.0: one value for every run. -/
def stdId (which n : Nat) : List Byte := (List.range n).map fun i => Config.standardByte 0 which i

/-- A standard command runs: the mailbox answers, and before IO_READY only the commands of R63. -/
def Mach.stdMail (i : Instr) (p : Port) (early : Bool) (f : Mach → Mach) (m : Mach) : Mach := m.mail i p 0 0 early f

/-! ### Event logs (R88) -/

/-- The record UUID of R374, in the order of its text. -/
def vendorUuid : List Byte :=
  [0x8C, 0x2E, 0x7F, 0x14, 0x6A, 0x3D, 0x4B, 0x91, 0x9E, 0x05, 0x2D, 0x7C, 0x40, 0xA1, 0xB6, 0xF3]

def EvKind.num : EvKind → Nat
  | .media _ => 0
  | .dram _ => 1
  | .module _ => 2
  | .vendor _ => 3

/-- The 80 bytes of record data; the Almanac time is their last 8, but for a vendor-specific record, which carries it as it is. -/
def Mach.evData (m : Mach) (r : EvRec) : List Byte :=
  let tail := leBytes 4 r.pot.toNat ++ leBytes 4 r.pcc.toNat
  match r.kind with
  | .media dpa => leBytes 8 dpa ++ m.stdBytes 256 8 64 ++ tail
  | .dram ch => leBytes 1 ch ++ m.stdBytes 257 1 71 ++ tail
  | .module st => leBytes 1 st.num ++ m.stdBytes 258 1 71 ++ tail
  | .vendor ws => wordBytes (padWords 20 ws)

/-- A record of 128 bytes: UUID, length and flags, handle, no timestamp, data. -/
def Mach.evBytes (m : Mach) (r : EvRec) : List Byte :=
  (if r.kind.num = 3 then vendorUuid else stdId (260 + r.kind.num) 16) ++ leBytes 4 128 ++ leBytes 2 r.handle ++ leBytes 26 0 ++
    m.evData r

/-- How many records one answer carries beside its header of 32 bytes. -/
def evPerAnswer : Nat := (16384 - 32) / 128

def Mach.evLog (m : Mach) (log : Fin 4) : EvLog := SMap.get {} m.adm.ev log.val

def Mach.getEvents (p : Port) (log : Fin 4) (m : Mach) : Mach :=
  let l := m.evLog log
  let rs := l.recs.take evPerAnswer
  let flags := (if l.overflow = 0 then 0 else 1) + (if evPerAnswer < l.recs.length then 2 else 0)
  (m.ok p (leBytes 2 flags ++ leBytes 2 l.overflow ++ leBytes 16 0 ++ leBytes 2 rs.length ++ leBytes 10 0 ++ rs.flatMap m.evBytes)).draw

def execGetEventRecords (p : Port) (log : Fin 4) (s : State) : Host.Outcome State Fault Refusal :=
  s.on (Mach.stdMail (.getEventRecords p log) p true (Mach.getEvents p log))

/-- Clear a whole log, or the records of some handles, each of which must be there; the overflow count goes with the records. -/
def Mach.clearEvents (p : Port) (log : Fin 4) (all : Bool) (handles : List Nat) (m : Mach) : Mach :=
  let l := m.evLog log
  if all || handles.all (fun h => l.recs.any fun r => r.handle == h) then
    let keep := if all then [] else l.recs.filter fun r => !handles.contains r.handle
    let l' : EvLog := { l with recs := keep, overflow := if keep.length < l.recs.length then 0 else l.overflow }
    (m.updAdm fun a => { a with ev := SMap.set {} a.ev log.val l' }).ok p []
  else m.refuse p St.invalidField

def execClearEventRecords (p : Port) (log : Fin 4) (all : Bool) (handles : List Nat) (s : State) :
    Host.Outcome State Fault Refusal :=
  s.on (Mach.stdMail (.clearEventRecords p log all handles) p true (Mach.clearEvents p log all handles))

/-! ### Get FW Info (R62) -/

def FwSlot.rev (x : FwSlot) : List Byte := (List.range 16).map fun i => if x.valid then x.img.fwrev.extractLsb' (8 * i) 8 else 0

/-- The number that Get FW Info gives a slot; none under the RECOVERY strap, where no slot is active. -/
def Mach.runningSlot (m : Mach) : Nat := if m.dev.recovery then 0 else m.dev.slot.val + 1

def Mach.getFwInfo (p : Port) (m : Mach) : Mach :=
  let staged := if m.runningSlot = m.adm.active.val + 1 then 0 else m.adm.active.val + 1
  m.ok p (leBytes 1 2 ++ leBytes 1 (m.runningSlot + 8 * staged) ++ leBytes 1 1 ++ leBytes 13 0 ++ m.adm.fw.p0.rev ++ m.adm.fw.p1.rev ++
    leBytes 32 0)

def execGetFwInfo (p : Port) (s : State) : Host.Outcome State Fault Refusal := s.on (Mach.stdMail (.getFwInfo p) p true (Mach.getFwInfo p))

/-! ### Standard logs (R85) -/

/-- The standard opcodes that the ports support. -/
def stdOpcodes : List Nat := [0x0100, 0x0101, 0x0200, 0x0201, 0x0202, 0x0400, 0x0401, 0x4000, 0x4200, 0x4300]

/-- The vendor opcodes of Table 06.1. -/
def vendorOpcodes : List Nat :=
  [0xC000, 0xC001, 0xC002, 0xC003, 0xC010, 0xC011, 0xC012, 0xC020, 0xC021, 0xC030, 0xC031, 0xC032, 0xC040, 0xC050, 0xC051, 0xC060,
   0xC070, 0xC071]

/-- The Command Effects Log: exactly the supported set, each opcode with its effects. -/
def effectsLog : List Byte :=
  (List.range (stdOpcodes ++ vendorOpcodes).length).flatMap fun i =>
    leBytes 2 ((stdOpcodes ++ vendorOpcodes).getD i 0) ++ [Config.standardLogByte (2 * i), Config.standardLogByte (2 * i + 1)]

/-- One log is supported: its identifier and its size. -/
def Mach.supportedLogs (p : Port) (m : Mach) : Mach :=
  (m.ok p (leBytes 2 1 ++ leBytes 6 0 ++ stdId 0x0400 16 ++ leBytes 4 effectsLog.length)).draw

def execGetSupportedLogs (p : Port) (s : State) : Host.Outcome State Fault Refusal := s.on (Mach.stdMail (.getSupportedLogs p) p true (Mach.supportedLogs p))

def Mach.getLog (p : Port) (cel : Bool) (off len : Nat) (m : Mach) : Mach :=
  if cel && decide (off + len ≤ effectsLog.length) then m.ok p ((effectsLog.drop off).take len) else m.refuse p St.invalidField

def execGetLog (p : Port) (cel : Bool) (off length : Nat) (s : State) : Host.Outcome State Fault Refusal :=
  s.on (Mach.stdMail (.getLog p cel off length) p true (Mach.getLog p cel off length))

/-! ### Identity, health and poison -/

/-- 256 TiB in units of 256 MiB, as volatile-only or persistent-only capacity (R93); label storage size 0. -/
def Mach.identifyMemory (p : Port) (m : Mach) : Mach :=
  let cap := 2 ^ 20
  let v := if m.adm.plm = 1 then 0 else cap
  (m.ok p ((if m.dev.recovery then leBytes 16 0 else (if m.dev.slot = 0 then m.adm.fw.p0 else m.adm.fw.p1).rev) ++ leBytes 8 cap ++
    leBytes 8 v ++ leBytes 8 (cap - v) ++ leBytes 8 0 ++ leBytes 2 256 ++ leBytes 2 256 ++ leBytes 2 256 ++ leBytes 2 256 ++ leBytes 4 0 ++
    leBytes 3 1024 ++ leBytes 2 0 ++ m.stdBytes 0x4000 65 2)).draw

def execIdentifyMemoryDevice (p : Port) (s : State) : Host.Outcome State Fault Refusal := s.on (Mach.stdMail (.identifyMemoryDevice p) p true (Mach.identifyMemory p))

/-- The standard data, and DEV_STATUS.STATE behind it (R15). -/
def Mach.healthInfo (p : Port) (m : Mach) : Mach := (m.ok p (m.stdBytes 0x4200 0 18 ++ leBytes 1 m.dev.st.num)).draw

def execGetHealthInfo (p : Port) (s : State) : Host.Outcome State Fault Refusal := s.on (Mach.stdMail (.getHealthInfo p) p true (Mach.healthInfo p))

/-- How many entries one answer carries beside its header of 32 bytes. -/
def poisonPerAnswer : Nat := (16384 - 32) / 16

/-- Entries of the list that meet a range of 64-byte units. -/
def Mach.poisonIn (m : Mach) (dpa len : Nat) : List (Nat × Nat × Nat) :=
  m.adm.poison.filter fun e => decide (e.1 < dpa + 64 * len ∧ dpa < e.1 + 64 * e.2.1)

def Mach.poisonList (p : Port) (dpa len : Nat) (m : Mach) : Mach :=
  let l := m.poisonIn dpa len
  let es := l.take poisonPerAnswer
  let flags := (if es.length < l.length then 1 else 0) + (if m.adm.poisonOver then 2 else 0)
  m.ok p (leBytes 2 flags ++ leBytes 8 0 ++ leBytes 2 es.length ++ leBytes 20 0 ++
    es.flatMap fun e => leBytes 8 (e.1 + e.2.2) ++ leBytes 4 e.2.1 ++ leBytes 4 0)

def execGetPoisonList (p : Port) (dpa length : Nat) (s : State) : Host.Outcome State Fault Refusal :=
  s.on (Mach.stdMail (.getPoisonList p dpa length) p false (Mach.poisonList p dpa length))

/-! ### Opcodes that are not supported (R85, R131) -/

def Mach.badOpcode (i : Instr) (p : Port) (m : Mach) : Mach := m.stdMail i p true fun m => m.refuse p St.invalidOpcode

def isVendor (o : BitVec 16) : Bool := decide (0xC000 ≤ o.toNat ∧ o.toNat ≤ 0xC0FF)

def execUnsupportedOpcode (p : Port) (opcode : BitVec 16) (s : State) : Host.Outcome State Fault Refusal :=
  s.on fun m => m.when (!stdOpcodes.contains opcode.toNat && !isVendor opcode) (Mach.badOpcode (.unsupportedOpcode p opcode) p)

def execInvalidVendorOpcode (p : Port) (opcode : BitVec 16) (s : State) : Host.Outcome State Fault Refusal :=
  s.on fun m => m.when (isVendor opcode && !vendorOpcodes.contains opcode.toNat) (Mach.badOpcode (.invalidVendorOpcode p opcode) p)

end Sys2Proof.Machine
end

