-- ==== Sys2Proof/Machine/Admin.lean ====
section
/-! DEFINITION. Identification, logs, features and the service unlock (R132 to R136, R141, R143, R145, R146, R273, R296, R372). -/

namespace Sys2Proof.Machine

/-! ### IDENTIFY_CONTROLLER (Table 06.2) -/

/-- SV of a slot: 0xFF where it is invalid. -/
def FwSlot.svByte (x : FwSlot) : Nat := if x.valid then x.img.sv else 0xFF

/-- Flash rate in effect: 1 only where every group runs at 3,600 MT/s. -/
def Mach.allFast (m : Mach) : Bool := (List.finRange 32).all fun c => (m.chn c).rate == 3

/-- The 20 bytes of SERIAL. -/
def Mach.serialBytes (m : Mach) : List Byte := leBytes 20 m.adm.board.serial.toNat

/-- Bytes 0x000 to 0x071. -/
def Mach.identity (m : Mach) : List Byte :=
  let b := m.adm.board
  let fw := m.adm.fw
  leBytes 2 0x2C51 ++ leBytes 2 0x7140 ++ leBytes 1 0xA2 ++ leBytes 1 m.adm.plm ++ leBytes 1 64 ++
    leBytes 1 ((List.finRange 64).filter fun v => (m.volu v).st != .absent).length ++ m.serialBytes ++ leBytes 4 0 ++ fw.p0.rev ++ fw.p1.rev ++
    leBytes 8 (4096 * m.goodLbs) ++ leBytes 8 m.vol.usercap ++ leBytes 8 m.allocCap ++ leBytes 1 32 ++ leBytes 1 b.targets ++ leBytes 1 b.dies ++
    leBytes 1 (if m.allFast then 1 else 0) ++ leBytes 2 b.pages ++ leBytes 2 b.blocks ++ leBytes 1 b.planes ++ leBytes 1 m.adm.svFloor ++
    leBytes 1 fw.p0.svByte ++ leBytes 1 fw.p1.svByte ++ leBytes 2 256 ++ leBytes 2 4096 ++ leBytes 2 m.dramGib ++
    leBytes 1 m.adm.now.wbufGib ++ leBytes 1 (m.lamp.frames / 512) ++ leBytes 2 512 ++ leBytes 2 1024 ++ leBytes 1 4 ++ leBytes 1 m.twinField

def Mach.identify (p : Port) (m : Mach) : Mach := m.ok p (m.identity ++ leBytes (512 - 0x72) 0)

def execIdentifyController (p : Port) (len : Nat) (s : State) : Host.Outcome State Fault Refusal :=
  s.on (Mach.mail (.identifyController p len) p len 0 true (Mach.identify p))

/-! ### GET_LOG_EXT (R133, R134, Tables 06.4, 06.5 and 11.6) -/

/-- A bin of THIST: count and saturation flag. -/
def Accum.binBytes (a : Accum) (i : Nat) : List Byte :=
  leBytes 8 (SMap.get 0 a.bins i % 2 ^ 48 + (if a.sat.testBit i then 2 ^ 63 else 0))

/-- The health log. -/
def Mach.healthLog (m : Mach) : List Byte :=
  let h := m.adm.health
  let t := SMap.get {} m.alm.acc 0x01
  leBytes 4 m.crit ++ leBytes 1 h.spare ++ leBytes 1 10 ++ leBytes 2 m.wear ++ leBytes 1 h.popErr ++ leBytes 7 0 ++ leBytes 8 h.unrec ++
    leBytes 8 h.authFail ++ leBytes 8 h.recon ++ leBytes 8 h.wfault ++ leBytes 8 h.dramCe ++ leBytes 8 h.dramUe ++
    leBytes 4 (min 0xFFFFFFFF h.grownBad) ++ leBytes 4 (min 0xFFFFFFFF h.intErase) ++ leBytes 4 m.alm.pcc.toNat ++ leBytes 4 m.alm.pot.toNat ++
    leBytes 4 (min 0xFFFFFFFF h.unclean) ++ leBytes 4 0 ++ intBytes 2 t.mn ++ intBytes 2 t.mx ++ leBytes 4 0 ++
    (List.range 16).flatMap t.binBytes ++ leBytes 32 0

/-- STATE of Table 06.5. -/
def VolSt.num : VolSt → Nat
  | .absent => 0
  | .formatting => 1
  | .ready => 2
  | .readOnly => 3
  | .faulted => 4

/-- MUs of a volume with a mapped entry. -/
def Mach.mapped (m : Mach) (v : Vol) : Nat := (m.vol.map.filter fun e => v.chunks.contains (e.1 / 65536)).length

/-- A volume table entry. -/
def Mach.volEntry (m : Mach) (v : Vid) : List Byte :=
  let x := m.volu v
  let flag (b : Bool) (i : Nat) : Nat := if b then 2 ^ i else 0
  leBytes 1 x.st.num ++ leBytes 1 (flag x.layout1 0 + flag x.enc 1 + flag x.mirrored 2 + flag x.owner 3 + flag x.internal 4) ++
    leBytes 2 x.keySlot ++ leBytes 1 (if x.st == .formatting then Config.percent m.free v.val % 101 else 0) ++ leBytes 3 0 ++ leBytes 8 x.size ++
    leBytes 8 (m.mapped x) ++ leBytes 8 x.fence ++ leBytes 32 0

/-- Is a block of a die FACTORY_BAD, by its state or by its mark? -/
def Mach.factoryBad (m : Mach) (d b : Nat) : Bool :=
  (m.blk d b).st == .factoryBad || (m.die d).info.any fun i => i.factoryBad.contains b

/-- What SUBST says of a spare: free, bad, or the furrow block index it serves. -/
def Mach.substOf (m : Mach) (d b : Nat) : Nat :=
  if m.factoryBad d b || (m.blk d b).st == .grownBad then 0xFFFE else SMap.get 0xFFFF (m.die d).subst b

/-- A spare that is FALLOW and unassigned. -/
def Mach.spareFree (m : Mach) (d b : Nat) : Bool :=
  let st := (m.blk d b).st
  m.substOf d b == 0xFFFF && st != .erasing && st != .eraseSuspended && st != .eraseInterrupted

def grownBytes (g : Option Grown) : List Byte :=
  match g with
  | some g => leBytes 4 (g.block % 4096 + 4096 * (g.cause % 16)) ++ leBytes 4 g.pot.toNat
  | none => leBytes 8 0

/-- The bad-block log of one die. -/
def Mach.badLog (m : Mach) (d : Nat) : List Byte :=
  let x := m.die d
  let n := m.nspare
  let fb := (List.range m.adm.board.blocks).filter (m.factoryBad d)
  leBytes 2 d ++ leBytes 2 fb.length ++ leBytes 2 x.grown.length ++ leBytes 2 n ++
    leBytes 2 ((List.range n).filter fun i => m.spareFree d (m.firstSpare + i)).length ++ leBytes 1 (if m.grownFull d then 1 else 0) ++
    leBytes 53 0 ++ leBytes 512 (fb.map fun b => 2 ^ b).sum ++ (List.range 256).flatMap (fun i => grownBytes x.grown[i]?) ++
    (List.range 128).flatMap fun i => leBytes 2 (if i < n then m.substOf d (m.firstSpare + i) else 0xFFFF)

/-- Records in ascending SEQ, 128 bytes each. -/
def ringLog (l : List AlmRec) : List Byte := (sortRecs l).flatMap fun r => wordBytes r.words

/-- A log of Table 06.3, by its number and selector. DESIGN CHOICE (log entry 171): a LOG_ID outside the table and a SELECTOR that names
nothing answer INVALID_FIELD. -/
def Mach.extLog (m : Mach) (id sel : Nat) : Option (List Byte) :=
  match id with
  | 1 => some m.healthLog
  | 2 => some ((List.finRange 64).flatMap m.volEntry)
  | 3 => if (m.die sel).info.isSome then some (m.badLog sel) else none
  | 4 => if sel = 0 then some (ringLog (m.alm.ring.map (·.2))) else if sel = 1 then some (ringLog m.alm.pers) else none
  | _ => none

def Mach.getLogExt (p : Port) (id sel off len : Nat) (m : Mach) : Mach :=
  if len = 0 || 16384 < len then m.refuse p St.invalidField
  else match m.extLog id sel with
    | none => m.refuse p St.invalidField
    | some b => if b.length ≤ off then m.refuse p St.invalidField else (m.ok p ((b.drop off).take len)).draw

def execGetLogExt (p : Port) (len : Nat) (logId selector off length : Nat) (s : State) : Host.Outcome State Fault Refusal :=
  s.on (Mach.mail (.getLogExt p len logId selector off length) p len 12 true (Mach.getLogExt p logId selector off length))

/-! ### GET_FEATURE (R136, Table 06.6) -/

/-- A feature that holds one number. -/
def Features.value (f : Features) (fid : Nat) : Option Nat :=
  match fid with
  | 1 => some f.wbufGib
  | 2 => some f.plmode
  | 3 => some f.holdupUs
  | 4 => some f.boardMw
  | 5 => some f.poolGib
  | 6 => some f.partnerLost
  | 7 => some f.thermMs
  | 8 => some f.frateCap
  | _ => none

/-- Value in effect, and value at the next device reset. -/
def Mach.feature (m : Mach) (fid sel : Nat) : Option (Nat × Nat) :=
  let both (x : Nat) : Option (Nat × Nat) := some (x, x)
  match fid with
  | 9 => some (if m.adm.serviceKey.isSome then 1 else 0, 0)
  | 0xA => both m.adm.svFloor
  | 0x20 => if h : sel < 64 then both (if (m.volu ⟨sel, h⟩).st == .readOnly then 1 else 0) else none
  | _ => match m.adm.now.value fid, m.adm.nxt.value fid with
    | some a, some b => some (a, b)
    | _, _ => none

def Mach.getFeature (p : Port) (fid sel : Nat) (m : Mach) : Mach :=
  match m.feature fid sel with
  | some (a, b) => m.ok p (leBytes 8 a ++ leBytes 8 b)
  | none => m.refuse p St.invalidField

def execGetFeature (p : Port) (len : Nat) (fid selector : Nat) (s : State) : Host.Outcome State Fault Refusal :=
  s.on (Mach.mail (.getFeature p len fid selector) p len 4 true (Mach.getFeature p fid selector))

/-! ### SET_FEATURE -/

/-- The range of a feature; for WBUF_GIB the DRAM placement of the next reset as well (R26). -/
def Mach.featureOk (m : Mach) (fid v : Nat) : Bool :=
  match fid with
  | 1 => decide (1 ≤ v ∧ v ≤ 32) && m.dramFits m.vol.entries v m.descBytes
  | 2 => decide (v ≤ 1)
  | 4 => decide (v ≤ 65535)
  | 5 => decide (v ≤ 96)
  | 6 => decide (v ≤ 1)
  | 7 => decide (v ≤ 10000)
  | 8 => decide (v ≤ 1)
  | _ => false

def Features.put (fid v : Nat) (f : Features) : Features :=
  match fid with
  | 1 => { f with wbufGib := v }
  | 2 => { f with plmode := v }
  | 3 => { f with holdupUs := v }
  | 4 => { f with boardMw := v }
  | 5 => { f with poolGib := v }
  | 6 => { f with partnerLost := v }
  | 7 => { f with thermMs := v }
  | 8 => { f with frateCap := v }
  | _ => f

/-- Features that take effect at once. -/
def atOnce (fid : Nat) : Bool := fid == 3 || fid == 4 || fid == 6 || fid == 7

/-- Store a value; it is answered when its DEFINITION record is durable. -/
def Mach.storeFeature (p : Port) (fid v : Nat) (m : Mach) : Mach :=
  (m.updAdm fun a => { a with nxt := a.nxt.put fid v, now := if atOnce fid then a.now.put fid v else a.now }).askDefinition (.feature p)

/-- PARTNER_LOST becomes 0: what waited only for a partner that is lost goes on (Table 17.5). -/
def Mach.letUnmirrored (m : Mach) : Mach :=
  let gone (i : Nat) : Bool := !(m.twn.tx.any fun e => e.1 == i)
  let m := m.each m.q.used fun s m =>
    let c := m.cmd s
    if c.kind != .host then m
    else m.setCmd s { c with
      xid := if c.xid.any gone then none else c.xid
      cover := c.cover.filter fun x => match x with
        | .partner i => !gone i
        | _ => true }
  m.settleCovers

/-- HOLDUP_US: below HDL_MINHOLD, or with a budget too small, nothing changes (R294, R296). -/
def Mach.holdupOk (m : Mach) (v : Nat) : Bool :=
  decide (2000 ≤ v ∧ v ≤ 100000) && decide (m.minHold ≤ v) &&
    (m.adm.now.plmode != 1 ||
      (decide (2 ^ 24 ≤ m.budgetFor v) && decide (1 ≤ bufCapFor (m.budgetFor v) (m.rdN Reg.LMP_DIRTYCAP))))

/-- The new budget applies to the buffer cap at once, to the lamp caps at the next reset. -/
def Mach.setHoldup (p : Port) (v : Nat) (m : Mach) : Mach :=
  if !m.holdupOk v then m.refuse p St.invalidField
  else
    let b := m.budgetFor v
    let m := if m.adm.plm = 1 then
        m.updHdl fun h => { h with budget := b, bufCap := bufCapFor b (m.rdN Reg.LMP_DIRTYCAP) }
      else m
    m.storeFeature p 3 v

def execSetHoldupUs (p : Port) (len : Nat) (v : Nat) (s : State) : Host.Outcome State Fault Refusal :=
  s.on (Mach.mail (.setHoldupUs p len v) p len 12 false (Mach.setHoldup p v))

/-- SERVICE_KEY can be set once (R146). -/
def Mach.setKey (p : Port) (k : BitVec 776) (m : Mach) : Mach :=
  if m.adm.serviceKey.isSome then m.refuse p St.accessDenied
  else if !Config.onCurve k then m.refuse p St.invalidField
  else (m.updAdm fun a => { a with serviceKey := some k }).askDefinition (.feature p)

def execSetServiceKey (p : Port) (len : Nat) (k : BitVec 776) (s : State) : Host.Outcome State Fault Refusal :=
  s.on (Mach.mail (.setServiceKey p len k) p len 101 false (Mach.setKey p k))

/-- SV_COMMIT burns fuses (R143); under the RECOVERY strap no slot runs, and nothing can be committed. -/
def Mach.svCommit (p : Port) (v : Nat) (m : Mach) : Mach :=
  if v = 0 || 63 < v || v < m.adm.svFloor || m.dev.recovery || (m.slot m.dev.slot).img.sv < v then m.refuse p St.invalidField
  else (m.updAdm fun a => { a with svFloor := v }).ok p []

def execSetSvCommit (p : Port) (len : Nat) (v : Nat) (s : State) : Host.Outcome State Fault Refusal :=
  s.on (Mach.mail (.setSvCommit p len v) p len 12 false (Mach.svCommit p v))

/-- No volume may leave READ_ONLY: SPARE is 0, or the sequence limit has been reached (R141, R422). -/
def Mach.stuckReadOnly (m : Mach) : Bool := m.adm.health.spare == 0 || m.buf.limit

/-- VOLUME_RO (R141). -/
def Mach.volumeRo (p : Port) (vol : Vid) (v : Nat) (m : Mach) : Mach :=
  let x := m.volu vol
  if v = 1 && x.st == .ready then (m.setVol vol { x with st := .readOnly }).askDefinition (.feature p)
  else if v = 0 && x.st == .readOnly then
    if m.stuckReadOnly then m.refuse p St.noSpace else (m.setVol vol { x with st := .ready }).askDefinition (.feature p)
  else m.refuse p St.invalidField

def execSetVolumeRo (p : Port) (len : Nat) (vol : Vid) (v : Nat) (s : State) : Host.Outcome State Fault Refusal :=
  s.on (Mach.mail (.setVolumeRo p len vol v) p len 12 false (Mach.volumeRo p vol v))

/-- SET_FEATURE by its number. -/
def Mach.setFeature (p : Port) (fid sel v : Nat) (m : Mach) : Mach :=
  match fid with
  | 3 => m.setHoldup p v
  | 9 => m.setKey p (BitVec.ofNat 776 v)
  | 0xA => m.svCommit p v
  | 0x20 => if h : sel < 64 then m.volumeRo p ⟨sel, h⟩ v else m.refuse p St.invalidField
  | _ =>
    if !m.featureOk fid v then m.refuse p St.invalidField
    else (m.storeFeature p fid v).when (fid == 6 && v == 0) Mach.letUnmirrored

/-- Payload length: 4 bytes of FID and SELECTOR, then 8, or 97 for SERVICE_KEY. -/
def featureLen (fid : Nat) : Nat := if fid = 9 then 101 else 12

def execSetFeature (p : Port) (len : Nat) (fid selector : Nat) (v : Nat) (s : State) : Host.Outcome State Fault Refusal :=
  s.on (Mach.mail (.setFeature p len fid selector v) p len (featureLen fid) false (Mach.setFeature p fid selector v))

/-! ### SERVICE_UNLOCK (R145, R146) -/

/-- With no SERVICE_KEY set every phase is refused. -/
def Mach.withServiceKey (p : Port) (f : BitVec 776 → Mach → Mach) (m : Mach) : Mach :=
  match m.adm.serviceKey with
  | none => m.refuse p St.accessDenied
  | some k => f k m

/-- PHASE 0: a fresh challenge replaces any earlier one of the port. -/
def Mach.unlockChallenge (p : Port) (m : Mach) : Mach :=
  let c := Config.random384 m.free
  ((m.draw.updPort p fun x => { x with challenge := some c })).ok p (leBytes 48 c.toNat)

def execServiceUnlockChallenge (p : Port) (len : Nat) (s : State) : Host.Outcome State Fault Refusal :=
  s.on (Mach.mail (.serviceUnlockChallenge p len) p len 1 true (Mach.withServiceKey p fun _ => Mach.unlockChallenge p))

/-- PHASE 1: the challenge is used up either way; after eight failures in a row it is refused unseen. -/
def Mach.unlockSignature (p : Port) (sig : BitVec 768) (k : BitVec 776) (m : Mach) : Mach :=
  let m' := m.updPort p fun x => { x with challenge := none }
  match (m.port.get p).challenge with
  | none => m.refuse p St.accessDenied
  | some c =>
    if m.adm.sigLocked || 8 ≤ m.adm.sigFails then m'.refuse p St.accessDenied
    else if Config.verifies k (leBytes 48 c.toNat ++ m.serialBytes) sig then
      ((m'.updAdm fun a => { a with sigFails := 0 }).updPort p fun x => { x with unlocked := true }).ok p []
    else (m'.updAdm fun a => { a with sigFails := a.sigFails + 1 }).refuse p St.accessDenied

def execServiceUnlockSignature (p : Port) (len : Nat) (sig : BitVec 768) (s : State) : Host.Outcome State Fault Refusal :=
  s.on (Mach.mail (.serviceUnlockSignature p len sig) p len 97 true (Mach.withServiceKey p (Mach.unlockSignature p sig)))

/-- The eighth failure in a row locks PHASE 1 until the next device reset, with a WARN. -/
def Mach.lockout (m : Mach) : Mach :=
  if m.adm.sigFails < 8 || m.adm.sigLocked then m
  else (m.updAdm fun a => { a with sigLocked := true }).devEvent .warn 0x010A 0 []

def execSignatureLockout (s : State) : Host.Outcome State Fault Refusal := s.on Mach.lockout

/-- PHASE 2 relocks the port. -/
def Mach.relock (p : Port) (m : Mach) : Mach := (m.updPort p fun x => { x with unlocked := false }).ok p []

def execServiceUnlockRelock (p : Port) (len : Nat) (s : State) : Host.Outcome State Fault Refusal :=
  s.on (Mach.mail (.serviceUnlockRelock p len) p len 1 true (Mach.withServiceKey p fun _ => Mach.relock p))

end Sys2Proof.Machine
end

