-- ==== Sys2Proof/Machine/Admission.lean ====
section
/-! DEFINITION. Validation and admission (R96, R111, R116, R118, R119, R125, R384), and what a FLUSH covers (R122, R249). -/

namespace Sys2Proof.Machine

/-! ### The checks of Table 05.4 -/

/-- A command is refused: its status, and result dword 2. -/
abbrev Verdict := Option (Nat × Nat)

/-- The first of some verdicts that refuses. -/
def firstOf : List Verdict → Verdict
  | [] => none
  | some v :: _ => some v
  | none :: vs => firstOf vs

def refuseIf (b : Bool) (status dw2 : Nat) : Verdict := if b then some (status, dw2) else none

/-- The entry's pair checks CRCs. -/
def Mach.crcOn (m : Mach) (c : Cmd) : Bool :=
  match c.qid with
  | some q => (m.qp q).crc
  | none => false

/-- Another command of the port with the same TAG is in flight: its entry has been at the admission point (R116, R125). -/
def Mach.tagTaken (m : Mach) (s : Nat) : Bool :=
  let c := m.cmd s
  m.q.used.any fun t =>
    let d := m.cmd t
    t != s && d.kind == .host && d.port == c.port && entTag d.entry == entTag c.entry && d.stage != .fetching && d.stage != .waiting

/-- Do the conditions of R384 hold? -/
def ownerOk (v : Vol) (o : Nat) : Bool :=
  if !v.mirrored then true
  else if o == opRead || o == opVerify || o == opFlush then v.owner || v.twin == .inSync
  else v.owner && v.twin != .handover

/-- A fence check applies and FENCE is not the volume's epoch. -/
def fenceBad (v : Vol) (e : Entry) : Bool := entFev e && entFence e != v.fence

/-- Check 7. FLUSH has no fields to check. -/
def fieldCheck (e : Entry) : Verdict :=
  let o := entOpc e
  if o == opFlush then none
  else firstOf [
    refuseIf (decide (maxCount o < entCount e)) St.invalidField 16,
    refuseIf (o == opWrite && decide (3 < entStream e)) St.invalidField 1,
    refuseIf ((o == opRead || o == opWrite) && entDptr e % (if entSgl e then 16 else 4) != 0) St.invalidField 24]

/-- Check 8. -/
def rangeCheck (v : Vol) (e : Entry) : Verdict :=
  refuseIf (entOpc e != opFlush && decide (v.size < entSlba e + entCount e)) St.lbaRange 0

/-- A nonce counter at or above 2^64 − 2^32 takes no host write (R328, R424). -/
def KeySlot.spent (k : KeySlot) : Bool := k.st == .exhausted || k.st == .halted || decide (nonceSoft ≤ k.nonce)

/-- Check 10. -/
def Mach.keyCheck (m : Mach) (v : Vol) (o : Nat) : Verdict :=
  let w := o == opWrite || o == opDealloc
  let k := m.kslot v.keySlot
  if v.enc then firstOf [refuseIf (k.st == .empty) St.keySlotEmpty 0, refuseIf (w && k.spent) St.keyExhausted 0]
  else refuseIf (w && m.key.integ.spent) St.keyExhausted 0

/-- Block commands are served: the device past start-up, the CIP and KEY pages running (R20, Table 02.8). -/
def Mach.blockOpen (m : Mach) : Bool := m.ioUp && m.running .cip && m.running .key

/-- Checks 1 and 2. -/
def Mach.entryCheck (m : Mach) (s : Nat) : Verdict :=
  let c := m.cmd s
  firstOf [refuseIf (m.crcOn c && entCrc c.entry != entryCrc c.entry) St.invalidField 60, refuseIf (m.tagTaken s) St.dupTag 0]

/-- Checks 3 to 10. -/
def Mach.commandCheck (m : Mach) (e : Entry) : Verdict :=
  let o := entOpc e
  let v := m.volu (entVol e)
  firstOf [
    refuseIf (!knownOpc o) St.invalidOpcode 0,
    refuseIf (v.st == .absent) St.invalidField 4,
    refuseIf (!(m.blockOpen && v.serves)) St.volumeNotReady 0,
    refuseIf (fenceBad v e || !ownerOk v o) St.notOwner 32,
    fieldCheck e,
    rangeCheck v e,
    refuseIf (v.st == .readOnly && (o == opWrite || o == opDealloc)) St.writeProtected 0,
    m.keyCheck v o]

def Mach.validate (m : Mach) (s : Nat) : Verdict := firstOf [m.entryCheck s, m.commandCheck (m.cmd s).entry]

/-- A refusal for a FENCE that differs from E counts, sets TWN PG_ERR bit 18 and writes event 0x0112 (R384). -/
def Mach.fenceRefused (v : Vid) (m : Mach) : Mach :=
  ((m.bump Reg.TWN_STALE).raise .twn 18 (BitVec.ofNat 64 v.val)).devEvent .crit 0x0112 (BitVec.ofNat 64 v.val) []

/-- What a refusal counts: CRC failures, duplicate tags, stale fence epochs with event 0x0112 (R384). -/
def Mach.countRefusal (s status dw2 : Nat) (m : Mach) : Mach :=
  let e := (m.cmd s).entry
  let m := m.when (status = St.invalidField && dw2 = 60) (Mach.bump Reg.QCT_CRCERR)
  let m := m.when (status = St.dupTag) (Mach.bump Reg.QCT_DUPTAG)
  m.when (status = St.notOwner && fenceBad (m.volu (entVol e)) e) (Mach.fenceRefused (entVol e))

/-! ### What a FLUSH covers (R122, R249) -/

/-- Deallocation records of a volume that are not durable. -/
def Mach.openDeallocs (m : Mach) (v : Vid) : List Nat :=
  let is (b : HBody) : Bool := match b with
    | .dealloc u _ _ _ => u == v
    | _ => false
  ((m.hdl.want.filter fun w => is w.2).map (·.1)) ++ ((m.hdl.log.filter fun r => !r.durable && is r.body).map (·.id))

/-- The conditions of a FLUSH validated now, and whether one of its versions is held (R243). -/
def Mach.flushCovers (m : Mach) (v : Vid) : List Cover × Bool :=
  let r := m.verCovers (m.coveredVers v)
  (r.1 ++ ((m.buf.unprot.filter fun u => u.vol == v && u.cov).map fun u => Cover.stripe u.fsn u.page u.ch) ++
    (m.openDeallocs v).map Cover.record, r.2)

/-- A FLUSH that has passed validation takes no lock; what it covers is fixed now. -/
def Mach.admitFlush (s : Nat) (m : Mach) : Mach :=
  let c := m.cmd s
  let r := m.flushCovers (entVol c.entry)
  m.setCmd s { c with stage := .admitted, cover := if r.2 then [] else r.1, fails := if r.2 then [(0, St.writeFault)] else [] }

/-! ### The admission point (R118) -/

/-- One entry is validated and enters the table, or completes. Under viral it completes with ABORTED_BY_RESET (R96), and so does an entry
whose fetch read was outstanding when the controller entered FAILED: it had not started (R18). -/
def Mach.admission (m : Mach) : Mach :=
  match m.q.adm with
  | [] => m
  | s :: rest =>
    let m := m.updQ fun q => { q with adm := rest }
    if m.viral || m.dev.st == .failed then m.complete s St.abortedByReset 0 0
    else match m.validate s with
      | some (status, dw2) => (m.countRefusal s status dw2).complete s status dw2 0
      | none => if entOpc (m.cmd s).entry == opFlush then m.admitFlush s else m.enterLock s

def execCommandAdmission (s : State) : Host.Outcome State Fault Refusal := s.on Mach.admission

end Sys2Proof.Machine
end

