-- ==== Sys2Proof/Machine/DramOps.lean ====
section
/-! DEFINITION. The outcomes of a line read (R310 to R312) and the Lamplighter (R309, R314, R315). -/

namespace Sys2Proof.Machine

/-! ### Corrected and uncorrectable lines -/

/-- Index 2 × subchannel + rank. -/
def subRank (b rank1 : Bool) : Nat := (if b then 2 else 0) + (if rank1 then 1 else 0)

/-- Key of a device's count within a channel. -/
def devKey (sr dev : Nat) : Nat := 5 * sr + dev

/-- The pins of a device as a number. -/
def pinBits (w : Word) : Nat := w.toNat % 256

/-- One more line of a device in this pass. -/
def Mach.countDev (d : Fin 4) (sr dev pins : Nat) (m : Mach) : Mach :=
  let x := m.dram d
  let k := devKey sr dev
  m.setDram d { x with devCe := SMap.set 0 x.devCe k (min 65535 (SMap.get 0 x.devCe k + 1)),
                       passPins := SMap.set 0 x.passPins k (SMap.get 0 x.passPins k ||| pins) }

/-- The marking changes: it joins the next DEFINITION record, and a full mask is CRIT. -/
def Mach.setMark (d : Fin 4) (sr dev pins : Nat) (m : Mach) : Mach :=
  let x := m.dram d
  let m := (m.setDram d { x with marked := SMap.set 0 x.marked sr (dev + 1), pins := SMap.set 0 x.pins sr pins }).touch (.drc d)
  let m := if m.dev.loaded then (m.ask (.definition {})).1 else m
  if pins = 255 then m.devEvent .crit 0x0111 (BitVec.ofNat 64 (20 * d.val + devKey sr dev)) [] else m

/-- A device has reached DRC_SPARETHR in this pass: it is marked. -/
def Mach.markDevice (d : Fin 4) (sr dev : Nat) (m : Mach) : Mach :=
  let pins := SMap.get 0 (m.dram d).passPins (devKey sr dev)
  let m := m.setMark d sr dev pins
  ((m.raise (.drc d) 18 (BitVec.ofNat 64 (devKey sr dev))).logEvent 1 (.dram d.val)).settleDev

/-- A corrected line (R310, R311). -/
def Mach.dramCorrected (d : Fin 4) (sr dev pins : Nat) (m : Mach) : Mach :=
  let m := (m.bump64 (drcReg d Reg.DRC_CE_LO)).health fun h => { h with dramCe := (h.dramCe + 1) % 2 ^ 64 }
  let m := m.countDev d sr dev pins
  let x := m.dram d
  if SMap.get 0 x.marked sr = 0 then
    if m.rdN (drcReg d Reg.DRC_SPARETHR) ≤ SMap.get 0 x.devCe (devKey sr dev) then m.markDevice d sr dev else m
  else
    let mask := SMap.get 0 x.pins sr
    if mask ||| pins = mask then m else m.setMark d sr dev (mask ||| pins)

/-- The outcome of Table 13.3 for a line. `symbols` counts symbols besides the erasures of a marked device. With all 8 pins of the marked
device in its mask no check symbol is left: an error outside that device is neither corrected nor detected (R311). -/
def Mach.dramLine (d : Fin 4) (sr : Nat) (s : DramSyndrome) (u : DramUser) (m : Mach) : Mach :=
  let x := m.dram d
  let mk := SMap.get 0 x.marked sr
  if mk ≠ 0 ∧ SMap.get 0 x.pins sr = 255 ∧ s.devices.any (fun v => v.val + 1 != mk) then m
  else match s.devices with
  | [] => m
  | [v] =>
    let pins := pinBits s.pins
    if mk = 0 then if s.symbols ≤ 8 then m.dramCorrected d sr v.val pins else m.dramLost d u
    else if mk = v.val + 1 then
      let mask := SMap.get 0 x.pins sr
      if mask ||| pins = mask then m
      else if s.symbols + popCount (BitVec.ofNat 8 mask) ≤ 8 then m.dramCorrected d sr v.val pins
      else m.dramLost d u
    else
      let m := m.countDev d sr v.val pins
      let m := if SMap.get 0 (m.dram d).devCe (devKey sr v.val) = m.rdN (drcReg d Reg.DRC_SPARETHR) then
          m.devEvent .crit 0x0111 (BitVec.ofNat 64 (20 * d.val + devKey sr v.val)) []
        else m
      m.dramLost d u
  | _ => m.dramLost d u

/-- The scrub pass of a channel ends (Table 13.6). -/
def Mach.scrubPass (d : Fin 4) (m : Mach) : Mach :=
  (m.setDram d { m.dram d with devCe := [], passPins := [] }).bumpWrap (drcReg d Reg.DRC_SCRUBPASS)

/-! ### The Lamplighter -/

/-- The next key of the rotation after k. -/
def Mach.laneAfter (m : Mach) (k : Nat) : Nat :=
  match m.laneKeys.find? fun j => decide (k < j) with
  | some j => j
  | none => 0

/-- One recalibration step: with exactly one side failing, the centre moves a tap toward the passing side. -/
def Mach.recal (d : Fin 4) (low high : Bool) (m : Mach) : Mach :=
  let x := m.dram d
  let k := x.nextLane
  let e := SMap.get (0, 0, 0, 0) x.eye k
  let c := if low == high then e.1 else if high then min 63 (e.1 + 1) else e.1 - 1
  let m := (m.setDram d { x with eye := SMap.put x.eye k (c, e.2.1, e.2.2.1, e.2.2.2), nextLane := m.laneAfter k }).touch (.drc d)
  if c ≠ e.1 ∧ bits (m.rdN (drcReg d Reg.DRC_RECAL)) 11 8 < (if c < e.2.1 then e.2.1 - c else c - e.2.1) then
    m.raise (.drc d) 19 (BitVec.ofNat 64 k)
  else m

/-- What an MR4 refresh-rate field shows: 0 the normal range, 1 the doubled one, 2 above it. -/
def mr4Range (v : Nat) : Nat := if v ≤ 2 then 0 else if v ≤ 4 then 1 else 2

/-- The rate follows the MR4 read (R315). -/
def Mach.refreshRate (d : Fin 4) (mr4 : Nat) (m : Mach) : Mach :=
  let x := { m.dram d with mr4 := mr4 }
  let hyst := bits (m.rdN (drcReg d Reg.DRC_RFCFG)) 5 4
  match mr4Range mr4 with
  | 0 =>
    let n := if x.doubled then x.normals + 1 else 0
    if x.doubled && decide (hyst ≤ n) then m.setDram d { x with doubled := false, normals := 0 }
    else m.setDram d { x with normals := n }
  | r =>
    let m' := m.setDram d { x with doubled := true, normals := 0 }
    let m' := if x.doubled then m' else m'.bump (drcReg d Reg.DRC_CATCHUP)
    if r = 2 then m'.devEvent .crit 0x0110 (BitVec.ofNat 64 d.val) [] else m'

/-- The Lamplighter works on a channel that has been trained and has power. -/
def Mach.dramLive (m : Mach) (d : Fin 4) : Bool :=
  (m.dram d).trained && m.pageSt (.drc d) != .off && m.pageSt (.drc d) != .faulted

end Sys2Proof.Machine
end

