-- ==== Sys2Proof/Machine/PageOps.lean ====
section
/-! DEFINITION. The page states (R37 to R42): what stopping, starting and faulting a page does to its block (Table 02.8), and the
consistency checks of START. -/

namespace Sys2Proof.Machine

/-! ### The Snuffer's level (R347) -/

/-- The level of the budget that every powered FCH engine receives. -/
def Mach.giveLevel (m : Mach) : Mach :=
  m.each ((List.finRange 32).filter fun c => m.pageSt (.fch c) != .off) fun c m => m.setChn c { m.chn c with level := m.thm.level }

/-- The level becomes L, and reaches every engine while the SNF page runs. -/
def Mach.setLevel (l : Nat) (m : Mach) : Mach :=
  let m := m.updThm fun t => { t with level := l }
  if m.running .snf then m.giveLevel else m

/-- The SNF page starts: after a cycle of PD_THERM its level is the lowest of a running engine; a trip that cleared meanwhile, and
the ceiling, apply now. -/
def Mach.snfStart (m : Mach) : Mach :=
  let ls := ((List.finRange 32).filter fun c => m.running (.fch c)).map fun c => (m.chn c).level
  let l := if m.thm.cycled then ls.foldl min 15 else m.thm.level
  let l := min l (bits (m.rdN Reg.SNF_CEIL) 3 0)
  let l := if m.thm.tripPend then min l (bits (m.rdN Reg.SNF_TRIPLVL) 3 0) else l
  (m.updThm fun t => { t with cycled := false, tripPend := false }).setLevel l

/-! ### The Lantern (R172) -/

def Mach.lntEnBit (m : Mach) : Bool := bitOf (m.rdN Reg.LNT_CTRL) 0

/-- FLUSHING begins. -/
def Mach.lntFlush (m : Mach) : Mach :=
  if m.lamp.mode == .enabled then (m.updLamp fun l => { l with mode := .flushing, enPend := false }).touch .lnt else m

/-- Every entry becomes INVALID; error counts and OFF stay. -/
def Mach.lntEmpty (m : Mach) : Mach :=
  let clear (e : Nat × LntEnt) : Nat × LntEnt := (e.1, { e.2 with st := .invalid, redirty := false, tag := 0 })
  m.updLamp fun l => { l with lnt := (l.lnt.map clear).filter fun e => e.2 != {} }

/-- DISABLED is reached; a request to enable that was recorded takes effect. -/
def Mach.lntDisabled (m : Mach) : Mach :=
  (m.lntEmpty.updLamp fun l => { l with
    mode := if l.enPend && m.running .lnt then .enabled else .disabled, enPend := false }).touch .lnt

/-- The LNT page starts: ENABLED and empty where EN is set. -/
def Mach.lntStart (m : Mach) : Mach :=
  m.lntEmpty.updLamp fun l => { l with mode := if m.lntEnBit then .enabled else .disabled, enPend := false }

/-! ### Flash channels (R228, R42) -/

/-- Reads of a channel that no die has taken yet, and on a fault those it has, go straight to stage 4; peers among them become
erasures (R228, R232). -/
def Mach.strandReads (c : Chan) (issued : Bool) (m : Mach) : Mach :=
  let mine (o : Op) : Bool := o.ch == c && (issued || !o.issued) && (match o.kind with | .readCw _ => true | _ => false)
  let ts := (m.fl.ops.filter mine).filterMap fun o => match o.kind with
    | .readCw t => some t
    | _ => none
  (m.updFl fun f => { f with ops := f.ops.filter fun o => !mine o }).each ts fun t m =>
    match m.task t with
    | some t => m.escalate t
    | none => m

/-- Has a channel an operation in flight? A suspended erase is none. -/
def Mach.chanBusy (m : Mach) (c : Chan) : Bool :=
  m.fl.ops.any fun o => o.ch == c && o.issued && !(o.kind.isErase && (m.die o.dieIx).esusp.isSome)

/-! ### Who may stop (Table 02.8) -/

def Mach.stoppedNow (m : Mach) (p : Page) : Bool := m.pageSt p == .stopped

/-- Does Table 02.8 allow a STOP of this page now? -/
def Mach.mayStop (m : Mach) (p : Page) : Bool :=
  (pageCaps p).1 &&
    match p with
    | .port q => (m.port.get q.other).up
    | .rlk => m.stoppedNow .qct
    | .map => m.stoppedNow .qct && m.stoppedNow .sow && m.stoppedNow .gln
    | .sow => m.running .hdl
    | .cip => m.stoppedNow .qct
    | .key => m.stoppedNow .qct
    | .fch c => (List.finRange 32).all fun x => x == c || m.running (.fch x)
    | .drc d => m.stoppedNow .lmp && (List.finRange 4).all fun x => x == d || m.running (.drc x)
    | _ => true

/-- What a page's STOPPING begins with. -/
def Mach.stopBegins (p : Page) (m : Mach) : Mach :=
  match p with
  | .lnt => m.lntFlush
  | .twn => m.partnerLost
  | .fch c => (m.suspendChan c).strandReads c false
  | .sow => m.each (m.buf.opn.filter fun e => e.2.mask != 0) fun e m => m.askProvpar e.2.fsn e.2.page
  | _ => m

/-- STOP: the page goes to STOPPING, or refuses with CMDVIOL. -/
def Mach.stopPage (p : Page) (m : Mach) : Mach :=
  if m.pageSt p == .running && m.mayStop p then (m.setPageSt p .stopping).stopBegins p
  else if m.pageSt p == .off then m
  else m.raise p 1 0

/-- Has the work in flight named in Table 02.8 ended? That of a port includes the commands fetched from its queues (R402). -/
def Mach.drainedPage (m : Mach) (p : Page) : Bool :=
  match p with
  | .port q => (m.port.get q).inflight == 0 && (m.q.fetches.all fun f => (m.qp f.qid).port != q) &&
      m.q.used.all fun s => (m.cmd s).kind != .host || (m.cmd s).port != some q
  | .qct => m.q.fetches.isEmpty && m.q.used.all fun s => (m.cmd s).kind != .host
  | .rlk => m.locks.isEmpty
  | .map => m.vol.waiting.isEmpty
  | .sow => m.buf.pgms.isEmpty && m.buf.opn.all fun e => e.2.mask == 0 || (m.provNow e.2.fsn e.2.page).any fun r => r.mask == e.2.mask
  | .gln => m.gln.copies.all fun c => !c.flying
  | .hdl => m.hdl.log.all fun r => !r.flying || (match r.body with | .seg .. => false | _ => true)
  | .ecc => m.fl.softTasks.isEmpty
  | .lmp => m.lamp.fetches.isEmpty && m.lamp.late.isEmpty && m.lamp.capHeld.isEmpty
  | .lnt => m.lamp.mode == .disabled
  | .thm => (List.range 16).all fun i => !(m.sens i).busy
  | .twn => m.twn.unacked.isEmpty
  | .fch c => !m.chanBusy c
  | .pff n => (m.fifo n).opn.isEmpty
  | _ => true

/-- A port that no longer runs holds its link in electrical idle: the link goes down (R402). -/
def Mach.portIdle (q : Port) (m : Mach) : Mach :=
  if (m.port.get q).up then
    (((m.updPort q fun x => { x with up := false, inflight := 0, speed := 0, width := 0, cxl := false, rev := false }).bump
      (portReg q Reg.PORT_LINKDOWN)).muteReqs q)
  else m

/-- What a page that reaches STOPPED leaves. -/
def Mach.stopEnds (p : Page) (m : Mach) : Mach :=
  match p with
  | .key => (m.updKey fun k => { k with xport := none }).touch .key
  | .port q => m.portIdle q
  | _ => m

/-- STOPPING ends (R39). -/
def Mach.stoppingEnd (p : Page) (m : Mach) : Mach :=
  if m.pageSt p == .stopping && m.drainedPage p then ((m.setPageSt p .stopped).stopEnds p).settleDev else m

/-! ### START -/

/-- START: PG_GEN increments, and the staged settings are checked and applied. -/
def Mach.startPage (p : Page) (m : Mach) : Mach :=
  if m.pageSt p == .stopped then m.setHdr p { m.hdr p with st := .starting, gen := (m.hdr p).gen + 1 }
  else if m.pageSt p == .off then m
  else m.raise p 1 0

/-- Are the staged settings of a page inconsistent (CFGREJ)? -/
def Mach.badConfig (m : Mach) (p : Page) : Bool :=
  let r (k : Nat) : Nat := m.rdN k
  match p with
  | .port q => m.running (.port q.other) &&
      bitOf (r (portReg q Reg.PORT_CFG)) 0 != bitOf (r (portReg q.other Reg.PORT_CFG)) 0
  | .qct =>
    let a := r Reg.QCT_ARB
    let b := bits (r Reg.QCT_BURST) 3 0
    bits a 7 0 == 0 || bits a 15 8 == 0 || bits a 23 16 == 0 || b == 0 || decide (8 < b) ||
      decide (4096 < bits (r Reg.QCT_SLOTRES) 11 0 + bits (r Reg.QCT_SLOTRES) 27 16)
  | .lmp => (List.finRange 4).any fun d => m.stoppedNow (.drc d)
  | .fch c => decide (r (fchReg c Reg.FCH_TOKMAX) < 112)
  | .ecc => r Reg.ECC_SOFTITER == 0
  | .sow => r Reg.SOW_SEALUS == 0 || decide (r Reg.SOW_HIWAT < 50) || decide (95 < r Reg.SOW_HIWAT)
  | .gln => r Reg.GLN_RATED == 0 || r Reg.GLN_SCANDAYS == 0 || decide (r Reg.GLN_EXHTHR < 4) ||
      decide (r Reg.GLN_FLOOR ≤ r Reg.GLN_EXHTHR) || decide (r Reg.GLN_HIWM ≤ r Reg.GLN_FLOOR)
  | .hdl => r Reg.HDL_WINMAX == 0 || decide (16 < r Reg.HDL_WINMAX) || decide (r Reg.HDL_RESERVE < 2)
  | .drc d =>
    let f := r (drcReg d Reg.DRC_RFCFG)
    bits f 2 0 == 0 || decide (4 < bits f 2 0) || bits f 5 4 == 0 || bits (r (drcReg d Reg.DRC_RECAL)) 3 0 == 0
  | .thm => decide (r Reg.THM_RISEHI ≤ r Reg.THM_RISELO) || r Reg.THM_MINDT == 0
  | .alm => r Reg.ALM_BATCHMS == 0 || r Reg.ALM_SEALMS == 0
  | .twn => r Reg.TWN_RSYNCPCT == 0 || decide (90 < r Reg.TWN_RSYNCPCT) || r Reg.TWN_DURMS == 0 || r Reg.TWN_HOTMS == 0
  | _ => false

/-- The slots that the key store reloads from the newest DEFINITION record (R325); one whose import is not recorded yet stays. -/
def Mach.keyReload (m : Mach) : Mach :=
  if !m.key.lost then m
  else
    let k := m.loadedKeys ((m.hdl.roots.head?.map (·.defn)).getD {})
    let imports := m.key.slot.filter fun e => e.2.importing
    (m.updKey fun (x : Keys) => { x with
      slot := imports.foldl (fun t e => SMap.set {} t e.1 e.2) k.slot, integ := k.integ, lost := false }).touch .key

/-- What a page that reaches RUNNING takes up. -/
def Mach.startEnds (p : Page) (m : Mach) : Mach :=
  match p with
  | .lnt => m.lntStart
  | .key => m.keyReload
  | .thm => m.updThm fun t => { t with sensor := t.sensor.map fun e => (e.1, { e.2 with ref := none }) }
  | .snf => m.snfStart
  | .fch c => if m.running .snf then m.setChn c { m.chn c with level := m.thm.level } else m
  | .gln => m.urgency
  | .sow => m.each ((m.buf.vers.filter fun x => x.st == .opn && (x.mask = 15 || x.pri)).map (·.id)) Mach.seal
  | .alm => m.almFlushPending
  | .pff n => m.pffResume n
  | .twn => if (m.rd Reg.TWN_CFG).getLsbD 0 then m else m.updTwn fun t => { t with up := false }
  | _ => m

/-- A channel that its domain's cycle left untrained trains before it runs. Where that fails, the channel is FAULTED, or at 3,600 MT/s
stays STOPPED with its deskew failed (R180, R401). -/
def Mach.startTrains (p : Page) (trained : Bool) (m : Mach) : Option Mach :=
  match p with
  | .fch c =>
    if (m.chn c).trained then none
    else if trained then none
    else if (m.chn c).rate = 3 then some ((m.setPageSt p .stopped).raise p 20 0)
    else some (((m.setPageSt p .faulted).raise p 2 0).raise p 16 0)
  | _ => none

/-- The rate of a channel that starts: its own, else that of its group (R178), else 2,400 MT/s. -/
def Mach.startRate (m : Mach) (c : Chan) : Nat :=
  let r := greatest (((List.finRange 32).filter fun x => x.val / 4 == c.val / 4).map fun x => (m.chn x).rate)
  if r = 0 then 2 else r

/-- STARTING ends (R39). -/
def Mach.startingEnd (p : Page) (trained : Bool) (m : Mach) : Mach :=
  if m.pageSt p != .starting then m
  else if m.badConfig p then (m.setPageSt p .stopped).raise p 4 0
  else match m.startTrains p trained with
    | some m => m.settleDev
    | none =>
      let m := match p with
        | .fch c => m.setChn c { m.chn c with trained := true, rate := m.startRate c }
        | _ => m
      ((m.setHdr p { m.hdr p with st := .running, held := false }).startEnds p).settleDev

/-! ### Faults (R39) -/

/-- Is this a page of PD_AON or PD_QCORE, whose fault fails the controller (R18)? -/
def coreDomain (p : Page) : Bool := pageDomain p == 0 || pageDomain p == 11

/-- Requests that a lamp path which has stopped working still holds are answered as Table 02.8 has it: reads with poison, writes dropped
and counted. -/
def Mach.lampGone (m : Mach) : Mach :=
  let l := m.lamp.fetches.flatMap (·.reqs) ++ m.lamp.late ++ m.lamp.capHeld
  (m.updLamp fun x => { x with fetches := [], late := [], capHeld := [] }).each l fun r m =>
    if r.isRead then m.poisonOut r.port else (m.bump Reg.LMP_EARLYWR).writeDone r.port r.isMute

/-- What a fault does to the work in flight in the block (R39, R42). The blocks that are not named have none that a fault ends: their
commands wait, or meet the page's state as Table 02.8 has it. -/
def Mach.faultEnds (p : Page) (m : Mach) : Mach :=
  match p with
  | .fch c => ((m.strandReads c true).chanCheck)
  | .drc _ => m.fail 2
  | .ecc =>
    let ids := m.fl.softTasks
    (m.updFl fun f => { f with softTasks := [] }).each ids fun t m =>
      match m.task t with
      | some t => m.escalate t
      | none => m
  | .lnt => m.lntEmpty.updLamp fun l => { l with mode := .disabled, enPend := false }
  | .twn => m.partnerLost
  | .port q => m.portIdle q
  | .lmp => m.lampGone
  | .gln => m.unstage fun _ => true
  | .key => (m.updKey fun k => { k with xport := none }).touch .key
  | p => if coreDomain p then m.fail 4 else m

/-- A block detects an internal fault in STARTING, RUNNING or STOPPING; `parity` where a staged register failed its parity. -/
def Mach.blockFault (p : Page) (parity : Bool) (m : Mach) : Mach :=
  match m.pageSt p with
  | .off => m
  | .stopped => m
  | .faulted => m
  | _ =>
    let m := (m.setPageSt p .faulted).raise p 2 0
    let m := if parity && (pageCaps p).2.1 then m.raise p 3 0 else m
    (m.faultEnds p).settleDev

/-- A PG_CMD write: /M, and dropped on a page that is OFF (Tables 02.3 and 02.4). -/
def Mach.pageCmd (a : Agent) (p : Page) (f : Page → Mach → Mach) (m : Mach) : Mach :=
  if a != .mgmt then m.wdrop a else f p m

end Sys2Proof.Machine
end

