-- ==== Sys2Proof/Machine/Almanac.lean ====
section
/-! DEFINITION. The Almanac's own rows (R363, R364, R368, R370, R371). -/

namespace Sys2Proof.Machine

/-- ALM_SEALMS has passed since the open record was created. -/
def execRecordSealTimeout (s : State) : Host.Outcome State Fault Refusal := s.on Mach.almSeal

/-- A record of a slot that fails its CRC is dropped (R370). -/
def Mach.almBadCrc (slot : Nat) (m : Mach) : Mach :=
  match m.almAt slot with
  | none => m
  | some r =>
    if r.persisted then m
    else (((m.updAlm fun a => { a with ring := a.ring.filter fun e => e.1 != slot }).almTouch).bump Reg.ALM_CRCFAIL).raise .alm 18
      (BitVec.ofNat 64 slot)

/-- A batch: the records that waited when ALM_BATCHMS passed are written. A write that failed on both channels is repeated on the next
pair. -/
def Mach.almBatch (badCrc : List Nat) (writeOk : Bool) (m : Mach) : Mach :=
  if m.almBuffered || !m.almCanWrite || m.almUnpersisted.isEmpty then m
  else
    let m := m.almSeal
    let m := m.each badCrc Mach.almBadCrc
    let m := if writeOk then m else m.raise .alm 17 0
    m.almWriteAll

def execBatchTimeout (badCrc : List Nat) (writeOk : Bool) (s : State) : Host.Outcome State Fault Refusal :=
  s.on (Mach.almBatch badCrc writeOk)

/-- ALM_CTRL is /M, and the FLUSH bit reads 0. -/
def Mach.almFlushBy (a : Agent) (m : Mach) : Mach := if a != .mgmt then m.wdrop a else m.almFlush

def execAlmFlushRequest (a : Agent) (s : State) : Host.Outcome State Fault Refusal := s.on (Mach.almFlushBy a)

/-- ALM_CTRL.BUFREQ: where clearing it ends BUFFERED mode, the Almanac flushes. -/
def Mach.almBufReq (a : Agent) (on : Bool) (m : Mach) : Mach :=
  if a != .mgmt then m.wdrop a
  else
    let was := m.almBuffered
    let m := ((m.updAlm fun t => { t with bufReq := on }).wr Reg.ALM_CTRL (if on then 1 else 0)).touch .alm
    if was && !m.almBuffered then m.almRelease.almFlush else m

def execAlmBufreqWrite (a : Agent) (on : Bool) (s : State) : Host.Outcome State Fault Refusal := s.on (Mach.almBufReq a on)

/-- 64 POT units have passed without a record. -/
def Mach.almTimeDue (m : Mach) : Mach :=
  if m.dev.pwrgd && decide (64 ≤ (m.alm.pot - m.alm.lastPot).toNat) then m.almTime.almAfter .info else m

def execTimeEvent (s : State) : Host.Outcome State Fault Refusal := s.on Mach.almTimeDue

/-- The 24-hour snapshot. -/
def execAlmanacSnapshot (s : State) : Host.Outcome State Fault Refusal := s.on fun m => m.when m.dev.pwrgd Mach.snapshots

/-- POT advances while power is good. -/
def Mach.potAdvance (m : Mach) : Mach :=
  if m.dev.pwrgd then (m.updAlm fun a => { a with pot := stickWord a.pot }).touch .alm else m

def execPotAdvance (s : State) : Host.Outcome State Fault Refusal := s.on Mach.potAdvance

end Sys2Proof.Machine
end

