-- ==== Sys2Proof/Machine/Apt.lean ====
section
/-! DEFINITION. The command aperture and the write-protect page: the rows from APT_UNLOCK1_WRITE to APT_BADCMD, WPT_SET and
WPT_ALLSET (R29 to R31, R189 to R196, R201, R205, R211). -/

namespace Sys2Proof.Machine

/-! ### Reaching an aperture (R31) -/

/-- Does the aperture of a die answer an agent: the port is unlocked, the die present, its channel not STOPPING, OFF or FAULTED? -/
def Mach.aptOpen (m : Mach) (a : Agent) (d : Die) : Bool :=
  (match a.port with | some p => (m.port.get p).unlocked | none => true) && (m.die d.val).info.isSome &&
    (match m.pageSt (.fch (Fin.ofNat 32 (d.val / 64))) with
      | .stopping => false
      | .off => false
      | .faulted => false
      | _ => true)

/-- A write that the port's BAR decode drops. -/
def Mach.b2drop (a : Agent) (m : Mach) : Mach :=
  match a.port with
  | some p => m.bump (portReg p Reg.PORT_B2DROP)
  | none => m

/-- The channel of a die. -/
def dieChan (d : Die) : Chan := Fin.ofNat 32 (d.val / 64)

/-- An access through an open aperture, else a dropped one. -/
def Mach.apt (a : Agent) (d : Die) (f : Mach → Mach) (m : Mach) : Mach := if m.aptOpen a d then f m else m.b2drop a

/-! ### The sequence (R191) -/

def Mach.setSeq (a : Agent) (x : SeqS) (m : Mach) : Mach := m.updFl fun f => { f with seq := f.seq.set a x }

/-- A sequence error, counted on the channel of the aperture written. -/
def Mach.seqErr (d : Die) (m : Mach) : Mach := (m.bump (fchReg (dieChan d) Reg.FCH_SEQERR)).raise (.fch (dieChan d)) 17 0

/-- A write that is no part of a sequence breaks one in progress. -/
def Mach.seqBreak (a : Agent) (d : Die) (m : Mach) : Mach :=
  if (m.fl.seq.get a).st == .idle then m else (m.setSeq a { st := .idle, die := 0 }).seqErr d

/-- An access that is dropped and counted (R189, R190); a write among them breaks a sequence. -/
def Mach.aptDrop (a : Agent) (d : Die) (m : Mach) : Mach := (m.seqBreak a d).bump (fchReg (dieChan d) Reg.FCH_APTDROP)

/-! ### Parameters (R192) -/

/-- Bits of each parameter register; reserved bits hold nothing. -/
def parMask (off : Nat) : Word :=
  match off with
  | 0x2000 => 0xFFFFFF
  | 0x2004 => 0xFF
  | 0x2008 => 0x1
  | 0x200C => 0xF
  | 0x2010 => 0xFF
  | 0x2014 => 0xFFFFFFFF
  | 0x2018 => 0xFFFF
  | 0x201C => 0xFFFF
  | 0x2020 => 0x1
  | _ => 0

def Mach.par (m : Mach) (a : Agent) (off : Nat) : Word := SMap.get 0 (m.fl.par.get a) off

/-- The parameters in effect. -/
def Mach.parNow (m : Mach) (a : Agent) : Apt :=
  { page := bits (m.par a 0x2000).toNat 11 0, block := bits (m.par a 0x2000).toNat 23 12, planes := (m.par a 0x2004).toNat,
    buf := (m.par a 0x2008).toNat, step := (m.par a 0x200C).toNat, fa := (m.par a 0x2010).toNat, fval := m.par a 0x2014,
    col := (m.par a 0x2018).toNat, len := (m.par a 0x201C).toNat, slc := m.par a 0x2020 == 1 }

/-- The planes of a mask. -/
def maskPlanes (w : Nat) : List Nat := (List.range 8).filter fun i => w.testBit i

/-! ### Checks of a command (R193, R194, R196, R188) -/

/-- Codes of Table 08.7. -/
def aptCodes : List Nat :=
  [codeRead, codeReadCache, codeProgram, codeNested, codeErase, codeSuspend, codeResume, codeSetFeature, codeGetFeature, codeRetry,
    codeReadId, codeParam, codeReset]

/-- Codes that the service port takes while the channel runs. -/
def aptRunCodes : List Nat := [codeRead, codeReadCache, codeGetFeature, codeRetry, codeReadId, codeParam]

/-- Codes with outbound data. -/
def aptOutCodes : List Nat := [codeRead, codeReadCache, codeGetFeature, codeReadId, codeParam]

/-- PAGE and BLOCK within the die, SLC mode only where the die has it. -/
def rowOk (i : DieInfo) (x : Apt) (page : Bool) : Bool :=
  (!page || decide (x.page < if x.slc then i.slcPages else i.pages)) && decide (x.block < i.blocks) && (!x.slc || i.slc)

/-- A transfer length, a multiple of 4 from 4 to 16,384, from a column that is a multiple of 4. -/
def lenOk (x : Apt) : Bool := x.len % 4 == 0 && decide (4 ≤ x.len ∧ x.len ≤ 16384) && x.col % 4 == 0

def onePlane (i : DieInfo) (x : Apt) : Bool := (maskPlanes x.planes).length == 1 && (maskPlanes x.planes).all (· < i.planes)

/-- Are the parameters of a code in range? -/
def aptParamsOk (i : DieInfo) (code : Nat) (x : Apt) : Bool :=
  if code = codeRead ∨ code = codeReadCache then
    rowOk i x true && onePlane i x && lenOk x && decide (x.col + x.len ≤ 18432)
  else if code = codeProgram ∨ code = codeNested then rowOk i x true && onePlane i x
  else if code = codeErase then
    rowOk i x false && (maskPlanes x.planes).length != 0 && (maskPlanes x.planes).all (· < i.planes)
  else if code = codeRetry then decide (x.step < i.retry)
  else if code = codeReadId then lenOk x && decide (x.len ≤ 8)
  else if code = codeParam then lenOk x
  else true

/-- The block whose erase runs or is suspended on a die. -/
def DieSt.erasing (d : DieSt) : Option Nat := d.erun.or d.esusp

/-- What a command meets before it reaches the die: a status, or none where it goes on. -/
def Mach.aptRefusal (m : Mach) (a : Agent) (d : Die) (code : Nat) (x : Apt) : Option Nat :=
  let die := m.die d.val
  let c := dieChan d
  if m.fl.ops.any fun o => o.kind.isSvc && o.dieIx == d.val then some aptDieBusy
  else if !aptCodes.contains code then some aptBadCmd
  else if !(die.info.any fun i => aptParamsOk i code x) then some aptBadParam
  else if aptOutCodes.contains code && m.pffCons 4 != a.num then some aptBadParam
  else if m.running (.fch c) && !aptRunCodes.contains code then some aptNotStopped
  else if code = codeSuspend && die.erun.isNone then some aptNoErase
  else if (code = codeResume || code = codeNested) && die.esusp.isNone then some aptNoErase
  else if code = codeProgram && die.esusp.isSome then some aptErasePending
  else if code = codeNested && !(decide (d.val % 64 < 4) && die.info.any (fun i => i.nested) && die.esusp != some x.block) then
    some aptErasePending
  else none

/-- A service-port operation is queued for its die. -/
def Mach.svcQueue (a : Agent) (d : Die) (code : Nat) (x : Apt) (m : Mach) : Mach :=
  (m.queueOp (dieChan d) (Fin.ofNat 64 d.val) (.svc a) (.svc code x)).svcStatus d.val a aptInProgress (code % erasedMark)

/-- A read is accepted: of the block being erased it completes at once (R201). -/
def Mach.svcRead (a : Agent) (d : Die) (code : Nat) (x : Apt) (m : Mach) : Mach :=
  let e := m.eraseOp d.val
  let id := m.fl.nextOp
  let m := m.svcQueue a d code x
  match e, m.op id with
  | some e, some o => if readsErased e (m.opBlock e) x then m.svcErased o code x else m
  | _, _ => m

/-- SUSPEND. One that reaches the die as its erase completes finds it ready and not suspended: the erase counts as complete and the
suspend is not counted (Table 08.10). -/
def Mach.svcSuspend (a : Agent) (d : Die) (m : Mach) : Mach :=
  let ended := Config.eraseEnded m.free
  let m := if ended then m.draw.eraseCompletes d.val else m.draw.suspendErase d.val true
  m.svcStatus d.val a aptDone codeSuspend

/-- What an accepted code does. -/
def Mach.aptRun (a : Agent) (d : Die) (code : Nat) (x : Apt) (m : Mach) : Mach :=
  let die := m.die d.val
  if code = codeSuspend then m.svcSuspend a d
  else if code = codeRetry then (m.setDie d.val { die with retry := die.retry.set a x.step }).svcStatus d.val a aptDone code
  else if code = codeReset then
    ((m.resetDie d.val).setDie d.val { (m.resetDie d.val).die d.val with cache := none }).svcStatus d.val a aptDone code
  else if code = codeRead || code = codeReadCache then m.svcRead a d code x
  else m.svcQueue a d code x

/-- The third write: the parameters are latched and the code issued. -/
def Mach.aptIssue (a : Agent) (d : Die) (code : Nat) (m : Mach) : Mach :=
  let x := m.parNow a
  match m.aptRefusal a d code x with
  | some st =>
    let m := m.svcStatus d.val a st code
    if st = aptErasePending then m.bump (fchReg (dieChan d) Reg.FCH_EPEND) else m
  | none => m.aptRun a d code x

/-- A 16-bit write at APT_UNLOCK1 (R191). -/
def Mach.aptWrite1 (a : Agent) (d : Die) (v : BitVec 16) (m : Mach) : Mach :=
  let s := m.fl.seq.get a
  if s.st == .idle && v == 0xAA then m.setSeq a { st := .u1, die := d }
  else if s.st == .u2 && s.die == d then (m.setSeq a { st := .idle, die := 0 }).aptIssue a d (v.toNat % 256)
  else
    let m := if s.st == .idle then m else m.seqErr d
    m.setSeq a (if v == 0xAA then { st := .u1, die := d } else { st := .idle, die := 0 })

/-- A 16-bit write at APT_UNLOCK2. -/
def Mach.aptWrite2 (a : Agent) (d : Die) (v : BitVec 16) (m : Mach) : Mach :=
  let s := m.fl.seq.get a
  if s.st == .u1 && s.die == d && v == 0x55 then m.setSeq a { st := .u2, die := d } else m.seqBreak a d

def execAptUnlock1Write (a : Agent) (d : Die) (v : BitVec 16) (s : State) : Host.Outcome State Fault Refusal :=
  s.on (Mach.apt a d (Mach.aptWrite1 a d v))

def execAptUnlock2Write (a : Agent) (d : Die) (v : BitVec 16) (s : State) : Host.Outcome State Fault Refusal :=
  s.on (Mach.apt a d (Mach.aptWrite2 a d v))

/-- A 32-bit write to the parameter block; an offset outside it, or not aligned, is dropped (R189, R190). -/
def Mach.parWrite (a : Agent) (d : Die) (off : Nat) (v : Word) (m : Mach) : Mach :=
  if 0x2000 ≤ off && off < 0x2100 && off % 4 == 0 then
    (m.seqBreak a d).updFl fun f => { f with par := f.par.set a (SMap.set 0 (f.par.get a) off (v &&& parMask off)) }
  else m.aptDrop a d

def execParameterBlockWrite (a : Agent) (d : Die) (off : Nat) (v : Word) (s : State) : Host.Outcome State Fault Refusal :=
  s.on (Mach.apt a d (Mach.parWrite a d off v))

/-- A 32-bit write to the staging window stores into the buffer that PA_BUF names now (R196). -/
def Mach.stageWrite (a : Agent) (d : Die) (off : Nat) (v : Word) (m : Mach) : Mach :=
  if 0x8000 ≤ off && off < 0xC800 && off % 4 == 0 then
    let x := m.chn (dieChan d)
    let k := off - 0x8000
    (m.seqBreak a d).setChn (dieChan d)
      (if m.par a 0x2008 = 0 then { x with stage0 := SMap.set 0 x.stage0 k v } else { x with stage1 := SMap.set 0 x.stage1 k v })
  else m.aptDrop a d

def execAptStageWrite (a : Agent) (d : Die) (off : Nat) (v : Word) (s : State) : Host.Outcome State Fault Refusal :=
  s.on (Mach.apt a d (Mach.stageWrite a d off v))

/-! ### Accesses by offset and width (R31, R189, R190) -/

/-- Does an access touch APT_UNLOCK1 or APT_UNLOCK2? -/
def touchesUnlock (off width : Nat) : Bool := decide (off < 0x556 ∧ 0x554 < off + width) || decide (off < 0xAAC ∧ 0xAAA < off + width)

/-- A write to an open aperture. -/
def Mach.aptBusWrite (a : Agent) (d : Die) (off width : Nat) (v : BitVec 64) (m : Mach) : Mach :=
  if touchesUnlock off width then
    if width = 2 ∧ off = 0xAAA then m.aptWrite1 a d (v.setWidth 16)
    else if width = 2 ∧ off = 0x554 then m.aptWrite2 a d (v.setWidth 16)
    else m.aptDrop a d
  else if width != 4 then m.aptDrop a d
  else if off < 0x8000 then m.parWrite a d off (v.setWidth 32)
  else m.stageWrite a d off (v.setWidth 32)

/-- A nested program runs on a die: the headland writer's, or one of the service port. -/
def Mach.nestedOn (m : Mach) (d : Nat) : Bool :=
  m.fl.ops.any fun o => o.issued && o.dieIx == d && (match o.kind with
    | .headland _ nested => nested
    | .svc code _ => code == codeNested
    | _ => false)

def SeqSt.num : SeqSt → Nat
  | .idle => 0
  | .u1 => 1
  | .u2 => 2

/-- APT_STAT for the agent that reads it (R194). -/
def Mach.aptStat (m : Mach) (a : Agent) (d : Die) : Word :=
  let x := m.die d.val
  let bit (i : Nat) (b : Bool) : Nat := if b then 2 ^ i else 0
  BitVec.ofNat 32 (x.code.get a % 256 + 2 ^ 8 * (x.opc.get a % 256) + bit 16 x.erun.isSome + bit 17 x.esusp.isSome +
    bit 18 (m.nestedOn d.val) + 2 ^ 19 * (m.fl.seq.get a).st.num)

/-- A word of an open aperture: the status, the parameter block, and 0 at every other offset. -/
def Mach.aptWord (m : Mach) (a : Agent) (d : Die) (off : Nat) : Word :=
  if off = 0 then m.aptStat a d
  else if 0x2000 ≤ off ∧ off < 0x2100 then m.par a off
  else 0

/-- A read through BAR2: all ones from a closed aperture; narrower or misaligned, dropped and counted, it returns 0. -/
def Mach.aptBusRead (a : Agent) (d : Die) (off width : Nat) (m : Mach) : Mach × BitVec 64 :=
  if !m.aptOpen a d then (m, BitVec.ofNat 64 (2 ^ (8 * width) - 1))
  else if width = 4 ∧ off % 4 = 0 then (m, (m.aptWord a d off).setWidth 64)
  else (m.bump (fchReg (dieChan d) Reg.FCH_APTDROP), 0)

/-! ### The codes of Table 08.7: each is a write at APT_UNLOCK1 -/

/-- The write of a command code. -/
def Mach.aptCode (a : Agent) (d : Die) (code : Nat) (m : Mach) : Mach :=
  m.apt a d (Mach.aptWrite1 a d (BitVec.ofNat 16 code))

def execReadPage (a : Agent) (d : Die) (s : State) : Host.Outcome State Fault Refusal := s.on (Mach.aptCode a d codeRead)
def execReadPageCache (a : Agent) (d : Die) (s : State) : Host.Outcome State Fault Refusal := s.on (Mach.aptCode a d codeReadCache)
def execProgramPage (a : Agent) (d : Die) (s : State) : Host.Outcome State Fault Refusal := s.on (Mach.aptCode a d codeProgram)
def execProgramNested (a : Agent) (d : Die) (s : State) : Host.Outcome State Fault Refusal := s.on (Mach.aptCode a d codeNested)
def execEraseBlock (a : Agent) (d : Die) (s : State) : Host.Outcome State Fault Refusal := s.on (Mach.aptCode a d codeErase)
def execSuspend (a : Agent) (d : Die) (s : State) : Host.Outcome State Fault Refusal := s.on (Mach.aptCode a d codeSuspend)
def execResume (a : Agent) (d : Die) (s : State) : Host.Outcome State Fault Refusal := s.on (Mach.aptCode a d codeResume)
def execAptSetFeature (a : Agent) (d : Die) (s : State) : Host.Outcome State Fault Refusal := s.on (Mach.aptCode a d codeSetFeature)
def execAptGetFeature (a : Agent) (d : Die) (s : State) : Host.Outcome State Fault Refusal := s.on (Mach.aptCode a d codeGetFeature)
def execSetRetryStep (a : Agent) (d : Die) (s : State) : Host.Outcome State Fault Refusal := s.on (Mach.aptCode a d codeRetry)
def execReadId (a : Agent) (d : Die) (s : State) : Host.Outcome State Fault Refusal := s.on (Mach.aptCode a d codeReadId)
def execReadParameterPage (a : Agent) (d : Die) (s : State) : Host.Outcome State Fault Refusal := s.on (Mach.aptCode a d codeParam)
def execResetDie (a : Agent) (d : Die) (s : State) : Host.Outcome State Fault Refusal := s.on (Mach.aptCode a d codeReset)

/-- R193: any code; one not in the table completes with BADCMD. -/
def execAptBadcmd (a : Agent) (d : Die) (code : Byte) (s : State) : Host.Outcome State Fault Refusal :=
  s.on (Mach.aptCode a d code.toNat)

/-! ### Write protection (R205, R211) -/

/-- The half of a bitmap that a register writes. -/
def wpHalf (hi : Bool) (v : Word) : BitVec 64 := if hi then v.setWidth 64 <<< 32 else v.setWidth 64

/-- Bits are only ever set, by management firmware. -/
def Mach.wptSet (a : Agent) (hi : Bool) (v : Word) (m : Mach) : Mach :=
  if a != .mgmt then m.wdrop a
  else
    let d := m.rdN (bank a Reg.WPT_DSEL) % 2048
    m.setDie d { m.die d with wp := (m.die d).wp ||| wpHalf hi v }

def execWptSet (a : Agent) (hi : Bool) (v : Word) (s : State) : Host.Outcome State Fault Refusal := s.on (Mach.wptSet a hi v)

def Mach.wptAllset (a : Agent) (hi : Bool) (v : Word) (m : Mach) : Mach :=
  if a != .mgmt then m.wdrop a else m.updFl fun f => { f with wpAll := f.wpAll ||| wpHalf hi v }

def execWptAllset (a : Agent) (hi : Bool) (v : Word) (s : State) : Host.Outcome State Fault Refusal := s.on (Mach.wptAllset a hi v)

end Sys2Proof.Machine
end

