-- ==== Sys2Proof/Machine/LampPath.lean ====
section
/-! DEFINITION. The lamp path: CXL.mem requests from the HDM decoders to the frame lines (R89 to R91, R94, R151, R155 to R159, R163,
R165 to R171). -/

namespace Sys2Proof.Machine

/-! ### HDM decoders (R89) -/

def PortSt.dec (x : PortSt) (k : Nat) : Hdm := SMap.get {} x.hdm k

/-- The committed decoder that an address falls in, and its DPA. -/
def Mach.hdmMatch (m : Mach) (p : Port) (hpa : Nat) : Option Nat :=
  let x := m.port.get p
  ((List.range 4).find? fun k => (x.dec k).committed && decide ((x.dec k).base ≤ hpa ∧ hpa < (x.dec k).base + (x.dec k).size)).map
    fun k => k * 2 ^ 46 + (hpa - (x.dec k).base)

/-- Where the DPA range of decoder k begins: behind the decoder below, and its skip. -/
def PortSt.dpaStart (x : PortSt) (k skip : Nat) : Nat :=
  skip + (if k = 0 then 0 else (k - 1) * 2 ^ 46 + (x.dec (k - 1)).size)

/-- A commit is good: in index order, sizes in 256 MiB, the range inside region k's. -/
def PortSt.commitOk (x : PortSt) (k base size skip : Nat) : Bool :=
  ((List.range k).all fun j => (x.dec j).committed) && base % 2 ^ 28 == 0 && size % 2 ^ 28 == 0 && x.dpaStart k skip == k * 2 ^ 46 &&
    decide (size ≤ 2 ^ 46)

/-- Committed under Lock On Commit: writes to the decoder are ignored until the port is reset. -/
def Hdm.locked (d : Hdm) : Bool := d.lock && d.committed

/-- A host commits a decoder. One that fails is left uncommitted with Commit Error; a locked one ignores the write. More than one way of
interleave fails (R89). -/
def Mach.hdmCommitWays (p : Port) (k base size skip : Nat) (lock oneWay : Bool) (m : Mach) : Mach :=
  let x := m.port.get p
  if !x.up || (x.dec k).locked then m
  else
    let ok := oneWay && x.commitOk k base size skip
    let d : Hdm := { base := base, size := size, skip := skip, committed := ok, lock := lock, err := !ok }
    m.updPort p fun x => { x with hdm := SMap.set {} x.hdm k d }

/-- The values of a decoder as its registers hold them: base, size, skip, Lock On Commit and Commit. -/
def PortSt.holdHdm (x : PortSt) (k base size skip : Nat) (lock : Bool) : PortSt :=
  let put (r v : Nat) (t : SMap Word) : SMap Word := SMap.set 0 t (32 * k + r) (BitVec.ofNat 32 v)
  { x with hdmReg := put 0x00 base (put 0x04 (base / 2 ^ 32) (put 0x08 size (put 0x0C (size / 2 ^ 32) (put 0x14 skip (put 0x18 (skip / 2 ^ 32)
      (put 0x10 (2 ^ 9 + if lock then 2 ^ 8 else 0) x.hdmReg)))))) }

/-- The row of the table: the host has written the decoder's registers and sets Commit. -/
def Mach.hdmCommit (p : Port) (k base size skip : Nat) (lock : Bool) (m : Mach) : Mach :=
  let x := m.port.get p
  if !x.up || (x.dec k).locked then m
  else (m.updPort p fun x => x.holdHdm k base size skip lock).hdmCommitWays p k base size skip lock true

/-- The host takes a decoder's commit back: later requests no longer meet it (R91). -/
def Mach.hdmUncommit (p : Port) (k : Nat) (m : Mach) : Mach :=
  let x := m.port.get p
  if !x.up || (x.dec k).locked then m
  else m.updPort p fun x => { x with hdm := SMap.set {} x.hdm k { x.dec k with committed := false, err := false } }

/-! ### Requests in flight and their answers -/

/-- May a CXL.mem request arrive on a port now: its link up in CXL mode, its page taking new traffic, the function in D0, fewer than 256
in flight? -/
def Mach.memOpen (m : Mach) (p : Port) : Bool :=
  let x := m.port.get p
  x.up && x.cxl && !x.d3 && m.pageSt (.port p) != .stopping && m.pageSt (.port p) != .stopped && m.pageSt (.port p) != .off &&
    m.pageSt (.port p) != .faulted && decide (x.inflight < 256)

/-- A request enters; PORT_MEMINFL keeps its peak. -/
def Mach.memBegin (p : Port) (m : Mach) : Mach :=
  let m := (m.updPort p fun x => { x with inflight := x.inflight + 1 }).touch (.port p)
  m.raiseTo (portReg p Reg.PORT_MEMINFL) (m.port.get p).inflight 256

/-! ### The Lantern on the path (R168 to R172) -/

/-- The entry that a hit changed. -/
def Mach.lntHit (i : Nat) (changed : Bool) (m : Mach) : Mach :=
  if (m.lnt i).st == .invalid then m else m.setLnt i ((m.lnt i).hit m.lamp.mode changed)

/-- A parity error on the lookup of an entry (R171). -/
def Mach.lntParity (i : Nat) (m : Mach) : Mach :=
  let x := m.lnt i
  let m := (m.setLnt i { x with st := .invalid, redirty := false, err := min 7 (x.err + 1) }).bump Reg.LNT_PARERR
  if x.st == .clean then m else m.taintBlock x.tag

/-- A descriptor fetch for a request: it joins an outstanding one, starts one, or waits while eight are outstanding. -/
def Mach.lntFetchNow (key : Nat) (r : LampReq) (m : Mach) : Mach :=
  if m.lamp.fetches.any fun f => f.tag == key then
    let join (f : LampFetch) : LampFetch := if f.tag == key then { f with reqs := f.reqs ++ [r] } else f
    m.updLamp fun l => { l with fetches := l.fetches.map join }
  else if m.lamp.fetches.length < 8 then m.updLamp fun l => { l with fetches := l.fetches ++ [{ tag := key, reqs := [r] }] }
  else m.updLamp fun l => { l with late := l.late ++ [r] }

/-- A miss is counted once, when its request first looks the descriptor up (R175). -/
def Mach.lntFetch (key : Nat) (r : LampReq) (m : Mach) : Mach := (m.bump64 Reg.LNT_MISS_LO).lntFetchNow key r

/-- A request of the block waits for its descriptor: a later one does not overtake it, whatever the Lantern holds by then (R99). -/
def Mach.lntWaits (m : Mach) (key : Nat) : Bool :=
  m.lamp.fetches.any (fun f => f.tag == key) || m.lamp.late.any fun r => match m.lampAddr r.dpa with
    | some a => descKey a.region a.block == key
    | none => false

/-- A decoded request looks its descriptor up. -/
def Mach.lampLookup (r : LampReq) (e : MemErr) (m : Mach) : Mach :=
  match m.lampAddr r.dpa with
  | none => (m.bump (portReg r.port Reg.PORT_NODEC)).memMiss r
  | some a =>
    let key := descKey a.region a.block
    let hit := if m.lamp.mode == .disabled || m.lntWaits key then none else m.lntFind key
    match hit with
    | none => m.lntFetch key r
    | some i =>
      if e == .lanternParity then
        let clean := (m.lnt i).st == .clean
        let m := m.lntParity i
        if clean then m.lntFetch key r else ((m.rasUncor r.port).serveReq r false)
      else
        let before := m.desc key
        let m := (m.bump64 Reg.LNT_HIT_LO).serveReq r false
        m.lntHit i (m.desc key != before)

/-- The oldest fetch returns: its requests are served in order, then the descriptor may be installed, and a request that waited for room
fetches. -/
def Mach.fetchBack (e : MemErr) (m : Mach) : Mach :=
  match m.lamp.fetches with
  | [] => m
  | f :: fs =>
    let m := m.updLamp fun l => { l with fetches := fs }
    let m := if e == .descLost then
        let m := m.dramLost (m.dramChan (m.descAddr f.tag)) (.descriptor (Fin.ofNat 4 (f.tag / 2 ^ 26)) (f.tag % 2 ^ 26))
        m.each f.reqs fun r m => m.rasUncor r.port
      else m
    let before := m.desc f.tag
    let m := m.each f.reqs fun r m => if m.lampServes then m.serveReq r false else m.memMiss r
    let m := m.lntInstall f.tag (m.desc f.tag != before)
    match m.lamp.late with
    | [] => m
    | r :: rs =>
      let m := m.updLamp fun l => { l with late := rs }
      match m.lampAddr r.dpa with
      | some a => m.lntFetchNow (descKey a.region a.block) r
      | none => (m.bump (portReg r.port Reg.PORT_NODEC)).memMiss r

/-! ### A request arrives -/

/-- R20, R18 and Table 02.8: a read is answered with poison; a write is dropped and counted, but in FAILED not counted. -/
def Mach.lampShut (r : LampReq) (m : Mach) : Mach :=
  if r.isRead || m.dev.st == .failed then m.memMiss r else (m.bump Reg.LMP_EARLYWR).memMiss r

/-- A CXL.mem request from a port: counted, decoded, and looked up. Under viral every write is dropped (R96). -/
def Mach.memRequest (p : Port) (hpa : Nat) (mk : Nat → LampReq) (read : Bool) (e : MemErr) (m : Mach) : Mach :=
  if !m.memOpen p then m
  else
    let m := (m.bump64 (portReg p (if read then Reg.PORT_MEMRD_LO else Reg.PORT_MEMWR_LO))).memBegin p
    if !m.lampOpen then m.lampShut (mk 0)
    else if !read && m.viral then m.memMiss (mk 0)
    else match m.hdmMatch p hpa with
      | none => (m.bump (portReg p Reg.PORT_NODEC)).memMiss (mk 0)
      | some dpa => m.lampLookup (mk dpa) e

/-- The requests that the dirty cap may hold. -/
def LampReq.makesDirty (r : LampReq) : Bool :=
  match r with
  | .wr .. => true
  | .wrMute .. => true
  | _ => false

/-- The oldest write held at the dirty cap proceeds, once the cap or the page lets it. -/
def Mach.capRelease (m : Mach) : Mach :=
  match m.lamp.capHeld with
  | [] => m
  | r :: rs =>
    let go := match m.lampAddr r.dpa with
      | none => true
      | some a => !r.makesDirty || !m.capStops (m.desc (descKey a.region a.block)) a.page
    if !go then m
    else
      let m := m.updLamp fun l => { l with capHeld := rs }
      let key := match m.lampAddr r.dpa with
        | some a => descKey a.region a.block
        | none => 0
      let before := m.desc key
      let m := if m.lampServes then m.serveReq r true else m.memMiss r
      match m.lntFind key with
      | some i => m.lntHit i (m.desc key != before)
      | none => m

end Sys2Proof.Machine
end

