-- ==== Sys2Proof/Machine/BlockOps.lean ====
section
/-! DEFINITION. What the block commands share: acceptance of LBs from the host and from frames with its pacing (R121, R261, R263),
the start and end of a command, and the wait for durability (R122, R123, R160, R249). -/

namespace Sys2Proof.Machine

/-! ### Occasions -/

/-- A slot holds an admitted command of an opcode whose work has not begun. -/
def Mach.fresh (m : Mach) (s o : Nat) : Bool :=
  m.slotUsed s && entOpc (m.cmd s).entry == o && (m.cmd s).stage == .admitted && (m.cmd s).kind != .resync

/-- A slot holds a command of an opcode whose work runs. -/
def Mach.working (m : Mach) (s o : Nat) : Bool :=
  m.slotUsed s && entOpc (m.cmd s).entry == o && ((m.cmd s).stage == .running || (m.cmd s).stage == .committed)

/-- A scatter list is still to be read (R109). -/
def Cmd.needsList (c : Cmd) : Bool := entSgl c.entry && c.sgl.isEmpty

/-- Ask for the scatter list, once. -/
def Mach.askList (s : Nat) (m : Mach) : Mach :=
  let c := m.cmd s
  match c.port with
  | some p => if c.sglPending then m else (m.setCmd s { c with sglPending := true }).send (.listRead p (entDptr c.entry))
  | none => m

/-- A new mirrored write waits: PARTNER_LOST is 1 and the partner is lost (Table 17.5). -/
def Mach.heldForPartner (m : Mach) (v : Vid) : Bool :=
  let x := m.volu v
  x.mirrored && x.owner && !m.mirroring v && m.adm.now.partnerLost == 1

/-! ### Room and pacing -/

/-- The debt holds new LBs back at URGENT and EXHAUSTED (Table 11.3, R263). -/
def Mach.paced (m : Mach) : Bool :=
  (m.gln.level == .urgent || m.gln.level == .exhausted) && decide (m.rdN Reg.GLN_DEBTMAX ≤ m.gln.debt)

/-- The same for copies from frames, which at EXHAUSTED run normally (R263). -/
def Mach.pacedCopy (m : Mach) : Bool := m.gln.level == .urgent && m.paced

/-- May this command's next LB enter the buffer? A DEALLOCATE's zeros are never paced. -/
def Mach.mayAccept (m : Mach) (o : Nat) (v : Vid) (lba : Nat) : Bool :=
  m.lbRoom v lba && !(if o == opWrite then m.paced else if o == opDealloc then false else m.pacedCopy)

/-- The transfer waits (R121). -/
def Mach.stall (s : Nat) (m : Mach) : Mach := m.setCmd s { m.cmd s with stalled := true }

/-! ### Lamp lookups by block commands -/

/-- The descriptor of an LB of a region is looked up through the Lantern (R168). -/
def Mach.lookLamp (v : Vid) (lba : Nat) (m : Mach) : Mach :=
  match m.lampOf v lba with
  | some (k, _) => m.lntUpdate k false
  | none => m

/-- The frame of a lit page: block key, page, frame. -/
def Mach.litAt (m : Mach) (v : Vid) (lba : Nat) : Option (Nat × Nat × Nat) :=
  match m.lampOf v lba with
  | none => none
  | some (k, p) =>
    match (m.desc k).frame with
    | some f => if ((m.desc k).state p).isLit then some (k, p, f) else none
    | none => none

/-- A frame takes a block's value, and its page is left clean or made dirty (R121, Table 07.5). -/
def Mach.fillFrame (k p f : Nat) (d : Block) (dirty : Bool) (m : Mach) : Mach :=
  let m := m.putPage k f p d
  (m.putDesc k { m.desc k with dirty := setBit (m.desc k).dirty p dirty }).capCheck

/-! ### What a command's lookups find bad -/

/-- The channel of a DRAM line that a lookup or a data read found uncorrectable. -/
def Mach.userChan (m : Mach) (u : DramUser) : Fin 4 :=
  match u with
  | .frameLine l => m.dramChan (m.lineAddr (l / 32768) (l / 64 % 512) (l % 64))
  | .descriptor k b => m.dramChan (m.descAddr (descKey k.val b))
  | .mapEntry i => m.dramChan (2 ^ 30 + 5 * i)
  | _ => Config.dramHome m.free

/-- The lookups and data reads of a block command: map entries, buffered versions, frame lines, descriptors, Lantern entries. -/
def readUser (u : DramUser) : Bool :=
  match u with
  | .frameLine _ => true
  | .descriptor _ _ => true
  | .mapEntry _ => true
  | .bufferVersion _ _ => true
  | .lantern _ => true
  | _ => false

/-- Does an internal error of the lamp path or its DRAM lie behind this (R95)? -/
def lampUser (u : DramUser) : Bool :=
  match u with
  | .frameLine _ => true
  | .descriptor _ _ => true
  | .lantern _ => true
  | _ => false

/-- The RAS status of the port that carried a command. -/
def Mach.rasOf (s : Nat) (m : Mach) : Mach :=
  match (m.cmd s).port with
  | some p => m.rasUncor p
  | none => m

/-- A lookup or data read of a command finds a bad DRAM line (Table 13.4), or a Lantern entry with a parity error (R171). -/
def Mach.readBad (s : Nat) (u : DramUser) (m : Mach) : Mach :=
  let m := match u with
    | .lantern i => if (m.lnt i.val).st = LntSt.invalid then m else m.lntParity i.val
    | _ => m.draw.dramLost (m.userChan u) u
  m.when (lampUser u) (Mach.rasOf s)

/-- What this command's lookups and data reads find bad. -/
def Mach.readLost (s : Nat) (lost : List DramUser) (m : Mach) : Mach := m.each (lost.filter readUser) fun u m => m.readBad s u

/-! ### Durability -/

/-- The stripes of confirmed pages of some versions that nothing protects yet. -/
def Mach.stripesOf (m : Mach) (ids : List Nat) : List Cover :=
  (m.buf.unprot.filter fun u => ids.contains u.ver).map fun u => .stripe u.fsn u.page u.ch

/-- Push what a command waits for: versions are sealed and preferred, stripes get provisional parity (R229, R249). -/
def Mach.pushCovers (s : Nat) (m : Mach) : Mach :=
  m.each (m.cmd s).cover fun c m =>
    match c with
    | .version id => m.pushVers [id]
    | .stripe f p _ => m.askProvpar f p
    | _ => m

/-- A command waits until its versions `c.vers` are durable, and its transfer, if any, is answered (R123, R160, R385). -/
def Mach.awaitDurable (s : Nat) (m : Mach) : Mach :=
  let c := m.cmd s
  let ids := c.vers.filter fun id => (m.ver id).isSome
  let r := m.verCovers ids
  let partner := match c.xid with
    | some x => [Cover.partner x]
    | none => []
  let fails := if r.2 then c.fails ++ [(0, St.writeFault)] else c.fails
  let m := m.setCmd s { c with covering := true, fails := fails,
                               cover := if r.2 then [] else c.cover ++ r.1 ++ m.stripesOf c.vers ++ partner }
  (m.pushCovers s).settleCovers

/-- A command waits only for its transfer (R385). -/
def Mach.awaitPartner (s : Nat) (m : Mach) : Mach :=
  let c := m.cmd s
  let partner := match c.xid with
    | some x => [Cover.partner x]
    | none => []
  (m.setCmd s { c with covering := true, cover := c.cover ++ partner }).settleCovers

/-- An LB of a command has been accepted: the version that took it is the command's, and the command is past its commit point. -/
def Mach.noteVersion (s id : Nat) (m : Mach) : Mach :=
  let c := m.cmd s
  m.setCmd s { c with vers := insertNat id c.vers, stage := .committed }

/-- Pop the head of the LBs still to do. -/
def Mach.nextLb (s : Nat) (m : Mach) : Mach := m.setCmd s { m.cmd s with todo := (m.cmd s).todo.drop 1 }

/-- A command completes with a status and nothing done. -/
def Mach.refuseCmd (s status : Nat) (m : Mach) : Mach := m.complete s status 0 0

end Sys2Proof.Machine
end

