-- ==== Sys2Proof/Machine/BlockIo.lean ====
section
/-! DEFINITION. WRITE, READ, FLUSH, DEALLOCATE and VERIFY once admitted, scatter lists and WRITE data (R109, R110, R121 to R123,
R241, R248, R249, R252, R263, R385 to R387, Table 07.5). -/

namespace Sys2Proof.Machine

/-! ### WRITE -/

/-- The host reads of a WRITE's data, in LB order. -/
def Mach.askData (s : Nat) (m : Mach) : Mach :=
  let c := m.cmd s
  match c.port with
  | none => m
  | some p =>
    let all := (List.range (entCount c.entry)).flatMap fun off => (c.pieces off).map fun x => (off, x.1, x.2)
    (m.setCmd s { c with unsent := all }).sendReads p s

/-- An admitted WRITE begins: NO_SPACE at EXHAUSTED, the scatter list first, held while PARTNER_LOST 1 keeps it. -/
def Mach.writeStart (s : Nat) (m : Mach) : Mach :=
  let c := m.cmd s
  if m.gln.level == .exhausted then m.refuseCmd s St.noSpace
  else if m.heldForPartner (entVol c.entry) then m
  else if c.needsList then m.askList s
  else
    let m := m.twinOpen s
    (m.setCmd s { m.cmd s with stage := .running, todo := List.range (entCount c.entry) }).askData s

/-- An admitted WRITE, or an FUA write that waits for durability while the SOW page was stopped. -/
def Mach.writeRow (s : Nat) (m : Mach) : Mach :=
  if m.fresh s opWrite then m.writeStart s
  else if m.working s opWrite && (m.cmd s).covering then (m.pushCovers s).settleCovers
  else m

def execWrite (slot : Fin 4096) (s : State) : Host.Outcome State Fault Refusal := s.on (Mach.writeRow slot.val)

/-- The last LB of a WRITE is in place. -/
def Mach.writeEnd (s : Nat) (m : Mach) : Mach :=
  if !(m.cmd s).todo.isEmpty then m
  else if entFua (m.cmd s).entry then m.awaitDurable s
  else m.awaitPartner s

/-- A lit LB that bypasses the buffer: LCB = 0, FUA = 0, unmirrored. -/
def Mach.bypasses (m : Mach) (c : Cmd) : Bool := !entLcb c.entry && !entFua c.entry && !(m.volu (entVol c.entry)).mirrored

/-- The LB enters the buffer, and the frame where its page is lit; a mirrored one goes to the partner. -/
def Mach.writeLb (s lba : Nat) (d : Block) (m : Mach) : Mach :=
  let c := m.cmd s
  let v := entVol c.entry
  let off := c.todo.headD 0
  let (m, id) := m.acceptLb v lba d (m.posFor v (Fin.ofNat 8 (entStream c.entry))) false false
  let m := match m.litAt v lba with
    | some (k, p, f) => m.fillFrame k p f d false
    | none => m
  let m := (m.markWritten v lba 1).noteVersion s id
  let m := match (m.cmd s).xid with
    | some x => m.twnData x off d
    | none => m
  (m.nextLb s).writeEnd s

/-- The next LB of WRITE data has arrived. -/
def Mach.dataIn (s : Nat) (d : Block) (m : Mach) : Mach :=
  let c := m.cmd s
  match c.todo with
  | [] => m
  | off :: _ =>
    if !m.working s opWrite || c.stalled then m
    else
      let v := entVol c.entry
      let lba := entSlba c.entry + off
      let m := m.lookLamp v lba
      match (if m.bypasses c then m.litAt v lba else none) with
      | some (k, p, f) =>
        let m := m.fillFrame k p f d true
        ((m.setCmd s { m.cmd s with stage := .committed }).nextLb s).writeEnd s
      | none =>
        let m := m.makeRoom v lba
        if m.mayAccept opWrite v lba then m.writeLb s lba d else m.stall s

/-- The data of a command's next LB arrives at its port, which may then read on (R78). -/
def Mach.arrival (s : Nat) (d : Block) (m : Mach) : Mach :=
  let c := m.cmd s
  let m := (if m.working s opWrite && !c.stalled then m.lbArrived s (c.todo.headD 0) else m).dataIn s d
  match c.port with
  | some p => m.moreReads p
  | none => m

def execWriteDataArrival (slot : Fin 4096) (d : Block) (s : State) : Host.Outcome State Fault Refusal :=
  s.on (Mach.arrival slot.val d)

/-- The host read of the next LB failed: the LBs before it stay written (R123). -/
def Mach.dataFailed (s : Nat) (m : Mach) : Mach :=
  match (m.cmd s).todo with
  | [] => m
  | off :: _ => if m.working s opWrite then m.complete s St.writeFault off 1 else m

def execWriteDataReadFailure (slot : Fin 4096) (s : State) : Host.Outcome State Fault Refusal := s.on (Mach.dataFailed slot.val)

/-- A transfer that waited goes on once its next LB may be accepted. -/
def Mach.transferResume (s : Nat) (m : Mach) : Mach :=
  let c := m.cmd s
  match c.todo with
  | [] => m
  | off :: _ =>
    if m.slotUsed s && c.stalled then
      let m := m.makeRoom (entVol c.entry) (entSlba c.entry + off)
      if m.mayAccept (entOpc c.entry) (entVol c.entry) (entSlba c.entry + off) then m.setCmd s { c with stalled := false } else m
    else m

def execWriteTransferResume (slot : Fin 4096) (s : State) : Host.Outcome State Fault Refusal := s.on (Mach.transferResume slot.val)

/-! ### Scatter lists (R109) -/

/-- The list is back: checked whole before the command goes on. -/
def Mach.listBack (s : Nat) (ok : Bool) (elems : List (BitVec 128)) (m : Mach) : Mach :=
  let c := m.cmd s
  if !(m.slotUsed s && c.sglPending) then m
  else if !ok then m.complete s St.invalidField 0xFFFFFFFF 1
  else match sglOk (4096 * entCount c.entry) elems with
    | none => m.complete s St.invalidField 0xFFFFFFFF 0
    | some xs => m.setCmd s { c with sglPending := false, sgl := xs }

def execSglListReadReturn (slot : Fin 4096) (ok : Bool) (elems : List (BitVec 128)) (s : State) : Host.Outcome State Fault Refusal :=
  s.on (Mach.listBack slot.val ok elems)

/-! ### READ and VERIFY -/

/-- An LB that its frame or a buffered version has lost counts in the health log as it completes (R432, Table 06.4). -/
def Mach.lostLb (s off : Nat) (m : Mach) : Mach :=
  (m.health fun h => { h with unrec := (h.unrec + 1) % 2 ^ 64 }).readLb s off St.unrecoveredRead 0 false

/-- One LB is looked up (R241, Table 07.5, R428). -/
def Mach.readOne (s off : Nat) (m : Mach) : Mach :=
  let c := m.cmd s
  let v := entVol c.entry
  let lba := entSlba c.entry + off
  let m := m.lookLamp v lba
  match m.current v lba with
  | .frame _ p f => if m.pageLost f p then m.lostLb s off else m.readLb s off St.success (m.framePage f p) false
  | .tainted => m.readLb s off St.poisonedMu 0 false
  | .version _ d => m.readLb s off St.success d false
  | .zero => m.readLb s off St.success 0 false
  | .poison => m.readLb s off St.poisonedMu 0 false
  | .recovering => (m.badEntry v lba).readLb s off St.mapRecovering 0 false
  | .flash a => m.startRead a v lba .q0 (.cmd s off)

/-- Every LB of the range. -/
def Mach.readAll (s : Nat) (lost : List DramUser) (m : Mach) : Mach :=
  let n := entCount (m.cmd s).entry
  let m := m.setCmd s { m.cmd s with stage := .running, todo := List.range n }
  let m := m.readLost s lost
  (m.each (List.range n) fun off m => m.readOne s off).readDone s

def Mach.readRow (s : Nat) (lost : List DramUser) (m : Mach) : Mach :=
  if !m.fresh s opRead then m
  else if (m.cmd s).needsList then m.askList s
  else m.readAll s lost

def execRead (slot : Fin 4096) (lost : List DramUser) (s : State) : Host.Outcome State Fault Refusal :=
  s.on (Mach.readRow slot.val lost)

def Mach.verifyRow (s : Nat) (lost : List DramUser) (m : Mach) : Mach := if m.fresh s opVerify then m.readAll s lost else m

def execVerify (slot : Fin 4096) (lost : List DramUser) (s : State) : Host.Outcome State Fault Refusal :=
  s.on (Mach.verifyRow slot.val lost)

/-! ### FLUSH -/

/-- The owner of a mirrored volume sends DURABLE, which covers the regions unconfirmed now (R386, R389). -/
def Mach.sendDurable (mk : List Nat → TxFor) (v : Vid) (m : Mach) : Mach × Nat :=
  let x := m.volu v
  let (m, id) := (m.setVol v { x with unconf := [] }).twnXid (mk x.unconf)
  (m.twnSend 0x14 0 id 0 [v.val] 0, id)

/-- A validated FLUSH begins: it waits for what it covers, and for the partner. -/
def Mach.flushStart (s : Nat) (m : Mach) : Mach :=
  let c := m.cmd s
  let v := entVol c.entry
  let (m, extra) := if m.mirroring v then
      let (m, x) := m.sendDurable (fun rs => .flush s v rs) v
      (m, [Cover.partner x])
    else (m, [])
  let m := m.setCmd s { m.cmd s with stage := .running, covering := true, cover := if c.fails.isEmpty then c.cover ++ extra else [] }
  (m.pushCovers s).settleCovers

/-- While the SOW page is stopped a FLUSH waits; once it runs again the row is tried again. -/
def Mach.flushRow (s : Nat) (m : Mach) : Mach :=
  if m.fresh s opFlush then m.flushStart s
  else if m.working s opFlush then (m.pushCovers s).settleCovers
  else m

def execFlush (slot : Fin 4096) (s : State) : Host.Outcome State Fault Refusal := s.on (Mach.flushRow slot.val)

/-! ### DEALLOCATE -/

/-- Whole MUs of a range: the first, and how many. -/
def wholeMus (slba n : Nat) : Nat × Nat := ((slba + 3) / 4, (slba + n) / 4 - (slba + 3) / 4)

/-- Offsets of the LBs of partial MUs at either end. -/
def partialLbs (slba n : Nat) : List Nat :=
  (List.range n).filter fun o =>
    let w := wholeMus slba n
    !decide (4 * w.1 ≤ slba + o ∧ slba + o < 4 * (w.1 + w.2))

/-- One whole MU: a WSN, UNMAPPED as a version with it, and older buffered versions are discarded (R248). -/
def Mach.deallocMu (v : Vid) (rec mu : Nat) (m : Mach) : Mach :=
  let wsn := m.buf.wsn
  let m := (m.updBuf fun b => { b with wsn := wsn + 1 }).touch .map
  (m.install v mu wsn unmapped none).discardOlder v mu wsn rec

/-- Whole MUs, with one deallocation record that names the highest WSN (R249, Table 12.3). -/
def Mach.deallocMus (v : Vid) (slba n : Nat) (m : Mach) : Mach :=
  let w := wholeMus slba n
  if w.2 = 0 then m
  else
    let (m, rec) := m.ask (.dealloc v w.1 w.2 (m.buf.wsn + w.2 - 1))
    m.each (List.range w.2) fun i m => m.deallocMu v rec (w.1 + i)

/-- Every lit LB of the range is zero-filled in its frame and left clean. -/
def Mach.deallocLit (v : Vid) (slba n : Nat) (m : Mach) : Mach :=
  m.each (List.range n) fun o m =>
    let m := m.lookLamp v (slba + o)
    match m.litAt v (slba + o) with
    | some (k, p, f) => m.fillFrame k p f 0 false
    | none => m

/-- Zero LBs for partial MUs, in LBA order, while there is room. -/
def Mach.deallocZeros (s : Nat) : Nat → Mach → Mach
  | 0, m => m
  | n + 1, m =>
    let c := m.cmd s
    let v := entVol c.entry
    match c.todo with
    | [] => m
    | off :: _ =>
      let lba := entSlba c.entry + off
      let m := m.makeRoom v lba
      if !m.mayAccept opDealloc v lba then m.stall s
      else
        let (m, id) := m.acceptLb v lba 0 (m.posFor v 0) false true
        ((m.noteVersion s id).nextLb s).deallocZeros s n

/-- The zeros, then the end: the last map entry or zero LB is in place (R120). -/
def Mach.deallocWork (s : Nat) (m : Mach) : Mach :=
  let m := m.deallocZeros s ((m.cmd s).todo.length)
  if (m.cmd s).todo.isEmpty then m.awaitPartner s else m

/-- An admitted DEALLOCATE begins. It is past its commit point with the first map entry or buffered LB that changes (Table 05.3). -/
def Mach.deallocStart (s : Nat) (m : Mach) : Mach :=
  let c := m.cmd s
  let v := entVol c.entry
  let slba := entSlba c.entry
  let n := entCount c.entry
  if m.heldForPartner v then m
  else
    let m := m.twinOpen s
    let m := m.setCmd s { m.cmd s with stage := if (wholeMus slba n).2 = 0 then .running else .committed, todo := partialLbs slba n }
    (((m.deallocMus v slba n).deallocLit v slba n).markWritten v slba n).deallocWork s

def Mach.deallocRow (s : Nat) (m : Mach) : Mach :=
  if m.fresh s opDealloc then m.deallocStart s
  else if m.working s opDealloc && !(m.cmd s).stalled && !(m.cmd s).covering then m.deallocWork s
  else m

def execDeallocate (slot : Fin 4096) (s : State) : Host.Outcome State Fault Refusal := s.on (Mach.deallocRow slot.val)

end Sys2Proof.Machine
end

