-- ==== Sys2Proof/Machine/Chan.lean ====
section
/-! DEFINITION. The channel engine's own steps: the rows from OPERATION_ISSUE to RESUME_INTERVAL_END (R186 to R188, R196 to R210). -/

namespace Sys2Proof.Machine

/-! ### OPERATION_ISSUE -/

/-- WPT_LAST.REQ. -/
def Req.wptCode (r : Req) : Nat :=
  match r with
  | .q0 => 0
  | .q1 => 0
  | .q2 => 1
  | .q3 => 2
  | .svc _ => 3

/-- What a refused operation's requester sees (Table 08.8, WP). -/
def Mach.wpOutcome (o : Op) (m : Mach) : Mach :=
  match o.kind with
  | .program p =>
    match m.buf.pgms.find? fun x => x.id == p with
    | some pg => (m.dropOp o.id).pageFailed pg none
    | none => m.dropOp o.id
  | .erase b _ => (m.dropOp o.id).putBlk o.dieIx b { m.blk o.dieIx b with st := .eraseInterrupted, wpHeld := true }
  | .svc code _ => m.svcEnd o (Mach.svcAgent o) code aptWp
  | _ => m.dropOp o.id

/-- A write-protect refusal at the grant (R204): a CRIT record on the data path. -/
def Mach.wpRefuse (o : Op) (m : Mach) : Mach :=
  let sector := m.opBlock o / 64
  let m := (m.bump Reg.WPT_REFUSED).bump (fchReg o.ch Reg.FCH_WPREF)
  let m := m.set Reg.WPT_LAST (BitVec.ofNat 32 (o.dieIx + 2048 * sector + 131072 * o.req.wptCode))
  let m := m.raiseAs (if o.kind.isSvc then .warn else .crit) (.fch o.ch) 18 (BitVec.ofNat 64 (o.dieIx + 2048 * sector))
  m.wpOutcome o

/-- The retry step that a read carries (R193): the requester's own, or the step remembered for the block. -/
def Mach.readStep (m : Mach) (o : Op) : Nat :=
  match o.req with
  | .svc a => (m.die o.dieIx).retry.get a
  | _ => (m.blk o.dieIx (m.opBlock o)).step

/-- A remembered step at or above n is treated as 0, and the byte is set to 0 (R217). -/
def Mach.fitStep (o : Op) (m : Mach) : Mach :=
  let d := o.dieIx
  let b := m.opBlock o
  if o.kind.isSvc || decide ((m.blk d b).step < m.retrySteps d) then m else m.putBlk d b { m.blk d b with step := 0 }

/-- The page, block and planes that a READ_PAGE_CACHE leaves in the cache register. -/
def cacheKey (x : Apt) : Nat := x.page + 4096 * x.block + 2 ^ 24 * x.planes

/-- Senses of a read, and what it leaves in the cache register: READ_PAGE_CACHE senses the next page too, and its own only where the
cache does not hold it (R193). -/
def Mach.readCache (m : Mach) (o : Op) : Nat × Option (Nat × Agent) :=
  match o.kind with
  | .svc c x =>
    if c = codeReadCache then
      (if (m.die o.dieIx).cache == some (cacheKey x, Mach.svcAgent o) then 1 else 2, some (cacheKey { x with page := x.page + 1 }, Mach.svcAgent o))
    else (1, none)
  | _ => (1, none)

/-- The words that a service-port program moves from the staging buffer to its die. -/
def Mach.stagedFor (m : Mach) (o : Op) : SMap Word :=
  match o.kind with
  | .svc _ x => if !o.kind.isProgram then [] else if x.buf = 0 then (m.chn o.ch).stage0 else (m.chn o.ch).stage1
  | _ => []

/-- What issuing changes on the die. -/
def Mach.dieIssued (o : Op) (m : Mach) : Mach :=
  let d := o.dieIx
  let b := m.opBlock o
  let x := m.die d
  if o.kind.isErase then
    (m.setDie d { x with erun := some b, esusp := none, suspends := 0, inInterval := false, cache := none }).pendReads o
  else if o.kind.isRead then
    let r := m.readCache o
    let m := m.fitStep o
    (m.setDie d { x with op := some o.id, step := m.readStep o, cache := r.2 }).senses d b r.1
  else m.setDie d { x with op := some o.id, cache := none }

/-- The operation as it runs: a headland program beside a suspended erase is a nested one (R200). -/
def Mach.asIssued (m : Mach) (o : Op) : Op :=
  { o with issued := true, data := m.stagedFor o, kind := match o.kind with
    | .headland r _ => .headland r (m.die o.dieIx).esusp.isSome
    | k => k }

/-- Alternation of Q2 and Q3 at NORMAL (Table 08.4). -/
def Mach.turn (o : Op) (m : Mach) : Mach :=
  if m.gln.level == .normal && (o.req == .q2 || o.req == .q3) then
    m.setChn o.ch { m.chn o.ch with turn3 := o.req == .q2 }
  else m

/-- RESUME through the service port. -/
def Mach.svcResume (o : Op) (m : Mach) : Mach :=
  if (m.die o.dieIx).esusp.isSome then (m.resumeErase o.dieIx).svcEnd o (Mach.svcAgent o) codeResume aptDone
  else m.svcEnd o (Mach.svcAgent o) codeResume aptNoErase

/-- Tokens are granted and the operation goes to its die. -/
def Mach.issueOp (o : Op) (m : Mach) : Mach :=
  if o.kind.isResume then m.svcResume o
  else
    let m := if o.kind.tokens = 0 then m else m.bump64 (fchReg o.ch Reg.FCH_OPS_LO)
    ((m.turn o).dieIssued o).setOp (m.asIssued o)

/-- One consideration of a channel: write protection, then tokens; one that cannot take its tokens ends it (R208). -/
def Mach.issueNext (c : Chan) (m : Mach) : Mach :=
  match m.nextOp c with
  | none => m
  | some o =>
    if m.wpHit o then m.wpRefuse o
    else if m.tokensFit c o.kind.tokens then m.issueOp o
    else if o.waited then m
    else (m.setOp { o with waited := true }).bump (fchReg c Reg.FCH_TOKWAIT)

def execOperationIssue (c : Chan) (s : State) : Host.Outcome State Fault Refusal := s.on (Mach.issueNext c)

/-! ### COMPLETION_DETECTION -/

/-- A die is free of the operation that ran on it. -/
def Mach.freeDie (o : Op) (m : Mach) : Mach := (m.setDie o.dieIx { m.die o.dieIx with op := none }).dropOp o.id

/-- A service operation ends on the die. -/
def Mach.svcComplete (o : Op) (code : Nat) (x : Apt) (pass : Bool) (m : Mach) : Mach :=
  let d := o.dieIx
  if aptDataOut code then m.svcTransfer o code x
  else
    let m := if code = codeProgram ∨ code = codeNested then m.rawProgram o x pass else m
    let m := if code = codeSetFeature && pass then m.setDie d { m.die d with feat := SMap.put (m.die d).feat x.fa x.fval } else m
    m.svcEnd o (Mach.svcAgent o) code (if pass || code = codeSetFeature then aptDone else aptProgramFail)
where
  /-- Codes whose data goes to PFF4. -/
  aptDataOut (code : Nat) : Bool :=
    code == codeRead || code == codeReadCache || code == codeGetFeature || code == codeReadId || code == codeParam

/-- What the end of an operation means to its requester; `cause` of Table 11.6 where it did not pass. -/
def Mach.opEnded (o : Op) (r : OpOutcome) (cause : Nat) (m : Mach) : Mach :=
  match o.kind, r with
  | .readCw t, .pass dec k =>
    match m.task t with
    | some x => (m.freeDie o).hardDone x dec k
    | none => m.freeDie o
  | .readCw t, .fail =>
    match m.task t with
    | some x => (m.freeDie o).hardFailed x
    | none => m.freeDie o
  | .program p, r =>
    match m.buf.pgms.find? fun x => x.id == p with
    | some pg => match r with
      | .pass .. => (m.freeDie o).pageConfirmed pg
      | .fail => (m.freeDie o).pageFailed pg (some cause)
    | none => m.freeDie o
  | .headland id _, .pass .. => (m.freeDie o).hdlPassed id
  | .headland id _, .fail => (m.freeDie o).hdlFailed id o.ch cause
  | .erase b sys, .pass .. => m.eraseDone o b sys
  | .erase b sys, .fail => m.eraseFailed o b sys (if cause = 1 then 2 else cause)
  | .svc code x, r =>
    let pass := match r with
      | .pass .. => true
      | .fail => false
    if code = codeErase then m.svcErased1 o x pass else m.svcComplete o code x pass

/-- The operation that a status poll of a die concerns: the one beside the erase, else the running erase. -/
def Mach.polled (m : Mach) (d : Nat) : Option Op :=
  match (m.die d).op with
  | some id => (m.op id).filter fun o => !o.stalled
  | none => if (m.die d).erun.isSome then m.eraseOp d else none

/-- A status poll finds the die ready (Table 08.13). -/
def Mach.completion (c : Chan) (r : Row) (x : OpOutcome) (m : Mach) : Mach :=
  match m.polled (dieOf c r.val) with
  | some o => m.opEnded o x 1
  | none => m

def execCompletionDetection (c : Chan) (r : Row) (o : OpOutcome) (s : State) : Host.Outcome State Fault Refusal :=
  s.on (Mach.completion c r o)

/-! ### OPERATION_TIMEOUT -/

/-- An operation passes FCH_OPTMO: RESET_DIE, and it ends as failed with TIMEOUT. An erase beside it is lost. -/
def Mach.timeoutOp (c : Chan) (r : Row) (m : Mach) : Mach :=
  let d := dieOf c r.val
  match m.polled d with
  | none => m
  | some o =>
    let m := (m.bump (fchReg c Reg.FCH_OPTIMEOUT)).raise (.fch c) 19 (BitVec.ofNat 64 d)
    let m := if o.kind.isErase then m else m.resetDie d
    match o.kind with
    | .svc code x =>
      if code = codeErase then ((m.dieEraseOver d).eraseLost d x.block).svcEnd o (Mach.svcAgent o) code aptTimeout
      else m.svcEnd o (Mach.svcAgent o) (code % erasedMark) aptTimeout
    | _ => m.opEnded o .fail 3

def execOperationTimeout (c : Chan) (r : Row) (s : State) : Host.Outcome State Fault Refusal := s.on (Mach.timeoutOp c r)

/-! ### The service port's waits -/

/-- R188: rank 0 for the die's next issue. -/
def Mach.svcExpire (c : Chan) (r : Row) (m : Mach) : Mach :=
  m.updFl fun f => { f with ops := f.ops.map fun o =>
    if o.ch == c && o.row == r && o.kind.isSvc && !o.issued then { o with rank0 := true } else o }

def execSvcWaitExpiry (c : Chan) (r : Row) (s : State) : Host.Outcome State Fault Refusal := s.on (Mach.svcExpire c r)

/-- R196: the oldest stalled outbound transfer of the channel is aborted; what waited behind it may go. -/
def Mach.svcStallEnd (c : Chan) (m : Mach) : Mach :=
  match m.fl.xfers.findSome? fun id => (m.op id).filter fun o => o.ch == c with
  | none => m
  | some o =>
    match o.kind with
    | .svc code _ => ((m.svcEnd o (Mach.svcAgent o) (code % erasedMark) aptTimeout).raise (.fch c) 19 (BitVec.ofNat 64 o.dieIx)).svcDrain
    | _ => m

def execSvcTransferTimeout (c : Chan) (s : State) : Host.Outcome State Fault Refusal := s.on (Mach.svcStallEnd c)

/-! ### The scheduler (R197 to R201) -/

/-- What the scheduler suspends an erase for: a Q0 read of the die, or a headland program of a T0 die with NESTED. -/
def Mach.suspendWanted (m : Mach) (c : Chan) (r : Row) : Bool :=
  m.fl.ops.any fun o => o.ch == c && o.row == r && !o.issued && m.inQueue o &&
    ((o.req == .q0 && o.kind.isRead) ||
      (o.req == .q1 && o.kind.isProgram && decide (r.val < 4) && (m.die (dieOf c r.val)).info.any fun i => i.nested))

/-- Is a further suspend allowed (R198, R199)? -/
def Mach.suspendOk (m : Mach) (c : Chan) (d : Nat) : Bool :=
  let n := m.rdN (fchReg c Reg.FCH_SUSPALLOW)
  !(m.die d).inInterval && (n == 0 || decide ((m.die d).suspends < n)) && decide (m.rdN Reg.GLN_FLOOR ≤ m.fallowCount) &&
    m.running (.fch c)

def Mach.schedSuspend (c : Chan) (r : Row) (ended : Bool) (m : Mach) : Mach :=
  let d := dieOf c r.val
  if (m.die d).erun.isNone || !m.suspendWanted c r || !m.suspendOk c d then m
  else if ended then
    match m.eraseOp d with
    | some o => m.opEnded o (.pass .failed .good) 1
    | none => m
  else m.suspendErase d true

def execSchedulerSuspend (c : Chan) (r : Row) (eraseEnded : Bool) (s : State) : Host.Outcome State Fault Refusal :=
  s.on (Mach.schedSuspend c r eraseEnded)

/-- Does a read or a nested program keep the erase suspended? Below the floor nothing queued does (R199). -/
def Mach.resumeHeld (m : Mach) (c : Chan) (r : Row) : Bool :=
  decide (m.rdN Reg.GLN_FLOOR ≤ m.fallowCount) && m.fl.ops.any fun o => o.ch == c && o.row == r && !o.issued && m.inQueue o &&
    (o.kind.isRead || (o.req == .q1 && o.kind.isProgram && decide (r.val < 4) &&
      (m.die (dieOf c r.val)).info.any fun i => i.nested))

def Mach.schedResume (c : Chan) (r : Row) (m : Mach) : Mach :=
  let d := dieOf c r.val
  if (m.die d).esusp.isNone || (m.die d).op.isSome || m.resumeHeld c r || !m.running (.fch c) || m.fl.trip || m.dev.pf != .none || m.dev.phase == .done ||
      !m.tokensFit c 5 then m
  else m.resumeErase d

def execSchedulerResume (c : Chan) (r : Row) (s : State) : Host.Outcome State Fault Refusal := s.on (Mach.schedResume c r)

/-- R198: the erase may be suspended again. -/
def execResumeIntervalEnd (c : Chan) (r : Row) (s : State) : Host.Outcome State Fault Refusal :=
  s.on fun m => m.setDie (dieOf c r.val) { m.die (dieOf c r.val) with inInterval := false }

end Sys2Proof.Machine
end

