-- ==== Sys2Proof/Machine/CxlPorts.lean ====
section
/-! DEFINITION. The CXL ports: HDM decoders, CXL.mem requests, viral, GPF, D3hot and flit errors (R75 to R100, R155, R157, R165). -/

namespace Sys2Proof.Machine

def execHdmDecoderCommit (p : Port) (k : Fin 4) (base size skip : Nat) (lock : Bool) (s : State) : Host.Outcome State Fault Refusal :=
  s.on (Mach.hdmCommit p k.val base size skip lock)

/-! ### CXL.mem requests -/

def execCxlMemRead (p : Port) (hpa : Nat) (e : MemErr) (s : State) : Host.Outcome State Fault Refusal :=
  s.on (Mach.memRequest p hpa (fun dpa => .rd p dpa e) true e)

def execCxlMemWrite (p : Port) (hpa : Nat) (d : Line) (e : MemErr) (s : State) : Host.Outcome State Fault Refusal :=
  s.on (Mach.memRequest p hpa (fun dpa => .wr p dpa d) false e)

/-- A write that arrives with poison is counted, and the RAS capability notes it (R94). -/
def Mach.poisonedWrite (p : Port) (hpa : Nat) (e : MemErr) (m : Mach) : Mach :=
  if !m.memOpen p then m
  else ((m.bump (portReg p Reg.PORT_POISON_RX)).updPort p fun x => { x with rasPoison := true }).memRequest p hpa
    (fun dpa => .poisonWr p dpa) false e

def execCxlMemPoisonedWrite (p : Port) (hpa : Nat) (e : MemErr) (s : State) : Host.Outcome State Fault Refusal :=
  s.on (Mach.poisonedWrite p hpa e)

def execCapholdRelease (s : State) : Host.Outcome State Fault Refusal := s.on Mach.capRelease

/-! ### Viral and Global Persistent Flush (R96, R97) -/

/-- Does a port run with its CXL link up? -/
def Mach.cxlUp (m : Mach) (p : Port) : Bool := (m.port.get p).up && (m.port.get p).cxl

/-- Fetched commands short of their commit point end with ABORTED_BY_RESET. -/
def Mach.viralCut (m : Mach) : Mach :=
  m.each (m.q.used.filter fun s => (m.cmd s).kind == .host && (m.cmd s).short) fun s m =>
    if (m.cmd s).short then m.cutShort s St.abortedByReset else m

def Mach.viralReceived (p : Port) (m : Mach) : Mach :=
  if !m.cxlUp p then m else (m.updPort p fun x => { x with viralRx := true }).viralCut

def execViralReceived (p : Port) (s : State) : Host.Outcome State Fault Refusal := s.on (Mach.viralReceived p)

/-- Phase 1 is acknowledged at once in both modes. -/
def Mach.gpf1 (p : Port) (m : Mach) : Mach := if m.cxlUp p then m.send (.gpfAck p 1) else m

def execGpfPhase1 (p : Port) (s : State) : Host.Outcome State Fault Refusal := s.on (Mach.gpf1 p)

/-- Phase 2 starts the write-out in capacitor-backed mode, or joins one that runs; otherwise there is nothing to wait for. -/
def Mach.gpf2 (p : Port) (m : Mach) : Mach :=
  if !m.cxlUp p then m
  else if !m.capMode || m.dev.pf == .over || (m.dev.pf == .writing && m.dev.dump.isNone) then m.send (.gpfAck p 2)
  else
    let m := m.updDev fun d => { d with gpfWait := d.gpfWait.set p true }
    if m.dev.dump.isNone && m.dev.pf == .none then m.startDump .gpf else m

def execGpfPhase2 (p : Port) (s : State) : Host.Outcome State Fault Refusal := s.on (Mach.gpf2 p)

/-! ### D3hot and flits (R78, R100) -/

def Mach.setD3 (p : Port) (b : Bool) (m : Mach) : Mach :=
  if (m.port.get p).up then (m.updPort p fun x => { x with d3 := b }).touch (.port p) else m

def execD3hotEntry (p : Port) (s : State) : Host.Outcome State Fault Refusal := s.on (Mach.setD3 p true)

/-- A flit with a CRC error: counted, and a link-layer retry is requested. -/
def Mach.flitError (p : Port) (m : Mach) : Mach :=
  if !m.cxlUp p then m
  else ((m.bump (portReg p Reg.PORT_CRCERR)).bump (portReg p Reg.PORT_LLRETRY)).send (.linkRetry p)

def execFlitCrcError (p : Port) (s : State) : Host.Outcome State Fault Refusal := s.on (Mach.flitError p)

end Sys2Proof.Machine
end

