-- ==== Sys2Proof/Machine/Doe.lean ====
section
/-! DEFINITION. The DOE mailbox of a port: discovery, the CDAT, and Shavi attestation (R92, R93, R335, R338, R339). Cryptographic
values are bit vectors whose byte i, in the order of the standard, is bits [8i+7:8i]. -/

namespace Sys2Proof.Machine

/-- The DOE mailbox of a port answers: its link up, out of reset, in D0 (R78). -/
def Mach.doeUp (m : Mach) (p : Port) : Bool := (m.port.get p).up && !(m.port.get p).perst && !(m.port.get p).d3

/-- The bytes of a bit vector of n bytes. -/
def bvBytes {w : Nat} (n : Nat) (x : BitVec w) : List Byte := (List.range n).map fun i => x.extractLsb' (8 * i) 8

/-! ### Discovery and CDAT -/

/-- Vendor ID, type and next index of the object at a discovery index. -/
def doeObject (i : Nat) : Nat × Nat × Nat :=
  match i with
  | 0 => (0x0001, 0, 1)
  | 1 => (0x1E98, 2, 2)
  | 2 => (0x2C51, 1, 0)
  | _ => (0xFFFF, 0, 0)

def Mach.doeDiscovery (p : Port) (i : Byte) (m : Mach) : Mach :=
  let o := doeObject i.toNat
  if m.doeUp p then m.send (.doe p (leBytes 2 o.1 ++ leBytes 1 o.2.1 ++ leBytes 1 o.2.2)) else m

def execDoeDiscovery (p : Port) (index : Byte) (s : State) : Host.Outcome State Fault Refusal := s.on (Mach.doeDiscovery p index)

/-- The length of the window: 256 TiB. -/
def windowBytes : Nat := 2 ^ 48

/-- A DSLBIS entry: data type, unit and value. -/
def dslbis (dtype unit v : Nat) : List Byte :=
  leBytes 4 (1 + 65536 * 24) ++ leBytes 4 (65536 * dtype) ++ leBytes 8 unit ++ leBytes 2 v ++ leBytes 6 0

/-- The entries of Table 04.5; the non-volatile flag follows the power-loss mode. -/
def cdatEntries (nonVolatile : Bool) : List (List Byte) :=
  [leBytes 4 (65536 * 24) ++ leBytes 4 (if nonVolatile then 256 * 4 else 0) ++ leBytes 8 0 ++ leBytes 8 windowBytes,
   dslbis 1 1000 150, dslbis 2 1000 125, dslbis 4 1 27360, dslbis 5 1 29650,
   leBytes 4 (4 + 65536 * 24) ++ leBytes 4 256 ++ leBytes 8 0 ++ leBytes 8 windowBytes]

/-- The CDAT header, with the checksum that makes the bytes of the table sum to 0. -/
def cdatHeader (es : List (List Byte)) : List Byte :=
  let head (c : Nat) : List Byte := leBytes 4 (16 + es.flatten.length) ++ leBytes 1 1 ++ leBytes 1 c ++ leBytes 10 0
  let sum := ((head 0 ++ es.flatten).map (·.toNat)).sum
  head ((256 - sum % 256) % 256)

/-- Handle 0 names the header, handle k the k-th entry; 0xFFFF follows the last. -/
def cdatAt (nonVolatile : Bool) (h : Nat) : Option (List Byte) :=
  let es := cdatEntries nonVolatile
  (cdatHeader es :: es)[h]?.map fun e => leBytes 2 0 ++ leBytes 2 (if h = es.length then 0xFFFF else h + 1) ++ e

def Mach.doeError (p : Port) (m : Mach) : Mach := m.updPort p fun x => { x with doeError := true }

def Mach.cdat (p : Port) (h : Nat) (m : Mach) : Mach :=
  if !m.doeUp p then m
  else match cdatAt (m.adm.plm == 1) h with
    | some b => m.send (.doe p b)
    | none => m.doeError p

def execCdatTableAccess (p : Port) (handle : Nat) (s : State) : Host.Outcome State Fault Refusal := s.on (Mach.cdat p handle)

/-! ### Shavi -/

/-- A packet FIFO that an exchange may pass through: running, or not yet powered in a start-up (R339). -/
def Mach.shaviFifo (m : Mach) (n : Fin 8) : Bool := m.running (.pff n) || (m.dev.st == .boot && m.pageSt (.pff n) == .off)

/-- A Shavi exchange can be had on a port: DOE up, PD_KEY powered, PFF5 and PFF6 open. -/
def Mach.shaviUp (m : Mach) (p : Port) : Bool := m.doeUp p && m.domainIsOn 1 && m.shaviFifo 5 && m.shaviFifo 6

/-- A whole object passes a packet FIFO. -/
def Mach.shaviPass (n : Fin 8) (bytes : List Byte) (m : Mach) : Mach :=
  if m.running (.pff n) then m.fifoPass n (bytesWords bytes) else m

/-- The response of the security processor to a request. -/
def Mach.shavi (p : Port) (req resp : List Byte) (m : Mach) : Mach :=
  ((m.shaviPass 5 req).shaviPass 6 resp).send (.doe p resp)

/-- The header of a Shavi message. -/
def shaviHead (code p1 p2 : Nat) : List Byte := [0x10, BitVec.ofNat 8 code, BitVec.ofNat 8 p1, BitVec.ofNat 8 p2]

/-- CODE 0x7F: 1 malformed, 2 not ready, 3 unsupported code, 4 bad length. -/
def shaviError (why : Nat) : List Byte := shaviHead 0x7F why 0

/-- The length of the chain as it is read: at most 4,096 bytes of certificates behind 52 (R335). -/
def chainLength : Nat := min (52 + 4096) Config.certificateLength

/-- A byte of the chain as it is read: TOTAL, taken for the length of the whole (log entry 183), RSVD, and the free bytes of the root's
digest and the certificates. -/
def chainByte (i : Nat) : Byte := if i < 4 then (leBytes 4 chainLength).getD i 0 else Config.certificateByte i

def chainBytes (off n : Nat) : List Byte := (List.range n).map fun i => chainByte (off + i)

/-- GET_CERTIFICATE: PORTION, REMAINDER and the bytes. -/
def certPortion (off len : Nat) : List Byte :=
  let n := min len (chainLength - off)
  shaviHead 0x01 0 0 ++ leBytes 2 n ++ leBytes 2 (chainLength - off - n) ++ chainBytes off n

def Mach.getCertificate (p : Port) (off len : Nat) (m : Mach) : Mach :=
  if !m.shaviUp p then m
  else
    let req := shaviHead 0x81 0 0 ++ leBytes 2 off ++ leBytes 2 len
    m.shavi p req (if 1000 < len then shaviError 1 else certPortion (off % 65536) len)

def execGetCertificate (p : Port) (off length : Nat) (s : State) : Host.Outcome State Fault Refusal :=
  s.on (Mach.getCertificate p off length)

/-- Step 3 of the start-up has not completed (R339). -/
def Mach.beforeStep3 (m : Mach) : Bool := m.dev.st == .boot && decide (m.dev.stage < 4)

/-- What the model holds of the input of a measurement (Table 14.7). -/
def Mach.measured (m : Mach) (i : Nat) : List Byte :=
  let flag (b : Bool) : Byte := if b then 1 else 0
  let img := m.runSlot.img
  match i with
  | 1 => leBytes 1 m.adm.svFloor
  | 6 => leBytes 1 m.dev.slot.val ++ leBytes 1 img.sv ++ bvBytes 16 img.fwrev ++ [flag m.dev.fallback, flag m.dev.recovery]
  | 7 => leBytes 1 m.adm.now.plmode ++
      (match m.adm.serviceKey with
        | some k => bvBytes 48 (Config.sha384 (bvBytes 97 k))
        | none => leBytes 48 0) ++ leBytes 1 m.dev.strap.toNat
  | _ => []

/-- A measurement: of the sections of the running slot their Amold digests, of the rest the digest of its input (Table 14.7). -/
def Mach.measurement (m : Mach) (i : Nat) : BitVec 384 :=
  if 2 ≤ i ∧ i ≤ 5 then m.runSlot.img.digest (i - 1) else Config.measurement i (m.measured i)

/-- A measurement block: INDEX, TYPE, SIZE, DIGEST. -/
def Mach.measureBlock (m : Mach) (i : Nat) : List Byte :=
  leBytes 1 i ++ [Config.measureType i] ++ leBytes 2 48 ++ bvBytes 48 (m.measurement i)

def Mach.measureBlocks (m : Mach) (is : List Nat) : List Byte := is.flatMap m.measureBlock

/-- Sign a response: SIG over SHA-384 of the request followed by the response up to it. -/
def Mach.signed (p : Port) (req resp : List Byte) (m : Mach) : Mach :=
  m.draw.shavi p req (resp ++ bvBytes 96 (Config.signature m.free (req ++ resp)))

def Mach.challenge (p : Port) (summary : Bool) (nonce : BitVec 384) (m : Mach) : Mach :=
  let req := shaviHead 0x83 (if summary then 1 else 0) 0 ++ bvBytes 48 nonce
  if !m.shaviUp p then m
  else if summary && m.beforeStep3 then m.shavi p req (shaviError 2)
  else
    let resp := shaviHead 0x03 0 0 ++ bvBytes 48 (Config.sha384 (chainBytes 0 chainLength)) ++
      bvBytes 48 (Config.random384 m.free) ++
      (if summary then bvBytes 48 (Config.sha384 (m.measureBlocks (List.range 8))) else leBytes 48 0)
    m.draw.signed p req resp

def execChallenge (p : Port) (summary : Bool) (nonce : BitVec 384) (s : State) : Host.Outcome State Fault Refusal :=
  s.on (Mach.challenge p summary nonce)

/-- The indices that P1 names: one, or all for 0xFF. -/
def measureIndices (index : Byte) : Option (List Nat) :=
  if index = 0xFF then some (List.range 8) else if index.toNat < 8 then some [index.toNat] else none

def Mach.getMeasurements (p : Port) (index : Byte) (sign : Bool) (nonce : BitVec 384) (m : Mach) : Mach :=
  let req := shaviHead 0x85 index.toNat (if sign then 1 else 0) ++ (if sign then bvBytes 48 nonce else [])
  if !m.shaviUp p then m
  else if m.beforeStep3 then m.shavi p req (shaviError 2)
  else match measureIndices index with
    | none => m.shavi p req (shaviError 1)
    | some is =>
      let resp := shaviHead 0x05 is.length 0 ++ m.measureBlocks is
      if sign then m.draw.signed p req (resp ++ bvBytes 48 (Config.random384 m.free)) else m.shavi p req resp

def execGetMeasurements (p : Port) (index : Byte) (sign : Bool) (nonce : BitVec 384) (s : State) :
    Host.Outcome State Fault Refusal :=
  s.on (Mach.getMeasurements p index sign nonce)

/-- The codes of Table 14.6. -/
def shaviCode (c : Byte) : Bool := c == 0x81 || c == 0x83 || c == 0x85

/-- A request that is no good: too long for DOE, its code unsupported, its length wrong for the code, or its body malformed. -/
def Mach.shaviBad (p : Port) (code : Byte) (dwords : Nat) (lengthOk bodyOk : Bool) (m : Mach) : Mach :=
  let req := shaviHead code.toNat 0 0
  if !m.doeUp p then m
  else if 256 < dwords then m.doeError p
  else if !m.shaviUp p then m
  else if !shaviCode code then m.shavi p req (shaviError 3)
  else if !lengthOk then m.shavi p req (shaviError 4)
  else if !bodyOk then m.shavi p req (shaviError 1)
  else m

def execShaviErrorRequest (p : Port) (code : Byte) (dwords : Nat) (lengthOk bodyOk : Bool) (s : State) :
    Host.Outcome State Fault Refusal :=
  s.on (Mach.shaviBad p code dwords lengthOk bodyOk)

end Sys2Proof.Machine
end

