-- ==== Sys2Proof/Machine/Dram.lean ====
section
/-! DEFINITION. The rows of the DRAM channels (chapter 13) and the decode of an address on request (R318). -/

namespace Sys2Proof.Machine

/-- One line of the patrol scrub. The scrub runs while the channel does. -/
def Mach.patrolScrub (d : Fin 4) (b rank1 : Bool) (s : DramSyndrome) (u : DramUser) (passEnd : Bool) (m : Mach) : Mach :=
  if !m.running (.drc d) then m
  else
    let m := m.dramLine d (subRank b rank1) s u
    if passEnd then m.scrubPass d else m

def execPatrolScrub (d : Fin 4) (b rank1 : Bool) (x : DramSyndrome) (u : DramUser) (passEnd : Bool) (s : State) :
    Host.Outcome State Fault Refusal := s.on (Mach.patrolScrub d b rank1 x u passEnd)

/-- ALERT_n: the replay either passes, or counts as a failed one (R313). The subchannel does not matter to the counts. -/
def Mach.caParity (d : Fin 4) (replayOk : Bool) (m : Mach) : Mach :=
  if !m.dramLive d then m
  else
    let m := m.bump (drcReg d Reg.DRC_CAPAR)
    if replayOk then m.setDram d { m.dram d with fails := 0 }
    else (m.setDram d { m.dram d with fails := (m.dram d).fails + 1 }).bump (drcReg d Reg.DRC_REPLAYFAIL)

def execCaParityAlert (d : Fin 4) (_ replayOk : Bool) (s : State) : Host.Outcome State Fault Refusal := s.on (Mach.caParity d replayOk)

/-- The third consecutive failed replay: the channel faults, and with it the controller. -/
def Mach.replayFail (d : Fin 4) (m : Mach) : Mach :=
  if m.dramLive d && decide (3 ≤ (m.dram d).fails) then
    (((m.setPageSt (.drc d) .faulted).raise (.drc d) 2 0).raise (.drc d) 20 0).fail 2
  else m

def execReplayFailFault (d : Fin 4) (s : State) : Host.Outcome State Fault Refusal := s.on (Mach.replayFail d)

/-- A batch: MR4 is read, one recalibration step is taken, and the refreshes owed are issued, as a catch-up where the doubled range
is new (R309, R314, R315). Nothing is owed when it ends. -/
def Mach.refreshBatch (d : Fin 4) (mr4 : Nat) (low high : Bool) (m : Mach) : Mach :=
  if !m.dramLive d then m else (((m.observe 0x03 (some mr4) mr4).refreshRate d mr4).recal d low high)

def execRefreshBatch (d : Fin 4) (mr4 : BitVec 3) (low high : Bool) (s : State) : Host.Outcome State Fault Refusal :=
  s.on (Mach.refreshBatch d mr4.toNat low high)

/-- The words of DRG_PRES and DRG_PROW for an address. -/
def Mach.drgResult (m : Mach) (a : Nat) : Word × Word :=
  let p := m.dramPlace a
  let err := decide (m.dramGib * 2 ^ 30 ≤ a)
  (BitVec.ofNat 32 (p.ch + 4 * p.sc + 8 * p.rank + 16 * p.bg + 128 * p.bank + 512 * p.colline + (if err then 2 ^ 15 else 0)),
    BitVec.ofNat 32 (p.row % 2 ^ 17))

/-- A write of DRG_PADDR_HI, with the low word that was held for it (R35, R318). Each agent has its own copy. -/
def Mach.drgDecode (a : Agent) (hi : Word) (m : Mach) : Mach :=
  if m.pageSt .drg == .off then m.wdrop a
  else
    let lo := SMap.get (m.rd (bank a Reg.DRG_PADDR_LO)) m.reg.low (bank a Reg.DRG_PADDR_LO)
    let m := m.updReg fun g => { g with low := SMap.del g.low (bank a Reg.DRG_PADDR_LO) }
    let m := (m.wr (bank a Reg.DRG_PADDR_LO) lo).wr (bank a Reg.DRG_PADDR_HI) (hi &&& 0x3F)
    let r := m.drgResult (lo.toNat + 2 ^ 32 * (hi.toNat % 64))
    ((m.wr (bank a Reg.DRG_PRES) r.1).wr (bank a Reg.DRG_PROW) r.2).touch .drg

def execDrgDecode (a : Agent) (hi : Word) (s : State) : Host.Outcome State Fault Refusal := s.on (Mach.drgDecode a hi)

end Sys2Proof.Machine
end

