-- ==== Sys2Proof/Machine/Glean.lean ====
section
/-! DEFINITION. Gleaning and the scans: the rows from VICTIM_SELECTION to DISTURB_SCAN (chapter 11). -/

namespace Sys2Proof.Machine

/-- R259, R260: a free victim slot is filled, ranks 1 to 3 first. At LOW a rank-4 victim needs GLN_LOWMIN (R261). -/
def Mach.selectVictim (m : Mach) : Mach :=
  if !m.gleaning then m
  else match m.gln.vic0, m.lowVictim with
    | none, some f => m.beginVictim f false
    | _, _ =>
      match m.gln.vic1, m.bestVictim with
      | none, some f =>
        if m.gln.level == .low && decide ((m.fur f).vterm < m.rdN Reg.GLN_LOWMIN) then m else m.beginVictim f true
      | _, _ => m

def execVictimSelection (s : State) : Host.Outcome State Fault Refusal := s.on Mach.selectVictim

def execGleanerSourceRead (low : Bool) (reads : List SrcRead) (s : State) : Host.Outcome State Fault Refusal :=
  s.on (Mach.gleanRead low reads)

def execResidualSearch (low : Bool) (s : State) : Host.Outcome State Fault Refusal := s.on (Mach.residual low)

def execEraseGate (s : State) : Host.Outcome State Fault Refusal := s.on Mach.gate

/-- The codewords that a scan reads of a member, one a page: slot (page mod 4) in plane (⌊page / 4⌋ mod PLANES) (R276). -/
def Mach.scanned (m : Mach) (c : Chan) (f : Nat) : List (BitVec 40) :=
  (List.range (m.fur f).stripes).map fun p =>
    m.planeAddr c f p (p / 4 % max 1 m.adm.board.planes) + BitVec.ofNat 40 (p % 4)

/-- Scan one member: a sense for every page. A codeword that a raw access has destroyed cannot decode, so it meets the refresh condition
whatever the rest give. -/
def Mach.scanMember (c : Chan) (f : Nat) (m : Mach) : Mach × Bool :=
  let l := m.scanned c f
  (m.senses (dieOf c (f / 4096)) (m.memberBlock c f) l.length, l.any fun a => (m.cwAt a).gone)

/-- Scan members, one after the other. -/
def Mach.scanMembers (f : Nat) : List Chan → Mach → Mach × Bool
  | [], m => (m, false)
  | c :: cs, m =>
    let (m, a) := m.scanMember c f
    let (m, b) := m.scanMembers f cs
    (m, a || b)

/-- R276: one codeword of every member page of a CLOSED furrow. -/
def Mach.patrolScan (f : Nat) (flagged passEnd : Bool) (m : Mach) : Mach :=
  if (m.fur f).st != .closed || !m.gleaning then m
  else
    let (m, gone) := m.scanMembers f ((goodMembers (m.fur f)).filter fun c => !m.chanAway c)
    let m := if flagged || gone then m.flagRefresh f else m
    if passEnd then m.bumpWrap Reg.GLN_SCANPASS else m

def execPatrolScan (furrow : Nat) (flagged passEnd : Bool) (s : State) : Host.Outcome State Fault Refusal :=
  s.on (Mach.patrolScan furrow flagged passEnd)

/-- R277: a member whose read count has reached GLN_RDDIST is scanned. -/
def Mach.disturbScan (c : Chan) (r : Row) (b : Nat) (flagged : Bool) (m : Mach) : Mach :=
  let d := dieOf c r.val
  let lim := m.rdN Reg.GLN_RDDIST
  if (m.blk d b).reads < lim || !m.gleaning then m
  else
    let f := m.furrowOf c r.val b
    let (m, gone) := (m.bump Reg.GLN_DISTURB).scanMember c f
    if flagged || gone then m.flagRefresh f else m.putBlk d b { m.blk d b with reads := lim / 2 }

def execDisturbScan (c : Chan) (r : Row) (b : Nat) (flagged : Bool) (s : State) : Host.Outcome State Fault Refusal :=
  s.on (Mach.disturbScan c r b flagged)

end Sys2Proof.Machine
end

