-- ==== Sys2Proof/Machine/Headland.lean ====
section
/-! DEFINITION. The headland's own rows: writing, durability, release, the end of a dump's use (R281, R288, R289, R298), and the
hold-up time of a held reset (R57). -/

namespace Sys2Proof.Machine

/-- The work of volume commands that waited for the volume's own commands goes on first (R138). -/
def execHeadlandWrite (s : State) : Host.Outcome State Fault Refusal := s.on fun m => m.volProgress.headlandWrite

/-- The erase follows the next durable root (R289); where that root stands already, at once. -/
def execHeadlandFurrowRelease (s : State) : Host.Outcome State Fault Refusal := s.on Mach.hdlRelease

/-- Is every version read back from the dump durable: placed, and its stripe protected? -/
def Mach.dumpDurable (m : Mach) : Bool :=
  !(m.buf.vers.any fun x => m.hdl.dumpWait.contains x.id) && !(m.buf.unprot.any fun u => m.hdl.dumpWait.contains u.ver)

/-- A root with FLAGS.DUMP clear follows, and the dump's records no longer count. -/
def Mach.dumpConsumed (m : Mach) : Mach :=
  if m.hdl.dumpValid && m.running .hdl && m.dumpDurable then
    (m.updHdl fun h => { h with dumpValid := false, dumpPartial := false, dumped := [], dumpWait := [], needRoot := true }).touch .hdl
  else m

def execDumpConsumed (s : State) : Host.Outcome State Fault Refusal := s.on Mach.dumpConsumed

/-- The configured hold-up time has passed: what has been written stands as a dump cut short, and the reset takes effect (R57). -/
def Mach.holdUpExpiry (m : Mach) : Mach :=
  if m.dev.resetHeld && m.dev.dump.isSome then (m.writeDump false).heldReset else m

def execHoldUpTimeExpiry (s : State) : Host.Outcome State Fault Refusal := s.on Mach.holdUpExpiry

end Sys2Proof.Machine
end

