-- ==== Sys2Proof/Machine/KeyCmds.lean ====
section
/-! DEFINITION. KEY_IMPORT, KEY_ROTATE and KEY_RETIRE (R326, R329 to R334). -/

namespace Sys2Proof.Machine

/-- The key store works while its page runs (R325); until it does its commands are answered as before IO_READY. -/
def Mach.keyMail (i : Instr) (p : Port) (len want : Nat) (f : Mach → Mach) (m : Mach) : Mach :=
  m.mail i p len want false fun m => if m.running .key then f m else m.refuse p St.volumeNotReady

/-! ### KEY_IMPORT -/

/-- SUBOP 0: SALT, the ephemeral public key, and a signature over both and SERIAL. The earlier ephemeral key is replaced (R329). -/
def Mach.getTransport (p : Port) (m : Mach) : Mach :=
  let salt := leBytes 48 (Config.random384 m.free).toNat
  let point := leBytes 97 (Config.ephemeralPoint m.free).toNat
  let sig := Config.signature m.free (salt ++ point ++ leBytes 20 m.adm.board.serial.toNat)
  ((m.updKey fun k => { k with xport := some m.free }).draw.touch .key).ok p (salt ++ point ++ leBytes 96 sig.toNat)

def execGetTransport (p : Port) (len : Nat) (s : State) : Host.Outcome State Fault Refusal := s.on (Mach.keyMail (.getTransport p len) p len 1 (Mach.getTransport p))

/-- A refused IMPORT counts in KEY_REFUSED, and the ephemeral key is used up (R331). -/
def Mach.importRefused (p : Port) (status : Nat) (m : Mach) : Mach :=
  ((m.updKey fun k => { k with xport := none }).bump Reg.KEY_REFUSED).refuse p status

/-- Is the epoch counter past its last value (R326)? -/
def Mach.epochsSpent (m : Mach) : Bool := decide (2 ^ 32 ≤ m.key.nextEpoch)

/-- A slot takes a key under the next epoch; its first block of nonces and the DEFINITION record that holds it are asked for. -/
def Mach.importKey (p : Port) (k : Nat) (key : BitVec 256) (m : Mach) : Mach :=
  let e := m.key.nextEpoch
  let m := m.updKey fun t => { t with nextEpoch := e + 1, xport := none }
  let m := m.setKslot k { st := .empty, epoch := e, asked := nonceBlock, key := key, importing := true }
  ((m.ask (.nonce k e nonceBlock)).1.askFor (.definition {}) false (.keyImport p k)).touch .key

/-- SUBOP 1, by Table 14.3. -/
def Mach.keyImport (p : Port) (k : Nat) (point : BitVec 776) (wrapped : BitVec 320) (m : Mach) : Mach :=
  let x := m.kslot k
  if 1024 ≤ k || x.st != .empty || x.importing then m.refuse p St.invalidField
  else match m.key.xport with
    | none => m.importRefused p St.accessDenied
    | some n =>
      if !Config.onCurve point then m.importRefused p St.accessDenied
      else match Config.unwrap n point k wrapped with
        | none => (m.raise .key 18 (BitVec.ofNat 64 k)).importRefused p St.accessDenied
        | some key => if m.epochsSpent then m.importRefused p St.keyExhausted else m.importKey p k key

def execImportKey (p : Port) (len : Nat) (slot : Nat) (point : BitVec 776) (wrapped : BitVec 320) (s : State) :
    Host.Outcome State Fault Refusal :=
  s.on (Mach.keyMail (.importKey p len slot point wrapped) p len 141 (Mach.keyImport p slot point wrapped))

/-! ### KEY_ROTATE (R332) -/

/-- The slot keeps its key; a new epoch, with its first block, takes over once its records are durable. -/
def Mach.rotateKey (k : Nat) (m : Mach) : Mach :=
  let e := m.key.nextEpoch
  let m := (m.updKey fun t => { t with nextEpoch := e + 1 }).setKslot k { m.kslot k with rotating := some e }
  ((m.ask (.nonce k e nonceBlock)).1.askFor (.definition {}) false (.keyRotate k)).touch .key

def Mach.keyRotate (p : Port) (k : Nat) (m : Mach) : Mach :=
  if m.adm.bg.isSome then m.refuse p St.backgroundBusy
  else if 1024 ≤ k then m.refuse p St.invalidField
  else if (m.kslot k).st == .empty then m.refuse p St.keySlotEmpty
  else if m.epochsSpent then m.refuse p St.keyExhausted
  else m.startBg p (.keyRotate k) 0xC032 (Mach.rotateKey k)

def execKeyRotate (p : Port) (len : Nat) (slot : Nat) (s : State) : Host.Outcome State Fault Refusal :=
  s.on (Mach.keyMail (.keyRotate p len slot) p len 2 (Mach.keyRotate p slot))

/-! ### KEY_RETIRE (R333) -/

def Mach.keyRetire (p : Port) (k : Nat) (m : Mach) : Mach :=
  if 1024 ≤ k then m.refuse p St.invalidField
  else if (m.kslot k).st == .empty then m.refuse p St.keySlotEmpty
  else (m.zeroiseSlot k).askFor (.definition {}) false (.keyRetire p)

def execKeyRetire (p : Port) (len : Nat) (slot : Nat) (s : State) : Host.Outcome State Fault Refusal :=
  s.on (Mach.keyMail (.keyRetire p len slot) p len 2 (Mach.keyRetire p slot))

end Sys2Proof.Machine
end

