-- ==== Sys2Proof/Machine/LampCmds.lean ====
section
/-! DEFINITION. LIGHT, DOUSE and PERSIST once admitted, and the filling of a lighting page (R154, R158 to R162, R166, R167). -/

namespace Sys2Proof.Machine

/-! ### Ranges and regions -/

/-- Does one region hold every LB of a range? -/
def Mach.inOneRegion (m : Mach) (v : Vid) (slba n : Nat) : Bool :=
  (List.range 4).any fun k =>
    let r := m.region k
    r.defined && r.vol == v && decide (r.base ≤ slba ∧ slba + n ≤ r.base + r.size / 4096)

def Mach.cmdInRegion (m : Mach) (s : Nat) : Bool :=
  let e := (m.cmd s).entry
  m.inOneRegion (entVol e) (entSlba e) (entCount e)

/-- The lamp page of an LB of a command. -/
def Mach.cmdPage (m : Mach) (s off : Nat) : Option (Nat × Nat) :=
  m.lampOf (entVol (m.cmd s).entry) (entSlba (m.cmd s).entry + off)

/-- The blocks of a command's range, ascending. -/
def Mach.cmdBlocks (m : Mach) (s : Nat) : List Nat :=
  ((List.range (entCount (m.cmd s).entry)).filterMap fun off => (m.cmdPage s off).map (·.1)).foldl (fun l k => insertNat k l) []

/-- An LB of the command fails. -/
def Mach.failLb (s off status : Nat) (m : Mach) : Mach :=
  m.setCmd s { m.cmd s with fails := insertFail off status (m.cmd s).fails }

/-! ### LIGHT (R158) -/

/-- A LIGHT that has no effect. A failed touch light writes a NOTICE (R159). -/
def Mach.lightRefuse (s status : Nat) (m : Mach) : Mach :=
  let c := m.cmd s
  let m := (m.setCmd s { c with todo := [] }).pendlRange (entVol c.entry) (entSlba c.entry) (entCount c.entry)
  let m := m.when (c.kind == .touch) (Mach.devEvent .notice 0x010C (BitVec.ofNat 64 (entSlba c.entry)) [])
  m.refuseCmd s status

/-- What a LIGHT does at first with one page: a lit one stands, a tainted one fails, any other begins lighting. -/
def Mach.lightMark (s off : Nat) (m : Mach) : Mach :=
  match m.cmdPage s off with
  | none => m
  | some (k, p) =>
    let d := m.desc k
    match d.state p with
    | .lit => m.lntUpdate k false
    | .litDirty => m.lntUpdate k false
    | .persisting => m.lntUpdate k false
    | .tainted => (m.lntUpdate k false).failLb s off St.poisonedMu
    | _ =>
      (m.putDesc k { d with pendl := setBit d.pendl (p / 4) true }).setCmd s { m.cmd s with todo := (m.cmd s).todo ++ [off] }

/-- A page that cannot be lit settles. -/
def Mach.lightNo (s off status : Nat) (m : Mach) : Mach :=
  ((m.setCmd s { m.cmd s with todo := (m.cmd s).todo.filter (· != off) }).failLb s off status).pendlOf s off

/-- A value at hand is to be filled in, under a number of its own. -/
def Mach.fillNow (s off : Nat) (d : Block) (m : Mach) : Mach :=
  (m.updFl fun f => { f with nextTask := f.nextTask + 1 }).addFill m.fl.nextTask s off d

/-- The current value of a page that is not lit (R13). -/
def Mach.lightRead (s off : Nat) (m : Mach) : Mach :=
  let c := m.cmd s
  let v := entVol c.entry
  let lba := entSlba c.entry + off
  match m.storedSrc v lba with
  | .version _ d => m.fillNow s off d
  | .zero => m.fillNow s off 0
  | .flash a => m.startRead a v lba .q0 (.light s off)
  | .recovering => (m.badEntry v lba).lightNo s off St.mapRecovering
  | _ => m.lightNo s off St.poisonedMu

def Mach.lightStart (s : Nat) (m : Mach) : Mach :=
  let c := m.cmd s
  let need := (m.cmdBlocks s).filter fun k => (m.desc k).frame.isNone
  if !m.cmdInRegion s then m.lightRefuse s St.invalidField
  else if c.kind == .touch && !(m.blockOpen && (m.volu (entVol c.entry)).serves) then m.lightRefuse s St.volumeNotReady
  else if m.framesFree < need.length then m.lightRefuse s St.noSpace
  else
    let m := m.each need Mach.takeFrame
    let m := m.setCmd s { m.cmd s with stage := .running, todo := [] }
    let m := m.each (List.range (entCount c.entry)) fun off m => m.lightMark s off
    (m.each (m.cmd s).todo fun off m => m.lightRead s off).lightDone s

/-- An admitted LIGHT. `lost` are the DRAM lines and Lantern entries that its lookups find bad. -/
def Mach.lightRow (s : Nat) (lost : List DramUser) (m : Mach) : Mach :=
  if m.fresh s opLight then (m.readLost s lost).lightStart s else m

def execLight (slot : Fin 4096) (lost : List DramUser) (s : State) : Host.Outcome State Fault Refusal :=
  s.on (Mach.lightRow slot.val lost)

/-- A page is lit, unless it was tainted while it was lighting. -/
def Mach.lightFill (x : Fill) (m : Mach) : Mach :=
  let s := x.slot
  let settle (m : Mach) : Mach := m.setCmd s { m.cmd s with todo := (m.cmd s).todo.filter (· != x.off) }
  match m.cmdPage s x.off with
  | none => (settle m).lightDone s
  | some (k, p) =>
    match (m.desc k).state p, (m.desc k).frame with
    | .tainted, _ => (m.lightFail s x.off St.poisonedMu).pendlCheck k (p / 4)
    | _, none => (settle m).lightDone s
    | _, some f =>
      let m := m.putPage k f p x.data
      let m := m.putDesc k { m.desc k with lit := setBit (m.desc k).lit p true, dirty := setBit (m.desc k).dirty p false }
      let m := settle (m.setCmd s { m.cmd s with stage := .committed, done := (m.cmd s).done + 1 })
      (m.pendlCheck k (p / 4)).lightDone s

/-- The 64 lines of a decoded LB are written. -/
def Mach.lbFill (task : Nat) (m : Mach) : Mach :=
  match m.fl.fills.find? fun x => x.task == task with
  | none => m
  | some x => (m.updFl fun f => { f with fills := f.fills.filter fun y => y.task != task }).lightFill x

def execLightLbFill (task : Nat) (s : State) : Host.Outcome State Fault Refusal := s.on (Mach.lbFill task)

/-! ### DOUSE and PERSIST (R160, R161) -/

def Mach.keeps (m : Mach) (s : Nat) : Bool := entOpc (m.cmd s).entry == opPersist

/-- Would this page be written back: lit and dirty, in a volume that takes writes, no line lost? -/
def Mach.wouldWrite (m : Mach) (s off : Nat) : Bool :=
  match m.cmdPage s off with
  | none => false
  | some (k, p) =>
    let d := m.desc k
    !d.taintAll && d.lit.getLsbD p && d.dirty.getLsbD p && (m.volu (entVol (m.cmd s).entry)).st != .readOnly &&
      (match d.frame with
        | some f => !m.pageLost f p
        | none => false)

/-- KEY_EXHAUSTED is decided before the commit point (R328). -/
def Mach.wbSpent (m : Mach) (s : Nat) : Bool :=
  let v := m.volu (entVol (m.cmd s).entry)
  v.enc && (m.kslot v.keySlot).spent && (List.range (entCount (m.cmd s).entry)).any (m.wouldWrite s)

/-- A DOUSE discards every queued touch light of a page in its range (R162). -/
def Mach.dropTouches (s : Nat) (m : Mach) : Mach :=
  let c := m.cmd s
  let mine := (List.range (entCount c.entry)).filterMap (m.cmdPage s)
  (m.updLamp fun l => { l with touch := l.touch.filter fun t => !mine.contains t }).pendlRange (entVol c.entry) (entSlba c.entry)
    (entCount c.entry)

/-- The command has changed a page: it is past its commit point. -/
def Mach.commit (s : Nat) (m : Mach) : Mach := m.setCmd s { m.cmd s with stage := .committed }

/-- Does the range hold every LB of a block? -/
def Mach.wholeBlock (m : Mach) (s k : Nat) : Bool :=
  decide (((List.range (entCount (m.cmd s).entry)).filter fun off => (m.cmdPage s off).any fun x => x.1 == k).length = 512)

/-- A TAINTALL block is cleared whole (R167): its frame goes by the owner table, its entries leave the poison list. -/
def Mach.wipeTainted (k : Nat) (m : Mach) : Mach :=
  let frames := (m.lamp.owner.filter fun o => o.2 == k).map (·.1)
  let m := m.updLamp fun l => { l with
    owner := l.owner.filter fun o => o.2 != k
    lost := l.lost.filter fun x => !frames.contains (x / 32768) }
  (m.putDesc k {}).dropPoison fun e => decide (pageDpa k 0 ≤ e.1 ∧ e.1 < pageDpa k 512)

/-- The write-back of a page begins: in one cycle DIRTY, and for a DOUSE LIT, is cleared and PENDW set. -/
def Mach.wbBegin (s k p : Nat) (m : Mach) : Mach :=
  let d := m.desc k
  (m.putDesc k { d with lit := if m.keeps s then d.lit else setBit d.lit p false, dirty := setBit d.dirty p false,
                        pendw := setBit d.pendw (p / 4) true }).setCmd s { m.cmd s with stage := .committed, copying := true }

/-- A page whose copy met a lost line. -/
def Mach.wbRestore (s off k p : Nat) (m : Mach) : Mach := ((m.wbUndo s k p).failLb s off St.writeFault).nextLb s

/-- A block that lost its descriptor under a copy: nothing of it is written back (R167). -/
def Mach.wbTainted (s off k p : Nat) (m : Mach) : Mach := ((m.wbClear s k p).failLb s off St.poisonedMu).nextLb s

/-- A copied LB goes to the mirror as a WRITE of its own (R388). -/
def Mach.wbMirror (s : Nat) (v : Vid) (lba : Nat) (d : Block) (m : Mach) : Mach :=
  if m.mirroring v then
    let (m, x) := m.twnXid (.cmd s)
    let m := m.setCmd s { m.cmd s with cover := (m.cmd s).cover ++ [.partner x] }
    (m.twnBegin 0x10 0 x 1 (beginWords v (m.volu v).fence lba 0)).twnData x 0 d
  else m

/-- The frame is copied into the write buffer as one LB of a WRITE, or waits for room. -/
def Mach.wbCopy (s off k p : Nat) (m : Mach) : Mach :=
  let c := m.cmd s
  let v := entVol c.entry
  let lba := entSlba c.entry + off
  match (m.desc k).frame with
  | none => (m.wbClear s k p).nextLb s
  | some f =>
    if m.pageLost f p then m.wbRestore s off k p
    else
      let m := m.makeRoom v lba
      if !m.mayAccept (entOpc c.entry) v lba then m.stall s
      else
        let d := m.framePage f p
        let (m, id) := m.acceptLb v lba d (m.posFor v 7) true false
        let m := (((m.wbClear s k p).markWritten v lba 1).noteVersion s id).wbMirror s v lba d
        (m.setCmd s { m.cmd s with done := (m.cmd s).done + 1 }).nextLb s

/-- One page, in LBA order. -/
def Mach.wbPage (s off k p : Nat) (m : Mach) : Mach :=
  let d := m.desc k
  let keep := m.keeps s
  if (m.cmd s).copying then if d.taintAll then m.wbTainted s off k p else m.wbCopy s off k p
  else if d.taintAll then
    if !keep && m.wholeBlock s k then ((m.wipeTainted k).commit s).nextLb s else (m.failLb s off St.poisonedMu).nextLb s
  else if d.lit.getLsbD p && d.dirty.getLsbD p then
    if (m.volu (entVol (m.cmd s).entry)).st == .readOnly then (m.failLb s off St.writeProtected).nextLb s
    else if (d.frame.any fun f => m.pageLost f p) then (m.failLb s off St.writeFault).nextLb s
    else (m.wbBegin s k p).wbCopy s off k p
  else if keep then m.nextLb s
  else if d.lit.getLsbD p then (((m.darken k p).frameCheck k).commit s).nextLb s
  else if d.dirty.getLsbD p then ((m.untaint k p).commit s).nextLb s
  else m.nextLb s

/-- Page after page, until the range is done or the copy of one waits. -/
def Mach.wbLoop (s : Nat) : Nat → Mach → Mach
  | 0, m => m
  | n + 1, m =>
    if (m.cmd s).stalled then m
    else match (m.cmd s).todo with
      | [] => m
      | off :: _ =>
        match m.cmdPage s off with
        | none => (m.nextLb s).wbLoop s n
        | some (k, p) => ((m.lntUpdate k false).wbPage s off k p).wbLoop s n

/-- Once every page is treated, the copies must become durable. -/
def Mach.wbWork (s : Nat) (m : Mach) : Mach :=
  let m := m.wbLoop s ((m.cmd s).todo.length)
  if (m.cmd s).todo.isEmpty then m.awaitDurable s else m

def Mach.wbStart (s : Nat) (m : Mach) : Mach :=
  if !m.cmdInRegion s then m.refuseCmd s St.invalidField
  else if m.wbSpent s then m.refuseCmd s St.keyExhausted
  else
    let m := if m.keeps s then m else m.dropTouches s
    (m.setCmd s { m.cmd s with stage := .running, todo := List.range (entCount (m.cmd s).entry) }).wbWork s

/-- A row of an admitted DOUSE or PERSIST: its start, its going on behind a copy that waited, or its wait for durability. -/
def Mach.wbRow (s o : Nat) (lost : List DramUser) (m : Mach) : Mach :=
  if m.fresh s o then (m.readLost s lost).wbStart s
  else if !m.working s o || (m.cmd s).stalled then m
  else if (m.cmd s).covering then (m.pushCovers s).settleCovers
  else (m.readLost s lost).wbWork s

def execDouse (slot : Fin 4096) (lost : List DramUser) (s : State) : Host.Outcome State Fault Refusal :=
  s.on (Mach.wbRow slot.val opDouse lost)

def execPersist (slot : Fin 4096) (lost : List DramUser) (s : State) : Host.Outcome State Fault Refusal :=
  s.on (Mach.wbRow slot.val opPersist lost)

end Sys2Proof.Machine
end

