-- ==== Sys2Proof/Machine/SvcOps.lean ====
section
/-! DEFINITION. Writes to staged registers (Table 00.3), and what management firmware does for SERVICE_ACTION as pages change state
(R41, R147, R399). -/

namespace Sys2Proof.Machine

/-! ### Staged registers -/

/-- One field of DRC_SPARE is written: 0 clears the mark and its pins, 1 to 5 mark a device (R311). -/
def Mach.spareField (d : Fin 4) (v sr : Nat) (m : Mach) : Mach :=
  let x := m.dram d
  let f := v / 16 ^ sr % 16
  if f = SMap.get 0 x.marked sr || 5 < f then m
  else m.setDram d { x with marked := SMap.set 0 x.marked sr f, pins := SMap.set 0 x.pins sr 0 }

/-- DRC_SPARE is written; the marks join the next DEFINITION record. -/
def Mach.writeSpare (d : Fin 4) (v : Word) (m : Mach) : Mach :=
  let m := m.each (List.range 4) fun sr m => m.spareField d v.toNat sr
  ((if m.dev.loaded then (m.ask (.definition {})).1 else m).touch (.drc d)).settleDev

/-- A staged register takes a value; RSVD fields stay 0 (R10). -/
def Mach.rsStore (key : Nat) (v : Word) (m : Mach) : Mach :=
  match rowAt key, pageAt key with
  | some r, some (.drc d) => if key % 0x1000 = Reg.DRC_SPARE then m.writeSpare d v else m.wr key (v &&& BitVec.ofNat 32 r.mask)
  | some r, _ => m.wr key (v &&& BitVec.ofNat 32 r.mask)
  | none, _ => m

/-- Does an offset of a page name a staged register? -/
def isStaged (p : Page) (off : Nat) : Bool :=
  decide (off < 0x1000) && (match rowAt (p.base + off) with
    | some r => r.acc == .rs
    | none => false)

/-! ### SERVICE_ACTION as it goes on -/

/-- A page is held stopped by a service action, or no longer. -/
def Mach.hold (p : Page) (h : Bool) (m : Mach) : Mach := (m.setHdr p { m.hdr p with held := h }).settleDev

/-- The registers of CHANGE are written in order. -/
def Mach.changeRegs (p : Page) (pairs : List (Nat × Word)) (m : Mach) : Mach := m.each pairs fun e m => m.rsStore (p.base + e.1) e.2

/-- Do the registers read as they were written? -/
def Mach.regsAre (m : Mach) (p : Page) (pairs : List (Nat × Word)) : Bool :=
  pairs.all fun e => m.rd (p.base + e.1) == ((m.changeRegs p pairs).rd (p.base + e.1))

/-- Management firmware finds a page in a new state, and the action goes on or ends (R41): a page that refused its settings, did not
train or faulted ends it with INVALID_FIELD. -/
def Mach.svcPoll (m : Mach) : Mach :=
  if !m.dev.fwRunning then m
  else match m.adm.bg with
    | none => m
    | some b =>
      match b.op with
      | .svcStop p =>
        match m.pageSt p with
        | .stopped => m.endBg St.success
        | .faulted => (m.hold p false).endBg St.invalidField
        | _ => m
      | .svcStart p _ =>
        match m.pageSt p with
        | .running => m.endBg St.success
        | .stopped => m.endBg St.invalidField
        | .faulted => (m.hold p false).endBg St.invalidField
        | _ => m
      | .svcStopChangeStart p pairs gen =>
        match m.pageSt p with
        | .stopped => if (m.hdr p).gen = gen then (m.changeRegs p pairs).startPage p else m.endBg St.invalidField
        | .running => m.endBg (if (m.hdr p).gen = gen + 1 || m.regsAre p pairs then St.success else St.invalidField)
        | .faulted => (m.hold p false).endBg St.invalidField
        | _ => m
      | _ => m

/-! ### Refusals that every action shares -/

/-- A PORT page is stopped, retrained and started only through the mailbox of the other port (R402). -/
def ownPort (p : Port) (pg : Page) : Bool := pg == .port p

/-- An action on a port that is unlocked starts in the background; a second one meets BACKGROUND_BUSY (R86, R147). -/
def Mach.service (p : Port) (op : BgOp) (f : Mach → Mach) (m : Mach) : Mach :=
  if m.adm.bg.isSome then m.refuse p St.backgroundBusy
  else if !(m.port.get p).unlocked then m.refuse p St.accessDenied
  else m.startBg p op 0xC071 f

end Sys2Proof.Machine
end

