-- ==== Sys2Proof/Machine/Startup.lean ====
section
/-! DEFINITION. Start-up, reset and shutdown: the rows from POWER_ON to PFAIL_N_RELEASE (chapters 03, 12, 22). -/

namespace Sys2Proof.Machine

/-! ### Power and the device resets -/

/-- PWRGD rises (R54, R364). -/
def Mach.powerOn (straps : BitVec 3) (m : Mach) : Mach :=
  let m := m.deviceReset true 0
  let m := m.updDev fun d => { d with pwrgd := true, mclk := false, qclk := false, aclk := false, twclk := false, fclk := 0 }
  let m := m.updAlm fun a => { a with pcc := stickWord a.pcc }
  let m := { m with tap := .idcode }
  (if m.dev.resetN then m.sampleStraps straps else m).bootGo

def execPowerOn (straps : BitVec 3) (s : State) : Host.Outcome State Fault Refusal := s.on (Mach.powerOn straps)

/-- PWRGD falls: as at power-off (R438). -/
def Mach.powerOff (m : Mach) : Mach :=
  if !m.dev.pwrgd then m
  else (m.deviceReset true 0).updDev fun d =>
    { d with pwrgd := false, mclk := false, qclk := false, aclk := false, twclk := false, fclk := 0 }

def execPwrgdFall (s : State) : Host.Outcome State Fault Refusal := s.on Mach.powerOff

/-- Both links go down: what the host sees at a reset, also one that is held (R57). -/
def Mach.linksDown (m : Mach) : Mach :=
  let down (p : Port) (m : Mach) : Mach :=
    if (m.port.get p).up then ((m.updPort p fun x => { x with up := false, inflight := 0 }).touch (.port p)).muteReqs p else m
  down .p1 (down .p0 m)

/-- Steps 1 and 2 of Table 12.6: the Almanac is BUFFERED, erases are suspended, queued flash operations are discarded. -/
def Mach.beginStop (m : Mach) : Mach :=
  let m := (m.updDev fun d => { d with pf := .ending }).updAlm fun a => { a with buffered := true }
  let m := m.each (List.finRange 32) Mach.suspendChan
  m.updFl fun f => { f with ops := f.ops.filter fun o => o.issued }

/-- A reset request takes effect: at once, or behind the write-out in capacitor-backed mode (R57). -/
def Mach.resetRequest (cause : Nat) (w : DumpFor) (m : Mach) : Mach :=
  if m.capMode then
    ((m.linksDown.beginStop).startDump w).updDev fun d => { d with resetHeld := true }
  else if cause = 1 then (m.deviceReset false 1).bootGo
  else m.restart cause

/-- RESET_N is low (R56): no effect while PWRGD is low, nor in the power-fail sequence; behind a write-out already running for a
reset, only the level changes. -/
def Mach.resetAssert (m : Mach) : Mach :=
  if !m.dev.resetN then m
  else
    let m := m.updDev fun d => { d with resetN := false }
    if !m.dev.pwrgd || m.dev.pf != .none then m else m.resetRequest 1 .resetPin

def execResetNAssert (s : State) : Host.Outcome State Fault Refusal := s.on Mach.resetAssert

/-- An instruction that needs RESET_N low becomes BYPASS (R447). -/
def TapIr.released (t : TapIr) : TapIr :=
  match t with
  | .extest => .bypass
  | .highz => .bypass
  | .clamp => .bypass
  | x => x

/-- RESET_N is high: the straps are sampled, and start-up begins while PWRGD is high. -/
def Mach.resetDeassert (straps : BitVec 3) (m : Mach) : Mach :=
  if m.dev.resetN then m
  else
    let m := { m.updDev (fun d => { d with resetN := true }) with tap := m.tap.released }
    if m.dev.pwrgd then (m.sampleStraps straps).bootGo else m

def execResetNDeassert (straps : BitVec 3) (s : State) : Host.Outcome State Fault Refusal := s.on (Mach.resetDeassert straps)

/-- An SMBus reset request that is valid where the target answers (R446, Table 22.8); otherwise NACK. -/
def Mach.smbusRequest (pecOk : Bool) (f : Mach → Mach) (m : Mach) : Mach :=
  if !m.smbusUp || !pecOk || m.dev.pf != .none then m.send .smbNack else f m

def execSmbusImmediateReset (pecOk : Bool) (s : State) : Host.Outcome State Fault Refusal :=
  s.on (Mach.smbusRequest pecOk (Mach.resetRequest 2 .smbReset))

/-- ORDERLY acts as IMMEDIATE where there is nothing to drain. -/
def Mach.orderlyRequest (m : Mach) : Mach := if m.ioUp then m.startShutdown true else m.resetRequest 2 .smbReset

def execSmbusOrderlyReset (pecOk : Bool) (s : State) : Host.Outcome State Fault Refusal :=
  s.on (Mach.smbusRequest pecOk Mach.orderlyRequest)

def Mach.smbusWindow (m : Mach) : Mach := if m.smbusUp then m.send (.smbus m.statusWindow) else m.send .smbNack

def execSmbusStatusWindow (s : State) : Host.Outcome State Fault Refusal := s.on Mach.smbusWindow

/-! ### The watchdog (R58, R59) -/

/-- What a restart of the management cores does to one packet FIFO. DESIGN CHOICE (log entry 160): a pending END mark stays, as it does
on an ABORT. -/
def Mach.pffRestart (n : Fin 8) (m : Mach) : Mach :=
  let m := if n == 1 || n == 3 || n == 7 then m.setFifo n { m.fifo n with opn := [], stalled := none } else m
  if m.pffCons n = 2 && (m.fifo n).partPopped then m.pffDrop n else m

/-- Background operations that management firmware carries out: a restart abandons them (Table 18.3). -/
def BgOp.byFirmware (b : BgOp) : Bool :=
  match b with
  | .activate _ => true
  | .svcStop _ => true
  | .svcStart .. => true
  | .svcStopChangeStart .. => true
  | .svcRetrain _ => true
  | .svcRetire _ => true
  | .volCreate _ => false
  | .volFormat _ => false
  | .volDelete _ => false
  | .keyRotate _ => false

def Mach.abandonBg (m : Mach) : Mach :=
  if m.adm.bg.any fun b => b.op.byFirmware then (m.updAdm fun a => { a with hitless := none }).endBg St.abortedByReset else m

/-- The mailbox command of a port that was in progress goes on unanswered; doorbells rung behind it stand. -/
def Mach.forgetMail (p : Port) (m : Mach) : Mach :=
  let bg := m.adm.bg
  let l := m.adm.mboxQ
  (m.dropMailbox p).updAdm fun a => { a with bg := bg, mboxQ := l }

/-- The watchdog's timeout passes. It is suspended from step 3 to step 5 of the hitless switch. -/
def Mach.watchdog (m : Mach) : Mach :=
  if !m.dev.fwRunning || m.rd Reg.DEV_WDOG == 0 || m.adm.hitless.any (·.2) then m
  else
    let m := m.updDev fun d => { d with fwRunning := false, checking := true, tried := [], cause := d.cause ||| bit32 4 }
    let m := (m.bump Reg.DEV_WDOG_CNT).devEvent .warn 0x0103 0 []
    let m := ((m.each (List.finRange 8) Mach.pffRestart).abandonBg.forgetMail .p0).forgetMail .p1
    m.each [Port.p0, Port.p1] fun p m => m.updPort p fun x => { x with unlocked := false, challenge := none }

def execWatchdogExpiry (s : State) : Host.Outcome State Fault Refusal := s.on Mach.watchdog

/-- DEV_WDOG: management firmware alone writes it (R9). -/
def Mach.wdogWrite (a : Agent) (v : Word) (m : Mach) : Mach :=
  if a != .mgmt then m.wdrop a else m.wr Reg.DEV_WDOG (v &&& 0xFFFF)

def execDevWdogWrite (a : Agent) (v : Word) (s : State) : Host.Outcome State Fault Refusal := s.on (Mach.wdogWrite a v)

/-! ### The steps of Table 03.3 -/

/-- Step 2 ends (R62). -/
def execFuseCheckDone (ok : Bool) (s : State) : Host.Outcome State Fault Refusal := s.on (Mach.fuseCheck ok)

def execSlotCheck (r : SlotRead) (s : State) : Host.Outcome State Fault Refusal := s.on (Mach.slotCheck r)

def execDramTrainingDone (d : Fin 4) (ok : Bool) (s : State) : Host.Outcome State Fault Refusal := s.on (Mach.dramTrained d ok)

def execFlashTrainingDone (c : Chan) (t : ChanTraining) (s : State) : Host.Outcome State Fault Refusal := s.on (Mach.flashTrained c t)

/-- DEV_BOOTCTL.GO; both ports and management firmware may write it (Table 03.8). -/
def execDevBootctlGo (_ : Agent) (s : State) : Host.Outcome State Fault Refusal := s.on Mach.bootctlGo

def execHeadlandLoadDone (unreadable : List Nat) (s : State) : Host.Outcome State Fault Refusal := s.on (Mach.headlandLoad unreadable)

def execReplayDone (unreadable : List Nat) (s : State) : Host.Outcome State Fault Refusal := s.on (Mach.replay unreadable)

/-- R66: a fresh erase of a block found ERASE_INTERRUPTED, through Q1 for a SYSTEM block and Q2 for any other. The training of the
start-up has reset every die, so no die holds the old erase any more. -/
def Mach.reerase (c : Chan) (r : Row) (b : Nat) (m : Mach) : Mach :=
  let d := dieOf c r.val
  let x := m.blk d b
  if !m.ioUp || m.dev.pf != .none || x.st != .eraseInterrupted || x.wpHeld || m.chanAway c then m
  else (m.putBlk d b { x with st := .erasing }).queueErase c r.val b (isSystem r.val b)

def execInterruptedEraseReerase (c : Chan) (r : Row) (b : Nat) (s : State) : Host.Outcome State Fault Refusal :=
  s.on (Mach.reerase c r b)

/-! ### Shutdown -/

/-- DEV_SHDN.REQ (R68). After FAILED nothing can be made durable, and PHASE reads FAILED. DESIGN CHOICE (log entry 161): in BOOT, where no
firmware runs that could carry the phases out, the write is ignored. -/
def Mach.shutdownRequest (m : Mach) : Mach :=
  if m.dev.st == .boot || m.dev.phase != .idle then m
  else if m.dev.st == .failed then m.updDev fun d => { d with phase := .failed }
  else m.startShutdown false

def execShutdownRequest (_ : Agent) (s : State) : Host.Outcome State Fault Refusal := s.on Mach.shutdownRequest

/-- The work of a phase ends; in the power-fail sequence no phase goes on (Table 03.7). -/
def execShutdownPhaseEnd (s : State) : Host.Outcome State Fault Refusal := s.on fun m => m.when (m.dev.pf == .none) Mach.phaseEnd

/-! ### Port resets and links (R71, R72, R76, R77, R99) -/

/-- The event is recorded in DEV_RST_CAUSE (R71). -/
def Mach.portCause (p : Port) (m : Mach) : Mach := m.updDev fun d => { d with cause := d.cause ||| bit32 (5 + p.num) }

def Mach.perstAssert (p : Port) (m : Mach) : Mach :=
  if (m.port.get p).perst then m
  else ((m.updPort p fun x => { x with perst := true, training := false }).portReset p).portCause p

def Mach.perstDeassert (p : Port) (m : Mach) : Mach :=
  if !(m.port.get p).perst then m else (m.updPort p fun x => { x with perst := false, training := true }).settleDev

def execPerstNDeassert (p : Port) (s : State) : Host.Outcome State Fault Refusal := s.on (Mach.perstDeassert p)

def Mach.hotReset (p : Port) (m : Mach) : Mach :=
  if (m.port.get p).perst || !(m.port.get p).up then m
  else ((m.updPort p fun x => { x with training := true }).portReset p).portCause p

/-- Can this link come up: PERST_N and the device's reset released, the port's domain powered, a width and a rate that R76 gives? -/
def Mach.canLink (m : Mach) (p : Port) (width speed : Nat) : Bool :=
  let x := m.port.get p
  !x.perst && !x.up && !((m.hdr (.port p)).held && m.pageSt (.port p) == .stopped &&
    !(m.adm.bg.any fun b => b.op == .svcRetrain (.port p))) && m.dev.pwrgd && m.dev.resetN && !m.dev.resetHeld && m.pageSt (.port p) != .off &&
    (width == 1 || width == 2 || width == 4 || width == 8) &&
    decide (1 ≤ speed ∧ speed ≤ bits (m.rdN (portReg p Reg.PORT_CFG)) 3 1)

def Mach.linkUp (p : Port) (width speed : Nat) (cxl rev : Bool) (m : Mach) : Mach :=
  if !m.canLink p width speed then m
  else
    let cxl := cxl && decide (3 ≤ speed)
    let m := m.updPort p fun x => { x with up := true, everUp := true, training := false, speed := speed, width := width, cxl := cxl,
                                           rev := rev }
    let m := (m.touch (.port p)).settleDev
    if cxl then m else m.devEvent .warn 0x0107 (BitVec.ofNat 64 p.num) []

/-- The link goes down; what the port holds stays until a port reset. -/
def Mach.linkDown (p : Port) (m : Mach) : Mach :=
  if !(m.port.get p).up then m
  else
    let m := m.updPort p fun x => { x with up := false, training := !x.perst, inflight := 0, speed := 0, width := 0, cxl := false,
                                           rev := false }
    ((m.bump (portReg p Reg.PORT_LINKDOWN)).muteReqs p).settleDev

def execLinkDown (p : Port) (s : State) : Host.Outcome State Fault Refusal := s.on (Mach.linkDown p)

/-! ### PFAIL_N (R299, Table 12.6) -/

/-- PFAIL_N is low: a switch of a power domain finishes first (R353), then steps 1 and 2. A write-out already running goes on. -/
def Mach.pfailAssert (m : Mach) : Mach :=
  let m := m.updDev fun d => { d with pfailN := false }
  if m.dev.pf != .none || !m.dev.pwrgd then m
  else (m.switchEnd.beginStop).devEvent .crit Config.pfailCode 0 []

def execPfailNAssert (s : State) : Host.Outcome State Fault Refusal := s.on Mach.pfailAssert

/-- PFAIL_N is high, and the sequence is over: the controller starts up as after RESET_N. -/
def Mach.pfRestart (m : Mach) : Mach :=
  if m.dev.pf == .over && m.dev.pfailN then m.restart 1 else m

/-- Step 3 is over: no program is on a die. Then the dump, or the Almanac's flush. -/
def Mach.programsEnd (m : Mach) : Mach :=
  if m.dev.pf != .ending || (m.fl.ops.any fun o => o.issued && o.kind.isProgram) then m
  else
    let m := m.updDev fun d => { d with pf := .writing }
    if m.dev.dump.isSome then m
    else if m.capMode then m.startDump .powerFail
    else m.pfFlush.pfRestart

def execProgramsInFlightEnd (s : State) : Host.Outcome State Fault Refusal := s.on Mach.programsEnd

/-- A dump ends. -/
def Mach.dumpEnd (complete : Bool) (m : Mach) : Mach :=
  if m.dev.dump.isNone || m.dev.pf == .ending || (m.fl.trip && complete) then m else ((m.writeDump complete).dumpOver).pfRestart

def execDumpEnd (complete : Bool) (s : State) : Host.Outcome State Fault Refusal := s.on (Mach.dumpEnd complete)

def execPfailNRelease (s : State) : Host.Outcome State Fault Refusal :=
  s.on fun m => (m.updDev fun d => { d with pfailN := true }).pfRestart

end Sys2Proof.Machine
end

