-- ==== Sys2Proof/Machine/Thermal.lean ====
section
/-! DEFINITION. Temperature, the Snuffer, the junction trip, power domains and PLLs (chapter 15): rows JUNCTION_TRIP,
JUNCTION_TRIP_CLEAR, THM_SAMPLE to PLL_LOSS_OF_LOCK, and PLL_LOCK. -/

namespace Sys2Proof.Machine

/-! ### Sampling (R343, R344) -/

/-- One conversion starts on each sensor of a mask that is not converting; those that start together end together. -/
def Mach.convert (mask : BitVec 16) (m : Mach) : Mach :=
  let m := m.updThm fun t => { t with batch := t.batch + 1 }
  (m.each ((List.range 16).filter fun i => mask.getLsbD i && !(m.sens i).busy) fun i m =>
    m.setSens i { m.sens i with busy := true, batch := m.thm.batch }).touch .thm

def Mach.thmSample (a : Agent) (mask : BitVec 16) (m : Mach) : Mach :=
  if m.pageSt .thm == .off then m.wdrop a else if m.running .thm then m.convert mask else m

def execThmSample (a : Agent) (mask : BitVec 16) (s : State) : Host.Outcome State Fault Refusal := s.on (Mach.thmSample a mask)

/-- The bin of a temperature in 1/16 °C (R134). -/
def tempBin (t : Int) : Nat := if t < 0 then 0 else min 15 (t / 128 + 1).toNat

/-- Dies whose temperature feature the thermal task reads (R182). -/
def Mach.warmDies (m : Mach) : Nat := (m.dies.filter fun e => e.2.tempFa != 0).length

/-- The thermal task's interval: all sensors, the Snuffer level, and at every 20th the dies. -/
def Mach.thermalTask (dies : List Int) (m : Mach) : Mach :=
  if !m.dev.fwRunning || m.adm.now.thermMs = 0 then m
  else
    let n := (m.thm.ticks + 1) % 20
    let m := m.updThm fun t => { t with ticks := n }
    let m := if m.running .thm then (m.convert 0xFFFF).updThm fun t => { t with task := 0xFFFF } else m
    let m := m.observe 0x04 (some m.thm.level) m.thm.level
    if n ≠ 0 then m
    else m.each (dies.take m.warmDies) fun t m => m.observe 0x02 (some (tempBin t)) (t / 16)

def execThermalTaskSample (dies : List Int) (s : State) : Host.Outcome State Fault Refusal := s.on (Mach.thermalTask dies)

/-! ### Rates and the Snuffer (R345, R346) -/

/-- Microseconds from a to b, modulo 2^48. -/
def since (a b : BitVec 48) : Nat := (b - a).toNat

/-- The rate of R345, truncated toward zero and clamped. -/
def riseRate (t tref : Int) (dt : Nat) : Int := max (-32768) (min 32767 (((t - tref) * 1000000).tdiv dt))

/-- The hold interval starts again. -/
def Mach.holdAgain (stamp : BitVec 48) (m : Mach) : Mach := m.updThm fun t => { t with holdFrom := stamp, intervals := 0 }

/-- A step up that falls into the same ACLK cycle as a step down does not happen (Table 15.1). -/
def Mach.undoUp (batch : Nat) (m : Mach) : Mach :=
  if m.thm.up == some batch then
    ((m.setLevel (m.thm.level - 1)).wr Reg.SNF_UPS (m.rd Reg.SNF_UPS - 1)).updThm fun t => { t with up := none }
  else m

/-- A rate above THM_RISEHI: one level down, once for all rates of a cycle. -/
def Mach.stepDown (stamp : BitVec 48) (batch : Nat) (m : Mach) : Mach :=
  if m.thm.down == some batch then m.holdAgain stamp
  else
    let m := m.undoUp batch
    if m.thm.level = 0 then (m.bump Reg.SNF_FLOORHIT).holdAgain stamp
    else (((m.setLevel (m.thm.level - 1)).bump Reg.SNF_DOWNS).updThm fun t => { t with down := some batch }).holdAgain stamp

/-- A rate acts on the Snuffer while the SNF page runs. -/
def Mach.snuff (rate : Int) (stamp : BitVec 48) (batch : Nat) (m : Mach) : Mach :=
  let l := m.thm.level
  if !m.running .snf then m
  else if (m.rdN Reg.THM_RISEHI : Int) < rate then m.stepDown stamp batch
  else if (m.rdN Reg.THM_RISELO : Int) < rate then m.holdAgain stamp
  else if 1000 * m.rdN Reg.SNF_HOLD ≤ since m.thm.holdFrom stamp ∧ 1 ≤ m.thm.intervals ∧ l < bits (m.rdN Reg.SNF_CEIL) 3 0 then
    (((m.setLevel (l + 1)).bump Reg.SNF_UPS).updThm fun t => { t with up := some batch }).holdAgain stamp
  else m.updThm fun t => { t with intervals := t.intervals + 1 }

/-- A result against the sensor's reference. -/
def Mach.thmRate (i : Nat) (t : Int) (stamp : BitVec 48) (m : Mach) : Mach :=
  let x := m.sens i
  match x.ref with
  | none => m.setSens i { x with ref := some (t, stamp) }
  | some (tr, sr) =>
    if since sr stamp < max 1 (m.rdN Reg.THM_MINDT) then m
    else
      let r := riseRate t tr (since sr stamp)
      (m.setSens i { x with ref := some (t, stamp), rate := r }).snuff r stamp x.batch

/-- A result as the register holds it: 12 signed bits. -/
def clampTemp (t : Int) : Int := max (-2048) (min 2047 t)

/-- A conversion ends. -/
def Mach.conversionEnd (i : Nat) (t : Int) (stamp : BitVec 48) (m : Mach) : Mach :=
  let x := m.sens i
  if !x.busy then m
  else
    let t := clampTemp t
    let m := (m.setSens i { x with busy := false, valid := true, temp := t, stamp := stamp }).updThm fun y => { y with now := stamp }
    let m := (m.observe (0x40 + i) none t).touch .thm
    let wait := m.thm.task &&& ~~~(BitVec.ofNat 16 (2 ^ i))
    let done := m.thm.task.getLsbD i && wait == 0
    let m := m.updThm fun y => { y with task := wait }
    let m := if done then
        match m.hottest with
        | some h => m.observe 0x01 (some (tempBin h)) (h / 16)
        | none => m
      else m
    m.thmRate i t stamp

def execConversionEnd (sensor : Fin 16) (t : Int) (stamp : BitVec 48) (s : State) : Host.Outcome State Fault Refusal :=
  s.on (Mach.conversionEnd sensor.val t stamp)

/-- SNF_CEIL: RL, and a value below the present level is one step down to it. -/
def Mach.snfCeil (a : Agent) (level : BitVec 4) (m : Mach) : Mach :=
  if m.pageSt .snf == .off then m.wdrop a
  else
    let m := m.wr Reg.SNF_CEIL (level.setWidth 32)
    if m.running .snf && decide (level.toNat < m.thm.level) then
      ((m.setLevel level.toNat).bump Reg.SNF_DOWNS).holdAgain m.thm.now
    else m

def execSnfCeilWrite (a : Agent) (level : BitVec 4) (s : State) : Host.Outcome State Fault Refusal := s.on (Mach.snfCeil a level)

/-! ### The junction trip (R348, Table 08.10) -/

def Mach.junctionTrip (m : Mach) : Mach :=
  if m.fl.trip then m
  else
    let m := (m.updFl fun f => { f with trip := true }).updThm fun t => { t with trip := true }
    let m := m.each (List.finRange 32) Mach.suspendChan
    let m := (m.bump Reg.THM_TRIPCNT).updAdm fun a => { a with health := { a.health with tripSeen := true } }
    m.raise .thm 17 0

def execJunctionTrip (s : State) : Host.Outcome State Fault Refusal := s.on Mach.junctionTrip

/-- The trip clears: the level falls to SNF_TRIPLVL, and in the power-fail sequence the Almanac's flush that waited runs. -/
def Mach.tripClear (m : Mach) : Mach :=
  if !m.fl.trip then m
  else
    let m := (m.updFl fun f => { f with trip := false }).updThm fun t => { t with trip := false }
    let l := bits (m.rdN Reg.SNF_TRIPLVL) 3 0
    let m := if !m.running .snf then m.updThm fun t => { t with tripPend := true }
      else if l < m.thm.level then ((m.setLevel l).bump Reg.SNF_DOWNS).holdAgain m.thm.now
      else m
    if m.dev.pf == .writing && m.dev.dump.isNone then m.pfFlush.pfRestart else m

def execJunctionTripClear (s : State) : Host.Outcome State Fault Refusal := s.on Mach.tripClear

/-! ### Power domains (R351 to R353, Table 18.2) -/

/-- Fixed domains (Table 15.2); an index beyond the table names none that can be switched. -/
def fixedDomain (d : Nat) : Bool := d == 0 || d == 2 || (decide (6 ≤ d) && decide (d ≤ 9)) || d == 11 || decide (49 ≤ d)

/-- A refusal: PWR_LASTERR and PG_ERR.BLK bit 16. -/
def Mach.domRefuse (d cause : Nat) (m : Mach) : Mach :=
  (m.set Reg.PWR_LASTERR (BitVec.ofNat 32 (cause + 4 * d))).raise .pwr 16 (BitVec.ofNat 64 d)

/-- May this agent write PWR_DOMCMD: management firmware, or an unlocked port? -/
def Mach.domMay (m : Mach) (a : Agent) : Bool :=
  match a.port with
  | none => true
  | some p => (m.port.get p).unlocked

/-- What a domain loses when it is switched off. -/
def Mach.domainLoses (d : Nat) (m : Mach) : Mach :=
  match d with
  | 1 => m.updKey fun k => { k with xport := none, lost := true }
  | 3 => m.portReset .p0
  | 4 => m.portReset .p1
  | 5 => m.partnerLost.updTwn fun t => { t with up := false }
  | 10 => m.updLamp fun l => { l with lnt := [], victim := 0, mode := .enabled, enPend := false }
  | 12 => m.each [0, 1, 2, 3, 4, 5, 7] fun p m => m.closePartial (Fin.ofNat 8 p)
  | 16 => m.updThm fun t => { t with sensor := [], task := 0, cycled := true }
  | _ =>
    if 17 ≤ d then
      let c : Chan := Fin.ofNat 32 (d - 17)
      m.setChn c { rate := (m.chn c).rate }
    else m

/-- CLEAR_FAULT initialises a block's internal state again: it holds what it would hold after its domain had been off (R353, Table 18.2),
while its RS registers stay (Table 02.7). What that is for a block of a fixed domain is DEDUCED in log entry 169. -/
def Mach.reinit (p : Page) (m : Mach) : Mach :=
  match p with
  | .port q => (m.portReset q).wr (portReg q Reg.PORT_CFG) (m.rd (portReg q Reg.PORT_CFG))
  | .lnt => m.lntEmpty.updLamp fun l => { l with victim := 0, mode := .disabled, enPend := false }
  | .lmp => m
  | .thm => m.updThm fun t => { t with sensor := t.sensor.map fun e => (e.1, { e.2 with busy := false, ref := none }), task := 0 }
  | .pff n => m.setFifo n {}
  | .ecc => m
  | .gln => m
  | .cip => m
  | .snf => m.updThm fun t => { t with cycled := true }
  | .key => m.domainLoses 1
  | .twn => m.domainLoses 5
  | .sow => m.domainLoses 12
  | .fch c => m.domainLoses (17 + c.val)
  | .alm => m
  | .dev => m
  | .pwr => m
  | .clk => m
  | .wpt => m
  | .qct => m
  | .dbl => m
  | .rlk => m
  | .map => m
  | .hdl => m
  | .drc _ => m
  | .drg => m

/-- CLEAR_FAULT: a FAULTED page goes to STOPPED, any other state refuses with CMDVIOL. -/
def Mach.clearFault (p : Page) (m : Mach) : Mach :=
  if m.pageSt p == .faulted then ((m.setPageSt p .stopped).reinit p).settleDev
  else if m.pageSt p == .off then m
  else m.raise p 1 0

/-- OFF: the checks of R352, then the pages are OFF at once. -/
def Mach.domOff (a : Agent) (d : Nat) (m : Mach) : Mach :=
  if !m.domMay a then m.wdrop a
  else if fixedDomain d then m.domRefuse d 1
  else if m.thm.switching.isSome then m.domRefuse d 2
  else if (domainPages d).any fun p => m.pageSt p != .stopped then m.domRefuse d 3
  else
    let m := m.each (domainPages d) fun p m => m.setPageSt p .off
    ((m.domainLoses d).updThm fun t => { t with switching := some (Fin.ofNat 64 d, false) }).touch .pwr

/-- ON. A domain that is on already is not switched. -/
def Mach.domOn (a : Agent) (d : Nat) (m : Mach) : Mach :=
  if !m.domMay a then m.wdrop a
  else if fixedDomain d then m.domRefuse d 1
  else if m.thm.switching.isSome then m.domRefuse d 2
  else if m.domainIsOn d then m
  else (m.updThm fun t => { t with switching := some (Fin.ofNat 64 d, true) }).touch .pwr

def execPowerDomainOn (a : Agent) (d : Fin 64) (s : State) : Host.Outcome State Fault Refusal := s.on (Mach.domOn a d.val)

def execDomainSwitchEnd (s : State) : Host.Outcome State Fault Refusal := s.on Mach.switchEnd

/-! ### PLLs (R359, R407) -/

/-- Set or clear a lock flag of CLK_LOCK. -/
def Mach.setLock (p : Pll) (on : Bool) (m : Mach) : Mach :=
  m.updDev fun d =>
    match p with
    | .mclk => { d with mclk := on }
    | .qclk => { d with qclk := on }
    | .aclk => { d with aclk := on }
    | .twclk => { d with twclk := on }
    | .fclk g => { d with fclk := setBit d.fclk g.val on }

/-- The pages that a PLL clocks (Table 02.6 and the channel groups of Table 19.1). -/
def pllPages (p : Pll) : List Page :=
  match p with
  | .mclk => allPages.filter fun x => (pageCaps x).2.2.2 == 0
  | .qclk => allPages.filter fun x => (pageCaps x).2.2.2 == 1
  | .aclk => allPages.filter fun x => (pageCaps x).2.2.2 == 3
  | .twclk => [.twn]
  | .fclk g => ((List.finRange 32).filter fun c => c.val / 4 == g.val).map Page.fch

/-- A PLL loses lock. MCLK, QCLK and ACLK fail the controller. -/
def Mach.pllLoss (p : Pll) (m : Mach) : Mach :=
  let m := (m.setLock p false).bump Reg.CLK_UNLOCK
  let m := match p with
    | .mclk => m.fail 7
    | .qclk => m.fail 7
    | .aclk => m.fail 7
    | _ => m
  m.each (pllPages p) fun x m => m.blockFault x false

/-- A PLL locks; with MCLK and ACLK locked, start-up step 1 can end. -/
def execPllLock (p : Pll) (s : State) : Host.Outcome State Fault Refusal := s.on fun m => (m.setLock p true).bootGo

end Sys2Proof.Machine
end

