-- ==== Sys2Proof/Machine/Pages.lean ====
section
/-! DEFINITION. The rows of the page states and of the packet FIFOs (chapter 02). -/

namespace Sys2Proof.Machine

def execPageStart (a : Agent) (p : Page) (s : State) : Host.Outcome State Fault Refusal := s.on (Mach.pageCmd a p Mach.startPage)

def execPageClearFault (a : Agent) (p : Page) (s : State) : Host.Outcome State Fault Refusal :=
  s.on (Mach.pageCmd a p Mach.clearFault)

def execPageStoppingEnd (p : Page) (s : State) : Host.Outcome State Fault Refusal := s.on fun m => (m.stoppingEnd p).svcPoll

/-! ### Packet FIFOs -/

/-- A write to a FIFO register that is /M: a port's is dropped, and so is one to a page that is OFF. -/
def Mach.pffBy (src : Source) (n : Fin 8) (f : Mach → Mach) (m : Mach) : Mach :=
  match src with
  | .block => if m.pageSt (.pff n) == .off then m else f m
  | .agent .mgmt => if m.pageSt (.pff n) == .off then m else f m
  | .agent a => m.wdrop a

def execPfPush (src : Source) (n : Fin 8) (w : Word) (frameOk : Bool) (s : State) : Host.Outcome State Fault Refusal :=
  s.on (Mach.pffBy src n (Mach.pffPush n w frameOk))

/-- PF_CTRL.END marks the next word pushed (R45). -/
def Mach.pffEnd (n : Fin 8) (m : Mach) : Mach := m.setFifo n { m.fifo n with endNext := true }

def execPfCtrlEnd (src : Source) (n : Fin 8) (s : State) : Host.Outcome State Fault Refusal := s.on (Mach.pffBy src n (Mach.pffEnd n))

def execPfCtrlAbort (src : Source) (n : Fin 8) (s : State) : Host.Outcome State Fault Refusal :=
  s.on (Mach.pffBy src n (Mach.pffAbort n))

/-- PF_CTRL.DROP is the consumer's (R47). DESIGN CHOICE (log entry 42): by an agent that PF_CONS does not name, or while the page is not
RUNNING, it does nothing. -/
def Mach.pffDropBy (a : Agent) (n : Fin 8) (m : Mach) : Mach :=
  if m.pageSt (.pff n) == .off then m.wdrop a
  else if m.pffCons n = a.num && m.running (.pff n) then m.pffDrop n
  else m

def execPfCtrlDrop (a : Agent) (n : Fin 8) (s : State) : Host.Outcome State Fault Refusal := s.on (Mach.pffDropBy a n)

/-- The addressed bytes of a word for an access of a width in bytes (R34). -/
def narrow (width : Nat) (w : Word) : BitVec 64 := (w.setWidth 64) &&& BitVec.ofNat 64 (2 ^ (8 * width) - 1)

/-- A read of PF_DATA pops the whole word whatever its width (R50). -/
def Mach.pffDataRead (a : Agent) (n : Fin 8) (width : Nat) (m : Mach) : Mach :=
  let r := m.pffRead a n
  r.1.send (.reg a width (narrow width r.2))

def execPfDataRead (a : Agent) (n : Fin 8) (width : Nat) (s : State) : Host.Outcome State Fault Refusal :=
  s.on (Mach.pffDataRead a n width)

/-- A stalled push completes; on PFF4 the transfers of the channels that waited go on too (R196). -/
def Mach.pffStallEnd (n : Fin 8) (m : Mach) : Mach :=
  let m := m.pffResume n
  if n.val = 4 then m.svcDrain else m

def execPfPushStallComplete (n : Fin 8) (s : State) : Host.Outcome State Fault Refusal := s.on (Mach.pffStallEnd n)

def execPacketVisible (n : Fin 8) (s : State) : Host.Outcome State Fault Refusal :=
  s.on fun m => (m.pffShow n).when (n == 3) Mach.ctlTaken

end Sys2Proof.Machine
end

