-- ==== Sys2Proof/Machine/Queues.lean ====
section
/-! DEFINITION. Queue pairs, doorbells, fetch and arbitration, queue deletion and ABORT (R101 to R106, R114 to R118, R124 to R127).
Admission is in Admission.lean. -/

namespace Sys2Proof.Machine

/-! ### Doorbells (R105, R129) -/

/-- Entries posted and not yet consumed. -/
def Qp.posted (x : Qp) : Nat := (x.cqTail + x.depth - x.cqHead) % max 1 x.depth

/-- A doorbell that is dropped. -/
def Mach.badDoorbell (a : Agent) (q : Fin 256) (cq : Bool) (m : Mach) : Mach :=
  let port := match a with | .p1 => 1 | _ => 0
  ((m.bump Reg.DBL_BADDB).wr Reg.DBL_LASTBAD (BitVec.ofNat 32 (q.val + (if cq then 256 else 0) + 512 * port))).setQp q
    { m.qp q with dbErr := true } |>.touch .qct

/-- DBL registers of a QID. -/
def tailReg (q : Fin 256) : Nat := 0xB100 + 8 * q.val
def headReg (q : Fin 256) : Nat := 0xB104 + 8 * q.val

def Mach.tailDoorbell (a : Agent) (q : Fin 256) (v : Word) (m : Mach) : Mach :=
  let x := m.qp q
  let t := v.toNat % 8192
  if m.pageSt .dbl == .off then m.wdrop a
  else if a.port == some x.port && x.st == .active && decide (t < x.depth) then
    ((m.setQp q { x with tail := t }).wr (tailReg q) (BitVec.ofNat 32 t)).touch .qct
  else m.badDoorbell a q false

def execSqTailDoorbell (a : Agent) (qid : Fin 256) (v : Word) (s : State) : Host.Outcome State Fault Refusal :=
  s.on (Mach.tailDoorbell a qid v)

/-- The new head lies within the entries posted and not yet consumed, counting from the old one. -/
def Qp.headOk (x : Qp) (h : Nat) : Bool := decide (h < x.depth ∧ (h + x.depth - x.cqHead) % max 1 x.depth ≤ x.posted)

def Mach.headDoorbell (a : Agent) (q : Fin 256) (v : Word) (m : Mach) : Mach :=
  let x := m.qp q
  let h := v.toNat % 8192
  if m.pageSt .dbl == .off then m.wdrop a
  else if a.port == some x.port && (x.st == .active || x.st == .deleting) && x.headOk h then
    ((m.setQp q { x with cqHead := h }).wr (headReg q) (BitVec.ofNat 32 h)).touch .qct
  else m.badDoorbell a q true

def execCqHeadDoorbell (a : Agent) (qid : Fin 256) (v : Word) (s : State) : Host.Outcome State Fault Refusal :=
  s.on (Mach.headDoorbell a qid v)

/-! ### Fetch and arbitration (R114, R115, R117) -/

/-- R117 is asked for a fetch only where the port may send the two reads of one that wraps (R78). -/
def Mach.fetchBudget (m : Mach) (p : Port) : Bool := decide (m.portReads p + 2 ≤ maxReads)

/-- Is anything fetched at all: no page of Table 02.8 stops it, the controller has not failed and is not viral, no shutdown and no
power-fail sequence or held reset is under way? -/
def Mach.fetching (m : Mach) : Bool :=
  m.running .qct && m.running .rlk && m.running .map && (List.finRange 4).all (fun d => m.running (.drc d)) && m.dev.st != .failed &&
    !m.viral && m.dev.phase == .idle && m.dev.pf == .none && !m.dev.resetHeld

/-- The port carries fetches: its link up, its page running, its function in D0. -/
def Mach.portFetches (m : Mach) (p : Port) : Bool :=
  (m.port.get p).up && !(m.port.get p).d3 && m.running (.port p)

def Qp.submitted (x : Qp) : Nat := (x.tail + x.depth - x.fetch) % max 1 x.depth

/-- Entries that R114 still allows. -/
def Qp.room (x : Qp) : Nat := x.depth - 1 - (x.inflight + x.posted)

def Mach.eligible (m : Mach) (q : Fin 256) : Bool :=
  let x := m.qp q
  x.st == .active && x.fetch != x.tail && decide (0 < x.room) && m.portFetches x.port && decide (0 < m.slotsFree (some x.port)) &&
    m.fetchBudget x.port

/-- The next eligible queue of a class behind the one served last. -/
def Mach.nextEligible (m : Mach) (c last : Nat) : Option (Fin 256) :=
  ((List.range 256).map fun i => Fin.ofNat 256 (last + 1 + i)).find? fun q => (m.qp q).cls == c && m.eligible q

/-- Take n slots for entries of a queue; their numbers in order. -/
def Mach.fetchSlots (q : Fin 256) : Nat → Nat → Mach → Mach × List Nat
  | 0, _, m => (m, [])
  | n + 1, i, m =>
    let x := m.qp q
    let r := m.takeSlot { qid := some q, port := some x.port, sqhd := (x.fetch + i + 1) % max 1 x.depth }
    let rest := r.1.fetchSlots q n (i + 1)
    (rest.1, r.2 :: rest.2)

/-- One fetch read. -/
def Mach.fetchRead (q : Fin 256) (group entry : Nat) (slots : List Nat) (m : Mach) : Mach :=
  if slots.isEmpty then m
  else
    let id := m.q.nextFetch
    (m.updQ fun t => { t with nextFetch := id + 1,
                              fetches := t.fetches ++ [{ id := id, group := group, qid := q, slots := slots, back := false }] }).send
      (.fetchRead (m.qp q).port id ((m.qp q).sqBase + 64 * entry) (64 * slots.length))

/-- issue_fetch: k entries from the fetch pointer on, split in two where they wrap. -/
def Mach.issueFetch (q : Fin 256) (k : Nat) (m : Mach) : Mach :=
  let x := m.qp q
  let (m, slots) := m.fetchSlots q k 0
  let m := m.setQp q { x with fetch := (x.fetch + k) % max 1 x.depth, inflight := x.inflight + k }
  let g := m.q.nextFetch
  let n := x.depth - x.fetch
  (m.fetchRead q g x.fetch (slots.take n)).fetchRead q g 0 (slots.drop n)

/-- W of QCT_ARB. -/
def Mach.arbWeights (m : Mach) : List Int :=
  let w := m.rdN Reg.QCT_ARB
  [(bits w 7 0 : Nat), (bits w 15 8 : Nat), (bits w 23 16 : Nat)]

def Mach.setCredit (l : List Int) (m : Mach) : Mach := m.updQ fun q => { q with credit := l }

/-- The arbiter's loop. -/
def Mach.arbStep : Nat → Mach → Mach
  | 0, m => m
  | n + 1, m =>
    let c := m.q.cur
    let cr := m.q.credit.getD c.val 0
    match (if 0 < cr then m.nextEligible c.val (m.q.rr.getD c.val 255) else none) with
    | some q =>
      let x := m.qp q
      let k := min (min (bits (m.rdN Reg.QCT_BURST) 3 0) x.submitted) (min x.room (m.slotsFree (some x.port)))
      (m.issueFetch q k).updQ fun t => { t with
        credit := t.credit.set c.val (cr - k)
        rr := t.rr.set c.val q.val
        cur := if cr - k ≤ 0 then c + 1 else c }
    | none =>
      let m := m.updQ fun t => { t with cur := c + 1 }
      (if c + 1 = 0 then m.setCredit m.arbWeights else m).arbStep n

def Mach.arbitrate (m : Mach) : Mach :=
  if !m.fetching then m
  else if (List.range 3).all fun c => (m.nextEligible c (m.q.rr.getD c 255)).isNone then m.setCredit m.arbWeights
  else (m.arbStep 3).touch .qct

/-- A fetch; data reads of earlier commands that waited for the port go first. -/
def execFetchArbitration (s : State) : Host.Outcome State Fault Refusal :=
  s.on fun m => ((m.moreReads .p0).moreReads .p1).arbitrate

/-! ### Fetch returns (R104, R117, R118) -/

/-- Store the entries of a read in their slots. -/
def Mach.storeEntries : List Nat → List Entry → Mach → Mach
  | s :: ss, e :: es, m => (m.setCmd s { m.cmd s with entry := e }).storeEntries ss es
  | _, _, m => m

/-- Every read of a group is back: its entries wait for admission, in SQ order. -/
def Mach.groupBack (g : Nat) (m : Mach) : Mach :=
  let mine := m.q.fetches.filter fun f => f.group == g
  if !mine.all fun f => f.back then m
  else
    let slots := mine.flatMap fun f => f.slots
    let m := m.each slots fun s m => m.setCmd s { m.cmd s with stage := .waiting }
    (m.updQ fun q => { q with fetches := q.fetches.filter fun f => f.group != g, adm := q.adm ++ slots }).bump64By Reg.QCT_FETCH_LO
      slots.length

def Mach.fetchReturn (id : Nat) (entries : List Entry) (m : Mach) : Mach :=
  match m.q.fetches.find? fun f => f.id == id && !f.back with
  | none => m
  | some f =>
    if !f.slots.isEmpty && entries.length != f.slots.length then m
    else
      let m := m.storeEntries f.slots entries
      let done (x : FetchRd) : FetchRd := if x.id == id then { x with back := true } else x
      (m.updQ fun q => { q with fetches := q.fetches.map done }).groupBack f.group

def execFetchReadReturn (id : Nat) (entries : List Entry) (s : State) : Host.Outcome State Fault Refusal :=
  s.on (Mach.fetchReturn id entries)

/-- The entries of some reads are discarded: their slots and the room held for them are free. -/
def Mach.discardFetches (p : FetchRd → Bool) (m : Mach) : Mach :=
  let gone := m.q.fetches.filter p
  let m := m.updQ fun q => { q with fetches := q.fetches.filter fun f => !p f }
  m.each gone fun f m =>
    let m := m.each f.slots Mach.freeSlot
    m.setQp f.qid { m.qp f.qid with inflight := (m.qp f.qid).inflight - f.slots.length }

/-- A read fails: the entries of every read of its group are discarded. Another read of the group that is still out brings nothing, and
where it fails too it is one more failed read. -/
def Mach.fetchFailure (id : Nat) (m : Mach) : Mach :=
  match m.q.fetches.find? fun f => f.id == id && !f.back with
  | none => m
  | some f =>
    let still := m.q.fetches.filter fun x => x.group == f.group && x.id != id && !x.back
    let m := m.discardFetches fun x => x.group == f.group
    let m := m.updQ fun q => { q with fetches := q.fetches ++ still.map fun x => { x with slots := [] } }
    let m := m.setQp f.qid { m.qp f.qid with st := .faulted }
    (m.bump Reg.QCT_FETCHERR).devEvent .warn 0x0108 (BitVec.ofNat 64 f.qid.val) []

def execFetchReadFailure (id : Nat) (s : State) : Host.Outcome State Fault Refusal := s.on (Mach.fetchFailure id)

/-! ### Creation and deletion (R103, R126, R127) -/

/-- Pairs of a port. -/
def Mach.pairsOf (m : Mach) (p : Port) : Nat := (m.q.qp.filter fun e => e.2.st != .absent && e.2.port == p).length

def Mach.queueCreate (p : Port) (q : Fin 256) (depth cls : Nat) (crc : Bool) (sq cq : Nat) (m : Mach) : Mach :=
  if (m.qp q).st != .absent || 128 ≤ m.pairsOf p || depth < 2 || 4096 < depth || cls % 4 == 3 || sq % 4096 != 0 || cq % 4096 != 0 then
    m.refuse p St.invalidField
  else
    ((m.setQp q { st := .active, port := p, cls := cls % 4, depth := depth, crc := crc, sqBase := sq, cqBase := cq }).touch .qct).ok p []

def execQueueCreate (p : Port) (len : Nat) (qid : Fin 256) (depth cls : Nat) (crc : Bool) (sqBase cqBase : Nat) (s : State) :
    Host.Outcome State Fault Refusal :=
  s.on (Mach.mail (.queueCreate p len qid depth cls crc sqBase cqBase) p len 24 false (Mach.queueCreate p qid depth cls crc sqBase cqBase))

/-- Steps 1 and 2 of R127. -/
def Mach.queueDelete (p : Port) (q : Fin 256) (m : Mach) : Mach :=
  let x := m.qp q
  if x.port != p || x.st == .absent || x.st == .deleting then m.refuse p St.invalidField
  else
    let m := (m.setQp q { x with st := .deleting, delBy := some p }).discardFetches fun f => f.qid == q
    (m.each (m.q.used.filter fun s => (m.cmd s).qid == some q && (m.cmd s).short) fun s m =>
      if (m.cmd s).qid == some q && (m.cmd s).short then m.cutShort s St.abortedQueueDeleted else m).touch .qct

def execQueueDelete (p : Port) (len : Nat) (qid : Fin 256) (s : State) : Host.Outcome State Fault Refusal :=
  s.on (Mach.mail (.queueDelete p len qid) p len 1 false (Mach.queueDelete p qid))

/-- Steps 3 and 4: the last completion has been handed to the port. -/
def Mach.deleteEnd (q : Fin 256) (m : Mach) : Mach :=
  let x := m.qp q
  if x.st != .deleting || m.q.used.any fun s => (m.cmd s).qid == some q then m
  else
    let m := (m.setQp q {}).touch .qct
    match x.delBy with
    | some p => m.ok p []
    | none => m

/-! ### ABORT (R124, R125) -/

/-- Firmware carries the request to the queue core. -/
def Mach.abortAsk (p : Port) (tag : BitVec 12) (m : Mach) : Mach := m.updQ fun q => { q with aborts := q.aborts ++ [(p, tag)] }

def execAbort (p : Port) (len : Nat) (tag : BitVec 12) (s : State) : Host.Outcome State Fault Refusal :=
  s.on (Mach.mail (.abort p len tag) p len 2 false (Mach.abortAsk p tag))

/-- The command of a port and tag that is in flight: one that has been validated before one that waits for it. -/
def Mach.abortTarget (m : Mach) (p : Port) (tag : BitVec 12) : Option Nat :=
  let l := m.q.used.filter fun s =>
    let c := m.cmd s
    c.kind == .host && c.port == some p && entTag c.entry == tag && c.stage != .fetching
  match l.find? fun s => (m.cmd s).stage != .waiting with
  | some s => some s
  | none => l.head?

/-- The decision of Table 05.7 for the oldest request. -/
def Mach.abortDecide (m : Mach) : Mach :=
  match m.q.aborts with
  | [] => m
  | (p, tag) :: r =>
    let m := m.updQ fun q => { q with aborts := r }
    match m.abortTarget p tag with
    | none => m.ok p (leBytes 4 2)
    | some s =>
      if (m.cmd s).short then (m.cutShort s St.abortedByRequest).ok p (leBytes 4 0)
      else m.ok p (leBytes 4 1)

end Sys2Proof.Machine
end

