-- ==== Sys2Proof/Machine/Regions.lean ====
section
/-! DEFINITION. LAMP_REGION_SET, touch lights, the automatic write-back and the Lantern's events (R148 to R150, R153, R159, R165,
R168 to R172). -/

namespace Sys2Proof.Machine

/-! ### LAMP_REGION_SET (Tables 07.1 and 07.2) -/

/-- Definitions on their way to durability, by region. -/
def Mach.pendingRegions (m : Mach) : List (Nat × Region) :=
  m.hdl.waiters.filterMap fun w => match w.2.2 with
    | .region _ k r => some (k, r)
    | .regionAlone k r => some (k, r)
    | _ => none

/-- What a region is, or is about to be. -/
def Mach.regionNow (m : Mach) (k : Nat) : Region := ((m.pendingRegions.filter fun e => e.1 == k).getLast?.map (·.2)).getD (m.region k)

/-- End of what is placed in DRAM: the pool, and descriptors placed behind it (R25, R153). DEDUCED (log entry 165): space that a DELETE
frees below it has been placed, and is not taken again before the next device reset. -/
def Mach.placedEnd (m : Mach) : Nat :=
  (((List.range 4).map m.region) ++ m.pendingRegions.map (·.2)).foldl (fun e r =>
    if r.defined then max e (r.desc + 192 * (r.size / 2 ^ 21)) else e) (m.lamp.poolBase + 2 ^ 21 * m.lamp.frames)

/-- Bytes of descriptors of the regions, with what the DEFINITION records asked for bring. -/
def Mach.descNow (m : Mach) : Nat := ((List.range 4).map fun k => 192 * ((m.regionNow k).size / 2 ^ 21)).sum

/-- Does an LBA range meet a region bound to the volume? -/
def Mach.regionMeets (m : Mach) (v : Vid) (base lbs : Nat) : Bool :=
  (List.range 4).any fun k =>
    let r := m.regionNow k
    r.defined && r.vol == v && overlaps base lbs r.base (r.size / 4096)

/-- The first condition of Table 07.2 for a DEFINE, behind the first row. -/
def Mach.defineRefusal (m : Mach) (k : Nat) (v : Vid) (base size : Nat) : Verdict :=
  let x := m.volu v
  firstOf [
    refuseIf (m.regionNow k).defined St.invalidField 0,
    refuseIf (base % 512 != 0 || size == 0 || size % 2 ^ 21 != 0 || decide (2 ^ 46 < size)) St.invalidField 0,
    refuseIf (x.st != .ready) St.volumeNotReady 0,
    refuseIf (decide (x.size < base + size / 4096)) St.lbaRange 0,
    refuseIf (m.regionMeets v base (size / 4096)) St.invalidField 0,
    refuseIf (x.mirrored && !x.owner) St.notOwner 0,
    refuseIf (decide (m.dramGib * 2 ^ 30 < m.placedEnd + 192 * (size / 2 ^ 21))) St.invalidField 0,
    refuseIf (!m.dramFits m.vol.entries (max m.adm.now.wbufGib m.adm.nxt.wbufGib) (m.descNow + 192 * (size / 2 ^ 21))) St.invalidField 0]

/-- DEFINE completes once its DEFINITION record and the root behind it are durable. -/
def Mach.define (p : Port) (k : Nat) (lot : Bool) (v : Vid) (base size : Nat) (m : Mach) : Mach :=
  match m.defineRefusal k v base size with
  | some r => m.refuse p r.1
  | none =>
    m.askDefinition (.region p k { defined := true, lot := lot, vol := v, base := base, size := size, desc := m.placedEnd })

def execDefine (p : Port) (len : Nat) (region : Fin 4) (lot : Bool) (vol : Vid) (base size : Nat) (s : State) :
    Host.Outcome State Fault Refusal :=
  s.on (Mach.mail (.define p len region lot vol base size) p len 24 false (Mach.define p region.val lot vol base size))

/-- A page of the region is neither DARK nor TAINTED. -/
def Mach.regionBusy (m : Mach) (k : Nat) : Bool :=
  m.lamp.desc.any fun e => e.1 / 2 ^ 26 == k && (List.range 512).any fun p =>
    let st := e.2.state p
    st != .dark && st != .tainted

def Mach.delete (p : Port) (k : Nat) (m : Mach) : Mach :=
  if !(m.regionNow k).defined || m.regionBusy k then m.refuse p St.invalidField else m.askDefinition (.region p k {})

def execDelete (p : Port) (len : Nat) (region : Fin 4) (s : State) : Host.Outcome State Fault Refusal :=
  s.on (Mach.mail (.delete p len region) p len 24 false (Mach.delete p region.val))

/-- SET_LOT completes at once; the next DEFINITION record holds it. -/
def Mach.setLot (p : Port) (k : Nat) (lot : Bool) (m : Mach) : Mach :=
  if (m.region k).defined then ((m.setRegion k { m.region k with lot := lot }).touch .lmp).ok p [] else m.refuse p St.invalidField

def execSetLot (p : Port) (len : Nat) (region : Fin 4) (lot : Bool) (s : State) : Host.Outcome State Fault Refusal :=
  s.on (Mach.mail (.setLot p len region lot) p len 24 false (Mach.setLot p region.val lot))

/-! ### Commands of neither port (R159, R165) -/

/-- A command of neither port may enter the range-lock table now. -/
def Mach.ownEntry (m : Mach) : Bool :=
  decide (0 < m.slotsFree none) && m.running .rlk && m.running .map && m.ioUp && m.dev.phase == .idle && m.dev.pf == .none

/-- Give it a slot and its place in the table. -/
def Mach.ownCommand (kind : CmdKind) (e : Entry) (todo : List Nat) (m : Mach) : Mach :=
  let r := m.takeSlot { kind := kind, entry := e, todo := todo }
  r.1.enterLock r.2

/-- The oldest queued touch light runs as a one-page LIGHT. -/
def Mach.touchRun (m : Mach) : Mach :=
  match m.lamp.touch with
  | [] => m
  | t :: ts =>
    if !m.ownEntry then m
    else
      let r := m.region (t.1 / 2 ^ 26)
      (m.updLamp fun l => { l with touch := ts }).ownCommand .touch (mkEntry opLight r.vol (r.base + 512 * (t.1 % 2 ^ 26) + t.2) 0) [0]

def execTouchLightRun (s : State) : Host.Outcome State Fault Refusal := s.on Mach.touchRun

/-- MUs of a block with a dirty lit page that no write-back is under way for. -/
def Mach.dirtyMus (m : Mach) (key : Nat) : List Nat :=
  let d := m.desc key
  let r := m.region (key / 2 ^ 26)
  let slba (mu : Nat) : Nat := r.base + 512 * (key % 2 ^ 26) + 4 * mu
  let taken (mu : Nat) : Bool := m.q.used.any fun s =>
    (m.cmd s).kind == .autowb && entVol (m.cmd s).entry == r.vol && entSlba (m.cmd s).entry == slba mu
  (List.range 128).filter fun mu =>
    !d.taintAll && !taken mu && (List.range 4).any fun i => d.lit.getLsbD (4 * mu + i) && d.dirty.getLsbD (4 * mu + i)

/-- The frames, from the one the scan stands at on. -/
def Mach.scanOrder (m : Mach) : List Nat := (List.range m.lamp.frames).map fun i => (m.lamp.scan + i) % max 1 m.lamp.frames

/-- The next MU that the scan finds: frame, block, MU. -/
def Mach.scanNext (m : Mach) : Option (Nat × Nat × Nat) :=
  m.scanOrder.findSome? fun f =>
    match m.lamp.owner.find? fun o => o.1 == f with
    | none => none
    | some o => (m.dirtyMus o.2).head?.map fun mu => (f, o.2, mu)

/-- While LMP_DIRTY is at or above LMP_AUTOWB, one MU at a time is written back as by PERSIST, under a range lock. -/
def Mach.autoWb (m : Mach) : Mach :=
  let n := m.rdN Reg.LMP_AUTOWB
  if n = 0 || m.dirtyLit < n || !m.running .lmp || !m.ownEntry then m
  else match m.scanNext with
    | none => m
    | some (f, key, mu) =>
      let r := m.region (key / 2 ^ 26)
      (m.updLamp fun l => { l with scan := f }).ownCommand .autowb (mkEntry opPersist r.vol (r.base + 512 * (key % 2 ^ 26) + 4 * mu) 3) []

def execAutoWriteback (s : State) : Host.Outcome State Fault Refusal := s.on Mach.autoWb

/-! ### The Lantern (R169 to R172) -/

def execLanternFetchReturn (e : MemErr) (s : State) : Host.Outcome State Fault Refusal := s.on (Mach.fetchBack e)

/-- A descriptor write-back completes. -/
def Mach.lntWritten (i : Nat) (m : Mach) : Mach :=
  let x := m.lnt i
  match x.st with
  | .evicting =>
    if x.redirty then
      ((m.setLnt i { x with st := .dirty, redirty := false }).updLamp fun l => { l with victim := m.lntNext i }).bump Reg.LNT_REDIRTY
    else (m.setLnt i { x with st := .invalid, tag := 0 }).touch .lnt
  | .dirty => if m.lamp.mode == .flushing then (m.setLnt i { x with st := .clean }).touch .lnt else m
  | _ => m

def execLanternWritebackDone (i : Fin 64) (s : State) : Host.Outcome State Fault Refusal := s.on (Mach.lntWritten i.val)

/-- An entry whose error count is 4 is OFF. -/
def Mach.lntOff (i : Nat) (m : Mach) : Mach :=
  let x := m.lnt i
  if 4 ≤ x.err && !x.off then (m.setLnt i { x with off := true, st := .invalid, redirty := false, tag := 0 }).touch .lnt else m

def execLanternEntryOff (i : Fin 64) (s : State) : Host.Outcome State Fault Refusal := s.on (Mach.lntOff i.val)

/-- What EN means to a Lantern whose page runs. -/
def Mach.lntEnable (en : Bool) (m : Mach) : Mach :=
  match en, m.lamp.mode with
  | false, .enabled => m.lntFlush
  | false, .flushing => m.updLamp fun l => { l with enPend := false }
  | true, .flushing => m.updLamp fun l => { l with enPend := true }
  | true, .disabled => (m.lntEmpty.updLamp fun l => { l with mode := .enabled }).touch .lnt
  | _, _ => m

def Mach.lntCtrl (a : Agent) (en : Bool) (m : Mach) : Mach :=
  if a != .mgmt || m.pageSt .lnt == .off then m.wdrop a
  else
    let m := m.wr Reg.LNT_CTRL (if en then 1 else 0)
    if m.running .lnt then m.lntEnable en else m

def execLntCtrlEnWrite (a : Agent) (en : Bool) (s : State) : Host.Outcome State Fault Refusal := s.on (Mach.lntCtrl a en)

def execLanternFlushEnd (s : State) : Host.Outcome State Fault Refusal :=
  s.on fun m => if m.lamp.mode == .flushing then m.lntDisabled else m

end Sys2Proof.Machine
end

