-- ==== Sys2Proof/Machine/TwinRx.lean ====
section
/-! DEFINITION. The twin link and the frames that the hardware consumes (R377 to R387, R389): its training and loss, heartbeats, the
sequence check, and mirrored transfers from either end. -/

namespace Sys2Proof.Machine

/-! ### The link -/

/-- The link has trained: width and rate as found, no better than TWN_CFG lets them be. -/
def Mach.twinUp (x4 rate16 : Bool) (m : Mach) : Mach :=
  let c := m.rd Reg.TWN_CFG
  if m.running .twn && c.getLsbD 0 then
    m.updTwn fun t => { t with up := true, x4 := x4 || c.getLsbD 2, rate16 := rate16 || c.getLsbD 1, crcRun := 0 }
  else m

def execTwinLinkUp (x4 rate16 : Bool) (s : State) : Host.Outcome State Fault Refusal := s.on (Mach.twinUp x4 rate16)

/-- The link carries frames. -/
def Mach.twinLive (m : Mach) : Bool := m.twn.up && m.running .twn

/-- Eight frames in a row have failed: alignment is lost and the link retrains (R378). -/
def Mach.alignmentLost (m : Mach) : Mach :=
  if m.twinLive && decide (8 ≤ m.twn.crcRun) then
    ((m.updTwn fun t => { t with crcRun := 0 }).bump Reg.TWN_RETRAIN).raise .twn 19 0
  else m

/-- NAK with the SEQ that is expected (R380). -/
def Mach.twnNak (m : Mach) : Mach := (m.updTwn fun t => { t with nakSent := true }).twnPlain 0x02 [m.twn.rxSeq]

/-- One frame fails its CRC. -/
def Mach.crcFailed (sequenced : Bool) (m : Mach) : Mach :=
  if !m.twinLive then m
  else ((m.updTwn fun t => { t with crcRun := t.crcRun + 1 }).bump Reg.TWN_CRCERR).when sequenced Mach.twnNak

def execTwinFrameCrcFailure (sequenced : Bool) (s : State) : Host.Outcome State Fault Refusal := s.on (Mach.crcFailed sequenced)

/-! ### Reception -/

/-- A frame whose CRC passed; its ACK counts whatever it is. -/
def Mach.rxPlain (h : FrameHdr) (f : Mach → Mach) (m : Mach) : Mach :=
  if m.twinLive then f ((m.updTwn fun t => { t with crcRun := 0 }).twnAcked h.ack) else m

/-- A sequenced frame of the partner: the next expected SEQ is accepted, a duplicate is acknowledged and discarded, and from a gap on
frames are discarded until the expected SEQ arrives. The ACK goes with the IDLE that follows. -/
def Mach.rxSeq (h : FrameHdr) (f : Mach → Mach) (m : Mach) : Mach :=
  m.rxPlain h fun m =>
    let e := m.twn.rxSeq
    if !m.twn.present then m
    else if h.seq % 65536 = e then
      f (((m.updTwn fun t => { t with rxSeq := (e + 1) % 65536, nakSent := false }).bump64 Reg.TWN_RXFR_LO).twnPlain 0 [])
    else if (e + 65536 - h.seq % 65536) % 65536 ≤ 32768 then m.twnPlain 0 []
    else if m.twn.nakSent then m
    else m.twnNak

/-- Room in PFF2 for the packet of one more CTRL frame. -/
def Mach.ctlRoom (m : Mach) : Bool := m.running (.pff 2) && decide (68 ≤ m.pffFree 2)

/-- Does management firmware take a CTRL frame as it comes? -/
def Mach.ctlReady (m : Mach) : Bool :=
  m.dev.fwRunning && m.twn.ctlIn.isEmpty && (m.fifo 2).vis.isEmpty && (m.fifo 2).hidden.isEmpty

/-- A CTRL frame comes to management firmware through PFF2 (R379): at once, or once firmware runs again. Without room there it is not
accepted, and comes again when the partner resends it (DESIGN CHOICE, log entry 20). -/
def Mach.rxCtl (i : Instr) (h : FrameHdr) (ws : List Nat) (f : Mach → Mach) (m : Mach) : Mach :=
  if !m.ctlRoom then m.rxPlain h id
  else m.rxSeq h fun m =>
    if m.ctlReady then f (m.fifoPass 2 (ctrlPacket h ws))
    else (m.setFifo 2 { m.fifo 2 with hidden := (m.fifo 2).hidden ++ [ctrlPacket h ws] }).updTwn fun t => { t with ctlIn := t.ctlIn ++ [i] }

def execIdle (h : FrameHdr) (s : State) : Host.Outcome State Fault Refusal := s.on (Mach.rxPlain h id)

/-- 20 bytes as five words, the first bytes lowest. -/
def serialWords (x : BitVec 160) : List Word := (List.range 5).map fun i => (x >>> (32 * i)).setWidth 32

/-- PG_ERR.BLK bit 17; its event names both serials, the expected one first (R382). -/
def Mach.serialMismatch (m : Mach) : Mach :=
  let m := (m.updTwn fun t => { t with mismatch := true }).errBit .twn 17
  if (m.hdr .twn).mask.getLsbD 17 then m
  else m.event .warn Page.twn.typeCode 17 Page.twn.inst 0 (serialWords m.twn.expected ++ serialWords m.twn.heard)

/-- TWN_RTT: the time since the stamp that comes back, in ns (R381). -/
def rttOf (now echo : Word) : Word := BitVec.ofNat 32 (min 65535 (now - echo).toNat)

/-- A HEARTBEAT: the round trip, who the partner is, and whether it is the expected one. -/
def Mach.heartbeatIn (serial : BitVec 160) (stamp echo now : Word) (m : Mach) : Mach :=
  let m := m.updTwn fun t => { t with heard := serial, lastStamp := stamp, rtt := rttOf now echo }
  if !m.twn.paired then m
  else if serial == m.twn.expected then m.partnerBack
  else m.partnerLost.serialMismatch

def execNak (h : FrameHdr) (seq : Nat) (s : State) : Host.Outcome State Fault Refusal := s.on (Mach.rxPlain h (Mach.twnResend seq))

/-! ### Time -/

def execHeartbeatInterval (now : Word) (s : State) : Host.Outcome State Fault Refusal :=
  s.on fun m => m.twnPlain 0x01 [m.adm.board.serial.toNat, now.toNat, m.twn.lastStamp.toNat]

/-- The oldest unacknowledged frame is 2 µs old: it and every one after it go again. -/
def Mach.resendAll (m : Mach) : Mach :=
  match m.twn.unacked with
  | [] => m
  | f :: _ => if m.twinLive then m.twnResend f.seq else m

/-- The owner of each mirrored volume sends DURABLE (R386). -/
def Mach.durables (m : Mach) : Mach :=
  m.each ((List.finRange 64).filter m.mirroring) fun v m => (m.sendDurable (fun rs => .durable v rs) v).1

def execDurableInterval (s : State) : Host.Outcome State Fault Refusal := s.on Mach.durables

/-! ### The mirror's side of a transfer (R385 to R387) -/

/-- What refuses a transfer: the fence epoch, then what would keep a local WRITE from running. -/
def Mach.mirrorRefusal (m : Mach) (v : Vid) (fence slba n : Nat) (write : Bool) : Option Nat :=
  let x := m.volu v
  if !x.mirrored then some St.writeFault
  else if x.owner || fence != x.fence then some St.notOwner
  else if !(m.blockOpen && x.serves && m.dev.phase == .idle && m.dev.pf == .none) || decide (x.size < slba + n) || m.buf.limit then
    some St.writeFault
  else if write && m.gln.level == .exhausted then some St.noSpace
  else match m.keyCheck x opWrite with
    | some (e, _) => some (if e = St.keyExhausted then e else St.writeFault)
    | none => none

/-- Add to what the mirror has still to accept. -/
def Mach.rxPut (x : RxXfer) (m : Mach) : Mach := m.updTwn fun t => { t with rx := t.rx ++ [x] }

/-- The answer waits for durability, and what it waits for is pushed (R386). -/
def Mach.rxAwait (x : RxXfer) (ids : List Nat) (more : List Cover) (m : Mach) : Mach :=
  let r := m.verCovers (ids.filter fun id => (m.ver id).isSome)
  let w : RxWait := { xid := x.xid, vol := x.vol, cover := if r.2 then [] else r.1 ++ more,
                      status := if r.2 then St.writeFault else St.success }
  let m := (m.updTwn fun t => { t with rxWait := t.rxWait ++ [w] }).pushVers (if r.2 then [] else ids)
  let m := m.each w.cover fun c m => match c with
    | .stripe f p _ => m.askProvpar f p
    | _ => m
  m.settleCovers

/-- Every LB of a transfer is in the buffer: it is answered, with FLAGS.FUA once they are durable. A DURABLE is answered once all that
was received for its volume is. -/
def Mach.rxEnd (x : RxXfer) (m : Mach) : Mach :=
  let m := (m.updTwn fun t => { t with rx := t.rx.drop 1 }).markCovered x.vers
  if x.ask then
    m.rxAwait x ((m.buf.vers.filter fun y => y.vol == x.vol).map (·.id))
      (((m.buf.unprot.filter fun u => u.vol == x.vol).map fun u => Cover.stripe u.fsn u.page u.ch) ++
        (m.openDeallocs x.vol).map Cover.record)
  else if x.fua then m.rxAwait x x.vers (m.stripesOf x.vers)
  else m.twnWack x.xid x.vol St.success

/-- The transfer at the head goes one step on, if it can: the MUs of a DEALLOC, one LB into the buffer, or its end. -/
def Mach.rxStep (m : Mach) : Mach × Bool :=
  match m.twn.rx with
  | [] => (m, false)
  | x :: rest =>
    let put (y : RxXfer) (m : Mach) : Mach := m.updTwn fun t => { t with rx := y :: rest }
    if x.hole ≠ 0 then (put { x with hole := 0 } (m.deallocMus x.vol x.slba x.hole), true)
    else match x.todo with
      | [] => (m.rxEnd x, true)
      | off :: offs =>
        let lba := x.slba + off
        if x.whole ≤ off then (m, false)
        else
          let m := m.makeRoom x.vol lba
          if !m.mayAccept (if x.zeros then opDealloc else opWrite) x.vol lba then (m, false)
          else
            let r := m.acceptLb x.vol lba (SMap.get 0 x.data off) (m.posFor x.vol 0) false x.zeros
            (put { x with todo := offs, data := SMap.del x.data off, vers := insertNat r.2 x.vers } r.1, true)

def Mach.rxSteps : Nat → Mach → Mach
  | 0, m => m
  | n + 1, m =>
    let r := m.rxStep
    if r.2 then r.1.rxSteps n else r.1

/-- Transfers are applied in SEQ order, as far as data and room go. -/
def Mach.rxDrain (m : Mach) : Mach := m.rxSteps ((m.twn.rx.map fun x => x.todo.length + 2).sum)

/-- A transfer begins: a FENCE above E is adopted, and refuses it all the same (Table 17.8). -/
def Mach.rxBegin (v : Vid) (fence n : Nat) (write : Bool) (x : RxXfer) (m : Mach) : Mach :=
  let y := m.volu v
  let m := if y.mirrored && decide (y.fence < fence) then m.learnEpoch v fence .resyncing else m
  match m.mirrorRefusal v fence x.slba n write with
  | some e => (m.when (y.mirrored && fence != y.fence) (Mach.fenceRefused v)).twnWack x.xid v e
  | none => (m.rxPut x).rxDrain

def execWbegin (h : FrameHdr) (vol : Vid) (fence slba nlb : Nat) (fua _resync : Bool) (s : State) : Host.Outcome State Fault Refusal :=
  s.on (Mach.rxSeq h (Mach.rxBegin vol fence (nlb + 1) true
    { xid := h.xid, vol := vol, slba := slba, ask := false, fua := fua, zeros := false, hole := 0, data := [], whole := 0,
      todo := List.range (nlb + 1), vers := [] }))

/-- Part of the next LB of a transfer; where its transfer was refused it is discarded. -/
def Mach.wdataIn (xid idx : Nat) (d : BitVec 2048) (m : Mach) : Mach :=
  let off := idx / 16
  let add (x : RxXfer) : RxXfer :=
    if x.xid == xid && !x.ask && !x.zeros && x.whole == off then
      { x with data := SMap.put x.data off (SMap.get 0 x.data off ||| (d.setWidth 32768 <<< (2048 * (idx % 16))))
               whole := if idx % 16 = 15 then off + 1 else off }
    else x
  (m.updTwn fun t => { t with rx := t.rx.map add }).rxDrain

def execWdata (h : FrameHdr) (idx : Nat) (d : BitVec 2048) (s : State) : Host.Outcome State Fault Refusal :=
  s.on (Mach.rxSeq h (Mach.wdataIn h.xid idx d))

def execTwinDealloc (h : FrameHdr) (vol : Vid) (fence slba nlb : Nat) (s : State) : Host.Outcome State Fault Refusal :=
  s.on (Mach.rxSeq h (Mach.rxBegin vol fence (nlb + 1) false
    { xid := h.xid, vol := vol, slba := slba, ask := false, fua := false, zeros := true, hole := nlb + 1, data := [], whole := nlb + 1,
      todo := partialLbs slba (nlb + 1), vers := [] }))

def execDurable (h : FrameHdr) (vol : Vid) (s : State) : Host.Outcome State Fault Refusal :=
  s.on (Mach.rxSeq h fun m => (m.rxPut
    { xid := h.xid, vol := vol, slba := 0, ask := true, fua := false, zeros := false, hole := 0, data := [], whole := 0, todo := [],
      vers := [] }).rxDrain)

/-! ### The owner's side: WACK (R385 to R389, R392) -/

/-- Regions of a refused transfer become dirty: the resync goes over them again. -/
def Mach.refusedRegions (v : Vid) (regs : List Nat) (m : Mach) : Mach :=
  let m := m.markDirty v regs
  let x := m.rs v
  let again := regs.filter fun r => x.walked.contains r || decide (x.next / 32 = r ∧ x.next % 32 ≠ 0)
  let m := m.setRs v { x with bad := unionNat again x.bad }
  if (m.volu v).twin == .inSync && (m.volu v).owner then (m.setVol v { m.volu v with twin := .resyncing }).sendVolstate v else m

/-- Does something of a region wait to be sent or answered? -/
def Mach.regionOpen (m : Mach) (v : Vid) (r : Nat) : Bool :=
  m.twn.tx.any (fun e => e.2 == .resync v r) || (m.pieceSlots v).any fun s => entSlba (m.cmd s).entry / 16384 == r

/-- Regions whose pieces have all been answered are clean, save those that another pass must cover. With none dirty both sides are
IN_SYNC. -/
def Mach.resyncCheck (v : Vid) (m : Mach) : Mach :=
  let x := m.rs v
  let gone := x.walked.filter fun r => !m.regionOpen v r
  let clean := gone.filter fun r => !x.bad.contains r
  let m := m.setRs v { x with walked := x.walked.filter (fun r => !gone.contains r), bad := x.bad.filter fun r => !gone.contains r }
  let y := m.volu v
  let m := m.setVol v { y with dirty := y.dirty.filter fun r => !clean.contains r }
  if m.mirroring v && y.twin == .resyncing && (m.volu v).dirty.isEmpty then (m.inSync v).settleDev else m

/-- A slot no longer waits for a transfer; a refusal is the command's status. -/
def Mach.slotAnswered (s x status : Nat) (m : Mach) : Mach :=
  let c := m.cmd s
  m.setCmd s { c with
    xid := if c.xid == some x then none else c.xid
    partnerStatus := if c.partnerStatus = 0 then status else c.partnerStatus
    cover := c.cover.filter (· != Cover.partner x) }

/-- The volume a transfer was of. -/
def Mach.txVol (m : Mach) (w : TxFor) : Vid :=
  match w with
  | .cmd s => entVol (m.cmd s).entry
  | .resync v _ => v
  | .copy v _ => v
  | .flush _ v _ => v
  | .durable v _ => v

/-- What an answer means, by what the transfer was for. -/
def Mach.txAnswered (w : TxFor) (x status : Nat) (m : Mach) : Mach :=
  match w with
  | .cmd s =>
    let c := m.cmd s
    let m := m.slotAnswered s x status
    if status = 0 then m else m.refusedRegions (entVol c.entry) (regionsOf (entSlba c.entry) (entCount c.entry))
  | .flush s v regs =>
    let m := m.slotAnswered s x status
    if status = 0 then m else m.refusedRegions v regs
  | .durable v regs => if status = 0 then m else m.refusedRegions v regs
  | .copy v r => if status = 0 then m else m.refusedRegions v [r]
  | .resync v r => if status = 0 then m else m.setRs v { m.rs v with bad := insertNat r (m.rs v).bad }

/-- A WACK. An EPOCH above E is learnt (R383). -/
def Mach.wackIn (x status epoch : Nat) (m : Mach) : Mach :=
  match m.twn.tx.find? fun e => e.1 == x with
  | none => m
  | some e =>
    let v := m.txVol e.2
    let m := (m.updTwn fun t => { t with tx := SMap.del t.tx x }).txAnswered e.2 x status
    let m := if (m.volu v).mirrored && decide ((m.volu v).fence < epoch) then m.learnEpoch v epoch .resyncing else m
    (m.settleCovers.resyncCheck v).takeAckCheck v

def execWack (h : FrameHdr) (status : BitVec 16) (epoch : Nat) (s : State) : Host.Outcome State Fault Refusal :=
  s.on (Mach.rxSeq h (Mach.wackIn h.xid status.toNat epoch))

end Sys2Proof.Machine
end

