-- ==== Sys2Proof/Machine/TwinCtrl.lean ====
section
/-! DEFINITION. The CTRL frames (Table 17.3), the planned handover (Table 17.6), the rejoin (R391) and the resync (R392). -/

namespace Sys2Proof.Machine

/-! ### Rejoin (R391) -/

/-- The owner resynchronises: over the union of the two dirty maps, or over the whole volume when either is invalid. -/
def Mach.startResync (v : Vid) (theirs : Bool) (m : Mach) : Mach :=
  let x := m.volu v
  let m := (m.dropPieces v).setVol v { x with
    twin := .resyncing
    dirty := if x.mapValid && theirs then unionNat x.unconf x.dirty else x.regions
    unconf := [] }
  (m.resyncCheck v).settleDev

/-- The other side holds the volume mirrored, at the same epoch. -/
def Mach.equalEpoch (v : Vid) (owner mapValid : Bool) (state : Nat) (m : Mach) : Mach :=
  let x := m.volu v
  if x.owner && owner then (m.notOwnerCut v).pendEpoch v x.fence false .stale
  else if x.owner then if x.twin == .inSync && x.mapValid && mapValid then m else m.startResync v mapValid
  else if owner then
    let m := m.setVol v (if state = 1 then { x with twin := .inSync, dirty := [], mapValid := true } else { x with twin := .resyncing })
    if x.mapValid && x.twin != .resyncing && state != 1 then m.sendRsmap v else m
  else if x.twin == .stale then m
  else (m.setVol v { x with twin := .stale }).sendVolstate v

/-- The other side holds the volume, but not mirrored: where it is ABSENT there the owner has it created; else this copy stands alone. -/
def Mach.notThere (v : Vid) (size : Nat) (m : Mach) : Mach :=
  let x := m.volu v
  if size = 0 && x.owner then
    (m.startResync v false).twnCtrl 2 v x.pkeySlot x.fence 0 x.size (layoutBits x.layout1 x.enc)
  else
    let m := m.updTwn fun t => { t with lone := if t.lone.contains v then t.lone else t.lone ++ [v] }
    if x.owner then m else m.setVol v { x with twin := .stale }

/-- A VOLSTATE. The higher epoch is authoritative; the other side adopts it. -/
def Mach.volstateIn (v : Vid) (fence : Nat) (mirrored owner mapValid : Bool) (state size : Nat) (m : Mach) : Mach :=
  let x := m.volu v
  if !x.mirrored then m.when mirrored (Mach.sendVolstate v)
  else if !mirrored then m.notThere v size
  else
    let m := m.updTwn fun t => { t with lone := t.lone.filter (· != v) }
    if x.fence < fence then (m.when x.mapValid (Mach.sendRsmap v)).learnEpoch v fence (if owner then .resyncing else .stale)
    else if fence < x.fence then if x.owner then m else m.setVol v { x with twin := .stale }
    else m.equalEpoch v owner mapValid state

def execVolstate (h : FrameHdr) (vol : Vid) (fence : Nat) (mirrored owner mapValid : Bool) (state : Fin 32) (size : Nat) (s : State) :
    Host.Outcome State Fault Refusal :=
  s.on (Mach.rxCtl (.volstate h vol fence mirrored owner mapValid state size) h
    [1, vol.val, 0, fence, (if mirrored then 1 else 0) + (if owner then 2 else 0) + (if mapValid then 4 else 0) + 8 * state.val, size, 0]
    (Mach.volstateIn vol fence mirrored owner mapValid state.val size))

/-- Part of the stale side's dirty map joins the owner's. -/
def Mach.rsmapIn (v : Vid) (first : Nat) (dirty : List Nat) (m : Mach) : Mach :=
  let x := m.volu v
  let regs := (dirty.map (first + ·)).filter fun r => decide (r < x.regions.length)
  if x.mirrored && x.owner && !regs.isEmpty then m.refusedRegions v regs else m

def execRsmap (h : FrameHdr) (vol : Vid) (first : Nat) (dirty : List Nat) (s : State) : Host.Outcome State Fault Refusal :=
  s.on (Mach.rxCtl (.rsmap h vol first dirty) h ([8, vol.val, first] ++ dirty) (Mach.rsmapIn vol first dirty))

/-! ### What the partner asks for (R393) -/

/-- RESULT at once. -/
def Mach.twnAnswer (v : Vid) (status : Nat) (m : Mach) : Mach := m.twnCtrl 3 v status (m.volu v).fence 0 0 0

/-- A volume command on the partner's behalf: RESULT follows at its end. -/
def Mach.forPartner (v : Vid) (x : Vol) (m : Mach) : Mach :=
  let m := (m.updTwn fun t => { t with owed := t.owed ++ [v] }).volBegin v x
  m.setVol v { m.volu v with internal := true }

/-- The refusal that every such command meets first. -/
def Mach.partnerGated (m : Mach) : Option Nat := if m.mailGated || !m.dev.loaded then some St.volumeNotReady else none

/-- CREATE: the copy becomes a mirror in RESYNCING. -/
def Mach.createIn (v : Vid) (fence : Nat) (x : VolArgs) (m : Mach) : Mach :=
  match m.partnerGated.orElse fun _ => m.createRefusal x with
  | some e => m.twnAnswer v e
  | none =>
    m.forPartner v { size := x.size, chunks := m.takeChunks x.size, op := some .create, newLayout1 := x.layout1, newEnc := x.enc,
                     newKey := x.keySlot % 1024, fence := fence, mirrored := true, twin := .resyncing }

/-- What a CREATE frame asks for. -/
def createArgs (vol : Vid) (keySlot size : Nat) (layout1 enc : Bool) : VolArgs :=
  { vol := vol, layout1 := layout1, enc := enc, keySlot := keySlot, size := size }

def execCtrlCreate (h : FrameHdr) (vol : Vid) (keySlot fence size : Nat) (layout1 enc : Bool) (s : State) :
    Host.Outcome State Fault Refusal :=
  s.on (Mach.rxCtl (.ctrlCreate h vol keySlot fence size layout1 enc) h [2, vol.val, keySlot, fence, 0, size, layoutBits layout1 enc]
    (Mach.createIn vol fence (createArgs vol keySlot size layout1 enc)))

/-- What refuses a FORMAT or DELETE of the owner's here. -/
def Mach.repeatRefusal (m : Mach) (v : Vid) : Option Nat :=
  let x := m.volu v
  m.partnerGated.orElse fun _ =>
    if !x.mirrored || x.st == .absent || x.st == .formatting then some St.invalidField
    else if x.owner then some St.notOwner
    else none

def Mach.formatIn (v : Vid) (x : VolArgs) (m : Mach) : Mach :=
  match (m.repeatRefusal v).orElse fun _ => m.volKeyRefusal x with
  | some e => m.twnAnswer v e
  | none => m.forPartner v { m.volu v with op := some .format, newLayout1 := x.layout1, newEnc := x.enc, newKey := x.keySlot % 1024 }

def execCtrlFormat (h : FrameHdr) (vol : Vid) (layout1 enc : Bool) (keySlot : Nat) (s : State) : Host.Outcome State Fault Refusal :=
  s.on (Mach.rxCtl (.ctrlFormat h vol layout1 enc keySlot) h [6, vol.val, keySlot, 0, 0, 0, layoutBits layout1 enc]
    (Mach.formatIn vol (createArgs vol keySlot 0 layout1 enc)))

/-- The copy is deleted as VOLUME_DELETE does. -/
def Mach.deleteHere (v : Vid) (x : Vol) (m : Mach) : Mach :=
  m.forPartner v { x with op := some .delete, newLayout1 := x.layout1, newEnc := false, newKey := 0 }

def Mach.deleteIn (v : Vid) (m : Mach) : Mach :=
  match m.repeatRefusal v with
  | some e => m.twnAnswer v e
  | none => m.deleteHere v (m.volu v)

def execCtrlDelete (h : FrameHdr) (vol : Vid) (s : State) : Host.Outcome State Fault Refusal :=
  s.on (Mach.rxCtl (.ctrlDelete h vol) h [7, vol.val] (Mach.deleteIn vol))

/-- UNMIRROR: the copy is no longer mirrored, and is deleted. -/
def Mach.unmirrorIn (v : Vid) (m : Mach) : Mach :=
  match m.repeatRefusal v with
  | some e => m.twnAnswer v e
  | none => m.deleteHere v { m.volu v with mirrored := false, owner := false, twin := .none, dirty := [], unconf := [] }

def execCtrlUnmirror (h : FrameHdr) (vol : Vid) (s : State) : Host.Outcome State Fault Refusal :=
  s.on (Mach.rxCtl (.ctrlUnmirror h vol) h [9, vol.val] (Mach.unmirrorIn vol))

/-! ### RESULT -/

/-- MIRROR has the partner's copy: this controller is owner, and both sides are RESYNCING over the whole volume. -/
def Vol.asOwner (v : Vol) (pkeySlot : Nat) : Vol :=
  { v with mirrored := true, owner := true, twin := .resyncing, pkeySlot := pkeySlot, mapValid := false, unconf := [], dirty := v.regions }

/-- The volume is mirrored no longer. -/
def Vol.unmirrored (v : Vol) : Vol :=
  { v with mirrored := false, owner := false, twin := .none, pkeySlot := 0, mapValid := false, unconf := [], dirty := [] }

/-- The operation that waits ends with the partner's status. -/
def Mach.resultFor (w : TwinWait) (status : Nat) (m : Mach) : Mach :=
  let x := m.volu w.vol
  let m := m.twnUnwait w
  if w.op = 6 ∨ w.op = 7 then
    if status = 0 && x.op.isSome then m
    else (m.setVol w.vol { x with internal := x.op.isSome }).endBg status
  else if status ≠ 0 then (m.when (w.op = 4) fun m => m.setVol w.vol { x with twin := w.was }) |> w.reply fun p m => m.refuse p status
  else if w.op = 1 then ((((m.setVol w.vol (x.asOwner w.arg)).ask (.definition {})).1.settleDev) |> w.reply fun p m => m.ok p [])
  else ((((m.dropPieces w.vol).setVol w.vol x.unmirrored).ask (.definition {})).1.settleDev) |> w.reply fun p m => m.ok p []

/-- A RESULT is for the operation of the volume that waits; a takeover is completed by TAKE_ACK, not by a RESULT of SUCCESS. -/
def Mach.resultIn (v : Vid) (status : Nat) (m : Mach) : Mach :=
  match m.twn.wait.find? fun w => w.vol == v && w.op != 3 && !(w.op == 4 && status == 0) with
  | some w => m.resultFor w status
  | none => m

/-! ### The handover (R394, Table 17.6) -/

/-- Step 2 at the former owner: refused where a lamp region is bound to the volume here. -/
def Mach.takeIn (v : Vid) (fence : Nat) (m : Mach) : Mach :=
  let x := m.volu v
  if !x.mirrored || decide (fence ≤ x.fence) || m.regionBound v then m.twnAnswer v St.invalidField
  else (m.updTwn fun t => { t with giving := if t.giving.contains v then t.giving else t.giving ++ [v] }).pendEpoch v fence false .handover

def execTake (h : FrameHdr) (vol : Vid) (fence : Nat) (s : State) : Host.Outcome State Fault Refusal :=
  s.on (Mach.rxCtl (.take h vol fence) h [4, vol.val, 0, fence] (Mach.takeIn vol fence))

/-- Step 4 at the new owner. -/
def Mach.takeAckIn (v : Vid) (fence : Nat) (m : Mach) : Mach :=
  let x := m.volu v
  if x.mirrored && x.twin == .handover && !m.twn.giving.contains v && decide (x.fence < fence) then m.pendEpoch v fence true .inSync else m

def execTakeAck (h : FrameHdr) (vol : Vid) (fence : Nat) (s : State) : Host.Outcome State Fault Refusal :=
  s.on (Mach.rxCtl (.takeAck h vol fence) h [5, vol.val, 0, fence] (Mach.takeAckIn vol fence))

/-- Steps 2 and 3 have taken longer than TWN_HOTMS: the command ends, and the state stays HANDOVER. -/
def Mach.handoverOver (v : Vid) (m : Mach) : Mach :=
  if (m.volu v).twin == .handover && (m.volu v).pendFence.isNone then
    m.each (m.twn.wait.filter fun w => w.vol == v && w.op == 4) fun w m => w.reply (fun p m => m.refuse p St.twinUnavailable) (m.twnUnwait w)
  else m

/-! ### The walk (R392) -/

/-- The next piece: on through its region, then the next dirty region, then another pass. -/
def Mach.nextPiece (m : Mach) (v : Vid) : Option Nat :=
  let x := m.rs v
  let open_ := (m.volu v).dirty.filter fun r => !x.walked.contains r
  if open_.contains (x.next / 32) then some x.next
  else ((open_.find? fun r => decide (x.next / 32 < r)).orElse fun _ => open_.head?).map (32 * ·)

/-- Read one LB of a piece: buffer, then map, never a frame. -/
def Mach.pieceRead (s off : Nat) (m : Mach) : Mach :=
  let c := m.cmd s
  let v := entVol c.entry
  let lba := entSlba c.entry + off
  match m.storedSrc v lba with
  | .version _ d => m.pieceLb s off St.success d
  | .zero => m.setCmd s { c with todo := c.todo.filter (· != off) }
  | .flash a => m.startRead a v lba .q0 (.resync s off)
  | .recovering => (m.badEntry v lba).pieceLb s off St.mapRecovering 0
  | _ => m.pieceLb s off St.poisonedMu 0

/-- A piece whose lock is held is read. -/
def Mach.pieceRun (s : Nat) (m : Mach) : Mach :=
  let c := m.cmd s
  if c.stage != .admitted then m
  else
    let v := entVol c.entry
    let m := (m.setRs v { m.rs v with data := [] }).setCmd s { c with stage := .running, todo := List.range 512 }
    (m.each (List.range 512) fun off m => m.pieceRead s off).pieceDone s

/-- The owner's walk takes its next step: the piece under way goes on, or the next takes its shared lock. -/
def Mach.resyncStep (v : Vid) (m : Mach) : Mach :=
  let m := m.resyncCheck v
  if !(m.mirroring v && (m.volu v).twin == .resyncing && (m.volu v).serves) then m
  else match m.pieceSlots v with
    | s :: _ => m.pieceRun s
    | [] =>
      match m.nextPiece v with
      | none => m
      | some p =>
        if !m.ownEntry then m
        else
          let m := m.ownCommand .resync (mkEntry opRead v (512 * p) 511) []
          match m.pieceSlots v with
          | s :: _ => m.pieceRun s
          | [] => m

def execResyncPiece (vol : Vid) (s : State) : Host.Outcome State Fault Refusal := s.on (Mach.resyncStep vol)

end Sys2Proof.Machine
end

