-- ==== Sys2Proof/Machine/Views.lean ====
section
/-! DEFINITION. What the registers read: the common header (Table 02.3), the registers that show the blocks' own state, and those
that are stored. Each view takes the offset within its page and answers none where the register is a stored one. -/

namespace Sys2Proof.Machine

/-! ### Packing -/

/-- Fields of a register: each value at the bit where it begins. -/
def pack (fs : List (Nat × Nat)) : Word := BitVec.ofNat 32 ((fs.map fun f => f.2 * 2 ^ f.1).sum)

def flagAt (i : Nat) (b : Bool) : Nat × Nat := (i, if b then 1 else 0)

def loWord (v : Nat) : Word := BitVec.ofNat 32 v
def hiWord (v : Nat) : Word := BitVec.ofNat 32 (v / 2 ^ 32)

/-- The selection that an agent holds in a select register. -/
def Mach.sel (m : Mach) (a : Agent) (addr : Nat) : Nat := m.rdN (bank a addr)

/-! ### The common header (Table 02.3) -/

/-- The number of Table 02.4. -/
def PageSt.num : PageSt → Nat
  | .off => 0
  | .stopped => 1
  | .starting => 2
  | .running => 3
  | .stopping => 4
  | .faulted => 5

def idWord (p : Page) : Word := pack [(16, p.typeCode), (8, p.inst), (0, 1)]

def capWord (p : Page) : Word :=
  let c := pageCaps p
  pack [flagAt 0 c.1, flagAt 1 c.2.1, flagAt 2 c.2.2.1, (4, c.2.2.2)]

def Mach.headerView (m : Mach) (p : Page) (off : Nat) : Word :=
  let h := m.hdr p
  match off with
  | 0x00 => idWord p
  | 0x04 => BitVec.ofNat 32 h.st.num
  | 0x0C => h.err
  | 0x10 => h.mask
  | 0x14 => h.seq
  | 0x18 => h.gen
  | 0x1C => capWord p
  | _ => 0

/-! ### DEV, PORT and the packet FIFOs -/

def Mach.viewDev (m : Mach) (off : Nat) : Option Word :=
  match off with
  | 0x48 => some (pack [(0, m.dev.st.num), flagAt 3 m.degraded, flagAt 4 m.dev.memActive, (5, min 63 m.heldPages)])
  | 0x100 => some m.dev.cause
  | 0x104 => some m.bootWord
  | 0x110 => some (BitVec.ofNat 32 m.dev.phase.num)
  | _ => none

def Mach.viewPort (m : Mach) (p : Port) (off : Nat) : Option Word :=
  let x := m.port.get p
  match off with
  | 0x40 => some (pack [flagAt 0 x.up, (1, x.speed % 8), (4, x.width % 16), flagAt 8 x.cxl, flagAt 9 (x.up && x.cxl && x.memEn),
      flagAt 10 x.rev, flagAt 11 x.d3])
  | 0x78 => some (pack [flagAt 0 x.viralTx, flagAt 1 x.viralRx])
  | 0x7C => some (pack [(0, min 256 x.inflight), (16, m.rdN (portReg p Reg.PORT_MEMINFL) % 512)])
  | _ => none

def Mach.viewPff (m : Mach) (n : Fin 8) (off : Nat) : Option Word :=
  let f := m.fifo n
  match off with
  | 0x44 => some (pack [flagAt 0 f.vis.isEmpty, flagAt 1 (m.pffFree n == 0), flagAt 2 f.underrun, flagAt 3 f.eop, flagAt 4 (!f.opn.isEmpty)])
  | 0x50 => some (pack [(0, f.vis.length), (16, f.packets)])
  | 0x54 => some (BitVec.ofNat 32 (headLen f.vis))
  | 0x58 => some (BitVec.ofNat 32 (pffDepth n))
  | 0x5C => some (BitVec.ofNat 32 (m.pffCons n))
  | _ => none

/-! ### Queue core, doorbells and range locks -/

def QpSt.num : QpSt → Nat
  | .absent => 0
  | .active => 1
  | .deleting => 2
  | .faulted => 3

/-- Pairs of a port. -/
def Mach.qcount (m : Mach) (p : Port) : Nat := (m.q.qp.filter fun e => e.2.st != .absent && e.2.port == p).length

def Mach.viewQct (m : Mach) (a : Agent) (off : Nat) : Option Word :=
  let q := m.qp (Fin.ofNat 256 (m.sel a Reg.QCT_QSEL))
  match off with
  | 0x4C => some (pack [(0, m.q.used.length), (16, m.rdN Reg.QCT_SLOTS % 8192)])
  | 0x50 => some (pack [(0, m.portSlots .p0), (16, m.portSlots .p1)])
  | 0x54 => some (pack [(0, m.qcount .p0), (8, m.qcount .p1)])
  | 0x5C => some (pack [(0, q.st.num), (2, q.port.num), (3, q.cls), flagAt 5 q.crc, flagAt 6 q.dbErr, (16, q.depth)])
  | 0x60 => some (pack [(0, q.fetch), (16, q.tail)])
  | 0x64 => some (pack [(0, q.cqTail), (16, q.cqHead), flagAt 31 (q.phase && q.st != .absent)])
  | 0x68 => some (BitVec.ofNat 32 q.inflight)
  | 0x6C => some (loWord q.sqBase)
  | 0x70 => some (hiWord q.sqBase)
  | 0x74 => some (loWord q.cqBase)
  | 0x78 => some (hiWord q.cqBase)
  | _ => none

/-- RLK_ACTIVE: entries, and commands with a nonempty wait set. -/
def Mach.rlkActive (m : Mach) : Word := pack [(0, m.locks.length), (16, (m.locks.filter fun s => !(m.cmd s).wait.isEmpty).length)]

def Cmd.isAdmitted (c : Cmd) : Bool := c.stage == .admitted || c.stage == .running || c.stage == .committed

/-- A range-lock entry as the table shows it; nothing where the slot has none. -/
def Mach.viewLock (m : Mach) (s off : Nat) : Option Word :=
  let c := m.cmd s
  let e := c.entry
  let x := if c.locked then 1 else 0
  match off with
  | 0x58 => some (pack [(0, x), (1, x * (if exclOpc (entOpc e) then 1 else 0)), (2, x * (if c.isAdmitted then 1 else 0)), (3, x * (entVol e).val),
      (9, x * (if c.port == some .p1 then 1 else 0)), (10, x * (entTag e).toNat)])
  | 0x5C => some (loWord (x * entSlba e))
  | 0x60 => some (hiWord (x * entSlba e))
  | 0x64 => some (BitVec.ofNat 32 (x * entNlb e))
  | 0x68 => some (if c.locked then c.seq else 0)
  | 0x6C => some (BitVec.ofNat 32 (x * c.wait.length))
  | _ => none

def Mach.viewRlk (m : Mach) (a : Agent) (off : Nat) : Option Word :=
  match off with
  | 0x40 => some m.rlkActive
  | _ => m.viewLock (m.sel a Reg.RLK_SEL) off

/-! ### Lamp window and Lantern -/

def Mach.litPages (m : Mach) : Nat := (m.lamp.desc.map fun e => if e.2.taintAll then 0 else popCount e.2.lit).sum

/-- Tainted pages; a TAINTALL block counts whole (R167). -/
def Mach.taintedPages (m : Mach) : Nat :=
  (m.lamp.desc.map fun e => if e.2.taintAll then 512 else popCount (e.2.dirty &&& ~~~e.2.lit)).sum

def Mach.viewLmp (m : Mach) (a : Agent) (off : Nat) : Option Word :=
  let r := m.region (m.sel a Reg.LMP_RSEL % 4)
  match off with
  | 0x44 => some (pack [flagAt 0 r.defined, flagAt 1 r.lot, (2, r.vol.val)])
  | 0x48 => some (loWord r.base)
  | 0x4C => some (hiWord r.base)
  | 0x50 => some (BitVec.ofNat 32 (r.size / 2 ^ 21))
  | 0x54 => some (loWord r.desc)
  | 0x58 => some (hiWord r.desc)
  | 0x5C => some (pack [(0, m.lamp.frames), (16, m.framesFree)])
  | 0x60 => some (BitVec.ofNat 32 m.litPages)
  | 0x64 => some (BitVec.ofNat 32 m.dirtyLit)
  | 0x68 => some (BitVec.ofNat 32 m.taintedPages)
  | 0x74 => some (BitVec.ofNat 32 m.lamp.touch.length)
  | _ => none

def LntSt.num : LntSt → Nat
  | .invalid => 0
  | .clean => 1
  | .dirty => 2
  | .evicting => 3

def LntMode.num : LntMode → Nat
  | .enabled => 0
  | .flushing => 1
  | .disabled => 2

def Mach.viewLnt (m : Mach) (a : Agent) (off : Nat) : Option Word :=
  let i := m.sel a Reg.LNT_ESEL % 64
  let x := m.lnt i
  match off with
  | 0x44 => some (pack [(0, m.lamp.mode.num), flagAt 2 m.lamp.enPend, (3, (m.lamp.lnt.filter fun e => e.2.off).length),
      (10, (m.lamp.lnt.filter fun e => e.2.st == .dirty || e.2.st == .evicting).length)])
  | 0x68 => some (pack [(0, x.st.num), flagAt 2 x.redirty, (3, x.err), flagAt 6 x.off, flagAt 7 (m.lamp.victim == i)])
  | 0x6C => some (pack [(0, x.tag / 2 ^ 26), (2, x.tag % 2 ^ 26)])
  | _ => none

/-! ### Flash channels, write protection, ECC -/

/-- Entries of a queue of a channel that are not issued. -/
def Mach.queued (m : Mach) (c : Chan) (r : Req) : Nat := min 128 (m.fl.ops.filter fun o => o.ch == c && o.req == r && !o.issued).length

def Mach.viewFch (m : Mach) (a : Agent) (c : Chan) (off : Nat) : Option Word :=
  let x := m.chn c
  let d := m.die (dieOf c (m.sel a (fchReg c Reg.FCH_DSEL) % 64))
  match off with
  | 0x40 => some (pack [(0, x.rate), flagAt 2 x.trained, flagAt 3 x.deskew, flagAt 4 x.extqual, (5, (m.chanDies c.val).length % 64)])
  | 0x48 => some (pack [(0, m.budget c), (16, m.tokensHeld c)])
  | 0x60 => some (pack [(0, m.queued c .q0), (8, m.queued c .q1), (16, m.queued c .q2), (24, m.queued c .q3)])
  | 0x84 => some (match d.info with
    | none => 0
    | some i => pack [(0, 1), flagAt 1 i.matched, flagAt 2 i.extrate, flagAt 3 i.nested, flagAt 4 (decide (i.row.val < 4)), flagAt 5 d.erun.isSome,
        flagAt 6 d.esusp.isSome, (16, i.resMin % 65536)])
  | 0x8C => some (match x.windows[m.sel a (fchReg c Reg.FCH_PINSEL) % 16]? with
    | none => 0
    | some w => pack [(0, w.1 % 64), (8, w.2.1 % 64), (16, w.2.2 % 64)])
  | _ => none

def Mach.viewWpt (m : Mach) (a : Agent) (off : Nat) : Option Word :=
  let w := (m.wpBits (m.sel a Reg.WPT_DSEL % 2048)).toNat
  match off with
  | 0x44 => some (loWord w)
  | 0x48 => some (hiWord w)
  | _ => none

/-- Percent of the furrows of the rebuild that are done. -/
def Mach.rebuildPct (m : Mach) : Nat := if m.fl.rbTotal = 0 then 100 else 100 * (m.fl.rbTotal - m.rebuildLeft.length) / m.fl.rbTotal

/-- ECC_SOFTQ: what waits for an engine, the engines of 8 that are busy, the peak. -/
def Mach.softq (m : Mach) : Word :=
  let n := m.fl.softTasks.length
  pack [(0, min 64 (n - 8)), (8, min 8 n), (16, m.rdN Reg.ECC_SOFTQ % 128)]

def Mach.viewEcc (m : Mach) (a : Agent) (off : Nat) : Option Word :=
  match off with
  | 0x4C => some m.softq
  | 0x80 => some m.eraseMask
  | 0x84 => some m.fl.retired
  | 0x88 => some (if m.fl.rbActive then pack [(0, 1), (1, m.fl.rbChan % 32), (8, m.rebuildPct)] else 0)
  | 0x8C => some (BitVec.ofNat 32 m.rebuildLeft.length)
  | 0x98 => some (Config.baseMatrix (m.sel a Reg.ECC_HMSEL) &&& 0x1FF)
  | _ => none

/-! ### Map, Sower, Gleaner -/

def Mach.viewMap (m : Mach) (a : Agent) (off : Nat) : Option Word :=
  match off with
  | 0x40 => some (loWord m.vol.entries)
  | 0x44 => some (hiWord m.vol.entries)
  | 0x48 => some (BitVec.ofNat 32 m.freeChunks.length)
  | 0x4C => some (match m.vol.recov with
    | none => 0
    | some s => pack [(0, s % 8192), (16, 1)])
  | 0x58 => some (loWord m.buf.wsn)
  | 0x5C => some (hiWord m.buf.wsn)
  | 0x60 => some (loWord m.buf.fsn)
  | 0x64 => some (hiWord m.buf.fsn &&& 0xFF)
  | 0x80 => some (m.rd (bank a Reg.MAP_PRES))
  | 0x84 => some (m.rd (bank a Reg.MAP_PENT_LO))
  | 0x88 => some (m.rd (bank a Reg.MAP_PENT_HI))
  | _ => none

def Mach.versIn (m : Mach) (st : VerSt) : Nat := (m.buf.vers.filter fun x => x.st == st).length

def Mach.viewSow (m : Mach) (a : Agent) (off : Nat) : Option Word :=
  let o := m.openF (Fin.ofNat 8 (m.sel a Reg.SOW_OSEL))
  let fsn := (o.map (·.fsn)).getD 0
  match off with
  | 0x48 => some (BitVec.ofNat 32 m.bufCap)
  | 0x4C => some (BitVec.ofNat 32 m.bufUsed)
  | 0x50 => some (BitVec.ofNat 32 (m.versIn .opn))
  | 0x54 => some (BitVec.ofNat 32 (m.versIn .held))
  | 0x5C => some (match o with
    | none => 0
    | some x => pack [(0, 1), flagAt 1 x.layout1, (2, x.page)])
  | 0x60 => some (loWord fsn)
  | 0x64 => some (hiWord fsn &&& 0xFF)
  | 0x68 => some ((o.map (·.absent)).getD 0)
  | 0x6C => some ((o.map (·.mask)).getD 0)
  | _ => none

/-- GLN_FSTAT.STATE: among members in different erase states the first of INTERRUPTED, SUSPENDED, ERASING. -/
def Mach.furState (m : Mach) (f : Nat) : Nat :=
  let x := m.fur f
  let sts := (goodMembers x).map fun c => (m.blk (dieOf c (f / 4096)) (m.memberBlock c f)).st
  match x.st with
  | .fallow => 0
  | .opn => 1
  | .closed => 2
  | .gleaning => 3
  | .released => 4
  | .erasing =>
    if sts.contains .eraseInterrupted then 7 else if sts.contains .eraseSuspended then 6 else 5
  | .none => 0

def Mach.furCount (m : Mach) (p : Fur → Bool) : Nat := (m.gln.fur.filter fun e => p e.2).length

/-- Percent of a victim's walk that is done, by its page. -/
def Mach.walkPct (m : Mach) (v : Victim) : Nat := if v.walked then 100 else min 100 (100 * v.page / max 1 m.adm.board.pages)

def Mach.viewGln (m : Mach) (a : Agent) (off : Nat) : Option Word :=
  let f := m.sel a Reg.GLN_FSEL
  let x := m.fur f
  let vic := m.gln.vic1.map fun v => ((m.fur v.furrow).fsn, m.walkPct v)
  match off with
  | 0x74 => some (pack [(0, m.gln.level.num), flagAt 2 m.gln.vic0.isSome, flagAt 3 m.gln.vic1.isSome])
  | 0x78 => some (BitVec.ofNat 32 m.fallowCount)
  | 0x7C => some (BitVec.ofNat 32 (m.furCount fun x => x.st == .released || x.st == .erasing))
  | 0x80 => some (BitVec.ofNat 32 (m.closedFurs.filter fun f => decide (m.rank f < 4)).length)
  | 0x84 => some (BitVec.ofNat 32 (m.furCount (·.retired)))
  | 0x88 => some (BitVec.ofNat 32 (min 0xFFFFFFFF m.gln.debt))
  | 0x8C => some (loWord ((vic.map (·.1)).getD 0))
  | 0x90 => some (match vic with
    | none => 0
    | some v => pack [(0, v.1 / 2 ^ 32 % 256), (8, v.2)])
  | 0xC0 => some (pack [(0, m.furState f), flagAt 4 x.layout1, flagAt 5 x.refresh, flagAt 6 x.relocate, flagAt 7 x.retired])
  | 0xC4 => some (x.absent ||| x.lost)
  | 0xC8 => some (BitVec.ofNat 32 x.valid)
  | 0xCC => some (BitVec.ofNat 32 x.placed)
  | _ => none

/-! ### Headland -/

def Mach.viewHdl (m : Mach) (off : Nat) : Option Word :=
  let h := m.hdl
  let es := m.hdlErases
  match off with
  | 0x40 => some (loWord h.epoch)
  | 0x44 => some (hiWord h.epoch)
  | 0x48 => some (loWord h.durable)
  | 0x4C => some (hiWord h.durable)
  | 0x50 => some (pack [(0, min 31 m.window), (8, h.winPeak % 32)])
  | 0x58 => some (loWord m.replayFsn)
  | 0x5C => some (hiWord m.replayFsn &&& 0xFF)
  | 0x60 => some (pack [(0, m.segTotal % 8192), (16, (h.seg.filter fun e => e.2.dirty).length)])
  | 0x70 => some (pack [(0, m.hdlFallow.length), (16, m.hdlFurs.length)])
  | 0x80 => some (loWord h.budget)
  | 0x84 => some (hiWord h.budget)
  | 0x88 => some (BitVec.ofNat 32 h.bufCap)
  | 0x94 => some (BitVec.ofNat 32 h.minHold)
  | 0x98 => some (pack [flagAt 0 h.dumpValid, flagAt 1 h.dumpPartial, flagAt 2 h.dumpActive])
  | 0x9C => some (BitVec.ofNat 32 h.dumpCw)
  | 0xA0 => some (pack [(0, min 65535 m.hdlWear), (16, min 65535 (greatest es))])
  | _ => none

/-! ### DRAM -/

def Mach.viewDrc (m : Mach) (a : Agent) (d : Fin 4) (off : Nat) : Option Word :=
  let x := m.dram d
  let l := m.sel a (drcReg d Reg.DRC_LSEL)
  let sr := subRank (bitOf l 0) (bitOf l 1)
  let dev := bits l 4 2
  let e := SMap.get (0, 0, 0, 0) x.eye (10 * sr + 2 * dev + bits l 5 5)
  match off with
  | 0x40 => some (pack [flagAt 0 x.trained, flagAt 1 (!x.marked.isEmpty)])
  | 0x44 => some x.spareWord
  | 0x4C => some (if dev < 5 then pack [(0, e.1), (8, e.2.2.1), (16, e.2.2.2), (24, e.2.1)] else 0)
  | 0x58 => some (pack [flagAt 0 x.doubled, flagAt 1 x.catchup, (2, min 8 x.owed), (6, x.mr4 % 8)])
  | 0x70 => some (BitVec.ofNat 32 (if dev < 5 then SMap.get 0 x.devCe (devKey sr dev) else 0))
  | 0x84 => some x.pinWord
  | _ => none

def Mach.viewDrg (m : Mach) (a : Agent) (off : Nat) : Option Word :=
  match off with
  | 0x48 => some (BitVec.ofNat 32 m.dramGib)
  | 0x4C => some (pack [(0, m.dev.dramDone.toNat), (4, m.dev.dramFail.toNat)])
  | 0x58 => some (m.rd (bank a Reg.DRG_PRES))
  | 0x5C => some (m.rd (bank a Reg.DRG_PROW))
  | 0x60 => some (loWord m.adm.health.dramCe)
  | 0x64 => some (hiWord m.adm.health.dramCe)
  | _ => none

/-! ### Cipher and keys -/

def Mach.viewCip (m : Mach) (off : Nat) : Option Word :=
  match off with
  | 0x40 => some 0
  | _ => none

def KeySt.num : KeySt → Nat
  | .empty => 0
  | .loaded => 1
  | .exhausted => 2
  | .halted => 3

/-- Older wrapped copies of a key remain on flash (R333). -/
def Mach.scrubbing (m : Mach) : Bool := !m.scrubFurs.isEmpty || (m.key.scrub && !m.hdl.erases.isEmpty)

def Mach.viewKey (m : Mach) (a : Agent) (off : Nat) : Option Word :=
  let k := m.sel a Reg.KEY_SSEL % 1024
  let x := m.kslot k
  match off with
  | 0x40 => some (pack [(0, (m.key.slot.filter fun e => e.2.st != .empty).length), flagAt 11 m.key.xport.isSome, flagAt 12 m.scrubbing])
  | 0x44 => some (BitVec.ofNat 32 (min 0xFFFFFFFF m.key.nextEpoch))
  | 0x4C => some (pack [(0, x.st.num), (2, (m.boundVols k).length)])
  | 0x50 => some (BitVec.ofNat 32 x.epoch)
  | 0x54 => some (loWord x.nonce)
  | 0x58 => some (hiWord x.nonce)
  | 0x5C => some (loWord x.hwm)
  | 0x60 => some (hiWord x.hwm)
  | _ => none

/-! ### Temperature, power, clocks -/

/-- The offset of a sensor: what RECALIBRATE wrote, else the fuses' (Table 15.5). -/
def Mach.sensorCal (m : Mach) (i : Nat) : BitVec 8 := ((m.sens i).cal).getD (Config.fuseOffset i)

def Mach.viewThm (m : Mach) (a : Agent) (off : Nat) : Option Word :=
  let i := m.sel a Reg.THM_SSEL % 16
  let x := m.sens i
  match off with
  | 0x48 => some (pack [(0, (BitVec.ofInt 12 x.temp).toNat), flagAt 16 x.valid, flagAt 17 x.busy])
  | 0x4C => some (loWord x.stamp.toNat)
  | 0x50 => some (hiWord x.stamp.toNat)
  | 0x54 => some (pack [(0, (BitVec.ofInt 16 x.rate).toNat)])
  | 0x58 => some ((m.sensorCal i).setWidth 32)
  | 0x68 => some (loWord m.thm.now.toNat)
  | 0x6C => some (hiWord m.thm.now.toNat)
  | 0x70 => some (pack [flagAt 0 m.thm.trip])
  | 0x78 => some m.thm.calFail
  | _ => none

def Mach.viewSnf (m : Mach) (off : Nat) : Option Word :=
  match off with
  | 0x40 => some (BitVec.ofNat 32 m.thm.level)
  | _ => none

def Mach.viewPwr (m : Mach) (a : Agent) (off : Nat) : Option Word :=
  let i := m.sel a Reg.PWR_DOMSEL % 64
  let busy := m.thm.switching.any fun x => x.1.val == i
  match off with
  | 0x48 => some (pack [flagAt 0 (m.domainIsOn i), (1, if busy then (Config.switchStep m.free).toNat else 0), flagAt 4 busy])
  | 0x4C => some (loWord m.thm.domOn.toNat)
  | 0x50 => some (hiWord m.thm.domOn.toNat)
  | 0x5C => some (pack [flagAt 0 m.dev.pwrgd, flagAt 1 m.dev.pfailN, flagAt 2 m.dev.resetN])
  | _ => none

/-- The rate of a group of four channels: that of its first channel that runs at one. -/
def Mach.groupRate (m : Mach) (g : Nat) : Nat := greatest ((List.range 4).map fun i => (m.chn (Fin.ofNat 32 (4 * g + i))).rate)

def Mach.viewClk (m : Mach) (off : Nat) : Option Word :=
  match off with
  | 0x40 => some (pack [flagAt 0 m.dev.mclk, flagAt 1 m.dev.qclk, (2, m.dev.fclk.toNat), flagAt 10 m.dev.aclk, flagAt 11 m.dev.twclk])
  | 0x44 => some (pack ((List.range 8).map fun g => (2 * g, m.groupRate g)))
  | 0x48 => some (Config.kclkHz m.free)
  | _ => none

/-! ### Almanac and twin link -/

def Mach.viewAlm (m : Mach) (a : Agent) (off : Nat) : Option Word :=
  let t := m.alm
  let s := m.sel a Reg.ALM_RSEL
  let r := m.almAt s
  match off with
  | 0x44 => some (pack [flagAt 0 m.almBuffered, flagAt 1 t.flushing, (2, m.almUsed % 4096), flagAt 14 t.opn.isSome])
  | 0x48 => some t.seqReg
  | 0x4C => some t.nextSeq
  | 0x50 => some t.pot
  | 0x54 => some t.pcc
  | 0x78 => some (BitVec.ofNat 32 t.pers.length)
  | 0x80 => some (pack [flagAt 0 r.isSome, flagAt 1 (r.any (·.persisted)), flagAt 2 (t.opn == some s)])
  | _ => if 0x100 ≤ off ∧ off < 0x180 then some (match r with | none => 0 | some r => r.words.getD ((off - 0x100) / 4) 0) else none

def Mach.viewTwn (m : Mach) (a : Agent) (off : Nat) : Option Word :=
  let t := m.twn
  let v := Fin.ofNat 64 (m.sel a Reg.TWN_VSEL)
  let x := m.volu v
  match off with
  | 0x44 => some (pack [flagAt 0 t.up, flagAt 1 t.paired, flagAt 2 t.mismatch, flagAt 3 (t.paired && !m.partnerPresent),
      (4, if t.up then if t.x4 then 4 else 8 else 0), flagAt 8 (t.up && t.rate16)])
  | 0x54 => some (t.rtt &&& 0xFFFF)
  | 0x58 => some (pack [(0, t.unacked.length), (16, t.peak % 128)])
  | 0x84 => some (pack [flagAt 0 x.mirrored, flagAt 1 x.owner, (2, twinNum x.twin), flagAt 5 x.mapValid,
      (24, if x.twin == .resyncing then Config.percent m.free v.val % 101 else 0)])
  | 0x88 => some (loWord x.fence)
  | 0x8C => some (hiWord x.fence)
  | 0x90 => some (BitVec.ofNat 32 x.dirty.length)
  | _ =>
    if 0x94 ≤ off ∧ off < 0xA8 then some (BitVec.ofNat 32 (t.heard.toNat / 2 ^ (8 * (off - 0x94)))) else none

/-! ### One register -/

/-- The low words of the 64-bit counters, by page type and offset (Tables 04.6 to 17.10). -/
def counters64 : List Nat :=
  [0x205C, 0x2064, 0x407C, 0x6048, 0x11048, 0x11050, 0x12068, 0x13070, 0x13078, 0x14094, 0x1409C, 0x15074, 0x16050, 0x16058, 0x16060,
    0x16068, 0x17044, 0x1704C, 0x17054, 0x1E05C, 0x1E064, 0x20090, 0x21064]

/-- The register rows of a page that show the block's own state. -/
def Mach.pageView (m : Mach) (a : Agent) (p : Page) (off : Nat) : Option Word :=
  match p with
  | .dev => m.viewDev off
  | .port q => m.viewPort q off
  | .qct => m.viewQct a off
  | .dbl => none
  | .rlk => m.viewRlk a off
  | .lmp => m.viewLmp a off
  | .lnt => m.viewLnt a off
  | .map => m.viewMap a off
  | .sow => m.viewSow a off
  | .gln => m.viewGln a off
  | .hdl => m.viewHdl off
  | .ecc => m.viewEcc a off
  | .cip => m.viewCip off
  | .key => m.viewKey a off
  | .thm => m.viewThm a off
  | .snf => m.viewSnf off
  | .alm => m.viewAlm a off
  | .pwr => m.viewPwr a off
  | .clk => m.viewClk off
  | .twn => m.viewTwn a off
  | .wpt => m.viewWpt a off
  | .fch c => m.viewFch a c off
  | .drc d => m.viewDrc a d off
  | .drg => m.viewDrg a off
  | .pff n => m.viewPff n off

/-- Each agent has its own copy of these: the live registers but the Snuffer's ceiling, the Lantern's and the Almanac's controls and
the doorbells (R128 and its like). -/
def isBanked (key : Nat) : Bool :=
  match rowOf key with
  | some r => r.acc == .rl && key != 0x1A044 && key != 0x11040 && key != 0x1B040 && key / 0x1000 != 5
  | none => false

/-- What a stored register or a 64-bit counter reads. -/
def Mach.storedView (m : Mach) (a : Agent) (p : Page) (off : Nat) : Word :=
  let key := p.typeCode * 0x1000 + off
  let addr := p.base + off
  if counters64.contains key then loWord (m.rd64 addr).toNat
  else if 4 ≤ off && counters64.contains (key - 4) then hiWord (m.rd64 (addr - 4)).toNat
  else match rowOf key with
    | none => 0
    | some r => if r.acc == .wo then 0 else if isBanked key then m.rd (bank a addr) else m.rd addr

/-- One aligned register of a page. Of an OFF page only PG_ID, PG_STATE and PG_CAP return values (Table 02.4). -/
def Mach.wordAt (m : Mach) (a : Agent) (p : Page) (off : Nat) : Word :=
  if m.pageSt p == .off && off ≠ 0x00 && off ≠ 0x04 && off ≠ 0x1C then 0
  else if off < 0x40 then m.headerView p off
  else match m.pageView a p off with
    | some w => w
    | none => m.storedView a p off

/-- The page that an agent's BAR0 offset names: a host sees its own PORT page at 0x1000, and nothing at 0x2000 (R33). -/
def pageOf (a : Agent) (off : Nat) : Option Page :=
  match a.port, off / 0x1000 with
  | some p, 1 => some (.port p)
  | some _, 2 => none
  | _, _ => pageAt off

end Sys2Proof.Machine
end

