-- ==== Sys2Proof/Machine/CxlRegs.lean ====
section
/-! DEFINITION. What a host finds in a port's configuration space and in the CXL register blocks of BAR0 (R75, R81 to R89, R91, R94 to R98).
The manual names the structures and the values they carry. Where in configuration space or in a block a structure lies is a DESIGN CHOICE,
and where within a structure a field lies is PRESUMED from CXL 2.0 and the PCIe base specification (log entry 166). -/

namespace Sys2Proof.Machine

/-! ### Structures of configuration space (Table 04.1, Table 04.2) -/

def cfgPm : Nat := 0x40
def cfgPcie : Nat := 0x50
def cfgAer : Nat := 0x100
def cfgDsn : Nat := 0x148
def cfgDvCxl : Nat := 0x160
def cfgDvGpf : Nat := 0x1A0
def cfgDvFlex : Nat := 0x1B0
def cfgDvLoc : Nat := 0x1D0
def cfgDoe : Nat := 0x1F0

/-- An extended capability's header: identifier, version 1, and where the next one lies. -/
def extHeader (id next : Nat) : Word := pack [(0, id), (16, 1), (20, next)]

/-- The second word of a DVSEC: the CXL vendor ID of R81, revision and length in bytes. -/
def dvHeader (len : Nat) : Word := pack [(0, 0x1E98), (16, 1), (20, len)]

/-- GPF Phase 2 Duration (Table 04.6): a count of up to 15 in the smallest unit that holds the time, units rising by ten from 1 µs. -/
def gpfDuration (us : Nat) : Nat :=
  let fits (s : Nat) : Bool := decide (us ≤ 15 * 10 ^ s)
  let s := ((List.range 8).find? fits).getD 7
  (us + 10 ^ s - 1) / 10 ^ s % 16 + 256 * s

def Mach.phase2Duration (m : Mach) : Nat := if m.capMode then gpfDuration m.adm.now.holdupUs else 0
def Mach.phase2Power (m : Mach) : Nat := if m.capMode then m.adm.now.boardMw else 0

/-- Writable bits of the registers of configuration space that hold what the host writes. A control bit of an absent feature is not
among them (R75). -/
def cfgMask (off : Nat) : Word :=
  match off with
  | 0x04 => 0x546
  | 0x10 => 0xFF800000
  | 0x14 => 0xFFFFFFFF
  | 0x18 => 0xF8000000
  | 0x1C => 0xFFFFFFFF
  | 0x3C => 0xFF
  | 0x58 => 0x79FF
  | 0x78 => 0x1000
  | 0x16C => 0x4004
  | _ => 0

/-- What such a register holds after a port reset. -/
def cfgReset (off : Nat) : Word := if off = cfgDevCtl then devCtlReset else 0

/-- A word of configuration space. -/
def Mach.cfgWord (m : Mach) (p : Port) (off : Nat) : Word :=
  let x := m.port.get p
  let held := x.cfgRd (cfgReset off) off &&& cfgMask off
  match off with
  | 0x00 => pack [(0, 0x2C51), (16, 0x7140)]
  | 0x04 => held ||| 0x100000
  | 0x08 => pack [(0, 0xA2), (8, 0x050210)]
  | 0x10 => held ||| 0x4
  | 0x18 => held ||| 0x4
  | 0x34 => BitVec.ofNat 32 cfgPm
  | 0x40 => pack [(0, 0x01), (8, cfgPcie), (16, 3)]
  | 0x44 => pack [(0, if x.d3 then 3 else 0)]
  | 0x50 => pack [(0, 0x10), (16, 2)]
  | 0x54 => pack [(0, 2), (5, 1), (15, 1)]
  | 0x5C => pack [(0, bits (m.rdN (portReg p Reg.PORT_CFG)) 3 1), (4, 8)]
  | 0x60 => pack [(16, x.speed % 16), (20, x.width % 64)]
  | 0x74 => pack [(16, 3)]
  | 0x100 => extHeader 0x01 cfgDsn
  | 0x148 => extHeader 0x03 cfgDvCxl
  | 0x14C => loWord m.adm.board.dsn.toNat
  | 0x150 => hiWord m.adm.board.dsn.toNat
  | 0x160 => extHeader 0x23 cfgDvGpf
  | 0x164 => dvHeader 0x38
  | 0x168 => pack [flagAt 17 true, flagAt 18 true, (20, 1), flagAt 30 true]
  | 0x16C => held ||| pack [flagAt 1 true, flagAt 30 m.viral]
  | 0x178 => BitVec.ofNat 32 (2 ^ 16)
  | 0x17C => pack [flagAt 0 x.up, flagAt 1 m.dev.memActive]
  | 0x1A0 => extHeader 0x23 cfgDvFlex
  | 0x1A4 => dvHeader 0x10
  | 0x1A8 => pack [(0, 5), (16, m.phase2Duration)]
  | 0x1AC => BitVec.ofNat 32 m.phase2Power
  | 0x1B0 => extHeader 0x23 cfgDvLoc
  | 0x1B4 => dvHeader 0x14
  | 0x1B8 => pack [(0, 7), flagAt 17 true, flagAt 18 true, flagAt 21 true]
  | 0x1BC => pack [flagAt 17 (x.up && x.cxl), flagAt 18 (x.up && x.cxl), flagAt 21 (x.up && x.cxl)]
  | 0x1D0 => extHeader 0x23 cfgDoe
  | 0x1D4 => dvHeader 0x1C
  | 0x1D8 => BitVec.ofNat 32 8
  | 0x1DC => 0x600100
  | 0x1E4 => 0x610300
  | 0x1F0 => extHeader 0x2E 0
  | 0x1FC => pack [flagAt 2 x.doeError]
  | _ => held

/-- A host writes a word of configuration space: PCI-PM moves the function between D0 and D3hot (R78), DOE Abort clears the DOE Error bit,
and a register with writable bits holds them. -/
def Mach.cfgWrite (p : Port) (off : Nat) (v : Word) (m : Mach) : Mach :=
  match off with
  | 0x44 => if v.toNat % 4 = 3 then m.setD3 p true else if v.toNat % 4 = 0 then m.setD3 p false else m
  | 0x1F8 => if v.getLsbD 0 then m.updPort p fun x => { x with doeError := false } else m
  | _ => if cfgMask off = 0 then m else (m.updPort p fun x => { x with cfg := SMap.put x.cfg off (v &&& cfgMask off) }).touch (.port p)

/-! ### The component registers, BAR0 offset 0x60_0000 (R89, R94, R95) -/

/-- Where the RAS and the HDM Decoder Capability lie. -/
def ccRas : Nat := 0x601100
def ccHdm : Nat := 0x601200

/-- Uncorrectable Error Status: Poison Received and Internal Error. -/
def PortSt.rasStatus (x : PortSt) : Word := pack [flagAt 10 x.rasPoison, flagAt 14 x.rasUncorrectable]

/-- A register of decoder k: what the host wrote, with what the commit came to. -/
def PortSt.hdmWord (x : PortSt) (k r : Nat) : Word :=
  let w := SMap.get 0 x.hdmReg (32 * k + r)
  if r = 0x10 then w ||| pack [flagAt 10 (x.dec k).committed, flagAt 11 (x.dec k).err, flagAt 12 true] else w

/-- Writable bits of a decoder's registers. -/
def hdmMask (r : Nat) : Word :=
  match r with
  | 0x00 => 0xF0000000
  | 0x04 => 0xFFFFFFFF
  | 0x08 => 0xF0000000
  | 0x0C => 0xFFFFFFFF
  | 0x10 => 0x3FF
  | 0x14 => 0xF0000000
  | 0x18 => 0xFFFFFFFF
  | _ => 0

def Mach.componentWord (m : Mach) (p : Port) (off : Nat) : Word :=
  let x := m.port.get p
  if off = 0x601000 then pack [(0, 1), (16, 1), (20, 1), (24, 2)]
  else if off = 0x601004 then pack [(0, 2), (16, 1), (20, ccRas - 0x601000)]
  else if off = 0x601008 then pack [(0, 5), (16, 1), (20, ccHdm - 0x601000)]
  else if off = ccRas then x.rasStatus
  else if ccRas + 0x18 ≤ off ∧ off < ccRas + 0x58 then x.rasHeader.extractLsb' (8 * (off - ccRas - 0x18)) 32
  else if off = ccHdm then BitVec.ofNat 32 2
  else if ccHdm + 0x10 ≤ off ∧ off < ccHdm + 0x90 then x.hdmWord ((off - ccHdm - 0x10) / 32) ((off - ccHdm - 0x10) % 32)
  else 0

/-- A 64-bit value of a decoder's registers, by its low word. -/
def PortSt.hdmPair (x : PortSt) (k r : Nat) : Nat :=
  (SMap.get 0 x.hdmReg (32 * k + r)).toNat + 2 ^ 32 * (SMap.get 0 x.hdmReg (32 * k + r + 4)).toNat

/-- The control register of a decoder is written: Commit takes the setting up, its absence takes the commit back (R89, R91). The ways are
one where Interleave Ways is 0. -/
def Mach.hdmControl (p : Port) (k : Nat) (v : Word) (m : Mach) : Mach :=
  if v.getLsbD 9 then
    let x := m.port.get p
    m.hdmCommitWays p k (x.hdmPair k 0) (x.hdmPair k 0x08) (x.hdmPair k 0x14) (v.getLsbD 8) (bits v.toNat 7 4 == 0)
  else m.hdmUncommit p k

/-- The host writes a register of decoder k; a locked decoder ignores it. -/
def Mach.hdmWrite (p : Port) (k r : Nat) (v : Word) (m : Mach) : Mach :=
  if ((m.port.get p).dec k).locked then m
  else
    let m := m.updPort p fun x => { x with hdmReg := SMap.set 0 x.hdmReg (32 * k + r) (v &&& hdmMask r) }
    if r = 0x10 then m.hdmControl p k v else m

/-- The RAS status bits clear where 1 is written. -/
def Mach.rasWrite (p : Port) (v : Word) (m : Mach) : Mach :=
  m.updPort p fun x => { x with rasPoison := x.rasPoison && !v.getLsbD 10, rasUncorrectable := x.rasUncorrectable && !v.getLsbD 14 }

/-! ### The device registers, BAR0 offset 0x61_0000 (R82 to R88) -/

/-- Where the capabilities of the array lie: device status, primary mailbox with its payload, memory device status. -/
def dcStatus : Nat := 0x80
def dcMbox : Nat := 0x100
def dcMem : Nat := 0x8000

/-- An entry of the capabilities array: identifier, version, offset, length. -/
def capEntry (id off len i : Nat) : Word :=
  match i with
  | 0 => pack [(0, id), (16, 1)]
  | 1 => BitVec.ofNat 32 off
  | 2 => BitVec.ofNat 32 len
  | _ => 0

/-- Event Status: which logs hold records (R88). -/
def Mach.eventStatus (m : Mach) : Word := pack ((List.finRange 4).map fun l => flagAt l.val (!(m.evLog l).recs.isEmpty))

/-- The newest answer of a port's mailbox since its registers were last reset: return code, extended status, payload. -/
def Mach.lastAnswer (m : Mach) (p : Port) : Option (Nat × Nat × List Byte) :=
  ((m.out.drop (m.port.get p).mboxFrom).reverse.findSome? fun o => match o with
    | .mbox q rc ext pl => if q == p then some (rc, ext, pl) else none
    | _ => none)

/-- A background operation of a port runs. -/
def Mach.bgRuns (m : Mach) (p : Port) : Bool := m.adm.bg.any fun b => b.port == p && !b.orphan

/-- Mailbox Status, low and high word (R84, R87). -/
def Mach.mboxStatus (m : Mach) (p : Port) (hi : Bool) : Word :=
  let a := (m.lastAnswer p).getD (0, 0, [])
  if hi then pack [(0, a.1 % 65536), (16, a.2.1 % 65536)] else pack [flagAt 0 (m.bgRuns p)]

/-- How far the background operation of a port has come: while it runs a free value below 100, and before the switch of an activation at
most 90 (R131, R144). -/
def Mach.bgPercent (m : Mach) (p : Port) : Nat :=
  match m.adm.bg with
  | some b =>
    if b.port == p && !b.orphan then
      Config.percent m.free 64 % (match b.op with | .activate _ => if m.mailboxPaused then 100 else 91 | _ => 100)
    else (m.port.get p).bgPct
  | none => (m.port.get p).bgPct

/-- Background Command Status, low and high word. -/
def Mach.bgStatus (m : Mach) (p : Port) (hi : Bool) : Word :=
  let x := m.port.get p
  if hi then pack [(0, x.bgRc % 65536), (16, x.bgExt % 65536)] else pack [(0, x.bgOpcode % 65536), (16, m.bgPercent p)]

/-- Memory Device Status (Table 04.3). FW Halt stands while management firmware does not run, past start-up (R58). -/
def Mach.memDevStatus (m : Mach) (p : Port) : Word :=
  let failed := m.dev.st == .failed
  let media := match m.dev.st with
    | .boot => 0
    | .adminReady => 0
    | .failed => 2
    | .ioReady => 1
    | .degraded => 1
    | .service => 1
  pack [flagAt 0 failed, flagAt 1 (m.dev.fwHalt || (m.dev.st != .boot && !m.dev.fwRunning)), (2, media), flagAt 4 (m.mailboxReady p),
    (5, if failed then 1 else 0)]

/-- Four bytes of the payload that the mailbox's newest answer left. -/
def Mach.payloadWord (m : Mach) (p : Port) (i : Nat) : Word :=
  let b := ((m.lastAnswer p).getD (0, 0, [])).2.2
  BitVec.ofNat 32 (((List.range 4).map fun j => (b.getD (i + j) 0).toNat * 2 ^ (8 * j)).sum)

/-- Within the device registers, by the offset from their base. The command register shows the length of the newest answer. -/
def Mach.deviceWord (m : Mach) (p : Port) (o : Nat) : Word :=
  if o = 0 then pack [(16, 1)]
  else if o = 4 then BitVec.ofNat 32 3
  else if 0x10 ≤ o ∧ o < 0x20 then capEntry 1 dcStatus 8 ((o - 0x10) / 4)
  else if 0x20 ≤ o ∧ o < 0x30 then capEntry 2 dcMbox (0x20 + 16384) ((o - 0x20) / 4)
  else if 0x30 ≤ o ∧ o < 0x40 then capEntry 0x4000 dcMem 8 ((o - 0x30) / 4)
  else if o = dcStatus then m.eventStatus
  else if o = dcMbox then BitVec.ofNat 32 14
  else if o = dcMbox + 4 then pack [flagAt 0 (m.doorbell p)]
  else if o = dcMbox + 8 then pack [(16, ((m.lastAnswer p).getD (0, 0, [])).2.2.length % 65536)]
  else if o = dcMbox + 0x10 then m.mboxStatus p false
  else if o = dcMbox + 0x14 then m.mboxStatus p true
  else if o = dcMbox + 0x18 then m.bgStatus p false
  else if o = dcMbox + 0x1C then m.bgStatus p true
  else if dcMbox + 0x20 ≤ o ∧ o < dcMbox + 0x20 + 16384 then m.payloadWord p (o - dcMbox - 0x20)
  else if o = dcMem then m.memDevStatus p
  else 0

/-! ### Both blocks by BAR0 offset -/

/-- A word of the CXL register blocks as a port's host reads it; every register unnamed reads 0 (R82). -/
def Mach.cxlWord (m : Mach) (p : Port) (off : Nat) : Word :=
  if off < 0x610000 then m.componentWord p off else m.deviceWord p (off - 0x610000)

/-- A word written there. A mailbox command comes as a row of the table, not through these registers (log entry 166). -/
def Mach.cxlWrite (p : Port) (off : Nat) (v : Word) (m : Mach) : Mach :=
  if off = ccRas then m.rasWrite p v
  else if ccHdm + 0x10 ≤ off ∧ off < ccHdm + 0x90 then m.hdmWrite p ((off - ccHdm - 0x10) / 32) ((off - ccHdm - 0x10) % 32) v
  else m

end Sys2Proof.Machine
end

