-- ==== Sys2Proof/Machine/Registers.lean ====
section
/-! DEFINITION. Register access: the map probe (R253), writes to registers without a row of their own (R8 to R10, R30, R34, R35), reads
of the registers that a read changes (R34, R452). -/

namespace Sys2Proof.Machine

/-! ### The map probe -/

/-- The low word that R35 holds back for a pair, or the one in effect; it is held no longer. -/
def Mach.takeLow (key : Nat) (m : Mach) : Mach × Word :=
  (m.updReg fun g => { g with low := SMap.del g.low key }, SMap.get (m.rd key) m.reg.low key)

/-- Does the map hold no entry that may answer for an LB: outside the volume, its segment under recovery, or an invalid entry? -/
def Mach.probeErr (m : Mach) (v : Vid) (lba : Nat) : Bool :=
  decide ((m.volu v).size ≤ lba) || match entryIndex (m.volu v) lba with
    | none => true
    | some i => m.recovering i || (isAddr (m.entry i) && adrSlot (m.entry i) != 0)

/-- MAP_PRES.SRC of an LB of the volume: 2 a lamp frame, 1 a buffered version, 0 the map (R241). -/
def Mach.probeSource (m : Mach) (v : Vid) (lba : Nat) : Nat :=
  match m.current v lba with
  | .frame .. => 2
  | _ => if (m.verOf v lba).isSome then 1 else 0

def Mach.probeHeld (m : Mach) (v : Vid) (mu : Nat) : Bool := m.buf.vers.any fun x => x.vol == v && x.mu == mu && x.st == .held

/-- The words of MAP_PRES and MAP_PENT. Where ERR is set, MAP_PENT is a free value, and so is SRC outside the volume. -/
def Mach.probeResult (m : Mach) (v : Vid) (lba : Nat) : Nat × Nat :=
  let err := m.probeErr v lba
  let src := if (m.volu v).size ≤ lba then (Config.probeSrc m.free).toNat else m.probeSource v lba
  let ent := if err then (Config.probeEntry m.free).toNat else ((entryIndex (m.volu v) lba).map fun i => (m.entry i).toNat).getD 0
  (src + 4 + (if err then 8 else 0) + (if m.probeHeld v (lba / 4) then 16 else 0), ent)

/-- A write of MAP_PLBA_HI. Each agent has its own copy of the probe registers. -/
def Mach.mapProbe (a : Agent) (hi : Word) (m : Mach) : Mach :=
  if m.pageSt .map == .off then m.wdrop a
  else
    let low := m.takeLow (bank a Reg.MAP_PLBA_LO)
    let m := (low.1.wr (bank a Reg.MAP_PLBA_LO) low.2).wr (bank a Reg.MAP_PLBA_HI) hi
    let v := Fin.ofNat 64 (m.sel a Reg.MAP_PVOL)
    let lba := low.2.toNat + 2 ^ 32 * hi.toNat
    let r := m.probeResult v lba
    let m := (m.badEntry v lba).draw
    (((m.wr (bank a Reg.MAP_PRES) (BitVec.ofNat 32 r.1)).wr (bank a Reg.MAP_PENT_LO) (loWord r.2)).wr (bank a Reg.MAP_PENT_HI)
      (hiWord r.2 &&& 0xFF)).touch .map

def execMapProbe (a : Agent) (hi : Word) (s : State) : Host.Outcome State Fault Refusal := s.on (Mach.mapProbe a hi)

/-! ### Writes -/

/-- A write of the common header: PG_CMD and PG_ERRMASK are /M, PG_ERR is RW1C (Table 02.3). -/
def Mach.writeHeader (a : Agent) (p : Page) (off : Nat) (v : Word) (m : Mach) : Mach :=
  match off with
  | 0x08 =>
    if a != .mgmt then m.wdrop a
    else match v.toNat % 4 with
      | 1 => m.pageCmd a p Mach.startPage
      | 2 => m.pageCmd a p Mach.stopPage
      | 3 => m.pageCmd a p Mach.clearFault
      | _ => m
  | 0x0C => m.setHdr p { m.hdr p with err := (m.hdr p).err &&& ~~~v }
  | 0x10 => if a != .mgmt then m.wdrop a else m.setHdr p { m.hdr p with mask := v &&& 0xFFFF001F }
  | _ => m

/-- PF_CTRL: END and ABORT are /M; DROP is the consumer's. -/
def Mach.writePfCtrl (a : Agent) (n : Fin 8) (v : Word) (m : Mach) : Mach :=
  let m := if a == .mgmt then (m.when (v.getLsbD 0) (Mach.pffEnd n)).when (v.getLsbD 1) (Mach.pffAbort n)
    else m.when (v.getLsbD 0 || v.getLsbD 1) (Mach.wdrop a)
  m.when (v.getLsbD 2) (Mach.pffDropBy a n)

/-- PWR_DOMCMD. -/
def Mach.writeDomcmd (a : Agent) (v : Word) (m : Mach) : Mach :=
  if v.getLsbD 8 then m.domOn a (v.toNat % 64) else m.domOff a (v.toNat % 64)

/-- ALM_CTRL: BUFREQ, then FLUSH. -/
def Mach.writeAlmCtrl (a : Agent) (v : Word) (m : Mach) : Mach := (m.almBufReq a (v.getLsbD 0)).when (v.getLsbD 1) (Mach.almFlushBy a)

/-- A doorbell, by its offset. -/
def Mach.writeDoorbell (a : Agent) (off : Nat) (v : Word) (m : Mach) : Mach :=
  let q := Fin.ofNat 256 ((off - 0x100) / 8)
  if off % 8 = 0 then m.tailDoorbell a q v else m.headDoorbell a q v

/-- Registers whose write does more than store, by page and offset: those that other rows name as well, and the RW1C bits within
read-only registers. -/
def Mach.writeSpecial (a : Agent) (p : Page) (off : Nat) (v : Word) (m : Mach) : Option Mach :=
  match p, off with
  | .dev, 0x100 => some (m.updDev fun d => { d with cause := d.cause &&& ~~~v })
  | .dev, 0x108 => some (m.when (v.getLsbD 0) Mach.bootctlGo)
  | .dev, 0x10C => some (m.when (v.getLsbD 0) Mach.shutdownRequest)
  | .dev, 0x114 => some (m.wdogWrite a v)
  | .pff n, 0x40 => some (m.writePfCtrl a n v)
  | .pff n, 0x44 => some (m.when (v.getLsbD 2) fun m => m.setFifo n { m.fifo n with underrun := false })
  | .pff n, 0x4C => some (m.pffPush n v true)
  | .qct, 0x5C => some (m.when (v.getLsbD 6) fun m =>
      let q := Fin.ofNat 256 (m.sel a Reg.QCT_QSEL)
      m.setQp q { m.qp q with dbErr := false })
  | .lnt, 0x40 => some (m.lntCtrl a (v.getLsbD 0))
  | .map, 0x7C => some (m.mapProbe a v)
  | .drg, 0x54 => some (m.drgDecode a v)
  | .wpt, 0x4C => some (m.wptSet a false v)
  | .wpt, 0x50 => some (m.wptSet a true v)
  | .wpt, 0x54 => some (m.wptAllset a false v)
  | .wpt, 0x58 => some (m.wptAllset a true v)
  | .thm, 0x40 => some (m.thmSample a (v.setWidth 16))
  | .snf, 0x44 => some (m.snfCeil a (v.setWidth 4))
  | .pwr, 0x40 => some (m.writeDomcmd a v)
  | .alm, 0x40 => some (m.writeAlmCtrl a v)
  | .dbl, _ => if 0x100 ≤ off then some (m.writeDoorbell a off v) else none
  | _, _ => none

/-- The low words of the RL pairs (R35): MAP_PLBA_LO and DRG_PADDR_LO. -/
def isLowOfPair (key : Nat) : Bool := key == 0x12078 || key == 0x22050

/-- A write by the access code (Table 00.3). DESIGN CHOICE (log entry 170): the table gives an RC register no write; it is ignored, uncounted. -/
def Mach.writeCode (a : Agent) (p : Page) (off : Nat) (r : RegRow) (v : Word) (m : Mach) : Mach :=
  let key := p.typeCode * 0x1000 + off
  let addr := p.base + off
  let w := v &&& BitVec.ofNat 32 r.mask
  match r.acc with
  | .rs => if m.pageSt p == .stopped then m.rsStore addr w else m.raise p 0 0
  | .rl =>
    if isLowOfPair key then m.updReg fun g => { g with low := SMap.put g.low (bank a addr) w }
    else if isBanked key then m.wr (bank a addr) w
    else m.wr addr w
  | .rw => m.wr addr w
  | .rw1c => m.wr addr (m.rd addr &&& ~~~w)
  | .ro => m
  | .wo => m
  | .rc => m

/-- One aligned 32-bit write to a page that is powered. -/
def Mach.writeReg (a : Agent) (p : Page) (off : Nat) (v : Word) (m : Mach) : Mach :=
  if off < 0x40 then m.writeHeader a p off v
  else match rowOf (p.typeCode * 0x1000 + off) with
    | none => m.wdrop a
    | some r =>
      if r.mgmt && a != .mgmt then m.wdrop a
      else match m.writeSpecial a p off v with
        | some m => m
        | none => m.writeCode a p off r v

/-- One aligned 32-bit write. Writes to unassigned offsets and to OFF pages are dropped and counted (R30, Table 02.4); the CXL
register blocks belong to a port, and ignore a write to what the manual leaves unnamed, uncounted (R82). -/
def Mach.writeWord (a : Agent) (off : Nat) (v : Word) (m : Mach) : Mach :=
  if 0x600000 ≤ off then
    match a.port with
    | some p => m.cxlWrite p off v
    | none => m
  else match pageOf a off with
    | none => m.wdrop a
    | some p => if m.pageSt p == .off then m.wdrop a else m.writeReg a p (off % 0x1000) v

/-- A write to BAR0 of any width: only aligned writes of 32 and 64 bits are performed, the low word first (R34). -/
def Mach.bar0Write (a : Agent) (off width : Nat) (v : BitVec 64) (m : Mach) : Mach :=
  if width = 4 ∧ off % 4 = 0 then m.writeWord a off (v.setWidth 32)
  else if width = 8 ∧ off % 8 = 0 then (m.writeWord a off (v.setWidth 32)).writeWord a (off + 4) ((v >>> 32).setWidth 32)
  else if 0x600000 ≤ off then m
  else m.wdrop a

/-- An access offset counts on through the three spaces that an agent reaches: BAR0 of 8 MiB, then BAR2 of 128 MiB (R29), then the 4 KiB of
the port's configuration space. -/
def bar2Base : Nat := 0x800000
def cfgBase : Nat := 0x8800000

/-- The die whose aperture an offset lies in (R29). -/
def bar2Die (off : Nat) : Die := Fin.ofNat 2048 ((off - bar2Base) / 0x10000)

/-- A write to configuration space: only what lies within one aligned word, the other bytes as they were (PRESUMED, log entry 166). -/
def Mach.cfgBusWrite (a : Agent) (off width : Nat) (v : BitVec 64) (m : Mach) : Mach :=
  match a.port with
  | none => m
  | some p =>
    if width ≤ 4 ∧ off % width = 0 then
      let o := off - off % 4
      let mask : Word := BitVec.ofNat 32 ((2 ^ (8 * width) - 1) * 2 ^ (8 * (off % 4)))
      m.cfgWrite p o ((m.cfgWord p o &&& ~~~mask) ||| (((v.setWidth 32) <<< (8 * (off % 4))) &&& mask))
    else m

/-- A write by an agent, whichever space it reaches. -/
def Mach.busWrite (a : Agent) (off width : Nat) (v : BitVec 64) (m : Mach) : Mach :=
  if off < bar2Base then m.bar0Write a off width v
  else if off < cfgBase then m.apt a (bar2Die off) (Mach.aptBusWrite a (bar2Die off) ((off - bar2Base) % 0x10000) width v)
  else m.cfgBusWrite a (off - cfgBase) width v

/-! ### Reads that change what they read -/

/-- The peak fields restart from the companion's level (R452). -/
def Mach.restartPeak (p : Page) (off : Nat) (m : Mach) : Mach :=
  match p, off with
  | .port q, 0x7C => m.set (portReg q Reg.PORT_MEMINFL) (BitVec.ofNat 32 (min 256 (m.port.get q).inflight))
  | .qct, 0x4C => m.set Reg.QCT_SLOTS (BitVec.ofNat 32 m.q.used.length)
  | .rlk, 0x44 => m.set Reg.RLK_PEAK m.rlkActive
  | .ecc, 0x4C => m.set Reg.ECC_SOFTQ (BitVec.ofNat 32 (min 64 (m.fl.softTasks.length - 8)))
  | .hdl, 0x50 => (m.updHdl fun h => { h with winPeak := min 31 m.window }).touch .hdl
  | .twn, 0x58 => (m.updTwn fun t => { t with peak := t.unacked.length }).touch .twn
  | _, _ => m

/-- Registers that show a value the model leaves free at each read: a switch's step, the measured KCLK, a resync's progress. -/
def readsFree (p : Page) (off : Nat) : Bool :=
  match p, off with
  | .pwr, 0x48 => true
  | .clk, 0x48 => true
  | .twn, 0x84 => true
  | _, _ => false

/-- What a read changes: an RC register clears whole, for every agent; a peak field restarts. -/
def Mach.readEffect (p : Page) (off : Nat) (m : Mach) : Mach :=
  match rowOf (p.typeCode * 0x1000 + off) with
  | none => m
  | some r => if r.acc == .rc then m.set (p.base + off) 0 else if readsFree p off then m.draw else m.restartPeak p off

/-- One aligned 32-bit register. -/
def Mach.readWord (a : Agent) (off : Nat) (m : Mach) : Mach × Word :=
  match pageOf a off with
  | none => (m, if 0x600000 ≤ off then (match a.port with | some p => m.cxlWord p off | none => 0) else 0)
  | some p =>
    let o := off % 0x1000
    let plain := (if m.pageSt p == .off then m else m.readEffect p o, m.wordAt a p o)
    match p with
    | .pff n => if o = 0x48 then m.pffRead a n else plain
    | _ => plain

/-- A read of BAR0 of any width; a misaligned one returns 0 (R34). -/
def Mach.bar0Read (a : Agent) (off width : Nat) (m : Mach) : Mach × BitVec 64 :=
  if width = 8 ∧ off % 8 = 0 then
    let lo := m.readWord a off
    let hi := lo.1.readWord a (off + 4)
    (hi.1, (hi.2.setWidth 64 <<< 32) ||| lo.2.setWidth 64)
  else if (width = 1 ∨ width = 2 ∨ width = 4) ∧ off % width = 0 then
    let r := m.readWord a (off - off % 4)
    (r.1, narrow width (r.2 >>> (8 * (off % 4))))
  else (m, 0)

/-- A read of configuration space; management firmware has none. -/
def Mach.cfgBusRead (a : Agent) (off width : Nat) (m : Mach) : Mach × BitVec 64 :=
  match a.port with
  | none => (m, 0)
  | some p => (m, if width ≤ 4 ∧ off % width = 0 then narrow width (m.cfgWord p (off - off % 4) >>> (8 * (off % 4))) else 0)

def Mach.busRead (a : Agent) (off width : Nat) (m : Mach) : Mach × BitVec 64 :=
  if off < bar2Base then m.bar0Read a off width
  else if off < cfgBase then m.aptBusRead a (bar2Die off) ((off - bar2Base) % 0x10000) width
  else m.cfgBusRead a (off - cfgBase) width

/-- The agent receives what it read. What runs by itself has gone on by the next read. -/
def Mach.busAnswer (a : Agent) (off width : Nat) (m : Mach) : Mach :=
  let r := m.busRead a off width
  (r.1.send (.reg a width r.2)).draw

def execRcRegisterRead (a : Agent) (off width : Nat) (s : State) : Host.Outcome State Fault Refusal := s.on (Mach.busAnswer a off width)

def execPeakFieldRead (a : Agent) (off width : Nat) (s : State) : Host.Outcome State Fault Refusal := s.on (Mach.busAnswer a off width)

end Sys2Proof.Machine
end

