-- ==== Sys2Proof/Machine/Service.lean ====
section
/-! DEFINITION. SERVICE_ACTION (R147, R399 to R405): rows SERVICE_STOP to SERVICE_RECALIBRATE. -/

namespace Sys2Proof.Machine

/-- Payload lengths: an 8-byte header, and 8 bytes for each of at most 64 pairs. -/
def changeLen (pairs : List (Nat × Word)) : Nat := 8 + 8 * min 64 pairs.length

/-! ### STOP, CHANGE and START -/

/-- STOP reaches the page, or the action ends with INVALID_FIELD where the page refuses. The hold begins with the stop (R401). -/
def Mach.svcStopPage (p : Port) (pg : Page) (m : Mach) : Mach :=
  if ownPort p pg then m.endBg St.invalidField
  else
    let m := m.stopPage pg
    if m.pageSt pg == .stopping then m.hold pg true else m.endBg St.invalidField

def execServiceStop (p : Port) (len : Nat) (pg : Page) (s : State) : Host.Outcome State Fault Refusal :=
  s.on (Mach.mail (.serviceStop p len pg) p len 8 false (Mach.service p (.svcStop pg) (Mach.svcStopPage p pg)))

/-- CHANGE writes staged registers of a STOPPED page, and nothing where the page is not STOPPED or an offset names none. -/
def Mach.svcChange (pg : Page) (pairs : List (Nat × Word)) (m : Mach) : Mach :=
  if m.pageSt pg != .stopped || !(pairs.all fun e => isStaged pg e.1) then m.endBg St.invalidField
  else (m.changeRegs pg pairs).endBg St.success

def execServiceChange (p : Port) (len : Nat) (pg : Page) (pairs : List (Nat × Word)) (s : State) : Host.Outcome State Fault Refusal :=
  s.on (Mach.mail (.serviceChange p len pg pairs) p len (changeLen pairs) false (Mach.service p (.svcStopChangeStart pg pairs 0) (Mach.svcChange pg pairs)))

/-- START reaches the page, or the action ends with INVALID_FIELD. -/
def Mach.svcStartPage (p : Port) (pg : Page) (m : Mach) : Mach :=
  if ownPort p pg then m.endBg St.invalidField
  else
    let m := m.startPage pg
    if m.pageSt pg == .starting then m else m.endBg St.invalidField

def execServiceStart (p : Port) (len : Nat) (pg : Page) (s : State) : Host.Outcome State Fault Refusal :=
  s.on (Mach.mail (.serviceStart p len pg) p len 8 false fun m => m.service p (.svcStart pg (m.hdr pg).gen) (Mach.svcStartPage p pg))

/-- The three in sequence. -/
def Mach.svcAll (p : Port) (pg : Page) (pairs : List (Nat × Word)) (m : Mach) : Mach :=
  if !(pairs.all fun e => isStaged pg e.1) then m.endBg St.invalidField else m.svcStopPage p pg

def execServiceStopChangeStart (p : Port) (len : Nat) (pg : Page) (pairs : List (Nat × Word)) (s : State) :
    Host.Outcome State Fault Refusal :=
  s.on (Mach.mail (.serviceStopChangeStart p len pg pairs) p len (changeLen pairs) false fun m =>
    m.service p (.svcStopChangeStart pg pairs (m.hdr pg).gen) (Mach.svcAll p pg pairs))

/-! ### RETRAIN (R401, R308, R402) -/

/-- RETRAIN begins on a STOPPED page; any other ends it with INVALID_FIELD. -/
def Mach.retrain (pg : Page) (f : Mach → Mach) (m : Mach) : Mach := if m.pageSt pg != .stopped then m.endBg St.invalidField else f m

def execServiceRetrainFch (p : Port) (len : Nat) (c : Chan) (s : State) : Host.Outcome State Fault Refusal :=
  s.on (Mach.mail (.serviceRetrainFch p len c) p len 8 false (Mach.service p (.svcRetrain (.fch c)) (Mach.retrain (.fch c) fun m =>
    m.setChn c { m.chn c with trained := false })))

def execServiceRetrainDrc (p : Port) (len : Nat) (d : Fin 4) (s : State) : Host.Outcome State Fault Refusal :=
  s.on (Mach.mail (.serviceRetrainDrc p len d) p len 8 false (Mach.service p (.svcRetrain (.drc d)) (Mach.retrain (.drc d) fun m =>
    m.setDram d { m.dram d with trained := false })))

def execServiceRetrainPort (p : Port) (len : Nat) (target : Port) (s : State) : Host.Outcome State Fault Refusal :=
  s.on (Mach.mail (.serviceRetrainPort p len target) p len 8 false (Mach.service p (.svcRetrain (.port target)) fun m =>
    if p == target then m.endBg St.invalidField
    else m.retrain (.port target) fun m => m.updPort target fun x => { x with training := true }))

/-- The windows that step 6 finds again: free values within what passing allows, 64 taps and a window of at least 26 (R181). -/
def Mach.newWindows (m : Mach) : List (Nat × Nat × Nat) :=
  (List.range 16).map fun q =>
    let l := Config.eyeEdge m.free (2 * q) % 38
    let r := l + 26 + Config.eyeEdge m.free (2 * q + 1) % (38 - l)
    centred (l, r)

/-- Deskew (step 6) is a step of the groups that run at 3,600 MT/s. -/
def Mach.deskewed (c : Chan) (m : Mach) : Mach :=
  if (m.chn c).rate = 3 then (m.setChn c { m.chn c with deskew := deskewPasses m.newWindows, windows := m.newWindows }).draw else m

/-- Training fails: at 3,600 MT/s by deskew, and the page stays STOPPED (R401); else the channel is FAULTED (R180). -/
def Mach.fchFails (c : Chan) (m : Mach) : Mach :=
  if (m.chn c).rate = 3 then (m.setChn c { m.chn c with deskew := false }).raise (.fch c) 20 0
  else ((((m.setPageSt (.fch c) .faulted).raise (.fch c) 2 0).raise (.fch c) 16 0).hold (.fch c) false).chanCheck

/-- Steps 4 to 7 on a channel have ended. They wait while the junction trip holds; past its bound RETRAIN ends with INVALID_FIELD
(Table 18.3). -/
def Mach.fchRetrained (c : Chan) (ok : Bool) (m : Mach) : Mach :=
  if m.fl.trip then if ok then m else m.endBg St.invalidField
  else if ok then
    (((m.deskewed c).setChn c { (m.deskewed c).chn c with trained := true }).touch (.fch c)).endBg St.success
  else (m.fchFails c).endBg St.invalidField

/-- A channel that does not train faults, and the controller fails (R307). -/
def Mach.drcRetrained (d : Fin 4) (ok : Bool) (m : Mach) : Mach :=
  if ok then ((m.learnEyes d).touch (.drc d)).endBg St.success
  else ((((m.setPageSt (.drc d) .faulted).raise (.drc d) 2 0).raise (.drc d) 16 0).endBg St.invalidField).fail 2

/-- A retrain ends; that of a port once its link is up or its bound has passed. -/
def Mach.retrainEnd (ok : Bool) (m : Mach) : Mach :=
  match m.adm.bg with
  | some { op := .svcRetrain (.fch c), .. } => m.fchRetrained c ok
  | some { op := .svcRetrain (.drc d), .. } => m.drcRetrained d ok
  | some { op := .svcRetrain (.port _), .. } => m.endBg St.success
  | _ => m

def execRetrainDone (ok : Bool) (s : State) : Host.Outcome State Fault Refusal := s.on (Mach.retrainEnd ok)

/-! ### RETIRE (R231) -/

/-- The retirement waits for its DEFINITION record and the root behind it. -/
def execServiceRetire (p : Port) (len : Nat) (c : Chan) (s : State) : Host.Outcome State Fault Refusal :=
  s.on (Mach.mail (.serviceRetire p len c) p len 8 false (Mach.service p (.svcRetire c) fun m =>
    if m.pageSt (.fch c) != .stopped then m.endBg St.invalidField else m.askDefinition (.retire c)))

/-- The last furrow with a member on a retired channel has been released. -/
def Mach.rebuildOver (m : Mach) : Mach :=
  if !m.fl.rbActive || !m.rebuildLeft.isEmpty then m
  else ((m.updFl fun f => { f with rbActive := false }).touch .ecc).settleDev

def execRebuildComplete (s : State) : Host.Outcome State Fault Refusal := s.on Mach.rebuildOver

/-! ### RECALIBRATE (R349) -/

/-- One sensor's offset in 1/16 °C: outside ±8 °C the old one stays and CALFAIL shows it. -/
def Mach.calibrate (i : Nat) (o : Int) (m : Mach) : Mach :=
  if -128 ≤ o ∧ o < 128 then
    (m.setSens i { m.sens i with cal := some (BitVec.ofInt 8 o) }).updThm fun t => { t with calFail := t.calFail &&& ~~~(bit32 i) }
  else (m.updThm fun t => { t with calFail := t.calFail ||| bit32 i }).raise .thm 16 (BitVec.ofNat 64 i)

/-- The offsets are the outcome of the comparison with the reference junction, one a sensor; the next results are references (R345). -/
def Mach.recalibrate (offsets : List Int) (m : Mach) : Mach :=
  if m.pageSt .thm != .stopped then m.endBg St.invalidField
  else
    let m := m.each (indexed 0 (offsets.take 16)) fun e m => m.calibrate e.1 e.2
    ((m.updThm fun t => { t with sensor := t.sensor.map fun e => (e.1, { e.2 with ref := none }) }).touch .thm).endBg St.success

def execServiceRecalibrate (p : Port) (len : Nat) (offsets : List Int) (s : State) : Host.Outcome State Fault Refusal :=
  s.on (Mach.mail (.serviceRecalibrate p len offsets) p len 8 false (Mach.service p (.svcRetrain .thm) (Mach.recalibrate offsets)))

end Sys2Proof.Machine
end

