-- ==== Sys2Proof/Machine/TwinCmds.lean ====
section
/-! DEFINITION. TWIN_CONTROL and TWIN_TAKEOVER (R382, R393, R394). -/

namespace Sys2Proof.Machine

/-- Does an operation of a volume wait already? -/
def Mach.twinBusy (m : Mach) (v : Vid) : Bool := m.twn.wait.any fun w => w.vol == v

/-- A gated operation on a volume for which none waits. -/
def Mach.twinOp (p : Port) (v : Vid) (f : Mach → Mach) (m : Mach) : Mach :=
  if m.twinBusy v then m.refuse p St.backgroundBusy else f m

/-- PAIR: the expected partner, kept with the persisted features. A partner that is not the expected one is lost. -/
def Mach.pair (p : Port) (serial : BitVec 160) (m : Mach) : Mach :=
  if m.partnerPresent && (List.finRange 64).any fun v => (m.volu v).mirrored then m.refuse p St.invalidField
  else
    let m := if serial != m.twn.expected then m.partnerLost else m
    (m.updTwn fun t => { t with expected := serial, paired := serial != 0, mismatch := false }).askDefinition (.mbox p 0xC050)

def execPair (p : Port) (len : Nat) (serial : BitVec 160) (s : State) : Host.Outcome State Fault Refusal :=
  s.on (Mach.mail (.pair p len serial) p len 40 false (Mach.pair p serial))

/-- MIRROR sends CREATE. -/
def Mach.mirrorCmd (p : Port) (v : Vid) (pkeySlot : Nat) (m : Mach) : Mach :=
  let x := m.volu v
  if x.st != .ready || x.mirrored then m.refuse p St.invalidField
  else if !(m.twn.paired && m.partnerPresent) then m.refuse p St.twinUnavailable
  else
    (m.twnAwait { port := p, op := 1, vol := v, fence := 0, arg := pkeySlot, was := x.twin }).twnCtrl 2 v pkeySlot x.fence 0 x.size
      (layoutBits x.layout1 x.enc)

def execMirror (p : Port) (len : Nat) (vol : Vid) (pkeySlot : Nat) (s : State) : Host.Outcome State Fault Refusal :=
  s.on (Mach.mail (.mirror p len vol pkeySlot) p len 40 false (Mach.twinOp p vol (Mach.mirrorCmd p vol pkeySlot)))

/-- UNMIRROR; a STALE copy whose partner does not hold it mirrored is unmirrored by itself (Table 17.8). -/
def Mach.unmirrorCmd (p : Port) (v : Vid) (m : Mach) : Mach :=
  let x := m.volu v
  if !x.mirrored then m.refuse p St.invalidField
  else if m.twn.lone.contains v && x.twin == .stale then
    ((m.updTwn fun t => { t with lone := t.lone.filter (· != v) }).setVol v x.unmirrored).askDefinition (.mbox p 0xC050)
  else if !x.owner then m.refuse p St.notOwner
  else if !m.partnerPresent then m.refuse p St.twinUnavailable
  else (m.twnAwait { port := p, op := 2, vol := v, fence := 0, arg := 0, was := x.twin }).twnCtrl 9 v 0 x.fence 0 0 0

def execUnmirror (p : Port) (len : Nat) (vol : Vid) (s : State) : Host.Outcome State Fault Refusal :=
  s.on (Mach.mail (.unmirror p len vol) p len 40 false (Mach.twinOp p vol (Mach.unmirrorCmd p vol)))

/-- DEMOTE: this controller becomes mirror in STALE at the new epoch; the command completes when that is durable. -/
def Mach.demoteCmd (p : Port) (v : Vid) (fence : Nat) (m : Mach) : Mach :=
  let x := m.volu v
  if !x.mirrored || decide (fence ≤ x.fence) then m.refuse p St.invalidField
  else if !x.owner then m.refuse p St.notOwner
  else
    (m.twnAwait { port := p, op := 3, vol := v, fence := fence, arg := 0, was := x.twin }).pendEpoch v fence false .stale

def execDemote (p : Port) (len : Nat) (vol : Vid) (fence : Nat) (s : State) : Host.Outcome State Fault Refusal :=
  s.on (Mach.mail (.demote p len vol fence) p len 40 false (Mach.twinOp p vol (Mach.demoteCmd p vol fence)))

/-- TWIN_TAKEOVER: directly with the partner lost, else by the handover. -/
def Mach.takeover (p : Port) (v : Vid) (force : Bool) (fence : Nat) (m : Mach) : Mach :=
  let x := m.volu v
  if !x.mirrored || decide (fence ≤ x.fence) then m.refuse p St.invalidField
  else if (x.twin == .resyncing || x.twin == .stale) && !force then m.refuse p St.twinUnavailable
  else
    let m := m.twnAwait { port := p, op := 4, vol := v, fence := fence, arg := 0, was := x.twin }
    if m.partnerPresent then (m.setVol v { x with twin := .handover }).twnCtrl 4 v 0 fence 0 0 0
    else m.pendEpoch v fence true .lost

def execTwinTakeover (p : Port) (len : Nat) (vol : Vid) (force : Bool) (fence : Nat) (s : State) : Host.Outcome State Fault Refusal :=
  s.on (Mach.mail (.twinTakeover p len vol force fence) p len 16 false (Mach.twinOp p vol (Mach.takeover p vol force fence)))

end Sys2Proof.Machine
end

