-- ==== Sys2Proof/Machine/VolumeCmds.lean ====
section
/-! DEFINITION. VOLUME_CREATE, VOLUME_FORMAT, VOLUME_DELETE and their repetition (R137 to R140, R21, R65). -/

namespace Sys2Proof.Machine

/-- A volume command: gated by the first row of Table 06.8, refused while a background operation runs (R86), then by the table's other
rows; accepted, it goes on in the background. -/
def Mach.volCmd (p : Port) (opcode : Nat) (op : BgOp) (refusal : Mach → Option Nat) (accept : Mach → Mach) (m : Mach) : Mach :=
  if m.volGated then m.refuse p St.volumeNotReady
  else if m.adm.bg.isSome then m.refuse p St.backgroundBusy
  else match refusal m with
    | some e => m.refuse p e
    | none => m.startBg p op opcode accept

def execVolumeCreate (p : Port) (len : Nat) (x : VolArgs) (s : State) : Host.Outcome State Fault Refusal :=
  s.on (Mach.mail (.volumeCreate p len x) p len 16 true fun m =>
    m.checkPopulation.volCmd p 0xC010 (.volCreate x.vol) (fun m => m.createRefusal x) (Mach.createAccepted x))

def execVolumeFormat (p : Port) (len : Nat) (x : VolArgs) (s : State) : Host.Outcome State Fault Refusal :=
  s.on (Mach.mail (.volumeFormat p len x) p len 16 true fun m =>
    m.checkPopulation.volCmd p 0xC012 (.volFormat x.vol) (fun m => m.formatRefusal x) (Mach.formatAccepted p x))

def execVolumeDelete (p : Port) (len : Nat) (vol : Vid) (s : State) : Host.Outcome State Fault Refusal :=
  s.on (Mach.mail (.volumeDelete p len vol) p len 1 false (Mach.volCmd p 0xC011 (.volDelete vol) (fun m => m.deleteRefusal vol) (Mach.deleteAccepted p vol)))

/-- A volume that a start-up found FORMATTING has its command repeated, as an internal operation (R140). -/
def Mach.volRepeat (v : Vid) (m : Mach) : Mach := if m.ioUp && (m.volu v).internal then m.volWork v else m

def execVolumeRepeat (vol : Vid) (s : State) : Host.Outcome State Fault Refusal := s.on (Mach.volRepeat vol)

end Sys2Proof.Machine
end

