-- ==== Sys2Proof/Machine/MailRun.lean ====
section
/-! DEFINITION. The mailbox commands that wait their turn (R86, R144): when the one in progress ends, the pause is over or firmware runs
again, the next is taken up in the order the doorbells were rung. Below, the commands that can make room for one. -/

namespace Sys2Proof.Machine

/-- A mailbox command by its meaning; any other command is none. -/
def mailExec (i : Instr) (s : State) : Host.Outcome State Fault Refusal :=
  match i with
  | .getEventRecords p log => execGetEventRecords p log s
  | .clearEventRecords p log all handles => execClearEventRecords p log all handles s
  | .getFwInfo p => execGetFwInfo p s
  | .getSupportedLogs p => execGetSupportedLogs p s
  | .getLog p cel off length => execGetLog p cel off length s
  | .identifyMemoryDevice p => execIdentifyMemoryDevice p s
  | .getHealthInfo p => execGetHealthInfo p s
  | .getPoisonList p dpa length => execGetPoisonList p dpa length s
  | .unsupportedOpcode p opcode => execUnsupportedOpcode p opcode s
  | .invalidVendorOpcode p opcode => execInvalidVendorOpcode p opcode s
  | .transferFwFull p slot length img => execTransferFwFull p slot length img s
  | .transferFwInitiate p slot length => execTransferFwInitiate p slot length s
  | .transferFwContinue p slot off length => execTransferFwContinue p slot off length s
  | .transferFwEnd p slot off length img => execTransferFwEnd p slot off length img s
  | .transferFwAbort p => execTransferFwAbort p s
  | .activateFwNextReset p slot => execActivateFwNextReset p slot s
  | .activateFwOnline p slot => execActivateFwOnline p slot s
  | .queueCreate p len qid depth cls crc sqBase cqBase => execQueueCreate p len qid depth cls crc sqBase cqBase s
  | .queueDelete p len qid => execQueueDelete p len qid s
  | .abort p len tag => execAbort p len tag s
  | .identifyController p len => execIdentifyController p len s
  | .getLogExt p len logId selector off length => execGetLogExt p len logId selector off length s
  | .getFeature p len fid selector => execGetFeature p len fid selector s
  | .setFeature p len fid selector v => execSetFeature p len fid selector v s
  | .setHoldupUs p len v => execSetHoldupUs p len v s
  | .setServiceKey p len k => execSetServiceKey p len k s
  | .setSvCommit p len v => execSetSvCommit p len v s
  | .setVolumeRo p len vol v => execSetVolumeRo p len vol v s
  | .volumeCreate p len x => execVolumeCreate p len x s
  | .volumeFormat p len x => execVolumeFormat p len x s
  | .volumeDelete p len vol => execVolumeDelete p len vol s
  | .serviceUnlockChallenge p len => execServiceUnlockChallenge p len s
  | .serviceUnlockSignature p len sig => execServiceUnlockSignature p len sig s
  | .serviceUnlockRelock p len => execServiceUnlockRelock p len s
  | .serviceStop p len pg => execServiceStop p len pg s
  | .serviceChange p len pg pairs => execServiceChange p len pg pairs s
  | .serviceStart p len pg => execServiceStart p len pg s
  | .serviceStopChangeStart p len pg pairs => execServiceStopChangeStart p len pg pairs s
  | .serviceRetrainFch p len c => execServiceRetrainFch p len c s
  | .serviceRetrainDrc p len d => execServiceRetrainDrc p len d s
  | .serviceRetrainPort p len target => execServiceRetrainPort p len target s
  | .serviceRetire p len c => execServiceRetire p len c s
  | .serviceRecalibrate p len offsets => execServiceRecalibrate p len offsets s
  | .getTransport p len => execGetTransport p len s
  | .importKey p len slot point wrapped => execImportKey p len slot point wrapped s
  | .keyRotate p len slot => execKeyRotate p len slot s
  | .keyRetire p len slot => execKeyRetire p len slot s
  | .pair p len serial => execPair p len serial s
  | .mirror p len vol pkeySlot => execMirror p len vol pkeySlot s
  | .unmirror p len vol => execUnmirror p len vol s
  | .demote p len vol fence => execDemote p len vol fence s
  | .twinTakeover p len vol force fence => execTwinTakeover p len vol force fence s
  | .define p len region lot vol base size => execDefine p len region lot vol base size s
  | .delete p len region => execDelete p len region s
  | .setLot p len region lot => execSetLot p len region lot s
  | _ => .next s

def Mach.after (m : Mach) (o : Host.Outcome State Fault Refusal) : Mach :=
  match o with
  | .next t => t.m
  | _ => m

/-- The waiting command that is taken up next: the oldest whose port's mailbox is ready, once none is in progress and doorbells are not
paused. -/
def Mach.mailNext (m : Mach) : Option (Port × Instr) :=
  if m.mailboxPaused || m.foreground then none else m.adm.mboxQ.find? fun e => m.mailboxReady e.1

/-- It is taken from the queue and runs. -/
def Mach.mailStep (m : Mach) : Mach :=
  match m.mailNext with
  | none => m
  | some e =>
    let rest := m.adm.mboxQ.erase e
    let m := m.updAdm fun a => { a with mboxQ := [] }
    (m.after (mailExec e.2 { m := m })).updAdm fun a => { a with mboxQ := a.mboxQ ++ rest }

/-- As many commands as can run do. -/
def Mach.mailRun (m : Mach) : Mach := m.each m.adm.mboxQ fun _ => Mach.mailStep

/-- What management firmware does with a CTRL frame; any other command is none. -/
def ctlExec (i : Instr) : Mach → Mach :=
  match i with
  | .volstate _ vol fence mirrored owner mapValid state size => Mach.volstateIn vol fence mirrored owner mapValid state.val size
  | .rsmap _ vol first dirty => Mach.rsmapIn vol first dirty
  | .ctrlCreate _ vol keySlot fence size layout1 enc => Mach.createIn vol fence (createArgs vol keySlot size layout1 enc)
  | .result _ vol status => Mach.resultIn vol status.toNat
  | .take _ vol fence => Mach.takeIn vol fence
  | .takeAck _ vol fence => Mach.takeAckIn vol fence
  | .ctrlFormat _ vol layout1 enc keySlot => Mach.formatIn vol (createArgs vol keySlot 0 layout1 enc)
  | .ctrlDelete _ vol => Mach.deleteIn vol
  | .ctrlUnmirror _ vol => Mach.unmirrorIn vol
  | _ => id

/-- Management firmware takes the next packet of PFF2. -/
def Mach.ctlStep (m : Mach) : Mach :=
  match m.twn.ctlIn with
  | [] => m
  | i :: is =>
    if m.dev.fwRunning && m.running (.pff 2) then
      let f := m.fifo 2
      let ws := if f.vis.isEmpty then f.hidden.headD [] else f.vis.map (·.1) |>.take (headLen f.vis)
      let f' := if f.vis.isEmpty then { f with hidden := f.hidden.drop 1 } else { f with vis := dropPacket f.vis }
      ctlExec i ((m.setFifo 2 { f' with last := ws.getLastD 0, eop := true }).updTwn fun t => { t with ctlIn := is })
    else m

/-- CTRL frames that waited for firmware or for their packet FIFO go on. -/
def Mach.ctlRun (m : Mach) : Mach :=
  let out := m.twn.ctlOut
  let m := (m.updTwn fun t => { t with ctlOut := [] }).each out Mach.twnCtl
  m.each m.twn.ctlIn fun _ => Mach.ctlStep

/-- As `State.on`, for a command after which a waiting mailbox command or CTRL frame may run. -/
def State.onMail (s : State) (f : Mach → Mach) : Host.Outcome State Fault Refusal := s.on fun m => (f m).ctlRun.mailRun

def execTwinLinkDown (s : State) : Host.Outcome State Fault Refusal :=
  s.onMail fun m => (m.updTwn fun t => { t with up := false, crcRun := 0 }).partnerLost

def execFrameAlignmentLoss (s : State) : Host.Outcome State Fault Refusal := s.onMail Mach.alignmentLost

def execHeartbeat (h : FrameHdr) (serial : BitVec 160) (txStamp echo now : Word) (s : State) : Host.Outcome State Fault Refusal :=
  s.onMail (Mach.rxPlain h (Mach.heartbeatIn serial txStamp echo now))

def execResult (h : FrameHdr) (vol : Vid) (status : BitVec 16) (s : State) : Host.Outcome State Fault Refusal :=
  s.onMail (Mach.rxCtl (.result h vol status) h [3, vol.val, status.toNat] (Mach.resultIn vol status.toNat))

def execPartnerLossTimeout (s : State) : Host.Outcome State Fault Refusal := s.onMail Mach.partnerLost

def execFrameResendTimeout (s : State) : Host.Outcome State Fault Refusal := s.onMail Mach.resendAll

def execHandoverTimeout (vol : Vid) (s : State) : Host.Outcome State Fault Refusal := s.onMail (Mach.handoverOver vol)

def execHeadlandRecordDurable (s : State) : Host.Outcome State Fault Refusal := s.onMail Mach.headlandDurable

def execQueueDeleteEnd (qid : Fin 256) (s : State) : Host.Outcome State Fault Refusal := s.onMail (Mach.deleteEnd qid)

def execAbortDecision (s : State) : Host.Outcome State Fault Refusal := s.onMail Mach.abortDecide

def execHitlessSwitchReady (s : State) : Host.Outcome State Fault Refusal := s.onMail Mach.hitlessReady

def execHitlessSwitchRollback (s : State) : Host.Outcome State Fault Refusal := s.onMail Mach.hitlessRollback

def execPageStartingEnd (p : Page) (trained : Bool) (s : State) : Host.Outcome State Fault Refusal :=
  s.onMail fun m => (m.startingEnd p trained).svcPoll

def execPageStop (a : Agent) (p : Page) (s : State) : Host.Outcome State Fault Refusal := s.onMail (Mach.pageCmd a p Mach.stopPage)

def execBlockFault (p : Page) (parity : Bool) (s : State) : Host.Outcome State Fault Refusal :=
  s.onMail fun m => (m.blockFault p parity).svcPoll

def execPllLossOfLock (p : Pll) (s : State) : Host.Outcome State Fault Refusal :=
  s.onMail fun m => (m.pllLoss p).svcPoll

def execPowerDomainOff (a : Agent) (d : Fin 64) (s : State) : Host.Outcome State Fault Refusal := s.onMail (Mach.domOff a d.val)

def execPerstNAssert (p : Port) (s : State) : Host.Outcome State Fault Refusal := s.onMail (Mach.perstAssert p)

def execLinkHotReset (p : Port) (s : State) : Host.Outcome State Fault Refusal := s.onMail (Mach.hotReset p)

def execLinkUp (p : Port) (width speed : Nat) (cxl rev : Bool) (s : State) : Host.Outcome State Fault Refusal :=
  s.onMail (Mach.linkUp p width speed cxl rev)

def execD3hotExit (p : Port) (s : State) : Host.Outcome State Fault Refusal := s.onMail (Mach.setD3 p false)

def execManagementFirmwareStart (s : State) : Host.Outcome State Fault Refusal := s.onMail Mach.firmwareStart

def execRegisterWrite (a : Agent) (off width : Nat) (v : BitVec 64) (s : State) : Host.Outcome State Fault Refusal :=
  s.onMail (Mach.busWrite a off width v)

end Sys2Proof.Machine
end

