-- ==== Sys2Proof/Machine/Place.lean ====
section
/-! DEFINITION. Decoding beyond the channel, placement and its limits: the rows from SOFT_DECODE_DONE to MAP_RECOVERY_END
(chapters 09, 10, 14, 20). -/

namespace Sys2Proof.Machine

/-- R218: an engine finishes; only the first eight of the queue are on an engine. -/
def Mach.softDone (task : Nat) (ok : Bool) (k : CwCheck) (m : Mach) : Mach :=
  match m.task task with
  | none => m
  | some t =>
    if t.stage != 3 || !(m.fl.softTasks.take 8).contains task then m
    else
      let m := m.updFl fun f => { f with softTasks := f.softTasks.filter (· != task) }
      if ok && !(m.cwAt t.addr).gone then ((m.bump64 Reg.ECC_SOFT_LO).flagRefresh (m.furrowOfAddr t.addr)).decoded t k
      else m.escalate t

def execSoftDecodeDone (task : Nat) (ok : Bool) (k : CwCheck) (s : State) : Host.Outcome State Fault Refusal :=
  s.on (Mach.softDone task ok k)

/-- R225 to R227: with the last peer read arrived the codeword is rebuilt and checked, or the read ends unrecovered. A group whose
bytes do not give back what was stored fails MCRC. -/
def Mach.combine (task : Nat) (k : CwCheck) (m : Mach) : Mach :=
  match m.task task with
  | none => m
  | some t =>
    if t.stage != 4 || t.grp.any (fun g => !g.settled) then m
    else match t.grp.bind Group.rebuilt with
      | some b => (m.flagRefresh (m.furrowOfAddr t.addr)).checkCw t (if b == (m.cwAt t.addr).body then k else .badMetadata)
      | none => m.stage4Fails t

def execReconstructionCombine (task : Nat) (k : CwCheck) (s : State) : Host.Outcome State Fault Refusal :=
  s.on (Mach.combine task k)

/-- R240: an open version reaches SOW_SEALUS µs. -/
def execVersionSealAge (version : Nat) (s : State) : Host.Outcome State Fault Refusal :=
  s.on fun m => m.when m.sealAllowed (Mach.seal version)

/-- Is SOW_BUFUSED at or above SOW_HIWAT percent of SOW_BUFCAP (R240)? -/
def Mach.atHiwat (m : Mach) : Bool := decide (m.rdN Reg.SOW_HIWAT * m.bufCap ≤ 100 * m.bufUsed)

/-- R240: the oldest open version is sealed while the buffer is at the mark. -/
def Mach.hiwatSeal (m : Mach) : Mach :=
  if m.atHiwat && m.sealAllowed then
    match m.buf.vers.find? fun x => x.st == .opn with
    | some x => m.seal x.id
    | none => m
  else m

def execBufferHiwatSeal (s : State) : Host.Outcome State Fault Refusal := s.on Mach.hiwatSeal

/-- R242: the reads of a sealed partial version have ended. -/
def execRmwReadDone (version : Nat) (s : State) : Host.Outcome State Fault Refusal :=
  s.on fun m => (m.finishVer version).settleCovers

def execFurrowOpen (pos : Fin 8) (s : State) : Host.Outcome State Fault Refusal := s.on (Mach.openFurrow pos)

def execSowerPageProgram (pos : Fin 8) (faulty : List (Fin 4)) (s : State) : Host.Outcome State Fault Refusal :=
  s.on (Mach.programPage pos faulty)

/-- R328: the counter is at 2^64 − 2^32 or above. -/
def Mach.exhaustSlot (slot : Nat) (m : Mach) : Mach :=
  let x := m.kslot slot
  if x.st == .loaded && decide (nonceSoft ≤ x.nonce) then
    ((m.setKslot slot { x with st := .exhausted }).touch .key).raise .key 16 (BitVec.ofNat 64 slot)
  else m

def execSlotExhausted (slot : Nat) (s : State) : Host.Outcome State Fault Refusal := s.on (Mach.exhaustSlot slot)

/-- R328: fewer than the four values of an MU are left below 2^64 − 1. -/
def Mach.haltSlot (slot : Nat) (m : Mach) : Mach :=
  let x := m.kslot slot
  if (x.st == .loaded || x.st == .exhausted) && decide (nonceHard < x.nonce + 4) then
    ((m.setKslot slot { x with st := .halted }).touch .key).raise .key 17 (BitVec.ofNat 64 slot)
  else m

def execSlotHalted (slot : Nat) (s : State) : Host.Outcome State Fault Refusal := s.on (Mach.haltSlot slot)

/-- R424: the integrity key's counter reaches its first limit, with a CRIT. -/
def Mach.exhaustIntegrity (m : Mach) : Mach :=
  let x := m.key.integ
  if x.st != .exhausted && decide (nonceSoft ≤ x.nonce) then
    (m.updKey fun k => { k with integ := { x with st := .exhausted } }).raiseAs .crit .key 16 (BitVec.ofNat 64 integSlot)
  else m

def execIntegrityKeyExhausted (s : State) : Host.Outcome State Fault Refusal := s.on Mach.exhaustIntegrity

/-- R422: the next WSN is at 2^63 or the next FSN at 2^39. -/
def Mach.sequenceLimit (m : Mach) : Mach :=
  if m.buf.limit || (decide (m.buf.wsn < 2 ^ 63) && decide (m.buf.fsn < 2 ^ 39)) then m
  else ((m.updBuf fun b => { b with limit := true }).raise .map 18 0).allReadOnly

def execSequenceLimit (s : State) : Host.Outcome State Fault Refusal := s.on Mach.sequenceLimit

/-! ### The end of a segment recovery (R251) -/

/-- Insert a waiting update by ascending WSN. -/
def insertUpd (x : WaitUpd) : List WaitUpd → List WaitUpd
  | [] => [x]
  | y :: ys => if x.wsn < y.wsn then x :: y :: ys else y :: insertUpd x ys

/-- One update that waited. -/
def Mach.applyUpd (w : WaitUpd) (m : Mach) : Mach :=
  match w.cas with
  | some src => m.casCopy w.entry src w.addr
  | none =>
    if w.wsn < m.installed w.entry then (m.bump Reg.MAP_SUPERSEDED).dropVers w.ver.toList else m.installAt w.entry w.wsn w.addr w.ver

/-- Missing LBs of sealed versions that waited for the segment are sought again (R242). -/
def Mach.retryRmw (m : Mach) : Mach :=
  m.each (m.buf.vers.filter fun x => x.st == .sealed && !x.rmwTodo.isEmpty) fun x m =>
    let reading (lb : Nat) : Bool := m.fl.tasks.any fun t => t.who.contains (.rmw x.id lb)
    let m := m.each (x.rmwTodo.filter fun lb => !reading lb) fun lb m =>
      match m.ver x.id with
      | some y => (m.setVer { y with rmwTodo := y.rmwTodo.filter (· != lb) }).fillLb x.id lb
      | none => m
    m.finishVer x.id

/-- Volumes with a chunk in a map segment. -/
def Mach.volsIn (m : Mach) (seg : Nat) : List Vid :=
  (List.finRange 64).filter fun v => (m.volu v).chunks.any fun c =>
    decide (2 ^ 25 * seg < 5 * 65536 * (c + 1) ∧ 5 * 65536 * c < 2 ^ 25 * (seg + 1))

def Mach.recoveryEnd (ok : Bool) (m : Mach) : Mach :=
  match m.vol.recov with
  | none => m
  | some seg =>
    let l := m.vol.waiting.foldr insertUpd []
    let m := (m.updVol fun x => { x with recov := none, waiting := [] }).touch .map
    if ok then ((m.each l Mach.applyUpd).retryRmw).settleCovers
    else if m.mapSegs ≤ seg then m.fail 5
    else (((m.dropVers (l.filterMap (·.ver))).each (m.volsIn seg) Mach.faultVol).raise .map 17 (BitVec.ofNat 64 seg)).retryRmw.settleCovers

def execMapRecoveryEnd (ok : Bool) (s : State) : Host.Outcome State Fault Refusal := s.on (Mach.recoveryEnd ok)

end Sys2Proof.Machine
end

