-- ==== Sys2Proof/Machine/Tap.lean ====
section
/-! DEFINITION. The TAP (R447, Table 22.9): the instruction in effect, and what TDO then carries. No instruction reaches internal
state, registers or keys. -/

namespace Sys2Proof.Machine

/-- IDCODE: stepping A2, part 0x7140, the maker's identity, 1. -/
def idcodeWord : Word := 0x27140001 ||| (Config.jep106.setWidth 32 <<< 1)

/-- An instruction is loaded; TDO then carries the first 32 bits of its data register: the identity, the boundary register, or the
bypass bit. -/
def Mach.tapLoad (i : TapIr) (m : Mach) : Mach :=
  let m := { m with tap := i }
  match i with
  | .idcode => m.send (.tdo i idcodeWord)
  | .sample => (m.send (.tdo i (Config.boundary m.free))).draw
  | .extest => (m.send (.tdo i (Config.boundary m.free))).draw
  | .highz => m.send (.tdo i 0)
  | .clamp => m.send (.tdo i 0)
  | .bypass => m.send (.tdo i 0)

/-- An instruction that is in effect only while RESET_N is low; otherwise it acts as BYPASS. -/
def Mach.tapInReset (i : TapIr) (m : Mach) : Mach := m.tapLoad (if m.dev.resetN then .bypass else i)

def execIdcode (s : State) : Host.Outcome State Fault Refusal := s.on (Mach.tapLoad .idcode)
def execSamplePreload (s : State) : Host.Outcome State Fault Refusal := s.on (Mach.tapLoad .sample)
def execExtest (s : State) : Host.Outcome State Fault Refusal := s.on (Mach.tapInReset .extest)
def execHighz (s : State) : Host.Outcome State Fault Refusal := s.on (Mach.tapInReset .highz)
def execClamp (s : State) : Host.Outcome State Fault Refusal := s.on (Mach.tapInReset .clamp)
def execBypass (s : State) : Host.Outcome State Fault Refusal := s.on (Mach.tapLoad .bypass)

end Sys2Proof.Machine
end

