-- ==== Sys2Proof/Machine/Dispatch.lean ====
section
/-! DEFINITION. The dispatch: one arm per command of the table. -/

namespace Sys2Proof.Machine

def exec (i : Instr) (s : State) : Host.Outcome State Fault Refusal :=
  match i with
  | .pageStart a p => Sys2Proof.Machine.execPageStart a p s
  | .pageStop a p => Sys2Proof.Machine.execPageStop a p s
  | .pageClearFault a p => Sys2Proof.Machine.execPageClearFault a p s
  | .pageStartingEnd p trained => Sys2Proof.Machine.execPageStartingEnd p trained s
  | .pageStoppingEnd p => Sys2Proof.Machine.execPageStoppingEnd p s
  | .blockFault p parity => Sys2Proof.Machine.execBlockFault p parity s
  | .registerWrite a off width v => Sys2Proof.Machine.execRegisterWrite a off width v s
  | .rcRegisterRead a off width => Sys2Proof.Machine.execRcRegisterRead a off width s
  | .peakFieldRead a off width => Sys2Proof.Machine.execPeakFieldRead a off width s
  | .pfPush src n w frameOk => Sys2Proof.Machine.execPfPush src n w frameOk s
  | .pfCtrlEnd src n => Sys2Proof.Machine.execPfCtrlEnd src n s
  | .pfCtrlAbort src n => Sys2Proof.Machine.execPfCtrlAbort src n s
  | .pfCtrlDrop a n => Sys2Proof.Machine.execPfCtrlDrop a n s
  | .pfDataRead a n width => Sys2Proof.Machine.execPfDataRead a n width s
  | .pfPushStallComplete n => Sys2Proof.Machine.execPfPushStallComplete n s
  | .packetVisible n => Sys2Proof.Machine.execPacketVisible n s
  | .powerOn straps => Sys2Proof.Machine.execPowerOn straps s
  | .pwrgdFall => Sys2Proof.Machine.execPwrgdFall s
  | .resetNAssert => Sys2Proof.Machine.execResetNAssert s
  | .resetNDeassert straps => Sys2Proof.Machine.execResetNDeassert straps s
  | .smbusImmediateReset pecOk => Sys2Proof.Machine.execSmbusImmediateReset pecOk s
  | .smbusOrderlyReset pecOk => Sys2Proof.Machine.execSmbusOrderlyReset pecOk s
  | .smbusStatusWindow => Sys2Proof.Machine.execSmbusStatusWindow s
  | .watchdogExpiry => Sys2Proof.Machine.execWatchdogExpiry s
  | .devWdogWrite a v => Sys2Proof.Machine.execDevWdogWrite a v s
  | .slotCheck r => Sys2Proof.Machine.execSlotCheck r s
  | .managementFirmwareStart => Sys2Proof.Machine.execManagementFirmwareStart s
  | .dramTrainingDone d ok => Sys2Proof.Machine.execDramTrainingDone d ok s
  | .flashTrainingDone c t => Sys2Proof.Machine.execFlashTrainingDone c t s
  | .devBootctlGo a => Sys2Proof.Machine.execDevBootctlGo a s
  | .headlandLoadDone unreadable => Sys2Proof.Machine.execHeadlandLoadDone unreadable s
  | .replayDone unreadable => Sys2Proof.Machine.execReplayDone unreadable s
  | .interruptedEraseReerase c r b => Sys2Proof.Machine.execInterruptedEraseReerase c r b s
  | .shutdownRequest a => Sys2Proof.Machine.execShutdownRequest a s
  | .shutdownPhaseEnd => Sys2Proof.Machine.execShutdownPhaseEnd s
  | .perstNAssert p => Sys2Proof.Machine.execPerstNAssert p s
  | .perstNDeassert p => Sys2Proof.Machine.execPerstNDeassert p s
  | .linkHotReset p => Sys2Proof.Machine.execLinkHotReset p s
  | .linkUp p width speed cxl rev => Sys2Proof.Machine.execLinkUp p width speed cxl rev s
  | .linkDown p => Sys2Proof.Machine.execLinkDown p s
  | .pfailNAssert => Sys2Proof.Machine.execPfailNAssert s
  | .programsInFlightEnd => Sys2Proof.Machine.execProgramsInFlightEnd s
  | .dumpEnd complete => Sys2Proof.Machine.execDumpEnd complete s
  | .pfailNRelease => Sys2Proof.Machine.execPfailNRelease s
  | .hdmDecoderCommit p k base size skip lock => Sys2Proof.Machine.execHdmDecoderCommit p k base size skip lock s
  | .cxlMemRead p hpa e => Sys2Proof.Machine.execCxlMemRead p hpa e s
  | .cxlMemWrite p hpa d e => Sys2Proof.Machine.execCxlMemWrite p hpa d e s
  | .cxlMemPoisonedWrite p hpa e => Sys2Proof.Machine.execCxlMemPoisonedWrite p hpa e s
  | .capholdRelease => Sys2Proof.Machine.execCapholdRelease s
  | .viralReceived p => Sys2Proof.Machine.execViralReceived p s
  | .gpfPhase1 p => Sys2Proof.Machine.execGpfPhase1 p s
  | .gpfPhase2 p => Sys2Proof.Machine.execGpfPhase2 p s
  | .d3hotEntry p => Sys2Proof.Machine.execD3hotEntry p s
  | .d3hotExit p => Sys2Proof.Machine.execD3hotExit p s
  | .doeDiscovery p index => Sys2Proof.Machine.execDoeDiscovery p index s
  | .cdatTableAccess p handle => Sys2Proof.Machine.execCdatTableAccess p handle s
  | .getCertificate p off length => Sys2Proof.Machine.execGetCertificate p off length s
  | .challenge p summary nonce => Sys2Proof.Machine.execChallenge p summary nonce s
  | .getMeasurements p index sign nonce => Sys2Proof.Machine.execGetMeasurements p index sign nonce s
  | .getEventRecords p log => Sys2Proof.Machine.execGetEventRecords p log s
  | .clearEventRecords p log all handles => Sys2Proof.Machine.execClearEventRecords p log all handles s
  | .getFwInfo p => Sys2Proof.Machine.execGetFwInfo p s
  | .getSupportedLogs p => Sys2Proof.Machine.execGetSupportedLogs p s
  | .getLog p cel off length => Sys2Proof.Machine.execGetLog p cel off length s
  | .identifyMemoryDevice p => Sys2Proof.Machine.execIdentifyMemoryDevice p s
  | .getHealthInfo p => Sys2Proof.Machine.execGetHealthInfo p s
  | .getPoisonList p dpa length => Sys2Proof.Machine.execGetPoisonList p dpa length s
  | .unsupportedOpcode p opcode => Sys2Proof.Machine.execUnsupportedOpcode p opcode s
  | .invalidVendorOpcode p opcode => Sys2Proof.Machine.execInvalidVendorOpcode p opcode s
  | .transferFwFull p slot length img => Sys2Proof.Machine.execTransferFwFull p slot length img s
  | .transferFwInitiate p slot length => Sys2Proof.Machine.execTransferFwInitiate p slot length s
  | .transferFwContinue p slot off length => Sys2Proof.Machine.execTransferFwContinue p slot off length s
  | .transferFwEnd p slot off length img => Sys2Proof.Machine.execTransferFwEnd p slot off length img s
  | .transferFwAbort p => Sys2Proof.Machine.execTransferFwAbort p s
  | .activateFwNextReset p slot => Sys2Proof.Machine.execActivateFwNextReset p slot s
  | .activateFwOnline p slot => Sys2Proof.Machine.execActivateFwOnline p slot s
  | .hitlessSwitchPause => Sys2Proof.Machine.execHitlessSwitchPause s
  | .hitlessSwitchReady => Sys2Proof.Machine.execHitlessSwitchReady s
  | .hitlessSwitchRollback => Sys2Proof.Machine.execHitlessSwitchRollback s
  | .sqTailDoorbell a qid v => Sys2Proof.Machine.execSqTailDoorbell a qid v s
  | .cqHeadDoorbell a qid v => Sys2Proof.Machine.execCqHeadDoorbell a qid v s
  | .fetchArbitration => Sys2Proof.Machine.execFetchArbitration s
  | .fetchReadReturn id entries => Sys2Proof.Machine.execFetchReadReturn id entries s
  | .fetchReadFailure id => Sys2Proof.Machine.execFetchReadFailure id s
  | .commandAdmission => Sys2Proof.Machine.execCommandAdmission s
  | .write slot => Sys2Proof.Machine.execWrite slot s
  | .read slot lost => Sys2Proof.Machine.execRead slot lost s
  | .flush slot => Sys2Proof.Machine.execFlush slot s
  | .deallocate slot => Sys2Proof.Machine.execDeallocate slot s
  | .verify slot lost => Sys2Proof.Machine.execVerify slot lost s
  | .light slot lost => Sys2Proof.Machine.execLight slot lost s
  | .douse slot lost => Sys2Proof.Machine.execDouse slot lost s
  | .persist slot lost => Sys2Proof.Machine.execPersist slot lost s
  | .sglListReadReturn slot ok elems => Sys2Proof.Machine.execSglListReadReturn slot ok elems s
  | .writeDataArrival slot d => Sys2Proof.Machine.execWriteDataArrival slot d s
  | .writeDataReadFailure slot => Sys2Proof.Machine.execWriteDataReadFailure slot s
  | .writeTransferResume slot => Sys2Proof.Machine.execWriteTransferResume slot s
  | .queueCreate p len qid depth cls crc sqBase cqBase => Sys2Proof.Machine.execQueueCreate p len qid depth cls crc sqBase cqBase s
  | .queueDelete p len qid => Sys2Proof.Machine.execQueueDelete p len qid s
  | .queueDeleteEnd qid => Sys2Proof.Machine.execQueueDeleteEnd qid s
  | .abort p len tag => Sys2Proof.Machine.execAbort p len tag s
  | .abortDecision => Sys2Proof.Machine.execAbortDecision s
  | .identifyController p len => Sys2Proof.Machine.execIdentifyController p len s
  | .getLogExt p len logId selector off length => Sys2Proof.Machine.execGetLogExt p len logId selector off length s
  | .getFeature p len fid selector => Sys2Proof.Machine.execGetFeature p len fid selector s
  | .setFeature p len fid selector v => Sys2Proof.Machine.execSetFeature p len fid selector v s
  | .setHoldupUs p len v => Sys2Proof.Machine.execSetHoldupUs p len v s
  | .setServiceKey p len k => Sys2Proof.Machine.execSetServiceKey p len k s
  | .setSvCommit p len v => Sys2Proof.Machine.execSetSvCommit p len v s
  | .setVolumeRo p len vol v => Sys2Proof.Machine.execSetVolumeRo p len vol v s
  | .volumeCreate p len x => Sys2Proof.Machine.execVolumeCreate p len x s
  | .volumeFormat p len x => Sys2Proof.Machine.execVolumeFormat p len x s
  | .volumeDelete p len vol => Sys2Proof.Machine.execVolumeDelete p len vol s
  | .volumeRepeat vol => Sys2Proof.Machine.execVolumeRepeat vol s
  | .serviceUnlockChallenge p len => Sys2Proof.Machine.execServiceUnlockChallenge p len s
  | .serviceUnlockSignature p len sig => Sys2Proof.Machine.execServiceUnlockSignature p len sig s
  | .signatureLockout => Sys2Proof.Machine.execSignatureLockout s
  | .serviceUnlockRelock p len => Sys2Proof.Machine.execServiceUnlockRelock p len s
  | .serviceStop p len pg => Sys2Proof.Machine.execServiceStop p len pg s
  | .serviceChange p len pg pairs => Sys2Proof.Machine.execServiceChange p len pg pairs s
  | .serviceStart p len pg => Sys2Proof.Machine.execServiceStart p len pg s
  | .serviceStopChangeStart p len pg pairs => Sys2Proof.Machine.execServiceStopChangeStart p len pg pairs s
  | .serviceRetrainFch p len c => Sys2Proof.Machine.execServiceRetrainFch p len c s
  | .serviceRetrainDrc p len d => Sys2Proof.Machine.execServiceRetrainDrc p len d s
  | .serviceRetrainPort p len target => Sys2Proof.Machine.execServiceRetrainPort p len target s
  | .retrainDone ok => Sys2Proof.Machine.execRetrainDone ok s
  | .serviceRetire p len c => Sys2Proof.Machine.execServiceRetire p len c s
  | .rebuildComplete => Sys2Proof.Machine.execRebuildComplete s
  | .serviceRecalibrate p len offsets => Sys2Proof.Machine.execServiceRecalibrate p len offsets s
  | .getTransport p len => Sys2Proof.Machine.execGetTransport p len s
  | .importKey p len slot point wrapped => Sys2Proof.Machine.execImportKey p len slot point wrapped s
  | .keyRotate p len slot => Sys2Proof.Machine.execKeyRotate p len slot s
  | .keyRetire p len slot => Sys2Proof.Machine.execKeyRetire p len slot s
  | .pair p len serial => Sys2Proof.Machine.execPair p len serial s
  | .mirror p len vol pkeySlot => Sys2Proof.Machine.execMirror p len vol pkeySlot s
  | .unmirror p len vol => Sys2Proof.Machine.execUnmirror p len vol s
  | .demote p len vol fence => Sys2Proof.Machine.execDemote p len vol fence s
  | .twinTakeover p len vol force fence => Sys2Proof.Machine.execTwinTakeover p len vol force fence s
  | .define p len region lot vol base size => Sys2Proof.Machine.execDefine p len region lot vol base size s
  | .delete p len region => Sys2Proof.Machine.execDelete p len region s
  | .setLot p len region lot => Sys2Proof.Machine.execSetLot p len region lot s
  | .lightLbFill task => Sys2Proof.Machine.execLightLbFill task s
  | .touchLightRun => Sys2Proof.Machine.execTouchLightRun s
  | .autoWriteback => Sys2Proof.Machine.execAutoWriteback s
  | .lanternFetchReturn e => Sys2Proof.Machine.execLanternFetchReturn e s
  | .lanternWritebackDone idx0 => Sys2Proof.Machine.execLanternWritebackDone idx0 s
  | .lanternEntryOff idx0 => Sys2Proof.Machine.execLanternEntryOff idx0 s
  | .lntCtrlEnWrite a en => Sys2Proof.Machine.execLntCtrlEnWrite a en s
  | .lanternFlushEnd => Sys2Proof.Machine.execLanternFlushEnd s
  | .mapProbe a hi => Sys2Proof.Machine.execMapProbe a hi s
  | .drgDecode a hi => Sys2Proof.Machine.execDrgDecode a hi s
  | .aptUnlock1Write a d v => Sys2Proof.Machine.execAptUnlock1Write a d v s
  | .aptUnlock2Write a d v => Sys2Proof.Machine.execAptUnlock2Write a d v s
  | .parameterBlockWrite a d off v => Sys2Proof.Machine.execParameterBlockWrite a d off v s
  | .aptStageWrite a d off v => Sys2Proof.Machine.execAptStageWrite a d off v s
  | .readPage a d => Sys2Proof.Machine.execReadPage a d s
  | .readPageCache a d => Sys2Proof.Machine.execReadPageCache a d s
  | .programPage a d => Sys2Proof.Machine.execProgramPage a d s
  | .programNested a d => Sys2Proof.Machine.execProgramNested a d s
  | .eraseBlock a d => Sys2Proof.Machine.execEraseBlock a d s
  | .suspend a d => Sys2Proof.Machine.execSuspend a d s
  | .resume a d => Sys2Proof.Machine.execResume a d s
  | .aptSetFeature a d => Sys2Proof.Machine.execAptSetFeature a d s
  | .aptGetFeature a d => Sys2Proof.Machine.execAptGetFeature a d s
  | .setRetryStep a d => Sys2Proof.Machine.execSetRetryStep a d s
  | .readId a d => Sys2Proof.Machine.execReadId a d s
  | .readParameterPage a d => Sys2Proof.Machine.execReadParameterPage a d s
  | .resetDie a d => Sys2Proof.Machine.execResetDie a d s
  | .aptBadcmd a d code => Sys2Proof.Machine.execAptBadcmd a d code s
  | .operationIssue c => Sys2Proof.Machine.execOperationIssue c s
  | .completionDetection c r o => Sys2Proof.Machine.execCompletionDetection c r o s
  | .operationTimeout c r => Sys2Proof.Machine.execOperationTimeout c r s
  | .svcWaitExpiry c r => Sys2Proof.Machine.execSvcWaitExpiry c r s
  | .svcTransferTimeout c => Sys2Proof.Machine.execSvcTransferTimeout c s
  | .schedulerSuspend c r eraseEnded => Sys2Proof.Machine.execSchedulerSuspend c r eraseEnded s
  | .schedulerResume c r => Sys2Proof.Machine.execSchedulerResume c r s
  | .resumeIntervalEnd c r => Sys2Proof.Machine.execResumeIntervalEnd c r s
  | .wptSet a hi v => Sys2Proof.Machine.execWptSet a hi v s
  | .wptAllset a hi v => Sys2Proof.Machine.execWptAllset a hi v s
  | .junctionTrip => Sys2Proof.Machine.execJunctionTrip s
  | .junctionTripClear => Sys2Proof.Machine.execJunctionTripClear s
  | .softDecodeDone task ok k => Sys2Proof.Machine.execSoftDecodeDone task ok k s
  | .reconstructionCombine task k => Sys2Proof.Machine.execReconstructionCombine task k s
  | .versionSealAge version => Sys2Proof.Machine.execVersionSealAge version s
  | .bufferHiwatSeal => Sys2Proof.Machine.execBufferHiwatSeal s
  | .rmwReadDone version => Sys2Proof.Machine.execRmwReadDone version s
  | .furrowOpen pos => Sys2Proof.Machine.execFurrowOpen pos s
  | .sowerPageProgram pos faulty => Sys2Proof.Machine.execSowerPageProgram pos faulty s
  | .slotExhausted slot => Sys2Proof.Machine.execSlotExhausted slot s
  | .slotHalted slot => Sys2Proof.Machine.execSlotHalted slot s
  | .integrityKeyExhausted => Sys2Proof.Machine.execIntegrityKeyExhausted s
  | .sequenceLimit => Sys2Proof.Machine.execSequenceLimit s
  | .mapRecoveryEnd ok => Sys2Proof.Machine.execMapRecoveryEnd ok s
  | .victimSelection => Sys2Proof.Machine.execVictimSelection s
  | .gleanerSourceRead low reads => Sys2Proof.Machine.execGleanerSourceRead low reads s
  | .residualSearch low => Sys2Proof.Machine.execResidualSearch low s
  | .eraseGate => Sys2Proof.Machine.execEraseGate s
  | .patrolScan furrow flagged passEnd => Sys2Proof.Machine.execPatrolScan furrow flagged passEnd s
  | .disturbScan c r b flagged => Sys2Proof.Machine.execDisturbScan c r b flagged s
  | .headlandWrite => Sys2Proof.Machine.execHeadlandWrite s
  | .headlandRecordDurable => Sys2Proof.Machine.execHeadlandRecordDurable s
  | .headlandFurrowRelease => Sys2Proof.Machine.execHeadlandFurrowRelease s
  | .dumpConsumed => Sys2Proof.Machine.execDumpConsumed s
  | .patrolScrub d b rank1 x u passEnd => Sys2Proof.Machine.execPatrolScrub d b rank1 x u passEnd s
  | .caParityAlert d b replayOk => Sys2Proof.Machine.execCaParityAlert d b replayOk s
  | .replayFailFault d => Sys2Proof.Machine.execReplayFailFault d s
  | .refreshBatch d mr4 low high => Sys2Proof.Machine.execRefreshBatch d mr4 low high s
  | .thmSample a mask => Sys2Proof.Machine.execThmSample a mask s
  | .thermalTaskSample dies => Sys2Proof.Machine.execThermalTaskSample dies s
  | .conversionEnd sensor t stamp => Sys2Proof.Machine.execConversionEnd sensor t stamp s
  | .snfCeilWrite a level => Sys2Proof.Machine.execSnfCeilWrite a level s
  | .powerDomainOff a d => Sys2Proof.Machine.execPowerDomainOff a d s
  | .powerDomainOn a d => Sys2Proof.Machine.execPowerDomainOn a d s
  | .domainSwitchEnd => Sys2Proof.Machine.execDomainSwitchEnd s
  | .pllLossOfLock p => Sys2Proof.Machine.execPllLossOfLock p s
  | .recordSealTimeout => Sys2Proof.Machine.execRecordSealTimeout s
  | .batchTimeout badCrc writeOk => Sys2Proof.Machine.execBatchTimeout badCrc writeOk s
  | .almFlushRequest a => Sys2Proof.Machine.execAlmFlushRequest a s
  | .almBufreqWrite a on => Sys2Proof.Machine.execAlmBufreqWrite a on s
  | .timeEvent => Sys2Proof.Machine.execTimeEvent s
  | .almanacSnapshot => Sys2Proof.Machine.execAlmanacSnapshot s
  | .potAdvance => Sys2Proof.Machine.execPotAdvance s
  | .twinLinkUp x4 rate16 => Sys2Proof.Machine.execTwinLinkUp x4 rate16 s
  | .twinLinkDown => Sys2Proof.Machine.execTwinLinkDown s
  | .frameAlignmentLoss => Sys2Proof.Machine.execFrameAlignmentLoss s
  | .idle h => Sys2Proof.Machine.execIdle h s
  | .heartbeat h serial txStamp echo now => Sys2Proof.Machine.execHeartbeat h serial txStamp echo now s
  | .nak h seq => Sys2Proof.Machine.execNak h seq s
  | .wbegin h vol fence slba nlb fua resync => Sys2Proof.Machine.execWbegin h vol fence slba nlb fua resync s
  | .wdata h idx d => Sys2Proof.Machine.execWdata h idx d s
  | .wack h status epoch => Sys2Proof.Machine.execWack h status epoch s
  | .twinDealloc h vol fence slba nlb => Sys2Proof.Machine.execTwinDealloc h vol fence slba nlb s
  | .durable h vol => Sys2Proof.Machine.execDurable h vol s
  | .volstate h vol fence mirrored owner mapValid state size => Sys2Proof.Machine.execVolstate h vol fence mirrored owner mapValid state size s
  | .rsmap h vol first dirty => Sys2Proof.Machine.execRsmap h vol first dirty s
  | .ctrlCreate h vol keySlot fence size layout1 enc => Sys2Proof.Machine.execCtrlCreate h vol keySlot fence size layout1 enc s
  | .result h vol status => Sys2Proof.Machine.execResult h vol status s
  | .take h vol fence => Sys2Proof.Machine.execTake h vol fence s
  | .takeAck h vol fence => Sys2Proof.Machine.execTakeAck h vol fence s
  | .ctrlFormat h vol layout1 enc keySlot => Sys2Proof.Machine.execCtrlFormat h vol layout1 enc keySlot s
  | .ctrlDelete h vol => Sys2Proof.Machine.execCtrlDelete h vol s
  | .ctrlUnmirror h vol => Sys2Proof.Machine.execCtrlUnmirror h vol s
  | .heartbeatInterval now => Sys2Proof.Machine.execHeartbeatInterval now s
  | .partnerLossTimeout => Sys2Proof.Machine.execPartnerLossTimeout s
  | .frameResendTimeout => Sys2Proof.Machine.execFrameResendTimeout s
  | .durableInterval => Sys2Proof.Machine.execDurableInterval s
  | .handoverTimeout vol => Sys2Proof.Machine.execHandoverTimeout vol s
  | .resyncPiece vol => Sys2Proof.Machine.execResyncPiece vol s
  | .idcode => Sys2Proof.Machine.execIdcode s
  | .samplePreload => Sys2Proof.Machine.execSamplePreload s
  | .extest => Sys2Proof.Machine.execExtest s
  | .highz => Sys2Proof.Machine.execHighz s
  | .clamp => Sys2Proof.Machine.execClamp s
  | .bypass => Sys2Proof.Machine.execBypass s
  | .holdUpTimeExpiry => Sys2Proof.Machine.execHoldUpTimeExpiry s
  | .twinFrameCrcFailure sequenced => Sys2Proof.Machine.execTwinFrameCrcFailure sequenced s
  | .flitCrcError p => Sys2Proof.Machine.execFlitCrcError p s
  | .fuseCheckDone ok => Sys2Proof.Machine.execFuseCheckDone ok s
  | .pllLock p => Sys2Proof.Machine.execPllLock p s
  | .shaviErrorRequest p code dwords lengthOk bodyOk => Sys2Proof.Machine.execShaviErrorRequest p code dwords lengthOk bodyOk s

end Sys2Proof.Machine
end

