-- ==== Sys2Proof/Safety.lean ====
section
/-! DEFINITION. The terms in which statements about the machine are made: when a command completes, which parts of the machine it may
change, and the invariants of a safe run. -/

namespace Sys2Proof.Machine

/-- The parts of the machine: the fields of `Mach`. -/
inductive Part where
  | dev | reg | pff | port | adm | q | vol | buf | lamp | fl | gln | hdl | drc | key | thm | alm | twn | tap | out | free
  deriving DecidableEq, Repr

/-- Machine b differs from machine a in no part but those listed. -/
def Mach.SameBut (ps : List Part) (a b : Mach) : Prop :=
  (.dev ∈ ps ∨ b.dev = a.dev) ∧ (.reg ∈ ps ∨ b.reg = a.reg) ∧ (.pff ∈ ps ∨ b.pff = a.pff) ∧ (.port ∈ ps ∨ b.port = a.port) ∧
  (.adm ∈ ps ∨ b.adm = a.adm) ∧ (.q ∈ ps ∨ b.q = a.q) ∧ (.vol ∈ ps ∨ b.vol = a.vol) ∧ (.buf ∈ ps ∨ b.buf = a.buf) ∧
  (.lamp ∈ ps ∨ b.lamp = a.lamp) ∧ (.fl ∈ ps ∨ b.fl = a.fl) ∧ (.gln ∈ ps ∨ b.gln = a.gln) ∧ (.hdl ∈ ps ∨ b.hdl = a.hdl) ∧
  (.drc ∈ ps ∨ b.drc = a.drc) ∧ (.key ∈ ps ∨ b.key = a.key) ∧ (.thm ∈ ps ∨ b.thm = a.thm) ∧ (.alm ∈ ps ∨ b.alm = a.alm) ∧
  (.twn ∈ ps ∨ b.twn = a.twn) ∧ (.tap ∈ ps ∨ b.tap = a.tap) ∧ (.out ∈ ps ∨ b.out = a.out) ∧ (.free ∈ ps ∨ b.free = a.free)

/-- The command completes in the state: exec answers a next state, whose queue is as before and whose machine is as P says. -/
def Completes (c : Instr) (s : State) (P : Mach → Prop) : Prop := ∃ t, exec c s = .next t ∧ t.pending = s.pending ∧ P t.m

/-- Every stored register but those listed reads as before. -/
def Mach.RegsBut (ks : List Nat) (a b : Mach) : Prop := ∀ k, k ∉ ks → b.rd k = a.rd k

/-- One value of page p has been updated: PG_SEQ has gone odd and even again where the page has one (R43), and no other header field has changed. -/
def Mach.Stepped (p : Page) (a b : Mach) : Prop :=
  b.hdr p = { a.hdr p with seq := if (pageCaps p).2.2.1 then (a.hdr p).seq + 2 else (a.hdr p).seq } ∧ ∀ q, q ≠ p → b.hdr q = a.hdr q

/-- Every page header but those of the pages listed is as before. -/
def Mach.HdrsBut (ps : List Page) (a b : Mach) : Prop := ∀ p, p ∉ ps → b.hdr p = a.hdr p

/-- The registers stand but for PG_SEQ: no stored register other than those listed and no header field other than SEQ has changed. -/
def Mach.RegsSame (ks : List Nat) (a b : Mach) : Prop :=
  a.RegsBut ks b ∧ b.reg.c64 = a.reg.c64 ∧ b.reg.low = a.reg.low ∧ ∀ p, { b.hdr p with seq := 0 } = { a.hdr p with seq := 0 }

/-- What has left the part: the earlier record, then the entries listed. -/
def Mach.Sent (os : List Out) (a b : Mach) : Prop := b.out = a.out ++ os

/-- The mailbox of port p answers a foreground command: its status and its payload leave the part, and nothing else does. -/
def Mach.Replies (p : Port) (status : Nat) (payload : List Byte) (a b : Mach) : Prop :=
  a.Sent [.mbox p (returnCode status false false) status payload] b

/-- A DEFINITION record has been asked for, whose durability, with the root behind it, w waits for (R286, Table 12.3). -/
def Mach.AsksDefinition (w : Waiter) (a b : Mach) : Prop :=
  b.hdl = { a.hdl with want := a.hdl.want ++ [(a.hdl.nextRec, .definition {})], nextRec := a.hdl.nextRec + 1
                       waiters := a.hdl.waiters ++ [(a.hdl.nextRec, true, w)] }

/-- A background command of port p has been answered and runs (R86, R147): it is the device's one background operation, the port's
background status is at 0 percent, the answer says that it has begun, and nothing else has changed. -/
structure Mach.Begun (p : Port) (op : BgOp) (opcode : Nat) (a b : Mach) : Prop where
  adm : b.adm = { a.adm with bg := some { port := p, op := op } }
  self : b.port.get p = { a.port.get p with bgOpcode := opcode, bgPct := 0, bgRc := 0, bgExt := 0 }
  other : ∀ q, q ≠ p → b.port.get q = a.port.get q
  sent : a.Sent [.mbox p (returnCode St.success false true) St.success []] b
  same : Mach.SameBut [.adm, .port, .out] a b

/-- The background operation of port p has ended: the port's background status is at 100 percent with the status, the message to the
host leaves, and nothing else has changed (R86). -/
structure Mach.Ended (p : Port) (status : Nat) (a b : Mach) : Prop where
  adm : b.adm = { a.adm with bg := none }
  self : b.port.get p =
    { a.port.get p with bgPct := 100, bgRc := returnCode status false false, bgExt := status }
  other : ∀ q, q ≠ p → b.port.get q = a.port.get q
  sent : a.Sent [.background p (a.port.get p).bgOpcode (returnCode status false false) status] b
  same : Mach.SameBut [.adm, .port, .out] a b

/-- A background command has begun and ended within its row. -/
def Mach.BegunEnded (p : Port) (op : BgOp) (opcode status : Nat) (a b : Mach) : Prop :=
  ∃ u, a.Begun p op opcode u ∧ u.Ended p status b

/-- Mailbox commands of port p that only an unlocked port may give (R145, R147, Table 06.11), with the length of their payload. -/
inductive ServiceAction (p : Port) : Instr → Prop where
  | stop (pg : Page) : ServiceAction p (.serviceStop p 8 pg)
  | change (pg : Page) (x : List (Nat × Word)) : ServiceAction p (.serviceChange p (changeLen x) pg x)
  | start (pg : Page) : ServiceAction p (.serviceStart p 8 pg)
  | all (pg : Page) (x : List (Nat × Word)) : ServiceAction p (.serviceStopChangeStart p (changeLen x) pg x)
  | fch (c : Chan) : ServiceAction p (.serviceRetrainFch p 8 c)
  | drc (d : Fin 4) : ServiceAction p (.serviceRetrainDrc p 8 d)
  | port (q : Port) : ServiceAction p (.serviceRetrainPort p 8 q)
  | retire (c : Chan) : ServiceAction p (.serviceRetire p 8 c)
  | recalibrate (o : List Int) : ServiceAction p (.serviceRecalibrate p 8 o)

/-- A KEY_IMPORT has been refused past the ephemeral key (R331): that key is used up, KEY_REFUSED counts, sticking at its last value, and
the status is answered. -/
structure Mach.ImportRefused (p : Port) (status : Nat) (a b : Mach) : Prop where
  key : b.key = { a.key with xport := none }
  count : b.rdN Reg.KEY_REFUSED = min 0xFFFFFFFF (a.rdN Reg.KEY_REFUSED + 1)
  regs : a.RegsSame [Reg.KEY_REFUSED] b
  sent : a.Replies p status [] b
  same : Mach.SameBut [.key, .reg, .out] a b

/-- The records of a new key have been asked for: the first block of nonces of slot k under epoch e, then the DEFINITION record, whose
durability w waits for (R327, R330, R332). -/
def Mach.AsksKey (k e : Nat) (w : Waiter) (a b : Mach) : Prop :=
  b.hdl = { a.hdl with want := a.hdl.want ++ [(a.hdl.nextRec, .nonce k e nonceBlock), (a.hdl.nextRec + 1, .definition {})]
                       nextRec := a.hdl.nextRec + 2, waiters := a.hdl.waiters ++ [(a.hdl.nextRec + 1, false, w)] }

/-- A sequenced frame can go out at once: the partner is present, the window of 64 has room, and nothing waits its turn (R380, R385). -/
structure Mach.TwinFree (m : Mach) : Prop where
  present : m.partnerPresent = true
  window : m.twn.unacked.length < 64
  waiting : m.twn.waiting = []
  order : m.twn.order = []

/-- A sequenced frame has gone out (R380): it has the next SEQ and the ACK of the last frame received in order, is kept until it is
acknowledged, and counts in TWN_TXFR; nothing else has changed but PG_SEQ. -/
structure Mach.SendsFrame (f : Frame) (a b : Mach) : Prop where
  twn : b.twn =
    { a.twn with
      txSeq := (a.twn.txSeq + 1) % 65536
      unacked := a.twn.unacked ++ [{ f with seq := a.twn.txSeq, ack := a.twnAck }]
      peak := max a.twn.peak (a.twn.unacked.length + 1) }
  sent : a.Sent [.frame { f with seq := a.twn.txSeq, ack := a.twnAck }] b
  rd : ∀ k, b.rd k = a.rd k
  c64 : b.reg.c64 = SMap.set 0 a.reg.c64 Reg.TWN_TXFR_LO (SMap.get 0 a.reg.c64 Reg.TWN_TXFR_LO + 1)
  hdr : ∀ p, { b.hdr p with seq := 0 } = { a.hdr p with seq := 0 }
  same : Mach.SameBut [.twn, .reg, .out] a b

/-- The frame of a CTRL operation (Table 17.3). -/
def ctrlFrame (op : Nat) (v : Vid) (arg fence role size layout : Nat) : Frame :=
  txFrame 0x20 0 0 0 [op, v.val, arg, fence, role, size, layout] 0

/-- A CTRL frame can go out at once: management firmware and PFF3 run (R379). -/
structure Mach.CtrlGoes (m : Mach) : Prop where
  fw : m.dev.fwRunning = true
  fifo : m.running (.pff 3) = true

/-- A CTRL frame has passed PFF3, of which PF_LAST and EOP show its last word, and has gone out (R379). -/
def Mach.SendsCtrl (op : Nat) (v : Vid) (arg fence role size layout : Nat) (a b : Mach) : Prop :=
  (a.fifoPass 3 (ctrlPacket { seq := 0, ack := 0, xid := 0 } [op, v.val, arg, fence, role, size, layout])).SendsFrame
    (ctrlFrame op v arg fence role size layout) b

/-- The frame with header h is the next that is expected of a partner that is present, on a link that carries frames, with none of this
side's frames waiting (R380). -/
structure Mach.Expects (h : FrameHdr) (m : Mach) : Prop where
  live : m.twinLive = true
  present : m.twn.present = true
  next : h.seq % 65536 = m.twn.rxSeq
  waiting : m.twn.waiting = []

/-- A sequenced frame has been accepted, before its own effect (R380): its ACK drops the frames it covers, the next SEQ is expected, an
IDLE with its ACK goes out, it counts in TWN_RXFR, and nothing else has changed but PG_SEQ. -/
structure Mach.Accepts (h : FrameHdr) (a b : Mach) : Prop where
  twn : b.twn =
    { a.twn with
      crcRun := 0
      unacked := a.twn.unacked.filter fun f => decide (0 < (f.seq + 65536 - h.ack) % 65536 ∧ (f.seq + 65536 - h.ack) % 65536 < 32768)
      rxSeq := (a.twn.rxSeq + 1) % 65536
      nakSent := false }
  sent : a.Sent
    [.frame { type := 0, flags := 0, seq := 0, ack := b.twnAck, xid := 0, idx := 0, words := [], data := 0 }] b
  rd : ∀ k, b.rd k = a.rd k
  hdr : ∀ p, { b.hdr p with seq := 0 } = { a.hdr p with seq := 0 }
  same : Mach.SameBut [.twn, .reg, .out] a b

/-- As `Expects`, for a CTRL frame that management firmware takes as it comes: firmware and PFF2 run, and PFF2 is empty (R379). -/
structure Mach.ExpectsCtrl (h : FrameHdr) (m : Mach) : Prop extends m.Expects h where
  fw : m.dev.fwRunning = true
  fifo : m.running (.pff 2) = true
  room : 68 ≤ m.pffFree 2
  queue : m.twn.ctlIn = []
  vis : (m.fifo 2).vis = []
  hidden : (m.fifo 2).hidden = []

/-- A CTRL frame has been accepted and has passed PFF2, of which PF_LAST and EOP show its last word (R379). -/
def Mach.AcceptsCtrl (h : FrameHdr) (a b : Mach) : Prop := ∃ u ws, a.Accepts h u ∧ b = u.fifoPass 2 (ctrlPacket h ws)

/-- Every read of WRITE data that a command asked for has been sent (R78). -/
def Mach.ReadsSent (m : Mach) : Prop := ∀ i, (m.cmd i).unsent = []

/-- No command waits for the range of slot s, and no twin transfer carries its command. -/
def Mach.Loose (m : Mach) (s : Nat) : Prop := (∀ t, s ∉ (m.cmd t).wait) ∧ ∀ e ∈ m.twn.tx, e.2 ≠ .cmd s

/-- A completion entry of 16 bytes has been built for the command of slot s of pair q (R112, R113, R115): it leaves through the pair's port
for the place of the queue's tail, the tail advances and P inverts where it wraps, the slot is free, and no other slot and no other pair
has changed. -/
structure Mach.Completed (s : Nat) (q : Fin 256) (status dw2 dw3 : Nat) (a b : Mach) : Prop where
  slot : b.cmd s = {}
  used : b.q.used = a.q.used.filter (· != s)
  others : ∀ t, t ≠ s → b.cmd t = a.cmd t
  pair : b.qp q =
    { a.qp q with
      cqTail := if (a.qp q).depth ≤ (a.qp q).cqTail + 1 then 0 else (a.qp q).cqTail + 1
      phase := if (a.qp q).depth ≤ (a.qp q).cqTail + 1 then !(a.qp q).phase else (a.qp q).phase
      inflight := (a.qp q).inflight - 1 }
  pairs : ∀ j, j ≠ q → b.qp j = a.qp j
  sent : a.Sent [.completion (a.qp q).port q.val ((a.qp q).cqBase + 16 * (a.qp q).cqTail)
    (completionWord status (entTag (a.cmd s).entry).toNat (a.qp q).phase q.val (a.cmd s).sqhd dw2 dw3)] b

/-- As `Completed`, with other things that left the part before the entry. -/
structure Mach.Ends (os : List Out) (s : Nat) (q : Fin 256) (status dw2 dw3 : Nat) (a b : Mach) : Prop where
  slot : b.cmd s = {}
  used : b.q.used = a.q.used.filter (· != s)
  others : ∀ t, t ≠ s → b.cmd t = a.cmd t
  pair : b.qp q =
    { a.qp q with
      cqTail := if (a.qp q).depth ≤ (a.qp q).cqTail + 1 then 0 else (a.qp q).cqTail + 1
      phase := if (a.qp q).depth ≤ (a.qp q).cqTail + 1 then !(a.qp q).phase else (a.qp q).phase
      inflight := (a.qp q).inflight - 1 }
  pairs : ∀ j, j ≠ q → b.qp j = a.qp j
  sent : a.Sent (os ++ [.completion (a.qp q).port q.val ((a.qp q).cqBase + 16 * (a.qp q).cqTail)
    (completionWord status (entTag (a.cmd s).entry).toNat (a.qp q).phase q.val (a.cmd s).sqhd dw2 dw3)]) b

/-- The value that an LB reads as, where the part itself holds it (R241, Table 07.5): its frame, its buffered version, or zero where it
is unmapped. -/
def Mach.ReadsAs (m : Mach) (v : Vid) (lba : Nat) (d : Block) : Prop :=
  (∃ k p f, m.current v lba = .frame k p f ∧ m.pageLost f p = false ∧ m.framePage f p = d) ∨
    (∃ id, m.current v lba = .version id d) ∨ (m.current v lba = .zero ∧ d = 0)

/-- An LB's data as it leaves through a port, piece by piece of the host's buffer, with Relaxed Ordering or without. -/
def pieceOuts (p : Port) (relaxed : Bool) (d : Block) : Nat → List (Nat × Nat) → List Out
  | _, [] => []
  | k, x :: xs => .hostData p x.1 x.2 (d >>> (8 * k)) relaxed :: pieceOuts p relaxed d (k + x.2) xs

/-- The registers that the writing of Almanac records counts in: ALM_LOST, ALM_OVERWRITE, ALM_PDROP, ALM_EXPDROP, and the check
failures of PFF0. -/
def almKeys : List Nat := [Reg.ALM_LOST, Reg.ALM_OVERWRITE, Reg.ALM_PDROP, Reg.ALM_EXPDROP, pffReg 0 Reg.PF_CHKFAIL]

/-- Machine b is machine a after the Almanac has taken some records: nothing else than the Almanac, its counters, PFF0, the CXL event
logs and PG_ERR of the ALM page has changed, but for PG_SEQ. -/
structure Mach.Recorded (a b : Mach) : Prop where
  same : Mach.SameBut [.reg, .pff, .adm, .alm] a b
  adm : b.adm = { a.adm with ev := b.adm.ev }
  pff : ∀ n, n ≠ 0 → b.fifo n = a.fifo n
  rd : ∀ k, k ∉ almKeys → b.rd k = a.rd k
  c64 : b.reg.c64 = a.reg.c64
  low : b.reg.low = a.reg.low
  hdr : ∀ p, { b.hdr p with seq := 0, err := 0 } = { a.hdr p with seq := 0, err := 0 }
  err : ∀ p, p ≠ .alm → (b.hdr p).err = (a.hdr p).err

/-- What a device reset clears (Table 03.1): every register at its reset value, and no packet, command, volume, buffered version, lamp
block, key or twin state. -/
def Mach.Cleared (t : Mach) : Prop :=
  (∀ k, t.rd k = regReset k) ∧ t.reg.c64 = [] ∧ t.reg.low = [] ∧ t.pff = [] ∧ t.q = {} ∧ t.vol = {} ∧ t.buf = {} ∧ t.lamp = {} ∧
    t.gln = {} ∧ t.key = {} ∧ t.twn = {}

/-- What a device reset keeps whatever its source (Table 03.1): the format state, SVFLOOR, the active slot, the board, and the
persisted Almanac ring. -/
def Mach.Kept (a b : Mach) : Prop :=
  b.dev.formatted = a.dev.formatted ∧ b.adm.svFloor = a.adm.svFloor ∧ b.adm.active = a.adm.active ∧ b.adm.board = a.adm.board ∧
    b.alm.pers = a.alm.pers ∧ b.out = a.out

/-- The working ring stands, but for the records whose CRC-32C no longer fits, which is a free value of each (R365). -/
def Mach.RingRead (a b : Mach) : Prop := ∃ n, b.alm.ring = a.alm.ring.filter fun e => Config.recordStands n e.2.seq.toNat

/-- No request of a lamp block waits for its descriptor, and none to the line of a DPA is held at the dirty cap (R99, R163). -/
structure Mach.ClearWay (key dpa : Nat) (m : Mach) : Prop where
  desc : m.lntWaits key = false
  line : ∀ r ∈ m.lamp.capHeld, r.dpa / 64 ≠ dpa / 64

/-- What a reset of port p leaves (R71, R72): the port's state, but for PERST_N, the training and whether a link was ever up, its page
header and registers, and its queues at their reset values; of its requests that the lamp path holds only writes are left, which get no
answer (R99). -/
structure Mach.PortCleared (p : Port) (perst training : Bool) (a b : Mach) : Prop where
  self : b.port.get p = { perst := perst, everUp := (a.port.get p).everUp, training := training, mboxFrom := a.out.length }
  other : ∀ q, q ≠ p → b.port.get q = a.port.get q
  cause : b.dev.cause = a.dev.cause ||| bit32 (5 + p.num)
  own : b.hdr (.port p) = { a.hdr (.port p) with err := 0, mask := 0, seq := 0, gen := 0 }
  hdr : ∀ q, q ≠ .port p → { b.hdr q with seq := 0 } = { a.hdr q with seq := 0 }
  mine : ∀ off, off < 0x1000 → b.rd (portReg p off) = regReset (portReg p off)
  regs : ∀ k, k / 0x1000 ≠ (Page.port p).base / 0x1000 → b.rd k = a.rd k
  gone : ∀ e ∈ b.q.qp, e.2.port = p → e.2.st = .absent
  kept : ∀ e ∈ a.q.qp, e.2.port ≠ p → e ∈ b.q.qp
  held : ∀ r ∈ b.lamp.capHeld, r.port = p → r.isMute = true

/-- Does a background operation wait for a page to stop or to start? -/
def BgOp.moves (o : BgOp) : Bool :=
  match o with
  | .svcStop _ => true
  | .svcStart .. => true
  | .svcStopChangeStart .. => true
  | _ => false

/-- No service action waits for a page (R41). -/
def Mach.unserviced (m : Mach) : Bool := m.adm.bg.all fun b => !b.op.moves

/-- Nothing waits for management firmware: no mailbox command and no CTRL frame (R59, R86, R144). -/
structure Mach.Calm (m : Mach) : Prop where
  mail : m.adm.mboxQ = []
  ctlIn : m.twn.ctlIn = []
  ctlOut : m.twn.ctlOut = []

/-- The mailbox of port p takes every command (R63, Table 03.6): it answers, start-up is over, and no shutdown has begun. -/
structure Mach.Serves (p : Port) (m : Mach) : Prop where
  up : m.mailboxUp p = true
  io : m.ioUp = true
  phase : m.dev.phase = .idle

/-- The command of slot i is a host's, of pair q, of which nothing has been done or has failed, and no other command waits for it. -/
structure Mach.Plain (i : Nat) (q : Fin 256) (m : Mach) : Prop where
  kind : (m.cmd i).kind = .host
  qid : (m.cmd i).qid = some q
  fails : (m.cmd i).fails = []
  cover : (m.cmd i).cover = []
  vers : (m.cmd i).vers = []
  xid : (m.cmd i).xid = none
  partner : (m.cmd i).partnerStatus = St.success
  done : (m.cmd i).done = 0
  rebuilt : (m.cmd i).rebuilt = 0
  loose : m.Loose i

/-- No command but that of slot i waits for durability, and no answer is owed to the twin partner. -/
structure Mach.Alone (i : Nat) (m : Mach) : Prop where
  used : i ∈ m.q.used
  nodup : m.q.used.Nodup
  others : ∀ j, j ≠ i → (m.cmd j).covering = false
  answers : m.twn.rxWait = []

/-- A decode of the codeword that task x reads passes every check (R219, R220, R323): it is data of the volume and LBA asked for, its key slot decrypts it, and its tag is the right one. -/
structure Mach.CwGood (x : RdTask) (m : Mach) : Prop where
  kind : (m.cwAt x.addr).kind = .data
  vol : (m.cwAt x.addr).vol = x.vol.val
  lba : (m.cwAt x.addr).lba = x.lba
  key : m.cwKeyOk x.vol (m.cwAt x.addr) = true
  tag : (m.cwAt x.addr).tagOk = true

/-- The victim of a slot reads the plane page at a next: it has room and its place is not under a recovery, and it is its turn (R259,
R265). -/
structure Mach.Sources (low : Bool) (v : Victim) (a : BitVec 40) (m : Mach) : Prop where
  on : m.gleaning = true
  vic : m.victim low = some v
  ready : m.sourceReady low = true
  turn : m.sourceReady (!low) = false ∨ m.gln.turnLow = low
  next : m.nextSource v = some a

/-- The codeword in slot 0 at a is that of the first LB of an MU. -/
structure Mach.MuAt (a : BitVec 40) (id : Cw) (m : Mach) : Prop where
  cw : id = m.cwAt a
  kind : id.kind = .data
  lba : id.lba % 4 = 0

/-- The codeword of LB n of the MU that id names can be read in its channel and passes every check (R219, R220, R265, R323). -/
structure Mach.LbGood (a : BitVec 40) (id : Cw) (n : Nat) (m : Mach) : Prop where
  here : m.chanAway (adrChan (a + BitVec.ofNat 40 n)) = false
  held : m.addrLost (a + BitVec.ofNat 40 n) = false
  whole : (m.cwAt (a + BitVec.ofNat 40 n)).gone = false
  kind : (m.cwAt (a + BitVec.ofNat 40 n)).kind = .data
  vol : (m.cwAt (a + BitVec.ofNat 40 n)).vol = id.vol
  lba : (m.cwAt (a + BitVec.ofNat 40 n)).lba = id.lba + n
  wsn : (m.cwAt (a + BitVec.ofNat 40 n)).wsn = id.wsn
  key : m.cwKeyOk (Fin.ofNat 64 id.vol) (m.cwAt (a + BitVec.ofNat 40 n)) = true
  tag : (m.cwAt (a + BitVec.ofNat 40 n)).tagOk = true

/-- No command and no answer to the twin partner waits for durability. -/
structure Mach.Settled (m : Mach) : Prop where
  answers : m.twn.rxWait = []
  cmds : ∀ j, (m.cmd j).covering = false

/-- The missing LB lb of version id has arrived: it is part of the version, and no longer sought (R242); no other version has changed. -/
def Mach.FillsLb (id lb : Nat) (y : Ver) (d : Block) (a b : Mach) : Prop :=
  b.ver id = some { y with
    rmwTodo := y.rmwTodo.filter (· != lb), mask := setBit y.mask lb true, lost := setBit y.lost lb false
    data := SMap.set 0 y.data lb d } ∧
  ∀ j, j ≠ id → b.ver j = a.ver j

/-- A page at its reset values but for its state: every stored register of it, and its header. -/
def Mach.PageClear (p : Page) (st : PageSt) (m : Mach) : Prop :=
  m.hdr p = { st := st } ∧ ∀ off, off < 0x1000 → m.rd (p.base + off) = regReset (p.base + off)

/-- The test access port holds no instruction that drives pins while RESET_N is high (R447). -/
def Mach.tapSafe (m : Mach) : Prop := m.tap = .extest ∨ m.tap = .highz ∨ m.tap = .clamp → m.dev.resetN = false

end Sys2Proof.Machine
end

