-- ==== Sys2Proof/Certificates/Slice0/Obligations.lean ====
section
/-! DEFINITION. The statements about the machine for the provers, family by family in the table's order. -/

open Sys2Proof Sys2Proof.Machine

/-! ### One step -/

/-- A step takes the command at the front of the queue and runs it on the state with the queue's rest; with nothing waiting, the
block idles (log entry 10). -/
def Obligations.StepRunsTheFrontCommand : Prop :=
  (∀ (s : State) (c : Instr) (rest : List Instr), s.pending = c :: rest → step s = exec c { s with pending := rest }) ∧
  (∀ s : State, s.pending = [] → step s = .next s)

/-- No command stops the machine: each answers a next state, whose queue is the one it was given. -/
def Obligations.EveryCommandAnswersANextState : Prop :=
  ∀ (c : Instr) (s : State), ∃ m : Mach, exec c s = .next { s with m := m }

/-- The machine right after reset: the device is in BOOT, the pages of PD_AON are STOPPED and every other page is OFF, every stored
register reads its reset value, no queue pair, volume, lamp region or operation exists, and no command waits. -/
def Obligations.ResetState : Prop :=
  State.reset.m.dev.st = .boot ∧ State.reset.pending = [] ∧ State.reset.m.tap = .idcode ∧
  (∀ p : Page, State.reset.m.pageSt p = if pageDomain p = 0 then .stopped else .off) ∧
  (∀ k : Nat, State.reset.m.rd k = regReset k) ∧ (∀ q : Fin 256, (State.reset.m.qp q).st = .absent) ∧
  (∀ v : Vid, (State.reset.m.volu v).st = .absent) ∧ (∀ k : Nat, (State.reset.m.region k).defined = false) ∧
  State.reset.m.fl.ops = [] ∧ State.reset.m.buf.vers = [] ∧ State.reset.m.q.used = [] ∧ State.reset.m.tapSafe

/-! ### Pages -/

/-- PG_CMD (Table 02.7). START moves a STOPPED page to STARTING and adds 1 to PG_GEN; STOP moves a RUNNING page to STOPPING where Table
02.8 allows it; CLEAR_FAULT moves a FAULTED page to STOPPED and keeps every stored register. In any other state of a powered page each
sets PG_ERR.CMDVIOL, and nothing else happens than the record of it. A port's write is dropped and counted. -/
def Obligations.PageCommands : Prop :=
  (∀ (s : State) (p : Page), s.m.pageSt p = .stopped → Completes (.pageStart .mgmt p) s fun t =>
    t.hdr p = { s.m.hdr p with st := .starting, gen := (s.m.hdr p).gen + 1 } ∧ s.m.HdrsBut [p] t ∧ s.m.RegsBut [] t ∧
    s.m.SameBut [.reg] t) ∧
  (∀ (s : State) (p : Page), s.m.pageSt p = .running → s.m.mayStop p = true → s.m.Calm → Completes (.pageStop .mgmt p) s fun t =>
    ∀ q, t.pageSt q = if q = p then .stopping else s.m.pageSt q) ∧
  (∀ (s : State) (p : Page), s.m.pageSt p = .running → s.m.mayStop p = true → p ≠ .lnt → p ≠ .twn → p ≠ .sow →
    (∀ c, p ≠ .fch c) → s.m.Calm → Completes (.pageStop .mgmt p) s fun t =>
    t.hdr p = { s.m.hdr p with st := .stopping } ∧ s.m.HdrsBut [p] t ∧ s.m.RegsBut [] t ∧ s.m.SameBut [.reg] t) ∧
  (∀ (s : State) (p : Page), s.m.pageSt p = .faulted → Completes (.pageClearFault .mgmt p) s fun t =>
    (∀ q, t.pageSt q = if q = p then .stopped else s.m.pageSt q) ∧ s.m.RegsBut [] t) ∧
  (∀ (s : State) (p : Page), s.m.pageSt p ≠ .stopped → s.m.pageSt p ≠ .off → Completes (.pageStart .mgmt p) s fun t =>
    Mach.Recorded (s.m.errBit p 1) t) ∧
  (∀ (s : State) (p : Page), ¬ (s.m.pageSt p = .running ∧ s.m.mayStop p = true) → s.m.pageSt p ≠ .off →
    s.m.Calm → Completes (.pageStop .mgmt p) s fun t => Mach.Recorded (s.m.errBit p 1) t) ∧
  (∀ (s : State) (p : Page), s.m.pageSt p ≠ .faulted → s.m.pageSt p ≠ .off → Completes (.pageClearFault .mgmt p) s fun t =>
    Mach.Recorded (s.m.errBit p 1) t) ∧
  (∀ (s : State) (h : Port) (p : Page) (c : Instr),
    c = .pageStart h.agent p ∨ c = .pageStop h.agent p ∨ c = .pageClearFault h.agent p → s.m.Calm → Completes c s fun t =>
    t.rdN (portReg h Reg.PORT_WDROP) = min 0xFFFFFFFF (s.m.rdN (portReg h Reg.PORT_WDROP) + 1) ∧
    s.m.RegsSame [portReg h Reg.PORT_WDROP] t ∧ s.m.SameBut [.reg] t)

/-- The transitions that a block makes itself (R39, R180, R401), while no service action waits for a page. STARTING reaches RUNNING when the
staged settings are consistent and, for a flash channel, its training holds; inconsistent settings return the page to STOPPED with
PG_ERR.CFGREJ; a channel whose training does not hold becomes FAULTED with PG_ERR.FAULT and its bit 16, or at 3,600 MT/s returns to STOPPED
with its bit 20; STOPPING reaches STOPPED when the work in flight has ended, and stays until then; a fault in a page that is STARTING,
RUNNING or STOPPING makes it FAULTED with PG_ERR.FAULT. No other page changes its state. A page in another state does not move. -/
def Obligations.PageTransitions : Prop :=
  (∀ (s : State) (p : Page) (tr : Bool), s.m.pageSt p = .starting → s.m.badConfig p = false → s.m.startTrains p tr = none →
    s.m.unserviced = true → s.m.Calm → Completes (.pageStartingEnd p tr) s fun t =>
    ∀ q, t.pageSt q = if q = p then .running else s.m.pageSt q) ∧
  (∀ (s : State) (p : Page) (tr : Bool), s.m.pageSt p = .starting → s.m.badConfig p = true → s.m.unserviced = true →
    s.m.Calm → Completes (.pageStartingEnd p tr) s fun t =>
    (∀ q, t.pageSt q = if q = p then .stopped else s.m.pageSt q) ∧ (t.hdr p).err.getLsbD 4 = true ∧
    Mach.Recorded ((s.m.setPageSt p .stopped).errBit p 4) t) ∧
  (∀ (s : State) (c : Chan), s.m.pageSt (.fch c) = .starting → s.m.badConfig (.fch c) = false → (s.m.chn c).trained = false →
    s.m.unserviced = true → s.m.Calm → Completes (.pageStartingEnd (.fch c) false) s fun t =>
    (∀ q, t.pageSt q = if q = .fch c then (if (s.m.chn c).rate = 3 then .stopped else .faulted) else s.m.pageSt q) ∧
    (if (s.m.chn c).rate = 3 then (t.hdr (.fch c)).err.getLsbD 20 = true
      else (t.hdr (.fch c)).err.getLsbD 2 = true ∧ (t.hdr (.fch c)).err.getLsbD 16 = true)) ∧
  (∀ (s : State) (p : Page) (tr : Bool), s.m.pageSt p ≠ .starting → s.m.unserviced = true → s.m.Calm →
    Completes (.pageStartingEnd p tr) s fun t => t = s.m) ∧
  (∀ (s : State) (p : Page), s.m.pageSt p = .stopping → s.m.drainedPage p = true → s.m.unserviced = true →
    Completes (.pageStoppingEnd p) s fun t => ∀ q, t.pageSt q = if q = p then .stopped else s.m.pageSt q) ∧
  (∀ (s : State) (p : Page), s.m.pageSt p ≠ .stopping ∨ s.m.drainedPage p = false → s.m.unserviced = true →
    Completes (.pageStoppingEnd p) s fun t => t = s.m) ∧
  (∀ (s : State) (p : Page) (parity : Bool), s.m.pageSt p = .starting ∨ s.m.pageSt p = .running ∨ s.m.pageSt p = .stopping →
    s.m.unserviced = true → s.m.Calm → Completes (.blockFault p parity) s fun t =>
    (∀ q, t.pageSt q = if q = p then .faulted else s.m.pageSt q) ∧ (t.hdr p).err.getLsbD 2 = true ∧
    (parity = true → (pageCaps p).2.1 = true → (t.hdr p).err.getLsbD 3 = true)) ∧
  (∀ (s : State) (p : Page) (parity : Bool), s.m.pageSt p = .off ∨ s.m.pageSt p = .stopped ∨ s.m.pageSt p = .faulted →
    s.m.unserviced = true → s.m.Calm → Completes (.blockFault p parity) s fun t => t = s.m)

/-! ### Packet FIFOs -/

/-- The producer's side (R45, R46, R48). A word pushed into a FIFO with room joins the open packet; the word that END has marked commits
it, and a single-clock FIFO shows it at once while a dual-clock one hides it until it has crossed; a push into a FIFO full of committed
words stalls; ABORT makes the open packet vanish. Nothing else changes. The consumer's side (R47, R49, R50, R51, R52) and the end of a stall (R48). DROP takes the rest of the head packet away and counts in
PF_DROPS, and has no effect on an empty FIFO; a read of PF_DATA by the agent of PF_CONS pops one word, on an empty FIFO repeats the last value and sets UNDERRUN, and by
another agent reads 0 and counts in PF_FOREIGN; a stalled push completes when a word is free; a committed packet that has crossed
becomes visible behind those before it. -/
def Obligations.PacketFifos : Prop :=
  (∀ (s : State) (n : Fin 8) (w : Word) (ok : Bool), s.m.pageSt (.pff n) = .running → (s.m.fifo n).stalled = none →
    0 < s.m.pffFree n → (s.m.fifo n).endNext = false → Completes (.pfPush (.agent .mgmt) n w ok) s fun t =>
    t.fifo n = { s.m.fifo n with opn := (s.m.fifo n).opn ++ [w] } ∧ (∀ j, j ≠ n → t.fifo j = s.m.fifo j) ∧ s.m.SameBut [.pff] t) ∧
  (∀ (s : State) (n : Fin 8) (w : Word) (ok : Bool), s.m.pageSt (.pff n) = .running → (s.m.fifo n).stalled = none →
    0 < s.m.pffFree n → (s.m.fifo n).endNext = true → packetCheck n ok ((s.m.fifo n).opn ++ [w]) = true →
    Completes (.pfPush .block n w ok) s fun t =>
    t.fifo n = (if pffSingleClock n then
      { s.m.fifo n with opn := [], endNext := false, vis := (s.m.fifo n).vis ++ packetWords ((s.m.fifo n).opn ++ [w]) }
      else { s.m.fifo n with opn := [], endNext := false, hidden := (s.m.fifo n).hidden ++ [(s.m.fifo n).opn ++ [w]] }) ∧
    (∀ j, j ≠ n → t.fifo j = s.m.fifo j) ∧ s.m.SameBut [.pff] t) ∧
  (∀ (s : State) (n : Fin 8) (w : Word) (ok : Bool), s.m.pageSt (.pff n) = .running → (s.m.fifo n).stalled = none →
    s.m.pffFree n = 0 → (s.m.fifo n).vis ≠ [] → Completes (.pfPush .block n w ok) s fun t =>
    t.fifo n = { s.m.fifo n with stalled := some (w, ok) } ∧ (∀ j, j ≠ n → t.fifo j = s.m.fifo j) ∧ s.m.SameBut [.pff] t) ∧
  (∀ (s : State) (n : Fin 8), s.m.pageSt (.pff n) ≠ .off → Completes (.pfCtrlEnd (.agent .mgmt) n) s fun t =>
    t.fifo n = { s.m.fifo n with endNext := true } ∧ (∀ j, j ≠ n → t.fifo j = s.m.fifo j) ∧ s.m.SameBut [.pff] t) ∧
  (∀ (s : State) (n : Fin 8), s.m.pageSt (.pff n) ≠ .off → Completes (.pfCtrlAbort (.agent .mgmt) n) s fun t =>
    t.fifo n = { s.m.fifo n with opn := [] } ∧ (∀ j, j ≠ n → t.fifo j = s.m.fifo j) ∧ s.m.SameBut [.pff] t) ∧
  (∀ (s : State) (a : Agent) (n : Fin 8), s.m.pageSt (.pff n) = .running → s.m.pffCons n = a.num → (s.m.fifo n).vis ≠ [] →
    Completes (.pfCtrlDrop a n) s fun t =>
    t.fifo n = { s.m.fifo n with vis := dropPacket (s.m.fifo n).vis, partPopped := false } ∧
    t.rdN (pffReg n Reg.PF_DROPS) = min 0xFFFFFFFF (s.m.rdN (pffReg n Reg.PF_DROPS) + 1) ∧
    (∀ j, j ≠ n → t.fifo j = s.m.fifo j) ∧ s.m.RegsSame [pffReg n Reg.PF_DROPS] t ∧ s.m.SameBut [.pff, .reg] t) ∧
  (∀ (s : State) (a : Agent) (n : Fin 8), s.m.pageSt (.pff n) ≠ .off → (s.m.fifo n).vis = [] → Completes (.pfCtrlDrop a n) s fun t =>
    t = s.m) ∧
  (∀ (s : State) (a : Agent) (n : Fin 8) (width : Nat) (w : Word) (e : Bool) (r : List (Word × Bool)),
    s.m.pageSt (.pff n) = .running → s.m.pffCons n = a.num → (s.m.fifo n).vis = (w, e) :: r → (s.m.fifo n).stalled = none →
    Completes (.pfDataRead a n width) s fun t =>
    t.fifo n = { s.m.fifo n with vis := r, last := w, eop := e, partPopped := !e } ∧ (∀ j, j ≠ n → t.fifo j = s.m.fifo j) ∧
    s.m.Sent [.reg a width (narrow width w)] t ∧ s.m.SameBut [.pff, .out] t) ∧
  (∀ (s : State) (a : Agent) (n : Fin 8) (width : Nat), s.m.pageSt (.pff n) = .running → s.m.pffCons n = a.num →
    (s.m.fifo n).vis = [] → Completes (.pfDataRead a n width) s fun t =>
    t.fifo n = { s.m.fifo n with underrun := true } ∧ (∀ j, j ≠ n → t.fifo j = s.m.fifo j) ∧
    s.m.Sent [.reg a width (narrow width (s.m.fifo n).last)] t ∧ s.m.SameBut [.pff, .out] t) ∧
  (∀ (s : State) (a : Agent) (n : Fin 8) (width : Nat), s.m.pageSt (.pff n) ≠ .off → s.m.pffCons n ≠ a.num →
    Completes (.pfDataRead a n width) s fun t =>
    t.rdN (pffReg n Reg.PF_FOREIGN) = min 0xFFFFFFFF (s.m.rdN (pffReg n Reg.PF_FOREIGN) + 1) ∧ s.m.Sent [.reg a width 0] t ∧
    s.m.RegsSame [pffReg n Reg.PF_FOREIGN] t ∧ s.m.SameBut [.reg, .out] t) ∧
  (∀ (s : State) (n : Fin 8) (w : Word) (ok : Bool), n.val ≠ 4 → s.m.pageSt (.pff n) = .running →
    (s.m.fifo n).stalled = some (w, ok) → 0 < s.m.pffFree n → (s.m.fifo n).endNext = false →
    Completes (.pfPushStallComplete n) s fun t =>
    t.fifo n = { s.m.fifo n with stalled := none, opn := (s.m.fifo n).opn ++ [w] } ∧ (∀ j, j ≠ n → t.fifo j = s.m.fifo j) ∧
    s.m.SameBut [.pff] t) ∧
  (∀ (s : State) (n : Fin 8) (p : List Word) (r : List (List Word)), (s.m.fifo n).hidden = p :: r →
    Completes (.packetVisible n) s fun t =>
    t.fifo n = { s.m.fifo n with hidden := r, vis := (s.m.fifo n).vis ++ packetWords p } ∧ (∀ j, j ≠ n → t.fifo j = s.m.fifo j) ∧
    s.m.SameBut [.pff] t)

/-! ### Register access -/

/-- Register access by the access codes of Table 00.3, for aligned accesses of 32 bits to a powered page. A write of a staged
register on a STOPPED page stores the bits that the register has, and on any other page changes only PG_ERR.RSVIOL and its record; a write
of a selector stores it for the agent that wrote it; a write of PG_ERR clears the bits that are 1; a port's write of a register that only management firmware may write is dropped and counted in PORT_WDROP (R9); a read of an
RC register of the stored kind answers it and clears it whole (R34); a read of QCT_SLOTS answers it and restarts its peak from the
slots in use (R452); a write of DRG_PADDR_HI leaves the decode of the address in DRG_PRES and DRG_PROW (R318). -/
def Obligations.RegisterAccess : Prop :=
  (∀ (s : State) (a : Agent) (off : Nat) (v : BitVec 64) (p : Page) (r : RegRow), off % 4 = 0 → off < 0x600000 →
    pageOf a off = some p → s.m.pageSt p = .stopped → 0x40 ≤ off % 0x1000 → rowOf (p.typeCode * 0x1000 + off % 0x1000) = some r →
    r.acc = .rs → (r.mgmt = false ∨ a = .mgmt) → s.m.writeSpecial a p (off % 0x1000) (v.setWidth 32) = none →
    (∀ d, p = .drc d → off % 0x1000 ≠ Reg.DRC_SPARE) → s.m.Calm → Completes (.registerWrite a off 4 v) s fun t =>
    t.rd (p.base + off % 0x1000) = v.setWidth 32 &&& BitVec.ofNat 32 r.mask ∧ s.m.RegsBut [p.base + off % 0x1000] t ∧
    s.m.HdrsBut [] t ∧ s.m.SameBut [.reg] t) ∧
  (∀ (s : State) (a : Agent) (off : Nat) (v : BitVec 64) (p : Page) (r : RegRow), off % 4 = 0 → off < 0x600000 →
    pageOf a off = some p → s.m.pageSt p ≠ .off → 0x40 ≤ off % 0x1000 → rowOf (p.typeCode * 0x1000 + off % 0x1000) = some r →
    isBanked (p.typeCode * 0x1000 + off % 0x1000) = true → isLowOfPair (p.typeCode * 0x1000 + off % 0x1000) = false →
    s.m.writeSpecial a p (off % 0x1000) (v.setWidth 32) = none → s.m.Calm → Completes (.registerWrite a off 4 v) s fun t =>
    t.rd (bank a (p.base + off % 0x1000)) = v.setWidth 32 &&& BitVec.ofNat 32 r.mask ∧
    s.m.RegsBut [bank a (p.base + off % 0x1000)] t ∧ s.m.HdrsBut [] t ∧ s.m.SameBut [.reg] t) ∧
  (∀ (s : State) (a : Agent) (off : Nat) (v : BitVec 64) (p : Page), off % 0x1000 = 0x0C → off < 0x600000 →
    pageOf a off = some p → s.m.pageSt p ≠ .off → s.m.Calm → Completes (.registerWrite a off 4 v) s fun t =>
    t.hdr p = { s.m.hdr p with err := (s.m.hdr p).err &&& ~~~v.setWidth 32 } ∧ s.m.HdrsBut [p] t ∧ s.m.RegsBut [] t ∧
    s.m.SameBut [.reg] t) ∧
  (∀ (s : State) (a : Agent) (off : Nat) (v : BitVec 64) (p : Page) (r : RegRow), off % 4 = 0 → off < 0x600000 →
    pageOf a off = some p → s.m.pageSt p ≠ .off → s.m.pageSt p ≠ .stopped → 0x40 ≤ off % 0x1000 →
    rowOf (p.typeCode * 0x1000 + off % 0x1000) = some r → r.acc = .rs → (r.mgmt = false ∨ a = .mgmt) →
    s.m.writeSpecial a p (off % 0x1000) (v.setWidth 32) = none →
    s.m.Calm → Completes (.registerWrite a off 4 v) s fun t => Mach.Recorded (s.m.errBit p 0) t) ∧
  (∀ (s : State) (h : Port) (off : Nat) (v : BitVec 64) (p : Page) (r : RegRow), off % 4 = 0 → off < 0x600000 →
    pageOf h.agent off = some p → s.m.pageSt p ≠ .off → 0x40 ≤ off % 0x1000 →
    rowOf (p.typeCode * 0x1000 + off % 0x1000) = some r → r.mgmt = true →
    s.m.Calm → Completes (.registerWrite h.agent off 4 v) s fun t =>
    t.rdN (portReg h Reg.PORT_WDROP) = min 0xFFFFFFFF (s.m.rdN (portReg h Reg.PORT_WDROP) + 1) ∧
    s.m.RegsSame [portReg h Reg.PORT_WDROP] t ∧ s.m.SameBut [.reg] t) ∧
  (∀ (s : State) (a : Agent) (off : Nat) (p : Page) (r : RegRow), off % 4 = 0 → pageOf a off = some p → s.m.pageSt p ≠ .off →
    (∀ n, p ≠ .pff n) → rowOf (p.typeCode * 0x1000 + off % 0x1000) = some r → r.acc = .rc →
    Completes (.rcRegisterRead a off 4) s fun t =>
    t.rd (p.base + off % 0x1000) = 0 ∧ s.m.RegsBut [p.base + off % 0x1000] t ∧ s.m.Stepped p t ∧
    s.m.Sent [.reg a 4 (narrow 4 (s.m.wordAt a p (off % 0x1000)))] t ∧ s.m.SameBut [.reg, .out, .free] t) ∧
  (∀ (s : State) (a : Agent), s.m.pageSt .qct ≠ .off → Completes (.peakFieldRead a 0xA04C 4) s fun t =>
    t.rd Reg.QCT_SLOTS = BitVec.ofNat 32 s.m.q.used.length ∧ s.m.RegsBut [Reg.QCT_SLOTS] t ∧ s.m.Stepped .qct t ∧
    s.m.Sent [.reg a 4 (narrow 4 (s.m.wordAt a .qct 0x4C))] t ∧ s.m.SameBut [.reg, .out, .free] t) ∧
  (∀ (s : State) (a : Agent) (hi : Word), s.m.pageSt .map ≠ .off → Completes (.mapProbe a hi) s fun t =>
    t.rd (bank a Reg.MAP_PLBA_HI) = hi ∧
    let lba := (s.m.takeLow (bank a Reg.MAP_PLBA_LO)).2.toNat + 2 ^ 32 * hi.toNat
    let r := s.m.probeResult (Fin.ofNat 64 (s.m.sel a Reg.MAP_PVOL)) lba
    t.rd (bank a Reg.MAP_PRES) = BitVec.ofNat 32 r.1 ∧ t.rd (bank a Reg.MAP_PENT_LO) = loWord r.2 ∧
    t.rd (bank a Reg.MAP_PENT_HI) = hiWord r.2 &&& 0xFF ∧
    (s.m.probeErr (Fin.ofNat 64 (s.m.sel a Reg.MAP_PVOL)) lba = false →
      s.m.RegsBut ([Reg.MAP_PLBA_LO, Reg.MAP_PLBA_HI, Reg.MAP_PRES, Reg.MAP_PENT_LO, Reg.MAP_PENT_HI].map (bank a)) t ∧
      s.m.SameBut [.reg, .free] t)) ∧
  (∀ (s : State) (a : Agent) (hi : Word), s.m.pageSt .drg ≠ .off → Completes (.drgDecode a hi) s fun t =>
    let addr := (SMap.get (s.m.rd (bank a Reg.DRG_PADDR_LO)) s.m.reg.low (bank a Reg.DRG_PADDR_LO)).toNat + 2 ^ 32 * (hi.toNat % 64)
    t.rd (bank a Reg.DRG_PRES) = (s.m.drgResult addr).1 ∧ t.rd (bank a Reg.DRG_PROW) = (s.m.drgResult addr).2 ∧
    s.m.RegsBut ([Reg.DRG_PADDR_LO, Reg.DRG_PADDR_HI, Reg.DRG_PRES, Reg.DRG_PROW].map (bank a)) t ∧ s.m.SameBut [.reg] t)

/-! ### Device resets -/

/-- The device resets of R54. Power-on and the loss of PWRGD reset the part and lose the Almanac's working ring; power-on also adds 1 to
the power-cycle count that the persisted ring holds. RESET_N and the immediate SMBus request take effect at once in native mode, and of
the ring nothing is lost but records whose CRC no longer fits; at RESET_N in capacitor-backed mode the write-out runs first, behind which the
reset is held, and both links go down. While PWRGD is low, or
in the power-fail sequence, RESET_N changes nothing but its level; its rise samples the straps and lets start-up begin. A request that the
SMBus target does not take is answered NACK. -/
def Obligations.DeviceResets : Prop :=
  (∀ (s : State) (straps : BitVec 3), Completes (.powerOn straps) s fun t =>
    t.Cleared ∧ s.m.Kept t ∧ t.dev.st = .boot ∧ t.dev.cause = bit32 0 ∧ t.dev.pwrgd = true ∧ t.alm.ring = [] ∧
    t.alm.pcc = maxWord (s.m.alm.pers.map (·.pcc)) + 1 ∧ t.tap = .idcode ∧
    t.dev.strap = if s.m.dev.resetN then straps else s.m.dev.strap) ∧
  (∀ s : State, s.m.dev.pwrgd = true → Completes .pwrgdFall s fun t =>
    t.Cleared ∧ s.m.Kept t ∧ t.dev.st = .boot ∧ t.dev.stage = 0 ∧ t.dev.pwrgd = false ∧ t.alm.ring = []) ∧
  (∀ s : State, s.m.dev.resetN = true → s.m.dev.pwrgd = true → s.m.dev.pf = .none → s.m.capMode = false →
    Completes .resetNAssert s fun t =>
    t.Cleared ∧ s.m.Kept t ∧ t.dev.st = .boot ∧ t.dev.cause = bit32 1 ∧ t.dev.resetN = false ∧ s.m.RingRead t) ∧
  (∀ s : State, s.m.dev.resetN = true → s.m.dev.pwrgd = true → s.m.dev.pf = .none → s.m.capMode = true →
    Completes .resetNAssert s fun t =>
    t.dev = { s.m.dev with resetN := false, pf := .ending, dump := some .resetPin, resetHeld := true } ∧ t.hdl.dumpActive = true ∧
    (∀ p, (t.port.get p).up = false) ∧ t.alm.buffered = true ∧ (∀ o ∈ t.fl.ops, o.issued = true) ∧ t.buf = s.m.buf ∧ t.vol = s.m.vol ∧
    t.lamp = { s.m.lamp with fetches := t.lamp.fetches, late := t.lamp.late, capHeld := t.lamp.capHeld }) ∧
  (∀ s : State, s.m.dev.resetN = true → s.m.dev.pwrgd = false ∨ s.m.dev.pf ≠ .none → Completes .resetNAssert s fun t =>
    t = { s.m with dev := { s.m.dev with resetN := false } }) ∧
  (∀ (s : State) (straps : BitVec 3), s.m.dev.resetN = false → s.m.dev.pwrgd = true → Completes (.resetNDeassert straps) s fun t =>
    t.dev.resetN = true ∧ t.dev.strap = straps ∧ t.dev.st = s.m.dev.st ∧ t.tap = s.m.tap.released ∧
    t.dev.stage = (if s.m.dev.st = .boot ∧ s.m.dev.stage = 0 ∧ s.m.dev.bootErr = 0 ∧ s.m.dev.resetHeld = false ∧ s.m.dev.mclk = true ∧
      s.m.dev.aclk = true ∧ s.m.adm.board.testMode = false then 1 else s.m.dev.stage) ∧
    s.m.RegsBut [] t ∧ s.m.SameBut [.dev, .tap, .reg, .thm] t) ∧
  (∀ s : State, s.m.smbusUp = true → s.m.dev.pf = .none → s.m.capMode = false → Completes (.smbusImmediateReset true) s fun t =>
    t.Cleared ∧ s.m.Kept t ∧ t.dev.st = .boot ∧ t.dev.cause = bit32 2 ∧ s.m.RingRead t) ∧
  (∀ (s : State) (pecOk : Bool) (c : Instr), c = .smbusImmediateReset pecOk ∨ c = .smbusOrderlyReset pecOk →
    pecOk = false ∨ s.m.smbusUp = false ∨ s.m.dev.pf ≠ .none → Completes c s fun t => t = { s.m with out := s.m.out ++ [.smbNack] })

/-- The orderly stop (R68, R446) and the SMBus status window (R445). A valid ORDERLY request starts the clean shutdown while the part
serves I/O, and before that acts as an immediate reset; DEV_SHDN.REQ starts it from any port; QUIESCE ends when no host command and no copy
of the Gleaner is in flight; LAMP ends when no lit page is dirty. The window's 16 bytes leave as they are when the command byte comes. The watchdog (R58, R59). When its timeout passes while the firmware runs, the restart adds 1 to DEV_WDOG_CNT, sets DEV_RST_CAUSE.WDOG,
revokes SERVICE_UNLOCK on both ports, and begins the check of the slot; the device state stands. A timeout of 0 disables it. Management
firmware alone writes DEV_WDOG. -/
def Obligations.OrderlyStopAndWatchdog : Prop :=
  (∀ s : State, s.m.smbusUp = true → s.m.dev.pf = .none → s.m.ioUp = true → s.m.dev.phase = .idle →
    Completes (.smbusOrderlyReset true) s fun t => t = { s.m with dev := { s.m.dev with phase := .quiesce, orderly := true } }) ∧
  (∀ s : State, s.m.smbusUp = true → s.m.dev.pf = .none → s.m.ioUp = false → Completes (.smbusOrderlyReset true) s fun t =>
    t.Cleared ∧ s.m.Kept t ∧ t.dev.st = .boot ∧ t.dev.cause = bit32 2 ∧ s.m.RingRead t) ∧
  (∀ (s : State) (a : Agent), s.m.dev.st ≠ .boot → s.m.dev.st ≠ .failed → s.m.dev.phase = .idle →
    Completes (.shutdownRequest a) s fun t => t = { s.m with dev := { s.m.dev with phase := .quiesce, orderly := false } }) ∧
  (∀ (s : State) (a : Agent), s.m.dev.phase ≠ .idle → Completes (.shutdownRequest a) s fun t => t = s.m) ∧
  (∀ s : State, s.m.dev.pf = .none → s.m.dev.phase = .quiesce → s.m.dev.loaded = true → s.m.q.used = [] → s.m.q.fetches = [] →
    s.m.gln.copies = [] → Completes .shutdownPhaseEnd s fun t => t = { s.m with dev := { s.m.dev with phase := .lamp } }) ∧
  (∀ s : State, s.m.dev.pf = .none → s.m.dev.phase = .lamp → (∀ e ∈ s.m.lamp.desc, e.2.lit &&& e.2.dirty = 0) →
    Completes .shutdownPhaseEnd s fun t => t = { s.m with dev := { s.m.dev with phase := .drain } }) ∧
  (∀ s : State, s.m.dev.pf = .none → s.m.dev.phase = .checkpoint → s.m.dev.loaded = true → s.m.hdl.cleanRoot = false →
    s.m.checkpointed = true → Completes .shutdownPhaseEnd s fun t => t.hdl.cleanRoot = true ∧ t.dev.phase = .checkpoint) ∧
  (∀ s : State, s.m.smbusUp = true → Completes .smbusStatusWindow s fun t =>
    t = { s.m with out := s.m.out ++ [.smbus s.m.statusWindow] }) ∧
  (∀ s : State, s.m.smbusUp = false → Completes .smbusStatusWindow s fun t => t = { s.m with out := s.m.out ++ [.smbNack] }) ∧
  (∀ s : State, s.m.dev.fwRunning = true → s.m.rd Reg.DEV_WDOG ≠ 0 → s.m.adm.hitless = none → Completes .watchdogExpiry s fun t =>
    t.dev = { s.m.dev with fwRunning := false, checking := true, tried := [], cause := s.m.dev.cause ||| bit32 4 } ∧
    t.rdN Reg.DEV_WDOG_CNT = min 0xFFFFFFFF (s.m.rdN Reg.DEV_WDOG_CNT + 1) ∧
    (∀ p, (t.port.get p).unlocked = false ∧ (t.port.get p).challenge = none) ∧
    (∀ i, t.cmd i = s.m.cmd i) ∧ (t.adm.mboxQ = s.m.adm.mboxQ) ∧
    s.m.SameBut [.dev, .reg, .pff, .port, .adm, .alm, .q, .hdl, .twn, .out] t) ∧
  (∀ s : State, s.m.rd Reg.DEV_WDOG = 0 → Completes .watchdogExpiry s fun t => t = s.m) ∧
  (∀ (s : State) (v : Word), Completes (.devWdogWrite .mgmt v) s fun t =>
    t.rd Reg.DEV_WDOG = v &&& 0xFFFF ∧ s.m.RegsBut [Reg.DEV_WDOG] t ∧ s.m.HdrsBut [] t ∧ s.m.SameBut [.reg] t) ∧
  (∀ (s : State) (h : Port) (v : Word), Completes (.devWdogWrite h.agent v) s fun t =>
    t.rdN (portReg h Reg.PORT_WDROP) = min 0xFFFFFFFF (s.m.rdN (portReg h Reg.PORT_WDROP) + 1) ∧
    s.m.RegsSame [portReg h Reg.PORT_WDROP] t ∧ s.m.SameBut [.reg] t)

/-! ### Start-up -/

/-- Steps 2 to 5 of a start-up (R61, R62, R178), and the end of the pause (R74). The fuse check leads to step 3 or ends in DEV_BOOT.ERR 1; the
boot blocks are read at 400 MT/s; under NORMAL a good active slot is the one that runs, a bad one leads to the check of the other, and the
other's success sets FALLBACK and leaves the active slot as it is, its failure ends in ERR 4; under a strap that names one slot a bad one ends
in ERR 2, 3 or 5; under RECOVERY the image runs that the boot blocks hold, and ERR is 7 where it cannot be read; unreadable boot blocks end in
ERR 6; the start of the firmware moves BOOT to ADMIN_READY, and after a restart of the firmware alone the device state stands; DEV_BOOTCTL.GO ends
the pause. -/
def Obligations.BootSteps : Prop :=
  (∀ s : State, s.m.dev.st = .boot → s.m.dev.stage = 1 → s.m.dev.bootErr = 0 → Completes (.fuseCheckDone true) s fun t =>
    t = { s.m with dev := { s.m.dev with stage := 2, checking := true, tried := [] } }) ∧
  (∀ s : State, s.m.dev.st = .boot → s.m.dev.stage = 1 → s.m.dev.bootErr = 0 → Completes (.fuseCheckDone false) s fun t =>
    t = { s.m with dev := { s.m.dev with bootErr := 1 } }) ∧
  (∀ s : State, s.m.dev.checking = true → s.m.dev.strap = 0 → s.m.dev.tried = [] → s.m.imageFault s.m.adm.active = none →
    s.m.dev.st = .boot → Completes (.slotCheck .read) s fun t =>
    t.dev = { s.m.dev with slot := s.m.adm.active, recovery := false, checking := false, stage := 3 } ∧
    t.fl = { s.m.fl with wpT0 := 3, ch := t.fl.ch } ∧
    (∀ c, t.chn c = if c ∈ bootChans then { s.m.chn c with rate := 1 } else s.m.chn c) ∧ s.m.SameBut [.dev, .fl] t) ∧
  (∀ (s : State) (w : Nat) (r : SlotRead), s.m.dev.checking = true → s.m.dev.strap = 0 → s.m.dev.tried = [] →
    (r = .read ∧ s.m.imageFault s.m.adm.active = some w) ∨ r = .unreadable → Completes (.slotCheck r) s fun t =>
    t.dev = { s.m.dev with tried := [s.m.adm.active] } ∧ t.fl = { s.m.fl with ch := t.fl.ch } ∧ s.m.SameBut [.dev, .fl] t) ∧
  (∀ s : State, s.m.dev.checking = true → s.m.dev.strap = 0 → s.m.dev.tried = [s.m.adm.active] →
    s.m.imageFault (s.m.adm.active + 1) = none → s.m.dev.st = .boot → Completes (.slotCheck .read) s fun t =>
    t.dev = { s.m.dev with
      slot := s.m.adm.active + 1, recovery := false, checking := false, fallback := true, stage := 3
      bootErr := if s.m.adm.active = 0 then 2 else 3 } ∧
    t.fl = { s.m.fl with wpT0 := 3, ch := t.fl.ch } ∧ t.adm.active = s.m.adm.active ∧
    s.m.SameBut [.dev, .fl, .reg, .pff, .adm, .alm] t) ∧
  (∀ (s : State) (w : Nat) (r : SlotRead), s.m.dev.checking = true → s.m.dev.strap = 0 → s.m.dev.tried = [s.m.adm.active] →
    (r = .read ∧ s.m.imageFault (s.m.adm.active + 1) = some w) ∨ r = .unreadable → Completes (.slotCheck r) s fun t =>
    t.dev = { s.m.dev with bootErr := 4, checking := false, fwHalt := s.m.dev.st != .boot } ∧
    t.fl = { s.m.fl with ch := t.fl.ch } ∧ s.m.SameBut [.dev, .fl] t) ∧
  (∀ (s : State) (k : Fin 2) (w : Nat), s.m.dev.checking = true → s.m.dev.strap = BitVec.ofNat 3 (k.val + 1) → s.m.imageFault k = some w →
    Completes (.slotCheck .read) s fun t =>
    t.dev = { s.m.dev with bootErr := if w = 1 then 5 else 2 + k.val, checking := false, fwHalt := s.m.dev.st != .boot } ∧
    t.fl = { s.m.fl with ch := t.fl.ch } ∧ s.m.SameBut [.dev, .fl] t) ∧
  (∀ s : State, s.m.dev.checking = true → s.m.dev.strap = 3 → s.m.dev.st = .boot → s.m.dev.tried = [] →
    Completes (.slotCheck .read) s fun t =>
    t.dev = { s.m.dev with slot := 0, recovery := true, checking := false, stage := 3 } ∧
    t.fl = { s.m.fl with wpT0 := 3, ch := t.fl.ch } ∧ s.m.SameBut [.dev, .fl] t) ∧
  (∀ (s : State) (r : SlotRead), s.m.dev.checking = true → r = .noBootBlocks ∨ (s.m.dev.strap = 3 ∧ r = .unreadable) →
    Completes (.slotCheck r) s fun t =>
    t.dev = { s.m.dev with bootErr := if r = .noBootBlocks then 6 else 7, checking := false, fwHalt := s.m.dev.st != .boot } ∧
    t.fl = { s.m.fl with ch := t.fl.ch } ∧ s.m.SameBut [.dev, .fl] t) ∧
  (∀ s : State, s.m.dev.checking = false → s.m.dev.fwRunning = false → s.m.dev.st = .boot → s.m.dev.stage = 3 →
    s.m.Calm → Completes .managementFirmwareStart s fun t =>
    t.dev = { s.m.dev with st := .adminReady, stage := 5, fwRunning := true } ∧ s.m.SameBut [.dev, .reg, .pff, .adm, .alm, .thm] t) ∧
  (∀ s : State, s.m.dev.checking = false → s.m.dev.fwRunning = false → s.m.dev.st ≠ .boot → s.m.dev.fwHalt = false →
    s.m.Calm → Completes .managementFirmwareStart s fun t => t = { s.m with dev := { s.m.dev with fwRunning := true } }) ∧
  (∀ (s : State) (a : Agent), s.m.dev.st = .adminReady → s.m.dev.stage = 9 → Completes (.devBootctlGo a) s fun t =>
    t = { s.m with dev := { s.m.dev with stage := if s.m.dev.formatted then 7 else 10 } })

/-- Training (steps 6 and 7, R63, R178 to R180, R307). A DRAM channel that trains is RUNNING, and the fourth ends step 6; one that does not is
FAULTED and the part FAILED. A flash channel that trains keeps what training learnt, and its group's rate is 2,400 MT/s under FRATE_CAP; one
that does not is FAULTED while start-up goes on, and the third such channel ends in FAILED. -/
def Obligations.Training : Prop :=
  (∀ (s : State) (d : Fin 4), s.m.dev.st = .adminReady → s.m.dev.stage = 5 → s.m.dev.dramDone.getLsbD d.val = false →
    s.m.pageSt (.drc d) = .stopped → Completes (.dramTrainingDone d true) s fun t =>
    t.dev = { s.m.dev with
      dramDone := s.m.dev.dramDone ||| BitVec.ofNat 4 (2 ^ d.val)
      stage := if s.m.dev.dramDone ||| BitVec.ofNat 4 (2 ^ d.val) = 15 then 6 else 5 } ∧
    t.pageSt (.drc d) = .running ∧ (t.dram d).trained = true ∧ (∀ j, j ≠ d → t.dram j = s.m.dram j) ∧
    (∀ q, q ≠ .drc d → q ≠ .drg → t.pageSt q = s.m.pageSt q) ∧ s.m.RegsBut [] t ∧ s.m.SameBut [.dev, .reg, .drc, .free] t) ∧
  (∀ (s : State) (d : Fin 4), s.m.dev.st = .adminReady → s.m.dev.stage = 5 → s.m.dev.dramDone.getLsbD d.val = false →
    Completes (.dramTrainingDone d false) s fun t => t.dev.st = .failed ∧ t.dev.failCause = 2 ∧ t.drc = s.m.drc) ∧
  (∀ (s : State) (c : Chan) (x : ChanTraining), s.m.dev.st = .adminReady → s.m.dev.stage = 6 → s.m.dev.flashDone.getLsbD c.val = false →
    s.m.dev.flashDone ||| bit32 c.val ≠ 0xFFFFFFFF → (maskBits s.m.dev.flashFail).length ≤ 2 → x.ok = true → x.dies.all s.m.dieFits = true →
    s.m.pageSt (.fch c) = .stopped → (∃ j ∈ groupOf c, j ≠ c ∧ s.m.dev.flashDone.getLsbD j.val = false) →
    Completes (.flashTrainingDone c x) s fun t =>
    t.dev = { s.m.dev with flashDone := s.m.dev.flashDone ||| bit32 c.val } ∧ t.pageSt (.fch c) = .running ∧
    t.chn c = { s.m.chn c with
      trained := true, deskew := deskewPasses (x.windows.map centred), windows := x.windows.map centred
      extqual := x.dies.all fun i => (dieInfoOf i s.m.runSlot.img.diecap).extrate } ∧
    (∀ j, j ≠ c → t.chn j = s.m.chn j) ∧
    (∀ i, x.dies = [i] → (t.die (dieOf c i.row.val)).info = some (dieInfoOf i s.m.runSlot.img.diecap)) ∧
    (∀ q, q ≠ .fch c → t.pageSt q = s.m.pageSt q) ∧ s.m.RegsBut [] t ∧ s.m.SameBut [.dev, .reg, .fl] t) ∧
  (∀ (s : State) (c : Chan) (x : ChanTraining), s.m.dev.st = .adminReady → s.m.dev.stage = 6 → s.m.dev.flashDone.getLsbD c.val = false →
    s.m.dev.flashDone ||| bit32 c.val ≠ 0xFFFFFFFF → (maskBits s.m.dev.flashFail).length ≤ 2 → x.ok = true →
    x.dies.all s.m.dieFits = true → (∀ j ∈ groupOf c, j ≠ c → s.m.dev.flashDone.getLsbD j.val = true) → s.m.adm.now.frateCap ≠ 1 →
    Completes (.flashTrainingDone c x) s fun t =>
    (t.chn c).rate = 2 ∧
    ∀ j, j ≠ c → t.chn j = if j ∈ groupOf c then { s.m.chn j with rate := 2, deskew := false, windows := [] } else s.m.chn j) ∧
  (∀ (s : State) (c : Chan) (x : ChanTraining), s.m.dev.st = .adminReady → s.m.dev.stage = 6 → s.m.dev.flashDone.getLsbD c.val = false →
    s.m.dev.flashDone ||| bit32 c.val ≠ 0xFFFFFFFF → (maskBits (s.m.dev.flashFail ||| bit32 c.val)).length ≤ 2 → x.ok = false ∨ x.dies.all s.m.dieFits = false →
    Completes (.flashTrainingDone c x) s fun t =>
    t.dev.st = .adminReady ∧ t.dev.flashFail = s.m.dev.flashFail ||| bit32 c.val ∧ t.pageSt (.fch c) = .faulted ∧
    (∀ q, q ≠ .fch c → t.pageSt q = s.m.pageSt q)) ∧
  (∀ (s : State) (c : Chan) (x : ChanTraining), s.m.dev.st = .adminReady → s.m.dev.stage = 6 → s.m.dev.flashDone.getLsbD c.val = false →
    2 < (maskBits (s.m.dev.flashFail ||| bit32 c.val)).length → x.ok = false ∨ x.dies.all s.m.dieFits = false →
    Completes (.flashTrainingDone c x) s fun t => t.dev.st = .failed ∧ t.dev.failCause = 1)

/-- Steps 9 and 10 (R63, R66, R238, R290 to R292). The load takes the newest root that can be read, with the map, the tables, the
definitions and the counters that it holds; without one the part has FAILED. The replay asks for a root, sets the next WSN above every WSN that
the root or the flash holds, leaves no block in an erase, and counts an unclean start. A block found interrupted is erased afresh, a SYSTEM
block through Q1 and any other through Q2. -/
def Obligations.HeadlandStart : Prop :=
  (∀ (s : State) (bad : List Nat), s.m.dev.st = .adminReady → s.m.dev.stage = 7 → (∀ k ∈ s.m.hdl.roots, k.epoch ∈ bad) →
    Completes (.headlandLoadDone bad) s fun t => t.dev.st = .failed ∧ t.dev.failCause = 3) ∧
  (∀ (s : State) (bad : List Nat) (k : Ckpt), s.m.dev.st = .adminReady → s.m.dev.stage = 7 →
    s.m.hdl.roots.find? (fun k => !bad.contains k.epoch) = some k → Completes (.headlandLoadDone bad) s fun t =>
    t.dev = { s.m.dev with clean := k.clean, loaded := true, stage := 8 } ∧ t.vol.map = k.map ∧ t.vol.usercap = k.defn.usercap ∧
    (∀ v : Vid, t.volu v = (SMap.get {} k.defn.vols v.val).loaded ((s.m.hdl.marks.find? fun e => e.1 == v.val).map (·.2))) ∧
    t.gln.fur = k.fur ∧ t.fl = { s.m.fl with blk := k.blk, retired := k.defn.retired } ∧ t.lamp = { reg := k.defn.regions } ∧
    t.buf = { wsn := k.wsn, fsn := k.nextFsn } ∧ t.hdl = { s.m.hdl with img := k, epoch := k.epoch, durable := k.epoch } ∧
    t.adm.now = k.defn.features ∧ t.adm.nxt = k.defn.features ∧ t.twn.expected = k.defn.partner ∧ t.key = s.m.loadedKeys k.defn) ∧
  (∀ (s : State) (bad : List Nat), s.m.dev.st = .adminReady → s.m.dev.stage = 8 → s.m.dev.startRoot = false →
    Completes (.replayDone bad) s fun t =>
    t.dev = { s.m.dev with startRoot := true } ∧ t.hdl.needRoot = true ∧
    (∀ e ∈ s.m.fl.cw, e.2.kind = .data → e.2.wsn < t.buf.wsn) ∧ s.m.hdl.img.wsn < t.buf.wsn ∧ s.m.hdl.img.nextFsn ≤ t.buf.fsn ∧
    (∀ d b, b < 4096 → (t.blk d b).st ≠ .erasing ∧ (t.blk d b).st ≠ .eraseSuspended) ∧
    t.adm.health.unclean = (if s.m.dev.clean then s.m.adm.health.unclean else stick32 (s.m.adm.health.unclean + 1)) ∧ t.fl.cw = s.m.fl.cw) ∧
  (∀ (s : State) (c : Chan) (r : Row) (b : Nat), s.m.ioUp = true → s.m.dev.pf = .none → s.m.chanAway c = false →
    (s.m.blk (dieOf c r.val) b).st = .eraseInterrupted → (s.m.blk (dieOf c r.val) b).wpHeld = false →
    Completes (.interruptedEraseReerase c r b) s fun t =>
    t.blk (dieOf c r.val) b = { s.m.blk (dieOf c r.val) b with st := .erasing } ∧
    (∀ d e, 4096 * d + e ≠ 4096 * dieOf c r.val + b → t.blk d e = s.m.blk d e) ∧
    t.fl.ops = s.m.fl.ops ++ [{ id := s.m.fl.nextOp, ch := c, row := r, req := if isSystem r.val b then .q1 else .q2
                                kind := .erase b (isSystem r.val b), issued := false, rank0 := false, waited := false, stalled := false }] ∧
    s.m.RegsSame [] t ∧ s.m.SameBut [.fl, .hdl, .reg] t)

/-! ### Ports -/

/-- Port resets and links (R71, R72, R76, R99). PERST_N and a hot reset clear what Table 03.1 gives a port reset and record their cause, and
nothing of the other port; the rise of PERST_N lets the port train; a link that comes up reports its width, rate and whether CXL runs on
it, and one that goes down is counted in PORT_LINKDOWN. -/
def Obligations.PortResets : Prop :=
  (∀ (s : State) (p : Port), (s.m.port.get p).perst = false → s.m.Calm → Completes (.perstNAssert p) s fun t => Mach.PortCleared p true false s.m t) ∧
  (∀ (s : State) (p : Port), (s.m.port.get p).perst = true → s.m.Calm → Completes (.perstNAssert p) s fun t => t = s.m) ∧
  (∀ (s : State) (p : Port), (s.m.port.get p).perst = false → (s.m.port.get p).up = true → s.m.Calm → Completes (.linkHotReset p) s fun t =>
    Mach.PortCleared p false true s.m t) ∧
  (∀ (s : State) (p : Port), (s.m.port.get p).perst = true → Completes (.perstNDeassert p) s fun t =>
    t.port.get p = { s.m.port.get p with perst := false, training := true } ∧ (∀ q, q ≠ p → t.port.get q = s.m.port.get q) ∧
    s.m.SameBut [.dev, .port, .adm] t) ∧
  (∀ (s : State) (p : Port) (width speed : Nat) (cxl rev : Bool), s.m.canLink p width speed = true →
    s.m.Calm → Completes (.linkUp p width speed cxl rev) s fun t =>
    t.port.get p = { s.m.port.get p with
      up := true, everUp := true, training := false, speed := speed, width := width, cxl := cxl && decide (3 ≤ speed), rev := rev } ∧
    (∀ q, q ≠ p → t.port.get q = s.m.port.get q) ∧ s.m.SameBut [.dev, .reg, .pff, .port, .adm, .alm] t) ∧
  (∀ (s : State) (p : Port), (s.m.port.get p).up = true → Completes (.linkDown p) s fun t =>
    t.port.get p = { s.m.port.get p with
      up := false, training := !(s.m.port.get p).perst, inflight := 0, speed := 0, width := 0, cxl := false, rev := false } ∧
    (∀ q, q ≠ p → t.port.get q = s.m.port.get q) ∧
    t.rdN (portReg p Reg.PORT_LINKDOWN) = min 0xFFFFFFFF (s.m.rdN (portReg p Reg.PORT_LINKDOWN) + 1) ∧
    (∀ r ∈ t.lamp.capHeld, r.port = p → r.isMute = true) ∧ t.lamp.desc = s.m.lamp.desc ∧ t.lamp.line = s.m.lamp.line ∧
    s.m.RegsSame [portReg p Reg.PORT_LINKDOWN] t ∧ s.m.SameBut [.dev, .reg, .port, .adm, .lamp] t)

/-- PFAIL_N (R299, Table 12.6). Its fall suspends erases, discards queued flash operations and puts the Almanac into BUFFERED mode; when no
program runs on a die the sequence is over in native mode, with no buffered version gained, and the write-out begins in capacitor-backed mode;
a complete write-out at a GPF leaves a root that is marked DUMP, and its hosts are acknowledged; a reset that the write-out held comes at the end
of the hold-up time; when power remains, the rise of PFAIL_N starts the part up again as after RESET_N. -/
def Obligations.PowerFail : Prop :=
  (∀ s : State, s.m.dev.pf = .none → s.m.dev.pwrgd = true → Completes .pfailNAssert s fun t =>
    t.dev = { s.m.dev with pfailN := false, pf := .ending } ∧ t.alm.buffered = true ∧ (∀ o ∈ t.fl.ops, o.issued = true) ∧
    t.buf = s.m.buf ∧ t.vol = s.m.vol ∧ t.lamp = s.m.lamp ∧ t.q = s.m.q) ∧
  (∀ s : State, s.m.dev.pf ≠ .none → Completes .pfailNAssert s fun t => t = { s.m with dev := { s.m.dev with pfailN := false } }) ∧
  (∀ s : State, s.m.dev.pf = .ending → s.m.dev.dump = none → (∀ o ∈ s.m.fl.ops, o.issued = true → o.kind.isProgram = false) →
    s.m.capMode = true → Completes .programsInFlightEnd s fun t =>
    t = { s.m with dev := { s.m.dev with pf := .writing, dump := some .powerFail }, hdl := { s.m.hdl with dumpActive := true } }) ∧
  (∀ s : State, s.m.dev.pf = .ending → s.m.dev.dump = none → (∀ o ∈ s.m.fl.ops, o.issued = true → o.kind.isProgram = false) →
    s.m.capMode = false → s.m.fl.trip = false → s.m.dev.pfailN = false → Completes .programsInFlightEnd s fun t =>
    t.dev = { s.m.dev with pf := .over, dump := none } ∧ (∀ x ∈ t.buf.vers, x ∈ s.m.buf.vers) ∧
    t.buf = { s.m.buf with vers := t.buf.vers } ∧ s.m.SameBut [.dev, .reg, .pff, .buf, .adm, .alm] t) ∧
  (∀ s : State, s.m.dev.dump = some .gpf → s.m.dev.pf = .none → s.m.fl.trip = false → s.m.dev.resetHeld = false →
    Completes (.dumpEnd true) s fun t =>
    t.dev = { s.m.dev with dump := none, gpfWait := { p0 := false, p1 := false } } ∧ t.hdl.dumpValid = true ∧ t.hdl.dumpPartial = false ∧
    t.hdl.dumpActive = false ∧ t.hdl.dumped = s.m.dumpVers ∧ t.buf.wsn = s.m.buf.wsn + 1 ∧ t.hdl.epoch = s.m.hdl.epoch + 1 ∧
    (∃ k, t.hdl.roots = k :: s.m.hdl.roots ∧ k.dump = true ∧ k.epoch = s.m.hdl.epoch + 1) ∧
    s.m.Sent ((if s.m.dev.gpfWait.p0 then [.gpfAck .p0 2] else []) ++ (if s.m.dev.gpfWait.p1 then [.gpfAck .p1 2] else [])) t) ∧
  (∀ s : State, s.m.dev.resetHeld = true → s.m.dev.dump = some .resetPin → Completes .holdUpTimeExpiry s fun t =>
    t.Cleared ∧ t.dev.st = .boot ∧ t.dev.resetHeld = false ∧ t.dev.cause = bit32 1 ∧ t.dev.dump = none) ∧
  (∀ s : State, s.m.dev.pf = .over → Completes .pfailNRelease s fun t =>
    t.Cleared ∧ s.m.Kept t ∧ t.dev.st = .boot ∧ t.dev.cause = bit32 1 ∧ t.dev.pfailN = true ∧ s.m.RingRead t) ∧
  (∀ s : State, s.m.dev.pf ≠ .over → Completes .pfailNRelease s fun t => t = { s.m with dev := { s.m.dev with pfailN := true } })

/-! ### CXL.mem -/

/-- CXL.mem reads (R20, R91, R94, R155) of a page whose descriptor the Lantern holds. A lit page answers the line in its frame; in a
region without LIGHT_ON_TOUCH a page that is not lit answers zero data with poison, counted in LMP_DARKRD and PORT_POISON_TX, and nothing of
the lamp window changes; so does an address of no decoder, counted in PORT_NODEC, and a read while the part does not serve the window. -/
def Obligations.MemoryReads : Prop :=
  (∀ (s : State) (p : Port) (hpa dpa i f : Nat) (a : LampAddr), s.m.memOpen p = true → s.m.lampOpen = true →
    s.m.hdmMatch p hpa = some dpa → s.m.lampAddr dpa = some a → s.m.lamp.mode ≠ .disabled →
    s.m.lntFind (descKey a.region a.block) = some i → s.m.ClearWay (descKey a.region a.block) dpa → ((s.m.desc (descKey a.region a.block)).state a.page).isLit = true →
    (s.m.desc (descKey a.region a.block)).frame = some f → lineKey f a.page a.line ∉ s.m.lamp.lost →
    Completes (.cxlMemRead p hpa .clean) s fun t =>
    s.m.Sent [.memData p (SMap.get 0 s.m.lamp.line (lineKey f a.page a.line)) false] t ∧
    t.lamp = { s.m.lamp with lnt := t.lamp.lnt } ∧ (∀ j, t.lnt j = s.m.lnt j) ∧ (∀ q, t.port.get q = s.m.port.get q) ∧
    t.rd64 (portReg p Reg.PORT_MEMRD_LO) = s.m.rd64 (portReg p Reg.PORT_MEMRD_LO) + 1 ∧
    t.rd64 Reg.LNT_HIT_LO = s.m.rd64 Reg.LNT_HIT_LO + 1 ∧ s.m.RegsBut [portReg p Reg.PORT_MEMINFL] t ∧
    s.m.SameBut [.reg, .port, .lamp, .out] t) ∧
  (∀ (s : State) (p : Port) (hpa dpa i : Nat) (a : LampAddr), s.m.memOpen p = true → s.m.lampOpen = true →
    s.m.hdmMatch p hpa = some dpa → s.m.lampAddr dpa = some a → s.m.lamp.mode ≠ .disabled →
    s.m.lntFind (descKey a.region a.block) = some i → s.m.ClearWay (descKey a.region a.block) dpa → ((s.m.desc (descKey a.region a.block)).state a.page).isLit = false →
    (s.m.region a.region).lot = false → Completes (.cxlMemRead p hpa .clean) s fun t =>
    s.m.Sent [.memData p 0 true] t ∧ t.lamp = { s.m.lamp with lnt := t.lamp.lnt } ∧ (∀ q, t.port.get q = s.m.port.get q) ∧
    t.rdN Reg.LMP_DARKRD = min 0xFFFFFFFF (s.m.rdN Reg.LMP_DARKRD + 1) ∧
    t.rdN (portReg p Reg.PORT_POISON_TX) = min 0xFFFFFFFF (s.m.rdN (portReg p Reg.PORT_POISON_TX) + 1) ∧
    s.m.RegsBut [portReg p Reg.PORT_MEMINFL, Reg.LMP_DARKRD, portReg p Reg.PORT_POISON_TX] t ∧ s.m.SameBut [.reg, .port, .lamp, .out] t) ∧
  (∀ (s : State) (p : Port) (hpa : Nat) (e : MemErr), s.m.memOpen p = true → s.m.lampOpen = true → s.m.hdmMatch p hpa = none →
    Completes (.cxlMemRead p hpa e) s fun t =>
    s.m.Sent [.memData p 0 true] t ∧ t.rdN (portReg p Reg.PORT_NODEC) = min 0xFFFFFFFF (s.m.rdN (portReg p Reg.PORT_NODEC) + 1) ∧
    s.m.SameBut [.reg, .port, .out] t) ∧
  (∀ (s : State) (p : Port) (hpa : Nat) (e : MemErr), s.m.memOpen p = true → s.m.lampOpen = false →
    Completes (.cxlMemRead p hpa e) s fun t => s.m.Sent [.memData p 0 true] t ∧ s.m.SameBut [.reg, .port, .out] t)

/-- CXL.mem writes (R20, R94, R155, R157, R165) of a page whose descriptor the Lantern holds. A write of a lit page below the dirty cap
stores its line and no other, and makes the page dirty; at the cap it waits unanswered, and is stored when the cap lets it; a write of a dark page
taints the page and stores nothing, and so does a poisoned write whatever the page's state; a write before the part serves the window is dropped and
counted in LMP_EARLYWR. -/
def Obligations.MemoryWrites : Prop :=
  (∀ (s : State) (p : Port) (hpa dpa i f : Nat) (a : LampAddr) (d : Line), s.m.memOpen p = true → s.m.lampOpen = true → s.m.viral = false →
    s.m.hdmMatch p hpa = some dpa → s.m.lampAddr dpa = some a → s.m.lamp.mode ≠ .disabled →
    s.m.lntFind (descKey a.region a.block) = some i → s.m.ClearWay (descKey a.region a.block) dpa → ((s.m.desc (descKey a.region a.block)).state a.page).isLit = true →
    (s.m.desc (descKey a.region a.block)).frame = some f → s.m.rd Reg.LMP_DIRTYCAP = 0 →
    Completes (.cxlMemWrite p hpa d .clean) s fun t =>
    s.m.Sent [.memAck p] t ∧ t.lamp.line = SMap.set 0 s.m.lamp.line (lineKey f a.page a.line) d ∧
    t.desc (descKey a.region a.block) = { s.m.desc (descKey a.region a.block) with
      dirty := setBit (s.m.desc (descKey a.region a.block)).dirty a.page true } ∧
    (∀ k, k ≠ descKey a.region a.block → t.desc k = s.m.desc k) ∧ (∀ k, k ∈ t.lamp.lost ↔ k ∈ s.m.lamp.lost ∧ k ≠ lineKey f a.page a.line) ∧
    (∀ q, t.port.get q = s.m.port.get q) ∧ s.m.SameBut [.reg, .port, .lamp, .adm, .out] t) ∧
  (∀ (s : State) (p : Port) (hpa dpa i : Nat) (a : LampAddr) (d : Line), s.m.memOpen p = true → s.m.lampOpen = true → s.m.viral = false →
    s.m.hdmMatch p hpa = some dpa → s.m.lampAddr dpa = some a → s.m.lamp.mode ≠ .disabled →
    s.m.lntFind (descKey a.region a.block) = some i → s.m.ClearWay (descKey a.region a.block) dpa → ((s.m.desc (descKey a.region a.block)).state a.page).isLit = false →
    a.page < 512 → Completes (.cxlMemWrite p hpa d .clean) s fun t =>
    s.m.Sent [.memAck p] t ∧ t.lamp.line = s.m.lamp.line ∧ (t.desc (descKey a.region a.block)).state a.page = .tainted ∧
    (∀ k, k ≠ descKey a.region a.block → t.desc k = s.m.desc k) ∧
    t.rdN Reg.LMP_DARKWR = min 0xFFFFFFFF (s.m.rdN Reg.LMP_DARKWR + 1) ∧ s.m.SameBut [.reg, .port, .lamp, .adm, .out] t) ∧
  (∀ (s : State) (p : Port) (hpa dpa i : Nat) (a : LampAddr), s.m.memOpen p = true → s.m.lampOpen = true → s.m.viral = false →
    s.m.hdmMatch p hpa = some dpa → s.m.lampAddr dpa = some a → s.m.lamp.mode ≠ .disabled →
    s.m.lntFind (descKey a.region a.block) = some i → s.m.ClearWay (descKey a.region a.block) dpa → a.page < 512 → Completes (.cxlMemPoisonedWrite p hpa .clean) s fun t =>
    s.m.Sent [.memAck p] t ∧ t.lamp.line = s.m.lamp.line ∧ (t.desc (descKey a.region a.block)).state a.page = .tainted ∧
    (∀ k, k ≠ descKey a.region a.block → t.desc k = s.m.desc k) ∧ (t.port.get p).rasPoison = true ∧
    t.rdN (portReg p Reg.PORT_POISON_RX) = min 0xFFFFFFFF (s.m.rdN (portReg p Reg.PORT_POISON_RX) + 1) ∧
    s.m.SameBut [.reg, .port, .lamp, .adm, .out] t) ∧
  (∀ (s : State) (p : Port) (hpa dpa i f : Nat) (a : LampAddr) (d : Line), s.m.memOpen p = true → s.m.lampOpen = true → s.m.viral = false →
    s.m.hdmMatch p hpa = some dpa → s.m.lampAddr dpa = some a → s.m.lamp.mode ≠ .disabled →
    s.m.lntFind (descKey a.region a.block) = some i → s.m.ClearWay (descKey a.region a.block) dpa → ((s.m.desc (descKey a.region a.block)).state a.page).isLit = true →
    (s.m.desc (descKey a.region a.block)).frame = some f → s.m.capStops (s.m.desc (descKey a.region a.block)) a.page = true →
    Completes (.cxlMemWrite p hpa d .clean) s fun t =>
    t.lamp.capHeld = s.m.lamp.capHeld ++ [.wr p dpa d] ∧ t.lamp.line = s.m.lamp.line ∧ t.lamp.desc = s.m.lamp.desc ∧ t.out = s.m.out ∧
    (t.port.get p).inflight = (s.m.port.get p).inflight + 1 ∧
    t.rdN Reg.LMP_CAPHOLD = min 0xFFFFFFFF (s.m.rdN Reg.LMP_CAPHOLD + 1) ∧ s.m.SameBut [.reg, .port, .lamp] t) ∧
  (∀ (s : State) (p : Port) (dpa f : Nat) (a : LampAddr) (d : Line) (rs : List LampReq), s.m.lamp.capHeld = .wr p dpa d :: rs →
    s.m.lampOpen = true → s.m.viral = false → s.m.lampAddr dpa = some a →
    ((s.m.desc (descKey a.region a.block)).state a.page).isLit = true → (s.m.desc (descKey a.region a.block)).frame = some f →
    s.m.capStops (s.m.desc (descKey a.region a.block)) a.page = false → Completes .capholdRelease s fun t =>
    s.m.Sent [.memAck p] t ∧ t.lamp.capHeld = rs ∧ t.lamp.line = SMap.set 0 s.m.lamp.line (lineKey f a.page a.line) d ∧
    t.desc (descKey a.region a.block) = { s.m.desc (descKey a.region a.block) with
      dirty := setBit (s.m.desc (descKey a.region a.block)).dirty a.page true } ∧
    (∀ k, k ≠ descKey a.region a.block → t.desc k = s.m.desc k) ∧ s.m.SameBut [.reg, .pff, .port, .lamp, .adm, .alm, .out] t) ∧
  (∀ (s : State) (p : Port) (hpa : Nat) (d : Line) (e : MemErr), s.m.memOpen p = true → s.m.lampOpen = false → s.m.dev.st ≠ .failed →
    Completes (.cxlMemWrite p hpa d e) s fun t =>
    s.m.Sent [.memAck p] t ∧ t.rdN Reg.LMP_EARLYWR = min 0xFFFFFFFF (s.m.rdN Reg.LMP_EARLYWR + 1) ∧ s.m.SameBut [.reg, .port, .out] t)

/-- The rows of a port beside its requests (R78, R89, R96, R97, R100). A good commit of an HDM decoder commits it, a bad one leaves Commit
Error, and a locked decoder ignores the write; viral is noted, and ends a fetched command short of its commit point with ABORTED_BY_RESET;
GPF Phase 1 is acknowledged at once, Phase 2 at once in native mode and behind the write-out otherwise; D3hot is entered and left; a flit with
a CRC error is counted and asks for a retry. -/
def Obligations.PortEvents : Prop :=
  (∀ (s : State) (p : Port) (k : Fin 4) (base size skip : Nat) (lock : Bool), (s.m.port.get p).up = true →
    ¬ (((s.m.port.get p).dec k.val).lock = true ∧ ((s.m.port.get p).dec k.val).committed = true) →
    Completes (.hdmDecoderCommit p k base size skip lock) s fun t =>
    (t.port.get p).dec k.val = { base := base, size := size, skip := skip, lock := lock
                                 committed := (s.m.port.get p).commitOk k.val base size skip
                                 err := !(s.m.port.get p).commitOk k.val base size skip } ∧
    (∀ j, j ≠ k.val → (t.port.get p).dec j = (s.m.port.get p).dec j) ∧ t.port.get p = { (s.m.port.get p).holdHdm k.val base size skip lock with hdm := (t.port.get p).hdm } ∧
    (∀ q, q ≠ p → t.port.get q = s.m.port.get q) ∧ s.m.SameBut [.port] t) ∧
  (∀ (s : State) (p : Port) (k : Fin 4) (base size skip : Nat) (lock : Bool), ((s.m.port.get p).dec k.val).lock = true →
    ((s.m.port.get p).dec k.val).committed = true → Completes (.hdmDecoderCommit p k base size skip lock) s fun t => t = s.m) ∧
  (∀ (s : State) (p : Port), s.m.cxlUp p = true → s.m.q.used = [] → Completes (.viralReceived p) s fun t =>
    t.port.get p = { s.m.port.get p with viralRx := true } ∧ (∀ q, q ≠ p → t.port.get q = s.m.port.get q) ∧ s.m.SameBut [.port] t) ∧
  (∀ (s : State) (p : Port) (i : Nat) (q : Fin 256), s.m.cxlUp p = true → s.m.q.used = [i] → (s.m.cmd i).kind = .host →
    (s.m.cmd i).short = true → entOpc (s.m.cmd i).entry = opRead → (s.m.cmd i).qid = some q → s.m.Loose i →
    Completes (.viralReceived p) s fun t => Mach.Completed i q St.abortedByReset 0 0 s.m t ∧ (t.port.get p).viralRx = true) ∧
  (∀ (s : State) (p : Port), s.m.cxlUp p = true → Completes (.gpfPhase1 p) s fun t => t = { s.m with out := s.m.out ++ [.gpfAck p 1] }) ∧
  (∀ (s : State) (p : Port), s.m.cxlUp p = true → s.m.capMode = false → Completes (.gpfPhase2 p) s fun t =>
    t = { s.m with out := s.m.out ++ [.gpfAck p 2] }) ∧
  (∀ (s : State) (p : Port), s.m.cxlUp p = true → s.m.capMode = true → s.m.dev.pf = .none → s.m.dev.dump = none →
    Completes (.gpfPhase2 p) s fun t =>
    t = { s.m with
      dev := { s.m.dev with gpfWait := s.m.dev.gpfWait.set p true, dump := some .gpf }, hdl := { s.m.hdl with dumpActive := true } }) ∧
  (∀ (s : State) (p : Port) (c : Instr) (b : Bool), (c = .d3hotEntry p ∧ b = true) ∨ (c = .d3hotExit p ∧ b = false) →
    (s.m.port.get p).up = true → s.m.Calm → Completes c s fun t =>
    t.port.get p = { s.m.port.get p with d3 := b } ∧ (∀ q, q ≠ p → t.port.get q = s.m.port.get q) ∧ s.m.RegsSame [] t ∧
    s.m.SameBut [.port, .reg] t) ∧
  (∀ (s : State) (p : Port), s.m.cxlUp p = true → Completes (.flitCrcError p) s fun t =>
    t.rdN (portReg p Reg.PORT_CRCERR) = min 0xFFFFFFFF (s.m.rdN (portReg p Reg.PORT_CRCERR) + 1) ∧
    t.rdN (portReg p Reg.PORT_LLRETRY) = min 0xFFFFFFFF (s.m.rdN (portReg p Reg.PORT_LLRETRY) + 1) ∧
    s.m.RegsSame [portReg p Reg.PORT_CRCERR, portReg p Reg.PORT_LLRETRY] t ∧ s.m.Sent [.linkRetry p] t ∧ s.m.SameBut [.reg, .out] t)

/-- The DOE mailbox of a port (R92, R93, R335, R338, R339). Discovery walks three objects; the CDAT answers a handle with its entry and the next
handle, its bytes summing to 0, and another handle sets the DOE error; a certificate request of at most 1,000 bytes answers that portion; a
challenge without a summary and an unsigned measurement of one index answer theirs, the challenge's nonce and signature being free values; a bad request
is answered with its error code. -/
def Obligations.DoeMailbox : Prop :=
  (∀ (s : State) (p : Port), s.m.doeUp p = true → ∀ x ∈ [((0 : Byte), ([0x01, 0x00, 0x00, 0x01] : List Byte)),
    (1, [0x98, 0x1E, 0x02, 0x02]), (2, [0x51, 0x2C, 0x01, 0x00])],
    Completes (.doeDiscovery p x.1) s fun t => t = { s.m with out := s.m.out ++ [.doe p x.2] }) ∧
  (∀ (s : State) (p : Port) (h : Nat) (b : List Byte), s.m.doeUp p = true → cdatAt (s.m.adm.plm == 1) h = some b →
    Completes (.cdatTableAccess p h) s fun t => t = { s.m with out := s.m.out ++ [.doe p b] }) ∧
  (∀ (s : State) (p : Port) (h : Nat), s.m.doeUp p = true → 7 ≤ h → Completes (.cdatTableAccess p h) s fun t =>
    t.port.get p = { s.m.port.get p with doeError := true } ∧ (∀ q, q ≠ p → t.port.get q = s.m.port.get q) ∧ s.m.SameBut [.port] t) ∧
  (∀ nv : Bool, (((cdatHeader (cdatEntries nv)) ++ (cdatEntries nv).flatten).map (·.toNat)).sum % 256 = 0) ∧
  (∀ (s : State) (p : Port) (off len : Nat), s.m.shaviUp p = true → len ≤ 1000 → off < 65536 → Completes (.getCertificate p off len) s fun t =>
    s.m.Sent [.doe p (shaviHead 0x01 0 0 ++ leBytes 2 (min len (Config.certificateLength - off)) ++
      leBytes 2 (Config.certificateLength - off - min len (Config.certificateLength - off)) ++
      chainBytes off (min len (Config.certificateLength - off)))] t ∧ s.m.SameBut [.pff, .out] t) ∧
  (∀ (s : State) (p : Port) (nonce : BitVec 384), s.m.shaviUp p = true → Completes (.challenge p false nonce) s fun t =>
    (∃ (n : BitVec 384) (sig : BitVec 768), s.m.Sent [.doe p (shaviHead 0x03 0 0 ++
      bvBytes 48 (Config.sha384 (chainBytes 0 Config.certificateLength)) ++ bvBytes 48 n ++ leBytes 48 0 ++ bvBytes 96 sig)] t) ∧
    s.m.SameBut [.pff, .out, .free] t) ∧
  (∀ (s : State) (p : Port) (index : Byte) (nonce : BitVec 384), s.m.shaviUp p = true → s.m.beforeStep3 = false → index.toNat < 8 →
    Completes (.getMeasurements p index false nonce) s fun t =>
    s.m.Sent [.doe p (shaviHead 0x05 1 0 ++ s.m.measureBlock index.toNat)] t ∧ s.m.SameBut [.pff, .out] t) ∧
  (∀ (s : State) (p : Port) (code : Byte) (dwords : Nat) (lengthOk bodyOk : Bool), s.m.shaviUp p = true → dwords ≤ 256 →
    shaviCode code = false ∨ lengthOk = false ∨ bodyOk = false → Completes (.shaviErrorRequest p code dwords lengthOk bodyOk) s fun t =>
    s.m.Sent [.doe p (shaviError (if shaviCode code = false then 3 else if lengthOk = false then 4 else 1))] t ∧
    s.m.SameBut [.pff, .out] t) ∧
  (∀ (s : State) (p : Port) (code : Byte) (dwords : Nat) (lengthOk bodyOk : Bool), s.m.doeUp p = true → 256 < dwords →
    Completes (.shaviErrorRequest p code dwords lengthOk bodyOk) s fun t =>
    t.port.get p = { s.m.port.get p with doeError := true } ∧ (∀ q, q ≠ p → t.port.get q = s.m.port.get q) ∧ s.m.SameBut [.port] t)

/-! ### Mailbox -/

/-- The standard commands that read (R62, R85, R87, R88, R93, R95). Each answers SUCCESS and changes nothing: the records of a log in their
order, up to 127 an answer, with the overflow count; the firmware slots; the part of the Command Effects Log that was asked for; the capacity
of 256 TiB; the device state behind the standard health data; the poison list's entries that meet the range. The layouts of CXL 2.0 are the model's
(log entry 26), and the bytes that the manual leaves to CXL 2.0 are free values. -/
def Obligations.StandardReads : Prop :=
  (∀ (s : State) (p : Port) (log : Fin 4), s.m.mailboxUp p = true → Completes (.getEventRecords p log) s fun t =>
    s.m.Replies p St.success
      (leBytes 2 ((if (s.m.evLog log).overflow = 0 then 0 else 1) + if 127 < (s.m.evLog log).recs.length then 2 else 0) ++
        leBytes 2 (s.m.evLog log).overflow ++ leBytes 16 0 ++ leBytes 2 (min 127 (s.m.evLog log).recs.length) ++ leBytes 10 0 ++
        ((s.m.evLog log).recs.take 127).flatMap s.m.evBytes) t ∧ s.m.SameBut [.out, .free] t) ∧
  (∀ (s : State) (p : Port), s.m.mailboxUp p = true → s.m.dev.recovery = false → Completes (.getFwInfo p) s fun t =>
    s.m.Replies p St.success
      (leBytes 1 2 ++ leBytes 1 (s.m.dev.slot.val + 1 + 8 * if s.m.adm.active = s.m.dev.slot then 0 else s.m.adm.active.val + 1) ++
        leBytes 1 1 ++ leBytes 13 0 ++ s.m.adm.fw.p0.rev ++ s.m.adm.fw.p1.rev ++ leBytes 32 0) t ∧ s.m.SameBut [.out] t) ∧
  (∀ (s : State) (p : Port), s.m.mailboxUp p = true → Completes (.getSupportedLogs p) s fun t =>
    s.m.Replies p St.success (leBytes 2 1 ++ leBytes 6 0 ++ stdId 0x0400 16 ++ leBytes 4 effectsLog.length) t ∧
    s.m.SameBut [.out, .free] t) ∧
  (∀ (s : State) (p : Port) (off len : Nat), s.m.mailboxUp p = true → off + len ≤ effectsLog.length →
    Completes (.getLog p true off len) s fun t =>
    s.m.Replies p St.success ((effectsLog.drop off).take len) t ∧ s.m.SameBut [.out] t) ∧
  (∀ (s : State) (p : Port) (cel : Bool) (off len : Nat), s.m.mailboxUp p = true → cel = false ∨ effectsLog.length < off + len →
    Completes (.getLog p cel off len) s fun t => s.m.Replies p St.invalidField [] t ∧ s.m.SameBut [.out] t) ∧
  (∀ (s : State) (p : Port), s.m.mailboxUp p = true → Completes (.identifyMemoryDevice p) s fun t =>
    (∃ b : List Byte, s.m.Replies p St.success b t ∧ b.length = 67 ∧ (b.drop 16).take 8 = leBytes 8 (2 ^ 20)) ∧
    s.m.SameBut [.out, .free] t) ∧
  (∀ (s : State) (p : Port), s.m.mailboxUp p = true → Completes (.getHealthInfo p) s fun t =>
    (∃ b : List Byte, b.length = 18 ∧ s.m.Replies p St.success (b ++ leBytes 1 s.m.dev.st.num) t) ∧ s.m.SameBut [.out, .free] t) ∧
  (∀ (s : State) (p : Port) (dpa len : Nat), s.m.mailboxUp p = true → s.m.ioUp = true → s.m.dev.phase = .idle →
    (s.m.poisonIn dpa len).length ≤ 1022 → Completes (.getPoisonList p dpa len) s fun t =>
    s.m.Replies p St.success (leBytes 2 (if s.m.adm.poisonOver then 2 else 0) ++ leBytes 8 0 ++
      leBytes 2 (s.m.poisonIn dpa len).length ++ leBytes 20 0 ++
      (s.m.poisonIn dpa len).flatMap fun e => leBytes 8 (e.1 + e.2.2) ++ leBytes 4 e.2.1 ++ leBytes 4 0) t ∧ s.m.SameBut [.out] t) ∧
  (∀ (s : State) (p : Port) (dpa len : Nat), s.m.mailboxUp p = true → s.m.ioUp = false ∨ s.m.dev.phase ≠ .idle →
    Completes (.getPoisonList p dpa len) s fun t => s.m.Replies p St.volumeNotReady [] t ∧ s.m.SameBut [.out] t)

/-- The rest of the mailbox (R85, R87, R88, R131). Clear Event Records empties a log, or takes the named records out of it, and with them its
overflow count; a handle that is not there is refused and nothing is cleared. An opcode that no port supports answers INVALID_OPCODE, Return
Code 0x0003, in the vendor range and out of it; no other word of these two rows has an effect. -/
def Obligations.MailboxRest : Prop :=
  (∀ (s : State) (p : Port) (log : Fin 4) (hs : List Nat), s.m.mailboxUp p = true → (s.m.evLog log).recs ≠ [] →
    Completes (.clearEventRecords p log true hs) s fun t =>
    t.evLog log = { s.m.evLog log with recs := [], overflow := 0 } ∧ (∀ j, j ≠ log → t.evLog j = s.m.evLog j) ∧
    t.adm = { s.m.adm with ev := t.adm.ev } ∧ s.m.Replies p St.success [] t ∧ s.m.SameBut [.adm, .out] t) ∧
  (∀ (s : State) (p : Port) (log : Fin 4) (hs : List Nat), s.m.mailboxUp p = true →
    (∀ h ∈ hs, ∃ r ∈ (s.m.evLog log).recs, r.handle = h) → hs ≠ [] → Completes (.clearEventRecords p log false hs) s fun t =>
    t.evLog log = { s.m.evLog log with recs := (s.m.evLog log).recs.filter (fun r => !hs.contains r.handle), overflow := 0 } ∧
    (∀ j, j ≠ log → t.evLog j = s.m.evLog j) ∧
    t.adm = { s.m.adm with ev := t.adm.ev } ∧ s.m.Replies p St.success [] t ∧ s.m.SameBut [.adm, .out] t) ∧
  (∀ (s : State) (p : Port) (log : Fin 4) (hs : List Nat) (h : Nat), s.m.mailboxUp p = true → h ∈ hs →
    (∀ r ∈ (s.m.evLog log).recs, r.handle ≠ h) → Completes (.clearEventRecords p log false hs) s fun t =>
    s.m.Replies p St.invalidField [] t ∧ s.m.SameBut [.out] t) ∧
  (∀ (s : State) (p : Port) (o : BitVec 16), s.m.mailboxUp p = true → o.toNat ∉ stdOpcodes → o.toNat < 0xC000 ∨ 0xC0FF < o.toNat →
    Completes (.unsupportedOpcode p o) s fun t => t = { s.m with out := s.m.out ++ [.mbox p 0x0003 St.invalidOpcode []] }) ∧
  (∀ (s : State) (p : Port) (o : BitVec 16), s.m.mailboxUp p = true → o.toNat ∉ vendorOpcodes → 0xC000 ≤ o.toNat → o.toNat ≤ 0xC0FF →
    Completes (.invalidVendorOpcode p o) s fun t => t = { s.m with out := s.m.out ++ [.mbox p 0x0003 St.invalidOpcode []] }) ∧
  (∀ (s : State) (p : Port) (o : BitVec 16), o.toNat ∈ stdOpcodes ∨ (0xC000 ≤ o.toNat ∧ o.toNat ≤ 0xC0FF) →
    Completes (.unsupportedOpcode p o) s fun t => t = s.m) ∧
  (∀ (s : State) (p : Port) (o : BitVec 16), o.toNat ∈ vendorOpcodes ∨ o.toNat < 0xC000 ∨ 0xC0FF < o.toNat →
    Completes (.invalidVendorOpcode p o) s fun t => t = s.m)

/-! ### Firmware -/

/-- Transfer FW (R142, R337). The image of a whole transfer and of one that ends reaches its slot and makes it valid when R337's check passes and its
SV is not below SVFLOOR, and spoils the slot when it does not; a transfer that begins spoils its slot; the parts arrive in order; one that
does not, and an abort, leave the slot invalid and no transfer open. One transfer is open at a time. Activate FW and the hitless switch (R143, R144, Table 06.10). At the next reset, the slot becomes the active one; online, the switch begins in
the background; it pauses the doorbells once the slot passes its check and no foreground command runs; it makes the slot the one that runs when
the new firmware is ready, and gives up with IMAGE_INVALID, the choice standing, when it is not. A slot that is not valid, and one
below SVFLOOR, are refused; so is an online activation while a background operation runs. SVFLOOR stands throughout. -/
def Obligations.Firmware : Prop :=
  (∀ (s : State) (p : Port) (k : Fin 2) (len : Nat) (img : Image), s.m.mailboxUp p = true → s.m.adm.xfer = none →
    s.m.inactive k = true → partOk len = true → img.good = true → s.m.adm.svFloor ≤ img.sv →
    Completes (.transferFwFull p k len img) s fun t =>
    t.slot k = { valid := true, img := img } ∧ (∀ j, j ≠ k → t.slot j = s.m.slot j) ∧ t.adm = { s.m.adm with fw := t.adm.fw } ∧
    s.m.Replies p St.success [] t ∧ s.m.SameBut [.adm, .out] t) ∧
  (∀ (s : State) (p : Port) (k : Fin 2) (len : Nat) (img : Image), s.m.mailboxUp p = true → s.m.adm.xfer = none →
    s.m.inactive k = true → partOk len = true → img.good = false ∨ img.sv < s.m.adm.svFloor →
    Completes (.transferFwFull p k len img) s fun t =>
    t.slot k = { s.m.slot k with valid := false } ∧ (∀ j, j ≠ k → t.slot j = s.m.slot j) ∧ t.adm = { s.m.adm with fw := t.adm.fw } ∧
    s.m.Replies p (if img.good then St.rollbackRefused else St.imageInvalid) [] t ∧ s.m.SameBut [.adm, .out] t) ∧
  (∀ (s : State) (p : Port) (k : Fin 2) (len : Nat), s.m.mailboxUp p = true → s.m.adm.xfer = none →
    s.m.inactive k = true → partOk len = true → Completes (.transferFwInitiate p k len) s fun t =>
    t.slot k = { s.m.slot k with valid := false } ∧ (∀ j, j ≠ k → t.slot j = s.m.slot j) ∧
    t.adm = { s.m.adm with fw := t.adm.fw, xfer := some { port := p, slot := k, next := len } } ∧
    s.m.Replies p St.success [] t ∧ s.m.SameBut [.adm, .out] t) ∧
  (∀ (s : State) (p : Port) (k : Fin 2) (len : Nat) (img : Image) (x : Transfer) (c : Instr),
    c = .transferFwFull p k len img ∨ c = .transferFwInitiate p k len → s.m.mailboxUp p = true → s.m.adm.xfer = some x →
    Completes c s fun t => s.m.Replies p St.backgroundBusy [] t ∧ s.m.SameBut [.out] t) ∧
  (∀ (s : State) (p : Port) (k : Fin 2) (len : Nat) (img : Image) (c : Instr),
    c = .transferFwFull p k len img ∨ c = .transferFwInitiate p k len → s.m.mailboxUp p = true → s.m.adm.xfer = none →
    s.m.inactive k = false ∨ partOk len = false →
    Completes c s fun t => s.m.Replies p St.invalidField [] t ∧ s.m.SameBut [.out] t) ∧
  (∀ (s : State) (p : Port) (k : Fin 2) (off len : Nat), s.m.mailboxUp p = true → s.m.inactive k = true → partOk len = true →
    s.m.adm.xfer = some { port := p, slot := k, next := 128 * off } → 128 * off + len ≤ 4 * 2 ^ 20 →
    Completes (.transferFwContinue p k off len) s fun t =>
    t.adm = { s.m.adm with xfer := some { port := p, slot := k, next := 128 * off + len } } ∧
    s.m.Replies p St.success [] t ∧ s.m.SameBut [.adm, .out] t) ∧
  (∀ (s : State) (p : Port) (k : Fin 2) (off len : Nat) (img : Image), s.m.mailboxUp p = true → s.m.inactive k = true →
    partOk len = true → s.m.adm.xfer = some { port := p, slot := k, next := 128 * off } → 128 * off + len ≤ 4 * 2 ^ 20 →
    img.good = true → s.m.adm.svFloor ≤ img.sv → Completes (.transferFwEnd p k off len img) s fun t =>
    t.slot k = { valid := true, img := img } ∧ (∀ j, j ≠ k → t.slot j = s.m.slot j) ∧
    t.adm = { s.m.adm with fw := t.adm.fw, xfer := none } ∧ s.m.Replies p St.success [] t ∧ s.m.SameBut [.adm, .out] t) ∧
  (∀ (s : State) (p : Port) (k : Fin 2) (off len : Nat) (img : Image) (x : Transfer) (c : Instr),
    c = .transferFwContinue p k off len ∨ c = .transferFwEnd p k off len img → s.m.mailboxUp p = true → s.m.adm.xfer = some x →
    x.port = p → x.slot ≠ k ∨ x.next ≠ 128 * off ∨ partOk len = false ∨ 4 * 2 ^ 20 < x.next + len → Completes c s fun t =>
    t.slot x.slot = { s.m.slot x.slot with valid := false } ∧ (∀ j, j ≠ x.slot → t.slot j = s.m.slot j) ∧
    t.adm = { s.m.adm with fw := t.adm.fw, xfer := none } ∧ s.m.Replies p St.invalidField [] t ∧ s.m.SameBut [.adm, .out] t) ∧
  (∀ (s : State) (p : Port) (x : Transfer), s.m.mailboxUp p = true → s.m.adm.xfer = some x → x.port = p →
    Completes (.transferFwAbort p) s fun t =>
    t.slot x.slot = { s.m.slot x.slot with valid := false } ∧ (∀ j, j ≠ x.slot → t.slot j = s.m.slot j) ∧
    t.adm = { s.m.adm with fw := t.adm.fw, xfer := none } ∧ s.m.Replies p St.success [] t ∧ s.m.SameBut [.adm, .out] t) ∧
  (∀ (s : State) (p : Port), s.m.mailboxUp p = true → (∀ x, s.m.adm.xfer = some x → x.port ≠ p) → Completes (.transferFwAbort p) s fun t =>
    s.m.Replies p St.invalidField [] t ∧ s.m.SameBut [.out] t) ∧
  (∀ (s : State) (p : Port) (k : Fin 2), s.m.mailboxUp p = true → (s.m.slot k).valid = true → (s.m.slot k).img.good = true →
    s.m.adm.svFloor ≤ (s.m.slot k).img.sv → Completes (.activateFwNextReset p k) s fun t =>
    t.adm = { s.m.adm with active := k } ∧ s.m.Replies p St.success [] t ∧ s.m.SameBut [.adm, .out] t) ∧
  (∀ (s : State) (p : Port) (k : Fin 2), s.m.mailboxUp p = true → (s.m.slot k).valid = true → (s.m.slot k).img.good = true →
    s.m.adm.svFloor ≤ (s.m.slot k).img.sv → s.m.adm.bg = none → s.m.dev.recovery = false → Completes (.activateFwOnline p k) s fun t =>
    t.adm = { s.m.adm with bg := some { port := p, op := .activate k }, hitless := some (k, false) } ∧
    t.port.get p = { s.m.port.get p with bgOpcode := 0x0202, bgPct := 0, bgRc := 0, bgExt := 0 } ∧
    (∀ q, q ≠ p → t.port.get q = s.m.port.get q) ∧ s.m.Sent [.mbox p 0x0001 St.success []] t ∧ s.m.SameBut [.adm, .port, .out] t) ∧
  (∀ (s : State) (p : Port) (k : Fin 2) (c : Instr), c = .activateFwNextReset p k ∨ c = .activateFwOnline p k → s.m.mailboxUp p = true →
    s.m.adm.bg = none → s.m.dev.recovery = false → (s.m.slot k).valid = false → Completes c s fun t =>
    s.m.Replies p St.invalidField [] t ∧ s.m.SameBut [.out] t) ∧
  (∀ (s : State) (p : Port) (k : Fin 2) (c : Instr), c = .activateFwNextReset p k ∨ c = .activateFwOnline p k → s.m.mailboxUp p = true →
    s.m.adm.bg = none → s.m.dev.recovery = false → (s.m.slot k).valid = true → (s.m.slot k).img.good = true →
    (s.m.slot k).img.sv < s.m.adm.svFloor → Completes c s fun t => s.m.Replies p St.rollbackRefused [] t ∧ s.m.SameBut [.out] t) ∧
  (∀ (s : State) (p : Port) (k : Fin 2), s.m.mailboxUp p = true → s.m.adm.bg ≠ none → Completes (.activateFwOnline p k) s fun t =>
    s.m.Replies p St.backgroundBusy [] t ∧ s.m.SameBut [.out] t) ∧
  (∀ (s : State) (k : Fin 2), s.m.adm.hitless = some (k, false) → s.m.imageFault k = none → s.m.foreground = false →
    Completes .hitlessSwitchPause s fun t => t = { s.m with adm := { s.m.adm with hitless := some (k, true) } }) ∧
  (∀ (s : State) (k : Fin 2) (w : Nat) (b : Bg), s.m.adm.hitless = some (k, false) → s.m.imageFault k = some w → s.m.adm.bg = some b →
    Completes .hitlessSwitchPause s fun t =>
    t.adm = { s.m.adm with hitless := none, bg := none } ∧ (t.port.get b.port).bgPct = 100 ∧
    (t.port.get b.port).bgExt = (if w = 1 then St.rollbackRefused else St.imageInvalid) ∧ s.m.SameBut [.adm, .port, .out] t) ∧
  (∀ (s : State) (k : Fin 2) (b : Bg), s.m.adm.hitless = some (k, true) → s.m.adm.bg = some b → s.m.Calm → Completes .hitlessSwitchReady s fun t =>
    t.dev = { s.m.dev with slot := k } ∧ t.adm = { s.m.adm with active := k, hitless := none, bg := none } ∧
    t.port.get b.port = { s.m.port.get b.port with bgPct := 100, bgRc := 0, bgExt := 0 } ∧
    (∀ q, q ≠ b.port → t.port.get q = s.m.port.get q) ∧
    s.m.Sent [.background b.port (s.m.port.get b.port).bgOpcode 0 0] t ∧ s.m.SameBut [.dev, .adm, .port, .out] t) ∧
  (∀ (s : State) (k : Fin 2) (b : Bg), s.m.adm.hitless = some (k, true) → s.m.adm.bg = some b → s.m.Calm → Completes .hitlessSwitchRollback s fun t =>
    t.adm.hitless = none ∧ t.adm.bg = none ∧ t.adm.active = s.m.adm.active ∧ t.dev = s.m.dev ∧
    t.port.get b.port =
      { s.m.port.get b.port with bgPct := 100, bgRc := returnCode St.imageInvalid false false, bgExt := St.imageInvalid } ∧
    (∀ q, q ≠ b.port → t.port.get q = s.m.port.get q) ∧
    s.m.Sent [.background b.port (s.m.port.get b.port).bgOpcode (returnCode St.imageInvalid false false) St.imageInvalid] t ∧
    s.m.SameBut [.reg, .pff, .adm, .port, .alm, .out] t)

/-! ### Command queues -/

/-- The doorbells (R105, R129). Through its own port, a tail inside the queue of an ACTIVE pair becomes the pair's tail, and a head within the entries
posted and not yet consumed becomes its head, and its register reads that value; any other doorbell, management firmware's among them, is
dropped, counts in DBL_BADDB, is named in DBL_LASTBAD and marks the pair. With the page
OFF a port's write is dropped and counted in PORT_WDROP. -/
def Obligations.Doorbells : Prop :=
  (∀ (s : State) (h : Port) (q : Fin 256) (v : Word), s.m.pageSt .dbl ≠ .off → (s.m.qp q).port = h → (s.m.qp q).st = .active →
    v.toNat % 8192 < (s.m.qp q).depth → Completes (.sqTailDoorbell h.agent q v) s fun t =>
    t.qp q = { s.m.qp q with tail := v.toNat % 8192 } ∧ (∀ j, j ≠ q → t.qp j = s.m.qp j) ∧ (∀ i, t.cmd i = s.m.cmd i) ∧
    t.rdN (0xB100 + 8 * q.val) = v.toNat % 8192 ∧ s.m.RegsBut [0xB100 + 8 * q.val] t ∧ s.m.Stepped .qct t ∧ s.m.SameBut [.reg, .q] t) ∧
  (∀ (s : State) (h : Port) (q : Fin 256) (v : Word), s.m.pageSt .dbl ≠ .off → (s.m.qp q).port = h →
    (s.m.qp q).st = .active ∨ (s.m.qp q).st = .deleting → (s.m.qp q).headOk (v.toNat % 8192) = true →
    Completes (.cqHeadDoorbell h.agent q v) s fun t =>
    t.qp q = { s.m.qp q with cqHead := v.toNat % 8192 } ∧ (∀ j, j ≠ q → t.qp j = s.m.qp j) ∧ (∀ i, t.cmd i = s.m.cmd i) ∧
    t.rdN (0xB104 + 8 * q.val) = v.toNat % 8192 ∧ s.m.RegsBut [0xB104 + 8 * q.val] t ∧ s.m.Stepped .qct t ∧ s.m.SameBut [.reg, .q] t) ∧
  (∀ (s : State) (h : Port) (q : Fin 256) (v : Word), s.m.pageSt .dbl ≠ .off →
    ¬ ((s.m.qp q).port = h ∧ (s.m.qp q).st = .active ∧ v.toNat % 8192 < (s.m.qp q).depth) →
    Completes (.sqTailDoorbell h.agent q v) s fun t =>
    t.qp q = { s.m.qp q with dbErr := true } ∧ (∀ j, j ≠ q → t.qp j = s.m.qp j) ∧ (∀ i, t.cmd i = s.m.cmd i) ∧
    t.rdN Reg.DBL_BADDB = min 0xFFFFFFFF (s.m.rdN Reg.DBL_BADDB + 1) ∧ t.rdN Reg.DBL_LASTBAD = q.val + 512 * h.num ∧
    s.m.RegsSame [Reg.DBL_BADDB, Reg.DBL_LASTBAD] t ∧ s.m.SameBut [.reg, .q] t) ∧
  (∀ (s : State) (h : Port) (q : Fin 256) (v : Word), s.m.pageSt .dbl ≠ .off →
    ¬ ((s.m.qp q).port = h ∧ ((s.m.qp q).st = .active ∨ (s.m.qp q).st = .deleting) ∧ (s.m.qp q).headOk (v.toNat % 8192) = true) →
    Completes (.cqHeadDoorbell h.agent q v) s fun t =>
    t.qp q = { s.m.qp q with dbErr := true } ∧ (∀ j, j ≠ q → t.qp j = s.m.qp j) ∧ (∀ i, t.cmd i = s.m.cmd i) ∧
    t.rdN Reg.DBL_BADDB = min 0xFFFFFFFF (s.m.rdN Reg.DBL_BADDB + 1) ∧ t.rdN Reg.DBL_LASTBAD = q.val + 256 + 512 * h.num ∧
    s.m.RegsSame [Reg.DBL_BADDB, Reg.DBL_LASTBAD] t ∧ s.m.SameBut [.reg, .q] t) ∧
  (∀ (s : State) (q : Fin 256) (v : Word) (c : Instr), c = .sqTailDoorbell .mgmt q v ∨ c = .cqHeadDoorbell .mgmt q v →
    s.m.pageSt .dbl ≠ .off → Completes c s fun t =>
    t.qp q = { s.m.qp q with dbErr := true } ∧ (∀ j, j ≠ q → t.qp j = s.m.qp j) ∧ (∀ i, t.cmd i = s.m.cmd i) ∧
    t.rdN Reg.DBL_BADDB = min 0xFFFFFFFF (s.m.rdN Reg.DBL_BADDB + 1) ∧
    s.m.RegsSame [Reg.DBL_BADDB, Reg.DBL_LASTBAD] t ∧ s.m.SameBut [.reg, .q] t) ∧
  (∀ (s : State) (h : Port) (q : Fin 256) (v : Word) (c : Instr), c = .sqTailDoorbell h.agent q v ∨ c = .cqHeadDoorbell h.agent q v →
    s.m.pageSt .dbl = .off → Completes c s fun t =>
    t.rdN (portReg h Reg.PORT_WDROP) = min 0xFFFFFFFF (s.m.rdN (portReg h Reg.PORT_WDROP) + 1) ∧
    s.m.RegsSame [portReg h Reg.PORT_WDROP] t ∧ s.m.SameBut [.reg] t)

/-- Fetching (R114, R115, R117, R118). The arbiter serves the next eligible queue of the current class: the fetch pointer and the count in flight advance
by the burst, one read of that many entries leaves, and the class pays them from its credit; where no queue is eligible the credits are filled again.
Reads of WRITE data that waited for the 768 of their port (R78) go out ahead of it.
The entries of a read that is back go to the admission point in their order; those of a failed one are discarded and the pair is FAULTED. -/
def Obligations.QueueFetch : Prop :=
  (∀ (s : State) (q : Fin 256) (k : Nat), s.m.ReadsSent → s.m.fetching = true → 0 < s.m.q.credit.getD s.m.q.cur.val 0 →
    s.m.nextEligible s.m.q.cur.val (s.m.q.rr.getD s.m.q.cur.val 255) = some q →
    k = min (min (bits (s.m.rdN Reg.QCT_BURST) 3 0) (s.m.qp q).submitted) (min (s.m.qp q).room (s.m.slotsFree (some (s.m.qp q).port))) →
    0 < k → (s.m.qp q).fetch + k ≤ (s.m.qp q).depth → Completes .fetchArbitration s fun t =>
    t.qp q = { s.m.qp q with fetch := ((s.m.qp q).fetch + k) % (s.m.qp q).depth, inflight := (s.m.qp q).inflight + k } ∧
    (∀ j, j ≠ q → t.qp j = s.m.qp j) ∧
    (∃ slots : List Nat, slots.length = k ∧ (∀ i, i ∉ slots → t.cmd i = s.m.cmd i) ∧ t.q.fetches = s.m.q.fetches ++
      [{ id := s.m.q.nextFetch, group := s.m.q.nextFetch, qid := q, slots := slots, back := false }]) ∧
    s.m.Sent [.fetchRead (s.m.qp q).port s.m.q.nextFetch ((s.m.qp q).sqBase + 64 * (s.m.qp q).fetch) (64 * k)] t ∧
    t.q.credit = s.m.q.credit.set s.m.q.cur.val (s.m.q.credit.getD s.m.q.cur.val 0 - k) ∧
    t.q.rr = s.m.q.rr.set s.m.q.cur.val q.val ∧ s.m.SameBut [.q, .reg, .out] t) ∧
  (∀ s : State, s.m.ReadsSent → s.m.fetching = true → (∀ c < 3, s.m.nextEligible c (s.m.q.rr.getD c 255) = none) → Completes .fetchArbitration s fun t =>
    t = { s.m with q := { s.m.q with credit := s.m.arbWeights } }) ∧
  (∀ s : State, s.m.ReadsSent → s.m.fetching = false → Completes .fetchArbitration s fun t => t = s.m) ∧
  (∀ (s : State) (i : Nat) (p : Port), s.m.fetching = false → s.m.q.used = [i] → (s.m.cmd i).port = some p →
    (s.m.cmd i).unsent.length + s.m.portReads p ≤ maxReads → Completes .fetchArbitration s fun t =>
    t.cmd i = { s.m.cmd i with unsent := [] } ∧ (∀ j, j ≠ i → t.cmd j = s.m.cmd j) ∧ t.q = { s.m.q with cmd := t.q.cmd } ∧
    s.m.Sent ((s.m.cmd i).unsent.map fun x => .dataRead p i x.2.1 x.2.2) t ∧ s.m.SameBut [.q, .out] t) ∧
  (∀ (s : State) (f : FetchRd) (es : List Entry), s.m.q.fetches.find? (fun x => x.id == f.id && !x.back) = some f →
    s.m.q.fetches.filter (fun x => x.group == f.group) = [f] → (∀ x ∈ s.m.q.fetches, x.id = f.id → x = f) → es.length = f.slots.length → f.slots.Nodup →
    Completes (.fetchReadReturn f.id es) s fun t =>
    t.q.adm = s.m.q.adm ++ f.slots ∧ t.q.fetches = s.m.q.fetches.filter (fun x => x.group != f.group) ∧
    (∀ e ∈ f.slots.zip es, t.cmd e.1 = { s.m.cmd e.1 with entry := e.2, stage := .waiting }) ∧ (∀ i, i ∉ f.slots → t.cmd i = s.m.cmd i) ∧
    t.q.used = s.m.q.used ∧ (∀ j, t.qp j = s.m.qp j) ∧
    t.rd64 Reg.QCT_FETCH_LO = s.m.rd64 Reg.QCT_FETCH_LO + BitVec.ofNat 64 f.slots.length ∧
    s.m.RegsBut [] t ∧ s.m.SameBut [.q, .reg] t) ∧
  (∀ (s : State) (id : Nat) (es : List Entry) (c : Instr), c = .fetchReadReturn id es ∨ c = .fetchReadFailure id →
    s.m.q.fetches.find? (fun x => x.id == id && !x.back) = none → Completes c s fun t => t = s.m) ∧
  (∀ (s : State) (f : FetchRd), s.m.q.fetches.find? (fun x => x.id == f.id && !x.back) = some f →
    s.m.q.fetches.filter (fun x => x.group == f.group) = [f] → (∀ i ∈ f.slots, ∀ e ∈ s.m.twn.tx, e.2 ≠ .cmd i) →
    Completes (.fetchReadFailure f.id) s fun t =>
    t.qp f.qid = { s.m.qp f.qid with st := .faulted, inflight := (s.m.qp f.qid).inflight - f.slots.length } ∧
    (∀ j, j ≠ f.qid → t.qp j = s.m.qp j) ∧ (∀ i ∈ f.slots, t.cmd i = {} ∧ i ∉ t.q.used) ∧ (∀ i, i ∉ f.slots → t.cmd i = s.m.cmd i) ∧
    t.q.fetches = s.m.q.fetches.filter (fun x => x.group != f.group) ∧
    t.rdN Reg.QCT_FETCHERR = min 0xFFFFFFFF (s.m.rdN Reg.QCT_FETCHERR + 1) ∧ s.m.SameBut [.reg, .pff, .adm, .q, .alm, .twn] t)

/-- The admission point (R96, R118, R119, Table 05.4). The oldest waiting entry is taken alone. One that a check refuses completes with that check's
status; an opcode outside Table 05.3 with INVALID_OPCODE; under viral and in FAILED (R18) each completes with ABORTED_BY_RESET. One that passes enters the range-lock
table: it is admitted where no earlier entry conflicts, and otherwise waits for those that do. A FLUSH takes no lock. -/
def Obligations.CommandAdmission : Prop :=
  (∀ s : State, s.m.q.adm = [] → Completes .commandAdmission s fun t => t = s.m) ∧
  (∀ (s : State) (i : Nat) (r : List Nat) (q : Fin 256) (st d2 : Nat), s.m.q.adm = i :: r → s.m.viral = false → s.m.dev.st ≠ .failed →
    s.m.validate i = some (st, d2) → (s.m.cmd i).kind = .host → (s.m.cmd i).qid = some q → s.m.Loose i →
    Completes .commandAdmission s fun t =>
    Mach.Completed i q st d2 0 s.m t ∧ t.q.adm = r.filter (· != i) ∧
    s.m.SameBut [.reg, .pff, .adm, .alm, .q, .buf, .fl, .twn, .free, .out] t) ∧
  (∀ (s : State) (i : Nat) (r : List Nat) (q : Fin 256), s.m.q.adm = i :: r → s.m.viral = false → s.m.dev.st ≠ .failed → s.m.entryCheck i = none →
    knownOpc (entOpc (s.m.cmd i).entry) = false → (s.m.cmd i).kind = .host → (s.m.cmd i).qid = some q → s.m.Loose i →
    Completes .commandAdmission s fun t => Mach.Completed i q St.invalidOpcode 0 0 s.m t) ∧
  (∀ (s : State) (i : Nat) (r : List Nat) (q : Fin 256), s.m.q.adm = i :: r → s.m.viral = true ∨ s.m.dev.st = .failed →
    (s.m.cmd i).kind = .host →
    (s.m.cmd i).qid = some q → s.m.Loose i → Completes .commandAdmission s fun t => Mach.Completed i q St.abortedByReset 0 0 s.m t) ∧
  (∀ (s : State) (i : Nat) (r : List Nat), s.m.q.adm = i :: r → s.m.viral = false → s.m.dev.st ≠ .failed → s.m.validate i = none →
    entOpc (s.m.cmd i).entry ≠ opFlush → (s.m.volu (entVol (s.m.cmd i).entry)).mirrored = false →
    (∀ j ∈ s.m.locks, j ≠ i → conflicts (s.m.cmd j) (s.m.cmd i) = false) → Completes .commandAdmission s fun t =>
    t.cmd i = { s.m.cmd i with locked := true, wait := [], seq := s.m.q.rlkSeq, stage := .admitted } ∧
    (∀ j, j ≠ i → t.cmd j = s.m.cmd j) ∧ t.q = { s.m.q with cmd := t.q.cmd, adm := r, rlkSeq := s.m.q.rlkSeq + 1 } ∧
    s.m.RegsBut [Reg.RLK_PEAK] t ∧ s.m.SameBut [.q, .reg] t) ∧
  (∀ (s : State) (i : Nat) (r : List Nat), s.m.q.adm = i :: r → s.m.viral = false → s.m.dev.st ≠ .failed → s.m.validate i = none →
    entOpc (s.m.cmd i).entry ≠ opFlush → (∃ j ∈ s.m.locks, j ≠ i ∧ conflicts (s.m.cmd j) (s.m.cmd i) = true) →
    Completes .commandAdmission s fun t =>
    t.cmd i = { s.m.cmd i with
      locked := true, seq := s.m.q.rlkSeq, stage := .blocked
      wait := s.m.locks.filter fun j => j != i && conflicts (s.m.cmd j) (s.m.cmd i) } ∧
    (∀ j, j ≠ i → t.cmd j = s.m.cmd j) ∧ t.rd64 Reg.RLK_CONFL_LO = s.m.rd64 Reg.RLK_CONFL_LO + 1 ∧ s.m.SameBut [.q, .reg] t) ∧
  (∀ (s : State) (i : Nat) (r : List Nat), s.m.q.adm = i :: r → s.m.viral = false → s.m.dev.st ≠ .failed → s.m.validate i = none →
    entOpc (s.m.cmd i).entry = opFlush → (s.m.flushCovers (entVol (s.m.cmd i).entry)).2 = false → Completes .commandAdmission s fun t =>
    t.cmd i = { s.m.cmd i with stage := .admitted, fails := [], cover := (s.m.flushCovers (entVol (s.m.cmd i).entry)).1 } ∧
    (∀ j, j ≠ i → t.cmd j = s.m.cmd j) ∧ t.q = { s.m.q with cmd := t.q.cmd, adm := r } ∧ s.m.SameBut [.q] t)

/-- The life of a queue pair (R103, R126, R127). QUEUE_CREATE makes the pair as it is asked for, empty, and refuses a bad field with
INVALID_FIELD; QUEUE_DELETE stops the pair and answers nothing yet; a command of it short of its commit point ends with ABORTED_QUEUE_DELETED; once
none is left the pair is ABSENT and the port is answered. ABORT (R124, R125, Table 05.7). The request is carried to the queue core; at its turn a tag that is not in flight answers 2, a command
short of its commit point is ended with ABORTED_BY_REQUEST and answers 0, and one past it goes on and answers 1. -/
def Obligations.QueuePairsAndAbort : Prop :=
  (∀ (s : State) (p : Port) (q : Fin 256) (depth cls : Nat) (crc : Bool) (sq cq : Nat), s.m.mailboxUp p = true → s.m.ioUp = true →
    s.m.dev.phase = .idle → (s.m.qp q).st = .absent → s.m.pairsOf p < 128 → 2 ≤ depth → depth ≤ 4096 → cls < 3 → sq % 4096 = 0 →
    cq % 4096 = 0 → Completes (.queueCreate p 24 q depth cls crc sq cq) s fun t =>
    t.qp q = { st := .active, port := p, cls := cls, depth := depth, crc := crc, sqBase := sq, cqBase := cq } ∧
    (∀ j, j ≠ q → t.qp j = s.m.qp j) ∧ (∀ i, t.cmd i = s.m.cmd i) ∧ s.m.Replies p St.success [] t ∧ s.m.RegsSame [] t ∧
    s.m.SameBut [.q, .reg, .out] t) ∧
  (∀ (s : State) (p : Port) (q : Fin 256) (depth cls : Nat) (crc : Bool) (sq cq : Nat), s.m.mailboxUp p = true → s.m.ioUp = true →
    s.m.dev.phase = .idle → (s.m.qp q).st ≠ .absent ∨ 128 ≤ s.m.pairsOf p ∨ depth < 2 ∨ 4096 < depth ∨ cls % 4 = 3 ∨ sq % 4096 ≠ 0 ∨
    cq % 4096 ≠ 0 → Completes (.queueCreate p 24 q depth cls crc sq cq) s fun t =>
    s.m.Replies p St.invalidField [] t ∧ s.m.SameBut [.out] t) ∧
  (∀ (s : State) (p : Port) (q : Fin 256), s.m.mailboxUp p = true → s.m.ioUp = true → s.m.dev.phase = .idle → (s.m.qp q).port = p →
    (s.m.qp q).st = .active ∨ (s.m.qp q).st = .faulted → (∀ f ∈ s.m.q.fetches, f.qid ≠ q) → (∀ i ∈ s.m.q.used, (s.m.cmd i).qid ≠ some q) →
    Completes (.queueDelete p 1 q) s fun t =>
    t.qp q = { s.m.qp q with st := .deleting, delBy := some p } ∧ (∀ j, j ≠ q → t.qp j = s.m.qp j) ∧ (∀ i, t.cmd i = s.m.cmd i) ∧
    s.m.RegsSame [] t ∧ s.m.SameBut [.q, .reg] t) ∧
  (∀ (s : State) (p : Port) (q : Fin 256) (i : Nat), s.m.mailboxUp p = true → s.m.ioUp = true → s.m.dev.phase = .idle → (s.m.qp q).port = p →
    (s.m.qp q).st = .active ∨ (s.m.qp q).st = .faulted → (∀ f ∈ s.m.q.fetches, f.qid ≠ q) → s.m.q.used = [i] →
    (s.m.cmd i).qid = some q → (s.m.cmd i).kind = .host → (s.m.cmd i).short = true → entOpc (s.m.cmd i).entry = opRead → s.m.Loose i →
    Completes (.queueDelete p 1 q) s fun t =>
    (t.qp q).st = .deleting ∧ (t.qp q).delBy = some p ∧ t.cmd i = {} ∧ t.q.used = [] ∧
    s.m.Sent [.completion p q.val ((s.m.qp q).cqBase + 16 * (s.m.qp q).cqTail)
      (completionWord St.abortedQueueDeleted (entTag (s.m.cmd i).entry).toNat (s.m.qp q).phase q.val (s.m.cmd i).sqhd 0 0)] t) ∧
  (∀ (s : State) (p : Port) (q : Fin 256), s.m.mailboxUp p = true → s.m.ioUp = true → s.m.dev.phase = .idle →
    (s.m.qp q).port ≠ p ∨ (s.m.qp q).st = .absent ∨ (s.m.qp q).st = .deleting → Completes (.queueDelete p 1 q) s fun t =>
    s.m.Replies p St.invalidField [] t ∧ s.m.SameBut [.out] t) ∧
  (∀ (s : State) (p : Port) (q : Fin 256), (s.m.qp q).st = .deleting → (s.m.qp q).delBy = some p →
    (∀ i ∈ s.m.q.used, (s.m.cmd i).qid ≠ some q) → s.m.Calm → Completes (.queueDeleteEnd q) s fun t =>
    t.qp q = {} ∧ (∀ j, j ≠ q → t.qp j = s.m.qp j) ∧ (∀ i, t.cmd i = s.m.cmd i) ∧ s.m.Replies p St.success [] t ∧ s.m.RegsSame [] t ∧
    s.m.SameBut [.q, .reg, .out] t) ∧
  (∀ (s : State) (q : Fin 256), (s.m.qp q).st ≠ .deleting ∨ (∃ i ∈ s.m.q.used, (s.m.cmd i).qid = some q) →
    s.m.Calm → Completes (.queueDeleteEnd q) s fun t => t = s.m) ∧
  (∀ (s : State) (p : Port) (tag : BitVec 12), s.m.mailboxUp p = true → s.m.ioUp = true → s.m.dev.phase = .idle →
    Completes (.abort p 2 tag) s fun t => t = { s.m with q := { s.m.q with aborts := s.m.q.aborts ++ [(p, tag)] } }) ∧
  (∀ s : State, s.m.q.aborts = [] → s.m.Calm → Completes .abortDecision s fun t => t = s.m) ∧
  (∀ (s : State) (p : Port) (tag : BitVec 12) (r : List (Port × BitVec 12)), s.m.q.aborts = (p, tag) :: r →
    s.m.abortTarget p tag = none → s.m.Calm → Completes .abortDecision s fun t =>
    t.q = { s.m.q with aborts := r } ∧ s.m.Replies p St.success (leBytes 4 2) t ∧ s.m.SameBut [.q, .out] t) ∧
  (∀ (s : State) (p : Port) (tag : BitVec 12) (r : List (Port × BitVec 12)) (i : Nat), s.m.q.aborts = (p, tag) :: r →
    s.m.abortTarget p tag = some i → (s.m.cmd i).short = false → s.m.Calm → Completes .abortDecision s fun t =>
    t.q = { s.m.q with aborts := r } ∧ s.m.Replies p St.success (leBytes 4 1) t ∧ s.m.SameBut [.q, .out] t) ∧
  (∀ (s : State) (p : Port) (tag : BitVec 12) (r : List (Port × BitVec 12)) (i : Nat) (q : Fin 256), s.m.q.aborts = (p, tag) :: r →
    s.m.abortTarget p tag = some i → (s.m.cmd i).short = true → (s.m.cmd i).kind = .host → (s.m.cmd i).qid = some q →
    entOpc (s.m.cmd i).entry = opRead ∨ entOpc (s.m.cmd i).entry = opWrite → s.m.Loose i → s.m.Calm → Completes .abortDecision s fun t =>
    (∃ u, Mach.Completed i q St.abortedByRequest 0 0 s.m u ∧ u.Replies p St.success (leBytes 4 0) t ∧ u.SameBut [.out] t) ∧ t.q.aborts = r)

/-! ### Block commands -/

/-- WRITE (R78, R109, R121, R123, R239, R263, Table 05.6). An admitted WRITE asks for the data of its LBs, piece by piece, where its port may have so many reads in flight; at EXHAUSTED it completes with NO_SPACE;
a write that needs a scatter list asks for the list first. Each LB that arrives enters the buffer as a version under the next WSN, or, where its page is
lit and LCB and FUA are 0, the frame; the last one completes the command. A full buffer stalls the transfer, which goes on once there is room. A
failed data read ends the command with WRITE_FAULT at that LB. -/
def Obligations.HostWrites : Prop :=
  (∀ (s : State) (i : Fin 4096) (p : Port), s.m.fresh i opWrite = true → s.m.gln.level ≠ .exhausted →
    (s.m.volu (entVol (s.m.cmd i).entry)).mirrored = false → (s.m.cmd i).needsList = false → (s.m.cmd i).port = some p →
    ((List.range (entCount (s.m.cmd i).entry)).flatMap (s.m.cmd i).pieces).length + s.m.portReads p ≤ maxReads →
    Completes (.write i) s fun t =>
    t.cmd i = { s.m.cmd i with stage := .running, todo := List.range (entCount (s.m.cmd i).entry), unsent := [] } ∧
    (∀ j : Nat, j ≠ i → t.cmd j = s.m.cmd j) ∧ t.q = { s.m.q with cmd := t.q.cmd } ∧
    s.m.Sent ((List.range (entCount (s.m.cmd i).entry)).flatMap fun off =>
      ((s.m.cmd i).pieces off).map fun x => .dataRead p i x.1 x.2) t ∧ s.m.SameBut [.q, .out] t) ∧
  (∀ (s : State) (i : Fin 4096) (q : Fin 256), s.m.fresh i opWrite = true → s.m.gln.level = .exhausted → s.m.Plain i q →
    Completes (.write i) s fun t => Mach.Completed i q St.noSpace 0 0 s.m t) ∧
  (∀ (s : State) (i : Fin 4096) (off : Nat) (r : List Nat) (d : Block), s.m.working i opWrite = true → s.m.ReadsSent →
    (s.m.cmd i).stalled = false → (s.m.cmd i).todo = off :: r → r ≠ [] → (s.m.cmd i).xid = none →
    s.m.lampOf (entVol (s.m.cmd i).entry) (entSlba (s.m.cmd i).entry + off) = none →
    (s.m.volu (entVol (s.m.cmd i).entry)).mirrored = false →
    s.m.openVer (entVol (s.m.cmd i).entry) ((entSlba (s.m.cmd i).entry + off) / 4) = none → s.m.bufRoom = true → s.m.paced = false →
    Completes (.writeDataArrival i d) s fun t =>
    (∃ x : Ver, t.buf.vers = s.m.buf.vers ++ [x] ∧ x.vol = entVol (s.m.cmd i).entry ∧ x.mu = (entSlba (s.m.cmd i).entry + off) / 4 ∧
      x.wsn = s.m.buf.wsn ∧ x.st = .opn ∧ SMap.get 0 x.data ((entSlba (s.m.cmd i).entry + off) % 4) = d) ∧
    t.buf.wsn = s.m.buf.wsn + 1 ∧
    t.cmd i = { s.m.cmd i with vers := insertNat s.m.buf.nextId (s.m.cmd i).vers, stage := .committed, todo := r } ∧
    (∀ j : Nat, j ≠ i → t.cmd j = s.m.cmd j) ∧ s.m.SameBut [.buf, .reg, .alm, .q] t) ∧
  (∀ (s : State) (i : Fin 4096) (q : Fin 256) (off : Nat) (d : Block), s.m.working i opWrite = true → s.m.ReadsSent → s.m.Plain i q → s.m.Alone i →
    (s.m.cmd i).stalled = false → (s.m.cmd i).todo = [off] → entFua (s.m.cmd i).entry = false →
    s.m.lampOf (entVol (s.m.cmd i).entry) (entSlba (s.m.cmd i).entry + off) = none →
    (s.m.volu (entVol (s.m.cmd i).entry)).mirrored = false →
    s.m.openVer (entVol (s.m.cmd i).entry) ((entSlba (s.m.cmd i).entry + off) / 4) = none → s.m.bufRoom = true → s.m.paced = false →
    Completes (.writeDataArrival i d) s fun t =>
    (∃ x ∈ t.buf.vers, x.vol = entVol (s.m.cmd i).entry ∧ x.mu = (entSlba (s.m.cmd i).entry + off) / 4 ∧ x.wsn = s.m.buf.wsn ∧
      x.cov = true ∧ SMap.get 0 x.data ((entSlba (s.m.cmd i).entry + off) % 4) = d) ∧
    Mach.Completed i q St.success 0 0 s.m t) ∧
  (∀ (s : State) (i : Fin 4096) (q : Fin 256) (off k p f : Nat) (d : Block), s.m.working i opWrite = true → s.m.ReadsSent → s.m.Plain i q → s.m.Alone i →
    (s.m.cmd i).stalled = false → (s.m.cmd i).todo = [off] → s.m.bypasses (s.m.cmd i) = true →
    s.m.litAt (entVol (s.m.cmd i).entry) (entSlba (s.m.cmd i).entry + off) = some (k, p, f) → p < 512 →
    Completes (.writeDataArrival i d) s fun t =>
    (∀ l, l < 64 → SMap.get 0 t.lamp.line (lineKey f p l) = (d >>> (512 * l)).setWidth 512) ∧ (t.desc k).dirty.getLsbD p = true ∧
    t.buf.wsn = s.m.buf.wsn ∧ Mach.Completed i q St.success 0 0 s.m t) ∧
  (∀ (s : State) (i : Fin 4096) (off : Nat) (r : List Nat) (d : Block), s.m.working i opWrite = true → s.m.ReadsSent →
    (s.m.cmd i).stalled = false → (s.m.cmd i).todo = off :: r →
    s.m.lampOf (entVol (s.m.cmd i).entry) (entSlba (s.m.cmd i).entry + off) = none →
    s.m.lbRoom (entVol (s.m.cmd i).entry) (entSlba (s.m.cmd i).entry + off) = false → (∀ x ∈ s.m.buf.vers, x.st ≠ .held) →
    Completes (.writeDataArrival i d) s fun t =>
    t.cmd i = { s.m.cmd i with stalled := true } ∧ (∀ j : Nat, j ≠ i → t.cmd j = s.m.cmd j) ∧ t.q = { s.m.q with cmd := t.q.cmd } ∧
    s.m.SameBut [.q] t) ∧
  (∀ (s : State) (i : Fin 4096) (off : Nat) (r : List Nat), s.m.slotUsed i = true → (s.m.cmd i).stalled = true →
    (s.m.cmd i).todo = off :: r →
    s.m.mayAccept (entOpc (s.m.cmd i).entry) (entVol (s.m.cmd i).entry) (entSlba (s.m.cmd i).entry + off) = true →
    Completes (.writeTransferResume i) s fun t =>
    t.cmd i = { s.m.cmd i with stalled := false } ∧ (∀ j : Nat, j ≠ i → t.cmd j = s.m.cmd j) ∧ t.q = { s.m.q with cmd := t.q.cmd } ∧
    s.m.SameBut [.q] t) ∧
  (∀ (s : State) (i : Fin 4096) (q : Fin 256) (off : Nat) (r : List Nat), s.m.working i opWrite = true → s.m.Plain i q →
    (s.m.cmd i).todo = off :: r → Completes (.writeDataReadFailure i) s fun t => Mach.Completed i q St.writeFault off 1 s.m t)

/-- Scatter lists (R109). A command whose list is still to be read asks the host for it once; a list that is well formed for the command's length is
kept and lets the command begin; one that is not, and one that could not be read, end the command with INVALID_FIELD. -/
def Obligations.ScatterLists : Prop :=
  (∀ (s : State) (i : Fin 4096) (p : Port) (lost : List DramUser) (c : Instr), (c = .write i ∧ s.m.fresh i opWrite = true ∧ s.m.gln.level ≠ .exhausted ∧
      (s.m.volu (entVol (s.m.cmd i).entry)).mirrored = false) ∨ (c = .read i lost ∧ s.m.fresh i opRead = true) →
    (s.m.cmd i).needsList = true → (s.m.cmd i).sglPending = false → (s.m.cmd i).port = some p → Completes c s fun t =>
    t.cmd i = { s.m.cmd i with sglPending := true } ∧ (∀ j : Nat, j ≠ i → t.cmd j = s.m.cmd j) ∧ t.q = { s.m.q with cmd := t.q.cmd } ∧
    s.m.Sent [.listRead p (entDptr (s.m.cmd i).entry)] t ∧ s.m.SameBut [.q, .out] t) ∧
  (∀ (s : State) (i : Fin 4096) (l xs : List (BitVec 128)), s.m.slotUsed i = true → (s.m.cmd i).sglPending = true →
    sglOk (4096 * entCount (s.m.cmd i).entry) l = some xs → Completes (.sglListReadReturn i true l) s fun t =>
    t.cmd i = { s.m.cmd i with sglPending := false, sgl := xs } ∧ (∀ j : Nat, j ≠ i → t.cmd j = s.m.cmd j) ∧
    t.q = { s.m.q with cmd := t.q.cmd } ∧ s.m.SameBut [.q] t) ∧
  (∀ (s : State) (i : Fin 4096) (q : Fin 256) (ok : Bool) (l : List (BitVec 128)), s.m.slotUsed i = true → (s.m.cmd i).sglPending = true →
    ok = false ∨ sglOk (4096 * entCount (s.m.cmd i).entry) l = none → s.m.Plain i q → Completes (.sglListReadReturn i ok l) s fun t =>
    Mach.Completed i q St.invalidField 0xFFFFFFFF (if ok then 0 else 1) s.m t) ∧
  (∀ (s : State) (i : Fin 4096) (ok : Bool) (l : List (BitVec 128)), s.m.slotUsed i = false ∨ (s.m.cmd i).sglPending = false →
    Completes (.sglListReadReturn i ok l) s fun t => t = s.m)

/-- READ and VERIFY (R12, R123, R215, R241, Tables 05.6 and 07.5). A READ whose every LB the part holds in a frame, in the buffer or as unmapped answers that value
and completes with SUCCESS; a VERIFY does the same and sends no data; a poisoned LB completes with POISONED_MU; an LB on flash starts a codeword read
through Q0. -/
def Obligations.HostReads : Prop :=
  (∀ (s : State) (i : Fin 4096) (q : Fin 256) (p : Port) (d : Nat → Block), s.m.fresh i opRead = true → (s.m.cmd i).needsList = false →
    s.m.Plain i q → (s.m.cmd i).port = some p → (∀ off, off < entCount (s.m.cmd i).entry →
      s.m.ReadsAs (entVol (s.m.cmd i).entry) (entSlba (s.m.cmd i).entry + off) (d off)) → Completes (.read i []) s fun t =>
    Mach.Ends ((List.range (entCount (s.m.cmd i).entry)).flatMap fun off => pieceOuts p (s.m.port.get p).relaxedEn (d off) 0 ((s.m.cmd i).pieces off)) i q
      St.success 0xFFFF 0 s.m t) ∧
  (∀ (s : State) (i : Fin 4096) (q : Fin 256) (d : Nat → Block), s.m.fresh i opVerify = true → s.m.Plain i q →
    (∀ off, off < entCount (s.m.cmd i).entry →
      s.m.ReadsAs (entVol (s.m.cmd i).entry) (entSlba (s.m.cmd i).entry + off) (d off)) → Completes (.verify i []) s fun t =>
    Mach.Completed i q St.success 0xFFFF 0 s.m t) ∧
  (∀ (s : State) (i : Fin 4096) (q : Fin 256) (c : Instr), (c = .read i [] ∧ s.m.fresh i opRead = true ∧ (s.m.cmd i).needsList = false) ∨
      (c = .verify i [] ∧ s.m.fresh i opVerify = true) → s.m.Plain i q → entCount (s.m.cmd i).entry = 1 →
    s.m.current (entVol (s.m.cmd i).entry) (entSlba (s.m.cmd i).entry) = .poison → Completes c s fun t =>
    Mach.Completed i q St.poisonedMu 0 1 s.m t) ∧
  (∀ (s : State) (i : Fin 4096) (a : BitVec 40) (c : Instr), (c = .read i [] ∧ s.m.fresh i opRead = true ∧ (s.m.cmd i).needsList = false) ∨
      (c = .verify i [] ∧ s.m.fresh i opVerify = true) → entCount (s.m.cmd i).entry = 1 →
    s.m.lampOf (entVol (s.m.cmd i).entry) (entSlba (s.m.cmd i).entry) = none →
    s.m.current (entVol (s.m.cmd i).entry) (entSlba (s.m.cmd i).entry) = .flash a → s.m.fl.tasks = [] →
    s.m.chanAway (adrChan a) = false → s.m.addrLost a = false → Completes c s fun t =>
    t.cmd i = { s.m.cmd i with stage := .running, todo := [0] } ∧ (∀ j : Nat, j ≠ i → t.cmd j = s.m.cmd j) ∧
    t.fl.tasks = [{ id := s.m.fl.nextTask, addr := a, vol := entVol (s.m.cmd i).entry, lba := entSlba (s.m.cmd i).entry, stage := 1
                    tagRetry := false, who := [.cmd i 0] }] ∧
    t.fl.ops = s.m.fl.ops ++ [{ id := s.m.fl.nextOp, ch := adrChan a, row := adrRow a, req := .q0, kind := .readCw s.m.fl.nextTask
                                issued := false, rank0 := false, waited := false, stalled := false }] ∧
    s.m.SameBut [.q, .fl] t)

/-- FLUSH (R122, R243) of an unmirrored volume: it completes with SUCCESS where nothing it covers is short of durability, waits where a deallocation
record is not durable, and completes with WRITE_FAULT where one of its versions was held. DEALLOCATE (R120, R248, R249, Table 12.3) of one whole MU outside the lamp regions: its map entry becomes UNMAPPED under the next WSN, a deallocation record
that names it is asked for, and the command completes. An LB of a partial MU is written as zeros. -/
def Obligations.HostFlushAndDeallocate : Prop :=
  (∀ (s : State) (i : Fin 4096) (q : Fin 256), s.m.fresh i opFlush = true → s.m.Plain i q → s.m.Alone i → (s.m.cmd i).todo = [] →
    (s.m.volu (entVol (s.m.cmd i).entry)).mirrored = false → Completes (.flush i) s fun t => Mach.Completed i q St.success 0 0 s.m t) ∧
  (∀ (s : State) (i : Fin 4096) (r : Nat), s.m.fresh i opFlush = true → s.m.Alone i → (s.m.cmd i).fails = [] →
    (s.m.cmd i).cover = [.record r] → (s.m.volu (entVol (s.m.cmd i).entry)).mirrored = false → Completes (.flush i) s fun t =>
    t.cmd i = { s.m.cmd i with stage := .running, covering := true } ∧ (∀ j : Nat, j ≠ i → t.cmd j = s.m.cmd j) ∧
    t.q = { s.m.q with cmd := t.q.cmd } ∧ s.m.SameBut [.q] t) ∧
  (∀ (s : State) (i : Fin 4096) (q : Fin 256), s.m.fresh i opFlush = true → s.m.Alone i → (s.m.cmd i).kind = .host →
    (s.m.cmd i).qid = some q → s.m.Loose i → (s.m.cmd i).fails = [(0, St.writeFault)] → (s.m.cmd i).todo = [] →
    (s.m.volu (entVol (s.m.cmd i).entry)).mirrored = false → Completes (.flush i) s fun t => Mach.Completed i q St.writeFault 0 0 s.m t) ∧
  (∀ (s : State) (i : Fin 4096) (q : Fin 256) (mu j : Nat), s.m.fresh i opDealloc = true → s.m.Plain i q → s.m.Alone i →
    entSlba (s.m.cmd i).entry = 4 * mu → entCount (s.m.cmd i).entry = 4 → (s.m.volu (entVol (s.m.cmd i).entry)).mirrored = false →
    (∀ o, o < 4 → s.m.lampOf (entVol (s.m.cmd i).entry) (4 * mu + o) = none) →
    entryIndex (s.m.volu (entVol (s.m.cmd i).entry)) (4 * mu) = some j → s.m.vol.recov = none →
    (∀ x ∈ s.m.buf.vers, ¬ (x.vol = entVol (s.m.cmd i).entry ∧ x.mu = mu)) → Completes (.deallocate i) s fun t =>
    t.entry j = unmapped ∧ (∀ k, k ≠ j → t.entry k = s.m.entry k) ∧ t.buf.wsn = s.m.buf.wsn + 1 ∧
    (s.m.hdl.nextRec, HBody.dealloc (entVol (s.m.cmd i).entry) mu 1 s.m.buf.wsn) ∈ t.hdl.want ∧
    Mach.Completed i q St.success 0 0 s.m t) ∧
  (∀ (s : State) (i : Fin 4096) (q : Fin 256), s.m.fresh i opDealloc = true → s.m.Plain i q → s.m.Alone i →
    entCount (s.m.cmd i).entry = 1 → (s.m.volu (entVol (s.m.cmd i).entry)).mirrored = false →
    s.m.lampOf (entVol (s.m.cmd i).entry) (entSlba (s.m.cmd i).entry) = none →
    s.m.openVer (entVol (s.m.cmd i).entry) (entSlba (s.m.cmd i).entry / 4) = none → s.m.bufRoom = true →
    Completes (.deallocate i) s fun t =>
    (∃ x ∈ t.buf.vers, x.vol = entVol (s.m.cmd i).entry ∧ x.mu = entSlba (s.m.cmd i).entry / 4 ∧ x.wsn = s.m.buf.wsn ∧
      x.mask = BitVec.ofNat 4 (2 ^ (entSlba (s.m.cmd i).entry % 4)) ∧ SMap.get 0 x.data (entSlba (s.m.cmd i).entry % 4) = 0) ∧
    t.vol = s.m.vol ∧ Mach.Completed i q St.success 0 0 s.m t)

/-- LIGHT (R154, R158) of one page. A page whose value is at hand begins lighting, and its 64 line writes follow; their end leaves it LIT and clean with that value and
completes the command with 1 page done; a page that is lit stands and completes at once; a tainted one fails with POISONED_MU; a range outside every
region is refused with INVALID_FIELD. -/
def Obligations.LightCommand : Prop :=
  (∀ (s : State) (i : Fin 4096) (k p f : Nat), s.m.fresh i opLight = true → (s.m.cmd i).kind = .host → s.m.cmdInRegion i = true →
    entCount (s.m.cmd i).entry = 1 → s.m.cmdPage i 0 = some (k, p) → (s.m.desc k).frame = some f → (s.m.desc k).state p = .dark →
    s.m.storedSrc (entVol (s.m.cmd i).entry) (entSlba (s.m.cmd i).entry) = .zero → Completes (.light i []) s fun t =>
    (t.desc k).state p = .lighting ∧ t.cmd i = { s.m.cmd i with stage := .running, todo := [0] } ∧
    (∀ j : Nat, j ≠ i → t.cmd j = s.m.cmd j) ∧ t.fl.fills = s.m.fl.fills ++ [{ task := s.m.fl.nextTask, slot := i, off := 0, data := 0 }] ∧
    t.lamp.line = s.m.lamp.line ∧ s.m.SameBut [.q, .lamp, .reg, .fl] t) ∧
  (∀ (s : State) (x : Fill) (q : Fin 256) (k p f : Nat), s.m.fl.fills.find? (fun y => y.task == x.task) = some x →
    s.m.cmdPage x.slot x.off = some (k, p) → (s.m.desc k).frame = some f → (s.m.desc k).state p = .lighting → s.m.Plain x.slot q →
    (s.m.cmd x.slot).todo = [x.off] → Completes (.lightLbFill x.task) s fun t =>
    (∀ l, l < 64 → SMap.get 0 t.lamp.line (lineKey f p l) = (x.data >>> (512 * l)).setWidth 512) ∧ (t.desc k).lit.getLsbD p = true ∧
    (t.desc k).dirty.getLsbD p = false ∧ Mach.Completed x.slot q St.success 1 0 s.m t) ∧
  (∀ (s : State) (task : Nat), s.m.fl.fills.find? (fun y => y.task == task) = none → Completes (.lightLbFill task) s fun t => t = s.m) ∧
  (∀ (s : State) (i : Fin 4096) (q : Fin 256) (k p : Nat), s.m.fresh i opLight = true → s.m.Plain i q → s.m.cmdInRegion i = true →
    entCount (s.m.cmd i).entry = 1 → s.m.cmdPage i 0 = some (k, p) → (s.m.desc k).frame ≠ none → ((s.m.desc k).state p).isLit = true →
    Completes (.light i []) s fun t =>
    ((t.desc k).lit = (s.m.desc k).lit ∧ (t.desc k).dirty = (s.m.desc k).dirty) ∧ t.lamp.line = s.m.lamp.line ∧
    Mach.Completed i q St.success 0 0 s.m t) ∧
  (∀ (s : State) (i : Fin 4096) (q : Fin 256) (k p : Nat), s.m.fresh i opLight = true → s.m.Plain i q → s.m.cmdInRegion i = true →
    entCount (s.m.cmd i).entry = 1 → s.m.cmdPage i 0 = some (k, p) → (s.m.desc k).frame ≠ none → (s.m.desc k).state p = .tainted →
    Completes (.light i []) s fun t => Mach.Completed i q St.poisonedMu 0 0 s.m t) ∧
  (∀ (s : State) (i : Fin 4096) (q : Fin 256), s.m.fresh i opLight = true → s.m.Plain i q → s.m.cmdInRegion i = false →
    Completes (.light i []) s fun t => Mach.Completed i q St.invalidField 0 0 s.m t)

/-- DOUSE and PERSIST (R160, R161) of one page. A clean lit page goes dark under a DOUSE and stays lit under a PERSIST, and the command completes;
a dirty one is copied into the write buffer under the next WSN and is clean from then on, dark under a DOUSE and lit under a PERSIST; in a READ_ONLY
volume it fails with WRITE_PROTECTED. A range outside every region is refused with INVALID_FIELD. -/
def Obligations.DousePersist : Prop :=
  (∀ (s : State) (i : Fin 4096) (q : Fin 256) (k p : Nat) (c : Instr) (o : Nat), (c = .douse i [] ∧ o = opDouse) ∨ (c = .persist i [] ∧ o = opPersist) →
    s.m.fresh i o = true → s.m.Plain i q → s.m.Alone i → s.m.cmdInRegion i = true → entCount (s.m.cmd i).entry = 1 →
    s.m.cmdPage i 0 = some (k, p) → (s.m.desc k).state p = .lit → (s.m.cmd i).stalled = false → Completes c s fun t =>
    (t.desc k).lit.getLsbD p = (o == opPersist) ∧ (t.desc k).dirty.getLsbD p = false ∧ t.buf.wsn = s.m.buf.wsn ∧
    Mach.Completed i q St.success 0 0 s.m t) ∧
  (∀ (s : State) (i : Fin 4096) (q : Fin 256) (k p f : Nat) (c : Instr) (o : Nat), (c = .douse i [] ∧ o = opDouse) ∨ (c = .persist i [] ∧ o = opPersist) →
    s.m.fresh i o = true → s.m.Plain i q → s.m.Alone i → s.m.cmdInRegion i = true → entCount (s.m.cmd i).entry = 1 →
    s.m.cmdPage i 0 = some (k, p) → (s.m.desc k).state p = .litDirty → (s.m.desc k).frame = some f → s.m.pageLost f p = false →
    (s.m.cmd i).stalled = false → (s.m.volu (entVol (s.m.cmd i).entry)).mirrored = false →
    (s.m.volu (entVol (s.m.cmd i).entry)).st ≠ .readOnly → s.m.wbSpent i = false →
    s.m.openVer (entVol (s.m.cmd i).entry) (entSlba (s.m.cmd i).entry / 4) = none → s.m.bufRoom = true → s.m.pacedCopy = false →
    (∀ x ∈ s.m.buf.vers, x.id < s.m.buf.nextId) → Completes c s fun t =>
    (∃ x ∈ t.buf.vers, x.vol = entVol (s.m.cmd i).entry ∧ x.mu = entSlba (s.m.cmd i).entry / 4 ∧ x.wsn = s.m.buf.wsn ∧
      SMap.get 0 x.data (entSlba (s.m.cmd i).entry % 4) = s.m.framePage f p) ∧
    (t.desc k).lit.getLsbD p = (o == opPersist) ∧ (t.desc k).dirty.getLsbD p = false) ∧
  (∀ (s : State) (i : Fin 4096) (q : Fin 256) (k p : Nat) (c : Instr) (o : Nat), (c = .douse i [] ∧ o = opDouse) ∨ (c = .persist i [] ∧ o = opPersist) →
    s.m.fresh i o = true → s.m.Plain i q → s.m.Alone i → s.m.cmdInRegion i = true → entCount (s.m.cmd i).entry = 1 →
    s.m.cmdPage i 0 = some (k, p) → (s.m.desc k).state p = .litDirty → (s.m.volu (entVol (s.m.cmd i).entry)).st = .readOnly →
    (s.m.cmd i).stalled = false → Completes c s fun t => Mach.Completed i q St.writeProtected 0 0 s.m t) ∧
  (∀ (s : State) (i : Fin 4096) (q : Fin 256) (c : Instr) (o : Nat), (c = .douse i [] ∧ o = opDouse) ∨ (c = .persist i [] ∧ o = opPersist) →
    s.m.fresh i o = true → s.m.Plain i q → s.m.cmdInRegion i = false → Completes c s fun t =>
    Mach.Completed i q St.invalidField 0 0 s.m t)

/-! ### Administration -/

/-- IDENTIFY_CONTROLLER, GET_LOG_EXT and GET_FEATURE (R132, R133, R134, R136, Table 06.2) answer and change nothing: 512 bytes that begin with the vendor
and device numbers and end in zeros; the part of a log from the offset on; a feature's value in effect and its value at the next device reset. A length, a log
or a feature that does not exist is refused with INVALID_FIELD. -/
def Obligations.AdminReads : Prop :=
  (∀ (s : State) (p : Port), s.m.mailboxUp p = true → Completes (.identifyController p 0) s fun t =>
    (∃ b : List Byte, s.m.Replies p St.success b t ∧ b.length = 512 ∧ b.take 4 = [0x51, 0x2C, 0x40, 0x71] ∧
      b.drop 0x72 = List.replicate 398 0) ∧ s.m.SameBut [.out] t) ∧
  (∀ (s : State) (p : Port) (len : Nat), s.m.mailboxUp p = true → len ≠ 0 → Completes (.identifyController p len) s fun t =>
    s.m.Sent [.mbox p 0x0016 St.invalidField []] t ∧ s.m.SameBut [.out] t) ∧
  (∀ (s : State) (p : Port) (id sel off len : Nat) (b : List Byte), s.m.mailboxUp p = true → s.m.extLog id sel = some b → 0 < len →
    len ≤ 16384 → off < b.length → Completes (.getLogExt p 12 id sel off len) s fun t =>
    s.m.Replies p St.success ((b.drop off).take len) t ∧ s.m.SameBut [.out, .free] t) ∧
  (∀ (s : State) (p : Port) (id sel off len : Nat), s.m.mailboxUp p = true →
    len = 0 ∨ 16384 < len ∨ s.m.extLog id sel = none ∨ (∃ b, s.m.extLog id sel = some b ∧ b.length ≤ off) →
    Completes (.getLogExt p 12 id sel off len) s fun t => s.m.Replies p St.invalidField [] t ∧ s.m.SameBut [.out] t) ∧
  (∀ (s : State) (p : Port) (fid sel a b : Nat), s.m.mailboxUp p = true → s.m.feature fid sel = some (a, b) →
    Completes (.getFeature p 4 fid sel) s fun t => s.m.Replies p St.success (leBytes 8 a ++ leBytes 8 b) t ∧ s.m.SameBut [.out] t) ∧
  (∀ (s : State) (p : Port) (fid sel : Nat), s.m.mailboxUp p = true → s.m.feature fid sel = none →
    Completes (.getFeature p 4 fid sel) s fun t => s.m.Replies p St.invalidField [] t ∧ s.m.SameBut [.out] t)

/-- SET_FEATURE (R136, R141, R143, R146, R294, R296, Table 06.6). A value in range is stored for the next device reset, and for a feature that takes
effect at once also now, and a DEFINITION record is asked for, with whose durability the command is answered; a value out of range is refused. HOLDUP_US
below the minimum changes nothing; SERVICE_KEY can be set once; SV_COMMIT raises SVFLOOR and never lowers it; VOLUME_RO moves a volume between READY and
READ_ONLY. -/
def Obligations.SetFeature : Prop :=
  (∀ (s : State) (p : Port) (fid sel v : Nat), s.m.Serves p → s.m.featureOk fid v = true → ¬ (fid = 6 ∧ v = 0) →
    Completes (.setFeature p 12 fid sel v) s fun t =>
    t.adm = { s.m.adm with nxt := s.m.adm.nxt.put fid v, now := if atOnce fid then s.m.adm.now.put fid v else s.m.adm.now } ∧
    s.m.AsksDefinition (.feature p) t ∧ s.m.SameBut [.adm, .hdl] t) ∧
  (∀ (s : State) (p : Port) (fid sel v : Nat), s.m.Serves p → s.m.featureOk fid v = false → fid ∉ [3, 9, 0xA, 0x20] →
    Completes (.setFeature p 12 fid sel v) s fun t => s.m.Replies p St.invalidField [] t ∧ s.m.SameBut [.out] t) ∧
  (∀ (s : State) (p : Port) (v : Nat) (sel : Nat) (c : Instr), c = .setHoldupUs p 12 v ∨ c = .setFeature p 12 3 sel v → s.m.Serves p →
    s.m.holdupOk v = true → Completes c s fun t =>
    t.adm = { s.m.adm with nxt := { s.m.adm.nxt with holdupUs := v }, now := { s.m.adm.now with holdupUs := v } } ∧
    t.hdl.waiters = s.m.hdl.waiters ++ [(s.m.hdl.nextRec, true, .feature p)] ∧
    (s.m.adm.plm = 1 → t.hdl.budget = s.m.budgetFor v) ∧ (s.m.adm.plm ≠ 1 → s.m.AsksDefinition (.feature p) t) ∧
    s.m.SameBut [.adm, .hdl] t) ∧
  (∀ (s : State) (p : Port) (v : Nat) (sel : Nat) (c : Instr), c = .setHoldupUs p 12 v ∨ c = .setFeature p 12 3 sel v → s.m.Serves p →
    s.m.holdupOk v = false → Completes c s fun t => s.m.Replies p St.invalidField [] t ∧ s.m.SameBut [.out] t) ∧
  (∀ (s : State) (p : Port) (sel : Nat), s.m.Serves p → s.m.q.used = [] → s.m.twn.rxWait = [] →
    Completes (.setFeature p 12 6 sel 0) s fun t =>
    t.adm = { s.m.adm with nxt := { s.m.adm.nxt with partnerLost := 0 }, now := { s.m.adm.now with partnerLost := 0 } } ∧
    s.m.AsksDefinition (.feature p) t ∧ s.m.SameBut [.adm, .hdl] t) ∧
  (∀ (s : State) (p : Port) (k : BitVec 776) (sel : Nat) (c : Instr), c = .setServiceKey p 101 k ∨ c = .setFeature p 101 9 sel k.toNat →
    s.m.Serves p → s.m.adm.serviceKey = none → Completes c s fun t =>
    (Config.onCurve k = true →
      t.adm = { s.m.adm with serviceKey := some k } ∧ s.m.AsksDefinition (.feature p) t ∧ s.m.SameBut [.adm, .hdl] t) ∧
    (Config.onCurve k = false → s.m.Replies p St.invalidField [] t ∧ s.m.SameBut [.out] t)) ∧
  (∀ (s : State) (p : Port) (k : BitVec 776) (sel : Nat) (c : Instr), c = .setServiceKey p 101 k ∨ c = .setFeature p 101 9 sel k.toNat →
    s.m.Serves p → s.m.adm.serviceKey ≠ none → Completes c s fun t =>
    s.m.Replies p St.accessDenied [] t ∧ s.m.SameBut [.out] t) ∧
  (∀ (s : State) (p : Port) (v sel : Nat) (c : Instr), c = .setSvCommit p 12 v ∨ c = .setFeature p 12 0xA sel v → s.m.Serves p → 1 ≤ v →
    v ≤ 63 → s.m.adm.svFloor ≤ v → s.m.dev.recovery = false → v ≤ (s.m.slot s.m.dev.slot).img.sv → Completes c s fun t =>
    t.adm = { s.m.adm with svFloor := v } ∧ s.m.Replies p St.success [] t ∧ s.m.SameBut [.adm, .out] t) ∧
  (∀ (s : State) (p : Port) (v sel : Nat) (c : Instr), c = .setSvCommit p 12 v ∨ c = .setFeature p 12 0xA sel v → s.m.Serves p →
    v = 0 ∨ 63 < v ∨ v < s.m.adm.svFloor ∨ s.m.dev.recovery = true ∨ (s.m.slot s.m.dev.slot).img.sv < v → Completes c s fun t =>
    s.m.Replies p St.invalidField [] t ∧ s.m.SameBut [.out] t) ∧
  (∀ (s : State) (p : Port) (vol : Vid) (v : Nat) (x : VolSt) (c : Instr),
    c = .setVolumeRo p 12 vol v ∨ c = .setFeature p 12 0x20 vol.val v → s.m.Serves p → (v = 1 ∧ (s.m.volu vol).st = .ready ∧ x = .readOnly) ∨
    (v = 0 ∧ (s.m.volu vol).st = .readOnly ∧ s.m.stuckReadOnly = false ∧ x = .ready) → Completes c s fun t =>
    t.volu vol = { s.m.volu vol with st := x } ∧ (∀ u, u ≠ vol → t.volu u = s.m.volu u) ∧ t.vol = { s.m.vol with v := t.vol.v } ∧
    s.m.AsksDefinition (.feature p) t ∧ s.m.SameBut [.vol, .hdl] t) ∧
  (∀ (s : State) (p : Port) (vol : Vid) (c : Instr), c = .setVolumeRo p 12 vol 0 ∨ c = .setFeature p 12 0x20 vol.val 0 → s.m.Serves p →
    (s.m.volu vol).st = .readOnly → s.m.stuckReadOnly = true → Completes c s fun t => s.m.Replies p St.noSpace [] t ∧ s.m.SameBut [.out] t) ∧
  (∀ (s : State) (p : Port) (vol : Vid) (v : Nat) (c : Instr), c = .setVolumeRo p 12 vol v ∨ c = .setFeature p 12 0x20 vol.val v →
    s.m.Serves p → ¬ (v = 1 ∧ (s.m.volu vol).st = .ready) → ¬ (v = 0 ∧ (s.m.volu vol).st = .readOnly) → Completes c s fun t => s.m.Replies p St.invalidField [] t ∧ s.m.SameBut [.out] t)

/-- SERVICE_UNLOCK (R145, R146). PHASE 0 answers a fresh challenge, a free value, that replaces any earlier one; PHASE 1 uses the challenge up and
unlocks the port where the signature verifies, and otherwise counts a failure and answers ACCESS_DENIED; the eighth failure in a row locks it;
PHASE 2 locks the port. With no SERVICE_KEY each is refused. -/
def Obligations.ServiceUnlock : Prop :=
  (∀ (s : State) (p : Port), s.m.mailboxUp p = true → s.m.adm.serviceKey ≠ none → Completes (.serviceUnlockChallenge p 1) s fun t =>
    (∃ c : BitVec 384, t.port.get p = { s.m.port.get p with challenge := some c } ∧ s.m.Replies p St.success (leBytes 48 c.toNat) t) ∧
    (∀ q, q ≠ p → t.port.get q = s.m.port.get q) ∧ s.m.SameBut [.port, .out, .free] t) ∧
  (∀ (s : State) (p : Port) (sig : BitVec 768) (k : BitVec 776) (c : BitVec 384), s.m.mailboxUp p = true → s.m.adm.serviceKey = some k →
    (s.m.port.get p).challenge = some c → s.m.adm.sigLocked = false → s.m.adm.sigFails < 8 →
    Completes (.serviceUnlockSignature p 97 sig) s fun t =>
    (Config.verifies k (leBytes 48 c.toNat ++ s.m.serialBytes) sig = true →
      t.port.get p = { s.m.port.get p with challenge := none, unlocked := true } ∧ t.adm = { s.m.adm with sigFails := 0 } ∧
      s.m.Replies p St.success [] t) ∧
    (Config.verifies k (leBytes 48 c.toNat ++ s.m.serialBytes) sig = false →
      t.port.get p = { s.m.port.get p with challenge := none } ∧ t.adm = { s.m.adm with sigFails := s.m.adm.sigFails + 1 } ∧
      s.m.Replies p St.accessDenied [] t) ∧
    (∀ q, q ≠ p → t.port.get q = s.m.port.get q) ∧ s.m.SameBut [.port, .adm, .out] t) ∧
  (∀ (s : State) (p : Port) (sig : BitVec 768) (k : BitVec 776) (c : BitVec 384), s.m.mailboxUp p = true → s.m.adm.serviceKey = some k →
    (s.m.port.get p).challenge = some c → s.m.adm.sigLocked = true ∨ 8 ≤ s.m.adm.sigFails →
    Completes (.serviceUnlockSignature p 97 sig) s fun t =>
    t.port.get p = { s.m.port.get p with challenge := none } ∧ s.m.Replies p St.accessDenied [] t ∧ s.m.SameBut [.port, .out] t) ∧
  (∀ (s : State) (p : Port) (sig : BitVec 768), s.m.mailboxUp p = true → s.m.adm.serviceKey ≠ none → (s.m.port.get p).challenge = none →
    Completes (.serviceUnlockSignature p 97 sig) s fun t => s.m.Replies p St.accessDenied [] t ∧ s.m.SameBut [.out] t) ∧
  (∀ s : State, 8 ≤ s.m.adm.sigFails → s.m.adm.sigLocked = false → Completes .signatureLockout s fun t =>
    t.adm = { s.m.adm with sigLocked := true, ev := t.adm.ev } ∧ s.m.SameBut [.reg, .pff, .adm, .alm] t) ∧
  (∀ s : State, s.m.adm.sigFails < 8 ∨ s.m.adm.sigLocked = true → Completes .signatureLockout s fun t => t = s.m) ∧
  (∀ (s : State) (p : Port), s.m.mailboxUp p = true → s.m.adm.serviceKey ≠ none → Completes (.serviceUnlockRelock p 1) s fun t =>
    t.port.get p = { s.m.port.get p with unlocked := false } ∧ (∀ q, q ≠ p → t.port.get q = s.m.port.get q) ∧
    s.m.Replies p St.success [] t ∧ s.m.SameBut [.port, .out] t) ∧
  (∀ (s : State) (p : Port) (sig : BitVec 768) (c : Instr),
    c = .serviceUnlockChallenge p 1 ∨ c = .serviceUnlockSignature p 97 sig ∨ c = .serviceUnlockRelock p 1 → s.m.mailboxUp p = true →
    s.m.adm.serviceKey = none → Completes c s fun t => s.m.Replies p St.accessDenied [] t ∧ s.m.SameBut [.out] t)

/-- Volume commands (R86, R138 to R140, R248, Tables 06.8 and 06.9). An accepted command goes on in the background: the volume is FORMATTING and, once no
validated command of it is left, its map extent reads UNMAPPED, its buffered versions are gone save those being programmed, and the DEFINITION record that ends it
is asked for; VOLUME_CREATE gives it chunks, layout and key slot. A refusal is the first of Table 06.8, and no volume changes. A command that a start-up found unfinished
does its work again. -/
def Obligations.VolumeCommands : Prop :=
  (∀ (s : State) (p : Port) (x : VolArgs), s.m.mailboxUp p = true → s.m.volGated = false → s.m.adm.bg = none → s.m.dev.loaded = true →
    s.m.createRefusal x = none → s.m.volBusy x.vol = false → Completes (.volumeCreate p 16 x) s fun t =>
    t.volu x.vol =
      { st := .formatting, layout1 := x.layout1, enc := x.enc, keySlot := if x.enc then x.keySlot % 1024 else 0, size := x.size
        chunks := s.m.takeChunks x.size, fmtWsn := s.m.buf.wsn, op := some .create, newLayout1 := x.layout1, newEnc := x.enc
        newKey := x.keySlot % 1024, worked := true } ∧
    (∀ u, u ≠ x.vol → t.volu u = s.m.volu u) ∧
    (∀ j, t.entry j = if j / 65536 ∈ s.m.takeChunks x.size then unmapped else s.m.entry j) ∧
    t.adm.bg = some { port := p, op := .volCreate x.vol } ∧ s.m.Sent [.mbox p 0x0001 St.success []] t ∧
    s.m.SameBut [.adm, .port, .out, .vol, .gln, .hdl, .buf, .reg, .alm] t) ∧
  (∀ (s : State) (p : Port) (x : VolArgs), s.m.mailboxUp p = true → s.m.volGated = false → s.m.adm.bg = none → s.m.dev.loaded = true →
    s.m.formatRefusal x = none → (s.m.volu x.vol).mirrored = false → s.m.volBusy x.vol = false → Completes (.volumeFormat p 16 x) s fun t =>
    t.volu x.vol = { s.m.volu x.vol with
      st := .formatting, op := some .format, newLayout1 := x.layout1, newEnc := x.enc, newKey := x.keySlot % 1024, fmtWsn := s.m.buf.wsn
      internal := false, layout1 := x.layout1, enc := x.enc, keySlot := if x.enc then x.keySlot % 1024 else 0, worked := true } ∧
    (∀ u, u ≠ x.vol → t.volu u = s.m.volu u) ∧
    (∀ j, t.entry j = if j / 65536 ∈ (s.m.volu x.vol).chunks then unmapped else s.m.entry j) ∧
    (s.m.vol.waiting = [] → t.buf.vers = s.m.buf.vers.filter fun v => v.vol != x.vol || v.st == .placed) ∧
    (∀ v ∈ t.buf.vers, v ∈ s.m.buf.vers ∧ (v.vol ≠ x.vol ∨ v.st = .placed)) ∧
    t.adm.bg = some { port := p, op := .volFormat x.vol } ∧ s.m.Sent [.mbox p 0x0001 St.success []] t ∧
    s.m.SameBut [.adm, .port, .out, .vol, .gln, .hdl, .buf, .reg, .alm] t) ∧
  (∀ (s : State) (p : Port) (u : Vid), s.m.mailboxUp p = true → s.m.volGated = false → s.m.adm.bg = none →
    s.m.deleteRefusal u = none → (s.m.volu u).mirrored = false → s.m.volBusy u = false → Completes (.volumeDelete p 1 u) s fun t =>
    (t.volu u).st = .formatting ∧ (t.volu u).op = some .delete ∧ (t.volu u).worked = true ∧ (∀ w, w ≠ u → t.volu w = s.m.volu w) ∧
    (∀ j, t.entry j = if j / 65536 ∈ (s.m.volu u).chunks then unmapped else s.m.entry j) ∧
    (s.m.vol.waiting = [] → t.buf.vers = s.m.buf.vers.filter fun v => v.vol != u || v.st == .placed) ∧
    (∀ v ∈ t.buf.vers, v ∈ s.m.buf.vers ∧ (v.vol ≠ u ∨ v.st = .placed)) ∧
    t.adm.bg = some { port := p, op := .volDelete u } ∧ s.m.Sent [.mbox p 0x0001 St.success []] t ∧
    s.m.SameBut [.adm, .port, .out, .vol, .gln, .hdl, .buf, .reg, .alm] t) ∧
  (∀ (s : State) (p : Port) (x : VolArgs) (e : Nat) (c : Instr), (c = .volumeCreate p 16 x ∧ s.m.createRefusal x = some e) ∨
      (c = .volumeFormat p 16 x ∧ s.m.formatRefusal x = some e) ∨ (c = .volumeDelete p 1 x.vol ∧ s.m.deleteRefusal x.vol = some e) →
    s.m.mailboxUp p = true → s.m.dev.loaded = true → Completes c s fun t =>
    s.m.Replies p (if s.m.volGated then St.volumeNotReady else if s.m.adm.bg.isSome then St.backgroundBusy else e) [] t ∧
    s.m.SameBut [.out] t) ∧
  (∀ (s : State) (x : VolArgs), s.m.adm.health.popErr = 0 → (s.m.volu x.vol).st = .absent → 0 < x.size →
    x.size % 262144 ≠ 0 → s.m.createRefusal x = some St.noSpace) ∧
  (∀ (s : State) (v : Vid), s.m.ioUp = true → (s.m.volu v).internal = true → (s.m.volu v).op ≠ none → (s.m.volu v).worked = false →
    s.m.volBusy v = false → Completes (.volumeRepeat v) s fun t =>
    t.volu v = { s.m.volu v with
      layout1 := (s.m.volu v).newLayout1, enc := (s.m.volu v).newEnc
      keySlot := if (s.m.volu v).newEnc then (s.m.volu v).newKey else 0, worked := true, fmtWsn := s.m.buf.wsn } ∧
    (∀ u, u ≠ v → t.volu u = s.m.volu u) ∧
    (∀ j, t.entry j = if j / 65536 ∈ (s.m.volu v).chunks then unmapped else s.m.entry j) ∧
    s.m.SameBut [.vol, .gln, .hdl, .buf, .reg, .alm] t) ∧
  (∀ (s : State) (v : Vid), s.m.ioUp = false ∨ (s.m.volu v).internal = false → Completes (.volumeRepeat v) s fun t => t = s.m)

/-! ### Service -/

/-- SERVICE_ACTION with STOP, CHANGE and START (R86, R147, R399, R401, R402). On a port that is not unlocked each is refused with ACCESS_DENIED, and while a background
operation runs with BACKGROUND_BUSY. STOP moves a RUNNING page to STOPPING and holds it; CHANGE writes the staged registers of a STOPPED page and
nothing where an offset names none; START moves a STOPPED page to STARTING; the three in sequence begin with the stop. A PORT page is never stopped through
its own port. SERVICE_ACTION with RETRAIN, RETIRE and RECALIBRATE (R180, R181, R231, R308, R349, R401, R402). RETRAIN begins on a STOPPED page and on no other; its end leaves a flash
channel trained, with windows of at least 26 taps that are free values where it runs at 3,600 MT/s, or ends with INVALID_FIELD. RETIRE asks for the DEFINITION record that
makes it durable. RECALIBRATE keeps an offset within 8 degrees and shows any other in CALFAIL. The rebuild is over when no furrow with a member on
a retired channel is left. -/
def Obligations.ServiceActions : Prop :=
  (∀ (s : State) (p : Port) (c : Instr), ServiceAction p c → s.m.Serves p → s.m.adm.bg = none → (s.m.port.get p).unlocked = false →
    Completes c s fun t => s.m.Replies p St.accessDenied [] t ∧ s.m.SameBut [.out] t) ∧
  (∀ (s : State) (p : Port) (c : Instr), ServiceAction p c → s.m.Serves p → s.m.adm.bg ≠ none →
    Completes c s fun t => s.m.Replies p St.backgroundBusy [] t ∧ s.m.SameBut [.out] t) ∧
  (∀ (s : State) (p : Port) (pg : Page) (x : List (Nat × Word)) (c : Instr),
    c = .serviceStop p 8 pg ∨ (c = .serviceStopChangeStart p (changeLen x) pg x ∧ (x.all fun e => isStaged pg e.1) = true) →
    s.m.Serves p → s.m.adm.bg = none → (s.m.port.get p).unlocked = true → pg ≠ .port p → s.m.pageSt pg = .running →
    s.m.mayStop pg = true → Completes c s fun t =>
    (∀ q, t.pageSt q = if q = pg then .stopping else s.m.pageSt q) ∧ (t.hdr pg).held = true) ∧
  (∀ (s : State) (p : Port) (pg : Page), s.m.Serves p → s.m.adm.bg = none → (s.m.port.get p).unlocked = true → pg ≠ .port p →
    s.m.pageSt pg = .running → s.m.mayStop pg = true → pg ≠ .lnt → pg ≠ .twn → pg ≠ .sow → (∀ c, pg ≠ .fch c) →
    Completes (.serviceStop p 8 pg) s fun t =>
    t.hdr pg = { s.m.hdr pg with st := .stopping, held := true } ∧ s.m.HdrsBut [pg] t ∧ s.m.RegsBut [] t ∧
    t.adm.bg = some { port := p, op := .svcStop pg } ∧ s.m.Sent [.mbox p 0x0001 St.success []] t ∧
    s.m.SameBut [.reg, .dev, .adm, .port, .out] t) ∧
  (∀ (s : State) (p : Port) (pg : Page) (x : List (Nat × Word)), s.m.Serves p → s.m.adm.bg = none → (s.m.port.get p).unlocked = true →
    s.m.pageSt pg = .stopped → (x.all fun e => isStaged pg e.1) = true → (∀ d, pg ≠ .drc d) → Completes (.serviceChange p (changeLen x) pg x) s
    fun t =>
    t.reg = (s.m.changeRegs pg x).reg ∧ t.adm.bg = none ∧ (t.port.get p).bgPct = 100 ∧ (t.port.get p).bgExt = 0 ∧
    s.m.RegsBut (x.map fun e => pg.base + e.1) t ∧ s.m.HdrsBut [] t ∧ s.m.SameBut [.reg, .adm, .port, .out] t) ∧
  (∀ (s : State) (p : Port) (pg : Page) (off : Nat) (v : Word) (r : RegRow), s.m.Serves p → s.m.adm.bg = none →
    (s.m.port.get p).unlocked = true → s.m.pageSt pg = .stopped → isStaged pg off = true → rowAt (pg.base + off) = some r →
    (∀ d, pg ≠ .drc d) → Completes (.serviceChange p 16 pg [(off, v)]) s fun t =>
    t.rd (pg.base + off) = v &&& BitVec.ofNat 32 r.mask) ∧
  (∀ (s : State) (p : Port) (pg : Page) (x : List (Nat × Word)), s.m.Serves p → s.m.adm.bg = none → (s.m.port.get p).unlocked = true →
    s.m.pageSt pg ≠ .stopped ∨ (∃ e ∈ x, isStaged pg e.1 = false) → Completes (.serviceChange p (changeLen x) pg x) s fun t =>
    s.m.BegunEnded p (.svcStopChangeStart pg x 0) 0xC071 St.invalidField t) ∧
  (∀ (s : State) (p : Port) (pg : Page), s.m.Serves p → s.m.adm.bg = none → (s.m.port.get p).unlocked = true → pg ≠ .port p →
    s.m.pageSt pg = .stopped → Completes (.serviceStart p 8 pg) s fun t =>
    t.hdr pg = { s.m.hdr pg with st := .starting, gen := (s.m.hdr pg).gen + 1 } ∧ s.m.HdrsBut [pg] t ∧ s.m.RegsBut [] t ∧
    t.adm.bg = some { port := p, op := .svcStart pg (s.m.hdr pg).gen } ∧ s.m.Sent [.mbox p 0x0001 St.success []] t ∧
    s.m.SameBut [.reg, .adm, .port, .out] t) ∧
  (∀ (s : State) (p : Port), s.m.Serves p → s.m.adm.bg = none → (s.m.port.get p).unlocked = true →
    Completes (.serviceStop p 8 (.port p)) s fun t => s.m.BegunEnded p (.svcStop (.port p)) 0xC071 St.invalidField t) ∧
  (∀ (s : State) (p : Port) (x : List (Nat × Word)) (pg : Page), s.m.Serves p → s.m.adm.bg = none → (s.m.port.get p).unlocked = true →
    (∃ e ∈ x, isStaged pg e.1 = false) → Completes (.serviceStopChangeStart p (changeLen x) pg x) s fun t =>
    s.m.BegunEnded p (.svcStopChangeStart pg x (s.m.hdr pg).gen) 0xC071 St.invalidField t) ∧
  (∀ (s : State) (p : Port) (c : Chan), s.m.Serves p → s.m.adm.bg = none → (s.m.port.get p).unlocked = true →
    s.m.pageSt (.fch c) = .stopped → Completes (.serviceRetrainFch p 8 c) s fun t =>
    t.chn c = { s.m.chn c with trained := false } ∧ (∀ j, j ≠ c → t.chn j = s.m.chn j) ∧
    t.adm.bg = some { port := p, op := .svcRetrain (.fch c) } ∧ s.m.Sent [.mbox p 0x0001 St.success []] t ∧
    s.m.SameBut [.adm, .port, .out, .fl] t) ∧
  (∀ (s : State) (p : Port) (d : Fin 4), s.m.Serves p → s.m.adm.bg = none → (s.m.port.get p).unlocked = true →
    s.m.pageSt (.drc d) = .stopped → Completes (.serviceRetrainDrc p 8 d) s fun t =>
    t.dram d = { s.m.dram d with trained := false } ∧ (∀ j, j ≠ d → t.dram j = s.m.dram j) ∧
    t.adm.bg = some { port := p, op := .svcRetrain (.drc d) } ∧ s.m.Sent [.mbox p 0x0001 St.success []] t ∧
    s.m.SameBut [.adm, .port, .out, .drc] t) ∧
  (∀ (s : State) (p : Port), s.m.Serves p → s.m.adm.bg = none → (s.m.port.get p).unlocked = true →
    s.m.pageSt (.port p.other) = .stopped → Completes (.serviceRetrainPort p 8 p.other) s fun t =>
    t.port.get p.other = { s.m.port.get p.other with training := true } ∧
    t.adm.bg = some { port := p, op := .svcRetrain (.port p.other) } ∧ s.m.Sent [.mbox p 0x0001 St.success []] t ∧
    s.m.SameBut [.adm, .port, .out] t) ∧
  (∀ (s : State) (p : Port) (c : Chan), s.m.Serves p → s.m.adm.bg = none → (s.m.port.get p).unlocked = true →
    s.m.pageSt (.fch c) ≠ .stopped → Completes (.serviceRetrainFch p 8 c) s fun t =>
    s.m.BegunEnded p (.svcRetrain (.fch c)) 0xC071 St.invalidField t) ∧
  (∀ (s : State) (p : Port) (d : Fin 4), s.m.Serves p → s.m.adm.bg = none → (s.m.port.get p).unlocked = true →
    s.m.pageSt (.drc d) ≠ .stopped → Completes (.serviceRetrainDrc p 8 d) s fun t =>
    s.m.BegunEnded p (.svcRetrain (.drc d)) 0xC071 St.invalidField t) ∧
  (∀ (s : State) (p : Port), s.m.Serves p → s.m.adm.bg = none → (s.m.port.get p).unlocked = true →
    Completes (.serviceRetrainPort p 8 p) s fun t => s.m.BegunEnded p (.svcRetrain (.port p)) 0xC071 St.invalidField t) ∧
  (∀ (s : State) (p : Port) (c : Chan), s.m.adm.bg = some { port := p, op := .svcRetrain (.fch c) } → s.m.fl.trip = false →
    Completes (.retrainDone true) s fun t =>
    (t.chn c).trained = true ∧ ((s.m.chn c).rate ≠ 3 → t.chn c = { s.m.chn c with trained := true }) ∧
    ((s.m.chn c).rate = 3 → (t.chn c).deskew = true ∧
      ∀ w ∈ (t.chn c).windows, w.2.1 + 26 ≤ w.2.2 ∧ w.2.2 < 64 ∧ w.1 = (w.2.1 + w.2.2) / 2) ∧
    (∀ j, j ≠ c → t.chn j = s.m.chn j) ∧ t.adm.bg = none ∧ (t.port.get p).bgPct = 100 ∧ (t.port.get p).bgExt = St.success ∧
    s.m.RegsSame [] t ∧ s.m.SameBut [.reg, .fl, .adm, .port, .out, .free] t) ∧
  (∀ (s : State) (p : Port) (c : Chan), s.m.adm.bg = some { port := p, op := .svcRetrain (.fch c) } → s.m.fl.trip = false →
    (s.m.chn c).rate = 3 → Completes (.retrainDone false) s fun t =>
    t.chn c = { s.m.chn c with deskew := false } ∧ t.adm.bg = none ∧ (t.port.get p).bgExt = St.invalidField ∧
    (∀ q, t.pageSt q = s.m.pageSt q)) ∧
  (∀ (s : State) (p q : Port) (ok : Bool), s.m.adm.bg = some { port := p, op := .svcRetrain (.port q) } →
    Completes (.retrainDone ok) s fun t => s.m.Ended p St.success t) ∧
  (∀ s : State, s.m.adm.bg = none → ∀ ok, Completes (.retrainDone ok) s fun t => t = s.m) ∧
  (∀ (s : State) (p : Port) (c : Chan), s.m.Serves p → s.m.adm.bg = none → (s.m.port.get p).unlocked = true →
    s.m.pageSt (.fch c) = .stopped → Completes (.serviceRetire p 8 c) s fun t =>
    s.m.AsksDefinition (.retire c) t ∧ t.adm.bg = some { port := p, op := .svcRetire c } ∧ s.m.Sent [.mbox p 0x0001 St.success []] t ∧
    s.m.SameBut [.adm, .port, .out, .hdl] t) ∧
  (∀ (s : State) (p : Port) (c : Chan), s.m.Serves p → s.m.adm.bg = none → (s.m.port.get p).unlocked = true →
    s.m.pageSt (.fch c) ≠ .stopped → Completes (.serviceRetire p 8 c) s fun t =>
    s.m.BegunEnded p (.svcRetire c) 0xC071 St.invalidField t) ∧
  (∀ s : State, s.m.fl.rbActive = true → s.m.rebuildLeft = [] → Completes .rebuildComplete s fun t =>
    t.fl = { s.m.fl with rbActive := false } ∧ s.m.RegsSame [] t ∧ s.m.SameBut [.fl, .reg, .dev, .adm] t) ∧
  (∀ s : State, s.m.fl.rbActive = false ∨ s.m.rebuildLeft ≠ [] → Completes .rebuildComplete s fun t => t = s.m) ∧
  (∀ (s : State) (p : Port) (o : Int), s.m.Serves p → s.m.adm.bg = none → (s.m.port.get p).unlocked = true →
    s.m.pageSt .thm = .stopped → -128 ≤ o → o < 128 → Completes (.serviceRecalibrate p 8 [o]) s fun t =>
    t.sens 0 = { s.m.sens 0 with cal := some (BitVec.ofInt 8 o), ref := none } ∧
    (∀ j, j ≠ 0 → t.sens j = { s.m.sens j with ref := none }) ∧
    t.thm.calFail = s.m.thm.calFail &&& ~~~1 ∧ t.adm.bg = none ∧ (t.port.get p).bgExt = St.success ∧ s.m.RegsSame [] t ∧
    s.m.SameBut [.thm, .reg, .adm, .port, .out] t) ∧
  (∀ (s : State) (p : Port) (o : Int), s.m.Serves p → s.m.adm.bg = none → (s.m.port.get p).unlocked = true →
    s.m.pageSt .thm = .stopped → o < -128 ∨ 128 ≤ o → Completes (.serviceRecalibrate p 8 [o]) s fun t =>
    (∀ j, t.sens j = { s.m.sens j with ref := none }) ∧ t.thm.calFail = s.m.thm.calFail ||| 1 ∧ (t.hdr .thm).err = (s.m.hdr .thm).err ||| bit32 16 ∧
    t.adm.bg = none ∧ (t.port.get p).bgExt = St.success) ∧
  (∀ (s : State) (p : Port) (o : List Int), s.m.Serves p → s.m.adm.bg = none → (s.m.port.get p).unlocked = true →
    s.m.pageSt .thm ≠ .stopped → Completes (.serviceRecalibrate p 8 o) s fun t =>
    s.m.BegunEnded p (.svcRetrain .thm) 0xC071 St.invalidField t)

/-! ### Keys -/

/-- Keys (R86, R325, R326, R327, R329 to R333, Table 14.3). A transport key replaces the earlier one; an import that unwraps takes the slot under the next epoch and asks for
its records; one with a spent or no transport key, a point off the curve, or a wrapped key that does not unwrap is refused, and the transport key is used up; KEY_ROTATE keeps the
key and asks for a new epoch in the background; KEY_RETIRE empties a slot that no volume uses and asks for the record. A slot out of range or in use, and one that is empty, are
refused. -/
def Obligations.KeyCommands : Prop :=
  (∀ (s : State) (p : Port), s.m.Serves p → s.m.running .key = true → Completes (.getTransport p 1) s fun t =>
    t.key = { s.m.key with xport := some s.m.free } ∧
    (∃ b : List Byte, s.m.Replies p St.success b t ∧ b.length = 241) ∧ s.m.RegsSame [] t ∧ s.m.SameBut [.key, .reg, .out, .free] t) ∧
  (∀ (s : State) (p : Port) (k n : Nat) (pt : BitVec 776) (w : BitVec 320), s.m.Serves p → s.m.running .key = true → k < 1024 →
    (s.m.kslot k).st = .empty → (s.m.kslot k).importing = false → s.m.key.xport = some n → s.m.epochsSpent = false →
    Completes (.importKey p 141 k pt w) s fun t =>
    (∀ key, Config.onCurve pt = true → Config.unwrap n pt k w = some key →
      t.kslot k = { st := .empty, epoch := s.m.key.nextEpoch, asked := nonceBlock, key := key, importing := true } ∧
      (∀ j, j ≠ k → t.kslot j = s.m.kslot j) ∧
      t.key = { s.m.key with slot := t.key.slot, nextEpoch := s.m.key.nextEpoch + 1, xport := none } ∧
      s.m.AsksKey k s.m.key.nextEpoch (.keyImport p k) t ∧ s.m.RegsSame [] t ∧ s.m.SameBut [.key, .hdl, .reg] t) ∧
    (Config.onCurve pt = true → Config.unwrap n pt k w = none →
      ∃ u, Mach.Recorded (s.m.errBit .key 18) u ∧ u.ImportRefused p St.accessDenied t) ∧
    (Config.onCurve pt = false → s.m.ImportRefused p St.accessDenied t)) ∧
  (∀ (s : State) (p : Port) (k : Nat) (pt : BitVec 776) (w : BitVec 320), s.m.Serves p → s.m.running .key = true → k < 1024 →
    (s.m.kslot k).st = .empty → (s.m.kslot k).importing = false → s.m.key.xport = none →
    Completes (.importKey p 141 k pt w) s fun t => s.m.ImportRefused p St.accessDenied t) ∧
  (∀ (s : State) (p : Port) (k : Nat) (pt : BitVec 776) (w : BitVec 320), s.m.Serves p → s.m.running .key = true →
    1024 ≤ k ∨ (s.m.kslot k).st ≠ .empty ∨ (s.m.kslot k).importing = true → Completes (.importKey p 141 k pt w) s fun t =>
    s.m.Replies p St.invalidField [] t ∧ s.m.SameBut [.out] t) ∧
  (∀ (s : State) (p : Port) (k : Nat), s.m.Serves p → s.m.running .key = true → s.m.adm.bg = none → k < 1024 → (s.m.kslot k).st ≠ .empty →
    s.m.epochsSpent = false → Completes (.keyRotate p 2 k) s fun t =>
    t.kslot k = { s.m.kslot k with rotating := some s.m.key.nextEpoch } ∧ (∀ j, j ≠ k → t.kslot j = s.m.kslot j) ∧
    t.key = { s.m.key with slot := t.key.slot, nextEpoch := s.m.key.nextEpoch + 1 } ∧ s.m.AsksKey k s.m.key.nextEpoch (.keyRotate k) t ∧
    t.adm.bg = some { port := p, op := .keyRotate k } ∧ s.m.Sent [.mbox p 0x0001 St.success []] t ∧ s.m.RegsSame [] t ∧
    s.m.SameBut [.key, .hdl, .reg, .adm, .port, .out] t) ∧
  (∀ (s : State) (p : Port) (k : Nat) (c : Instr), c = .keyRotate p 2 k ∨ c = .keyRetire p 2 k → s.m.Serves p → s.m.running .key = true →
    s.m.adm.bg = none → 1024 ≤ k ∨ (s.m.kslot k).st = .empty → Completes c s fun t =>
    s.m.Replies p (if 1024 ≤ k then St.invalidField else St.keySlotEmpty) [] t ∧ s.m.SameBut [.out] t) ∧
  (∀ (s : State) (p : Port) (k : Nat), s.m.Serves p → s.m.running .key = true → k < 1024 → (s.m.kslot k).st ≠ .empty →
    s.m.boundVols k = [] → Completes (.keyRetire p 2 k) s fun t =>
    t.kslot k = {} ∧ t.hdl.waiters = s.m.hdl.waiters ++ [(s.m.hdl.nextRec, false, .keyRetire p)] ∧ (∀ j, j ≠ k → t.kslot j = s.m.kslot j) ∧
    t.key.scrub = true ∧ s.m.RegsSame [] t ∧ s.m.SameBut [.key, .reg, .hdl] t) ∧
  (∀ (s : State) (p : Port) (k : Nat) (pt : BitVec 776) (w : BitVec 320) (c : Instr),
    c = .getTransport p 1 ∨ c = .importKey p 141 k pt w ∨ c = .keyRotate p 2 k ∨ c = .keyRetire p 2 k → s.m.Serves p →
    s.m.running .key = false → Completes c s fun t => s.m.Replies p St.volumeNotReady [] t ∧ s.m.SameBut [.out] t)

/-! ### The twin pair -/

/-- TWIN_CONTROL and TWIN_TAKEOVER (R382, R393, R394, Table 17.8). PAIR sets the expected partner and asks for the record that keeps it, and is
refused while a volume is mirrored with the partner present. MIRROR and UNMIRROR send their CTRL frame and wait for its RESULT; DEMOTE
pends the epoch as mirror in STALE; TWIN_TAKEOVER sends TAKE and is in HANDOVER, or with the partner lost pends the epoch as owner. A FENCE that is
not above E, a volume that is not mirrored, or one that is not this controller's, is refused, and so is an operation on a volume
for which one waits. -/
def Obligations.TwinCommands : Prop :=
  (∀ (s : State) (p : Port) (n : BitVec 160), s.m.Serves p → s.m.partnerPresent = false ∨ (∀ v, (s.m.volu v).mirrored = false) →
    n = s.m.twn.expected ∨ s.m.twn.present = false → Completes (.pair p 40 n) s fun t =>
    t.twn = { s.m.twn with expected := n, paired := n != 0, mismatch := false } ∧ s.m.AsksDefinition (.mbox p 0xC050) t ∧
    s.m.SameBut [.twn, .hdl] t) ∧
  (∀ (s : State) (p : Port) (v : Vid) (n : BitVec 160), s.m.Serves p → s.m.partnerPresent = true → (s.m.volu v).mirrored = true →
    Completes (.pair p 40 n) s fun t => s.m.Replies p St.invalidField [] t ∧ s.m.SameBut [.out] t) ∧
  (∀ (s : State) (p : Port) (v : Vid) (k : Nat), s.m.Serves p → s.m.twinBusy v = false → s.m.TwinFree → s.m.CtrlGoes → s.m.twn.paired = true →
    (s.m.volu v).st = .ready → (s.m.volu v).mirrored = false → Completes (.mirror p 40 v k) s fun t =>
    (s.m.twnAwait { port := p, op := 1, vol := v, fence := 0, arg := k, was := (s.m.volu v).twin }).SendsCtrl 2 v k
      (s.m.volu v).fence 0 (s.m.volu v).size (layoutBits (s.m.volu v).layout1 (s.m.volu v).enc) t) ∧
  (∀ (s : State) (p : Port) (v : Vid) (k : Nat), s.m.Serves p → s.m.twinBusy v = false →
    (s.m.volu v).st ≠ .ready ∨ (s.m.volu v).mirrored = true → Completes (.mirror p 40 v k) s fun t =>
    s.m.Replies p St.invalidField [] t ∧ s.m.SameBut [.out] t) ∧
  (∀ (s : State) (p : Port) (v : Vid), s.m.Serves p → s.m.twinBusy v = false → s.m.TwinFree → s.m.CtrlGoes →
    (s.m.volu v).mirrored = true → (s.m.volu v).owner = true → v ∉ s.m.twn.lone → Completes (.unmirror p 40 v) s fun t =>
    (s.m.twnAwait { port := p, op := 2, vol := v, fence := 0, arg := 0, was := (s.m.volu v).twin }).SendsCtrl 9 v 0
      (s.m.volu v).fence 0 0 0 t) ∧
  (∀ (s : State) (p : Port) (v : Vid), s.m.Serves p → s.m.twinBusy v = false → (s.m.volu v).mirrored = true → v ∈ s.m.twn.lone →
    (s.m.volu v).twin = .stale → Completes (.unmirror p 40 v) s fun t =>
    t.volu v = (s.m.volu v).unmirrored ∧ (∀ u, u ≠ v → t.volu u = s.m.volu u) ∧
    t.twn = { s.m.twn with lone := s.m.twn.lone.filter (· != v) } ∧ s.m.AsksDefinition (.mbox p 0xC050) t ∧
    s.m.SameBut [.twn, .vol, .hdl] t) ∧
  (∀ (s : State) (p : Port) (v : Vid) (e : Nat), s.m.Serves p → s.m.twinBusy v = false → (s.m.volu v).mirrored = true →
    (s.m.volu v).owner = true → (s.m.volu v).fence < e → Completes (.demote p 40 v e) s fun t =>
    t.volu v = { s.m.volu v with pendFence := some (e, false, .stale) } ∧ (∀ u, u ≠ v → t.volu u = s.m.volu u) ∧
    t.twn = { s.m.twn with
      wait := s.m.twn.wait ++ [{ port := p, op := 3, vol := v, fence := e, arg := 0, was := (s.m.volu v).twin }] } ∧
    s.m.AsksDefinition (.takeover v) t ∧ s.m.SameBut [.vol, .twn, .hdl] t) ∧
  (∀ (s : State) (p : Port) (v : Vid) (f : Bool) (e : Nat), s.m.Serves p → s.m.twinBusy v = false → (s.m.volu v).mirrored = true →
    (s.m.volu v).fence < e → f = true ∨ ((s.m.volu v).twin ≠ .resyncing ∧ (s.m.volu v).twin ≠ .stale) → s.m.partnerPresent = false →
    Completes (.twinTakeover p 16 v f e) s fun t =>
    t.volu v = { s.m.volu v with pendFence := some (e, true, .lost) } ∧ (∀ u, u ≠ v → t.volu u = s.m.volu u) ∧
    t.twn = { s.m.twn with
      wait := s.m.twn.wait ++ [{ port := p, op := 4, vol := v, fence := e, arg := 0, was := (s.m.volu v).twin }] } ∧
    s.m.AsksDefinition (.takeover v) t ∧ s.m.SameBut [.vol, .twn, .hdl] t) ∧
  (∀ (s : State) (p : Port) (v : Vid) (f : Bool) (e : Nat), s.m.Serves p → s.m.twinBusy v = false → (s.m.volu v).mirrored = true →
    (s.m.volu v).fence < e → f = true ∨ ((s.m.volu v).twin ≠ .resyncing ∧ (s.m.volu v).twin ≠ .stale) → s.m.TwinFree →
    s.m.CtrlGoes →
    Completes (.twinTakeover p 16 v f e) s fun t =>
    ((s.m.twnAwait { port := p, op := 4, vol := v, fence := e, arg := 0, was := (s.m.volu v).twin }).setVol v
      { s.m.volu v with twin := .handover }).SendsCtrl 4 v 0 e 0 0 0 t) ∧
  (∀ (s : State) (p : Port) (v : Vid) (f : Bool) (e : Nat) (c : Instr), s.m.Serves p → s.m.twinBusy v = false →
    (c = .unmirror p 40 v ∧ (s.m.volu v).mirrored = false) ∨
      ((c = .demote p 40 v e ∨ c = .twinTakeover p 16 v f e) ∧ ((s.m.volu v).mirrored = false ∨ e ≤ (s.m.volu v).fence)) →
    Completes c s fun t => s.m.Replies p St.invalidField [] t ∧ s.m.SameBut [.out] t) ∧
  (∀ (s : State) (p : Port) (v : Vid) (e : Nat) (c : Instr), s.m.Serves p → s.m.twinBusy v = false → (s.m.volu v).mirrored = true →
    (s.m.volu v).owner = false → (s.m.volu v).twin ≠ .stale → c = .unmirror p 40 v ∨ (c = .demote p 40 v e ∧ (s.m.volu v).fence < e) →
    Completes c s fun t => s.m.Replies p St.notOwner [] t ∧ s.m.SameBut [.out] t) ∧
  (∀ (s : State) (p : Port) (v : Vid) (e : Nat), s.m.Serves p → s.m.twinBusy v = false → (s.m.volu v).mirrored = true →
    (s.m.volu v).fence < e → (s.m.volu v).twin = .resyncing ∨ (s.m.volu v).twin = .stale → Completes (.twinTakeover p 16 v false e) s
    fun t => s.m.Replies p St.twinUnavailable [] t ∧ s.m.SameBut [.out] t) ∧
  (∀ (s : State) (p : Port) (v : Vid) (k e : Nat) (f : Bool) (c : Instr), s.m.Serves p → s.m.twinBusy v = true →
    c = .mirror p 40 v k ∨ c = .unmirror p 40 v ∨ c = .demote p 40 v e ∨ c = .twinTakeover p 16 v f e → Completes c s fun t =>
    s.m.Replies p St.backgroundBusy [] t ∧ s.m.SameBut [.out] t)

/-- The twin link (R377, R378, R380, R381, R382). It comes up as trained, no better than TWN_CFG lets it be; frames that fail the CRC count, and from the
eighth in a row on alignment is lost and the link retrains; a failed sequenced frame is answered with a NAK; the ACK of any good frame drops those it
covers; a NAK and the resend timeout send the unacknowledged frames again; a heartbeat gives the round trip, and one with another serial than the
expected sets PG_ERR.BLK bit 17. With the link or the partner lost, no partner is present and no frame is held. -/
def Obligations.TwinLink : Prop :=
  (∀ (s : State) (x4 r16 : Bool), s.m.running .twn = true → (s.m.rd Reg.TWN_CFG).getLsbD 0 = true → Completes (.twinLinkUp x4 r16) s
    fun t =>
    t.twn = { s.m.twn with
      up := true, x4 := x4 || (s.m.rd Reg.TWN_CFG).getLsbD 2, rate16 := r16 || (s.m.rd Reg.TWN_CFG).getLsbD 1, crcRun := 0 } ∧
    s.m.SameBut [.twn] t) ∧
  (∀ (s : State) (x4 r16 : Bool), s.m.running .twn = false ∨ (s.m.rd Reg.TWN_CFG).getLsbD 0 = false → Completes (.twinLinkUp x4 r16) s
    fun t => t = s.m) ∧
  (∀ s : State, s.m.twn.present = false → s.m.Calm → Completes .twinLinkDown s fun t =>
    t.twn = { s.m.twn with up := false, crcRun := 0 } ∧ s.m.SameBut [.twn] t) ∧
  (∀ s : State, s.m.twn.present = false → s.m.Calm → Completes .partnerLossTimeout s fun t => t = s.m) ∧
  (∀ (s : State) (c : Instr), s.m.twn.present = true → c = .twinLinkDown ∨ c = .partnerLossTimeout → s.m.Calm → Completes c s fun t =>
    t.twn.present = false ∧ t.twn.unacked = [] ∧ t.twn.waiting = [] ∧ t.twn.txSeq = 0 ∧ t.twn.rxSeq = 0 ∧
    t.partnerPresent = false ∧ ∀ v, (s.m.volu v).mirrored = true → (s.m.volu v).owner = true → (t.volu v).twin = .lost) ∧
  (∀ (s : State) (sq : Bool), s.m.twinLive = true → Completes (.twinFrameCrcFailure sq) s fun t =>
    t.rdN Reg.TWN_CRCERR = min 0xFFFFFFFF (s.m.rdN Reg.TWN_CRCERR + 1) ∧
    t.twn = { s.m.twn with crcRun := s.m.twn.crcRun + 1, nakSent := s.m.twn.nakSent || sq } ∧
    s.m.Sent (if sq then [.frame { type := 0x02, flags := 0, seq := 0, ack := s.m.twnAck, xid := 0, idx := 0, words := [s.m.twn.rxSeq], data := 0 }]
      else []) t ∧ s.m.RegsSame [Reg.TWN_CRCERR] t ∧ s.m.SameBut [.twn, .reg, .out] t) ∧
  (∀ s : State, s.m.twinLive = true → 8 ≤ s.m.twn.crcRun → s.m.Calm → Completes .frameAlignmentLoss s fun t =>
    Mach.Recorded (((s.m.updTwn fun w => { w with crcRun := 0 }).bump Reg.TWN_RETRAIN).errBit .twn 19) t) ∧
  (∀ s : State, s.m.twn.crcRun < 8 → s.m.Calm → Completes .frameAlignmentLoss s fun t => t = s.m) ∧
  (∀ (s : State) (h : FrameHdr), s.m.twinLive = true → s.m.twn.waiting = [] → Completes (.idle h) s fun t =>
    t.twn = { s.m.twn with
      crcRun := 0
      unacked := s.m.twn.unacked.filter fun f => decide (0 < (f.seq + 65536 - h.ack) % 65536 ∧ (f.seq + 65536 - h.ack) % 65536 < 32768) } ∧ s.m.SameBut [.twn] t) ∧
  (∀ (s : State) (h : FrameHdr) (n : Nat) (c : Instr), s.m.twinLive = false → c = .idle h ∨ c = .nak h n ∨ c = .frameResendTimeout →
    s.m.Calm → Completes c s fun t => t = s.m) ∧
  (∀ (s : State) (h : FrameHdr) (n : BitVec 160) (a b now : Word), s.m.twinLive = true → s.m.twn.waiting = [] →
    s.m.twn.paired = false ∨ (n = s.m.twn.expected ∧ s.m.twn.present = true) → s.m.Calm → Completes (.heartbeat h n a b now) s fun t =>
    t.twn = { s.m.twn with
      crcRun := 0
      heard := n
      lastStamp := a
      rtt := BitVec.ofNat 32 (min 65535 (now - b).toNat)
      unacked := s.m.twn.unacked.filter fun f =>
        decide (0 < (f.seq + 65536 - h.ack) % 65536 ∧ (f.seq + 65536 - h.ack) % 65536 < 32768) } ∧ s.m.SameBut [.twn] t) ∧
  (∀ (s : State) (h : FrameHdr) (n : BitVec 160) (a b now : Word), s.m.twinLive = true → s.m.twn.waiting = [] → s.m.twn.paired = true →
    n = s.m.twn.expected → (∀ v, (s.m.volu v).mirrored = false) → s.m.Calm → Completes (.heartbeat h n a b now) s fun t =>
    t.twn.present = true ∧ t.twn.heard = n ∧ t.partnerPresent = true ∧ t.out = s.m.out) ∧
  (∀ (s : State) (h : FrameHdr) (n : BitVec 160) (a b now : Word), s.m.twinLive = true → s.m.twn.waiting = [] → s.m.twn.paired = true →
    n ≠ s.m.twn.expected → s.m.twn.present = false → s.m.Calm → Completes (.heartbeat h n a b now) s fun t =>
    t.twn.present = false ∧ t.twn.mismatch = true ∧ t.twn.heard = n ∧
    (t.hdr .twn).err = (s.m.hdr .twn).err ||| bit32 17 ∧ s.m.SameBut [.twn, .reg, .pff, .adm, .alm] t) ∧
  (∀ (s : State) (h : FrameHdr) (n : Nat), s.m.twinLive = true → s.m.twn.waiting = [] → Completes (.nak h n) s fun t =>
    t.twn.unacked = s.m.twn.unacked.filter (fun f => decide (0 < (f.seq + 65536 - h.ack) % 65536 ∧ (f.seq + 65536 - h.ack) % 65536 < 32768)) ∧
    s.m.Sent ((t.twn.unacked.filter fun f => decide ((f.seq + 65536 - n) % 65536 < 32768)).map fun g => .frame { g with ack := s.m.twnAck }) t ∧
    s.m.RegsSame [Reg.TWN_REPLAY] t ∧ s.m.SameBut [.twn, .reg, .out] t) ∧
  (∀ (s : State) (now : Word), s.m.twinLive = true → Completes (.heartbeatInterval now) s fun t =>
    s.m.Sent [.frame { type := 0x01, flags := 0, seq := 0, ack := s.m.twnAck, xid := 0, idx := 0
                       words := [s.m.adm.board.serial.toNat, now.toNat, s.m.twn.lastStamp.toNat], data := 0 }] t ∧ s.m.SameBut [.out] t) ∧
  (∀ (s : State) (f : Frame) (r : List Frame), s.m.twinLive = true → s.m.twn.unacked = f :: r →
    (∀ g ∈ r, (g.seq + 65536 - f.seq) % 65536 < 32768) → s.m.Calm → Completes .frameResendTimeout s fun t =>
    s.m.Sent ((f :: r).map fun g => .frame { g with ack := s.m.twnAck }) t ∧ t.twn = s.m.twn ∧ s.m.SameBut [.reg, .out] t)

/-- The mirror's side of a transfer (R385, R386, R387, R390), for a frame that is the next expected of a present partner. A WBEGIN that nothing refuses joins
the transfers received; one for a volume that is not mirrored here is answered with WRITE_FAULT. WDATA joins the LB that is
being received, whose last part makes it whole. A DEALLOC of one whole MU unmaps it under the next WSN and is answered. A DURABLE is
answered once nothing received for its volume waits. A frame out of order has no effect of its own: a duplicate is acknowledged again, and a gap is
answered with one NAK. -/
def Obligations.TwinTransfers : Prop :=
  (∀ (s : State) (h : FrameHdr) (v : Vid) (e slba nlb : Nat) (fua rs : Bool), s.m.Expects h →
    s.m.mirrorRefusal v e slba (nlb + 1) true = none → s.m.twn.rx = [] → Completes (.wbegin h v e slba nlb fua rs) s fun t =>
    ∃ u, s.m.Accepts h u ∧ t = u.updTwn fun w => { w with
      rx := [{ xid := h.xid, vol := v, slba := slba, ask := false, fua := fua, zeros := false, hole := 0, data := [], whole := 0
               todo := List.range (nlb + 1), vers := [] }] }) ∧
  (∀ (s : State) (h : FrameHdr) (v : Vid) (e slba nlb : Nat) (fua rs : Bool) (c : Instr),
    c = .wbegin h v e slba nlb fua rs ∨ c = .twinDealloc h v e slba nlb → s.m.Expects h → s.m.TwinFree → (s.m.volu v).mirrored = false →
    Completes c s fun t =>
    ∃ u, s.m.Accepts h u ∧ u.SendsFrame (txFrame 0x12 0 h.xid 0 [St.writeFault, (s.m.volu v).fence] 0) t) ∧
  (∀ (s : State) (h : FrameHdr) (idx : Nat) (d : BitVec 2048) (x : RxXfer) (o : Nat) (os : List Nat), s.m.Expects h → s.m.twn.rx = [x] →
    x.xid = h.xid → x.ask = false → x.zeros = false → x.hole = 0 → x.whole = idx / 16 → x.todo = o :: os → x.whole ≤ o → idx % 16 ≠ 15 →
    Completes (.wdata h idx d) s fun t =>
    ∃ u, s.m.Accepts h u ∧ t = u.updTwn fun w => { w with
      rx := [{ x with data := SMap.put x.data (idx / 16) (SMap.get 0 x.data (idx / 16) ||| (d.setWidth 32768 <<< (2048 * (idx % 16)))) }] }) ∧
  (∀ (s : State) (h : FrameHdr) (d : BitVec 2048) (x : RxXfer) (os : List Nat), s.m.Expects h → s.m.twn.rx = [x] →
    x.xid = h.xid → x.ask = false → x.zeros = false → x.hole = 0 → x.todo = x.whole :: os → (∀ o ∈ os, x.whole < o) → os ≠ [] →
    s.m.openVer x.vol ((x.slba + x.whole) / 4) = none → s.m.bufRoom = true → s.m.gln.level = .low →
    Completes (.wdata h (16 * x.whole + 15) d) s fun t =>
    (∃ y ∈ t.buf.vers, y.vol = x.vol ∧ y.mu = (x.slba + x.whole) / 4 ∧ y.wsn = s.m.buf.wsn ∧
      SMap.get 0 y.data ((x.slba + x.whole) % 4) = SMap.get 0 x.data x.whole ||| (d.setWidth 32768 <<< (2048 * 15))) ∧
    ∃ y, t.twn.rx = [y] ∧ y.todo = os ∧ y.whole = x.whole + 1) ∧
  (∀ (s : State) (h : FrameHdr) (v : Vid) (e mu j : Nat), s.m.Expects h → s.m.TwinFree →
    s.m.mirrorRefusal v e (4 * mu) 4 false = none → s.m.twn.rx = [] → s.m.twn.rxWait = [] → (∀ i, (s.m.cmd i).covering = false) →
    entryIndex (s.m.volu v) (4 * mu) = some j → s.m.vol.recov = none → (∀ x ∈ s.m.buf.vers, ¬ (x.vol = v ∧ x.mu = mu)) →
    Completes (.twinDealloc h v e (4 * mu) 3) s fun t =>
    t.entry j = unmapped ∧ (∀ k, k ≠ j → t.entry k = s.m.entry k) ∧ t.buf.wsn = s.m.buf.wsn + 1 ∧
    (s.m.hdl.nextRec, HBody.dealloc v mu 1 s.m.buf.wsn) ∈ t.hdl.want ∧
    ∃ (u : Mach) (f : Frame), s.m.Accepts h u ∧ u.Sent [.frame f] t ∧ f.type = 0x12 ∧ f.xid = h.xid ∧
      f.words = [St.success, (s.m.volu v).fence]) ∧
  (∀ (s : State) (h : FrameHdr) (v : Vid), s.m.Expects h → s.m.TwinFree → s.m.twn.rx = [] → s.m.twn.rxWait = [] →
    (∀ i, (s.m.cmd i).covering = false) → (∀ y ∈ s.m.buf.vers, y.vol ≠ v) → (∀ y ∈ s.m.buf.unprot, y.vol ≠ v) → s.m.openDeallocs v = [] →
    Completes (.durable h v) s fun t =>
    ∃ u, s.m.Accepts h u ∧ u.SendsFrame (txFrame 0x12 0 h.xid 0 [St.success, (s.m.volu v).fence] 0) t) ∧
  (∀ (s : State) (h : FrameHdr) (idx : Nat) (d : BitVec 2048), s.m.twinLive = true → s.m.twn.present = true →
    s.m.twn.waiting = [] → h.seq % 65536 ≠ s.m.twn.rxSeq → (s.m.twn.rxSeq + 65536 - h.seq % 65536) % 65536 ≤ 32768 →
    Completes (.wdata h idx d) s fun t =>
    s.m.Sent [.frame { type := 0, flags := 0, seq := 0, ack := s.m.twnAck, xid := 0, idx := 0, words := [], data := 0 }] t ∧
    t.twn.rx = s.m.twn.rx ∧ t.twn.rxSeq = s.m.twn.rxSeq ∧ s.m.SameBut [.twn, .out] t) ∧
  (∀ (s : State) (h : FrameHdr) (idx : Nat) (d : BitVec 2048), s.m.twinLive = true → s.m.twn.present = true →
    s.m.twn.waiting = [] → h.seq % 65536 ≠ s.m.twn.rxSeq → 32768 < (s.m.twn.rxSeq + 65536 - h.seq % 65536) % 65536 →
    Completes (.wdata h idx d) s fun t =>
    s.m.Sent (if s.m.twn.nakSent then [] else
      [.frame { type := 0x02, flags := 0, seq := 0, ack := s.m.twnAck, xid := 0, idx := 0, words := [s.m.twn.rxSeq], data := 0 }]) t ∧
    t.twn.nakSent = true ∧ t.twn.rx = s.m.twn.rx ∧ t.twn.rxSeq = s.m.twn.rxSeq ∧ s.m.SameBut [.twn, .out] t)

/-- The owner's side (R385 to R389, R392). A WACK of SUCCESS for a DURABLE ends its transfer; a refusal makes its regions dirty, and an owner that
was IN_SYNC is RESYNCING. The DURABLE interval sends one DURABLE for a mirrored volume, which covers its unconfirmed regions. A piece of
the walk whose LBs are all unmapped is sent at once and the walk moves on; a volume that is not being resynchronised has no walk. -/
def Obligations.TwinOwner : Prop :=
  (∀ (s : State) (h : FrameHdr) (v : Vid) (rs : List Nat) (e : Nat), s.m.Expects h → s.m.twn.tx = [(h.xid, .durable v rs)] →
    (s.m.volu v).twin = .inSync → e ≤ (s.m.volu v).fence → s.m.rs v = {} → s.m.twn.rxWait = [] → (∀ i, (s.m.cmd i).covering = false) →
    Completes (.wack h 0 e) s fun t => t.twn.tx = [] ∧ (∀ w, t.volu w = s.m.volu w) ∧ t.q = s.m.q ∧ t.buf = s.m.buf) ∧
  (∀ (s : State) (h : FrameHdr) (v : Vid) (rs : List Nat) (st : BitVec 16) (e r : Nat), s.m.Expects h →
    s.m.twn.tx = [(h.xid, .durable v rs)] → st ≠ 0 → r ∈ rs → e ≤ (s.m.volu v).fence → s.m.rs v = {} → s.m.twn.rxWait = [] →
    (∀ i, (s.m.cmd i).covering = false) → (s.m.volu v).twin = .inSync → (s.m.volu v).owner = true → Completes (.wack h st e) s fun t =>
    t.twn.tx = [] ∧ r ∈ (t.volu v).dirty ∧ (t.volu v).twin = .resyncing ∧ ∀ w, w ≠ v → t.volu w = s.m.volu w) ∧
  (∀ (s : State) (h : FrameHdr) (st : BitVec 16) (e : Nat), s.m.Expects h → (∀ x ∈ s.m.twn.tx, x.1 ≠ h.xid) → Completes (.wack h st e) s
    fun t => s.m.Accepts h t) ∧
  (∀ (s : State) (v : Vid), s.m.TwinFree → s.m.mirroring v = true → (∀ u, u ≠ v → s.m.mirroring u = false) → Completes .durableInterval s
    fun t =>
    t.volu v = { s.m.volu v with unconf := [] } ∧ (∀ u, u ≠ v → t.volu u = s.m.volu u) ∧
    SMap.get (TxFor.cmd 0) t.twn.tx s.m.twn.nextXid = .durable v (s.m.volu v).unconf ∧ t.twn.nextXid = (s.m.twn.nextXid + 1) % 65536 ∧
    s.m.Sent [.frame { txFrame 0x14 0 s.m.twn.nextXid 0 [v.val] 0 with seq := s.m.twn.txSeq, ack := s.m.twnAck }] t ∧
    s.m.SameBut [.vol, .twn, .reg, .out] t) ∧
  (∀ s : State, (∀ u, s.m.mirroring u = false) → Completes .durableInterval s fun t => t = s.m) ∧
  (∀ (s : State) (v : Vid) (i : Nat) (r : List Nat), s.m.mirroring v = true → (s.m.volu v).twin = .resyncing → (s.m.volu v).serves = true →
    (s.m.volu v).dirty ≠ [] → (s.m.rs v).walked = [] → s.m.pieceSlots v = i :: r → (s.m.cmd i).stage = .admitted →
    (∀ off, off < 512 → s.m.storedSrc v (entSlba (s.m.cmd i).entry + off) = .zero) → Completes (.resyncPiece v) s fun t =>
    t.q.used = s.m.q.used.filter (· != i) ∧ (t.rs v).next = entSlba (s.m.cmd i).entry / 512 + 1) ∧
  (∀ (s : State) (v : Vid), (s.m.volu v).mirrored = false → Completes (.resyncPiece v) s fun t =>
    (∀ w, (t.volu w).st = (s.m.volu w).st ∧ (t.volu w).twin = (s.m.volu w).twin) ∧ s.m.SameBut [.vol, .twn] t)

/-- The CTRL frames (Table 17.3, R391, R393, R394, Table 17.6), each the next expected of a present partner. CREATE, FORMAT, DELETE and UNMIRROR
begin the volume's command on the owner's behalf and owe it a RESULT, or answer a refusal at once. RESULT ends the
operation that waits with the partner's status, a MIRROR making this controller owner in RESYNCING. TAKE pends the epoch as former owner and TAKE_ACK as new owner; a
VOLSTATE of a higher epoch is adopted as mirror, one of a lower epoch leaves the mirror STALE; the dirty regions of an
RSMAP join the owner's. At the handover timeout the takeover ends with TWIN_UNAVAILABLE. -/
def Obligations.TwinControl : Prop :=
  (∀ (s : State) (h : FrameHdr) (v : Vid) (k e n : Nat) (l enc : Bool), s.m.ExpectsCtrl h → s.m.ioUp = true → s.m.dev.phase = .idle →
    s.m.dev.loaded = true → s.m.createRefusal { vol := v, layout1 := l, enc := enc, keySlot := k, size := n } = none →
    s.m.volBusy v = false → Completes (.ctrlCreate h v k e n l enc) s fun t =>
    (t.volu v).st = .formatting ∧ (t.volu v).op = some .create ∧ (t.volu v).size = n ∧ (t.volu v).fence = e ∧
    (t.volu v).mirrored = true ∧ (t.volu v).owner = false ∧ (t.volu v).twin = .resyncing ∧ (t.volu v).internal = true ∧
    (t.volu v).chunks = s.m.takeChunks n ∧ (∀ u, u ≠ v → t.volu u = s.m.volu u) ∧ t.twn.owed = s.m.twn.owed ++ [v]) ∧
  (∀ (s : State) (h : FrameHdr) (v : Vid) (l enc : Bool) (k : Nat), s.m.ExpectsCtrl h → s.m.repeatRefusal v = none →
    s.m.volKeyRefusal { vol := v, layout1 := l, enc := enc, keySlot := k, size := 0 } = none → Completes (.ctrlFormat h v l enc k) s
    fun t =>
    (t.volu v).st = .formatting ∧ (t.volu v).op = some .format ∧ (t.volu v).newLayout1 = l ∧ (t.volu v).newEnc = enc ∧
    (t.volu v).newKey = k % 1024 ∧ (t.volu v).mirrored = true ∧ (t.volu v).internal = true ∧ (∀ u, u ≠ v → t.volu u = s.m.volu u) ∧
    t.twn.owed = s.m.twn.owed ++ [v]) ∧
  (∀ (s : State) (h : FrameHdr) (v : Vid), s.m.ExpectsCtrl h → s.m.repeatRefusal v = none → Completes (.ctrlDelete h v) s fun t =>
    (t.volu v).st = .formatting ∧ (t.volu v).op = some .delete ∧ (t.volu v).mirrored = true ∧ (∀ u, u ≠ v → t.volu u = s.m.volu u) ∧
    t.twn.owed = s.m.twn.owed ++ [v]) ∧
  (∀ (s : State) (h : FrameHdr) (v : Vid), s.m.ExpectsCtrl h → s.m.repeatRefusal v = none → Completes (.ctrlUnmirror h v) s fun t =>
    (t.volu v).st = .formatting ∧ (t.volu v).op = some .delete ∧ (t.volu v).mirrored = false ∧ (t.volu v).owner = false ∧
    (t.volu v).twin = .none ∧ (∀ u, u ≠ v → t.volu u = s.m.volu u) ∧ t.twn.owed = s.m.twn.owed ++ [v]) ∧
  (∀ (s : State) (h : FrameHdr) (v : Vid) (l enc : Bool) (k e n st : Nat) (c : Instr), s.m.ExpectsCtrl h → s.m.TwinFree → s.m.CtrlGoes →
    (c = .ctrlCreate h v k e n l enc ∧ (s.m.partnerGated.orElse fun _ => s.m.createRefusal
      { vol := v, layout1 := l, enc := enc, keySlot := k, size := n }) = some st) ∨
      ((c = .ctrlFormat h v l enc k ∨ c = .ctrlDelete h v ∨ c = .ctrlUnmirror h v) ∧ s.m.repeatRefusal v = some st) →
    Completes c s fun t => ∃ u, s.m.AcceptsCtrl h u ∧ u.SendsCtrl 3 v st (s.m.volu v).fence 0 0 0 t) ∧
  (∀ (s : State) (h : FrameHdr) (w : TwinWait), s.m.ExpectsCtrl h → s.m.twn.wait = [w] → w.op = 1 → s.m.Calm → Completes (.result h w.vol 0) s fun t =>
    t.volu w.vol = (s.m.volu w.vol).asOwner w.arg ∧ (∀ u, u ≠ w.vol → t.volu u = s.m.volu u) ∧ t.twn.wait = [] ∧
    ∃ u, s.m.AcceptsCtrl h u ∧ u.Replies w.port St.success [] t) ∧
  (∀ (s : State) (h : FrameHdr) (w : TwinWait) (st : BitVec 16), s.m.ExpectsCtrl h → s.m.twn.wait = [w] → w.op = 1 ∨ w.op = 2 → st ≠ 0 →
    s.m.Calm → Completes (.result h w.vol st) s fun t =>
    (∀ u, t.volu u = s.m.volu u) ∧ t.twn.wait = [] ∧ ∃ u, s.m.AcceptsCtrl h u ∧ u.Replies w.port st.toNat [] t) ∧
  (∀ (s : State) (h : FrameHdr) (v : Vid) (st : BitVec 16), s.m.ExpectsCtrl h → s.m.twn.wait = [] → s.m.Calm → Completes (.result h v st) s fun t =>
    s.m.AcceptsCtrl h t) ∧
  (∀ (s : State) (h : FrameHdr) (v : Vid) (e : Nat), s.m.ExpectsCtrl h → (s.m.volu v).mirrored = true → (s.m.volu v).fence < e →
    s.m.regionBound v = false → v ∉ s.m.twn.giving → Completes (.take h v e) s fun t =>
    t.volu v = { s.m.volu v with pendFence := some (e, false, .handover) } ∧ (∀ u, u ≠ v → t.volu u = s.m.volu u) ∧
    t.twn.giving = s.m.twn.giving ++ [v] ∧ s.m.AsksDefinition (.takeover v) t) ∧
  (∀ (s : State) (h : FrameHdr) (v : Vid) (e : Nat), s.m.ExpectsCtrl h → s.m.TwinFree → s.m.CtrlGoes →
    (s.m.volu v).mirrored = false ∨ e ≤ (s.m.volu v).fence ∨ s.m.regionBound v = true → Completes (.take h v e) s fun t =>
    ∃ u, s.m.AcceptsCtrl h u ∧ u.SendsCtrl 3 v St.invalidField (s.m.volu v).fence 0 0 0 t) ∧
  (∀ (s : State) (h : FrameHdr) (v : Vid) (e : Nat), s.m.ExpectsCtrl h → (s.m.volu v).mirrored = true → (s.m.volu v).twin = .handover →
    (s.m.volu v).fence < e → v ∉ s.m.twn.giving → Completes (.takeAck h v e) s fun t =>
    t.volu v = { s.m.volu v with pendFence := some (e, true, .inSync) } ∧ (∀ u, u ≠ v → t.volu u = s.m.volu u) ∧
    s.m.AsksDefinition (.takeover v) t) ∧
  (∀ (s : State) (h : FrameHdr) (v : Vid) (e n : Nat) (mi ow mv : Bool) (st : Fin 32), s.m.ExpectsCtrl h → (s.m.volu v).mirrored = true →
    mi = true → (s.m.volu v).fence < e → (s.m.volu v).mapValid = false → (s.m.volu v).pendFence = none → s.m.q.used = [] →
    s.m.regionBound v = false → Completes (.volstate h v e mi ow mv st n) s fun t =>
    t.volu v = { s.m.volu v with pendFence := some (e, false, if ow then .resyncing else .stale) } ∧
    (∀ u, u ≠ v → t.volu u = s.m.volu u)) ∧
  (∀ (s : State) (h : FrameHdr) (v : Vid) (e n : Nat) (mi ow mv : Bool) (st : Fin 32), s.m.ExpectsCtrl h → (s.m.volu v).mirrored = true →
    (s.m.volu v).owner = false → mi = true → e < (s.m.volu v).fence → Completes (.volstate h v e mi ow mv st n) s fun t =>
    t.volu v = { s.m.volu v with twin := .stale } ∧ (∀ u, u ≠ v → t.volu u = s.m.volu u)) ∧
  (∀ (s : State) (h : FrameHdr) (v : Vid) (e n : Nat) (mi ow mv : Bool) (st : Fin 32), s.m.ExpectsCtrl h → (s.m.volu v).mirrored = false →
    mi = false → Completes (.volstate h v e mi ow mv st n) s fun t => s.m.AcceptsCtrl h t) ∧
  (∀ (s : State) (h : FrameHdr) (v : Vid) (a r : Nat) (ds : List Nat), s.m.ExpectsCtrl h → (s.m.volu v).mirrored = true →
    (s.m.volu v).owner = true → (s.m.volu v).twin ≠ .inSync → r ∈ ds → a + r < (s.m.volu v).regions.length → Completes (.rsmap h v a ds) s
    fun t => a + r ∈ (t.volu v).dirty ∧ ∀ u, u ≠ v → t.volu u = s.m.volu u) ∧
  (∀ (s : State) (h : FrameHdr) (v : Vid) (a : Nat) (ds : List Nat), s.m.ExpectsCtrl h →
    (s.m.volu v).mirrored = false ∨ (s.m.volu v).owner = false → Completes (.rsmap h v a ds) s fun t => s.m.AcceptsCtrl h t) ∧
  (∀ (s : State) (v : Vid) (w : TwinWait), (s.m.volu v).twin = .handover → (s.m.volu v).pendFence = none → s.m.twn.wait = [w] →
    w.vol = v → w.op = 4 → s.m.Calm → Completes (.handoverTimeout v) s fun t =>
    t.twn = { s.m.twn with wait := [] } ∧ s.m.Replies w.port St.twinUnavailable [] t ∧ s.m.SameBut [.twn, .out] t) ∧
  (∀ (s : State) (v : Vid), (s.m.volu v).twin ≠ .handover → s.m.Calm → Completes (.handoverTimeout v) s fun t => t = s.m)

/-! ### Lamp regions and the Lantern -/

/-- LAMP_REGION_SET (R149, R150, R153, Tables 07.1 and 07.2). A DEFINE that no condition of Table 07.2 refuses asks for the DEFINITION record whose
durability brings the region about; a DELETE of a region whose pages are all dark or tainted asks for the record that ends it; SET_LOT acts at
once. A DEFINE of a defined region or of a bad range, of a volume that is not READY, or beyond its end, and a DELETE or a SET_LOT of no region, are
refused. Commands of neither port (R159, R165). The oldest touch light runs as a LIGHT of one page, and at or above LMP_AUTOWB the next dirty MU of the scan as a
PERSIST of four LBs: each takes the lowest free slot and its range lock, and is admitted at once where nothing excludes it. With no touch light, with
LMP_AUTOWB at 0 or above the level, nothing happens. -/
def Obligations.LampRegionsAndOwnCommands : Prop :=
  (∀ (s : State) (p : Port) (k : Fin 4) (lot : Bool) (v : Vid) (base size : Nat), s.m.Serves p → s.m.defineRefusal k v base size = none →
    Completes (.define p 24 k lot v base size) s fun t =>
    s.m.AsksDefinition (.region p k { defined := true, lot := lot, vol := v, base := base, size := size, desc := s.m.placedEnd }) t ∧
    s.m.SameBut [.hdl] t) ∧
  (∀ (s : State) (p : Port) (k : Fin 4) (lot : Bool) (v : Vid) (base size : Nat), s.m.Serves p →
    (s.m.regionNow k).defined = true ∨ base % 512 ≠ 0 ∨ size = 0 ∨ size % 2 ^ 21 ≠ 0 ∨ 2 ^ 46 < size →
    Completes (.define p 24 k lot v base size) s fun t => s.m.Replies p St.invalidField [] t ∧ s.m.SameBut [.out] t) ∧
  (∀ (s : State) (p : Port) (k : Fin 4) (lot : Bool) (v : Vid) (base size : Nat), s.m.Serves p → (s.m.regionNow k).defined = false →
    base % 512 = 0 → size ≠ 0 → size % 2 ^ 21 = 0 → size ≤ 2 ^ 46 → (s.m.volu v).st ≠ .ready ∨ (s.m.volu v).size < base + size / 4096 →
    Completes (.define p 24 k lot v base size) s fun t =>
    s.m.Replies p (if (s.m.volu v).st = .ready then St.lbaRange else St.volumeNotReady) [] t ∧ s.m.SameBut [.out] t) ∧
  (∀ (s : State) (p : Port) (k : Fin 4), s.m.Serves p → (s.m.regionNow k).defined = true → s.m.regionBusy k = false →
    Completes (.delete p 24 k) s fun t => s.m.AsksDefinition (.region p k {}) t ∧ s.m.SameBut [.hdl] t) ∧
  (∀ (s : State) (p : Port) (k : Fin 4), s.m.Serves p → (s.m.regionNow k).defined = false ∨ s.m.regionBusy k = true →
    Completes (.delete p 24 k) s fun t => s.m.Replies p St.invalidField [] t ∧ s.m.SameBut [.out] t) ∧
  (∀ (s : State) (p : Port) (k : Fin 4) (lot : Bool), s.m.Serves p → (s.m.region k).defined = true → Completes (.setLot p 24 k lot) s
    fun t =>
    t.region k = { s.m.region k with lot := lot } ∧ (∀ j : Nat, j ≠ k → t.region j = s.m.region j) ∧ s.m.Replies p St.success [] t ∧
    t.lamp = { s.m.lamp with reg := t.lamp.reg } ∧ s.m.RegsSame [] t ∧ s.m.SameBut [.lamp, .reg, .out] t) ∧
  (∀ (s : State) (p : Port) (k : Fin 4) (lot : Bool), s.m.Serves p → (s.m.region k).defined = false → Completes (.setLot p 24 k lot) s
    fun t => s.m.Replies p St.invalidField [] t ∧ s.m.SameBut [.out] t) ∧
  (∀ (s : State) (t0 : Nat × Nat) (ts : List (Nat × Nat)) (c : Cmd), s.m.lamp.touch = t0 :: ts → s.m.ownEntry = true →
    c = { kind := .touch
          entry := mkEntry opLight (s.m.region (t0.1 / 2 ^ 26)).vol ((s.m.region (t0.1 / 2 ^ 26)).base + 512 * (t0.1 % 2 ^ 26) + t0.2) 0
          todo := [0] } →
    (∀ j ∈ s.m.locks, conflicts (s.m.cmd j) c = false) → Completes .touchLightRun s fun t =>
    t.cmd s.m.lowSlot = { c with locked := true, seq := s.m.q.rlkSeq, stage := .admitted } ∧
    (∀ j, j ≠ s.m.lowSlot → t.cmd j = s.m.cmd j) ∧ t.q.used = insertNat s.m.lowSlot s.m.q.used ∧
    t.lamp = { s.m.lamp with touch := ts } ∧ s.m.SameBut [.q, .reg, .lamp] t) ∧
  (∀ s : State, s.m.lamp.touch = [] ∨ s.m.ownEntry = false → Completes .touchLightRun s fun t => t = s.m) ∧
  (∀ (s : State) (f key mu : Nat) (c : Cmd), s.m.rdN Reg.LMP_AUTOWB ≠ 0 → s.m.rdN Reg.LMP_AUTOWB ≤ s.m.dirtyLit →
    s.m.running .lmp = true → s.m.ownEntry = true → s.m.scanNext = some (f, key, mu) →
    c = { kind := .autowb
          entry := mkEntry opPersist (s.m.region (key / 2 ^ 26)).vol ((s.m.region (key / 2 ^ 26)).base + 512 * (key % 2 ^ 26) + 4 * mu) 3 } →
    (∀ j ∈ s.m.locks, conflicts (s.m.cmd j) c = false) → Completes .autoWriteback s fun t =>
    t.cmd s.m.lowSlot = { c with locked := true, seq := s.m.q.rlkSeq, stage := .admitted } ∧
    (∀ j, j ≠ s.m.lowSlot → t.cmd j = s.m.cmd j) ∧ t.q.used = insertNat s.m.lowSlot s.m.q.used ∧
    t.lamp = { s.m.lamp with scan := f } ∧ s.m.SameBut [.q, .reg, .lamp] t) ∧
  (∀ s : State, s.m.rdN Reg.LMP_AUTOWB = 0 ∨ s.m.dirtyLit < s.m.rdN Reg.LMP_AUTOWB → Completes .autoWriteback s fun t => t = s.m)

/-- The Lantern (R168 to R172). The return of the oldest descriptor fetch serves its requests, and a read of a lit page answers its line; a
write-back leaves an evicted entry INVALID, or DIRTY where it was written meanwhile, and while FLUSHING leaves a dirty one CLEAN; an entry whose
error count is 4 goes OFF; LNT_CTRL.EN disables through FLUSHING and enables an empty Lantern; the flush ends in DISABLED, or ENABLED where EN was set again. -/
def Obligations.Lantern : Prop :=
  (∀ (s : State) (p : Port) (dpa f key : Nat) (e : MemErr) (a : LampAddr), s.m.lamp.fetches = [{ tag := key, reqs := [.rd p dpa .clean] }] →
    s.m.lamp.late = [] → s.m.lamp.capHeld = [] → e ≠ .descLost → s.m.lampOpen = true → s.m.lampAddr dpa = some a → key = descKey a.region a.block →
    ((s.m.desc key).state a.page).isLit = true → (s.m.desc key).frame = some f → lineKey f a.page a.line ∉ s.m.lamp.lost →
    Completes (.lanternFetchReturn e) s fun t =>
    s.m.Sent [.memData p (SMap.get 0 s.m.lamp.line (lineKey f a.page a.line)) false] t ∧ t.lamp.fetches = [] ∧
    (t.port.get p).inflight = (s.m.port.get p).inflight - 1 ∧ (∀ k, t.desc k = s.m.desc k) ∧ t.lamp.line = s.m.lamp.line ∧
    s.m.RegsSame [] t ∧ s.m.SameBut [.lamp, .port, .out, .reg] t) ∧
  (∀ (s : State) (e : MemErr), s.m.lamp.fetches = [] → Completes (.lanternFetchReturn e) s fun t => t = s.m) ∧
  (∀ (s : State) (i : Fin 64), (s.m.lnt i).st = .evicting → (s.m.lnt i).redirty = false → Completes (.lanternWritebackDone i) s fun t =>
    t.lnt i = { s.m.lnt i with st := .invalid, tag := 0 } ∧ (∀ j : Nat, j ≠ i → t.lnt j = s.m.lnt j) ∧
    t.lamp = { s.m.lamp with lnt := t.lamp.lnt } ∧ s.m.RegsSame [] t ∧ s.m.SameBut [.lamp, .reg] t) ∧
  (∀ (s : State) (i : Fin 64), (s.m.lnt i).st = .evicting → (s.m.lnt i).redirty = true → Completes (.lanternWritebackDone i) s fun t =>
    t.lnt i = { s.m.lnt i with st := .dirty, redirty := false } ∧ (∀ j : Nat, j ≠ i → t.lnt j = s.m.lnt j) ∧
    t.lamp = { s.m.lamp with lnt := t.lamp.lnt, victim := t.lamp.victim } ∧
    t.rdN Reg.LNT_REDIRTY = min 0xFFFFFFFF (s.m.rdN Reg.LNT_REDIRTY + 1) ∧ s.m.RegsSame [Reg.LNT_REDIRTY] t ∧
    s.m.SameBut [.lamp, .reg] t) ∧
  (∀ (s : State) (i : Fin 64), (s.m.lnt i).st = .dirty → s.m.lamp.mode = .flushing → Completes (.lanternWritebackDone i) s fun t =>
    t.lnt i = { s.m.lnt i with st := .clean } ∧ (∀ j : Nat, j ≠ i → t.lnt j = s.m.lnt j) ∧
    t.lamp = { s.m.lamp with lnt := t.lamp.lnt } ∧ s.m.RegsSame [] t ∧ s.m.SameBut [.lamp, .reg] t) ∧
  (∀ (s : State) (i : Fin 64), (s.m.lnt i).st = .invalid ∨ (s.m.lnt i).st = .clean ∨ ((s.m.lnt i).st = .dirty ∧ s.m.lamp.mode ≠ .flushing) →
    Completes (.lanternWritebackDone i) s fun t => t = s.m) ∧
  (∀ (s : State) (i : Fin 64), 4 ≤ (s.m.lnt i).err → (s.m.lnt i).off = false → Completes (.lanternEntryOff i) s fun t =>
    t.lnt i = { s.m.lnt i with off := true, st := .invalid, redirty := false, tag := 0 } ∧
    (∀ j : Nat, j ≠ i → t.lnt j = s.m.lnt j) ∧ t.lamp = { s.m.lamp with lnt := t.lamp.lnt } ∧ s.m.RegsSame [] t ∧
    s.m.SameBut [.lamp, .reg] t) ∧
  (∀ (s : State) (i : Fin 64), (s.m.lnt i).err < 4 ∨ (s.m.lnt i).off = true → Completes (.lanternEntryOff i) s fun t => t = s.m) ∧
  (∀ (s : State) (en : Bool), s.m.pageSt .lnt ≠ .off → s.m.pageSt .lnt ≠ .running → Completes (.lntCtrlEnWrite .mgmt en) s fun t =>
    t.rd Reg.LNT_CTRL = (if en then 1 else 0) ∧ s.m.RegsSame [Reg.LNT_CTRL] t ∧ s.m.SameBut [.reg] t) ∧
  (∀ s : State, s.m.pageSt .lnt = .running → s.m.lamp.mode = .enabled → Completes (.lntCtrlEnWrite .mgmt false) s fun t =>
    t.rd Reg.LNT_CTRL = 0 ∧ t.lamp = { s.m.lamp with mode := .flushing, enPend := false } ∧ s.m.RegsSame [Reg.LNT_CTRL] t ∧
    s.m.SameBut [.reg, .lamp] t) ∧
  (∀ s : State, s.m.pageSt .lnt = .running → s.m.lamp.mode = .flushing → Completes (.lntCtrlEnWrite .mgmt true) s fun t =>
    t.rd Reg.LNT_CTRL = 1 ∧ t.lamp = { s.m.lamp with enPend := true } ∧ s.m.RegsSame [Reg.LNT_CTRL] t ∧ s.m.SameBut [.reg, .lamp] t) ∧
  (∀ s : State, s.m.pageSt .lnt = .running → s.m.lamp.mode = .disabled → Completes (.lntCtrlEnWrite .mgmt true) s fun t =>
    t.rd Reg.LNT_CTRL = 1 ∧ t.lamp = { s.m.lamp with mode := .enabled, lnt := t.lamp.lnt } ∧ (∀ e ∈ t.lamp.lnt, e.2.st = .invalid) ∧
    s.m.RegsSame [Reg.LNT_CTRL] t ∧ s.m.SameBut [.reg, .lamp] t) ∧
  (∀ (s : State) (h : Port) (en : Bool), Completes (.lntCtrlEnWrite h.agent en) s fun t =>
    t.rdN (portReg h Reg.PORT_WDROP) = min 0xFFFFFFFF (s.m.rdN (portReg h Reg.PORT_WDROP) + 1) ∧
    s.m.RegsSame [portReg h Reg.PORT_WDROP] t ∧ s.m.SameBut [.reg] t) ∧
  (∀ s : State, s.m.lamp.mode = .flushing → Completes .lanternFlushEnd s fun t =>
    t.lamp = { s.m.lamp with
      mode := if s.m.lamp.enPend && s.m.running .lnt then .enabled else .disabled, enPend := false, lnt := t.lamp.lnt } ∧
    (∀ e ∈ t.lamp.lnt, e.2.st = .invalid) ∧ s.m.RegsSame [] t ∧ s.m.SameBut [.reg, .lamp] t) ∧
  (∀ s : State, s.m.lamp.mode ≠ .flushing → Completes .lanternFlushEnd s fun t => t = s.m)

/-! ### The command aperture -/

/-- The aperture (R31, R189 to R192, R196). The unlock sequence is 0xAA at APT_UNLOCK1, 0x55 at APT_UNLOCK2, then a code; a write that is no part of it breaks
it, counted in FCH_SEQERR. The parameter block and the staging window take aligned 32-bit writes; one outside them is dropped and counted in FCH_APTDROP. An
aperture that does not answer drops the write, counted in PORT_B2DROP of the port. -/
def Obligations.ApertureWrites : Prop :=
  (∀ (s : State) (a : Agent) (d : Die), s.m.aptOpen a d = true → (s.m.fl.seq.get a).st = .idle → Completes (.aptUnlock1Write a d 0xAA) s
    fun t => t.fl = { s.m.fl with seq := s.m.fl.seq.set a { st := .u1, die := d } } ∧ s.m.SameBut [.fl] t) ∧
  (∀ (s : State) (a : Agent) (d : Die), s.m.aptOpen a d = true → s.m.fl.seq.get a = { st := .u1, die := d } →
    Completes (.aptUnlock2Write a d 0x55) s fun t =>
    t.fl = { s.m.fl with seq := s.m.fl.seq.set a { st := .u2, die := d } } ∧ s.m.SameBut [.fl] t) ∧
  (∀ (s : State) (a : Agent) (d : Die) (v : BitVec 16), s.m.aptOpen a d = true → (s.m.fl.seq.get a).st = .u1 → v ≠ 0x55 →
    Completes (.aptUnlock2Write a d v) s fun t =>
    t.fl = { s.m.fl with seq := s.m.fl.seq.set a { st := .idle, die := 0 } } ∧
    t.rdN (fchReg (dieChan d) Reg.FCH_SEQERR) = min 0xFFFFFFFF (s.m.rdN (fchReg (dieChan d) Reg.FCH_SEQERR) + 1) ∧
    s.m.SameBut [.fl, .reg, .pff, .adm, .alm] t) ∧
  (∀ (s : State) (a : Agent) (d : Die) (v : BitVec 16), s.m.aptOpen a d = true → (s.m.fl.seq.get a).st = .idle →
    Completes (.aptUnlock2Write a d v) s fun t => t = s.m) ∧
  (∀ (s : State) (a : Agent) (d : Die) (v : BitVec 16), s.m.aptOpen a d = true → (s.m.fl.seq.get a).st = .u1 →
    Completes (.aptUnlock1Write a d v) s fun t =>
    t.fl = { s.m.fl with seq := s.m.fl.seq.set a (if v = 0xAA then { st := .u1, die := d } else { st := .idle, die := 0 }) } ∧
    t.rdN (fchReg (dieChan d) Reg.FCH_SEQERR) = min 0xFFFFFFFF (s.m.rdN (fchReg (dieChan d) Reg.FCH_SEQERR) + 1) ∧
    s.m.SameBut [.fl, .reg, .pff, .adm, .alm] t) ∧
  (∀ (s : State) (a : Agent) (d : Die) (off : Nat) (v : Word), s.m.aptOpen a d = true → (s.m.fl.seq.get a).st = .idle → 0x2000 ≤ off →
    off < 0x2100 → off % 4 = 0 → Completes (.parameterBlockWrite a d off v) s fun t =>
    t.par a off = v &&& parMask off ∧ (∀ b k, b ≠ a ∨ k ≠ off → t.par b k = s.m.par b k) ∧ t.fl = { s.m.fl with par := t.fl.par } ∧
    s.m.SameBut [.fl] t) ∧
  (∀ (s : State) (a : Agent) (d : Die) (off : Nat) (v : Word), s.m.aptOpen a d = true → (s.m.fl.seq.get a).st = .idle → 0x8000 ≤ off →
    off < 0xC800 → off % 4 = 0 → Completes (.aptStageWrite a d off v) s fun t =>
    SMap.get 0 (if s.m.par a 0x2008 = 0 then (t.chn (dieChan d)).stage0 else (t.chn (dieChan d)).stage1) (off - 0x8000) = v ∧
    (∀ c, c ≠ dieChan d → t.chn c = s.m.chn c) ∧ t.fl = { s.m.fl with ch := t.fl.ch } ∧ s.m.SameBut [.fl] t) ∧
  (∀ (s : State) (a : Agent) (d : Die) (off : Nat) (v : Word) (c : Instr), s.m.aptOpen a d = true → (s.m.fl.seq.get a).st = .idle →
    (c = .parameterBlockWrite a d off v ∧ (off < 0x2000 ∨ 0x2100 ≤ off ∨ off % 4 ≠ 0)) ∨
      (c = .aptStageWrite a d off v ∧ (off < 0x8000 ∨ 0xC800 ≤ off ∨ off % 4 ≠ 0)) → Completes c s fun t =>
    t.rdN (fchReg (dieChan d) Reg.FCH_APTDROP) = min 0xFFFFFFFF (s.m.rdN (fchReg (dieChan d) Reg.FCH_APTDROP) + 1) ∧
    s.m.RegsSame [fchReg (dieChan d) Reg.FCH_APTDROP] t ∧ s.m.SameBut [.reg] t) ∧
  (∀ (s : State) (h : Port) (d : Die) (off : Nat) (v : BitVec 16) (w : Word) (c : Instr), s.m.aptOpen h.agent d = false →
    c = .aptUnlock1Write h.agent d v ∨ c = .aptUnlock2Write h.agent d v ∨ c = .parameterBlockWrite h.agent d off w ∨
      c = .aptStageWrite h.agent d off w ∨ c = .readPage h.agent d ∨ c = .eraseBlock h.agent d → Completes c s fun t =>
    t.rdN (portReg h Reg.PORT_B2DROP) = min 0xFFFFFFFF (s.m.rdN (portReg h Reg.PORT_B2DROP) + 1) ∧
    s.m.RegsSame [portReg h Reg.PORT_B2DROP] t ∧ s.m.SameBut [.reg] t)

/-- The codes of Table 08.7 (R192 to R194, R201), after the two unlock writes of the same agent at the same die. A code that nothing refuses is queued for its die
with the parameters in effect and shows IN_PROGRESS; SUSPEND, SET_RETRY_STEP and RESET_DIE act at once and show DONE; a read of the block being erased, where
PFF4 has room, is answered at once with ERASE_PENDING. A refused code shows its status and queues nothing, and one that is not in the table shows BADCMD. -/
def Obligations.ApertureCodes : Prop :=
  (∀ (s : State) (a : Agent) (d : Die) (c : Instr) (code : Nat), s.m.aptOpen a d = true → s.m.fl.seq.get a = { st := .u2, die := d } →
    (c, code) ∈ [(Instr.readPage a d, codeRead), (.readPageCache a d, codeReadCache), (.programPage a d, codeProgram),
      (.programNested a d, codeNested), (.eraseBlock a d, codeErase), (.resume a d, codeResume), (.aptSetFeature a d, codeSetFeature),
      (.aptGetFeature a d, codeGetFeature), (.readId a d, codeReadId), (.readParameterPage a d, codeParam)] →
    s.m.aptRefusal a d code (s.m.parNow a) = none →
    ¬ ((code = codeRead ∨ code = codeReadCache) ∧ ((s.m.eraseOp d).any fun e => readsErased e (s.m.opBlock e) (s.m.parNow a)) = true) →
    Completes c s fun t =>
    t.fl.ops = s.m.fl.ops ++ [{ id := s.m.fl.nextOp, ch := dieChan d, row := Fin.ofNat 64 d.val, req := .svc a
                                kind := .svc code (s.m.parNow a), issued := false, rank0 := false, waited := false, stalled := false }] ∧
    t.die d = { s.m.die d with code := (s.m.die d).code.set a aptInProgress, opc := (s.m.die d).opc.set a code } ∧
    (∀ j : Nat, j ≠ d → t.die j = s.m.die j) ∧ t.fl.seq.get a = { st := .idle, die := 0 } ∧ s.m.SameBut [.fl] t) ∧
  (∀ (s : State) (a : Agent) (d : Die) (b : Nat), s.m.aptOpen a d = true → s.m.fl.seq.get a = { st := .u2, die := d } →
    s.m.aptRefusal a d codeSuspend (s.m.parNow a) = none → (s.m.die d).erun = some b → Completes (.suspend a d) s fun t =>
    (t.die d).code.get a = aptDone ∧ (t.die d).opc.get a = codeSuspend ∧ t.free = s.m.free + 1 ∧
    (Config.eraseEnded s.m.free = false →
      (t.die d).erun = none ∧ (t.die d).esusp = some b ∧ (t.die d).suspends = (s.m.die d).suspends + 1 ∧ t.fl.ops = s.m.fl.ops ∧
      (∀ j : Nat, j ≠ d → t.die j = s.m.die j) ∧ s.m.SameBut [.fl, .reg, .hdl, .free] t) ∧
    (Config.eraseEnded s.m.free = true → (s.m.eraseOp d).isSome = true →
      (t.die d).erun = none ∧ (t.die d).esusp = none ∧ (t.die d).suspends = 0)) ∧
  (∀ (s : State) (a : Agent) (d : Die), s.m.aptOpen a d = true → s.m.fl.seq.get a = { st := .u2, die := d } →
    s.m.aptRefusal a d codeRetry (s.m.parNow a) = none → Completes (.setRetryStep a d) s fun t =>
    t.die d = { s.m.die d with
      retry := (s.m.die d).retry.set a (s.m.parNow a).step, code := (s.m.die d).code.set a aptDone
      opc := (s.m.die d).opc.set a codeRetry } ∧
    (∀ j : Nat, j ≠ d → t.die j = s.m.die j) ∧ t.fl.ops = s.m.fl.ops ∧ s.m.SameBut [.fl] t) ∧
  (∀ (s : State) (a : Agent) (d : Die), s.m.aptOpen a d = true → s.m.fl.seq.get a = { st := .u2, die := d } →
    s.m.aptRefusal a d codeReset (s.m.parNow a) = none → s.m.eraseOp d = none → Completes (.resetDie a d) s fun t =>
    t.die d = { s.m.die d with
      erun := none, esusp := none, suspends := 0, inInterval := false, cache := none, code := (s.m.die d).code.set a aptDone
      opc := (s.m.die d).opc.set a codeReset } ∧
    (∀ j : Nat, j ≠ d → t.die j = s.m.die j) ∧ t.fl.ops = s.m.fl.ops ∧ s.m.SameBut [.fl] t) ∧
  (∀ (s : State) (a : Agent) (d : Die), s.m.aptOpen a d = true → s.m.fl.seq.get a = { st := .u2, die := d } →
    s.m.aptRefusal a d codeRead (s.m.parNow a) = none →
    ((s.m.eraseOp d).any fun e => readsErased e (s.m.opBlock e) (s.m.parNow a)) = true →
    (s.m.parNow a).len / 4 ≤ s.m.pffFree 4 → s.m.running (.pff 4) = true → (∀ o ∈ s.m.fl.ops, o.id < s.m.fl.nextOp) →
    s.m.fl.xfers = [] → Completes (.readPage a d) s fun t =>
    (t.die d).code.get a = aptErasePending ∧ (t.die d).opc.get a = codeRead ∧ t.free = s.m.free + 1 ∧
    t.rdN (fchReg (dieChan d) Reg.FCH_EPEND) = min 0xFFFFFFFF (s.m.rdN (fchReg (dieChan d) Reg.FCH_EPEND) + 1)) ∧
  (∀ (s : State) (a : Agent) (d : Die) (c : Instr) (code st : Nat), s.m.aptOpen a d = true → s.m.fl.seq.get a = { st := .u2, die := d } →
    (c, code) ∈ [(Instr.readPage a d, codeRead), (.readPageCache a d, codeReadCache), (.programPage a d, codeProgram),
      (.programNested a d, codeNested), (.eraseBlock a d, codeErase), (.suspend a d, codeSuspend), (.resume a d, codeResume),
      (.aptSetFeature a d, codeSetFeature), (.aptGetFeature a d, codeGetFeature), (.setRetryStep a d, codeRetry), (.readId a d, codeReadId),
      (.readParameterPage a d, codeParam), (.resetDie a d, codeReset)] →
    s.m.aptRefusal a d code (s.m.parNow a) = some st → Completes c s fun t =>
    t.die d = { s.m.die d with code := (s.m.die d).code.set a st, opc := (s.m.die d).opc.set a code } ∧
    (∀ j : Nat, j ≠ d → t.die j = s.m.die j) ∧ t.fl.ops = s.m.fl.ops ∧ s.m.SameBut [.fl, .reg] t) ∧
  (∀ (s : State) (a : Agent) (d : Die) (code : Byte), s.m.aptOpen a d = true → s.m.fl.seq.get a = { st := .u2, die := d } →
    code.toNat ∉ aptCodes → (∀ o ∈ s.m.fl.ops, ¬ (o.kind.isSvc = true ∧ o.dieIx = d.val)) → Completes (.aptBadcmd a d code) s fun t =>
    t.die d = { s.m.die d with code := (s.m.die d).code.set a aptBadCmd, opc := (s.m.die d).opc.set a code.toNat } ∧
    (∀ j : Nat, j ≠ d → t.die j = s.m.die j) ∧ t.fl.ops = s.m.fl.ops ∧ s.m.SameBut [.fl] t)

/-! ### The channel engines -/

/-- Issue and completion (R186 to R188, R193, R196, R204, R207, R208, Table 08.13). The operation that a channel considers first goes to its die where its tokens fit; one
whose tokens do not fit waits, counted once in FCH_TOKWAIT; a service program or erase of a protected sector ends with WP. The end of an
operation frees its die: a headland page is no longer in flight, SET_FEATURE has its value in effect, and one past its time limit shows TIMEOUT. -/
def Obligations.ChannelOperations : Prop :=
  (∀ (s : State) (c : Chan), s.m.nextOp c = none → Completes (.operationIssue c) s fun t => t = s.m) ∧
  (∀ (s : State) (c : Chan) (o : Op) (k : Nat), s.m.nextOp c = some o → o.kind = .readCw k → s.m.tokensFit c 2 = true →
    Completes (.operationIssue c) s fun t =>
    (t.die o.dieIx).op = some o.id ∧ (∀ j, j ≠ o.dieIx → t.die j = s.m.die j) ∧
    t.fl.ops = s.m.fl.ops.map (fun x => if x.id == o.id then { o with issued := true } else x) ∧
    t.rd64 (fchReg o.ch Reg.FCH_OPS_LO) = s.m.rd64 (fchReg o.ch Reg.FCH_OPS_LO) + 1 ∧ s.m.RegsBut [] t ∧ s.m.SameBut [.fl, .reg, .hdl] t) ∧
  (∀ (s : State) (c : Chan) (o : Op) (b : Nat) (sys : Bool), s.m.nextOp c = some o → o.kind = .erase b sys → s.m.wpHit o = false →
    s.m.tokensFit c 5 = true → Completes (.operationIssue c) s fun t =>
    (t.die o.dieIx).erun = some b ∧ (t.die o.dieIx).esusp = none ∧ (∀ j, j ≠ o.dieIx → t.die j = s.m.die j) ∧
    t.fl.ops = s.m.fl.ops.map (fun x => if x.id == o.id then { o with issued := true } else x) ∧ s.m.RegsBut [] t ∧
    s.m.SameBut [.fl, .reg] t) ∧
  (∀ (s : State) (c : Chan) (o : Op), s.m.nextOp c = some o → s.m.wpHit o = false → s.m.tokensFit c o.kind.tokens = false →
    o.waited = false → Completes (.operationIssue c) s fun t =>
    t.fl.ops = s.m.fl.ops.map (fun x => if x.id == o.id then { o with waited := true } else x) ∧
    t.rdN (fchReg c Reg.FCH_TOKWAIT) = min 0xFFFFFFFF (s.m.rdN (fchReg c Reg.FCH_TOKWAIT) + 1) ∧
    s.m.RegsSame [fchReg c Reg.FCH_TOKWAIT] t ∧ s.m.SameBut [.fl, .reg] t) ∧
  (∀ (s : State) (c : Chan) (o : Op) (a : Agent) (code : Nat) (x : Apt), s.m.nextOp c = some o → o.kind = .svc code x → o.req = .svc a →
    s.m.wpHit o = true → Completes (.operationIssue c) s fun t =>
    (t.die o.dieIx).code.get a = aptWp ∧ (∀ y ∈ t.fl.ops, y.id ≠ o.id) ∧ t.fl.cw = s.m.fl.cw ∧
    t.rdN Reg.WPT_REFUSED = min 0xFFFFFFFF (s.m.rdN Reg.WPT_REFUSED + 1)) ∧
  (∀ (s : State) (c : Chan) (r : Row) (x : OpOutcome), s.m.polled (dieOf c r.val) = none → Completes (.completionDetection c r x) s fun t =>
    t = s.m) ∧
  (∀ (s : State) (c : Chan) (r : Row) (o : Op) (k : Nat) (n : Bool) (h : HardDecode) (q : CwCheck), s.m.polled (dieOf c r.val) = some o →
    o.kind = .headland k n → Completes (.completionDetection c r (.pass h q)) s fun t =>
    (t.die o.dieIx).op = none ∧ (∀ j, j ≠ o.dieIx → t.die j = s.m.die j) ∧ t.fl.ops = s.m.fl.ops.filter (fun x => x.id != o.id) ∧
    (∀ x ∈ t.hdl.log, x.id = k → x.flying = false) ∧ s.m.SameBut [.fl, .hdl] t) ∧
  (∀ (s : State) (c : Chan) (r : Row) (o : Op) (a : Agent) (x : Apt) (h : HardDecode) (q : CwCheck),
    s.m.polled (dieOf c r.val) = some o → o.kind = .svc codeSetFeature x → o.req = .svc a → (s.m.die o.dieIx).op = some o.id →
    Completes (.completionDetection c r (.pass h q)) s fun t =>
    t.die o.dieIx = { s.m.die o.dieIx with
      op := none, feat := SMap.put (s.m.die o.dieIx).feat x.fa x.fval, code := (s.m.die o.dieIx).code.set a aptDone
      opc := (s.m.die o.dieIx).opc.set a codeSetFeature } ∧
    t.fl.ops = s.m.fl.ops.filter (fun y => y.id != o.id) ∧ s.m.SameBut [.fl] t) ∧
  (∀ (s : State) (c : Chan) (r : Row) (o : Op) (a : Agent) (code : Nat) (x : Apt), s.m.polled (dieOf c r.val) = some o →
    o.kind = .svc code x → o.req = .svc a → code ≠ codeErase → Completes (.operationTimeout c r) s fun t =>
    (t.die o.dieIx).code.get a = aptTimeout ∧ (∀ y ∈ t.fl.ops, y.id ≠ o.id) ∧
    t.rdN (fchReg c Reg.FCH_OPTIMEOUT) = min 0xFFFFFFFF (s.m.rdN (fchReg c Reg.FCH_OPTIMEOUT) + 1)) ∧
  (∀ (s : State) (c : Chan) (r : Row), s.m.polled (dieOf c r.val) = none → Completes (.operationTimeout c r) s fun t => t = s.m) ∧
  (∀ (s : State) (c : Chan) (r : Row), Completes (.svcWaitExpiry c r) s fun t =>
    t.fl = { s.m.fl with ops := s.m.fl.ops.map fun o =>
      if o.ch == c && o.row == r && o.kind.isSvc && !o.issued then { o with rank0 := true } else o } ∧ s.m.SameBut [.fl] t) ∧
  (∀ (s : State) (c : Chan) (o : Op) (a : Agent) (code : Nat) (x : Apt), s.m.fl.xfers = [o.id] → s.m.op o.id = some o → o.ch = c →
    o.kind = .svc code x → o.req = .svc a → Completes (.svcTransferTimeout c) s fun t =>
    (t.die o.dieIx).code.get a = aptTimeout ∧ t.fl.ops = s.m.fl.ops.filter (fun y => y.id != o.id) ∧ t.fl.xfers = [] ∧
    (t.hdr (.fch c)).err = (s.m.hdr (.fch c)).err ||| bit32 19 ∧ s.m.SameBut [.fl, .reg, .pff, .adm, .alm] t) ∧
  (∀ (s : State) (c : Chan), (∀ i ∈ s.m.fl.xfers, ∀ o, s.m.op i = some o → o.ch ≠ c) → Completes (.svcTransferTimeout c) s fun t => t = s.m)

/-- The scheduler (R197 to R200) and write protection (R205). A running erase that a read of its die wants is suspended where the allowance and the floor of
fallow furrows let it be; a suspended erase that nothing holds is resumed, and its interval begins, which ends at the
interval's time. Protect bits are only ever set, and by management firmware; a port's write is dropped. -/
def Obligations.EraseScheduler : Prop :=
  (∀ (s : State) (c : Chan) (r : Row) (b : Nat), (s.m.die (dieOf c r.val)).erun = some b → s.m.suspendWanted c r = true →
    s.m.suspendOk c (dieOf c r.val) = true → Completes (.schedulerSuspend c r false) s fun t =>
    t.die (dieOf c r.val) = { s.m.die (dieOf c r.val) with
      erun := none, esusp := some b, suspends := (s.m.die (dieOf c r.val)).suspends + 1 } ∧
    (∀ j, j ≠ dieOf c r.val → t.die j = s.m.die j) ∧ t.fl.ops = s.m.fl.ops ∧ s.m.SameBut [.fl, .reg] t) ∧
  (∀ (s : State) (c : Chan) (r : Row) (e : Bool), (s.m.die (dieOf c r.val)).erun = none ∨ s.m.suspendWanted c r = false ∨
    s.m.suspendOk c (dieOf c r.val) = false → Completes (.schedulerSuspend c r e) s fun t => t = s.m) ∧
  (∀ (s : State) (c : Chan) (r : Row) (b : Nat), (s.m.die (dieOf c r.val)).esusp = some b → (s.m.die (dieOf c r.val)).op = none →
    s.m.resumeHeld c r = false → s.m.running (.fch c) = true → s.m.fl.trip = false → s.m.dev.pf = .none → s.m.dev.phase ≠ .done →
    s.m.tokensFit c 5 = true → Completes (.schedulerResume c r) s fun t =>
    t.die (dieOf c r.val) = { s.m.die (dieOf c r.val) with erun := some b, esusp := none, inInterval := true } ∧
    (∀ j, j ≠ dieOf c r.val → t.die j = s.m.die j) ∧ t.fl.ops = s.m.fl.ops ∧ s.m.SameBut [.fl] t) ∧
  (∀ (s : State) (c : Chan) (r : Row), (s.m.die (dieOf c r.val)).esusp = none ∨ s.m.resumeHeld c r = true ∨ s.m.fl.trip = true →
    Completes (.schedulerResume c r) s fun t => t = s.m) ∧
  (∀ (s : State) (c : Chan) (r : Row), Completes (.resumeIntervalEnd c r) s fun t =>
    t.die (dieOf c r.val) = { s.m.die (dieOf c r.val) with inInterval := false } ∧
    (∀ j, j ≠ dieOf c r.val → t.die j = s.m.die j) ∧ t.fl = { s.m.fl with die := t.fl.die } ∧ s.m.SameBut [.fl] t) ∧
  (∀ (s : State) (hi : Bool) (v : Word), Completes (.wptSet .mgmt hi v) s fun t =>
    (t.die (s.m.rdN (bank .mgmt Reg.WPT_DSEL) % 2048)).wp = (s.m.die (s.m.rdN (bank .mgmt Reg.WPT_DSEL) % 2048)).wp |||
      (if hi then v.setWidth 64 <<< 32 else v.setWidth 64) ∧
    (∀ j, j ≠ s.m.rdN (bank .mgmt Reg.WPT_DSEL) % 2048 → t.die j = s.m.die j) ∧ t.fl = { s.m.fl with die := t.fl.die } ∧ s.m.SameBut [.fl] t) ∧
  (∀ (s : State) (hi : Bool) (v : Word), Completes (.wptAllset .mgmt hi v) s fun t =>
    t.fl = { s.m.fl with wpAll := s.m.fl.wpAll ||| (if hi then v.setWidth 64 <<< 32 else v.setWidth 64) } ∧ s.m.SameBut [.fl] t) ∧
  (∀ (s : State) (h : Port) (hi : Bool) (v : Word) (c : Instr), c = .wptSet h.agent hi v ∨ c = .wptAllset h.agent hi v → Completes c s
    fun t => t.rdN (portReg h Reg.PORT_WDROP) = min 0xFFFFFFFF (s.m.rdN (portReg h Reg.PORT_WDROP) + 1) ∧
    s.m.RegsSame [portReg h Reg.PORT_WDROP] t ∧ s.m.SameBut [.reg] t)

/-! ### Decoding beyond the channel, and placement -/

/-- Soft decode and reconstruction (R218 to R220, R225 to R227). A failed soft decode hands its read to stage 4 with the group and parity that
R226 gives, and asks for the peers; one that was itself the read of a peer leaves that peer erased. A codeword that decodes and passes its
checks fills the missing LB of the version that waits for it; one whose tag fails goes to stage 4; where stage 4 cannot rebuild it, or
rebuilds other bytes than were stored, the read is unrecovered, counted, and its version cannot be completed. While a peer that was asked for is
outstanding, nothing is combined. -/
def Obligations.DecodeBeyondTheChannel : Prop :=
  (∀ (s : State) (task : Nat) (ok : Bool) (k : CwCheck), (∀ x, s.m.task task = some x → x.stage ≠ 3) →
    Completes (.softDecodeDone task ok k) s fun t => t = s.m) ∧
  (∀ (s : State) (task : Nat) (k : CwCheck) (x : RdTask), s.m.task task = some x → x.stage = 3 → task ∈ s.m.fl.softTasks.take 8 →
    x.serves = none → Completes (.softDecodeDone task false k) s fun t =>
    t.task task = some { x with stage := 4, sens := [], grp := (s.m.parityGroup x.addr).map Group.askQ } ∧
    t.fl.softTasks = s.m.fl.softTasks.filter (· != task) ∧
    t.fl.ops.length = s.m.fl.ops.length +
      (((s.m.parityGroup x.addr).map fun g => g.askQ.peers.filter fun p => p.st == .reading).getD []).length ∧
    s.m.SameBut [.fl] t) ∧
  (∀ (s : State) (task own : Nat) (k : CwCheck) (r : PeerRole) (x y : RdTask) (g : Group), s.m.task task = some x → x.stage = 3 →
    task ∈ s.m.fl.softTasks.take 8 → x.serves = some (own, r) → own ≠ task → s.m.task own = some y → y.grp = some g →
    (∀ p ∈ g.peers, p.st ≠ .unasked) → Completes (.softDecodeDone task false k) s fun t =>
    t.task task = none ∧ t.task own = some { y with grp := some (g.settle r none) } ∧ t.fl.ops = s.m.fl.ops ∧ s.m.SameBut [.fl] t) ∧
  (∀ (s : State) (task id lb : Nat) (x : RdTask) (y : Ver), s.m.task task = some x → x.stage = 3 → task ∈ s.m.fl.softTasks.take 8 →
    (s.m.cwAt x.addr).gone = false → s.m.CwGood x → x.who = [.rmw id lb] → s.m.ver id = some y →
    Completes (.softDecodeDone task true .good) s fun t =>
    s.m.FillsLb id lb y (s.m.cwAt x.addr).data t ∧ t.task task = none ∧
    t.rd64 Reg.ECC_SOFT_LO = s.m.rd64 Reg.ECC_SOFT_LO + 1 ∧ s.m.SameBut [.reg, .buf, .fl, .gln, .hdl, .alm] t) ∧
  (∀ (s : State) (task : Nat) (x : RdTask), s.m.task task = some x → x.stage = 3 → task ∈ s.m.fl.softTasks.take 8 →
    (s.m.cwAt x.addr).gone = false → s.m.CwGood x → x.serves = none → Completes (.softDecodeDone task true .badTag) s fun t =>
    (∃ y, t.task task = some y ∧ y.stage = 4 ∧ y.tagRetry = true ∧ y.who = x.who ∧
      y.grp = (s.m.parityGroup x.addr).map Group.askQ) ∧
    t.rdN Reg.CIP_TAGFAIL = min 0xFFFFFFFF (s.m.rdN Reg.CIP_TAGFAIL + 1) ∧ s.m.SameBut [.reg, .fl, .gln, .hdl, .alm] t) ∧
  (∀ (s : State) (task : Nat) (k : CwCheck),
    (∀ x, s.m.task task = some x → x.stage ≠ 4 ∨ ∃ g, x.grp = some g ∧ g.settled = false) →
    Completes (.reconstructionCombine task k) s fun t => t = s.m) ∧
  (∀ (s : State) (task id lb : Nat) (x : RdTask) (g : Group) (y : Ver), s.m.task task = some x → x.stage = 4 → x.grp = some g →
    g.settled = true → g.rebuilt = some (s.m.cwAt x.addr).body → s.m.CwGood x → x.who = [.rmw id lb] → s.m.ver id = some y →
    Completes (.reconstructionCombine task .good) s fun t =>
    s.m.FillsLb id lb y (s.m.cwAt x.addr).data t ∧ t.task task = none ∧
    t.rd64 Reg.ECC_RECON_LO = s.m.rd64 Reg.ECC_RECON_LO + 1 ∧ t.adm.health.recon = (s.m.adm.health.recon + 1) % 2 ^ 64 ∧
    s.m.SameBut [.reg, .adm, .buf, .fl, .gln, .hdl, .alm] t) ∧
  (∀ (s : State) (task id lb : Nat) (k : CwCheck) (x : RdTask) (y : Ver), s.m.task task = some x → x.stage = 4 →
    (x.grp = none ∨ ∃ g, x.grp = some g ∧ g.settled = true ∧ g.rebuilt = none) → x.tagRetry = false → x.who = [.rmw id lb] →
    s.m.ver id = some y → Completes (.reconstructionCombine task k) s fun t =>
    t.ver id = some { y with rmwTodo := y.rmwTodo.filter (· != lb), rmwFail := true } ∧ (∀ j, j ≠ id → t.ver j = s.m.ver j) ∧
    t.task task = none ∧ t.rdN Reg.ECC_UNREC = min 0xFFFFFFFF (s.m.rdN Reg.ECC_UNREC + 1) ∧
    t.adm.health.unrec = (s.m.adm.health.unrec + 1) % 2 ^ 64 ∧ (t.hdr .ecc).err = (s.m.hdr .ecc).err ||| bit32 16 ∧
    s.m.SameBut [.reg, .pff, .adm, .alm, .fl, .buf] t) ∧
  (∀ (s : State) (task id lb : Nat) (k : CwCheck) (x : RdTask) (g : Group) (b : Body) (y : Ver), s.m.task task = some x → x.stage = 4 →
    x.grp = some g → g.settled = true → g.rebuilt = some b → b ≠ (s.m.cwAt x.addr).body → x.tagRetry = false → x.who = [.rmw id lb] →
    s.m.ver id = some y → Completes (.reconstructionCombine task k) s fun t =>
    t.ver id = some { y with rmwTodo := y.rmwTodo.filter (· != lb), rmwFail := true } ∧ t.task task = none ∧
    t.rdN Reg.ECC_MDMISS = min 0xFFFFFFFF (s.m.rdN Reg.ECC_MDMISS + 1) ∧
    t.rdN Reg.ECC_UNREC = min 0xFFFFFFFF (s.m.rdN Reg.ECC_UNREC + 1) ∧ (t.hdr .ecc).err = (s.m.hdr .ecc).err ||| bit32 16)

/-- Sealing, opening and page formation (R238, R240, R242, R245, R246, R288). A version that is due is sealed: complete at once where all its LBs are there, else with a read for
a missing one; it completes, or is held, when those reads have ended. A position with work takes the next FSN and a fallow furrow, unless the replay
window is full, and its pages are programmed on the members in walk order. -/
def Obligations.Placement : Prop :=
  (∀ (s : State) (x : Ver) (c : Instr), s.m.sealAllowed = true → s.m.ver x.id = some x → x.st = .opn → x.mask = 15 → x.lost = 0 →
    x.rmwTodo = [] → x.rmwFail = false →
    c = .versionSealAge x.id ∨
      (c = .bufferHiwatSeal ∧ s.m.atHiwat = true ∧ s.m.buf.vers.find? (fun y => y.st == .opn) = some x) → Completes c s fun t =>
    t.ver x.id = some { x with st := .complete } ∧ t.buf = { s.m.buf with vers := t.buf.vers } ∧ s.m.SameBut [.buf] t) ∧
  (∀ (s : State) (x : Ver) (a : BitVec 40), s.m.sealAllowed = true → s.m.ver x.id = some x → x.st = .opn → x.mask = 14 → x.lost = 0 →
    x.rmwTodo = [] → (∀ y ∈ s.m.buf.vers, y.vol = x.vol → y.mu = x.mu → y.wsn = x.wsn) → s.m.mapSrc x.vol (4 * x.mu) = .flash a →
    (∀ k ∈ s.m.fl.tasks, k.stage ≠ 4) → s.m.chanAway (adrChan a) = false → s.m.addrLost a = false →
    Completes (.versionSealAge x.id) s fun t =>
    t.ver x.id = some { x with st := .sealed, rmwTodo := [0] } ∧
    t.fl.tasks = s.m.fl.tasks ++ [{ id := s.m.fl.nextTask, addr := a, vol := x.vol, lba := 4 * x.mu, stage := 1, tagRetry := false
                                    who := [.rmw x.id 0] }] ∧
    t.fl.ops = s.m.fl.ops ++ [{ id := s.m.fl.nextOp, ch := adrChan a, row := adrRow a, req := .q2, kind := .readCw s.m.fl.nextTask
                                issued := false, rank0 := false, waited := false, stalled := false }] ∧
    t.rd64 Reg.SOW_RMW_LO = s.m.rd64 Reg.SOW_RMW_LO + 1 ∧ s.m.SameBut [.buf, .fl, .reg] t) ∧
  (∀ (s : State) (v : Nat), s.m.sealAllowed = false ∨ s.m.ver v = none → Completes (.versionSealAge v) s fun t => t = s.m) ∧
  (∀ s : State, s.m.atHiwat = false ∨ s.m.sealAllowed = false → Completes .bufferHiwatSeal s fun t => t = s.m) ∧
  (∀ (s : State) (v : Nat) (x : Ver), s.m.ver v = some x → x.st = .sealed → x.rmwTodo = [] → x.rmwFail = false → s.m.Settled →
    Completes (.rmwReadDone v) s fun t =>
    t.ver v = some { x with st := .complete, mask := 15 } ∧ t.buf = { s.m.buf with vers := t.buf.vers } ∧ s.m.SameBut [.buf] t) ∧
  (∀ (s : State) (v : Nat) (x : Ver), s.m.ver v = some x → x.st = .sealed → x.rmwTodo = [] → x.rmwFail = true → s.m.Settled →
    Completes (.rmwReadDone v) s fun t =>
    t.ver v = some { x with st := .held } ∧ t.rdN Reg.SOW_RMWFAIL = min 0xFFFFFFFF (s.m.rdN Reg.SOW_RMWFAIL + 1) ∧
    (t.hdr .sow).err = (s.m.hdr .sow).err ||| bit32 17 ∧ s.m.SameBut [.buf, .reg, .pff, .adm, .alm, .q] t) ∧
  (∀ (s : State) (v : Nat), s.m.Settled → (∀ x, s.m.ver v = some x → x.st ≠ .sealed ∨ x.rmwTodo ≠ []) →
    Completes (.rmwReadDone v) s fun t => t = s.m) ∧
  (∀ (s : State) (pos : Fin 8) (f : Nat), pos ≠ 6 → s.m.sowing = true → s.m.openF pos = none →
    s.m.posHasWork pos (s.m.posLayout pos) = true → s.m.window < s.m.rdN Reg.HDL_WINMAX → s.m.rdN Reg.GLN_EXHTHR < s.m.fallowCount →
    s.m.pickFallow pos = some f → Completes (.furrowOpen pos) s fun t =>
    t.openF pos = some { furrow := f, fsn := s.m.buf.fsn, layout1 := s.m.posLayout pos, absent := s.m.eraseMask, page := 0, walk := 0
                         mask := 0, flying := 0, parityLeft := 0, parityBad := 0, closing := false } ∧
    t.buf.fsn = s.m.buf.fsn + 1 ∧ (t.fur f).st = .opn ∧ (t.fur f).fsn = s.m.buf.fsn ∧ (t.fur f).placed = 0 ∧
    (s.m.hdl.nextRec, .furrowOpen f s.m.buf.fsn pos (s.m.posLayout pos) s.m.eraseMask) ∈ t.hdl.want) ∧
  (∀ (s : State) (pos : Fin 8), pos ≠ 6 → s.m.sowing = true → s.m.openF pos = none → s.m.posHasWork pos (s.m.posLayout pos) = true →
    s.m.rdN Reg.HDL_WINMAX ≤ s.m.window → Completes (.furrowOpen pos) s fun t =>
    t.rdN Reg.HDL_WINHOLD = min 0xFFFFFFFF (s.m.rdN Reg.HDL_WINHOLD + 1) ∧ s.m.RegsSame [Reg.HDL_WINHOLD] t ∧ s.m.SameBut [.reg] t) ∧
  (∀ (s : State) (pos : Fin 8), pos = 6 ∨ s.m.sowing = false ∨ (s.m.openF pos).isSome ∨
    s.m.posHasWork pos (s.m.posLayout pos) = false → Completes (.furrowOpen pos) s fun t => t = s.m) ∧
  (∀ (s : State) (pos : Fin 8) (faulty : List (Fin 4)) (o : OpenF) (c : Chan), s.m.openF pos = some o → o.closing = false →
    o.layout1 = s.m.posLayout pos → s.m.sowing = true → o.parityLeft = 0 → s.m.openRecorded o.fsn = true →
    (dataWalk o.fsn o.layout1 o.absent)[o.walk]? = some c → s.m.chanAway c = false →
    (s.m.nextItems pos o).length = s.m.adm.board.planes → s.m.slotShort (s.m.nextItems pos o) = none →
    Completes (.sowerPageProgram pos faulty) s fun t =>
    t.openF pos = some { o with walk := o.walk + 1, flying := o.flying + 1 } ∧
    (∃ cws, cws.length = 4 * s.m.adm.board.planes ∧
      t.buf.pgms = s.m.buf.pgms ++ [{ id := s.m.buf.nextPgm, pos := pos, furrow := o.furrow, fsn := o.fsn, chan := c, page := o.page
                                      items := s.m.nextItems pos o, cws := cws, parity := false }]) ∧
    t.fl.ops = s.m.fl.ops ++ [{ id := s.m.fl.nextOp, ch := c, row := Fin.ofNat 64 (o.furrow / 4096), req := posReq pos
                                kind := .program s.m.buf.nextPgm, issued := false, rank0 := false, waited := false, stalled := false }] ∧
    s.m.SameBut [.reg, .buf, .fl, .gln, .hdl, .key] t) ∧
  (∀ (s : State) (pos : Fin 8) (faulty : List (Fin 4)) (o : OpenF) (c : Chan) (x : Ver) (k : Nat), s.m.openF pos = some o →
    o.closing = false → o.layout1 = s.m.posLayout pos → s.m.sowing = true → o.parityLeft = 0 → s.m.openRecorded o.fsn = true →
    (dataWalk o.fsn o.layout1 o.absent)[o.walk]? = some c → s.m.chanAway c = false → s.m.adm.board.planes = 1 →
    s.m.nextItems pos o = [.version x.id] → s.m.ver x.id = some x → k = (s.m.volu x.vol).nonceSlot →
    s.m.nonceOk k 4 = true → Completes (.sowerPageProgram pos faulty) s fun t =>
    t.ver x.id = some { x with st := .placed, again := false } ∧ (t.nslot k).nonce = (s.m.nslot k).nonce + 4 ∧
    ∃ draw, t.buf.pgms = s.m.buf.pgms ++ [{
      id := s.m.buf.nextPgm, pos := pos, furrow := o.furrow, fsn := o.fsn, chan := c, page := o.page, items := [.version x.id]
      cws := mkCws { kind := .data, vol := x.vol.val, enc := (s.m.volu x.vol).enc
                     keySlot := if (s.m.volu x.vol).enc then (s.m.volu x.vol).keySlot else 0, epoch := (s.m.nslot k).epoch, lba := 4 * x.mu
                     wsn := x.wsn, nonce := (s.m.nslot k).nonce, fsn := o.fsn } (s.m.cwKey (s.m.volu x.vol)) x.data x.lampwb faulty draw
      parity := false }]) ∧
  (∀ (s : State) (pos : Fin 8) (faulty : List (Fin 4)), s.m.openF pos = none ∨ s.m.sowing = false →
    Completes (.sowerPageProgram pos faulty) s fun t => t = s.m)

/-! ### Limits and the end of a recovery -/

/-- Limits and recoveries (R251, R327, R328, R422, R424). A key slot near the end of its nonces becomes EXHAUSTED, then HALTED, the integrity key's counter EXHAUSTED; at the end of
the sequence numbers every READY volume becomes READ_ONLY; each sets its page's error bit. The end of a recovery applies the updates that waited for it in the order of their
WSNs, or makes the volumes of the segment FAULTED, or, for a table segment, fails the controller. -/
def Obligations.LimitsAndRecoveries : Prop :=
  (∀ (s : State) (k : Nat), (s.m.kslot k).st = .loaded → nonceSoft ≤ (s.m.kslot k).nonce → Completes (.slotExhausted k) s fun t =>
    t.kslot k = { s.m.kslot k with st := .exhausted } ∧ (∀ j, j ≠ k → t.kslot j = s.m.kslot j) ∧
    t.key = { s.m.key with slot := t.key.slot } ∧ (t.hdr .key).err = (s.m.hdr .key).err ||| bit32 16 ∧
    s.m.SameBut [.key, .reg, .pff, .adm, .alm] t) ∧
  (∀ (s : State) (k : Nat), (s.m.kslot k).st ≠ .loaded ∨ (s.m.kslot k).nonce < nonceSoft → Completes (.slotExhausted k) s fun t =>
    t = s.m) ∧
  (∀ (s : State) (k : Nat), (s.m.kslot k).st = .loaded ∨ (s.m.kslot k).st = .exhausted → nonceHard < (s.m.kslot k).nonce + 4 →
    Completes (.slotHalted k) s fun t =>
    t.kslot k = { s.m.kslot k with st := .halted } ∧ (∀ j, j ≠ k → t.kslot j = s.m.kslot j) ∧
    t.key = { s.m.key with slot := t.key.slot } ∧ (t.hdr .key).err = (s.m.hdr .key).err ||| bit32 17 ∧
    s.m.SameBut [.key, .reg, .pff, .adm, .alm] t) ∧
  (∀ (s : State) (k : Nat), (s.m.kslot k).st = .empty ∨ (s.m.kslot k).st = .halted ∨ (s.m.kslot k).nonce + 4 ≤ nonceHard →
    Completes (.slotHalted k) s fun t => t = s.m) ∧
  (∀ s : State, s.m.key.integ.st ≠ .exhausted → nonceSoft ≤ s.m.key.integ.nonce → Completes .integrityKeyExhausted s fun t =>
    t.key = { s.m.key with integ := { s.m.key.integ with st := .exhausted } } ∧
    (t.hdr .key).err = (s.m.hdr .key).err ||| bit32 16 ∧ s.m.SameBut [.key, .reg, .pff, .adm, .alm] t) ∧
  (∀ s : State, s.m.key.integ.st = .exhausted ∨ s.m.key.integ.nonce < nonceSoft → Completes .integrityKeyExhausted s fun t => t = s.m) ∧
  (∀ s : State, s.m.buf.limit = false → 2 ^ 63 ≤ s.m.buf.wsn ∨ 2 ^ 39 ≤ s.m.buf.fsn → Completes .sequenceLimit s fun t =>
    t.buf = { s.m.buf with limit := true } ∧
    (∀ v, t.volu v = if (s.m.volu v).st = .ready then { s.m.volu v with st := .readOnly } else s.m.volu v) ∧
    t.vol = { s.m.vol with v := t.vol.v } ∧ (t.hdr .map).err = (s.m.hdr .map).err ||| bit32 18 ∧
    ((∃ v, (s.m.volu v).st = .ready) → t.hdl.want = s.m.hdl.want ++ [(s.m.hdl.nextRec, .definition {})]) ∧
    s.m.SameBut [.buf, .vol, .reg, .pff, .adm, .alm, .hdl] t) ∧
  (∀ s : State, s.m.buf.limit = true ∨ (s.m.buf.wsn < 2 ^ 63 ∧ s.m.buf.fsn < 2 ^ 39) → Completes .sequenceLimit s fun t => t = s.m) ∧
  (∀ (s : State) (ok : Bool), s.m.vol.recov = none → Completes (.mapRecoveryEnd ok) s fun t => t = s.m) ∧
  (∀ (s : State) (seg i w : Nat) (a : BitVec 40), s.m.vol.recov = some seg →
    s.m.vol.waiting = [{ entry := i, addr := a, wsn := w, cas := none }] → s.m.installed i ≤ w →
    (∀ x ∈ s.m.buf.vers, x.st = .sealed → x.rmwTodo = []) → s.m.Settled → Completes (.mapRecoveryEnd true) s fun t =>
    t.vol.recov = none ∧ t.vol.waiting = [] ∧ t.entry i = a ∧ t.installed i = w ∧ (∀ j, j ≠ i → t.entry j = s.m.entry j) ∧
    t.rd64 Reg.MAP_INSTALL_LO = s.m.rd64 Reg.MAP_INSTALL_LO + 1 ∧ s.m.SameBut [.vol, .reg, .hdl, .gln] t) ∧
  (∀ (s : State) (seg i w : Nat) (a : BitVec 40), s.m.vol.recov = some seg →
    s.m.vol.waiting = [{ entry := i, addr := a, wsn := w, cas := none }] → w < s.m.installed i →
    (∀ x ∈ s.m.buf.vers, x.st = .sealed → x.rmwTodo = []) → s.m.Settled → Completes (.mapRecoveryEnd true) s fun t =>
    t.vol = { s.m.vol with recov := none, waiting := [] } ∧
    t.rdN Reg.MAP_SUPERSEDED = min 0xFFFFFFFF (s.m.rdN Reg.MAP_SUPERSEDED + 1) ∧ s.m.RegsSame [Reg.MAP_SUPERSEDED] t ∧
    s.m.SameBut [.vol, .reg] t) ∧
  (∀ (s : State) (seg : Nat), s.m.vol.recov = some seg → seg < s.m.mapSegs → (∀ x ∈ s.m.buf.vers, x.st = .sealed → x.rmwTodo = []) →
    s.m.Settled → Completes (.mapRecoveryEnd false) s fun t =>
    t.vol.recov = none ∧ t.vol.waiting = [] ∧
    (∀ v, t.volu v = if v ∈ s.m.volsIn seg then { s.m.volu v with st := .faulted } else s.m.volu v) ∧
    (s.m.volsIn seg ≠ [] → (s.m.hdl.nextRec, .definition {}) ∈ t.hdl.want) ∧
    (t.hdr .map).err = (s.m.hdr .map).err ||| bit32 17 ∧ s.m.SameBut [.vol, .lamp, .buf, .hdl, .reg, .pff, .adm, .alm] t) ∧
  (∀ (s : State) (seg : Nat), s.m.vol.recov = some seg → s.m.mapSegs ≤ seg → s.m.dev.st ≠ .failed →
    Completes (.mapRecoveryEnd false) s fun t => t.vol.recov = none ∧ t.dev.st = .failed ∧ t.dev.failCause = 5)

/-! ### Gleaning -/

/-- Gleaning and the scans (R257, R259 to R261, R265, R268, R276, R277). A free victim slot takes the furrow that ranks 1 to 3 give, else the one of highest score; a source read stages the valid MU that it finds, or
poisons its entry where an LB of it cannot be had; what is left at the end of a walk is poisoned. A released furrow is erased behind a durable root, its members queued
after the record of them. A scan adds to the read counts, or halves a member's where nothing is flagged. -/
def Obligations.Gleaning : Prop :=
  (∀ (s : State) (f : Nat), s.m.gleaning = true → s.m.gln.vic0 = none → s.m.lowVictim = some f → Completes .victimSelection s fun t =>
    t.fur f = { s.m.fur f with st := .gleaning } ∧ (∀ g, g ≠ f → t.fur g = s.m.fur g) ∧
    t.gln = { s.m.gln with
      fur := t.gln.fur
      vic0 := some { furrow := f, rank4 := false, cold := true, page := 0, walk := 0, plane := 0, v0 := (s.m.fur f).valid
                     t0 := (s.m.fur f).placed, walked := false } } ∧
    s.m.SameBut [.gln, .hdl, .reg] t) ∧
  (∀ (s : State) (f : Nat), s.m.gleaning = true → s.m.gln.vic0.isSome ∨ s.m.lowVictim = none → s.m.gln.vic1 = none →
    s.m.bestVictim = some f → s.m.gln.level ≠ .low ∨ s.m.rdN Reg.GLN_LOWMIN ≤ (s.m.fur f).vterm → Completes .victimSelection s fun t =>
    t.fur f = { s.m.fur f with st := .gleaning } ∧ (∀ g, g ≠ f → t.fur g = s.m.fur g) ∧
    t.gln = { s.m.gln with
      fur := t.gln.fur
      vic1 := some { furrow := f, rank4 := true, cold := decide (s.m.rdN Reg.GLN_COLDAGE ≤ s.m.ageBucket (s.m.fur f)), page := 0, walk := 0
                     plane := 0, v0 := (s.m.fur f).valid, t0 := (s.m.fur f).placed, walked := false } } ∧
    s.m.SameBut [.gln, .hdl, .reg] t) ∧
  (∀ s : State, s.m.gleaning = false ∨ ((s.m.gln.vic0.isSome ∨ s.m.lowVictim = none) ∧
    (s.m.gln.vic1.isSome ∨ ∀ f, s.m.bestVictim = some f → s.m.gln.level = .low ∧ (s.m.fur f).vterm < s.m.rdN Reg.GLN_LOWMIN)) →
    Completes .victimSelection s fun t => t = s.m) ∧
  (∀ (s : State) (low : Bool) (rs : List SrcRead), s.m.victim low = none ∨ s.m.gleaning = false ∨ s.m.sourceReady low = false ∨
    (s.m.sourceReady (!low) = true ∧ s.m.gln.turnLow ≠ low) → Completes (.gleanerSourceRead low rs) s fun t => t = s.m) ∧
  (∀ (s : State) (low : Bool) (rs : List SrcRead) (v : Victim) (a : BitVec 40) (id : Cw) (vol : Vid) (i : Nat),
    s.m.Sources low v a → s.m.MuAt a id → vol = Fin.ofNat 64 id.vol → (∀ n < 4, rs.getD n goodRead = goodRead) →
    (∀ n < 4, s.m.LbGood a id n) → entryIndex (s.m.volu vol) id.lba = some i → s.m.entry i = a →
    Completes (.gleanerSourceRead low rs) s fun t =>
    (∃ x, t.gln.copies = s.m.gln.copies ++ [x] ∧ x.id = s.m.gln.nextCopy ∧ x.vol = vol ∧ x.mu = id.lba / 4 ∧ x.src = a ∧ x.wsn = id.wsn ∧
      x.flying = false ∧ x.pos = (if (s.m.volu vol).layout1 then 3 else if v.cold then 5 else 4) ∧
      ∀ n < 4, SMap.get 0 x.data n = (s.m.cwAt (a + BitVec.ofNat 40 n)).data) ∧
    t.gln.nextCopy = s.m.gln.nextCopy + 1 ∧ t.gln.turnLow = !low ∧
    (v.again = [] → v.plane + 1 < s.m.adm.board.planes → t.victim low =
      some { v with plane := v.plane + 1, walked := decide (min s.m.adm.board.pages ((s.m.fur v.furrow).stripes + 1) ≤ v.page) }) ∧
    (∀ j, t.entry j = s.m.entry j) ∧ s.m.SameBut [.gln, .fl, .hdl, .reg, .alm] t) ∧
  (∀ (s : State) (low : Bool) (rs : List SrcRead) (v : Victim) (a : BitVec 40) (id : Cw) (vol : Vid) (i n : Nat),
    s.m.Sources low v a → s.m.MuAt a id → vol = Fin.ofNat 64 id.vol → rs.getD 0 goodRead = goodRead → s.m.LbGood a id 0 →
    0 < n → n < 4 → (s.m.cwAt (a + BitVec.ofNat 40 n)).wsn ≠ id.wsn → entryIndex (s.m.volu vol) id.lba = some i → s.m.entry i = a →
    Completes (.gleanerSourceRead low rs) s fun t =>
    t.entry i = poisoned ∧ (∀ j, j ≠ i → t.entry j = s.m.entry j) ∧ t.gln.copies = s.m.gln.copies ∧
    t.rdN Reg.GLN_POISON = min 0xFFFFFFFF (s.m.rdN Reg.GLN_POISON + 1) ∧ (t.hdr .gln).err = (s.m.hdr .gln).err ||| bit32 16 ∧
    (s.m.hdl.nextRec, .poison vol (id.lba / 4) id.wsn) ∈ t.hdl.want) ∧
  (∀ (s : State) (low : Bool) (rs : List SrcRead) (v : Victim) (a : BitVec 40), s.m.Sources low v a → (s.m.cwAt a).kind = .erased →
    v.again = [] → v.plane + 1 < s.m.adm.board.planes → Completes (.gleanerSourceRead low rs) s fun t =>
    t.victim low =
      some { v with plane := v.plane + 1, walked := decide (min s.m.adm.board.pages ((s.m.fur v.furrow).stripes + 1) ≤ v.page) } ∧
    t.gln = { s.m.gln with vic0 := t.gln.vic0, vic1 := t.gln.vic1, turnLow := !low } ∧ s.m.SameBut [.gln] t) ∧
  (∀ (s : State) (low : Bool) (rs : List SrcRead) (v : Victim) (a : BitVec 40), s.m.Sources low v a → (s.m.cwAt a).kind ≠ .erased →
    (∀ n < 4, s.m.chanAway (adrChan (a + BitVec.ofNat 40 n)) = true ∧ s.m.parityGroup (a + BitVec.ofNat 40 n) = none) →
    Completes (.gleanerSourceRead low rs) s fun t =>
    (∃ w, t.victim low = some w ∧ w.furrow = v.furrow ∧ w.unidentified = v.unidentified + 1) ∧ t.gln.copies = s.m.gln.copies ∧
    (∀ j, t.entry j = s.m.entry j)) ∧
  (∀ (s : State) (low : Bool), (∀ v, s.m.victim low = some v → v.walked = false ∨ (s.m.fur v.furrow).valid = 0) →
    Completes (.residualSearch low) s fun t => t = s.m) ∧
  (∀ (s : State) (low : Bool) (v : Victim) (i mu : Nat) (e : BitVec 40) (vol : Vid), s.m.victim low = some v → s.m.gleaning = true →
    v.walked = true → v.again = [] → s.m.installHeld i = false → s.m.stagedFrom v.furrow = false → (s.m.fur v.furrow).valid ≠ 0 →
    (s.m.vol.map.filter fun e => isAddr e.2 && s.m.furrowOfAddr e.2 == v.furrow) = [(i, e)] → s.m.entry i = e →
    s.m.entryOwner i = some (vol, mu) → Completes (.residualSearch low) s fun t =>
    t.entry i = poisoned ∧ (∀ j, j ≠ i → t.entry j = s.m.entry j) ∧
    t.rdN Reg.GLN_RESIDUAL = min 0xFFFFFFFF (s.m.rdN Reg.GLN_RESIDUAL + 1) ∧
    t.rdN Reg.GLN_POISON = min 0xFFFFFFFF (s.m.rdN Reg.GLN_POISON + 1) ∧
    (s.m.hdl.nextRec, .poison vol mu (s.m.installed i)) ∈ t.hdl.want) ∧
  (∀ s : State, s.m.running .hdl = false ∨ s.m.dev.pf ≠ .none ∨ s.m.ioUp = false ∨ (∀ e ∈ s.m.gln.fur, e.2.st ≠ .released) →
    Completes .eraseGate s fun t => t = s.m) ∧
  (∀ (s : State) (f : Nat) (x : Fur), (s.m.gln.fur.filter fun e => e.2.st == .released) = [(f, x)] → s.m.hdl.durable < (s.m.fur f).eRel →
    Completes .eraseGate s fun t => t = s.m) ∧
  (∀ (s : State) (f : Nat) (x : Fur) (mask : Word), s.m.running .hdl = true → s.m.dev.pf = .none → s.m.ioUp = true →
    (s.m.gln.fur.filter fun e => e.2.st == .released) = [(f, x)] → (s.m.fur f).eRel ≤ s.m.hdl.durable → s.m.eraseMembers f ≠ [] →
    mask = (s.m.eraseMembers f).foldl (fun w c => w ||| bit32 c.val) 0 → Completes .eraseGate s fun t =>
    t.fur f = { s.m.fur f with st := .erasing, toErase := mask } ∧ (∀ g, g ≠ f → t.fur g = s.m.fur g) ∧
    t.hdl.want = s.m.hdl.want ++ [(s.m.hdl.nextRec, .eraseBegin f mask)] ∧
    (∀ c ∈ s.m.eraseMembers f, (t.blk (dieOf c (f / 4096)) (s.m.memberBlock c f)).st = .erasing ∧
      ∃ o ∈ t.fl.ops, o.ch = c ∧ o.row = Fin.ofNat 64 (f / 4096) ∧ o.req = .q2 ∧ o.kind = .erase (s.m.memberBlock c f) false ∧
        o.issued = false) ∧
    t.fl.ops.length = s.m.fl.ops.length + (s.m.eraseMembers f).length ∧ s.m.RegsSame [] t ∧ s.m.SameBut [.fl, .gln, .hdl, .reg] t) ∧
  (∀ (s : State) (f : Nat) (flagged passEnd : Bool), (s.m.fur f).st = .closed → s.m.gleaning = true →
    (∀ c, s.m.memberBlock c f < 4096) → (∀ c ∈ goodMembers (s.m.fur f), ∀ a ∈ s.m.scanned c f, (s.m.cwAt a).gone = false) → Completes (.patrolScan f flagged passEnd) s fun t =>
    (∀ c ∈ goodMembers (s.m.fur f), s.m.chanAway c = false → (t.blk (dieOf c (f / 4096)) (s.m.memberBlock c f)).reads =
      min 0xFFFFFF ((s.m.blk (dieOf c (f / 4096)) (s.m.memberBlock c f)).reads + (s.m.fur f).stripes)) ∧
    (t.fur f).refresh = ((s.m.fur f).refresh || flagged) ∧
    t.rd Reg.GLN_SCANPASS = (if passEnd then s.m.rd Reg.GLN_SCANPASS + 1 else s.m.rd Reg.GLN_SCANPASS) ∧
    s.m.SameBut [.fl, .gln, .hdl, .reg] t) ∧
  (∀ (s : State) (f : Nat) (flagged passEnd : Bool), (s.m.fur f).st ≠ .closed ∨ s.m.gleaning = false →
    Completes (.patrolScan f flagged passEnd) s fun t => t = s.m) ∧
  (∀ (s : State) (c : Chan) (r : Row) (b : Nat), s.m.gleaning = true →
    s.m.rdN Reg.GLN_RDDIST ≤ (s.m.blk (dieOf c r.val) b).reads →
    (∀ a ∈ s.m.scanned c (s.m.furrowOf c r.val b), (s.m.cwAt a).gone = false) → Completes (.disturbScan c r b false) s fun t =>
    (t.blk (dieOf c r.val) b).reads = s.m.rdN Reg.GLN_RDDIST / 2 ∧
    t.rdN Reg.GLN_DISTURB = min 0xFFFFFFFF (s.m.rdN Reg.GLN_DISTURB + 1) ∧ t.fl = { s.m.fl with blk := t.fl.blk } ∧
    s.m.RegsSame [Reg.GLN_DISTURB] t ∧ s.m.SameBut [.fl, .reg, .hdl] t) ∧
  (∀ (s : State) (c : Chan) (r : Row) (b f : Nat), s.m.gleaning = true → s.m.rdN Reg.GLN_RDDIST ≤ (s.m.blk (dieOf c r.val) b).reads →
    f = s.m.furrowOf c r.val b → (s.m.fur f).st = .closed → Completes (.disturbScan c r b true) s fun t =>
    (t.fur f).refresh = true ∧ t.rdN Reg.GLN_DISTURB = min 0xFFFFFFFF (s.m.rdN Reg.GLN_DISTURB + 1) ∧
    t.fl = { s.m.fl with blk := t.fl.blk }) ∧
  (∀ (s : State) (c : Chan) (r : Row) (b : Nat) (flagged : Bool),
    (s.m.blk (dieOf c r.val) b).reads < s.m.rdN Reg.GLN_RDDIST ∨ s.m.gleaning = false → Completes (.disturbScan c r b flagged) s fun t =>
    t = s.m)

/-! ### The headland -/

/-- The headland writer (R280, R281, R284 to R286, R288) and what durability does (R298, R327, R330). With a root due it appends the root; else the first record asked for of
those that go ahead of segments; a DEFINITION and a dirty segment each with a root behind it: every one goes into the open furrow and to its channel through Q1. The oldest record
that is not durable becomes so once its pages are confirmed, and so does what waited for it; a furrow without a live record is released; a dump that is durable again no
longer counts. -/
def Obligations.Headland : Prop :=
  (∀ s : State, (∀ v, (s.m.volu v).op = none ∨ (s.m.volu v).worked = true) → s.m.hdlUp = false → Completes .headlandWrite s fun t =>
    t = s.m) ∧
  (∀ (s : State) (k : Nat), (∀ v, (s.m.volu v).op = none ∨ (s.m.volu v).worked = true) → s.m.hdlUp = true →
    (∀ r ∈ s.m.hdl.log, r.flying = true → s.m.recQueued r.id = true) → s.m.hdl.needRoot = true → s.m.hdl.opn = some k →
    (s.m.hfur k).used + 1 ≤ s.m.hfurCap (s.m.hfur k) → Completes .headlandWrite s fun t =>
    t.hdl.log = s.m.hdl.log ++ [{ id := s.m.hdl.nextRec, body := .root s.m.rootNow, epoch := s.m.hdl.epoch + 1, flying := true
                                  durable := false, furs := [k], pos := s.m.hdl.nextPos }] ∧
    t.hdl.epoch = s.m.hdl.epoch + 1 ∧ t.hdl.needRoot = false ∧ t.hdl.nextRec = s.m.hdl.nextRec + 1 ∧
    t.hdl.nextPos = s.m.hdl.nextPos + 1 ∧ t.hfur k = { s.m.hfur k with used := (s.m.hfur k).used + 1 } ∧
    (∃ o, t.fl.ops = s.m.fl.ops ++ [o] ∧ o.kind = .headland s.m.hdl.nextRec false ∧ o.req = .q1 ∧ o.issued = false) ∧
    s.m.SameBut [.hdl, .fl, .reg] t) ∧
  (∀ (s : State) (k id : Nat) (b : HBody) (ws : List (Nat × HBody)), (∀ v, (s.m.volu v).op = none ∨ (s.m.volu v).worked = true) →
    s.m.hdlUp = true → (∀ r ∈ s.m.hdl.log, r.flying = true → s.m.recQueued r.id = true) → s.m.hdl.needRoot = false →
    s.m.hdlSegs = true → s.m.rewriteSeg = none → s.m.hdl.want = (id, b) :: ws → b.first = true → s.m.hdl.opn = some k →
    (s.m.hfur k).used + s.m.recCws b ≤ s.m.hfurCap (s.m.hfur k) → Completes .headlandWrite s fun t =>
    t.hdl.log = s.m.hdl.log ++ [{ id := id, body := b, epoch := s.m.hdl.epoch + 1, flying := true, durable := false, furs := [k]
                                  pos := s.m.hdl.nextPos }] ∧
    t.hdl.want = s.m.hdl.want.filter (fun w => w.1 != id) ∧ t.hdl.epoch = s.m.hdl.epoch ∧
    (∃ o, t.fl.ops = s.m.fl.ops ++ [o] ∧ o.kind = .headland id false ∧ o.req = .q1 ∧ o.issued = false) ∧
    s.m.SameBut [.hdl, .fl, .reg] t) ∧
  (∀ (s : State) (k id : Nat) (d : Defn), (∀ v, (s.m.volu v).op = none ∨ (s.m.volu v).worked = true) → s.m.hdlUp = true →
    (∀ r ∈ s.m.hdl.log, r.flying = true → s.m.recQueued r.id = true) → s.m.hdl.needRoot = false →
    s.m.hdlSegs = false ∨ s.m.rewriteSeg = none → s.m.hdl.want = [(id, .definition d)] → s.m.hdlLow = false → s.m.hdl.opn = some k →
    (s.m.hfur k).used + 2 ≤ s.m.hfurCap (s.m.hfur k) → Completes .headlandWrite s fun t =>
    (∃ r r', t.hdl.log = s.m.hdl.log ++ [r, r'] ∧ r.id = id ∧ r.body = .definition s.m.defnNow ∧
      ∃ c, r'.body = .root c ∧ c.epoch = s.m.hdl.epoch + 1 ∧ c.defn = s.m.defnNow) ∧
    t.hdl.want = [] ∧ t.hdl.img.defn = s.m.defnNow ∧ t.hdl.epoch = s.m.hdl.epoch + 1 ∧ s.m.SameBut [.hdl, .fl, .reg] t) ∧
  (∀ (s : State) (k sg : Nat), (∀ v, (s.m.volu v).op = none ∨ (s.m.volu v).worked = true) → s.m.hdlUp = true →
    (∀ r ∈ s.m.hdl.log, r.flying = true → s.m.recQueued r.id = true) → s.m.hdl.needRoot = false → s.m.hdlSegs = true →
    s.m.rewriteSeg = none → s.m.hdl.want = [] → s.m.hdlLow = false → s.m.scrubNext = none → s.m.hdl.sinceDir < s.m.rdN Reg.HDL_DIRINT →
    s.m.nextDirty = some sg → s.m.hdl.opn = some k →
    (∀ full l, l = (if sg < s.m.mapSegs then s.m.segDelta sg else []) →
      (s.m.hfur k).used + s.m.recCws (.seg sg full l) + 1 ≤ s.m.hfurCap (s.m.hfur k)) → Completes .headlandWrite s fun t =>
    (SMap.get {} t.hdl.seg sg).dirty = false ∧ (∀ j, j ≠ sg → SMap.get {} t.hdl.seg j = SMap.get {} s.m.hdl.seg j) ∧
    t.hdl.sinceDir = s.m.hdl.sinceDir + 1 ∧ t.hdl.epoch = s.m.hdl.epoch + 1 ∧
    t.rd64 Reg.HDL_SEGWR_LO = s.m.rd64 Reg.HDL_SEGWR_LO + 1 ∧
    (∃ r r' full l c, t.hdl.log = s.m.hdl.log ++ [r, r'] ∧ r.body = .seg sg full l ∧ r'.body = .root c ∧
      c.epoch = s.m.hdl.epoch + 1)) ∧
  (∀ s : State, (∀ r, s.m.hdl.log.find? (fun r => !r.durable) = some r → r.flying = true) → s.m.Calm → Completes .headlandRecordDurable s fun t =>
    t = s.m) ∧
  (∀ (s : State) (r : HRec) (k e h : Nat), s.m.hdl.log.find? (fun r => !r.durable) = some r → r.flying = false → r.body = .nonce k e h →
    (∀ w ∈ s.m.hdl.waiters, w.1 ≠ r.id) → (s.m.nslot k).epoch = e → s.m.Calm → Completes .headlandRecordDurable s fun t =>
    t.nslot k = { s.m.nslot k with hwm := max (s.m.nslot k).hwm h, waiting := false } ∧
    t.hdl = { s.m.hdl with log := s.m.hdl.log.map fun x => if x.id == r.id then { x with durable := true } else x } ∧
    s.m.SameBut [.hdl, .key, .reg] t) ∧
  (∀ (s : State) (r : HRec) (p : Port) (k : Nat) (d : Defn), s.m.hdl.log.find? (fun r => !r.durable) = some r → r.flying = false →
    r.body = .definition d → s.m.hdl.waiters = [(r.id, false, .keyImport p k)] → s.m.Calm → Completes .headlandRecordDurable s fun t =>
    t.kslot k = { s.m.kslot k with st := .loaded, importing := false } ∧ (∀ j, j ≠ k → t.kslot j = s.m.kslot j) ∧ t.hdl.waiters = [] ∧
    t.rdN Reg.KEY_IMPORTS = min 0xFFFFFFFF (s.m.rdN Reg.KEY_IMPORTS + 1) ∧ s.m.Replies p St.success [] t ∧
    s.m.SameBut [.hdl, .key, .reg, .out] t) ∧
  (∀ (s : State) (r : HRec) (c : Ckpt), s.m.hdl.log.find? (fun r => !r.durable) = some r → r.flying = false → r.body = .root c →
    c.clean = false → s.m.hdl.waiters = [] → (∀ k, (s.m.hfur k).st ≠ .released) → s.m.dev.startRoot = false →
    s.m.Calm → Completes .headlandRecordDurable s fun t =>
    t.hdl = { s.m.hdl with
      durable := c.epoch, roots := c :: s.m.hdl.roots
      log := s.m.hdl.log.map fun x => if x.id == r.id then { x with durable := true } else x } ∧
    s.m.RegsBut [] t ∧ s.m.SameBut [.hdl, .reg] t) ∧
  (∀ (s : State) (r x : HRec) (c : Ckpt) (p : Port) (w : Waiter), s.m.hdl.log.find? (fun r => !r.durable) = some r → r.flying = false →
    r.body = .root c → c.clean = false → w = .feature p ∨ w = .keyRetire p → s.m.hdl.waiters = [(x.id, true, w)] → r.id ≠ x.id →
    x ∈ s.m.hdl.log → x.durable = true → x.epoch ≤ c.epoch → (∀ k, (s.m.hfur k).st ≠ .released) → s.m.dev.startRoot = false →
    s.m.Calm → Completes .headlandRecordDurable s fun t =>
    t.hdl.durable = c.epoch ∧ t.hdl.waiters = [] ∧ s.m.Replies p St.success [] t ∧ s.m.SameBut [.hdl, .reg, .out] t) ∧
  (∀ (s : State) (r : HRec) (c : Ckpt), s.m.hdl.log.find? (fun r => !r.durable) = some r → r.flying = false → r.body = .root c →
    c.clean = true → s.m.hdl.waiters = [] → (∀ k, (s.m.hfur k).st ≠ .released) → s.m.dev.startRoot = false →
    s.m.dev.phase = .checkpoint → s.m.dev.orderly = false → s.m.dev.pf = .none → s.m.Calm → Completes .headlandRecordDurable s fun t =>
    t.hdl.durable = c.epoch ∧ t.dev = { s.m.dev with phase := .done } ∧ s.m.SameBut [.dev, .hdl, .reg, .pff, .adm, .alm] t) ∧
  (∀ (s : State) (k : Nat), (s.m.oldestClosed.toList ++ s.m.scrubFurs).find? s.m.releasable = some k →
    Completes .headlandFurrowRelease s fun t =>
    t.hfur k = { s.m.hfur k with st := .released, eRel := s.m.hdl.epoch + 1 } ∧ (∀ j, j ≠ k → t.hfur j = s.m.hfur j) ∧
    t.hdl = { s.m.hdl with fur := t.hdl.fur } ∧ s.m.RegsBut [] t ∧ s.m.SameBut [.hdl, .reg] t) ∧
  (∀ s : State, (s.m.oldestClosed.toList ++ s.m.scrubFurs).find? s.m.releasable = none → Completes .headlandFurrowRelease s fun t =>
    t = s.m) ∧
  (∀ s : State, s.m.hdl.dumpValid = true → s.m.running .hdl = true → s.m.dumpDurable = true → Completes .dumpConsumed s fun t =>
    t.hdl = { s.m.hdl with dumpValid := false, dumpPartial := false, dumped := [], dumpWait := [], needRoot := true } ∧
    s.m.RegsBut [] t ∧ s.m.SameBut [.hdl, .reg] t) ∧
  (∀ s : State, s.m.hdl.dumpValid = false ∨ s.m.running .hdl = false ∨ s.m.dumpDurable = false → Completes .dumpConsumed s fun t =>
    t = s.m)

/-! ### DRAM -/

/-- The DRAM channels (R309 to R315). A corrected line counts against its device, which is marked as an erasure at the threshold of the pass; a line that cannot be corrected counts and sets
PG_ERR.BLK bit 17, and one of the map starts the recovery of its segment. A failed replay counts; the third in a row faults the channel and the controller. A refresh batch reads MR4, sets the
rate, and takes one recalibration step of one tap at most. -/
def Obligations.Dram : Prop :=
  (∀ (s : State) (d : Fin 4) (b r1 e : Bool) (x : DramSyndrome) (u : DramUser), s.m.running (.drc d) = false →
    Completes (.patrolScrub d b r1 x u e) s fun t => t = s.m) ∧
  (∀ (s : State) (d : Fin 4) (b r1 : Bool) (x : DramSyndrome) (u : DramUser), x.devices = [] →
    Completes (.patrolScrub d b r1 x u false) s fun t => t = s.m) ∧
  (∀ (s : State) (d : Fin 4) (b r1 : Bool) (x : DramSyndrome) (u : DramUser), s.m.running (.drc d) = true → x.devices = [] →
    Completes (.patrolScrub d b r1 x u true) s fun t =>
    t.dram d = { s.m.dram d with devCe := [], passPins := [] } ∧ (∀ j, j ≠ d → t.dram j = s.m.dram j) ∧
    t.rd (drcReg d Reg.DRC_SCRUBPASS) = s.m.rd (drcReg d Reg.DRC_SCRUBPASS) + 1 ∧ s.m.RegsSame [drcReg d Reg.DRC_SCRUBPASS] t ∧
    s.m.SameBut [.drc, .reg] t) ∧
  (∀ (s : State) (d : Fin 4) (b r1 : Bool) (x : DramSyndrome) (u : DramUser) (v : Fin 5) (k : Nat), s.m.running (.drc d) = true →
    x.devices = [v] → x.symbols ≤ 8 → SMap.get 0 (s.m.dram d).marked (subRank b r1) = 0 → k = devKey (subRank b r1) v.val →
    SMap.get 0 (s.m.dram d).devCe k + 1 < 65536 →
    SMap.get 0 (s.m.dram d).devCe k + 1 < s.m.rdN (drcReg d Reg.DRC_SPARETHR) → Completes (.patrolScrub d b r1 x u false) s fun t =>
    t.rd64 (drcReg d Reg.DRC_CE_LO) = s.m.rd64 (drcReg d Reg.DRC_CE_LO) + 1 ∧
    t.adm.health.dramCe = (s.m.adm.health.dramCe + 1) % 2 ^ 64 ∧
    SMap.get 0 (t.dram d).devCe k = SMap.get 0 (s.m.dram d).devCe k + 1 ∧ (t.dram d).marked = (s.m.dram d).marked ∧
    (∀ j, j ≠ d → t.dram j = s.m.dram j) ∧ s.m.RegsBut [] t ∧ s.m.SameBut [.drc, .adm, .reg] t) ∧
  (∀ (s : State) (d : Fin 4) (b r1 : Bool) (x : DramSyndrome) (u : DramUser) (v : Fin 5) (k : Nat), s.m.running (.drc d) = true →
    x.devices = [v] → x.symbols ≤ 8 → SMap.get 0 (s.m.dram d).marked (subRank b r1) = 0 → k = devKey (subRank b r1) v.val →
    s.m.rdN (drcReg d Reg.DRC_SPARETHR) ≤ SMap.get 0 (s.m.dram d).devCe k + 1 → SMap.get 0 (s.m.dram d).devCe k + 1 < 65536 →
    Completes (.patrolScrub d b r1 x u false) s fun t =>
    SMap.get 0 (t.dram d).marked (subRank b r1) = v.val + 1 ∧
    SMap.get 0 (t.dram d).pins (subRank b r1) = SMap.get 0 (s.m.dram d).passPins k ||| pinBits x.pins ∧
    (t.hdr (.drc d)).err = (s.m.hdr (.drc d)).err ||| bit32 18 ∧ (s.m.dev.loaded = true → ∃ e ∈ t.hdl.want, e.2 = .definition {})) ∧
  (∀ (s : State) (d : Fin 4) (b r1 : Bool) (x : DramSyndrome) (u : DramUser) (i : Nat), s.m.running (.drc d) = true →
    2 ≤ x.devices.length ∨ (∃ v, x.devices = [v] ∧ 8 < x.symbols ∧ SMap.get 0 (s.m.dram d).marked (subRank b r1) = 0) →
    u = .unused ∨ (u = .mapEntry i ∧ s.m.vol.recov = none) → Completes (.patrolScrub d b r1 x u false) s fun t =>
    t.rdN (drcReg d Reg.DRC_UE) = min 0xFFFFFFFF (s.m.rdN (drcReg d Reg.DRC_UE) + 1) ∧
    t.rdN Reg.DRG_UE = min 0xFFFFFFFF (s.m.rdN Reg.DRG_UE + 1) ∧ t.adm.health.dramUe = (s.m.adm.health.dramUe + 1) % 2 ^ 64 ∧
    (t.hdr (.drc d)).err = (s.m.hdr (.drc d)).err ||| bit32 17 ∧
    t.vol = (if u = .unused then s.m.vol else { s.m.vol with recov := some (5 * i / 2 ^ 25) }) ∧
    s.m.SameBut [.reg, .pff, .adm, .alm, .vol] t) ∧
  (∀ (s : State) (d : Fin 4) (b ok : Bool), s.m.dramLive d = false → Completes (.caParityAlert d b ok) s fun t => t = s.m) ∧
  (∀ (s : State) (d : Fin 4) (b : Bool), s.m.dramLive d = true → Completes (.caParityAlert d b true) s fun t =>
    t.dram d = { s.m.dram d with fails := 0 } ∧ (∀ j, j ≠ d → t.dram j = s.m.dram j) ∧
    t.rdN (drcReg d Reg.DRC_CAPAR) = min 0xFFFFFFFF (s.m.rdN (drcReg d Reg.DRC_CAPAR) + 1) ∧
    s.m.RegsSame [drcReg d Reg.DRC_CAPAR] t ∧ s.m.SameBut [.drc, .reg] t) ∧
  (∀ (s : State) (d : Fin 4) (b : Bool), s.m.dramLive d = true → Completes (.caParityAlert d b false) s fun t =>
    t.dram d = { s.m.dram d with fails := (s.m.dram d).fails + 1 } ∧ (∀ j, j ≠ d → t.dram j = s.m.dram j) ∧
    t.rdN (drcReg d Reg.DRC_CAPAR) = min 0xFFFFFFFF (s.m.rdN (drcReg d Reg.DRC_CAPAR) + 1) ∧
    t.rdN (drcReg d Reg.DRC_REPLAYFAIL) = min 0xFFFFFFFF (s.m.rdN (drcReg d Reg.DRC_REPLAYFAIL) + 1) ∧
    s.m.RegsSame [drcReg d Reg.DRC_CAPAR, drcReg d Reg.DRC_REPLAYFAIL] t ∧ s.m.SameBut [.drc, .reg] t) ∧
  (∀ (s : State) (d : Fin 4), s.m.dramLive d = true → 3 ≤ (s.m.dram d).fails → s.m.dev.st ≠ .failed →
    Completes (.replayFailFault d) s fun t =>
    (∀ p, t.pageSt p = if p = .drc d then .faulted else s.m.pageSt p) ∧ t.dev.st = .failed ∧ t.dev.failCause = 2 ∧
    (t.hdr (.drc d)).err = (s.m.hdr (.drc d)).err ||| bit32 2 ||| bit32 20) ∧
  (∀ (s : State) (d : Fin 4), s.m.dramLive d = false ∨ (s.m.dram d).fails < 3 → Completes (.replayFailFault d) s fun t => t = s.m) ∧
  (∀ (s : State) (d : Fin 4) (mr4 : BitVec 3) (low high : Bool), s.m.dramLive d = false → Completes (.refreshBatch d mr4 low high) s
    fun t => t = s.m) ∧
  (∀ (s : State) (d : Fin 4) (mr4 : BitVec 3) (low high : Bool) (e : Nat × Nat × Nat × Nat), s.m.dramLive d = true →
    e = SMap.get (0, 0, 0, 0) (s.m.dram d).eye (s.m.dram d).nextLane → Completes (.refreshBatch d mr4 low high) s fun t =>
    SMap.get (0, 0, 0, 0) (t.dram d).eye (s.m.dram d).nextLane =
      (if low = high then e.1 else if high = true then min 63 (e.1 + 1) else e.1 - 1, e.2.1, e.2.2.1, e.2.2.2) ∧
    (t.dram d).nextLane = s.m.laneAfter (s.m.dram d).nextLane ∧ (t.dram d).mr4 = mr4.toNat ∧
    (t.dram d).doubled = (if 2 < mr4.toNat then true
      else (s.m.dram d).doubled && decide ((s.m.dram d).normals + 1 < bits (s.m.rdN (drcReg d Reg.DRC_RFCFG)) 5 4)) ∧
    (∀ j, j ≠ d → t.dram j = s.m.dram j) ∧ s.m.SameBut [.drc, .reg, .pff, .adm, .alm] t) ∧
  (∀ (s : State) (d : Fin 4) (mr4 : BitVec 3) (low high : Bool), s.m.dramLive d = true → 2 < mr4.toNat → (s.m.dram d).doubled = false →
    Completes (.refreshBatch d mr4 low high) s fun t =>
    t.rdN (drcReg d Reg.DRC_CATCHUP) = min 0xFFFFFFFF (s.m.rdN (drcReg d Reg.DRC_CATCHUP) + 1))

/-! ### Temperature, power and clocks -/

/-- Temperature and the Snuffer (R343 to R348, Table 08.10). A sample starts a conversion on each sensor asked for, and the thermal task on all of them; a conversion that ends stores its result, and, from the second on, a
rate: above THM_RISEHI the level falls a step, and with no rise above THM_RISELO for the hold time it rises one, up to the ceiling. A ceiling below the level takes it down at once. The junction trip
suspends every running erase, and its clear takes the level down to SNF_TRIPLVL. -/
def Obligations.Temperature : Prop :=
  (∀ (s : State) (a : Agent) (mask : BitVec 16), s.m.running .thm = true → Completes (.thmSample a mask) s fun t =>
    (∀ i, t.sens i =
      if mask.getLsbD i ∧ (s.m.sens i).busy = false then { s.m.sens i with busy := true, batch := s.m.thm.batch + 1 } else s.m.sens i) ∧
    t.thm = { s.m.thm with sensor := t.thm.sensor, batch := s.m.thm.batch + 1 } ∧ s.m.RegsBut [] t ∧ s.m.SameBut [.thm, .reg] t) ∧
  (∀ (s : State) (a : Agent) (mask : BitVec 16), s.m.pageSt .thm ≠ .running → s.m.pageSt .thm ≠ .off → Completes (.thmSample a mask) s
    fun t => t = s.m) ∧
  (∀ (s : State) (h : Port) (mask : BitVec 16), s.m.pageSt .thm = .off → Completes (.thmSample h.agent mask) s fun t =>
    t.rdN (portReg h Reg.PORT_WDROP) = min 0xFFFFFFFF (s.m.rdN (portReg h Reg.PORT_WDROP) + 1) ∧
    s.m.RegsSame [portReg h Reg.PORT_WDROP] t ∧ s.m.SameBut [.reg] t) ∧
  (∀ (s : State) (dies : List Int), s.m.dev.fwRunning = false ∨ s.m.adm.now.thermMs = 0 → Completes (.thermalTaskSample dies) s fun t =>
    t = s.m) ∧
  (∀ (s : State) (dies : List Int), s.m.dev.fwRunning = true → s.m.adm.now.thermMs ≠ 0 → Completes (.thermalTaskSample dies) s fun t =>
    t.thm.ticks = (s.m.thm.ticks + 1) % 20 ∧
    (s.m.running .thm = true → t.thm.task = 0xFFFF ∧ ∀ i < 16, (t.sens i).busy = true ∧ ((s.m.sens i).busy = true → t.sens i = s.m.sens i)) ∧
    (s.m.running .thm = false → t.thm = { s.m.thm with ticks := t.thm.ticks }) ∧
    (s.m.dev.formatted = true → SMap.get 0 (SMap.get {} t.alm.acc 0x04).bins s.m.thm.level =
      min (2 ^ 48 - 1) (SMap.get 0 (SMap.get {} s.m.alm.acc 0x04).bins s.m.thm.level + 1)) ∧
    (s.m.dev.formatted = false → t.alm = s.m.alm) ∧
    s.m.RegsBut [] t ∧ s.m.SameBut [.thm, .alm, .reg] t) ∧
  (∀ (s : State) (i : Fin 16) (x : Int) (stamp : BitVec 48), (s.m.sens i).busy = false → Completes (.conversionEnd i x stamp) s fun t =>
    t = s.m) ∧
  (∀ (s : State) (i : Fin 16) (x y : Int) (stamp : BitVec 48), (s.m.sens i).busy = true → (s.m.sens i).ref = none → y = clampTemp x →
    Completes (.conversionEnd i x stamp) s fun t =>
    t.sens i = { s.m.sens i with busy := false, valid := true, temp := y, stamp := stamp, ref := some (y, stamp) } ∧
    (∀ j : Nat, j ≠ i → t.sens j = s.m.sens j) ∧
    t.thm = { s.m.thm with now := stamp, task := s.m.thm.task &&& ~~~(BitVec.ofNat 16 (2 ^ i.val)), sensor := t.thm.sensor } ∧
    s.m.RegsBut [] t ∧ s.m.SameBut [.thm, .alm, .reg] t) ∧
  (∀ (s : State) (i : Fin 16) (x y z : Int) (stamp since0 : BitVec 48), (s.m.sens i).busy = true → (s.m.sens i).ref = some (z, since0) →
    y = clampTemp x → s.m.running .snf = false → max 1 (s.m.rdN Reg.THM_MINDT) ≤ since since0 stamp →
    Completes (.conversionEnd i x stamp) s fun t =>
    t.sens i = { s.m.sens i with
      busy := false, valid := true, temp := y, stamp := stamp, ref := some (y, stamp), rate := riseRate y z (since since0 stamp) } ∧
    t.thm.level = s.m.thm.level ∧ s.m.RegsBut [] t ∧ s.m.SameBut [.thm, .alm, .reg] t) ∧
  (∀ (s : State) (i : Fin 16) (x z : Int) (stamp since0 : BitVec 48), (s.m.sens i).busy = true → (s.m.sens i).ref = some (z, since0) →
    s.m.running .snf = true → max 1 (s.m.rdN Reg.THM_MINDT) ≤ since since0 stamp →
    s.m.thm.down ≠ some (s.m.sens i).batch → s.m.thm.up ≠ some (s.m.sens i).batch →
    (s.m.rdN Reg.THM_RISEHI : Int) < riseRate (clampTemp x) z (since since0 stamp) → Completes (.conversionEnd i x stamp) s fun t =>
    t.thm.level = s.m.thm.level - 1 ∧ t.thm.holdFrom = stamp ∧ t.thm.intervals = 0 ∧
    t.rdN Reg.SNF_DOWNS = (if s.m.thm.level = 0 then s.m.rdN Reg.SNF_DOWNS else min 0xFFFFFFFF (s.m.rdN Reg.SNF_DOWNS + 1)) ∧
    t.rdN Reg.SNF_FLOORHIT = (if s.m.thm.level = 0 then min 0xFFFFFFFF (s.m.rdN Reg.SNF_FLOORHIT + 1) else s.m.rdN Reg.SNF_FLOORHIT) ∧
    s.m.SameBut [.thm, .alm, .reg, .fl] t) ∧
  (∀ (s : State) (i : Fin 16) (x z : Int) (stamp since0 : BitVec 48), (s.m.sens i).busy = true → (s.m.sens i).ref = some (z, since0) →
    s.m.running .snf = true → max 1 (s.m.rdN Reg.THM_MINDT) ≤ since since0 stamp → s.m.thm.down = some (s.m.sens i).batch →
    (s.m.rdN Reg.THM_RISEHI : Int) < riseRate (clampTemp x) z (since since0 stamp) → Completes (.conversionEnd i x stamp) s fun t =>
    t.thm.level = s.m.thm.level ∧ t.thm.holdFrom = stamp ∧ t.thm.intervals = 0 ∧ s.m.RegsBut [] t ∧ s.m.SameBut [.thm, .alm, .reg] t) ∧
  (∀ (s : State) (i : Fin 16) (x z : Int) (stamp since0 : BitVec 48), (s.m.sens i).busy = true → (s.m.sens i).ref = some (z, since0) →
    s.m.running .snf = true → max 1 (s.m.rdN Reg.THM_MINDT) ≤ since since0 stamp →
    riseRate (clampTemp x) z (since since0 stamp) ≤ (s.m.rdN Reg.THM_RISEHI : Int) →
    riseRate (clampTemp x) z (since since0 stamp) ≤ (s.m.rdN Reg.THM_RISELO : Int) →
    1000 * s.m.rdN Reg.SNF_HOLD ≤ since s.m.thm.holdFrom stamp → 1 ≤ s.m.thm.intervals →
    s.m.thm.level < bits (s.m.rdN Reg.SNF_CEIL) 3 0 → Completes (.conversionEnd i x stamp) s fun t =>
    t.thm.level = s.m.thm.level + 1 ∧ t.thm.holdFrom = stamp ∧ t.thm.intervals = 0 ∧
    t.rdN Reg.SNF_UPS = min 0xFFFFFFFF (s.m.rdN Reg.SNF_UPS + 1) ∧ s.m.SameBut [.thm, .alm, .reg, .fl] t) ∧
  (∀ (s : State) (a : Agent) (l : BitVec 4), s.m.running .snf = true → l.toNat < s.m.thm.level → Completes (.snfCeilWrite a l) s fun t =>
    t.rd Reg.SNF_CEIL = l.setWidth 32 ∧ t.thm = { s.m.thm with level := l.toNat, holdFrom := s.m.thm.now, intervals := 0 } ∧
    t.rdN Reg.SNF_DOWNS = min 0xFFFFFFFF (s.m.rdN Reg.SNF_DOWNS + 1) ∧ s.m.RegsBut [Reg.SNF_CEIL, Reg.SNF_DOWNS] t ∧
    (∀ c, s.m.pageSt (.fch c) ≠ .off → (t.chn c).level = l.toNat) ∧ s.m.SameBut [.thm, .reg, .fl] t) ∧
  (∀ (s : State) (a : Agent) (l : BitVec 4), s.m.pageSt .snf ≠ .off → s.m.running .snf = false ∨ s.m.thm.level ≤ l.toNat →
    Completes (.snfCeilWrite a l) s fun t =>
    t.rd Reg.SNF_CEIL = l.setWidth 32 ∧ s.m.RegsBut [Reg.SNF_CEIL] t ∧ s.m.SameBut [.reg] t) ∧
  (∀ s : State, s.m.fl.trip = false → Completes .junctionTrip s fun t =>
    t.fl.trip = true ∧ t.thm = { s.m.thm with trip := true } ∧ t.adm.health.tripSeen = true ∧
    (∀ (c : Chan) (r : Row) (b : Nat), (s.m.die (dieOf c r.val)).erun = some b → (t.die (dieOf c r.val)).erun = none ∧
      (t.die (dieOf c r.val)).esusp = some b ∧ (t.die (dieOf c r.val)).suspends = (s.m.die (dieOf c r.val)).suspends) ∧
    t.rdN Reg.THM_TRIPCNT = min 0xFFFFFFFF (s.m.rdN Reg.THM_TRIPCNT + 1) ∧ (t.hdr .thm).err = (s.m.hdr .thm).err ||| bit32 17 ∧
    t.fl.ops = s.m.fl.ops ∧ s.m.SameBut [.fl, .thm, .reg, .pff, .adm, .alm] t) ∧
  (∀ s : State, s.m.fl.trip = true → Completes .junctionTrip s fun t => t = s.m) ∧
  (∀ s : State, s.m.fl.trip = true → s.m.dev.pf = .none → s.m.running .snf = false → Completes .junctionTripClear s fun t =>
    t.fl = { s.m.fl with trip := false } ∧ t.thm = { s.m.thm with trip := false, tripPend := true } ∧ s.m.SameBut [.fl, .thm] t) ∧
  (∀ (s : State) (l : Nat), s.m.fl.trip = true → s.m.dev.pf = .none → s.m.running .snf = true →
    l = bits (s.m.rdN Reg.SNF_TRIPLVL) 3 0 → l < s.m.thm.level → Completes .junctionTripClear s fun t =>
    t.fl.trip = false ∧ t.thm = { s.m.thm with trip := false, level := l, holdFrom := s.m.thm.now, intervals := 0 } ∧
    t.rdN Reg.SNF_DOWNS = min 0xFFFFFFFF (s.m.rdN Reg.SNF_DOWNS + 1) ∧ s.m.SameBut [.fl, .thm, .reg] t) ∧
  (∀ s : State, s.m.fl.trip = false → Completes .junctionTripClear s fun t => t = s.m)

/-- Power domains and PLLs (R351 to R353, R359, R407, Table 18.2). OFF takes every page of a domain that is all STOPPED to OFF at once; the end of a switch counts, and leaves the pages of a domain that
comes on STOPPED with every register at its reset value; a fixed domain, a switch that runs, and a page that is not STOPPED refuse, with PWR_LASTERR and an error bit. A PLL that loses lock clears its flag, counts, and faults the pages it clocks; MCLK, QCLK and ACLK
fail the controller. -/
def Obligations.PowerAndClocks : Prop :=
  (∀ (s : State) (a : Agent) (d : Fin 64), s.m.domMay a = true → fixedDomain d.val = false → s.m.thm.switching = none →
    (∀ p, pageDomain p = d.val → s.m.pageSt p = .stopped) → s.m.Calm → Completes (.powerDomainOff a d) s fun t =>
    (∀ p, t.pageSt p = if pageDomain p = d.val then .off else s.m.pageSt p) ∧ t.thm.switching = some (d, false) ∧
    (d.val = 1 → t.key = { s.m.key with xport := none, lost := true } ∧ s.m.SameBut [.reg, .thm, .key] t)) ∧
  (∀ (s : State) (a : Agent) (d : Fin 64), s.m.domMay a = true → fixedDomain d.val = false → s.m.thm.switching = none →
    s.m.domainIsOn d.val = false → Completes (.powerDomainOn a d) s fun t =>
    t.thm = { s.m.thm with switching := some (d, true) } ∧ s.m.RegsBut [] t ∧ s.m.SameBut [.thm, .reg] t) ∧
  (∀ (s : State) (a : Agent) (d : Fin 64), s.m.domMay a = true → fixedDomain d.val = false → s.m.thm.switching = none →
    s.m.domainIsOn d.val = true → Completes (.powerDomainOn a d) s fun t => t = s.m) ∧
  (∀ (s : State) (a : Agent) (d : Fin 64) (c : Instr) (cause : Nat), s.m.domMay a = true →
    (c = .powerDomainOff a d ∨ c = .powerDomainOn a d) ∧
        (if fixedDomain d.val then cause = 1 else s.m.thm.switching.isSome = true ∧ cause = 2) ∨
      (c = .powerDomainOff a d ∧ fixedDomain d.val = false ∧ s.m.thm.switching = none ∧
        (∃ p, pageDomain p = d.val ∧ s.m.pageSt p ≠ .stopped) ∧ cause = 3) → s.m.Calm → Completes c s fun t =>
    t.rdN Reg.PWR_LASTERR = cause + 4 * d.val ∧ (t.hdr .pwr).err = (s.m.hdr .pwr).err ||| bit32 16 ∧
    (∀ p, t.pageSt p = s.m.pageSt p) ∧ s.m.SameBut [.reg, .pff, .adm, .alm] t) ∧
  (∀ (s : State) (h : Port) (d : Fin 64) (c : Instr), (s.m.port.get h).unlocked = false →
    c = .powerDomainOff h.agent d ∨ c = .powerDomainOn h.agent d → s.m.Calm → Completes c s fun t =>
    t.rdN (portReg h Reg.PORT_WDROP) = min 0xFFFFFFFF (s.m.rdN (portReg h Reg.PORT_WDROP) + 1) ∧
    s.m.RegsSame [portReg h Reg.PORT_WDROP] t ∧ s.m.SameBut [.reg] t) ∧
  (∀ s : State, s.m.thm.switching = none → Completes .domainSwitchEnd s fun t => t = s.m) ∧
  (∀ (s : State) (d : Fin 64) (on : Bool), s.m.thm.switching = some (d, on) → fixedDomain d.val = false → Completes .domainSwitchEnd s
    fun t =>
    t.thm.switching = none ∧ t.domainIsOn d.val = on ∧
    (∀ p, t.pageSt p = if pageDomain p = d.val then (if on then .stopped else .off) else s.m.pageSt p) ∧
    (on = true → ∀ p, p ≠ .gln → pageDomain p = d.val → t.PageClear p .stopped) ∧
    t.rdN Reg.PWR_SWITCHES = min 0xFFFFFFFF (s.m.rdN Reg.PWR_SWITCHES + 1) ∧ s.m.SameBut [.thm, .reg] t) ∧
  (∀ (s : State) (p : Pll), s.m.dev.st ≠ .failed → s.m.adm.bg = none → p = .mclk ∨ p = .qclk ∨ p = .aclk →
    s.m.Calm → Completes (.pllLossOfLock p) s fun t =>
    t.dev.st = .failed ∧ t.dev.failCause = 7 ∧ t.dev.mclk = (s.m.dev.mclk && p != .mclk) ∧ t.dev.qclk = (s.m.dev.qclk && p != .qclk) ∧
    t.dev.aclk = (s.m.dev.aclk && p != .aclk) ∧ t.rdN Reg.CLK_UNLOCK = min 0xFFFFFFFF (s.m.rdN Reg.CLK_UNLOCK + 1)) ∧
  (∀ (s : State) (p : Pll), s.m.adm.bg = none → p = .twclk ∨ (∃ g, p = .fclk g) → s.m.Calm → Completes (.pllLossOfLock p) s fun t =>
    t.dev.twclk = (s.m.dev.twclk && p != .twclk) ∧
    (∀ g : Fin 8, t.dev.fclk.getLsbD g = (s.m.dev.fclk.getLsbD g && p != .fclk g)) ∧
    (∀ x ∈ pllPages p, s.m.pageSt x = .starting ∨ s.m.pageSt x = .running ∨ s.m.pageSt x = .stopping → t.pageSt x = .faulted) ∧
    t.rdN Reg.CLK_UNLOCK = min 0xFFFFFFFF (s.m.rdN Reg.CLK_UNLOCK + 1)) ∧
  (∀ (s : State) (p : Pll), (s.m.setLock p true).canBoot = false → Completes (.pllLock p) s fun t =>
    t.dev.mclk = (s.m.dev.mclk || p == .mclk) ∧ t.dev.qclk = (s.m.dev.qclk || p == .qclk) ∧ t.dev.aclk = (s.m.dev.aclk || p == .aclk) ∧
    t.dev.twclk = (s.m.dev.twclk || p == .twclk) ∧ (∀ g : Fin 8, t.dev.fclk.getLsbD g = (s.m.dev.fclk.getLsbD g || p == .fclk g)) ∧
    t.dev.stage = s.m.dev.stage ∧ s.m.SameBut [.dev] t) ∧
  (∀ (s : State) (p : Pll), (s.m.setLock p true).canBoot = true → Completes (.pllLock p) s fun t =>
    t.dev.stage = 1 ∧ t.domainIsOn 1 = true ∧ t.domainIsOn 3 = true ∧ t.domainIsOn 4 = true ∧ s.m.SameBut [.dev, .thm, .reg] t)

/-! ### The Almanac -/

/-- The Almanac's own commands (R363, R364, R366 to R371, R373). The seal's timeout seals the open record, which leaves to PFF0 where it is exported; a batch and a flush leave every record of the
ring persisted; where ring pages cannot be written the flush waits. A TIME event is due 64 POT units after the last record; the snapshot leaves one pinned record of every quantity;
POT advances while power is good. -/
def Obligations.Almanac : Prop :=
  (∀ s : State, s.m.alm.opn = none → Completes .recordSealTimeout s fun t => t = s.m) ∧
  (∀ (s : State) (i : Nat) (r : AlmRec), s.m.alm.opn = some i → s.m.almAt i = some r → r.sev ≠ .crit →
    bitOf (s.m.rdN Reg.ALM_EXPORT) 2 = false ∨ r.sev.num < bits (s.m.rdN Reg.ALM_EXPORT) 1 0 → Completes .recordSealTimeout s fun t =>
    t.alm = { s.m.alm with opn := none } ∧ s.m.SameBut [.alm] t) ∧
  (∀ (s : State) (i : Nat) (r : AlmRec), s.m.alm.opn = some i → s.m.almAt i = some r → r.sev ≠ .crit →
    bitOf (s.m.rdN Reg.ALM_EXPORT) 2 = true → bits (s.m.rdN Reg.ALM_EXPORT) 1 0 ≤ r.sev.num → 32 ≤ s.m.pffFree 0 →
    (s.m.fifo 0).stalled = none → s.m.running (.pff 0) = true → (s.m.fifo 0).opn = [] → Completes .recordSealTimeout s fun t =>
    t.alm = { s.m.alm with opn := none } ∧ (t.fifo 0).hidden = (s.m.fifo 0).hidden ++ [r.words] ∧ s.m.SameBut [.alm, .pff] t) ∧
  (∀ (s : State) (i : Nat) (r : AlmRec), s.m.alm.opn = some i → s.m.almAt i = some r → r.sev ≠ .crit →
    bitOf (s.m.rdN Reg.ALM_EXPORT) 2 = true → bits (s.m.rdN Reg.ALM_EXPORT) 1 0 ≤ r.sev.num → s.m.pffFree 0 < 32 →
    Completes .recordSealTimeout s fun t =>
    t.alm = { s.m.alm with opn := none } ∧ t.rdN Reg.ALM_EXPDROP = min 0xFFFFFFFF (s.m.rdN Reg.ALM_EXPDROP + 1) ∧
    s.m.RegsSame [Reg.ALM_EXPDROP] t ∧ s.m.SameBut [.alm, .reg] t) ∧
  (∀ (s : State) (bad : List Nat) (ok : Bool), s.m.almBuffered = true ∨ s.m.almCanWrite = false ∨ s.m.almUnpersisted = [] →
    Completes (.batchTimeout bad ok) s fun t => t = s.m) ∧
  (∀ s : State, s.m.almBuffered = false → s.m.almCanWrite = true → s.m.almUnpersisted ≠ [] →
    s.m.alm.pers.length + s.m.almUnpersisted.length ≤ 131072 → Completes (.batchTimeout [] true) s fun t =>
    (∀ e ∈ t.alm.ring, e.2.persisted = true) ∧ t.alm.opn = none ∧
    t.alm.pers = s.m.alm.pers ++ s.m.almUnpersisted.map (fun r => { r with persisted := true }) ∧
    t.alm.ring.map (·.1) = s.m.alm.ring.map (·.1) ∧ s.m.SameBut [.alm, .reg, .pff, .adm] t) ∧
  (∀ (s : State) (h : Port) (on : Bool) (c : Instr), c = .almFlushRequest h.agent ∨ c = .almBufreqWrite h.agent on → Completes c s
    fun t =>
    t.rdN (portReg h Reg.PORT_WDROP) = min 0xFFFFFFFF (s.m.rdN (portReg h Reg.PORT_WDROP) + 1) ∧
    s.m.RegsSame [portReg h Reg.PORT_WDROP] t ∧ s.m.SameBut [.reg] t) ∧
  (∀ s : State, s.m.almCanWrite = false → Completes (.almFlushRequest .mgmt) s fun t =>
    t.alm = { s.m.alm with flushing := true } ∧ s.m.SameBut [.alm] t) ∧
  (∀ s : State, s.m.almCanWrite = true → Completes (.almFlushRequest .mgmt) s fun t =>
    t.alm.flushing = false ∧ (∀ e ∈ t.alm.ring, e.2.persisted = true) ∧ t.alm.opn = none ∧ s.m.SameBut [.alm, .reg, .pff, .adm] t) ∧
  (∀ (s : State) (on : Bool), s.m.almBuffered = false ∨ on = true ∨ s.m.alm.buffered = true ∨ s.m.dev.recovery = true →
    Completes (.almBufreqWrite .mgmt on) s fun t =>
    t.alm = { s.m.alm with bufReq := on } ∧ t.rd Reg.ALM_CTRL = (if on then 1 else 0) ∧ s.m.RegsBut [Reg.ALM_CTRL] t ∧
    s.m.SameBut [.alm, .reg] t) ∧
  (∀ s : State, s.m.alm.bufReq = true → s.m.alm.buffered = false → s.m.dev.recovery = false → s.m.almCanWrite = true →
    Completes (.almBufreqWrite .mgmt false) s fun t =>
    t.alm.bufReq = false ∧ t.almBuffered = false ∧ (∀ e ∈ t.alm.ring, e.2.persisted = true) ∧ t.rd Reg.ALM_CTRL = 0 ∧
    s.m.SameBut [.alm, .reg, .pff, .adm] t) ∧
  (∀ s : State, s.m.dev.pwrgd = false ∨ (s.m.alm.pot - s.m.alm.lastPot).toNat < 64 → Completes .timeEvent s fun t => t = s.m) ∧
  (∀ (s : State) (i : Nat), s.m.dev.pwrgd = true → 64 ≤ (s.m.alm.pot - s.m.alm.lastPot).toNat → s.m.almBuffered = true →
    s.m.alm.opn = none → s.m.almFreeSlot = some i → Completes .timeEvent s fun t =>
    t.almAt i = some { seq := s.m.alm.nextSeq, pot := s.m.alm.pot, pcc := s.m.alm.pcc, sev := .info, src := 1, rep := 0, pinned := false
                       body := .event 0x0101 0 0 [], persisted := false } ∧
    (∀ j, j ≠ i → t.almAt j = s.m.almAt j) ∧ t.alm.opn = some i ∧ t.alm.lastPot = s.m.alm.pot ∧
    t.alm.nextSeq = s.m.alm.nextSeq + 1 ∧ s.m.RegsBut [] t ∧ s.m.SameBut [.alm, .reg] t) ∧
  (∀ s : State, s.m.dev.pwrgd = false → Completes .almanacSnapshot s fun t => t = s.m) ∧
  (∀ s : State, s.m.dev.pwrgd = true → s.m.almBuffered = true → s.m.alm.ring = [] → s.m.alm.opn = none → Completes .almanacSnapshot s
    fun t =>
    (∀ q ∈ quantities, ∃ e ∈ t.alm.ring, e.2.body.isQty q.1 = true ∧ e.2.pinned = true ∧ e.2.sev = .info) ∧
    t.alm.ring.length = quantities.length ∧ t.alm.nextSeq = s.m.alm.nextSeq + BitVec.ofNat 32 quantities.length ∧
    s.m.SameBut [.alm, .reg, .pff] t) ∧
  (∀ s : State, s.m.dev.pwrgd = true → Completes .potAdvance s fun t =>
    t.alm = { s.m.alm with pot := s.m.alm.pot + 1 } ∧ s.m.RegsBut [] t ∧ s.m.SameBut [.alm, .reg] t) ∧
  (∀ s : State, s.m.dev.pwrgd = false → Completes .potAdvance s fun t => t = s.m)

/-! ### The test access port -/

/-- The TAP (R447, Table 22.9). IDCODE gives the part's identity, whose bits Table 22.9 fixes but for the maker's code; SAMPLE/PRELOAD captures the pins, which is a free value of each draw; BYPASS gives its bit. EXTEST,
HIGHZ and CLAMP take effect only while RESET_N is low: at any other time each acts as BYPASS. Nothing else of the part changes. -/
def Obligations.TestAccessPort : Prop :=
  (∀ s : State, Completes .idcode s fun t => t.tap = .idcode ∧ s.m.Sent [.tdo .idcode idcodeWord] t ∧ s.m.SameBut [.tap, .out] t) ∧
  (idcodeWord.getLsbD 0 = true ∧ idcodeWord.extractLsb' 12 16 = 0x7140 ∧ idcodeWord.extractLsb' 28 4 = 2) ∧
  (∀ s : State, Completes .samplePreload s fun t => t.tap = .sample ∧ s.m.Sent [.tdo .sample (Config.boundary s.m.free)] t ∧
    t.free = s.m.free + 1 ∧ s.m.SameBut [.tap, .out, .free] t) ∧
  (∀ s : State, Completes .bypass s fun t => t.tap = .bypass ∧ s.m.Sent [.tdo .bypass 0] t ∧ s.m.SameBut [.tap, .out] t) ∧
  (∀ (s : State) (c : Instr), s.m.dev.resetN = true → c = .extest ∨ c = .highz ∨ c = .clamp → Completes c s fun t =>
    t.tap = .bypass ∧ s.m.Sent [.tdo .bypass 0] t ∧ s.m.SameBut [.tap, .out] t) ∧
  (∀ (s : State) (c : Instr) (i : TapIr), s.m.dev.resetN = false → (c = .highz ∧ i = .highz) ∨ (c = .clamp ∧ i = .clamp) →
    Completes c s fun t => t.tap = i ∧ s.m.Sent [.tdo i 0] t ∧ s.m.SameBut [.tap, .out] t) ∧
  (∀ s : State, s.m.dev.resetN = false → Completes .extest s fun t =>
    t.tap = .extest ∧ s.m.Sent [.tdo .extest (Config.boundary s.m.free)] t ∧ t.free = s.m.free + 1 ∧ s.m.SameBut [.tap, .out, .free] t)

/-! ### Whole-machine rules -/

/-- Every step keeps it (R447): while RESET_N is high, the test access port holds no instruction that drives the pins. -/
def Obligations.StepKeepsTheTapSafe : Prop := ∀ s t : State, s.m.tapSafe → step s = .next t → t.m.tapSafe

/-- No step lowers the security version floor (R143, Table 06.6): whatever command is at the front of the queue, SVFLOOR after it is at least what it was. -/
def Obligations.StepNeverLowersTheSecurityFloor : Prop := ∀ s t : State, step s = .next t → s.m.adm.svFloor ≤ t.m.adm.svFloor
end

