-- ==== Sys2Proof/Laws/SMap.lean ====
section
/-! SUPPORT. The laws of sparse maps: a read after a write, and that every operation keeps the canonical form. -/

namespace Sys2Proof.Machine

-- One proof at a time: proofs that wait for each other would each hold a thread and its stack.
set_option Elab.async false

variable {α : Type}

@[simp] theorem SMap.get_nil (d : α) (k : Nat) : SMap.get d [] k = d := rfl

theorem SMap.get_put_same (d : α) (m : SMap α) (k : Nat) (v : α) : SMap.get d (SMap.put m k v) k = v := by
  induction m with
  | nil => simp [SMap.put, SMap.get]
  | cons e m ih =>
    obtain ⟨k', v'⟩ := e
    simp only [SMap.put]
    split
    · simp [SMap.get]
    · split
      · simp [SMap.get]
      · rename_i h _
        simp [SMap.get, h, ih]

theorem SMap.get_put_ne (d : α) (m : SMap α) (k j : Nat) (v : α) (h : j ≠ k) : SMap.get d (SMap.put m k v) j = SMap.get d m j := by
  induction m with
  | nil => simp [SMap.put, SMap.get, h]
  | cons e m ih =>
    obtain ⟨k', v'⟩ := e
    simp only [SMap.put]
    split
    · rename_i hk
      subst hk
      simp [SMap.get, h]
    · split
      · simp [SMap.get, h]
      · simp only [SMap.get, ih]

theorem SMap.get_del_same (d : α) (m : SMap α) (k : Nat) : SMap.get d (SMap.del m k) k = d := by
  induction m with
  | nil => rfl
  | cons e m ih =>
    obtain ⟨k', v'⟩ := e
    simp only [SMap.del]
    split
    · exact ih
    · rename_i h
      simp [SMap.get, h, ih]

theorem SMap.get_del_ne (d : α) (m : SMap α) (k j : Nat) (h : j ≠ k) : SMap.get d (SMap.del m k) j = SMap.get d m j := by
  induction m with
  | nil => rfl
  | cons e m ih =>
    obtain ⟨k', v'⟩ := e
    simp only [SMap.del]
    split
    · rename_i hk
      subst hk
      simp [SMap.get, h, ih]
    · simp only [SMap.get, ih]

/-- A read after a write to the same key gives the value written. -/
@[simp] theorem SMap.get_set_same [DecidableEq α] (d : α) (m : SMap α) (k : Nat) (v : α) : SMap.get d (SMap.set d m k v) k = v := by
  unfold SMap.set
  split
  · rename_i h
    rw [h, SMap.get_del_same]
  · rw [SMap.get_put_same]

/-- A write leaves every other key alone. -/
theorem SMap.get_set_ne [DecidableEq α] (d e : α) (m : SMap α) (k j : Nat) (v : α) (h : j ≠ k) :
    SMap.get e (SMap.set d m k v) j = SMap.get e m j := by
  unfold SMap.set
  split
  · rw [SMap.get_del_ne _ _ _ _ h]
  · rw [SMap.get_put_ne _ _ _ _ _ h]

theorem SMap.get_set [DecidableEq α] (d : α) (m : SMap α) (k j : Nat) (v : α) :
    SMap.get d (SMap.set d m k v) j = if j = k then v else SMap.get d m j := by
  split
  · rename_i h
    rw [h, SMap.get_set_same]
  · rename_i h
    rw [SMap.get_set_ne _ _ _ _ _ _ h]

/-! ### The canonical form -/

theorem SMap.rising_mono (m : SMap α) {a b : Nat} (h : b ≤ a) (r : SMap.rising m a = true) : SMap.rising m b = true := by
  cases m with
  | nil => rfl
  | cons e m =>
    obtain ⟨k, v⟩ := e
    simp only [SMap.rising, Bool.and_eq_true, decide_eq_true_eq] at r ⊢
    exact ⟨by omega, r.2⟩

theorem SMap.rising_put (m : SMap α) (k lo : Nat) (v : α) (h : lo ≤ k) (r : SMap.rising m lo = true) :
    SMap.rising (SMap.put m k v) lo = true := by
  induction m generalizing lo with
  | nil => simp [SMap.put, SMap.rising, h]
  | cons e m ih =>
    obtain ⟨k', v'⟩ := e
    simp only [SMap.rising, Bool.and_eq_true, decide_eq_true_eq] at r
    simp only [SMap.put]
    split
    · rename_i hk
      subst hk
      simp [SMap.rising, h, r.2]
    · split
      · rename_i hk
        simp only [SMap.rising, Bool.and_eq_true, decide_eq_true_eq]
        exact ⟨h, by omega, r.2⟩
      · simp only [SMap.rising, Bool.and_eq_true, decide_eq_true_eq]
        exact ⟨r.1, ih _ (by omega) r.2⟩

theorem SMap.rising_del (m : SMap α) (k lo : Nat) (r : SMap.rising m lo = true) : SMap.rising (SMap.del m k) lo = true := by
  induction m generalizing lo with
  | nil => rfl
  | cons e m ih =>
    obtain ⟨k', v'⟩ := e
    simp only [SMap.rising, Bool.and_eq_true, decide_eq_true_eq] at r
    simp only [SMap.del]
    split
    · exact SMap.rising_mono _ (by omega) (ih _ r.2)
    · simp only [SMap.rising, Bool.and_eq_true, decide_eq_true_eq]
      exact ⟨r.1, ih _ r.2⟩

theorem SMap.mem_put {m : SMap α} {k : Nat} {v : α} {e : Nat × α} (h : e ∈ SMap.put m k v) : e = (k, v) ∨ e ∈ m := by
  induction m with
  | nil => simpa [SMap.put] using h
  | cons x m ih =>
    obtain ⟨k', v'⟩ := x
    simp only [SMap.put] at h
    split at h
    · rcases List.mem_cons.1 h with h | h
      · exact .inl h
      · exact .inr (List.mem_cons_of_mem _ h)
    · split at h
      · rcases List.mem_cons.1 h with h | h
        · exact .inl h
        · exact .inr h
      · rcases List.mem_cons.1 h with h | h
        · exact .inr (h ▸ List.mem_cons_self)
        · rcases ih h with h | h
          · exact .inl h
          · exact .inr (List.mem_cons_of_mem _ h)

theorem SMap.mem_del {m : SMap α} {k : Nat} {e : Nat × α} (h : e ∈ SMap.del m k) : e ∈ m := by
  induction m with
  | nil => exact h
  | cons x m ih =>
    obtain ⟨k', v'⟩ := x
    simp only [SMap.del] at h
    split at h
    · exact List.mem_cons_of_mem _ (ih h)
    · rcases List.mem_cons.1 h with h | h
      · exact h ▸ List.mem_cons_self
      · exact List.mem_cons_of_mem _ (ih h)

/-- Writing keeps the canonical form; the value an unlisted key reads as may depend on the key. -/
theorem SMap.wf_set [DecidableEq α] (d : Nat → α) (m : SMap α) (k : Nat) (v : α) (h : SMap.wf d m = true) :
    SMap.wf d (SMap.set (d k) m k v) = true := by
  simp only [SMap.wf, Bool.and_eq_true, List.all_eq_true, decide_eq_true_eq] at h ⊢
  unfold SMap.set
  split
  · exact ⟨SMap.rising_del _ _ _ h.1, fun e he => h.2 e (SMap.mem_del he)⟩
  · rename_i hv
    refine ⟨SMap.rising_put _ _ _ _ (Nat.zero_le _) h.1, fun e he => ?_⟩
    rcases SMap.mem_put he with he | he
    · subst he; exact hv
    · exact h.2 e he

@[simp] theorem SMap.wf_nil [DecidableEq α] (d : Nat → α) : SMap.wf d ([] : SMap α) = true := rfl

end Sys2Proof.Machine
end

