-- ==== Sys2Proof/Laws/State.lean ====
section
/-! SUPPORT. One lemma per field per update of the state: what each update writes, and that it leaves every other field. -/

namespace Sys2Proof.Machine

-- One proof at a time: proofs that wait for each other would each hold a thread and its stack.
set_option Elab.async false

@[simp] theorem Mach.updDev_dev (f) (m : Mach) : (m.updDev f).dev = f m.dev := (rfl)
@[simp] theorem Mach.updDev_reg (f) (m : Mach) : (m.updDev f).reg = m.reg := (rfl)
@[simp] theorem Mach.updDev_pff (f) (m : Mach) : (m.updDev f).pff = m.pff := (rfl)
@[simp] theorem Mach.updDev_port (f) (m : Mach) : (m.updDev f).port = m.port := (rfl)
@[simp] theorem Mach.updDev_adm (f) (m : Mach) : (m.updDev f).adm = m.adm := (rfl)
@[simp] theorem Mach.updDev_q (f) (m : Mach) : (m.updDev f).q = m.q := (rfl)
@[simp] theorem Mach.updDev_vol (f) (m : Mach) : (m.updDev f).vol = m.vol := (rfl)
@[simp] theorem Mach.updDev_buf (f) (m : Mach) : (m.updDev f).buf = m.buf := (rfl)
@[simp] theorem Mach.updDev_lamp (f) (m : Mach) : (m.updDev f).lamp = m.lamp := (rfl)
@[simp] theorem Mach.updDev_fl (f) (m : Mach) : (m.updDev f).fl = m.fl := (rfl)
@[simp] theorem Mach.updDev_gln (f) (m : Mach) : (m.updDev f).gln = m.gln := (rfl)
@[simp] theorem Mach.updDev_hdl (f) (m : Mach) : (m.updDev f).hdl = m.hdl := (rfl)
@[simp] theorem Mach.updDev_drc (f) (m : Mach) : (m.updDev f).drc = m.drc := (rfl)
@[simp] theorem Mach.updDev_key (f) (m : Mach) : (m.updDev f).key = m.key := (rfl)
@[simp] theorem Mach.updDev_thm (f) (m : Mach) : (m.updDev f).thm = m.thm := (rfl)
@[simp] theorem Mach.updDev_alm (f) (m : Mach) : (m.updDev f).alm = m.alm := (rfl)
@[simp] theorem Mach.updDev_twn (f) (m : Mach) : (m.updDev f).twn = m.twn := (rfl)
@[simp] theorem Mach.updDev_tap (f) (m : Mach) : (m.updDev f).tap = m.tap := (rfl)
@[simp] theorem Mach.updDev_out (f) (m : Mach) : (m.updDev f).out = m.out := (rfl)
@[simp] theorem Mach.updDev_free (f) (m : Mach) : (m.updDev f).free = m.free := (rfl)
@[simp] theorem Mach.updReg_dev (f) (m : Mach) : (m.updReg f).dev = m.dev := (rfl)
@[simp] theorem Mach.updReg_reg (f) (m : Mach) : (m.updReg f).reg = f m.reg := (rfl)
@[simp] theorem Mach.updReg_pff (f) (m : Mach) : (m.updReg f).pff = m.pff := (rfl)
@[simp] theorem Mach.updReg_port (f) (m : Mach) : (m.updReg f).port = m.port := (rfl)
@[simp] theorem Mach.updReg_adm (f) (m : Mach) : (m.updReg f).adm = m.adm := (rfl)
@[simp] theorem Mach.updReg_q (f) (m : Mach) : (m.updReg f).q = m.q := (rfl)
@[simp] theorem Mach.updReg_vol (f) (m : Mach) : (m.updReg f).vol = m.vol := (rfl)
@[simp] theorem Mach.updReg_buf (f) (m : Mach) : (m.updReg f).buf = m.buf := (rfl)
@[simp] theorem Mach.updReg_lamp (f) (m : Mach) : (m.updReg f).lamp = m.lamp := (rfl)
@[simp] theorem Mach.updReg_fl (f) (m : Mach) : (m.updReg f).fl = m.fl := (rfl)
@[simp] theorem Mach.updReg_gln (f) (m : Mach) : (m.updReg f).gln = m.gln := (rfl)
@[simp] theorem Mach.updReg_hdl (f) (m : Mach) : (m.updReg f).hdl = m.hdl := (rfl)
@[simp] theorem Mach.updReg_drc (f) (m : Mach) : (m.updReg f).drc = m.drc := (rfl)
@[simp] theorem Mach.updReg_key (f) (m : Mach) : (m.updReg f).key = m.key := (rfl)
@[simp] theorem Mach.updReg_thm (f) (m : Mach) : (m.updReg f).thm = m.thm := (rfl)
@[simp] theorem Mach.updReg_alm (f) (m : Mach) : (m.updReg f).alm = m.alm := (rfl)
@[simp] theorem Mach.updReg_twn (f) (m : Mach) : (m.updReg f).twn = m.twn := (rfl)
@[simp] theorem Mach.updReg_tap (f) (m : Mach) : (m.updReg f).tap = m.tap := (rfl)
@[simp] theorem Mach.updReg_out (f) (m : Mach) : (m.updReg f).out = m.out := (rfl)
@[simp] theorem Mach.updReg_free (f) (m : Mach) : (m.updReg f).free = m.free := (rfl)
@[simp] theorem Mach.updPff_dev (f) (m : Mach) : (m.updPff f).dev = m.dev := (rfl)
@[simp] theorem Mach.updPff_reg (f) (m : Mach) : (m.updPff f).reg = m.reg := (rfl)
@[simp] theorem Mach.updPff_pff (f) (m : Mach) : (m.updPff f).pff = f m.pff := (rfl)
@[simp] theorem Mach.updPff_port (f) (m : Mach) : (m.updPff f).port = m.port := (rfl)
@[simp] theorem Mach.updPff_adm (f) (m : Mach) : (m.updPff f).adm = m.adm := (rfl)
@[simp] theorem Mach.updPff_q (f) (m : Mach) : (m.updPff f).q = m.q := (rfl)
@[simp] theorem Mach.updPff_vol (f) (m : Mach) : (m.updPff f).vol = m.vol := (rfl)
@[simp] theorem Mach.updPff_buf (f) (m : Mach) : (m.updPff f).buf = m.buf := (rfl)
@[simp] theorem Mach.updPff_lamp (f) (m : Mach) : (m.updPff f).lamp = m.lamp := (rfl)
@[simp] theorem Mach.updPff_fl (f) (m : Mach) : (m.updPff f).fl = m.fl := (rfl)
@[simp] theorem Mach.updPff_gln (f) (m : Mach) : (m.updPff f).gln = m.gln := (rfl)
@[simp] theorem Mach.updPff_hdl (f) (m : Mach) : (m.updPff f).hdl = m.hdl := (rfl)
@[simp] theorem Mach.updPff_drc (f) (m : Mach) : (m.updPff f).drc = m.drc := (rfl)
@[simp] theorem Mach.updPff_key (f) (m : Mach) : (m.updPff f).key = m.key := (rfl)
@[simp] theorem Mach.updPff_thm (f) (m : Mach) : (m.updPff f).thm = m.thm := (rfl)
@[simp] theorem Mach.updPff_alm (f) (m : Mach) : (m.updPff f).alm = m.alm := (rfl)
@[simp] theorem Mach.updPff_twn (f) (m : Mach) : (m.updPff f).twn = m.twn := (rfl)
@[simp] theorem Mach.updPff_tap (f) (m : Mach) : (m.updPff f).tap = m.tap := (rfl)
@[simp] theorem Mach.updPff_out (f) (m : Mach) : (m.updPff f).out = m.out := (rfl)
@[simp] theorem Mach.updPff_free (f) (m : Mach) : (m.updPff f).free = m.free := (rfl)
@[simp] theorem Mach.updAdm_dev (f) (m : Mach) : (m.updAdm f).dev = m.dev := (rfl)
@[simp] theorem Mach.updAdm_reg (f) (m : Mach) : (m.updAdm f).reg = m.reg := (rfl)
@[simp] theorem Mach.updAdm_pff (f) (m : Mach) : (m.updAdm f).pff = m.pff := (rfl)
@[simp] theorem Mach.updAdm_port (f) (m : Mach) : (m.updAdm f).port = m.port := (rfl)
@[simp] theorem Mach.updAdm_adm (f) (m : Mach) : (m.updAdm f).adm = f m.adm := (rfl)
@[simp] theorem Mach.updAdm_q (f) (m : Mach) : (m.updAdm f).q = m.q := (rfl)
@[simp] theorem Mach.updAdm_vol (f) (m : Mach) : (m.updAdm f).vol = m.vol := (rfl)
@[simp] theorem Mach.updAdm_buf (f) (m : Mach) : (m.updAdm f).buf = m.buf := (rfl)
@[simp] theorem Mach.updAdm_lamp (f) (m : Mach) : (m.updAdm f).lamp = m.lamp := (rfl)
@[simp] theorem Mach.updAdm_fl (f) (m : Mach) : (m.updAdm f).fl = m.fl := (rfl)
@[simp] theorem Mach.updAdm_gln (f) (m : Mach) : (m.updAdm f).gln = m.gln := (rfl)
@[simp] theorem Mach.updAdm_hdl (f) (m : Mach) : (m.updAdm f).hdl = m.hdl := (rfl)
@[simp] theorem Mach.updAdm_drc (f) (m : Mach) : (m.updAdm f).drc = m.drc := (rfl)
@[simp] theorem Mach.updAdm_key (f) (m : Mach) : (m.updAdm f).key = m.key := (rfl)
@[simp] theorem Mach.updAdm_thm (f) (m : Mach) : (m.updAdm f).thm = m.thm := (rfl)
@[simp] theorem Mach.updAdm_alm (f) (m : Mach) : (m.updAdm f).alm = m.alm := (rfl)
@[simp] theorem Mach.updAdm_twn (f) (m : Mach) : (m.updAdm f).twn = m.twn := (rfl)
@[simp] theorem Mach.updAdm_tap (f) (m : Mach) : (m.updAdm f).tap = m.tap := (rfl)
@[simp] theorem Mach.updAdm_out (f) (m : Mach) : (m.updAdm f).out = m.out := (rfl)
@[simp] theorem Mach.updAdm_free (f) (m : Mach) : (m.updAdm f).free = m.free := (rfl)
@[simp] theorem Mach.updQ_dev (f) (m : Mach) : (m.updQ f).dev = m.dev := (rfl)
@[simp] theorem Mach.updQ_reg (f) (m : Mach) : (m.updQ f).reg = m.reg := (rfl)
@[simp] theorem Mach.updQ_pff (f) (m : Mach) : (m.updQ f).pff = m.pff := (rfl)
@[simp] theorem Mach.updQ_port (f) (m : Mach) : (m.updQ f).port = m.port := (rfl)
@[simp] theorem Mach.updQ_adm (f) (m : Mach) : (m.updQ f).adm = m.adm := (rfl)
@[simp] theorem Mach.updQ_q (f) (m : Mach) : (m.updQ f).q = f m.q := (rfl)
@[simp] theorem Mach.updQ_vol (f) (m : Mach) : (m.updQ f).vol = m.vol := (rfl)
@[simp] theorem Mach.updQ_buf (f) (m : Mach) : (m.updQ f).buf = m.buf := (rfl)
@[simp] theorem Mach.updQ_lamp (f) (m : Mach) : (m.updQ f).lamp = m.lamp := (rfl)
@[simp] theorem Mach.updQ_fl (f) (m : Mach) : (m.updQ f).fl = m.fl := (rfl)
@[simp] theorem Mach.updQ_gln (f) (m : Mach) : (m.updQ f).gln = m.gln := (rfl)
@[simp] theorem Mach.updQ_hdl (f) (m : Mach) : (m.updQ f).hdl = m.hdl := (rfl)
@[simp] theorem Mach.updQ_drc (f) (m : Mach) : (m.updQ f).drc = m.drc := (rfl)
@[simp] theorem Mach.updQ_key (f) (m : Mach) : (m.updQ f).key = m.key := (rfl)
@[simp] theorem Mach.updQ_thm (f) (m : Mach) : (m.updQ f).thm = m.thm := (rfl)
@[simp] theorem Mach.updQ_alm (f) (m : Mach) : (m.updQ f).alm = m.alm := (rfl)
@[simp] theorem Mach.updQ_twn (f) (m : Mach) : (m.updQ f).twn = m.twn := (rfl)
@[simp] theorem Mach.updQ_tap (f) (m : Mach) : (m.updQ f).tap = m.tap := (rfl)
@[simp] theorem Mach.updQ_out (f) (m : Mach) : (m.updQ f).out = m.out := (rfl)
@[simp] theorem Mach.updQ_free (f) (m : Mach) : (m.updQ f).free = m.free := (rfl)
@[simp] theorem Mach.updVol_dev (f) (m : Mach) : (m.updVol f).dev = m.dev := (rfl)
@[simp] theorem Mach.updVol_reg (f) (m : Mach) : (m.updVol f).reg = m.reg := (rfl)
@[simp] theorem Mach.updVol_pff (f) (m : Mach) : (m.updVol f).pff = m.pff := (rfl)
@[simp] theorem Mach.updVol_port (f) (m : Mach) : (m.updVol f).port = m.port := (rfl)
@[simp] theorem Mach.updVol_adm (f) (m : Mach) : (m.updVol f).adm = m.adm := (rfl)
@[simp] theorem Mach.updVol_q (f) (m : Mach) : (m.updVol f).q = m.q := (rfl)
@[simp] theorem Mach.updVol_vol (f) (m : Mach) : (m.updVol f).vol = f m.vol := (rfl)
@[simp] theorem Mach.updVol_buf (f) (m : Mach) : (m.updVol f).buf = m.buf := (rfl)
@[simp] theorem Mach.updVol_lamp (f) (m : Mach) : (m.updVol f).lamp = m.lamp := (rfl)
@[simp] theorem Mach.updVol_fl (f) (m : Mach) : (m.updVol f).fl = m.fl := (rfl)
@[simp] theorem Mach.updVol_gln (f) (m : Mach) : (m.updVol f).gln = m.gln := (rfl)
@[simp] theorem Mach.updVol_hdl (f) (m : Mach) : (m.updVol f).hdl = m.hdl := (rfl)
@[simp] theorem Mach.updVol_drc (f) (m : Mach) : (m.updVol f).drc = m.drc := (rfl)
@[simp] theorem Mach.updVol_key (f) (m : Mach) : (m.updVol f).key = m.key := (rfl)
@[simp] theorem Mach.updVol_thm (f) (m : Mach) : (m.updVol f).thm = m.thm := (rfl)
@[simp] theorem Mach.updVol_alm (f) (m : Mach) : (m.updVol f).alm = m.alm := (rfl)
@[simp] theorem Mach.updVol_twn (f) (m : Mach) : (m.updVol f).twn = m.twn := (rfl)
@[simp] theorem Mach.updVol_tap (f) (m : Mach) : (m.updVol f).tap = m.tap := (rfl)
@[simp] theorem Mach.updVol_out (f) (m : Mach) : (m.updVol f).out = m.out := (rfl)
@[simp] theorem Mach.updVol_free (f) (m : Mach) : (m.updVol f).free = m.free := (rfl)
@[simp] theorem Mach.updBuf_dev (f) (m : Mach) : (m.updBuf f).dev = m.dev := (rfl)
@[simp] theorem Mach.updBuf_reg (f) (m : Mach) : (m.updBuf f).reg = m.reg := (rfl)
@[simp] theorem Mach.updBuf_pff (f) (m : Mach) : (m.updBuf f).pff = m.pff := (rfl)
@[simp] theorem Mach.updBuf_port (f) (m : Mach) : (m.updBuf f).port = m.port := (rfl)
@[simp] theorem Mach.updBuf_adm (f) (m : Mach) : (m.updBuf f).adm = m.adm := (rfl)
@[simp] theorem Mach.updBuf_q (f) (m : Mach) : (m.updBuf f).q = m.q := (rfl)
@[simp] theorem Mach.updBuf_vol (f) (m : Mach) : (m.updBuf f).vol = m.vol := (rfl)
@[simp] theorem Mach.updBuf_buf (f) (m : Mach) : (m.updBuf f).buf = f m.buf := (rfl)
@[simp] theorem Mach.updBuf_lamp (f) (m : Mach) : (m.updBuf f).lamp = m.lamp := (rfl)
@[simp] theorem Mach.updBuf_fl (f) (m : Mach) : (m.updBuf f).fl = m.fl := (rfl)
@[simp] theorem Mach.updBuf_gln (f) (m : Mach) : (m.updBuf f).gln = m.gln := (rfl)
@[simp] theorem Mach.updBuf_hdl (f) (m : Mach) : (m.updBuf f).hdl = m.hdl := (rfl)
@[simp] theorem Mach.updBuf_drc (f) (m : Mach) : (m.updBuf f).drc = m.drc := (rfl)
@[simp] theorem Mach.updBuf_key (f) (m : Mach) : (m.updBuf f).key = m.key := (rfl)
@[simp] theorem Mach.updBuf_thm (f) (m : Mach) : (m.updBuf f).thm = m.thm := (rfl)
@[simp] theorem Mach.updBuf_alm (f) (m : Mach) : (m.updBuf f).alm = m.alm := (rfl)
@[simp] theorem Mach.updBuf_twn (f) (m : Mach) : (m.updBuf f).twn = m.twn := (rfl)
@[simp] theorem Mach.updBuf_tap (f) (m : Mach) : (m.updBuf f).tap = m.tap := (rfl)
@[simp] theorem Mach.updBuf_out (f) (m : Mach) : (m.updBuf f).out = m.out := (rfl)
@[simp] theorem Mach.updBuf_free (f) (m : Mach) : (m.updBuf f).free = m.free := (rfl)
@[simp] theorem Mach.updLamp_dev (f) (m : Mach) : (m.updLamp f).dev = m.dev := (rfl)
@[simp] theorem Mach.updLamp_reg (f) (m : Mach) : (m.updLamp f).reg = m.reg := (rfl)
@[simp] theorem Mach.updLamp_pff (f) (m : Mach) : (m.updLamp f).pff = m.pff := (rfl)
@[simp] theorem Mach.updLamp_port (f) (m : Mach) : (m.updLamp f).port = m.port := (rfl)
@[simp] theorem Mach.updLamp_adm (f) (m : Mach) : (m.updLamp f).adm = m.adm := (rfl)
@[simp] theorem Mach.updLamp_q (f) (m : Mach) : (m.updLamp f).q = m.q := (rfl)
@[simp] theorem Mach.updLamp_vol (f) (m : Mach) : (m.updLamp f).vol = m.vol := (rfl)
@[simp] theorem Mach.updLamp_buf (f) (m : Mach) : (m.updLamp f).buf = m.buf := (rfl)
@[simp] theorem Mach.updLamp_lamp (f) (m : Mach) : (m.updLamp f).lamp = f m.lamp := (rfl)
@[simp] theorem Mach.updLamp_fl (f) (m : Mach) : (m.updLamp f).fl = m.fl := (rfl)
@[simp] theorem Mach.updLamp_gln (f) (m : Mach) : (m.updLamp f).gln = m.gln := (rfl)
@[simp] theorem Mach.updLamp_hdl (f) (m : Mach) : (m.updLamp f).hdl = m.hdl := (rfl)
@[simp] theorem Mach.updLamp_drc (f) (m : Mach) : (m.updLamp f).drc = m.drc := (rfl)
@[simp] theorem Mach.updLamp_key (f) (m : Mach) : (m.updLamp f).key = m.key := (rfl)
@[simp] theorem Mach.updLamp_thm (f) (m : Mach) : (m.updLamp f).thm = m.thm := (rfl)
@[simp] theorem Mach.updLamp_alm (f) (m : Mach) : (m.updLamp f).alm = m.alm := (rfl)
@[simp] theorem Mach.updLamp_twn (f) (m : Mach) : (m.updLamp f).twn = m.twn := (rfl)
@[simp] theorem Mach.updLamp_tap (f) (m : Mach) : (m.updLamp f).tap = m.tap := (rfl)
@[simp] theorem Mach.updLamp_out (f) (m : Mach) : (m.updLamp f).out = m.out := (rfl)
@[simp] theorem Mach.updLamp_free (f) (m : Mach) : (m.updLamp f).free = m.free := (rfl)
@[simp] theorem Mach.updFl_dev (f) (m : Mach) : (m.updFl f).dev = m.dev := (rfl)
@[simp] theorem Mach.updFl_reg (f) (m : Mach) : (m.updFl f).reg = m.reg := (rfl)
@[simp] theorem Mach.updFl_pff (f) (m : Mach) : (m.updFl f).pff = m.pff := (rfl)
@[simp] theorem Mach.updFl_port (f) (m : Mach) : (m.updFl f).port = m.port := (rfl)
@[simp] theorem Mach.updFl_adm (f) (m : Mach) : (m.updFl f).adm = m.adm := (rfl)
@[simp] theorem Mach.updFl_q (f) (m : Mach) : (m.updFl f).q = m.q := (rfl)
@[simp] theorem Mach.updFl_vol (f) (m : Mach) : (m.updFl f).vol = m.vol := (rfl)
@[simp] theorem Mach.updFl_buf (f) (m : Mach) : (m.updFl f).buf = m.buf := (rfl)
@[simp] theorem Mach.updFl_lamp (f) (m : Mach) : (m.updFl f).lamp = m.lamp := (rfl)
@[simp] theorem Mach.updFl_fl (f) (m : Mach) : (m.updFl f).fl = f m.fl := (rfl)
@[simp] theorem Mach.updFl_gln (f) (m : Mach) : (m.updFl f).gln = m.gln := (rfl)
@[simp] theorem Mach.updFl_hdl (f) (m : Mach) : (m.updFl f).hdl = m.hdl := (rfl)
@[simp] theorem Mach.updFl_drc (f) (m : Mach) : (m.updFl f).drc = m.drc := (rfl)
@[simp] theorem Mach.updFl_key (f) (m : Mach) : (m.updFl f).key = m.key := (rfl)
@[simp] theorem Mach.updFl_thm (f) (m : Mach) : (m.updFl f).thm = m.thm := (rfl)
@[simp] theorem Mach.updFl_alm (f) (m : Mach) : (m.updFl f).alm = m.alm := (rfl)
@[simp] theorem Mach.updFl_twn (f) (m : Mach) : (m.updFl f).twn = m.twn := (rfl)
@[simp] theorem Mach.updFl_tap (f) (m : Mach) : (m.updFl f).tap = m.tap := (rfl)
@[simp] theorem Mach.updFl_out (f) (m : Mach) : (m.updFl f).out = m.out := (rfl)
@[simp] theorem Mach.updFl_free (f) (m : Mach) : (m.updFl f).free = m.free := (rfl)
@[simp] theorem Mach.updGln_dev (f) (m : Mach) : (m.updGln f).dev = m.dev := (rfl)
@[simp] theorem Mach.updGln_reg (f) (m : Mach) : (m.updGln f).reg = m.reg := (rfl)
@[simp] theorem Mach.updGln_pff (f) (m : Mach) : (m.updGln f).pff = m.pff := (rfl)
@[simp] theorem Mach.updGln_port (f) (m : Mach) : (m.updGln f).port = m.port := (rfl)
@[simp] theorem Mach.updGln_adm (f) (m : Mach) : (m.updGln f).adm = m.adm := (rfl)
@[simp] theorem Mach.updGln_q (f) (m : Mach) : (m.updGln f).q = m.q := (rfl)
@[simp] theorem Mach.updGln_vol (f) (m : Mach) : (m.updGln f).vol = m.vol := (rfl)
@[simp] theorem Mach.updGln_buf (f) (m : Mach) : (m.updGln f).buf = m.buf := (rfl)
@[simp] theorem Mach.updGln_lamp (f) (m : Mach) : (m.updGln f).lamp = m.lamp := (rfl)
@[simp] theorem Mach.updGln_fl (f) (m : Mach) : (m.updGln f).fl = m.fl := (rfl)
@[simp] theorem Mach.updGln_gln (f) (m : Mach) : (m.updGln f).gln = f m.gln := (rfl)
@[simp] theorem Mach.updGln_hdl (f) (m : Mach) : (m.updGln f).hdl = m.hdl := (rfl)
@[simp] theorem Mach.updGln_drc (f) (m : Mach) : (m.updGln f).drc = m.drc := (rfl)
@[simp] theorem Mach.updGln_key (f) (m : Mach) : (m.updGln f).key = m.key := (rfl)
@[simp] theorem Mach.updGln_thm (f) (m : Mach) : (m.updGln f).thm = m.thm := (rfl)
@[simp] theorem Mach.updGln_alm (f) (m : Mach) : (m.updGln f).alm = m.alm := (rfl)
@[simp] theorem Mach.updGln_twn (f) (m : Mach) : (m.updGln f).twn = m.twn := (rfl)
@[simp] theorem Mach.updGln_tap (f) (m : Mach) : (m.updGln f).tap = m.tap := (rfl)
@[simp] theorem Mach.updGln_out (f) (m : Mach) : (m.updGln f).out = m.out := (rfl)
@[simp] theorem Mach.updGln_free (f) (m : Mach) : (m.updGln f).free = m.free := (rfl)
@[simp] theorem Mach.updHdl_dev (f) (m : Mach) : (m.updHdl f).dev = m.dev := (rfl)
@[simp] theorem Mach.updHdl_reg (f) (m : Mach) : (m.updHdl f).reg = m.reg := (rfl)
@[simp] theorem Mach.updHdl_pff (f) (m : Mach) : (m.updHdl f).pff = m.pff := (rfl)
@[simp] theorem Mach.updHdl_port (f) (m : Mach) : (m.updHdl f).port = m.port := (rfl)
@[simp] theorem Mach.updHdl_adm (f) (m : Mach) : (m.updHdl f).adm = m.adm := (rfl)
@[simp] theorem Mach.updHdl_q (f) (m : Mach) : (m.updHdl f).q = m.q := (rfl)
@[simp] theorem Mach.updHdl_vol (f) (m : Mach) : (m.updHdl f).vol = m.vol := (rfl)
@[simp] theorem Mach.updHdl_buf (f) (m : Mach) : (m.updHdl f).buf = m.buf := (rfl)
@[simp] theorem Mach.updHdl_lamp (f) (m : Mach) : (m.updHdl f).lamp = m.lamp := (rfl)
@[simp] theorem Mach.updHdl_fl (f) (m : Mach) : (m.updHdl f).fl = m.fl := (rfl)
@[simp] theorem Mach.updHdl_gln (f) (m : Mach) : (m.updHdl f).gln = m.gln := (rfl)
@[simp] theorem Mach.updHdl_hdl (f) (m : Mach) : (m.updHdl f).hdl = f m.hdl := (rfl)
@[simp] theorem Mach.updHdl_drc (f) (m : Mach) : (m.updHdl f).drc = m.drc := (rfl)
@[simp] theorem Mach.updHdl_key (f) (m : Mach) : (m.updHdl f).key = m.key := (rfl)
@[simp] theorem Mach.updHdl_thm (f) (m : Mach) : (m.updHdl f).thm = m.thm := (rfl)
@[simp] theorem Mach.updHdl_alm (f) (m : Mach) : (m.updHdl f).alm = m.alm := (rfl)
@[simp] theorem Mach.updHdl_twn (f) (m : Mach) : (m.updHdl f).twn = m.twn := (rfl)
@[simp] theorem Mach.updHdl_tap (f) (m : Mach) : (m.updHdl f).tap = m.tap := (rfl)
@[simp] theorem Mach.updHdl_out (f) (m : Mach) : (m.updHdl f).out = m.out := (rfl)
@[simp] theorem Mach.updHdl_free (f) (m : Mach) : (m.updHdl f).free = m.free := (rfl)
@[simp] theorem Mach.updDrc_dev (f) (m : Mach) : (m.updDrc f).dev = m.dev := (rfl)
@[simp] theorem Mach.updDrc_reg (f) (m : Mach) : (m.updDrc f).reg = m.reg := (rfl)
@[simp] theorem Mach.updDrc_pff (f) (m : Mach) : (m.updDrc f).pff = m.pff := (rfl)
@[simp] theorem Mach.updDrc_port (f) (m : Mach) : (m.updDrc f).port = m.port := (rfl)
@[simp] theorem Mach.updDrc_adm (f) (m : Mach) : (m.updDrc f).adm = m.adm := (rfl)
@[simp] theorem Mach.updDrc_q (f) (m : Mach) : (m.updDrc f).q = m.q := (rfl)
@[simp] theorem Mach.updDrc_vol (f) (m : Mach) : (m.updDrc f).vol = m.vol := (rfl)
@[simp] theorem Mach.updDrc_buf (f) (m : Mach) : (m.updDrc f).buf = m.buf := (rfl)
@[simp] theorem Mach.updDrc_lamp (f) (m : Mach) : (m.updDrc f).lamp = m.lamp := (rfl)
@[simp] theorem Mach.updDrc_fl (f) (m : Mach) : (m.updDrc f).fl = m.fl := (rfl)
@[simp] theorem Mach.updDrc_gln (f) (m : Mach) : (m.updDrc f).gln = m.gln := (rfl)
@[simp] theorem Mach.updDrc_hdl (f) (m : Mach) : (m.updDrc f).hdl = m.hdl := (rfl)
@[simp] theorem Mach.updDrc_drc (f) (m : Mach) : (m.updDrc f).drc = f m.drc := (rfl)
@[simp] theorem Mach.updDrc_key (f) (m : Mach) : (m.updDrc f).key = m.key := (rfl)
@[simp] theorem Mach.updDrc_thm (f) (m : Mach) : (m.updDrc f).thm = m.thm := (rfl)
@[simp] theorem Mach.updDrc_alm (f) (m : Mach) : (m.updDrc f).alm = m.alm := (rfl)
@[simp] theorem Mach.updDrc_twn (f) (m : Mach) : (m.updDrc f).twn = m.twn := (rfl)
@[simp] theorem Mach.updDrc_tap (f) (m : Mach) : (m.updDrc f).tap = m.tap := (rfl)
@[simp] theorem Mach.updDrc_out (f) (m : Mach) : (m.updDrc f).out = m.out := (rfl)
@[simp] theorem Mach.updDrc_free (f) (m : Mach) : (m.updDrc f).free = m.free := (rfl)
@[simp] theorem Mach.updKey_dev (f) (m : Mach) : (m.updKey f).dev = m.dev := (rfl)
@[simp] theorem Mach.updKey_reg (f) (m : Mach) : (m.updKey f).reg = m.reg := (rfl)
@[simp] theorem Mach.updKey_pff (f) (m : Mach) : (m.updKey f).pff = m.pff := (rfl)
@[simp] theorem Mach.updKey_port (f) (m : Mach) : (m.updKey f).port = m.port := (rfl)
@[simp] theorem Mach.updKey_adm (f) (m : Mach) : (m.updKey f).adm = m.adm := (rfl)
@[simp] theorem Mach.updKey_q (f) (m : Mach) : (m.updKey f).q = m.q := (rfl)
@[simp] theorem Mach.updKey_vol (f) (m : Mach) : (m.updKey f).vol = m.vol := (rfl)
@[simp] theorem Mach.updKey_buf (f) (m : Mach) : (m.updKey f).buf = m.buf := (rfl)
@[simp] theorem Mach.updKey_lamp (f) (m : Mach) : (m.updKey f).lamp = m.lamp := (rfl)
@[simp] theorem Mach.updKey_fl (f) (m : Mach) : (m.updKey f).fl = m.fl := (rfl)
@[simp] theorem Mach.updKey_gln (f) (m : Mach) : (m.updKey f).gln = m.gln := (rfl)
@[simp] theorem Mach.updKey_hdl (f) (m : Mach) : (m.updKey f).hdl = m.hdl := (rfl)
@[simp] theorem Mach.updKey_drc (f) (m : Mach) : (m.updKey f).drc = m.drc := (rfl)
@[simp] theorem Mach.updKey_key (f) (m : Mach) : (m.updKey f).key = f m.key := (rfl)
@[simp] theorem Mach.updKey_thm (f) (m : Mach) : (m.updKey f).thm = m.thm := (rfl)
@[simp] theorem Mach.updKey_alm (f) (m : Mach) : (m.updKey f).alm = m.alm := (rfl)
@[simp] theorem Mach.updKey_twn (f) (m : Mach) : (m.updKey f).twn = m.twn := (rfl)
@[simp] theorem Mach.updKey_tap (f) (m : Mach) : (m.updKey f).tap = m.tap := (rfl)
@[simp] theorem Mach.updKey_out (f) (m : Mach) : (m.updKey f).out = m.out := (rfl)
@[simp] theorem Mach.updKey_free (f) (m : Mach) : (m.updKey f).free = m.free := (rfl)
@[simp] theorem Mach.updThm_dev (f) (m : Mach) : (m.updThm f).dev = m.dev := (rfl)
@[simp] theorem Mach.updThm_reg (f) (m : Mach) : (m.updThm f).reg = m.reg := (rfl)
@[simp] theorem Mach.updThm_pff (f) (m : Mach) : (m.updThm f).pff = m.pff := (rfl)
@[simp] theorem Mach.updThm_port (f) (m : Mach) : (m.updThm f).port = m.port := (rfl)
@[simp] theorem Mach.updThm_adm (f) (m : Mach) : (m.updThm f).adm = m.adm := (rfl)
@[simp] theorem Mach.updThm_q (f) (m : Mach) : (m.updThm f).q = m.q := (rfl)
@[simp] theorem Mach.updThm_vol (f) (m : Mach) : (m.updThm f).vol = m.vol := (rfl)
@[simp] theorem Mach.updThm_buf (f) (m : Mach) : (m.updThm f).buf = m.buf := (rfl)
@[simp] theorem Mach.updThm_lamp (f) (m : Mach) : (m.updThm f).lamp = m.lamp := (rfl)
@[simp] theorem Mach.updThm_fl (f) (m : Mach) : (m.updThm f).fl = m.fl := (rfl)
@[simp] theorem Mach.updThm_gln (f) (m : Mach) : (m.updThm f).gln = m.gln := (rfl)
@[simp] theorem Mach.updThm_hdl (f) (m : Mach) : (m.updThm f).hdl = m.hdl := (rfl)
@[simp] theorem Mach.updThm_drc (f) (m : Mach) : (m.updThm f).drc = m.drc := (rfl)
@[simp] theorem Mach.updThm_key (f) (m : Mach) : (m.updThm f).key = m.key := (rfl)
@[simp] theorem Mach.updThm_thm (f) (m : Mach) : (m.updThm f).thm = f m.thm := (rfl)
@[simp] theorem Mach.updThm_alm (f) (m : Mach) : (m.updThm f).alm = m.alm := (rfl)
@[simp] theorem Mach.updThm_twn (f) (m : Mach) : (m.updThm f).twn = m.twn := (rfl)
@[simp] theorem Mach.updThm_tap (f) (m : Mach) : (m.updThm f).tap = m.tap := (rfl)
@[simp] theorem Mach.updThm_out (f) (m : Mach) : (m.updThm f).out = m.out := (rfl)
@[simp] theorem Mach.updThm_free (f) (m : Mach) : (m.updThm f).free = m.free := (rfl)
@[simp] theorem Mach.updAlm_dev (f) (m : Mach) : (m.updAlm f).dev = m.dev := (rfl)
@[simp] theorem Mach.updAlm_reg (f) (m : Mach) : (m.updAlm f).reg = m.reg := (rfl)
@[simp] theorem Mach.updAlm_pff (f) (m : Mach) : (m.updAlm f).pff = m.pff := (rfl)
@[simp] theorem Mach.updAlm_port (f) (m : Mach) : (m.updAlm f).port = m.port := (rfl)
@[simp] theorem Mach.updAlm_adm (f) (m : Mach) : (m.updAlm f).adm = m.adm := (rfl)
@[simp] theorem Mach.updAlm_q (f) (m : Mach) : (m.updAlm f).q = m.q := (rfl)
@[simp] theorem Mach.updAlm_vol (f) (m : Mach) : (m.updAlm f).vol = m.vol := (rfl)
@[simp] theorem Mach.updAlm_buf (f) (m : Mach) : (m.updAlm f).buf = m.buf := (rfl)
@[simp] theorem Mach.updAlm_lamp (f) (m : Mach) : (m.updAlm f).lamp = m.lamp := (rfl)
@[simp] theorem Mach.updAlm_fl (f) (m : Mach) : (m.updAlm f).fl = m.fl := (rfl)
@[simp] theorem Mach.updAlm_gln (f) (m : Mach) : (m.updAlm f).gln = m.gln := (rfl)
@[simp] theorem Mach.updAlm_hdl (f) (m : Mach) : (m.updAlm f).hdl = m.hdl := (rfl)
@[simp] theorem Mach.updAlm_drc (f) (m : Mach) : (m.updAlm f).drc = m.drc := (rfl)
@[simp] theorem Mach.updAlm_key (f) (m : Mach) : (m.updAlm f).key = m.key := (rfl)
@[simp] theorem Mach.updAlm_thm (f) (m : Mach) : (m.updAlm f).thm = m.thm := (rfl)
@[simp] theorem Mach.updAlm_alm (f) (m : Mach) : (m.updAlm f).alm = f m.alm := (rfl)
@[simp] theorem Mach.updAlm_twn (f) (m : Mach) : (m.updAlm f).twn = m.twn := (rfl)
@[simp] theorem Mach.updAlm_tap (f) (m : Mach) : (m.updAlm f).tap = m.tap := (rfl)
@[simp] theorem Mach.updAlm_out (f) (m : Mach) : (m.updAlm f).out = m.out := (rfl)
@[simp] theorem Mach.updAlm_free (f) (m : Mach) : (m.updAlm f).free = m.free := (rfl)
@[simp] theorem Mach.updTwn_dev (f) (m : Mach) : (m.updTwn f).dev = m.dev := (rfl)
@[simp] theorem Mach.updTwn_reg (f) (m : Mach) : (m.updTwn f).reg = m.reg := (rfl)
@[simp] theorem Mach.updTwn_pff (f) (m : Mach) : (m.updTwn f).pff = m.pff := (rfl)
@[simp] theorem Mach.updTwn_port (f) (m : Mach) : (m.updTwn f).port = m.port := (rfl)
@[simp] theorem Mach.updTwn_adm (f) (m : Mach) : (m.updTwn f).adm = m.adm := (rfl)
@[simp] theorem Mach.updTwn_q (f) (m : Mach) : (m.updTwn f).q = m.q := (rfl)
@[simp] theorem Mach.updTwn_vol (f) (m : Mach) : (m.updTwn f).vol = m.vol := (rfl)
@[simp] theorem Mach.updTwn_buf (f) (m : Mach) : (m.updTwn f).buf = m.buf := (rfl)
@[simp] theorem Mach.updTwn_lamp (f) (m : Mach) : (m.updTwn f).lamp = m.lamp := (rfl)
@[simp] theorem Mach.updTwn_fl (f) (m : Mach) : (m.updTwn f).fl = m.fl := (rfl)
@[simp] theorem Mach.updTwn_gln (f) (m : Mach) : (m.updTwn f).gln = m.gln := (rfl)
@[simp] theorem Mach.updTwn_hdl (f) (m : Mach) : (m.updTwn f).hdl = m.hdl := (rfl)
@[simp] theorem Mach.updTwn_drc (f) (m : Mach) : (m.updTwn f).drc = m.drc := (rfl)
@[simp] theorem Mach.updTwn_key (f) (m : Mach) : (m.updTwn f).key = m.key := (rfl)
@[simp] theorem Mach.updTwn_thm (f) (m : Mach) : (m.updTwn f).thm = m.thm := (rfl)
@[simp] theorem Mach.updTwn_alm (f) (m : Mach) : (m.updTwn f).alm = m.alm := (rfl)
@[simp] theorem Mach.updTwn_twn (f) (m : Mach) : (m.updTwn f).twn = f m.twn := (rfl)
@[simp] theorem Mach.updTwn_tap (f) (m : Mach) : (m.updTwn f).tap = m.tap := (rfl)
@[simp] theorem Mach.updTwn_out (f) (m : Mach) : (m.updTwn f).out = m.out := (rfl)
@[simp] theorem Mach.updTwn_free (f) (m : Mach) : (m.updTwn f).free = m.free := (rfl)
@[simp] theorem Mach.updPort_dev (p f) (m : Mach) : (m.updPort p f).dev = m.dev := (rfl)
@[simp] theorem Mach.updPort_reg (p f) (m : Mach) : (m.updPort p f).reg = m.reg := (rfl)
@[simp] theorem Mach.updPort_pff (p f) (m : Mach) : (m.updPort p f).pff = m.pff := (rfl)
@[simp] theorem Mach.updPort_port (p f) (m : Mach) : (m.updPort p f).port = m.port.set p (f (m.port.get p)) := (rfl)
@[simp] theorem Mach.updPort_adm (p f) (m : Mach) : (m.updPort p f).adm = m.adm := (rfl)
@[simp] theorem Mach.updPort_q (p f) (m : Mach) : (m.updPort p f).q = m.q := (rfl)
@[simp] theorem Mach.updPort_vol (p f) (m : Mach) : (m.updPort p f).vol = m.vol := (rfl)
@[simp] theorem Mach.updPort_buf (p f) (m : Mach) : (m.updPort p f).buf = m.buf := (rfl)
@[simp] theorem Mach.updPort_lamp (p f) (m : Mach) : (m.updPort p f).lamp = m.lamp := (rfl)
@[simp] theorem Mach.updPort_fl (p f) (m : Mach) : (m.updPort p f).fl = m.fl := (rfl)
@[simp] theorem Mach.updPort_gln (p f) (m : Mach) : (m.updPort p f).gln = m.gln := (rfl)
@[simp] theorem Mach.updPort_hdl (p f) (m : Mach) : (m.updPort p f).hdl = m.hdl := (rfl)
@[simp] theorem Mach.updPort_drc (p f) (m : Mach) : (m.updPort p f).drc = m.drc := (rfl)
@[simp] theorem Mach.updPort_key (p f) (m : Mach) : (m.updPort p f).key = m.key := (rfl)
@[simp] theorem Mach.updPort_thm (p f) (m : Mach) : (m.updPort p f).thm = m.thm := (rfl)
@[simp] theorem Mach.updPort_alm (p f) (m : Mach) : (m.updPort p f).alm = m.alm := (rfl)
@[simp] theorem Mach.updPort_twn (p f) (m : Mach) : (m.updPort p f).twn = m.twn := (rfl)
@[simp] theorem Mach.updPort_tap (p f) (m : Mach) : (m.updPort p f).tap = m.tap := (rfl)
@[simp] theorem Mach.updPort_out (p f) (m : Mach) : (m.updPort p f).out = m.out := (rfl)
@[simp] theorem Mach.updPort_free (p f) (m : Mach) : (m.updPort p f).free = m.free := (rfl)
@[simp] theorem Mach.send_dev (o) (m : Mach) : (m.send o).dev = m.dev := (rfl)
@[simp] theorem Mach.send_reg (o) (m : Mach) : (m.send o).reg = m.reg := (rfl)
@[simp] theorem Mach.send_pff (o) (m : Mach) : (m.send o).pff = m.pff := (rfl)
@[simp] theorem Mach.send_port (o) (m : Mach) : (m.send o).port = m.port := (rfl)
@[simp] theorem Mach.send_adm (o) (m : Mach) : (m.send o).adm = m.adm := (rfl)
@[simp] theorem Mach.send_q (o) (m : Mach) : (m.send o).q = m.q := (rfl)
@[simp] theorem Mach.send_vol (o) (m : Mach) : (m.send o).vol = m.vol := (rfl)
@[simp] theorem Mach.send_buf (o) (m : Mach) : (m.send o).buf = m.buf := (rfl)
@[simp] theorem Mach.send_lamp (o) (m : Mach) : (m.send o).lamp = m.lamp := (rfl)
@[simp] theorem Mach.send_fl (o) (m : Mach) : (m.send o).fl = m.fl := (rfl)
@[simp] theorem Mach.send_gln (o) (m : Mach) : (m.send o).gln = m.gln := (rfl)
@[simp] theorem Mach.send_hdl (o) (m : Mach) : (m.send o).hdl = m.hdl := (rfl)
@[simp] theorem Mach.send_drc (o) (m : Mach) : (m.send o).drc = m.drc := (rfl)
@[simp] theorem Mach.send_key (o) (m : Mach) : (m.send o).key = m.key := (rfl)
@[simp] theorem Mach.send_thm (o) (m : Mach) : (m.send o).thm = m.thm := (rfl)
@[simp] theorem Mach.send_alm (o) (m : Mach) : (m.send o).alm = m.alm := (rfl)
@[simp] theorem Mach.send_twn (o) (m : Mach) : (m.send o).twn = m.twn := (rfl)
@[simp] theorem Mach.send_tap (o) (m : Mach) : (m.send o).tap = m.tap := (rfl)
@[simp] theorem Mach.send_out (o) (m : Mach) : (m.send o).out = m.out ++ [o] := (rfl)
@[simp] theorem Mach.send_free (o) (m : Mach) : (m.send o).free = m.free := (rfl)
@[simp] theorem Mach.draw_dev (m : Mach) : m.draw.dev = m.dev := (rfl)
@[simp] theorem Mach.draw_reg (m : Mach) : m.draw.reg = m.reg := (rfl)
@[simp] theorem Mach.draw_pff (m : Mach) : m.draw.pff = m.pff := (rfl)
@[simp] theorem Mach.draw_port (m : Mach) : m.draw.port = m.port := (rfl)
@[simp] theorem Mach.draw_adm (m : Mach) : m.draw.adm = m.adm := (rfl)
@[simp] theorem Mach.draw_q (m : Mach) : m.draw.q = m.q := (rfl)
@[simp] theorem Mach.draw_vol (m : Mach) : m.draw.vol = m.vol := (rfl)
@[simp] theorem Mach.draw_buf (m : Mach) : m.draw.buf = m.buf := (rfl)
@[simp] theorem Mach.draw_lamp (m : Mach) : m.draw.lamp = m.lamp := (rfl)
@[simp] theorem Mach.draw_fl (m : Mach) : m.draw.fl = m.fl := (rfl)
@[simp] theorem Mach.draw_gln (m : Mach) : m.draw.gln = m.gln := (rfl)
@[simp] theorem Mach.draw_hdl (m : Mach) : m.draw.hdl = m.hdl := (rfl)
@[simp] theorem Mach.draw_drc (m : Mach) : m.draw.drc = m.drc := (rfl)
@[simp] theorem Mach.draw_key (m : Mach) : m.draw.key = m.key := (rfl)
@[simp] theorem Mach.draw_thm (m : Mach) : m.draw.thm = m.thm := (rfl)
@[simp] theorem Mach.draw_alm (m : Mach) : m.draw.alm = m.alm := (rfl)
@[simp] theorem Mach.draw_twn (m : Mach) : m.draw.twn = m.twn := (rfl)
@[simp] theorem Mach.draw_tap (m : Mach) : m.draw.tap = m.tap := (rfl)
@[simp] theorem Mach.draw_out (m : Mach) : m.draw.out = m.out := (rfl)
@[simp] theorem Mach.draw_free (m : Mach) : m.draw.free = m.free + 1 := (rfl)

@[simp] theorem PerPort.get_set_same {α : Type} (x : PerPort α) (p : Port) (v : α) : (x.set p v).get p = v := by
  cases p <;> rfl

@[simp] theorem PerPort.get_set_other {α : Type} (x : PerPort α) (p : Port) (v : α) : (x.set p v).get p.other = x.get p.other := by
  cases p <;> rfl

@[simp] theorem PerAgent.get_set_same {α : Type} (x : PerAgent α) (a : Agent) (v : α) : (x.set a v).get a = v := by
  cases a <;> rfl

theorem PerAgent.get_set_other {α : Type} (x : PerAgent α) (a b : Agent) (v : α) (h : b ≠ a) : (x.set a v).get b = x.get b := by
  cases a <;> cases b <;> first | rfl | exact absurd rfl h

end Sys2Proof.Machine
end

