-- ==== Sys2Proof/Laws/Ops.lean ====
section
/-! SUPPORT. What each shared operation of Ops.lean writes and what it leaves: parts, then readers. -/

namespace Sys2Proof.Machine

-- One proof at a time: proofs that wait for each other would each hold a thread and its stack.
set_option Elab.async false

@[simp] theorem Mach.wr_dev (k : Nat) (v : Word) (m : Mach) : (m.wr k v).dev = m.dev := (rfl)
@[simp] theorem Mach.wr_pff (k : Nat) (v : Word) (m : Mach) : (m.wr k v).pff = m.pff := (rfl)
@[simp] theorem Mach.wr_port (k : Nat) (v : Word) (m : Mach) : (m.wr k v).port = m.port := (rfl)
@[simp] theorem Mach.wr_adm (k : Nat) (v : Word) (m : Mach) : (m.wr k v).adm = m.adm := (rfl)
@[simp] theorem Mach.wr_q (k : Nat) (v : Word) (m : Mach) : (m.wr k v).q = m.q := (rfl)
@[simp] theorem Mach.wr_vol (k : Nat) (v : Word) (m : Mach) : (m.wr k v).vol = m.vol := (rfl)
@[simp] theorem Mach.wr_buf (k : Nat) (v : Word) (m : Mach) : (m.wr k v).buf = m.buf := (rfl)
@[simp] theorem Mach.wr_lamp (k : Nat) (v : Word) (m : Mach) : (m.wr k v).lamp = m.lamp := (rfl)
@[simp] theorem Mach.wr_fl (k : Nat) (v : Word) (m : Mach) : (m.wr k v).fl = m.fl := (rfl)
@[simp] theorem Mach.wr_gln (k : Nat) (v : Word) (m : Mach) : (m.wr k v).gln = m.gln := (rfl)
@[simp] theorem Mach.wr_hdl (k : Nat) (v : Word) (m : Mach) : (m.wr k v).hdl = m.hdl := (rfl)
@[simp] theorem Mach.wr_drc (k : Nat) (v : Word) (m : Mach) : (m.wr k v).drc = m.drc := (rfl)
@[simp] theorem Mach.wr_key (k : Nat) (v : Word) (m : Mach) : (m.wr k v).key = m.key := (rfl)
@[simp] theorem Mach.wr_thm (k : Nat) (v : Word) (m : Mach) : (m.wr k v).thm = m.thm := (rfl)
@[simp] theorem Mach.wr_alm (k : Nat) (v : Word) (m : Mach) : (m.wr k v).alm = m.alm := (rfl)
@[simp] theorem Mach.wr_twn (k : Nat) (v : Word) (m : Mach) : (m.wr k v).twn = m.twn := (rfl)
@[simp] theorem Mach.wr_tap (k : Nat) (v : Word) (m : Mach) : (m.wr k v).tap = m.tap := (rfl)
@[simp] theorem Mach.wr_out (k : Nat) (v : Word) (m : Mach) : (m.wr k v).out = m.out := (rfl)
@[simp] theorem Mach.wr_free (k : Nat) (v : Word) (m : Mach) : (m.wr k v).free = m.free := (rfl)
@[simp] theorem Mach.setHdr_dev (p : Page) (h : PageHdr) (m : Mach) : (m.setHdr p h).dev = m.dev := (rfl)
@[simp] theorem Mach.setHdr_pff (p : Page) (h : PageHdr) (m : Mach) : (m.setHdr p h).pff = m.pff := (rfl)
@[simp] theorem Mach.setHdr_port (p : Page) (h : PageHdr) (m : Mach) : (m.setHdr p h).port = m.port := (rfl)
@[simp] theorem Mach.setHdr_adm (p : Page) (h : PageHdr) (m : Mach) : (m.setHdr p h).adm = m.adm := (rfl)
@[simp] theorem Mach.setHdr_q (p : Page) (h : PageHdr) (m : Mach) : (m.setHdr p h).q = m.q := (rfl)
@[simp] theorem Mach.setHdr_vol (p : Page) (h : PageHdr) (m : Mach) : (m.setHdr p h).vol = m.vol := (rfl)
@[simp] theorem Mach.setHdr_buf (p : Page) (h : PageHdr) (m : Mach) : (m.setHdr p h).buf = m.buf := (rfl)
@[simp] theorem Mach.setHdr_lamp (p : Page) (h : PageHdr) (m : Mach) : (m.setHdr p h).lamp = m.lamp := (rfl)
@[simp] theorem Mach.setHdr_fl (p : Page) (h : PageHdr) (m : Mach) : (m.setHdr p h).fl = m.fl := (rfl)
@[simp] theorem Mach.setHdr_gln (p : Page) (h : PageHdr) (m : Mach) : (m.setHdr p h).gln = m.gln := (rfl)
@[simp] theorem Mach.setHdr_hdl (p : Page) (h : PageHdr) (m : Mach) : (m.setHdr p h).hdl = m.hdl := (rfl)
@[simp] theorem Mach.setHdr_drc (p : Page) (h : PageHdr) (m : Mach) : (m.setHdr p h).drc = m.drc := (rfl)
@[simp] theorem Mach.setHdr_key (p : Page) (h : PageHdr) (m : Mach) : (m.setHdr p h).key = m.key := (rfl)
@[simp] theorem Mach.setHdr_thm (p : Page) (h : PageHdr) (m : Mach) : (m.setHdr p h).thm = m.thm := (rfl)
@[simp] theorem Mach.setHdr_alm (p : Page) (h : PageHdr) (m : Mach) : (m.setHdr p h).alm = m.alm := (rfl)
@[simp] theorem Mach.setHdr_twn (p : Page) (h : PageHdr) (m : Mach) : (m.setHdr p h).twn = m.twn := (rfl)
@[simp] theorem Mach.setHdr_tap (p : Page) (h : PageHdr) (m : Mach) : (m.setHdr p h).tap = m.tap := (rfl)
@[simp] theorem Mach.setHdr_out (p : Page) (h : PageHdr) (m : Mach) : (m.setHdr p h).out = m.out := (rfl)
@[simp] theorem Mach.setHdr_free (p : Page) (h : PageHdr) (m : Mach) : (m.setHdr p h).free = m.free := (rfl)
@[simp] theorem Mach.setPageSt_dev (p : Page) (x : PageSt) (m : Mach) : (m.setPageSt p x).dev = m.dev := (rfl)
@[simp] theorem Mach.setPageSt_pff (p : Page) (x : PageSt) (m : Mach) : (m.setPageSt p x).pff = m.pff := (rfl)
@[simp] theorem Mach.setPageSt_port (p : Page) (x : PageSt) (m : Mach) : (m.setPageSt p x).port = m.port := (rfl)
@[simp] theorem Mach.setPageSt_adm (p : Page) (x : PageSt) (m : Mach) : (m.setPageSt p x).adm = m.adm := (rfl)
@[simp] theorem Mach.setPageSt_q (p : Page) (x : PageSt) (m : Mach) : (m.setPageSt p x).q = m.q := (rfl)
@[simp] theorem Mach.setPageSt_vol (p : Page) (x : PageSt) (m : Mach) : (m.setPageSt p x).vol = m.vol := (rfl)
@[simp] theorem Mach.setPageSt_buf (p : Page) (x : PageSt) (m : Mach) : (m.setPageSt p x).buf = m.buf := (rfl)
@[simp] theorem Mach.setPageSt_lamp (p : Page) (x : PageSt) (m : Mach) : (m.setPageSt p x).lamp = m.lamp := (rfl)
@[simp] theorem Mach.setPageSt_fl (p : Page) (x : PageSt) (m : Mach) : (m.setPageSt p x).fl = m.fl := (rfl)
@[simp] theorem Mach.setPageSt_gln (p : Page) (x : PageSt) (m : Mach) : (m.setPageSt p x).gln = m.gln := (rfl)
@[simp] theorem Mach.setPageSt_hdl (p : Page) (x : PageSt) (m : Mach) : (m.setPageSt p x).hdl = m.hdl := (rfl)
@[simp] theorem Mach.setPageSt_drc (p : Page) (x : PageSt) (m : Mach) : (m.setPageSt p x).drc = m.drc := (rfl)
@[simp] theorem Mach.setPageSt_key (p : Page) (x : PageSt) (m : Mach) : (m.setPageSt p x).key = m.key := (rfl)
@[simp] theorem Mach.setPageSt_thm (p : Page) (x : PageSt) (m : Mach) : (m.setPageSt p x).thm = m.thm := (rfl)
@[simp] theorem Mach.setPageSt_alm (p : Page) (x : PageSt) (m : Mach) : (m.setPageSt p x).alm = m.alm := (rfl)
@[simp] theorem Mach.setPageSt_twn (p : Page) (x : PageSt) (m : Mach) : (m.setPageSt p x).twn = m.twn := (rfl)
@[simp] theorem Mach.setPageSt_tap (p : Page) (x : PageSt) (m : Mach) : (m.setPageSt p x).tap = m.tap := (rfl)
@[simp] theorem Mach.setPageSt_out (p : Page) (x : PageSt) (m : Mach) : (m.setPageSt p x).out = m.out := (rfl)
@[simp] theorem Mach.setPageSt_free (p : Page) (x : PageSt) (m : Mach) : (m.setPageSt p x).free = m.free := (rfl)
@[simp] theorem Mach.touch_dev (p : Page) (m : Mach) : (m.touch p).dev = m.dev := by unfold Mach.touch; split <;> rfl
@[simp] theorem Mach.touch_pff (p : Page) (m : Mach) : (m.touch p).pff = m.pff := by unfold Mach.touch; split <;> rfl
@[simp] theorem Mach.touch_port (p : Page) (m : Mach) : (m.touch p).port = m.port := by unfold Mach.touch; split <;> rfl
@[simp] theorem Mach.touch_adm (p : Page) (m : Mach) : (m.touch p).adm = m.adm := by unfold Mach.touch; split <;> rfl
@[simp] theorem Mach.touch_q (p : Page) (m : Mach) : (m.touch p).q = m.q := by unfold Mach.touch; split <;> rfl
@[simp] theorem Mach.touch_vol (p : Page) (m : Mach) : (m.touch p).vol = m.vol := by unfold Mach.touch; split <;> rfl
@[simp] theorem Mach.touch_buf (p : Page) (m : Mach) : (m.touch p).buf = m.buf := by unfold Mach.touch; split <;> rfl
@[simp] theorem Mach.touch_lamp (p : Page) (m : Mach) : (m.touch p).lamp = m.lamp := by unfold Mach.touch; split <;> rfl
@[simp] theorem Mach.touch_fl (p : Page) (m : Mach) : (m.touch p).fl = m.fl := by unfold Mach.touch; split <;> rfl
@[simp] theorem Mach.touch_gln (p : Page) (m : Mach) : (m.touch p).gln = m.gln := by unfold Mach.touch; split <;> rfl
@[simp] theorem Mach.touch_hdl (p : Page) (m : Mach) : (m.touch p).hdl = m.hdl := by unfold Mach.touch; split <;> rfl
@[simp] theorem Mach.touch_drc (p : Page) (m : Mach) : (m.touch p).drc = m.drc := by unfold Mach.touch; split <;> rfl
@[simp] theorem Mach.touch_key (p : Page) (m : Mach) : (m.touch p).key = m.key := by unfold Mach.touch; split <;> rfl
@[simp] theorem Mach.touch_thm (p : Page) (m : Mach) : (m.touch p).thm = m.thm := by unfold Mach.touch; split <;> rfl
@[simp] theorem Mach.touch_alm (p : Page) (m : Mach) : (m.touch p).alm = m.alm := by unfold Mach.touch; split <;> rfl
@[simp] theorem Mach.touch_twn (p : Page) (m : Mach) : (m.touch p).twn = m.twn := by unfold Mach.touch; split <;> rfl
@[simp] theorem Mach.touch_tap (p : Page) (m : Mach) : (m.touch p).tap = m.tap := by unfold Mach.touch; split <;> rfl
@[simp] theorem Mach.touch_out (p : Page) (m : Mach) : (m.touch p).out = m.out := by unfold Mach.touch; split <;> rfl
@[simp] theorem Mach.touch_free (p : Page) (m : Mach) : (m.touch p).free = m.free := by unfold Mach.touch; split <;> rfl
@[simp] theorem Mach.set_dev (k : Nat) (v : Word) (m : Mach) : (m.set k v).dev = m.dev := by unfold Mach.set Mach.touch; split <;> (try split) <;> rfl
@[simp] theorem Mach.set_pff (k : Nat) (v : Word) (m : Mach) : (m.set k v).pff = m.pff := by unfold Mach.set Mach.touch; split <;> (try split) <;> rfl
@[simp] theorem Mach.set_port (k : Nat) (v : Word) (m : Mach) : (m.set k v).port = m.port := by unfold Mach.set Mach.touch; split <;> (try split) <;> rfl
@[simp] theorem Mach.set_adm (k : Nat) (v : Word) (m : Mach) : (m.set k v).adm = m.adm := by unfold Mach.set Mach.touch; split <;> (try split) <;> rfl
@[simp] theorem Mach.set_q (k : Nat) (v : Word) (m : Mach) : (m.set k v).q = m.q := by unfold Mach.set Mach.touch; split <;> (try split) <;> rfl
@[simp] theorem Mach.set_vol (k : Nat) (v : Word) (m : Mach) : (m.set k v).vol = m.vol := by unfold Mach.set Mach.touch; split <;> (try split) <;> rfl
@[simp] theorem Mach.set_buf (k : Nat) (v : Word) (m : Mach) : (m.set k v).buf = m.buf := by unfold Mach.set Mach.touch; split <;> (try split) <;> rfl
@[simp] theorem Mach.set_lamp (k : Nat) (v : Word) (m : Mach) : (m.set k v).lamp = m.lamp := by unfold Mach.set Mach.touch; split <;> (try split) <;> rfl
@[simp] theorem Mach.set_fl (k : Nat) (v : Word) (m : Mach) : (m.set k v).fl = m.fl := by unfold Mach.set Mach.touch; split <;> (try split) <;> rfl
@[simp] theorem Mach.set_gln (k : Nat) (v : Word) (m : Mach) : (m.set k v).gln = m.gln := by unfold Mach.set Mach.touch; split <;> (try split) <;> rfl
@[simp] theorem Mach.set_hdl (k : Nat) (v : Word) (m : Mach) : (m.set k v).hdl = m.hdl := by unfold Mach.set Mach.touch; split <;> (try split) <;> rfl
@[simp] theorem Mach.set_drc (k : Nat) (v : Word) (m : Mach) : (m.set k v).drc = m.drc := by unfold Mach.set Mach.touch; split <;> (try split) <;> rfl
@[simp] theorem Mach.set_key (k : Nat) (v : Word) (m : Mach) : (m.set k v).key = m.key := by unfold Mach.set Mach.touch; split <;> (try split) <;> rfl
@[simp] theorem Mach.set_thm (k : Nat) (v : Word) (m : Mach) : (m.set k v).thm = m.thm := by unfold Mach.set Mach.touch; split <;> (try split) <;> rfl
@[simp] theorem Mach.set_alm (k : Nat) (v : Word) (m : Mach) : (m.set k v).alm = m.alm := by unfold Mach.set Mach.touch; split <;> (try split) <;> rfl
@[simp] theorem Mach.set_twn (k : Nat) (v : Word) (m : Mach) : (m.set k v).twn = m.twn := by unfold Mach.set Mach.touch; split <;> (try split) <;> rfl
@[simp] theorem Mach.set_tap (k : Nat) (v : Word) (m : Mach) : (m.set k v).tap = m.tap := by unfold Mach.set Mach.touch; split <;> (try split) <;> rfl
@[simp] theorem Mach.set_out (k : Nat) (v : Word) (m : Mach) : (m.set k v).out = m.out := by unfold Mach.set Mach.touch; split <;> (try split) <;> rfl
@[simp] theorem Mach.set_free (k : Nat) (v : Word) (m : Mach) : (m.set k v).free = m.free := by unfold Mach.set Mach.touch; split <;> (try split) <;> rfl
@[simp] theorem Mach.bumpBy_dev (k n : Nat) (m : Mach) : (m.bumpBy k n).dev = m.dev := by simp [Mach.bumpBy]
@[simp] theorem Mach.bumpBy_pff (k n : Nat) (m : Mach) : (m.bumpBy k n).pff = m.pff := by simp [Mach.bumpBy]
@[simp] theorem Mach.bumpBy_port (k n : Nat) (m : Mach) : (m.bumpBy k n).port = m.port := by simp [Mach.bumpBy]
@[simp] theorem Mach.bumpBy_adm (k n : Nat) (m : Mach) : (m.bumpBy k n).adm = m.adm := by simp [Mach.bumpBy]
@[simp] theorem Mach.bumpBy_q (k n : Nat) (m : Mach) : (m.bumpBy k n).q = m.q := by simp [Mach.bumpBy]
@[simp] theorem Mach.bumpBy_vol (k n : Nat) (m : Mach) : (m.bumpBy k n).vol = m.vol := by simp [Mach.bumpBy]
@[simp] theorem Mach.bumpBy_buf (k n : Nat) (m : Mach) : (m.bumpBy k n).buf = m.buf := by simp [Mach.bumpBy]
@[simp] theorem Mach.bumpBy_lamp (k n : Nat) (m : Mach) : (m.bumpBy k n).lamp = m.lamp := by simp [Mach.bumpBy]
@[simp] theorem Mach.bumpBy_fl (k n : Nat) (m : Mach) : (m.bumpBy k n).fl = m.fl := by simp [Mach.bumpBy]
@[simp] theorem Mach.bumpBy_gln (k n : Nat) (m : Mach) : (m.bumpBy k n).gln = m.gln := by simp [Mach.bumpBy]
@[simp] theorem Mach.bumpBy_hdl (k n : Nat) (m : Mach) : (m.bumpBy k n).hdl = m.hdl := by simp [Mach.bumpBy]
@[simp] theorem Mach.bumpBy_drc (k n : Nat) (m : Mach) : (m.bumpBy k n).drc = m.drc := by simp [Mach.bumpBy]
@[simp] theorem Mach.bumpBy_key (k n : Nat) (m : Mach) : (m.bumpBy k n).key = m.key := by simp [Mach.bumpBy]
@[simp] theorem Mach.bumpBy_thm (k n : Nat) (m : Mach) : (m.bumpBy k n).thm = m.thm := by simp [Mach.bumpBy]
@[simp] theorem Mach.bumpBy_alm (k n : Nat) (m : Mach) : (m.bumpBy k n).alm = m.alm := by simp [Mach.bumpBy]
@[simp] theorem Mach.bumpBy_twn (k n : Nat) (m : Mach) : (m.bumpBy k n).twn = m.twn := by simp [Mach.bumpBy]
@[simp] theorem Mach.bumpBy_tap (k n : Nat) (m : Mach) : (m.bumpBy k n).tap = m.tap := by simp [Mach.bumpBy]
@[simp] theorem Mach.bumpBy_out (k n : Nat) (m : Mach) : (m.bumpBy k n).out = m.out := by simp [Mach.bumpBy]
@[simp] theorem Mach.bumpBy_free (k n : Nat) (m : Mach) : (m.bumpBy k n).free = m.free := by simp [Mach.bumpBy]
@[simp] theorem Mach.bump_dev (k : Nat) (m : Mach) : (m.bump k).dev = m.dev := by simp [Mach.bump]
@[simp] theorem Mach.bump_pff (k : Nat) (m : Mach) : (m.bump k).pff = m.pff := by simp [Mach.bump]
@[simp] theorem Mach.bump_port (k : Nat) (m : Mach) : (m.bump k).port = m.port := by simp [Mach.bump]
@[simp] theorem Mach.bump_adm (k : Nat) (m : Mach) : (m.bump k).adm = m.adm := by simp [Mach.bump]
@[simp] theorem Mach.bump_q (k : Nat) (m : Mach) : (m.bump k).q = m.q := by simp [Mach.bump]
@[simp] theorem Mach.bump_vol (k : Nat) (m : Mach) : (m.bump k).vol = m.vol := by simp [Mach.bump]
@[simp] theorem Mach.bump_buf (k : Nat) (m : Mach) : (m.bump k).buf = m.buf := by simp [Mach.bump]
@[simp] theorem Mach.bump_lamp (k : Nat) (m : Mach) : (m.bump k).lamp = m.lamp := by simp [Mach.bump]
@[simp] theorem Mach.bump_fl (k : Nat) (m : Mach) : (m.bump k).fl = m.fl := by simp [Mach.bump]
@[simp] theorem Mach.bump_gln (k : Nat) (m : Mach) : (m.bump k).gln = m.gln := by simp [Mach.bump]
@[simp] theorem Mach.bump_hdl (k : Nat) (m : Mach) : (m.bump k).hdl = m.hdl := by simp [Mach.bump]
@[simp] theorem Mach.bump_drc (k : Nat) (m : Mach) : (m.bump k).drc = m.drc := by simp [Mach.bump]
@[simp] theorem Mach.bump_key (k : Nat) (m : Mach) : (m.bump k).key = m.key := by simp [Mach.bump]
@[simp] theorem Mach.bump_thm (k : Nat) (m : Mach) : (m.bump k).thm = m.thm := by simp [Mach.bump]
@[simp] theorem Mach.bump_alm (k : Nat) (m : Mach) : (m.bump k).alm = m.alm := by simp [Mach.bump]
@[simp] theorem Mach.bump_twn (k : Nat) (m : Mach) : (m.bump k).twn = m.twn := by simp [Mach.bump]
@[simp] theorem Mach.bump_tap (k : Nat) (m : Mach) : (m.bump k).tap = m.tap := by simp [Mach.bump]
@[simp] theorem Mach.bump_out (k : Nat) (m : Mach) : (m.bump k).out = m.out := by simp [Mach.bump]
@[simp] theorem Mach.bump_free (k : Nat) (m : Mach) : (m.bump k).free = m.free := by simp [Mach.bump]
@[simp] theorem Mach.raiseTo_dev (k n t : Nat) (m : Mach) : (m.raiseTo k n t).dev = m.dev := by unfold Mach.raiseTo; split <;> simp
@[simp] theorem Mach.raiseTo_pff (k n t : Nat) (m : Mach) : (m.raiseTo k n t).pff = m.pff := by unfold Mach.raiseTo; split <;> simp
@[simp] theorem Mach.raiseTo_port (k n t : Nat) (m : Mach) : (m.raiseTo k n t).port = m.port := by unfold Mach.raiseTo; split <;> simp
@[simp] theorem Mach.raiseTo_adm (k n t : Nat) (m : Mach) : (m.raiseTo k n t).adm = m.adm := by unfold Mach.raiseTo; split <;> simp
@[simp] theorem Mach.raiseTo_q (k n t : Nat) (m : Mach) : (m.raiseTo k n t).q = m.q := by unfold Mach.raiseTo; split <;> simp
@[simp] theorem Mach.raiseTo_vol (k n t : Nat) (m : Mach) : (m.raiseTo k n t).vol = m.vol := by unfold Mach.raiseTo; split <;> simp
@[simp] theorem Mach.raiseTo_buf (k n t : Nat) (m : Mach) : (m.raiseTo k n t).buf = m.buf := by unfold Mach.raiseTo; split <;> simp
@[simp] theorem Mach.raiseTo_lamp (k n t : Nat) (m : Mach) : (m.raiseTo k n t).lamp = m.lamp := by unfold Mach.raiseTo; split <;> simp
@[simp] theorem Mach.raiseTo_fl (k n t : Nat) (m : Mach) : (m.raiseTo k n t).fl = m.fl := by unfold Mach.raiseTo; split <;> simp
@[simp] theorem Mach.raiseTo_gln (k n t : Nat) (m : Mach) : (m.raiseTo k n t).gln = m.gln := by unfold Mach.raiseTo; split <;> simp
@[simp] theorem Mach.raiseTo_hdl (k n t : Nat) (m : Mach) : (m.raiseTo k n t).hdl = m.hdl := by unfold Mach.raiseTo; split <;> simp
@[simp] theorem Mach.raiseTo_drc (k n t : Nat) (m : Mach) : (m.raiseTo k n t).drc = m.drc := by unfold Mach.raiseTo; split <;> simp
@[simp] theorem Mach.raiseTo_key (k n t : Nat) (m : Mach) : (m.raiseTo k n t).key = m.key := by unfold Mach.raiseTo; split <;> simp
@[simp] theorem Mach.raiseTo_thm (k n t : Nat) (m : Mach) : (m.raiseTo k n t).thm = m.thm := by unfold Mach.raiseTo; split <;> simp
@[simp] theorem Mach.raiseTo_alm (k n t : Nat) (m : Mach) : (m.raiseTo k n t).alm = m.alm := by unfold Mach.raiseTo; split <;> simp
@[simp] theorem Mach.raiseTo_twn (k n t : Nat) (m : Mach) : (m.raiseTo k n t).twn = m.twn := by unfold Mach.raiseTo; split <;> simp
@[simp] theorem Mach.raiseTo_tap (k n t : Nat) (m : Mach) : (m.raiseTo k n t).tap = m.tap := by unfold Mach.raiseTo; split <;> simp
@[simp] theorem Mach.raiseTo_out (k n t : Nat) (m : Mach) : (m.raiseTo k n t).out = m.out := by unfold Mach.raiseTo; split <;> simp
@[simp] theorem Mach.raiseTo_free (k n t : Nat) (m : Mach) : (m.raiseTo k n t).free = m.free := by unfold Mach.raiseTo; split <;> simp
@[simp] theorem Mach.bumpWrap_dev (k : Nat) (m : Mach) : (m.bumpWrap k).dev = m.dev := by simp [Mach.bumpWrap]
@[simp] theorem Mach.bumpWrap_pff (k : Nat) (m : Mach) : (m.bumpWrap k).pff = m.pff := by simp [Mach.bumpWrap]
@[simp] theorem Mach.bumpWrap_port (k : Nat) (m : Mach) : (m.bumpWrap k).port = m.port := by simp [Mach.bumpWrap]
@[simp] theorem Mach.bumpWrap_adm (k : Nat) (m : Mach) : (m.bumpWrap k).adm = m.adm := by simp [Mach.bumpWrap]
@[simp] theorem Mach.bumpWrap_q (k : Nat) (m : Mach) : (m.bumpWrap k).q = m.q := by simp [Mach.bumpWrap]
@[simp] theorem Mach.bumpWrap_vol (k : Nat) (m : Mach) : (m.bumpWrap k).vol = m.vol := by simp [Mach.bumpWrap]
@[simp] theorem Mach.bumpWrap_buf (k : Nat) (m : Mach) : (m.bumpWrap k).buf = m.buf := by simp [Mach.bumpWrap]
@[simp] theorem Mach.bumpWrap_lamp (k : Nat) (m : Mach) : (m.bumpWrap k).lamp = m.lamp := by simp [Mach.bumpWrap]
@[simp] theorem Mach.bumpWrap_fl (k : Nat) (m : Mach) : (m.bumpWrap k).fl = m.fl := by simp [Mach.bumpWrap]
@[simp] theorem Mach.bumpWrap_gln (k : Nat) (m : Mach) : (m.bumpWrap k).gln = m.gln := by simp [Mach.bumpWrap]
@[simp] theorem Mach.bumpWrap_hdl (k : Nat) (m : Mach) : (m.bumpWrap k).hdl = m.hdl := by simp [Mach.bumpWrap]
@[simp] theorem Mach.bumpWrap_drc (k : Nat) (m : Mach) : (m.bumpWrap k).drc = m.drc := by simp [Mach.bumpWrap]
@[simp] theorem Mach.bumpWrap_key (k : Nat) (m : Mach) : (m.bumpWrap k).key = m.key := by simp [Mach.bumpWrap]
@[simp] theorem Mach.bumpWrap_thm (k : Nat) (m : Mach) : (m.bumpWrap k).thm = m.thm := by simp [Mach.bumpWrap]
@[simp] theorem Mach.bumpWrap_alm (k : Nat) (m : Mach) : (m.bumpWrap k).alm = m.alm := by simp [Mach.bumpWrap]
@[simp] theorem Mach.bumpWrap_twn (k : Nat) (m : Mach) : (m.bumpWrap k).twn = m.twn := by simp [Mach.bumpWrap]
@[simp] theorem Mach.bumpWrap_tap (k : Nat) (m : Mach) : (m.bumpWrap k).tap = m.tap := by simp [Mach.bumpWrap]
@[simp] theorem Mach.bumpWrap_out (k : Nat) (m : Mach) : (m.bumpWrap k).out = m.out := by simp [Mach.bumpWrap]
@[simp] theorem Mach.bumpWrap_free (k : Nat) (m : Mach) : (m.bumpWrap k).free = m.free := by simp [Mach.bumpWrap]
@[simp] theorem Mach.bump64By_dev (k n : Nat) (m : Mach) : (m.bump64By k n).dev = m.dev := by unfold Mach.bump64By Mach.touch; dsimp only; split <;> (try split) <;> rfl
@[simp] theorem Mach.bump64By_pff (k n : Nat) (m : Mach) : (m.bump64By k n).pff = m.pff := by unfold Mach.bump64By Mach.touch; dsimp only; split <;> (try split) <;> rfl
@[simp] theorem Mach.bump64By_port (k n : Nat) (m : Mach) : (m.bump64By k n).port = m.port := by unfold Mach.bump64By Mach.touch; dsimp only; split <;> (try split) <;> rfl
@[simp] theorem Mach.bump64By_adm (k n : Nat) (m : Mach) : (m.bump64By k n).adm = m.adm := by unfold Mach.bump64By Mach.touch; dsimp only; split <;> (try split) <;> rfl
@[simp] theorem Mach.bump64By_q (k n : Nat) (m : Mach) : (m.bump64By k n).q = m.q := by unfold Mach.bump64By Mach.touch; dsimp only; split <;> (try split) <;> rfl
@[simp] theorem Mach.bump64By_vol (k n : Nat) (m : Mach) : (m.bump64By k n).vol = m.vol := by unfold Mach.bump64By Mach.touch; dsimp only; split <;> (try split) <;> rfl
@[simp] theorem Mach.bump64By_buf (k n : Nat) (m : Mach) : (m.bump64By k n).buf = m.buf := by unfold Mach.bump64By Mach.touch; dsimp only; split <;> (try split) <;> rfl
@[simp] theorem Mach.bump64By_lamp (k n : Nat) (m : Mach) : (m.bump64By k n).lamp = m.lamp := by unfold Mach.bump64By Mach.touch; dsimp only; split <;> (try split) <;> rfl
@[simp] theorem Mach.bump64By_fl (k n : Nat) (m : Mach) : (m.bump64By k n).fl = m.fl := by unfold Mach.bump64By Mach.touch; dsimp only; split <;> (try split) <;> rfl
@[simp] theorem Mach.bump64By_gln (k n : Nat) (m : Mach) : (m.bump64By k n).gln = m.gln := by unfold Mach.bump64By Mach.touch; dsimp only; split <;> (try split) <;> rfl
@[simp] theorem Mach.bump64By_hdl (k n : Nat) (m : Mach) : (m.bump64By k n).hdl = m.hdl := by unfold Mach.bump64By Mach.touch; dsimp only; split <;> (try split) <;> rfl
@[simp] theorem Mach.bump64By_drc (k n : Nat) (m : Mach) : (m.bump64By k n).drc = m.drc := by unfold Mach.bump64By Mach.touch; dsimp only; split <;> (try split) <;> rfl
@[simp] theorem Mach.bump64By_key (k n : Nat) (m : Mach) : (m.bump64By k n).key = m.key := by unfold Mach.bump64By Mach.touch; dsimp only; split <;> (try split) <;> rfl
@[simp] theorem Mach.bump64By_thm (k n : Nat) (m : Mach) : (m.bump64By k n).thm = m.thm := by unfold Mach.bump64By Mach.touch; dsimp only; split <;> (try split) <;> rfl
@[simp] theorem Mach.bump64By_alm (k n : Nat) (m : Mach) : (m.bump64By k n).alm = m.alm := by unfold Mach.bump64By Mach.touch; dsimp only; split <;> (try split) <;> rfl
@[simp] theorem Mach.bump64By_twn (k n : Nat) (m : Mach) : (m.bump64By k n).twn = m.twn := by unfold Mach.bump64By Mach.touch; dsimp only; split <;> (try split) <;> rfl
@[simp] theorem Mach.bump64By_tap (k n : Nat) (m : Mach) : (m.bump64By k n).tap = m.tap := by unfold Mach.bump64By Mach.touch; dsimp only; split <;> (try split) <;> rfl
@[simp] theorem Mach.bump64By_out (k n : Nat) (m : Mach) : (m.bump64By k n).out = m.out := by unfold Mach.bump64By Mach.touch; dsimp only; split <;> (try split) <;> rfl
@[simp] theorem Mach.bump64By_free (k n : Nat) (m : Mach) : (m.bump64By k n).free = m.free := by unfold Mach.bump64By Mach.touch; dsimp only; split <;> (try split) <;> rfl
@[simp] theorem Mach.bump64_dev (k : Nat) (m : Mach) : (m.bump64 k).dev = m.dev := by simp [Mach.bump64]
@[simp] theorem Mach.bump64_pff (k : Nat) (m : Mach) : (m.bump64 k).pff = m.pff := by simp [Mach.bump64]
@[simp] theorem Mach.bump64_port (k : Nat) (m : Mach) : (m.bump64 k).port = m.port := by simp [Mach.bump64]
@[simp] theorem Mach.bump64_adm (k : Nat) (m : Mach) : (m.bump64 k).adm = m.adm := by simp [Mach.bump64]
@[simp] theorem Mach.bump64_q (k : Nat) (m : Mach) : (m.bump64 k).q = m.q := by simp [Mach.bump64]
@[simp] theorem Mach.bump64_vol (k : Nat) (m : Mach) : (m.bump64 k).vol = m.vol := by simp [Mach.bump64]
@[simp] theorem Mach.bump64_buf (k : Nat) (m : Mach) : (m.bump64 k).buf = m.buf := by simp [Mach.bump64]
@[simp] theorem Mach.bump64_lamp (k : Nat) (m : Mach) : (m.bump64 k).lamp = m.lamp := by simp [Mach.bump64]
@[simp] theorem Mach.bump64_fl (k : Nat) (m : Mach) : (m.bump64 k).fl = m.fl := by simp [Mach.bump64]
@[simp] theorem Mach.bump64_gln (k : Nat) (m : Mach) : (m.bump64 k).gln = m.gln := by simp [Mach.bump64]
@[simp] theorem Mach.bump64_hdl (k : Nat) (m : Mach) : (m.bump64 k).hdl = m.hdl := by simp [Mach.bump64]
@[simp] theorem Mach.bump64_drc (k : Nat) (m : Mach) : (m.bump64 k).drc = m.drc := by simp [Mach.bump64]
@[simp] theorem Mach.bump64_key (k : Nat) (m : Mach) : (m.bump64 k).key = m.key := by simp [Mach.bump64]
@[simp] theorem Mach.bump64_thm (k : Nat) (m : Mach) : (m.bump64 k).thm = m.thm := by simp [Mach.bump64]
@[simp] theorem Mach.bump64_alm (k : Nat) (m : Mach) : (m.bump64 k).alm = m.alm := by simp [Mach.bump64]
@[simp] theorem Mach.bump64_twn (k : Nat) (m : Mach) : (m.bump64 k).twn = m.twn := by simp [Mach.bump64]
@[simp] theorem Mach.bump64_tap (k : Nat) (m : Mach) : (m.bump64 k).tap = m.tap := by simp [Mach.bump64]
@[simp] theorem Mach.bump64_out (k : Nat) (m : Mach) : (m.bump64 k).out = m.out := by simp [Mach.bump64]
@[simp] theorem Mach.bump64_free (k : Nat) (m : Mach) : (m.bump64 k).free = m.free := by simp [Mach.bump64]
@[simp] theorem Mach.wdrop_dev (a : Agent) (m : Mach) : (m.wdrop a).dev = m.dev := by unfold Mach.wdrop; split <;> simp
@[simp] theorem Mach.wdrop_pff (a : Agent) (m : Mach) : (m.wdrop a).pff = m.pff := by unfold Mach.wdrop; split <;> simp
@[simp] theorem Mach.wdrop_port (a : Agent) (m : Mach) : (m.wdrop a).port = m.port := by unfold Mach.wdrop; split <;> simp
@[simp] theorem Mach.wdrop_adm (a : Agent) (m : Mach) : (m.wdrop a).adm = m.adm := by unfold Mach.wdrop; split <;> simp
@[simp] theorem Mach.wdrop_q (a : Agent) (m : Mach) : (m.wdrop a).q = m.q := by unfold Mach.wdrop; split <;> simp
@[simp] theorem Mach.wdrop_vol (a : Agent) (m : Mach) : (m.wdrop a).vol = m.vol := by unfold Mach.wdrop; split <;> simp
@[simp] theorem Mach.wdrop_buf (a : Agent) (m : Mach) : (m.wdrop a).buf = m.buf := by unfold Mach.wdrop; split <;> simp
@[simp] theorem Mach.wdrop_lamp (a : Agent) (m : Mach) : (m.wdrop a).lamp = m.lamp := by unfold Mach.wdrop; split <;> simp
@[simp] theorem Mach.wdrop_fl (a : Agent) (m : Mach) : (m.wdrop a).fl = m.fl := by unfold Mach.wdrop; split <;> simp
@[simp] theorem Mach.wdrop_gln (a : Agent) (m : Mach) : (m.wdrop a).gln = m.gln := by unfold Mach.wdrop; split <;> simp
@[simp] theorem Mach.wdrop_hdl (a : Agent) (m : Mach) : (m.wdrop a).hdl = m.hdl := by unfold Mach.wdrop; split <;> simp
@[simp] theorem Mach.wdrop_drc (a : Agent) (m : Mach) : (m.wdrop a).drc = m.drc := by unfold Mach.wdrop; split <;> simp
@[simp] theorem Mach.wdrop_key (a : Agent) (m : Mach) : (m.wdrop a).key = m.key := by unfold Mach.wdrop; split <;> simp
@[simp] theorem Mach.wdrop_thm (a : Agent) (m : Mach) : (m.wdrop a).thm = m.thm := by unfold Mach.wdrop; split <;> simp
@[simp] theorem Mach.wdrop_alm (a : Agent) (m : Mach) : (m.wdrop a).alm = m.alm := by unfold Mach.wdrop; split <;> simp
@[simp] theorem Mach.wdrop_twn (a : Agent) (m : Mach) : (m.wdrop a).twn = m.twn := by unfold Mach.wdrop; split <;> simp
@[simp] theorem Mach.wdrop_tap (a : Agent) (m : Mach) : (m.wdrop a).tap = m.tap := by unfold Mach.wdrop; split <;> simp
@[simp] theorem Mach.wdrop_out (a : Agent) (m : Mach) : (m.wdrop a).out = m.out := by unfold Mach.wdrop; split <;> simp
@[simp] theorem Mach.wdrop_free (a : Agent) (m : Mach) : (m.wdrop a).free = m.free := by unfold Mach.wdrop; split <;> simp
@[simp] theorem Mach.setFifo_dev (n : Fin 8) (x : Fifo) (m : Mach) : (m.setFifo n x).dev = m.dev := (rfl)
@[simp] theorem Mach.setFifo_reg (n : Fin 8) (x : Fifo) (m : Mach) : (m.setFifo n x).reg = m.reg := (rfl)
@[simp] theorem Mach.setFifo_port (n : Fin 8) (x : Fifo) (m : Mach) : (m.setFifo n x).port = m.port := (rfl)
@[simp] theorem Mach.setFifo_adm (n : Fin 8) (x : Fifo) (m : Mach) : (m.setFifo n x).adm = m.adm := (rfl)
@[simp] theorem Mach.setFifo_q (n : Fin 8) (x : Fifo) (m : Mach) : (m.setFifo n x).q = m.q := (rfl)
@[simp] theorem Mach.setFifo_vol (n : Fin 8) (x : Fifo) (m : Mach) : (m.setFifo n x).vol = m.vol := (rfl)
@[simp] theorem Mach.setFifo_buf (n : Fin 8) (x : Fifo) (m : Mach) : (m.setFifo n x).buf = m.buf := (rfl)
@[simp] theorem Mach.setFifo_lamp (n : Fin 8) (x : Fifo) (m : Mach) : (m.setFifo n x).lamp = m.lamp := (rfl)
@[simp] theorem Mach.setFifo_fl (n : Fin 8) (x : Fifo) (m : Mach) : (m.setFifo n x).fl = m.fl := (rfl)
@[simp] theorem Mach.setFifo_gln (n : Fin 8) (x : Fifo) (m : Mach) : (m.setFifo n x).gln = m.gln := (rfl)
@[simp] theorem Mach.setFifo_hdl (n : Fin 8) (x : Fifo) (m : Mach) : (m.setFifo n x).hdl = m.hdl := (rfl)
@[simp] theorem Mach.setFifo_drc (n : Fin 8) (x : Fifo) (m : Mach) : (m.setFifo n x).drc = m.drc := (rfl)
@[simp] theorem Mach.setFifo_key (n : Fin 8) (x : Fifo) (m : Mach) : (m.setFifo n x).key = m.key := (rfl)
@[simp] theorem Mach.setFifo_thm (n : Fin 8) (x : Fifo) (m : Mach) : (m.setFifo n x).thm = m.thm := (rfl)
@[simp] theorem Mach.setFifo_alm (n : Fin 8) (x : Fifo) (m : Mach) : (m.setFifo n x).alm = m.alm := (rfl)
@[simp] theorem Mach.setFifo_twn (n : Fin 8) (x : Fifo) (m : Mach) : (m.setFifo n x).twn = m.twn := (rfl)
@[simp] theorem Mach.setFifo_tap (n : Fin 8) (x : Fifo) (m : Mach) : (m.setFifo n x).tap = m.tap := (rfl)
@[simp] theorem Mach.setFifo_out (n : Fin 8) (x : Fifo) (m : Mach) : (m.setFifo n x).out = m.out := (rfl)
@[simp] theorem Mach.setFifo_free (n : Fin 8) (x : Fifo) (m : Mach) : (m.setFifo n x).free = m.free := (rfl)
@[simp] theorem Mach.setQp_dev (i : Fin 256) (x : Qp) (m : Mach) : (m.setQp i x).dev = m.dev := (rfl)
@[simp] theorem Mach.setQp_reg (i : Fin 256) (x : Qp) (m : Mach) : (m.setQp i x).reg = m.reg := (rfl)
@[simp] theorem Mach.setQp_pff (i : Fin 256) (x : Qp) (m : Mach) : (m.setQp i x).pff = m.pff := (rfl)
@[simp] theorem Mach.setQp_port (i : Fin 256) (x : Qp) (m : Mach) : (m.setQp i x).port = m.port := (rfl)
@[simp] theorem Mach.setQp_adm (i : Fin 256) (x : Qp) (m : Mach) : (m.setQp i x).adm = m.adm := (rfl)
@[simp] theorem Mach.setQp_vol (i : Fin 256) (x : Qp) (m : Mach) : (m.setQp i x).vol = m.vol := (rfl)
@[simp] theorem Mach.setQp_buf (i : Fin 256) (x : Qp) (m : Mach) : (m.setQp i x).buf = m.buf := (rfl)
@[simp] theorem Mach.setQp_lamp (i : Fin 256) (x : Qp) (m : Mach) : (m.setQp i x).lamp = m.lamp := (rfl)
@[simp] theorem Mach.setQp_fl (i : Fin 256) (x : Qp) (m : Mach) : (m.setQp i x).fl = m.fl := (rfl)
@[simp] theorem Mach.setQp_gln (i : Fin 256) (x : Qp) (m : Mach) : (m.setQp i x).gln = m.gln := (rfl)
@[simp] theorem Mach.setQp_hdl (i : Fin 256) (x : Qp) (m : Mach) : (m.setQp i x).hdl = m.hdl := (rfl)
@[simp] theorem Mach.setQp_drc (i : Fin 256) (x : Qp) (m : Mach) : (m.setQp i x).drc = m.drc := (rfl)
@[simp] theorem Mach.setQp_key (i : Fin 256) (x : Qp) (m : Mach) : (m.setQp i x).key = m.key := (rfl)
@[simp] theorem Mach.setQp_thm (i : Fin 256) (x : Qp) (m : Mach) : (m.setQp i x).thm = m.thm := (rfl)
@[simp] theorem Mach.setQp_alm (i : Fin 256) (x : Qp) (m : Mach) : (m.setQp i x).alm = m.alm := (rfl)
@[simp] theorem Mach.setQp_twn (i : Fin 256) (x : Qp) (m : Mach) : (m.setQp i x).twn = m.twn := (rfl)
@[simp] theorem Mach.setQp_tap (i : Fin 256) (x : Qp) (m : Mach) : (m.setQp i x).tap = m.tap := (rfl)
@[simp] theorem Mach.setQp_out (i : Fin 256) (x : Qp) (m : Mach) : (m.setQp i x).out = m.out := (rfl)
@[simp] theorem Mach.setQp_free (i : Fin 256) (x : Qp) (m : Mach) : (m.setQp i x).free = m.free := (rfl)
@[simp] theorem Mach.setCmd_dev (i : Nat) (x : Cmd) (m : Mach) : (m.setCmd i x).dev = m.dev := (rfl)
@[simp] theorem Mach.setCmd_reg (i : Nat) (x : Cmd) (m : Mach) : (m.setCmd i x).reg = m.reg := (rfl)
@[simp] theorem Mach.setCmd_pff (i : Nat) (x : Cmd) (m : Mach) : (m.setCmd i x).pff = m.pff := (rfl)
@[simp] theorem Mach.setCmd_port (i : Nat) (x : Cmd) (m : Mach) : (m.setCmd i x).port = m.port := (rfl)
@[simp] theorem Mach.setCmd_adm (i : Nat) (x : Cmd) (m : Mach) : (m.setCmd i x).adm = m.adm := (rfl)
@[simp] theorem Mach.setCmd_vol (i : Nat) (x : Cmd) (m : Mach) : (m.setCmd i x).vol = m.vol := (rfl)
@[simp] theorem Mach.setCmd_buf (i : Nat) (x : Cmd) (m : Mach) : (m.setCmd i x).buf = m.buf := (rfl)
@[simp] theorem Mach.setCmd_lamp (i : Nat) (x : Cmd) (m : Mach) : (m.setCmd i x).lamp = m.lamp := (rfl)
@[simp] theorem Mach.setCmd_fl (i : Nat) (x : Cmd) (m : Mach) : (m.setCmd i x).fl = m.fl := (rfl)
@[simp] theorem Mach.setCmd_gln (i : Nat) (x : Cmd) (m : Mach) : (m.setCmd i x).gln = m.gln := (rfl)
@[simp] theorem Mach.setCmd_hdl (i : Nat) (x : Cmd) (m : Mach) : (m.setCmd i x).hdl = m.hdl := (rfl)
@[simp] theorem Mach.setCmd_drc (i : Nat) (x : Cmd) (m : Mach) : (m.setCmd i x).drc = m.drc := (rfl)
@[simp] theorem Mach.setCmd_key (i : Nat) (x : Cmd) (m : Mach) : (m.setCmd i x).key = m.key := (rfl)
@[simp] theorem Mach.setCmd_thm (i : Nat) (x : Cmd) (m : Mach) : (m.setCmd i x).thm = m.thm := (rfl)
@[simp] theorem Mach.setCmd_alm (i : Nat) (x : Cmd) (m : Mach) : (m.setCmd i x).alm = m.alm := (rfl)
@[simp] theorem Mach.setCmd_twn (i : Nat) (x : Cmd) (m : Mach) : (m.setCmd i x).twn = m.twn := (rfl)
@[simp] theorem Mach.setCmd_tap (i : Nat) (x : Cmd) (m : Mach) : (m.setCmd i x).tap = m.tap := (rfl)
@[simp] theorem Mach.setCmd_out (i : Nat) (x : Cmd) (m : Mach) : (m.setCmd i x).out = m.out := (rfl)
@[simp] theorem Mach.setCmd_free (i : Nat) (x : Cmd) (m : Mach) : (m.setCmd i x).free = m.free := (rfl)
@[simp] theorem Mach.setVol_dev (i : Vid) (x : Vol) (m : Mach) : (m.setVol i x).dev = m.dev := (rfl)
@[simp] theorem Mach.setVol_reg (i : Vid) (x : Vol) (m : Mach) : (m.setVol i x).reg = m.reg := (rfl)
@[simp] theorem Mach.setVol_pff (i : Vid) (x : Vol) (m : Mach) : (m.setVol i x).pff = m.pff := (rfl)
@[simp] theorem Mach.setVol_port (i : Vid) (x : Vol) (m : Mach) : (m.setVol i x).port = m.port := (rfl)
@[simp] theorem Mach.setVol_adm (i : Vid) (x : Vol) (m : Mach) : (m.setVol i x).adm = m.adm := (rfl)
@[simp] theorem Mach.setVol_q (i : Vid) (x : Vol) (m : Mach) : (m.setVol i x).q = m.q := (rfl)
@[simp] theorem Mach.setVol_buf (i : Vid) (x : Vol) (m : Mach) : (m.setVol i x).buf = m.buf := (rfl)
@[simp] theorem Mach.setVol_lamp (i : Vid) (x : Vol) (m : Mach) : (m.setVol i x).lamp = m.lamp := (rfl)
@[simp] theorem Mach.setVol_fl (i : Vid) (x : Vol) (m : Mach) : (m.setVol i x).fl = m.fl := (rfl)
@[simp] theorem Mach.setVol_gln (i : Vid) (x : Vol) (m : Mach) : (m.setVol i x).gln = m.gln := (rfl)
@[simp] theorem Mach.setVol_hdl (i : Vid) (x : Vol) (m : Mach) : (m.setVol i x).hdl = m.hdl := (rfl)
@[simp] theorem Mach.setVol_drc (i : Vid) (x : Vol) (m : Mach) : (m.setVol i x).drc = m.drc := (rfl)
@[simp] theorem Mach.setVol_key (i : Vid) (x : Vol) (m : Mach) : (m.setVol i x).key = m.key := (rfl)
@[simp] theorem Mach.setVol_thm (i : Vid) (x : Vol) (m : Mach) : (m.setVol i x).thm = m.thm := (rfl)
@[simp] theorem Mach.setVol_alm (i : Vid) (x : Vol) (m : Mach) : (m.setVol i x).alm = m.alm := (rfl)
@[simp] theorem Mach.setVol_twn (i : Vid) (x : Vol) (m : Mach) : (m.setVol i x).twn = m.twn := (rfl)
@[simp] theorem Mach.setVol_tap (i : Vid) (x : Vol) (m : Mach) : (m.setVol i x).tap = m.tap := (rfl)
@[simp] theorem Mach.setVol_out (i : Vid) (x : Vol) (m : Mach) : (m.setVol i x).out = m.out := (rfl)
@[simp] theorem Mach.setVol_free (i : Vid) (x : Vol) (m : Mach) : (m.setVol i x).free = m.free := (rfl)
@[simp] theorem Mach.setRegion_dev (i : Nat) (x : Region) (m : Mach) : (m.setRegion i x).dev = m.dev := (rfl)
@[simp] theorem Mach.setRegion_reg (i : Nat) (x : Region) (m : Mach) : (m.setRegion i x).reg = m.reg := (rfl)
@[simp] theorem Mach.setRegion_pff (i : Nat) (x : Region) (m : Mach) : (m.setRegion i x).pff = m.pff := (rfl)
@[simp] theorem Mach.setRegion_port (i : Nat) (x : Region) (m : Mach) : (m.setRegion i x).port = m.port := (rfl)
@[simp] theorem Mach.setRegion_adm (i : Nat) (x : Region) (m : Mach) : (m.setRegion i x).adm = m.adm := (rfl)
@[simp] theorem Mach.setRegion_q (i : Nat) (x : Region) (m : Mach) : (m.setRegion i x).q = m.q := (rfl)
@[simp] theorem Mach.setRegion_vol (i : Nat) (x : Region) (m : Mach) : (m.setRegion i x).vol = m.vol := (rfl)
@[simp] theorem Mach.setRegion_buf (i : Nat) (x : Region) (m : Mach) : (m.setRegion i x).buf = m.buf := (rfl)
@[simp] theorem Mach.setRegion_fl (i : Nat) (x : Region) (m : Mach) : (m.setRegion i x).fl = m.fl := (rfl)
@[simp] theorem Mach.setRegion_gln (i : Nat) (x : Region) (m : Mach) : (m.setRegion i x).gln = m.gln := (rfl)
@[simp] theorem Mach.setRegion_hdl (i : Nat) (x : Region) (m : Mach) : (m.setRegion i x).hdl = m.hdl := (rfl)
@[simp] theorem Mach.setRegion_drc (i : Nat) (x : Region) (m : Mach) : (m.setRegion i x).drc = m.drc := (rfl)
@[simp] theorem Mach.setRegion_key (i : Nat) (x : Region) (m : Mach) : (m.setRegion i x).key = m.key := (rfl)
@[simp] theorem Mach.setRegion_thm (i : Nat) (x : Region) (m : Mach) : (m.setRegion i x).thm = m.thm := (rfl)
@[simp] theorem Mach.setRegion_alm (i : Nat) (x : Region) (m : Mach) : (m.setRegion i x).alm = m.alm := (rfl)
@[simp] theorem Mach.setRegion_twn (i : Nat) (x : Region) (m : Mach) : (m.setRegion i x).twn = m.twn := (rfl)
@[simp] theorem Mach.setRegion_tap (i : Nat) (x : Region) (m : Mach) : (m.setRegion i x).tap = m.tap := (rfl)
@[simp] theorem Mach.setRegion_out (i : Nat) (x : Region) (m : Mach) : (m.setRegion i x).out = m.out := (rfl)
@[simp] theorem Mach.setRegion_free (i : Nat) (x : Region) (m : Mach) : (m.setRegion i x).free = m.free := (rfl)
@[simp] theorem Mach.setDesc_dev (i : Nat) (x : Desc) (m : Mach) : (m.setDesc i x).dev = m.dev := (rfl)
@[simp] theorem Mach.setDesc_reg (i : Nat) (x : Desc) (m : Mach) : (m.setDesc i x).reg = m.reg := (rfl)
@[simp] theorem Mach.setDesc_pff (i : Nat) (x : Desc) (m : Mach) : (m.setDesc i x).pff = m.pff := (rfl)
@[simp] theorem Mach.setDesc_port (i : Nat) (x : Desc) (m : Mach) : (m.setDesc i x).port = m.port := (rfl)
@[simp] theorem Mach.setDesc_adm (i : Nat) (x : Desc) (m : Mach) : (m.setDesc i x).adm = m.adm := (rfl)
@[simp] theorem Mach.setDesc_q (i : Nat) (x : Desc) (m : Mach) : (m.setDesc i x).q = m.q := (rfl)
@[simp] theorem Mach.setDesc_vol (i : Nat) (x : Desc) (m : Mach) : (m.setDesc i x).vol = m.vol := (rfl)
@[simp] theorem Mach.setDesc_buf (i : Nat) (x : Desc) (m : Mach) : (m.setDesc i x).buf = m.buf := (rfl)
@[simp] theorem Mach.setDesc_fl (i : Nat) (x : Desc) (m : Mach) : (m.setDesc i x).fl = m.fl := (rfl)
@[simp] theorem Mach.setDesc_gln (i : Nat) (x : Desc) (m : Mach) : (m.setDesc i x).gln = m.gln := (rfl)
@[simp] theorem Mach.setDesc_hdl (i : Nat) (x : Desc) (m : Mach) : (m.setDesc i x).hdl = m.hdl := (rfl)
@[simp] theorem Mach.setDesc_drc (i : Nat) (x : Desc) (m : Mach) : (m.setDesc i x).drc = m.drc := (rfl)
@[simp] theorem Mach.setDesc_key (i : Nat) (x : Desc) (m : Mach) : (m.setDesc i x).key = m.key := (rfl)
@[simp] theorem Mach.setDesc_thm (i : Nat) (x : Desc) (m : Mach) : (m.setDesc i x).thm = m.thm := (rfl)
@[simp] theorem Mach.setDesc_alm (i : Nat) (x : Desc) (m : Mach) : (m.setDesc i x).alm = m.alm := (rfl)
@[simp] theorem Mach.setDesc_twn (i : Nat) (x : Desc) (m : Mach) : (m.setDesc i x).twn = m.twn := (rfl)
@[simp] theorem Mach.setDesc_tap (i : Nat) (x : Desc) (m : Mach) : (m.setDesc i x).tap = m.tap := (rfl)
@[simp] theorem Mach.setDesc_out (i : Nat) (x : Desc) (m : Mach) : (m.setDesc i x).out = m.out := (rfl)
@[simp] theorem Mach.setDesc_free (i : Nat) (x : Desc) (m : Mach) : (m.setDesc i x).free = m.free := (rfl)
@[simp] theorem Mach.setChn_dev (i : Chan) (x : Chn) (m : Mach) : (m.setChn i x).dev = m.dev := (rfl)
@[simp] theorem Mach.setChn_reg (i : Chan) (x : Chn) (m : Mach) : (m.setChn i x).reg = m.reg := (rfl)
@[simp] theorem Mach.setChn_pff (i : Chan) (x : Chn) (m : Mach) : (m.setChn i x).pff = m.pff := (rfl)
@[simp] theorem Mach.setChn_port (i : Chan) (x : Chn) (m : Mach) : (m.setChn i x).port = m.port := (rfl)
@[simp] theorem Mach.setChn_adm (i : Chan) (x : Chn) (m : Mach) : (m.setChn i x).adm = m.adm := (rfl)
@[simp] theorem Mach.setChn_q (i : Chan) (x : Chn) (m : Mach) : (m.setChn i x).q = m.q := (rfl)
@[simp] theorem Mach.setChn_vol (i : Chan) (x : Chn) (m : Mach) : (m.setChn i x).vol = m.vol := (rfl)
@[simp] theorem Mach.setChn_buf (i : Chan) (x : Chn) (m : Mach) : (m.setChn i x).buf = m.buf := (rfl)
@[simp] theorem Mach.setChn_lamp (i : Chan) (x : Chn) (m : Mach) : (m.setChn i x).lamp = m.lamp := (rfl)
@[simp] theorem Mach.setChn_gln (i : Chan) (x : Chn) (m : Mach) : (m.setChn i x).gln = m.gln := (rfl)
@[simp] theorem Mach.setChn_hdl (i : Chan) (x : Chn) (m : Mach) : (m.setChn i x).hdl = m.hdl := (rfl)
@[simp] theorem Mach.setChn_drc (i : Chan) (x : Chn) (m : Mach) : (m.setChn i x).drc = m.drc := (rfl)
@[simp] theorem Mach.setChn_key (i : Chan) (x : Chn) (m : Mach) : (m.setChn i x).key = m.key := (rfl)
@[simp] theorem Mach.setChn_thm (i : Chan) (x : Chn) (m : Mach) : (m.setChn i x).thm = m.thm := (rfl)
@[simp] theorem Mach.setChn_alm (i : Chan) (x : Chn) (m : Mach) : (m.setChn i x).alm = m.alm := (rfl)
@[simp] theorem Mach.setChn_twn (i : Chan) (x : Chn) (m : Mach) : (m.setChn i x).twn = m.twn := (rfl)
@[simp] theorem Mach.setChn_tap (i : Chan) (x : Chn) (m : Mach) : (m.setChn i x).tap = m.tap := (rfl)
@[simp] theorem Mach.setChn_out (i : Chan) (x : Chn) (m : Mach) : (m.setChn i x).out = m.out := (rfl)
@[simp] theorem Mach.setChn_free (i : Chan) (x : Chn) (m : Mach) : (m.setChn i x).free = m.free := (rfl)
@[simp] theorem Mach.setDie_dev (i : Nat) (x : DieSt) (m : Mach) : (m.setDie i x).dev = m.dev := (rfl)
@[simp] theorem Mach.setDie_reg (i : Nat) (x : DieSt) (m : Mach) : (m.setDie i x).reg = m.reg := (rfl)
@[simp] theorem Mach.setDie_pff (i : Nat) (x : DieSt) (m : Mach) : (m.setDie i x).pff = m.pff := (rfl)
@[simp] theorem Mach.setDie_port (i : Nat) (x : DieSt) (m : Mach) : (m.setDie i x).port = m.port := (rfl)
@[simp] theorem Mach.setDie_adm (i : Nat) (x : DieSt) (m : Mach) : (m.setDie i x).adm = m.adm := (rfl)
@[simp] theorem Mach.setDie_q (i : Nat) (x : DieSt) (m : Mach) : (m.setDie i x).q = m.q := (rfl)
@[simp] theorem Mach.setDie_vol (i : Nat) (x : DieSt) (m : Mach) : (m.setDie i x).vol = m.vol := (rfl)
@[simp] theorem Mach.setDie_buf (i : Nat) (x : DieSt) (m : Mach) : (m.setDie i x).buf = m.buf := (rfl)
@[simp] theorem Mach.setDie_lamp (i : Nat) (x : DieSt) (m : Mach) : (m.setDie i x).lamp = m.lamp := (rfl)
@[simp] theorem Mach.setDie_gln (i : Nat) (x : DieSt) (m : Mach) : (m.setDie i x).gln = m.gln := (rfl)
@[simp] theorem Mach.setDie_hdl (i : Nat) (x : DieSt) (m : Mach) : (m.setDie i x).hdl = m.hdl := (rfl)
@[simp] theorem Mach.setDie_drc (i : Nat) (x : DieSt) (m : Mach) : (m.setDie i x).drc = m.drc := (rfl)
@[simp] theorem Mach.setDie_key (i : Nat) (x : DieSt) (m : Mach) : (m.setDie i x).key = m.key := (rfl)
@[simp] theorem Mach.setDie_thm (i : Nat) (x : DieSt) (m : Mach) : (m.setDie i x).thm = m.thm := (rfl)
@[simp] theorem Mach.setDie_alm (i : Nat) (x : DieSt) (m : Mach) : (m.setDie i x).alm = m.alm := (rfl)
@[simp] theorem Mach.setDie_twn (i : Nat) (x : DieSt) (m : Mach) : (m.setDie i x).twn = m.twn := (rfl)
@[simp] theorem Mach.setDie_tap (i : Nat) (x : DieSt) (m : Mach) : (m.setDie i x).tap = m.tap := (rfl)
@[simp] theorem Mach.setDie_out (i : Nat) (x : DieSt) (m : Mach) : (m.setDie i x).out = m.out := (rfl)
@[simp] theorem Mach.setDie_free (i : Nat) (x : DieSt) (m : Mach) : (m.setDie i x).free = m.free := (rfl)
@[simp] theorem Mach.setFur_dev (i : Nat) (x : Fur) (m : Mach) : (m.setFur i x).dev = m.dev := (rfl)
@[simp] theorem Mach.setFur_reg (i : Nat) (x : Fur) (m : Mach) : (m.setFur i x).reg = m.reg := (rfl)
@[simp] theorem Mach.setFur_pff (i : Nat) (x : Fur) (m : Mach) : (m.setFur i x).pff = m.pff := (rfl)
@[simp] theorem Mach.setFur_port (i : Nat) (x : Fur) (m : Mach) : (m.setFur i x).port = m.port := (rfl)
@[simp] theorem Mach.setFur_adm (i : Nat) (x : Fur) (m : Mach) : (m.setFur i x).adm = m.adm := (rfl)
@[simp] theorem Mach.setFur_q (i : Nat) (x : Fur) (m : Mach) : (m.setFur i x).q = m.q := (rfl)
@[simp] theorem Mach.setFur_vol (i : Nat) (x : Fur) (m : Mach) : (m.setFur i x).vol = m.vol := (rfl)
@[simp] theorem Mach.setFur_buf (i : Nat) (x : Fur) (m : Mach) : (m.setFur i x).buf = m.buf := (rfl)
@[simp] theorem Mach.setFur_lamp (i : Nat) (x : Fur) (m : Mach) : (m.setFur i x).lamp = m.lamp := (rfl)
@[simp] theorem Mach.setFur_fl (i : Nat) (x : Fur) (m : Mach) : (m.setFur i x).fl = m.fl := (rfl)
@[simp] theorem Mach.setFur_hdl (i : Nat) (x : Fur) (m : Mach) : (m.setFur i x).hdl = m.hdl := (rfl)
@[simp] theorem Mach.setFur_drc (i : Nat) (x : Fur) (m : Mach) : (m.setFur i x).drc = m.drc := (rfl)
@[simp] theorem Mach.setFur_key (i : Nat) (x : Fur) (m : Mach) : (m.setFur i x).key = m.key := (rfl)
@[simp] theorem Mach.setFur_thm (i : Nat) (x : Fur) (m : Mach) : (m.setFur i x).thm = m.thm := (rfl)
@[simp] theorem Mach.setFur_alm (i : Nat) (x : Fur) (m : Mach) : (m.setFur i x).alm = m.alm := (rfl)
@[simp] theorem Mach.setFur_twn (i : Nat) (x : Fur) (m : Mach) : (m.setFur i x).twn = m.twn := (rfl)
@[simp] theorem Mach.setFur_tap (i : Nat) (x : Fur) (m : Mach) : (m.setFur i x).tap = m.tap := (rfl)
@[simp] theorem Mach.setFur_out (i : Nat) (x : Fur) (m : Mach) : (m.setFur i x).out = m.out := (rfl)
@[simp] theorem Mach.setFur_free (i : Nat) (x : Fur) (m : Mach) : (m.setFur i x).free = m.free := (rfl)
@[simp] theorem Mach.setDram_dev (i : Fin 4) (x : Drc) (m : Mach) : (m.setDram i x).dev = m.dev := (rfl)
@[simp] theorem Mach.setDram_reg (i : Fin 4) (x : Drc) (m : Mach) : (m.setDram i x).reg = m.reg := (rfl)
@[simp] theorem Mach.setDram_pff (i : Fin 4) (x : Drc) (m : Mach) : (m.setDram i x).pff = m.pff := (rfl)
@[simp] theorem Mach.setDram_port (i : Fin 4) (x : Drc) (m : Mach) : (m.setDram i x).port = m.port := (rfl)
@[simp] theorem Mach.setDram_adm (i : Fin 4) (x : Drc) (m : Mach) : (m.setDram i x).adm = m.adm := (rfl)
@[simp] theorem Mach.setDram_q (i : Fin 4) (x : Drc) (m : Mach) : (m.setDram i x).q = m.q := (rfl)
@[simp] theorem Mach.setDram_vol (i : Fin 4) (x : Drc) (m : Mach) : (m.setDram i x).vol = m.vol := (rfl)
@[simp] theorem Mach.setDram_buf (i : Fin 4) (x : Drc) (m : Mach) : (m.setDram i x).buf = m.buf := (rfl)
@[simp] theorem Mach.setDram_lamp (i : Fin 4) (x : Drc) (m : Mach) : (m.setDram i x).lamp = m.lamp := (rfl)
@[simp] theorem Mach.setDram_fl (i : Fin 4) (x : Drc) (m : Mach) : (m.setDram i x).fl = m.fl := (rfl)
@[simp] theorem Mach.setDram_gln (i : Fin 4) (x : Drc) (m : Mach) : (m.setDram i x).gln = m.gln := (rfl)
@[simp] theorem Mach.setDram_hdl (i : Fin 4) (x : Drc) (m : Mach) : (m.setDram i x).hdl = m.hdl := (rfl)
@[simp] theorem Mach.setDram_key (i : Fin 4) (x : Drc) (m : Mach) : (m.setDram i x).key = m.key := (rfl)
@[simp] theorem Mach.setDram_thm (i : Fin 4) (x : Drc) (m : Mach) : (m.setDram i x).thm = m.thm := (rfl)
@[simp] theorem Mach.setDram_alm (i : Fin 4) (x : Drc) (m : Mach) : (m.setDram i x).alm = m.alm := (rfl)
@[simp] theorem Mach.setDram_twn (i : Fin 4) (x : Drc) (m : Mach) : (m.setDram i x).twn = m.twn := (rfl)
@[simp] theorem Mach.setDram_tap (i : Fin 4) (x : Drc) (m : Mach) : (m.setDram i x).tap = m.tap := (rfl)
@[simp] theorem Mach.setDram_out (i : Fin 4) (x : Drc) (m : Mach) : (m.setDram i x).out = m.out := (rfl)
@[simp] theorem Mach.setDram_free (i : Fin 4) (x : Drc) (m : Mach) : (m.setDram i x).free = m.free := (rfl)
@[simp] theorem Mach.setKslot_dev (i : Nat) (x : KeySlot) (m : Mach) : (m.setKslot i x).dev = m.dev := (rfl)
@[simp] theorem Mach.setKslot_reg (i : Nat) (x : KeySlot) (m : Mach) : (m.setKslot i x).reg = m.reg := (rfl)
@[simp] theorem Mach.setKslot_pff (i : Nat) (x : KeySlot) (m : Mach) : (m.setKslot i x).pff = m.pff := (rfl)
@[simp] theorem Mach.setKslot_port (i : Nat) (x : KeySlot) (m : Mach) : (m.setKslot i x).port = m.port := (rfl)
@[simp] theorem Mach.setKslot_adm (i : Nat) (x : KeySlot) (m : Mach) : (m.setKslot i x).adm = m.adm := (rfl)
@[simp] theorem Mach.setKslot_q (i : Nat) (x : KeySlot) (m : Mach) : (m.setKslot i x).q = m.q := (rfl)
@[simp] theorem Mach.setKslot_vol (i : Nat) (x : KeySlot) (m : Mach) : (m.setKslot i x).vol = m.vol := (rfl)
@[simp] theorem Mach.setKslot_buf (i : Nat) (x : KeySlot) (m : Mach) : (m.setKslot i x).buf = m.buf := (rfl)
@[simp] theorem Mach.setKslot_lamp (i : Nat) (x : KeySlot) (m : Mach) : (m.setKslot i x).lamp = m.lamp := (rfl)
@[simp] theorem Mach.setKslot_fl (i : Nat) (x : KeySlot) (m : Mach) : (m.setKslot i x).fl = m.fl := (rfl)
@[simp] theorem Mach.setKslot_gln (i : Nat) (x : KeySlot) (m : Mach) : (m.setKslot i x).gln = m.gln := (rfl)
@[simp] theorem Mach.setKslot_hdl (i : Nat) (x : KeySlot) (m : Mach) : (m.setKslot i x).hdl = m.hdl := (rfl)
@[simp] theorem Mach.setKslot_drc (i : Nat) (x : KeySlot) (m : Mach) : (m.setKslot i x).drc = m.drc := (rfl)
@[simp] theorem Mach.setKslot_thm (i : Nat) (x : KeySlot) (m : Mach) : (m.setKslot i x).thm = m.thm := (rfl)
@[simp] theorem Mach.setKslot_alm (i : Nat) (x : KeySlot) (m : Mach) : (m.setKslot i x).alm = m.alm := (rfl)
@[simp] theorem Mach.setKslot_twn (i : Nat) (x : KeySlot) (m : Mach) : (m.setKslot i x).twn = m.twn := (rfl)
@[simp] theorem Mach.setKslot_tap (i : Nat) (x : KeySlot) (m : Mach) : (m.setKslot i x).tap = m.tap := (rfl)
@[simp] theorem Mach.setKslot_out (i : Nat) (x : KeySlot) (m : Mach) : (m.setKslot i x).out = m.out := (rfl)
@[simp] theorem Mach.setKslot_free (i : Nat) (x : KeySlot) (m : Mach) : (m.setKslot i x).free = m.free := (rfl)
@[simp] theorem Mach.setSens_dev (i : Nat) (x : Sensor) (m : Mach) : (m.setSens i x).dev = m.dev := (rfl)
@[simp] theorem Mach.setSens_reg (i : Nat) (x : Sensor) (m : Mach) : (m.setSens i x).reg = m.reg := (rfl)
@[simp] theorem Mach.setSens_pff (i : Nat) (x : Sensor) (m : Mach) : (m.setSens i x).pff = m.pff := (rfl)
@[simp] theorem Mach.setSens_port (i : Nat) (x : Sensor) (m : Mach) : (m.setSens i x).port = m.port := (rfl)
@[simp] theorem Mach.setSens_adm (i : Nat) (x : Sensor) (m : Mach) : (m.setSens i x).adm = m.adm := (rfl)
@[simp] theorem Mach.setSens_q (i : Nat) (x : Sensor) (m : Mach) : (m.setSens i x).q = m.q := (rfl)
@[simp] theorem Mach.setSens_vol (i : Nat) (x : Sensor) (m : Mach) : (m.setSens i x).vol = m.vol := (rfl)
@[simp] theorem Mach.setSens_buf (i : Nat) (x : Sensor) (m : Mach) : (m.setSens i x).buf = m.buf := (rfl)
@[simp] theorem Mach.setSens_lamp (i : Nat) (x : Sensor) (m : Mach) : (m.setSens i x).lamp = m.lamp := (rfl)
@[simp] theorem Mach.setSens_fl (i : Nat) (x : Sensor) (m : Mach) : (m.setSens i x).fl = m.fl := (rfl)
@[simp] theorem Mach.setSens_gln (i : Nat) (x : Sensor) (m : Mach) : (m.setSens i x).gln = m.gln := (rfl)
@[simp] theorem Mach.setSens_hdl (i : Nat) (x : Sensor) (m : Mach) : (m.setSens i x).hdl = m.hdl := (rfl)
@[simp] theorem Mach.setSens_drc (i : Nat) (x : Sensor) (m : Mach) : (m.setSens i x).drc = m.drc := (rfl)
@[simp] theorem Mach.setSens_key (i : Nat) (x : Sensor) (m : Mach) : (m.setSens i x).key = m.key := (rfl)
@[simp] theorem Mach.setSens_alm (i : Nat) (x : Sensor) (m : Mach) : (m.setSens i x).alm = m.alm := (rfl)
@[simp] theorem Mach.setSens_twn (i : Nat) (x : Sensor) (m : Mach) : (m.setSens i x).twn = m.twn := (rfl)
@[simp] theorem Mach.setSens_tap (i : Nat) (x : Sensor) (m : Mach) : (m.setSens i x).tap = m.tap := (rfl)
@[simp] theorem Mach.setSens_out (i : Nat) (x : Sensor) (m : Mach) : (m.setSens i x).out = m.out := (rfl)
@[simp] theorem Mach.setSens_free (i : Nat) (x : Sensor) (m : Mach) : (m.setSens i x).free = m.free := (rfl)
@[simp] theorem Mach.setOpenF_dev (i : Fin 8) (x : Option OpenF) (m : Mach) : (m.setOpenF i x).dev = m.dev := (rfl)
@[simp] theorem Mach.setOpenF_reg (i : Fin 8) (x : Option OpenF) (m : Mach) : (m.setOpenF i x).reg = m.reg := (rfl)
@[simp] theorem Mach.setOpenF_pff (i : Fin 8) (x : Option OpenF) (m : Mach) : (m.setOpenF i x).pff = m.pff := (rfl)
@[simp] theorem Mach.setOpenF_port (i : Fin 8) (x : Option OpenF) (m : Mach) : (m.setOpenF i x).port = m.port := (rfl)
@[simp] theorem Mach.setOpenF_adm (i : Fin 8) (x : Option OpenF) (m : Mach) : (m.setOpenF i x).adm = m.adm := (rfl)
@[simp] theorem Mach.setOpenF_q (i : Fin 8) (x : Option OpenF) (m : Mach) : (m.setOpenF i x).q = m.q := (rfl)
@[simp] theorem Mach.setOpenF_vol (i : Fin 8) (x : Option OpenF) (m : Mach) : (m.setOpenF i x).vol = m.vol := (rfl)
@[simp] theorem Mach.setOpenF_lamp (i : Fin 8) (x : Option OpenF) (m : Mach) : (m.setOpenF i x).lamp = m.lamp := (rfl)
@[simp] theorem Mach.setOpenF_fl (i : Fin 8) (x : Option OpenF) (m : Mach) : (m.setOpenF i x).fl = m.fl := (rfl)
@[simp] theorem Mach.setOpenF_gln (i : Fin 8) (x : Option OpenF) (m : Mach) : (m.setOpenF i x).gln = m.gln := (rfl)
@[simp] theorem Mach.setOpenF_hdl (i : Fin 8) (x : Option OpenF) (m : Mach) : (m.setOpenF i x).hdl = m.hdl := (rfl)
@[simp] theorem Mach.setOpenF_drc (i : Fin 8) (x : Option OpenF) (m : Mach) : (m.setOpenF i x).drc = m.drc := (rfl)
@[simp] theorem Mach.setOpenF_key (i : Fin 8) (x : Option OpenF) (m : Mach) : (m.setOpenF i x).key = m.key := (rfl)
@[simp] theorem Mach.setOpenF_thm (i : Fin 8) (x : Option OpenF) (m : Mach) : (m.setOpenF i x).thm = m.thm := (rfl)
@[simp] theorem Mach.setOpenF_alm (i : Fin 8) (x : Option OpenF) (m : Mach) : (m.setOpenF i x).alm = m.alm := (rfl)
@[simp] theorem Mach.setOpenF_twn (i : Fin 8) (x : Option OpenF) (m : Mach) : (m.setOpenF i x).twn = m.twn := (rfl)
@[simp] theorem Mach.setOpenF_tap (i : Fin 8) (x : Option OpenF) (m : Mach) : (m.setOpenF i x).tap = m.tap := (rfl)
@[simp] theorem Mach.setOpenF_out (i : Fin 8) (x : Option OpenF) (m : Mach) : (m.setOpenF i x).out = m.out := (rfl)
@[simp] theorem Mach.setOpenF_free (i : Fin 8) (x : Option OpenF) (m : Mach) : (m.setOpenF i x).free = m.free := (rfl)
@[simp] theorem Mach.setBlk_dev (d b : Nat) (x : Blk) (m : Mach) : (m.setBlk d b x).dev = m.dev := (rfl)
@[simp] theorem Mach.setBlk_reg (d b : Nat) (x : Blk) (m : Mach) : (m.setBlk d b x).reg = m.reg := (rfl)
@[simp] theorem Mach.setBlk_pff (d b : Nat) (x : Blk) (m : Mach) : (m.setBlk d b x).pff = m.pff := (rfl)
@[simp] theorem Mach.setBlk_port (d b : Nat) (x : Blk) (m : Mach) : (m.setBlk d b x).port = m.port := (rfl)
@[simp] theorem Mach.setBlk_adm (d b : Nat) (x : Blk) (m : Mach) : (m.setBlk d b x).adm = m.adm := (rfl)
@[simp] theorem Mach.setBlk_q (d b : Nat) (x : Blk) (m : Mach) : (m.setBlk d b x).q = m.q := (rfl)
@[simp] theorem Mach.setBlk_vol (d b : Nat) (x : Blk) (m : Mach) : (m.setBlk d b x).vol = m.vol := (rfl)
@[simp] theorem Mach.setBlk_buf (d b : Nat) (x : Blk) (m : Mach) : (m.setBlk d b x).buf = m.buf := (rfl)
@[simp] theorem Mach.setBlk_lamp (d b : Nat) (x : Blk) (m : Mach) : (m.setBlk d b x).lamp = m.lamp := (rfl)
@[simp] theorem Mach.setBlk_gln (d b : Nat) (x : Blk) (m : Mach) : (m.setBlk d b x).gln = m.gln := (rfl)
@[simp] theorem Mach.setBlk_hdl (d b : Nat) (x : Blk) (m : Mach) : (m.setBlk d b x).hdl = m.hdl := (rfl)
@[simp] theorem Mach.setBlk_drc (d b : Nat) (x : Blk) (m : Mach) : (m.setBlk d b x).drc = m.drc := (rfl)
@[simp] theorem Mach.setBlk_key (d b : Nat) (x : Blk) (m : Mach) : (m.setBlk d b x).key = m.key := (rfl)
@[simp] theorem Mach.setBlk_thm (d b : Nat) (x : Blk) (m : Mach) : (m.setBlk d b x).thm = m.thm := (rfl)
@[simp] theorem Mach.setBlk_alm (d b : Nat) (x : Blk) (m : Mach) : (m.setBlk d b x).alm = m.alm := (rfl)
@[simp] theorem Mach.setBlk_twn (d b : Nat) (x : Blk) (m : Mach) : (m.setBlk d b x).twn = m.twn := (rfl)
@[simp] theorem Mach.setBlk_tap (d b : Nat) (x : Blk) (m : Mach) : (m.setBlk d b x).tap = m.tap := (rfl)
@[simp] theorem Mach.setBlk_out (d b : Nat) (x : Blk) (m : Mach) : (m.setBlk d b x).out = m.out := (rfl)
@[simp] theorem Mach.setBlk_free (d b : Nat) (x : Blk) (m : Mach) : (m.setBlk d b x).free = m.free := (rfl)
@[simp] theorem Mach.errBit_dev (p : Page) (i : Nat) (m : Mach) : (m.errBit p i).dev = m.dev := (rfl)
@[simp] theorem Mach.errBit_pff (p : Page) (i : Nat) (m : Mach) : (m.errBit p i).pff = m.pff := (rfl)
@[simp] theorem Mach.errBit_port (p : Page) (i : Nat) (m : Mach) : (m.errBit p i).port = m.port := (rfl)
@[simp] theorem Mach.errBit_adm (p : Page) (i : Nat) (m : Mach) : (m.errBit p i).adm = m.adm := (rfl)
@[simp] theorem Mach.errBit_q (p : Page) (i : Nat) (m : Mach) : (m.errBit p i).q = m.q := (rfl)
@[simp] theorem Mach.errBit_vol (p : Page) (i : Nat) (m : Mach) : (m.errBit p i).vol = m.vol := (rfl)
@[simp] theorem Mach.errBit_buf (p : Page) (i : Nat) (m : Mach) : (m.errBit p i).buf = m.buf := (rfl)
@[simp] theorem Mach.errBit_lamp (p : Page) (i : Nat) (m : Mach) : (m.errBit p i).lamp = m.lamp := (rfl)
@[simp] theorem Mach.errBit_fl (p : Page) (i : Nat) (m : Mach) : (m.errBit p i).fl = m.fl := (rfl)
@[simp] theorem Mach.errBit_gln (p : Page) (i : Nat) (m : Mach) : (m.errBit p i).gln = m.gln := (rfl)
@[simp] theorem Mach.errBit_hdl (p : Page) (i : Nat) (m : Mach) : (m.errBit p i).hdl = m.hdl := (rfl)
@[simp] theorem Mach.errBit_drc (p : Page) (i : Nat) (m : Mach) : (m.errBit p i).drc = m.drc := (rfl)
@[simp] theorem Mach.errBit_key (p : Page) (i : Nat) (m : Mach) : (m.errBit p i).key = m.key := (rfl)
@[simp] theorem Mach.errBit_thm (p : Page) (i : Nat) (m : Mach) : (m.errBit p i).thm = m.thm := (rfl)
@[simp] theorem Mach.errBit_alm (p : Page) (i : Nat) (m : Mach) : (m.errBit p i).alm = m.alm := (rfl)
@[simp] theorem Mach.errBit_twn (p : Page) (i : Nat) (m : Mach) : (m.errBit p i).twn = m.twn := (rfl)
@[simp] theorem Mach.errBit_tap (p : Page) (i : Nat) (m : Mach) : (m.errBit p i).tap = m.tap := (rfl)
@[simp] theorem Mach.errBit_out (p : Page) (i : Nat) (m : Mach) : (m.errBit p i).out = m.out := (rfl)
@[simp] theorem Mach.errBit_free (p : Page) (i : Nat) (m : Mach) : (m.errBit p i).free = m.free := (rfl)

@[simp] theorem Mach.updDev_rd (f) (j : Nat) (m : Mach) : (m.updDev f).rd j = m.rd j := (rfl)
@[simp] theorem Mach.updPff_rd (f) (j : Nat) (m : Mach) : (m.updPff f).rd j = m.rd j := (rfl)
@[simp] theorem Mach.updAdm_rd (f) (j : Nat) (m : Mach) : (m.updAdm f).rd j = m.rd j := (rfl)
@[simp] theorem Mach.updQ_rd (f) (j : Nat) (m : Mach) : (m.updQ f).rd j = m.rd j := (rfl)
@[simp] theorem Mach.updVol_rd (f) (j : Nat) (m : Mach) : (m.updVol f).rd j = m.rd j := (rfl)
@[simp] theorem Mach.updBuf_rd (f) (j : Nat) (m : Mach) : (m.updBuf f).rd j = m.rd j := (rfl)
@[simp] theorem Mach.updLamp_rd (f) (j : Nat) (m : Mach) : (m.updLamp f).rd j = m.rd j := (rfl)
@[simp] theorem Mach.updFl_rd (f) (j : Nat) (m : Mach) : (m.updFl f).rd j = m.rd j := (rfl)
@[simp] theorem Mach.updGln_rd (f) (j : Nat) (m : Mach) : (m.updGln f).rd j = m.rd j := (rfl)
@[simp] theorem Mach.updHdl_rd (f) (j : Nat) (m : Mach) : (m.updHdl f).rd j = m.rd j := (rfl)
@[simp] theorem Mach.updDrc_rd (f) (j : Nat) (m : Mach) : (m.updDrc f).rd j = m.rd j := (rfl)
@[simp] theorem Mach.updKey_rd (f) (j : Nat) (m : Mach) : (m.updKey f).rd j = m.rd j := (rfl)
@[simp] theorem Mach.updThm_rd (f) (j : Nat) (m : Mach) : (m.updThm f).rd j = m.rd j := (rfl)
@[simp] theorem Mach.updAlm_rd (f) (j : Nat) (m : Mach) : (m.updAlm f).rd j = m.rd j := (rfl)
@[simp] theorem Mach.updTwn_rd (f) (j : Nat) (m : Mach) : (m.updTwn f).rd j = m.rd j := (rfl)
@[simp] theorem Mach.updPort_rd (p : Port) (f) (j : Nat) (m : Mach) : (m.updPort p f).rd j = m.rd j := (rfl)
@[simp] theorem Mach.send_rd (o : Out) (j : Nat) (m : Mach) : (m.send o).rd j = m.rd j := (rfl)
@[simp] theorem Mach.draw_rd (j : Nat) (m : Mach) : (m.draw).rd j = m.rd j := (rfl)
@[simp] theorem Mach.setHdr_rd (p : Page) (h : PageHdr) (j : Nat) (m : Mach) : (m.setHdr p h).rd j = m.rd j := (rfl)
@[simp] theorem Mach.setPageSt_rd (p : Page) (x : PageSt) (j : Nat) (m : Mach) : (m.setPageSt p x).rd j = m.rd j := (rfl)
@[simp] theorem Mach.setFifo_rd (n : Fin 8) (x : Fifo) (j : Nat) (m : Mach) : (m.setFifo n x).rd j = m.rd j := (rfl)
@[simp] theorem Mach.setQp_rd (i : Fin 256) (x : Qp) (j : Nat) (m : Mach) : (m.setQp i x).rd j = m.rd j := (rfl)
@[simp] theorem Mach.setCmd_rd (i : Nat) (x : Cmd) (j : Nat) (m : Mach) : (m.setCmd i x).rd j = m.rd j := (rfl)
@[simp] theorem Mach.setVol_rd (i : Vid) (x : Vol) (j : Nat) (m : Mach) : (m.setVol i x).rd j = m.rd j := (rfl)
@[simp] theorem Mach.setRegion_rd (i : Nat) (x : Region) (j : Nat) (m : Mach) : (m.setRegion i x).rd j = m.rd j := (rfl)
@[simp] theorem Mach.setDesc_rd (i : Nat) (x : Desc) (j : Nat) (m : Mach) : (m.setDesc i x).rd j = m.rd j := (rfl)
@[simp] theorem Mach.setChn_rd (i : Chan) (x : Chn) (j : Nat) (m : Mach) : (m.setChn i x).rd j = m.rd j := (rfl)
@[simp] theorem Mach.setDie_rd (i : Nat) (x : DieSt) (j : Nat) (m : Mach) : (m.setDie i x).rd j = m.rd j := (rfl)
@[simp] theorem Mach.setFur_rd (i : Nat) (x : Fur) (j : Nat) (m : Mach) : (m.setFur i x).rd j = m.rd j := (rfl)
@[simp] theorem Mach.setDram_rd (i : Fin 4) (x : Drc) (j : Nat) (m : Mach) : (m.setDram i x).rd j = m.rd j := (rfl)
@[simp] theorem Mach.setKslot_rd (i : Nat) (x : KeySlot) (j : Nat) (m : Mach) : (m.setKslot i x).rd j = m.rd j := (rfl)
@[simp] theorem Mach.setSens_rd (i : Nat) (x : Sensor) (j : Nat) (m : Mach) : (m.setSens i x).rd j = m.rd j := (rfl)
@[simp] theorem Mach.setOpenF_rd (i : Fin 8) (x : Option OpenF) (j : Nat) (m : Mach) : (m.setOpenF i x).rd j = m.rd j := (rfl)
@[simp] theorem Mach.setBlk_rd (d b : Nat) (x : Blk) (j : Nat) (m : Mach) : (m.setBlk d b x).rd j = m.rd j := (rfl)
@[simp] theorem Mach.errBit_rd (p : Page) (i : Nat) (j : Nat) (m : Mach) : (m.errBit p i).rd j = m.rd j := (rfl)
@[simp] theorem Mach.updDev_rdN (f) (j : Nat) (m : Mach) : (m.updDev f).rdN j = m.rdN j := (rfl)
@[simp] theorem Mach.updPff_rdN (f) (j : Nat) (m : Mach) : (m.updPff f).rdN j = m.rdN j := (rfl)
@[simp] theorem Mach.updAdm_rdN (f) (j : Nat) (m : Mach) : (m.updAdm f).rdN j = m.rdN j := (rfl)
@[simp] theorem Mach.updQ_rdN (f) (j : Nat) (m : Mach) : (m.updQ f).rdN j = m.rdN j := (rfl)
@[simp] theorem Mach.updVol_rdN (f) (j : Nat) (m : Mach) : (m.updVol f).rdN j = m.rdN j := (rfl)
@[simp] theorem Mach.updBuf_rdN (f) (j : Nat) (m : Mach) : (m.updBuf f).rdN j = m.rdN j := (rfl)
@[simp] theorem Mach.updLamp_rdN (f) (j : Nat) (m : Mach) : (m.updLamp f).rdN j = m.rdN j := (rfl)
@[simp] theorem Mach.updFl_rdN (f) (j : Nat) (m : Mach) : (m.updFl f).rdN j = m.rdN j := (rfl)
@[simp] theorem Mach.updGln_rdN (f) (j : Nat) (m : Mach) : (m.updGln f).rdN j = m.rdN j := (rfl)
@[simp] theorem Mach.updHdl_rdN (f) (j : Nat) (m : Mach) : (m.updHdl f).rdN j = m.rdN j := (rfl)
@[simp] theorem Mach.updDrc_rdN (f) (j : Nat) (m : Mach) : (m.updDrc f).rdN j = m.rdN j := (rfl)
@[simp] theorem Mach.updKey_rdN (f) (j : Nat) (m : Mach) : (m.updKey f).rdN j = m.rdN j := (rfl)
@[simp] theorem Mach.updThm_rdN (f) (j : Nat) (m : Mach) : (m.updThm f).rdN j = m.rdN j := (rfl)
@[simp] theorem Mach.updAlm_rdN (f) (j : Nat) (m : Mach) : (m.updAlm f).rdN j = m.rdN j := (rfl)
@[simp] theorem Mach.updTwn_rdN (f) (j : Nat) (m : Mach) : (m.updTwn f).rdN j = m.rdN j := (rfl)
@[simp] theorem Mach.updPort_rdN (p : Port) (f) (j : Nat) (m : Mach) : (m.updPort p f).rdN j = m.rdN j := (rfl)
@[simp] theorem Mach.send_rdN (o : Out) (j : Nat) (m : Mach) : (m.send o).rdN j = m.rdN j := (rfl)
@[simp] theorem Mach.draw_rdN (j : Nat) (m : Mach) : (m.draw).rdN j = m.rdN j := (rfl)
@[simp] theorem Mach.setHdr_rdN (p : Page) (h : PageHdr) (j : Nat) (m : Mach) : (m.setHdr p h).rdN j = m.rdN j := (rfl)
@[simp] theorem Mach.setPageSt_rdN (p : Page) (x : PageSt) (j : Nat) (m : Mach) : (m.setPageSt p x).rdN j = m.rdN j := (rfl)
@[simp] theorem Mach.setFifo_rdN (n : Fin 8) (x : Fifo) (j : Nat) (m : Mach) : (m.setFifo n x).rdN j = m.rdN j := (rfl)
@[simp] theorem Mach.setQp_rdN (i : Fin 256) (x : Qp) (j : Nat) (m : Mach) : (m.setQp i x).rdN j = m.rdN j := (rfl)
@[simp] theorem Mach.setCmd_rdN (i : Nat) (x : Cmd) (j : Nat) (m : Mach) : (m.setCmd i x).rdN j = m.rdN j := (rfl)
@[simp] theorem Mach.setVol_rdN (i : Vid) (x : Vol) (j : Nat) (m : Mach) : (m.setVol i x).rdN j = m.rdN j := (rfl)
@[simp] theorem Mach.setRegion_rdN (i : Nat) (x : Region) (j : Nat) (m : Mach) : (m.setRegion i x).rdN j = m.rdN j := (rfl)
@[simp] theorem Mach.setDesc_rdN (i : Nat) (x : Desc) (j : Nat) (m : Mach) : (m.setDesc i x).rdN j = m.rdN j := (rfl)
@[simp] theorem Mach.setChn_rdN (i : Chan) (x : Chn) (j : Nat) (m : Mach) : (m.setChn i x).rdN j = m.rdN j := (rfl)
@[simp] theorem Mach.setDie_rdN (i : Nat) (x : DieSt) (j : Nat) (m : Mach) : (m.setDie i x).rdN j = m.rdN j := (rfl)
@[simp] theorem Mach.setFur_rdN (i : Nat) (x : Fur) (j : Nat) (m : Mach) : (m.setFur i x).rdN j = m.rdN j := (rfl)
@[simp] theorem Mach.setDram_rdN (i : Fin 4) (x : Drc) (j : Nat) (m : Mach) : (m.setDram i x).rdN j = m.rdN j := (rfl)
@[simp] theorem Mach.setKslot_rdN (i : Nat) (x : KeySlot) (j : Nat) (m : Mach) : (m.setKslot i x).rdN j = m.rdN j := (rfl)
@[simp] theorem Mach.setSens_rdN (i : Nat) (x : Sensor) (j : Nat) (m : Mach) : (m.setSens i x).rdN j = m.rdN j := (rfl)
@[simp] theorem Mach.setOpenF_rdN (i : Fin 8) (x : Option OpenF) (j : Nat) (m : Mach) : (m.setOpenF i x).rdN j = m.rdN j := (rfl)
@[simp] theorem Mach.setBlk_rdN (d b : Nat) (x : Blk) (j : Nat) (m : Mach) : (m.setBlk d b x).rdN j = m.rdN j := (rfl)
@[simp] theorem Mach.errBit_rdN (p : Page) (i : Nat) (j : Nat) (m : Mach) : (m.errBit p i).rdN j = m.rdN j := (rfl)
@[simp] theorem Mach.updDev_rd64 (f) (j : Nat) (m : Mach) : (m.updDev f).rd64 j = m.rd64 j := (rfl)
@[simp] theorem Mach.updPff_rd64 (f) (j : Nat) (m : Mach) : (m.updPff f).rd64 j = m.rd64 j := (rfl)
@[simp] theorem Mach.updAdm_rd64 (f) (j : Nat) (m : Mach) : (m.updAdm f).rd64 j = m.rd64 j := (rfl)
@[simp] theorem Mach.updQ_rd64 (f) (j : Nat) (m : Mach) : (m.updQ f).rd64 j = m.rd64 j := (rfl)
@[simp] theorem Mach.updVol_rd64 (f) (j : Nat) (m : Mach) : (m.updVol f).rd64 j = m.rd64 j := (rfl)
@[simp] theorem Mach.updBuf_rd64 (f) (j : Nat) (m : Mach) : (m.updBuf f).rd64 j = m.rd64 j := (rfl)
@[simp] theorem Mach.updLamp_rd64 (f) (j : Nat) (m : Mach) : (m.updLamp f).rd64 j = m.rd64 j := (rfl)
@[simp] theorem Mach.updFl_rd64 (f) (j : Nat) (m : Mach) : (m.updFl f).rd64 j = m.rd64 j := (rfl)
@[simp] theorem Mach.updGln_rd64 (f) (j : Nat) (m : Mach) : (m.updGln f).rd64 j = m.rd64 j := (rfl)
@[simp] theorem Mach.updHdl_rd64 (f) (j : Nat) (m : Mach) : (m.updHdl f).rd64 j = m.rd64 j := (rfl)
@[simp] theorem Mach.updDrc_rd64 (f) (j : Nat) (m : Mach) : (m.updDrc f).rd64 j = m.rd64 j := (rfl)
@[simp] theorem Mach.updKey_rd64 (f) (j : Nat) (m : Mach) : (m.updKey f).rd64 j = m.rd64 j := (rfl)
@[simp] theorem Mach.updThm_rd64 (f) (j : Nat) (m : Mach) : (m.updThm f).rd64 j = m.rd64 j := (rfl)
@[simp] theorem Mach.updAlm_rd64 (f) (j : Nat) (m : Mach) : (m.updAlm f).rd64 j = m.rd64 j := (rfl)
@[simp] theorem Mach.updTwn_rd64 (f) (j : Nat) (m : Mach) : (m.updTwn f).rd64 j = m.rd64 j := (rfl)
@[simp] theorem Mach.updPort_rd64 (p : Port) (f) (j : Nat) (m : Mach) : (m.updPort p f).rd64 j = m.rd64 j := (rfl)
@[simp] theorem Mach.send_rd64 (o : Out) (j : Nat) (m : Mach) : (m.send o).rd64 j = m.rd64 j := (rfl)
@[simp] theorem Mach.draw_rd64 (j : Nat) (m : Mach) : (m.draw).rd64 j = m.rd64 j := (rfl)
@[simp] theorem Mach.wr_rd64 (k : Nat) (v : Word) (j : Nat) (m : Mach) : (m.wr k v).rd64 j = m.rd64 j := (rfl)
@[simp] theorem Mach.setHdr_rd64 (p : Page) (h : PageHdr) (j : Nat) (m : Mach) : (m.setHdr p h).rd64 j = m.rd64 j := (rfl)
@[simp] theorem Mach.setPageSt_rd64 (p : Page) (x : PageSt) (j : Nat) (m : Mach) : (m.setPageSt p x).rd64 j = m.rd64 j := (rfl)
@[simp] theorem Mach.setFifo_rd64 (n : Fin 8) (x : Fifo) (j : Nat) (m : Mach) : (m.setFifo n x).rd64 j = m.rd64 j := (rfl)
@[simp] theorem Mach.setQp_rd64 (i : Fin 256) (x : Qp) (j : Nat) (m : Mach) : (m.setQp i x).rd64 j = m.rd64 j := (rfl)
@[simp] theorem Mach.setCmd_rd64 (i : Nat) (x : Cmd) (j : Nat) (m : Mach) : (m.setCmd i x).rd64 j = m.rd64 j := (rfl)
@[simp] theorem Mach.setVol_rd64 (i : Vid) (x : Vol) (j : Nat) (m : Mach) : (m.setVol i x).rd64 j = m.rd64 j := (rfl)
@[simp] theorem Mach.setRegion_rd64 (i : Nat) (x : Region) (j : Nat) (m : Mach) : (m.setRegion i x).rd64 j = m.rd64 j := (rfl)
@[simp] theorem Mach.setDesc_rd64 (i : Nat) (x : Desc) (j : Nat) (m : Mach) : (m.setDesc i x).rd64 j = m.rd64 j := (rfl)
@[simp] theorem Mach.setChn_rd64 (i : Chan) (x : Chn) (j : Nat) (m : Mach) : (m.setChn i x).rd64 j = m.rd64 j := (rfl)
@[simp] theorem Mach.setDie_rd64 (i : Nat) (x : DieSt) (j : Nat) (m : Mach) : (m.setDie i x).rd64 j = m.rd64 j := (rfl)
@[simp] theorem Mach.setFur_rd64 (i : Nat) (x : Fur) (j : Nat) (m : Mach) : (m.setFur i x).rd64 j = m.rd64 j := (rfl)
@[simp] theorem Mach.setDram_rd64 (i : Fin 4) (x : Drc) (j : Nat) (m : Mach) : (m.setDram i x).rd64 j = m.rd64 j := (rfl)
@[simp] theorem Mach.setKslot_rd64 (i : Nat) (x : KeySlot) (j : Nat) (m : Mach) : (m.setKslot i x).rd64 j = m.rd64 j := (rfl)
@[simp] theorem Mach.setSens_rd64 (i : Nat) (x : Sensor) (j : Nat) (m : Mach) : (m.setSens i x).rd64 j = m.rd64 j := (rfl)
@[simp] theorem Mach.setOpenF_rd64 (i : Fin 8) (x : Option OpenF) (j : Nat) (m : Mach) : (m.setOpenF i x).rd64 j = m.rd64 j := (rfl)
@[simp] theorem Mach.setBlk_rd64 (d b : Nat) (x : Blk) (j : Nat) (m : Mach) : (m.setBlk d b x).rd64 j = m.rd64 j := (rfl)
@[simp] theorem Mach.errBit_rd64 (p : Page) (i : Nat) (j : Nat) (m : Mach) : (m.errBit p i).rd64 j = m.rd64 j := (rfl)
@[simp] theorem Mach.updDev_hdr (f) (j : Page) (m : Mach) : (m.updDev f).hdr j = m.hdr j := (rfl)
@[simp] theorem Mach.updPff_hdr (f) (j : Page) (m : Mach) : (m.updPff f).hdr j = m.hdr j := (rfl)
@[simp] theorem Mach.updAdm_hdr (f) (j : Page) (m : Mach) : (m.updAdm f).hdr j = m.hdr j := (rfl)
@[simp] theorem Mach.updQ_hdr (f) (j : Page) (m : Mach) : (m.updQ f).hdr j = m.hdr j := (rfl)
@[simp] theorem Mach.updVol_hdr (f) (j : Page) (m : Mach) : (m.updVol f).hdr j = m.hdr j := (rfl)
@[simp] theorem Mach.updBuf_hdr (f) (j : Page) (m : Mach) : (m.updBuf f).hdr j = m.hdr j := (rfl)
@[simp] theorem Mach.updLamp_hdr (f) (j : Page) (m : Mach) : (m.updLamp f).hdr j = m.hdr j := (rfl)
@[simp] theorem Mach.updFl_hdr (f) (j : Page) (m : Mach) : (m.updFl f).hdr j = m.hdr j := (rfl)
@[simp] theorem Mach.updGln_hdr (f) (j : Page) (m : Mach) : (m.updGln f).hdr j = m.hdr j := (rfl)
@[simp] theorem Mach.updHdl_hdr (f) (j : Page) (m : Mach) : (m.updHdl f).hdr j = m.hdr j := (rfl)
@[simp] theorem Mach.updDrc_hdr (f) (j : Page) (m : Mach) : (m.updDrc f).hdr j = m.hdr j := (rfl)
@[simp] theorem Mach.updKey_hdr (f) (j : Page) (m : Mach) : (m.updKey f).hdr j = m.hdr j := (rfl)
@[simp] theorem Mach.updThm_hdr (f) (j : Page) (m : Mach) : (m.updThm f).hdr j = m.hdr j := (rfl)
@[simp] theorem Mach.updAlm_hdr (f) (j : Page) (m : Mach) : (m.updAlm f).hdr j = m.hdr j := (rfl)
@[simp] theorem Mach.updTwn_hdr (f) (j : Page) (m : Mach) : (m.updTwn f).hdr j = m.hdr j := (rfl)
@[simp] theorem Mach.updPort_hdr (p : Port) (f) (j : Page) (m : Mach) : (m.updPort p f).hdr j = m.hdr j := (rfl)
@[simp] theorem Mach.send_hdr (o : Out) (j : Page) (m : Mach) : (m.send o).hdr j = m.hdr j := (rfl)
@[simp] theorem Mach.draw_hdr (j : Page) (m : Mach) : (m.draw).hdr j = m.hdr j := (rfl)
@[simp] theorem Mach.wr_hdr (k : Nat) (v : Word) (j : Page) (m : Mach) : (m.wr k v).hdr j = m.hdr j := (rfl)
@[simp] theorem Mach.setFifo_hdr (n : Fin 8) (x : Fifo) (j : Page) (m : Mach) : (m.setFifo n x).hdr j = m.hdr j := (rfl)
@[simp] theorem Mach.setQp_hdr (i : Fin 256) (x : Qp) (j : Page) (m : Mach) : (m.setQp i x).hdr j = m.hdr j := (rfl)
@[simp] theorem Mach.setCmd_hdr (i : Nat) (x : Cmd) (j : Page) (m : Mach) : (m.setCmd i x).hdr j = m.hdr j := (rfl)
@[simp] theorem Mach.setVol_hdr (i : Vid) (x : Vol) (j : Page) (m : Mach) : (m.setVol i x).hdr j = m.hdr j := (rfl)
@[simp] theorem Mach.setRegion_hdr (i : Nat) (x : Region) (j : Page) (m : Mach) : (m.setRegion i x).hdr j = m.hdr j := (rfl)
@[simp] theorem Mach.setDesc_hdr (i : Nat) (x : Desc) (j : Page) (m : Mach) : (m.setDesc i x).hdr j = m.hdr j := (rfl)
@[simp] theorem Mach.setChn_hdr (i : Chan) (x : Chn) (j : Page) (m : Mach) : (m.setChn i x).hdr j = m.hdr j := (rfl)
@[simp] theorem Mach.setDie_hdr (i : Nat) (x : DieSt) (j : Page) (m : Mach) : (m.setDie i x).hdr j = m.hdr j := (rfl)
@[simp] theorem Mach.setFur_hdr (i : Nat) (x : Fur) (j : Page) (m : Mach) : (m.setFur i x).hdr j = m.hdr j := (rfl)
@[simp] theorem Mach.setDram_hdr (i : Fin 4) (x : Drc) (j : Page) (m : Mach) : (m.setDram i x).hdr j = m.hdr j := (rfl)
@[simp] theorem Mach.setKslot_hdr (i : Nat) (x : KeySlot) (j : Page) (m : Mach) : (m.setKslot i x).hdr j = m.hdr j := (rfl)
@[simp] theorem Mach.setSens_hdr (i : Nat) (x : Sensor) (j : Page) (m : Mach) : (m.setSens i x).hdr j = m.hdr j := (rfl)
@[simp] theorem Mach.setOpenF_hdr (i : Fin 8) (x : Option OpenF) (j : Page) (m : Mach) : (m.setOpenF i x).hdr j = m.hdr j := (rfl)
@[simp] theorem Mach.setBlk_hdr (d b : Nat) (x : Blk) (j : Page) (m : Mach) : (m.setBlk d b x).hdr j = m.hdr j := (rfl)
@[simp] theorem Mach.updDev_pageSt (f) (j : Page) (m : Mach) : (m.updDev f).pageSt j = m.pageSt j := (rfl)
@[simp] theorem Mach.updPff_pageSt (f) (j : Page) (m : Mach) : (m.updPff f).pageSt j = m.pageSt j := (rfl)
@[simp] theorem Mach.updAdm_pageSt (f) (j : Page) (m : Mach) : (m.updAdm f).pageSt j = m.pageSt j := (rfl)
@[simp] theorem Mach.updQ_pageSt (f) (j : Page) (m : Mach) : (m.updQ f).pageSt j = m.pageSt j := (rfl)
@[simp] theorem Mach.updVol_pageSt (f) (j : Page) (m : Mach) : (m.updVol f).pageSt j = m.pageSt j := (rfl)
@[simp] theorem Mach.updBuf_pageSt (f) (j : Page) (m : Mach) : (m.updBuf f).pageSt j = m.pageSt j := (rfl)
@[simp] theorem Mach.updLamp_pageSt (f) (j : Page) (m : Mach) : (m.updLamp f).pageSt j = m.pageSt j := (rfl)
@[simp] theorem Mach.updFl_pageSt (f) (j : Page) (m : Mach) : (m.updFl f).pageSt j = m.pageSt j := (rfl)
@[simp] theorem Mach.updGln_pageSt (f) (j : Page) (m : Mach) : (m.updGln f).pageSt j = m.pageSt j := (rfl)
@[simp] theorem Mach.updHdl_pageSt (f) (j : Page) (m : Mach) : (m.updHdl f).pageSt j = m.pageSt j := (rfl)
@[simp] theorem Mach.updDrc_pageSt (f) (j : Page) (m : Mach) : (m.updDrc f).pageSt j = m.pageSt j := (rfl)
@[simp] theorem Mach.updKey_pageSt (f) (j : Page) (m : Mach) : (m.updKey f).pageSt j = m.pageSt j := (rfl)
@[simp] theorem Mach.updThm_pageSt (f) (j : Page) (m : Mach) : (m.updThm f).pageSt j = m.pageSt j := (rfl)
@[simp] theorem Mach.updAlm_pageSt (f) (j : Page) (m : Mach) : (m.updAlm f).pageSt j = m.pageSt j := (rfl)
@[simp] theorem Mach.updTwn_pageSt (f) (j : Page) (m : Mach) : (m.updTwn f).pageSt j = m.pageSt j := (rfl)
@[simp] theorem Mach.updPort_pageSt (p : Port) (f) (j : Page) (m : Mach) : (m.updPort p f).pageSt j = m.pageSt j := (rfl)
@[simp] theorem Mach.send_pageSt (o : Out) (j : Page) (m : Mach) : (m.send o).pageSt j = m.pageSt j := (rfl)
@[simp] theorem Mach.draw_pageSt (j : Page) (m : Mach) : (m.draw).pageSt j = m.pageSt j := (rfl)
@[simp] theorem Mach.wr_pageSt (k : Nat) (v : Word) (j : Page) (m : Mach) : (m.wr k v).pageSt j = m.pageSt j := (rfl)
@[simp] theorem Mach.setFifo_pageSt (n : Fin 8) (x : Fifo) (j : Page) (m : Mach) : (m.setFifo n x).pageSt j = m.pageSt j := (rfl)
@[simp] theorem Mach.setQp_pageSt (i : Fin 256) (x : Qp) (j : Page) (m : Mach) : (m.setQp i x).pageSt j = m.pageSt j := (rfl)
@[simp] theorem Mach.setCmd_pageSt (i : Nat) (x : Cmd) (j : Page) (m : Mach) : (m.setCmd i x).pageSt j = m.pageSt j := (rfl)
@[simp] theorem Mach.setVol_pageSt (i : Vid) (x : Vol) (j : Page) (m : Mach) : (m.setVol i x).pageSt j = m.pageSt j := (rfl)
@[simp] theorem Mach.setRegion_pageSt (i : Nat) (x : Region) (j : Page) (m : Mach) : (m.setRegion i x).pageSt j = m.pageSt j := (rfl)
@[simp] theorem Mach.setDesc_pageSt (i : Nat) (x : Desc) (j : Page) (m : Mach) : (m.setDesc i x).pageSt j = m.pageSt j := (rfl)
@[simp] theorem Mach.setChn_pageSt (i : Chan) (x : Chn) (j : Page) (m : Mach) : (m.setChn i x).pageSt j = m.pageSt j := (rfl)
@[simp] theorem Mach.setDie_pageSt (i : Nat) (x : DieSt) (j : Page) (m : Mach) : (m.setDie i x).pageSt j = m.pageSt j := (rfl)
@[simp] theorem Mach.setFur_pageSt (i : Nat) (x : Fur) (j : Page) (m : Mach) : (m.setFur i x).pageSt j = m.pageSt j := (rfl)
@[simp] theorem Mach.setDram_pageSt (i : Fin 4) (x : Drc) (j : Page) (m : Mach) : (m.setDram i x).pageSt j = m.pageSt j := (rfl)
@[simp] theorem Mach.setKslot_pageSt (i : Nat) (x : KeySlot) (j : Page) (m : Mach) : (m.setKslot i x).pageSt j = m.pageSt j := (rfl)
@[simp] theorem Mach.setSens_pageSt (i : Nat) (x : Sensor) (j : Page) (m : Mach) : (m.setSens i x).pageSt j = m.pageSt j := (rfl)
@[simp] theorem Mach.setOpenF_pageSt (i : Fin 8) (x : Option OpenF) (j : Page) (m : Mach) : (m.setOpenF i x).pageSt j = m.pageSt j := (rfl)
@[simp] theorem Mach.setBlk_pageSt (d b : Nat) (x : Blk) (j : Page) (m : Mach) : (m.setBlk d b x).pageSt j = m.pageSt j := (rfl)
@[simp] theorem Mach.updDev_running (f) (j : Page) (m : Mach) : (m.updDev f).running j = m.running j := (rfl)
@[simp] theorem Mach.updPff_running (f) (j : Page) (m : Mach) : (m.updPff f).running j = m.running j := (rfl)
@[simp] theorem Mach.updAdm_running (f) (j : Page) (m : Mach) : (m.updAdm f).running j = m.running j := (rfl)
@[simp] theorem Mach.updQ_running (f) (j : Page) (m : Mach) : (m.updQ f).running j = m.running j := (rfl)
@[simp] theorem Mach.updVol_running (f) (j : Page) (m : Mach) : (m.updVol f).running j = m.running j := (rfl)
@[simp] theorem Mach.updBuf_running (f) (j : Page) (m : Mach) : (m.updBuf f).running j = m.running j := (rfl)
@[simp] theorem Mach.updLamp_running (f) (j : Page) (m : Mach) : (m.updLamp f).running j = m.running j := (rfl)
@[simp] theorem Mach.updFl_running (f) (j : Page) (m : Mach) : (m.updFl f).running j = m.running j := (rfl)
@[simp] theorem Mach.updGln_running (f) (j : Page) (m : Mach) : (m.updGln f).running j = m.running j := (rfl)
@[simp] theorem Mach.updHdl_running (f) (j : Page) (m : Mach) : (m.updHdl f).running j = m.running j := (rfl)
@[simp] theorem Mach.updDrc_running (f) (j : Page) (m : Mach) : (m.updDrc f).running j = m.running j := (rfl)
@[simp] theorem Mach.updKey_running (f) (j : Page) (m : Mach) : (m.updKey f).running j = m.running j := (rfl)
@[simp] theorem Mach.updThm_running (f) (j : Page) (m : Mach) : (m.updThm f).running j = m.running j := (rfl)
@[simp] theorem Mach.updAlm_running (f) (j : Page) (m : Mach) : (m.updAlm f).running j = m.running j := (rfl)
@[simp] theorem Mach.updTwn_running (f) (j : Page) (m : Mach) : (m.updTwn f).running j = m.running j := (rfl)
@[simp] theorem Mach.updPort_running (p : Port) (f) (j : Page) (m : Mach) : (m.updPort p f).running j = m.running j := (rfl)
@[simp] theorem Mach.send_running (o : Out) (j : Page) (m : Mach) : (m.send o).running j = m.running j := (rfl)
@[simp] theorem Mach.draw_running (j : Page) (m : Mach) : (m.draw).running j = m.running j := (rfl)
@[simp] theorem Mach.wr_running (k : Nat) (v : Word) (j : Page) (m : Mach) : (m.wr k v).running j = m.running j := (rfl)
@[simp] theorem Mach.setFifo_running (n : Fin 8) (x : Fifo) (j : Page) (m : Mach) : (m.setFifo n x).running j = m.running j := (rfl)
@[simp] theorem Mach.setQp_running (i : Fin 256) (x : Qp) (j : Page) (m : Mach) : (m.setQp i x).running j = m.running j := (rfl)
@[simp] theorem Mach.setCmd_running (i : Nat) (x : Cmd) (j : Page) (m : Mach) : (m.setCmd i x).running j = m.running j := (rfl)
@[simp] theorem Mach.setVol_running (i : Vid) (x : Vol) (j : Page) (m : Mach) : (m.setVol i x).running j = m.running j := (rfl)
@[simp] theorem Mach.setRegion_running (i : Nat) (x : Region) (j : Page) (m : Mach) : (m.setRegion i x).running j = m.running j := (rfl)
@[simp] theorem Mach.setDesc_running (i : Nat) (x : Desc) (j : Page) (m : Mach) : (m.setDesc i x).running j = m.running j := (rfl)
@[simp] theorem Mach.setChn_running (i : Chan) (x : Chn) (j : Page) (m : Mach) : (m.setChn i x).running j = m.running j := (rfl)
@[simp] theorem Mach.setDie_running (i : Nat) (x : DieSt) (j : Page) (m : Mach) : (m.setDie i x).running j = m.running j := (rfl)
@[simp] theorem Mach.setFur_running (i : Nat) (x : Fur) (j : Page) (m : Mach) : (m.setFur i x).running j = m.running j := (rfl)
@[simp] theorem Mach.setDram_running (i : Fin 4) (x : Drc) (j : Page) (m : Mach) : (m.setDram i x).running j = m.running j := (rfl)
@[simp] theorem Mach.setKslot_running (i : Nat) (x : KeySlot) (j : Page) (m : Mach) : (m.setKslot i x).running j = m.running j := (rfl)
@[simp] theorem Mach.setSens_running (i : Nat) (x : Sensor) (j : Page) (m : Mach) : (m.setSens i x).running j = m.running j := (rfl)
@[simp] theorem Mach.setOpenF_running (i : Fin 8) (x : Option OpenF) (j : Page) (m : Mach) : (m.setOpenF i x).running j = m.running j := (rfl)
@[simp] theorem Mach.setBlk_running (d b : Nat) (x : Blk) (j : Page) (m : Mach) : (m.setBlk d b x).running j = m.running j := (rfl)
@[simp] theorem Mach.updDev_fifo (f) (j : Fin 8) (m : Mach) : (m.updDev f).fifo j = m.fifo j := (rfl)
@[simp] theorem Mach.updReg_fifo (f) (j : Fin 8) (m : Mach) : (m.updReg f).fifo j = m.fifo j := (rfl)
@[simp] theorem Mach.updAdm_fifo (f) (j : Fin 8) (m : Mach) : (m.updAdm f).fifo j = m.fifo j := (rfl)
@[simp] theorem Mach.updQ_fifo (f) (j : Fin 8) (m : Mach) : (m.updQ f).fifo j = m.fifo j := (rfl)
@[simp] theorem Mach.updVol_fifo (f) (j : Fin 8) (m : Mach) : (m.updVol f).fifo j = m.fifo j := (rfl)
@[simp] theorem Mach.updBuf_fifo (f) (j : Fin 8) (m : Mach) : (m.updBuf f).fifo j = m.fifo j := (rfl)
@[simp] theorem Mach.updLamp_fifo (f) (j : Fin 8) (m : Mach) : (m.updLamp f).fifo j = m.fifo j := (rfl)
@[simp] theorem Mach.updFl_fifo (f) (j : Fin 8) (m : Mach) : (m.updFl f).fifo j = m.fifo j := (rfl)
@[simp] theorem Mach.updGln_fifo (f) (j : Fin 8) (m : Mach) : (m.updGln f).fifo j = m.fifo j := (rfl)
@[simp] theorem Mach.updHdl_fifo (f) (j : Fin 8) (m : Mach) : (m.updHdl f).fifo j = m.fifo j := (rfl)
@[simp] theorem Mach.updDrc_fifo (f) (j : Fin 8) (m : Mach) : (m.updDrc f).fifo j = m.fifo j := (rfl)
@[simp] theorem Mach.updKey_fifo (f) (j : Fin 8) (m : Mach) : (m.updKey f).fifo j = m.fifo j := (rfl)
@[simp] theorem Mach.updThm_fifo (f) (j : Fin 8) (m : Mach) : (m.updThm f).fifo j = m.fifo j := (rfl)
@[simp] theorem Mach.updAlm_fifo (f) (j : Fin 8) (m : Mach) : (m.updAlm f).fifo j = m.fifo j := (rfl)
@[simp] theorem Mach.updTwn_fifo (f) (j : Fin 8) (m : Mach) : (m.updTwn f).fifo j = m.fifo j := (rfl)
@[simp] theorem Mach.updPort_fifo (p : Port) (f) (j : Fin 8) (m : Mach) : (m.updPort p f).fifo j = m.fifo j := (rfl)
@[simp] theorem Mach.send_fifo (o : Out) (j : Fin 8) (m : Mach) : (m.send o).fifo j = m.fifo j := (rfl)
@[simp] theorem Mach.draw_fifo (j : Fin 8) (m : Mach) : (m.draw).fifo j = m.fifo j := (rfl)
@[simp] theorem Mach.wr_fifo (k : Nat) (v : Word) (j : Fin 8) (m : Mach) : (m.wr k v).fifo j = m.fifo j := (rfl)
@[simp] theorem Mach.setHdr_fifo (p : Page) (h : PageHdr) (j : Fin 8) (m : Mach) : (m.setHdr p h).fifo j = m.fifo j := (rfl)
@[simp] theorem Mach.setPageSt_fifo (p : Page) (x : PageSt) (j : Fin 8) (m : Mach) : (m.setPageSt p x).fifo j = m.fifo j := (rfl)
@[simp] theorem Mach.touch_fifo (p : Page) (j : Fin 8) (m : Mach) : (m.touch p).fifo j = m.fifo j := by simp [Mach.fifo]
@[simp] theorem Mach.set_fifo (k : Nat) (v : Word) (j : Fin 8) (m : Mach) : (m.set k v).fifo j = m.fifo j := by simp [Mach.fifo]
@[simp] theorem Mach.bumpBy_fifo (k n : Nat) (j : Fin 8) (m : Mach) : (m.bumpBy k n).fifo j = m.fifo j := by simp [Mach.fifo]
@[simp] theorem Mach.bump_fifo (k : Nat) (j : Fin 8) (m : Mach) : (m.bump k).fifo j = m.fifo j := by simp [Mach.fifo]
@[simp] theorem Mach.raiseTo_fifo (k n t : Nat) (j : Fin 8) (m : Mach) : (m.raiseTo k n t).fifo j = m.fifo j := by simp [Mach.fifo]
@[simp] theorem Mach.bumpWrap_fifo (k : Nat) (j : Fin 8) (m : Mach) : (m.bumpWrap k).fifo j = m.fifo j := by simp [Mach.fifo]
@[simp] theorem Mach.bump64By_fifo (k n : Nat) (j : Fin 8) (m : Mach) : (m.bump64By k n).fifo j = m.fifo j := by simp [Mach.fifo]
@[simp] theorem Mach.bump64_fifo (k : Nat) (j : Fin 8) (m : Mach) : (m.bump64 k).fifo j = m.fifo j := by simp [Mach.fifo]
@[simp] theorem Mach.wdrop_fifo (a : Agent) (j : Fin 8) (m : Mach) : (m.wdrop a).fifo j = m.fifo j := by simp [Mach.fifo]
@[simp] theorem Mach.setQp_fifo (i : Fin 256) (x : Qp) (j : Fin 8) (m : Mach) : (m.setQp i x).fifo j = m.fifo j := (rfl)
@[simp] theorem Mach.setCmd_fifo (i : Nat) (x : Cmd) (j : Fin 8) (m : Mach) : (m.setCmd i x).fifo j = m.fifo j := (rfl)
@[simp] theorem Mach.setVol_fifo (i : Vid) (x : Vol) (j : Fin 8) (m : Mach) : (m.setVol i x).fifo j = m.fifo j := (rfl)
@[simp] theorem Mach.setRegion_fifo (i : Nat) (x : Region) (j : Fin 8) (m : Mach) : (m.setRegion i x).fifo j = m.fifo j := (rfl)
@[simp] theorem Mach.setDesc_fifo (i : Nat) (x : Desc) (j : Fin 8) (m : Mach) : (m.setDesc i x).fifo j = m.fifo j := (rfl)
@[simp] theorem Mach.setChn_fifo (i : Chan) (x : Chn) (j : Fin 8) (m : Mach) : (m.setChn i x).fifo j = m.fifo j := (rfl)
@[simp] theorem Mach.setDie_fifo (i : Nat) (x : DieSt) (j : Fin 8) (m : Mach) : (m.setDie i x).fifo j = m.fifo j := (rfl)
@[simp] theorem Mach.setFur_fifo (i : Nat) (x : Fur) (j : Fin 8) (m : Mach) : (m.setFur i x).fifo j = m.fifo j := (rfl)
@[simp] theorem Mach.setDram_fifo (i : Fin 4) (x : Drc) (j : Fin 8) (m : Mach) : (m.setDram i x).fifo j = m.fifo j := (rfl)
@[simp] theorem Mach.setKslot_fifo (i : Nat) (x : KeySlot) (j : Fin 8) (m : Mach) : (m.setKslot i x).fifo j = m.fifo j := (rfl)
@[simp] theorem Mach.setSens_fifo (i : Nat) (x : Sensor) (j : Fin 8) (m : Mach) : (m.setSens i x).fifo j = m.fifo j := (rfl)
@[simp] theorem Mach.setOpenF_fifo (i : Fin 8) (x : Option OpenF) (j : Fin 8) (m : Mach) : (m.setOpenF i x).fifo j = m.fifo j := (rfl)
@[simp] theorem Mach.setBlk_fifo (d b : Nat) (x : Blk) (j : Fin 8) (m : Mach) : (m.setBlk d b x).fifo j = m.fifo j := (rfl)
@[simp] theorem Mach.errBit_fifo (p : Page) (i : Nat) (j : Fin 8) (m : Mach) : (m.errBit p i).fifo j = m.fifo j := (rfl)
@[simp] theorem Mach.updDev_qp (f) (j : Fin 256) (m : Mach) : (m.updDev f).qp j = m.qp j := (rfl)
@[simp] theorem Mach.updReg_qp (f) (j : Fin 256) (m : Mach) : (m.updReg f).qp j = m.qp j := (rfl)
@[simp] theorem Mach.updPff_qp (f) (j : Fin 256) (m : Mach) : (m.updPff f).qp j = m.qp j := (rfl)
@[simp] theorem Mach.updAdm_qp (f) (j : Fin 256) (m : Mach) : (m.updAdm f).qp j = m.qp j := (rfl)
@[simp] theorem Mach.updVol_qp (f) (j : Fin 256) (m : Mach) : (m.updVol f).qp j = m.qp j := (rfl)
@[simp] theorem Mach.updBuf_qp (f) (j : Fin 256) (m : Mach) : (m.updBuf f).qp j = m.qp j := (rfl)
@[simp] theorem Mach.updLamp_qp (f) (j : Fin 256) (m : Mach) : (m.updLamp f).qp j = m.qp j := (rfl)
@[simp] theorem Mach.updFl_qp (f) (j : Fin 256) (m : Mach) : (m.updFl f).qp j = m.qp j := (rfl)
@[simp] theorem Mach.updGln_qp (f) (j : Fin 256) (m : Mach) : (m.updGln f).qp j = m.qp j := (rfl)
@[simp] theorem Mach.updHdl_qp (f) (j : Fin 256) (m : Mach) : (m.updHdl f).qp j = m.qp j := (rfl)
@[simp] theorem Mach.updDrc_qp (f) (j : Fin 256) (m : Mach) : (m.updDrc f).qp j = m.qp j := (rfl)
@[simp] theorem Mach.updKey_qp (f) (j : Fin 256) (m : Mach) : (m.updKey f).qp j = m.qp j := (rfl)
@[simp] theorem Mach.updThm_qp (f) (j : Fin 256) (m : Mach) : (m.updThm f).qp j = m.qp j := (rfl)
@[simp] theorem Mach.updAlm_qp (f) (j : Fin 256) (m : Mach) : (m.updAlm f).qp j = m.qp j := (rfl)
@[simp] theorem Mach.updTwn_qp (f) (j : Fin 256) (m : Mach) : (m.updTwn f).qp j = m.qp j := (rfl)
@[simp] theorem Mach.updPort_qp (p : Port) (f) (j : Fin 256) (m : Mach) : (m.updPort p f).qp j = m.qp j := (rfl)
@[simp] theorem Mach.send_qp (o : Out) (j : Fin 256) (m : Mach) : (m.send o).qp j = m.qp j := (rfl)
@[simp] theorem Mach.draw_qp (j : Fin 256) (m : Mach) : (m.draw).qp j = m.qp j := (rfl)
@[simp] theorem Mach.wr_qp (k : Nat) (v : Word) (j : Fin 256) (m : Mach) : (m.wr k v).qp j = m.qp j := (rfl)
@[simp] theorem Mach.setHdr_qp (p : Page) (h : PageHdr) (j : Fin 256) (m : Mach) : (m.setHdr p h).qp j = m.qp j := (rfl)
@[simp] theorem Mach.setPageSt_qp (p : Page) (x : PageSt) (j : Fin 256) (m : Mach) : (m.setPageSt p x).qp j = m.qp j := (rfl)
@[simp] theorem Mach.touch_qp (p : Page) (j : Fin 256) (m : Mach) : (m.touch p).qp j = m.qp j := by simp [Mach.qp]
@[simp] theorem Mach.set_qp (k : Nat) (v : Word) (j : Fin 256) (m : Mach) : (m.set k v).qp j = m.qp j := by simp [Mach.qp]
@[simp] theorem Mach.bumpBy_qp (k n : Nat) (j : Fin 256) (m : Mach) : (m.bumpBy k n).qp j = m.qp j := by simp [Mach.qp]
@[simp] theorem Mach.bump_qp (k : Nat) (j : Fin 256) (m : Mach) : (m.bump k).qp j = m.qp j := by simp [Mach.qp]
@[simp] theorem Mach.raiseTo_qp (k n t : Nat) (j : Fin 256) (m : Mach) : (m.raiseTo k n t).qp j = m.qp j := by simp [Mach.qp]
@[simp] theorem Mach.bumpWrap_qp (k : Nat) (j : Fin 256) (m : Mach) : (m.bumpWrap k).qp j = m.qp j := by simp [Mach.qp]
@[simp] theorem Mach.bump64By_qp (k n : Nat) (j : Fin 256) (m : Mach) : (m.bump64By k n).qp j = m.qp j := by simp [Mach.qp]
@[simp] theorem Mach.bump64_qp (k : Nat) (j : Fin 256) (m : Mach) : (m.bump64 k).qp j = m.qp j := by simp [Mach.qp]
@[simp] theorem Mach.wdrop_qp (a : Agent) (j : Fin 256) (m : Mach) : (m.wdrop a).qp j = m.qp j := by simp [Mach.qp]
@[simp] theorem Mach.setFifo_qp (n : Fin 8) (x : Fifo) (j : Fin 256) (m : Mach) : (m.setFifo n x).qp j = m.qp j := (rfl)
@[simp] theorem Mach.setCmd_qp (i : Nat) (x : Cmd) (j : Fin 256) (m : Mach) : (m.setCmd i x).qp j = m.qp j := (rfl)
@[simp] theorem Mach.setVol_qp (i : Vid) (x : Vol) (j : Fin 256) (m : Mach) : (m.setVol i x).qp j = m.qp j := (rfl)
@[simp] theorem Mach.setRegion_qp (i : Nat) (x : Region) (j : Fin 256) (m : Mach) : (m.setRegion i x).qp j = m.qp j := (rfl)
@[simp] theorem Mach.setDesc_qp (i : Nat) (x : Desc) (j : Fin 256) (m : Mach) : (m.setDesc i x).qp j = m.qp j := (rfl)
@[simp] theorem Mach.setChn_qp (i : Chan) (x : Chn) (j : Fin 256) (m : Mach) : (m.setChn i x).qp j = m.qp j := (rfl)
@[simp] theorem Mach.setDie_qp (i : Nat) (x : DieSt) (j : Fin 256) (m : Mach) : (m.setDie i x).qp j = m.qp j := (rfl)
@[simp] theorem Mach.setFur_qp (i : Nat) (x : Fur) (j : Fin 256) (m : Mach) : (m.setFur i x).qp j = m.qp j := (rfl)
@[simp] theorem Mach.setDram_qp (i : Fin 4) (x : Drc) (j : Fin 256) (m : Mach) : (m.setDram i x).qp j = m.qp j := (rfl)
@[simp] theorem Mach.setKslot_qp (i : Nat) (x : KeySlot) (j : Fin 256) (m : Mach) : (m.setKslot i x).qp j = m.qp j := (rfl)
@[simp] theorem Mach.setSens_qp (i : Nat) (x : Sensor) (j : Fin 256) (m : Mach) : (m.setSens i x).qp j = m.qp j := (rfl)
@[simp] theorem Mach.setOpenF_qp (i : Fin 8) (x : Option OpenF) (j : Fin 256) (m : Mach) : (m.setOpenF i x).qp j = m.qp j := (rfl)
@[simp] theorem Mach.setBlk_qp (d b : Nat) (x : Blk) (j : Fin 256) (m : Mach) : (m.setBlk d b x).qp j = m.qp j := (rfl)
@[simp] theorem Mach.errBit_qp (p : Page) (i : Nat) (j : Fin 256) (m : Mach) : (m.errBit p i).qp j = m.qp j := (rfl)
@[simp] theorem Mach.updDev_cmd (f) (j : Nat) (m : Mach) : (m.updDev f).cmd j = m.cmd j := (rfl)
@[simp] theorem Mach.updReg_cmd (f) (j : Nat) (m : Mach) : (m.updReg f).cmd j = m.cmd j := (rfl)
@[simp] theorem Mach.updPff_cmd (f) (j : Nat) (m : Mach) : (m.updPff f).cmd j = m.cmd j := (rfl)
@[simp] theorem Mach.updAdm_cmd (f) (j : Nat) (m : Mach) : (m.updAdm f).cmd j = m.cmd j := (rfl)
@[simp] theorem Mach.updVol_cmd (f) (j : Nat) (m : Mach) : (m.updVol f).cmd j = m.cmd j := (rfl)
@[simp] theorem Mach.updBuf_cmd (f) (j : Nat) (m : Mach) : (m.updBuf f).cmd j = m.cmd j := (rfl)
@[simp] theorem Mach.updLamp_cmd (f) (j : Nat) (m : Mach) : (m.updLamp f).cmd j = m.cmd j := (rfl)
@[simp] theorem Mach.updFl_cmd (f) (j : Nat) (m : Mach) : (m.updFl f).cmd j = m.cmd j := (rfl)
@[simp] theorem Mach.updGln_cmd (f) (j : Nat) (m : Mach) : (m.updGln f).cmd j = m.cmd j := (rfl)
@[simp] theorem Mach.updHdl_cmd (f) (j : Nat) (m : Mach) : (m.updHdl f).cmd j = m.cmd j := (rfl)
@[simp] theorem Mach.updDrc_cmd (f) (j : Nat) (m : Mach) : (m.updDrc f).cmd j = m.cmd j := (rfl)
@[simp] theorem Mach.updKey_cmd (f) (j : Nat) (m : Mach) : (m.updKey f).cmd j = m.cmd j := (rfl)
@[simp] theorem Mach.updThm_cmd (f) (j : Nat) (m : Mach) : (m.updThm f).cmd j = m.cmd j := (rfl)
@[simp] theorem Mach.updAlm_cmd (f) (j : Nat) (m : Mach) : (m.updAlm f).cmd j = m.cmd j := (rfl)
@[simp] theorem Mach.updTwn_cmd (f) (j : Nat) (m : Mach) : (m.updTwn f).cmd j = m.cmd j := (rfl)
@[simp] theorem Mach.updPort_cmd (p : Port) (f) (j : Nat) (m : Mach) : (m.updPort p f).cmd j = m.cmd j := (rfl)
@[simp] theorem Mach.send_cmd (o : Out) (j : Nat) (m : Mach) : (m.send o).cmd j = m.cmd j := (rfl)
@[simp] theorem Mach.draw_cmd (j : Nat) (m : Mach) : (m.draw).cmd j = m.cmd j := (rfl)
@[simp] theorem Mach.wr_cmd (k : Nat) (v : Word) (j : Nat) (m : Mach) : (m.wr k v).cmd j = m.cmd j := (rfl)
@[simp] theorem Mach.setHdr_cmd (p : Page) (h : PageHdr) (j : Nat) (m : Mach) : (m.setHdr p h).cmd j = m.cmd j := (rfl)
@[simp] theorem Mach.setPageSt_cmd (p : Page) (x : PageSt) (j : Nat) (m : Mach) : (m.setPageSt p x).cmd j = m.cmd j := (rfl)
@[simp] theorem Mach.touch_cmd (p : Page) (j : Nat) (m : Mach) : (m.touch p).cmd j = m.cmd j := by simp [Mach.cmd]
@[simp] theorem Mach.set_cmd (k : Nat) (v : Word) (j : Nat) (m : Mach) : (m.set k v).cmd j = m.cmd j := by simp [Mach.cmd]
@[simp] theorem Mach.bumpBy_cmd (k n : Nat) (j : Nat) (m : Mach) : (m.bumpBy k n).cmd j = m.cmd j := by simp [Mach.cmd]
@[simp] theorem Mach.bump_cmd (k : Nat) (j : Nat) (m : Mach) : (m.bump k).cmd j = m.cmd j := by simp [Mach.cmd]
@[simp] theorem Mach.raiseTo_cmd (k n t : Nat) (j : Nat) (m : Mach) : (m.raiseTo k n t).cmd j = m.cmd j := by simp [Mach.cmd]
@[simp] theorem Mach.bumpWrap_cmd (k : Nat) (j : Nat) (m : Mach) : (m.bumpWrap k).cmd j = m.cmd j := by simp [Mach.cmd]
@[simp] theorem Mach.bump64By_cmd (k n : Nat) (j : Nat) (m : Mach) : (m.bump64By k n).cmd j = m.cmd j := by simp [Mach.cmd]
@[simp] theorem Mach.bump64_cmd (k : Nat) (j : Nat) (m : Mach) : (m.bump64 k).cmd j = m.cmd j := by simp [Mach.cmd]
@[simp] theorem Mach.wdrop_cmd (a : Agent) (j : Nat) (m : Mach) : (m.wdrop a).cmd j = m.cmd j := by simp [Mach.cmd]
@[simp] theorem Mach.setFifo_cmd (n : Fin 8) (x : Fifo) (j : Nat) (m : Mach) : (m.setFifo n x).cmd j = m.cmd j := (rfl)
@[simp] theorem Mach.setQp_cmd (i : Fin 256) (x : Qp) (j : Nat) (m : Mach) : (m.setQp i x).cmd j = m.cmd j := (rfl)
@[simp] theorem Mach.setVol_cmd (i : Vid) (x : Vol) (j : Nat) (m : Mach) : (m.setVol i x).cmd j = m.cmd j := (rfl)
@[simp] theorem Mach.setRegion_cmd (i : Nat) (x : Region) (j : Nat) (m : Mach) : (m.setRegion i x).cmd j = m.cmd j := (rfl)
@[simp] theorem Mach.setDesc_cmd (i : Nat) (x : Desc) (j : Nat) (m : Mach) : (m.setDesc i x).cmd j = m.cmd j := (rfl)
@[simp] theorem Mach.setChn_cmd (i : Chan) (x : Chn) (j : Nat) (m : Mach) : (m.setChn i x).cmd j = m.cmd j := (rfl)
@[simp] theorem Mach.setDie_cmd (i : Nat) (x : DieSt) (j : Nat) (m : Mach) : (m.setDie i x).cmd j = m.cmd j := (rfl)
@[simp] theorem Mach.setFur_cmd (i : Nat) (x : Fur) (j : Nat) (m : Mach) : (m.setFur i x).cmd j = m.cmd j := (rfl)
@[simp] theorem Mach.setDram_cmd (i : Fin 4) (x : Drc) (j : Nat) (m : Mach) : (m.setDram i x).cmd j = m.cmd j := (rfl)
@[simp] theorem Mach.setKslot_cmd (i : Nat) (x : KeySlot) (j : Nat) (m : Mach) : (m.setKslot i x).cmd j = m.cmd j := (rfl)
@[simp] theorem Mach.setSens_cmd (i : Nat) (x : Sensor) (j : Nat) (m : Mach) : (m.setSens i x).cmd j = m.cmd j := (rfl)
@[simp] theorem Mach.setOpenF_cmd (i : Fin 8) (x : Option OpenF) (j : Nat) (m : Mach) : (m.setOpenF i x).cmd j = m.cmd j := (rfl)
@[simp] theorem Mach.setBlk_cmd (d b : Nat) (x : Blk) (j : Nat) (m : Mach) : (m.setBlk d b x).cmd j = m.cmd j := (rfl)
@[simp] theorem Mach.errBit_cmd (p : Page) (i : Nat) (j : Nat) (m : Mach) : (m.errBit p i).cmd j = m.cmd j := (rfl)
@[simp] theorem Mach.updDev_volu (f) (j : Vid) (m : Mach) : (m.updDev f).volu j = m.volu j := (rfl)
@[simp] theorem Mach.updReg_volu (f) (j : Vid) (m : Mach) : (m.updReg f).volu j = m.volu j := (rfl)
@[simp] theorem Mach.updPff_volu (f) (j : Vid) (m : Mach) : (m.updPff f).volu j = m.volu j := (rfl)
@[simp] theorem Mach.updAdm_volu (f) (j : Vid) (m : Mach) : (m.updAdm f).volu j = m.volu j := (rfl)
@[simp] theorem Mach.updQ_volu (f) (j : Vid) (m : Mach) : (m.updQ f).volu j = m.volu j := (rfl)
@[simp] theorem Mach.updBuf_volu (f) (j : Vid) (m : Mach) : (m.updBuf f).volu j = m.volu j := (rfl)
@[simp] theorem Mach.updLamp_volu (f) (j : Vid) (m : Mach) : (m.updLamp f).volu j = m.volu j := (rfl)
@[simp] theorem Mach.updFl_volu (f) (j : Vid) (m : Mach) : (m.updFl f).volu j = m.volu j := (rfl)
@[simp] theorem Mach.updGln_volu (f) (j : Vid) (m : Mach) : (m.updGln f).volu j = m.volu j := (rfl)
@[simp] theorem Mach.updHdl_volu (f) (j : Vid) (m : Mach) : (m.updHdl f).volu j = m.volu j := (rfl)
@[simp] theorem Mach.updDrc_volu (f) (j : Vid) (m : Mach) : (m.updDrc f).volu j = m.volu j := (rfl)
@[simp] theorem Mach.updKey_volu (f) (j : Vid) (m : Mach) : (m.updKey f).volu j = m.volu j := (rfl)
@[simp] theorem Mach.updThm_volu (f) (j : Vid) (m : Mach) : (m.updThm f).volu j = m.volu j := (rfl)
@[simp] theorem Mach.updAlm_volu (f) (j : Vid) (m : Mach) : (m.updAlm f).volu j = m.volu j := (rfl)
@[simp] theorem Mach.updTwn_volu (f) (j : Vid) (m : Mach) : (m.updTwn f).volu j = m.volu j := (rfl)
@[simp] theorem Mach.updPort_volu (p : Port) (f) (j : Vid) (m : Mach) : (m.updPort p f).volu j = m.volu j := (rfl)
@[simp] theorem Mach.send_volu (o : Out) (j : Vid) (m : Mach) : (m.send o).volu j = m.volu j := (rfl)
@[simp] theorem Mach.draw_volu (j : Vid) (m : Mach) : (m.draw).volu j = m.volu j := (rfl)
@[simp] theorem Mach.wr_volu (k : Nat) (v : Word) (j : Vid) (m : Mach) : (m.wr k v).volu j = m.volu j := (rfl)
@[simp] theorem Mach.setHdr_volu (p : Page) (h : PageHdr) (j : Vid) (m : Mach) : (m.setHdr p h).volu j = m.volu j := (rfl)
@[simp] theorem Mach.setPageSt_volu (p : Page) (x : PageSt) (j : Vid) (m : Mach) : (m.setPageSt p x).volu j = m.volu j := (rfl)
@[simp] theorem Mach.touch_volu (p : Page) (j : Vid) (m : Mach) : (m.touch p).volu j = m.volu j := by simp [Mach.volu]
@[simp] theorem Mach.set_volu (k : Nat) (v : Word) (j : Vid) (m : Mach) : (m.set k v).volu j = m.volu j := by simp [Mach.volu]
@[simp] theorem Mach.bumpBy_volu (k n : Nat) (j : Vid) (m : Mach) : (m.bumpBy k n).volu j = m.volu j := by simp [Mach.volu]
@[simp] theorem Mach.bump_volu (k : Nat) (j : Vid) (m : Mach) : (m.bump k).volu j = m.volu j := by simp [Mach.volu]
@[simp] theorem Mach.raiseTo_volu (k n t : Nat) (j : Vid) (m : Mach) : (m.raiseTo k n t).volu j = m.volu j := by simp [Mach.volu]
@[simp] theorem Mach.bumpWrap_volu (k : Nat) (j : Vid) (m : Mach) : (m.bumpWrap k).volu j = m.volu j := by simp [Mach.volu]
@[simp] theorem Mach.bump64By_volu (k n : Nat) (j : Vid) (m : Mach) : (m.bump64By k n).volu j = m.volu j := by simp [Mach.volu]
@[simp] theorem Mach.bump64_volu (k : Nat) (j : Vid) (m : Mach) : (m.bump64 k).volu j = m.volu j := by simp [Mach.volu]
@[simp] theorem Mach.wdrop_volu (a : Agent) (j : Vid) (m : Mach) : (m.wdrop a).volu j = m.volu j := by simp [Mach.volu]
@[simp] theorem Mach.setFifo_volu (n : Fin 8) (x : Fifo) (j : Vid) (m : Mach) : (m.setFifo n x).volu j = m.volu j := (rfl)
@[simp] theorem Mach.setQp_volu (i : Fin 256) (x : Qp) (j : Vid) (m : Mach) : (m.setQp i x).volu j = m.volu j := (rfl)
@[simp] theorem Mach.setCmd_volu (i : Nat) (x : Cmd) (j : Vid) (m : Mach) : (m.setCmd i x).volu j = m.volu j := (rfl)
@[simp] theorem Mach.setRegion_volu (i : Nat) (x : Region) (j : Vid) (m : Mach) : (m.setRegion i x).volu j = m.volu j := (rfl)
@[simp] theorem Mach.setDesc_volu (i : Nat) (x : Desc) (j : Vid) (m : Mach) : (m.setDesc i x).volu j = m.volu j := (rfl)
@[simp] theorem Mach.setChn_volu (i : Chan) (x : Chn) (j : Vid) (m : Mach) : (m.setChn i x).volu j = m.volu j := (rfl)
@[simp] theorem Mach.setDie_volu (i : Nat) (x : DieSt) (j : Vid) (m : Mach) : (m.setDie i x).volu j = m.volu j := (rfl)
@[simp] theorem Mach.setFur_volu (i : Nat) (x : Fur) (j : Vid) (m : Mach) : (m.setFur i x).volu j = m.volu j := (rfl)
@[simp] theorem Mach.setDram_volu (i : Fin 4) (x : Drc) (j : Vid) (m : Mach) : (m.setDram i x).volu j = m.volu j := (rfl)
@[simp] theorem Mach.setKslot_volu (i : Nat) (x : KeySlot) (j : Vid) (m : Mach) : (m.setKslot i x).volu j = m.volu j := (rfl)
@[simp] theorem Mach.setSens_volu (i : Nat) (x : Sensor) (j : Vid) (m : Mach) : (m.setSens i x).volu j = m.volu j := (rfl)
@[simp] theorem Mach.setOpenF_volu (i : Fin 8) (x : Option OpenF) (j : Vid) (m : Mach) : (m.setOpenF i x).volu j = m.volu j := (rfl)
@[simp] theorem Mach.setBlk_volu (d b : Nat) (x : Blk) (j : Vid) (m : Mach) : (m.setBlk d b x).volu j = m.volu j := (rfl)
@[simp] theorem Mach.errBit_volu (p : Page) (i : Nat) (j : Vid) (m : Mach) : (m.errBit p i).volu j = m.volu j := (rfl)
@[simp] theorem Mach.updDev_entry (f) (j : Nat) (m : Mach) : (m.updDev f).entry j = m.entry j := (rfl)
@[simp] theorem Mach.updReg_entry (f) (j : Nat) (m : Mach) : (m.updReg f).entry j = m.entry j := (rfl)
@[simp] theorem Mach.updPff_entry (f) (j : Nat) (m : Mach) : (m.updPff f).entry j = m.entry j := (rfl)
@[simp] theorem Mach.updAdm_entry (f) (j : Nat) (m : Mach) : (m.updAdm f).entry j = m.entry j := (rfl)
@[simp] theorem Mach.updQ_entry (f) (j : Nat) (m : Mach) : (m.updQ f).entry j = m.entry j := (rfl)
@[simp] theorem Mach.updBuf_entry (f) (j : Nat) (m : Mach) : (m.updBuf f).entry j = m.entry j := (rfl)
@[simp] theorem Mach.updLamp_entry (f) (j : Nat) (m : Mach) : (m.updLamp f).entry j = m.entry j := (rfl)
@[simp] theorem Mach.updFl_entry (f) (j : Nat) (m : Mach) : (m.updFl f).entry j = m.entry j := (rfl)
@[simp] theorem Mach.updGln_entry (f) (j : Nat) (m : Mach) : (m.updGln f).entry j = m.entry j := (rfl)
@[simp] theorem Mach.updHdl_entry (f) (j : Nat) (m : Mach) : (m.updHdl f).entry j = m.entry j := (rfl)
@[simp] theorem Mach.updDrc_entry (f) (j : Nat) (m : Mach) : (m.updDrc f).entry j = m.entry j := (rfl)
@[simp] theorem Mach.updKey_entry (f) (j : Nat) (m : Mach) : (m.updKey f).entry j = m.entry j := (rfl)
@[simp] theorem Mach.updThm_entry (f) (j : Nat) (m : Mach) : (m.updThm f).entry j = m.entry j := (rfl)
@[simp] theorem Mach.updAlm_entry (f) (j : Nat) (m : Mach) : (m.updAlm f).entry j = m.entry j := (rfl)
@[simp] theorem Mach.updTwn_entry (f) (j : Nat) (m : Mach) : (m.updTwn f).entry j = m.entry j := (rfl)
@[simp] theorem Mach.updPort_entry (p : Port) (f) (j : Nat) (m : Mach) : (m.updPort p f).entry j = m.entry j := (rfl)
@[simp] theorem Mach.send_entry (o : Out) (j : Nat) (m : Mach) : (m.send o).entry j = m.entry j := (rfl)
@[simp] theorem Mach.draw_entry (j : Nat) (m : Mach) : (m.draw).entry j = m.entry j := (rfl)
@[simp] theorem Mach.wr_entry (k : Nat) (v : Word) (j : Nat) (m : Mach) : (m.wr k v).entry j = m.entry j := (rfl)
@[simp] theorem Mach.setHdr_entry (p : Page) (h : PageHdr) (j : Nat) (m : Mach) : (m.setHdr p h).entry j = m.entry j := (rfl)
@[simp] theorem Mach.setPageSt_entry (p : Page) (x : PageSt) (j : Nat) (m : Mach) : (m.setPageSt p x).entry j = m.entry j := (rfl)
@[simp] theorem Mach.touch_entry (p : Page) (j : Nat) (m : Mach) : (m.touch p).entry j = m.entry j := by simp [Mach.entry]
@[simp] theorem Mach.set_entry (k : Nat) (v : Word) (j : Nat) (m : Mach) : (m.set k v).entry j = m.entry j := by simp [Mach.entry]
@[simp] theorem Mach.bumpBy_entry (k n : Nat) (j : Nat) (m : Mach) : (m.bumpBy k n).entry j = m.entry j := by simp [Mach.entry]
@[simp] theorem Mach.bump_entry (k : Nat) (j : Nat) (m : Mach) : (m.bump k).entry j = m.entry j := by simp [Mach.entry]
@[simp] theorem Mach.raiseTo_entry (k n t : Nat) (j : Nat) (m : Mach) : (m.raiseTo k n t).entry j = m.entry j := by simp [Mach.entry]
@[simp] theorem Mach.bumpWrap_entry (k : Nat) (j : Nat) (m : Mach) : (m.bumpWrap k).entry j = m.entry j := by simp [Mach.entry]
@[simp] theorem Mach.bump64By_entry (k n : Nat) (j : Nat) (m : Mach) : (m.bump64By k n).entry j = m.entry j := by simp [Mach.entry]
@[simp] theorem Mach.bump64_entry (k : Nat) (j : Nat) (m : Mach) : (m.bump64 k).entry j = m.entry j := by simp [Mach.entry]
@[simp] theorem Mach.wdrop_entry (a : Agent) (j : Nat) (m : Mach) : (m.wdrop a).entry j = m.entry j := by simp [Mach.entry]
@[simp] theorem Mach.setFifo_entry (n : Fin 8) (x : Fifo) (j : Nat) (m : Mach) : (m.setFifo n x).entry j = m.entry j := (rfl)
@[simp] theorem Mach.setQp_entry (i : Fin 256) (x : Qp) (j : Nat) (m : Mach) : (m.setQp i x).entry j = m.entry j := (rfl)
@[simp] theorem Mach.setCmd_entry (i : Nat) (x : Cmd) (j : Nat) (m : Mach) : (m.setCmd i x).entry j = m.entry j := (rfl)
@[simp] theorem Mach.setVol_entry (i : Vid) (x : Vol) (j : Nat) (m : Mach) : (m.setVol i x).entry j = m.entry j := (rfl)
@[simp] theorem Mach.setRegion_entry (i : Nat) (x : Region) (j : Nat) (m : Mach) : (m.setRegion i x).entry j = m.entry j := (rfl)
@[simp] theorem Mach.setDesc_entry (i : Nat) (x : Desc) (j : Nat) (m : Mach) : (m.setDesc i x).entry j = m.entry j := (rfl)
@[simp] theorem Mach.setChn_entry (i : Chan) (x : Chn) (j : Nat) (m : Mach) : (m.setChn i x).entry j = m.entry j := (rfl)
@[simp] theorem Mach.setDie_entry (i : Nat) (x : DieSt) (j : Nat) (m : Mach) : (m.setDie i x).entry j = m.entry j := (rfl)
@[simp] theorem Mach.setFur_entry (i : Nat) (x : Fur) (j : Nat) (m : Mach) : (m.setFur i x).entry j = m.entry j := (rfl)
@[simp] theorem Mach.setDram_entry (i : Fin 4) (x : Drc) (j : Nat) (m : Mach) : (m.setDram i x).entry j = m.entry j := (rfl)
@[simp] theorem Mach.setKslot_entry (i : Nat) (x : KeySlot) (j : Nat) (m : Mach) : (m.setKslot i x).entry j = m.entry j := (rfl)
@[simp] theorem Mach.setSens_entry (i : Nat) (x : Sensor) (j : Nat) (m : Mach) : (m.setSens i x).entry j = m.entry j := (rfl)
@[simp] theorem Mach.setOpenF_entry (i : Fin 8) (x : Option OpenF) (j : Nat) (m : Mach) : (m.setOpenF i x).entry j = m.entry j := (rfl)
@[simp] theorem Mach.setBlk_entry (d b : Nat) (x : Blk) (j : Nat) (m : Mach) : (m.setBlk d b x).entry j = m.entry j := (rfl)
@[simp] theorem Mach.errBit_entry (p : Page) (i : Nat) (j : Nat) (m : Mach) : (m.errBit p i).entry j = m.entry j := (rfl)
@[simp] theorem Mach.updDev_region (f) (j : Nat) (m : Mach) : (m.updDev f).region j = m.region j := (rfl)
@[simp] theorem Mach.updReg_region (f) (j : Nat) (m : Mach) : (m.updReg f).region j = m.region j := (rfl)
@[simp] theorem Mach.updPff_region (f) (j : Nat) (m : Mach) : (m.updPff f).region j = m.region j := (rfl)
@[simp] theorem Mach.updAdm_region (f) (j : Nat) (m : Mach) : (m.updAdm f).region j = m.region j := (rfl)
@[simp] theorem Mach.updQ_region (f) (j : Nat) (m : Mach) : (m.updQ f).region j = m.region j := (rfl)
@[simp] theorem Mach.updVol_region (f) (j : Nat) (m : Mach) : (m.updVol f).region j = m.region j := (rfl)
@[simp] theorem Mach.updBuf_region (f) (j : Nat) (m : Mach) : (m.updBuf f).region j = m.region j := (rfl)
@[simp] theorem Mach.updFl_region (f) (j : Nat) (m : Mach) : (m.updFl f).region j = m.region j := (rfl)
@[simp] theorem Mach.updGln_region (f) (j : Nat) (m : Mach) : (m.updGln f).region j = m.region j := (rfl)
@[simp] theorem Mach.updHdl_region (f) (j : Nat) (m : Mach) : (m.updHdl f).region j = m.region j := (rfl)
@[simp] theorem Mach.updDrc_region (f) (j : Nat) (m : Mach) : (m.updDrc f).region j = m.region j := (rfl)
@[simp] theorem Mach.updKey_region (f) (j : Nat) (m : Mach) : (m.updKey f).region j = m.region j := (rfl)
@[simp] theorem Mach.updThm_region (f) (j : Nat) (m : Mach) : (m.updThm f).region j = m.region j := (rfl)
@[simp] theorem Mach.updAlm_region (f) (j : Nat) (m : Mach) : (m.updAlm f).region j = m.region j := (rfl)
@[simp] theorem Mach.updTwn_region (f) (j : Nat) (m : Mach) : (m.updTwn f).region j = m.region j := (rfl)
@[simp] theorem Mach.updPort_region (p : Port) (f) (j : Nat) (m : Mach) : (m.updPort p f).region j = m.region j := (rfl)
@[simp] theorem Mach.send_region (o : Out) (j : Nat) (m : Mach) : (m.send o).region j = m.region j := (rfl)
@[simp] theorem Mach.draw_region (j : Nat) (m : Mach) : (m.draw).region j = m.region j := (rfl)
@[simp] theorem Mach.wr_region (k : Nat) (v : Word) (j : Nat) (m : Mach) : (m.wr k v).region j = m.region j := (rfl)
@[simp] theorem Mach.setHdr_region (p : Page) (h : PageHdr) (j : Nat) (m : Mach) : (m.setHdr p h).region j = m.region j := (rfl)
@[simp] theorem Mach.setPageSt_region (p : Page) (x : PageSt) (j : Nat) (m : Mach) : (m.setPageSt p x).region j = m.region j := (rfl)
@[simp] theorem Mach.touch_region (p : Page) (j : Nat) (m : Mach) : (m.touch p).region j = m.region j := by simp [Mach.region]
@[simp] theorem Mach.set_region (k : Nat) (v : Word) (j : Nat) (m : Mach) : (m.set k v).region j = m.region j := by simp [Mach.region]
@[simp] theorem Mach.bumpBy_region (k n : Nat) (j : Nat) (m : Mach) : (m.bumpBy k n).region j = m.region j := by simp [Mach.region]
@[simp] theorem Mach.bump_region (k : Nat) (j : Nat) (m : Mach) : (m.bump k).region j = m.region j := by simp [Mach.region]
@[simp] theorem Mach.raiseTo_region (k n t : Nat) (j : Nat) (m : Mach) : (m.raiseTo k n t).region j = m.region j := by simp [Mach.region]
@[simp] theorem Mach.bumpWrap_region (k : Nat) (j : Nat) (m : Mach) : (m.bumpWrap k).region j = m.region j := by simp [Mach.region]
@[simp] theorem Mach.bump64By_region (k n : Nat) (j : Nat) (m : Mach) : (m.bump64By k n).region j = m.region j := by simp [Mach.region]
@[simp] theorem Mach.bump64_region (k : Nat) (j : Nat) (m : Mach) : (m.bump64 k).region j = m.region j := by simp [Mach.region]
@[simp] theorem Mach.wdrop_region (a : Agent) (j : Nat) (m : Mach) : (m.wdrop a).region j = m.region j := by simp [Mach.region]
@[simp] theorem Mach.setFifo_region (n : Fin 8) (x : Fifo) (j : Nat) (m : Mach) : (m.setFifo n x).region j = m.region j := (rfl)
@[simp] theorem Mach.setQp_region (i : Fin 256) (x : Qp) (j : Nat) (m : Mach) : (m.setQp i x).region j = m.region j := (rfl)
@[simp] theorem Mach.setCmd_region (i : Nat) (x : Cmd) (j : Nat) (m : Mach) : (m.setCmd i x).region j = m.region j := (rfl)
@[simp] theorem Mach.setVol_region (i : Vid) (x : Vol) (j : Nat) (m : Mach) : (m.setVol i x).region j = m.region j := (rfl)
@[simp] theorem Mach.setDesc_region (i : Nat) (x : Desc) (j : Nat) (m : Mach) : (m.setDesc i x).region j = m.region j := (rfl)
@[simp] theorem Mach.setChn_region (i : Chan) (x : Chn) (j : Nat) (m : Mach) : (m.setChn i x).region j = m.region j := (rfl)
@[simp] theorem Mach.setDie_region (i : Nat) (x : DieSt) (j : Nat) (m : Mach) : (m.setDie i x).region j = m.region j := (rfl)
@[simp] theorem Mach.setFur_region (i : Nat) (x : Fur) (j : Nat) (m : Mach) : (m.setFur i x).region j = m.region j := (rfl)
@[simp] theorem Mach.setDram_region (i : Fin 4) (x : Drc) (j : Nat) (m : Mach) : (m.setDram i x).region j = m.region j := (rfl)
@[simp] theorem Mach.setKslot_region (i : Nat) (x : KeySlot) (j : Nat) (m : Mach) : (m.setKslot i x).region j = m.region j := (rfl)
@[simp] theorem Mach.setSens_region (i : Nat) (x : Sensor) (j : Nat) (m : Mach) : (m.setSens i x).region j = m.region j := (rfl)
@[simp] theorem Mach.setOpenF_region (i : Fin 8) (x : Option OpenF) (j : Nat) (m : Mach) : (m.setOpenF i x).region j = m.region j := (rfl)
@[simp] theorem Mach.setBlk_region (d b : Nat) (x : Blk) (j : Nat) (m : Mach) : (m.setBlk d b x).region j = m.region j := (rfl)
@[simp] theorem Mach.errBit_region (p : Page) (i : Nat) (j : Nat) (m : Mach) : (m.errBit p i).region j = m.region j := (rfl)
@[simp] theorem Mach.updDev_desc (f) (j : Nat) (m : Mach) : (m.updDev f).desc j = m.desc j := (rfl)
@[simp] theorem Mach.updReg_desc (f) (j : Nat) (m : Mach) : (m.updReg f).desc j = m.desc j := (rfl)
@[simp] theorem Mach.updPff_desc (f) (j : Nat) (m : Mach) : (m.updPff f).desc j = m.desc j := (rfl)
@[simp] theorem Mach.updAdm_desc (f) (j : Nat) (m : Mach) : (m.updAdm f).desc j = m.desc j := (rfl)
@[simp] theorem Mach.updQ_desc (f) (j : Nat) (m : Mach) : (m.updQ f).desc j = m.desc j := (rfl)
@[simp] theorem Mach.updVol_desc (f) (j : Nat) (m : Mach) : (m.updVol f).desc j = m.desc j := (rfl)
@[simp] theorem Mach.updBuf_desc (f) (j : Nat) (m : Mach) : (m.updBuf f).desc j = m.desc j := (rfl)
@[simp] theorem Mach.updFl_desc (f) (j : Nat) (m : Mach) : (m.updFl f).desc j = m.desc j := (rfl)
@[simp] theorem Mach.updGln_desc (f) (j : Nat) (m : Mach) : (m.updGln f).desc j = m.desc j := (rfl)
@[simp] theorem Mach.updHdl_desc (f) (j : Nat) (m : Mach) : (m.updHdl f).desc j = m.desc j := (rfl)
@[simp] theorem Mach.updDrc_desc (f) (j : Nat) (m : Mach) : (m.updDrc f).desc j = m.desc j := (rfl)
@[simp] theorem Mach.updKey_desc (f) (j : Nat) (m : Mach) : (m.updKey f).desc j = m.desc j := (rfl)
@[simp] theorem Mach.updThm_desc (f) (j : Nat) (m : Mach) : (m.updThm f).desc j = m.desc j := (rfl)
@[simp] theorem Mach.updAlm_desc (f) (j : Nat) (m : Mach) : (m.updAlm f).desc j = m.desc j := (rfl)
@[simp] theorem Mach.updTwn_desc (f) (j : Nat) (m : Mach) : (m.updTwn f).desc j = m.desc j := (rfl)
@[simp] theorem Mach.updPort_desc (p : Port) (f) (j : Nat) (m : Mach) : (m.updPort p f).desc j = m.desc j := (rfl)
@[simp] theorem Mach.send_desc (o : Out) (j : Nat) (m : Mach) : (m.send o).desc j = m.desc j := (rfl)
@[simp] theorem Mach.draw_desc (j : Nat) (m : Mach) : (m.draw).desc j = m.desc j := (rfl)
@[simp] theorem Mach.wr_desc (k : Nat) (v : Word) (j : Nat) (m : Mach) : (m.wr k v).desc j = m.desc j := (rfl)
@[simp] theorem Mach.setHdr_desc (p : Page) (h : PageHdr) (j : Nat) (m : Mach) : (m.setHdr p h).desc j = m.desc j := (rfl)
@[simp] theorem Mach.setPageSt_desc (p : Page) (x : PageSt) (j : Nat) (m : Mach) : (m.setPageSt p x).desc j = m.desc j := (rfl)
@[simp] theorem Mach.touch_desc (p : Page) (j : Nat) (m : Mach) : (m.touch p).desc j = m.desc j := by simp [Mach.desc]
@[simp] theorem Mach.set_desc (k : Nat) (v : Word) (j : Nat) (m : Mach) : (m.set k v).desc j = m.desc j := by simp [Mach.desc]
@[simp] theorem Mach.bumpBy_desc (k n : Nat) (j : Nat) (m : Mach) : (m.bumpBy k n).desc j = m.desc j := by simp [Mach.desc]
@[simp] theorem Mach.bump_desc (k : Nat) (j : Nat) (m : Mach) : (m.bump k).desc j = m.desc j := by simp [Mach.desc]
@[simp] theorem Mach.raiseTo_desc (k n t : Nat) (j : Nat) (m : Mach) : (m.raiseTo k n t).desc j = m.desc j := by simp [Mach.desc]
@[simp] theorem Mach.bumpWrap_desc (k : Nat) (j : Nat) (m : Mach) : (m.bumpWrap k).desc j = m.desc j := by simp [Mach.desc]
@[simp] theorem Mach.bump64By_desc (k n : Nat) (j : Nat) (m : Mach) : (m.bump64By k n).desc j = m.desc j := by simp [Mach.desc]
@[simp] theorem Mach.bump64_desc (k : Nat) (j : Nat) (m : Mach) : (m.bump64 k).desc j = m.desc j := by simp [Mach.desc]
@[simp] theorem Mach.wdrop_desc (a : Agent) (j : Nat) (m : Mach) : (m.wdrop a).desc j = m.desc j := by simp [Mach.desc]
@[simp] theorem Mach.setFifo_desc (n : Fin 8) (x : Fifo) (j : Nat) (m : Mach) : (m.setFifo n x).desc j = m.desc j := (rfl)
@[simp] theorem Mach.setQp_desc (i : Fin 256) (x : Qp) (j : Nat) (m : Mach) : (m.setQp i x).desc j = m.desc j := (rfl)
@[simp] theorem Mach.setCmd_desc (i : Nat) (x : Cmd) (j : Nat) (m : Mach) : (m.setCmd i x).desc j = m.desc j := (rfl)
@[simp] theorem Mach.setVol_desc (i : Vid) (x : Vol) (j : Nat) (m : Mach) : (m.setVol i x).desc j = m.desc j := (rfl)
@[simp] theorem Mach.setRegion_desc (i : Nat) (x : Region) (j : Nat) (m : Mach) : (m.setRegion i x).desc j = m.desc j := (rfl)
@[simp] theorem Mach.setChn_desc (i : Chan) (x : Chn) (j : Nat) (m : Mach) : (m.setChn i x).desc j = m.desc j := (rfl)
@[simp] theorem Mach.setDie_desc (i : Nat) (x : DieSt) (j : Nat) (m : Mach) : (m.setDie i x).desc j = m.desc j := (rfl)
@[simp] theorem Mach.setFur_desc (i : Nat) (x : Fur) (j : Nat) (m : Mach) : (m.setFur i x).desc j = m.desc j := (rfl)
@[simp] theorem Mach.setDram_desc (i : Fin 4) (x : Drc) (j : Nat) (m : Mach) : (m.setDram i x).desc j = m.desc j := (rfl)
@[simp] theorem Mach.setKslot_desc (i : Nat) (x : KeySlot) (j : Nat) (m : Mach) : (m.setKslot i x).desc j = m.desc j := (rfl)
@[simp] theorem Mach.setSens_desc (i : Nat) (x : Sensor) (j : Nat) (m : Mach) : (m.setSens i x).desc j = m.desc j := (rfl)
@[simp] theorem Mach.setOpenF_desc (i : Fin 8) (x : Option OpenF) (j : Nat) (m : Mach) : (m.setOpenF i x).desc j = m.desc j := (rfl)
@[simp] theorem Mach.setBlk_desc (d b : Nat) (x : Blk) (j : Nat) (m : Mach) : (m.setBlk d b x).desc j = m.desc j := (rfl)
@[simp] theorem Mach.errBit_desc (p : Page) (i : Nat) (j : Nat) (m : Mach) : (m.errBit p i).desc j = m.desc j := (rfl)
@[simp] theorem Mach.updDev_chn (f) (j : Chan) (m : Mach) : (m.updDev f).chn j = m.chn j := (rfl)
@[simp] theorem Mach.updReg_chn (f) (j : Chan) (m : Mach) : (m.updReg f).chn j = m.chn j := (rfl)
@[simp] theorem Mach.updPff_chn (f) (j : Chan) (m : Mach) : (m.updPff f).chn j = m.chn j := (rfl)
@[simp] theorem Mach.updAdm_chn (f) (j : Chan) (m : Mach) : (m.updAdm f).chn j = m.chn j := (rfl)
@[simp] theorem Mach.updQ_chn (f) (j : Chan) (m : Mach) : (m.updQ f).chn j = m.chn j := (rfl)
@[simp] theorem Mach.updVol_chn (f) (j : Chan) (m : Mach) : (m.updVol f).chn j = m.chn j := (rfl)
@[simp] theorem Mach.updBuf_chn (f) (j : Chan) (m : Mach) : (m.updBuf f).chn j = m.chn j := (rfl)
@[simp] theorem Mach.updLamp_chn (f) (j : Chan) (m : Mach) : (m.updLamp f).chn j = m.chn j := (rfl)
@[simp] theorem Mach.updGln_chn (f) (j : Chan) (m : Mach) : (m.updGln f).chn j = m.chn j := (rfl)
@[simp] theorem Mach.updHdl_chn (f) (j : Chan) (m : Mach) : (m.updHdl f).chn j = m.chn j := (rfl)
@[simp] theorem Mach.updDrc_chn (f) (j : Chan) (m : Mach) : (m.updDrc f).chn j = m.chn j := (rfl)
@[simp] theorem Mach.updKey_chn (f) (j : Chan) (m : Mach) : (m.updKey f).chn j = m.chn j := (rfl)
@[simp] theorem Mach.updThm_chn (f) (j : Chan) (m : Mach) : (m.updThm f).chn j = m.chn j := (rfl)
@[simp] theorem Mach.updAlm_chn (f) (j : Chan) (m : Mach) : (m.updAlm f).chn j = m.chn j := (rfl)
@[simp] theorem Mach.updTwn_chn (f) (j : Chan) (m : Mach) : (m.updTwn f).chn j = m.chn j := (rfl)
@[simp] theorem Mach.updPort_chn (p : Port) (f) (j : Chan) (m : Mach) : (m.updPort p f).chn j = m.chn j := (rfl)
@[simp] theorem Mach.send_chn (o : Out) (j : Chan) (m : Mach) : (m.send o).chn j = m.chn j := (rfl)
@[simp] theorem Mach.draw_chn (j : Chan) (m : Mach) : (m.draw).chn j = m.chn j := (rfl)
@[simp] theorem Mach.wr_chn (k : Nat) (v : Word) (j : Chan) (m : Mach) : (m.wr k v).chn j = m.chn j := (rfl)
@[simp] theorem Mach.setHdr_chn (p : Page) (h : PageHdr) (j : Chan) (m : Mach) : (m.setHdr p h).chn j = m.chn j := (rfl)
@[simp] theorem Mach.setPageSt_chn (p : Page) (x : PageSt) (j : Chan) (m : Mach) : (m.setPageSt p x).chn j = m.chn j := (rfl)
@[simp] theorem Mach.touch_chn (p : Page) (j : Chan) (m : Mach) : (m.touch p).chn j = m.chn j := by simp [Mach.chn]
@[simp] theorem Mach.set_chn (k : Nat) (v : Word) (j : Chan) (m : Mach) : (m.set k v).chn j = m.chn j := by simp [Mach.chn]
@[simp] theorem Mach.bumpBy_chn (k n : Nat) (j : Chan) (m : Mach) : (m.bumpBy k n).chn j = m.chn j := by simp [Mach.chn]
@[simp] theorem Mach.bump_chn (k : Nat) (j : Chan) (m : Mach) : (m.bump k).chn j = m.chn j := by simp [Mach.chn]
@[simp] theorem Mach.raiseTo_chn (k n t : Nat) (j : Chan) (m : Mach) : (m.raiseTo k n t).chn j = m.chn j := by simp [Mach.chn]
@[simp] theorem Mach.bumpWrap_chn (k : Nat) (j : Chan) (m : Mach) : (m.bumpWrap k).chn j = m.chn j := by simp [Mach.chn]
@[simp] theorem Mach.bump64By_chn (k n : Nat) (j : Chan) (m : Mach) : (m.bump64By k n).chn j = m.chn j := by simp [Mach.chn]
@[simp] theorem Mach.bump64_chn (k : Nat) (j : Chan) (m : Mach) : (m.bump64 k).chn j = m.chn j := by simp [Mach.chn]
@[simp] theorem Mach.wdrop_chn (a : Agent) (j : Chan) (m : Mach) : (m.wdrop a).chn j = m.chn j := by simp [Mach.chn]
@[simp] theorem Mach.setFifo_chn (n : Fin 8) (x : Fifo) (j : Chan) (m : Mach) : (m.setFifo n x).chn j = m.chn j := (rfl)
@[simp] theorem Mach.setQp_chn (i : Fin 256) (x : Qp) (j : Chan) (m : Mach) : (m.setQp i x).chn j = m.chn j := (rfl)
@[simp] theorem Mach.setCmd_chn (i : Nat) (x : Cmd) (j : Chan) (m : Mach) : (m.setCmd i x).chn j = m.chn j := (rfl)
@[simp] theorem Mach.setVol_chn (i : Vid) (x : Vol) (j : Chan) (m : Mach) : (m.setVol i x).chn j = m.chn j := (rfl)
@[simp] theorem Mach.setRegion_chn (i : Nat) (x : Region) (j : Chan) (m : Mach) : (m.setRegion i x).chn j = m.chn j := (rfl)
@[simp] theorem Mach.setDesc_chn (i : Nat) (x : Desc) (j : Chan) (m : Mach) : (m.setDesc i x).chn j = m.chn j := (rfl)
@[simp] theorem Mach.setDie_chn (i : Nat) (x : DieSt) (j : Chan) (m : Mach) : (m.setDie i x).chn j = m.chn j := (rfl)
@[simp] theorem Mach.setFur_chn (i : Nat) (x : Fur) (j : Chan) (m : Mach) : (m.setFur i x).chn j = m.chn j := (rfl)
@[simp] theorem Mach.setDram_chn (i : Fin 4) (x : Drc) (j : Chan) (m : Mach) : (m.setDram i x).chn j = m.chn j := (rfl)
@[simp] theorem Mach.setKslot_chn (i : Nat) (x : KeySlot) (j : Chan) (m : Mach) : (m.setKslot i x).chn j = m.chn j := (rfl)
@[simp] theorem Mach.setSens_chn (i : Nat) (x : Sensor) (j : Chan) (m : Mach) : (m.setSens i x).chn j = m.chn j := (rfl)
@[simp] theorem Mach.setOpenF_chn (i : Fin 8) (x : Option OpenF) (j : Chan) (m : Mach) : (m.setOpenF i x).chn j = m.chn j := (rfl)
@[simp] theorem Mach.setBlk_chn (d b : Nat) (x : Blk) (j : Chan) (m : Mach) : (m.setBlk d b x).chn j = m.chn j := (rfl)
@[simp] theorem Mach.errBit_chn (p : Page) (i : Nat) (j : Chan) (m : Mach) : (m.errBit p i).chn j = m.chn j := (rfl)
@[simp] theorem Mach.updDev_die (f) (j : Nat) (m : Mach) : (m.updDev f).die j = m.die j := (rfl)
@[simp] theorem Mach.updReg_die (f) (j : Nat) (m : Mach) : (m.updReg f).die j = m.die j := (rfl)
@[simp] theorem Mach.updPff_die (f) (j : Nat) (m : Mach) : (m.updPff f).die j = m.die j := (rfl)
@[simp] theorem Mach.updAdm_die (f) (j : Nat) (m : Mach) : (m.updAdm f).die j = m.die j := (rfl)
@[simp] theorem Mach.updQ_die (f) (j : Nat) (m : Mach) : (m.updQ f).die j = m.die j := (rfl)
@[simp] theorem Mach.updVol_die (f) (j : Nat) (m : Mach) : (m.updVol f).die j = m.die j := (rfl)
@[simp] theorem Mach.updBuf_die (f) (j : Nat) (m : Mach) : (m.updBuf f).die j = m.die j := (rfl)
@[simp] theorem Mach.updLamp_die (f) (j : Nat) (m : Mach) : (m.updLamp f).die j = m.die j := (rfl)
@[simp] theorem Mach.updGln_die (f) (j : Nat) (m : Mach) : (m.updGln f).die j = m.die j := (rfl)
@[simp] theorem Mach.updHdl_die (f) (j : Nat) (m : Mach) : (m.updHdl f).die j = m.die j := (rfl)
@[simp] theorem Mach.updDrc_die (f) (j : Nat) (m : Mach) : (m.updDrc f).die j = m.die j := (rfl)
@[simp] theorem Mach.updKey_die (f) (j : Nat) (m : Mach) : (m.updKey f).die j = m.die j := (rfl)
@[simp] theorem Mach.updThm_die (f) (j : Nat) (m : Mach) : (m.updThm f).die j = m.die j := (rfl)
@[simp] theorem Mach.updAlm_die (f) (j : Nat) (m : Mach) : (m.updAlm f).die j = m.die j := (rfl)
@[simp] theorem Mach.updTwn_die (f) (j : Nat) (m : Mach) : (m.updTwn f).die j = m.die j := (rfl)
@[simp] theorem Mach.updPort_die (p : Port) (f) (j : Nat) (m : Mach) : (m.updPort p f).die j = m.die j := (rfl)
@[simp] theorem Mach.send_die (o : Out) (j : Nat) (m : Mach) : (m.send o).die j = m.die j := (rfl)
@[simp] theorem Mach.draw_die (j : Nat) (m : Mach) : (m.draw).die j = m.die j := (rfl)
@[simp] theorem Mach.wr_die (k : Nat) (v : Word) (j : Nat) (m : Mach) : (m.wr k v).die j = m.die j := (rfl)
@[simp] theorem Mach.setHdr_die (p : Page) (h : PageHdr) (j : Nat) (m : Mach) : (m.setHdr p h).die j = m.die j := (rfl)
@[simp] theorem Mach.setPageSt_die (p : Page) (x : PageSt) (j : Nat) (m : Mach) : (m.setPageSt p x).die j = m.die j := (rfl)
@[simp] theorem Mach.touch_die (p : Page) (j : Nat) (m : Mach) : (m.touch p).die j = m.die j := by simp [Mach.die]
@[simp] theorem Mach.set_die (k : Nat) (v : Word) (j : Nat) (m : Mach) : (m.set k v).die j = m.die j := by simp [Mach.die]
@[simp] theorem Mach.bumpBy_die (k n : Nat) (j : Nat) (m : Mach) : (m.bumpBy k n).die j = m.die j := by simp [Mach.die]
@[simp] theorem Mach.bump_die (k : Nat) (j : Nat) (m : Mach) : (m.bump k).die j = m.die j := by simp [Mach.die]
@[simp] theorem Mach.raiseTo_die (k n t : Nat) (j : Nat) (m : Mach) : (m.raiseTo k n t).die j = m.die j := by simp [Mach.die]
@[simp] theorem Mach.bumpWrap_die (k : Nat) (j : Nat) (m : Mach) : (m.bumpWrap k).die j = m.die j := by simp [Mach.die]
@[simp] theorem Mach.bump64By_die (k n : Nat) (j : Nat) (m : Mach) : (m.bump64By k n).die j = m.die j := by simp [Mach.die]
@[simp] theorem Mach.bump64_die (k : Nat) (j : Nat) (m : Mach) : (m.bump64 k).die j = m.die j := by simp [Mach.die]
@[simp] theorem Mach.wdrop_die (a : Agent) (j : Nat) (m : Mach) : (m.wdrop a).die j = m.die j := by simp [Mach.die]
@[simp] theorem Mach.setFifo_die (n : Fin 8) (x : Fifo) (j : Nat) (m : Mach) : (m.setFifo n x).die j = m.die j := (rfl)
@[simp] theorem Mach.setQp_die (i : Fin 256) (x : Qp) (j : Nat) (m : Mach) : (m.setQp i x).die j = m.die j := (rfl)
@[simp] theorem Mach.setCmd_die (i : Nat) (x : Cmd) (j : Nat) (m : Mach) : (m.setCmd i x).die j = m.die j := (rfl)
@[simp] theorem Mach.setVol_die (i : Vid) (x : Vol) (j : Nat) (m : Mach) : (m.setVol i x).die j = m.die j := (rfl)
@[simp] theorem Mach.setRegion_die (i : Nat) (x : Region) (j : Nat) (m : Mach) : (m.setRegion i x).die j = m.die j := (rfl)
@[simp] theorem Mach.setDesc_die (i : Nat) (x : Desc) (j : Nat) (m : Mach) : (m.setDesc i x).die j = m.die j := (rfl)
@[simp] theorem Mach.setChn_die (i : Chan) (x : Chn) (j : Nat) (m : Mach) : (m.setChn i x).die j = m.die j := (rfl)
@[simp] theorem Mach.setFur_die (i : Nat) (x : Fur) (j : Nat) (m : Mach) : (m.setFur i x).die j = m.die j := (rfl)
@[simp] theorem Mach.setDram_die (i : Fin 4) (x : Drc) (j : Nat) (m : Mach) : (m.setDram i x).die j = m.die j := (rfl)
@[simp] theorem Mach.setKslot_die (i : Nat) (x : KeySlot) (j : Nat) (m : Mach) : (m.setKslot i x).die j = m.die j := (rfl)
@[simp] theorem Mach.setSens_die (i : Nat) (x : Sensor) (j : Nat) (m : Mach) : (m.setSens i x).die j = m.die j := (rfl)
@[simp] theorem Mach.setOpenF_die (i : Fin 8) (x : Option OpenF) (j : Nat) (m : Mach) : (m.setOpenF i x).die j = m.die j := (rfl)
@[simp] theorem Mach.setBlk_die (d b : Nat) (x : Blk) (j : Nat) (m : Mach) : (m.setBlk d b x).die j = m.die j := (rfl)
@[simp] theorem Mach.errBit_die (p : Page) (i : Nat) (j : Nat) (m : Mach) : (m.errBit p i).die j = m.die j := (rfl)
@[simp] theorem Mach.updDev_blk (f) (j j2 : Nat) (m : Mach) : (m.updDev f).blk j j2 = m.blk j j2 := (rfl)
@[simp] theorem Mach.updReg_blk (f) (j j2 : Nat) (m : Mach) : (m.updReg f).blk j j2 = m.blk j j2 := (rfl)
@[simp] theorem Mach.updPff_blk (f) (j j2 : Nat) (m : Mach) : (m.updPff f).blk j j2 = m.blk j j2 := (rfl)
@[simp] theorem Mach.updAdm_blk (f) (j j2 : Nat) (m : Mach) : (m.updAdm f).blk j j2 = m.blk j j2 := (rfl)
@[simp] theorem Mach.updQ_blk (f) (j j2 : Nat) (m : Mach) : (m.updQ f).blk j j2 = m.blk j j2 := (rfl)
@[simp] theorem Mach.updVol_blk (f) (j j2 : Nat) (m : Mach) : (m.updVol f).blk j j2 = m.blk j j2 := (rfl)
@[simp] theorem Mach.updBuf_blk (f) (j j2 : Nat) (m : Mach) : (m.updBuf f).blk j j2 = m.blk j j2 := (rfl)
@[simp] theorem Mach.updLamp_blk (f) (j j2 : Nat) (m : Mach) : (m.updLamp f).blk j j2 = m.blk j j2 := (rfl)
@[simp] theorem Mach.updGln_blk (f) (j j2 : Nat) (m : Mach) : (m.updGln f).blk j j2 = m.blk j j2 := (rfl)
@[simp] theorem Mach.updHdl_blk (f) (j j2 : Nat) (m : Mach) : (m.updHdl f).blk j j2 = m.blk j j2 := (rfl)
@[simp] theorem Mach.updDrc_blk (f) (j j2 : Nat) (m : Mach) : (m.updDrc f).blk j j2 = m.blk j j2 := (rfl)
@[simp] theorem Mach.updKey_blk (f) (j j2 : Nat) (m : Mach) : (m.updKey f).blk j j2 = m.blk j j2 := (rfl)
@[simp] theorem Mach.updThm_blk (f) (j j2 : Nat) (m : Mach) : (m.updThm f).blk j j2 = m.blk j j2 := (rfl)
@[simp] theorem Mach.updAlm_blk (f) (j j2 : Nat) (m : Mach) : (m.updAlm f).blk j j2 = m.blk j j2 := (rfl)
@[simp] theorem Mach.updTwn_blk (f) (j j2 : Nat) (m : Mach) : (m.updTwn f).blk j j2 = m.blk j j2 := (rfl)
@[simp] theorem Mach.updPort_blk (p : Port) (f) (j j2 : Nat) (m : Mach) : (m.updPort p f).blk j j2 = m.blk j j2 := (rfl)
@[simp] theorem Mach.send_blk (o : Out) (j j2 : Nat) (m : Mach) : (m.send o).blk j j2 = m.blk j j2 := (rfl)
@[simp] theorem Mach.draw_blk (j j2 : Nat) (m : Mach) : (m.draw).blk j j2 = m.blk j j2 := (rfl)
@[simp] theorem Mach.wr_blk (k : Nat) (v : Word) (j j2 : Nat) (m : Mach) : (m.wr k v).blk j j2 = m.blk j j2 := (rfl)
@[simp] theorem Mach.setHdr_blk (p : Page) (h : PageHdr) (j j2 : Nat) (m : Mach) : (m.setHdr p h).blk j j2 = m.blk j j2 := (rfl)
@[simp] theorem Mach.setPageSt_blk (p : Page) (x : PageSt) (j j2 : Nat) (m : Mach) : (m.setPageSt p x).blk j j2 = m.blk j j2 := (rfl)
@[simp] theorem Mach.touch_blk (p : Page) (j j2 : Nat) (m : Mach) : (m.touch p).blk j j2 = m.blk j j2 := by simp [Mach.blk]
@[simp] theorem Mach.set_blk (k : Nat) (v : Word) (j j2 : Nat) (m : Mach) : (m.set k v).blk j j2 = m.blk j j2 := by simp [Mach.blk]
@[simp] theorem Mach.bumpBy_blk (k n : Nat) (j j2 : Nat) (m : Mach) : (m.bumpBy k n).blk j j2 = m.blk j j2 := by simp [Mach.blk]
@[simp] theorem Mach.bump_blk (k : Nat) (j j2 : Nat) (m : Mach) : (m.bump k).blk j j2 = m.blk j j2 := by simp [Mach.blk]
@[simp] theorem Mach.raiseTo_blk (k n t : Nat) (j j2 : Nat) (m : Mach) : (m.raiseTo k n t).blk j j2 = m.blk j j2 := by simp [Mach.blk]
@[simp] theorem Mach.bumpWrap_blk (k : Nat) (j j2 : Nat) (m : Mach) : (m.bumpWrap k).blk j j2 = m.blk j j2 := by simp [Mach.blk]
@[simp] theorem Mach.bump64By_blk (k n : Nat) (j j2 : Nat) (m : Mach) : (m.bump64By k n).blk j j2 = m.blk j j2 := by simp [Mach.blk]
@[simp] theorem Mach.bump64_blk (k : Nat) (j j2 : Nat) (m : Mach) : (m.bump64 k).blk j j2 = m.blk j j2 := by simp [Mach.blk]
@[simp] theorem Mach.wdrop_blk (a : Agent) (j j2 : Nat) (m : Mach) : (m.wdrop a).blk j j2 = m.blk j j2 := by simp [Mach.blk]
@[simp] theorem Mach.setFifo_blk (n : Fin 8) (x : Fifo) (j j2 : Nat) (m : Mach) : (m.setFifo n x).blk j j2 = m.blk j j2 := (rfl)
@[simp] theorem Mach.setQp_blk (i : Fin 256) (x : Qp) (j j2 : Nat) (m : Mach) : (m.setQp i x).blk j j2 = m.blk j j2 := (rfl)
@[simp] theorem Mach.setCmd_blk (i : Nat) (x : Cmd) (j j2 : Nat) (m : Mach) : (m.setCmd i x).blk j j2 = m.blk j j2 := (rfl)
@[simp] theorem Mach.setVol_blk (i : Vid) (x : Vol) (j j2 : Nat) (m : Mach) : (m.setVol i x).blk j j2 = m.blk j j2 := (rfl)
@[simp] theorem Mach.setRegion_blk (i : Nat) (x : Region) (j j2 : Nat) (m : Mach) : (m.setRegion i x).blk j j2 = m.blk j j2 := (rfl)
@[simp] theorem Mach.setDesc_blk (i : Nat) (x : Desc) (j j2 : Nat) (m : Mach) : (m.setDesc i x).blk j j2 = m.blk j j2 := (rfl)
@[simp] theorem Mach.setChn_blk (i : Chan) (x : Chn) (j j2 : Nat) (m : Mach) : (m.setChn i x).blk j j2 = m.blk j j2 := (rfl)
@[simp] theorem Mach.setDie_blk (i : Nat) (x : DieSt) (j j2 : Nat) (m : Mach) : (m.setDie i x).blk j j2 = m.blk j j2 := (rfl)
@[simp] theorem Mach.setFur_blk (i : Nat) (x : Fur) (j j2 : Nat) (m : Mach) : (m.setFur i x).blk j j2 = m.blk j j2 := (rfl)
@[simp] theorem Mach.setDram_blk (i : Fin 4) (x : Drc) (j j2 : Nat) (m : Mach) : (m.setDram i x).blk j j2 = m.blk j j2 := (rfl)
@[simp] theorem Mach.setKslot_blk (i : Nat) (x : KeySlot) (j j2 : Nat) (m : Mach) : (m.setKslot i x).blk j j2 = m.blk j j2 := (rfl)
@[simp] theorem Mach.setSens_blk (i : Nat) (x : Sensor) (j j2 : Nat) (m : Mach) : (m.setSens i x).blk j j2 = m.blk j j2 := (rfl)
@[simp] theorem Mach.setOpenF_blk (i : Fin 8) (x : Option OpenF) (j j2 : Nat) (m : Mach) : (m.setOpenF i x).blk j j2 = m.blk j j2 := (rfl)
@[simp] theorem Mach.errBit_blk (p : Page) (i : Nat) (j j2 : Nat) (m : Mach) : (m.errBit p i).blk j j2 = m.blk j j2 := (rfl)
@[simp] theorem Mach.updDev_fur (f) (j : Nat) (m : Mach) : (m.updDev f).fur j = m.fur j := (rfl)
@[simp] theorem Mach.updReg_fur (f) (j : Nat) (m : Mach) : (m.updReg f).fur j = m.fur j := (rfl)
@[simp] theorem Mach.updPff_fur (f) (j : Nat) (m : Mach) : (m.updPff f).fur j = m.fur j := (rfl)
@[simp] theorem Mach.updAdm_fur (f) (j : Nat) (m : Mach) : (m.updAdm f).fur j = m.fur j := (rfl)
@[simp] theorem Mach.updQ_fur (f) (j : Nat) (m : Mach) : (m.updQ f).fur j = m.fur j := (rfl)
@[simp] theorem Mach.updVol_fur (f) (j : Nat) (m : Mach) : (m.updVol f).fur j = m.fur j := (rfl)
@[simp] theorem Mach.updBuf_fur (f) (j : Nat) (m : Mach) : (m.updBuf f).fur j = m.fur j := (rfl)
@[simp] theorem Mach.updLamp_fur (f) (j : Nat) (m : Mach) : (m.updLamp f).fur j = m.fur j := (rfl)
@[simp] theorem Mach.updFl_fur (f) (j : Nat) (m : Mach) : (m.updFl f).fur j = m.fur j := (rfl)
@[simp] theorem Mach.updHdl_fur (f) (j : Nat) (m : Mach) : (m.updHdl f).fur j = m.fur j := (rfl)
@[simp] theorem Mach.updDrc_fur (f) (j : Nat) (m : Mach) : (m.updDrc f).fur j = m.fur j := (rfl)
@[simp] theorem Mach.updKey_fur (f) (j : Nat) (m : Mach) : (m.updKey f).fur j = m.fur j := (rfl)
@[simp] theorem Mach.updThm_fur (f) (j : Nat) (m : Mach) : (m.updThm f).fur j = m.fur j := (rfl)
@[simp] theorem Mach.updAlm_fur (f) (j : Nat) (m : Mach) : (m.updAlm f).fur j = m.fur j := (rfl)
@[simp] theorem Mach.updTwn_fur (f) (j : Nat) (m : Mach) : (m.updTwn f).fur j = m.fur j := (rfl)
@[simp] theorem Mach.updPort_fur (p : Port) (f) (j : Nat) (m : Mach) : (m.updPort p f).fur j = m.fur j := (rfl)
@[simp] theorem Mach.send_fur (o : Out) (j : Nat) (m : Mach) : (m.send o).fur j = m.fur j := (rfl)
@[simp] theorem Mach.draw_fur (j : Nat) (m : Mach) : (m.draw).fur j = m.fur j := (rfl)
@[simp] theorem Mach.wr_fur (k : Nat) (v : Word) (j : Nat) (m : Mach) : (m.wr k v).fur j = m.fur j := (rfl)
@[simp] theorem Mach.setHdr_fur (p : Page) (h : PageHdr) (j : Nat) (m : Mach) : (m.setHdr p h).fur j = m.fur j := (rfl)
@[simp] theorem Mach.setPageSt_fur (p : Page) (x : PageSt) (j : Nat) (m : Mach) : (m.setPageSt p x).fur j = m.fur j := (rfl)
@[simp] theorem Mach.touch_fur (p : Page) (j : Nat) (m : Mach) : (m.touch p).fur j = m.fur j := by simp [Mach.fur]
@[simp] theorem Mach.set_fur (k : Nat) (v : Word) (j : Nat) (m : Mach) : (m.set k v).fur j = m.fur j := by simp [Mach.fur]
@[simp] theorem Mach.bumpBy_fur (k n : Nat) (j : Nat) (m : Mach) : (m.bumpBy k n).fur j = m.fur j := by simp [Mach.fur]
@[simp] theorem Mach.bump_fur (k : Nat) (j : Nat) (m : Mach) : (m.bump k).fur j = m.fur j := by simp [Mach.fur]
@[simp] theorem Mach.raiseTo_fur (k n t : Nat) (j : Nat) (m : Mach) : (m.raiseTo k n t).fur j = m.fur j := by simp [Mach.fur]
@[simp] theorem Mach.bumpWrap_fur (k : Nat) (j : Nat) (m : Mach) : (m.bumpWrap k).fur j = m.fur j := by simp [Mach.fur]
@[simp] theorem Mach.bump64By_fur (k n : Nat) (j : Nat) (m : Mach) : (m.bump64By k n).fur j = m.fur j := by simp [Mach.fur]
@[simp] theorem Mach.bump64_fur (k : Nat) (j : Nat) (m : Mach) : (m.bump64 k).fur j = m.fur j := by simp [Mach.fur]
@[simp] theorem Mach.wdrop_fur (a : Agent) (j : Nat) (m : Mach) : (m.wdrop a).fur j = m.fur j := by simp [Mach.fur]
@[simp] theorem Mach.setFifo_fur (n : Fin 8) (x : Fifo) (j : Nat) (m : Mach) : (m.setFifo n x).fur j = m.fur j := (rfl)
@[simp] theorem Mach.setQp_fur (i : Fin 256) (x : Qp) (j : Nat) (m : Mach) : (m.setQp i x).fur j = m.fur j := (rfl)
@[simp] theorem Mach.setCmd_fur (i : Nat) (x : Cmd) (j : Nat) (m : Mach) : (m.setCmd i x).fur j = m.fur j := (rfl)
@[simp] theorem Mach.setVol_fur (i : Vid) (x : Vol) (j : Nat) (m : Mach) : (m.setVol i x).fur j = m.fur j := (rfl)
@[simp] theorem Mach.setRegion_fur (i : Nat) (x : Region) (j : Nat) (m : Mach) : (m.setRegion i x).fur j = m.fur j := (rfl)
@[simp] theorem Mach.setDesc_fur (i : Nat) (x : Desc) (j : Nat) (m : Mach) : (m.setDesc i x).fur j = m.fur j := (rfl)
@[simp] theorem Mach.setChn_fur (i : Chan) (x : Chn) (j : Nat) (m : Mach) : (m.setChn i x).fur j = m.fur j := (rfl)
@[simp] theorem Mach.setDie_fur (i : Nat) (x : DieSt) (j : Nat) (m : Mach) : (m.setDie i x).fur j = m.fur j := (rfl)
@[simp] theorem Mach.setDram_fur (i : Fin 4) (x : Drc) (j : Nat) (m : Mach) : (m.setDram i x).fur j = m.fur j := (rfl)
@[simp] theorem Mach.setKslot_fur (i : Nat) (x : KeySlot) (j : Nat) (m : Mach) : (m.setKslot i x).fur j = m.fur j := (rfl)
@[simp] theorem Mach.setSens_fur (i : Nat) (x : Sensor) (j : Nat) (m : Mach) : (m.setSens i x).fur j = m.fur j := (rfl)
@[simp] theorem Mach.setOpenF_fur (i : Fin 8) (x : Option OpenF) (j : Nat) (m : Mach) : (m.setOpenF i x).fur j = m.fur j := (rfl)
@[simp] theorem Mach.setBlk_fur (d b : Nat) (x : Blk) (j : Nat) (m : Mach) : (m.setBlk d b x).fur j = m.fur j := (rfl)
@[simp] theorem Mach.errBit_fur (p : Page) (i : Nat) (j : Nat) (m : Mach) : (m.errBit p i).fur j = m.fur j := (rfl)
@[simp] theorem Mach.updDev_dram (f) (j : Fin 4) (m : Mach) : (m.updDev f).dram j = m.dram j := (rfl)
@[simp] theorem Mach.updReg_dram (f) (j : Fin 4) (m : Mach) : (m.updReg f).dram j = m.dram j := (rfl)
@[simp] theorem Mach.updPff_dram (f) (j : Fin 4) (m : Mach) : (m.updPff f).dram j = m.dram j := (rfl)
@[simp] theorem Mach.updAdm_dram (f) (j : Fin 4) (m : Mach) : (m.updAdm f).dram j = m.dram j := (rfl)
@[simp] theorem Mach.updQ_dram (f) (j : Fin 4) (m : Mach) : (m.updQ f).dram j = m.dram j := (rfl)
@[simp] theorem Mach.updVol_dram (f) (j : Fin 4) (m : Mach) : (m.updVol f).dram j = m.dram j := (rfl)
@[simp] theorem Mach.updBuf_dram (f) (j : Fin 4) (m : Mach) : (m.updBuf f).dram j = m.dram j := (rfl)
@[simp] theorem Mach.updLamp_dram (f) (j : Fin 4) (m : Mach) : (m.updLamp f).dram j = m.dram j := (rfl)
@[simp] theorem Mach.updFl_dram (f) (j : Fin 4) (m : Mach) : (m.updFl f).dram j = m.dram j := (rfl)
@[simp] theorem Mach.updGln_dram (f) (j : Fin 4) (m : Mach) : (m.updGln f).dram j = m.dram j := (rfl)
@[simp] theorem Mach.updHdl_dram (f) (j : Fin 4) (m : Mach) : (m.updHdl f).dram j = m.dram j := (rfl)
@[simp] theorem Mach.updKey_dram (f) (j : Fin 4) (m : Mach) : (m.updKey f).dram j = m.dram j := (rfl)
@[simp] theorem Mach.updThm_dram (f) (j : Fin 4) (m : Mach) : (m.updThm f).dram j = m.dram j := (rfl)
@[simp] theorem Mach.updAlm_dram (f) (j : Fin 4) (m : Mach) : (m.updAlm f).dram j = m.dram j := (rfl)
@[simp] theorem Mach.updTwn_dram (f) (j : Fin 4) (m : Mach) : (m.updTwn f).dram j = m.dram j := (rfl)
@[simp] theorem Mach.updPort_dram (p : Port) (f) (j : Fin 4) (m : Mach) : (m.updPort p f).dram j = m.dram j := (rfl)
@[simp] theorem Mach.send_dram (o : Out) (j : Fin 4) (m : Mach) : (m.send o).dram j = m.dram j := (rfl)
@[simp] theorem Mach.draw_dram (j : Fin 4) (m : Mach) : (m.draw).dram j = m.dram j := (rfl)
@[simp] theorem Mach.wr_dram (k : Nat) (v : Word) (j : Fin 4) (m : Mach) : (m.wr k v).dram j = m.dram j := (rfl)
@[simp] theorem Mach.setHdr_dram (p : Page) (h : PageHdr) (j : Fin 4) (m : Mach) : (m.setHdr p h).dram j = m.dram j := (rfl)
@[simp] theorem Mach.setPageSt_dram (p : Page) (x : PageSt) (j : Fin 4) (m : Mach) : (m.setPageSt p x).dram j = m.dram j := (rfl)
@[simp] theorem Mach.touch_dram (p : Page) (j : Fin 4) (m : Mach) : (m.touch p).dram j = m.dram j := by simp [Mach.dram]
@[simp] theorem Mach.set_dram (k : Nat) (v : Word) (j : Fin 4) (m : Mach) : (m.set k v).dram j = m.dram j := by simp [Mach.dram]
@[simp] theorem Mach.bumpBy_dram (k n : Nat) (j : Fin 4) (m : Mach) : (m.bumpBy k n).dram j = m.dram j := by simp [Mach.dram]
@[simp] theorem Mach.bump_dram (k : Nat) (j : Fin 4) (m : Mach) : (m.bump k).dram j = m.dram j := by simp [Mach.dram]
@[simp] theorem Mach.raiseTo_dram (k n t : Nat) (j : Fin 4) (m : Mach) : (m.raiseTo k n t).dram j = m.dram j := by simp [Mach.dram]
@[simp] theorem Mach.bumpWrap_dram (k : Nat) (j : Fin 4) (m : Mach) : (m.bumpWrap k).dram j = m.dram j := by simp [Mach.dram]
@[simp] theorem Mach.bump64By_dram (k n : Nat) (j : Fin 4) (m : Mach) : (m.bump64By k n).dram j = m.dram j := by simp [Mach.dram]
@[simp] theorem Mach.bump64_dram (k : Nat) (j : Fin 4) (m : Mach) : (m.bump64 k).dram j = m.dram j := by simp [Mach.dram]
@[simp] theorem Mach.wdrop_dram (a : Agent) (j : Fin 4) (m : Mach) : (m.wdrop a).dram j = m.dram j := by simp [Mach.dram]
@[simp] theorem Mach.setFifo_dram (n : Fin 8) (x : Fifo) (j : Fin 4) (m : Mach) : (m.setFifo n x).dram j = m.dram j := (rfl)
@[simp] theorem Mach.setQp_dram (i : Fin 256) (x : Qp) (j : Fin 4) (m : Mach) : (m.setQp i x).dram j = m.dram j := (rfl)
@[simp] theorem Mach.setCmd_dram (i : Nat) (x : Cmd) (j : Fin 4) (m : Mach) : (m.setCmd i x).dram j = m.dram j := (rfl)
@[simp] theorem Mach.setVol_dram (i : Vid) (x : Vol) (j : Fin 4) (m : Mach) : (m.setVol i x).dram j = m.dram j := (rfl)
@[simp] theorem Mach.setRegion_dram (i : Nat) (x : Region) (j : Fin 4) (m : Mach) : (m.setRegion i x).dram j = m.dram j := (rfl)
@[simp] theorem Mach.setDesc_dram (i : Nat) (x : Desc) (j : Fin 4) (m : Mach) : (m.setDesc i x).dram j = m.dram j := (rfl)
@[simp] theorem Mach.setChn_dram (i : Chan) (x : Chn) (j : Fin 4) (m : Mach) : (m.setChn i x).dram j = m.dram j := (rfl)
@[simp] theorem Mach.setDie_dram (i : Nat) (x : DieSt) (j : Fin 4) (m : Mach) : (m.setDie i x).dram j = m.dram j := (rfl)
@[simp] theorem Mach.setFur_dram (i : Nat) (x : Fur) (j : Fin 4) (m : Mach) : (m.setFur i x).dram j = m.dram j := (rfl)
@[simp] theorem Mach.setKslot_dram (i : Nat) (x : KeySlot) (j : Fin 4) (m : Mach) : (m.setKslot i x).dram j = m.dram j := (rfl)
@[simp] theorem Mach.setSens_dram (i : Nat) (x : Sensor) (j : Fin 4) (m : Mach) : (m.setSens i x).dram j = m.dram j := (rfl)
@[simp] theorem Mach.setOpenF_dram (i : Fin 8) (x : Option OpenF) (j : Fin 4) (m : Mach) : (m.setOpenF i x).dram j = m.dram j := (rfl)
@[simp] theorem Mach.setBlk_dram (d b : Nat) (x : Blk) (j : Fin 4) (m : Mach) : (m.setBlk d b x).dram j = m.dram j := (rfl)
@[simp] theorem Mach.errBit_dram (p : Page) (i : Nat) (j : Fin 4) (m : Mach) : (m.errBit p i).dram j = m.dram j := (rfl)
@[simp] theorem Mach.updDev_kslot (f) (j : Nat) (m : Mach) : (m.updDev f).kslot j = m.kslot j := (rfl)
@[simp] theorem Mach.updReg_kslot (f) (j : Nat) (m : Mach) : (m.updReg f).kslot j = m.kslot j := (rfl)
@[simp] theorem Mach.updPff_kslot (f) (j : Nat) (m : Mach) : (m.updPff f).kslot j = m.kslot j := (rfl)
@[simp] theorem Mach.updAdm_kslot (f) (j : Nat) (m : Mach) : (m.updAdm f).kslot j = m.kslot j := (rfl)
@[simp] theorem Mach.updQ_kslot (f) (j : Nat) (m : Mach) : (m.updQ f).kslot j = m.kslot j := (rfl)
@[simp] theorem Mach.updVol_kslot (f) (j : Nat) (m : Mach) : (m.updVol f).kslot j = m.kslot j := (rfl)
@[simp] theorem Mach.updBuf_kslot (f) (j : Nat) (m : Mach) : (m.updBuf f).kslot j = m.kslot j := (rfl)
@[simp] theorem Mach.updLamp_kslot (f) (j : Nat) (m : Mach) : (m.updLamp f).kslot j = m.kslot j := (rfl)
@[simp] theorem Mach.updFl_kslot (f) (j : Nat) (m : Mach) : (m.updFl f).kslot j = m.kslot j := (rfl)
@[simp] theorem Mach.updGln_kslot (f) (j : Nat) (m : Mach) : (m.updGln f).kslot j = m.kslot j := (rfl)
@[simp] theorem Mach.updHdl_kslot (f) (j : Nat) (m : Mach) : (m.updHdl f).kslot j = m.kslot j := (rfl)
@[simp] theorem Mach.updDrc_kslot (f) (j : Nat) (m : Mach) : (m.updDrc f).kslot j = m.kslot j := (rfl)
@[simp] theorem Mach.updThm_kslot (f) (j : Nat) (m : Mach) : (m.updThm f).kslot j = m.kslot j := (rfl)
@[simp] theorem Mach.updAlm_kslot (f) (j : Nat) (m : Mach) : (m.updAlm f).kslot j = m.kslot j := (rfl)
@[simp] theorem Mach.updTwn_kslot (f) (j : Nat) (m : Mach) : (m.updTwn f).kslot j = m.kslot j := (rfl)
@[simp] theorem Mach.updPort_kslot (p : Port) (f) (j : Nat) (m : Mach) : (m.updPort p f).kslot j = m.kslot j := (rfl)
@[simp] theorem Mach.send_kslot (o : Out) (j : Nat) (m : Mach) : (m.send o).kslot j = m.kslot j := (rfl)
@[simp] theorem Mach.draw_kslot (j : Nat) (m : Mach) : (m.draw).kslot j = m.kslot j := (rfl)
@[simp] theorem Mach.wr_kslot (k : Nat) (v : Word) (j : Nat) (m : Mach) : (m.wr k v).kslot j = m.kslot j := (rfl)
@[simp] theorem Mach.setHdr_kslot (p : Page) (h : PageHdr) (j : Nat) (m : Mach) : (m.setHdr p h).kslot j = m.kslot j := (rfl)
@[simp] theorem Mach.setPageSt_kslot (p : Page) (x : PageSt) (j : Nat) (m : Mach) : (m.setPageSt p x).kslot j = m.kslot j := (rfl)
@[simp] theorem Mach.touch_kslot (p : Page) (j : Nat) (m : Mach) : (m.touch p).kslot j = m.kslot j := by simp [Mach.kslot]
@[simp] theorem Mach.set_kslot (k : Nat) (v : Word) (j : Nat) (m : Mach) : (m.set k v).kslot j = m.kslot j := by simp [Mach.kslot]
@[simp] theorem Mach.bumpBy_kslot (k n : Nat) (j : Nat) (m : Mach) : (m.bumpBy k n).kslot j = m.kslot j := by simp [Mach.kslot]
@[simp] theorem Mach.bump_kslot (k : Nat) (j : Nat) (m : Mach) : (m.bump k).kslot j = m.kslot j := by simp [Mach.kslot]
@[simp] theorem Mach.raiseTo_kslot (k n t : Nat) (j : Nat) (m : Mach) : (m.raiseTo k n t).kslot j = m.kslot j := by simp [Mach.kslot]
@[simp] theorem Mach.bumpWrap_kslot (k : Nat) (j : Nat) (m : Mach) : (m.bumpWrap k).kslot j = m.kslot j := by simp [Mach.kslot]
@[simp] theorem Mach.bump64By_kslot (k n : Nat) (j : Nat) (m : Mach) : (m.bump64By k n).kslot j = m.kslot j := by simp [Mach.kslot]
@[simp] theorem Mach.bump64_kslot (k : Nat) (j : Nat) (m : Mach) : (m.bump64 k).kslot j = m.kslot j := by simp [Mach.kslot]
@[simp] theorem Mach.wdrop_kslot (a : Agent) (j : Nat) (m : Mach) : (m.wdrop a).kslot j = m.kslot j := by simp [Mach.kslot]
@[simp] theorem Mach.setFifo_kslot (n : Fin 8) (x : Fifo) (j : Nat) (m : Mach) : (m.setFifo n x).kslot j = m.kslot j := (rfl)
@[simp] theorem Mach.setQp_kslot (i : Fin 256) (x : Qp) (j : Nat) (m : Mach) : (m.setQp i x).kslot j = m.kslot j := (rfl)
@[simp] theorem Mach.setCmd_kslot (i : Nat) (x : Cmd) (j : Nat) (m : Mach) : (m.setCmd i x).kslot j = m.kslot j := (rfl)
@[simp] theorem Mach.setVol_kslot (i : Vid) (x : Vol) (j : Nat) (m : Mach) : (m.setVol i x).kslot j = m.kslot j := (rfl)
@[simp] theorem Mach.setRegion_kslot (i : Nat) (x : Region) (j : Nat) (m : Mach) : (m.setRegion i x).kslot j = m.kslot j := (rfl)
@[simp] theorem Mach.setDesc_kslot (i : Nat) (x : Desc) (j : Nat) (m : Mach) : (m.setDesc i x).kslot j = m.kslot j := (rfl)
@[simp] theorem Mach.setChn_kslot (i : Chan) (x : Chn) (j : Nat) (m : Mach) : (m.setChn i x).kslot j = m.kslot j := (rfl)
@[simp] theorem Mach.setDie_kslot (i : Nat) (x : DieSt) (j : Nat) (m : Mach) : (m.setDie i x).kslot j = m.kslot j := (rfl)
@[simp] theorem Mach.setFur_kslot (i : Nat) (x : Fur) (j : Nat) (m : Mach) : (m.setFur i x).kslot j = m.kslot j := (rfl)
@[simp] theorem Mach.setDram_kslot (i : Fin 4) (x : Drc) (j : Nat) (m : Mach) : (m.setDram i x).kslot j = m.kslot j := (rfl)
@[simp] theorem Mach.setSens_kslot (i : Nat) (x : Sensor) (j : Nat) (m : Mach) : (m.setSens i x).kslot j = m.kslot j := (rfl)
@[simp] theorem Mach.setOpenF_kslot (i : Fin 8) (x : Option OpenF) (j : Nat) (m : Mach) : (m.setOpenF i x).kslot j = m.kslot j := (rfl)
@[simp] theorem Mach.setBlk_kslot (d b : Nat) (x : Blk) (j : Nat) (m : Mach) : (m.setBlk d b x).kslot j = m.kslot j := (rfl)
@[simp] theorem Mach.errBit_kslot (p : Page) (i : Nat) (j : Nat) (m : Mach) : (m.errBit p i).kslot j = m.kslot j := (rfl)
@[simp] theorem Mach.updDev_sens (f) (j : Nat) (m : Mach) : (m.updDev f).sens j = m.sens j := (rfl)
@[simp] theorem Mach.updReg_sens (f) (j : Nat) (m : Mach) : (m.updReg f).sens j = m.sens j := (rfl)
@[simp] theorem Mach.updPff_sens (f) (j : Nat) (m : Mach) : (m.updPff f).sens j = m.sens j := (rfl)
@[simp] theorem Mach.updAdm_sens (f) (j : Nat) (m : Mach) : (m.updAdm f).sens j = m.sens j := (rfl)
@[simp] theorem Mach.updQ_sens (f) (j : Nat) (m : Mach) : (m.updQ f).sens j = m.sens j := (rfl)
@[simp] theorem Mach.updVol_sens (f) (j : Nat) (m : Mach) : (m.updVol f).sens j = m.sens j := (rfl)
@[simp] theorem Mach.updBuf_sens (f) (j : Nat) (m : Mach) : (m.updBuf f).sens j = m.sens j := (rfl)
@[simp] theorem Mach.updLamp_sens (f) (j : Nat) (m : Mach) : (m.updLamp f).sens j = m.sens j := (rfl)
@[simp] theorem Mach.updFl_sens (f) (j : Nat) (m : Mach) : (m.updFl f).sens j = m.sens j := (rfl)
@[simp] theorem Mach.updGln_sens (f) (j : Nat) (m : Mach) : (m.updGln f).sens j = m.sens j := (rfl)
@[simp] theorem Mach.updHdl_sens (f) (j : Nat) (m : Mach) : (m.updHdl f).sens j = m.sens j := (rfl)
@[simp] theorem Mach.updDrc_sens (f) (j : Nat) (m : Mach) : (m.updDrc f).sens j = m.sens j := (rfl)
@[simp] theorem Mach.updKey_sens (f) (j : Nat) (m : Mach) : (m.updKey f).sens j = m.sens j := (rfl)
@[simp] theorem Mach.updAlm_sens (f) (j : Nat) (m : Mach) : (m.updAlm f).sens j = m.sens j := (rfl)
@[simp] theorem Mach.updTwn_sens (f) (j : Nat) (m : Mach) : (m.updTwn f).sens j = m.sens j := (rfl)
@[simp] theorem Mach.updPort_sens (p : Port) (f) (j : Nat) (m : Mach) : (m.updPort p f).sens j = m.sens j := (rfl)
@[simp] theorem Mach.send_sens (o : Out) (j : Nat) (m : Mach) : (m.send o).sens j = m.sens j := (rfl)
@[simp] theorem Mach.draw_sens (j : Nat) (m : Mach) : (m.draw).sens j = m.sens j := (rfl)
@[simp] theorem Mach.wr_sens (k : Nat) (v : Word) (j : Nat) (m : Mach) : (m.wr k v).sens j = m.sens j := (rfl)
@[simp] theorem Mach.setHdr_sens (p : Page) (h : PageHdr) (j : Nat) (m : Mach) : (m.setHdr p h).sens j = m.sens j := (rfl)
@[simp] theorem Mach.setPageSt_sens (p : Page) (x : PageSt) (j : Nat) (m : Mach) : (m.setPageSt p x).sens j = m.sens j := (rfl)
@[simp] theorem Mach.touch_sens (p : Page) (j : Nat) (m : Mach) : (m.touch p).sens j = m.sens j := by simp [Mach.sens]
@[simp] theorem Mach.set_sens (k : Nat) (v : Word) (j : Nat) (m : Mach) : (m.set k v).sens j = m.sens j := by simp [Mach.sens]
@[simp] theorem Mach.bumpBy_sens (k n : Nat) (j : Nat) (m : Mach) : (m.bumpBy k n).sens j = m.sens j := by simp [Mach.sens]
@[simp] theorem Mach.bump_sens (k : Nat) (j : Nat) (m : Mach) : (m.bump k).sens j = m.sens j := by simp [Mach.sens]
@[simp] theorem Mach.raiseTo_sens (k n t : Nat) (j : Nat) (m : Mach) : (m.raiseTo k n t).sens j = m.sens j := by simp [Mach.sens]
@[simp] theorem Mach.bumpWrap_sens (k : Nat) (j : Nat) (m : Mach) : (m.bumpWrap k).sens j = m.sens j := by simp [Mach.sens]
@[simp] theorem Mach.bump64By_sens (k n : Nat) (j : Nat) (m : Mach) : (m.bump64By k n).sens j = m.sens j := by simp [Mach.sens]
@[simp] theorem Mach.bump64_sens (k : Nat) (j : Nat) (m : Mach) : (m.bump64 k).sens j = m.sens j := by simp [Mach.sens]
@[simp] theorem Mach.wdrop_sens (a : Agent) (j : Nat) (m : Mach) : (m.wdrop a).sens j = m.sens j := by simp [Mach.sens]
@[simp] theorem Mach.setFifo_sens (n : Fin 8) (x : Fifo) (j : Nat) (m : Mach) : (m.setFifo n x).sens j = m.sens j := (rfl)
@[simp] theorem Mach.setQp_sens (i : Fin 256) (x : Qp) (j : Nat) (m : Mach) : (m.setQp i x).sens j = m.sens j := (rfl)
@[simp] theorem Mach.setCmd_sens (i : Nat) (x : Cmd) (j : Nat) (m : Mach) : (m.setCmd i x).sens j = m.sens j := (rfl)
@[simp] theorem Mach.setVol_sens (i : Vid) (x : Vol) (j : Nat) (m : Mach) : (m.setVol i x).sens j = m.sens j := (rfl)
@[simp] theorem Mach.setRegion_sens (i : Nat) (x : Region) (j : Nat) (m : Mach) : (m.setRegion i x).sens j = m.sens j := (rfl)
@[simp] theorem Mach.setDesc_sens (i : Nat) (x : Desc) (j : Nat) (m : Mach) : (m.setDesc i x).sens j = m.sens j := (rfl)
@[simp] theorem Mach.setChn_sens (i : Chan) (x : Chn) (j : Nat) (m : Mach) : (m.setChn i x).sens j = m.sens j := (rfl)
@[simp] theorem Mach.setDie_sens (i : Nat) (x : DieSt) (j : Nat) (m : Mach) : (m.setDie i x).sens j = m.sens j := (rfl)
@[simp] theorem Mach.setFur_sens (i : Nat) (x : Fur) (j : Nat) (m : Mach) : (m.setFur i x).sens j = m.sens j := (rfl)
@[simp] theorem Mach.setDram_sens (i : Fin 4) (x : Drc) (j : Nat) (m : Mach) : (m.setDram i x).sens j = m.sens j := (rfl)
@[simp] theorem Mach.setKslot_sens (i : Nat) (x : KeySlot) (j : Nat) (m : Mach) : (m.setKslot i x).sens j = m.sens j := (rfl)
@[simp] theorem Mach.setOpenF_sens (i : Fin 8) (x : Option OpenF) (j : Nat) (m : Mach) : (m.setOpenF i x).sens j = m.sens j := (rfl)
@[simp] theorem Mach.setBlk_sens (d b : Nat) (x : Blk) (j : Nat) (m : Mach) : (m.setBlk d b x).sens j = m.sens j := (rfl)
@[simp] theorem Mach.errBit_sens (p : Page) (i : Nat) (j : Nat) (m : Mach) : (m.errBit p i).sens j = m.sens j := (rfl)
@[simp] theorem Mach.updDev_openF (f) (j : Fin 8) (m : Mach) : (m.updDev f).openF j = m.openF j := (rfl)
@[simp] theorem Mach.updReg_openF (f) (j : Fin 8) (m : Mach) : (m.updReg f).openF j = m.openF j := (rfl)
@[simp] theorem Mach.updPff_openF (f) (j : Fin 8) (m : Mach) : (m.updPff f).openF j = m.openF j := (rfl)
@[simp] theorem Mach.updAdm_openF (f) (j : Fin 8) (m : Mach) : (m.updAdm f).openF j = m.openF j := (rfl)
@[simp] theorem Mach.updQ_openF (f) (j : Fin 8) (m : Mach) : (m.updQ f).openF j = m.openF j := (rfl)
@[simp] theorem Mach.updVol_openF (f) (j : Fin 8) (m : Mach) : (m.updVol f).openF j = m.openF j := (rfl)
@[simp] theorem Mach.updLamp_openF (f) (j : Fin 8) (m : Mach) : (m.updLamp f).openF j = m.openF j := (rfl)
@[simp] theorem Mach.updFl_openF (f) (j : Fin 8) (m : Mach) : (m.updFl f).openF j = m.openF j := (rfl)
@[simp] theorem Mach.updGln_openF (f) (j : Fin 8) (m : Mach) : (m.updGln f).openF j = m.openF j := (rfl)
@[simp] theorem Mach.updHdl_openF (f) (j : Fin 8) (m : Mach) : (m.updHdl f).openF j = m.openF j := (rfl)
@[simp] theorem Mach.updDrc_openF (f) (j : Fin 8) (m : Mach) : (m.updDrc f).openF j = m.openF j := (rfl)
@[simp] theorem Mach.updKey_openF (f) (j : Fin 8) (m : Mach) : (m.updKey f).openF j = m.openF j := (rfl)
@[simp] theorem Mach.updThm_openF (f) (j : Fin 8) (m : Mach) : (m.updThm f).openF j = m.openF j := (rfl)
@[simp] theorem Mach.updAlm_openF (f) (j : Fin 8) (m : Mach) : (m.updAlm f).openF j = m.openF j := (rfl)
@[simp] theorem Mach.updTwn_openF (f) (j : Fin 8) (m : Mach) : (m.updTwn f).openF j = m.openF j := (rfl)
@[simp] theorem Mach.updPort_openF (p : Port) (f) (j : Fin 8) (m : Mach) : (m.updPort p f).openF j = m.openF j := (rfl)
@[simp] theorem Mach.send_openF (o : Out) (j : Fin 8) (m : Mach) : (m.send o).openF j = m.openF j := (rfl)
@[simp] theorem Mach.draw_openF (j : Fin 8) (m : Mach) : (m.draw).openF j = m.openF j := (rfl)
@[simp] theorem Mach.wr_openF (k : Nat) (v : Word) (j : Fin 8) (m : Mach) : (m.wr k v).openF j = m.openF j := (rfl)
@[simp] theorem Mach.setHdr_openF (p : Page) (h : PageHdr) (j : Fin 8) (m : Mach) : (m.setHdr p h).openF j = m.openF j := (rfl)
@[simp] theorem Mach.setPageSt_openF (p : Page) (x : PageSt) (j : Fin 8) (m : Mach) : (m.setPageSt p x).openF j = m.openF j := (rfl)
@[simp] theorem Mach.touch_openF (p : Page) (j : Fin 8) (m : Mach) : (m.touch p).openF j = m.openF j := by simp [Mach.openF]
@[simp] theorem Mach.set_openF (k : Nat) (v : Word) (j : Fin 8) (m : Mach) : (m.set k v).openF j = m.openF j := by simp [Mach.openF]
@[simp] theorem Mach.bumpBy_openF (k n : Nat) (j : Fin 8) (m : Mach) : (m.bumpBy k n).openF j = m.openF j := by simp [Mach.openF]
@[simp] theorem Mach.bump_openF (k : Nat) (j : Fin 8) (m : Mach) : (m.bump k).openF j = m.openF j := by simp [Mach.openF]
@[simp] theorem Mach.raiseTo_openF (k n t : Nat) (j : Fin 8) (m : Mach) : (m.raiseTo k n t).openF j = m.openF j := by simp [Mach.openF]
@[simp] theorem Mach.bumpWrap_openF (k : Nat) (j : Fin 8) (m : Mach) : (m.bumpWrap k).openF j = m.openF j := by simp [Mach.openF]
@[simp] theorem Mach.bump64By_openF (k n : Nat) (j : Fin 8) (m : Mach) : (m.bump64By k n).openF j = m.openF j := by simp [Mach.openF]
@[simp] theorem Mach.bump64_openF (k : Nat) (j : Fin 8) (m : Mach) : (m.bump64 k).openF j = m.openF j := by simp [Mach.openF]
@[simp] theorem Mach.wdrop_openF (a : Agent) (j : Fin 8) (m : Mach) : (m.wdrop a).openF j = m.openF j := by simp [Mach.openF]
@[simp] theorem Mach.setFifo_openF (n : Fin 8) (x : Fifo) (j : Fin 8) (m : Mach) : (m.setFifo n x).openF j = m.openF j := (rfl)
@[simp] theorem Mach.setQp_openF (i : Fin 256) (x : Qp) (j : Fin 8) (m : Mach) : (m.setQp i x).openF j = m.openF j := (rfl)
@[simp] theorem Mach.setCmd_openF (i : Nat) (x : Cmd) (j : Fin 8) (m : Mach) : (m.setCmd i x).openF j = m.openF j := (rfl)
@[simp] theorem Mach.setVol_openF (i : Vid) (x : Vol) (j : Fin 8) (m : Mach) : (m.setVol i x).openF j = m.openF j := (rfl)
@[simp] theorem Mach.setRegion_openF (i : Nat) (x : Region) (j : Fin 8) (m : Mach) : (m.setRegion i x).openF j = m.openF j := (rfl)
@[simp] theorem Mach.setDesc_openF (i : Nat) (x : Desc) (j : Fin 8) (m : Mach) : (m.setDesc i x).openF j = m.openF j := (rfl)
@[simp] theorem Mach.setChn_openF (i : Chan) (x : Chn) (j : Fin 8) (m : Mach) : (m.setChn i x).openF j = m.openF j := (rfl)
@[simp] theorem Mach.setDie_openF (i : Nat) (x : DieSt) (j : Fin 8) (m : Mach) : (m.setDie i x).openF j = m.openF j := (rfl)
@[simp] theorem Mach.setFur_openF (i : Nat) (x : Fur) (j : Fin 8) (m : Mach) : (m.setFur i x).openF j = m.openF j := (rfl)
@[simp] theorem Mach.setDram_openF (i : Fin 4) (x : Drc) (j : Fin 8) (m : Mach) : (m.setDram i x).openF j = m.openF j := (rfl)
@[simp] theorem Mach.setKslot_openF (i : Nat) (x : KeySlot) (j : Fin 8) (m : Mach) : (m.setKslot i x).openF j = m.openF j := (rfl)
@[simp] theorem Mach.setSens_openF (i : Nat) (x : Sensor) (j : Fin 8) (m : Mach) : (m.setSens i x).openF j = m.openF j := (rfl)
@[simp] theorem Mach.setBlk_openF (d b : Nat) (x : Blk) (j : Fin 8) (m : Mach) : (m.setBlk d b x).openF j = m.openF j := (rfl)
@[simp] theorem Mach.errBit_openF (p : Page) (i : Nat) (j : Fin 8) (m : Mach) : (m.errBit p i).openF j = m.openF j := (rfl)

/-! ### Registers -/

@[simp] theorem Mach.rd_wr_same (m : Mach) (k : Nat) (v : Word) : (m.wr k v).rd k = v := by
  simp [Mach.wr, Mach.rd]

theorem Mach.rd_wr_ne (m : Mach) (k j : Nat) (v : Word) (h : j ≠ k) : (m.wr k v).rd j = m.rd j := by
  simp [Mach.wr, Mach.rd, SMap.get_set_ne _ _ _ _ _ _ h]

theorem pageBase_inj {p q : Page} (h : p.base = q.base) : p = q := by
  rcases p with _ | (_ | _) | _ | _ | _ | _ | _ | _ | _ | _ | _ | _ | _ | _ | _ | _ | _ | _ | _ | _ | _ | c | d | _ | n <;>
    rcases q with _ | (_ | _) | _ | _ | _ | _ | _ | _ | _ | _ | _ | _ | _ | _ | _ | _ | _ | _ | _ | _ | _ | c' | d' | _ | n' <;>
    simp only [Page.base] at h <;> first | rfl | omega | (congr 1; ext; omega)

@[simp] theorem Mach.hdr_setHdr_same (m : Mach) (p : Page) (h : PageHdr) : (m.setHdr p h).hdr p = h := by
  simp [Mach.setHdr, Mach.hdr]

theorem Mach.hdr_setHdr_ne (m : Mach) (p q : Page) (h : PageHdr) (n : q ≠ p) : (m.setHdr p h).hdr q = m.hdr q := by
  have : q.base ≠ p.base := fun e => n (pageBase_inj e)
  simp [Mach.setHdr, Mach.hdr, SMap.get_set_ne _ _ _ _ _ _ this]

@[simp] theorem Mach.pageSt_setPageSt_same (m : Mach) (p : Page) (x : PageSt) : (m.setPageSt p x).pageSt p = x := by
  simp [Mach.setPageSt, Mach.pageSt]

theorem Mach.pageSt_setPageSt_ne (m : Mach) (p q : Page) (x : PageSt) (n : q ≠ p) : (m.setPageSt p x).pageSt q = m.pageSt q := by
  simp [Mach.setPageSt, Mach.pageSt, Mach.hdr_setHdr_ne _ _ _ _ n]

@[simp] theorem Mach.rd_touch (m : Mach) (p : Page) (k : Nat) : (m.touch p).rd k = m.rd k := by unfold Mach.touch; split <;> simp

@[simp] theorem Mach.rdN_touch (m : Mach) (p : Page) (k : Nat) : (m.touch p).rdN k = m.rdN k := by simp [Mach.rdN]

@[simp] theorem Mach.rd64_touch (m : Mach) (p : Page) (k : Nat) : (m.touch p).rd64 k = m.rd64 k := by unfold Mach.touch; split <;> simp

theorem Mach.hdr_touch (m : Mach) (p q : Page) : { (m.touch p).hdr q with seq := 0 } = { m.hdr q with seq := 0 } := by
  unfold Mach.touch
  split
  · by_cases n : q = p
    · subst n; simp
    · rw [Mach.hdr_setHdr_ne _ _ _ _ n]
  · rfl

/-- A page state is what the header says but for SEQ. -/
theorem Mach.pageSt_of_hdr {a b : Mach} {p : Page} (h : { b.hdr p with seq := 0 } = { a.hdr p with seq := 0 }) : b.pageSt p = a.pageSt p := by
  have := congrArg PageHdr.st h
  simpa [Mach.pageSt] using this

@[simp] theorem Mach.pageSt_touch (m : Mach) (p q : Page) : (m.touch p).pageSt q = m.pageSt q := Mach.pageSt_of_hdr (m.hdr_touch p q)

@[simp] theorem Mach.running_touch (m : Mach) (p q : Page) : (m.touch p).running q = m.running q := by simp [Mach.running]

@[simp] theorem Mach.rd_set_same (m : Mach) (k : Nat) (v : Word) : (m.set k v).rd k = v := by unfold Mach.set; split <;> simp

theorem Mach.rd_set_ne (m : Mach) (k j : Nat) (v : Word) (h : j ≠ k) : (m.set k v).rd j = m.rd j := by
  unfold Mach.set; split <;> simp [Mach.rd_wr_ne _ _ _ _ h]

@[simp] theorem Mach.rd64_set (m : Mach) (k j : Nat) (v : Word) : (m.set k v).rd64 j = m.rd64 j := by unfold Mach.set; split <;> simp

theorem Mach.hdr_set (m : Mach) (k : Nat) (v : Word) (q : Page) : { (m.set k v).hdr q with seq := 0 } = { m.hdr q with seq := 0 } := by
  unfold Mach.set
  split
  · rw [Mach.hdr_touch]; rfl
  · rfl

@[simp] theorem Mach.pageSt_set (m : Mach) (k : Nat) (v : Word) (q : Page) : (m.set k v).pageSt q = m.pageSt q :=
  Mach.pageSt_of_hdr (m.hdr_set k v q)

@[simp] theorem Mach.running_set (m : Mach) (k : Nat) (v : Word) (q : Page) : (m.set k v).running q = m.running q := by
  simp [Mach.running]

@[simp] theorem Mach.rd_bump_same (m : Mach) (k : Nat) :
    (m.bump k).rd k = BitVec.ofNat 32 (min 0xFFFFFFFF (m.rdN k + 1)) := by simp [Mach.bump, Mach.bumpBy]

theorem Mach.rd_bump_ne (m : Mach) (k j : Nat) (h : j ≠ k) : (m.bump k).rd j = m.rd j := by
  simp [Mach.bump, Mach.bumpBy, Mach.rd_set_ne _ _ _ _ h]

@[simp] theorem Mach.pageSt_bump (m : Mach) (k : Nat) (q : Page) : (m.bump k).pageSt q = m.pageSt q := by
  simp [Mach.bump, Mach.bumpBy]

@[simp] theorem Mach.running_bump (m : Mach) (k : Nat) (q : Page) : (m.bump k).running q = m.running q := by simp [Mach.running]

theorem Mach.hdr_bump (m : Mach) (k : Nat) (q : Page) : { (m.bump k).hdr q with seq := 0 } = { m.hdr q with seq := 0 } := by
  simp only [Mach.bump, Mach.bumpBy, Mach.hdr_set]

@[simp] theorem Mach.pageSt_wdrop (m : Mach) (a : Agent) (q : Page) : (m.wdrop a).pageSt q = m.pageSt q := by
  unfold Mach.wdrop; split <;> simp

/-! ### Keyed state -/

@[simp] theorem Mach.fifo_setFifo_same (m : Mach) (n : Fin 8) (x : Fifo) : (m.setFifo n x).fifo n = x := by simp [Mach.setFifo, Mach.fifo]

theorem Mach.fifo_setFifo_ne (m : Mach) (n j : Fin 8) (x : Fifo) (h : j ≠ n) : (m.setFifo n x).fifo j = m.fifo j := by
  have : j.val ≠ n.val := fun e => h (Fin.ext e)
  simp [Mach.setFifo, Mach.fifo, SMap.get_set_ne _ _ _ _ _ _ this]

@[simp] theorem Mach.qp_setQp_same (m : Mach) (n : Fin 256) (x : Qp) : (m.setQp n x).qp n = x := by simp [Mach.setQp, Mach.qp]

theorem Mach.qp_setQp_ne (m : Mach) (n j : Fin 256) (x : Qp) (h : j ≠ n) : (m.setQp n x).qp j = m.qp j := by
  have : j.val ≠ n.val := fun e => h (Fin.ext e)
  simp [Mach.setQp, Mach.qp, SMap.get_set_ne _ _ _ _ _ _ this]

@[simp] theorem Mach.cmd_setCmd_same (m : Mach) (n : Nat) (x : Cmd) : (m.setCmd n x).cmd n = x := by simp [Mach.setCmd, Mach.cmd]

theorem Mach.cmd_setCmd_ne (m : Mach) (n j : Nat) (x : Cmd) (h : j ≠ n) : (m.setCmd n x).cmd j = m.cmd j := by
  simp [Mach.setCmd, Mach.cmd, SMap.get_set_ne _ _ _ _ _ _ h]

@[simp] theorem Mach.volu_setVol_same (m : Mach) (n : Vid) (x : Vol) : (m.setVol n x).volu n = x := by simp [Mach.setVol, Mach.volu]

theorem Mach.volu_setVol_ne (m : Mach) (n j : Vid) (x : Vol) (h : j ≠ n) : (m.setVol n x).volu j = m.volu j := by
  have : j.val ≠ n.val := fun e => h (Fin.ext e)
  simp [Mach.setVol, Mach.volu, SMap.get_set_ne _ _ _ _ _ _ this]

@[simp] theorem Mach.die_setDie_same (m : Mach) (n : Nat) (x : DieSt) : (m.setDie n x).die n = x := by simp [Mach.setDie, Mach.die]

theorem Mach.die_setDie_ne (m : Mach) (n j : Nat) (x : DieSt) (h : j ≠ n) : (m.setDie n x).die j = m.die j := by
  simp [Mach.setDie, Mach.die, SMap.get_set_ne _ _ _ _ _ _ h]

@[simp] theorem Mach.kslot_setKslot_same (m : Mach) (n : Nat) (x : KeySlot) : (m.setKslot n x).kslot n = x := by
  simp [Mach.setKslot, Mach.kslot]

theorem Mach.kslot_setKslot_ne (m : Mach) (n j : Nat) (x : KeySlot) (h : j ≠ n) : (m.setKslot n x).kslot j = m.kslot j := by
  simp [Mach.setKslot, Mach.kslot, SMap.get_set_ne _ _ _ _ _ _ h]

@[simp] theorem Mach.sens_setSens_same (m : Mach) (n : Nat) (x : Sensor) : (m.setSens n x).sens n = x := by simp [Mach.setSens, Mach.sens]

theorem Mach.sens_setSens_ne (m : Mach) (n j : Nat) (x : Sensor) (h : j ≠ n) : (m.setSens n x).sens j = m.sens j := by
  simp [Mach.setSens, Mach.sens, SMap.get_set_ne _ _ _ _ _ _ h]

@[simp] theorem Mach.fur_setFur_same (m : Mach) (n : Nat) (x : Fur) : (m.setFur n x).fur n = x := by simp [Mach.setFur, Mach.fur]

@[simp] theorem Mach.blk_setBlk_same (m : Mach) (d b : Nat) (x : Blk) : (m.setBlk d b x).blk d b = x := by simp [Mach.setBlk, Mach.blk]

@[simp] theorem Mach.desc_setDesc_same (m : Mach) (n : Nat) (x : Desc) : (m.setDesc n x).desc n = x := by simp [Mach.setDesc, Mach.desc]

theorem Mach.desc_setDesc_ne (m : Mach) (n j : Nat) (x : Desc) (h : j ≠ n) : (m.setDesc n x).desc j = m.desc j := by
  simp [Mach.setDesc, Mach.desc, SMap.get_set_ne _ _ _ _ _ _ h]

@[simp] theorem Mach.region_setRegion_same (m : Mach) (n : Nat) (x : Region) : (m.setRegion n x).region n = x := by
  simp [Mach.setRegion, Mach.region]

@[simp] theorem Mach.chn_setChn_same (m : Mach) (n : Chan) (x : Chn) : (m.setChn n x).chn n = x := by simp [Mach.setChn, Mach.chn]

theorem Mach.chn_setChn_ne (m : Mach) (n j : Chan) (x : Chn) (h : j ≠ n) : (m.setChn n x).chn j = m.chn j := by
  have : j.val ≠ n.val := fun e => h (Fin.ext e)
  simp [Mach.setChn, Mach.chn, SMap.get_set_ne _ _ _ _ _ _ this]

@[simp] theorem Mach.dram_setDram_same (m : Mach) (n : Fin 4) (x : Drc) : (m.setDram n x).dram n = x := by simp [Mach.setDram, Mach.dram]

@[simp] theorem perPort_get_set_same {α : Type} (x : PerPort α) (p : Port) (v : α) : (x.set p v).get p = v := by cases p <;> rfl

theorem perPort_get_set_ne {α : Type} (x : PerPort α) (p q : Port) (v : α) (h : q ≠ p) : (x.set p v).get q = x.get q := by
  cases p <;> cases q <;> first | rfl | exact absurd rfl h

@[simp] theorem Mach.updPort_same (m : Mach) (p : Port) (f : PortSt → PortSt) : (m.updPort p f).port.get p = f (m.port.get p) := by
  simp [Mach.updPort]

theorem Mach.updPort_ne (m : Mach) (p q : Port) (f : PortSt → PortSt) (h : q ≠ p) : (m.updPort p f).port.get q = m.port.get q := by
  simp [Mach.updPort, perPort_get_set_ne _ _ _ _ h]

end Sys2Proof.Machine
end

