-- ==== Sys2Proof/Laws/Alm.lean ====
section
/-! SUPPORT. What writing Almanac records can change: nothing but what `Mach.Recorded` names. -/

namespace Sys2Proof.Machine

-- One proof at a time: proofs that wait for each other would each hold a thread and its stack.
set_option Elab.async false

theorem recorded_refl (m : Mach) : Mach.Recorded m m where
  same := by simp [Mach.SameBut]
  adm := (rfl)
  pff _ _ := (rfl)
  rd _ _ := (rfl)
  c64 := (rfl)
  low := (rfl)
  hdr _ := (rfl)
  err _ _ := (rfl)

theorem recorded_trans {a b c : Mach} (h : Mach.Recorded a b) (g : Mach.Recorded b c) : Mach.Recorded a c where
  same := by
    have h1 := h.same
    have g1 := g.same
    simp only [Mach.SameBut, List.mem_cons, reduceCtorEq, List.mem_nil_iff, or_false, false_or, true_or] at h1 g1 ⊢
    simp [*]
  adm := by
    rw [g.adm, h.adm]
  pff n hn := (g.pff n hn).trans (h.pff n hn)
  rd k hk := (g.rd k hk).trans (h.rd k hk)
  c64 := g.c64.trans h.c64
  low := g.low.trans h.low
  hdr p := (g.hdr p).trans (h.hdr p)
  err p hp := (g.err p hp).trans (h.err p hp)

/-- An update of the Almanac alone. -/
theorem recorded_updAlm (m : Mach) (f : Alm → Alm) : Mach.Recorded m (m.updAlm f) where
  same := by simp [Mach.SameBut]
  adm := (rfl)
  pff _ _ := (rfl)
  rd _ _ := (rfl)
  c64 := (rfl)
  low := (rfl)
  hdr _ := (rfl)
  err _ _ := (rfl)

theorem err_of_hdr {a b : Mach} {p : Page} (h : { b.hdr p with seq := 0 } = { a.hdr p with seq := 0 }) :
    (b.hdr p).err = (a.hdr p).err := by
  simpa using congrArg PageHdr.err h

theorem zero_of_hdr {a b : Mach} {p : Page} (h : { b.hdr p with seq := 0 } = { a.hdr p with seq := 0 }) :
    { b.hdr p with seq := 0, err := 0 } = { a.hdr p with seq := 0, err := 0 } := by
  have := congrArg (fun x : PageHdr => { x with err := 0 }) h
  simpa using this

@[simp] theorem c64_wr (m : Mach) (k : Nat) (v : Word) : (m.wr k v).reg.c64 = m.reg.c64 := (rfl)
@[simp] theorem low_wr (m : Mach) (k : Nat) (v : Word) : (m.wr k v).reg.low = m.reg.low := (rfl)
@[simp] theorem c64_setHdr (m : Mach) (p : Page) (h : PageHdr) : (m.setHdr p h).reg.c64 = m.reg.c64 := (rfl)
@[simp] theorem low_setHdr (m : Mach) (p : Page) (h : PageHdr) : (m.setHdr p h).reg.low = m.reg.low := (rfl)
@[simp] theorem c64_touch (m : Mach) (p : Page) : (m.touch p).reg.c64 = m.reg.c64 := by unfold Mach.touch; split <;> rfl
@[simp] theorem low_touch (m : Mach) (p : Page) : (m.touch p).reg.low = m.reg.low := by unfold Mach.touch; split <;> rfl
@[simp] theorem c64_set (m : Mach) (k : Nat) (v : Word) : (m.set k v).reg.c64 = m.reg.c64 := by unfold Mach.set; split <;> simp
@[simp] theorem low_set (m : Mach) (k : Nat) (v : Word) : (m.set k v).reg.low = m.reg.low := by unfold Mach.set; split <;> simp
@[simp] theorem c64_bump (m : Mach) (k : Nat) : (m.bump k).reg.c64 = m.reg.c64 := by simp [Mach.bump, Mach.bumpBy]
@[simp] theorem low_bump (m : Mach) (k : Nat) : (m.bump k).reg.low = m.reg.low := by simp [Mach.bump, Mach.bumpBy]

theorem recorded_touch (m : Mach) (p : Page) : Mach.Recorded m (m.touch p) where
  same := by simp [Mach.SameBut]
  adm := by simp
  pff _ _ := by simp [Mach.fifo]
  rd _ _ := by simp
  c64 := by simp
  low := by simp
  hdr q := zero_of_hdr (m.hdr_touch p q)
  err q _ := err_of_hdr (m.hdr_touch p q)

theorem recorded_bump (m : Mach) (k : Nat) (h : k ∈ almKeys) : Mach.Recorded m (m.bump k) where
  same := by simp [Mach.SameBut]
  adm := by simp
  pff _ _ := by simp [Mach.fifo]
  rd j hj := Mach.rd_bump_ne _ _ _ fun e => hj (e ▸ h)
  c64 := by simp
  low := by simp
  hdr q := zero_of_hdr (m.hdr_bump k q)
  err q _ := err_of_hdr (m.hdr_bump k q)

theorem recorded_logEvent (m : Mach) (l : Nat) (k : EvKind) : Mach.Recorded m (m.logEvent l k) where
  same := by simp [Mach.SameBut, Mach.logEvent]
  adm := (rfl)
  pff _ _ := (rfl)
  rd _ _ := (rfl)
  c64 := (rfl)
  low := (rfl)
  hdr _ := (rfl)
  err _ _ := (rfl)

/-- A packet of PFF0. -/
theorem recorded_setFifo0 (m : Mach) (x : Fifo) : Mach.Recorded m (m.setFifo 0 x) where
  same := by simp [Mach.SameBut]
  adm := (rfl)
  pff n hn := Mach.fifo_setFifo_ne _ _ _ _ hn
  rd _ _ := (rfl)
  c64 := (rfl)
  low := (rfl)
  hdr _ := (rfl)
  err _ _ := (rfl)

theorem recorded_errBit (m : Mach) (i : Nat) : Mach.Recorded m (m.errBit .alm i) where
  same := by simp [Mach.SameBut]
  adm := (rfl)
  pff _ _ := (rfl)
  rd _ _ := (rfl)
  c64 := (rfl)
  low := (rfl)
  hdr q := by
    unfold Mach.errBit
    by_cases n : q = .alm
    · subst n; simp
    · rw [Mach.hdr_setHdr_ne _ _ _ _ n]
  err q hq := by
    unfold Mach.errBit
    rw [Mach.hdr_setHdr_ne _ _ _ _ hq]

theorem recorded_almTouch (m : Mach) : Mach.Recorded m m.almTouch :=
  recorded_trans (recorded_updAlm m _) (recorded_touch _ _)

theorem recorded_almPut (m : Mach) (s : Nat) (r : AlmRec) : Mach.Recorded m (m.almPut s r) :=
  recorded_trans (recorded_updAlm m _) (recorded_almTouch _)

theorem recorded_pffCommit0 (m : Mach) (ok : Bool) (ws : List Word) : Mach.Recorded m (m.pffCommit 0 ok ws) := by
  unfold Mach.pffCommit
  dsimp only
  split
  · split <;> exact recorded_setFifo0 _ _
  · exact recorded_trans (recorded_setFifo0 _ _) (recorded_bump _ _ (by decide))

theorem recorded_almSealed (m : Mach) (r : AlmRec) : Mach.Recorded m (m.almSealed r) := by
  unfold Mach.almSealed
  dsimp only
  have h : Mach.Recorded m (if (bitOf (m.rdN Reg.ALM_EXPORT) 2 && decide (bits (m.rdN Reg.ALM_EXPORT) 1 0 ≤ r.sev.num)) = true then
      if (decide (32 ≤ m.pffFree 0) && (m.fifo 0).stalled.isNone && m.running (.pff 0) && (m.fifo 0).opn.isEmpty) = true then
        m.pffPacket 0 r.words
      else m.bump Reg.ALM_EXPDROP
    else m) := by
    split
    · split
      · exact recorded_pffCommit0 _ _ _
      · exact recorded_bump _ _ (by decide)
    · exact recorded_refl _
  split
  · exact recorded_trans h (recorded_logEvent _ _ _)
  · exact h

theorem recorded_almSeal (m : Mach) : Mach.Recorded m m.almSeal := by
  unfold Mach.almSeal
  split
  · exact recorded_refl _
  · dsimp only
    split
    · exact recorded_trans (recorded_updAlm _ _) (recorded_almSealed _ _)
    · exact recorded_updAlm _ _

theorem recorded_almPlace {m u : Mach} {mk : Word → AlmRec} {s : Nat} (h : m.almPlace mk = some (u, s)) : Mach.Recorded m u := by
  unfold Mach.almPlace at h
  dsimp only at h
  split at h
  · cases h
    exact recorded_trans (recorded_almPut _ _ _) (recorded_updAlm _ _)
  · split at h
    · rw [Option.map_eq_some_iff] at h
      obtain ⟨e, -, h⟩ := h
      cases h
      exact recorded_trans (recorded_bump _ _ (by decide)) (recorded_trans (recorded_almPut _ _ _) (recorded_updAlm _ _))
    · cases h

theorem recorded_almNew (m : Mach) (ev : Bool) (mk : Word → AlmRec) : Mach.Recorded m (m.almNew ev mk) := by
  unfold Mach.almNew
  dsimp only
  refine recorded_trans (recorded_almSeal m) ?_
  split
  · rename_i u s h
    have hp := recorded_almPlace h
    split
    · exact recorded_trans hp (recorded_updAlm _ _)
    · split
      · exact recorded_trans hp (recorded_almSealed _ _)
      · exact hp
  · have hb : Mach.Recorded m.almSeal ((m.almSeal.bump Reg.ALM_LOST).errBit .alm 16) :=
      recorded_trans (recorded_bump _ _ (by decide)) (recorded_errBit _ _)
    refine recorded_trans hb ?_
    split
    · exact recorded_refl _
    · split
      · rename_i u s h
        exact recorded_trans (recorded_almPlace h) (recorded_updAlm _ _)
      · exact recorded_bump _ _ (by decide)

theorem recorded_almPersist1 (m : Mach) (r : AlmRec) : Mach.Recorded m (m.almPersist1 r) := by
  unfold Mach.almPersist1
  dsimp only
  split
  · exact recorded_updAlm _ _
  · split
    · exact recorded_trans (recorded_updAlm _ _) (recorded_bump _ _ (by decide))
    · exact recorded_trans (recorded_bump _ _ (by decide)) (recorded_errBit _ _)

theorem recorded_almMark (m : Mach) (q : Word) : Mach.Recorded m (m.almMark q) :=
  recorded_trans (recorded_updAlm _ _) (recorded_almTouch _)

/-- A fold of updates, each of which only records. -/
theorem recorded_each {α : Type} (l : List α) (f : α → Mach → Mach) (h : ∀ a m, Mach.Recorded m (f a m)) (m : Mach) :
    Mach.Recorded m (m.each l f) := by
  unfold Mach.each
  induction l generalizing m with
  | nil => exact recorded_refl _
  | cons a l ih => exact recorded_trans (h a m) (ih _)

theorem recorded_almWriteAll (m : Mach) : Mach.Recorded m m.almWriteAll := by
  unfold Mach.almWriteAll
  exact recorded_trans (recorded_almSeal m)
    (recorded_each _ _ (fun r m => recorded_trans (recorded_almPersist1 m r) (recorded_almMark _ _)) _)

theorem recorded_almTime (m : Mach) : Mach.Recorded m m.almTime := recorded_almNew _ _ _

theorem recorded_almFlush (m : Mach) : Mach.Recorded m m.almFlush := by
  unfold Mach.almFlush
  split
  · exact recorded_trans (recorded_almWriteAll _) (recorded_trans (recorded_almTime _) (recorded_trans (recorded_almWriteAll _)
      (recorded_updAlm _ _)))
  · exact recorded_updAlm _ _

theorem recorded_almFlushPending (m : Mach) : Mach.Recorded m m.almFlushPending := by
  unfold Mach.almFlushPending
  split
  · exact recorded_almFlush _
  · exact recorded_refl _

theorem recorded_almAfter (m : Mach) (sev : Sev) : Mach.Recorded m (m.almAfter sev) := by
  unfold Mach.almAfter
  split
  · exact recorded_almFlush _
  · split
    · exact recorded_almWriteAll _
    · exact recorded_refl _

/-- An event record changes nothing but the Almanac and what mirrors it. -/
theorem recorded_event (m : Mach) (sev : Sev) (src code inst : Nat) (arg : BitVec 64) (d : List Word) :
    Mach.Recorded m (m.event sev src code inst arg d) := by
  unfold Mach.event
  dsimp only
  have h : Mach.Recorded m ((m.almNew true (m.almEvent sev src code inst arg d)).almAfter sev) :=
    recorded_trans (recorded_almNew _ _ _) (recorded_almAfter _ _)
  split
  · exact h
  · split
    · exact h
    · split
      · exact recorded_almPut _ _ _
      · exact h

theorem recorded_devEvent (m : Mach) (sev : Sev) (code : Nat) (arg : BitVec 64) (d : List Word) :
    Mach.Recorded m (m.devEvent sev code arg d) := recorded_event _ _ _ _ _ _ _

/-- A PG_ERR bit that sets: the bit, and the record of it unless it is masked. -/
theorem recorded_raiseAs (m : Mach) (sev : Sev) (p : Page) (i : Nat) (arg : BitVec 64) :
    Mach.Recorded (m.errBit p i) (m.raiseAs sev p i arg) := by
  unfold Mach.raiseAs
  dsimp only
  split
  · exact recorded_refl _
  · exact recorded_event _ _ _ _ _ _ _

theorem recorded_raise (m : Mach) (p : Page) (i : Nat) (arg : BitVec 64) : Mach.Recorded (m.errBit p i) (m.raise p i arg) :=
  recorded_raiseAs _ _ _ _ _

theorem recorded_observe (m : Mach) (q : Nat) (b : Option Nat) (v : Int) : Mach.Recorded m (m.observe q b v) := by
  unfold Mach.observe
  split
  · exact recorded_refl _
  · exact recorded_updAlm _ _

theorem recorded_snapshot1 (m : Mach) (q : Nat × Bool) : Mach.Recorded m (Mach.snapshot1 q m) := by
  unfold Mach.snapshot1
  dsimp only
  refine recorded_trans ?_ (recorded_almAfter _ _)
  refine recorded_trans ?_ (recorded_almNew _ _ _)
  exact recorded_updAlm _ _

theorem recorded_snapshots (m : Mach) : Mach.Recorded m m.snapshots := recorded_each _ _ (fun q m => recorded_snapshot1 m q) m

theorem recorded_almRelease (m : Mach) : Mach.Recorded m m.almRelease := by
  unfold Mach.almRelease
  split
  · exact recorded_refl _
  · exact recorded_updAlm _ _

theorem recorded_almNormal (m : Mach) : Mach.Recorded m m.almNormal := by
  unfold Mach.almNormal
  dsimp only
  have h : Mach.Recorded m (m.updAlm fun a => { a with buffered := false }) := recorded_updAlm _ _
  split
  · exact recorded_trans h (recorded_trans (recorded_almRelease _) (recorded_almFlush _))
  · exact h

/-- A page keeps its state while records are written. -/
theorem recorded_pageSt {a b : Mach} (h : Mach.Recorded a b) (p : Page) : b.pageSt p = a.pageSt p := by
  simpa [Mach.pageSt] using congrArg PageHdr.st (h.hdr p)

end Sys2Proof.Machine
end

