-- ==== Sys2Proof/Laws/Bg.lean ====
section
/-! SUPPORT. The operations that leave the background operation alone. -/

namespace Sys2Proof.Machine

-- One proof at a time: proofs that wait for each other would each hold a thread and its stack.
set_option Elab.async false

theorem Mach.when_bg (b : Bool) (f : Mach → Mach) (m : Mach) (h : ∀ m : Mach, (f m).adm.bg = m.adm.bg) : (m.when b f).adm.bg = m.adm.bg := by
  unfold Mach.when; split <;> simp [h]

theorem Mach.each_bg {α : Type} (l : List α) (f : α → Mach → Mach) (m : Mach) (h : ∀ a, ∀ m : Mach, (f a m).adm.bg = m.adm.bg) :
    (m.each l f).adm.bg = m.adm.bg := by
  unfold Mach.each
  induction l generalizing m with
  | nil => rfl
  | cons a l ih => rw [List.foldl_cons, ih, h]

@[simp] theorem Mach.pffCommit_bg (n : Fin 8) (frameOk : Bool) (ws : List Word) (m : Mach) : (Mach.pffCommit n frameOk ws m).adm.bg = m.adm.bg := by
  unfold Mach.pffCommit
  try lift_lets
  repeat' first
    | (intro x; first | (have hx : x.adm.bg = m.adm.bg := by
                            simp only [x]
                            repeat' (first | (simp [*]; done) | intro _ | split   | simp [*])
                         clear_value x) | clear_value x)
    | (simp [*]; done)
    | intro _
    | split
    | simp [*]

@[simp] theorem Mach.pffAccept_bg (n : Fin 8) (w : Word) (frameOk : Bool) (m : Mach) : (Mach.pffAccept n w frameOk m).adm.bg = m.adm.bg := by
  unfold Mach.pffAccept
  try lift_lets
  repeat' first
    | (intro x; first | (have hx : x.adm.bg = m.adm.bg := by
                            simp only [x]
                            repeat' (first | (simp [*]; done) | intro _ | split   | simp [*])
                         clear_value x) | clear_value x)
    | (simp [*]; done)
    | intro _
    | split
    | simp [*]

@[simp] theorem Mach.pffOversize_bg (n : Fin 8) (m : Mach) : (Mach.pffOversize n m).adm.bg = m.adm.bg := by
  simp [Mach.pffOversize]

@[simp] theorem Mach.pffResume_bg (n : Fin 8) (m : Mach) : (Mach.pffResume n m).adm.bg = m.adm.bg := by
  unfold Mach.pffResume
  try lift_lets
  repeat' first
    | (intro x; first | (have hx : x.adm.bg = m.adm.bg := by
                            simp only [x]
                            repeat' (first | (simp [*]; done) | intro _ | split   | simp [*])
                         clear_value x) | clear_value x)
    | (simp [*]; done)
    | intro _
    | split
    | simp [*]

@[simp] theorem Mach.pffPacket_bg (n : Fin 8) (ws : List Word) (m : Mach) : (Mach.pffPacket n ws m).adm.bg = m.adm.bg := by
  simp [Mach.pffPacket]

theorem Mach.ite_bg (c : Prop) [Decidable c] (a b : Mach) : (if c then a else b).adm.bg = if c then a.adm.bg else b.adm.bg := by
  split <;> rfl

theorem Mach.recorded_bg {a b : Mach} (h : Mach.Recorded a b) : b.adm.bg = a.adm.bg := by
  rw [h.adm]

@[simp] theorem Mach.fifoPass_bg (n : Fin 8) (ws : List Word) (m : Mach) : (Mach.fifoPass n ws m).adm.bg = m.adm.bg := by
  unfold Mach.fifoPass
  try lift_lets
  repeat' first
    | (intro x; first | (have hx : x.adm.bg = m.adm.bg := by
                            simp only [x]
                            repeat' (first | (simp [*]; done) | intro _ | split | rw [Mach.each_bg] | simp [*])
                         clear_value x) | clear_value x)
    | (simp [*]; done)
    | intro _
    | split
    | rw [Mach.each_bg]
    | simp [*]

@[simp] theorem Mach.logEvent_bg (l k) (m : Mach) : (m.logEvent l k).adm.bg = m.adm.bg := Mach.recorded_bg (recorded_logEvent ..)

@[simp] theorem Mach.almTouch_bg (m : Mach) : (m.almTouch).adm.bg = m.adm.bg := Mach.recorded_bg (recorded_almTouch m)

@[simp] theorem Mach.almSeal_bg (m : Mach) : (m.almSeal).adm.bg = m.adm.bg := Mach.recorded_bg (recorded_almSeal m)

@[simp] theorem Mach.errBit_bg (p i) (m : Mach) : (m.errBit p i).adm.bg = m.adm.bg := by simp [Mach.errBit]

@[simp] theorem Mach.almWriteAll_bg (m : Mach) : (m.almWriteAll).adm.bg = m.adm.bg := Mach.recorded_bg (recorded_almWriteAll m)

@[simp] theorem Mach.almTime_bg (m : Mach) : (m.almTime).adm.bg = m.adm.bg := Mach.recorded_bg (recorded_almTime m)

@[simp] theorem Mach.almFlush_bg (m : Mach) : (m.almFlush).adm.bg = m.adm.bg := Mach.recorded_bg (recorded_almFlush m)

@[simp] theorem Mach.almFlushPending_bg (m : Mach) : (m.almFlushPending).adm.bg = m.adm.bg := Mach.recorded_bg (recorded_almFlushPending m)

@[simp] theorem Mach.event_bg (a b c d e f) (m : Mach) : (m.event a b c d e f).adm.bg = m.adm.bg := Mach.recorded_bg (recorded_event ..)

@[simp] theorem Mach.devEvent_bg (a b c d) (m : Mach) : (m.devEvent a b c d).adm.bg = m.adm.bg := Mach.recorded_bg (recorded_devEvent ..)

@[simp] theorem Mach.raiseAs_bg (a b c d) (m : Mach) : (m.raiseAs a b c d).adm.bg = m.adm.bg := by
  rw [Mach.recorded_bg (recorded_raiseAs m a b c d), Mach.errBit_bg]

@[simp] theorem Mach.raise_bg (b c d) (m : Mach) : (m.raise b c d).adm.bg = m.adm.bg := Mach.raiseAs_bg ..

@[simp] theorem Mach.observe_bg (q b v) (m : Mach) : (m.observe q b v).adm.bg = m.adm.bg := Mach.recorded_bg (recorded_observe ..)

@[simp] theorem Mach.snapshots_bg (m : Mach) : (m.snapshots).adm.bg = m.adm.bg := Mach.recorded_bg (recorded_snapshots m)

@[simp] theorem Mach.almNormal_bg (m : Mach) : (m.almNormal).adm.bg = m.adm.bg := Mach.recorded_bg (recorded_almNormal m)

@[simp] theorem Mach.twnPlain_bg (type : Nat) (words : List Nat) (m : Mach) : (Mach.twnPlain type words m).adm.bg = m.adm.bg := by
  unfold Mach.twnPlain
  repeat' first
    | (simp [*]; done)
    | intro _
    | split
    | simp [*]

@[simp] theorem Mach.twnPut_bg (f : Frame) (m : Mach) : (Mach.twnPut f m).adm.bg = m.adm.bg := by
  unfold Mach.twnPut
  try lift_lets
  repeat' first
    | (intro x; first | (have hx : x.adm.bg = m.adm.bg := by
                            simp only [x]
                            repeat' (first | (simp [*]; done) | intro _ | split   | simp [*])
                         clear_value x) | clear_value x)
    | (simp [*]; done)
    | intro _
    | split
    | simp [*]

@[simp] theorem Mach.twnGo_bg (f : Frame) (m : Mach) : (Mach.twnGo f m).adm.bg = m.adm.bg := by
  unfold Mach.twnGo
  repeat' first
    | (simp [*]; done)
    | intro _
    | split
    | simp [*]

theorem Mach.twnNext_bg (n : Nat) (m : Mach) : (Mach.twnNext n m).adm.bg = m.adm.bg := by
  induction n generalizing m with
  | zero => simp [Mach.twnNext]
  | succ n ih =>
    unfold Mach.twnNext
    split
    · simp
    · lift_lets
      intro x
      have hx : x.adm.bg = m.adm.bg := by
        simp only [x]
        rw [Mach.each_bg]
        intro a m
        simp
      clear_value x
      split
      · rw [ih]; simp [hx]
      · simp [hx]

@[simp] theorem Mach.twnQueue_bg (x : TxOpen) (m : Mach) : (Mach.twnQueue x m).adm.bg = m.adm.bg := by
  unfold Mach.twnQueue
  split
  · simp
  · rw [Mach.twnNext_bg]; simp

@[simp] theorem Mach.twnSend_bg (type flags xid idx : Nat) (words : List Nat) (data : BitVec 2048) (m : Mach) : (Mach.twnSend type flags xid idx words data m).adm.bg = m.adm.bg := by
  simp [Mach.twnSend]

@[simp] theorem Mach.twnBegin_bg (type flags xid lbs : Nat) (words : List Nat) (m : Mach) : (Mach.twnBegin type flags xid lbs words m).adm.bg = m.adm.bg := by
  simp [Mach.twnBegin]

@[simp] theorem Mach.twnFeed_bg (xid : Nat) (f : TxOpen → TxOpen) (m : Mach) : (Mach.twnFeed xid f m).adm.bg = m.adm.bg := by
  unfold Mach.twnFeed
  rw [Mach.twnNext_bg]; simp

@[simp] theorem Mach.twnForget_bg (s : Nat) (m : Mach) : (Mach.twnForget s m).adm.bg = m.adm.bg := by
  unfold Mach.twnForget
  try lift_lets
  repeat' first
    | (intro x; first | (have hx : x.adm.bg = m.adm.bg := by
                            simp only [x]
                            repeat' (first | (simp [*]; done) | intro _ | split | rw [Mach.each_bg]  | simp [*])
                         clear_value x) | clear_value x)
    | (simp [*]; done)
    | intro _
    | split
    | rw [Mach.each_bg]
    | simp [*]

@[simp] theorem Mach.twnDrain_bg (m : Mach) : (Mach.twnDrain m).adm.bg = m.adm.bg := by
  unfold Mach.twnDrain
  repeat' first
    | (simp [*]; done)
    | intro _
    | split
    | rw [Mach.each_bg]
    | simp [*]

@[simp] theorem Mach.twnAcked_bg (ack : Nat) (m : Mach) : (Mach.twnAcked ack m).adm.bg = m.adm.bg := by
  simp [Mach.twnAcked]

@[simp] theorem Mach.twnXid_bg (w : TxFor) (m : Mach) : (Mach.twnXid w m).1.adm.bg = m.adm.bg := by
  simp [Mach.twnXid]

@[simp] theorem Mach.twnData_bg (xid off : Nat) (d : Block) (m : Mach) : (Mach.twnData xid off d m).adm.bg = m.adm.bg := by
  unfold Mach.twnData
  try lift_lets
  repeat' first
    | (intro x; first | (have hx : x.adm.bg = m.adm.bg := by
                            simp only [x]
                            repeat' (first | (simp [*]; done) | intro _ | split   | simp [*])
                         clear_value x) | clear_value x)
    | (simp [*]; done)
    | intro _
    | split
    | simp [*]

@[simp] theorem Mach.twnCtl_bg (ws : List Nat) (m : Mach) : (Mach.twnCtl ws m).adm.bg = m.adm.bg := by
  unfold Mach.twnCtl
  try lift_lets
  repeat' first
    | (intro x; first | (have hx : x.adm.bg = m.adm.bg := by
                            simp only [x]
                            repeat' (first | (simp [*]; done) | intro _ | split | rw [Mach.each_bg] | simp [*])
                         clear_value x) | clear_value x)
    | (simp [*]; done)
    | intro _
    | split
    | rw [Mach.each_bg]
    | simp [*]

@[simp] theorem Mach.twnCtrl_bg (op : Nat) (v : Vid) (arg fence role size layout : Nat) (m : Mach) : (Mach.twnCtrl op v arg fence role size layout m).adm.bg = m.adm.bg := by
  simp [Mach.twnCtrl]

@[simp] theorem Mach.twnWack_bg (xid : Nat) (v : Vid) (status : Nat) (m : Mach) : (Mach.twnWack xid v status m).adm.bg = m.adm.bg := by
  simp [Mach.twnWack]

@[simp] theorem TwinWait.reply_bg (w : TwinWait) (f : Port → Mach → Mach) (m : Mach) (h : ∀ p, ∀ m : Mach, (f p m).adm.bg = m.adm.bg) :
    (w.reply f m).adm.bg = m.adm.bg := by
  unfold TwinWait.reply; split <;> simp [h]

@[simp] theorem Mach.twnAwait_bg (w : TwinWait) (m : Mach) : (Mach.twnAwait w m).adm.bg = m.adm.bg := by
  simp [Mach.twnAwait]

@[simp] theorem Mach.twnUnwait_bg (w : TwinWait) (m : Mach) : (Mach.twnUnwait w m).adm.bg = m.adm.bg := by
  simp [Mach.twnUnwait]

@[simp] theorem Mach.freeSlot_bg (s : Nat) (m : Mach) : (Mach.freeSlot s m).adm.bg = m.adm.bg := by
  simp [Mach.freeSlot]

@[simp] theorem Mach.twinOpen_bg (s : Nat) (m : Mach) : (Mach.twinOpen s m).adm.bg = m.adm.bg := by
  unfold Mach.twinOpen
  try lift_lets
  repeat' first
    | (intro x; first | (have hx : x.adm.bg = m.adm.bg := by
                            simp only [x]
                            repeat' (first | (simp [*]; done) | intro _ | split   | simp [*])
                         clear_value x) | clear_value x)
    | (simp [*]; done)
    | intro _
    | split
    | simp [*]

@[simp] theorem Mach.admitCmd_bg (s : Nat) (m : Mach) : (Mach.admitCmd s m).adm.bg = m.adm.bg := by
  simp [Mach.admitCmd]

@[simp] theorem Mach.admitWaiter_bg (s : Nat) (m : Mach) : (Mach.admitWaiter s m).adm.bg = m.adm.bg := by
  simp [Mach.admitWaiter]

@[simp] theorem Mach.release_bg (s : Nat) (m : Mach) : (Mach.release s m).adm.bg = m.adm.bg := by
  unfold Mach.release
  try lift_lets
  repeat' first
    | (intro x; first | (have hx : x.adm.bg = m.adm.bg := by
                            simp only [x]
                            repeat' (first | (simp [*]; done) | intro _ | split | rw [Mach.each_bg]  | simp [*])
                         clear_value x) | clear_value x)
    | (simp [*]; done)
    | intro _
    | split
    | rw [Mach.each_bg]
    | simp [*]

@[simp] theorem Mach.post_bg (q : Fin 256) (tag sqhd status dw2 dw3 : Nat) (m : Mach) : (Mach.post q tag sqhd status dw2 dw3 m).adm.bg = m.adm.bg := by
  unfold Mach.post
  try lift_lets
  repeat' first
    | (intro x; first | (have hx : x.adm.bg = m.adm.bg := by
                            simp only [x]
                            repeat' (first | (simp [*]; done) | intro _ | split   | simp [*])
                         clear_value x) | clear_value x)
    | (simp [*]; done)
    | intro _
    | split
    | simp [*]

@[simp] theorem Mach.markCovered_bg (ids : List Nat) (m : Mach) : (Mach.markCovered ids m).adm.bg = m.adm.bg := by
  unfold Mach.markCovered
  try lift_lets
  repeat' first
    | (intro x; first | (have hx : x.adm.bg = m.adm.bg := by
                            simp only [x]
                            repeat' (first | (simp [*]; done) | intro _ | split   | simp [*])
                         clear_value x) | clear_value x)
    | (simp [*]; done)
    | intro _
    | split
    | simp [*]

@[simp] theorem Mach.forgetReads_bg (s : Nat) (m : Mach) : (Mach.forgetReads s m).adm.bg = m.adm.bg := by
  unfold Mach.forgetReads
  repeat' first
    | (simp [*]; done)
    | intro _
    | split
    | simp [*]

@[simp] theorem Mach.complete_bg (s status dw2 dw3 : Nat) (m : Mach) : (Mach.complete s status dw2 dw3 m).adm.bg = m.adm.bg := by
  unfold Mach.complete
  try lift_lets
  repeat' first
    | (intro x; first | (have hx : x.adm.bg = m.adm.bg := by
                            simp only [x]
                            repeat' (first | (simp [*]; done) | intro _ | split   | simp [*])
                         clear_value x) | clear_value x)
    | (simp [*]; done)
    | intro _
    | split
    | simp [*]

@[simp] theorem Mach.settleRx_bg (m : Mach) : (Mach.settleRx m).adm.bg = m.adm.bg := by
  unfold Mach.settleRx
  try lift_lets
  repeat' first
    | (intro x; first | (have hx : x.adm.bg = m.adm.bg := by
                            simp only [x]
                            repeat' (first | (simp [*]; done) | intro _ | split | rw [Mach.each_bg]  | simp [*])
                         clear_value x) | clear_value x)
    | (simp [*]; done)
    | intro _
    | split
    | rw [Mach.each_bg]
    | simp [*]

@[simp] theorem Mach.settleCovers_bg (m : Mach) : (Mach.settleCovers m).adm.bg = m.adm.bg := by
  unfold Mach.settleCovers
  try lift_lets
  repeat' first
    | (intro x; first | (have hx : x.adm.bg = m.adm.bg := by
                            simp only [x]
                            repeat' (first | (simp [*]; done) | intro _ | split | rw [Mach.each_bg]  | simp [*])
                         clear_value x) | clear_value x)
    | (simp [*]; done)
    | intro _
    | split
    | rw [Mach.each_bg]
    | simp [*]

@[simp] theorem Mach.mapCovers_bg (f : Cover → Option Cover) (m : Mach) : (Mach.mapCovers f m).adm.bg = m.adm.bg := by
  unfold Mach.mapCovers
  try lift_lets
  repeat' first
    | (intro x; first | (have hx : x.adm.bg = m.adm.bg := by
                            simp only [x]
                            repeat' (first | (simp [*]; done) | intro _ | split | rw [Mach.each_bg]  | simp [*])
                         clear_value x) | clear_value x)
    | (simp [*]; done)
    | intro _
    | split
    | rw [Mach.each_bg]
    | simp [*]

@[simp] theorem Mach.ask_bg (b : HBody) (m : Mach) : (Mach.ask b m).1.adm.bg = m.adm.bg := by
  simp [Mach.ask]

@[simp] theorem Mach.askFor_bg (b : HBody) (root : Bool) (w : Waiter) (m : Mach) : (Mach.askFor b root w m).adm.bg = m.adm.bg := by
  simp [Mach.askFor]

@[simp] theorem Mach.askDefinition_bg (w : Waiter) (m : Mach) : (Mach.askDefinition w m).adm.bg = m.adm.bg := by
  simp [Mach.askDefinition]

@[simp] theorem Mach.raiseWindow_bg (m : Mach) : (Mach.raiseWindow m).adm.bg = m.adm.bg := by
  unfold Mach.raiseWindow
  try lift_lets
  repeat' first
    | (intro x; first | (have hx : x.adm.bg = m.adm.bg := by
                            simp only [x]
                            repeat' (first | (simp [*]; done) | intro _ | split | rw [Mach.each_bg] | simp [*])
                         clear_value x) | clear_value x)
    | (simp [*]; done)
    | intro _
    | split
    | rw [Mach.each_bg]
    | simp [*]

@[simp] theorem Mach.markSeg_bg (s : Nat) (m : Mach) : (Mach.markSeg s m).adm.bg = m.adm.bg := by
  unfold Mach.markSeg
  try lift_lets
  repeat' first
    | (intro x; first | (have hx : x.adm.bg = m.adm.bg := by
                            simp only [x]
                            repeat' (first | (simp [*]; done) | intro _ | split   | simp [*])
                         clear_value x) | clear_value x)
    | (simp [*]; done)
    | intro _
    | split
    | simp [*]

@[simp] theorem Mach.markTable_bg (off : Nat) (m : Mach) : (Mach.markTable off m).adm.bg = m.adm.bg := by
  simp [Mach.markTable]

@[simp] theorem Mach.putFur_bg (f : Nat) (x : Fur) (m : Mach) : (Mach.putFur f x m).adm.bg = m.adm.bg := by
  simp [Mach.putFur]

@[simp] theorem Mach.putBlk_bg (d b : Nat) (x : Blk) (m : Mach) : (Mach.putBlk d b x m).adm.bg = m.adm.bg := by
  unfold Mach.putBlk
  try lift_lets
  repeat' first
    | (intro x; first | (have hx : x.adm.bg = m.adm.bg := by
                            simp only [x]
                            repeat' (first | (simp [*]; done) | intro _ | split | rw [Mach.each_bg] | simp [*])
                         clear_value x) | clear_value x)
    | (simp [*]; done)
    | intro _
    | split
    | rw [Mach.each_bg]
    | simp [*]

@[simp] theorem Mach.putBad_bg (d : Nat) (x : BadTab) (m : Mach) : (Mach.putBad d x m).adm.bg = m.adm.bg := by
  unfold Mach.putBad
  try lift_lets
  repeat' first
    | (intro x; first | (have hx : x.adm.bg = m.adm.bg := by
                            simp only [x]
                            repeat' (first | (simp [*]; done) | intro _ | split | rw [Mach.each_bg] | simp [*])
                         clear_value x) | clear_value x)
    | (simp [*]; done)
    | intro _
    | split
    | rw [Mach.each_bg]
    | simp [*]

@[simp] theorem Mach.senses_bg (d b n : Nat) (m : Mach) : (Mach.senses d b n m).adm.bg = m.adm.bg := by
  unfold Mach.senses
  try lift_lets
  repeat' first
    | (intro x; first | (have hx : x.adm.bg = m.adm.bg := by
                            simp only [x]
                            repeat' (first | (simp [*]; done) | intro _ | split | rw [Mach.each_bg] | simp [*])
                         clear_value x) | clear_value x)
    | (simp [*]; done)
    | intro _
    | split
    | rw [Mach.each_bg]
    | simp [*]

@[simp] theorem Mach.enterExhausted_bg (m : Mach) : (Mach.enterExhausted m).adm.bg = m.adm.bg := by
  unfold Mach.enterExhausted
  repeat' first
    | (simp [*]; done)
    | intro _
    | split
    | rw [Mach.each_bg]
    | simp [*]

@[simp] theorem Mach.urgency_bg (m : Mach) : (Mach.urgency m).adm.bg = m.adm.bg := by
  unfold Mach.urgency
  try lift_lets
  repeat' first
    | (intro x; first | (have hx : x.adm.bg = m.adm.bg := by
                            simp only [x]
                            repeat' (first | (simp [*]; done) | intro _ | split   | simp [*])
                         clear_value x) | clear_value x)
    | (simp [*]; done)
    | intro _
    | split
    | simp [*]

@[simp] theorem Mach.endVictim_bg (f : Nat) (m : Mach) : (Mach.endVictim f m).adm.bg = m.adm.bg := by
  simp [Mach.endVictim]

@[simp] theorem Mach.releaseFur_bg (f : Nat) (m : Mach) : (Mach.releaseFur f m).adm.bg = m.adm.bg := by
  simp [Mach.releaseFur]

@[simp] theorem Mach.validUp_bg (f : Nat) (m : Mach) : (Mach.validUp f m).adm.bg = m.adm.bg := by
  simp [Mach.validUp]

@[simp] theorem Mach.validDown_bg (f : Nat) (m : Mach) : (Mach.validDown f m).adm.bg = m.adm.bg := by
  unfold Mach.validDown
  try lift_lets
  repeat' first
    | (intro x; first | (have hx : x.adm.bg = m.adm.bg := by
                            simp only [x]
                            repeat' (first | (simp [*]; done) | intro _ | split   | simp [*])
                         clear_value x) | clear_value x)
    | (simp [*]; done)
    | intro _
    | split
    | simp [*]

@[simp] theorem Mach.closeFur_bg (f : Nat) (m : Mach) : (Mach.closeFur f m).adm.bg = m.adm.bg := by
  unfold Mach.closeFur
  try lift_lets
  repeat' first
    | (intro x; first | (have hx : x.adm.bg = m.adm.bg := by
                            simp only [x]
                            repeat' (first | (simp [*]; done) | intro _ | split   | simp [*])
                         clear_value x) | clear_value x)
    | (simp [*]; done)
    | intro _
    | split
    | simp [*]

@[simp] theorem Mach.allReadOnly_bg (m : Mach) : (Mach.allReadOnly m).adm.bg = m.adm.bg := by
  unfold Mach.allReadOnly
  repeat' first
    | (simp [*]; done)
    | intro _
    | split
    | rw [Mach.each_bg]
    | simp [*]

@[simp] theorem Mach.spareUpdate_bg (m : Mach) : (Mach.spareUpdate m).adm.bg = m.adm.bg := by
  unfold Mach.spareUpdate
  try lift_lets
  repeat' first
    | (intro x; first | (have hx : x.adm.bg = m.adm.bg := by
                            simp only [x]
                            repeat' (first | (simp [*]; done) | intro _ | split   | simp [*])
                         clear_value x) | clear_value x)
    | (simp [*]; done)
    | intro _
    | split
    | simp [*]

@[simp] theorem Mach.retireFur_bg (f : Nat) (m : Mach) : (Mach.retireFur f m).adm.bg = m.adm.bg := by
  unfold Mach.retireFur
  repeat' first
    | (simp [*]; done)
    | intro _
    | split
    | simp [*]

@[simp] theorem Mach.growBad_bg (d b cause : Nat) (m : Mach) : (Mach.growBad d b cause m).adm.bg = m.adm.bg := by
  unfold Mach.growBad
  try lift_lets
  repeat' first
    | (intro x; first | (have hx : x.adm.bg = m.adm.bg := by
                            simp only [x]
                            repeat' (first | (simp [*]; done) | intro _ | split   | simp [*])
                         clear_value x) | clear_value x)
    | (simp [*]; done)
    | intro _
    | split
    | simp [*]

@[simp] theorem Mach.recordBad_bg (d b : Nat) (e : BadEnd) (m : Mach) : (Mach.recordBad d b e m).adm.bg = m.adm.bg := by
  unfold Mach.recordBad
  try lift_lets
  repeat' first
    | (intro x; first | (have hx : x.adm.bg = m.adm.bg := by
                            simp only [x]
                            repeat' (first | (simp [*]; done) | intro _ | split | rw [Mach.each_bg] | simp [*])
                         clear_value x) | clear_value x)
    | (simp [*]; done)
    | intro _
    | split
    | rw [Mach.each_bg]
    | simp [*]

@[simp] theorem Mach.memberBad_bg (c : Chan) (f cause : Nat) (m : Mach) : (Mach.memberBad c f cause m).adm.bg = m.adm.bg := by
  unfold Mach.memberBad
  try lift_lets
  repeat' first
    | (intro x; first | (have hx : x.adm.bg = m.adm.bg := by
                            simp only [x]
                            repeat' (first | (simp [*]; done) | intro _ | split   | simp [*])
                         clear_value x) | clear_value x)
    | (simp [*]; done)
    | intro _
    | split
    | simp [*]

@[simp] theorem Mach.substitute_bg (f : Nat) (c : Chan) (m : Mach) : (Mach.substitute f c m).adm.bg = m.adm.bg := by
  unfold Mach.substitute
  try lift_lets
  repeat' first
    | (intro x; first | (have hx : x.adm.bg = m.adm.bg := by
                            simp only [x]
                            repeat' (first | (simp [*]; done) | intro _ | split   | simp [*])
                         clear_value x) | clear_value x)
    | (simp [*]; done)
    | intro _
    | split
    | simp [*]

@[simp] theorem Mach.makeFallow_bg (f : Nat) (m : Mach) : (Mach.makeFallow f m).adm.bg = m.adm.bg := by
  unfold Mach.makeFallow
  try lift_lets
  repeat' first
    | (intro x; first | (have hx : x.adm.bg = m.adm.bg := by
                            simp only [x]
                            repeat' (first | (simp [*]; done) | intro _ | split | rw [Mach.each_bg]  | simp [*])
                         clear_value x) | clear_value x)
    | (simp [*]; done)
    | intro _
    | split
    | rw [Mach.each_bg]
    | simp [*]

@[simp] theorem Mach.dropPoison_bg (p : Nat × Nat × Nat → Bool) (m : Mach) : (Mach.dropPoison p m).adm.bg = m.adm.bg := by
  simp [Mach.dropPoison]

@[simp] theorem Mach.frameCheck_bg (key : Nat) (m : Mach) : (Mach.frameCheck key m).adm.bg = m.adm.bg := by
  unfold Mach.frameCheck
  try lift_lets
  repeat' first
    | (intro x; first | (have hx : x.adm.bg = m.adm.bg := by
                            simp only [x]
                            repeat' (first | (simp [*]; done) | intro _ | split   | simp [*])
                         clear_value x) | clear_value x)
    | (simp [*]; done)
    | intro _
    | split
    | simp [*]

@[simp] theorem Mach.setLnt_bg (i : Nat) (x : LntEnt) (m : Mach) : (Mach.setLnt i x m).adm.bg = m.adm.bg := by
  simp [Mach.setLnt]

@[simp] theorem Mach.lntInstall_bg (key : Nat) (changed : Bool) (m : Mach) : (Mach.lntInstall key changed m).adm.bg = m.adm.bg := by
  unfold Mach.lntInstall
  try lift_lets
  repeat' first
    | (intro x; first | (have hx : x.adm.bg = m.adm.bg := by
                            simp only [x]
                            repeat' (first | (simp [*]; done) | intro _ | split | rw [Mach.each_bg] | simp [*])
                         clear_value x) | clear_value x)
    | (simp [*]; done)
    | intro _
    | split
    | rw [Mach.each_bg]
    | simp [*]

@[simp] theorem Mach.lntUpdate_bg (key : Nat) (changed : Bool) (m : Mach) : (Mach.lntUpdate key changed m).adm.bg = m.adm.bg := by
  unfold Mach.lntUpdate
  repeat' first
    | (simp [*]; done)
    | intro _
    | split
    | simp [*]

@[simp] theorem Mach.putDesc_bg (key : Nat) (d : Desc) (m : Mach) : (Mach.putDesc key d m).adm.bg = m.adm.bg := by
  simp [Mach.putDesc]

@[simp] theorem Mach.pendlCheck_bg (key mu : Nat) (m : Mach) : (Mach.pendlCheck key mu m).adm.bg = m.adm.bg := by
  unfold Mach.pendlCheck
  repeat' first
    | (simp [*]; done)
    | intro _
    | split
    | simp [*]

@[simp] theorem Mach.pendlRange_bg (v : Vid) (slba n : Nat) (m : Mach) : (Mach.pendlRange v slba n m).adm.bg = m.adm.bg := by
  unfold Mach.pendlRange
  repeat' first
    | (simp [*]; done)
    | intro _
    | split
    | rw [Mach.each_bg]
    | simp [*]

@[simp] theorem Mach.pendlOf_bg (s off : Nat) (m : Mach) : (Mach.pendlOf s off m).adm.bg = m.adm.bg := by
  unfold Mach.pendlOf
  try lift_lets
  repeat' first
    | (intro x; first | (have hx : x.adm.bg = m.adm.bg := by
                            simp only [x]
                            repeat' (first | (simp [*]; done) | intro _ | split | rw [Mach.each_bg] | simp [*])
                         clear_value x) | clear_value x)
    | (simp [*]; done)
    | intro _
    | split
    | rw [Mach.each_bg]
    | simp [*]

@[simp] theorem Mach.pendwCheck_bg (key mu : Nat) (m : Mach) : (Mach.pendwCheck key mu m).adm.bg = m.adm.bg := by
  unfold Mach.pendwCheck
  try lift_lets
  repeat' first
    | (intro x; first | (have hx : x.adm.bg = m.adm.bg := by
                            simp only [x]
                            repeat' (first | (simp [*]; done) | intro _ | split | rw [Mach.each_bg] | simp [*])
                         clear_value x) | clear_value x)
    | (simp [*]; done)
    | intro _
    | split
    | rw [Mach.each_bg]
    | simp [*]

@[simp] theorem Mach.wbClear_bg (s k p : Nat) (m : Mach) : (Mach.wbClear s k p m).adm.bg = m.adm.bg := by
  unfold Mach.wbClear
  try lift_lets
  repeat' first
    | (intro x; first | (have hx : x.adm.bg = m.adm.bg := by
                            simp only [x]
                            repeat' (first | (simp [*]; done) | intro _ | split | rw [Mach.each_bg] | simp [*])
                         clear_value x) | clear_value x)
    | (simp [*]; done)
    | intro _
    | split
    | rw [Mach.each_bg]
    | simp [*]

@[simp] theorem Mach.wbUndo_bg (s k p : Nat) (m : Mach) : (Mach.wbUndo s k p m).adm.bg = m.adm.bg := by
  unfold Mach.wbUndo
  try lift_lets
  repeat' first
    | (intro x; first | (have hx : x.adm.bg = m.adm.bg := by
                            simp only [x]
                            repeat' (first | (simp [*]; done) | intro _ | split | rw [Mach.each_bg] | simp [*])
                         clear_value x) | clear_value x)
    | (simp [*]; done)
    | intro _
    | split
    | rw [Mach.each_bg]
    | simp [*]

@[simp] theorem Mach.wbAbandon_bg (s : Nat) (m : Mach) : (Mach.wbAbandon s m).adm.bg = m.adm.bg := by
  unfold Mach.wbAbandon
  try lift_lets
  repeat' first
    | (intro x; first | (have hx : x.adm.bg = m.adm.bg := by
                            simp only [x]
                            repeat' (first | (simp [*]; done) | intro _ | split | rw [Mach.each_bg] | simp [*])
                         clear_value x) | clear_value x)
    | (simp [*]; done)
    | intro _
    | split
    | rw [Mach.each_bg]
    | simp [*]

@[simp] theorem Mach.cutWith_bg (s status dw2 dw3 : Nat) (m : Mach) : (Mach.cutWith s status dw2 dw3 m).adm.bg = m.adm.bg := by
  unfold Mach.cutWith
  try lift_lets
  repeat' first
    | (intro x; first | (have hx : x.adm.bg = m.adm.bg := by
                            simp only [x]
                            repeat' (first | (simp [*]; done) | intro _ | split | rw [Mach.each_bg] | simp [*])
                         clear_value x) | clear_value x)
    | (simp [*]; done)
    | intro _
    | split
    | rw [Mach.each_bg]
    | simp [*]

@[simp] theorem Mach.cutShort_bg (s status : Nat) (m : Mach) : (Mach.cutShort s status m).adm.bg = m.adm.bg := by
  unfold Mach.cutShort
  try lift_lets
  repeat' first
    | (intro x; first | (have hx : x.adm.bg = m.adm.bg := by
                            simp only [x]
                            repeat' (first | (simp [*]; done) | intro _ | split   | simp [*])
                         clear_value x) | clear_value x)
    | (simp [*]; done)
    | intro _
    | split
    | simp [*]

@[simp] theorem Mach.health_bg (f : Health → Health) (m : Mach) : (Mach.health f m).adm.bg = m.adm.bg := by
  simp [Mach.health]

@[simp] theorem Mach.queueOp_bg (c : Chan) (row : Row) (r : Req) (k : OpKind) (m : Mach) : (Mach.queueOp c row r k m).adm.bg = m.adm.bg := by
  unfold Mach.queueOp
  repeat' first
    | (simp [*]; done)
    | intro _
    | split
    | simp [*]

@[simp] theorem Mach.setTask_bg (t : RdTask) (m : Mach) : (Mach.setTask t m).adm.bg = m.adm.bg := by
  simp [Mach.setTask]

@[simp] theorem Mach.dropTask_bg (id : Nat) (m : Mach) : (Mach.dropTask id m).adm.bg = m.adm.bg := by
  unfold Mach.dropTask
  try lift_lets
  repeat' first
    | (intro x; first | (have hx : x.adm.bg = m.adm.bg := by
                            simp only [x]
                            repeat' (first | (simp [*]; done) | intro _ | split | rw [Mach.each_bg] | simp [*])
                         clear_value x) | clear_value x)
    | (simp [*]; done)
    | intro _
    | split
    | rw [Mach.each_bg]
    | simp [*]

@[simp] theorem Mach.readPeer_bg (t : RdTask) (p : Peer) (m : Mach) : (Mach.readPeer t p m).adm.bg = m.adm.bg := by
  unfold Mach.readPeer
  try lift_lets
  repeat' first
    | (intro x; first | (have hx : x.adm.bg = m.adm.bg := by
                            simp only [x]
                            repeat' (first | (simp [*]; done) | intro _ | split | rw [Mach.each_bg] | simp [*])
                         clear_value x) | clear_value x)
    | (simp [*]; done)
    | intro _
    | split
    | rw [Mach.each_bg]
    | simp [*]

@[simp] theorem Mach.beginStage4_bg (t : RdTask) (m : Mach) : (Mach.beginStage4 t m).adm.bg = m.adm.bg := by
  unfold Mach.beginStage4
  try lift_lets
  repeat' first
    | (intro x; first | (have hx : x.adm.bg = m.adm.bg := by
                            simp only [x]
                            repeat' (first | (simp [*]; done) | intro _ | split | rw [Mach.each_bg] | simp [*])
                         clear_value x) | clear_value x)
    | (simp [*]; done)
    | intro _
    | split
    | rw [Mach.each_bg]
    | simp [*]

@[simp] theorem Mach.peerEnded_bg (task : Nat) (r : PeerRole) (b : Option Body) (m : Mach) : (Mach.peerEnded task r b m).adm.bg = m.adm.bg := by
  unfold Mach.peerEnded
  try lift_lets
  repeat' first
    | (intro x; first | (have hx : x.adm.bg = m.adm.bg := by
                            simp only [x]
                            repeat' (first | (simp [*]; done) | intro _ | split | rw [Mach.each_bg] | simp [*])
                         clear_value x) | clear_value x)
    | (simp [*]; done)
    | intro _
    | split
    | rw [Mach.each_bg]
    | simp [*]

@[simp] theorem Mach.escalate_bg (t : RdTask) (m : Mach) : (Mach.escalate t m).adm.bg = m.adm.bg := by
  unfold Mach.escalate
  try lift_lets
  repeat' first
    | (intro x; first | (have hx : x.adm.bg = m.adm.bg := by
                            simp only [x]
                            repeat' (first | (simp [*]; done) | intro _ | split | rw [Mach.each_bg] | simp [*])
                         clear_value x) | clear_value x)
    | (simp [*]; done)
    | intro _
    | split
    | rw [Mach.each_bg]
    | simp [*]

@[simp] theorem Mach.startRead_bg (a : BitVec 40) (v : Vid) (lba : Nat) (r : Req) (w : RdFor) (m : Mach) : (Mach.startRead a v lba r w m).adm.bg = m.adm.bg := by
  unfold Mach.startRead
  try lift_lets
  repeat' first
    | (intro x; first | (have hx : x.adm.bg = m.adm.bg := by
                            simp only [x]
                            repeat' (first | (simp [*]; done) | intro _ | split | rw [Mach.each_bg] | simp [*])
                         clear_value x) | clear_value x)
    | (simp [*]; done)
    | intro _
    | split
    | rw [Mach.each_bg]
    | simp [*]

@[simp] theorem Mach.recoverSegment_bg (i : Nat) (m : Mach) : (Mach.recoverSegment i m).adm.bg = m.adm.bg := by
  unfold Mach.recoverSegment
  try lift_lets
  repeat' first
    | (intro x; first | (have hx : x.adm.bg = m.adm.bg := by
                            simp only [x]
                            repeat' (first | (simp [*]; done) | intro _ | split | rw [Mach.each_bg] | simp [*])
                         clear_value x) | clear_value x)
    | (simp [*]; done)
    | intro _
    | split
    | rw [Mach.each_bg]
    | simp [*]

@[simp] theorem Mach.badEntry_bg (v : Vid) (lba : Nat) (m : Mach) : (Mach.badEntry v lba m).adm.bg = m.adm.bg := by
  unfold Mach.badEntry
  try lift_lets
  repeat' first
    | (intro x; first | (have hx : x.adm.bg = m.adm.bg := by
                            simp only [x]
                            repeat' (first | (simp [*]; done) | intro _ | split | rw [Mach.each_bg] | simp [*])
                         clear_value x) | clear_value x)
    | (simp [*]; done)
    | intro _
    | split
    | rw [Mach.each_bg]
    | simp [*]

@[simp] theorem Mach.observeBuf_bg (m : Mach) : (Mach.observeBuf m).adm.bg = m.adm.bg := by
  simp [Mach.observeBuf]

@[simp] theorem Mach.setVer_bg (x : Ver) (m : Mach) : (Mach.setVer x m).adm.bg = m.adm.bg := by
  simp [Mach.setVer]

@[simp] theorem Mach.dropVers_bg (ids : List Nat) (m : Mach) : (Mach.dropVers ids m).adm.bg = m.adm.bg := by
  unfold Mach.dropVers
  try lift_lets
  repeat' first
    | (intro x; first | (have hx : x.adm.bg = m.adm.bg := by
                            simp only [x]
                            repeat' (first | (simp [*]; done) | intro _ | split | rw [Mach.each_bg] | simp [*])
                         clear_value x) | clear_value x)
    | (simp [*]; done)
    | intro _
    | split
    | rw [Mach.each_bg]
    | simp [*]

@[simp] theorem Mach.dropVer_bg (id : Nat) (m : Mach) : (Mach.dropVer id m).adm.bg = m.adm.bg := by
  simp [Mach.dropVer]

@[simp] theorem Mach.failCovers_bg (id : Nat) (m : Mach) : (Mach.failCovers id m).adm.bg = m.adm.bg := by
  unfold Mach.failCovers
  try lift_lets
  repeat' first
    | (intro x; first | (have hx : x.adm.bg = m.adm.bg := by
                            simp only [x]
                            repeat' (first | (simp [*]; done) | intro _ | split | rw [Mach.each_bg]  | simp [*])
                         clear_value x) | clear_value x)
    | (simp [*]; done)
    | intro _
    | split
    | rw [Mach.each_bg]
    | simp [*]

@[simp] theorem Mach.supersedeHeld_bg (x : Ver) (m : Mach) : (Mach.supersedeHeld x m).adm.bg = m.adm.bg := by
  unfold Mach.supersedeHeld
  try lift_lets
  repeat' first
    | (intro x; first | (have hx : x.adm.bg = m.adm.bg := by
                            simp only [x]
                            repeat' (first | (simp [*]; done) | intro _ | split | rw [Mach.each_bg] | simp [*])
                         clear_value x) | clear_value x)
    | (simp [*]; done)
    | intro _
    | split
    | rw [Mach.each_bg]
    | simp [*]

@[simp] theorem Mach.finishVer_bg (id : Nat) (m : Mach) : (Mach.finishVer id m).adm.bg = m.adm.bg := by
  unfold Mach.finishVer
  try lift_lets
  repeat' first
    | (intro x; first | (have hx : x.adm.bg = m.adm.bg := by
                            simp only [x]
                            repeat' (first | (simp [*]; done) | intro _ | split | rw [Mach.each_bg] | simp [*])
                         clear_value x) | clear_value x)
    | (simp [*]; done)
    | intro _
    | split
    | rw [Mach.each_bg]
    | simp [*]

@[simp] theorem Mach.fillLb_bg (id lb : Nat) (m : Mach) : (Mach.fillLb id lb m).adm.bg = m.adm.bg := by
  unfold Mach.fillLb
  dsimp only
  split
  · rfl
  · split
    · rfl
    · split
      · split <;> simp
      · generalize m.mapSrc _ _ = r
        cases r <;> simp

@[simp] theorem Mach.seal_bg (id : Nat) (m : Mach) : (Mach.seal id m).adm.bg = m.adm.bg := by
  unfold Mach.seal
  try lift_lets
  repeat' first
    | (intro x; first | (have hx : x.adm.bg = m.adm.bg := by
                            simp only [x]
                            repeat' (first | (simp [*]; done) | intro _ | split | rw [Mach.each_bg] | simp [*])
                         clear_value x) | clear_value x)
    | (simp [*]; done)
    | intro _
    | split
    | rw [Mach.each_bg]
    | simp [*]

@[simp] theorem Mach.setEntry_bg (i : Nat) (e : BitVec 40) (m : Mach) : (Mach.setEntry i e m).adm.bg = m.adm.bg := by
  unfold Mach.setEntry
  try lift_lets
  repeat' first
    | (intro x; first | (have hx : x.adm.bg = m.adm.bg := by
                            simp only [x]
                            repeat' (first | (simp [*]; done) | intro _ | split | rw [Mach.each_bg]  | simp [*])
                         clear_value x) | clear_value x)
    | (simp [*]; done)
    | intro _
    | split
    | rw [Mach.each_bg]
    | simp [*]

@[simp] theorem Mach.installAt_bg (i wsn : Nat) (e : BitVec 40) (ver : Option Nat) (m : Mach) : (Mach.installAt i wsn e ver m).adm.bg = m.adm.bg := by
  unfold Mach.installAt
  try lift_lets
  repeat' first
    | (intro x; first | (have hx : x.adm.bg = m.adm.bg := by
                            simp only [x]
                            repeat' (first | (simp [*]; done) | intro _ | split | rw [Mach.each_bg] | simp [*])
                         clear_value x) | clear_value x)
    | (simp [*]; done)
    | intro _
    | split
    | rw [Mach.each_bg]
    | simp [*]

@[simp] theorem Mach.install_bg (v : Vid) (mu wsn : Nat) (e : BitVec 40) (ver : Option Nat) (m : Mach) : (Mach.install v mu wsn e ver m).adm.bg = m.adm.bg := by
  unfold Mach.install
  try lift_lets
  repeat' first
    | (intro x; first | (have hx : x.adm.bg = m.adm.bg := by
                            simp only [x]
                            repeat' (first | (simp [*]; done) | intro _ | split | rw [Mach.each_bg] | simp [*])
                         clear_value x) | clear_value x)
    | (simp [*]; done)
    | intro _
    | split
    | rw [Mach.each_bg]
    | simp [*]

@[simp] theorem Mach.unstage_bg (which : Copy → Bool) (m : Mach) : (Mach.unstage which m).adm.bg = m.adm.bg := by
  unfold Mach.unstage
  try lift_lets
  repeat' first
    | (intro x; first | (have hx : x.adm.bg = m.adm.bg := by
                            simp only [x]
                            repeat' (first | (simp [*]; done) | intro _ | split | rw [Mach.each_bg] | simp [*])
                         clear_value x) | clear_value x)
    | (simp [*]; done)
    | intro _
    | split
    | rw [Mach.each_bg]
    | simp [*]

@[simp] theorem Mach.askProvpar_bg (fsn page : Nat) (m : Mach) : (Mach.askProvpar fsn page m).adm.bg = m.adm.bg := by
  unfold Mach.askProvpar
  try lift_lets
  repeat' first
    | (intro x; first | (have hx : x.adm.bg = m.adm.bg := by
                            simp only [x]
                            repeat' (first | (simp [*]; done) | intro _ | split   | simp [*])
                         clear_value x) | clear_value x)
    | (simp [*]; done)
    | intro _
    | split
    | simp [*]

@[simp] theorem Mach.stripeSafe_bg (fsn page : Nat) (mask : Word) (m : Mach) : (Mach.stripeSafe fsn page mask m).adm.bg = m.adm.bg := by
  unfold Mach.stripeSafe
  try lift_lets
  repeat' first
    | (intro x; first | (have hx : x.adm.bg = m.adm.bg := by
                            simp only [x]
                            repeat' (first | (simp [*]; done) | intro _ | split   | simp [*])
                         clear_value x) | clear_value x)
    | (simp [*]; done)
    | intro _
    | split
    | simp [*]

@[simp] theorem Mach.sendLb_bg (c : Cmd) (off : Nat) (d : Block) (m : Mach) : (Mach.sendLb c off d m).adm.bg = m.adm.bg := by
  unfold Mach.sendLb
  split
  · rfl
  · rename_i p _
    have h : ∀ (r : Bool) (l : List (Nat × Nat)) (a : Mach × Nat), (l.foldl (fun (a : Mach × Nat) x =>
        (a.1.send (.hostData p x.1 x.2 (d >>> (8 * a.2)) r), a.2 + x.2)) a).1.adm.bg = a.1.adm.bg := by
      intro r l
      induction l with
      | nil => intro a; rfl
      | cons b l ih => intro a; rw [List.foldl_cons, ih]; simp
    rw [h]

@[simp] theorem Mach.readDone_bg (s : Nat) (m : Mach) : (Mach.readDone s m).adm.bg = m.adm.bg := by
  unfold Mach.readDone
  try lift_lets
  repeat' first
    | (intro x; first | (have hx : x.adm.bg = m.adm.bg := by
                            simp only [x]
                            repeat' (first | (simp [*]; done) | intro _ | split   | simp [*])
                         clear_value x) | clear_value x)
    | (simp [*]; done)
    | intro _
    | split
    | simp [*]

@[simp] theorem Mach.readLb_bg (s off status : Nat) (d : Block) (rebuilt : Bool) (m : Mach) : (Mach.readLb s off status d rebuilt m).adm.bg = m.adm.bg := by
  unfold Mach.readLb
  try lift_lets
  repeat' first
    | (intro x; first | (have hx : x.adm.bg = m.adm.bg := by
                            simp only [x]
                            repeat' (first | (simp [*]; done) | intro _ | split   | simp [*])
                         clear_value x) | clear_value x)
    | (simp [*]; done)
    | intro _
    | split
    | simp [*]

@[simp] theorem Mach.lightDone_bg (s : Nat) (m : Mach) : (Mach.lightDone s m).adm.bg = m.adm.bg := by
  unfold Mach.lightDone
  try lift_lets
  repeat' first
    | (intro x; first | (have hx : x.adm.bg = m.adm.bg := by
                            simp only [x]
                            repeat' (first | (simp [*]; done) | intro _ | split | rw [Mach.each_bg]  | simp [*])
                         clear_value x) | clear_value x)
    | (simp [*]; done)
    | intro _
    | split
    | rw [Mach.each_bg]
    | simp [*]

@[simp] theorem Mach.lightFail_bg (s off status : Nat) (m : Mach) : (Mach.lightFail s off status m).adm.bg = m.adm.bg := by
  simp [Mach.lightFail]

@[simp] theorem Mach.addFill_bg (task s off : Nat) (d : Block) (m : Mach) : (Mach.addFill task s off d m).adm.bg = m.adm.bg := by
  simp [Mach.addFill]

@[simp] theorem Mach.setRs_bg (v : Vid) (x : Resync) (m : Mach) : (Mach.setRs v x m).adm.bg = m.adm.bg := by
  simp [Mach.setRs]

@[simp] theorem Mach.pieceLb_bg (s off status : Nat) (d : Block) (m : Mach) : (Mach.pieceLb s off status d m).adm.bg = m.adm.bg := by
  unfold Mach.pieceLb
  try lift_lets
  repeat' first
    | (intro x; first | (have hx : x.adm.bg = m.adm.bg := by
                            simp only [x]
                            repeat' (first | (simp [*]; done) | intro _ | split   | simp [*])
                         clear_value x) | clear_value x)
    | (simp [*]; done)
    | intro _
    | split
    | simp [*]

@[simp] theorem Mach.sendRun_bg (v : Vid) (slba : Nat) (data : SMap Block) (run : Nat × Nat) (m : Mach) :
    (Mach.sendRun v slba data run m).adm.bg = m.adm.bg := by
  unfold Mach.sendRun
  dsimp only
  rw [Mach.each_bg]
  · simp
  · intro k m; simp

@[simp] theorem Mach.sendHole_bg (v : Vid) (slba mu : Nat) (m : Mach) : (Mach.sendHole v slba mu m).adm.bg = m.adm.bg := by
  simp [Mach.sendHole]

@[simp] theorem Mach.pieceSend_bg (s : Nat) (m : Mach) : (Mach.pieceSend s m).adm.bg = m.adm.bg := by
  unfold Mach.pieceSend
  try lift_lets
  repeat' first
    | (intro x; first | (have hx : x.adm.bg = m.adm.bg := by
                            simp only [x]
                            repeat' (first | (simp [*]; done) | intro _ | split | rw [Mach.each_bg]  | simp [*])
                         clear_value x) | clear_value x)
    | (simp [*]; done)
    | intro _
    | split
    | rw [Mach.each_bg]
    | simp [*]

@[simp] theorem Mach.pieceDone_bg (s : Nat) (m : Mach) : (Mach.pieceDone s m).adm.bg = m.adm.bg := by
  unfold Mach.pieceDone
  try lift_lets
  repeat' first
    | (intro x; first | (have hx : x.adm.bg = m.adm.bg := by
                            simp only [x]
                            repeat' (first | (simp [*]; done) | intro _ | split   | simp [*])
                         clear_value x) | clear_value x)
    | (simp [*]; done)
    | intro _
    | split
    | simp [*]

@[simp] theorem Mach.rmwLb_bg (id lb status : Nat) (d : Block) (m : Mach) : (Mach.rmwLb id lb status d m).adm.bg = m.adm.bg := by
  unfold Mach.rmwLb
  try lift_lets
  repeat' first
    | (intro x; first | (have hx : x.adm.bg = m.adm.bg := by
                            simp only [x]
                            repeat' (first | (simp [*]; done) | intro _ | split   | simp [*])
                         clear_value x) | clear_value x)
    | (simp [*]; done)
    | intro _
    | split
    | simp [*]

@[simp] theorem Mach.deliver_bg (task status : Nat) (d : Block) (rebuilt : Bool) (w : RdFor) (m : Mach) : (Mach.deliver task status d rebuilt w m).adm.bg = m.adm.bg := by
  unfold Mach.deliver
  repeat' first
    | (simp [*]; done)
    | intro _
    | split
    | simp [*]

@[simp] theorem Mach.readEnds_bg (a : BitVec 40) (status stage n : Nat) (m : Mach) : (Mach.readEnds a status stage n m).adm.bg = m.adm.bg := by
  unfold Mach.readEnds
  try lift_lets
  repeat' first
    | (intro x; first | (have hx : x.adm.bg = m.adm.bg := by
                            simp only [x]
                            repeat' (first | (simp [*]; done) | intro _ | split | rw [Mach.each_bg] | simp [*])
                         clear_value x) | clear_value x)
    | (simp [*]; done)
    | intro _
    | split
    | rw [Mach.each_bg]
    | simp [*]

@[simp] theorem Mach.endTask_bg (t : RdTask) (status : Nat) (m : Mach) : (Mach.endTask t status m).adm.bg = m.adm.bg := by
  unfold Mach.endTask
  try lift_lets
  repeat' first
    | (intro x; first | (have hx : x.adm.bg = m.adm.bg := by
                            simp only [x]
                            repeat' (first | (simp [*]; done) | intro _ | split | rw [Mach.each_bg]  | simp [*])
                         clear_value x) | clear_value x)
    | (simp [*]; done)
    | intro _
    | split
    | rw [Mach.each_bg]
    | simp [*]

@[simp] theorem Mach.flagRefresh_bg (f : Nat) (m : Mach) : (Mach.flagRefresh f m).adm.bg = m.adm.bg := by
  unfold Mach.flagRefresh
  try lift_lets
  repeat' first
    | (intro x; first | (have hx : x.adm.bg = m.adm.bg := by
                            simp only [x]
                            repeat' (first | (simp [*]; done) | intro _ | split   | simp [*])
                         clear_value x) | clear_value x)
    | (simp [*]; done)
    | intro _
    | split
    | simp [*]

@[simp] theorem Mach.stage4Fails_bg (t : RdTask) (m : Mach) : (Mach.stage4Fails t m).adm.bg = m.adm.bg := by
  simp [Mach.stage4Fails]

@[simp] theorem Mach.decrypted_bg (enc : Bool) (m : Mach) : (Mach.decrypted enc m).adm.bg = m.adm.bg := by
  unfold Mach.decrypted
  try lift_lets
  repeat' first
    | (intro x; first | (have hx : x.adm.bg = m.adm.bg := by
                            simp only [x]
                            repeat' (first | (simp [*]; done) | intro _ | split | rw [Mach.each_bg] | simp [*])
                         clear_value x) | clear_value x)
    | (simp [*]; done)
    | intro _
    | split
    | rw [Mach.each_bg]
    | simp [*]

@[simp] theorem Mach.checkCw_bg (t : RdTask) (k : CwCheck) (m : Mach) : (Mach.checkCw t k m).adm.bg = m.adm.bg := by
  unfold Mach.checkCw
  try lift_lets
  repeat' first
    | (intro x; first | (have hx : x.adm.bg = m.adm.bg := by
                            simp only [x]
                            repeat' (first | (simp [*]; done) | intro _ | split   | simp [*])
                         clear_value x) | clear_value x)
    | (simp [*]; done)
    | intro _
    | split
    | simp [*]

@[simp] theorem Mach.checkPeer_bg (t : RdTask) (task : Nat) (r : PeerRole) (k : CwCheck) (m : Mach) : (Mach.checkPeer t task r k m).adm.bg = m.adm.bg := by
  unfold Mach.checkPeer
  try lift_lets
  repeat' first
    | (intro x; first | (have hx : x.adm.bg = m.adm.bg := by
                            simp only [x]
                            repeat' (first | (simp [*]; done) | intro _ | split | rw [Mach.each_bg] | simp [*])
                         clear_value x) | clear_value x)
    | (simp [*]; done)
    | intro _
    | split
    | rw [Mach.each_bg]
    | simp [*]

@[simp] theorem Mach.decoded_bg (t : RdTask) (k : CwCheck) (m : Mach) : (Mach.decoded t k m).adm.bg = m.adm.bg := by
  unfold Mach.decoded
  try lift_lets
  repeat' first
    | (intro x; first | (have hx : x.adm.bg = m.adm.bg := by
                            simp only [x]
                            repeat' (first | (simp [*]; done) | intro _ | split | rw [Mach.each_bg] | simp [*])
                         clear_value x) | clear_value x)
    | (simp [*]; done)
    | intro _
    | split
    | rw [Mach.each_bg]
    | simp [*]

@[simp] theorem Mach.hardCounts_bg (a : BitVec 40) (d : HardDecode) (m : Mach) : (Mach.hardCounts a d m).adm.bg = m.adm.bg := by
  unfold Mach.hardCounts
  try lift_lets
  repeat' first
    | (intro x; first | (have hx : x.adm.bg = m.adm.bg := by
                            simp only [x]
                            repeat' (first | (simp [*]; done) | intro _ | split | rw [Mach.each_bg] | simp [*])
                         clear_value x) | clear_value x)
    | (simp [*]; done)
    | intro _
    | split
    | rw [Mach.each_bg]
    | simp [*]

@[simp] theorem Mach.beginSoft_bg (t : RdTask) (m : Mach) : (Mach.beginSoft t m).adm.bg = m.adm.bg := by
  unfold Mach.beginSoft
  try lift_lets
  repeat' first
    | (intro x; first | (have hx : x.adm.bg = m.adm.bg := by
                            simp only [x]
                            repeat' (first | (simp [*]; done) | intro _ | split | rw [Mach.each_bg] | simp [*])
                         clear_value x) | clear_value x)
    | (simp [*]; done)
    | intro _
    | split
    | rw [Mach.each_bg]
    | simp [*]

@[simp] theorem Mach.hardDone_bg (t : RdTask) (d : HardDecode) (k : CwCheck) (m : Mach) : (Mach.hardDone t d k m).adm.bg = m.adm.bg := by
  unfold Mach.hardDone
  try lift_lets
  repeat' first
    | (intro x; first | (have hx : x.adm.bg = m.adm.bg := by
                            simp only [x]
                            repeat' (first | (simp [*]; done) | intro _ | split   | simp [*])
                         clear_value x) | clear_value x)
    | (simp [*]; done)
    | intro _
    | split
    | simp [*]

@[simp] theorem Mach.hardFailed_bg (t : RdTask) (m : Mach) : (Mach.hardFailed t m).adm.bg = m.adm.bg := by
  simp [Mach.hardFailed]

@[simp] theorem Mach.memEnd_bg (p : Port) (m : Mach) : (Mach.memEnd p m).adm.bg = m.adm.bg := by
  unfold Mach.memEnd
  try lift_lets
  repeat' first
    | (intro x; first | (have hx : x.adm.bg = m.adm.bg := by
                            simp only [x]
                            repeat' (first | (simp [*]; done) | intro _ | split | rw [Mach.each_bg] | simp [*])
                         clear_value x) | clear_value x)
    | (simp [*]; done)
    | intro _
    | split
    | rw [Mach.each_bg]
    | simp [*]

@[simp] theorem Mach.poisonOut_bg (p : Port) (m : Mach) : (Mach.poisonOut p m).adm.bg = m.adm.bg := by
  unfold Mach.poisonOut
  try lift_lets
  repeat' first
    | (intro x; first | (have hx : x.adm.bg = m.adm.bg := by
                            simp only [x]
                            repeat' (first | (simp [*]; done) | intro _ | split | rw [Mach.each_bg] | simp [*])
                         clear_value x) | clear_value x)
    | (simp [*]; done)
    | intro _
    | split
    | rw [Mach.each_bg]
    | simp [*]

@[simp] theorem Mach.writeAck_bg (p : Port) (m : Mach) : (Mach.writeAck p m).adm.bg = m.adm.bg := by
  unfold Mach.writeAck
  try lift_lets
  repeat' first
    | (intro x; first | (have hx : x.adm.bg = m.adm.bg := by
                            simp only [x]
                            repeat' (first | (simp [*]; done) | intro _ | split | rw [Mach.each_bg] | simp [*])
                         clear_value x) | clear_value x)
    | (simp [*]; done)
    | intro _
    | split
    | rw [Mach.each_bg]
    | simp [*]

@[simp] theorem Mach.writeDone_bg (p : Port) (mute : Bool) (m : Mach) : (Mach.writeDone p mute m).adm.bg = m.adm.bg := by
  unfold Mach.writeDone
  try lift_lets
  repeat' first
    | (intro x; first | (have hx : x.adm.bg = m.adm.bg := by
                            simp only [x]
                            repeat' (first | (simp [*]; done) | intro _ | split | rw [Mach.each_bg] | simp [*])
                         clear_value x) | clear_value x)
    | (simp [*]; done)
    | intro _
    | split
    | rw [Mach.each_bg]
    | simp [*]

@[simp] theorem Mach.memMiss_bg (r : LampReq) (m : Mach) : (Mach.memMiss r m).adm.bg = m.adm.bg := by
  unfold Mach.memMiss
  try lift_lets
  repeat' first
    | (intro x; first | (have hx : x.adm.bg = m.adm.bg := by
                            simp only [x]
                            repeat' (first | (simp [*]; done) | intro _ | split | rw [Mach.each_bg] | simp [*])
                         clear_value x) | clear_value x)
    | (simp [*]; done)
    | intro _
    | split
    | rw [Mach.each_bg]
    | simp [*]

@[simp] theorem Mach.muteReqs_bg (p : Port) (m : Mach) : (Mach.muteReqs p m).adm.bg = m.adm.bg := by
  unfold Mach.muteReqs
  try lift_lets
  repeat' first
    | (intro x; first | (have hx : x.adm.bg = m.adm.bg := by
                            simp only [x]
                            repeat' (first | (simp [*]; done) | intro _ | split | rw [Mach.each_bg] | simp [*])
                         clear_value x) | clear_value x)
    | (simp [*]; done)
    | intro _
    | split
    | rw [Mach.each_bg]
    | simp [*]

@[simp] theorem Mach.setDev_bg (st : DevSt) (m : Mach) : (Mach.setDev st m).adm.bg = m.adm.bg := by
  unfold Mach.setDev
  repeat' first
    | (simp [*]; done)
    | intro _
    | split
    | simp [*]

@[simp] theorem Mach.settleDev_bg (m : Mach) : (Mach.settleDev m).adm.bg = m.adm.bg := by
  unfold Mach.settleDev
  repeat' first
    | (simp [*]; done)
    | intro _
    | split
    | simp [*]

@[simp] theorem Mach.failCommands_bg (m : Mach) : (Mach.failCommands m).adm.bg = m.adm.bg := by
  unfold Mach.failCommands
  try lift_lets
  repeat' first
    | (intro x; first | (have hx : x.adm.bg = m.adm.bg := by
                            simp only [x]
                            repeat' (first | (simp [*]; done) | intro _ | split | rw [Mach.each_bg]  | simp [*])
                         clear_value x) | clear_value x)
    | (simp [*]; done)
    | intro _
    | split
    | rw [Mach.each_bg]
    | simp [*]

@[simp] theorem Mach.dropHeld_bg (m : Mach) : (Mach.dropHeld m).adm.bg = m.adm.bg := by
  unfold Mach.dropHeld
  try lift_lets
  repeat' first
    | (intro x; first | (have hx : x.adm.bg = m.adm.bg := by
                            simp only [x]
                            repeat' (first | (simp [*]; done) | intro _ | split | rw [Mach.each_bg] | simp [*])
                         clear_value x) | clear_value x)
    | (simp [*]; done)
    | intro _
    | split
    | rw [Mach.each_bg]
    | simp [*]

@[simp] theorem Mach.fail_bg (cause : Nat) (m : Mach) : (Mach.fail cause m).adm.bg = m.adm.bg := by
  unfold Mach.fail
  try lift_lets
  repeat' first
    | (intro x; first | (have hx : x.adm.bg = m.adm.bg := by
                            simp only [x]
                            repeat' (first | (simp [*]; done) | intro _ | split | rw [Mach.each_bg]  | simp [*])
                         clear_value x) | clear_value x)
    | (simp [*]; done)
    | intro _
    | split
    | rw [Mach.each_bg]
    | simp [*]

@[simp] theorem Mach.chanCheck_bg (m : Mach) : (Mach.chanCheck m).adm.bg = m.adm.bg := by
  unfold Mach.chanCheck
  repeat' first
    | (simp [*]; done)
    | intro _
    | split
    | simp [*]

@[simp] theorem Mach.answer_bg (p : Port) (status : Nat) (badLen bg : Bool) (payload : List Byte) (m : Mach) : (Mach.answer p status badLen bg payload m).adm.bg = m.adm.bg := by
  simp [Mach.answer]

@[simp] theorem Mach.ok_bg (p : Port) (payload : List Byte) (m : Mach) : (Mach.ok p payload m).adm.bg = m.adm.bg := by
  simp [Mach.ok]

@[simp] theorem Mach.refuse_bg (p : Port) (status : Nat) (m : Mach) : (Mach.refuse p status m).adm.bg = m.adm.bg := by
  simp [Mach.refuse]

@[simp] theorem Mach.orphanEnd_bg (opcode status : Nat) (m : Mach) : (Mach.orphanEnd opcode status m).adm.bg = m.adm.bg := by
  unfold Mach.orphanEnd
  try lift_lets
  repeat' first
    | (intro x; first | (have hx : x.adm.bg = m.adm.bg := by
                            simp only [x]
                            repeat' (first | (simp [*]; done) | intro _ | split | rw [Mach.each_bg] | simp [*])
                         clear_value x) | clear_value x)
    | (simp [*]; done)
    | intro _
    | split
    | rw [Mach.each_bg]
    | simp [*]

@[simp] theorem Mach.takeFsn_bg (m : Mach) : (Mach.takeFsn m).1.adm.bg = m.adm.bg := by
  simp [Mach.takeFsn]

@[simp] theorem Mach.queuePage_bg (pos : Fin 8) (o : OpenF) (c : Chan) (items : List PlaneItem) (cws : List Cw) (parity : Bool) (m : Mach) : (Mach.queuePage pos o c items cws parity m).adm.bg = m.adm.bg := by
  unfold Mach.queuePage
  try lift_lets
  repeat' first
    | (intro x; first | (have hx : x.adm.bg = m.adm.bg := by
                            simp only [x]
                            repeat' (first | (simp [*]; done) | intro _ | split   | simp [*])
                         clear_value x) | clear_value x)
    | (simp [*]; done)
    | intro _
    | split
    | simp [*]

@[simp] theorem Mach.closeAt_bg (pos : Fin 8) (m : Mach) : (Mach.closeAt pos m).adm.bg = m.adm.bg := by
  unfold Mach.closeAt
  repeat' first
    | (simp [*]; done)
    | intro _
    | split
    | simp [*]

@[simp] theorem Mach.stripeEnd_bg (pos : Fin 8) (o : OpenF) (m : Mach) : (Mach.stripeEnd pos o m).adm.bg = m.adm.bg := by
  unfold Mach.stripeEnd
  try lift_lets
  repeat' first
    | (intro x; first | (have hx : x.adm.bg = m.adm.bg := by
                            simp only [x]
                            repeat' (first | (simp [*]; done) | intro _ | split   | simp [*])
                         clear_value x) | clear_value x)
    | (simp [*]; done)
    | intro _
    | split
    | simp [*]

@[simp] theorem Mach.stripeStep_bg (pos : Fin 8) (m : Mach) : (Mach.stripeStep pos m).adm.bg = m.adm.bg := by
  unfold Mach.stripeStep
  try lift_lets
  repeat' first
    | (intro x; first | (have hx : x.adm.bg = m.adm.bg := by
                            simp only [x]
                            repeat' (first | (simp [*]; done) | intro _ | split | rw [Mach.each_bg]  | simp [*])
                         clear_value x) | clear_value x)
    | (simp [*]; done)
    | intro _
    | split
    | rw [Mach.each_bg]
    | simp [*]

@[simp] theorem Mach.parityEnded_bg (pg : PagePgm) (bad : Bool) (m : Mach) : (Mach.parityEnded pg bad m).adm.bg = m.adm.bg := by
  unfold Mach.parityEnded
  try lift_lets
  repeat' first
    | (intro x; first | (have hx : x.adm.bg = m.adm.bg := by
                            simp only [x]
                            repeat' (first | (simp [*]; done) | intro _ | split   | simp [*])
                         clear_value x) | clear_value x)
    | (simp [*]; done)
    | intro _
    | split
    | simp [*]

@[simp] theorem Mach.putCws_bg (a : BitVec 40) (cws : List Cw) (m : Mach) : (Mach.putCws a cws m).adm.bg = m.adm.bg := by
  simp [Mach.putCws]

@[simp] theorem Mach.placeVersion_bg (id : Nat) (a : BitVec 40) (m : Mach) : (Mach.placeVersion id a m).adm.bg = m.adm.bg := by
  unfold Mach.placeVersion
  repeat' first
    | (simp [*]; done)
    | intro _
    | split
    | simp [*]

@[simp] theorem Mach.casCopy_bg (i : Nat) (src a : BitVec 40) (m : Mach) : (Mach.casCopy i src a m).adm.bg = m.adm.bg := by
  unfold Mach.casCopy
  repeat' first
    | (simp [*]; done)
    | intro _
    | split
    | simp [*]

@[simp] theorem Mach.placeCopy_bg (id : Nat) (a : BitVec 40) (m : Mach) : (Mach.placeCopy id a m).adm.bg = m.adm.bg := by
  unfold Mach.placeCopy
  try lift_lets
  repeat' first
    | (intro x; first | (have hx : x.adm.bg = m.adm.bg := by
                            simp only [x]
                            repeat' (first | (simp [*]; done) | intro _ | split   | simp [*])
                         clear_value x) | clear_value x)
    | (simp [*]; done)
    | intro _
    | split
    | simp [*]

@[simp] theorem Mach.confirmCovers_bg (id fsn page : Nat) (ch : Chan) (m : Mach) : (Mach.confirmCovers id fsn page ch m).adm.bg = m.adm.bg := by
  unfold Mach.confirmCovers
  try lift_lets
  repeat' first
    | (intro x; first | (have hx : x.adm.bg = m.adm.bg := by
                            simp only [x]
                            repeat' (first | (simp [*]; done) | intro _ | split   | simp [*])
                         clear_value x) | clear_value x)
    | (simp [*]; done)
    | intro _
    | split
    | simp [*]

@[simp] theorem Mach.storePage_bg (pg : PagePgm) (m : Mach) : (Mach.storePage pg m).adm.bg = m.adm.bg := by
  unfold Mach.storePage
  try lift_lets
  repeat' first
    | (intro x; first | (have hx : x.adm.bg = m.adm.bg := by
                            simp only [x]
                            repeat' (first | (simp [*]; done) | intro _ | split | rw [Mach.each_bg] | simp [*])
                         clear_value x) | clear_value x)
    | (simp [*]; done)
    | intro _
    | split
    | rw [Mach.each_bg]
    | simp [*]

@[simp] theorem Mach.pageConfirmed_bg (pg : PagePgm) (m : Mach) : (Mach.pageConfirmed pg m).adm.bg = m.adm.bg := by
  unfold Mach.pageConfirmed
  try lift_lets
  repeat' first
    | (intro x; first | (have hx : x.adm.bg = m.adm.bg := by
                            simp only [x]
                            repeat' (first | (simp [*]; done) | intro _ | split | rw [Mach.each_bg]  | simp [*])
                         clear_value x) | clear_value x)
    | (simp [*]; done)
    | intro _
    | split
    | rw [Mach.each_bg]
    | simp [*]

@[simp] theorem Mach.itemsBack_bg (items : List PlaneItem) (m : Mach) : (Mach.itemsBack items m).adm.bg = m.adm.bg := by
  unfold Mach.itemsBack
  repeat' first
    | (simp [*]; done)
    | intro _
    | split
    | rw [Mach.each_bg]
    | simp [*]

@[simp] theorem Mach.pageFailed_bg (pg : PagePgm) (cause : Option Nat) (m : Mach) : (Mach.pageFailed pg cause m).adm.bg = m.adm.bg := by
  unfold Mach.pageFailed
  try lift_lets
  repeat' first
    | (intro x; first | (have hx : x.adm.bg = m.adm.bg := by
                            simp only [x]
                            repeat' (first | (simp [*]; done) | intro _ | split | rw [Mach.each_bg]  | simp [*])
                         clear_value x) | clear_value x)
    | (simp [*]; done)
    | intro _
    | split
    | rw [Mach.each_bg]
    | simp [*]

@[simp] theorem Mach.casPoison_bg (i : Nat) (src : BitVec 40) (v : Vid) (mu wsn : Nat) (m : Mach) : (Mach.casPoison i src v mu wsn m).adm.bg = m.adm.bg := by
  unfold Mach.casPoison
  try lift_lets
  repeat' first
    | (intro x; first | (have hx : x.adm.bg = m.adm.bg := by
                            simp only [x]
                            repeat' (first | (simp [*]; done) | intro _ | split   | simp [*])
                         clear_value x) | clear_value x)
    | (simp [*]; done)
    | intro _
    | split
    | simp [*]

@[simp] theorem Mach.residual_bg (low : Bool) (m : Mach) : (Mach.residual low m).adm.bg = m.adm.bg := by
  unfold Mach.residual
  try lift_lets
  repeat' first
    | (intro x; first | (have hx : x.adm.bg = m.adm.bg := by
                            simp only [x]
                            repeat' (first | (simp [*]; done) | intro _ | split | rw [Mach.each_bg]  | simp [*])
                         clear_value x) | clear_value x)
    | (simp [*]; done)
    | intro _
    | split
    | rw [Mach.each_bg]
    | simp [*]

@[simp] theorem Mach.wipeBlock_bg (d b : Nat) (m : Mach) : (Mach.wipeBlock d b m).adm.bg = m.adm.bg := by
  simp [Mach.wipeBlock]

@[simp] theorem Mach.setHfur_bg (k : Nat) (x : HFur) (m : Mach) : (Mach.setHfur k x m).adm.bg = m.adm.bg := by
  simp [Mach.setHfur]

theorem Mach.hdlOpen_bg  {m u : Mach} (h : m.hdlOpen = some u) : u.adm.bg = m.adm.bg := by
  unfold Mach.hdlOpen at h
  cases hn : m.hdlNext with
  | none => simp [hn] at h
  | some k =>
    simp only [hn, Option.map_some, Option.some.injEq] at h
    subst h
    split <;> simp

@[simp] theorem Mach.hdlClose_bg (m : Mach) : (Mach.hdlClose m).adm.bg = m.adm.bg := by
  unfold Mach.hdlClose
  repeat' first
    | (simp [*]; done)
    | intro _
    | split
    | simp [*]

theorem Mach.hdlRoom_bg (fuel n : Nat) {m : Mach} {r : Mach × List Nat} (h : m.hdlRoom fuel n = some r) : r.1.adm.bg = m.adm.bg := by
  induction fuel generalizing n m r with
  | zero => simp [Mach.hdlRoom] at h
  | succ f ih =>
    unfold Mach.hdlRoom at h
    split at h
    · split at h
      · cases h
      · rename_i u hu
        rw [ih _ h, Mach.hdlOpen_bg  hu]
    · dsimp only at h
      split at h
      · cases h; simp
      · split at h
        · rw [ih _ h]; simp
        · simp only [Option.map_eq_some_iff] at h
          obtain ⟨a, ha, rfl⟩ := h
          dsimp only
          rw [ih _ ha]; simp

theorem Mach.append_bg (id : Nat) (b : HBody) {m u : Mach} (h : m.append id b = some u) : u.adm.bg = m.adm.bg := by
  unfold Mach.append at h
  simp only [Option.map_eq_some_iff] at h
  obtain ⟨r, hr, rfl⟩ := h
  rw [Mach.queueOp_bg]
  simp [Mach.hdlRoom_bg  _ _ hr]

@[simp] theorem Mach.replaceRec_bg (r : HRec) (m : Mach) : (Mach.replaceRec r m).adm.bg = m.adm.bg := by
  unfold Mach.replaceRec
  split
  · simp
  · rename_i u furs hu
    have := Mach.hdlRoom_bg  _ _ hu
    simp at this
    simp [this]

@[simp] theorem Mach.hdlFailed_bg (id : Nat) (c : Chan) (cause : Nat) (m : Mach) : (Mach.hdlFailed id c cause m).adm.bg = m.adm.bg := by
  unfold Mach.hdlFailed
  try lift_lets
  repeat' first
    | (intro x; first | (have hx : x.adm.bg = m.adm.bg := by
                            simp only [x]
                            repeat' (first | (simp [*]; done) | intro _ | split   | simp [*])
                         clear_value x) | clear_value x)
    | (simp [*]; done)
    | intro _
    | split
    | simp [*]

@[simp] theorem Mach.hdlPassed_bg (id : Nat) (m : Mach) : (Mach.hdlPassed id m).adm.bg = m.adm.bg := by
  simp [Mach.hdlPassed]

@[simp] theorem Mach.setOp_bg (o : Op) (m : Mach) : (Mach.setOp o m).adm.bg = m.adm.bg := by
  simp [Mach.setOp]

@[simp] theorem Mach.dropOp_bg (id : Nat) (m : Mach) : (Mach.dropOp id m).adm.bg = m.adm.bg := by
  simp [Mach.dropOp]

@[simp] theorem Mach.svcStatus_bg (d : Nat) (a : Agent) (code opc : Nat) (m : Mach) : (Mach.svcStatus d a code opc m).adm.bg = m.adm.bg := by
  simp [Mach.svcStatus]

@[simp] theorem Mach.svcEnd_bg (o : Op) (a : Agent) (opc status : Nat) (m : Mach) : (Mach.svcEnd o a opc status m).adm.bg = m.adm.bg := by
  simp [Mach.svcEnd]

@[simp] theorem Mach.memberErased_bg (c : Chan) (f : Nat) (m : Mach) : (Mach.memberErased c f m).adm.bg = m.adm.bg := by
  unfold Mach.memberErased
  try lift_lets
  repeat' first
    | (intro x; first | (have hx : x.adm.bg = m.adm.bg := by
                            simp only [x]
                            repeat' (first | (simp [*]; done) | intro _ | split   | simp [*])
                         clear_value x) | clear_value x)
    | (simp [*]; done)
    | intro _
    | split
    | simp [*]

@[simp] theorem Mach.hdlErased_bg (row b : Nat) (m : Mach) : (Mach.hdlErased row b m).adm.bg = m.adm.bg := by
  unfold Mach.hdlErased
  try lift_lets
  repeat' first
    | (intro x; first | (have hx : x.adm.bg = m.adm.bg := by
                            simp only [x]
                            repeat' (first | (simp [*]; done) | intro _ | split   | simp [*])
                         clear_value x) | clear_value x)
    | (simp [*]; done)
    | intro _
    | split
    | simp [*]

@[simp] theorem Mach.dieEraseOver_bg (d : Nat) (m : Mach) : (Mach.dieEraseOver d m).adm.bg = m.adm.bg := by
  simp [Mach.dieEraseOver]

@[simp] theorem Mach.hdlWorn_bg (n : Nat) (m : Mach) : (Mach.hdlWorn n m).adm.bg = m.adm.bg := by
  unfold Mach.hdlWorn
  try lift_lets
  repeat' first
    | (intro x; first | (have hx : x.adm.bg = m.adm.bg := by
                            simp only [x]
                            repeat' (first | (simp [*]; done) | intro _ | split | rw [Mach.each_bg] | simp [*])
                         clear_value x) | clear_value x)
    | (simp [*]; done)
    | intro _
    | split
    | rw [Mach.each_bg]
    | simp [*]

@[simp] theorem Mach.eraseDone_bg (o : Op) (b : Nat) (system : Bool) (m : Mach) : (Mach.eraseDone o b system m).adm.bg = m.adm.bg := by
  unfold Mach.eraseDone
  try lift_lets
  repeat' first
    | (intro x; first | (have hx : x.adm.bg = m.adm.bg := by
                            simp only [x]
                            repeat' (first | (simp [*]; done) | intro _ | split   | simp [*])
                         clear_value x) | clear_value x)
    | (simp [*]; done)
    | intro _
    | split
    | simp [*]

@[simp] theorem Mach.eraseFailed_bg (o : Op) (b : Nat) (system : Bool) (cause : Nat) (m : Mach) : (Mach.eraseFailed o b system cause m).adm.bg = m.adm.bg := by
  unfold Mach.eraseFailed
  try lift_lets
  repeat' first
    | (intro x; first | (have hx : x.adm.bg = m.adm.bg := by
                            simp only [x]
                            repeat' (first | (simp [*]; done) | intro _ | split   | simp [*])
                         clear_value x) | clear_value x)
    | (simp [*]; done)
    | intro _
    | split
    | simp [*]

@[simp] theorem Mach.destroy_bg (d b : Nat) (site : Option (Nat × Nat)) (m : Mach) : (Mach.destroy d b site m).adm.bg = m.adm.bg := by
  simp [Mach.destroy]

@[simp] theorem Mach.erasePlanes_bg (d : Nat) (x : Apt) (m : Mach) : (Mach.erasePlanes d x m).adm.bg = m.adm.bg := by
  unfold Mach.erasePlanes
  try lift_lets
  repeat' first
    | (intro x; first | (have hx : x.adm.bg = m.adm.bg := by
                            simp only [x]
                            repeat' (first | (simp [*]; done) | intro _ | split | rw [Mach.each_bg] | simp [*])
                         clear_value x) | clear_value x)
    | (simp [*]; done)
    | intro _
    | split
    | rw [Mach.each_bg]
    | simp [*]

@[simp] theorem Mach.rawProgram_bg (o : Op) (x : Apt) (pass : Bool) (m : Mach) : (Mach.rawProgram o x pass m).adm.bg = m.adm.bg := by
  unfold Mach.rawProgram
  try lift_lets
  repeat' first
    | (intro x; first | (have hx : x.adm.bg = m.adm.bg := by
                            simp only [x]
                            repeat' (first | (simp [*]; done) | intro _ | split | rw [Mach.each_bg] | simp [*])
                         clear_value x) | clear_value x)
    | (simp [*]; done)
    | intro _
    | split
    | rw [Mach.each_bg]
    | simp [*]

@[simp] theorem Mach.stallXfer_bg (o : Op) (m : Mach) : (Mach.stallXfer o m).adm.bg = m.adm.bg := by
  unfold Mach.stallXfer
  try lift_lets
  repeat' first
    | (intro x; first | (have hx : x.adm.bg = m.adm.bg := by
                            simp only [x]
                            repeat' (first | (simp [*]; done) | intro _ | split | rw [Mach.each_bg] | simp [*])
                         clear_value x) | clear_value x)
    | (simp [*]; done)
    | intro _
    | split
    | rw [Mach.each_bg]
    | simp [*]

@[simp] theorem Mach.svcTransfer_bg (o : Op) (code : Nat) (x : Apt) (m : Mach) : (Mach.svcTransfer o code x m).adm.bg = m.adm.bg := by
  unfold Mach.svcTransfer
  try lift_lets
  repeat' first
    | (intro x; first | (have hx : x.adm.bg = m.adm.bg := by
                            simp only [x]
                            repeat' (first | (simp [*]; done) | intro _ | split   | simp [*])
                         clear_value x) | clear_value x)
    | (simp [*]; done)
    | intro _
    | split
    | simp [*]

@[simp] theorem Mach.svcDrain_bg (m : Mach) : (Mach.svcDrain m).adm.bg = m.adm.bg := by
  unfold Mach.svcDrain
  repeat' first
    | (simp [*]; done)
    | intro _
    | split
    | rw [Mach.each_bg]
    | simp [*]

@[simp] theorem Mach.svcErased1_bg (o : Op) (x : Apt) (pass : Bool) (m : Mach) : (Mach.svcErased1 o x pass m).adm.bg = m.adm.bg := by
  unfold Mach.svcErased1
  try lift_lets
  repeat' first
    | (intro x; first | (have hx : x.adm.bg = m.adm.bg := by
                            simp only [x]
                            repeat' (first | (simp [*]; done) | intro _ | split | rw [Mach.each_bg]  | simp [*])
                         clear_value x) | clear_value x)
    | (simp [*]; done)
    | intro _
    | split
    | rw [Mach.each_bg]
    | simp [*]

@[simp] theorem Mach.pendEpoch_bg (v : Vid) (e : Nat) (owner : Bool) (t : TwinSt) (m : Mach) : (Mach.pendEpoch v e owner t m).adm.bg = m.adm.bg := by
  simp [Mach.pendEpoch]

@[simp] theorem Mach.dropPieces_bg (v : Vid) (m : Mach) : (Mach.dropPieces v m).adm.bg = m.adm.bg := by
  unfold Mach.dropPieces
  repeat' first
    | (simp [*]; done)
    | intro _
    | split
    | rw [Mach.each_bg]
    | simp [*]

@[simp] theorem Mach.dropPartner_bg (m : Mach) : (Mach.dropPartner m).adm.bg = m.adm.bg := by
  unfold Mach.dropPartner
  try lift_lets
  repeat' first
    | (intro x; first | (have hx : x.adm.bg = m.adm.bg := by
                            simp only [x]
                            repeat' (first | (simp [*]; done) | intro _ | split | rw [Mach.each_bg]  | simp [*])
                         clear_value x) | clear_value x)
    | (simp [*]; done)
    | intro _
    | split
    | rw [Mach.each_bg]
    | simp [*]

theorem Mach.endBg_none (s : Nat) {m : Mach} (h : m.adm.bg = none) : m.endBg s = m := by unfold Mach.endBg; rw [h]

theorem Mach.waitLost_bg (w : TwinWait) (m : Mach) (h : m.adm.bg = none) : (Mach.waitLost w m).adm.bg = none := by
  unfold Mach.waitLost
  dsimp only
  repeat' first
    | (simp [h, Mach.endBg_none]; done)
    | split

@[simp] theorem Mach.durableBack_bg (m : Mach) : (Mach.durableBack m).adm.bg = m.adm.bg := by
  unfold Mach.durableBack
  repeat' first
    | (simp [*]; done)
    | intro _
    | split
    | rw [Mach.each_bg]
    | simp [*]

theorem Mach.eachNone_bg {α : Type} (l : List α) (f : α → Mach → Mach) (h : ∀ a, ∀ m : Mach, m.adm.bg = none → (f a m).adm.bg = none)
    (m : Mach) (hm : m.adm.bg = none) : (m.each l f).adm.bg = none := by
  unfold Mach.each
  induction l generalizing m with
  | nil => exact hm
  | cons a l ih => rw [List.foldl_cons]; exact ih _ (h a m hm)

theorem Mach.partnerLost_bg (m : Mach) (h : m.adm.bg = none) : m.partnerLost.adm.bg = none := by
  unfold Mach.partnerLost
  split
  · exact h
  · extract_lets a b c d e
    have ha : a.adm.bg = none := by simp [a, h]
    clear_value a
    have hb : b.adm.bg = none := by simp [b, ha]
    clear_value b
    have hc : c.adm.bg = none := by simp [c, hb]
    clear_value c
    have hd : d.adm.bg = none := by
      simp only [d]
      rw [Mach.each_bg]
      · exact hc
      · intro v m; simp
    clear_value d
    have he : e.adm.bg = none := by simp [e, hd]
    clear_value e
    rw [Mach.settleDev_bg]
    exact Mach.eachNone_bg _ _ (fun w m hm => Mach.waitLost_bg w m hm) _ he

@[simp] theorem Mach.giveLevel_bg (m : Mach) : (Mach.giveLevel m).adm.bg = m.adm.bg := by
  unfold Mach.giveLevel
  repeat' first
    | (simp [*]; done)
    | intro _
    | split
    | rw [Mach.each_bg]
    | simp [*]

@[simp] theorem Mach.setLevel_bg (l : Nat) (m : Mach) : (Mach.setLevel l m).adm.bg = m.adm.bg := by
  unfold Mach.setLevel
  try lift_lets
  repeat' first
    | (intro x; first | (have hx : x.adm.bg = m.adm.bg := by
                            simp only [x]
                            repeat' (first | (simp [*]; done) | intro _ | split   | simp [*])
                         clear_value x) | clear_value x)
    | (simp [*]; done)
    | intro _
    | split
    | simp [*]

@[simp] theorem Mach.snfStart_bg (m : Mach) : (Mach.snfStart m).adm.bg = m.adm.bg := by
  unfold Mach.snfStart
  try lift_lets
  repeat' first
    | (intro x; first | (have hx : x.adm.bg = m.adm.bg := by
                            simp only [x]
                            repeat' (first | (simp [*]; done) | intro _ | split   | simp [*])
                         clear_value x) | clear_value x)
    | (simp [*]; done)
    | intro _
    | split
    | simp [*]

@[simp] theorem Mach.lntEmpty_bg (m : Mach) : (Mach.lntEmpty m).adm.bg = m.adm.bg := by
  simp [Mach.lntEmpty]

@[simp] theorem Mach.lntStart_bg (m : Mach) : (Mach.lntStart m).adm.bg = m.adm.bg := by
  simp [Mach.lntStart]

@[simp] theorem Mach.strandReads_bg (c : Chan) (issued : Bool) (m : Mach) : (Mach.strandReads c issued m).adm.bg = m.adm.bg := by
  unfold Mach.strandReads
  try lift_lets
  repeat' first
    | (intro x; first | (have hx : x.adm.bg = m.adm.bg := by
                            simp only [x]
                            repeat' (first | (simp [*]; done) | intro _ | split | rw [Mach.each_bg] | simp [*])
                         clear_value x) | clear_value x)
    | (simp [*]; done)
    | intro _
    | split
    | rw [Mach.each_bg]
    | simp [*]

@[simp] theorem Mach.portIdle_bg (q : Port) (m : Mach) : (Mach.portIdle q m).adm.bg = m.adm.bg := by
  unfold Mach.portIdle
  try lift_lets
  repeat' first
    | (intro x; first | (have hx : x.adm.bg = m.adm.bg := by
                            simp only [x]
                            repeat' (first | (simp [*]; done) | intro _ | split | rw [Mach.each_bg] | simp [*])
                         clear_value x) | clear_value x)
    | (simp [*]; done)
    | intro _
    | split
    | rw [Mach.each_bg]
    | simp [*]

@[simp] theorem Mach.stopEnds_bg (p : Page) (m : Mach) : (Mach.stopEnds p m).adm.bg = m.adm.bg := by
  unfold Mach.stopEnds
  repeat' first
    | (simp [*]; done)
    | intro _
    | split
    | simp [*]

@[simp] theorem Mach.stoppingEnd_bg (p : Page) (m : Mach) : (Mach.stoppingEnd p m).adm.bg = m.adm.bg := by
  unfold Mach.stoppingEnd
  repeat' first
    | (simp [*]; done)
    | intro _
    | split
    | simp [*]

@[simp] theorem Mach.keyReload_bg (m : Mach) : (Mach.keyReload m).adm.bg = m.adm.bg := by
  unfold Mach.keyReload
  try lift_lets
  repeat' first
    | (intro x; first | (have hx : x.adm.bg = m.adm.bg := by
                            simp only [x]
                            repeat' (first | (simp [*]; done) | intro _ | split   | simp [*])
                         clear_value x) | clear_value x)
    | (simp [*]; done)
    | intro _
    | split
    | simp [*]

@[simp] theorem Mach.startEnds_bg (p : Page) (m : Mach) : (Mach.startEnds p m).adm.bg = m.adm.bg := by
  unfold Mach.startEnds
  try lift_lets
  repeat' first
    | (intro x; first | (have hx : x.adm.bg = m.adm.bg := by
                            simp only [x]
                            repeat' (first | (simp [*]; done) | intro _ | split | rw [Mach.each_bg] | simp [*])
                         clear_value x) | clear_value x)
    | (simp [*]; done)
    | intro _
    | split
    | rw [Mach.each_bg]
    | simp [*]

theorem Mach.startTrains_bg (p : Page) (tr : Bool) {m u : Mach} (h : m.startTrains p tr = some u) : u.adm.bg = m.adm.bg := by
  unfold Mach.startTrains at h
  split at h
  · split at h
    · cases h
    · split at h
      · cases h
      · split at h <;> (cases h; simp)
  · cases h

@[simp] theorem Mach.startingEnd_bg (p : Page) (tr : Bool) (m : Mach) : (Mach.startingEnd p tr m).adm.bg = m.adm.bg := by
  unfold Mach.startingEnd
  split
  · rfl
  · split
    · simp
    · split
      · rename_i u hu; simp [Mach.startTrains_bg _ _ hu]
      · dsimp only; split <;> simp

@[simp] theorem Mach.lampGone_bg (m : Mach) : (Mach.lampGone m).adm.bg = m.adm.bg := by
  unfold Mach.lampGone
  try lift_lets
  repeat' first
    | (intro x; first | (have hx : x.adm.bg = m.adm.bg := by
                            simp only [x]
                            repeat' (first | (simp [*]; done) | intro _ | split | rw [Mach.each_bg] | simp [*])
                         clear_value x) | clear_value x)
    | (simp [*]; done)
    | intro _
    | split
    | rw [Mach.each_bg]
    | simp [*]

theorem Mach.faultEnds_bg (p : Page) (m : Mach) (h : m.adm.bg = none) : (Mach.faultEnds p m).adm.bg = none := by
  unfold Mach.faultEnds
  dsimp only
  repeat' first
    | exact Mach.partnerLost_bg _ h
    | (simp [h]; done)
    | (rw [Mach.each_bg (h := fun a m => by split <;> simp)]; simp [h]; done)
    | split

theorem Mach.blockFault_bg (p : Page) (pa : Bool) (m : Mach) (h : m.adm.bg = none) : (Mach.blockFault p pa m).adm.bg = none := by
  unfold Mach.blockFault
  dsimp only
  split <;> try exact h
  rw [Mach.settleDev_bg]
  apply Mach.faultEnds_bg
  split <;> simp [h]

@[simp] theorem Mach.freeDie_bg (o : Op) (m : Mach) : (Mach.freeDie o m).adm.bg = m.adm.bg := by
  simp [Mach.freeDie]

@[simp] theorem Mach.svcComplete_bg (o : Op) (code : Nat) (x : Apt) (pass : Bool) (m : Mach) : (Mach.svcComplete o code x pass m).adm.bg = m.adm.bg := by
  unfold Mach.svcComplete
  try lift_lets
  repeat' first
    | (intro x; first | (have hx : x.adm.bg = m.adm.bg := by
                            simp only [x]
                            repeat' (first | (simp [*]; done) | intro _ | split   | simp [*])
                         clear_value x) | clear_value x)
    | (simp [*]; done)
    | intro _
    | split
    | simp [*]

@[simp] theorem Mach.opEnded_bg (o : Op) (r : OpOutcome) (cause : Nat) (m : Mach) : (Mach.opEnded o r cause m).adm.bg = m.adm.bg := by
  unfold Mach.opEnded
  try lift_lets
  repeat' first
    | (intro x; first | (have hx : x.adm.bg = m.adm.bg := by
                            simp only [x]
                            repeat' (first | (simp [*]; done) | intro _ | split   | simp [*])
                         clear_value x) | clear_value x)
    | (simp [*]; done)
    | intro _
    | split
    | simp [*]

@[simp] theorem Mach.completion_bg (c : Chan) (r : Row) (x : OpOutcome) (m : Mach) : (Mach.completion c r x m).adm.bg = m.adm.bg := by
  unfold Mach.completion
  repeat' first
    | (simp [*]; done)
    | intro _
    | split
    | simp [*]

@[simp] theorem Mach.hold_bg (p : Page) (h : Bool) (m : Mach) : (Mach.hold p h m).adm.bg = m.adm.bg := by
  simp [Mach.hold]

@[simp] theorem Mach.twnNak_bg (m : Mach) : (Mach.twnNak m).adm.bg = m.adm.bg := by
  simp [Mach.twnNak]

@[simp] theorem Mach.rxPlain_bg (h : FrameHdr) (f : Mach → Mach) (m : Mach) (hf : ∀ m : Mach, (f m).adm.bg = m.adm.bg) :
    (Mach.rxPlain h f m).adm.bg = m.adm.bg := by
  unfold Mach.rxPlain
  split
  · rw [hf]; simp
  · rfl

@[simp] theorem Mach.rxSeq_bg (h : FrameHdr) (f : Mach → Mach) (m : Mach) (hf : ∀ m : Mach, (f m).adm.bg = m.adm.bg) :
    (Mach.rxSeq h f m).adm.bg = m.adm.bg := by
  unfold Mach.rxSeq
  apply Mach.rxPlain_bg
  intro m
  dsimp only
  repeat' first
    | (rw [hf]; simp; done)
    | (simp; done)
    | split

@[simp] theorem Mach.takeover_bg (p : Port) (v : Vid) (force : Bool) (fence : Nat) (m : Mach) : (Mach.takeover p v force fence m).adm.bg = m.adm.bg := by
  unfold Mach.takeover
  try lift_lets
  repeat' first
    | (intro x; first | (have hx : x.adm.bg = m.adm.bg := by
                            simp only [x]
                            repeat' (first | (simp [*]; done) | intro _ | split   | simp [*])
                         clear_value x) | clear_value x)
    | (simp [*]; done)
    | intro _
    | split
    | simp [*]

end Sys2Proof.Machine
end

