-- ==== Sys2Proof/Laws/Same.lean ====
section
/-! SUPPORT. How the frame relations of Safety compose. -/

namespace Sys2Proof.Machine

-- One proof at a time: proofs that wait for each other would each hold a thread and its stack.
set_option Elab.async false

theorem same_refl (ps : List Part) (m : Mach) : Mach.SameBut ps m m := by simp [Mach.SameBut]

theorem or_eq_trans {P : Prop} {α : Type} {x y z : α} (h : P ∨ y = x) (g : P ∨ z = y) : P ∨ z = x :=
  h.elim .inl fun h => g.imp_right (·.trans h)

theorem same_trans {ps : List Part} {a b c : Mach} (h : Mach.SameBut ps a b) (g : Mach.SameBut ps b c) : Mach.SameBut ps a c := by
  obtain ⟨h1, h2, h3, h4, h5, h6, h7, h8, h9, h10, h11, h12, h13, h14, h15, h16, h17, h18, h19, h20⟩ := h
  obtain ⟨g1, g2, g3, g4, g5, g6, g7, g8, g9, g10, g11, g12, g13, g14, g15, g16, g17, g18, g19, g20⟩ := g
  exact ⟨or_eq_trans h1 g1, or_eq_trans h2 g2, or_eq_trans h3 g3, or_eq_trans h4 g4, or_eq_trans h5 g5, or_eq_trans h6 g6,
    or_eq_trans h7 g7, or_eq_trans h8 g8, or_eq_trans h9 g9, or_eq_trans h10 g10, or_eq_trans h11 g11, or_eq_trans h12 g12,
    or_eq_trans h13 g13, or_eq_trans h14 g14, or_eq_trans h15 g15, or_eq_trans h16 g16, or_eq_trans h17 g17, or_eq_trans h18 g18,
    or_eq_trans h19 g19, or_eq_trans h20 g20⟩

theorem same_mono {ps qs : List Part} {a b : Mach} (h : Mach.SameBut ps a b) (hs : ∀ p ∈ ps, p ∈ qs) : Mach.SameBut qs a b := by
  obtain ⟨h1, h2, h3, h4, h5, h6, h7, h8, h9, h10, h11, h12, h13, h14, h15, h16, h17, h18, h19, h20⟩ := h
  exact ⟨h1.imp_left (hs _), h2.imp_left (hs _), h3.imp_left (hs _), h4.imp_left (hs _), h5.imp_left (hs _), h6.imp_left (hs _),
    h7.imp_left (hs _), h8.imp_left (hs _), h9.imp_left (hs _), h10.imp_left (hs _), h11.imp_left (hs _), h12.imp_left (hs _),
    h13.imp_left (hs _), h14.imp_left (hs _), h15.imp_left (hs _), h16.imp_left (hs _), h17.imp_left (hs _), h18.imp_left (hs _),
    h19.imp_left (hs _), h20.imp_left (hs _)⟩

theorem same_dev {ps : List Part} {a b : Mach} (h : Mach.SameBut ps a b) (n : .dev ∉ ps) : b.dev = a.dev := (h.1).resolve_left n
theorem same_reg {ps : List Part} {a b : Mach} (h : Mach.SameBut ps a b) (n : .reg ∉ ps) : b.reg = a.reg := (h.2.1).resolve_left n
theorem same_pff {ps : List Part} {a b : Mach} (h : Mach.SameBut ps a b) (n : .pff ∉ ps) : b.pff = a.pff := (h.2.2.1).resolve_left n
theorem same_port {ps : List Part} {a b : Mach} (h : Mach.SameBut ps a b) (n : .port ∉ ps) : b.port = a.port := (h.2.2.2.1).resolve_left n
theorem same_adm {ps : List Part} {a b : Mach} (h : Mach.SameBut ps a b) (n : .adm ∉ ps) : b.adm = a.adm := (h.2.2.2.2.1).resolve_left n
theorem same_q {ps : List Part} {a b : Mach} (h : Mach.SameBut ps a b) (n : .q ∉ ps) : b.q = a.q := (h.2.2.2.2.2.1).resolve_left n
theorem same_vol {ps : List Part} {a b : Mach} (h : Mach.SameBut ps a b) (n : .vol ∉ ps) : b.vol = a.vol := (h.2.2.2.2.2.2.1).resolve_left n
theorem same_buf {ps : List Part} {a b : Mach} (h : Mach.SameBut ps a b) (n : .buf ∉ ps) : b.buf = a.buf := (h.2.2.2.2.2.2.2.1).resolve_left n
theorem same_lamp {ps : List Part} {a b : Mach} (h : Mach.SameBut ps a b) (n : .lamp ∉ ps) : b.lamp = a.lamp := (h.2.2.2.2.2.2.2.2.1).resolve_left n
theorem same_fl {ps : List Part} {a b : Mach} (h : Mach.SameBut ps a b) (n : .fl ∉ ps) : b.fl = a.fl := (h.2.2.2.2.2.2.2.2.2.1).resolve_left n
theorem same_gln {ps : List Part} {a b : Mach} (h : Mach.SameBut ps a b) (n : .gln ∉ ps) : b.gln = a.gln := (h.2.2.2.2.2.2.2.2.2.2.1).resolve_left n
theorem same_hdl {ps : List Part} {a b : Mach} (h : Mach.SameBut ps a b) (n : .hdl ∉ ps) : b.hdl = a.hdl := (h.2.2.2.2.2.2.2.2.2.2.2.1).resolve_left n
theorem same_drc {ps : List Part} {a b : Mach} (h : Mach.SameBut ps a b) (n : .drc ∉ ps) : b.drc = a.drc := (h.2.2.2.2.2.2.2.2.2.2.2.2.1).resolve_left n
theorem same_key {ps : List Part} {a b : Mach} (h : Mach.SameBut ps a b) (n : .key ∉ ps) : b.key = a.key := (h.2.2.2.2.2.2.2.2.2.2.2.2.2.1).resolve_left n
theorem same_thm {ps : List Part} {a b : Mach} (h : Mach.SameBut ps a b) (n : .thm ∉ ps) : b.thm = a.thm := (h.2.2.2.2.2.2.2.2.2.2.2.2.2.2.1).resolve_left n
theorem same_alm {ps : List Part} {a b : Mach} (h : Mach.SameBut ps a b) (n : .alm ∉ ps) : b.alm = a.alm := (h.2.2.2.2.2.2.2.2.2.2.2.2.2.2.2.1).resolve_left n
theorem same_twn {ps : List Part} {a b : Mach} (h : Mach.SameBut ps a b) (n : .twn ∉ ps) : b.twn = a.twn := (h.2.2.2.2.2.2.2.2.2.2.2.2.2.2.2.2.1).resolve_left n
theorem same_tap {ps : List Part} {a b : Mach} (h : Mach.SameBut ps a b) (n : .tap ∉ ps) : b.tap = a.tap := (h.2.2.2.2.2.2.2.2.2.2.2.2.2.2.2.2.2.1).resolve_left n
theorem same_out {ps : List Part} {a b : Mach} (h : Mach.SameBut ps a b) (n : .out ∉ ps) : b.out = a.out := (h.2.2.2.2.2.2.2.2.2.2.2.2.2.2.2.2.2.2.1).resolve_left n
theorem same_free {ps : List Part} {a b : Mach} (h : Mach.SameBut ps a b) (n : .free ∉ ps) : b.free = a.free := (h.2.2.2.2.2.2.2.2.2.2.2.2.2.2.2.2.2.2.2).resolve_left n

theorem same_each {α : Type} {ps : List Part} (l : List α) (f : α → Mach → Mach) (h : ∀ a m, Mach.SameBut ps m (f a m)) (m : Mach) :
    Mach.SameBut ps m (m.each l f) := by
  unfold Mach.each
  induction l generalizing m with
  | nil => exact same_refl ..
  | cons a l ih => rw [List.foldl_cons]; exact same_trans (h a m) (ih _)

theorem same_when {ps : List Part} (b : Bool) (f : Mach → Mach) (h : ∀ m, Mach.SameBut ps m (f m)) (m : Mach) :
    Mach.SameBut ps m (m.when b f) := by
  unfold Mach.when
  split
  · exact h m
  · exact same_refl ..

theorem completes_on {c : Instr} {s : State} {P : Mach → Prop} (f : Mach → Mach) (h : exec c s = s.on f) (hp : P (f s.m)) :
    Completes c s P := ⟨_, h, rfl, hp⟩

theorem completes_eq {c : Instr} {s : State} {P : Mach → Prop} {u : Mach} (f : Mach → Mach) (h : exec c s = s.on f) (e : f s.m = u)
    (hp : P u) : Completes c s P := ⟨_, h, rfl, by rw [← e] at hp; exact hp⟩

end Sys2Proof.Machine
end

