-- ==== Sys2Proof/Laws/Dev.lean ====
section
/-! SUPPORT. The operations that leave the state of the device alone. -/

namespace Sys2Proof.Machine

-- One proof at a time: proofs that wait for each other would each hold a thread and its stack.
set_option Elab.async false

theorem Mach.when_dev (b : Bool) (f : Mach → Mach) (m : Mach) (h : ∀ m : Mach, (f m).dev = m.dev) : (m.when b f).dev = m.dev := by
  unfold Mach.when; split <;> simp [h]

theorem Mach.each_dev {α : Type} (l : List α) (f : α → Mach → Mach) (m : Mach) (h : ∀ a, ∀ m : Mach, (f a m).dev = m.dev) :
    (m.each l f).dev = m.dev := by
  unfold Mach.each
  induction l generalizing m with
  | nil => rfl
  | cons a l ih => rw [List.foldl_cons, ih, h]

@[simp] theorem Mach.pffCommit_dev (n : Fin 8) (frameOk : Bool) (ws : List Word) (m : Mach) : (Mach.pffCommit n frameOk ws m).dev = m.dev := by
  unfold Mach.pffCommit
  try lift_lets
  repeat' first
    | (intro x; first | (have hx : x.dev = m.dev := by
                            simp only [x]
                            repeat' (first | (simp [*]; done) | intro _ | split   | simp [*])
                         clear_value x) | clear_value x)
    | (simp [*]; done)
    | intro _
    | split
    | simp [*]

@[simp] theorem Mach.pffAccept_dev (n : Fin 8) (w : Word) (frameOk : Bool) (m : Mach) : (Mach.pffAccept n w frameOk m).dev = m.dev := by
  unfold Mach.pffAccept
  try lift_lets
  repeat' first
    | (intro x; first | (have hx : x.dev = m.dev := by
                            simp only [x]
                            repeat' (first | (simp [*]; done) | intro _ | split   | simp [*])
                         clear_value x) | clear_value x)
    | (simp [*]; done)
    | intro _
    | split
    | simp [*]

@[simp] theorem Mach.pffOversize_dev (n : Fin 8) (m : Mach) : (Mach.pffOversize n m).dev = m.dev := by
  simp [Mach.pffOversize]

@[simp] theorem Mach.pffPush_dev (n : Fin 8) (w : Word) (frameOk : Bool) (m : Mach) : (Mach.pffPush n w frameOk m).dev = m.dev := by
  unfold Mach.pffPush
  try lift_lets
  repeat' first
    | (intro x; first | (have hx : x.dev = m.dev := by
                            simp only [x]
                            repeat' (first | (simp [*]; done) | intro _ | split   | simp [*])
                         clear_value x) | clear_value x)
    | (simp [*]; done)
    | intro _
    | split
    | simp [*]

@[simp] theorem Mach.pffResume_dev (n : Fin 8) (m : Mach) : (Mach.pffResume n m).dev = m.dev := by
  unfold Mach.pffResume
  try lift_lets
  repeat' first
    | (intro x; first | (have hx : x.dev = m.dev := by
                            simp only [x]
                            repeat' (first | (simp [*]; done) | intro _ | split   | simp [*])
                         clear_value x) | clear_value x)
    | (simp [*]; done)
    | intro _
    | split
    | simp [*]

@[simp] theorem Mach.pffPacket_dev (n : Fin 8) (ws : List Word) (m : Mach) : (Mach.pffPacket n ws m).dev = m.dev := by
  simp [Mach.pffPacket]

@[simp] theorem Mach.pffAbort_dev (n : Fin 8) (m : Mach) : (Mach.pffAbort n m).dev = m.dev := by
  simp [Mach.pffAbort]

@[simp] theorem Mach.fifoPass_dev (n : Fin 8) (ws : List Word) (m : Mach) : (Mach.fifoPass n ws m).dev = m.dev := by
  unfold Mach.fifoPass
  try lift_lets
  repeat' first
    | (intro x; first | (have hx : x.dev = m.dev := by
                            simp only [x]
                            repeat' (first | (simp [*]; done) | intro _ | split | rw [Mach.each_dev] | simp [*])
                         clear_value x) | clear_value x)
    | (simp [*]; done)
    | intro _
    | split
    | rw [Mach.each_dev]
    | simp [*]

@[simp] theorem Mach.pffDrop_dev (n : Fin 8) (m : Mach) : (Mach.pffDrop n m).dev = m.dev := by
  unfold Mach.pffDrop
  try lift_lets
  repeat' first
    | (intro x; first | (have hx : x.dev = m.dev := by
                            simp only [x]
                            repeat' (first | (simp [*]; done) | intro _ | split   | simp [*])
                         clear_value x) | clear_value x)
    | (simp [*]; done)
    | intro _
    | split
    | simp [*]

@[simp] theorem Mach.pffPop_dev (n : Fin 8) (m : Mach) : (Mach.pffPop n m).1.dev = m.dev := by
  unfold Mach.pffPop
  try lift_lets
  repeat' first
    | (intro x; first | (have hx : x.dev = m.dev := by
                            simp only [x]
                            repeat' (first | (simp [*]; done) | intro _ | split   | simp [*])
                         clear_value x) | clear_value x)
    | (simp [*]; done)
    | intro _
    | split
    | simp [*]

@[simp] theorem Mach.pffRead_dev (a : Agent) (n : Fin 8) (m : Mach) : (Mach.pffRead a n m).1.dev = m.dev := by
  unfold Mach.pffRead
  repeat' first
    | (simp [*]; done)
    | intro _
    | split
    | simp [*]

@[simp] theorem Mach.pffShow_dev (n : Fin 8) (m : Mach) : (Mach.pffShow n m).dev = m.dev := by
  unfold Mach.pffShow
  try lift_lets
  repeat' first
    | (intro x; first | (have hx : x.dev = m.dev := by
                            simp only [x]
                            repeat' (first | (simp [*]; done) | intro _ | split   | simp [*])
                         clear_value x) | clear_value x)
    | (simp [*]; done)
    | intro _
    | split
    | simp [*]

@[simp] theorem Mach.logEvent_dev (log : Nat) (k : EvKind) (m : Mach) : (Mach.logEvent log k m).dev = m.dev := by
  unfold Mach.logEvent
  try lift_lets
  repeat' first
    | (intro x; first | (have hx : x.dev = m.dev := by
                            simp only [x]
                            repeat' (first | (simp [*]; done) | intro _ | split | rw [Mach.each_dev] | simp [*])
                         clear_value x) | clear_value x)
    | (simp [*]; done)
    | intro _
    | split
    | rw [Mach.each_dev]
    | simp [*]

@[simp] theorem Mach.almRelease_dev (m : Mach) : (Mach.almRelease m).dev = m.dev := by
  unfold Mach.almRelease
  try lift_lets
  repeat' first
    | (intro x; first | (have hx : x.dev = m.dev := by
                            simp only [x]
                            repeat' (first | (simp [*]; done) | intro _ | split | rw [Mach.each_dev] | simp [*])
                         clear_value x) | clear_value x)
    | (simp [*]; done)
    | intro _
    | split
    | rw [Mach.each_dev]
    | simp [*]

@[simp] theorem Mach.almTouch_dev (m : Mach) : (Mach.almTouch m).dev = m.dev := by
  unfold Mach.almTouch
  try lift_lets
  repeat' first
    | (intro x; first | (have hx : x.dev = m.dev := by
                            simp only [x]
                            repeat' (first | (simp [*]; done) | intro _ | split | rw [Mach.each_dev] | simp [*])
                         clear_value x) | clear_value x)
    | (simp [*]; done)
    | intro _
    | split
    | rw [Mach.each_dev]
    | simp [*]

@[simp] theorem Mach.almPut_dev (slot : Nat) (r : AlmRec) (m : Mach) : (Mach.almPut slot r m).dev = m.dev := by
  unfold Mach.almPut
  try lift_lets
  repeat' first
    | (intro x; first | (have hx : x.dev = m.dev := by
                            simp only [x]
                            repeat' (first | (simp [*]; done) | intro _ | split | rw [Mach.each_dev] | simp [*])
                         clear_value x) | clear_value x)
    | (simp [*]; done)
    | intro _
    | split
    | rw [Mach.each_dev]
    | simp [*]

@[simp] theorem Mach.almSealed_dev (r : AlmRec) (m : Mach) : (Mach.almSealed r m).dev = m.dev := by
  unfold Mach.almSealed
  try lift_lets
  repeat' first
    | (intro x; first | (have hx : x.dev = m.dev := by
                            simp only [x]
                            repeat' (first | (simp [*]; done) | intro _ | split | rw [Mach.each_dev] | simp [*])
                         clear_value x) | clear_value x)
    | (simp [*]; done)
    | intro _
    | split
    | rw [Mach.each_dev]
    | simp [*]

@[simp] theorem Mach.almSeal_dev (m : Mach) : (Mach.almSeal m).dev = m.dev := by
  unfold Mach.almSeal
  try lift_lets
  repeat' first
    | (intro x; first | (have hx : x.dev = m.dev := by
                            simp only [x]
                            repeat' (first | (simp [*]; done) | intro _ | split | rw [Mach.each_dev] | simp [*])
                         clear_value x) | clear_value x)
    | (simp [*]; done)
    | intro _
    | split
    | rw [Mach.each_dev]
    | simp [*]

theorem Mach.almPlace_dev {mk : Word → AlmRec} {m : Mach} {r : Mach × Nat} (h : m.almPlace mk = some r) : r.1.dev = m.dev := by
  unfold Mach.almPlace at h
  dsimp only at h
  split at h
  · cases h; simp
  · split at h
    · obtain ⟨e, -, rfl⟩ := Option.map_eq_some_iff.mp h
      simp
    · cases h

@[simp] theorem Mach.almNew_dev (isEvent : Bool) (mk : Word → AlmRec) (m : Mach) : (Mach.almNew isEvent mk m).dev = m.dev := by
  unfold Mach.almNew
  dsimp only
  split
  · rename_i h
    have := Mach.almPlace_dev (h := h)
    dsimp only at this
    repeat' first | (simpa using this) | split
  · split
    · simp
    · split
      · rename_i h
        have := Mach.almPlace_dev (h := h)
        simpa using this
      · simp

@[simp] theorem Mach.almPersist1_dev (r : AlmRec) (m : Mach) : (Mach.almPersist1 r m).dev = m.dev := by
  unfold Mach.almPersist1
  try lift_lets
  repeat' first
    | (intro x; first | (have hx : x.dev = m.dev := by
                            simp only [x]
                            repeat' (first | (simp [*]; done) | intro _ | split | rw [Mach.each_dev] | simp [*])
                         clear_value x) | clear_value x)
    | (simp [*]; done)
    | intro _
    | split
    | rw [Mach.each_dev]
    | simp [*]

@[simp] theorem Mach.almMark_dev (seq : Word) (m : Mach) : (Mach.almMark seq m).dev = m.dev := by
  unfold Mach.almMark
  try lift_lets
  repeat' first
    | (intro x; first | (have hx : x.dev = m.dev := by
                            simp only [x]
                            repeat' (first | (simp [*]; done) | intro _ | split | rw [Mach.each_dev] | simp [*])
                         clear_value x) | clear_value x)
    | (simp [*]; done)
    | intro _
    | split
    | rw [Mach.each_dev]
    | simp [*]

@[simp] theorem Mach.almWriteAll_dev (m : Mach) : (Mach.almWriteAll m).dev = m.dev := by
  unfold Mach.almWriteAll
  try lift_lets
  repeat' first
    | (intro x; first | (have hx : x.dev = m.dev := by
                            simp only [x]
                            repeat' (first | (simp [*]; done) | intro _ | split | rw [Mach.each_dev] | simp [*])
                         clear_value x) | clear_value x)
    | (simp [*]; done)
    | intro _
    | split
    | rw [Mach.each_dev]
    | simp [*]

@[simp] theorem Mach.almTime_dev (m : Mach) : (Mach.almTime m).dev = m.dev := by
  unfold Mach.almTime
  try lift_lets
  repeat' first
    | (intro x; first | (have hx : x.dev = m.dev := by
                            simp only [x]
                            repeat' (first | (simp [*]; done) | intro _ | split | rw [Mach.each_dev] | simp [*])
                         clear_value x) | clear_value x)
    | (simp [*]; done)
    | intro _
    | split
    | rw [Mach.each_dev]
    | simp [*]

@[simp] theorem Mach.almFlush_dev (m : Mach) : (Mach.almFlush m).dev = m.dev := by
  unfold Mach.almFlush
  try lift_lets
  repeat' first
    | (intro x; first | (have hx : x.dev = m.dev := by
                            simp only [x]
                            repeat' (first | (simp [*]; done) | intro _ | split | rw [Mach.each_dev] | simp [*])
                         clear_value x) | clear_value x)
    | (simp [*]; done)
    | intro _
    | split
    | rw [Mach.each_dev]
    | simp [*]

@[simp] theorem Mach.almFlushPending_dev (m : Mach) : (Mach.almFlushPending m).dev = m.dev := by
  unfold Mach.almFlushPending
  try lift_lets
  repeat' first
    | (intro x; first | (have hx : x.dev = m.dev := by
                            simp only [x]
                            repeat' (first | (simp [*]; done) | intro _ | split | rw [Mach.each_dev] | simp [*])
                         clear_value x) | clear_value x)
    | (simp [*]; done)
    | intro _
    | split
    | rw [Mach.each_dev]
    | simp [*]

theorem Mach.ite_dev (c : Prop) [Decidable c] (a b : Mach) : (if c then a else b).dev = if c then a.dev else b.dev := by
  split <;> rfl

theorem Mach.recorded_dev {a b : Mach} (h : Mach.Recorded a b) : b.dev = a.dev := by
  exact same_dev h.same (by simp)

@[simp] theorem Mach.event_dev (a b c d e f) (m : Mach) : (m.event a b c d e f).dev = m.dev := Mach.recorded_dev (recorded_event ..)

@[simp] theorem Mach.devEvent_dev (a b c d) (m : Mach) : (m.devEvent a b c d).dev = m.dev := Mach.recorded_dev (recorded_devEvent ..)

@[simp] theorem Mach.raiseAs_dev (a b c d) (m : Mach) : (m.raiseAs a b c d).dev = m.dev := by
  rw [Mach.recorded_dev (recorded_raiseAs m a b c d), Mach.errBit_dev]

@[simp] theorem Mach.raise_dev (b c d) (m : Mach) : (m.raise b c d).dev = m.dev := Mach.raiseAs_dev ..

@[simp] theorem Mach.observe_dev (q b v) (m : Mach) : (m.observe q b v).dev = m.dev := Mach.recorded_dev (recorded_observe ..)

@[simp] theorem Mach.snapshots_dev (m : Mach) : (m.snapshots).dev = m.dev := Mach.recorded_dev (recorded_snapshots m)

@[simp] theorem Mach.almNormal_dev (m : Mach) : (m.almNormal).dev = m.dev := Mach.recorded_dev (recorded_almNormal m)

@[simp] theorem Mach.twnPlain_dev (type : Nat) (words : List Nat) (m : Mach) : (Mach.twnPlain type words m).dev = m.dev := by
  unfold Mach.twnPlain
  repeat' first
    | (simp [*]; done)
    | intro _
    | split
    | simp [*]

@[simp] theorem Mach.twnPut_dev (f : Frame) (m : Mach) : (Mach.twnPut f m).dev = m.dev := by
  unfold Mach.twnPut
  try lift_lets
  repeat' first
    | (intro x; first | (have hx : x.dev = m.dev := by
                            simp only [x]
                            repeat' (first | (simp [*]; done) | intro _ | split   | simp [*])
                         clear_value x) | clear_value x)
    | (simp [*]; done)
    | intro _
    | split
    | simp [*]

@[simp] theorem Mach.twnGo_dev (f : Frame) (m : Mach) : (Mach.twnGo f m).dev = m.dev := by
  unfold Mach.twnGo
  repeat' first
    | (simp [*]; done)
    | intro _
    | split
    | simp [*]

theorem Mach.twnNext_dev (n : Nat) (m : Mach) : (Mach.twnNext n m).dev = m.dev := by
  induction n generalizing m with
  | zero => simp [Mach.twnNext]
  | succ n ih =>
    unfold Mach.twnNext
    split
    · simp
    · lift_lets
      intro x
      have hx : x.dev = m.dev := by
        simp only [x]
        rw [Mach.each_dev]
        intro a m
        simp
      clear_value x
      split
      · rw [ih]; simp [hx]
      · simp [hx]

@[simp] theorem Mach.twnQueue_dev (x : TxOpen) (m : Mach) : (Mach.twnQueue x m).dev = m.dev := by
  unfold Mach.twnQueue
  split
  · simp
  · rw [Mach.twnNext_dev]; simp

@[simp] theorem Mach.twnSend_dev (type flags xid idx : Nat) (words : List Nat) (data : BitVec 2048) (m : Mach) : (Mach.twnSend type flags xid idx words data m).dev = m.dev := by
  simp [Mach.twnSend]

@[simp] theorem Mach.twnBegin_dev (type flags xid lbs : Nat) (words : List Nat) (m : Mach) : (Mach.twnBegin type flags xid lbs words m).dev = m.dev := by
  simp [Mach.twnBegin]

@[simp] theorem Mach.twnFeed_dev (xid : Nat) (f : TxOpen → TxOpen) (m : Mach) : (Mach.twnFeed xid f m).dev = m.dev := by
  unfold Mach.twnFeed
  rw [Mach.twnNext_dev]; simp

@[simp] theorem Mach.twnForget_dev (s : Nat) (m : Mach) : (Mach.twnForget s m).dev = m.dev := by
  unfold Mach.twnForget
  try lift_lets
  repeat' first
    | (intro x; first | (have hx : x.dev = m.dev := by
                            simp only [x]
                            repeat' (first | (simp [*]; done) | intro _ | split | rw [Mach.each_dev]  | simp [*])
                         clear_value x) | clear_value x)
    | (simp [*]; done)
    | intro _
    | split
    | rw [Mach.each_dev]
    | simp [*]

@[simp] theorem Mach.twnDrain_dev (m : Mach) : (Mach.twnDrain m).dev = m.dev := by
  unfold Mach.twnDrain
  repeat' first
    | (simp [*]; done)
    | intro _
    | split
    | rw [Mach.each_dev]
    | simp [*]

@[simp] theorem Mach.twnResend_dev (seq : Nat) (m : Mach) : (Mach.twnResend seq m).dev = m.dev := by
  unfold Mach.twnResend
  repeat' first
    | (simp [*]; done)
    | intro _
    | split
    | rw [Mach.each_dev]
    | simp [*]

@[simp] theorem Mach.twnAcked_dev (ack : Nat) (m : Mach) : (Mach.twnAcked ack m).dev = m.dev := by
  simp [Mach.twnAcked]

@[simp] theorem Mach.twnXid_dev (w : TxFor) (m : Mach) : (Mach.twnXid w m).1.dev = m.dev := by
  simp [Mach.twnXid]

@[simp] theorem Mach.twnData_dev (xid off : Nat) (d : Block) (m : Mach) : (Mach.twnData xid off d m).dev = m.dev := by
  unfold Mach.twnData
  try lift_lets
  repeat' first
    | (intro x; first | (have hx : x.dev = m.dev := by
                            simp only [x]
                            repeat' (first | (simp [*]; done) | intro _ | split   | simp [*])
                         clear_value x) | clear_value x)
    | (simp [*]; done)
    | intro _
    | split
    | simp [*]

@[simp] theorem Mach.twnCtl_dev (ws : List Nat) (m : Mach) : (Mach.twnCtl ws m).dev = m.dev := by
  unfold Mach.twnCtl
  try lift_lets
  repeat' first
    | (intro x; first | (have hx : x.dev = m.dev := by
                            simp only [x]
                            repeat' (first | (simp [*]; done) | intro _ | split | rw [Mach.each_dev] | simp [*])
                         clear_value x) | clear_value x)
    | (simp [*]; done)
    | intro _
    | split
    | rw [Mach.each_dev]
    | simp [*]

@[simp] theorem Mach.twnCtrl_dev (op : Nat) (v : Vid) (arg fence role size layout : Nat) (m : Mach) : (Mach.twnCtrl op v arg fence role size layout m).dev = m.dev := by
  simp [Mach.twnCtrl]

@[simp] theorem Mach.twnWack_dev (xid : Nat) (v : Vid) (status : Nat) (m : Mach) : (Mach.twnWack xid v status m).dev = m.dev := by
  simp [Mach.twnWack]

@[simp] theorem TwinWait.reply_dev (w : TwinWait) (f : Port → Mach → Mach) (m : Mach) (h : ∀ p, ∀ m : Mach, (f p m).dev = m.dev) :
    (w.reply f m).dev = m.dev := by
  unfold TwinWait.reply; split <;> simp [h]

@[simp] theorem Mach.twnAwait_dev (w : TwinWait) (m : Mach) : (Mach.twnAwait w m).dev = m.dev := by
  simp [Mach.twnAwait]

@[simp] theorem Mach.twnUnwait_dev (w : TwinWait) (m : Mach) : (Mach.twnUnwait w m).dev = m.dev := by
  simp [Mach.twnUnwait]

@[simp] theorem Mach.markDirty_dev (v : Vid) (rs : List Nat) (m : Mach) : (Mach.markDirty v rs m).dev = m.dev := by
  simp [Mach.markDirty]

@[simp] theorem Mach.markWritten_dev (v : Vid) (slba n : Nat) (m : Mach) : (Mach.markWritten v slba n m).dev = m.dev := by
  unfold Mach.markWritten
  try lift_lets
  repeat' first
    | (intro x; first | (have hx : x.dev = m.dev := by
                            simp only [x]
                            repeat' (first | (simp [*]; done) | intro _ | split   | simp [*])
                         clear_value x) | clear_value x)
    | (simp [*]; done)
    | intro _
    | split
    | simp [*]

@[simp] theorem Mach.takeSlot_dev (c : Cmd) (m : Mach) : (Mach.takeSlot c m).1.dev = m.dev := by
  simp [Mach.takeSlot]

@[simp] theorem Mach.freeSlot_dev (s : Nat) (m : Mach) : (Mach.freeSlot s m).dev = m.dev := by
  simp [Mach.freeSlot]

@[simp] theorem Mach.lockPeak_dev (m : Mach) : (Mach.lockPeak m).dev = m.dev := by
  simp [Mach.lockPeak]

@[simp] theorem Mach.twinOpen_dev (s : Nat) (m : Mach) : (Mach.twinOpen s m).dev = m.dev := by
  unfold Mach.twinOpen
  try lift_lets
  repeat' first
    | (intro x; first | (have hx : x.dev = m.dev := by
                            simp only [x]
                            repeat' (first | (simp [*]; done) | intro _ | split   | simp [*])
                         clear_value x) | clear_value x)
    | (simp [*]; done)
    | intro _
    | split
    | simp [*]

@[simp] theorem Mach.admitCmd_dev (s : Nat) (m : Mach) : (Mach.admitCmd s m).dev = m.dev := by
  simp [Mach.admitCmd]

@[simp] theorem Mach.admitWaiter_dev (s : Nat) (m : Mach) : (Mach.admitWaiter s m).dev = m.dev := by
  simp [Mach.admitWaiter]

@[simp] theorem Mach.release_dev (s : Nat) (m : Mach) : (Mach.release s m).dev = m.dev := by
  unfold Mach.release
  try lift_lets
  repeat' first
    | (intro x; first | (have hx : x.dev = m.dev := by
                            simp only [x]
                            repeat' (first | (simp [*]; done) | intro _ | split | rw [Mach.each_dev]  | simp [*])
                         clear_value x) | clear_value x)
    | (simp [*]; done)
    | intro _
    | split
    | rw [Mach.each_dev]
    | simp [*]

@[simp] theorem Mach.enterLock_dev (s : Nat) (m : Mach) : (Mach.enterLock s m).dev = m.dev := by
  unfold Mach.enterLock
  try lift_lets
  repeat' first
    | (intro x; first | (have hx : x.dev = m.dev := by
                            simp only [x]
                            repeat' (first | (simp [*]; done) | intro _ | split   | simp [*])
                         clear_value x) | clear_value x)
    | (simp [*]; done)
    | intro _
    | split
    | simp [*]

@[simp] theorem Mach.post_dev (q : Fin 256) (tag sqhd status dw2 dw3 : Nat) (m : Mach) : (Mach.post q tag sqhd status dw2 dw3 m).dev = m.dev := by
  unfold Mach.post
  try lift_lets
  repeat' first
    | (intro x; first | (have hx : x.dev = m.dev := by
                            simp only [x]
                            repeat' (first | (simp [*]; done) | intro _ | split   | simp [*])
                         clear_value x) | clear_value x)
    | (simp [*]; done)
    | intro _
    | split
    | simp [*]

@[simp] theorem Mach.markCovered_dev (ids : List Nat) (m : Mach) : (Mach.markCovered ids m).dev = m.dev := by
  unfold Mach.markCovered
  try lift_lets
  repeat' first
    | (intro x; first | (have hx : x.dev = m.dev := by
                            simp only [x]
                            repeat' (first | (simp [*]; done) | intro _ | split   | simp [*])
                         clear_value x) | clear_value x)
    | (simp [*]; done)
    | intro _
    | split
    | simp [*]

@[simp] theorem Mach.forgetReads_dev (s : Nat) (m : Mach) : (Mach.forgetReads s m).dev = m.dev := by
  unfold Mach.forgetReads
  repeat' first
    | (simp [*]; done)
    | intro _
    | split
    | simp [*]

@[simp] theorem Mach.complete_dev (s status dw2 dw3 : Nat) (m : Mach) : (Mach.complete s status dw2 dw3 m).dev = m.dev := by
  unfold Mach.complete
  try lift_lets
  repeat' first
    | (intro x; first | (have hx : x.dev = m.dev := by
                            simp only [x]
                            repeat' (first | (simp [*]; done) | intro _ | split   | simp [*])
                         clear_value x) | clear_value x)
    | (simp [*]; done)
    | intro _
    | split
    | simp [*]

@[simp] theorem Mach.settleRx_dev (m : Mach) : (Mach.settleRx m).dev = m.dev := by
  unfold Mach.settleRx
  try lift_lets
  repeat' first
    | (intro x; first | (have hx : x.dev = m.dev := by
                            simp only [x]
                            repeat' (first | (simp [*]; done) | intro _ | split | rw [Mach.each_dev]  | simp [*])
                         clear_value x) | clear_value x)
    | (simp [*]; done)
    | intro _
    | split
    | rw [Mach.each_dev]
    | simp [*]

@[simp] theorem Mach.settleCovers_dev (m : Mach) : (Mach.settleCovers m).dev = m.dev := by
  unfold Mach.settleCovers
  try lift_lets
  repeat' first
    | (intro x; first | (have hx : x.dev = m.dev := by
                            simp only [x]
                            repeat' (first | (simp [*]; done) | intro _ | split | rw [Mach.each_dev]  | simp [*])
                         clear_value x) | clear_value x)
    | (simp [*]; done)
    | intro _
    | split
    | rw [Mach.each_dev]
    | simp [*]

@[simp] theorem Mach.mapCovers_dev (f : Cover → Option Cover) (m : Mach) : (Mach.mapCovers f m).dev = m.dev := by
  unfold Mach.mapCovers
  try lift_lets
  repeat' first
    | (intro x; first | (have hx : x.dev = m.dev := by
                            simp only [x]
                            repeat' (first | (simp [*]; done) | intro _ | split | rw [Mach.each_dev]  | simp [*])
                         clear_value x) | clear_value x)
    | (simp [*]; done)
    | intro _
    | split
    | rw [Mach.each_dev]
    | simp [*]

@[simp] theorem Mach.ask_dev (b : HBody) (m : Mach) : (Mach.ask b m).1.dev = m.dev := by
  simp [Mach.ask]

@[simp] theorem Mach.askFor_dev (b : HBody) (root : Bool) (w : Waiter) (m : Mach) : (Mach.askFor b root w m).dev = m.dev := by
  simp [Mach.askFor]

@[simp] theorem Mach.askDefinition_dev (w : Waiter) (m : Mach) : (Mach.askDefinition w m).dev = m.dev := by
  simp [Mach.askDefinition]

@[simp] theorem Mach.raiseWindow_dev (m : Mach) : (Mach.raiseWindow m).dev = m.dev := by
  unfold Mach.raiseWindow
  try lift_lets
  repeat' first
    | (intro x; first | (have hx : x.dev = m.dev := by
                            simp only [x]
                            repeat' (first | (simp [*]; done) | intro _ | split | rw [Mach.each_dev] | simp [*])
                         clear_value x) | clear_value x)
    | (simp [*]; done)
    | intro _
    | split
    | rw [Mach.each_dev]
    | simp [*]

@[simp] theorem Mach.markSeg_dev (s : Nat) (m : Mach) : (Mach.markSeg s m).dev = m.dev := by
  unfold Mach.markSeg
  try lift_lets
  repeat' first
    | (intro x; first | (have hx : x.dev = m.dev := by
                            simp only [x]
                            repeat' (first | (simp [*]; done) | intro _ | split   | simp [*])
                         clear_value x) | clear_value x)
    | (simp [*]; done)
    | intro _
    | split
    | simp [*]

@[simp] theorem Mach.markTable_dev (off : Nat) (m : Mach) : (Mach.markTable off m).dev = m.dev := by
  simp [Mach.markTable]

@[simp] theorem Mach.putFur_dev (f : Nat) (x : Fur) (m : Mach) : (Mach.putFur f x m).dev = m.dev := by
  simp [Mach.putFur]

@[simp] theorem Mach.putBlk_dev (d b : Nat) (x : Blk) (m : Mach) : (Mach.putBlk d b x m).dev = m.dev := by
  unfold Mach.putBlk
  try lift_lets
  repeat' first
    | (intro x; first | (have hx : x.dev = m.dev := by
                            simp only [x]
                            repeat' (first | (simp [*]; done) | intro _ | split | rw [Mach.each_dev] | simp [*])
                         clear_value x) | clear_value x)
    | (simp [*]; done)
    | intro _
    | split
    | rw [Mach.each_dev]
    | simp [*]

@[simp] theorem Mach.putBad_dev (d : Nat) (x : BadTab) (m : Mach) : (Mach.putBad d x m).dev = m.dev := by
  unfold Mach.putBad
  try lift_lets
  repeat' first
    | (intro x; first | (have hx : x.dev = m.dev := by
                            simp only [x]
                            repeat' (first | (simp [*]; done) | intro _ | split | rw [Mach.each_dev] | simp [*])
                         clear_value x) | clear_value x)
    | (simp [*]; done)
    | intro _
    | split
    | rw [Mach.each_dev]
    | simp [*]

@[simp] theorem Mach.senses_dev (d b n : Nat) (m : Mach) : (Mach.senses d b n m).dev = m.dev := by
  simp [Mach.senses]

@[simp] theorem Mach.enterExhausted_dev (m : Mach) : (Mach.enterExhausted m).dev = m.dev := by
  unfold Mach.enterExhausted
  repeat' first
    | (simp [*]; done)
    | intro _
    | split
    | rw [Mach.each_dev]
    | simp [*]

@[simp] theorem Mach.urgency_dev (m : Mach) : (Mach.urgency m).dev = m.dev := by
  unfold Mach.urgency
  try lift_lets
  repeat' first
    | (intro x; first | (have hx : x.dev = m.dev := by
                            simp only [x]
                            repeat' (first | (simp [*]; done) | intro _ | split   | simp [*])
                         clear_value x) | clear_value x)
    | (simp [*]; done)
    | intro _
    | split
    | simp [*]

@[simp] theorem Mach.addDebt_dev (d : Int) (m : Mach) : (Mach.addDebt d m).dev = m.dev := by
  simp [Mach.addDebt]

@[simp] theorem Mach.endVictim_dev (f : Nat) (m : Mach) : (Mach.endVictim f m).dev = m.dev := by
  simp [Mach.endVictim]

@[simp] theorem Mach.releaseFur_dev (f : Nat) (m : Mach) : (Mach.releaseFur f m).dev = m.dev := by
  simp [Mach.releaseFur]

@[simp] theorem Mach.validUp_dev (f : Nat) (m : Mach) : (Mach.validUp f m).dev = m.dev := by
  simp [Mach.validUp]

@[simp] theorem Mach.validDown_dev (f : Nat) (m : Mach) : (Mach.validDown f m).dev = m.dev := by
  unfold Mach.validDown
  try lift_lets
  repeat' first
    | (intro x; first | (have hx : x.dev = m.dev := by
                            simp only [x]
                            repeat' (first | (simp [*]; done) | intro _ | split   | simp [*])
                         clear_value x) | clear_value x)
    | (simp [*]; done)
    | intro _
    | split
    | simp [*]

@[simp] theorem Mach.closeFur_dev (f : Nat) (m : Mach) : (Mach.closeFur f m).dev = m.dev := by
  unfold Mach.closeFur
  try lift_lets
  repeat' first
    | (intro x; first | (have hx : x.dev = m.dev := by
                            simp only [x]
                            repeat' (first | (simp [*]; done) | intro _ | split   | simp [*])
                         clear_value x) | clear_value x)
    | (simp [*]; done)
    | intro _
    | split
    | simp [*]

@[simp] theorem Mach.allReadOnly_dev (m : Mach) : (Mach.allReadOnly m).dev = m.dev := by
  unfold Mach.allReadOnly
  repeat' first
    | (simp [*]; done)
    | intro _
    | split
    | rw [Mach.each_dev]
    | simp [*]

@[simp] theorem Mach.spareUpdate_dev (m : Mach) : (Mach.spareUpdate m).dev = m.dev := by
  unfold Mach.spareUpdate
  try lift_lets
  repeat' first
    | (intro x; first | (have hx : x.dev = m.dev := by
                            simp only [x]
                            repeat' (first | (simp [*]; done) | intro _ | split   | simp [*])
                         clear_value x) | clear_value x)
    | (simp [*]; done)
    | intro _
    | split
    | simp [*]

@[simp] theorem Mach.retireFur_dev (f : Nat) (m : Mach) : (Mach.retireFur f m).dev = m.dev := by
  unfold Mach.retireFur
  repeat' first
    | (simp [*]; done)
    | intro _
    | split
    | simp [*]

@[simp] theorem Mach.growBad_dev (d b cause : Nat) (m : Mach) : (Mach.growBad d b cause m).dev = m.dev := by
  unfold Mach.growBad
  try lift_lets
  repeat' first
    | (intro x; first | (have hx : x.dev = m.dev := by
                            simp only [x]
                            repeat' (first | (simp [*]; done) | intro _ | split   | simp [*])
                         clear_value x) | clear_value x)
    | (simp [*]; done)
    | intro _
    | split
    | simp [*]

@[simp] theorem Mach.recordBad_dev (d b : Nat) (e : BadEnd) (m : Mach) : (Mach.recordBad d b e m).dev = m.dev := by
  unfold Mach.recordBad
  try lift_lets
  repeat' first
    | (intro x; first | (have hx : x.dev = m.dev := by
                            simp only [x]
                            repeat' (first | (simp [*]; done) | intro _ | split | rw [Mach.each_dev] | simp [*])
                         clear_value x) | clear_value x)
    | (simp [*]; done)
    | intro _
    | split
    | rw [Mach.each_dev]
    | simp [*]

@[simp] theorem Mach.memberBad_dev (c : Chan) (f cause : Nat) (m : Mach) : (Mach.memberBad c f cause m).dev = m.dev := by
  unfold Mach.memberBad
  try lift_lets
  repeat' first
    | (intro x; first | (have hx : x.dev = m.dev := by
                            simp only [x]
                            repeat' (first | (simp [*]; done) | intro _ | split   | simp [*])
                         clear_value x) | clear_value x)
    | (simp [*]; done)
    | intro _
    | split
    | simp [*]

@[simp] theorem Mach.substitute_dev (f : Nat) (c : Chan) (m : Mach) : (Mach.substitute f c m).dev = m.dev := by
  unfold Mach.substitute
  try lift_lets
  repeat' first
    | (intro x; first | (have hx : x.dev = m.dev := by
                            simp only [x]
                            repeat' (first | (simp [*]; done) | intro _ | split   | simp [*])
                         clear_value x) | clear_value x)
    | (simp [*]; done)
    | intro _
    | split
    | simp [*]

@[simp] theorem Mach.makeFallow_dev (f : Nat) (m : Mach) : (Mach.makeFallow f m).dev = m.dev := by
  unfold Mach.makeFallow
  try lift_lets
  repeat' first
    | (intro x; first | (have hx : x.dev = m.dev := by
                            simp only [x]
                            repeat' (first | (simp [*]; done) | intro _ | split | rw [Mach.each_dev]  | simp [*])
                         clear_value x) | clear_value x)
    | (simp [*]; done)
    | intro _
    | split
    | rw [Mach.each_dev]
    | simp [*]

@[simp] theorem Mach.takeFrame_dev (key : Nat) (m : Mach) : (Mach.takeFrame key m).dev = m.dev := by
  unfold Mach.takeFrame
  repeat' first
    | (simp [*]; done)
    | intro _
    | split
    | simp [*]

@[simp] theorem Mach.addPoison_dev (dpa len src : Nat) (m : Mach) : (Mach.addPoison dpa len src m).dev = m.dev := by
  unfold Mach.addPoison; simp

@[simp] theorem Mach.dropPoison_dev (p : Nat × Nat × Nat → Bool) (m : Mach) : (Mach.dropPoison p m).dev = m.dev := by
  simp [Mach.dropPoison]

@[simp] theorem Mach.unlose_dev (key frame page line : Nat) (m : Mach) : (Mach.unlose key frame page line m).dev = m.dev := by
  unfold Mach.unlose
  repeat' first
    | (simp [*]; done)
    | intro _
    | split
    | simp [*]

@[simp] theorem Mach.loseLine_dev (frame page line : Nat) (m : Mach) : (Mach.loseLine frame page line m).dev = m.dev := by
  unfold Mach.loseLine
  repeat' first
    | (simp [*]; done)
    | intro _
    | split
    | simp [*]

@[simp] theorem Mach.putLine_dev (key frame page line : Nat) (d : Line) (m : Mach) : (Mach.putLine key frame page line d m).dev = m.dev := by
  simp [Mach.putLine]

@[simp] theorem Mach.putPage_dev (key frame page : Nat) (d : Block) (m : Mach) : (Mach.putPage key frame page d m).dev = m.dev := by
  unfold Mach.putPage
  repeat' first
    | (simp [*]; done)
    | intro _
    | split
    | rw [Mach.each_dev]
    | simp [*]

@[simp] theorem Mach.frameCheck_dev (key : Nat) (m : Mach) : (Mach.frameCheck key m).dev = m.dev := by
  unfold Mach.frameCheck
  try lift_lets
  repeat' first
    | (intro x; first | (have hx : x.dev = m.dev := by
                            simp only [x]
                            repeat' (first | (simp [*]; done) | intro _ | split   | simp [*])
                         clear_value x) | clear_value x)
    | (simp [*]; done)
    | intro _
    | split
    | simp [*]

@[simp] theorem Mach.setLnt_dev (i : Nat) (x : LntEnt) (m : Mach) : (Mach.setLnt i x m).dev = m.dev := by
  simp [Mach.setLnt]

@[simp] theorem Mach.lntInstall_dev (key : Nat) (changed : Bool) (m : Mach) : (Mach.lntInstall key changed m).dev = m.dev := by
  unfold Mach.lntInstall
  try lift_lets
  repeat' first
    | (intro x; first | (have hx : x.dev = m.dev := by
                            simp only [x]
                            repeat' (first | (simp [*]; done) | intro _ | split   | simp [*])
                         clear_value x) | clear_value x)
    | (simp [*]; done)
    | intro _
    | split
    | simp [*]

@[simp] theorem Mach.lntUpdate_dev (key : Nat) (changed : Bool) (m : Mach) : (Mach.lntUpdate key changed m).dev = m.dev := by
  unfold Mach.lntUpdate
  repeat' first
    | (simp [*]; done)
    | intro _
    | split
    | simp [*]

@[simp] theorem Mach.putDesc_dev (key : Nat) (d : Desc) (m : Mach) : (Mach.putDesc key d m).dev = m.dev := by
  simp [Mach.putDesc]

@[simp] theorem Mach.capCheck_dev (m : Mach) : (Mach.capCheck m).dev = m.dev := by
  unfold Mach.capCheck
  try lift_lets
  repeat' first
    | (intro x; first | (have hx : x.dev = m.dev := by
                            simp only [x]
                            repeat' (first | (simp [*]; done) | intro _ | split   | simp [*])
                         clear_value x) | clear_value x)
    | (simp [*]; done)
    | intro _
    | split
    | simp [*]

@[simp] theorem Mach.taint_dev (key p : Nat) (ext : Bool) (m : Mach) : (Mach.taint key p ext m).dev = m.dev := by
  unfold Mach.taint
  try lift_lets
  repeat' first
    | (intro x; first | (have hx : x.dev = m.dev := by
                            simp only [x]
                            repeat' (first | (simp [*]; done) | intro _ | split   | simp [*])
                         clear_value x) | clear_value x)
    | (simp [*]; done)
    | intro _
    | split
    | simp [*]

@[simp] theorem Mach.untaint_dev (key p : Nat) (m : Mach) : (Mach.untaint key p m).dev = m.dev := by
  unfold Mach.untaint
  try lift_lets
  repeat' first
    | (intro x; first | (have hx : x.dev = m.dev := by
                            simp only [x]
                            repeat' (first | (simp [*]; done) | intro _ | split   | simp [*])
                         clear_value x) | clear_value x)
    | (simp [*]; done)
    | intro _
    | split
    | simp [*]

@[simp] theorem Mach.taintBlock_dev (key : Nat) (m : Mach) : (Mach.taintBlock key m).dev = m.dev := by
  unfold Mach.taintBlock
  repeat' first
    | (simp [*]; done)
    | intro _
    | split
    | simp [*]

@[simp] theorem Mach.darken_dev (key p : Nat) (m : Mach) : (Mach.darken key p m).dev = m.dev := by
  simp [Mach.darken]

@[simp] theorem Mach.pendlCheck_dev (key mu : Nat) (m : Mach) : (Mach.pendlCheck key mu m).dev = m.dev := by
  unfold Mach.pendlCheck
  repeat' first
    | (simp [*]; done)
    | intro _
    | split
    | simp [*]

@[simp] theorem Mach.pendlRange_dev (v : Vid) (slba n : Nat) (m : Mach) : (Mach.pendlRange v slba n m).dev = m.dev := by
  unfold Mach.pendlRange
  repeat' first
    | (simp [*]; done)
    | intro _
    | split
    | rw [Mach.each_dev]
    | simp [*]

@[simp] theorem Mach.pendlOf_dev (s off : Nat) (m : Mach) : (Mach.pendlOf s off m).dev = m.dev := by
  unfold Mach.pendlOf
  try lift_lets
  repeat' first
    | (intro x; first | (have hx : x.dev = m.dev := by
                            simp only [x]
                            repeat' (first | (simp [*]; done) | intro _ | split | rw [Mach.each_dev] | simp [*])
                         clear_value x) | clear_value x)
    | (simp [*]; done)
    | intro _
    | split
    | rw [Mach.each_dev]
    | simp [*]

@[simp] theorem Mach.pendwCheck_dev (key mu : Nat) (m : Mach) : (Mach.pendwCheck key mu m).dev = m.dev := by
  unfold Mach.pendwCheck
  try lift_lets
  repeat' first
    | (intro x; first | (have hx : x.dev = m.dev := by
                            simp only [x]
                            repeat' (first | (simp [*]; done) | intro _ | split | rw [Mach.each_dev] | simp [*])
                         clear_value x) | clear_value x)
    | (simp [*]; done)
    | intro _
    | split
    | rw [Mach.each_dev]
    | simp [*]

@[simp] theorem Mach.wbClear_dev (s k p : Nat) (m : Mach) : (Mach.wbClear s k p m).dev = m.dev := by
  unfold Mach.wbClear
  try lift_lets
  repeat' first
    | (intro x; first | (have hx : x.dev = m.dev := by
                            simp only [x]
                            repeat' (first | (simp [*]; done) | intro _ | split | rw [Mach.each_dev] | simp [*])
                         clear_value x) | clear_value x)
    | (simp [*]; done)
    | intro _
    | split
    | rw [Mach.each_dev]
    | simp [*]

@[simp] theorem Mach.wbUndo_dev (s k p : Nat) (m : Mach) : (Mach.wbUndo s k p m).dev = m.dev := by
  unfold Mach.wbUndo
  try lift_lets
  repeat' first
    | (intro x; first | (have hx : x.dev = m.dev := by
                            simp only [x]
                            repeat' (first | (simp [*]; done) | intro _ | split | rw [Mach.each_dev] | simp [*])
                         clear_value x) | clear_value x)
    | (simp [*]; done)
    | intro _
    | split
    | rw [Mach.each_dev]
    | simp [*]

@[simp] theorem Mach.wbAbandon_dev (s : Nat) (m : Mach) : (Mach.wbAbandon s m).dev = m.dev := by
  unfold Mach.wbAbandon
  try lift_lets
  repeat' first
    | (intro x; first | (have hx : x.dev = m.dev := by
                            simp only [x]
                            repeat' (first | (simp [*]; done) | intro _ | split | rw [Mach.each_dev] | simp [*])
                         clear_value x) | clear_value x)
    | (simp [*]; done)
    | intro _
    | split
    | rw [Mach.each_dev]
    | simp [*]

@[simp] theorem Mach.cutWith_dev (s status dw2 dw3 : Nat) (m : Mach) : (Mach.cutWith s status dw2 dw3 m).dev = m.dev := by
  unfold Mach.cutWith
  try lift_lets
  repeat' first
    | (intro x; first | (have hx : x.dev = m.dev := by
                            simp only [x]
                            repeat' (first | (simp [*]; done) | intro _ | split | rw [Mach.each_dev] | simp [*])
                         clear_value x) | clear_value x)
    | (simp [*]; done)
    | intro _
    | split
    | rw [Mach.each_dev]
    | simp [*]

@[simp] theorem Mach.cutShort_dev (s status : Nat) (m : Mach) : (Mach.cutShort s status m).dev = m.dev := by
  unfold Mach.cutShort
  try lift_lets
  repeat' first
    | (intro x; first | (have hx : x.dev = m.dev := by
                            simp only [x]
                            repeat' (first | (simp [*]; done) | intro _ | split   | simp [*])
                         clear_value x) | clear_value x)
    | (simp [*]; done)
    | intro _
    | split
    | simp [*]

@[simp] theorem Mach.darkRegions_dev (v : Vid) (m : Mach) : (Mach.darkRegions v m).dev = m.dev := by
  unfold Mach.darkRegions
  try lift_lets
  repeat' first
    | (intro x; first | (have hx : x.dev = m.dev := by
                            simp only [x]
                            repeat' (first | (simp [*]; done) | intro _ | split | rw [Mach.each_dev]  | simp [*])
                         clear_value x) | clear_value x)
    | (simp [*]; done)
    | intro _
    | split
    | rw [Mach.each_dev]
    | simp [*]

@[simp] theorem Mach.health_dev (f : Health → Health) (m : Mach) : (Mach.health f m).dev = m.dev := by
  simp [Mach.health]

@[simp] theorem Mach.queueOp_dev (c : Chan) (row : Row) (r : Req) (k : OpKind) (m : Mach) : (Mach.queueOp c row r k m).dev = m.dev := by
  unfold Mach.queueOp
  repeat' first
    | (simp [*]; done)
    | intro _
    | split
    | simp [*]

@[simp] theorem Mach.setTask_dev (t : RdTask) (m : Mach) : (Mach.setTask t m).dev = m.dev := by
  simp [Mach.setTask]

@[simp] theorem Mach.dropTask_dev (id : Nat) (m : Mach) : (Mach.dropTask id m).dev = m.dev := by
  unfold Mach.dropTask
  try lift_lets
  repeat' first
    | (intro x; first | (have hx : x.dev = m.dev := by
                            simp only [x]
                            repeat' (first | (simp [*]; done) | intro _ | split | rw [Mach.each_dev] | simp [*])
                         clear_value x) | clear_value x)
    | (simp [*]; done)
    | intro _
    | split
    | rw [Mach.each_dev]
    | simp [*]

@[simp] theorem Mach.readPeer_dev (t : RdTask) (p : Peer) (m : Mach) : (Mach.readPeer t p m).dev = m.dev := by
  unfold Mach.readPeer
  try lift_lets
  repeat' first
    | (intro x; first | (have hx : x.dev = m.dev := by
                            simp only [x]
                            repeat' (first | (simp [*]; done) | intro _ | split | rw [Mach.each_dev] | simp [*])
                         clear_value x) | clear_value x)
    | (simp [*]; done)
    | intro _
    | split
    | rw [Mach.each_dev]
    | simp [*]

@[simp] theorem Mach.beginStage4_dev (t : RdTask) (m : Mach) : (Mach.beginStage4 t m).dev = m.dev := by
  unfold Mach.beginStage4
  try lift_lets
  repeat' first
    | (intro x; first | (have hx : x.dev = m.dev := by
                            simp only [x]
                            repeat' (first | (simp [*]; done) | intro _ | split | rw [Mach.each_dev] | simp [*])
                         clear_value x) | clear_value x)
    | (simp [*]; done)
    | intro _
    | split
    | rw [Mach.each_dev]
    | simp [*]

@[simp] theorem Mach.peerEnded_dev (task : Nat) (r : PeerRole) (b : Option Body) (m : Mach) : (Mach.peerEnded task r b m).dev = m.dev := by
  unfold Mach.peerEnded
  try lift_lets
  repeat' first
    | (intro x; first | (have hx : x.dev = m.dev := by
                            simp only [x]
                            repeat' (first | (simp [*]; done) | intro _ | split | rw [Mach.each_dev] | simp [*])
                         clear_value x) | clear_value x)
    | (simp [*]; done)
    | intro _
    | split
    | rw [Mach.each_dev]
    | simp [*]

@[simp] theorem Mach.escalate_dev (t : RdTask) (m : Mach) : (Mach.escalate t m).dev = m.dev := by
  unfold Mach.escalate
  try lift_lets
  repeat' first
    | (intro x; first | (have hx : x.dev = m.dev := by
                            simp only [x]
                            repeat' (first | (simp [*]; done) | intro _ | split | rw [Mach.each_dev] | simp [*])
                         clear_value x) | clear_value x)
    | (simp [*]; done)
    | intro _
    | split
    | rw [Mach.each_dev]
    | simp [*]

@[simp] theorem Mach.startRead_dev (a : BitVec 40) (v : Vid) (lba : Nat) (r : Req) (w : RdFor) (m : Mach) : (Mach.startRead a v lba r w m).dev = m.dev := by
  unfold Mach.startRead
  try lift_lets
  repeat' first
    | (intro x; first | (have hx : x.dev = m.dev := by
                            simp only [x]
                            repeat' (first | (simp [*]; done) | intro _ | split   | simp [*])
                         clear_value x) | clear_value x)
    | (simp [*]; done)
    | intro _
    | split
    | simp [*]

@[simp] theorem Mach.recoverSegment_dev (i : Nat) (m : Mach) : (Mach.recoverSegment i m).dev = m.dev := by
  unfold Mach.recoverSegment
  repeat' first
    | (simp [*]; done)
    | intro _
    | split
    | simp [*]

@[simp] theorem Mach.badEntry_dev (v : Vid) (lba : Nat) (m : Mach) : (Mach.badEntry v lba m).dev = m.dev := by
  unfold Mach.badEntry
  repeat' first
    | (simp [*]; done)
    | intro _
    | split
    | simp [*]

@[simp] theorem Mach.observeBuf_dev (m : Mach) : (Mach.observeBuf m).dev = m.dev := by
  simp [Mach.observeBuf]

@[simp] theorem Mach.setVer_dev (x : Ver) (m : Mach) : (Mach.setVer x m).dev = m.dev := by
  simp [Mach.setVer]

@[simp] theorem Mach.dropVers_dev (ids : List Nat) (m : Mach) : (Mach.dropVers ids m).dev = m.dev := by
  unfold Mach.dropVers
  try lift_lets
  repeat' first
    | (intro x; first | (have hx : x.dev = m.dev := by
                            simp only [x]
                            repeat' (first | (simp [*]; done) | intro _ | split | rw [Mach.each_dev] | simp [*])
                         clear_value x) | clear_value x)
    | (simp [*]; done)
    | intro _
    | split
    | rw [Mach.each_dev]
    | simp [*]

@[simp] theorem Mach.dropVer_dev (id : Nat) (m : Mach) : (Mach.dropVer id m).dev = m.dev := by
  simp [Mach.dropVer]

@[simp] theorem Mach.failCovers_dev (id : Nat) (m : Mach) : (Mach.failCovers id m).dev = m.dev := by
  unfold Mach.failCovers
  try lift_lets
  repeat' first
    | (intro x; first | (have hx : x.dev = m.dev := by
                            simp only [x]
                            repeat' (first | (simp [*]; done) | intro _ | split | rw [Mach.each_dev]  | simp [*])
                         clear_value x) | clear_value x)
    | (simp [*]; done)
    | intro _
    | split
    | rw [Mach.each_dev]
    | simp [*]

@[simp] theorem Mach.supersedeHeld_dev (x : Ver) (m : Mach) : (Mach.supersedeHeld x m).dev = m.dev := by
  unfold Mach.supersedeHeld
  try lift_lets
  repeat' first
    | (intro x; first | (have hx : x.dev = m.dev := by
                            simp only [x]
                            repeat' (first | (simp [*]; done) | intro _ | split | rw [Mach.each_dev] | simp [*])
                         clear_value x) | clear_value x)
    | (simp [*]; done)
    | intro _
    | split
    | rw [Mach.each_dev]
    | simp [*]

@[simp] theorem Mach.finishVer_dev (id : Nat) (m : Mach) : (Mach.finishVer id m).dev = m.dev := by
  unfold Mach.finishVer
  try lift_lets
  repeat' first
    | (intro x; first | (have hx : x.dev = m.dev := by
                            simp only [x]
                            repeat' (first | (simp [*]; done) | intro _ | split   | simp [*])
                         clear_value x) | clear_value x)
    | (simp [*]; done)
    | intro _
    | split
    | simp [*]

theorem Mach.ite_dev_eq (c : Prop) [Decidable c] (a b m : Mach) (ha : a.dev = m.dev) (hb : b.dev = m.dev) :
    (if c then a else b).dev = m.dev := by
  split
  · exact ha
  · exact hb

@[simp] theorem Mach.fillLb_dev (id lb : Nat) (m : Mach) : (Mach.fillLb id lb m).dev = m.dev := by
  unfold Mach.fillLb
  dsimp only
  split
  · rfl
  · split
    · rfl
    · split
      · split <;> simp
      · generalize m.mapSrc _ _ = r
        cases r <;> simp

@[simp] theorem Mach.seal_dev (id : Nat) (m : Mach) : (Mach.seal id m).dev = m.dev := by
  unfold Mach.seal
  repeat' first
    | (simp [*]; done)
    | intro _
    | split
    | simp [*]

@[simp] theorem Mach.acceptLb_dev (v : Vid) (lba : Nat) (d : Block) (pos : Fin 8) (lampwb dealloc : Bool) (m : Mach) : (Mach.acceptLb v lba d pos lampwb dealloc m).1.dev = m.dev := by
  unfold Mach.acceptLb
  try lift_lets
  repeat' first
    | (intro x; first | (have hx : x.dev = m.dev := by
                            simp only [x]
                            repeat' (first | (simp [*]; done) | intro _ | split   | simp [*])
                         clear_value x) | clear_value x)
    | (simp [*]; done)
    | intro _
    | split
    | simp [*]

@[simp] theorem Mach.discardVers_dev (l : List Ver) (m : Mach) : (Mach.discardVers l m).dev = m.dev := by
  unfold Mach.discardVers
  try lift_lets
  repeat' first
    | (intro x; first | (have hx : x.dev = m.dev := by
                            simp only [x]
                            repeat' (first | (simp [*]; done) | intro _ | split | rw [Mach.each_dev] | simp [*])
                         clear_value x) | clear_value x)
    | (simp [*]; done)
    | intro _
    | split
    | rw [Mach.each_dev]
    | simp [*]

@[simp] theorem Mach.discardHeld_dev (m : Mach) : (Mach.discardHeld m).dev = m.dev := by
  unfold Mach.discardHeld
  repeat' first
    | (simp [*]; done)
    | intro _
    | split
    | simp [*]

@[simp] theorem Mach.makeRoom_dev (v : Vid) (lba : Nat) (m : Mach) : (Mach.makeRoom v lba m).dev = m.dev := by
  unfold Mach.makeRoom
  repeat' first
    | (simp [*]; done)
    | intro _
    | split
    | simp [*]

@[simp] theorem Mach.setEntry_dev (i : Nat) (e : BitVec 40) (m : Mach) : (Mach.setEntry i e m).dev = m.dev := by
  unfold Mach.setEntry
  try lift_lets
  repeat' first
    | (intro x; first | (have hx : x.dev = m.dev := by
                            simp only [x]
                            repeat' (first | (simp [*]; done) | intro _ | split | rw [Mach.each_dev]  | simp [*])
                         clear_value x) | clear_value x)
    | (simp [*]; done)
    | intro _
    | split
    | rw [Mach.each_dev]
    | simp [*]

@[simp] theorem Mach.installAt_dev (i wsn : Nat) (e : BitVec 40) (ver : Option Nat) (m : Mach) : (Mach.installAt i wsn e ver m).dev = m.dev := by
  unfold Mach.installAt
  try lift_lets
  repeat' first
    | (intro x; first | (have hx : x.dev = m.dev := by
                            simp only [x]
                            repeat' (first | (simp [*]; done) | intro _ | split | rw [Mach.each_dev] | simp [*])
                         clear_value x) | clear_value x)
    | (simp [*]; done)
    | intro _
    | split
    | rw [Mach.each_dev]
    | simp [*]

@[simp] theorem Mach.install_dev (v : Vid) (mu wsn : Nat) (e : BitVec 40) (ver : Option Nat) (m : Mach) : (Mach.install v mu wsn e ver m).dev = m.dev := by
  unfold Mach.install
  try lift_lets
  repeat' first
    | (intro x; first | (have hx : x.dev = m.dev := by
                            simp only [x]
                            repeat' (first | (simp [*]; done) | intro _ | split | rw [Mach.each_dev] | simp [*])
                         clear_value x) | clear_value x)
    | (simp [*]; done)
    | intro _
    | split
    | rw [Mach.each_dev]
    | simp [*]

@[simp] theorem Mach.discardOlder_dev (v : Vid) (mu wsn rec : Nat) (m : Mach) : (Mach.discardOlder v mu wsn rec m).dev = m.dev := by
  unfold Mach.discardOlder
  try lift_lets
  repeat' first
    | (intro x; first | (have hx : x.dev = m.dev := by
                            simp only [x]
                            repeat' (first | (simp [*]; done) | intro _ | split   | simp [*])
                         clear_value x) | clear_value x)
    | (simp [*]; done)
    | intro _
    | split
    | simp [*]

@[simp] theorem Mach.unstage_dev (which : Copy → Bool) (m : Mach) : (Mach.unstage which m).dev = m.dev := by
  unfold Mach.unstage
  try lift_lets
  repeat' first
    | (intro x; first | (have hx : x.dev = m.dev := by
                            simp only [x]
                            repeat' (first | (simp [*]; done) | intro _ | split | rw [Mach.each_dev] | simp [*])
                         clear_value x) | clear_value x)
    | (simp [*]; done)
    | intro _
    | split
    | rw [Mach.each_dev]
    | simp [*]

@[simp] theorem Mach.askProvpar_dev (fsn page : Nat) (m : Mach) : (Mach.askProvpar fsn page m).dev = m.dev := by
  unfold Mach.askProvpar
  try lift_lets
  repeat' first
    | (intro x; first | (have hx : x.dev = m.dev := by
                            simp only [x]
                            repeat' (first | (simp [*]; done) | intro _ | split   | simp [*])
                         clear_value x) | clear_value x)
    | (simp [*]; done)
    | intro _
    | split
    | simp [*]

@[simp] theorem Mach.stripeSafe_dev (fsn page : Nat) (mask : Word) (m : Mach) : (Mach.stripeSafe fsn page mask m).dev = m.dev := by
  unfold Mach.stripeSafe
  try lift_lets
  repeat' first
    | (intro x; first | (have hx : x.dev = m.dev := by
                            simp only [x]
                            repeat' (first | (simp [*]; done) | intro _ | split   | simp [*])
                         clear_value x) | clear_value x)
    | (simp [*]; done)
    | intro _
    | split
    | simp [*]

@[simp] theorem Mach.pushVers_dev (ids : List Nat) (m : Mach) : (Mach.pushVers ids m).dev = m.dev := by
  unfold Mach.pushVers
  try lift_lets
  repeat' first
    | (intro x; first | (have hx : x.dev = m.dev := by
                            simp only [x]
                            repeat' (first | (simp [*]; done) | intro _ | split | rw [Mach.each_dev]  | simp [*])
                         clear_value x) | clear_value x)
    | (simp [*]; done)
    | intro _
    | split
    | rw [Mach.each_dev]
    | simp [*]

@[simp] theorem Mach.sendLb_dev (c : Cmd) (off : Nat) (d : Block) (m : Mach) : (Mach.sendLb c off d m).dev = m.dev := by
  unfold Mach.sendLb
  split
  · rfl
  · rename_i p _
    have h : ∀ (r : Bool) (l : List (Nat × Nat)) (a : Mach × Nat), (l.foldl (fun (a : Mach × Nat) x =>
        (a.1.send (.hostData p x.1 x.2 (d >>> (8 * a.2)) r), a.2 + x.2)) a).1.dev = a.1.dev := by
      intro r l
      induction l with
      | nil => intro a; rfl
      | cons b l ih => intro a; rw [List.foldl_cons, ih]; simp
    rw [h]

@[simp] theorem Mach.sendReads_dev (p : Port) (s : Nat) (m : Mach) : (Mach.sendReads p s m).dev = m.dev := by
  unfold Mach.sendReads
  try lift_lets
  repeat' first
    | (intro x; first | (have hx : x.dev = m.dev := by
                            simp only [x]
                            repeat' (first | (simp [*]; done) | intro _ | split | rw [Mach.each_dev] | simp [*])
                         clear_value x) | clear_value x)
    | (simp [*]; done)
    | intro _
    | split
    | rw [Mach.each_dev]
    | simp [*]

@[simp] theorem Mach.readDone_dev (s : Nat) (m : Mach) : (Mach.readDone s m).dev = m.dev := by
  unfold Mach.readDone
  try lift_lets
  repeat' first
    | (intro x; first | (have hx : x.dev = m.dev := by
                            simp only [x]
                            repeat' (first | (simp [*]; done) | intro _ | split   | simp [*])
                         clear_value x) | clear_value x)
    | (simp [*]; done)
    | intro _
    | split
    | simp [*]

@[simp] theorem Mach.readLb_dev (s off status : Nat) (d : Block) (rebuilt : Bool) (m : Mach) : (Mach.readLb s off status d rebuilt m).dev = m.dev := by
  unfold Mach.readLb
  try lift_lets
  repeat' first
    | (intro x; first | (have hx : x.dev = m.dev := by
                            simp only [x]
                            repeat' (first | (simp [*]; done) | intro _ | split   | simp [*])
                         clear_value x) | clear_value x)
    | (simp [*]; done)
    | intro _
    | split
    | simp [*]

@[simp] theorem Mach.lightDone_dev (s : Nat) (m : Mach) : (Mach.lightDone s m).dev = m.dev := by
  unfold Mach.lightDone
  try lift_lets
  repeat' first
    | (intro x; first | (have hx : x.dev = m.dev := by
                            simp only [x]
                            repeat' (first | (simp [*]; done) | intro _ | split | rw [Mach.each_dev]  | simp [*])
                         clear_value x) | clear_value x)
    | (simp [*]; done)
    | intro _
    | split
    | rw [Mach.each_dev]
    | simp [*]

@[simp] theorem Mach.lightFail_dev (s off status : Nat) (m : Mach) : (Mach.lightFail s off status m).dev = m.dev := by
  simp [Mach.lightFail]

@[simp] theorem Mach.addFill_dev (task s off : Nat) (d : Block) (m : Mach) : (Mach.addFill task s off d m).dev = m.dev := by
  simp [Mach.addFill]

@[simp] theorem Mach.setRs_dev (v : Vid) (x : Resync) (m : Mach) : (Mach.setRs v x m).dev = m.dev := by
  simp [Mach.setRs]

@[simp] theorem Mach.pieceLb_dev (s off status : Nat) (d : Block) (m : Mach) : (Mach.pieceLb s off status d m).dev = m.dev := by
  unfold Mach.pieceLb
  try lift_lets
  repeat' first
    | (intro x; first | (have hx : x.dev = m.dev := by
                            simp only [x]
                            repeat' (first | (simp [*]; done) | intro _ | split   | simp [*])
                         clear_value x) | clear_value x)
    | (simp [*]; done)
    | intro _
    | split
    | simp [*]

@[simp] theorem Mach.sendRun_dev (v : Vid) (slba : Nat) (data : SMap Block) (run : Nat × Nat) (m : Mach) :
    (Mach.sendRun v slba data run m).dev = m.dev := by
  unfold Mach.sendRun
  dsimp only
  rw [Mach.each_dev]
  · simp
  · intro k m; simp

@[simp] theorem Mach.sendHole_dev (v : Vid) (slba mu : Nat) (m : Mach) : (Mach.sendHole v slba mu m).dev = m.dev := by
  simp [Mach.sendHole]

@[simp] theorem Mach.pieceSend_dev (s : Nat) (m : Mach) : (Mach.pieceSend s m).dev = m.dev := by
  unfold Mach.pieceSend
  try lift_lets
  repeat' first
    | (intro x; first | (have hx : x.dev = m.dev := by
                            simp only [x]
                            repeat' (first | (simp [*]; done) | intro _ | split | rw [Mach.each_dev]  | simp [*])
                         clear_value x) | clear_value x)
    | (simp [*]; done)
    | intro _
    | split
    | rw [Mach.each_dev]
    | simp [*]

@[simp] theorem Mach.pieceDone_dev (s : Nat) (m : Mach) : (Mach.pieceDone s m).dev = m.dev := by
  unfold Mach.pieceDone
  try lift_lets
  repeat' first
    | (intro x; first | (have hx : x.dev = m.dev := by
                            simp only [x]
                            repeat' (first | (simp [*]; done) | intro _ | split   | simp [*])
                         clear_value x) | clear_value x)
    | (simp [*]; done)
    | intro _
    | split
    | simp [*]

@[simp] theorem Mach.rmwLb_dev (id lb status : Nat) (d : Block) (m : Mach) : (Mach.rmwLb id lb status d m).dev = m.dev := by
  unfold Mach.rmwLb
  try lift_lets
  repeat' first
    | (intro x; first | (have hx : x.dev = m.dev := by
                            simp only [x]
                            repeat' (first | (simp [*]; done) | intro _ | split   | simp [*])
                         clear_value x) | clear_value x)
    | (simp [*]; done)
    | intro _
    | split
    | simp [*]

@[simp] theorem Mach.deliver_dev (task status : Nat) (d : Block) (rebuilt : Bool) (w : RdFor) (m : Mach) : (Mach.deliver task status d rebuilt w m).dev = m.dev := by
  unfold Mach.deliver
  repeat' first
    | (simp [*]; done)
    | intro _
    | split
    | simp [*]

@[simp] theorem Mach.readEnds_dev (a : BitVec 40) (status stage n : Nat) (m : Mach) : (Mach.readEnds a status stage n m).dev = m.dev := by
  unfold Mach.readEnds
  try lift_lets
  repeat' first
    | (intro x; first | (have hx : x.dev = m.dev := by
                            simp only [x]
                            repeat' (first | (simp [*]; done) | intro _ | split | rw [Mach.each_dev] | simp [*])
                         clear_value x) | clear_value x)
    | (simp [*]; done)
    | intro _
    | split
    | rw [Mach.each_dev]
    | simp [*]

@[simp] theorem Mach.endTask_dev (t : RdTask) (status : Nat) (m : Mach) : (Mach.endTask t status m).dev = m.dev := by
  unfold Mach.endTask
  try lift_lets
  repeat' first
    | (intro x; first | (have hx : x.dev = m.dev := by
                            simp only [x]
                            repeat' (first | (simp [*]; done) | intro _ | split | rw [Mach.each_dev]  | simp [*])
                         clear_value x) | clear_value x)
    | (simp [*]; done)
    | intro _
    | split
    | rw [Mach.each_dev]
    | simp [*]

@[simp] theorem Mach.flagRefresh_dev (f : Nat) (m : Mach) : (Mach.flagRefresh f m).dev = m.dev := by
  unfold Mach.flagRefresh
  try lift_lets
  repeat' first
    | (intro x; first | (have hx : x.dev = m.dev := by
                            simp only [x]
                            repeat' (first | (simp [*]; done) | intro _ | split   | simp [*])
                         clear_value x) | clear_value x)
    | (simp [*]; done)
    | intro _
    | split
    | simp [*]

@[simp] theorem Mach.stage4Fails_dev (t : RdTask) (m : Mach) : (Mach.stage4Fails t m).dev = m.dev := by
  simp [Mach.stage4Fails]

@[simp] theorem Mach.decrypted_dev (enc : Bool) (m : Mach) : (Mach.decrypted enc m).dev = m.dev := by
  unfold Mach.decrypted
  try lift_lets
  repeat' first
    | (intro x; first | (have hx : x.dev = m.dev := by
                            simp only [x]
                            repeat' (first | (simp [*]; done) | intro _ | split | rw [Mach.each_dev] | simp [*])
                         clear_value x) | clear_value x)
    | (simp [*]; done)
    | intro _
    | split
    | rw [Mach.each_dev]
    | simp [*]

@[simp] theorem Mach.checkCw_dev (t : RdTask) (k : CwCheck) (m : Mach) : (Mach.checkCw t k m).dev = m.dev := by
  unfold Mach.checkCw
  try lift_lets
  repeat' first
    | (intro x; first | (have hx : x.dev = m.dev := by
                            simp only [x]
                            repeat' (first | (simp [*]; done) | intro _ | split   | simp [*])
                         clear_value x) | clear_value x)
    | (simp [*]; done)
    | intro _
    | split
    | simp [*]

@[simp] theorem Mach.checkPeer_dev (t : RdTask) (task : Nat) (r : PeerRole) (k : CwCheck) (m : Mach) : (Mach.checkPeer t task r k m).dev = m.dev := by
  unfold Mach.checkPeer
  try lift_lets
  repeat' first
    | (intro x; first | (have hx : x.dev = m.dev := by
                            simp only [x]
                            repeat' (first | (simp [*]; done) | intro _ | split | rw [Mach.each_dev] | simp [*])
                         clear_value x) | clear_value x)
    | (simp [*]; done)
    | intro _
    | split
    | rw [Mach.each_dev]
    | simp [*]

@[simp] theorem Mach.decoded_dev (t : RdTask) (k : CwCheck) (m : Mach) : (Mach.decoded t k m).dev = m.dev := by
  unfold Mach.decoded
  try lift_lets
  repeat' first
    | (intro x; first | (have hx : x.dev = m.dev := by
                            simp only [x]
                            repeat' (first | (simp [*]; done) | intro _ | split | rw [Mach.each_dev] | simp [*])
                         clear_value x) | clear_value x)
    | (simp [*]; done)
    | intro _
    | split
    | rw [Mach.each_dev]
    | simp [*]

@[simp] theorem Mach.hardCounts_dev (a : BitVec 40) (d : HardDecode) (m : Mach) : (Mach.hardCounts a d m).dev = m.dev := by
  unfold Mach.hardCounts
  try lift_lets
  repeat' first
    | (intro x; first | (have hx : x.dev = m.dev := by
                            simp only [x]
                            repeat' (first | (simp [*]; done) | intro _ | split | rw [Mach.each_dev] | simp [*])
                         clear_value x) | clear_value x)
    | (simp [*]; done)
    | intro _
    | split
    | rw [Mach.each_dev]
    | simp [*]

@[simp] theorem Mach.beginSoft_dev (t : RdTask) (m : Mach) : (Mach.beginSoft t m).dev = m.dev := by
  unfold Mach.beginSoft
  try lift_lets
  repeat' first
    | (intro x; first | (have hx : x.dev = m.dev := by
                            simp only [x]
                            repeat' (first | (simp [*]; done) | intro _ | split | rw [Mach.each_dev] | simp [*])
                         clear_value x) | clear_value x)
    | (simp [*]; done)
    | intro _
    | split
    | rw [Mach.each_dev]
    | simp [*]

@[simp] theorem Mach.hardDone_dev (t : RdTask) (d : HardDecode) (k : CwCheck) (m : Mach) : (Mach.hardDone t d k m).dev = m.dev := by
  unfold Mach.hardDone
  try lift_lets
  repeat' first
    | (intro x; first | (have hx : x.dev = m.dev := by
                            simp only [x]
                            repeat' (first | (simp [*]; done) | intro _ | split   | simp [*])
                         clear_value x) | clear_value x)
    | (simp [*]; done)
    | intro _
    | split
    | simp [*]

@[simp] theorem Mach.hardFailed_dev (t : RdTask) (m : Mach) : (Mach.hardFailed t m).dev = m.dev := by
  simp [Mach.hardFailed]

@[simp] theorem Mach.memEnd_dev (p : Port) (m : Mach) : (Mach.memEnd p m).dev = m.dev := by
  simp [Mach.memEnd]

@[simp] theorem Mach.poisonOut_dev (p : Port) (m : Mach) : (Mach.poisonOut p m).dev = m.dev := by
  simp [Mach.poisonOut]

@[simp] theorem Mach.lineOut_dev (p : Port) (d : Line) (m : Mach) : (Mach.lineOut p d m).dev = m.dev := by
  simp [Mach.lineOut]

@[simp] theorem Mach.writeAck_dev (p : Port) (m : Mach) : (Mach.writeAck p m).dev = m.dev := by
  simp [Mach.writeAck]

@[simp] theorem Mach.writeDone_dev (p : Port) (mute : Bool) (m : Mach) : (Mach.writeDone p mute m).dev = m.dev := by
  unfold Mach.writeDone
  try lift_lets
  repeat' first
    | (intro x; first | (have hx : x.dev = m.dev := by
                            simp only [x]
                            repeat' (first | (simp [*]; done) | intro _ | split | rw [Mach.each_dev] | simp [*])
                         clear_value x) | clear_value x)
    | (simp [*]; done)
    | intro _
    | split
    | rw [Mach.each_dev]
    | simp [*]

@[simp] theorem Mach.memMiss_dev (r : LampReq) (m : Mach) : (Mach.memMiss r m).dev = m.dev := by
  unfold Mach.memMiss
  repeat' first
    | (simp [*]; done)
    | intro _
    | split
    | simp [*]

@[simp] theorem Mach.muteReqs_dev (p : Port) (m : Mach) : (Mach.muteReqs p m).dev = m.dev := by
  unfold Mach.muteReqs
  try lift_lets
  repeat' first
    | (intro x; first | (have hx : x.dev = m.dev := by
                            simp only [x]
                            repeat' (first | (simp [*]; done) | intro _ | split | rw [Mach.each_dev] | simp [*])
                         clear_value x) | clear_value x)
    | (simp [*]; done)
    | intro _
    | split
    | rw [Mach.each_dev]
    | simp [*]

@[simp] theorem Mach.failCommands_dev (m : Mach) : (Mach.failCommands m).dev = m.dev := by
  unfold Mach.failCommands
  try lift_lets
  repeat' first
    | (intro x; first | (have hx : x.dev = m.dev := by
                            simp only [x]
                            repeat' (first | (simp [*]; done) | intro _ | split | rw [Mach.each_dev]  | simp [*])
                         clear_value x) | clear_value x)
    | (simp [*]; done)
    | intro _
    | split
    | rw [Mach.each_dev]
    | simp [*]

@[simp] theorem Mach.dropHeld_dev (m : Mach) : (Mach.dropHeld m).dev = m.dev := by
  unfold Mach.dropHeld
  try lift_lets
  repeat' first
    | (intro x; first | (have hx : x.dev = m.dev := by
                            simp only [x]
                            repeat' (first | (simp [*]; done) | intro _ | split | rw [Mach.each_dev] | simp [*])
                         clear_value x) | clear_value x)
    | (simp [*]; done)
    | intro _
    | split
    | rw [Mach.each_dev]
    | simp [*]

@[simp] theorem Mach.faultVol_dev (v : Vid) (m : Mach) : (Mach.faultVol v m).dev = m.dev := by
  simp [Mach.faultVol]

@[simp] theorem Mach.loseVersion_dev (id : Nat) (lbs : List (Fin 4)) (m : Mach) : (Mach.loseVersion id lbs m).dev = m.dev := by
  unfold Mach.loseVersion
  repeat' first
    | (simp [*]; done)
    | intro _
    | split
    | simp [*]

@[simp] theorem Mach.answer_dev (p : Port) (status : Nat) (badLen bg : Bool) (payload : List Byte) (m : Mach) : (Mach.answer p status badLen bg payload m).dev = m.dev := by
  simp [Mach.answer]

@[simp] theorem Mach.ok_dev (p : Port) (payload : List Byte) (m : Mach) : (Mach.ok p payload m).dev = m.dev := by
  simp [Mach.ok]

@[simp] theorem Mach.refuse_dev (p : Port) (status : Nat) (m : Mach) : (Mach.refuse p status m).dev = m.dev := by
  simp [Mach.refuse]

@[simp] theorem Mach.mail_dev (i : Instr) (p : Port) (len want : Nat) (early : Bool) (f : Mach → Mach) (m : Mach) (h : (f m).dev = m.dev) :
    (Mach.mail i p len want early f m).dev = m.dev := by
  unfold Mach.mail Mach.mailRuns
  repeat' first | exact h | (simp; done) | split

@[simp] theorem Mach.startBg_dev (p : Port) (op : BgOp) (opcode : Nat) (f : Mach → Mach) (m : Mach)
    (h : ∀ m : Mach, (f m).dev = m.dev) : (Mach.startBg p op opcode f m).dev = m.dev := by
  unfold Mach.startBg
  split
  · simp
  · dsimp only; rw [h]; simp

@[simp] theorem Mach.orphanEnd_dev (opcode status : Nat) (m : Mach) : (Mach.orphanEnd opcode status m).dev = m.dev := by
  unfold Mach.orphanEnd
  try lift_lets
  repeat' first
    | (intro x; first | (have hx : x.dev = m.dev := by
                            simp only [x]
                            repeat' (first | (simp [*]; done) | intro _ | split | rw [Mach.each_dev] | simp [*])
                         clear_value x) | clear_value x)
    | (simp [*]; done)
    | intro _
    | split
    | rw [Mach.each_dev]
    | simp [*]

@[simp] theorem Mach.endBg_dev (status : Nat) (m : Mach) : (Mach.endBg status m).dev = m.dev := by
  unfold Mach.endBg
  try lift_lets
  repeat' first
    | (intro x; first | (have hx : x.dev = m.dev := by
                            simp only [x]
                            repeat' (first | (simp [*]; done) | intro _ | split   | simp [*])
                         clear_value x) | clear_value x)
    | (simp [*]; done)
    | intro _
    | split
    | simp [*]

@[simp] theorem Mach.dropMailbox_dev (p : Port) (m : Mach) : (Mach.dropMailbox p m).dev = m.dev := by
  unfold Mach.dropMailbox
  try lift_lets
  repeat' first
    | (intro x; first | (have hx : x.dev = m.dev := by
                            simp only [x]
                            repeat' (first | (simp [*]; done) | intro _ | split | rw [Mach.each_dev] | simp [*])
                         clear_value x) | clear_value x)
    | (simp [*]; done)
    | intro _
    | split
    | rw [Mach.each_dev]
    | simp [*]

@[simp] theorem Mach.setNslot_dev (k : Nat) (x : KeySlot) (m : Mach) : (Mach.setNslot k x m).dev = m.dev := by
  unfold Mach.setNslot
  repeat' first
    | (simp [*]; done)
    | intro _
    | split
    | simp [*]

@[simp] theorem Mach.nonceDurable_dev (k epoch hwm : Nat) (m : Mach) : (Mach.nonceDurable k epoch hwm m).dev = m.dev := by
  unfold Mach.nonceDurable
  try lift_lets
  repeat' first
    | (intro x; first | (have hx : x.dev = m.dev := by
                            simp only [x]
                            repeat' (first | (simp [*]; done) | intro _ | split   | simp [*])
                         clear_value x) | clear_value x)
    | (simp [*]; done)
    | intro _
    | split
    | simp [*]

@[simp] theorem Mach.observeWindow_dev (m : Mach) : (Mach.observeWindow m).dev = m.dev := by
  simp [Mach.observeWindow]

@[simp] theorem Mach.takeFsn_dev (m : Mach) : (Mach.takeFsn m).1.dev = m.dev := by
  simp [Mach.takeFsn]

@[simp] theorem Mach.failAgain_dev (pos : Fin 8) (m : Mach) : (Mach.failAgain pos m).dev = m.dev := by
  unfold Mach.failAgain
  repeat' first
    | (simp [*]; done)
    | intro _
    | split
    | rw [Mach.each_dev]
    | simp [*]

@[simp] theorem Mach.openAt_dev (pos : Fin 8) (f : Nat) (m : Mach) : (Mach.openAt pos f m).dev = m.dev := by
  unfold Mach.openAt
  try lift_lets
  repeat' first
    | (intro x; first | (have hx : x.dev = m.dev := by
                            simp only [x]
                            repeat' (first | (simp [*]; done) | intro _ | split   | simp [*])
                         clear_value x) | clear_value x)
    | (simp [*]; done)
    | intro _
    | split
    | simp [*]

@[simp] theorem Mach.openFurrow_dev (pos : Fin 8) (m : Mach) : (Mach.openFurrow pos m).dev = m.dev := by
  unfold Mach.openFurrow
  repeat' first
    | (simp [*]; done)
    | intro _
    | split
    | simp [*]

@[simp] theorem Mach.pageDebt_dev (items : List PlaneItem) (m : Mach) : (Mach.pageDebt items m).dev = m.dev := by
  unfold Mach.pageDebt
  repeat' first
    | (simp [*]; done)
    | intro _
    | split
    | rw [Mach.each_dev]
    | simp [*]

@[simp] theorem Mach.queuePage_dev (pos : Fin 8) (o : OpenF) (c : Chan) (items : List PlaneItem) (cws : List Cw) (parity : Bool) (m : Mach) : (Mach.queuePage pos o c items cws parity m).dev = m.dev := by
  unfold Mach.queuePage
  try lift_lets
  repeat' first
    | (intro x; first | (have hx : x.dev = m.dev := by
                            simp only [x]
                            repeat' (first | (simp [*]; done) | intro _ | split   | simp [*])
                         clear_value x) | clear_value x)
    | (simp [*]; done)
    | intro _
    | split
    | simp [*]

@[simp] theorem Mach.closeAt_dev (pos : Fin 8) (m : Mach) : (Mach.closeAt pos m).dev = m.dev := by
  unfold Mach.closeAt
  repeat' first
    | (simp [*]; done)
    | intro _
    | split
    | simp [*]

@[simp] theorem Mach.closePartial_dev (pos : Fin 8) (m : Mach) : (Mach.closePartial pos m).dev = m.dev := by
  unfold Mach.closePartial
  repeat' first
    | (simp [*]; done)
    | intro _
    | split
    | simp [*]

@[simp] theorem Mach.stripeEnd_dev (pos : Fin 8) (o : OpenF) (m : Mach) : (Mach.stripeEnd pos o m).dev = m.dev := by
  unfold Mach.stripeEnd
  try lift_lets
  repeat' first
    | (intro x; first | (have hx : x.dev = m.dev := by
                            simp only [x]
                            repeat' (first | (simp [*]; done) | intro _ | split   | simp [*])
                         clear_value x) | clear_value x)
    | (simp [*]; done)
    | intro _
    | split
    | simp [*]

@[simp] theorem Mach.stripeStep_dev (pos : Fin 8) (m : Mach) : (Mach.stripeStep pos m).dev = m.dev := by
  unfold Mach.stripeStep
  try lift_lets
  repeat' first
    | (intro x; first | (have hx : x.dev = m.dev := by
                            simp only [x]
                            repeat' (first | (simp [*]; done) | intro _ | split | rw [Mach.each_dev]  | simp [*])
                         clear_value x) | clear_value x)
    | (simp [*]; done)
    | intro _
    | split
    | rw [Mach.each_dev]
    | simp [*]

@[simp] theorem Mach.parityEnded_dev (pg : PagePgm) (bad : Bool) (m : Mach) : (Mach.parityEnded pg bad m).dev = m.dev := by
  unfold Mach.parityEnded
  try lift_lets
  repeat' first
    | (intro x; first | (have hx : x.dev = m.dev := by
                            simp only [x]
                            repeat' (first | (simp [*]; done) | intro _ | split   | simp [*])
                         clear_value x) | clear_value x)
    | (simp [*]; done)
    | intro _
    | split
    | simp [*]

@[simp] theorem Mach.putCws_dev (a : BitVec 40) (cws : List Cw) (m : Mach) : (Mach.putCws a cws m).dev = m.dev := by
  simp [Mach.putCws]

@[simp] theorem Mach.placeVersion_dev (id : Nat) (a : BitVec 40) (m : Mach) : (Mach.placeVersion id a m).dev = m.dev := by
  unfold Mach.placeVersion
  repeat' first
    | (simp [*]; done)
    | intro _
    | split
    | simp [*]

@[simp] theorem Mach.casCopy_dev (i : Nat) (src a : BitVec 40) (m : Mach) : (Mach.casCopy i src a m).dev = m.dev := by
  unfold Mach.casCopy
  repeat' first
    | (simp [*]; done)
    | intro _
    | split
    | simp [*]

@[simp] theorem Mach.placeCopy_dev (id : Nat) (a : BitVec 40) (m : Mach) : (Mach.placeCopy id a m).dev = m.dev := by
  unfold Mach.placeCopy
  try lift_lets
  repeat' first
    | (intro x; first | (have hx : x.dev = m.dev := by
                            simp only [x]
                            repeat' (first | (simp [*]; done) | intro _ | split   | simp [*])
                         clear_value x) | clear_value x)
    | (simp [*]; done)
    | intro _
    | split
    | simp [*]

@[simp] theorem Mach.confirmCovers_dev (id fsn page : Nat) (ch : Chan) (m : Mach) : (Mach.confirmCovers id fsn page ch m).dev = m.dev := by
  unfold Mach.confirmCovers
  try lift_lets
  repeat' first
    | (intro x; first | (have hx : x.dev = m.dev := by
                            simp only [x]
                            repeat' (first | (simp [*]; done) | intro _ | split   | simp [*])
                         clear_value x) | clear_value x)
    | (simp [*]; done)
    | intro _
    | split
    | simp [*]

@[simp] theorem Mach.storePage_dev (pg : PagePgm) (m : Mach) : (Mach.storePage pg m).dev = m.dev := by
  unfold Mach.storePage
  try lift_lets
  repeat' first
    | (intro x; first | (have hx : x.dev = m.dev := by
                            simp only [x]
                            repeat' (first | (simp [*]; done) | intro _ | split | rw [Mach.each_dev] | simp [*])
                         clear_value x) | clear_value x)
    | (simp [*]; done)
    | intro _
    | split
    | rw [Mach.each_dev]
    | simp [*]

@[simp] theorem Mach.pageConfirmed_dev (pg : PagePgm) (m : Mach) : (Mach.pageConfirmed pg m).dev = m.dev := by
  unfold Mach.pageConfirmed
  try lift_lets
  repeat' first
    | (intro x; first | (have hx : x.dev = m.dev := by
                            simp only [x]
                            repeat' (first | (simp [*]; done) | intro _ | split | rw [Mach.each_dev]  | simp [*])
                         clear_value x) | clear_value x)
    | (simp [*]; done)
    | intro _
    | split
    | rw [Mach.each_dev]
    | simp [*]

@[simp] theorem Mach.itemsBack_dev (items : List PlaneItem) (m : Mach) : (Mach.itemsBack items m).dev = m.dev := by
  unfold Mach.itemsBack
  repeat' first
    | (simp [*]; done)
    | intro _
    | split
    | rw [Mach.each_dev]
    | simp [*]

@[simp] theorem Mach.pageFailed_dev (pg : PagePgm) (cause : Option Nat) (m : Mach) : (Mach.pageFailed pg cause m).dev = m.dev := by
  unfold Mach.pageFailed
  try lift_lets
  repeat' first
    | (intro x; first | (have hx : x.dev = m.dev := by
                            simp only [x]
                            repeat' (first | (simp [*]; done) | intro _ | split | rw [Mach.each_dev]  | simp [*])
                         clear_value x) | clear_value x)
    | (simp [*]; done)
    | intro _
    | split
    | rw [Mach.each_dev]
    | simp [*]

@[simp] theorem Mach.pageGivenUp_dev (pg : PagePgm) (m : Mach) : (Mach.pageGivenUp pg m).dev = m.dev := by
  unfold Mach.pageGivenUp
  try lift_lets
  repeat' first
    | (intro x; first | (have hx : x.dev = m.dev := by
                            simp only [x]
                            repeat' (first | (simp [*]; done) | intro _ | split   | simp [*])
                         clear_value x) | clear_value x)
    | (simp [*]; done)
    | intro _
    | split
    | simp [*]

@[simp] theorem Mach.beginVictim_dev (f : Nat) (rank4 : Bool) (m : Mach) : (Mach.beginVictim f rank4 m).dev = m.dev := by
  unfold Mach.beginVictim
  try lift_lets
  repeat' first
    | (intro x; first | (have hx : x.dev = m.dev := by
                            simp only [x]
                            repeat' (first | (simp [*]; done) | intro _ | split   | simp [*])
                         clear_value x) | clear_value x)
    | (simp [*]; done)
    | intro _
    | split
    | simp [*]

@[simp] theorem Mach.casPoison_dev (i : Nat) (src : BitVec 40) (v : Vid) (mu wsn : Nat) (m : Mach) : (Mach.casPoison i src v mu wsn m).dev = m.dev := by
  unfold Mach.casPoison
  try lift_lets
  repeat' first
    | (intro x; first | (have hx : x.dev = m.dev := by
                            simp only [x]
                            repeat' (first | (simp [*]; done) | intro _ | split   | simp [*])
                         clear_value x) | clear_value x)
    | (simp [*]; done)
    | intro _
    | split
    | simp [*]

@[simp] theorem Mach.setVictim_dev (low : Bool) (v : Option Victim) (m : Mach) : (Mach.setVictim low v m).dev = m.dev := by
  simp [Mach.setVictim]

@[simp] theorem Mach.advance_dev (low : Bool) (v : Victim) (m : Mach) : (Mach.advance low v m).dev = m.dev := by
  unfold Mach.advance
  try lift_lets
  repeat' first
    | (intro x; first | (have hx : x.dev = m.dev := by
                            simp only [x]
                            repeat' (first | (simp [*]; done) | intro _ | split   | simp [*])
                         clear_value x) | clear_value x)
    | (simp [*]; done)
    | intro _
    | split
    | simp [*]

@[simp] theorem Mach.srcRebuild_dev (a : BitVec 40) (r : SrcRead) (m : Mach) : (Mach.srcRebuild a r m).1.dev = m.dev := by
  unfold Mach.srcRebuild
  dsimp only
  split <;> simp [Mach.each_dev]

@[simp] theorem Mach.srcDecode_dev (a : BitVec 40) (r : SrcRead) (m : Mach) : (Mach.srcDecode a r m).1.dev = m.dev := by
  unfold Mach.srcDecode
  try dsimp only
  repeat' first | (simp; done) | split

@[simp] theorem Mach.srcStage4_dev (a : BitVec 40) (good : Bool) (r : SrcRead) (m : Mach) : (Mach.srcStage4 a good r m).1.dev = m.dev := by
  unfold Mach.srcStage4
  try dsimp only
  repeat' first | (simp; done) | split

@[simp] theorem Mach.srcRead_dev (a : BitVec 40) (meets : Cw → Bool) (r : SrcRead) (m : Mach) : (Mach.srcRead a meets r m).1.dev = m.dev := by
  unfold Mach.srcRead
  try dsimp only
  repeat' first | (simp; done) | split

@[simp] theorem Mach.srcTag_dev (v : Vid) (a : BitVec 40) (stage : Nat) (r : SrcRead) (m : Mach) : (Mach.srcTag v a stage r m).1.dev = m.dev := by
  unfold Mach.srcTag
  try dsimp only
  repeat' first | (simp; done) | split

@[simp] theorem Mach.identifyMu_dev (a : BitVec 40) (reads : List SrcRead) (l : List Nat) (m : Mach) :
    (Mach.identifyMu a reads l m).1.dev = m.dev := by
  induction l generalizing m with
  | nil => rfl
  | cons s ss ih =>
    have h := Mach.srcRead_dev (a + BitVec.ofNat 40 s) (fun x => (x.kind == .data && x.lba % 4 == s) || x.kind == .filler)
      (reads.getD s goodRead) m
    rw [Mach.identifyMu]
    generalize m.srcRead (a + BitVec.ofNat 40 s) (fun x => (x.kind == .data && x.lba % 4 == s) || x.kind == .filler)
      (reads.getD s goodRead) = r at h ⊢
    obtain ⟨m', o⟩ := r
    cases o
    · simpa [ih] using h
    · exact h

@[simp] theorem Mach.copyLb_dev (a : BitVec 40) (id : Cw) (s0 k0 s : Nat) (r : SrcRead) (m : Mach) : (Mach.copyLb a id s0 k0 s r m).1.dev = m.dev := by
  unfold Mach.copyLb
  try dsimp only
  repeat' first | (simp; done) | split

@[simp] theorem Mach.copyLbs_dev (a : BitVec 40) (reads : List SrcRead) (id : Cw) (s0 k0 : Nat) (l : List Nat) (m : Mach) :
    (Mach.copyLbs a reads id s0 k0 l m).1.dev = m.dev := by
  induction l generalizing m with
  | nil => rfl
  | cons s ss ih => simp [Mach.copyLbs, ih]

@[simp] theorem Mach.stageCopy_dev (v : Victim) (a : BitVec 40) (id : Cw) (l : List (Nat × Option Block)) (m : Mach) : (Mach.stageCopy v a id l m).dev = m.dev := by
  unfold Mach.stageCopy
  try lift_lets
  repeat' first
    | (intro x; first | (have hx : x.dev = m.dev := by
                            simp only [x]
                            repeat' (first | (simp [*]; done) | intro _ | split | rw [Mach.each_dev] | simp [*])
                         clear_value x) | clear_value x)
    | (simp [*]; done)
    | intro _
    | split
    | rw [Mach.each_dev]
    | simp [*]

@[simp] theorem Mach.poisonMu_dev (i : Nat) (a : BitVec 40) (id : Cw) (l : List (Nat × Option Block)) (m : Mach) : (Mach.poisonMu i a id l m).dev = m.dev := by
  unfold Mach.poisonMu
  try lift_lets
  repeat' first
    | (intro x; first | (have hx : x.dev = m.dev := by
                            simp only [x]
                            repeat' (first | (simp [*]; done) | intro _ | split | rw [Mach.each_dev] | simp [*])
                         clear_value x) | clear_value x)
    | (simp [*]; done)
    | intro _
    | split
    | rw [Mach.each_dev]
    | simp [*]

@[simp] theorem Mach.gleanMu_dev (v : Victim) (a : BitVec 40) (reads : List SrcRead) (s0 k0 : Nat) (m : Mach) : (Mach.gleanMu v a reads s0 k0 m).dev = m.dev := by
  unfold Mach.gleanMu
  dsimp only
  repeat' first | (simp; done) | split

@[simp] theorem Mach.gleanPlane_dev (low : Bool) (v : Victim) (a : BitVec 40) (reads : List SrcRead) (m : Mach) : (Mach.gleanPlane low v a reads m).dev = m.dev := by
  unfold Mach.gleanPlane
  split
  · rfl
  · have h := Mach.identifyMu_dev (m := m) (a := a) (reads := reads) (l := [0, 1, 2, 3])
    generalize m.identifyMu a reads [0, 1, 2, 3] = r at h
    obtain ⟨m', o⟩ := r
    cases o <;> simpa using h

@[simp] theorem Mach.gleanRead_dev (low : Bool) (reads : List SrcRead) (m : Mach) : (Mach.gleanRead low reads m).dev = m.dev := by
  unfold Mach.gleanRead
  dsimp only
  repeat' first | (simp; done) | split

@[simp] theorem Mach.residual_dev (low : Bool) (m : Mach) : (Mach.residual low m).dev = m.dev := by
  unfold Mach.residual
  try lift_lets
  repeat' first
    | (intro x; first | (have hx : x.dev = m.dev := by
                            simp only [x]
                            repeat' (first | (simp [*]; done) | intro _ | split | rw [Mach.each_dev]  | simp [*])
                         clear_value x) | clear_value x)
    | (simp [*]; done)
    | intro _
    | split
    | rw [Mach.each_dev]
    | simp [*]

@[simp] theorem Mach.queueErase_dev (c : Chan) (row b : Nat) (system : Bool) (m : Mach) : (Mach.queueErase c row b system m).dev = m.dev := by
  simp [Mach.queueErase]

@[simp] theorem Mach.passGate_dev (f : Nat) (m : Mach) : (Mach.passGate f m).dev = m.dev := by
  unfold Mach.passGate
  try lift_lets
  repeat' first
    | (intro x; first | (have hx : x.dev = m.dev := by
                            simp only [x]
                            repeat' (first | (simp [*]; done) | intro _ | split | rw [Mach.each_dev]  | simp [*])
                         clear_value x) | clear_value x)
    | (simp [*]; done)
    | intro _
    | split
    | rw [Mach.each_dev]
    | simp [*]

@[simp] theorem Mach.gate_dev (m : Mach) : (Mach.gate m).dev = m.dev := by
  unfold Mach.gate
  try lift_lets
  repeat' first
    | (intro x; first | (have hx : x.dev = m.dev := by
                            simp only [x]
                            repeat' (first | (simp [*]; done) | intro _ | split   | simp [*])
                         clear_value x) | clear_value x)
    | (simp [*]; done)
    | intro _
    | split
    | simp [*]

@[simp] theorem Mach.wipeBlock_dev (d b : Nat) (m : Mach) : (Mach.wipeBlock d b m).dev = m.dev := by
  simp [Mach.wipeBlock]

@[simp] theorem Mach.setHfur_dev (k : Nat) (x : HFur) (m : Mach) : (Mach.setHfur k x m).dev = m.dev := by
  simp [Mach.setHfur]

theorem Mach.hdlOpen_dev  {m u : Mach} (h : m.hdlOpen = some u) : u.dev = m.dev := by
  unfold Mach.hdlOpen at h
  cases hn : m.hdlNext with
  | none => simp [hn] at h
  | some k =>
    simp only [hn, Option.map_some, Option.some.injEq] at h
    subst h
    split <;> simp

@[simp] theorem Mach.hdlClose_dev (m : Mach) : (Mach.hdlClose m).dev = m.dev := by
  unfold Mach.hdlClose
  repeat' first
    | (simp [*]; done)
    | intro _
    | split
    | simp [*]

theorem Mach.hdlRoom_dev (fuel n : Nat) {m : Mach} {r : Mach × List Nat} (h : m.hdlRoom fuel n = some r) : r.1.dev = m.dev := by
  induction fuel generalizing n m r with
  | zero => simp [Mach.hdlRoom] at h
  | succ f ih =>
    unfold Mach.hdlRoom at h
    split at h
    · split at h
      · cases h
      · rename_i u hu
        rw [ih _ h, Mach.hdlOpen_dev  hu]
    · dsimp only at h
      split at h
      · cases h; simp
      · split at h
        · rw [ih _ h]; simp
        · simp only [Option.map_eq_some_iff] at h
          obtain ⟨a, ha, rfl⟩ := h
          dsimp only
          rw [ih _ ha]; simp

@[simp] theorem Mach.imageSeg_dev (s pos : Nat) (m : Mach) : (Mach.imageSeg s pos m).dev = m.dev := by
  unfold Mach.imageSeg
  try lift_lets
  repeat' first
    | (intro x; first | (have hx : x.dev = m.dev := by
                            simp only [x]
                            repeat' (first | (simp [*]; done) | intro _ | split   | simp [*])
                         clear_value x) | clear_value x)
    | (simp [*]; done)
    | intro _
    | split
    | simp [*]

theorem Mach.append_dev (id : Nat) (b : HBody) {m u : Mach} (h : m.append id b = some u) : u.dev = m.dev := by
  unfold Mach.append at h
  simp only [Option.map_eq_some_iff] at h
  obtain ⟨r, hr, rfl⟩ := h
  rw [Mach.queueOp_dev]
  simp [Mach.hdlRoom_dev  _ _ hr]

@[simp] theorem Mach.appendRootFor_dev (s : Option Nat) (m : Mach) : (Mach.appendRootFor s m).dev = m.dev := by
  unfold Mach.appendRootFor
  dsimp only
  split
  · simp
  · rename_i h
    have := Mach.append_dev (h := h) ..
    simpa using this

@[simp] theorem Mach.appendRoot_dev (m : Mach) : (Mach.appendRoot m).dev = m.dev := by
  unfold Mach.appendRoot
  try lift_lets
  repeat' first
    | (intro x; first | (have hx : x.dev = m.dev := by
                            simp only [x]
                            repeat' (first | (simp [*]; done) | intro _ | split | rw [Mach.each_dev] | simp [*])
                         clear_value x) | clear_value x)
    | (simp [*]; done)
    | intro _
    | split
    | rw [Mach.each_dev]
    | simp [*]

@[simp] theorem Mach.appendSeg_dev (s : Nat) (force : Bool) (m : Mach) : (Mach.appendSeg s force m).dev = m.dev := by
  unfold Mach.appendSeg
  dsimp only
  split
  · simp
  · rename_i u hu
    simp [Mach.append_dev  _ _ hu]

@[simp] theorem Mach.appendDirectory_dev (m : Mach) : (Mach.appendDirectory m).dev = m.dev := by
  unfold Mach.appendDirectory
  dsimp only
  split
  · simp
  · rename_i u hu
    simp [Mach.append_dev  _ _ hu]

@[simp] theorem Mach.appendWant_dev (w : Nat × HBody) (m : Mach) : (Mach.appendWant w m).dev = m.dev := by
  unfold Mach.appendWant
  dsimp only
  split
  · simp
  · rename_i u hu
    have := Mach.append_dev  _ _ hu
    split <;> simp [this]

@[simp] theorem Mach.replaceRec_dev (r : HRec) (m : Mach) : (Mach.replaceRec r m).dev = m.dev := by
  unfold Mach.replaceRec
  split
  · simp
  · rename_i u furs hu
    have := Mach.hdlRoom_dev  _ _ hu
    simp at this
    simp [this]

@[simp] theorem Mach.rewriteRec_dev (b : HBody) (m : Mach) : (Mach.rewriteRec b m).dev = m.dev := by
  unfold Mach.rewriteRec
  simp

theorem Mach.scrubNext_dev  {m u : Mach} (h : m.scrubNext = some u) : u.dev = m.dev := by
  unfold Mach.scrubNext at h
  dsimp only at h
  split at h
  · cases h
  · split at h
    · cases h; simp
    · split at h
      · cases h
      · split at h <;> first | (cases h; simp; done) | cases h

@[simp] theorem Mach.headlandWrite_dev (m : Mach) : (Mach.headlandWrite m).dev = m.dev := by
  unfold Mach.headlandWrite
  repeat' first
    | (simp; done)
    | exact Mach.scrubNext_dev  ‹_›
    | split

@[simp] theorem Mach.hdlRelease_dev (m : Mach) : (Mach.hdlRelease m).dev = m.dev := by
  unfold Mach.hdlRelease
  repeat' first
    | (simp [*]; done)
    | intro _
    | split
    | simp [*]

@[simp] theorem Mach.hdlErase_dev (m : Mach) : (Mach.hdlErase m).dev = m.dev := by
  unfold Mach.hdlErase
  try lift_lets
  repeat' first
    | (intro x; first | (have hx : x.dev = m.dev := by
                            simp only [x]
                            repeat' (first | (simp [*]; done) | intro _ | split | rw [Mach.each_dev]  | simp [*])
                         clear_value x) | clear_value x)
    | (simp [*]; done)
    | intro _
    | split
    | rw [Mach.each_dev]
    | simp [*]

@[simp] theorem Mach.hdlFailed_dev (id : Nat) (c : Chan) (cause : Nat) (m : Mach) : (Mach.hdlFailed id c cause m).dev = m.dev := by
  unfold Mach.hdlFailed
  try lift_lets
  repeat' first
    | (intro x; first | (have hx : x.dev = m.dev := by
                            simp only [x]
                            repeat' (first | (simp [*]; done) | intro _ | split   | simp [*])
                         clear_value x) | clear_value x)
    | (simp [*]; done)
    | intro _
    | split
    | simp [*]

@[simp] theorem Mach.hdlPassed_dev (id : Nat) (m : Mach) : (Mach.hdlPassed id m).dev = m.dev := by
  simp [Mach.hdlPassed]

@[simp] theorem Mach.setOp_dev (o : Op) (m : Mach) : (Mach.setOp o m).dev = m.dev := by
  simp [Mach.setOp]

@[simp] theorem Mach.dropOp_dev (id : Nat) (m : Mach) : (Mach.dropOp id m).dev = m.dev := by
  simp [Mach.dropOp]

@[simp] theorem Mach.svcStatus_dev (d : Nat) (a : Agent) (code opc : Nat) (m : Mach) : (Mach.svcStatus d a code opc m).dev = m.dev := by
  simp [Mach.svcStatus]

@[simp] theorem Mach.svcEnd_dev (o : Op) (a : Agent) (opc status : Nat) (m : Mach) : (Mach.svcEnd o a opc status m).dev = m.dev := by
  simp [Mach.svcEnd]

@[simp] theorem Mach.memberErased_dev (c : Chan) (f : Nat) (m : Mach) : (Mach.memberErased c f m).dev = m.dev := by
  unfold Mach.memberErased
  try lift_lets
  repeat' first
    | (intro x; first | (have hx : x.dev = m.dev := by
                            simp only [x]
                            repeat' (first | (simp [*]; done) | intro _ | split   | simp [*])
                         clear_value x) | clear_value x)
    | (simp [*]; done)
    | intro _
    | split
    | simp [*]

@[simp] theorem Mach.hdlErased_dev (row b : Nat) (m : Mach) : (Mach.hdlErased row b m).dev = m.dev := by
  unfold Mach.hdlErased
  try lift_lets
  repeat' first
    | (intro x; first | (have hx : x.dev = m.dev := by
                            simp only [x]
                            repeat' (first | (simp [*]; done) | intro _ | split   | simp [*])
                         clear_value x) | clear_value x)
    | (simp [*]; done)
    | intro _
    | split
    | simp [*]

@[simp] theorem Mach.dieEraseOver_dev (d : Nat) (m : Mach) : (Mach.dieEraseOver d m).dev = m.dev := by
  simp [Mach.dieEraseOver]

@[simp] theorem Mach.hdlWorn_dev (n : Nat) (m : Mach) : (Mach.hdlWorn n m).dev = m.dev := by
  unfold Mach.hdlWorn
  try lift_lets
  repeat' first
    | (intro x; first | (have hx : x.dev = m.dev := by
                            simp only [x]
                            repeat' (first | (simp [*]; done) | intro _ | split | rw [Mach.each_dev] | simp [*])
                         clear_value x) | clear_value x)
    | (simp [*]; done)
    | intro _
    | split
    | rw [Mach.each_dev]
    | simp [*]

@[simp] theorem Mach.eraseDone_dev (o : Op) (b : Nat) (system : Bool) (m : Mach) : (Mach.eraseDone o b system m).dev = m.dev := by
  unfold Mach.eraseDone
  try lift_lets
  repeat' first
    | (intro x; first | (have hx : x.dev = m.dev := by
                            simp only [x]
                            repeat' (first | (simp [*]; done) | intro _ | split   | simp [*])
                         clear_value x) | clear_value x)
    | (simp [*]; done)
    | intro _
    | split
    | simp [*]

@[simp] theorem Mach.eraseFailed_dev (o : Op) (b : Nat) (system : Bool) (cause : Nat) (m : Mach) : (Mach.eraseFailed o b system cause m).dev = m.dev := by
  unfold Mach.eraseFailed
  try lift_lets
  repeat' first
    | (intro x; first | (have hx : x.dev = m.dev := by
                            simp only [x]
                            repeat' (first | (simp [*]; done) | intro _ | split   | simp [*])
                         clear_value x) | clear_value x)
    | (simp [*]; done)
    | intro _
    | split
    | simp [*]

@[simp] theorem Mach.eraseLost_dev (d b : Nat) (m : Mach) : (Mach.eraseLost d b m).dev = m.dev := by
  unfold Mach.eraseLost
  try lift_lets
  repeat' first
    | (intro x; first | (have hx : x.dev = m.dev := by
                            simp only [x]
                            repeat' (first | (simp [*]; done) | intro _ | split   | simp [*])
                         clear_value x) | clear_value x)
    | (simp [*]; done)
    | intro _
    | split
    | simp [*]

@[simp] theorem Mach.resetDie_dev (d : Nat) (m : Mach) : (Mach.resetDie d m).dev = m.dev := by
  unfold Mach.resetDie
  try lift_lets
  repeat' first
    | (intro x; first | (have hx : x.dev = m.dev := by
                            simp only [x]
                            repeat' (first | (simp [*]; done) | intro _ | split   | simp [*])
                         clear_value x) | clear_value x)
    | (simp [*]; done)
    | intro _
    | split
    | simp [*]

@[simp] theorem Mach.suspendErase_dev (d : Nat) (count : Bool) (m : Mach) : (Mach.suspendErase d count m).dev = m.dev := by
  unfold Mach.suspendErase
  try lift_lets
  repeat' first
    | (intro x; first | (have hx : x.dev = m.dev := by
                            simp only [x]
                            repeat' (first | (simp [*]; done) | intro _ | split   | simp [*])
                         clear_value x) | clear_value x)
    | (simp [*]; done)
    | intro _
    | split
    | simp [*]

@[simp] theorem Mach.resumeErase_dev (d : Nat) (m : Mach) : (Mach.resumeErase d m).dev = m.dev := by
  unfold Mach.resumeErase
  try lift_lets
  repeat' first
    | (intro x; first | (have hx : x.dev = m.dev := by
                            simp only [x]
                            repeat' (first | (simp [*]; done) | intro _ | split   | simp [*])
                         clear_value x) | clear_value x)
    | (simp [*]; done)
    | intro _
    | split
    | simp [*]

@[simp] theorem Mach.suspendChan_dev (c : Chan) (m : Mach) : (Mach.suspendChan c m).dev = m.dev := by
  unfold Mach.suspendChan
  repeat' first
    | (simp [*]; done)
    | intro _
    | split
    | rw [Mach.each_dev]
    | simp [*]

@[simp] theorem Mach.destroy_dev (d b : Nat) (site : Option (Nat × Nat)) (m : Mach) : (Mach.destroy d b site m).dev = m.dev := by
  simp [Mach.destroy]

@[simp] theorem Mach.erasePlanes_dev (d : Nat) (x : Apt) (m : Mach) : (Mach.erasePlanes d x m).dev = m.dev := by
  unfold Mach.erasePlanes
  try lift_lets
  repeat' first
    | (intro x; first | (have hx : x.dev = m.dev := by
                            simp only [x]
                            repeat' (first | (simp [*]; done) | intro _ | split | rw [Mach.each_dev] | simp [*])
                         clear_value x) | clear_value x)
    | (simp [*]; done)
    | intro _
    | split
    | rw [Mach.each_dev]
    | simp [*]

@[simp] theorem Mach.rawProgram_dev (o : Op) (x : Apt) (pass : Bool) (m : Mach) : (Mach.rawProgram o x pass m).dev = m.dev := by
  unfold Mach.rawProgram
  try lift_lets
  repeat' first
    | (intro x; first | (have hx : x.dev = m.dev := by
                            simp only [x]
                            repeat' (first | (simp [*]; done) | intro _ | split | rw [Mach.each_dev] | simp [*])
                         clear_value x) | clear_value x)
    | (simp [*]; done)
    | intro _
    | split
    | rw [Mach.each_dev]
    | simp [*]

@[simp] theorem Mach.stallXfer_dev (o : Op) (m : Mach) : (Mach.stallXfer o m).dev = m.dev := by
  unfold Mach.stallXfer
  try lift_lets
  repeat' first
    | (intro x; first | (have hx : x.dev = m.dev := by
                            simp only [x]
                            repeat' (first | (simp [*]; done) | intro _ | split | rw [Mach.each_dev] | simp [*])
                         clear_value x) | clear_value x)
    | (simp [*]; done)
    | intro _
    | split
    | rw [Mach.each_dev]
    | simp [*]

@[simp] theorem Mach.svcTransfer_dev (o : Op) (code : Nat) (x : Apt) (m : Mach) : (Mach.svcTransfer o code x m).dev = m.dev := by
  unfold Mach.svcTransfer
  try lift_lets
  repeat' first
    | (intro x; first | (have hx : x.dev = m.dev := by
                            simp only [x]
                            repeat' (first | (simp [*]; done) | intro _ | split   | simp [*])
                         clear_value x) | clear_value x)
    | (simp [*]; done)
    | intro _
    | split
    | simp [*]

@[simp] theorem Mach.svcDrain_dev (m : Mach) : (Mach.svcDrain m).dev = m.dev := by
  unfold Mach.svcDrain
  repeat' first
    | (simp [*]; done)
    | intro _
    | split
    | rw [Mach.each_dev]
    | simp [*]

@[simp] theorem Mach.svcErased_dev (o : Op) (code : Nat) (x : Apt) (m : Mach) : (Mach.svcErased o code x m).dev = m.dev := by
  unfold Mach.svcErased
  try lift_lets
  repeat' first
    | (intro x; first | (have hx : x.dev = m.dev := by
                            simp only [x]
                            repeat' (first | (simp [*]; done) | intro _ | split | rw [Mach.each_dev] | simp [*])
                         clear_value x) | clear_value x)
    | (simp [*]; done)
    | intro _
    | split
    | rw [Mach.each_dev]
    | simp [*]

@[simp] theorem Mach.pendReads_dev (e : Op) (m : Mach) : (Mach.pendReads e m).dev = m.dev := by
  unfold Mach.pendReads
  try lift_lets
  repeat' first
    | (intro x; first | (have hx : x.dev = m.dev := by
                            simp only [x]
                            repeat' (first | (simp [*]; done) | intro _ | split | rw [Mach.each_dev] | simp [*])
                         clear_value x) | clear_value x)
    | (simp [*]; done)
    | intro _
    | split
    | rw [Mach.each_dev]
    | simp [*]

@[simp] theorem Mach.svcErased1_dev (o : Op) (x : Apt) (pass : Bool) (m : Mach) : (Mach.svcErased1 o x pass m).dev = m.dev := by
  unfold Mach.svcErased1
  try lift_lets
  repeat' first
    | (intro x; first | (have hx : x.dev = m.dev := by
                            simp only [x]
                            repeat' (first | (simp [*]; done) | intro _ | split | rw [Mach.each_dev]  | simp [*])
                         clear_value x) | clear_value x)
    | (simp [*]; done)
    | intro _
    | split
    | rw [Mach.each_dev]
    | simp [*]

@[simp] theorem Mach.eraseCompletes_dev (d : Nat) (m : Mach) : (Mach.eraseCompletes d m).dev = m.dev := by
  unfold Mach.eraseCompletes
  try lift_lets
  repeat' first
    | (intro x; first | (have hx : x.dev = m.dev := by
                            simp only [x]
                            repeat' (first | (simp [*]; done) | intro _ | split | rw [Mach.each_dev] | simp [*])
                         clear_value x) | clear_value x)
    | (simp [*]; done)
    | intro _
    | split
    | rw [Mach.each_dev]
    | simp [*]

@[simp] theorem Mach.learnBoard_dev (m : Mach) : (Mach.learnBoard m).dev = m.dev := by
  unfold Mach.learnBoard
  repeat' first
    | (simp [*]; done)
    | intro _
    | split
    | simp [*]

@[simp] theorem Mach.learnTimes_dev (m : Mach) : (Mach.learnTimes m).dev = m.dev := by
  unfold Mach.learnTimes
  try lift_lets
  repeat' first
    | (intro x; first | (have hx : x.dev = m.dev := by
                            simp only [x]
                            repeat' (first | (simp [*]; done) | intro _ | split | rw [Mach.each_dev] | simp [*])
                         clear_value x) | clear_value x)
    | (simp [*]; done)
    | intro _
    | split
    | rw [Mach.each_dev]
    | simp [*]

@[simp] theorem Mach.fixBudget_dev (m : Mach) : (Mach.fixBudget m).dev = m.dev := by
  unfold Mach.fixBudget
  try lift_lets
  repeat' first
    | (intro x; first | (have hx : x.dev = m.dev := by
                            simp only [x]
                            repeat' (first | (simp [*]; done) | intro _ | split   | simp [*])
                         clear_value x) | clear_value x)
    | (simp [*]; done)
    | intro _
    | split
    | simp [*]

@[simp] theorem Mach.placeDram_dev (m : Mach) : (Mach.placeDram m).dev = m.dev := by
  unfold Mach.placeDram
  exact Mach.updLamp_dev ..

@[simp] theorem Mach.formatDie_dev (d : Nat) (i : DieInfo) (m : Mach) : (Mach.formatDie d i m).dev = m.dev := by
  unfold Mach.formatDie
  repeat' first
    | (simp [*]; done)
    | intro _
    | split
    | rw [Mach.each_dev]
    | simp [*]

@[simp] theorem Mach.unmapExtent_dev (v : Vid) (m : Mach) : (Mach.unmapExtent v m).dev = m.dev := by
  unfold Mach.unmapExtent
  try lift_lets
  repeat' first
    | (intro x; first | (have hx : x.dev = m.dev := by
                            simp only [x]
                            repeat' (first | (simp [*]; done) | intro _ | split | rw [Mach.each_dev]  | simp [*])
                         clear_value x) | clear_value x)
    | (simp [*]; done)
    | intro _
    | split
    | rw [Mach.each_dev]
    | simp [*]

@[simp] theorem Mach.discardVersions_dev (v : Vid) (m : Mach) : (Mach.discardVersions v m).dev = m.dev := by
  simp [Mach.discardVersions]

@[simp] theorem Mach.volWork_dev (v : Vid) (m : Mach) : (Mach.volWork v m).dev = m.dev := by
  unfold Mach.volWork
  try lift_lets
  repeat' first
    | (intro x; first | (have hx : x.dev = m.dev := by
                            simp only [x]
                            repeat' (first | (simp [*]; done) | intro _ | split   | simp [*])
                         clear_value x) | clear_value x)
    | (simp [*]; done)
    | intro _
    | split
    | simp [*]

@[simp] theorem Mach.volProgress_dev (m : Mach) : (Mach.volProgress m).dev = m.dev := by
  unfold Mach.volProgress
  repeat' first
    | (simp [*]; done)
    | intro _
    | split
    | rw [Mach.each_dev]
    | simp [*]

@[simp] theorem Mach.volBegin_dev (v : Vid) (x : Vol) (m : Mach) : (Mach.volBegin v x m).dev = m.dev := by
  simp [Mach.volBegin]

@[simp] theorem Mach.twnResult_dev (v : Vid) (status : Nat) (m : Mach) : (Mach.twnResult v status m).dev = m.dev := by
  unfold Mach.twnResult
  repeat' first
    | (simp [*]; done)
    | intro _
    | split
    | simp [*]

@[simp] theorem Mach.checkPopulation_dev (m : Mach) : (Mach.checkPopulation m).dev = m.dev := by
  unfold Mach.checkPopulation
  repeat' first
    | (simp [*]; done)
    | intro _
    | split
    | simp [*]

@[simp] theorem Mach.twinRepeat_dev (p : Port) (op : Nat) (v : Vid) (layout : Nat) (arg : Nat) (m : Mach) : (Mach.twinRepeat p op v layout arg m).dev = m.dev := by
  unfold Mach.twinRepeat
  try lift_lets
  repeat' first
    | (intro x; first | (have hx : x.dev = m.dev := by
                            simp only [x]
                            repeat' (first | (simp [*]; done) | intro _ | split   | simp [*])
                         clear_value x) | clear_value x)
    | (simp [*]; done)
    | intro _
    | split
    | simp [*]

@[simp] theorem Mach.formatAccepted_dev (p : Port) (x : VolArgs) (m : Mach) : (Mach.formatAccepted p x m).dev = m.dev := by
  unfold Mach.formatAccepted
  try lift_lets
  repeat' first
    | (intro x; first | (have hx : x.dev = m.dev := by
                            simp only [x]
                            repeat' (first | (simp [*]; done) | intro _ | split   | simp [*])
                         clear_value x) | clear_value x)
    | (simp [*]; done)
    | intro _
    | split
    | simp [*]

@[simp] theorem Mach.deleteAccepted_dev (p : Port) (u : Vid) (m : Mach) : (Mach.deleteAccepted p u m).dev = m.dev := by
  simp [Mach.deleteAccepted]

@[simp] theorem Mach.pendEpoch_dev (v : Vid) (e : Nat) (owner : Bool) (t : TwinSt) (m : Mach) : (Mach.pendEpoch v e owner t m).dev = m.dev := by
  simp [Mach.pendEpoch]

@[simp] theorem Mach.notOwnerCut_dev (v : Vid) (m : Mach) : (Mach.notOwnerCut v m).dev = m.dev := by
  unfold Mach.notOwnerCut
  try lift_lets
  repeat' first
    | (intro x; first | (have hx : x.dev = m.dev := by
                            simp only [x]
                            repeat' (first | (simp [*]; done) | intro _ | split | rw [Mach.each_dev]  | simp [*])
                         clear_value x) | clear_value x)
    | (simp [*]; done)
    | intro _
    | split
    | rw [Mach.each_dev]
    | simp [*]

@[simp] theorem Mach.takeAckCheck_dev (v : Vid) (m : Mach) : (Mach.takeAckCheck v m).dev = m.dev := by
  unfold Mach.takeAckCheck
  try lift_lets
  repeat' first
    | (intro x; first | (have hx : x.dev = m.dev := by
                            simp only [x]
                            repeat' (first | (simp [*]; done) | intro _ | split   | simp [*])
                         clear_value x) | clear_value x)
    | (simp [*]; done)
    | intro _
    | split
    | simp [*]

@[simp] theorem Mach.dropPieces_dev (v : Vid) (m : Mach) : (Mach.dropPieces v m).dev = m.dev := by
  unfold Mach.dropPieces
  repeat' first
    | (simp [*]; done)
    | intro _
    | split
    | rw [Mach.each_dev]
    | simp [*]

@[simp] theorem Mach.sendVolstate_dev (v : Vid) (m : Mach) : (Mach.sendVolstate v m).dev = m.dev := by
  simp [Mach.sendVolstate]

@[simp] theorem Mach.epochAnswers_dev (v : Vid) (owner : Bool) (m : Mach) : (Mach.epochAnswers v owner m).dev = m.dev := by
  unfold Mach.epochAnswers
  repeat' first
    | (simp [*]; done)
    | intro _
    | split
    | rw [Mach.each_dev]
    | simp [*]

@[simp] theorem Mach.learnEpoch_dev (v : Vid) (e : Nat) (t : TwinSt) (m : Mach) : (Mach.learnEpoch v e t m).dev = m.dev := by
  unfold Mach.learnEpoch
  repeat' first
    | (simp [*]; done)
    | intro _
    | split
    | simp [*]

@[simp] theorem Mach.dropPartner_dev (m : Mach) : (Mach.dropPartner m).dev = m.dev := by
  unfold Mach.dropPartner
  try lift_lets
  repeat' first
    | (intro x; first | (have hx : x.dev = m.dev := by
                            simp only [x]
                            repeat' (first | (simp [*]; done) | intro _ | split | rw [Mach.each_dev]  | simp [*])
                         clear_value x) | clear_value x)
    | (simp [*]; done)
    | intro _
    | split
    | rw [Mach.each_dev]
    | simp [*]

@[simp] theorem Mach.waitLost_dev (w : TwinWait) (m : Mach) : (Mach.waitLost w m).dev = m.dev := by
  unfold Mach.waitLost
  try lift_lets
  repeat' first
    | (intro x; first | (have hx : x.dev = m.dev := by
                            simp only [x]
                            repeat' (first | (simp [*]; done) | intro _ | split   | simp [*])
                         clear_value x) | clear_value x)
    | (simp [*]; done)
    | intro _
    | split
    | simp [*]

@[simp] theorem Mach.durableBack_dev (m : Mach) : (Mach.durableBack m).dev = m.dev := by
  unfold Mach.durableBack
  repeat' first
    | (simp [*]; done)
    | intro _
    | split
    | rw [Mach.each_dev]
    | simp [*]

@[simp] theorem Mach.sendRsmap_dev (v : Vid) (m : Mach) : (Mach.sendRsmap v m).dev = m.dev := by
  unfold Mach.sendRsmap
  try lift_lets
  repeat' first
    | (intro x; first | (have hx : x.dev = m.dev := by
                            simp only [x]
                            repeat' (first | (simp [*]; done) | intro _ | split | rw [Mach.each_dev]  | simp [*])
                         clear_value x) | clear_value x)
    | (simp [*]; done)
    | intro _
    | split
    | rw [Mach.each_dev]
    | simp [*]

@[simp] theorem Mach.inSync_dev (v : Vid) (m : Mach) : (Mach.inSync v m).dev = m.dev := by
  unfold Mach.inSync
  try lift_lets
  repeat' first
    | (intro x; first | (have hx : x.dev = m.dev := by
                            simp only [x]
                            repeat' (first | (simp [*]; done) | intro _ | split | rw [Mach.each_dev]  | simp [*])
                         clear_value x) | clear_value x)
    | (simp [*]; done)
    | intro _
    | split
    | rw [Mach.each_dev]
    | simp [*]

@[simp] theorem Mach.keyCut_dev (v : Vid) (m : Mach) : (Mach.keyCut v m).dev = m.dev := by
  unfold Mach.keyCut
  repeat' first
    | (simp [*]; done)
    | intro _
    | split
    | rw [Mach.each_dev]
    | simp [*]

@[simp] theorem Mach.discardCopies_dev (v : Vid) (m : Mach) : (Mach.discardCopies v m).dev = m.dev := by
  simp [Mach.discardCopies]

@[simp] theorem Mach.retireVol_dev (v : Vid) (m : Mach) : (Mach.retireVol v m).dev = m.dev := by
  simp [Mach.retireVol]

@[simp] theorem Mach.zeroiseSlot_dev (k : Nat) (m : Mach) : (Mach.zeroiseSlot k m).dev = m.dev := by
  unfold Mach.zeroiseSlot
  try lift_lets
  repeat' first
    | (intro x; first | (have hx : x.dev = m.dev := by
                            simp only [x]
                            repeat' (first | (simp [*]; done) | intro _ | split | rw [Mach.each_dev]  | simp [*])
                         clear_value x) | clear_value x)
    | (simp [*]; done)
    | intro _
    | split
    | rw [Mach.each_dev]
    | simp [*]

@[simp] theorem Mach.cutPage_dev (pg : PagePgm) (m : Mach) : (Mach.cutPage pg m).dev = m.dev := by
  unfold Mach.cutPage
  try lift_lets
  repeat' first
    | (intro x; first | (have hx : x.dev = m.dev := by
                            simp only [x]
                            repeat' (first | (simp [*]; done) | intro _ | split | rw [Mach.each_dev] | simp [*])
                         clear_value x) | clear_value x)
    | (simp [*]; done)
    | intro _
    | split
    | rw [Mach.each_dev]
    | simp [*]

@[simp] theorem Mach.landOps_dev (power : Bool) (m : Mach) : (Mach.landOps power m).dev = m.dev := by
  unfold Mach.landOps
  try lift_lets
  repeat' first
    | (intro x; first | (have hx : x.dev = m.dev := by
                            simp only [x]
                            repeat' (first | (simp [*]; done) | intro _ | split | rw [Mach.each_dev] | simp [*])
                         clear_value x) | clear_value x)
    | (simp [*]; done)
    | intro _
    | split
    | rw [Mach.each_dev]
    | simp [*]

@[simp] theorem Mach.landLog_dev (m : Mach) : (Mach.landLog m).dev = m.dev := by
  unfold Mach.landLog
  try lift_lets
  repeat' first
    | (intro x; first | (have hx : x.dev = m.dev := by
                            simp only [x]
                            repeat' (first | (simp [*]; done) | intro _ | split   | simp [*])
                         clear_value x) | clear_value x)
    | (simp [*]; done)
    | intro _
    | split
    | simp [*]

@[simp] theorem Mach.stop_dev (power : Bool) (m : Mach) : (Mach.stop power m).dev = m.dev := by
  unfold Mach.stop
  dsimp only
  split <;> simp

@[simp] theorem Mach.domainOn_dev (i : Nat) (m : Mach) : (Mach.domainOn i m).dev = m.dev := by
  unfold Mach.domainOn
  try lift_lets
  repeat' first
    | (intro x; first | (have hx : x.dev = m.dev := by
                            simp only [x]
                            repeat' (first | (simp [*]; done) | intro _ | split | rw [Mach.each_dev]  | simp [*])
                         clear_value x) | clear_value x)
    | (simp [*]; done)
    | intro _
    | split
    | rw [Mach.each_dev]
    | simp [*]

@[simp] theorem Mach.domainOff_dev (i : Nat) (m : Mach) : (Mach.domainOff i m).dev = m.dev := by
  unfold Mach.domainOff
  try lift_lets
  repeat' first
    | (intro x; first | (have hx : x.dev = m.dev := by
                            simp only [x]
                            repeat' (first | (simp [*]; done) | intro _ | split | rw [Mach.each_dev]  | simp [*])
                         clear_value x) | clear_value x)
    | (simp [*]; done)
    | intro _
    | split
    | rw [Mach.each_dev]
    | simp [*]

@[simp] theorem Mach.powerUp_dev (i : Nat) (m : Mach) : (Mach.powerUp i m).dev = m.dev := by
  unfold Mach.powerUp
  repeat' first
    | (simp [*]; done)
    | intro _
    | split
    | simp [*]

@[simp] theorem Mach.resetPage_dev (p : Page) (m : Mach) : (Mach.resetPage p m).dev = m.dev := by
  unfold Mach.resetPage
  try lift_lets
  repeat' first
    | (intro x; first | (have hx : x.dev = m.dev := by
                            simp only [x]
                            repeat' (first | (simp [*]; done) | intro _ | split   | simp [*])
                         clear_value x) | clear_value x)
    | (simp [*]; done)
    | intro _
    | split
    | simp [*]

@[simp] theorem Mach.domComesOn_dev (d : Nat) (m : Mach) : (Mach.domComesOn d m).dev = m.dev := by
  unfold Mach.domComesOn
  try lift_lets
  repeat' first
    | (intro x; first | (have hx : x.dev = m.dev := by
                            simp only [x]
                            repeat' (first | (simp [*]; done) | intro _ | split | rw [Mach.each_dev]  | simp [*])
                         clear_value x) | clear_value x)
    | (simp [*]; done)
    | intro _
    | split
    | rw [Mach.each_dev]
    | simp [*]

@[simp] theorem Mach.switchEnd_dev (m : Mach) : (Mach.switchEnd m).dev = m.dev := by
  unfold Mach.switchEnd
  try lift_lets
  repeat' first
    | (intro x; first | (have hx : x.dev = m.dev := by
                            simp only [x]
                            repeat' (first | (simp [*]; done) | intro _ | split   | simp [*])
                         clear_value x) | clear_value x)
    | (simp [*]; done)
    | intro _
    | split
    | simp [*]

@[simp] theorem Mach.bringUp_dev (p : Page) (m : Mach) : (Mach.bringUp p m).dev = m.dev := by
  unfold Mach.bringUp
  repeat' first
    | (simp [*]; done)
    | intro _
    | split
    | simp [*]

@[simp] theorem Mach.dropPortCmds_dev (p : Port) (m : Mach) : (Mach.dropPortCmds p m).dev = m.dev := by
  unfold Mach.dropPortCmds
  try lift_lets
  repeat' first
    | (intro x; first | (have hx : x.dev = m.dev := by
                            simp only [x]
                            repeat' (first | (simp [*]; done) | intro _ | split | rw [Mach.each_dev]  | simp [*])
                         clear_value x) | clear_value x)
    | (simp [*]; done)
    | intro _
    | split
    | rw [Mach.each_dev]
    | simp [*]

@[simp] theorem Mach.dropPortQueues_dev (p : Port) (m : Mach) : (Mach.dropPortQueues p m).dev = m.dev := by
  unfold Mach.dropPortQueues
  try lift_lets
  repeat' first
    | (intro x; first | (have hx : x.dev = m.dev := by
                            simp only [x]
                            repeat' (first | (simp [*]; done) | intro _ | split   | simp [*])
                         clear_value x) | clear_value x)
    | (simp [*]; done)
    | intro _
    | split
    | simp [*]

@[simp] theorem Mach.resetPortPage_dev (p : Port) (m : Mach) : (Mach.resetPortPage p m).dev = m.dev := by
  unfold Mach.resetPortPage
  try lift_lets
  repeat' first
    | (intro x; first | (have hx : x.dev = m.dev := by
                            simp only [x]
                            repeat' (first | (simp [*]; done) | intro _ | split   | simp [*])
                         clear_value x) | clear_value x)
    | (simp [*]; done)
    | intro _
    | split
    | simp [*]

@[simp] theorem Mach.dropTransfer_dev (p : Port) (m : Mach) : (Mach.dropTransfer p m).dev = m.dev := by
  unfold Mach.dropTransfer
  repeat' first
    | (simp [*]; done)
    | intro _
    | split
    | simp [*]

@[simp] theorem Mach.learnEyes_dev (d : Fin 4) (m : Mach) : (Mach.learnEyes d m).dev = m.dev := by
  unfold Mach.learnEyes
  try lift_lets
  repeat' first
    | (intro x; first | (have hx : x.dev = m.dev := by
                            simp only [x]
                            repeat' (first | (simp [*]; done) | intro _ | split   | simp [*])
                         clear_value x) | clear_value x)
    | (simp [*]; done)
    | intro _
    | split
    | simp [*]

@[simp] theorem Mach.setRate_dev (cs : List Chan) (r : Nat) (m : Mach) : (Mach.setRate cs r m).dev = m.dev := by
  unfold Mach.setRate
  try lift_lets
  repeat' first
    | (intro x; first | (have hx : x.dev = m.dev := by
                            simp only [x]
                            repeat' (first | (simp [*]; done) | intro _ | split | rw [Mach.each_dev] | simp [*])
                         clear_value x) | clear_value x)
    | (simp [*]; done)
    | intro _
    | split
    | rw [Mach.each_dev]
    | simp [*]

@[simp] theorem Mach.fixRate_dev (c : Chan) (m : Mach) : (Mach.fixRate c m).dev = m.dev := by
  unfold Mach.fixRate
  try lift_lets
  repeat' first
    | (intro x; first | (have hx : x.dev = m.dev := by
                            simp only [x]
                            repeat' (first | (simp [*]; done) | intro _ | split | rw [Mach.each_dev]  | simp [*])
                         clear_value x) | clear_value x)
    | (simp [*]; done)
    | intro _
    | split
    | rw [Mach.each_dev]
    | simp [*]

@[simp] theorem Mach.learnDie_dev (c : Chan) (i : ParamPage) (m : Mach) : (Mach.learnDie c i m).dev = m.dev := by
  unfold Mach.learnDie
  try lift_lets
  repeat' first
    | (intro x; first | (have hx : x.dev = m.dev := by
                            simp only [x]
                            repeat' (first | (simp [*]; done) | intro _ | split | rw [Mach.each_dev] | simp [*])
                         clear_value x) | clear_value x)
    | (simp [*]; done)
    | intro _
    | split
    | rw [Mach.each_dev]
    | simp [*]

@[simp] theorem Mach.learnAll_dev (m : Mach) : (Mach.learnAll m).dev = m.dev := by
  unfold Mach.learnAll
  try lift_lets
  repeat' first
    | (intro x; first | (have hx : x.dev = m.dev := by
                            simp only [x]
                            repeat' (first | (simp [*]; done) | intro _ | split   | simp [*])
                         clear_value x) | clear_value x)
    | (simp [*]; done)
    | intro _
    | split
    | simp [*]

@[simp] theorem Mach.replaySeg_dev (s : Nat) (m : Mach) : (Mach.replaySeg s m).dev = m.dev := by
  simp [Mach.replaySeg]

@[simp] theorem Mach.replayFur_dev (f : Nat) (x : Fur) (m : Mach) : (Mach.replayFur f x m).dev = m.dev := by
  simp [Mach.replayFur]

@[simp] theorem Mach.replayBlk_dev (d b : Nat) (x : Blk) (m : Mach) : (Mach.replayBlk d b x m).dev = m.dev := by
  simp [Mach.replayBlk]

@[simp] theorem Mach.replayBad_dev (d b cause : Nat) (pot : Word) (e : BadEnd) (m : Mach) : (Mach.replayBad d b cause pot e m).dev = m.dev := by
  unfold Mach.replayBad
  cases e <;> simp
  split <;> simp

@[simp] theorem Mach.replayErased_dev (f : Nat) (m : Mach) : (Mach.replayErased f m).dev = m.dev := by
  unfold Mach.replayErased
  try lift_lets
  repeat' first
    | (intro x; first | (have hx : x.dev = m.dev := by
                            simp only [x]
                            repeat' (first | (simp [*]; done) | intro _ | split | rw [Mach.each_dev]  | simp [*])
                         clear_value x) | clear_value x)
    | (simp [*]; done)
    | intro _
    | split
    | rw [Mach.each_dev]
    | simp [*]

@[simp] theorem Mach.applyRec_dev (r : HRec) (m : Mach) : (Mach.applyRec r m).dev = m.dev := by
  unfold Mach.applyRec
  try lift_lets
  repeat' first
    | (intro x; first | (have hx : x.dev = m.dev := by
                            simp only [x]
                            repeat' (first | (simp [*]; done) | intro _ | split | rw [Mach.each_dev]  | simp [*])
                         clear_value x) | clear_value x)
    | (simp [*]; done)
    | intro _
    | split
    | rw [Mach.each_dev]
    | simp [*]

@[simp] theorem Mach.applyOffer_dev (unreadable : List Nat) (recs : List HRec) (o : Offer) (m : Mach) : (Mach.applyOffer unreadable recs o m).dev = m.dev := by
  unfold Mach.applyOffer
  try lift_lets
  repeat' first
    | (intro x; first | (have hx : x.dev = m.dev := by
                            simp only [x]
                            repeat' (first | (simp [*]; done) | intro _ | split | rw [Mach.each_dev] | simp [*])
                         clear_value x) | clear_value x)
    | (simp [*]; done)
    | intro _
    | split
    | rw [Mach.each_dev]
    | simp [*]

@[simp] theorem Mach.learnInst_dev (m : Mach) : (Mach.learnInst m).dev = m.dev := by
  unfold Mach.learnInst
  repeat' first
    | (simp [*]; done)
    | intro _
    | split
    | rw [Mach.each_dev]
    | simp [*]

@[simp] theorem Mach.settleFur_dev (fs : List (Nat × Nat)) (f : Nat) (m : Mach) : (Mach.settleFur fs f m).dev = m.dev := by
  unfold Mach.settleFur
  try lift_lets
  repeat' first
    | (intro x; first | (have hx : x.dev = m.dev := by
                            simp only [x]
                            repeat' (first | (simp [*]; done) | intro _ | split   | simp [*])
                         clear_value x) | clear_value x)
    | (simp [*]; done)
    | intro _
    | split
    | simp [*]

@[simp] theorem Mach.markErases_dev (m : Mach) : (Mach.markErases m).dev = m.dev := by
  unfold Mach.markErases
  repeat' first
    | (simp [*]; done)
    | intro _
    | split
    | rw [Mach.each_dev]
    | simp [*]

@[simp] theorem Mach.settleErases_dev (m : Mach) : (Mach.settleErases m).dev = m.dev := by
  unfold Mach.settleErases
  try lift_lets
  repeat' first
    | (intro x; first | (have hx : x.dev = m.dev := by
                            simp only [x]
                            repeat' (first | (simp [*]; done) | intro _ | split | rw [Mach.each_dev]  | simp [*])
                         clear_value x) | clear_value x)
    | (simp [*]; done)
    | intro _
    | split
    | rw [Mach.each_dev]
    | simp [*]

@[simp] theorem Mach.readDump_dev (m : Mach) : (Mach.readDump m).dev = m.dev := by
  unfold Mach.readDump
  try lift_lets
  repeat' first
    | (intro x; first | (have hx : x.dev = m.dev := by
                            simp only [x]
                            repeat' (first | (simp [*]; done) | intro _ | split | rw [Mach.each_dev]  | simp [*])
                         clear_value x) | clear_value x)
    | (simp [*]; done)
    | intro _
    | split
    | rw [Mach.each_dev]
    | simp [*]

@[simp] theorem Mach.nextCounters_dev (unreadable : List Nat) (fs : List (Nat × Nat)) (m : Mach) : (Mach.nextCounters unreadable fs m).dev = m.dev := by
  unfold Mach.nextCounters
  try lift_lets
  repeat' first
    | (intro x; first | (have hx : x.dev = m.dev := by
                            simp only [x]
                            repeat' (first | (simp [*]; done) | intro _ | split | rw [Mach.each_dev] | simp [*])
                         clear_value x) | clear_value x)
    | (simp [*]; done)
    | intro _
    | split
    | rw [Mach.each_dev]
    | simp [*]

@[simp] theorem Mach.resumeRebuild_dev (m : Mach) : (Mach.resumeRebuild m).dev = m.dev := by
  unfold Mach.resumeRebuild
  try lift_lets
  repeat' first
    | (intro x; first | (have hx : x.dev = m.dev := by
                            simp only [x]
                            repeat' (first | (simp [*]; done) | intro _ | split   | simp [*])
                         clear_value x) | clear_value x)
    | (simp [*]; done)
    | intro _
    | split
    | simp [*]

@[simp] theorem Mach.setSlot_dev (s : Fin 2) (x : FwSlot) (m : Mach) : (Mach.setSlot s x m).dev = m.dev := by
  simp [Mach.setSlot]

@[simp] theorem Mach.spoilSlot_dev (s : Fin 2) (m : Mach) : (Mach.spoilSlot s m).dev = m.dev := by
  simp [Mach.spoilSlot]

@[simp] theorem Mach.abandon_dev (m : Mach) : (Mach.abandon m).dev = m.dev := by
  unfold Mach.abandon
  repeat' first
    | (simp [*]; done)
    | intro _
    | split
    | simp [*]

@[simp] theorem Mach.checkImage_dev (p : Port) (s : Fin 2) (img : Image) (m : Mach) : (Mach.checkImage p s img m).dev = m.dev := by
  unfold Mach.checkImage
  try lift_lets
  repeat' first
    | (intro x; first | (have hx : x.dev = m.dev := by
                            simp only [x]
                            repeat' (first | (simp [*]; done) | intro _ | split   | simp [*])
                         clear_value x) | clear_value x)
    | (simp [*]; done)
    | intro _
    | split
    | simp [*]

@[simp] theorem Mach.beginTransfer_dev (p : Port) (s : Fin 2) (len : Nat) (f : Mach → Mach) (m : Mach) (h : (f m).dev = m.dev) :
    (Mach.beginTransfer p s len f m).dev = m.dev := by
  unfold Mach.beginTransfer
  repeat' first
    | exact h
    | (simp; done)
    | split

@[simp] theorem Mach.transferFull_dev (p : Port) (s : Fin 2) (len : Nat) (img : Image) (m : Mach) : (Mach.transferFull p s len img m).dev = m.dev := by
  unfold Mach.transferFull
  refine Mach.mail_dev (h := ?_) ..
  first
    | (simp; done)
    | (dsimp only; split <;> simp)
    | (exact Mach.beginTransfer_dev (h := by simp) ..)
    | (exact Mach.laterPart_dev (h := fun _ => by simp) ..)

@[simp] theorem Mach.transferInitiate_dev (p : Port) (s : Fin 2) (len : Nat) (m : Mach) : (Mach.transferInitiate p s len m).dev = m.dev := by
  unfold Mach.transferInitiate
  refine Mach.mail_dev (h := ?_) ..
  first
    | (simp; done)
    | (dsimp only; split <;> simp)
    | (exact Mach.beginTransfer_dev (h := by simp) ..)
    | (exact Mach.laterPart_dev (h := fun _ => by simp) ..)

@[simp] theorem Mach.laterPart_dev (p : Port) (s : Fin 2) (off len : Nat) (f : Nat → Mach → Mach) (m : Mach)
    (h : ∀ n, (f n m).dev = m.dev) : (Mach.laterPart p s off len f m).dev = m.dev := by
  unfold Mach.laterPart
  repeat' first
    | exact h _
    | (simp; done)
    | split

@[simp] theorem Mach.transferContinue_dev (p : Port) (s : Fin 2) (off len : Nat) (m : Mach) : (Mach.transferContinue p s off len m).dev = m.dev := by
  unfold Mach.transferContinue
  refine Mach.mail_dev (h := ?_) ..
  first
    | (simp; done)
    | (dsimp only; split <;> simp)
    | (exact Mach.beginTransfer_dev (h := by simp) ..)
    | (exact Mach.laterPart_dev (h := fun _ => by simp) ..)

@[simp] theorem Mach.transferEnd_dev (p : Port) (s : Fin 2) (off len : Nat) (img : Image) (m : Mach) : (Mach.transferEnd p s off len img m).dev = m.dev := by
  unfold Mach.transferEnd
  refine Mach.mail_dev (h := ?_) ..
  first
    | (simp; done)
    | (dsimp only; split <;> simp)
    | (exact Mach.beginTransfer_dev (h := by simp) ..)
    | (exact Mach.laterPart_dev (h := fun _ => by simp) ..)

@[simp] theorem Mach.activateNext_dev (p : Port) (s : Fin 2) (m : Mach) : (Mach.activateNext p s m).dev = m.dev := by
  unfold Mach.activateNext
  refine Mach.mail_dev (h := ?_) ..
  split <;> simp

@[simp] theorem Mach.hitlessPause_dev (m : Mach) : (Mach.hitlessPause m).dev = m.dev := by
  unfold Mach.hitlessPause
  repeat' first
    | (simp [*]; done)
    | intro _
    | split
    | simp [*]

@[simp] theorem Mach.hitlessRollback_dev (m : Mach) : (Mach.hitlessRollback m).dev = m.dev := by
  unfold Mach.hitlessRollback
  repeat' first
    | (simp [*]; done)
    | intro _
    | split
    | simp [*]

@[simp] theorem Mach.touchPage_dev (a : LampAddr) (m : Mach) : (Mach.touchPage a m).dev = m.dev := by
  unfold Mach.touchPage
  try lift_lets
  repeat' first
    | (intro x; first | (have hx : x.dev = m.dev := by
                            simp only [x]
                            repeat' (first | (simp [*]; done) | intro _ | split   | simp [*])
                         clear_value x) | clear_value x)
    | (simp [*]; done)
    | intro _
    | split
    | simp [*]

@[simp] theorem Mach.rasUncor_dev (p : Port) (m : Mach) : (Mach.rasUncor p m).dev = m.dev := by
  unfold Mach.rasUncor
  try lift_lets
  repeat' first
    | (intro x; first | (have hx : x.dev = m.dev := by
                            simp only [x]
                            repeat' (first | (simp [*]; done) | intro _ | split | rw [Mach.each_dev] | simp [*])
                         clear_value x) | clear_value x)
    | (simp [*]; done)
    | intro _
    | split
    | rw [Mach.each_dev]
    | simp [*]

@[simp] theorem Mach.serveWrite_dev (p : Port) (dpa : Nat) (a : LampAddr) (x : Line) (mute held : Bool) (m : Mach) : (Mach.serveWrite p dpa a x mute held m).dev = m.dev := by
  unfold Mach.serveWrite
  try lift_lets
  repeat' first
    | (intro x; first | (have hx : x.dev = m.dev := by
                            simp only [x]
                            repeat' (first | (simp [*]; done) | intro _ | split | rw [Mach.each_dev] | simp [*])
                         clear_value x) | clear_value x)
    | (simp [*]; done)
    | intro _
    | split
    | rw [Mach.each_dev]
    | simp [*]

@[simp] theorem Mach.servePoison_dev (p : Port) (a : LampAddr) (mute : Bool) (m : Mach) : (Mach.servePoison p a mute m).dev = m.dev := by
  unfold Mach.servePoison
  try lift_lets
  repeat' first
    | (intro x; first | (have hx : x.dev = m.dev := by
                            simp only [x]
                            repeat' (first | (simp [*]; done) | intro _ | split | rw [Mach.each_dev] | simp [*])
                         clear_value x) | clear_value x)
    | (simp [*]; done)
    | intro _
    | split
    | rw [Mach.each_dev]
    | simp [*]

@[simp] theorem Mach.clearRegion_dev (k : Nat) (m : Mach) : (Mach.clearRegion k m).dev = m.dev := by
  unfold Mach.clearRegion
  try lift_lets
  repeat' first
    | (intro x; first | (have hx : x.dev = m.dev := by
                            simp only [x]
                            repeat' (first | (simp [*]; done) | intro _ | split   | simp [*])
                         clear_value x) | clear_value x)
    | (simp [*]; done)
    | intro _
    | split
    | simp [*]

@[simp] theorem Mach.endOp_dev (mine : BgOp → Bool) (status : Nat) (m : Mach) : (Mach.endOp mine status m).dev = m.dev := by
  unfold Mach.endOp
  repeat' first
    | (simp [*]; done)
    | intro _
    | split
    | simp [*]

@[simp] theorem Mach.recGivenUp_dev (id : Nat) (c : Chan) (m : Mach) : (Mach.recGivenUp id c m).dev = m.dev := by
  unfold Mach.recGivenUp
  try lift_lets
  repeat' first
    | (intro x; first | (have hx : x.dev = m.dev := by
                            simp only [x]
                            repeat' (first | (simp [*]; done) | intro _ | split   | simp [*])
                         clear_value x) | clear_value x)
    | (simp [*]; done)
    | intro _
    | split
    | simp [*]

@[simp] theorem Mach.opGivenUp_dev (o : Op) (m : Mach) : (Mach.opGivenUp o m).dev = m.dev := by
  unfold Mach.opGivenUp
  try lift_lets
  repeat' first
    | (intro x; first | (have hx : x.dev = m.dev := by
                            simp only [x]
                            repeat' (first | (simp [*]; done) | intro _ | split   | simp [*])
                         clear_value x) | clear_value x)
    | (simp [*]; done)
    | intro _
    | split
    | simp [*]

@[simp] theorem Mach.chanGivenUp_dev (c : Chan) (m : Mach) : (Mach.chanGivenUp c m).dev = m.dev := by
  unfold Mach.chanGivenUp
  try lift_lets
  repeat' first
    | (intro x; first | (have hx : x.dev = m.dev := by
                            simp only [x]
                            repeat' (first | (simp [*]; done) | intro _ | split | rw [Mach.each_dev]  | simp [*])
                         clear_value x) | clear_value x)
    | (simp [*]; done)
    | intro _
    | split
    | rw [Mach.each_dev]
    | simp [*]

@[simp] theorem Mach.dumpRecord_dev (b : HBody) (m : Mach) : (Mach.dumpRecord b m).dev = m.dev := by
  unfold Mach.dumpRecord
  cases h : m.hdlRoom (2 * m.hdlFurs.length + 4) (m.recCws b) with
  | none => simp
  | some r => simpa using Mach.hdlRoom_dev (h := h) ..

@[simp] theorem Mach.dumpRoot_dev (m : Mach) : (Mach.dumpRoot m).dev = m.dev := by
  simp [Mach.dumpRoot]

@[simp] theorem Mach.mirrorLb_dev (v : Vid) (lba : Nat) (d : Block) (m : Mach) : (Mach.mirrorLb v lba d m).dev = m.dev := by
  unfold Mach.mirrorLb
  try lift_lets
  repeat' first
    | (intro x; first | (have hx : x.dev = m.dev := by
                            simp only [x]
                            repeat' (first | (simp [*]; done) | intro _ | split   | simp [*])
                         clear_value x) | clear_value x)
    | (simp [*]; done)
    | intro _
    | split
    | simp [*]

@[simp] theorem Mach.lampPageOut_dev (frame key p : Nat) (m : Mach) : (Mach.lampPageOut frame key p m).dev = m.dev := by
  unfold Mach.lampPageOut
  dsimp only
  repeat' first
    | (simp; done)
    | split

@[simp] theorem Mach.lampOut_dev (m : Mach) : (Mach.lampOut m).dev = m.dev := by
  unfold Mach.lampOut
  repeat' first
    | (simp [*]; done)
    | intro _
    | split
    | rw [Mach.each_dev]
    | simp [*]

@[simp] theorem Mach.definitionIfChanged_dev (m : Mach) : (Mach.definitionIfChanged m).dev = m.dev := by
  unfold Mach.definitionIfChanged
  repeat' first
    | (simp [*]; done)
    | intro _
    | split
    | simp [*]

@[simp] theorem Mach.stdMail_dev (i : Instr) (p : Port) (early : Bool) (f : Mach → Mach) (m : Mach) (h : (f m).dev = m.dev) :
    (Mach.stdMail i p early f m).dev = m.dev := by
  unfold Mach.stdMail; exact Mach.mail_dev (h := h) ..

@[simp] theorem Mach.getEvents_dev (p : Port) (log : Fin 4) (m : Mach) : (Mach.getEvents p log m).dev = m.dev := by
  unfold Mach.getEvents
  try lift_lets
  repeat' first
    | (intro x; first | (have hx : x.dev = m.dev := by
                            simp only [x]
                            repeat' (first | (simp [*]; done) | intro _ | split   | simp [*])
                         clear_value x) | clear_value x)
    | (simp [*]; done)
    | intro _
    | split
    | simp [*]

@[simp] theorem Mach.clearEvents_dev (p : Port) (log : Fin 4) (all : Bool) (handles : List Nat) (m : Mach) : (Mach.clearEvents p log all handles m).dev = m.dev := by
  unfold Mach.clearEvents
  try lift_lets
  repeat' first
    | (intro x; first | (have hx : x.dev = m.dev := by
                            simp only [x]
                            repeat' (first | (simp [*]; done) | intro _ | split   | simp [*])
                         clear_value x) | clear_value x)
    | (simp [*]; done)
    | intro _
    | split
    | simp [*]

@[simp] theorem Mach.getFwInfo_dev (p : Port) (m : Mach) : (Mach.getFwInfo p m).dev = m.dev := by
  unfold Mach.getFwInfo
  try lift_lets
  repeat' first
    | (intro x; first | (have hx : x.dev = m.dev := by
                            simp only [x]
                            repeat' (first | (simp [*]; done) | intro _ | split   | simp [*])
                         clear_value x) | clear_value x)
    | (simp [*]; done)
    | intro _
    | split
    | simp [*]

@[simp] theorem Mach.supportedLogs_dev (p : Port) (m : Mach) : (Mach.supportedLogs p m).dev = m.dev := by
  simp [Mach.supportedLogs]

@[simp] theorem Mach.getLog_dev (p : Port) (cel : Bool) (off len : Nat) (m : Mach) : (Mach.getLog p cel off len m).dev = m.dev := by
  unfold Mach.getLog
  repeat' first
    | (simp [*]; done)
    | intro _
    | split
    | simp [*]

@[simp] theorem Mach.identifyMemory_dev (p : Port) (m : Mach) : (Mach.identifyMemory p m).dev = m.dev := by
  unfold Mach.identifyMemory
  try lift_lets
  repeat' first
    | (intro x; first | (have hx : x.dev = m.dev := by
                            simp only [x]
                            repeat' (first | (simp [*]; done) | intro _ | split   | simp [*])
                         clear_value x) | clear_value x)
    | (simp [*]; done)
    | intro _
    | split
    | simp [*]

@[simp] theorem Mach.healthInfo_dev (p : Port) (m : Mach) : (Mach.healthInfo p m).dev = m.dev := by
  simp [Mach.healthInfo]

@[simp] theorem Mach.poisonList_dev (p : Port) (dpa len : Nat) (m : Mach) : (Mach.poisonList p dpa len m).dev = m.dev := by
  unfold Mach.poisonList
  try lift_lets
  repeat' first
    | (intro x; first | (have hx : x.dev = m.dev := by
                            simp only [x]
                            repeat' (first | (simp [*]; done) | intro _ | split   | simp [*])
                         clear_value x) | clear_value x)
    | (simp [*]; done)
    | intro _
    | split
    | simp [*]

@[simp] theorem Mach.badOpcode_dev (i : Instr) (p : Port) (m : Mach) : (Mach.badOpcode i p m).dev = m.dev := by
  unfold Mach.badOpcode; exact Mach.stdMail_dev (h := by simp) ..

@[simp] theorem Mach.identify_dev (p : Port) (m : Mach) : (Mach.identify p m).dev = m.dev := by
  simp [Mach.identify]

@[simp] theorem Mach.getLogExt_dev (p : Port) (id sel off len : Nat) (m : Mach) : (Mach.getLogExt p id sel off len m).dev = m.dev := by
  unfold Mach.getLogExt
  repeat' first
    | (simp [*]; done)
    | intro _
    | split
    | simp [*]

@[simp] theorem Mach.getFeature_dev (p : Port) (fid sel : Nat) (m : Mach) : (Mach.getFeature p fid sel m).dev = m.dev := by
  unfold Mach.getFeature
  repeat' first
    | (simp [*]; done)
    | intro _
    | split
    | simp [*]

@[simp] theorem Mach.storeFeature_dev (p : Port) (fid v : Nat) (m : Mach) : (Mach.storeFeature p fid v m).dev = m.dev := by
  simp [Mach.storeFeature]

@[simp] theorem Mach.letUnmirrored_dev (m : Mach) : (Mach.letUnmirrored m).dev = m.dev := by
  unfold Mach.letUnmirrored
  try lift_lets
  repeat' first
    | (intro x; first | (have hx : x.dev = m.dev := by
                            simp only [x]
                            repeat' (first | (simp [*]; done) | intro _ | split | rw [Mach.each_dev]  | simp [*])
                         clear_value x) | clear_value x)
    | (simp [*]; done)
    | intro _
    | split
    | rw [Mach.each_dev]
    | simp [*]

@[simp] theorem Mach.setHoldup_dev (p : Port) (v : Nat) (m : Mach) : (Mach.setHoldup p v m).dev = m.dev := by
  unfold Mach.setHoldup
  try lift_lets
  repeat' first
    | (intro x; first | (have hx : x.dev = m.dev := by
                            simp only [x]
                            repeat' (first | (simp [*]; done) | intro _ | split   | simp [*])
                         clear_value x) | clear_value x)
    | (simp [*]; done)
    | intro _
    | split
    | simp [*]

@[simp] theorem Mach.setKey_dev (p : Port) (k : BitVec 776) (m : Mach) : (Mach.setKey p k m).dev = m.dev := by
  unfold Mach.setKey
  repeat' first
    | (simp [*]; done)
    | intro _
    | split
    | simp [*]

@[simp] theorem Mach.svCommit_dev (p : Port) (v : Nat) (m : Mach) : (Mach.svCommit p v m).dev = m.dev := by
  unfold Mach.svCommit
  repeat' first
    | (simp [*]; done)
    | intro _
    | split
    | simp [*]

@[simp] theorem Mach.volumeRo_dev (p : Port) (vol : Vid) (v : Nat) (m : Mach) : (Mach.volumeRo p vol v m).dev = m.dev := by
  unfold Mach.volumeRo
  try lift_lets
  repeat' first
    | (intro x; first | (have hx : x.dev = m.dev := by
                            simp only [x]
                            repeat' (first | (simp [*]; done) | intro _ | split   | simp [*])
                         clear_value x) | clear_value x)
    | (simp [*]; done)
    | intro _
    | split
    | simp [*]

@[simp] theorem Mach.setFeature_dev (p : Port) (fid sel v : Nat) (m : Mach) : (Mach.setFeature p fid sel v m).dev = m.dev := by
  unfold Mach.setFeature
  repeat' first
    | (simp [*]; done)
    | intro _
    | split
    | rw [Mach.when_dev]
    | simp [*]

@[simp] theorem Mach.withServiceKey_dev (p : Port) (f : BitVec 776 → Mach → Mach) (m : Mach) (h : ∀ k, (f k m).dev = m.dev) :
    (Mach.withServiceKey p f m).dev = m.dev := by
  unfold Mach.withServiceKey
  split
  · simp
  · exact h _

@[simp] theorem Mach.unlockChallenge_dev (p : Port) (m : Mach) : (Mach.unlockChallenge p m).dev = m.dev := by
  simp [Mach.unlockChallenge]

@[simp] theorem Mach.unlockSignature_dev (p : Port) (sig : BitVec 768) (k : BitVec 776) (m : Mach) : (Mach.unlockSignature p sig k m).dev = m.dev := by
  unfold Mach.unlockSignature
  try lift_lets
  repeat' first
    | (intro x; first | (have hx : x.dev = m.dev := by
                            simp only [x]
                            repeat' (first | (simp [*]; done) | intro _ | split   | simp [*])
                         clear_value x) | clear_value x)
    | (simp [*]; done)
    | intro _
    | split
    | simp [*]

@[simp] theorem Mach.lockout_dev (m : Mach) : (Mach.lockout m).dev = m.dev := by
  unfold Mach.lockout
  repeat' first
    | (simp [*]; done)
    | intro _
    | split
    | simp [*]

@[simp] theorem Mach.relock_dev (p : Port) (m : Mach) : (Mach.relock p m).dev = m.dev := by
  simp [Mach.relock]

@[simp] theorem Mach.fenceRefused_dev (v : Vid) (m : Mach) : (Mach.fenceRefused v m).dev = m.dev := by
  simp [Mach.fenceRefused]

@[simp] theorem Mach.countRefusal_dev (s status dw2 : Nat) (m : Mach) : (Mach.countRefusal s status dw2 m).dev = m.dev := by
  unfold Mach.countRefusal
  try lift_lets
  repeat' first
    | (intro x; first | (have hx : x.dev = m.dev := by
                            simp only [x]
                            repeat' (first | (simp [*]; done) | intro _ | split  | rw [Mach.when_dev] | simp [*])
                         clear_value x) | clear_value x)
    | (simp [*]; done)
    | intro _
    | split
    | rw [Mach.when_dev]
    | simp [*]

@[simp] theorem Mach.admitFlush_dev (s : Nat) (m : Mach) : (Mach.admitFlush s m).dev = m.dev := by
  simp [Mach.admitFlush]

@[simp] theorem Mach.admission_dev (m : Mach) : (Mach.admission m).dev = m.dev := by
  unfold Mach.admission
  try lift_lets
  repeat' first
    | (intro x; first | (have hx : x.dev = m.dev := by
                            simp only [x]
                            repeat' (first | (simp [*]; done) | intro _ | split   | simp [*])
                         clear_value x) | clear_value x)
    | (simp [*]; done)
    | intro _
    | split
    | simp [*]

@[simp] theorem Mach.countDev_dev (d : Fin 4) (sr dev pins : Nat) (m : Mach) : (Mach.countDev d sr dev pins m).dev = m.dev := by
  unfold Mach.countDev
  try lift_lets
  repeat' first
    | (intro x; first | (have hx : x.dev = m.dev := by
                            simp only [x]
                            repeat' (first | (simp [*]; done) | intro _ | split   | simp [*])
                         clear_value x) | clear_value x)
    | (simp [*]; done)
    | intro _
    | split
    | simp [*]

@[simp] theorem Mach.setMark_dev (d : Fin 4) (sr dev pins : Nat) (m : Mach) : (Mach.setMark d sr dev pins m).dev = m.dev := by
  unfold Mach.setMark
  try lift_lets
  repeat' first
    | (intro x; first | (have hx : x.dev = m.dev := by
                            simp only [x]
                            repeat' (first | (simp [*]; done) | intro _ | split   | simp [*])
                         clear_value x) | clear_value x)
    | (simp [*]; done)
    | intro _
    | split
    | simp [*]

@[simp] theorem Mach.scrubPass_dev (d : Fin 4) (m : Mach) : (Mach.scrubPass d m).dev = m.dev := by
  simp [Mach.scrubPass]

@[simp] theorem Mach.recal_dev (d : Fin 4) (low high : Bool) (m : Mach) : (Mach.recal d low high m).dev = m.dev := by
  unfold Mach.recal
  try lift_lets
  repeat' first
    | (intro x; first | (have hx : x.dev = m.dev := by
                            simp only [x]
                            repeat' (first | (simp [*]; done) | intro _ | split   | simp [*])
                         clear_value x) | clear_value x)
    | (simp [*]; done)
    | intro _
    | split
    | simp [*]

@[simp] theorem Mach.refreshRate_dev (d : Fin 4) (mr4 : Nat) (m : Mach) : (Mach.refreshRate d mr4 m).dev = m.dev := by
  unfold Mach.refreshRate
  try lift_lets
  repeat' first
    | (intro x; first | (have hx : x.dev = m.dev := by
                            simp only [x]
                            repeat' (first | (simp [*]; done) | intro _ | split   | simp [*])
                         clear_value x) | clear_value x)
    | (simp [*]; done)
    | intro _
    | split
    | simp [*]

@[simp] theorem Mach.giveLevel_dev (m : Mach) : (Mach.giveLevel m).dev = m.dev := by
  unfold Mach.giveLevel
  repeat' first
    | (simp [*]; done)
    | intro _
    | split
    | rw [Mach.each_dev]
    | simp [*]

@[simp] theorem Mach.setLevel_dev (l : Nat) (m : Mach) : (Mach.setLevel l m).dev = m.dev := by
  unfold Mach.setLevel
  try lift_lets
  repeat' first
    | (intro x; first | (have hx : x.dev = m.dev := by
                            simp only [x]
                            repeat' (first | (simp [*]; done) | intro _ | split   | simp [*])
                         clear_value x) | clear_value x)
    | (simp [*]; done)
    | intro _
    | split
    | simp [*]

@[simp] theorem Mach.snfStart_dev (m : Mach) : (Mach.snfStart m).dev = m.dev := by
  unfold Mach.snfStart
  try lift_lets
  repeat' first
    | (intro x; first | (have hx : x.dev = m.dev := by
                            simp only [x]
                            repeat' (first | (simp [*]; done) | intro _ | split   | simp [*])
                         clear_value x) | clear_value x)
    | (simp [*]; done)
    | intro _
    | split
    | simp [*]

@[simp] theorem Mach.lntFlush_dev (m : Mach) : (Mach.lntFlush m).dev = m.dev := by
  unfold Mach.lntFlush
  repeat' first
    | (simp [*]; done)
    | intro _
    | split
    | simp [*]

@[simp] theorem Mach.lntEmpty_dev (m : Mach) : (Mach.lntEmpty m).dev = m.dev := by
  simp [Mach.lntEmpty]

@[simp] theorem Mach.lntDisabled_dev (m : Mach) : (Mach.lntDisabled m).dev = m.dev := by
  simp [Mach.lntDisabled]

@[simp] theorem Mach.lntStart_dev (m : Mach) : (Mach.lntStart m).dev = m.dev := by
  simp [Mach.lntStart]

@[simp] theorem Mach.strandReads_dev (c : Chan) (issued : Bool) (m : Mach) : (Mach.strandReads c issued m).dev = m.dev := by
  unfold Mach.strandReads
  try lift_lets
  repeat' first
    | (intro x; first | (have hx : x.dev = m.dev := by
                            simp only [x]
                            repeat' (first | (simp [*]; done) | intro _ | split | rw [Mach.each_dev] | simp [*])
                         clear_value x) | clear_value x)
    | (simp [*]; done)
    | intro _
    | split
    | rw [Mach.each_dev]
    | simp [*]

@[simp] theorem Mach.portIdle_dev (q : Port) (m : Mach) : (Mach.portIdle q m).dev = m.dev := by
  unfold Mach.portIdle
  try lift_lets
  repeat' first
    | (intro x; first | (have hx : x.dev = m.dev := by
                            simp only [x]
                            repeat' (first | (simp [*]; done) | intro _ | split | rw [Mach.each_dev] | simp [*])
                         clear_value x) | clear_value x)
    | (simp [*]; done)
    | intro _
    | split
    | rw [Mach.each_dev]
    | simp [*]

@[simp] theorem Mach.stopEnds_dev (p : Page) (m : Mach) : (Mach.stopEnds p m).dev = m.dev := by
  unfold Mach.stopEnds
  repeat' first
    | (simp [*]; done)
    | intro _
    | split
    | simp [*]

@[simp] theorem Mach.startPage_dev (p : Page) (m : Mach) : (Mach.startPage p m).dev = m.dev := by
  unfold Mach.startPage
  repeat' first
    | (simp [*]; done)
    | intro _
    | split
    | simp [*]

@[simp] theorem Mach.keyReload_dev (m : Mach) : (Mach.keyReload m).dev = m.dev := by
  unfold Mach.keyReload
  try lift_lets
  repeat' first
    | (intro x; first | (have hx : x.dev = m.dev := by
                            simp only [x]
                            repeat' (first | (simp [*]; done) | intro _ | split   | simp [*])
                         clear_value x) | clear_value x)
    | (simp [*]; done)
    | intro _
    | split
    | simp [*]

@[simp] theorem Mach.startEnds_dev (p : Page) (m : Mach) : (Mach.startEnds p m).dev = m.dev := by
  unfold Mach.startEnds
  try lift_lets
  repeat' first
    | (intro x; first | (have hx : x.dev = m.dev := by
                            simp only [x]
                            repeat' (first | (simp [*]; done) | intro _ | split | rw [Mach.each_dev] | simp [*])
                         clear_value x) | clear_value x)
    | (simp [*]; done)
    | intro _
    | split
    | rw [Mach.each_dev]
    | simp [*]

@[simp] theorem Mach.pageCmd_dev (a : Agent) (p : Page) (f : Page → Mach → Mach) (m : Mach) (h : (f p m).dev = m.dev) :
    (Mach.pageCmd a p f m).dev = m.dev := by
  unfold Mach.pageCmd
  split
  · simp
  · exact h

@[simp] theorem Mach.almBadCrc_dev (slot : Nat) (m : Mach) : (Mach.almBadCrc slot m).dev = m.dev := by
  unfold Mach.almBadCrc
  repeat' first
    | (simp [*]; done)
    | intro _
    | split
    | simp [*]

@[simp] theorem Mach.almBatch_dev (badCrc : List Nat) (writeOk : Bool) (m : Mach) : (Mach.almBatch badCrc writeOk m).dev = m.dev := by
  unfold Mach.almBatch
  try lift_lets
  repeat' first
    | (intro x; first | (have hx : x.dev = m.dev := by
                            simp only [x]
                            repeat' (first | (simp [*]; done) | intro _ | split | rw [Mach.each_dev]  | simp [*])
                         clear_value x) | clear_value x)
    | (simp [*]; done)
    | intro _
    | split
    | rw [Mach.each_dev]
    | simp [*]

@[simp] theorem Mach.almFlushBy_dev (a : Agent) (m : Mach) : (Mach.almFlushBy a m).dev = m.dev := by
  unfold Mach.almFlushBy
  repeat' first
    | (simp [*]; done)
    | intro _
    | split
    | simp [*]

@[simp] theorem Mach.almBufReq_dev (a : Agent) (on : Bool) (m : Mach) : (Mach.almBufReq a on m).dev = m.dev := by
  unfold Mach.almBufReq
  try lift_lets
  repeat' first
    | (intro x; first | (have hx : x.dev = m.dev := by
                            simp only [x]
                            repeat' (first | (simp [*]; done) | intro _ | split   | simp [*])
                         clear_value x) | clear_value x)
    | (simp [*]; done)
    | intro _
    | split
    | simp [*]

@[simp] theorem Mach.potAdvance_dev (m : Mach) : (Mach.potAdvance m).dev = m.dev := by
  unfold Mach.potAdvance
  repeat' first
    | (simp [*]; done)
    | intro _
    | split
    | simp [*]

@[simp] theorem Mach.b2drop_dev (a : Agent) (m : Mach) : (Mach.b2drop a m).dev = m.dev := by
  unfold Mach.b2drop
  repeat' first
    | (simp [*]; done)
    | intro _
    | split
    | simp [*]

@[simp] theorem Mach.apt_dev (a : Agent) (d : Die) (f : Mach → Mach) (m : Mach) (h : (f m).dev = m.dev) :
    (Mach.apt a d f m).dev = m.dev := by
  unfold Mach.apt
  split
  · exact h
  · simp

@[simp] theorem Mach.setSeq_dev (a : Agent) (x : SeqS) (m : Mach) : (Mach.setSeq a x m).dev = m.dev := by
  simp [Mach.setSeq]

@[simp] theorem Mach.seqErr_dev (d : Die) (m : Mach) : (Mach.seqErr d m).dev = m.dev := by
  simp [Mach.seqErr]

@[simp] theorem Mach.seqBreak_dev (a : Agent) (d : Die) (m : Mach) : (Mach.seqBreak a d m).dev = m.dev := by
  unfold Mach.seqBreak
  repeat' first
    | (simp [*]; done)
    | intro _
    | split
    | simp [*]

@[simp] theorem Mach.aptDrop_dev (a : Agent) (d : Die) (m : Mach) : (Mach.aptDrop a d m).dev = m.dev := by
  simp [Mach.aptDrop]

@[simp] theorem Mach.svcQueue_dev (a : Agent) (d : Die) (code : Nat) (x : Apt) (m : Mach) : (Mach.svcQueue a d code x m).dev = m.dev := by
  simp [Mach.svcQueue]

@[simp] theorem Mach.svcRead_dev (a : Agent) (d : Die) (code : Nat) (x : Apt) (m : Mach) : (Mach.svcRead a d code x m).dev = m.dev := by
  unfold Mach.svcRead
  try lift_lets
  repeat' first
    | (intro x; first | (have hx : x.dev = m.dev := by
                            simp only [x]
                            repeat' (first | (simp [*]; done) | intro _ | split | rw [Mach.each_dev] | simp [*])
                         clear_value x) | clear_value x)
    | (simp [*]; done)
    | intro _
    | split
    | rw [Mach.each_dev]
    | simp [*]

@[simp] theorem Mach.svcSuspend_dev (a : Agent) (d : Die) (m : Mach) : (Mach.svcSuspend a d m).dev = m.dev := by
  unfold Mach.svcSuspend
  try lift_lets
  repeat' first
    | (intro x; first | (have hx : x.dev = m.dev := by
                            simp only [x]
                            repeat' (first | (simp [*]; done) | intro _ | split | rw [Mach.each_dev] | simp [*])
                         clear_value x) | clear_value x)
    | (simp [*]; done)
    | intro _
    | split
    | rw [Mach.each_dev]
    | simp [*]

@[simp] theorem Mach.aptRun_dev (a : Agent) (d : Die) (code : Nat) (x : Apt) (m : Mach) : (Mach.aptRun a d code x m).dev = m.dev := by
  unfold Mach.aptRun
  try lift_lets
  repeat' first
    | (intro x; first | (have hx : x.dev = m.dev := by
                            simp only [x]
                            repeat' (first | (simp [*]; done) | intro _ | split   | simp [*])
                         clear_value x) | clear_value x)
    | (simp [*]; done)
    | intro _
    | split
    | simp [*]

@[simp] theorem Mach.aptIssue_dev (a : Agent) (d : Die) (code : Nat) (m : Mach) : (Mach.aptIssue a d code m).dev = m.dev := by
  unfold Mach.aptIssue
  try lift_lets
  repeat' first
    | (intro x; first | (have hx : x.dev = m.dev := by
                            simp only [x]
                            repeat' (first | (simp [*]; done) | intro _ | split   | simp [*])
                         clear_value x) | clear_value x)
    | (simp [*]; done)
    | intro _
    | split
    | simp [*]

@[simp] theorem Mach.aptWrite1_dev (a : Agent) (d : Die) (v : BitVec 16) (m : Mach) : (Mach.aptWrite1 a d v m).dev = m.dev := by
  unfold Mach.aptWrite1
  try lift_lets
  repeat' first
    | (intro x; first | (have hx : x.dev = m.dev := by
                            simp only [x]
                            repeat' (first | (simp [*]; done) | intro _ | split   | simp [*])
                         clear_value x) | clear_value x)
    | (simp [*]; done)
    | intro _
    | split
    | simp [*]

@[simp] theorem Mach.aptWrite2_dev (a : Agent) (d : Die) (v : BitVec 16) (m : Mach) : (Mach.aptWrite2 a d v m).dev = m.dev := by
  unfold Mach.aptWrite2
  try lift_lets
  repeat' first
    | (intro x; first | (have hx : x.dev = m.dev := by
                            simp only [x]
                            repeat' (first | (simp [*]; done) | intro _ | split   | simp [*])
                         clear_value x) | clear_value x)
    | (simp [*]; done)
    | intro _
    | split
    | simp [*]

@[simp] theorem Mach.parWrite_dev (a : Agent) (d : Die) (off : Nat) (v : Word) (m : Mach) : (Mach.parWrite a d off v m).dev = m.dev := by
  unfold Mach.parWrite
  repeat' first
    | (simp [*]; done)
    | intro _
    | split
    | simp [*]

@[simp] theorem Mach.stageWrite_dev (a : Agent) (d : Die) (off : Nat) (v : Word) (m : Mach) : (Mach.stageWrite a d off v m).dev = m.dev := by
  unfold Mach.stageWrite
  try lift_lets
  repeat' first
    | (intro x; first | (have hx : x.dev = m.dev := by
                            simp only [x]
                            repeat' (first | (simp [*]; done) | intro _ | split   | simp [*])
                         clear_value x) | clear_value x)
    | (simp [*]; done)
    | intro _
    | split
    | simp [*]

@[simp] theorem Mach.aptBusRead_dev (a : Agent) (d : Die) (off width : Nat) (m : Mach) : (Mach.aptBusRead a d off width m).1.dev = m.dev := by
  unfold Mach.aptBusRead
  try lift_lets
  repeat' first
    | (intro x; first | (have hx : x.dev = m.dev := by
                            simp only [x]
                            repeat' (first | (simp [*]; done) | intro _ | split | rw [Mach.each_dev] | simp [*])
                         clear_value x) | clear_value x)
    | (simp [*]; done)
    | intro _
    | split
    | rw [Mach.each_dev]
    | simp [*]

@[simp] theorem Mach.aptCode_dev (a : Agent) (d : Die) (code : Nat) (m : Mach) : (Mach.aptCode a d code m).dev = m.dev := by
  simp [Mach.aptCode]

@[simp] theorem Mach.wptSet_dev (a : Agent) (hi : Bool) (v : Word) (m : Mach) : (Mach.wptSet a hi v m).dev = m.dev := by
  unfold Mach.wptSet
  try lift_lets
  repeat' first
    | (intro x; first | (have hx : x.dev = m.dev := by
                            simp only [x]
                            repeat' (first | (simp [*]; done) | intro _ | split   | simp [*])
                         clear_value x) | clear_value x)
    | (simp [*]; done)
    | intro _
    | split
    | simp [*]

@[simp] theorem Mach.wptAllset_dev (a : Agent) (hi : Bool) (v : Word) (m : Mach) : (Mach.wptAllset a hi v m).dev = m.dev := by
  unfold Mach.wptAllset
  repeat' first
    | (simp [*]; done)
    | intro _
    | split
    | simp [*]

@[simp] theorem Mach.hdmCommitWays_dev (p : Port) (k base size skip : Nat) (lock oneWay : Bool) (m : Mach) : (Mach.hdmCommitWays p k base size skip lock oneWay m).dev = m.dev := by
  unfold Mach.hdmCommitWays
  try lift_lets
  repeat' first
    | (intro x; first | (have hx : x.dev = m.dev := by
                            simp only [x]
                            repeat' (first | (simp [*]; done) | intro _ | split | rw [Mach.each_dev] | simp [*])
                         clear_value x) | clear_value x)
    | (simp [*]; done)
    | intro _
    | split
    | rw [Mach.each_dev]
    | simp [*]

@[simp] theorem Mach.hdmCommit_dev (p : Port) (k base size skip : Nat) (lock : Bool) (m : Mach) : (Mach.hdmCommit p k base size skip lock m).dev = m.dev := by
  unfold Mach.hdmCommit
  try lift_lets
  repeat' first
    | (intro x; first | (have hx : x.dev = m.dev := by
                            simp only [x]
                            repeat' (first | (simp [*]; done) | intro _ | split   | simp [*])
                         clear_value x) | clear_value x)
    | (simp [*]; done)
    | intro _
    | split
    | simp [*]

@[simp] theorem Mach.memBegin_dev (p : Port) (m : Mach) : (Mach.memBegin p m).dev = m.dev := by
  simp [Mach.memBegin]

@[simp] theorem Mach.lntHit_dev (i : Nat) (changed : Bool) (m : Mach) : (Mach.lntHit i changed m).dev = m.dev := by
  unfold Mach.lntHit
  repeat' first
    | (simp [*]; done)
    | intro _
    | split
    | simp [*]

@[simp] theorem Mach.lntParity_dev (i : Nat) (m : Mach) : (Mach.lntParity i m).dev = m.dev := by
  unfold Mach.lntParity
  try lift_lets
  repeat' first
    | (intro x; first | (have hx : x.dev = m.dev := by
                            simp only [x]
                            repeat' (first | (simp [*]; done) | intro _ | split   | simp [*])
                         clear_value x) | clear_value x)
    | (simp [*]; done)
    | intro _
    | split
    | simp [*]

@[simp] theorem Mach.lntFetchNow_dev (key : Nat) (r : LampReq) (m : Mach) : (Mach.lntFetchNow key r m).dev = m.dev := by
  unfold Mach.lntFetchNow
  try lift_lets
  repeat' first
    | (intro x; first | (have hx : x.dev = m.dev := by
                            simp only [x]
                            repeat' (first | (simp [*]; done) | intro _ | split | rw [Mach.each_dev] | simp [*])
                         clear_value x) | clear_value x)
    | (simp [*]; done)
    | intro _
    | split
    | rw [Mach.each_dev]
    | simp [*]

@[simp] theorem Mach.lntFetch_dev (key : Nat) (r : LampReq) (m : Mach) : (Mach.lntFetch key r m).dev = m.dev := by
  unfold Mach.lntFetch
  try lift_lets
  repeat' first
    | (intro x; first | (have hx : x.dev = m.dev := by
                            simp only [x]
                            repeat' (first | (simp [*]; done) | intro _ | split   | simp [*])
                         clear_value x) | clear_value x)
    | (simp [*]; done)
    | intro _
    | split
    | simp [*]

@[simp] theorem Mach.lampShut_dev (r : LampReq) (m : Mach) : (Mach.lampShut r m).dev = m.dev := by
  unfold Mach.lampShut
  repeat' first
    | (simp [*]; done)
    | intro _
    | split
    | simp [*]

@[simp] theorem Mach.askList_dev (s : Nat) (m : Mach) : (Mach.askList s m).dev = m.dev := by
  unfold Mach.askList
  try lift_lets
  repeat' first
    | (intro x; first | (have hx : x.dev = m.dev := by
                            simp only [x]
                            repeat' (first | (simp [*]; done) | intro _ | split   | simp [*])
                         clear_value x) | clear_value x)
    | (simp [*]; done)
    | intro _
    | split
    | simp [*]

@[simp] theorem Mach.stall_dev (s : Nat) (m : Mach) : (Mach.stall s m).dev = m.dev := by
  simp [Mach.stall]

@[simp] theorem Mach.lookLamp_dev (v : Vid) (lba : Nat) (m : Mach) : (Mach.lookLamp v lba m).dev = m.dev := by
  unfold Mach.lookLamp
  repeat' first
    | (simp [*]; done)
    | intro _
    | split
    | simp [*]

@[simp] theorem Mach.fillFrame_dev (k p f : Nat) (d : Block) (dirty : Bool) (m : Mach) : (Mach.fillFrame k p f d dirty m).dev = m.dev := by
  simp [Mach.fillFrame]

@[simp] theorem Mach.rasOf_dev (s : Nat) (m : Mach) : (Mach.rasOf s m).dev = m.dev := by
  unfold Mach.rasOf
  try lift_lets
  repeat' first
    | (intro x; first | (have hx : x.dev = m.dev := by
                            simp only [x]
                            repeat' (first | (simp [*]; done) | intro _ | split | rw [Mach.each_dev] | simp [*])
                         clear_value x) | clear_value x)
    | (simp [*]; done)
    | intro _
    | split
    | rw [Mach.each_dev]
    | simp [*]

@[simp] theorem Mach.pushCovers_dev (s : Nat) (m : Mach) : (Mach.pushCovers s m).dev = m.dev := by
  unfold Mach.pushCovers
  repeat' first
    | (simp [*]; done)
    | intro _
    | split
    | rw [Mach.each_dev]
    | simp [*]

@[simp] theorem Mach.awaitDurable_dev (s : Nat) (m : Mach) : (Mach.awaitDurable s m).dev = m.dev := by
  unfold Mach.awaitDurable
  try lift_lets
  repeat' first
    | (intro x; first | (have hx : x.dev = m.dev := by
                            simp only [x]
                            repeat' (first | (simp [*]; done) | intro _ | split   | simp [*])
                         clear_value x) | clear_value x)
    | (simp [*]; done)
    | intro _
    | split
    | simp [*]

@[simp] theorem Mach.awaitPartner_dev (s : Nat) (m : Mach) : (Mach.awaitPartner s m).dev = m.dev := by
  simp [Mach.awaitPartner]

@[simp] theorem Mach.noteVersion_dev (s id : Nat) (m : Mach) : (Mach.noteVersion s id m).dev = m.dev := by
  simp [Mach.noteVersion]

@[simp] theorem Mach.nextLb_dev (s : Nat) (m : Mach) : (Mach.nextLb s m).dev = m.dev := by
  simp [Mach.nextLb]

@[simp] theorem Mach.refuseCmd_dev (s status : Nat) (m : Mach) : (Mach.refuseCmd s status m).dev = m.dev := by
  simp [Mach.refuseCmd]

@[simp] theorem Mach.askData_dev (s : Nat) (m : Mach) : (Mach.askData s m).dev = m.dev := by
  unfold Mach.askData
  try lift_lets
  repeat' first
    | (intro x; first | (have hx : x.dev = m.dev := by
                            simp only [x]
                            repeat' (first | (simp [*]; done) | intro _ | split | rw [Mach.each_dev]  | simp [*])
                         clear_value x) | clear_value x)
    | (simp [*]; done)
    | intro _
    | split
    | rw [Mach.each_dev]
    | simp [*]

@[simp] theorem Mach.writeStart_dev (s : Nat) (m : Mach) : (Mach.writeStart s m).dev = m.dev := by
  unfold Mach.writeStart
  try lift_lets
  repeat' first
    | (intro x; first | (have hx : x.dev = m.dev := by
                            simp only [x]
                            repeat' (first | (simp [*]; done) | intro _ | split   | simp [*])
                         clear_value x) | clear_value x)
    | (simp [*]; done)
    | intro _
    | split
    | simp [*]

@[simp] theorem Mach.writeRow_dev (s : Nat) (m : Mach) : (Mach.writeRow s m).dev = m.dev := by
  unfold Mach.writeRow
  repeat' first
    | (simp [*]; done)
    | intro _
    | split
    | simp [*]

@[simp] theorem Mach.writeEnd_dev (s : Nat) (m : Mach) : (Mach.writeEnd s m).dev = m.dev := by
  unfold Mach.writeEnd
  repeat' first
    | (simp [*]; done)
    | intro _
    | split
    | simp [*]

@[simp] theorem Mach.writeLb_dev (s lba : Nat) (d : Block) (m : Mach) : (Mach.writeLb s lba d m).dev = m.dev := by
  unfold Mach.writeLb
  dsimp only
  rw [Mach.writeEnd_dev, Mach.nextLb_dev]
  repeat' first
    | rw [Mach.twnData_dev]
    | rw [Mach.noteVersion_dev, Mach.markWritten_dev]
    | rw [Mach.fillFrame_dev]
    | exact Mach.acceptLb_dev ..
    | split

@[simp] theorem Mach.dataIn_dev (s : Nat) (d : Block) (m : Mach) : (Mach.dataIn s d m).dev = m.dev := by
  unfold Mach.dataIn
  try lift_lets
  repeat' first
    | (intro x; first | (have hx : x.dev = m.dev := by
                            simp only [x]
                            repeat' (first | (simp [*]; done) | intro _ | split   | simp [*])
                         clear_value x) | clear_value x)
    | (simp [*]; done)
    | intro _
    | split
    | simp [*]

@[simp] theorem Mach.dataFailed_dev (s : Nat) (m : Mach) : (Mach.dataFailed s m).dev = m.dev := by
  unfold Mach.dataFailed
  repeat' first
    | (simp [*]; done)
    | intro _
    | split
    | simp [*]

@[simp] theorem Mach.transferResume_dev (s : Nat) (m : Mach) : (Mach.transferResume s m).dev = m.dev := by
  unfold Mach.transferResume
  try lift_lets
  repeat' first
    | (intro x; first | (have hx : x.dev = m.dev := by
                            simp only [x]
                            repeat' (first | (simp [*]; done) | intro _ | split   | simp [*])
                         clear_value x) | clear_value x)
    | (simp [*]; done)
    | intro _
    | split
    | simp [*]

@[simp] theorem Mach.listBack_dev (s : Nat) (ok : Bool) (elems : List (BitVec 128)) (m : Mach) : (Mach.listBack s ok elems m).dev = m.dev := by
  unfold Mach.listBack
  try lift_lets
  repeat' first
    | (intro x; first | (have hx : x.dev = m.dev := by
                            simp only [x]
                            repeat' (first | (simp [*]; done) | intro _ | split   | simp [*])
                         clear_value x) | clear_value x)
    | (simp [*]; done)
    | intro _
    | split
    | simp [*]

@[simp] theorem Mach.lostLb_dev (s off : Nat) (m : Mach) : (Mach.lostLb s off m).dev = m.dev := by
  simp [Mach.lostLb]

@[simp] theorem Mach.readOne_dev (s off : Nat) (m : Mach) : (Mach.readOne s off m).dev = m.dev := by
  unfold Mach.readOne
  try lift_lets
  repeat' first
    | (intro x; first | (have hx : x.dev = m.dev := by
                            simp only [x]
                            repeat' (first | (simp [*]; done) | intro _ | split   | simp [*])
                         clear_value x) | clear_value x)
    | (simp [*]; done)
    | intro _
    | split
    | simp [*]

@[simp] theorem Mach.sendDurable_dev (mk : List Nat → TxFor) (v : Vid) (m : Mach) : (Mach.sendDurable mk v m).1.dev = m.dev := by
  simp [Mach.sendDurable]

@[simp] theorem Mach.flushStart_dev (s : Nat) (m : Mach) : (Mach.flushStart s m).dev = m.dev := by
  unfold Mach.flushStart
  try lift_lets
  repeat' first
    | (intro x; first | (have hx : x.dev = m.dev := by
                            simp only [x]
                            repeat' (first | (simp [*]; done) | intro _ | split   | simp [*])
                         clear_value x) | clear_value x)
    | (simp [*]; done)
    | intro _
    | split
    | simp [*]

@[simp] theorem Mach.flushRow_dev (s : Nat) (m : Mach) : (Mach.flushRow s m).dev = m.dev := by
  unfold Mach.flushRow
  repeat' first
    | (simp [*]; done)
    | intro _
    | split
    | simp [*]

@[simp] theorem Mach.deallocMu_dev (v : Vid) (rec mu : Nat) (m : Mach) : (Mach.deallocMu v rec mu m).dev = m.dev := by
  simp [Mach.deallocMu]

@[simp] theorem Mach.deallocMus_dev (v : Vid) (slba n : Nat) (m : Mach) : (Mach.deallocMus v slba n m).dev = m.dev := by
  unfold Mach.deallocMus
  dsimp only
  split
  · simp
  · rw [Mach.each_dev]
    · simp
    · intro i m; simp

@[simp] theorem Mach.deallocLit_dev (v : Vid) (slba n : Nat) (m : Mach) : (Mach.deallocLit v slba n m).dev = m.dev := by
  unfold Mach.deallocLit
  try lift_lets
  repeat' first
    | (intro x; first | (have hx : x.dev = m.dev := by
                            simp only [x]
                            repeat' (first | (simp [*]; done) | intro _ | split | rw [Mach.each_dev]  | simp [*])
                         clear_value x) | clear_value x)
    | (simp [*]; done)
    | intro _
    | split
    | rw [Mach.each_dev]
    | simp [*]

@[simp] theorem Mach.deallocZeros_dev (s n : Nat) (m : Mach) : (Mach.deallocZeros s n m).dev = m.dev := by
  induction n generalizing m with
  | zero => simp [Mach.deallocZeros]
  | succ n ih =>
    unfold Mach.deallocZeros
    dsimp only
    split
    · simp
    · split
      · simp
      · rw [ih]; simp

@[simp] theorem Mach.deallocWork_dev (s : Nat) (m : Mach) : (Mach.deallocWork s m).dev = m.dev := by
  unfold Mach.deallocWork
  dsimp only
  split <;> simp

@[simp] theorem Mach.deallocStart_dev (s : Nat) (m : Mach) : (Mach.deallocStart s m).dev = m.dev := by
  unfold Mach.deallocStart
  try lift_lets
  repeat' first
    | (intro x; first | (have hx : x.dev = m.dev := by
                            simp only [x]
                            repeat' (first | (simp [*]; done) | intro _ | split   | simp [*])
                         clear_value x) | clear_value x)
    | (simp [*]; done)
    | intro _
    | split
    | simp [*]

@[simp] theorem Mach.deallocRow_dev (s : Nat) (m : Mach) : (Mach.deallocRow s m).dev = m.dev := by
  unfold Mach.deallocRow
  repeat' first
    | (simp [*]; done)
    | intro _
    | split
    | simp [*]

@[simp] theorem Mach.wpOutcome_dev (o : Op) (m : Mach) : (Mach.wpOutcome o m).dev = m.dev := by
  unfold Mach.wpOutcome
  repeat' first
    | (simp [*]; done)
    | intro _
    | split
    | simp [*]

@[simp] theorem Mach.wpRefuse_dev (o : Op) (m : Mach) : (Mach.wpRefuse o m).dev = m.dev := by
  unfold Mach.wpRefuse
  try lift_lets
  repeat' first
    | (intro x; first | (have hx : x.dev = m.dev := by
                            simp only [x]
                            repeat' (first | (simp [*]; done) | intro _ | split   | simp [*])
                         clear_value x) | clear_value x)
    | (simp [*]; done)
    | intro _
    | split
    | simp [*]

@[simp] theorem Mach.fitStep_dev (o : Op) (m : Mach) : (Mach.fitStep o m).dev = m.dev := by
  unfold Mach.fitStep
  try lift_lets
  repeat' first
    | (intro x; first | (have hx : x.dev = m.dev := by
                            simp only [x]
                            repeat' (first | (simp [*]; done) | intro _ | split | rw [Mach.each_dev] | simp [*])
                         clear_value x) | clear_value x)
    | (simp [*]; done)
    | intro _
    | split
    | rw [Mach.each_dev]
    | simp [*]

@[simp] theorem Mach.dieIssued_dev (o : Op) (m : Mach) : (Mach.dieIssued o m).dev = m.dev := by
  unfold Mach.dieIssued
  try lift_lets
  repeat' first
    | (intro x; first | (have hx : x.dev = m.dev := by
                            simp only [x]
                            repeat' (first | (simp [*]; done) | intro _ | split   | simp [*])
                         clear_value x) | clear_value x)
    | (simp [*]; done)
    | intro _
    | split
    | simp [*]

@[simp] theorem Mach.turn_dev (o : Op) (m : Mach) : (Mach.turn o m).dev = m.dev := by
  unfold Mach.turn
  repeat' first
    | (simp [*]; done)
    | intro _
    | split
    | simp [*]

@[simp] theorem Mach.svcResume_dev (o : Op) (m : Mach) : (Mach.svcResume o m).dev = m.dev := by
  unfold Mach.svcResume
  repeat' first
    | (simp [*]; done)
    | intro _
    | split
    | simp [*]

@[simp] theorem Mach.issueOp_dev (o : Op) (m : Mach) : (Mach.issueOp o m).dev = m.dev := by
  unfold Mach.issueOp
  try lift_lets
  repeat' first
    | (intro x; first | (have hx : x.dev = m.dev := by
                            simp only [x]
                            repeat' (first | (simp [*]; done) | intro _ | split   | simp [*])
                         clear_value x) | clear_value x)
    | (simp [*]; done)
    | intro _
    | split
    | simp [*]

@[simp] theorem Mach.issueNext_dev (c : Chan) (m : Mach) : (Mach.issueNext c m).dev = m.dev := by
  unfold Mach.issueNext
  repeat' first
    | (simp [*]; done)
    | intro _
    | split
    | simp [*]

@[simp] theorem Mach.freeDie_dev (o : Op) (m : Mach) : (Mach.freeDie o m).dev = m.dev := by
  simp [Mach.freeDie]

@[simp] theorem Mach.svcComplete_dev (o : Op) (code : Nat) (x : Apt) (pass : Bool) (m : Mach) : (Mach.svcComplete o code x pass m).dev = m.dev := by
  unfold Mach.svcComplete
  try lift_lets
  repeat' first
    | (intro x; first | (have hx : x.dev = m.dev := by
                            simp only [x]
                            repeat' (first | (simp [*]; done) | intro _ | split   | simp [*])
                         clear_value x) | clear_value x)
    | (simp [*]; done)
    | intro _
    | split
    | simp [*]

@[simp] theorem Mach.opEnded_dev (o : Op) (r : OpOutcome) (cause : Nat) (m : Mach) : (Mach.opEnded o r cause m).dev = m.dev := by
  unfold Mach.opEnded
  try lift_lets
  repeat' first
    | (intro x; first | (have hx : x.dev = m.dev := by
                            simp only [x]
                            repeat' (first | (simp [*]; done) | intro _ | split   | simp [*])
                         clear_value x) | clear_value x)
    | (simp [*]; done)
    | intro _
    | split
    | simp [*]

@[simp] theorem Mach.completion_dev (c : Chan) (r : Row) (x : OpOutcome) (m : Mach) : (Mach.completion c r x m).dev = m.dev := by
  unfold Mach.completion
  repeat' first
    | (simp [*]; done)
    | intro _
    | split
    | simp [*]

@[simp] theorem Mach.timeoutOp_dev (c : Chan) (r : Row) (m : Mach) : (Mach.timeoutOp c r m).dev = m.dev := by
  unfold Mach.timeoutOp
  try lift_lets
  repeat' first
    | (intro x; first | (have hx : x.dev = m.dev := by
                            simp only [x]
                            repeat' (first | (simp [*]; done) | intro _ | split   | simp [*])
                         clear_value x) | clear_value x)
    | (simp [*]; done)
    | intro _
    | split
    | simp [*]

@[simp] theorem Mach.svcExpire_dev (c : Chan) (r : Row) (m : Mach) : (Mach.svcExpire c r m).dev = m.dev := by
  simp [Mach.svcExpire]

@[simp] theorem Mach.svcStallEnd_dev (c : Chan) (m : Mach) : (Mach.svcStallEnd c m).dev = m.dev := by
  unfold Mach.svcStallEnd
  repeat' first
    | (simp [*]; done)
    | intro _
    | split
    | simp [*]

@[simp] theorem Mach.schedSuspend_dev (c : Chan) (r : Row) (ended : Bool) (m : Mach) : (Mach.schedSuspend c r ended m).dev = m.dev := by
  unfold Mach.schedSuspend
  try lift_lets
  repeat' first
    | (intro x; first | (have hx : x.dev = m.dev := by
                            simp only [x]
                            repeat' (first | (simp [*]; done) | intro _ | split   | simp [*])
                         clear_value x) | clear_value x)
    | (simp [*]; done)
    | intro _
    | split
    | simp [*]

@[simp] theorem Mach.schedResume_dev (c : Chan) (r : Row) (m : Mach) : (Mach.schedResume c r m).dev = m.dev := by
  unfold Mach.schedResume
  try lift_lets
  repeat' first
    | (intro x; first | (have hx : x.dev = m.dev := by
                            simp only [x]
                            repeat' (first | (simp [*]; done) | intro _ | split   | simp [*])
                         clear_value x) | clear_value x)
    | (simp [*]; done)
    | intro _
    | split
    | simp [*]

@[simp] theorem Mach.viralCut_dev (m : Mach) : (Mach.viralCut m).dev = m.dev := by
  unfold Mach.viralCut
  repeat' first
    | (simp [*]; done)
    | intro _
    | split
    | rw [Mach.each_dev]
    | simp [*]

@[simp] theorem Mach.viralReceived_dev (p : Port) (m : Mach) : (Mach.viralReceived p m).dev = m.dev := by
  unfold Mach.viralReceived
  repeat' first
    | (simp [*]; done)
    | intro _
    | split
    | simp [*]

@[simp] theorem Mach.gpf1_dev (p : Port) (m : Mach) : (Mach.gpf1 p m).dev = m.dev := by
  unfold Mach.gpf1
  repeat' first
    | (simp [*]; done)
    | intro _
    | split
    | simp [*]

@[simp] theorem Mach.setD3_dev (p : Port) (b : Bool) (m : Mach) : (Mach.setD3 p b m).dev = m.dev := by
  unfold Mach.setD3
  repeat' first
    | (simp [*]; done)
    | intro _
    | split
    | simp [*]

@[simp] theorem Mach.flitError_dev (p : Port) (m : Mach) : (Mach.flitError p m).dev = m.dev := by
  unfold Mach.flitError
  repeat' first
    | (simp [*]; done)
    | intro _
    | split
    | simp [*]

@[simp] theorem Mach.doeDiscovery_dev (p : Port) (i : Byte) (m : Mach) : (Mach.doeDiscovery p i m).dev = m.dev := by
  unfold Mach.doeDiscovery
  try lift_lets
  repeat' first
    | (intro x; first | (have hx : x.dev = m.dev := by
                            simp only [x]
                            repeat' (first | (simp [*]; done) | intro _ | split   | simp [*])
                         clear_value x) | clear_value x)
    | (simp [*]; done)
    | intro _
    | split
    | simp [*]

@[simp] theorem Mach.doeError_dev (p : Port) (m : Mach) : (Mach.doeError p m).dev = m.dev := by
  simp [Mach.doeError]

@[simp] theorem Mach.cdat_dev (p : Port) (h : Nat) (m : Mach) : (Mach.cdat p h m).dev = m.dev := by
  unfold Mach.cdat
  repeat' first
    | (simp [*]; done)
    | intro _
    | split
    | simp [*]

@[simp] theorem Mach.shaviPass_dev (n : Fin 8) (bytes : List Byte) (m : Mach) : (Mach.shaviPass n bytes m).dev = m.dev := by
  unfold Mach.shaviPass
  repeat' first
    | (simp [*]; done)
    | intro _
    | split
    | simp [*]

@[simp] theorem Mach.shavi_dev (p : Port) (req resp : List Byte) (m : Mach) : (Mach.shavi p req resp m).dev = m.dev := by
  simp [Mach.shavi]

@[simp] theorem Mach.getCertificate_dev (p : Port) (off len : Nat) (m : Mach) : (Mach.getCertificate p off len m).dev = m.dev := by
  unfold Mach.getCertificate
  try lift_lets
  repeat' first
    | (intro x; first | (have hx : x.dev = m.dev := by
                            simp only [x]
                            repeat' (first | (simp [*]; done) | intro _ | split   | simp [*])
                         clear_value x) | clear_value x)
    | (simp [*]; done)
    | intro _
    | split
    | simp [*]

@[simp] theorem Mach.signed_dev (p : Port) (req resp : List Byte) (m : Mach) : (Mach.signed p req resp m).dev = m.dev := by
  simp [Mach.signed]

@[simp] theorem Mach.challenge_dev (p : Port) (summary : Bool) (nonce : BitVec 384) (m : Mach) : (Mach.challenge p summary nonce m).dev = m.dev := by
  unfold Mach.challenge
  try lift_lets
  repeat' first
    | (intro x; first | (have hx : x.dev = m.dev := by
                            simp only [x]
                            repeat' (first | (simp [*]; done) | intro _ | split   | simp [*])
                         clear_value x) | clear_value x)
    | (simp [*]; done)
    | intro _
    | split
    | simp [*]

@[simp] theorem Mach.getMeasurements_dev (p : Port) (index : Byte) (sign : Bool) (nonce : BitVec 384) (m : Mach) : (Mach.getMeasurements p index sign nonce m).dev = m.dev := by
  unfold Mach.getMeasurements
  try lift_lets
  repeat' first
    | (intro x; first | (have hx : x.dev = m.dev := by
                            simp only [x]
                            repeat' (first | (simp [*]; done) | intro _ | split   | simp [*])
                         clear_value x) | clear_value x)
    | (simp [*]; done)
    | intro _
    | split
    | simp [*]

@[simp] theorem Mach.shaviBad_dev (p : Port) (code : Byte) (dwords : Nat) (lengthOk bodyOk : Bool) (m : Mach) : (Mach.shaviBad p code dwords lengthOk bodyOk m).dev = m.dev := by
  unfold Mach.shaviBad
  try lift_lets
  repeat' first
    | (intro x; first | (have hx : x.dev = m.dev := by
                            simp only [x]
                            repeat' (first | (simp [*]; done) | intro _ | split   | simp [*])
                         clear_value x) | clear_value x)
    | (simp [*]; done)
    | intro _
    | split
    | simp [*]

@[simp] theorem Mach.caParity_dev (d : Fin 4) (replayOk : Bool) (m : Mach) : (Mach.caParity d replayOk m).dev = m.dev := by
  unfold Mach.caParity
  try lift_lets
  repeat' first
    | (intro x; first | (have hx : x.dev = m.dev := by
                            simp only [x]
                            repeat' (first | (simp [*]; done) | intro _ | split   | simp [*])
                         clear_value x) | clear_value x)
    | (simp [*]; done)
    | intro _
    | split
    | simp [*]

@[simp] theorem Mach.refreshBatch_dev (d : Fin 4) (mr4 : Nat) (low high : Bool) (m : Mach) : (Mach.refreshBatch d mr4 low high m).dev = m.dev := by
  unfold Mach.refreshBatch
  repeat' first
    | (simp [*]; done)
    | intro _
    | split
    | simp [*]

@[simp] theorem Mach.drgDecode_dev (a : Agent) (hi : Word) (m : Mach) : (Mach.drgDecode a hi m).dev = m.dev := by
  unfold Mach.drgDecode
  try lift_lets
  repeat' first
    | (intro x; first | (have hx : x.dev = m.dev := by
                            simp only [x]
                            repeat' (first | (simp [*]; done) | intro _ | split   | simp [*])
                         clear_value x) | clear_value x)
    | (simp [*]; done)
    | intro _
    | split
    | simp [*]

@[simp] theorem Mach.selectVictim_dev (m : Mach) : (Mach.selectVictim m).dev = m.dev := by
  unfold Mach.selectVictim
  repeat' first
    | (simp [*]; done)
    | intro _
    | split
    | simp [*]

@[simp] theorem Mach.scanMember_dev (c : Chan) (f : Nat) (m : Mach) : (Mach.scanMember c f m).1.dev = m.dev := by
  unfold Mach.scanMember
  try lift_lets
  repeat' first
    | (intro x; first | (have hx : x.dev = m.dev := by
                            simp only [x]
                            repeat' (first | (simp [*]; done) | intro _ | split | rw [Mach.each_dev] | simp [*])
                         clear_value x) | clear_value x)
    | (simp [*]; done)
    | intro _
    | split
    | rw [Mach.each_dev]
    | simp [*]

@[simp] theorem Mach.scanMembers_dev (f : Nat) (l : List Chan) (m : Mach) : (Mach.scanMembers f l m).1.dev = m.dev := by
  induction l generalizing m with
  | nil => rfl
  | cons c cs ih => simp [Mach.scanMembers, ih]

@[simp] theorem Mach.patrolScan_dev (f : Nat) (flagged passEnd : Bool) (m : Mach) : (Mach.patrolScan f flagged passEnd m).dev = m.dev := by
  unfold Mach.patrolScan
  dsimp only
  repeat' first | (simp; done) | split

@[simp] theorem Mach.disturbScan_dev (c : Chan) (r : Row) (b : Nat) (flagged : Bool) (m : Mach) : (Mach.disturbScan c r b flagged m).dev = m.dev := by
  unfold Mach.disturbScan
  try lift_lets
  repeat' first
    | (intro x; first | (have hx : x.dev = m.dev := by
                            simp only [x]
                            repeat' (first | (simp [*]; done) | intro _ | split   | simp [*])
                         clear_value x) | clear_value x)
    | (simp [*]; done)
    | intro _
    | split
    | simp [*]

@[simp] theorem Mach.dumpConsumed_dev (m : Mach) : (Mach.dumpConsumed m).dev = m.dev := by
  unfold Mach.dumpConsumed
  repeat' first
    | (simp [*]; done)
    | intro _
    | split
    | simp [*]

@[simp] theorem Mach.keyMail_dev (i : Instr) (p : Port) (len want : Nat) (f : Mach → Mach) (m : Mach) (h : (f m).dev = m.dev) :
    (Mach.keyMail i p len want f m).dev = m.dev := by
  unfold Mach.keyMail
  refine Mach.mail_dev (h := ?_) ..
  split
  · exact h
  · simp

@[simp] theorem Mach.getTransport_dev (p : Port) (m : Mach) : (Mach.getTransport p m).dev = m.dev := by
  unfold Mach.getTransport
  try lift_lets
  repeat' first
    | (intro x; first | (have hx : x.dev = m.dev := by
                            simp only [x]
                            repeat' (first | (simp [*]; done) | intro _ | split   | simp [*])
                         clear_value x) | clear_value x)
    | (simp [*]; done)
    | intro _
    | split
    | simp [*]

@[simp] theorem Mach.importRefused_dev (p : Port) (status : Nat) (m : Mach) : (Mach.importRefused p status m).dev = m.dev := by
  simp [Mach.importRefused]

@[simp] theorem Mach.importKey_dev (p : Port) (k : Nat) (key : BitVec 256) (m : Mach) : (Mach.importKey p k key m).dev = m.dev := by
  unfold Mach.importKey
  try lift_lets
  repeat' first
    | (intro x; first | (have hx : x.dev = m.dev := by
                            simp only [x]
                            repeat' (first | (simp [*]; done) | intro _ | split   | simp [*])
                         clear_value x) | clear_value x)
    | (simp [*]; done)
    | intro _
    | split
    | simp [*]

@[simp] theorem Mach.keyImport_dev (p : Port) (k : Nat) (point : BitVec 776) (wrapped : BitVec 320) (m : Mach) : (Mach.keyImport p k point wrapped m).dev = m.dev := by
  unfold Mach.keyImport
  try lift_lets
  repeat' first
    | (intro x; first | (have hx : x.dev = m.dev := by
                            simp only [x]
                            repeat' (first | (simp [*]; done) | intro _ | split   | simp [*])
                         clear_value x) | clear_value x)
    | (simp [*]; done)
    | intro _
    | split
    | simp [*]

@[simp] theorem Mach.rotateKey_dev (k : Nat) (m : Mach) : (Mach.rotateKey k m).dev = m.dev := by
  unfold Mach.rotateKey
  try lift_lets
  repeat' first
    | (intro x; first | (have hx : x.dev = m.dev := by
                            simp only [x]
                            repeat' (first | (simp [*]; done) | intro _ | split   | simp [*])
                         clear_value x) | clear_value x)
    | (simp [*]; done)
    | intro _
    | split
    | simp [*]

@[simp] theorem Mach.keyRotate_dev (p : Port) (k : Nat) (m : Mach) : (Mach.keyRotate p k m).dev = m.dev := by
  unfold Mach.keyRotate
  repeat' first
    | (simp [*]; done)
    | intro _
    | split
    | simp [*]

@[simp] theorem Mach.keyRetire_dev (p : Port) (k : Nat) (m : Mach) : (Mach.keyRetire p k m).dev = m.dev := by
  unfold Mach.keyRetire
  repeat' first
    | (simp [*]; done)
    | intro _
    | split
    | simp [*]

@[simp] theorem Mach.failLb_dev (s off status : Nat) (m : Mach) : (Mach.failLb s off status m).dev = m.dev := by
  simp [Mach.failLb]

@[simp] theorem Mach.lightRefuse_dev (s status : Nat) (m : Mach) : (Mach.lightRefuse s status m).dev = m.dev := by
  unfold Mach.lightRefuse
  try lift_lets
  repeat' first
    | (intro x; first | (have hx : x.dev = m.dev := by
                            simp only [x]
                            repeat' (first | (simp [*]; done) | intro _ | split  | rw [Mach.when_dev] | simp [*])
                         clear_value x) | clear_value x)
    | (simp [*]; done)
    | intro _
    | split
    | rw [Mach.when_dev]
    | simp [*]

@[simp] theorem Mach.lightMark_dev (s off : Nat) (m : Mach) : (Mach.lightMark s off m).dev = m.dev := by
  unfold Mach.lightMark
  try lift_lets
  repeat' first
    | (intro x; first | (have hx : x.dev = m.dev := by
                            simp only [x]
                            repeat' (first | (simp [*]; done) | intro _ | split   | simp [*])
                         clear_value x) | clear_value x)
    | (simp [*]; done)
    | intro _
    | split
    | simp [*]

@[simp] theorem Mach.lightNo_dev (s off status : Nat) (m : Mach) : (Mach.lightNo s off status m).dev = m.dev := by
  simp [Mach.lightNo]

@[simp] theorem Mach.fillNow_dev (s off : Nat) (d : Block) (m : Mach) : (Mach.fillNow s off d m).dev = m.dev := by
  simp [Mach.fillNow]

@[simp] theorem Mach.lightRead_dev (s off : Nat) (m : Mach) : (Mach.lightRead s off m).dev = m.dev := by
  unfold Mach.lightRead
  extract_lets c v lba
  generalize m.storedSrc v lba = r
  cases r
  case version => rw [Mach.fillNow_dev]
  case zero => rw [Mach.fillNow_dev]
  case flash => rw [Mach.startRead_dev]
  case recovering => rw [Mach.lightNo_dev, Mach.badEntry_dev]
  all_goals rw [Mach.lightNo_dev]

@[simp] theorem Mach.lightStart_dev (s : Nat) (m : Mach) : (Mach.lightStart s m).dev = m.dev := by
  unfold Mach.lightStart
  try lift_lets
  repeat' first
    | (intro x; first | (have hx : x.dev = m.dev := by
                            simp only [x]
                            repeat' (first | (simp [*]; done) | intro _ | split | rw [Mach.each_dev]  | simp [*])
                         clear_value x) | clear_value x)
    | (simp [*]; done)
    | intro _
    | split
    | rw [Mach.each_dev]
    | simp [*]

@[simp] theorem Mach.lightFill_dev (x : Fill) (m : Mach) : (Mach.lightFill x m).dev = m.dev := by
  unfold Mach.lightFill
  dsimp only
  repeat' first
    | (simp; done)
    | split

@[simp] theorem Mach.lbFill_dev (task : Nat) (m : Mach) : (Mach.lbFill task m).dev = m.dev := by
  unfold Mach.lbFill
  repeat' first
    | (simp [*]; done)
    | intro _
    | split
    | simp [*]

@[simp] theorem Mach.dropTouches_dev (s : Nat) (m : Mach) : (Mach.dropTouches s m).dev = m.dev := by
  unfold Mach.dropTouches
  try lift_lets
  repeat' first
    | (intro x; first | (have hx : x.dev = m.dev := by
                            simp only [x]
                            repeat' (first | (simp [*]; done) | intro _ | split   | simp [*])
                         clear_value x) | clear_value x)
    | (simp [*]; done)
    | intro _
    | split
    | simp [*]

@[simp] theorem Mach.commit_dev (s : Nat) (m : Mach) : (Mach.commit s m).dev = m.dev := by
  simp [Mach.commit]

@[simp] theorem Mach.wipeTainted_dev (k : Nat) (m : Mach) : (Mach.wipeTainted k m).dev = m.dev := by
  unfold Mach.wipeTainted
  try lift_lets
  repeat' first
    | (intro x; first | (have hx : x.dev = m.dev := by
                            simp only [x]
                            repeat' (first | (simp [*]; done) | intro _ | split   | simp [*])
                         clear_value x) | clear_value x)
    | (simp [*]; done)
    | intro _
    | split
    | simp [*]

@[simp] theorem Mach.wbBegin_dev (s k p : Nat) (m : Mach) : (Mach.wbBegin s k p m).dev = m.dev := by
  simp [Mach.wbBegin]

@[simp] theorem Mach.wbRestore_dev (s off k p : Nat) (m : Mach) : (Mach.wbRestore s off k p m).dev = m.dev := by
  unfold Mach.wbRestore
  try lift_lets
  repeat' first
    | (intro x; first | (have hx : x.dev = m.dev := by
                            simp only [x]
                            repeat' (first | (simp [*]; done) | intro _ | split   | simp [*])
                         clear_value x) | clear_value x)
    | (simp [*]; done)
    | intro _
    | split
    | simp [*]

@[simp] theorem Mach.wbTainted_dev (s off k p : Nat) (m : Mach) : (Mach.wbTainted s off k p m).dev = m.dev := by
  unfold Mach.wbTainted
  try lift_lets
  repeat' first
    | (intro x; first | (have hx : x.dev = m.dev := by
                            simp only [x]
                            repeat' (first | (simp [*]; done) | intro _ | split | rw [Mach.each_dev] | simp [*])
                         clear_value x) | clear_value x)
    | (simp [*]; done)
    | intro _
    | split
    | rw [Mach.each_dev]
    | simp [*]

@[simp] theorem Mach.wbMirror_dev (s : Nat) (v : Vid) (lba : Nat) (d : Block) (m : Mach) : (Mach.wbMirror s v lba d m).dev = m.dev := by
  unfold Mach.wbMirror
  try lift_lets
  repeat' first
    | (intro x; first | (have hx : x.dev = m.dev := by
                            simp only [x]
                            repeat' (first | (simp [*]; done) | intro _ | split   | simp [*])
                         clear_value x) | clear_value x)
    | (simp [*]; done)
    | intro _
    | split
    | simp [*]

@[simp] theorem Mach.wbCopy_dev (s off k p : Nat) (m : Mach) : (Mach.wbCopy s off k p m).dev = m.dev := by
  unfold Mach.wbCopy
  try lift_lets
  repeat' first
    | (intro x; first | (have hx : x.dev = m.dev := by
                            simp only [x]
                            repeat' (first | (simp [*]; done) | intro _ | split   | simp [*])
                         clear_value x) | clear_value x)
    | (simp [*]; done)
    | intro _
    | split
    | simp [*]

@[simp] theorem Mach.wbPage_dev (s off k p : Nat) (m : Mach) : (Mach.wbPage s off k p m).dev = m.dev := by
  unfold Mach.wbPage
  try lift_lets
  repeat' first
    | (intro x; first | (have hx : x.dev = m.dev := by
                            simp only [x]
                            repeat' (first | (simp [*]; done) | intro _ | split   | simp [*])
                         clear_value x) | clear_value x)
    | (simp [*]; done)
    | intro _
    | split
    | simp [*]

@[simp] theorem Mach.wbLoop_dev (s n : Nat) (m : Mach) : (Mach.wbLoop s n m).dev = m.dev := by
  induction n generalizing m with
  | zero => simp [Mach.wbLoop]
  | succ n ih =>
    unfold Mach.wbLoop
    repeat' first
      | (simp [ih]; done)
      | split

@[simp] theorem Mach.wbWork_dev (s : Nat) (m : Mach) : (Mach.wbWork s m).dev = m.dev := by
  unfold Mach.wbWork
  dsimp only
  split <;> simp

@[simp] theorem Mach.wbStart_dev (s : Nat) (m : Mach) : (Mach.wbStart s m).dev = m.dev := by
  unfold Mach.wbStart
  try lift_lets
  repeat' first
    | (intro x; first | (have hx : x.dev = m.dev := by
                            simp only [x]
                            repeat' (first | (simp [*]; done) | intro _ | split   | simp [*])
                         clear_value x) | clear_value x)
    | (simp [*]; done)
    | intro _
    | split
    | simp [*]

@[simp] theorem Mach.spareField_dev (d : Fin 4) (v sr : Nat) (m : Mach) : (Mach.spareField d v sr m).dev = m.dev := by
  unfold Mach.spareField
  try lift_lets
  repeat' first
    | (intro x; first | (have hx : x.dev = m.dev := by
                            simp only [x]
                            repeat' (first | (simp [*]; done) | intro _ | split   | simp [*])
                         clear_value x) | clear_value x)
    | (simp [*]; done)
    | intro _
    | split
    | simp [*]

@[simp] theorem Mach.service_dev (p : Port) (op : BgOp) (f : Mach → Mach) (m : Mach) (h : ∀ m : Mach, (f m).dev = m.dev) :
    (Mach.service p op f m).dev = m.dev := by
  unfold Mach.service
  repeat' first
    | (simp; done)
    | (rw [Mach.startBg_dev]; exact h)
    | split

@[simp] theorem Mach.linksDown_dev (m : Mach) : (Mach.linksDown m).dev = m.dev := by
  unfold Mach.linksDown
  dsimp only
  repeat' first | (simp; done) | split

@[simp] theorem Mach.smbusRequest_dev (ok : Bool) (f : Mach → Mach) (m : Mach) (h : (f m).dev = m.dev) :
    (Mach.smbusRequest ok f m).dev = m.dev := by
  unfold Mach.smbusRequest
  split
  · simp
  · exact h

@[simp] theorem Mach.smbusWindow_dev (m : Mach) : (Mach.smbusWindow m).dev = m.dev := by
  unfold Mach.smbusWindow
  repeat' first
    | (simp [*]; done)
    | intro _
    | split
    | simp [*]

@[simp] theorem Mach.pffRestart_dev (n : Fin 8) (m : Mach) : (Mach.pffRestart n m).dev = m.dev := by
  unfold Mach.pffRestart
  try lift_lets
  repeat' first
    | (intro x; first | (have hx : x.dev = m.dev := by
                            simp only [x]
                            repeat' (first | (simp [*]; done) | intro _ | split   | simp [*])
                         clear_value x) | clear_value x)
    | (simp [*]; done)
    | intro _
    | split
    | simp [*]

@[simp] theorem Mach.abandonBg_dev (m : Mach) : (Mach.abandonBg m).dev = m.dev := by
  unfold Mach.abandonBg
  repeat' first
    | (simp [*]; done)
    | intro _
    | split
    | simp [*]

@[simp] theorem Mach.wdogWrite_dev (a : Agent) (v : Word) (m : Mach) : (Mach.wdogWrite a v m).dev = m.dev := by
  unfold Mach.wdogWrite
  repeat' first
    | (simp [*]; done)
    | intro _
    | split
    | simp [*]

@[simp] theorem Mach.reerase_dev (c : Chan) (r : Row) (b : Nat) (m : Mach) : (Mach.reerase c r b m).dev = m.dev := by
  unfold Mach.reerase
  try lift_lets
  repeat' first
    | (intro x; first | (have hx : x.dev = m.dev := by
                            simp only [x]
                            repeat' (first | (simp [*]; done) | intro _ | split   | simp [*])
                         clear_value x) | clear_value x)
    | (simp [*]; done)
    | intro _
    | split
    | simp [*]

@[simp] theorem Mach.convert_dev (mask : BitVec 16) (m : Mach) : (Mach.convert mask m).dev = m.dev := by
  unfold Mach.convert
  repeat' first
    | (simp [*]; done)
    | intro _
    | split
    | rw [Mach.each_dev]
    | simp [*]

@[simp] theorem Mach.thmSample_dev (a : Agent) (mask : BitVec 16) (m : Mach) : (Mach.thmSample a mask m).dev = m.dev := by
  unfold Mach.thmSample
  repeat' first
    | (simp [*]; done)
    | intro _
    | split
    | simp [*]

@[simp] theorem Mach.thermalTask_dev (dies : List Int) (m : Mach) : (Mach.thermalTask dies m).dev = m.dev := by
  unfold Mach.thermalTask
  try lift_lets
  repeat' first
    | (intro x; first | (have hx : x.dev = m.dev := by
                            simp only [x]
                            repeat' (first | (simp [*]; done) | intro _ | split | rw [Mach.each_dev]  | simp [*])
                         clear_value x) | clear_value x)
    | (simp [*]; done)
    | intro _
    | split
    | rw [Mach.each_dev]
    | simp [*]

@[simp] theorem Mach.holdAgain_dev (stamp : BitVec 48) (m : Mach) : (Mach.holdAgain stamp m).dev = m.dev := by
  simp [Mach.holdAgain]

@[simp] theorem Mach.undoUp_dev (batch : Nat) (m : Mach) : (Mach.undoUp batch m).dev = m.dev := by
  unfold Mach.undoUp
  try lift_lets
  repeat' first
    | (intro x; first | (have hx : x.dev = m.dev := by
                            simp only [x]
                            repeat' (first | (simp [*]; done) | intro _ | split | rw [Mach.each_dev] | simp [*])
                         clear_value x) | clear_value x)
    | (simp [*]; done)
    | intro _
    | split
    | rw [Mach.each_dev]
    | simp [*]

@[simp] theorem Mach.stepDown_dev (stamp : BitVec 48) (batch : Nat) (m : Mach) : (Mach.stepDown stamp batch m).dev = m.dev := by
  unfold Mach.stepDown
  try lift_lets
  repeat' first
    | (intro x; first | (have hx : x.dev = m.dev := by
                            simp only [x]
                            repeat' (first | (simp [*]; done) | intro _ | split | rw [Mach.each_dev] | simp [*])
                         clear_value x) | clear_value x)
    | (simp [*]; done)
    | intro _
    | split
    | rw [Mach.each_dev]
    | simp [*]

@[simp] theorem Mach.snuff_dev (rate : Int) (stamp : BitVec 48) (batch : Nat) (m : Mach) : (Mach.snuff rate stamp batch m).dev = m.dev := by
  unfold Mach.snuff
  try lift_lets
  repeat' first
    | (intro x; first | (have hx : x.dev = m.dev := by
                            simp only [x]
                            repeat' (first | (simp [*]; done) | intro _ | split | rw [Mach.each_dev] | simp [*])
                         clear_value x) | clear_value x)
    | (simp [*]; done)
    | intro _
    | split
    | rw [Mach.each_dev]
    | simp [*]

@[simp] theorem Mach.thmRate_dev (i : Nat) (t : Int) (stamp : BitVec 48) (m : Mach) : (Mach.thmRate i t stamp m).dev = m.dev := by
  unfold Mach.thmRate
  try lift_lets
  repeat' first
    | (intro x; first | (have hx : x.dev = m.dev := by
                            simp only [x]
                            repeat' (first | (simp [*]; done) | intro _ | split   | simp [*])
                         clear_value x) | clear_value x)
    | (simp [*]; done)
    | intro _
    | split
    | simp [*]

@[simp] theorem Mach.conversionEnd_dev (i : Nat) (t : Int) (stamp : BitVec 48) (m : Mach) : (Mach.conversionEnd i t stamp m).dev = m.dev := by
  unfold Mach.conversionEnd
  try lift_lets
  repeat' first
    | (intro x; first | (have hx : x.dev = m.dev := by
                            simp only [x]
                            repeat' (first | (simp [*]; done) | intro _ | split   | simp [*])
                         clear_value x) | clear_value x)
    | (simp [*]; done)
    | intro _
    | split
    | simp [*]

@[simp] theorem Mach.snfCeil_dev (a : Agent) (level : BitVec 4) (m : Mach) : (Mach.snfCeil a level m).dev = m.dev := by
  unfold Mach.snfCeil
  try lift_lets
  repeat' first
    | (intro x; first | (have hx : x.dev = m.dev := by
                            simp only [x]
                            repeat' (first | (simp [*]; done) | intro _ | split   | simp [*])
                         clear_value x) | clear_value x)
    | (simp [*]; done)
    | intro _
    | split
    | simp [*]

@[simp] theorem Mach.domRefuse_dev (d cause : Nat) (m : Mach) : (Mach.domRefuse d cause m).dev = m.dev := by
  simp [Mach.domRefuse]

@[simp] theorem Mach.domOn_dev (a : Agent) (d : Nat) (m : Mach) : (Mach.domOn a d m).dev = m.dev := by
  unfold Mach.domOn
  repeat' first
    | (simp [*]; done)
    | intro _
    | split
    | simp [*]

@[simp] theorem Mach.pffBy_dev (src : Source) (n : Fin 8) (f : Mach → Mach) (m : Mach) (h : (f m).dev = m.dev) :
    (Mach.pffBy src n f m).dev = m.dev := by
  unfold Mach.pffBy
  repeat' first
    | exact h
    | (simp; done)
    | split

@[simp] theorem Mach.pffEnd_dev (n : Fin 8) (m : Mach) : (Mach.pffEnd n m).dev = m.dev := by
  simp [Mach.pffEnd]

@[simp] theorem Mach.pffDropBy_dev (a : Agent) (n : Fin 8) (m : Mach) : (Mach.pffDropBy a n m).dev = m.dev := by
  unfold Mach.pffDropBy
  repeat' first
    | (simp [*]; done)
    | intro _
    | split
    | simp [*]

@[simp] theorem Mach.pffDataRead_dev (a : Agent) (n : Fin 8) (width : Nat) (m : Mach) : (Mach.pffDataRead a n width m).dev = m.dev := by
  simp [Mach.pffDataRead]

@[simp] theorem Mach.pffStallEnd_dev (n : Fin 8) (m : Mach) : (Mach.pffStallEnd n m).dev = m.dev := by
  unfold Mach.pffStallEnd
  try lift_lets
  repeat' first
    | (intro x; first | (have hx : x.dev = m.dev := by
                            simp only [x]
                            repeat' (first | (simp [*]; done) | intro _ | split   | simp [*])
                         clear_value x) | clear_value x)
    | (simp [*]; done)
    | intro _
    | split
    | simp [*]

@[simp] theorem Mach.badDoorbell_dev (a : Agent) (q : Fin 256) (cq : Bool) (m : Mach) : (Mach.badDoorbell a q cq m).dev = m.dev := by
  unfold Mach.badDoorbell
  try lift_lets
  repeat' first
    | (intro x; first | (have hx : x.dev = m.dev := by
                            simp only [x]
                            repeat' (first | (simp [*]; done) | intro _ | split   | simp [*])
                         clear_value x) | clear_value x)
    | (simp [*]; done)
    | intro _
    | split
    | simp [*]

@[simp] theorem Mach.tailDoorbell_dev (a : Agent) (q : Fin 256) (v : Word) (m : Mach) : (Mach.tailDoorbell a q v m).dev = m.dev := by
  unfold Mach.tailDoorbell
  try lift_lets
  repeat' first
    | (intro x; first | (have hx : x.dev = m.dev := by
                            simp only [x]
                            repeat' (first | (simp [*]; done) | intro _ | split   | simp [*])
                         clear_value x) | clear_value x)
    | (simp [*]; done)
    | intro _
    | split
    | simp [*]

@[simp] theorem Mach.headDoorbell_dev (a : Agent) (q : Fin 256) (v : Word) (m : Mach) : (Mach.headDoorbell a q v m).dev = m.dev := by
  unfold Mach.headDoorbell
  try lift_lets
  repeat' first
    | (intro x; first | (have hx : x.dev = m.dev := by
                            simp only [x]
                            repeat' (first | (simp [*]; done) | intro _ | split   | simp [*])
                         clear_value x) | clear_value x)
    | (simp [*]; done)
    | intro _
    | split
    | simp [*]

@[simp] theorem Mach.fetchSlots_dev (q : Fin 256) (n i : Nat) (m : Mach) : (Mach.fetchSlots q n i m).1.dev = m.dev := by
  induction n generalizing m i with
  | zero => simp [Mach.fetchSlots]
  | succ n ih => simp [Mach.fetchSlots, ih]

@[simp] theorem Mach.fetchRead_dev (q : Fin 256) (group entry : Nat) (slots : List Nat) (m : Mach) : (Mach.fetchRead q group entry slots m).dev = m.dev := by
  unfold Mach.fetchRead
  try lift_lets
  repeat' first
    | (intro x; first | (have hx : x.dev = m.dev := by
                            simp only [x]
                            repeat' (first | (simp [*]; done) | intro _ | split   | simp [*])
                         clear_value x) | clear_value x)
    | (simp [*]; done)
    | intro _
    | split
    | simp [*]

@[simp] theorem Mach.issueFetch_dev (q : Fin 256) (k : Nat) (m : Mach) : (Mach.issueFetch q k m).dev = m.dev := by
  unfold Mach.issueFetch
  simp

@[simp] theorem Mach.setCredit_dev (l : List Int) (m : Mach) : (Mach.setCredit l m).dev = m.dev := by
  simp [Mach.setCredit]

@[simp] theorem Mach.arbStep_dev (n : Nat) (m : Mach) : (Mach.arbStep n m).dev = m.dev := by
  induction n generalizing m with
  | zero => simp [Mach.arbStep]
  | succ n ih =>
    unfold Mach.arbStep
    dsimp only
    split
    · simp
    · rw [ih]; split <;> simp

@[simp] theorem Mach.arbitrate_dev (m : Mach) : (Mach.arbitrate m).dev = m.dev := by
  unfold Mach.arbitrate
  repeat' first
    | (simp; done)
    | split

@[simp] theorem Mach.storeEntries_dev (l : List Nat) (es : List Entry) (m : Mach) : (Mach.storeEntries l es m).dev = m.dev := by
  induction l generalizing es m with
  | nil => simp [Mach.storeEntries]
  | cons s l ih =>
    cases es with
    | nil => simp [Mach.storeEntries]
    | cons e es => simp [Mach.storeEntries, ih]

@[simp] theorem Mach.groupBack_dev (g : Nat) (m : Mach) : (Mach.groupBack g m).dev = m.dev := by
  unfold Mach.groupBack
  try lift_lets
  repeat' first
    | (intro x; first | (have hx : x.dev = m.dev := by
                            simp only [x]
                            repeat' (first | (simp [*]; done) | intro _ | split | rw [Mach.each_dev]  | simp [*])
                         clear_value x) | clear_value x)
    | (simp [*]; done)
    | intro _
    | split
    | rw [Mach.each_dev]
    | simp [*]

@[simp] theorem Mach.fetchReturn_dev (id : Nat) (es : List Entry) (m : Mach) : (Mach.fetchReturn id es m).dev = m.dev := by
  unfold Mach.fetchReturn
  dsimp only
  repeat' first
    | (simp; done)
    | split

@[simp] theorem Mach.discardFetches_dev (p : FetchRd → Bool) (m : Mach) : (Mach.discardFetches p m).dev = m.dev := by
  unfold Mach.discardFetches
  try lift_lets
  repeat' first
    | (intro x; first | (have hx : x.dev = m.dev := by
                            simp only [x]
                            repeat' (first | (simp [*]; done) | intro _ | split | rw [Mach.each_dev]  | simp [*])
                         clear_value x) | clear_value x)
    | (simp [*]; done)
    | intro _
    | split
    | rw [Mach.each_dev]
    | simp [*]

@[simp] theorem Mach.fetchFailure_dev (id : Nat) (m : Mach) : (Mach.fetchFailure id m).dev = m.dev := by
  unfold Mach.fetchFailure
  try lift_lets
  repeat' first
    | (intro x; first | (have hx : x.dev = m.dev := by
                            simp only [x]
                            repeat' (first | (simp [*]; done) | intro _ | split   | simp [*])
                         clear_value x) | clear_value x)
    | (simp [*]; done)
    | intro _
    | split
    | simp [*]

@[simp] theorem Mach.queueCreate_dev (p : Port) (q : Fin 256) (depth cls : Nat) (crc : Bool) (sq cq : Nat) (m : Mach) : (Mach.queueCreate p q depth cls crc sq cq m).dev = m.dev := by
  unfold Mach.queueCreate
  repeat' first
    | (simp [*]; done)
    | intro _
    | split
    | simp [*]

@[simp] theorem Mach.queueDelete_dev (p : Port) (q : Fin 256) (m : Mach) : (Mach.queueDelete p q m).dev = m.dev := by
  unfold Mach.queueDelete
  try lift_lets
  repeat' first
    | (intro x; first | (have hx : x.dev = m.dev := by
                            simp only [x]
                            repeat' (first | (simp [*]; done) | intro _ | split | rw [Mach.each_dev]  | simp [*])
                         clear_value x) | clear_value x)
    | (simp [*]; done)
    | intro _
    | split
    | rw [Mach.each_dev]
    | simp [*]

@[simp] theorem Mach.deleteEnd_dev (q : Fin 256) (m : Mach) : (Mach.deleteEnd q m).dev = m.dev := by
  unfold Mach.deleteEnd
  try lift_lets
  repeat' first
    | (intro x; first | (have hx : x.dev = m.dev := by
                            simp only [x]
                            repeat' (first | (simp [*]; done) | intro _ | split   | simp [*])
                         clear_value x) | clear_value x)
    | (simp [*]; done)
    | intro _
    | split
    | simp [*]

@[simp] theorem Mach.abortAsk_dev (p : Port) (tag : BitVec 12) (m : Mach) : (Mach.abortAsk p tag m).dev = m.dev := by
  simp [Mach.abortAsk]

@[simp] theorem Mach.abortDecide_dev (m : Mach) : (Mach.abortDecide m).dev = m.dev := by
  unfold Mach.abortDecide
  try lift_lets
  repeat' first
    | (intro x; first | (have hx : x.dev = m.dev := by
                            simp only [x]
                            repeat' (first | (simp [*]; done) | intro _ | split   | simp [*])
                         clear_value x) | clear_value x)
    | (simp [*]; done)
    | intro _
    | split
    | simp [*]

@[simp] theorem Mach.define_dev (p : Port) (k : Nat) (lot : Bool) (v : Vid) (base size : Nat) (m : Mach) : (Mach.define p k lot v base size m).dev = m.dev := by
  unfold Mach.define
  repeat' first
    | (simp [*]; done)
    | intro _
    | split
    | simp [*]

@[simp] theorem Mach.delete_dev (p : Port) (k : Nat) (m : Mach) : (Mach.delete p k m).dev = m.dev := by
  unfold Mach.delete
  repeat' first
    | (simp [*]; done)
    | intro _
    | split
    | simp [*]

@[simp] theorem Mach.setLot_dev (p : Port) (k : Nat) (lot : Bool) (m : Mach) : (Mach.setLot p k lot m).dev = m.dev := by
  unfold Mach.setLot
  repeat' first
    | (simp [*]; done)
    | intro _
    | split
    | simp [*]

@[simp] theorem Mach.ownCommand_dev (kind : CmdKind) (e : Entry) (todo : List Nat) (m : Mach) : (Mach.ownCommand kind e todo m).dev = m.dev := by
  simp [Mach.ownCommand]

@[simp] theorem Mach.touchRun_dev (m : Mach) : (Mach.touchRun m).dev = m.dev := by
  unfold Mach.touchRun
  try lift_lets
  repeat' first
    | (intro x; first | (have hx : x.dev = m.dev := by
                            simp only [x]
                            repeat' (first | (simp [*]; done) | intro _ | split   | simp [*])
                         clear_value x) | clear_value x)
    | (simp [*]; done)
    | intro _
    | split
    | simp [*]

@[simp] theorem Mach.autoWb_dev (m : Mach) : (Mach.autoWb m).dev = m.dev := by
  unfold Mach.autoWb
  try lift_lets
  repeat' first
    | (intro x; first | (have hx : x.dev = m.dev := by
                            simp only [x]
                            repeat' (first | (simp [*]; done) | intro _ | split   | simp [*])
                         clear_value x) | clear_value x)
    | (simp [*]; done)
    | intro _
    | split
    | simp [*]

@[simp] theorem Mach.lntWritten_dev (i : Nat) (m : Mach) : (Mach.lntWritten i m).dev = m.dev := by
  unfold Mach.lntWritten
  try lift_lets
  repeat' first
    | (intro x; first | (have hx : x.dev = m.dev := by
                            simp only [x]
                            repeat' (first | (simp [*]; done) | intro _ | split   | simp [*])
                         clear_value x) | clear_value x)
    | (simp [*]; done)
    | intro _
    | split
    | simp [*]

@[simp] theorem Mach.lntOff_dev (i : Nat) (m : Mach) : (Mach.lntOff i m).dev = m.dev := by
  unfold Mach.lntOff
  try lift_lets
  repeat' first
    | (intro x; first | (have hx : x.dev = m.dev := by
                            simp only [x]
                            repeat' (first | (simp [*]; done) | intro _ | split   | simp [*])
                         clear_value x) | clear_value x)
    | (simp [*]; done)
    | intro _
    | split
    | simp [*]

@[simp] theorem Mach.lntEnable_dev (en : Bool) (m : Mach) : (Mach.lntEnable en m).dev = m.dev := by
  unfold Mach.lntEnable
  repeat' first
    | (simp [*]; done)
    | intro _
    | split
    | simp [*]

@[simp] theorem Mach.lntCtrl_dev (a : Agent) (en : Bool) (m : Mach) : (Mach.lntCtrl a en m).dev = m.dev := by
  unfold Mach.lntCtrl
  try lift_lets
  repeat' first
    | (intro x; first | (have hx : x.dev = m.dev := by
                            simp only [x]
                            repeat' (first | (simp [*]; done) | intro _ | split   | simp [*])
                         clear_value x) | clear_value x)
    | (simp [*]; done)
    | intro _
    | split
    | simp [*]

@[simp] theorem Mach.twinUp_dev (x4 rate16 : Bool) (m : Mach) : (Mach.twinUp x4 rate16 m).dev = m.dev := by
  unfold Mach.twinUp
  try lift_lets
  repeat' first
    | (intro x; first | (have hx : x.dev = m.dev := by
                            simp only [x]
                            repeat' (first | (simp [*]; done) | intro _ | split   | simp [*])
                         clear_value x) | clear_value x)
    | (simp [*]; done)
    | intro _
    | split
    | simp [*]

@[simp] theorem Mach.alignmentLost_dev (m : Mach) : (Mach.alignmentLost m).dev = m.dev := by
  unfold Mach.alignmentLost
  repeat' first
    | (simp [*]; done)
    | intro _
    | split
    | simp [*]

@[simp] theorem Mach.twnNak_dev (m : Mach) : (Mach.twnNak m).dev = m.dev := by
  simp [Mach.twnNak]

@[simp] theorem Mach.crcFailed_dev (sequenced : Bool) (m : Mach) : (Mach.crcFailed sequenced m).dev = m.dev := by
  unfold Mach.crcFailed
  repeat' first
    | (simp [*]; done)
    | intro _
    | split
    | rw [Mach.when_dev]
    | simp [*]

@[simp] theorem Mach.rxPlain_dev (h : FrameHdr) (f : Mach → Mach) (m : Mach) (hf : ∀ m : Mach, (f m).dev = m.dev) :
    (Mach.rxPlain h f m).dev = m.dev := by
  unfold Mach.rxPlain
  split
  · rw [hf]; simp
  · rfl

@[simp] theorem Mach.rxSeq_dev (h : FrameHdr) (f : Mach → Mach) (m : Mach) (hf : ∀ m : Mach, (f m).dev = m.dev) :
    (Mach.rxSeq h f m).dev = m.dev := by
  unfold Mach.rxSeq
  apply Mach.rxPlain_dev
  intro m
  dsimp only
  repeat' first
    | (rw [hf]; simp; done)
    | (simp; done)
    | split

@[simp] theorem Mach.serialMismatch_dev (m : Mach) : (Mach.serialMismatch m).dev = m.dev := by
  unfold Mach.serialMismatch
  try lift_lets
  repeat' first
    | (intro x; first | (have hx : x.dev = m.dev := by
                            simp only [x]
                            repeat' (first | (simp [*]; done) | intro _ | split   | simp [*])
                         clear_value x) | clear_value x)
    | (simp [*]; done)
    | intro _
    | split
    | simp [*]

@[simp] theorem Mach.resendAll_dev (m : Mach) : (Mach.resendAll m).dev = m.dev := by
  unfold Mach.resendAll
  repeat' first
    | (simp [*]; done)
    | intro _
    | split
    | simp [*]

@[simp] theorem Mach.durables_dev (m : Mach) : (Mach.durables m).dev = m.dev := by
  unfold Mach.durables
  repeat' first
    | (simp [*]; done)
    | intro _
    | split
    | rw [Mach.each_dev]
    | simp [*]

@[simp] theorem Mach.rxPut_dev (x : RxXfer) (m : Mach) : (Mach.rxPut x m).dev = m.dev := by
  simp [Mach.rxPut]

@[simp] theorem Mach.rxAwait_dev (x : RxXfer) (ids : List Nat) (more : List Cover) (m : Mach) : (Mach.rxAwait x ids more m).dev = m.dev := by
  unfold Mach.rxAwait
  try lift_lets
  repeat' first
    | (intro x; first | (have hx : x.dev = m.dev := by
                            simp only [x]
                            repeat' (first | (simp [*]; done) | intro _ | split | rw [Mach.each_dev]  | simp [*])
                         clear_value x) | clear_value x)
    | (simp [*]; done)
    | intro _
    | split
    | rw [Mach.each_dev]
    | simp [*]

@[simp] theorem Mach.rxEnd_dev (x : RxXfer) (m : Mach) : (Mach.rxEnd x m).dev = m.dev := by
  unfold Mach.rxEnd
  try lift_lets
  repeat' first
    | (intro x; first | (have hx : x.dev = m.dev := by
                            simp only [x]
                            repeat' (first | (simp [*]; done) | intro _ | split   | simp [*])
                         clear_value x) | clear_value x)
    | (simp [*]; done)
    | intro _
    | split
    | simp [*]

@[simp] theorem Mach.rxStep_dev (m : Mach) : (Mach.rxStep m).1.dev = m.dev := by
  unfold Mach.rxStep
  try lift_lets
  repeat' first
    | (intro x; first | (have hx : x.dev = m.dev := by
                            simp only [x]
                            repeat' (first | (simp [*]; done) | intro _ | split   | simp [*])
                         clear_value x) | clear_value x)
    | (simp [*]; done)
    | intro _
    | split
    | simp [*]

@[simp] theorem Mach.rxSteps_dev (n : Nat) (m : Mach) : (Mach.rxSteps n m).dev = m.dev := by
  induction n generalizing m with
  | zero => simp [Mach.rxSteps]
  | succ n ih =>
    unfold Mach.rxSteps
    dsimp only
    split <;> simp [ih]

@[simp] theorem Mach.rxDrain_dev (m : Mach) : (Mach.rxDrain m).dev = m.dev := by
  unfold Mach.rxDrain
  simp

@[simp] theorem Mach.rxBegin_dev (v : Vid) (fence n : Nat) (write : Bool) (x : RxXfer) (m : Mach) : (Mach.rxBegin v fence n write x m).dev = m.dev := by
  unfold Mach.rxBegin
  try lift_lets
  repeat' first
    | (intro x; first | (have hx : x.dev = m.dev := by
                            simp only [x]
                            repeat' (first | (simp [*]; done) | intro _ | split  | rw [Mach.when_dev] | simp [*])
                         clear_value x) | clear_value x)
    | (simp [*]; done)
    | intro _
    | split
    | rw [Mach.when_dev]
    | simp [*]

@[simp] theorem Mach.wdataIn_dev (xid idx : Nat) (d : BitVec 2048) (m : Mach) : (Mach.wdataIn xid idx d m).dev = m.dev := by
  unfold Mach.wdataIn
  try lift_lets
  repeat' first
    | (intro x; first | (have hx : x.dev = m.dev := by
                            simp only [x]
                            repeat' (first | (simp [*]; done) | intro _ | split   | simp [*])
                         clear_value x) | clear_value x)
    | (simp [*]; done)
    | intro _
    | split
    | simp [*]

@[simp] theorem Mach.refusedRegions_dev (v : Vid) (regs : List Nat) (m : Mach) : (Mach.refusedRegions v regs m).dev = m.dev := by
  unfold Mach.refusedRegions
  try lift_lets
  repeat' first
    | (intro x; first | (have hx : x.dev = m.dev := by
                            simp only [x]
                            repeat' (first | (simp [*]; done) | intro _ | split   | simp [*])
                         clear_value x) | clear_value x)
    | (simp [*]; done)
    | intro _
    | split
    | simp [*]

@[simp] theorem Mach.slotAnswered_dev (s x status : Nat) (m : Mach) : (Mach.slotAnswered s x status m).dev = m.dev := by
  unfold Mach.slotAnswered
  try lift_lets
  repeat' first
    | (intro x; first | (have hx : x.dev = m.dev := by
                            simp only [x]
                            repeat' (first | (simp [*]; done) | intro _ | split   | simp [*])
                         clear_value x) | clear_value x)
    | (simp [*]; done)
    | intro _
    | split
    | simp [*]

@[simp] theorem Mach.txAnswered_dev (w : TxFor) (x status : Nat) (m : Mach) : (Mach.txAnswered w x status m).dev = m.dev := by
  unfold Mach.txAnswered
  try lift_lets
  repeat' first
    | (intro x; first | (have hx : x.dev = m.dev := by
                            simp only [x]
                            repeat' (first | (simp [*]; done) | intro _ | split   | simp [*])
                         clear_value x) | clear_value x)
    | (simp [*]; done)
    | intro _
    | split
    | simp [*]

@[simp] theorem Mach.rsmapIn_dev (v : Vid) (first : Nat) (dirty : List Nat) (m : Mach) : (Mach.rsmapIn v first dirty m).dev = m.dev := by
  unfold Mach.rsmapIn
  try lift_lets
  repeat' first
    | (intro x; first | (have hx : x.dev = m.dev := by
                            simp only [x]
                            repeat' (first | (simp [*]; done) | intro _ | split   | simp [*])
                         clear_value x) | clear_value x)
    | (simp [*]; done)
    | intro _
    | split
    | simp [*]

@[simp] theorem Mach.twnAnswer_dev (v : Vid) (status : Nat) (m : Mach) : (Mach.twnAnswer v status m).dev = m.dev := by
  simp [Mach.twnAnswer]

@[simp] theorem Mach.forPartner_dev (v : Vid) (x : Vol) (m : Mach) : (Mach.forPartner v x m).dev = m.dev := by
  simp [Mach.forPartner]

@[simp] theorem Mach.createIn_dev (v : Vid) (fence : Nat) (x : VolArgs) (m : Mach) : (Mach.createIn v fence x m).dev = m.dev := by
  unfold Mach.createIn
  repeat' first
    | (simp [*]; done)
    | intro _
    | split
    | simp [*]

@[simp] theorem Mach.formatIn_dev (v : Vid) (x : VolArgs) (m : Mach) : (Mach.formatIn v x m).dev = m.dev := by
  unfold Mach.formatIn
  repeat' first
    | (simp [*]; done)
    | intro _
    | split
    | simp [*]

@[simp] theorem Mach.deleteHere_dev (v : Vid) (x : Vol) (m : Mach) : (Mach.deleteHere v x m).dev = m.dev := by
  simp [Mach.deleteHere]

@[simp] theorem Mach.deleteIn_dev (v : Vid) (m : Mach) : (Mach.deleteIn v m).dev = m.dev := by
  unfold Mach.deleteIn
  repeat' first
    | (simp [*]; done)
    | intro _
    | split
    | simp [*]

@[simp] theorem Mach.unmirrorIn_dev (v : Vid) (m : Mach) : (Mach.unmirrorIn v m).dev = m.dev := by
  unfold Mach.unmirrorIn
  repeat' first
    | (simp [*]; done)
    | intro _
    | split
    | simp [*]

@[simp] theorem Mach.takeIn_dev (v : Vid) (fence : Nat) (m : Mach) : (Mach.takeIn v fence m).dev = m.dev := by
  unfold Mach.takeIn
  try lift_lets
  repeat' first
    | (intro x; first | (have hx : x.dev = m.dev := by
                            simp only [x]
                            repeat' (first | (simp [*]; done) | intro _ | split   | simp [*])
                         clear_value x) | clear_value x)
    | (simp [*]; done)
    | intro _
    | split
    | simp [*]

@[simp] theorem Mach.takeAckIn_dev (v : Vid) (fence : Nat) (m : Mach) : (Mach.takeAckIn v fence m).dev = m.dev := by
  unfold Mach.takeAckIn
  try lift_lets
  repeat' first
    | (intro x; first | (have hx : x.dev = m.dev := by
                            simp only [x]
                            repeat' (first | (simp [*]; done) | intro _ | split   | simp [*])
                         clear_value x) | clear_value x)
    | (simp [*]; done)
    | intro _
    | split
    | simp [*]

@[simp] theorem Mach.handoverOver_dev (v : Vid) (m : Mach) : (Mach.handoverOver v m).dev = m.dev := by
  unfold Mach.handoverOver
  repeat' first
    | (simp [*]; done)
    | intro _
    | split
    | rw [Mach.each_dev]
    | simp [*]

@[simp] theorem Mach.pieceRead_dev (s off : Nat) (m : Mach) : (Mach.pieceRead s off m).dev = m.dev := by
  unfold Mach.pieceRead
  extract_lets c v lba
  generalize m.storedSrc v lba = r
  cases r
  case version => rw [Mach.pieceLb_dev]
  case zero => rw [Mach.setCmd_dev]
  case flash => rw [Mach.startRead_dev]
  case recovering => rw [Mach.pieceLb_dev, Mach.badEntry_dev]
  all_goals rw [Mach.pieceLb_dev]

@[simp] theorem Mach.pieceRun_dev (s : Nat) (m : Mach) : (Mach.pieceRun s m).dev = m.dev := by
  unfold Mach.pieceRun
  dsimp only
  split
  · simp
  · rw [Mach.pieceDone_dev, Mach.each_dev, Mach.setCmd_dev, Mach.setRs_dev]
    intro off m
    exact Mach.pieceRead_dev ..

@[simp] theorem Mach.takeLow_dev (key : Nat) (m : Mach) : (Mach.takeLow key m).1.dev = m.dev := by
  simp [Mach.takeLow]

@[simp] theorem Mach.writePfCtrl_dev (a : Agent) (n : Fin 8) (v : Word) (m : Mach) : (Mach.writePfCtrl a n v m).dev = m.dev := by
  unfold Mach.writePfCtrl
  try lift_lets
  repeat' first
    | (intro x; first | (have hx : x.dev = m.dev := by
                            simp only [x]
                            repeat' (first | (simp [*]; done) | intro _ | split  | rw [Mach.when_dev] | simp [*])
                         clear_value x) | clear_value x)
    | (simp [*]; done)
    | intro _
    | split
    | rw [Mach.when_dev]
    | simp [*]

@[simp] theorem Mach.writeAlmCtrl_dev (a : Agent) (v : Word) (m : Mach) : (Mach.writeAlmCtrl a v m).dev = m.dev := by
  unfold Mach.writeAlmCtrl
  repeat' first
    | (simp [*]; done)
    | intro _
    | split
    | rw [Mach.when_dev]
    | simp [*]

@[simp] theorem Mach.writeDoorbell_dev (a : Agent) (off : Nat) (v : Word) (m : Mach) : (Mach.writeDoorbell a off v m).dev = m.dev := by
  unfold Mach.writeDoorbell
  try lift_lets
  repeat' first
    | (intro x; first | (have hx : x.dev = m.dev := by
                            simp only [x]
                            repeat' (first | (simp [*]; done) | intro _ | split   | simp [*])
                         clear_value x) | clear_value x)
    | (simp [*]; done)
    | intro _
    | split
    | simp [*]

@[simp] theorem Mach.restartPeak_dev (p : Page) (off : Nat) (m : Mach) : (Mach.restartPeak p off m).dev = m.dev := by
  unfold Mach.restartPeak
  repeat' first
    | (simp [*]; done)
    | intro _
    | split
    | simp [*]

@[simp] theorem Mach.readEffect_dev (p : Page) (off : Nat) (m : Mach) : (Mach.readEffect p off m).dev = m.dev := by
  unfold Mach.readEffect
  repeat' first
    | (simp [*]; done)
    | intro _
    | split
    | simp [*]

@[simp] theorem Mach.readWord_dev (a : Agent) (off : Nat) (m : Mach) : (Mach.readWord a off m).1.dev = m.dev := by
  unfold Mach.readWord
  try lift_lets
  repeat' first
    | (intro x; first | (have hx : x.dev = m.dev := by
                            simp only [x]
                            repeat' (first | (simp [*]; done) | intro _ | split   | simp [*])
                         clear_value x) | clear_value x)
    | (simp [*]; done)
    | intro _
    | split
    | simp [*]

@[simp] theorem Mach.bar0Read_dev (a : Agent) (off width : Nat) (m : Mach) : (Mach.bar0Read a off width m).1.dev = m.dev := by
  unfold Mach.bar0Read
  try dsimp only
  repeat' first | (simp; done) | split

@[simp] theorem Mach.cfgBusRead_dev (a : Agent) (off width : Nat) (m : Mach) : (Mach.cfgBusRead a off width m).1.dev = m.dev := by
  unfold Mach.cfgBusRead
  try lift_lets
  repeat' first
    | (intro x; first | (have hx : x.dev = m.dev := by
                            simp only [x]
                            repeat' (first | (simp [*]; done) | intro _ | split | rw [Mach.each_dev] | simp [*])
                         clear_value x) | clear_value x)
    | (simp [*]; done)
    | intro _
    | split
    | rw [Mach.each_dev]
    | simp [*]

@[simp] theorem Mach.busRead_dev (a : Agent) (off width : Nat) (m : Mach) : (Mach.busRead a off width m).1.dev = m.dev := by
  unfold Mach.busRead
  try lift_lets
  repeat' first
    | (intro x; first | (have hx : x.dev = m.dev := by
                            simp only [x]
                            repeat' (first | (simp [*]; done) | intro _ | split | rw [Mach.each_dev] | simp [*])
                         clear_value x) | clear_value x)
    | (simp [*]; done)
    | intro _
    | split
    | rw [Mach.each_dev]
    | simp [*]

@[simp] theorem Mach.busAnswer_dev (a : Agent) (off width : Nat) (m : Mach) : (Mach.busAnswer a off width m).dev = m.dev := by
  simp [Mach.busAnswer]

@[simp] theorem Mach.svcStartPage_dev (p : Port) (pg : Page) (m : Mach) : (Mach.svcStartPage p pg m).dev = m.dev := by
  unfold Mach.svcStartPage
  try lift_lets
  repeat' first
    | (intro x; first | (have hx : x.dev = m.dev := by
                            simp only [x]
                            repeat' (first | (simp [*]; done) | intro _ | split   | simp [*])
                         clear_value x) | clear_value x)
    | (simp [*]; done)
    | intro _
    | split
    | simp [*]

@[simp] theorem Mach.retrain_dev (pg : Page) (f : Mach → Mach) (m : Mach) (h : (f m).dev = m.dev) : (Mach.retrain pg f m).dev = m.dev := by
  unfold Mach.retrain
  split
  · simp
  · exact h

@[simp] theorem Mach.deskewed_dev (c : Chan) (m : Mach) : (Mach.deskewed c m).dev = m.dev := by
  unfold Mach.deskewed
  repeat' first
    | (simp [*]; done)
    | intro _
    | split
    | simp [*]

@[simp] theorem Mach.calibrate_dev (i : Nat) (o : Int) (m : Mach) : (Mach.calibrate i o m).dev = m.dev := by
  unfold Mach.calibrate
  repeat' first
    | (simp [*]; done)
    | intro _
    | split
    | simp [*]

@[simp] theorem Mach.recalibrate_dev (offsets : List Int) (m : Mach) : (Mach.recalibrate offsets m).dev = m.dev := by
  unfold Mach.recalibrate
  repeat' first
    | (simp [*]; done)
    | intro _
    | split
    | rw [Mach.each_dev]
    | simp [*]

@[simp] theorem Mach.twinOp_dev (p : Port) (v : Vid) (f : Mach → Mach) (m : Mach) (h : (f m).dev = m.dev) :
    (Mach.twinOp p v f m).dev = m.dev := by
  unfold Mach.twinOp
  split
  · simp
  · exact h

@[simp] theorem Mach.mirrorCmd_dev (p : Port) (v : Vid) (pkeySlot : Nat) (m : Mach) : (Mach.mirrorCmd p v pkeySlot m).dev = m.dev := by
  unfold Mach.mirrorCmd
  try lift_lets
  repeat' first
    | (intro x; first | (have hx : x.dev = m.dev := by
                            simp only [x]
                            repeat' (first | (simp [*]; done) | intro _ | split   | simp [*])
                         clear_value x) | clear_value x)
    | (simp [*]; done)
    | intro _
    | split
    | simp [*]

@[simp] theorem Mach.unmirrorCmd_dev (p : Port) (v : Vid) (m : Mach) : (Mach.unmirrorCmd p v m).dev = m.dev := by
  unfold Mach.unmirrorCmd
  try lift_lets
  repeat' first
    | (intro x; first | (have hx : x.dev = m.dev := by
                            simp only [x]
                            repeat' (first | (simp [*]; done) | intro _ | split   | simp [*])
                         clear_value x) | clear_value x)
    | (simp [*]; done)
    | intro _
    | split
    | simp [*]

@[simp] theorem Mach.demoteCmd_dev (p : Port) (v : Vid) (fence : Nat) (m : Mach) : (Mach.demoteCmd p v fence m).dev = m.dev := by
  unfold Mach.demoteCmd
  try lift_lets
  repeat' first
    | (intro x; first | (have hx : x.dev = m.dev := by
                            simp only [x]
                            repeat' (first | (simp [*]; done) | intro _ | split   | simp [*])
                         clear_value x) | clear_value x)
    | (simp [*]; done)
    | intro _
    | split
    | simp [*]

@[simp] theorem Mach.takeover_dev (p : Port) (v : Vid) (force : Bool) (fence : Nat) (m : Mach) : (Mach.takeover p v force fence m).dev = m.dev := by
  unfold Mach.takeover
  try lift_lets
  repeat' first
    | (intro x; first | (have hx : x.dev = m.dev := by
                            simp only [x]
                            repeat' (first | (simp [*]; done) | intro _ | split   | simp [*])
                         clear_value x) | clear_value x)
    | (simp [*]; done)
    | intro _
    | split
    | simp [*]

@[simp] theorem Mach.volCmd_dev (p : Port) (opcode : Nat) (op : BgOp) (refusal : Mach → Option Nat) (accept : Mach → Mach) (m : Mach)
    (h : ∀ m : Mach, (accept m).dev = m.dev) : (Mach.volCmd p opcode op refusal accept m).dev = m.dev := by
  unfold Mach.volCmd
  repeat' first
    | (simp; done)
    | (apply Mach.startBg_dev; exact h)
    | split

@[simp] theorem Mach.volRepeat_dev (v : Vid) (m : Mach) : (Mach.volRepeat v m).dev = m.dev := by
  unfold Mach.volRepeat
  repeat' first
    | (simp [*]; done)
    | intro _
    | split
    | simp [*]

@[simp] theorem Mach.softDone_dev (task : Nat) (ok : Bool) (k : CwCheck) (m : Mach) : (Mach.softDone task ok k m).dev = m.dev := by
  unfold Mach.softDone
  try lift_lets
  repeat' first
    | (intro x; first | (have hx : x.dev = m.dev := by
                            simp only [x]
                            repeat' (first | (simp [*]; done) | intro _ | split   | simp [*])
                         clear_value x) | clear_value x)
    | (simp [*]; done)
    | intro _
    | split
    | simp [*]

@[simp] theorem Mach.combine_dev (task : Nat) (k : CwCheck) (m : Mach) : (Mach.combine task k m).dev = m.dev := by
  unfold Mach.combine
  try lift_lets
  repeat' first
    | (intro x; first | (have hx : x.dev = m.dev := by
                            simp only [x]
                            repeat' (first | (simp [*]; done) | intro _ | split | rw [Mach.each_dev] | simp [*])
                         clear_value x) | clear_value x)
    | (simp [*]; done)
    | intro _
    | split
    | rw [Mach.each_dev]
    | simp [*]

@[simp] theorem Mach.hiwatSeal_dev (m : Mach) : (Mach.hiwatSeal m).dev = m.dev := by
  unfold Mach.hiwatSeal
  repeat' first
    | (simp [*]; done)
    | intro _
    | split
    | simp [*]

@[simp] theorem Mach.exhaustSlot_dev (slot : Nat) (m : Mach) : (Mach.exhaustSlot slot m).dev = m.dev := by
  unfold Mach.exhaustSlot
  try lift_lets
  repeat' first
    | (intro x; first | (have hx : x.dev = m.dev := by
                            simp only [x]
                            repeat' (first | (simp [*]; done) | intro _ | split   | simp [*])
                         clear_value x) | clear_value x)
    | (simp [*]; done)
    | intro _
    | split
    | simp [*]

@[simp] theorem Mach.haltSlot_dev (slot : Nat) (m : Mach) : (Mach.haltSlot slot m).dev = m.dev := by
  unfold Mach.haltSlot
  try lift_lets
  repeat' first
    | (intro x; first | (have hx : x.dev = m.dev := by
                            simp only [x]
                            repeat' (first | (simp [*]; done) | intro _ | split   | simp [*])
                         clear_value x) | clear_value x)
    | (simp [*]; done)
    | intro _
    | split
    | simp [*]

@[simp] theorem Mach.exhaustIntegrity_dev (m : Mach) : (Mach.exhaustIntegrity m).dev = m.dev := by
  unfold Mach.exhaustIntegrity
  try lift_lets
  repeat' first
    | (intro x; first | (have hx : x.dev = m.dev := by
                            simp only [x]
                            repeat' (first | (simp [*]; done) | intro _ | split   | simp [*])
                         clear_value x) | clear_value x)
    | (simp [*]; done)
    | intro _
    | split
    | simp [*]

@[simp] theorem Mach.sequenceLimit_dev (m : Mach) : (Mach.sequenceLimit m).dev = m.dev := by
  unfold Mach.sequenceLimit
  repeat' first
    | (simp [*]; done)
    | intro _
    | split
    | simp [*]

@[simp] theorem Mach.applyUpd_dev (w : WaitUpd) (m : Mach) : (Mach.applyUpd w m).dev = m.dev := by
  unfold Mach.applyUpd
  repeat' first
    | (simp [*]; done)
    | intro _
    | split
    | simp [*]

@[simp] theorem Mach.retryRmw_dev (m : Mach) : (Mach.retryRmw m).dev = m.dev := by
  unfold Mach.retryRmw
  try lift_lets
  repeat' first
    | (intro x; first | (have hx : x.dev = m.dev := by
                            simp only [x]
                            repeat' (first | (simp [*]; done) | intro _ | split | rw [Mach.each_dev]  | simp [*])
                         clear_value x) | clear_value x)
    | (simp [*]; done)
    | intro _
    | split
    | rw [Mach.each_dev]
    | simp [*]

@[simp] theorem Mach.tapLoad_dev (i : TapIr) (m : Mach) : (Mach.tapLoad i m).dev = m.dev := by
  unfold Mach.tapLoad
  try lift_lets
  repeat' first
    | (intro x; first | (have hx : x.dev = m.dev := by
                            simp only [x]
                            repeat' (first | (simp [*]; done) | intro _ | split   | simp [*])
                         clear_value x) | clear_value x)
    | (simp [*]; done)
    | intro _
    | split
    | simp [*]

@[simp] theorem Mach.tapInReset_dev (i : TapIr) (m : Mach) : (Mach.tapInReset i m).dev = m.dev := by
  simp [Mach.tapInReset]

end Sys2Proof.Machine
end

