-- ==== Sys2Proof/Laws/PageSt.lean ====
section
/-! SUPPORT. The operations that leave every page's state alone. -/

namespace Sys2Proof.Machine

-- One proof at a time: proofs that wait for each other would each hold a thread and its stack.
set_option Elab.async false

theorem Mach.when_pageSt (j : Page) (b : Bool) (f : Mach → Mach) (m : Mach) (h : ∀ m : Mach, (f m).pageSt j = m.pageSt j) :
    (m.when b f).pageSt j = m.pageSt j := by
  unfold Mach.when; split <;> simp [h]

theorem Mach.each_pageSt {α : Type} (j : Page) (l : List α) (f : α → Mach → Mach) (m : Mach)
    (h : ∀ a, ∀ m : Mach, (f a m).pageSt j = m.pageSt j) : (m.each l f).pageSt j = m.pageSt j := by
  unfold Mach.each
  induction l generalizing m with
  | nil => rfl
  | cons a l ih => rw [List.foldl_cons, ih, h]

theorem Mach.pageSt_ite (j : Page) (c : Prop) [Decidable c] (a b : Mach) : (if c then a else b).pageSt j = if c then a.pageSt j else b.pageSt j := by
  split <;> rfl

@[simp] theorem Mach.pageSt_bumpBy (j : Page) (k n : Nat) (m : Mach) : (m.bumpBy k n).pageSt j = m.pageSt j := by simp [Mach.bumpBy]

@[simp] theorem Mach.pageSt_raiseTo (j : Page) (k n t : Nat) (m : Mach) : (m.raiseTo k n t).pageSt j = m.pageSt j := by
  unfold Mach.raiseTo; split <;> simp

@[simp] theorem Mach.pageSt_bumpWrap (j : Page) (k : Nat) (m : Mach) : (m.bumpWrap k).pageSt j = m.pageSt j := by simp [Mach.bumpWrap]

@[simp] theorem Mach.pageSt_bump64By (j : Page) (k n : Nat) (m : Mach) : (m.bump64By k n).pageSt j = m.pageSt j := by
  unfold Mach.bump64By; dsimp only; split <;> (try simp) <;> rfl

@[simp] theorem Mach.pageSt_bump64 (j : Page) (k : Nat) (m : Mach) : (m.bump64 k).pageSt j = m.pageSt j := by simp [Mach.bump64]

@[simp] theorem Mach.pffCommit_pageSt (j : Page) (n : Fin 8) (frameOk : Bool) (ws : List Word) (m : Mach) : (Mach.pffCommit n frameOk ws m).pageSt j = m.pageSt j := by
  unfold Mach.pffCommit
  try lift_lets
  repeat' first
    | (intro x; first | (have hx : x.pageSt j = m.pageSt j := by
                            simp only [x]
                            repeat' (first | (simp [*]; done) | intro _ | split   | simp [*])
                         clear_value x) | clear_value x)
    | (simp [*]; done)
    | intro _
    | split
    | simp [*]

@[simp] theorem Mach.pffAccept_pageSt (j : Page) (n : Fin 8) (w : Word) (frameOk : Bool) (m : Mach) : (Mach.pffAccept n w frameOk m).pageSt j = m.pageSt j := by
  unfold Mach.pffAccept
  try lift_lets
  repeat' first
    | (intro x; first | (have hx : x.pageSt j = m.pageSt j := by
                            simp only [x]
                            repeat' (first | (simp [*]; done) | intro _ | split   | simp [*])
                         clear_value x) | clear_value x)
    | (simp [*]; done)
    | intro _
    | split
    | simp [*]

@[simp] theorem Mach.pffOversize_pageSt (j : Page) (n : Fin 8) (m : Mach) : (Mach.pffOversize n m).pageSt j = m.pageSt j := by
  simp [Mach.pffOversize]

@[simp] theorem Mach.pffResume_pageSt (j : Page) (n : Fin 8) (m : Mach) : (Mach.pffResume n m).pageSt j = m.pageSt j := by
  unfold Mach.pffResume
  try lift_lets
  repeat' first
    | (intro x; first | (have hx : x.pageSt j = m.pageSt j := by
                            simp only [x]
                            repeat' (first | (simp [*]; done) | intro _ | split   | simp [*])
                         clear_value x) | clear_value x)
    | (simp [*]; done)
    | intro _
    | split
    | simp [*]

@[simp] theorem Mach.pffPacket_pageSt (j : Page) (n : Fin 8) (ws : List Word) (m : Mach) : (Mach.pffPacket n ws m).pageSt j = m.pageSt j := by
  simp [Mach.pffPacket]

@[simp] theorem Mach.fifoPass_pageSt (j : Page) (n : Fin 8) (ws : List Word) (m : Mach) : (Mach.fifoPass n ws m).pageSt j = m.pageSt j := by
  unfold Mach.fifoPass
  try lift_lets
  repeat' first
    | (intro x; first
      | (have hx : x.pageSt j = m.pageSt j := (by
        simp only [x]
        repeat' (first | (simp [*]; done) | intro _ | split | rw [Mach.each_pageSt] | simp [*])); clear_value x)
      | (have hx : x.1.pageSt j = m.pageSt j := (by
        simp only [x]
        repeat' (first | (simp [*]; done) | intro _ | split | rw [Mach.each_pageSt] | simp [*])); clear_value x)
      | clear_value x)
    | (simp [*]; done)
    | intro _
    | split
    | (have h2 := congrArg (fun p => p.1.pageSt j) ‹_ = (_, _)›; simp at h2; simp [*]; done)
    | rw [Mach.each_pageSt]
    | simp [*]

@[simp] theorem Mach.logEvent_pageSt (j : Page) (l : Nat) (k : EvKind) (m : Mach) : (m.logEvent l k).pageSt j = m.pageSt j :=
  recorded_pageSt (recorded_logEvent ..) j

@[simp] theorem Mach.errBit_pageSt (j : Page) (p : Page) (i : Nat) (m : Mach) : (m.errBit p i).pageSt j = m.pageSt j := by
  unfold Mach.errBit
  by_cases n : j = p
  · subst n; simp [Mach.pageSt]
  · simp [Mach.pageSt, Mach.hdr_setHdr_ne _ _ _ _ n]

@[simp] theorem Mach.almFlush_pageSt (j : Page) (m : Mach) : m.almFlush.pageSt j = m.pageSt j := recorded_pageSt (recorded_almFlush m) j

@[simp] theorem Mach.almFlushPending_pageSt (j : Page) (m : Mach) : m.almFlushPending.pageSt j = m.pageSt j :=
  recorded_pageSt (recorded_almFlushPending m) j

@[simp] theorem Mach.event_pageSt (j : Page) (sev : Sev) (src code inst : Nat) (arg : BitVec 64) (d : List Word) (m : Mach) :
    (m.event sev src code inst arg d).pageSt j = m.pageSt j := recorded_pageSt (recorded_event ..) j

@[simp] theorem Mach.devEvent_pageSt (j : Page) (sev : Sev) (code : Nat) (arg : BitVec 64) (d : List Word) (m : Mach) :
    (m.devEvent sev code arg d).pageSt j = m.pageSt j := recorded_pageSt (recorded_devEvent ..) j

@[simp] theorem Mach.raiseAs_pageSt (j : Page) (sev : Sev) (p : Page) (i : Nat) (arg : BitVec 64) (m : Mach) :
    (m.raiseAs sev p i arg).pageSt j = m.pageSt j := by
  rw [recorded_pageSt (recorded_raiseAs m sev p i arg) j, Mach.errBit_pageSt]

@[simp] theorem Mach.raise_pageSt (j : Page) (p : Page) (i : Nat) (arg : BitVec 64) (m : Mach) :
    (m.raise p i arg).pageSt j = m.pageSt j := Mach.raiseAs_pageSt ..

@[simp] theorem Mach.observe_pageSt (j : Page) (q : Nat) (b : Option Nat) (v : Int) (m : Mach) : (m.observe q b v).pageSt j = m.pageSt j :=
  recorded_pageSt (recorded_observe ..) j

@[simp] theorem Mach.snapshots_pageSt (j : Page) (m : Mach) : m.snapshots.pageSt j = m.pageSt j := recorded_pageSt (recorded_snapshots m) j

@[simp] theorem Mach.twnPlain_pageSt (j : Page) (type : Nat) (words : List Nat) (m : Mach) : (Mach.twnPlain type words m).pageSt j = m.pageSt j := by
  unfold Mach.twnPlain
  repeat' first
    | (simp [*]; done)
    | intro _
    | split
    | simp [*]

@[simp] theorem Mach.twnPut_pageSt (j : Page) (f : Frame) (m : Mach) : (Mach.twnPut f m).pageSt j = m.pageSt j := by
  unfold Mach.twnPut
  try lift_lets
  repeat' first
    | (intro x; first | (have hx : x.pageSt j = m.pageSt j := by
                            simp only [x]
                            repeat' (first | (simp [*]; done) | intro _ | split   | simp [*])
                         clear_value x) | clear_value x)
    | (simp [*]; done)
    | intro _
    | split
    | simp [*]

@[simp] theorem Mach.twnGo_pageSt (j : Page) (f : Frame) (m : Mach) : (Mach.twnGo f m).pageSt j = m.pageSt j := by
  unfold Mach.twnGo
  repeat' first
    | (simp [*]; done)
    | intro _
    | split
    | simp [*]

theorem Mach.twnNext_pageSt (j : Page) (n : Nat) (m : Mach) : (Mach.twnNext n m).pageSt j = m.pageSt j := by
  induction n generalizing m with
  | zero => simp [Mach.twnNext]
  | succ n ih =>
    unfold Mach.twnNext
    split
    · simp
    · lift_lets
      intro x
      have hx : x.pageSt j = m.pageSt j := by
        simp only [x]
        rw [Mach.each_pageSt]
        intro a m
        simp
      clear_value x
      split
      · rw [ih]; simp [hx]
      · simp [hx]

@[simp] theorem Mach.twnQueue_pageSt (j : Page) (x : TxOpen) (m : Mach) : (Mach.twnQueue x m).pageSt j = m.pageSt j := by
  unfold Mach.twnQueue
  split
  · simp
  · rw [Mach.twnNext_pageSt]; simp

@[simp] theorem Mach.twnSend_pageSt (j : Page) (type flags xid idx : Nat) (words : List Nat) (data : BitVec 2048) (m : Mach) : (Mach.twnSend type flags xid idx words data m).pageSt j = m.pageSt j := by
  simp [Mach.twnSend]

@[simp] theorem Mach.twnBegin_pageSt (j : Page) (type flags xid lbs : Nat) (words : List Nat) (m : Mach) : (Mach.twnBegin type flags xid lbs words m).pageSt j = m.pageSt j := by
  simp [Mach.twnBegin]

@[simp] theorem Mach.twnFeed_pageSt (j : Page) (xid : Nat) (f : TxOpen → TxOpen) (m : Mach) : (Mach.twnFeed xid f m).pageSt j = m.pageSt j := by
  unfold Mach.twnFeed
  rw [Mach.twnNext_pageSt]; simp

@[simp] theorem Mach.twnForget_pageSt (j : Page) (s : Nat) (m : Mach) : (Mach.twnForget s m).pageSt j = m.pageSt j := by
  unfold Mach.twnForget
  try lift_lets
  repeat' first
    | (intro x; first | (have hx : x.pageSt j = m.pageSt j := by
                            simp only [x]
                            repeat' (first | (simp [*]; done) | intro _ | split | rw [Mach.each_pageSt]  | simp [*])
                         clear_value x) | clear_value x)
    | (simp [*]; done)
    | intro _
    | split
    | rw [Mach.each_pageSt]
    | simp [*]

@[simp] theorem Mach.twnDrain_pageSt (j : Page) (m : Mach) : (Mach.twnDrain m).pageSt j = m.pageSt j := by
  unfold Mach.twnDrain
  repeat' first
    | (simp [*]; done)
    | intro _
    | split
    | rw [Mach.each_pageSt]
    | simp [*]

@[simp] theorem Mach.twnAcked_pageSt (j : Page) (ack : Nat) (m : Mach) : (Mach.twnAcked ack m).pageSt j = m.pageSt j := by
  simp [Mach.twnAcked]

@[simp] theorem Mach.twnXid_pageSt (j : Page) (w : TxFor) (m : Mach) : (Mach.twnXid w m).1.pageSt j = m.pageSt j := by
  simp [Mach.twnXid]

@[simp] theorem Mach.twnData_pageSt (j : Page) (xid off : Nat) (d : Block) (m : Mach) : (Mach.twnData xid off d m).pageSt j = m.pageSt j := by
  unfold Mach.twnData
  try lift_lets
  repeat' first
    | (intro x; first | (have hx : x.pageSt j = m.pageSt j := by
                            simp only [x]
                            repeat' (first | (simp [*]; done) | intro _ | split   | simp [*])
                         clear_value x) | clear_value x)
    | (simp [*]; done)
    | intro _
    | split
    | simp [*]

@[simp] theorem Mach.twnCtl_pageSt (j : Page) (ws : List Nat) (m : Mach) : (Mach.twnCtl ws m).pageSt j = m.pageSt j := by
  unfold Mach.twnCtl
  try lift_lets
  repeat' first
    | (intro x; first
      | (have hx : x.pageSt j = m.pageSt j := (by
        simp only [x]
        repeat' (first | (simp [*]; done) | intro _ | split | rw [Mach.each_pageSt] | simp [*])); clear_value x)
      | (have hx : x.1.pageSt j = m.pageSt j := (by
        simp only [x]
        repeat' (first | (simp [*]; done) | intro _ | split | rw [Mach.each_pageSt] | simp [*])); clear_value x)
      | clear_value x)
    | (simp [*]; done)
    | intro _
    | split
    | (have h2 := congrArg (fun p => p.1.pageSt j) ‹_ = (_, _)›; simp at h2; simp [*]; done)
    | rw [Mach.each_pageSt]
    | simp [*]

@[simp] theorem Mach.twnCtrl_pageSt (j : Page) (op : Nat) (v : Vid) (arg fence role size layout : Nat) (m : Mach) : (Mach.twnCtrl op v arg fence role size layout m).pageSt j = m.pageSt j := by
  simp [Mach.twnCtrl]

@[simp] theorem Mach.twnWack_pageSt (j : Page) (xid : Nat) (v : Vid) (status : Nat) (m : Mach) : (Mach.twnWack xid v status m).pageSt j = m.pageSt j := by
  simp [Mach.twnWack]

@[simp] theorem TwinWait.reply_pageSt (j : Page) (w : TwinWait) (f : Port → Mach → Mach) (m : Mach) (h : ∀ p, ∀ m : Mach, (f p m).pageSt j = m.pageSt j) :
    (w.reply f m).pageSt j = m.pageSt j := by
  unfold TwinWait.reply; split <;> simp [h]

@[simp] theorem Mach.twnAwait_pageSt (j : Page) (w : TwinWait) (m : Mach) : (Mach.twnAwait w m).pageSt j = m.pageSt j := by
  simp [Mach.twnAwait]

@[simp] theorem Mach.twnUnwait_pageSt (j : Page) (w : TwinWait) (m : Mach) : (Mach.twnUnwait w m).pageSt j = m.pageSt j := by
  simp [Mach.twnUnwait]

@[simp] theorem Mach.freeSlot_pageSt (j : Page) (s : Nat) (m : Mach) : (Mach.freeSlot s m).pageSt j = m.pageSt j := by
  simp [Mach.freeSlot]

@[simp] theorem Mach.twinOpen_pageSt (j : Page) (s : Nat) (m : Mach) : (Mach.twinOpen s m).pageSt j = m.pageSt j := by
  unfold Mach.twinOpen
  try lift_lets
  repeat' first
    | (intro x; first | (have hx : x.pageSt j = m.pageSt j := by
                            simp only [x]
                            repeat' (first | (simp [*]; done) | intro _ | split   | simp [*])
                         clear_value x) | clear_value x)
    | (simp [*]; done)
    | intro _
    | split
    | simp [*]

@[simp] theorem Mach.admitCmd_pageSt (j : Page) (s : Nat) (m : Mach) : (Mach.admitCmd s m).pageSt j = m.pageSt j := by
  simp [Mach.admitCmd]

@[simp] theorem Mach.admitWaiter_pageSt (j : Page) (s : Nat) (m : Mach) : (Mach.admitWaiter s m).pageSt j = m.pageSt j := by
  simp [Mach.admitWaiter]

@[simp] theorem Mach.release_pageSt (j : Page) (s : Nat) (m : Mach) : (Mach.release s m).pageSt j = m.pageSt j := by
  unfold Mach.release
  try lift_lets
  repeat' first
    | (intro x; first | (have hx : x.pageSt j = m.pageSt j := by
                            simp only [x]
                            repeat' (first | (simp [*]; done) | intro _ | split | rw [Mach.each_pageSt]  | simp [*])
                         clear_value x) | clear_value x)
    | (simp [*]; done)
    | intro _
    | split
    | rw [Mach.each_pageSt]
    | simp [*]

@[simp] theorem Mach.post_pageSt (j : Page) (q : Fin 256) (tag sqhd status dw2 dw3 : Nat) (m : Mach) : (Mach.post q tag sqhd status dw2 dw3 m).pageSt j = m.pageSt j := by
  unfold Mach.post
  try lift_lets
  repeat' first
    | (intro x; first | (have hx : x.pageSt j = m.pageSt j := by
                            simp only [x]
                            repeat' (first | (simp [*]; done) | intro _ | split   | simp [*])
                         clear_value x) | clear_value x)
    | (simp [*]; done)
    | intro _
    | split
    | simp [*]

@[simp] theorem Mach.markCovered_pageSt (j : Page) (ids : List Nat) (m : Mach) : (Mach.markCovered ids m).pageSt j = m.pageSt j := by
  unfold Mach.markCovered
  try lift_lets
  repeat' first
    | (intro x; first | (have hx : x.pageSt j = m.pageSt j := by
                            simp only [x]
                            repeat' (first | (simp [*]; done) | intro _ | split   | simp [*])
                         clear_value x) | clear_value x)
    | (simp [*]; done)
    | intro _
    | split
    | simp [*]

@[simp] theorem Mach.forgetReads_pageSt (j : Page) (s : Nat) (m : Mach) : (Mach.forgetReads s m).pageSt j = m.pageSt j := by
  unfold Mach.forgetReads
  repeat' first
    | (simp [*]; done)
    | intro _
    | split
    | simp [*]

@[simp] theorem Mach.complete_pageSt (j : Page) (s status dw2 dw3 : Nat) (m : Mach) : (Mach.complete s status dw2 dw3 m).pageSt j = m.pageSt j := by
  unfold Mach.complete
  try lift_lets
  repeat' first
    | (intro x; first | (have hx : x.pageSt j = m.pageSt j := by
                            simp only [x]
                            repeat' (first | (simp [*]; done) | intro _ | split   | simp [*])
                         clear_value x) | clear_value x)
    | (simp [*]; done)
    | intro _
    | split
    | simp [*]

@[simp] theorem Mach.settleRx_pageSt (j : Page) (m : Mach) : (Mach.settleRx m).pageSt j = m.pageSt j := by
  unfold Mach.settleRx
  try lift_lets
  repeat' first
    | (intro x; first | (have hx : x.pageSt j = m.pageSt j := by
                            simp only [x]
                            repeat' (first | (simp [*]; done) | intro _ | split | rw [Mach.each_pageSt]  | simp [*])
                         clear_value x) | clear_value x)
    | (simp [*]; done)
    | intro _
    | split
    | rw [Mach.each_pageSt]
    | simp [*]

@[simp] theorem Mach.settleCovers_pageSt (j : Page) (m : Mach) : (Mach.settleCovers m).pageSt j = m.pageSt j := by
  unfold Mach.settleCovers
  try lift_lets
  repeat' first
    | (intro x; first | (have hx : x.pageSt j = m.pageSt j := by
                            simp only [x]
                            repeat' (first | (simp [*]; done) | intro _ | split | rw [Mach.each_pageSt]  | simp [*])
                         clear_value x) | clear_value x)
    | (simp [*]; done)
    | intro _
    | split
    | rw [Mach.each_pageSt]
    | simp [*]

@[simp] theorem Mach.mapCovers_pageSt (j : Page) (f : Cover → Option Cover) (m : Mach) : (Mach.mapCovers f m).pageSt j = m.pageSt j := by
  unfold Mach.mapCovers
  try lift_lets
  repeat' first
    | (intro x; first | (have hx : x.pageSt j = m.pageSt j := by
                            simp only [x]
                            repeat' (first | (simp [*]; done) | intro _ | split | rw [Mach.each_pageSt]  | simp [*])
                         clear_value x) | clear_value x)
    | (simp [*]; done)
    | intro _
    | split
    | rw [Mach.each_pageSt]
    | simp [*]

@[simp] theorem Mach.ask_pageSt (j : Page) (b : HBody) (m : Mach) : (Mach.ask b m).1.pageSt j = m.pageSt j := by
  simp [Mach.ask]

@[simp] theorem Mach.askFor_pageSt (j : Page) (b : HBody) (root : Bool) (w : Waiter) (m : Mach) : (Mach.askFor b root w m).pageSt j = m.pageSt j := by
  simp [Mach.askFor]

@[simp] theorem Mach.askDefinition_pageSt (j : Page) (w : Waiter) (m : Mach) : (Mach.askDefinition w m).pageSt j = m.pageSt j := by
  simp [Mach.askDefinition]

@[simp] theorem Mach.raiseWindow_pageSt (j : Page) (m : Mach) : (Mach.raiseWindow m).pageSt j = m.pageSt j := by
  unfold Mach.raiseWindow
  try lift_lets
  repeat' first
    | (intro x; first
      | (have hx : x.pageSt j = m.pageSt j := (by
        simp only [x]
        repeat' (first | (simp [*]; done) | intro _ | split | rw [Mach.each_pageSt] | simp [*])); clear_value x)
      | (have hx : x.1.pageSt j = m.pageSt j := (by
        simp only [x]
        repeat' (first | (simp [*]; done) | intro _ | split | rw [Mach.each_pageSt] | simp [*])); clear_value x)
      | clear_value x)
    | (simp [*]; done)
    | intro _
    | split
    | (have h2 := congrArg (fun p => p.1.pageSt j) ‹_ = (_, _)›; simp at h2; simp [*]; done)
    | rw [Mach.each_pageSt]
    | simp [*]

@[simp] theorem Mach.markSeg_pageSt (j : Page) (s : Nat) (m : Mach) : (Mach.markSeg s m).pageSt j = m.pageSt j := by
  unfold Mach.markSeg
  try lift_lets
  repeat' first
    | (intro x; first | (have hx : x.pageSt j = m.pageSt j := by
                            simp only [x]
                            repeat' (first | (simp [*]; done) | intro _ | split   | simp [*])
                         clear_value x) | clear_value x)
    | (simp [*]; done)
    | intro _
    | split
    | simp [*]

@[simp] theorem Mach.markTable_pageSt (j : Page) (off : Nat) (m : Mach) : (Mach.markTable off m).pageSt j = m.pageSt j := by
  simp [Mach.markTable]

@[simp] theorem Mach.putFur_pageSt (j : Page) (f : Nat) (x : Fur) (m : Mach) : (Mach.putFur f x m).pageSt j = m.pageSt j := by
  simp [Mach.putFur]

@[simp] theorem Mach.putBlk_pageSt (j : Page) (d b : Nat) (x : Blk) (m : Mach) : (Mach.putBlk d b x m).pageSt j = m.pageSt j := by
  unfold Mach.putBlk
  try lift_lets
  repeat' first
    | (intro x; first
      | (have hx : x.pageSt j = m.pageSt j := (by
        simp only [x]
        repeat' (first | (simp [*]; done) | intro _ | split | rw [Mach.each_pageSt] | simp [*])); clear_value x)
      | (have hx : x.1.pageSt j = m.pageSt j := (by
        simp only [x]
        repeat' (first | (simp [*]; done) | intro _ | split | rw [Mach.each_pageSt] | simp [*])); clear_value x)
      | clear_value x)
    | (simp [*]; done)
    | intro _
    | split
    | (have h2 := congrArg (fun p => p.1.pageSt j) ‹_ = (_, _)›; simp at h2; simp [*]; done)
    | rw [Mach.each_pageSt]
    | simp [*]

@[simp] theorem Mach.putBad_pageSt (j : Page) (d : Nat) (x : BadTab) (m : Mach) : (Mach.putBad d x m).pageSt j = m.pageSt j := by
  unfold Mach.putBad
  try lift_lets
  repeat' first
    | (intro x; first
      | (have hx : x.pageSt j = m.pageSt j := (by
        simp only [x]
        repeat' (first | (simp [*]; done) | intro _ | split | rw [Mach.each_pageSt] | simp [*])); clear_value x)
      | (have hx : x.1.pageSt j = m.pageSt j := (by
        simp only [x]
        repeat' (first | (simp [*]; done) | intro _ | split | rw [Mach.each_pageSt] | simp [*])); clear_value x)
      | clear_value x)
    | (simp [*]; done)
    | intro _
    | split
    | (have h2 := congrArg (fun p => p.1.pageSt j) ‹_ = (_, _)›; simp at h2; simp [*]; done)
    | rw [Mach.each_pageSt]
    | simp [*]

@[simp] theorem Mach.senses_pageSt (j : Page) (d b n : Nat) (m : Mach) : (Mach.senses d b n m).pageSt j = m.pageSt j := by
  unfold Mach.senses
  try lift_lets
  repeat' first
    | (intro x; first
      | (have hx : x.pageSt j = m.pageSt j := (by
        simp only [x]
        repeat' (first | (simp [*]; done) | intro _ | split | rw [Mach.each_pageSt] | simp [*])); clear_value x)
      | (have hx : x.1.pageSt j = m.pageSt j := (by
        simp only [x]
        repeat' (first | (simp [*]; done) | intro _ | split | rw [Mach.each_pageSt] | simp [*])); clear_value x)
      | clear_value x)
    | (simp [*]; done)
    | intro _
    | split
    | (have h2 := congrArg (fun p => p.1.pageSt j) ‹_ = (_, _)›; simp at h2; simp [*]; done)
    | rw [Mach.each_pageSt]
    | simp [*]

@[simp] theorem Mach.enterExhausted_pageSt (j : Page) (m : Mach) : (Mach.enterExhausted m).pageSt j = m.pageSt j := by
  unfold Mach.enterExhausted
  repeat' first
    | (simp [*]; done)
    | intro _
    | split
    | rw [Mach.each_pageSt]
    | simp [*]

@[simp] theorem Mach.urgency_pageSt (j : Page) (m : Mach) : (Mach.urgency m).pageSt j = m.pageSt j := by
  unfold Mach.urgency
  try lift_lets
  repeat' first
    | (intro x; first | (have hx : x.pageSt j = m.pageSt j := by
                            simp only [x]
                            repeat' (first | (simp [*]; done) | intro _ | split   | simp [*])
                         clear_value x) | clear_value x)
    | (simp [*]; done)
    | intro _
    | split
    | simp [*]

@[simp] theorem Mach.endVictim_pageSt (j : Page) (f : Nat) (m : Mach) : (Mach.endVictim f m).pageSt j = m.pageSt j := by
  simp [Mach.endVictim]

@[simp] theorem Mach.releaseFur_pageSt (j : Page) (f : Nat) (m : Mach) : (Mach.releaseFur f m).pageSt j = m.pageSt j := by
  simp [Mach.releaseFur]

@[simp] theorem Mach.validUp_pageSt (j : Page) (f : Nat) (m : Mach) : (Mach.validUp f m).pageSt j = m.pageSt j := by
  simp [Mach.validUp]

@[simp] theorem Mach.validDown_pageSt (j : Page) (f : Nat) (m : Mach) : (Mach.validDown f m).pageSt j = m.pageSt j := by
  unfold Mach.validDown
  try lift_lets
  repeat' first
    | (intro x; first | (have hx : x.pageSt j = m.pageSt j := by
                            simp only [x]
                            repeat' (first | (simp [*]; done) | intro _ | split   | simp [*])
                         clear_value x) | clear_value x)
    | (simp [*]; done)
    | intro _
    | split
    | simp [*]

@[simp] theorem Mach.closeFur_pageSt (j : Page) (f : Nat) (m : Mach) : (Mach.closeFur f m).pageSt j = m.pageSt j := by
  unfold Mach.closeFur
  try lift_lets
  repeat' first
    | (intro x; first | (have hx : x.pageSt j = m.pageSt j := by
                            simp only [x]
                            repeat' (first | (simp [*]; done) | intro _ | split   | simp [*])
                         clear_value x) | clear_value x)
    | (simp [*]; done)
    | intro _
    | split
    | simp [*]

@[simp] theorem Mach.allReadOnly_pageSt (j : Page) (m : Mach) : (Mach.allReadOnly m).pageSt j = m.pageSt j := by
  unfold Mach.allReadOnly
  repeat' first
    | (simp [*]; done)
    | intro _
    | split
    | rw [Mach.each_pageSt]
    | simp [*]

@[simp] theorem Mach.spareUpdate_pageSt (j : Page) (m : Mach) : (Mach.spareUpdate m).pageSt j = m.pageSt j := by
  unfold Mach.spareUpdate
  try lift_lets
  repeat' first
    | (intro x; first | (have hx : x.pageSt j = m.pageSt j := by
                            simp only [x]
                            repeat' (first | (simp [*]; done) | intro _ | split   | simp [*])
                         clear_value x) | clear_value x)
    | (simp [*]; done)
    | intro _
    | split
    | simp [*]

@[simp] theorem Mach.retireFur_pageSt (j : Page) (f : Nat) (m : Mach) : (Mach.retireFur f m).pageSt j = m.pageSt j := by
  unfold Mach.retireFur
  repeat' first
    | (simp [*]; done)
    | intro _
    | split
    | simp [*]

@[simp] theorem Mach.growBad_pageSt (j : Page) (d b cause : Nat) (m : Mach) : (Mach.growBad d b cause m).pageSt j = m.pageSt j := by
  unfold Mach.growBad
  try lift_lets
  repeat' first
    | (intro x; first | (have hx : x.pageSt j = m.pageSt j := by
                            simp only [x]
                            repeat' (first | (simp [*]; done) | intro _ | split   | simp [*])
                         clear_value x) | clear_value x)
    | (simp [*]; done)
    | intro _
    | split
    | simp [*]

@[simp] theorem Mach.recordBad_pageSt (j : Page) (d b : Nat) (e : BadEnd) (m : Mach) : (Mach.recordBad d b e m).pageSt j = m.pageSt j := by
  unfold Mach.recordBad
  try lift_lets
  repeat' first
    | (intro x; first
      | (have hx : x.pageSt j = m.pageSt j := (by
        simp only [x]
        repeat' (first | (simp [*]; done) | intro _ | split | rw [Mach.each_pageSt] | simp [*])); clear_value x)
      | (have hx : x.1.pageSt j = m.pageSt j := (by
        simp only [x]
        repeat' (first | (simp [*]; done) | intro _ | split | rw [Mach.each_pageSt] | simp [*])); clear_value x)
      | clear_value x)
    | (simp [*]; done)
    | intro _
    | split
    | (have h2 := congrArg (fun p => p.1.pageSt j) ‹_ = (_, _)›; simp at h2; simp [*]; done)
    | rw [Mach.each_pageSt]
    | simp [*]

@[simp] theorem Mach.memberBad_pageSt (j : Page) (c : Chan) (f cause : Nat) (m : Mach) : (Mach.memberBad c f cause m).pageSt j = m.pageSt j := by
  unfold Mach.memberBad
  try lift_lets
  repeat' first
    | (intro x; first | (have hx : x.pageSt j = m.pageSt j := by
                            simp only [x]
                            repeat' (first | (simp [*]; done) | intro _ | split   | simp [*])
                         clear_value x) | clear_value x)
    | (simp [*]; done)
    | intro _
    | split
    | simp [*]

@[simp] theorem Mach.substitute_pageSt (j : Page) (f : Nat) (c : Chan) (m : Mach) : (Mach.substitute f c m).pageSt j = m.pageSt j := by
  unfold Mach.substitute
  try lift_lets
  repeat' first
    | (intro x; first | (have hx : x.pageSt j = m.pageSt j := by
                            simp only [x]
                            repeat' (first | (simp [*]; done) | intro _ | split   | simp [*])
                         clear_value x) | clear_value x)
    | (simp [*]; done)
    | intro _
    | split
    | simp [*]

@[simp] theorem Mach.makeFallow_pageSt (j : Page) (f : Nat) (m : Mach) : (Mach.makeFallow f m).pageSt j = m.pageSt j := by
  unfold Mach.makeFallow
  try lift_lets
  repeat' first
    | (intro x; first | (have hx : x.pageSt j = m.pageSt j := by
                            simp only [x]
                            repeat' (first | (simp [*]; done) | intro _ | split | rw [Mach.each_pageSt]  | simp [*])
                         clear_value x) | clear_value x)
    | (simp [*]; done)
    | intro _
    | split
    | rw [Mach.each_pageSt]
    | simp [*]

@[simp] theorem Mach.dropPoison_pageSt (j : Page) (p : Nat × Nat × Nat → Bool) (m : Mach) : (Mach.dropPoison p m).pageSt j = m.pageSt j := by
  simp [Mach.dropPoison]

@[simp] theorem Mach.frameCheck_pageSt (j : Page) (key : Nat) (m : Mach) : (Mach.frameCheck key m).pageSt j = m.pageSt j := by
  unfold Mach.frameCheck
  try lift_lets
  repeat' first
    | (intro x; first | (have hx : x.pageSt j = m.pageSt j := by
                            simp only [x]
                            repeat' (first | (simp [*]; done) | intro _ | split   | simp [*])
                         clear_value x) | clear_value x)
    | (simp [*]; done)
    | intro _
    | split
    | simp [*]

@[simp] theorem Mach.setLnt_pageSt (j : Page) (i : Nat) (x : LntEnt) (m : Mach) : (Mach.setLnt i x m).pageSt j = m.pageSt j := by
  simp [Mach.setLnt]

@[simp] theorem Mach.lntInstall_pageSt (j : Page) (key : Nat) (changed : Bool) (m : Mach) : (Mach.lntInstall key changed m).pageSt j = m.pageSt j := by
  unfold Mach.lntInstall
  try lift_lets
  repeat' first
    | (intro x; first
      | (have hx : x.pageSt j = m.pageSt j := (by
        simp only [x]
        repeat' (first | (simp [*]; done) | intro _ | split | rw [Mach.each_pageSt] | simp [*])); clear_value x)
      | (have hx : x.1.pageSt j = m.pageSt j := (by
        simp only [x]
        repeat' (first | (simp [*]; done) | intro _ | split | rw [Mach.each_pageSt] | simp [*])); clear_value x)
      | clear_value x)
    | (simp [*]; done)
    | intro _
    | split
    | (have h2 := congrArg (fun p => p.1.pageSt j) ‹_ = (_, _)›; simp at h2; simp [*]; done)
    | rw [Mach.each_pageSt]
    | simp [*]

@[simp] theorem Mach.lntUpdate_pageSt (j : Page) (key : Nat) (changed : Bool) (m : Mach) : (Mach.lntUpdate key changed m).pageSt j = m.pageSt j := by
  unfold Mach.lntUpdate
  repeat' first
    | (simp [*]; done)
    | intro _
    | split
    | simp [*]

@[simp] theorem Mach.putDesc_pageSt (j : Page) (key : Nat) (d : Desc) (m : Mach) : (Mach.putDesc key d m).pageSt j = m.pageSt j := by
  simp [Mach.putDesc]

@[simp] theorem Mach.pendlCheck_pageSt (j : Page) (key mu : Nat) (m : Mach) : (Mach.pendlCheck key mu m).pageSt j = m.pageSt j := by
  unfold Mach.pendlCheck
  repeat' first
    | (simp [*]; done)
    | intro _
    | split
    | simp [*]

@[simp] theorem Mach.pendlRange_pageSt (j : Page) (v : Vid) (slba n : Nat) (m : Mach) : (Mach.pendlRange v slba n m).pageSt j = m.pageSt j := by
  unfold Mach.pendlRange
  repeat' first
    | (simp [*]; done)
    | intro _
    | split
    | rw [Mach.each_pageSt]
    | simp [*]

@[simp] theorem Mach.pendlOf_pageSt (j : Page) (s off : Nat) (m : Mach) : (Mach.pendlOf s off m).pageSt j = m.pageSt j := by
  unfold Mach.pendlOf
  try lift_lets
  repeat' first
    | (intro x; first
      | (have hx : x.pageSt j = m.pageSt j := (by
        simp only [x]
        repeat' (first | (simp [*]; done) | intro _ | split | rw [Mach.each_pageSt] | simp [*])); clear_value x)
      | (have hx : x.1.pageSt j = m.pageSt j := (by
        simp only [x]
        repeat' (first | (simp [*]; done) | intro _ | split | rw [Mach.each_pageSt] | simp [*])); clear_value x)
      | clear_value x)
    | (simp [*]; done)
    | intro _
    | split
    | (have h2 := congrArg (fun p => p.1.pageSt j) ‹_ = (_, _)›; simp at h2; simp [*]; done)
    | rw [Mach.each_pageSt]
    | simp [*]

@[simp] theorem Mach.pendwCheck_pageSt (j : Page) (key mu : Nat) (m : Mach) : (Mach.pendwCheck key mu m).pageSt j = m.pageSt j := by
  unfold Mach.pendwCheck
  try lift_lets
  repeat' first
    | (intro x; first
      | (have hx : x.pageSt j = m.pageSt j := (by
        simp only [x]
        repeat' (first | (simp [*]; done) | intro _ | split | rw [Mach.each_pageSt] | simp [*])); clear_value x)
      | (have hx : x.1.pageSt j = m.pageSt j := (by
        simp only [x]
        repeat' (first | (simp [*]; done) | intro _ | split | rw [Mach.each_pageSt] | simp [*])); clear_value x)
      | clear_value x)
    | (simp [*]; done)
    | intro _
    | split
    | (have h2 := congrArg (fun p => p.1.pageSt j) ‹_ = (_, _)›; simp at h2; simp [*]; done)
    | rw [Mach.each_pageSt]
    | simp [*]

@[simp] theorem Mach.wbClear_pageSt (j : Page) (s k p : Nat) (m : Mach) : (Mach.wbClear s k p m).pageSt j = m.pageSt j := by
  unfold Mach.wbClear
  try lift_lets
  repeat' first
    | (intro x; first
      | (have hx : x.pageSt j = m.pageSt j := (by
        simp only [x]
        repeat' (first | (simp [*]; done) | intro _ | split | rw [Mach.each_pageSt] | simp [*])); clear_value x)
      | (have hx : x.1.pageSt j = m.pageSt j := (by
        simp only [x]
        repeat' (first | (simp [*]; done) | intro _ | split | rw [Mach.each_pageSt] | simp [*])); clear_value x)
      | clear_value x)
    | (simp [*]; done)
    | intro _
    | split
    | (have h2 := congrArg (fun p => p.1.pageSt j) ‹_ = (_, _)›; simp at h2; simp [*]; done)
    | rw [Mach.each_pageSt]
    | simp [*]

@[simp] theorem Mach.wbUndo_pageSt (j : Page) (s k p : Nat) (m : Mach) : (Mach.wbUndo s k p m).pageSt j = m.pageSt j := by
  unfold Mach.wbUndo
  try lift_lets
  repeat' first
    | (intro x; first
      | (have hx : x.pageSt j = m.pageSt j := (by
        simp only [x]
        repeat' (first | (simp [*]; done) | intro _ | split | rw [Mach.each_pageSt] | simp [*])); clear_value x)
      | (have hx : x.1.pageSt j = m.pageSt j := (by
        simp only [x]
        repeat' (first | (simp [*]; done) | intro _ | split | rw [Mach.each_pageSt] | simp [*])); clear_value x)
      | clear_value x)
    | (simp [*]; done)
    | intro _
    | split
    | (have h2 := congrArg (fun p => p.1.pageSt j) ‹_ = (_, _)›; simp at h2; simp [*]; done)
    | rw [Mach.each_pageSt]
    | simp [*]

@[simp] theorem Mach.wbAbandon_pageSt (j : Page) (s : Nat) (m : Mach) : (Mach.wbAbandon s m).pageSt j = m.pageSt j := by
  unfold Mach.wbAbandon
  try lift_lets
  repeat' first
    | (intro x; first
      | (have hx : x.pageSt j = m.pageSt j := (by
        simp only [x]
        repeat' (first | (simp [*]; done) | intro _ | split | rw [Mach.each_pageSt] | simp [*])); clear_value x)
      | (have hx : x.1.pageSt j = m.pageSt j := (by
        simp only [x]
        repeat' (first | (simp [*]; done) | intro _ | split | rw [Mach.each_pageSt] | simp [*])); clear_value x)
      | clear_value x)
    | (simp [*]; done)
    | intro _
    | split
    | (have h2 := congrArg (fun p => p.1.pageSt j) ‹_ = (_, _)›; simp at h2; simp [*]; done)
    | rw [Mach.each_pageSt]
    | simp [*]

@[simp] theorem Mach.cutWith_pageSt (j : Page) (s status dw2 dw3 : Nat) (m : Mach) : (Mach.cutWith s status dw2 dw3 m).pageSt j = m.pageSt j := by
  unfold Mach.cutWith
  try lift_lets
  repeat' first
    | (intro x; first
      | (have hx : x.pageSt j = m.pageSt j := (by
        simp only [x]
        repeat' (first | (simp [*]; done) | intro _ | split | rw [Mach.each_pageSt] | simp [*])); clear_value x)
      | (have hx : x.1.pageSt j = m.pageSt j := (by
        simp only [x]
        repeat' (first | (simp [*]; done) | intro _ | split | rw [Mach.each_pageSt] | simp [*])); clear_value x)
      | clear_value x)
    | (simp [*]; done)
    | intro _
    | split
    | (have h2 := congrArg (fun p => p.1.pageSt j) ‹_ = (_, _)›; simp at h2; simp [*]; done)
    | rw [Mach.each_pageSt]
    | simp [*]

@[simp] theorem Mach.cutShort_pageSt (j : Page) (s status : Nat) (m : Mach) : (Mach.cutShort s status m).pageSt j = m.pageSt j := by
  unfold Mach.cutShort
  try lift_lets
  repeat' first
    | (intro x; first | (have hx : x.pageSt j = m.pageSt j := by
                            simp only [x]
                            repeat' (first | (simp [*]; done) | intro _ | split   | simp [*])
                         clear_value x) | clear_value x)
    | (simp [*]; done)
    | intro _
    | split
    | simp [*]

@[simp] theorem Mach.health_pageSt (j : Page) (f : Health → Health) (m : Mach) : (Mach.health f m).pageSt j = m.pageSt j := by
  simp [Mach.health]

@[simp] theorem Mach.queueOp_pageSt (j : Page) (c : Chan) (row : Row) (r : Req) (k : OpKind) (m : Mach) : (Mach.queueOp c row r k m).pageSt j = m.pageSt j := by
  unfold Mach.queueOp
  repeat' first
    | (simp [*]; done)
    | intro _
    | split
    | simp [*]

@[simp] theorem Mach.setTask_pageSt (j : Page) (t : RdTask) (m : Mach) : (Mach.setTask t m).pageSt j = m.pageSt j := by
  simp [Mach.setTask]

@[simp] theorem Mach.dropTask_pageSt (j : Page) (id : Nat) (m : Mach) : (Mach.dropTask id m).pageSt j = m.pageSt j := by
  unfold Mach.dropTask
  try lift_lets
  repeat' first
    | (intro x; first
      | (have hx : x.pageSt j = m.pageSt j := (by
        simp only [x]
        repeat' (first | (simp [*]; done) | intro _ | split | rw [Mach.each_pageSt] | simp [*])); clear_value x)
      | (have hx : x.1.pageSt j = m.pageSt j := (by
        simp only [x]
        repeat' (first | (simp [*]; done) | intro _ | split | rw [Mach.each_pageSt] | simp [*])); clear_value x)
      | clear_value x)
    | (simp [*]; done)
    | intro _
    | split
    | (have h2 := congrArg (fun p => p.1.pageSt j) ‹_ = (_, _)›; simp at h2; simp [*]; done)
    | rw [Mach.each_pageSt]
    | simp [*]

@[simp] theorem Mach.readPeer_pageSt (j : Page) (t : RdTask) (p : Peer) (m : Mach) : (Mach.readPeer t p m).pageSt j = m.pageSt j := by
  unfold Mach.readPeer
  try lift_lets
  repeat' first
    | (intro x; first
      | (have hx : x.pageSt j = m.pageSt j := (by
        simp only [x]
        repeat' (first | (simp [*]; done) | intro _ | split | rw [Mach.each_pageSt] | simp [*])); clear_value x)
      | (have hx : x.1.pageSt j = m.pageSt j := (by
        simp only [x]
        repeat' (first | (simp [*]; done) | intro _ | split | rw [Mach.each_pageSt] | simp [*])); clear_value x)
      | clear_value x)
    | (simp [*]; done)
    | intro _
    | split
    | (have h2 := congrArg (fun p => p.1.pageSt j) ‹_ = (_, _)›; simp at h2; simp [*]; done)
    | rw [Mach.each_pageSt]
    | simp [*]

@[simp] theorem Mach.beginStage4_pageSt (j : Page) (t : RdTask) (m : Mach) : (Mach.beginStage4 t m).pageSt j = m.pageSt j := by
  unfold Mach.beginStage4
  try lift_lets
  repeat' first
    | (intro x; first
      | (have hx : x.pageSt j = m.pageSt j := (by
        simp only [x]
        repeat' (first | (simp [*]; done) | intro _ | split | rw [Mach.each_pageSt] | simp [*])); clear_value x)
      | (have hx : x.1.pageSt j = m.pageSt j := (by
        simp only [x]
        repeat' (first | (simp [*]; done) | intro _ | split | rw [Mach.each_pageSt] | simp [*])); clear_value x)
      | clear_value x)
    | (simp [*]; done)
    | intro _
    | split
    | (have h2 := congrArg (fun p => p.1.pageSt j) ‹_ = (_, _)›; simp at h2; simp [*]; done)
    | rw [Mach.each_pageSt]
    | simp [*]

@[simp] theorem Mach.peerEnded_pageSt (j : Page) (task : Nat) (r : PeerRole) (b : Option Body) (m : Mach) : (Mach.peerEnded task r b m).pageSt j = m.pageSt j := by
  unfold Mach.peerEnded
  try lift_lets
  repeat' first
    | (intro x; first
      | (have hx : x.pageSt j = m.pageSt j := (by
        simp only [x]
        repeat' (first | (simp [*]; done) | intro _ | split | rw [Mach.each_pageSt] | simp [*])); clear_value x)
      | (have hx : x.1.pageSt j = m.pageSt j := (by
        simp only [x]
        repeat' (first | (simp [*]; done) | intro _ | split | rw [Mach.each_pageSt] | simp [*])); clear_value x)
      | clear_value x)
    | (simp [*]; done)
    | intro _
    | split
    | (have h2 := congrArg (fun p => p.1.pageSt j) ‹_ = (_, _)›; simp at h2; simp [*]; done)
    | rw [Mach.each_pageSt]
    | simp [*]

@[simp] theorem Mach.escalate_pageSt (j : Page) (t : RdTask) (m : Mach) : (Mach.escalate t m).pageSt j = m.pageSt j := by
  unfold Mach.escalate
  try lift_lets
  repeat' first
    | (intro x; first
      | (have hx : x.pageSt j = m.pageSt j := (by
        simp only [x]
        repeat' (first | (simp [*]; done) | intro _ | split | rw [Mach.each_pageSt] | simp [*])); clear_value x)
      | (have hx : x.1.pageSt j = m.pageSt j := (by
        simp only [x]
        repeat' (first | (simp [*]; done) | intro _ | split | rw [Mach.each_pageSt] | simp [*])); clear_value x)
      | clear_value x)
    | (simp [*]; done)
    | intro _
    | split
    | (have h2 := congrArg (fun p => p.1.pageSt j) ‹_ = (_, _)›; simp at h2; simp [*]; done)
    | rw [Mach.each_pageSt]
    | simp [*]

@[simp] theorem Mach.startRead_pageSt (j : Page) (a : BitVec 40) (v : Vid) (lba : Nat) (r : Req) (w : RdFor) (m : Mach) : (Mach.startRead a v lba r w m).pageSt j = m.pageSt j := by
  unfold Mach.startRead
  try lift_lets
  repeat' first
    | (intro x; first
      | (have hx : x.pageSt j = m.pageSt j := (by
        simp only [x]
        repeat' (first | (simp [*]; done) | intro _ | split | rw [Mach.each_pageSt] | simp [*])); clear_value x)
      | (have hx : x.1.pageSt j = m.pageSt j := (by
        simp only [x]
        repeat' (first | (simp [*]; done) | intro _ | split | rw [Mach.each_pageSt] | simp [*])); clear_value x)
      | clear_value x)
    | (simp [*]; done)
    | intro _
    | split
    | (have h2 := congrArg (fun p => p.1.pageSt j) ‹_ = (_, _)›; simp at h2; simp [*]; done)
    | rw [Mach.each_pageSt]
    | simp [*]

@[simp] theorem Mach.recoverSegment_pageSt (j : Page) (i : Nat) (m : Mach) : (Mach.recoverSegment i m).pageSt j = m.pageSt j := by
  unfold Mach.recoverSegment
  try lift_lets
  repeat' first
    | (intro x; first
      | (have hx : x.pageSt j = m.pageSt j := (by
        simp only [x]
        repeat' (first | (simp [*]; done) | intro _ | split | rw [Mach.each_pageSt] | simp [*])); clear_value x)
      | (have hx : x.1.pageSt j = m.pageSt j := (by
        simp only [x]
        repeat' (first | (simp [*]; done) | intro _ | split | rw [Mach.each_pageSt] | simp [*])); clear_value x)
      | clear_value x)
    | (simp [*]; done)
    | intro _
    | split
    | (have h2 := congrArg (fun p => p.1.pageSt j) ‹_ = (_, _)›; simp at h2; simp [*]; done)
    | rw [Mach.each_pageSt]
    | simp [*]

@[simp] theorem Mach.badEntry_pageSt (j : Page) (v : Vid) (lba : Nat) (m : Mach) : (Mach.badEntry v lba m).pageSt j = m.pageSt j := by
  unfold Mach.badEntry
  try lift_lets
  repeat' first
    | (intro x; first
      | (have hx : x.pageSt j = m.pageSt j := (by
        simp only [x]
        repeat' (first | (simp [*]; done) | intro _ | split | rw [Mach.each_pageSt] | simp [*])); clear_value x)
      | (have hx : x.1.pageSt j = m.pageSt j := (by
        simp only [x]
        repeat' (first | (simp [*]; done) | intro _ | split | rw [Mach.each_pageSt] | simp [*])); clear_value x)
      | clear_value x)
    | (simp [*]; done)
    | intro _
    | split
    | (have h2 := congrArg (fun p => p.1.pageSt j) ‹_ = (_, _)›; simp at h2; simp [*]; done)
    | rw [Mach.each_pageSt]
    | simp [*]

@[simp] theorem Mach.observeBuf_pageSt (j : Page) (m : Mach) : (Mach.observeBuf m).pageSt j = m.pageSt j := by
  simp [Mach.observeBuf]

@[simp] theorem Mach.setVer_pageSt (j : Page) (x : Ver) (m : Mach) : (Mach.setVer x m).pageSt j = m.pageSt j := by
  simp [Mach.setVer]

@[simp] theorem Mach.dropVers_pageSt (j : Page) (ids : List Nat) (m : Mach) : (Mach.dropVers ids m).pageSt j = m.pageSt j := by
  unfold Mach.dropVers
  try lift_lets
  repeat' first
    | (intro x; first
      | (have hx : x.pageSt j = m.pageSt j := (by
        simp only [x]
        repeat' (first | (simp [*]; done) | intro _ | split | rw [Mach.each_pageSt] | simp [*])); clear_value x)
      | (have hx : x.1.pageSt j = m.pageSt j := (by
        simp only [x]
        repeat' (first | (simp [*]; done) | intro _ | split | rw [Mach.each_pageSt] | simp [*])); clear_value x)
      | clear_value x)
    | (simp [*]; done)
    | intro _
    | split
    | (have h2 := congrArg (fun p => p.1.pageSt j) ‹_ = (_, _)›; simp at h2; simp [*]; done)
    | rw [Mach.each_pageSt]
    | simp [*]

@[simp] theorem Mach.dropVer_pageSt (j : Page) (id : Nat) (m : Mach) : (Mach.dropVer id m).pageSt j = m.pageSt j := by
  simp [Mach.dropVer]

@[simp] theorem Mach.failCovers_pageSt (j : Page) (id : Nat) (m : Mach) : (Mach.failCovers id m).pageSt j = m.pageSt j := by
  unfold Mach.failCovers
  try lift_lets
  repeat' first
    | (intro x; first | (have hx : x.pageSt j = m.pageSt j := by
                            simp only [x]
                            repeat' (first | (simp [*]; done) | intro _ | split | rw [Mach.each_pageSt]  | simp [*])
                         clear_value x) | clear_value x)
    | (simp [*]; done)
    | intro _
    | split
    | rw [Mach.each_pageSt]
    | simp [*]

@[simp] theorem Mach.supersedeHeld_pageSt (j : Page) (x : Ver) (m : Mach) : (Mach.supersedeHeld x m).pageSt j = m.pageSt j := by
  unfold Mach.supersedeHeld
  try lift_lets
  repeat' first
    | (intro x; first
      | (have hx : x.pageSt j = m.pageSt j := (by
        simp only [x]
        repeat' (first | (simp [*]; done) | intro _ | split | rw [Mach.each_pageSt] | simp [*])); clear_value x)
      | (have hx : x.1.pageSt j = m.pageSt j := (by
        simp only [x]
        repeat' (first | (simp [*]; done) | intro _ | split | rw [Mach.each_pageSt] | simp [*])); clear_value x)
      | clear_value x)
    | (simp [*]; done)
    | intro _
    | split
    | (have h2 := congrArg (fun p => p.1.pageSt j) ‹_ = (_, _)›; simp at h2; simp [*]; done)
    | rw [Mach.each_pageSt]
    | simp [*]

@[simp] theorem Mach.finishVer_pageSt (j : Page) (id : Nat) (m : Mach) : (Mach.finishVer id m).pageSt j = m.pageSt j := by
  unfold Mach.finishVer
  try lift_lets
  repeat' first
    | (intro x; first
      | (have hx : x.pageSt j = m.pageSt j := (by
        simp only [x]
        repeat' (first | (simp [*]; done) | intro _ | split | rw [Mach.each_pageSt] | simp [*])); clear_value x)
      | (have hx : x.1.pageSt j = m.pageSt j := (by
        simp only [x]
        repeat' (first | (simp [*]; done) | intro _ | split | rw [Mach.each_pageSt] | simp [*])); clear_value x)
      | clear_value x)
    | (simp [*]; done)
    | intro _
    | split
    | (have h2 := congrArg (fun p => p.1.pageSt j) ‹_ = (_, _)›; simp at h2; simp [*]; done)
    | rw [Mach.each_pageSt]
    | simp [*]

@[simp] theorem Mach.fillLb_pageSt (j : Page) (id lb : Nat) (m : Mach) : (Mach.fillLb id lb m).pageSt j = m.pageSt j := by
  unfold Mach.fillLb
  dsimp only
  split
  · rfl
  · split
    · rfl
    · split
      · split <;> simp
      · generalize m.mapSrc _ _ = r
        cases r <;> simp

@[simp] theorem Mach.seal_pageSt (j : Page) (id : Nat) (m : Mach) : (Mach.seal id m).pageSt j = m.pageSt j := by
  unfold Mach.seal
  try lift_lets
  repeat' first
    | (intro x; first
      | (have hx : x.pageSt j = m.pageSt j := (by
        simp only [x]
        repeat' (first | (simp [*]; done) | intro _ | split | rw [Mach.each_pageSt] | simp [*])); clear_value x)
      | (have hx : x.1.pageSt j = m.pageSt j := (by
        simp only [x]
        repeat' (first | (simp [*]; done) | intro _ | split | rw [Mach.each_pageSt] | simp [*])); clear_value x)
      | clear_value x)
    | (simp [*]; done)
    | intro _
    | split
    | (have h2 := congrArg (fun p => p.1.pageSt j) ‹_ = (_, _)›; simp at h2; simp [*]; done)
    | rw [Mach.each_pageSt]
    | simp [*]

@[simp] theorem Mach.discardVers_pageSt (j : Page) (l : List Ver) (m : Mach) : (Mach.discardVers l m).pageSt j = m.pageSt j := by
  unfold Mach.discardVers
  try lift_lets
  repeat' first
    | (intro x; first
      | (have hx : x.pageSt j = m.pageSt j := (by
        simp only [x]
        repeat' (first | (simp [*]; done) | intro _ | split | rw [Mach.each_pageSt] | simp [*])); clear_value x)
      | (have hx : x.1.pageSt j = m.pageSt j := (by
        simp only [x]
        repeat' (first | (simp [*]; done) | intro _ | split | rw [Mach.each_pageSt] | simp [*])); clear_value x)
      | clear_value x)
    | (simp [*]; done)
    | intro _
    | split
    | (have h2 := congrArg (fun p => p.1.pageSt j) ‹_ = (_, _)›; simp at h2; simp [*]; done)
    | rw [Mach.each_pageSt]
    | simp [*]

@[simp] theorem Mach.discardHeld_pageSt (j : Page) (m : Mach) : (Mach.discardHeld m).pageSt j = m.pageSt j := by
  unfold Mach.discardHeld
  try lift_lets
  repeat' first
    | (intro x; first
      | (have hx : x.pageSt j = m.pageSt j := (by
        simp only [x]
        repeat' (first | (simp [*]; done) | intro _ | split | rw [Mach.each_pageSt] | simp [*])); clear_value x)
      | (have hx : x.1.pageSt j = m.pageSt j := (by
        simp only [x]
        repeat' (first | (simp [*]; done) | intro _ | split | rw [Mach.each_pageSt] | simp [*])); clear_value x)
      | clear_value x)
    | (simp [*]; done)
    | intro _
    | split
    | (have h2 := congrArg (fun p => p.1.pageSt j) ‹_ = (_, _)›; simp at h2; simp [*]; done)
    | rw [Mach.each_pageSt]
    | simp [*]

@[simp] theorem Mach.setEntry_pageSt (j : Page) (i : Nat) (e : BitVec 40) (m : Mach) : (Mach.setEntry i e m).pageSt j = m.pageSt j := by
  unfold Mach.setEntry
  try lift_lets
  repeat' first
    | (intro x; first | (have hx : x.pageSt j = m.pageSt j := by
                            simp only [x]
                            repeat' (first | (simp [*]; done) | intro _ | split | rw [Mach.each_pageSt]  | simp [*])
                         clear_value x) | clear_value x)
    | (simp [*]; done)
    | intro _
    | split
    | rw [Mach.each_pageSt]
    | simp [*]

@[simp] theorem Mach.installAt_pageSt (j : Page) (i wsn : Nat) (e : BitVec 40) (ver : Option Nat) (m : Mach) : (Mach.installAt i wsn e ver m).pageSt j = m.pageSt j := by
  unfold Mach.installAt
  try lift_lets
  repeat' first
    | (intro x; first
      | (have hx : x.pageSt j = m.pageSt j := (by
        simp only [x]
        repeat' (first | (simp [*]; done) | intro _ | split | rw [Mach.each_pageSt] | simp [*])); clear_value x)
      | (have hx : x.1.pageSt j = m.pageSt j := (by
        simp only [x]
        repeat' (first | (simp [*]; done) | intro _ | split | rw [Mach.each_pageSt] | simp [*])); clear_value x)
      | clear_value x)
    | (simp [*]; done)
    | intro _
    | split
    | (have h2 := congrArg (fun p => p.1.pageSt j) ‹_ = (_, _)›; simp at h2; simp [*]; done)
    | rw [Mach.each_pageSt]
    | simp [*]

@[simp] theorem Mach.install_pageSt (j : Page) (v : Vid) (mu wsn : Nat) (e : BitVec 40) (ver : Option Nat) (m : Mach) : (Mach.install v mu wsn e ver m).pageSt j = m.pageSt j := by
  unfold Mach.install
  try lift_lets
  repeat' first
    | (intro x; first
      | (have hx : x.pageSt j = m.pageSt j := (by
        simp only [x]
        repeat' (first | (simp [*]; done) | intro _ | split | rw [Mach.each_pageSt] | simp [*])); clear_value x)
      | (have hx : x.1.pageSt j = m.pageSt j := (by
        simp only [x]
        repeat' (first | (simp [*]; done) | intro _ | split | rw [Mach.each_pageSt] | simp [*])); clear_value x)
      | clear_value x)
    | (simp [*]; done)
    | intro _
    | split
    | (have h2 := congrArg (fun p => p.1.pageSt j) ‹_ = (_, _)›; simp at h2; simp [*]; done)
    | rw [Mach.each_pageSt]
    | simp [*]

@[simp] theorem Mach.unstage_pageSt (j : Page) (which : Copy → Bool) (m : Mach) : (Mach.unstage which m).pageSt j = m.pageSt j := by
  unfold Mach.unstage
  try lift_lets
  repeat' first
    | (intro x; first
      | (have hx : x.pageSt j = m.pageSt j := (by
        simp only [x]
        repeat' (first | (simp [*]; done) | intro _ | split | rw [Mach.each_pageSt] | simp [*])); clear_value x)
      | (have hx : x.1.pageSt j = m.pageSt j := (by
        simp only [x]
        repeat' (first | (simp [*]; done) | intro _ | split | rw [Mach.each_pageSt] | simp [*])); clear_value x)
      | clear_value x)
    | (simp [*]; done)
    | intro _
    | split
    | (have h2 := congrArg (fun p => p.1.pageSt j) ‹_ = (_, _)›; simp at h2; simp [*]; done)
    | rw [Mach.each_pageSt]
    | simp [*]

@[simp] theorem Mach.askProvpar_pageSt (j : Page) (fsn page : Nat) (m : Mach) : (Mach.askProvpar fsn page m).pageSt j = m.pageSt j := by
  unfold Mach.askProvpar
  try lift_lets
  repeat' first
    | (intro x; first | (have hx : x.pageSt j = m.pageSt j := by
                            simp only [x]
                            repeat' (first | (simp [*]; done) | intro _ | split   | simp [*])
                         clear_value x) | clear_value x)
    | (simp [*]; done)
    | intro _
    | split
    | simp [*]

@[simp] theorem Mach.stripeSafe_pageSt (j : Page) (fsn page : Nat) (mask : Word) (m : Mach) : (Mach.stripeSafe fsn page mask m).pageSt j = m.pageSt j := by
  unfold Mach.stripeSafe
  try lift_lets
  repeat' first
    | (intro x; first | (have hx : x.pageSt j = m.pageSt j := by
                            simp only [x]
                            repeat' (first | (simp [*]; done) | intro _ | split   | simp [*])
                         clear_value x) | clear_value x)
    | (simp [*]; done)
    | intro _
    | split
    | simp [*]

@[simp] theorem Mach.sendLb_pageSt (j : Page) (c : Cmd) (off : Nat) (d : Block) (m : Mach) : (Mach.sendLb c off d m).pageSt j = m.pageSt j := by
  unfold Mach.sendLb
  split
  · rfl
  · rename_i p _
    have h : ∀ (r : Bool) (l : List (Nat × Nat)) (a : Mach × Nat), (l.foldl (fun (a : Mach × Nat) x =>
        (a.1.send (.hostData p x.1 x.2 (d >>> (8 * a.2)) r), a.2 + x.2)) a).1.pageSt j = a.1.pageSt j := by
      intro r l
      induction l with
      | nil => intro a; rfl
      | cons b l ih => intro a; rw [List.foldl_cons, ih]; simp
    rw [h]

@[simp] theorem Mach.readDone_pageSt (j : Page) (s : Nat) (m : Mach) : (Mach.readDone s m).pageSt j = m.pageSt j := by
  unfold Mach.readDone
  try lift_lets
  repeat' first
    | (intro x; first | (have hx : x.pageSt j = m.pageSt j := by
                            simp only [x]
                            repeat' (first | (simp [*]; done) | intro _ | split   | simp [*])
                         clear_value x) | clear_value x)
    | (simp [*]; done)
    | intro _
    | split
    | simp [*]

@[simp] theorem Mach.readLb_pageSt (j : Page) (s off status : Nat) (d : Block) (rebuilt : Bool) (m : Mach) : (Mach.readLb s off status d rebuilt m).pageSt j = m.pageSt j := by
  unfold Mach.readLb
  try lift_lets
  repeat' first
    | (intro x; first | (have hx : x.pageSt j = m.pageSt j := by
                            simp only [x]
                            repeat' (first | (simp [*]; done) | intro _ | split   | simp [*])
                         clear_value x) | clear_value x)
    | (simp [*]; done)
    | intro _
    | split
    | simp [*]

@[simp] theorem Mach.lightDone_pageSt (j : Page) (s : Nat) (m : Mach) : (Mach.lightDone s m).pageSt j = m.pageSt j := by
  unfold Mach.lightDone
  try lift_lets
  repeat' first
    | (intro x; first | (have hx : x.pageSt j = m.pageSt j := by
                            simp only [x]
                            repeat' (first | (simp [*]; done) | intro _ | split | rw [Mach.each_pageSt]  | simp [*])
                         clear_value x) | clear_value x)
    | (simp [*]; done)
    | intro _
    | split
    | rw [Mach.each_pageSt]
    | simp [*]

@[simp] theorem Mach.lightFail_pageSt (j : Page) (s off status : Nat) (m : Mach) : (Mach.lightFail s off status m).pageSt j = m.pageSt j := by
  simp [Mach.lightFail]

@[simp] theorem Mach.addFill_pageSt (j : Page) (task s off : Nat) (d : Block) (m : Mach) : (Mach.addFill task s off d m).pageSt j = m.pageSt j := by
  simp [Mach.addFill]

@[simp] theorem Mach.setRs_pageSt (j : Page) (v : Vid) (x : Resync) (m : Mach) : (Mach.setRs v x m).pageSt j = m.pageSt j := by
  simp [Mach.setRs]

@[simp] theorem Mach.pieceLb_pageSt (j : Page) (s off status : Nat) (d : Block) (m : Mach) : (Mach.pieceLb s off status d m).pageSt j = m.pageSt j := by
  unfold Mach.pieceLb
  try lift_lets
  repeat' first
    | (intro x; first | (have hx : x.pageSt j = m.pageSt j := by
                            simp only [x]
                            repeat' (first | (simp [*]; done) | intro _ | split   | simp [*])
                         clear_value x) | clear_value x)
    | (simp [*]; done)
    | intro _
    | split
    | simp [*]

@[simp] theorem Mach.sendRun_pageSt (j : Page) (v : Vid) (slba : Nat) (data : SMap Block) (run : Nat × Nat) (m : Mach) :
    (Mach.sendRun v slba data run m).pageSt j = m.pageSt j := by
  unfold Mach.sendRun
  dsimp only
  rw [Mach.each_pageSt]
  · simp
  · intro k m; simp

@[simp] theorem Mach.sendHole_pageSt (j : Page) (v : Vid) (slba mu : Nat) (m : Mach) : (Mach.sendHole v slba mu m).pageSt j = m.pageSt j := by
  simp [Mach.sendHole]

@[simp] theorem Mach.pieceSend_pageSt (j : Page) (s : Nat) (m : Mach) : (Mach.pieceSend s m).pageSt j = m.pageSt j := by
  unfold Mach.pieceSend
  try lift_lets
  repeat' first
    | (intro x; first | (have hx : x.pageSt j = m.pageSt j := by
                            simp only [x]
                            repeat' (first | (simp [*]; done) | intro _ | split | rw [Mach.each_pageSt]  | simp [*])
                         clear_value x) | clear_value x)
    | (simp [*]; done)
    | intro _
    | split
    | rw [Mach.each_pageSt]
    | simp [*]

@[simp] theorem Mach.pieceDone_pageSt (j : Page) (s : Nat) (m : Mach) : (Mach.pieceDone s m).pageSt j = m.pageSt j := by
  unfold Mach.pieceDone
  try lift_lets
  repeat' first
    | (intro x; first | (have hx : x.pageSt j = m.pageSt j := by
                            simp only [x]
                            repeat' (first | (simp [*]; done) | intro _ | split   | simp [*])
                         clear_value x) | clear_value x)
    | (simp [*]; done)
    | intro _
    | split
    | simp [*]

@[simp] theorem Mach.rmwLb_pageSt (j : Page) (id lb status : Nat) (d : Block) (m : Mach) : (Mach.rmwLb id lb status d m).pageSt j = m.pageSt j := by
  unfold Mach.rmwLb
  try lift_lets
  repeat' first
    | (intro x; first | (have hx : x.pageSt j = m.pageSt j := by
                            simp only [x]
                            repeat' (first | (simp [*]; done) | intro _ | split   | simp [*])
                         clear_value x) | clear_value x)
    | (simp [*]; done)
    | intro _
    | split
    | simp [*]

@[simp] theorem Mach.deliver_pageSt (j : Page) (task status : Nat) (d : Block) (rebuilt : Bool) (w : RdFor) (m : Mach) : (Mach.deliver task status d rebuilt w m).pageSt j = m.pageSt j := by
  unfold Mach.deliver
  repeat' first
    | (simp [*]; done)
    | intro _
    | split
    | simp [*]

@[simp] theorem Mach.readEnds_pageSt (j : Page) (a : BitVec 40) (status stage n : Nat) (m : Mach) : (Mach.readEnds a status stage n m).pageSt j = m.pageSt j := by
  unfold Mach.readEnds
  try lift_lets
  repeat' first
    | (intro x; first
      | (have hx : x.pageSt j = m.pageSt j := (by
        simp only [x]
        repeat' (first | (simp [*]; done) | intro _ | split | rw [Mach.each_pageSt] | simp [*])); clear_value x)
      | (have hx : x.1.pageSt j = m.pageSt j := (by
        simp only [x]
        repeat' (first | (simp [*]; done) | intro _ | split | rw [Mach.each_pageSt] | simp [*])); clear_value x)
      | clear_value x)
    | (simp [*]; done)
    | intro _
    | split
    | (have h2 := congrArg (fun p => p.1.pageSt j) ‹_ = (_, _)›; simp at h2; simp [*]; done)
    | rw [Mach.each_pageSt]
    | simp [*]

@[simp] theorem Mach.endTask_pageSt (j : Page) (t : RdTask) (status : Nat) (m : Mach) : (Mach.endTask t status m).pageSt j = m.pageSt j := by
  unfold Mach.endTask
  try lift_lets
  repeat' first
    | (intro x; first | (have hx : x.pageSt j = m.pageSt j := by
                            simp only [x]
                            repeat' (first | (simp [*]; done) | intro _ | split | rw [Mach.each_pageSt]  | simp [*])
                         clear_value x) | clear_value x)
    | (simp [*]; done)
    | intro _
    | split
    | rw [Mach.each_pageSt]
    | simp [*]

@[simp] theorem Mach.flagRefresh_pageSt (j : Page) (f : Nat) (m : Mach) : (Mach.flagRefresh f m).pageSt j = m.pageSt j := by
  unfold Mach.flagRefresh
  try lift_lets
  repeat' first
    | (intro x; first | (have hx : x.pageSt j = m.pageSt j := by
                            simp only [x]
                            repeat' (first | (simp [*]; done) | intro _ | split   | simp [*])
                         clear_value x) | clear_value x)
    | (simp [*]; done)
    | intro _
    | split
    | simp [*]

@[simp] theorem Mach.stage4Fails_pageSt (j : Page) (t : RdTask) (m : Mach) : (Mach.stage4Fails t m).pageSt j = m.pageSt j := by
  simp [Mach.stage4Fails]

@[simp] theorem Mach.decrypted_pageSt (j : Page) (enc : Bool) (m : Mach) : (Mach.decrypted enc m).pageSt j = m.pageSt j := by
  unfold Mach.decrypted
  try lift_lets
  repeat' first
    | (intro x; first
      | (have hx : x.pageSt j = m.pageSt j := (by
        simp only [x]
        repeat' (first | (simp [*]; done) | intro _ | split | rw [Mach.each_pageSt] | simp [*])); clear_value x)
      | (have hx : x.1.pageSt j = m.pageSt j := (by
        simp only [x]
        repeat' (first | (simp [*]; done) | intro _ | split | rw [Mach.each_pageSt] | simp [*])); clear_value x)
      | clear_value x)
    | (simp [*]; done)
    | intro _
    | split
    | (have h2 := congrArg (fun p => p.1.pageSt j) ‹_ = (_, _)›; simp at h2; simp [*]; done)
    | rw [Mach.each_pageSt]
    | simp [*]

@[simp] theorem Mach.checkCw_pageSt (j : Page) (t : RdTask) (k : CwCheck) (m : Mach) : (Mach.checkCw t k m).pageSt j = m.pageSt j := by
  unfold Mach.checkCw
  try lift_lets
  repeat' first
    | (intro x; first | (have hx : x.pageSt j = m.pageSt j := by
                            simp only [x]
                            repeat' (first | (simp [*]; done) | intro _ | split   | simp [*])
                         clear_value x) | clear_value x)
    | (simp [*]; done)
    | intro _
    | split
    | simp [*]

@[simp] theorem Mach.checkPeer_pageSt (j : Page) (t : RdTask) (task : Nat) (r : PeerRole) (k : CwCheck) (m : Mach) : (Mach.checkPeer t task r k m).pageSt j = m.pageSt j := by
  unfold Mach.checkPeer
  try lift_lets
  repeat' first
    | (intro x; first
      | (have hx : x.pageSt j = m.pageSt j := (by
        simp only [x]
        repeat' (first | (simp [*]; done) | intro _ | split | rw [Mach.each_pageSt] | simp [*])); clear_value x)
      | (have hx : x.1.pageSt j = m.pageSt j := (by
        simp only [x]
        repeat' (first | (simp [*]; done) | intro _ | split | rw [Mach.each_pageSt] | simp [*])); clear_value x)
      | clear_value x)
    | (simp [*]; done)
    | intro _
    | split
    | (have h2 := congrArg (fun p => p.1.pageSt j) ‹_ = (_, _)›; simp at h2; simp [*]; done)
    | rw [Mach.each_pageSt]
    | simp [*]

@[simp] theorem Mach.decoded_pageSt (j : Page) (t : RdTask) (k : CwCheck) (m : Mach) : (Mach.decoded t k m).pageSt j = m.pageSt j := by
  unfold Mach.decoded
  try lift_lets
  repeat' first
    | (intro x; first
      | (have hx : x.pageSt j = m.pageSt j := (by
        simp only [x]
        repeat' (first | (simp [*]; done) | intro _ | split | rw [Mach.each_pageSt] | simp [*])); clear_value x)
      | (have hx : x.1.pageSt j = m.pageSt j := (by
        simp only [x]
        repeat' (first | (simp [*]; done) | intro _ | split | rw [Mach.each_pageSt] | simp [*])); clear_value x)
      | clear_value x)
    | (simp [*]; done)
    | intro _
    | split
    | (have h2 := congrArg (fun p => p.1.pageSt j) ‹_ = (_, _)›; simp at h2; simp [*]; done)
    | rw [Mach.each_pageSt]
    | simp [*]

@[simp] theorem Mach.hardCounts_pageSt (j : Page) (a : BitVec 40) (d : HardDecode) (m : Mach) : (Mach.hardCounts a d m).pageSt j = m.pageSt j := by
  unfold Mach.hardCounts
  try lift_lets
  repeat' first
    | (intro x; first
      | (have hx : x.pageSt j = m.pageSt j := (by
        simp only [x]
        repeat' (first | (simp [*]; done) | intro _ | split | rw [Mach.each_pageSt] | simp [*])); clear_value x)
      | (have hx : x.1.pageSt j = m.pageSt j := (by
        simp only [x]
        repeat' (first | (simp [*]; done) | intro _ | split | rw [Mach.each_pageSt] | simp [*])); clear_value x)
      | clear_value x)
    | (simp [*]; done)
    | intro _
    | split
    | (have h2 := congrArg (fun p => p.1.pageSt j) ‹_ = (_, _)›; simp at h2; simp [*]; done)
    | rw [Mach.each_pageSt]
    | simp [*]

@[simp] theorem Mach.beginSoft_pageSt (j : Page) (t : RdTask) (m : Mach) : (Mach.beginSoft t m).pageSt j = m.pageSt j := by
  unfold Mach.beginSoft
  try lift_lets
  repeat' first
    | (intro x; first
      | (have hx : x.pageSt j = m.pageSt j := (by
        simp only [x]
        repeat' (first | (simp [*]; done) | intro _ | split | rw [Mach.each_pageSt] | simp [*])); clear_value x)
      | (have hx : x.1.pageSt j = m.pageSt j := (by
        simp only [x]
        repeat' (first | (simp [*]; done) | intro _ | split | rw [Mach.each_pageSt] | simp [*])); clear_value x)
      | clear_value x)
    | (simp [*]; done)
    | intro _
    | split
    | (have h2 := congrArg (fun p => p.1.pageSt j) ‹_ = (_, _)›; simp at h2; simp [*]; done)
    | rw [Mach.each_pageSt]
    | simp [*]

@[simp] theorem Mach.hardDone_pageSt (j : Page) (t : RdTask) (d : HardDecode) (k : CwCheck) (m : Mach) : (Mach.hardDone t d k m).pageSt j = m.pageSt j := by
  unfold Mach.hardDone
  try lift_lets
  repeat' first
    | (intro x; first | (have hx : x.pageSt j = m.pageSt j := by
                            simp only [x]
                            repeat' (first | (simp [*]; done) | intro _ | split   | simp [*])
                         clear_value x) | clear_value x)
    | (simp [*]; done)
    | intro _
    | split
    | simp [*]

@[simp] theorem Mach.hardFailed_pageSt (j : Page) (t : RdTask) (m : Mach) : (Mach.hardFailed t m).pageSt j = m.pageSt j := by
  simp [Mach.hardFailed]

@[simp] theorem Mach.memEnd_pageSt (j : Page) (p : Port) (m : Mach) : (Mach.memEnd p m).pageSt j = m.pageSt j := by
  unfold Mach.memEnd
  try lift_lets
  repeat' first
    | (intro x; first
      | (have hx : x.pageSt j = m.pageSt j := (by
        simp only [x]
        repeat' (first | (simp [*]; done) | intro _ | split | rw [Mach.each_pageSt] | simp [*])); clear_value x)
      | (have hx : x.1.pageSt j = m.pageSt j := (by
        simp only [x]
        repeat' (first | (simp [*]; done) | intro _ | split | rw [Mach.each_pageSt] | simp [*])); clear_value x)
      | clear_value x)
    | (simp [*]; done)
    | intro _
    | split
    | (have h2 := congrArg (fun p => p.1.pageSt j) ‹_ = (_, _)›; simp at h2; simp [*]; done)
    | rw [Mach.each_pageSt]
    | simp [*]

@[simp] theorem Mach.poisonOut_pageSt (j : Page) (p : Port) (m : Mach) : (Mach.poisonOut p m).pageSt j = m.pageSt j := by
  unfold Mach.poisonOut
  try lift_lets
  repeat' first
    | (intro x; first
      | (have hx : x.pageSt j = m.pageSt j := (by
        simp only [x]
        repeat' (first | (simp [*]; done) | intro _ | split | rw [Mach.each_pageSt] | simp [*])); clear_value x)
      | (have hx : x.1.pageSt j = m.pageSt j := (by
        simp only [x]
        repeat' (first | (simp [*]; done) | intro _ | split | rw [Mach.each_pageSt] | simp [*])); clear_value x)
      | clear_value x)
    | (simp [*]; done)
    | intro _
    | split
    | (have h2 := congrArg (fun p => p.1.pageSt j) ‹_ = (_, _)›; simp at h2; simp [*]; done)
    | rw [Mach.each_pageSt]
    | simp [*]

@[simp] theorem Mach.writeAck_pageSt (j : Page) (p : Port) (m : Mach) : (Mach.writeAck p m).pageSt j = m.pageSt j := by
  unfold Mach.writeAck
  try lift_lets
  repeat' first
    | (intro x; first
      | (have hx : x.pageSt j = m.pageSt j := (by
        simp only [x]
        repeat' (first | (simp [*]; done) | intro _ | split | rw [Mach.each_pageSt] | simp [*])); clear_value x)
      | (have hx : x.1.pageSt j = m.pageSt j := (by
        simp only [x]
        repeat' (first | (simp [*]; done) | intro _ | split | rw [Mach.each_pageSt] | simp [*])); clear_value x)
      | clear_value x)
    | (simp [*]; done)
    | intro _
    | split
    | (have h2 := congrArg (fun p => p.1.pageSt j) ‹_ = (_, _)›; simp at h2; simp [*]; done)
    | rw [Mach.each_pageSt]
    | simp [*]

@[simp] theorem Mach.writeDone_pageSt (j : Page) (p : Port) (mute : Bool) (m : Mach) : (Mach.writeDone p mute m).pageSt j = m.pageSt j := by
  unfold Mach.writeDone
  try lift_lets
  repeat' first
    | (intro x; first
      | (have hx : x.pageSt j = m.pageSt j := (by
        simp only [x]
        repeat' (first | (simp [*]; done) | intro _ | split | rw [Mach.each_pageSt] | simp [*])); clear_value x)
      | (have hx : x.1.pageSt j = m.pageSt j := (by
        simp only [x]
        repeat' (first | (simp [*]; done) | intro _ | split | rw [Mach.each_pageSt] | simp [*])); clear_value x)
      | clear_value x)
    | (simp [*]; done)
    | intro _
    | split
    | (have h2 := congrArg (fun p => p.1.pageSt j) ‹_ = (_, _)›; simp at h2; simp [*]; done)
    | rw [Mach.each_pageSt]
    | simp [*]

@[simp] theorem Mach.memMiss_pageSt (j : Page) (r : LampReq) (m : Mach) : (Mach.memMiss r m).pageSt j = m.pageSt j := by
  unfold Mach.memMiss
  try lift_lets
  repeat' first
    | (intro x; first
      | (have hx : x.pageSt j = m.pageSt j := (by
        simp only [x]
        repeat' (first | (simp [*]; done) | intro _ | split | rw [Mach.each_pageSt] | simp [*])); clear_value x)
      | (have hx : x.1.pageSt j = m.pageSt j := (by
        simp only [x]
        repeat' (first | (simp [*]; done) | intro _ | split | rw [Mach.each_pageSt] | simp [*])); clear_value x)
      | clear_value x)
    | (simp [*]; done)
    | intro _
    | split
    | (have h2 := congrArg (fun p => p.1.pageSt j) ‹_ = (_, _)›; simp at h2; simp [*]; done)
    | rw [Mach.each_pageSt]
    | simp [*]

@[simp] theorem Mach.muteReqs_pageSt (j : Page) (p : Port) (m : Mach) : (Mach.muteReqs p m).pageSt j = m.pageSt j := by
  unfold Mach.muteReqs
  try lift_lets
  repeat' first
    | (intro x; first
      | (have hx : x.pageSt j = m.pageSt j := (by
        simp only [x]
        repeat' (first | (simp [*]; done) | intro _ | split | rw [Mach.each_pageSt] | simp [*])); clear_value x)
      | (have hx : x.1.pageSt j = m.pageSt j := (by
        simp only [x]
        repeat' (first | (simp [*]; done) | intro _ | split | rw [Mach.each_pageSt] | simp [*])); clear_value x)
      | clear_value x)
    | (simp [*]; done)
    | intro _
    | split
    | (have h2 := congrArg (fun p => p.1.pageSt j) ‹_ = (_, _)›; simp at h2; simp [*]; done)
    | rw [Mach.each_pageSt]
    | simp [*]

@[simp] theorem Mach.setDev_pageSt (j : Page) (st : DevSt) (m : Mach) : (Mach.setDev st m).pageSt j = m.pageSt j := by
  unfold Mach.setDev
  try lift_lets
  repeat' first
    | (intro x; first
      | (have hx : x.pageSt j = m.pageSt j := (by
        simp only [x]
        repeat' (first | (simp [*]; done) | intro _ | split | rw [Mach.each_pageSt] | simp [*])); clear_value x)
      | (have hx : x.1.pageSt j = m.pageSt j := (by
        simp only [x]
        repeat' (first | (simp [*]; done) | intro _ | split | rw [Mach.each_pageSt] | simp [*])); clear_value x)
      | clear_value x)
    | (simp [*]; done)
    | intro _
    | split
    | (have h2 := congrArg (fun p => p.1.pageSt j) ‹_ = (_, _)›; simp at h2; simp [*]; done)
    | rw [Mach.each_pageSt]
    | simp [*]

@[simp] theorem Mach.settleDev_pageSt (j : Page) (m : Mach) : (Mach.settleDev m).pageSt j = m.pageSt j := by
  unfold Mach.settleDev
  repeat' first
    | (simp [*]; done)
    | intro _
    | split
    | simp [*]

@[simp] theorem Mach.failCommands_pageSt (j : Page) (m : Mach) : (Mach.failCommands m).pageSt j = m.pageSt j := by
  unfold Mach.failCommands
  try lift_lets
  repeat' first
    | (intro x; first | (have hx : x.pageSt j = m.pageSt j := by
                            simp only [x]
                            repeat' (first | (simp [*]; done) | intro _ | split | rw [Mach.each_pageSt]  | simp [*])
                         clear_value x) | clear_value x)
    | (simp [*]; done)
    | intro _
    | split
    | rw [Mach.each_pageSt]
    | simp [*]

@[simp] theorem Mach.dropHeld_pageSt (j : Page) (m : Mach) : (Mach.dropHeld m).pageSt j = m.pageSt j := by
  unfold Mach.dropHeld
  try lift_lets
  repeat' first
    | (intro x; first
      | (have hx : x.pageSt j = m.pageSt j := (by
        simp only [x]
        repeat' (first | (simp [*]; done) | intro _ | split | rw [Mach.each_pageSt] | simp [*])); clear_value x)
      | (have hx : x.1.pageSt j = m.pageSt j := (by
        simp only [x]
        repeat' (first | (simp [*]; done) | intro _ | split | rw [Mach.each_pageSt] | simp [*])); clear_value x)
      | clear_value x)
    | (simp [*]; done)
    | intro _
    | split
    | (have h2 := congrArg (fun p => p.1.pageSt j) ‹_ = (_, _)›; simp at h2; simp [*]; done)
    | rw [Mach.each_pageSt]
    | simp [*]

@[simp] theorem Mach.fail_pageSt (j : Page) (cause : Nat) (m : Mach) : (Mach.fail cause m).pageSt j = m.pageSt j := by
  unfold Mach.fail
  try lift_lets
  repeat' first
    | (intro x; first
      | (have hx : x.pageSt j = m.pageSt j := (by
        simp only [x]
        repeat' (first | (simp [*]; done) | intro _ | split | rw [Mach.each_pageSt] | simp [*])); clear_value x)
      | (have hx : x.1.pageSt j = m.pageSt j := (by
        simp only [x]
        repeat' (first | (simp [*]; done) | intro _ | split | rw [Mach.each_pageSt] | simp [*])); clear_value x)
      | clear_value x)
    | (simp [*]; done)
    | intro _
    | split
    | (have h2 := congrArg (fun p => p.1.pageSt j) ‹_ = (_, _)›; simp at h2; simp [*]; done)
    | rw [Mach.each_pageSt]
    | simp [*]

@[simp] theorem Mach.chanCheck_pageSt (j : Page) (m : Mach) : (Mach.chanCheck m).pageSt j = m.pageSt j := by
  unfold Mach.chanCheck
  repeat' first
    | (simp [*]; done)
    | intro _
    | split
    | simp [*]

@[simp] theorem Mach.answer_pageSt (j : Page) (p : Port) (status : Nat) (badLen bg : Bool) (payload : List Byte) (m : Mach) : (Mach.answer p status badLen bg payload m).pageSt j = m.pageSt j := by
  simp [Mach.answer]

@[simp] theorem Mach.ok_pageSt (j : Page) (p : Port) (payload : List Byte) (m : Mach) : (Mach.ok p payload m).pageSt j = m.pageSt j := by
  simp [Mach.ok]

@[simp] theorem Mach.refuse_pageSt (j : Page) (p : Port) (status : Nat) (m : Mach) : (Mach.refuse p status m).pageSt j = m.pageSt j := by
  simp [Mach.refuse]

@[simp] theorem Mach.startBg_pageSt (j : Page) (p : Port) (op : BgOp) (opcode : Nat) (f : Mach → Mach) (m : Mach)
    (h : ∀ m : Mach, (f m).pageSt j = m.pageSt j) : (Mach.startBg p op opcode f m).pageSt j = m.pageSt j := by
  unfold Mach.startBg
  split
  · simp
  · dsimp only; rw [h]; simp

@[simp] theorem Mach.orphanEnd_pageSt (j : Page) (opcode status : Nat) (m : Mach) : (Mach.orphanEnd opcode status m).pageSt j = m.pageSt j := by
  unfold Mach.orphanEnd
  try lift_lets
  repeat' first
    | (intro x; first
      | (have hx : x.pageSt j = m.pageSt j := (by
        simp only [x]
        repeat' (first | (simp [*]; done) | intro _ | split | rw [Mach.each_pageSt] | simp [*])); clear_value x)
      | (have hx : x.1.pageSt j = m.pageSt j := (by
        simp only [x]
        repeat' (first | (simp [*]; done) | intro _ | split | rw [Mach.each_pageSt] | simp [*])); clear_value x)
      | clear_value x)
    | (simp [*]; done)
    | intro _
    | split
    | (have h2 := congrArg (fun p => p.1.pageSt j) ‹_ = (_, _)›; simp at h2; simp [*]; done)
    | rw [Mach.each_pageSt]
    | simp [*]

@[simp] theorem Mach.endBg_pageSt (j : Page) (status : Nat) (m : Mach) : (Mach.endBg status m).pageSt j = m.pageSt j := by
  unfold Mach.endBg
  try lift_lets
  repeat' first
    | (intro x; first | (have hx : x.pageSt j = m.pageSt j := by
                            simp only [x]
                            repeat' (first | (simp [*]; done) | intro _ | split   | simp [*])
                         clear_value x) | clear_value x)
    | (simp [*]; done)
    | intro _
    | split
    | simp [*]

@[simp] theorem Mach.dropMailbox_pageSt (j : Page) (p : Port) (m : Mach) : (Mach.dropMailbox p m).pageSt j = m.pageSt j := by
  unfold Mach.dropMailbox
  try lift_lets
  repeat' first
    | (intro x; first
      | (have hx : x.pageSt j = m.pageSt j := (by
        simp only [x]
        repeat' (first | (simp [*]; done) | intro _ | split | rw [Mach.each_pageSt] | simp [*])); clear_value x)
      | (have hx : x.1.pageSt j = m.pageSt j := (by
        simp only [x]
        repeat' (first | (simp [*]; done) | intro _ | split | rw [Mach.each_pageSt] | simp [*])); clear_value x)
      | clear_value x)
    | (simp [*]; done)
    | intro _
    | split
    | (have h2 := congrArg (fun p => p.1.pageSt j) ‹_ = (_, _)›; simp at h2; simp [*]; done)
    | rw [Mach.each_pageSt]
    | simp [*]

@[simp] theorem Mach.takeFsn_pageSt (j : Page) (m : Mach) : (Mach.takeFsn m).1.pageSt j = m.pageSt j := by
  simp [Mach.takeFsn]

@[simp] theorem Mach.queuePage_pageSt (j : Page) (pos : Fin 8) (o : OpenF) (c : Chan) (items : List PlaneItem) (cws : List Cw) (parity : Bool) (m : Mach) : (Mach.queuePage pos o c items cws parity m).pageSt j = m.pageSt j := by
  unfold Mach.queuePage
  try lift_lets
  repeat' first
    | (intro x; first | (have hx : x.pageSt j = m.pageSt j := by
                            simp only [x]
                            repeat' (first | (simp [*]; done) | intro _ | split   | simp [*])
                         clear_value x) | clear_value x)
    | (simp [*]; done)
    | intro _
    | split
    | simp [*]

@[simp] theorem Mach.closeAt_pageSt (j : Page) (pos : Fin 8) (m : Mach) : (Mach.closeAt pos m).pageSt j = m.pageSt j := by
  unfold Mach.closeAt
  repeat' first
    | (simp [*]; done)
    | intro _
    | split
    | simp [*]

@[simp] theorem Mach.closePartial_pageSt (j : Page) (pos : Fin 8) (m : Mach) : (Mach.closePartial pos m).pageSt j = m.pageSt j := by
  unfold Mach.closePartial
  try lift_lets
  repeat' first
    | (intro x; first
      | (have hx : x.pageSt j = m.pageSt j := (by
        simp only [x]
        repeat' (first | (simp [*]; done) | intro _ | split | rw [Mach.each_pageSt] | simp [*])); clear_value x)
      | (have hx : x.1.pageSt j = m.pageSt j := (by
        simp only [x]
        repeat' (first | (simp [*]; done) | intro _ | split | rw [Mach.each_pageSt] | simp [*])); clear_value x)
      | clear_value x)
    | (simp [*]; done)
    | intro _
    | split
    | (have h2 := congrArg (fun p => p.1.pageSt j) ‹_ = (_, _)›; simp at h2; simp [*]; done)
    | rw [Mach.each_pageSt]
    | simp [*]

@[simp] theorem Mach.stripeEnd_pageSt (j : Page) (pos : Fin 8) (o : OpenF) (m : Mach) : (Mach.stripeEnd pos o m).pageSt j = m.pageSt j := by
  unfold Mach.stripeEnd
  try lift_lets
  repeat' first
    | (intro x; first | (have hx : x.pageSt j = m.pageSt j := by
                            simp only [x]
                            repeat' (first | (simp [*]; done) | intro _ | split   | simp [*])
                         clear_value x) | clear_value x)
    | (simp [*]; done)
    | intro _
    | split
    | simp [*]

@[simp] theorem Mach.stripeStep_pageSt (j : Page) (pos : Fin 8) (m : Mach) : (Mach.stripeStep pos m).pageSt j = m.pageSt j := by
  unfold Mach.stripeStep
  try lift_lets
  repeat' first
    | (intro x; first | (have hx : x.pageSt j = m.pageSt j := by
                            simp only [x]
                            repeat' (first | (simp [*]; done) | intro _ | split | rw [Mach.each_pageSt]  | simp [*])
                         clear_value x) | clear_value x)
    | (simp [*]; done)
    | intro _
    | split
    | rw [Mach.each_pageSt]
    | simp [*]

@[simp] theorem Mach.parityEnded_pageSt (j : Page) (pg : PagePgm) (bad : Bool) (m : Mach) : (Mach.parityEnded pg bad m).pageSt j = m.pageSt j := by
  unfold Mach.parityEnded
  try lift_lets
  repeat' first
    | (intro x; first | (have hx : x.pageSt j = m.pageSt j := by
                            simp only [x]
                            repeat' (first | (simp [*]; done) | intro _ | split   | simp [*])
                         clear_value x) | clear_value x)
    | (simp [*]; done)
    | intro _
    | split
    | simp [*]

@[simp] theorem Mach.putCws_pageSt (j : Page) (a : BitVec 40) (cws : List Cw) (m : Mach) : (Mach.putCws a cws m).pageSt j = m.pageSt j := by
  simp [Mach.putCws]

@[simp] theorem Mach.placeVersion_pageSt (j : Page) (id : Nat) (a : BitVec 40) (m : Mach) : (Mach.placeVersion id a m).pageSt j = m.pageSt j := by
  unfold Mach.placeVersion
  repeat' first
    | (simp [*]; done)
    | intro _
    | split
    | simp [*]

@[simp] theorem Mach.casCopy_pageSt (j : Page) (i : Nat) (src a : BitVec 40) (m : Mach) : (Mach.casCopy i src a m).pageSt j = m.pageSt j := by
  unfold Mach.casCopy
  repeat' first
    | (simp [*]; done)
    | intro _
    | split
    | simp [*]

@[simp] theorem Mach.placeCopy_pageSt (j : Page) (id : Nat) (a : BitVec 40) (m : Mach) : (Mach.placeCopy id a m).pageSt j = m.pageSt j := by
  unfold Mach.placeCopy
  try lift_lets
  repeat' first
    | (intro x; first | (have hx : x.pageSt j = m.pageSt j := by
                            simp only [x]
                            repeat' (first | (simp [*]; done) | intro _ | split   | simp [*])
                         clear_value x) | clear_value x)
    | (simp [*]; done)
    | intro _
    | split
    | simp [*]

@[simp] theorem Mach.confirmCovers_pageSt (j : Page) (id fsn page : Nat) (ch : Chan) (m : Mach) : (Mach.confirmCovers id fsn page ch m).pageSt j = m.pageSt j := by
  unfold Mach.confirmCovers
  try lift_lets
  repeat' first
    | (intro x; first | (have hx : x.pageSt j = m.pageSt j := by
                            simp only [x]
                            repeat' (first | (simp [*]; done) | intro _ | split   | simp [*])
                         clear_value x) | clear_value x)
    | (simp [*]; done)
    | intro _
    | split
    | simp [*]

@[simp] theorem Mach.storePage_pageSt (j : Page) (pg : PagePgm) (m : Mach) : (Mach.storePage pg m).pageSt j = m.pageSt j := by
  unfold Mach.storePage
  try lift_lets
  repeat' first
    | (intro x; first
      | (have hx : x.pageSt j = m.pageSt j := (by
        simp only [x]
        repeat' (first | (simp [*]; done) | intro _ | split | rw [Mach.each_pageSt] | simp [*])); clear_value x)
      | (have hx : x.1.pageSt j = m.pageSt j := (by
        simp only [x]
        repeat' (first | (simp [*]; done) | intro _ | split | rw [Mach.each_pageSt] | simp [*])); clear_value x)
      | clear_value x)
    | (simp [*]; done)
    | intro _
    | split
    | (have h2 := congrArg (fun p => p.1.pageSt j) ‹_ = (_, _)›; simp at h2; simp [*]; done)
    | rw [Mach.each_pageSt]
    | simp [*]

@[simp] theorem Mach.pageConfirmed_pageSt (j : Page) (pg : PagePgm) (m : Mach) : (Mach.pageConfirmed pg m).pageSt j = m.pageSt j := by
  unfold Mach.pageConfirmed
  try lift_lets
  repeat' first
    | (intro x; first | (have hx : x.pageSt j = m.pageSt j := by
                            simp only [x]
                            repeat' (first | (simp [*]; done) | intro _ | split | rw [Mach.each_pageSt]  | simp [*])
                         clear_value x) | clear_value x)
    | (simp [*]; done)
    | intro _
    | split
    | rw [Mach.each_pageSt]
    | simp [*]

@[simp] theorem Mach.itemsBack_pageSt (j : Page) (items : List PlaneItem) (m : Mach) : (Mach.itemsBack items m).pageSt j = m.pageSt j := by
  unfold Mach.itemsBack
  repeat' first
    | (simp [*]; done)
    | intro _
    | split
    | rw [Mach.each_pageSt]
    | simp [*]

@[simp] theorem Mach.pageFailed_pageSt (j : Page) (pg : PagePgm) (cause : Option Nat) (m : Mach) : (Mach.pageFailed pg cause m).pageSt j = m.pageSt j := by
  unfold Mach.pageFailed
  try lift_lets
  repeat' first
    | (intro x; first | (have hx : x.pageSt j = m.pageSt j := by
                            simp only [x]
                            repeat' (first | (simp [*]; done) | intro _ | split | rw [Mach.each_pageSt]  | simp [*])
                         clear_value x) | clear_value x)
    | (simp [*]; done)
    | intro _
    | split
    | rw [Mach.each_pageSt]
    | simp [*]

@[simp] theorem Mach.casPoison_pageSt (j : Page) (i : Nat) (src : BitVec 40) (v : Vid) (mu wsn : Nat) (m : Mach) : (Mach.casPoison i src v mu wsn m).pageSt j = m.pageSt j := by
  unfold Mach.casPoison
  try lift_lets
  repeat' first
    | (intro x; first | (have hx : x.pageSt j = m.pageSt j := by
                            simp only [x]
                            repeat' (first | (simp [*]; done) | intro _ | split   | simp [*])
                         clear_value x) | clear_value x)
    | (simp [*]; done)
    | intro _
    | split
    | simp [*]

@[simp] theorem Mach.setVictim_pageSt (j : Page) (low : Bool) (v : Option Victim) (m : Mach) : (Mach.setVictim low v m).pageSt j = m.pageSt j := by
  unfold Mach.setVictim
  try lift_lets
  repeat' first
    | (intro x; first
      | (have hx : x.pageSt j = m.pageSt j := (by
        simp only [x]
        repeat' (first | (simp [*]; done) | intro _ | split | rw [Mach.each_pageSt] | simp [*])); clear_value x)
      | (have hx : x.1.pageSt j = m.pageSt j := (by
        simp only [x]
        repeat' (first | (simp [*]; done) | intro _ | split | rw [Mach.each_pageSt] | simp [*])); clear_value x)
      | clear_value x)
    | (simp [*]; done)
    | intro _
    | split
    | (have h2 := congrArg (fun p => p.1.pageSt j) ‹_ = (_, _)›; simp at h2; simp [*]; done)
    | rw [Mach.each_pageSt]
    | simp [*]

@[simp] theorem Mach.advance_pageSt (j : Page) (low : Bool) (v : Victim) (m : Mach) : (Mach.advance low v m).pageSt j = m.pageSt j := by
  unfold Mach.advance
  try lift_lets
  repeat' first
    | (intro x; first
      | (have hx : x.pageSt j = m.pageSt j := (by
        simp only [x]
        repeat' (first | (simp [*]; done) | intro _ | split | rw [Mach.each_pageSt] | simp [*])); clear_value x)
      | (have hx : x.1.pageSt j = m.pageSt j := (by
        simp only [x]
        repeat' (first | (simp [*]; done) | intro _ | split | rw [Mach.each_pageSt] | simp [*])); clear_value x)
      | clear_value x)
    | (simp [*]; done)
    | intro _
    | split
    | (have h2 := congrArg (fun p => p.1.pageSt j) ‹_ = (_, _)›; simp at h2; simp [*]; done)
    | rw [Mach.each_pageSt]
    | simp [*]

@[simp] theorem Mach.stageCopy_pageSt (j : Page) (v : Victim) (a : BitVec 40) (id : Cw) (l : List (Nat × Option Block)) (m : Mach) : (Mach.stageCopy v a id l m).pageSt j = m.pageSt j := by
  unfold Mach.stageCopy
  try lift_lets
  repeat' first
    | (intro x; first
      | (have hx : x.pageSt j = m.pageSt j := (by
        simp only [x]
        repeat' (first | (simp [*]; done) | intro _ | split | rw [Mach.each_pageSt] | simp [*])); clear_value x)
      | (have hx : x.1.pageSt j = m.pageSt j := (by
        simp only [x]
        repeat' (first | (simp [*]; done) | intro _ | split | rw [Mach.each_pageSt] | simp [*])); clear_value x)
      | clear_value x)
    | (simp [*]; done)
    | intro _
    | split
    | (have h2 := congrArg (fun p => p.1.pageSt j) ‹_ = (_, _)›; simp at h2; simp [*]; done)
    | rw [Mach.each_pageSt]
    | simp [*]

@[simp] theorem Mach.poisonMu_pageSt (j : Page) (i : Nat) (a : BitVec 40) (id : Cw) (l : List (Nat × Option Block)) (m : Mach) : (Mach.poisonMu i a id l m).pageSt j = m.pageSt j := by
  unfold Mach.poisonMu
  try lift_lets
  repeat' first
    | (intro x; first
      | (have hx : x.pageSt j = m.pageSt j := (by
        simp only [x]
        repeat' (first | (simp [*]; done) | intro _ | split | rw [Mach.each_pageSt] | simp [*])); clear_value x)
      | (have hx : x.1.pageSt j = m.pageSt j := (by
        simp only [x]
        repeat' (first | (simp [*]; done) | intro _ | split | rw [Mach.each_pageSt] | simp [*])); clear_value x)
      | clear_value x)
    | (simp [*]; done)
    | intro _
    | split
    | (have h2 := congrArg (fun p => p.1.pageSt j) ‹_ = (_, _)›; simp at h2; simp [*]; done)
    | rw [Mach.each_pageSt]
    | simp [*]

@[simp] theorem Mach.residual_pageSt (j : Page) (low : Bool) (m : Mach) : (Mach.residual low m).pageSt j = m.pageSt j := by
  unfold Mach.residual
  try lift_lets
  repeat' first
    | (intro x; first | (have hx : x.pageSt j = m.pageSt j := by
                            simp only [x]
                            repeat' (first | (simp [*]; done) | intro _ | split | rw [Mach.each_pageSt]  | simp [*])
                         clear_value x) | clear_value x)
    | (simp [*]; done)
    | intro _
    | split
    | rw [Mach.each_pageSt]
    | simp [*]

@[simp] theorem Mach.wipeBlock_pageSt (j : Page) (d b : Nat) (m : Mach) : (Mach.wipeBlock d b m).pageSt j = m.pageSt j := by
  simp [Mach.wipeBlock]

@[simp] theorem Mach.setHfur_pageSt (j : Page) (k : Nat) (x : HFur) (m : Mach) : (Mach.setHfur k x m).pageSt j = m.pageSt j := by
  simp [Mach.setHfur]

theorem Mach.hdlOpen_pageSt (j : Page) {m u : Mach} (h : m.hdlOpen = some u) : u.pageSt j = m.pageSt j := by
  unfold Mach.hdlOpen at h
  cases hn : m.hdlNext with
  | none => simp [hn] at h
  | some k =>
    simp only [hn, Option.map_some, Option.some.injEq] at h
    subst h
    split <;> simp

@[simp] theorem Mach.hdlClose_pageSt (j : Page) (m : Mach) : (Mach.hdlClose m).pageSt j = m.pageSt j := by
  unfold Mach.hdlClose
  repeat' first
    | (simp [*]; done)
    | intro _
    | split
    | simp [*]

theorem Mach.hdlRoom_pageSt (j : Page) (fuel n : Nat) {m : Mach} {r : Mach × List Nat} (h : m.hdlRoom fuel n = some r) : r.1.pageSt j = m.pageSt j := by
  induction fuel generalizing n m r with
  | zero => simp [Mach.hdlRoom] at h
  | succ f ih =>
    unfold Mach.hdlRoom at h
    split at h
    · split at h
      · cases h
      · rename_i u hu
        rw [ih _ h, Mach.hdlOpen_pageSt j hu]
    · dsimp only at h
      split at h
      · cases h; simp
      · split at h
        · rw [ih _ h]; simp
        · simp only [Option.map_eq_some_iff] at h
          obtain ⟨a, ha, rfl⟩ := h
          dsimp only
          rw [ih _ ha]; simp

theorem Mach.append_pageSt (j : Page) (id : Nat) (b : HBody) {m u : Mach} (h : m.append id b = some u) : u.pageSt j = m.pageSt j := by
  unfold Mach.append at h
  simp only [Option.map_eq_some_iff] at h
  obtain ⟨r, hr, rfl⟩ := h
  rw [Mach.queueOp_pageSt]
  simp [Mach.hdlRoom_pageSt j _ _ hr]

@[simp] theorem Mach.replaceRec_pageSt (j : Page) (r : HRec) (m : Mach) : (Mach.replaceRec r m).pageSt j = m.pageSt j := by
  unfold Mach.replaceRec
  split
  · simp
  · rename_i u furs hu
    have := Mach.hdlRoom_pageSt j _ _ hu
    simp at this
    simp [this]

@[simp] theorem Mach.hdlFailed_pageSt (j : Page) (id : Nat) (c : Chan) (cause : Nat) (m : Mach) : (Mach.hdlFailed id c cause m).pageSt j = m.pageSt j := by
  unfold Mach.hdlFailed
  try lift_lets
  repeat' first
    | (intro x; first | (have hx : x.pageSt j = m.pageSt j := by
                            simp only [x]
                            repeat' (first | (simp [*]; done) | intro _ | split   | simp [*])
                         clear_value x) | clear_value x)
    | (simp [*]; done)
    | intro _
    | split
    | simp [*]

@[simp] theorem Mach.hdlPassed_pageSt (j : Page) (id : Nat) (m : Mach) : (Mach.hdlPassed id m).pageSt j = m.pageSt j := by
  simp [Mach.hdlPassed]

@[simp] theorem Mach.setOp_pageSt (j : Page) (o : Op) (m : Mach) : (Mach.setOp o m).pageSt j = m.pageSt j := by
  simp [Mach.setOp]

@[simp] theorem Mach.dropOp_pageSt (j : Page) (id : Nat) (m : Mach) : (Mach.dropOp id m).pageSt j = m.pageSt j := by
  simp [Mach.dropOp]

@[simp] theorem Mach.svcStatus_pageSt (j : Page) (d : Nat) (a : Agent) (code opc : Nat) (m : Mach) : (Mach.svcStatus d a code opc m).pageSt j = m.pageSt j := by
  simp [Mach.svcStatus]

@[simp] theorem Mach.svcEnd_pageSt (j : Page) (o : Op) (a : Agent) (opc status : Nat) (m : Mach) : (Mach.svcEnd o a opc status m).pageSt j = m.pageSt j := by
  simp [Mach.svcEnd]

@[simp] theorem Mach.memberErased_pageSt (j : Page) (c : Chan) (f : Nat) (m : Mach) : (Mach.memberErased c f m).pageSt j = m.pageSt j := by
  unfold Mach.memberErased
  try lift_lets
  repeat' first
    | (intro x; first | (have hx : x.pageSt j = m.pageSt j := by
                            simp only [x]
                            repeat' (first | (simp [*]; done) | intro _ | split   | simp [*])
                         clear_value x) | clear_value x)
    | (simp [*]; done)
    | intro _
    | split
    | simp [*]

@[simp] theorem Mach.hdlErased_pageSt (j : Page) (row b : Nat) (m : Mach) : (Mach.hdlErased row b m).pageSt j = m.pageSt j := by
  unfold Mach.hdlErased
  try lift_lets
  repeat' first
    | (intro x; first | (have hx : x.pageSt j = m.pageSt j := by
                            simp only [x]
                            repeat' (first | (simp [*]; done) | intro _ | split   | simp [*])
                         clear_value x) | clear_value x)
    | (simp [*]; done)
    | intro _
    | split
    | simp [*]

@[simp] theorem Mach.dieEraseOver_pageSt (j : Page) (d : Nat) (m : Mach) : (Mach.dieEraseOver d m).pageSt j = m.pageSt j := by
  simp [Mach.dieEraseOver]

@[simp] theorem Mach.hdlWorn_pageSt (j : Page) (n : Nat) (m : Mach) : (Mach.hdlWorn n m).pageSt j = m.pageSt j := by
  unfold Mach.hdlWorn
  try lift_lets
  repeat' first
    | (intro x; first
      | (have hx : x.pageSt j = m.pageSt j := (by
        simp only [x]
        repeat' (first | (simp [*]; done) | intro _ | split | rw [Mach.each_pageSt] | simp [*])); clear_value x)
      | (have hx : x.1.pageSt j = m.pageSt j := (by
        simp only [x]
        repeat' (first | (simp [*]; done) | intro _ | split | rw [Mach.each_pageSt] | simp [*])); clear_value x)
      | clear_value x)
    | (simp [*]; done)
    | intro _
    | split
    | (have h2 := congrArg (fun p => p.1.pageSt j) ‹_ = (_, _)›; simp at h2; simp [*]; done)
    | rw [Mach.each_pageSt]
    | simp [*]

@[simp] theorem Mach.eraseDone_pageSt (j : Page) (o : Op) (b : Nat) (system : Bool) (m : Mach) : (Mach.eraseDone o b system m).pageSt j = m.pageSt j := by
  unfold Mach.eraseDone
  try lift_lets
  repeat' first
    | (intro x; first | (have hx : x.pageSt j = m.pageSt j := by
                            simp only [x]
                            repeat' (first | (simp [*]; done) | intro _ | split   | simp [*])
                         clear_value x) | clear_value x)
    | (simp [*]; done)
    | intro _
    | split
    | simp [*]

@[simp] theorem Mach.eraseFailed_pageSt (j : Page) (o : Op) (b : Nat) (system : Bool) (cause : Nat) (m : Mach) : (Mach.eraseFailed o b system cause m).pageSt j = m.pageSt j := by
  unfold Mach.eraseFailed
  try lift_lets
  repeat' first
    | (intro x; first | (have hx : x.pageSt j = m.pageSt j := by
                            simp only [x]
                            repeat' (first | (simp [*]; done) | intro _ | split   | simp [*])
                         clear_value x) | clear_value x)
    | (simp [*]; done)
    | intro _
    | split
    | simp [*]

@[simp] theorem Mach.suspendErase_pageSt (j : Page) (d : Nat) (count : Bool) (m : Mach) : (Mach.suspendErase d count m).pageSt j = m.pageSt j := by
  unfold Mach.suspendErase
  try lift_lets
  repeat' first
    | (intro x; first | (have hx : x.pageSt j = m.pageSt j := by
                            simp only [x]
                            repeat' (first | (simp [*]; done) | intro _ | split   | simp [*])
                         clear_value x) | clear_value x)
    | (simp [*]; done)
    | intro _
    | split
    | simp [*]

@[simp] theorem Mach.suspendChan_pageSt (j : Page) (c : Chan) (m : Mach) : (Mach.suspendChan c m).pageSt j = m.pageSt j := by
  unfold Mach.suspendChan
  repeat' first
    | (simp [*]; done)
    | intro _
    | split
    | rw [Mach.each_pageSt]
    | simp [*]

@[simp] theorem Mach.destroy_pageSt (j : Page) (d b : Nat) (site : Option (Nat × Nat)) (m : Mach) : (Mach.destroy d b site m).pageSt j = m.pageSt j := by
  simp [Mach.destroy]

@[simp] theorem Mach.erasePlanes_pageSt (j : Page) (d : Nat) (x : Apt) (m : Mach) : (Mach.erasePlanes d x m).pageSt j = m.pageSt j := by
  unfold Mach.erasePlanes
  try lift_lets
  repeat' first
    | (intro x; first
      | (have hx : x.pageSt j = m.pageSt j := (by
        simp only [x]
        repeat' (first | (simp [*]; done) | intro _ | split | rw [Mach.each_pageSt] | simp [*])); clear_value x)
      | (have hx : x.1.pageSt j = m.pageSt j := (by
        simp only [x]
        repeat' (first | (simp [*]; done) | intro _ | split | rw [Mach.each_pageSt] | simp [*])); clear_value x)
      | clear_value x)
    | (simp [*]; done)
    | intro _
    | split
    | (have h2 := congrArg (fun p => p.1.pageSt j) ‹_ = (_, _)›; simp at h2; simp [*]; done)
    | rw [Mach.each_pageSt]
    | simp [*]

@[simp] theorem Mach.rawProgram_pageSt (j : Page) (o : Op) (x : Apt) (pass : Bool) (m : Mach) : (Mach.rawProgram o x pass m).pageSt j = m.pageSt j := by
  unfold Mach.rawProgram
  try lift_lets
  repeat' first
    | (intro x; first
      | (have hx : x.pageSt j = m.pageSt j := (by
        simp only [x]
        repeat' (first | (simp [*]; done) | intro _ | split | rw [Mach.each_pageSt] | simp [*])); clear_value x)
      | (have hx : x.1.pageSt j = m.pageSt j := (by
        simp only [x]
        repeat' (first | (simp [*]; done) | intro _ | split | rw [Mach.each_pageSt] | simp [*])); clear_value x)
      | clear_value x)
    | (simp [*]; done)
    | intro _
    | split
    | (have h2 := congrArg (fun p => p.1.pageSt j) ‹_ = (_, _)›; simp at h2; simp [*]; done)
    | rw [Mach.each_pageSt]
    | simp [*]

@[simp] theorem Mach.stallXfer_pageSt (j : Page) (o : Op) (m : Mach) : (Mach.stallXfer o m).pageSt j = m.pageSt j := by
  unfold Mach.stallXfer
  try lift_lets
  repeat' first
    | (intro x; first
      | (have hx : x.pageSt j = m.pageSt j := (by
        simp only [x]
        repeat' (first | (simp [*]; done) | intro _ | split | rw [Mach.each_pageSt] | simp [*])); clear_value x)
      | (have hx : x.1.pageSt j = m.pageSt j := (by
        simp only [x]
        repeat' (first | (simp [*]; done) | intro _ | split | rw [Mach.each_pageSt] | simp [*])); clear_value x)
      | clear_value x)
    | (simp [*]; done)
    | intro _
    | split
    | (have h2 := congrArg (fun p => p.1.pageSt j) ‹_ = (_, _)›; simp at h2; simp [*]; done)
    | rw [Mach.each_pageSt]
    | simp [*]

@[simp] theorem Mach.svcTransfer_pageSt (j : Page) (o : Op) (code : Nat) (x : Apt) (m : Mach) : (Mach.svcTransfer o code x m).pageSt j = m.pageSt j := by
  unfold Mach.svcTransfer
  try lift_lets
  repeat' first
    | (intro x; first | (have hx : x.pageSt j = m.pageSt j := by
                            simp only [x]
                            repeat' (first | (simp [*]; done) | intro _ | split   | simp [*])
                         clear_value x) | clear_value x)
    | (simp [*]; done)
    | intro _
    | split
    | simp [*]

@[simp] theorem Mach.svcDrain_pageSt (j : Page) (m : Mach) : (Mach.svcDrain m).pageSt j = m.pageSt j := by
  unfold Mach.svcDrain
  repeat' first
    | (simp [*]; done)
    | intro _
    | split
    | rw [Mach.each_pageSt]
    | simp [*]

@[simp] theorem Mach.svcErased1_pageSt (j : Page) (o : Op) (x : Apt) (pass : Bool) (m : Mach) : (Mach.svcErased1 o x pass m).pageSt j = m.pageSt j := by
  unfold Mach.svcErased1
  try lift_lets
  repeat' first
    | (intro x; first | (have hx : x.pageSt j = m.pageSt j := by
                            simp only [x]
                            repeat' (first | (simp [*]; done) | intro _ | split | rw [Mach.each_pageSt]  | simp [*])
                         clear_value x) | clear_value x)
    | (simp [*]; done)
    | intro _
    | split
    | rw [Mach.each_pageSt]
    | simp [*]

@[simp] theorem Mach.pendEpoch_pageSt (j : Page) (v : Vid) (e : Nat) (owner : Bool) (t : TwinSt) (m : Mach) : (Mach.pendEpoch v e owner t m).pageSt j = m.pageSt j := by
  simp [Mach.pendEpoch]

@[simp] theorem Mach.dropPieces_pageSt (j : Page) (v : Vid) (m : Mach) : (Mach.dropPieces v m).pageSt j = m.pageSt j := by
  unfold Mach.dropPieces
  repeat' first
    | (simp [*]; done)
    | intro _
    | split
    | rw [Mach.each_pageSt]
    | simp [*]

@[simp] theorem Mach.dropPartner_pageSt (j : Page) (m : Mach) : (Mach.dropPartner m).pageSt j = m.pageSt j := by
  unfold Mach.dropPartner
  try lift_lets
  repeat' first
    | (intro x; first | (have hx : x.pageSt j = m.pageSt j := by
                            simp only [x]
                            repeat' (first | (simp [*]; done) | intro _ | split | rw [Mach.each_pageSt]  | simp [*])
                         clear_value x) | clear_value x)
    | (simp [*]; done)
    | intro _
    | split
    | rw [Mach.each_pageSt]
    | simp [*]

@[simp] theorem Mach.waitLost_pageSt (j : Page) (w : TwinWait) (m : Mach) : (Mach.waitLost w m).pageSt j = m.pageSt j := by
  unfold Mach.waitLost
  try lift_lets
  repeat' first
    | (intro x; first | (have hx : x.pageSt j = m.pageSt j := by
                            simp only [x]
                            repeat' (first | (simp [*]; done) | intro _ | split   | simp [*])
                         clear_value x) | clear_value x)
    | (simp [*]; done)
    | intro _
    | split
    | simp [*]

@[simp] theorem Mach.durableBack_pageSt (j : Page) (m : Mach) : (Mach.durableBack m).pageSt j = m.pageSt j := by
  unfold Mach.durableBack
  repeat' first
    | (simp [*]; done)
    | intro _
    | split
    | rw [Mach.each_pageSt]
    | simp [*]

@[simp] theorem Mach.partnerLost_pageSt (j : Page) (m : Mach) : (Mach.partnerLost m).pageSt j = m.pageSt j := by
  unfold Mach.partnerLost
  try lift_lets
  repeat' first
    | (intro x; first | (have hx : x.pageSt j = m.pageSt j := by
                            simp only [x]
                            repeat' (first | (simp [*]; done) | intro _ | split | rw [Mach.each_pageSt]  | simp [*])
                         clear_value x) | clear_value x)
    | (simp [*]; done)
    | intro _
    | split
    | rw [Mach.each_pageSt]
    | simp [*]

@[simp] theorem Mach.dropPortCmds_pageSt (j : Page) (p : Port) (m : Mach) : (Mach.dropPortCmds p m).pageSt j = m.pageSt j := by
  unfold Mach.dropPortCmds
  try lift_lets
  repeat' first
    | (intro x; first
      | (have hx : x.pageSt j = m.pageSt j := (by
        simp only [x]
        repeat' (first | (simp [*]; done) | intro _ | split | rw [Mach.each_pageSt] | simp [*])); clear_value x)
      | (have hx : x.1.pageSt j = m.pageSt j := (by
        simp only [x]
        repeat' (first | (simp [*]; done) | intro _ | split | rw [Mach.each_pageSt] | simp [*])); clear_value x)
      | clear_value x)
    | (simp [*]; done)
    | intro _
    | split
    | (have h2 := congrArg (fun p => p.1.pageSt j) ‹_ = (_, _)›; simp at h2; simp [*]; done)
    | rw [Mach.each_pageSt]
    | simp [*]

@[simp] theorem Mach.dropPortQueues_pageSt (j : Page) (p : Port) (m : Mach) : (Mach.dropPortQueues p m).pageSt j = m.pageSt j := by
  unfold Mach.dropPortQueues
  try lift_lets
  repeat' first
    | (intro x; first
      | (have hx : x.pageSt j = m.pageSt j := (by
        simp only [x]
        repeat' (first | (simp [*]; done) | intro _ | split | rw [Mach.each_pageSt] | simp [*])); clear_value x)
      | (have hx : x.1.pageSt j = m.pageSt j := (by
        simp only [x]
        repeat' (first | (simp [*]; done) | intro _ | split | rw [Mach.each_pageSt] | simp [*])); clear_value x)
      | clear_value x)
    | (simp [*]; done)
    | intro _
    | split
    | (have h2 := congrArg (fun p => p.1.pageSt j) ‹_ = (_, _)›; simp at h2; simp [*]; done)
    | rw [Mach.each_pageSt]
    | simp [*]

@[simp] theorem Mach.dropTransfer_pageSt (j : Page) (p : Port) (m : Mach) : (Mach.dropTransfer p m).pageSt j = m.pageSt j := by
  unfold Mach.dropTransfer
  try lift_lets
  repeat' first
    | (intro x; first
      | (have hx : x.pageSt j = m.pageSt j := (by
        simp only [x]
        repeat' (first | (simp [*]; done) | intro _ | split | rw [Mach.each_pageSt] | simp [*])); clear_value x)
      | (have hx : x.1.pageSt j = m.pageSt j := (by
        simp only [x]
        repeat' (first | (simp [*]; done) | intro _ | split | rw [Mach.each_pageSt] | simp [*])); clear_value x)
      | clear_value x)
    | (simp [*]; done)
    | intro _
    | split
    | (have h2 := congrArg (fun p => p.1.pageSt j) ‹_ = (_, _)›; simp at h2; simp [*]; done)
    | rw [Mach.each_pageSt]
    | simp [*]

@[simp] theorem Mach.giveLevel_pageSt (j : Page) (m : Mach) : (Mach.giveLevel m).pageSt j = m.pageSt j := by
  unfold Mach.giveLevel
  repeat' first
    | (simp [*]; done)
    | intro _
    | split
    | rw [Mach.each_pageSt]
    | simp [*]

@[simp] theorem Mach.setLevel_pageSt (j : Page) (l : Nat) (m : Mach) : (Mach.setLevel l m).pageSt j = m.pageSt j := by
  unfold Mach.setLevel
  try lift_lets
  repeat' first
    | (intro x; first | (have hx : x.pageSt j = m.pageSt j := by
                            simp only [x]
                            repeat' (first | (simp [*]; done) | intro _ | split   | simp [*])
                         clear_value x) | clear_value x)
    | (simp [*]; done)
    | intro _
    | split
    | simp [*]

@[simp] theorem Mach.snfStart_pageSt (j : Page) (m : Mach) : (Mach.snfStart m).pageSt j = m.pageSt j := by
  unfold Mach.snfStart
  try lift_lets
  repeat' first
    | (intro x; first | (have hx : x.pageSt j = m.pageSt j := by
                            simp only [x]
                            repeat' (first | (simp [*]; done) | intro _ | split   | simp [*])
                         clear_value x) | clear_value x)
    | (simp [*]; done)
    | intro _
    | split
    | simp [*]

@[simp] theorem Mach.lntFlush_pageSt (j : Page) (m : Mach) : (Mach.lntFlush m).pageSt j = m.pageSt j := by
  unfold Mach.lntFlush
  repeat' first
    | (simp [*]; done)
    | intro _
    | split
    | simp [*]

@[simp] theorem Mach.lntEmpty_pageSt (j : Page) (m : Mach) : (Mach.lntEmpty m).pageSt j = m.pageSt j := by
  simp [Mach.lntEmpty]

@[simp] theorem Mach.lntStart_pageSt (j : Page) (m : Mach) : (Mach.lntStart m).pageSt j = m.pageSt j := by
  simp [Mach.lntStart]

@[simp] theorem Mach.strandReads_pageSt (j : Page) (c : Chan) (issued : Bool) (m : Mach) : (Mach.strandReads c issued m).pageSt j = m.pageSt j := by
  unfold Mach.strandReads
  try lift_lets
  repeat' first
    | (intro x; first
      | (have hx : x.pageSt j = m.pageSt j := (by
        simp only [x]
        repeat' (first | (simp [*]; done) | intro _ | split | rw [Mach.each_pageSt] | simp [*])); clear_value x)
      | (have hx : x.1.pageSt j = m.pageSt j := (by
        simp only [x]
        repeat' (first | (simp [*]; done) | intro _ | split | rw [Mach.each_pageSt] | simp [*])); clear_value x)
      | clear_value x)
    | (simp [*]; done)
    | intro _
    | split
    | (have h2 := congrArg (fun p => p.1.pageSt j) ‹_ = (_, _)›; simp at h2; simp [*]; done)
    | rw [Mach.each_pageSt]
    | simp [*]

@[simp] theorem Mach.stopBegins_pageSt (j : Page) (p : Page) (m : Mach) : (Mach.stopBegins p m).pageSt j = m.pageSt j := by
  unfold Mach.stopBegins
  repeat' first
    | (simp [*]; done)
    | intro _
    | split
    | rw [Mach.each_pageSt]
    | simp [*]

@[simp] theorem Mach.portIdle_pageSt (j : Page) (q : Port) (m : Mach) : (Mach.portIdle q m).pageSt j = m.pageSt j := by
  unfold Mach.portIdle
  try lift_lets
  repeat' first
    | (intro x; first
      | (have hx : x.pageSt j = m.pageSt j := (by
        simp only [x]
        repeat' (first | (simp [*]; done) | intro _ | split | rw [Mach.each_pageSt] | simp [*])); clear_value x)
      | (have hx : x.1.pageSt j = m.pageSt j := (by
        simp only [x]
        repeat' (first | (simp [*]; done) | intro _ | split | rw [Mach.each_pageSt] | simp [*])); clear_value x)
      | clear_value x)
    | (simp [*]; done)
    | intro _
    | split
    | (have h2 := congrArg (fun p => p.1.pageSt j) ‹_ = (_, _)›; simp at h2; simp [*]; done)
    | rw [Mach.each_pageSt]
    | simp [*]

@[simp] theorem Mach.stopEnds_pageSt (j : Page) (p : Page) (m : Mach) : (Mach.stopEnds p m).pageSt j = m.pageSt j := by
  unfold Mach.stopEnds
  repeat' first
    | (simp [*]; done)
    | intro _
    | split
    | simp [*]

@[simp] theorem Mach.keyReload_pageSt (j : Page) (m : Mach) : (Mach.keyReload m).pageSt j = m.pageSt j := by
  unfold Mach.keyReload
  try lift_lets
  repeat' first
    | (intro x; first | (have hx : x.pageSt j = m.pageSt j := by
                            simp only [x]
                            repeat' (first | (simp [*]; done) | intro _ | split   | simp [*])
                         clear_value x) | clear_value x)
    | (simp [*]; done)
    | intro _
    | split
    | simp [*]

@[simp] theorem Mach.startEnds_pageSt (j : Page) (p : Page) (m : Mach) : (Mach.startEnds p m).pageSt j = m.pageSt j := by
  unfold Mach.startEnds
  try lift_lets
  repeat' first
    | (intro x; first
      | (have hx : x.pageSt j = m.pageSt j := (by
        simp only [x]
        repeat' (first | (simp [*]; done) | intro _ | split | rw [Mach.each_pageSt] | simp [*])); clear_value x)
      | (have hx : x.1.pageSt j = m.pageSt j := (by
        simp only [x]
        repeat' (first | (simp [*]; done) | intro _ | split | rw [Mach.each_pageSt] | simp [*])); clear_value x)
      | clear_value x)
    | (simp [*]; done)
    | intro _
    | split
    | (have h2 := congrArg (fun p => p.1.pageSt j) ‹_ = (_, _)›; simp at h2; simp [*]; done)
    | rw [Mach.each_pageSt]
    | simp [*]

@[simp] theorem Mach.lampGone_pageSt (j : Page) (m : Mach) : (Mach.lampGone m).pageSt j = m.pageSt j := by
  unfold Mach.lampGone
  try lift_lets
  repeat' first
    | (intro x; first
      | (have hx : x.pageSt j = m.pageSt j := (by
        simp only [x]
        repeat' (first | (simp [*]; done) | intro _ | split | rw [Mach.each_pageSt] | simp [*])); clear_value x)
      | (have hx : x.1.pageSt j = m.pageSt j := (by
        simp only [x]
        repeat' (first | (simp [*]; done) | intro _ | split | rw [Mach.each_pageSt] | simp [*])); clear_value x)
      | clear_value x)
    | (simp [*]; done)
    | intro _
    | split
    | (have h2 := congrArg (fun p => p.1.pageSt j) ‹_ = (_, _)›; simp at h2; simp [*]; done)
    | rw [Mach.each_pageSt]
    | simp [*]

@[simp] theorem Mach.faultEnds_pageSt (j : Page) (p : Page) (m : Mach) : (Mach.faultEnds p m).pageSt j = m.pageSt j := by
  unfold Mach.faultEnds
  try lift_lets
  repeat' first
    | (intro x; first
      | (have hx : x.pageSt j = m.pageSt j := (by
        simp only [x]
        repeat' (first | (simp [*]; done) | intro _ | split | rw [Mach.each_pageSt] | simp [*])); clear_value x)
      | (have hx : x.1.pageSt j = m.pageSt j := (by
        simp only [x]
        repeat' (first | (simp [*]; done) | intro _ | split | rw [Mach.each_pageSt] | simp [*])); clear_value x)
      | clear_value x)
    | (simp [*]; done)
    | intro _
    | split
    | (have h2 := congrArg (fun p => p.1.pageSt j) ‹_ = (_, _)›; simp at h2; simp [*]; done)
    | rw [Mach.each_pageSt]
    | simp [*]

@[simp] theorem Mach.freeDie_pageSt (j : Page) (o : Op) (m : Mach) : (Mach.freeDie o m).pageSt j = m.pageSt j := by
  simp [Mach.freeDie]

@[simp] theorem Mach.svcComplete_pageSt (j : Page) (o : Op) (code : Nat) (x : Apt) (pass : Bool) (m : Mach) : (Mach.svcComplete o code x pass m).pageSt j = m.pageSt j := by
  unfold Mach.svcComplete
  try lift_lets
  repeat' first
    | (intro x; first | (have hx : x.pageSt j = m.pageSt j := by
                            simp only [x]
                            repeat' (first | (simp [*]; done) | intro _ | split   | simp [*])
                         clear_value x) | clear_value x)
    | (simp [*]; done)
    | intro _
    | split
    | simp [*]

@[simp] theorem Mach.opEnded_pageSt (j : Page) (o : Op) (r : OpOutcome) (cause : Nat) (m : Mach) : (Mach.opEnded o r cause m).pageSt j = m.pageSt j := by
  unfold Mach.opEnded
  try lift_lets
  repeat' first
    | (intro x; first | (have hx : x.pageSt j = m.pageSt j := by
                            simp only [x]
                            repeat' (first | (simp [*]; done) | intro _ | split   | simp [*])
                         clear_value x) | clear_value x)
    | (simp [*]; done)
    | intro _
    | split
    | simp [*]

@[simp] theorem Mach.completion_pageSt (j : Page) (c : Chan) (r : Row) (x : OpOutcome) (m : Mach) : (Mach.completion c r x m).pageSt j = m.pageSt j := by
  unfold Mach.completion
  repeat' first
    | (simp [*]; done)
    | intro _
    | split
    | simp [*]

@[simp] theorem Mach.hold_pageSt (j : Page) (p : Page) (h : Bool) (m : Mach) : (Mach.hold p h m).pageSt j = m.pageSt j := by
  unfold Mach.hold
  rw [Mach.settleDev_pageSt]
  by_cases n : j = p
  · subst n; simp [Mach.pageSt]
  · simp [Mach.pageSt, Mach.hdr_setHdr_ne _ _ _ _ n]

@[simp] theorem Mach.service_pageSt (j : Page) (p : Port) (op : BgOp) (f : Mach → Mach) (m : Mach) (h : ∀ m : Mach, (f m).pageSt j = m.pageSt j) :
    (Mach.service p op f m).pageSt j = m.pageSt j := by
  unfold Mach.service
  repeat' first
    | (simp; done)
    | (rw [Mach.startBg_pageSt]; exact h)
    | split

@[simp] theorem Mach.twnNak_pageSt (j : Page) (m : Mach) : (Mach.twnNak m).pageSt j = m.pageSt j := by
  simp [Mach.twnNak]

@[simp] theorem Mach.rxPlain_pageSt (j : Page) (h : FrameHdr) (f : Mach → Mach) (m : Mach) (hf : ∀ m : Mach, (f m).pageSt j = m.pageSt j) :
    (Mach.rxPlain h f m).pageSt j = m.pageSt j := by
  unfold Mach.rxPlain
  split
  · rw [hf]; simp
  · rfl

@[simp] theorem Mach.rxSeq_pageSt (j : Page) (h : FrameHdr) (f : Mach → Mach) (m : Mach) (hf : ∀ m : Mach, (f m).pageSt j = m.pageSt j) :
    (Mach.rxSeq h f m).pageSt j = m.pageSt j := by
  unfold Mach.rxSeq
  apply Mach.rxPlain_pageSt
  intro m
  dsimp only
  repeat' first
    | (rw [hf]; simp; done)
    | (simp; done)
    | split

@[simp] theorem Mach.takeover_pageSt (j : Page) (p : Port) (v : Vid) (force : Bool) (fence : Nat) (m : Mach) : (Mach.takeover p v force fence m).pageSt j = m.pageSt j := by
  unfold Mach.takeover
  try lift_lets
  repeat' first
    | (intro x; first | (have hx : x.pageSt j = m.pageSt j := by
                            simp only [x]
                            repeat' (first | (simp [*]; done) | intro _ | split   | simp [*])
                         clear_value x) | clear_value x)
    | (simp [*]; done)
    | intro _
    | split
    | simp [*]

end Sys2Proof.Machine
end

