-- ==== Sys2Proof/Laws/Frames.lean ====
section
/-! SUPPORT. What some shared operations leave alone: register writes and counters, the change of the device's state, power domains,
the start of a boot, and the device reset. -/

namespace Sys2Proof.Machine

-- One proof at a time: proofs that wait for each other would each hold a thread and its stack.
set_option Elab.async false

variable {α : Type}

theorem hb_setHdr (m : Mach) (p : Page) (h : PageHdr) : Mach.HdrsBut [p] m (m.setHdr p h) := by
  intro q hq; exact Mach.hdr_setHdr_ne _ _ _ _ (by simpa using hq)
theorem rb_setHdr (m : Mach) (p : Page) (h : PageHdr) : Mach.RegsBut [] m (m.setHdr p h) := fun _ _ => rfl
theorem sb_setHdr (m : Mach) (p : Page) (h : PageHdr) : Mach.SameBut [.reg] m (m.setHdr p h) := by simp [Mach.SameBut]
theorem rs_bump (m : Mach) (k : Nat) : Mach.RegsSame [k] m (m.bump k) :=
  ⟨fun j hj => Mach.rd_bump_ne _ _ _ (by simpa using hj), by simp, by simp, fun p => Mach.hdr_bump _ _ _⟩
theorem sb_bump (m : Mach) (k : Nat) : Mach.SameBut [.reg] m (m.bump k) := by simp [Mach.SameBut]
theorem rdN_bump (m : Mach) (k : Nat) : (m.bump k).rdN k = min 0xFFFFFFFF (m.rdN k + 1) := by
  simp [Mach.rdN]
theorem raise_pageSt' (m : Mach) (p : Page) (i : Nat) (arg : BitVec 64) (q : Page) : (m.raise p i arg).pageSt q = m.pageSt q := by
  rw [recorded_pageSt (recorded_raise m p i arg) q]
  unfold Mach.errBit
  by_cases n : q = p
  · subst n; simp [Mach.pageSt]
  · simp [Mach.pageSt, Mach.hdr_setHdr_ne _ _ _ _ n]
theorem pageSt_ite' (m : Mach) (p : Page) (x : PageSt) (q : Page) : (m.setPageSt p x).pageSt q = if q = p then x else m.pageSt q := by
  split
  · subst_vars; simp
  · rw [Mach.pageSt_setPageSt_ne _ _ _ _ ‹_›]
theorem logEvent_reg (l : Nat) (k : EvKind) (m : Mach) : (m.logEvent l k).reg = m.reg := by unfold Mach.logEvent; simp
theorem setDev_reg (st : DevSt) (m : Mach) : (m.setDev st).reg = m.reg := by unfold Mach.setDev; split <;> simp [logEvent_reg]
theorem settleDev_reg (m : Mach) : m.settleDev.reg = m.reg := by
  unfold Mach.settleDev; repeat' first | rfl | rw [setDev_reg] | split
theorem rb_of_reg {a b : Mach} (h : b.reg = a.reg) : Mach.RegsBut [] a b := by intro k _; unfold Mach.rd; rw [h]
theorem same_updFl (m : Mach) (f : Flash → Flash) : Mach.SameBut [.fl] m (m.updFl f) := by simp [Mach.SameBut]
theorem same_destroy (d b : Nat) (s : Option (Nat × Nat)) (m : Mach) : Mach.SameBut [.fl] m (m.destroy d b s) := by
  simp [Mach.SameBut, Mach.destroy]
theorem same_storePage (pg : PagePgm) (m : Mach) : Mach.SameBut [.fl] m (m.storePage pg) :=
  same_each _ _ (fun _ _ => by simp [Mach.SameBut, Mach.putCws]) _
theorem same_cutPage (pg : PagePgm) (m : Mach) : Mach.SameBut [.fl] m (m.cutPage pg) := by
  unfold Mach.cutPage
  extract_lets u
  exact same_trans (b := u) (same_storePage _ m) (same_updFl ..)
theorem same_erasePlanes (d : Nat) (x : Apt) (m : Mach) : Mach.SameBut [.fl] m (m.erasePlanes d x) :=
  same_each _ _ (fun _ _ => same_each _ _ (fun _ _ => same_destroy ..) _) _
theorem same_rawProgram (o : Op) (x : Apt) (b : Bool) (m : Mach) : Mach.SameBut [.fl] m (m.rawProgram o x b) := by
  unfold Mach.rawProgram
  dsimp only
  split
  · exact same_trans (same_destroy ..) (same_updFl ..)
  · exact same_destroy ..
theorem same_landOps (p : Bool) (m : Mach) : Mach.SameBut [.fl] m (m.landOps p) := by
  refine same_each _ _ (fun o m => ?_) _
  repeat' first
    | exact same_refl _ _
    | exact same_storePage _ _
    | exact same_cutPage _ _
    | exact same_destroy _ _ _ _
    | exact same_rawProgram _ _ _ _
    | exact same_trans (same_erasePlanes _ _ _) (same_updFl _ _)
    | split
/-- What stands on the flash when the controller stops changes nothing but the flash, the headland log and the free values. -/
theorem same_stop (p : Bool) (m : Mach) : Mach.SameBut [.fl, .hdl, .free] m (m.stop p) := by
  have hg : Mach.SameBut [.fl, .hdl, .free] m ((m.landOps p).landLog).draw :=
    same_trans (same_mono (same_landOps p m) (by simp)) (by simp [Mach.SameBut, Mach.landLog])
  unfold Mach.stop
  extract_lets u
  split
  · exact same_trans hg (show Mach.SameBut _ u _ by simp [Mach.SameBut])
  · exact hg
/-- Where no version is held, a reset discards none. -/
theorem discardAllHeld_none (m : Mach) (h : ∀ x ∈ m.buf.vers, x.st ≠ .held) : m.discardAllHeld = m := by
  unfold Mach.discardAllHeld Mach.discardVers
  have : List.filter (fun x : Ver => x.st == .held)
      (m.buf.vers.filter fun x => !(m.hdl.dumpValid && m.hdl.dumped.any fun y => y.id == x.id)) = [] := by
    rw [List.filter_eq_nil_iff]
    intro x hx
    simpa using h x (List.mem_of_mem_filter hx)
  rw [this]
  rfl

theorem setPageSt_rd (p : Page) (x : PageSt) (m : Mach) (k : Nat) : (m.setPageSt p x).rd k = m.rd k := by simp

/-- The pages of a domain change state: only page headers do. -/
theorem hdrs_only {α : Type} (l : List α) (f : α → Mach → Mach) (m : Mach)
    (h : ∀ a m, Mach.RegsBut [] m (f a m) ∧ Mach.SameBut [.reg] m (f a m)) : Mach.RegsBut [] m (m.each l f) ∧ Mach.SameBut [.reg] m (m.each l f) := by
  refine ⟨?_, same_each _ _ (fun a m => (h a m).2) _⟩
  unfold Mach.each
  induction l generalizing m with
  | nil => intro k _; rfl
  | cons a l ih => rw [List.foldl_cons]; intro k hk; rw [ih (f a m) k hk, (h a m).1 k hk]

theorem domainOn_frame (i : Nat) (m : Mach) : Mach.RegsBut [] m (m.domainOn i) ∧ Mach.SameBut [.reg, .thm] m (m.domainOn i) := by
  unfold Mach.domainOn
  extract_lets u
  have hu : Mach.RegsBut [] m u ∧ Mach.SameBut [.reg, .thm] m u := ⟨fun _ _ => rfl, by simp [Mach.SameBut, u]⟩
  have h := hdrs_only (domainPages i) (fun p m => m.setPageSt p .stopped) u (fun p m => ⟨fun k _ => by simp, by simp [Mach.SameBut]⟩)
  refine ⟨fun k hk => ?_, same_trans hu.2 (same_mono h.2 (by simp))⟩
  rw [h.1 k hk, hu.1 k hk]

theorem powerUp_frame (i : Nat) (m : Mach) : Mach.RegsBut [] m (m.powerUp i) ∧ Mach.SameBut [.reg, .thm] m (m.powerUp i) := by
  unfold Mach.powerUp
  split
  · exact ⟨fun _ _ => rfl, same_refl ..⟩
  · exact domainOn_frame ..

theorem rb_trans {a b c : Mach} (h : Mach.RegsBut [] a b) (g : Mach.RegsBut [] b c) : Mach.RegsBut [] a c := fun k hk => by rw [g k hk, h k hk]

theorem bootGo_frame (m : Mach) : Mach.RegsBut [] m m.bootGo ∧ Mach.SameBut [.reg, .thm, .dev] m m.bootGo ∧
    (m.bootGo.dev = m.dev ∨ m.bootGo.dev = { m.dev with stage := 1 }) ∧ m.bootGo.reg.c64 = m.reg.c64 ∧ m.bootGo.reg.low = m.reg.low := by
  unfold Mach.bootGo
  split
  · have h1 := powerUp_frame 3 m
    have h2 := powerUp_frame 4 (m.powerUp 3)
    have h3 := powerUp_frame 1 ((m.powerUp 3).powerUp 4)
    have h := same_trans (same_trans h1.2 h2.2) h3.2
    have hd : (((m.powerUp 3).powerUp 4).powerUp 1).dev = m.dev := by simpa [Mach.SameBut] using h.1
    have cl : ∀ i (m : Mach), (m.powerUp i).reg.c64 = m.reg.c64 ∧ (m.powerUp i).reg.low = m.reg.low := by
      intro i m
      unfold Mach.powerUp Mach.domainOn Mach.each
      split
      · exact ⟨rfl, rfl⟩
      · have : ∀ (l : List Page) (u : Mach), (l.foldl (fun m p => m.setPageSt p .stopped) u).reg.c64 = u.reg.c64 ∧ (l.foldl (fun m p => m.setPageSt p .stopped) u).reg.low = u.reg.low := by
          intro l
          induction l with
          | nil => intro u; exact ⟨rfl, rfl⟩
          | cons a l ih => intro u; rw [List.foldl_cons]; exact ⟨(ih _).1.trans rfl, (ih _).2.trans rfl⟩
        exact this _ _
    refine ⟨rb_trans (rb_trans (rb_trans h1.1 h2.1) h3.1) (fun _ _ => rfl), ?_, Or.inr (by simp [hd]), ?_, ?_⟩
    · refine same_trans (same_mono h (by simp)) (by simp [Mach.SameBut])
    · simp [(cl _ _).1]
    · simp [(cl _ _).2]
  · exact ⟨fun _ _ => rfl, same_refl .., Or.inl rfl, rfl, rfl⟩

theorem cleared_reset (b : Bool) (c : Nat) (m : Mach) : (m.deviceReset b c).Cleared := by
  refine ⟨fun k => rfl, rfl, rfl, rfl, rfl, rfl, rfl, rfl, rfl, rfl, rfl⟩
theorem kept_reset (b : Bool) (c : Nat) (m : Mach) (hv : ∀ x ∈ m.buf.vers, x.st ≠ .held) : m.Kept (m.deviceReset b c) := by
  have h := same_stop b m.discardAllHeld
  rw [discardAllHeld_none m hv] at h
  simp only [Mach.SameBut, List.mem_cons, reduceCtorEq, List.not_mem_nil, or_false, false_or, true_or, or_true] at h
  obtain ⟨h1, -, -, -, h5, -, -, -, -, -, -, -, -, -, -, h16, -, -, h19, -⟩ := h
  have e : m.discardAllHeld = m := discardAllHeld_none m hv
  refine ⟨?_, ?_, ?_, ?_, ?_, ?_⟩
  · show (m.discardAllHeld.stop b).dev.formatted = _; rw [e, h1]
  · show (m.discardAllHeld.stop b).adm.svFloor = _; rw [e, h5]
  · show (m.discardAllHeld.stop b).adm.active = _; rw [e, h5]
  · show (m.discardAllHeld.stop b).adm.board = _; rw [e, h5]
  · show (m.discardAllHeld.stop b).alm.pers = _; rw [e, h16]
  · show (m.discardAllHeld.stop b).out = _; rw [e, h19]
theorem bootGo_off (m : Mach) (h : m.canBoot = false) : m.bootGo = m := by unfold Mach.bootGo; rw [h]; rfl
theorem stop_alm (b : Bool) (m : Mach) : (m.stop b).alm = m.alm := by simpa [Mach.SameBut] using (same_stop b m).2.2.2.2.2.2.2.2.2.2.2.2.2.2.2.1
theorem stop_dev (b : Bool) (m : Mach) : (m.stop b).dev = m.dev := by simpa [Mach.SameBut] using (same_stop b m).1
theorem cleared_bootGo {m : Mach} (h : m.Cleared) : m.bootGo.Cleared := by
  obtain ⟨r, s, -, c, l⟩ := bootGo_frame m
  obtain ⟨h1, h2, h3, h4, h5, h6, h7, h8, h9, h10, h11⟩ := h
  simp only [Mach.SameBut, List.mem_cons, reduceCtorEq, List.not_mem_nil, or_false, false_or, true_or, or_true, true_and] at s
  obtain ⟨s3, s4, s5, s6, s7, s8, s9, s10, s11, s12, s13, s14, s15, s16, s17, s18, s19⟩ := s
  refine ⟨fun k => (r k (by simp)).trans (h1 k), c.trans h2, l.trans h3, s3.trans h4, s6.trans h5, s7.trans h6, s8.trans h7, s9.trans h8, s11.trans h9, s14.trans h10, s16.trans h11⟩
theorem kept_bootGo {a m : Mach} (h : a.Kept m) : a.Kept m.bootGo := by
  obtain ⟨r, s, d, -⟩ := bootGo_frame m
  simp only [Mach.SameBut, List.mem_cons, reduceCtorEq, List.not_mem_nil, or_false, false_or, true_or, or_true, true_and] at s
  obtain ⟨s3, s4, s5, s6, s7, s8, s9, s10, s11, s12, s13, s15, s16, s17, s18, s19, s20⟩ := s
  obtain ⟨h1, h2, h3, h4, h5, h6⟩ := h
  have hf : m.bootGo.dev.formatted = m.dev.formatted := by rcases d with d | d <;> rw [d]
  exact ⟨hf.trans h1, by rw [s5]; exact h2, by rw [s5]; exact h3, by rw [s5]; exact h4, by rw [s16]; exact h5, by rw [s19]; exact h6⟩

theorem kept_of {a b c : Mach} (h : a.Kept b) (hd : b.dev.formatted = a.dev.formatted → c.dev.formatted = a.dev.formatted) (h2 : c.adm = b.adm) (h3 : c.alm.pers = b.alm.pers) (h4 : c.out = b.out) : a.Kept c := by
  obtain ⟨k1, k2, k3, k4, k5, k6⟩ := h
  exact ⟨hd k1, by rw [h2]; exact k2, by rw [h2]; exact k3, by rw [h2]; exact k4, by rw [h3]; exact k5, by rw [h4]; exact k6⟩

theorem reset_boot (s : Mach) (c : Nat) (hv : ∀ x ∈ s.buf.vers, x.st ≠ .held) :
    (s.deviceReset false c).bootGo.Cleared ∧ s.Kept (s.deviceReset false c).bootGo ∧
    (s.deviceReset false c).bootGo.dev.st = .boot ∧ (s.deviceReset false c).bootGo.dev.cause = bit32 c ∧
    s.RingRead (s.deviceReset false c).bootGo := by
  refine ⟨cleared_bootGo (cleared_reset ..), kept_bootGo (kept_reset _ _ _ hv), ?_, ?_, ?_⟩
  · rcases (bootGo_frame (s.deviceReset false c)).2.2.1 with h | h <;> rw [h] <;> rfl
  · rcases (bootGo_frame (s.deviceReset false c)).2.2.1 with h | h <;> rw [h] <;> rfl
  · have : (s.deviceReset false c).bootGo.alm = (s.deviceReset false c).alm := by
      simpa [Mach.SameBut] using (bootGo_frame (s.deviceReset false c)).2.1.2.2.2.2.2.2.2.2.2.2.2.2.2.2.2.1
    refine ⟨(s.discardAllHeld.stop false).free, ?_⟩
    rw [this]
    show (s.discardAllHeld.stop false).alm.ring.filter _ = _
    rw [stop_alm, discardAllHeld_none s hv]
theorem same_of_recorded {a b : Mach} (h : Mach.Recorded a b) : Mach.SameBut [.reg, .pff, .adm, .alm] a b := h.same
theorem pffDrop_port (n : Fin 8) (m : Mach) : Mach.SameBut [.reg, .pff] m (m.pffDrop n) := by
  unfold Mach.pffDrop; dsimp only; split <;> simp [Mach.SameBut]
theorem pffRestart_same (n : Fin 8) (m : Mach) : Mach.SameBut [.reg, .pff] m (Mach.pffRestart n m) := by
  unfold Mach.pffRestart
  extract_lets u0 u
  have hu : Mach.SameBut [.reg, .pff] m u := by
    simp only [u, u0]; split <;> simp [Mach.SameBut]
  split
  · exact same_trans hu (pffDrop_port _ _)
  · exact hu
theorem pffReg_ne (n : Fin 8) (off k : Nat) (h : k < 0x48000 ∨ 0x50000 ≤ k) (ho : off < 0x1000) : k ≠ pffReg n off := by
  have : pffReg n off = 0x48000 + 0x1000 * n.val + off := by
    simp [pffReg, Page.base]; omega
  have := n.isLt
  omega
theorem pffDrop_rd (n : Fin 8) (m : Mach) (k : Nat) (h : k < 0x48000 ∨ 0x50000 ≤ k) : (m.pffDrop n).rd k = m.rd k := by
  unfold Mach.pffDrop; dsimp only; split
  · rfl
  · rw [Mach.rd_bump_ne _ _ _ (pffReg_ne _ _ _ h (by decide))]; simp
theorem pffRestart_rd (n : Fin 8) (m : Mach) (k : Nat) (h : k < 0x48000 ∨ 0x50000 ≤ k) : (Mach.pffRestart n m).rd k = m.rd k := by
  unfold Mach.pffRestart
  extract_lets u0 u
  have hu : u.rd k = m.rd k := by simp only [u]; split <;> simp
  split
  · rw [pffDrop_rd _ _ _ h, hu]
  · exact hu
theorem each_rd {α : Type} (l : List α) (f : α → Mach → Mach) (k : Nat) (h : ∀ a m, (f a m).rd k = m.rd k) (m : Mach) : (m.each l f).rd k = m.rd k := by
  unfold Mach.each
  induction l generalizing m with
  | nil => rfl
  | cons a l ih => rw [List.foldl_cons, ih, h]
theorem bringUp_frame (p : Page) (m : Mach) : Mach.RegsBut [] m (m.bringUp p) ∧ Mach.SameBut [.reg] m (m.bringUp p) := by
  unfold Mach.bringUp
  split
  · exact ⟨fun k _ => by simp, by simp [Mach.SameBut]⟩
  · exact ⟨fun _ _ => rfl, same_refl ..⟩
theorem powerUps_frame (l : List Nat) (m : Mach) : Mach.RegsBut [] m (m.each l Mach.powerUp) ∧ Mach.SameBut [.reg, .thm] m (m.each l Mach.powerUp) := by
  refine ⟨?_, same_each _ _ (fun a m => (powerUp_frame a m).2) _⟩
  intro k _
  exact each_rd _ _ _ (fun a m => (powerUp_frame a m).1 k (by simp)) _
theorem setDev_frame (st : DevSt) (m : Mach) : Mach.RegsBut [] m (m.setDev st) ∧ Mach.SameBut [.dev, .adm] m (m.setDev st) ∧ (m.setDev st).dev = { m.dev with st := st } := by
  refine ⟨fun k _ => by unfold Mach.rd; rw [setDev_reg], ?_, ?_⟩
  · unfold Mach.setDev Mach.logEvent; dsimp only; split <;> simp [Mach.SameBut]
  · unfold Mach.setDev
    split
    · rename_i h; rw [← eq_of_beq h]
    · unfold Mach.logEvent; simp
theorem Mach.dram_setDram_ne (m : Mach) (n j : Fin 4) (x : Drc) (h : j ≠ n) : (m.setDram n x).dram j = m.dram j := by
  have : j.val ≠ n.val := fun e => h (Fin.ext e)
  simp [Mach.setDram, Mach.dram, SMap.get_set_ne _ _ _ _ _ _ this]
theorem Mach.fur_setFur_ne (m : Mach) (n j : Nat) (x : Fur) (h : j ≠ n) : (m.setFur n x).fur j = m.fur j := by
  simp [Mach.setFur, Mach.fur, SMap.get_set_ne _ _ _ _ _ _ h]
theorem Mach.region_setRegion_ne (m : Mach) (n j : Nat) (x : Region) (h : j ≠ n) : (m.setRegion n x).region j = m.region j := by
  simp [Mach.setRegion, Mach.region, SMap.get_set_ne _ _ _ _ _ _ h]
theorem starting_of {m : Mach} {n : Nat} (h1 : m.dev.st = .adminReady) (h2 : m.dev.stage = n) : m.starting n = true := by
  simp [Mach.starting, h1, h2]
theorem fail_dev' (m : Mach) (c : Nat) (h : m.dev.st ≠ .failed) : (m.fail c).dev.st = .failed ∧ (m.fail c).dev.failCause = c := by
  unfold Mach.fail
  rw [if_neg (by simpa using h)]
  extract_lets a b d
  have hd : d.dev = b.dev := by
    simp only [d]; rw [Mach.each_dev]; intro p m; split <;> simp
  have hb : b.dev = { a.dev with st := .failed } := by
    simp only [b]; rw [Mach.dropHeld_dev, Mach.failCommands_dev]; exact (setDev_frame ..).2.2
  rw [Mach.devEvent_dev, hd, hb]
  exact ⟨rfl, rfl⟩
theorem rd64_bump64By_same (m : Mach) (k n : Nat) : (m.bump64By k n).rd64 k = m.rd64 k + BitVec.ofNat 64 n := by
  unfold Mach.bump64By Mach.rd64 Mach.touch
  dsimp only
  split <;> (try split) <;> simp [Mach.updReg, Mach.setHdr]
theorem rd64_bump64By_ne (m : Mach) (k j n : Nat) (h : j ≠ k) : (m.bump64By k n).rd64 j = m.rd64 j := by
  unfold Mach.bump64By Mach.rd64 Mach.touch
  dsimp only
  split <;> (try split) <;> simp [Mach.updReg, Mach.setHdr, SMap.get_set_ne _ _ _ _ _ _ h]
theorem rd64_of_c64 {a b : Mach} (h : b.reg.c64 = a.reg.c64) (k : Nat) : b.rd64 k = a.rd64 k := by unfold Mach.rd64; rw [h]
theorem rd_bump64By (m : Mach) (k n j : Nat) : (m.bump64By k n).rd j = m.rd j := by
  unfold Mach.bump64By Mach.touch; dsimp only; split <;> (try split) <;> rfl
theorem rd_raiseTo_ne (m : Mach) (k n t j : Nat) (h : j ≠ k) : (m.raiseTo k n t).rd j = m.rd j := by
  unfold Mach.raiseTo; split
  · exact Mach.rd_set_ne _ _ _ _ h
  · rfl
theorem perPort_get_set (x : PerPort α) (p q : Port) (v : α) : (x.set p v).get q = if q = p then v else x.get q := by
  cases p <;> cases q <;> rfl
theorem settleDev_same (m : Mach) : Mach.SameBut [.dev, .adm] m m.settleDev := by
  unfold Mach.settleDev; repeat' first | exact same_refl _ _ | exact (setDev_frame ..).2.1 | split
theorem settleDev_cause (m : Mach) : m.settleDev.dev.cause = m.dev.cause := by
  unfold Mach.settleDev; repeat' first | rfl | rw [(setDev_frame ..).2.2] | split

end Sys2Proof.Machine
end

