-- ==== Sys2Proof/Laws/Sig.lean ====
section
/-! SUPPORT. The test access port, the level of RESET_N and SVFLOOR: the operations that leave all three alone, which are all but the
few that the lemmas at the end name. -/

namespace Sys2Proof.Machine

-- One proof at a time: proofs that wait for each other would each hold a thread and its stack.
set_option Elab.async false

/-- What no command but a few changes. -/
def Mach.sig (m : Mach) : TapIr × Bool × Nat := (m.tap, m.dev.resetN, m.adm.svFloor)

@[simp] theorem Mach.updDev_sig (f) (m : Mach) (h : (f m.dev).resetN = m.dev.resetN) : (m.updDev f).sig = m.sig := by
  simp [Mach.sig, Mach.updDev, h]

@[simp] theorem Mach.updReg_sig (f) (m : Mach) : (m.updReg f).sig = m.sig := (rfl)

@[simp] theorem Mach.updPff_sig (f) (m : Mach) : (m.updPff f).sig = m.sig := (rfl)

@[simp] theorem Mach.updAdm_sig (f) (m : Mach) (h : (f m.adm).svFloor = m.adm.svFloor) : (m.updAdm f).sig = m.sig := by
  simp [Mach.sig, Mach.updAdm, h]

@[simp] theorem Mach.updQ_sig (f) (m : Mach) : (m.updQ f).sig = m.sig := (rfl)

@[simp] theorem Mach.updVol_sig (f) (m : Mach) : (m.updVol f).sig = m.sig := (rfl)

@[simp] theorem Mach.updBuf_sig (f) (m : Mach) : (m.updBuf f).sig = m.sig := (rfl)

@[simp] theorem Mach.updLamp_sig (f) (m : Mach) : (m.updLamp f).sig = m.sig := (rfl)

@[simp] theorem Mach.updFl_sig (f) (m : Mach) : (m.updFl f).sig = m.sig := (rfl)

@[simp] theorem Mach.updGln_sig (f) (m : Mach) : (m.updGln f).sig = m.sig := (rfl)

@[simp] theorem Mach.updHdl_sig (f) (m : Mach) : (m.updHdl f).sig = m.sig := (rfl)

@[simp] theorem Mach.updDrc_sig (f) (m : Mach) : (m.updDrc f).sig = m.sig := (rfl)

@[simp] theorem Mach.updKey_sig (f) (m : Mach) : (m.updKey f).sig = m.sig := (rfl)

@[simp] theorem Mach.updThm_sig (f) (m : Mach) : (m.updThm f).sig = m.sig := (rfl)

@[simp] theorem Mach.updAlm_sig (f) (m : Mach) : (m.updAlm f).sig = m.sig := (rfl)

@[simp] theorem Mach.updTwn_sig (f) (m : Mach) : (m.updTwn f).sig = m.sig := (rfl)

@[simp] theorem Mach.updPort_sig (p f) (m : Mach) : (m.updPort p f).sig = m.sig := (rfl)

@[simp] theorem Mach.send_sig (o) (m : Mach) : (m.send o).sig = m.sig := (rfl)

@[simp] theorem Mach.draw_sig (m : Mach) : m.draw.sig = m.sig := (rfl)

theorem Mach.when_sig (b f) (m : Mach) (h : ∀ m : Mach, (f m).sig = m.sig) : (m.when b f).sig = m.sig := by
  unfold Mach.when; split <;> simp [h]

theorem Mach.each_sig {α : Type} (l : List α) (f) (m : Mach) (h : ∀ a, ∀ m : Mach, (f a m).sig = m.sig) : (m.each l f).sig = m.sig := by
  unfold Mach.each
  induction l generalizing m with
  | nil => rfl
  | cons a l ih => rw [List.foldl_cons, ih, h]

theorem Mach.recorded_sig {a b : Mach} (h : Mach.Recorded a b) : b.sig = a.sig := by
  have := h.same
  simp only [Mach.SameBut, List.mem_cons, reduceCtorEq, List.mem_nil_iff, or_false, false_or, true_or] at this
  have ha : b.adm.svFloor = a.adm.svFloor := by rw [h.adm]
  simp [Mach.sig, this, ha]

@[simp] theorem Mach.wr_sig (k v) (m : Mach) : (m.wr k v).sig = m.sig := (rfl)

@[simp] theorem Mach.setHdr_sig (p h) (m : Mach) : (m.setHdr p h).sig = m.sig := (rfl)

@[simp] theorem Mach.setPageSt_sig (p h) (m : Mach) : (m.setPageSt p h).sig = m.sig := (rfl)

@[simp] theorem Mach.touch_sig (p) (m : Mach) : (m.touch p).sig = m.sig := by simp [Mach.sig]

@[simp] theorem Mach.set_sig (k v) (m : Mach) : (m.set k v).sig = m.sig := by simp [Mach.sig]

@[simp] theorem Mach.bumpBy_sig (k n) (m : Mach) : (m.bumpBy k n).sig = m.sig := by simp [Mach.sig]

@[simp] theorem Mach.bump_sig (k) (m : Mach) : (m.bump k).sig = m.sig := by simp [Mach.sig]

@[simp] theorem Mach.raiseTo_sig (k n t) (m : Mach) : (m.raiseTo k n t).sig = m.sig := by simp [Mach.sig]

@[simp] theorem Mach.bumpWrap_sig (k) (m : Mach) : (m.bumpWrap k).sig = m.sig := by simp [Mach.sig]

@[simp] theorem Mach.bump64By_sig (k n) (m : Mach) : (m.bump64By k n).sig = m.sig := by simp [Mach.sig]

@[simp] theorem Mach.bump64_sig (k) (m : Mach) : (m.bump64 k).sig = m.sig := by simp [Mach.sig]

@[simp] theorem Mach.wdrop_sig (a) (m : Mach) : (m.wdrop a).sig = m.sig := by simp [Mach.sig]

@[simp] theorem Mach.setFifo_sig (n x) (m : Mach) : (m.setFifo n x).sig = m.sig := (rfl)

@[simp] theorem Mach.setQp_sig (n x) (m : Mach) : (m.setQp n x).sig = m.sig := (rfl)

@[simp] theorem Mach.setCmd_sig (n x) (m : Mach) : (m.setCmd n x).sig = m.sig := (rfl)

@[simp] theorem Mach.setVol_sig (n x) (m : Mach) : (m.setVol n x).sig = m.sig := (rfl)

@[simp] theorem Mach.setRegion_sig (n x) (m : Mach) : (m.setRegion n x).sig = m.sig := (rfl)

@[simp] theorem Mach.setDesc_sig (n x) (m : Mach) : (m.setDesc n x).sig = m.sig := (rfl)

@[simp] theorem Mach.setChn_sig (n x) (m : Mach) : (m.setChn n x).sig = m.sig := (rfl)

@[simp] theorem Mach.setDie_sig (n x) (m : Mach) : (m.setDie n x).sig = m.sig := (rfl)

@[simp] theorem Mach.setBlk_sig (d b x) (m : Mach) : (m.setBlk d b x).sig = m.sig := (rfl)

@[simp] theorem Mach.setFur_sig (n x) (m : Mach) : (m.setFur n x).sig = m.sig := (rfl)

@[simp] theorem Mach.setDram_sig (n x) (m : Mach) : (m.setDram n x).sig = m.sig := (rfl)

@[simp] theorem Mach.setKslot_sig (n x) (m : Mach) : (m.setKslot n x).sig = m.sig := (rfl)

@[simp] theorem Mach.setSens_sig (n x) (m : Mach) : (m.setSens n x).sig = m.sig := (rfl)

@[simp] theorem Mach.setOpenF_sig (n x) (m : Mach) : (m.setOpenF n x).sig = m.sig := (rfl)

@[simp] theorem Mach.ite_sig (c : Prop) [Decidable c] (a b : Mach) : (if c then a else b).sig = if c then a.sig else b.sig := by
  split <;> rfl

@[simp] theorem Mach.pffCommit_sig (n : Fin 8) (frameOk : Bool) (ws : List Word) (m : Mach) : (Mach.pffCommit n frameOk ws m).sig = m.sig := by
  unfold Mach.pffCommit
  try lift_lets
  repeat' first
    | (intro x; first | (have hx : x.sig = m.sig := by
                            simp only [x]
                            repeat' (first | (simp [*]; done) | intro _ | split   | simp [*])
                         clear_value x) | clear_value x)
    | (simp [*]; done)
    | intro _
    | split
    | simp [*]

@[simp] theorem Mach.pffAccept_sig (n : Fin 8) (w : Word) (frameOk : Bool) (m : Mach) : (Mach.pffAccept n w frameOk m).sig = m.sig := by
  simp [Mach.pffAccept]

@[simp] theorem Mach.pffOversize_sig (n : Fin 8) (m : Mach) : (Mach.pffOversize n m).sig = m.sig := by
  simp [Mach.pffOversize]

@[simp] theorem Mach.pffPush_sig (n : Fin 8) (w : Word) (frameOk : Bool) (m : Mach) : (Mach.pffPush n w frameOk m).sig = m.sig := by
  unfold Mach.pffPush
  try lift_lets
  repeat' first
    | (intro x; first | (have hx : x.sig = m.sig := by
                            simp only [x]
                            repeat' (first | (simp [*]; done) | intro _ | split   | simp [*])
                         clear_value x) | clear_value x)
    | (simp [*]; done)
    | intro _
    | split
    | simp [*]

@[simp] theorem Mach.pffResume_sig (n : Fin 8) (m : Mach) : (Mach.pffResume n m).sig = m.sig := by
  unfold Mach.pffResume
  try lift_lets
  repeat' first
    | (intro x; first | (have hx : x.sig = m.sig := by
                            simp only [x]
                            repeat' (first | (simp [*]; done) | intro _ | split   | simp [*])
                         clear_value x) | clear_value x)
    | (simp [*]; done)
    | intro _
    | split
    | simp [*]

@[simp] theorem Mach.pffPacket_sig (n : Fin 8) (ws : List Word) (m : Mach) : (Mach.pffPacket n ws m).sig = m.sig := by
  simp [Mach.pffPacket]

@[simp] theorem Mach.pffAbort_sig (n : Fin 8) (m : Mach) : (Mach.pffAbort n m).sig = m.sig := by
  simp [Mach.pffAbort]

@[simp] theorem Mach.fifoPass_sig (n : Fin 8) (ws : List Word) (m : Mach) : (Mach.fifoPass n ws m).sig = m.sig := by
  unfold Mach.fifoPass
  try lift_lets
  repeat' first
    | (intro x; first
      | (have hx : x.sig = m.sig := (by
        simp only [x]
        repeat' (first | (simp [*]; done) | intro _ | split | rw [Mach.each_sig] | simp [*])); clear_value x)
      | (have hx : x.1.sig = m.sig := (by
        simp only [x]
        repeat' (first | (simp [*]; done) | intro _ | split | rw [Mach.each_sig] | simp [*])); clear_value x)
      | clear_value x)
    | (simp [*]; done)
    | intro _
    | split
    | (have h2 := congrArg (fun p => p.1.sig) ‹_ = (_, _)›; simp at h2; simp [*]; done)
    | rw [Mach.each_sig]
    | simp [*]

@[simp] theorem Mach.pffDrop_sig (n : Fin 8) (m : Mach) : (Mach.pffDrop n m).sig = m.sig := by
  simp [Mach.pffDrop]

@[simp] theorem Mach.pffPop_sig (n : Fin 8) (m : Mach) : (Mach.pffPop n m).1.sig = m.sig := by
  unfold Mach.pffPop
  try lift_lets
  repeat' first
    | (intro x; first | (have hx : x.sig = m.sig := by
                            simp only [x]
                            repeat' (first | (simp [*]; done) | intro _ | split   | simp [*])
                         clear_value x) | clear_value x)
    | (simp [*]; done)
    | intro _
    | split
    | simp [*]

@[simp] theorem Mach.pffRead_sig (a : Agent) (n : Fin 8) (m : Mach) : (Mach.pffRead a n m).1.sig = m.sig := by
  unfold Mach.pffRead
  repeat' first
    | (simp [*]; done)
    | intro _
    | split
    | simp [*]

@[simp] theorem Mach.pffShow_sig (n : Fin 8) (m : Mach) : (Mach.pffShow n m).sig = m.sig := by
  unfold Mach.pffShow
  try lift_lets
  repeat' first
    | (intro x; first | (have hx : x.sig = m.sig := by
                            simp only [x]
                            repeat' (first | (simp [*]; done) | intro _ | split   | simp [*])
                         clear_value x) | clear_value x)
    | (simp [*]; done)
    | intro _
    | split
    | simp [*]

@[simp] theorem Mach.logEvent_sig (l k) (m : Mach) : (m.logEvent l k).sig = m.sig := Mach.recorded_sig (recorded_logEvent ..)

@[simp] theorem Mach.almRelease_sig (m : Mach) : (Mach.almRelease m).sig = m.sig := by
  unfold Mach.almRelease
  try lift_lets
  repeat' first
    | (intro x; first
      | (have hx : x.sig = m.sig := (by
        simp only [x]
        repeat' (first | (simp [*]; done) | intro _ | split | rw [Mach.each_sig] | simp [*])); clear_value x)
      | (have hx : x.1.sig = m.sig := (by
        simp only [x]
        repeat' (first | (simp [*]; done) | intro _ | split | rw [Mach.each_sig] | simp [*])); clear_value x)
      | clear_value x)
    | (simp [*]; done)
    | intro _
    | split
    | (have h2 := congrArg (fun p => p.1.sig) ‹_ = (_, _)›; simp at h2; simp [*]; done)
    | rw [Mach.each_sig]
    | simp [*]

@[simp] theorem Mach.almTouch_sig (m : Mach) : m.almTouch.sig = m.sig := Mach.recorded_sig (recorded_almTouch m)

@[simp] theorem Mach.almPut_sig (s r) (m : Mach) : (m.almPut s r).sig = m.sig := Mach.recorded_sig (recorded_almPut ..)

@[simp] theorem Mach.almSealed_sig (r) (m : Mach) : (m.almSealed r).sig = m.sig := Mach.recorded_sig (recorded_almSealed ..)

@[simp] theorem Mach.almSeal_sig (m : Mach) : m.almSeal.sig = m.sig := Mach.recorded_sig (recorded_almSeal m)

theorem Mach.almPlace_sig {mk : Word → AlmRec} {m : Mach} {r : Mach × Nat} (h : m.almPlace mk = some r) : r.1.sig = m.sig := by
  unfold Mach.almPlace at h
  dsimp only at h
  split at h
  · cases h; simp
  · split at h
    · obtain ⟨e, -, rfl⟩ := Option.map_eq_some_iff.mp h
      simp
    · cases h

@[simp] theorem Mach.errBit_sig (p i) (m : Mach) : (m.errBit p i).sig = m.sig := (rfl)

@[simp] theorem Mach.almNew_sig (isEvent : Bool) (mk : Word → AlmRec) (m : Mach) : (Mach.almNew isEvent mk m).sig = m.sig := by
  unfold Mach.almNew
  dsimp only
  split
  · rename_i h
    have := Mach.almPlace_sig (h := h)
    dsimp only at this
    repeat' first | (simpa using this) | split
  · split
    · simp
    · split
      · rename_i h
        have := Mach.almPlace_sig (h := h)
        simpa using this
      · simp

@[simp] theorem Mach.almPersist1_sig (r) (m : Mach) : (m.almPersist1 r).sig = m.sig := Mach.recorded_sig (recorded_almPersist1 ..)

@[simp] theorem Mach.almMark_sig (r) (m : Mach) : (m.almMark r).sig = m.sig := Mach.recorded_sig (recorded_almMark ..)

@[simp] theorem Mach.almWriteAll_sig (m : Mach) : m.almWriteAll.sig = m.sig := Mach.recorded_sig (recorded_almWriteAll m)

@[simp] theorem Mach.almTime_sig (m : Mach) : m.almTime.sig = m.sig := Mach.recorded_sig (recorded_almTime m)

@[simp] theorem Mach.almFlush_sig (m : Mach) : m.almFlush.sig = m.sig := Mach.recorded_sig (recorded_almFlush m)

@[simp] theorem Mach.almFlushPending_sig (m : Mach) : m.almFlushPending.sig = m.sig := Mach.recorded_sig (recorded_almFlushPending m)

@[simp] theorem Mach.almAfter_sig (r) (m : Mach) : (m.almAfter r).sig = m.sig := Mach.recorded_sig (recorded_almAfter ..)

@[simp] theorem Mach.event_sig (a b c d e f) (m : Mach) : (m.event a b c d e f).sig = m.sig := Mach.recorded_sig (recorded_event ..)

@[simp] theorem Mach.devEvent_sig (a b c d) (m : Mach) : (m.devEvent a b c d).sig = m.sig := Mach.recorded_sig (recorded_devEvent ..)

@[simp] theorem Mach.raiseAs_sig (a b c d) (m : Mach) : (m.raiseAs a b c d).sig = m.sig := by
  rw [Mach.recorded_sig (recorded_raiseAs m a b c d)]; rfl

@[simp] theorem Mach.raise_sig (b c d) (m : Mach) : (m.raise b c d).sig = m.sig := Mach.raiseAs_sig ..

@[simp] theorem Mach.observe_sig (q b v) (m : Mach) : (m.observe q b v).sig = m.sig := Mach.recorded_sig (recorded_observe ..)

@[simp] theorem Mach.snapshot1_sig (q) (m : Mach) : (Mach.snapshot1 q m).sig = m.sig := Mach.recorded_sig (recorded_snapshot1 ..)

@[simp] theorem Mach.snapshots_sig (m : Mach) : m.snapshots.sig = m.sig := Mach.recorded_sig (recorded_snapshots m)

@[simp] theorem Mach.almNormal_sig (m : Mach) : m.almNormal.sig = m.sig := Mach.recorded_sig (recorded_almNormal m)

@[simp] theorem Mach.twnPlain_sig (type : Nat) (words : List Nat) (m : Mach) : (Mach.twnPlain type words m).sig = m.sig := by
  simp [Mach.twnPlain]

@[simp] theorem Mach.twnPut_sig (f : Frame) (m : Mach) : (Mach.twnPut f m).sig = m.sig := by
  unfold Mach.twnPut
  try lift_lets
  repeat' first
    | (intro x; first | (have hx : x.sig = m.sig := by
                            simp only [x]
                            repeat' (first | (simp [*]; done) | intro _ | split   | simp [*])
                         clear_value x) | clear_value x)
    | (simp [*]; done)
    | intro _
    | split
    | simp [*]

@[simp] theorem Mach.twnGo_sig (f : Frame) (m : Mach) : (Mach.twnGo f m).sig = m.sig := by
  simp [Mach.twnGo]

theorem Mach.twnNext_sig (n : Nat) (m : Mach) : (Mach.twnNext n m).sig = m.sig := by
  induction n generalizing m with
  | zero => simp [Mach.twnNext]
  | succ n ih =>
    unfold Mach.twnNext
    split
    · simp
    · lift_lets
      intro x
      have hx : x.sig = m.sig := by
        simp only [x]
        rw [Mach.each_sig]
        intro a m
        simp
      clear_value x
      split
      · rw [ih]; simp [hx]
      · simp [hx]

@[simp] theorem Mach.twnQueue_sig (x : TxOpen) (m : Mach) : (Mach.twnQueue x m).sig = m.sig := by
  unfold Mach.twnQueue
  split
  · simp
  · rw [Mach.twnNext_sig]; simp

@[simp] theorem Mach.twnSend_sig (type flags xid idx : Nat) (words : List Nat) (data : BitVec 2048) (m : Mach) : (Mach.twnSend type flags xid idx words data m).sig = m.sig := by
  simp [Mach.twnSend]

@[simp] theorem Mach.twnBegin_sig (type flags xid lbs : Nat) (words : List Nat) (m : Mach) : (Mach.twnBegin type flags xid lbs words m).sig = m.sig := by
  simp [Mach.twnBegin]

@[simp] theorem Mach.twnFeed_sig (xid : Nat) (f : TxOpen → TxOpen) (m : Mach) : (Mach.twnFeed xid f m).sig = m.sig := by
  unfold Mach.twnFeed
  rw [Mach.twnNext_sig]; simp

@[simp] theorem Mach.twnForget_sig (s : Nat) (m : Mach) : (Mach.twnForget s m).sig = m.sig := by
  unfold Mach.twnForget
  try lift_lets
  repeat' first
    | (intro x; first | (have hx : x.sig = m.sig := by
                            simp only [x]
                            repeat' (first | (simp [*]; done) | intro _ | split | rw [Mach.each_sig]  | simp [*])
                         clear_value x) | clear_value x)
    | (simp [*]; done)
    | intro _
    | split
    | rw [Mach.each_sig]
    | simp [*]

@[simp] theorem Mach.twnDrain_sig (m : Mach) : (Mach.twnDrain m).sig = m.sig := by
  unfold Mach.twnDrain
  repeat' first
    | (simp [*]; done)
    | intro _
    | split
    | rw [Mach.each_sig]
    | simp [*]

@[simp] theorem Mach.twnResend_sig (seq : Nat) (m : Mach) : (Mach.twnResend seq m).sig = m.sig := by
  unfold Mach.twnResend
  repeat' first
    | (simp [*]; done)
    | intro _
    | split
    | rw [Mach.each_sig]
    | simp [*]

@[simp] theorem Mach.twnAcked_sig (ack : Nat) (m : Mach) : (Mach.twnAcked ack m).sig = m.sig := by
  simp [Mach.twnAcked]

@[simp] theorem Mach.twnXid_sig (w : TxFor) (m : Mach) : (Mach.twnXid w m).1.sig = m.sig := by
  simp [Mach.twnXid]

@[simp] theorem Mach.twnData_sig (xid off : Nat) (d : Block) (m : Mach) : (Mach.twnData xid off d m).sig = m.sig := by
  unfold Mach.twnData
  try lift_lets
  repeat' first
    | (intro x; first | (have hx : x.sig = m.sig := by
                            simp only [x]
                            repeat' (first | (simp [*]; done) | intro _ | split   | simp [*])
                         clear_value x) | clear_value x)
    | (simp [*]; done)
    | intro _
    | split
    | simp [*]

@[simp] theorem Mach.twnCtl_sig (ws : List Nat) (m : Mach) : (Mach.twnCtl ws m).sig = m.sig := by
  unfold Mach.twnCtl
  try lift_lets
  repeat' first
    | (intro x; first
      | (have hx : x.sig = m.sig := (by
        simp only [x]
        repeat' (first | (simp [*]; done) | intro _ | split | rw [Mach.each_sig] | simp [*])); clear_value x)
      | (have hx : x.1.sig = m.sig := (by
        simp only [x]
        repeat' (first | (simp [*]; done) | intro _ | split | rw [Mach.each_sig] | simp [*])); clear_value x)
      | clear_value x)
    | (simp [*]; done)
    | intro _
    | split
    | (have h2 := congrArg (fun p => p.1.sig) ‹_ = (_, _)›; simp at h2; simp [*]; done)
    | rw [Mach.each_sig]
    | simp [*]

@[simp] theorem Mach.twnCtrl_sig (op : Nat) (v : Vid) (arg fence role size layout : Nat) (m : Mach) : (Mach.twnCtrl op v arg fence role size layout m).sig = m.sig := by
  simp [Mach.twnCtrl]

@[simp] theorem Mach.twnWack_sig (xid : Nat) (v : Vid) (status : Nat) (m : Mach) : (Mach.twnWack xid v status m).sig = m.sig := by
  simp [Mach.twnWack]

@[simp] theorem TwinWait.reply_sig (w : TwinWait) (f : Port → Mach → Mach) (m : Mach) (h : ∀ p, ∀ m : Mach, (f p m).sig = m.sig) :
    (w.reply f m).sig = m.sig := by
  unfold TwinWait.reply; split <;> simp [h]

@[simp] theorem Mach.twnAwait_sig (w : TwinWait) (m : Mach) : (Mach.twnAwait w m).sig = m.sig := by
  simp [Mach.twnAwait]

@[simp] theorem Mach.twnUnwait_sig (w : TwinWait) (m : Mach) : (Mach.twnUnwait w m).sig = m.sig := by
  simp [Mach.twnUnwait]

@[simp] theorem Mach.markDirty_sig (v : Vid) (rs : List Nat) (m : Mach) : (Mach.markDirty v rs m).sig = m.sig := by
  simp [Mach.markDirty]

@[simp] theorem Mach.markWritten_sig (v : Vid) (slba n : Nat) (m : Mach) : (Mach.markWritten v slba n m).sig = m.sig := by
  simp [Mach.markWritten]

@[simp] theorem Mach.takeSlot_sig (c : Cmd) (m : Mach) : (Mach.takeSlot c m).1.sig = m.sig := by
  simp [Mach.takeSlot]

@[simp] theorem Mach.freeSlot_sig (s : Nat) (m : Mach) : (Mach.freeSlot s m).sig = m.sig := by
  simp [Mach.freeSlot]

@[simp] theorem Mach.lockPeak_sig (m : Mach) : (Mach.lockPeak m).sig = m.sig := by
  simp [Mach.lockPeak]

@[simp] theorem Mach.twinOpen_sig (s : Nat) (m : Mach) : (Mach.twinOpen s m).sig = m.sig := by
  unfold Mach.twinOpen
  try lift_lets
  repeat' first
    | (intro x; first | (have hx : x.sig = m.sig := by
                            simp only [x]
                            repeat' (first | (simp [*]; done) | intro _ | split   | simp [*])
                         clear_value x) | clear_value x)
    | (simp [*]; done)
    | intro _
    | split
    | simp [*]

@[simp] theorem Mach.admitCmd_sig (s : Nat) (m : Mach) : (Mach.admitCmd s m).sig = m.sig := by
  simp [Mach.admitCmd]

@[simp] theorem Mach.admitWaiter_sig (s : Nat) (m : Mach) : (Mach.admitWaiter s m).sig = m.sig := by
  simp [Mach.admitWaiter]

@[simp] theorem Mach.release_sig (s : Nat) (m : Mach) : (Mach.release s m).sig = m.sig := by
  unfold Mach.release
  try lift_lets
  repeat' first
    | (intro x; first | (have hx : x.sig = m.sig := by
                            simp only [x]
                            repeat' (first | (simp [*]; done) | intro _ | split | rw [Mach.each_sig]  | simp [*])
                         clear_value x) | clear_value x)
    | (simp [*]; done)
    | intro _
    | split
    | rw [Mach.each_sig]
    | simp [*]

@[simp] theorem Mach.enterLock_sig (s : Nat) (m : Mach) : (Mach.enterLock s m).sig = m.sig := by
  unfold Mach.enterLock
  try lift_lets
  repeat' first
    | (intro x; first | (have hx : x.sig = m.sig := by
                            simp only [x]
                            repeat' (first | (simp [*]; done) | intro _ | split   | simp [*])
                         clear_value x) | clear_value x)
    | (simp [*]; done)
    | intro _
    | split
    | simp [*]

@[simp] theorem Mach.post_sig (q : Fin 256) (tag sqhd status dw2 dw3 : Nat) (m : Mach) : (Mach.post q tag sqhd status dw2 dw3 m).sig = m.sig := by
  unfold Mach.post
  try lift_lets
  repeat' first
    | (intro x; first | (have hx : x.sig = m.sig := by
                            simp only [x]
                            repeat' (first | (simp [*]; done) | intro _ | split   | simp [*])
                         clear_value x) | clear_value x)
    | (simp [*]; done)
    | intro _
    | split
    | simp [*]

@[simp] theorem Mach.markCovered_sig (ids : List Nat) (m : Mach) : (Mach.markCovered ids m).sig = m.sig := by
  unfold Mach.markCovered
  try lift_lets
  repeat' first
    | (intro x; first | (have hx : x.sig = m.sig := by
                            simp only [x]
                            repeat' (first | (simp [*]; done) | intro _ | split   | simp [*])
                         clear_value x) | clear_value x)
    | (simp [*]; done)
    | intro _
    | split
    | simp [*]

@[simp] theorem Mach.forgetReads_sig (s : Nat) (m : Mach) : (Mach.forgetReads s m).sig = m.sig := by
  unfold Mach.forgetReads
  repeat' first
    | (simp [*]; done)
    | intro _
    | split
    | simp [*]

@[simp] theorem Mach.complete_sig (s status dw2 dw3 : Nat) (m : Mach) : (Mach.complete s status dw2 dw3 m).sig = m.sig := by
  unfold Mach.complete
  try lift_lets
  repeat' first
    | (intro x; first | (have hx : x.sig = m.sig := by
                            simp only [x]
                            repeat' (first | (simp [*]; done) | intro _ | split   | simp [*])
                         clear_value x) | clear_value x)
    | (simp [*]; done)
    | intro _
    | split
    | simp [*]

@[simp] theorem Mach.settleRx_sig (m : Mach) : (Mach.settleRx m).sig = m.sig := by
  unfold Mach.settleRx
  try lift_lets
  repeat' first
    | (intro x; first | (have hx : x.sig = m.sig := by
                            simp only [x]
                            repeat' (first | (simp [*]; done) | intro _ | split | rw [Mach.each_sig]  | simp [*])
                         clear_value x) | clear_value x)
    | (simp [*]; done)
    | intro _
    | split
    | rw [Mach.each_sig]
    | simp [*]

@[simp] theorem Mach.settleCovers_sig (m : Mach) : (Mach.settleCovers m).sig = m.sig := by
  unfold Mach.settleCovers
  try lift_lets
  repeat' first
    | (intro x; first | (have hx : x.sig = m.sig := by
                            simp only [x]
                            repeat' (first | (simp [*]; done) | intro _ | split | rw [Mach.each_sig]  | simp [*])
                         clear_value x) | clear_value x)
    | (simp [*]; done)
    | intro _
    | split
    | rw [Mach.each_sig]
    | simp [*]

@[simp] theorem Mach.mapCovers_sig (f : Cover → Option Cover) (m : Mach) : (Mach.mapCovers f m).sig = m.sig := by
  unfold Mach.mapCovers
  try lift_lets
  repeat' first
    | (intro x; first | (have hx : x.sig = m.sig := by
                            simp only [x]
                            repeat' (first | (simp [*]; done) | intro _ | split | rw [Mach.each_sig]  | simp [*])
                         clear_value x) | clear_value x)
    | (simp [*]; done)
    | intro _
    | split
    | rw [Mach.each_sig]
    | simp [*]

@[simp] theorem Mach.ask_sig (b : HBody) (m : Mach) : (Mach.ask b m).1.sig = m.sig := by
  simp [Mach.ask]

@[simp] theorem Mach.askFor_sig (b : HBody) (root : Bool) (w : Waiter) (m : Mach) : (Mach.askFor b root w m).sig = m.sig := by
  simp [Mach.askFor]

@[simp] theorem Mach.askDefinition_sig (w : Waiter) (m : Mach) : (Mach.askDefinition w m).sig = m.sig := by
  simp [Mach.askDefinition]

@[simp] theorem Mach.raiseWindow_sig (m : Mach) : (Mach.raiseWindow m).sig = m.sig := by
  unfold Mach.raiseWindow
  try lift_lets
  repeat' first
    | (intro x; first
      | (have hx : x.sig = m.sig := (by
        simp only [x]
        repeat' (first | (simp [*]; done) | intro _ | split | rw [Mach.each_sig] | simp [*])); clear_value x)
      | (have hx : x.1.sig = m.sig := (by
        simp only [x]
        repeat' (first | (simp [*]; done) | intro _ | split | rw [Mach.each_sig] | simp [*])); clear_value x)
      | clear_value x)
    | (simp [*]; done)
    | intro _
    | split
    | (have h2 := congrArg (fun p => p.1.sig) ‹_ = (_, _)›; simp at h2; simp [*]; done)
    | rw [Mach.each_sig]
    | simp [*]

@[simp] theorem Mach.markSeg_sig (s : Nat) (m : Mach) : (Mach.markSeg s m).sig = m.sig := by
  simp [Mach.markSeg]

@[simp] theorem Mach.markTable_sig (off : Nat) (m : Mach) : (Mach.markTable off m).sig = m.sig := by
  simp [Mach.markTable]

@[simp] theorem Mach.putFur_sig (f : Nat) (x : Fur) (m : Mach) : (Mach.putFur f x m).sig = m.sig := by
  simp [Mach.putFur]

@[simp] theorem Mach.putBlk_sig (d b : Nat) (x : Blk) (m : Mach) : (Mach.putBlk d b x m).sig = m.sig := by
  simp [Mach.putBlk]

@[simp] theorem Mach.putBad_sig (d : Nat) (x : BadTab) (m : Mach) : (Mach.putBad d x m).sig = m.sig := by
  unfold Mach.putBad
  try lift_lets
  repeat' first
    | (intro x; first
      | (have hx : x.sig = m.sig := (by
        simp only [x]
        repeat' (first | (simp [*]; done) | intro _ | split | rw [Mach.each_sig] | simp [*])); clear_value x)
      | (have hx : x.1.sig = m.sig := (by
        simp only [x]
        repeat' (first | (simp [*]; done) | intro _ | split | rw [Mach.each_sig] | simp [*])); clear_value x)
      | clear_value x)
    | (simp [*]; done)
    | intro _
    | split
    | (have h2 := congrArg (fun p => p.1.sig) ‹_ = (_, _)›; simp at h2; simp [*]; done)
    | rw [Mach.each_sig]
    | simp [*]

@[simp] theorem Mach.senses_sig (d b n : Nat) (m : Mach) : (Mach.senses d b n m).sig = m.sig := by
  simp [Mach.senses]

@[simp] theorem Mach.enterExhausted_sig (m : Mach) : (Mach.enterExhausted m).sig = m.sig := by
  unfold Mach.enterExhausted
  repeat' first
    | (simp [*]; done)
    | intro _
    | split
    | rw [Mach.each_sig]
    | simp [*]

@[simp] theorem Mach.urgency_sig (m : Mach) : (Mach.urgency m).sig = m.sig := by
  unfold Mach.urgency
  try lift_lets
  repeat' first
    | (intro x; first | (have hx : x.sig = m.sig := by
                            simp only [x]
                            repeat' (first | (simp [*]; done) | intro _ | split   | simp [*])
                         clear_value x) | clear_value x)
    | (simp [*]; done)
    | intro _
    | split
    | simp [*]

@[simp] theorem Mach.addDebt_sig (d : Int) (m : Mach) : (Mach.addDebt d m).sig = m.sig := by
  simp [Mach.addDebt]

@[simp] theorem Mach.endVictim_sig (f : Nat) (m : Mach) : (Mach.endVictim f m).sig = m.sig := by
  simp [Mach.endVictim]

@[simp] theorem Mach.releaseFur_sig (f : Nat) (m : Mach) : (Mach.releaseFur f m).sig = m.sig := by
  simp [Mach.releaseFur]

@[simp] theorem Mach.validUp_sig (f : Nat) (m : Mach) : (Mach.validUp f m).sig = m.sig := by
  simp [Mach.validUp]

@[simp] theorem Mach.validDown_sig (f : Nat) (m : Mach) : (Mach.validDown f m).sig = m.sig := by
  simp [Mach.validDown]

@[simp] theorem Mach.closeFur_sig (f : Nat) (m : Mach) : (Mach.closeFur f m).sig = m.sig := by
  simp [Mach.closeFur]

@[simp] theorem Mach.allReadOnly_sig (m : Mach) : (Mach.allReadOnly m).sig = m.sig := by
  unfold Mach.allReadOnly
  repeat' first
    | (simp [*]; done)
    | intro _
    | split
    | rw [Mach.each_sig]
    | simp [*]

@[simp] theorem Mach.spareUpdate_sig (m : Mach) : (Mach.spareUpdate m).sig = m.sig := by
  unfold Mach.spareUpdate
  try lift_lets
  repeat' first
    | (intro x; first | (have hx : x.sig = m.sig := by
                            simp only [x]
                            repeat' (first | (simp [*]; done) | intro _ | split   | simp [*])
                         clear_value x) | clear_value x)
    | (simp [*]; done)
    | intro _
    | split
    | simp [*]

@[simp] theorem Mach.retireFur_sig (f : Nat) (m : Mach) : (Mach.retireFur f m).sig = m.sig := by
  simp [Mach.retireFur]

@[simp] theorem Mach.growBad_sig (d b cause : Nat) (m : Mach) : (Mach.growBad d b cause m).sig = m.sig := by
  unfold Mach.growBad
  try lift_lets
  repeat' first
    | (intro x; first | (have hx : x.sig = m.sig := by
                            simp only [x]
                            repeat' (first | (simp [*]; done) | intro _ | split   | simp [*])
                         clear_value x) | clear_value x)
    | (simp [*]; done)
    | intro _
    | split
    | simp [*]

@[simp] theorem Mach.recordBad_sig (d b : Nat) (e : BadEnd) (m : Mach) : (Mach.recordBad d b e m).sig = m.sig := by
  unfold Mach.recordBad
  try lift_lets
  repeat' first
    | (intro x; first
      | (have hx : x.sig = m.sig := (by
        simp only [x]
        repeat' (first | (simp [*]; done) | intro _ | split | rw [Mach.each_sig] | simp [*])); clear_value x)
      | (have hx : x.1.sig = m.sig := (by
        simp only [x]
        repeat' (first | (simp [*]; done) | intro _ | split | rw [Mach.each_sig] | simp [*])); clear_value x)
      | clear_value x)
    | (simp [*]; done)
    | intro _
    | split
    | (have h2 := congrArg (fun p => p.1.sig) ‹_ = (_, _)›; simp at h2; simp [*]; done)
    | rw [Mach.each_sig]
    | simp [*]

@[simp] theorem Mach.memberBad_sig (c : Chan) (f cause : Nat) (m : Mach) : (Mach.memberBad c f cause m).sig = m.sig := by
  unfold Mach.memberBad
  try lift_lets
  repeat' first
    | (intro x; first | (have hx : x.sig = m.sig := by
                            simp only [x]
                            repeat' (first | (simp [*]; done) | intro _ | split   | simp [*])
                         clear_value x) | clear_value x)
    | (simp [*]; done)
    | intro _
    | split
    | simp [*]

@[simp] theorem Mach.substitute_sig (f : Nat) (c : Chan) (m : Mach) : (Mach.substitute f c m).sig = m.sig := by
  unfold Mach.substitute
  try lift_lets
  repeat' first
    | (intro x; first | (have hx : x.sig = m.sig := by
                            simp only [x]
                            repeat' (first | (simp [*]; done) | intro _ | split   | simp [*])
                         clear_value x) | clear_value x)
    | (simp [*]; done)
    | intro _
    | split
    | simp [*]

@[simp] theorem Mach.makeFallow_sig (f : Nat) (m : Mach) : (Mach.makeFallow f m).sig = m.sig := by
  unfold Mach.makeFallow
  try lift_lets
  repeat' first
    | (intro x; first | (have hx : x.sig = m.sig := by
                            simp only [x]
                            repeat' (first | (simp [*]; done) | intro _ | split | rw [Mach.each_sig]  | simp [*])
                         clear_value x) | clear_value x)
    | (simp [*]; done)
    | intro _
    | split
    | rw [Mach.each_sig]
    | simp [*]

@[simp] theorem Mach.takeFrame_sig (key : Nat) (m : Mach) : (Mach.takeFrame key m).sig = m.sig := by
  unfold Mach.takeFrame
  repeat' first
    | (simp [*]; done)
    | intro _
    | split
    | simp [*]

@[simp] theorem Mach.addPoison_sig (dpa len src : Nat) (m : Mach) : (Mach.addPoison dpa len src m).sig = m.sig := by
  unfold Mach.addPoison
  by_cases h : m.adm.poison.length < 1024 <;> simp [Mach.updAdm, h, Mach.sig]

@[simp] theorem Mach.dropPoison_sig (p : Nat × Nat × Nat → Bool) (m : Mach) : (Mach.dropPoison p m).sig = m.sig := by
  simp [Mach.dropPoison]

@[simp] theorem Mach.unlose_sig (key frame page line : Nat) (m : Mach) : (Mach.unlose key frame page line m).sig = m.sig := by
  unfold Mach.unlose
  repeat' first
    | (simp [*]; done)
    | intro _
    | split
    | simp [*]

@[simp] theorem Mach.loseLine_sig (frame page line : Nat) (m : Mach) : (Mach.loseLine frame page line m).sig = m.sig := by
  unfold Mach.loseLine
  repeat' first
    | (simp [*]; done)
    | intro _
    | split
    | simp [*]

@[simp] theorem Mach.putLine_sig (key frame page line : Nat) (d : Line) (m : Mach) : (Mach.putLine key frame page line d m).sig = m.sig := by
  simp [Mach.putLine]

@[simp] theorem Mach.putPage_sig (key frame page : Nat) (d : Block) (m : Mach) : (Mach.putPage key frame page d m).sig = m.sig := by
  unfold Mach.putPage
  repeat' first
    | (simp [*]; done)
    | intro _
    | split
    | rw [Mach.each_sig]
    | simp [*]

@[simp] theorem Mach.frameCheck_sig (key : Nat) (m : Mach) : (Mach.frameCheck key m).sig = m.sig := by
  unfold Mach.frameCheck
  try lift_lets
  repeat' first
    | (intro x; first | (have hx : x.sig = m.sig := by
                            simp only [x]
                            repeat' (first | (simp [*]; done) | intro _ | split   | simp [*])
                         clear_value x) | clear_value x)
    | (simp [*]; done)
    | intro _
    | split
    | simp [*]

@[simp] theorem Mach.setLnt_sig (i : Nat) (x : LntEnt) (m : Mach) : (Mach.setLnt i x m).sig = m.sig := by
  simp [Mach.setLnt]

@[simp] theorem Mach.lntInstall_sig (key : Nat) (changed : Bool) (m : Mach) : (Mach.lntInstall key changed m).sig = m.sig := by
  unfold Mach.lntInstall
  try lift_lets
  repeat' first
    | (intro x; first | (have hx : x.sig = m.sig := by
                            simp only [x]
                            repeat' (first | (simp [*]; done) | intro _ | split   | simp [*])
                         clear_value x) | clear_value x)
    | (simp [*]; done)
    | intro _
    | split
    | simp [*]

@[simp] theorem Mach.lntUpdate_sig (key : Nat) (changed : Bool) (m : Mach) : (Mach.lntUpdate key changed m).sig = m.sig := by
  unfold Mach.lntUpdate
  repeat' first
    | (simp [*]; done)
    | intro _
    | split
    | simp [*]

@[simp] theorem Mach.putDesc_sig (key : Nat) (d : Desc) (m : Mach) : (Mach.putDesc key d m).sig = m.sig := by
  simp [Mach.putDesc]

@[simp] theorem Mach.capCheck_sig (m : Mach) : (Mach.capCheck m).sig = m.sig := by
  simp [Mach.capCheck]

@[simp] theorem Mach.taint_sig (key p : Nat) (ext : Bool) (m : Mach) : (Mach.taint key p ext m).sig = m.sig := by
  unfold Mach.taint
  try lift_lets
  repeat' first
    | (intro x; first | (have hx : x.sig = m.sig := by
                            simp only [x]
                            repeat' (first | (simp [*]; done) | intro _ | split   | simp [*])
                         clear_value x) | clear_value x)
    | (simp [*]; done)
    | intro _
    | split
    | simp [*]

@[simp] theorem Mach.untaint_sig (key p : Nat) (m : Mach) : (Mach.untaint key p m).sig = m.sig := by
  unfold Mach.untaint
  try lift_lets
  repeat' first
    | (intro x; first | (have hx : x.sig = m.sig := by
                            simp only [x]
                            repeat' (first | (simp [*]; done) | intro _ | split   | simp [*])
                         clear_value x) | clear_value x)
    | (simp [*]; done)
    | intro _
    | split
    | simp [*]

@[simp] theorem Mach.taintBlock_sig (key : Nat) (m : Mach) : (Mach.taintBlock key m).sig = m.sig := by
  unfold Mach.taintBlock
  repeat' first
    | (simp [*]; done)
    | intro _
    | split
    | simp [*]

@[simp] theorem Mach.darken_sig (key p : Nat) (m : Mach) : (Mach.darken key p m).sig = m.sig := by
  simp [Mach.darken]

@[simp] theorem Mach.pendlCheck_sig (key mu : Nat) (m : Mach) : (Mach.pendlCheck key mu m).sig = m.sig := by
  simp [Mach.pendlCheck]

@[simp] theorem Mach.pendlRange_sig (v : Vid) (slba n : Nat) (m : Mach) : (Mach.pendlRange v slba n m).sig = m.sig := by
  unfold Mach.pendlRange
  repeat' first
    | (simp [*]; done)
    | intro _
    | split
    | rw [Mach.each_sig]
    | simp [*]

@[simp] theorem Mach.pendlOf_sig (s off : Nat) (m : Mach) : (Mach.pendlOf s off m).sig = m.sig := by
  unfold Mach.pendlOf
  try lift_lets
  repeat' first
    | (intro x; first
      | (have hx : x.sig = m.sig := (by
        simp only [x]
        repeat' (first | (simp [*]; done) | intro _ | split | rw [Mach.each_sig] | simp [*])); clear_value x)
      | (have hx : x.1.sig = m.sig := (by
        simp only [x]
        repeat' (first | (simp [*]; done) | intro _ | split | rw [Mach.each_sig] | simp [*])); clear_value x)
      | clear_value x)
    | (simp [*]; done)
    | intro _
    | split
    | (have h2 := congrArg (fun p => p.1.sig) ‹_ = (_, _)›; simp at h2; simp [*]; done)
    | rw [Mach.each_sig]
    | simp [*]

@[simp] theorem Mach.pendwCheck_sig (key mu : Nat) (m : Mach) : (Mach.pendwCheck key mu m).sig = m.sig := by
  unfold Mach.pendwCheck
  try lift_lets
  repeat' first
    | (intro x; first
      | (have hx : x.sig = m.sig := (by
        simp only [x]
        repeat' (first | (simp [*]; done) | intro _ | split | rw [Mach.each_sig] | simp [*])); clear_value x)
      | (have hx : x.1.sig = m.sig := (by
        simp only [x]
        repeat' (first | (simp [*]; done) | intro _ | split | rw [Mach.each_sig] | simp [*])); clear_value x)
      | clear_value x)
    | (simp [*]; done)
    | intro _
    | split
    | (have h2 := congrArg (fun p => p.1.sig) ‹_ = (_, _)›; simp at h2; simp [*]; done)
    | rw [Mach.each_sig]
    | simp [*]

@[simp] theorem Mach.wbClear_sig (s k p : Nat) (m : Mach) : (Mach.wbClear s k p m).sig = m.sig := by
  unfold Mach.wbClear
  try lift_lets
  repeat' first
    | (intro x; first
      | (have hx : x.sig = m.sig := (by
        simp only [x]
        repeat' (first | (simp [*]; done) | intro _ | split | rw [Mach.each_sig] | simp [*])); clear_value x)
      | (have hx : x.1.sig = m.sig := (by
        simp only [x]
        repeat' (first | (simp [*]; done) | intro _ | split | rw [Mach.each_sig] | simp [*])); clear_value x)
      | clear_value x)
    | (simp [*]; done)
    | intro _
    | split
    | (have h2 := congrArg (fun p => p.1.sig) ‹_ = (_, _)›; simp at h2; simp [*]; done)
    | rw [Mach.each_sig]
    | simp [*]

@[simp] theorem Mach.wbUndo_sig (s k p : Nat) (m : Mach) : (Mach.wbUndo s k p m).sig = m.sig := by
  unfold Mach.wbUndo
  try lift_lets
  repeat' first
    | (intro x; first
      | (have hx : x.sig = m.sig := (by
        simp only [x]
        repeat' (first | (simp [*]; done) | intro _ | split | rw [Mach.each_sig] | simp [*])); clear_value x)
      | (have hx : x.1.sig = m.sig := (by
        simp only [x]
        repeat' (first | (simp [*]; done) | intro _ | split | rw [Mach.each_sig] | simp [*])); clear_value x)
      | clear_value x)
    | (simp [*]; done)
    | intro _
    | split
    | (have h2 := congrArg (fun p => p.1.sig) ‹_ = (_, _)›; simp at h2; simp [*]; done)
    | rw [Mach.each_sig]
    | simp [*]

@[simp] theorem Mach.wbAbandon_sig (s : Nat) (m : Mach) : (Mach.wbAbandon s m).sig = m.sig := by
  unfold Mach.wbAbandon
  try lift_lets
  repeat' first
    | (intro x; first
      | (have hx : x.sig = m.sig := (by
        simp only [x]
        repeat' (first | (simp [*]; done) | intro _ | split | rw [Mach.each_sig] | simp [*])); clear_value x)
      | (have hx : x.1.sig = m.sig := (by
        simp only [x]
        repeat' (first | (simp [*]; done) | intro _ | split | rw [Mach.each_sig] | simp [*])); clear_value x)
      | clear_value x)
    | (simp [*]; done)
    | intro _
    | split
    | (have h2 := congrArg (fun p => p.1.sig) ‹_ = (_, _)›; simp at h2; simp [*]; done)
    | rw [Mach.each_sig]
    | simp [*]

@[simp] theorem Mach.cutWith_sig (s status dw2 dw3 : Nat) (m : Mach) : (Mach.cutWith s status dw2 dw3 m).sig = m.sig := by
  unfold Mach.cutWith
  try lift_lets
  repeat' first
    | (intro x; first
      | (have hx : x.sig = m.sig := (by
        simp only [x]
        repeat' (first | (simp [*]; done) | intro _ | split | rw [Mach.each_sig] | simp [*])); clear_value x)
      | (have hx : x.1.sig = m.sig := (by
        simp only [x]
        repeat' (first | (simp [*]; done) | intro _ | split | rw [Mach.each_sig] | simp [*])); clear_value x)
      | clear_value x)
    | (simp [*]; done)
    | intro _
    | split
    | (have h2 := congrArg (fun p => p.1.sig) ‹_ = (_, _)›; simp at h2; simp [*]; done)
    | rw [Mach.each_sig]
    | simp [*]

@[simp] theorem Mach.cutShort_sig (s status : Nat) (m : Mach) : (Mach.cutShort s status m).sig = m.sig := by
  unfold Mach.cutShort
  try lift_lets
  repeat' first
    | (intro x; first | (have hx : x.sig = m.sig := by
                            simp only [x]
                            repeat' (first | (simp [*]; done) | intro _ | split   | simp [*])
                         clear_value x) | clear_value x)
    | (simp [*]; done)
    | intro _
    | split
    | simp [*]

@[simp] theorem Mach.darkRegions_sig (v : Vid) (m : Mach) : (Mach.darkRegions v m).sig = m.sig := by
  unfold Mach.darkRegions
  try lift_lets
  repeat' first
    | (intro x; first | (have hx : x.sig = m.sig := by
                            simp only [x]
                            repeat' (first | (simp [*]; done) | intro _ | split | rw [Mach.each_sig]  | simp [*])
                         clear_value x) | clear_value x)
    | (simp [*]; done)
    | intro _
    | split
    | rw [Mach.each_sig]
    | simp [*]

@[simp] theorem Mach.health_sig (f : Health → Health) (m : Mach) : (Mach.health f m).sig = m.sig := by
  simp [Mach.health]

@[simp] theorem Mach.queueOp_sig (c : Chan) (row : Row) (r : Req) (k : OpKind) (m : Mach) : (Mach.queueOp c row r k m).sig = m.sig := by
  unfold Mach.queueOp
  repeat' first
    | (simp [*]; done)
    | intro _
    | split
    | simp [*]

@[simp] theorem Mach.setTask_sig (t : RdTask) (m : Mach) : (Mach.setTask t m).sig = m.sig := by
  simp [Mach.setTask]

@[simp] theorem Mach.dropTask_sig (id : Nat) (m : Mach) : (Mach.dropTask id m).sig = m.sig := by
  unfold Mach.dropTask
  try lift_lets
  repeat' first
    | (intro x; first
      | (have hx : x.sig = m.sig := (by
        simp only [x]
        repeat' (first | (simp [*]; done) | intro _ | split | rw [Mach.each_sig] | simp [*])); clear_value x)
      | (have hx : x.1.sig = m.sig := (by
        simp only [x]
        repeat' (first | (simp [*]; done) | intro _ | split | rw [Mach.each_sig] | simp [*])); clear_value x)
      | clear_value x)
    | (simp [*]; done)
    | intro _
    | split
    | (have h2 := congrArg (fun p => p.1.sig) ‹_ = (_, _)›; simp at h2; simp [*]; done)
    | rw [Mach.each_sig]
    | simp [*]

@[simp] theorem Mach.readPeer_sig (t : RdTask) (p : Peer) (m : Mach) : (Mach.readPeer t p m).sig = m.sig := by
  unfold Mach.readPeer
  try lift_lets
  repeat' first
    | (intro x; first
      | (have hx : x.sig = m.sig := (by
        simp only [x]
        repeat' (first | (simp [*]; done) | intro _ | split | rw [Mach.each_sig] | simp [*])); clear_value x)
      | (have hx : x.1.sig = m.sig := (by
        simp only [x]
        repeat' (first | (simp [*]; done) | intro _ | split | rw [Mach.each_sig] | simp [*])); clear_value x)
      | clear_value x)
    | (simp [*]; done)
    | intro _
    | split
    | (have h2 := congrArg (fun p => p.1.sig) ‹_ = (_, _)›; simp at h2; simp [*]; done)
    | rw [Mach.each_sig]
    | simp [*]

@[simp] theorem Mach.beginStage4_sig (t : RdTask) (m : Mach) : (Mach.beginStage4 t m).sig = m.sig := by
  unfold Mach.beginStage4
  try lift_lets
  repeat' first
    | (intro x; first
      | (have hx : x.sig = m.sig := (by
        simp only [x]
        repeat' (first | (simp [*]; done) | intro _ | split | rw [Mach.each_sig] | simp [*])); clear_value x)
      | (have hx : x.1.sig = m.sig := (by
        simp only [x]
        repeat' (first | (simp [*]; done) | intro _ | split | rw [Mach.each_sig] | simp [*])); clear_value x)
      | clear_value x)
    | (simp [*]; done)
    | intro _
    | split
    | (have h2 := congrArg (fun p => p.1.sig) ‹_ = (_, _)›; simp at h2; simp [*]; done)
    | rw [Mach.each_sig]
    | simp [*]

@[simp] theorem Mach.peerEnded_sig (task : Nat) (r : PeerRole) (b : Option Body) (m : Mach) : (Mach.peerEnded task r b m).sig = m.sig := by
  unfold Mach.peerEnded
  try lift_lets
  repeat' first
    | (intro x; first
      | (have hx : x.sig = m.sig := (by
        simp only [x]
        repeat' (first | (simp [*]; done) | intro _ | split | rw [Mach.each_sig] | simp [*])); clear_value x)
      | (have hx : x.1.sig = m.sig := (by
        simp only [x]
        repeat' (first | (simp [*]; done) | intro _ | split | rw [Mach.each_sig] | simp [*])); clear_value x)
      | clear_value x)
    | (simp [*]; done)
    | intro _
    | split
    | (have h2 := congrArg (fun p => p.1.sig) ‹_ = (_, _)›; simp at h2; simp [*]; done)
    | rw [Mach.each_sig]
    | simp [*]

@[simp] theorem Mach.escalate_sig (t : RdTask) (m : Mach) : (Mach.escalate t m).sig = m.sig := by
  unfold Mach.escalate
  try lift_lets
  repeat' first
    | (intro x; first
      | (have hx : x.sig = m.sig := (by
        simp only [x]
        repeat' (first | (simp [*]; done) | intro _ | split | rw [Mach.each_sig] | simp [*])); clear_value x)
      | (have hx : x.1.sig = m.sig := (by
        simp only [x]
        repeat' (first | (simp [*]; done) | intro _ | split | rw [Mach.each_sig] | simp [*])); clear_value x)
      | clear_value x)
    | (simp [*]; done)
    | intro _
    | split
    | (have h2 := congrArg (fun p => p.1.sig) ‹_ = (_, _)›; simp at h2; simp [*]; done)
    | rw [Mach.each_sig]
    | simp [*]

@[simp] theorem Mach.startRead_sig (a : BitVec 40) (v : Vid) (lba : Nat) (r : Req) (w : RdFor) (m : Mach) : (Mach.startRead a v lba r w m).sig = m.sig := by
  unfold Mach.startRead
  try lift_lets
  repeat' first
    | (intro x; first | (have hx : x.sig = m.sig := by
                            simp only [x]
                            repeat' (first | (simp [*]; done) | intro _ | split   | simp [*])
                         clear_value x) | clear_value x)
    | (simp [*]; done)
    | intro _
    | split
    | simp [*]

@[simp] theorem Mach.recoverSegment_sig (i : Nat) (m : Mach) : (Mach.recoverSegment i m).sig = m.sig := by
  simp [Mach.recoverSegment]

@[simp] theorem Mach.badEntry_sig (v : Vid) (lba : Nat) (m : Mach) : (Mach.badEntry v lba m).sig = m.sig := by
  unfold Mach.badEntry
  repeat' first
    | (simp [*]; done)
    | intro _
    | split
    | simp [*]

@[simp] theorem Mach.observeBuf_sig (m : Mach) : (Mach.observeBuf m).sig = m.sig := by
  simp [Mach.observeBuf]

@[simp] theorem Mach.setVer_sig (x : Ver) (m : Mach) : (Mach.setVer x m).sig = m.sig := by
  simp [Mach.setVer]

@[simp] theorem Mach.dropVers_sig (ids : List Nat) (m : Mach) : (Mach.dropVers ids m).sig = m.sig := by
  unfold Mach.dropVers
  try lift_lets
  repeat' first
    | (intro x; first
      | (have hx : x.sig = m.sig := (by
        simp only [x]
        repeat' (first | (simp [*]; done) | intro _ | split | rw [Mach.each_sig] | simp [*])); clear_value x)
      | (have hx : x.1.sig = m.sig := (by
        simp only [x]
        repeat' (first | (simp [*]; done) | intro _ | split | rw [Mach.each_sig] | simp [*])); clear_value x)
      | clear_value x)
    | (simp [*]; done)
    | intro _
    | split
    | (have h2 := congrArg (fun p => p.1.sig) ‹_ = (_, _)›; simp at h2; simp [*]; done)
    | rw [Mach.each_sig]
    | simp [*]

@[simp] theorem Mach.dropVer_sig (id : Nat) (m : Mach) : (Mach.dropVer id m).sig = m.sig := by
  simp [Mach.dropVer]

@[simp] theorem Mach.failCovers_sig (id : Nat) (m : Mach) : (Mach.failCovers id m).sig = m.sig := by
  unfold Mach.failCovers
  try lift_lets
  repeat' first
    | (intro x; first | (have hx : x.sig = m.sig := by
                            simp only [x]
                            repeat' (first | (simp [*]; done) | intro _ | split | rw [Mach.each_sig]  | simp [*])
                         clear_value x) | clear_value x)
    | (simp [*]; done)
    | intro _
    | split
    | rw [Mach.each_sig]
    | simp [*]

@[simp] theorem Mach.supersedeHeld_sig (x : Ver) (m : Mach) : (Mach.supersedeHeld x m).sig = m.sig := by
  unfold Mach.supersedeHeld
  try lift_lets
  repeat' first
    | (intro x; first
      | (have hx : x.sig = m.sig := (by
        simp only [x]
        repeat' (first | (simp [*]; done) | intro _ | split | rw [Mach.each_sig] | simp [*])); clear_value x)
      | (have hx : x.1.sig = m.sig := (by
        simp only [x]
        repeat' (first | (simp [*]; done) | intro _ | split | rw [Mach.each_sig] | simp [*])); clear_value x)
      | clear_value x)
    | (simp [*]; done)
    | intro _
    | split
    | (have h2 := congrArg (fun p => p.1.sig) ‹_ = (_, _)›; simp at h2; simp [*]; done)
    | rw [Mach.each_sig]
    | simp [*]

@[simp] theorem Mach.finishVer_sig (id : Nat) (m : Mach) : (Mach.finishVer id m).sig = m.sig := by
  unfold Mach.finishVer
  try lift_lets
  repeat' first
    | (intro x; first | (have hx : x.sig = m.sig := by
                            simp only [x]
                            repeat' (first | (simp [*]; done) | intro _ | split   | simp [*])
                         clear_value x) | clear_value x)
    | (simp [*]; done)
    | intro _
    | split
    | simp [*]

theorem Mach.ite_sig_eq (c : Prop) [Decidable c] (a b m : Mach) (ha : a.sig = m.sig) (hb : b.sig = m.sig) :
    (if c then a else b).sig = m.sig := by
  split
  · exact ha
  · exact hb

@[simp] theorem Mach.fillLb_sig (id lb : Nat) (m : Mach) : (Mach.fillLb id lb m).sig = m.sig := by
  unfold Mach.fillLb
  dsimp only
  split
  · rfl
  · split
    · rfl
    · split
      · split <;> simp
      · generalize m.mapSrc _ _ = r
        cases r <;> simp

@[simp] theorem Mach.seal_sig (id : Nat) (m : Mach) : (Mach.seal id m).sig = m.sig := by
  unfold Mach.seal
  repeat' first
    | (simp [*]; done)
    | intro _
    | split
    | simp [*]

@[simp] theorem Mach.acceptLb_sig (v : Vid) (lba : Nat) (d : Block) (pos : Fin 8) (lampwb dealloc : Bool) (m : Mach) : (Mach.acceptLb v lba d pos lampwb dealloc m).1.sig = m.sig := by
  unfold Mach.acceptLb
  try lift_lets
  repeat' first
    | (intro x; first | (have hx : x.sig = m.sig := by
                            simp only [x]
                            repeat' (first | (simp [*]; done) | intro _ | split   | simp [*])
                         clear_value x) | clear_value x)
    | (simp [*]; done)
    | intro _
    | split
    | simp [*]

@[simp] theorem Mach.discardVers_sig (l : List Ver) (m : Mach) : (Mach.discardVers l m).sig = m.sig := by
  unfold Mach.discardVers
  try lift_lets
  repeat' first
    | (intro x; first
      | (have hx : x.sig = m.sig := (by
        simp only [x]
        repeat' (first | (simp [*]; done) | intro _ | split | rw [Mach.each_sig] | simp [*])); clear_value x)
      | (have hx : x.1.sig = m.sig := (by
        simp only [x]
        repeat' (first | (simp [*]; done) | intro _ | split | rw [Mach.each_sig] | simp [*])); clear_value x)
      | clear_value x)
    | (simp [*]; done)
    | intro _
    | split
    | (have h2 := congrArg (fun p => p.1.sig) ‹_ = (_, _)›; simp at h2; simp [*]; done)
    | rw [Mach.each_sig]
    | simp [*]

@[simp] theorem Mach.discardHeld_sig (m : Mach) : (Mach.discardHeld m).sig = m.sig := by
  unfold Mach.discardHeld
  repeat' first
    | (simp [*]; done)
    | intro _
    | split
    | simp [*]

@[simp] theorem Mach.discardAllHeld_sig (m : Mach) : (Mach.discardAllHeld m).sig = m.sig := by
  unfold Mach.discardAllHeld
  try lift_lets
  repeat' first
    | (intro x; first
      | (have hx : x.sig = m.sig := (by
        simp only [x]
        repeat' (first | (simp [*]; done) | intro _ | split | rw [Mach.each_sig] | simp [*])); clear_value x)
      | (have hx : x.1.sig = m.sig := (by
        simp only [x]
        repeat' (first | (simp [*]; done) | intro _ | split | rw [Mach.each_sig] | simp [*])); clear_value x)
      | clear_value x)
    | (simp [*]; done)
    | intro _
    | split
    | (have h2 := congrArg (fun p => p.1.sig) ‹_ = (_, _)›; simp at h2; simp [*]; done)
    | rw [Mach.each_sig]
    | simp [*]

@[simp] theorem Mach.makeRoom_sig (v : Vid) (lba : Nat) (m : Mach) : (Mach.makeRoom v lba m).sig = m.sig := by
  simp [Mach.makeRoom]

@[simp] theorem Mach.setEntry_sig (i : Nat) (e : BitVec 40) (m : Mach) : (Mach.setEntry i e m).sig = m.sig := by
  unfold Mach.setEntry
  try lift_lets
  repeat' first
    | (intro x; first | (have hx : x.sig = m.sig := by
                            simp only [x]
                            repeat' (first | (simp [*]; done) | intro _ | split | rw [Mach.each_sig]  | simp [*])
                         clear_value x) | clear_value x)
    | (simp [*]; done)
    | intro _
    | split
    | rw [Mach.each_sig]
    | simp [*]

@[simp] theorem Mach.installAt_sig (i wsn : Nat) (e : BitVec 40) (ver : Option Nat) (m : Mach) : (Mach.installAt i wsn e ver m).sig = m.sig := by
  unfold Mach.installAt
  try lift_lets
  repeat' first
    | (intro x; first
      | (have hx : x.sig = m.sig := (by
        simp only [x]
        repeat' (first | (simp [*]; done) | intro _ | split | rw [Mach.each_sig] | simp [*])); clear_value x)
      | (have hx : x.1.sig = m.sig := (by
        simp only [x]
        repeat' (first | (simp [*]; done) | intro _ | split | rw [Mach.each_sig] | simp [*])); clear_value x)
      | clear_value x)
    | (simp [*]; done)
    | intro _
    | split
    | (have h2 := congrArg (fun p => p.1.sig) ‹_ = (_, _)›; simp at h2; simp [*]; done)
    | rw [Mach.each_sig]
    | simp [*]

@[simp] theorem Mach.install_sig (v : Vid) (mu wsn : Nat) (e : BitVec 40) (ver : Option Nat) (m : Mach) : (Mach.install v mu wsn e ver m).sig = m.sig := by
  unfold Mach.install
  try lift_lets
  repeat' first
    | (intro x; first
      | (have hx : x.sig = m.sig := (by
        simp only [x]
        repeat' (first | (simp [*]; done) | intro _ | split | rw [Mach.each_sig] | simp [*])); clear_value x)
      | (have hx : x.1.sig = m.sig := (by
        simp only [x]
        repeat' (first | (simp [*]; done) | intro _ | split | rw [Mach.each_sig] | simp [*])); clear_value x)
      | clear_value x)
    | (simp [*]; done)
    | intro _
    | split
    | (have h2 := congrArg (fun p => p.1.sig) ‹_ = (_, _)›; simp at h2; simp [*]; done)
    | rw [Mach.each_sig]
    | simp [*]

@[simp] theorem Mach.discardOlder_sig (v : Vid) (mu wsn rec : Nat) (m : Mach) : (Mach.discardOlder v mu wsn rec m).sig = m.sig := by
  unfold Mach.discardOlder
  try lift_lets
  repeat' first
    | (intro x; first | (have hx : x.sig = m.sig := by
                            simp only [x]
                            repeat' (first | (simp [*]; done) | intro _ | split   | simp [*])
                         clear_value x) | clear_value x)
    | (simp [*]; done)
    | intro _
    | split
    | simp [*]

@[simp] theorem Mach.unstage_sig (which : Copy → Bool) (m : Mach) : (Mach.unstage which m).sig = m.sig := by
  unfold Mach.unstage
  try lift_lets
  repeat' first
    | (intro x; first
      | (have hx : x.sig = m.sig := (by
        simp only [x]
        repeat' (first | (simp [*]; done) | intro _ | split | rw [Mach.each_sig] | simp [*])); clear_value x)
      | (have hx : x.1.sig = m.sig := (by
        simp only [x]
        repeat' (first | (simp [*]; done) | intro _ | split | rw [Mach.each_sig] | simp [*])); clear_value x)
      | clear_value x)
    | (simp [*]; done)
    | intro _
    | split
    | (have h2 := congrArg (fun p => p.1.sig) ‹_ = (_, _)›; simp at h2; simp [*]; done)
    | rw [Mach.each_sig]
    | simp [*]

@[simp] theorem Mach.askProvpar_sig (fsn page : Nat) (m : Mach) : (Mach.askProvpar fsn page m).sig = m.sig := by
  unfold Mach.askProvpar
  try lift_lets
  repeat' first
    | (intro x; first | (have hx : x.sig = m.sig := by
                            simp only [x]
                            repeat' (first | (simp [*]; done) | intro _ | split   | simp [*])
                         clear_value x) | clear_value x)
    | (simp [*]; done)
    | intro _
    | split
    | simp [*]

@[simp] theorem Mach.stripeSafe_sig (fsn page : Nat) (mask : Word) (m : Mach) : (Mach.stripeSafe fsn page mask m).sig = m.sig := by
  unfold Mach.stripeSafe
  try lift_lets
  repeat' first
    | (intro x; first | (have hx : x.sig = m.sig := by
                            simp only [x]
                            repeat' (first | (simp [*]; done) | intro _ | split   | simp [*])
                         clear_value x) | clear_value x)
    | (simp [*]; done)
    | intro _
    | split
    | simp [*]

@[simp] theorem Mach.pushVers_sig (ids : List Nat) (m : Mach) : (Mach.pushVers ids m).sig = m.sig := by
  unfold Mach.pushVers
  try lift_lets
  repeat' first
    | (intro x; first | (have hx : x.sig = m.sig := by
                            simp only [x]
                            repeat' (first | (simp [*]; done) | intro _ | split | rw [Mach.each_sig]  | simp [*])
                         clear_value x) | clear_value x)
    | (simp [*]; done)
    | intro _
    | split
    | rw [Mach.each_sig]
    | simp [*]

@[simp] theorem Mach.sendLb_sig (c : Cmd) (off : Nat) (d : Block) (m : Mach) : (Mach.sendLb c off d m).sig = m.sig := by
  unfold Mach.sendLb
  split
  · rfl
  · rename_i p _
    have h : ∀ (r : Bool) (l : List (Nat × Nat)) (a : Mach × Nat), (l.foldl (fun (a : Mach × Nat) x =>
        (a.1.send (.hostData p x.1 x.2 (d >>> (8 * a.2)) r), a.2 + x.2)) a).1.sig = a.1.sig := by
      intro r l
      induction l with
      | nil => intro a; rfl
      | cons b l ih => intro a; rw [List.foldl_cons, ih]; simp
    rw [h]

@[simp] theorem Mach.sendReads_sig (p : Port) (s : Nat) (m : Mach) : (Mach.sendReads p s m).sig = m.sig := by
  unfold Mach.sendReads
  try lift_lets
  repeat' first
    | (intro x; first
      | (have hx : x.sig = m.sig := (by
        simp only [x]
        repeat' (first | (simp [*]; done) | intro _ | split | rw [Mach.each_sig] | simp [*])); clear_value x)
      | (have hx : x.1.sig = m.sig := (by
        simp only [x]
        repeat' (first | (simp [*]; done) | intro _ | split | rw [Mach.each_sig] | simp [*])); clear_value x)
      | clear_value x)
    | (simp [*]; done)
    | intro _
    | split
    | (have h2 := congrArg (fun p => p.1.sig) ‹_ = (_, _)›; simp at h2; simp [*]; done)
    | rw [Mach.each_sig]
    | simp [*]

@[simp] theorem Mach.readDone_sig (s : Nat) (m : Mach) : (Mach.readDone s m).sig = m.sig := by
  simp [Mach.readDone]

@[simp] theorem Mach.readLb_sig (s off status : Nat) (d : Block) (rebuilt : Bool) (m : Mach) : (Mach.readLb s off status d rebuilt m).sig = m.sig := by
  unfold Mach.readLb
  try lift_lets
  repeat' first
    | (intro x; first | (have hx : x.sig = m.sig := by
                            simp only [x]
                            repeat' (first | (simp [*]; done) | intro _ | split   | simp [*])
                         clear_value x) | clear_value x)
    | (simp [*]; done)
    | intro _
    | split
    | simp [*]

@[simp] theorem Mach.lightDone_sig (s : Nat) (m : Mach) : (Mach.lightDone s m).sig = m.sig := by
  unfold Mach.lightDone
  try lift_lets
  repeat' first
    | (intro x; first | (have hx : x.sig = m.sig := by
                            simp only [x]
                            repeat' (first | (simp [*]; done) | intro _ | split | rw [Mach.each_sig]  | simp [*])
                         clear_value x) | clear_value x)
    | (simp [*]; done)
    | intro _
    | split
    | rw [Mach.each_sig]
    | simp [*]

@[simp] theorem Mach.lightFail_sig (s off status : Nat) (m : Mach) : (Mach.lightFail s off status m).sig = m.sig := by
  simp [Mach.lightFail]

@[simp] theorem Mach.addFill_sig (task s off : Nat) (d : Block) (m : Mach) : (Mach.addFill task s off d m).sig = m.sig := by
  simp [Mach.addFill]

@[simp] theorem Mach.setRs_sig (v : Vid) (x : Resync) (m : Mach) : (Mach.setRs v x m).sig = m.sig := by
  simp [Mach.setRs]

@[simp] theorem Mach.pieceLb_sig (s off status : Nat) (d : Block) (m : Mach) : (Mach.pieceLb s off status d m).sig = m.sig := by
  unfold Mach.pieceLb
  try lift_lets
  repeat' first
    | (intro x; first | (have hx : x.sig = m.sig := by
                            simp only [x]
                            repeat' (first | (simp [*]; done) | intro _ | split   | simp [*])
                         clear_value x) | clear_value x)
    | (simp [*]; done)
    | intro _
    | split
    | simp [*]

@[simp] theorem Mach.sendRun_sig (v : Vid) (slba : Nat) (data : SMap Block) (run : Nat × Nat) (m : Mach) :
    (Mach.sendRun v slba data run m).sig = m.sig := by
  unfold Mach.sendRun
  dsimp only
  rw [Mach.each_sig]
  · simp
  · intro k m; simp

@[simp] theorem Mach.sendHole_sig (v : Vid) (slba mu : Nat) (m : Mach) : (Mach.sendHole v slba mu m).sig = m.sig := by
  simp [Mach.sendHole]

@[simp] theorem Mach.pieceSend_sig (s : Nat) (m : Mach) : (Mach.pieceSend s m).sig = m.sig := by
  unfold Mach.pieceSend
  try lift_lets
  repeat' first
    | (intro x; first | (have hx : x.sig = m.sig := by
                            simp only [x]
                            repeat' (first | (simp [*]; done) | intro _ | split | rw [Mach.each_sig]  | simp [*])
                         clear_value x) | clear_value x)
    | (simp [*]; done)
    | intro _
    | split
    | rw [Mach.each_sig]
    | simp [*]

@[simp] theorem Mach.pieceDone_sig (s : Nat) (m : Mach) : (Mach.pieceDone s m).sig = m.sig := by
  simp [Mach.pieceDone]

@[simp] theorem Mach.rmwLb_sig (id lb status : Nat) (d : Block) (m : Mach) : (Mach.rmwLb id lb status d m).sig = m.sig := by
  unfold Mach.rmwLb
  try lift_lets
  repeat' first
    | (intro x; first | (have hx : x.sig = m.sig := by
                            simp only [x]
                            repeat' (first | (simp [*]; done) | intro _ | split   | simp [*])
                         clear_value x) | clear_value x)
    | (simp [*]; done)
    | intro _
    | split
    | simp [*]

@[simp] theorem Mach.deliver_sig (task status : Nat) (d : Block) (rebuilt : Bool) (w : RdFor) (m : Mach) : (Mach.deliver task status d rebuilt w m).sig = m.sig := by
  unfold Mach.deliver
  repeat' first
    | (simp [*]; done)
    | intro _
    | split
    | simp [*]

@[simp] theorem Mach.readEnds_sig (a : BitVec 40) (status stage n : Nat) (m : Mach) : (Mach.readEnds a status stage n m).sig = m.sig := by
  unfold Mach.readEnds
  try lift_lets
  repeat' first
    | (intro x; first
      | (have hx : x.sig = m.sig := (by
        simp only [x]
        repeat' (first | (simp [*]; done) | intro _ | split | rw [Mach.each_sig] | simp [*])); clear_value x)
      | (have hx : x.1.sig = m.sig := (by
        simp only [x]
        repeat' (first | (simp [*]; done) | intro _ | split | rw [Mach.each_sig] | simp [*])); clear_value x)
      | clear_value x)
    | (simp [*]; done)
    | intro _
    | split
    | (have h2 := congrArg (fun p => p.1.sig) ‹_ = (_, _)›; simp at h2; simp [*]; done)
    | rw [Mach.each_sig]
    | simp [*]

@[simp] theorem Mach.endTask_sig (t : RdTask) (status : Nat) (m : Mach) : (Mach.endTask t status m).sig = m.sig := by
  unfold Mach.endTask
  try lift_lets
  repeat' first
    | (intro x; first | (have hx : x.sig = m.sig := by
                            simp only [x]
                            repeat' (first | (simp [*]; done) | intro _ | split | rw [Mach.each_sig]  | simp [*])
                         clear_value x) | clear_value x)
    | (simp [*]; done)
    | intro _
    | split
    | rw [Mach.each_sig]
    | simp [*]

@[simp] theorem Mach.flagRefresh_sig (f : Nat) (m : Mach) : (Mach.flagRefresh f m).sig = m.sig := by
  simp [Mach.flagRefresh]

@[simp] theorem Mach.stage4Fails_sig (t : RdTask) (m : Mach) : (Mach.stage4Fails t m).sig = m.sig := by
  simp [Mach.stage4Fails]

@[simp] theorem Mach.decrypted_sig (enc : Bool) (m : Mach) : (Mach.decrypted enc m).sig = m.sig := by
  unfold Mach.decrypted
  try lift_lets
  repeat' first
    | (intro x; first
      | (have hx : x.sig = m.sig := (by
        simp only [x]
        repeat' (first | (simp [*]; done) | intro _ | split | rw [Mach.each_sig] | simp [*])); clear_value x)
      | (have hx : x.1.sig = m.sig := (by
        simp only [x]
        repeat' (first | (simp [*]; done) | intro _ | split | rw [Mach.each_sig] | simp [*])); clear_value x)
      | clear_value x)
    | (simp [*]; done)
    | intro _
    | split
    | (have h2 := congrArg (fun p => p.1.sig) ‹_ = (_, _)›; simp at h2; simp [*]; done)
    | rw [Mach.each_sig]
    | simp [*]

@[simp] theorem Mach.checkCw_sig (t : RdTask) (k : CwCheck) (m : Mach) : (Mach.checkCw t k m).sig = m.sig := by
  unfold Mach.checkCw
  try lift_lets
  repeat' first
    | (intro x; first | (have hx : x.sig = m.sig := by
                            simp only [x]
                            repeat' (first | (simp [*]; done) | intro _ | split   | simp [*])
                         clear_value x) | clear_value x)
    | (simp [*]; done)
    | intro _
    | split
    | simp [*]

@[simp] theorem Mach.checkPeer_sig (t : RdTask) (task : Nat) (r : PeerRole) (k : CwCheck) (m : Mach) : (Mach.checkPeer t task r k m).sig = m.sig := by
  unfold Mach.checkPeer
  try lift_lets
  repeat' first
    | (intro x; first
      | (have hx : x.sig = m.sig := (by
        simp only [x]
        repeat' (first | (simp [*]; done) | intro _ | split | rw [Mach.each_sig] | simp [*])); clear_value x)
      | (have hx : x.1.sig = m.sig := (by
        simp only [x]
        repeat' (first | (simp [*]; done) | intro _ | split | rw [Mach.each_sig] | simp [*])); clear_value x)
      | clear_value x)
    | (simp [*]; done)
    | intro _
    | split
    | (have h2 := congrArg (fun p => p.1.sig) ‹_ = (_, _)›; simp at h2; simp [*]; done)
    | rw [Mach.each_sig]
    | simp [*]

@[simp] theorem Mach.decoded_sig (t : RdTask) (k : CwCheck) (m : Mach) : (Mach.decoded t k m).sig = m.sig := by
  unfold Mach.decoded
  try lift_lets
  repeat' first
    | (intro x; first
      | (have hx : x.sig = m.sig := (by
        simp only [x]
        repeat' (first | (simp [*]; done) | intro _ | split | rw [Mach.each_sig] | simp [*])); clear_value x)
      | (have hx : x.1.sig = m.sig := (by
        simp only [x]
        repeat' (first | (simp [*]; done) | intro _ | split | rw [Mach.each_sig] | simp [*])); clear_value x)
      | clear_value x)
    | (simp [*]; done)
    | intro _
    | split
    | (have h2 := congrArg (fun p => p.1.sig) ‹_ = (_, _)›; simp at h2; simp [*]; done)
    | rw [Mach.each_sig]
    | simp [*]

@[simp] theorem Mach.hardCounts_sig (a : BitVec 40) (d : HardDecode) (m : Mach) : (Mach.hardCounts a d m).sig = m.sig := by
  unfold Mach.hardCounts
  try lift_lets
  repeat' first
    | (intro x; first
      | (have hx : x.sig = m.sig := (by
        simp only [x]
        repeat' (first | (simp [*]; done) | intro _ | split | rw [Mach.each_sig] | simp [*])); clear_value x)
      | (have hx : x.1.sig = m.sig := (by
        simp only [x]
        repeat' (first | (simp [*]; done) | intro _ | split | rw [Mach.each_sig] | simp [*])); clear_value x)
      | clear_value x)
    | (simp [*]; done)
    | intro _
    | split
    | (have h2 := congrArg (fun p => p.1.sig) ‹_ = (_, _)›; simp at h2; simp [*]; done)
    | rw [Mach.each_sig]
    | simp [*]

@[simp] theorem Mach.beginSoft_sig (t : RdTask) (m : Mach) : (Mach.beginSoft t m).sig = m.sig := by
  unfold Mach.beginSoft
  try lift_lets
  repeat' first
    | (intro x; first
      | (have hx : x.sig = m.sig := (by
        simp only [x]
        repeat' (first | (simp [*]; done) | intro _ | split | rw [Mach.each_sig] | simp [*])); clear_value x)
      | (have hx : x.1.sig = m.sig := (by
        simp only [x]
        repeat' (first | (simp [*]; done) | intro _ | split | rw [Mach.each_sig] | simp [*])); clear_value x)
      | clear_value x)
    | (simp [*]; done)
    | intro _
    | split
    | (have h2 := congrArg (fun p => p.1.sig) ‹_ = (_, _)›; simp at h2; simp [*]; done)
    | rw [Mach.each_sig]
    | simp [*]

@[simp] theorem Mach.hardDone_sig (t : RdTask) (d : HardDecode) (k : CwCheck) (m : Mach) : (Mach.hardDone t d k m).sig = m.sig := by
  unfold Mach.hardDone
  try lift_lets
  repeat' first
    | (intro x; first | (have hx : x.sig = m.sig := by
                            simp only [x]
                            repeat' (first | (simp [*]; done) | intro _ | split   | simp [*])
                         clear_value x) | clear_value x)
    | (simp [*]; done)
    | intro _
    | split
    | simp [*]

@[simp] theorem Mach.hardFailed_sig (t : RdTask) (m : Mach) : (Mach.hardFailed t m).sig = m.sig := by
  simp [Mach.hardFailed]

@[simp] theorem Mach.memEnd_sig (p : Port) (m : Mach) : (Mach.memEnd p m).sig = m.sig := by
  simp [Mach.memEnd]

@[simp] theorem Mach.poisonOut_sig (p : Port) (m : Mach) : (Mach.poisonOut p m).sig = m.sig := by
  simp [Mach.poisonOut]

@[simp] theorem Mach.lineOut_sig (p : Port) (d : Line) (m : Mach) : (Mach.lineOut p d m).sig = m.sig := by
  simp [Mach.lineOut]

@[simp] theorem Mach.writeAck_sig (p : Port) (m : Mach) : (Mach.writeAck p m).sig = m.sig := by
  simp [Mach.writeAck]

@[simp] theorem Mach.writeDone_sig (p : Port) (mute : Bool) (m : Mach) : (Mach.writeDone p mute m).sig = m.sig := by
  unfold Mach.writeDone
  try lift_lets
  repeat' first
    | (intro x; first
      | (have hx : x.sig = m.sig := (by
        simp only [x]
        repeat' (first | (simp [*]; done) | intro _ | split | rw [Mach.each_sig] | simp [*])); clear_value x)
      | (have hx : x.1.sig = m.sig := (by
        simp only [x]
        repeat' (first | (simp [*]; done) | intro _ | split | rw [Mach.each_sig] | simp [*])); clear_value x)
      | clear_value x)
    | (simp [*]; done)
    | intro _
    | split
    | (have h2 := congrArg (fun p => p.1.sig) ‹_ = (_, _)›; simp at h2; simp [*]; done)
    | rw [Mach.each_sig]
    | simp [*]

@[simp] theorem Mach.memMiss_sig (r : LampReq) (m : Mach) : (Mach.memMiss r m).sig = m.sig := by
  simp [Mach.memMiss]

@[simp] theorem Mach.muteReqs_sig (p : Port) (m : Mach) : (Mach.muteReqs p m).sig = m.sig := by
  unfold Mach.muteReqs
  try lift_lets
  repeat' first
    | (intro x; first
      | (have hx : x.sig = m.sig := (by
        simp only [x]
        repeat' (first | (simp [*]; done) | intro _ | split | rw [Mach.each_sig] | simp [*])); clear_value x)
      | (have hx : x.1.sig = m.sig := (by
        simp only [x]
        repeat' (first | (simp [*]; done) | intro _ | split | rw [Mach.each_sig] | simp [*])); clear_value x)
      | clear_value x)
    | (simp [*]; done)
    | intro _
    | split
    | (have h2 := congrArg (fun p => p.1.sig) ‹_ = (_, _)›; simp at h2; simp [*]; done)
    | rw [Mach.each_sig]
    | simp [*]

@[simp] theorem Mach.setDev_sig (st : DevSt) (m : Mach) : (Mach.setDev st m).sig = m.sig := by
  unfold Mach.setDev
  try lift_lets
  repeat' first
    | (intro x; first
      | (have hx : x.sig = m.sig := (by
        simp only [x]
        repeat' (first | (simp [*]; done) | intro _ | split | rw [Mach.each_sig] | simp [*])); clear_value x)
      | (have hx : x.1.sig = m.sig := (by
        simp only [x]
        repeat' (first | (simp [*]; done) | intro _ | split | rw [Mach.each_sig] | simp [*])); clear_value x)
      | clear_value x)
    | (simp [*]; done)
    | intro _
    | split
    | (have h2 := congrArg (fun p => p.1.sig) ‹_ = (_, _)›; simp at h2; simp [*]; done)
    | rw [Mach.each_sig]
    | simp [*]

@[simp] theorem Mach.settleDev_sig (m : Mach) : (Mach.settleDev m).sig = m.sig := by
  simp [Mach.settleDev]

@[simp] theorem Mach.failCommands_sig (m : Mach) : (Mach.failCommands m).sig = m.sig := by
  unfold Mach.failCommands
  try lift_lets
  repeat' first
    | (intro x; first | (have hx : x.sig = m.sig := by
                            simp only [x]
                            repeat' (first | (simp [*]; done) | intro _ | split | rw [Mach.each_sig]  | simp [*])
                         clear_value x) | clear_value x)
    | (simp [*]; done)
    | intro _
    | split
    | rw [Mach.each_sig]
    | simp [*]

@[simp] theorem Mach.dropHeld_sig (m : Mach) : (Mach.dropHeld m).sig = m.sig := by
  unfold Mach.dropHeld
  try lift_lets
  repeat' first
    | (intro x; first
      | (have hx : x.sig = m.sig := (by
        simp only [x]
        repeat' (first | (simp [*]; done) | intro _ | split | rw [Mach.each_sig] | simp [*])); clear_value x)
      | (have hx : x.1.sig = m.sig := (by
        simp only [x]
        repeat' (first | (simp [*]; done) | intro _ | split | rw [Mach.each_sig] | simp [*])); clear_value x)
      | clear_value x)
    | (simp [*]; done)
    | intro _
    | split
    | (have h2 := congrArg (fun p => p.1.sig) ‹_ = (_, _)›; simp at h2; simp [*]; done)
    | rw [Mach.each_sig]
    | simp [*]

@[simp] theorem Mach.fail_sig (cause : Nat) (m : Mach) : (Mach.fail cause m).sig = m.sig := by
  unfold Mach.fail
  try lift_lets
  repeat' first
    | (intro x; first
      | (have hx : x.sig = m.sig := (by
        simp only [x]
        repeat' (first | (simp [*]; done) | intro _ | split | rw [Mach.each_sig] | simp [*])); clear_value x)
      | (have hx : x.1.sig = m.sig := (by
        simp only [x]
        repeat' (first | (simp [*]; done) | intro _ | split | rw [Mach.each_sig] | simp [*])); clear_value x)
      | clear_value x)
    | (simp [*]; done)
    | intro _
    | split
    | (have h2 := congrArg (fun p => p.1.sig) ‹_ = (_, _)›; simp at h2; simp [*]; done)
    | rw [Mach.each_sig]
    | simp [*]

@[simp] theorem Mach.chanCheck_sig (m : Mach) : (Mach.chanCheck m).sig = m.sig := by
  simp [Mach.chanCheck]

@[simp] theorem Mach.faultVol_sig (v : Vid) (m : Mach) : (Mach.faultVol v m).sig = m.sig := by
  simp [Mach.faultVol]

@[simp] theorem Mach.loseVersion_sig (id : Nat) (lbs : List (Fin 4)) (m : Mach) : (Mach.loseVersion id lbs m).sig = m.sig := by
  unfold Mach.loseVersion
  repeat' first
    | (simp [*]; done)
    | intro _
    | split
    | simp [*]

@[simp] theorem Mach.dramUser_sig (u : DramUser) (m : Mach) : (Mach.dramUser u m).sig = m.sig := by
  unfold Mach.dramUser
  repeat' first
    | (simp [*]; done)
    | intro _
    | split
    | simp [*]

@[simp] theorem Mach.dramLost_sig (d : Fin 4) (u : DramUser) (m : Mach) : (Mach.dramLost d u m).sig = m.sig := by
  simp [Mach.dramLost]

@[simp] theorem Mach.answer_sig (p : Port) (status : Nat) (badLen bg : Bool) (payload : List Byte) (m : Mach) : (Mach.answer p status badLen bg payload m).sig = m.sig := by
  simp [Mach.answer]

@[simp] theorem Mach.ok_sig (p : Port) (payload : List Byte) (m : Mach) : (Mach.ok p payload m).sig = m.sig := by
  simp [Mach.ok]

@[simp] theorem Mach.refuse_sig (p : Port) (status : Nat) (m : Mach) : (Mach.refuse p status m).sig = m.sig := by
  simp [Mach.refuse]

@[simp] theorem Mach.mail_sig (i : Instr) (p : Port) (len want : Nat) (early : Bool) (f : Mach → Mach) (m : Mach) (h : (f m).sig = m.sig) :
    (Mach.mail i p len want early f m).sig = m.sig := by
  unfold Mach.mail Mach.mailRuns
  repeat' first | exact h | (simp; done) | split

@[simp] theorem Mach.startBg_sig (p : Port) (op : BgOp) (opcode : Nat) (f : Mach → Mach) (m : Mach)
    (h : ∀ m : Mach, (f m).sig = m.sig) : (Mach.startBg p op opcode f m).sig = m.sig := by
  unfold Mach.startBg
  split
  · simp
  · dsimp only; rw [h]; simp

@[simp] theorem Mach.orphanEnd_sig (opcode status : Nat) (m : Mach) : (Mach.orphanEnd opcode status m).sig = m.sig := by
  unfold Mach.orphanEnd
  try lift_lets
  repeat' first
    | (intro x; first
      | (have hx : x.sig = m.sig := (by
        simp only [x]
        repeat' (first | (simp [*]; done) | intro _ | split | rw [Mach.each_sig] | simp [*])); clear_value x)
      | (have hx : x.1.sig = m.sig := (by
        simp only [x]
        repeat' (first | (simp [*]; done) | intro _ | split | rw [Mach.each_sig] | simp [*])); clear_value x)
      | clear_value x)
    | (simp [*]; done)
    | intro _
    | split
    | (have h2 := congrArg (fun p => p.1.sig) ‹_ = (_, _)›; simp at h2; simp [*]; done)
    | rw [Mach.each_sig]
    | simp [*]

@[simp] theorem Mach.endBg_sig (status : Nat) (m : Mach) : (Mach.endBg status m).sig = m.sig := by
  unfold Mach.endBg
  try lift_lets
  repeat' first
    | (intro x; first | (have hx : x.sig = m.sig := by
                            simp only [x]
                            repeat' (first | (simp [*]; done) | intro _ | split   | simp [*])
                         clear_value x) | clear_value x)
    | (simp [*]; done)
    | intro _
    | split
    | simp [*]

@[simp] theorem Mach.dropMailbox_sig (p : Port) (m : Mach) : (Mach.dropMailbox p m).sig = m.sig := by
  unfold Mach.dropMailbox
  try lift_lets
  repeat' first
    | (intro x; first
      | (have hx : x.sig = m.sig := (by
        simp only [x]
        repeat' (first | (simp [*]; done) | intro _ | split | rw [Mach.each_sig] | simp [*])); clear_value x)
      | (have hx : x.1.sig = m.sig := (by
        simp only [x]
        repeat' (first | (simp [*]; done) | intro _ | split | rw [Mach.each_sig] | simp [*])); clear_value x)
      | clear_value x)
    | (simp [*]; done)
    | intro _
    | split
    | (have h2 := congrArg (fun p => p.1.sig) ‹_ = (_, _)›; simp at h2; simp [*]; done)
    | rw [Mach.each_sig]
    | simp [*]

@[simp] theorem Mach.setNslot_sig (k : Nat) (x : KeySlot) (m : Mach) : (Mach.setNslot k x m).sig = m.sig := by
  simp [Mach.setNslot]

@[simp] theorem Mach.askNonce_sig (k : Nat) (m : Mach) : (Mach.askNonce k m).sig = m.sig := by
  simp [Mach.askNonce]

@[simp] theorem Mach.nonceMiddle_sig (k : Nat) (m : Mach) : (Mach.nonceMiddle k m).sig = m.sig := by
  simp [Mach.nonceMiddle]

@[simp] theorem Mach.drawNonces_sig (k n : Nat) (m : Mach) : (Mach.drawNonces k n m).1.sig = m.sig := by
  simp [Mach.drawNonces]

@[simp] theorem Mach.nonceWait_sig (k n : Nat) (m : Mach) : (Mach.nonceWait k n m).sig = m.sig := by
  simp [Mach.nonceWait]

@[simp] theorem Mach.nonceDurable_sig (k epoch hwm : Nat) (m : Mach) : (Mach.nonceDurable k epoch hwm m).sig = m.sig := by
  simp [Mach.nonceDurable]

@[simp] theorem Mach.observeWindow_sig (m : Mach) : (Mach.observeWindow m).sig = m.sig := by
  simp [Mach.observeWindow]

@[simp] theorem Mach.takeFsn_sig (m : Mach) : (Mach.takeFsn m).1.sig = m.sig := by
  simp [Mach.takeFsn]

@[simp] theorem Mach.failAgain_sig (pos : Fin 8) (m : Mach) : (Mach.failAgain pos m).sig = m.sig := by
  unfold Mach.failAgain
  repeat' first
    | (simp [*]; done)
    | intro _
    | split
    | rw [Mach.each_sig]
    | simp [*]

@[simp] theorem Mach.openAt_sig (pos : Fin 8) (f : Nat) (m : Mach) : (Mach.openAt pos f m).sig = m.sig := by
  unfold Mach.openAt
  try lift_lets
  repeat' first
    | (intro x; first | (have hx : x.sig = m.sig := by
                            simp only [x]
                            repeat' (first | (simp [*]; done) | intro _ | split   | simp [*])
                         clear_value x) | clear_value x)
    | (simp [*]; done)
    | intro _
    | split
    | simp [*]

@[simp] theorem Mach.openFurrow_sig (pos : Fin 8) (m : Mach) : (Mach.openFurrow pos m).sig = m.sig := by
  unfold Mach.openFurrow
  repeat' first
    | (simp [*]; done)
    | intro _
    | split
    | simp [*]

@[simp] theorem Mach.formMu_sig (vol : Vid) (mu wsn fsn : Nat) (data : SMap Block) (lampwb : BitVec 4) (copy : Bool) (faulty : List (Fin 4))
    (m : Mach) : (Mach.formMu vol mu wsn fsn data lampwb copy faulty m).1.sig = m.sig := by
  unfold Mach.formMu
  dsimp only
  rw [Mach.drawNonces_sig, Mach.when_sig (h := fun m => by simp)]

@[simp] theorem Mach.formPlane_sig (fsn : Nat) (faulty : List (Fin 4)) (it : PlaneItem) (m : Mach) : (Mach.formPlane fsn faulty it m).1.sig = m.sig := by
  unfold Mach.formPlane
  try lift_lets
  repeat' first
    | (intro x; first | (have hx : x.sig = m.sig := by
                            simp only [x]
                            repeat' (first | (simp [*]; done) | intro _ | split   | simp [*])
                         clear_value x) | clear_value x)
    | (simp [*]; done)
    | intro _
    | split
    | simp [*]

@[simp] theorem Mach.formPage_sig (fsn : Nat) (faulty : List (Fin 4)) (l : List PlaneItem) (m : Mach) :
    (Mach.formPage fsn faulty l m).1.sig = m.sig := by
  induction l generalizing faulty m with
  | nil => simp [Mach.formPage]
  | cons a l ih => simp [Mach.formPage, ih]

@[simp] theorem Mach.pageDebt_sig (items : List PlaneItem) (m : Mach) : (Mach.pageDebt items m).sig = m.sig := by
  unfold Mach.pageDebt
  repeat' first
    | (simp [*]; done)
    | intro _
    | split
    | rw [Mach.each_sig]
    | simp [*]

@[simp] theorem Mach.queuePage_sig (pos : Fin 8) (o : OpenF) (c : Chan) (items : List PlaneItem) (cws : List Cw) (parity : Bool) (m : Mach) : (Mach.queuePage pos o c items cws parity m).sig = m.sig := by
  unfold Mach.queuePage
  try lift_lets
  repeat' first
    | (intro x; first | (have hx : x.sig = m.sig := by
                            simp only [x]
                            repeat' (first | (simp [*]; done) | intro _ | split   | simp [*])
                         clear_value x) | clear_value x)
    | (simp [*]; done)
    | intro _
    | split
    | simp [*]

@[simp] theorem Mach.closeAt_sig (pos : Fin 8) (m : Mach) : (Mach.closeAt pos m).sig = m.sig := by
  unfold Mach.closeAt
  repeat' first
    | (simp [*]; done)
    | intro _
    | split
    | simp [*]

@[simp] theorem Mach.closePartial_sig (pos : Fin 8) (m : Mach) : (Mach.closePartial pos m).sig = m.sig := by
  unfold Mach.closePartial
  repeat' first
    | (simp [*]; done)
    | intro _
    | split
    | simp [*]

@[simp] theorem Mach.stripeEnd_sig (pos : Fin 8) (o : OpenF) (m : Mach) : (Mach.stripeEnd pos o m).sig = m.sig := by
  unfold Mach.stripeEnd
  try lift_lets
  repeat' first
    | (intro x; first | (have hx : x.sig = m.sig := by
                            simp only [x]
                            repeat' (first | (simp [*]; done) | intro _ | split   | simp [*])
                         clear_value x) | clear_value x)
    | (simp [*]; done)
    | intro _
    | split
    | simp [*]

@[simp] theorem Mach.stripeStep_sig (pos : Fin 8) (m : Mach) : (Mach.stripeStep pos m).sig = m.sig := by
  unfold Mach.stripeStep
  try lift_lets
  repeat' first
    | (intro x; first | (have hx : x.sig = m.sig := by
                            simp only [x]
                            repeat' (first | (simp [*]; done) | intro _ | split | rw [Mach.each_sig]  | simp [*])
                         clear_value x) | clear_value x)
    | (simp [*]; done)
    | intro _
    | split
    | rw [Mach.each_sig]
    | simp [*]

@[simp] theorem Mach.parityEnded_sig (pg : PagePgm) (bad : Bool) (m : Mach) : (Mach.parityEnded pg bad m).sig = m.sig := by
  unfold Mach.parityEnded
  try lift_lets
  repeat' first
    | (intro x; first | (have hx : x.sig = m.sig := by
                            simp only [x]
                            repeat' (first | (simp [*]; done) | intro _ | split   | simp [*])
                         clear_value x) | clear_value x)
    | (simp [*]; done)
    | intro _
    | split
    | simp [*]

@[simp] theorem Mach.putCws_sig (a : BitVec 40) (cws : List Cw) (m : Mach) : (Mach.putCws a cws m).sig = m.sig := by
  simp [Mach.putCws]

@[simp] theorem Mach.placeVersion_sig (id : Nat) (a : BitVec 40) (m : Mach) : (Mach.placeVersion id a m).sig = m.sig := by
  unfold Mach.placeVersion
  repeat' first
    | (simp [*]; done)
    | intro _
    | split
    | simp [*]

@[simp] theorem Mach.casCopy_sig (i : Nat) (src a : BitVec 40) (m : Mach) : (Mach.casCopy i src a m).sig = m.sig := by
  simp [Mach.casCopy]

@[simp] theorem Mach.placeCopy_sig (id : Nat) (a : BitVec 40) (m : Mach) : (Mach.placeCopy id a m).sig = m.sig := by
  unfold Mach.placeCopy
  try lift_lets
  repeat' first
    | (intro x; first | (have hx : x.sig = m.sig := by
                            simp only [x]
                            repeat' (first | (simp [*]; done) | intro _ | split   | simp [*])
                         clear_value x) | clear_value x)
    | (simp [*]; done)
    | intro _
    | split
    | simp [*]

@[simp] theorem Mach.confirmCovers_sig (id fsn page : Nat) (ch : Chan) (m : Mach) : (Mach.confirmCovers id fsn page ch m).sig = m.sig := by
  unfold Mach.confirmCovers
  try lift_lets
  repeat' first
    | (intro x; first | (have hx : x.sig = m.sig := by
                            simp only [x]
                            repeat' (first | (simp [*]; done) | intro _ | split   | simp [*])
                         clear_value x) | clear_value x)
    | (simp [*]; done)
    | intro _
    | split
    | simp [*]

@[simp] theorem Mach.storePage_sig (pg : PagePgm) (m : Mach) : (Mach.storePage pg m).sig = m.sig := by
  unfold Mach.storePage
  try lift_lets
  repeat' first
    | (intro x; first
      | (have hx : x.sig = m.sig := (by
        simp only [x]
        repeat' (first | (simp [*]; done) | intro _ | split | rw [Mach.each_sig] | simp [*])); clear_value x)
      | (have hx : x.1.sig = m.sig := (by
        simp only [x]
        repeat' (first | (simp [*]; done) | intro _ | split | rw [Mach.each_sig] | simp [*])); clear_value x)
      | clear_value x)
    | (simp [*]; done)
    | intro _
    | split
    | (have h2 := congrArg (fun p => p.1.sig) ‹_ = (_, _)›; simp at h2; simp [*]; done)
    | rw [Mach.each_sig]
    | simp [*]

@[simp] theorem Mach.pageConfirmed_sig (pg : PagePgm) (m : Mach) : (Mach.pageConfirmed pg m).sig = m.sig := by
  unfold Mach.pageConfirmed
  try lift_lets
  repeat' first
    | (intro x; first | (have hx : x.sig = m.sig := by
                            simp only [x]
                            repeat' (first | (simp [*]; done) | intro _ | split | rw [Mach.each_sig]  | simp [*])
                         clear_value x) | clear_value x)
    | (simp [*]; done)
    | intro _
    | split
    | rw [Mach.each_sig]
    | simp [*]

@[simp] theorem Mach.itemsBack_sig (items : List PlaneItem) (m : Mach) : (Mach.itemsBack items m).sig = m.sig := by
  unfold Mach.itemsBack
  repeat' first
    | (simp [*]; done)
    | intro _
    | split
    | rw [Mach.each_sig]
    | simp [*]

@[simp] theorem Mach.pageFailed_sig (pg : PagePgm) (cause : Option Nat) (m : Mach) : (Mach.pageFailed pg cause m).sig = m.sig := by
  unfold Mach.pageFailed
  try lift_lets
  repeat' first
    | (intro x; first | (have hx : x.sig = m.sig := by
                            simp only [x]
                            repeat' (first | (simp [*]; done) | intro _ | split | rw [Mach.each_sig]  | simp [*])
                         clear_value x) | clear_value x)
    | (simp [*]; done)
    | intro _
    | split
    | rw [Mach.each_sig]
    | simp [*]

@[simp] theorem Mach.pageGivenUp_sig (pg : PagePgm) (m : Mach) : (Mach.pageGivenUp pg m).sig = m.sig := by
  unfold Mach.pageGivenUp
  try lift_lets
  repeat' first
    | (intro x; first | (have hx : x.sig = m.sig := by
                            simp only [x]
                            repeat' (first | (simp [*]; done) | intro _ | split   | simp [*])
                         clear_value x) | clear_value x)
    | (simp [*]; done)
    | intro _
    | split
    | simp [*]

@[simp] theorem Mach.programPage_sig (pos : Fin 8) (faulty : List (Fin 4)) (m : Mach) : (Mach.programPage pos faulty m).sig = m.sig := by
  unfold Mach.programPage
  split
  · simp
  · dsimp only
    repeat' first
      | (simp; done)
      | split

@[simp] theorem Mach.beginVictim_sig (f : Nat) (rank4 : Bool) (m : Mach) : (Mach.beginVictim f rank4 m).sig = m.sig := by
  unfold Mach.beginVictim
  try lift_lets
  repeat' first
    | (intro x; first | (have hx : x.sig = m.sig := by
                            simp only [x]
                            repeat' (first | (simp [*]; done) | intro _ | split   | simp [*])
                         clear_value x) | clear_value x)
    | (simp [*]; done)
    | intro _
    | split
    | simp [*]

@[simp] theorem Mach.casPoison_sig (i : Nat) (src : BitVec 40) (v : Vid) (mu wsn : Nat) (m : Mach) : (Mach.casPoison i src v mu wsn m).sig = m.sig := by
  unfold Mach.casPoison
  try lift_lets
  repeat' first
    | (intro x; first | (have hx : x.sig = m.sig := by
                            simp only [x]
                            repeat' (first | (simp [*]; done) | intro _ | split   | simp [*])
                         clear_value x) | clear_value x)
    | (simp [*]; done)
    | intro _
    | split
    | simp [*]

@[simp] theorem Mach.setVictim_sig (low : Bool) (v : Option Victim) (m : Mach) : (Mach.setVictim low v m).sig = m.sig := by
  simp [Mach.setVictim]

@[simp] theorem Mach.advance_sig (low : Bool) (v : Victim) (m : Mach) : (Mach.advance low v m).sig = m.sig := by
  unfold Mach.advance
  try lift_lets
  repeat' first
    | (intro x; first | (have hx : x.sig = m.sig := by
                            simp only [x]
                            repeat' (first | (simp [*]; done) | intro _ | split   | simp [*])
                         clear_value x) | clear_value x)
    | (simp [*]; done)
    | intro _
    | split
    | simp [*]

@[simp] theorem Mach.srcRebuild_sig (a : BitVec 40) (r : SrcRead) (m : Mach) : (Mach.srcRebuild a r m).1.sig = m.sig := by
  unfold Mach.srcRebuild
  dsimp only
  split <;> simp [Mach.each_sig]

@[simp] theorem Mach.srcDecode_sig (a : BitVec 40) (r : SrcRead) (m : Mach) : (Mach.srcDecode a r m).1.sig = m.sig := by
  unfold Mach.srcDecode
  try dsimp only
  repeat' first | (simp; done) | split

@[simp] theorem Mach.srcStage4_sig (a : BitVec 40) (good : Bool) (r : SrcRead) (m : Mach) : (Mach.srcStage4 a good r m).1.sig = m.sig := by
  unfold Mach.srcStage4
  try dsimp only
  repeat' first | (simp; done) | split

@[simp] theorem Mach.srcRead_sig (a : BitVec 40) (meets : Cw → Bool) (r : SrcRead) (m : Mach) : (Mach.srcRead a meets r m).1.sig = m.sig := by
  unfold Mach.srcRead
  try dsimp only
  repeat' first | (simp; done) | split

@[simp] theorem Mach.srcTag_sig (v : Vid) (a : BitVec 40) (stage : Nat) (r : SrcRead) (m : Mach) : (Mach.srcTag v a stage r m).1.sig = m.sig := by
  unfold Mach.srcTag
  try dsimp only
  repeat' first | (simp; done) | split

@[simp] theorem Mach.identifyMu_sig (a : BitVec 40) (reads : List SrcRead) (l : List Nat) (m : Mach) :
    (Mach.identifyMu a reads l m).1.sig = m.sig := by
  induction l generalizing m with
  | nil => rfl
  | cons s ss ih =>
    have h := Mach.srcRead_sig (a + BitVec.ofNat 40 s) (fun x => (x.kind == .data && x.lba % 4 == s) || x.kind == .filler)
      (reads.getD s goodRead) m
    rw [Mach.identifyMu]
    generalize m.srcRead (a + BitVec.ofNat 40 s) (fun x => (x.kind == .data && x.lba % 4 == s) || x.kind == .filler)
      (reads.getD s goodRead) = r at h ⊢
    obtain ⟨m', o⟩ := r
    cases o
    · simpa [ih] using h
    · exact h

@[simp] theorem Mach.copyLb_sig (a : BitVec 40) (id : Cw) (s0 k0 s : Nat) (r : SrcRead) (m : Mach) : (Mach.copyLb a id s0 k0 s r m).1.sig = m.sig := by
  unfold Mach.copyLb
  try dsimp only
  repeat' first | (simp; done) | split

@[simp] theorem Mach.copyLbs_sig (a : BitVec 40) (reads : List SrcRead) (id : Cw) (s0 k0 : Nat) (l : List Nat) (m : Mach) :
    (Mach.copyLbs a reads id s0 k0 l m).1.sig = m.sig := by
  induction l generalizing m with
  | nil => rfl
  | cons s ss ih => simp [Mach.copyLbs, ih]

@[simp] theorem Mach.stageCopy_sig (v : Victim) (a : BitVec 40) (id : Cw) (l : List (Nat × Option Block)) (m : Mach) : (Mach.stageCopy v a id l m).sig = m.sig := by
  unfold Mach.stageCopy
  try lift_lets
  repeat' first
    | (intro x; first
      | (have hx : x.sig = m.sig := (by
        simp only [x]
        repeat' (first | (simp [*]; done) | intro _ | split | rw [Mach.each_sig] | simp [*])); clear_value x)
      | (have hx : x.1.sig = m.sig := (by
        simp only [x]
        repeat' (first | (simp [*]; done) | intro _ | split | rw [Mach.each_sig] | simp [*])); clear_value x)
      | clear_value x)
    | (simp [*]; done)
    | intro _
    | split
    | (have h2 := congrArg (fun p => p.1.sig) ‹_ = (_, _)›; simp at h2; simp [*]; done)
    | rw [Mach.each_sig]
    | simp [*]

@[simp] theorem Mach.poisonMu_sig (i : Nat) (a : BitVec 40) (id : Cw) (l : List (Nat × Option Block)) (m : Mach) : (Mach.poisonMu i a id l m).sig = m.sig := by
  unfold Mach.poisonMu
  try lift_lets
  repeat' first
    | (intro x; first
      | (have hx : x.sig = m.sig := (by
        simp only [x]
        repeat' (first | (simp [*]; done) | intro _ | split | rw [Mach.each_sig] | simp [*])); clear_value x)
      | (have hx : x.1.sig = m.sig := (by
        simp only [x]
        repeat' (first | (simp [*]; done) | intro _ | split | rw [Mach.each_sig] | simp [*])); clear_value x)
      | clear_value x)
    | (simp [*]; done)
    | intro _
    | split
    | (have h2 := congrArg (fun p => p.1.sig) ‹_ = (_, _)›; simp at h2; simp [*]; done)
    | rw [Mach.each_sig]
    | simp [*]

@[simp] theorem Mach.gleanMu_sig (v : Victim) (a : BitVec 40) (reads : List SrcRead) (s0 k0 : Nat) (m : Mach) : (Mach.gleanMu v a reads s0 k0 m).sig = m.sig := by
  unfold Mach.gleanMu
  dsimp only
  repeat' first | (simp; done) | split

@[simp] theorem Mach.gleanPlane_sig (low : Bool) (v : Victim) (a : BitVec 40) (reads : List SrcRead) (m : Mach) : (Mach.gleanPlane low v a reads m).sig = m.sig := by
  unfold Mach.gleanPlane
  split
  · rfl
  · have h := Mach.identifyMu_sig (m := m) (a := a) (reads := reads) (l := [0, 1, 2, 3])
    generalize m.identifyMu a reads [0, 1, 2, 3] = r at h
    obtain ⟨m', o⟩ := r
    cases o <;> simpa using h

@[simp] theorem Mach.gleanRead_sig (low : Bool) (reads : List SrcRead) (m : Mach) : (Mach.gleanRead low reads m).sig = m.sig := by
  unfold Mach.gleanRead
  dsimp only
  repeat' first | (simp; done) | split

@[simp] theorem Mach.residual_sig (low : Bool) (m : Mach) : (Mach.residual low m).sig = m.sig := by
  unfold Mach.residual
  try lift_lets
  repeat' first
    | (intro x; first | (have hx : x.sig = m.sig := by
                            simp only [x]
                            repeat' (first | (simp [*]; done) | intro _ | split | rw [Mach.each_sig]  | simp [*])
                         clear_value x) | clear_value x)
    | (simp [*]; done)
    | intro _
    | split
    | rw [Mach.each_sig]
    | simp [*]

@[simp] theorem Mach.queueErase_sig (c : Chan) (row b : Nat) (system : Bool) (m : Mach) : (Mach.queueErase c row b system m).sig = m.sig := by
  simp [Mach.queueErase]

@[simp] theorem Mach.passGate_sig (f : Nat) (m : Mach) : (Mach.passGate f m).sig = m.sig := by
  unfold Mach.passGate
  try lift_lets
  repeat' first
    | (intro x; first | (have hx : x.sig = m.sig := by
                            simp only [x]
                            repeat' (first | (simp [*]; done) | intro _ | split | rw [Mach.each_sig]  | simp [*])
                         clear_value x) | clear_value x)
    | (simp [*]; done)
    | intro _
    | split
    | rw [Mach.each_sig]
    | simp [*]

@[simp] theorem Mach.gate_sig (m : Mach) : (Mach.gate m).sig = m.sig := by
  unfold Mach.gate
  try lift_lets
  repeat' first
    | (intro x; first | (have hx : x.sig = m.sig := by
                            simp only [x]
                            repeat' (first | (simp [*]; done) | intro _ | split   | simp [*])
                         clear_value x) | clear_value x)
    | (simp [*]; done)
    | intro _
    | split
    | simp [*]

@[simp] theorem Mach.wipeBlock_sig (d b : Nat) (m : Mach) : (Mach.wipeBlock d b m).sig = m.sig := by
  simp [Mach.wipeBlock]

@[simp] theorem Mach.setHfur_sig (k : Nat) (x : HFur) (m : Mach) : (Mach.setHfur k x m).sig = m.sig := by
  simp [Mach.setHfur]

theorem Mach.hdlOpen_sig  {m u : Mach} (h : m.hdlOpen = some u) : u.sig = m.sig := by
  unfold Mach.hdlOpen at h
  cases hn : m.hdlNext with
  | none => simp [hn] at h
  | some k =>
    simp only [hn, Option.map_some, Option.some.injEq] at h
    subst h
    split <;> simp

@[simp] theorem Mach.hdlClose_sig (m : Mach) : (Mach.hdlClose m).sig = m.sig := by
  unfold Mach.hdlClose
  repeat' first
    | (simp [*]; done)
    | intro _
    | split
    | simp [*]

theorem Mach.hdlRoom_sig (fuel n : Nat) {m : Mach} {r : Mach × List Nat} (h : m.hdlRoom fuel n = some r) : r.1.sig = m.sig := by
  induction fuel generalizing n m r with
  | zero => simp [Mach.hdlRoom] at h
  | succ f ih =>
    unfold Mach.hdlRoom at h
    split at h
    · split at h
      · cases h
      · rename_i u hu
        rw [ih _ h, Mach.hdlOpen_sig  hu]
    · dsimp only at h
      split at h
      · cases h; simp
      · split at h
        · rw [ih _ h]; simp
        · simp only [Option.map_eq_some_iff] at h
          obtain ⟨a, ha, rfl⟩ := h
          dsimp only
          rw [ih _ ha]; simp

@[simp] theorem Mach.imageSeg_sig (s pos : Nat) (m : Mach) : (Mach.imageSeg s pos m).sig = m.sig := by
  unfold Mach.imageSeg
  try lift_lets
  repeat' first
    | (intro x; first | (have hx : x.sig = m.sig := by
                            simp only [x]
                            repeat' (first | (simp [*]; done) | intro _ | split   | simp [*])
                         clear_value x) | clear_value x)
    | (simp [*]; done)
    | intro _
    | split
    | simp [*]

theorem Mach.append_sig (id : Nat) (b : HBody) {m u : Mach} (h : m.append id b = some u) : u.sig = m.sig := by
  unfold Mach.append at h
  simp only [Option.map_eq_some_iff] at h
  obtain ⟨r, hr, rfl⟩ := h
  rw [Mach.queueOp_sig]
  simp [Mach.hdlRoom_sig  _ _ hr]

@[simp] theorem Mach.appendRootFor_sig (s : Option Nat) (m : Mach) : (Mach.appendRootFor s m).sig = m.sig := by
  unfold Mach.appendRootFor
  dsimp only
  split
  · simp
  · rename_i h
    have := Mach.append_sig (h := h) ..
    simpa using this

@[simp] theorem Mach.appendRoot_sig (m : Mach) : (Mach.appendRoot m).sig = m.sig := by
  unfold Mach.appendRoot
  try lift_lets
  repeat' first
    | (intro x; first
      | (have hx : x.sig = m.sig := (by
        simp only [x]
        repeat' (first | (simp [*]; done) | intro _ | split | rw [Mach.each_sig] | simp [*])); clear_value x)
      | (have hx : x.1.sig = m.sig := (by
        simp only [x]
        repeat' (first | (simp [*]; done) | intro _ | split | rw [Mach.each_sig] | simp [*])); clear_value x)
      | clear_value x)
    | (simp [*]; done)
    | intro _
    | split
    | (have h2 := congrArg (fun p => p.1.sig) ‹_ = (_, _)›; simp at h2; simp [*]; done)
    | rw [Mach.each_sig]
    | simp [*]

@[simp] theorem Mach.appendSeg_sig (s : Nat) (force : Bool) (m : Mach) : (Mach.appendSeg s force m).sig = m.sig := by
  unfold Mach.appendSeg
  dsimp only
  split
  · simp
  · rename_i u hu
    simp [Mach.append_sig  _ _ hu]

@[simp] theorem Mach.appendDirectory_sig (m : Mach) : (Mach.appendDirectory m).sig = m.sig := by
  unfold Mach.appendDirectory
  dsimp only
  split
  · simp
  · rename_i u hu
    simp [Mach.append_sig  _ _ hu]

@[simp] theorem Mach.appendWant_sig (w : Nat × HBody) (m : Mach) : (Mach.appendWant w m).sig = m.sig := by
  unfold Mach.appendWant
  dsimp only
  split
  · simp
  · rename_i u hu
    have := Mach.append_sig  _ _ hu
    split <;> simp [this]

@[simp] theorem Mach.replaceRec_sig (r : HRec) (m : Mach) : (Mach.replaceRec r m).sig = m.sig := by
  unfold Mach.replaceRec
  split
  · simp
  · rename_i u furs hu
    have := Mach.hdlRoom_sig  _ _ hu
    simp at this
    simp [this]

@[simp] theorem Mach.rewriteRec_sig (b : HBody) (m : Mach) : (Mach.rewriteRec b m).sig = m.sig := by
  unfold Mach.rewriteRec
  simp

theorem Mach.scrubNext_sig  {m u : Mach} (h : m.scrubNext = some u) : u.sig = m.sig := by
  unfold Mach.scrubNext at h
  dsimp only at h
  split at h
  · cases h
  · split at h
    · cases h; simp
    · split at h
      · cases h
      · split at h <;> first | (cases h; simp; done) | cases h

@[simp] theorem Mach.headlandWrite_sig (m : Mach) : (Mach.headlandWrite m).sig = m.sig := by
  unfold Mach.headlandWrite
  repeat' first
    | (simp; done)
    | exact Mach.scrubNext_sig  ‹_›
    | split

@[simp] theorem Mach.hdlRelease_sig (m : Mach) : (Mach.hdlRelease m).sig = m.sig := by
  unfold Mach.hdlRelease
  repeat' first
    | (simp [*]; done)
    | intro _
    | split
    | simp [*]

@[simp] theorem Mach.hdlErase_sig (m : Mach) : (Mach.hdlErase m).sig = m.sig := by
  unfold Mach.hdlErase
  try lift_lets
  repeat' first
    | (intro x; first | (have hx : x.sig = m.sig := by
                            simp only [x]
                            repeat' (first | (simp [*]; done) | intro _ | split | rw [Mach.each_sig]  | simp [*])
                         clear_value x) | clear_value x)
    | (simp [*]; done)
    | intro _
    | split
    | rw [Mach.each_sig]
    | simp [*]

@[simp] theorem Mach.hdlFailed_sig (id : Nat) (c : Chan) (cause : Nat) (m : Mach) : (Mach.hdlFailed id c cause m).sig = m.sig := by
  unfold Mach.hdlFailed
  try lift_lets
  repeat' first
    | (intro x; first | (have hx : x.sig = m.sig := by
                            simp only [x]
                            repeat' (first | (simp [*]; done) | intro _ | split   | simp [*])
                         clear_value x) | clear_value x)
    | (simp [*]; done)
    | intro _
    | split
    | simp [*]

@[simp] theorem Mach.hdlPassed_sig (id : Nat) (m : Mach) : (Mach.hdlPassed id m).sig = m.sig := by
  simp [Mach.hdlPassed]

@[simp] theorem Mach.setOp_sig (o : Op) (m : Mach) : (Mach.setOp o m).sig = m.sig := by
  simp [Mach.setOp]

@[simp] theorem Mach.dropOp_sig (id : Nat) (m : Mach) : (Mach.dropOp id m).sig = m.sig := by
  simp [Mach.dropOp]

@[simp] theorem Mach.svcStatus_sig (d : Nat) (a : Agent) (code opc : Nat) (m : Mach) : (Mach.svcStatus d a code opc m).sig = m.sig := by
  simp [Mach.svcStatus]

@[simp] theorem Mach.svcEnd_sig (o : Op) (a : Agent) (opc status : Nat) (m : Mach) : (Mach.svcEnd o a opc status m).sig = m.sig := by
  simp [Mach.svcEnd]

@[simp] theorem Mach.memberErased_sig (c : Chan) (f : Nat) (m : Mach) : (Mach.memberErased c f m).sig = m.sig := by
  simp [Mach.memberErased]

@[simp] theorem Mach.hdlErased_sig (row b : Nat) (m : Mach) : (Mach.hdlErased row b m).sig = m.sig := by
  unfold Mach.hdlErased
  try lift_lets
  repeat' first
    | (intro x; first | (have hx : x.sig = m.sig := by
                            simp only [x]
                            repeat' (first | (simp [*]; done) | intro _ | split   | simp [*])
                         clear_value x) | clear_value x)
    | (simp [*]; done)
    | intro _
    | split
    | simp [*]

@[simp] theorem Mach.dieEraseOver_sig (d : Nat) (m : Mach) : (Mach.dieEraseOver d m).sig = m.sig := by
  simp [Mach.dieEraseOver]

@[simp] theorem Mach.hdlWorn_sig (n : Nat) (m : Mach) : (Mach.hdlWorn n m).sig = m.sig := by
  unfold Mach.hdlWorn
  try lift_lets
  repeat' first
    | (intro x; first
      | (have hx : x.sig = m.sig := (by
        simp only [x]
        repeat' (first | (simp [*]; done) | intro _ | split | rw [Mach.each_sig] | simp [*])); clear_value x)
      | (have hx : x.1.sig = m.sig := (by
        simp only [x]
        repeat' (first | (simp [*]; done) | intro _ | split | rw [Mach.each_sig] | simp [*])); clear_value x)
      | clear_value x)
    | (simp [*]; done)
    | intro _
    | split
    | (have h2 := congrArg (fun p => p.1.sig) ‹_ = (_, _)›; simp at h2; simp [*]; done)
    | rw [Mach.each_sig]
    | simp [*]

@[simp] theorem Mach.eraseDone_sig (o : Op) (b : Nat) (system : Bool) (m : Mach) : (Mach.eraseDone o b system m).sig = m.sig := by
  unfold Mach.eraseDone
  try lift_lets
  repeat' first
    | (intro x; first | (have hx : x.sig = m.sig := by
                            simp only [x]
                            repeat' (first | (simp [*]; done) | intro _ | split   | simp [*])
                         clear_value x) | clear_value x)
    | (simp [*]; done)
    | intro _
    | split
    | simp [*]

@[simp] theorem Mach.eraseFailed_sig (o : Op) (b : Nat) (system : Bool) (cause : Nat) (m : Mach) : (Mach.eraseFailed o b system cause m).sig = m.sig := by
  unfold Mach.eraseFailed
  try lift_lets
  repeat' first
    | (intro x; first | (have hx : x.sig = m.sig := by
                            simp only [x]
                            repeat' (first | (simp [*]; done) | intro _ | split   | simp [*])
                         clear_value x) | clear_value x)
    | (simp [*]; done)
    | intro _
    | split
    | simp [*]

@[simp] theorem Mach.eraseLost_sig (d b : Nat) (m : Mach) : (Mach.eraseLost d b m).sig = m.sig := by
  unfold Mach.eraseLost
  try lift_lets
  repeat' first
    | (intro x; first | (have hx : x.sig = m.sig := by
                            simp only [x]
                            repeat' (first | (simp [*]; done) | intro _ | split   | simp [*])
                         clear_value x) | clear_value x)
    | (simp [*]; done)
    | intro _
    | split
    | simp [*]

@[simp] theorem Mach.resetDie_sig (d : Nat) (m : Mach) : (Mach.resetDie d m).sig = m.sig := by
  unfold Mach.resetDie
  try lift_lets
  repeat' first
    | (intro x; first | (have hx : x.sig = m.sig := by
                            simp only [x]
                            repeat' (first | (simp [*]; done) | intro _ | split   | simp [*])
                         clear_value x) | clear_value x)
    | (simp [*]; done)
    | intro _
    | split
    | simp [*]

@[simp] theorem Mach.suspendErase_sig (d : Nat) (count : Bool) (m : Mach) : (Mach.suspendErase d count m).sig = m.sig := by
  unfold Mach.suspendErase
  try lift_lets
  repeat' first
    | (intro x; first | (have hx : x.sig = m.sig := by
                            simp only [x]
                            repeat' (first | (simp [*]; done) | intro _ | split   | simp [*])
                         clear_value x) | clear_value x)
    | (simp [*]; done)
    | intro _
    | split
    | simp [*]

@[simp] theorem Mach.resumeErase_sig (d : Nat) (m : Mach) : (Mach.resumeErase d m).sig = m.sig := by
  unfold Mach.resumeErase
  try lift_lets
  repeat' first
    | (intro x; first | (have hx : x.sig = m.sig := by
                            simp only [x]
                            repeat' (first | (simp [*]; done) | intro _ | split   | simp [*])
                         clear_value x) | clear_value x)
    | (simp [*]; done)
    | intro _
    | split
    | simp [*]

@[simp] theorem Mach.suspendChan_sig (c : Chan) (m : Mach) : (Mach.suspendChan c m).sig = m.sig := by
  unfold Mach.suspendChan
  repeat' first
    | (simp [*]; done)
    | intro _
    | split
    | rw [Mach.each_sig]
    | simp [*]

@[simp] theorem Mach.destroy_sig (d b : Nat) (site : Option (Nat × Nat)) (m : Mach) : (Mach.destroy d b site m).sig = m.sig := by
  simp [Mach.destroy]

@[simp] theorem Mach.erasePlanes_sig (d : Nat) (x : Apt) (m : Mach) : (Mach.erasePlanes d x m).sig = m.sig := by
  unfold Mach.erasePlanes
  try lift_lets
  repeat' first
    | (intro x; first
      | (have hx : x.sig = m.sig := (by
        simp only [x]
        repeat' (first | (simp [*]; done) | intro _ | split | rw [Mach.each_sig] | simp [*])); clear_value x)
      | (have hx : x.1.sig = m.sig := (by
        simp only [x]
        repeat' (first | (simp [*]; done) | intro _ | split | rw [Mach.each_sig] | simp [*])); clear_value x)
      | clear_value x)
    | (simp [*]; done)
    | intro _
    | split
    | (have h2 := congrArg (fun p => p.1.sig) ‹_ = (_, _)›; simp at h2; simp [*]; done)
    | rw [Mach.each_sig]
    | simp [*]

@[simp] theorem Mach.rawProgram_sig (o : Op) (x : Apt) (pass : Bool) (m : Mach) : (Mach.rawProgram o x pass m).sig = m.sig := by
  unfold Mach.rawProgram
  try lift_lets
  repeat' first
    | (intro x; first
      | (have hx : x.sig = m.sig := (by
        simp only [x]
        repeat' (first | (simp [*]; done) | intro _ | split | rw [Mach.each_sig] | simp [*])); clear_value x)
      | (have hx : x.1.sig = m.sig := (by
        simp only [x]
        repeat' (first | (simp [*]; done) | intro _ | split | rw [Mach.each_sig] | simp [*])); clear_value x)
      | clear_value x)
    | (simp [*]; done)
    | intro _
    | split
    | (have h2 := congrArg (fun p => p.1.sig) ‹_ = (_, _)›; simp at h2; simp [*]; done)
    | rw [Mach.each_sig]
    | simp [*]

@[simp] theorem Mach.stallXfer_sig (o : Op) (m : Mach) : (Mach.stallXfer o m).sig = m.sig := by
  unfold Mach.stallXfer
  try lift_lets
  repeat' first
    | (intro x; first
      | (have hx : x.sig = m.sig := (by
        simp only [x]
        repeat' (first | (simp [*]; done) | intro _ | split | rw [Mach.each_sig] | simp [*])); clear_value x)
      | (have hx : x.1.sig = m.sig := (by
        simp only [x]
        repeat' (first | (simp [*]; done) | intro _ | split | rw [Mach.each_sig] | simp [*])); clear_value x)
      | clear_value x)
    | (simp [*]; done)
    | intro _
    | split
    | (have h2 := congrArg (fun p => p.1.sig) ‹_ = (_, _)›; simp at h2; simp [*]; done)
    | rw [Mach.each_sig]
    | simp [*]

@[simp] theorem Mach.svcTransfer_sig (o : Op) (code : Nat) (x : Apt) (m : Mach) : (Mach.svcTransfer o code x m).sig = m.sig := by
  unfold Mach.svcTransfer
  try lift_lets
  repeat' first
    | (intro x; first | (have hx : x.sig = m.sig := by
                            simp only [x]
                            repeat' (first | (simp [*]; done) | intro _ | split   | simp [*])
                         clear_value x) | clear_value x)
    | (simp [*]; done)
    | intro _
    | split
    | simp [*]

@[simp] theorem Mach.svcDrain_sig (m : Mach) : (Mach.svcDrain m).sig = m.sig := by
  unfold Mach.svcDrain
  repeat' first
    | (simp [*]; done)
    | intro _
    | split
    | rw [Mach.each_sig]
    | simp [*]

@[simp] theorem Mach.svcErased_sig (o : Op) (code : Nat) (x : Apt) (m : Mach) : (Mach.svcErased o code x m).sig = m.sig := by
  unfold Mach.svcErased
  try lift_lets
  repeat' first
    | (intro x; first
      | (have hx : x.sig = m.sig := (by
        simp only [x]
        repeat' (first | (simp [*]; done) | intro _ | split | rw [Mach.each_sig] | simp [*])); clear_value x)
      | (have hx : x.1.sig = m.sig := (by
        simp only [x]
        repeat' (first | (simp [*]; done) | intro _ | split | rw [Mach.each_sig] | simp [*])); clear_value x)
      | clear_value x)
    | (simp [*]; done)
    | intro _
    | split
    | (have h2 := congrArg (fun p => p.1.sig) ‹_ = (_, _)›; simp at h2; simp [*]; done)
    | rw [Mach.each_sig]
    | simp [*]

@[simp] theorem Mach.pendReads_sig (e : Op) (m : Mach) : (Mach.pendReads e m).sig = m.sig := by
  unfold Mach.pendReads
  try lift_lets
  repeat' first
    | (intro x; first
      | (have hx : x.sig = m.sig := (by
        simp only [x]
        repeat' (first | (simp [*]; done) | intro _ | split | rw [Mach.each_sig] | simp [*])); clear_value x)
      | (have hx : x.1.sig = m.sig := (by
        simp only [x]
        repeat' (first | (simp [*]; done) | intro _ | split | rw [Mach.each_sig] | simp [*])); clear_value x)
      | clear_value x)
    | (simp [*]; done)
    | intro _
    | split
    | (have h2 := congrArg (fun p => p.1.sig) ‹_ = (_, _)›; simp at h2; simp [*]; done)
    | rw [Mach.each_sig]
    | simp [*]

@[simp] theorem Mach.svcErased1_sig (o : Op) (x : Apt) (pass : Bool) (m : Mach) : (Mach.svcErased1 o x pass m).sig = m.sig := by
  unfold Mach.svcErased1
  try lift_lets
  repeat' first
    | (intro x; first | (have hx : x.sig = m.sig := by
                            simp only [x]
                            repeat' (first | (simp [*]; done) | intro _ | split | rw [Mach.each_sig]  | simp [*])
                         clear_value x) | clear_value x)
    | (simp [*]; done)
    | intro _
    | split
    | rw [Mach.each_sig]
    | simp [*]

@[simp] theorem Mach.eraseCompletes_sig (d : Nat) (m : Mach) : (Mach.eraseCompletes d m).sig = m.sig := by
  unfold Mach.eraseCompletes
  try lift_lets
  repeat' first
    | (intro x; first
      | (have hx : x.sig = m.sig := (by
        simp only [x]
        repeat' (first | (simp [*]; done) | intro _ | split | rw [Mach.each_sig] | simp [*])); clear_value x)
      | (have hx : x.1.sig = m.sig := (by
        simp only [x]
        repeat' (first | (simp [*]; done) | intro _ | split | rw [Mach.each_sig] | simp [*])); clear_value x)
      | clear_value x)
    | (simp [*]; done)
    | intro _
    | split
    | (have h2 := congrArg (fun p => p.1.sig) ‹_ = (_, _)›; simp at h2; simp [*]; done)
    | rw [Mach.each_sig]
    | simp [*]

@[simp] theorem Mach.learnBoard_sig (m : Mach) : (Mach.learnBoard m).sig = m.sig := by
  unfold Mach.learnBoard
  repeat' first
    | (simp [*]; done)
    | intro _
    | split
    | simp [*]

@[simp] theorem Mach.learnTimes_sig (m : Mach) : (Mach.learnTimes m).sig = m.sig := by
  unfold Mach.learnTimes
  try lift_lets
  repeat' first
    | (intro x; first
      | (have hx : x.sig = m.sig := (by
        simp only [x]
        repeat' (first | (simp [*]; done) | intro _ | split | rw [Mach.each_sig] | simp [*])); clear_value x)
      | (have hx : x.1.sig = m.sig := (by
        simp only [x]
        repeat' (first | (simp [*]; done) | intro _ | split | rw [Mach.each_sig] | simp [*])); clear_value x)
      | clear_value x)
    | (simp [*]; done)
    | intro _
    | split
    | (have h2 := congrArg (fun p => p.1.sig) ‹_ = (_, _)›; simp at h2; simp [*]; done)
    | rw [Mach.each_sig]
    | simp [*]

@[simp] theorem Mach.fixBudget_sig (m : Mach) : (Mach.fixBudget m).sig = m.sig := by
  unfold Mach.fixBudget
  try lift_lets
  repeat' first
    | (intro x; first | (have hx : x.sig = m.sig := by
                            simp only [x]
                            repeat' (first | (simp [*]; done) | intro _ | split   | simp [*])
                         clear_value x) | clear_value x)
    | (simp [*]; done)
    | intro _
    | split
    | simp [*]

@[simp] theorem Mach.placeDram_sig (m : Mach) : (Mach.placeDram m).sig = m.sig := by
  unfold Mach.placeDram
  exact Mach.updLamp_sig ..

@[simp] theorem Mach.enterIo_sig (m : Mach) : (Mach.enterIo m).sig = m.sig := by
  unfold Mach.enterIo
  try lift_lets
  repeat' first
    | (intro x; first | (have hx : x.sig = m.sig := by
                            simp only [x]
                            repeat' (first | (simp [*]; done) | intro _ | split | rw [Mach.each_sig]  | simp [*])
                         clear_value x) | clear_value x)
    | (simp [*]; done)
    | intro _
    | split
    | rw [Mach.each_sig]
    | simp [*]

@[simp] theorem Mach.formatDie_sig (d : Nat) (i : DieInfo) (m : Mach) : (Mach.formatDie d i m).sig = m.sig := by
  unfold Mach.formatDie
  repeat' first
    | (simp [*]; done)
    | intro _
    | split
    | rw [Mach.each_sig]
    | simp [*]

@[simp] theorem Mach.firstFormat_sig (m : Mach) : (Mach.firstFormat m).sig = m.sig := by
  unfold Mach.firstFormat
  try lift_lets
  repeat' first
    | (intro x; first | (have hx : x.sig = m.sig := by
                            simp only [x]
                            repeat' (first | (simp [*]; done) | intro _ | split | rw [Mach.each_sig]  | simp [*])
                         clear_value x) | clear_value x)
    | (simp [*]; done)
    | intro _
    | split
    | rw [Mach.each_sig]
    | simp [*]

@[simp] theorem Mach.unmapExtent_sig (v : Vid) (m : Mach) : (Mach.unmapExtent v m).sig = m.sig := by
  unfold Mach.unmapExtent
  try lift_lets
  repeat' first
    | (intro x; first | (have hx : x.sig = m.sig := by
                            simp only [x]
                            repeat' (first | (simp [*]; done) | intro _ | split | rw [Mach.each_sig]  | simp [*])
                         clear_value x) | clear_value x)
    | (simp [*]; done)
    | intro _
    | split
    | rw [Mach.each_sig]
    | simp [*]

@[simp] theorem Mach.discardVersions_sig (v : Vid) (m : Mach) : (Mach.discardVersions v m).sig = m.sig := by
  simp [Mach.discardVersions]

@[simp] theorem Mach.volWork_sig (v : Vid) (m : Mach) : (Mach.volWork v m).sig = m.sig := by
  unfold Mach.volWork
  try lift_lets
  repeat' first
    | (intro x; first | (have hx : x.sig = m.sig := by
                            simp only [x]
                            repeat' (first | (simp [*]; done) | intro _ | split   | simp [*])
                         clear_value x) | clear_value x)
    | (simp [*]; done)
    | intro _
    | split
    | simp [*]

@[simp] theorem Mach.volProgress_sig (m : Mach) : (Mach.volProgress m).sig = m.sig := by
  unfold Mach.volProgress
  repeat' first
    | (simp [*]; done)
    | intro _
    | split
    | rw [Mach.each_sig]
    | simp [*]

@[simp] theorem Mach.volBegin_sig (v : Vid) (x : Vol) (m : Mach) : (Mach.volBegin v x m).sig = m.sig := by
  simp [Mach.volBegin]

@[simp] theorem Mach.twnResult_sig (v : Vid) (status : Nat) (m : Mach) : (Mach.twnResult v status m).sig = m.sig := by
  simp [Mach.twnResult]

@[simp] theorem Mach.volEnd_sig (v : Vid) (m : Mach) : (Mach.volEnd v m).sig = m.sig := by
  unfold Mach.volEnd
  try lift_lets
  repeat' first
    | (intro x; first | (have hx : x.sig = m.sig := by
                            simp only [x]
                            repeat' (first | (simp [*]; done) | intro _ | split   | simp [*])
                         clear_value x) | clear_value x)
    | (simp [*]; done)
    | intro _
    | split
    | simp [*]

@[simp] theorem Mach.checkPopulation_sig (m : Mach) : (Mach.checkPopulation m).sig = m.sig := by
  simp [Mach.checkPopulation]

@[simp] theorem Mach.createAccepted_sig (x : VolArgs) (m : Mach) : (Mach.createAccepted x m).sig = m.sig := by
  unfold Mach.createAccepted
  try lift_lets
  repeat' first
    | (intro x; first | (have hx : x.sig = m.sig := by
                            simp only [x]
                            repeat' (first | (simp [*]; done) | intro _ | split   | simp [*])
                         clear_value x) | clear_value x)
    | (simp [*]; done)
    | intro _
    | split
    | simp [*]

@[simp] theorem Mach.twinRepeat_sig (p : Port) (op : Nat) (v : Vid) (layout : Nat) (arg : Nat) (m : Mach) : (Mach.twinRepeat p op v layout arg m).sig = m.sig := by
  unfold Mach.twinRepeat
  try lift_lets
  repeat' first
    | (intro x; first | (have hx : x.sig = m.sig := by
                            simp only [x]
                            repeat' (first | (simp [*]; done) | intro _ | split   | simp [*])
                         clear_value x) | clear_value x)
    | (simp [*]; done)
    | intro _
    | split
    | simp [*]

@[simp] theorem Mach.formatAccepted_sig (p : Port) (x : VolArgs) (m : Mach) : (Mach.formatAccepted p x m).sig = m.sig := by
  unfold Mach.formatAccepted
  try lift_lets
  repeat' first
    | (intro x; first | (have hx : x.sig = m.sig := by
                            simp only [x]
                            repeat' (first | (simp [*]; done) | intro _ | split   | simp [*])
                         clear_value x) | clear_value x)
    | (simp [*]; done)
    | intro _
    | split
    | simp [*]

@[simp] theorem Mach.deleteAccepted_sig (p : Port) (u : Vid) (m : Mach) : (Mach.deleteAccepted p u m).sig = m.sig := by
  simp [Mach.deleteAccepted]

@[simp] theorem Mach.pendEpoch_sig (v : Vid) (e : Nat) (owner : Bool) (t : TwinSt) (m : Mach) : (Mach.pendEpoch v e owner t m).sig = m.sig := by
  simp [Mach.pendEpoch]

@[simp] theorem Mach.notOwnerCut_sig (v : Vid) (m : Mach) : (Mach.notOwnerCut v m).sig = m.sig := by
  unfold Mach.notOwnerCut
  try lift_lets
  repeat' first
    | (intro x; first | (have hx : x.sig = m.sig := by
                            simp only [x]
                            repeat' (first | (simp [*]; done) | intro _ | split | rw [Mach.each_sig]  | simp [*])
                         clear_value x) | clear_value x)
    | (simp [*]; done)
    | intro _
    | split
    | rw [Mach.each_sig]
    | simp [*]

@[simp] theorem Mach.takeAckCheck_sig (v : Vid) (m : Mach) : (Mach.takeAckCheck v m).sig = m.sig := by
  unfold Mach.takeAckCheck
  try lift_lets
  repeat' first
    | (intro x; first | (have hx : x.sig = m.sig := by
                            simp only [x]
                            repeat' (first | (simp [*]; done) | intro _ | split   | simp [*])
                         clear_value x) | clear_value x)
    | (simp [*]; done)
    | intro _
    | split
    | simp [*]

@[simp] theorem Mach.dropPieces_sig (v : Vid) (m : Mach) : (Mach.dropPieces v m).sig = m.sig := by
  unfold Mach.dropPieces
  repeat' first
    | (simp [*]; done)
    | intro _
    | split
    | rw [Mach.each_sig]
    | simp [*]

@[simp] theorem Mach.sendVolstate_sig (v : Vid) (m : Mach) : (Mach.sendVolstate v m).sig = m.sig := by
  simp [Mach.sendVolstate]

@[simp] theorem Mach.epochAnswers_sig (v : Vid) (owner : Bool) (m : Mach) : (Mach.epochAnswers v owner m).sig = m.sig := by
  unfold Mach.epochAnswers
  repeat' first
    | (simp [*]; done)
    | intro _
    | split
    | rw [Mach.each_sig]
    | simp [*]

@[simp] theorem Mach.epochDurable_sig (v : Vid) (m : Mach) : (Mach.epochDurable v m).sig = m.sig := by
  unfold Mach.epochDurable
  try lift_lets
  repeat' first
    | (intro x; first | (have hx : x.sig = m.sig := by
                            simp only [x]
                            repeat' (first | (simp [*]; done) | intro _ | split   | simp [*])
                         clear_value x) | clear_value x)
    | (simp [*]; done)
    | intro _
    | split
    | simp [*]

@[simp] theorem Mach.learnEpoch_sig (v : Vid) (e : Nat) (t : TwinSt) (m : Mach) : (Mach.learnEpoch v e t m).sig = m.sig := by
  simp [Mach.learnEpoch]

@[simp] theorem Mach.dropPartner_sig (m : Mach) : (Mach.dropPartner m).sig = m.sig := by
  unfold Mach.dropPartner
  try lift_lets
  repeat' first
    | (intro x; first | (have hx : x.sig = m.sig := by
                            simp only [x]
                            repeat' (first | (simp [*]; done) | intro _ | split | rw [Mach.each_sig]  | simp [*])
                         clear_value x) | clear_value x)
    | (simp [*]; done)
    | intro _
    | split
    | rw [Mach.each_sig]
    | simp [*]

@[simp] theorem Mach.waitLost_sig (w : TwinWait) (m : Mach) : (Mach.waitLost w m).sig = m.sig := by
  unfold Mach.waitLost
  try lift_lets
  repeat' first
    | (intro x; first | (have hx : x.sig = m.sig := by
                            simp only [x]
                            repeat' (first | (simp [*]; done) | intro _ | split   | simp [*])
                         clear_value x) | clear_value x)
    | (simp [*]; done)
    | intro _
    | split
    | simp [*]

@[simp] theorem Mach.durableBack_sig (m : Mach) : (Mach.durableBack m).sig = m.sig := by
  unfold Mach.durableBack
  repeat' first
    | (simp [*]; done)
    | intro _
    | split
    | rw [Mach.each_sig]
    | simp [*]

@[simp] theorem Mach.partnerLost_sig (m : Mach) : (Mach.partnerLost m).sig = m.sig := by
  unfold Mach.partnerLost
  try lift_lets
  repeat' first
    | (intro x; first | (have hx : x.sig = m.sig := by
                            simp only [x]
                            repeat' (first | (simp [*]; done) | intro _ | split | rw [Mach.each_sig]  | simp [*])
                         clear_value x) | clear_value x)
    | (simp [*]; done)
    | intro _
    | split
    | rw [Mach.each_sig]
    | simp [*]

@[simp] theorem Mach.sendRsmap_sig (v : Vid) (m : Mach) : (Mach.sendRsmap v m).sig = m.sig := by
  unfold Mach.sendRsmap
  try lift_lets
  repeat' first
    | (intro x; first | (have hx : x.sig = m.sig := by
                            simp only [x]
                            repeat' (first | (simp [*]; done) | intro _ | split | rw [Mach.each_sig]  | simp [*])
                         clear_value x) | clear_value x)
    | (simp [*]; done)
    | intro _
    | split
    | rw [Mach.each_sig]
    | simp [*]

@[simp] theorem Mach.partnerBack_sig (m : Mach) : (Mach.partnerBack m).sig = m.sig := by
  unfold Mach.partnerBack
  try lift_lets
  repeat' first
    | (intro x; first | (have hx : x.sig = m.sig := by
                            simp only [x]
                            repeat' (first | (simp [*]; done) | intro _ | split | rw [Mach.each_sig]  | simp [*])
                         clear_value x) | clear_value x)
    | (simp [*]; done)
    | intro _
    | split
    | rw [Mach.each_sig]
    | simp [*]

@[simp] theorem Mach.inSync_sig (v : Vid) (m : Mach) : (Mach.inSync v m).sig = m.sig := by
  unfold Mach.inSync
  try lift_lets
  repeat' first
    | (intro x; first | (have hx : x.sig = m.sig := by
                            simp only [x]
                            repeat' (first | (simp [*]; done) | intro _ | split | rw [Mach.each_sig]  | simp [*])
                         clear_value x) | clear_value x)
    | (simp [*]; done)
    | intro _
    | split
    | rw [Mach.each_sig]
    | simp [*]

@[simp] theorem Mach.keyCut_sig (v : Vid) (m : Mach) : (Mach.keyCut v m).sig = m.sig := by
  unfold Mach.keyCut
  repeat' first
    | (simp [*]; done)
    | intro _
    | split
    | rw [Mach.each_sig]
    | simp [*]

@[simp] theorem Mach.discardCopies_sig (v : Vid) (m : Mach) : (Mach.discardCopies v m).sig = m.sig := by
  simp [Mach.discardCopies]

@[simp] theorem Mach.retireVol_sig (v : Vid) (m : Mach) : (Mach.retireVol v m).sig = m.sig := by
  simp [Mach.retireVol]

@[simp] theorem Mach.zeroiseSlot_sig (k : Nat) (m : Mach) : (Mach.zeroiseSlot k m).sig = m.sig := by
  unfold Mach.zeroiseSlot
  try lift_lets
  repeat' first
    | (intro x; first | (have hx : x.sig = m.sig := by
                            simp only [x]
                            repeat' (first | (simp [*]; done) | intro _ | split | rw [Mach.each_sig]  | simp [*])
                         clear_value x) | clear_value x)
    | (simp [*]; done)
    | intro _
    | split
    | rw [Mach.each_sig]
    | simp [*]

@[simp] theorem Mach.cutPage_sig (pg : PagePgm) (m : Mach) : (Mach.cutPage pg m).sig = m.sig := by
  unfold Mach.cutPage
  try lift_lets
  repeat' first
    | (intro x; first
      | (have hx : x.sig = m.sig := (by
        simp only [x]
        repeat' (first | (simp [*]; done) | intro _ | split | rw [Mach.each_sig] | simp [*])); clear_value x)
      | (have hx : x.1.sig = m.sig := (by
        simp only [x]
        repeat' (first | (simp [*]; done) | intro _ | split | rw [Mach.each_sig] | simp [*])); clear_value x)
      | clear_value x)
    | (simp [*]; done)
    | intro _
    | split
    | (have h2 := congrArg (fun p => p.1.sig) ‹_ = (_, _)›; simp at h2; simp [*]; done)
    | rw [Mach.each_sig]
    | simp [*]

@[simp] theorem Mach.landOps_sig (power : Bool) (m : Mach) : (Mach.landOps power m).sig = m.sig := by
  unfold Mach.landOps
  try lift_lets
  repeat' first
    | (intro x; first
      | (have hx : x.sig = m.sig := (by
        simp only [x]
        repeat' (first | (simp [*]; done) | intro _ | split | rw [Mach.each_sig] | simp [*])); clear_value x)
      | (have hx : x.1.sig = m.sig := (by
        simp only [x]
        repeat' (first | (simp [*]; done) | intro _ | split | rw [Mach.each_sig] | simp [*])); clear_value x)
      | clear_value x)
    | (simp [*]; done)
    | intro _
    | split
    | (have h2 := congrArg (fun p => p.1.sig) ‹_ = (_, _)›; simp at h2; simp [*]; done)
    | rw [Mach.each_sig]
    | simp [*]

@[simp] theorem Mach.landLog_sig (m : Mach) : (Mach.landLog m).sig = m.sig := by
  unfold Mach.landLog
  try lift_lets
  repeat' first
    | (intro x; first | (have hx : x.sig = m.sig := by
                            simp only [x]
                            repeat' (first | (simp [*]; done) | intro _ | split   | simp [*])
                         clear_value x) | clear_value x)
    | (simp [*]; done)
    | intro _
    | split
    | simp [*]

@[simp] theorem Mach.stop_sig (power : Bool) (m : Mach) : (Mach.stop power m).sig = m.sig := by
  unfold Mach.stop
  dsimp only
  split <;> simp

@[simp] theorem Mach.deviceReset_sig (power : Bool) (cause : Nat) (m : Mach) : (Mach.deviceReset power cause m).sig = m.sig := by
  have h : (Mach.deviceReset power cause m).sig = (m.discardAllHeld.stop power).sig := rfl
  rw [h]; simp

@[simp] theorem Mach.domainOn_sig (i : Nat) (m : Mach) : (Mach.domainOn i m).sig = m.sig := by
  unfold Mach.domainOn
  try lift_lets
  repeat' first
    | (intro x; first | (have hx : x.sig = m.sig := by
                            simp only [x]
                            repeat' (first | (simp [*]; done) | intro _ | split | rw [Mach.each_sig]  | simp [*])
                         clear_value x) | clear_value x)
    | (simp [*]; done)
    | intro _
    | split
    | rw [Mach.each_sig]
    | simp [*]

@[simp] theorem Mach.domainOff_sig (i : Nat) (m : Mach) : (Mach.domainOff i m).sig = m.sig := by
  unfold Mach.domainOff
  try lift_lets
  repeat' first
    | (intro x; first | (have hx : x.sig = m.sig := by
                            simp only [x]
                            repeat' (first | (simp [*]; done) | intro _ | split | rw [Mach.each_sig]  | simp [*])
                         clear_value x) | clear_value x)
    | (simp [*]; done)
    | intro _
    | split
    | rw [Mach.each_sig]
    | simp [*]

@[simp] theorem Mach.powerUp_sig (i : Nat) (m : Mach) : (Mach.powerUp i m).sig = m.sig := by
  simp [Mach.powerUp]

@[simp] theorem Mach.resetPage_sig (p : Page) (m : Mach) : (Mach.resetPage p m).sig = m.sig := by
  unfold Mach.resetPage
  try lift_lets
  repeat' first
    | (intro x; first | (have hx : x.sig = m.sig := by
                            simp only [x]
                            repeat' (first | (simp [*]; done) | intro _ | split   | simp [*])
                         clear_value x) | clear_value x)
    | (simp [*]; done)
    | intro _
    | split
    | simp [*]

@[simp] theorem Mach.domComesOn_sig (d : Nat) (m : Mach) : (Mach.domComesOn d m).sig = m.sig := by
  unfold Mach.domComesOn
  try lift_lets
  repeat' first
    | (intro x; first | (have hx : x.sig = m.sig := by
                            simp only [x]
                            repeat' (first | (simp [*]; done) | intro _ | split | rw [Mach.each_sig]  | simp [*])
                         clear_value x) | clear_value x)
    | (simp [*]; done)
    | intro _
    | split
    | rw [Mach.each_sig]
    | simp [*]

@[simp] theorem Mach.switchEnd_sig (m : Mach) : (Mach.switchEnd m).sig = m.sig := by
  unfold Mach.switchEnd
  try lift_lets
  repeat' first
    | (intro x; first | (have hx : x.sig = m.sig := by
                            simp only [x]
                            repeat' (first | (simp [*]; done) | intro _ | split   | simp [*])
                         clear_value x) | clear_value x)
    | (simp [*]; done)
    | intro _
    | split
    | simp [*]

@[simp] theorem Mach.bringUp_sig (p : Page) (m : Mach) : (Mach.bringUp p m).sig = m.sig := by
  simp [Mach.bringUp]

@[simp] theorem Mach.dropPortCmds_sig (p : Port) (m : Mach) : (Mach.dropPortCmds p m).sig = m.sig := by
  unfold Mach.dropPortCmds
  try lift_lets
  repeat' first
    | (intro x; first | (have hx : x.sig = m.sig := by
                            simp only [x]
                            repeat' (first | (simp [*]; done) | intro _ | split | rw [Mach.each_sig]  | simp [*])
                         clear_value x) | clear_value x)
    | (simp [*]; done)
    | intro _
    | split
    | rw [Mach.each_sig]
    | simp [*]

@[simp] theorem Mach.dropPortQueues_sig (p : Port) (m : Mach) : (Mach.dropPortQueues p m).sig = m.sig := by
  unfold Mach.dropPortQueues
  try lift_lets
  repeat' first
    | (intro x; first | (have hx : x.sig = m.sig := by
                            simp only [x]
                            repeat' (first | (simp [*]; done) | intro _ | split   | simp [*])
                         clear_value x) | clear_value x)
    | (simp [*]; done)
    | intro _
    | split
    | simp [*]

@[simp] theorem Mach.resetPortPage_sig (p : Port) (m : Mach) : (Mach.resetPortPage p m).sig = m.sig := by
  unfold Mach.resetPortPage
  try lift_lets
  repeat' first
    | (intro x; first | (have hx : x.sig = m.sig := by
                            simp only [x]
                            repeat' (first | (simp [*]; done) | intro _ | split   | simp [*])
                         clear_value x) | clear_value x)
    | (simp [*]; done)
    | intro _
    | split
    | simp [*]

@[simp] theorem Mach.dropTransfer_sig (p : Port) (m : Mach) : (Mach.dropTransfer p m).sig = m.sig := by
  unfold Mach.dropTransfer
  repeat' first
    | (simp [*]; done)
    | intro _
    | split
    | simp [*]

@[simp] theorem Mach.portReset_sig (p : Port) (m : Mach) : (Mach.portReset p m).sig = m.sig := by
  unfold Mach.portReset
  try lift_lets
  repeat' first
    | (intro x; first | (have hx : x.sig = m.sig := by
                            simp only [x]
                            repeat' (first | (simp [*]; done) | intro _ | split   | simp [*])
                         clear_value x) | clear_value x)
    | (simp [*]; done)
    | intro _
    | split
    | simp [*]

@[simp] theorem Mach.bootGo_sig (m : Mach) : (Mach.bootGo m).sig = m.sig := by
  simp [Mach.bootGo]

@[simp] theorem Mach.sampleStraps_sig (v : BitVec 3) (m : Mach) : (Mach.sampleStraps v m).sig = m.sig := by
  simp [Mach.sampleStraps]

@[simp] theorem Mach.restart_sig (cause : Nat) (m : Mach) : (Mach.restart cause m).sig = m.sig := by
  unfold Mach.restart
  try lift_lets
  repeat' first
    | (intro x; first
      | (have hx : x.sig = m.sig := (by
        simp only [x]
        repeat' (first | (simp [*]; done) | intro _ | split | rw [Mach.each_sig] | simp [*])); clear_value x)
      | (have hx : x.1.sig = m.sig := (by
        simp only [x]
        repeat' (first | (simp [*]; done) | intro _ | split | rw [Mach.each_sig] | simp [*])); clear_value x)
      | clear_value x)
    | (simp [*]; done)
    | intro _
    | split
    | (have h2 := congrArg (fun p => p.1.sig) ‹_ = (_, _)›; simp at h2; simp [*]; done)
    | rw [Mach.each_sig]
    | simp [*]

@[simp] theorem Mach.fuseCheck_sig (ok : Bool) (m : Mach) : (Mach.fuseCheck ok m).sig = m.sig := by
  simp [Mach.fuseCheck]

@[simp] theorem Mach.slotPassed_sig (s : Fin 2) (m : Mach) : (Mach.slotPassed s m).sig = m.sig := by
  unfold Mach.slotPassed
  try lift_lets
  repeat' first
    | (intro x; first | (have hx : x.sig = m.sig := by
                            simp only [x]
                            repeat' (first | (simp [*]; done) | intro _ | split   | simp [*])
                         clear_value x) | clear_value x)
    | (simp [*]; done)
    | intro _
    | split
    | simp [*]

@[simp] theorem Mach.slotsFailed_sig (err : Nat) (m : Mach) : (Mach.slotsFailed err m).sig = m.sig := by
  simp [Mach.slotsFailed]

@[simp] theorem Mach.bootRate_sig (m : Mach) : (Mach.bootRate m).sig = m.sig := by
  unfold Mach.bootRate
  try lift_lets
  repeat' first
    | (intro x; first
      | (have hx : x.sig = m.sig := (by
        simp only [x]
        repeat' (first | (simp [*]; done) | intro _ | split | rw [Mach.each_sig] | simp [*])); clear_value x)
      | (have hx : x.1.sig = m.sig := (by
        simp only [x]
        repeat' (first | (simp [*]; done) | intro _ | split | rw [Mach.each_sig] | simp [*])); clear_value x)
      | clear_value x)
    | (simp [*]; done)
    | intro _
    | split
    | (have h2 := congrArg (fun p => p.1.sig) ‹_ = (_, _)›; simp at h2; simp [*]; done)
    | rw [Mach.each_sig]
    | simp [*]

@[simp] theorem Mach.slotCheck_sig (r : SlotRead) (m : Mach) : (Mach.slotCheck r m).sig = m.sig := by
  unfold Mach.slotCheck
  try lift_lets
  repeat' first
    | (intro x; first | (have hx : x.sig = m.sig := by
                            simp only [x]
                            repeat' (first | (simp [*]; done) | intro _ | split   | simp [*])
                         clear_value x) | clear_value x)
    | (simp [*]; done)
    | intro _
    | split
    | simp [*]

@[simp] theorem Mach.firmwareStart_sig (m : Mach) : (Mach.firmwareStart m).sig = m.sig := by
  unfold Mach.firmwareStart
  try lift_lets
  repeat' first
    | (intro x; first | (have hx : x.sig = m.sig := by
                            simp only [x]
                            repeat' (first | (simp [*]; done) | intro _ | split | rw [Mach.each_sig]  | simp [*])
                         clear_value x) | clear_value x)
    | (simp [*]; done)
    | intro _
    | split
    | rw [Mach.each_sig]
    | simp [*]

@[simp] theorem Mach.learnEyes_sig (d : Fin 4) (m : Mach) : (Mach.learnEyes d m).sig = m.sig := by
  unfold Mach.learnEyes
  try lift_lets
  repeat' first
    | (intro x; first | (have hx : x.sig = m.sig := by
                            simp only [x]
                            repeat' (first | (simp [*]; done) | intro _ | split   | simp [*])
                         clear_value x) | clear_value x)
    | (simp [*]; done)
    | intro _
    | split
    | simp [*]

@[simp] theorem Mach.dramTrained_sig (d : Fin 4) (ok : Bool) (m : Mach) : (Mach.dramTrained d ok m).sig = m.sig := by
  unfold Mach.dramTrained
  try lift_lets
  repeat' first
    | (intro x; first | (have hx : x.sig = m.sig := by
                            simp only [x]
                            repeat' (first | (simp [*]; done) | intro _ | split   | simp [*])
                         clear_value x) | clear_value x)
    | (simp [*]; done)
    | intro _
    | split
    | simp [*]

@[simp] theorem Mach.setRate_sig (cs : List Chan) (r : Nat) (m : Mach) : (Mach.setRate cs r m).sig = m.sig := by
  unfold Mach.setRate
  try lift_lets
  repeat' first
    | (intro x; first
      | (have hx : x.sig = m.sig := (by
        simp only [x]
        repeat' (first | (simp [*]; done) | intro _ | split | rw [Mach.each_sig] | simp [*])); clear_value x)
      | (have hx : x.1.sig = m.sig := (by
        simp only [x]
        repeat' (first | (simp [*]; done) | intro _ | split | rw [Mach.each_sig] | simp [*])); clear_value x)
      | clear_value x)
    | (simp [*]; done)
    | intro _
    | split
    | (have h2 := congrArg (fun p => p.1.sig) ‹_ = (_, _)›; simp at h2; simp [*]; done)
    | rw [Mach.each_sig]
    | simp [*]

@[simp] theorem Mach.fixRate_sig (c : Chan) (m : Mach) : (Mach.fixRate c m).sig = m.sig := by
  unfold Mach.fixRate
  try lift_lets
  repeat' first
    | (intro x; first | (have hx : x.sig = m.sig := by
                            simp only [x]
                            repeat' (first | (simp [*]; done) | intro _ | split | rw [Mach.each_sig]  | simp [*])
                         clear_value x) | clear_value x)
    | (simp [*]; done)
    | intro _
    | split
    | rw [Mach.each_sig]
    | simp [*]

@[simp] theorem Mach.learnDie_sig (c : Chan) (i : ParamPage) (m : Mach) : (Mach.learnDie c i m).sig = m.sig := by
  unfold Mach.learnDie
  try lift_lets
  repeat' first
    | (intro x; first
      | (have hx : x.sig = m.sig := (by
        simp only [x]
        repeat' (first | (simp [*]; done) | intro _ | split | rw [Mach.each_sig] | simp [*])); clear_value x)
      | (have hx : x.1.sig = m.sig := (by
        simp only [x]
        repeat' (first | (simp [*]; done) | intro _ | split | rw [Mach.each_sig] | simp [*])); clear_value x)
      | clear_value x)
    | (simp [*]; done)
    | intro _
    | split
    | (have h2 := congrArg (fun p => p.1.sig) ‹_ = (_, _)›; simp at h2; simp [*]; done)
    | rw [Mach.each_sig]
    | simp [*]

@[simp] theorem Mach.chanTrained_sig (c : Chan) (t : ChanTraining) (m : Mach) : (Mach.chanTrained c t m).sig = m.sig := by
  unfold Mach.chanTrained
  try lift_lets
  repeat' first
    | (intro x; first
      | (have hx : x.sig = m.sig := (by
        simp only [x]
        repeat' (first | (simp [*]; done) | intro _ | split | rw [Mach.each_sig] | simp [*])); clear_value x)
      | (have hx : x.1.sig = m.sig := (by
        simp only [x]
        repeat' (first | (simp [*]; done) | intro _ | split | rw [Mach.each_sig] | simp [*])); clear_value x)
      | clear_value x)
    | (simp [*]; done)
    | intro _
    | split
    | (have h2 := congrArg (fun p => p.1.sig) ‹_ = (_, _)›; simp at h2; simp [*]; done)
    | rw [Mach.each_sig]
    | simp [*]

@[simp] theorem Mach.learnAll_sig (m : Mach) : (Mach.learnAll m).sig = m.sig := by
  unfold Mach.learnAll
  try lift_lets
  repeat' first
    | (intro x; first | (have hx : x.sig = m.sig := by
                            simp only [x]
                            repeat' (first | (simp [*]; done) | intro _ | split   | simp [*])
                         clear_value x) | clear_value x)
    | (simp [*]; done)
    | intro _
    | split
    | simp [*]

@[simp] theorem Mach.afterTraining_sig (m : Mach) : (Mach.afterTraining m).sig = m.sig := by
  unfold Mach.afterTraining
  try lift_lets
  repeat' first
    | (intro x; first | (have hx : x.sig = m.sig := by
                            simp only [x]
                            repeat' (first | (simp [*]; done) | intro _ | split   | simp [*])
                         clear_value x) | clear_value x)
    | (simp [*]; done)
    | intro _
    | split
    | simp [*]

@[simp] theorem Mach.flashTrained_sig (c : Chan) (t : ChanTraining) (m : Mach) : (Mach.flashTrained c t m).sig = m.sig := by
  unfold Mach.flashTrained
  try lift_lets
  repeat' first
    | (intro x; first | (have hx : x.sig = m.sig := by
                            simp only [x]
                            repeat' (first | (simp [*]; done) | intro _ | split   | simp [*])
                         clear_value x) | clear_value x)
    | (simp [*]; done)
    | intro _
    | split
    | simp [*]

@[simp] theorem Mach.bootctlGo_sig (m : Mach) : (Mach.bootctlGo m).sig = m.sig := by
  simp [Mach.bootctlGo]

@[simp] theorem Mach.loadRoot_sig (k : Ckpt) (m : Mach) : (Mach.loadRoot k m).sig = m.sig := by
  unfold Mach.loadRoot
  dsimp only
  rw [Mach.updDev_sig, Mach.each_sig]
  · rfl
  · intro c m; simp
  · rfl

@[simp] theorem Mach.headlandLoad_sig (unreadable : List Nat) (m : Mach) : (Mach.headlandLoad unreadable m).sig = m.sig := by
  unfold Mach.headlandLoad
  try lift_lets
  repeat' first
    | (intro x; first | (have hx : x.sig = m.sig := by
                            simp only [x]
                            repeat' (first | (simp [*]; done) | intro _ | split   | simp [*])
                         clear_value x) | clear_value x)
    | (simp [*]; done)
    | intro _
    | split
    | simp [*]

@[simp] theorem Mach.replaySeg_sig (s : Nat) (m : Mach) : (Mach.replaySeg s m).sig = m.sig := by
  simp [Mach.replaySeg]

@[simp] theorem Mach.replayFur_sig (f : Nat) (x : Fur) (m : Mach) : (Mach.replayFur f x m).sig = m.sig := by
  simp [Mach.replayFur]

@[simp] theorem Mach.replayBlk_sig (d b : Nat) (x : Blk) (m : Mach) : (Mach.replayBlk d b x m).sig = m.sig := by
  simp [Mach.replayBlk]

@[simp] theorem Mach.replayBad_sig (d b cause : Nat) (pot : Word) (e : BadEnd) (m : Mach) : (Mach.replayBad d b cause pot e m).sig = m.sig := by
  unfold Mach.replayBad
  cases e <;> simp
  try (split <;> simp)

@[simp] theorem Mach.replayErased_sig (f : Nat) (m : Mach) : (Mach.replayErased f m).sig = m.sig := by
  unfold Mach.replayErased
  try lift_lets
  repeat' first
    | (intro x; first | (have hx : x.sig = m.sig := by
                            simp only [x]
                            repeat' (first | (simp [*]; done) | intro _ | split | rw [Mach.each_sig]  | simp [*])
                         clear_value x) | clear_value x)
    | (simp [*]; done)
    | intro _
    | split
    | rw [Mach.each_sig]
    | simp [*]

@[simp] theorem Mach.applyRec_sig (r : HRec) (m : Mach) : (Mach.applyRec r m).sig = m.sig := by
  unfold Mach.applyRec
  try lift_lets
  repeat' first
    | (intro x; first | (have hx : x.sig = m.sig := by
                            simp only [x]
                            repeat' (first | (simp [*]; done) | intro _ | split | rw [Mach.each_sig]  | simp [*])
                         clear_value x) | clear_value x)
    | (simp [*]; done)
    | intro _
    | split
    | rw [Mach.each_sig]
    | simp [*]

@[simp] theorem Mach.applyOffer_sig (unreadable : List Nat) (recs : List HRec) (o : Offer) (m : Mach) : (Mach.applyOffer unreadable recs o m).sig = m.sig := by
  unfold Mach.applyOffer
  try lift_lets
  repeat' first
    | (intro x; first
      | (have hx : x.sig = m.sig := (by
        simp only [x]
        repeat' (first | (simp [*]; done) | intro _ | split | rw [Mach.each_sig] | simp [*])); clear_value x)
      | (have hx : x.1.sig = m.sig := (by
        simp only [x]
        repeat' (first | (simp [*]; done) | intro _ | split | rw [Mach.each_sig] | simp [*])); clear_value x)
      | clear_value x)
    | (simp [*]; done)
    | intro _
    | split
    | (have h2 := congrArg (fun p => p.1.sig) ‹_ = (_, _)›; simp at h2; simp [*]; done)
    | rw [Mach.each_sig]
    | simp [*]

@[simp] theorem Mach.learnInst_sig (m : Mach) : (Mach.learnInst m).sig = m.sig := by
  unfold Mach.learnInst
  repeat' first
    | (simp [*]; done)
    | intro _
    | split
    | rw [Mach.each_sig]
    | simp [*]

@[simp] theorem Mach.settleFur_sig (fs : List (Nat × Nat)) (f : Nat) (m : Mach) : (Mach.settleFur fs f m).sig = m.sig := by
  unfold Mach.settleFur
  try lift_lets
  repeat' first
    | (intro x; first | (have hx : x.sig = m.sig := by
                            simp only [x]
                            repeat' (first | (simp [*]; done) | intro _ | split   | simp [*])
                         clear_value x) | clear_value x)
    | (simp [*]; done)
    | intro _
    | split
    | simp [*]

@[simp] theorem Mach.markErases_sig (m : Mach) : (Mach.markErases m).sig = m.sig := by
  unfold Mach.markErases
  repeat' first
    | (simp [*]; done)
    | intro _
    | split
    | rw [Mach.each_sig]
    | simp [*]

@[simp] theorem Mach.settleErases_sig (m : Mach) : (Mach.settleErases m).sig = m.sig := by
  unfold Mach.settleErases
  try lift_lets
  repeat' first
    | (intro x; first | (have hx : x.sig = m.sig := by
                            simp only [x]
                            repeat' (first | (simp [*]; done) | intro _ | split | rw [Mach.each_sig]  | simp [*])
                         clear_value x) | clear_value x)
    | (simp [*]; done)
    | intro _
    | split
    | rw [Mach.each_sig]
    | simp [*]

@[simp] theorem Mach.readDump_sig (m : Mach) : (Mach.readDump m).sig = m.sig := by
  unfold Mach.readDump
  try lift_lets
  repeat' first
    | (intro x; first | (have hx : x.sig = m.sig := by
                            simp only [x]
                            repeat' (first | (simp [*]; done) | intro _ | split | rw [Mach.each_sig]  | simp [*])
                         clear_value x) | clear_value x)
    | (simp [*]; done)
    | intro _
    | split
    | rw [Mach.each_sig]
    | simp [*]

@[simp] theorem Mach.nextCounters_sig (unreadable : List Nat) (fs : List (Nat × Nat)) (m : Mach) : (Mach.nextCounters unreadable fs m).sig = m.sig := by
  unfold Mach.nextCounters
  try lift_lets
  repeat' first
    | (intro x; first
      | (have hx : x.sig = m.sig := (by
        simp only [x]
        repeat' (first | (simp [*]; done) | intro _ | split | rw [Mach.each_sig] | simp [*])); clear_value x)
      | (have hx : x.1.sig = m.sig := (by
        simp only [x]
        repeat' (first | (simp [*]; done) | intro _ | split | rw [Mach.each_sig] | simp [*])); clear_value x)
      | clear_value x)
    | (simp [*]; done)
    | intro _
    | split
    | (have h2 := congrArg (fun p => p.1.sig) ‹_ = (_, _)›; simp at h2; simp [*]; done)
    | rw [Mach.each_sig]
    | simp [*]

@[simp] theorem Mach.resumeRebuild_sig (m : Mach) : (Mach.resumeRebuild m).sig = m.sig := by
  unfold Mach.resumeRebuild
  try lift_lets
  repeat' first
    | (intro x; first | (have hx : x.sig = m.sig := by
                            simp only [x]
                            repeat' (first | (simp [*]; done) | intro _ | split   | simp [*])
                         clear_value x) | clear_value x)
    | (simp [*]; done)
    | intro _
    | split
    | simp [*]

@[simp] theorem Mach.replay_sig (unreadable : List Nat) (m : Mach) : (Mach.replay unreadable m).sig = m.sig := by
  unfold Mach.replay
  try lift_lets
  repeat' first
    | (intro x; first
      | (have hx : x.sig = m.sig := (by
        simp only [x]
        repeat' (first | (simp [*]; done) | intro _ | split | rw [Mach.each_sig] | simp [*])); clear_value x)
      | (have hx : x.1.sig = m.sig := (by
        simp only [x]
        repeat' (first | (simp [*]; done) | intro _ | split | rw [Mach.each_sig] | simp [*])); clear_value x)
      | clear_value x)
    | (simp [*]; done)
    | intro _
    | split
    | (have h2 := congrArg (fun p => p.1.sig) ‹_ = (_, _)›; simp at h2; simp [*]; done)
    | rw [Mach.each_sig]
    | simp [*]

@[simp] theorem Mach.setSlot_sig (s : Fin 2) (x : FwSlot) (m : Mach) : (Mach.setSlot s x m).sig = m.sig := by
  simp [Mach.setSlot]

@[simp] theorem Mach.spoilSlot_sig (s : Fin 2) (m : Mach) : (Mach.spoilSlot s m).sig = m.sig := by
  simp [Mach.spoilSlot]

@[simp] theorem Mach.abandon_sig (m : Mach) : (Mach.abandon m).sig = m.sig := by
  unfold Mach.abandon
  repeat' first
    | (simp [*]; done)
    | intro _
    | split
    | simp [*]

@[simp] theorem Mach.checkImage_sig (p : Port) (s : Fin 2) (img : Image) (m : Mach) : (Mach.checkImage p s img m).sig = m.sig := by
  unfold Mach.checkImage
  try lift_lets
  repeat' first
    | (intro x; first | (have hx : x.sig = m.sig := by
                            simp only [x]
                            repeat' (first | (simp [*]; done) | intro _ | split   | simp [*])
                         clear_value x) | clear_value x)
    | (simp [*]; done)
    | intro _
    | split
    | simp [*]

@[simp] theorem Mach.beginTransfer_sig (p : Port) (s : Fin 2) (len : Nat) (f : Mach → Mach) (m : Mach) (h : (f m).sig = m.sig) :
    (Mach.beginTransfer p s len f m).sig = m.sig := by
  unfold Mach.beginTransfer
  repeat' first
    | exact h
    | (simp; done)
    | split

@[simp] theorem Mach.transferFull_sig (p : Port) (s : Fin 2) (len : Nat) (img : Image) (m : Mach) : (Mach.transferFull p s len img m).sig = m.sig := by
  unfold Mach.transferFull
  refine Mach.mail_sig (h := ?_) ..
  first
    | (simp; done)
    | (dsimp only; split <;> simp)
    | (exact Mach.beginTransfer_sig (h := by simp) ..)
    | (exact Mach.laterPart_sig (h := fun _ => by simp) ..)

@[simp] theorem Mach.transferInitiate_sig (p : Port) (s : Fin 2) (len : Nat) (m : Mach) : (Mach.transferInitiate p s len m).sig = m.sig := by
  unfold Mach.transferInitiate
  refine Mach.mail_sig (h := ?_) ..
  first
    | (simp; done)
    | (dsimp only; split <;> simp)
    | (exact Mach.beginTransfer_sig (h := by simp) ..)
    | (exact Mach.laterPart_sig (h := fun _ => by simp) ..)

@[simp] theorem Mach.laterPart_sig (p : Port) (s : Fin 2) (off len : Nat) (f : Nat → Mach → Mach) (m : Mach)
    (h : ∀ n, (f n m).sig = m.sig) : (Mach.laterPart p s off len f m).sig = m.sig := by
  unfold Mach.laterPart
  repeat' first
    | exact h _
    | (simp; done)
    | split

@[simp] theorem Mach.transferContinue_sig (p : Port) (s : Fin 2) (off len : Nat) (m : Mach) : (Mach.transferContinue p s off len m).sig = m.sig := by
  unfold Mach.transferContinue
  refine Mach.mail_sig (h := ?_) ..
  first
    | (simp; done)
    | (dsimp only; split <;> simp)
    | (exact Mach.beginTransfer_sig (h := by simp) ..)
    | (exact Mach.laterPart_sig (h := fun _ => by simp) ..)

@[simp] theorem Mach.transferEnd_sig (p : Port) (s : Fin 2) (off len : Nat) (img : Image) (m : Mach) : (Mach.transferEnd p s off len img m).sig = m.sig := by
  unfold Mach.transferEnd
  refine Mach.mail_sig (h := ?_) ..
  first
    | (simp; done)
    | (dsimp only; split <;> simp)
    | (exact Mach.beginTransfer_sig (h := by simp) ..)
    | (exact Mach.laterPart_sig (h := fun _ => by simp) ..)

@[simp] theorem Mach.transferAbort_sig (p : Port) (m : Mach) : (Mach.transferAbort p m).sig = m.sig := by
  simp [Mach.transferAbort]

@[simp] theorem Mach.activateNext_sig (p : Port) (s : Fin 2) (m : Mach) : (Mach.activateNext p s m).sig = m.sig := by
  unfold Mach.activateNext
  refine Mach.mail_sig (h := ?_) ..
  split <;> simp

@[simp] theorem Mach.activateOnline_sig (p : Port) (s : Fin 2) (m : Mach) : (Mach.activateOnline p s m).sig = m.sig := by
  unfold Mach.activateOnline
  repeat' first
    | (simp [*]; done)
    | intro _
    | split
    | apply Mach.mail_sig
    | apply Mach.startBg_sig
    | simp [*]

@[simp] theorem Mach.hitlessPause_sig (m : Mach) : (Mach.hitlessPause m).sig = m.sig := by
  unfold Mach.hitlessPause
  repeat' first
    | (simp [*]; done)
    | intro _
    | split
    | simp [*]

@[simp] theorem Mach.hitlessReady_sig (m : Mach) : (Mach.hitlessReady m).sig = m.sig := by
  unfold Mach.hitlessReady
  split
  · rw [Mach.endBg_sig]; simp [Mach.sig, Mach.updDev, Mach.updAdm]
  · rfl

@[simp] theorem Mach.hitlessRollback_sig (m : Mach) : (Mach.hitlessRollback m).sig = m.sig := by
  unfold Mach.hitlessRollback
  repeat' first
    | (simp [*]; done)
    | intro _
    | split
    | simp [*]

@[simp] theorem Mach.touchPage_sig (a : LampAddr) (m : Mach) : (Mach.touchPage a m).sig = m.sig := by
  unfold Mach.touchPage
  try lift_lets
  repeat' first
    | (intro x; first | (have hx : x.sig = m.sig := by
                            simp only [x]
                            repeat' (first | (simp [*]; done) | intro _ | split   | simp [*])
                         clear_value x) | clear_value x)
    | (simp [*]; done)
    | intro _
    | split
    | simp [*]

@[simp] theorem Mach.rasUncor_sig (p : Port) (m : Mach) : (Mach.rasUncor p m).sig = m.sig := by
  simp [Mach.rasUncor]

@[simp] theorem Mach.serveRead_sig (p : Port) (a : LampAddr) (e : MemErr) (m : Mach) : (Mach.serveRead p a e m).sig = m.sig := by
  unfold Mach.serveRead
  try lift_lets
  repeat' first
    | (intro x; first | (have hx : x.sig = m.sig := by
                            simp only [x]
                            repeat' (first | (simp [*]; done) | intro _ | split   | simp [*])
                         clear_value x) | clear_value x)
    | (simp [*]; done)
    | intro _
    | split
    | simp [*]

@[simp] theorem Mach.serveWrite_sig (p : Port) (dpa : Nat) (a : LampAddr) (x : Line) (mute held : Bool) (m : Mach) : (Mach.serveWrite p dpa a x mute held m).sig = m.sig := by
  unfold Mach.serveWrite
  try lift_lets
  repeat' first
    | (intro x; first
      | (have hx : x.sig = m.sig := (by
        simp only [x]
        repeat' (first | (simp [*]; done) | intro _ | split | rw [Mach.each_sig] | simp [*])); clear_value x)
      | (have hx : x.1.sig = m.sig := (by
        simp only [x]
        repeat' (first | (simp [*]; done) | intro _ | split | rw [Mach.each_sig] | simp [*])); clear_value x)
      | clear_value x)
    | (simp [*]; done)
    | intro _
    | split
    | (have h2 := congrArg (fun p => p.1.sig) ‹_ = (_, _)›; simp at h2; simp [*]; done)
    | rw [Mach.each_sig]
    | simp [*]

@[simp] theorem Mach.servePoison_sig (p : Port) (a : LampAddr) (mute : Bool) (m : Mach) : (Mach.servePoison p a mute m).sig = m.sig := by
  unfold Mach.servePoison
  try lift_lets
  repeat' first
    | (intro x; first
      | (have hx : x.sig = m.sig := (by
        simp only [x]
        repeat' (first | (simp [*]; done) | intro _ | split | rw [Mach.each_sig] | simp [*])); clear_value x)
      | (have hx : x.1.sig = m.sig := (by
        simp only [x]
        repeat' (first | (simp [*]; done) | intro _ | split | rw [Mach.each_sig] | simp [*])); clear_value x)
      | clear_value x)
    | (simp [*]; done)
    | intro _
    | split
    | (have h2 := congrArg (fun p => p.1.sig) ‹_ = (_, _)›; simp at h2; simp [*]; done)
    | rw [Mach.each_sig]
    | simp [*]

@[simp] theorem Mach.meetPage_sig (r : LampReq) (a : LampAddr) (held : Bool) (m : Mach) : (Mach.meetPage r a held m).sig = m.sig := by
  unfold Mach.meetPage
  try lift_lets
  repeat' first
    | (intro x; first
      | (have hx : x.sig = m.sig := (by
        simp only [x]
        repeat' (first | (simp [*]; done) | intro _ | split | rw [Mach.each_sig] | simp [*])); clear_value x)
      | (have hx : x.1.sig = m.sig := (by
        simp only [x]
        repeat' (first | (simp [*]; done) | intro _ | split | rw [Mach.each_sig] | simp [*])); clear_value x)
      | clear_value x)
    | (simp [*]; done)
    | intro _
    | split
    | (have h2 := congrArg (fun p => p.1.sig) ‹_ = (_, _)›; simp at h2; simp [*]; done)
    | rw [Mach.each_sig]
    | simp [*]

@[simp] theorem Mach.serveReq_sig (r : LampReq) (held : Bool) (m : Mach) : (Mach.serveReq r held m).sig = m.sig := by
  unfold Mach.serveReq
  repeat' first
    | (simp [*]; done)
    | intro _
    | split
    | simp [*]

@[simp] theorem Mach.clearRegion_sig (k : Nat) (m : Mach) : (Mach.clearRegion k m).sig = m.sig := by
  unfold Mach.clearRegion
  try lift_lets
  repeat' first
    | (intro x; first | (have hx : x.sig = m.sig := by
                            simp only [x]
                            repeat' (first | (simp [*]; done) | intro _ | split   | simp [*])
                         clear_value x) | clear_value x)
    | (simp [*]; done)
    | intro _
    | split
    | simp [*]

@[simp] theorem Mach.serveOld_sig (k : Nat) (m : Mach) : (Mach.serveOld k m).sig = m.sig := by
  unfold Mach.serveOld
  try lift_lets
  repeat' first
    | (intro x; first
      | (have hx : x.sig = m.sig := (by
        simp only [x]
        repeat' (first | (simp [*]; done) | intro _ | split | rw [Mach.each_sig] | simp [*])); clear_value x)
      | (have hx : x.1.sig = m.sig := (by
        simp only [x]
        repeat' (first | (simp [*]; done) | intro _ | split | rw [Mach.each_sig] | simp [*])); clear_value x)
      | clear_value x)
    | (simp [*]; done)
    | intro _
    | split
    | (have h2 := congrArg (fun p => p.1.sig) ‹_ = (_, _)›; simp at h2; simp [*]; done)
    | rw [Mach.each_sig]
    | simp [*]

@[simp] theorem Mach.regionDone_sig (k : Nat) (r : Region) (m : Mach) : (Mach.regionDone k r m).sig = m.sig := by
  simp [Mach.regionDone]

@[simp] theorem Mach.endOp_sig (mine : BgOp → Bool) (status : Nat) (m : Mach) : (Mach.endOp mine status m).sig = m.sig := by
  simp [Mach.endOp]

@[simp] theorem Mach.recGivenUp_sig (id : Nat) (c : Chan) (m : Mach) : (Mach.recGivenUp id c m).sig = m.sig := by
  unfold Mach.recGivenUp
  try lift_lets
  repeat' first
    | (intro x; first | (have hx : x.sig = m.sig := by
                            simp only [x]
                            repeat' (first | (simp [*]; done) | intro _ | split   | simp [*])
                         clear_value x) | clear_value x)
    | (simp [*]; done)
    | intro _
    | split
    | simp [*]

@[simp] theorem Mach.opGivenUp_sig (o : Op) (m : Mach) : (Mach.opGivenUp o m).sig = m.sig := by
  unfold Mach.opGivenUp
  try lift_lets
  repeat' first
    | (intro x; first | (have hx : x.sig = m.sig := by
                            simp only [x]
                            repeat' (first | (simp [*]; done) | intro _ | split   | simp [*])
                         clear_value x) | clear_value x)
    | (simp [*]; done)
    | intro _
    | split
    | simp [*]

@[simp] theorem Mach.chanGivenUp_sig (c : Chan) (m : Mach) : (Mach.chanGivenUp c m).sig = m.sig := by
  unfold Mach.chanGivenUp
  try lift_lets
  repeat' first
    | (intro x; first | (have hx : x.sig = m.sig := by
                            simp only [x]
                            repeat' (first | (simp [*]; done) | intro _ | split | rw [Mach.each_sig]  | simp [*])
                         clear_value x) | clear_value x)
    | (simp [*]; done)
    | intro _
    | split
    | rw [Mach.each_sig]
    | simp [*]

@[simp] theorem Mach.retireDone_sig (c : Chan) (m : Mach) : (Mach.retireDone c m).sig = m.sig := by
  unfold Mach.retireDone
  try lift_lets
  repeat' first
    | (intro x; first | (have hx : x.sig = m.sig := by
                            simp only [x]
                            repeat' (first | (simp [*]; done) | intro _ | split   | simp [*])
                         clear_value x) | clear_value x)
    | (simp [*]; done)
    | intro _
    | split
    | simp [*]

@[simp] theorem Mach.resolve_sig (w : Waiter) (m : Mach) : (Mach.resolve w m).sig = m.sig := by
  unfold Mach.resolve
  try lift_lets
  repeat' first
    | (intro x; first | (have hx : x.sig = m.sig := by
                            simp only [x]
                            repeat' (first | (simp [*]; done) | intro _ | split   | simp [*])
                         clear_value x) | clear_value x)
    | (simp [*]; done)
    | intro _
    | split
    | simp [*]

@[simp] theorem Mach.resolveRec_sig (id : Nat) (m : Mach) : (Mach.resolveRec id m).sig = m.sig := by
  unfold Mach.resolveRec
  try lift_lets
  repeat' first
    | (intro x; first | (have hx : x.sig = m.sig := by
                            simp only [x]
                            repeat' (first | (simp [*]; done) | intro _ | split | rw [Mach.each_sig]  | simp [*])
                         clear_value x) | clear_value x)
    | (simp [*]; done)
    | intro _
    | split
    | rw [Mach.each_sig]
    | simp [*]

@[simp] theorem Mach.resolveRoot_sig (epoch : Nat) (m : Mach) : (Mach.resolveRoot epoch m).sig = m.sig := by
  unfold Mach.resolveRoot
  try lift_lets
  repeat' first
    | (intro x; first | (have hx : x.sig = m.sig := by
                            simp only [x]
                            repeat' (first | (simp [*]; done) | intro _ | split | rw [Mach.each_sig]  | simp [*])
                         clear_value x) | clear_value x)
    | (simp [*]; done)
    | intro _
    | split
    | rw [Mach.each_sig]
    | simp [*]

@[simp] theorem Mach.shutdownDone_sig (m : Mach) : (Mach.shutdownDone m).sig = m.sig := by
  unfold Mach.shutdownDone
  try lift_lets
  repeat' first
    | (intro x; first | (have hx : x.sig = m.sig := by
                            simp only [x]
                            repeat' (first | (simp [*]; done) | intro _ | split   | simp [*])
                         clear_value x) | clear_value x)
    | (simp [*]; done)
    | intro _
    | split
    | simp [*]

@[simp] theorem Mach.rootDurable_sig (k : Ckpt) (m : Mach) : (Mach.rootDurable k m).sig = m.sig := by
  unfold Mach.rootDurable
  try lift_lets
  repeat' first
    | (intro x; first | (have hx : x.sig = m.sig := by
                            simp only [x]
                            repeat' (first | (simp [*]; done) | intro _ | split   | simp [*])
                         clear_value x) | clear_value x)
    | (simp [*]; done)
    | intro _
    | split
    | simp [*]

@[simp] theorem Mach.recordDurable_sig (r : HRec) (m : Mach) : (Mach.recordDurable r m).sig = m.sig := by
  unfold Mach.recordDurable
  repeat' first
    | (simp [*]; done)
    | intro _
    | split
    | simp [*]

@[simp] theorem Mach.headlandDurable_sig (m : Mach) : (Mach.headlandDurable m).sig = m.sig := by
  unfold Mach.headlandDurable
  try lift_lets
  repeat' first
    | (intro x; first | (have hx : x.sig = m.sig := by
                            simp only [x]
                            repeat' (first | (simp [*]; done) | intro _ | split   | simp [*])
                         clear_value x) | clear_value x)
    | (simp [*]; done)
    | intro _
    | split
    | simp [*]

@[simp] theorem Mach.dumpRecord_sig (b : HBody) (m : Mach) : (Mach.dumpRecord b m).sig = m.sig := by
  unfold Mach.dumpRecord
  cases h : m.hdlRoom (2 * m.hdlFurs.length + 4) (m.recCws b) with
  | none => simp
  | some r => simpa using Mach.hdlRoom_sig (h := h) ..

@[simp] theorem Mach.dumpNonces_sig (k n : Nat) (m : Mach) : (Mach.dumpNonces k n m).sig = m.sig := by
  unfold Mach.dumpNonces
  try lift_lets
  repeat' first
    | (intro x; first | (have hx : x.sig = m.sig := by
                            simp only [x]
                            repeat' (first | (simp [*]; done) | intro _ | split   | simp [*])
                         clear_value x) | clear_value x)
    | (simp [*]; done)
    | intro _
    | split
    | simp [*]

@[simp] theorem Mach.dumpRoot_sig (m : Mach) : (Mach.dumpRoot m).sig = m.sig := by
  simp [Mach.dumpRoot]

@[simp] theorem Mach.writeDump_sig (complete : Bool) (m : Mach) : (Mach.writeDump complete m).sig = m.sig := by
  unfold Mach.writeDump
  try lift_lets
  repeat' first
    | (intro x; first | (have hx : x.sig = m.sig := by
                            simp only [x]
                            repeat' (first | (simp [*]; done) | intro _ | split | rw [Mach.each_sig]  | simp [*])
                         clear_value x) | clear_value x)
    | (simp [*]; done)
    | intro _
    | split
    | rw [Mach.each_sig]
    | simp [*]

@[simp] theorem Mach.startDump_sig (w : DumpFor) (m : Mach) : (Mach.startDump w m).sig = m.sig := by
  simp [Mach.startDump]

@[simp] theorem Mach.ackGpf_sig (m : Mach) : (Mach.ackGpf m).sig = m.sig := by
  simp [Mach.ackGpf]

@[simp] theorem Mach.pfFlush_sig (m : Mach) : (Mach.pfFlush m).sig = m.sig := by
  unfold Mach.pfFlush
  try lift_lets
  repeat' first
    | (intro x; first | (have hx : x.sig = m.sig := by
                            simp only [x]
                            repeat' (first | (simp [*]; done) | intro _ | split   | simp [*])
                         clear_value x) | clear_value x)
    | (simp [*]; done)
    | intro _
    | split
    | simp [*]

@[simp] theorem Mach.heldReset_sig (m : Mach) : (Mach.heldReset m).sig = m.sig := by
  simp [Mach.heldReset]

@[simp] theorem Mach.dumpOver_sig (m : Mach) : (Mach.dumpOver m).sig = m.sig := by
  simp [Mach.dumpOver]

@[simp] theorem Mach.startShutdown_sig (orderly : Bool) (m : Mach) : (Mach.startShutdown orderly m).sig = m.sig := by
  simp [Mach.startShutdown]

@[simp] theorem Mach.mirrorLb_sig (v : Vid) (lba : Nat) (d : Block) (m : Mach) : (Mach.mirrorLb v lba d m).sig = m.sig := by
  simp [Mach.mirrorLb]

@[simp] theorem Mach.lampPageOut_sig (frame key p : Nat) (m : Mach) : (Mach.lampPageOut frame key p m).sig = m.sig := by
  unfold Mach.lampPageOut
  dsimp only
  repeat' first
    | (simp; done)
    | split

@[simp] theorem Mach.lampOut_sig (m : Mach) : (Mach.lampOut m).sig = m.sig := by
  unfold Mach.lampOut
  repeat' first
    | (simp [*]; done)
    | intro _
    | split
    | rw [Mach.each_sig]
    | simp [*]

@[simp] theorem Mach.definitionIfChanged_sig (m : Mach) : (Mach.definitionIfChanged m).sig = m.sig := by
  simp [Mach.definitionIfChanged]

@[simp] theorem Mach.phaseEnd_sig (m : Mach) : (Mach.phaseEnd m).sig = m.sig := by
  unfold Mach.phaseEnd
  try lift_lets
  repeat' first
    | (intro x; first | (have hx : x.sig = m.sig := by
                            simp only [x]
                            repeat' (first | (simp [*]; done) | intro _ | split | rw [Mach.each_sig]  | simp [*])
                         clear_value x) | clear_value x)
    | (simp [*]; done)
    | intro _
    | split
    | rw [Mach.each_sig]
    | simp [*]

@[simp] theorem Mach.stdMail_sig (i : Instr) (p : Port) (early : Bool) (f : Mach → Mach) (m : Mach) (h : (f m).sig = m.sig) :
    (Mach.stdMail i p early f m).sig = m.sig := by
  unfold Mach.stdMail; exact Mach.mail_sig (h := h) ..

@[simp] theorem Mach.getEvents_sig (p : Port) (log : Fin 4) (m : Mach) : (Mach.getEvents p log m).sig = m.sig := by
  unfold Mach.getEvents
  try lift_lets
  repeat' first
    | (intro x; first | (have hx : x.sig = m.sig := by
                            simp only [x]
                            repeat' (first | (simp [*]; done) | intro _ | split   | simp [*])
                         clear_value x) | clear_value x)
    | (simp [*]; done)
    | intro _
    | split
    | simp [*]

@[simp] theorem Mach.clearEvents_sig (p : Port) (log : Fin 4) (all : Bool) (handles : List Nat) (m : Mach) : (Mach.clearEvents p log all handles m).sig = m.sig := by
  unfold Mach.clearEvents
  try lift_lets
  repeat' first
    | (intro x; first | (have hx : x.sig = m.sig := by
                            simp only [x]
                            repeat' (first | (simp [*]; done) | intro _ | split   | simp [*])
                         clear_value x) | clear_value x)
    | (simp [*]; done)
    | intro _
    | split
    | simp [*]

@[simp] theorem Mach.getFwInfo_sig (p : Port) (m : Mach) : (Mach.getFwInfo p m).sig = m.sig := by
  unfold Mach.getFwInfo
  try lift_lets
  repeat' first
    | (intro x; first | (have hx : x.sig = m.sig := by
                            simp only [x]
                            repeat' (first | (simp [*]; done) | intro _ | split   | simp [*])
                         clear_value x) | clear_value x)
    | (simp [*]; done)
    | intro _
    | split
    | simp [*]

@[simp] theorem Mach.supportedLogs_sig (p : Port) (m : Mach) : (Mach.supportedLogs p m).sig = m.sig := by
  simp [Mach.supportedLogs]

@[simp] theorem Mach.getLog_sig (p : Port) (cel : Bool) (off len : Nat) (m : Mach) : (Mach.getLog p cel off len m).sig = m.sig := by
  simp [Mach.getLog]

@[simp] theorem Mach.identifyMemory_sig (p : Port) (m : Mach) : (Mach.identifyMemory p m).sig = m.sig := by
  unfold Mach.identifyMemory
  try lift_lets
  repeat' first
    | (intro x; first | (have hx : x.sig = m.sig := by
                            simp only [x]
                            repeat' (first | (simp [*]; done) | intro _ | split   | simp [*])
                         clear_value x) | clear_value x)
    | (simp [*]; done)
    | intro _
    | split
    | simp [*]

@[simp] theorem Mach.healthInfo_sig (p : Port) (m : Mach) : (Mach.healthInfo p m).sig = m.sig := by
  simp [Mach.healthInfo]

@[simp] theorem Mach.poisonList_sig (p : Port) (dpa len : Nat) (m : Mach) : (Mach.poisonList p dpa len m).sig = m.sig := by
  unfold Mach.poisonList
  try lift_lets
  repeat' first
    | (intro x; first | (have hx : x.sig = m.sig := by
                            simp only [x]
                            repeat' (first | (simp [*]; done) | intro _ | split   | simp [*])
                         clear_value x) | clear_value x)
    | (simp [*]; done)
    | intro _
    | split
    | simp [*]

@[simp] theorem Mach.badOpcode_sig (i : Instr) (p : Port) (m : Mach) : (Mach.badOpcode i p m).sig = m.sig := by
  unfold Mach.badOpcode; exact Mach.stdMail_sig (h := by simp) ..

@[simp] theorem Mach.identify_sig (p : Port) (m : Mach) : (Mach.identify p m).sig = m.sig := by
  simp [Mach.identify]

@[simp] theorem Mach.getLogExt_sig (p : Port) (id sel off len : Nat) (m : Mach) : (Mach.getLogExt p id sel off len m).sig = m.sig := by
  unfold Mach.getLogExt
  repeat' first
    | (simp [*]; done)
    | intro _
    | split
    | simp [*]

@[simp] theorem Mach.getFeature_sig (p : Port) (fid sel : Nat) (m : Mach) : (Mach.getFeature p fid sel m).sig = m.sig := by
  unfold Mach.getFeature
  repeat' first
    | (simp [*]; done)
    | intro _
    | split
    | simp [*]

@[simp] theorem Mach.storeFeature_sig (p : Port) (fid v : Nat) (m : Mach) : (Mach.storeFeature p fid v m).sig = m.sig := by
  simp [Mach.storeFeature]

@[simp] theorem Mach.letUnmirrored_sig (m : Mach) : (Mach.letUnmirrored m).sig = m.sig := by
  unfold Mach.letUnmirrored
  try lift_lets
  repeat' first
    | (intro x; first | (have hx : x.sig = m.sig := by
                            simp only [x]
                            repeat' (first | (simp [*]; done) | intro _ | split | rw [Mach.each_sig]  | simp [*])
                         clear_value x) | clear_value x)
    | (simp [*]; done)
    | intro _
    | split
    | rw [Mach.each_sig]
    | simp [*]

@[simp] theorem Mach.setHoldup_sig (p : Port) (v : Nat) (m : Mach) : (Mach.setHoldup p v m).sig = m.sig := by
  unfold Mach.setHoldup
  try lift_lets
  repeat' first
    | (intro x; first | (have hx : x.sig = m.sig := by
                            simp only [x]
                            repeat' (first | (simp [*]; done) | intro _ | split   | simp [*])
                         clear_value x) | clear_value x)
    | (simp [*]; done)
    | intro _
    | split
    | simp [*]

@[simp] theorem Mach.setKey_sig (p : Port) (k : BitVec 776) (m : Mach) : (Mach.setKey p k m).sig = m.sig := by
  unfold Mach.setKey
  repeat' first
    | (simp [*]; done)
    | intro _
    | split
    | simp [*]

@[simp] theorem Mach.volumeRo_sig (p : Port) (vol : Vid) (v : Nat) (m : Mach) : (Mach.volumeRo p vol v m).sig = m.sig := by
  unfold Mach.volumeRo
  try lift_lets
  repeat' first
    | (intro x; first | (have hx : x.sig = m.sig := by
                            simp only [x]
                            repeat' (first | (simp [*]; done) | intro _ | split   | simp [*])
                         clear_value x) | clear_value x)
    | (simp [*]; done)
    | intro _
    | split
    | simp [*]

@[simp] theorem Mach.withServiceKey_sig (p : Port) (f : BitVec 776 → Mach → Mach) (m : Mach) (h : ∀ k, (f k m).sig = m.sig) :
    (Mach.withServiceKey p f m).sig = m.sig := by
  unfold Mach.withServiceKey
  split
  · simp
  · exact h _

@[simp] theorem Mach.unlockChallenge_sig (p : Port) (m : Mach) : (Mach.unlockChallenge p m).sig = m.sig := by
  simp [Mach.unlockChallenge]

@[simp] theorem Mach.unlockSignature_sig (p : Port) (sig : BitVec 768) (k : BitVec 776) (m : Mach) : (Mach.unlockSignature p sig k m).sig = m.sig := by
  unfold Mach.unlockSignature
  try lift_lets
  repeat' first
    | (intro x; first | (have hx : x.sig = m.sig := by
                            simp only [x]
                            repeat' (first | (simp [*]; done) | intro _ | split   | simp [*])
                         clear_value x) | clear_value x)
    | (simp [*]; done)
    | intro _
    | split
    | simp [*]

@[simp] theorem Mach.lockout_sig (m : Mach) : (Mach.lockout m).sig = m.sig := by
  simp [Mach.lockout]

@[simp] theorem Mach.relock_sig (p : Port) (m : Mach) : (Mach.relock p m).sig = m.sig := by
  simp [Mach.relock]

@[simp] theorem Mach.fenceRefused_sig (v : Vid) (m : Mach) : (Mach.fenceRefused v m).sig = m.sig := by
  simp [Mach.fenceRefused]

@[simp] theorem Mach.countRefusal_sig (s status dw2 : Nat) (m : Mach) : (Mach.countRefusal s status dw2 m).sig = m.sig := by
  unfold Mach.countRefusal
  try lift_lets
  repeat' first
    | (intro x; first | (have hx : x.sig = m.sig := by
                            simp only [x]
                            repeat' (first | (simp [*]; done) | intro _ | split  | rw [Mach.when_sig] | simp [*])
                         clear_value x) | clear_value x)
    | (simp [*]; done)
    | intro _
    | split
    | rw [Mach.when_sig]
    | simp [*]

@[simp] theorem Mach.admitFlush_sig (s : Nat) (m : Mach) : (Mach.admitFlush s m).sig = m.sig := by
  simp [Mach.admitFlush]

@[simp] theorem Mach.admission_sig (m : Mach) : (Mach.admission m).sig = m.sig := by
  unfold Mach.admission
  try lift_lets
  repeat' first
    | (intro x; first | (have hx : x.sig = m.sig := by
                            simp only [x]
                            repeat' (first | (simp [*]; done) | intro _ | split   | simp [*])
                         clear_value x) | clear_value x)
    | (simp [*]; done)
    | intro _
    | split
    | simp [*]

@[simp] theorem Mach.countDev_sig (d : Fin 4) (sr dev pins : Nat) (m : Mach) : (Mach.countDev d sr dev pins m).sig = m.sig := by
  unfold Mach.countDev
  try lift_lets
  repeat' first
    | (intro x; first | (have hx : x.sig = m.sig := by
                            simp only [x]
                            repeat' (first | (simp [*]; done) | intro _ | split   | simp [*])
                         clear_value x) | clear_value x)
    | (simp [*]; done)
    | intro _
    | split
    | simp [*]

@[simp] theorem Mach.setMark_sig (d : Fin 4) (sr dev pins : Nat) (m : Mach) : (Mach.setMark d sr dev pins m).sig = m.sig := by
  unfold Mach.setMark
  try lift_lets
  repeat' first
    | (intro x; first | (have hx : x.sig = m.sig := by
                            simp only [x]
                            repeat' (first | (simp [*]; done) | intro _ | split   | simp [*])
                         clear_value x) | clear_value x)
    | (simp [*]; done)
    | intro _
    | split
    | simp [*]

@[simp] theorem Mach.markDevice_sig (d : Fin 4) (sr dev : Nat) (m : Mach) : (Mach.markDevice d sr dev m).sig = m.sig := by
  simp [Mach.markDevice]

@[simp] theorem Mach.dramCorrected_sig (d : Fin 4) (sr dev pins : Nat) (m : Mach) : (Mach.dramCorrected d sr dev pins m).sig = m.sig := by
  unfold Mach.dramCorrected
  try lift_lets
  repeat' first
    | (intro x; first | (have hx : x.sig = m.sig := by
                            simp only [x]
                            repeat' (first | (simp [*]; done) | intro _ | split   | simp [*])
                         clear_value x) | clear_value x)
    | (simp [*]; done)
    | intro _
    | split
    | simp [*]

@[simp] theorem Mach.dramLine_sig (d : Fin 4) (sr : Nat) (s : DramSyndrome) (u : DramUser) (m : Mach) : (Mach.dramLine d sr s u m).sig = m.sig := by
  unfold Mach.dramLine
  try lift_lets
  repeat' first
    | (intro x; first | (have hx : x.sig = m.sig := by
                            simp only [x]
                            repeat' (first | (simp [*]; done) | intro _ | split   | simp [*])
                         clear_value x) | clear_value x)
    | (simp [*]; done)
    | intro _
    | split
    | simp [*]

@[simp] theorem Mach.scrubPass_sig (d : Fin 4) (m : Mach) : (Mach.scrubPass d m).sig = m.sig := by
  simp [Mach.scrubPass]

@[simp] theorem Mach.recal_sig (d : Fin 4) (low high : Bool) (m : Mach) : (Mach.recal d low high m).sig = m.sig := by
  unfold Mach.recal
  try lift_lets
  repeat' first
    | (intro x; first | (have hx : x.sig = m.sig := by
                            simp only [x]
                            repeat' (first | (simp [*]; done) | intro _ | split   | simp [*])
                         clear_value x) | clear_value x)
    | (simp [*]; done)
    | intro _
    | split
    | simp [*]

@[simp] theorem Mach.refreshRate_sig (d : Fin 4) (mr4 : Nat) (m : Mach) : (Mach.refreshRate d mr4 m).sig = m.sig := by
  unfold Mach.refreshRate
  try lift_lets
  repeat' first
    | (intro x; first | (have hx : x.sig = m.sig := by
                            simp only [x]
                            repeat' (first | (simp [*]; done) | intro _ | split   | simp [*])
                         clear_value x) | clear_value x)
    | (simp [*]; done)
    | intro _
    | split
    | simp [*]

@[simp] theorem Mach.giveLevel_sig (m : Mach) : (Mach.giveLevel m).sig = m.sig := by
  unfold Mach.giveLevel
  repeat' first
    | (simp [*]; done)
    | intro _
    | split
    | rw [Mach.each_sig]
    | simp [*]

@[simp] theorem Mach.setLevel_sig (l : Nat) (m : Mach) : (Mach.setLevel l m).sig = m.sig := by
  unfold Mach.setLevel
  try lift_lets
  repeat' first
    | (intro x; first | (have hx : x.sig = m.sig := by
                            simp only [x]
                            repeat' (first | (simp [*]; done) | intro _ | split   | simp [*])
                         clear_value x) | clear_value x)
    | (simp [*]; done)
    | intro _
    | split
    | simp [*]

@[simp] theorem Mach.snfStart_sig (m : Mach) : (Mach.snfStart m).sig = m.sig := by
  unfold Mach.snfStart
  try lift_lets
  repeat' first
    | (intro x; first | (have hx : x.sig = m.sig := by
                            simp only [x]
                            repeat' (first | (simp [*]; done) | intro _ | split   | simp [*])
                         clear_value x) | clear_value x)
    | (simp [*]; done)
    | intro _
    | split
    | simp [*]

@[simp] theorem Mach.lntFlush_sig (m : Mach) : (Mach.lntFlush m).sig = m.sig := by
  simp [Mach.lntFlush]

@[simp] theorem Mach.lntEmpty_sig (m : Mach) : (Mach.lntEmpty m).sig = m.sig := by
  simp [Mach.lntEmpty]

@[simp] theorem Mach.lntDisabled_sig (m : Mach) : (Mach.lntDisabled m).sig = m.sig := by
  simp [Mach.lntDisabled]

@[simp] theorem Mach.lntStart_sig (m : Mach) : (Mach.lntStart m).sig = m.sig := by
  simp [Mach.lntStart]

@[simp] theorem Mach.strandReads_sig (c : Chan) (issued : Bool) (m : Mach) : (Mach.strandReads c issued m).sig = m.sig := by
  unfold Mach.strandReads
  try lift_lets
  repeat' first
    | (intro x; first
      | (have hx : x.sig = m.sig := (by
        simp only [x]
        repeat' (first | (simp [*]; done) | intro _ | split | rw [Mach.each_sig] | simp [*])); clear_value x)
      | (have hx : x.1.sig = m.sig := (by
        simp only [x]
        repeat' (first | (simp [*]; done) | intro _ | split | rw [Mach.each_sig] | simp [*])); clear_value x)
      | clear_value x)
    | (simp [*]; done)
    | intro _
    | split
    | (have h2 := congrArg (fun p => p.1.sig) ‹_ = (_, _)›; simp at h2; simp [*]; done)
    | rw [Mach.each_sig]
    | simp [*]

@[simp] theorem Mach.stopBegins_sig (p : Page) (m : Mach) : (Mach.stopBegins p m).sig = m.sig := by
  unfold Mach.stopBegins
  repeat' first
    | (simp [*]; done)
    | intro _
    | split
    | rw [Mach.each_sig]
    | simp [*]

@[simp] theorem Mach.stopPage_sig (p : Page) (m : Mach) : (Mach.stopPage p m).sig = m.sig := by
  simp [Mach.stopPage]

@[simp] theorem Mach.portIdle_sig (q : Port) (m : Mach) : (Mach.portIdle q m).sig = m.sig := by
  unfold Mach.portIdle
  try lift_lets
  repeat' first
    | (intro x; first
      | (have hx : x.sig = m.sig := (by
        simp only [x]
        repeat' (first | (simp [*]; done) | intro _ | split | rw [Mach.each_sig] | simp [*])); clear_value x)
      | (have hx : x.1.sig = m.sig := (by
        simp only [x]
        repeat' (first | (simp [*]; done) | intro _ | split | rw [Mach.each_sig] | simp [*])); clear_value x)
      | clear_value x)
    | (simp [*]; done)
    | intro _
    | split
    | (have h2 := congrArg (fun p => p.1.sig) ‹_ = (_, _)›; simp at h2; simp [*]; done)
    | rw [Mach.each_sig]
    | simp [*]

@[simp] theorem Mach.stopEnds_sig (p : Page) (m : Mach) : (Mach.stopEnds p m).sig = m.sig := by
  unfold Mach.stopEnds
  repeat' first
    | (simp [*]; done)
    | intro _
    | split
    | simp [*]

@[simp] theorem Mach.stoppingEnd_sig (p : Page) (m : Mach) : (Mach.stoppingEnd p m).sig = m.sig := by
  simp [Mach.stoppingEnd]

@[simp] theorem Mach.startPage_sig (p : Page) (m : Mach) : (Mach.startPage p m).sig = m.sig := by
  simp [Mach.startPage]

@[simp] theorem Mach.keyReload_sig (m : Mach) : (Mach.keyReload m).sig = m.sig := by
  unfold Mach.keyReload
  try lift_lets
  repeat' first
    | (intro x; first | (have hx : x.sig = m.sig := by
                            simp only [x]
                            repeat' (first | (simp [*]; done) | intro _ | split   | simp [*])
                         clear_value x) | clear_value x)
    | (simp [*]; done)
    | intro _
    | split
    | simp [*]

@[simp] theorem Mach.startEnds_sig (p : Page) (m : Mach) : (Mach.startEnds p m).sig = m.sig := by
  unfold Mach.startEnds
  try lift_lets
  repeat' first
    | (intro x; first
      | (have hx : x.sig = m.sig := (by
        simp only [x]
        repeat' (first | (simp [*]; done) | intro _ | split | rw [Mach.each_sig] | simp [*])); clear_value x)
      | (have hx : x.1.sig = m.sig := (by
        simp only [x]
        repeat' (first | (simp [*]; done) | intro _ | split | rw [Mach.each_sig] | simp [*])); clear_value x)
      | clear_value x)
    | (simp [*]; done)
    | intro _
    | split
    | (have h2 := congrArg (fun p => p.1.sig) ‹_ = (_, _)›; simp at h2; simp [*]; done)
    | rw [Mach.each_sig]
    | simp [*]

theorem Mach.startTrains_sig (p : Page) (tr : Bool) {m u : Mach} (h : m.startTrains p tr = some u) : u.sig = m.sig := by
  unfold Mach.startTrains at h
  split at h
  · split at h
    · cases h
    · split at h
      · cases h
      · split at h <;> (cases h; simp)
  · cases h

@[simp] theorem Mach.startingEnd_sig (p : Page) (tr : Bool) (m : Mach) : (Mach.startingEnd p tr m).sig = m.sig := by
  unfold Mach.startingEnd
  split
  · rfl
  · split
    · simp
    · split
      · rename_i u hu; simp [Mach.startTrains_sig _ _ hu]
      · dsimp only; split <;> simp

@[simp] theorem Mach.lampGone_sig (m : Mach) : (Mach.lampGone m).sig = m.sig := by
  unfold Mach.lampGone
  try lift_lets
  repeat' first
    | (intro x; first
      | (have hx : x.sig = m.sig := (by
        simp only [x]
        repeat' (first | (simp [*]; done) | intro _ | split | rw [Mach.each_sig] | simp [*])); clear_value x)
      | (have hx : x.1.sig = m.sig := (by
        simp only [x]
        repeat' (first | (simp [*]; done) | intro _ | split | rw [Mach.each_sig] | simp [*])); clear_value x)
      | clear_value x)
    | (simp [*]; done)
    | intro _
    | split
    | (have h2 := congrArg (fun p => p.1.sig) ‹_ = (_, _)›; simp at h2; simp [*]; done)
    | rw [Mach.each_sig]
    | simp [*]

@[simp] theorem Mach.faultEnds_sig (p : Page) (m : Mach) : (Mach.faultEnds p m).sig = m.sig := by
  unfold Mach.faultEnds
  try lift_lets
  repeat' first
    | (intro x; first
      | (have hx : x.sig = m.sig := (by
        simp only [x]
        repeat' (first | (simp [*]; done) | intro _ | split | rw [Mach.each_sig] | simp [*])); clear_value x)
      | (have hx : x.1.sig = m.sig := (by
        simp only [x]
        repeat' (first | (simp [*]; done) | intro _ | split | rw [Mach.each_sig] | simp [*])); clear_value x)
      | clear_value x)
    | (simp [*]; done)
    | intro _
    | split
    | (have h2 := congrArg (fun p => p.1.sig) ‹_ = (_, _)›; simp at h2; simp [*]; done)
    | rw [Mach.each_sig]
    | simp [*]

@[simp] theorem Mach.blockFault_sig (p : Page) (parity : Bool) (m : Mach) : (Mach.blockFault p parity m).sig = m.sig := by
  unfold Mach.blockFault
  try lift_lets
  repeat' first
    | (intro x; first | (have hx : x.sig = m.sig := by
                            simp only [x]
                            repeat' (first | (simp [*]; done) | intro _ | split   | simp [*])
                         clear_value x) | clear_value x)
    | (simp [*]; done)
    | intro _
    | split
    | simp [*]

@[simp] theorem Mach.pageCmd_sig (a : Agent) (p : Page) (f : Page → Mach → Mach) (m : Mach) (h : (f p m).sig = m.sig) :
    (Mach.pageCmd a p f m).sig = m.sig := by
  unfold Mach.pageCmd
  split
  · simp
  · exact h

@[simp] theorem Mach.almBadCrc_sig (slot : Nat) (m : Mach) : (Mach.almBadCrc slot m).sig = m.sig := by
  unfold Mach.almBadCrc
  repeat' first
    | (simp [*]; done)
    | intro _
    | split
    | simp [*]

@[simp] theorem Mach.almBatch_sig (badCrc : List Nat) (writeOk : Bool) (m : Mach) : (Mach.almBatch badCrc writeOk m).sig = m.sig := by
  unfold Mach.almBatch
  try lift_lets
  repeat' first
    | (intro x; first | (have hx : x.sig = m.sig := by
                            simp only [x]
                            repeat' (first | (simp [*]; done) | intro _ | split | rw [Mach.each_sig]  | simp [*])
                         clear_value x) | clear_value x)
    | (simp [*]; done)
    | intro _
    | split
    | rw [Mach.each_sig]
    | simp [*]

@[simp] theorem Mach.almFlushBy_sig (a : Agent) (m : Mach) : (Mach.almFlushBy a m).sig = m.sig := by
  simp [Mach.almFlushBy]

@[simp] theorem Mach.almBufReq_sig (a : Agent) (on : Bool) (m : Mach) : (Mach.almBufReq a on m).sig = m.sig := by
  unfold Mach.almBufReq
  try lift_lets
  repeat' first
    | (intro x; first | (have hx : x.sig = m.sig := by
                            simp only [x]
                            repeat' (first | (simp [*]; done) | intro _ | split   | simp [*])
                         clear_value x) | clear_value x)
    | (simp [*]; done)
    | intro _
    | split
    | simp [*]

@[simp] theorem Mach.almTimeDue_sig (m : Mach) : (Mach.almTimeDue m).sig = m.sig := by
  simp [Mach.almTimeDue]

@[simp] theorem Mach.potAdvance_sig (m : Mach) : (Mach.potAdvance m).sig = m.sig := by
  simp [Mach.potAdvance]

@[simp] theorem Mach.b2drop_sig (a : Agent) (m : Mach) : (Mach.b2drop a m).sig = m.sig := by
  unfold Mach.b2drop
  repeat' first
    | (simp [*]; done)
    | intro _
    | split
    | simp [*]

@[simp] theorem Mach.apt_sig (a : Agent) (d : Die) (f : Mach → Mach) (m : Mach) (h : (f m).sig = m.sig) :
    (Mach.apt a d f m).sig = m.sig := by
  unfold Mach.apt
  split
  · exact h
  · simp

@[simp] theorem Mach.setSeq_sig (a : Agent) (x : SeqS) (m : Mach) : (Mach.setSeq a x m).sig = m.sig := by
  simp [Mach.setSeq]

@[simp] theorem Mach.seqErr_sig (d : Die) (m : Mach) : (Mach.seqErr d m).sig = m.sig := by
  simp [Mach.seqErr]

@[simp] theorem Mach.seqBreak_sig (a : Agent) (d : Die) (m : Mach) : (Mach.seqBreak a d m).sig = m.sig := by
  simp [Mach.seqBreak]

@[simp] theorem Mach.aptDrop_sig (a : Agent) (d : Die) (m : Mach) : (Mach.aptDrop a d m).sig = m.sig := by
  simp [Mach.aptDrop]

@[simp] theorem Mach.svcQueue_sig (a : Agent) (d : Die) (code : Nat) (x : Apt) (m : Mach) : (Mach.svcQueue a d code x m).sig = m.sig := by
  simp [Mach.svcQueue]

@[simp] theorem Mach.svcRead_sig (a : Agent) (d : Die) (code : Nat) (x : Apt) (m : Mach) : (Mach.svcRead a d code x m).sig = m.sig := by
  unfold Mach.svcRead
  try lift_lets
  repeat' first
    | (intro x; first
      | (have hx : x.sig = m.sig := (by
        simp only [x]
        repeat' (first | (simp [*]; done) | intro _ | split | rw [Mach.each_sig] | simp [*])); clear_value x)
      | (have hx : x.1.sig = m.sig := (by
        simp only [x]
        repeat' (first | (simp [*]; done) | intro _ | split | rw [Mach.each_sig] | simp [*])); clear_value x)
      | clear_value x)
    | (simp [*]; done)
    | intro _
    | split
    | (have h2 := congrArg (fun p => p.1.sig) ‹_ = (_, _)›; simp at h2; simp [*]; done)
    | rw [Mach.each_sig]
    | simp [*]

@[simp] theorem Mach.svcSuspend_sig (a : Agent) (d : Die) (m : Mach) : (Mach.svcSuspend a d m).sig = m.sig := by
  unfold Mach.svcSuspend
  try lift_lets
  repeat' first
    | (intro x; first
      | (have hx : x.sig = m.sig := (by
        simp only [x]
        repeat' (first | (simp [*]; done) | intro _ | split | rw [Mach.each_sig] | simp [*])); clear_value x)
      | (have hx : x.1.sig = m.sig := (by
        simp only [x]
        repeat' (first | (simp [*]; done) | intro _ | split | rw [Mach.each_sig] | simp [*])); clear_value x)
      | clear_value x)
    | (simp [*]; done)
    | intro _
    | split
    | (have h2 := congrArg (fun p => p.1.sig) ‹_ = (_, _)›; simp at h2; simp [*]; done)
    | rw [Mach.each_sig]
    | simp [*]

@[simp] theorem Mach.aptRun_sig (a : Agent) (d : Die) (code : Nat) (x : Apt) (m : Mach) : (Mach.aptRun a d code x m).sig = m.sig := by
  unfold Mach.aptRun
  try lift_lets
  repeat' first
    | (intro x; first | (have hx : x.sig = m.sig := by
                            simp only [x]
                            repeat' (first | (simp [*]; done) | intro _ | split   | simp [*])
                         clear_value x) | clear_value x)
    | (simp [*]; done)
    | intro _
    | split
    | simp [*]

@[simp] theorem Mach.aptIssue_sig (a : Agent) (d : Die) (code : Nat) (m : Mach) : (Mach.aptIssue a d code m).sig = m.sig := by
  unfold Mach.aptIssue
  try lift_lets
  repeat' first
    | (intro x; first | (have hx : x.sig = m.sig := by
                            simp only [x]
                            repeat' (first | (simp [*]; done) | intro _ | split   | simp [*])
                         clear_value x) | clear_value x)
    | (simp [*]; done)
    | intro _
    | split
    | simp [*]

@[simp] theorem Mach.aptWrite1_sig (a : Agent) (d : Die) (v : BitVec 16) (m : Mach) : (Mach.aptWrite1 a d v m).sig = m.sig := by
  unfold Mach.aptWrite1
  try lift_lets
  repeat' first
    | (intro x; first | (have hx : x.sig = m.sig := by
                            simp only [x]
                            repeat' (first | (simp [*]; done) | intro _ | split   | simp [*])
                         clear_value x) | clear_value x)
    | (simp [*]; done)
    | intro _
    | split
    | simp [*]

@[simp] theorem Mach.aptWrite2_sig (a : Agent) (d : Die) (v : BitVec 16) (m : Mach) : (Mach.aptWrite2 a d v m).sig = m.sig := by
  simp [Mach.aptWrite2]

@[simp] theorem Mach.parWrite_sig (a : Agent) (d : Die) (off : Nat) (v : Word) (m : Mach) : (Mach.parWrite a d off v m).sig = m.sig := by
  unfold Mach.parWrite
  repeat' first
    | (simp [*]; done)
    | intro _
    | split
    | simp [*]

@[simp] theorem Mach.stageWrite_sig (a : Agent) (d : Die) (off : Nat) (v : Word) (m : Mach) : (Mach.stageWrite a d off v m).sig = m.sig := by
  unfold Mach.stageWrite
  try lift_lets
  repeat' first
    | (intro x; first | (have hx : x.sig = m.sig := by
                            simp only [x]
                            repeat' (first | (simp [*]; done) | intro _ | split   | simp [*])
                         clear_value x) | clear_value x)
    | (simp [*]; done)
    | intro _
    | split
    | simp [*]

@[simp] theorem Mach.aptBusWrite_sig (a : Agent) (d : Die) (off width : Nat) (v : BitVec 64) (m : Mach) : (Mach.aptBusWrite a d off width v m).sig = m.sig := by
  unfold Mach.aptBusWrite
  try lift_lets
  repeat' first
    | (intro x; first
      | (have hx : x.sig = m.sig := (by
        simp only [x]
        repeat' (first | (simp [*]; done) | intro _ | split | rw [Mach.each_sig] | simp [*])); clear_value x)
      | (have hx : x.1.sig = m.sig := (by
        simp only [x]
        repeat' (first | (simp [*]; done) | intro _ | split | rw [Mach.each_sig] | simp [*])); clear_value x)
      | clear_value x)
    | (simp [*]; done)
    | intro _
    | split
    | (have h2 := congrArg (fun p => p.1.sig) ‹_ = (_, _)›; simp at h2; simp [*]; done)
    | rw [Mach.each_sig]
    | simp [*]

@[simp] theorem Mach.aptBusRead_sig (a : Agent) (d : Die) (off width : Nat) (m : Mach) : (Mach.aptBusRead a d off width m).1.sig = m.sig := by
  unfold Mach.aptBusRead
  try lift_lets
  repeat' first
    | (intro x; first
      | (have hx : x.sig = m.sig := (by
        simp only [x]
        repeat' (first | (simp [*]; done) | intro _ | split | rw [Mach.each_sig] | simp [*])); clear_value x)
      | (have hx : x.1.sig = m.sig := (by
        simp only [x]
        repeat' (first | (simp [*]; done) | intro _ | split | rw [Mach.each_sig] | simp [*])); clear_value x)
      | clear_value x)
    | (simp [*]; done)
    | intro _
    | split
    | (have h2 := congrArg (fun p => p.1.sig) ‹_ = (_, _)›; simp at h2; simp [*]; done)
    | rw [Mach.each_sig]
    | simp [*]

@[simp] theorem Mach.aptCode_sig (a : Agent) (d : Die) (code : Nat) (m : Mach) : (Mach.aptCode a d code m).sig = m.sig := by
  simp [Mach.aptCode]

@[simp] theorem Mach.wptSet_sig (a : Agent) (hi : Bool) (v : Word) (m : Mach) : (Mach.wptSet a hi v m).sig = m.sig := by
  simp [Mach.wptSet]

@[simp] theorem Mach.wptAllset_sig (a : Agent) (hi : Bool) (v : Word) (m : Mach) : (Mach.wptAllset a hi v m).sig = m.sig := by
  simp [Mach.wptAllset]

@[simp] theorem Mach.hdmCommitWays_sig (p : Port) (k base size skip : Nat) (lock oneWay : Bool) (m : Mach) : (Mach.hdmCommitWays p k base size skip lock oneWay m).sig = m.sig := by
  unfold Mach.hdmCommitWays
  try lift_lets
  repeat' first
    | (intro x; first
      | (have hx : x.sig = m.sig := (by
        simp only [x]
        repeat' (first | (simp [*]; done) | intro _ | split | rw [Mach.each_sig] | simp [*])); clear_value x)
      | (have hx : x.1.sig = m.sig := (by
        simp only [x]
        repeat' (first | (simp [*]; done) | intro _ | split | rw [Mach.each_sig] | simp [*])); clear_value x)
      | clear_value x)
    | (simp [*]; done)
    | intro _
    | split
    | (have h2 := congrArg (fun p => p.1.sig) ‹_ = (_, _)›; simp at h2; simp [*]; done)
    | rw [Mach.each_sig]
    | simp [*]

@[simp] theorem Mach.hdmCommit_sig (p : Port) (k base size skip : Nat) (lock : Bool) (m : Mach) : (Mach.hdmCommit p k base size skip lock m).sig = m.sig := by
  unfold Mach.hdmCommit
  try lift_lets
  repeat' first
    | (intro x; first | (have hx : x.sig = m.sig := by
                            simp only [x]
                            repeat' (first | (simp [*]; done) | intro _ | split   | simp [*])
                         clear_value x) | clear_value x)
    | (simp [*]; done)
    | intro _
    | split
    | simp [*]

@[simp] theorem Mach.hdmUncommit_sig (p : Port) (k : Nat) (m : Mach) : (Mach.hdmUncommit p k m).sig = m.sig := by
  unfold Mach.hdmUncommit
  try lift_lets
  repeat' first
    | (intro x; first
      | (have hx : x.sig = m.sig := (by
        simp only [x]
        repeat' (first | (simp [*]; done) | intro _ | split | rw [Mach.each_sig] | simp [*])); clear_value x)
      | (have hx : x.1.sig = m.sig := (by
        simp only [x]
        repeat' (first | (simp [*]; done) | intro _ | split | rw [Mach.each_sig] | simp [*])); clear_value x)
      | clear_value x)
    | (simp [*]; done)
    | intro _
    | split
    | (have h2 := congrArg (fun p => p.1.sig) ‹_ = (_, _)›; simp at h2; simp [*]; done)
    | rw [Mach.each_sig]
    | simp [*]

@[simp] theorem Mach.memBegin_sig (p : Port) (m : Mach) : (Mach.memBegin p m).sig = m.sig := by
  simp [Mach.memBegin]

@[simp] theorem Mach.lntHit_sig (i : Nat) (changed : Bool) (m : Mach) : (Mach.lntHit i changed m).sig = m.sig := by
  simp [Mach.lntHit]

@[simp] theorem Mach.lntParity_sig (i : Nat) (m : Mach) : (Mach.lntParity i m).sig = m.sig := by
  simp [Mach.lntParity]

@[simp] theorem Mach.lntFetchNow_sig (key : Nat) (r : LampReq) (m : Mach) : (Mach.lntFetchNow key r m).sig = m.sig := by
  unfold Mach.lntFetchNow
  try lift_lets
  repeat' first
    | (intro x; first
      | (have hx : x.sig = m.sig := (by
        simp only [x]
        repeat' (first | (simp [*]; done) | intro _ | split | rw [Mach.each_sig] | simp [*])); clear_value x)
      | (have hx : x.1.sig = m.sig := (by
        simp only [x]
        repeat' (first | (simp [*]; done) | intro _ | split | rw [Mach.each_sig] | simp [*])); clear_value x)
      | clear_value x)
    | (simp [*]; done)
    | intro _
    | split
    | (have h2 := congrArg (fun p => p.1.sig) ‹_ = (_, _)›; simp at h2; simp [*]; done)
    | rw [Mach.each_sig]
    | simp [*]

@[simp] theorem Mach.lntFetch_sig (key : Nat) (r : LampReq) (m : Mach) : (Mach.lntFetch key r m).sig = m.sig := by
  unfold Mach.lntFetch
  try lift_lets
  repeat' first
    | (intro x; first | (have hx : x.sig = m.sig := by
                            simp only [x]
                            repeat' (first | (simp [*]; done) | intro _ | split   | simp [*])
                         clear_value x) | clear_value x)
    | (simp [*]; done)
    | intro _
    | split
    | simp [*]

@[simp] theorem Mach.lampLookup_sig (r : LampReq) (e : MemErr) (m : Mach) : (Mach.lampLookup r e m).sig = m.sig := by
  unfold Mach.lampLookup
  try lift_lets
  repeat' first
    | (intro x; first | (have hx : x.sig = m.sig := by
                            simp only [x]
                            repeat' (first | (simp [*]; done) | intro _ | split   | simp [*])
                         clear_value x) | clear_value x)
    | (simp [*]; done)
    | intro _
    | split
    | simp [*]

@[simp] theorem Mach.fetchBack_sig (e : MemErr) (m : Mach) : (Mach.fetchBack e m).sig = m.sig := by
  unfold Mach.fetchBack
  try lift_lets
  repeat' first
    | (intro x; first | (have hx : x.sig = m.sig := by
                            simp only [x]
                            repeat' (first | (simp [*]; done) | intro _ | split | rw [Mach.each_sig]  | simp [*])
                         clear_value x) | clear_value x)
    | (simp [*]; done)
    | intro _
    | split
    | rw [Mach.each_sig]
    | simp [*]

@[simp] theorem Mach.lampShut_sig (r : LampReq) (m : Mach) : (Mach.lampShut r m).sig = m.sig := by
  simp [Mach.lampShut]

@[simp] theorem Mach.memRequest_sig (p : Port) (hpa : Nat) (mk : Nat → LampReq) (read : Bool) (e : MemErr) (m : Mach) : (Mach.memRequest p hpa mk read e m).sig = m.sig := by
  unfold Mach.memRequest
  try lift_lets
  repeat' first
    | (intro x; first | (have hx : x.sig = m.sig := by
                            simp only [x]
                            repeat' (first | (simp [*]; done) | intro _ | split   | simp [*])
                         clear_value x) | clear_value x)
    | (simp [*]; done)
    | intro _
    | split
    | simp [*]

@[simp] theorem Mach.capRelease_sig (m : Mach) : (Mach.capRelease m).sig = m.sig := by
  unfold Mach.capRelease
  try lift_lets
  repeat' first
    | (intro x; first | (have hx : x.sig = m.sig := by
                            simp only [x]
                            repeat' (first | (simp [*]; done) | intro _ | split   | simp [*])
                         clear_value x) | clear_value x)
    | (simp [*]; done)
    | intro _
    | split
    | simp [*]

@[simp] theorem Mach.askList_sig (s : Nat) (m : Mach) : (Mach.askList s m).sig = m.sig := by
  unfold Mach.askList
  try lift_lets
  repeat' first
    | (intro x; first | (have hx : x.sig = m.sig := by
                            simp only [x]
                            repeat' (first | (simp [*]; done) | intro _ | split   | simp [*])
                         clear_value x) | clear_value x)
    | (simp [*]; done)
    | intro _
    | split
    | simp [*]

@[simp] theorem Mach.stall_sig (s : Nat) (m : Mach) : (Mach.stall s m).sig = m.sig := by
  simp [Mach.stall]

@[simp] theorem Mach.lookLamp_sig (v : Vid) (lba : Nat) (m : Mach) : (Mach.lookLamp v lba m).sig = m.sig := by
  unfold Mach.lookLamp
  repeat' first
    | (simp [*]; done)
    | intro _
    | split
    | simp [*]

@[simp] theorem Mach.fillFrame_sig (k p f : Nat) (d : Block) (dirty : Bool) (m : Mach) : (Mach.fillFrame k p f d dirty m).sig = m.sig := by
  simp [Mach.fillFrame]

@[simp] theorem Mach.rasOf_sig (s : Nat) (m : Mach) : (Mach.rasOf s m).sig = m.sig := by
  unfold Mach.rasOf
  try lift_lets
  repeat' first
    | (intro x; first
      | (have hx : x.sig = m.sig := (by
        simp only [x]
        repeat' (first | (simp [*]; done) | intro _ | split | rw [Mach.each_sig] | simp [*])); clear_value x)
      | (have hx : x.1.sig = m.sig := (by
        simp only [x]
        repeat' (first | (simp [*]; done) | intro _ | split | rw [Mach.each_sig] | simp [*])); clear_value x)
      | clear_value x)
    | (simp [*]; done)
    | intro _
    | split
    | (have h2 := congrArg (fun p => p.1.sig) ‹_ = (_, _)›; simp at h2; simp [*]; done)
    | rw [Mach.each_sig]
    | simp [*]

@[simp] theorem Mach.readBad_sig (s : Nat) (u : DramUser) (m : Mach) : (Mach.readBad s u m).sig = m.sig := by
  unfold Mach.readBad
  dsimp only
  rw [Mach.when_sig (h := fun m => by simp)]
  repeat' first | (simp; done) | split

@[simp] theorem Mach.readLost_sig (s : Nat) (lost : List DramUser) (m : Mach) : (Mach.readLost s lost m).sig = m.sig := by
  unfold Mach.readLost
  try lift_lets
  repeat' first
    | (intro x; first
      | (have hx : x.sig = m.sig := (by
        simp only [x]
        repeat' (first | (simp [*]; done) | intro _ | split | rw [Mach.each_sig] | simp [*])); clear_value x)
      | (have hx : x.1.sig = m.sig := (by
        simp only [x]
        repeat' (first | (simp [*]; done) | intro _ | split | rw [Mach.each_sig] | simp [*])); clear_value x)
      | clear_value x)
    | (simp [*]; done)
    | intro _
    | split
    | (have h2 := congrArg (fun p => p.1.sig) ‹_ = (_, _)›; simp at h2; simp [*]; done)
    | rw [Mach.each_sig]
    | simp [*]

@[simp] theorem Mach.pushCovers_sig (s : Nat) (m : Mach) : (Mach.pushCovers s m).sig = m.sig := by
  unfold Mach.pushCovers
  repeat' first
    | (simp [*]; done)
    | intro _
    | split
    | rw [Mach.each_sig]
    | simp [*]

@[simp] theorem Mach.awaitDurable_sig (s : Nat) (m : Mach) : (Mach.awaitDurable s m).sig = m.sig := by
  unfold Mach.awaitDurable
  try lift_lets
  repeat' first
    | (intro x; first | (have hx : x.sig = m.sig := by
                            simp only [x]
                            repeat' (first | (simp [*]; done) | intro _ | split   | simp [*])
                         clear_value x) | clear_value x)
    | (simp [*]; done)
    | intro _
    | split
    | simp [*]

@[simp] theorem Mach.awaitPartner_sig (s : Nat) (m : Mach) : (Mach.awaitPartner s m).sig = m.sig := by
  simp [Mach.awaitPartner]

@[simp] theorem Mach.noteVersion_sig (s id : Nat) (m : Mach) : (Mach.noteVersion s id m).sig = m.sig := by
  simp [Mach.noteVersion]

@[simp] theorem Mach.nextLb_sig (s : Nat) (m : Mach) : (Mach.nextLb s m).sig = m.sig := by
  simp [Mach.nextLb]

@[simp] theorem Mach.refuseCmd_sig (s status : Nat) (m : Mach) : (Mach.refuseCmd s status m).sig = m.sig := by
  simp [Mach.refuseCmd]

@[simp] theorem Mach.askData_sig (s : Nat) (m : Mach) : (Mach.askData s m).sig = m.sig := by
  unfold Mach.askData
  try lift_lets
  repeat' first
    | (intro x; first | (have hx : x.sig = m.sig := by
                            simp only [x]
                            repeat' (first | (simp [*]; done) | intro _ | split | rw [Mach.each_sig]  | simp [*])
                         clear_value x) | clear_value x)
    | (simp [*]; done)
    | intro _
    | split
    | rw [Mach.each_sig]
    | simp [*]

@[simp] theorem Mach.writeStart_sig (s : Nat) (m : Mach) : (Mach.writeStart s m).sig = m.sig := by
  unfold Mach.writeStart
  try lift_lets
  repeat' first
    | (intro x; first | (have hx : x.sig = m.sig := by
                            simp only [x]
                            repeat' (first | (simp [*]; done) | intro _ | split   | simp [*])
                         clear_value x) | clear_value x)
    | (simp [*]; done)
    | intro _
    | split
    | simp [*]

@[simp] theorem Mach.writeRow_sig (s : Nat) (m : Mach) : (Mach.writeRow s m).sig = m.sig := by
  simp [Mach.writeRow]

@[simp] theorem Mach.writeEnd_sig (s : Nat) (m : Mach) : (Mach.writeEnd s m).sig = m.sig := by
  simp [Mach.writeEnd]

@[simp] theorem Mach.writeLb_sig (s lba : Nat) (d : Block) (m : Mach) : (Mach.writeLb s lba d m).sig = m.sig := by
  unfold Mach.writeLb
  dsimp only
  rw [Mach.writeEnd_sig, Mach.nextLb_sig]
  repeat' first
    | rw [Mach.twnData_sig]
    | rw [Mach.noteVersion_sig, Mach.markWritten_sig]
    | rw [Mach.fillFrame_sig]
    | exact Mach.acceptLb_sig ..
    | split

@[simp] theorem Mach.dataIn_sig (s : Nat) (d : Block) (m : Mach) : (Mach.dataIn s d m).sig = m.sig := by
  unfold Mach.dataIn
  try lift_lets
  repeat' first
    | (intro x; first | (have hx : x.sig = m.sig := by
                            simp only [x]
                            repeat' (first | (simp [*]; done) | intro _ | split   | simp [*])
                         clear_value x) | clear_value x)
    | (simp [*]; done)
    | intro _
    | split
    | simp [*]

@[simp] theorem Mach.dataFailed_sig (s : Nat) (m : Mach) : (Mach.dataFailed s m).sig = m.sig := by
  unfold Mach.dataFailed
  repeat' first
    | (simp [*]; done)
    | intro _
    | split
    | simp [*]

@[simp] theorem Mach.transferResume_sig (s : Nat) (m : Mach) : (Mach.transferResume s m).sig = m.sig := by
  unfold Mach.transferResume
  try lift_lets
  repeat' first
    | (intro x; first | (have hx : x.sig = m.sig := by
                            simp only [x]
                            repeat' (first | (simp [*]; done) | intro _ | split   | simp [*])
                         clear_value x) | clear_value x)
    | (simp [*]; done)
    | intro _
    | split
    | simp [*]

@[simp] theorem Mach.listBack_sig (s : Nat) (ok : Bool) (elems : List (BitVec 128)) (m : Mach) : (Mach.listBack s ok elems m).sig = m.sig := by
  unfold Mach.listBack
  try lift_lets
  repeat' first
    | (intro x; first | (have hx : x.sig = m.sig := by
                            simp only [x]
                            repeat' (first | (simp [*]; done) | intro _ | split   | simp [*])
                         clear_value x) | clear_value x)
    | (simp [*]; done)
    | intro _
    | split
    | simp [*]

@[simp] theorem Mach.lostLb_sig (s off : Nat) (m : Mach) : (Mach.lostLb s off m).sig = m.sig := by
  simp [Mach.lostLb]

@[simp] theorem Mach.readOne_sig (s off : Nat) (m : Mach) : (Mach.readOne s off m).sig = m.sig := by
  unfold Mach.readOne
  try lift_lets
  repeat' first
    | (intro x; first | (have hx : x.sig = m.sig := by
                            simp only [x]
                            repeat' (first | (simp [*]; done) | intro _ | split   | simp [*])
                         clear_value x) | clear_value x)
    | (simp [*]; done)
    | intro _
    | split
    | simp [*]

@[simp] theorem Mach.readAll_sig (s : Nat) (lost : List DramUser) (m : Mach) : (Mach.readAll s lost m).sig = m.sig := by
  unfold Mach.readAll
  try lift_lets
  repeat' first
    | (intro x; first | (have hx : x.sig = m.sig := by
                            simp only [x]
                            repeat' (first | (simp [*]; done) | intro _ | split | rw [Mach.each_sig]  | simp [*])
                         clear_value x) | clear_value x)
    | (simp [*]; done)
    | intro _
    | split
    | rw [Mach.each_sig]
    | simp [*]

@[simp] theorem Mach.readRow_sig (s : Nat) (lost : List DramUser) (m : Mach) : (Mach.readRow s lost m).sig = m.sig := by
  simp [Mach.readRow]

@[simp] theorem Mach.verifyRow_sig (s : Nat) (lost : List DramUser) (m : Mach) : (Mach.verifyRow s lost m).sig = m.sig := by
  simp [Mach.verifyRow]

@[simp] theorem Mach.sendDurable_sig (mk : List Nat → TxFor) (v : Vid) (m : Mach) : (Mach.sendDurable mk v m).1.sig = m.sig := by
  simp [Mach.sendDurable]

@[simp] theorem Mach.flushStart_sig (s : Nat) (m : Mach) : (Mach.flushStart s m).sig = m.sig := by
  unfold Mach.flushStart
  try lift_lets
  repeat' first
    | (intro x; first | (have hx : x.sig = m.sig := by
                            simp only [x]
                            repeat' (first | (simp [*]; done) | intro _ | split   | simp [*])
                         clear_value x) | clear_value x)
    | (simp [*]; done)
    | intro _
    | split
    | simp [*]

@[simp] theorem Mach.flushRow_sig (s : Nat) (m : Mach) : (Mach.flushRow s m).sig = m.sig := by
  simp [Mach.flushRow]

@[simp] theorem Mach.deallocMu_sig (v : Vid) (rec mu : Nat) (m : Mach) : (Mach.deallocMu v rec mu m).sig = m.sig := by
  simp [Mach.deallocMu]

@[simp] theorem Mach.deallocMus_sig (v : Vid) (slba n : Nat) (m : Mach) : (Mach.deallocMus v slba n m).sig = m.sig := by
  unfold Mach.deallocMus
  dsimp only
  split
  · simp
  · rw [Mach.each_sig]
    · simp
    · intro i m; simp

@[simp] theorem Mach.deallocLit_sig (v : Vid) (slba n : Nat) (m : Mach) : (Mach.deallocLit v slba n m).sig = m.sig := by
  unfold Mach.deallocLit
  try lift_lets
  repeat' first
    | (intro x; first | (have hx : x.sig = m.sig := by
                            simp only [x]
                            repeat' (first | (simp [*]; done) | intro _ | split | rw [Mach.each_sig]  | simp [*])
                         clear_value x) | clear_value x)
    | (simp [*]; done)
    | intro _
    | split
    | rw [Mach.each_sig]
    | simp [*]

@[simp] theorem Mach.deallocZeros_sig (s n : Nat) (m : Mach) : (Mach.deallocZeros s n m).sig = m.sig := by
  induction n generalizing m with
  | zero => simp [Mach.deallocZeros]
  | succ n ih =>
    unfold Mach.deallocZeros
    dsimp only
    split
    · simp
    · split
      · simp
      · rw [ih]; simp

@[simp] theorem Mach.deallocWork_sig (s : Nat) (m : Mach) : (Mach.deallocWork s m).sig = m.sig := by
  unfold Mach.deallocWork
  dsimp only
  split <;> simp

@[simp] theorem Mach.deallocStart_sig (s : Nat) (m : Mach) : (Mach.deallocStart s m).sig = m.sig := by
  unfold Mach.deallocStart
  try lift_lets
  repeat' first
    | (intro x; first | (have hx : x.sig = m.sig := by
                            simp only [x]
                            repeat' (first | (simp [*]; done) | intro _ | split   | simp [*])
                         clear_value x) | clear_value x)
    | (simp [*]; done)
    | intro _
    | split
    | simp [*]

@[simp] theorem Mach.deallocRow_sig (s : Nat) (m : Mach) : (Mach.deallocRow s m).sig = m.sig := by
  simp [Mach.deallocRow]

@[simp] theorem Mach.wpOutcome_sig (o : Op) (m : Mach) : (Mach.wpOutcome o m).sig = m.sig := by
  unfold Mach.wpOutcome
  repeat' first
    | (simp [*]; done)
    | intro _
    | split
    | simp [*]

@[simp] theorem Mach.wpRefuse_sig (o : Op) (m : Mach) : (Mach.wpRefuse o m).sig = m.sig := by
  unfold Mach.wpRefuse
  try lift_lets
  repeat' first
    | (intro x; first | (have hx : x.sig = m.sig := by
                            simp only [x]
                            repeat' (first | (simp [*]; done) | intro _ | split   | simp [*])
                         clear_value x) | clear_value x)
    | (simp [*]; done)
    | intro _
    | split
    | simp [*]

@[simp] theorem Mach.fitStep_sig (o : Op) (m : Mach) : (Mach.fitStep o m).sig = m.sig := by
  unfold Mach.fitStep
  try lift_lets
  repeat' first
    | (intro x; first
      | (have hx : x.sig = m.sig := (by
        simp only [x]
        repeat' (first | (simp [*]; done) | intro _ | split | rw [Mach.each_sig] | simp [*])); clear_value x)
      | (have hx : x.1.sig = m.sig := (by
        simp only [x]
        repeat' (first | (simp [*]; done) | intro _ | split | rw [Mach.each_sig] | simp [*])); clear_value x)
      | clear_value x)
    | (simp [*]; done)
    | intro _
    | split
    | (have h2 := congrArg (fun p => p.1.sig) ‹_ = (_, _)›; simp at h2; simp [*]; done)
    | rw [Mach.each_sig]
    | simp [*]

@[simp] theorem Mach.dieIssued_sig (o : Op) (m : Mach) : (Mach.dieIssued o m).sig = m.sig := by
  unfold Mach.dieIssued
  try lift_lets
  repeat' first
    | (intro x; first | (have hx : x.sig = m.sig := by
                            simp only [x]
                            repeat' (first | (simp [*]; done) | intro _ | split   | simp [*])
                         clear_value x) | clear_value x)
    | (simp [*]; done)
    | intro _
    | split
    | simp [*]

@[simp] theorem Mach.turn_sig (o : Op) (m : Mach) : (Mach.turn o m).sig = m.sig := by
  simp [Mach.turn]

@[simp] theorem Mach.svcResume_sig (o : Op) (m : Mach) : (Mach.svcResume o m).sig = m.sig := by
  simp [Mach.svcResume]

@[simp] theorem Mach.issueOp_sig (o : Op) (m : Mach) : (Mach.issueOp o m).sig = m.sig := by
  simp [Mach.issueOp]

@[simp] theorem Mach.issueNext_sig (c : Chan) (m : Mach) : (Mach.issueNext c m).sig = m.sig := by
  unfold Mach.issueNext
  repeat' first
    | (simp [*]; done)
    | intro _
    | split
    | simp [*]

@[simp] theorem Mach.freeDie_sig (o : Op) (m : Mach) : (Mach.freeDie o m).sig = m.sig := by
  simp [Mach.freeDie]

@[simp] theorem Mach.svcComplete_sig (o : Op) (code : Nat) (x : Apt) (pass : Bool) (m : Mach) : (Mach.svcComplete o code x pass m).sig = m.sig := by
  unfold Mach.svcComplete
  try lift_lets
  repeat' first
    | (intro x; first | (have hx : x.sig = m.sig := by
                            simp only [x]
                            repeat' (first | (simp [*]; done) | intro _ | split   | simp [*])
                         clear_value x) | clear_value x)
    | (simp [*]; done)
    | intro _
    | split
    | simp [*]

@[simp] theorem Mach.opEnded_sig (o : Op) (r : OpOutcome) (cause : Nat) (m : Mach) : (Mach.opEnded o r cause m).sig = m.sig := by
  unfold Mach.opEnded
  try lift_lets
  repeat' first
    | (intro x; first | (have hx : x.sig = m.sig := by
                            simp only [x]
                            repeat' (first | (simp [*]; done) | intro _ | split   | simp [*])
                         clear_value x) | clear_value x)
    | (simp [*]; done)
    | intro _
    | split
    | simp [*]

@[simp] theorem Mach.completion_sig (c : Chan) (r : Row) (x : OpOutcome) (m : Mach) : (Mach.completion c r x m).sig = m.sig := by
  unfold Mach.completion
  repeat' first
    | (simp [*]; done)
    | intro _
    | split
    | simp [*]

@[simp] theorem Mach.timeoutOp_sig (c : Chan) (r : Row) (m : Mach) : (Mach.timeoutOp c r m).sig = m.sig := by
  unfold Mach.timeoutOp
  try lift_lets
  repeat' first
    | (intro x; first | (have hx : x.sig = m.sig := by
                            simp only [x]
                            repeat' (first | (simp [*]; done) | intro _ | split   | simp [*])
                         clear_value x) | clear_value x)
    | (simp [*]; done)
    | intro _
    | split
    | simp [*]

@[simp] theorem Mach.svcExpire_sig (c : Chan) (r : Row) (m : Mach) : (Mach.svcExpire c r m).sig = m.sig := by
  simp [Mach.svcExpire]

@[simp] theorem Mach.svcStallEnd_sig (c : Chan) (m : Mach) : (Mach.svcStallEnd c m).sig = m.sig := by
  unfold Mach.svcStallEnd
  repeat' first
    | (simp [*]; done)
    | intro _
    | split
    | simp [*]

@[simp] theorem Mach.schedSuspend_sig (c : Chan) (r : Row) (ended : Bool) (m : Mach) : (Mach.schedSuspend c r ended m).sig = m.sig := by
  unfold Mach.schedSuspend
  try lift_lets
  repeat' first
    | (intro x; first | (have hx : x.sig = m.sig := by
                            simp only [x]
                            repeat' (first | (simp [*]; done) | intro _ | split   | simp [*])
                         clear_value x) | clear_value x)
    | (simp [*]; done)
    | intro _
    | split
    | simp [*]

@[simp] theorem Mach.schedResume_sig (c : Chan) (r : Row) (m : Mach) : (Mach.schedResume c r m).sig = m.sig := by
  unfold Mach.schedResume
  try lift_lets
  repeat' first
    | (intro x; first | (have hx : x.sig = m.sig := by
                            simp only [x]
                            repeat' (first | (simp [*]; done) | intro _ | split   | simp [*])
                         clear_value x) | clear_value x)
    | (simp [*]; done)
    | intro _
    | split
    | simp [*]

@[simp] theorem Mach.poisonedWrite_sig (p : Port) (hpa : Nat) (e : MemErr) (m : Mach) : (Mach.poisonedWrite p hpa e m).sig = m.sig := by
  simp [Mach.poisonedWrite]

@[simp] theorem Mach.viralCut_sig (m : Mach) : (Mach.viralCut m).sig = m.sig := by
  unfold Mach.viralCut
  repeat' first
    | (simp [*]; done)
    | intro _
    | split
    | rw [Mach.each_sig]
    | simp [*]

@[simp] theorem Mach.viralReceived_sig (p : Port) (m : Mach) : (Mach.viralReceived p m).sig = m.sig := by
  simp [Mach.viralReceived]

@[simp] theorem Mach.gpf1_sig (p : Port) (m : Mach) : (Mach.gpf1 p m).sig = m.sig := by
  simp [Mach.gpf1]

@[simp] theorem Mach.gpf2_sig (p : Port) (m : Mach) : (Mach.gpf2 p m).sig = m.sig := by
  unfold Mach.gpf2
  try lift_lets
  repeat' first
    | (intro x; first | (have hx : x.sig = m.sig := by
                            simp only [x]
                            repeat' (first | (simp [*]; done) | intro _ | split   | simp [*])
                         clear_value x) | clear_value x)
    | (simp [*]; done)
    | intro _
    | split
    | simp [*]

@[simp] theorem Mach.setD3_sig (p : Port) (b : Bool) (m : Mach) : (Mach.setD3 p b m).sig = m.sig := by
  simp [Mach.setD3]

@[simp] theorem Mach.flitError_sig (p : Port) (m : Mach) : (Mach.flitError p m).sig = m.sig := by
  simp [Mach.flitError]

@[simp] theorem Mach.doeDiscovery_sig (p : Port) (i : Byte) (m : Mach) : (Mach.doeDiscovery p i m).sig = m.sig := by
  simp [Mach.doeDiscovery]

@[simp] theorem Mach.doeError_sig (p : Port) (m : Mach) : (Mach.doeError p m).sig = m.sig := by
  simp [Mach.doeError]

@[simp] theorem Mach.cdat_sig (p : Port) (h : Nat) (m : Mach) : (Mach.cdat p h m).sig = m.sig := by
  unfold Mach.cdat
  repeat' first
    | (simp [*]; done)
    | intro _
    | split
    | simp [*]

@[simp] theorem Mach.shaviPass_sig (n : Fin 8) (bytes : List Byte) (m : Mach) : (Mach.shaviPass n bytes m).sig = m.sig := by
  simp [Mach.shaviPass]

@[simp] theorem Mach.shavi_sig (p : Port) (req resp : List Byte) (m : Mach) : (Mach.shavi p req resp m).sig = m.sig := by
  simp [Mach.shavi]

@[simp] theorem Mach.getCertificate_sig (p : Port) (off len : Nat) (m : Mach) : (Mach.getCertificate p off len m).sig = m.sig := by
  simp [Mach.getCertificate]

@[simp] theorem Mach.signed_sig (p : Port) (req resp : List Byte) (m : Mach) : (Mach.signed p req resp m).sig = m.sig := by
  simp [Mach.signed]

@[simp] theorem Mach.challenge_sig (p : Port) (summary : Bool) (nonce : BitVec 384) (m : Mach) : (Mach.challenge p summary nonce m).sig = m.sig := by
  unfold Mach.challenge
  try lift_lets
  repeat' first
    | (intro x; first | (have hx : x.sig = m.sig := by
                            simp only [x]
                            repeat' (first | (simp [*]; done) | intro _ | split   | simp [*])
                         clear_value x) | clear_value x)
    | (simp [*]; done)
    | intro _
    | split
    | simp [*]

@[simp] theorem Mach.getMeasurements_sig (p : Port) (index : Byte) (sign : Bool) (nonce : BitVec 384) (m : Mach) : (Mach.getMeasurements p index sign nonce m).sig = m.sig := by
  unfold Mach.getMeasurements
  try lift_lets
  repeat' first
    | (intro x; first | (have hx : x.sig = m.sig := by
                            simp only [x]
                            repeat' (first | (simp [*]; done) | intro _ | split   | simp [*])
                         clear_value x) | clear_value x)
    | (simp [*]; done)
    | intro _
    | split
    | simp [*]

@[simp] theorem Mach.shaviBad_sig (p : Port) (code : Byte) (dwords : Nat) (lengthOk bodyOk : Bool) (m : Mach) : (Mach.shaviBad p code dwords lengthOk bodyOk m).sig = m.sig := by
  unfold Mach.shaviBad
  try lift_lets
  repeat' first
    | (intro x; first | (have hx : x.sig = m.sig := by
                            simp only [x]
                            repeat' (first | (simp [*]; done) | intro _ | split   | simp [*])
                         clear_value x) | clear_value x)
    | (simp [*]; done)
    | intro _
    | split
    | simp [*]

@[simp] theorem Mach.patrolScrub_sig (d : Fin 4) (b rank1 : Bool) (s : DramSyndrome) (u : DramUser) (passEnd : Bool) (m : Mach) : (Mach.patrolScrub d b rank1 s u passEnd m).sig = m.sig := by
  simp [Mach.patrolScrub]

@[simp] theorem Mach.caParity_sig (d : Fin 4) (replayOk : Bool) (m : Mach) : (Mach.caParity d replayOk m).sig = m.sig := by
  unfold Mach.caParity
  try lift_lets
  repeat' first
    | (intro x; first | (have hx : x.sig = m.sig := by
                            simp only [x]
                            repeat' (first | (simp [*]; done) | intro _ | split   | simp [*])
                         clear_value x) | clear_value x)
    | (simp [*]; done)
    | intro _
    | split
    | simp [*]

@[simp] theorem Mach.replayFail_sig (d : Fin 4) (m : Mach) : (Mach.replayFail d m).sig = m.sig := by
  simp [Mach.replayFail]

@[simp] theorem Mach.refreshBatch_sig (d : Fin 4) (mr4 : Nat) (low high : Bool) (m : Mach) : (Mach.refreshBatch d mr4 low high m).sig = m.sig := by
  simp [Mach.refreshBatch]

@[simp] theorem Mach.drgDecode_sig (a : Agent) (hi : Word) (m : Mach) : (Mach.drgDecode a hi m).sig = m.sig := by
  unfold Mach.drgDecode
  try lift_lets
  repeat' first
    | (intro x; first | (have hx : x.sig = m.sig := by
                            simp only [x]
                            repeat' (first | (simp [*]; done) | intro _ | split   | simp [*])
                         clear_value x) | clear_value x)
    | (simp [*]; done)
    | intro _
    | split
    | simp [*]

@[simp] theorem Mach.selectVictim_sig (m : Mach) : (Mach.selectVictim m).sig = m.sig := by
  unfold Mach.selectVictim
  repeat' first
    | (simp [*]; done)
    | intro _
    | split
    | simp [*]

@[simp] theorem Mach.scanMember_sig (c : Chan) (f : Nat) (m : Mach) : (Mach.scanMember c f m).1.sig = m.sig := by
  unfold Mach.scanMember
  try lift_lets
  repeat' first
    | (intro x; first
      | (have hx : x.sig = m.sig := (by
        simp only [x]
        repeat' (first | (simp [*]; done) | intro _ | split | rw [Mach.each_sig] | simp [*])); clear_value x)
      | (have hx : x.1.sig = m.sig := (by
        simp only [x]
        repeat' (first | (simp [*]; done) | intro _ | split | rw [Mach.each_sig] | simp [*])); clear_value x)
      | clear_value x)
    | (simp [*]; done)
    | intro _
    | split
    | (have h2 := congrArg (fun p => p.1.sig) ‹_ = (_, _)›; simp at h2; simp [*]; done)
    | rw [Mach.each_sig]
    | simp [*]

@[simp] theorem Mach.scanMembers_sig (f : Nat) (l : List Chan) (m : Mach) : (Mach.scanMembers f l m).1.sig = m.sig := by
  induction l generalizing m with
  | nil => rfl
  | cons c cs ih => simp [Mach.scanMembers, ih]

@[simp] theorem Mach.patrolScan_sig (f : Nat) (flagged passEnd : Bool) (m : Mach) : (Mach.patrolScan f flagged passEnd m).sig = m.sig := by
  unfold Mach.patrolScan
  dsimp only
  repeat' first | (simp; done) | split

@[simp] theorem Mach.disturbScan_sig (c : Chan) (r : Row) (b : Nat) (flagged : Bool) (m : Mach) : (Mach.disturbScan c r b flagged m).sig = m.sig := by
  unfold Mach.disturbScan
  try lift_lets
  repeat' first
    | (intro x; first | (have hx : x.sig = m.sig := by
                            simp only [x]
                            repeat' (first | (simp [*]; done) | intro _ | split   | simp [*])
                         clear_value x) | clear_value x)
    | (simp [*]; done)
    | intro _
    | split
    | simp [*]

@[simp] theorem Mach.dumpConsumed_sig (m : Mach) : (Mach.dumpConsumed m).sig = m.sig := by
  simp [Mach.dumpConsumed]

@[simp] theorem Mach.holdUpExpiry_sig (m : Mach) : (Mach.holdUpExpiry m).sig = m.sig := by
  simp [Mach.holdUpExpiry]

@[simp] theorem Mach.keyMail_sig (i : Instr) (p : Port) (len want : Nat) (f : Mach → Mach) (m : Mach) (h : (f m).sig = m.sig) :
    (Mach.keyMail i p len want f m).sig = m.sig := by
  unfold Mach.keyMail
  refine Mach.mail_sig (h := ?_) ..
  split
  · exact h
  · simp

@[simp] theorem Mach.getTransport_sig (p : Port) (m : Mach) : (Mach.getTransport p m).sig = m.sig := by
  unfold Mach.getTransport
  try lift_lets
  repeat' first
    | (intro x; first | (have hx : x.sig = m.sig := by
                            simp only [x]
                            repeat' (first | (simp [*]; done) | intro _ | split   | simp [*])
                         clear_value x) | clear_value x)
    | (simp [*]; done)
    | intro _
    | split
    | simp [*]

@[simp] theorem Mach.importRefused_sig (p : Port) (status : Nat) (m : Mach) : (Mach.importRefused p status m).sig = m.sig := by
  simp [Mach.importRefused]

@[simp] theorem Mach.importKey_sig (p : Port) (k : Nat) (key : BitVec 256) (m : Mach) : (Mach.importKey p k key m).sig = m.sig := by
  unfold Mach.importKey
  try lift_lets
  repeat' first
    | (intro x; first | (have hx : x.sig = m.sig := by
                            simp only [x]
                            repeat' (first | (simp [*]; done) | intro _ | split   | simp [*])
                         clear_value x) | clear_value x)
    | (simp [*]; done)
    | intro _
    | split
    | simp [*]

@[simp] theorem Mach.keyImport_sig (p : Port) (k : Nat) (point : BitVec 776) (wrapped : BitVec 320) (m : Mach) : (Mach.keyImport p k point wrapped m).sig = m.sig := by
  unfold Mach.keyImport
  try lift_lets
  repeat' first
    | (intro x; first | (have hx : x.sig = m.sig := by
                            simp only [x]
                            repeat' (first | (simp [*]; done) | intro _ | split   | simp [*])
                         clear_value x) | clear_value x)
    | (simp [*]; done)
    | intro _
    | split
    | simp [*]

@[simp] theorem Mach.rotateKey_sig (k : Nat) (m : Mach) : (Mach.rotateKey k m).sig = m.sig := by
  unfold Mach.rotateKey
  try lift_lets
  repeat' first
    | (intro x; first | (have hx : x.sig = m.sig := by
                            simp only [x]
                            repeat' (first | (simp [*]; done) | intro _ | split   | simp [*])
                         clear_value x) | clear_value x)
    | (simp [*]; done)
    | intro _
    | split
    | simp [*]

@[simp] theorem Mach.keyRotate_sig (p : Port) (k : Nat) (m : Mach) : (Mach.keyRotate p k m).sig = m.sig := by
  unfold Mach.keyRotate
  repeat' first
    | (simp [*]; done)
    | intro _
    | split
    | apply Mach.startBg_sig
    | simp [*]

@[simp] theorem Mach.keyRetire_sig (p : Port) (k : Nat) (m : Mach) : (Mach.keyRetire p k m).sig = m.sig := by
  simp [Mach.keyRetire]

@[simp] theorem Mach.failLb_sig (s off status : Nat) (m : Mach) : (Mach.failLb s off status m).sig = m.sig := by
  simp [Mach.failLb]

@[simp] theorem Mach.lightRefuse_sig (s status : Nat) (m : Mach) : (Mach.lightRefuse s status m).sig = m.sig := by
  unfold Mach.lightRefuse
  try lift_lets
  repeat' first
    | (intro x; first | (have hx : x.sig = m.sig := by
                            simp only [x]
                            repeat' (first | (simp [*]; done) | intro _ | split  | rw [Mach.when_sig] | simp [*])
                         clear_value x) | clear_value x)
    | (simp [*]; done)
    | intro _
    | split
    | rw [Mach.when_sig]
    | simp [*]

@[simp] theorem Mach.lightMark_sig (s off : Nat) (m : Mach) : (Mach.lightMark s off m).sig = m.sig := by
  unfold Mach.lightMark
  try lift_lets
  repeat' first
    | (intro x; first | (have hx : x.sig = m.sig := by
                            simp only [x]
                            repeat' (first | (simp [*]; done) | intro _ | split   | simp [*])
                         clear_value x) | clear_value x)
    | (simp [*]; done)
    | intro _
    | split
    | simp [*]

@[simp] theorem Mach.lightNo_sig (s off status : Nat) (m : Mach) : (Mach.lightNo s off status m).sig = m.sig := by
  simp [Mach.lightNo]

@[simp] theorem Mach.fillNow_sig (s off : Nat) (d : Block) (m : Mach) : (Mach.fillNow s off d m).sig = m.sig := by
  simp [Mach.fillNow]

@[simp] theorem Mach.lightRead_sig (s off : Nat) (m : Mach) : (Mach.lightRead s off m).sig = m.sig := by
  unfold Mach.lightRead
  extract_lets c v lba
  generalize m.storedSrc v lba = r
  cases r
  case version => rw [Mach.fillNow_sig]
  case zero => rw [Mach.fillNow_sig]
  case flash => rw [Mach.startRead_sig]
  case recovering => rw [Mach.lightNo_sig, Mach.badEntry_sig]
  all_goals rw [Mach.lightNo_sig]

@[simp] theorem Mach.lightStart_sig (s : Nat) (m : Mach) : (Mach.lightStart s m).sig = m.sig := by
  unfold Mach.lightStart
  try lift_lets
  repeat' first
    | (intro x; first | (have hx : x.sig = m.sig := by
                            simp only [x]
                            repeat' (first | (simp [*]; done) | intro _ | split | rw [Mach.each_sig]  | simp [*])
                         clear_value x) | clear_value x)
    | (simp [*]; done)
    | intro _
    | split
    | rw [Mach.each_sig]
    | simp [*]

@[simp] theorem Mach.lightFill_sig (x : Fill) (m : Mach) : (Mach.lightFill x m).sig = m.sig := by
  unfold Mach.lightFill
  dsimp only
  repeat' first
    | (simp; done)
    | split

@[simp] theorem Mach.lbFill_sig (task : Nat) (m : Mach) : (Mach.lbFill task m).sig = m.sig := by
  unfold Mach.lbFill
  repeat' first
    | (simp [*]; done)
    | intro _
    | split
    | simp [*]

@[simp] theorem Mach.dropTouches_sig (s : Nat) (m : Mach) : (Mach.dropTouches s m).sig = m.sig := by
  unfold Mach.dropTouches
  try lift_lets
  repeat' first
    | (intro x; first | (have hx : x.sig = m.sig := by
                            simp only [x]
                            repeat' (first | (simp [*]; done) | intro _ | split   | simp [*])
                         clear_value x) | clear_value x)
    | (simp [*]; done)
    | intro _
    | split
    | simp [*]

@[simp] theorem Mach.commit_sig (s : Nat) (m : Mach) : (Mach.commit s m).sig = m.sig := by
  simp [Mach.commit]

@[simp] theorem Mach.wipeTainted_sig (k : Nat) (m : Mach) : (Mach.wipeTainted k m).sig = m.sig := by
  unfold Mach.wipeTainted
  try lift_lets
  repeat' first
    | (intro x; first | (have hx : x.sig = m.sig := by
                            simp only [x]
                            repeat' (first | (simp [*]; done) | intro _ | split   | simp [*])
                         clear_value x) | clear_value x)
    | (simp [*]; done)
    | intro _
    | split
    | simp [*]

@[simp] theorem Mach.wbBegin_sig (s k p : Nat) (m : Mach) : (Mach.wbBegin s k p m).sig = m.sig := by
  simp [Mach.wbBegin]

@[simp] theorem Mach.wbRestore_sig (s off k p : Nat) (m : Mach) : (Mach.wbRestore s off k p m).sig = m.sig := by
  unfold Mach.wbRestore
  try lift_lets
  repeat' first
    | (intro x; first | (have hx : x.sig = m.sig := by
                            simp only [x]
                            repeat' (first | (simp [*]; done) | intro _ | split   | simp [*])
                         clear_value x) | clear_value x)
    | (simp [*]; done)
    | intro _
    | split
    | simp [*]

@[simp] theorem Mach.wbTainted_sig (s off k p : Nat) (m : Mach) : (Mach.wbTainted s off k p m).sig = m.sig := by
  unfold Mach.wbTainted
  try lift_lets
  repeat' first
    | (intro x; first
      | (have hx : x.sig = m.sig := (by
        simp only [x]
        repeat' (first | (simp [*]; done) | intro _ | split | rw [Mach.each_sig] | simp [*])); clear_value x)
      | (have hx : x.1.sig = m.sig := (by
        simp only [x]
        repeat' (first | (simp [*]; done) | intro _ | split | rw [Mach.each_sig] | simp [*])); clear_value x)
      | clear_value x)
    | (simp [*]; done)
    | intro _
    | split
    | (have h2 := congrArg (fun p => p.1.sig) ‹_ = (_, _)›; simp at h2; simp [*]; done)
    | rw [Mach.each_sig]
    | simp [*]

@[simp] theorem Mach.wbMirror_sig (s : Nat) (v : Vid) (lba : Nat) (d : Block) (m : Mach) : (Mach.wbMirror s v lba d m).sig = m.sig := by
  unfold Mach.wbMirror
  try lift_lets
  repeat' first
    | (intro x; first | (have hx : x.sig = m.sig := by
                            simp only [x]
                            repeat' (first | (simp [*]; done) | intro _ | split   | simp [*])
                         clear_value x) | clear_value x)
    | (simp [*]; done)
    | intro _
    | split
    | simp [*]

@[simp] theorem Mach.wbCopy_sig (s off k p : Nat) (m : Mach) : (Mach.wbCopy s off k p m).sig = m.sig := by
  unfold Mach.wbCopy
  try lift_lets
  repeat' first
    | (intro x; first | (have hx : x.sig = m.sig := by
                            simp only [x]
                            repeat' (first | (simp [*]; done) | intro _ | split   | simp [*])
                         clear_value x) | clear_value x)
    | (simp [*]; done)
    | intro _
    | split
    | simp [*]

@[simp] theorem Mach.wbPage_sig (s off k p : Nat) (m : Mach) : (Mach.wbPage s off k p m).sig = m.sig := by
  unfold Mach.wbPage
  try lift_lets
  repeat' first
    | (intro x; first | (have hx : x.sig = m.sig := by
                            simp only [x]
                            repeat' (first | (simp [*]; done) | intro _ | split   | simp [*])
                         clear_value x) | clear_value x)
    | (simp [*]; done)
    | intro _
    | split
    | simp [*]

@[simp] theorem Mach.wbLoop_sig (s n : Nat) (m : Mach) : (Mach.wbLoop s n m).sig = m.sig := by
  induction n generalizing m with
  | zero => simp [Mach.wbLoop]
  | succ n ih =>
    unfold Mach.wbLoop
    repeat' first
      | (simp [ih]; done)
      | split

@[simp] theorem Mach.wbWork_sig (s : Nat) (m : Mach) : (Mach.wbWork s m).sig = m.sig := by
  unfold Mach.wbWork
  dsimp only
  split <;> simp

@[simp] theorem Mach.wbStart_sig (s : Nat) (m : Mach) : (Mach.wbStart s m).sig = m.sig := by
  unfold Mach.wbStart
  try lift_lets
  repeat' first
    | (intro x; first | (have hx : x.sig = m.sig := by
                            simp only [x]
                            repeat' (first | (simp [*]; done) | intro _ | split   | simp [*])
                         clear_value x) | clear_value x)
    | (simp [*]; done)
    | intro _
    | split
    | simp [*]

@[simp] theorem Mach.wbRow_sig (s o : Nat) (lost : List DramUser) (m : Mach) : (Mach.wbRow s o lost m).sig = m.sig := by
  unfold Mach.wbRow
  try lift_lets
  repeat' first
    | (intro x; first
      | (have hx : x.sig = m.sig := (by
        simp only [x]
        repeat' (first | (simp [*]; done) | intro _ | split | rw [Mach.each_sig] | simp [*])); clear_value x)
      | (have hx : x.1.sig = m.sig := (by
        simp only [x]
        repeat' (first | (simp [*]; done) | intro _ | split | rw [Mach.each_sig] | simp [*])); clear_value x)
      | clear_value x)
    | (simp [*]; done)
    | intro _
    | split
    | (have h2 := congrArg (fun p => p.1.sig) ‹_ = (_, _)›; simp at h2; simp [*]; done)
    | rw [Mach.each_sig]
    | simp [*]

@[simp] theorem Mach.spareField_sig (d : Fin 4) (v sr : Nat) (m : Mach) : (Mach.spareField d v sr m).sig = m.sig := by
  simp [Mach.spareField]

@[simp] theorem Mach.writeSpare_sig (d : Fin 4) (v : Word) (m : Mach) : (Mach.writeSpare d v m).sig = m.sig := by
  unfold Mach.writeSpare
  try lift_lets
  repeat' first
    | (intro x; first | (have hx : x.sig = m.sig := by
                            simp only [x]
                            repeat' (first | (simp [*]; done) | intro _ | split | rw [Mach.each_sig]  | simp [*])
                         clear_value x) | clear_value x)
    | (simp [*]; done)
    | intro _
    | split
    | rw [Mach.each_sig]
    | simp [*]

@[simp] theorem Mach.rsStore_sig (key : Nat) (v : Word) (m : Mach) : (Mach.rsStore key v m).sig = m.sig := by
  unfold Mach.rsStore
  repeat' first
    | (simp [*]; done)
    | intro _
    | split
    | simp [*]

@[simp] theorem Mach.hold_sig (p : Page) (h : Bool) (m : Mach) : (Mach.hold p h m).sig = m.sig := by
  simp [Mach.hold]

@[simp] theorem Mach.changeRegs_sig (p : Page) (pairs : List (Nat × Word)) (m : Mach) : (Mach.changeRegs p pairs m).sig = m.sig := by
  unfold Mach.changeRegs
  repeat' first
    | (simp [*]; done)
    | intro _
    | split
    | rw [Mach.each_sig]
    | simp [*]

@[simp] theorem Mach.svcPoll_sig (m : Mach) : (Mach.svcPoll m).sig = m.sig := by
  unfold Mach.svcPoll
  repeat' first
    | (simp [*]; done)
    | intro _
    | split
    | simp [*]

@[simp] theorem Mach.service_sig (p : Port) (op : BgOp) (f : Mach → Mach) (m : Mach) (h : ∀ m : Mach, (f m).sig = m.sig) :
    (Mach.service p op f m).sig = m.sig := by
  unfold Mach.service
  repeat' first
    | (simp; done)
    | (rw [Mach.startBg_sig]; exact h)
    | split

@[simp] theorem Mach.powerOff_sig (m : Mach) : (Mach.powerOff m).sig = m.sig := by
  simp [Mach.powerOff]

@[simp] theorem Mach.linksDown_sig (m : Mach) : (Mach.linksDown m).sig = m.sig := by
  unfold Mach.linksDown
  dsimp only
  repeat' first | (simp; done) | split

@[simp] theorem Mach.beginStop_sig (m : Mach) : (Mach.beginStop m).sig = m.sig := by
  unfold Mach.beginStop
  try lift_lets
  repeat' first
    | (intro x; first | (have hx : x.sig = m.sig := by
                            simp only [x]
                            repeat' (first | (simp [*]; done) | intro _ | split | rw [Mach.each_sig]  | simp [*])
                         clear_value x) | clear_value x)
    | (simp [*]; done)
    | intro _
    | split
    | rw [Mach.each_sig]
    | simp [*]

@[simp] theorem Mach.resetRequest_sig (cause : Nat) (w : DumpFor) (m : Mach) : (Mach.resetRequest cause w m).sig = m.sig := by
  unfold Mach.resetRequest
  split
  · have h : ∀ m : Mach, (m.updDev fun d => { d with resetHeld := true }).sig = m.sig := fun m => Mach.updDev_sig _ _ (by dsimp only)
    rw [h, Mach.startDump_sig, Mach.beginStop_sig, Mach.linksDown_sig]
  · split
    · rw [Mach.bootGo_sig, Mach.deviceReset_sig]
    · simp

@[simp] theorem Mach.smbusRequest_sig (ok : Bool) (f : Mach → Mach) (m : Mach) (h : (f m).sig = m.sig) :
    (Mach.smbusRequest ok f m).sig = m.sig := by
  unfold Mach.smbusRequest
  split
  · simp
  · exact h

@[simp] theorem Mach.orderlyRequest_sig (m : Mach) : (Mach.orderlyRequest m).sig = m.sig := by
  simp [Mach.orderlyRequest]

@[simp] theorem Mach.smbusWindow_sig (m : Mach) : (Mach.smbusWindow m).sig = m.sig := by
  simp [Mach.smbusWindow]

@[simp] theorem Mach.pffRestart_sig (n : Fin 8) (m : Mach) : (Mach.pffRestart n m).sig = m.sig := by
  simp [Mach.pffRestart]

@[simp] theorem Mach.abandonBg_sig (m : Mach) : (Mach.abandonBg m).sig = m.sig := by
  simp [Mach.abandonBg]

@[simp] theorem Mach.forgetMail_sig (p : Port) (m : Mach) : (Mach.forgetMail p m).sig = m.sig := by
  unfold Mach.forgetMail
  try lift_lets
  repeat' first
    | (intro x; first
      | (have hx : x.sig = m.sig := (by
        simp only [x]
        repeat' (first | (simp [*]; done) | intro _ | split | rw [Mach.each_sig] | simp [*])); clear_value x)
      | (have hx : x.1.sig = m.sig := (by
        simp only [x]
        repeat' (first | (simp [*]; done) | intro _ | split | rw [Mach.each_sig] | simp [*])); clear_value x)
      | clear_value x)
    | (simp [*]; done)
    | intro _
    | split
    | (have h2 := congrArg (fun p => p.1.sig) ‹_ = (_, _)›; simp at h2; simp [*]; done)
    | rw [Mach.each_sig]
    | simp [*]

@[simp] theorem Mach.watchdog_sig (m : Mach) : (Mach.watchdog m).sig = m.sig := by
  unfold Mach.watchdog
  try lift_lets
  repeat' first
    | (intro x; first | (have hx : x.sig = m.sig := by
                            simp only [x]
                            repeat' (first | (simp [*]; done) | intro _ | split | rw [Mach.each_sig]  | simp [*])
                         clear_value x) | clear_value x)
    | (simp [*]; done)
    | intro _
    | split
    | rw [Mach.each_sig]
    | simp [*]

@[simp] theorem Mach.wdogWrite_sig (a : Agent) (v : Word) (m : Mach) : (Mach.wdogWrite a v m).sig = m.sig := by
  simp [Mach.wdogWrite]

@[simp] theorem Mach.reerase_sig (c : Chan) (r : Row) (b : Nat) (m : Mach) : (Mach.reerase c r b m).sig = m.sig := by
  unfold Mach.reerase
  try lift_lets
  repeat' first
    | (intro x; first | (have hx : x.sig = m.sig := by
                            simp only [x]
                            repeat' (first | (simp [*]; done) | intro _ | split   | simp [*])
                         clear_value x) | clear_value x)
    | (simp [*]; done)
    | intro _
    | split
    | simp [*]

@[simp] theorem Mach.shutdownRequest_sig (m : Mach) : (Mach.shutdownRequest m).sig = m.sig := by
  simp [Mach.shutdownRequest]

@[simp] theorem Mach.portCause_sig (p : Port) (m : Mach) : (Mach.portCause p m).sig = m.sig := by
  simp [Mach.portCause]

@[simp] theorem Mach.perstAssert_sig (p : Port) (m : Mach) : (Mach.perstAssert p m).sig = m.sig := by
  simp [Mach.perstAssert]

@[simp] theorem Mach.perstDeassert_sig (p : Port) (m : Mach) : (Mach.perstDeassert p m).sig = m.sig := by
  simp [Mach.perstDeassert]

@[simp] theorem Mach.hotReset_sig (p : Port) (m : Mach) : (Mach.hotReset p m).sig = m.sig := by
  simp [Mach.hotReset]

@[simp] theorem Mach.linkUp_sig (p : Port) (width speed : Nat) (cxl rev : Bool) (m : Mach) : (Mach.linkUp p width speed cxl rev m).sig = m.sig := by
  unfold Mach.linkUp
  try lift_lets
  repeat' first
    | (intro x; first | (have hx : x.sig = m.sig := by
                            simp only [x]
                            repeat' (first | (simp [*]; done) | intro _ | split   | simp [*])
                         clear_value x) | clear_value x)
    | (simp [*]; done)
    | intro _
    | split
    | simp [*]

@[simp] theorem Mach.linkDown_sig (p : Port) (m : Mach) : (Mach.linkDown p m).sig = m.sig := by
  unfold Mach.linkDown
  try lift_lets
  repeat' first
    | (intro x; first | (have hx : x.sig = m.sig := by
                            simp only [x]
                            repeat' (first | (simp [*]; done) | intro _ | split   | simp [*])
                         clear_value x) | clear_value x)
    | (simp [*]; done)
    | intro _
    | split
    | simp [*]

@[simp] theorem Mach.pfailAssert_sig (m : Mach) : (Mach.pfailAssert m).sig = m.sig := by
  simp [Mach.pfailAssert]

@[simp] theorem Mach.pfRestart_sig (m : Mach) : (Mach.pfRestart m).sig = m.sig := by
  simp [Mach.pfRestart]

@[simp] theorem Mach.programsEnd_sig (m : Mach) : (Mach.programsEnd m).sig = m.sig := by
  unfold Mach.programsEnd
  try lift_lets
  repeat' first
    | (intro x; first | (have hx : x.sig = m.sig := by
                            simp only [x]
                            repeat' (first | (simp [*]; done) | intro _ | split   | simp [*])
                         clear_value x) | clear_value x)
    | (simp [*]; done)
    | intro _
    | split
    | simp [*]

@[simp] theorem Mach.dumpEnd_sig (complete : Bool) (m : Mach) : (Mach.dumpEnd complete m).sig = m.sig := by
  simp [Mach.dumpEnd]

@[simp] theorem Mach.convert_sig (mask : BitVec 16) (m : Mach) : (Mach.convert mask m).sig = m.sig := by
  unfold Mach.convert
  repeat' first
    | (simp [*]; done)
    | intro _
    | split
    | rw [Mach.each_sig]
    | simp [*]

@[simp] theorem Mach.thmSample_sig (a : Agent) (mask : BitVec 16) (m : Mach) : (Mach.thmSample a mask m).sig = m.sig := by
  simp [Mach.thmSample]

@[simp] theorem Mach.thermalTask_sig (dies : List Int) (m : Mach) : (Mach.thermalTask dies m).sig = m.sig := by
  unfold Mach.thermalTask
  try lift_lets
  repeat' first
    | (intro x; first | (have hx : x.sig = m.sig := by
                            simp only [x]
                            repeat' (first | (simp [*]; done) | intro _ | split | rw [Mach.each_sig]  | simp [*])
                         clear_value x) | clear_value x)
    | (simp [*]; done)
    | intro _
    | split
    | rw [Mach.each_sig]
    | simp [*]

@[simp] theorem Mach.holdAgain_sig (stamp : BitVec 48) (m : Mach) : (Mach.holdAgain stamp m).sig = m.sig := by
  simp [Mach.holdAgain]

@[simp] theorem Mach.undoUp_sig (batch : Nat) (m : Mach) : (Mach.undoUp batch m).sig = m.sig := by
  unfold Mach.undoUp
  try lift_lets
  repeat' first
    | (intro x; first
      | (have hx : x.sig = m.sig := (by
        simp only [x]
        repeat' (first | (simp [*]; done) | intro _ | split | rw [Mach.each_sig] | simp [*])); clear_value x)
      | (have hx : x.1.sig = m.sig := (by
        simp only [x]
        repeat' (first | (simp [*]; done) | intro _ | split | rw [Mach.each_sig] | simp [*])); clear_value x)
      | clear_value x)
    | (simp [*]; done)
    | intro _
    | split
    | (have h2 := congrArg (fun p => p.1.sig) ‹_ = (_, _)›; simp at h2; simp [*]; done)
    | rw [Mach.each_sig]
    | simp [*]

@[simp] theorem Mach.stepDown_sig (stamp : BitVec 48) (batch : Nat) (m : Mach) : (Mach.stepDown stamp batch m).sig = m.sig := by
  unfold Mach.stepDown
  try lift_lets
  repeat' first
    | (intro x; first
      | (have hx : x.sig = m.sig := (by
        simp only [x]
        repeat' (first | (simp [*]; done) | intro _ | split | rw [Mach.each_sig] | simp [*])); clear_value x)
      | (have hx : x.1.sig = m.sig := (by
        simp only [x]
        repeat' (first | (simp [*]; done) | intro _ | split | rw [Mach.each_sig] | simp [*])); clear_value x)
      | clear_value x)
    | (simp [*]; done)
    | intro _
    | split
    | (have h2 := congrArg (fun p => p.1.sig) ‹_ = (_, _)›; simp at h2; simp [*]; done)
    | rw [Mach.each_sig]
    | simp [*]

@[simp] theorem Mach.snuff_sig (rate : Int) (stamp : BitVec 48) (batch : Nat) (m : Mach) : (Mach.snuff rate stamp batch m).sig = m.sig := by
  unfold Mach.snuff
  try lift_lets
  repeat' first
    | (intro x; first
      | (have hx : x.sig = m.sig := (by
        simp only [x]
        repeat' (first | (simp [*]; done) | intro _ | split | rw [Mach.each_sig] | simp [*])); clear_value x)
      | (have hx : x.1.sig = m.sig := (by
        simp only [x]
        repeat' (first | (simp [*]; done) | intro _ | split | rw [Mach.each_sig] | simp [*])); clear_value x)
      | clear_value x)
    | (simp [*]; done)
    | intro _
    | split
    | (have h2 := congrArg (fun p => p.1.sig) ‹_ = (_, _)›; simp at h2; simp [*]; done)
    | rw [Mach.each_sig]
    | simp [*]

@[simp] theorem Mach.thmRate_sig (i : Nat) (t : Int) (stamp : BitVec 48) (m : Mach) : (Mach.thmRate i t stamp m).sig = m.sig := by
  unfold Mach.thmRate
  try lift_lets
  repeat' first
    | (intro x; first | (have hx : x.sig = m.sig := by
                            simp only [x]
                            repeat' (first | (simp [*]; done) | intro _ | split   | simp [*])
                         clear_value x) | clear_value x)
    | (simp [*]; done)
    | intro _
    | split
    | simp [*]

@[simp] theorem Mach.conversionEnd_sig (i : Nat) (t : Int) (stamp : BitVec 48) (m : Mach) : (Mach.conversionEnd i t stamp m).sig = m.sig := by
  unfold Mach.conversionEnd
  try lift_lets
  repeat' first
    | (intro x; first | (have hx : x.sig = m.sig := by
                            simp only [x]
                            repeat' (first | (simp [*]; done) | intro _ | split   | simp [*])
                         clear_value x) | clear_value x)
    | (simp [*]; done)
    | intro _
    | split
    | simp [*]

@[simp] theorem Mach.snfCeil_sig (a : Agent) (level : BitVec 4) (m : Mach) : (Mach.snfCeil a level m).sig = m.sig := by
  unfold Mach.snfCeil
  try lift_lets
  repeat' first
    | (intro x; first | (have hx : x.sig = m.sig := by
                            simp only [x]
                            repeat' (first | (simp [*]; done) | intro _ | split   | simp [*])
                         clear_value x) | clear_value x)
    | (simp [*]; done)
    | intro _
    | split
    | simp [*]

@[simp] theorem Mach.junctionTrip_sig (m : Mach) : (Mach.junctionTrip m).sig = m.sig := by
  unfold Mach.junctionTrip
  dsimp only
  split
  · rfl
  · have h : ∀ m : Mach, (m.updAdm fun a => { a with health := { a.health with tripSeen := true } }).sig = m.sig :=
      fun m => Mach.updAdm_sig _ _ (by dsimp only)
    rw [Mach.raise_sig, h, Mach.bump_sig, Mach.each_sig, Mach.updThm_sig, Mach.updFl_sig]
    intro c m
    exact Mach.suspendChan_sig ..

@[simp] theorem Mach.tripClear_sig (m : Mach) : (Mach.tripClear m).sig = m.sig := by
  unfold Mach.tripClear
  try lift_lets
  repeat' first
    | (intro x; first | (have hx : x.sig = m.sig := by
                            simp only [x]
                            repeat' (first | (simp [*]; done) | intro _ | split   | simp [*])
                         clear_value x) | clear_value x)
    | (simp [*]; done)
    | intro _
    | split
    | simp [*]

@[simp] theorem Mach.domRefuse_sig (d cause : Nat) (m : Mach) : (Mach.domRefuse d cause m).sig = m.sig := by
  simp [Mach.domRefuse]

@[simp] theorem Mach.domainLoses_sig (d : Nat) (m : Mach) : (Mach.domainLoses d m).sig = m.sig := by
  unfold Mach.domainLoses
  try lift_lets
  repeat' first
    | (intro x; first | (have hx : x.sig = m.sig := by
                            simp only [x]
                            repeat' (first | (simp [*]; done) | intro _ | split | rw [Mach.each_sig]  | simp [*])
                         clear_value x) | clear_value x)
    | (simp [*]; done)
    | intro _
    | split
    | rw [Mach.each_sig]
    | simp [*]

@[simp] theorem Mach.reinit_sig (p : Page) (m : Mach) : (Mach.reinit p m).sig = m.sig := by
  unfold Mach.reinit
  repeat' first
    | (simp [*]; done)
    | intro _
    | split
    | simp [*]

@[simp] theorem Mach.clearFault_sig (p : Page) (m : Mach) : (Mach.clearFault p m).sig = m.sig := by
  simp [Mach.clearFault]

@[simp] theorem Mach.domOff_sig (a : Agent) (d : Nat) (m : Mach) : (Mach.domOff a d m).sig = m.sig := by
  unfold Mach.domOff
  try lift_lets
  repeat' first
    | (intro x; first | (have hx : x.sig = m.sig := by
                            simp only [x]
                            repeat' (first | (simp [*]; done) | intro _ | split | rw [Mach.each_sig]  | simp [*])
                         clear_value x) | clear_value x)
    | (simp [*]; done)
    | intro _
    | split
    | rw [Mach.each_sig]
    | simp [*]

@[simp] theorem Mach.domOn_sig (a : Agent) (d : Nat) (m : Mach) : (Mach.domOn a d m).sig = m.sig := by
  unfold Mach.domOn
  repeat' first
    | (simp [*]; done)
    | intro _
    | split
    | simp [*]

@[simp] theorem Mach.setLock_sig (p : Pll) (on : Bool) (m : Mach) : (Mach.setLock p on m).sig = m.sig := by
  unfold Mach.setLock
  repeat' first
    | (simp [*]; done)
    | intro _
    | split
    | simp [*]

@[simp] theorem Mach.pllLoss_sig (p : Pll) (m : Mach) : (Mach.pllLoss p m).sig = m.sig := by
  unfold Mach.pllLoss
  try lift_lets
  repeat' first
    | (intro x; first | (have hx : x.sig = m.sig := by
                            simp only [x]
                            repeat' (first | (simp [*]; done) | intro _ | split | rw [Mach.each_sig]  | simp [*])
                         clear_value x) | clear_value x)
    | (simp [*]; done)
    | intro _
    | split
    | rw [Mach.each_sig]
    | simp [*]

@[simp] theorem Mach.pffBy_sig (src : Source) (n : Fin 8) (f : Mach → Mach) (m : Mach) (h : (f m).sig = m.sig) :
    (Mach.pffBy src n f m).sig = m.sig := by
  unfold Mach.pffBy
  repeat' first
    | exact h
    | (simp; done)
    | split

@[simp] theorem Mach.pffEnd_sig (n : Fin 8) (m : Mach) : (Mach.pffEnd n m).sig = m.sig := by
  simp [Mach.pffEnd]

@[simp] theorem Mach.pffDropBy_sig (a : Agent) (n : Fin 8) (m : Mach) : (Mach.pffDropBy a n m).sig = m.sig := by
  simp [Mach.pffDropBy]

@[simp] theorem Mach.pffDataRead_sig (a : Agent) (n : Fin 8) (width : Nat) (m : Mach) : (Mach.pffDataRead a n width m).sig = m.sig := by
  simp [Mach.pffDataRead]

@[simp] theorem Mach.pffStallEnd_sig (n : Fin 8) (m : Mach) : (Mach.pffStallEnd n m).sig = m.sig := by
  simp [Mach.pffStallEnd]

@[simp] theorem Mach.badDoorbell_sig (a : Agent) (q : Fin 256) (cq : Bool) (m : Mach) : (Mach.badDoorbell a q cq m).sig = m.sig := by
  unfold Mach.badDoorbell
  try lift_lets
  repeat' first
    | (intro x; first | (have hx : x.sig = m.sig := by
                            simp only [x]
                            repeat' (first | (simp [*]; done) | intro _ | split   | simp [*])
                         clear_value x) | clear_value x)
    | (simp [*]; done)
    | intro _
    | split
    | simp [*]

@[simp] theorem Mach.tailDoorbell_sig (a : Agent) (q : Fin 256) (v : Word) (m : Mach) : (Mach.tailDoorbell a q v m).sig = m.sig := by
  unfold Mach.tailDoorbell
  try lift_lets
  repeat' first
    | (intro x; first | (have hx : x.sig = m.sig := by
                            simp only [x]
                            repeat' (first | (simp [*]; done) | intro _ | split   | simp [*])
                         clear_value x) | clear_value x)
    | (simp [*]; done)
    | intro _
    | split
    | simp [*]

@[simp] theorem Mach.headDoorbell_sig (a : Agent) (q : Fin 256) (v : Word) (m : Mach) : (Mach.headDoorbell a q v m).sig = m.sig := by
  unfold Mach.headDoorbell
  try lift_lets
  repeat' first
    | (intro x; first | (have hx : x.sig = m.sig := by
                            simp only [x]
                            repeat' (first | (simp [*]; done) | intro _ | split   | simp [*])
                         clear_value x) | clear_value x)
    | (simp [*]; done)
    | intro _
    | split
    | simp [*]

@[simp] theorem Mach.fetchSlots_sig (q : Fin 256) (n i : Nat) (m : Mach) : (Mach.fetchSlots q n i m).1.sig = m.sig := by
  induction n generalizing m i with
  | zero => simp [Mach.fetchSlots]
  | succ n ih => simp [Mach.fetchSlots, ih]

@[simp] theorem Mach.fetchRead_sig (q : Fin 256) (group entry : Nat) (slots : List Nat) (m : Mach) : (Mach.fetchRead q group entry slots m).sig = m.sig := by
  unfold Mach.fetchRead
  try lift_lets
  repeat' first
    | (intro x; first | (have hx : x.sig = m.sig := by
                            simp only [x]
                            repeat' (first | (simp [*]; done) | intro _ | split   | simp [*])
                         clear_value x) | clear_value x)
    | (simp [*]; done)
    | intro _
    | split
    | simp [*]

@[simp] theorem Mach.issueFetch_sig (q : Fin 256) (k : Nat) (m : Mach) : (Mach.issueFetch q k m).sig = m.sig := by
  unfold Mach.issueFetch
  simp

@[simp] theorem Mach.setCredit_sig (l : List Int) (m : Mach) : (Mach.setCredit l m).sig = m.sig := by
  simp [Mach.setCredit]

@[simp] theorem Mach.arbStep_sig (n : Nat) (m : Mach) : (Mach.arbStep n m).sig = m.sig := by
  induction n generalizing m with
  | zero => simp [Mach.arbStep]
  | succ n ih =>
    unfold Mach.arbStep
    dsimp only
    split
    · simp
    · rw [ih]; split <;> simp

@[simp] theorem Mach.arbitrate_sig (m : Mach) : (Mach.arbitrate m).sig = m.sig := by
  unfold Mach.arbitrate
  repeat' first
    | (simp; done)
    | split

@[simp] theorem Mach.storeEntries_sig (l : List Nat) (es : List Entry) (m : Mach) : (Mach.storeEntries l es m).sig = m.sig := by
  induction l generalizing es m with
  | nil => simp [Mach.storeEntries]
  | cons s l ih =>
    cases es with
    | nil => simp [Mach.storeEntries]
    | cons e es => simp [Mach.storeEntries, ih]

@[simp] theorem Mach.groupBack_sig (g : Nat) (m : Mach) : (Mach.groupBack g m).sig = m.sig := by
  unfold Mach.groupBack
  try lift_lets
  repeat' first
    | (intro x; first | (have hx : x.sig = m.sig := by
                            simp only [x]
                            repeat' (first | (simp [*]; done) | intro _ | split | rw [Mach.each_sig]  | simp [*])
                         clear_value x) | clear_value x)
    | (simp [*]; done)
    | intro _
    | split
    | rw [Mach.each_sig]
    | simp [*]

@[simp] theorem Mach.fetchReturn_sig (id : Nat) (es : List Entry) (m : Mach) : (Mach.fetchReturn id es m).sig = m.sig := by
  unfold Mach.fetchReturn
  dsimp only
  repeat' first
    | (simp; done)
    | split

@[simp] theorem Mach.discardFetches_sig (p : FetchRd → Bool) (m : Mach) : (Mach.discardFetches p m).sig = m.sig := by
  unfold Mach.discardFetches
  try lift_lets
  repeat' first
    | (intro x; first | (have hx : x.sig = m.sig := by
                            simp only [x]
                            repeat' (first | (simp [*]; done) | intro _ | split | rw [Mach.each_sig]  | simp [*])
                         clear_value x) | clear_value x)
    | (simp [*]; done)
    | intro _
    | split
    | rw [Mach.each_sig]
    | simp [*]

@[simp] theorem Mach.fetchFailure_sig (id : Nat) (m : Mach) : (Mach.fetchFailure id m).sig = m.sig := by
  unfold Mach.fetchFailure
  try lift_lets
  repeat' first
    | (intro x; first | (have hx : x.sig = m.sig := by
                            simp only [x]
                            repeat' (first | (simp [*]; done) | intro _ | split   | simp [*])
                         clear_value x) | clear_value x)
    | (simp [*]; done)
    | intro _
    | split
    | simp [*]

@[simp] theorem Mach.queueCreate_sig (p : Port) (q : Fin 256) (depth cls : Nat) (crc : Bool) (sq cq : Nat) (m : Mach) : (Mach.queueCreate p q depth cls crc sq cq m).sig = m.sig := by
  unfold Mach.queueCreate
  repeat' first
    | (simp [*]; done)
    | intro _
    | split
    | simp [*]

@[simp] theorem Mach.queueDelete_sig (p : Port) (q : Fin 256) (m : Mach) : (Mach.queueDelete p q m).sig = m.sig := by
  unfold Mach.queueDelete
  try lift_lets
  repeat' first
    | (intro x; first | (have hx : x.sig = m.sig := by
                            simp only [x]
                            repeat' (first | (simp [*]; done) | intro _ | split | rw [Mach.each_sig]  | simp [*])
                         clear_value x) | clear_value x)
    | (simp [*]; done)
    | intro _
    | split
    | rw [Mach.each_sig]
    | simp [*]

@[simp] theorem Mach.deleteEnd_sig (q : Fin 256) (m : Mach) : (Mach.deleteEnd q m).sig = m.sig := by
  unfold Mach.deleteEnd
  try lift_lets
  repeat' first
    | (intro x; first | (have hx : x.sig = m.sig := by
                            simp only [x]
                            repeat' (first | (simp [*]; done) | intro _ | split   | simp [*])
                         clear_value x) | clear_value x)
    | (simp [*]; done)
    | intro _
    | split
    | simp [*]

@[simp] theorem Mach.abortAsk_sig (p : Port) (tag : BitVec 12) (m : Mach) : (Mach.abortAsk p tag m).sig = m.sig := by
  simp [Mach.abortAsk]

@[simp] theorem Mach.abortDecide_sig (m : Mach) : (Mach.abortDecide m).sig = m.sig := by
  unfold Mach.abortDecide
  try lift_lets
  repeat' first
    | (intro x; first | (have hx : x.sig = m.sig := by
                            simp only [x]
                            repeat' (first | (simp [*]; done) | intro _ | split   | simp [*])
                         clear_value x) | clear_value x)
    | (simp [*]; done)
    | intro _
    | split
    | simp [*]

@[simp] theorem Mach.define_sig (p : Port) (k : Nat) (lot : Bool) (v : Vid) (base size : Nat) (m : Mach) : (Mach.define p k lot v base size m).sig = m.sig := by
  unfold Mach.define
  repeat' first
    | (simp [*]; done)
    | intro _
    | split
    | simp [*]

@[simp] theorem Mach.delete_sig (p : Port) (k : Nat) (m : Mach) : (Mach.delete p k m).sig = m.sig := by
  simp [Mach.delete]

@[simp] theorem Mach.setLot_sig (p : Port) (k : Nat) (lot : Bool) (m : Mach) : (Mach.setLot p k lot m).sig = m.sig := by
  simp [Mach.setLot]

@[simp] theorem Mach.ownCommand_sig (kind : CmdKind) (e : Entry) (todo : List Nat) (m : Mach) : (Mach.ownCommand kind e todo m).sig = m.sig := by
  simp [Mach.ownCommand]

@[simp] theorem Mach.touchRun_sig (m : Mach) : (Mach.touchRun m).sig = m.sig := by
  unfold Mach.touchRun
  try lift_lets
  repeat' first
    | (intro x; first | (have hx : x.sig = m.sig := by
                            simp only [x]
                            repeat' (first | (simp [*]; done) | intro _ | split   | simp [*])
                         clear_value x) | clear_value x)
    | (simp [*]; done)
    | intro _
    | split
    | simp [*]

@[simp] theorem Mach.autoWb_sig (m : Mach) : (Mach.autoWb m).sig = m.sig := by
  unfold Mach.autoWb
  try lift_lets
  repeat' first
    | (intro x; first | (have hx : x.sig = m.sig := by
                            simp only [x]
                            repeat' (first | (simp [*]; done) | intro _ | split   | simp [*])
                         clear_value x) | clear_value x)
    | (simp [*]; done)
    | intro _
    | split
    | simp [*]

@[simp] theorem Mach.lntWritten_sig (i : Nat) (m : Mach) : (Mach.lntWritten i m).sig = m.sig := by
  unfold Mach.lntWritten
  try lift_lets
  repeat' first
    | (intro x; first | (have hx : x.sig = m.sig := by
                            simp only [x]
                            repeat' (first | (simp [*]; done) | intro _ | split   | simp [*])
                         clear_value x) | clear_value x)
    | (simp [*]; done)
    | intro _
    | split
    | simp [*]

@[simp] theorem Mach.lntOff_sig (i : Nat) (m : Mach) : (Mach.lntOff i m).sig = m.sig := by
  simp [Mach.lntOff]

@[simp] theorem Mach.lntEnable_sig (en : Bool) (m : Mach) : (Mach.lntEnable en m).sig = m.sig := by
  unfold Mach.lntEnable
  repeat' first
    | (simp [*]; done)
    | intro _
    | split
    | simp [*]

@[simp] theorem Mach.lntCtrl_sig (a : Agent) (en : Bool) (m : Mach) : (Mach.lntCtrl a en m).sig = m.sig := by
  simp [Mach.lntCtrl]

@[simp] theorem Mach.twinUp_sig (x4 rate16 : Bool) (m : Mach) : (Mach.twinUp x4 rate16 m).sig = m.sig := by
  simp [Mach.twinUp]

@[simp] theorem Mach.alignmentLost_sig (m : Mach) : (Mach.alignmentLost m).sig = m.sig := by
  simp [Mach.alignmentLost]

@[simp] theorem Mach.twnNak_sig (m : Mach) : (Mach.twnNak m).sig = m.sig := by
  simp [Mach.twnNak]

@[simp] theorem Mach.crcFailed_sig (sequenced : Bool) (m : Mach) : (Mach.crcFailed sequenced m).sig = m.sig := by
  unfold Mach.crcFailed
  repeat' first
    | (simp [*]; done)
    | intro _
    | split
    | rw [Mach.when_sig]
    | simp [*]

@[simp] theorem Mach.rxPlain_sig (h : FrameHdr) (f : Mach → Mach) (m : Mach) (hf : ∀ m : Mach, (f m).sig = m.sig) :
    (Mach.rxPlain h f m).sig = m.sig := by
  unfold Mach.rxPlain
  split
  · rw [hf]; simp
  · rfl

@[simp] theorem Mach.rxSeq_sig (h : FrameHdr) (f : Mach → Mach) (m : Mach) (hf : ∀ m : Mach, (f m).sig = m.sig) :
    (Mach.rxSeq h f m).sig = m.sig := by
  unfold Mach.rxSeq
  apply Mach.rxPlain_sig
  intro m
  dsimp only
  repeat' first
    | (rw [hf]; simp; done)
    | (simp; done)
    | split

@[simp] theorem Mach.serialMismatch_sig (m : Mach) : (Mach.serialMismatch m).sig = m.sig := by
  unfold Mach.serialMismatch
  try lift_lets
  repeat' first
    | (intro x; first | (have hx : x.sig = m.sig := by
                            simp only [x]
                            repeat' (first | (simp [*]; done) | intro _ | split   | simp [*])
                         clear_value x) | clear_value x)
    | (simp [*]; done)
    | intro _
    | split
    | simp [*]

@[simp] theorem Mach.heartbeatIn_sig (serial : BitVec 160) (stamp echo now : Word) (m : Mach) : (Mach.heartbeatIn serial stamp echo now m).sig = m.sig := by
  unfold Mach.heartbeatIn
  try lift_lets
  repeat' first
    | (intro x; first | (have hx : x.sig = m.sig := by
                            simp only [x]
                            repeat' (first | (simp [*]; done) | intro _ | split   | simp [*])
                         clear_value x) | clear_value x)
    | (simp [*]; done)
    | intro _
    | split
    | simp [*]

@[simp] theorem Mach.resendAll_sig (m : Mach) : (Mach.resendAll m).sig = m.sig := by
  unfold Mach.resendAll
  repeat' first
    | (simp [*]; done)
    | intro _
    | split
    | simp [*]

@[simp] theorem Mach.durables_sig (m : Mach) : (Mach.durables m).sig = m.sig := by
  unfold Mach.durables
  repeat' first
    | (simp [*]; done)
    | intro _
    | split
    | rw [Mach.each_sig]
    | simp [*]

@[simp] theorem Mach.rxPut_sig (x : RxXfer) (m : Mach) : (Mach.rxPut x m).sig = m.sig := by
  simp [Mach.rxPut]

@[simp] theorem Mach.rxAwait_sig (x : RxXfer) (ids : List Nat) (more : List Cover) (m : Mach) : (Mach.rxAwait x ids more m).sig = m.sig := by
  unfold Mach.rxAwait
  try lift_lets
  repeat' first
    | (intro x; first | (have hx : x.sig = m.sig := by
                            simp only [x]
                            repeat' (first | (simp [*]; done) | intro _ | split | rw [Mach.each_sig]  | simp [*])
                         clear_value x) | clear_value x)
    | (simp [*]; done)
    | intro _
    | split
    | rw [Mach.each_sig]
    | simp [*]

@[simp] theorem Mach.rxEnd_sig (x : RxXfer) (m : Mach) : (Mach.rxEnd x m).sig = m.sig := by
  unfold Mach.rxEnd
  try lift_lets
  repeat' first
    | (intro x; first | (have hx : x.sig = m.sig := by
                            simp only [x]
                            repeat' (first | (simp [*]; done) | intro _ | split   | simp [*])
                         clear_value x) | clear_value x)
    | (simp [*]; done)
    | intro _
    | split
    | simp [*]

@[simp] theorem Mach.rxStep_sig (m : Mach) : (Mach.rxStep m).1.sig = m.sig := by
  unfold Mach.rxStep
  try lift_lets
  repeat' first
    | (intro x; first | (have hx : x.sig = m.sig := by
                            simp only [x]
                            repeat' (first | (simp [*]; done) | intro _ | split   | simp [*])
                         clear_value x) | clear_value x)
    | (simp [*]; done)
    | intro _
    | split
    | simp [*]

@[simp] theorem Mach.rxSteps_sig (n : Nat) (m : Mach) : (Mach.rxSteps n m).sig = m.sig := by
  induction n generalizing m with
  | zero => simp [Mach.rxSteps]
  | succ n ih =>
    unfold Mach.rxSteps
    dsimp only
    split <;> simp [ih]

@[simp] theorem Mach.rxDrain_sig (m : Mach) : (Mach.rxDrain m).sig = m.sig := by
  unfold Mach.rxDrain
  simp

@[simp] theorem Mach.rxBegin_sig (v : Vid) (fence n : Nat) (write : Bool) (x : RxXfer) (m : Mach) : (Mach.rxBegin v fence n write x m).sig = m.sig := by
  unfold Mach.rxBegin
  try lift_lets
  repeat' first
    | (intro x; first | (have hx : x.sig = m.sig := by
                            simp only [x]
                            repeat' (first | (simp [*]; done) | intro _ | split  | rw [Mach.when_sig] | simp [*])
                         clear_value x) | clear_value x)
    | (simp [*]; done)
    | intro _
    | split
    | rw [Mach.when_sig]
    | simp [*]

@[simp] theorem Mach.wdataIn_sig (xid idx : Nat) (d : BitVec 2048) (m : Mach) : (Mach.wdataIn xid idx d m).sig = m.sig := by
  unfold Mach.wdataIn
  try lift_lets
  repeat' first
    | (intro x; first | (have hx : x.sig = m.sig := by
                            simp only [x]
                            repeat' (first | (simp [*]; done) | intro _ | split   | simp [*])
                         clear_value x) | clear_value x)
    | (simp [*]; done)
    | intro _
    | split
    | simp [*]

@[simp] theorem Mach.refusedRegions_sig (v : Vid) (regs : List Nat) (m : Mach) : (Mach.refusedRegions v regs m).sig = m.sig := by
  unfold Mach.refusedRegions
  try lift_lets
  repeat' first
    | (intro x; first | (have hx : x.sig = m.sig := by
                            simp only [x]
                            repeat' (first | (simp [*]; done) | intro _ | split   | simp [*])
                         clear_value x) | clear_value x)
    | (simp [*]; done)
    | intro _
    | split
    | simp [*]

@[simp] theorem Mach.resyncCheck_sig (v : Vid) (m : Mach) : (Mach.resyncCheck v m).sig = m.sig := by
  unfold Mach.resyncCheck
  try lift_lets
  repeat' first
    | (intro x; first | (have hx : x.sig = m.sig := by
                            simp only [x]
                            repeat' (first | (simp [*]; done) | intro _ | split   | simp [*])
                         clear_value x) | clear_value x)
    | (simp [*]; done)
    | intro _
    | split
    | simp [*]

@[simp] theorem Mach.slotAnswered_sig (s x status : Nat) (m : Mach) : (Mach.slotAnswered s x status m).sig = m.sig := by
  unfold Mach.slotAnswered
  try lift_lets
  repeat' first
    | (intro x; first | (have hx : x.sig = m.sig := by
                            simp only [x]
                            repeat' (first | (simp [*]; done) | intro _ | split   | simp [*])
                         clear_value x) | clear_value x)
    | (simp [*]; done)
    | intro _
    | split
    | simp [*]

@[simp] theorem Mach.txAnswered_sig (w : TxFor) (x status : Nat) (m : Mach) : (Mach.txAnswered w x status m).sig = m.sig := by
  unfold Mach.txAnswered
  try lift_lets
  repeat' first
    | (intro x; first | (have hx : x.sig = m.sig := by
                            simp only [x]
                            repeat' (first | (simp [*]; done) | intro _ | split   | simp [*])
                         clear_value x) | clear_value x)
    | (simp [*]; done)
    | intro _
    | split
    | simp [*]

@[simp] theorem Mach.wackIn_sig (x status epoch : Nat) (m : Mach) : (Mach.wackIn x status epoch m).sig = m.sig := by
  unfold Mach.wackIn
  try lift_lets
  repeat' first
    | (intro x; first | (have hx : x.sig = m.sig := by
                            simp only [x]
                            repeat' (first | (simp [*]; done) | intro _ | split   | simp [*])
                         clear_value x) | clear_value x)
    | (simp [*]; done)
    | intro _
    | split
    | simp [*]

@[simp] theorem Mach.startResync_sig (v : Vid) (theirs : Bool) (m : Mach) : (Mach.startResync v theirs m).sig = m.sig := by
  unfold Mach.startResync
  try lift_lets
  repeat' first
    | (intro x; first | (have hx : x.sig = m.sig := by
                            simp only [x]
                            repeat' (first | (simp [*]; done) | intro _ | split   | simp [*])
                         clear_value x) | clear_value x)
    | (simp [*]; done)
    | intro _
    | split
    | simp [*]

@[simp] theorem Mach.equalEpoch_sig (v : Vid) (owner mapValid : Bool) (state : Nat) (m : Mach) : (Mach.equalEpoch v owner mapValid state m).sig = m.sig := by
  unfold Mach.equalEpoch
  try lift_lets
  repeat' first
    | (intro x; first | (have hx : x.sig = m.sig := by
                            simp only [x]
                            repeat' (first | (simp [*]; done) | intro _ | split   | simp [*])
                         clear_value x) | clear_value x)
    | (simp [*]; done)
    | intro _
    | split
    | simp [*]

@[simp] theorem Mach.notThere_sig (v : Vid) (size : Nat) (m : Mach) : (Mach.notThere v size m).sig = m.sig := by
  unfold Mach.notThere
  try lift_lets
  repeat' first
    | (intro x; first | (have hx : x.sig = m.sig := by
                            simp only [x]
                            repeat' (first | (simp [*]; done) | intro _ | split   | simp [*])
                         clear_value x) | clear_value x)
    | (simp [*]; done)
    | intro _
    | split
    | simp [*]

@[simp] theorem Mach.volstateIn_sig (v : Vid) (fence : Nat) (mirrored owner mapValid : Bool) (state size : Nat) (m : Mach) : (Mach.volstateIn v fence mirrored owner mapValid state size m).sig = m.sig := by
  unfold Mach.volstateIn
  try lift_lets
  repeat' first
    | (intro x; first | (have hx : x.sig = m.sig := by
                            simp only [x]
                            repeat' (first | (simp [*]; done) | intro _ | split  | rw [Mach.when_sig] | simp [*])
                         clear_value x) | clear_value x)
    | (simp [*]; done)
    | intro _
    | split
    | rw [Mach.when_sig]
    | simp [*]

@[simp] theorem Mach.rsmapIn_sig (v : Vid) (first : Nat) (dirty : List Nat) (m : Mach) : (Mach.rsmapIn v first dirty m).sig = m.sig := by
  unfold Mach.rsmapIn
  try lift_lets
  repeat' first
    | (intro x; first | (have hx : x.sig = m.sig := by
                            simp only [x]
                            repeat' (first | (simp [*]; done) | intro _ | split   | simp [*])
                         clear_value x) | clear_value x)
    | (simp [*]; done)
    | intro _
    | split
    | simp [*]

@[simp] theorem Mach.twnAnswer_sig (v : Vid) (status : Nat) (m : Mach) : (Mach.twnAnswer v status m).sig = m.sig := by
  simp [Mach.twnAnswer]

@[simp] theorem Mach.forPartner_sig (v : Vid) (x : Vol) (m : Mach) : (Mach.forPartner v x m).sig = m.sig := by
  simp [Mach.forPartner]

@[simp] theorem Mach.createIn_sig (v : Vid) (fence : Nat) (x : VolArgs) (m : Mach) : (Mach.createIn v fence x m).sig = m.sig := by
  unfold Mach.createIn
  repeat' first
    | (simp [*]; done)
    | intro _
    | split
    | simp [*]

@[simp] theorem Mach.formatIn_sig (v : Vid) (x : VolArgs) (m : Mach) : (Mach.formatIn v x m).sig = m.sig := by
  unfold Mach.formatIn
  repeat' first
    | (simp [*]; done)
    | intro _
    | split
    | simp [*]

@[simp] theorem Mach.deleteHere_sig (v : Vid) (x : Vol) (m : Mach) : (Mach.deleteHere v x m).sig = m.sig := by
  simp [Mach.deleteHere]

@[simp] theorem Mach.deleteIn_sig (v : Vid) (m : Mach) : (Mach.deleteIn v m).sig = m.sig := by
  unfold Mach.deleteIn
  repeat' first
    | (simp [*]; done)
    | intro _
    | split
    | simp [*]

@[simp] theorem Mach.unmirrorIn_sig (v : Vid) (m : Mach) : (Mach.unmirrorIn v m).sig = m.sig := by
  unfold Mach.unmirrorIn
  repeat' first
    | (simp [*]; done)
    | intro _
    | split
    | simp [*]

@[simp] theorem Mach.resultFor_sig (w : TwinWait) (status : Nat) (m : Mach) : (Mach.resultFor w status m).sig = m.sig := by
  unfold Mach.resultFor
  try lift_lets
  repeat' first
    | (intro x; first | (have hx : x.sig = m.sig := by
                            simp only [x]
                            repeat' (first | (simp [*]; done) | intro _ | split  | rw [Mach.when_sig] | simp [*])
                         clear_value x) | clear_value x)
    | (simp [*]; done)
    | intro _
    | split
    | rw [Mach.when_sig]
    | simp [*]

@[simp] theorem Mach.resultIn_sig (v : Vid) (status : Nat) (m : Mach) : (Mach.resultIn v status m).sig = m.sig := by
  unfold Mach.resultIn
  repeat' first
    | (simp [*]; done)
    | intro _
    | split
    | simp [*]

@[simp] theorem Mach.takeIn_sig (v : Vid) (fence : Nat) (m : Mach) : (Mach.takeIn v fence m).sig = m.sig := by
  unfold Mach.takeIn
  try lift_lets
  repeat' first
    | (intro x; first | (have hx : x.sig = m.sig := by
                            simp only [x]
                            repeat' (first | (simp [*]; done) | intro _ | split   | simp [*])
                         clear_value x) | clear_value x)
    | (simp [*]; done)
    | intro _
    | split
    | simp [*]

@[simp] theorem Mach.takeAckIn_sig (v : Vid) (fence : Nat) (m : Mach) : (Mach.takeAckIn v fence m).sig = m.sig := by
  simp [Mach.takeAckIn]

@[simp] theorem Mach.handoverOver_sig (v : Vid) (m : Mach) : (Mach.handoverOver v m).sig = m.sig := by
  unfold Mach.handoverOver
  repeat' first
    | (simp [*]; done)
    | intro _
    | split
    | rw [Mach.each_sig]
    | simp [*]

@[simp] theorem Mach.pieceRead_sig (s off : Nat) (m : Mach) : (Mach.pieceRead s off m).sig = m.sig := by
  unfold Mach.pieceRead
  extract_lets c v lba
  generalize m.storedSrc v lba = r
  cases r
  case version => rw [Mach.pieceLb_sig]
  case zero => rw [Mach.setCmd_sig]
  case flash => rw [Mach.startRead_sig]
  case recovering => rw [Mach.pieceLb_sig, Mach.badEntry_sig]
  all_goals rw [Mach.pieceLb_sig]

@[simp] theorem Mach.pieceRun_sig (s : Nat) (m : Mach) : (Mach.pieceRun s m).sig = m.sig := by
  unfold Mach.pieceRun
  dsimp only
  split
  · simp
  · rw [Mach.pieceDone_sig, Mach.each_sig, Mach.setCmd_sig, Mach.setRs_sig]
    intro off m
    exact Mach.pieceRead_sig ..

@[simp] theorem Mach.resyncStep_sig (v : Vid) (m : Mach) : (Mach.resyncStep v m).sig = m.sig := by
  unfold Mach.resyncStep
  try lift_lets
  repeat' first
    | (intro x; first | (have hx : x.sig = m.sig := by
                            simp only [x]
                            repeat' (first | (simp [*]; done) | intro _ | split   | simp [*])
                         clear_value x) | clear_value x)
    | (simp [*]; done)
    | intro _
    | split
    | simp [*]

@[simp] theorem Mach.cfgWrite_sig (p : Port) (off : Nat) (v : Word) (m : Mach) : (Mach.cfgWrite p off v m).sig = m.sig := by
  unfold Mach.cfgWrite
  try lift_lets
  repeat' first
    | (intro x; first
      | (have hx : x.sig = m.sig := (by
        simp only [x]
        repeat' (first | (simp [*]; done) | intro _ | split | rw [Mach.each_sig] | simp [*])); clear_value x)
      | (have hx : x.1.sig = m.sig := (by
        simp only [x]
        repeat' (first | (simp [*]; done) | intro _ | split | rw [Mach.each_sig] | simp [*])); clear_value x)
      | clear_value x)
    | (simp [*]; done)
    | intro _
    | split
    | (have h2 := congrArg (fun p => p.1.sig) ‹_ = (_, _)›; simp at h2; simp [*]; done)
    | rw [Mach.each_sig]
    | simp [*]

@[simp] theorem Mach.hdmControl_sig (p : Port) (k : Nat) (v : Word) (m : Mach) : (Mach.hdmControl p k v m).sig = m.sig := by
  unfold Mach.hdmControl
  try lift_lets
  repeat' first
    | (intro x; first
      | (have hx : x.sig = m.sig := (by
        simp only [x]
        repeat' (first | (simp [*]; done) | intro _ | split | rw [Mach.each_sig] | simp [*])); clear_value x)
      | (have hx : x.1.sig = m.sig := (by
        simp only [x]
        repeat' (first | (simp [*]; done) | intro _ | split | rw [Mach.each_sig] | simp [*])); clear_value x)
      | clear_value x)
    | (simp [*]; done)
    | intro _
    | split
    | (have h2 := congrArg (fun p => p.1.sig) ‹_ = (_, _)›; simp at h2; simp [*]; done)
    | rw [Mach.each_sig]
    | simp [*]

@[simp] theorem Mach.hdmWrite_sig (p : Port) (k r : Nat) (v : Word) (m : Mach) : (Mach.hdmWrite p k r v m).sig = m.sig := by
  unfold Mach.hdmWrite
  try lift_lets
  repeat' first
    | (intro x; first
      | (have hx : x.sig = m.sig := (by
        simp only [x]
        repeat' (first | (simp [*]; done) | intro _ | split | rw [Mach.each_sig] | simp [*])); clear_value x)
      | (have hx : x.1.sig = m.sig := (by
        simp only [x]
        repeat' (first | (simp [*]; done) | intro _ | split | rw [Mach.each_sig] | simp [*])); clear_value x)
      | clear_value x)
    | (simp [*]; done)
    | intro _
    | split
    | (have h2 := congrArg (fun p => p.1.sig) ‹_ = (_, _)›; simp at h2; simp [*]; done)
    | rw [Mach.each_sig]
    | simp [*]

@[simp] theorem Mach.rasWrite_sig (p : Port) (v : Word) (m : Mach) : (Mach.rasWrite p v m).sig = m.sig := by
  unfold Mach.rasWrite
  try lift_lets
  repeat' first
    | (intro x; first
      | (have hx : x.sig = m.sig := (by
        simp only [x]
        repeat' (first | (simp [*]; done) | intro _ | split | rw [Mach.each_sig] | simp [*])); clear_value x)
      | (have hx : x.1.sig = m.sig := (by
        simp only [x]
        repeat' (first | (simp [*]; done) | intro _ | split | rw [Mach.each_sig] | simp [*])); clear_value x)
      | clear_value x)
    | (simp [*]; done)
    | intro _
    | split
    | (have h2 := congrArg (fun p => p.1.sig) ‹_ = (_, _)›; simp at h2; simp [*]; done)
    | rw [Mach.each_sig]
    | simp [*]

@[simp] theorem Mach.cxlWrite_sig (p : Port) (off : Nat) (v : Word) (m : Mach) : (Mach.cxlWrite p off v m).sig = m.sig := by
  unfold Mach.cxlWrite
  try lift_lets
  repeat' first
    | (intro x; first
      | (have hx : x.sig = m.sig := (by
        simp only [x]
        repeat' (first | (simp [*]; done) | intro _ | split | rw [Mach.each_sig] | simp [*])); clear_value x)
      | (have hx : x.1.sig = m.sig := (by
        simp only [x]
        repeat' (first | (simp [*]; done) | intro _ | split | rw [Mach.each_sig] | simp [*])); clear_value x)
      | clear_value x)
    | (simp [*]; done)
    | intro _
    | split
    | (have h2 := congrArg (fun p => p.1.sig) ‹_ = (_, _)›; simp at h2; simp [*]; done)
    | rw [Mach.each_sig]
    | simp [*]

@[simp] theorem Mach.takeLow_sig (key : Nat) (m : Mach) : (Mach.takeLow key m).1.sig = m.sig := by
  simp [Mach.takeLow]

@[simp] theorem Mach.mapProbe_sig (a : Agent) (hi : Word) (m : Mach) : (Mach.mapProbe a hi m).sig = m.sig := by
  unfold Mach.mapProbe
  split
  · simp
  · extract_lets low m1 v lba r m2
    have h : m1.sig = m.sig := by simp only [m1, low, Mach.wr_sig]; simp [Mach.takeLow]
    have h2 : m2.sig = m.sig := by simp only [m2]; rw [Mach.draw_sig, Mach.badEntry_sig, h]
    clear_value m1 m2 r
    simp [h2]

@[simp] theorem Mach.writeHeader_sig (a : Agent) (p : Page) (off : Nat) (v : Word) (m : Mach) : (Mach.writeHeader a p off v m).sig = m.sig := by
  unfold Mach.writeHeader
  repeat' first
    | (simp [*]; done)
    | intro _
    | split
    | apply Mach.pageCmd_sig
    | simp [*]

@[simp] theorem Mach.writePfCtrl_sig (a : Agent) (n : Fin 8) (v : Word) (m : Mach) : (Mach.writePfCtrl a n v m).sig = m.sig := by
  unfold Mach.writePfCtrl
  try lift_lets
  repeat' first
    | (intro x; first | (have hx : x.sig = m.sig := by
                            simp only [x]
                            repeat' (first | (simp [*]; done) | intro _ | split  | rw [Mach.when_sig] | simp [*])
                         clear_value x) | clear_value x)
    | (simp [*]; done)
    | intro _
    | split
    | rw [Mach.when_sig]
    | simp [*]

@[simp] theorem Mach.writeDomcmd_sig (a : Agent) (v : Word) (m : Mach) : (Mach.writeDomcmd a v m).sig = m.sig := by
  simp [Mach.writeDomcmd]

@[simp] theorem Mach.writeAlmCtrl_sig (a : Agent) (v : Word) (m : Mach) : (Mach.writeAlmCtrl a v m).sig = m.sig := by
  unfold Mach.writeAlmCtrl
  repeat' first
    | (simp [*]; done)
    | intro _
    | split
    | rw [Mach.when_sig]
    | simp [*]

@[simp] theorem Mach.writeDoorbell_sig (a : Agent) (off : Nat) (v : Word) (m : Mach) : (Mach.writeDoorbell a off v m).sig = m.sig := by
  simp [Mach.writeDoorbell]

theorem Mach.writeSpecial_sig (a : Agent) (p : Page) (off : Nat) (v : Word) {m u : Mach} (h : m.writeSpecial a p off v = some u) :
    u.sig = m.sig := by
  unfold Mach.writeSpecial at h
  split at h <;> first | (cases h; simp; done) | (cases h; rw [Mach.when_sig]; intro m; simp; done) | skip
  · split at h
    · cases h; simp
    · cases h
  · cases h

@[simp] theorem Mach.writeCode_sig (a : Agent) (p : Page) (off : Nat) (r : RegRow) (v : Word) (m : Mach) : (Mach.writeCode a p off r v m).sig = m.sig := by
  unfold Mach.writeCode
  try lift_lets
  repeat' first
    | (intro x; first | (have hx : x.sig = m.sig := by
                            simp only [x]
                            repeat' (first | (simp [*]; done) | intro _ | split   | simp [*])
                         clear_value x) | clear_value x)
    | (simp [*]; done)
    | intro _
    | split
    | simp [*]

@[simp] theorem Mach.writeReg_sig (a : Agent) (p : Page) (off : Nat) (v : Word) (m : Mach) : (Mach.writeReg a p off v m).sig = m.sig := by
  unfold Mach.writeReg
  repeat' first
    | (simp; done)
    | exact Mach.writeSpecial_sig _ _ _ _ ‹_›
    | split

@[simp] theorem Mach.writeWord_sig (a : Agent) (off : Nat) (v : Word) (m : Mach) : (Mach.writeWord a off v m).sig = m.sig := by
  unfold Mach.writeWord
  repeat' first
    | (simp [*]; done)
    | intro _
    | split
    | simp [*]

@[simp] theorem Mach.bar0Write_sig (a : Agent) (off width : Nat) (v : BitVec 64) (m : Mach) : (Mach.bar0Write a off width v m).sig = m.sig := by
  unfold Mach.bar0Write
  try lift_lets
  repeat' first
    | (intro x; first
      | (have hx : x.sig = m.sig := (by
        simp only [x]
        repeat' (first | (simp [*]; done) | intro _ | split | rw [Mach.each_sig] | simp [*])); clear_value x)
      | (have hx : x.1.sig = m.sig := (by
        simp only [x]
        repeat' (first | (simp [*]; done) | intro _ | split | rw [Mach.each_sig] | simp [*])); clear_value x)
      | clear_value x)
    | (simp [*]; done)
    | intro _
    | split
    | (have h2 := congrArg (fun p => p.1.sig) ‹_ = (_, _)›; simp at h2; simp [*]; done)
    | rw [Mach.each_sig]
    | simp [*]

@[simp] theorem Mach.cfgBusWrite_sig (a : Agent) (off width : Nat) (v : BitVec 64) (m : Mach) : (Mach.cfgBusWrite a off width v m).sig = m.sig := by
  unfold Mach.cfgBusWrite
  try lift_lets
  repeat' first
    | (intro x; first
      | (have hx : x.sig = m.sig := (by
        simp only [x]
        repeat' (first | (simp [*]; done) | intro _ | split | rw [Mach.each_sig] | simp [*])); clear_value x)
      | (have hx : x.1.sig = m.sig := (by
        simp only [x]
        repeat' (first | (simp [*]; done) | intro _ | split | rw [Mach.each_sig] | simp [*])); clear_value x)
      | clear_value x)
    | (simp [*]; done)
    | intro _
    | split
    | (have h2 := congrArg (fun p => p.1.sig) ‹_ = (_, _)›; simp at h2; simp [*]; done)
    | rw [Mach.each_sig]
    | simp [*]

@[simp] theorem Mach.busWrite_sig (a : Agent) (off width : Nat) (v : BitVec 64) (m : Mach) : (Mach.busWrite a off width v m).sig = m.sig := by
  unfold Mach.busWrite
  repeat' first
    | (simp [*]; done)
    | intro _
    | split
    | simp [*]

@[simp] theorem Mach.restartPeak_sig (p : Page) (off : Nat) (m : Mach) : (Mach.restartPeak p off m).sig = m.sig := by
  unfold Mach.restartPeak
  repeat' first
    | (simp [*]; done)
    | intro _
    | split
    | simp [*]

@[simp] theorem Mach.readEffect_sig (p : Page) (off : Nat) (m : Mach) : (Mach.readEffect p off m).sig = m.sig := by
  unfold Mach.readEffect
  repeat' first
    | (simp [*]; done)
    | intro _
    | split
    | simp [*]

@[simp] theorem Mach.readWord_sig (a : Agent) (off : Nat) (m : Mach) : (Mach.readWord a off m).1.sig = m.sig := by
  unfold Mach.readWord
  try lift_lets
  repeat' first
    | (intro x; first | (have hx : x.sig = m.sig := by
                            simp only [x]
                            repeat' (first | (simp [*]; done) | intro _ | split   | simp [*])
                         clear_value x) | clear_value x)
    | (simp [*]; done)
    | intro _
    | split
    | simp [*]

@[simp] theorem Mach.bar0Read_sig (a : Agent) (off width : Nat) (m : Mach) : (Mach.bar0Read a off width m).1.sig = m.sig := by
  unfold Mach.bar0Read
  try dsimp only
  repeat' first | (simp; done) | split

@[simp] theorem Mach.cfgBusRead_sig (a : Agent) (off width : Nat) (m : Mach) : (Mach.cfgBusRead a off width m).1.sig = m.sig := by
  unfold Mach.cfgBusRead
  try lift_lets
  repeat' first
    | (intro x; first
      | (have hx : x.sig = m.sig := (by
        simp only [x]
        repeat' (first | (simp [*]; done) | intro _ | split | rw [Mach.each_sig] | simp [*])); clear_value x)
      | (have hx : x.1.sig = m.sig := (by
        simp only [x]
        repeat' (first | (simp [*]; done) | intro _ | split | rw [Mach.each_sig] | simp [*])); clear_value x)
      | clear_value x)
    | (simp [*]; done)
    | intro _
    | split
    | (have h2 := congrArg (fun p => p.1.sig) ‹_ = (_, _)›; simp at h2; simp [*]; done)
    | rw [Mach.each_sig]
    | simp [*]

@[simp] theorem Mach.busRead_sig (a : Agent) (off width : Nat) (m : Mach) : (Mach.busRead a off width m).1.sig = m.sig := by
  unfold Mach.busRead
  try lift_lets
  repeat' first
    | (intro x; first
      | (have hx : x.sig = m.sig := (by
        simp only [x]
        repeat' (first | (simp [*]; done) | intro _ | split | rw [Mach.each_sig] | simp [*])); clear_value x)
      | (have hx : x.1.sig = m.sig := (by
        simp only [x]
        repeat' (first | (simp [*]; done) | intro _ | split | rw [Mach.each_sig] | simp [*])); clear_value x)
      | clear_value x)
    | (simp [*]; done)
    | intro _
    | split
    | (have h2 := congrArg (fun p => p.1.sig) ‹_ = (_, _)›; simp at h2; simp [*]; done)
    | rw [Mach.each_sig]
    | simp [*]

@[simp] theorem Mach.busAnswer_sig (a : Agent) (off width : Nat) (m : Mach) : (Mach.busAnswer a off width m).sig = m.sig := by
  simp [Mach.busAnswer]

@[simp] theorem Mach.svcStopPage_sig (p : Port) (pg : Page) (m : Mach) : (Mach.svcStopPage p pg m).sig = m.sig := by
  simp [Mach.svcStopPage]

@[simp] theorem Mach.svcChange_sig (pg : Page) (pairs : List (Nat × Word)) (m : Mach) : (Mach.svcChange pg pairs m).sig = m.sig := by
  simp [Mach.svcChange]

@[simp] theorem Mach.svcStartPage_sig (p : Port) (pg : Page) (m : Mach) : (Mach.svcStartPage p pg m).sig = m.sig := by
  simp [Mach.svcStartPage]

@[simp] theorem Mach.svcAll_sig (p : Port) (pg : Page) (pairs : List (Nat × Word)) (m : Mach) : (Mach.svcAll p pg pairs m).sig = m.sig := by
  simp [Mach.svcAll]

@[simp] theorem Mach.retrain_sig (pg : Page) (f : Mach → Mach) (m : Mach) (h : (f m).sig = m.sig) : (Mach.retrain pg f m).sig = m.sig := by
  unfold Mach.retrain
  split
  · simp
  · exact h

@[simp] theorem Mach.deskewed_sig (c : Chan) (m : Mach) : (Mach.deskewed c m).sig = m.sig := by
  simp [Mach.deskewed]

@[simp] theorem Mach.fchFails_sig (c : Chan) (m : Mach) : (Mach.fchFails c m).sig = m.sig := by
  simp [Mach.fchFails]

@[simp] theorem Mach.fchRetrained_sig (c : Chan) (ok : Bool) (m : Mach) : (Mach.fchRetrained c ok m).sig = m.sig := by
  unfold Mach.fchRetrained
  repeat' first
    | (simp [*]; done)
    | intro _
    | split
    | simp [*]

@[simp] theorem Mach.drcRetrained_sig (d : Fin 4) (ok : Bool) (m : Mach) : (Mach.drcRetrained d ok m).sig = m.sig := by
  simp [Mach.drcRetrained]

@[simp] theorem Mach.retrainEnd_sig (ok : Bool) (m : Mach) : (Mach.retrainEnd ok m).sig = m.sig := by
  unfold Mach.retrainEnd
  repeat' first
    | (simp [*]; done)
    | intro _
    | split
    | simp [*]

@[simp] theorem Mach.rebuildOver_sig (m : Mach) : (Mach.rebuildOver m).sig = m.sig := by
  simp [Mach.rebuildOver]

@[simp] theorem Mach.calibrate_sig (i : Nat) (o : Int) (m : Mach) : (Mach.calibrate i o m).sig = m.sig := by
  unfold Mach.calibrate
  repeat' first
    | (simp [*]; done)
    | intro _
    | split
    | simp [*]

@[simp] theorem Mach.recalibrate_sig (offsets : List Int) (m : Mach) : (Mach.recalibrate offsets m).sig = m.sig := by
  unfold Mach.recalibrate
  repeat' first
    | (simp [*]; done)
    | intro _
    | split
    | rw [Mach.each_sig]
    | simp [*]

@[simp] theorem Mach.twinOp_sig (p : Port) (v : Vid) (f : Mach → Mach) (m : Mach) (h : (f m).sig = m.sig) :
    (Mach.twinOp p v f m).sig = m.sig := by
  unfold Mach.twinOp
  split
  · simp
  · exact h

@[simp] theorem Mach.pair_sig (p : Port) (serial : BitVec 160) (m : Mach) : (Mach.pair p serial m).sig = m.sig := by
  unfold Mach.pair
  try lift_lets
  repeat' first
    | (intro x; first | (have hx : x.sig = m.sig := by
                            simp only [x]
                            repeat' (first | (simp [*]; done) | intro _ | split   | simp [*])
                         clear_value x) | clear_value x)
    | (simp [*]; done)
    | intro _
    | split
    | simp [*]

@[simp] theorem Mach.mirrorCmd_sig (p : Port) (v : Vid) (pkeySlot : Nat) (m : Mach) : (Mach.mirrorCmd p v pkeySlot m).sig = m.sig := by
  unfold Mach.mirrorCmd
  try lift_lets
  repeat' first
    | (intro x; first | (have hx : x.sig = m.sig := by
                            simp only [x]
                            repeat' (first | (simp [*]; done) | intro _ | split   | simp [*])
                         clear_value x) | clear_value x)
    | (simp [*]; done)
    | intro _
    | split
    | simp [*]

@[simp] theorem Mach.unmirrorCmd_sig (p : Port) (v : Vid) (m : Mach) : (Mach.unmirrorCmd p v m).sig = m.sig := by
  unfold Mach.unmirrorCmd
  try lift_lets
  repeat' first
    | (intro x; first | (have hx : x.sig = m.sig := by
                            simp only [x]
                            repeat' (first | (simp [*]; done) | intro _ | split   | simp [*])
                         clear_value x) | clear_value x)
    | (simp [*]; done)
    | intro _
    | split
    | simp [*]

@[simp] theorem Mach.demoteCmd_sig (p : Port) (v : Vid) (fence : Nat) (m : Mach) : (Mach.demoteCmd p v fence m).sig = m.sig := by
  unfold Mach.demoteCmd
  try lift_lets
  repeat' first
    | (intro x; first | (have hx : x.sig = m.sig := by
                            simp only [x]
                            repeat' (first | (simp [*]; done) | intro _ | split   | simp [*])
                         clear_value x) | clear_value x)
    | (simp [*]; done)
    | intro _
    | split
    | simp [*]

@[simp] theorem Mach.takeover_sig (p : Port) (v : Vid) (force : Bool) (fence : Nat) (m : Mach) : (Mach.takeover p v force fence m).sig = m.sig := by
  unfold Mach.takeover
  try lift_lets
  repeat' first
    | (intro x; first | (have hx : x.sig = m.sig := by
                            simp only [x]
                            repeat' (first | (simp [*]; done) | intro _ | split   | simp [*])
                         clear_value x) | clear_value x)
    | (simp [*]; done)
    | intro _
    | split
    | simp [*]

@[simp] theorem Mach.volCmd_sig (p : Port) (opcode : Nat) (op : BgOp) (refusal : Mach → Option Nat) (accept : Mach → Mach) (m : Mach)
    (h : ∀ m : Mach, (accept m).sig = m.sig) : (Mach.volCmd p opcode op refusal accept m).sig = m.sig := by
  unfold Mach.volCmd
  repeat' first
    | (simp; done)
    | (apply Mach.startBg_sig; exact h)
    | split

@[simp] theorem Mach.volRepeat_sig (v : Vid) (m : Mach) : (Mach.volRepeat v m).sig = m.sig := by
  simp [Mach.volRepeat]

@[simp] theorem Mach.softDone_sig (task : Nat) (ok : Bool) (k : CwCheck) (m : Mach) : (Mach.softDone task ok k m).sig = m.sig := by
  unfold Mach.softDone
  try lift_lets
  repeat' first
    | (intro x; first | (have hx : x.sig = m.sig := by
                            simp only [x]
                            repeat' (first | (simp [*]; done) | intro _ | split   | simp [*])
                         clear_value x) | clear_value x)
    | (simp [*]; done)
    | intro _
    | split
    | simp [*]

@[simp] theorem Mach.combine_sig (task : Nat) (k : CwCheck) (m : Mach) : (Mach.combine task k m).sig = m.sig := by
  unfold Mach.combine
  try lift_lets
  repeat' first
    | (intro x; first
      | (have hx : x.sig = m.sig := (by
        simp only [x]
        repeat' (first | (simp [*]; done) | intro _ | split | rw [Mach.each_sig] | simp [*])); clear_value x)
      | (have hx : x.1.sig = m.sig := (by
        simp only [x]
        repeat' (first | (simp [*]; done) | intro _ | split | rw [Mach.each_sig] | simp [*])); clear_value x)
      | clear_value x)
    | (simp [*]; done)
    | intro _
    | split
    | (have h2 := congrArg (fun p => p.1.sig) ‹_ = (_, _)›; simp at h2; simp [*]; done)
    | rw [Mach.each_sig]
    | simp [*]

@[simp] theorem Mach.hiwatSeal_sig (m : Mach) : (Mach.hiwatSeal m).sig = m.sig := by
  unfold Mach.hiwatSeal
  repeat' first
    | (simp [*]; done)
    | intro _
    | split
    | simp [*]

@[simp] theorem Mach.exhaustSlot_sig (slot : Nat) (m : Mach) : (Mach.exhaustSlot slot m).sig = m.sig := by
  simp [Mach.exhaustSlot]

@[simp] theorem Mach.haltSlot_sig (slot : Nat) (m : Mach) : (Mach.haltSlot slot m).sig = m.sig := by
  unfold Mach.haltSlot
  try lift_lets
  repeat' first
    | (intro x; first | (have hx : x.sig = m.sig := by
                            simp only [x]
                            repeat' (first | (simp [*]; done) | intro _ | split   | simp [*])
                         clear_value x) | clear_value x)
    | (simp [*]; done)
    | intro _
    | split
    | simp [*]

@[simp] theorem Mach.exhaustIntegrity_sig (m : Mach) : (Mach.exhaustIntegrity m).sig = m.sig := by
  simp [Mach.exhaustIntegrity]

@[simp] theorem Mach.sequenceLimit_sig (m : Mach) : (Mach.sequenceLimit m).sig = m.sig := by
  simp [Mach.sequenceLimit]

@[simp] theorem Mach.applyUpd_sig (w : WaitUpd) (m : Mach) : (Mach.applyUpd w m).sig = m.sig := by
  unfold Mach.applyUpd
  repeat' first
    | (simp [*]; done)
    | intro _
    | split
    | simp [*]

@[simp] theorem Mach.retryRmw_sig (m : Mach) : (Mach.retryRmw m).sig = m.sig := by
  unfold Mach.retryRmw
  try lift_lets
  repeat' first
    | (intro x; first | (have hx : x.sig = m.sig := by
                            simp only [x]
                            repeat' (first | (simp [*]; done) | intro _ | split | rw [Mach.each_sig]  | simp [*])
                         clear_value x) | clear_value x)
    | (simp [*]; done)
    | intro _
    | split
    | rw [Mach.each_sig]
    | simp [*]

@[simp] theorem Mach.recoveryEnd_sig (ok : Bool) (m : Mach) : (Mach.recoveryEnd ok m).sig = m.sig := by
  unfold Mach.recoveryEnd
  try lift_lets
  repeat' first
    | (intro x; first | (have hx : x.sig = m.sig := by
                            simp only [x]
                            repeat' (first | (simp [*]; done) | intro _ | split | rw [Mach.each_sig]  | simp [*])
                         clear_value x) | clear_value x)
    | (simp [*]; done)
    | intro _
    | split
    | rw [Mach.each_sig]
    | simp [*]

/-! ### The few that change them -/

/-- Equal signatures: equal safety of the test access port. -/
theorem Mach.tapSafe_of_sig {a b : Mach} (h : b.sig = a.sig) (hs : a.tapSafe) : b.tapSafe := by
  simp only [Mach.sig, Prod.mk.injEq] at h
  simpa [Mach.tapSafe, h.1, h.2.1] using hs

theorem Mach.svFloor_of_sig {a b : Mach} (h : b.sig = a.sig) : b.adm.svFloor = a.adm.svFloor := by
  simp only [Mach.sig, Prod.mk.injEq] at h
  exact h.2.2

@[simp] theorem Mach.ctlTaken_sig  (m : Mach) : (Mach.ctlTaken  m).sig = m.sig := by
  unfold Mach.ctlTaken
  try lift_lets
  repeat' first
    | (intro x; first
      | (have hx : x.sig = m.sig := (by
        simp only [x]
        repeat' (first | (simp [*]; done) | intro _ | split | rw [Mach.each_sig] | simp [*])); clear_value x)
      | clear_value x)
    | (simp [*]; done)
    | intro _
    | split
    | rw [Mach.each_sig]
    | simp [*]

@[simp] theorem Mach.moreReads_sig (p : Port) (m : Mach) : (Mach.moreReads p m).sig = m.sig := by
  unfold Mach.moreReads
  try lift_lets
  repeat' first
    | (intro x; first
      | (have hx : x.sig = m.sig := (by
        simp only [x]
        repeat' (first | (simp [*]; done) | intro _ | split | rw [Mach.each_sig] | simp [*])); clear_value x)
      | clear_value x)
    | (simp [*]; done)
    | intro _
    | split
    | rw [Mach.each_sig]
    | simp [*]

@[simp] theorem Mach.lbArrived_sig (s off : Nat) (m : Mach) : (Mach.lbArrived s off m).sig = m.sig := by
  unfold Mach.lbArrived
  try lift_lets
  repeat' first
    | (intro x; first
      | (have hx : x.sig = m.sig := (by
        simp only [x]
        repeat' (first | (simp [*]; done) | intro _ | split | rw [Mach.each_sig] | simp [*])); clear_value x)
      | clear_value x)
    | (simp [*]; done)
    | intro _
    | split
    | rw [Mach.each_sig]
    | simp [*]

@[simp] theorem Mach.lightRow_sig (s : Nat) (lost : List DramUser) (m : Mach) : (Mach.lightRow s lost m).sig = m.sig := by
  unfold Mach.lightRow
  try lift_lets
  repeat' first
    | (intro x; first
      | (have hx : x.sig = m.sig := (by
        simp only [x]
        repeat' (first | (simp [*]; done) | intro _ | split | rw [Mach.each_sig] | simp [*])); clear_value x)
      | clear_value x)
    | (simp [*]; done)
    | intro _
    | split
    | rw [Mach.each_sig]
    | simp [*]

@[simp] theorem Mach.arrival_sig (s : Nat) (d : Block) (m : Mach) : (Mach.arrival s d m).sig = m.sig := by
  unfold Mach.arrival
  try lift_lets
  repeat' first
    | (intro x; first
      | (have hx : x.sig = m.sig := (by
        simp only [x]
        repeat' (first | (simp [*]; done) | intro _ | split | rw [Mach.each_sig] | simp [*])); clear_value x)
      | clear_value x)
    | (simp [*]; done)
    | intro _
    | split
    | rw [Mach.each_sig]
    | simp [*]

@[simp] theorem Mach.rxCtl_sig (i : Instr) (h : FrameHdr) (ws : List Nat) (f : Mach → Mach) (m : Mach) (hf : ∀ m : Mach, (f m).sig = m.sig) :
    (Mach.rxCtl i h ws f m).sig = m.sig := by
  unfold Mach.rxCtl
  split
  · exact Mach.rxPlain_sig (hf := fun _ => rfl) ..
  · refine Mach.rxSeq_sig (hf := fun m => ?_) ..
    split
    · rw [hf]; simp
    · simp

/-! ### One command -/

theorem sig_on {s s' : State} {f : Mach → Mach} (h : s.on f = .next s') (hf : ∀ m : Mach, (f m).sig = m.sig) : s'.m.sig = s.m.sig := by
  cases h
  exact hf s.m

theorem eq_on {s s' : State} {f : Mach → Mach} (h : s.on f = .next s') : s'.m = f s.m := by
  cases h
  rfl

/-- From a to b neither the test access port nor RESET_N changes, and SVFLOOR does not fall. -/
def Mach.SigLe (a b : Mach) : Prop := b.tap = a.tap ∧ b.dev.resetN = a.dev.resetN ∧ a.adm.svFloor ≤ b.adm.svFloor

theorem le_of_sig {a b : Mach} (h : b.sig = a.sig) : Mach.SigLe a b := by
  simp only [Mach.sig, Prod.mk.injEq] at h
  exact ⟨h.1, h.2.1, h.2.2.symm ▸ Nat.le_refl _⟩

theorem le_trans {a b c : Mach} (h : Mach.SigLe a b) (k : Mach.SigLe b c) : Mach.SigLe a c :=
  ⟨k.1.trans h.1, k.2.1.trans h.2.1, Nat.le_trans h.2.2 k.2.2⟩

theorem le_each {α : Type} (l : List α) (f : α → Mach → Mach) (m : Mach) (h : ∀ a, ∀ m : Mach, Mach.SigLe m (f a m)) :
    Mach.SigLe m (m.each l f) := by
  unfold Mach.each
  induction l generalizing m with
  | nil => exact le_of_sig rfl
  | cons a l ih => exact le_trans (h a m) (ih _)

theorem svCommit_le (p : Port) (v : Nat) (m : Mach) : Mach.SigLe m (m.svCommit p v) := by
  unfold Mach.svCommit
  split
  · exact le_of_sig (by simp)
  · rename_i h
    simp only [Bool.or_eq_true, decide_eq_true_eq, not_or] at h
    have : ∀ u : Mach, (u.ok p []).sig = u.sig := fun u => by simp
    have := this (m.updAdm fun a => { a with svFloor := v })
    simp only [Mach.sig, Prod.mk.injEq] at this
    refine ⟨this.1, this.2.1, ?_⟩
    rw [this.2.2]
    show m.adm.svFloor ≤ v
    omega

theorem setFeature_le (p : Port) (fid sel v : Nat) (m : Mach) : Mach.SigLe m (m.setFeature p fid sel v) := by
  unfold Mach.setFeature
  split
  · exact le_of_sig (by simp)
  · exact le_of_sig (by simp)
  · exact svCommit_le ..
  · split
    · exact le_of_sig (by simp)
    · exact le_of_sig (by simp)
  · split
    · exact le_of_sig (by simp)
    · exact le_of_sig (by rw [Mach.when_sig]; · simp
                          · intro m; simp)

theorem mail_le (i : Instr) (p : Port) (len want : Nat) (early : Bool) (f : Mach → Mach) (m : Mach) (h : Mach.SigLe m (f m)) :
    Mach.SigLe m (m.mail i p len want early f) := by
  unfold Mach.mail Mach.mailRuns
  repeat' first | exact h | (apply le_of_sig; simp; done) | split

theorem execGetEventRecords_sig (p : Port) (log : Fin 4) {s s' : State} (h : execGetEventRecords p log s = .next s') : s'.m.sig = s.m.sig :=
  sig_on h (by
    intro m
    repeat' first
      | (simp; done)
      | apply Mach.stdMail_sig
      | (intro _; simp; done)
      | split)

theorem execClearEventRecords_sig (p : Port) (log : Fin 4) (all : Bool) (handles : List Nat) {s s' : State} (h : execClearEventRecords p log all handles s = .next s') : s'.m.sig = s.m.sig :=
  sig_on h (by
    intro m
    repeat' first
      | (simp; done)
      | apply Mach.stdMail_sig
      | (intro _; simp; done)
      | split)

theorem execGetFwInfo_sig (p : Port) {s s' : State} (h : execGetFwInfo p s = .next s') : s'.m.sig = s.m.sig :=
  sig_on h (by
    intro m
    repeat' first
      | (simp; done)
      | apply Mach.stdMail_sig
      | (intro _; simp; done)
      | split)

theorem execGetSupportedLogs_sig (p : Port) {s s' : State} (h : execGetSupportedLogs p s = .next s') : s'.m.sig = s.m.sig :=
  sig_on h (by
    intro m
    repeat' first
      | (simp; done)
      | apply Mach.stdMail_sig
      | (intro _; simp; done)
      | split)

theorem execGetLog_sig (p : Port) (cel : Bool) (off length : Nat) {s s' : State} (h : execGetLog p cel off length s = .next s') : s'.m.sig = s.m.sig :=
  sig_on h (by
    intro m
    repeat' first
      | (simp; done)
      | apply Mach.stdMail_sig
      | (intro _; simp; done)
      | split)

theorem execIdentifyMemoryDevice_sig (p : Port) {s s' : State} (h : execIdentifyMemoryDevice p s = .next s') : s'.m.sig = s.m.sig :=
  sig_on h (by
    intro m
    repeat' first
      | (simp; done)
      | apply Mach.stdMail_sig
      | (intro _; simp; done)
      | split)

theorem execGetHealthInfo_sig (p : Port) {s s' : State} (h : execGetHealthInfo p s = .next s') : s'.m.sig = s.m.sig :=
  sig_on h (by
    intro m
    repeat' first
      | (simp; done)
      | apply Mach.stdMail_sig
      | (intro _; simp; done)
      | split)

theorem execGetPoisonList_sig (p : Port) (dpa length : Nat) {s s' : State} (h : execGetPoisonList p dpa length s = .next s') : s'.m.sig = s.m.sig :=
  sig_on h (by
    intro m
    repeat' first
      | (simp; done)
      | apply Mach.stdMail_sig
      | (intro _; simp; done)
      | split)

theorem execUnsupportedOpcode_sig (p : Port) (opcode : BitVec 16) {s s' : State} (h : execUnsupportedOpcode p opcode s = .next s') : s'.m.sig = s.m.sig :=
  sig_on h (by
    intro m
    repeat' first
      | (simp; done)
      | apply Mach.when_sig
      | (intro _; simp; done)
      | split)

theorem execInvalidVendorOpcode_sig (p : Port) (opcode : BitVec 16) {s s' : State} (h : execInvalidVendorOpcode p opcode s = .next s') : s'.m.sig = s.m.sig :=
  sig_on h (by
    intro m
    repeat' first
      | (simp; done)
      | apply Mach.when_sig
      | (intro _; simp; done)
      | split)

theorem execTransferFwFull_sig (p : Port) (slot : Fin 2) (length : Nat) (img : Image) {s s' : State} (h : execTransferFwFull p slot length img s = .next s') : s'.m.sig = s.m.sig :=
  sig_on h (by intro m; first | (simp; done) | (dsimp only; simp; done))

theorem execTransferFwInitiate_sig (p : Port) (slot : Fin 2) (length : Nat) {s s' : State} (h : execTransferFwInitiate p slot length s = .next s') : s'.m.sig = s.m.sig :=
  sig_on h (by intro m; first | (simp; done) | (dsimp only; simp; done))

theorem execTransferFwContinue_sig (p : Port) (slot : Fin 2) (off length : Nat) {s s' : State} (h : execTransferFwContinue p slot off length s = .next s') : s'.m.sig = s.m.sig :=
  sig_on h (by intro m; first | (simp; done) | (dsimp only; simp; done))

theorem execTransferFwEnd_sig (p : Port) (slot : Fin 2) (off length : Nat) (img : Image) {s s' : State} (h : execTransferFwEnd p slot off length img s = .next s') : s'.m.sig = s.m.sig :=
  sig_on h (by intro m; first | (simp; done) | (dsimp only; simp; done))

theorem execTransferFwAbort_sig (p : Port) {s s' : State} (h : execTransferFwAbort p s = .next s') : s'.m.sig = s.m.sig :=
  sig_on h (by intro m; first | (simp; done) | (dsimp only; simp; done))

theorem execActivateFwNextReset_sig (p : Port) (slot : Fin 2) {s s' : State} (h : execActivateFwNextReset p slot s = .next s') : s'.m.sig = s.m.sig :=
  sig_on h (by intro m; first | (simp; done) | (dsimp only; simp; done))

theorem execActivateFwOnline_sig (p : Port) (slot : Fin 2) {s s' : State} (h : execActivateFwOnline p slot s = .next s') : s'.m.sig = s.m.sig :=
  sig_on h (by intro m; first | (simp; done) | (dsimp only; simp; done))

theorem execQueueCreate_sig (p : Port) (len : Nat) (qid : Fin 256) (depth cls : Nat) (crc : Bool) (sqBase cqBase : Nat) {s s' : State} (h : execQueueCreate p len qid depth cls crc sqBase cqBase s = .next s') : s'.m.sig = s.m.sig :=
  sig_on h (by
    intro m
    repeat' first
      | (simp; done)
      | apply Mach.mail_sig
      | (intro _; simp; done)
      | split)

theorem execQueueDelete_sig (p : Port) (len : Nat) (qid : Fin 256) {s s' : State} (h : execQueueDelete p len qid s = .next s') : s'.m.sig = s.m.sig :=
  sig_on h (by
    intro m
    repeat' first
      | (simp; done)
      | apply Mach.mail_sig
      | (intro _; simp; done)
      | split)

theorem execAbort_sig (p : Port) (len : Nat) (tag : BitVec 12) {s s' : State} (h : execAbort p len tag s = .next s') : s'.m.sig = s.m.sig :=
  sig_on h (by
    intro m
    repeat' first
      | (simp; done)
      | apply Mach.mail_sig
      | (intro _; simp; done)
      | split)

theorem execIdentifyController_sig (p : Port) (len : Nat) {s s' : State} (h : execIdentifyController p len s = .next s') : s'.m.sig = s.m.sig :=
  sig_on h (by
    intro m
    repeat' first
      | (simp; done)
      | apply Mach.mail_sig
      | (intro _; simp; done)
      | split)

theorem execGetLogExt_sig (p : Port) (len : Nat) (logId selector off length : Nat) {s s' : State} (h : execGetLogExt p len logId selector off length s = .next s') : s'.m.sig = s.m.sig :=
  sig_on h (by
    intro m
    repeat' first
      | (simp; done)
      | apply Mach.mail_sig
      | (intro _; simp; done)
      | split)

theorem execGetFeature_sig (p : Port) (len : Nat) (fid selector : Nat) {s s' : State} (h : execGetFeature p len fid selector s = .next s') : s'.m.sig = s.m.sig :=
  sig_on h (by
    intro m
    repeat' first
      | (simp; done)
      | apply Mach.mail_sig
      | (intro _; simp; done)
      | split)

theorem execSetHoldupUs_sig (p : Port) (len : Nat) (v : Nat) {s s' : State} (h : execSetHoldupUs p len v s = .next s') : s'.m.sig = s.m.sig :=
  sig_on h (by
    intro m
    repeat' first
      | (simp; done)
      | apply Mach.mail_sig
      | (intro _; simp; done)
      | split)

theorem execSetServiceKey_sig (p : Port) (len : Nat) (k : BitVec 776) {s s' : State} (h : execSetServiceKey p len k s = .next s') : s'.m.sig = s.m.sig :=
  sig_on h (by
    intro m
    repeat' first
      | (simp; done)
      | apply Mach.mail_sig
      | (intro _; simp; done)
      | split)

theorem execSetVolumeRo_sig (p : Port) (len : Nat) (vol : Vid) (v : Nat) {s s' : State} (h : execSetVolumeRo p len vol v s = .next s') : s'.m.sig = s.m.sig :=
  sig_on h (by
    intro m
    repeat' first
      | (simp; done)
      | apply Mach.mail_sig
      | (intro _; simp; done)
      | split)

theorem execVolumeCreate_sig (p : Port) (len : Nat) (x : VolArgs) {s s' : State} (h : execVolumeCreate p len x s = .next s') : s'.m.sig = s.m.sig :=
  sig_on h (by
    intro m
    repeat' first
      | (simp; done)
      | apply Mach.mail_sig
      | apply Mach.volCmd_sig
      | (intro _; simp; done)
      | split)

theorem execVolumeFormat_sig (p : Port) (len : Nat) (x : VolArgs) {s s' : State} (h : execVolumeFormat p len x s = .next s') : s'.m.sig = s.m.sig :=
  sig_on h (by
    intro m
    repeat' first
      | (simp; done)
      | apply Mach.mail_sig
      | apply Mach.volCmd_sig
      | (intro _; simp; done)
      | split)

theorem execVolumeDelete_sig (p : Port) (len : Nat) (vol : Vid) {s s' : State} (h : execVolumeDelete p len vol s = .next s') : s'.m.sig = s.m.sig :=
  sig_on h (by
    intro m
    repeat' first
      | (simp; done)
      | apply Mach.mail_sig
      | apply Mach.volCmd_sig
      | (intro _; simp; done)
      | split)

theorem execServiceUnlockChallenge_sig (p : Port) (len : Nat) {s s' : State} (h : execServiceUnlockChallenge p len s = .next s') : s'.m.sig = s.m.sig :=
  sig_on h (by
    intro m
    repeat' first
      | (simp; done)
      | apply Mach.withServiceKey_sig
      | apply Mach.mail_sig
      | (intro _; simp; done)
      | split)

theorem execServiceUnlockSignature_sig (p : Port) (len : Nat) (sig : BitVec 768) {s s' : State} (h : execServiceUnlockSignature p len sig s = .next s') : s'.m.sig = s.m.sig :=
  sig_on h (by
    intro m
    repeat' first
      | (simp; done)
      | apply Mach.withServiceKey_sig
      | apply Mach.mail_sig
      | (intro _; simp; done)
      | split)

theorem execServiceUnlockRelock_sig (p : Port) (len : Nat) {s s' : State} (h : execServiceUnlockRelock p len s = .next s') : s'.m.sig = s.m.sig :=
  sig_on h (by
    intro m
    repeat' first
      | (simp; done)
      | apply Mach.withServiceKey_sig
      | apply Mach.mail_sig
      | (intro _; simp; done)
      | split)

theorem execServiceStop_sig (p : Port) (len : Nat) (pg : Page) {s s' : State} (h : execServiceStop p len pg s = .next s') : s'.m.sig = s.m.sig :=
  sig_on h (by
    intro m
    repeat' first
      | (simp; done)
      | apply Mach.mail_sig
      | apply Mach.service_sig
      | (intro _; simp; done)
      | split)

theorem execServiceChange_sig (p : Port) (len : Nat) (pg : Page) (pairs : List (Nat × Word)) {s s' : State} (h : execServiceChange p len pg pairs s = .next s') : s'.m.sig = s.m.sig :=
  sig_on h (by
    intro m
    repeat' first
      | (simp; done)
      | apply Mach.mail_sig
      | apply Mach.service_sig
      | (intro _; simp; done)
      | split)

theorem execServiceStart_sig (p : Port) (len : Nat) (pg : Page) {s s' : State} (h : execServiceStart p len pg s = .next s') : s'.m.sig = s.m.sig :=
  sig_on h (by
    intro m
    repeat' first
      | (simp; done)
      | apply Mach.mail_sig
      | apply Mach.service_sig
      | (intro _; simp; done)
      | split)

theorem execServiceStopChangeStart_sig (p : Port) (len : Nat) (pg : Page) (pairs : List (Nat × Word)) {s s' : State} (h : execServiceStopChangeStart p len pg pairs s = .next s') : s'.m.sig = s.m.sig :=
  sig_on h (by
    intro m
    repeat' first
      | (simp; done)
      | apply Mach.mail_sig
      | apply Mach.service_sig
      | (intro _; simp; done)
      | split)

theorem execServiceRetrainFch_sig (p : Port) (len : Nat) (c : Chan) {s s' : State} (h : execServiceRetrainFch p len c s = .next s') : s'.m.sig = s.m.sig :=
  sig_on h (by
    intro m
    repeat' first
      | (simp; done)
      | apply Mach.retrain_sig
      | apply Mach.mail_sig
      | apply Mach.service_sig
      | (intro _; simp; done)
      | split)

theorem execServiceRetrainDrc_sig (p : Port) (len : Nat) (d : Fin 4) {s s' : State} (h : execServiceRetrainDrc p len d s = .next s') : s'.m.sig = s.m.sig :=
  sig_on h (by
    intro m
    repeat' first
      | (simp; done)
      | apply Mach.retrain_sig
      | apply Mach.mail_sig
      | apply Mach.service_sig
      | (intro _; simp; done)
      | split)

theorem execServiceRetrainPort_sig (p : Port) (len : Nat) (target : Port) {s s' : State} (h : execServiceRetrainPort p len target s = .next s') : s'.m.sig = s.m.sig :=
  sig_on h (by
    intro m
    repeat' first
      | (simp; done)
      | apply Mach.retrain_sig
      | apply Mach.mail_sig
      | apply Mach.service_sig
      | (intro _; simp; done)
      | split)

theorem execServiceRetire_sig (p : Port) (len : Nat) (c : Chan) {s s' : State} (h : execServiceRetire p len c s = .next s') : s'.m.sig = s.m.sig :=
  sig_on h (by
    intro m
    repeat' first
      | (simp; done)
      | apply Mach.mail_sig
      | apply Mach.service_sig
      | (intro _; simp; done)
      | split)

theorem execServiceRecalibrate_sig (p : Port) (len : Nat) (offsets : List Int) {s s' : State} (h : execServiceRecalibrate p len offsets s = .next s') : s'.m.sig = s.m.sig :=
  sig_on h (by
    intro m
    repeat' first
      | (simp; done)
      | apply Mach.mail_sig
      | apply Mach.service_sig
      | (intro _; simp; done)
      | split)

theorem execGetTransport_sig (p : Port) (len : Nat) {s s' : State} (h : execGetTransport p len s = .next s') : s'.m.sig = s.m.sig :=
  sig_on h (by
    intro m
    repeat' first
      | (simp; done)
      | apply Mach.keyMail_sig
      | (intro _; simp; done)
      | split)

theorem execImportKey_sig (p : Port) (len : Nat) (slot : Nat) (point : BitVec 776) (wrapped : BitVec 320) {s s' : State} (h : execImportKey p len slot point wrapped s = .next s') : s'.m.sig = s.m.sig :=
  sig_on h (by
    intro m
    repeat' first
      | (simp; done)
      | apply Mach.keyMail_sig
      | (intro _; simp; done)
      | split)

theorem execKeyRotate_sig (p : Port) (len : Nat) (slot : Nat) {s s' : State} (h : execKeyRotate p len slot s = .next s') : s'.m.sig = s.m.sig :=
  sig_on h (by
    intro m
    repeat' first
      | (simp; done)
      | apply Mach.keyMail_sig
      | (intro _; simp; done)
      | split)

theorem execKeyRetire_sig (p : Port) (len : Nat) (slot : Nat) {s s' : State} (h : execKeyRetire p len slot s = .next s') : s'.m.sig = s.m.sig :=
  sig_on h (by
    intro m
    repeat' first
      | (simp; done)
      | apply Mach.keyMail_sig
      | (intro _; simp; done)
      | split)

theorem execPair_sig (p : Port) (len : Nat) (serial : BitVec 160) {s s' : State} (h : execPair p len serial s = .next s') : s'.m.sig = s.m.sig :=
  sig_on h (by
    intro m
    repeat' first
      | (simp; done)
      | apply Mach.mail_sig
      | (intro _; simp; done)
      | split)

theorem execMirror_sig (p : Port) (len : Nat) (vol : Vid) (pkeySlot : Nat) {s s' : State} (h : execMirror p len vol pkeySlot s = .next s') : s'.m.sig = s.m.sig :=
  sig_on h (by
    intro m
    repeat' first
      | (simp; done)
      | apply Mach.mail_sig
      | apply Mach.twinOp_sig
      | (intro _; simp; done)
      | split)

theorem execUnmirror_sig (p : Port) (len : Nat) (vol : Vid) {s s' : State} (h : execUnmirror p len vol s = .next s') : s'.m.sig = s.m.sig :=
  sig_on h (by
    intro m
    repeat' first
      | (simp; done)
      | apply Mach.mail_sig
      | apply Mach.twinOp_sig
      | (intro _; simp; done)
      | split)

theorem execDemote_sig (p : Port) (len : Nat) (vol : Vid) (fence : Nat) {s s' : State} (h : execDemote p len vol fence s = .next s') : s'.m.sig = s.m.sig :=
  sig_on h (by
    intro m
    repeat' first
      | (simp; done)
      | apply Mach.mail_sig
      | apply Mach.twinOp_sig
      | (intro _; simp; done)
      | split)

theorem execTwinTakeover_sig (p : Port) (len : Nat) (vol : Vid) (force : Bool) (fence : Nat) {s s' : State} (h : execTwinTakeover p len vol force fence s = .next s') : s'.m.sig = s.m.sig :=
  sig_on h (by
    intro m
    repeat' first
      | (simp; done)
      | apply Mach.mail_sig
      | apply Mach.twinOp_sig
      | (intro _; simp; done)
      | split)

theorem execDefine_sig (p : Port) (len : Nat) (region : Fin 4) (lot : Bool) (vol : Vid) (base size : Nat) {s s' : State} (h : execDefine p len region lot vol base size s = .next s') : s'.m.sig = s.m.sig :=
  sig_on h (by
    intro m
    repeat' first
      | (simp; done)
      | apply Mach.mail_sig
      | (intro _; simp; done)
      | split)

theorem execDelete_sig (p : Port) (len : Nat) (region : Fin 4) {s s' : State} (h : execDelete p len region s = .next s') : s'.m.sig = s.m.sig :=
  sig_on h (by
    intro m
    repeat' first
      | (simp; done)
      | apply Mach.mail_sig
      | (intro _; simp; done)
      | split)

theorem execSetLot_sig (p : Port) (len : Nat) (region : Fin 4) (lot : Bool) {s s' : State} (h : execSetLot p len region lot s = .next s') : s'.m.sig = s.m.sig :=
  sig_on h (by
    intro m
    repeat' first
      | (simp; done)
      | apply Mach.mail_sig
      | (intro _; simp; done)
      | split)

theorem execSetFeature_le (p : Port) (len : Nat) (fid selector : Nat) (v : Nat) {s s' : State} (h : execSetFeature p len fid selector v s = .next s') : Mach.SigLe s.m s'.m := by
  rw [eq_on h]
  exact mail_le (h := setFeature_le ..) ..

theorem execSetSvCommit_le (p : Port) (len : Nat) (v : Nat) {s s' : State} (h : execSetSvCommit p len v s = .next s') : Mach.SigLe s.m s'.m := by
  rw [eq_on h]
  exact mail_le (h := svCommit_le ..) ..

/-! ### The commands that wait their turn -/

theorem mailExec_le {i : Instr} {s s' : State} (h : mailExec i s = .next s') : Mach.SigLe s.m s'.m := by
  cases i
  case getEventRecords => exact le_of_sig (execGetEventRecords_sig (h := h) ..)
  case clearEventRecords => exact le_of_sig (execClearEventRecords_sig (h := h) ..)
  case getFwInfo => exact le_of_sig (execGetFwInfo_sig (h := h) ..)
  case getSupportedLogs => exact le_of_sig (execGetSupportedLogs_sig (h := h) ..)
  case getLog => exact le_of_sig (execGetLog_sig (h := h) ..)
  case identifyMemoryDevice => exact le_of_sig (execIdentifyMemoryDevice_sig (h := h) ..)
  case getHealthInfo => exact le_of_sig (execGetHealthInfo_sig (h := h) ..)
  case getPoisonList => exact le_of_sig (execGetPoisonList_sig (h := h) ..)
  case unsupportedOpcode => exact le_of_sig (execUnsupportedOpcode_sig (h := h) ..)
  case invalidVendorOpcode => exact le_of_sig (execInvalidVendorOpcode_sig (h := h) ..)
  case transferFwFull => exact le_of_sig (execTransferFwFull_sig (h := h) ..)
  case transferFwInitiate => exact le_of_sig (execTransferFwInitiate_sig (h := h) ..)
  case transferFwContinue => exact le_of_sig (execTransferFwContinue_sig (h := h) ..)
  case transferFwEnd => exact le_of_sig (execTransferFwEnd_sig (h := h) ..)
  case transferFwAbort => exact le_of_sig (execTransferFwAbort_sig (h := h) ..)
  case activateFwNextReset => exact le_of_sig (execActivateFwNextReset_sig (h := h) ..)
  case activateFwOnline => exact le_of_sig (execActivateFwOnline_sig (h := h) ..)
  case queueCreate => exact le_of_sig (execQueueCreate_sig (h := h) ..)
  case queueDelete => exact le_of_sig (execQueueDelete_sig (h := h) ..)
  case abort => exact le_of_sig (execAbort_sig (h := h) ..)
  case identifyController => exact le_of_sig (execIdentifyController_sig (h := h) ..)
  case getLogExt => exact le_of_sig (execGetLogExt_sig (h := h) ..)
  case getFeature => exact le_of_sig (execGetFeature_sig (h := h) ..)
  case setFeature => exact execSetFeature_le (h := h) ..
  case setHoldupUs => exact le_of_sig (execSetHoldupUs_sig (h := h) ..)
  case setServiceKey => exact le_of_sig (execSetServiceKey_sig (h := h) ..)
  case setSvCommit => exact execSetSvCommit_le (h := h) ..
  case setVolumeRo => exact le_of_sig (execSetVolumeRo_sig (h := h) ..)
  case volumeCreate => exact le_of_sig (execVolumeCreate_sig (h := h) ..)
  case volumeFormat => exact le_of_sig (execVolumeFormat_sig (h := h) ..)
  case volumeDelete => exact le_of_sig (execVolumeDelete_sig (h := h) ..)
  case serviceUnlockChallenge => exact le_of_sig (execServiceUnlockChallenge_sig (h := h) ..)
  case serviceUnlockSignature => exact le_of_sig (execServiceUnlockSignature_sig (h := h) ..)
  case serviceUnlockRelock => exact le_of_sig (execServiceUnlockRelock_sig (h := h) ..)
  case serviceStop => exact le_of_sig (execServiceStop_sig (h := h) ..)
  case serviceChange => exact le_of_sig (execServiceChange_sig (h := h) ..)
  case serviceStart => exact le_of_sig (execServiceStart_sig (h := h) ..)
  case serviceStopChangeStart => exact le_of_sig (execServiceStopChangeStart_sig (h := h) ..)
  case serviceRetrainFch => exact le_of_sig (execServiceRetrainFch_sig (h := h) ..)
  case serviceRetrainDrc => exact le_of_sig (execServiceRetrainDrc_sig (h := h) ..)
  case serviceRetrainPort => exact le_of_sig (execServiceRetrainPort_sig (h := h) ..)
  case serviceRetire => exact le_of_sig (execServiceRetire_sig (h := h) ..)
  case serviceRecalibrate => exact le_of_sig (execServiceRecalibrate_sig (h := h) ..)
  case getTransport => exact le_of_sig (execGetTransport_sig (h := h) ..)
  case importKey => exact le_of_sig (execImportKey_sig (h := h) ..)
  case keyRotate => exact le_of_sig (execKeyRotate_sig (h := h) ..)
  case keyRetire => exact le_of_sig (execKeyRetire_sig (h := h) ..)
  case pair => exact le_of_sig (execPair_sig (h := h) ..)
  case mirror => exact le_of_sig (execMirror_sig (h := h) ..)
  case unmirror => exact le_of_sig (execUnmirror_sig (h := h) ..)
  case demote => exact le_of_sig (execDemote_sig (h := h) ..)
  case twinTakeover => exact le_of_sig (execTwinTakeover_sig (h := h) ..)
  case define => exact le_of_sig (execDefine_sig (h := h) ..)
  case delete => exact le_of_sig (execDelete_sig (h := h) ..)
  case setLot => exact le_of_sig (execSetLot_sig (h := h) ..)
  all_goals (cases h; exact le_of_sig rfl)

theorem mailStep_le (m : Mach) : Mach.SigLe m m.mailStep := by
  unfold Mach.mailStep
  split
  · exact le_of_sig rfl
  · rename_i e _
    dsimp only
    have h : Mach.SigLe m ((m.updAdm fun a => { a with mboxQ := [] }).after
        (mailExec e.2 { m := m.updAdm fun a => { a with mboxQ := [] } })) := by
      unfold Mach.after
      split
      · rename_i ht
        exact le_trans (le_of_sig rfl) (mailExec_le ht)
      · exact le_of_sig rfl
    exact le_trans h (le_of_sig rfl)

theorem mailRun_le (m : Mach) : Mach.SigLe m m.mailRun := le_each _ _ _ fun _ m => mailStep_le m

@[simp] theorem ctlExec_sig (i : Instr) (m : Mach) : (ctlExec i m).sig = m.sig := by
  unfold ctlExec
  split <;> simp

@[simp] theorem ctlStep_sig (m : Mach) : m.ctlStep.sig = m.sig := by
  unfold Mach.ctlStep
  split
  · rfl
  · split <;> simp

@[simp] theorem ctlRun_sig (m : Mach) : m.ctlRun.sig = m.sig := by
  unfold Mach.ctlRun
  dsimp only
  rw [Mach.each_sig (h := fun _ m => ctlStep_sig m), Mach.each_sig (h := fun ws m => by simp)]
  rfl

theorem le_onMail {s s' : State} {f : Mach → Mach} (h : s.onMail f = .next s') (hf : ∀ m : Mach, (f m).sig = m.sig) :
    Mach.SigLe s.m s'.m := by
  cases h
  exact le_trans (le_of_sig ((ctlRun_sig _).trans (hf s.m))) (mailRun_le _)

/-! ### The other commands -/

theorem execPageStart_sig (a : Agent) (p : Page) {s s' : State} (h : execPageStart a p s = .next s') : s'.m.sig = s.m.sig :=
  sig_on h (by
    intro m
    repeat' first
      | (simp; done)
      | apply Mach.pageCmd_sig
      | (intro _; simp; done)
      | split)

theorem execPageStop_le (a : Agent) (p : Page) {s s' : State} (h : execPageStop a p s = .next s') : Mach.SigLe s.m s'.m :=
  le_onMail h (by
    intro m
    repeat' first
      | (simp; done)
      | (rw [Mach.when_sig (h := fun m => by simp)]; simp; done)
      | apply Mach.pageCmd_sig
      | (intro _; simp; done)
      | split)

theorem execPageClearFault_sig (a : Agent) (p : Page) {s s' : State} (h : execPageClearFault a p s = .next s') : s'.m.sig = s.m.sig :=
  sig_on h (by
    intro m
    repeat' first
      | (simp; done)
      | apply Mach.pageCmd_sig
      | (intro _; simp; done)
      | split)

theorem execPageStartingEnd_le (p : Page) (trained : Bool) {s s' : State} (h : execPageStartingEnd p trained s = .next s') : Mach.SigLe s.m s'.m :=
  le_onMail h (by
    intro m
    repeat' first
      | (simp; done)
      | (rw [Mach.when_sig (h := fun m => by simp)]; simp; done)
      | (intro _; simp; done)
      | split)

theorem execPageStoppingEnd_sig (p : Page) {s s' : State} (h : execPageStoppingEnd p s = .next s') : s'.m.sig = s.m.sig :=
  sig_on h (by intro m; first | (simp; done) | (dsimp only; simp; done))

theorem execBlockFault_le (p : Page) (parity : Bool) {s s' : State} (h : execBlockFault p parity s = .next s') : Mach.SigLe s.m s'.m :=
  le_onMail h (by
    intro m
    repeat' first
      | (simp; done)
      | (rw [Mach.when_sig (h := fun m => by simp)]; simp; done)
      | (intro _; simp; done)
      | split)

theorem execRegisterWrite_le (a : Agent) (off width : Nat) (v : BitVec 64) {s s' : State} (h : execRegisterWrite a off width v s = .next s') : Mach.SigLe s.m s'.m :=
  le_onMail h (by
    intro m
    repeat' first
      | (simp; done)
      | (rw [Mach.when_sig (h := fun m => by simp)]; simp; done)
      | (intro _; simp; done)
      | split)

theorem execRcRegisterRead_sig (a : Agent) (off width : Nat) {s s' : State} (h : execRcRegisterRead a off width s = .next s') : s'.m.sig = s.m.sig :=
  sig_on h (by intro m; first | (simp; done) | (dsimp only; simp; done))

theorem execPeakFieldRead_sig (a : Agent) (off width : Nat) {s s' : State} (h : execPeakFieldRead a off width s = .next s') : s'.m.sig = s.m.sig :=
  sig_on h (by intro m; first | (simp; done) | (dsimp only; simp; done))

theorem execPfPush_sig (src : Source) (n : Fin 8) (w : Word) (frameOk : Bool) {s s' : State} (h : execPfPush src n w frameOk s = .next s') : s'.m.sig = s.m.sig :=
  sig_on h (by
    intro m
    repeat' first
      | (simp; done)
      | apply Mach.pffBy_sig
      | (intro _; simp; done)
      | split)

theorem execPfCtrlEnd_sig (src : Source) (n : Fin 8) {s s' : State} (h : execPfCtrlEnd src n s = .next s') : s'.m.sig = s.m.sig :=
  sig_on h (by
    intro m
    repeat' first
      | (simp; done)
      | apply Mach.pffBy_sig
      | (intro _; simp; done)
      | split)

theorem execPfCtrlAbort_sig (src : Source) (n : Fin 8) {s s' : State} (h : execPfCtrlAbort src n s = .next s') : s'.m.sig = s.m.sig :=
  sig_on h (by
    intro m
    repeat' first
      | (simp; done)
      | apply Mach.pffBy_sig
      | (intro _; simp; done)
      | split)

theorem execPfCtrlDrop_sig (a : Agent) (n : Fin 8) {s s' : State} (h : execPfCtrlDrop a n s = .next s') : s'.m.sig = s.m.sig :=
  sig_on h (by intro m; first | (simp; done) | (dsimp only; simp; done))

theorem execPfDataRead_sig (a : Agent) (n : Fin 8) (width : Nat) {s s' : State} (h : execPfDataRead a n width s = .next s') : s'.m.sig = s.m.sig :=
  sig_on h (by intro m; first | (simp; done) | (dsimp only; simp; done))

theorem execPfPushStallComplete_sig (n : Fin 8) {s s' : State} (h : execPfPushStallComplete n s = .next s') : s'.m.sig = s.m.sig :=
  sig_on h (by intro m; first | (simp; done) | (dsimp only; simp; done))

theorem execPacketVisible_sig (n : Fin 8) {s s' : State} (h : execPacketVisible n s = .next s') : s'.m.sig = s.m.sig :=
  sig_on h (by
    intro m
    repeat' first
      | (simp; done)
      | (rw [Mach.when_sig (h := fun m => by simp)]; simp; done)
      | (intro _; simp; done)
      | split)

theorem execPwrgdFall_sig {s s' : State} (h : execPwrgdFall  s = .next s') : s'.m.sig = s.m.sig :=
  sig_on h (by intro m; first | (simp; done) | (dsimp only; simp; done))

theorem execSmbusImmediateReset_sig (pecOk : Bool) {s s' : State} (h : execSmbusImmediateReset pecOk s = .next s') : s'.m.sig = s.m.sig :=
  sig_on h (by
    intro m
    repeat' first
      | (simp; done)
      | apply Mach.smbusRequest_sig
      | (intro _; simp; done)
      | split)

theorem execSmbusOrderlyReset_sig (pecOk : Bool) {s s' : State} (h : execSmbusOrderlyReset pecOk s = .next s') : s'.m.sig = s.m.sig :=
  sig_on h (by
    intro m
    repeat' first
      | (simp; done)
      | apply Mach.smbusRequest_sig
      | (intro _; simp; done)
      | split)

theorem execSmbusStatusWindow_sig {s s' : State} (h : execSmbusStatusWindow  s = .next s') : s'.m.sig = s.m.sig :=
  sig_on h (by intro m; first | (simp; done) | (dsimp only; simp; done))

theorem execWatchdogExpiry_sig {s s' : State} (h : execWatchdogExpiry  s = .next s') : s'.m.sig = s.m.sig :=
  sig_on h (by intro m; first | (simp; done) | (dsimp only; simp; done))

theorem execDevWdogWrite_sig (a : Agent) (v : Word) {s s' : State} (h : execDevWdogWrite a v s = .next s') : s'.m.sig = s.m.sig :=
  sig_on h (by intro m; first | (simp; done) | (dsimp only; simp; done))

theorem execSlotCheck_sig (r : SlotRead) {s s' : State} (h : execSlotCheck r s = .next s') : s'.m.sig = s.m.sig :=
  sig_on h (by intro m; first | (simp; done) | (dsimp only; simp; done))

theorem execManagementFirmwareStart_le  {s s' : State} (h : execManagementFirmwareStart s = .next s') : Mach.SigLe s.m s'.m :=
  le_onMail h (by
    intro m
    repeat' first
      | (simp; done)
      | (rw [Mach.when_sig (h := fun m => by simp)]; simp; done)
      | (intro _; simp; done)
      | split)

theorem execDramTrainingDone_sig (d : Fin 4) (ok : Bool) {s s' : State} (h : execDramTrainingDone d ok s = .next s') : s'.m.sig = s.m.sig :=
  sig_on h (by intro m; first | (simp; done) | (dsimp only; simp; done))

theorem execFlashTrainingDone_sig (c : Chan) (t : ChanTraining) {s s' : State} (h : execFlashTrainingDone c t s = .next s') : s'.m.sig = s.m.sig :=
  sig_on h (by intro m; first | (simp; done) | (dsimp only; simp; done))

theorem execDevBootctlGo_sig (x1 : Agent) {s s' : State} (h : execDevBootctlGo x1 s = .next s') : s'.m.sig = s.m.sig :=
  sig_on h (by intro m; first | (simp; done) | (dsimp only; simp; done))

theorem execHeadlandLoadDone_sig (unreadable : List Nat) {s s' : State} (h : execHeadlandLoadDone unreadable s = .next s') : s'.m.sig = s.m.sig :=
  sig_on h (by intro m; first | (simp; done) | (dsimp only; simp; done))

theorem execReplayDone_sig (unreadable : List Nat) {s s' : State} (h : execReplayDone unreadable s = .next s') : s'.m.sig = s.m.sig :=
  sig_on h (by intro m; first | (simp; done) | (dsimp only; simp; done))

theorem execInterruptedEraseReerase_sig (c : Chan) (r : Row) (b : Nat) {s s' : State} (h : execInterruptedEraseReerase c r b s = .next s') : s'.m.sig = s.m.sig :=
  sig_on h (by intro m; first | (simp; done) | (dsimp only; simp; done))

theorem execShutdownRequest_sig (x1 : Agent) {s s' : State} (h : execShutdownRequest x1 s = .next s') : s'.m.sig = s.m.sig :=
  sig_on h (by intro m; first | (simp; done) | (dsimp only; simp; done))

theorem execShutdownPhaseEnd_sig {s s' : State} (h : execShutdownPhaseEnd  s = .next s') : s'.m.sig = s.m.sig :=
  sig_on h (by
    intro m
    repeat' first
      | (simp; done)
      | apply Mach.when_sig
      | (intro _; simp; done)
      | split)

theorem execPerstNAssert_le (p : Port) {s s' : State} (h : execPerstNAssert p s = .next s') : Mach.SigLe s.m s'.m :=
  le_onMail h (by
    intro m
    repeat' first
      | (simp; done)
      | (rw [Mach.when_sig (h := fun m => by simp)]; simp; done)
      | (intro _; simp; done)
      | split)

theorem execPerstNDeassert_sig (p : Port) {s s' : State} (h : execPerstNDeassert p s = .next s') : s'.m.sig = s.m.sig :=
  sig_on h (by intro m; first | (simp; done) | (dsimp only; simp; done))

theorem execLinkHotReset_le (p : Port) {s s' : State} (h : execLinkHotReset p s = .next s') : Mach.SigLe s.m s'.m :=
  le_onMail h (by
    intro m
    repeat' first
      | (simp; done)
      | (rw [Mach.when_sig (h := fun m => by simp)]; simp; done)
      | (intro _; simp; done)
      | split)

theorem execLinkUp_le (p : Port) (width speed : Nat) (cxl rev : Bool) {s s' : State} (h : execLinkUp p width speed cxl rev s = .next s') : Mach.SigLe s.m s'.m :=
  le_onMail h (by
    intro m
    repeat' first
      | (simp; done)
      | (rw [Mach.when_sig (h := fun m => by simp)]; simp; done)
      | (intro _; simp; done)
      | split)

theorem execLinkDown_sig (p : Port) {s s' : State} (h : execLinkDown p s = .next s') : s'.m.sig = s.m.sig :=
  sig_on h (by intro m; first | (simp; done) | (dsimp only; simp; done))

theorem execPfailNAssert_sig {s s' : State} (h : execPfailNAssert  s = .next s') : s'.m.sig = s.m.sig :=
  sig_on h (by intro m; first | (simp; done) | (dsimp only; simp; done))

theorem execProgramsInFlightEnd_sig {s s' : State} (h : execProgramsInFlightEnd  s = .next s') : s'.m.sig = s.m.sig :=
  sig_on h (by intro m; first | (simp; done) | (dsimp only; simp; done))

theorem execDumpEnd_sig (complete : Bool) {s s' : State} (h : execDumpEnd complete s = .next s') : s'.m.sig = s.m.sig :=
  sig_on h (by intro m; first | (simp; done) | (dsimp only; simp; done))

theorem execPfailNRelease_sig {s s' : State} (h : execPfailNRelease  s = .next s') : s'.m.sig = s.m.sig :=
  sig_on h (by intro m; first | (simp; done) | (dsimp only; simp; done))

theorem execHdmDecoderCommit_sig (p : Port) (k : Fin 4) (base size skip : Nat) (lock : Bool) {s s' : State} (h : execHdmDecoderCommit p k base size skip lock s = .next s') : s'.m.sig = s.m.sig :=
  sig_on h (by intro m; first | (simp; done) | (dsimp only; simp; done))

theorem execCxlMemRead_sig (p : Port) (hpa : Nat) (e : MemErr) {s s' : State} (h : execCxlMemRead p hpa e s = .next s') : s'.m.sig = s.m.sig :=
  sig_on h (by intro m; first | (simp; done) | (dsimp only; simp; done))

theorem execCxlMemWrite_sig (p : Port) (hpa : Nat) (d : Line) (e : MemErr) {s s' : State} (h : execCxlMemWrite p hpa d e s = .next s') : s'.m.sig = s.m.sig :=
  sig_on h (by intro m; first | (simp; done) | (dsimp only; simp; done))

theorem execCxlMemPoisonedWrite_sig (p : Port) (hpa : Nat) (e : MemErr) {s s' : State} (h : execCxlMemPoisonedWrite p hpa e s = .next s') : s'.m.sig = s.m.sig :=
  sig_on h (by intro m; first | (simp; done) | (dsimp only; simp; done))

theorem execCapholdRelease_sig {s s' : State} (h : execCapholdRelease  s = .next s') : s'.m.sig = s.m.sig :=
  sig_on h (by intro m; first | (simp; done) | (dsimp only; simp; done))

theorem execViralReceived_sig (p : Port) {s s' : State} (h : execViralReceived p s = .next s') : s'.m.sig = s.m.sig :=
  sig_on h (by intro m; first | (simp; done) | (dsimp only; simp; done))

theorem execGpfPhase1_sig (p : Port) {s s' : State} (h : execGpfPhase1 p s = .next s') : s'.m.sig = s.m.sig :=
  sig_on h (by intro m; first | (simp; done) | (dsimp only; simp; done))

theorem execGpfPhase2_sig (p : Port) {s s' : State} (h : execGpfPhase2 p s = .next s') : s'.m.sig = s.m.sig :=
  sig_on h (by intro m; first | (simp; done) | (dsimp only; simp; done))

theorem execD3hotEntry_sig (p : Port) {s s' : State} (h : execD3hotEntry p s = .next s') : s'.m.sig = s.m.sig :=
  sig_on h (by intro m; first | (simp; done) | (dsimp only; simp; done))

theorem execD3hotExit_le (p : Port) {s s' : State} (h : execD3hotExit p s = .next s') : Mach.SigLe s.m s'.m :=
  le_onMail h (by
    intro m
    repeat' first
      | (simp; done)
      | (rw [Mach.when_sig (h := fun m => by simp)]; simp; done)
      | (intro _; simp; done)
      | split)

theorem execDoeDiscovery_sig (p : Port) (index : Byte) {s s' : State} (h : execDoeDiscovery p index s = .next s') : s'.m.sig = s.m.sig :=
  sig_on h (by intro m; first | (simp; done) | (dsimp only; simp; done))

theorem execCdatTableAccess_sig (p : Port) (handle : Nat) {s s' : State} (h : execCdatTableAccess p handle s = .next s') : s'.m.sig = s.m.sig :=
  sig_on h (by intro m; first | (simp; done) | (dsimp only; simp; done))

theorem execGetCertificate_sig (p : Port) (off length : Nat) {s s' : State} (h : execGetCertificate p off length s = .next s') : s'.m.sig = s.m.sig :=
  sig_on h (by intro m; first | (simp; done) | (dsimp only; simp; done))

theorem execChallenge_sig (p : Port) (summary : Bool) (nonce : BitVec 384) {s s' : State} (h : execChallenge p summary nonce s = .next s') : s'.m.sig = s.m.sig :=
  sig_on h (by intro m; first | (simp; done) | (dsimp only; simp; done))

theorem execGetMeasurements_sig (p : Port) (index : Byte) (sign : Bool) (nonce : BitVec 384) {s s' : State} (h : execGetMeasurements p index sign nonce s = .next s') : s'.m.sig = s.m.sig :=
  sig_on h (by intro m; first | (simp; done) | (dsimp only; simp; done))

theorem execHitlessSwitchPause_sig {s s' : State} (h : execHitlessSwitchPause  s = .next s') : s'.m.sig = s.m.sig :=
  sig_on h (by intro m; first | (simp; done) | (dsimp only; simp; done))

theorem execHitlessSwitchReady_le  {s s' : State} (h : execHitlessSwitchReady s = .next s') : Mach.SigLe s.m s'.m :=
  le_onMail h (by
    intro m
    repeat' first
      | (simp; done)
      | (rw [Mach.when_sig (h := fun m => by simp)]; simp; done)
      | (intro _; simp; done)
      | split)

theorem execHitlessSwitchRollback_le  {s s' : State} (h : execHitlessSwitchRollback s = .next s') : Mach.SigLe s.m s'.m :=
  le_onMail h (by
    intro m
    repeat' first
      | (simp; done)
      | (rw [Mach.when_sig (h := fun m => by simp)]; simp; done)
      | (intro _; simp; done)
      | split)

theorem execSqTailDoorbell_sig (a : Agent) (qid : Fin 256) (v : Word) {s s' : State} (h : execSqTailDoorbell a qid v s = .next s') : s'.m.sig = s.m.sig :=
  sig_on h (by intro m; first | (simp; done) | (dsimp only; simp; done))

theorem execCqHeadDoorbell_sig (a : Agent) (qid : Fin 256) (v : Word) {s s' : State} (h : execCqHeadDoorbell a qid v s = .next s') : s'.m.sig = s.m.sig :=
  sig_on h (by intro m; first | (simp; done) | (dsimp only; simp; done))

theorem execFetchArbitration_sig  {s s' : State} (h : execFetchArbitration s = .next s') : s'.m.sig = s.m.sig :=
  sig_on h (by
    intro m
    repeat' first
      | (simp; done)
      | (rw [Mach.when_sig (h := fun m => by simp)]; simp; done)
      | (intro _; simp; done)
      | split)

theorem execFetchReadReturn_sig (id : Nat) (entries : List Entry) {s s' : State} (h : execFetchReadReturn id entries s = .next s') : s'.m.sig = s.m.sig :=
  sig_on h (by intro m; first | (simp; done) | (dsimp only; simp; done))

theorem execFetchReadFailure_sig (id : Nat) {s s' : State} (h : execFetchReadFailure id s = .next s') : s'.m.sig = s.m.sig :=
  sig_on h (by intro m; first | (simp; done) | (dsimp only; simp; done))

theorem execCommandAdmission_sig {s s' : State} (h : execCommandAdmission  s = .next s') : s'.m.sig = s.m.sig :=
  sig_on h (by intro m; first | (simp; done) | (dsimp only; simp; done))

theorem execWrite_sig (slot : Fin 4096) {s s' : State} (h : execWrite slot s = .next s') : s'.m.sig = s.m.sig :=
  sig_on h (by intro m; first | (simp; done) | (dsimp only; simp; done))

theorem execRead_sig (slot : Fin 4096) (lost : List DramUser) {s s' : State} (h : execRead slot lost s = .next s') : s'.m.sig = s.m.sig :=
  sig_on h (by intro m; first | (simp; done) | (dsimp only; simp; done))

theorem execFlush_sig (slot : Fin 4096) {s s' : State} (h : execFlush slot s = .next s') : s'.m.sig = s.m.sig :=
  sig_on h (by intro m; first | (simp; done) | (dsimp only; simp; done))

theorem execDeallocate_sig (slot : Fin 4096) {s s' : State} (h : execDeallocate slot s = .next s') : s'.m.sig = s.m.sig :=
  sig_on h (by intro m; first | (simp; done) | (dsimp only; simp; done))

theorem execVerify_sig (slot : Fin 4096) (lost : List DramUser) {s s' : State} (h : execVerify slot lost s = .next s') : s'.m.sig = s.m.sig :=
  sig_on h (by intro m; first | (simp; done) | (dsimp only; simp; done))

theorem execLight_sig (slot : Fin 4096) (lost : List DramUser) {s s' : State} (h : execLight slot lost s = .next s') : s'.m.sig = s.m.sig :=
  sig_on h (by
    intro m
    repeat' first
      | (simp; done)
      | (rw [Mach.when_sig (h := fun m => by simp)]; simp; done)
      | (intro _; simp; done)
      | split)

theorem execDouse_sig (slot : Fin 4096) (lost : List DramUser) {s s' : State} (h : execDouse slot lost s = .next s') : s'.m.sig = s.m.sig :=
  sig_on h (by
    intro m
    repeat' first
      | (simp; done)
      | (rw [Mach.when_sig (h := fun m => by simp)]; simp; done)
      | (intro _; simp; done)
      | split)

theorem execPersist_sig (slot : Fin 4096) (lost : List DramUser) {s s' : State} (h : execPersist slot lost s = .next s') : s'.m.sig = s.m.sig :=
  sig_on h (by
    intro m
    repeat' first
      | (simp; done)
      | (rw [Mach.when_sig (h := fun m => by simp)]; simp; done)
      | (intro _; simp; done)
      | split)

theorem execSglListReadReturn_sig (slot : Fin 4096) (ok : Bool) (elems : List (BitVec 128)) {s s' : State} (h : execSglListReadReturn slot ok elems s = .next s') : s'.m.sig = s.m.sig :=
  sig_on h (by intro m; first | (simp; done) | (dsimp only; simp; done))

theorem execWriteDataArrival_sig (slot : Fin 4096) (d : Block) {s s' : State} (h : execWriteDataArrival slot d s = .next s') : s'.m.sig = s.m.sig :=
  sig_on h (by
    intro m
    repeat' first
      | (simp; done)
      | (rw [Mach.when_sig (h := fun m => by simp)]; simp; done)
      | (intro _; simp; done)
      | split)

theorem execWriteDataReadFailure_sig (slot : Fin 4096) {s s' : State} (h : execWriteDataReadFailure slot s = .next s') : s'.m.sig = s.m.sig :=
  sig_on h (by intro m; first | (simp; done) | (dsimp only; simp; done))

theorem execWriteTransferResume_sig (slot : Fin 4096) {s s' : State} (h : execWriteTransferResume slot s = .next s') : s'.m.sig = s.m.sig :=
  sig_on h (by intro m; first | (simp; done) | (dsimp only; simp; done))

theorem execQueueDeleteEnd_le (qid : Fin 256) {s s' : State} (h : execQueueDeleteEnd qid s = .next s') : Mach.SigLe s.m s'.m :=
  le_onMail h (by
    intro m
    repeat' first
      | (simp; done)
      | (rw [Mach.when_sig (h := fun m => by simp)]; simp; done)
      | (intro _; simp; done)
      | split)

theorem execAbortDecision_le  {s s' : State} (h : execAbortDecision s = .next s') : Mach.SigLe s.m s'.m :=
  le_onMail h (by
    intro m
    repeat' first
      | (simp; done)
      | (rw [Mach.when_sig (h := fun m => by simp)]; simp; done)
      | (intro _; simp; done)
      | split)

theorem execVolumeRepeat_sig (vol : Vid) {s s' : State} (h : execVolumeRepeat vol s = .next s') : s'.m.sig = s.m.sig :=
  sig_on h (by intro m; first | (simp; done) | (dsimp only; simp; done))

theorem execSignatureLockout_sig {s s' : State} (h : execSignatureLockout  s = .next s') : s'.m.sig = s.m.sig :=
  sig_on h (by intro m; first | (simp; done) | (dsimp only; simp; done))

theorem execRetrainDone_sig (ok : Bool) {s s' : State} (h : execRetrainDone ok s = .next s') : s'.m.sig = s.m.sig :=
  sig_on h (by intro m; first | (simp; done) | (dsimp only; simp; done))

theorem execRebuildComplete_sig {s s' : State} (h : execRebuildComplete  s = .next s') : s'.m.sig = s.m.sig :=
  sig_on h (by intro m; first | (simp; done) | (dsimp only; simp; done))

theorem execLightLbFill_sig (task : Nat) {s s' : State} (h : execLightLbFill task s = .next s') : s'.m.sig = s.m.sig :=
  sig_on h (by intro m; first | (simp; done) | (dsimp only; simp; done))

theorem execTouchLightRun_sig {s s' : State} (h : execTouchLightRun  s = .next s') : s'.m.sig = s.m.sig :=
  sig_on h (by intro m; first | (simp; done) | (dsimp only; simp; done))

theorem execAutoWriteback_sig {s s' : State} (h : execAutoWriteback  s = .next s') : s'.m.sig = s.m.sig :=
  sig_on h (by intro m; first | (simp; done) | (dsimp only; simp; done))

theorem execLanternFetchReturn_sig (e : MemErr) {s s' : State} (h : execLanternFetchReturn e s = .next s') : s'.m.sig = s.m.sig :=
  sig_on h (by intro m; first | (simp; done) | (dsimp only; simp; done))

theorem execLanternWritebackDone_sig (i : Fin 64) {s s' : State} (h : execLanternWritebackDone i s = .next s') : s'.m.sig = s.m.sig :=
  sig_on h (by intro m; first | (simp; done) | (dsimp only; simp; done))

theorem execLanternEntryOff_sig (i : Fin 64) {s s' : State} (h : execLanternEntryOff i s = .next s') : s'.m.sig = s.m.sig :=
  sig_on h (by intro m; first | (simp; done) | (dsimp only; simp; done))

theorem execLntCtrlEnWrite_sig (a : Agent) (en : Bool) {s s' : State} (h : execLntCtrlEnWrite a en s = .next s') : s'.m.sig = s.m.sig :=
  sig_on h (by intro m; first | (simp; done) | (dsimp only; simp; done))

theorem execLanternFlushEnd_sig {s s' : State} (h : execLanternFlushEnd  s = .next s') : s'.m.sig = s.m.sig :=
  sig_on h (by intro m; first | (simp; done) | (dsimp only; simp; done))

theorem execMapProbe_sig (a : Agent) (hi : Word) {s s' : State} (h : execMapProbe a hi s = .next s') : s'.m.sig = s.m.sig :=
  sig_on h (by intro m; first | (simp; done) | (dsimp only; simp; done))

theorem execDrgDecode_sig (a : Agent) (hi : Word) {s s' : State} (h : execDrgDecode a hi s = .next s') : s'.m.sig = s.m.sig :=
  sig_on h (by intro m; first | (simp; done) | (dsimp only; simp; done))

theorem execAptUnlock1Write_sig (a : Agent) (d : Die) (v : BitVec 16) {s s' : State} (h : execAptUnlock1Write a d v s = .next s') : s'.m.sig = s.m.sig :=
  sig_on h (by
    intro m
    repeat' first
      | (simp; done)
      | apply Mach.apt_sig
      | (intro _; simp; done)
      | split)

theorem execAptUnlock2Write_sig (a : Agent) (d : Die) (v : BitVec 16) {s s' : State} (h : execAptUnlock2Write a d v s = .next s') : s'.m.sig = s.m.sig :=
  sig_on h (by
    intro m
    repeat' first
      | (simp; done)
      | apply Mach.apt_sig
      | (intro _; simp; done)
      | split)

theorem execParameterBlockWrite_sig (a : Agent) (d : Die) (off : Nat) (v : Word) {s s' : State} (h : execParameterBlockWrite a d off v s = .next s') : s'.m.sig = s.m.sig :=
  sig_on h (by
    intro m
    repeat' first
      | (simp; done)
      | apply Mach.apt_sig
      | (intro _; simp; done)
      | split)

theorem execAptStageWrite_sig (a : Agent) (d : Die) (off : Nat) (v : Word) {s s' : State} (h : execAptStageWrite a d off v s = .next s') : s'.m.sig = s.m.sig :=
  sig_on h (by
    intro m
    repeat' first
      | (simp; done)
      | apply Mach.apt_sig
      | (intro _; simp; done)
      | split)

theorem execReadPage_sig (a : Agent) (d : Die) {s s' : State} (h : execReadPage a d s = .next s') : s'.m.sig = s.m.sig :=
  sig_on h (by
    intro m
    repeat' first
      | (simp; done)
      | apply Mach.aptCode_sig
      | (intro _; simp; done)
      | split)

theorem execReadPageCache_sig (a : Agent) (d : Die) {s s' : State} (h : execReadPageCache a d s = .next s') : s'.m.sig = s.m.sig :=
  sig_on h (by
    intro m
    repeat' first
      | (simp; done)
      | apply Mach.aptCode_sig
      | (intro _; simp; done)
      | split)

theorem execProgramPage_sig (a : Agent) (d : Die) {s s' : State} (h : execProgramPage a d s = .next s') : s'.m.sig = s.m.sig :=
  sig_on h (by
    intro m
    repeat' first
      | (simp; done)
      | apply Mach.aptCode_sig
      | (intro _; simp; done)
      | split)

theorem execProgramNested_sig (a : Agent) (d : Die) {s s' : State} (h : execProgramNested a d s = .next s') : s'.m.sig = s.m.sig :=
  sig_on h (by
    intro m
    repeat' first
      | (simp; done)
      | apply Mach.aptCode_sig
      | (intro _; simp; done)
      | split)

theorem execEraseBlock_sig (a : Agent) (d : Die) {s s' : State} (h : execEraseBlock a d s = .next s') : s'.m.sig = s.m.sig :=
  sig_on h (by
    intro m
    repeat' first
      | (simp; done)
      | apply Mach.aptCode_sig
      | (intro _; simp; done)
      | split)

theorem execSuspend_sig (a : Agent) (d : Die) {s s' : State} (h : execSuspend a d s = .next s') : s'.m.sig = s.m.sig :=
  sig_on h (by
    intro m
    repeat' first
      | (simp; done)
      | apply Mach.aptCode_sig
      | (intro _; simp; done)
      | split)

theorem execResume_sig (a : Agent) (d : Die) {s s' : State} (h : execResume a d s = .next s') : s'.m.sig = s.m.sig :=
  sig_on h (by
    intro m
    repeat' first
      | (simp; done)
      | apply Mach.aptCode_sig
      | (intro _; simp; done)
      | split)

theorem execAptSetFeature_sig (a : Agent) (d : Die) {s s' : State} (h : execAptSetFeature a d s = .next s') : s'.m.sig = s.m.sig :=
  sig_on h (by
    intro m
    repeat' first
      | (simp; done)
      | apply Mach.aptCode_sig
      | (intro _; simp; done)
      | split)

theorem execAptGetFeature_sig (a : Agent) (d : Die) {s s' : State} (h : execAptGetFeature a d s = .next s') : s'.m.sig = s.m.sig :=
  sig_on h (by
    intro m
    repeat' first
      | (simp; done)
      | apply Mach.aptCode_sig
      | (intro _; simp; done)
      | split)

theorem execSetRetryStep_sig (a : Agent) (d : Die) {s s' : State} (h : execSetRetryStep a d s = .next s') : s'.m.sig = s.m.sig :=
  sig_on h (by
    intro m
    repeat' first
      | (simp; done)
      | apply Mach.aptCode_sig
      | (intro _; simp; done)
      | split)

theorem execReadId_sig (a : Agent) (d : Die) {s s' : State} (h : execReadId a d s = .next s') : s'.m.sig = s.m.sig :=
  sig_on h (by
    intro m
    repeat' first
      | (simp; done)
      | apply Mach.aptCode_sig
      | (intro _; simp; done)
      | split)

theorem execReadParameterPage_sig (a : Agent) (d : Die) {s s' : State} (h : execReadParameterPage a d s = .next s') : s'.m.sig = s.m.sig :=
  sig_on h (by
    intro m
    repeat' first
      | (simp; done)
      | apply Mach.aptCode_sig
      | (intro _; simp; done)
      | split)

theorem execResetDie_sig (a : Agent) (d : Die) {s s' : State} (h : execResetDie a d s = .next s') : s'.m.sig = s.m.sig :=
  sig_on h (by
    intro m
    repeat' first
      | (simp; done)
      | apply Mach.aptCode_sig
      | (intro _; simp; done)
      | split)

theorem execAptBadcmd_sig (a : Agent) (d : Die) (code : Byte) {s s' : State} (h : execAptBadcmd a d code s = .next s') : s'.m.sig = s.m.sig :=
  sig_on h (by
    intro m
    repeat' first
      | (simp; done)
      | apply Mach.aptCode_sig
      | (intro _; simp; done)
      | split)

theorem execOperationIssue_sig (c : Chan) {s s' : State} (h : execOperationIssue c s = .next s') : s'.m.sig = s.m.sig :=
  sig_on h (by intro m; first | (simp; done) | (dsimp only; simp; done))

theorem execCompletionDetection_sig (c : Chan) (r : Row) (o : OpOutcome) {s s' : State} (h : execCompletionDetection c r o s = .next s') : s'.m.sig = s.m.sig :=
  sig_on h (by intro m; first | (simp; done) | (dsimp only; simp; done))

theorem execOperationTimeout_sig (c : Chan) (r : Row) {s s' : State} (h : execOperationTimeout c r s = .next s') : s'.m.sig = s.m.sig :=
  sig_on h (by intro m; first | (simp; done) | (dsimp only; simp; done))

theorem execSvcWaitExpiry_sig (c : Chan) (r : Row) {s s' : State} (h : execSvcWaitExpiry c r s = .next s') : s'.m.sig = s.m.sig :=
  sig_on h (by intro m; first | (simp; done) | (dsimp only; simp; done))

theorem execSvcTransferTimeout_sig (c : Chan) {s s' : State} (h : execSvcTransferTimeout c s = .next s') : s'.m.sig = s.m.sig :=
  sig_on h (by intro m; first | (simp; done) | (dsimp only; simp; done))

theorem execSchedulerSuspend_sig (c : Chan) (r : Row) (eraseEnded : Bool) {s s' : State} (h : execSchedulerSuspend c r eraseEnded s = .next s') : s'.m.sig = s.m.sig :=
  sig_on h (by intro m; first | (simp; done) | (dsimp only; simp; done))

theorem execSchedulerResume_sig (c : Chan) (r : Row) {s s' : State} (h : execSchedulerResume c r s = .next s') : s'.m.sig = s.m.sig :=
  sig_on h (by intro m; first | (simp; done) | (dsimp only; simp; done))

theorem execResumeIntervalEnd_sig (c : Chan) (r : Row) {s s' : State} (h : execResumeIntervalEnd c r s = .next s') : s'.m.sig = s.m.sig :=
  sig_on h (by intro m; first | (simp; done) | (dsimp only; simp; done))

theorem execWptSet_sig (a : Agent) (hi : Bool) (v : Word) {s s' : State} (h : execWptSet a hi v s = .next s') : s'.m.sig = s.m.sig :=
  sig_on h (by intro m; first | (simp; done) | (dsimp only; simp; done))

theorem execWptAllset_sig (a : Agent) (hi : Bool) (v : Word) {s s' : State} (h : execWptAllset a hi v s = .next s') : s'.m.sig = s.m.sig :=
  sig_on h (by intro m; first | (simp; done) | (dsimp only; simp; done))

theorem execJunctionTrip_sig {s s' : State} (h : execJunctionTrip  s = .next s') : s'.m.sig = s.m.sig :=
  sig_on h (by intro m; first | (simp; done) | (dsimp only; simp; done))

theorem execJunctionTripClear_sig {s s' : State} (h : execJunctionTripClear  s = .next s') : s'.m.sig = s.m.sig :=
  sig_on h (by intro m; first | (simp; done) | (dsimp only; simp; done))

theorem execSoftDecodeDone_sig (task : Nat) (ok : Bool) (k : CwCheck) {s s' : State} (h : execSoftDecodeDone task ok k s = .next s') : s'.m.sig = s.m.sig :=
  sig_on h (by intro m; first | (simp; done) | (dsimp only; simp; done))

theorem execReconstructionCombine_sig (task : Nat) (k : CwCheck) {s s' : State} (h : execReconstructionCombine task k s = .next s') : s'.m.sig = s.m.sig :=
  sig_on h (by
    intro m
    repeat' first
      | (simp; done)
      | (rw [Mach.when_sig (h := fun m => by simp)]; simp; done)
      | (intro _; simp; done)
      | split)

theorem execVersionSealAge_sig (version : Nat) {s s' : State} (h : execVersionSealAge version s = .next s') : s'.m.sig = s.m.sig :=
  sig_on h (by
    intro m
    repeat' first
      | (simp; done)
      | apply Mach.when_sig
      | (intro _; simp; done)
      | split)

theorem execBufferHiwatSeal_sig {s s' : State} (h : execBufferHiwatSeal  s = .next s') : s'.m.sig = s.m.sig :=
  sig_on h (by intro m; first | (simp; done) | (dsimp only; simp; done))

theorem execRmwReadDone_sig (version : Nat) {s s' : State} (h : execRmwReadDone version s = .next s') : s'.m.sig = s.m.sig :=
  sig_on h (by intro m; first | (simp; done) | (dsimp only; simp; done))

theorem execFurrowOpen_sig (pos : Fin 8) {s s' : State} (h : execFurrowOpen pos s = .next s') : s'.m.sig = s.m.sig :=
  sig_on h (by intro m; first | (simp; done) | (dsimp only; simp; done))

theorem execSowerPageProgram_sig (pos : Fin 8) (faulty : List (Fin 4)) {s s' : State} (h : execSowerPageProgram pos faulty s = .next s') : s'.m.sig = s.m.sig :=
  sig_on h (by intro m; first | (simp; done) | (dsimp only; simp; done))

theorem execSlotExhausted_sig (slot : Nat) {s s' : State} (h : execSlotExhausted slot s = .next s') : s'.m.sig = s.m.sig :=
  sig_on h (by intro m; first | (simp; done) | (dsimp only; simp; done))

theorem execSlotHalted_sig (slot : Nat) {s s' : State} (h : execSlotHalted slot s = .next s') : s'.m.sig = s.m.sig :=
  sig_on h (by intro m; first | (simp; done) | (dsimp only; simp; done))

theorem execIntegrityKeyExhausted_sig {s s' : State} (h : execIntegrityKeyExhausted  s = .next s') : s'.m.sig = s.m.sig :=
  sig_on h (by intro m; first | (simp; done) | (dsimp only; simp; done))

theorem execSequenceLimit_sig {s s' : State} (h : execSequenceLimit  s = .next s') : s'.m.sig = s.m.sig :=
  sig_on h (by intro m; first | (simp; done) | (dsimp only; simp; done))

theorem execMapRecoveryEnd_sig (ok : Bool) {s s' : State} (h : execMapRecoveryEnd ok s = .next s') : s'.m.sig = s.m.sig :=
  sig_on h (by intro m; first | (simp; done) | (dsimp only; simp; done))

theorem execVictimSelection_sig {s s' : State} (h : execVictimSelection  s = .next s') : s'.m.sig = s.m.sig :=
  sig_on h (by intro m; first | (simp; done) | (dsimp only; simp; done))

theorem execGleanerSourceRead_sig (low : Bool) (reads : List SrcRead) {s s' : State} (h : execGleanerSourceRead low reads s = .next s') : s'.m.sig = s.m.sig :=
  sig_on h (by
    intro m
    repeat' first
      | (simp; done)
      | (rw [Mach.when_sig (h := fun m => by simp)]; simp; done)
      | (intro _; simp; done)
      | split)

theorem execResidualSearch_sig (low : Bool) {s s' : State} (h : execResidualSearch low s = .next s') : s'.m.sig = s.m.sig :=
  sig_on h (by intro m; first | (simp; done) | (dsimp only; simp; done))

theorem execEraseGate_sig {s s' : State} (h : execEraseGate  s = .next s') : s'.m.sig = s.m.sig :=
  sig_on h (by intro m; first | (simp; done) | (dsimp only; simp; done))

theorem execPatrolScan_sig (furrow : Nat) (flagged passEnd : Bool) {s s' : State} (h : execPatrolScan furrow flagged passEnd s = .next s') : s'.m.sig = s.m.sig :=
  sig_on h (by intro m; first | (simp; done) | (dsimp only; simp; done))

theorem execDisturbScan_sig (c : Chan) (r : Row) (b : Nat) (flagged : Bool) {s s' : State} (h : execDisturbScan c r b flagged s = .next s') : s'.m.sig = s.m.sig :=
  sig_on h (by intro m; first | (simp; done) | (dsimp only; simp; done))

theorem execHeadlandWrite_sig {s s' : State} (h : execHeadlandWrite  s = .next s') : s'.m.sig = s.m.sig :=
  sig_on h (by intro m; first | (simp; done) | (dsimp only; simp; done))

theorem execHeadlandRecordDurable_le  {s s' : State} (h : execHeadlandRecordDurable s = .next s') : Mach.SigLe s.m s'.m :=
  le_onMail h (by
    intro m
    repeat' first
      | (simp; done)
      | (rw [Mach.when_sig (h := fun m => by simp)]; simp; done)
      | (intro _; simp; done)
      | split)

theorem execHeadlandFurrowRelease_sig {s s' : State} (h : execHeadlandFurrowRelease  s = .next s') : s'.m.sig = s.m.sig :=
  sig_on h (by intro m; first | (simp; done) | (dsimp only; simp; done))

theorem execDumpConsumed_sig {s s' : State} (h : execDumpConsumed  s = .next s') : s'.m.sig = s.m.sig :=
  sig_on h (by intro m; first | (simp; done) | (dsimp only; simp; done))

theorem execPatrolScrub_sig (d : Fin 4) (b rank1 : Bool) (x : DramSyndrome) (u : DramUser) (passEnd : Bool) {s s' : State} (h : execPatrolScrub d b rank1 x u passEnd s = .next s') : s'.m.sig = s.m.sig :=
  sig_on h (by intro m; first | (simp; done) | (dsimp only; simp; done))

theorem execCaParityAlert_sig (d : Fin 4) (x1 replayOk : Bool) {s s' : State} (h : execCaParityAlert d x1 replayOk s = .next s') : s'.m.sig = s.m.sig :=
  sig_on h (by intro m; first | (simp; done) | (dsimp only; simp; done))

theorem execReplayFailFault_sig (d : Fin 4) {s s' : State} (h : execReplayFailFault d s = .next s') : s'.m.sig = s.m.sig :=
  sig_on h (by intro m; first | (simp; done) | (dsimp only; simp; done))

theorem execRefreshBatch_sig (d : Fin 4) (mr4 : BitVec 3) (low high : Bool) {s s' : State} (h : execRefreshBatch d mr4 low high s = .next s') : s'.m.sig = s.m.sig :=
  sig_on h (by intro m; first | (simp; done) | (dsimp only; simp; done))

theorem execThmSample_sig (a : Agent) (mask : BitVec 16) {s s' : State} (h : execThmSample a mask s = .next s') : s'.m.sig = s.m.sig :=
  sig_on h (by intro m; first | (simp; done) | (dsimp only; simp; done))

theorem execThermalTaskSample_sig (dies : List Int) {s s' : State} (h : execThermalTaskSample dies s = .next s') : s'.m.sig = s.m.sig :=
  sig_on h (by intro m; first | (simp; done) | (dsimp only; simp; done))

theorem execConversionEnd_sig (sensor : Fin 16) (t : Int) (stamp : BitVec 48) {s s' : State} (h : execConversionEnd sensor t stamp s = .next s') : s'.m.sig = s.m.sig :=
  sig_on h (by intro m; first | (simp; done) | (dsimp only; simp; done))

theorem execSnfCeilWrite_sig (a : Agent) (level : BitVec 4) {s s' : State} (h : execSnfCeilWrite a level s = .next s') : s'.m.sig = s.m.sig :=
  sig_on h (by intro m; first | (simp; done) | (dsimp only; simp; done))

theorem execPowerDomainOff_le (a : Agent) (d : Fin 64) {s s' : State} (h : execPowerDomainOff a d s = .next s') : Mach.SigLe s.m s'.m :=
  le_onMail h (by
    intro m
    repeat' first
      | (simp; done)
      | (rw [Mach.when_sig (h := fun m => by simp)]; simp; done)
      | (intro _; simp; done)
      | split)

theorem execPowerDomainOn_sig (a : Agent) (d : Fin 64) {s s' : State} (h : execPowerDomainOn a d s = .next s') : s'.m.sig = s.m.sig :=
  sig_on h (by intro m; first | (simp; done) | (dsimp only; simp; done))

theorem execDomainSwitchEnd_sig {s s' : State} (h : execDomainSwitchEnd  s = .next s') : s'.m.sig = s.m.sig :=
  sig_on h (by intro m; first | (simp; done) | (dsimp only; simp; done))

theorem execPllLossOfLock_le (p : Pll) {s s' : State} (h : execPllLossOfLock p s = .next s') : Mach.SigLe s.m s'.m :=
  le_onMail h (by
    intro m
    repeat' first
      | (simp; done)
      | (rw [Mach.when_sig (h := fun m => by simp)]; simp; done)
      | (intro _; simp; done)
      | split)

theorem execRecordSealTimeout_sig {s s' : State} (h : execRecordSealTimeout  s = .next s') : s'.m.sig = s.m.sig :=
  sig_on h (by intro m; first | (simp; done) | (dsimp only; simp; done))

theorem execBatchTimeout_sig (badCrc : List Nat) (writeOk : Bool) {s s' : State} (h : execBatchTimeout badCrc writeOk s = .next s') : s'.m.sig = s.m.sig :=
  sig_on h (by intro m; first | (simp; done) | (dsimp only; simp; done))

theorem execAlmFlushRequest_sig (a : Agent) {s s' : State} (h : execAlmFlushRequest a s = .next s') : s'.m.sig = s.m.sig :=
  sig_on h (by intro m; first | (simp; done) | (dsimp only; simp; done))

theorem execAlmBufreqWrite_sig (a : Agent) (on : Bool) {s s' : State} (h : execAlmBufreqWrite a on s = .next s') : s'.m.sig = s.m.sig :=
  sig_on h (by intro m; first | (simp; done) | (dsimp only; simp; done))

theorem execTimeEvent_sig {s s' : State} (h : execTimeEvent  s = .next s') : s'.m.sig = s.m.sig :=
  sig_on h (by intro m; first | (simp; done) | (dsimp only; simp; done))

theorem execAlmanacSnapshot_sig {s s' : State} (h : execAlmanacSnapshot  s = .next s') : s'.m.sig = s.m.sig :=
  sig_on h (by
    intro m
    repeat' first
      | (simp; done)
      | apply Mach.when_sig
      | (intro _; simp; done)
      | split)

theorem execPotAdvance_sig {s s' : State} (h : execPotAdvance  s = .next s') : s'.m.sig = s.m.sig :=
  sig_on h (by intro m; first | (simp; done) | (dsimp only; simp; done))

theorem execTwinLinkUp_sig (x4 rate16 : Bool) {s s' : State} (h : execTwinLinkUp x4 rate16 s = .next s') : s'.m.sig = s.m.sig :=
  sig_on h (by intro m; first | (simp; done) | (dsimp only; simp; done))

theorem execTwinLinkDown_le  {s s' : State} (h : execTwinLinkDown s = .next s') : Mach.SigLe s.m s'.m :=
  le_onMail h (by
    intro m
    repeat' first
      | (simp; done)
      | (rw [Mach.when_sig (h := fun m => by simp)]; simp; done)
      | (intro _; simp; done)
      | split)

theorem execFrameAlignmentLoss_le  {s s' : State} (h : execFrameAlignmentLoss s = .next s') : Mach.SigLe s.m s'.m :=
  le_onMail h (by
    intro m
    repeat' first
      | (simp; done)
      | (rw [Mach.when_sig (h := fun m => by simp)]; simp; done)
      | (intro _; simp; done)
      | split)

theorem execIdle_sig (h : FrameHdr) {s s' : State} (h : execIdle h s = .next s') : s'.m.sig = s.m.sig :=
  sig_on h (by
    intro m
    repeat' first
      | (simp; done)
      | apply Mach.rxPlain_sig
      | (intro _; simp; done)
      | split)

theorem execHeartbeat_le (h : FrameHdr) (serial : BitVec 160) (txStamp echo now : Word) {s s' : State} (hx : execHeartbeat h serial txStamp echo now s = .next s') : Mach.SigLe s.m s'.m :=
  le_onMail hx (by
    intro m
    repeat' first
      | (simp; done)
      | (rw [Mach.when_sig (h := fun m => by simp)]; simp; done)
      | apply Mach.rxPlain_sig
      | (intro _; simp; done)
      | split)

theorem execNak_sig (h : FrameHdr) (seq : Nat) {s s' : State} (h : execNak h seq s = .next s') : s'.m.sig = s.m.sig :=
  sig_on h (by
    intro m
    repeat' first
      | (simp; done)
      | apply Mach.rxPlain_sig
      | (intro _; simp; done)
      | split)

theorem execWbegin_sig (h : FrameHdr) (vol : Vid) (fence slba nlb : Nat) (fua _resync : Bool) {s s' : State} (h : execWbegin h vol fence slba nlb fua _resync s = .next s') : s'.m.sig = s.m.sig :=
  sig_on h (by
    intro m
    repeat' first
      | (simp; done)
      | apply Mach.rxSeq_sig
      | (intro _; simp; done)
      | split)

theorem execWdata_sig (h : FrameHdr) (idx : Nat) (d : BitVec 2048) {s s' : State} (h : execWdata h idx d s = .next s') : s'.m.sig = s.m.sig :=
  sig_on h (by
    intro m
    repeat' first
      | (simp; done)
      | apply Mach.rxSeq_sig
      | (intro _; simp; done)
      | split)

theorem execWack_sig (h : FrameHdr) (status : BitVec 16) (epoch : Nat) {s s' : State} (h : execWack h status epoch s = .next s') : s'.m.sig = s.m.sig :=
  sig_on h (by
    intro m
    repeat' first
      | (simp; done)
      | apply Mach.rxSeq_sig
      | (intro _; simp; done)
      | split)

theorem execTwinDealloc_sig (h : FrameHdr) (vol : Vid) (fence slba nlb : Nat) {s s' : State} (h : execTwinDealloc h vol fence slba nlb s = .next s') : s'.m.sig = s.m.sig :=
  sig_on h (by
    intro m
    repeat' first
      | (simp; done)
      | apply Mach.rxSeq_sig
      | (intro _; simp; done)
      | split)

theorem execDurable_sig (h : FrameHdr) (vol : Vid) {s s' : State} (h : execDurable h vol s = .next s') : s'.m.sig = s.m.sig :=
  sig_on h (by
    intro m
    repeat' first
      | (simp; done)
      | apply Mach.rxSeq_sig
      | (intro _; simp; done)
      | split)

theorem execVolstate_sig (h : FrameHdr) (vol : Vid) (fence : Nat) (mirrored owner mapValid : Bool) (state : Fin 32) (size : Nat) {s s' : State} (h : execVolstate h vol fence mirrored owner mapValid state size s = .next s') : s'.m.sig = s.m.sig :=
  sig_on h (by
    intro m
    repeat' first
      | (simp; done)
      | apply Mach.rxSeq_sig
      | (intro _; simp; done)
      | split)

theorem execRsmap_sig (h : FrameHdr) (vol : Vid) (first : Nat) (dirty : List Nat) {s s' : State} (h : execRsmap h vol first dirty s = .next s') : s'.m.sig = s.m.sig :=
  sig_on h (by
    intro m
    repeat' first
      | (simp; done)
      | apply Mach.rxSeq_sig
      | (intro _; simp; done)
      | split)

theorem execCtrlCreate_sig (h : FrameHdr) (vol : Vid) (keySlot fence size : Nat) (layout1 enc : Bool) {s s' : State} (h : execCtrlCreate h vol keySlot fence size layout1 enc s = .next s') : s'.m.sig = s.m.sig :=
  sig_on h (by
    intro m
    repeat' first
      | (simp; done)
      | apply Mach.rxSeq_sig
      | (intro _; simp; done)
      | split)

theorem execResult_le (h : FrameHdr) (vol : Vid) (status : BitVec 16) {s s' : State} (hx : execResult h vol status s = .next s') : Mach.SigLe s.m s'.m :=
  le_onMail hx (by
    intro m
    repeat' first
      | (simp; done)
      | (rw [Mach.when_sig (h := fun m => by simp)]; simp; done)
      | apply Mach.rxCtl_sig
      | (intro _; simp; done)
      | split)

theorem execTake_sig (h : FrameHdr) (vol : Vid) (fence : Nat) {s s' : State} (h : execTake h vol fence s = .next s') : s'.m.sig = s.m.sig :=
  sig_on h (by
    intro m
    repeat' first
      | (simp; done)
      | apply Mach.rxSeq_sig
      | (intro _; simp; done)
      | split)

theorem execTakeAck_sig (h : FrameHdr) (vol : Vid) (fence : Nat) {s s' : State} (h : execTakeAck h vol fence s = .next s') : s'.m.sig = s.m.sig :=
  sig_on h (by
    intro m
    repeat' first
      | (simp; done)
      | apply Mach.rxSeq_sig
      | (intro _; simp; done)
      | split)

theorem execCtrlFormat_sig (h : FrameHdr) (vol : Vid) (layout1 enc : Bool) (keySlot : Nat) {s s' : State} (h : execCtrlFormat h vol layout1 enc keySlot s = .next s') : s'.m.sig = s.m.sig :=
  sig_on h (by
    intro m
    repeat' first
      | (simp; done)
      | apply Mach.rxSeq_sig
      | (intro _; simp; done)
      | split)

theorem execCtrlDelete_sig (h : FrameHdr) (vol : Vid) {s s' : State} (h : execCtrlDelete h vol s = .next s') : s'.m.sig = s.m.sig :=
  sig_on h (by
    intro m
    repeat' first
      | (simp; done)
      | apply Mach.rxSeq_sig
      | (intro _; simp; done)
      | split)

theorem execCtrlUnmirror_sig (h : FrameHdr) (vol : Vid) {s s' : State} (h : execCtrlUnmirror h vol s = .next s') : s'.m.sig = s.m.sig :=
  sig_on h (by
    intro m
    repeat' first
      | (simp; done)
      | apply Mach.rxSeq_sig
      | (intro _; simp; done)
      | split)

theorem execHeartbeatInterval_sig (now : Word) {s s' : State} (h : execHeartbeatInterval now s = .next s') : s'.m.sig = s.m.sig :=
  sig_on h (by intro m; first | (simp; done) | (dsimp only; simp; done))

theorem execPartnerLossTimeout_le  {s s' : State} (h : execPartnerLossTimeout s = .next s') : Mach.SigLe s.m s'.m :=
  le_onMail h (by
    intro m
    repeat' first
      | (simp; done)
      | (rw [Mach.when_sig (h := fun m => by simp)]; simp; done)
      | (intro _; simp; done)
      | split)

theorem execFrameResendTimeout_le  {s s' : State} (h : execFrameResendTimeout s = .next s') : Mach.SigLe s.m s'.m :=
  le_onMail h (by
    intro m
    repeat' first
      | (simp; done)
      | (rw [Mach.when_sig (h := fun m => by simp)]; simp; done)
      | (intro _; simp; done)
      | split)

theorem execDurableInterval_sig {s s' : State} (h : execDurableInterval  s = .next s') : s'.m.sig = s.m.sig :=
  sig_on h (by intro m; first | (simp; done) | (dsimp only; simp; done))

theorem execHandoverTimeout_le (vol : Vid) {s s' : State} (h : execHandoverTimeout vol s = .next s') : Mach.SigLe s.m s'.m :=
  le_onMail h (by
    intro m
    repeat' first
      | (simp; done)
      | (rw [Mach.when_sig (h := fun m => by simp)]; simp; done)
      | (intro _; simp; done)
      | split)

theorem execResyncPiece_sig (vol : Vid) {s s' : State} (h : execResyncPiece vol s = .next s') : s'.m.sig = s.m.sig :=
  sig_on h (by intro m; first | (simp; done) | (dsimp only; simp; done))

theorem execHoldUpTimeExpiry_sig {s s' : State} (h : execHoldUpTimeExpiry  s = .next s') : s'.m.sig = s.m.sig :=
  sig_on h (by intro m; first | (simp; done) | (dsimp only; simp; done))

theorem execTwinFrameCrcFailure_sig (sequenced : Bool) {s s' : State} (h : execTwinFrameCrcFailure sequenced s = .next s') : s'.m.sig = s.m.sig :=
  sig_on h (by intro m; first | (simp; done) | (dsimp only; simp; done))

theorem execFlitCrcError_sig (p : Port) {s s' : State} (h : execFlitCrcError p s = .next s') : s'.m.sig = s.m.sig :=
  sig_on h (by intro m; first | (simp; done) | (dsimp only; simp; done))

theorem execFuseCheckDone_sig (ok : Bool) {s s' : State} (h : execFuseCheckDone ok s = .next s') : s'.m.sig = s.m.sig :=
  sig_on h (by intro m; first | (simp; done) | (dsimp only; simp; done))

theorem execPllLock_sig (p : Pll) {s s' : State} (h : execPllLock p s = .next s') : s'.m.sig = s.m.sig :=
  sig_on h (by intro m; first | (simp; done) | (dsimp only; simp; done))

theorem execShaviErrorRequest_sig (p : Port) (code : Byte) (dwords : Nat) (lengthOk bodyOk : Bool) {s s' : State} (h : execShaviErrorRequest p code dwords lengthOk bodyOk s = .next s') : s'.m.sig = s.m.sig :=
  sig_on h (by intro m; first | (simp; done) | (dsimp only; simp; done))

/-- The commands that may change the test access port or move RESET_N. -/
def changesSig : Instr → Bool
  | .powerOn .. => true
  | .resetNAssert .. => true
  | .resetNDeassert .. => true
  | .idcode .. => true
  | .samplePreload .. => true
  | .extest .. => true
  | .highz .. => true
  | .clamp .. => true
  | .bypass .. => true
  | _ => false

set_option maxHeartbeats 2000000 in
/-- Every command but those that load the test access port, move RESET_N or apply power leaves both alone and never lowers SVFLOOR. -/
theorem exec_le {c : Instr} {s s' : State} (h : exec c s = .next s') (hc : changesSig c = false) : Mach.SigLe s.m s'.m := by
  cases c
  case pageStart => exact le_of_sig (execPageStart_sig _ _ h)
  case pageStop => exact execPageStop_le (h := h) ..
  case pageClearFault => exact le_of_sig (execPageClearFault_sig _ _ h)
  case pageStartingEnd => exact execPageStartingEnd_le (h := h) ..
  case pageStoppingEnd => exact le_of_sig (execPageStoppingEnd_sig _ h)
  case blockFault => exact execBlockFault_le (h := h) ..
  case registerWrite => exact execRegisterWrite_le (h := h) ..
  case rcRegisterRead => exact le_of_sig (execRcRegisterRead_sig _ _ _ h)
  case peakFieldRead => exact le_of_sig (execPeakFieldRead_sig _ _ _ h)
  case pfPush => exact le_of_sig (execPfPush_sig _ _ _ _ h)
  case pfCtrlEnd => exact le_of_sig (execPfCtrlEnd_sig _ _ h)
  case pfCtrlAbort => exact le_of_sig (execPfCtrlAbort_sig _ _ h)
  case pfCtrlDrop => exact le_of_sig (execPfCtrlDrop_sig _ _ h)
  case pfDataRead => exact le_of_sig (execPfDataRead_sig _ _ _ h)
  case pfPushStallComplete => exact le_of_sig (execPfPushStallComplete_sig _ h)
  case packetVisible => exact le_of_sig (execPacketVisible_sig _ h)
  case powerOn => cases hc
  case pwrgdFall => exact le_of_sig (execPwrgdFall_sig  h)
  case resetNAssert => cases hc
  case resetNDeassert => cases hc
  case smbusImmediateReset => exact le_of_sig (execSmbusImmediateReset_sig _ h)
  case smbusOrderlyReset => exact le_of_sig (execSmbusOrderlyReset_sig _ h)
  case smbusStatusWindow => exact le_of_sig (execSmbusStatusWindow_sig  h)
  case watchdogExpiry => exact le_of_sig (execWatchdogExpiry_sig  h)
  case devWdogWrite => exact le_of_sig (execDevWdogWrite_sig _ _ h)
  case slotCheck => exact le_of_sig (execSlotCheck_sig _ h)
  case managementFirmwareStart => exact execManagementFirmwareStart_le (h := h) ..
  case dramTrainingDone => exact le_of_sig (execDramTrainingDone_sig _ _ h)
  case flashTrainingDone => exact le_of_sig (execFlashTrainingDone_sig _ _ h)
  case devBootctlGo => exact le_of_sig (execDevBootctlGo_sig .mgmt h)
  case headlandLoadDone => exact le_of_sig (execHeadlandLoadDone_sig _ h)
  case replayDone => exact le_of_sig (execReplayDone_sig _ h)
  case interruptedEraseReerase => exact le_of_sig (execInterruptedEraseReerase_sig _ _ _ h)
  case shutdownRequest => exact le_of_sig (execShutdownRequest_sig .mgmt h)
  case shutdownPhaseEnd => exact le_of_sig (execShutdownPhaseEnd_sig  h)
  case perstNAssert => exact execPerstNAssert_le (h := h) ..
  case perstNDeassert => exact le_of_sig (execPerstNDeassert_sig _ h)
  case linkHotReset => exact execLinkHotReset_le (h := h) ..
  case linkUp => exact execLinkUp_le (h := h) ..
  case linkDown => exact le_of_sig (execLinkDown_sig _ h)
  case pfailNAssert => exact le_of_sig (execPfailNAssert_sig  h)
  case programsInFlightEnd => exact le_of_sig (execProgramsInFlightEnd_sig  h)
  case dumpEnd => exact le_of_sig (execDumpEnd_sig _ h)
  case pfailNRelease => exact le_of_sig (execPfailNRelease_sig  h)
  case hdmDecoderCommit => exact le_of_sig (execHdmDecoderCommit_sig _ _ _ _ _ _ h)
  case cxlMemRead => exact le_of_sig (execCxlMemRead_sig _ _ _ h)
  case cxlMemWrite => exact le_of_sig (execCxlMemWrite_sig _ _ _ _ h)
  case cxlMemPoisonedWrite => exact le_of_sig (execCxlMemPoisonedWrite_sig _ _ _ h)
  case capholdRelease => exact le_of_sig (execCapholdRelease_sig  h)
  case viralReceived => exact le_of_sig (execViralReceived_sig _ h)
  case gpfPhase1 => exact le_of_sig (execGpfPhase1_sig _ h)
  case gpfPhase2 => exact le_of_sig (execGpfPhase2_sig _ h)
  case d3hotEntry => exact le_of_sig (execD3hotEntry_sig _ h)
  case d3hotExit => exact execD3hotExit_le (h := h) ..
  case doeDiscovery => exact le_of_sig (execDoeDiscovery_sig _ _ h)
  case cdatTableAccess => exact le_of_sig (execCdatTableAccess_sig _ _ h)
  case getCertificate => exact le_of_sig (execGetCertificate_sig _ _ _ h)
  case challenge => exact le_of_sig (execChallenge_sig _ _ _ h)
  case getMeasurements => exact le_of_sig (execGetMeasurements_sig _ _ _ _ h)
  case getEventRecords => exact le_of_sig (execGetEventRecords_sig _ _ h)
  case clearEventRecords => exact le_of_sig (execClearEventRecords_sig _ _ _ _ h)
  case getFwInfo => exact le_of_sig (execGetFwInfo_sig _ h)
  case getSupportedLogs => exact le_of_sig (execGetSupportedLogs_sig _ h)
  case getLog => exact le_of_sig (execGetLog_sig _ _ _ _ h)
  case identifyMemoryDevice => exact le_of_sig (execIdentifyMemoryDevice_sig _ h)
  case getHealthInfo => exact le_of_sig (execGetHealthInfo_sig _ h)
  case getPoisonList => exact le_of_sig (execGetPoisonList_sig _ _ _ h)
  case unsupportedOpcode => exact le_of_sig (execUnsupportedOpcode_sig _ _ h)
  case invalidVendorOpcode => exact le_of_sig (execInvalidVendorOpcode_sig _ _ h)
  case transferFwFull => exact le_of_sig (execTransferFwFull_sig _ _ _ _ h)
  case transferFwInitiate => exact le_of_sig (execTransferFwInitiate_sig _ _ _ h)
  case transferFwContinue => exact le_of_sig (execTransferFwContinue_sig _ _ _ _ h)
  case transferFwEnd => exact le_of_sig (execTransferFwEnd_sig _ _ _ _ _ h)
  case transferFwAbort => exact le_of_sig (execTransferFwAbort_sig _ h)
  case activateFwNextReset => exact le_of_sig (execActivateFwNextReset_sig _ _ h)
  case activateFwOnline => exact le_of_sig (execActivateFwOnline_sig _ _ h)
  case hitlessSwitchPause => exact le_of_sig (execHitlessSwitchPause_sig  h)
  case hitlessSwitchReady => exact execHitlessSwitchReady_le (h := h) ..
  case hitlessSwitchRollback => exact execHitlessSwitchRollback_le (h := h) ..
  case sqTailDoorbell => exact le_of_sig (execSqTailDoorbell_sig _ _ _ h)
  case cqHeadDoorbell => exact le_of_sig (execCqHeadDoorbell_sig _ _ _ h)
  case fetchArbitration => exact le_of_sig (execFetchArbitration_sig  h)
  case fetchReadReturn => exact le_of_sig (execFetchReadReturn_sig _ _ h)
  case fetchReadFailure => exact le_of_sig (execFetchReadFailure_sig _ h)
  case commandAdmission => exact le_of_sig (execCommandAdmission_sig  h)
  case write => exact le_of_sig (execWrite_sig _ h)
  case read => exact le_of_sig (execRead_sig _ _ h)
  case flush => exact le_of_sig (execFlush_sig _ h)
  case deallocate => exact le_of_sig (execDeallocate_sig _ h)
  case verify => exact le_of_sig (execVerify_sig _ _ h)
  case light => exact le_of_sig (execLight_sig _ _ h)
  case douse => exact le_of_sig (execDouse_sig _ _ h)
  case persist => exact le_of_sig (execPersist_sig _ _ h)
  case sglListReadReturn => exact le_of_sig (execSglListReadReturn_sig _ _ _ h)
  case writeDataArrival => exact le_of_sig (execWriteDataArrival_sig _ _ h)
  case writeDataReadFailure => exact le_of_sig (execWriteDataReadFailure_sig _ h)
  case writeTransferResume => exact le_of_sig (execWriteTransferResume_sig _ h)
  case queueCreate => exact le_of_sig (execQueueCreate_sig _ _ _ _ _ _ _ _ h)
  case queueDelete => exact le_of_sig (execQueueDelete_sig _ _ _ h)
  case queueDeleteEnd => exact execQueueDeleteEnd_le (h := h) ..
  case abort => exact le_of_sig (execAbort_sig _ _ _ h)
  case abortDecision => exact execAbortDecision_le (h := h) ..
  case identifyController => exact le_of_sig (execIdentifyController_sig _ _ h)
  case getLogExt => exact le_of_sig (execGetLogExt_sig _ _ _ _ _ _ h)
  case getFeature => exact le_of_sig (execGetFeature_sig _ _ _ _ h)
  case setFeature => exact execSetFeature_le (h := h) ..
  case setHoldupUs => exact le_of_sig (execSetHoldupUs_sig _ _ _ h)
  case setServiceKey => exact le_of_sig (execSetServiceKey_sig _ _ _ h)
  case setSvCommit => exact execSetSvCommit_le (h := h) ..
  case setVolumeRo => exact le_of_sig (execSetVolumeRo_sig _ _ _ _ h)
  case volumeCreate => exact le_of_sig (execVolumeCreate_sig _ _ _ h)
  case volumeFormat => exact le_of_sig (execVolumeFormat_sig _ _ _ h)
  case volumeDelete => exact le_of_sig (execVolumeDelete_sig _ _ _ h)
  case volumeRepeat => exact le_of_sig (execVolumeRepeat_sig _ h)
  case serviceUnlockChallenge => exact le_of_sig (execServiceUnlockChallenge_sig _ _ h)
  case serviceUnlockSignature => exact le_of_sig (execServiceUnlockSignature_sig _ _ _ h)
  case signatureLockout => exact le_of_sig (execSignatureLockout_sig  h)
  case serviceUnlockRelock => exact le_of_sig (execServiceUnlockRelock_sig _ _ h)
  case serviceStop => exact le_of_sig (execServiceStop_sig _ _ _ h)
  case serviceChange => exact le_of_sig (execServiceChange_sig _ _ _ _ h)
  case serviceStart => exact le_of_sig (execServiceStart_sig _ _ _ h)
  case serviceStopChangeStart => exact le_of_sig (execServiceStopChangeStart_sig _ _ _ _ h)
  case serviceRetrainFch => exact le_of_sig (execServiceRetrainFch_sig _ _ _ h)
  case serviceRetrainDrc => exact le_of_sig (execServiceRetrainDrc_sig _ _ _ h)
  case serviceRetrainPort => exact le_of_sig (execServiceRetrainPort_sig _ _ _ h)
  case retrainDone => exact le_of_sig (execRetrainDone_sig _ h)
  case serviceRetire => exact le_of_sig (execServiceRetire_sig _ _ _ h)
  case rebuildComplete => exact le_of_sig (execRebuildComplete_sig  h)
  case serviceRecalibrate => exact le_of_sig (execServiceRecalibrate_sig _ _ _ h)
  case getTransport => exact le_of_sig (execGetTransport_sig _ _ h)
  case importKey => exact le_of_sig (execImportKey_sig _ _ _ _ _ h)
  case keyRotate => exact le_of_sig (execKeyRotate_sig _ _ _ h)
  case keyRetire => exact le_of_sig (execKeyRetire_sig _ _ _ h)
  case pair => exact le_of_sig (execPair_sig _ _ _ h)
  case mirror => exact le_of_sig (execMirror_sig _ _ _ _ h)
  case unmirror => exact le_of_sig (execUnmirror_sig _ _ _ h)
  case demote => exact le_of_sig (execDemote_sig _ _ _ _ h)
  case twinTakeover => exact le_of_sig (execTwinTakeover_sig _ _ _ _ _ h)
  case define => exact le_of_sig (execDefine_sig _ _ _ _ _ _ _ h)
  case delete => exact le_of_sig (execDelete_sig _ _ _ h)
  case setLot => exact le_of_sig (execSetLot_sig _ _ _ _ h)
  case lightLbFill => exact le_of_sig (execLightLbFill_sig _ h)
  case touchLightRun => exact le_of_sig (execTouchLightRun_sig  h)
  case autoWriteback => exact le_of_sig (execAutoWriteback_sig  h)
  case lanternFetchReturn => exact le_of_sig (execLanternFetchReturn_sig _ h)
  case lanternWritebackDone => exact le_of_sig (execLanternWritebackDone_sig _ h)
  case lanternEntryOff => exact le_of_sig (execLanternEntryOff_sig _ h)
  case lntCtrlEnWrite => exact le_of_sig (execLntCtrlEnWrite_sig _ _ h)
  case lanternFlushEnd => exact le_of_sig (execLanternFlushEnd_sig  h)
  case mapProbe => exact le_of_sig (execMapProbe_sig _ _ h)
  case drgDecode => exact le_of_sig (execDrgDecode_sig _ _ h)
  case aptUnlock1Write => exact le_of_sig (execAptUnlock1Write_sig _ _ _ h)
  case aptUnlock2Write => exact le_of_sig (execAptUnlock2Write_sig _ _ _ h)
  case parameterBlockWrite => exact le_of_sig (execParameterBlockWrite_sig _ _ _ _ h)
  case aptStageWrite => exact le_of_sig (execAptStageWrite_sig _ _ _ _ h)
  case readPage => exact le_of_sig (execReadPage_sig _ _ h)
  case readPageCache => exact le_of_sig (execReadPageCache_sig _ _ h)
  case programPage => exact le_of_sig (execProgramPage_sig _ _ h)
  case programNested => exact le_of_sig (execProgramNested_sig _ _ h)
  case eraseBlock => exact le_of_sig (execEraseBlock_sig _ _ h)
  case suspend => exact le_of_sig (execSuspend_sig _ _ h)
  case resume => exact le_of_sig (execResume_sig _ _ h)
  case aptSetFeature => exact le_of_sig (execAptSetFeature_sig _ _ h)
  case aptGetFeature => exact le_of_sig (execAptGetFeature_sig _ _ h)
  case setRetryStep => exact le_of_sig (execSetRetryStep_sig _ _ h)
  case readId => exact le_of_sig (execReadId_sig _ _ h)
  case readParameterPage => exact le_of_sig (execReadParameterPage_sig _ _ h)
  case resetDie => exact le_of_sig (execResetDie_sig _ _ h)
  case aptBadcmd => exact le_of_sig (execAptBadcmd_sig _ _ _ h)
  case operationIssue => exact le_of_sig (execOperationIssue_sig _ h)
  case completionDetection => exact le_of_sig (execCompletionDetection_sig _ _ _ h)
  case operationTimeout => exact le_of_sig (execOperationTimeout_sig _ _ h)
  case svcWaitExpiry => exact le_of_sig (execSvcWaitExpiry_sig _ _ h)
  case svcTransferTimeout => exact le_of_sig (execSvcTransferTimeout_sig _ h)
  case schedulerSuspend => exact le_of_sig (execSchedulerSuspend_sig _ _ _ h)
  case schedulerResume => exact le_of_sig (execSchedulerResume_sig _ _ h)
  case resumeIntervalEnd => exact le_of_sig (execResumeIntervalEnd_sig _ _ h)
  case wptSet => exact le_of_sig (execWptSet_sig _ _ _ h)
  case wptAllset => exact le_of_sig (execWptAllset_sig _ _ _ h)
  case junctionTrip => exact le_of_sig (execJunctionTrip_sig  h)
  case junctionTripClear => exact le_of_sig (execJunctionTripClear_sig  h)
  case softDecodeDone => exact le_of_sig (execSoftDecodeDone_sig _ _ _ h)
  case reconstructionCombine => exact le_of_sig (execReconstructionCombine_sig _ _ h)
  case versionSealAge => exact le_of_sig (execVersionSealAge_sig _ h)
  case bufferHiwatSeal => exact le_of_sig (execBufferHiwatSeal_sig  h)
  case rmwReadDone => exact le_of_sig (execRmwReadDone_sig _ h)
  case furrowOpen => exact le_of_sig (execFurrowOpen_sig _ h)
  case sowerPageProgram => exact le_of_sig (execSowerPageProgram_sig _ _ h)
  case slotExhausted => exact le_of_sig (execSlotExhausted_sig _ h)
  case slotHalted => exact le_of_sig (execSlotHalted_sig _ h)
  case integrityKeyExhausted => exact le_of_sig (execIntegrityKeyExhausted_sig  h)
  case sequenceLimit => exact le_of_sig (execSequenceLimit_sig  h)
  case mapRecoveryEnd => exact le_of_sig (execMapRecoveryEnd_sig _ h)
  case victimSelection => exact le_of_sig (execVictimSelection_sig  h)
  case gleanerSourceRead => exact le_of_sig (execGleanerSourceRead_sig _ _ h)
  case residualSearch => exact le_of_sig (execResidualSearch_sig _ h)
  case eraseGate => exact le_of_sig (execEraseGate_sig  h)
  case patrolScan => exact le_of_sig (execPatrolScan_sig _ _ _ h)
  case disturbScan => exact le_of_sig (execDisturbScan_sig _ _ _ _ h)
  case headlandWrite => exact le_of_sig (execHeadlandWrite_sig  h)
  case headlandRecordDurable => exact execHeadlandRecordDurable_le (h := h) ..
  case headlandFurrowRelease => exact le_of_sig (execHeadlandFurrowRelease_sig  h)
  case dumpConsumed => exact le_of_sig (execDumpConsumed_sig  h)
  case patrolScrub => exact le_of_sig (execPatrolScrub_sig _ _ _ _ _ _ h)
  case caParityAlert => exact le_of_sig (execCaParityAlert_sig _ true _ h)
  case replayFailFault => exact le_of_sig (execReplayFailFault_sig _ h)
  case refreshBatch => exact le_of_sig (execRefreshBatch_sig _ _ _ _ h)
  case thmSample => exact le_of_sig (execThmSample_sig _ _ h)
  case thermalTaskSample => exact le_of_sig (execThermalTaskSample_sig _ h)
  case conversionEnd => exact le_of_sig (execConversionEnd_sig _ _ _ h)
  case snfCeilWrite => exact le_of_sig (execSnfCeilWrite_sig _ _ h)
  case powerDomainOff => exact execPowerDomainOff_le (h := h) ..
  case powerDomainOn => exact le_of_sig (execPowerDomainOn_sig _ _ h)
  case domainSwitchEnd => exact le_of_sig (execDomainSwitchEnd_sig  h)
  case pllLossOfLock => exact execPllLossOfLock_le (h := h) ..
  case recordSealTimeout => exact le_of_sig (execRecordSealTimeout_sig  h)
  case batchTimeout => exact le_of_sig (execBatchTimeout_sig _ _ h)
  case almFlushRequest => exact le_of_sig (execAlmFlushRequest_sig _ h)
  case almBufreqWrite => exact le_of_sig (execAlmBufreqWrite_sig _ _ h)
  case timeEvent => exact le_of_sig (execTimeEvent_sig  h)
  case almanacSnapshot => exact le_of_sig (execAlmanacSnapshot_sig  h)
  case potAdvance => exact le_of_sig (execPotAdvance_sig  h)
  case twinLinkUp => exact le_of_sig (execTwinLinkUp_sig _ _ h)
  case twinLinkDown => exact execTwinLinkDown_le (h := h) ..
  case frameAlignmentLoss => exact execFrameAlignmentLoss_le (h := h) ..
  case idle => exact le_of_sig (execIdle_sig _ h)
  case heartbeat => exact execHeartbeat_le (hx := h) ..
  case nak => exact le_of_sig (execNak_sig _ _ h)
  case wbegin => exact le_of_sig (execWbegin_sig _ _ _ _ _ _ false h)
  case wdata => exact le_of_sig (execWdata_sig _ _ _ h)
  case wack => exact le_of_sig (execWack_sig _ _ _ h)
  case twinDealloc => exact le_of_sig (execTwinDealloc_sig _ _ _ _ _ h)
  case durable => exact le_of_sig (execDurable_sig _ _ h)
  case volstate => exact le_of_sig (execVolstate_sig _ _ _ _ _ _ _ _ h)
  case rsmap => exact le_of_sig (execRsmap_sig _ _ _ _ h)
  case ctrlCreate => exact le_of_sig (execCtrlCreate_sig _ _ _ _ _ _ _ h)
  case result => exact execResult_le (hx := h) ..
  case take => exact le_of_sig (execTake_sig _ _ _ h)
  case takeAck => exact le_of_sig (execTakeAck_sig _ _ _ h)
  case ctrlFormat => exact le_of_sig (execCtrlFormat_sig _ _ _ _ _ h)
  case ctrlDelete => exact le_of_sig (execCtrlDelete_sig _ _ h)
  case ctrlUnmirror => exact le_of_sig (execCtrlUnmirror_sig _ _ h)
  case heartbeatInterval => exact le_of_sig (execHeartbeatInterval_sig _ h)
  case partnerLossTimeout => exact execPartnerLossTimeout_le (h := h) ..
  case frameResendTimeout => exact execFrameResendTimeout_le (h := h) ..
  case durableInterval => exact le_of_sig (execDurableInterval_sig  h)
  case handoverTimeout => exact execHandoverTimeout_le (h := h) ..
  case resyncPiece => exact le_of_sig (execResyncPiece_sig _ h)
  case idcode => cases hc
  case samplePreload => cases hc
  case extest => cases hc
  case highz => cases hc
  case clamp => cases hc
  case bypass => cases hc
  case holdUpTimeExpiry => exact le_of_sig (execHoldUpTimeExpiry_sig  h)
  case twinFrameCrcFailure => exact le_of_sig (execTwinFrameCrcFailure_sig _ h)
  case flitCrcError => exact le_of_sig (execFlitCrcError_sig _ h)
  case fuseCheckDone => exact le_of_sig (execFuseCheckDone_sig _ h)
  case pllLock => exact le_of_sig (execPllLock_sig _ h)
  case shaviErrorRequest => exact le_of_sig (execShaviErrorRequest_sig _ _ _ _ _ h)

end Sys2Proof.Machine
end

