-- ==== Sys2Proof/Laws/Queue.lean ====
section
/-! SUPPORT. Command slots and completions: what the end of a host's command leaves (R112, R113, R115, R120). -/

namespace Sys2Proof.Machine

-- One proof at a time: proofs that wait for each other would each hold a thread and its stack.
set_option Elab.async false

theorem each_nil' {α : Type} (f : α → Mach → Mach) (m : Mach) : m.each [] f = m := rfl

theorem used_updates (m : Mach) (s : Nat) (x : Cmd) : (m.setCmd s x).q.used = m.q.used := rfl

/-- What the parts of `complete` that precede the post leave: slots but s, pairs, record, used. -/
structure Pre (s : Nat) (a b : Mach) : Prop where
  others : ∀ t, t ≠ s → b.cmd t = a.cmd t
  used : b.q.used = a.q.used
  adm : b.q.adm = a.q.adm
  qp : ∀ j, b.qp j = a.qp j
  out : b.out = a.out
  tx : b.twn = a.twn
  rest : b.q = { a.q with cmd := b.q.cmd }
  same : Mach.SameBut [.q, .reg, .pff, .adm, .alm, .buf, .fl, .free] a b

theorem pre_refl (s : Nat) (m : Mach) : Pre s m m := ⟨fun _ _ => rfl, rfl, rfl, fun _ => rfl, rfl, rfl, rfl, same_refl ..⟩
theorem pre_trans {s : Nat} {a b c : Mach} (h : Pre s a b) (g : Pre s b c) : Pre s a c :=
  ⟨fun t ht => (g.others t ht).trans (h.others t ht), g.used.trans h.used, g.adm.trans h.adm, fun j => (g.qp j).trans (h.qp j), g.out.trans h.out, g.tx.trans h.tx, by
    have e := g.rest; rw [h.rest] at e; exact e,
    same_trans h.same g.same⟩

theorem pre_of_q {s : Nat} {a b : Mach} (h : Mach.SameBut [.reg, .pff, .adm, .alm, .buf, .fl, .free] a b) : Pre s a b := by
  have hq := same_q h (by simp)
  refine ⟨fun t _ => ?_, by rw [hq], by rw [hq], fun j => ?_, same_out h (by simp), same_twn h (by simp), by rw [hq], same_mono h (by simp)⟩
  · unfold Mach.cmd; rw [hq]
  · unfold Mach.qp; rw [hq]

theorem each_id {α : Type} (l : List α) (f : α → Mach → Mach) (m : Mach) (h : ∀ a ∈ l, f a m = m) : m.each l f = m := by
  unfold Mach.each
  induction l with
  | nil => rfl
  | cons a l ih => rw [List.foldl_cons, h a (by simp)]; exact ih (fun b hb => h b (by simp [hb]))

theorem release_pre (m : Mach) (s : Nat) (h : ∀ t, s ∉ (m.cmd t).wait) : Pre s m (m.release s) := by
  unfold Mach.release
  split
  · exact pre_refl ..
  · generalize hu : m.setCmd s { m.cmd s with locked := false, wait := [] } = u
    have hp : Pre s m u := by
      rw [← hu]
      refine ⟨fun t ht => Mach.cmd_setCmd_ne _ _ _ _ ht, rfl, rfl, fun _ => rfl, rfl, rfl, rfl, by simp [Mach.SameBut]⟩
    have hw : ∀ t, s ∉ (u.cmd t).wait := by
      intro t; rw [← hu]
      by_cases e : t = s
      · subst e; rw [Mach.cmd_setCmd_same]; simp
      · rw [Mach.cmd_setCmd_ne _ _ _ _ e]; exact h t
    dsimp only
    rw [each_id]
    · exact pre_trans hp (pre_of_q (by simp [Mach.SameBut]))
    · intro t _
      rw [if_neg (by simpa using hw t)]

theorem forget_pre (m : Mach) (s : Nat) : Pre s m (m.forgetReads s) :=
  pre_of_q (by unfold Mach.forgetReads; simp [Mach.SameBut])

theorem raise_same (m : Mach) (p : Page) (i : Nat) (arg : BitVec 64) : Mach.SameBut [.reg, .pff, .adm, .alm] m (m.raise p i arg) :=
  same_trans (b := m.errBit p i) (by simp [Mach.SameBut]) (recorded_raise m p i arg).same

theorem cmd_of_cmd {a b : Mach} (h : b.q.cmd = a.q.cmd) (j : Nat) : b.cmd j = a.cmd j := by unfold Mach.cmd; rw [h]

theorem cmd_of_q {a b : Mach} (h : b.q = a.q) (j : Nat) : b.cmd j = a.cmd j := cmd_of_cmd (by rw [h]) j
theorem qp_of_q {a b : Mach} (h : b.q = a.q) (j : Fin 256) : b.qp j = a.qp j := by unfold Mach.qp; rw [h]

theorem updQ_qp' (m : Mach) (f : Queues → Queues) (j : Fin 256) (h : (f m.q).qp = m.q.qp) : (m.updQ f).qp j = m.qp j := by
  unfold Mach.qp; rw [Mach.updQ_q, h]
theorem updQ_cmd' (m : Mach) (f : Queues → Queues) (j : Nat) (h : (f m.q).cmd = m.q.cmd) : (m.updQ f).cmd j = m.cmd j := by
  unfold Mach.cmd; rw [Mach.updQ_q, h]
theorem qp_of_qp {a b : Mach} (h : b.q.qp = a.q.qp) (j : Fin 256) : b.qp j = a.qp j := by unfold Mach.qp; rw [h]

theorem twnForget_same (m : Mach) (s : Nat) (h : ∀ e ∈ m.twn.tx, e.2 ≠ .cmd s) : Mach.SameBut [.twn] m (m.twnForget s) := by
  unfold Mach.twnForget
  have : (m.twn.tx.filter fun e => e.2 == .cmd s) = [] := by
    rw [List.filter_eq_nil_iff]; intro e he; simpa using h e he
  rw [this]
  simp [Mach.SameBut, Mach.each]

/-- The end of a host's command whose range nobody waits for. -/
theorem complete_done (m : Mach) (s status dw2 dw3 : Nat) (q : Fin 256) (hk : (m.cmd s).kind = .host) (hq : (m.cmd s).qid = some q)
    (hl : m.Loose s) : m.Completed s q status dw2 dw3 (m.complete s status dw2 dw3) ∧
      Mach.SameBut [.reg, .pff, .adm, .alm, .q, .buf, .fl, .twn, .free, .out] m (m.complete s status dw2 dw3) ∧
      (m.complete s status dw2 dw3).q.adm = m.q.adm.filter (· != s) ∧
      (m.complete s status dw2 dw3).q = { m.q with
        cmd := (m.complete s status dw2 dw3).q.cmd, used := (m.complete s status dw2 dw3).q.used
        adm := (m.complete s status dw2 dw3).q.adm, qp := (m.complete s status dw2 dw3).q.qp } := by
  obtain ⟨u, hu, e⟩ : ∃ u, Pre s m u ∧ m.complete s status dw2 dw3 = (u.post q (entTag (m.cmd s).entry).toNat (m.cmd s).sqhd status dw2 dw3).freeSlot s := by
    unfold Mach.complete
    dsimp only
    rw [hq]
    dsimp only
    refine ⟨_, ?_, rfl⟩
    have h1 := pre_trans (release_pre m s hl.1) (forget_pre (m.release s) s)
    generalize (m.release s).forgetReads s = v at h1
    have h2 : Pre s v (if (entOpc (m.cmd s).entry == opWrite || entOpc (m.cmd s).entry == opDealloc) = true then v.markCovered (m.cmd s).vers else v) := by
      split
      · exact pre_of_q (by unfold Mach.markCovered; simp [Mach.SameBut])
      · exact pre_refl ..
    generalize (if (entOpc (m.cmd s).entry == opWrite || entOpc (m.cmd s).entry == opDealloc) = true then v.markCovered (m.cmd s).vers else v) = w at h2
    generalize hz : (if (decide (status = St.writeFault) && (m.cmd s).kind == CmdKind.host) = true then _ else w) = z
    have h3 : Pre s w z := by
      rw [← hz]; split
      · split
        · refine pre_of_q (same_trans (b := w.updAdm fun a => { a with health := { a.health with wfault := (a.health.wfault + 1) % 2 ^ 64 } }) (by simp [Mach.SameBut]) (same_mono (raise_same _ _ _ _) (by simp)))
        · exact pre_of_q (by simp [Mach.SameBut])
      · exact pre_refl ..
    have h4 : Pre s z (if (m.cmd s).kind == .host then z.draw.observe 0x20 (some (if Config.elapsedUs z.free = 0 then 0 else min 15 (Nat.log2 (Config.elapsedUs z.free) + 1))) (Config.elapsedUs z.free) else z) := by
      split
      · exact pre_of_q (same_trans (b := z.draw) (by simp [Mach.SameBut]) (same_mono (recorded_observe _ _ _ _).same (by simp)))
      · exact pre_refl ..
    exact pre_trans h1 (pre_trans h2 (pre_trans h3 h4))
  rw [e]
  generalize hv : u.post q (entTag (m.cmd s).entry).toNat (m.cmd s).sqhd status dw2 dw3 = v
  have hvq : v.qp q = { m.qp q with
      cqTail := if (m.qp q).depth ≤ (m.qp q).cqTail + 1 then 0 else (m.qp q).cqTail + 1
      phase := if (m.qp q).depth ≤ (m.qp q).cqTail + 1 then !(m.qp q).phase else (m.qp q).phase
      inflight := (m.qp q).inflight - 1 } := by
    rw [← hv]; unfold Mach.post; dsimp only; rw [Mach.send_qp, Mach.touch_qp, Mach.qp_setQp_same, hu.qp]
  have hvo : ∀ j, j ≠ q → v.qp j = m.qp j := by
    intro j hj; rw [← hv]; unfold Mach.post; dsimp only; rw [Mach.send_qp, Mach.touch_qp, Mach.qp_setQp_ne _ _ _ _ hj, hu.qp]
  have hvc : ∀ t, v.cmd t = u.cmd t := by intro t; rw [← hv]; unfold Mach.post; dsimp only; rw [Mach.send_cmd, Mach.touch_cmd, Mach.setQp_cmd]
  have hvu : v.q.used = m.q.used := by rw [← hu.used, ← hv]; unfold Mach.post; dsimp only; rw [Mach.send_q, Mach.touch_q]; rfl
  have hva : v.q.adm = m.q.adm := by rw [← hu.adm, ← hv]; unfold Mach.post; dsimp only; rw [Mach.send_q, Mach.touch_q]; rfl
  have hvr : v.q = { m.q with cmd := v.q.cmd, qp := v.q.qp } := by
    have e := hu.rest
    rw [← hv]; unfold Mach.post; dsimp only; rw [Mach.send_q, Mach.touch_q]; unfold Mach.setQp; rw [Mach.updQ_q, e]
  have hvx : v.twn = m.twn := by rw [← hu.tx, ← hv]; unfold Mach.post; dsimp only; rw [Mach.send_twn, Mach.touch_twn]; rfl
  have hvs : m.Sent [.completion (m.qp q).port q.val ((m.qp q).cqBase + 16 * (m.qp q).cqTail)
    (completionWord status (entTag (m.cmd s).entry).toNat (m.qp q).phase q.val (m.cmd s).sqhd dw2 dw3)] v := by
    rw [← hv]; unfold Mach.post Mach.Sent; dsimp only
    rw [Mach.send_out, Mach.touch_out, Mach.setQp_out, hu.out, hu.qp]
  have hvb : Mach.SameBut [.reg, .pff, .adm, .alm, .q, .buf, .fl, .free, .out] m v := by
    refine same_trans (same_mono hu.same (by simp)) ?_
    rw [← hv]; unfold Mach.post; dsimp only; simp [Mach.SameBut]
  have hf := twnForget_same v s (by rw [hvx]; exact hl.2)
  unfold Mach.freeSlot
  generalize v.twnForget s = w at hf
  have hwq : w.q = v.q := same_q hf (by simp)
  refine ⟨⟨?_, ?_, ?_, ?_, ?_, ?_⟩, ?_, ?_, ?_⟩
  · rw [Mach.touch_cmd, Mach.cmd_setCmd_same]
  · rw [Mach.touch_q]; show w.q.used.filter _ = _; rw [hwq, hvu]
  · intro t ht
    rw [Mach.touch_cmd, Mach.cmd_setCmd_ne _ _ _ _ ht]
    rw [cmd_of_cmd (a := v) (by rw [← hwq]; rfl), ← hu.others t ht]; exact hvc t
  · rw [Mach.touch_qp, Mach.setCmd_qp, qp_of_qp (a := v) (by rw [← hwq]; rfl)]; exact hvq
  · intro j hj; rw [Mach.touch_qp, Mach.setCmd_qp, qp_of_qp (a := v) (by rw [← hwq]; rfl)]; exact hvo j hj
  · unfold Mach.Sent at hvs ⊢
    rw [Mach.touch_out, Mach.setCmd_out, Mach.updQ_out, same_out hf (by simp), hvs]
  · exact same_trans (same_mono hvb (by simp)) (same_trans (same_mono hf (by simp)) (show Mach.SameBut _ w (((w.updQ _).setCmd s {}).touch .qct) by simp [Mach.SameBut]))
  · rw [Mach.touch_q]; show w.q.adm.filter _ = _; rw [hwq, hva]
  · rw [Mach.touch_q]; unfold Mach.setCmd; rw [Mach.updQ_q, Mach.updQ_q, hwq, hvr]

end Sys2Proof.Machine
end

