-- ==== Sys2Proof/Laws/Mail.lean ====
section
/-! SUPPORT. Mailbox commands: what answering leaves, and how the frames of registers compose (R142, Table 06.1). -/

namespace Sys2Proof.Machine

-- One proof at a time: proofs that wait for each other would each hold a thread and its stack.
set_option Elab.async false

/-- A command that the mailbox takes up, of the right length and not refused by the state, has its effect. -/
theorem mail_open (i : Instr) (p : Port) (l w : Nat) (e : Bool) (f : Mach → Mach) (m : Mach) (h : m.mailboxUp p = true) (h2 : l = w)
    (h3 : e = true ∨ m.mailGated = false) : m.mail i p l w e f = f m := by
  unfold Mach.mail Mach.mailRuns
  rw [if_pos h, if_neg (by simp [h2]), if_neg (by rcases h3 with h | h <;> simp [h])]
theorem replies_ok (p : Port) (b : List Byte) (m : Mach) : m.Replies p St.success b (m.ok p b) ∧ Mach.SameBut [.out] m (m.ok p b) := by
  unfold Mach.ok Mach.answer; exact ⟨rfl, by simp [Mach.SameBut]⟩
theorem replies_no (p : Port) (e : Nat) (m : Mach) : m.Replies p e [] (m.refuse p e) ∧ Mach.SameBut [.out] m (m.refuse p e) := by
  unfold Mach.refuse Mach.answer; exact ⟨rfl, by simp [Mach.SameBut]⟩
theorem replies_okd (p : Port) (b : List Byte) (m : Mach) : m.Replies p St.success b (m.ok p b).draw ∧ Mach.SameBut [.out, .free] m (m.ok p b).draw := by
  unfold Mach.ok Mach.answer; exact ⟨rfl, by simp [Mach.SameBut]⟩

theorem rs_touch (m : Mach) (p : Page) : Mach.RegsSame [] m (m.touch p) :=
  ⟨fun k _ => by simp, by simp, by simp, fun q => Mach.hdr_touch _ _ _⟩
theorem rs_of_reg {a b : Mach} (h : b.reg = a.reg) : Mach.RegsSame [] a b := by
  refine ⟨fun k _ => ?_, by rw [h], by rw [h], fun p => ?_⟩
  · unfold Mach.rd; rw [h]
  · unfold Mach.hdr; rw [h]
theorem rs_trans {a b c : Mach} (h : Mach.RegsSame [] a b) (g : Mach.RegsSame [] b c) : Mach.RegsSame [] a c :=
  ⟨fun k hk => (g.1 k hk).trans (h.1 k hk), g.2.1.trans h.2.1, g.2.2.1.trans h.2.2.1, fun p => (g.2.2.2 p).trans (h.2.2.2 p)⟩


/-- A completion as seen from a state that differs only elsewhere. -/
theorem completed_of {a b c : Mach} {i : Nat} {q : Fin 256} {st d2 d3 : Nat} (hc : ∀ j, b.cmd j = a.cmd j) (hq : ∀ j, b.qp j = a.qp j)
    (hu : b.q.used = a.q.used) (ho : b.out = a.out) (h : b.Completed i q st d2 d3 c) : a.Completed i q st d2 d3 c := by
  refine ⟨h.slot, by rw [h.used, hu], fun t ht => by rw [h.others t ht, hc], by rw [h.pair, hq], fun j hj => by rw [h.pairs j hj, hq], ?_⟩
  have := h.sent
  unfold Mach.Sent at this ⊢
  rw [this, hc, hq, ho]

/-- The same where the command's own slot differs in nothing that its completion tells, and with what left the part before. -/
theorem ends_of {a b c : Mach} {i : Nat} {q : Fin 256} {st d2 d3 : Nat} {os : List Out} (hc : ∀ j, j ≠ i → b.cmd j = a.cmd j)
    (he : (b.cmd i).entry = (a.cmd i).entry) (hh : (b.cmd i).sqhd = (a.cmd i).sqhd) (hq : ∀ j, b.qp j = a.qp j)
    (hu : b.q.used = a.q.used) (ho : b.out = a.out ++ os) (h : b.Completed i q st d2 d3 c) : a.Ends os i q st d2 d3 c := by
  refine ⟨h.slot, by rw [h.used, hu], fun t ht => by rw [h.others t ht, hc t ht], by rw [h.pair, hq], fun j hj => by rw [h.pairs j hj, hq], ?_⟩
  have := h.sent
  unfold Mach.Sent at this ⊢
  rw [this, he, hh, hq, ho, List.append_assoc]

theorem completed_on {a b c : Mach} {i : Nat} {q : Fin 256} {st d2 d3 : Nat} (hc : ∀ j, j ≠ i → b.cmd j = a.cmd j)
    (he : (b.cmd i).entry = (a.cmd i).entry) (hh : (b.cmd i).sqhd = (a.cmd i).sqhd) (hq : ∀ j, b.qp j = a.qp j)
    (hu : b.q.used = a.q.used) (ho : b.out = a.out) (h : b.Completed i q st d2 d3 c) : a.Completed i q st d2 d3 c := by
  obtain ⟨h1, h2, h3, h4, h5, h6⟩ := ends_of (os := []) hc he hh hq hu (by rw [ho, List.append_nil]) h
  exact ⟨h1, h2, h3, h4, h5, h6⟩

theorem loose_on {a b : Mach} {i : Nat} (hc : ∀ j, j ≠ i → b.cmd j = a.cmd j) (hw : (b.cmd i).wait = (a.cmd i).wait) (ht : b.twn = a.twn)
    (h : a.Loose i) : b.Loose i := by
  refine ⟨fun t => ?_, by rw [ht]; exact h.2⟩
  by_cases e : t = i
  · subst e; rw [hw]; exact h.1 t
  · rw [hc t e]; exact h.1 t

theorem loose_of {a b : Mach} {i : Nat} (hc : ∀ j, b.cmd j = a.cmd j) (ht : b.twn = a.twn) (h : a.Loose i) : b.Loose i :=
  ⟨fun t => by rw [hc]; exact h.1 t, by rw [ht]; exact h.2⟩

theorem leBytes_length (n x : Nat) : (leBytes n x).length = n := by
  induction n generalizing x with
  | zero => rfl
  | succ n ih => unfold leBytes; rw [List.length_cons, ih]

theorem identity_length (m : Mach) : m.identity.length = 0x72 := by
  unfold Mach.identity Mach.serialBytes FwSlot.rev
  simp only [List.length_append, leBytes_length, List.length_map, List.length_range]

theorem asks (m : Mach) (w : Waiter) : m.AsksDefinition w (m.askDefinition w) ∧ Mach.SameBut [.hdl] m (m.askDefinition w) := by
  unfold Mach.askDefinition Mach.askFor Mach.ask
  exact ⟨rfl, by simp [Mach.SameBut]⟩

/-- The state of a port once it has been written, and that of the other. -/
theorem port_get {a : PerPort PortSt} {p : Port} {x : PortSt} {t : Mach} (h : t.port = a.set p x) : t.port.get p = x := by
  rw [h]; cases p <;> rfl

theorem port_ne {a : PerPort PortSt} {p q : Port} {x : PortSt} {t : Mach} (h : t.port = a.set p x) (hq : q ≠ p) : t.port.get q = a.get q := by
  rw [h]; cases p <;> cases q <;> first | rfl | exact absurd rfl hq

theorem port_set2 (a : PerPort PortSt) (p : Port) (x y : PortSt) : (a.set p x).set p y = a.set p y := by cases p <;> rfl

theorem port_get_set (a : PerPort PortSt) (p : Port) (x : PortSt) : (a.set p x).get p = x := by cases p <;> rfl

theorem answer_same (p : Port) (e : Nat) (a b : Bool) (x : List Byte) (m : Mach) : Mach.SameBut [.out] m (m.answer p e a b x) := by
  unfold Mach.answer; simp [Mach.SameBut]

/-- A payload of another length is refused. -/
theorem mail_len (i : Instr) (p : Port) (l w : Nat) (e : Bool) (f : Mach → Mach) (m : Mach) (hu : m.mailboxUp p = true) (h : l ≠ w) :
    m.mail i p l w e f = m.answer p St.invalidField true false [] := by
  unfold Mach.mail Mach.mailRuns
  rw [if_pos hu, if_pos (by simpa using h)]

/-- A command that needs the media is refused while they are not there. -/
theorem mail_gated (i : Instr) (p : Port) (l w : Nat) (f : Mach → Mach) (m : Mach) (hu : m.mailboxUp p = true) (h : l = w)
    (g : m.mailGated = true) : m.mail i p l w false f = m.refuse p St.volumeNotReady := by
  unfold Mach.mail Mach.mailRuns
  rw [if_pos hu, if_neg (by simp [h]), if_pos (by simp [g])]

/-- While the mailbox is not ready, or the port's doorbell is set, nothing is taken. -/
theorem mail_shut (i : Instr) (p : Port) (l w : Nat) (e : Bool) (f : Mach → Mach) (m : Mach) (hu : m.mailboxUp p = false)
    (h : m.mailboxReady p = false ∨ m.doorbell p = true) : m.mail i p l w e f = m := by
  unfold Mach.mail
  rw [if_neg (by simp [hu]), if_pos (by rcases h with h | h <;> simp [h])]

/-- A command that must wait its turn is queued. -/
theorem mail_waits (i : Instr) (p : Port) (l w : Nat) (e : Bool) (f : Mach → Mach) (m : Mach) (hu : m.mailboxUp p = false)
    (hr : m.mailboxReady p = true) (hd : m.doorbell p = false) :
    m.mail i p l w e f = m.updAdm fun a => { a with mboxQ := a.mboxQ ++ [(p, i)] } := by
  unfold Mach.mail
  rw [if_neg (by simp [hu]), if_neg (by simp [hr, hd])]

end Sys2Proof.Machine
end

