-- ==== Sys2Proof/Laws/Block.lean ====
section
/-! SUPPORT. Block commands: what acceptance into the write buffer, a lit page's write and the end of a wait for durability leave
(R121, R122, R239, R249, Table 07.5). -/

namespace Sys2Proof.Machine

-- One proof at a time: proofs that wait for each other would each hold a thread and its stack.
set_option Elab.async false

theorem send_each {α : Type} (l : List α) (f : α → Out) (m : Mach) : m.each l (fun x m => m.send (f x)) = { m with out := m.out ++ l.map f } := by
  unfold Mach.each
  induction l generalizing m with
  | nil => simp
  | cons a l ih => rw [List.foldl_cons, ih]; unfold Mach.send; simp

theorem send_each2 {α β : Type} (l : List α) (g : α → List β) (f : α → β → Out) (m : Mach) :
    m.each l (fun a m => m.each (g a) fun x m => m.send (f a x)) = { m with out := m.out ++ l.flatMap fun a => (g a).map (f a) } := by
  induction l generalizing m with
  | nil => simp [Mach.each]
  | cons a l ih =>
    have : m.each (a :: l) (fun a m => m.each (g a) fun x m => m.send (f a x)) = (m.each (g a) fun x m => m.send (f a x)).each l (fun a m => m.each (g a) fun x m => m.send (f a x)) := rfl
    rw [this, ih, send_each]; simp

theorem look_none (m : Mach) (v : Vid) (lba : Nat) (h : m.lampOf v lba = none) : Mach.lookLamp v lba m = m := by
  unfold Mach.lookLamp; rw [h]

theorem lit_none (m : Mach) (v : Vid) (lba : Nat) (h : m.lampOf v lba = none) : m.litAt v lba = none := by
  unfold Mach.litAt; rw [h]

theorem observe_same (q : Nat) (b : Option Nat) (v : Int) (m : Mach) : Mach.SameBut [.alm] m (m.observe q b v) := by
  unfold Mach.observe
  split
  · exact same_refl ..
  · simp [Mach.SameBut]

theorem observeBuf_same (m : Mach) : Mach.SameBut [.reg, .alm] m m.observeBuf := by
  unfold Mach.observeBuf
  exact same_trans (b := m.observe 0x50 none m.bufUsed) (same_mono (observe_same ..) (by simp)) (by simp [Mach.SameBut])

/-- The version that an LB opens. -/
def newVer (m : Mach) (v : Vid) (lba : Nat) (d : Block) (pos : Fin 8) (lw dl : Bool) : Ver :=
  { id := m.buf.nextId, vol := v, mu := lba / 4, mask := setBit 0 (lba % 4) true, data := SMap.set 0 [] (lba % 4) d, wsn := m.buf.wsn
    st := .opn, pos := pos, lampwb := setBit 0 (lba % 4) lw, rmwTodo := [], rmwFail := false, lost := 0, pri := false, cov := false
    rsv := dl || m.gln.level != .exhausted, again := false }

theorem accept_open (m : Mach) (v : Vid) (lba : Nat) (d : Block) (pos : Fin 8) (lw dl : Bool) (h : m.openVer v (lba / 4) = none) :
    ∃ a, m.acceptLb v lba d pos lw dl = (a, m.buf.nextId) ∧ Mach.SameBut [.buf, .reg, .alm] m a ∧
      a.buf.vers = m.buf.vers ++ [newVer m v lba d pos lw dl] ∧ a.buf.wsn = m.buf.wsn + 1 ∧ a.buf.nextId = m.buf.nextId + 1 := by
  generalize hu : (m.updBuf fun b => { b with wsn := m.buf.wsn + 1 }).touch .map = u
  have hub : u.buf = { m.buf with wsn := m.buf.wsn + 1 } := by rw [← hu, Mach.touch_buf]; rfl
  have hug : u.gln = m.gln := by rw [← hu, Mach.touch_gln]; rfl
  have hus : Mach.SameBut [.buf, .reg, .alm] m u := by rw [← hu]; simp [Mach.SameBut]
  generalize ha : u.updBuf (fun b => { b with vers := b.vers ++ [newVer m v lba d pos lw dl], nextId := m.buf.nextId + 1 }) = a
  have hab : a.buf = { m.buf with wsn := m.buf.wsn + 1, vers := m.buf.vers ++ [newVer m v lba d pos lw dl], nextId := m.buf.nextId + 1 } := by
    rw [← ha, Mach.updBuf_buf, hub]
  refine ⟨a.observeBuf, ?_, ?_, ?_, ?_, ?_⟩
  · unfold Mach.acceptLb
    dsimp only
    have ho : u.openVer v (lba / 4) = none := by rw [← h]; unfold Mach.openVer; rw [hub]
    rw [hu, ho]
    dsimp only
    rw [hub, hug]
    dsimp only
    rw [← ha]; rfl
  · exact same_trans hus (same_trans (b := a) (by rw [← ha]; simp [Mach.SameBut]) (same_mono (observeBuf_same a) (by simp)))
  · rw [same_buf (observeBuf_same a) (by simp), hab]
  · rw [same_buf (observeBuf_same a) (by simp), hab]
  · rw [same_buf (observeBuf_same a) (by simp), hab]

theorem mark_none (m : Mach) (v : Vid) (lba n : Nat) (h : (m.volu v).mirrored = false) : Mach.markWritten v lba n m = m := by
  unfold Mach.markWritten; dsimp only; rw [if_pos (by simp [h])]

theorem lampOf_of {a b : Mach} (h : b.lamp = a.lamp) (v : Vid) (lba : Nat) : b.lampOf v lba = a.lampOf v lba := by
  unfold Mach.lampOf Mach.region; rw [h]

theorem volu_of {a b : Mach} (h : b.vol = a.vol) (v : Vid) : b.volu v = a.volu v := by unfold Mach.volu; rw [h]

theorem accept_note (m : Mach) (i : Nat) (id : Nat) : ((m.noteVersion i id).nextLb i) =
    (m.setCmd i { m.cmd i with vers := insertNat id (m.cmd i).vers, stage := .committed }).setCmd i
      { m.cmd i with vers := insertNat id (m.cmd i).vers, stage := .committed, todo := (m.cmd i).todo.drop 1 } := by
  unfold Mach.noteVersion Mach.nextLb
  dsimp only
  rw [Mach.cmd_setCmd_same]

/-- An LB for an unmirrored page that is not in the lamp window opens a version. -/
theorem dataIn_open (m : Mach) (i : Nat) (off : Nat) (r : List Nat) (d : Block) (v : Vid) (lba : Nat) (hv : v = entVol (m.cmd i).entry)
    (hb : lba = entSlba (m.cmd i).entry + off) (h1 : m.working i opWrite = true) (h2 : (m.cmd i).stalled = false)
    (h3 : (m.cmd i).todo = off :: r) (h4 : (m.cmd i).xid = none) (h5 : m.lampOf v lba = none) (h6 : (m.volu v).mirrored = false)
    (h7 : m.openVer v (lba / 4) = none) (h8 : m.bufRoom = true) (h9 : m.paced = false) :
    ∃ a u, Mach.SameBut [.buf, .reg, .alm] m a ∧
      a.buf.vers = m.buf.vers ++ [newVer m v lba d (m.posFor v (Fin.ofNat 8 (entStream (m.cmd i).entry))) false false] ∧
      a.buf.wsn = m.buf.wsn + 1 ∧ a.buf.nextId = m.buf.nextId + 1 ∧
      u = (a.setCmd i { m.cmd i with vers := insertNat m.buf.nextId (m.cmd i).vers, stage := .committed }).setCmd i
        { m.cmd i with vers := insertNat m.buf.nextId (m.cmd i).vers, stage := .committed, todo := r } ∧
      m.dataIn i d = u.writeEnd i := by
  obtain ⟨a, e, hs, e1, e2, e3⟩ := accept_open m v lba d (m.posFor v (Fin.ofNat 8 (entStream (m.cmd i).entry))) false false h7
  refine ⟨a, _, hs, e1, e2, e3, rfl, ?_⟩
  have hac : ∀ j, a.cmd j = m.cmd j := cmd_of_q (same_q hs (by simp))
  have hal := same_lamp hs (by simp)
  have hav := same_vol hs (by simp)
  unfold Mach.dataIn
  dsimp only
  rw [h3]; dsimp only
  rw [if_neg (by simp [h1, h2]), ← hv, ← hb, look_none _ _ _ h5, lit_none _ _ _ h5, ite_self]
  dsimp only
  have er : m.lbRoom v lba = true := by unfold Mach.lbRoom; simp [h8]
  unfold Mach.makeRoom; rw [if_pos er, if_pos (by unfold Mach.mayAccept; simp [er, h9])]
  unfold Mach.writeLb
  dsimp only
  rw [← hv, e]
  dsimp only
  rw [lit_none _ _ _ ((lampOf_of hal v lba).trans h5)]
  dsimp only
  rw [mark_none _ _ _ _ (by rw [volu_of hav]; exact h6)]
  have hx : ((a.noteVersion i m.buf.nextId).cmd i).xid = none := by
    unfold Mach.noteVersion; rw [Mach.cmd_setCmd_same]; dsimp only; rw [hac]; exact h4
  rw [hx]
  dsimp only
  rw [accept_note, hac]
  simp only [h3, List.drop_succ_cons, List.drop_zero]

theorem filter_one (l : List Nat) (p : Nat → Bool) (i : Nat) (hn : l.Nodup) (hi : i ∈ l) (hp : p i = true) (ho : ∀ j, j ≠ i → p j = false) :
    l.filter p = [i] := by
  induction l with
  | nil => simp at hi
  | cons a l ih =>
    rw [List.nodup_cons] at hn
    by_cases e : a = i
    · subst e
      rw [List.filter_cons_of_pos hp]
      have : l.filter p = [] := by
        rw [List.filter_eq_nil_iff]; intro j hj
        have : j ≠ a := by rintro rfl; exact hn.1 hj
        rw [ho j this]; simp
      rw [this]
    · rw [List.filter_cons_of_neg (by rw [ho a e]; simp)]
      refine ih hn.2 ?_
      rcases List.mem_cons.mp hi with h | h
      · exact absurd h.symm e
      · exact h

/-- One command waits for durability, and has it. -/
theorem settle_one (m : Mach) (i : Nat) (h1 : m.twn.rxWait = []) (h2 : m.q.used.Nodup) (h3 : i ∈ m.q.used) (h4 : (m.cmd i).covering = true)
    (h5 : (m.cmd i).cover = []) (h6 : (m.cmd i).todo = []) (h7 : ∀ j, j ≠ i → (m.cmd j).covering = false) :
    m.settleCovers = m.complete i (m.cmd i).finalStatus
      (if entOpc (m.cmd i).entry == opDouse || entOpc (m.cmd i).entry == opPersist then (m.cmd i).done else 0) 0 := by
  unfold Mach.settleCovers
  have e : m.settleRx = m := by unfold Mach.settleRx; rw [h1]; rfl
  dsimp only
  rw [e]
  have e2 : m.coveredSlots = [i] := by
    unfold Mach.coveredSlots
    exact filter_one _ _ i h2 h3 (by simp [h4, h5, h6]) (fun j hj => by simp [h7 j hj])
  rw [e2]
  rfl

theorem install_lamp (m : Mach) (k : Nat) (c : Bool) : (m.lntInstall k c).lamp =
    { m.lamp with lnt := (m.lntInstall k c).lamp.lnt, victim := (m.lntInstall k c).lamp.victim } := by
  unfold Mach.lntInstall
  dsimp only
  repeat' first | rfl | split

theorem install_same (m : Mach) (k : Nat) (c : Bool) : Mach.SameBut [.lamp] m (m.lntInstall k c) := by
  unfold Mach.lntInstall
  dsimp only
  repeat' first | exact same_refl .. | (simp [Mach.SameBut, Mach.setLnt]; done) | split

/-- A lookup of a descriptor changes nothing of the lamp window but the Lantern's entries and its victim pointer. -/
theorem lnt_lamp (m : Mach) (k : Nat) (c : Bool) : (m.lntUpdate k c).lamp =
    { m.lamp with lnt := (m.lntUpdate k c).lamp.lnt, victim := (m.lntUpdate k c).lamp.victim } := by
  have hb : ∀ (u : Mach) r, (u.bump64 r).lamp = u.lamp := fun u r => by simp
  unfold Mach.lntUpdate
  split
  · rw [hb]; rfl
  · dsimp only
    split
    · rw [hb]
    · rw [install_lamp, hb]

theorem lnt_same (m : Mach) (k : Nat) (c : Bool) : Mach.SameBut [.lamp, .reg] m (m.lntUpdate k c) := by
  have hb : ∀ (u : Mach) r, Mach.SameBut [.lamp, .reg] u (u.bump64 r) := fun u r => by simp [Mach.SameBut]
  unfold Mach.lntUpdate
  split
  · unfold Mach.setLnt; simp [Mach.SameBut]
  · dsimp only
    split
    · exact hb ..
    · exact same_trans (hb m _) (same_mono (install_same ..) (by simp))

theorem look_facts (m : Mach) (v : Vid) (lba : Nat) : (Mach.lookLamp v lba m).lamp =
    { m.lamp with lnt := (Mach.lookLamp v lba m).lamp.lnt, victim := (Mach.lookLamp v lba m).lamp.victim } ∧
    Mach.SameBut [.lamp, .reg] m (Mach.lookLamp v lba m) := by
  unfold Mach.lookLamp
  split
  · exact ⟨lnt_lamp .., lnt_same ..⟩
  · exact ⟨rfl, same_refl ..⟩

theorem litAt_of {a b : Mach} (h : b.lamp.reg = a.lamp.reg) (h2 : b.lamp.desc = a.lamp.desc) (v : Vid) (lba : Nat) : b.litAt v lba = a.litAt v lba := by
  have hd : ∀ k, b.desc k = a.desc k := fun k => by unfold Mach.desc; rw [h2]
  unfold Mach.litAt
  rw [show b.lampOf v lba = a.lampOf v lba by unfold Mach.lampOf Mach.region; rw [h]]
  simp only [hd]

theorem putLine_facts (m : Mach) (k f p l : Nat) (d : Line) : (m.putLine k f p l d).lamp.line = SMap.set 0 m.lamp.line (lineKey f p l) d ∧
    (m.putLine k f p l d).lamp.desc = m.lamp.desc ∧ Mach.SameBut [.lamp, .adm] m (m.putLine k f p l d) := by
  unfold Mach.putLine Mach.unlose
  split
  · refine ⟨rfl, rfl, by unfold Mach.dropPoison; simp [Mach.SameBut]⟩
  · exact ⟨rfl, rfl, by simp [Mach.SameBut]⟩

theorem putLines_facts (m : Mach) (k f p : Nat) (g : Nat → Line) (n : Nat) :
    let t := m.each (List.range n) fun i m => m.putLine k f p i (g i)
    (∀ l, l < n → SMap.get 0 t.lamp.line (lineKey f p l) = g l) ∧ t.lamp.desc = m.lamp.desc ∧ Mach.SameBut [.lamp, .adm] m t := by
  induction n with
  | zero => exact ⟨fun l hl => by omega, rfl, same_refl ..⟩
  | succ n ih =>
    intro t
    have e : t = (m.each (List.range n) fun i m => m.putLine k f p i (g i)).putLine k f p n (g n) := by
      simp only [t]; unfold Mach.each; rw [List.range_succ, List.foldl_append]; rfl
    obtain ⟨h1, h2, h3⟩ := ih
    obtain ⟨g1, g2, g3⟩ := putLine_facts (m.each (List.range n) fun i m => m.putLine k f p i (g i)) k f p n (g n)
    rw [e]
    refine ⟨fun l hl => ?_, by rw [g2, h2], same_trans h3 g3⟩
    rw [g1]
    by_cases el : l = n
    · subst el; rw [SMap.get_set, if_pos rfl]
    · rw [SMap.get_set, if_neg (by unfold lineKey; omega)]
      exact h1 l (by omega)

theorem capCheck_facts (m : Mach) : m.capCheck.lamp.line = m.lamp.line ∧ m.capCheck.lamp.desc = m.lamp.desc ∧
    Mach.SameBut [.lamp, .reg, .pff, .adm, .alm] m m.capCheck := by
  unfold Mach.capCheck
  dsimp only
  split
  · have h := raise_same (m.updLamp fun l => { l with capSeen := true }) .lmp 18 0
    have e := same_lamp h (by simp)
    refine ⟨by rw [e]; rfl, by rw [e]; rfl, same_trans (b := m.updLamp fun l => { l with capSeen := true }) (by simp [Mach.SameBut]) (same_mono h (by simp))⟩
  · exact ⟨rfl, rfl, same_refl ..⟩

theorem setBit_self {w : Nat} (x : BitVec w) (i : Nat) (h : i < w) : (setBit x i true).getLsbD i = true := by
  unfold setBit; rw [if_pos rfl, BitVec.getLsbD_or, BitVec.getLsbD_ofNat, Nat.testBit_two_pow_self]; simp [h]

theorem fillFrame_facts (m : Mach) (k p f : Nat) (d : Block) (hp : p < 512) :
    (∀ l, l < 64 → SMap.get 0 (m.fillFrame k p f d true).lamp.line (lineKey f p l) = (d >>> (512 * l)).setWidth 512) ∧
    ((m.fillFrame k p f d true).desc k).dirty.getLsbD p = true ∧ Mach.SameBut [.lamp, .reg, .pff, .adm, .alm] m (m.fillFrame k p f d true) := by
  obtain ⟨h1, h2, h3⟩ := putLines_facts m k f p (fun i => (d >>> (512 * i)).setWidth 512) 64
  unfold Mach.fillFrame Mach.putPage
  dsimp only
  generalize m.each (List.range 64) (fun i m => m.putLine k f p i ((d >>> (512 * i)).setWidth 512)) = u at h1 h2 h3
  generalize hx : ({ u.desc k with dirty := setBit (u.desc k).dirty p true } : Desc) = x
  obtain ⟨c1, c2, c3⟩ := capCheck_facts (u.putDesc k x)
  have e : (u.putDesc k x).lamp = { u.lamp with desc := SMap.set {} u.lamp.desc k x, lnt := (u.putDesc k x).lamp.lnt, victim := (u.putDesc k x).lamp.victim } := by
    unfold Mach.putDesc; rw [lnt_lamp]; rfl
  refine ⟨fun l hl => ?_, ?_, ?_⟩
  · rw [c1, e]; exact h1 l hl
  · unfold Mach.desc; rw [c2, e]; dsimp only
    rw [SMap.get_set, if_pos rfl, ← hx]
    exact setBit_self _ _ hp
  · exact same_trans (same_mono h3 (by simp)) (same_trans (b := u.putDesc k x) (same_trans (b := u.setDesc k x) (by simp [Mach.SameBut]) (same_mono (lnt_same _ _ _) (by simp))) c3)

theorem sendLb_eq (c : Cmd) (off : Nat) (d : Block) (m : Mach) (p : Port) (h : c.port = some p) :
    m.sendLb c off d = { m with out := m.out ++ pieceOuts p (m.port.get p).relaxedEn d 0 (c.pieces off) } := by
  have key : ∀ (r : Bool) (l : List (Nat × Nat)) (m : Mach) (k : Nat), (l.foldl (fun (a : Mach × Nat) x =>
      (a.1.send (.hostData p x.1 x.2 (d >>> (8 * a.2)) r), a.2 + x.2)) (m, k)).1 = { m with out := m.out ++ pieceOuts p r d k l } := by
    intro r l
    induction l with
    | nil => intro m k; simp [pieceOuts]
    | cons x l ih => intro m k; rw [List.foldl_cons, ih]; unfold Mach.send; simp [pieceOuts]
  unfold Mach.sendLb
  rw [h]
  exact key _ _ _ _

/-- What a lookup depends on. -/
theorem current_of {a b : Mach} (h : b.lamp = { a.lamp with lnt := b.lamp.lnt, victim := b.lamp.victim }) (h2 : b.buf = a.buf) (h3 : b.vol = a.vol) (v : Vid) (lba : Nat) :
    b.current v lba = a.current v lba := by
  have hd : ∀ k, b.desc k = a.desc k := fun k => by unfold Mach.desc; rw [h]
  have hr : ∀ i, b.recovering i = a.recovering i := fun i => by unfold Mach.recovering; rw [h3]
  have hsu : ∀ mu w, b.superseded v mu w = a.superseded v mu w := fun mu w => by
    unfold Mach.superseded Mach.volu Mach.installed; rw [h3]
  have hs : b.storedSrc v lba = a.storedSrc v lba := by
    unfold Mach.storedSrc Mach.verOf Mach.versAt Mach.mapSrc Mach.volu Mach.entry; rw [h2, h3]; simp only [hr, hsu]
  unfold Mach.current
  rw [show b.lampOf v lba = a.lampOf v lba by unfold Mach.lampOf Mach.region; rw [h]]
  simp only [hd, hs]

theorem reads_of {a b : Mach} (h : b.lamp = { a.lamp with lnt := b.lamp.lnt, victim := b.lamp.victim }) (h2 : b.buf = a.buf) (h3 : b.vol = a.vol) {v : Vid} {lba : Nat} {d : Block}
    (g : a.ReadsAs v lba d) : b.ReadsAs v lba d := by
  unfold Mach.ReadsAs at g ⊢
  rw [current_of h h2 h3]
  unfold Mach.pageLost Mach.framePage at g ⊢
  rw [h]; exact g

theorem look_q (m : Mach) (v : Vid) (lba : Nat) (j : Nat) : (Mach.lookLamp v lba m).cmd j = m.cmd j := cmd_of_q (same_q (look_facts m v lba).2 (by simp)) j

theorem readOne_as (m : Mach) (s off : Nat) (d : Block)
    (h : m.ReadsAs (entVol (m.cmd s).entry) (entSlba (m.cmd s).entry + off) d) :
    m.readOne s off = (Mach.lookLamp (entVol (m.cmd s).entry) (entSlba (m.cmd s).entry + off) m).readLb s off St.success d false := by
  obtain ⟨l1, l2⟩ := look_facts m (entVol (m.cmd s).entry) (entSlba (m.cmd s).entry + off)
  have h' := reads_of l1 (same_buf l2 (by simp)) (same_vol l2 (by simp)) h
  unfold Mach.readOne
  dsimp only
  generalize Mach.lookLamp (entVol (m.cmd s).entry) (entSlba (m.cmd s).entry + off) m = u at h'
  rcases h' with ⟨k, p, f, g1, g2, g3⟩ | ⟨id, g⟩ | ⟨g, rfl⟩
  · rw [g1]; dsimp only; rw [g2, g3]; rfl
  · rw [g]
  · rw [g]

/-- The command after k LBs of its range have been answered. -/
def readSt (c : Cmd) (k n : Nat) : Cmd :=
  { c with stage := if entOpc c.entry == opRead && decide (0 < k) then .committed else .running, todo := (List.range n).filter fun o => decide (k ≤ o) }

structure ReadInv (a : Mach) (i n k : Nat) (os : List Out) (u : Mach) : Prop where
  self : u.cmd i = readSt (a.cmd i) k n
  other : ∀ j, j ≠ i → u.cmd j = a.cmd j
  q : u.q = { a.q with cmd := u.q.cmd }
  lamp : u.lamp = { a.lamp with lnt := u.lamp.lnt, victim := u.lamp.victim }
  out : u.out = a.out ++ os
  same : Mach.SameBut [.q, .lamp, .reg, .out] a u

theorem filter_step (n k : Nat) : ((List.range n).filter fun o => decide (k ≤ o)).filter (· != k) = (List.range n).filter fun o => decide (k + 1 ≤ o) := by
  rw [List.filter_filter]
  apply List.filter_congr
  intro o _
  rw [Bool.eq_iff_iff]
  simp
  omega

theorem read_step (a : Mach) (i n k : Nat) (isRead : Bool) (p : Port) (d : Block) (os : List Out) (u : Mach)
    (hr : (entOpc (a.cmd i).entry == opRead) = isRead) (hp : isRead = true → (a.cmd i).port = some p)
    (hd : a.ReadsAs (entVol (a.cmd i).entry) (entSlba (a.cmd i).entry + k) d) (hu : ReadInv a i n k os u) :
    ReadInv a i n (k + 1) (os ++ if isRead then pieceOuts p (a.port.get p).relaxedEn d 0 ((a.cmd i).pieces k) else []) (u.readOne i k) := by
  have he : (u.cmd i).entry = (a.cmd i).entry := by rw [hu.self]; rfl
  have hr' : (entOpc (u.cmd i).entry == opRead) = isRead := by rw [he]; exact hr
  rw [readOne_as u i k d (by rw [he]; exact reads_of hu.lamp (same_buf hu.same (by simp)) (same_vol hu.same (by simp)) hd)]
  obtain ⟨l1, l2⟩ := look_facts u (entVol (u.cmd i).entry) (entSlba (u.cmd i).entry + k)
  generalize Mach.lookLamp (entVol (u.cmd i).entry) (entSlba (u.cmd i).entry + k) u = w at l1 l2
  have hwc : ∀ j, w.cmd j = u.cmd j := cmd_of_q (same_q l2 (by simp))
  have hx : ({ u.cmd i with
    todo := (u.cmd i).todo.filter (· != k)
    fails := (u.cmd i).fails
    rebuilt := (u.cmd i).rebuilt
    stage := if isRead then .committed else (u.cmd i).stage } : Cmd) = readSt (a.cmd i) (k + 1) n := by
    rw [hu.self]
    unfold readSt
    dsimp only
    rw [filter_step, hr]
    cases isRead <;> simp
  have e : w.readLb i k St.success d false = { w.setCmd i (readSt (a.cmd i) (k + 1) n) with
      out := w.out ++ if isRead then pieceOuts p (a.port.get p).relaxedEn d 0 ((a.cmd i).pieces k) else [] } := by
    unfold Mach.readLb
    dsimp only
    rw [hwc, hr']
    have e0 : (decide (St.success = 0)) = true := rfl
    rw [if_pos (show St.success = 0 from rfl)]
    simp only [show (St.success = 0) = True from by simp [St.success], decide_true, Bool.true_and, true_and, if_false, Bool.false_eq_true]
    rw [hx]
    cases isRead with
    | false => rw [if_neg (by simp), if_neg (by simp), List.append_nil]; rfl
    | true =>
      rw [if_pos rfl, if_pos rfl, sendLb_eq _ _ _ _ p (by rw [hu.self]; exact hp rfl)]
      have : (u.cmd i).pieces k = (a.cmd i).pieces k := by unfold Cmd.pieces; rw [hu.self]; rfl
      have hpt : w.port = a.port := by rw [same_port l2 (by simp), same_port hu.same (by simp)]
      rw [this, Mach.setCmd_port, hpt]; rfl
  rw [e]
  refine ⟨?_, fun j hj => ?_, ?_, ?_, ?_, ?_⟩
  · exact Mach.cmd_setCmd_same ..
  · refine (Mach.cmd_setCmd_ne _ _ _ _ hj).trans ?_; rw [hwc, hu.other j hj]
  · show ((w.setCmd i _).q) = _; unfold Mach.setCmd; rw [Mach.updQ_q, same_q l2 (by simp), hu.q]
  · show w.lamp = _; rw [l1, hu.lamp]; rfl
  · show w.out ++ _ = _; rw [same_out l2 (by simp), hu.out, List.append_assoc]
  · exact same_trans hu.same (same_trans (same_mono l2 (by simp)) (by simp [Mach.SameBut]))

theorem read_loop (a : Mach) (i n : Nat) (isRead : Bool) (p : Port) (d : Nat → Block) (hr : (entOpc (a.cmd i).entry == opRead) = isRead)
    (hp : isRead = true → (a.cmd i).port = some p)
    (hd : ∀ off, off < n → a.ReadsAs (entVol (a.cmd i).entry) (entSlba (a.cmd i).entry + off) (d off)) (b : Mach)
    (hb : ReadInv a i n 0 [] b) (k : Nat) (hk : k ≤ n) :
    ReadInv a i n k (if isRead then (List.range k).flatMap fun off => pieceOuts p (a.port.get p).relaxedEn (d off) 0 ((a.cmd i).pieces off) else [])
      (b.each (List.range k) fun off m => m.readOne i off) := by
  induction k with
  | zero => cases isRead <;> exact hb
  | succ k ih =>
    have hu := ih (by omega)
    have e : b.each (List.range (k + 1)) (fun off m => m.readOne i off) = (b.each (List.range k) fun off m => m.readOne i off).readOne i k := by
      unfold Mach.each; rw [List.range_succ, List.foldl_append]; rfl
    rw [e]
    have h := read_step a i n k isRead p (d k) _ _ hr hp (hd k (by omega)) hu
    cases isRead with
    | false => exact h
    | true =>
      rw [if_pos rfl] at h ⊢
      rw [List.range_succ, List.flatMap_append]
      rw [if_pos rfl] at h
      simpa using h

/-- A whole READ or VERIFY of LBs that the part holds. -/
theorem readAll_as (a : Mach) (i : Nat) (isRead : Bool) (p : Port) (q : Fin 256) (d : Nat → Block) (hr : (entOpc (a.cmd i).entry == opRead) = isRead)
    (hp : isRead = true → (a.cmd i).port = some p) (h3 : (a.cmd i).kind = .host) (h4 : (a.cmd i).qid = some q) (h5 : a.Loose i)
    (h6 : (a.cmd i).fails = []) (h7 : (a.cmd i).rebuilt = 0)
    (hd : ∀ off, off < entCount (a.cmd i).entry → a.ReadsAs (entVol (a.cmd i).entry) (entSlba (a.cmd i).entry + off) (d off)) :
    a.Ends (if isRead then (List.range (entCount (a.cmd i).entry)).flatMap fun off => pieceOuts p (a.port.get p).relaxedEn (d off) 0 ((a.cmd i).pieces off) else []) i q
      St.success 0xFFFF 0 (a.readAll i []) := by
  have hb : ReadInv a i (entCount (a.cmd i).entry) 0 [] (a.setCmd i { a.cmd i with stage := .running, todo := List.range (entCount (a.cmd i).entry) }) := by
    refine ⟨?_, fun j hj => Mach.cmd_setCmd_ne _ _ _ _ hj, rfl, rfl, by rw [List.append_nil]; rfl, by simp [Mach.SameBut]⟩
    rw [Mach.cmd_setCmd_same]; unfold readSt; simp
  have h := read_loop a i _ isRead p d hr hp hd _ hb _ (Nat.le_refl _)
  unfold Mach.readAll
  dsimp only
  have e : Mach.readLost i [] (a.setCmd i { a.cmd i with stage := .running, todo := List.range (entCount (a.cmd i).entry) }) =
    a.setCmd i { a.cmd i with stage := .running, todo := List.range (entCount (a.cmd i).entry) } := rfl
  rw [e]
  generalize (a.setCmd i { a.cmd i with stage := .running, todo := List.range (entCount (a.cmd i).entry) }).each
    (List.range (entCount (a.cmd i).entry)) (fun off m => m.readOne i off) = w at h
  unfold Mach.readDone
  dsimp only
  have ht : (w.cmd i).todo = [] := by
    rw [h.self]; unfold readSt
    rw [List.filter_eq_nil_iff]; intro o ho; simp at ho ⊢; exact ho
  have ec : (w.cmd i).todo.isEmpty = true := by rw [ht]; rfl
  have er : readResult (w.cmd i) = (St.success, 0xFFFF, 0) := by
    unfold readResult; rw [h.self]; unfold readSt; dsimp only; rw [h6, h7]; rfl
  simp only [ec, if_true, er]
  have hk : (w.cmd i).kind = .host := by rw [h.self]; exact h3
  have hqd : (w.cmd i).qid = some q := by rw [h.self]; exact h4
  exact ends_of h.other (by rw [h.self]; rfl) (by rw [h.self]; rfl) (fun j => by unfold Mach.qp; rw [h.q]) (by rw [h.q]) h.out
    (complete_done w i St.success 0xFFFF 0 q hk hqd (loose_on h.other (by rw [h.self]; rfl) (same_twn h.same (by simp)) h5)).1

theorem opc_fresh {m : Mach} {i o : Nat} (h : m.fresh i o = true) : entOpc (m.cmd i).entry = o ∧ i ∈ m.q.used := by
  unfold Mach.fresh Mach.slotUsed at h
  simp only [Bool.and_eq_true, beq_iff_eq, List.contains_iff_mem] at h
  exact ⟨h.1.1.2, h.1.1.1⟩

theorem readAll_one (a : Mach) (i : Nat) (h : entCount (a.cmd i).entry = 1) :
    a.readAll i [] = ((a.setCmd i { a.cmd i with stage := .running, todo := [0] }).readOne i 0).readDone i := by
  unfold Mach.readAll
  dsimp only
  rw [h]; rfl

/-- A DEALLOCATE of an unmirrored volume whose partial LBs are done. -/
theorem dealloc_end (a w : Mach) (i : Fin 4096) (q : Fin 256) (h1 : entOpc (a.cmd i).entry = opDealloc) (hin : i.val ∈ a.q.used)
    (hj : ∀ j, j ≠ i.val → w.cmd j = a.cmd j) (he : (w.cmd i).entry = (a.cmd i).entry) (hh : (w.cmd i).sqhd = (a.cmd i).sqhd)
    (hk : (w.cmd i).kind = .host) (hq : (w.cmd i).qid = some q) (hf : (w.cmd i).fails = []) (hc : (w.cmd i).cover = [])
    (hx : (w.cmd i).xid = none) (hp : (w.cmd i).partnerStatus = St.success) (ht : (w.cmd i).todo = []) (hwt : (w.cmd i).wait = (a.cmd i).wait)
    (htw : w.twn = a.twn) (hqp : ∀ j, w.qp j = a.qp j) (hu : w.q.used = a.q.used) (ho : w.out = a.out) (hl : a.Loose i)
    (hr : a.twn.rxWait = []) (hn : a.q.used.Nodup) (hcv : ∀ j, j ≠ i.val → (a.cmd j).covering = false) :
    ∃ z, w.awaitPartner i = z.complete i St.success 0 0 ∧ Mach.SameBut [.q] w z ∧ (z.cmd i).vers = (w.cmd i).vers ∧
      (z.cmd i).entry = (a.cmd i).entry ∧ z.Loose i ∧ (z.cmd i).kind = .host ∧ (z.cmd i).qid = some q ∧
      a.Completed i q St.success 0 0 (z.complete i St.success 0 0) := by
  generalize hz : w.setCmd i { w.cmd i with covering := true } = z
  have hzi : z.cmd i = { w.cmd i with covering := true } := by rw [← hz, Mach.cmd_setCmd_same]
  have hzj : ∀ j, j ≠ i.val → z.cmd j = a.cmd j := by intro j h; rw [← hz, Mach.cmd_setCmd_ne _ _ _ _ h, hj j h]
  have hzu : z.q.used = a.q.used := by rw [← hz, used_updates, hu]
  have hzt : z.twn = a.twn := by rw [← hz, Mach.setCmd_twn, htw]
  have hzl : z.Loose i := loose_on hzj (by rw [hzi]; exact hwt) hzt hl
  refine ⟨z, ?_, by rw [← hz]; simp [Mach.SameBut], by rw [hzi], by rw [hzi]; exact he, hzl, by rw [hzi]; exact hk, by rw [hzi]; exact hq, ?_⟩
  · unfold Mach.awaitPartner
    dsimp only
    rw [hx]
    dsimp only
    rw [List.append_nil]
    rw [← hx, hz]
    rw [settle_one z i (by rw [hzt]; exact hr) (by rw [hzu]; exact hn) (by rw [hzu]; exact hin) (by rw [hzi]) (by rw [hzi]; exact hc)
      (by rw [hzi]; exact ht) (fun j h => by rw [hzj j h]; exact hcv j h), hzi]
    dsimp only
    have eo : entOpc (w.cmd i).entry = opDealloc := by rw [he]; exact h1
    rw [eo, if_neg (by decide)]
    have : ({ w.cmd i with covering := true } : Cmd).finalStatus = St.success := by unfold Cmd.finalStatus; dsimp only; rw [hf]; exact hp
    rw [this]
  · exact completed_on hzj (by rw [hzi]; exact he) (by rw [hzi]; exact hh) (fun j => by rw [← hz, Mach.setCmd_qp, hqp]) hzu
      (by rw [← hz, Mach.setCmd_out, ho]) (complete_done z i _ 0 0 q (by rw [hzi]; exact hk) (by rw [hzi]; exact hq) hzl).1

theorem release_buf (m : Mach) (s : Nat) (h : ∀ t, s ∉ (m.cmd t).wait) : (m.release s).buf = m.buf := by
  unfold Mach.release
  split
  · rfl
  · generalize hu : m.setCmd s { m.cmd s with locked := false, wait := [] } = u
    have hw : ∀ t, s ∉ (u.cmd t).wait := by
      intro t; rw [← hu]
      by_cases e : t = s
      · subst e; rw [Mach.cmd_setCmd_same]; simp
      · rw [Mach.cmd_setCmd_ne _ _ _ _ e]; exact h t
    dsimp only
    rw [each_id _ _ _ (fun t _ => by rw [if_neg (by simpa using hw t)]), ← hu]; rfl

/-- Versions of a completed WRITE or DEALLOCATE count as covered; nothing else of the buffer changes (R122). -/
theorem complete_buf (m : Mach) (s status dw2 dw3 : Nat) (hl : m.Loose s) (hq : ∃ q, (m.cmd s).qid = some q) :
    (m.complete s status dw2 dw3).buf =
      if entOpc (m.cmd s).entry == opWrite || entOpc (m.cmd s).entry == opDealloc then (m.markCovered (m.cmd s).vers).buf else m.buf := by
  obtain ⟨q, hq⟩ := hq
  unfold Mach.complete
  dsimp only
  have h1 : ((m.release s).forgetReads s).buf = m.buf := by
    rw [show ((m.release s).forgetReads s).buf = (m.release s).buf from rfl, release_buf _ _ hl.1]
  have h1t : ((m.release s).forgetReads s).twn = m.twn := (pre_trans (release_pre m s hl.1) (forget_pre (m.release s) s)).tx
  generalize (m.release s).forgetReads s = v at h1 h1t
  have h2 : (if (entOpc (m.cmd s).entry == opWrite || entOpc (m.cmd s).entry == opDealloc) = true then v.markCovered (m.cmd s).vers else v).buf =
      if (entOpc (m.cmd s).entry == opWrite || entOpc (m.cmd s).entry == opDealloc) = true then (m.markCovered (m.cmd s).vers).buf else m.buf := by
    split
    · unfold Mach.markCovered; rw [Mach.updBuf_buf, Mach.updBuf_buf, h1]
    · exact h1
  have h2t : (if (entOpc (m.cmd s).entry == opWrite || entOpc (m.cmd s).entry == opDealloc) = true then v.markCovered (m.cmd s).vers else v).twn = m.twn := by
    split
    · unfold Mach.markCovered; rw [Mach.updBuf_twn, h1t]
    · exact h1t
  rw [← h2]
  generalize (if (entOpc (m.cmd s).entry == opWrite || entOpc (m.cmd s).entry == opDealloc) = true then v.markCovered (m.cmd s).vers else v) = w at h2t
  generalize hz : (if (decide (status = St.writeFault) && (m.cmd s).kind == CmdKind.host) = true then _ else w) = z
  have h3 : z.buf = w.buf ∧ z.twn = w.twn := by
    rw [← hz]; split
    · split
      · have := raise_same (w.updAdm fun a => { a with health := { a.health with wfault := (a.health.wfault + 1) % 2 ^ 64 } }) .sow 18 0
        exact ⟨(same_buf this (by decide)).trans rfl, (same_twn this (by decide)).trans rfl⟩
      · exact ⟨rfl, rfl⟩
    · exact ⟨rfl, rfl⟩
  generalize hy : (if ((m.cmd s).kind == CmdKind.host) = true then _ else z) = y
  have h4 : y.buf = z.buf ∧ y.twn = z.twn := by
    rw [← hy]; split
    · have := (recorded_observe z.draw 0x20 (some (if Config.elapsedUs z.free = 0 then 0 else min 15 (Nat.log2 (Config.elapsedUs z.free) + 1))) (Config.elapsedUs z.free)).same
      exact ⟨(same_buf this (by simp)).trans rfl, (same_twn this (by simp)).trans rfl⟩
    · exact ⟨rfl, rfl⟩
  rw [hq]
  dsimp only
  generalize hx : y.post q (entTag (m.cmd s).entry).toNat (m.cmd s).sqhd status dw2 dw3 = x
  have h5 : x.buf = y.buf ∧ x.twn = y.twn := by rw [← hx]; unfold Mach.post; exact ⟨by simp, by simp⟩
  unfold Mach.freeSlot
  have hf := twnForget_same x s (by rw [h5.2, h4.2, h3.2, h2t]; exact hl.2)
  rw [Mach.touch_buf, Mach.setCmd_buf, Mach.updQ_buf, same_buf hf (by simp), h5.1, h4.1, h3.1]

/-- A step of PG_SEQ is a change of the register store alone. -/
theorem touch_same (p : Page) (m : Mach) : Mach.SameBut [.reg] m (m.touch p) := by
  unfold Mach.touch; split <;> simp [Mach.SameBut]

/-- PEAK follows the window: the peak and a step of PG_SEQ, no record. -/
theorem raiseWindow_same (m : Mach) : Mach.SameBut [.hdl, .reg] m m.raiseWindow ∧ m.raiseWindow.hdl.want = m.hdl.want := by
  unfold Mach.raiseWindow
  dsimp only
  split
  · exact ⟨same_trans (b := m.updHdl fun h => { h with winPeak := min m.window 31 }) (by simp [Mach.SameBut]) (same_mono (touch_same _ _) (by simp)), by simp⟩
  · exact ⟨same_refl .., rfl⟩

theorem markSeg_same (s : Nat) (m : Mach) : Mach.SameBut [.hdl, .reg] m (m.markSeg s) ∧ (m.markSeg s).hdl.want = m.hdl.want := by
  unfold Mach.markSeg
  dsimp only
  split
  · exact ⟨same_refl .., rfl⟩
  · obtain ⟨h1, h2⟩ := raiseWindow_same (m.updHdl fun h => { h with seg := SMap.set {} h.seg s { SMap.get {} m.hdl.seg s with dirty := true, cov := m.coverNow } })
    exact ⟨same_trans (b := m.updHdl _) (by simp [Mach.SameBut]) h1, h2⟩

theorem markSegs_facts (l : List Nat) (m : Mach) : Mach.SameBut [.hdl, .reg] m (m.each l Mach.markSeg) ∧ (m.each l Mach.markSeg).hdl.want = m.hdl.want := by
  unfold Mach.each
  induction l generalizing m with
  | nil => exact ⟨same_refl .., rfl⟩
  | cons a l ih =>
    rw [List.foldl_cons]
    exact ⟨same_trans (markSeg_same a m).1 (ih _).1, (ih _).2.trans (markSeg_same a m).2⟩

theorem unmap_facts (m : Mach) (j f : Nat) (h : isAddr (m.entry j) = true) (hf : f = m.furrowOfAddr (m.entry j)) (hv : 1 < (m.fur f).valid) :
    let t := m.setEntry j unmapped
    t.vol = { m.vol with map := SMap.set unmapped m.vol.map j unmapped } ∧ t.fur f = { m.fur f with valid := (m.fur f).valid - 1 } ∧
      (∀ k, k ≠ f → t.fur k = m.fur k) ∧ t.hdl.want = m.hdl.want ∧ Mach.SameBut [.vol, .gln, .hdl, .reg] m t := by
  intro t
  obtain ⟨g1, g2⟩ := markSegs_facts (mapSegsOf j) (m.updVol fun x => { x with map := SMap.set unmapped x.map j unmapped })
  generalize hu : (m.updVol fun x => { x with map := SMap.set unmapped x.map j unmapped }).each (mapSegsOf j) Mach.markSeg = u at g1 g2
  have hug : u.gln = m.gln := (same_gln g1 (by simp)).trans rfl
  have huf : ∀ k, u.fur k = m.fur k := fun k => by unfold Mach.fur; rw [hug]
  have hfa : u.furrowOfAddr (m.entry j) = f := by
    rw [hf]
    have e1 : u.fl = m.fl := (same_fl g1 (by simp)).trans rfl
    have e2 : u.adm = m.adm := (same_adm g1 (by simp)).trans rfl
    unfold Mach.furrowOfAddr Mach.furrowOf Mach.die Mach.firstSpare Mach.nspare
    rw [e1, e2]
  have e : t = u.setFur f { m.fur f with valid := (m.fur f).valid - 1 } := by
    simp only [t]
    unfold Mach.setEntry
    dsimp only
    rw [if_neg (by intro e; rw [e] at h; simp [isAddr] at h), hu, if_neg (show ¬ isAddr unmapped = true by decide), if_pos h, hfa]
    unfold Mach.validDown
    dsimp only
    rw [huf, if_neg]
    simp; omega
  rw [e]
  refine ⟨?_, ?_, fun k hk => ?_, ?_, ?_⟩
  · show u.vol = _; rw [same_vol g1 (by simp)]; rfl
  · unfold Mach.setFur Mach.fur; rw [Mach.updGln_gln]; dsimp only; rw [SMap.get_set, if_pos rfl]
  · rw [Mach.fur_setFur_ne _ _ _ _ hk, huf]
  · show u.hdl.want = _; rw [g2]; rfl
  · exact same_trans (b := m.updVol fun x => { x with map := SMap.set unmapped x.map j unmapped }) (by simp [Mach.SameBut]) (same_trans (same_mono g1 (by simp)) (by simp [Mach.SameBut]))

end Sys2Proof.Machine
end

