-- ==== Sys2Proof/Laws/Lamp.lean ====
section
/-! SUPPORT. Lamp pages: what looking at pending lights and free frames leaves, the filling of a page, the ends of LIGHT, DOUSE and
PERSIST, and commands of no port (R154, R158 to R165). -/

namespace Sys2Proof.Machine

-- One proof at a time: proofs that wait for each other would each hold a thread and its stack.
set_option Elab.async false


/-- Machine b differs from machine a in nothing but the pending lights and write-backs of pages, the frames of blocks with nothing lit, the
Lantern, its counters and the poison list. -/
structure LampQuiet (a b : Mach) : Prop where
  lit : ∀ k, (b.desc k).lit = (a.desc k).lit
  dirty : ∀ k, (b.desc k).dirty = (a.desc k).dirty
  pendw : ∀ k, (b.desc k).pendw = (a.desc k).pendw
  all : ∀ k, (b.desc k).taintAll = (a.desc k).taintAll
  frame : ∀ k, (a.desc k).lit ≠ 0 → (b.desc k).frame = (a.desc k).frame
  reg : b.lamp.reg = a.lamp.reg
  line : b.lamp.line = a.lamp.line
  touch : b.lamp.touch = a.lamp.touch
  same : Mach.SameBut [.lamp, .reg, .adm] a b

theorem quiet_refl (m : Mach) : LampQuiet m m := ⟨fun _ => rfl, fun _ => rfl, fun _ => rfl, fun _ => rfl, fun _ _ => rfl, rfl, rfl, rfl, same_refl ..⟩

theorem quiet_trans {a b c : Mach} (h : LampQuiet a b) (g : LampQuiet b c) : LampQuiet a c :=
  ⟨fun k => (g.lit k).trans (h.lit k), fun k => (g.dirty k).trans (h.dirty k), fun k => (g.pendw k).trans (h.pendw k),
    fun k => (g.all k).trans (h.all k), fun k n => (g.frame k (by rw [h.lit]; exact n)).trans (h.frame k n), g.reg.trans h.reg,
    g.line.trans h.line, g.touch.trans h.touch, same_trans h.same g.same⟩

theorem desc_setDesc_same' (m : Mach) (k : Nat) (d : Desc) : (m.setDesc k d).desc k = d := by
  unfold Mach.setDesc Mach.desc; rw [Mach.updLamp_lamp]; dsimp only; rw [SMap.get_set, if_pos rfl]

theorem desc_setDesc_ne' (m : Mach) (k j : Nat) (d : Desc) (h : j ≠ k) : (m.setDesc k d).desc j = m.desc j := by
  unfold Mach.setDesc Mach.desc; rw [Mach.updLamp_lamp]; dsimp only; rw [SMap.get_set, if_neg h]

theorem quiet_lnt (m : Mach) (k : Nat) (c : Bool) : LampQuiet m (m.lntUpdate k c) := by
  have e := lnt_lamp m k c
  have hd : ∀ j, (m.lntUpdate k c).desc j = m.desc j := fun j => by unfold Mach.desc; rw [e]
  exact ⟨fun j => by rw [hd], fun j => by rw [hd], fun j => by rw [hd], fun j => by rw [hd], fun j _ => by rw [hd], by rw [e], by rw [e], by rw [e],
    same_mono (lnt_same m k c) (by simp)⟩

theorem quiet_setDesc (m : Mach) (k : Nat) (d : Desc) (h1 : d.lit = (m.desc k).lit) (h2 : d.dirty = (m.desc k).dirty) (h3 : d.pendw = (m.desc k).pendw)
    (h4 : d.taintAll = (m.desc k).taintAll) (h5 : (m.desc k).lit ≠ 0 → d.frame = (m.desc k).frame) : LampQuiet m (m.setDesc k d) := by
  have key : ∀ j, j = k ∧ (m.setDesc k d).desc j = d ∨ j ≠ k ∧ (m.setDesc k d).desc j = m.desc j := by
    intro j
    by_cases e : j = k
    · subst e; exact .inl ⟨rfl, desc_setDesc_same' ..⟩
    · exact .inr ⟨e, desc_setDesc_ne' _ _ _ _ e⟩
  refine ⟨fun j => ?_, fun j => ?_, fun j => ?_, fun j => ?_, fun j n => ?_, rfl, rfl, rfl, by simp [Mach.SameBut]⟩ <;>
    rcases key j with ⟨rfl, e⟩ | ⟨_, e⟩ <;> rw [e] <;> (try assumption)
  exact h5 n

theorem quiet_putDesc (m : Mach) (k : Nat) (d : Desc) (h1 : d.lit = (m.desc k).lit) (h2 : d.dirty = (m.desc k).dirty) (h3 : d.pendw = (m.desc k).pendw)
    (h4 : d.taintAll = (m.desc k).taintAll) (h5 : (m.desc k).lit ≠ 0 → d.frame = (m.desc k).frame) : LampQuiet m (m.putDesc k d) :=
  quiet_trans (quiet_setDesc m k d h1 h2 h3 h4 h5) (quiet_lnt _ _ _)

theorem quiet_dropPoison (m : Mach) (p : Nat × Nat × Nat → Bool) : LampQuiet m (m.dropPoison p) := by
  unfold Mach.dropPoison
  exact ⟨fun _ => rfl, fun _ => rfl, fun _ => rfl, fun _ => rfl, fun _ _ => rfl, rfl, rfl, rfl, by simp [Mach.SameBut]⟩

theorem quiet_frameCheck (m : Mach) (k : Nat) : LampQuiet m (m.frameCheck k) := by
  unfold Mach.frameCheck
  dsimp only
  split
  · exact quiet_refl _
  · rename_i f hf
    split
    · rename_i h
      simp only [Bool.and_eq_true, decide_eq_true_eq] at h
      refine quiet_trans ?_ (quiet_dropPoison _ _)
      generalize hu : m.updLamp (fun l => { l with
          owner := l.owner.filter fun o => o.1 != f
          lost := l.lost.filter fun k => k / 32768 != f }) = u
      have hq : LampQuiet m u := by
        rw [← hu]
        exact ⟨fun _ => rfl, fun _ => rfl, fun _ => rfl, fun _ => rfl, fun _ _ => rfl, rfl, rfl, rfl, by simp [Mach.SameBut]⟩
      have hd : u.desc k = m.desc k := by rw [← hu]; rfl
      refine quiet_trans hq (quiet_setDesc u k _ ?_ ?_ ?_ ?_ ?_)
      · rw [hd]
      · rw [hd]
      · rw [hd]
      · rw [hd]
      · intro n; rw [hd] at n; exact absurd h.1.1 n
    · exact quiet_refl _

theorem quiet_pendlCheck (m : Mach) (k mu : Nat) : LampQuiet m (m.pendlCheck k mu) := by
  unfold Mach.pendlCheck
  split
  · exact quiet_trans (quiet_putDesc m k { m.desc k with pendl := setBit (m.desc k).pendl mu false } rfl rfl rfl rfl (fun _ => rfl)) (quiet_frameCheck _ _)
  · exact quiet_refl _

theorem quiet_each {α : Type} (l : List α) (f : α → Mach → Mach) (h : ∀ a m, LampQuiet m (f a m)) (m : Mach) : LampQuiet m (m.each l f) := by
  unfold Mach.each
  induction l generalizing m with
  | nil => exact quiet_refl _
  | cons a l ih => rw [List.foldl_cons]; exact quiet_trans (h a m) (ih _)

theorem quiet_pendlRange (m : Mach) (v : Vid) (a n : Nat) : LampQuiet m (m.pendlRange v a n) := by
  unfold Mach.pendlRange
  refine quiet_each _ _ (fun o m => ?_) _
  split
  · exact quiet_trans (quiet_pendlCheck _ _ _) (quiet_frameCheck _ _)
  · exact quiet_refl _

/-- The end of a LIGHT of a host. -/
theorem lightRefuse_done (m : Mach) (i : Nat) (st : Nat) (q : Fin 256) (h1 : (m.cmd i).kind = .host) (h2 : (m.cmd i).qid = some q) (h3 : m.Loose i) :
    m.Completed i q st 0 0 (m.lightRefuse i st) := by
  generalize hu : m.setCmd i { m.cmd i with todo := [] } = u
  have hui : u.cmd i = { m.cmd i with todo := [] } := by rw [← hu, Mach.cmd_setCmd_same]
  have huj : ∀ j, j ≠ i → u.cmd j = m.cmd j := fun j hj => by rw [← hu, Mach.cmd_setCmd_ne _ _ _ _ hj]
  have hq := quiet_pendlRange u (entVol (m.cmd i).entry) (entSlba (m.cmd i).entry) (entCount (m.cmd i).entry)
  unfold Mach.lightRefuse Mach.refuseCmd
  dsimp only
  rw [hu]
  generalize u.pendlRange (entVol (m.cmd i).entry) (entSlba (m.cmd i).entry) (entCount (m.cmd i).entry) = w at hq
  have ew : w.when ((m.cmd i).kind == .touch) (Mach.devEvent .notice 0x010C (BitVec.ofNat 64 (entSlba (m.cmd i).entry)) []) = w := by
    rw [h1]; rfl
  rw [ew]
  have hwc : ∀ j, w.cmd j = u.cmd j := cmd_of_q (same_q hq.same (by simp))
  have hwj : ∀ j, j ≠ i → w.cmd j = m.cmd j := fun j hj => (hwc j).trans (huj j hj)
  have hwi : w.cmd i = { m.cmd i with todo := [] } := (hwc i).trans hui
  refine completed_on hwj (by rw [hwi]) (by rw [hwi]) (fun j => ?_) ?_ ?_
    (complete_done w i st 0 0 q (by rw [hwi]; exact h1) (by rw [hwi]; exact h2) (loose_on hwj (by rw [hwi]) ?_ h3)).1
  · rw [qp_of_q (same_q hq.same (by simp)), ← hu, Mach.setCmd_qp]
  · rw [same_q hq.same (by simp), ← hu, used_updates]
  · rw [same_out hq.same (by simp), ← hu, Mach.setCmd_out]
  · rw [same_twn hq.same (by simp), ← hu, Mach.setCmd_twn]

/-- The end of a LIGHT of a host whose every page is settled. -/
theorem lightDone_done (m : Mach) (i : Nat) (q : Fin 256) (h1 : (m.cmd i).kind = .host) (h2 : (m.cmd i).qid = some q) (h3 : m.Loose i)
    (h4 : (m.cmd i).todo = []) :
    ∃ w, LampQuiet m w ∧ m.lightDone i = w.complete i (m.cmd i).finalStatus (m.cmd i).done 0 ∧
      m.Completed i q (m.cmd i).finalStatus (m.cmd i).done 0 (m.lightDone i) ∧ (m.lightDone i).lamp = w.lamp := by
  have hq1 := quiet_pendlRange m (entVol (m.cmd i).entry) (entSlba (m.cmd i).entry) (entCount (m.cmd i).entry)
  obtain ⟨w, hq, e⟩ : ∃ w, LampQuiet m w ∧ m.lightDone i = w.complete i (m.cmd i).finalStatus (m.cmd i).done 0 := by
    unfold Mach.lightDone
    dsimp only
    rw [if_neg (by rw [h4]; simp), if_neg (by rw [h1]; simp)]
    refine ⟨_, quiet_trans hq1 (quiet_each _ _ (fun o m => ?_) _), rfl⟩
    split
    · exact quiet_frameCheck _ _
    · exact quiet_refl _
  have hwc : ∀ j, w.cmd j = m.cmd j := cmd_of_q (same_q hq.same (by simp))
  have c := complete_done w i (m.cmd i).finalStatus (m.cmd i).done 0 q (by rw [hwc]; exact h1) (by rw [hwc]; exact h2)
    (loose_of hwc (same_twn hq.same (by simp)) h3)
  refine ⟨w, hq, e, ?_, ?_⟩
  · rw [e]
    exact completed_of hwc (qp_of_q (same_q hq.same (by simp))) (by rw [same_q hq.same (by simp)]) (same_out hq.same (by simp)) c.1
  · rw [e]; exact same_lamp c.2.1 (by simp)

theorem lit_state {d : Desc} {p : Nat} (h : (d.state p).isLit = true) : d.taintAll = false ∧ d.lit.getLsbD p = true := by
  unfold Desc.state at h
  split at h
  · simp [PageLamp.isLit] at h
  · rename_i ha
    split at h
    · rename_i hl; exact ⟨by simpa using ha, hl⟩
    · repeat' first | (simp [PageLamp.isLit] at h; done) | split at h

theorem cmdBlocks_one (m : Mach) (i k p : Nat) (h1 : entCount (m.cmd i).entry = 1)
    (h2 : m.lampOf (entVol (m.cmd i).entry) (entSlba (m.cmd i).entry) = some (k, p)) : m.cmdBlocks i = [k] := by
  unfold Mach.cmdBlocks Mach.cmdPage
  rw [h1]
  simp [List.range_one, h2, insertNat]

theorem lighting_state {d : Desc} {p : Nat} (h : d.state p = .lighting) : d.taintAll = false ∧ d.lit.getLsbD p = false ∧ d.dirty.getLsbD p = false := by
  unfold Desc.state at h
  split at h
  · cases h
  · rename_i ha
    split at h
    · repeat' first | (cases h; done) | split at h
    · rename_i hl
      split at h
      · cases h
      · rename_i hd; exact ⟨by simpa using ha, by simpa using hl, by simpa using hd⟩

/-- The 64 lines of a lighting page are written, and the page is lit. -/
theorem lightFill_steps (m : Mach) (x : Fill) (k p f : Nat) (h2 : m.cmdPage x.slot x.off = some (k, p)) (h3 : (m.desc k).frame = some f)
    (h4 : (m.desc k).state p = .lighting) :
    ∃ v y, m.lightFill x = y.lightDone x.slot ∧
      (∀ l, l < 64 → SMap.get 0 v.lamp.line (lineKey f p l) = (x.data >>> (512 * l)).setWidth 512) ∧
      v.desc k = { m.desc k with lit := setBit (m.desc k).lit p true, dirty := setBit (m.desc k).dirty p false } ∧
      (∀ j, j ≠ k → v.desc j = m.desc j) ∧ True ∧ Mach.SameBut [.q, .lamp, .reg, .adm] m v ∧
      v.q = { m.q with cmd := v.q.cmd } ∧
      v.cmd x.slot = { m.cmd x.slot with stage := .committed, done := (m.cmd x.slot).done + 1, todo := (m.cmd x.slot).todo.filter (· != x.off) } ∧
      (∀ j, j ≠ x.slot → v.cmd j = m.cmd j) ∧ LampQuiet v y := by
  obtain ⟨l1, l2, l3⟩ := putLines_facts m k f p (fun i => (x.data >>> (512 * i)).setWidth 512) 64
  generalize ha : m.each (List.range 64) (fun i m => m.putLine k f p i ((x.data >>> (512 * i)).setWidth 512)) = a at l1 l2 l3
  have had : ∀ j, a.desc j = m.desc j := fun j => by unfold Mach.desc; rw [l2]
  have hac : ∀ j, a.cmd j = m.cmd j := cmd_of_q (same_q l3 (by simp))
  generalize hd : ({ m.desc k with lit := setBit (m.desc k).lit p true, dirty := setBit (m.desc k).dirty p false } : Desc) = d
  generalize hb : a.putDesc k d = b
  have eb : b.lamp = { a.lamp with desc := SMap.set {} a.lamp.desc k d, lnt := b.lamp.lnt, victim := b.lamp.victim } := by
    rw [← hb]; unfold Mach.putDesc; rw [lnt_lamp]; rfl
  have hbs : Mach.SameBut [.lamp, .reg] a b := by
    rw [← hb]; exact same_trans (b := a.setDesc k d) (by simp [Mach.SameBut]) (lnt_same _ _ _)
  have hbc : ∀ j, b.cmd j = m.cmd j := fun j => (cmd_of_q (same_q hbs (by simp)) j).trans (hac j)
  generalize hv : ((b.setCmd x.slot { m.cmd x.slot with stage := .committed, done := (m.cmd x.slot).done + 1 }).setCmd x.slot
    { m.cmd x.slot with stage := .committed, done := (m.cmd x.slot).done + 1, todo := (m.cmd x.slot).todo.filter (· != x.off) }) = v
  have hvl : v.lamp = b.lamp := by rw [← hv, Mach.setCmd_lamp, Mach.setCmd_lamp]
  refine ⟨v, v.pendlCheck k (p / 4), ?_, ?_, ?_, ?_, ?_, ?_, ?_, ?_, ?_, quiet_pendlCheck _ _ _⟩
  · unfold Mach.lightFill
    dsimp only
    rw [h2]
    dsimp only
    rw [h4, h3]
    dsimp only
    unfold Mach.putPage
    rw [ha, had, hd, hb, hbc]
    rw [Mach.cmd_setCmd_same, ← hv]
  · intro l hl; rw [hvl, eb]; exact l1 l hl
  · unfold Mach.desc; rw [hvl, eb]; dsimp only; rw [SMap.get_set, if_pos rfl, ← hd]
  · intro j hj; rw [← had]; unfold Mach.desc; rw [hvl, eb]; dsimp only; rw [SMap.get_set, if_neg hj]
  · trivial
  · refine same_trans (same_mono l3 (by simp)) (same_trans (same_mono hbs (by simp)) (by rw [← hv]; simp [Mach.SameBut]))
  · rw [← hv]; unfold Mach.setCmd; rw [Mach.updQ_q, Mach.updQ_q, same_q hbs (by simp), same_q l3 (by simp)]
  · rw [← hv, Mach.cmd_setCmd_same]
  · intro j hj; rw [← hv, Mach.cmd_setCmd_ne _ _ _ _ hj, Mach.cmd_setCmd_ne _ _ _ _ hj, hbc]

theorem mem_insertNat (x : Nat) (l : List Nat) (y : Nat) (h : y ∈ insertNat x l) : y = x ∨ y ∈ l := by
  induction l with
  | nil => simpa [insertNat] using h
  | cons a l ih =>
    unfold insertNat at h
    split at h
    · simpa using h
    · split at h
      · exact .inr h
      · rcases List.mem_cons.mp h with h | h
        · exact .inr (by simp [h])
        · rcases ih h with h | h
          · exact .inl h
          · exact .inr (by simp [h])

/-- A command of no port enters the range-lock table where nothing excludes it. -/
theorem own_facts (m : Mach) (kind : CmdKind) (e : Entry) (todo : List Nat) (c : Cmd) (hc : c = { kind := kind, entry := e, todo := todo })
    (hk : kind ≠ .host) (h : ∀ j ∈ m.locks, conflicts (m.cmd j) c = false) :
    (m.ownCommand kind e todo).cmd m.lowSlot = { c with locked := true, seq := m.q.rlkSeq, stage := .admitted } ∧
    (∀ j, j ≠ m.lowSlot → (m.ownCommand kind e todo).cmd j = m.cmd j) ∧
    (m.ownCommand kind e todo).q.used = insertNat m.lowSlot m.q.used ∧ Mach.SameBut [.q, .reg] m (m.ownCommand kind e todo) := by
  generalize hu : (m.updQ fun q => { q with used := insertNat m.lowSlot q.used }).setCmd m.lowSlot c = u
  have huq : u.q.used = insertNat m.lowSlot m.q.used := by rw [← hu]; rfl
  have hui : u.cmd m.lowSlot = c := by rw [← hu, Mach.cmd_setCmd_same]
  have huj : ∀ j, j ≠ m.lowSlot → u.cmd j = m.cmd j := fun j hj => by rw [← hu, Mach.cmd_setCmd_ne _ _ _ _ hj, updQ_cmd' _ _ _ rfl]
  have hur : u.q.rlkSeq = m.q.rlkSeq := by rw [← hu]; rfl
  have hus : Mach.SameBut [.q] m u := by rw [← hu]; simp [Mach.SameBut]
  generalize hw : (u.raiseTo Reg.QCT_SLOTS u.q.used.length 4096).touch .qct = w
  have hws : Mach.SameBut [.reg] u w := by rw [← hw]; refine same_trans (b := u.raiseTo Reg.QCT_SLOTS u.q.used.length 4096) ?_ (touch_same _ _); unfold Mach.raiseTo; split <;> simp [Mach.SameBut]
  have hwq := same_q hws (by simp)
  have hwc : ∀ j, w.cmd j = u.cmd j := cmd_of_q hwq
  have et : m.takeSlot c = (w, m.lowSlot) := by unfold Mach.takeSlot; dsimp only; rw [hu, hw]
  have eo : m.ownCommand kind e todo = w.enterLock m.lowSlot := by
    unfold Mach.ownCommand; dsimp only; rw [← hc, et]
  have hl : (w.locks.filter fun t => t != m.lowSlot && conflicts (w.cmd t) (w.cmd m.lowSlot)) = [] := by
    rw [List.filter_eq_nil_iff]; intro j hj
    by_cases ej : j = m.lowSlot
    · simp [ej]
    · unfold Mach.locks at hj
      rw [List.mem_filter, hwq, huq, hwc, huj j ej] at hj
      rcases mem_insertNat _ _ _ hj.1 with hm | hm
      · exact absurd hm ej
      · have : j ∈ m.locks := by unfold Mach.locks; rw [List.mem_filter]; exact ⟨hm, hj.2⟩
        rw [hwc, hwc, hui, huj j ej, h j this]; simp
  generalize hx : ({ c with locked := true, wait := [], seq := m.q.rlkSeq, stage := .blocked } : Cmd) = x
  generalize hz : ((w.setCmd m.lowSlot x).updQ fun q => { q with rlkSeq := q.rlkSeq + 1 }) = z
  have hzs : Mach.SameBut [.q] w z := by rw [← hz]; simp [Mach.SameBut]
  generalize hy : (z.touch .rlk).lockPeak = y
  have hys : Mach.SameBut [.reg] z y := by
    rw [← hy]; refine same_trans (b := z.touch .rlk) (by simp [Mach.SameBut]) ?_
    unfold Mach.lockPeak; simp [Mach.SameBut]
  have hyi : y.cmd m.lowSlot = x := by rw [cmd_of_q (same_q hys (by simp)), ← hz, updQ_cmd' _ _ _ rfl, Mach.cmd_setCmd_same]
  have hyj : ∀ j, j ≠ m.lowSlot → y.cmd j = m.cmd j := by
    intro j hj
    rw [cmd_of_q (same_q hys (by simp)), ← hz, updQ_cmd' _ _ _ rfl, Mach.cmd_setCmd_ne _ _ _ _ hj, hwc, huj j hj]
  have er : w.enterLock m.lowSlot = y.setCmd m.lowSlot { x with stage := .admitted } := by
    unfold Mach.enterLock
    dsimp only
    rw [hl, hwc, hui, hwq, hur, hx, hz, hy, if_pos List.isEmpty_nil]
    unfold Mach.admitCmd
    rw [hyi]
    unfold Mach.twinOpen
    dsimp only
    rw [if_neg]
    rw [Mach.cmd_setCmd_same, ← hx, hc]
    cases kind <;> simp at hk ⊢
  rw [eo, er]
  refine ⟨?_, fun j hj => ?_, ?_, ?_⟩
  · rw [Mach.cmd_setCmd_same, ← hx, hc]
  · rw [Mach.cmd_setCmd_ne _ _ _ _ hj, hyj j hj]
  · rw [used_updates, same_q hys (by simp), ← hz]
    show w.q.used = _
    rw [hwq, huq]
  · exact same_trans (same_mono hus (by simp)) (same_trans (same_mono hws (by simp)) (same_trans (same_mono hzs (by simp))
      (same_trans (same_mono hys (by simp)) (by simp [Mach.SameBut]))))

theorem clean_state {d : Desc} {p : Nat} (h : d.state p = .lit) :
    d.taintAll = false ∧ d.lit.getLsbD p = true ∧ d.pendw.getLsbD (p / 4) = false ∧ d.dirty.getLsbD p = false := by
  unfold Desc.state at h
  split at h
  · cases h
  · rename_i ha
    split at h
    · rename_i hl
      split at h
      · cases h
      · rename_i hw
        split at h
        · cases h
        · rename_i hd; exact ⟨by simpa using ha, hl, by simpa using hw, by simpa using hd⟩
    · repeat' first | (cases h; done) | split at h

/-- A command with no versions and no transfer waits for nothing. -/
theorem durable_none (m : Mach) (i : Nat) (h1 : (m.cmd i).vers = []) (h2 : (m.cmd i).xid = none) (h3 : (m.cmd i).cover = [])
    (h4 : (m.cmd i).todo = []) (h5 : m.twn.rxWait = []) (h6 : m.q.used.Nodup) (h7 : i ∈ m.q.used) (h8 : ∀ j, j ≠ i → (m.cmd j).covering = false) :
    m.awaitDurable i = (m.setCmd i { m.cmd i with covering := true }).complete i (m.cmd i).finalStatus
      (if entOpc (m.cmd i).entry == opDouse || entOpc (m.cmd i).entry == opPersist then (m.cmd i).done else 0) 0 := by
  generalize hw : m.setCmd i { m.cmd i with covering := true } = w
  have hwi : w.cmd i = { m.cmd i with covering := true } := by rw [← hw, Mach.cmd_setCmd_same]
  have hwj : ∀ j, j ≠ i → w.cmd j = m.cmd j := by intro j hj; rw [← hw, Mach.cmd_setCmd_ne _ _ _ _ hj]
  have e : m.awaitDurable i = (w.pushCovers i).settleCovers := by
    unfold Mach.awaitDurable Mach.verCovers Mach.stripesOf
    dsimp only
    rw [h1, h2, h3]
    simp only [List.filter_nil, List.map_nil, List.any_nil, Bool.false_eq_true, if_false, List.append_nil, List.contains_nil, List.filter_false]
    rw [← h1, ← h2, ← hw]
    congr 3
    generalize m.cmd i = c at h3
    cases c
    dsimp only at h3
    rw [h3]
  have ep : w.pushCovers i = w := by
    unfold Mach.pushCovers; rw [hwi]; dsimp only; rw [h3]; rfl
  rw [e, ep, settle_one w i (by rw [← hw]; exact h5) (by rw [← hw, used_updates]; exact h6) (by rw [← hw, used_updates]; exact h7) (by rw [hwi])
    (by rw [hwi]; exact h3) (by rw [hwi]; exact h4) (fun j hj => by rw [hwj j hj]; exact h8 j hj), hwi]
  rfl

end Sys2Proof.Machine
end

