-- ==== Sys2Proof/Laws/Vols.lean ====
section
/-! SUPPORT. Laws of the volumes: what writing map entries, unmapping an extent, doing a volume command's work and answering a background
command leave, for the proofs of the volume, service and twin statements. -/

namespace Sys2Proof.Machine

-- One proof at a time: proofs that wait for each other would each hold a thread and its stack.
set_option Elab.async false

theorem putFur_same (f : Nat) (x : Fur) (m : Mach) : Mach.SameBut [.gln, .hdl, .reg] m (m.putFur f x) := by
  unfold Mach.putFur Mach.markTable
  exact same_trans (b := m.setFur f x) (by simp [Mach.SameBut]) (same_mono (markSeg_same _ _).1 (by simp))

theorem releaseFur_same (f : Nat) (m : Mach) : Mach.SameBut [.gln, .hdl, .reg] m (m.releaseFur f) := by
  unfold Mach.releaseFur Mach.endVictim
  exact same_trans (putFur_same f { m.fur f with st := .released, eRel := m.nextRootEpoch } m) (by simp [Mach.SameBut])

theorem validDown_same (f : Nat) (m : Mach) : Mach.SameBut [.gln, .hdl, .reg] m (m.validDown f) := by
  unfold Mach.validDown
  dsimp only
  split
  · exact same_trans (b := m.setFur f { m.fur f with valid := (m.fur f).valid - 1 }) (by simp [Mach.SameBut]) (releaseFur_same _ _)
  · simp [Mach.SameBut]

theorem validUp_same (f : Nat) (m : Mach) : Mach.SameBut [.gln, .hdl, .reg] m (m.validUp f) := by
  unfold Mach.validUp; simp [Mach.SameBut]

/-- What writing a map entry leaves. -/
theorem setEntry_facts (m : Mach) (i : Nat) (e : BitVec 40) : (∀ j, (m.setEntry i e).entry j = if j = i then e else m.entry j) ∧
    (m.setEntry i e).vol = { m.vol with map := (m.setEntry i e).vol.map } ∧ Mach.SameBut [.vol, .gln, .hdl, .reg] m (m.setEntry i e) := by
  unfold Mach.setEntry
  dsimp only
  split
  · rename_i h
    refine ⟨fun j => ?_, rfl, same_refl ..⟩
    split
    · subst_vars; rfl
    · rfl
  · have g1 := (markSegs_facts (mapSegsOf i) (m.updVol fun x => { x with map := SMap.set unmapped x.map i e })).1
    generalize (m.updVol fun x => { x with map := SMap.set unmapped x.map i e }).each (mapSegsOf i) Mach.markSeg = u at g1
    have g2 : Mach.SameBut [.gln, .hdl, .reg] u (if isAddr e = true then u.validUp (u.furrowOfAddr e) else u) := by
      split
      · exact validUp_same _ _
      · exact same_refl ..
    generalize (if isAddr e = true then u.validUp (u.furrowOfAddr e) else u) = w at g2
    have g3 : Mach.SameBut [.gln, .hdl, .reg] w (if isAddr (m.entry i) = true then w.validDown (w.furrowOfAddr (m.entry i)) else w) := by
      split
      · exact validDown_same _ _
      · exact same_refl ..
    generalize (if isAddr (m.entry i) = true then w.validDown (w.furrowOfAddr (m.entry i)) else w) = z at g3
    have hv : z.vol = { m.vol with map := SMap.set unmapped m.vol.map i e } := by
      rw [same_vol g3 (by simp), same_vol g2 (by simp), same_vol g1 (by simp)]; rfl
    refine ⟨fun j => ?_, ?_, ?_⟩
    · unfold Mach.entry; rw [hv]; exact SMap.get_set ..
    · rw [hv]
    · exact same_trans (b := m.updVol fun x => { x with map := SMap.set unmapped x.map i e }) (by simp [Mach.SameBut])
        (same_trans (same_mono g1 (by simp)) (same_trans (same_mono g2 (by simp)) (same_mono g3 (by simp))))

theorem unmapEach (l : List Nat) (m : Mach) :
    let t := m.each l fun i m => m.setEntry i unmapped
    (∀ j, t.entry j = if j ∈ l then unmapped else m.entry j) ∧ t.vol = { m.vol with map := t.vol.map } ∧ Mach.SameBut [.vol, .gln, .hdl, .reg] m t := by
  unfold Mach.each
  induction l generalizing m with
  | nil => exact ⟨fun j => by simp, rfl, same_refl ..⟩
  | cons a l ih =>
    intro t
    have e : t = List.foldl (fun m i => Mach.setEntry i unmapped m) (m.setEntry a unmapped) l := rfl
    obtain ⟨h1, h2, h3⟩ := setEntry_facts m a unmapped
    obtain ⟨g1, g2, g3⟩ := ih (m.setEntry a unmapped)
    refine ⟨fun j => ?_, ?_, same_trans h3 (by rw [e]; exact g3)⟩
    · rw [e]; refine (g1 j).trans ?_
      rw [h1]
      by_cases ej : j = a
      · simp [ej]
      · simp [ej]
    · rw [e]; refine g2.trans ?_; rw [h2]

/-- Keys of a sparse map: one that is not listed reads as the default. -/
theorem get_unlisted {α : Type} (d : α) (m : SMap α) (k : Nat) (h : ∀ e ∈ m, e.1 ≠ k) : SMap.get d m k = d := by
  induction m with
  | nil => rfl
  | cons a m ih =>
    obtain ⟨j, v⟩ := a
    have hj : j ≠ k := h (j, v) (by simp)
    have := ih (fun e he => h e (by simp [he]))
    rw [SMap.get, if_neg (fun e => hj e.symm)]
    exact this

theorem dropVer_facts (m : Mach) (id : Nat) : Mach.SameBut [.buf, .reg, .alm] m (m.dropVer id) ∧ ∀ x ∈ (m.dropVer id).buf.vers, x ∈ m.buf.vers := by
  unfold Mach.dropVer Mach.dropVers
  split
  · exact ⟨same_refl .., fun _ h => h⟩
  · generalize hu : (m.updBuf fun b => { b with vers := b.vers.filter fun x => !([id].contains x.id) }) = u
    have hus : Mach.SameBut [.buf] m u := by rw [← hu]; simp [Mach.SameBut]
    have h := observeBuf_same u
    refine ⟨same_trans (same_mono hus (by simp)) (same_mono h (by simp)), fun x hx => ?_⟩
    rw [same_buf h (by simp), ← hu] at hx
    exact List.mem_of_mem_filter hx

/-- Dropping superseded versions takes versions out of the buffer and counts them. -/
theorem dropGone_facts (l : List Nat) (m : Mach) :
    let t := m.each l fun id m => (m.bump Reg.MAP_SUPERSEDED).dropVer id
    Mach.SameBut [.buf, .reg, .alm] m t ∧ ∀ x ∈ t.buf.vers, x ∈ m.buf.vers := by
  unfold Mach.each
  induction l generalizing m with
  | nil => exact ⟨same_refl .., fun _ h => h⟩
  | cons a l ih =>
    obtain ⟨h1, h2⟩ := dropVer_facts (m.bump Reg.MAP_SUPERSEDED) a
    obtain ⟨g1, g2⟩ := ih ((m.bump Reg.MAP_SUPERSEDED).dropVer a)
    have hb : Mach.SameBut [.buf, .reg, .alm] m (m.bump Reg.MAP_SUPERSEDED) := by simp [Mach.SameBut]
    rw [List.foldl_cons]
    exact ⟨same_trans (same_trans hb h1) g1, fun x hx => by simpa using h2 x (g2 x hx)⟩

/-- Unmapping a volume's extent: its entries read UNMAPPED; versions leave the buffer only where their installs waited. -/
theorem unmapExtent_facts (m : Mach) (v : Vid) :
    (∀ j, (m.unmapExtent v).entry j = if j / 65536 ∈ (m.volu v).chunks then unmapped else m.entry j) ∧ (m.unmapExtent v).vol.v = m.vol.v ∧
      Mach.SameBut [.vol, .gln, .hdl, .buf, .reg, .alm] m (m.unmapExtent v) ∧ (∀ x ∈ (m.unmapExtent v).buf.vers, x ∈ m.buf.vers) ∧
      (m.vol.waiting = [] → (m.unmapExtent v).buf = m.buf) ∧
      ((∀ e ∈ m.vol.map, e.1 / 65536 ∉ (m.volu v).chunks) → (m.unmapExtent v).hdl = m.hdl) := by
  generalize ht : m.unmapExtent v = t
  unfold Mach.unmapExtent at ht
  dsimp only at ht
  obtain ⟨h1, h2, h3⟩ := unmapEach ((m.vol.map.filter fun e => (m.volu v).chunks.contains (e.1 / 65536)).map (·.1)) m
  have hn : (∀ e ∈ m.vol.map, e.1 / 65536 ∉ (m.volu v).chunks) →
      m.each ((m.vol.map.filter fun e => (m.volu v).chunks.contains (e.1 / 65536)).map (·.1)) (fun i m => m.setEntry i unmapped) = m := by
    intro hn
    rw [List.filter_eq_nil_iff.2 (by intro e he; simpa using hn e he)]
    rfl
  generalize m.each ((m.vol.map.filter fun e => (m.volu v).chunks.contains (e.1 / 65536)).map (·.1)) (fun i m => m.setEntry i unmapped) = u at h1 h2 h3 ht hn
  generalize hw : (u.updVol fun x => { x with
    inst := x.inst.filter fun e => !(m.volu v).chunks.contains (e.1 / 65536)
    waiting := x.waiting.filter fun w => !(m.volu v).chunks.contains (w.entry / 65536) }) = w at ht
  have hws : Mach.SameBut [.vol] u w := by rw [← hw]; simp [Mach.SameBut]
  obtain ⟨g1, g2⟩ := dropGone_facts ((u.vol.waiting.filter fun w => (m.volu v).chunks.contains (w.entry / 65536)).filterMap (·.ver)) w
  have hv : t.vol = w.vol := by rw [← ht]; exact same_vol g1 (by simp)
  refine ⟨fun j => ?_, ?_, ?_, fun x hx => ?_, fun hwt => ?_, fun h => ?_⟩
  · refine Eq.trans (show _ = u.entry j by unfold Mach.entry; rw [hv, ← hw]; rfl) ?_
    rw [h1]
    by_cases hc : j / 65536 ∈ (m.volu v).chunks
    · rw [if_pos hc]
      split
      · rfl
      · rename_i hn
        refine get_unlisted unmapped _ _ (fun e he => ?_)
        intro ej
        apply hn
        rw [List.mem_map]
        exact ⟨e, by rw [List.mem_filter]; exact ⟨he, by simp [ej, hc]⟩, ej⟩
    · rw [if_neg hc, if_neg]
      intro hm
      rw [List.mem_map] at hm
      obtain ⟨e, he, ej⟩ := hm
      rw [List.mem_filter] at he
      rw [← ej] at hc
      exact hc (by simpa using he.2)
  · rw [hv, ← hw]; show u.vol.v = _; rw [h2]
  · rw [← ht]; exact same_trans (same_mono h3 (by simp)) (same_trans (same_mono hws (by simp)) (same_mono g1 (by simp)))
  · rw [← ht] at hx
    have := g2 x hx
    rwa [same_buf hws (by simp), same_buf h3 (by simp)] at this
  · have e : u.vol.waiting = [] := by rw [h2]; exact hwt
    rw [← ht, e]
    show w.buf = _
    rw [same_buf hws (by simp), same_buf h3 (by simp)]
  · rw [← ht, same_hdl g1 (by simp), same_hdl hws (by simp), hn h]

theorem discard_facts (m : Mach) (v : Vid) : (m.discardVersions v).buf.vers = m.buf.vers.filter (fun x => x.vol != v || x.st == .placed) ∧
    (m.discardVersions v).buf.wsn = m.buf.wsn ∧ Mach.SameBut [.buf, .reg, .alm] m (m.discardVersions v) := by
  unfold Mach.discardVersions
  have h := observeBuf_same (m.updBuf fun b => { b with vers := b.vers.filter fun x => x.vol != v || x.st == .placed })
  exact ⟨by rw [same_buf h (by simp)]; rfl, by rw [same_buf h (by simp)]; rfl,
    same_trans (b := m.updBuf fun b => { b with vers := b.vers.filter fun x => x.vol != v || x.st == .placed }) (by simp [Mach.SameBut]) (same_mono h (by simp))⟩

/-- The work of a volume's command. -/
theorem volWork_facts (m : Mach) (v : Vid) (h1 : (m.volu v).op ≠ none) (h2 : (m.volu v).worked = false) (h3 : m.volBusy v = false) :
    (∀ j, (m.volWork v).entry j = if j / 65536 ∈ (m.volu v).chunks then unmapped else m.entry j) ∧
    (∃ w, (m.volWork v).volu v = { m.volu v with
        layout1 := (m.volu v).newLayout1, enc := (m.volu v).newEnc
        keySlot := if (m.volu v).newEnc then (m.volu v).newKey else 0, worked := true, fmtWsn := w }) ∧
    (∀ u, u ≠ v → (m.volWork v).volu u = m.volu u) ∧
    (m.vol.waiting = [] → (m.volWork v).buf.vers = m.buf.vers.filter (fun x => x.vol != v || x.st == .placed)) ∧
    (∀ x ∈ (m.volWork v).buf.vers, x ∈ m.buf.vers ∧ (x.vol ≠ v ∨ x.st = .placed)) ∧
    Mach.SameBut [.vol, .gln, .hdl, .buf, .reg, .alm] m (m.volWork v) := by
  obtain ⟨a1, a2, a3, a4, a5, a6⟩ := unmapExtent_facts m v
  generalize hu : m.unmapExtent v = u at a1 a2 a3 a4 a5 a6
  obtain ⟨b1, b3, b2⟩ := discard_facts u v
  generalize hw : u.discardVersions v = w at b1 b2 b3
  have hwv : ∀ j, w.volu j = m.volu j := fun j => by unfold Mach.volu; rw [same_vol b2 (by simp), a2]
  generalize hx : ({ m.volu v with
        layout1 := (m.volu v).newLayout1, enc := (m.volu v).newEnc
        keySlot := if (m.volu v).newEnc then (m.volu v).newKey else 0, worked := true, fmtWsn := w.buf.wsn } : Vol) = x
  generalize hk : ((w.setVol v x).updHdl fun h => { h with marks := SMap.put h.marks v.val { m.volu v with fmtWsn := w.buf.wsn, internal := false } }) = k
  have hks : Mach.SameBut [.hdl] (w.setVol v x) k := by rw [← hk]; simp [Mach.SameBut]
  have e : m.volWork v = k.askDefinition (.volume v) := by
    unfold Mach.volWork
    dsimp only
    rw [if_neg (by
      simp only [Bool.or_eq_true, not_or]
      exact ⟨⟨by simpa using h1, by simp [h2]⟩, by simp [h3]⟩), hu, hw, hwv, ← hk, ← hx]
  have c := asks k (.volume v)
  rw [e]
  have hs : Mach.SameBut [.vol, .gln, .hdl, .buf, .reg, .alm] m k :=
    same_trans (same_mono a3 (by simp)) (same_trans (same_mono b2 (by simp)) (same_trans (b := w.setVol v x) (by simp [Mach.SameBut]) (same_mono hks (by simp))))
  have hkv : k.vol = (w.setVol v x).vol := same_vol hks (by simp)
  have hkb : k.buf = w.buf := (same_buf hks (by simp)).trans rfl
  refine ⟨fun j => ?_, ⟨w.buf.wsn, ?_⟩, fun j hj => ?_, fun hn => ?_, fun y hy => ?_, same_trans hs (same_mono c.2 (by simp))⟩
  · rw [← a1]
    unfold Mach.entry; rw [same_vol c.2 (by simp), hkv]
    show SMap.get unmapped w.vol.map j = _
    rw [same_vol b2 (by simp)]
  · rw [volu_of (same_vol c.2 (by simp)), volu_of hkv, hx]; exact Mach.volu_setVol_same ..
  · rw [volu_of (same_vol c.2 (by simp)), volu_of hkv, Mach.volu_setVol_ne _ _ _ _ hj, hwv]
  · rw [same_buf c.2 (by simp), hkb, b1, a5 hn]
  · rw [same_buf c.2 (by simp), hkb, b1] at hy
    rw [List.mem_filter] at hy
    exact ⟨a4 y hy.1, by simpa using hy.2⟩

/-- A volume command that is accepted. -/
theorem volCmd_open (m : Mach) (p : Port) (oc : Nat) (op : BgOp) (r : Mach → Option Nat) (f : Mach → Mach) (h1 : m.volGated = false)
    (h2 : m.adm.bg = none) (h3 : r m = none) : m.volCmd p oc op r f =
      f (((m.updAdm fun a => { a with bg := some { port := p, op := op } }).updPort p fun x => { x with bgOpcode := oc, bgPct := 0, bgRc := 0, bgExt := 0 }).answer p
        St.success false true []) := by
  unfold Mach.volCmd
  rw [if_neg (by simp [h1]), if_neg (by simp [h2]), h3]
  dsimp only
  unfold Mach.startBg
  rw [if_neg (by simp [h2])]

theorem volCmd_no (m : Mach) (p : Port) (oc : Nat) (op : BgOp) (r : Mach → Option Nat) (f : Mach → Mach) (e : Nat)
    (h : m.volGated = false → m.adm.bg = none → r m = some e) : m.volCmd p oc op r f =
      m.refuse p (if m.volGated then St.volumeNotReady else if m.adm.bg.isSome then St.backgroundBusy else e) := by
  unfold Mach.volCmd
  split
  · rfl
  · rename_i h1
    split
    · rfl
    · rename_i h2
      rw [h (by simpa using h1) (by simpa using h2)]

theorem busy_of {a b : Mach} (h : b.q = a.q) (v : Vid) : b.volBusy v = a.volBusy v := by
  unfold Mach.volBusy Mach.cmd; rw [h]

/-- The state once a background command has been answered. -/
theorem bg_facts (m : Mach) (p : Port) (op : BgOp) (oc : Nat) :
    let u := ((m.updAdm fun a => { a with bg := some { port := p, op := op } }).updPort p fun x => { x with bgOpcode := oc, bgPct := 0, bgRc := 0, bgExt := 0 }).answer p
        St.success false true []
    u.adm.bg = some { port := p, op := op } ∧ (u.port.get p).bgOpcode = oc ∧ (u.port.get p).bgPct = 0 ∧
      m.Sent [.mbox p (returnCode St.success false true) St.success []] u ∧ Mach.SameBut [.adm, .port, .out] m u := by
  refine ⟨rfl, ?_, ?_, rfl, ?_⟩
  · unfold Mach.answer; rw [Mach.send_port]; unfold Mach.updPort; cases p <;> rfl
  · unfold Mach.answer; rw [Mach.send_port]; unfold Mach.updPort; cases p <;> rfl
  · unfold Mach.answer; simp [Mach.SameBut]

end Sys2Proof.Machine
end

