-- ==== Sys2Proof/Laws/Service.lean ====
section
/-! SUPPORT. Background commands and service actions: what a background command that has begun and one that has ended leave, and what
stopping and starting a page do. -/

namespace Sys2Proof.Machine

-- One proof at a time: proofs that wait for each other would each hold a thread and its stack.
set_option Elab.async false

/-- A machine is as it is when a background command of port p has been answered. -/
theorem begun_of (m : Mach) (p : Port) (op : BgOp) (oc : Nat) :
    m.Begun p op oc (((m.updAdm fun a => { a with bg := some { port := p, op := op } }).updPort p fun x =>
      { x with bgOpcode := oc, bgPct := 0, bgRc := 0, bgExt := 0 }).answer p St.success false true []) :=
  ⟨rfl, port_get (a := m.port) rfl, fun _ hq => port_ne (a := m.port) (p := p) rfl hq, rfl, by unfold Mach.answer; simp [Mach.SameBut]⟩

theorem startBg_begun (m : Mach) (p : Port) (op : BgOp) (oc : Nat) (f : Mach → Mach) (h : m.adm.bg = none) :
    ∃ u, m.Begun p op oc u ∧ m.startBg p op oc f = f u :=
  ⟨_, begun_of .., by unfold Mach.startBg; rw [if_neg (by simp [h])]⟩

theorem service_begun (m : Mach) (p : Port) (op : BgOp) (f : Mach → Mach) (h : m.adm.bg = none) (h1 : (m.port.get p).unlocked = true) :
    ∃ u, m.Begun p op 0xC071 u ∧ m.service p op f = f u := by
  obtain ⟨u, hu, e⟩ := startBg_begun m p op 0xC071 f h
  exact ⟨u, hu, by unfold Mach.service; rw [if_neg (by simp [h]), if_neg (by simp [h1])]; exact e⟩

theorem endBg_ended (m : Mach) (p : Port) (op : BgOp) (st : Nat) (h : m.adm.bg = some { port := p, op := op }) : m.Ended p st (m.endBg st) := by
  unfold Mach.endBg
  rw [h]
  exact ⟨rfl, port_get (a := m.port) rfl, fun _ hq => port_ne (a := m.port) (p := p) rfl hq, rfl, by simp [Mach.SameBut]⟩

theorem begun_hdr {a b : Mach} {p : Port} {op : BgOp} {oc : Nat} (h : a.Begun p op oc b) (q : Page) : b.hdr q = a.hdr q := by
  unfold Mach.hdr; rw [same_reg h.same (by simp)]

theorem begun_rd {a b : Mach} {p : Port} {op : BgOp} {oc : Nat} (h : a.Begun p op oc b) (k : Nat) : b.rd k = a.rd k := by
  unfold Mach.rd; rw [same_reg h.same (by simp)]

theorem begun_pageSt {a b : Mach} {p : Port} {op : BgOp} {oc : Nat} (h : a.Begun p op oc b) (q : Page) : b.pageSt q = a.pageSt q := by
  unfold Mach.pageSt; rw [begun_hdr h]

theorem begun_bg {a b : Mach} {p : Port} {op : BgOp} {oc : Nat} (h : a.Begun p op oc b) : b.adm.bg = some { port := p, op := op } := by
  rw [h.adm]

theorem up_eq {a b : Mach} {p : Port} {op : BgOp} {oc : Nat} (h : a.Begun p op oc b) (q : Port) : (b.port.get q).up = (a.port.get q).up := by
  by_cases e : q = p
  · rw [e, h.self]
  · rw [h.other q e]

theorem begun_mayStop {a b : Mach} {p : Port} {op : BgOp} {oc : Nat} (h : a.Begun p op oc b) (pg : Page) : b.mayStop pg = a.mayStop pg := by
  unfold Mach.mayStop Mach.stoppedNow Mach.running
  simp only [begun_pageSt h, up_eq h]

theorem hold_eq (m : Mach) (pg : Page) (x : Bool) : (m.hold pg x).reg = (m.setHdr pg { m.hdr pg with held := x }).reg := settleDev_reg _

theorem hdr_reg {a b : Mach} (h : b.reg = a.reg) (q : Page) : b.hdr q = a.hdr q := by unfold Mach.hdr; rw [h]

theorem svcStopPage_facts (u : Mach) (p : Port) (pg : Page) (h : pg ≠ .port p) (h1 : u.pageSt pg = .running) (h2 : u.mayStop pg = true) :
    (∀ q, (u.svcStopPage p pg).pageSt q = if q = pg then .stopping else u.pageSt q) ∧ ((u.svcStopPage p pg).hdr pg).held = true ∧
    (pg ≠ .lnt → pg ≠ .twn → pg ≠ .sow → (∀ c, pg ≠ .fch c) → (u.svcStopPage p pg).adm.bg = u.adm.bg ∧
      (u.svcStopPage p pg).hdr pg = { u.hdr pg with st := .stopping, held := true } ∧ u.HdrsBut [pg] (u.svcStopPage p pg) ∧
      u.RegsBut [] (u.svcStopPage p pg) ∧ u.SameBut [.reg, .dev, .adm] (u.svcStopPage p pg)) := by
  have e : u.svcStopPage p pg = ((u.setPageSt pg .stopping).stopBegins pg).hold pg true := by
    unfold Mach.svcStopPage
    rw [if_neg (by unfold ownPort; simpa using h)]
    have es : u.stopPage pg = (u.setPageSt pg .stopping).stopBegins pg := by
      unfold Mach.stopPage; rw [if_pos (by simp [h1, h2])]
    dsimp only
    rw [es, if_pos]
    rw [Mach.stopBegins_pageSt, pageSt_ite']; simp
  rw [e]
  generalize hw : (u.setPageSt pg .stopping).stopBegins pg = w
  have hr := hold_eq w pg true
  refine ⟨fun q => ?_, ?_, fun n1 n2 n3 n4 => ?_⟩
  · have : (w.hold pg true).pageSt q = (w.setHdr pg { w.hdr pg with held := true }).pageSt q := by
      unfold Mach.pageSt; rw [hdr_reg hr]
    rw [this]
    have : (w.setHdr pg { w.hdr pg with held := true }).pageSt q = w.pageSt q := by
      unfold Mach.pageSt
      by_cases eq : q = pg
      · rw [eq, Mach.hdr_setHdr_same]
      · rw [Mach.hdr_setHdr_ne _ _ _ _ eq]
    rw [this, ← hw, Mach.stopBegins_pageSt, pageSt_ite']
  · rw [hdr_reg hr, Mach.hdr_setHdr_same]
  · have : w = u.setPageSt pg .stopping := by
      rw [← hw]; unfold Mach.stopBegins; split <;> simp_all
    subst this
    refine ⟨?_, ?_, ?_, ?_, ?_⟩
    · unfold Mach.hold; rw [Mach.settleDev_bg]; rfl
    · rw [hdr_reg hr, Mach.hdr_setHdr_same]
      unfold Mach.setPageSt; rw [Mach.hdr_setHdr_same]
    · intro q hq
      have hq : q ≠ pg := by simpa using hq
      rw [hdr_reg hr, Mach.hdr_setHdr_ne _ _ _ _ hq]
      unfold Mach.setPageSt; rw [Mach.hdr_setHdr_ne _ _ _ _ hq]
    · intro k _; unfold Mach.rd; rw [hr]; rfl
    · unfold Mach.hold
      refine same_trans (b := (u.setPageSt pg .stopping).setHdr pg { (u.setPageSt pg .stopping).hdr pg with held := true }) ?_ (same_mono (settleDev_same _) (by simp))
      simp [Mach.SameBut, Mach.setPageSt]

theorem begunEnded_of {a u : Mach} {p : Port} {op : BgOp} {oc st : Nat} (h : a.Begun p op oc u) : a.BegunEnded p op oc st (u.endBg st) :=
  ⟨u, h, endBg_ended _ _ _ _ (begun_bg h)⟩

theorem raise_ended (u : Mach) (p : Port) (pg : Page) (op : BgOp) (h : u.adm.bg = some { port := p, op := op }) (st : Nat) :
    ∃ v, Mach.Recorded (u.errBit pg 1) v ∧ v.Ended p st ((u.raise pg 1 0).endBg st) := by
  have hr := recorded_raise u pg 1 0
  refine ⟨_, hr, endBg_ended _ _ op _ ?_⟩
  rw [hr.adm]; exact h

theorem raise_pageSt (u : Mach) (pg q : Page) : (u.raise pg 1 0).pageSt q = u.pageSt q := by
  simp

theorem svcStartPage_run (u : Mach) (p : Port) (pg : Page) (h : pg ≠ .port p) (h1 : u.pageSt pg = .stopped) :
    u.svcStartPage p pg = u.setHdr pg { u.hdr pg with st := .starting, gen := (u.hdr pg).gen + 1 } := by
  unfold Mach.svcStartPage
  rw [if_neg (by unfold ownPort; simpa using h)]
  have es : u.startPage pg = u.setHdr pg { u.hdr pg with st := .starting, gen := (u.hdr pg).gen + 1 } := by
    unfold Mach.startPage; rw [if_pos (by simp [h1])]
  dsimp only
  rw [es, if_pos (by unfold Mach.pageSt; rw [Mach.hdr_setHdr_same]; rfl)]

theorem all_staged (pg : Page) (x : List (Nat × Word)) (h : ∃ e ∈ x, isStaged pg e.1 = false) : (x.all fun e => isStaged pg e.1) = false := by
  obtain ⟨e, he, h⟩ := h
  rw [List.all_eq_false]; exact ⟨e, he, by simp [h]⟩

/-- The end of a background operation whose port has not been reset since. -/
theorem endBg_same (m : Mach) (st : Nat) (h : ∀ b, m.adm.bg = some b → b.orphan = false) : Mach.SameBut [.adm, .port, .out] m (m.endBg st) := by
  unfold Mach.endBg
  split
  · exact same_refl ..
  · rename_i b hb
    dsimp only
    rw [if_neg (by simp [h b hb])]
    simp [Mach.SameBut]

theorem endBg_wr (m : Mach) (k : Nat) (v : Word) (st : Nat) (h : ∀ b, m.adm.bg = some b → b.orphan = false) :
    (m.wr k v).endBg st = (m.endBg st).wr k v := by
  unfold Mach.endBg
  rw [show (m.wr k v).adm = m.adm from rfl]
  split
  · rfl
  · rename_i b hb
    dsimp only
    rw [if_neg (by simp [h b hb]), if_neg (by simp [h b hb])]
    rfl

theorem endBg_comm {ps : List Part} {a b : Mach} (st : Nat) (h : Mach.SameBut ps a b) (h1 : .adm ∉ ps) (h2 : .port ∉ ps) (h3 : .out ∉ ps)
    (ho : ∀ x, a.adm.bg = some x → x.orphan = false) : Mach.SameBut ps (a.endBg st) (b.endBg st) := by
  have e1 := same_adm h h1
  have e2 := same_port h h2
  have e3 := same_out h h3
  unfold Mach.endBg
  rw [e1]
  split
  · exact h
  · rename_i x hx
    dsimp only
    rw [if_neg (by simp [ho x hx]), if_neg (by simp [ho x hx])]
    obtain ⟨g1, g2, g3, g4, g5, g6, g7, g8, g9, g10, g11, g12, g13, g14, g15, g16, g17, g18, g19, g20⟩ := h
    refine ⟨g1, g2, g3, .inr ?_, .inr ?_, g6, g7, g8, g9, g10, g11, g12, g13, g14, g15, g16, g17, g18, .inr ?_, g20⟩
    · rw [Mach.send_port, Mach.send_port]
      unfold Mach.updPort
      rw [show (b.updAdm fun a => { a with bg := none }).port = b.port from rfl, e2]
      rfl
    · show { b.adm with bg := none } = ({ a.adm with bg := none } : Admin); rw [e1]
    · show b.out ++ [_] = a.out ++ [_]; rw [e3, show (b.updAdm fun a => { a with bg := none }).port = b.port from rfl, e2]; rfl

theorem begun_chn {a b : Mach} {p : Port} {op : BgOp} {oc : Nat} (h : a.Begun p op oc b) (c : Chan) : b.chn c = a.chn c := by
  unfold Mach.chn; rw [same_fl h.same (by simp)]

theorem begun_dram {a b : Mach} {p : Port} {op : BgOp} {oc : Nat} (h : a.Begun p op oc b) (c : Fin 4) : b.dram c = a.dram c := by
  unfold Mach.dram; rw [same_drc h.same (by simp)]

theorem begun_sens {a b : Mach} {p : Port} {op : BgOp} {oc : Nat} (h : a.Begun p op oc b) (c : Nat) : b.sens c = a.sens c := by
  unfold Mach.sens; rw [same_thm h.same (by simp)]

theorem recal_one (u : Mach) (o : Int) (h : u.pageSt .thm = .stopped) : u.recalibrate [o] =
    (((u.calibrate 0 o).updThm fun t => { t with sensor := t.sensor.map fun e => (e.1, { e.2 with ref := none }) }).touch .thm).endBg St.success := by
  unfold Mach.recalibrate; rw [if_neg (by simp [h])]; rfl

theorem windows_ok (m : Mach) : ∀ w ∈ m.newWindows, w.2.1 + 26 ≤ w.2.2 ∧ w.2.2 < 64 ∧ w.1 = (w.2.1 + w.2.2) / 2 := by
  intro w hw
  unfold Mach.newWindows at hw
  rw [List.mem_map] at hw
  obtain ⟨q, _, rfl⟩ := hw
  have h1 : Config.eyeEdge m.free (2 * q) % 38 < 38 := Nat.mod_lt _ (by omega)
  have h2 := Nat.mod_lt (Config.eyeEdge m.free (2 * q + 1)) (show 38 - Config.eyeEdge m.free (2 * q) % 38 > 0 by omega)
  unfold centred
  dsimp only
  omega

theorem keyMail_open (i : Instr) (p : Port) (l w : Nat) (f : Mach → Mach) (m : Mach) (h : m.mailboxUp p = true) (h1 : l = w)
    (h2 : m.mailGated = false) (h3 : m.running .key = true) : m.keyMail i p l w f = f m :=
  (mail_open i p _ _ _ _ _ h h1 (.inr h2)).trans (if_pos h3)

theorem keyMail_shut (i : Instr) (p : Port) (l w : Nat) (f : Mach → Mach) (m : Mach) (h : m.mailboxUp p = true) (h1 : l = w)
    (h3 : m.mailGated = true ∨ m.running .key = false) : m.keyMail i p l w f = m.refuse p St.volumeNotReady := by
  by_cases g : m.mailGated = true
  · exact mail_gated i p l w _ m h h1 g
  · exact (mail_open i p _ _ _ _ _ h h1 (.inr (by simpa using g))).trans (if_neg (by simp [h3.resolve_left g]))

theorem refused_of (p : Port) (st : Nat) (m : Mach) : m.ImportRefused p st (m.importRefused p st) := by
  have e := rdN_bump (m.updKey fun k => { k with xport := none }) Reg.KEY_REFUSED
  have f := rs_bump (m.updKey fun k => { k with xport := none }) Reg.KEY_REFUSED
  have g := sb_bump (m.updKey fun k => { k with xport := none }) Reg.KEY_REFUSED
  have ho : (m.importRefused p st).out = m.out ++ [.mbox p (returnCode st false false) st []] := by
    show ((m.updKey fun k => { k with xport := none }).bump Reg.KEY_REFUSED).out ++ _ = _
    rw [same_out g (by simp)]; rfl
  refine ⟨same_key g (by simp), e, ⟨fun j hj => f.1 j hj, f.2.1, f.2.2.1, f.2.2.2⟩, ho, ?_⟩
  exact same_trans (b := (m.updKey fun k => { k with xport := none }).bump Reg.KEY_REFUSED)
    (same_trans (b := m.updKey fun k => { k with xport := none }) (by simp [Mach.SameBut]) (same_mono g (by simp))) (same_mono (answer_same ..) (by simp))

theorem asksKey_of (m : Mach) (k e : Nat) (w : Waiter) : m.AsksKey k e w ((m.ask (.nonce k e nonceBlock)).1.askFor (.definition {}) false w) := by
  unfold Mach.AsksKey Mach.askFor Mach.ask
  show ({ m.hdl with want := _, nextRec := _, waiters := _ } : Headland) = _
  simp

end Sys2Proof.Machine
end

