-- ==== Sys2Proof/Laws/Twin.lean ====
section
/-! SUPPORT. The twin link: what sending a sequenced frame and accepting one leave. -/

namespace Sys2Proof.Machine

-- One proof at a time: proofs that wait for each other would each hold a thread and its stack.
set_option Elab.async false

theorem rd_bump64 (m : Mach) (k j : Nat) : (m.bump64 k).rd j = m.rd j := rd_bump64By ..

theorem touch_c64 (m : Mach) (p : Page) : (m.touch p).reg.c64 = m.reg.c64 := by
  unfold Mach.touch; split <;> rfl

theorem c64_bump64 (m : Mach) (k : Nat) :
    (m.bump64 k).reg.c64 = SMap.set 0 m.reg.c64 k (SMap.get 0 m.reg.c64 k + 1) := by
  unfold Mach.bump64 Mach.bump64By
  dsimp only
  split
  · rw [touch_c64]; rfl
  · rfl

theorem hdr_touch0 (m : Mach) (p q : Page) : { (m.touch p).hdr q with seq := 0 } = { m.hdr q with seq := 0 } := (rs_touch m p).2.2.2 q

theorem hdr_bump64 (m : Mach) (k : Nat) (q : Page) : { (m.bump64 k).hdr q with seq := 0 } = { m.hdr q with seq := 0 } := by
  unfold Mach.bump64 Mach.bump64By
  dsimp only
  split
  · exact hdr_touch0 _ _ _
  · rfl

theorem twnPut_sends (m : Mach) (f : Frame) : Mach.SendsFrame f m (m.twnPut f) := by
  have hs : ∀ m : Mach, Mach.SameBut [.reg] m (m.bump64 Reg.TWN_TXFR_LO) := fun m => by simp [Mach.SameBut]
  refine ⟨(same_twn (hs _) (by simp)).trans rfl, (same_out (hs _) (by simp)).trans rfl, fun k => (rd_bump64 ..).trans rfl, (c64_bump64 ..).trans rfl,
    fun p => (hdr_bump64 ..).trans rfl, ?_⟩
  unfold Mach.twnPut
  dsimp only
  refine same_trans (same_trans (b := m.updTwn fun t => { t with
      txSeq := (t.txSeq + 1) % 65536
      unacked := t.unacked ++ [{ f with seq := m.twn.txSeq, ack := m.twnAck }]
      peak := max t.peak (t.unacked.length + 1) }) ?_ ?_) (same_mono (hs _) (by simp))
  · simp [Mach.SameBut]
  · simp [Mach.SameBut]

theorem sends_of {f : Frame} {a b c : Mach} (h : Mach.SendsFrame f b c) (e : Mach.SameBut [.twn] a b) (hx : b.twn.txSeq = a.twn.txSeq)
    (hr : b.twn.rxSeq = a.twn.rxSeq) : a.Sent [.frame { f with seq := a.twn.txSeq, ack := a.twnAck }] c := by
  have := h.sent
  unfold Mach.Sent at this ⊢
  rw [this, same_out e (by simp), hx]
  unfold Mach.twnAck
  rw [hr]

theorem twnSend_sends (m : Mach) (type flags xid idx : Nat) (words : List Nat) (data : BitVec 2048) (h : m.TwinFree) :
    Mach.SendsFrame (txFrame type flags xid idx words data) m (m.twnSend type flags xid idx words data) := by
  generalize hf : txFrame type flags xid idx words data = f
  have e : m.twnSend type flags xid idx words data =
      ((m.updTwn fun t => { t with order := [{ xid := none, left := 0, held := [f] }] }).twnPut f).updTwn fun t => { t with order := [] } := by
    unfold Mach.twnSend Mach.twnQueue
    rw [if_neg (by simp [h.present]), hf]
    have : (m.updTwn fun t => { t with order := t.order ++ [{ xid := none, left := 0, held := [f] }] }) =
        m.updTwn fun t => { t with order := [{ xid := none, left := 0, held := [f] }] } := by
      unfold Mach.updTwn; simp [h.order]
    rw [this, h.order]
    show Mach.twnNext 1 _ = _
    unfold Mach.twnNext
    dsimp only
    have hg : (m.updTwn fun t => { t with order := [{ xid := none, left := 0, held := [f] }] }).twnGo f =
        (m.updTwn fun t => { t with order := [{ xid := none, left := 0, held := [f] }] }).twnPut f := by
      unfold Mach.twnGo
      exact if_pos (show (decide (m.twn.unacked.length < 64) && m.twn.waiting.isEmpty) = true by simp [h.window, h.waiting])
    show (if (0 : Nat) = 0 then ((((m.updTwn fun t => { t with order := [{ xid := none, left := 0, held := [f] }] }).twnGo f).updTwn fun t => { t with order := [] }).twnNext 0) else _) = _
    rw [if_pos rfl, hg]
    rfl
  have p := twnPut_sends (m.updTwn fun t => { t with order := [{ xid := none, left := 0, held := [f] }] }) f
  rw [e]
  generalize (m.updTwn fun t => { t with order := [{ xid := none, left := 0, held := [f] }] }).twnPut f = b at p
  refine ⟨?_, p.sent, p.rd, p.c64, p.hdr, ?_⟩
  · show { b.twn with order := [] } = _
    rw [p.twn]
    unfold Mach.updTwn Mach.twnAck
    dsimp only
    rw [h.order]
  · exact same_trans (b := m.updTwn fun t => { t with order := [{ xid := none, left := 0, held := [f] }] }) (by simp [Mach.SameBut])
      (same_trans p.same (by simp [Mach.SameBut]))

/-- A CTRL frame that can go out at once passes PFF3 and goes out. -/
theorem ctrl_sends (m : Mach) (op : Nat) (v : Vid) (arg fence role size layout : Nat) (h : m.TwinFree) (g : m.CtrlGoes) :
    Mach.SendsCtrl op v arg fence role size layout m (m.twnCtrl op v arg fence role size layout) := by
  unfold Mach.SendsCtrl Mach.twnCtrl Mach.twnCtl
  rw [if_pos (by simp [g.fw, g.fifo])]
  exact twnSend_sends _ _ _ _ _ _ _ ⟨h.present, h.window, h.waiting, h.order⟩

/-- Until firmware and PFF3 run, it waits. -/
theorem ctrl_waits (m : Mach) (op : Nat) (v : Vid) (arg fence role size layout : Nat) (h : m.dev.fwRunning = false ∨ m.running (.pff 3) = false) :
    m.twnCtrl op v arg fence role size layout = m.updTwn fun t => { t with ctlOut := t.ctlOut ++ [[op, v.val, arg, fence, role, size, layout]] } := by
  unfold Mach.twnCtrl Mach.twnCtl
  rw [if_neg (by rcases h with h | h <;> simp [h])]

theorem acked_nowait (m : Mach) (ack : Nat) (h : m.twn.waiting = []) : m.twnAcked ack = m.updTwn fun t => { t with unacked := t.unacked.filter fun f => decide (0 < (f.seq + 65536 - ack) % 65536 ∧ (f.seq + 65536 - ack) % 65536 < 32768) } := by
  unfold Mach.twnAcked Mach.twnDrain
  rw [show (m.updTwn fun t => { t with unacked := t.unacked.filter fun f => decide (0 < (f.seq + 65536 - ack) % 65536 ∧ (f.seq + 65536 - ack) % 65536 < 32768) }).twn.waiting = [] from h]
  rfl

/-- What a sequenced frame that is expected does: it is accepted, then has its effect. -/
theorem rxSeq_open (m : Mach) (h : FrameHdr) (f : Mach → Mach) (he : m.Expects h) : ∃ u, m.Accepts h u ∧ m.rxSeq h f = f u := by
  let a := m.updTwn fun t => { t with crcRun := 0, unacked := t.unacked.filter fun f => decide (0 < (f.seq + 65536 - h.ack) % 65536 ∧ (f.seq + 65536 - h.ack) % 65536 < 32768) }
  let b := (a.updTwn fun t => { t with rxSeq := (m.twn.rxSeq + 1) % 65536, nakSent := false }).bump64 Reg.TWN_RXFR_LO
  have hb : Mach.SameBut [.reg] (a.updTwn fun t => { t with rxSeq := (m.twn.rxSeq + 1) % 65536, nakSent := false }) b := by simp [b, Mach.SameBut]
  have hrun : b.running .twn = true := by
    have hl := he.live
    unfold Mach.twinLive at hl
    simp only [Bool.and_eq_true] at hl
    have : ∀ q, b.pageSt q = m.pageSt q := by
      intro q
      have := hdr_bump64 (a.updTwn fun t => { t with rxSeq := (m.twn.rxSeq + 1) % 65536, nakSent := false }) Reg.TWN_RXFR_LO q
      have h2 := congrArg PageHdr.st this
      exact h2
    have h3 := hl.2
    unfold Mach.running at h3 ⊢
    rw [this]; exact h3
  have hup : b.twn.up = true := by
    have hl := he.live
    unfold Mach.twinLive at hl
    simp only [Bool.and_eq_true] at hl
    rw [same_twn hb (by simp)]; exact hl.1
  refine ⟨b.twnPlain 0 [], ⟨?_, ?_, ?_, ?_, ?_⟩, ?_⟩
  · unfold Mach.twnPlain
    rw [if_pos (by simp [hup, hrun])]
    rw [Mach.send_twn, same_twn hb (by simp)]; rfl
  · unfold Mach.twnPlain
    rw [if_pos (by simp [hup, hrun])]
    unfold Mach.Sent
    show b.out ++ _ = _
    rw [same_out hb (by simp)]; rfl
  · intro k
    unfold Mach.twnPlain
    rw [if_pos (by simp [hup, hrun])]
    exact (rd_bump64 ..).trans rfl
  · intro k
    unfold Mach.twnPlain
    rw [if_pos (by simp [hup, hrun])]
    exact (hdr_bump64 ..).trans rfl
  · unfold Mach.twnPlain
    rw [if_pos (by simp [hup, hrun])]
    refine same_trans (b := a.updTwn fun t => { t with rxSeq := (m.twn.rxSeq + 1) % 65536, nakSent := false }) (by simp [a, Mach.SameBut])
      (same_trans (same_mono hb (by simp)) (by simp [Mach.SameBut]))
  · unfold Mach.rxSeq Mach.rxPlain
    rw [if_pos he.live]
    rw [acked_nowait _ _ (show (m.updTwn fun t => { t with crcRun := 0 }).twn.waiting = [] from he.waiting)]
    dsimp only
    rw [if_neg (by show ¬ (!m.twn.present) = true; simp [he.present])]
    refine (if_pos (show h.seq % 65536 = m.twn.rxSeq from he.next)).trans rfl

theorem twinOp_open (m : Mach) (p : Port) (v : Vid) (f : Mach → Mach) (h : m.twinBusy v = false) : m.twinOp p v f = f m := by
  unfold Mach.twinOp; rw [if_neg (by simp [h])]

theorem free_await {m : Mach} (h : m.TwinFree) (w : TwinWait) : (m.twnAwait w).TwinFree := ⟨h.present, h.window, h.waiting, h.order⟩

theorem pend_facts (m : Mach) (v : Vid) (e : Nat) (o : Bool) (t : TwinSt) :
    (m.pendEpoch v e o t).volu v = { m.volu v with pendFence := some (e, o, t) } ∧ (∀ j, j ≠ v → (m.pendEpoch v e o t).volu j = m.volu j) ∧
    m.AsksDefinition (.takeover v) (m.pendEpoch v e o t) ∧ Mach.SameBut [.vol, .hdl] m (m.pendEpoch v e o t) := by
  have ha := asks (m.setVol v { m.volu v with pendFence := some (e, o, t) }) (.takeover v)
  unfold Mach.pendEpoch
  generalize (m.setVol v { m.volu v with pendFence := some (e, o, t) }).askDefinition (.takeover v) = b at ha
  refine ⟨?_, fun j hj => ?_, ha.1, same_trans (b := m.setVol v { m.volu v with pendFence := some (e, o, t) }) (by simp [Mach.SameBut]) (same_mono ha.2 (by simp))⟩
  · rw [volu_of (same_vol ha.2 (by simp)), Mach.volu_setVol_same]
  · rw [volu_of (same_vol ha.2 (by simp)), Mach.volu_setVol_ne _ _ _ _ hj]

theorem pend_await (m : Mach) (w : TwinWait) (v : Vid) (e : Nat) (o : Bool) (t : TwinSt) :
    ((m.twnAwait w).pendEpoch v e o t).volu v = { m.volu v with pendFence := some (e, o, t) } ∧ (∀ j, j ≠ v → ((m.twnAwait w).pendEpoch v e o t).volu j = m.volu j) ∧
    ((m.twnAwait w).pendEpoch v e o t).twn = { m.twn with wait := m.twn.wait ++ [w] } ∧
    m.AsksDefinition (.takeover v) ((m.twnAwait w).pendEpoch v e o t) ∧ Mach.SameBut [.vol, .twn, .hdl] m ((m.twnAwait w).pendEpoch v e o t) := by
  obtain ⟨a1, a2, a3, a4⟩ := pend_facts (m.twnAwait w) v e o t
  exact ⟨a1, a2, (same_twn a4 (by simp)).trans rfl, a3, same_trans (b := m.twnAwait w) (by unfold Mach.twnAwait; simp [Mach.SameBut]) (same_mono a4 (by simp))⟩

end Sys2Proof.Machine
end

