-- ==== Sys2Proof/WellFormed.lean ====
section
/-! DEFINITION. When a command is well formed: every operand that Syntax.lean carries as a number fits the field that the manual gives
it. An operand outside what a command's rules accept, but inside its field, is well formed: the command's meaning refuses it. -/

namespace Sys2Proof

/-- Does a number fit a field of n bits? -/
def fits (n v : Nat) : Bool := decide (v < 2 ^ n)

/-- An access width in bytes (R34). -/
def okWidth (w : Nat) : Bool := w == 1 || w == 2 || w == 4 || w == 8

/-- An offset of BAR0, behind it of BAR2 (R29), and behind that of configuration space. -/
def okOffset (off : Nat) : Bool := decide (off < 0x8801000)

/-- A mailbox payload length: the payload area is 16 KiB (R84). -/
def okLen (len : Nat) : Bool := decide (len ≤ 16384)

/-- A frame header (Table 17.1). -/
def FrameHdr.wf (h : FrameHdr) : Bool := fits 16 h.seq && fits 16 h.ack && fits 16 h.xid

/-- A parameter page: the feature address is one byte (Table 08.9), the geometry within the fields of an address (Table 10.1). -/
def ParamPage.wf (i : ParamPage) : Bool :=
  fits 8 i.tempFa && fits 16 i.planes && fits 16 i.pages && fits 16 i.blocks && i.factoryBad.all fun b => decide (b < 4096)

/-- At most 64 dies, and a window of 64 taps for each of eight pins in both directions (R181). -/
def ChanTraining.wf (t : ChanTraining) : Bool :=
  decide (t.dies.length ≤ 64) && t.dies.all ParamPage.wf && decide (t.windows.length ≤ 16) &&
    t.windows.all fun w => fits 6 w.1 && fits 6 w.2

/-- A section's row of an Amold image fits its fields (Table 14.5). -/
def Section.wf (x : Section) : Bool := fits 16 x.type && fits 32 x.offset && fits 32 x.length && fits 32 x.loadAddr

/-- The fields of an Amold header fit their widths (Table 14.5), and what is in an image fits its 4 MiB (R143). -/
def Image.wf (i : Image) : Bool :=
  fits 8 i.sv && fits 16 i.format && fits 8 i.nsect && fits 32 i.imglen && fits 16 i.devid && fits 8 i.stepping &&
    decide (i.sections.length ≤ 8) && i.sections.all Section.wf && decide (i.diecap.length ≤ 2 ^ 22)

/-- Table 06.7. -/
def VolArgs.wf (x : VolArgs) : Bool := fits 10 x.keySlot && fits 64 x.size

/-- A line of DRAM is one codeword of 80 symbols (R310). -/
def DramSyndrome.wf (x : DramSyndrome) : Bool := decide (x.symbols ≤ 80)

/-- Who used a lost word: frame, buffer and voltage-byte numbers are within their tables. -/
def DramUser.wf (u : DramUser) : Bool :=
  match u with
  | .bufferOpenWrite s => decide (s < 4096)
  | .descriptor _ b => fits 26 b
  | .voltage _ b => decide (b < 4096)
  | _ => true

/-- A CHANGE of SERVICE_ACTION has up to 64 pairs of 4-byte offset and 4-byte value (Table 06.11). -/
def okPairs (ps : List (Nat × Word)) : Bool := decide (ps.length ≤ 64) && ps.all fun e => fits 32 e.1

/-- The well-formed commands. -/
def Instr.wf (i : Instr) : Bool :=
  match i with
  | .registerWrite _ off width _ => okOffset off && okWidth width
  | .rcRegisterRead _ off width => okOffset off && okWidth width
  | .peakFieldRead _ off width => okOffset off && okWidth width
  | .pfDataRead _ _ width => okWidth width && width != 8
  | .flashTrainingDone _ t => t.wf
  | .interruptedEraseReerase _ _ b => decide (b < 4096)
  | .linkUp _ width speed _ _ => okWidth width && decide (1 ≤ speed ∧ speed ≤ 5)
  | .hdmDecoderCommit _ _ base size skip _ => fits 64 base && fits 64 size && fits 64 skip
  | .cxlMemRead _ hpa _ => fits 52 hpa && hpa % 64 == 0
  | .cxlMemWrite _ hpa _ _ => fits 52 hpa && hpa % 64 == 0
  | .cxlMemPoisonedWrite _ hpa _ => fits 52 hpa && hpa % 64 == 0
  | .cdatTableAccess _ h => fits 16 h
  | .getCertificate _ off length => fits 16 off && fits 16 length
  | .clearEventRecords _ _ _ hs => hs.all (fits 16) && fits 8 hs.length
  | .getLog _ _ off length => fits 32 off && fits 32 length
  | .getPoisonList _ dpa length => fits 64 dpa && fits 64 length
  | .transferFwFull _ _ length img => fits 32 length && img.wf
  | .transferFwInitiate _ _ length => fits 32 length
  | .transferFwContinue _ _ off length => fits 39 off && fits 32 length
  | .transferFwEnd _ _ off length img => fits 39 off && fits 32 length && img.wf
  | .fetchReadReturn _ es => decide (es.length ≤ 8)
  | .read _ lost => lost.all DramUser.wf
  | .verify _ lost => lost.all DramUser.wf
  | .light _ lost => lost.all DramUser.wf
  | .douse _ lost => lost.all DramUser.wf
  | .persist _ lost => lost.all DramUser.wf
  | .queueCreate _ len _ depth cls _ sq cq => okLen len && fits 16 depth && fits 8 cls && fits 64 sq && fits 64 cq
  | .queueDelete _ len _ => okLen len
  | .abort _ len _ => okLen len
  | .identifyController _ len => okLen len
  | .getLogExt _ len id sel off length => okLen len && fits 16 id && fits 16 sel && fits 32 off && fits 32 length
  | .getFeature _ len fid sel => okLen len && fits 16 fid && fits 16 sel
  | .setFeature _ len fid sel v => okLen len && fits 16 fid && fits 16 sel && fits 32 v
  | .setHoldupUs _ len v => okLen len && fits 32 v
  | .setServiceKey _ len _ => okLen len
  | .setSvCommit _ len v => okLen len && fits 32 v
  | .setVolumeRo _ len _ v => okLen len && fits 32 v
  | .volumeCreate _ len x => okLen len && x.wf
  | .volumeFormat _ len x => okLen len && x.wf
  | .volumeDelete _ len _ => okLen len
  | .serviceUnlockChallenge _ len => okLen len
  | .serviceUnlockSignature _ len _ => okLen len
  | .serviceUnlockRelock _ len => okLen len
  | .serviceStop _ len _ => okLen len
  | .serviceChange _ len _ ps => okLen len && okPairs ps
  | .serviceStart _ len _ => okLen len
  | .serviceStopChangeStart _ len _ ps => okLen len && okPairs ps
  | .serviceRetrainFch _ len _ => okLen len
  | .serviceRetrainDrc _ len _ => okLen len
  | .serviceRetrainPort _ len _ => okLen len
  | .serviceRetire _ len _ => okLen len
  | .serviceRecalibrate _ len os => okLen len && os.all fun o => decide (-32768 ≤ o ∧ o < 32768)
  | .getTransport _ len => okLen len
  | .importKey _ len slot _ _ => okLen len && fits 16 slot
  | .keyRotate _ len slot => okLen len && fits 16 slot
  | .keyRetire _ len slot => okLen len && fits 16 slot
  | .pair _ len _ => okLen len
  | .mirror _ len _ k => okLen len && fits 16 k
  | .unmirror _ len _ => okLen len
  | .demote _ len _ fence => okLen len && fits 64 fence
  | .twinTakeover _ len _ _ fence => okLen len && fits 64 fence
  | .define _ len _ _ _ base size => okLen len && fits 64 base && fits 64 size
  | .delete _ len _ => okLen len
  | .setLot _ len _ _ => okLen len
  | .parameterBlockWrite _ _ off _ => fits 16 off
  | .aptStageWrite _ _ off _ => fits 16 off
  | .patrolScan f _ _ => fits 18 f
  | .disturbScan _ _ b _ => decide (b < 4096)
  | .patrolScrub _ _ _ x u _ => x.wf && u.wf
  | .thermalTaskSample ts => ts.all fun t => decide (-2048 ≤ t ∧ t < 2048)
  | .conversionEnd _ t _ => decide (-2048 ≤ t ∧ t < 2048)
  | .idle h => h.wf
  | .heartbeat h _ _ _ _ => h.wf
  | .nak h seq => h.wf && fits 16 seq
  | .wbegin h _ fence slba nlb _ _ => h.wf && fits 64 fence && fits 64 slba && fits 16 nlb
  | .wdata h idx _ => h.wf && fits 13 idx
  | .wack h _ epoch => h.wf && fits 64 epoch
  | .twinDealloc h _ fence slba nlb => h.wf && fits 64 fence && fits 64 slba && fits 16 nlb
  | .durable h _ => h.wf
  | .volstate h _ fence _ _ _ _ size => h.wf && fits 64 fence && fits 64 size
  | .rsmap h _ first _ => h.wf && fits 32 first
  | .ctrlCreate h _ k fence size _ _ => h.wf && fits 10 k && fits 64 fence && fits 64 size
  | .result h _ _ => h.wf
  | .take h _ fence => h.wf && fits 64 fence
  | .takeAck h _ fence => h.wf && fits 64 fence
  | .ctrlFormat h _ _ _ k => h.wf && fits 10 k
  | .ctrlDelete h _ => h.wf
  | .ctrlUnmirror h _ => h.wf
  | _ => true

end Sys2Proof
end

