-- ==== Sys2Proof/Tests/Slice0.lean ====
section
/-! SUPPORT. The model's own tests: the ill-formed commands that WellFormed.lean refuses, a few facts of one step, and for every
statement with hypotheses a state and operands that meet them together, clause by clause. -/

open Sys2Proof Sys2Proof.Machine

namespace Sys2Proof.Tests

-- One proof at a time: the kernel evaluations below are many and short.
set_option Elab.async false

/-! ### Well-formedness -/

/-- A frame header with every field at its widest. -/
def hOk : FrameHdr := { seq := 65535, ack := 65535, xid := 65535 }
/-- A frame header whose sequence number is too wide. -/
def hBad : FrameHdr := { hOk with seq := 65536 }
/-- A die's parameter page with every field at its widest. -/
def dOk : ParamPage :=
  { row := 0, maker := 0xFF, model := 0, dataBytes := 18432, tempFa := 255, tReadUs := 1, tProgUs := 1, tBersUs := 1, endurance := 4
    planes := 65535, pages := 65535, blocks := 65535, factoryBad := [0, 4095] }
/-- A channel's training. -/
def tOk : ChanTraining := { ok := true, dies := [dOk], windows := List.replicate 16 (63, 63) }
/-- A channel's training with a seventeenth pin. -/
def tBad : ChanTraining := { tOk with windows := List.replicate 17 (0, 0) }
/-- A firmware image. -/
def iOk : Image := { sv := 255 }
/-- An image whose security version is too wide. -/
def iBad : Image := { iOk with sv := 256 }
/-- A section with every field at its widest. -/
def sOk : Section := ⟨65535, 2 ^ 32 - 1, 2 ^ 32 - 1, 2 ^ 32 - 1, 0, true⟩
/-- A volume's parameters. -/
def vOk : VolArgs := { vol := 1, layout1 := true, enc := true, keySlot := 1023, size := 2 ^ 64 - 1 }
/-- A volume's parameters whose size is too wide. -/
def vBad : VolArgs := { vOk with size := 2 ^ 64 }
/-- A syndrome of every symbol of a line. -/
def xOk : DramSyndrome := { symbols := 80, devices := [], pins := 0 }
/-- A syndrome of more symbols than a line has. -/
def xBad : DramSyndrome := { xOk with symbols := 81 }
/-- A user that names a slot there is not. -/
def uBad : DramUser := .bufferOpenWrite 4096

/-- The field checks, on both sides of their bounds. -/
theorem test_wf_fields : fits 8 255 = true ∧ fits 8 256 = false ∧ [1, 2, 4, 8].all okWidth = true ∧
    [0, 3, 5, 6, 7, 16].any okWidth = false ∧ okOffset 0x8800FFF = true ∧ okOffset 0x8801000 = false ∧ okLen 16384 = true ∧
    okLen 16385 = false ∧ okPairs (List.replicate 64 (0, 0)) = true ∧ okPairs (List.replicate 65 (0, 0)) = false ∧
    okPairs [(2 ^ 32, 0)] = false := by decide +kernel

/-- A frame header, a volume's parameters: each field one beyond its width is refused. -/
theorem test_wf_headers : hOk.wf = true ∧ hBad.wf = false ∧ FrameHdr.wf { hOk with ack := 65536 } = false ∧
    FrameHdr.wf { hOk with xid := 65536 } = false ∧ vOk.wf = true ∧ vBad.wf = false ∧ VolArgs.wf { vOk with keySlot := 1024 } = false := by
  decide +kernel

/-- An image and its sections: each field one beyond its width is refused, and a ninth section. -/
theorem test_wf_image : iOk.wf = true ∧
    (∀ i ∈ [iBad, { iOk with format := 65536 }, { iOk with nsect := 256 }, { iOk with imglen := 2 ^ 32 }, { iOk with devid := 65536 },
      { iOk with stepping := 256 }, { iOk with sections := List.replicate 9 sOk }, { iOk with sections := [{ sOk with type := 65536 }] }],
      Image.wf i = false) ∧
    sOk.wf = true ∧
    (∀ x ∈ [{ sOk with type := 65536 }, { sOk with offset := 2 ^ 32 }, { sOk with length := 2 ^ 32 }, { sOk with loadAddr := 2 ^ 32 }],
      Section.wf x = false) := by decide +kernel

/-- A die's parameter page: each field one beyond its width is refused. -/
theorem test_wf_die : dOk.wf = true ∧
    (∀ d ∈ [{ dOk with tempFa := 256 }, { dOk with planes := 65536 }, { dOk with pages := 65536 }, { dOk with blocks := 65536 },
      { dOk with factoryBad := [4096] }], ParamPage.wf d = false) := by decide +kernel

/-- A channel's training: too many dies or pins, an ill-formed die, a window's edge beyond its six bits. -/
theorem test_wf_training : tOk.wf = true ∧ tBad.wf = false ∧ ChanTraining.wf { tOk with dies := List.replicate 65 dOk } = false ∧
    ChanTraining.wf { tOk with dies := [{ dOk with tempFa := 256 }] } = false ∧ ChanTraining.wf { tOk with windows := [(64, 0)] } = false ∧
    ChanTraining.wf { tOk with windows := [(0, 64)] } = false := by decide +kernel

/-- A DRAM line's syndrome and its user. -/
theorem test_wf_dram : xOk.wf = true ∧ xBad.wf = false ∧ DramUser.wf (.bufferOpenWrite 4095) = true ∧ uBad.wf = false ∧
    DramUser.wf (.descriptor 0 (2 ^ 26)) = false ∧ DramUser.wf (.voltage 0 4096) = false := by decide +kernel

/-- Every operand inside its field (first part of the table). -/
theorem test_wellFormed_first :
    ∀ i ∈ ([.registerWrite .mgmt 0 1 0, .rcRegisterRead .mgmt 0 1, .peakFieldRead .mgmt 0 1, .pfDataRead .mgmt 0 1,
    .flashTrainingDone 0 tOk, .interruptedEraseReerase 0 0 0, .linkUp .p0 1 1 false false,
    .hdmDecoderCommit .p0 0 0 0 0 false, .cxlMemRead .p0 0 .clean, .cxlMemWrite .p0 0 0 .clean,
    .cxlMemPoisonedWrite .p0 0 .clean, .cdatTableAccess .p0 0, .getCertificate .p0 0 0, .clearEventRecords .p0 0 false [],
    .getLog .p0 false 0 0, .getPoisonList .p0 0 0, .transferFwFull .p0 0 0 iOk, .transferFwInitiate .p0 0 0,
    .transferFwContinue .p0 0 0 0, .transferFwEnd .p0 0 0 0 iOk, .fetchReadReturn 0 [], .read 0 [], .verify 0 [],
    .light 0 [], .douse 0 [], .persist 0 [], .queueCreate .p0 0 0 0 0 false 0 0, .queueDelete .p0 0 0, .abort .p0 0 0,
    .identifyController .p0 0] : List Instr),
      i.wf = true := by decide +kernel

/-- Every operand inside its field (second part of the table). -/
theorem test_wellFormed_second :
    ∀ i ∈ ([.getLogExt .p0 0 0 0 0 0, .getFeature .p0 0 0 0, .setFeature .p0 0 0 0 0, .setHoldupUs .p0 0 0,
    .setServiceKey .p0 0 0, .setSvCommit .p0 0 0, .setVolumeRo .p0 0 1 0, .volumeCreate .p0 0 vOk,
    .volumeFormat .p0 0 vOk, .volumeDelete .p0 0 1, .serviceUnlockChallenge .p0 0, .serviceUnlockSignature .p0 0 0,
    .serviceUnlockRelock .p0 0, .serviceStop .p0 0 .sow, .serviceChange .p0 0 .sow [], .serviceStart .p0 0 .sow,
    .serviceStopChangeStart .p0 0 .sow [], .serviceRetrainFch .p0 0 0, .serviceRetrainDrc .p0 0 0,
    .serviceRetrainPort .p0 0 .p0, .serviceRetire .p0 0 0, .serviceRecalibrate .p0 0 [], .getTransport .p0 0,
    .importKey .p0 0 0 0 0, .keyRotate .p0 0 0, .keyRetire .p0 0 0, .pair .p0 0 0, .mirror .p0 0 1 0, .unmirror .p0 0 1,
    .demote .p0 0 1 0] : List Instr),
      i.wf = true := by decide +kernel

/-- Every operand inside its field (third part of the table). -/
theorem test_wellFormed_third :
    ∀ i ∈ ([.twinTakeover .p0 0 1 false 0, .define .p0 0 0 false 1 0 0, .delete .p0 0 0, .setLot .p0 0 0 false,
    .parameterBlockWrite .mgmt 0 0 0, .aptStageWrite .mgmt 0 0 0, .patrolScan 0 false false, .disturbScan 0 0 0 false,
    .patrolScrub 0 false false xOk .furrowTable false, .thermalTaskSample [], .conversionEnd 0 0 0, .idle hOk,
    .heartbeat hOk 0 0 0 0, .nak hOk 0, .wbegin hOk 1 0 0 0 false false, .wdata hOk 0 0, .wack hOk 0 0,
    .twinDealloc hOk 1 0 0 0, .durable hOk 1, .volstate hOk 1 0 false false false 0 0, .rsmap hOk 1 0 [],
    .ctrlCreate hOk 1 0 0 0 false false, .result hOk 1 0, .take hOk 1 0, .takeAck hOk 1 0,
    .ctrlFormat hOk 1 false false 0, .ctrlDelete hOk 1, .ctrlUnmirror hOk 1] : List Instr),
      i.wf = true := by decide +kernel

/-- One operand just outside its field (first part of the table). -/
theorem test_illFormed_first :
    ∀ i ∈ ([.registerWrite .mgmt 0x8801000 1 0, .registerWrite .mgmt 0 3 0, .rcRegisterRead .mgmt 0x8801000 1,
    .rcRegisterRead .mgmt 0 3, .peakFieldRead .mgmt 0x8801000 1, .peakFieldRead .mgmt 0 3, .pfDataRead .mgmt 0 3,
    .pfDataRead .mgmt 0 8, .flashTrainingDone 0 tBad, .interruptedEraseReerase 0 0 4096, .linkUp .p0 3 1 false false,
    .linkUp .p0 1 0 false false, .linkUp .p0 1 6 false false, .hdmDecoderCommit .p0 0 (2 ^ 64) 0 0 false,
    .hdmDecoderCommit .p0 0 0 (2 ^ 64) 0 false, .hdmDecoderCommit .p0 0 0 0 (2 ^ 64) false,
    .cxlMemRead .p0 (2 ^ 52) .clean, .cxlMemRead .p0 1 .clean, .cxlMemWrite .p0 (2 ^ 52) 0 .clean,
    .cxlMemWrite .p0 1 0 .clean, .cxlMemPoisonedWrite .p0 (2 ^ 52) .clean, .cxlMemPoisonedWrite .p0 1 .clean,
    .cdatTableAccess .p0 (2 ^ 16), .getCertificate .p0 (2 ^ 16) 0, .getCertificate .p0 0 (2 ^ 16),
    .clearEventRecords .p0 0 false [65536], .clearEventRecords .p0 0 false (List.replicate 256 0),
    .getLog .p0 false (2 ^ 32) 0, .getLog .p0 false 0 (2 ^ 32), .getPoisonList .p0 (2 ^ 64) 0,
    .getPoisonList .p0 0 (2 ^ 64), .transferFwFull .p0 0 (2 ^ 32) iOk, .transferFwFull .p0 0 0 iBad] : List Instr),
      i.wf = false := by decide +kernel

/-- One operand just outside its field (second part of the table). -/
theorem test_illFormed_second :
    ∀ i ∈ ([.transferFwInitiate .p0 0 (2 ^ 32), .transferFwContinue .p0 0 (2 ^ 39) 0,
    .transferFwContinue .p0 0 0 (2 ^ 32), .transferFwEnd .p0 0 (2 ^ 39) 0 iOk, .transferFwEnd .p0 0 0 (2 ^ 32) iOk,
    .transferFwEnd .p0 0 0 0 iBad, .fetchReadReturn 0 (List.replicate 9 0), .read 0 [.furrowTable, uBad],
    .verify 0 [.furrowTable, uBad], .light 0 [.furrowTable, uBad], .douse 0 [.furrowTable, uBad],
    .persist 0 [.furrowTable, uBad], .queueCreate .p0 16385 0 0 0 false 0 0, .queueCreate .p0 0 0 (2 ^ 16) 0 false 0 0,
    .queueCreate .p0 0 0 0 (2 ^ 8) false 0 0, .queueCreate .p0 0 0 0 0 false (2 ^ 64) 0,
    .queueCreate .p0 0 0 0 0 false 0 (2 ^ 64), .queueDelete .p0 16385 0, .abort .p0 16385 0,
    .identifyController .p0 16385, .getLogExt .p0 16385 0 0 0 0, .getLogExt .p0 0 (2 ^ 16) 0 0 0,
    .getLogExt .p0 0 0 (2 ^ 16) 0 0, .getLogExt .p0 0 0 0 (2 ^ 32) 0, .getLogExt .p0 0 0 0 0 (2 ^ 32),
    .getFeature .p0 16385 0 0, .getFeature .p0 0 (2 ^ 16) 0, .getFeature .p0 0 0 (2 ^ 16), .setFeature .p0 16385 0 0 0,
    .setFeature .p0 0 (2 ^ 16) 0 0, .setFeature .p0 0 0 (2 ^ 16) 0, .setFeature .p0 0 0 0 (2 ^ 32),
    .setHoldupUs .p0 16385 0] : List Instr),
      i.wf = false := by decide +kernel

/-- One operand just outside its field (third part of the table). -/
theorem test_illFormed_third :
    ∀ i ∈ ([.setHoldupUs .p0 0 (2 ^ 32), .setServiceKey .p0 16385 0, .setSvCommit .p0 16385 0,
    .setSvCommit .p0 0 (2 ^ 32), .setVolumeRo .p0 16385 1 0, .setVolumeRo .p0 0 1 (2 ^ 32), .volumeCreate .p0 16385 vOk,
    .volumeCreate .p0 0 vBad, .volumeFormat .p0 16385 vOk, .volumeFormat .p0 0 vBad, .volumeDelete .p0 16385 1,
    .serviceUnlockChallenge .p0 16385, .serviceUnlockSignature .p0 16385 0, .serviceUnlockRelock .p0 16385,
    .serviceStop .p0 16385 .sow, .serviceChange .p0 16385 .sow [], .serviceChange .p0 0 .sow (List.replicate 65 (0, 0)),
    .serviceChange .p0 0 .sow [(2 ^ 32, 0)], .serviceStart .p0 16385 .sow, .serviceStopChangeStart .p0 16385 .sow [],
    .serviceStopChangeStart .p0 0 .sow (List.replicate 65 (0, 0)), .serviceStopChangeStart .p0 0 .sow [(2 ^ 32, 0)],
    .serviceRetrainFch .p0 16385 0, .serviceRetrainDrc .p0 16385 0, .serviceRetrainPort .p0 16385 .p0,
    .serviceRetire .p0 16385 0, .serviceRecalibrate .p0 16385 [], .serviceRecalibrate .p0 0 [-32769],
    .serviceRecalibrate .p0 0 [32768], .getTransport .p0 16385, .importKey .p0 16385 0 0 0, .importKey .p0 0 (2 ^ 16) 0 0,
    .keyRotate .p0 16385 0] : List Instr),
      i.wf = false := by decide +kernel

/-- One operand just outside its field (fourth part of the table). -/
theorem test_illFormed_fourth :
    ∀ i ∈ ([.keyRotate .p0 0 (2 ^ 16), .keyRetire .p0 16385 0, .keyRetire .p0 0 (2 ^ 16), .pair .p0 16385 0,
    .mirror .p0 16385 1 0, .mirror .p0 0 1 (2 ^ 16), .unmirror .p0 16385 1, .demote .p0 16385 1 0,
    .demote .p0 0 1 (2 ^ 64), .twinTakeover .p0 16385 1 false 0, .twinTakeover .p0 0 1 false (2 ^ 64),
    .define .p0 16385 0 false 1 0 0, .define .p0 0 0 false 1 (2 ^ 64) 0, .define .p0 0 0 false 1 0 (2 ^ 64),
    .delete .p0 16385 0, .setLot .p0 16385 0 false, .parameterBlockWrite .mgmt 0 (2 ^ 16) 0,
    .aptStageWrite .mgmt 0 (2 ^ 16) 0, .patrolScan (2 ^ 18) false false, .disturbScan 0 0 4096 false,
    .patrolScrub 0 false false xBad .furrowTable false, .patrolScrub 0 false false xOk uBad false,
    .thermalTaskSample [-2049], .thermalTaskSample [2048], .conversionEnd 0 (-2049) 0, .conversionEnd 0 2048 0,
    .idle hBad, .heartbeat hBad 0 0 0 0, .nak hBad 0, .nak hOk (2 ^ 16), .wbegin hBad 1 0 0 0 false false,
    .wbegin hOk 1 (2 ^ 64) 0 0 false false, .wbegin hOk 1 0 (2 ^ 64) 0 false false] : List Instr),
      i.wf = false := by decide +kernel

/-- One operand just outside its field (fifth part of the table). -/
theorem test_illFormed_fifth :
    ∀ i ∈ ([.wbegin hOk 1 0 0 (2 ^ 16) false false, .wdata hBad 0 0, .wdata hOk (2 ^ 13) 0, .wack hBad 0 0,
    .wack hOk 0 (2 ^ 64), .twinDealloc hBad 1 0 0 0, .twinDealloc hOk 1 (2 ^ 64) 0 0, .twinDealloc hOk 1 0 (2 ^ 64) 0,
    .twinDealloc hOk 1 0 0 (2 ^ 16), .durable hBad 1, .volstate hBad 1 0 false false false 0 0,
    .volstate hOk 1 (2 ^ 64) false false false 0 0, .volstate hOk 1 0 false false false 0 (2 ^ 64), .rsmap hBad 1 0 [],
    .rsmap hOk 1 (2 ^ 32) [], .ctrlCreate hBad 1 0 0 0 false false, .ctrlCreate hOk 1 (2 ^ 10) 0 0 false false,
    .ctrlCreate hOk 1 0 (2 ^ 64) 0 false false, .ctrlCreate hOk 1 0 0 (2 ^ 64) false false, .result hBad 1 0,
    .take hBad 1 0, .take hOk 1 (2 ^ 64), .takeAck hBad 1 0, .takeAck hOk 1 (2 ^ 64), .ctrlFormat hBad 1 false false 0,
    .ctrlFormat hOk 1 false false (2 ^ 10), .ctrlDelete hBad 1, .ctrlUnmirror hBad 1] : List Instr),
      i.wf = false := by decide +kernel

/-! ### States for the witnesses -/

/-- Every register page RUNNING. -/
def upPg : SMap PageHdr := allPages.map fun p => (p.base, { st := .running })
/-- A port out of reset whose link is up. -/
def upPort : PortSt := { perst := false, up := true, everUp := true, cxl := true, rev := true }
/-- A running device: pages, ports and power domains up, the Almanac on its store, nothing at work. -/
def up : Mach := {
  dev := { st := .ioReady, fwRunning := true, loaded := true, memActive := true, stage := 10, formatted := true, mclk := true, qclk := true, aclk := true, twclk := true, fclk := 255, flashDone := 0xFFFFFFFF }
  reg := { pg := upPg }
  port := { p0 := upPort, p1 := upPort }
  thm := { domOn := 0x1FFFFFFFFFFFF }
  alm := { buffered := false }
  adm := { board := { targets := 1, dies := 1, planes := 2, pages := 4, blocks := 256 } } }
/-- The machine's state. -/
abbrev MState := Sys2Proof.Machine.State
/-- A state with nothing waiting. -/
def S (m : Mach) : MState := { m := m }
/-- The running device as a state. -/
def U : MState := S up
/-- A page in a given state. -/
def pg (p : Page) (st : PageSt) (m : Mach) : Mach := m.setPageSt p st
/-- The machine after reset. -/
def boot : MState := State.reset
/-- A device in power-loss mode. -/
def capd : Mach := { up with adm := { up.adm with plm := 1 } }
/-- A state whose device-wide part is changed. -/
def dv (d : Dev → Dev) (m : Mach := up) : MState := S { m with dev := d m.dev }
/-- Volume 1, READY, of 1 Mi LBs. -/
def v1 : Vol := { st := .ready, size := 2 ^ 20, chunks := [0, 1, 2, 3] }
/-- A running device that holds volume 1. -/
def upV : Mach := { up with vol := { v := [(1, v1)] } }
/-- A device with a lamp region of volume 1 on port 0, one page described by d, and one Lantern entry. -/
def lampM (d : Desc) : Mach :=
  { upV with
    port := up.port.set .p0 { upPort with hdm := [(0, { base := 0, size := 2 ^ 30, committed := true })] }
    lamp := { reg := [(0, { defined := true, vol := 1, base := 0, size := 2 ^ 30 })], desc := [(0, d)], frames := 4, owner := [(2, 0)]
              lnt := [(5, { st := .clean, tag := 0 })], line := [(lineKey 2 3 1, 0xAB)] } }
/-- The address of line 1 of page 3 of region 0. -/
def la : LampAddr := { region := 0, block := 0, page := 3, line := 1, lba := 3, off := 12352 }
/-- A lit page in frame 2. -/
def dLit : Desc := { frame := some 2, lit := 0x18 }
/-- A queue pair of port 0 with one command at work. -/
def qp9 : Qp := { st := .active, port := .p0, depth := 4, inflight := 1, cqBase := 0x1000, cqTail := 3 }
/-- Slot 3 holds a command. -/
def cmdM (c : Cmd) (m : Mach := upV) : Mach := { m with q := { used := [3], cmd := [(3, c)], qp := [(9, qp9)] } }
/-- A host command of pair 9 in a given stage. -/
def hc (opc slba nlb : Nat) (st : Stage) : Cmd := { qid := some 9, port := some .p0, entry := mkEntry opc 1 slba nlb, stage := st }
/-- A read of four LBs that waits. -/
def rdC : Cmd := hc opRead 0 3 .waiting
/-- A live twin partner. -/
def twn0 : Twin := { up := true, expected := 77, paired := true, present := true, heard := 77, rxSeq := 9, txSeq := 20 }
/-- Volume 1 mirrored, owned here and in sync. -/
def mv1 : Vol := { v1 with mirrored := true, owner := true, twin := .inSync, fence := 4 }
/-- A device with its partner and the mirrored volume. -/
def twM (x : Vol := mv1) (f : Twin → Twin := id) : Mach :=
  { up with twn := f twn0, reg := { up.reg with r := [(Reg.TWN_CFG, 1)] }, vol := { v := [(1, x)], entries := 2 ^ 20, usercap := 2 ^ 22 } }
/-- The header of the next frame of the link, which acknowledges all but the last one. -/
def hd9 : FrameHdr := { seq := 9, ack := 19, xid := 3 }
/-- What training learned of a die. -/
def di (r : Row) : DieInfo := { row := r, matched := true, extrate := true, nested := true, resMin := 1, slc := true, tempFa := 3, retry := 8, slcPages := 4, slcCycles := 100, tReadNs := 1, tProgNs := 1, tBersNs := 1, tSlcNs := 1, maxSlcUs := 100, tProgMaxUs := 1000, endurance := 3000, planes := 2, pages := 4, blocks := 256, factoryBad := [] }
/-- A trained die. -/
def die0 : DieSt := { info := some (di 5) }
/-- A device whose die 69, which is row 5 of channel 1, is in state d, with operations queued. -/
def flM (d : DieSt) (ops : List Op) (f : Flash → Flash) (m : Mach := up) : Mach :=
  { m with fl := f { m.fl with die := [(69, d)], ops := ops, nextOp := 9 } }
/-- A queued operation on that die. -/
def op (id : Nat) (k : OpKind) (req : Req := .q0) (issued : Bool := false) : Op := { id := id, ch := 1, row := 5, req := req, kind := k, issued := issued, rank0 := false, waited := false, stalled := false }

/-! ### Slots and furrows that are not listed -/

/-- A property of the empty slot and of every listed one holds of all slots. -/
theorem slots_all (P : Cmd → Prop) {m : Mach} (h0 : P {}) (h : ∀ e ∈ m.q.cmd, P e.2) (k : Nat) : P (m.cmd k) := by
  unfold Mach.cmd
  generalize m.q.cmd = l at h ⊢
  induction l with
  | nil => exact h0
  | cons e l ih =>
    simp only [SMap.get]
    split
    · exact h e (by simp)
    · exact ih fun x hx => h x (by simp [hx])

theorem uncovered {m : Mach} (h : ∀ e ∈ m.q.cmd, e.2.covering = false) (k : Nat) : (m.cmd k).covering = false :=
  slots_all (fun c => c.covering = false) rfl h k

theorem sent_of {m : Mach} (h : ∀ e ∈ m.q.cmd, e.2.unsent = []) : m.ReadsSent := slots_all (fun c => c.unsent = []) rfl h

theorem loose_of {i : Nat} {m : Mach} (h : ∀ e ∈ m.q.cmd, i ∉ e.2.wait) (g : ∀ e ∈ m.twn.tx, e.2 ≠ .cmd i) : m.Loose i :=
  ⟨fun t => slots_all (fun c => i ∉ c.wait) (by simp) h t, g⟩

theorem settled_of {m : Mach} (a : m.twn.rxWait = []) (h : ∀ e ∈ m.q.cmd, e.2.covering = false) : m.Settled := ⟨a, uncovered h⟩

theorem alone_of {i : Nat} {m : Mach} (a : i ∈ m.q.used) (b : m.q.used.Nodup) (h : ∀ e ∈ m.q.cmd, e.2.covering = false)
    (r : m.twn.rxWait = []) : m.Alone i := ⟨a, b, fun j _ => uncovered h j, r⟩

/-- No headland furrow is released where no listed one is. -/
theorem unreleased {m : Mach} (h : ∀ e ∈ m.hdl.fur, e.2.st ≠ .released) (k : Nat) : (m.hfur k).st ≠ .released := by
  unfold Mach.hfur
  generalize m.hdl.fur = l at h ⊢
  induction l with
  | nil => simp [SMap.get]
  | cons e l ih =>
    simp only [SMap.get]
    split
    · exact h e (by simp)
    · exact ih fun x hx => h x (by simp [hx])

/-! ### One step -/

/-- With nothing waiting the block idles. -/
theorem test_idle : step State.reset = .next State.reset := rfl

/-- With RESET_N low, EXTEST is taken from the front of the queue: a step that the tap's safety is about. -/
theorem test_witness_StepKeepsTheTapSafe :
    ∃ s t : MState, s.m.tapSafe ∧ s.pending = [.extest] ∧ step s = .next t ∧ t.m.tap = .extest ∧ t.pending = [] :=
  ⟨{ dv (fun d => { d with resetN := false }) with pending := [.extest] }, _, fun _ => rfl, rfl, rfl, by decide +kernel, by decide +kernel⟩

/-- A step that raises the security version floor. -/
theorem test_witness_StepNeverLowersTheSecurityFloor :
    ∃ s t : MState, step s = .next t ∧ s.m.adm.svFloor < t.m.adm.svFloor :=
  ⟨{ S { up with adm := { up.adm with svFloor := 3, fw := { p0 := { valid := true, img := { iOk with sv := 5 } }, p1 := {} } } } with
      pending := [.setSvCommit .p0 12 5] }, _, rfl, by decide +kernel⟩

/-! ### The manual's worked examples -/

/-- The device that a command's step gives. -/
def after (c : Instr) (m : Mach) : Mach :=
  match exec c (S m) with
  | .next t => t.m
  | _ => m

/-- "Translating a load" (chapter 07): the host-physical address, its DPA, and its parts. -/
theorem test_example_lampAddress :
    let m : Mach := { up with
      port := up.port.set .p0 { upPort with hdm := [(1, { base := 0x2000000000, size := 2 ^ 40, committed := true })] }
      lamp := { reg := [(1, { defined := true, vol := 5, base := 0x100000, size := 2 ^ 40 })] } }
    m.hdmMatch .p0 0x2123456780 = some (2 ^ 46 + 0x123456780) ∧
    m.lampAddr (2 ^ 46 + 0x123456780) =
      some { region := 1, block := 2330, page := 86, line := 30, lba := 0x223456, off := 0x123456780 } := by decide +kernel

/-- "Finding an LB on flash" (chapter 10): the entry index, its byte offset, and the fields of the entry. -/
theorem test_example_mapEntry :
    entryIndex { size := 2 ^ 28, chunks := List.replicate 8 0 ++ [76864] } 0x223456 = some 0x12C408D15 ∧
    5 * 0x12C408D15 = 0x5DD42C169 ∧ mkAddr 5 13 2 0x2A7 0x1C 0 = 0x29A8A9C070 ∧ adrChan 0x29A8A9C070 = 5 ∧
    adrRow 0x29A8A9C070 = 13 ∧ adrPlane 0x29A8A9C070 = 2 ∧ adrBlock 0x29A8A9C070 = 0x2A7 ∧ adrPage 0x29A8A9C070 = 0x1C ∧
    adrSlot 0x29A8A9C070 = 0 ∧ adrDie 0x29A8A9C070 = 333 := by decide +kernel

/-- "Locating a map entry" (chapter 13). -/
theorem test_example_dramAddress :
    dramDecode 12 true 0x61D42C169 = { ch := 0, sc := 1, rank := 0, bg := 2, bank := 0, colline := 11, row := 12522 } := by
  decide +kernel

/-- The furrows A, B and C of the example of chapter 11, with the erase counts of their members. -/
def threeFurrows : Mach :=
  let f (n v : Nat) : Fur := { st := .closed, fsn := n, valid := v, placed := 184320 }
  let e (k n : Nat) : SMap Blk := (List.range 32).map fun c => (4096 * dieOf (Fin.ofNat 32 c) 0 + k, { erases := n })
  let all := (e 1 1350 ++ e 2 900 ++ e 3 2400).foldl (fun t x => SMap.put t x.1 x.2) []
  { up with
    buf := { fsn := 1204500 }
    gln := { fur := [(1, f 1200000 55296), (2, f 1100000 73728), (3, f 1203000 46080)] }
    fl := { blk := all } }

/-- "Choosing among three furrows" (chapter 11). -/
theorem test_example_victim :
    threeFurrows.score 1 = 2736 ∧ threeFurrows.score 2 = 2440 ∧ threeFurrows.score 3 = 2752 ∧ threeFurrows.bestVictim = some 3 := by
  decide +kernel

/-- "Sizing decoders for two regions" (chapter 04): both commits are good. -/
theorem test_example_decoders :
    let m := after (.hdmDecoderCommit .p0 1 (2 ^ 45) (768 * 2 ^ 20) (52 * 2 ^ 40) false)
      (after (.hdmDecoderCommit .p0 0 0 (12 * 2 ^ 40) 0 false) up)
    ((m.port.get .p0).dec 0).committed = true ∧ ((m.port.get .p0).dec 1).committed = true := by decide +kernel

/-- "One step down and back" (chapter 15): the row of 50 ms. -/
theorem test_example_snuffer :
    let m := after (.conversionEnd 3 1160 50000) { up with thm := { up.thm with sensor := [(3, { busy := true, ref := some (1152, 0) })] } }
    (m.sens 3).rate = 160 ∧ m.thm.level = 14 := by decide +kernel

/-- The same example: the budget at level 14. -/
theorem test_example_budget : Mach.budget { up with fl := { up.fl with ch := [(9, { level := 14 })] } } 9 = 390 := by decide +kernel

/-! ### One step; Pages; Packet FIFOs; Register access; Device resets; Start-up -/

namespace DeviceAndRegisters

/-! FIFOs, rows of the register table, boots and trainings. -/

def ff (f : Fifo) (n : Fin 8 := 1) : MState := S ((up.setFifo n f).wr (pffReg n 0x5C) 0)
def full : List (Word × Bool) := List.replicate 256 (7, false)
def row (k : Nat) : RegRow := (rowOf k).getD ⟨0, .ro, false, 0, 0⟩
def bo (d : Dev) : MState := S { State.reset.m with dev := d }
def bad0 : Mach := { State.reset.m with adm := { fw := { p0 := { valid := true, img := { sigOk := false, sv := 1, fwrev := 0 } }, p1 := {} } } }
def bad2 : Mach := { bad0 with adm := { fw := { p0 := { valid := true, img := { sigOk := false, sv := 1, fwrev := 0 } }, p1 := { valid := true, img := { sigOk := false, sv := 1, fwrev := 0 } } } } }
def tr (d : Dev) (m : Mach := State.reset.m) : MState := S { m with dev := { d with st := .adminReady } }
def pp : ParamPage := { row := 0, maker := 1, model := 2, dataBytes := 18432, tempFa := 3, tReadUs := 4, tProgUs := 5, tBersUs := 6, endurance := 4, planes := 2, pages := 5, blocks := 3, factoryBad := [] }
def xt : ChanTraining := { ok := true, windows := [], dies := [pp] }

/-- States and operands that meet the hypotheses of StepRunsTheFrontCommand, clause by clause. -/
theorem test_witness_StepRunsTheFrontCommand :
    (∃ (s : State) (c : Instr) (rest : List Instr), (s.pending = c :: rest)) ∧
    (∃ (s : State), (s.pending = [])) :=
  ⟨⟨{ m := up, pending := [.idcode, .bypass] }, .idcode, [.bypass], by decide +kernel⟩,
   ⟨U, by decide +kernel⟩⟩

/-- States and operands that meet the hypotheses of PageCommands, clause by clause. -/
theorem test_witness_PageCommands :
    (∃ (s : State) (p : Page), (s.m.pageSt p = .stopped)) ∧
    (∃ (s : State) (p : Page), (s.m.pageSt p = .running) ∧ (s.m.mayStop p = true) ∧ (s.m.Calm)) ∧
    (∃ (s : State) (p : Page), (s.m.pageSt p = .running) ∧ (s.m.mayStop p = true) ∧ (p ≠ .lnt) ∧ (p ≠ .twn) ∧ (p ≠ .sow) ∧
    (∀ c, p ≠ .fch c) ∧ (s.m.Calm)) ∧
    (∃ (s : State) (p : Page), (s.m.pageSt p = .faulted)) ∧
    (∃ (s : State) (p : Page), (s.m.pageSt p ≠ .stopped) ∧ (s.m.pageSt p ≠ .off)) ∧
    (∃ (s : State) (p : Page), (¬ (s.m.pageSt p = .running ∧ s.m.mayStop p = true)) ∧ (s.m.pageSt p ≠ .off) ∧ (s.m.Calm)) ∧
    (∃ (s : State) (p : Page), (s.m.pageSt p ≠ .faulted) ∧ (s.m.pageSt p ≠ .off)) ∧
    (∃ (s : State) (h : Port) (p : Page) (c : Instr),
    (c = .pageStart h.agent p ∨ c = .pageStop h.agent p ∨ c = .pageClearFault h.agent p) ∧ (s.m.Calm)) :=
  ⟨⟨S (pg .sow .stopped up), .sow, by decide +kernel⟩,
   ⟨U, .gln, by decide +kernel, by decide +kernel, by constructor <;> decide +kernel⟩,
   ⟨U, .gln, by decide +kernel, by decide +kernel, by decide +kernel, by decide +kernel, by decide +kernel,
    by decide +kernel, by constructor <;> decide +kernel⟩,
   ⟨S (pg .sow .faulted up), .sow, by decide +kernel⟩,
   ⟨U, .sow, by decide +kernel⟩,
   ⟨S (pg .sow .stopped up), .sow, by decide +kernel, by decide +kernel, by constructor <;> decide +kernel⟩,
   ⟨U, .sow, by decide +kernel⟩,
   ⟨U, .p0, .sow, Instr.pageStart .p0 .sow, by decide +kernel, by constructor <;> decide +kernel⟩⟩

/-- States and operands that meet the hypotheses of PageTransitions, clause by clause. -/
theorem test_witness_PageTransitions :
    (∃ (s : State) (p : Page) (tr : Bool), (s.m.pageSt p = .starting) ∧ (s.m.badConfig p = false) ∧
    (s.m.startTrains p tr = none) ∧ (s.m.unserviced = true) ∧ (s.m.Calm)) ∧
    (∃ (s : State) (p : Page) (tr : Bool), (s.m.pageSt p = .starting) ∧ (s.m.badConfig p = true) ∧ (s.m.unserviced = true)
    ∧ (s.m.Calm)) ∧
    (∃ (s : State) (c : Chan), (s.m.pageSt (.fch c) = .starting) ∧ (s.m.badConfig (.fch c) = false) ∧
    ((s.m.chn c).trained = false) ∧ (s.m.unserviced = true) ∧ (s.m.Calm)) ∧
    (∃ (s : State) (p : Page) (tr : Bool), (s.m.pageSt p ≠ .starting) ∧ (s.m.unserviced = true) ∧ (s.m.Calm)) ∧
    (∃ (s : State) (p : Page), (s.m.pageSt p = .stopping) ∧ (s.m.drainedPage p = true) ∧ (s.m.unserviced = true)) ∧
    (∃ (s : State) (p : Page), (s.m.pageSt p ≠ .stopping ∨ s.m.drainedPage p = false) ∧ (s.m.unserviced = true)) ∧
    (∃ (s : State) (p : Page) (parity : Bool),
    (s.m.pageSt p = .starting ∨ s.m.pageSt p = .running ∨ s.m.pageSt p = .stopping) ∧ (s.m.unserviced = true) ∧
    (s.m.Calm)) ∧
    (∃ (s : State) (p : Page) (parity : Bool), (s.m.pageSt p = .off ∨ s.m.pageSt p = .stopped ∨ s.m.pageSt p = .faulted) ∧
    (s.m.unserviced = true) ∧ (s.m.Calm)) :=
  ⟨⟨S (pg .sow .starting up), .sow, false, by decide +kernel, by decide +kernel, by decide +kernel, by decide +kernel,
    by constructor <;> decide +kernel⟩,
   ⟨S (pg .lmp .starting (pg (.drc 3) .stopped up)), .lmp, true, by decide +kernel, by decide +kernel, by decide +kernel,
    by constructor <;> decide +kernel⟩,
   ⟨S (pg (.fch 4) .starting (up.setChn 4 { rate := 3 })), 4, by decide +kernel, by decide +kernel, by decide +kernel,
    by decide +kernel, by constructor <;> decide +kernel⟩,
   ⟨U, .sow, true, by decide +kernel, by decide +kernel, by constructor <;> decide +kernel⟩,
   ⟨S (pg .sow .stopping up), .sow, by decide +kernel⟩,
   ⟨S (pg (.port .p1) .stopping { up with port := up.port.set .p1 { upPort with inflight := 1 } }), (.port .p1),
    by decide +kernel⟩,
   ⟨U, .gln, true, by decide +kernel, by decide +kernel, by constructor <;> decide +kernel⟩,
   ⟨S (pg .sow .stopped up), .sow, true, by decide +kernel, by decide +kernel, by constructor <;> decide +kernel⟩⟩

/-- States and operands that meet the hypotheses of PacketFifos, clause by clause. -/
theorem test_witness_PacketFifos :
    (∃ (s : State) (n : Fin 8) (w : Word) (ok : Bool), (s.m.pageSt (.pff n) = .running) ∧ ((s.m.fifo n).stalled = none) ∧
    (0 < s.m.pffFree n) ∧ ((s.m.fifo n).endNext = false)) ∧
    (∃ (s : State) (n : Fin 8) (w : Word) (ok : Bool), (s.m.pageSt (.pff n) = .running) ∧ ((s.m.fifo n).stalled = none) ∧
    (0 < s.m.pffFree n) ∧ ((s.m.fifo n).endNext = true) ∧ (packetCheck n ok ((s.m.fifo n).opn ++ [w]) = true)) ∧
    (∃ (s : State) (n : Fin 8) (w : Word) (ok : Bool), (s.m.pageSt (.pff n) = .running) ∧ ((s.m.fifo n).stalled = none) ∧
    (s.m.pffFree n = 0) ∧ ((s.m.fifo n).vis ≠ [])) ∧
    (∃ (s : State) (n : Fin 8), (s.m.pageSt (.pff n) ≠ .off)) ∧
    (∃ (s : State) (n : Fin 8), (s.m.pageSt (.pff n) ≠ .off)) ∧
    (∃ (s : State) (a : Agent) (n : Fin 8), (s.m.pageSt (.pff n) = .running) ∧ (s.m.pffCons n = a.num) ∧
    ((s.m.fifo n).vis ≠ [])) ∧
    (∃ (s : State) (a : Agent) (n : Fin 8), (s.m.pageSt (.pff n) ≠ .off) ∧ ((s.m.fifo n).vis = [])) ∧
    (∃ (s : State) (a : Agent) (n : Fin 8) (width : Nat) (w : Word) (e : Bool) (r : List (Word × Bool)),
    (s.m.pageSt (.pff n) = .running) ∧ (s.m.pffCons n = a.num) ∧ ((s.m.fifo n).vis = (w, e) :: r) ∧
    ((s.m.fifo n).stalled = none)) ∧
    (∃ (s : State) (a : Agent) (n : Fin 8) (width : Nat), (s.m.pageSt (.pff n) = .running) ∧ (s.m.pffCons n = a.num) ∧
    ((s.m.fifo n).vis = [])) ∧
    (∃ (s : State) (a : Agent) (n : Fin 8) (width : Nat), (s.m.pageSt (.pff n) ≠ .off) ∧ (s.m.pffCons n ≠ a.num)) ∧
    (∃ (s : State) (n : Fin 8) (w : Word) (ok : Bool), (n.val ≠ 4) ∧ (s.m.pageSt (.pff n) = .running) ∧
    ((s.m.fifo n).stalled = some (w, ok)) ∧ (0 < s.m.pffFree n) ∧ ((s.m.fifo n).endNext = false)) ∧
    (∃ (s : State) (n : Fin 8) (p : List Word) (r : List (List Word)), ((s.m.fifo n).hidden = p :: r)) :=
  ⟨⟨ff { opn := [1] }, 1, 5, true, by decide +kernel⟩,
   ⟨ff { opn := [1], endNext := true, vis := [(3, true)] } 2, 2, 5, true, by decide +kernel⟩,
   ⟨ff { vis := List.replicate 1088 (7, false) } 2, 2, 5, true, by decide +kernel⟩,
   ⟨ff { opn := [1] }, 1, by decide +kernel⟩,
   ⟨ff { opn := [1] }, 1, by decide +kernel⟩,
   ⟨ff { vis := [(3, false), (4, true), (5, true)], partPopped := true } 1, .p0, 1, by decide +kernel⟩,
   ⟨U, .p0, 1, by decide +kernel⟩,
   ⟨ff { vis := [(0x12345678, false), (4, true), (5, true)] } 1, .p0, 1, 1, 0x12345678, false, [(4, true), (5, true)],
    by decide +kernel⟩,
   ⟨ff { last := 9 }, .p0, 1, 4, by decide +kernel⟩,
   ⟨ff { vis := [(0x12345678, false)] }, .p1, 1, 4, by decide +kernel⟩,
   ⟨ff { vis := [(0x12345678, false)], stalled := some (8, true) } 1, 1, 8, true, by decide +kernel⟩,
   ⟨ff { vis := [(0x12345678, true)], hidden := [[1, 2], [3]] } 3, 3, [1, 2], [[3]], by decide +kernel⟩⟩

/-- States and operands that meet the hypotheses of RegisterAccess, clause by clause. -/
theorem test_witness_RegisterAccess :
    (∃ (s : State) (a : Agent) (off : Nat) (v : BitVec 64) (p : Page) (r : RegRow), (off % 4 = 0) ∧ (off < 0x600000) ∧
    (pageOf a off = some p) ∧ (s.m.pageSt p = .stopped) ∧ (0x40 ≤ off % 0x1000) ∧
    (rowOf (p.typeCode * 0x1000 + off % 0x1000) = some r) ∧ (r.acc = .rs) ∧ (r.mgmt = false ∨ a = .mgmt) ∧
    (s.m.writeSpecial a p (off % 0x1000) (v.setWidth 32) = none) ∧ (∀ d, p = .drc d → off % 0x1000 ≠ Reg.DRC_SPARE) ∧
    (s.m.Calm)) ∧
    (∃ (s : State) (a : Agent) (off : Nat) (v : BitVec 64) (p : Page) (r : RegRow), (off % 4 = 0) ∧ (off < 0x600000) ∧
    (pageOf a off = some p) ∧ (s.m.pageSt p ≠ .off) ∧ (0x40 ≤ off % 0x1000) ∧
    (rowOf (p.typeCode * 0x1000 + off % 0x1000) = some r) ∧ (isBanked (p.typeCode * 0x1000 + off % 0x1000) = true) ∧
    (isLowOfPair (p.typeCode * 0x1000 + off % 0x1000) = false) ∧
    (s.m.writeSpecial a p (off % 0x1000) (v.setWidth 32) = none) ∧ (s.m.Calm)) ∧
    (∃ (s : State) (a : Agent) (off : Nat) (v : BitVec 64) (p : Page), (off % 0x1000 = 0x0C) ∧ (off < 0x600000) ∧
    (pageOf a off = some p) ∧ (s.m.pageSt p ≠ .off) ∧ (s.m.Calm)) ∧
    (∃ (s : State) (a : Agent) (off : Nat) (v : BitVec 64) (p : Page) (r : RegRow), (off % 4 = 0) ∧ (off < 0x600000) ∧
    (pageOf a off = some p) ∧ (s.m.pageSt p ≠ .off) ∧ (s.m.pageSt p ≠ .stopped) ∧ (0x40 ≤ off % 0x1000) ∧
    (rowOf (p.typeCode * 0x1000 + off % 0x1000) = some r) ∧ (r.acc = .rs) ∧ (r.mgmt = false ∨ a = .mgmt) ∧
    (s.m.writeSpecial a p (off % 0x1000) (v.setWidth 32) = none) ∧ (s.m.Calm)) ∧
    (∃ (s : State) (h : Port) (off : Nat) (v : BitVec 64) (p : Page) (r : RegRow), (off % 4 = 0) ∧ (off < 0x600000) ∧
    (pageOf h.agent off = some p) ∧ (s.m.pageSt p ≠ .off) ∧ (0x40 ≤ off % 0x1000) ∧
    (rowOf (p.typeCode * 0x1000 + off % 0x1000) = some r) ∧ (r.mgmt = true) ∧ (s.m.Calm)) ∧
    (∃ (s : State) (a : Agent) (off : Nat) (p : Page) (r : RegRow), (off % 4 = 0) ∧ (pageOf a off = some p) ∧
    (s.m.pageSt p ≠ .off) ∧ (∀ n, p ≠ .pff n) ∧ (rowOf (p.typeCode * 0x1000 + off % 0x1000) = some r) ∧ (r.acc = .rc)) ∧
    (∃ (s : State) (a : Agent), (s.m.pageSt .qct ≠ .off)) ∧
    (∃ (s : State) (a : Agent) (hi : Word), (s.m.pageSt .map ≠ .off)) ∧
    (∃ (s : State) (a : Agent) (hi : Word), (s.m.pageSt .drg ≠ .off)) :=
  ⟨⟨S (pg .twn .stopped up), .mgmt, 0x1E048, 0xFFFFFFFF, .twn, row 0x1E048, by decide +kernel, by decide +kernel,
    by decide +kernel, by decide +kernel, by decide +kernel, by decide +kernel, by decide +kernel, by decide +kernel,
    by decide +kernel, by decide +kernel, by constructor <;> decide +kernel⟩,
   ⟨U, .p1, 0x1F040, 0xFFFFFFFF, .wpt, row 0x1F040, by decide +kernel, by decide +kernel, by decide +kernel,
    by decide +kernel, by decide +kernel, by decide +kernel, by decide +kernel, by decide +kernel, by decide +kernel,
    by constructor <;> decide +kernel⟩,
   ⟨S (up.setHdr .sow { st := .running, err := 0xF0 }), .p1, 0x1300C, 0x30, .sow, by decide +kernel, by decide +kernel,
    by decide +kernel, by decide +kernel, by constructor <;> decide +kernel⟩,
   ⟨U, .mgmt, 0x1E048, 5, .twn, row 0x1E048, by decide +kernel, by decide +kernel, by decide +kernel, by decide +kernel,
    by decide +kernel, by decide +kernel, by decide +kernel, by decide +kernel, by decide +kernel, by decide +kernel,
    by constructor <;> decide +kernel⟩,
   ⟨U, .p1, 0x1E048, 5, .twn, row 0x1E048, by decide +kernel, by decide +kernel, by decide +kernel, by decide +kernel,
    by decide +kernel, by decide +kernel, by decide +kernel, by constructor <;> decide +kernel⟩,
   ⟨S (up.wr 0xB040 7), .p1, 0xB040, .dbl, row 0x5040, by decide +kernel⟩,
   ⟨S ({ up with q := { used := [1, 3] } }.wr 0xA04C 9), .p1, by decide +kernel⟩,
   ⟨S { up with vol := { v := [(1, { st := .ready, size := 100000, chunks := [4] })], map := [(262144, 0x1234)] } }, .p1,
    0, by decide +kernel⟩,
   ⟨U, .p0, 1, by decide +kernel⟩⟩

/-- States and operands that meet the hypotheses of DeviceResets, clause by clause. -/
theorem test_witness_DeviceResets :
    (∃ (s : State), (s.m.dev.pwrgd = true)) ∧
    (∃ (s : State), (s.m.dev.resetN = true) ∧ (s.m.dev.pwrgd = true) ∧ (s.m.dev.pf = .none) ∧ (s.m.capMode = false)) ∧
    (∃ (s : State), (s.m.dev.resetN = true) ∧ (s.m.dev.pwrgd = true) ∧ (s.m.dev.pf = .none) ∧ (s.m.capMode = true)) ∧
    (∃ (s : State), (s.m.dev.resetN = true) ∧ (s.m.dev.pwrgd = false ∨ s.m.dev.pf ≠ .none)) ∧
    (∃ (s : State) (straps : BitVec 3), (s.m.dev.resetN = false) ∧ (s.m.dev.pwrgd = true)) ∧
    (∃ (s : State), (s.m.smbusUp = true) ∧ (s.m.dev.pf = .none) ∧ (s.m.capMode = false)) ∧
    (∃ (s : State) (pecOk : Bool) (c : Instr), (c = .smbusImmediateReset pecOk ∨ c = .smbusOrderlyReset pecOk) ∧
    (pecOk = false ∨ s.m.smbusUp = false ∨ s.m.dev.pf ≠ .none)) :=
  ⟨⟨U, by decide +kernel⟩,
   ⟨U, by decide +kernel⟩,
   ⟨S capd, by decide +kernel⟩,
   ⟨S { up with dev := { up.dev with pwrgd := false } }, by decide +kernel⟩,
   ⟨S { up with tap := .clamp, dev := { up.dev with resetN := false } }, 3, by decide +kernel⟩,
   ⟨U, by decide +kernel⟩,
   ⟨U, false, .smbusImmediateReset false, by decide +kernel⟩⟩

/-- States and operands that meet the hypotheses of OrderlyStopAndWatchdog, clause by clause. -/
theorem test_witness_OrderlyStopAndWatchdog :
    (∃ (s : State), (s.m.smbusUp = true) ∧ (s.m.dev.pf = .none) ∧ (s.m.ioUp = true) ∧ (s.m.dev.phase = .idle)) ∧
    (∃ (s : State), (s.m.smbusUp = true) ∧ (s.m.dev.pf = .none) ∧ (s.m.ioUp = false)) ∧
    (∃ (s : State) (a : Agent), (s.m.dev.st ≠ .boot) ∧ (s.m.dev.st ≠ .failed) ∧ (s.m.dev.phase = .idle)) ∧
    (∃ (s : State) (a : Agent), (s.m.dev.phase ≠ .idle)) ∧
    (∃ (s : State), (s.m.dev.pf = .none) ∧ (s.m.dev.phase = .quiesce) ∧ (s.m.dev.loaded = true) ∧ (s.m.q.used = []) ∧
    (s.m.q.fetches = []) ∧ (s.m.gln.copies = [])) ∧
    (∃ (s : State), (s.m.dev.pf = .none) ∧ (s.m.dev.phase = .lamp) ∧ (∀ e ∈ s.m.lamp.desc, e.2.lit &&& e.2.dirty = 0)) ∧
    (∃ (s : State), (s.m.dev.pf = .none) ∧ (s.m.dev.phase = .checkpoint) ∧ (s.m.dev.loaded = true) ∧
    (s.m.hdl.cleanRoot = false) ∧ (s.m.checkpointed = true)) ∧
    (∃ (s : State), (s.m.smbusUp = true)) ∧
    (∃ (s : State), (s.m.smbusUp = false)) ∧
    (∃ (s : State), (s.m.dev.fwRunning = true) ∧ (s.m.rd Reg.DEV_WDOG ≠ 0) ∧ (s.m.adm.hitless = none)) ∧
    (∃ (s : State), (s.m.rd Reg.DEV_WDOG = 0)) :=
  ⟨⟨U, by decide +kernel⟩,
   ⟨S { up with dev := { up.dev with st := .adminReady } }, by decide +kernel⟩,
   ⟨U, .p0, by decide +kernel⟩,
   ⟨S { up with dev := { up.dev with phase := .lamp } }, .p1, by decide +kernel⟩,
   ⟨S { up with dev := { up.dev with phase := .quiesce } }, by decide +kernel⟩,
   ⟨S { up with dev := { up.dev with phase := .lamp } }, by decide +kernel⟩,
   ⟨S { up with dev := { up.dev with phase := .checkpoint } }, by decide +kernel⟩,
   ⟨U, by decide +kernel⟩,
   ⟨S { up with dev := { up.dev with pwrgd := false } }, by decide +kernel⟩,
   ⟨S { up with port := up.port.set .p1 { upPort with unlocked := true, challenge := some 5 } }, by decide +kernel⟩,
   ⟨S (up.wr 0x114 0), by decide +kernel⟩⟩

/-- States and operands that meet the hypotheses of BootSteps, clause by clause. -/
theorem test_witness_BootSteps :
    (∃ (s : State), (s.m.dev.st = .boot) ∧ (s.m.dev.stage = 1) ∧ (s.m.dev.bootErr = 0)) ∧
    (∃ (s : State), (s.m.dev.st = .boot) ∧ (s.m.dev.stage = 1) ∧ (s.m.dev.bootErr = 0)) ∧
    (∃ (s : State), (s.m.dev.checking = true) ∧ (s.m.dev.strap = 0) ∧ (s.m.dev.tried = []) ∧
    (s.m.imageFault s.m.adm.active = none) ∧ (s.m.dev.st = .boot)) ∧
    (∃ (s : State) (w : Nat) (r : SlotRead), (s.m.dev.checking = true) ∧ (s.m.dev.strap = 0) ∧ (s.m.dev.tried = []) ∧
    ((r = .read ∧ s.m.imageFault s.m.adm.active = some w) ∨ r = .unreadable)) ∧
    (∃ (s : State), (s.m.dev.checking = true) ∧ (s.m.dev.strap = 0) ∧ (s.m.dev.tried = [s.m.adm.active]) ∧
    (s.m.imageFault (s.m.adm.active + 1) = none) ∧ (s.m.dev.st = .boot)) ∧
    (∃ (s : State) (w : Nat) (r : SlotRead), (s.m.dev.checking = true) ∧ (s.m.dev.strap = 0) ∧
    (s.m.dev.tried = [s.m.adm.active]) ∧ ((r = .read ∧ s.m.imageFault (s.m.adm.active + 1) = some w) ∨ r = .unreadable)) ∧
    (∃ (s : State) (k : Fin 2) (w : Nat), (s.m.dev.checking = true) ∧ (s.m.dev.strap = BitVec.ofNat 3 (k.val + 1)) ∧
    (s.m.imageFault k = some w)) ∧
    (∃ (s : State), (s.m.dev.checking = true) ∧ (s.m.dev.strap = 3) ∧ (s.m.dev.st = .boot) ∧ (s.m.dev.tried = [])) ∧
    (∃ (s : State) (r : SlotRead), (s.m.dev.checking = true) ∧
    (r = .noBootBlocks ∨ (s.m.dev.strap = 3 ∧ r = .unreadable))) ∧
    (∃ (s : State), (s.m.dev.checking = false) ∧ (s.m.dev.fwRunning = false) ∧ (s.m.dev.st = .boot) ∧ (s.m.dev.stage = 3)
    ∧ (s.m.Calm)) ∧
    (∃ (s : State), (s.m.dev.checking = false) ∧ (s.m.dev.fwRunning = false) ∧ (s.m.dev.st ≠ .boot) ∧
    (s.m.dev.fwHalt = false) ∧ (s.m.Calm)) ∧
    (∃ (s : State) (a : Agent), (s.m.dev.st = .adminReady) ∧ (s.m.dev.stage = 9)) :=
  ⟨⟨bo { stage := 1 }, by decide +kernel⟩,
   ⟨bo { stage := 1 }, by decide +kernel⟩,
   ⟨bo { stage := 2, checking := true }, by decide +kernel⟩,
   ⟨S { bad0 with dev := { stage := 2, checking := true } }, 0, .read, by decide +kernel⟩,
   ⟨S { bad0 with dev := { stage := 2, checking := true, tried := [0] } }, by decide +kernel⟩,
   ⟨S { bad2 with dev := { stage := 2, checking := true, tried := [0] } }, 0, .read, by decide +kernel⟩,
   ⟨S { bad2 with dev := { stage := 2, checking := true, strap := 2 } }, 1, 0, by decide +kernel⟩,
   ⟨bo { stage := 2, checking := true, strap := 3 }, by decide +kernel⟩,
   ⟨bo { stage := 2, checking := true, strap := 3 }, .unreadable, by decide +kernel⟩,
   ⟨bo { stage := 3 }, by decide +kernel, by decide +kernel, by decide +kernel, by decide +kernel,
    by constructor <;> decide +kernel⟩,
   ⟨S { up with dev := { up.dev with fwRunning := false } }, by decide +kernel, by decide +kernel, by decide +kernel,
    by decide +kernel, by constructor <;> decide +kernel⟩,
   ⟨S { up with dev := { st := .adminReady, stage := 9, formatted := true } }, .p0, by decide +kernel⟩⟩

/-- States and operands that meet the hypotheses of Training, clause by clause. -/
theorem test_witness_Training :
    (∃ (s : State) (d : Fin 4), (s.m.dev.st = .adminReady) ∧ (s.m.dev.stage = 5) ∧
    (s.m.dev.dramDone.getLsbD d.val = false) ∧ (s.m.pageSt (.drc d) = .stopped)) ∧
    (∃ (s : State) (d : Fin 4), (s.m.dev.st = .adminReady) ∧ (s.m.dev.stage = 5) ∧
    (s.m.dev.dramDone.getLsbD d.val = false)) ∧
    (∃ (s : State) (c : Chan) (x : ChanTraining), (s.m.dev.st = .adminReady) ∧ (s.m.dev.stage = 6) ∧
    (s.m.dev.flashDone.getLsbD c.val = false) ∧ (s.m.dev.flashDone ||| bit32 c.val ≠ 0xFFFFFFFF) ∧
    ((maskBits s.m.dev.flashFail).length ≤ 2) ∧ (x.ok = true) ∧ (x.dies.all s.m.dieFits = true) ∧
    (s.m.pageSt (.fch c) = .stopped) ∧ (∃ j ∈ groupOf c, j ≠ c ∧ s.m.dev.flashDone.getLsbD j.val = false)) ∧
    (∃ (s : State) (c : Chan) (x : ChanTraining), (s.m.dev.st = .adminReady) ∧ (s.m.dev.stage = 6) ∧
    (s.m.dev.flashDone.getLsbD c.val = false) ∧ (s.m.dev.flashDone ||| bit32 c.val ≠ 0xFFFFFFFF) ∧
    ((maskBits s.m.dev.flashFail).length ≤ 2) ∧ (x.ok = true) ∧ (x.dies.all s.m.dieFits = true) ∧
    (∀ j ∈ groupOf c, j ≠ c → s.m.dev.flashDone.getLsbD j.val = true) ∧ (s.m.adm.now.frateCap ≠ 1)) ∧
    (∃ (s : State) (c : Chan) (x : ChanTraining), (s.m.dev.st = .adminReady) ∧ (s.m.dev.stage = 6) ∧
    (s.m.dev.flashDone.getLsbD c.val = false) ∧ (s.m.dev.flashDone ||| bit32 c.val ≠ 0xFFFFFFFF) ∧
    ((maskBits (s.m.dev.flashFail ||| bit32 c.val)).length ≤ 2) ∧ (x.ok = false ∨ x.dies.all s.m.dieFits = false)) ∧
    (∃ (s : State) (c : Chan) (x : ChanTraining), (s.m.dev.st = .adminReady) ∧ (s.m.dev.stage = 6) ∧
    (s.m.dev.flashDone.getLsbD c.val = false) ∧ (2 < (maskBits (s.m.dev.flashFail ||| bit32 c.val)).length) ∧
    (x.ok = false ∨ x.dies.all s.m.dieFits = false)) :=
  ⟨⟨tr { stage := 5, dramDone := 5 } (pg (.drc 1) .stopped up), 1, by decide +kernel⟩,
   ⟨tr { stage := 5, dramDone := 13 } (pg (.drc 1) .stopped up), 1, by decide +kernel⟩,
   ⟨tr { stage := 6, flashDone := 0x0 } (pg (.fch 4) .stopped up), 4, xt, by decide +kernel⟩,
   ⟨tr { stage := 6, flashDone := 0xFFFFEF } { (pg (.fch 4) .stopped up) with adm := { now := { frateCap := 0 } } }, 4,
    xt, by decide +kernel⟩,
   ⟨tr { stage := 6, flashDone := 0xFFFFEF, flashFail := 8 } (pg (.fch 4) .stopped up), 4, { xt with ok := false },
    by decide +kernel⟩,
   ⟨tr { stage := 6, flashDone := 0xFFFFEF, flashFail := 9 } (pg (.fch 4) .stopped up), 4, { xt with ok := false },
    by decide +kernel⟩⟩

end DeviceAndRegisters

/-! ### Start-up; Ports; CXL.mem -/

namespace PortsAndMemory

/-! Start-ups and a checkpoint. -/

def tr (d : Dev) (m : Mach := State.reset.m) : MState := S { m with dev := { d with st := .adminReady } }
def ck : Ckpt := { epoch := 4, wsn := 9, nextFsn := 7, map := [(3, 0x4000)], defn := { vols := [(2, { st := .ready, size := 8, chunks := [0] })], partner := 77, usercap := 8 } }

/-- States and operands that meet the hypotheses of HeadlandStart, clause by clause. -/
theorem test_witness_HeadlandStart :
    (∃ (s : State) (bad : List Nat), (s.m.dev.st = .adminReady) ∧ (s.m.dev.stage = 7) ∧
    (∀ k ∈ s.m.hdl.roots, k.epoch ∈ bad)) ∧
    (∃ (s : State) (bad : List Nat) (k : Ckpt), (s.m.dev.st = .adminReady) ∧ (s.m.dev.stage = 7) ∧
    (s.m.hdl.roots.find? (fun k => !bad.contains k.epoch) = some k)) ∧
    (∃ (s : State) (bad : List Nat), (s.m.dev.st = .adminReady) ∧ (s.m.dev.stage = 8) ∧ (s.m.dev.startRoot = false)) ∧
    (∃ (s : State) (c : Chan) (r : Row) (b : Nat), (s.m.ioUp = true) ∧ (s.m.dev.pf = .none) ∧ (s.m.chanAway c = false) ∧
    ((s.m.blk (dieOf c r.val) b).st = .eraseInterrupted) ∧ ((s.m.blk (dieOf c r.val) b).wpHeld = false)) :=
  ⟨⟨tr { stage := 7 } { up with hdl := { roots := [ck] } }, [4], by decide +kernel⟩,
   ⟨tr { stage := 7 } { up with hdl := { roots := [{ ck with epoch := 6 }, ck] } }, [6], ck, by decide +kernel⟩,
   ⟨tr { stage := 8, loaded := true } { up with hdl := { img := ck }, fl := { cw := [(0, { kind := .data, wsn := 44 })], blk := [(5, { st := .erasing })] } },
    [], by decide +kernel⟩,
   ⟨S { up with fl := { blk := [(4096 * 65 + 9, { st := .eraseInterrupted })] } }, 1, 1, 9, by decide +kernel⟩⟩

/-- States and operands that meet the hypotheses of PortResets, clause by clause. -/
theorem test_witness_PortResets :
    (∃ (s : State) (p : Port), ((s.m.port.get p).perst = false) ∧ (s.m.Calm)) ∧
    (∃ (s : State) (p : Port), ((s.m.port.get p).perst = true) ∧ (s.m.Calm)) ∧
    (∃ (s : State) (p : Port), ((s.m.port.get p).perst = false) ∧ ((s.m.port.get p).up = true) ∧ (s.m.Calm)) ∧
    (∃ (s : State) (p : Port), ((s.m.port.get p).perst = true)) ∧
    (∃ (s : State) (p : Port) (width speed : Nat) (cxl rev : Bool), (s.m.canLink p width speed = true) ∧ (s.m.Calm)) ∧
    (∃ (s : State) (p : Port), ((s.m.port.get p).up = true)) :=
  ⟨⟨U, .p1, by decide +kernel, by constructor <;> decide +kernel⟩,
   ⟨boot, .p1, by decide +kernel, by constructor <;> decide +kernel⟩,
   ⟨U, .p0, by decide +kernel, by decide +kernel, by constructor <;> decide +kernel⟩,
   ⟨S { up with port := { p0 := upPort, p1 := {} } }, .p1, by decide +kernel⟩,
   ⟨S { up with port := { p0 := upPort, p1 := { perst := false } } }, .p1, 8, 5, true, true, by decide +kernel,
    by constructor <;> decide +kernel⟩,
   ⟨U, .p1, by decide +kernel⟩⟩

/-- States and operands that meet the hypotheses of PowerFail, clause by clause. -/
theorem test_witness_PowerFail :
    (∃ (s : State), (s.m.dev.pf = .none) ∧ (s.m.dev.pwrgd = true)) ∧
    (∃ (s : State), (s.m.dev.pf ≠ .none)) ∧
    (∃ (s : State), (s.m.dev.pf = .ending) ∧ (s.m.dev.dump = none) ∧
    (∀ o ∈ s.m.fl.ops, o.issued = true → o.kind.isProgram = false) ∧ (s.m.capMode = true)) ∧
    (∃ (s : State), (s.m.dev.pf = .ending) ∧ (s.m.dev.dump = none) ∧
    (∀ o ∈ s.m.fl.ops, o.issued = true → o.kind.isProgram = false) ∧ (s.m.capMode = false) ∧ (s.m.fl.trip = false) ∧
    (s.m.dev.pfailN = false)) ∧
    (∃ (s : State), (s.m.dev.dump = some .gpf) ∧ (s.m.dev.pf = .none) ∧ (s.m.fl.trip = false) ∧
    (s.m.dev.resetHeld = false)) ∧
    (∃ (s : State), (s.m.dev.resetHeld = true) ∧ (s.m.dev.dump = some .resetPin)) ∧
    (∃ (s : State), (s.m.dev.pf = .over)) ∧
    (∃ (s : State), (s.m.dev.pf ≠ .over)) :=
  ⟨⟨U, by decide +kernel⟩,
   ⟨dv fun d => { d with pf := .writing }, by decide +kernel⟩,
   ⟨dv (fun d => { d with pf := .ending }) capd, by decide +kernel⟩,
   ⟨dv fun d => { d with pf := .ending, pfailN := false }, by decide +kernel⟩,
   ⟨dv fun d => { d with dump := some .gpf, gpfWait := { p0 := true, p1 := false } }, by decide +kernel⟩,
   ⟨dv fun d => { d with dump := some .resetPin, resetHeld := true, resetN := false, pf := .writing }, by decide +kernel⟩,
   ⟨dv fun d => { d with pf := .over, pfailN := false }, by decide +kernel⟩,
   ⟨dv fun d => { d with pfailN := false }, by decide +kernel⟩⟩

/-- States and operands that meet the hypotheses of MemoryReads, clause by clause. -/
theorem test_witness_MemoryReads :
    (∃ (s : State) (p : Port) (hpa dpa i f : Nat) (a : LampAddr), (s.m.memOpen p = true) ∧ (s.m.lampOpen = true) ∧
    (s.m.hdmMatch p hpa = some dpa) ∧ (s.m.lampAddr dpa = some a) ∧ (s.m.lamp.mode ≠ .disabled) ∧
    (s.m.lntFind (descKey a.region a.block) = some i) ∧ (s.m.ClearWay (descKey a.region a.block) dpa) ∧
    (((s.m.desc (descKey a.region a.block)).state a.page).isLit = true) ∧
    ((s.m.desc (descKey a.region a.block)).frame = some f) ∧ (lineKey f a.page a.line ∉ s.m.lamp.lost)) ∧
    (∃ (s : State) (p : Port) (hpa dpa i : Nat) (a : LampAddr), (s.m.memOpen p = true) ∧ (s.m.lampOpen = true) ∧
    (s.m.hdmMatch p hpa = some dpa) ∧ (s.m.lampAddr dpa = some a) ∧ (s.m.lamp.mode ≠ .disabled) ∧
    (s.m.lntFind (descKey a.region a.block) = some i) ∧ (s.m.ClearWay (descKey a.region a.block) dpa) ∧
    (((s.m.desc (descKey a.region a.block)).state a.page).isLit = false) ∧ ((s.m.region a.region).lot = false)) ∧
    (∃ (s : State) (p : Port) (hpa : Nat) (e : MemErr), (s.m.memOpen p = true) ∧ (s.m.lampOpen = true) ∧
    (s.m.hdmMatch p hpa = none)) ∧
    (∃ (s : State) (p : Port) (hpa : Nat) (e : MemErr), (s.m.memOpen p = true) ∧ (s.m.lampOpen = false)) :=
  ⟨⟨S (lampM dLit), .p0, 12352, 12352, 5, 2, la, by decide +kernel, by decide +kernel, by decide +kernel,
    by decide +kernel, by decide +kernel, by decide +kernel, by constructor <;> decide +kernel, by decide +kernel⟩,
   ⟨S (lampM { frame := some 2, lit := 0x10 }), .p0, 12352, 12352, 5, la, by decide +kernel, by decide +kernel,
    by decide +kernel, by decide +kernel, by decide +kernel, by decide +kernel, by constructor <;> decide +kernel,
    by decide +kernel⟩,
   ⟨S (lampM dLit), .p1, 12352, .clean, by decide +kernel⟩,
   ⟨S { (lampM dLit) with dev := { st := .adminReady } }, .p0, 12352, .clean, by decide +kernel⟩⟩

/-- States and operands that meet the hypotheses of MemoryWrites, clause by clause. -/
theorem test_witness_MemoryWrites :
    (∃ (s : State) (p : Port) (hpa dpa i f : Nat) (a : LampAddr) (d : Line), (s.m.memOpen p = true) ∧
    (s.m.lampOpen = true) ∧ (s.m.viral = false) ∧ (s.m.hdmMatch p hpa = some dpa) ∧ (s.m.lampAddr dpa = some a) ∧
    (s.m.lamp.mode ≠ .disabled) ∧ (s.m.lntFind (descKey a.region a.block) = some i) ∧
    (s.m.ClearWay (descKey a.region a.block) dpa) ∧ (((s.m.desc (descKey a.region a.block)).state a.page).isLit = true) ∧
    ((s.m.desc (descKey a.region a.block)).frame = some f) ∧ (s.m.rd Reg.LMP_DIRTYCAP = 0)) ∧
    (∃ (s : State) (p : Port) (hpa dpa i : Nat) (a : LampAddr) (d : Line), (s.m.memOpen p = true) ∧ (s.m.lampOpen = true)
    ∧ (s.m.viral = false) ∧ (s.m.hdmMatch p hpa = some dpa) ∧ (s.m.lampAddr dpa = some a) ∧ (s.m.lamp.mode ≠ .disabled) ∧
    (s.m.lntFind (descKey a.region a.block) = some i) ∧ (s.m.ClearWay (descKey a.region a.block) dpa) ∧
    (((s.m.desc (descKey a.region a.block)).state a.page).isLit = false) ∧ (a.page < 512)) ∧
    (∃ (s : State) (p : Port) (hpa dpa i : Nat) (a : LampAddr), (s.m.memOpen p = true) ∧ (s.m.lampOpen = true) ∧
    (s.m.viral = false) ∧ (s.m.hdmMatch p hpa = some dpa) ∧ (s.m.lampAddr dpa = some a) ∧ (s.m.lamp.mode ≠ .disabled) ∧
    (s.m.lntFind (descKey a.region a.block) = some i) ∧ (s.m.ClearWay (descKey a.region a.block) dpa) ∧ (a.page < 512)) ∧
    (∃ (s : State) (p : Port) (hpa dpa i f : Nat) (a : LampAddr) (d : Line), (s.m.memOpen p = true) ∧
    (s.m.lampOpen = true) ∧ (s.m.viral = false) ∧ (s.m.hdmMatch p hpa = some dpa) ∧ (s.m.lampAddr dpa = some a) ∧
    (s.m.lamp.mode ≠ .disabled) ∧ (s.m.lntFind (descKey a.region a.block) = some i) ∧
    (s.m.ClearWay (descKey a.region a.block) dpa) ∧ (((s.m.desc (descKey a.region a.block)).state a.page).isLit = true) ∧
    ((s.m.desc (descKey a.region a.block)).frame = some f) ∧
    (s.m.capStops (s.m.desc (descKey a.region a.block)) a.page = true)) ∧
    (∃ (s : State) (p : Port) (dpa f : Nat) (a : LampAddr) (d : Line) (rs : List LampReq),
    (s.m.lamp.capHeld = .wr p dpa d :: rs) ∧ (s.m.lampOpen = true) ∧ (s.m.viral = false) ∧ (s.m.lampAddr dpa = some a) ∧
    (((s.m.desc (descKey a.region a.block)).state a.page).isLit = true) ∧
    ((s.m.desc (descKey a.region a.block)).frame = some f) ∧
    (s.m.capStops (s.m.desc (descKey a.region a.block)) a.page = false)) ∧
    (∃ (s : State) (p : Port) (hpa : Nat) (d : Line) (e : MemErr), (s.m.memOpen p = true) ∧ (s.m.lampOpen = false) ∧
    (s.m.dev.st ≠ .failed)) :=
  ⟨⟨S { (lampM dLit) with lamp := { (lampM dLit).lamp with lost := [lineKey 2 3 0, lineKey 2 3 1] } }, .p0, 12352, 12352,
    5, 2, la, 7, by decide +kernel, by decide +kernel, by decide +kernel, by decide +kernel, by decide +kernel,
    by decide +kernel, by decide +kernel, by constructor <;> decide +kernel, by decide +kernel⟩,
   ⟨S (lampM { frame := some 2, lit := 0x10 }), .p0, 12352, 12352, 5, la, 7, by decide +kernel, by decide +kernel,
    by decide +kernel, by decide +kernel, by decide +kernel, by decide +kernel, by decide +kernel,
    by constructor <;> decide +kernel, by decide +kernel⟩,
   ⟨S (lampM dLit), .p0, 12352, 12352, 5, la, by decide +kernel, by decide +kernel, by decide +kernel, by decide +kernel,
    by decide +kernel, by decide +kernel, by decide +kernel, by constructor <;> decide +kernel, by decide +kernel⟩,
   ⟨S ((lampM { dLit with dirty := 0x10 }).wr Reg.LMP_DIRTYCAP 1), .p0, 12352, 12352, 5, 2, la, 7, by decide +kernel,
    by decide +kernel, by decide +kernel, by decide +kernel, by decide +kernel, by decide +kernel, by decide +kernel,
    by constructor <;> decide +kernel, by decide +kernel⟩,
   ⟨S { (lampM dLit) with lamp := { (lampM dLit).lamp with capHeld := [.wr .p0 12352 7] } }, .p0, 12352, 2, la, 7, [],
    by decide +kernel⟩,
   ⟨S { (lampM dLit) with dev := { st := .adminReady } }, .p0, 12352, 5, .clean, by decide +kernel⟩⟩

/-- States and operands that meet the hypotheses of PortEvents, clause by clause. -/
theorem test_witness_PortEvents :
    (∃ (s : State) (p : Port) (k : Fin 4) (base size skip : Nat) (lock : Bool), ((s.m.port.get p).up = true) ∧
    (¬ (((s.m.port.get p).dec k.val).lock = true ∧ ((s.m.port.get p).dec k.val).committed = true))) ∧
    (∃ (s : State) (p : Port) (k : Fin 4) (base size skip : Nat) (lock : Bool), (((s.m.port.get p).dec k.val).lock = true)
    ∧ (((s.m.port.get p).dec k.val).committed = true)) ∧
    (∃ (s : State) (p : Port), (s.m.cxlUp p = true) ∧ (s.m.q.used = [])) ∧
    (∃ (s : State) (p : Port) (i : Nat) (q : Fin 256), (s.m.cxlUp p = true) ∧ (s.m.q.used = [i]) ∧
    ((s.m.cmd i).kind = .host) ∧ ((s.m.cmd i).short = true) ∧ (entOpc (s.m.cmd i).entry = opRead) ∧
    ((s.m.cmd i).qid = some q) ∧ (s.m.Loose i)) ∧
    (∃ (s : State) (p : Port), (s.m.cxlUp p = true)) ∧
    (∃ (s : State) (p : Port), (s.m.cxlUp p = true) ∧ (s.m.capMode = false)) ∧
    (∃ (s : State) (p : Port), (s.m.cxlUp p = true) ∧ (s.m.capMode = true) ∧ (s.m.dev.pf = .none) ∧ (s.m.dev.dump = none)) ∧
    (∃ (s : State) (p : Port) (c : Instr) (b : Bool), ((c = .d3hotEntry p ∧ b = true) ∨ (c = .d3hotExit p ∧ b = false)) ∧
    ((s.m.port.get p).up = true) ∧ (s.m.Calm)) ∧
    (∃ (s : State) (p : Port), (s.m.cxlUp p = true)) :=
  ⟨⟨U, .p0, 0, 0, 2 ^ 28, 0, true, by decide +kernel⟩,
   ⟨S { up with port := up.port.set .p0 { upPort with hdm := [(3, { base := 0, size := 2 ^ 30, committed := true, lock := true })] } },
    .p0, 3, 0, 0, 0, false, by decide +kernel⟩,
   ⟨U, .p0, by decide +kernel⟩,
   ⟨S (cmdM rdC), .p0, 3, 9, by decide +kernel, by decide +kernel, by decide +kernel, by decide +kernel,
    by decide +kernel, by decide +kernel, loose_of (by decide +kernel) (by decide +kernel)⟩,
   ⟨U, .p1, by decide +kernel⟩,
   ⟨U, .p1, by decide +kernel⟩,
   ⟨S capd, .p1, by decide +kernel⟩,
   ⟨U, .p1, Instr.d3hotEntry .p1, true, by decide +kernel, by decide +kernel, by constructor <;> decide +kernel⟩,
   ⟨U, .p1, by decide +kernel⟩⟩

end PortsAndMemory

/-! ### CXL.mem; Mailbox; Firmware; Command queues -/

namespace MailboxAndQueues

/-! Events, poison lists, firmware slots and transfers, queue fetches. -/

def ev1 : EvRec := { handle := 7, kind := .dram 1, pot := 1, pcc := 2 }
def evM : Mach := { up with adm := { up.adm with ev := [(1, { recs := [ev1, { ev1 with handle := 9 }], overflow := 4, next := 10 })] } }
def poi : Mach := { up with adm := { up.adm with poison := [(4096, 64, 2), (9000 * 64, 1, 1)], poisonOver := true } }
def img : Image := { sv := 5, fwrev := 7 }
def fwM (f : Admin → Admin) : MState := S { up with adm := f { up.adm with svFloor := 3 } }
def xf : Transfer := { port := .p0, slot := 1, next := 128 }
def slots (k : Image) (a : Admin) : Admin := { a with fw := { p0 := {}, p1 := { valid := true, img := k } } }
def bg0 : Bg := { port := .p1, op := .activate 1 }
def qf (x : Qp) : Mach := { upV with q := { qp := [(9, x)] } }
def fr : FetchRd := { id := 4, group := 4, qid := 9, slots := [3, 8], back := false }
def frM : Mach := { upV with q := { used := [3, 8], qp := [(9, { qp9 with inflight := 2 })], fetches := [fr], adm := [1] } }
def ad (c : Cmd) (m : Mach := upV) : MState := S { cmdM c m with q := { (cmdM c m).q with adm := [3, 7] } }
def two : Mach := { upV with q := { used := [3, 5], cmd := [(3, rdC), (5, { hc opWrite 3 0 .running with locked := true, entry := mkEntry opWrite 1 3 0 ||| 0x10000 })], qp := [(9, qp9)], adm := [3] } }

/-- States and operands that meet the hypotheses of DoeMailbox, clause by clause. -/
theorem test_witness_DoeMailbox :
    (∃ (s : State) (p : Port), (s.m.doeUp p = true)) ∧
    (∃ (s : State) (p : Port) (h : Nat) (b : List Byte), (s.m.doeUp p = true) ∧ (cdatAt (s.m.adm.plm == 1) h = some b)) ∧
    (∃ (s : State) (p : Port) (h : Nat), (s.m.doeUp p = true) ∧ (7 ≤ h)) ∧
    (∃ (s : State) (p : Port) (off len : Nat), (s.m.shaviUp p = true) ∧ (len ≤ 1000) ∧ (off < 65536)) ∧
    (∃ (s : State) (p : Port) (nonce : BitVec 384), (s.m.shaviUp p = true)) ∧
    (∃ (s : State) (p : Port) (index : Byte) (nonce : BitVec 384), (s.m.shaviUp p = true) ∧ (s.m.beforeStep3 = false) ∧
    (index.toNat < 8)) ∧
    (∃ (s : State) (p : Port) (code : Byte) (dwords : Nat) (lengthOk bodyOk : Bool), (s.m.shaviUp p = true) ∧
    (dwords ≤ 256) ∧ (shaviCode code = false ∨ lengthOk = false ∨ bodyOk = false)) ∧
    (∃ (s : State) (p : Port) (code : Byte) (dwords : Nat) (lengthOk bodyOk : Bool), (s.m.doeUp p = true) ∧
    (256 < dwords)) :=
  ⟨⟨U, .p1, by decide +kernel⟩,
   ⟨U, .p1, 0, (cdatAt (up.adm.plm == 1) 0).getD [], by decide +kernel⟩,
   ⟨U, .p1, 7, by decide +kernel⟩,
   ⟨U, .p1, 65535, 1000, by decide +kernel⟩,
   ⟨U, .p1, 3, by decide +kernel⟩,
   ⟨U, .p1, 7, 3, by decide +kernel⟩,
   ⟨U, .p1, 0x80, 256, true, true, by decide +kernel⟩,
   ⟨U, .p1, 0x85, 257, true, true, by decide +kernel⟩⟩

/-- States and operands that meet the hypotheses of StandardReads, clause by clause. -/
theorem test_witness_StandardReads :
    (∃ (s : State) (p : Port) (log : Fin 4), (s.m.mailboxUp p = true)) ∧
    (∃ (s : State) (p : Port), (s.m.mailboxUp p = true) ∧ (s.m.dev.recovery = false)) ∧
    (∃ (s : State) (p : Port), (s.m.mailboxUp p = true)) ∧
    (∃ (s : State) (p : Port) (off len : Nat), (s.m.mailboxUp p = true) ∧ (off + len ≤ effectsLog.length)) ∧
    (∃ (s : State) (p : Port) (cel : Bool) (off len : Nat), (s.m.mailboxUp p = true) ∧
    (cel = false ∨ effectsLog.length < off + len)) ∧
    (∃ (s : State) (p : Port), (s.m.mailboxUp p = true)) ∧
    (∃ (s : State) (p : Port), (s.m.mailboxUp p = true)) ∧
    (∃ (s : State) (p : Port) (dpa len : Nat), (s.m.mailboxUp p = true) ∧ (s.m.ioUp = true) ∧ (s.m.dev.phase = .idle) ∧
    ((s.m.poisonIn dpa len).length ≤ 1022)) ∧
    (∃ (s : State) (p : Port) (dpa len : Nat), (s.m.mailboxUp p = true) ∧ (s.m.ioUp = false ∨ s.m.dev.phase ≠ .idle)) :=
  ⟨⟨S evM, .p0, 1, by decide +kernel⟩,
   ⟨U, .p0, by decide +kernel⟩,
   ⟨U, .p0, by decide +kernel⟩,
   ⟨U, .p0, effectsLog.length, 0, by decide +kernel⟩,
   ⟨U, .p0, true, effectsLog.length, 1, by decide +kernel⟩,
   ⟨U, .p0, by decide +kernel⟩,
   ⟨U, .p0, by decide +kernel⟩,
   ⟨S poi, .p0, 0, 100, by decide +kernel⟩,
   ⟨dv (fun d => { d with phase := .lamp }), .p0, 0, 100, by decide +kernel⟩⟩

/-- States and operands that meet the hypotheses of MailboxRest, clause by clause. -/
theorem test_witness_MailboxRest :
    (∃ (s : State) (p : Port) (log : Fin 4) (hs : List Nat), (s.m.mailboxUp p = true) ∧ ((s.m.evLog log).recs ≠ [])) ∧
    (∃ (s : State) (p : Port) (log : Fin 4) (hs : List Nat), (s.m.mailboxUp p = true) ∧
    (∀ h ∈ hs, ∃ r ∈ (s.m.evLog log).recs, r.handle = h) ∧ (hs ≠ [])) ∧
    (∃ (s : State) (p : Port) (log : Fin 4) (hs : List Nat) (h : Nat), (s.m.mailboxUp p = true) ∧ (h ∈ hs) ∧
    (∀ r ∈ (s.m.evLog log).recs, r.handle ≠ h)) ∧
    (∃ (s : State) (p : Port) (o : BitVec 16), (s.m.mailboxUp p = true) ∧ (o.toNat ∉ stdOpcodes) ∧
    (o.toNat < 0xC000 ∨ 0xC0FF < o.toNat)) ∧
    (∃ (s : State) (p : Port) (o : BitVec 16), (s.m.mailboxUp p = true) ∧ (o.toNat ∉ vendorOpcodes) ∧ (0xC000 ≤ o.toNat) ∧
    (o.toNat ≤ 0xC0FF)) ∧
    (∃ (s : State) (p : Port) (o : BitVec 16), (o.toNat ∈ stdOpcodes ∨ (0xC000 ≤ o.toNat ∧ o.toNat ≤ 0xC0FF))) ∧
    (∃ (s : State) (p : Port) (o : BitVec 16), (o.toNat ∈ vendorOpcodes ∨ o.toNat < 0xC000 ∨ 0xC0FF < o.toNat)) :=
  ⟨⟨S evM, .p0, 1, [], by decide +kernel⟩,
   ⟨S evM, .p0, 1, [9], by decide +kernel⟩,
   ⟨S evM, .p0, 1, [9, 8], 8, by decide +kernel⟩,
   ⟨U, .p0, 0x1234, by decide +kernel⟩,
   ⟨U, .p0, 0xC0FF, by decide +kernel⟩,
   ⟨U, .p0, 0xC000, by decide +kernel⟩,
   ⟨U, .p0, 0xC100, by decide +kernel⟩⟩

/-- States and operands that meet the hypotheses of Firmware, clause by clause. -/
theorem test_witness_Firmware :
    (∃ (s : State) (p : Port) (k : Fin 2) (len : Nat) (img : Image), (s.m.mailboxUp p = true) ∧ (s.m.adm.xfer = none) ∧
    (s.m.inactive k = true) ∧ (partOk len = true) ∧ (img.good = true) ∧ (s.m.adm.svFloor ≤ img.sv)) ∧
    (∃ (s : State) (p : Port) (k : Fin 2) (len : Nat) (img : Image), (s.m.mailboxUp p = true) ∧ (s.m.adm.xfer = none) ∧
    (s.m.inactive k = true) ∧ (partOk len = true) ∧ (img.good = false ∨ img.sv < s.m.adm.svFloor)) ∧
    (∃ (s : State) (p : Port) (k : Fin 2) (len : Nat), (s.m.mailboxUp p = true) ∧ (s.m.adm.xfer = none) ∧
    (s.m.inactive k = true) ∧ (partOk len = true)) ∧
    (∃ (s : State) (p : Port) (k : Fin 2) (len : Nat) (img : Image) (x : Transfer) (c : Instr),
    (c = .transferFwFull p k len img ∨ c = .transferFwInitiate p k len) ∧ (s.m.mailboxUp p = true) ∧
    (s.m.adm.xfer = some x)) ∧
    (∃ (s : State) (p : Port) (k : Fin 2) (len : Nat) (img : Image) (c : Instr),
    (c = .transferFwFull p k len img ∨ c = .transferFwInitiate p k len) ∧ (s.m.mailboxUp p = true) ∧ (s.m.adm.xfer = none)
    ∧ (s.m.inactive k = false ∨ partOk len = false)) ∧
    (∃ (s : State) (p : Port) (k : Fin 2) (off len : Nat), (s.m.mailboxUp p = true) ∧ (s.m.inactive k = true) ∧
    (partOk len = true) ∧ (s.m.adm.xfer = some { port := p, slot := k, next := 128 * off }) ∧
    (128 * off + len ≤ 4 * 2 ^ 20)) ∧
    (∃ (s : State) (p : Port) (k : Fin 2) (off len : Nat) (img : Image), (s.m.mailboxUp p = true) ∧
    (s.m.inactive k = true) ∧ (partOk len = true) ∧ (s.m.adm.xfer = some { port := p, slot := k, next := 128 * off }) ∧
    (128 * off + len ≤ 4 * 2 ^ 20) ∧ (img.good = true) ∧ (s.m.adm.svFloor ≤ img.sv)) ∧
    (∃ (s : State) (p : Port) (k : Fin 2) (off len : Nat) (img : Image) (x : Transfer) (c : Instr),
    (c = .transferFwContinue p k off len ∨ c = .transferFwEnd p k off len img) ∧ (s.m.mailboxUp p = true) ∧
    (s.m.adm.xfer = some x) ∧ (x.port = p) ∧
    (x.slot ≠ k ∨ x.next ≠ 128 * off ∨ partOk len = false ∨ 4 * 2 ^ 20 < x.next + len)) ∧
    (∃ (s : State) (p : Port) (x : Transfer), (s.m.mailboxUp p = true) ∧ (s.m.adm.xfer = some x) ∧ (x.port = p)) ∧
    (∃ (s : State) (p : Port), (s.m.mailboxUp p = true) ∧ (∀ x, s.m.adm.xfer = some x → x.port ≠ p)) ∧
    (∃ (s : State) (p : Port) (k : Fin 2), (s.m.mailboxUp p = true) ∧ ((s.m.slot k).valid = true) ∧
    ((s.m.slot k).img.good = true) ∧ (s.m.adm.svFloor ≤ (s.m.slot k).img.sv)) ∧
    (∃ (s : State) (p : Port) (k : Fin 2), (s.m.mailboxUp p = true) ∧ ((s.m.slot k).valid = true) ∧
    ((s.m.slot k).img.good = true) ∧ (s.m.adm.svFloor ≤ (s.m.slot k).img.sv) ∧ (s.m.adm.bg = none) ∧
    (s.m.dev.recovery = false)) ∧
    (∃ (s : State) (p : Port) (k : Fin 2) (c : Instr), (c = .activateFwNextReset p k ∨ c = .activateFwOnline p k) ∧
    (s.m.mailboxUp p = true) ∧ (s.m.adm.bg = none) ∧ (s.m.dev.recovery = false) ∧ ((s.m.slot k).valid = false)) ∧
    (∃ (s : State) (p : Port) (k : Fin 2) (c : Instr), (c = .activateFwNextReset p k ∨ c = .activateFwOnline p k) ∧
    (s.m.mailboxUp p = true) ∧ (s.m.adm.bg = none) ∧ (s.m.dev.recovery = false) ∧ ((s.m.slot k).valid = true) ∧
    ((s.m.slot k).img.good = true) ∧ ((s.m.slot k).img.sv < s.m.adm.svFloor)) ∧
    (∃ (s : State) (p : Port) (k : Fin 2), (s.m.mailboxUp p = true) ∧ (s.m.adm.bg ≠ none)) ∧
    (∃ (s : State) (k : Fin 2), (s.m.adm.hitless = some (k, false)) ∧ (s.m.imageFault k = none) ∧
    (s.m.foreground = false)) ∧
    (∃ (s : State) (k : Fin 2) (w : Nat) (b : Bg), (s.m.adm.hitless = some (k, false)) ∧ (s.m.imageFault k = some w) ∧
    (s.m.adm.bg = some b)) ∧
    (∃ (s : State) (k : Fin 2) (b : Bg), (s.m.adm.hitless = some (k, true)) ∧ (s.m.adm.bg = some b) ∧ (s.m.Calm)) ∧
    (∃ (s : State) (k : Fin 2) (b : Bg), (s.m.adm.hitless = some (k, true)) ∧ (s.m.adm.bg = some b) ∧ (s.m.Calm)) :=
  ⟨⟨fwM id, .p0, 1, 16256, { img with sv := 3 }, by decide +kernel⟩,
   ⟨fwM id, .p0, 1, 0, { img with sv := 2 }, by decide +kernel⟩,
   ⟨fwM id, .p0, 1, 128, by decide +kernel⟩,
   ⟨fwM fun a => { a with xfer := some xf }, .p1, 1, 128, img, xf, .transferFwFull .p1 1 128 img, by decide +kernel⟩,
   ⟨fwM id, .p0, 0, 128, img, .transferFwFull .p0 0 128 img, by decide +kernel⟩,
   ⟨fwM fun a => { a with xfer := some xf }, .p0, 1, 1, 16256, by decide +kernel⟩,
   ⟨fwM fun a => { a with xfer := some xf }, .p0, 1, 1, 16256, img, by decide +kernel⟩,
   ⟨fwM fun a => { a with xfer := some xf }, .p0, 0, 1, 16256, img, xf, .transferFwEnd .p0 0 1 16256 img,
    by decide +kernel⟩,
   ⟨fwM fun a => { a with xfer := some xf }, .p0, xf, by decide +kernel⟩,
   ⟨fwM fun a => { a with xfer := some xf }, .p1, by decide +kernel⟩,
   ⟨fwM (slots img), .p0, 1, by decide +kernel⟩,
   ⟨fwM (slots img), .p1, 1, by decide +kernel⟩,
   ⟨fwM fun a => { a with fw := { p0 := {}, p1 := { valid := false, img := img } } }, .p0, 1, .activateFwOnline .p0 1,
    by decide +kernel⟩,
   ⟨fwM (slots { img with sv := 2 }), .p0, 1, .activateFwNextReset .p0 1, by decide +kernel⟩,
   ⟨fwM fun a => { a with bg := some bg0 }, .p0, 1, by decide +kernel⟩,
   ⟨fwM fun a => { (slots img a) with bg := some bg0, hitless := some (1, false) }, 1, by decide +kernel⟩,
   ⟨fwM fun a => { (slots { img with sv := 2 } a) with bg := some bg0, hitless := some (1, false) }, 1, 1, bg0,
    by decide +kernel⟩,
   ⟨fwM fun a => { (slots img a) with bg := some bg0, hitless := some (1, true) }, 1, bg0, by decide +kernel,
    by decide +kernel, by constructor <;> decide +kernel⟩,
   ⟨fwM fun a => { (slots img a) with bg := some bg0, hitless := some (1, true) }, 1, bg0, by decide +kernel,
    by decide +kernel, by constructor <;> decide +kernel⟩⟩

/-- States and operands that meet the hypotheses of Doorbells, clause by clause. -/
theorem test_witness_Doorbells :
    (∃ (s : State) (h : Port) (q : Fin 256) (v : Word), (s.m.pageSt .dbl ≠ .off) ∧ ((s.m.qp q).port = h) ∧
    ((s.m.qp q).st = .active) ∧ (v.toNat % 8192 < (s.m.qp q).depth)) ∧
    (∃ (s : State) (h : Port) (q : Fin 256) (v : Word), (s.m.pageSt .dbl ≠ .off) ∧ ((s.m.qp q).port = h) ∧
    ((s.m.qp q).st = .active ∨ (s.m.qp q).st = .deleting) ∧ ((s.m.qp q).headOk (v.toNat % 8192) = true)) ∧
    (∃ (s : State) (h : Port) (q : Fin 256) (v : Word), (s.m.pageSt .dbl ≠ .off) ∧
    (¬ ((s.m.qp q).port = h ∧ (s.m.qp q).st = .active ∧ v.toNat % 8192 < (s.m.qp q).depth))) ∧
    (∃ (s : State) (h : Port) (q : Fin 256) (v : Word), (s.m.pageSt .dbl ≠ .off) ∧ (¬ ((s.m.qp q).port = h ∧ ((s.m.qp
    q).st = .active ∨ (s.m.qp q).st = .deleting) ∧ (s.m.qp q).headOk (v.toNat % 8192) = true))) ∧
    (∃ (s : State) (q : Fin 256) (v : Word) (c : Instr), (c = .sqTailDoorbell .mgmt q v ∨ c = .cqHeadDoorbell .mgmt q v) ∧
    (s.m.pageSt .dbl ≠ .off)) ∧
    (∃ (s : State) (h : Port) (q : Fin 256) (v : Word) (c : Instr),
    (c = .sqTailDoorbell h.agent q v ∨ c = .cqHeadDoorbell h.agent q v) ∧ (s.m.pageSt .dbl = .off)) :=
  ⟨⟨S (cmdM rdC), .p0, 9, 3, by decide +kernel⟩,
   ⟨S (cmdM rdC), .p0, 9, 3, by decide +kernel⟩,
   ⟨S (cmdM rdC), .p0, 9, 4, by decide +kernel⟩,
   ⟨S (cmdM rdC), .p0, 9, 4, by decide +kernel⟩,
   ⟨S (cmdM rdC), 9, 3, .sqTailDoorbell .mgmt 9 3, by decide +kernel⟩,
   ⟨boot, .p1, 9, 3, .cqHeadDoorbell .p1 9 3, by decide +kernel⟩⟩

/-- States and operands that meet the hypotheses of QueueFetch, clause by clause. -/
theorem test_witness_QueueFetch :
    (∃ (s : State) (q : Fin 256) (k : Nat), (s.m.ReadsSent) ∧ (s.m.fetching = true) ∧
    (0 < s.m.q.credit.getD s.m.q.cur.val 0) ∧ (s.m.nextEligible s.m.q.cur.val (s.m.q.rr.getD s.m.q.cur.val 255) = some q)
    ∧ (k = min (min (bits (s.m.rdN Reg.QCT_BURST) 3 0) (s.m.qp q).submitted) (min (s.m.qp q).room (s.m.slotsFree (some
    (s.m.qp q).port)))) ∧ (0 < k) ∧ ((s.m.qp q).fetch + k ≤ (s.m.qp q).depth)) ∧
    (∃ (s : State), (s.m.ReadsSent) ∧ (s.m.fetching = true) ∧ (∀ c < 3, s.m.nextEligible c (s.m.q.rr.getD c 255) = none)) ∧
    (∃ (s : State), (s.m.ReadsSent) ∧ (s.m.fetching = false)) ∧
    (∃ (s : State) (i : Nat) (p : Port), (s.m.fetching = false) ∧ (s.m.q.used = [i]) ∧ ((s.m.cmd i).port = some p) ∧
    ((s.m.cmd i).unsent.length + s.m.portReads p ≤ maxReads)) ∧
    (∃ (s : State) (f : FetchRd) (es : List Entry), (s.m.q.fetches.find? (fun x => x.id == f.id && !x.back) = some f) ∧
    (s.m.q.fetches.filter (fun x => x.group == f.group) = [f]) ∧ (∀ x ∈ s.m.q.fetches, x.id = f.id → x = f) ∧
    (es.length = f.slots.length) ∧ (f.slots.Nodup)) ∧
    (∃ (s : State) (id : Nat) (es : List Entry) (c : Instr), (c = .fetchReadReturn id es ∨ c = .fetchReadFailure id) ∧
    (s.m.q.fetches.find? (fun x => x.id == id && !x.back) = none)) ∧
    (∃ (s : State) (f : FetchRd), (s.m.q.fetches.find? (fun x => x.id == f.id && !x.back) = some f) ∧
    (s.m.q.fetches.filter (fun x => x.group == f.group) = [f]) ∧ (∀ i ∈ f.slots, ∀ e ∈ s.m.twn.tx, e.2 ≠ .cmd i)) :=
  ⟨⟨S (qf { qp9 with depth := 16, tail := 15, cls := 0, cqHead := 3, inflight := 0 }), 9, 8, sent_of (by decide +kernel),
    by decide +kernel⟩,
   ⟨S (qf { qp9 with depth := 16, tail := 0, cls := 0, cqHead := 3, inflight := 0 }), sent_of (by decide +kernel),
    by decide +kernel⟩,
   ⟨S (pg .qct .stopped up), sent_of (by decide +kernel), by decide +kernel⟩,
   ⟨S { cmdM { hc opWrite 8 1 .running with todo := [0, 1], unsent := [(0, 4096, 4096), (1, 8192, 4096)] } (pg .qct .stopped upV) with q := { (cmdM { hc opWrite 8 1 .running with todo := [0, 1], unsent := [(0, 4096, 4096), (1, 8192, 4096)] } (pg .qct .stopped upV)).q with used := [3] } },
    3, .p0, by decide +kernel⟩,
   ⟨S frM, fr, [mkEntry 1 1 0 0, mkEntry 2 1 3 4], by decide +kernel⟩,
   ⟨S frM, 3, [], .fetchReadFailure 3, by decide +kernel⟩,
   ⟨S frM, fr, by decide +kernel⟩⟩

/-- States and operands that meet the hypotheses of CommandAdmission, clause by clause. -/
theorem test_witness_CommandAdmission :
    (∃ (s : State), (s.m.q.adm = [])) ∧
    (∃ (s : State) (i : Nat) (r : List Nat) (q : Fin 256) (st d2 : Nat), (s.m.q.adm = i :: r) ∧ (s.m.viral = false) ∧
    (s.m.dev.st ≠ .failed) ∧ (s.m.validate i = some (st, d2)) ∧ ((s.m.cmd i).kind = .host) ∧ ((s.m.cmd i).qid = some q) ∧
    (s.m.Loose i)) ∧
    (∃ (s : State) (i : Nat) (r : List Nat) (q : Fin 256), (s.m.q.adm = i :: r) ∧ (s.m.viral = false) ∧
    (s.m.dev.st ≠ .failed) ∧ (s.m.entryCheck i = none) ∧ (knownOpc (entOpc (s.m.cmd i).entry) = false) ∧
    ((s.m.cmd i).kind = .host) ∧ ((s.m.cmd i).qid = some q) ∧ (s.m.Loose i)) ∧
    (∃ (s : State) (i : Nat) (r : List Nat) (q : Fin 256), (s.m.q.adm = i :: r) ∧
    (s.m.viral = true ∨ s.m.dev.st = .failed) ∧ ((s.m.cmd i).kind = .host) ∧ ((s.m.cmd i).qid = some q) ∧ (s.m.Loose i)) ∧
    (∃ (s : State) (i : Nat) (r : List Nat), (s.m.q.adm = i :: r) ∧ (s.m.viral = false) ∧ (s.m.dev.st ≠ .failed) ∧
    (s.m.validate i = none) ∧ (entOpc (s.m.cmd i).entry ≠ opFlush) ∧
    ((s.m.volu (entVol (s.m.cmd i).entry)).mirrored = false) ∧
    (∀ j ∈ s.m.locks, j ≠ i → conflicts (s.m.cmd j) (s.m.cmd i) = false)) ∧
    (∃ (s : State) (i : Nat) (r : List Nat), (s.m.q.adm = i :: r) ∧ (s.m.viral = false) ∧ (s.m.dev.st ≠ .failed) ∧
    (s.m.validate i = none) ∧ (entOpc (s.m.cmd i).entry ≠ opFlush) ∧
    (∃ j ∈ s.m.locks, j ≠ i ∧ conflicts (s.m.cmd j) (s.m.cmd i) = true)) ∧
    (∃ (s : State) (i : Nat) (r : List Nat), (s.m.q.adm = i :: r) ∧ (s.m.viral = false) ∧ (s.m.dev.st ≠ .failed) ∧
    (s.m.validate i = none) ∧ (entOpc (s.m.cmd i).entry = opFlush) ∧
    ((s.m.flushCovers (entVol (s.m.cmd i).entry)).2 = false)) :=
  ⟨⟨U, by decide +kernel⟩,
   ⟨ad (hc opRead (2 ^ 20) 0 .waiting), 3, [7], 9, St.lbaRange, 0, by decide +kernel, by decide +kernel,
    by decide +kernel, by decide +kernel, by decide +kernel, by decide +kernel,
    loose_of (by decide +kernel) (by decide +kernel)⟩,
   ⟨ad (hc 0x77 0 3 .waiting), 3, [7], 9, by decide +kernel, by decide +kernel, by decide +kernel, by decide +kernel,
    by decide +kernel, by decide +kernel, by decide +kernel, loose_of (by decide +kernel) (by decide +kernel)⟩,
   ⟨ad rdC { upV with port := upV.port.set .p1 { upPort with viralRx := true } }, 3, [7], 9, by decide +kernel,
    by decide +kernel, by decide +kernel, by decide +kernel, loose_of (by decide +kernel) (by decide +kernel)⟩,
   ⟨ad rdC, 3, [7], by decide +kernel⟩,
   ⟨S two, 3, [], by decide +kernel⟩,
   ⟨ad (hc opFlush 0 0 .waiting), 3, [7], by decide +kernel⟩⟩

end MailboxAndQueues

/-! ### Command queues; Block commands -/

namespace HostCommands

/-! Queue pairs, aborts, buffers that are full, scatter lists and mapped entries. -/

def dq (x : Qp) : Mach := { upV with q := { qp := [(9, x)] } }
def ab (c : Cmd) (t : BitVec 12) : MState := S { cmdM c with q := { (cmdM c).q with aborts := [(.p0, t), (.p1, 3)] } }
def nobuf : Mach := { (cmdM { hc opWrite 8 1 .running with todo := [0, 1] }) with hdl := { bufCap := 1 }, buf := { vers := [{ id := 0, vol := 1, mu := 77, mask := 15, data := [], wsn := 1, st := .opn, pos := 0, lampwb := 0, rmwTodo := [], rmwFail := false, lost := 0, pri := false, cov := false, rsv := false, again := false }] } }
def sg (o : Nat) (c : Cmd) : MState := S (cmdM { c with entry := mkEntry o 1 8 0 ||| 0x2000 })
def mapd (e : BitVec 40) (m : Mach := upV) : Mach := { m with vol := { m.vol with map := [(2, e)] } }

/-- States and operands that meet the hypotheses of QueuePairsAndAbort, clause by clause. -/
theorem test_witness_QueuePairsAndAbort :
    (∃ (s : State) (p : Port) (q : Fin 256) (depth cls : Nat) (crc : Bool) (sq cq : Nat), (s.m.mailboxUp p = true) ∧
    (s.m.ioUp = true) ∧ (s.m.dev.phase = .idle) ∧ ((s.m.qp q).st = .absent) ∧ (s.m.pairsOf p < 128) ∧ (2 ≤ depth) ∧
    (depth ≤ 4096) ∧ (cls < 3) ∧ (sq % 4096 = 0) ∧ (cq % 4096 = 0)) ∧
    (∃ (s : State) (p : Port) (q : Fin 256) (depth cls : Nat) (crc : Bool) (sq cq : Nat), (s.m.mailboxUp p = true) ∧
    (s.m.ioUp = true) ∧ (s.m.dev.phase = .idle) ∧ ((s.m.qp q).st ≠ .absent ∨ 128 ≤ s.m.pairsOf p ∨ depth < 2 ∨ 4096 <
    depth ∨ cls % 4 = 3 ∨ sq % 4096 ≠ 0 ∨ cq % 4096 ≠ 0)) ∧
    (∃ (s : State) (p : Port) (q : Fin 256), (s.m.mailboxUp p = true) ∧ (s.m.ioUp = true) ∧ (s.m.dev.phase = .idle) ∧
    ((s.m.qp q).port = p) ∧ ((s.m.qp q).st = .active ∨ (s.m.qp q).st = .faulted) ∧ (∀ f ∈ s.m.q.fetches, f.qid ≠ q) ∧
    (∀ i ∈ s.m.q.used, (s.m.cmd i).qid ≠ some q)) ∧
    (∃ (s : State) (p : Port) (q : Fin 256) (i : Nat), (s.m.mailboxUp p = true) ∧ (s.m.ioUp = true) ∧
    (s.m.dev.phase = .idle) ∧ ((s.m.qp q).port = p) ∧ ((s.m.qp q).st = .active ∨ (s.m.qp q).st = .faulted) ∧
    (∀ f ∈ s.m.q.fetches, f.qid ≠ q) ∧ (s.m.q.used = [i]) ∧ ((s.m.cmd i).qid = some q) ∧ ((s.m.cmd i).kind = .host) ∧
    ((s.m.cmd i).short = true) ∧ (entOpc (s.m.cmd i).entry = opRead) ∧ (s.m.Loose i)) ∧
    (∃ (s : State) (p : Port) (q : Fin 256), (s.m.mailboxUp p = true) ∧ (s.m.ioUp = true) ∧ (s.m.dev.phase = .idle) ∧
    ((s.m.qp q).port ≠ p ∨ (s.m.qp q).st = .absent ∨ (s.m.qp q).st = .deleting)) ∧
    (∃ (s : State) (p : Port) (q : Fin 256), ((s.m.qp q).st = .deleting) ∧ ((s.m.qp q).delBy = some p) ∧
    (∀ i ∈ s.m.q.used, (s.m.cmd i).qid ≠ some q) ∧ (s.m.Calm)) ∧
    (∃ (s : State) (q : Fin 256), ((s.m.qp q).st ≠ .deleting ∨ (∃ i ∈ s.m.q.used, (s.m.cmd i).qid = some q)) ∧ (s.m.Calm)) ∧
    (∃ (s : State) (p : Port) (tag : BitVec 12), (s.m.mailboxUp p = true) ∧ (s.m.ioUp = true) ∧ (s.m.dev.phase = .idle)) ∧
    (∃ (s : State), (s.m.q.aborts = []) ∧ (s.m.Calm)) ∧
    (∃ (s : State) (p : Port) (tag : BitVec 12) (r : List (Port × BitVec 12)), (s.m.q.aborts = (p, tag) :: r) ∧
    (s.m.abortTarget p tag = none) ∧ (s.m.Calm)) ∧
    (∃ (s : State) (p : Port) (tag : BitVec 12) (r : List (Port × BitVec 12)) (i : Nat), (s.m.q.aborts = (p, tag) :: r) ∧
    (s.m.abortTarget p tag = some i) ∧ ((s.m.cmd i).short = false) ∧ (s.m.Calm)) ∧
    (∃ (s : State) (p : Port) (tag : BitVec 12) (r : List (Port × BitVec 12)) (i : Nat) (q : Fin 256),
    (s.m.q.aborts = (p, tag) :: r) ∧ (s.m.abortTarget p tag = some i) ∧ ((s.m.cmd i).short = true) ∧
    ((s.m.cmd i).kind = .host) ∧ ((s.m.cmd i).qid = some q) ∧
    (entOpc (s.m.cmd i).entry = opRead ∨ entOpc (s.m.cmd i).entry = opWrite) ∧ (s.m.Loose i) ∧ (s.m.Calm)) :=
  ⟨⟨U, .p1, 255, 4096, 2, true, 4096, 8192, by decide +kernel⟩,
   ⟨U, .p1, 255, 4097, 2, true, 4096, 8192, by decide +kernel⟩,
   ⟨S (dq qp9), .p0, 9, by decide +kernel⟩,
   ⟨S (cmdM rdC), .p0, 9, 3, by decide +kernel, by decide +kernel, by decide +kernel, by decide +kernel,
    by decide +kernel, by decide +kernel, by decide +kernel, by decide +kernel, by decide +kernel, by decide +kernel,
    by decide +kernel, loose_of (by decide +kernel) (by decide +kernel)⟩,
   ⟨S (dq { qp9 with st := .deleting }), .p0, 9, by decide +kernel⟩,
   ⟨S (dq { qp9 with st := .deleting, delBy := some .p1 }), .p1, 9, by decide +kernel, by decide +kernel,
    by decide +kernel, by constructor <;> decide +kernel⟩,
   ⟨S (dq qp9), 9, by decide +kernel, by constructor <;> decide +kernel⟩,
   ⟨U, .p0, 5, by decide +kernel⟩,
   ⟨U, by decide +kernel, by constructor <;> decide +kernel⟩,
   ⟨ab rdC 5, .p0, 5, [(.p1, 3)], by decide +kernel, by decide +kernel, by constructor <;> decide +kernel⟩,
   ⟨ab { rdC with stage := .committed } 0, .p0, 0, [(.p1, 3)], 3, by decide +kernel, by decide +kernel, by decide +kernel,
    by constructor <;> decide +kernel⟩,
   ⟨ab rdC 0, .p0, 0, [(.p1, 3)], 3, 9, by decide +kernel, by decide +kernel, by decide +kernel, by decide +kernel,
    by decide +kernel, by decide +kernel, loose_of (by decide +kernel) (by decide +kernel),
    by constructor <;> decide +kernel⟩⟩

/-- States and operands that meet the hypotheses of HostWrites, clause by clause. -/
theorem test_witness_HostWrites :
    (∃ (s : State) (i : Fin 4096) (p : Port), (s.m.fresh i opWrite = true) ∧ (s.m.gln.level ≠ .exhausted) ∧
    ((s.m.volu (entVol (s.m.cmd i).entry)).mirrored = false) ∧ ((s.m.cmd i).needsList = false) ∧
    ((s.m.cmd i).port = some p) ∧ (((List.range (entCount (s.m.cmd i).entry)).flatMap (s.m.cmd i).pieces).length +
    s.m.portReads p ≤ maxReads)) ∧
    (∃ (s : State) (i : Fin 4096) (q : Fin 256), (s.m.fresh i opWrite = true) ∧ (s.m.gln.level = .exhausted) ∧
    (s.m.Plain i q)) ∧
    (∃ (s : State) (i : Fin 4096) (off : Nat) (r : List Nat) (d : Block), (s.m.working i opWrite = true) ∧ (s.m.ReadsSent)
    ∧ ((s.m.cmd i).stalled = false) ∧ ((s.m.cmd i).todo = off :: r) ∧ (r ≠ []) ∧ ((s.m.cmd i).xid = none) ∧
    (s.m.lampOf (entVol (s.m.cmd i).entry) (entSlba (s.m.cmd i).entry + off) = none) ∧
    ((s.m.volu (entVol (s.m.cmd i).entry)).mirrored = false) ∧
    (s.m.openVer (entVol (s.m.cmd i).entry) ((entSlba (s.m.cmd i).entry + off) / 4) = none) ∧ (s.m.bufRoom = true) ∧
    (s.m.paced = false)) ∧
    (∃ (s : State) (i : Fin 4096) (q : Fin 256) (off : Nat) (d : Block), (s.m.working i opWrite = true) ∧ (s.m.ReadsSent)
    ∧ (s.m.Plain i q) ∧ (s.m.Alone i) ∧ ((s.m.cmd i).stalled = false) ∧ ((s.m.cmd i).todo = [off]) ∧
    (entFua (s.m.cmd i).entry = false) ∧ (s.m.lampOf (entVol (s.m.cmd i).entry) (entSlba (s.m.cmd i).entry + off) = none)
    ∧ ((s.m.volu (entVol (s.m.cmd i).entry)).mirrored = false) ∧
    (s.m.openVer (entVol (s.m.cmd i).entry) ((entSlba (s.m.cmd i).entry + off) / 4) = none) ∧ (s.m.bufRoom = true) ∧
    (s.m.paced = false)) ∧
    (∃ (s : State) (i : Fin 4096) (q : Fin 256) (off k p f : Nat) (d : Block), (s.m.working i opWrite = true) ∧
    (s.m.ReadsSent) ∧ (s.m.Plain i q) ∧ (s.m.Alone i) ∧ ((s.m.cmd i).stalled = false) ∧ ((s.m.cmd i).todo = [off]) ∧
    (s.m.bypasses (s.m.cmd i) = true) ∧
    (s.m.litAt (entVol (s.m.cmd i).entry) (entSlba (s.m.cmd i).entry + off) = some (k, p, f)) ∧ (p < 512)) ∧
    (∃ (s : State) (i : Fin 4096) (off : Nat) (r : List Nat) (d : Block), (s.m.working i opWrite = true) ∧ (s.m.ReadsSent)
    ∧ ((s.m.cmd i).stalled = false) ∧ ((s.m.cmd i).todo = off :: r) ∧
    (s.m.lampOf (entVol (s.m.cmd i).entry) (entSlba (s.m.cmd i).entry + off) = none) ∧
    (s.m.lbRoom (entVol (s.m.cmd i).entry) (entSlba (s.m.cmd i).entry + off) = false) ∧
    (∀ x ∈ s.m.buf.vers, x.st ≠ .held)) ∧
    (∃ (s : State) (i : Fin 4096) (off : Nat) (r : List Nat), (s.m.slotUsed i = true) ∧ ((s.m.cmd i).stalled = true) ∧
    ((s.m.cmd i).todo = off :: r) ∧ (s.m.mayAccept (entOpc (s.m.cmd i).entry) (entVol (s.m.cmd i).entry) (entSlba (s.m.cmd
    i).entry + off) = true)) ∧
    (∃ (s : State) (i : Fin 4096) (q : Fin 256) (off : Nat) (r : List Nat), (s.m.working i opWrite = true) ∧
    (s.m.Plain i q) ∧ ((s.m.cmd i).todo = off :: r)) :=
  ⟨⟨S (cmdM (hc opWrite 8 1 .admitted)), 3, .p0, by decide +kernel⟩,
   ⟨S { cmdM (hc opWrite 8 1 .admitted) with gln := { level := .exhausted } }, 3, 9, by decide +kernel, by decide +kernel,
    by constructor <;> first | decide +kernel | exact loose_of (by decide +kernel) (by decide +kernel)⟩,
   ⟨S (cmdM { hc opWrite 8 1 .running with todo := [0, 1] }), 3, 0, [1], 0xABCD, by decide +kernel,
    sent_of (by decide +kernel), by decide +kernel⟩,
   ⟨S (cmdM { hc opWrite 8 1 .running with todo := [1] }), 3, 9, 1, 0xABCD, by decide +kernel,
    sent_of (by decide +kernel),
    by constructor <;> first | decide +kernel | exact loose_of (by decide +kernel) (by decide +kernel),
    alone_of (by decide +kernel) (by decide +kernel) (by decide +kernel) rfl, by decide +kernel⟩,
   ⟨S (cmdM { hc opWrite 3 0 .running with todo := [0] } (lampM dLit)), 3, 9, 0, 0, 3, 2, 0xABCD, by decide +kernel,
    sent_of (by decide +kernel),
    by constructor <;> first | decide +kernel | exact loose_of (by decide +kernel) (by decide +kernel),
    alone_of (by decide +kernel) (by decide +kernel) (by decide +kernel) rfl, by decide +kernel⟩,
   ⟨S nobuf, 3, 0, [1], 0xABCD, by decide +kernel, sent_of (by decide +kernel), by decide +kernel⟩,
   ⟨S (cmdM { hc opWrite 8 1 .running with todo := [1], stalled := true }), 3, 1, [], by decide +kernel⟩,
   ⟨S (cmdM { hc opWrite 8 1 .running with todo := [1] }), 3, 9, 1, [], by decide +kernel,
    by constructor <;> first | decide +kernel | exact loose_of (by decide +kernel) (by decide +kernel), by decide +kernel⟩⟩

/-- States and operands that meet the hypotheses of ScatterLists, clause by clause. -/
theorem test_witness_ScatterLists :
    (∃ (s : State) (i : Fin 4096) (p : Port) (lost : List DramUser) (c : Instr), ((c = .write i ∧ s.m.fresh i opWrite =
    true ∧ s.m.gln.level ≠ .exhausted ∧ (s.m.volu (entVol (s.m.cmd i).entry)).mirrored = false) ∨ (c = .read i lost ∧
    s.m.fresh i opRead = true)) ∧ ((s.m.cmd i).needsList = true) ∧ ((s.m.cmd i).sglPending = false) ∧
    ((s.m.cmd i).port = some p)) ∧
    (∃ (s : State) (i : Fin 4096) (l xs : List (BitVec 128)), (s.m.slotUsed i = true) ∧ ((s.m.cmd i).sglPending = true) ∧
    (sglOk (4096 * entCount (s.m.cmd i).entry) l = some xs)) ∧
    (∃ (s : State) (i : Fin 4096) (q : Fin 256) (ok : Bool) (l : List (BitVec 128)), (s.m.slotUsed i = true) ∧
    ((s.m.cmd i).sglPending = true) ∧ (ok = false ∨ sglOk (4096 * entCount (s.m.cmd i).entry) l = none) ∧ (s.m.Plain i q)) ∧
    (∃ (s : State) (i : Fin 4096) (ok : Bool) (l : List (BitVec 128)),
    (s.m.slotUsed i = false ∨ (s.m.cmd i).sglPending = false)) :=
  ⟨⟨sg opWrite (hc opWrite 8 0 .admitted), 3, .p0, [], .write 3, by decide +kernel⟩,
   ⟨sg opRead { hc opRead 8 0 .admitted with sglPending := true }, 3, [4096 <<< 64 ||| 1 <<< 96, 7],
    [4096 <<< 64 ||| 1 <<< 96], by decide +kernel⟩,
   ⟨sg opRead { hc opRead 8 0 .admitted with sglPending := true }, 3, 9, true, [4096 <<< 64], by decide +kernel,
    by decide +kernel, by decide +kernel,
    by constructor <;> first | decide +kernel | exact loose_of (by decide +kernel) (by decide +kernel)⟩,
   ⟨sg opRead { hc opRead 8 0 .admitted with sglPending := false }, 3, true, [], by decide +kernel⟩⟩

/-- States and operands that meet the hypotheses of HostReads, clause by clause. -/
theorem test_witness_HostReads :
    (∃ (s : State) (i : Fin 4096) (q : Fin 256) (p : Port) (d : Nat → Block), (s.m.fresh i opRead = true) ∧
    ((s.m.cmd i).needsList = false) ∧ (s.m.Plain i q) ∧ ((s.m.cmd i).port = some p) ∧ (∀ off, off < entCount (s.m.cmd
    i).entry → s.m.ReadsAs (entVol (s.m.cmd i).entry) (entSlba (s.m.cmd i).entry + off) (d off))) ∧
    (∃ (s : State) (i : Fin 4096) (q : Fin 256) (d : Nat → Block), (s.m.fresh i opVerify = true) ∧ (s.m.Plain i q) ∧ (∀
    off, off < entCount (s.m.cmd i).entry → s.m.ReadsAs (entVol (s.m.cmd i).entry) (entSlba (s.m.cmd i).entry + off) (d
    off))) ∧
    (∃ (s : State) (i : Fin 4096) (q : Fin 256) (c : Instr), ((c = .read i [] ∧ s.m.fresh i opRead = true ∧ (s.m.cmd
    i).needsList = false) ∨ (c = .verify i [] ∧ s.m.fresh i opVerify = true)) ∧ (s.m.Plain i q) ∧
    (entCount (s.m.cmd i).entry = 1) ∧ (s.m.current (entVol (s.m.cmd i).entry) (entSlba (s.m.cmd i).entry) = .poison)) ∧
    (∃ (s : State) (i : Fin 4096) (a : BitVec 40) (c : Instr), ((c = .read i [] ∧ s.m.fresh i opRead = true ∧ (s.m.cmd
    i).needsList = false) ∨ (c = .verify i [] ∧ s.m.fresh i opVerify = true)) ∧ (entCount (s.m.cmd i).entry = 1) ∧
    (s.m.lampOf (entVol (s.m.cmd i).entry) (entSlba (s.m.cmd i).entry) = none) ∧
    (s.m.current (entVol (s.m.cmd i).entry) (entSlba (s.m.cmd i).entry) = .flash a) ∧ (s.m.fl.tasks = []) ∧
    (s.m.chanAway (adrChan a) = false) ∧ (s.m.addrLost a = false)) :=
  ⟨⟨S (cmdM (hc opRead 8 1 .admitted)), 3, 9, .p0, fun _ => 0, by decide +kernel, by decide +kernel,
    by constructor <;> first | decide +kernel | exact loose_of (by decide +kernel) (by decide +kernel), by decide +kernel, fun off h => by
        have h2 : off < 2 := Nat.lt_of_lt_of_eq h (by decide +kernel)
        interval_cases off <;> exact Or.inr (Or.inr ⟨by decide +kernel, rfl⟩)⟩
,
   ⟨S (cmdM (hc opVerify 8 1 .admitted)), 3, 9, fun _ => 0, by decide +kernel,
    by constructor <;> first | decide +kernel | exact loose_of (by decide +kernel) (by decide +kernel), fun off h => by
        have h2 : off < 2 := Nat.lt_of_lt_of_eq h (by decide +kernel)
        interval_cases off <;> exact Or.inr (Or.inr ⟨by decide +kernel, rfl⟩)⟩
,
   ⟨S (mapd poisoned (cmdM (hc opRead 8 0 .admitted))), 3, 9, .read 3 [], by decide +kernel,
    by constructor <;> first | decide +kernel | exact loose_of (by decide +kernel) (by decide +kernel), by decide +kernel⟩,
   ⟨S (mapd 0x1234 (cmdM (hc opRead 8 0 .admitted))), 3, 0x1234, .read 3 [], by decide +kernel⟩⟩

/-- States and operands that meet the hypotheses of HostFlushAndDeallocate, clause by clause. -/
theorem test_witness_HostFlushAndDeallocate :
    (∃ (s : State) (i : Fin 4096) (q : Fin 256), (s.m.fresh i opFlush = true) ∧ (s.m.Plain i q) ∧ (s.m.Alone i) ∧
    ((s.m.cmd i).todo = []) ∧ ((s.m.volu (entVol (s.m.cmd i).entry)).mirrored = false)) ∧
    (∃ (s : State) (i : Fin 4096) (r : Nat), (s.m.fresh i opFlush = true) ∧ (s.m.Alone i) ∧ ((s.m.cmd i).fails = []) ∧
    ((s.m.cmd i).cover = [.record r]) ∧ ((s.m.volu (entVol (s.m.cmd i).entry)).mirrored = false)) ∧
    (∃ (s : State) (i : Fin 4096) (q : Fin 256), (s.m.fresh i opFlush = true) ∧ (s.m.Alone i) ∧ ((s.m.cmd i).kind = .host)
    ∧ ((s.m.cmd i).qid = some q) ∧ (s.m.Loose i) ∧ ((s.m.cmd i).fails = [(0, St.writeFault)]) ∧ ((s.m.cmd i).todo = []) ∧
    ((s.m.volu (entVol (s.m.cmd i).entry)).mirrored = false)) ∧
    (∃ (s : State) (i : Fin 4096) (q : Fin 256) (mu j : Nat), (s.m.fresh i opDealloc = true) ∧ (s.m.Plain i q) ∧
    (s.m.Alone i) ∧ (entSlba (s.m.cmd i).entry = 4 * mu) ∧ (entCount (s.m.cmd i).entry = 4) ∧
    ((s.m.volu (entVol (s.m.cmd i).entry)).mirrored = false) ∧
    (∀ o, o < 4 → s.m.lampOf (entVol (s.m.cmd i).entry) (4 * mu + o) = none) ∧
    (entryIndex (s.m.volu (entVol (s.m.cmd i).entry)) (4 * mu) = some j) ∧ (s.m.vol.recov = none) ∧
    (∀ x ∈ s.m.buf.vers, ¬ (x.vol = entVol (s.m.cmd i).entry ∧ x.mu = mu))) ∧
    (∃ (s : State) (i : Fin 4096) (q : Fin 256), (s.m.fresh i opDealloc = true) ∧ (s.m.Plain i q) ∧ (s.m.Alone i) ∧
    (entCount (s.m.cmd i).entry = 1) ∧ ((s.m.volu (entVol (s.m.cmd i).entry)).mirrored = false) ∧
    (s.m.lampOf (entVol (s.m.cmd i).entry) (entSlba (s.m.cmd i).entry) = none) ∧
    (s.m.openVer (entVol (s.m.cmd i).entry) (entSlba (s.m.cmd i).entry / 4) = none) ∧ (s.m.bufRoom = true)) :=
  ⟨⟨S (cmdM (hc opFlush 0 0 .admitted)), 3, 9, by decide +kernel,
    by constructor <;> first | decide +kernel | exact loose_of (by decide +kernel) (by decide +kernel),
    alone_of (by decide +kernel) (by decide +kernel) (by decide +kernel) rfl, by decide +kernel⟩,
   ⟨S (cmdM { hc opFlush 0 0 .admitted with cover := [.record 5] } { upV with hdl := { nextRec := 6, want := [(5, .dealloc 1 0 1 0)] } }),
    3, 5, by decide +kernel, alone_of (by decide +kernel) (by decide +kernel) (by decide +kernel) rfl, by decide +kernel⟩,
   ⟨S (cmdM { hc opFlush 0 0 .admitted with fails := [(0, St.writeFault)] }), 3, 9, by decide +kernel,
    alone_of (by decide +kernel) (by decide +kernel) (by decide +kernel) rfl, by decide +kernel, by decide +kernel,
    loose_of (by decide +kernel) (by decide +kernel), by decide +kernel⟩,
   ⟨S (mapd 0x1234 (cmdM (hc opDealloc 8 3 .admitted))), 3, 9, 2, 2, by decide +kernel,
    by constructor <;> first | decide +kernel | exact loose_of (by decide +kernel) (by decide +kernel),
    alone_of (by decide +kernel) (by decide +kernel) (by decide +kernel) rfl, by decide +kernel⟩,
   ⟨S (mapd 0x1234 (cmdM (hc opDealloc 9 0 .admitted))), 3, 9, by decide +kernel,
    by constructor <;> first | decide +kernel | exact loose_of (by decide +kernel) (by decide +kernel),
    alone_of (by decide +kernel) (by decide +kernel) (by decide +kernel) rfl, by decide +kernel⟩⟩

end HostCommands

/-! ### Block commands; Administration -/

namespace LampAndAdmin

/-! Lamp commands, fills, firmware images, service keys, volume parameters. -/

def lc (o : Nat) (d : Desc) (slba : Nat := 3) (m : Mach → Mach := id) : MState := S (cmdM (hc o slba 0 .admitted) (m (lampM d)))
def fl1 : Fill := { task := 6, slot := 3, off := 0, data := 0xABCD }
def img : Image := { sv := 5, fwrev := 7 }
def svM : MState := S { up with adm := { up.adm with svFloor := 3, fw := { p0 := { valid := true, img := img }, p1 := {} } } }
def su (x : PortSt → PortSt) (a : Admin → Admin := id) : MState := S { up with port := up.port.set .p1 (x upPort), adm := a { up.adm with serviceKey := some 5 } }
def va : VolArgs := { vol := 2, layout1 := true, enc := false, keySlot := 0, size := 262144 }
def capV : Mach := { upV with vol := { upV.vol with usercap := 2 ^ 22, entries := 2 ^ 20 } }

/-- States and operands that meet the hypotheses of LightCommand, clause by clause. -/
theorem test_witness_LightCommand :
    (∃ (s : State) (i : Fin 4096) (k p f : Nat), (s.m.fresh i opLight = true) ∧ ((s.m.cmd i).kind = .host) ∧
    (s.m.cmdInRegion i = true) ∧ (entCount (s.m.cmd i).entry = 1) ∧ (s.m.cmdPage i 0 = some (k, p)) ∧
    ((s.m.desc k).frame = some f) ∧ ((s.m.desc k).state p = .dark) ∧
    (s.m.storedSrc (entVol (s.m.cmd i).entry) (entSlba (s.m.cmd i).entry) = .zero)) ∧
    (∃ (s : State) (x : Fill) (q : Fin 256) (k p f : Nat), (s.m.fl.fills.find? (fun y => y.task == x.task) = some x) ∧
    (s.m.cmdPage x.slot x.off = some (k, p)) ∧ ((s.m.desc k).frame = some f) ∧ ((s.m.desc k).state p = .lighting) ∧
    (s.m.Plain x.slot q) ∧ ((s.m.cmd x.slot).todo = [x.off])) ∧
    (∃ (s : State) (task : Nat), (s.m.fl.fills.find? (fun y => y.task == task) = none)) ∧
    (∃ (s : State) (i : Fin 4096) (q : Fin 256) (k p : Nat), (s.m.fresh i opLight = true) ∧ (s.m.Plain i q) ∧
    (s.m.cmdInRegion i = true) ∧ (entCount (s.m.cmd i).entry = 1) ∧ (s.m.cmdPage i 0 = some (k, p)) ∧
    ((s.m.desc k).frame ≠ none) ∧ (((s.m.desc k).state p).isLit = true)) ∧
    (∃ (s : State) (i : Fin 4096) (q : Fin 256) (k p : Nat), (s.m.fresh i opLight = true) ∧ (s.m.Plain i q) ∧
    (s.m.cmdInRegion i = true) ∧ (entCount (s.m.cmd i).entry = 1) ∧ (s.m.cmdPage i 0 = some (k, p)) ∧
    ((s.m.desc k).frame ≠ none) ∧ ((s.m.desc k).state p = .tainted)) ∧
    (∃ (s : State) (i : Fin 4096) (q : Fin 256), (s.m.fresh i opLight = true) ∧ (s.m.Plain i q) ∧
    (s.m.cmdInRegion i = false)) :=
  ⟨⟨lc opLight { frame := some 2, lit := 0x10 }, 3, 0, 3, 2, by decide +kernel⟩,
   ⟨S { cmdM { hc opLight 3 0 .running with todo := [0] } (lampM { frame := some 2, lit := 0x10, pendl := 1 }) with fl := { fills := [fl1] } },
    fl1, 9, 0, 3, 2, by decide +kernel, by decide +kernel, by decide +kernel, by decide +kernel,
    by constructor <;> first | decide +kernel | exact loose_of (by decide +kernel) (by decide +kernel), by decide +kernel⟩,
   ⟨U, 3, by decide +kernel⟩,
   ⟨lc opLight dLit, 3, 9, 0, 3, by decide +kernel,
    by constructor <;> first | decide +kernel | exact loose_of (by decide +kernel) (by decide +kernel), by decide +kernel⟩,
   ⟨lc opLight { frame := some 2, lit := 0x10, dirty := 8 }, 3, 9, 0, 3, by decide +kernel,
    by constructor <;> first | decide +kernel | exact loose_of (by decide +kernel) (by decide +kernel), by decide +kernel⟩,
   ⟨lc opLight dLit (2 ^ 19), 3, 9, by decide +kernel,
    by constructor <;> first | decide +kernel | exact loose_of (by decide +kernel) (by decide +kernel), by decide +kernel⟩⟩

/-- States and operands that meet the hypotheses of DousePersist, clause by clause. -/
theorem test_witness_DousePersist :
    (∃ (s : State) (i : Fin 4096) (q : Fin 256) (k p : Nat) (c : Instr) (o : Nat),
    ((c = .douse i [] ∧ o = opDouse) ∨ (c = .persist i [] ∧ o = opPersist)) ∧ (s.m.fresh i o = true) ∧ (s.m.Plain i q) ∧
    (s.m.Alone i) ∧ (s.m.cmdInRegion i = true) ∧ (entCount (s.m.cmd i).entry = 1) ∧ (s.m.cmdPage i 0 = some (k, p)) ∧
    ((s.m.desc k).state p = .lit) ∧ ((s.m.cmd i).stalled = false)) ∧
    (∃ (s : State) (i : Fin 4096) (q : Fin 256) (k p f : Nat) (c : Instr) (o : Nat),
    ((c = .douse i [] ∧ o = opDouse) ∨ (c = .persist i [] ∧ o = opPersist)) ∧ (s.m.fresh i o = true) ∧ (s.m.Plain i q) ∧
    (s.m.Alone i) ∧ (s.m.cmdInRegion i = true) ∧ (entCount (s.m.cmd i).entry = 1) ∧ (s.m.cmdPage i 0 = some (k, p)) ∧
    ((s.m.desc k).state p = .litDirty) ∧ ((s.m.desc k).frame = some f) ∧ (s.m.pageLost f p = false) ∧
    ((s.m.cmd i).stalled = false) ∧ ((s.m.volu (entVol (s.m.cmd i).entry)).mirrored = false) ∧
    ((s.m.volu (entVol (s.m.cmd i).entry)).st ≠ .readOnly) ∧ (s.m.wbSpent i = false) ∧
    (s.m.openVer (entVol (s.m.cmd i).entry) (entSlba (s.m.cmd i).entry / 4) = none) ∧ (s.m.bufRoom = true) ∧
    (s.m.pacedCopy = false) ∧ (∀ x ∈ s.m.buf.vers, x.id < s.m.buf.nextId)) ∧
    (∃ (s : State) (i : Fin 4096) (q : Fin 256) (k p : Nat) (c : Instr) (o : Nat),
    ((c = .douse i [] ∧ o = opDouse) ∨ (c = .persist i [] ∧ o = opPersist)) ∧ (s.m.fresh i o = true) ∧ (s.m.Plain i q) ∧
    (s.m.Alone i) ∧ (s.m.cmdInRegion i = true) ∧ (entCount (s.m.cmd i).entry = 1) ∧ (s.m.cmdPage i 0 = some (k, p)) ∧
    ((s.m.desc k).state p = .litDirty) ∧ ((s.m.volu (entVol (s.m.cmd i).entry)).st = .readOnly) ∧
    ((s.m.cmd i).stalled = false)) ∧
    (∃ (s : State) (i : Fin 4096) (q : Fin 256) (c : Instr) (o : Nat),
    ((c = .douse i [] ∧ o = opDouse) ∨ (c = .persist i [] ∧ o = opPersist)) ∧ (s.m.fresh i o = true) ∧ (s.m.Plain i q) ∧
    (s.m.cmdInRegion i = false)) :=
  ⟨⟨lc opDouse dLit, 3, 9, 0, 3, .douse 3 [], opDouse, by decide +kernel, by decide +kernel,
    by constructor <;> first | decide +kernel | exact loose_of (by decide +kernel) (by decide +kernel),
    alone_of (by decide +kernel) (by decide +kernel) (by decide +kernel) rfl, by decide +kernel⟩,
   ⟨lc opDouse { dLit with dirty := 8 }, 3, 9, 0, 3, 2, .douse 3 [], opDouse, by decide +kernel, by decide +kernel,
    by constructor <;> first | decide +kernel | exact loose_of (by decide +kernel) (by decide +kernel),
    alone_of (by decide +kernel) (by decide +kernel) (by decide +kernel) rfl, by decide +kernel⟩,
   ⟨lc opPersist { dLit with dirty := 8 } 3 (fun m => { m with vol := { v := [(1, { v1 with st := .readOnly })] } }), 3,
    9, 0, 3, .persist 3 [], opPersist, by decide +kernel, by decide +kernel,
    by constructor <;> first | decide +kernel | exact loose_of (by decide +kernel) (by decide +kernel),
    alone_of (by decide +kernel) (by decide +kernel) (by decide +kernel) rfl, by decide +kernel⟩,
   ⟨lc opPersist { dLit with dirty := 8 } (2 ^ 19), 3, 9, .persist 3 [], opPersist, by decide +kernel, by decide +kernel,
    by constructor <;> first | decide +kernel | exact loose_of (by decide +kernel) (by decide +kernel), by decide +kernel⟩⟩

/-- States and operands that meet the hypotheses of AdminReads, clause by clause. -/
theorem test_witness_AdminReads :
    (∃ (s : State) (p : Port), (s.m.mailboxUp p = true)) ∧
    (∃ (s : State) (p : Port) (len : Nat), (s.m.mailboxUp p = true) ∧ (len ≠ 0)) ∧
    (∃ (s : State) (p : Port) (id sel off len : Nat) (b : List Byte), (s.m.mailboxUp p = true) ∧
    (s.m.extLog id sel = some b) ∧ (0 < len) ∧ (len ≤ 16384) ∧ (off < b.length)) ∧
    (∃ (s : State) (p : Port) (id sel off len : Nat), (s.m.mailboxUp p = true) ∧ (len = 0 ∨ 16384 < len ∨ s.m.extLog id
    sel = none ∨ (∃ b, s.m.extLog id sel = some b ∧ b.length ≤ off))) ∧
    (∃ (s : State) (p : Port) (fid sel a b : Nat), (s.m.mailboxUp p = true) ∧ (s.m.feature fid sel = some (a, b))) ∧
    (∃ (s : State) (p : Port) (fid sel : Nat), (s.m.mailboxUp p = true) ∧ (s.m.feature fid sel = none)) :=
  ⟨⟨U, .p1, by decide +kernel⟩,
   ⟨U, .p1, 1, by decide +kernel⟩,
   ⟨U, .p1, 1, 0, 0, 16384, (up.extLog 1 0).getD [], by decide +kernel⟩,
   ⟨U, .p1, 3, 0, 0, 16384, by decide +kernel⟩,
   ⟨U, .p1, 8, 0, 1, 1, by decide +kernel⟩,
   ⟨U, .p1, 0, 0, by decide +kernel⟩⟩

/-- States and operands that meet the hypotheses of SetFeature, clause by clause. -/
theorem test_witness_SetFeature :
    (∃ (s : State) (p : Port) (fid sel v : Nat), (s.m.Serves p) ∧ (s.m.featureOk fid v = true) ∧ (¬ (fid = 6 ∧ v = 0))) ∧
    (∃ (s : State) (p : Port) (fid sel v : Nat), (s.m.Serves p) ∧ (s.m.featureOk fid v = false) ∧
    (fid ∉ [3, 9, 0xA, 0x20])) ∧
    (∃ (s : State) (p : Port) (v : Nat) (sel : Nat) (c : Instr), (c = .setHoldupUs p 12 v ∨ c = .setFeature p 12 3 sel v)
    ∧ (s.m.Serves p) ∧ (s.m.holdupOk v = true)) ∧
    (∃ (s : State) (p : Port) (v : Nat) (sel : Nat) (c : Instr), (c = .setHoldupUs p 12 v ∨ c = .setFeature p 12 3 sel v)
    ∧ (s.m.Serves p) ∧ (s.m.holdupOk v = false)) ∧
    (∃ (s : State) (p : Port) (sel : Nat), (s.m.Serves p) ∧ (s.m.q.used = []) ∧ (s.m.twn.rxWait = [])) ∧
    (∃ (s : State) (p : Port) (k : BitVec 776) (sel : Nat) (c : Instr),
    (c = .setServiceKey p 101 k ∨ c = .setFeature p 101 9 sel k.toNat) ∧ (s.m.Serves p) ∧ (s.m.adm.serviceKey = none)) ∧
    (∃ (s : State) (p : Port) (k : BitVec 776) (sel : Nat) (c : Instr),
    (c = .setServiceKey p 101 k ∨ c = .setFeature p 101 9 sel k.toNat) ∧ (s.m.Serves p) ∧ (s.m.adm.serviceKey ≠ none)) ∧
    (∃ (s : State) (p : Port) (v sel : Nat) (c : Instr), (c = .setSvCommit p 12 v ∨ c = .setFeature p 12 0xA sel v) ∧
    (s.m.Serves p) ∧ (1 ≤ v) ∧ (v ≤ 63) ∧ (s.m.adm.svFloor ≤ v) ∧ (s.m.dev.recovery = false) ∧
    (v ≤ (s.m.slot s.m.dev.slot).img.sv)) ∧
    (∃ (s : State) (p : Port) (v sel : Nat) (c : Instr), (c = .setSvCommit p 12 v ∨ c = .setFeature p 12 0xA sel v) ∧
    (s.m.Serves p) ∧ (v = 0 ∨ 63 < v ∨ v < s.m.adm.svFloor ∨ s.m.dev.recovery = true ∨ (s.m.slot s.m.dev.slot).img.sv <
    v)) ∧
    (∃ (s : State) (p : Port) (vol : Vid) (v : Nat) (x : VolSt) (c : Instr),
    (c = .setVolumeRo p 12 vol v ∨ c = .setFeature p 12 0x20 vol.val v) ∧ (s.m.Serves p) ∧ ((v = 1 ∧ (s.m.volu vol).st =
    .ready ∧ x = .readOnly) ∨ (v = 0 ∧ (s.m.volu vol).st = .readOnly ∧ s.m.stuckReadOnly = false ∧ x = .ready))) ∧
    (∃ (s : State) (p : Port) (vol : Vid) (c : Instr), (c = .setVolumeRo p 12 vol 0 ∨ c = .setFeature p 12 0x20 vol.val 0)
    ∧ (s.m.Serves p) ∧ ((s.m.volu vol).st = .readOnly) ∧ (s.m.stuckReadOnly = true)) ∧
    (∃ (s : State) (p : Port) (vol : Vid) (v : Nat) (c : Instr),
    (c = .setVolumeRo p 12 vol v ∨ c = .setFeature p 12 0x20 vol.val v) ∧ (s.m.Serves p) ∧
    (¬ (v = 1 ∧ (s.m.volu vol).st = .ready)) ∧ (¬ (v = 0 ∧ (s.m.volu vol).st = .readOnly))) :=
  ⟨⟨U, .p1, 8, 0, 0, by constructor <;> decide +kernel, by decide +kernel⟩,
   ⟨U, .p1, 7, 0, 10001, by constructor <;> decide +kernel, by decide +kernel⟩,
   ⟨U, .p1, 2500, 0, .setHoldupUs .p1 12 2500, by decide +kernel, by constructor <;> decide +kernel, by decide +kernel⟩,
   ⟨U, .p1, 1999, 0, .setHoldupUs .p1 12 1999, by decide +kernel, by constructor <;> decide +kernel, by decide +kernel⟩,
   ⟨U, .p1, 0, by constructor <;> decide +kernel, by decide +kernel⟩,
   ⟨U, .p1, 99, 0, .setServiceKey .p1 101 99, by decide +kernel, by constructor <;> decide +kernel, by decide +kernel⟩,
   ⟨S { up with adm := { up.adm with serviceKey := some 5 } }, .p1, 99, 0, .setServiceKey .p1 101 99, by decide +kernel,
    by constructor <;> decide +kernel, by decide +kernel⟩,
   ⟨svM, .p1, 5, 0, .setSvCommit .p1 12 5, by decide +kernel, by constructor <;> decide +kernel, by decide +kernel⟩,
   ⟨svM, .p1, 2, 0, .setSvCommit .p1 12 2, by decide +kernel, by constructor <;> decide +kernel, by decide +kernel⟩,
   ⟨S upV, .p1, 1, 1, .readOnly, .setVolumeRo .p1 12 1 1, by decide +kernel, by constructor <;> decide +kernel,
    by decide +kernel⟩,
   ⟨S { upV with buf := { limit := true }, vol := { v := [(1, { v1 with st := .readOnly })] } }, .p1, 1,
    .setVolumeRo .p1 12 1 0, by decide +kernel, by constructor <;> decide +kernel, by decide +kernel⟩,
   ⟨S upV, .p1, 1, 2, .setVolumeRo .p1 12 1 2, by decide +kernel, by constructor <;> decide +kernel, by decide +kernel⟩⟩

/-- States and operands that meet the hypotheses of ServiceUnlock, clause by clause. -/
theorem test_witness_ServiceUnlock :
    (∃ (s : State) (p : Port), (s.m.mailboxUp p = true) ∧ (s.m.adm.serviceKey ≠ none)) ∧
    (∃ (s : State) (p : Port) (sig : BitVec 768) (k : BitVec 776) (c : BitVec 384), (s.m.mailboxUp p = true) ∧
    (s.m.adm.serviceKey = some k) ∧ ((s.m.port.get p).challenge = some c) ∧ (s.m.adm.sigLocked = false) ∧
    (s.m.adm.sigFails < 8)) ∧
    (∃ (s : State) (p : Port) (sig : BitVec 768) (k : BitVec 776) (c : BitVec 384), (s.m.mailboxUp p = true) ∧
    (s.m.adm.serviceKey = some k) ∧ ((s.m.port.get p).challenge = some c) ∧
    (s.m.adm.sigLocked = true ∨ 8 ≤ s.m.adm.sigFails)) ∧
    (∃ (s : State) (p : Port) (sig : BitVec 768), (s.m.mailboxUp p = true) ∧ (s.m.adm.serviceKey ≠ none) ∧
    ((s.m.port.get p).challenge = none)) ∧
    (∃ (s : State), (8 ≤ s.m.adm.sigFails) ∧ (s.m.adm.sigLocked = false)) ∧
    (∃ (s : State), (s.m.adm.sigFails < 8 ∨ s.m.adm.sigLocked = true)) ∧
    (∃ (s : State) (p : Port), (s.m.mailboxUp p = true) ∧ (s.m.adm.serviceKey ≠ none)) ∧
    (∃ (s : State) (p : Port) (sig : BitVec 768) (c : Instr), (c = .serviceUnlockChallenge p 1 ∨ c =
    .serviceUnlockSignature p 97 sig ∨ c = .serviceUnlockRelock p 1) ∧ (s.m.mailboxUp p = true) ∧
    (s.m.adm.serviceKey = none)) :=
  ⟨⟨su id, .p1, by decide +kernel⟩,
   ⟨su (fun x => { x with challenge := some 4 }), .p1, 6, 5, 4, by decide +kernel⟩,
   ⟨su (fun x => { x with challenge := some 4 }) (fun a => { a with sigFails := 8 }), .p1, 6, 5, 4, by decide +kernel⟩,
   ⟨su id, .p1, 6, by decide +kernel⟩,
   ⟨su id (fun a => { a with sigFails := 8 }), by decide +kernel⟩,
   ⟨su id (fun a => { a with sigFails := 7 }), by decide +kernel⟩,
   ⟨su (fun x => { x with unlocked := true }), .p1, by decide +kernel⟩,
   ⟨U, .p1, 6, .serviceUnlockChallenge .p1 1, by decide +kernel⟩⟩

/-- States and operands that meet the hypotheses of VolumeCommands, clause by clause. -/
theorem test_witness_VolumeCommands :
    (∃ (s : State) (p : Port) (x : VolArgs), (s.m.mailboxUp p = true) ∧ (s.m.volGated = false) ∧ (s.m.adm.bg = none) ∧
    (s.m.dev.loaded = true) ∧ (s.m.createRefusal x = none) ∧ (s.m.volBusy x.vol = false)) ∧
    (∃ (s : State) (p : Port) (x : VolArgs), (s.m.mailboxUp p = true) ∧ (s.m.volGated = false) ∧ (s.m.adm.bg = none) ∧
    (s.m.dev.loaded = true) ∧ (s.m.formatRefusal x = none) ∧ ((s.m.volu x.vol).mirrored = false) ∧
    (s.m.volBusy x.vol = false)) ∧
    (∃ (s : State) (p : Port) (u : Vid), (s.m.mailboxUp p = true) ∧ (s.m.volGated = false) ∧ (s.m.adm.bg = none) ∧
    (s.m.deleteRefusal u = none) ∧ ((s.m.volu u).mirrored = false) ∧ (s.m.volBusy u = false)) ∧
    (∃ (s : State) (p : Port) (x : VolArgs) (e : Nat) (c : Instr), ((c = .volumeCreate p 16 x ∧ s.m.createRefusal x = some
    e) ∨ (c = .volumeFormat p 16 x ∧ s.m.formatRefusal x = some e) ∨ (c = .volumeDelete p 1 x.vol ∧ s.m.deleteRefusal
    x.vol = some e)) ∧ (s.m.mailboxUp p = true) ∧ (s.m.dev.loaded = true)) ∧
    (∃ (s : State) (x : VolArgs), (s.m.adm.health.popErr = 0) ∧ ((s.m.volu x.vol).st = .absent) ∧ (0 < x.size) ∧
    (x.size % 262144 ≠ 0)) ∧
    (∃ (s : State) (v : Vid), (s.m.ioUp = true) ∧ ((s.m.volu v).internal = true) ∧ ((s.m.volu v).op ≠ none) ∧
    ((s.m.volu v).worked = false) ∧ (s.m.volBusy v = false)) ∧
    (∃ (s : State) (v : Vid), (s.m.ioUp = false ∨ (s.m.volu v).internal = false)) :=
  ⟨⟨S capV, .p1, va, by decide +kernel⟩,
   ⟨S { capV with vol := { capV.vol with map := [(3, 0x1234), (65536 * 5, 0x99)] }, buf := { wsn := 44 } }, .p1,
    { va with vol := 1, size := 0 }, by decide +kernel⟩,
   ⟨S { capV with vol := { capV.vol with map := [(3, 0x1234), (65536 * 5, 0x99)] } }, .p1, 1, by decide +kernel⟩,
   ⟨S capV, .p1, { va with vol := 1 }, St.invalidField, .volumeCreate .p1 16 { va with vol := 1 }, by decide +kernel⟩,
   ⟨S capV, { va with size := 5 }, by decide +kernel⟩,
   ⟨S { capV with vol := { capV.vol with map := [(3, 0x1234)], v := [(1, { v1 with st := .formatting, internal := true, op := some .format, newLayout1 := true })] } },
    1, by decide +kernel⟩,
   ⟨U, 1, by decide +kernel⟩⟩

end LampAndAdmin

/-! ### Service; Keys -/

namespace ServiceAndKeys

/-! Ports unlocked for service, background operations and key slots. -/

def um (m : Mach := up) : Mach := { m with port := m.port.set .p1 { m.port.p1 with unlocked := true } }
def stp (p : Page) : MState := S (pg p .stopped um)
def busy : MState := S { um with adm := { up.adm with bg := some { port := .p0, op := .svcStop .ecc } } }
def rt (p : Page) (r : Nat) : MState := S { pg p .stopped um with adm := { up.adm with bg := some { port := .p1, op := .svcRetrain p } }, fl := { ch := [(3, { rate := r })] } }
def kM (k : Keys → Keys := id) : MState := S { up with key := k up.key }
def kU (a : Nat := 7) : MState := kM (fun k => { k with slot := [(a, { st := .loaded, epoch := 1 })] })

/-- States and operands that meet the hypotheses of ServiceActions, clause by clause. -/
theorem test_witness_ServiceActions :
    (∃ (s : State) (p : Port) (c : Instr), (ServiceAction p c) ∧ (s.m.Serves p) ∧ (s.m.adm.bg = none) ∧
    ((s.m.port.get p).unlocked = false)) ∧
    (∃ (s : State) (p : Port) (c : Instr), (ServiceAction p c) ∧ (s.m.Serves p) ∧ (s.m.adm.bg ≠ none)) ∧
    (∃ (s : State) (p : Port) (pg : Page) (x : List (Nat × Word)) (c : Instr), (c = .serviceStop p 8 pg ∨ (c =
    .serviceStopChangeStart p (changeLen x) pg x ∧ (x.all fun e => isStaged pg e.1) = true)) ∧ (s.m.Serves p) ∧
    (s.m.adm.bg = none) ∧ ((s.m.port.get p).unlocked = true) ∧ (pg ≠ .port p) ∧ (s.m.pageSt pg = .running) ∧
    (s.m.mayStop pg = true)) ∧
    (∃ (s : State) (p : Port) (pg : Page), (s.m.Serves p) ∧ (s.m.adm.bg = none) ∧ ((s.m.port.get p).unlocked = true) ∧
    (pg ≠ .port p) ∧ (s.m.pageSt pg = .running) ∧ (s.m.mayStop pg = true) ∧ (pg ≠ .lnt) ∧ (pg ≠ .twn) ∧ (pg ≠ .sow) ∧
    (∀ c, pg ≠ .fch c)) ∧
    (∃ (s : State) (p : Port) (pg : Page) (x : List (Nat × Word)), (s.m.Serves p) ∧ (s.m.adm.bg = none) ∧
    ((s.m.port.get p).unlocked = true) ∧ (s.m.pageSt pg = .stopped) ∧ ((x.all fun e => isStaged pg e.1) = true) ∧
    (∀ d, pg ≠ .drc d)) ∧
    (∃ (s : State) (p : Port) (pg : Page) (off : Nat) (v : Word) (r : RegRow), (s.m.Serves p) ∧ (s.m.adm.bg = none) ∧
    ((s.m.port.get p).unlocked = true) ∧ (s.m.pageSt pg = .stopped) ∧ (isStaged pg off = true) ∧
    (rowAt (pg.base + off) = some r) ∧ (∀ d, pg ≠ .drc d)) ∧
    (∃ (s : State) (p : Port) (pg : Page) (x : List (Nat × Word)), (s.m.Serves p) ∧ (s.m.adm.bg = none) ∧
    ((s.m.port.get p).unlocked = true) ∧ (s.m.pageSt pg ≠ .stopped ∨ (∃ e ∈ x, isStaged pg e.1 = false))) ∧
    (∃ (s : State) (p : Port) (pg : Page), (s.m.Serves p) ∧ (s.m.adm.bg = none) ∧ ((s.m.port.get p).unlocked = true) ∧
    (pg ≠ .port p) ∧ (s.m.pageSt pg = .stopped)) ∧
    (∃ (s : State) (p : Port), (s.m.Serves p) ∧ (s.m.adm.bg = none) ∧ ((s.m.port.get p).unlocked = true)) ∧
    (∃ (s : State) (p : Port) (x : List (Nat × Word)) (pg : Page), (s.m.Serves p) ∧ (s.m.adm.bg = none) ∧
    ((s.m.port.get p).unlocked = true) ∧ (∃ e ∈ x, isStaged pg e.1 = false)) ∧
    (∃ (s : State) (p : Port) (c : Chan), (s.m.Serves p) ∧ (s.m.adm.bg = none) ∧ ((s.m.port.get p).unlocked = true) ∧
    (s.m.pageSt (.fch c) = .stopped)) ∧
    (∃ (s : State) (p : Port) (d : Fin 4), (s.m.Serves p) ∧ (s.m.adm.bg = none) ∧ ((s.m.port.get p).unlocked = true) ∧
    (s.m.pageSt (.drc d) = .stopped)) ∧
    (∃ (s : State) (p : Port), (s.m.Serves p) ∧ (s.m.adm.bg = none) ∧ ((s.m.port.get p).unlocked = true) ∧
    (s.m.pageSt (.port p.other) = .stopped)) ∧
    (∃ (s : State) (p : Port) (c : Chan), (s.m.Serves p) ∧ (s.m.adm.bg = none) ∧ ((s.m.port.get p).unlocked = true) ∧
    (s.m.pageSt (.fch c) ≠ .stopped)) ∧
    (∃ (s : State) (p : Port) (d : Fin 4), (s.m.Serves p) ∧ (s.m.adm.bg = none) ∧ ((s.m.port.get p).unlocked = true) ∧
    (s.m.pageSt (.drc d) ≠ .stopped)) ∧
    (∃ (s : State) (p : Port), (s.m.Serves p) ∧ (s.m.adm.bg = none) ∧ ((s.m.port.get p).unlocked = true)) ∧
    (∃ (s : State) (p : Port) (c : Chan), (s.m.adm.bg = some { port := p, op := .svcRetrain (.fch c) }) ∧
    (s.m.fl.trip = false)) ∧
    (∃ (s : State) (p : Port) (c : Chan), (s.m.adm.bg = some { port := p, op := .svcRetrain (.fch c) }) ∧
    (s.m.fl.trip = false) ∧ ((s.m.chn c).rate = 3)) ∧
    (∃ (s : State) (p q : Port) (ok : Bool), (s.m.adm.bg = some { port := p, op := .svcRetrain (.port q) })) ∧
    (∃ (s : State), (s.m.adm.bg = none)) ∧
    (∃ (s : State) (p : Port) (c : Chan), (s.m.Serves p) ∧ (s.m.adm.bg = none) ∧ ((s.m.port.get p).unlocked = true) ∧
    (s.m.pageSt (.fch c) = .stopped)) ∧
    (∃ (s : State) (p : Port) (c : Chan), (s.m.Serves p) ∧ (s.m.adm.bg = none) ∧ ((s.m.port.get p).unlocked = true) ∧
    (s.m.pageSt (.fch c) ≠ .stopped)) ∧
    (∃ (s : State), (s.m.fl.rbActive = true) ∧ (s.m.rebuildLeft = [])) ∧
    (∃ (s : State), (s.m.fl.rbActive = false ∨ s.m.rebuildLeft ≠ [])) ∧
    (∃ (s : State) (p : Port) (o : Int), (s.m.Serves p) ∧ (s.m.adm.bg = none) ∧ ((s.m.port.get p).unlocked = true) ∧
    (s.m.pageSt .thm = .stopped) ∧ (-128 ≤ o) ∧ (o < 128)) ∧
    (∃ (s : State) (p : Port) (o : Int), (s.m.Serves p) ∧ (s.m.adm.bg = none) ∧ ((s.m.port.get p).unlocked = true) ∧
    (s.m.pageSt .thm = .stopped) ∧ (o < -128 ∨ 128 ≤ o)) ∧
    (∃ (s : State) (p : Port) (o : List Int), (s.m.Serves p) ∧ (s.m.adm.bg = none) ∧ ((s.m.port.get p).unlocked = true) ∧
    (s.m.pageSt .thm ≠ .stopped)) :=
  ⟨⟨U, .p1, .serviceStop .p1 8 .ecc, by constructor, by constructor <;> decide +kernel, by decide +kernel⟩,
   ⟨busy, .p1, .serviceStart .p1 8 .ecc, by constructor, by constructor <;> decide +kernel, by decide +kernel⟩,
   ⟨S um, .p1, .fch 3, [(0x40, 5)], .serviceStop .p1 8 (.fch 3), by decide +kernel, by constructor <;> decide +kernel,
    by decide +kernel⟩,
   ⟨S um, .p1, .ecc, by constructor <;> decide +kernel, by decide +kernel⟩,
   ⟨stp .thm, .p1, .thm, [(Reg.THM_RISELO % 0x1000, 5)], by constructor <;> decide +kernel, by decide +kernel⟩,
   ⟨stp .thm, .p1, .thm, Reg.THM_RISELO % 0x1000, 5,
    (rowAt Reg.THM_RISELO).getD { key := 0, acc := .ro, mgmt := true, mask := 0, reset := 0 },
    by constructor <;> decide +kernel, by decide +kernel⟩,
   ⟨stp .thm, .p1, .thm, [(0x10, 5)], by constructor <;> decide +kernel, by decide +kernel⟩,
   ⟨stp .ecc, .p1, .ecc, by constructor <;> decide +kernel, by decide +kernel⟩,
   ⟨S um, .p1, by constructor <;> decide +kernel, by decide +kernel⟩,
   ⟨S um, .p1, [(0x10, 5)], .ecc, by constructor <;> decide +kernel, by decide +kernel⟩,
   ⟨stp (.fch 3), .p1, 3, by constructor <;> decide +kernel, by decide +kernel⟩,
   ⟨stp (.drc 3), .p1, 3, by constructor <;> decide +kernel, by decide +kernel⟩,
   ⟨stp (.port .p0), .p1, by constructor <;> decide +kernel, by decide +kernel⟩,
   ⟨S um, .p1, 3, by constructor <;> decide +kernel, by decide +kernel⟩,
   ⟨S um, .p1, 3, by constructor <;> decide +kernel, by decide +kernel⟩,
   ⟨S um, .p1, by constructor <;> decide +kernel, by decide +kernel⟩,
   ⟨rt (.fch 3) 3, .p1, 3, by decide +kernel⟩,
   ⟨rt (.fch 3) 3, .p1, 3, by decide +kernel⟩,
   ⟨rt (.port .p0) 3, .p1, .p0, true, by decide +kernel⟩,
   ⟨U, by decide +kernel⟩,
   ⟨stp (.fch 3), .p1, 3, by constructor <;> decide +kernel, by decide +kernel⟩,
   ⟨S um, .p1, 3, by constructor <;> decide +kernel, by decide +kernel⟩,
   ⟨dv id { up with fl := { rbActive := true } }, by decide +kernel⟩,
   ⟨U, by decide +kernel⟩,
   ⟨stp .thm, .p1, -128, by constructor <;> decide +kernel, by decide +kernel⟩,
   ⟨stp .thm, .p1, 128, by constructor <;> decide +kernel, by decide +kernel⟩,
   ⟨S um, .p1, [1, 2], by constructor <;> decide +kernel, by decide +kernel⟩⟩

/-- States and operands that meet the hypotheses of KeyCommands, clause by clause. -/
theorem test_witness_KeyCommands :
    (∃ (s : State) (p : Port), (s.m.Serves p) ∧ (s.m.running .key = true)) ∧
    (∃ (s : State) (p : Port) (k n : Nat) (pt : BitVec 776) (w : BitVec 320), (s.m.Serves p) ∧ (s.m.running .key = true) ∧
    (k < 1024) ∧ ((s.m.kslot k).st = .empty) ∧ ((s.m.kslot k).importing = false) ∧ (s.m.key.xport = some n) ∧
    (s.m.epochsSpent = false)) ∧
    (∃ (s : State) (p : Port) (k : Nat) (pt : BitVec 776) (w : BitVec 320), (s.m.Serves p) ∧ (s.m.running .key = true) ∧
    (k < 1024) ∧ ((s.m.kslot k).st = .empty) ∧ ((s.m.kslot k).importing = false) ∧ (s.m.key.xport = none)) ∧
    (∃ (s : State) (p : Port) (k : Nat) (pt : BitVec 776) (w : BitVec 320), (s.m.Serves p) ∧ (s.m.running .key = true) ∧
    (1024 ≤ k ∨ (s.m.kslot k).st ≠ .empty ∨ (s.m.kslot k).importing = true)) ∧
    (∃ (s : State) (p : Port) (k : Nat), (s.m.Serves p) ∧ (s.m.running .key = true) ∧ (s.m.adm.bg = none) ∧ (k < 1024) ∧
    ((s.m.kslot k).st ≠ .empty) ∧ (s.m.epochsSpent = false)) ∧
    (∃ (s : State) (p : Port) (k : Nat) (c : Instr), (c = .keyRotate p 2 k ∨ c = .keyRetire p 2 k) ∧ (s.m.Serves p) ∧
    (s.m.running .key = true) ∧ (s.m.adm.bg = none) ∧ (1024 ≤ k ∨ (s.m.kslot k).st = .empty)) ∧
    (∃ (s : State) (p : Port) (k : Nat), (s.m.Serves p) ∧ (s.m.running .key = true) ∧ (k < 1024) ∧
    ((s.m.kslot k).st ≠ .empty) ∧ (s.m.boundVols k = [])) ∧
    (∃ (s : State) (p : Port) (k : Nat) (pt : BitVec 776) (w : BitVec 320) (c : Instr),
    (c = .getTransport p 1 ∨ c = .importKey p 141 k pt w ∨ c = .keyRotate p 2 k ∨ c = .keyRetire p 2 k) ∧ (s.m.Serves p) ∧
    (s.m.running .key = false)) :=
  ⟨⟨U, .p1, by constructor <;> decide +kernel, by decide +kernel⟩,
   ⟨kM (fun k => { k with xport := some 4 }), .p1, 7, 4, 5, 6, by constructor <;> decide +kernel, by decide +kernel⟩,
   ⟨U, .p1, 7, 5, 6, by constructor <;> decide +kernel, by decide +kernel⟩,
   ⟨U, .p1, 1024, 5, 6, by constructor <;> decide +kernel, by decide +kernel⟩,
   ⟨kU, .p1, 7, by constructor <;> decide +kernel, by decide +kernel⟩,
   ⟨kU, .p1, 8, .keyRotate .p1 2 8, by decide +kernel, by constructor <;> decide +kernel, by decide +kernel⟩,
   ⟨kU, .p1, 7, by constructor <;> decide +kernel, by decide +kernel⟩,
   ⟨S (pg .key .stopped up), .p1, 7, 5, 6, .keyRetire .p1 2 7, by decide +kernel, by constructor <;> decide +kernel,
    by decide +kernel⟩⟩

end ServiceAndKeys

/-! ### The twin pair -/

namespace TwinReceive

/-! A twin link that receives, with frames not yet acknowledged. -/

def tw (x : Vol := mv1) (f : Twin → Twin := id) : MState := S (twM x f)
def fr (q : Nat) : Frame := { txFrame 0x14 0 1 0 [1] 0 with seq := q }
def una (t : Twin) : Twin := { t with unacked := [fr 18, fr 19, fr 20] }

/-- States and operands that meet the hypotheses of TwinCommands, clause by clause. -/
theorem test_witness_TwinCommands :
    (∃ (s : State) (p : Port) (n : BitVec 160), (s.m.Serves p) ∧
    (s.m.partnerPresent = false ∨ (∀ v, (s.m.volu v).mirrored = false)) ∧
    (n = s.m.twn.expected ∨ s.m.twn.present = false)) ∧
    (∃ (s : State) (p : Port) (v : Vid) (n : BitVec 160), (s.m.Serves p) ∧ (s.m.partnerPresent = true) ∧
    ((s.m.volu v).mirrored = true)) ∧
    (∃ (s : State) (p : Port) (v : Vid) (k : Nat), (s.m.Serves p) ∧ (s.m.twinBusy v = false) ∧ (s.m.TwinFree) ∧
    (s.m.CtrlGoes) ∧ (s.m.twn.paired = true) ∧ ((s.m.volu v).st = .ready) ∧ ((s.m.volu v).mirrored = false)) ∧
    (∃ (s : State) (p : Port) (v : Vid) (k : Nat), (s.m.Serves p) ∧ (s.m.twinBusy v = false) ∧
    ((s.m.volu v).st ≠ .ready ∨ (s.m.volu v).mirrored = true)) ∧
    (∃ (s : State) (p : Port) (v : Vid), (s.m.Serves p) ∧ (s.m.twinBusy v = false) ∧ (s.m.TwinFree) ∧ (s.m.CtrlGoes) ∧
    ((s.m.volu v).mirrored = true) ∧ ((s.m.volu v).owner = true) ∧ (v ∉ s.m.twn.lone)) ∧
    (∃ (s : State) (p : Port) (v : Vid), (s.m.Serves p) ∧ (s.m.twinBusy v = false) ∧ ((s.m.volu v).mirrored = true) ∧
    (v ∈ s.m.twn.lone) ∧ ((s.m.volu v).twin = .stale)) ∧
    (∃ (s : State) (p : Port) (v : Vid) (e : Nat), (s.m.Serves p) ∧ (s.m.twinBusy v = false) ∧
    ((s.m.volu v).mirrored = true) ∧ ((s.m.volu v).owner = true) ∧ ((s.m.volu v).fence < e)) ∧
    (∃ (s : State) (p : Port) (v : Vid) (f : Bool) (e : Nat), (s.m.Serves p) ∧ (s.m.twinBusy v = false) ∧
    ((s.m.volu v).mirrored = true) ∧ ((s.m.volu v).fence < e) ∧
    (f = true ∨ ((s.m.volu v).twin ≠ .resyncing ∧ (s.m.volu v).twin ≠ .stale)) ∧ (s.m.partnerPresent = false)) ∧
    (∃ (s : State) (p : Port) (v : Vid) (f : Bool) (e : Nat), (s.m.Serves p) ∧ (s.m.twinBusy v = false) ∧
    ((s.m.volu v).mirrored = true) ∧ ((s.m.volu v).fence < e) ∧
    (f = true ∨ ((s.m.volu v).twin ≠ .resyncing ∧ (s.m.volu v).twin ≠ .stale)) ∧ (s.m.TwinFree) ∧ (s.m.CtrlGoes)) ∧
    (∃ (s : State) (p : Port) (v : Vid) (f : Bool) (e : Nat) (c : Instr), (s.m.Serves p) ∧ (s.m.twinBusy v = false) ∧ ((c
    = .unmirror p 40 v ∧ (s.m.volu v).mirrored = false) ∨ ((c = .demote p 40 v e ∨ c = .twinTakeover p 16 v f e) ∧
    ((s.m.volu v).mirrored = false ∨ e ≤ (s.m.volu v).fence)))) ∧
    (∃ (s : State) (p : Port) (v : Vid) (e : Nat) (c : Instr), (s.m.Serves p) ∧ (s.m.twinBusy v = false) ∧
    ((s.m.volu v).mirrored = true) ∧ ((s.m.volu v).owner = false) ∧ ((s.m.volu v).twin ≠ .stale) ∧
    (c = .unmirror p 40 v ∨ (c = .demote p 40 v e ∧ (s.m.volu v).fence < e))) ∧
    (∃ (s : State) (p : Port) (v : Vid) (e : Nat), (s.m.Serves p) ∧ (s.m.twinBusy v = false) ∧
    ((s.m.volu v).mirrored = true) ∧ ((s.m.volu v).fence < e) ∧
    ((s.m.volu v).twin = .resyncing ∨ (s.m.volu v).twin = .stale)) ∧
    (∃ (s : State) (p : Port) (v : Vid) (k e : Nat) (f : Bool) (c : Instr), (s.m.Serves p) ∧ (s.m.twinBusy v = true) ∧
    (c = .mirror p 40 v k ∨ c = .unmirror p 40 v ∨ c = .demote p 40 v e ∨ c = .twinTakeover p 16 v f e)) :=
  ⟨⟨tw v1, .p1, 77, by constructor <;> decide +kernel, by decide +kernel⟩,
   ⟨tw, .p1, 1, 5, by constructor <;> decide +kernel, by decide +kernel⟩,
   ⟨tw v1, .p1, 1, 7, by constructor <;> decide +kernel, by decide +kernel, by constructor <;> decide +kernel,
    by constructor <;> decide +kernel, by decide +kernel⟩,
   ⟨tw, .p1, 1, 7, by constructor <;> decide +kernel, by decide +kernel⟩,
   ⟨tw, .p1, 1, by constructor <;> decide +kernel, by decide +kernel, by constructor <;> decide +kernel,
    by constructor <;> decide +kernel, by decide +kernel⟩,
   ⟨tw { mv1 with twin := .stale } (fun t => { t with lone := [1] }), .p1, 1, by constructor <;> decide +kernel,
    by decide +kernel⟩,
   ⟨tw, .p1, 1, 5, by constructor <;> decide +kernel, by decide +kernel⟩,
   ⟨tw mv1 (fun t => { t with present := false }), .p1, 1, false, 5, by constructor <;> decide +kernel, by decide +kernel⟩,
   ⟨tw { mv1 with twin := .stale }, .p1, 1, true, 5, by constructor <;> decide +kernel, by decide +kernel,
    by decide +kernel, by decide +kernel, by decide +kernel, by constructor <;> decide +kernel,
    by constructor <;> decide +kernel⟩,
   ⟨tw v1, .p1, 1, true, 5, .unmirror .p1 40 1, by constructor <;> decide +kernel, by decide +kernel⟩,
   ⟨tw { mv1 with owner := false }, .p1, 1, 5, .unmirror .p1 40 1, by constructor <;> decide +kernel, by decide +kernel⟩,
   ⟨tw { mv1 with twin := .stale }, .p1, 1, 5, by constructor <;> decide +kernel, by decide +kernel⟩,
   ⟨tw mv1 (fun t => { t with wait := [{ port := .p0, op := 1, vol := 1, fence := 0, arg := 0, was := .inSync, alone := true }] }),
    .p1, 1, 5, 5, true, .mirror .p1 40 1 5, by constructor <;> decide +kernel, by decide +kernel⟩⟩

/-- States and operands that meet the hypotheses of TwinLink, clause by clause. -/
theorem test_witness_TwinLink :
    (∃ (s : State) (x4 r16 : Bool), (s.m.running .twn = true) ∧ ((s.m.rd Reg.TWN_CFG).getLsbD 0 = true)) ∧
    (∃ (s : State) (x4 r16 : Bool), (s.m.running .twn = false ∨ (s.m.rd Reg.TWN_CFG).getLsbD 0 = false)) ∧
    (∃ (s : State), (s.m.twn.present = false) ∧ (s.m.Calm)) ∧
    (∃ (s : State), (s.m.twn.present = false) ∧ (s.m.Calm)) ∧
    (∃ (s : State) (c : Instr), (s.m.twn.present = true) ∧ (c = .twinLinkDown ∨ c = .partnerLossTimeout) ∧ (s.m.Calm)) ∧
    (∃ (s : State) (sq : Bool), (s.m.twinLive = true)) ∧
    (∃ (s : State), (s.m.twinLive = true) ∧ (8 ≤ s.m.twn.crcRun) ∧ (s.m.Calm)) ∧
    (∃ (s : State), (s.m.twn.crcRun < 8) ∧ (s.m.Calm)) ∧
    (∃ (s : State) (h : FrameHdr), (s.m.twinLive = true) ∧ (s.m.twn.waiting = [])) ∧
    (∃ (s : State) (h : FrameHdr) (n : Nat) (c : Instr), (s.m.twinLive = false) ∧
    (c = .idle h ∨ c = .nak h n ∨ c = .frameResendTimeout) ∧ (s.m.Calm)) ∧
    (∃ (s : State) (h : FrameHdr) (n : BitVec 160) (a b now : Word), (s.m.twinLive = true) ∧ (s.m.twn.waiting = []) ∧
    (s.m.twn.paired = false ∨ (n = s.m.twn.expected ∧ s.m.twn.present = true)) ∧ (s.m.Calm)) ∧
    (∃ (s : State) (h : FrameHdr) (n : BitVec 160) (a b now : Word), (s.m.twinLive = true) ∧ (s.m.twn.waiting = []) ∧
    (s.m.twn.paired = true) ∧ (n = s.m.twn.expected) ∧ (∀ v, (s.m.volu v).mirrored = false) ∧ (s.m.Calm)) ∧
    (∃ (s : State) (h : FrameHdr) (n : BitVec 160) (a b now : Word), (s.m.twinLive = true) ∧ (s.m.twn.waiting = []) ∧
    (s.m.twn.paired = true) ∧ (n ≠ s.m.twn.expected) ∧ (s.m.twn.present = false) ∧ (s.m.Calm)) ∧
    (∃ (s : State) (h : FrameHdr) (n : Nat), (s.m.twinLive = true) ∧ (s.m.twn.waiting = [])) ∧
    (∃ (s : State) (now : Word), (s.m.twinLive = true)) ∧
    (∃ (s : State) (f : Frame) (r : List Frame), (s.m.twinLive = true) ∧ (s.m.twn.unacked = f :: r) ∧
    (∀ g ∈ r, (g.seq + 65536 - f.seq) % 65536 < 32768) ∧ (s.m.Calm)) :=
  ⟨⟨tw mv1 (fun t => { t with up := false }), false, true, by decide +kernel⟩,
   ⟨S (pg .twn .stopped up), false, true, by decide +kernel⟩,
   ⟨tw mv1 (fun t => { t with present := false }), by decide +kernel, by constructor <;> decide +kernel⟩,
   ⟨U, by decide +kernel, by constructor <;> decide +kernel⟩,
   ⟨tw, .twinLinkDown, by decide +kernel, by decide +kernel, by constructor <;> decide +kernel⟩,
   ⟨tw, true, by decide +kernel⟩,
   ⟨tw mv1 (fun t => { t with crcRun := 8 }), by decide +kernel, by decide +kernel, by constructor <;> decide +kernel⟩,
   ⟨tw mv1 (fun t => { t with crcRun := 7 }), by decide +kernel, by constructor <;> decide +kernel⟩,
   ⟨tw mv1 una, hd9, by decide +kernel⟩,
   ⟨U, hd9, 4, .nak hd9 4, by decide +kernel, by decide +kernel, by constructor <;> decide +kernel⟩,
   ⟨tw mv1 una, hd9, 77, 100, 50, 900, by decide +kernel, by decide +kernel, by decide +kernel,
    by constructor <;> decide +kernel⟩,
   ⟨tw v1 (fun t => una { t with present := false }), hd9, 77, 100, 50, 900, by decide +kernel, by decide +kernel,
    by decide +kernel, by decide +kernel, by decide +kernel, by constructor <;> decide +kernel⟩,
   ⟨tw v1 (fun t => una { t with present := false }), hd9, 78, 100, 50, 900, by decide +kernel, by decide +kernel,
    by decide +kernel, by decide +kernel, by decide +kernel, by constructor <;> decide +kernel⟩,
   ⟨tw mv1 una, hd9, 20, by decide +kernel⟩,
   ⟨tw, 55, by decide +kernel⟩,
   ⟨tw mv1 una, fr 18, [fr 19, fr 20], by decide +kernel, by decide +kernel, by decide +kernel,
    by constructor <;> decide +kernel⟩⟩

end TwinReceive

/-! ### The twin pair -/

namespace TwinOrders

/-! Mirrored volumes, transfers of both directions, and waits of twin operations. -/

def mir : Vol := { mv1 with owner := false }
def tw (x : Vol := mir) (f : Twin → Twin := id) (g : Mach → Mach := id) : MState := S (g (twM x f))
def xx : RxXfer := { xid := 3, vol := 1, slba := 101, ask := false, fua := false, zeros := false, hole := 0, data := [], whole := 1, todo := [1, 2], vers := [] }
def tx (l : List Nat) (v : Vol := mv1) : MState := tw v fun t => { t with tx := [(3, .durable 1 l)] }
def pc : Cmd := { kind := .resync, entry := mkEntry opRead 1 (512 * 3) 511, stage := .admitted }
def nv : MState := tw v1
def wt (o : Nat) : TwinWait := { port := .p1, op := o, vol := 1, fence := 0, arg := 7, was := .inSync }
def tww (o : Nat) (v : Vol := v1) : MState := tw v fun t => { t with wait := [wt o] }

/-- States and operands that meet the hypotheses of TwinTransfers, clause by clause. -/
theorem test_witness_TwinTransfers :
    (∃ (s : State) (h : FrameHdr) (v : Vid) (e slba nlb : Nat) (fua rs : Bool), (s.m.Expects h) ∧
    (s.m.mirrorRefusal v e slba (nlb + 1) true = none) ∧ (s.m.twn.rx = [])) ∧
    (∃ (s : State) (h : FrameHdr) (v : Vid) (e slba nlb : Nat) (fua rs : Bool) (c : Instr),
    (c = .wbegin h v e slba nlb fua rs ∨ c = .twinDealloc h v e slba nlb) ∧ (s.m.Expects h) ∧ (s.m.TwinFree) ∧
    ((s.m.volu v).mirrored = false)) ∧
    (∃ (s : State) (h : FrameHdr) (idx : Nat) (d : BitVec 2048) (x : RxXfer) (o : Nat) (os : List Nat), (s.m.Expects h) ∧
    (s.m.twn.rx = [x]) ∧ (x.xid = h.xid) ∧ (x.ask = false) ∧ (x.zeros = false) ∧ (x.hole = 0) ∧ (x.whole = idx / 16) ∧
    (x.todo = o :: os) ∧ (x.whole ≤ o) ∧ (idx % 16 ≠ 15)) ∧
    (∃ (s : State) (h : FrameHdr) (d : BitVec 2048) (x : RxXfer) (os : List Nat), (s.m.Expects h) ∧ (s.m.twn.rx = [x]) ∧
    (x.xid = h.xid) ∧ (x.ask = false) ∧ (x.zeros = false) ∧ (x.hole = 0) ∧ (x.todo = x.whole :: os) ∧
    (∀ o ∈ os, x.whole < o) ∧ (os ≠ []) ∧ (s.m.openVer x.vol ((x.slba + x.whole) / 4) = none) ∧ (s.m.bufRoom = true) ∧
    (s.m.gln.level = .low)) ∧
    (∃ (s : State) (h : FrameHdr) (v : Vid) (e mu j : Nat), (s.m.Expects h) ∧ (s.m.TwinFree) ∧
    (s.m.mirrorRefusal v e (4 * mu) 4 false = none) ∧ (s.m.twn.rx = []) ∧ (s.m.twn.rxWait = []) ∧
    (∀ i, (s.m.cmd i).covering = false) ∧ (entryIndex (s.m.volu v) (4 * mu) = some j) ∧ (s.m.vol.recov = none) ∧
    (∀ x ∈ s.m.buf.vers, ¬ (x.vol = v ∧ x.mu = mu))) ∧
    (∃ (s : State) (h : FrameHdr) (v : Vid), (s.m.Expects h) ∧ (s.m.TwinFree) ∧ (s.m.twn.rx = []) ∧ (s.m.twn.rxWait = [])
    ∧ (∀ i, (s.m.cmd i).covering = false) ∧ (∀ y ∈ s.m.buf.vers, y.vol ≠ v) ∧ (∀ y ∈ s.m.buf.unprot, y.vol ≠ v) ∧
    (s.m.openDeallocs v = [])) ∧
    (∃ (s : State) (h : FrameHdr) (idx : Nat) (d : BitVec 2048), (s.m.twinLive = true) ∧ (s.m.twn.present = true) ∧
    (s.m.twn.waiting = []) ∧ (h.seq % 65536 ≠ s.m.twn.rxSeq) ∧ ((s.m.twn.rxSeq + 65536 - h.seq % 65536) % 65536 ≤ 32768)) ∧
    (∃ (s : State) (h : FrameHdr) (idx : Nat) (d : BitVec 2048), (s.m.twinLive = true) ∧ (s.m.twn.present = true) ∧
    (s.m.twn.waiting = []) ∧ (h.seq % 65536 ≠ s.m.twn.rxSeq) ∧ (32768 < (s.m.twn.rxSeq + 65536 - h.seq % 65536) % 65536)) :=
  ⟨⟨tw, hd9, 1, 4, 100, 3, true, false, by constructor <;> decide +kernel, by decide +kernel⟩,
   ⟨tw v1, hd9, 1, 4, 100, 3, true, false, .wbegin hd9 1 4 100 3 true false, by decide +kernel,
    by constructor <;> decide +kernel, by constructor <;> decide +kernel, by decide +kernel⟩,
   ⟨tw mir (fun t => { t with rx := [xx] }), hd9, 18, 0xAB, xx, 1, [2], by constructor <;> decide +kernel,
    by decide +kernel⟩,
   ⟨tw mir (fun t => { t with rx := [xx] }) (fun m => { m with gln := { m.gln with level := .low } }), hd9, 0xAB, xx, [2],
    by constructor <;> decide +kernel, by decide +kernel⟩,
   ⟨tw, hd9, 1, 4, 25, 25, by constructor <;> decide +kernel, by constructor <;> decide +kernel, by decide +kernel,
    by decide +kernel, by decide +kernel, uncovered (by decide +kernel), by decide +kernel⟩,
   ⟨tw, hd9, 1, by constructor <;> decide +kernel, by constructor <;> decide +kernel, by decide +kernel,
    by decide +kernel, uncovered (by decide +kernel), by decide +kernel⟩,
   ⟨tw, { hd9 with seq := 8 }, 3, 3, by decide +kernel⟩,
   ⟨tw, { hd9 with seq := 10 }, 3, 3, by decide +kernel⟩⟩

/-- States and operands that meet the hypotheses of TwinOwner, clause by clause. -/
theorem test_witness_TwinOwner :
    (∃ (s : State) (h : FrameHdr) (v : Vid) (rs : List Nat) (e : Nat), (s.m.Expects h) ∧
    (s.m.twn.tx = [(h.xid, .durable v rs)]) ∧ ((s.m.volu v).twin = .inSync) ∧ (e ≤ (s.m.volu v).fence) ∧ (s.m.rs v = {}) ∧
    (s.m.twn.rxWait = []) ∧ (∀ i, (s.m.cmd i).covering = false)) ∧
    (∃ (s : State) (h : FrameHdr) (v : Vid) (rs : List Nat) (st : BitVec 16) (e r : Nat), (s.m.Expects h) ∧
    (s.m.twn.tx = [(h.xid, .durable v rs)]) ∧ (st ≠ 0) ∧ (r ∈ rs) ∧ (e ≤ (s.m.volu v).fence) ∧ (s.m.rs v = {}) ∧
    (s.m.twn.rxWait = []) ∧ (∀ i, (s.m.cmd i).covering = false) ∧ ((s.m.volu v).twin = .inSync) ∧
    ((s.m.volu v).owner = true)) ∧
    (∃ (s : State) (h : FrameHdr) (st : BitVec 16) (e : Nat), (s.m.Expects h) ∧ (∀ x ∈ s.m.twn.tx, x.1 ≠ h.xid)) ∧
    (∃ (s : State) (v : Vid), (s.m.TwinFree) ∧ (s.m.mirroring v = true) ∧ (∀ u, u ≠ v → s.m.mirroring u = false)) ∧
    (∃ (s : State), (∀ u, s.m.mirroring u = false)) ∧
    (∃ (s : State) (v : Vid) (i : Nat) (r : List Nat), (s.m.mirroring v = true) ∧ ((s.m.volu v).twin = .resyncing) ∧
    ((s.m.volu v).serves = true) ∧ ((s.m.volu v).dirty ≠ []) ∧ ((s.m.rs v).walked = []) ∧ (s.m.pieceSlots v = i :: r) ∧
    ((s.m.cmd i).stage = .admitted) ∧ (∀ off, off < 512 → s.m.storedSrc v (entSlba (s.m.cmd i).entry + off) = .zero)) ∧
    (∃ (s : State) (v : Vid), ((s.m.volu v).mirrored = false)) :=
  ⟨⟨tx [2, 3], hd9, 1, [2, 3], 4, by constructor <;> decide +kernel, by decide +kernel, by decide +kernel,
    by decide +kernel, by decide +kernel, by decide +kernel, uncovered (by decide +kernel)⟩,
   ⟨tx [2, 3], hd9, 1, [2, 3], 5, 4, 3, by constructor <;> decide +kernel, by decide +kernel, by decide +kernel,
    by decide +kernel, by decide +kernel, by decide +kernel, by decide +kernel, uncovered (by decide +kernel),
    by decide +kernel⟩,
   ⟨tw mv1, hd9, 5, 4, by constructor <;> decide +kernel, by decide +kernel⟩,
   ⟨tw { mv1 with unconf := [2, 5] }, 1, by constructor <;> decide +kernel, by decide +kernel⟩,
   ⟨U, by decide +kernel⟩,
   ⟨tw { mv1 with twin := .resyncing, dirty := [0] } id (fun m => { m with q := { used := [5], cmd := [(5, pc)] } }), 1,
    5, [], by decide +kernel⟩,
   ⟨U, 1, by decide +kernel⟩⟩

/-- States and operands that meet the hypotheses of TwinControl, clause by clause. -/
theorem test_witness_TwinControl :
    (∃ (s : State) (h : FrameHdr) (v : Vid) (k e n : Nat) (l enc : Bool), (s.m.ExpectsCtrl h) ∧ (s.m.ioUp = true) ∧
    (s.m.dev.phase = .idle) ∧ (s.m.dev.loaded = true) ∧
    (s.m.createRefusal { vol := v, layout1 := l, enc := enc, keySlot := k, size := n } = none) ∧ (s.m.volBusy v = false)) ∧
    (∃ (s : State) (h : FrameHdr) (v : Vid) (l enc : Bool) (k : Nat), (s.m.ExpectsCtrl h) ∧ (s.m.repeatRefusal v = none) ∧
    (s.m.volKeyRefusal { vol := v, layout1 := l, enc := enc, keySlot := k, size := 0 } = none)) ∧
    (∃ (s : State) (h : FrameHdr) (v : Vid), (s.m.ExpectsCtrl h) ∧ (s.m.repeatRefusal v = none)) ∧
    (∃ (s : State) (h : FrameHdr) (v : Vid), (s.m.ExpectsCtrl h) ∧ (s.m.repeatRefusal v = none)) ∧
    (∃ (s : State) (h : FrameHdr) (v : Vid) (l enc : Bool) (k e n st : Nat) (c : Instr), (s.m.ExpectsCtrl h) ∧
    (s.m.TwinFree) ∧ (s.m.CtrlGoes) ∧ ((c = .ctrlCreate h v k e n l enc ∧ (s.m.partnerGated.orElse fun _ =>
    s.m.createRefusal { vol := v, layout1 := l, enc := enc, keySlot := k, size := n }) = some st) ∨ ((c = .ctrlFormat h v
    l enc k ∨ c = .ctrlDelete h v ∨ c = .ctrlUnmirror h v) ∧ s.m.repeatRefusal v = some st))) ∧
    (∃ (s : State) (h : FrameHdr) (w : TwinWait), (s.m.ExpectsCtrl h) ∧ (s.m.twn.wait = [w]) ∧ (w.op = 1) ∧ (s.m.Calm)) ∧
    (∃ (s : State) (h : FrameHdr) (w : TwinWait) (st : BitVec 16), (s.m.ExpectsCtrl h) ∧ (s.m.twn.wait = [w]) ∧
    (w.op = 1 ∨ w.op = 2) ∧ (st ≠ 0) ∧ (s.m.Calm)) ∧
    (∃ (s : State) (h : FrameHdr) (v : Vid) (st : BitVec 16), (s.m.ExpectsCtrl h) ∧ (s.m.twn.wait = []) ∧ (s.m.Calm)) ∧
    (∃ (s : State) (h : FrameHdr) (v : Vid) (e : Nat), (s.m.ExpectsCtrl h) ∧ ((s.m.volu v).mirrored = true) ∧
    ((s.m.volu v).fence < e) ∧ (s.m.regionBound v = false) ∧ (v ∉ s.m.twn.giving)) ∧
    (∃ (s : State) (h : FrameHdr) (v : Vid) (e : Nat), (s.m.ExpectsCtrl h) ∧ (s.m.TwinFree) ∧ (s.m.CtrlGoes) ∧
    ((s.m.volu v).mirrored = false ∨ e ≤ (s.m.volu v).fence ∨ s.m.regionBound v = true)) ∧
    (∃ (s : State) (h : FrameHdr) (v : Vid) (e : Nat), (s.m.ExpectsCtrl h) ∧ ((s.m.volu v).mirrored = true) ∧
    ((s.m.volu v).twin = .handover) ∧ ((s.m.volu v).fence < e) ∧ (v ∉ s.m.twn.giving)) ∧
    (∃ (s : State) (h : FrameHdr) (v : Vid) (e n : Nat) (mi ow mv : Bool) (st : Fin 32), (s.m.ExpectsCtrl h) ∧
    ((s.m.volu v).mirrored = true) ∧ (mi = true) ∧ ((s.m.volu v).fence < e) ∧ ((s.m.volu v).mapValid = false) ∧
    ((s.m.volu v).pendFence = none) ∧ (s.m.q.used = []) ∧ (s.m.regionBound v = false)) ∧
    (∃ (s : State) (h : FrameHdr) (v : Vid) (e n : Nat) (mi ow mv : Bool) (st : Fin 32), (s.m.ExpectsCtrl h) ∧
    ((s.m.volu v).mirrored = true) ∧ ((s.m.volu v).owner = false) ∧ (mi = true) ∧ (e < (s.m.volu v).fence)) ∧
    (∃ (s : State) (h : FrameHdr) (v : Vid) (e n : Nat) (mi ow mv : Bool) (st : Fin 32), (s.m.ExpectsCtrl h) ∧
    ((s.m.volu v).mirrored = false) ∧ (mi = false)) ∧
    (∃ (s : State) (h : FrameHdr) (v : Vid) (a r : Nat) (ds : List Nat), (s.m.ExpectsCtrl h) ∧
    ((s.m.volu v).mirrored = true) ∧ ((s.m.volu v).owner = true) ∧ ((s.m.volu v).twin ≠ .inSync) ∧ (r ∈ ds) ∧
    (a + r < (s.m.volu v).regions.length)) ∧
    (∃ (s : State) (h : FrameHdr) (v : Vid) (a : Nat) (ds : List Nat), (s.m.ExpectsCtrl h) ∧
    ((s.m.volu v).mirrored = false ∨ (s.m.volu v).owner = false)) ∧
    (∃ (s : State) (v : Vid) (w : TwinWait), ((s.m.volu v).twin = .handover) ∧ ((s.m.volu v).pendFence = none) ∧
    (s.m.twn.wait = [w]) ∧ (w.vol = v) ∧ (w.op = 4) ∧ (s.m.Calm)) ∧
    (∃ (s : State) (v : Vid), ((s.m.volu v).twin ≠ .handover) ∧ (s.m.Calm)) :=
  ⟨⟨nv, hd9, 2, 7, 3, 262144, true, false, by constructor <;> first | decide +kernel | (constructor <;> decide +kernel),
    by decide +kernel⟩,
   ⟨tw, hd9, 1, true, false, 7, by constructor <;> first | decide +kernel | (constructor <;> decide +kernel),
    by decide +kernel⟩,
   ⟨tw, hd9, 1, by constructor <;> first | decide +kernel | (constructor <;> decide +kernel), by decide +kernel⟩,
   ⟨tw, hd9, 1, by constructor <;> first | decide +kernel | (constructor <;> decide +kernel), by decide +kernel⟩,
   ⟨nv, hd9, 1, true, false, 7, 3, 5, St.invalidField, .ctrlCreate hd9 1 7 3 5 true false,
    by constructor <;> first | decide +kernel | (constructor <;> decide +kernel), by constructor <;> decide +kernel,
    by constructor <;> decide +kernel, by decide +kernel⟩,
   ⟨tww 1, hd9, wt 1, by constructor <;> first | decide +kernel | (constructor <;> decide +kernel), by decide +kernel,
    by decide +kernel, by constructor <;> decide +kernel⟩,
   ⟨tww 2 mv1, hd9, wt 2, 5, by constructor <;> first | decide +kernel | (constructor <;> decide +kernel),
    by decide +kernel, by decide +kernel, by decide +kernel, by constructor <;> decide +kernel⟩,
   ⟨nv, hd9, 1, 5, by constructor <;> first | decide +kernel | (constructor <;> decide +kernel), by decide +kernel,
    by constructor <;> decide +kernel⟩,
   ⟨tw mv1, hd9, 1, 5, by constructor <;> first | decide +kernel | (constructor <;> decide +kernel), by decide +kernel⟩,
   ⟨tw mv1, hd9, 1, 4, by constructor <;> first | decide +kernel | (constructor <;> decide +kernel),
    by constructor <;> decide +kernel, by constructor <;> decide +kernel, by decide +kernel⟩,
   ⟨tw { mir with twin := .handover }, hd9, 1, 5,
    by constructor <;> first | decide +kernel | (constructor <;> decide +kernel), by decide +kernel⟩,
   ⟨tw mir, hd9, 1, 5, 262144, true, true, false, 3,
    by constructor <;> first | decide +kernel | (constructor <;> decide +kernel), by decide +kernel⟩,
   ⟨tw mir, hd9, 1, 3, 262144, true, true, false, 3,
    by constructor <;> first | decide +kernel | (constructor <;> decide +kernel), by decide +kernel⟩,
   ⟨nv, hd9, 1, 3, 262144, false, true, false, 3,
    by constructor <;> first | decide +kernel | (constructor <;> decide +kernel), by decide +kernel⟩,
   ⟨tw { mv1 with twin := .resyncing }, hd9, 1, 3, 2, [2, 5],
    by constructor <;> first | decide +kernel | (constructor <;> decide +kernel), by decide +kernel⟩,
   ⟨tw mir, hd9, 1, 3, [2], by constructor <;> first | decide +kernel | (constructor <;> decide +kernel),
    by decide +kernel⟩,
   ⟨tww 4 { mir with twin := .handover }, 1, wt 4, by decide +kernel, by decide +kernel, by decide +kernel,
    by decide +kernel, by decide +kernel, by constructor <;> decide +kernel⟩,
   ⟨nv, 1, by decide +kernel, by constructor <;> decide +kernel⟩⟩

end TwinOrders

/-! ### Lamp regions and the Lantern; The command aperture -/

namespace LampAndAperture

/-! Touches, own write-backs, Lantern entries and the aperture sequence. -/

def tch (c : Mach → Mach := id) : MState := S (c { lampM dLit with lamp := { (lampM dLit).lamp with touch := [(0, 7)] } })
def awb (n : Word) (d : Desc := { dLit with dirty := 8 }) : MState := S { lampM d with reg := { up.reg with r := [(Reg.LMP_AUTOWB, n)] } }
def ln (f : Lamp → Lamp) (d : Desc := dLit) : MState := S { lampM d with lamp := f (lampM d).lamp, port := (lampM d).port.set .p0 { (lampM d).port.p0 with inflight := 2 } }
def en (e : LntEnt) (m : LntMode := .enabled) : MState := ln fun l => { l with lnt := [(5, e)], mode := m }
def ap (s : SeqS := {}) (p : SMap Word := []) (d : DieSt := die0) (f : Flash → Flash := id) (g : Mach → Mach := id) : MState :=
  S (g (flM d [] (fun x => f { x with seq := x.seq.set .mgmt s, par := x.par.set .mgmt p })))
def u2 : SeqS := { st := .u2, die := 69 }
def rp : SMap Word := [(0x2000, 0x7001), (0x2004, 1), (0x200C, 3), (0x2018, 0), (0x201C, 4096)]
def stopCh (m : Mach) : Mach := pg (.fch 1) .stopped m
def pc4 (m : Mach) : Mach := { m with reg := { m.reg with r := m.reg.r ++ [(pffReg 4 Reg.PF_CONS, 2)] } }

/-- States and operands that meet the hypotheses of LampRegionsAndOwnCommands, clause by clause. -/
theorem test_witness_LampRegionsAndOwnCommands :
    (∃ (s : State) (p : Port) (k : Fin 4) (lot : Bool) (v : Vid) (base size : Nat), (s.m.Serves p) ∧
    (s.m.defineRefusal k v base size = none)) ∧
    (∃ (s : State) (p : Port) (k : Fin 4) (lot : Bool) (v : Vid) (base size : Nat), (s.m.Serves p) ∧
    ((s.m.regionNow k).defined = true ∨ base % 512 ≠ 0 ∨ size = 0 ∨ size % 2 ^ 21 ≠ 0 ∨ 2 ^ 46 < size)) ∧
    (∃ (s : State) (p : Port) (k : Fin 4) (lot : Bool) (v : Vid) (base size : Nat), (s.m.Serves p) ∧
    ((s.m.regionNow k).defined = false) ∧ (base % 512 = 0) ∧ (size ≠ 0) ∧ (size % 2 ^ 21 = 0) ∧ (size ≤ 2 ^ 46) ∧
    ((s.m.volu v).st ≠ .ready ∨ (s.m.volu v).size < base + size / 4096)) ∧
    (∃ (s : State) (p : Port) (k : Fin 4), (s.m.Serves p) ∧ ((s.m.regionNow k).defined = true) ∧
    (s.m.regionBusy k = false)) ∧
    (∃ (s : State) (p : Port) (k : Fin 4), (s.m.Serves p) ∧ ((s.m.regionNow k).defined = false ∨ s.m.regionBusy k = true)) ∧
    (∃ (s : State) (p : Port) (k : Fin 4) (lot : Bool), (s.m.Serves p) ∧ ((s.m.region k).defined = true)) ∧
    (∃ (s : State) (p : Port) (k : Fin 4) (lot : Bool), (s.m.Serves p) ∧ ((s.m.region k).defined = false)) ∧
    (∃ (s : State) (t0 : Nat × Nat) (ts : List (Nat × Nat)) (c : Cmd), (s.m.lamp.touch = t0 :: ts) ∧ (s.m.ownEntry = true)
    ∧ (c =
    { kind := .touch, entry := mkEntry opLight (s.m.region (t0.1 / 2 ^ 26)).vol ((s.m.region (t0.1 / 2 ^ 26)).base + 512 * (t0.1 % 2 ^ 26) + t0.2) 0, todo := [0] })
    ∧ (∀ j ∈ s.m.locks, conflicts (s.m.cmd j) c = false)) ∧
    (∃ (s : State), (s.m.lamp.touch = [] ∨ s.m.ownEntry = false)) ∧
    (∃ (s : State) (f key mu : Nat) (c : Cmd), (s.m.rdN Reg.LMP_AUTOWB ≠ 0) ∧ (s.m.rdN Reg.LMP_AUTOWB ≤ s.m.dirtyLit) ∧
    (s.m.running .lmp = true) ∧ (s.m.ownEntry = true) ∧ (s.m.scanNext = some (f, key, mu)) ∧ (c =
    { kind := .autowb, entry := mkEntry opPersist (s.m.region (key / 2 ^ 26)).vol ((s.m.region (key / 2 ^ 26)).base + 512 * (key % 2 ^ 26) + 4 * mu) 3 })
    ∧ (∀ j ∈ s.m.locks, conflicts (s.m.cmd j) c = false)) ∧
    (∃ (s : State), (s.m.rdN Reg.LMP_AUTOWB = 0 ∨ s.m.dirtyLit < s.m.rdN Reg.LMP_AUTOWB)) :=
  ⟨⟨S upV, .p1, 2, true, 1, 512, 2 ^ 21, by constructor <;> decide +kernel, by decide +kernel⟩,
   ⟨S upV, .p1, 2, true, 1, 5, 2 ^ 21, by constructor <;> decide +kernel, by decide +kernel⟩,
   ⟨S upV, .p1, 2, true, 2, 512, 2 ^ 21, by constructor <;> decide +kernel, by decide +kernel⟩,
   ⟨S (lampM {}), .p1, 0, by constructor <;> decide +kernel, by decide +kernel⟩,
   ⟨S (lampM dLit), .p1, 0, by constructor <;> decide +kernel, by decide +kernel⟩,
   ⟨S (lampM dLit), .p1, 0, true, by constructor <;> decide +kernel, by decide +kernel⟩,
   ⟨U, .p1, 0, true, by constructor <;> decide +kernel, by decide +kernel⟩,
   ⟨tch, (0, 7), [], { kind := .touch, entry := mkEntry opLight 1 7 0, todo := [0] }, by decide +kernel⟩,
   ⟨U, by decide +kernel⟩,
   ⟨awb 1, 2, 0, 0, { kind := .autowb, entry := mkEntry opPersist 1 0 3 }, by decide +kernel⟩,
   ⟨awb 0, by decide +kernel⟩⟩

/-- States and operands that meet the hypotheses of Lantern, clause by clause. -/
theorem test_witness_Lantern :
    (∃ (s : State) (p : Port) (dpa f key : Nat) (e : MemErr) (a : LampAddr),
    (s.m.lamp.fetches = [{ tag := key, reqs := [.rd p dpa .clean] }]) ∧ (s.m.lamp.late = []) ∧ (s.m.lamp.capHeld = []) ∧
    (e ≠ .descLost) ∧ (s.m.lampOpen = true) ∧ (s.m.lampAddr dpa = some a) ∧ (key = descKey a.region a.block) ∧
    (((s.m.desc key).state a.page).isLit = true) ∧ ((s.m.desc key).frame = some f) ∧
    (lineKey f a.page a.line ∉ s.m.lamp.lost)) ∧
    (∃ (s : State) (e : MemErr), (s.m.lamp.fetches = [])) ∧
    (∃ (s : State) (i : Fin 64), ((s.m.lnt i).st = .evicting) ∧ ((s.m.lnt i).redirty = false)) ∧
    (∃ (s : State) (i : Fin 64), ((s.m.lnt i).st = .evicting) ∧ ((s.m.lnt i).redirty = true)) ∧
    (∃ (s : State) (i : Fin 64), ((s.m.lnt i).st = .dirty) ∧ (s.m.lamp.mode = .flushing)) ∧
    (∃ (s : State) (i : Fin 64), ((s.m.lnt i).st = .invalid ∨ (s.m.lnt i).st = .clean ∨ ((s.m.lnt i).st = .dirty ∧
    s.m.lamp.mode ≠ .flushing))) ∧
    (∃ (s : State) (i : Fin 64), (4 ≤ (s.m.lnt i).err) ∧ ((s.m.lnt i).off = false)) ∧
    (∃ (s : State) (i : Fin 64), ((s.m.lnt i).err < 4 ∨ (s.m.lnt i).off = true)) ∧
    (∃ (s : State) (en : Bool), (s.m.pageSt .lnt ≠ .off) ∧ (s.m.pageSt .lnt ≠ .running)) ∧
    (∃ (s : State), (s.m.pageSt .lnt = .running) ∧ (s.m.lamp.mode = .enabled)) ∧
    (∃ (s : State), (s.m.pageSt .lnt = .running) ∧ (s.m.lamp.mode = .flushing)) ∧
    (∃ (s : State), (s.m.pageSt .lnt = .running) ∧ (s.m.lamp.mode = .disabled)) ∧
    (∃ (s : State), (s.m.lamp.mode = .flushing)) ∧
    (∃ (s : State), (s.m.lamp.mode ≠ .flushing)) :=
  ⟨⟨ln (fun l => { l with fetches := [{ tag := 0, reqs := [.rd .p0 12352 .clean] }] }), .p0, 12352, 2, 0, .clean, la,
    by decide +kernel⟩,
   ⟨U, .clean, by decide +kernel⟩,
   ⟨en { st := .evicting, tag := 4 }, 5, by decide +kernel⟩,
   ⟨en { st := .evicting, tag := 4, redirty := true }, 5, by decide +kernel⟩,
   ⟨en { st := .dirty, tag := 4 } .flushing, 5, by decide +kernel⟩,
   ⟨en { st := .dirty, tag := 4 }, 5, by decide +kernel⟩,
   ⟨en { st := .clean, tag := 4, err := 4 }, 5, by decide +kernel⟩,
   ⟨en { st := .clean, tag := 4, err := 3 }, 5, by decide +kernel⟩,
   ⟨S (pg .lnt .stopped up), false, by decide +kernel⟩,
   ⟨en { st := .dirty, tag := 4 }, by decide +kernel⟩,
   ⟨en { st := .dirty, tag := 4 } .flushing, by decide +kernel⟩,
   ⟨en { st := .dirty, tag := 4 } .disabled, by decide +kernel⟩,
   ⟨en { st := .dirty, tag := 4 } .flushing, by decide +kernel⟩,
   ⟨U, by decide +kernel⟩⟩

/-- States and operands that meet the hypotheses of ApertureWrites, clause by clause. -/
theorem test_witness_ApertureWrites :
    (∃ (s : State) (a : Agent) (d : Die), (s.m.aptOpen a d = true) ∧ ((s.m.fl.seq.get a).st = .idle)) ∧
    (∃ (s : State) (a : Agent) (d : Die), (s.m.aptOpen a d = true) ∧ (s.m.fl.seq.get a = { st := .u1, die := d })) ∧
    (∃ (s : State) (a : Agent) (d : Die) (v : BitVec 16), (s.m.aptOpen a d = true) ∧ ((s.m.fl.seq.get a).st = .u1) ∧
    (v ≠ 0x55)) ∧
    (∃ (s : State) (a : Agent) (d : Die) (v : BitVec 16), (s.m.aptOpen a d = true) ∧ ((s.m.fl.seq.get a).st = .idle)) ∧
    (∃ (s : State) (a : Agent) (d : Die) (v : BitVec 16), (s.m.aptOpen a d = true) ∧ ((s.m.fl.seq.get a).st = .u1)) ∧
    (∃ (s : State) (a : Agent) (d : Die) (off : Nat) (v : Word), (s.m.aptOpen a d = true) ∧
    ((s.m.fl.seq.get a).st = .idle) ∧ (0x2000 ≤ off) ∧ (off < 0x2100) ∧ (off % 4 = 0)) ∧
    (∃ (s : State) (a : Agent) (d : Die) (off : Nat) (v : Word), (s.m.aptOpen a d = true) ∧
    ((s.m.fl.seq.get a).st = .idle) ∧ (0x8000 ≤ off) ∧ (off < 0xC800) ∧ (off % 4 = 0)) ∧
    (∃ (s : State) (a : Agent) (d : Die) (off : Nat) (v : Word) (c : Instr), (s.m.aptOpen a d = true) ∧
    ((s.m.fl.seq.get a).st = .idle) ∧ ((c = .parameterBlockWrite a d off v ∧ (off < 0x2000 ∨ 0x2100 ≤ off ∨ off % 4 ≠ 0))
    ∨ (c = .aptStageWrite a d off v ∧ (off < 0x8000 ∨ 0xC800 ≤ off ∨ off % 4 ≠ 0)))) ∧
    (∃ (s : State) (h : Port) (d : Die) (off : Nat) (v : BitVec 16) (w : Word) (c : Instr),
    (s.m.aptOpen h.agent d = false) ∧ (c = .aptUnlock1Write h.agent d v ∨ c = .aptUnlock2Write h.agent d v ∨ c =
    .parameterBlockWrite h.agent d off w ∨ c = .aptStageWrite h.agent d off w ∨ c = .readPage h.agent d ∨ c = .eraseBlock
    h.agent d)) :=
  ⟨⟨ap, .mgmt, 69, by decide +kernel⟩,
   ⟨ap { st := .u1, die := 69 }, .mgmt, 69, by decide +kernel⟩,
   ⟨ap { st := .u1, die := 69 }, .mgmt, 69, 0xAA, by decide +kernel⟩,
   ⟨ap, .mgmt, 69, 0x55, by decide +kernel⟩,
   ⟨ap { st := .u1, die := 69 }, .mgmt, 69, 0xAA, by decide +kernel⟩,
   ⟨ap, .mgmt, 69, 0x2008, 7, by decide +kernel⟩,
   ⟨ap {} [(0x2008, 1)], .mgmt, 69, 0xC7FC, 7, by decide +kernel⟩,
   ⟨ap, .mgmt, 69, 0x8002, 7, .aptStageWrite .mgmt 69 0x8002 7, by decide +kernel⟩,
   ⟨U, .p1, 69, 0x2100, 7, 7, .parameterBlockWrite Port.p1.agent 69 0x2100 7, by decide +kernel⟩⟩

/-- States and operands that meet the hypotheses of ApertureCodes, clause by clause. -/
theorem test_witness_ApertureCodes :
    (∃ (s : State) (a : Agent) (d : Die) (c : Instr) (code : Nat), (s.m.aptOpen a d = true) ∧
    (s.m.fl.seq.get a = { st := .u2, die := d }) ∧ ((c, code) ∈ [(Instr.readPage a d, codeRead), (.readPageCache a d,
    codeReadCache), (.programPage a d, codeProgram), (.programNested a d, codeNested), (.eraseBlock a d, codeErase),
    (.resume a d, codeResume), (.aptSetFeature a d, codeSetFeature), (.aptGetFeature a d, codeGetFeature), (.readId a d,
    codeReadId), (.readParameterPage a d, codeParam)]) ∧ (s.m.aptRefusal a d code (s.m.parNow a) = none) ∧ (¬ ((code =
    codeRead ∨ code = codeReadCache) ∧ ((s.m.eraseOp d).any fun e => readsErased e (s.m.opBlock e) (s.m.parNow a)) =
    true))) ∧
    (∃ (s : State) (a : Agent) (d : Die) (b : Nat), (s.m.aptOpen a d = true) ∧
    (s.m.fl.seq.get a = { st := .u2, die := d }) ∧ (s.m.aptRefusal a d codeSuspend (s.m.parNow a) = none) ∧
    ((s.m.die d).erun = some b)) ∧
    (∃ (s : State) (a : Agent) (d : Die), (s.m.aptOpen a d = true) ∧ (s.m.fl.seq.get a = { st := .u2, die := d }) ∧
    (s.m.aptRefusal a d codeRetry (s.m.parNow a) = none)) ∧
    (∃ (s : State) (a : Agent) (d : Die), (s.m.aptOpen a d = true) ∧ (s.m.fl.seq.get a = { st := .u2, die := d }) ∧
    (s.m.aptRefusal a d codeReset (s.m.parNow a) = none) ∧ (s.m.eraseOp d = none)) ∧
    (∃ (s : State) (a : Agent) (d : Die), (s.m.aptOpen a d = true) ∧ (s.m.fl.seq.get a = { st := .u2, die := d }) ∧
    (s.m.aptRefusal a d codeRead (s.m.parNow a) = none) ∧
    (((s.m.eraseOp d).any fun e => readsErased e (s.m.opBlock e) (s.m.parNow a)) = true) ∧
    ((s.m.parNow a).len / 4 ≤ s.m.pffFree 4) ∧ (s.m.running (.pff 4) = true) ∧ (∀ o ∈ s.m.fl.ops, o.id < s.m.fl.nextOp) ∧
    (s.m.fl.xfers = [])) ∧
    (∃ (s : State) (a : Agent) (d : Die) (c : Instr) (code st : Nat), (s.m.aptOpen a d = true) ∧
    (s.m.fl.seq.get a = { st := .u2, die := d }) ∧ ((c, code) ∈ [(Instr.readPage a d, codeRead), (.readPageCache a d,
    codeReadCache), (.programPage a d, codeProgram), (.programNested a d, codeNested), (.eraseBlock a d, codeErase),
    (.suspend a d, codeSuspend), (.resume a d, codeResume), (.aptSetFeature a d, codeSetFeature), (.aptGetFeature a d,
    codeGetFeature), (.setRetryStep a d, codeRetry), (.readId a d, codeReadId), (.readParameterPage a d, codeParam),
    (.resetDie a d, codeReset)]) ∧ (s.m.aptRefusal a d code (s.m.parNow a) = some st)) ∧
    (∃ (s : State) (a : Agent) (d : Die) (code : Byte), (s.m.aptOpen a d = true) ∧
    (s.m.fl.seq.get a = { st := .u2, die := d }) ∧ (code.toNat ∉ aptCodes) ∧
    (∀ o ∈ s.m.fl.ops, ¬ (o.kind.isSvc = true ∧ o.dieIx = d.val))) :=
  ⟨⟨ap u2 rp, .mgmt, 69, .readPage .mgmt 69, codeRead, by decide +kernel⟩,
   ⟨ap u2 rp { die0 with erun := some 8 } id stopCh, .mgmt, 69, 8, by decide +kernel⟩,
   ⟨ap u2 rp, .mgmt, 69, by decide +kernel⟩,
   ⟨ap u2 rp { die0 with esusp := some 8 } id stopCh, .mgmt, 69, by decide +kernel⟩,
   ⟨ap u2 rp { die0 with erun := some 7 } (fun f => { f with ops := [op 3 (.erase 7 false) .q2 true] }), .mgmt, 69,
    by decide +kernel⟩,
   ⟨ap u2 rp, .mgmt, 69, .eraseBlock .mgmt 69, codeErase, aptNotStopped, by decide +kernel⟩,
   ⟨ap u2 [], .mgmt, 69, 0x77, by decide +kernel⟩⟩

end LampAndAperture

/-! ### The channel engines; Decoding beyond the channel, and placement -/

namespace ChannelAndDecode

/-! Operations on a die, reads being decoded and furrows to erase. -/

def fl (ops : List Op) (d : DieSt := die0) (f : Flash → Flash := id) (g : Mach → Mach := id) : MState := S (g (flM d ops f))
def lowTok (m : Mach) : Mach := { m with reg := { m.reg with r := [(fchReg 1 Reg.FCH_TOKMAX, 2)] } }
def sv (c : Nat) (x : Apt := { block := 7, fa := 2, fval := 9 }) : Op := op 3 (.svc c x) (.svc .mgmt) true
def stopCh (m : Mach) : Mach := pg (.fch 1) .stopped m
def erun : DieSt := { die0 with erun := some 7 }
def noFloor (m : Mach) : Mach := { m with reg := { m.reg with r := [(Reg.GLN_FLOOR, 0)] } }
def dsel (m : Mach) : Mach := { m with reg := { m.reg with r := [(bank .mgmt Reg.WPT_DSEL, 69)] } }
def ad : BitVec 40 := mkAddr 1 5 0 7 2 1
def cw1 : Cw := { kind := .data, vol := 1, lba := 41, wsn := 8, data := 0xDEAD }
def tk (st : Nat) : RdTask := { id := 4, addr := ad, vol := 1, lba := 41, stage := st, tagRetry := false, who := [.rmw 6 1] }
def ver6 : Ver := { id := 6, vol := 1, mu := 10, mask := 13, data := [(0, 1)], wsn := 30, st := .sealed, pos := 0, lampwb := 0, rmwTodo := [1], rmwFail := false, lost := 0, pri := false, cov := false, rsv := false, again := false }
def dc (st : Nat) (g : Mach → Mach := id) : MState := S (g { upV with fl := { cw := [(ad.toNat, cw1)], tasks := [tk st], softTasks := [4] }, buf := { vers := [ver6] } })
def gOk (st : PeerSt := .good) : Group := { me := 0, peers := [{ role := .p, ch := 0, st := st, body := cw1.body }] }
def tk2 : RdTask := { tk 4 with id := 5, who := [], grp := some (gOk .reading) }
def tkp : RdTask := { tk 3 with who := [.peer 5 .p] }
def dct (l : List RdTask) (g : Mach → Mach := id) : MState := S (g { upV with fl := { cw := [(ad.toNat, cw1)], tasks := l, softTasks := [4] }, buf := { vers := [ver6] } })
def t4 : RdTask := { tk 4 with grp := some (gOk) }
def furC : Fur := { st := .closed, fsn := 3, stripes := 4, valid := 1, placed := 4 }
def wf (m : Mach) : Mach := { m with gln := { fur := [(4096 * 5 + 7, furC)] } }
def gBad : Group := { me := 0, peers := [{ role := .p, ch := 0, st := .good, body := 7 }] }

/-- States and operands that meet the hypotheses of ChannelOperations, clause by clause. -/
theorem test_witness_ChannelOperations :
    (∃ (s : State) (c : Chan), (s.m.nextOp c = none)) ∧
    (∃ (s : State) (c : Chan) (o : Op) (k : Nat), (s.m.nextOp c = some o) ∧ (o.kind = .readCw k) ∧
    (s.m.tokensFit c 2 = true)) ∧
    (∃ (s : State) (c : Chan) (o : Op) (b : Nat) (sys : Bool), (s.m.nextOp c = some o) ∧ (o.kind = .erase b sys) ∧
    (s.m.wpHit o = false) ∧ (s.m.tokensFit c 5 = true)) ∧
    (∃ (s : State) (c : Chan) (o : Op), (s.m.nextOp c = some o) ∧ (s.m.wpHit o = false) ∧
    (s.m.tokensFit c o.kind.tokens = false) ∧ (o.waited = false)) ∧
    (∃ (s : State) (c : Chan) (o : Op) (a : Agent) (code : Nat) (x : Apt), (s.m.nextOp c = some o) ∧
    (o.kind = .svc code x) ∧ (o.req = .svc a) ∧ (s.m.wpHit o = true)) ∧
    (∃ (s : State) (c : Chan) (r : Row) (x : OpOutcome), (s.m.polled (dieOf c r.val) = none)) ∧
    (∃ (s : State) (c : Chan) (r : Row) (o : Op) (k : Nat) (n : Bool) (h : HardDecode) (q : CwCheck),
    (s.m.polled (dieOf c r.val) = some o) ∧ (o.kind = .headland k n)) ∧
    (∃ (s : State) (c : Chan) (r : Row) (o : Op) (a : Agent) (x : Apt) (h : HardDecode) (q : CwCheck),
    (s.m.polled (dieOf c r.val) = some o) ∧ (o.kind = .svc codeSetFeature x) ∧ (o.req = .svc a) ∧
    ((s.m.die o.dieIx).op = some o.id)) ∧
    (∃ (s : State) (c : Chan) (r : Row) (o : Op) (a : Agent) (code : Nat) (x : Apt), (s.m.polled (dieOf c r.val) = some o)
    ∧ (o.kind = .svc code x) ∧ (o.req = .svc a) ∧ (code ≠ codeErase)) ∧
    (∃ (s : State) (c : Chan) (r : Row), (s.m.polled (dieOf c r.val) = none)) ∧
    (∃ (s : State) (c : Chan) (o : Op) (a : Agent) (code : Nat) (x : Apt), (s.m.fl.xfers = [o.id]) ∧
    (s.m.op o.id = some o) ∧ (o.ch = c) ∧ (o.kind = .svc code x) ∧ (o.req = .svc a)) ∧
    (∃ (s : State) (c : Chan), (∀ i ∈ s.m.fl.xfers, ∀ o, s.m.op i = some o → o.ch ≠ c)) :=
  ⟨⟨U, 1, by decide +kernel⟩,
   ⟨fl [op 3 (.readCw 4)], 1, op 3 (.readCw 4), 4, by decide +kernel⟩,
   ⟨fl [op 3 (.erase 7 false) .q2], 1, op 3 (.erase 7 false) .q2, 7, false, by decide +kernel⟩,
   ⟨fl [op 3 (.readCw 4)] die0 id lowTok, 1, op 3 (.readCw 4), by decide +kernel⟩,
   ⟨fl [{ sv codeProgram with issued := false }] { die0 with wp := 1 } id stopCh, 1,
    { sv codeProgram with issued := false }, .mgmt, codeProgram, { block := 7, fa := 2, fval := 9 }, by decide +kernel⟩,
   ⟨fl [op 3 (.readCw 4)], 1, 5, .fail, by decide +kernel⟩,
   ⟨fl [op 3 (.headland 4 false) .q1 true] { die0 with op := some 3 }, 1, 5, op 3 (.headland 4 false) .q1 true, 4, false,
    .failed, .good, by decide +kernel⟩,
   ⟨fl [sv codeSetFeature] { die0 with op := some 3 }, 1, 5, sv codeSetFeature, .mgmt, { block := 7, fa := 2, fval := 9 },
    .failed, .good, by decide +kernel⟩,
   ⟨fl [sv codeProgram] { die0 with op := some 3 }, 1, 5, sv codeProgram, .mgmt, codeProgram,
    { block := 7, fa := 2, fval := 9 }, by decide +kernel⟩,
   ⟨fl [], 1, 5, by decide +kernel⟩,
   ⟨fl [{ sv codeRead with stalled := true }] { die0 with op := some 3 } (fun f => { f with xfers := [3] }), 1,
    { sv codeRead with stalled := true }, .mgmt, codeRead, { block := 7, fa := 2, fval := 9 }, by decide +kernel⟩,
   ⟨fl [sv codeRead], 1, by decide +kernel⟩⟩

/-- States and operands that meet the hypotheses of EraseScheduler, clause by clause. -/
theorem test_witness_EraseScheduler :
    (∃ (s : State) (c : Chan) (r : Row) (b : Nat), ((s.m.die (dieOf c r.val)).erun = some b) ∧
    (s.m.suspendWanted c r = true) ∧ (s.m.suspendOk c (dieOf c r.val) = true)) ∧
    (∃ (s : State) (c : Chan) (r : Row) (e : Bool), ((s.m.die (dieOf c r.val)).erun = none ∨ s.m.suspendWanted c r = false
    ∨ s.m.suspendOk c (dieOf c r.val) = false)) ∧
    (∃ (s : State) (c : Chan) (r : Row) (b : Nat), ((s.m.die (dieOf c r.val)).esusp = some b) ∧
    ((s.m.die (dieOf c r.val)).op = none) ∧ (s.m.resumeHeld c r = false) ∧ (s.m.running (.fch c) = true) ∧
    (s.m.fl.trip = false) ∧ (s.m.dev.pf = .none) ∧ (s.m.dev.phase ≠ .done) ∧ (s.m.tokensFit c 5 = true)) ∧
    (∃ (s : State) (c : Chan) (r : Row),
    ((s.m.die (dieOf c r.val)).esusp = none ∨ s.m.resumeHeld c r = true ∨ s.m.fl.trip = true)) ∧
    (∃ (s : State) (h : Port) (hi : Bool) (v : Word) (c : Instr),
    (c = .wptSet h.agent hi v ∨ c = .wptAllset h.agent hi v)) :=
  ⟨⟨fl [op 3 (.readCw 4)] erun id noFloor, 1, 5, 7, by decide +kernel⟩,
   ⟨fl [] erun id noFloor, 1, 5, true, by decide +kernel⟩,
   ⟨fl [] { die0 with esusp := some 7 }, 1, 5, 7, by decide +kernel⟩,
   ⟨fl [op 3 (.readCw 4)] { die0 with esusp := some 7 } id noFloor, 1, 5, by decide +kernel⟩,
   ⟨U, .p1, true, 9, .wptSet Port.p1.agent true 9, by decide +kernel⟩⟩

/-- States and operands that meet the hypotheses of DecodeBeyondTheChannel, clause by clause. -/
theorem test_witness_DecodeBeyondTheChannel :
    (∃ (s : State) (task : Nat) (ok : Bool) (k : CwCheck), (∀ x, s.m.task task = some x → x.stage ≠ 3)) ∧
    (∃ (s : State) (task : Nat) (k : CwCheck) (x : RdTask), (s.m.task task = some x) ∧ (x.stage = 3) ∧
    (task ∈ s.m.fl.softTasks.take 8) ∧ (x.serves = none)) ∧
    (∃ (s : State) (task own : Nat) (k : CwCheck) (r : PeerRole) (x y : RdTask) (g : Group), (s.m.task task = some x) ∧
    (x.stage = 3) ∧ (task ∈ s.m.fl.softTasks.take 8) ∧ (x.serves = some (own, r)) ∧ (own ≠ task) ∧ (s.m.task own = some y)
    ∧ (y.grp = some g) ∧ (∀ p ∈ g.peers, p.st ≠ .unasked)) ∧
    (∃ (s : State) (task id lb : Nat) (x : RdTask) (y : Ver), (s.m.task task = some x) ∧ (x.stage = 3) ∧
    (task ∈ s.m.fl.softTasks.take 8) ∧ ((s.m.cwAt x.addr).gone = false) ∧ (s.m.CwGood x) ∧ (x.who = [.rmw id lb]) ∧
    (s.m.ver id = some y)) ∧
    (∃ (s : State) (task : Nat) (x : RdTask), (s.m.task task = some x) ∧ (x.stage = 3) ∧ (task ∈ s.m.fl.softTasks.take 8)
    ∧ ((s.m.cwAt x.addr).gone = false) ∧ (s.m.CwGood x) ∧ (x.serves = none)) ∧
    (∃ (s : State) (task : Nat) (k : CwCheck),
    (∀ x, s.m.task task = some x → x.stage ≠ 4 ∨ ∃ g, x.grp = some g ∧ g.settled = false)) ∧
    (∃ (s : State) (task id lb : Nat) (x : RdTask) (g : Group) (y : Ver), (s.m.task task = some x) ∧ (x.stage = 4) ∧
    (x.grp = some g) ∧ (g.settled = true) ∧ (g.rebuilt = some (s.m.cwAt x.addr).body) ∧ (s.m.CwGood x) ∧
    (x.who = [.rmw id lb]) ∧ (s.m.ver id = some y)) ∧
    (∃ (s : State) (task id lb : Nat) (k : CwCheck) (x : RdTask) (y : Ver), (s.m.task task = some x) ∧ (x.stage = 4) ∧
    (x.grp = none ∨ ∃ g, x.grp = some g ∧ g.settled = true ∧ g.rebuilt = none) ∧ (x.tagRetry = false) ∧
    (x.who = [.rmw id lb]) ∧ (s.m.ver id = some y)) ∧
    (∃ (s : State) (task id lb : Nat) (k : CwCheck) (x : RdTask) (g : Group) (b : Body) (y : Ver),
    (s.m.task task = some x) ∧ (x.stage = 4) ∧ (x.grp = some g) ∧ (g.settled = true) ∧ (g.rebuilt = some b) ∧
    (b ≠ (s.m.cwAt x.addr).body) ∧ (x.tagRetry = false) ∧ (x.who = [.rmw id lb]) ∧ (s.m.ver id = some y)) :=
  ⟨⟨dc 4, 4, true, .good, by decide +kernel⟩,
   ⟨dc 3, 4, .good, tk 3, by decide +kernel⟩,
   ⟨dct [tkp, tk2], 4, 5, .good, .p, tkp, tk2, gOk .reading, by decide +kernel⟩,
   ⟨dc 3, 4, 6, 1, tk 3, ver6, by decide +kernel, by decide +kernel, by decide +kernel, by decide +kernel,
    by constructor <;> decide +kernel, by decide +kernel⟩,
   ⟨dc 3, 4, tk 3, by decide +kernel, by decide +kernel, by decide +kernel, by decide +kernel,
    by constructor <;> decide +kernel, by decide +kernel⟩,
   ⟨dc 3, 4, .good, by decide +kernel⟩,
   ⟨dct [t4] wf, 4, 6, 1, t4, gOk, ver6, by decide +kernel, by decide +kernel, by decide +kernel, by decide +kernel,
    by decide +kernel, by constructor <;> decide +kernel, by decide +kernel⟩,
   ⟨dct [tk 4] wf, 4, 6, 1, .good, tk 4, ver6, by decide +kernel⟩,
   ⟨dct [{ tk 4 with grp := some gBad }] wf, 4, 6, 1, .good, { tk 4 with grp := some gBad }, gBad, 7, ver6,
    by decide +kernel⟩⟩

end ChannelAndDecode

/-! ### Decoding beyond the channel, and placement; Limits and the end of a recovery; Gleaning -/

namespace PlacementAndGleaning

/-! Versions in the write buffer, open furrows, recoveries and victims. -/

def o6 : Ver := { id := 6, vol := 1, mu := 10, mask := 15, data := [(0, 1)], wsn := 30, st := .opn, pos := 0, lampwb := 0, rmwTodo := [], rmwFail := false, lost := 0, pri := false, cov := false, rsv := false, again := false }
def bv (x : Ver) (g : Mach → Mach := id) : MState := S (g { upV with buf := { vers := [x], wsn := 40, fsn := 5, nextId := 7 } })
def ad : BitVec 40 := mkAddr 5 0 0 200 0 0
def mp (m : Mach) : Mach := { m with vol := { m.vol with map := [(10, ad)], entries := 2 ^ 20 } }
def fal (m : Mach) : Mach := { m with gln := { fur := [(200, { st := .fallow }), (201, { st := .fallow })] }, reg := { m.reg with r := [(Reg.GLN_EXHTHR, 1)] } }
def c6 : Ver := { o6 with st := .complete }
def of0 : OpenF := { furrow := 200, fsn := 3, layout1 := false, absent := 0, page := 0, walk := 0, mask := 0, flying := 0, parityLeft := 0, parityBad := 0, closing := false }
def c7 : Ver := { c6 with id := 7, mu := 11, wsn := 31 }
def opM (l : List Ver) (planes : Nat) (g : Mach → Mach := id) : MState := S (g { upV with
  buf := { vers := l, wsn := 40, fsn := 5, nextId := 8, opn := [(0, of0)] }
  gln := { fur := [(200, { st := .opn, fsn := 3 })] }
  adm := { upV.adm with board := { upV.adm.board with planes := planes } }
  key := { integ := { st := .loaded, epoch := 1, hwm := 1000, asked := 1000 } } })
def ks (x : KeySlot) : MState := S { up with key := { slot := [(7, x)] } }
def rcv (seg : Nat) (w : List WaitUpd) (inst : Nat := 0) : MState := S { upV with vol := { upV.vol with recov := some seg, waiting := w, entries := 2 ^ 20, inst := if inst = 0 then [] else [(10, inst)] } }
def gl (fs : SMap Fur) (f : Glean → Glean := id) (g : Mach → Mach := id) : MState := S (g (mp { upV with gln := f { fur := fs } }))
def fc : Fur := { st := .closed, fsn := 3, stripes := 4, valid := 1, placed := 4 }
def vc : Victim := { furrow := 200, rank4 := true, cold := true, page := 0, walk := 0, plane := 0, v0 := 1, t0 := 4, walked := false }
def cwv (n : Nat) : Cw := { kind := .data, vol := 1, lba := 40 + n, wsn := 8, data := 0xDEAD }
def adg : Mach → BitVec 40 := fun m => ((m.victim false).bind m.nextSource).getD 0
def vg (v : Victim := vc) (g : Mach → Mach := id) : MState := gl [(200, { fc with st := .gleaning })] (fun g => { g with vic1 := some v }) fun m => let m := g m; { m with adm := { m.adm with board := { m.adm.board with planes := 2, pages := 128 } } }
def ag : BitVec 40 := adg (vg).m
def cwsn (k : Nat) (m : Mach) : Mach := { m with fl := { m.fl with cw := (List.range k).map fun n => (ag.toNat + n, cwv n) }, vol := { m.vol with map := [(10, ag)] } }
def rel : Fur := { fc with st := .released, eRel := 0, absent := 0xFFFFFFF0, lost := 4 }
def dis (f : Fur := fc) : MState := gl [(4096 + 200, f)] id fun m => { m with fl := { m.fl with blk := [(4096 * dieOf 3 1 + 200, { reads := 300000 })] } }

/-- States and operands that meet the hypotheses of Placement, clause by clause. -/
theorem test_witness_Placement :
    (∃ (s : State) (x : Ver) (c : Instr), (s.m.sealAllowed = true) ∧ (s.m.ver x.id = some x) ∧ (x.st = .opn) ∧
    (x.mask = 15) ∧ (x.lost = 0) ∧ (x.rmwTodo = []) ∧ (x.rmwFail = false) ∧ (c = .versionSealAge x.id ∨ (c =
    .bufferHiwatSeal ∧ s.m.atHiwat = true ∧ s.m.buf.vers.find? (fun y => y.st == .opn) = some x))) ∧
    (∃ (s : State) (x : Ver) (a : BitVec 40), (s.m.sealAllowed = true) ∧ (s.m.ver x.id = some x) ∧ (x.st = .opn) ∧
    (x.mask = 14) ∧ (x.lost = 0) ∧ (x.rmwTodo = []) ∧ (∀ y ∈ s.m.buf.vers, y.vol = x.vol → y.mu = x.mu → y.wsn = x.wsn) ∧
    (s.m.mapSrc x.vol (4 * x.mu) = .flash a) ∧ (∀ k ∈ s.m.fl.tasks, k.stage ≠ 4) ∧ (s.m.chanAway (adrChan a) = false) ∧
    (s.m.addrLost a = false)) ∧
    (∃ (s : State) (v : Nat), (s.m.sealAllowed = false ∨ s.m.ver v = none)) ∧
    (∃ (s : State), (s.m.atHiwat = false ∨ s.m.sealAllowed = false)) ∧
    (∃ (s : State) (v : Nat) (x : Ver), (s.m.ver v = some x) ∧ (x.st = .sealed) ∧ (x.rmwTodo = []) ∧ (x.rmwFail = false) ∧
    (s.m.Settled)) ∧
    (∃ (s : State) (v : Nat) (x : Ver), (s.m.ver v = some x) ∧ (x.st = .sealed) ∧ (x.rmwTodo = []) ∧ (x.rmwFail = true) ∧
    (s.m.Settled)) ∧
    (∃ (s : State) (v : Nat), (s.m.Settled) ∧ (∀ x, s.m.ver v = some x → x.st ≠ .sealed ∨ x.rmwTodo ≠ [])) ∧
    (∃ (s : State) (pos : Fin 8) (f : Nat), (pos ≠ 6) ∧ (s.m.sowing = true) ∧ (s.m.openF pos = none) ∧
    (s.m.posHasWork pos (s.m.posLayout pos) = true) ∧ (s.m.window < s.m.rdN Reg.HDL_WINMAX) ∧
    (s.m.rdN Reg.GLN_EXHTHR < s.m.fallowCount) ∧ (s.m.pickFallow pos = some f)) ∧
    (∃ (s : State) (pos : Fin 8), (pos ≠ 6) ∧ (s.m.sowing = true) ∧ (s.m.openF pos = none) ∧
    (s.m.posHasWork pos (s.m.posLayout pos) = true) ∧ (s.m.rdN Reg.HDL_WINMAX ≤ s.m.window)) ∧
    (∃ (s : State) (pos : Fin 8), (pos = 6 ∨ s.m.sowing = false ∨ (s.m.openF pos).isSome ∨ s.m.posHasWork pos
    (s.m.posLayout pos) = false)) ∧
    (∃ (s : State) (pos : Fin 8) (faulty : List (Fin 4)) (o : OpenF) (c : Chan), (s.m.openF pos = some o) ∧
    (o.closing = false) ∧ (o.layout1 = s.m.posLayout pos) ∧ (s.m.sowing = true) ∧ (o.parityLeft = 0) ∧
    (s.m.openRecorded o.fsn = true) ∧ ((dataWalk o.fsn o.layout1 o.absent)[o.walk]? = some c) ∧ (s.m.chanAway c = false) ∧
    ((s.m.nextItems pos o).length = s.m.adm.board.planes) ∧ (s.m.slotShort (s.m.nextItems pos o) = none)) ∧
    (∃ (s : State) (pos : Fin 8) (faulty : List (Fin 4)) (o : OpenF) (c : Chan) (x : Ver) (k : Nat),
    (s.m.openF pos = some o) ∧ (o.closing = false) ∧ (o.layout1 = s.m.posLayout pos) ∧ (s.m.sowing = true) ∧
    (o.parityLeft = 0) ∧ (s.m.openRecorded o.fsn = true) ∧ ((dataWalk o.fsn o.layout1 o.absent)[o.walk]? = some c) ∧
    (s.m.chanAway c = false) ∧ (s.m.adm.board.planes = 1) ∧ (s.m.nextItems pos o = [.version x.id]) ∧
    (s.m.ver x.id = some x) ∧ (k = (s.m.volu x.vol).nonceSlot) ∧ (s.m.nonceOk k 4 = true)) ∧
    (∃ (s : State) (pos : Fin 8) (faulty : List (Fin 4)), (s.m.openF pos = none ∨ s.m.sowing = false)) :=
  ⟨⟨bv o6, o6, .versionSealAge 6, by decide +kernel⟩,
   ⟨bv { o6 with mask := 14 } mp, { o6 with mask := 14 }, ad, by decide +kernel⟩,
   ⟨bv o6, 5, by decide +kernel⟩,
   ⟨bv o6, by decide +kernel⟩,
   ⟨bv { o6 with st := .sealed, mask := 7 }, 6, { o6 with st := .sealed, mask := 7 }, by decide +kernel,
    by decide +kernel, by decide +kernel, by decide +kernel, settled_of rfl (by decide +kernel)⟩,
   ⟨bv { o6 with st := .sealed, rmwFail := true }, 6, { o6 with st := .sealed, rmwFail := true }, by decide +kernel,
    by decide +kernel, by decide +kernel, by decide +kernel, settled_of rfl (by decide +kernel)⟩,
   ⟨bv o6, 6, settled_of rfl (by decide +kernel), by decide +kernel⟩,
   ⟨bv c6 fal, 0, 200, by decide +kernel⟩,
   ⟨bv c6 (fun m => { m with reg := { m.reg with r := [(Reg.HDL_WINMAX, 0)] } }), 0, by decide +kernel⟩,
   ⟨bv o6, 0, by decide +kernel⟩,
   ⟨opM [c6, c7] 2, 0, [], of0, 5, by decide +kernel⟩,
   ⟨opM [c6] 1, 0, [2], of0, 5, c6, integSlot, by decide +kernel⟩,
   ⟨U, 0, [], by decide +kernel⟩⟩

/-- States and operands that meet the hypotheses of LimitsAndRecoveries, clause by clause. -/
theorem test_witness_LimitsAndRecoveries :
    (∃ (s : State) (k : Nat), ((s.m.kslot k).st = .loaded) ∧ (nonceSoft ≤ (s.m.kslot k).nonce)) ∧
    (∃ (s : State) (k : Nat), ((s.m.kslot k).st ≠ .loaded ∨ (s.m.kslot k).nonce < nonceSoft)) ∧
    (∃ (s : State) (k : Nat), ((s.m.kslot k).st = .loaded ∨ (s.m.kslot k).st = .exhausted) ∧
    (nonceHard < (s.m.kslot k).nonce + 4)) ∧
    (∃ (s : State) (k : Nat),
    ((s.m.kslot k).st = .empty ∨ (s.m.kslot k).st = .halted ∨ (s.m.kslot k).nonce + 4 ≤ nonceHard)) ∧
    (∃ (s : State), (s.m.key.integ.st ≠ .exhausted) ∧ (nonceSoft ≤ s.m.key.integ.nonce)) ∧
    (∃ (s : State), (s.m.key.integ.st = .exhausted ∨ s.m.key.integ.nonce < nonceSoft)) ∧
    (∃ (s : State), (s.m.buf.limit = false) ∧ (2 ^ 63 ≤ s.m.buf.wsn ∨ 2 ^ 39 ≤ s.m.buf.fsn)) ∧
    (∃ (s : State), (s.m.buf.limit = true ∨ (s.m.buf.wsn < 2 ^ 63 ∧ s.m.buf.fsn < 2 ^ 39))) ∧
    (∃ (s : State) (ok : Bool), (s.m.vol.recov = none)) ∧
    (∃ (s : State) (seg i w : Nat) (a : BitVec 40), (s.m.vol.recov = some seg) ∧
    (s.m.vol.waiting = [{ entry := i, addr := a, wsn := w, cas := none }]) ∧ (s.m.installed i ≤ w) ∧
    (∀ x ∈ s.m.buf.vers, x.st = .sealed → x.rmwTodo = []) ∧ (s.m.Settled)) ∧
    (∃ (s : State) (seg i w : Nat) (a : BitVec 40), (s.m.vol.recov = some seg) ∧
    (s.m.vol.waiting = [{ entry := i, addr := a, wsn := w, cas := none }]) ∧ (w < s.m.installed i) ∧
    (∀ x ∈ s.m.buf.vers, x.st = .sealed → x.rmwTodo = []) ∧ (s.m.Settled)) ∧
    (∃ (s : State) (seg : Nat), (s.m.vol.recov = some seg) ∧ (seg < s.m.mapSegs) ∧
    (∀ x ∈ s.m.buf.vers, x.st = .sealed → x.rmwTodo = []) ∧ (s.m.Settled)) ∧
    (∃ (s : State) (seg : Nat), (s.m.vol.recov = some seg) ∧ (s.m.mapSegs ≤ seg) ∧ (s.m.dev.st ≠ .failed)) :=
  ⟨⟨ks { st := .loaded, nonce := nonceSoft }, 7, by decide +kernel⟩,
   ⟨ks { st := .loaded, nonce := nonceSoft - 1 }, 7, by decide +kernel⟩,
   ⟨ks { st := .exhausted, nonce := nonceHard - 3 }, 7, by decide +kernel⟩,
   ⟨ks { st := .exhausted, nonce := nonceHard - 4 }, 7, by decide +kernel⟩,
   ⟨S { up with key := { integ := { st := .loaded, nonce := nonceSoft } } }, by decide +kernel⟩,
   ⟨U, by decide +kernel⟩,
   ⟨S { upV with buf := { wsn := 2 ^ 63 } }, by decide +kernel⟩,
   ⟨U, by decide +kernel⟩,
   ⟨U, true, by decide +kernel⟩,
   ⟨rcv 0 [{ entry := 10, addr := ad, wsn := 30, cas := none }] 30, 0, 10, 30, ad, by decide +kernel, by decide +kernel,
    by decide +kernel, by decide +kernel, settled_of rfl (by decide +kernel)⟩,
   ⟨rcv 0 [{ entry := 10, addr := ad, wsn := 30, cas := none }] 31, 0, 10, 30, ad, by decide +kernel, by decide +kernel,
    by decide +kernel, by decide +kernel, settled_of rfl (by decide +kernel)⟩,
   ⟨rcv 0 [{ entry := 10, addr := ad, wsn := 30, cas := none }], 0, by decide +kernel, by decide +kernel,
    by decide +kernel, settled_of rfl (by decide +kernel)⟩,
   ⟨rcv 5 [], 5, by decide +kernel⟩⟩

/-- States and operands that meet the hypotheses of Gleaning, clause by clause. -/
theorem test_witness_Gleaning :
    (∃ (s : State) (f : Nat), (s.m.gleaning = true) ∧ (s.m.gln.vic0 = none) ∧ (s.m.lowVictim = some f)) ∧
    (∃ (s : State) (f : Nat), (s.m.gleaning = true) ∧ (s.m.gln.vic0.isSome ∨ s.m.lowVictim = none) ∧ (s.m.gln.vic1 = none)
    ∧ (s.m.bestVictim = some f) ∧ (s.m.gln.level ≠ .low ∨ s.m.rdN Reg.GLN_LOWMIN ≤ (s.m.fur f).vterm)) ∧
    (∃ (s : State), (s.m.gleaning = false ∨ ((s.m.gln.vic0.isSome ∨ s.m.lowVictim = none) ∧ (s.m.gln.vic1.isSome ∨ ∀ f,
    s.m.bestVictim = some f → s.m.gln.level = .low ∧ (s.m.fur f).vterm < s.m.rdN Reg.GLN_LOWMIN)))) ∧
    (∃ (s : State) (low : Bool) (rs : List SrcRead), (s.m.victim low = none ∨ s.m.gleaning = false ∨ s.m.sourceReady low =
    false ∨ (s.m.sourceReady (!low) = true ∧ s.m.gln.turnLow ≠ low))) ∧
    (∃ (s : State) (low : Bool) (rs : List SrcRead) (v : Victim) (a : BitVec 40) (id : Cw) (vol : Vid) (i : Nat),
    (s.m.Sources low v a) ∧ (s.m.MuAt a id) ∧ (vol = Fin.ofNat 64 id.vol) ∧ (∀ n < 4, rs.getD n goodRead = goodRead) ∧
    (∀ n < 4, s.m.LbGood a id n) ∧ (entryIndex (s.m.volu vol) id.lba = some i) ∧ (s.m.entry i = a)) ∧
    (∃ (s : State) (low : Bool) (rs : List SrcRead) (v : Victim) (a : BitVec 40) (id : Cw) (vol : Vid) (i n : Nat),
    (s.m.Sources low v a) ∧ (s.m.MuAt a id) ∧ (vol = Fin.ofNat 64 id.vol) ∧ (rs.getD 0 goodRead = goodRead) ∧
    (s.m.LbGood a id 0) ∧ (0 < n) ∧ (n < 4) ∧ ((s.m.cwAt (a + BitVec.ofNat 40 n)).wsn ≠ id.wsn) ∧
    (entryIndex (s.m.volu vol) id.lba = some i) ∧ (s.m.entry i = a)) ∧
    (∃ (s : State) (low : Bool) (rs : List SrcRead) (v : Victim) (a : BitVec 40), (s.m.Sources low v a) ∧
    ((s.m.cwAt a).kind = .erased) ∧ (v.again = []) ∧ (v.plane + 1 < s.m.adm.board.planes)) ∧
    (∃ (s : State) (low : Bool) (rs : List SrcRead) (v : Victim) (a : BitVec 40), (s.m.Sources low v a) ∧
    ((s.m.cwAt a).kind ≠ .erased) ∧ (∀ n < 4, s.m.chanAway (adrChan (a + BitVec.ofNat 40 n)) = true ∧ s.m.parityGroup (a +
    BitVec.ofNat 40 n) = none)) ∧
    (∃ (s : State) (low : Bool), (∀ v, s.m.victim low = some v → v.walked = false ∨ (s.m.fur v.furrow).valid = 0)) ∧
    (∃ (s : State) (low : Bool) (v : Victim) (i mu : Nat) (e : BitVec 40) (vol : Vid), (s.m.victim low = some v) ∧
    (s.m.gleaning = true) ∧ (v.walked = true) ∧ (v.again = []) ∧ (s.m.installHeld i = false) ∧
    (s.m.stagedFrom v.furrow = false) ∧ ((s.m.fur v.furrow).valid ≠ 0) ∧
    ((s.m.vol.map.filter fun e => isAddr e.2 && s.m.furrowOfAddr e.2 == v.furrow) = [(i, e)]) ∧ (s.m.entry i = e) ∧
    (s.m.entryOwner i = some (vol, mu))) ∧
    (∃ (s : State), (s.m.running .hdl = false ∨ s.m.dev.pf ≠ .none ∨ s.m.ioUp = false ∨ (∀ e ∈ s.m.gln.fur, e.2.st ≠
    .released))) ∧
    (∃ (s : State) (f : Nat) (x : Fur), ((s.m.gln.fur.filter fun e => e.2.st == .released) = [(f, x)]) ∧
    (s.m.hdl.durable < (s.m.fur f).eRel)) ∧
    (∃ (s : State) (f : Nat) (x : Fur) (mask : Word), (s.m.running .hdl = true) ∧ (s.m.dev.pf = .none) ∧ (s.m.ioUp = true)
    ∧ ((s.m.gln.fur.filter fun e => e.2.st == .released) = [(f, x)]) ∧ ((s.m.fur f).eRel ≤ s.m.hdl.durable) ∧
    (s.m.eraseMembers f ≠ []) ∧ (mask = (s.m.eraseMembers f).foldl (fun w c => w ||| bit32 c.val) 0)) ∧
    (∃ (s : State) (f : Nat) (flagged passEnd : Bool), ((s.m.fur f).st = .closed) ∧ (s.m.gleaning = true) ∧
    (∀ c, s.m.memberBlock c f < 4096) ∧ (∀ c ∈ goodMembers (s.m.fur f), ∀ a ∈ s.m.scanned c f, (s.m.cwAt a).gone = false)) ∧
    (∃ (s : State) (f : Nat) (flagged passEnd : Bool), ((s.m.fur f).st ≠ .closed ∨ s.m.gleaning = false)) ∧
    (∃ (s : State) (c : Chan) (r : Row) (b : Nat), (s.m.gleaning = true) ∧
    (s.m.rdN Reg.GLN_RDDIST ≤ (s.m.blk (dieOf c r.val) b).reads) ∧
    (∀ a ∈ s.m.scanned c (s.m.furrowOf c r.val b), (s.m.cwAt a).gone = false)) ∧
    (∃ (s : State) (c : Chan) (r : Row) (b f : Nat), (s.m.gleaning = true) ∧
    (s.m.rdN Reg.GLN_RDDIST ≤ (s.m.blk (dieOf c r.val) b).reads) ∧ (f = s.m.furrowOf c r.val b) ∧
    ((s.m.fur f).st = .closed)) ∧
    (∃ (s : State) (c : Chan) (r : Row) (b : Nat) (flagged : Bool),
    ((s.m.blk (dieOf c r.val) b).reads < s.m.rdN Reg.GLN_RDDIST ∨ s.m.gleaning = false)) :=
  ⟨⟨gl [(200, { fc with refresh := true })], 200, by decide +kernel⟩,
   ⟨gl [(200, fc)], 200, by decide +kernel⟩,
   ⟨U, by decide +kernel⟩,
   ⟨U, true, [], by decide +kernel⟩,
   ⟨vg vc (cwsn 4), false, [], vc, ag, cwv 0, 1, 10, by constructor <;> decide +kernel, by constructor <;> decide +kernel,
    rfl, by decide +kernel, fun n h => by interval_cases n <;> constructor <;> decide +kernel, by decide +kernel⟩,
   ⟨vg vc (cwsn 3), false, [], vc, ag, cwv 0, 1, 10, 3, by constructor <;> decide +kernel,
    by constructor <;> decide +kernel, by decide +kernel, by decide +kernel, by constructor <;> decide +kernel,
    by decide +kernel⟩,
   ⟨vg, false, [], vc, ag, by constructor <;> decide +kernel, by decide +kernel⟩,
   ⟨vg vc (fun m => pg (.fch (adrChan ag)) .stopped (cwsn 4 m)), false, [], vc, ag, by constructor <;> decide +kernel,
    by decide +kernel⟩,
   ⟨vg, false, by decide +kernel⟩,
   ⟨vg { vc with walked := true } (cwsn 0), false, { vc with walked := true }, 10, 10, ag, 1, by decide +kernel⟩,
   ⟨U, by decide +kernel⟩,
   ⟨gl [(200, { fc with st := .released, eRel := 5 })], 200, { fc with st := .released, eRel := 5 }, by decide +kernel⟩,
   ⟨gl [(200, rel)], 200, rel, 11, by decide +kernel⟩,
   ⟨gl [(200, fc)], 200, true, true, by decide +kernel, by decide +kernel, by decide +kernel, fun _ _ _ _ => rfl⟩,
   ⟨U, 200, true, true, by decide +kernel⟩,
   ⟨dis, 3, 1, 200, by decide +kernel, by decide +kernel, fun _ _ => rfl⟩,
   ⟨dis, 3, 1, 200, 4296, by decide +kernel⟩,
   ⟨U, 3, 1, 200, true, by decide +kernel⟩⟩

end PlacementAndGleaning

/-! ### The headland; DRAM; Temperature, power and clocks -/

namespace HeadlandAndDram

/-! DRAM syndromes and a headland with an open furrow. -/

def M (f : Mach → Mach) : MState := S (f up)
def sy (l : List (Fin 5)) (n : Nat) : DramSyndrome := { symbols := n, devices := l, pins := 3 }
def hb : Mach := { up with adm := { board := { targets := 1, dies := 1, planes := 1, pages := 64, blocks := 256 } }
                           hdl := { opn := some 9, fur := [(9, { st := .opn, fsn := 3, absent := 0, used := 2 })], nextRec := 5, nextPos := 6, epoch := 4 }
                           buf := { wsn := 10, fsn := 11 } }
def H (f : Headland → Headland) : MState := S (hb.updHdl f)
def rr (id : Nat) (b : HBody) : HRec := { id := id, body := b, epoch := 4, flying := false, durable := false, furs := [9], pos := 1 }

/-- States and operands that meet the hypotheses of Headland, clause by clause. -/
theorem test_witness_Headland :
    (∃ (s : State), (∀ v, (s.m.volu v).op = none ∨ (s.m.volu v).worked = true) ∧ (s.m.hdlUp = false)) ∧
    (∃ (s : State) (k : Nat), (∀ v, (s.m.volu v).op = none ∨ (s.m.volu v).worked = true) ∧ (s.m.hdlUp = true) ∧
    (∀ r ∈ s.m.hdl.log, r.flying = true → s.m.recQueued r.id = true) ∧ (s.m.hdl.needRoot = true) ∧ (s.m.hdl.opn = some k)
    ∧ ((s.m.hfur k).used + 1 ≤ s.m.hfurCap (s.m.hfur k))) ∧
    (∃ (s : State) (k id : Nat) (b : HBody) (ws : List (Nat × HBody)),
    (∀ v, (s.m.volu v).op = none ∨ (s.m.volu v).worked = true) ∧ (s.m.hdlUp = true) ∧
    (∀ r ∈ s.m.hdl.log, r.flying = true → s.m.recQueued r.id = true) ∧ (s.m.hdl.needRoot = false) ∧ (s.m.hdlSegs = true) ∧
    (s.m.rewriteSeg = none) ∧ (s.m.hdl.want = (id, b) :: ws) ∧ (b.first = true) ∧ (s.m.hdl.opn = some k) ∧
    ((s.m.hfur k).used + s.m.recCws b ≤ s.m.hfurCap (s.m.hfur k))) ∧
    (∃ (s : State) (k id : Nat) (d : Defn), (∀ v, (s.m.volu v).op = none ∨ (s.m.volu v).worked = true) ∧
    (s.m.hdlUp = true) ∧ (∀ r ∈ s.m.hdl.log, r.flying = true → s.m.recQueued r.id = true) ∧ (s.m.hdl.needRoot = false) ∧
    (s.m.hdlSegs = false ∨ s.m.rewriteSeg = none) ∧ (s.m.hdl.want = [(id, .definition d)]) ∧ (s.m.hdlLow = false) ∧
    (s.m.hdl.opn = some k) ∧ ((s.m.hfur k).used + 2 ≤ s.m.hfurCap (s.m.hfur k))) ∧
    (∃ (s : State) (k sg : Nat), (∀ v, (s.m.volu v).op = none ∨ (s.m.volu v).worked = true) ∧ (s.m.hdlUp = true) ∧
    (∀ r ∈ s.m.hdl.log, r.flying = true → s.m.recQueued r.id = true) ∧ (s.m.hdl.needRoot = false) ∧ (s.m.hdlSegs = true) ∧
    (s.m.rewriteSeg = none) ∧ (s.m.hdl.want = []) ∧ (s.m.hdlLow = false) ∧ (s.m.scrubNext = none) ∧
    (s.m.hdl.sinceDir < s.m.rdN Reg.HDL_DIRINT) ∧ (s.m.nextDirty = some sg) ∧ (s.m.hdl.opn = some k) ∧ (∀ full l, l = (if
    sg < s.m.mapSegs then s.m.segDelta sg else []) → (s.m.hfur k).used + s.m.recCws (.seg sg full l) + 1 ≤ s.m.hfurCap
    (s.m.hfur k))) ∧
    (∃ (s : State), (∀ r, s.m.hdl.log.find? (fun r => !r.durable) = some r → r.flying = true) ∧ (s.m.Calm)) ∧
    (∃ (s : State) (r : HRec) (k e h : Nat), (s.m.hdl.log.find? (fun r => !r.durable) = some r) ∧ (r.flying = false) ∧
    (r.body = .nonce k e h) ∧ (∀ w ∈ s.m.hdl.waiters, w.1 ≠ r.id) ∧ ((s.m.nslot k).epoch = e) ∧ (s.m.Calm)) ∧
    (∃ (s : State) (r : HRec) (p : Port) (k : Nat) (d : Defn), (s.m.hdl.log.find? (fun r => !r.durable) = some r) ∧
    (r.flying = false) ∧ (r.body = .definition d) ∧ (s.m.hdl.waiters = [(r.id, false, .keyImport p k)]) ∧ (s.m.Calm)) ∧
    (∃ (s : State) (r : HRec) (c : Ckpt), (s.m.hdl.log.find? (fun r => !r.durable) = some r) ∧ (r.flying = false) ∧
    (r.body = .root c) ∧ (c.clean = false) ∧ (s.m.hdl.waiters = []) ∧ (∀ k, (s.m.hfur k).st ≠ .released) ∧
    (s.m.dev.startRoot = false) ∧ (s.m.Calm)) ∧
    (∃ (s : State) (r x : HRec) (c : Ckpt) (p : Port) (w : Waiter), (s.m.hdl.log.find? (fun r => !r.durable) = some r) ∧
    (r.flying = false) ∧ (r.body = .root c) ∧ (c.clean = false) ∧ (w = .feature p ∨ w = .keyRetire p) ∧
    (s.m.hdl.waiters = [(x.id, true, w)]) ∧ (r.id ≠ x.id) ∧ (x ∈ s.m.hdl.log) ∧ (x.durable = true) ∧ (x.epoch ≤ c.epoch) ∧
    (∀ k, (s.m.hfur k).st ≠ .released) ∧ (s.m.dev.startRoot = false) ∧ (s.m.Calm)) ∧
    (∃ (s : State) (r : HRec) (c : Ckpt), (s.m.hdl.log.find? (fun r => !r.durable) = some r) ∧ (r.flying = false) ∧
    (r.body = .root c) ∧ (c.clean = true) ∧ (s.m.hdl.waiters = []) ∧ (∀ k, (s.m.hfur k).st ≠ .released) ∧
    (s.m.dev.startRoot = false) ∧ (s.m.dev.phase = .checkpoint) ∧ (s.m.dev.orderly = false) ∧ (s.m.dev.pf = .none) ∧
    (s.m.Calm)) ∧
    (∃ (s : State) (k : Nat), ((s.m.oldestClosed.toList ++ s.m.scrubFurs).find? s.m.releasable = some k)) ∧
    (∃ (s : State), ((s.m.oldestClosed.toList ++ s.m.scrubFurs).find? s.m.releasable = none)) ∧
    (∃ (s : State), (s.m.hdl.dumpValid = true) ∧ (s.m.running .hdl = true) ∧ (s.m.dumpDurable = true)) ∧
    (∃ (s : State), (s.m.hdl.dumpValid = false ∨ s.m.running .hdl = false ∨ s.m.dumpDurable = false)) :=
  ⟨⟨boot, by decide +kernel⟩,
   ⟨H fun h => { h with needRoot := true }, 9, by decide +kernel⟩,
   ⟨H fun h => { h with want := [(2, .furrowOpen 7 3 2 false 0), (3, .poison 1 2 3)] }, 9, 2, .furrowOpen 7 3 2 false 0,
    [(3, .poison 1 2 3)], by decide +kernel⟩,
   ⟨H fun h => { h with want := [(2, .definition {})] }, 9, 2, {}, by decide +kernel⟩,
   ⟨S (({ hb with adm := { board := { hb.adm.board with pages := 128, slcPages := 128 } } } : Mach).updHdl fun h => { h with seg := [(0, { dirty := true, cov := 3 })] }),
    9, 0, by decide +kernel, by decide +kernel, by decide +kernel, by decide +kernel, by decide +kernel,
    by decide +kernel, by decide +kernel, by decide +kernel, by decide +kernel, by decide +kernel, by decide +kernel,
    by decide +kernel, by intro full l h; subst h; cases full <;> decide +kernel⟩,
   ⟨H fun h => { h with log := [{ id := 1, body := .directory, epoch := 1, flying := true, durable := false, furs := [9], pos := 1 }] },
    by decide +kernel, by constructor <;> decide +kernel⟩,
   ⟨H fun h => { h with log := [rr 1 (.nonce 1024 0 77)], waiters := [(2, true, .feature .p0)] }, rr 1 (.nonce 1024 0 77),
    1024, 0, 77, by decide +kernel, by decide +kernel, by decide +kernel, by decide +kernel, by decide +kernel,
    by constructor <;> decide +kernel⟩,
   ⟨H fun h => { h with log := [rr 1 (.definition {})], waiters := [(1, false, .keyImport .p0 3)] },
    rr 1 (.definition {}), .p0, 3, {}, by decide +kernel, by decide +kernel, by decide +kernel, by decide +kernel,
    by constructor <;> decide +kernel⟩,
   ⟨H fun h => { h with log := [rr 1 (.root { epoch := 5 })] }, rr 1 (.root { epoch := 5 }), { epoch := 5 },
    by decide +kernel, by decide +kernel, by decide +kernel, by decide +kernel, by decide +kernel,
    unreleased (by decide +kernel), by decide +kernel, by constructor <;> decide +kernel⟩,
   ⟨H fun h => { h with log := [{ rr 0 (.definition {}) with durable := true }, rr 1 (.root { epoch := 5 })], waiters := [(0, true, .feature .p1)] },
    rr 1 (.root { epoch := 5 }), { rr 0 (.definition {}) with durable := true }, { epoch := 5 }, .p1, .feature .p1,
    by decide +kernel, by decide +kernel, by decide +kernel, by decide +kernel, by decide +kernel, by decide +kernel,
    by decide +kernel, by decide +kernel, by decide +kernel, by decide +kernel, unreleased (by decide +kernel),
    by decide +kernel, by constructor <;> decide +kernel⟩,
   ⟨S ((hb.updHdl fun h => { h with log := [rr 1 (.root { epoch := 5, clean := true })] }).updDev fun d => { d with phase := .checkpoint }),
    rr 1 (.root { epoch := 5, clean := true }), { epoch := 5, clean := true }, by decide +kernel, by decide +kernel,
    by decide +kernel, by decide +kernel, by decide +kernel, unreleased (by decide +kernel), by decide +kernel,
    by decide +kernel, by decide +kernel, by decide +kernel, by constructor <;> decide +kernel⟩,
   ⟨H fun h => { h with fur := [(9, { st := .opn, fsn := 3 }), (10, { st := .closed, fsn := 2 })] }, 10,
    by decide +kernel⟩,
   ⟨H id, by decide +kernel⟩,
   ⟨H fun h => { h with dumpValid := true, dumpWait := [3] }, by decide +kernel⟩,
   ⟨U, by decide +kernel⟩⟩

/-- States and operands that meet the hypotheses of Dram, clause by clause. -/
theorem test_witness_Dram :
    (∃ (s : State) (d : Fin 4) (b r1 e : Bool) (x : DramSyndrome) (u : DramUser), (s.m.running (.drc d) = false)) ∧
    (∃ (s : State) (d : Fin 4) (b r1 : Bool) (x : DramSyndrome) (u : DramUser), (x.devices = [])) ∧
    (∃ (s : State) (d : Fin 4) (b r1 : Bool) (x : DramSyndrome) (u : DramUser), (s.m.running (.drc d) = true) ∧
    (x.devices = [])) ∧
    (∃ (s : State) (d : Fin 4) (b r1 : Bool) (x : DramSyndrome) (u : DramUser) (v : Fin 5) (k : Nat),
    (s.m.running (.drc d) = true) ∧ (x.devices = [v]) ∧ (x.symbols ≤ 8) ∧
    (SMap.get 0 (s.m.dram d).marked (subRank b r1) = 0) ∧ (k = devKey (subRank b r1) v.val) ∧
    (SMap.get 0 (s.m.dram d).devCe k + 1 < 65536) ∧
    (SMap.get 0 (s.m.dram d).devCe k + 1 < s.m.rdN (drcReg d Reg.DRC_SPARETHR))) ∧
    (∃ (s : State) (d : Fin 4) (b r1 : Bool) (x : DramSyndrome) (u : DramUser) (v : Fin 5) (k : Nat),
    (s.m.running (.drc d) = true) ∧ (x.devices = [v]) ∧ (x.symbols ≤ 8) ∧
    (SMap.get 0 (s.m.dram d).marked (subRank b r1) = 0) ∧ (k = devKey (subRank b r1) v.val) ∧
    (s.m.rdN (drcReg d Reg.DRC_SPARETHR) ≤ SMap.get 0 (s.m.dram d).devCe k + 1) ∧
    (SMap.get 0 (s.m.dram d).devCe k + 1 < 65536)) ∧
    (∃ (s : State) (d : Fin 4) (b r1 : Bool) (x : DramSyndrome) (u : DramUser) (i : Nat), (s.m.running (.drc d) = true) ∧
    (2 ≤ x.devices.length ∨ (∃ v, x.devices = [v] ∧ 8 < x.symbols ∧ SMap.get 0 (s.m.dram d).marked (subRank b r1) = 0)) ∧
    (u = .unused ∨ (u = .mapEntry i ∧ s.m.vol.recov = none))) ∧
    (∃ (s : State) (d : Fin 4) (b ok : Bool), (s.m.dramLive d = false)) ∧
    (∃ (s : State) (d : Fin 4) (b : Bool), (s.m.dramLive d = true)) ∧
    (∃ (s : State) (d : Fin 4) (b : Bool), (s.m.dramLive d = true)) ∧
    (∃ (s : State) (d : Fin 4), (s.m.dramLive d = true) ∧ (3 ≤ (s.m.dram d).fails) ∧ (s.m.dev.st ≠ .failed)) ∧
    (∃ (s : State) (d : Fin 4), (s.m.dramLive d = false ∨ (s.m.dram d).fails < 3)) ∧
    (∃ (s : State) (d : Fin 4) (mr4 : BitVec 3) (low high : Bool), (s.m.dramLive d = false)) ∧
    (∃ (s : State) (d : Fin 4) (mr4 : BitVec 3) (low high : Bool) (e : Nat × Nat × Nat × Nat), (s.m.dramLive d = true) ∧
    (e = SMap.get (0, 0, 0, 0) (s.m.dram d).eye (s.m.dram d).nextLane)) ∧
    (∃ (s : State) (d : Fin 4) (mr4 : BitVec 3) (low high : Bool), (s.m.dramLive d = true) ∧ (2 < mr4.toNat) ∧
    ((s.m.dram d).doubled = false)) :=
  ⟨⟨M (pg (.drc 1) .stopped), 1, true, false, true, sy [1] 2, .unused, by decide +kernel⟩,
   ⟨U, 1, true, false, sy [] 0, .unused, by decide +kernel⟩,
   ⟨M (fun m => m.setDram 1 { devCe := [(3, 4)], passPins := [(3, 1)] }), 1, true, false, sy [] 0, .unused,
    by decide +kernel⟩,
   ⟨U, 1, true, true, sy [2] 8, .unused, 2, 17, by decide +kernel⟩,
   ⟨M (fun m => m.setDram 1 { devCe := [(17, 1023)], passPins := [(17, 4)] }), 1, true, true, sy [2] 8, .unused, 2, 17,
    by decide +kernel⟩,
   ⟨U, 1, true, true, sy [2, 3] 8, .unused, 5, by decide +kernel⟩,
   ⟨U, 1, true, true, by decide +kernel⟩,
   ⟨M (fun m => m.setDram 1 { trained := true, fails := 2 }), 1, true, by decide +kernel⟩,
   ⟨M (fun m => m.setDram 1 { trained := true, fails := 2 }), 1, true, by decide +kernel⟩,
   ⟨M (fun m => m.setDram 1 { trained := true, fails := 3 }), 1, by decide +kernel⟩,
   ⟨M (fun m => m.setDram 1 { trained := true, fails := 2 }), 1, by decide +kernel⟩,
   ⟨U, 1, 3, true, false, by decide +kernel⟩,
   ⟨M (fun m => m.setDram 1 { trained := true, eye := [(0, 5, 5, 1, 1)] }), 1, 6, false, true, (5,5,1,1),
    by decide +kernel⟩,
   ⟨M (fun m => m.setDram 1 { trained := true }), 1, 7, true, false, by decide +kernel⟩⟩

/-- States and operands that meet the hypotheses of Temperature, clause by clause. -/
theorem test_witness_Temperature :
    (∃ (s : State) (a : Agent) (mask : BitVec 16), (s.m.running .thm = true)) ∧
    (∃ (s : State) (a : Agent) (mask : BitVec 16), (s.m.pageSt .thm ≠ .running) ∧ (s.m.pageSt .thm ≠ .off)) ∧
    (∃ (s : State) (h : Port) (mask : BitVec 16), (s.m.pageSt .thm = .off)) ∧
    (∃ (s : State) (dies : List Int), (s.m.dev.fwRunning = false ∨ s.m.adm.now.thermMs = 0)) ∧
    (∃ (s : State) (dies : List Int), (s.m.dev.fwRunning = true) ∧ (s.m.adm.now.thermMs ≠ 0)) ∧
    (∃ (s : State) (i : Fin 16) (x : Int) (stamp : BitVec 48), ((s.m.sens i).busy = false)) ∧
    (∃ (s : State) (i : Fin 16) (x y : Int) (stamp : BitVec 48), ((s.m.sens i).busy = true) ∧ ((s.m.sens i).ref = none) ∧
    (y = clampTemp x)) ∧
    (∃ (s : State) (i : Fin 16) (x y z : Int) (stamp since0 : BitVec 48), ((s.m.sens i).busy = true) ∧
    ((s.m.sens i).ref = some (z, since0)) ∧ (y = clampTemp x) ∧ (s.m.running .snf = false) ∧
    (max 1 (s.m.rdN Reg.THM_MINDT) ≤ since since0 stamp)) ∧
    (∃ (s : State) (i : Fin 16) (x z : Int) (stamp since0 : BitVec 48), ((s.m.sens i).busy = true) ∧
    ((s.m.sens i).ref = some (z, since0)) ∧ (s.m.running .snf = true) ∧
    (max 1 (s.m.rdN Reg.THM_MINDT) ≤ since since0 stamp) ∧ (s.m.thm.down ≠ some (s.m.sens i).batch) ∧
    (s.m.thm.up ≠ some (s.m.sens i).batch) ∧
    ((s.m.rdN Reg.THM_RISEHI : Int) < riseRate (clampTemp x) z (since since0 stamp))) ∧
    (∃ (s : State) (i : Fin 16) (x z : Int) (stamp since0 : BitVec 48), ((s.m.sens i).busy = true) ∧
    ((s.m.sens i).ref = some (z, since0)) ∧ (s.m.running .snf = true) ∧
    (max 1 (s.m.rdN Reg.THM_MINDT) ≤ since since0 stamp) ∧ (s.m.thm.down = some (s.m.sens i).batch) ∧
    ((s.m.rdN Reg.THM_RISEHI : Int) < riseRate (clampTemp x) z (since since0 stamp))) ∧
    (∃ (s : State) (i : Fin 16) (x z : Int) (stamp since0 : BitVec 48), ((s.m.sens i).busy = true) ∧
    ((s.m.sens i).ref = some (z, since0)) ∧ (s.m.running .snf = true) ∧
    (max 1 (s.m.rdN Reg.THM_MINDT) ≤ since since0 stamp) ∧
    (riseRate (clampTemp x) z (since since0 stamp) ≤ (s.m.rdN Reg.THM_RISEHI : Int)) ∧
    (riseRate (clampTemp x) z (since since0 stamp) ≤ (s.m.rdN Reg.THM_RISELO : Int)) ∧
    (1000 * s.m.rdN Reg.SNF_HOLD ≤ since s.m.thm.holdFrom stamp) ∧ (1 ≤ s.m.thm.intervals) ∧
    (s.m.thm.level < bits (s.m.rdN Reg.SNF_CEIL) 3 0)) ∧
    (∃ (s : State) (a : Agent) (l : BitVec 4), (s.m.running .snf = true) ∧ (l.toNat < s.m.thm.level)) ∧
    (∃ (s : State) (a : Agent) (l : BitVec 4), (s.m.pageSt .snf ≠ .off) ∧
    (s.m.running .snf = false ∨ s.m.thm.level ≤ l.toNat)) ∧
    (∃ (s : State), (s.m.fl.trip = false)) ∧
    (∃ (s : State), (s.m.fl.trip = true)) ∧
    (∃ (s : State), (s.m.fl.trip = true) ∧ (s.m.dev.pf = .none) ∧ (s.m.running .snf = false)) ∧
    (∃ (s : State) (l : Nat), (s.m.fl.trip = true) ∧ (s.m.dev.pf = .none) ∧ (s.m.running .snf = true) ∧
    (l = bits (s.m.rdN Reg.SNF_TRIPLVL) 3 0) ∧ (l < s.m.thm.level)) ∧
    (∃ (s : State), (s.m.fl.trip = false)) :=
  ⟨⟨M fun m => m.setSens 2 { busy := true }, .p0, 0x8005, by decide +kernel⟩,
   ⟨M (pg .thm .stopped), .mgmt, 1, by decide +kernel⟩,
   ⟨M (pg .thm .off), .p1, 1, by decide +kernel⟩,
   ⟨boot, [], by decide +kernel⟩,
   ⟨U, [30, 40], by decide +kernel⟩,
   ⟨U, 3, 100, 7, by decide +kernel⟩,
   ⟨M (fun m => (m.setSens 3 { busy := true }).updThm fun t => { t with task := 8 }), 3, 5000, 2047, 7, by decide +kernel⟩,
   ⟨M (fun m => pg .snf .stopped (m.setSens 3 { busy := true, ref := some (80, 0) })), 3, 100, 100, 80, 100000, 0,
    by decide +kernel⟩,
   ⟨M (fun m => (m.setSens 3 { busy := true, ref := some (80, 0) })), 3, 1000, 80, 100000, 0, by decide +kernel⟩,
   ⟨M (fun m => (m.setSens 3 { busy := true, batch := 7, ref := some (80, 0) }).updThm fun t => { t with down := some 7 }),
    3, 1000, 80, 100000, 0, by decide +kernel⟩,
   ⟨M (fun m => (m.setSens 3 { busy := true, ref := some (80, 0) }).updThm fun t => { t with level := 5, intervals := 1 }),
    3, 80, 80, 100000000, 0, by decide +kernel⟩,
   ⟨U, .p0, 3, by decide +kernel⟩,
   ⟨U, .p0, 15, by decide +kernel⟩,
   ⟨M (fun m => m.setDie (dieOf 3 2) { erun := some 7, suspends := 1 }), by decide +kernel⟩,
   ⟨M (fun m => m.updFl fun f => { f with trip := true }), by decide +kernel⟩,
   ⟨M (fun m => pg .snf .stopped (m.updFl fun f => { f with trip := true })), by decide +kernel⟩,
   ⟨M (fun m => (m.updFl fun f => { f with trip := true }).updThm fun t => { t with level := 9 }), 7, by decide +kernel⟩,
   ⟨U, by decide +kernel⟩⟩

end HeadlandAndDram

/-! ### Temperature, power and clocks; The Almanac; The test access port -/

namespace PowerAlmanacTap

/-! Almanac records and power domains. -/

def rc : AlmRec := { seq := 5, pot := 1, pcc := 1, sev := .warn, src := 0x13, rep := 0, pinned := false, body := .event 16 0 7 [], persisted := false }
def al (a : Alm) : MState := S { up with alm := a }
def lk (d : Mach → Mach) : MState := S (d up)

/-- States and operands that meet the hypotheses of PowerAndClocks, clause by clause. -/
theorem test_witness_PowerAndClocks :
    (∃ (s : State) (a : Agent) (d : Fin 64), (s.m.domMay a = true) ∧ (fixedDomain d.val = false) ∧
    (s.m.thm.switching = none) ∧ (∀ p, pageDomain p = d.val → s.m.pageSt p = .stopped) ∧ (s.m.Calm)) ∧
    (∃ (s : State) (a : Agent) (d : Fin 64), (s.m.domMay a = true) ∧ (fixedDomain d.val = false) ∧
    (s.m.thm.switching = none) ∧ (s.m.domainIsOn d.val = false)) ∧
    (∃ (s : State) (a : Agent) (d : Fin 64), (s.m.domMay a = true) ∧ (fixedDomain d.val = false) ∧
    (s.m.thm.switching = none) ∧ (s.m.domainIsOn d.val = true)) ∧
    (∃ (s : State) (a : Agent) (d : Fin 64) (c : Instr) (cause : Nat), (s.m.domMay a = true) ∧ ((c = .powerDomainOff a d ∨
    c = .powerDomainOn a d) ∧ (if fixedDomain d.val then cause = 1 else s.m.thm.switching.isSome = true ∧ cause = 2) ∨ (c
    = .powerDomainOff a d ∧ fixedDomain d.val = false ∧ s.m.thm.switching = none ∧ (∃ p, pageDomain p = d.val ∧ s.m.pageSt
    p ≠ .stopped) ∧ cause = 3)) ∧ (s.m.Calm)) ∧
    (∃ (s : State) (h : Port) (d : Fin 64) (c : Instr), ((s.m.port.get h).unlocked = false) ∧
    (c = .powerDomainOff h.agent d ∨ c = .powerDomainOn h.agent d) ∧ (s.m.Calm)) ∧
    (∃ (s : State), (s.m.thm.switching = none)) ∧
    (∃ (s : State) (d : Fin 64) (on : Bool), (s.m.thm.switching = some (d, on)) ∧ (fixedDomain d.val = false)) ∧
    (∃ (s : State) (p : Pll), (s.m.dev.st ≠ .failed) ∧ (s.m.adm.bg = none) ∧ (p = .mclk ∨ p = .qclk ∨ p = .aclk) ∧
    (s.m.Calm)) ∧
    (∃ (s : State) (p : Pll), (s.m.adm.bg = none) ∧ (p = .twclk ∨ (∃ g, p = .fclk g)) ∧ (s.m.Calm)) ∧
    (∃ (s : State) (p : Pll), ((s.m.setLock p true).canBoot = false)) ∧
    (∃ (s : State) (p : Pll), ((s.m.setLock p true).canBoot = true)) :=
  ⟨⟨lk fun m => ((m.setPageSt .sow .stopped)), .mgmt, 12, by decide +kernel, by decide +kernel, by decide +kernel,
    by intro p; cases p <;> first | decide +kernel | (rename_i x; revert x; decide +kernel) | (rename_i x; cases x <;> decide +kernel),
    by constructor <;> decide +kernel⟩,
   ⟨S { up with thm := { domOn := 1 } }, .mgmt, 12, by decide +kernel⟩,
   ⟨U, .mgmt, 12, by decide +kernel⟩,
   ⟨U, .mgmt, 2, Instr.powerDomainOff .mgmt 2, 1, by decide +kernel, Or.inl ⟨Or.inl rfl, by decide +kernel⟩,
    by constructor <;> decide +kernel⟩,
   ⟨U, .p0, 12, Instr.powerDomainOn .p0 12, by decide +kernel, by decide +kernel, by constructor <;> decide +kernel⟩,
   ⟨U, by decide +kernel⟩,
   ⟨S { (up.wr 0x13044 7) with thm := { domOn := 1, switching := some (12, true) } }, 12, true, by decide +kernel⟩,
   ⟨U, Pll.mclk, by decide +kernel, by decide +kernel, by decide +kernel, by constructor <;> decide +kernel⟩,
   ⟨U, Pll.twclk, by decide +kernel, by decide +kernel, by constructor <;> decide +kernel⟩,
   ⟨U, Pll.fclk 3, by decide +kernel⟩,
   ⟨S { State.reset.m with dev := { mclk := true } }, Pll.aclk, by decide +kernel⟩⟩

/-- States and operands that meet the hypotheses of Almanac, clause by clause. -/
theorem test_witness_Almanac :
    (∃ (s : State), (s.m.alm.opn = none)) ∧
    (∃ (s : State) (i : Nat) (r : AlmRec), (s.m.alm.opn = some i) ∧ (s.m.almAt i = some r) ∧ (r.sev ≠ .crit) ∧
    (bitOf (s.m.rdN Reg.ALM_EXPORT) 2 = false ∨ r.sev.num < bits (s.m.rdN Reg.ALM_EXPORT) 1 0)) ∧
    (∃ (s : State) (i : Nat) (r : AlmRec), (s.m.alm.opn = some i) ∧ (s.m.almAt i = some r) ∧ (r.sev ≠ .crit) ∧
    (bitOf (s.m.rdN Reg.ALM_EXPORT) 2 = true) ∧ (bits (s.m.rdN Reg.ALM_EXPORT) 1 0 ≤ r.sev.num) ∧ (32 ≤ s.m.pffFree 0) ∧
    ((s.m.fifo 0).stalled = none) ∧ (s.m.running (.pff 0) = true) ∧ ((s.m.fifo 0).opn = [])) ∧
    (∃ (s : State) (i : Nat) (r : AlmRec), (s.m.alm.opn = some i) ∧ (s.m.almAt i = some r) ∧ (r.sev ≠ .crit) ∧
    (bitOf (s.m.rdN Reg.ALM_EXPORT) 2 = true) ∧ (bits (s.m.rdN Reg.ALM_EXPORT) 1 0 ≤ r.sev.num) ∧ (s.m.pffFree 0 < 32)) ∧
    (∃ (s : State) (bad : List Nat) (ok : Bool),
    (s.m.almBuffered = true ∨ s.m.almCanWrite = false ∨ s.m.almUnpersisted = [])) ∧
    (∃ (s : State), (s.m.almBuffered = false) ∧ (s.m.almCanWrite = true) ∧ (s.m.almUnpersisted ≠ []) ∧
    (s.m.alm.pers.length + s.m.almUnpersisted.length ≤ 131072)) ∧
    (∃ (s : State) (h : Port) (on : Bool) (c : Instr), (c = .almFlushRequest h.agent ∨ c = .almBufreqWrite h.agent on)) ∧
    (∃ (s : State), (s.m.almCanWrite = false)) ∧
    (∃ (s : State), (s.m.almCanWrite = true)) ∧
    (∃ (s : State) (on : Bool), (s.m.almBuffered = false ∨ on = true ∨ s.m.alm.buffered = true ∨ s.m.dev.recovery = true)) ∧
    (∃ (s : State), (s.m.alm.bufReq = true) ∧ (s.m.alm.buffered = false) ∧ (s.m.dev.recovery = false) ∧
    (s.m.almCanWrite = true)) ∧
    (∃ (s : State), (s.m.dev.pwrgd = false ∨ (s.m.alm.pot - s.m.alm.lastPot).toNat < 64)) ∧
    (∃ (s : State) (i : Nat), (s.m.dev.pwrgd = true) ∧ (64 ≤ (s.m.alm.pot - s.m.alm.lastPot).toNat) ∧
    (s.m.almBuffered = true) ∧ (s.m.alm.opn = none) ∧ (s.m.almFreeSlot = some i)) ∧
    (∃ (s : State), (s.m.dev.pwrgd = false)) ∧
    (∃ (s : State), (s.m.dev.pwrgd = true) ∧ (s.m.almBuffered = true) ∧ (s.m.alm.ring = []) ∧ (s.m.alm.opn = none)) ∧
    (∃ (s : State), (s.m.dev.pwrgd = true)) ∧
    (∃ (s : State), (s.m.dev.pwrgd = false)) :=
  ⟨⟨U, by decide +kernel⟩,
   ⟨al { ring := [(3, rc)], opn := some 3 }, 3, rc, by decide +kernel⟩,
   ⟨S ({ up with alm := { ring := [(3, rc)], opn := some 3 } }.wr Reg.ALM_EXPORT 5), 3, rc, by decide +kernel⟩,
   ⟨S (({ up with alm := { ring := [(3, rc)], opn := some 3 } }.wr Reg.ALM_EXPORT 5).setFifo 0 { vis := List.replicate 1000 (0, false) }),
    3, rc, by decide +kernel⟩,
   ⟨U, [], true, by decide +kernel⟩,
   ⟨al { ring := [(3, rc), (1, { rc with seq := 4 })], opn := some 3, buffered := false }, by decide +kernel⟩,
   ⟨U, .p0, true, Instr.almFlushRequest .p0, by decide +kernel⟩,
   ⟨S (pg .alm .stopped up), by decide +kernel⟩,
   ⟨al { ring := [(3, rc), (1, { rc with seq := 4 })], opn := some 3, buffered := false }, by decide +kernel⟩,
   ⟨U, true, by decide +kernel⟩,
   ⟨al { ring := [(3, rc), (1, { rc with seq := 4 })], opn := some 3, buffered := false, bufReq := true },
    by decide +kernel⟩,
   ⟨U, by decide +kernel⟩,
   ⟨al { pot := 64, buffered := true, ring := [(0,rc)] }, 1, by decide +kernel⟩,
   ⟨S { up with dev := { up.dev with pwrgd := false } }, by decide +kernel⟩,
   ⟨al { pot := 64, buffered := true }, by decide +kernel⟩,
   ⟨U, by decide +kernel⟩,
   ⟨S { up with dev := { up.dev with pwrgd := false } }, by decide +kernel⟩⟩

/-- States and operands that meet the hypotheses of TestAccessPort, clause by clause. -/
theorem test_witness_TestAccessPort :
    (∃ (s : State) (c : Instr), (s.m.dev.resetN = true) ∧ (c = .extest ∨ c = .highz ∨ c = .clamp)) ∧
    (∃ (s : State) (c : Instr) (i : TapIr), (s.m.dev.resetN = false) ∧
    ((c = .highz ∧ i = .highz) ∨ (c = .clamp ∧ i = .clamp))) ∧
    (∃ (s : State), (s.m.dev.resetN = false)) :=
  ⟨⟨U, Instr.extest, by decide +kernel⟩,
   ⟨S { up with dev := { up.dev with resetN := false } }, Instr.clamp, TapIr.clamp, by decide +kernel⟩,
   ⟨S { up with dev := { up.dev with resetN := false } }, by decide +kernel⟩⟩

end PowerAlmanacTap

end Sys2Proof.Tests
end

/-! Register access (O7): where an access of 32 bits lands, what each access code does there, and the two probes that a register
write starts (R9, R34, R253, R318, R452, Table 00.3). -/

namespace Sys2Proof.Machine

/-! ### Addresses of pages -/

theorem pageBase_mod (p : Page) : p.base % 0x1000 = 0 := by
  rcases p with _ | (_ | _) | _ | _ | _ | _ | _ | _ | _ | _ | _ | _ | _ | _ | _ | _ | _ | _ | _ | _ | _ | c | d | _ | n <;>
    simp only [Page.base] <;> omega

/-- Only the number of the 4 KiB frame tells the page. -/
theorem pageAt_congr {x y : Nat} (h : x / 0x1000 = y / 0x1000) : pageAt x = pageAt y := by
  unfold pageAt
  dsimp only
  congr! 4 <;> congr!

theorem pageAt_base (p : Page) : pageAt p.base = some p := by
  rcases p with _ | (_ | _) | _ | _ | _ | _ | _ | _ | _ | _ | _ | _ | _ | _ | _ | _ | _ | _ | _ | _ | _ | c | d | _ | n
  case fch => revert c; decide
  case drc => revert d; decide
  case pff => revert n; decide
  all_goals rfl

theorem pageAt_base_add (p : Page) {o : Nat} (ho : o < 0x1000) : pageAt (p.base + o) = some p := by
  have hm := pageBase_mod p
  rw [pageAt_congr (y := p.base) (by omega), pageAt_base]

theorem rowAt_base_add (p : Page) {o : Nat} (ho : o < 0x1000) : rowAt (p.base + o) = rowOf (p.typeCode * 0x1000 + o) := by
  have hb := pageBase_mod p
  have hm : (p.base + o) % 0x1000 = o := by omega
  unfold rowAt
  rw [pageAt_base_add p ho, hm]

/-- The pages of Table 02.2 lie below 0x50000. -/
theorem pageAt_lt {off : Nat} {p : Page} (h : pageAt off = some p) : off < 0x50000 := by
  by_contra hn
  unfold pageAt at h
  dsimp only at h
  rw [dif_neg (by omega), dif_neg (by omega), dif_neg (by omega)] at h
  split at h
  case h_24 => contradiction
  all_goals omega

theorem pageOf_lt {a : Agent} {off : Nat} {p : Page} (h : pageOf a off = some p) : off < 0x50000 := by
  unfold pageOf at h
  split at h
  · omega
  · contradiction
  · exact pageAt_lt h

theorem pageBase_lt (p : Page) {o : Nat} (ho : o < 0x1000) : p.base + o < 0x50000 := pageAt_lt (pageAt_base_add p ho)

/-- An agent's copies of two registers are two keys. -/
@[simp] theorem bank_inj (a : Agent) {x y : Nat} : bank a x = bank a y ↔ x = y := by simp [bank]

theorem ne_bank_of_lt (a : Agent) {k x : Nat} (h : k < x) : k ≠ bank a x := by
  unfold bank
  omega

/-! ### What an access reaches -/

/-- With nothing waiting for management firmware, no CTRL frame and no mailbox command follows a command. -/
theorem calm_quiet {m : Mach} (h : m.Calm) : m.ctlRun.mailRun = m := by
  obtain ⟨hmail, hin, hout⟩ := h
  have hc : m.ctlRun = m := by
    have he : (m.updTwn fun t => { t with ctlOut := [] }) = m := by
      unfold Mach.updTwn
      rw [← hout]
    unfold Mach.ctlRun
    dsimp only
    rw [hout, he, each_nil', hin, each_nil']
  rw [hc]
  unfold Mach.mailRun
  rw [hmail]
  rfl

theorem calm_of {a b : Mach} (hc : a.Calm) (hq : b.adm.mboxQ = a.adm.mboxQ) (ht : b.twn = a.twn) : b.Calm :=
  ⟨hq.trans hc.mail, by rw [ht]; exact hc.ctlIn, by rw [ht]; exact hc.ctlOut⟩

theorem calm_of_same {a b : Mach} (hc : a.Calm) (h : Mach.SameBut [.reg] a b) : b.Calm :=
  calm_of hc (by rw [same_adm h (by simp)]) (same_twn h (by simp))

/-- An aligned write of 32 bits to a page that is powered is one register write (R34). -/
theorem busWrite_word {m : Mach} {a : Agent} {off : Nat} {v : BitVec 64} {p : Page} (hal : off % 4 = 0) (hp : pageOf a off = some p)
    (hon : m.pageSt p ≠ .off) : m.busWrite a off 4 v = m.writeReg a p (off % 0x1000) (v.setWidth 32) := by
  have hlt := pageOf_lt hp
  have hw : m.writeWord a off (v.setWidth 32) = m.writeReg a p (off % 0x1000) (v.setWidth 32) := by
    unfold Mach.writeWord
    rw [if_neg (by omega), hp]
    simp [hon]
  unfold Mach.busWrite Mach.bar0Write bar2Base
  rw [if_pos (by omega), if_pos ⟨rfl, hal⟩, hw]

/-- A register write completes as `writeReg` says, where that leaves nothing for management firmware to do. -/
theorem completes_registerWrite {s : State} {a : Agent} {off : Nat} {v : BitVec 64} {p : Page} {u : Mach} {P : Mach → Prop}
    (hal : off % 4 = 0) (hp : pageOf a off = some p) (hon : s.m.pageSt p ≠ .off)
    (hu : s.m.writeReg a p (off % 0x1000) (v.setWidth 32) = u) (hc : u.Calm) (hP : P u) : Completes (.registerWrite a off 4 v) s P := by
  refine completes_eq (fun m => (m.busWrite a off 4 v).ctlRun.mailRun) rfl ?_ hP
  rw [busWrite_word hal hp hon, hu, calm_quiet hc]

/-- A register without an effect of its own is written by its access code (Table 00.3). -/
theorem writeReg_code {m : Mach} {a : Agent} {p : Page} {o : Nat} {v : Word} {r : RegRow} (ho : 0x40 ≤ o)
    (hr : rowOf (p.typeCode * 0x1000 + o) = some r) (hm : r.mgmt = false ∨ a = .mgmt) (hs : m.writeSpecial a p o v = none) :
    m.writeReg a p o v = m.writeCode a p o r v := by
  have hd : (r.mgmt && a != .mgmt) = false := by rcases hm with h | h <;> simp [h]
  unfold Mach.writeReg
  rw [if_neg (by omega), hr]
  simp [hd, hs]

/-- A register that only management firmware may write drops a port's write (R9). -/
theorem writeReg_foreign {m : Mach} {h : Port} {p : Page} {o : Nat} {v : Word} {r : RegRow} (ho : 0x40 ≤ o)
    (hr : rowOf (p.typeCode * 0x1000 + o) = some r) (hm : r.mgmt = true) :
    m.writeReg h.agent p o v = m.bump (portReg h Reg.PORT_WDROP) := by
  unfold Mach.writeReg
  rw [if_neg (by omega), hr]
  cases h <;> simp [hm, Port.agent, Mach.wdrop, Agent.port]

/-- A register that takes effect at once is open to every agent, unless it controls the Lantern or the Almanac. -/
def RegRow.liveOpen (r : RegRow) : Bool :=
  match r.acc, r.mgmt with
  | .rl, true => r.key == 0x11040 || r.key == 0x1B040
  | _, _ => true

theorem regTable_liveOpen : regTable.all RegRow.liveOpen = true := by decide +kernel

/-- A register with a copy per agent is a live register that every agent may write. -/
theorem banked_row {key : Nat} {r : RegRow} (hr : rowOf key = some r) (hb : isBanked key = true) : r.acc = .rl ∧ r.mgmt = false := by
  unfold isBanked at hb
  rw [hr] at hb
  simp only [Bool.and_eq_true, beq_iff_eq, bne_iff_ne] at hb
  obtain ⟨⟨⟨⟨hacc, -⟩, hlnt⟩, halm⟩, -⟩ := hb
  refine ⟨hacc, ?_⟩
  unfold rowOf at hr
  split at hr
  case h_1 x hx =>
    obtain rfl : x = r := by simpa using hr
    unfold runRow at hx
    split at hx
    · obtain rfl := Option.some.inj hx; rfl
    · split at hx
      · obtain rfl := Option.some.inj hx; rfl
      · contradiction
  case h_2 =>
    have hk : r.key = key := by simpa using List.find?_some hr
    have ho := List.all_eq_true.1 regTable_liveOpen r (List.mem_of_find?_eq_some hr)
    cases hm : r.mgmt with
    | false => rfl
    | true => simp [RegRow.liveOpen, hacc, hm, hk, hlnt, halm] at ho

/-! ### Registers stored by a write -/

/-- A write that stores one register stores it and changes nothing else. -/
theorem completes_store {s : State} {a : Agent} {off : Nat} {v : BitVec 64} {p : Page} {k : Nat} {w : Word} (hal : off % 4 = 0)
    (hp : pageOf a off = some p) (hon : s.m.pageSt p ≠ .off) (hu : s.m.writeReg a p (off % 0x1000) (v.setWidth 32) = s.m.wr k w)
    (hc : s.m.Calm) : Completes (.registerWrite a off 4 v) s fun t =>
    t.rd k = w ∧ s.m.RegsBut [k] t ∧ s.m.HdrsBut [] t ∧ s.m.SameBut [.reg] t := by
  have hsame : s.m.SameBut [.reg] (s.m.wr k w) := by simp [Mach.SameBut]
  exact completes_registerWrite hal hp hon hu (calm_of_same hc hsame)
    ⟨Mach.rd_wr_same .., fun _ hj => Mach.rd_wr_ne _ _ _ _ (by simpa using hj), fun _ _ => rfl, hsame⟩

/-- A staged register of a STOPPED page stores the bits that it has (R10). -/
theorem writeCode_staged {m : Mach} {a : Agent} {p : Page} {o : Nat} {v : Word} {r : RegRow} (ho : o < 0x1000)
    (hr : rowOf (p.typeCode * 0x1000 + o) = some r) (hacc : r.acc = .rs) (hst : m.pageSt p = .stopped)
    (hsp : ∀ d, p = .drc d → o ≠ Reg.DRC_SPARE) : m.writeCode a p o r v = m.wr (p.base + o) (v &&& BitVec.ofNat 32 r.mask) := by
  have hb := pageBase_mod p
  have hm : (p.base + o) % 0x1000 = o := by omega
  have hs : m.rsStore (p.base + o) (v &&& BitVec.ofNat 32 r.mask) = m.wr (p.base + o) (v &&& BitVec.ofNat 32 r.mask) := by
    unfold Mach.rsStore
    rw [rowAt_base_add p ho, hr, pageAt_base_add p ho, hm]
    split
    case h_1 d e1 e2 =>
      obtain rfl := Option.some.inj e2
      rw [if_neg (hsp _ rfl), ← Option.some.inj e1, BitVec.and_assoc, BitVec.and_self]
    case h_2 e1 e2 => rw [← Option.some.inj e1, BitVec.and_assoc, BitVec.and_self]
    case h_3 => contradiction
  unfold Mach.writeCode
  rw [hacc]
  simp [hst, hs]

/-- On a page that is not STOPPED the write raises bit 0 of PG_ERR (Table 02.5) in place of the store. -/
theorem writeCode_staged_other {m : Mach} {a : Agent} {p : Page} {o : Nat} {v : Word} {r : RegRow} (hacc : r.acc = .rs)
    (hst : m.pageSt p ≠ .stopped) : m.writeCode a p o r v = m.raise p 0 0 := by
  unfold Mach.writeCode
  rw [hacc]
  simp [hst]

/-- A live register with a copy per agent takes the value in the writer's copy. -/
theorem writeCode_banked {m : Mach} {a : Agent} {p : Page} {o : Nat} {v : Word} {r : RegRow} (hacc : r.acc = .rl)
    (hb : isBanked (p.typeCode * 0x1000 + o) = true) (hl : isLowOfPair (p.typeCode * 0x1000 + o) = false) :
    m.writeCode a p o r v = m.wr (bank a (p.base + o)) (v &&& BitVec.ofNat 32 r.mask) := by
  unfold Mach.writeCode
  rw [hacc]
  simp [hb, hl]

theorem writeReg_pgErr (m : Mach) (a : Agent) (p : Page) (v : Word) :
    m.writeReg a p 0x0C v = m.setHdr p { m.hdr p with err := (m.hdr p).err &&& ~~~v } := rfl

/-- Writing records leaves every waiting mailbox command where it is. -/
theorem raise_calm {m : Mach} (hc : m.Calm) (p : Page) (i : Nat) (arg : BitVec 64) : (m.raise p i arg).Calm :=
  calm_of hc (by rw [(recorded_raise m p i arg).adm]; rfl) (same_twn (raise_same m p i arg) (by simp))

/-! ### Reads that change what they read -/

/-- An aligned read of 32 bits answers the register and has the effect that the register's reads have (R34). -/
theorem busAnswer_word {m : Mach} {a : Agent} {off : Nat} {p : Page} (hal : off % 4 = 0) (hp : pageOf a off = some p)
    (hon : m.pageSt p ≠ .off) (hf : ∀ n, p ≠ .pff n) :
    m.busAnswer a off 4 = ((m.readEffect p (off % 0x1000)).send (.reg a 4 (narrow 4 (m.wordAt a p (off % 0x1000))))).draw := by
  have hlt := pageOf_lt hp
  have hw : m.readWord a off = (m.readEffect p (off % 0x1000), m.wordAt a p (off % 0x1000)) := by
    unfold Mach.readWord
    rw [hp]
    cases p
    case pff n => exact absurd rfl (hf n)
    all_goals simp [hon]
  have hr : m.busRead a off 4 = (m.readEffect p (off % 0x1000), narrow 4 (m.wordAt a p (off % 0x1000))) := by
    unfold Mach.busRead Mach.bar0Read bar2Base
    rw [if_pos (by omega), if_neg (by simp), if_pos ⟨by simp, hal⟩]
    simp [hal, hw]
  unfold Mach.busAnswer
  rw [hr]

/-- A value that a block updates (R43, log entry 22): the register of the page takes it and PG_SEQ of that page moves. -/
theorem set_frame (m : Mach) (p : Page) {o : Nat} (ho : o < 0x1000) (v : Word) :
    m.RegsBut [p.base + o] (m.set (p.base + o) v) ∧ m.Stepped p (m.set (p.base + o) v) := by
  have hlt := pageBase_lt p ho
  have hs : m.set (p.base + o) v = (m.wr (p.base + o) v).touch p := by
    unfold Mach.set
    rw [Nat.mod_eq_of_lt (by omega), pageAt_base_add p ho]
  have hh : ∀ q, (m.wr (p.base + o) v).hdr q = m.hdr q := fun _ => rfl
  refine ⟨fun j hj => Mach.rd_set_ne _ _ _ _ (by simpa using hj), ?_, fun q hq => ?_⟩
  · rw [hs]
    unfold Mach.touch
    split <;> simp [*]
  · rw [hs]
    unfold Mach.touch
    split
    · rw [Mach.hdr_setHdr_ne _ _ _ _ hq, hh]
    · rfl

/-- A read whose effect is to set one register of the page (R34, R452). -/
theorem read_sets {m : Mach} {a : Agent} {off : Nat} {p : Page} {v : Word} (hal : off % 4 = 0) (hp : pageOf a off = some p)
    (hon : m.pageSt p ≠ .off) (hf : ∀ n, p ≠ .pff n)
    (he : m.readEffect p (off % 0x1000) = m.set (p.base + off % 0x1000) v) :
    (m.busAnswer a off 4).rd (p.base + off % 0x1000) = v ∧ m.RegsBut [p.base + off % 0x1000] (m.busAnswer a off 4) ∧
    m.Stepped p (m.busAnswer a off 4) ∧ m.Sent [.reg a 4 (narrow 4 (m.wordAt a p (off % 0x1000)))] (m.busAnswer a off 4) ∧
    m.SameBut [.reg, .out, .free] (m.busAnswer a off 4) := by
  rw [busAnswer_word hal hp hon hf, he]
  obtain ⟨hregs, hstep⟩ := set_frame m p (o := off % 0x1000) (by omega) v
  refine ⟨?_, fun j hj => ?_, hstep, ?_, ?_⟩
  · rw [Mach.draw_rd, Mach.send_rd, Mach.rd_set_same]
  · rw [Mach.draw_rd, Mach.send_rd, hregs j hj]
  · simp [Mach.Sent]
  · simp [Mach.SameBut]

/-- A read of an RC register clears it whole (R34). -/
theorem readEffect_rc {m : Mach} {p : Page} {o : Nat} {r : RegRow} (hr : rowOf (p.typeCode * 0x1000 + o) = some r) (hacc : r.acc = .rc) :
    m.readEffect p o = m.set (p.base + o) 0 := by
  unfold Mach.readEffect
  rw [hr]
  simp [hacc]

/-- The peak of QCT_SLOTS restarts from the slots in use (R452). -/
theorem readEffect_slots (m : Mach) : m.readEffect .qct 0x4C = m.set Reg.QCT_SLOTS (BitVec.ofNat 32 m.q.used.length) := by
  have hr : rowOf 0x404C = some ⟨0x404C, .ro, false, 0x1FFF1FFF, 0⟩ := by decide +kernel
  unfold Mach.readEffect
  rw [show Page.qct.typeCode * 0x1000 + 0x4C = 0x404C from rfl, hr]
  rfl

/-! ### The probes -/

theorem rd_badEntry {m : Mach} {v : Vid} {lba k : Nat} (hk : k ∉ Reg.MAP_BADENT :: Reg.MAP_RECOVCNT :: almKeys) :
    (m.badEntry v lba).rd k = m.rd k := by
  simp only [List.mem_cons, not_or] at hk
  obtain ⟨hbad, hrec, halm⟩ := hk
  have hseg : ∀ (i : Nat) (m : Mach), (m.recoverSegment i).rd k = m.rd k := by
    intro i m
    unfold Mach.recoverSegment
    split
    · rfl
    · split
      · rfl
      · rw [(recorded_raise ..).rd k halm, Mach.errBit_rd, Mach.rd_bump_ne _ _ _ hrec, Mach.updVol_rd]
  unfold Mach.badEntry
  split
  · rfl
  · split
    · rfl
    · unfold Mach.health
      rw [hseg, Mach.updAdm_rd, Mach.rd_bump_ne _ _ _ hbad]

/-- A probe that finds the entry sound reads it and no more (R251). -/
theorem badEntry_sound {m : Mach} {v : Vid} {lba : Nat} (h : m.probeErr v lba = false) : m.badEntry v lba = m := by
  unfold Mach.probeErr at h
  unfold Mach.badEntry
  cases hi : entryIndex (m.volu v) lba with
  | none => rfl
  | some i =>
    simp only [hi, Bool.or_eq_false_iff, Bool.and_eq_false_iff] at h
    obtain ⟨-, hrec, hadr⟩ := h
    dsimp only
    rw [if_pos]
    rcases hadr with e | e <;> simp_all

/-- The machine once a write of the high word of a pair has put both words in effect (R35). -/
def Mach.pairAt (a : Agent) (lo hi : Nat) (v : Word) (m : Mach) : Mach :=
  ((m.takeLow (bank a lo)).1.wr (bank a lo) (m.takeLow (bank a lo)).2).wr (bank a hi) v

theorem rd_pairAt_hi (m : Mach) (a : Agent) (lo hi : Nat) (v : Word) : (m.pairAt a lo hi v).rd (bank a hi) = v := Mach.rd_wr_same ..

theorem rd_pairAt_ne (m : Mach) (a : Agent) {lo hi k : Nat} (v : Word) (hl : k ≠ bank a lo) (hh : k ≠ bank a hi) :
    (m.pairAt a lo hi v).rd k = m.rd k := by
  unfold Mach.pairAt
  rw [Mach.rd_wr_ne _ _ _ _ hh, Mach.rd_wr_ne _ _ _ _ hl]
  rfl

theorem same_pairAt (m : Mach) (a : Agent) (lo hi : Nat) (v : Word) : m.SameBut [.reg] (m.pairAt a lo hi v) := by
  simp [Mach.SameBut, Mach.pairAt, Mach.takeLow]

/-- No register decides what a map probe answers. -/
theorem probeResult_updReg (m : Mach) (f : Regs → Regs) (v : Vid) (lba : Nat) : (m.updReg f).probeResult v lba = m.probeResult v lba :=
  (rfl)

theorem probeErr_updReg (m : Mach) (f : Regs → Regs) (v : Vid) (lba : Nat) : (m.updReg f).probeErr v lba = m.probeErr v lba := (rfl)

theorem probeResult_pairAt (m : Mach) (a : Agent) (lo hi : Nat) (w : Word) (v : Vid) (lba : Nat) :
    (m.pairAt a lo hi w).probeResult v lba = m.probeResult v lba := by
  unfold Mach.pairAt Mach.takeLow Mach.wr
  rw [probeResult_updReg, probeResult_updReg, probeResult_updReg]

theorem probeErr_pairAt (m : Mach) (a : Agent) (lo hi : Nat) (w : Word) (v : Vid) (lba : Nat) :
    (m.pairAt a lo hi w).probeErr v lba = m.probeErr v lba := by
  unfold Mach.pairAt Mach.takeLow Mach.wr
  rw [probeErr_updReg, probeErr_updReg, probeErr_updReg]

/-- The words of the probe's answer are stored (R253). -/
def Mach.probeStore (a : Agent) (r : Nat × Nat) (m : Mach) : Mach :=
  ((m.wr (bank a Reg.MAP_PRES) (BitVec.ofNat 32 r.1)).wr (bank a Reg.MAP_PENT_LO) (loWord r.2)).wr (bank a Reg.MAP_PENT_HI)
    (hiWord r.2 &&& 0xFF)

theorem mapProbe_eq {m : Mach} {a : Agent} {hi : Word} {v : Vid} {lba : Nat} (hon : m.pageSt .map ≠ .off)
    (hv : Fin.ofNat 64 (m.sel a Reg.MAP_PVOL) = v) (hl : (m.takeLow (bank a Reg.MAP_PLBA_LO)).2.toNat + 2 ^ 32 * hi.toNat = lba) :
    m.mapProbe a hi = (((m.pairAt a Reg.MAP_PLBA_LO Reg.MAP_PLBA_HI hi).badEntry v lba).draw.probeStore a
      (m.probeResult v lba)).touch .map := by
  have hs : (m.pairAt a Reg.MAP_PLBA_LO Reg.MAP_PLBA_HI hi).sel a Reg.MAP_PVOL = m.sel a Reg.MAP_PVOL := by
    unfold Mach.sel Mach.rdN
    rw [rd_pairAt_ne _ _ _ (by simp) (by simp)]
  rw [← hv, ← hs, ← hl, ← probeResult_pairAt m a Reg.MAP_PLBA_LO Reg.MAP_PLBA_HI hi]
  unfold Mach.mapProbe Mach.probeStore Mach.pairAt
  rw [if_neg (by simpa using hon)]

/-- The agent's copies of the probe registers are none of those that a bad entry counts in. -/
theorem bank_not_counted (a : Agent) {k : Nat} (hk : 0x12075 ≤ k) (hk' : k < 0x1B000) :
    bank a k ∉ Reg.MAP_BADENT :: Reg.MAP_RECOVCNT :: almKeys := by
  have hc : ∀ x ∈ Reg.MAP_BADENT :: Reg.MAP_RECOVCNT :: almKeys, x < 0x12075 ∨ 0x1B000 ≤ x ∧ x < 0x800000 := by decide
  intro h
  have := hc _ h
  unfold bank at this
  omega

/-- What a map probe leaves in the registers, and that it leaves no more where the entry is sound (R251, R253). -/
theorem mapProbe_leaves {m : Mach} {a : Agent} {hi : Word} {v : Vid} {lba : Nat} {t : Mach}
    (ht : (((m.pairAt a Reg.MAP_PLBA_LO Reg.MAP_PLBA_HI hi).badEntry v lba).draw.probeStore a (m.probeResult v lba)).touch .map = t) :
    t.rd (bank a Reg.MAP_PLBA_HI) = hi ∧ t.rd (bank a Reg.MAP_PRES) = BitVec.ofNat 32 (m.probeResult v lba).1 ∧
    t.rd (bank a Reg.MAP_PENT_LO) = loWord (m.probeResult v lba).2 ∧
    t.rd (bank a Reg.MAP_PENT_HI) = hiWord (m.probeResult v lba).2 &&& 0xFF ∧
    (m.probeErr v lba = false →
      m.RegsBut ([Reg.MAP_PLBA_LO, Reg.MAP_PLBA_HI, Reg.MAP_PRES, Reg.MAP_PENT_LO, Reg.MAP_PENT_HI].map (bank a)) t ∧
      m.SameBut [.reg, .free] t) := by
  subst ht
  unfold Mach.probeStore
  refine ⟨?_, ?_, ?_, ?_, fun he => ⟨fun k hk => ?_, ?_⟩⟩
  · rw [Mach.rd_touch, Mach.rd_wr_ne _ _ _ _ (by simp), Mach.rd_wr_ne _ _ _ _ (by simp), Mach.rd_wr_ne _ _ _ _ (by simp), Mach.draw_rd,
      rd_badEntry (bank_not_counted a (by decide) (by decide)), rd_pairAt_hi]
  · rw [Mach.rd_touch, Mach.rd_wr_ne _ _ _ _ (by simp), Mach.rd_wr_ne _ _ _ _ (by simp), Mach.rd_wr_same]
  · rw [Mach.rd_touch, Mach.rd_wr_ne _ _ _ _ (by simp), Mach.rd_wr_same]
  · rw [Mach.rd_touch, Mach.rd_wr_same]
  · simp only [List.map_cons, List.map_nil, List.mem_cons, List.not_mem_nil, or_false, not_or] at hk
    obtain ⟨hlo, hhi, hres, hplo, hphi⟩ := hk
    rw [badEntry_sound (by rw [probeErr_pairAt, he]), Mach.rd_touch, Mach.rd_wr_ne _ _ _ _ hphi, Mach.rd_wr_ne _ _ _ _ hplo,
      Mach.rd_wr_ne _ _ _ _ hres, Mach.draw_rd, rd_pairAt_ne _ _ _ hlo hhi]
  · rw [badEntry_sound (by rw [probeErr_pairAt, he])]
    exact same_trans (same_mono (same_pairAt m a Reg.MAP_PLBA_LO Reg.MAP_PLBA_HI hi) (by simp)) (by simp [Mach.SameBut])

/-- The decode of a DRAM address rests on the interleave and on the configuration alone (R306). -/
theorem drgResult_pairAt (m : Mach) (a : Agent) (w : Word) (x : Nat) :
    (m.pairAt a Reg.DRG_PADDR_LO Reg.DRG_PADDR_HI w).drgResult x = m.drgResult x := by
  have hrd : ∀ k, k < 0x44050 → (m.pairAt a Reg.DRG_PADDR_LO Reg.DRG_PADDR_HI w).rdN k = m.rdN k := by
    intro k hk
    unfold Mach.rdN
    rw [rd_pairAt_ne _ _ _ (ne_bank_of_lt a hk) (ne_bank_of_lt a (hk.trans (by decide)))]
  unfold Mach.drgResult Mach.dramPlace Mach.dramGib
  rw [hrd Reg.DRG_ILV (by decide), hrd Reg.DRG_CFG (by decide)]

theorem drgDecode_eq {m : Mach} {a : Agent} {hi : Word} {x : Nat} (hon : m.pageSt .drg ≠ .off)
    (hx : (SMap.get (m.rd (bank a Reg.DRG_PADDR_LO)) m.reg.low (bank a Reg.DRG_PADDR_LO)).toNat + 2 ^ 32 * (hi.toNat % 64) = x) :
    m.drgDecode a hi = (((m.pairAt a Reg.DRG_PADDR_LO Reg.DRG_PADDR_HI (hi &&& 0x3F)).wr (bank a Reg.DRG_PRES) (m.drgResult x).1).wr
      (bank a Reg.DRG_PROW) (m.drgResult x).2).touch .drg := by
  rw [← hx, ← drgResult_pairAt m a (hi &&& 0x3F)]
  unfold Mach.drgDecode Mach.pairAt Mach.takeLow
  rw [if_neg (by simpa using hon)]

/-- What a decode leaves in the registers, and that it leaves no more (R318). -/
theorem drgDecode_leaves {m : Mach} {a : Agent} {w : Word} {r : Word × Word} {t : Mach}
    (ht : (((m.pairAt a Reg.DRG_PADDR_LO Reg.DRG_PADDR_HI w).wr (bank a Reg.DRG_PRES) r.1).wr (bank a Reg.DRG_PROW) r.2).touch .drg = t) :
    t.rd (bank a Reg.DRG_PRES) = r.1 ∧ t.rd (bank a Reg.DRG_PROW) = r.2 ∧
    m.RegsBut ([Reg.DRG_PADDR_LO, Reg.DRG_PADDR_HI, Reg.DRG_PRES, Reg.DRG_PROW].map (bank a)) t ∧ m.SameBut [.reg] t := by
  subst ht
  refine ⟨?_, ?_, fun k hk => ?_, same_trans (same_pairAt m a Reg.DRG_PADDR_LO Reg.DRG_PADDR_HI w) (by simp [Mach.SameBut])⟩
  · rw [Mach.rd_touch, Mach.rd_wr_ne _ _ _ _ (by simp), Mach.rd_wr_same]
  · rw [Mach.rd_touch, Mach.rd_wr_same]
  · simp only [List.map_cons, List.map_nil, List.mem_cons, List.not_mem_nil, or_false, not_or] at hk
    obtain ⟨hlo, hhi, hres, hrow⟩ := hk
    rw [Mach.rd_touch, Mach.rd_wr_ne _ _ _ _ hrow, Mach.rd_wr_ne _ _ _ _ hres, rd_pairAt_ne _ _ _ hlo hhi]

/-! ### The obligation -/

/-- Settles O7: each access code is one equation for `writeReg` or `readEffect`, and the frame of that one update is the rest. -/
theorem registerAccess : Obligations.RegisterAccess := by
  unfold Obligations.RegisterAccess
  refine ⟨?staged, ?selector, ?pgErr, ?stagedOther, ?foreign, ?rc, ?peak, ?probe, ?decode⟩
  case staged =>
    intro s a off v p r hal _ hp hst ho hr hacc hmg hsp hspare hc
    exact completes_store hal hp (by simp [hst])
      ((writeReg_code ho hr hmg hsp).trans (writeCode_staged (by omega) hr hacc hst hspare)) hc
  case selector =>
    intro s a off v p r hal _ hp hon ho hr hb hl hsp hc
    obtain ⟨hacc, hmg⟩ := banked_row hr hb
    exact completes_store hal hp hon ((writeReg_code ho hr (.inl hmg) hsp).trans (writeCode_banked hacc hb hl)) hc
  case pgErr =>
    intro s a off v p ho _ hp hon hc
    refine completes_registerWrite (by omega) hp hon (by rw [ho, writeReg_pgErr]) (calm_of_same hc (sb_setHdr ..)) ?_
    exact ⟨Mach.hdr_setHdr_same .., hb_setHdr _ _ _, rb_setHdr _ _ _, sb_setHdr ..⟩
  case stagedOther =>
    intro s a off v p r hal _ hp hon hst ho hr hacc hmg hsp hc
    exact completes_registerWrite hal hp hon ((writeReg_code ho hr hmg hsp).trans (writeCode_staged_other hacc hst))
      (raise_calm hc p 0 0) (recorded_raise s.m p 0 0)
  case foreign =>
    intro s h off v p r hal _ hp hon ho hr hmg hc
    exact completes_registerWrite hal hp hon (writeReg_foreign ho hr hmg) (calm_of_same hc (sb_bump ..))
      ⟨rdN_bump .., rs_bump .., sb_bump ..⟩
  case rc =>
    intro s a off p r hal hp hon hpff hr hacc
    exact completes_on (Mach.busAnswer a off 4) rfl (read_sets hal hp hon hpff (readEffect_rc hr hacc))
  case peak =>
    intro s a hon
    exact completes_on (Mach.busAnswer a 0xA04C 4) rfl
      (read_sets (by decide) (by cases a <;> rfl) hon (by simp) (readEffect_slots s.m))
  case probe =>
    intro s a hi hon
    exact completes_on (Mach.mapProbe a hi) rfl (mapProbe_leaves (mapProbe_eq hon rfl rfl).symm)
  case decode =>
    intro s a hi hon
    exact completes_on (Mach.drgDecode a hi) rfl (drgDecode_leaves (drgDecode_eq hon rfl).symm)

end Sys2Proof.Machine

/-! CXL.mem reads of the lamp window (O15): a read enters its port, finds its descriptor in the Lantern, and is answered with the line or
with poison (R20, R90, R91, R94, R155, R163). -/

namespace Sys2Proof.Machine

/-! ### A read enters and is answered -/

/-- A read of port p has entered (R90): it is counted and in flight, and the port's peak may have risen; nothing else has changed. -/
structure Mach.ReadEnters (p : Port) (a b : Mach) : Prop where
  port : b.port = a.port.set p { a.port.get p with inflight := (a.port.get p).inflight + 1 }
  regs : a.RegsBut [portReg p Reg.PORT_MEMINFL] b
  count : b.rd64 (portReg p Reg.PORT_MEMRD_LO) = a.rd64 (portReg p Reg.PORT_MEMRD_LO) + 1
  counts : ∀ k, k ≠ portReg p Reg.PORT_MEMRD_LO → b.rd64 k = a.rd64 k
  page : ∀ q, b.pageSt q = a.pageSt q
  same : Mach.SameBut [.reg, .port] a b

/-- A request of port p has been answered with o and is no longer in flight; only the registers of ks may have changed. -/
structure Mach.Answers (p : Port) (o : Out) (ks : List Nat) (a b : Mach) : Prop where
  sent : a.Sent [o] b
  port : b.port = a.port.set p { a.port.get p with inflight := (a.port.get p).inflight - 1 }
  regs : a.RegsBut ks b
  counts : ∀ k, b.rd64 k = a.rd64 k
  same : Mach.SameBut [.reg, .port, .out] a b

theorem rd64_raiseTo (m : Mach) (k n top j : Nat) : (m.raiseTo k n top).rd64 j = m.rd64 j := by
  unfold Mach.raiseTo
  split
  · exact Mach.rd64_set ..
  · rfl

theorem rd64_bump (m : Mach) (k j : Nat) : (m.bump k).rd64 j = m.rd64 j := Mach.rd64_set ..

/-- The machine once a read of port p has entered. -/
def Mach.readIn (m : Mach) (p : Port) : Mach := (m.bump64 (portReg p Reg.PORT_MEMRD_LO)).memBegin p

theorem readIn_enters (p : Port) (m : Mach) : m.ReadEnters p (m.readIn p) := by
  unfold Mach.readIn Mach.memBegin
  dsimp only
  refine ⟨by simp, fun k hk => ?_, ?_, fun k hk => ?_, fun q => by simp, ?_⟩
  · rw [rd_raiseTo_ne _ _ _ _ _ (by simpa using hk), Mach.rd_touch]
    exact rd_bump64 m _ k
  · rw [rd64_raiseTo, Mach.rd64_touch, Mach.updPort_rd64]
    exact rd64_bump64By_same m _ 1
  · rw [rd64_raiseTo, Mach.rd64_touch, Mach.updPort_rd64]
    exact rd64_bump64By_ne m _ k 1 hk
  · simp [Mach.SameBut]

theorem lineOut_answers (p : Port) (d : Line) (m : Mach) : m.Answers p (.memData p d false) [] (m.lineOut p d) := by
  unfold Mach.lineOut Mach.memEnd
  exact ⟨by simp [Mach.Sent], by simp, fun k _ => Mach.rd_touch .., fun k => Mach.rd64_touch .., by simp [Mach.SameBut]⟩

theorem poisonOut_answers (p : Port) (m : Mach) :
    m.Answers p (.memData p 0 true) [portReg p Reg.PORT_POISON_TX] (m.poisonOut p) := by
  unfold Mach.poisonOut Mach.memEnd
  refine ⟨by simp [Mach.Sent], by simp, fun k hk => ?_, fun k => ?_, by simp [Mach.SameBut]⟩
  · rw [Mach.rd_touch]
    exact Mach.rd_bump_ne m _ k (by simpa using hk)
  · rw [Mach.rd64_touch]
    exact rd64_bump m _ k

theorem rdN_poisonOut (p : Port) (m : Mach) :
    (m.poisonOut p).rdN (portReg p Reg.PORT_POISON_TX) = min 0xFFFFFFFF (m.rdN (portReg p Reg.PORT_POISON_TX) + 1) := by
  unfold Mach.poisonOut Mach.memEnd
  rw [Mach.rdN_touch]
  exact rdN_bump m _

theorem rdN_of_regsBut {ks : List Nat} {a b : Mach} (h : a.RegsBut ks b) {k : Nat} (hk : k ∉ ks) : b.rdN k = a.rdN k := by
  unfold Mach.rdN
  rw [h k hk]

/-- A read that has entered and been answered leaves its ports as they were, and no part changed but the registers and what was sent. -/
theorem read_answered {p : Port} {o : Out} {ks : List Nat} {a u v w : Mach} (hu : a.ReadEnters p u) (hv : Mach.SameBut [.reg] u v)
    (hw : v.Answers p o ks w) :
    a.Sent [o] w ∧ (∀ q, w.port.get q = a.port.get q) ∧ Mach.SameBut [.reg, .port, .out] a w := by
  refine ⟨?_, fun q => ?_, same_trans (same_mono hu.same (by simp)) (same_trans (same_mono hv (by simp)) hw.same)⟩
  · have := hw.sent
    unfold Mach.Sent at this ⊢
    rw [this, same_out hv (by simp), same_out hu.same (by simp)]
  · rw [hw.port, same_port hv (by simp), hu.port]
    simp only [perPort_get_set]
    split <;> simp_all

/-! ### The way to the page -/

theorem lampAddr_of {a b : Mach} (h : b.lamp = a.lamp) (dpa : Nat) : b.lampAddr dpa = a.lampAddr dpa := by
  unfold Mach.lampAddr Mach.region
  rw [h]

theorem desc_of_lamp {a b : Mach} (h : b.lamp = a.lamp) (k : Nat) : b.desc k = a.desc k := by
  unfold Mach.desc
  rw [h]

theorem lntFind_of {a b : Mach} (h : b.lamp = a.lamp) (k : Nat) : b.lntFind k = a.lntFind k := by
  unfold Mach.lntFind Mach.lnt
  rw [h]

theorem clearWay_of {a b : Mach} (h : b.lamp = a.lamp) {k dpa : Nat} (c : a.ClearWay k dpa) : b.ClearWay k dpa := by
  refine ⟨?_, by rw [h]; exact c.line⟩
  rw [← c.desc]
  unfold Mach.lntWaits
  simp only [lampAddr_of h, h]

/-- An entered read meets the window and the decoders as they were. -/
theorem Mach.ReadEnters.lampOpen {p : Port} {a b : Mach} (h : a.ReadEnters p b) : b.lampOpen = a.lampOpen := by
  unfold Mach.lampOpen Mach.ioUp Mach.running
  rw [h.page, same_dev h.same (by simp)]

theorem Mach.ReadEnters.hdmMatch {p : Port} {a b : Mach} (h : a.ReadEnters p b) (hpa : Nat) : b.hdmMatch p hpa = a.hdmMatch p hpa := by
  unfold Mach.hdmMatch PortSt.dec
  simp [h.port]

theorem memRequest_shut {p : Port} {m : Mach} (hpa : Nat) (e : MemErr) (ho : m.memOpen p = true) (hw : m.lampOpen = false) :
    m.memRequest p hpa (fun dpa => .rd p dpa e) true e = (m.readIn p).poisonOut p := by
  unfold Mach.memRequest
  simp only [ho, if_true]
  rw [← Mach.readIn, (readIn_enters p m).lampOpen, hw]
  rfl

theorem memRequest_undecoded {p : Port} {m : Mach} {hpa : Nat} (e : MemErr) (ho : m.memOpen p = true) (hw : m.lampOpen = true)
    (hd : m.hdmMatch p hpa = none) :
    m.memRequest p hpa (fun dpa => .rd p dpa e) true e = ((m.readIn p).bump (portReg p Reg.PORT_NODEC)).poisonOut p := by
  have hu := readIn_enters p m
  unfold Mach.memRequest
  simp only [ho, if_true]
  rw [← Mach.readIn, hu.lampOpen, hu.hdmMatch, hw, hd]
  rfl

theorem memRequest_decoded {p : Port} {m : Mach} {hpa dpa : Nat} (e : MemErr) (ho : m.memOpen p = true) (hw : m.lampOpen = true)
    (hd : m.hdmMatch p hpa = some dpa) :
    m.memRequest p hpa (fun dpa => .rd p dpa e) true e = (m.readIn p).lampLookup (.rd p dpa e) e := by
  have hu := readIn_enters p m
  unfold Mach.memRequest
  simp only [ho, if_true]
  rw [← Mach.readIn, hu.lampOpen, hu.hdmMatch, hw, hd]
  rfl

/-- A request that finds its descriptor in the Lantern, with a clear way, meets its page, and the entry sees whether the descriptor
changed (R163, R168). -/
theorem lampLookup_hit {m w : Mach} {r : LampReq} {a : LampAddr} {i : Nat} (ha : m.lampAddr r.dpa = some a) (hm : m.lamp.mode ≠ .disabled)
    (hf : m.lntFind (descKey a.region a.block) = some i) (hc : m.ClearWay (descKey a.region a.block) r.dpa)
    (hw : (m.bump64 Reg.LNT_HIT_LO).meetPage r a false = w) :
    m.lampLookup r .clean = w.lntHit i (w.desc (descKey a.region a.block) != m.desc (descKey a.region a.block)) := by
  have hl : (m.bump64 Reg.LNT_HIT_LO).lamp = m.lamp := by simp
  have hh : m.lamp.capHeld.any (fun x => x.dpa / 64 == r.dpa / 64) = false := by simpa using hc.line
  have hs : (m.bump64 Reg.LNT_HIT_LO).serveReq r false = w := by
    unfold Mach.serveReq
    rw [lampAddr_of hl, ha]
    simp [hh, hw]
  unfold Mach.lampLookup
  rw [ha]
  simp [hm, hc.desc, hf, hs]

/-- A hit that changed nothing leaves every entry as it was. -/
theorem lntHit_unchanged (m : Mach) (i : Nat) :
    (∀ j, (m.lntHit i false).lnt j = m.lnt j) ∧ (m.lntHit i false).lamp = { m.lamp with lnt := (m.lntHit i false).lamp.lnt } ∧
    Mach.SameBut [.lamp] m (m.lntHit i false) := by
  unfold Mach.lntHit
  split
  · exact ⟨fun _ => rfl, rfl, same_refl ..⟩
  · refine ⟨fun j => ?_, rfl, by simp [Mach.setLnt, Mach.SameBut]⟩
    by_cases h : j = i <;> simp [Mach.setLnt, Mach.lnt, LntEnt.hit, SMap.get_set, h]

/-! ### What a page answers -/

theorem serveRead_lit {m : Mach} {p : Port} {a : LampAddr} {f : Nat} (hl : ((m.desc (descKey a.region a.block)).state a.page).isLit = true)
    (hf : (m.desc (descKey a.region a.block)).frame = some f) (hn : lineKey f a.page a.line ∉ m.lamp.lost) :
    m.serveRead p a .clean = m.lineOut p (SMap.get 0 m.lamp.line (lineKey f a.page a.line)) := by
  unfold Mach.serveRead
  simp [hl, hf, hn]

theorem serveRead_dark {m : Mach} {p : Port} {a : LampAddr} {e : MemErr}
    (hl : ((m.desc (descKey a.region a.block)).state a.page).isLit = false) (ht : (m.region a.region).lot = false) :
    m.serveRead p a e = (m.bump Reg.LMP_DARKRD).poisonOut p := by
  have htouch : (m.bump Reg.LMP_DARKRD).touchPage a = m.bump Reg.LMP_DARKRD := by
    unfold Mach.touchPage
    simp [ht]
  unfold Mach.serveRead
  simp only [hl, htouch]

/-! ### The obligation -/

/-- A read of the address hpa of port p finds the descriptor of its place a in entry i of the Lantern, and nothing in its way. -/
structure Mach.ReadHits (p : Port) (hpa dpa i : Nat) (a : LampAddr) (m : Mach) : Prop where
  comes : m.memOpen p = true
  served : m.lampOpen = true
  decoded : m.hdmMatch p hpa = some dpa
  place : m.lampAddr dpa = some a
  mode : m.lamp.mode ≠ .disabled
  entry : m.lntFind (descKey a.region a.block) = some i
  way : m.ClearWay (descKey a.region a.block) dpa

/-- The machine once a read has entered and has hit the Lantern. -/
def Mach.readFound (m : Mach) (p : Port) : Mach := (m.readIn p).bump64 Reg.LNT_HIT_LO

theorem readFound_same (m : Mach) (p : Port) : Mach.SameBut [.reg] (m.readIn p) (m.readFound p) := by
  unfold Mach.readFound
  simp [Mach.SameBut]

theorem readFound_lamp (m : Mach) (p : Port) : (m.readFound p).lamp = m.lamp :=
  (same_lamp (readFound_same m p) (by simp)).trans (same_lamp (readIn_enters p m).same (by simp))

theorem readFound_regs (m : Mach) (p : Port) : m.RegsBut [portReg p Reg.PORT_MEMINFL] (m.readFound p) := fun k hk =>
  (rd_bump64 ..).trans ((readIn_enters p m).regs k hk)

/-- The hit is counted beside the read (R175). -/
theorem readFound_counts (m : Mach) (p : Port) :
    (m.readFound p).rd64 (portReg p Reg.PORT_MEMRD_LO) = m.rd64 (portReg p Reg.PORT_MEMRD_LO) + 1 ∧
    (m.readFound p).rd64 Reg.LNT_HIT_LO = m.rd64 Reg.LNT_HIT_LO + 1 := by
  have hu := readIn_enters p m
  have hne : portReg p Reg.PORT_MEMRD_LO ≠ Reg.LNT_HIT_LO := by cases p <;> decide
  exact ⟨(rd64_bump64By_ne _ _ _ 1 hne).trans hu.count,
    (rd64_bump64By_same _ _ 1).trans (congrArg (· + 1) (hu.counts _ hne.symm))⟩

/-- What a read that hits is answered with: its page's answer w, which the entry has seen leave the window alone. -/
theorem memRequest_hit {p : Port} {hpa dpa i : Nat} {a : LampAddr} {m w : Mach} (h : m.ReadHits p hpa dpa i a)
    (hw : (m.readFound p).serveRead p a .clean = w) (hl : w.lamp = m.lamp) :
    m.memRequest p hpa (fun dpa => .rd p dpa .clean) true .clean = w.lntHit i false := by
  obtain ⟨hcomes, hserved, hdec, hplace, hmode, hentry, hway⟩ := h
  have hu : (m.readIn p).lamp = m.lamp := same_lamp (readIn_enters p m).same (by simp)
  rw [memRequest_decoded _ hcomes hserved hdec, lampLookup_hit (r := .rd p dpa .clean) (i := i) ((lampAddr_of hu _).trans hplace) (by rw [hu]; exact hmode)
    ((lntFind_of hu _).trans hentry) (clearWay_of hu hway) hw, desc_of_lamp (hl.trans hu.symm), bne_self_eq_false]

/-- What stands when a read that hit has been answered from its page, where that counted in nothing but the register file. -/
theorem read_hit_frame {p : Port} {o : Out} {ks : List Nat} {m v w : Mach} (i : Nat) (hv : Mach.SameBut [.reg] (m.readFound p) v)
    (hw : v.Answers p o ks w) :
    m.Sent [o] (w.lntHit i false) ∧ (w.lntHit i false).lamp = { m.lamp with lnt := (w.lntHit i false).lamp.lnt } ∧
    (∀ j, (w.lntHit i false).lnt j = m.lnt j) ∧ (∀ q, (w.lntHit i false).port.get q = m.port.get q) ∧
    (w.lntHit i false).reg = w.reg ∧ m.SameBut [.reg, .port, .lamp, .out] (w.lntHit i false) := by
  obtain ⟨hsent, hport, hsame⟩ := read_answered (readIn_enters p m) (same_trans (readFound_same m p) hv) hw
  obtain ⟨hlnt, hlamp, hhit⟩ := lntHit_unchanged w i
  have hl : w.lamp = m.lamp := same_lamp hsame (by simp)
  refine ⟨?_, by rw [hlamp, hl], fun j => ?_, fun q => ?_, same_reg hhit (by simp),
    same_trans (same_mono hsame (by simp)) (same_mono hhit (by simp))⟩
  · unfold Mach.Sent at hsent ⊢
    rw [same_out hhit (by simp), hsent]
  · rw [hlnt]
    unfold Mach.lnt
    rw [hl]
  · rw [same_port hhit (by simp), hport]

/-- Settles O15: a read enters its port, and what answers it, a lit page's line or poison, is one equation each; the frame composes. -/
theorem memoryReads : Obligations.MemoryReads := by
  unfold Obligations.MemoryReads
  refine ⟨?lit, ?dark, ?undecoded, ?shut⟩
  case lit =>
    intro s p hpa dpa i f a hcomes hserved hdec hplace hmode hentry hway hlit hframe hheld
    have hl := readFound_lamp s.m p
    have hx := lineOut_answers p (SMap.get 0 s.m.lamp.line (lineKey f a.page a.line)) (s.m.readFound p)
    have hpage : (s.m.readFound p).serveRead p a .clean = (s.m.readFound p).lineOut p _ :=
      serveRead_lit (by rw [desc_of_lamp hl]; exact hlit) (by rw [desc_of_lamp hl]; exact hframe) (by rw [hl]; exact hheld)
    rw [hl] at hpage
    obtain ⟨hread, hhit⟩ := readFound_counts s.m p
    obtain ⟨hsent, hlamp, hlnt, hport, hreg, hsame⟩ := read_hit_frame i (same_refl ..) hx
    refine completes_eq _ rfl (memRequest_hit ⟨hcomes, hserved, hdec, hplace, hmode, hentry, hway⟩ hpage
      ((same_lamp hx.same (by simp)).trans hl)) ?_
    refine ⟨hsent, hlamp, hlnt, hport, ?_, ?_, fun k hk => ?_, hsame⟩
    · rw [rd64_of_c64 (congrArg Regs.c64 hreg), hx.counts, hread]
    · rw [rd64_of_c64 (congrArg Regs.c64 hreg), hx.counts, hhit]
    · rw [rb_of_reg hreg k (by simp), hx.regs k (by simp), readFound_regs s.m p k hk]
  case dark =>
    intro s p hpa dpa i a hcomes hserved hdec hplace hmode hentry hway hlit hlot
    have hl := readFound_lamp s.m p
    have hx := poisonOut_answers p ((s.m.readFound p).bump Reg.LMP_DARKRD)
    have hpage : (s.m.readFound p).serveRead p a .clean = ((s.m.readFound p).bump Reg.LMP_DARKRD).poisonOut p :=
      serveRead_dark (by rw [desc_of_lamp hl]; exact hlit) (by unfold Mach.region; rw [hl]; exact hlot)
    obtain ⟨hsent, hlamp, -, hport, hreg, hsame⟩ := read_hit_frame i (sb_bump ..) hx
    refine completes_eq _ rfl (memRequest_hit ⟨hcomes, hserved, hdec, hplace, hmode, hentry, hway⟩ hpage
      ((same_lamp hx.same (by simp)).trans (by simpa using hl))) ?_
    have hv : s.m.RegsBut [portReg p Reg.PORT_MEMINFL, Reg.LMP_DARKRD] ((s.m.readFound p).bump Reg.LMP_DARKRD) := fun k hk => by
      obtain ⟨hpeak, hdark⟩ : k ≠ portReg p Reg.PORT_MEMINFL ∧ k ≠ Reg.LMP_DARKRD := by simpa using hk
      rw [Mach.rd_bump_ne _ _ _ hdark, readFound_regs s.m p k (by simpa using hpeak)]
    refine ⟨hsent, hlamp, hport, ?_, ?_, fun k hk => ?_, hsame⟩
    · rw [rdN_of_regsBut (rb_of_reg hreg) (by simp), rdN_of_regsBut hx.regs (by cases p <;> decide), rdN_bump,
        rdN_of_regsBut (readFound_regs s.m p) (by cases p <;> decide)]
    · rw [rdN_of_regsBut (rb_of_reg hreg) (by simp), rdN_poisonOut, rdN_of_regsBut hv (by cases p <;> decide)]
    · obtain ⟨hpeak, hdark, hpoison⟩ : k ≠ portReg p Reg.PORT_MEMINFL ∧ k ≠ Reg.LMP_DARKRD ∧ k ≠ portReg p Reg.PORT_POISON_TX := by
        simpa using hk
      rw [rb_of_reg hreg k (by simp), hx.regs k (by simpa using hpoison), hv k (by simp [hpeak, hdark])]
  case undecoded =>
    intro s p hpa e ho hw hd
    refine completes_eq _ rfl (memRequest_undecoded e ho hw hd) ?_
    have hu := readIn_enters p s.m
    have hx := poisonOut_answers p ((s.m.readIn p).bump (portReg p Reg.PORT_NODEC))
    obtain ⟨hsent, -, hsame⟩ := read_answered hu (sb_bump ..) hx
    refine ⟨hsent, ?_, hsame⟩
    rw [rdN_of_regsBut hx.regs (by simp [portReg]), rdN_bump, rdN_of_regsBut hu.regs (by simp [portReg])]
  case shut =>
    intro s p hpa e ho hw
    refine completes_eq _ rfl (memRequest_shut hpa e ho hw) ?_
    obtain ⟨hsent, -, hsame⟩ := read_answered (readIn_enters p s.m) (same_refl ..) (poisonOut_answers p _)
    exact ⟨hsent, hsame⟩

end Sys2Proof.Machine

/-! READ and VERIFY (O28): what the part holds is answered at once, a poisoned LB fails its command, and an LB on flash starts a codeword
read (R12, R123, R215, R241, Tables 05.6 and 07.5). -/

namespace Sys2Proof.Machine

/-- A command of slot i that looks every LB of its range up: a fresh READ without a list to read first, or a fresh VERIFY. -/
def Mach.Looks (m : Mach) (i : Fin 4096) (c : Instr) : Prop :=
  (c = .read i [] ∧ m.fresh i opRead = true ∧ (m.cmd i).needsList = false) ∨ (c = .verify i [] ∧ m.fresh i opVerify = true)

/-- Either row looks up every LB of the command's range. -/
theorem completes_readAll {s : State} {i : Fin 4096} {c : Instr} {P : Mach → Prop} (h : s.m.Looks i c) (hp : P (s.m.readAll i [])) :
    Completes c s P := by
  rcases h with ⟨rfl, hfresh, hlist⟩ | ⟨rfl, hfresh⟩
  · refine completes_eq (Mach.readRow i []) rfl ?_ hp
    unfold Mach.readRow
    simp [hfresh, hlist]
  · refine completes_eq (Mach.verifyRow i []) rfl ?_ hp
    unfold Mach.verifyRow
    rw [if_pos hfresh]

/-! ### A poisoned LB -/

/-- The command once its only LB, at offset 0, has failed. -/
def Cmd.failedOne (c : Cmd) (status : Nat) : Cmd := { c with stage := .running, todo := [], fails := [(0, status)] }

theorem readResult_failedOne (c : Cmd) (status : Nat) (h : c.rebuilt = 0) : readResult (c.failedOne status) = (status, 0, 1) := by
  unfold readResult Cmd.failedOne
  simp [h]

theorem readDone_failedOne {m : Mach} {i status : Nat} {c : Cmd} (h : m.cmd i = c.failedOne status) (hr : c.rebuilt = 0) :
    m.readDone i = m.complete i status 0 1 := by
  unfold Mach.readDone
  dsimp only
  rw [h, readResult_failedOne c status hr, if_pos (by rfl)]

/-- A poisoned LB settles with POISONED_MU, once the lamp window has been looked at (R241). -/
theorem readOne_poison {m : Mach} {i off : Nat} (h : m.current (entVol (m.cmd i).entry) (entSlba (m.cmd i).entry + off) = .poison) :
    m.readOne i off = (Mach.lookLamp (entVol (m.cmd i).entry) (entSlba (m.cmd i).entry + off) m).readLb i off St.poisonedMu 0 false := by
  obtain ⟨hlamp, hsame⟩ := look_facts m (entVol (m.cmd i).entry) (entSlba (m.cmd i).entry + off)
  unfold Mach.readOne
  dsimp only
  rw [current_of hlamp (same_buf hsame (by simp)) (same_vol hsame (by simp)), h]

/-- A failed LB sends nothing and joins the list of its command's failures. -/
theorem readLb_failed {m : Mach} {i status : Nat} {d : Block} (hs : status ≠ 0) (ht : (m.cmd i).todo = [0]) (hf : (m.cmd i).fails = [])
    (hr : (m.cmd i).stage = .running) : m.readLb i 0 status d false = m.setCmd i ((m.cmd i).failedOne status) := by
  unfold Mach.readLb Cmd.failedOne
  simp [hs, ht, hf, hr, insertFail]

/-- The command begins with the one LB of its range to look up. -/
def Mach.lookOne (m : Mach) (i : Nat) : Mach := m.setCmd i { m.cmd i with stage := .running, todo := [0] }

theorem lookOne_cmd (m : Mach) (i : Nat) : (m.lookOne i).cmd i = { m.cmd i with stage := .running, todo := [0] } := Mach.cmd_setCmd_same ..

theorem lookOne_other (m : Mach) {i j : Nat} (h : j ≠ i) : (m.lookOne i).cmd j = m.cmd j := Mach.cmd_setCmd_ne _ _ _ _ h

theorem lookOne_same (m : Mach) (i : Nat) : Mach.SameBut [.q] m (m.lookOne i) := by
  unfold Mach.lookOne
  simp [Mach.SameBut]

theorem lookOne_current (m : Mach) (i : Nat) (v : Vid) (lba : Nat) : (m.lookOne i).current v lba = m.current v lba :=
  current_of rfl rfl rfl v lba

/-- A READ or VERIFY of one poisoned LB. -/
theorem readAll_poison {m : Mach} {i : Nat} {q : Fin 256} (hp : m.Plain i q) (hn : entCount (m.cmd i).entry = 1)
    (hc : m.current (entVol (m.cmd i).entry) (entSlba (m.cmd i).entry) = .poison) :
    m.Completed i q St.poisonedMu 0 1 (m.readAll i []) := by
  have hi := lookOne_cmd m i
  obtain ⟨-, hlook⟩ := look_facts (m.lookOne i) (entVol (m.cmd i).entry) (entSlba (m.cmd i).entry)
  have hone : (m.lookOne i).readOne i 0 =
      (Mach.lookLamp (entVol (m.cmd i).entry) (entSlba (m.cmd i).entry) (m.lookOne i)).readLb i 0 St.poisonedMu 0 false := by
    have h := readOne_poison (m := m.lookOne i) (i := i) (off := 0) (by rw [lookOne_current, hi]; exact hc)
    rwa [hi] at h
  generalize hw : Mach.lookLamp (entVol (m.cmd i).entry) (entSlba (m.cmd i).entry) (m.lookOne i) = w at hlook hone
  have hq : w.q = (m.lookOne i).q := same_q hlook (by simp)
  have hwi : w.cmd i = { m.cmd i with stage := .running, todo := [0] } := (cmd_of_q hq i).trans hi
  rw [readAll_one m i hn, ← Mach.lookOne, hone, readLb_failed (by decide) (by rw [hwi]) (by rw [hwi]; exact hp.fails) (by rw [hwi])]
  generalize hx : w.setCmd i ((w.cmd i).failedOne St.poisonedMu) = x
  have hxi : x.cmd i = (m.cmd i).failedOne St.poisonedMu := by
    rw [← hx, Mach.cmd_setCmd_same, hwi]
    rfl
  have hxj : ∀ j, j ≠ i → x.cmd j = m.cmd j := fun j hj => by
    rw [← hx, Mach.cmd_setCmd_ne _ _ _ _ hj, cmd_of_q hq, lookOne_other m hj]
  have hxq : x.q = { m.q with cmd := x.q.cmd } := by
    rw [← hx]
    unfold Mach.setCmd
    rw [Mach.updQ_q, hq]
    rfl
  have hxs : Mach.SameBut [.q, .lamp, .reg] m x := by
    refine same_trans (same_mono (lookOne_same m i) (by simp)) (same_trans (same_mono hlook (by simp)) ?_)
    rw [← hx]
    simp [Mach.SameBut]
  rw [readDone_failedOne hxi hp.rebuilt]
  exact completed_on hxj (by rw [hxi]; rfl) (by rw [hxi]; rfl) (fun j => qp_of_qp (by rw [hxq]) j) (by rw [hxq]) (same_out hxs (by simp))
    (complete_done x i _ 0 1 q (by rw [hxi]; exact hp.kind) (by rw [hxi]; exact hp.qid)
      (loose_on hxj (by rw [hxi]; rfl) (same_twn hxs (by simp)) hp.loose)).1

/-! ### An LB on flash -/

/-- A codeword whose channel and die are there is read through the channel's queue r, as a task of its own (R215). -/
theorem startRead_queued {m : Mach} {a : BitVec 40} (v : Vid) (lba : Nat) (r : Req) (w : RdFor) (ht : m.fl.tasks = [])
    (hc : m.chanAway (adrChan a) = false) (hl : m.addrLost a = false) :
    (m.startRead a v lba r w).fl.tasks =
      [{ id := m.fl.nextTask, addr := a, vol := v, lba := lba, stage := 1, tagRetry := false, who := [w] }] ∧
    (m.startRead a v lba r w).fl.ops = m.fl.ops ++
      [{ id := m.fl.nextOp, ch := adrChan a, row := adrRow a, req := r, kind := .readCw m.fl.nextTask, issued := false, rank0 := false
         waited := false, stalled := false }] ∧
    Mach.SameBut [.fl] m (m.startRead a v lba r w) := by
  unfold Mach.startRead Mach.queueOp
  simp [ht, hc, hl, Mach.SameBut]

/-- An LB on flash outside the lamp window asks for its codeword (R241). -/
theorem readOne_flash {m : Mach} {i off : Nat} {a : BitVec 40}
    (hw : m.lampOf (entVol (m.cmd i).entry) (entSlba (m.cmd i).entry + off) = none)
    (hc : m.current (entVol (m.cmd i).entry) (entSlba (m.cmd i).entry + off) = .flash a) :
    m.readOne i off = m.startRead a (entVol (m.cmd i).entry) (entSlba (m.cmd i).entry + off) .q0 (.cmd i off) := by
  unfold Mach.readOne
  dsimp only
  rw [look_none _ _ _ hw, hc]

/-- A READ or VERIFY of one LB on flash waits for its codeword. -/
theorem readAll_flash {m u : Mach} {i : Nat} {a : BitVec 40} (hn : entCount (m.cmd i).entry = 1)
    (hw : m.lampOf (entVol (m.cmd i).entry) (entSlba (m.cmd i).entry) = none)
    (hc : m.current (entVol (m.cmd i).entry) (entSlba (m.cmd i).entry) = .flash a)
    (hu : (m.lookOne i).startRead a (entVol (m.cmd i).entry) (entSlba (m.cmd i).entry) .q0 (.cmd i 0) = u)
    (hs : Mach.SameBut [.fl] (m.lookOne i) u) : m.readAll i [] = u := by
  have hi := lookOne_cmd m i
  have hone : (m.lookOne i).readOne i 0 = u := by
    have h := readOne_flash (m := m.lookOne i) (i := i) (off := 0) (a := a) (by rw [hi]; exact hw) (by rw [lookOne_current, hi]; exact hc)
    rw [h, hi]
    exact hu
  rw [readAll_one m i hn, ← Mach.lookOne, hone]
  unfold Mach.readDone
  dsimp only
  rw [cmd_of_q (same_q hs (by simp)), hi, if_neg (by simp)]

/-! ### The obligation -/

/-- Settles O28: both rows look every LB up, and an LB's place says what it settles as. -/
theorem hostReads : Obligations.HostReads := by
  unfold Obligations.HostReads
  refine ⟨?read, ?verify, ?poison, ?flash⟩
  case read =>
    intro s i q p d hfresh hlist hplain hport hd
    exact completes_readAll (.inl ⟨rfl, hfresh, hlist⟩) (readAll_as s.m i true p q d (by simp [opc_fresh hfresh]) (fun _ => hport) hplain.kind
      hplain.qid hplain.loose hplain.fails hplain.rebuilt hd)
  case verify =>
    intro s i q d hfresh hplain hd
    obtain ⟨hslot, hused, hothers, hpair, hpairs, hsent⟩ := readAll_as s.m i false .p0 q d (by simp [opc_fresh hfresh, opVerify, opRead])
      (by simp) hplain.kind hplain.qid hplain.loose hplain.fails hplain.rebuilt hd
    exact completes_readAll (.inr ⟨rfl, hfresh⟩) ⟨hslot, hused, hothers, hpair, hpairs, hsent⟩
  case poison =>
    intro s i q c hlooks hplain hn hc
    exact completes_readAll hlooks (readAll_poison hplain hn hc)
  case flash =>
    intro s i a c hlooks hn hlamp hc htasks hchan hlost
    obtain ⟨ht, hops, hsame⟩ := startRead_queued (m := s.m.lookOne i) (entVol (s.m.cmd i).entry) (entSlba (s.m.cmd i).entry) .q0 (.cmd i 0)
      htasks hchan hlost
    refine completes_readAll hlooks ?_
    rw [readAll_flash hn hlamp hc rfl hsame]
    exact ⟨(cmd_of_q (same_q hsame (by simp)) _).trans (lookOne_cmd ..),
      fun j hj => (cmd_of_q (same_q hsame (by simp)) _).trans (lookOne_other _ hj), ht, hops,
      same_trans (same_mono (lookOne_same s.m i) (by simp)) (same_mono hsame (by simp))⟩

end Sys2Proof.Machine

/-! What the part holds right after reset (O3), and the packet FIFOs (O6), where the twin link takes a CTRL frame from PFF3 in the step
that shows it. -/

namespace Sys2Proof.Machine

/-! ### Reset -/

/-- At reset every page header is the one that Table 02.4 gives the page by its domain. -/
theorem reset_pageSt (p : Page) : State.reset.m.pageSt p = if pageDomain p = 0 then .stopped else .off := by
  change (hdrReset p.base).st = _
  unfold hdrReset
  rw [pageAt_base]
  dsimp only
  split <;> rfl

/-- Settles O3: every table of the reset state is empty, so that each entry reads as its default, and the page headers and registers as
their reset values. -/
theorem resetState : Obligations.ResetState := by
  unfold Obligations.ResetState
  refine ⟨rfl, rfl, rfl, reset_pageSt, fun _ => rfl, fun _ => rfl, fun _ => rfl, fun _ => rfl, rfl, rfl, rfl, ?_⟩
  rintro (h | h | h) <;> cases h

/-! ### Packet FIFOs -/

/-- PFF3 runs, and the packet of one CTRL frame, of 68 words, has been committed and has not crossed yet. -/
def ctrlCommitted : State :=
  { m := (State.reset.m.setPageSt (.pff 3) .running).setFifo 3 { hidden := [List.replicate 68 0] } }

/-- The twin link takes the frame from PFF3 in the step in which its packet becomes visible (R379), and leaves PFF3 empty. -/
theorem ctrlCommitted_taken : ((ctrlCommitted.m.pffShow 3).when true Mach.ctlTaken).fifo 3 = { eop := true } := by decide +kernel

/-- Refutes O6: its last clause, that a committed packet which has crossed is visible and nothing else has happened, fails on PFF3, where a
whole CTRL frame that becomes visible is taken by the twin link in the same step (R379). -/
theorem not_packetFifos : ¬ Obligations.PacketFifos := by
  unfold Obligations.PacketFifos
  rintro ⟨-, -, -, -, -, -, -, -, -, -, -, hshown⟩
  obtain ⟨t, ht, -, hfifo, -⟩ := hshown ctrlCommitted 3 (List.replicate 68 0) [] (by decide +kernel)
  cases ht
  have hempty := congrArg Fifo.vis (ctrlCommitted_taken.symm.trans hfifo)
  cases hempty

end Sys2Proof.Machine

/-! The command aperture (O45): an access reaches an open aperture or is dropped in the port's BAR decode, and each write there is one
update of the flash, with a sequence error or an aperture drop counted where it is no part of a sequence (R31, R189 to R192, R196). -/

namespace Sys2Proof.Machine

/-! ### Reaching an aperture -/

/-- A write through an aperture that answers does there what it says (R31). -/
theorem completes_aptOpen {c : Instr} {s : State} {a : Agent} {d : Die} {P : Mach → Prop} (f : Mach → Mach)
    (hc : exec c s = s.on (Mach.apt a d f)) (ho : s.m.aptOpen a d = true) (hP : P (f s.m)) : Completes c s P :=
  completes_eq _ hc (if_pos ho) hP

/-- A port's write through an aperture that does not answer is dropped and counted (R31). -/
theorem completes_aptShut {c : Instr} {s : State} {h : Port} {d : Die} (f : Mach → Mach)
    (hc : exec c s = s.on (Mach.apt h.agent d f)) (ho : s.m.aptOpen h.agent d = false) : Completes c s fun t =>
    t.rdN (portReg h Reg.PORT_B2DROP) = min 0xFFFFFFFF (s.m.rdN (portReg h Reg.PORT_B2DROP) + 1) ∧
    s.m.RegsSame [portReg h Reg.PORT_B2DROP] t ∧ s.m.SameBut [.reg] t := by
  have hdrop : s.m.apt h.agent d f = s.m.bump (portReg h Reg.PORT_B2DROP) := by
    unfold Mach.apt Mach.b2drop
    rw [ho]
    cases h <;> rfl
  exact completes_eq _ hc hdrop ⟨rdN_bump .., rs_bump .., sb_bump ..⟩

/-! ### The sequence -/

theorem seqBreak_idle {m : Mach} {a : Agent} (h : (m.fl.seq.get a).st = .idle) (d : Die) : m.seqBreak a d = m := by
  simp [Mach.seqBreak, h]

theorem seqBreak_open {m : Mach} {a : Agent} (h : (m.fl.seq.get a).st ≠ .idle) (d : Die) :
    m.seqBreak a d = (m.setSeq a { st := .idle, die := 0 }).seqErr d := by
  simp [Mach.seqBreak, h]

theorem aptDrop_idle {m : Mach} {a : Agent} (h : (m.fl.seq.get a).st = .idle) (d : Die) :
    m.aptDrop a d = m.bump (fchReg (dieChan d) Reg.FCH_APTDROP) := by
  unfold Mach.aptDrop
  rw [seqBreak_idle h]

theorem same_setSeq (m : Mach) (a : Agent) (x : SeqS) : Mach.SameBut [.fl] m (m.setSeq a x) := same_updFl ..

/-- No register of a channel is one that the Almanac counts in. -/
theorem fchReg_not_counted (c : Chan) {off : Nat} (h : off < 0x1000) : fchReg c off ∉ almKeys := by
  have hc := c.isLt
  intro hmem
  simp [fchReg, Page.base, almKeys, Reg.ALM_LOST, Reg.ALM_OVERWRITE, Reg.ALM_PDROP, Reg.ALM_EXPDROP, pffReg, Reg.PF_CHKFAIL] at hmem
  omega

theorem seqErr_recorded (d : Die) (m : Mach) :
    Mach.Recorded ((m.bump (fchReg (dieChan d) Reg.FCH_SEQERR)).errBit (.fch (dieChan d)) 17) (m.seqErr d) := recorded_raise ..

theorem seqErr_same (d : Die) (m : Mach) : Mach.SameBut [.reg, .pff, .adm, .alm] m (m.seqErr d) :=
  same_trans (same_mono (same_trans (sb_bump m _) (sb_setHdr ..)) (by simp)) (seqErr_recorded d m).same

@[simp] theorem seqErr_fl (d : Die) (m : Mach) : (m.seqErr d).fl = m.fl := same_fl (seqErr_same d m) (by simp)

/-- A sequence error counts on the channel of the aperture written (R191). -/
theorem seqErr_counts (d : Die) (m : Mach) : (m.seqErr d).rdN (fchReg (dieChan d) Reg.FCH_SEQERR) =
    min 0xFFFFFFFF (m.rdN (fchReg (dieChan d) Reg.FCH_SEQERR) + 1) := by
  have h := (seqErr_recorded d m).rd _ (fchReg_not_counted (dieChan d) (off := Reg.FCH_SEQERR) (by decide))
  rw [Mach.rdN, h]
  exact rdN_bump ..

/-- A word of the staging window goes into the buffer that PA_BUF names, and nothing else of the channel changes (R196). -/
theorem stageWrite_stores {m : Mach} {a : Agent} (hidle : (m.fl.seq.get a).st = .idle) (d : Die) {off : Nat} (v : Word)
    (hlo : 0x8000 ≤ off) (hhi : off < 0xC800) (hal : off % 4 = 0) : ∃ x, m.stageWrite a d off v = m.setChn (dieChan d) x ∧
      SMap.get 0 (if m.par a 0x2008 = 0 then x.stage0 else x.stage1) (off - 0x8000) = v := by
  unfold Mach.stageWrite
  rw [if_pos (by simp [hlo, hhi, hal]), seqBreak_idle hidle]
  refine ⟨_, rfl, ?_⟩
  split <;> simp

/-! ### The obligation -/

/-- Settles O45: in an aperture that answers each write is one equation for its update of the flash, and a write that breaks a sequence
adds the sequence error's record. -/
theorem apertureWrites : Obligations.ApertureWrites := by
  unfold Obligations.ApertureWrites
  refine ⟨?first, ?second, ?broken, ?stray, ?again, ?params, ?window, ?outside, ?shut⟩
  case first =>
    intro s a d ho hidle
    refine completes_aptOpen (Mach.aptWrite1 a d 0xAA) rfl ho ?_
    have hw : s.m.aptWrite1 a d 0xAA = s.m.setSeq a { st := .u1, die := d } := by simp [Mach.aptWrite1, hidle]
    rw [hw]
    exact ⟨rfl, same_setSeq ..⟩
  case second =>
    intro s a d ho hseq
    refine completes_aptOpen (Mach.aptWrite2 a d 0x55) rfl ho ?_
    have hw : s.m.aptWrite2 a d 0x55 = s.m.setSeq a { st := .u2, die := d } := by simp [Mach.aptWrite2, hseq]
    rw [hw]
    exact ⟨rfl, same_setSeq ..⟩
  case broken =>
    intro s a d v ho hu1 hv
    refine completes_aptOpen (Mach.aptWrite2 a d v) rfl ho ?_
    have hw : s.m.aptWrite2 a d v = (s.m.setSeq a { st := .idle, die := 0 }).seqErr d := by
      rw [← seqBreak_open (by simp [hu1])]
      exact if_neg (by simpa using fun _ _ => hv)
    rw [hw]
    exact ⟨seqErr_fl .., seqErr_counts .., same_trans (same_mono (same_setSeq ..) (by simp)) (same_mono (seqErr_same ..) (by simp))⟩
  case stray =>
    intro s a d v ho hidle
    refine completes_aptOpen (Mach.aptWrite2 a d v) rfl ho ?_
    rw [← seqBreak_idle hidle d]
    simp [Mach.aptWrite2, hidle, seqBreak_idle hidle]
  case again =>
    intro s a d v ho hu1
    refine completes_aptOpen (Mach.aptWrite1 a d v) rfl ho ?_
    have hw : s.m.aptWrite1 a d v =
        (s.m.seqErr d).setSeq a (if v = 0xAA then { st := .u1, die := d } else { st := .idle, die := 0 }) := by
      simp [Mach.aptWrite1, hu1]
    rw [hw]
    exact ⟨by simp [Mach.setSeq], seqErr_counts ..,
      same_trans (same_mono (seqErr_same ..) (by simp)) (same_mono (same_setSeq ..) (by simp))⟩
  case params =>
    intro s a d off v ho hidle hlo hhi hal
    refine completes_aptOpen (Mach.parWrite a d off v) rfl ho ?_
    have hw : s.m.parWrite a d off v =
        s.m.updFl fun f => { f with par := f.par.set a (SMap.set 0 (f.par.get a) off (v &&& parMask off)) } := by
      unfold Mach.parWrite
      rw [if_pos (by simp [hlo, hhi, hal]), seqBreak_idle hidle]
    rw [hw]
    refine ⟨by simp [Mach.par], fun b k hbk => ?_, rfl, same_updFl ..⟩
    by_cases hb : b = a
    · subst hb
      simp [Mach.par, SMap.get_set_ne _ _ _ _ _ _ (hbk.resolve_left (· rfl))]
    · simp [Mach.par, PerAgent.get_set_other _ _ _ _ hb]
  case window =>
    intro s a d off v ho hidle hlo hhi hal
    refine completes_aptOpen (Mach.stageWrite a d off v) rfl ho ?_
    obtain ⟨x, hw, hx⟩ := stageWrite_stores hidle d v hlo hhi hal
    rw [hw]
    exact ⟨by simpa using hx, fun c hc => Mach.chn_setChn_ne _ _ _ _ hc, rfl, same_updFl ..⟩
  case outside =>
    intro s a d off v c ho hidle hout
    have hP : ∀ u, u = s.m.aptDrop a d → u.rdN (fchReg (dieChan d) Reg.FCH_APTDROP) =
        min 0xFFFFFFFF (s.m.rdN (fchReg (dieChan d) Reg.FCH_APTDROP) + 1) ∧ s.m.RegsSame [fchReg (dieChan d) Reg.FCH_APTDROP] u ∧
        s.m.SameBut [.reg] u := by
      rintro u rfl
      rw [aptDrop_idle hidle]
      exact ⟨rdN_bump .., rs_bump .., sb_bump ..⟩
    rcases hout with ⟨rfl, hoff⟩ | ⟨rfl, hoff⟩
    · refine completes_aptOpen (Mach.parWrite a d off v) rfl ho (hP _ (if_neg ?_))
      simp
      omega
    · refine completes_aptOpen (Mach.stageWrite a d off v) rfl ho (hP _ (if_neg ?_))
      simp
      omega
  case shut =>
    rintro s h d off v w c ho (rfl | rfl | rfl | rfl | rfl | rfl)
    all_goals exact completes_aptShut _ rfl ho

end Sys2Proof.Machine

/-! What the blocks' own work leaves alone (for O5): the mailbox commands and CTRL frames that wait for management firmware, the
background operation, which can only end, and the PG_ERR bits that are set. -/

namespace Sys2Proof.Machine

-- One proof at a time, as in the laws: proofs that wait for each other would each hold a thread and its stack.
set_option Elab.async false

/-- From a to b nothing has come to wait for management firmware, no background operation has begun, and no PG_ERR bit has cleared. -/
structure Mach.Steady (a b : Mach) : Prop where
  mail : b.adm.mboxQ = a.adm.mboxQ
  bg : b.adm.bg = a.adm.bg ∨ b.adm.bg = none
  ctlIn : b.twn.ctlIn = a.twn.ctlIn
  ctlOut : b.twn.ctlOut = a.twn.ctlOut ∨ b.twn.ctlOut = []
  err : ∀ p i, (a.hdr p).err.getLsbD i = true → (b.hdr p).err.getLsbD i = true

namespace Mach.Steady

variable {a m u : Mach}

/-! ### Composition -/

theorem refl (a : Mach) : a.Steady a := ⟨rfl, .inl rfl, rfl, .inl rfl, fun _ _ h => h⟩

theorem trans (h : a.Steady m) (g : m.Steady u) : a.Steady u where
  mail := g.mail.trans h.mail
  bg := g.bg.elim (fun e => h.bg.imp e.trans e.trans) .inr
  ctlIn := g.ctlIn.trans h.ctlIn
  ctlOut := g.ctlOut.elim (fun e => h.ctlOut.imp e.trans e.trans) .inr
  err p i := g.err p i ∘ h.err p i

/-- A step that changes no register and nothing of what waits; that it does is a matter of computing its fields. -/
theorem parts (h : a.Steady m) (hmail : u.adm.mboxQ = m.adm.mboxQ := by rfl) (hbg : u.adm.bg = m.adm.bg := by rfl)
    (hin : u.twn.ctlIn = m.twn.ctlIn := by rfl) (hout : u.twn.ctlOut = m.twn.ctlOut := by rfl) (hreg : u.reg = m.reg := by rfl) :
    a.Steady u :=
  h.trans ⟨hmail, .inl hbg, hin, .inl hout, fun p i => by unfold Mach.hdr; rw [hreg]; exact id⟩

/-- A step that changes page headers only in PG_SEQ, and neither administration nor the twin link. -/
theorem seq (h : a.Steady m) (hadm : u.adm = m.adm) (htwn : u.twn = m.twn)
    (hhdr : ∀ p, { u.hdr p with seq := 0 } = { m.hdr p with seq := 0 }) : a.Steady u :=
  h.trans ⟨by rw [hadm], .inl (by rw [hadm]), by rw [htwn], .inl (by rw [htwn]), fun p i => by rw [err_of_hdr (hhdr p)]; exact id⟩

theorem ite {c : Prop} [Decidable c] (hm : a.Steady m) (hu : a.Steady u) : a.Steady (if c then m else u) := by
  split
  · exact hm
  · exact hu

theorem each {α : Type} (h : a.Steady m) (l : List α) (f : α → Mach → Mach) (hf : ∀ x {m}, a.Steady m → a.Steady (f x m)) :
    a.Steady (m.each l f) := by
  unfold Mach.each
  induction l generalizing m with
  | nil => exact h
  | cons x l ih => exact ih (hf x h)

/-! ### Registers and headers -/

theorem touch (h : a.Steady m) (p : Page) : a.Steady (m.touch p) := h.seq (by simp) (by simp) (m.hdr_touch p)
theorem set (h : a.Steady m) (k : Nat) (v : Word) : a.Steady (m.set k v) := h.seq (by simp) (by simp) (m.hdr_set k v)
theorem bump (h : a.Steady m) (k : Nat) : a.Steady (m.bump k) := h.set ..
theorem bump64 (h : a.Steady m) (k : Nat) : a.Steady (m.bump64 k) := h.seq (by simp) (by simp) (hdr_bump64 m k)
theorem raiseTo (h : a.Steady m) (k n top : Nat) : a.Steady (m.raiseTo k n top) := ite (h.set ..) h

/-- A header whose PG_ERR keeps its bits. -/
theorem setHdr (h : a.Steady m) (p : Page) (x : PageHdr) (hx : ∀ i, (m.hdr p).err.getLsbD i = true → x.err.getLsbD i = true) :
    a.Steady (m.setHdr p x) := by
  refine h.trans ⟨rfl, .inl rfl, rfl, .inl rfl, fun q i hq => ?_⟩
  by_cases hqp : q = p
  · subst hqp
    rw [Mach.hdr_setHdr_same]
    exact hx i hq
  · rwa [Mach.hdr_setHdr_ne _ _ _ _ hqp]

theorem setPageSt (h : a.Steady m) (p : Page) (st : PageSt) : a.Steady (m.setPageSt p st) := h.setHdr p _ fun _ hi => hi

theorem errBit (h : a.Steady m) (p : Page) (i : Nat) : a.Steady (m.errBit p i) :=
  h.setHdr p _ fun j hj => by simp [hj]

/-! ### The Almanac -/

theorem updAlm (h : a.Steady m) (f : Alm → Alm) : a.Steady (m.updAlm f) := h.parts

theorem setFifo (h : a.Steady m) (n : Fin 8) (x : Fifo) : a.Steady (m.setFifo n x) := h.parts

theorem pffCommit (h : a.Steady m) (n : Fin 8) (ok : Bool) (ws : List Word) : a.Steady (m.pffCommit n ok ws) :=
  ite (ite (h.setFifo ..) (h.setFifo ..)) ((h.setFifo ..).bump _)

theorem almSealed (h : a.Steady m) (r : AlmRec) : a.Steady (m.almSealed r) := by
  unfold Mach.almSealed
  extract_lets ex u fatal
  have hu : a.Steady u := ite (ite (h.pffCommit ..) (h.bump _)) h
  exact ite hu.parts hu

theorem almSeal (h : a.Steady m) : a.Steady m.almSeal := by
  unfold Mach.almSeal
  split
  · exact h
  · dsimp only
    split
    · exact (h.updAlm _).almSealed _
    · exact h.updAlm _

theorem almTouch (h : a.Steady m) : a.Steady m.almTouch := (h.updAlm _).touch _
theorem almPut (h : a.Steady m) (slot : Nat) (r : AlmRec) : a.Steady (m.almPut slot r) := (h.updAlm _).almTouch

theorem almPlace (h : a.Steady m) {mk : Word → AlmRec} {s : Nat} (hu : m.almPlace mk = some (u, s)) : a.Steady u := by
  unfold Mach.almPlace at hu
  dsimp only at hu
  split at hu
  · cases hu
    exact (h.almPut ..).updAlm _
  · split at hu
    · obtain ⟨e, -, he⟩ := Option.map_eq_some_iff.mp hu
      cases he
      exact ((h.bump _).almPut ..).updAlm _
    · cases hu

theorem almNew (h : a.Steady m) (ev : Bool) (mk : Word → AlmRec) : a.Steady (m.almNew ev mk) := by
  unfold Mach.almNew
  dsimp only
  have hs := h.almSeal
  split
  · rename_i hu
    split
    · exact (hs.almPlace hu).updAlm _
    · split
      · exact (hs.almPlace hu).almSealed _
      · exact hs.almPlace hu
  · have hb := (hs.bump Reg.ALM_LOST).errBit .alm 16
    split
    · exact hb
    · split
      · rename_i hu
        exact (hb.almPlace hu).updAlm _
      · exact hb.bump _

theorem almPersist1 (h : a.Steady m) (r : AlmRec) : a.Steady (m.almPersist1 r) := by
  unfold Mach.almPersist1
  dsimp only
  split
  · exact h.updAlm _
  · split
    · exact (h.updAlm _).bump _
    · exact (h.bump _).errBit ..

theorem almMark (h : a.Steady m) (q : Word) : a.Steady (m.almMark q) := (h.updAlm _).almTouch

theorem almWriteAll (h : a.Steady m) : a.Steady m.almWriteAll :=
  h.almSeal.each _ _ fun r _ h => (h.almPersist1 r).almMark _

theorem almFlush (h : a.Steady m) : a.Steady m.almFlush :=
  ite ((h.almWriteAll.almNew ..).almWriteAll.updAlm _) (h.updAlm _)

theorem almFlushPending (h : a.Steady m) : a.Steady m.almFlushPending := ite h.almFlush h

theorem almAfter (h : a.Steady m) (sev : Sev) : a.Steady (m.almAfter sev) := ite h.almFlush (ite h.almWriteAll h)

theorem event (h : a.Steady m) (sev : Sev) (src code inst : Nat) (arg : BitVec 64) (d : List Word) :
    a.Steady (m.event sev src code inst arg d) := by
  unfold Mach.event
  extract_lets fresh
  have hf : a.Steady fresh := (h.almNew ..).almAfter _
  split
  · exact hf
  · split
    · exact hf
    · exact ite (h.almPut ..) hf

theorem raise (h : a.Steady m) (p : Page) (i : Nat) (arg : BitVec 64) : a.Steady (m.raise p i arg) :=
  ite (h.errBit ..) ((h.errBit ..).event ..)

theorem observe (h : a.Steady m) (q : Nat) (b : Option Nat) (v : Int) : a.Steady (m.observe q b v) := ite h (h.updAlm _)

theorem send (h : a.Steady m) (o : Out) : a.Steady (m.send o) := h.parts

/-! ### The twin link's sequenced frames -/

theorem twnGo (h : a.Steady m) (f : Frame) : a.Steady (m.twnGo f) :=
  ite (bump64 h.parts _) h.parts

theorem twnNext (h : a.Steady m) (n : Nat) : a.Steady (m.twnNext n) := by
  induction n generalizing m with
  | zero => exact h
  | succ n ih =>
    unfold Mach.twnNext
    split
    · exact h
    · rename_i o os _
      have hg : a.Steady (m.each o.held Mach.twnGo) := h.each _ _ fun f _ h => h.twnGo f
      exact ite (ih hg.parts) hg.parts

theorem twnQueue (h : a.Steady m) (x : TxOpen) : a.Steady (m.twnQueue x) := ite h (h.parts.twnNext _)

theorem twnFeed (h : a.Steady m) (x : Nat) (f : TxOpen → TxOpen) : a.Steady (m.twnFeed x f) := h.parts.twnNext _

theorem twnForget (h : a.Steady m) (s : Nat) : a.Steady (m.twnForget s) := by
  unfold Mach.twnForget
  extract_lets ids m₁ loose
  have h₁ : a.Steady m₁ := h.each _ _ fun x _ h => h.twnFeed x _
  exact h₁.parts

/-! ### Commands -/

theorem setCmd (h : a.Steady m) (s : Nat) (c : Cmd) : a.Steady (m.setCmd s c) := h.parts

theorem twinOpen (h : a.Steady m) (s : Nat) : a.Steady (m.twinOpen s) := by
  unfold Mach.twinOpen Mach.twnXid Mach.twnBegin
  dsimp only
  exact ite (h.parts.twnQueue _) h

theorem admitCmd (h : a.Steady m) (s : Nat) : a.Steady (m.admitCmd s) := (h.setCmd ..).twinOpen s

theorem admitWaiter (h : a.Steady m) (s : Nat) : a.Steady (m.admitWaiter s) :=
  admitCmd (observe (raiseTo h.parts ..) ..) s

theorem release (h : a.Steady m) (s : Nat) : a.Steady (m.release s) :=
  ite h (((h.setCmd ..).touch _).each _ _ fun t _ h => ite (ite ((h.setCmd ..).admitWaiter t) (h.setCmd ..)) h)

theorem forgetReads (h : a.Steady m) (s : Nat) : a.Steady (m.forgetReads s) := h.parts

theorem post (h : a.Steady m) (q : Fin 256) (tag sqhd status dw2 dw3 : Nat) : a.Steady (m.post q tag sqhd status dw2 dw3) :=
  (h.parts.touch .qct).parts

theorem freeSlot (h : a.Steady m) (s : Nat) : a.Steady (m.freeSlot s) := (h.twnForget s).parts.touch _

theorem complete (h : a.Steady m) (s status dw2 dw3 : Nat) : a.Steady (m.complete s status dw2 dw3) := by
  unfold Mach.complete
  extract_lets c o m₁ m₂ m₃ u₁ m₄ us m₅ m₆
  have h₃ : a.Steady m₃ := ite (h.release s).parts ((h.release s).forgetReads s)
  have h₄ : a.Steady m₄ := ite (ite (h₃.parts.raise ..) h₃.parts) h₃
  have h₅ : a.Steady m₅ := ite (h₄.parts.observe ..) h₄
  have h₆ : a.Steady m₆ := by
    unfold m₆
    split
    · exact h₅.post ..
    · exact h₅
  exact h₆.freeSlot s

/-! ### Reads of codewords -/

theorem readPeer (h : a.Steady m) (t : RdTask) (p : Peer) : a.Steady (m.readPeer t p) := h.parts

theorem beginStage4 (h : a.Steady m) (t : RdTask) : a.Steady (m.beginStage4 t) :=
  each h.parts _ _ fun p _ h => h.readPeer _ p

theorem startRead (h : a.Steady m) (b : BitVec 40) (v : Vid) (lba : Nat) (r : Req) (w : RdFor) :
    a.Steady (m.startRead b v lba r w) := by
  unfold Mach.startRead
  split
  · exact h.parts
  · exact ite (beginStage4 h.parts _) h.parts

theorem escalate (h : a.Steady m) (t : RdTask) : a.Steady (m.escalate t) := by
  unfold Mach.escalate Mach.peerEnded
  split
  · split
    · exact h.parts
    · dsimp only
      split
      · exact h.parts
      · exact h.parts.each _ _ fun p _ h => h.readPeer _ p
  · exact h.beginStage4 t

theorem strandReads (h : a.Steady m) (c : Chan) (issued : Bool) : a.Steady (m.strandReads c issued) := by
  refine h.parts.each _ _ fun t m h => ?_
  split
  · exact h.escalate _
  · exact h

/-! ### The write buffer -/

theorem dropVers (h : a.Steady m) (ids : List Nat) : a.Steady (m.dropVers ids) :=
  ite h ((observe h.parts ..).touch _)

theorem failCovers (h : a.Steady m) (id : Nat) : a.Steady (m.failCovers id) := by
  unfold Mach.failCovers
  extract_lets m₁ fault
  have h₁ : a.Steady m₁ := h.each _ _ fun s _ h => h.setCmd s _
  exact h₁.parts

theorem setVer (h : a.Steady m) (x : Ver) : a.Steady (m.setVer x) := h.parts

theorem finishVer (h : a.Steady m) (id : Nat) : a.Steady (m.finishVer id) := by
  unfold Mach.finishVer
  split
  · exact h
  · rename_i x _
    extract_lets m₁ m₂
    have h₂ : a.Steady m₂ := ((((h.setVer _).dropVers _).bump _).raise ..).failCovers id
    exact ite h (ite (ite (h₂.dropVers _) h₂) ((h.setVer _).dropVers _))

theorem badEntry (h : a.Steady m) (v : Vid) (lba : Nat) : a.Steady (m.badEntry v lba) := by
  unfold Mach.badEntry
  split
  · exact h
  · have hc : a.Steady ((m.bump Reg.MAP_BADENT).health fun h => { h with dramUe := (h.dramUe + 1) % 2 ^ 64 }) := (h.bump _).parts
    exact ite h (ite hc (ite hc.parts (raise (bump hc.parts _) ..)))

theorem fillLb (h : a.Steady m) (id lb : Nat) : a.Steady (m.fillLb id lb) := by
  unfold Mach.fillLb
  split
  · exact h
  · rename_i x _
    extract_lets lba older got
    have hgot : ∀ d, a.Steady (got d) := fun d => h.setVer _
    clear_value older got
    refine ite h ?_
    split
    · exact ite (h.setVer _) (hgot _)
    · cases m.mapSrc x.vol lba with
      | flash b => exact ((h.setVer _).startRead ..).bump64 _
      | recovering => exact (h.setVer _).badEntry ..
      | poison => exact h.setVer _
      | _ => exact hgot _

theorem sealVer (h : a.Steady m) (id : Nat) : a.Steady (m.seal id) := by
  unfold Mach.seal
  split
  · exact h
  · exact ite h (((((h.setVer _).fillLb id 0).fillLb id 1).fillLb id 2).fillLb id 3 |>.finishVer id)

/-! ### What a page that reaches RUNNING takes up -/

theorem urgency (h : a.Steady m) : a.Steady m.urgency := by
  unfold Mach.urgency
  extract_lets n up l m₁ m₂
  have h₁ : a.Steady m₁ := h.parts
  have h₂ : a.Steady m₂ := ite h₁ (h₁.touch _)
  exact ite h (ite ((h₂.each _ _ fun s _ h => h.complete s ..).raise ..) h₂)

theorem giveLevel (h : a.Steady m) : a.Steady m.giveLevel := h.each _ _ fun _ _ h => h.parts

theorem snfStart (h : a.Steady m) : a.Steady m.snfStart := ite (giveLevel h.parts) h.parts

theorem pffOversize (h : a.Steady m) (n : Fin 8) : a.Steady (m.pffOversize n) := (h.setFifo ..).bump _

theorem pffResume (h : a.Steady m) (n : Fin 8) : a.Steady (m.pffResume n) := by
  unfold Mach.pffResume
  dsimp only
  split
  · exact h
  · exact ite h (ite (ite (h.pffOversize n) h) (ite ((h.setFifo ..).pffCommit ..) ((h.setFifo ..).setFifo ..)))

theorem startEnds (h : a.Steady m) (p : Page) : a.Steady (m.startEnds p) := by
  cases p with
  | lnt => exact h.parts
  | key => exact ite h (touch h.parts _)
  | thm => exact h.parts
  | snf => exact h.snfStart
  | fch c => exact ite h.parts h
  | gln => exact h.urgency
  | sow => exact h.each _ _ fun id _ h => h.sealVer id
  | alm => exact h.almFlushPending
  | pff n => exact h.pffResume n
  | twn => exact ite h h.parts
  | _ => exact h

/-! ### Lamp requests and frames -/

theorem memEnd (h : a.Steady m) (p : Port) : a.Steady (m.memEnd p) := touch h.parts _

theorem poisonOut (h : a.Steady m) (p : Port) : a.Steady (m.poisonOut p) := memEnd (h.bump _).parts p

theorem writeDone (h : a.Steady m) (p : Port) (mute : Bool) : a.Steady (m.writeDone p mute) := ite h (memEnd h.parts p)

theorem lntInstall (h : a.Steady m) (key : Nat) (changed : Bool) : a.Steady (m.lntInstall key changed) := by
  unfold Mach.lntInstall
  refine ite h ?_
  split
  · exact h
  · dsimp only
    split
    · exact h.parts
    · exact h
    · exact h.parts

theorem putDesc (h : a.Steady m) (key : Nat) (d : Desc) : a.Steady (m.putDesc key d) := by
  unfold Mach.putDesc Mach.lntUpdate
  split
  · exact bump64 h.parts _
  · have hm : a.Steady ((m.setDesc key d).bump64 Reg.LNT_MISS_LO) := bump64 h.parts _
    exact ite hm (hm.lntInstall ..)

theorem frameCheck (h : a.Steady m) (key : Nat) : a.Steady (m.frameCheck key) := by
  unfold Mach.frameCheck
  dsimp only
  split
  · exact h
  · exact ite h.parts h

theorem pendlRange (h : a.Steady m) (v : Vid) (slba n : Nat) : a.Steady (m.pendlRange v slba n) := by
  refine h.each _ _ fun o m h => ?_
  split
  · exact (ite ((h.putDesc ..).frameCheck _) h).frameCheck _
  · exact h

theorem wbClear (h : a.Steady m) (s k p : Nat) : a.Steady (m.wbClear s k p) :=
  frameCheck (ite (h.setCmd ..) ((h.setCmd ..).putDesc ..)) k

theorem wbAbandon (h : a.Steady m) (s : Nat) : a.Steady (m.wbAbandon s) := by
  unfold Mach.wbAbandon
  split
  · exact wbClear (ite h (h.putDesc ..)) ..
  · exact h

theorem cutWith (h : a.Steady m) (s status dw2 dw3 : Nat) : a.Steady (m.cutWith s status dw2 dw3) :=
  complete (ite (((h.wbAbandon s).setCmd ..).pendlRange ..) ((h.wbAbandon s).setCmd ..)) s status dw2 dw3

theorem failCommands (h : a.Steady m) : a.Steady m.failCommands := by
  refine h.each _ _ fun s m h => ?_
  dsimp only
  split
  · exact h
  all_goals exact h.cutWith ..

theorem memMiss (h : a.Steady m) (r : LampReq) : a.Steady (m.memMiss r) := ite (h.poisonOut _) (h.writeDone ..)

theorem dropHeld (h : a.Steady m) : a.Steady m.dropHeld := each h.parts _ _ fun r _ h => h.memMiss r

theorem lampGone (h : a.Steady m) : a.Steady m.lampGone :=
  h.parts.each _ _ fun _ _ h => ite (h.poisonOut _) ((h.bump _).writeDone ..)

theorem muteReqs (h : a.Steady m) (q : Port) : a.Steady (m.muteReqs q) := h.parts

theorem portIdle (h : a.Steady m) (q : Port) : a.Steady (m.portIdle q) := ite (muteReqs (bump h.parts _) q) h

/-! ### The device -/

theorem setDev (h : a.Steady m) (st : DevSt) : a.Steady (m.setDev st) := ite h h.parts

theorem settleDev (h : a.Steady m) : a.Steady m.settleDev := ite (h.setDev _) h

theorem fail (h : a.Steady m) (cause : Nat) : a.Steady (m.fail cause) := by
  unfold Mach.fail
  extract_lets m₁ m₂ m₃
  have h₂ : a.Steady m₂ := (setDev h.parts _).failCommands.dropHeld
  have h₃ : a.Steady m₃ := h₂.each _ _ fun p _ h => ite ((touch h.parts _).send _) h
  exact ite h (h₃.event ..)

/-! ### The loss of the twin partner -/

theorem settleRx (h : a.Steady m) : a.Steady m.settleRx := h.each _ _ fun _ _ h => h.parts.twnQueue _

theorem dropPartner (h : a.Steady m) : a.Steady m.dropPartner :=
  (settleRx (h.each _ _ fun s _ h => ite h (h.setCmd s _))).each _ _ fun s _ h => h.complete s ..

theorem dropPieces (h : a.Steady m) (v : Vid) : a.Steady (m.dropPieces v) := by
  unfold Mach.dropPieces
  have h₁ : a.Steady (m.each (m.pieceSlots v) fun s m => ((m.release s).forgetReads s).freeSlot s) :=
    h.each _ _ fun s _ h => ((h.release s).forgetReads s).freeSlot s
  exact h₁.parts

theorem durableBack (h : a.Steady m) : a.Steady m.durableBack := by
  refine h.each _ _ fun e m h => ?_
  split
  · exact h.parts
  · exact h.parts
  · exact h

theorem endBg (h : a.Steady m) (status : Nat) : a.Steady (m.endBg status) := by
  unfold Mach.endBg
  split
  · exact h
  · extract_lets u op
    have hu : a.Steady u := h.trans ⟨rfl, .inr rfl, rfl, .inl rfl, fun _ _ => id⟩
    exact ite (hu.parts.event ..) hu.parts

theorem waitLost (h : a.Steady m) (w : TwinWait) : a.Steady (m.waitLost w) := by
  have hw : a.Steady (m.twnUnwait w) := h.parts
  exact ite h (ite h.parts (ite (endBg hw.parts _) (ite hw hw.parts)))

theorem partnerLost (h : a.Steady m) : a.Steady m.partnerLost := by
  unfold Mach.partnerLost
  extract_lets m₁ m₂ m₃ m₄ m₅
  have h₂ : a.Steady m₂ := h.durableBack.trans ⟨rfl, .inl rfl, rfl, .inr rfl, fun _ _ => id⟩
  have h₄ : a.Steady m₄ := ((h₂.bump _).raise ..).each _ _ fun v _ h => dropPieces h.parts v
  exact ite h (h₄.dropPartner.each _ _ fun w _ h => h.waitLost w).settleDev

/-! ### Faults -/

theorem faultEnds (h : a.Steady m) (p : Page) : a.Steady (m.faultEnds p) := by
  cases p with
  | fch c => exact ite ((h.strandReads ..).fail _) (h.strandReads ..)
  | drc d => exact h.fail _
  | ecc =>
    refine h.parts.each _ _ fun t m h => ?_
    split
    · exact h.escalate _
    · exact h
  | lnt => exact h.parts
  | twn => exact h.partnerLost
  | port q => exact h.portIdle q
  | lmp => exact h.lampGone
  | gln => exact h.parts
  | key => exact touch h.parts _
  | _ =>
    unfold Mach.faultEnds
    exact ite (h.fail _) h

end Mach.Steady

end Sys2Proof.Machine

/-! The transitions that a page's block makes itself (O5): the end of a start, its two refusals, the end of a stop, and a fault (R39, R180,
R401). Each is one equation for the page's state; that the rest of the command does nothing more is `Mach.Steady`. -/

namespace Sys2Proof.Machine

/-! ### After the block's own work -/

/-- A service action that waits for no page does nothing when pages change state. -/
theorem svcPoll_unserviced {m : Mach} (h : m.unserviced = true) : m.svcPoll = m := by
  unfold Mach.svcPoll
  split
  · rfl
  · cases hb : m.adm.bg with
    | none => rfl
    | some b =>
      have hm : b.op.moves = false := by simpa [Mach.unserviced, hb] using h
      cases ho : b.op <;> simp [ho, BgOp.moves] at hm ⊢

theorem Mach.Steady.unserviced {a b : Mach} (h : a.Steady b) (hu : a.unserviced = true) : b.unserviced = true := by
  unfold Mach.unserviced
  rcases h.bg with hb | hb <;> rw [hb]
  · exact hu
  · rfl

theorem Mach.Steady.calm {a b : Mach} (h : a.Steady b) (hc : a.Calm) : b.Calm :=
  ⟨h.mail.trans hc.mail, h.ctlIn.trans hc.ctlIn, h.ctlOut.elim (·.trans hc.ctlOut) id⟩

/-- A block's own work on its page is all that its command does, where management firmware has nothing to follow it with. -/
theorem completes_pageWork {c : Instr} {s : State} {P : Mach → Prop} (f : Mach → Mach)
    (hx : exec c s = s.onMail fun m => (f m).svcPoll) (hu : s.m.unserviced = true) (hc : s.m.Calm) (hs : s.m.Steady (f s.m))
    (hP : P (f s.m)) : Completes c s P :=
  completes_eq _ hx (by simp only [svcPoll_unserviced (hs.unserviced hu), calm_quiet (hs.calm hc)]) hP

/-! ### PG_ERR bits -/

theorem raise_keeps (m : Mach) (p : Page) (i : Nat) (arg : BitVec 64) : (m.errBit p i).Steady (m.raise p i arg) :=
  .ite (.refl _) (.event (.refl _) ..)

/-- A PG_ERR bit that is raised is set (R361). -/
theorem raise_sets (m : Mach) (p : Page) {i : Nat} (arg : BitVec 64) (hi : i < 32) :
    ((m.raise p i arg).hdr p).err.getLsbD i = true := by
  refine (raise_keeps m p i arg).err p i ?_
  unfold Mach.errBit
  rw [Mach.hdr_setHdr_same]
  simp [bit32, hi]

/-! ### STARTING ends -/

theorem startTrains_steady {m u : Mach} {p : Page} {tr : Bool} (h : m.startTrains p tr = some u) : m.Steady u := by
  unfold Mach.startTrains at h
  split at h
  · split_ifs at h
    · cases h
      exact ((Mach.Steady.refl m).setPageSt ..).raise ..
    · cases h
      exact (((Mach.Steady.refl m).setPageSt ..).raise ..).raise ..
  · cases h

theorem startingEnd_steady (p : Page) (tr : Bool) (m : Mach) : m.Steady (m.startingEnd p tr) := by
  have hm := Mach.Steady.refl m
  unfold Mach.startingEnd
  split_ifs
  · exact hm
  · exact (hm.setPageSt ..).raise ..
  · split
    · rename_i u hu
      exact (startTrains_steady hu).settleDev
    · extract_lets v
      have hv : m.Steady v := by
        unfold v
        split
        · exact hm.parts
        · exact hm
      refine .settleDev (.startEnds (.setHdr hv p _ ?_) p)
      exact fun _ => id

theorem startingEnd_idle {m : Mach} {p : Page} (h : m.pageSt p ≠ .starting) (tr : Bool) : m.startingEnd p tr = m := by
  simp [Mach.startingEnd, h]

/-- Inconsistent settings return the page to STOPPED with CFGREJ (R39). -/
theorem startingEnd_rejects {m : Mach} {p : Page} (hst : m.pageSt p = .starting) (hbad : m.badConfig p = true) (tr : Bool) :
    m.startingEnd p tr = (m.setPageSt p .stopped).raise p 4 0 := by
  simp [Mach.startingEnd, hst, hbad]

/-- A channel that does not train ends its start as `startTrains` says (R180, R401). -/
theorem startingEnd_untrained {m u : Mach} {p : Page} {tr : Bool} (hst : m.pageSt p = .starting) (hok : m.badConfig p = false)
    (hu : m.startTrains p tr = some u) : m.startingEnd p tr = u.settleDev := by
  simp [Mach.startingEnd, hst, hok, hu]

theorem setHdr_pageSt (m : Mach) (p : Page) (x : PageHdr) (q : Page) :
    (m.setHdr p x).pageSt q = if q = p then x.st else m.pageSt q := by
  split
  · subst_vars
    simp [Mach.pageSt]
  · simp [Mach.pageSt, Mach.hdr_setHdr_ne _ _ _ _ ‹_›]

/-- A page whose settings are consistent, and whose channel is trained, reaches RUNNING (R39). -/
theorem startingEnd_runs {m : Mach} {p : Page} {tr : Bool} (hst : m.pageSt p = .starting) (hok : m.badConfig p = false)
    (ht : m.startTrains p tr = none) (q : Page) : (m.startingEnd p tr).pageSt q = if q = p then .running else m.pageSt q := by
  unfold Mach.startingEnd
  rw [if_neg (by simp [hst]), if_neg (by simp [hok]), ht]
  dsimp only
  rw [Mach.settleDev_pageSt, Mach.startEnds_pageSt, setHdr_pageSt]
  split
  · rfl
  · split <;> rfl

/-! ### STOPPING ends, and faults -/

theorem stoppingEnd_idle {m : Mach} {p : Page} (h : m.pageSt p ≠ .stopping ∨ m.drainedPage p = false) : m.stoppingEnd p = m := by
  rcases h with h | h <;> simp [Mach.stoppingEnd, h]

/-- A page whose work in flight has ended reaches STOPPED (R39). -/
theorem stoppingEnd_stops {m : Mach} {p : Page} (hst : m.pageSt p = .stopping) (hd : m.drainedPage p = true) (q : Page) :
    (m.stoppingEnd p).pageSt q = if q = p then .stopped else m.pageSt q := by
  unfold Mach.stoppingEnd
  rw [if_pos (by simp [hst, hd]), Mach.settleDev_pageSt, Mach.stopEnds_pageSt, pageSt_ite']

theorem stoppingEnd_unserviced {m : Mach} (p : Page) (h : m.unserviced = true) : (m.stoppingEnd p).unserviced = true := by
  unfold Mach.unserviced
  rwa [Mach.stoppingEnd_bg]

/-- A faulted page with its PG_ERR bits, before the fault meets the work in flight in the block (R39). -/
def Mach.faulted (p : Page) (parity : Bool) (m : Mach) : Mach :=
  ((m.setPageSt p .faulted).raise p 2 0).when (parity && (pageCaps p).2.1) (Mach.raise p 3 0)

theorem faulted_steady (p : Page) (parity : Bool) (m : Mach) :
    ((m.setPageSt p .faulted).raise p 2 0).Steady (m.faulted p parity) := .ite (.raise (.refl _) ..) (.refl _)

theorem faulted_pageSt (p : Page) (parity : Bool) (m : Mach) (q : Page) :
    (m.faulted p parity).pageSt q = if q = p then .faulted else m.pageSt q := by
  unfold Mach.faulted
  rw [Mach.when_pageSt _ _ _ _ fun _ => Mach.raise_pageSt .., Mach.raise_pageSt, pageSt_ite']

/-- A block that is at work detects a fault: its page is FAULTED, and what was in flight there ends (R39). -/
theorem blockFault_eq {m : Mach} {p : Page} (parity : Bool)
    (hst : m.pageSt p = .starting ∨ m.pageSt p = .running ∨ m.pageSt p = .stopping) :
    m.blockFault p parity = ((m.faulted p parity).faultEnds p).settleDev := by
  unfold Mach.blockFault
  rcases hst with h | h | h <;> rw [h] <;> rfl

theorem blockFault_idle {m : Mach} {p : Page} (parity : Bool)
    (hst : m.pageSt p = .off ∨ m.pageSt p = .stopped ∨ m.pageSt p = .faulted) : m.blockFault p parity = m := by
  unfold Mach.blockFault
  rcases hst with h | h | h <;> rw [h]

/-! ### The obligation -/

/-- Settles O5: each end of a page's start, stop or work is one equation for the page's state, and after it management firmware has
nothing to do. -/
theorem pageTransitions : Obligations.PageTransitions := by
  unfold Obligations.PageTransitions
  refine ⟨?runs, ?rejects, ?untrained, ?notStarting, ?stops, ?stays, ?faults, ?notWorking⟩
  case runs =>
    intro s p tr hst hok ht hu hc
    exact completes_pageWork (Mach.startingEnd p tr) rfl hu hc (startingEnd_steady ..) (startingEnd_runs hst hok ht)
  case rejects =>
    intro s p tr hst hbad hu hc
    refine completes_pageWork (Mach.startingEnd p tr) rfl hu hc (startingEnd_steady ..) ?_
    rw [startingEnd_rejects hst hbad]
    exact ⟨fun q => by rw [Mach.raise_pageSt, pageSt_ite'], raise_sets _ _ _ (by decide), recorded_raise ..⟩
  case untrained =>
    intro s c hst hok htr hu hc
    refine completes_pageWork (Mach.startingEnd (.fch c) false) rfl hu hc (startingEnd_steady ..) ?_
    by_cases hrate : (s.m.chn c).rate = 3
    · have ht : s.m.startTrains (.fch c) false = some ((s.m.setPageSt (.fch c) .stopped).raise (.fch c) 20 0) := by
        simp [Mach.startTrains, htr, hrate]
      simp only [startingEnd_untrained hst hok ht, if_pos hrate]
      exact ⟨fun q => by rw [Mach.settleDev_pageSt, Mach.raise_pageSt, pageSt_ite'],
        Mach.Steady.err (.settleDev (.refl _)) _ _ (raise_sets _ _ _ (by decide))⟩
    · have ht : s.m.startTrains (.fch c) false =
          some (((s.m.setPageSt (.fch c) .faulted).raise (.fch c) 2 0).raise (.fch c) 16 0) := by
        simp [Mach.startTrains, htr, hrate]
      simp only [startingEnd_untrained hst hok ht, if_neg hrate]
      exact ⟨fun q => by rw [Mach.settleDev_pageSt, Mach.raise_pageSt, Mach.raise_pageSt, pageSt_ite'],
        Mach.Steady.err (.settleDev (.raise (.refl _) ..)) _ _ (raise_sets _ _ _ (by decide)),
        Mach.Steady.err (.settleDev (.refl _)) _ _ (raise_sets _ _ _ (by decide))⟩
  case notStarting =>
    intro s p tr hst hu hc
    exact completes_pageWork (Mach.startingEnd p tr) rfl hu hc (startingEnd_steady ..) (startingEnd_idle hst tr)
  case stops =>
    intro s p hst hd hu
    exact completes_eq (fun m => (m.stoppingEnd p).svcPoll) rfl (svcPoll_unserviced (stoppingEnd_unserviced p hu))
      (stoppingEnd_stops hst hd)
  case stays =>
    intro s p hst hu
    exact completes_eq (fun m => (m.stoppingEnd p).svcPoll) rfl (svcPoll_unserviced (stoppingEnd_unserviced p hu))
      (stoppingEnd_idle hst)
  case faults =>
    intro s p parity hst hu hc
    have hends : (s.m.faulted p parity).Steady (s.m.blockFault p parity) := by
      rw [blockFault_eq parity hst]
      exact .settleDev (.faultEnds (.refl _) p)
    have hset : s.m.Steady (s.m.faulted p parity) := .trans (.raise (.setPageSt (.refl _) ..) ..) (faulted_steady ..)
    refine completes_pageWork (Mach.blockFault p parity) rfl hu hc (hset.trans hends) ⟨fun q => ?_, ?_, fun hpar hcap => ?_⟩
    · rw [blockFault_eq parity hst, Mach.settleDev_pageSt, Mach.faultEnds_pageSt, faulted_pageSt]
    · exact ((faulted_steady ..).trans hends).err p 2 (raise_sets _ _ _ (by decide))
    · refine hends.err p 3 ?_
      unfold Mach.faulted Mach.when
      rw [hpar, hcap]
      exact raise_sets _ _ _ (by decide)
  case notWorking =>
    intro s p parity hst hu hc
    have hid := blockFault_idle parity hst
    exact completes_pageWork (Mach.blockFault p parity) rfl hu hc (by rw [hid]; exact .refl _) hid

end Sys2Proof.Machine

/-! The device resets (O8), the orderly stop (O9), the load (O12) and the port resets (O13). Each of the four statements fails in one clause,
at a state that is written out below with what the command makes of it. -/

namespace Sys2Proof.Machine

/-- A command that is said to complete leaves the machine that its meaning gives, as is said of it. -/
theorem of_completes {c : Instr} {s : State} {P : Mach → Prop} (f : Mach → Mach) (hx : exec c s = s.on f) (h : Completes c s P) :
    P (f s.m) := by
  obtain ⟨t, ht, -, hp⟩ := h
  rw [hx] at ht
  cases ht
  exact hp

/-! ### Power-on: the power-cycle count -/

/-- Where no version is held, a device reset with the power lost resumes PCC from the persisted ring (R55, R364). -/
theorem deviceReset_power_pcc (c : Nat) {m : Mach} (hv : ∀ x ∈ m.buf.vers, x.st ≠ .held) :
    (m.deviceReset true c).alm.pcc = maxWord (m.alm.pers.map (·.pcc)) := by
  change maxWord (((m.discardAllHeld.stop true).alm.pers).map (·.pcc)) = _
  rw [stop_alm, discardAllHeld_none m hv]

/-- At power-on PCC is one more than the persisted ring holds, and sticks at its last value (R364, Table 20.1). -/
theorem powerOn_pcc (straps : BitVec 3) {m : Mach} (hv : ∀ x ∈ m.buf.vers, x.st ≠ .held) :
    (m.powerOn straps).alm.pcc = stickWord (maxWord (m.alm.pers.map (·.pcc))) := by
  unfold Mach.powerOn
  rw [same_alm (bootGo_frame _).2.1 (by simp)]
  simp only [apply_ite Mach.alm, Mach.sampleStraps, Mach.updDev_alm, Mach.updAlm_alm, ite_self, deviceReset_power_pcc 0 hv]

/-- An Almanac record written in the last power cycle that PCC can count. -/
def lastCycleRec : AlmRec :=
  { seq := 0, pot := 0, pcc := 0xFFFFFFFF, sev := .info, src := 0x01, rep := 0, pinned := false, body := .event 0x0101 0 0 []
    persisted := true }

/-- A part that has reached its last power cycle. -/
def lastCycle : State := { m := { alm := { pers := [lastCycleRec] } } }

theorem lastCycle_pcc : (lastCycle.m.powerOn 0).alm.pcc = 0xFFFFFFFF := by
  rw [powerOn_pcc _ (by simp [lastCycle])]
  decide

/-- Refutes O8: power-on does not always add 1 to the power-cycle count, which sticks at its last value (Table 20.1) where the persisted
ring already holds it. -/
theorem not_deviceResets : ¬ Obligations.DeviceResets := by
  unfold Obligations.DeviceResets
  rintro ⟨hpower, -⟩
  obtain ⟨-, -, -, -, -, -, hpcc, -⟩ := of_completes (Mach.powerOn 0) rfl (hpower lastCycle 0)
  exact absurd (lastCycle_pcc.symm.trans hpcc) (by decide)

/-! ### An ORDERLY request before the part serves I/O -/

/-- A reset that the controller itself ends keeps the persisted ring as it stands once the held versions have been discarded (R55, R243). -/
theorem restart_pers (c : Nat) (m : Mach) : (m.restart c).alm.pers = m.discardAllHeld.alm.pers := by
  unfold Mach.restart
  rw [same_alm (bootGo_frame _).2.1 (by simp)]
  rw [← stop_alm false m.discardAllHeld]
  split <;> rfl

/-- Before the part serves I/O, an ORDERLY request acts as an immediate reset (R446). -/
theorem orderlyRequest_early {m : Mach} (hup : m.smbusUp = true) (hpf : m.dev.pf = .none) (hio : m.ioUp = false) :
    m.smbusRequest true Mach.orderlyRequest = m.restart 2 := by
  simp [Mach.smbusRequest, Mach.orderlyRequest, Mach.resetRequest, Mach.capMode, hup, hpf, hio]

/-- An Almanac record of slot i that has not been persisted. -/
def waitingRec (i : Nat) : AlmRec :=
  { seq := BitVec.ofNat 32 i, pot := 0, pcc := 1, sev := .info, src := 0x01, rep := 0, pinned := false
    body := .event 0x0101 0 0 [], persisted := false }

/-- A version that a DRAM error has taken an LB of, so that it is held (R242, R243). -/
def heldVer : Ver :=
  { id := 1, vol := 1, mu := 0, mask := 1, data := [], wsn := 1, st := .held, pos := 0, lampwb := 0, rmwTodo := [], rmwFail := false
    lost := 1, pri := false, cov := true, rsv := true, again := false }

/-- A part that has failed with a held version in its write buffer, and 127 records of its working ring not yet persisted. -/
def failedWithHeld : State :=
  { m := {
      dev := { st := .failed, stage := 10, loaded := true, started := true, formatted := true, flashDone := 0xFFFFFFFF, failCause := 1 }
      reg := { pg := [(Page.alm.base, { st := .running })] }
      buf := { vers := [heldVer] }
      alm := { ring := (List.range 127).map fun i => (i, waitingRec i), nextSeq := 127, buffered := false } } }

/-- The WARN of the version's discard is the 128th record that waits, and the batch is written to the persisted ring (R243, R370). -/
theorem failedWithHeld_writes : failedWithHeld.m.discardAllHeld.alm.pers ≠ [] := by decide +kernel

/-- Refutes O9: an ORDERLY request that acts as an immediate reset does not always keep the persisted Almanac ring. The reset discards the
held versions, each with a WARN record, and such a record can complete a batch of 128 that is written out. -/
theorem not_orderlyStopAndWatchdog : ¬ Obligations.OrderlyStopAndWatchdog := by
  unfold Obligations.OrderlyStopAndWatchdog
  rintro ⟨-, hearly, -⟩
  have h := of_completes (Mach.smbusRequest true Mach.orderlyRequest) rfl (hearly failedWithHeld rfl rfl rfl)
  rw [orderlyRequest_early (by rfl) (by rfl) (by rfl)] at h
  obtain ⟨-, ⟨-, -, -, -, hpers, -⟩, -⟩ := h
  exact failedWithHeld_writes ((restart_pers 2 _).symm.trans hpers)

/-! ### The load of the headland -/

/-- A root whose tables name one grown bad block, of die 0. -/
def grownBadRoot : Ckpt := { epoch := 1, bad := [(0, { grown := [{ block := 7, cause := 1, pot := 0 }] })] }

/-- A part in step 9 of its start-up that has that root. -/
def grownBadLoad : State :=
  { m := { dev := { st := .adminReady, stage := 7, formatted := true }, hdl := { roots := [grownBadRoot], epoch := 1, durable := 1 } } }

/-- The load takes the bad-block tables of the root into the dies (R273, R290). -/
theorem grownBadLoad_grown :
    ((grownBadLoad.m.headlandLoad []).die 0).grown = [{ block := 7, cause := 1, pot := 0 }] := by decide +kernel

/-- Refutes O12: the load does not leave the flash as it is but for the block tables and the retired channels. The bad-block tables of the dies
are loaded with them. -/
theorem not_headlandStart : ¬ Obligations.HeadlandStart := by
  unfold Obligations.HeadlandStart
  rintro ⟨-, hload, -⟩
  obtain ⟨-, -, -, -, -, hfl, -⟩ := of_completes (Mach.headlandLoad []) rfl (hload grownBadLoad [] grownBadRoot rfl rfl rfl)
  have hgrown := grownBadLoad_grown
  unfold Mach.die at hgrown
  rw [hfl] at hgrown
  cases hgrown

/-! ### The reset of a port -/

/-- A WRITE of one LB of volume 1, at LBA `lba`, that a host of port p has given and whose data is still awaited: it holds its range lock, and
x is its transfer to the twin partner. -/
def mirroredWrite (p : Port) (q : Fin 256) (lba x : Nat) : Cmd :=
  { qid := some q, port := some p, entry := mkEntry opWrite 1 lba 0, stage := .running, locked := true, todo := [0], xid := some x }

/-- Two mirrored WRITEs at work, one of each port. The transfer of port 0's goes first on the twin link and lacks its data, so that the WBEGIN
of port 1's waits behind it (R385). -/
def twoMirroredWrites : State :=
  { m := {
      dev := { st := .ioReady, stage := 10, fwRunning := true, loaded := true, formatted := true }
      reg := { pg := [(Page.twn.base, { st := .running })] }
      port := { p0 := { perst := false, up := true, everUp := true }, p1 := { perst := false, up := true, everUp := true } }
      vol := { v := [(1, { st := .ready, size := 2 ^ 20, mirrored := true, owner := true, twin := .inSync })] }
      q := {
        qp := [(8, { st := .active, port := .p0, depth := 4, inflight := 1 }), (9, { st := .active, port := .p1, depth := 4, inflight := 1 })]
        cmd := [(3, mirroredWrite .p0 8 0 5), (4, mirroredWrite .p1 9 8 6)]
        used := [3, 4] }
      twn := {
        up := true, expected := 77, paired := true, present := true, heard := 77, nextXid := 7
        tx := [(5, .cmd 3), (6, .cmd 4)]
        order := [{ xid := some 5, left := 1, held := [] },
          { xid := some 6, left := 1, held := [txFrame 0x10 0 6 0 (beginWords 1 0 8 0) 0] }] } } }

/-- The reset of port 0 abandons its WRITE, and with it the transfer, so that the other WBEGIN leaves the part (R71, R385). -/
theorem twoMirroredWrites_sends :
    (((twoMirroredWrites.m.perstAssert .p0).ctlRun.mailRun).port.get .p0).mboxFrom = 1 := by decide +kernel

/-- Refutes O13: what the port shows of its mailbox after the reset does not always begin where `out` ended before the command. The reset
abandons the port's commands first, and a frame of the twin link that waited behind one of them leaves the part meanwhile. -/
theorem not_portResets : ¬ Obligations.PortResets := by
  unfold Obligations.PortResets
  rintro ⟨hassert, -⟩
  have hclear := of_completes (fun m => (m.perstAssert .p0).ctlRun.mailRun) rfl (hassert twoMirroredWrites .p0 rfl ⟨rfl, rfl, rfl⟩)
  exact absurd (twoMirroredWrites_sends.symm.trans (congrArg PortSt.mboxFrom hclear.self)) Nat.one_ne_zero

end Sys2Proof.Machine

/-! The standard mailbox commands that read (O19): the mailbox takes the command up, and each has one equation for the payload that it answers
with (R85, R88, R93, R95). -/

namespace Sys2Proof.Machine

/-! ### The mailbox -/

/-- A standard command that the mailbox takes up, of R63's or while the part serves I/O, has its effect. -/
theorem completes_std {c i : Instr} {s : State} {p : Port} {early : Bool} {P : Mach → Prop} (f : Mach → Mach)
    (hx : exec c s = s.on (Mach.stdMail i p early f)) (hup : s.m.mailboxUp p = true) (hg : early = true ∨ s.m.mailGated = false)
    (hP : P (f s.m)) : Completes c s P := completes_eq _ hx (mail_open _ _ _ _ _ _ _ hup rfl hg) hP

theorem mailGated_iff (m : Mach) : m.mailGated = true ↔ m.ioUp = false ∨ m.dev.phase ≠ .idle := by simp [Mach.mailGated]

/-! ### The payloads -/

/-- The number of the staged slot is 0 where the active slot is the one that runs (R62). -/
theorem getFwInfo_eq {m : Mach} (p : Port) (h : m.dev.recovery = false) : m.getFwInfo p =
    m.ok p (leBytes 1 2 ++ leBytes 1 (m.dev.slot.val + 1 + 8 * if m.adm.active = m.dev.slot then 0 else m.adm.active.val + 1) ++
      leBytes 1 1 ++ leBytes 13 0 ++ m.adm.fw.p0.rev ++ m.adm.fw.p1.rev ++ leBytes 32 0) := by
  have hrun : m.runningSlot = m.dev.slot.val + 1 := by simp [Mach.runningSlot, h]
  have hsame : m.dev.slot.val + 1 = m.adm.active.val + 1 ↔ m.adm.active = m.dev.slot := by rw [Fin.ext_iff]; omega
  simp only [Mach.getFwInfo, hrun, hsame]

/-- The 16 bytes of firmware revision that Identify Memory Device gives, all 0 under the RECOVERY strap. -/
theorem revision_length (b : Bool) (x : FwSlot) : (if b then leBytes 16 0 else x.rev).length = 16 := by
  cases b <;> simp [FwSlot.rev, leBytes_length]

/-- Of the 67 bytes, the 8 from byte 16 on are the capacity of 256 TiB in units of 256 MiB (R93). -/
theorem identifyMemory_eq (p : Port) (m : Mach) : ∃ b : List Byte, m.identifyMemory p = (m.ok p b).draw ∧ b.length = 67 ∧
    (b.drop 16).take 8 = leBytes 8 (2 ^ 20) := by
  refine ⟨_, rfl, ?_, ?_⟩
  · simp only [List.length_append, revision_length, leBytes_length, Mach.stdBytes, List.length_map, List.length_range]
  · simp only [List.append_assoc]
    rw [List.drop_left' (revision_length ..), List.take_left' (leBytes_length ..)]

/-- Where no more entries meet the range than one answer carries, it holds them all, and its flag of more is 0 (R95). -/
theorem poisonList_eq {m : Mach} (p : Port) {dpa len : Nat} (h : (m.poisonIn dpa len).length ≤ 1022) : m.poisonList p dpa len =
    m.ok p (leBytes 2 (if m.adm.poisonOver then 2 else 0) ++ leBytes 8 0 ++ leBytes 2 (m.poisonIn dpa len).length ++ leBytes 20 0 ++
      (m.poisonIn dpa len).flatMap fun e => leBytes 8 (e.1 + e.2.2) ++ leBytes 4 e.2.1 ++ leBytes 4 0) := by
  have hall : (m.poisonIn dpa len).take poisonPerAnswer = m.poisonIn dpa len := List.take_of_length_le h
  simp [Mach.poisonList, hall]

/-! ### The obligation -/

/-- Settles O19: the mailbox takes each command up, and its answer is the payload of that command's equation, or the refusal. -/
theorem standardReads : Obligations.StandardReads := by
  unfold Obligations.StandardReads
  refine ⟨?events, ?firmware, ?logs, ?effects, ?noLog, ?identity, ?health, ?poison, ?gated⟩
  case events =>
    intro s p log hup
    refine completes_std _ rfl hup (.inl rfl) ?_
    rw [← List.length_take]
    exact replies_okd ..
  case firmware =>
    intro s p hup hrec
    refine completes_std _ rfl hup (.inl rfl) ?_
    rw [getFwInfo_eq p hrec]
    exact replies_ok ..
  case logs =>
    intro s p hup
    exact completes_std _ rfl hup (.inl rfl) (replies_okd ..)
  case effects =>
    intro s p off len hup hlen
    refine completes_std _ rfl hup (.inl rfl) ?_
    rw [Mach.getLog, if_pos (by simpa using hlen)]
    exact replies_ok ..
  case noLog =>
    intro s p cel off len hup hno
    refine completes_std _ rfl hup (.inl rfl) ?_
    rw [Mach.getLog, if_neg (by simpa [imp_iff_not_or] using hno)]
    exact replies_no ..
  case identity =>
    intro s p hup
    obtain ⟨b, hb, hlen, hcap⟩ := identifyMemory_eq p s.m
    refine completes_std _ rfl hup (.inl rfl) ?_
    rw [hb]
    exact ⟨⟨b, (replies_okd ..).1, hlen, hcap⟩, (replies_okd ..).2⟩
  case health =>
    intro s p hup
    refine completes_std _ rfl hup (.inl rfl) ?_
    exact ⟨⟨s.m.stdBytes 0x4200 0 18, by simp [Mach.stdBytes], (replies_okd ..).1⟩, (replies_okd ..).2⟩
  case poison =>
    intro s p dpa len hup hio hph hle
    refine completes_std _ rfl hup (.inr (by simp [Mach.mailGated, hio, hph])) ?_
    rw [poisonList_eq p hle]
    exact replies_ok ..
  case gated =>
    intro s p dpa len hup hg
    refine completes_eq _ rfl (mail_gated _ _ _ _ _ _ hup rfl ((mailGated_iff _).mpr hg)) ?_
    exact replies_no ..

end Sys2Proof.Machine

/-! Steps 1 to 5 of a start-up (O10): the check of a slot reads the boot blocks at 400 MT/s and then has one equation for each verdict; the start of
the firmware is one frame for each of its parts (R61, R62, R74, R178). -/

namespace Sys2Proof.Machine

/-! ### Channels changed one by one -/

/-- An update of some channels changes the channels' table of the flash, and nothing else. -/
theorem eachChan_frame (l : List Chan) (g : Chn → Chn) (m : Mach) :
    (m.each l fun c m => m.setChn c (g (m.chn c))).fl = { m.fl with ch := (m.each l fun c m => m.setChn c (g (m.chn c))).fl.ch } ∧
    Mach.SameBut [.fl] m (m.each l fun c m => m.setChn c (g (m.chn c))) := by
  refine ⟨?_, same_each _ _ (fun _ _ => same_updFl ..) _⟩
  unfold Mach.each
  induction l generalizing m with
  | nil => rfl
  | cons c l ih =>
    rw [List.foldl_cons, ih]
    rfl

/-- Each channel of the list, which names none twice, is updated once. -/
theorem eachChan_chn (l : List Chan) (g : Chn → Chn) (hl : l.Nodup) (m : Mach) (c : Chan) :
    (m.each l fun c m => m.setChn c (g (m.chn c))).chn c = if c ∈ l then g (m.chn c) else m.chn c := by
  unfold Mach.each
  induction l generalizing m with
  | nil => rfl
  | cons d l ih =>
    obtain ⟨hd, hl⟩ := List.nodup_cons.mp hl
    rw [List.foldl_cons, ih hl]
    by_cases hcd : c = d
    · subst hcd
      simp [hd]
    · simp [hcd, Mach.chn_setChn_ne]

/-! ### Step 3: the boot blocks are read at 400 MT/s (R178) -/

theorem bootRate_frame (m : Mach) : m.bootRate.fl = { m.fl with ch := m.bootRate.fl.ch } ∧ Mach.SameBut [.fl] m m.bootRate := by
  unfold Mach.bootRate
  split
  · exact eachChan_frame bootChans (fun x => { x with rate := 1 }) m
  · exact ⟨rfl, same_refl ..⟩

@[simp] theorem bootRate_dev (m : Mach) : m.bootRate.dev = m.dev := same_dev (bootRate_frame m).2 (by simp)
@[simp] theorem bootRate_adm (m : Mach) : m.bootRate.adm = m.adm := same_adm (bootRate_frame m).2 (by simp)
@[simp] theorem bootRate_imageFault (m : Mach) (k : Fin 2) : m.bootRate.imageFault k = m.imageFault k := by simp [Mach.imageFault]

theorem bootRate_chn {m : Mach} (h : m.dev.st = .boot) (c : Chan) :
    m.bootRate.chn c = if c ∈ bootChans then { m.chn c with rate := 1 } else m.chn c := by
  unfold Mach.bootRate
  rw [if_pos (by simp [h])]
  exact eachChan_chn bootChans (fun x => { x with rate := 1 }) (by decide) m c

/-! ### The straps -/

theorem strap_normal {d : Dev} (h : d.strap = 0) : d.isRecovery = false ∧ d.onlySlot = none := by
  simp [Dev.isRecovery, Dev.onlySlot, Dev.strapN, h]

theorem strap_only {d : Dev} (k : Fin 2) (h : d.strap = BitVec.ofNat 3 (k.val + 1)) : d.isRecovery = false ∧ d.onlySlot = some k := by
  have hn : d.strapN = k.val + 1 := by
    rw [Dev.strapN, h, BitVec.toNat_ofNat, Nat.mod_eq_of_lt (by omega)]
  refine ⟨by simp [Dev.isRecovery, hn]; omega, ?_⟩
  fin_cases k <;> simp [Dev.onlySlot, hn]

theorem strap_recovery {d : Dev} (h : d.strap = 3) : d.isRecovery = true := by simp [Dev.isRecovery, Dev.strapN, h]

/-! ### The verdicts (R62, Table 03.4) -/

@[simp] theorem slotPassed_tried (m : Mach) (k : Fin 2) : (m.slotPassed k).dev.tried = m.dev.tried := by
  unfold Mach.slotPassed
  dsimp only
  split <;> rfl

/-- In a start-up a slot that passes leads to step 4, with the write-protect bits of the T0 dies. -/
theorem slotPassed_boot {m : Mach} (h : m.dev.st = .boot) (k : Fin 2) : m.slotPassed k =
    { m with
      dev := { m.dev with
        slot := k, recovery := m.dev.isRecovery, checking := false, fallback := m.dev.fallback || !m.dev.tried.isEmpty, stage := 3 }
      fl := { m.fl with wpT0 := 3 } } := by
  unfold Mach.slotPassed
  rw [if_pos (by simp [h])]
  rfl

/-- The slot to check is bad for the reason w: its image has a fault, or the slot cannot be read. -/
def Mach.slotBad (m : Mach) (r : SlotRead) (k : Fin 2) (w : Nat) : Prop :=
  r ≠ .noBootBlocks ∧ (if r = .unreadable then some 0 else m.imageFault k) = some w

theorem slotBad_of {m : Mach} {r : SlotRead} {k : Fin 2} {w : Nat} (h : (r = .read ∧ m.imageFault k = some w) ∨ r = .unreadable) :
    ∃ v, m.slotBad r k v := by
  rcases h with ⟨rfl, h⟩ | rfl
  · exact ⟨w, by simp, h⟩
  · exact ⟨0, by simp, rfl⟩

section
variable {m : Mach} {r : SlotRead} {w : Nat} (hc : m.dev.checking = true)
include hc

theorem slotCheck_no_boot_blocks : m.slotCheck .noBootBlocks = m.bootRate.slotsFailed 6 := by simp [Mach.slotCheck, hc]

theorem slotCheck_recovery (hs : m.dev.strap = 3) : m.slotCheck .read = m.bootRate.slotPassed 0 := by
  simp [Mach.slotCheck, hc, strap_recovery hs]

theorem slotCheck_recovery_unreadable (hs : m.dev.strap = 3) : m.slotCheck .unreadable = m.bootRate.slotsFailed 7 := by
  simp [Mach.slotCheck, hc, strap_recovery hs]

/-- Under a strap that names one slot a bad image ends the check, by the reason (R62). -/
theorem slotCheck_only_bad {k : Fin 2} (hs : m.dev.strap = BitVec.ofNat 3 (k.val + 1)) (hb : m.slotBad r k w) :
    m.slotCheck r = m.bootRate.slotsFailed (if w = 1 then 5 else 2 + k.val) := by
  obtain ⟨hr, ho⟩ := strap_only k hs
  simp [Mach.slotCheck, Mach.slotToCheck, hc, hr, ho, hb.1, hb.2]

theorem slotCheck_active (hs : m.dev.strap = 0) (ht : m.dev.tried = []) (hi : m.imageFault m.adm.active = none) :
    m.slotCheck .read = m.bootRate.slotPassed m.adm.active := by
  obtain ⟨hr, ho⟩ := strap_normal hs
  simp [Mach.slotCheck, Mach.slotToCheck, hc, hr, ho, ht, hi]

theorem slotCheck_active_bad (hs : m.dev.strap = 0) (ht : m.dev.tried = []) (hb : m.slotBad r m.adm.active w) :
    m.slotCheck r = m.bootRate.updDev fun d => { d with tried := [m.adm.active] } := by
  obtain ⟨hr, ho⟩ := strap_normal hs
  simp [Mach.slotCheck, Mach.slotToCheck, hc, hr, ho, ht, hb.1, hb.2]

/-- The fall back to the other slot, with its WARN and the number of the slot that was bad (R62). -/
theorem slotCheck_other (hs : m.dev.strap = 0) (ht : m.dev.tried = [m.adm.active]) (hi : m.imageFault (m.adm.active + 1) = none) :
    m.slotCheck .read = ((m.bootRate.slotPassed (m.adm.active + 1)).updDev fun d =>
      { d with bootErr := if d.tried.contains 0 then 2 else 3 }).devEvent .warn 0x0104 0 [] := by
  obtain ⟨hr, ho⟩ := strap_normal hs
  simp [Mach.slotCheck, Mach.slotToCheck, hc, hr, ho, ht, hi]

theorem slotCheck_other_bad (hs : m.dev.strap = 0) (ht : m.dev.tried = [m.adm.active]) (hb : m.slotBad r (m.adm.active + 1) w) :
    m.slotCheck r = m.bootRate.slotsFailed 4 := by
  obtain ⟨hr, ho⟩ := strap_normal hs
  simp [Mach.slotCheck, Mach.slotToCheck, hc, hr, ho, ht, hb.1, hb.2]

end

/-! ### What a verdict changes -/

theorem bootRate_updDev (f : Dev → Dev) (m : Mach) : (m.bootRate.updDev f).dev = f m.dev ∧
    (m.bootRate.updDev f).fl = { m.fl with ch := (m.bootRate.updDev f).fl.ch } ∧ Mach.SameBut [.dev, .fl] m (m.bootRate.updDev f) := by
  obtain ⟨hfl, hs⟩ := bootRate_frame m
  exact ⟨by simp, hfl, same_trans (same_mono hs (by simp)) (by simp [Mach.SameBut])⟩

theorem bootRate_slotPassed {m : Mach} (h : m.dev.st = .boot) (k : Fin 2) :
    (m.bootRate.slotPassed k).dev = { m.dev with
      slot := k, recovery := m.dev.isRecovery, checking := false, fallback := m.dev.fallback || !m.dev.tried.isEmpty, stage := 3 } ∧
    (m.bootRate.slotPassed k).fl = { m.fl with wpT0 := 3, ch := m.bootRate.fl.ch } ∧
    Mach.SameBut [.dev, .fl] m (m.bootRate.slotPassed k) := by
  obtain ⟨hfl, hs⟩ := bootRate_frame m
  rw [slotPassed_boot (by simpa using h)]
  refine ⟨by simp, by rw [hfl], same_trans (same_mono hs (by simp)) (by simp [Mach.SameBut])⟩

/-- The fall back passes the other slot, and then nothing but the Almanac changes, by its WARN. -/
theorem slotCheck_other_frame {m : Mach} (hc : m.dev.checking = true) (hs : m.dev.strap = 0) (ht : m.dev.tried = [m.adm.active])
    (hi : m.imageFault (m.adm.active + 1) = none) (hb : m.dev.st = .boot) : ∃ u, Mach.Recorded u (m.slotCheck .read) ∧
    u.dev = { m.dev with
      slot := m.adm.active + 1, recovery := false, checking := false, fallback := true, stage := 3
      bootErr := if m.adm.active = 0 then 2 else 3 } ∧
    u.fl = { m.fl with wpT0 := 3, ch := m.bootRate.fl.ch } ∧ Mach.SameBut [.dev, .fl] m u := by
  obtain ⟨hdev, hfl, hsame⟩ := bootRate_slotPassed hb (m.adm.active + 1)
  rw [slotCheck_other hc hs ht hi]
  refine ⟨_, recorded_devEvent .., ?_, hfl, same_trans hsame (by simp [Mach.SameBut])⟩
  rw [Mach.updDev_dev, hdev]
  simp [strap_normal hs, ht, eq_comm (a := (0 : Fin 2))]

/-! ### Step 5 (R63) -/

theorem bringUps_same (l : List Page) (m : Mach) : Mach.SameBut [.reg] m (m.each l Mach.bringUp) :=
  same_each _ _ (fun p m => (bringUp_frame p m).2) _

/-- The start of the firmware ends step 5: domains are powered, pages are brought up, and the part is in ADMIN_READY. -/
theorem firmwareStart_boot {m : Mach} (hc : m.dev.checking = false) (hf : m.dev.fwRunning = false) (hb : m.dev.st = .boot)
    (hs : m.dev.stage = 3) : m.firmwareStart.dev = { m.dev with st := .adminReady, stage := 5, fwRunning := true } ∧
    Mach.SameBut [.dev, .reg, .pff, .adm, .alm, .thm] m m.firmwareStart := by
  unfold Mach.firmwareStart
  rw [if_neg (by simp [hc, hf]), if_pos (by simp [hb]), if_neg (by simp [hs])]
  extract_lets u v w x
  have hu : Mach.SameBut [.reg, .thm] m u := (powerUps_frame _ m).2
  have hv : v.dev = { m.dev with stage := 5, fwRunning := true } := by simp [v, same_dev hu]
  have hw : Mach.SameBut [.reg] v w := bringUps_same _ _
  obtain ⟨-, hx, hxd⟩ := setDev_frame .adminReady w
  have hdev : x.dev = { m.dev with st := .adminReady, stage := 5, fwRunning := true } := by
    rw [hxd, same_dev hw (by simp), hv]
  have hsame : Mach.SameBut [.dev, .reg, .pff, .adm, .alm, .thm] m x :=
    same_trans (same_mono hu (by simp)) <| same_trans (b := v) (by simp [Mach.SameBut, v]) <|
      same_trans (same_mono hw (by simp)) (same_mono hx (by simp))
  split
  · exact ⟨(Mach.devEvent_dev ..).trans hdev, same_trans hsame (same_mono (recorded_devEvent ..).same (by simp))⟩
  · exact ⟨hdev, hsame⟩

theorem powerUp_steady {a m : Mach} (h : a.Steady m) (i : Nat) : a.Steady (m.powerUp i) :=
  .ite h (.each h.parts _ _ fun _ _ h => h.setPageSt ..)

theorem bringUp_steady {a m : Mach} (h : a.Steady m) (p : Page) : a.Steady (m.bringUp p) := .ite (h.setPageSt ..) h

/-- The start of the firmware leaves nothing for it to do but what waited before. -/
theorem firmwareStart_steady (m : Mach) : m.Steady m.firmwareStart := by
  have hm := Mach.Steady.refl m
  unfold Mach.firmwareStart
  extract_lets u v w x
  have hv : m.Steady v := .parts (hm.each _ _ fun i _ h => powerUp_steady h i)
  have hx : m.Steady x := .setDev (hv.each _ _ fun p _ h => bringUp_steady h p) _
  exact .ite hm (.ite (.ite hm (.ite (hx.event ..) hx)) (.ite hm hm.parts))

/-- After a restart of the firmware alone nothing else changes. -/
theorem firmwareStart_restart {m : Mach} (hc : m.dev.checking = false) (hf : m.dev.fwRunning = false) (hb : m.dev.st ≠ .boot)
    (hh : m.dev.fwHalt = false) : m.firmwareStart = { m with dev := { m.dev with fwRunning := true } } := by
  unfold Mach.firmwareStart
  rw [if_neg (by simp [hc, hf]), if_neg (by simpa using hb), if_neg (by simp [hh])]
  rfl

theorem completes_firmwareStart {s : State} {P : Mach → Prop} (hc : s.m.Calm) (hP : P s.m.firmwareStart) :
    Completes .managementFirmwareStart s P :=
  completes_eq (fun m => m.firmwareStart.ctlRun.mailRun) rfl (calm_quiet ((firmwareStart_steady s.m).calm hc)) hP

/-! ### The obligation -/

/-- Settles O10: each verdict of the check is one equation, and the start of the firmware one frame. -/
theorem bootSteps : Obligations.BootSteps := by
  unfold Obligations.BootSteps
  refine ⟨?fuses, ?badFuses, ?active, ?activeBad, ?other, ?otherBad, ?only, ?recovery, ?unreadable, ?firmware, ?restart, ?go⟩
  case fuses =>
    intro s hst hstage herr
    refine completes_on _ rfl ?_
    simp [Mach.fuseCheck, hst, hstage, herr, Mach.updDev]
  case badFuses =>
    intro s hst hstage herr
    refine completes_on _ rfl ?_
    simp [Mach.fuseCheck, hst, hstage, herr, Mach.updDev]
  case active =>
    intro s hc hs ht hi hb
    refine completes_eq _ rfl (slotCheck_active hc hs ht hi) ?_
    obtain ⟨hdev, hfl, hsame⟩ := bootRate_slotPassed hb s.m.adm.active
    refine ⟨by rw [hdev]; simp [strap_normal hs, ht], by rw [hfl], fun c => ?_, hsame⟩
    rw [← bootRate_chn hb]
    simp only [Mach.chn, hfl]
  case activeBad =>
    intro s w r hc hs ht hbad
    obtain ⟨v, hb⟩ := slotBad_of hbad
    exact completes_eq _ rfl (slotCheck_active_bad hc hs ht hb) (bootRate_updDev ..)
  case other =>
    intro s hc hs ht hi hb
    obtain ⟨u, hrec, hdev, hfl, hsame⟩ := slotCheck_other_frame hc hs ht hi hb
    refine completes_on (Mach.slotCheck .read) rfl ⟨?_, ?_, ?_, ?_⟩
    · rw [same_dev hrec.same (by simp), hdev]
    · rw [same_fl hrec.same (by simp), hfl]
    · rw [hrec.adm, same_adm hsame (by simp)]
    · exact same_trans (same_mono hsame (by simp)) (same_mono hrec.same (by simp))
  case otherBad =>
    intro s w r hc hs ht hbad
    obtain ⟨v, hb⟩ := slotBad_of hbad
    exact completes_eq _ rfl (slotCheck_other_bad hc hs ht hb) (bootRate_updDev ..)
  case only =>
    intro s k w hc hs hi
    exact completes_eq _ rfl (slotCheck_only_bad hc hs ⟨by simp, hi⟩) (bootRate_updDev ..)
  case recovery =>
    intro s hc hs hb ht
    refine completes_eq _ rfl (slotCheck_recovery hc hs) ?_
    obtain ⟨hdev, hfl, hsame⟩ := bootRate_slotPassed hb 0
    exact ⟨by rw [hdev]; simp [strap_recovery hs, ht], by rw [hfl], hsame⟩
  case unreadable =>
    rintro s r hc (rfl | ⟨hs, rfl⟩)
    · exact completes_eq _ rfl (slotCheck_no_boot_blocks hc) (bootRate_updDev ..)
    · exact completes_eq _ rfl (slotCheck_recovery_unreadable hc hs) (bootRate_updDev ..)
  case firmware =>
    intro s hc hf hb hs hcalm
    exact completes_firmwareStart hcalm (firmwareStart_boot hc hf hb hs)
  case restart =>
    intro s hc hf hb hh hcalm
    exact completes_firmwareStart hcalm (firmwareStart_restart hc hf hb hh)
  case go =>
    intro s a hst hstage
    refine completes_on _ rfl ?_
    simp [Mach.bootctlGo, starting_of hst hstage, Mach.updDev]

end Sys2Proof.Machine

/-! What the entry into FAILED leaves alone (for O11): the end of every command in flight and of every held request reaches neither volumes, furrows,
headland, DRAM channels, keys, thermal state nor the test access port (R18). -/

namespace Sys2Proof.Machine

/-- The parts that the end of what is in flight may change. -/
def endParts : List Part := [.dev, .reg, .pff, .port, .adm, .q, .buf, .lamp, .fl, .alm, .twn, .out, .free]

/-- From a to b at most the parts have changed that the end of what is in flight may change. -/
def Mach.Ending (a b : Mach) : Prop := Mach.SameBut endParts a b

namespace Mach.Ending

variable {a m u : Mach}

/-! ### Composition -/

theorem refl (a : Mach) : a.Ending a := same_refl ..

theorem trans (h : a.Ending m) (g : m.Ending u) : a.Ending u := same_trans h g

theorem of_same (h : a.Ending m) {ps : List Part} (g : Mach.SameBut ps m u) (hps : ∀ p ∈ ps, p ∈ endParts := by decide) : a.Ending u :=
  same_trans h (same_mono g hps)

theorem ite {c : Prop} [Decidable c] (hm : a.Ending m) (hu : a.Ending u) : a.Ending (if c then m else u) := by
  split
  · exact hm
  · exact hu

theorem each {α : Type} (h : a.Ending m) (l : List α) (f : α → Mach → Mach) (hf : ∀ x m, Mach.Ending m (f x m)) : a.Ending (m.each l f) :=
  h.trans (same_each l f hf m)

/-! ### Updates of one part -/

theorem updDev (h : a.Ending m) (f : Dev → Dev) : a.Ending (m.updDev f) := h.trans (by simp [Ending, endParts, Mach.SameBut])
theorem updQ (h : a.Ending m) (f : Queues → Queues) : a.Ending (m.updQ f) := h.trans (by simp [Ending, endParts, Mach.SameBut])
theorem updBuf (h : a.Ending m) (f : Buf → Buf) : a.Ending (m.updBuf f) := h.trans (by simp [Ending, endParts, Mach.SameBut])
theorem updLamp (h : a.Ending m) (f : Lamp → Lamp) : a.Ending (m.updLamp f) := h.trans (by simp [Ending, endParts, Mach.SameBut])
theorem updFl (h : a.Ending m) (f : Flash → Flash) : a.Ending (m.updFl f) := h.trans (by simp [Ending, endParts, Mach.SameBut])
theorem updAdm (h : a.Ending m) (f : Admin → Admin) : a.Ending (m.updAdm f) := h.trans (by simp [Ending, endParts, Mach.SameBut])
theorem updTwn (h : a.Ending m) (f : Twin → Twin) : a.Ending (m.updTwn f) := h.trans (by simp [Ending, endParts, Mach.SameBut])
theorem updPort (h : a.Ending m) (p : Port) (f : PortSt → PortSt) : a.Ending (m.updPort p f) :=
  h.trans (by simp [Ending, endParts, Mach.SameBut])
theorem send (h : a.Ending m) (o : Out) : a.Ending (m.send o) := h.trans (by simp [Ending, endParts, Mach.SameBut])
theorem draw (h : a.Ending m) : a.Ending m.draw := h.trans (by simp [Ending, endParts, Mach.SameBut])

/-! ### Registers and records -/

theorem touch (h : a.Ending m) (p : Page) : a.Ending (m.touch p) := h.of_same (ps := [.reg]) (by simp [Mach.SameBut])
theorem bump (h : a.Ending m) (k : Nat) : a.Ending (m.bump k) := h.of_same (sb_bump ..)
theorem bump64 (h : a.Ending m) (k : Nat) : a.Ending (m.bump64 k) := h.of_same (ps := [.reg]) (by simp [Mach.SameBut])
theorem raiseTo (h : a.Ending m) (k n top : Nat) : a.Ending (m.raiseTo k n top) :=
  h.of_same (ps := [.reg]) (by simp [Mach.SameBut])
theorem raise (h : a.Ending m) (p : Page) (i : Nat) (arg : BitVec 64) : a.Ending (m.raise p i arg) := h.of_same (raise_same ..)
theorem recorded (h : a.Ending m) (g : Mach.Recorded m u) : a.Ending u := h.of_same g.same

/-! ### The twin link's sequenced frames -/

theorem twnGo (h : a.Ending m) (f : Frame) : a.Ending (m.twnGo f) := ite (((h.updTwn _).send _).bump64 _) (h.updTwn _)

theorem twnNext (h : a.Ending m) (n : Nat) : a.Ending (m.twnNext n) := by
  induction n generalizing m with
  | zero => exact h
  | succ n ih =>
    unfold Mach.twnNext
    split
    · exact h
    · rename_i o os _
      have hg : a.Ending (m.each o.held Mach.twnGo) := h.each _ _ fun f m => (refl m).twnGo f
      exact ite (ih (hg.updTwn _)) (hg.updTwn _)

theorem twnQueue (h : a.Ending m) (x : TxOpen) : a.Ending (m.twnQueue x) := ite h ((h.updTwn _).twnNext _)

theorem twnForget (h : a.Ending m) (s : Nat) : a.Ending (m.twnForget s) := by
  unfold Mach.twnForget
  exact (h.each _ _ fun x m => twnNext ((refl m).updTwn _) _).updTwn _

/-! ### Commands -/

theorem setCmd (h : a.Ending m) (s : Nat) (c : Cmd) : a.Ending (m.setCmd s c) := h.updQ _

theorem admitCmd (h : a.Ending m) (s : Nat) : a.Ending (m.admitCmd s) := by
  have hc := h.setCmd s { m.cmd s with stage := .admitted }
  exact ite (((hc.updTwn _).setCmd ..).twnQueue _) hc

theorem release (h : a.Ending m) (s : Nat) : a.Ending (m.release s) := by
  refine ite h (((h.setCmd ..).touch _).each _ _ fun t m => ?_)
  have hw := (refl m).setCmd t { m.cmd t with wait := (m.cmd t).wait.filter (· != s) }
  exact ite (ite (((hw.draw.raiseTo ..).recorded (recorded_observe ..)).admitCmd t) hw) (refl m)

theorem freeSlot (h : a.Ending m) (s : Nat) : a.Ending (m.freeSlot s) := (((h.twnForget s).updQ _).setCmd ..).touch _

theorem complete (h : a.Ending m) (s status dw2 dw3 : Nat) : a.Ending (m.complete s status dw2 dw3) := by
  unfold Mach.complete
  extract_lets c o m₁ m₂ m₃ u₁ m₄ us m₅ m₆
  have h₂ : a.Ending m₂ := (h.release s).updFl _
  have h₃ : a.Ending m₃ := ite (h₂.updBuf _) h₂
  have h₄ : a.Ending m₄ := ite (ite ((h₃.updAdm _).raise ..) (h₃.updAdm _)) h₃
  have h₅ : a.Ending m₅ := ite (h₄.draw.recorded (recorded_observe ..)) h₄
  have h₆ : a.Ending m₆ := by
    unfold m₆
    split
    · exact ((h₅.updQ _).touch _).send _
    · exact h₅
  exact h₆.freeSlot s

theorem putDesc (h : a.Ending m) (key : Nat) (d : Desc) : a.Ending (m.putDesc key d) := (h.updLamp _).of_same (lnt_same ..)

theorem frameCheck (h : a.Ending m) (key : Nat) : a.Ending (m.frameCheck key) := h.of_same (quiet_frameCheck ..).same

theorem wbClear (h : a.Ending m) (s k p : Nat) : a.Ending (m.wbClear s k p) :=
  (ite (h.setCmd ..) ((h.setCmd ..).putDesc ..) : a.Ending (Mach.pendwCheck ..)).frameCheck k

theorem wbAbandon (h : a.Ending m) (s : Nat) : a.Ending (m.wbAbandon s) := by
  unfold Mach.wbAbandon
  split
  · exact (ite h (h.putDesc ..)).wbClear ..
  · exact h

theorem cutWith (h : a.Ending m) (s status dw2 dw3 : Nat) : a.Ending (m.cutWith s status dw2 dw3) := by
  have hc := (h.wbAbandon s).setCmd s
    { (m.wbAbandon s).cmd s with todo := [], cover := [], covering := false, unsent := [] }
  exact (ite (hc.of_same (quiet_pendlRange ..).same) hc).complete ..

theorem failCommands (h : a.Ending m) : a.Ending m.failCommands := by
  refine h.each _ _ fun s m => ?_
  dsimp only
  split
  · exact refl m
  all_goals exact (refl m).cutWith ..

/-! ### Held requests -/

theorem memEnd (h : a.Ending m) (p : Port) : a.Ending (m.memEnd p) := (h.updPort ..).touch _

theorem memMiss (h : a.Ending m) (r : LampReq) : a.Ending (m.memMiss r) :=
  ite (((h.bump _).send _).memEnd _) (ite h ((h.send _).memEnd _))

theorem dropHeld (h : a.Ending m) : a.Ending m.dropHeld := (h.updLamp _).each _ _ fun r m => (refl m).memMiss r

/-! ### The failure -/

/-- The entry into FAILED changes no other part (R18). -/
theorem fail (h : a.Ending m) (cause : Nat) : a.Ending (m.fail cause) := by
  unfold Mach.fail
  extract_lets m₁ m₂ m₃
  have h₂ : a.Ending m₂ := ((h.updDev _).of_same (setDev_frame ..).2.1).failCommands.dropHeld
  have h₃ : a.Ending m₃ := h₂.each _ _ fun p m => ite (((updPort (refl m) ..).touch _).send _) (refl m)
  exact ite h (h₃.recorded (recorded_devEvent ..))

end Mach.Ending

end Sys2Proof.Machine

/-! Training (O11): step 6 on one DRAM channel and step 7 on one flash channel, what each changes, and the failure that ends them (R63, R178 to
R180, R307). -/

namespace Sys2Proof.Machine

/-! ### Pages -/

/-- What leaves the registers leaves the pages' states. -/
theorem same_pageSt {ps : List Part} {a b : Mach} (h : Mach.SameBut ps a b) (n : .reg ∉ ps) (q : Page) : b.pageSt q = a.pageSt q := by
  unfold Mach.pageSt Mach.hdr
  rw [same_reg h n]

theorem bringUp_stopped {m : Mach} {p : Page} (h : m.pageSt p = .stopped) : m.bringUp p = m.setPageSt p .running := by
  simp [Mach.bringUp, h]

theorem bringUp_pageSt_ne (p : Page) (m : Mach) {q : Page} (h : q ≠ p) : (m.bringUp p).pageSt q = m.pageSt q := by
  unfold Mach.bringUp
  split
  · exact Mach.pageSt_setPageSt_ne _ _ _ _ h
  · rfl

theorem bringUp_fl (p : Page) (m : Mach) : (m.bringUp p).fl = m.fl := same_fl (bringUp_frame p m).2 (by simp)

/-- A channel that does not train: its page is FAULTED, with both errors of training (R178, R180). -/
def Mach.trainingFault (m : Mach) (p : Page) : Mach := ((m.setPageSt p .faulted).raise p 2 0).raise p 16 0

@[simp] theorem trainingFault_dev (m : Mach) (p : Page) : (m.trainingFault p).dev = m.dev := by simp [Mach.trainingFault]

theorem trainingFault_pageSt (m : Mach) (p q : Page) : (m.trainingFault p).pageSt q = if q = p then .faulted else m.pageSt q := by
  simp [Mach.trainingFault, pageSt_ite']

theorem trainingFault_same (m : Mach) (p : Page) : Mach.SameBut [.reg, .pff, .adm, .alm] m (m.trainingFault p) :=
  same_trans (same_trans (by simp [Mach.SameBut]) (raise_same ..)) (raise_same ..)

/-! ### Step 6: the DRAM channels (R178, R307) -/

theorem learnEyes_same (d : Fin 4) (m : Mach) : Mach.SameBut [.drc, .free] m (m.learnEyes d) := by simp [Mach.SameBut, Mach.learnEyes]

theorem learnEyes_trained (d : Fin 4) (m : Mach) : ((m.learnEyes d).dram d).trained = true := by
  simp [Mach.learnEyes]

theorem learnEyes_dram_ne (d : Fin 4) (m : Mach) {j : Fin 4} (h : j ≠ d) : (m.learnEyes d).dram j = m.dram j := by
  simp only [Mach.learnEyes, Mach.draw_dram]
  exact Mach.dram_setDram_ne _ _ _ _ h

/-- Step 6 on channel d has ended. -/
def Dev.dramEnded (x : Dev) (d : Fin 4) : Dev := { x with dramDone := x.dramDone ||| BitVec.ofNat 4 (2 ^ d.val) }

/-- A channel that trains, with its eyes. -/
def Mach.dramLearnt (m : Mach) (d : Fin 4) : Mach := (m.updDev (·.dramEnded d)).learnEyes d

/-- A channel that trains, with its page RUNNING. -/
def Mach.dramPassed (m : Mach) (d : Fin 4) : Mach := (m.dramLearnt d).bringUp (.drc d)

/-- A channel that does not train, up to the part's failure. -/
def Mach.dramFaulted (m : Mach) (d : Fin 4) : Mach :=
  ((m.updDev (·.dramEnded d)).updDev fun x => { x with dramFail := x.dramFail ||| BitVec.ofNat 4 (2 ^ d.val) }).trainingFault (.drc d)

theorem dramLearnt_same (m : Mach) (d : Fin 4) : Mach.SameBut [.dev, .drc, .free] m (m.dramLearnt d) :=
  same_trans (b := m.updDev (·.dramEnded d)) (by simp [Mach.SameBut]) (same_mono (learnEyes_same ..) (by simp))

theorem dramPassed_frame (m : Mach) (d : Fin 4) :
    m.RegsBut [] (m.dramPassed d) ∧ Mach.SameBut [.dev, .reg, .drc, .free] m (m.dramPassed d) := by
  have he := dramLearnt_same m d
  obtain ⟨hregs, hsame⟩ := bringUp_frame (.drc d) (m.dramLearnt d)
  exact ⟨rb_trans (rb_of_reg (same_reg he (by simp))) hregs, same_trans (same_mono he (by simp)) (same_mono hsame (by simp))⟩

theorem dramPassed_dev (m : Mach) (d : Fin 4) : (m.dramPassed d).dev = m.dev.dramEnded d := by
  rw [Mach.dramPassed, Mach.bringUp_dev, Mach.dramLearnt, same_dev (learnEyes_same ..) (by simp)]
  rfl

theorem dramPassed_pageSt {m : Mach} {d : Fin 4} (h : m.pageSt (.drc d) = .stopped) (q : Page) :
    (m.dramPassed d).pageSt q = if q = .drc d then .running else m.pageSt q := by
  have he := same_pageSt (dramLearnt_same m d) (by simp)
  rw [Mach.dramPassed, bringUp_stopped ((he _).trans h), pageSt_ite', he]

theorem dramPassed_dram (m : Mach) (d j : Fin 4) : (m.dramPassed d).dram j = (m.dramLearnt d).dram j := by
  unfold Mach.dram Mach.dramPassed
  rw [same_drc (bringUp_frame ..).2 (by simp)]

theorem dramPassed_trained (m : Mach) (d : Fin 4) : ((m.dramPassed d).dram d).trained = true := by
  rw [dramPassed_dram]
  exact learnEyes_trained ..

theorem dramPassed_dram_ne (m : Mach) {d j : Fin 4} (h : j ≠ d) : (m.dramPassed d).dram j = m.dram j := by
  rw [dramPassed_dram]
  exact learnEyes_dram_ne _ _ h

/-- The end of step 6, with the DRAM group's page brought up. -/
def Mach.dramsDone (m : Mach) : Mach := (m.updDev fun x => { x with stage := 6 }).bringUp .drg

theorem dramsDone_dev (m : Mach) : m.dramsDone.dev = { m.dev with stage := 6 } := Mach.bringUp_dev ..

theorem dramsDone_pageSt_ne (m : Mach) {q : Page} (h : q ≠ .drg) : m.dramsDone.pageSt q = m.pageSt q := bringUp_pageSt_ne _ _ h

theorem dramsDone_frame (m : Mach) : m.RegsBut [] m.dramsDone ∧ Mach.SameBut [.dev, .reg] m m.dramsDone := by
  obtain ⟨hregs, hsame⟩ := bringUp_frame .drg (m.updDev fun x => { x with stage := 6 })
  exact ⟨hregs, same_trans (b := m.updDev _) (by simp [Mach.SameBut]) (same_mono hsame (by simp))⟩

theorem dramsDone_dram (m : Mach) (j : Fin 4) : m.dramsDone.dram j = m.dram j := by
  unfold Mach.dram
  rw [same_drc (dramsDone_frame m).2 (by simp)]

section
variable {m : Mach} {d : Fin 4} (hst : m.dev.st = .adminReady) (hstage : m.dev.stage = 5) (hd : m.dev.dramDone.getLsbD d.val = false)
include hst hstage hd

/-- With the fourth channel step 6 ends. -/
theorem dramTrained_passed : m.dramTrained d true =
    if (m.dramPassed d).dev.dramDone = 15 then (m.dramPassed d).dramsDone else m.dramPassed d := by
  unfold Mach.dramTrained
  rw [if_neg (by rw [starting_of hst hstage, hd]; simp)]
  rfl

theorem dramTrained_failed : m.dramTrained d false = (m.dramFaulted d).fail 2 := by
  unfold Mach.dramTrained
  rw [if_neg (by rw [starting_of hst hstage, hd]; simp)]
  rfl

end

/-! ### Step 7: one flash channel (R178 to R180) -/

theorem learnDies_same (c : Chan) (l : List ParamPage) (m : Mach) : Mach.SameBut [.fl] m (m.each l (Mach.learnDie c)) :=
  same_each l (Mach.learnDie c) (fun _ _ => same_updFl ..) m

theorem learnDies_chn (c : Chan) (l : List ParamPage) (m : Mach) (j : Chan) : (m.each l (Mach.learnDie c)).chn j = m.chn j := by
  unfold Mach.each
  induction l generalizing m with
  | nil => rfl
  | cons i l ih =>
    rw [List.foldl_cons, ih]
    rfl

theorem learnDies_runSlot (c : Chan) (l : List ParamPage) (m : Mach) : (m.each l (Mach.learnDie c)).runSlot = m.runSlot := by
  have h := learnDies_same c l m
  unfold Mach.runSlot
  rw [same_dev h (by simp), same_adm h (by simp)]

/-- Does the training of a channel pass, with dies that fit? -/
def Mach.chanPasses (m : Mach) (x : ChanTraining) : Bool := x.ok && x.dies.all m.dieFits

theorem chanPasses_of {m : Mach} {x : ChanTraining} (hok : x.ok = true) (hd : x.dies.all m.dieFits = true) : m.chanPasses x = true := by
  rw [Mach.chanPasses, hok, hd]
  rfl

theorem chanFails_of {m : Mach} {x : ChanTraining} (h : x.ok = false ∨ x.dies.all m.dieFits = false) : m.chanPasses x = false := by
  rwa [Mach.chanPasses, Bool.and_eq_false_iff]

/-- What a channel keeps of a training that passed. -/
def Mach.learnt (m : Mach) (c : Chan) (x : ChanTraining) : Chn :=
  { m.chn c with
    trained := true, deskew := deskewPasses (x.windows.map centred), windows := x.windows.map centred
    extqual := x.dies.all fun i => (dieInfoOf i m.runSlot.img.diecap).extrate }

/-- A channel that trains, with what training learnt of it and of its dies. -/
def Mach.chanLearnt (m : Mach) (c : Chan) (x : ChanTraining) : Mach := (m.each x.dies (Mach.learnDie c)).setChn c (m.learnt c x)

theorem chanLearnt_same (m : Mach) (c : Chan) (x : ChanTraining) : Mach.SameBut [.fl] m (m.chanLearnt c x) :=
  same_trans (learnDies_same ..) (same_updFl ..)

theorem chanLearnt_chn (m : Mach) (c : Chan) (x : ChanTraining) (j : Chan) :
    (m.chanLearnt c x).chn j = if j = c then m.learnt c x else m.chn j := by
  unfold Mach.chanLearnt
  split
  · subst j
    rw [Mach.chn_setChn_same]
  · rw [Mach.chn_setChn_ne _ _ _ _ ‹_›, learnDies_chn]

/-- The one die that training read has its parameter page. -/
theorem chanLearnt_die (m : Mach) (c : Chan) {x : ChanTraining} {i : ParamPage} (h : x.dies = [i]) :
    ((m.chanLearnt c x).die (dieOf c i.row.val)).info = some (dieInfoOf i m.runSlot.img.diecap) := by
  have e : (m.chanLearnt c x).die (dieOf c i.row.val) = (m.learnDie c i).die (dieOf c i.row.val) := by
    rw [Mach.chanLearnt, h]
    rfl
  rw [e, Mach.learnDie, Mach.die_setDie_same]

theorem chanTrained_passed {m : Mach} {c : Chan} {x : ChanTraining} (h : m.chanPasses x = true) :
    m.chanTrained c x = (m.chanLearnt c x).bringUp (.fch c) := by
  refine (if_pos h).trans ?_
  simp only [Mach.chanLearnt, Mach.learnt, learnDies_chn, learnDies_runSlot]

theorem chanTrained_failed {m : Mach} {c : Chan} {x : ChanTraining} (h : m.chanPasses x = false) :
    m.chanTrained c x = (m.updDev fun x => { x with flashFail := x.flashFail ||| bit32 c.val }).trainingFault (.fch c) :=
  if_neg (by simpa [Mach.chanPasses] using h)

theorem chanTrained_dev (m : Mach) (c : Chan) (x : ChanTraining) : (m.chanTrained c x).dev =
    if m.chanPasses x then m.dev else { m.dev with flashFail := m.dev.flashFail ||| bit32 c.val } := by
  split
  · rename_i h
    rw [chanTrained_passed h, Mach.bringUp_dev, same_dev (chanLearnt_same ..) (by simp)]
  · rename_i h
    rw [chanTrained_failed (by simpa using h), trainingFault_dev]
    rfl

theorem chanTrained_fl {m : Mach} {c : Chan} {x : ChanTraining} (h : m.chanPasses x = true) :
    (m.chanTrained c x).fl = (m.chanLearnt c x).fl := by
  rw [chanTrained_passed h, bringUp_fl]

theorem chanTrained_chn {m : Mach} {c : Chan} {x : ChanTraining} (h : m.chanPasses x = true) (j : Chan) :
    (m.chanTrained c x).chn j = if j = c then m.learnt c x else m.chn j := by
  rw [← chanLearnt_chn]
  unfold Mach.chn
  rw [chanTrained_fl h]

theorem chanTrained_die {m : Mach} {c : Chan} {x : ChanTraining} {i : ParamPage} (h : m.chanPasses x = true) (hi : x.dies = [i]) :
    ((m.chanTrained c x).die (dieOf c i.row.val)).info = some (dieInfoOf i m.runSlot.img.diecap) := by
  rw [← chanLearnt_die m c hi]
  unfold Mach.die
  rw [chanTrained_fl h]

theorem chanTrained_passed_frame {m : Mach} {c : Chan} {x : ChanTraining} (h : m.chanPasses x = true) :
    m.RegsBut [] (m.chanTrained c x) ∧ m.SameBut [.reg, .fl] (m.chanTrained c x) := by
  have hs := chanLearnt_same m c x
  rw [chanTrained_passed h]
  obtain ⟨hregs, hsame⟩ := bringUp_frame (.fch c) (m.chanLearnt c x)
  exact ⟨rb_trans (rb_of_reg (same_reg hs (by simp))) hregs, same_trans (same_mono hs (by simp)) (same_mono hsame (by simp))⟩

theorem chanTrained_passed_pageSt {m : Mach} {c : Chan} {x : ChanTraining} (h : m.chanPasses x = true)
    (hp : m.pageSt (.fch c) = .stopped) (q : Page) : (m.chanTrained c x).pageSt q = if q = .fch c then .running else m.pageSt q := by
  have hs := same_pageSt (chanLearnt_same m c x) (by simp)
  rw [chanTrained_passed h, bringUp_stopped ((hs _).trans hp), pageSt_ite', hs]

theorem chanTrained_failed_pageSt {m : Mach} {c : Chan} {x : ChanTraining} (h : m.chanPasses x = false) (q : Page) :
    (m.chanTrained c x).pageSt q = if q = .fch c then .faulted else m.pageSt q := by
  rw [chanTrained_failed h, trainingFault_pageSt, Mach.updDev_pageSt]

/-! ### The rate of a group (R178, R179) -/

theorem mem_groupOf {c j : Chan} : j ∈ groupOf c ↔ j.val / 4 = c.val / 4 := by simp [groupOf]

theorem groupOf_nodup (c : Chan) : (groupOf c).Nodup := (List.nodup_finRange 32).filter _

/-- While a channel of the group has yet to end its training, no rate is fixed. -/
theorem fixRate_waits {m : Mach} {c j : Chan} (hj : j ∈ groupOf c) (hd : m.dev.flashDone.getLsbD j.val = false) : m.fixRate c = m := by
  unfold Mach.fixRate
  exact if_pos (by simpa using ⟨j, hj, hd⟩)

/-- Without the extended rate the group runs at 2,400 MT/s, and its deskew is left out. -/
theorem fixRate_slow {m : Mach} {c : Chan} (hd : ∀ j ∈ groupOf c, m.dev.flashDone.getLsbD j.val = true) (hf : m.adm.now.frateCap ≠ 1)
    (j : Chan) : (m.fixRate c).chn j = if j ∈ groupOf c then { m.chn j with deskew := false, windows := [], rate := 2 } else m.chn j := by
  unfold Mach.fixRate
  dsimp only
  rw [if_neg (by simpa using hd), if_pos (by simp [Mach.groupQualifies, hf]), Mach.setRate]
  rw [eachChan_chn (groupOf c) (fun x => { x with rate := 2 }) (groupOf_nodup c),
    eachChan_chn (groupOf c) (fun x => { x with deskew := false, windows := [] }) (groupOf_nodup c)]
  split <;> rfl

theorem fixRate_pageSt (m : Mach) (c : Chan) (q : Page) : (m.fixRate c).pageSt q = m.pageSt q := by
  have hrate (r : Nat) (m : Mach) : (m.setRate (groupOf c) r).pageSt q = m.pageSt q := Mach.each_pageSt _ _ _ _ fun _ _ => by simp
  unfold Mach.fixRate
  dsimp only
  split
  · rfl
  split
  · rw [hrate]
    exact Mach.each_pageSt _ _ _ _ fun _ _ => by simp
  split
  · exact hrate ..
  · rw [Mach.each_pageSt _ _ _ _ fun _ _ => by simp, hrate]

/-! ### Step 7 as a whole -/

theorem afterTraining_st (m : Mach) : m.afterTraining.dev.st = m.dev.st ∧ m.afterTraining.dev.flashFail = m.dev.flashFail := by
  unfold Mach.afterTraining
  dsimp only
  split
  · simp
  split
  · simp
  · simp

/-- Step 7 on channel c has ended. -/
def Mach.flashEnded (m : Mach) (c : Chan) : Mach := m.updDev fun x => { x with flashDone := x.flashDone ||| bit32 c.val }

/-- Step 7 on a channel, up to the count of the channels that failed. -/
def Mach.flashStep (m : Mach) (c : Chan) (x : ChanTraining) : Mach := ((m.flashEnded c).chanTrained c x).fixRate c

theorem flashEnded_passes (m : Mach) (c : Chan) (x : ChanTraining) : (m.flashEnded c).chanPasses x = m.chanPasses x := rfl

theorem getLsbD_bit32 (c j : Chan) : (bit32 c.val).getLsbD j.val = decide (j = c) := by
  rw [bit32, ← BitVec.twoPow_eq, BitVec.getLsbD_twoPow]
  simp [Fin.ext_iff, eq_comm, c.isLt]

theorem flashEnded_done (m : Mach) (c j : Chan) :
    (m.flashEnded c).dev.flashDone.getLsbD j.val = (m.dev.flashDone.getLsbD j.val || decide (j = c)) := by
  show (m.dev.flashDone ||| bit32 c.val).getLsbD j.val = _
  rw [BitVec.getLsbD_or, getLsbD_bit32]

@[simp] theorem flashStep_dev (m : Mach) (c : Chan) (x : ChanTraining) : (m.flashStep c x).dev =
    { m.dev with
      flashDone := m.dev.flashDone ||| bit32 c.val
      flashFail := if m.chanPasses x then m.dev.flashFail else m.dev.flashFail ||| bit32 c.val } := by
  unfold Mach.flashStep
  rw [Mach.fixRate_dev, chanTrained_dev]
  show (if m.chanPasses x then _ else _) = _
  split <;> rfl

section
variable {m : Mach} {c : Chan} {x : ChanTraining} (hst : m.dev.st = .adminReady) (hstage : m.dev.stage = 6)
  (hd : m.dev.flashDone.getLsbD c.val = false)
include hst hstage hd

/-- Training goes on with the other channels while there are some, and two at most have failed. -/
theorem flashTrained_goes_on (hdone : m.dev.flashDone ||| bit32 c.val ≠ 0xFFFFFFFF)
    (hfail : (maskBits (m.flashStep c x).dev.flashFail).length ≤ 2) : m.flashTrained c x = m.flashStep c x := by
  unfold Mach.flashTrained
  rw [if_neg (by rw [starting_of hst hstage, hd]; simp)]
  extract_lets u v w fails
  have hw : w = m.flashStep c x := if_neg (by rw [show v = m.flashStep c x from rfl]; simpa using hdone)
  rw [if_neg (by simpa [fails, hw] using hfail), hw]

/-- The third channel that fails ends start-up. -/
theorem flashTrained_ends (hfail : 2 < (maskBits (m.flashStep c x).dev.flashFail).length) :
    (m.flashTrained c x).dev.st = .failed ∧ (m.flashTrained c x).dev.failCause = 1 := by
  unfold Mach.flashTrained
  rw [if_neg (by rw [starting_of hst hstage, hd]; simp)]
  extract_lets u v w fails
  have hv : v = m.flashStep c x := rfl
  have hw : w.dev.st = .adminReady ∧ w.dev.flashFail = v.dev.flashFail := by
    unfold w
    split
    · obtain ⟨hs, hf⟩ := afterTraining_st v
      exact ⟨by rw [hs, hv, flashStep_dev]; exact hst, hf⟩
    · exact ⟨by rw [hv, flashStep_dev]; exact hst, rfl⟩
  rw [if_pos (by simpa [fails, hw.2, hv] using hfail)]
  exact fail_dev' _ _ (by simp [hw.1])

end

/-! ### The obligation -/

/-- Settles O11: one frame for each outcome of a channel's training, and one for the rate of its group. -/
theorem training : Obligations.Training := by
  unfold Obligations.Training
  refine ⟨?dram, ?dramFails, ?flash, ?rate, ?flashFails, ?third⟩
  case dram =>
    intro s d hst hstage hd hp
    refine completes_eq _ rfl (dramTrained_passed hst hstage hd) ?_
    obtain ⟨hregs, hsame⟩ := dramPassed_frame s.m d
    have hpages := dramPassed_pageSt hp
    rw [dramPassed_dev, Dev.dramEnded]
    split
    · obtain ⟨hr, hs⟩ := dramsDone_frame (s.m.dramPassed d)
      refine ⟨?_, ?_, ?_, fun j hj => ?_, fun q hq hdrg => ?_, rb_trans hregs hr, same_trans hsame (same_mono hs (by simp))⟩
      · rw [dramsDone_dev, dramPassed_dev]
        rfl
      · rw [dramsDone_pageSt_ne _ (by simp), hpages, if_pos rfl]
      · rw [dramsDone_dram, dramPassed_trained]
      · rw [dramsDone_dram, dramPassed_dram_ne _ hj]
      · rw [dramsDone_pageSt_ne _ hdrg, hpages, if_neg hq]
    · refine ⟨?_, ?_, dramPassed_trained .., fun j hj => dramPassed_dram_ne _ hj, fun q hq _ => ?_, hregs, hsame⟩
      · rw [dramPassed_dev, Dev.dramEnded, ← hstage]
      · rw [hpages, if_pos rfl]
      · rw [hpages, if_neg hq]
  case dramFails =>
    intro s d hst hstage hd
    refine completes_eq _ rfl (dramTrained_failed hst hstage hd) ?_
    obtain ⟨hf, hcause⟩ := fail_dev' (s.m.dramFaulted d) 2 (by simp [Mach.dramFaulted, Dev.dramEnded, hst])
    refine ⟨hf, hcause, ?_⟩
    rw [same_drc ((Mach.Ending.refl _).fail 2) (by simp [endParts]), Mach.dramFaulted, same_drc (trainingFault_same ..) (by simp)]
    rfl
  case flash =>
    intro s c x hst hstage hd hdone hfail hok hdies hp ⟨j, hj, hne, hwait⟩
    have hpass : (s.m.flashEnded c).chanPasses x = true := chanPasses_of hok hdies
    have hstep : s.m.flashStep c x = (s.m.flashEnded c).chanTrained c x := by
      refine fixRate_waits hj ?_
      rw [chanTrained_dev, if_pos hpass, flashEnded_done]
      rw [hwait]
      simpa using hne
    refine completes_eq _ rfl (flashTrained_goes_on hst hstage hd hdone (by simpa [chanPasses_of hok hdies] using hfail)) ?_
    have hpages := chanTrained_passed_pageSt hpass hp
    have hchn := chanTrained_chn (c := c) hpass
    obtain ⟨hregs, hsame⟩ := chanTrained_passed_frame hpass
    rw [hstep]
    refine ⟨?_, ?_, ?_, fun j hj => ?_, fun i hi => chanTrained_die hpass hi, fun q hq => ?_, hregs, ?_⟩
    · rw [chanTrained_dev, if_pos hpass]
      rfl
    · rw [hpages, if_pos rfl]
    · rw [hchn, if_pos rfl]
      rfl
    · rw [hchn, if_neg hj]
      rfl
    · rw [hpages, if_neg hq]
      rfl
    · exact same_trans (b := s.m.flashEnded c) (by simp [Mach.SameBut, Mach.flashEnded]) (same_mono hsame (by simp))
  case rate =>
    intro s c x hst hstage hd hdone hfail hok hdies hgroup hcap
    have hpass : (s.m.flashEnded c).chanPasses x = true := chanPasses_of hok hdies
    refine completes_eq _ rfl (flashTrained_goes_on hst hstage hd hdone (by simpa [chanPasses_of hok hdies] using hfail)) ?_
    have hall : ∀ j ∈ groupOf c, ((s.m.flashEnded c).chanTrained c x).dev.flashDone.getLsbD j.val = true := fun j hj => by
      rw [chanTrained_dev, if_pos hpass, flashEnded_done]
      by_cases h : j = c
      · simp [h]
      · rw [hgroup j hj h, Bool.true_or]
    have hrate := fixRate_slow hall (by rwa [same_adm (chanTrained_passed_frame hpass).2 (by simp)])
    refine ⟨?_, fun j hj => ?_⟩
    · rw [Mach.flashStep, hrate, if_pos (by simp [mem_groupOf])]
    · rw [Mach.flashStep, hrate, chanTrained_chn hpass, if_neg hj]
      rfl
  case flashFails =>
    intro s c x hst hstage hd hdone hfail hbad
    have hpass : s.m.chanPasses x = false := chanFails_of hbad
    refine completes_eq _ rfl (flashTrained_goes_on hst hstage hd hdone (by simpa [hpass] using hfail)) ?_
    have hpages := fun q => (fixRate_pageSt _ c q).trans (chanTrained_failed_pageSt (c := c) ((flashEnded_passes s.m c x).trans hpass) q)
    refine ⟨by simp [hst], by simp [hpass], ?_, fun q hq => ?_⟩
    · rw [Mach.flashStep, hpages, if_pos rfl]
    · rw [Mach.flashStep, hpages, if_neg hq]
      rfl
  case third =>
    intro s c x hst hstage hd hfail hbad
    have hpass : s.m.chanPasses x = false := chanFails_of hbad
    exact completes_on _ rfl (flashTrained_ends hst hstage hd (by simpa [hpass] using hfail))

end Sys2Proof.Machine

/-! The rest of the mailbox (O20): what Clear Event Records leaves of a log, and the words of the two rows of opcodes that no port supports
(R85, R87, R88, R131). -/

namespace Sys2Proof.Machine

/-! ### Clear Event Records -/

/-- The machine once a log is l and the mailbox has answered SUCCESS. -/
def Mach.logCleared (p : Port) (log : Fin 4) (l : EvLog) (m : Mach) : Mach :=
  (m.updAdm fun a => { a with ev := SMap.set {} a.ev log.val l }).ok p []

theorem logCleared_frame (p : Port) (log : Fin 4) (l : EvLog) (m : Mach) :
    (m.logCleared p log l).evLog log = l ∧ (∀ j, j ≠ log → (m.logCleared p log l).evLog j = m.evLog j) ∧
    (m.logCleared p log l).adm = { m.adm with ev := (m.logCleared p log l).adm.ev } ∧ m.Replies p St.success [] (m.logCleared p log l) ∧
    Mach.SameBut [.adm, .out] m (m.logCleared p log l) := by
  have hev : (m.logCleared p log l).adm.ev = SMap.set {} m.adm.ev log.val l := rfl
  refine ⟨?_, fun j hj => ?_, rfl, rfl, by simp [Mach.SameBut, Mach.logCleared, Mach.ok, Mach.answer]⟩
  · rw [Mach.evLog, hev, SMap.get_set_same]
  · rw [Mach.evLog, hev, SMap.get_set_ne _ _ _ _ _ _ (Fin.val_ne_of_ne hj), Mach.evLog]

/-- All records of a log that holds some are cleared, and its overflow count with them. -/
theorem clearEvents_all {m : Mach} (p : Port) {log : Fin 4} (hs : List Nat) (h : (m.evLog log).recs ≠ []) :
    m.clearEvents p log true hs = m.logCleared p log { m.evLog log with recs := [], overflow := 0 } := by
  have hlen : 0 < (m.evLog log).recs.length := List.length_pos_iff.mpr h
  simp [Mach.clearEvents, Mach.logCleared, hlen]

/-- The records of handles that are all there, one at least, are cleared, and the overflow count with them. -/
theorem clearEvents_named {m : Mach} (p : Port) {log : Fin 4} {hs : List Nat} (h : ∀ x ∈ hs, ∃ r ∈ (m.evLog log).recs, r.handle = x)
    (hne : hs ≠ []) : m.clearEvents p log false hs = m.logCleared p log
      { m.evLog log with recs := (m.evLog log).recs.filter (fun r => !hs.contains r.handle), overflow := 0 } := by
  have hall : (hs.all fun x => (m.evLog log).recs.any fun r => r.handle == x) = true := by simpa using h
  have hshort : ((m.evLog log).recs.filter fun r => !hs.contains r.handle).length < (m.evLog log).recs.length := by
    obtain ⟨x, hx⟩ := List.exists_mem_of_ne_nil hs hne
    obtain ⟨r, hr, rfl⟩ := h x hx
    exact List.length_filter_lt_length_iff_exists.mpr ⟨r, hr, by simpa using hx⟩
  unfold Mach.clearEvents
  dsimp only
  rw [Bool.false_or, if_pos hall, if_neg (by simp), if_pos hshort]
  rfl

/-- A handle that is not there is refused. -/
theorem clearEvents_missing {m : Mach} (p : Port) {log : Fin 4} {hs : List Nat} {x : Nat} (hx : x ∈ hs)
    (h : ∀ r ∈ (m.evLog log).recs, r.handle ≠ x) : m.clearEvents p log false hs = m.refuse p St.invalidField := by
  have hall : ¬ (hs.all fun x => (m.evLog log).recs.any fun r => r.handle == x) = true := by
    simp only [List.all_eq_true, List.any_eq_true, beq_iff_eq]
    intro g
    obtain ⟨r, hr, e⟩ := g x hx
    exact h r hr e
  unfold Mach.clearEvents
  dsimp only
  rw [Bool.false_or, if_neg hall]

/-! ### Opcodes that no port supports -/

theorem isVendor_iff (o : BitVec 16) : isVendor o = true ↔ 0xC000 ≤ o.toNat ∧ o.toNat ≤ 0xC0FF := by simp [isVendor]

/-- Where the mailbox takes the command up, an unsupported opcode is answered INVALID_OPCODE, with Return Code 0x0003. -/
theorem badOpcode_eq {m : Mach} {p : Port} (i : Instr) (hup : m.mailboxUp p = true) :
    m.badOpcode i p = { m with out := m.out ++ [.mbox p 0x0003 St.invalidOpcode []] } := by
  unfold Mach.badOpcode Mach.stdMail
  rw [mail_open i p 0 0 true _ m hup rfl (.inl rfl)]
  rfl

/-! ### The obligation -/

/-- Settles O20: one equation for each outcome of Clear Event Records, and of the two rows of opcodes the guard tells the effect. -/
theorem mailboxRest : Obligations.MailboxRest := by
  unfold Obligations.MailboxRest
  refine ⟨?all, ?named, ?missing, ?standard, ?vendor, ?notStandard, ?notVendor⟩
  case all =>
    intro s p log hs hup hne
    refine completes_std _ rfl hup (.inl rfl) ?_
    rw [clearEvents_all p hs hne]
    exact logCleared_frame ..
  case named =>
    intro s p log hs hup hin hne
    refine completes_std _ rfl hup (.inl rfl) ?_
    rw [clearEvents_named p hin hne]
    exact logCleared_frame ..
  case missing =>
    intro s p log hs x hup hx hno
    refine completes_std _ rfl hup (.inl rfl) ?_
    rw [clearEvents_missing p hx hno]
    exact replies_no ..
  case standard =>
    intro s p o hup hstd hven
    have hv : isVendor o = false := by rw [Bool.eq_false_iff, Ne, isVendor_iff]; omega
    exact completes_eq _ rfl ((if_pos (by simp [hstd, hv])).trans (badOpcode_eq _ hup)) rfl
  case vendor =>
    intro s p o hup hven hlo hhi
    have hv : isVendor o = true := (isVendor_iff o).mpr ⟨hlo, hhi⟩
    exact completes_eq _ rfl ((if_pos (by simp [hven, hv])).trans (badOpcode_eq _ hup)) rfl
  case notStandard =>
    intro s p o ho
    have hg : (!stdOpcodes.contains o.toNat && !isVendor o) = false := by
      rcases ho with h | h
      · simp [h]
      · simp [(isVendor_iff o).mpr h]
    exact completes_eq _ rfl (if_neg (by rw [hg]; simp)) rfl
  case notVendor =>
    intro s p o ho
    have hg : (isVendor o && !vendorOpcodes.contains o.toNat) = false := by
      rcases ho with h | h
      · simp [h]
      · have hv : isVendor o = false := by rw [Bool.eq_false_iff, Ne, isVendor_iff]; omega
        simp [hv]
    exact completes_eq _ rfl (if_neg (by rw [hg]; simp)) rfl

end Sys2Proof.Machine

/-! The rows of a port beside its requests (O17): HDM decoders, the end of commands under viral, the Global Persistent Flush, D3hot and flits
with a CRC error (R78, R89, R96, R97, R100). -/

namespace Sys2Proof.Machine

/-! ### A command is cut off -/

/-- Nothing has changed that the completion of the command in slot s tells: of its own slot the work may have been dropped, and beside the
slots only the lamp path, its registers and the poison list may differ. -/
structure Mach.Trims (s : Nat) (a b : Mach) : Prop where
  entry : (b.cmd s).entry = (a.cmd s).entry
  sqhd : (b.cmd s).sqhd = (a.cmd s).sqhd
  kind : (b.cmd s).kind = (a.cmd s).kind
  qid : (b.cmd s).qid = (a.cmd s).qid
  wait : (b.cmd s).wait = (a.cmd s).wait
  others : ∀ j, j ≠ s → b.cmd j = a.cmd j
  rest : b.q = { a.q with cmd := b.q.cmd }
  same : Mach.SameBut [.q, .lamp, .reg, .adm] a b

namespace Mach.Trims

variable {s : Nat} {a b c : Mach}

theorem refl (s : Nat) (a : Mach) : a.Trims s a := ⟨rfl, rfl, rfl, rfl, rfl, fun _ _ => rfl, rfl, same_refl ..⟩

theorem trans (h : a.Trims s b) (g : b.Trims s c) : a.Trims s c where
  entry := g.entry.trans h.entry
  sqhd := g.sqhd.trans h.sqhd
  kind := g.kind.trans h.kind
  qid := g.qid.trans h.qid
  wait := g.wait.trans h.wait
  others j hj := (g.others j hj).trans (h.others j hj)
  rest := by rw [g.rest, h.rest]
  same := same_trans h.same g.same

theorem of_same (h : Mach.SameBut [.lamp, .reg, .adm] a b) : a.Trims s b := by
  have hq : b.q = a.q := same_q h (by simp)
  have hc (j : Nat) : b.cmd j = a.cmd j := cmd_of_q hq j
  exact ⟨by rw [hc], by rw [hc], by rw [hc], by rw [hc], by rw [hc], fun j _ => hc j, by rw [hq], same_mono h (by simp)⟩

/-- Writing the slot itself drops work where it leaves what its completion tells. -/
theorem setCmd (a : Mach) {x : Cmd} (he : x.entry = (a.cmd s).entry) (hh : x.sqhd = (a.cmd s).sqhd) (hk : x.kind = (a.cmd s).kind)
    (hq : x.qid = (a.cmd s).qid) (hw : x.wait = (a.cmd s).wait) : a.Trims s (a.setCmd s x) := by
  refine ⟨?_, ?_, ?_, ?_, ?_, fun j hj => Mach.cmd_setCmd_ne _ _ _ _ hj, rfl, by simp [Mach.SameBut]⟩ <;> rwa [Mach.cmd_setCmd_same]

/-- The command completes as it would have before. -/
theorem completed (h : a.Trims s b) {q : Fin 256} (st d2 d3 : Nat) (hk : (a.cmd s).kind = .host) (hq : (a.cmd s).qid = some q)
    (hl : a.Loose s) : a.Completed s q st d2 d3 (b.complete s st d2 d3) ∧
    Mach.SameBut [.lamp, .reg, .pff, .adm, .alm, .q, .buf, .fl, .twn, .free, .out] a (b.complete s st d2 d3) := by
  obtain ⟨hdone, hsame, -, -⟩ := complete_done b s st d2 d3 q (h.kind.trans hk) (h.qid.trans hq)
    (loose_on h.others h.wait (same_twn h.same (by simp)) hl)
  refine ⟨completed_on h.others h.entry h.sqhd (fun j => ?_) (by rw [h.rest]) (same_out h.same (by simp)) hdone,
    same_trans (same_mono h.same (by simp)) (same_mono hsame (by simp))⟩
  unfold Mach.qp
  rw [h.rest]

end Mach.Trims

theorem putDesc_same (m : Mach) (k : Nat) (d : Desc) : Mach.SameBut [.lamp, .reg] m (m.putDesc k d) :=
  same_trans (b := m.setDesc k d) (by simp [Mach.SameBut]) (lnt_same ..)

theorem wbClear_trims (m : Mach) (s k p : Nat) : m.Trims s (m.wbClear s k p) := by
  have hc : m.Trims s (m.setCmd s { m.cmd s with copying := false }) := .setCmd m rfl rfl rfl rfl rfl
  unfold Mach.wbClear Mach.pendwCheck
  refine .trans (hc.trans ?_) (.of_same (quiet_frameCheck ..).same)
  split
  · exact .refl ..
  · exact .of_same (same_mono (putDesc_same ..) (by simp))

theorem wbAbandon_trims (m : Mach) (s : Nat) : m.Trims s (m.wbAbandon s) := by
  unfold Mach.wbAbandon Mach.wbUndo
  split
  · refine .trans ?_ (wbClear_trims ..)
    split
    · exact .refl ..
    · exact .of_same (same_mono (putDesc_same ..) (by simp))
  · exact .refl ..

/-- A host's command that is cut off completes with the status, and nothing else has changed for the hosts. -/
theorem cutWith_completed {m : Mach} {s : Nat} {q : Fin 256} (st d2 d3 : Nat) (hk : (m.cmd s).kind = .host)
    (hq : (m.cmd s).qid = some q) (hl : m.Loose s) : m.Completed s q st d2 d3 (m.cutWith s st d2 d3) ∧
    Mach.SameBut [.lamp, .reg, .pff, .adm, .alm, .q, .buf, .fl, .twn, .free, .out] m (m.cutWith s st d2 d3) := by
  unfold Mach.cutWith
  refine Mach.Trims.completed ?_ st d2 d3 hk hq hl
  refine ((wbAbandon_trims m s).trans (.setCmd _ (x := { (m.wbAbandon s).cmd s with todo := [], cover := [], covering := false, unsent := [] })
    rfl rfl rfl rfl rfl)).trans ?_
  split
  · exact .of_same (quiet_pendlRange ..).same
  · exact .refl ..

/-! ### HDM decoders (R89) -/

theorem commitOk_holdHdm (x : PortSt) (k base size skip : Nat) (lock : Bool) :
    (x.holdHdm k base size skip lock).commitOk k base size skip = x.commitOk k base size skip := rfl

theorem hdmCommit_locked {m : Mach} {p : Port} {k : Nat} (base size skip : Nat) (lock : Bool)
    (h : ((m.port.get p).dec k).locked = true) : m.hdmCommit p k base size skip lock = m := if_pos (by simp [h])

/-- A commit that is not ignored puts the decoder's registers and its state, committed or with Commit Error. -/
theorem hdmCommit_port {m : Mach} {p : Port} {k base size skip : Nat} {lock : Bool} (hup : (m.port.get p).up = true)
    (hl : ((m.port.get p).dec k).locked = false) : m.hdmCommit p k base size skip lock =
      m.updPort p fun x => { x.holdHdm k base size skip lock with
        hdm := SMap.set {} x.hdm k
          { base := base, size := size, skip := skip, committed := x.commitOk k base size skip, lock := lock
            err := !x.commitOk k base size skip } } := by
  have hget : (m.updPort p fun x => x.holdHdm k base size skip lock).port.get p = (m.port.get p).holdHdm k base size skip lock :=
    port_get_set ..
  unfold Mach.hdmCommit
  dsimp only
  rw [if_neg (by simp [hup, hl])]
  unfold Mach.hdmCommitWays
  dsimp only
  rw [hget, if_neg (by simpa [hup, hl] using ⟨hup, hl⟩), Bool.true_and, commitOk_holdHdm]
  unfold Mach.updPort
  dsimp only
  rw [port_get_set, port_set2]
  rfl

/-! ### Viral (R96) -/

theorem viralReceived_eq {m : Mach} {p : Port} (h : m.cxlUp p = true) :
    m.viralReceived p = (m.updPort p fun x => { x with viralRx := true }).viralCut := if_neg (by simp [h])

theorem viralCut_none {m : Mach} (h : m.q.used = []) : m.viralCut = m := by
  unfold Mach.viralCut
  rw [h]
  rfl

/-- The one command in use, a host's short of its commit point, is cut off. -/
theorem viralCut_one {m : Mach} {i : Nat} (hu : m.q.used = [i]) (hk : (m.cmd i).kind = .host) (hs : (m.cmd i).short = true) :
    m.viralCut = m.cutWith i St.abortedByReset 0 0 := by
  have hl : (m.q.used.filter fun s => (m.cmd s).kind == .host && (m.cmd s).short) = [i] := by simp [hu, hk, hs]
  unfold Mach.viralCut
  rw [hl]
  exact if_pos hs

/-! ### Global Persistent Flush, D3hot and flits (R78, R97, R100) -/

theorem gpf2_native {m : Mach} {p : Port} (h : m.cxlUp p = true) (hc : m.capMode = false) : m.gpf2 p = m.send (.gpfAck p 2) := by
  unfold Mach.gpf2
  rw [if_neg (by simp [h]), if_pos (by simp [hc])]

theorem gpf2_writeOut {m : Mach} {p : Port} (h : m.cxlUp p = true) (hc : m.capMode = true) (hpf : m.dev.pf = .none)
    (hd : m.dev.dump = none) : m.gpf2 p = (m.updDev fun d => { d with gpfWait := d.gpfWait.set p true }).startDump .gpf := by
  unfold Mach.gpf2
  rw [if_neg (by simp [h]), if_neg (by simp [hc, hpf])]
  exact if_pos (by simp [hd, hpf])

theorem setD3_frame {m : Mach} {p : Port} (b : Bool) (h : (m.port.get p).up = true) :
    (m.setD3 p b).port.get p = { m.port.get p with d3 := b } ∧ (∀ q, q ≠ p → (m.setD3 p b).port.get q = m.port.get q) ∧
    m.RegsSame [] (m.setD3 p b) ∧ Mach.SameBut [.port, .reg] m (m.setD3 p b) := by
  have e : m.setD3 p b = (m.updPort p fun x => { x with d3 := b }).touch (.port p) := if_pos h
  have hp : (m.setD3 p b).port = m.port.set p { m.port.get p with d3 := b } := by rw [e, Mach.touch_port]; rfl
  refine ⟨port_get hp, fun q hq => port_ne hp hq, ?_, ?_⟩ <;> rw [e]
  · exact rs_touch (m.updPort p fun x => { x with d3 := b }) _
  · simp [Mach.SameBut]

theorem portReg_inj (p : Port) {x y : Nat} : portReg p x = portReg p y ↔ x = y := by cases p <;> simp [portReg]

/-- Two counters of one machine, one after the other. -/
theorem bump2_frame (m : Mach) {j k : Nat} (h : j ≠ k) :
    ((m.bump j).bump k).rdN j = min 0xFFFFFFFF (m.rdN j + 1) ∧ ((m.bump j).bump k).rdN k = min 0xFFFFFFFF (m.rdN k + 1) ∧
    m.RegsSame [j, k] ((m.bump j).bump k) ∧ Mach.SameBut [.reg] m ((m.bump j).bump k) := by
  have hrd (n : Mach) {i l : Nat} (hi : i ≠ l) : (n.bump l).rdN i = n.rdN i := by unfold Mach.rdN; rw [Mach.rd_bump_ne _ _ _ hi]
  obtain ⟨hregs, hc64, hlow, hhdr⟩ := rs_bump m j
  obtain ⟨hregs', hc64', hlow', hhdr'⟩ := rs_bump (m.bump j) k
  refine ⟨?_, ?_, ⟨fun i hi => ?_, hc64'.trans hc64, hlow'.trans hlow, fun p => (hhdr' p).trans (hhdr p)⟩,
    same_trans (sb_bump m j) (sb_bump _ k)⟩
  · rw [hrd _ h, rdN_bump]
  · rw [rdN_bump, hrd _ h.symm]
  · simp only [List.mem_cons, List.not_mem_nil, or_false, not_or] at hi
    rw [hregs' i (by simp [hi]), hregs i (by simp [hi])]

/-! ### The obligation -/

/-- Settles O17: each row has one equation on its occasion, and viral the completion of a command that is cut off. -/
theorem portEvents : Obligations.PortEvents := by
  unfold Obligations.PortEvents
  refine ⟨?commit, ?locked, ?viral, ?viralCut, ?gpf1, ?gpfNative, ?gpfWriteOut, ?d3, ?flit⟩
  case commit =>
    intro s p k base size skip lock hup hl
    refine completes_eq _ rfl (hdmCommit_port hup (by simpa [Hdm.locked] using hl)) ?_
    refine ⟨?_, fun j hj => ?_, ?_, fun q hq => port_ne (a := s.m.port) rfl hq, by simp [Mach.SameBut]⟩
    · rw [PortSt.dec, port_get (a := s.m.port) rfl]
      exact SMap.get_set_same ..
    · rw [PortSt.dec, port_get (a := s.m.port) rfl]
      exact SMap.get_set_ne _ _ _ _ _ _ hj
    · rw [port_get (a := s.m.port) rfl]
  case locked =>
    intro s p k base size skip lock hl hc
    exact completes_eq _ rfl (hdmCommit_locked base size skip lock (by simp [Hdm.locked, hl, hc])) rfl
  case viral =>
    intro s p hup hu
    refine completes_eq _ rfl ((viralReceived_eq hup).trans (viralCut_none hu)) ?_
    exact ⟨port_get (a := s.m.port) rfl, fun q hq => port_ne (a := s.m.port) rfl hq, by simp [Mach.SameBut]⟩
  case viralCut =>
    intro s p i q hup hu hk hs _ hq hl
    obtain ⟨hdone, hsame⟩ := cutWith_completed (m := s.m.updPort p fun x => { x with viralRx := true }) St.abortedByReset 0 0 hk hq hl
    refine completes_eq _ rfl ((viralReceived_eq hup).trans (viralCut_one hu hk hs)) ⟨?_, ?_⟩
    · exact completed_of (fun _ => by rfl) (fun _ => by rfl) (by rfl) (by rfl) hdone
    · rw [same_port hsame (by simp), port_get (a := s.m.port) rfl]
  case gpf1 =>
    intro s p hup
    exact completes_eq _ rfl (if_pos hup) rfl
  case gpfNative =>
    intro s p hup hc
    exact completes_eq _ rfl (gpf2_native hup hc) rfl
  case gpfWriteOut =>
    intro s p hup hc hpf hd
    exact completes_eq _ rfl (gpf2_writeOut hup hc hpf hd) rfl
  case d3 =>
    intro s p c b hcb hup hcalm
    have hf := setD3_frame b hup
    obtain ⟨rfl, rfl⟩ | ⟨rfl, rfl⟩ := hcb
    · exact completes_on (Mach.setD3 p true) rfl hf
    · exact completes_eq (fun m => (m.setD3 p false).ctlRun.mailRun) rfl
        (calm_quiet (calm_of hcalm (by rw [same_adm hf.2.2.2 (by simp)]) (same_twn hf.2.2.2 (by simp)))) hf
  case flit =>
    intro s p hup
    obtain ⟨hcrc, hretry, hregs, hsame⟩ := bump2_frame s.m (j := portReg p Reg.PORT_CRCERR) (k := portReg p Reg.PORT_LLRETRY)
      (by rw [Ne, portReg_inj]; decide)
    refine completes_eq _ rfl (if_neg (by simp [hup])) ⟨hcrc, hretry, hregs, ?_, ?_⟩
    · rw [Mach.Sent, Mach.send_out, same_out hsame (by simp)]
    · exact same_trans (same_mono hsame (by simp)) (by simp [Mach.SameBut])

end Sys2Proof.Machine

/-! The admission point (O24): one equation for each verdict of Table 05.4, and what the entry of a command into the range-lock table leaves
(R18, R96, R118, R119). -/

namespace Sys2Proof.Machine

/-! ### The oldest entry is taken -/

/-- The machine once the oldest entry has been taken from the admission point, where r is left. -/
def Mach.taken (m : Mach) (r : List Nat) : Mach := m.updQ fun q => { q with adm := r }

@[simp] theorem taken_cmd (m : Mach) (r : List Nat) (j : Nat) : (m.taken r).cmd j = m.cmd j := rfl
@[simp] theorem taken_locks (m : Mach) (r : List Nat) : (m.taken r).locks = m.locks := rfl
@[simp] theorem taken_volu (m : Mach) (r : List Nat) (v : Vid) : (m.taken r).volu v = m.volu v := rfl
@[simp] theorem taken_validate (m : Mach) (r : List Nat) (i : Nat) : (m.taken r).validate i = m.validate i := rfl
@[simp] theorem taken_flushCovers (m : Mach) (r : List Nat) (v : Vid) : (m.taken r).flushCovers v = m.flushCovers v := rfl

theorem taken_same (m : Mach) (r : List Nat) : Mach.SameBut [.q] m (m.taken r) := by simp [Mach.SameBut, Mach.taken]

section
variable {m : Mach} {i : Nat} {r : List Nat} (ha : m.q.adm = i :: r)
include ha

/-- Under viral and in FAILED the entry is aborted (R18, R96). -/
theorem admission_aborts (h : m.viral = true ∨ m.dev.st = .failed) : m.admission = (m.taken r).complete i St.abortedByReset 0 0 := by
  have hb : (m.viral || m.dev.st == .failed) = true := by simpa using h
  unfold Mach.admission
  rw [ha]
  exact if_pos hb

/-- Otherwise its verdict decides. -/
theorem admission_validates (hv : m.viral = false) (hf : m.dev.st ≠ .failed) : m.admission =
    match m.validate i with
    | some (status, dw2) => ((m.taken r).countRefusal i status dw2).complete i status dw2 0
    | none => if entOpc (m.cmd i).entry == opFlush then (m.taken r).admitFlush i else (m.taken r).enterLock i := by
  have hb : ¬ (m.viral || m.dev.st == .failed) = true := by simpa using ⟨hv, hf⟩
  unfold Mach.admission
  rw [ha]
  exact if_neg hb

theorem admission_refuses (hv : m.viral = false) (hf : m.dev.st ≠ .failed) {st d2 : Nat} (h : m.validate i = some (st, d2)) :
    m.admission = ((m.taken r).countRefusal i st d2).complete i st d2 0 := by
  rw [admission_validates ha hv hf, h]

theorem admission_flush (hv : m.viral = false) (hf : m.dev.st ≠ .failed) (h : m.validate i = none)
    (ho : entOpc (m.cmd i).entry = opFlush) : m.admission = (m.taken r).admitFlush i := by
  rw [admission_validates ha hv hf, h]
  exact if_pos (by simp [ho])

theorem admission_locks (hv : m.viral = false) (hf : m.dev.st ≠ .failed) (h : m.validate i = none)
    (ho : entOpc (m.cmd i).entry ≠ opFlush) : m.admission = (m.taken r).enterLock i := by
  rw [admission_validates ha hv hf, h]
  exact if_neg (by simpa using ho)

end

/-! ### Refusals -/

/-- An opcode outside Table 05.3 is refused as such once the first two checks pass. -/
theorem validate_unknown {m : Mach} {i : Nat} (he : m.entryCheck i = none) (hk : knownOpc (entOpc (m.cmd i).entry) = false) :
    m.validate i = some (St.invalidOpcode, 0) := by
  unfold Mach.validate Mach.commandCheck
  rw [he]
  simp [hk, firstOf, refuseIf]

/-- What a refusal counts is registers and records. -/
theorem countRefusal_same (m : Mach) (i st d2 : Nat) : Mach.SameBut [.reg, .pff, .adm, .alm] m (m.countRefusal i st d2) := by
  have hbump (k : Nat) (m : Mach) : Mach.SameBut [.reg, .pff, .adm, .alm] m (m.bump k) := same_mono (sb_bump m k) (by simp)
  have hfence (v : Vid) (m : Mach) : Mach.SameBut [.reg, .pff, .adm, .alm] m (m.fenceRefused v) :=
    same_trans (same_trans (hbump _ m) (raise_same ..)) (recorded_devEvent ..).same
  unfold Mach.countRefusal
  exact same_trans (same_trans (same_when _ _ (hbump _) m) (same_when _ _ (hbump _) _)) (same_when _ _ (hfence _) _)

/-- A host's entry that is taken completes as it would have completed before, whatever else than its slot the refusal counted. -/
theorem taken_completes {m u : Mach} {i : Nat} {r : List Nat} {q : Fin 256} (st d2 : Nat) (hk : (m.cmd i).kind = .host)
    (hq : (m.cmd i).qid = some q) (hl : m.Loose i) (hu : Mach.SameBut [.reg, .pff, .adm, .alm] (m.taken r) u) :
    m.Completed i q st d2 0 (u.complete i st d2 0) ∧ (u.complete i st d2 0).q.adm = r.filter (· != i) ∧
    Mach.SameBut [.reg, .pff, .adm, .alm, .q, .buf, .fl, .twn, .free, .out] m (u.complete i st d2 0) := by
  have huq : u.q = { m.q with adm := r } := same_q hu (by simp)
  have hcmd (j : Nat) : u.cmd j = m.cmd j := cmd_of_cmd (by rw [huq]) j
  have hqp (j : Fin 256) : u.qp j = m.qp j := qp_of_qp (by rw [huq]) j
  obtain ⟨hdone, hsame, hadm, -⟩ := complete_done u i st d2 0 q (by rw [hcmd, hk]) (by rw [hcmd, hq])
    (loose_of hcmd ((same_twn hu (by simp)).trans rfl) hl)
  refine ⟨completed_of hcmd hqp (by rw [huq]) ((same_out hu (by simp)).trans rfl) hdone, by rw [hadm, huq], ?_⟩
  exact same_trans (same_mono (taken_same m r) (by simp)) (same_trans (same_mono hu (by simp)) (same_mono hsame (by simp)))

/-! ### The range-lock table (R119) -/

/-- The commands in the table that a command conflicts with. -/
def Mach.lockWaits (m : Mach) (i : Nat) : List Nat := m.locks.filter fun j => j != i && conflicts (m.cmd j) (m.cmd i)

theorem lockWaits_nil {m : Mach} {i : Nat} (h : ∀ j ∈ m.locks, j ≠ i → conflicts (m.cmd j) (m.cmd i) = false) : m.lockWaits i = [] := by
  refine List.filter_eq_nil_iff.mpr fun j hj => ?_
  by_cases e : j = i
  · simp [e]
  · simp [h j hj e]

theorem lockWaits_ne {m : Mach} {i : Nat} (h : ∃ j ∈ m.locks, j ≠ i ∧ conflicts (m.cmd j) (m.cmd i) = true) : m.lockWaits i ≠ [] := by
  obtain ⟨j, hj, hne, hc⟩ := h
  exact List.ne_nil_of_mem (List.mem_filter.mpr ⟨hj, by simp [hne, hc]⟩)

/-- The machine once a command stands in the table with its wait set. -/
def Mach.tabled (m : Mach) (i : Nat) : Mach :=
  (((m.setCmd i { m.cmd i with locked := true, wait := m.lockWaits i, seq := m.q.rlkSeq, stage := .blocked }).updQ fun q =>
    { q with rlkSeq := q.rlkSeq + 1 }).touch .rlk).lockPeak

theorem enterLock_admits {m : Mach} {i : Nat} (h : m.lockWaits i = []) : m.enterLock i = (m.tabled i).admitCmd i := by
  rw [Mach.lockWaits] at h
  exact if_pos (by simp [h])

theorem enterLock_blocks {m : Mach} {i : Nat} (h : m.lockWaits i ≠ []) : m.enterLock i = (m.tabled i).bump64 Reg.RLK_CONFL_LO := by
  rw [Mach.lockWaits] at h
  exact if_neg (by simpa using h)

/-- What the entry into the table leaves: the command's slot, the next sequence number and the table's peak. -/
theorem tabled_frame (m : Mach) (i : Nat) :
    (m.tabled i).cmd i = { m.cmd i with locked := true, wait := m.lockWaits i, seq := m.q.rlkSeq, stage := .blocked } ∧
    (∀ j, j ≠ i → (m.tabled i).cmd j = m.cmd j) ∧
    (m.tabled i).q = { m.q with cmd := (m.tabled i).q.cmd, rlkSeq := m.q.rlkSeq + 1 } ∧ m.RegsBut [Reg.RLK_PEAK] (m.tabled i) ∧
    (∀ k, (m.tabled i).rd64 k = m.rd64 k) ∧ Mach.SameBut [.q, .reg] m (m.tabled i) := by
  unfold Mach.tabled Mach.lockPeak
  dsimp only
  refine ⟨?_, fun j hj => ?_, ?_, fun k hk => ?_, fun k => ?_, by simp [Mach.SameBut]⟩
  · rw [Mach.wr_cmd, Mach.touch_cmd]
    exact Mach.cmd_setCmd_same ..
  · rw [Mach.wr_cmd, Mach.touch_cmd]
    exact Mach.cmd_setCmd_ne _ _ _ _ hj
  · rw [Mach.wr_q, Mach.touch_q]
    rfl
  · rw [Mach.rd_wr_ne _ _ _ _ (by simpa using hk), Mach.rd_touch]
    rfl
  · rw [Mach.wr_rd64, Mach.rd64_touch]
    rfl

theorem setCmd_rest (m : Mach) (i : Nat) (x : Cmd) : (m.setCmd i x).q = { m.q with cmd := (m.setCmd i x).q.cmd } := rfl

theorem twinOpen_unmirrored {m : Mach} {i : Nat} (h : (m.volu (entVol (m.cmd i).entry)).mirrored = false) : m.twinOpen i = m := by
  unfold Mach.twinOpen
  exact if_neg (by simp [Mach.mirroring, h])

/-- The admission of a command of an unmirrored volume is a change of its stage. -/
theorem admitCmd_unmirrored {m : Mach} {i : Nat} (h : (m.volu (entVol (m.cmd i).entry)).mirrored = false) :
    m.admitCmd i = m.setCmd i { m.cmd i with stage := .admitted } :=
  twinOpen_unmirrored (by rw [Mach.cmd_setCmd_same]; exact h)

/-! ### The obligation -/

/-- Settles O24: the verdict decides between a completion, the cover of a FLUSH and the entry into the table, each with its frame. -/
theorem commandAdmission : Obligations.CommandAdmission := by
  unfold Obligations.CommandAdmission
  refine ⟨?idle, ?refused, ?unknown, ?aborted, ?admitted, ?blocked, ?flush⟩
  case idle =>
    intro s h
    exact completes_eq Mach.admission rfl (by unfold Mach.admission; rw [h]) rfl
  case refused =>
    intro s i r q st d2 ha hv hf hval hk hq hl
    exact completes_eq _ rfl (admission_refuses ha hv hf hval) (taken_completes st d2 hk hq hl (countRefusal_same ..))
  case unknown =>
    intro s i r q ha hv hf he ho hk hq hl
    exact completes_eq _ rfl (admission_refuses ha hv hf (validate_unknown he ho))
      (taken_completes _ _ hk hq hl (countRefusal_same ..)).1
  case aborted =>
    intro s i r q ha h hk hq hl
    exact completes_eq _ rfl (admission_aborts ha h) (taken_completes _ _ hk hq hl (same_refl ..)).1
  case admitted =>
    intro s i r ha hv hf hval ho hm hfree
    have hw : (s.m.taken r).lockWaits i = [] := lockWaits_nil hfree
    obtain ⟨hself, hother, hq, hregs, -, hsame⟩ := tabled_frame (s.m.taken r) i
    have hadmit := admitCmd_unmirrored (m := (s.m.taken r).tabled i) (i := i) (by rw [hself, volu_of (same_vol hsame (by simp))]; exact hm)
    refine completes_eq _ rfl ((admission_locks ha hv hf hval ho).trans ((enterLock_admits hw).trans hadmit)) ?_
    refine ⟨?_, fun j hj => ?_, ?_, fun k hk => hregs k hk, ?_⟩
    · rw [Mach.cmd_setCmd_same, hself, hw]
      rfl
    · rw [Mach.cmd_setCmd_ne _ _ _ _ hj, hother j hj, taken_cmd]
    · rw [setCmd_rest, hq]
      rfl
    · exact same_trans (same_mono (taken_same s.m r) (by simp)) (same_trans hsame (by simp [Mach.SameBut]))
  case blocked =>
    intro s i r ha hv hf hval ho hconf
    have hw : (s.m.taken r).lockWaits i ≠ [] := lockWaits_ne hconf
    obtain ⟨hself, hother, -, -, hcount, hsame⟩ := tabled_frame (s.m.taken r) i
    refine completes_eq _ rfl ((admission_locks ha hv hf hval ho).trans (enterLock_blocks hw)) ?_
    refine ⟨?_, fun j hj => ?_, ?_, ?_⟩
    · rw [Mach.bump64_cmd, hself]
      rfl
    · rw [Mach.bump64_cmd, hother j hj, taken_cmd]
    · have h64 := rd64_bump64By_same ((s.m.taken r).tabled i) Reg.RLK_CONFL_LO 1
      rw [hcount] at h64
      exact h64
    · exact same_trans (same_mono (taken_same s.m r) (by simp)) (same_trans hsame (by simp [Mach.SameBut]))
  case flush =>
    intro s i r ha hv hf hval ho hheld
    have hflush : (s.m.taken r).admitFlush i = (s.m.taken r).setCmd i
        { s.m.cmd i with stage := .admitted, fails := [], cover := (s.m.flushCovers (entVol (s.m.cmd i).entry)).1 } := by
      unfold Mach.admitFlush
      dsimp only
      rw [taken_cmd, taken_flushCovers, hheld]
      rfl
    refine completes_eq _ rfl ((admission_flush ha hv hf hval ho).trans hflush) ?_
    exact ⟨Mach.cmd_setCmd_same .., fun j hj => Mach.cmd_setCmd_ne _ _ _ _ hj, rfl,
      same_trans (taken_same s.m r) (by simp [Mach.SameBut])⟩

end Sys2Proof.Machine

/-! Volume commands (O35): VOLUME_DELETE is no command of R63, so that an unformatted device in ADMIN_READY, where VOLUME_CREATE and
VOLUME_FORMAT are taken up, refuses it for the state of the device and not by Table 06.8. -/

namespace Sys2Proof.Machine

/-- An unformatted device in ADMIN_READY whose first VOLUME_CREATE, of volume 0 and from port 1, runs in the background. -/
def firstCreateRuns : State :=
  { m := { adm := { bg := some { port := .p1, op := .volCreate 0 } }
           port := ⟨{ perst := false, up := true }, { perst := false, up := true }⟩
           dev := { st := .adminReady, fwRunning := true, unformatted := true, loaded := true } } }

/-- A volume of 262,144 blocks under number 5, which no volume has there. -/
def absentVolume : VolArgs := { vol := 5, layout1 := false, enc := false, keySlot := 0, size := 262144 }

/-- There a VOLUME_DELETE of the absent volume answers VOLUME_NOT_READY. -/
theorem firstCreateRuns_delete : (firstCreateRuns.m.mail (.volumeDelete .p0 1 absentVolume.vol) .p0 1 1 false (Mach.volCmd .p0 0xC011
    (.volDelete absentVolume.vol) (fun m => m.deleteRefusal absentVolume.vol) (Mach.deleteAccepted .p0 absentVolume.vol))).out =
    [.mbox .p0 0x0005 St.volumeNotReady []] := by
  rw [mail_gated _ _ _ _ _ _ (by decide +kernel) rfl (by decide +kernel)]
  rfl

/-- Refutes O35: in its clause on the refusals, BACKGROUND_BUSY is said where a background operation runs and the device takes volume
commands; but VOLUME_DELETE is refused with VOLUME_NOT_READY before IO_READY, on an unformatted device as on every other (R63). -/
theorem not_volumeCommands : ¬ Obligations.VolumeCommands := by
  unfold Obligations.VolumeCommands
  rintro ⟨-, -, -, hrefused, -⟩
  obtain ⟨hsent, -⟩ := of_completes _ rfl (hrefused firstCreateRuns .p0 absentVolume St.invalidField
    (.volumeDelete .p0 1 absentVolume.vol) (.inr (.inr ⟨rfl, by decide +kernel⟩)) (by decide +kernel) rfl)
  have hbusy : [Out.mbox .p0 0x0005 St.volumeNotReady []] = [.mbox .p0 0x0006 St.backgroundBusy []] :=
    firstCreateRuns_delete.symm.trans hsent
  revert hbusy
  decide

end Sys2Proof.Machine

/-! Keys (O37): the key store's commands, one equation for each outcome of Table 14.3, and what an accepted one leaves (R325 to R333). -/

namespace Sys2Proof.Machine

/-! ### Reaching the key store -/

/-- A part that serves I/O and is in no shutdown does not gate the mailbox. -/
theorem serves_ungated {m : Mach} {p : Port} (h : m.Serves p) : m.mailGated = false := by
  simp [Mach.mailGated, h.io, h.phase]

/-- A command of the key store has its effect while the page runs (R325). -/
theorem completes_keyMail {c i : Instr} {s : State} {p : Port} {l : Nat} {P : Mach → Prop} (f : Mach → Mach)
    (hc : exec c s = s.on (Mach.keyMail i p l l f)) (hs : s.m.Serves p) (hr : s.m.running .key = true) (hP : P (f s.m)) :
    Completes c s P :=
  completes_eq _ hc (keyMail_open i p l l f _ hs.up rfl (serves_ungated hs) hr) hP

/-- While the page does not run, each is answered as before IO_READY. -/
theorem completes_keyShut {c i : Instr} {s : State} {p : Port} {l : Nat} (f : Mach → Mach)
    (hc : exec c s = s.on (Mach.keyMail i p l l f)) (hs : s.m.Serves p) (hr : s.m.running .key = false) :
    Completes c s fun t => s.m.Replies p St.volumeNotReady [] t ∧ s.m.SameBut [.out] t :=
  completes_eq _ hc (keyMail_shut i p l l f _ hs.up rfl (.inr hr)) (replies_no ..)

/-! ### KEY_IMPORT -/

/-- What SUBOP 0 answers (R329): SALT, the ephemeral public key, and the signature over both and SERIAL. -/
def Mach.transport (m : Mach) : List Byte :=
  let salt := leBytes 48 (Config.random384 m.free).toNat
  let point := leBytes 97 (Config.ephemeralPoint m.free).toNat
  salt ++ point ++ leBytes 96 (Config.signature m.free (salt ++ point ++ leBytes 20 m.adm.board.serial.toNat)).toNat

theorem transport_length (m : Mach) : m.transport.length = 241 := by
  simp only [Mach.transport, List.length_append, leBytes_length]

/-- The rows of Table 14.3 before the ephemeral key is looked at. -/
theorem keyImport_taken {m : Mach} (p : Port) {k : Nat} (pt : BitVec 776) (w : BitVec 320)
    (h : 1024 ≤ k ∨ (m.kslot k).st ≠ .empty ∨ (m.kslot k).importing = true) :
    m.keyImport p k pt w = m.refuse p St.invalidField := by
  unfold Mach.keyImport
  rw [if_pos (by simpa [or_assoc] using h)]

/-- For a free slot, with no ephemeral key. -/
theorem keyImport_keyless {m : Mach} (p : Port) {k : Nat} (pt : BitVec 776) (w : BitVec 320) (hk : k < 1024)
    (he : (m.kslot k).st = .empty) (hi : (m.kslot k).importing = false) (hx : m.key.xport = none) :
    m.keyImport p k pt w = m.importRefused p St.accessDenied := by
  simp [Mach.keyImport, Nat.not_le.mpr hk, he, hi, hx]

/-- For a free slot, with a point off the curve. -/
theorem keyImport_offCurve {m : Mach} (p : Port) {k n : Nat} {pt : BitVec 776} (w : BitVec 320) (hk : k < 1024)
    (he : (m.kslot k).st = .empty) (hi : (m.kslot k).importing = false) (hx : m.key.xport = some n) (hc : Config.onCurve pt = false) :
    m.keyImport p k pt w = m.importRefused p St.accessDenied := by
  simp [Mach.keyImport, Nat.not_le.mpr hk, he, hi, hx, hc]

/-- For a free slot, with a wrapped key that does not unwrap. -/
theorem keyImport_wrapped {m : Mach} (p : Port) {k n : Nat} {pt : BitVec 776} {w : BitVec 320} (hk : k < 1024)
    (he : (m.kslot k).st = .empty) (hi : (m.kslot k).importing = false) (hx : m.key.xport = some n) (hc : Config.onCurve pt = true)
    (hu : Config.unwrap n pt k w = none) :
    m.keyImport p k pt w = (m.raise .key 18 (BitVec.ofNat 64 k)).importRefused p St.accessDenied := by
  simp [Mach.keyImport, Nat.not_le.mpr hk, he, hi, hx, hc, hu]

/-- For a free slot, with a wrapped key that unwraps. -/
theorem keyImport_unwrapped {m : Mach} (p : Port) {k n : Nat} {pt : BitVec 776} {w : BitVec 320} {key : BitVec 256} (hk : k < 1024)
    (he : (m.kslot k).st = .empty) (hi : (m.kslot k).importing = false) (hx : m.key.xport = some n) (hc : Config.onCurve pt = true)
    (hu : Config.unwrap n pt k w = some key) (hs : m.epochsSpent = false) : m.keyImport p k pt w = m.importKey p k key := by
  simp [Mach.keyImport, Nat.not_le.mpr hk, he, hi, hx, hc, hu, hs]

/-- The machine of which an accepted import asks for the records: the slot holds the key under the next epoch, and the ephemeral key is
used up. -/
def Mach.keyTaken (k : Nat) (key : BitVec 256) (m : Mach) : Mach :=
  (m.updKey fun t => { t with nextEpoch := m.key.nextEpoch + 1, xport := none }).setKslot k
    { st := .empty, epoch := m.key.nextEpoch, asked := nonceBlock, key := key, importing := true }

/-- The machine of which an accepted rotation asks for the records. -/
def Mach.keyTurned (k : Nat) (m : Mach) : Mach :=
  (m.updKey fun t => { t with nextEpoch := m.key.nextEpoch + 1 }).setKslot k { m.kslot k with rotating := some m.key.nextEpoch }

/-- The records of a key under epoch e are asked for, and PG_SEQ of the page moves. -/
def Mach.recordKey (k e : Nat) (w : Waiter) (m : Mach) : Mach :=
  ((m.ask (.nonce k e nonceBlock)).1.askFor (.definition {}) false w).touch .key

theorem importKey_eq (m : Mach) (p : Port) (k : Nat) (key : BitVec 256) :
    m.importKey p k key = (m.keyTaken k key).recordKey k m.key.nextEpoch (.keyImport p k) := rfl

theorem rotateKey_eq (m : Mach) (k : Nat) : m.rotateKey k = (m.keyTurned k).recordKey k m.key.nextEpoch (.keyRotate k) := rfl

theorem recordKey_asks {a m : Mach} (h : m.hdl = a.hdl) (k e : Nat) (w : Waiter) : a.AsksKey k e w (m.recordKey k e w) := by
  unfold Mach.AsksKey Mach.recordKey
  rw [Mach.touch_hdl, ← h]
  exact asksKey_of m k e w

theorem recordKey_key (m : Mach) (k e : Nat) (w : Waiter) : (m.recordKey k e w).key = m.key := by
  unfold Mach.recordKey
  rw [Mach.touch_key]
  rfl

theorem recordKey_kslot (m : Mach) (k e : Nat) (w : Waiter) (j : Nat) : (m.recordKey k e w).kslot j = m.kslot j := by
  unfold Mach.kslot
  rw [recordKey_key]

theorem recordKey_regs {a m : Mach} (h : m.reg = a.reg) (k e : Nat) (w : Waiter) : a.RegsSame [] (m.recordKey k e w) :=
  rs_trans (rs_of_reg (b := (m.ask (.nonce k e nonceBlock)).1.askFor (.definition {}) false w) h) (rs_touch ..)

theorem recordKey_same (m : Mach) (k e : Nat) (w : Waiter) : m.SameBut [.hdl, .reg] (m.recordKey k e w) :=
  same_trans (b := (m.ask (.nonce k e nonceBlock)).1.askFor (.definition {}) false w) (by simp [Mach.SameBut, Mach.ask, Mach.askFor])
    (same_mono (touch_same ..) (by simp))

/-- What an accepted import leaves (R330). -/
theorem importKey_facts (m : Mach) (p : Port) (k : Nat) (key : BitVec 256) :
    (m.importKey p k key).kslot k =
      { st := .empty, epoch := m.key.nextEpoch, asked := nonceBlock, key := key, importing := true } ∧
    (∀ j, j ≠ k → (m.importKey p k key).kslot j = m.kslot j) ∧
    (m.importKey p k key).key =
      { m.key with slot := (m.importKey p k key).key.slot, nextEpoch := m.key.nextEpoch + 1, xport := none } ∧
    m.AsksKey k m.key.nextEpoch (.keyImport p k) (m.importKey p k key) ∧ m.RegsSame [] (m.importKey p k key) ∧
    m.SameBut [.key, .hdl, .reg] (m.importKey p k key) := by
  rw [importKey_eq]
  refine ⟨?slot, fun j hj => ?others, ?store, recordKey_asks (m := m.keyTaken k key) rfl _ _ _,
    recordKey_regs (m := m.keyTaken k key) rfl _ _ _, ?frame⟩
  case slot => rw [recordKey_kslot, Mach.keyTaken, Mach.kslot_setKslot_same]
  case others =>
    rw [recordKey_kslot, Mach.keyTaken, Mach.kslot_setKslot_ne _ _ _ _ hj]
    rfl
  case store =>
    rw [recordKey_key]
    rfl
  case frame =>
    exact same_trans (b := m.keyTaken k key) (by simp [Mach.SameBut, Mach.keyTaken]) (same_mono (recordKey_same ..) (by simp))

/-! ### KEY_ROTATE and KEY_RETIRE -/

/-- A rotation that nothing stands against begins in the background (R332). -/
theorem keyRotate_begins {m : Mach} (p : Port) {k : Nat} (hb : m.adm.bg = none) (hk : k < 1024) (he : (m.kslot k).st ≠ .empty)
    (hs : m.epochsSpent = false) : ∃ u, m.Begun p (.keyRotate k) 0xC032 u ∧ m.keyRotate p k = u.rotateKey k := by
  obtain ⟨u, hu, e⟩ := startBg_begun m p (.keyRotate k) 0xC032 (Mach.rotateKey k) hb
  refine ⟨u, hu, ?_⟩
  unfold Mach.keyRotate
  rw [if_neg (by simp [hb]), if_neg (by omega), if_neg (by simpa using he), if_neg (by simp [hs]), e]

/-- What an accepted rotation leaves (R332). -/
theorem rotateKey_facts (m : Mach) (k : Nat) :
    (m.rotateKey k).kslot k = { m.kslot k with rotating := some m.key.nextEpoch } ∧
    (∀ j, j ≠ k → (m.rotateKey k).kslot j = m.kslot j) ∧
    (m.rotateKey k).key = { m.key with slot := (m.rotateKey k).key.slot, nextEpoch := m.key.nextEpoch + 1 } ∧
    m.AsksKey k m.key.nextEpoch (.keyRotate k) (m.rotateKey k) ∧ m.RegsSame [] (m.rotateKey k) ∧
    m.SameBut [.key, .hdl, .reg] (m.rotateKey k) := by
  rw [rotateKey_eq]
  refine ⟨?slot, fun j hj => ?others, ?store, recordKey_asks (m := m.keyTurned k) rfl _ _ _,
    recordKey_regs (m := m.keyTurned k) rfl _ _ _, ?frame⟩
  case slot => rw [recordKey_kslot, Mach.keyTurned, Mach.kslot_setKslot_same]
  case others =>
    rw [recordKey_kslot, Mach.keyTurned, Mach.kslot_setKslot_ne _ _ _ _ hj]
    rfl
  case store =>
    rw [recordKey_key]
    rfl
  case frame =>
    exact same_trans (b := m.keyTurned k) (by simp [Mach.SameBut, Mach.keyTurned]) (same_mono (recordKey_same ..) (by simp))

theorem keyRotate_refused {m : Mach} (p : Port) {k : Nat} (hb : m.adm.bg = none) (h : 1024 ≤ k ∨ (m.kslot k).st = .empty) :
    m.keyRotate p k = m.refuse p (if 1024 ≤ k then St.invalidField else St.keySlotEmpty) := by
  unfold Mach.keyRotate
  rw [if_neg (by simp [hb])]
  split
  · rfl
  · next hk => rw [if_pos (by simp [h.resolve_left hk])]

theorem keyRetire_refused {m : Mach} (p : Port) {k : Nat} (h : 1024 ≤ k ∨ (m.kslot k).st = .empty) :
    m.keyRetire p k = m.refuse p (if 1024 ≤ k then St.invalidField else St.keySlotEmpty) := by
  unfold Mach.keyRetire
  split
  · rfl
  · next hk => rw [if_pos (by simp [h.resolve_left hk])]

/-- A slot that no volume uses is emptied, and the record that makes it durable is asked for (R333). -/
theorem keyRetire_unbound {m : Mach} (p : Port) {k : Nat} (hk : k < 1024) (he : (m.kslot k).st ≠ .empty) (hb : m.boundVols k = []) :
    m.keyRetire p k =
      (((m.setKslot k {}).updKey fun t => { t with scrub := true }).touch .key).askFor (.definition {}) false (.keyRetire p) := by
  unfold Mach.keyRetire Mach.zeroiseSlot
  rw [if_neg (by omega), if_neg (by simpa using he), hb]
  rfl

/-- Settles O37: each command of the key store by its rows of Table 14.3. -/
theorem keyCommands : Obligations.KeyCommands := by
  unfold Obligations.KeyCommands
  refine ⟨?transport, ?import_, ?spent, ?slotTaken, ?rotate, ?empty, ?retire, ?shut⟩
  case transport =>
    intro s p hs hr
    refine completes_keyMail _ rfl hs hr ?_
    have htouch := touch_same .key (s.m.updKey fun k => { k with xport := some s.m.free }).draw
    obtain ⟨hsent, hsame⟩ := replies_ok p s.m.transport ((s.m.updKey fun k => { k with xport := some s.m.free }).draw.touch .key)
    refine ⟨?_, ⟨s.m.transport, ?_, transport_length _⟩, rs_touch .., ?_⟩
    · exact (same_key hsame (by simp)).trans (same_key htouch (by simp))
    · exact hsent.trans (congrArg (· ++ _) ((same_out htouch (by simp)).trans rfl))
    · exact same_trans (b := (s.m.updKey fun k => { k with xport := some s.m.free }).draw.touch .key)
        (same_trans (b := (s.m.updKey fun k => { k with xport := some s.m.free }).draw) (by simp [Mach.SameBut])
          (same_mono htouch (by simp))) (same_mono hsame (by simp))
  case import_ =>
    intro s p k n pt w hs hr hk he hi hx hsp
    refine completes_keyMail _ rfl hs hr ?_
    refine ⟨fun key hc hu => ?_, fun hc hu => ?_, fun hc => ?_⟩
    · rw [keyImport_unwrapped p hk he hi hx hc hu hsp]
      exact importKey_facts ..
    · rw [keyImport_wrapped p hk he hi hx hc hu]
      exact ⟨_, recorded_raise .., refused_of ..⟩
    · rw [keyImport_offCurve p w hk he hi hx hc]
      exact refused_of ..
  case spent =>
    intro s p k pt w hs hr hk he hi hx
    refine completes_keyMail _ rfl hs hr ?_
    rw [keyImport_keyless p pt w hk he hi hx]
    exact refused_of ..
  case slotTaken =>
    intro s p k pt w hs hr h
    refine completes_keyMail _ rfl hs hr ?_
    rw [keyImport_taken p pt w h]
    exact replies_no ..
  case rotate =>
    intro s p k hs hr hb hk he hsp
    refine completes_keyMail _ rfl hs hr ?_
    obtain ⟨u, hu, e⟩ := keyRotate_begins p hb hk he hsp
    have hkey : u.key = s.m.key := same_key hu.same (by simp)
    have hslot : ∀ j, u.kslot j = s.m.kslot j := fun j => by rw [Mach.kslot, hkey, Mach.kslot]
    obtain ⟨h1, h2, h3, h4, h5, h6⟩ := rotateKey_facts u k
    rw [e]
    rw [hslot, hkey] at h1
    rw [hkey] at h3
    refine ⟨h1, fun j hj => (h2 j hj).trans (hslot j), h3, ?_, ?_, ?_, ?_, ?_⟩
    · unfold Mach.AsksKey at h4 ⊢
      rwa [same_hdl hu.same (by simp), hkey] at h4
    · rw [same_adm h6 (by simp), hu.adm]
    · exact (same_out h6 (by simp)).trans hu.sent
    · exact rs_trans (rs_of_reg (same_reg hu.same (by simp))) h5
    · exact same_trans (same_mono hu.same (by simp)) (same_mono h6 (by simp))
  case empty =>
    rintro s p k c (rfl | rfl) hs hr hb h
    · refine completes_keyMail _ rfl hs hr ?_
      rw [keyRotate_refused p hb h]
      exact replies_no ..
    · refine completes_keyMail _ rfl hs hr ?_
      rw [keyRetire_refused p h]
      exact replies_no ..
  case retire =>
    intro s p k hs hr hk he hb
    refine completes_keyMail _ rfl hs hr ?_
    rw [keyRetire_unbound p hk he hb]
    have htouch := touch_same .key ((s.m.setKslot k {}).updKey fun t => { t with scrub := true })
    have hkey := same_key htouch (by simp)
    refine ⟨?_, ?_, fun j hj => ?_, ?_, rs_touch .., ?_⟩
    · exact (congrArg (fun x : Keys => SMap.get ({} : KeySlot) x.slot k) hkey).trans (Mach.kslot_setKslot_same s.m k {})
    · exact congrArg (fun h : Headland => h.waiters ++ [(h.nextRec, false, Waiter.keyRetire p)]) (same_hdl htouch (by simp))
    · exact (congrArg (fun x : Keys => SMap.get ({} : KeySlot) x.slot j) hkey).trans (Mach.kslot_setKslot_ne s.m k j {} hj)
    · exact congrArg Keys.scrub hkey
    · exact same_trans (b := ((s.m.setKslot k {}).updKey fun t => { t with scrub := true }).touch .key)
        (same_trans (b := (s.m.setKslot k {}).updKey fun t => { t with scrub := true }) (by simp [Mach.SameBut])
          (same_mono htouch (by simp))) (by simp [Mach.SameBut, Mach.askFor, Mach.ask])
  case shut =>
    rintro s p k pt w c (rfl | rfl | rfl | rfl) hs hr
    · exact completes_keyShut _ rfl hs hr
    · exact completes_keyShut _ rfl hs hr
    · exact completes_keyShut _ rfl hs hr
    · exact completes_keyShut _ rfl hs hr

end Sys2Proof.Machine

/-! SERVICE_ACTION (O36): every action goes through the same refusals and begins in the background; what STOP, CHANGE, START, RETRAIN, RETIRE
and RECALIBRATE then do at once, and what the later steps leave (R86, R147, R399, R401, R402). -/

namespace Sys2Proof.Machine

/-! ### The refusals that every action shares -/

theorem service_busy {m : Mach} (p : Port) (op : BgOp) (f : Mach → Mach) (hb : m.adm.bg ≠ none) :
    m.service p op f = m.refuse p St.backgroundBusy := by
  unfold Mach.service
  rw [if_pos (Option.isSome_iff_ne_none.mpr hb)]

theorem service_locked {m : Mach} (p : Port) (op : BgOp) (f : Mach → Mach) (hb : m.adm.bg = none)
    (hl : (m.port.get p).unlocked = false) : m.service p op f = m.refuse p St.accessDenied := by
  unfold Mach.service
  rw [if_neg (by simp [hb]), if_pos (by simp [hl])]

/-- Every service action goes through these refusals. -/
theorem serviceAction_exec {p : Port} {c : Instr} (h : ServiceAction p c) :
    ∃ (i : Instr) (l : Nat) (op : Mach → BgOp) (f : Mach → Mach),
      ∀ s, exec c s = s.on (Mach.mail i p l l false fun m => m.service p (op m) f) := by
  cases h with
  | stop pg => exact ⟨_, _, _, _, fun _ => rfl⟩
  | change pg x => exact ⟨_, _, _, _, fun _ => rfl⟩
  | start pg => exact ⟨_, _, fun m => .svcStart pg (m.hdr pg).gen, _, fun _ => rfl⟩
  | all pg x => exact ⟨_, _, fun m => .svcStopChangeStart pg x (m.hdr pg).gen, _, fun _ => rfl⟩
  | fch c => exact ⟨_, _, _, _, fun _ => rfl⟩
  | drc d => exact ⟨_, _, _, _, fun _ => rfl⟩
  | port q => exact ⟨_, _, _, _, fun _ => rfl⟩
  | retire c => exact ⟨_, _, _, _, fun _ => rfl⟩
  | recalibrate o => exact ⟨_, _, _, _, fun _ => rfl⟩

/-- A mailbox command of an action reaches the refusals while the part serves I/O. -/
theorem completes_serves {c i : Instr} {s : State} {p : Port} {l : Nat} {P : Mach → Prop} (f : Mach → Mach)
    (hc : exec c s = s.on (Mach.mail i p l l false f)) (hs : s.m.Serves p) (hP : P (f s.m)) : Completes c s P :=
  completes_eq _ hc (mail_open i p l l false f _ hs.up rfl (.inr (serves_ungated hs))) hP

/-- An action of an unlocked port, with no background operation running, begins and does its first step. -/
theorem completes_service {c i : Instr} {s : State} {p : Port} {l : Nat} {P : Mach → Prop} (op : Mach → BgOp) (f : Mach → Mach)
    (hc : exec c s = s.on (Mach.mail i p l l false fun m => m.service p (op m) f)) (hs : s.m.Serves p) (hb : s.m.adm.bg = none)
    (hu : (s.m.port.get p).unlocked = true) (hP : ∀ u, s.m.Begun p (op s.m) 0xC071 u → P (f u)) : Completes c s P := by
  obtain ⟨u, hbegun, e⟩ := service_begun s.m p (op s.m) f hb hu
  refine completes_serves _ hc hs ?_
  rw [e]
  exact hP u hbegun

/-! ### STOP -/

/-- What an action's stop leaves of a page that needs no flush and no partner, from the state before the action. -/
theorem begun_svcStop {m u : Mach} {p : Port} {pg : Page} {op : BgOp} (hu : m.Begun p op 0xC071 u) (hp : pg ≠ .port p)
    (hr : m.pageSt pg = .running) (hm : m.mayStop pg = true) :
    (∀ q, (u.svcStopPage p pg).pageSt q = if q = pg then .stopping else m.pageSt q) ∧ ((u.svcStopPage p pg).hdr pg).held = true := by
  obtain ⟨hst, hheld, -⟩ := svcStopPage_facts u p pg hp (by rw [begun_pageSt hu, hr]) (by rw [begun_mayStop hu, hm])
  exact ⟨fun q => by rw [hst, begun_pageSt hu], hheld⟩

theorem svcStopPage_own (p : Port) (m : Mach) : m.svcStopPage p (.port p) = m.endBg St.invalidField := by
  unfold Mach.svcStopPage
  rw [if_pos (by simp [ownPort])]

/-! ### CHANGE -/

/-- What a staged register takes of a value: RSVD fields stay 0 (R10). -/
def stagedValue (key : Nat) (v : Word) : Word :=
  match rowAt key with
  | some r => v &&& BitVec.ofNat 32 r.mask
  | none => v

/-- A staged offset lies in its page and has a row. -/
theorem staged_row {pg : Page} {off : Nat} (h : isStaged pg off = true) :
    pageAt (pg.base + off) = some pg ∧ ∃ r, rowAt (pg.base + off) = some r := by
  unfold isStaged at h
  rw [Bool.and_eq_true, decide_eq_true_eq] at h
  refine ⟨pageAt_base_add pg h.1, ?_⟩
  cases hr : rowAt (pg.base + off) with
  | none => simp [hr] at h
  | some r => exact ⟨r, rfl⟩

/-- On a page that is no DRC's, a staged register takes its value and nothing else happens. -/
theorem rsStore_staged {pg : Page} {off : Nat} (h : isStaged pg off = true) (hd : ∀ d, pg ≠ .drc d) (v : Word) (m : Mach) :
    m.rsStore (pg.base + off) v = m.wr (pg.base + off) (stagedValue (pg.base + off) v) := by
  obtain ⟨hp, r, hr⟩ := staged_row h
  unfold Mach.rsStore stagedValue
  rw [hp, hr]
  cases pg with
  | drc d => exact absurd rfl (hd d)
  | _ => rfl

theorem changeRegs_eq {pg : Page} {x : List (Nat × Word)} (h : (x.all fun e => isStaged pg e.1) = true) (hd : ∀ d, pg ≠ .drc d)
    (m : Mach) : m.changeRegs pg x = m.each x fun e m => m.wr (pg.base + e.1) (stagedValue (pg.base + e.1) e.2) := by
  induction x generalizing m with
  | nil => rfl
  | cons e x ih =>
    rw [List.all_cons, Bool.and_eq_true] at h
    change (m.rsStore (pg.base + e.1) e.2).changeRegs pg x = _
    rw [ih h.2, rsStore_staged h.1 hd]
    rfl

/-- The registers written do not depend on anything but the registers. -/
theorem eachWr_reg {α : Type} (k : α → Nat) (v : α → Word) (x : List α) {a b : Mach} (h : a.reg = b.reg) :
    (a.each x fun e m => m.wr (k e) (v e)).reg = (b.each x fun e m => m.wr (k e) (v e)).reg := by
  induction x generalizing a b with
  | nil => exact h
  | cons e x ih => exact ih (a := a.wr (k e) (v e)) (b := b.wr (k e) (v e)) (by simp [Mach.wr, Mach.updReg, h])

theorem eachWr_rd {α : Type} (k : α → Nat) (v : α → Word) (x : List α) (m : Mach) :
    m.RegsBut (x.map k) (m.each x fun e m => m.wr (k e) (v e)) := by
  induction x generalizing m with
  | nil => exact fun _ _ => rfl
  | cons e x ih =>
    intro j hj
    rw [List.map_cons, List.mem_cons, not_or] at hj
    exact (ih (m.wr (k e) (v e)) j hj.2).trans (Mach.rd_wr_ne _ _ _ _ hj.1)

theorem eachWr_hdr {α : Type} (k : α → Nat) (v : α → Word) (x : List α) (m : Mach) (q : Page) :
    (m.each x fun e m => m.wr (k e) (v e)).hdr q = m.hdr q := by
  induction x generalizing m with
  | nil => rfl
  | cons e x ih => exact ih (m.wr (k e) (v e))

theorem eachWr_same {α : Type} (k : α → Nat) (v : α → Word) (x : List α) (m : Mach) :
    m.SameBut [.reg] (m.each x fun e m => m.wr (k e) (v e)) :=
  same_each _ _ (fun e m => by simp [Mach.SameBut]) m

/-- CHANGE of a STOPPED page with every offset staged writes the registers and ends with SUCCESS. -/
theorem svcChange_writes {m : Mach} {pg : Page} {x : List (Nat × Word)} (hs : m.pageSt pg = .stopped)
    (hx : (x.all fun e => isStaged pg e.1) = true) : m.svcChange pg x = (m.changeRegs pg x).endBg St.success := by
  unfold Mach.svcChange
  rw [if_neg (by simp [hs, hx])]

theorem svcChange_refused {m : Mach} {pg : Page} {x : List (Nat × Word)}
    (h : m.pageSt pg ≠ .stopped ∨ ∃ e ∈ x, isStaged pg e.1 = false) : m.svcChange pg x = m.endBg St.invalidField := by
  unfold Mach.svcChange
  refine if_pos ?_
  rcases h with h | h
  · simp [h]
  · simp [all_staged pg x h]

/-- What a CHANGE leaves, from the state before the action. -/
theorem begun_svcChange {m u : Mach} {p : Port} {pg : Page} {x : List (Nat × Word)} {op : BgOp} (hu : m.Begun p op 0xC071 u)
    (hs : m.pageSt pg = .stopped) (hx : (x.all fun e => isStaged pg e.1) = true) (hd : ∀ d, pg ≠ .drc d) :
    ∃ v, m.SameBut [.reg, .adm, .port, .out] v ∧ v.reg = (m.changeRegs pg x).reg ∧ m.RegsBut (x.map fun e => pg.base + e.1) v ∧
      m.HdrsBut [] v ∧ v.Ended p St.success (u.svcChange pg x) := by
  have hreg : u.reg = m.reg := same_reg hu.same (by simp)
  have hw := eachWr_same (fun e : Nat × Word => pg.base + e.1) (fun e => stagedValue (pg.base + e.1) e.2) x u
  rw [svcChange_writes (by rw [begun_pageSt hu, hs]) hx]
  refine ⟨u.changeRegs pg x, ?frame, ?regs, ?others, fun q _ => ?headers, ?ended⟩
  case frame =>
    rw [changeRegs_eq hx hd]
    exact same_trans (same_mono hu.same (by simp)) (same_mono hw (by simp))
  case regs =>
    rw [changeRegs_eq hx hd, changeRegs_eq hx hd]
    exact eachWr_reg _ _ _ hreg
  case others =>
    intro k hk
    rw [changeRegs_eq hx hd, eachWr_rd (fun e : Nat × Word => pg.base + e.1) _ x u k hk, begun_rd hu]
  case headers => rw [changeRegs_eq hx hd, eachWr_hdr, begun_hdr hu]
  case ended =>
    refine endBg_ended _ p op _ ?_
    rw [changeRegs_eq hx hd, same_adm hw (by simp), begun_bg hu]

/-! ### START and the three in sequence -/

theorem svcAll_refused {m : Mach} (p : Port) {pg : Page} {x : List (Nat × Word)} (h : ∃ e ∈ x, isStaged pg e.1 = false) :
    m.svcAll p pg x = m.endBg St.invalidField := by
  unfold Mach.svcAll
  rw [if_pos (by simp [all_staged pg x h])]

theorem svcAll_stops {m : Mach} (p : Port) {pg : Page} {x : List (Nat × Word)} (h : (x.all fun e => isStaged pg e.1) = true) :
    m.svcAll p pg x = m.svcStopPage p pg := by
  unfold Mach.svcAll
  rw [if_neg (by simp [h])]

/-! ### RETRAIN -/

theorem retrain_stopped {m : Mach} {pg : Page} (f : Mach → Mach) (h : m.pageSt pg = .stopped) : m.retrain pg f = f m := by
  unfold Mach.retrain
  rw [if_neg (by simp [h])]

theorem retrain_refused {m : Mach} {pg : Page} (f : Mach → Mach) (h : m.pageSt pg ≠ .stopped) :
    m.retrain pg f = m.endBg St.invalidField := by
  unfold Mach.retrain
  rw [if_pos (by simpa using h)]

/-- The windows that step 6 finds pass. -/
theorem newWindows_pass (m : Mach) : deskewPasses m.newWindows = true := by
  unfold deskewPasses
  rw [Bool.and_eq_true]
  refine ⟨by simp [Mach.newWindows], List.all_eq_true.mpr fun w hw => ?_⟩
  simpa [wideEnough] using (windows_ok m w hw).1

theorem deskewed_slow {m : Mach} {c : Chan} (h : (m.chn c).rate ≠ 3) : m.deskewed c = m := if_neg h

theorem deskewed_fast {m : Mach} {c : Chan} (h : (m.chn c).rate = 3) : m.deskewed c =
    (m.setChn c { m.chn c with deskew := deskewPasses m.newWindows, windows := m.newWindows }).draw := if_pos h

theorem deskewed_same (m : Mach) (c : Chan) : m.SameBut [.fl, .free] (m.deskewed c) := by
  by_cases h : (m.chn c).rate = 3
  · rw [deskewed_fast h]
    simp [Mach.SameBut]
  · rw [deskewed_slow h]
    exact same_refl ..

theorem deskewed_chn (m : Mach) {c j : Chan} (h : j ≠ c) : (m.deskewed c).chn j = m.chn j := by
  by_cases hr : (m.chn c).rate = 3
  · rw [deskewed_fast hr]
    exact Mach.chn_setChn_ne _ _ _ _ h
  · rw [deskewed_slow hr]

/-- The machine of a channel that has trained, before its action ends. -/
def Mach.fchTrained (c : Chan) (m : Mach) : Mach :=
  ((m.deskewed c).setChn c { (m.deskewed c).chn c with trained := true }).touch (.fch c)

theorem fchRetrained_passes {m : Mach} (c : Chan) (h : m.fl.trip = false) :
    m.fchRetrained c true = (m.fchTrained c).endBg St.success := by
  unfold Mach.fchRetrained
  rw [if_neg (by simp [h]), if_pos rfl]
  rfl

theorem fchTrained_same (m : Mach) (c : Chan) : m.SameBut [.reg, .fl, .free] (m.fchTrained c) :=
  same_trans (b := (m.deskewed c).setChn c { (m.deskewed c).chn c with trained := true })
    (same_trans (same_mono (deskewed_same m c) (by simp)) (by simp [Mach.SameBut])) (same_mono (touch_same ..) (by simp))

theorem fchTrained_regs (m : Mach) (c : Chan) : m.RegsSame [] (m.fchTrained c) :=
  rs_trans (rs_of_reg (b := (m.deskewed c).setChn c { (m.deskewed c).chn c with trained := true })
    (same_reg (deskewed_same m c) (by simp) :)) (rs_touch ..)

theorem fchTrained_chn (m : Mach) (c : Chan) : (m.fchTrained c).chn c = { (m.deskewed c).chn c with trained := true } := by
  unfold Mach.fchTrained
  rw [Mach.touch_chn, Mach.chn_setChn_same]

theorem fchTrained_others (m : Mach) {c j : Chan} (h : j ≠ c) : (m.fchTrained c).chn j = m.chn j := by
  unfold Mach.fchTrained
  rw [Mach.touch_chn, Mach.chn_setChn_ne _ _ _ _ h, deskewed_chn m h]

/-- At 3,600 MT/s a failed training is one of deskew, and the page stays STOPPED (R401). -/
theorem fchRetrained_fails {m : Mach} {c : Chan} (h : m.fl.trip = false) (hr : (m.chn c).rate = 3) : m.fchRetrained c false =
    ((m.setChn c { m.chn c with deskew := false }).raise (.fch c) 20 0).endBg St.invalidField := by
  unfold Mach.fchRetrained Mach.fchFails
  rw [if_neg (by simp [h]), if_neg (by simp), if_pos hr]

theorem retrainEnd_none {m : Mach} (h : m.adm.bg = none) (ok : Bool) : m.retrainEnd ok = m := by
  unfold Mach.retrainEnd
  rw [h]

theorem retrainEnd_fch {m : Mach} {p : Port} {c : Chan} (h : m.adm.bg = some { port := p, op := .svcRetrain (.fch c) }) (ok : Bool) :
    m.retrainEnd ok = m.fchRetrained c ok := by
  unfold Mach.retrainEnd
  rw [h]

theorem retrainEnd_port {m : Mach} {p q : Port} (h : m.adm.bg = some { port := p, op := .svcRetrain (.port q) }) (ok : Bool) :
    m.retrainEnd ok = m.endBg St.success := by
  unfold Mach.retrainEnd
  rw [h]

/-! ### The rebuild -/

theorem rebuildOver_left {m : Mach} (h : m.fl.rbActive = false ∨ m.rebuildLeft ≠ []) : m.rebuildOver = m := by
  unfold Mach.rebuildOver
  refine if_pos ?_
  rcases h with h | h <;> simp [h]

theorem rebuildOver_none {m : Mach} (h : m.fl.rbActive = true) (hl : m.rebuildLeft = []) :
    m.rebuildOver = ((m.updFl fun f => { f with rbActive := false }).touch .ecc).settleDev := by
  unfold Mach.rebuildOver
  rw [if_neg (by simp [h, hl])]

/-! ### RECALIBRATE -/

/-- The references of every sensor are dropped: the next results are references (R345). -/
def Mach.unreferenced (m : Mach) : Mach :=
  (m.updThm fun t => { t with sensor := t.sensor.map fun e => (e.1, { e.2 with ref := none }) }).touch .thm

/-- A value read from a sparse map of which a function that keeps the default has changed every value. -/
theorem get_mapValues {α : Type} (d : α) (g : α → α) (hg : g d = d) (x : SMap α) (k : Nat) :
    SMap.get d (x.map fun e => (e.1, g e.2)) k = g (SMap.get d x k) := by
  induction x with
  | nil => exact hg.symm
  | cons e x ih =>
    by_cases h : k = e.1
    · simp [SMap.get, h]
    · simp only [List.map_cons, SMap.get, if_neg h, ih]

theorem unreferenced_sens (m : Mach) (j : Nat) : m.unreferenced.sens j = { m.sens j with ref := none } := by
  unfold Mach.unreferenced
  rw [Mach.touch_sens]
  exact get_mapValues {} (fun x : Sensor => { x with ref := none }) rfl m.thm.sensor j

theorem unreferenced_calFail (m : Mach) : m.unreferenced.thm.calFail = m.thm.calFail := by
  unfold Mach.unreferenced
  rw [Mach.touch_thm]
  rfl

theorem unreferenced_regs (m : Mach) : m.RegsSame [] m.unreferenced := rs_touch ..

theorem unreferenced_same (m : Mach) : m.SameBut [.thm, .reg] m.unreferenced :=
  same_trans (b := m.updThm fun t => { t with sensor := t.sensor.map fun e => (e.1, { e.2 with ref := none }) }) (by simp [Mach.SameBut])
    (same_mono (touch_same ..) (by simp))

theorem recalibrate_single {m : Mach} (o : Int) (h : m.pageSt .thm = .stopped) :
    m.recalibrate [o] = (m.calibrate 0 o).unreferenced.endBg St.success := recal_one m o h

theorem recalibrate_refused {m : Mach} (o : List Int) (h : m.pageSt .thm ≠ .stopped) : m.recalibrate o = m.endBg St.invalidField := by
  unfold Mach.recalibrate
  rw [if_pos (by simpa using h)]

theorem calibrate_within (m : Mach) (i : Nat) {o : Int} (hlo : -128 ≤ o) (hhi : o < 128) : m.calibrate i o =
    (m.setSens i { m.sens i with cal := some (BitVec.ofInt 8 o) }).updThm fun t => { t with calFail := t.calFail &&& ~~~(bit32 i) } :=
  if_pos ⟨hlo, hhi⟩

theorem calibrate_within_sens (m : Mach) (i : Nat) {o : Int} (hlo : -128 ≤ o) (hhi : o < 128) (j : Nat) :
    (m.calibrate i o).sens j = (m.setSens i { m.sens i with cal := some (BitVec.ofInt 8 o) }).sens j := by
  rw [calibrate_within m i hlo hhi]
  rfl

theorem calibrate_outside (m : Mach) (i : Nat) {o : Int} (h : o < -128 ∨ 128 ≤ o) :
    m.calibrate i o = (m.updThm fun t => { t with calFail := t.calFail ||| bit32 i }).raise .thm 16 (BitVec.ofNat 64 i) :=
  if_neg (by omega)

/-! ### The statement -/

/-- Settles O36: every action meets the shared refusals, and what it does past them is one equation of its first step. -/
theorem serviceActions : Obligations.ServiceActions := by
  unfold Obligations.ServiceActions
  refine ⟨?locked, ?busy, ?stops, ?stop, ?change, ?changeOne, ?changeRefused, ?start, ?stopOwn, ?allRefused, ?retrainFch, ?retrainDrc,
    ?retrainPort, ?retrainFchRefused, ?retrainDrcRefused, ?retrainOwn, ?trained, ?untrained, ?portDone, ?noneDone, ?retire, ?retireRefused,
    ?rebuilt, ?rebuilding, ?recalibrated, ?recalFails, ?recalRefused⟩
  case locked =>
    intro s p c hc hs hb hl
    obtain ⟨i, l, op, f, hx⟩ := serviceAction_exec hc
    refine completes_serves _ (hx s) hs ?_
    rw [service_locked p _ f hb hl]
    exact replies_no ..
  case busy =>
    intro s p c hc hs hb
    obtain ⟨i, l, op, f, hx⟩ := serviceAction_exec hc
    refine completes_serves _ (hx s) hs ?_
    rw [service_busy p _ f hb]
    exact replies_no ..
  case stops =>
    rintro s p pg x c (rfl | ⟨rfl, hx⟩) hs hb hu hp hr hm
    · exact completes_service (fun _ => .svcStop pg) _ rfl hs hb hu fun u hbegun => begun_svcStop hbegun hp hr hm
    · refine completes_service (fun m => .svcStopChangeStart pg x (m.hdr pg).gen) _ rfl hs hb hu fun u hbegun => ?_
      rw [svcAll_stops p hx]
      exact begun_svcStop hbegun hp hr hm
  case stop =>
    intro s p pg hs hb hu hp hr hm hlnt htwn hsow hfch
    refine completes_service (fun _ => .svcStop pg) _ rfl hs hb hu fun u hbegun => ?_
    obtain ⟨-, -, hplain⟩ := svcStopPage_facts u p pg hp (by rw [begun_pageSt hbegun, hr]) (by rw [begun_mayStop hbegun, hm])
    obtain ⟨hbg, hhdr, hhdrs, hregs, hsame⟩ := hplain hlnt htwn hsow hfch
    refine ⟨?_, fun q hq => ?_, fun k hk => ?_, ?_, ?_, ?_⟩
    · rw [hhdr, begun_hdr hbegun]
    · rw [hhdrs q hq, begun_hdr hbegun]
    · rw [hregs k hk, begun_rd hbegun]
    · rw [hbg, begun_bg hbegun]
    · exact (same_out hsame (by simp)).trans hbegun.sent
    · exact same_trans (same_mono hbegun.same (by simp)) (same_mono hsame (by simp))
  case change =>
    intro s p pg x hs hb hu hst hx hd
    refine completes_service (fun _ => .svcStopChangeStart pg x 0) _ rfl hs hb hu fun u hbegun => ?_
    obtain ⟨v, hsame, hreg, hregs, hhdrs, hend⟩ := begun_svcChange hbegun hst hx hd
    have hreg' : (u.svcChange pg x).reg = v.reg := same_reg hend.same (by simp)
    refine ⟨hreg'.trans hreg, ?_, ?_, ?_, fun k hk => ?_, fun q hq => ?_, ?_⟩
    · rw [hend.adm]
    · rw [hend.self]
    · rw [hend.self]
      rfl
    · rw [Mach.rd, hreg']
      exact hregs k hk
    · rw [hdr_reg hreg']
      exact hhdrs q hq
    · exact same_trans hsame (same_mono hend.same (by simp))
  case changeOne =>
    intro s p pg off v r hs hb hu hst hoff hrow hd
    refine completes_service (fun _ => .svcStopChangeStart pg [(off, v)] 0) _ rfl hs hb hu fun u hbegun => ?_
    obtain ⟨w, -, hreg, -, -, hend⟩ := begun_svcChange (x := [(off, v)]) hbegun hst (by simp [hoff]) hd
    have hrs : (u.svcChange pg [(off, v)]).reg = (s.m.wr (pg.base + off) (stagedValue (pg.base + off) v)).reg := by
      rw [same_reg hend.same (by simp), hreg, changeRegs_eq (by simp [hoff]) hd]
      rfl
    rw [Mach.rd, hrs]
    refine (Mach.rd_wr_same s.m _ _).trans ?_
    rw [stagedValue, hrow]
  case changeRefused =>
    intro s p pg x hs hb hu h
    refine completes_service (fun _ => .svcStopChangeStart pg x 0) _ rfl hs hb hu fun u hbegun => ?_
    rw [svcChange_refused (by rwa [begun_pageSt hbegun])]
    exact begunEnded_of hbegun
  case start =>
    intro s p pg hs hb hu hp hst
    refine completes_service (fun m => .svcStart pg (m.hdr pg).gen) _ rfl hs hb hu fun u hbegun => ?_
    rw [svcStartPage_run u p pg hp (by rw [begun_pageSt hbegun, hst])]
    refine ⟨?_, fun q hq => ?_, fun k _ => begun_rd hbegun k, (begun_bg hbegun :), hbegun.sent, ?_⟩
    · rw [Mach.hdr_setHdr_same, begun_hdr hbegun]
    · rw [Mach.hdr_setHdr_ne _ _ _ _ (by simpa using hq), begun_hdr hbegun]
    · exact same_trans (same_mono hbegun.same (by simp)) (by simp [Mach.SameBut])
  case stopOwn =>
    intro s p hs hb hu
    refine completes_service (fun _ => .svcStop (.port p)) _ rfl hs hb hu fun u hbegun => ?_
    rw [svcStopPage_own]
    exact begunEnded_of hbegun
  case allRefused =>
    intro s p x pg hs hb hu h
    refine completes_service (fun m => .svcStopChangeStart pg x (m.hdr pg).gen) _ rfl hs hb hu fun u hbegun => ?_
    rw [svcAll_refused p h]
    exact begunEnded_of hbegun
  case retrainFch =>
    intro s p c hs hb hu hst
    refine completes_service (fun _ => .svcRetrain (.fch c)) _ rfl hs hb hu fun u hbegun => ?_
    rw [retrain_stopped _ (by rw [begun_pageSt hbegun, hst])]
    refine ⟨?_, fun j hj => ?_, (begun_bg hbegun :), hbegun.sent, ?_⟩
    · rw [Mach.chn_setChn_same, begun_chn hbegun]
    · rw [Mach.chn_setChn_ne _ _ _ _ hj, begun_chn hbegun]
    · exact same_trans (same_mono hbegun.same (by simp)) (by simp [Mach.SameBut])
  case retrainDrc =>
    intro s p d hs hb hu hst
    refine completes_service (fun _ => .svcRetrain (.drc d)) _ rfl hs hb hu fun u hbegun => ?_
    rw [retrain_stopped _ (by rw [begun_pageSt hbegun, hst])]
    refine ⟨?_, fun j hj => ?_, (begun_bg hbegun :), hbegun.sent, ?_⟩
    · rw [Mach.dram_setDram_same, begun_dram hbegun]
    · rw [Mach.dram_setDram_ne _ _ _ _ hj, begun_dram hbegun]
    · exact same_trans (same_mono hbegun.same (by simp)) (by simp [Mach.SameBut])
  case retrainPort =>
    intro s p hs hb hu hst
    refine completes_service (fun _ => .svcRetrain (.port p.other)) _ rfl hs hb hu fun u hbegun => ?_
    have hother : p.other ≠ p := by cases p <;> decide
    rw [if_neg (by simpa using hother.symm), retrain_stopped _ (by rw [begun_pageSt hbegun, hst])]
    refine ⟨?_, (begun_bg hbegun :), hbegun.sent, ?_⟩
    · refine (port_get (a := u.port) rfl).trans ?_
      rw [hbegun.other _ hother]
    · exact same_trans hbegun.same (by simp [Mach.SameBut])
  case retrainFchRefused =>
    intro s p c hs hb hu hst
    refine completes_service (fun _ => .svcRetrain (.fch c)) _ rfl hs hb hu fun u hbegun => ?_
    rw [retrain_refused _ (by rwa [begun_pageSt hbegun])]
    exact begunEnded_of hbegun
  case retrainDrcRefused =>
    intro s p d hs hb hu hst
    refine completes_service (fun _ => .svcRetrain (.drc d)) _ rfl hs hb hu fun u hbegun => ?_
    rw [retrain_refused _ (by rwa [begun_pageSt hbegun])]
    exact begunEnded_of hbegun
  case retrainOwn =>
    intro s p hs hb hu
    refine completes_service (fun _ => .svcRetrain (.port p)) _ rfl hs hb hu fun u hbegun => ?_
    rw [if_pos (by simp)]
    exact begunEnded_of hbegun
  case trained =>
    intro s p c hb htrip
    refine completes_eq _ rfl (retrainEnd_fch hb true) ?_
    rw [fchRetrained_passes c htrip]
    have hsame := fchTrained_same s.m c
    have hend := endBg_ended (s.m.fchTrained c) p (.svcRetrain (.fch c)) St.success (by rw [same_adm hsame (by simp), hb])
    have hchn : ∀ j, ((s.m.fchTrained c).endBg St.success).chn j = (s.m.fchTrained c).chn j := fun j => by
      rw [Mach.chn, same_fl hend.same (by simp), Mach.chn]
    refine ⟨?_, fun hr => ?_, fun hr => ⟨?_, fun w hw => ?_⟩, fun j hj => ?_, ?_, ?_, ?_, ?_, ?_⟩
    · rw [hchn, fchTrained_chn]
    · rw [hchn, fchTrained_chn, deskewed_slow hr]
    · rw [hchn, fchTrained_chn, deskewed_fast hr]
      exact (congrArg Chn.deskew (Mach.chn_setChn_same s.m c _)).trans (newWindows_pass s.m)
    · rw [hchn, fchTrained_chn, deskewed_fast hr] at hw
      rw [Mach.draw_chn, Mach.chn_setChn_same] at hw
      exact windows_ok s.m w hw
    · rw [hchn, fchTrained_others s.m hj]
    · rw [hend.adm]
    · rw [hend.self]
    · rw [hend.self]
    · exact rs_trans (fchTrained_regs s.m c) (rs_of_reg (same_reg hend.same (by simp)))
    · exact same_trans (same_mono hsame (by simp)) (same_mono hend.same (by simp))
  case untrained =>
    intro s p c hb htrip hr
    refine completes_eq _ rfl (retrainEnd_fch hb false) ?_
    rw [fchRetrained_fails htrip hr]
    have hrec := recorded_raise (s.m.setChn c { s.m.chn c with deskew := false }) (.fch c) 20 0
    have hend := endBg_ended _ p (.svcRetrain (.fch c)) St.invalidField ((Mach.recorded_bg hrec).trans hb)
    refine ⟨?_, ?_, ?_, fun q => ?_⟩
    · rw [Mach.chn, same_fl hend.same (by simp), same_fl hrec.same (by simp)]
      exact Mach.chn_setChn_same ..
    · rw [hend.adm]
    · rw [hend.self]
    · rw [same_pageSt hend.same (by simp), recorded_pageSt hrec, Mach.errBit_pageSt]
      rfl
  case portDone =>
    intro s p q ok hb
    exact completes_eq _ rfl (retrainEnd_port hb ok) (endBg_ended _ _ _ _ hb)
  case noneDone =>
    intro s hb ok
    exact completes_eq _ rfl (retrainEnd_none hb ok) rfl
  case retire =>
    intro s p c hs hb hu hst
    refine completes_service (fun _ => .svcRetire c) _ rfl hs hb hu fun u hbegun => ?_
    rw [if_neg (by simp [begun_pageSt hbegun, hst])]
    refine ⟨?_, (begun_bg hbegun :), hbegun.sent, ?_⟩
    · unfold Mach.AsksDefinition
      rw [← same_hdl hbegun.same (by simp)]
      rfl
    · exact same_trans (same_mono hbegun.same (by simp)) (by simp [Mach.SameBut, Mach.askDefinition, Mach.askFor, Mach.ask])
  case retireRefused =>
    intro s p c hs hb hu hst
    refine completes_service (fun _ => .svcRetire c) _ rfl hs hb hu fun u hbegun => ?_
    rw [if_pos (by simpa [begun_pageSt hbegun] using hst)]
    exact begunEnded_of hbegun
  case rebuilt =>
    intro s ha hl
    refine completes_eq _ rfl (rebuildOver_none ha hl) ?_
    have htouch := touch_same .ecc (s.m.updFl fun f => { f with rbActive := false })
    have hsettle := settleDev_same ((s.m.updFl fun f => { f with rbActive := false }).touch .ecc)
    refine ⟨?_, ?_, ?_⟩
    · exact (same_fl hsettle (by simp)).trans (same_fl htouch (by simp))
    · exact rs_trans (rs_touch (s.m.updFl fun f => { f with rbActive := false }) .ecc) (rs_of_reg (settleDev_reg _))
    · exact same_trans (b := (s.m.updFl fun f => { f with rbActive := false }).touch .ecc)
        (same_trans (b := s.m.updFl fun f => { f with rbActive := false }) (by simp [Mach.SameBut]) (same_mono htouch (by simp)))
        (same_mono hsettle (by simp))
  case rebuilding =>
    intro s h
    exact completes_eq _ rfl (rebuildOver_left h) rfl
  case recalibrated =>
    intro s p o hs hb hu hst hlo hhi
    refine completes_service (fun _ => .svcRetrain .thm) _ rfl hs hb hu fun u hbegun => ?_
    have hcal := calibrate_within u 0 hlo hhi
    have hsame := unreferenced_same (u.calibrate 0 o)
    have hcsame : u.SameBut [.thm] (u.calibrate 0 o) := by
      rw [hcal]
      simp [Mach.SameBut]
    rw [recalibrate_single o (by rw [begun_pageSt hbegun, hst])]
    have hend := endBg_ended (u.calibrate 0 o).unreferenced p (.svcRetrain .thm) St.success
      (by rw [same_adm hsame (by simp), same_adm hcsame (by simp), begun_bg hbegun])
    have hsens : ∀ j, ((u.calibrate 0 o).unreferenced.endBg St.success).sens j = { (u.calibrate 0 o).sens j with ref := none } := fun j => by
      rw [Mach.sens, same_thm hend.same (by simp)]
      exact unreferenced_sens _ j
    refine ⟨?_, fun j hj => ?_, ?_, ?_, ?_, ?_, ?_⟩
    · rw [hsens, calibrate_within_sens u 0 hlo hhi, Mach.sens_setSens_same, begun_sens hbegun]
    · rw [hsens, calibrate_within_sens u 0 hlo hhi, Mach.sens_setSens_ne _ _ _ _ hj, begun_sens hbegun]
    · rw [same_thm hend.same (by simp), unreferenced_calFail, hcal, ← same_thm hbegun.same (by simp)]
      rfl
    · rw [hend.adm]
    · rw [hend.self]
    · exact rs_trans (rs_of_reg ((same_reg hcsame (by simp)).trans (same_reg hbegun.same (by simp))))
        (rs_trans (unreferenced_regs _) (rs_of_reg (same_reg hend.same (by simp))))
    · exact same_trans (same_trans (same_mono hbegun.same (by simp)) (same_mono hcsame (by simp)))
        (same_trans (same_mono hsame (by simp)) (same_mono hend.same (by simp)))
  case recalFails =>
    intro s p o hs hb hu hst ho
    refine completes_service (fun _ => .svcRetrain .thm) _ rfl hs hb hu fun u hbegun => ?_
    have hcal := calibrate_outside u 0 ho
    have hrec := recorded_raise (u.updThm fun t => { t with calFail := t.calFail ||| bit32 0 }) .thm 16 (BitVec.ofNat 64 0)
    rw [← hcal] at hrec
    have hsame := unreferenced_same (u.calibrate 0 o)
    rw [recalibrate_single o (by rw [begun_pageSt hbegun, hst])]
    have hend := endBg_ended (u.calibrate 0 o).unreferenced p (.svcRetrain .thm) St.success
      (by rw [same_adm hsame (by simp), Mach.recorded_bg hrec]; exact (begun_bg hbegun :))
    refine ⟨fun j => ?_, ?_, ?_, ?_, ?_⟩
    · rw [Mach.sens, same_thm hend.same (by simp)]
      refine (unreferenced_sens _ j).trans ?_
      rw [Mach.sens, same_thm hrec.same (by simp), ← begun_sens hbegun]
      rfl
    · rw [same_thm hend.same (by simp), unreferenced_calFail, same_thm hrec.same (by simp), ← same_thm hbegun.same (by simp)]
      rfl
    · rw [hdr_reg (same_reg hend.same (by simp))]
      have hseq := congrArg PageHdr.err ((unreferenced_regs (u.calibrate 0 o)).2.2.2 .thm)
      refine hseq.trans ((hrec.err .thm (by decide)).trans ?_)
      rw [← begun_hdr hbegun]
      exact congrArg PageHdr.err (Mach.hdr_setHdr_same ..)
    · rw [hend.adm]
    · rw [hend.self]
  case recalRefused =>
    intro s p o hs hb hu hst
    refine completes_service (fun _ => .svcRetrain .thm) _ rfl hs hb hu fun u hbegun => ?_
    rw [recalibrate_refused o (by rwa [begun_pageSt hbegun])]
    exact begunEnded_of hbegun

end Sys2Proof.Machine

/-! WRITE (O26): the data reads that go out as it begins, what the arrival of an LB does in the buffer and in a frame, the completion with
the last LB, and the stall of a full buffer (R78, R121, R123, R239, Table 07.5). -/

namespace Sys2Proof.Machine

/-! ### The reads of a port -/

/-- What a port has in flight depends on the commands only through their port, their data reads and their list reads. -/
theorem portReads_congr {a b : Mach} (hq : b.q = { a.q with cmd := b.q.cmd }) (hport : ∀ j, (b.cmd j).port = (a.cmd j).port)
    (hread : ∀ j, (b.cmd j).readsOut = (a.cmd j).readsOut) (hlist : ∀ j, (b.cmd j).sglPending = (a.cmd j).sglPending) (p : Port) :
    b.portReads p = a.portReads p := by
  have hqp : ∀ j, b.qp j = a.qp j := fun j => by
    unfold Mach.qp
    rw [hq]
  have hfetch : b.q.fetches = a.q.fetches := by rw [hq]
  have hused : b.q.used = a.q.used := by rw [hq]
  unfold Mach.portReads
  simp only [hfetch, hused, hqp, hport, hread, hlist]

/-- A command with no read left to send sends none. -/
theorem sendReads_none {m : Mach} {s : Nat} (p : Port) (h : (m.cmd s).unsent = []) : m.sendReads p s = m := by
  unfold Mach.sendReads
  rw [if_pos (by simp [h])]

/-- Where the port may send them all, a command's reads go out. -/
theorem sendReads_all {m : Mach} {s : Nat} {p : Port} (h : (m.cmd s).unsent.length + m.portReads p ≤ maxReads) :
    (m.sendReads p s).cmd s = { m.cmd s with unsent := [] } ∧ (∀ j, j ≠ s → (m.sendReads p s).cmd j = m.cmd j) ∧
    (m.sendReads p s).q = { m.q with cmd := (m.sendReads p s).q.cmd } ∧
    m.Sent ((m.cmd s).unsent.map fun x => .dataRead p s x.2.1 x.2.2) (m.sendReads p s) ∧ m.SameBut [.q, .out] (m.sendReads p s) := by
  by_cases hnil : (m.cmd s).unsent = []
  · rw [sendReads_none p hnil, Mach.Sent, hnil]
    exact ⟨by rw [← hnil], fun _ _ => rfl, rfl, (List.append_nil _).symm, same_refl ..⟩
  · have hpos := List.length_pos_iff.mpr hnil
    have hsend : m.sendReads p s = { m.setCmd s { m.cmd s with unsent := [] } with
        out := m.out ++ (m.cmd s).unsent.map fun x => .dataRead p s x.2.1 x.2.2 } := by
      have hroom : ¬((m.cmd s).unsent.isEmpty || decide (maxReads - m.portReads p = 0)) = true := by
        simp only [Bool.or_eq_true, List.isEmpty_iff, decide_eq_true_eq, hnil, false_or]
        omega
      unfold Mach.sendReads
      dsimp only
      rw [if_neg hroom, send_each,
        List.drop_of_length_le (by omega), List.take_of_length_le (by omega)]
      rfl
    rw [hsend]
    refine ⟨Mach.cmd_setCmd_same .., fun j hj => Mach.cmd_setCmd_ne _ _ _ _ hj, rfl, rfl, by simp [Mach.SameBut]⟩

theorem moreReads_none {m : Mach} (p : Port) (h : m.ReadsSent) : m.moreReads p = m :=
  each_id _ _ _ fun s _ => sendReads_none p (h s)

theorem lbArrived_none {m : Mach} {s : Nat} (off : Nat) (h : (m.cmd s).unsent = []) : m.lbArrived s off = m := by
  unfold Mach.lbArrived
  dsimp only
  split
  · rfl
  · rw [if_pos (by simp [h])]

/-- Where every data read has been sent, and stays sent, an arrival is the LB's acceptance alone. -/
theorem arrival_eq {m : Mach} {i : Nat} {d : Block} (h : m.ReadsSent) (h' : (m.dataIn i d).ReadsSent) : m.arrival i d = m.dataIn i d := by
  unfold Mach.arrival
  dsimp only
  rw [lbArrived_none _ (h i), ite_self]
  split
  · exact moreReads_none _ h'
  · rfl

theorem readsSent_completed {a b : Mach} {i st d2 d3 : Nat} {q : Fin 256} (h : a.ReadsSent) (hc : Mach.Completed i q st d2 d3 a b) :
    b.ReadsSent := by
  intro j
  by_cases hj : j = i
  · rw [hj, hc.slot]
  · rw [hc.others j hj, h j]

/-! ### The start -/

/-- The pieces of every LB of a command, with the LB of each. -/
def Cmd.allPieces (c : Cmd) : List (Nat × Nat × Nat) :=
  (List.range (entCount c.entry)).flatMap fun off => (c.pieces off).map fun x => (off, x.1, x.2)

/-- The machine of which a beginning WRITE sends its data reads. -/
def Mach.askingData (i : Nat) (m : Mach) : Mach :=
  let c : Cmd := { m.cmd i with stage := .running, todo := List.range (entCount (m.cmd i).entry) }
  (m.setCmd i c).setCmd i { c with unsent := (m.cmd i).allPieces }

/-- A command that is fresh is admitted and no further. -/
theorem fresh_stage {m : Mach} {i o : Nat} (h : m.fresh i o = true) : (m.cmd i).stage = .admitted := by
  unfold Mach.fresh at h
  simp only [Bool.and_eq_true, beq_iff_eq] at h
  exact h.1.2

theorem askData_eq {m : Mach} {i : Nat} {p : Port} (hp : (m.cmd i).port = some p) :
    m.askData i = (m.setCmd i { m.cmd i with unsent := (m.cmd i).allPieces }).sendReads p i := by
  unfold Mach.askData
  dsimp only
  split
  · next hnone => cases hp.symm.trans hnone
  · next q hq =>
    cases hp.symm.trans hq
    rfl

/-- An unmirrored WRITE that needs no list, with room on flash, begins by asking for its data. -/
theorem writeRow_asks {m : Mach} {i : Nat} {p : Port} (hf : m.fresh i opWrite = true) (hl : m.gln.level ≠ .exhausted)
    (hm : (m.volu (entVol (m.cmd i).entry)).mirrored = false) (hn : (m.cmd i).needsList = false) (hp : (m.cmd i).port = some p) :
    m.writeRow i = (m.askingData i).sendReads p i := by
  have hheld : m.heldForPartner (entVol (m.cmd i).entry) = false := by simp [Mach.heldForPartner, hm]
  unfold Mach.writeRow Mach.writeStart
  rw [if_pos hf]
  dsimp only
  rw [if_neg (by simpa using hl), if_neg (by simp [hheld]), if_neg (by simp [hn]), twinOpen_unmirrored hm]
  rw [askData_eq (by rw [Mach.cmd_setCmd_same]; exact hp), Mach.cmd_setCmd_same]
  rfl

theorem askingData_cmd (m : Mach) (i : Nat) : (m.askingData i).cmd i = { m.cmd i with
    stage := .running, todo := List.range (entCount (m.cmd i).entry), unsent := (m.cmd i).allPieces } := Mach.cmd_setCmd_same ..

theorem askingData_others (m : Mach) {i j : Nat} (h : j ≠ i) : (m.askingData i).cmd j = m.cmd j :=
  (Mach.cmd_setCmd_ne _ _ _ _ h).trans (Mach.cmd_setCmd_ne _ _ _ _ h)

/-- Reads that have not been sent are not in flight, so that the port's count is that before the command began. -/
theorem askingData_portReads {m : Mach} {i : Nat} (hf : m.fresh i opWrite = true) (p : Port) :
    (m.askingData i).portReads p = m.portReads p := by
  have hself := askingData_cmd m i
  refine portReads_congr (a := m) (b := m.askingData i) rfl (fun j => ?_) (fun j => ?_) (fun j => ?_) p <;> by_cases hj : j = i
  · rw [hj, hself]
  · rw [askingData_others m hj]
  · rw [hj, hself]
    have hbefore : (m.cmd i).readsOut = 0 := by simp [Cmd.readsOut, fresh_stage hf]
    have hall : (m.cmd i).allPieces.length = ((List.range (entCount (m.cmd i).entry)).map fun off => ((m.cmd i).pieces off).length).sum := by
      simp [Cmd.allPieces, List.length_flatMap]
    rw [hbefore]
    unfold Cmd.readsOut
    dsimp only
    rw [hall]
    split
    · exact Nat.sub_self _
    · rfl
  · rw [askingData_others m hj]
  · rw [hj, hself]
  · rw [askingData_others m hj]

/-! ### The end -/

/-- The command of slot i has gone on: its stage, its versions and the LBs that it has to do may have changed, and of the queues, the twin
pair and what has left the part nothing else. -/
structure Mach.Advances (i : Nat) (a b : Mach) : Prop where
  self : ∃ st vs td, b.cmd i = { a.cmd i with stage := st, vers := vs, todo := td }
  others : ∀ j, j ≠ i → b.cmd j = a.cmd j
  queues : b.q = { a.q with cmd := b.q.cmd }
  twn : b.twn = a.twn
  out : b.out = a.out

theorem awaitPartner_unmirrored {m : Mach} {i : Nat} (hx : (m.cmd i).xid = none) :
    m.awaitPartner i = (m.setCmd i { m.cmd i with covering := true }).settleCovers := by
  unfold Mach.awaitPartner
  dsimp only
  split
  · next x hsome => cases hx.symm.trans hsome
  · rw [List.append_nil]

/-- The last LB of a WRITE without FUA is in place: nothing holds the command, and it completes. -/
theorem writeEnd_alone {m : Mach} {i : Nat} {q : Fin 256} (ho : entOpc (m.cmd i).entry = opWrite) (hfua : entFua (m.cmd i).entry = false)
    (ht : (m.cmd i).todo = []) (hf : (m.cmd i).fails = []) (hc : (m.cmd i).cover = []) (hx : (m.cmd i).xid = none)
    (hp : (m.cmd i).partnerStatus = St.success) (hk : (m.cmd i).kind = .host) (hq : (m.cmd i).qid = some q) (hl : m.Loose i)
    (ha : m.Alone i) :
    Mach.Completed i q St.success 0 0 m (m.writeEnd i) ∧ (m.writeEnd i).lamp = m.lamp ∧
      (m.writeEnd i).buf = (m.markCovered (m.cmd i).vers).buf := by
  have hself := Mach.cmd_setCmd_same m i { m.cmd i with covering := true }
  have hothers : ∀ j, j ≠ i → (m.setCmd i { m.cmd i with covering := true }).cmd j = m.cmd j := fun j => Mach.cmd_setCmd_ne _ _ _ _
  have hend : m.writeEnd i = (m.setCmd i { m.cmd i with covering := true }).complete i St.success 0 0 := by
    unfold Mach.writeEnd
    rw [if_neg (by simp [ht]), if_neg (by simp [hfua])]
    rw [awaitPartner_unmirrored hx]
    have hstatus : ({ m.cmd i with covering := true } : Cmd).finalStatus = St.success := by
      unfold Cmd.finalStatus
      dsimp only
      rw [hf]
      exact hp
    refine (settle_one (m.setCmd i { m.cmd i with covering := true }) i ha.answers ha.nodup ha.used (by rw [hself]) (by rw [hself]; exact hc)
      (by rw [hself]; exact ht) fun j hj => ?_).trans ?_
    · rw [hothers j hj, ha.others j hj]
    · rw [hself, hstatus]
      dsimp only
      rw [ho]
      rfl
  have hloose : (m.setCmd i { m.cmd i with covering := true }).Loose i := loose_on hothers (by rw [hself]) rfl hl
  obtain ⟨hdone, hsame, -⟩ := complete_done (m.setCmd i { m.cmd i with covering := true }) i St.success 0 0 q (by rw [hself]; exact hk)
    (by rw [hself]; exact hq) hloose
  rw [hend]
  refine ⟨completed_on hothers (by rw [hself]) (by rw [hself]) (fun _ => rfl) rfl rfl hdone, (same_lamp hsame (by simp) :), ?_⟩
  rw [complete_buf _ _ _ _ _ hloose ⟨q, by rw [hself]; exact hq⟩, hself, if_pos (by simp [ho])]
  rfl

/-- A WRITE that has gone on to its end completes, as seen from the state in which its last LB arrived. -/
theorem advances_completed {a b : Mach} {i : Nat} {q : Fin 256} (h : a.Advances i b) (ho : entOpc (a.cmd i).entry = opWrite)
    (hfua : entFua (a.cmd i).entry = false) (hp : a.Plain i q) (ha : a.Alone i) (ht : (b.cmd i).todo = []) :
    Mach.Completed i q St.success 0 0 a (b.writeEnd i) ∧ (b.writeEnd i).lamp = b.lamp ∧
      (b.writeEnd i).buf = (b.markCovered (b.cmd i).vers).buf := by
  obtain ⟨⟨st, vs, td, hself⟩, hothers, hq, htwn, hout⟩ := h
  have hused : b.q.used = a.q.used := by rw [hq]
  have hloose : b.Loose i := loose_on hothers (by rw [hself]) htwn hp.loose
  have halone : b.Alone i :=
    ⟨by rw [hused]; exact ha.used, by rw [hused]; exact ha.nodup, fun j hj => by rw [hothers j hj, ha.others j hj],
      by rw [htwn]; exact ha.answers⟩
  obtain ⟨hdone, hlamp, hbuf⟩ := writeEnd_alone (q := q) (by rw [hself]; exact ho) (by rw [hself]; exact hfua) ht
    (by rw [hself]; exact hp.fails) (by rw [hself]; exact hp.cover) (by rw [hself]; exact hp.xid) (by rw [hself]; exact hp.partner)
    (by rw [hself]; exact hp.kind) (by rw [hself]; exact hp.qid) hloose halone
  refine ⟨completed_on hothers (by rw [hself]) (by rw [hself]) (fun j => ?_) hused hout hdone, hlamp, hbuf⟩
  unfold Mach.qp
  rw [hq]

/-- A command that works under an opcode has it. -/
theorem working_opc {m : Mach} {i o : Nat} (h : m.working i o = true) : entOpc (m.cmd i).entry = o := by
  unfold Mach.working at h
  simp only [Bool.and_eq_true, beq_iff_eq] at h
  exact h.1.2

/-- The versions that an end covers. -/
theorem mem_markCovered {m : Mach} {ids : List Nat} {v : Ver} (hv : v ∈ m.buf.vers) (hid : v.id ∈ ids) :
    { v with cov := true } ∈ (m.markCovered ids).buf.vers :=
  List.mem_map.mpr ⟨v, hv, if_pos (by simpa using hid)⟩

theorem markCovered_wsn (m : Mach) (ids : List Nat) : (m.markCovered ids).buf.wsn = m.buf.wsn := rfl

/-! ### The arrival of an LB -/

/-- An LB of an unmirrored page outside the lamp window opens a version under the next WSN, and the command goes on (R121). -/
theorem dataIn_opens {m : Mach} {i off : Nat} {r : List Nat} (d : Block) (hw : m.working i opWrite = true)
    (hs : (m.cmd i).stalled = false) (ht : (m.cmd i).todo = off :: r) (hx : (m.cmd i).xid = none)
    (hlamp : m.lampOf (entVol (m.cmd i).entry) (entSlba (m.cmd i).entry + off) = none)
    (hm : (m.volu (entVol (m.cmd i).entry)).mirrored = false)
    (ho : m.openVer (entVol (m.cmd i).entry) ((entSlba (m.cmd i).entry + off) / 4) = none) (hroom : m.bufRoom = true)
    (hp : m.paced = false) :
    ∃ u, m.dataIn i d = u.writeEnd i ∧
      u.buf.vers = m.buf.vers ++ [newVer m (entVol (m.cmd i).entry) (entSlba (m.cmd i).entry + off) d
        (m.posFor (entVol (m.cmd i).entry) (Fin.ofNat 8 (entStream (m.cmd i).entry))) false false] ∧
      u.buf.wsn = m.buf.wsn + 1 ∧
      u.cmd i = { m.cmd i with vers := insertNat m.buf.nextId (m.cmd i).vers, stage := .committed, todo := r } ∧
      m.Advances i u ∧ m.SameBut [.buf, .reg, .alm, .q] u := by
  obtain ⟨a, u, hsame, hvers, hwsn, -, rfl, e⟩ := dataIn_open m i off r d _ _ rfl rfl hw hs ht hx hlamp hm ho hroom hp
  have hself : ∀ x y : Cmd, ((a.setCmd i x).setCmd i y).cmd i = y := fun x y => Mach.cmd_setCmd_same ..
  have hq : a.q = m.q := same_q hsame (by simp)
  have hothers : ∀ (x y : Cmd) (j : Nat), j ≠ i → ((a.setCmd i x).setCmd i y).cmd j = m.cmd j := fun x y j hj => by
    rw [Mach.cmd_setCmd_ne _ _ _ _ hj, Mach.cmd_setCmd_ne _ _ _ _ hj, cmd_of_q hq]
  refine ⟨_, e, hvers, hwsn, hself _ _, ⟨⟨_, _, _, hself _ _⟩, hothers _ _, ?_, ?_, ?_⟩, ?_⟩
  · rw [← hq]
    rfl
  · exact (same_twn hsame (by simp) :)
  · exact (same_out hsame (by simp) :)
  · exact same_trans (same_mono hsame (by simp)) (by simp [Mach.SameBut])

/-- The machine in which an LB has gone to its frame, and its command past its commit point and to the next LB. -/
def Mach.litWrite (i : Nat) (v : Vid) (lba k p f : Nat) (d : Block) (m : Mach) : Mach :=
  let u := (Mach.lookLamp v lba m).fillFrame k p f d true
  (u.setCmd i { u.cmd i with stage := .committed }).nextLb i

/-- An LB that bypasses the buffer goes to the frame of its lit page (Table 07.5). -/
theorem dataIn_lit {m : Mach} {i off k p f : Nat} {r : List Nat} (d : Block) (hw : m.working i opWrite = true)
    (hs : (m.cmd i).stalled = false) (ht : (m.cmd i).todo = off :: r) (hb : m.bypasses (m.cmd i) = true)
    (hl : m.litAt (entVol (m.cmd i).entry) (entSlba (m.cmd i).entry + off) = some (k, p, f)) (hp : p < 512) :
    ∃ u, m.dataIn i d = u.writeEnd i ∧
      (∀ l, l < 64 → SMap.get 0 u.lamp.line (lineKey f p l) = (d >>> (512 * l)).setWidth 512) ∧
      (u.desc k).dirty.getLsbD p = true ∧ (u.cmd i).todo = r ∧ u.buf = m.buf ∧ m.Advances i u := by
  obtain ⟨hlook, hsame⟩ := look_facts m (entVol (m.cmd i).entry) (entSlba (m.cmd i).entry + off)
  have hin : m.dataIn i d =
      (m.litWrite i (entVol (m.cmd i).entry) (entSlba (m.cmd i).entry + off) k p f d).writeEnd i := by
    unfold Mach.dataIn
    dsimp only
    rw [ht]
    dsimp only
    have hb' : (Mach.lookLamp (entVol (m.cmd i).entry) (entSlba (m.cmd i).entry + off) m).bypasses (m.cmd i) = true := by
      unfold Mach.bypasses at hb ⊢
      rwa [volu_of (same_vol hsame (by simp))]
    rw [if_neg (by simp [hw, hs]), if_pos hb', litAt_of (a := m) (by rw [hlook]) (by rw [hlook]), hl]
    rfl
  unfold Mach.litWrite at hin
  generalize Mach.lookLamp (entVol (m.cmd i).entry) (entSlba (m.cmd i).entry + off) m = v at hin hsame
  obtain ⟨hlines, hdirty, hfill⟩ := fillFrame_facts v k p f d hp
  generalize v.fillFrame k p f d true = w at hin hlines hdirty hfill
  have hq : w.q = m.q := (same_q hfill (by simp)).trans (same_q hsame (by simp))
  have hself : ((w.setCmd i { w.cmd i with stage := .committed }).nextLb i).cmd i = { m.cmd i with stage := .committed, todo := r } := by
    unfold Mach.nextLb
    rw [Mach.cmd_setCmd_same, Mach.cmd_setCmd_same, cmd_of_q hq, ht]
    rfl
  refine ⟨_, hin, hlines, hdirty, by rw [hself], ?_, ⟨_, _, _, hself⟩, fun j hj => ?_, ?_, ?_, ?_⟩
  · exact ((same_buf hfill (by simp)).trans (same_buf hsame (by simp)) :)
  · unfold Mach.nextLb
    rw [Mach.cmd_setCmd_ne _ _ _ _ hj, Mach.cmd_setCmd_ne _ _ _ _ hj, cmd_of_q hq]
  · rw [← hq]
    rfl
  · exact ((same_twn hfill (by simp)).trans (same_twn hsame (by simp)) :)
  · exact ((same_out hfill (by simp)).trans (same_out hsame (by simp)) :)

theorem makeRoom_room {m : Mach} {v : Vid} {lba : Nat} (h : m.lbRoom v lba = true) : m.makeRoom v lba = m := if_pos h

/-- With no held version, nothing is discarded for an LB. -/
theorem makeRoom_full {m : Mach} (v : Vid) (lba : Nat) (h : ∀ x ∈ m.buf.vers, x.st ≠ .held) : m.makeRoom v lba = m := by
  have hnone : m.buf.vers.find? (fun x => x.st == .held) = none := List.find?_eq_none.mpr fun x hx => by simpa using h x hx
  unfold Mach.makeRoom Mach.discardHeld
  rw [hnone]
  exact ite_self _

/-- A full buffer stalls the transfer (R121). -/
theorem dataIn_stalls {m : Mach} {i off : Nat} {r : List Nat} (d : Block) (hw : m.working i opWrite = true)
    (hs : (m.cmd i).stalled = false) (ht : (m.cmd i).todo = off :: r)
    (hlamp : m.lampOf (entVol (m.cmd i).entry) (entSlba (m.cmd i).entry + off) = none)
    (hroom : m.lbRoom (entVol (m.cmd i).entry) (entSlba (m.cmd i).entry + off) = false) (hheld : ∀ x ∈ m.buf.vers, x.st ≠ .held) :
    m.dataIn i d = m.stall i := by
  unfold Mach.dataIn
  dsimp only
  rw [ht]
  dsimp only
  rw [if_neg (by simp [hw, hs]), look_none _ _ _ hlamp, lit_none _ _ _ hlamp, ite_self]
  dsimp only
  rw [makeRoom_full _ _ hheld, if_neg (by simp [Mach.mayAccept, hroom])]

/-- A stalled transfer goes on once its next LB may be accepted. -/
theorem transferResume_goes {m : Mach} {i off : Nat} {r : List Nat} (hu : m.slotUsed i = true) (hs : (m.cmd i).stalled = true)
    (ht : (m.cmd i).todo = off :: r)
    (ha : m.mayAccept (entOpc (m.cmd i).entry) (entVol (m.cmd i).entry) (entSlba (m.cmd i).entry + off) = true) :
    m.transferResume i = m.setCmd i { m.cmd i with stalled := false } := by
  have hroom : m.lbRoom (entVol (m.cmd i).entry) (entSlba (m.cmd i).entry + off) = true := by
    unfold Mach.mayAccept at ha
    rw [Bool.and_eq_true] at ha
    exact ha.1
  unfold Mach.transferResume
  dsimp only
  rw [ht]
  dsimp only
  rw [if_pos (by simp [hu, hs]), makeRoom_room hroom, if_pos ha]

theorem dataFailed_ends {m : Mach} {i off : Nat} {r : List Nat} (hw : m.working i opWrite = true) (ht : (m.cmd i).todo = off :: r) :
    m.dataFailed i = m.complete i St.writeFault off 1 := by
  unfold Mach.dataFailed
  rw [ht]
  exact if_pos hw

/-- At EXHAUSTED a WRITE is refused (R263). -/
theorem writeRow_exhausted {m : Mach} {i : Nat} (hf : m.fresh i opWrite = true) (hl : m.gln.level = .exhausted) :
    m.writeRow i = m.complete i St.noSpace 0 0 := by
  unfold Mach.writeRow Mach.writeStart
  rw [if_pos hf]
  dsimp only
  rw [if_pos (by simp [hl])]
  rfl

/-- What a change of one command leaves. -/
theorem setCmd_facts (m : Mach) (i : Nat) (c : Cmd) : (m.setCmd i c).cmd i = c ∧ (∀ j, j ≠ i → (m.setCmd i c).cmd j = m.cmd j) ∧
    (m.setCmd i c).q = { m.q with cmd := (m.setCmd i c).q.cmd } ∧ m.SameBut [.q] (m.setCmd i c) :=
  ⟨Mach.cmd_setCmd_same .., fun _ hj => Mach.cmd_setCmd_ne _ _ _ _ hj, rfl, by simp [Mach.SameBut]⟩

/-- Settles O26: the start by its data reads, each arrival by where its LB goes, and the ends. -/
theorem hostWrites : Obligations.HostWrites := by
  unfold Obligations.HostWrites
  refine ⟨?start, ?exhausted, ?next, ?last, ?lit, ?full, ?resume, ?failed⟩
  case start =>
    intro s i p hf hl hm hn hp hroom
    have hlen : (s.m.cmd i).allPieces.length = ((List.range (entCount (s.m.cmd i).entry)).flatMap (s.m.cmd i).pieces).length := by
      simp [Cmd.allPieces, List.length_flatMap]
    obtain ⟨hself, hothers, hq, hsent, hsame⟩ := sendReads_all (m := s.m.askingData i) (s := i) (p := p)
      (by rw [askingData_cmd, askingData_portReads hf]; dsimp only; rw [hlen]; exact hroom)
    refine completes_eq _ rfl (writeRow_asks hf hl hm hn hp) ⟨?_, fun j hj => ?_, hq, ?_, ?_⟩
    · rw [hself, askingData_cmd]
    · rw [hothers j hj, askingData_others s.m hj]
    · refine hsent.trans (congrArg (s.m.out ++ ·) ?_)
      rw [askingData_cmd]
      simp [Cmd.allPieces, List.map_flatMap, Function.comp_def]
    · exact same_trans (b := s.m.askingData i) (by simp [Mach.SameBut, Mach.askingData]) hsame
  case exhausted =>
    intro s i q hf hl hp
    exact completes_eq _ rfl (writeRow_exhausted hf hl) (complete_done s.m i _ 0 0 q hp.kind hp.qid hp.loose).1
  case next =>
    intro s i off r d hw hsent hs ht hr hx hlamp hm ho hroom hp
    obtain ⟨u, hin, hvers, hwsn, hself, hadv, hsame⟩ := dataIn_opens d hw hs ht hx hlamp hm ho hroom hp
    have hend : u.writeEnd i = u := if_pos (by simpa [hself] using hr)
    have hsent' : (s.m.dataIn i d).ReadsSent := fun j => by
      rw [hin, hend]
      by_cases hj : j = i
      · rw [hj, hself]
        exact hsent i
      · rw [hadv.others j hj, hsent j]
    exact completes_eq _ rfl ((arrival_eq hsent hsent').trans (hin.trans hend))
      ⟨⟨_, hvers, rfl, rfl, rfl, rfl, SMap.get_set_same ..⟩, hwsn, hself, hadv.others, hsame⟩
  case last =>
    intro s i q off d hw hsent hplain halone hs ht hfua hlamp hm ho hroom hp
    obtain ⟨u, hin, hvers, -, hself, hadv, -⟩ := dataIn_opens d hw hs ht hplain.xid hlamp hm ho hroom hp
    obtain ⟨hdone, -, hbuf⟩ := advances_completed hadv (working_opc hw) hfua hplain halone (by rw [hself])
    have hmem := mem_markCovered (m := u) (ids := (u.cmd i).vers)
      (v := newVer s.m (entVol (s.m.cmd i).entry) (entSlba (s.m.cmd i).entry + off) d
        (s.m.posFor (entVol (s.m.cmd i).entry) (Fin.ofNat 8 (entStream (s.m.cmd i).entry))) false false)
      (by simp [hvers]) (by simp [hself, hplain.vers, insertNat, newVer])
    rw [← hin] at hdone hbuf
    rw [← hbuf] at hmem
    exact completes_eq _ rfl (arrival_eq hsent (readsSent_completed hsent hdone))
      ⟨⟨_, hmem, rfl, rfl, rfl, rfl, SMap.get_set_same ..⟩, hdone⟩
  case lit =>
    intro s i q off k p f d hw hsent hplain halone hs ht hb hl hp
    obtain ⟨u, hin, hlines, hdirty, htodo, hubuf, hadv⟩ := dataIn_lit d hw hs ht hb hl hp
    have hfua : entFua (s.m.cmd i).entry = false := by
      unfold Mach.bypasses at hb
      simp only [Bool.and_eq_true, Bool.not_eq_true'] at hb
      exact hb.1.2
    obtain ⟨hdone, hlamp, hbuf⟩ := advances_completed hadv (working_opc hw) hfua hplain halone htodo
    rw [← hin] at hdone hlamp hbuf
    refine completes_eq _ rfl (arrival_eq hsent (readsSent_completed hsent hdone)) ⟨fun l hl => ?_, ?_, ?_, hdone⟩
    · rw [hlamp]
      exact hlines l hl
    · rw [Mach.desc, hlamp]
      exact hdirty
    · rw [hbuf, markCovered_wsn, hubuf]
  case full =>
    intro s i off r d hw hsent hs ht hlamp hroom hheld
    have hin := dataIn_stalls d hw hs ht hlamp hroom hheld
    have hfacts := setCmd_facts s.m i { s.m.cmd i with stalled := true }
    have hsent' : (s.m.dataIn i d).ReadsSent := fun j => by
      rw [hin]
      by_cases hj : j = i
      · rw [hj]
        exact (congrArg Cmd.unsent hfacts.1).trans (hsent i)
      · exact (congrArg Cmd.unsent (hfacts.2.1 j hj)).trans (hsent j)
    exact completes_eq _ rfl ((arrival_eq hsent hsent').trans hin) hfacts
  case resume =>
    intro s i off r hu hs ht ha
    exact completes_eq _ rfl (transferResume_goes hu hs ht ha) (setCmd_facts ..)
  case failed =>
    intro s i q off r hw hplain ht
    exact completes_eq _ rfl (dataFailed_ends hw ht) (complete_done s.m i _ off 1 q hplain.kind hplain.qid hplain.loose).1

end Sys2Proof.Machine

/-! Doorbells (O22): a doorbell that R105 takes is one stored pointer, a dropped one is counted, named and marks its pair, and through an
OFF page a port's write is a dropped write (R9, R105, R129). -/

namespace Sys2Proof.Machine

/-! ### A pointer is stored -/

theorem agent_port (h : Port) : h.agent.port = some h := by cases h <;> rfl

theorem owns_port {h g : Port} {P : Prop} (hown : h.agent.port = some g ∧ P) : g = h ∧ P :=
  ⟨Option.some.inj (hown.1.symm.trans (agent_port h)), hown.2⟩

/-- One update of a value of a page and no register moves PG_SEQ alone (R43). -/
theorem stepped_touch (m : Mach) (p : Page) : m.Stepped p (m.touch p) := by
  unfold Mach.touch
  split
  · exact ⟨by simp [*], fun q hq => Mach.hdr_setHdr_ne _ _ _ _ hq⟩
  · exact ⟨by simp [*], fun _ _ => rfl⟩

/-- The machine in which pair q stands as x and the doorbell register k reads the pointer v. -/
def Mach.pointerStored (q : Fin 256) (x : Qp) (k v : Nat) (m : Mach) : Mach := ((m.setQp q x).wr k (BitVec.ofNat 32 v)).touch .qct

theorem pointerStored_frame (m : Mach) (q : Fin 256) (x : Qp) (k : Nat) {v : Nat} (hv : v < 2 ^ 32) :
    (m.pointerStored q x k v).qp q = x ∧ (∀ j, j ≠ q → (m.pointerStored q x k v).qp j = m.qp j) ∧
    (∀ i, (m.pointerStored q x k v).cmd i = m.cmd i) ∧ (m.pointerStored q x k v).rdN k = v ∧ m.RegsBut [k] (m.pointerStored q x k v) ∧
    m.Stepped .qct (m.pointerStored q x k v) ∧ m.SameBut [.reg, .q] (m.pointerStored q x k v) := by
  unfold Mach.pointerStored
  refine ⟨by simp, fun j hj => by simp [Mach.qp_setQp_ne _ _ _ _ hj], fun i => by simp, ?_, fun j hj => ?_, stepped_touch _ _,
    by simp [Mach.SameBut]⟩
  · rw [Mach.rdN_touch, Mach.rdN, Mach.rd_wr_same, BitVec.toNat_ofNat, Nat.mod_eq_of_lt hv]
  · rw [Mach.rd_touch, Mach.rd_wr_ne _ _ _ _ (by simpa using hj), Mach.setQp_rd]

/-! ### A doorbell is dropped -/

/-- A dropped doorbell counts and marks the pair (R105). -/
theorem badDoorbell_frame (m : Mach) (a : Agent) (q : Fin 256) (cq : Bool) :
    (m.badDoorbell a q cq).qp q = { m.qp q with dbErr := true } ∧ (∀ j, j ≠ q → (m.badDoorbell a q cq).qp j = m.qp j) ∧
    (∀ i, (m.badDoorbell a q cq).cmd i = m.cmd i) ∧
    (m.badDoorbell a q cq).rdN Reg.DBL_BADDB = min 0xFFFFFFFF (m.rdN Reg.DBL_BADDB + 1) ∧
    m.RegsSame [Reg.DBL_BADDB, Reg.DBL_LASTBAD] (m.badDoorbell a q cq) ∧ m.SameBut [.reg, .q] (m.badDoorbell a q cq) := by
  obtain ⟨hregs, hc64, hlow, hhdr⟩ := rs_bump m Reg.DBL_BADDB
  unfold Mach.badDoorbell
  dsimp only
  refine ⟨by simp, fun j hj => by simp [Mach.qp_setQp_ne _ _ _ _ hj], fun i => by simp, ?_, ⟨fun k hk => ?_, ?_, ?_, fun p => ?_⟩,
    by simp [Mach.SameBut]⟩
  · rw [Mach.rdN_touch, Mach.setQp_rdN, Mach.rdN, Mach.rd_wr_ne _ _ _ _ (by decide)]
    exact rdN_bump m _
  · simp only [List.mem_cons, List.not_mem_nil, or_false, not_or] at hk
    rw [Mach.rd_touch, Mach.setQp_rd, Mach.rd_wr_ne _ _ _ _ hk.2, hregs k (by simp [hk])]
  · rw [c64_touch]
    exact hc64
  · rw [low_touch]
    exact hlow
  · exact (Mach.hdr_touch ..).trans (hhdr p)

theorem lastBad_lt (h : Port) (q : Fin 256) (cq : Bool) : q.val + (if cq then 256 else 0) + 512 * h.num < 2 ^ 32 := by
  have hport : h.num ≤ 1 := by cases h <;> decide
  have hkind : (if cq then 256 else 0) ≤ 256 := by split <;> decide
  omega

/-- DBL_LASTBAD names a port's dropped doorbell by its queue, its kind and the port (Table 05.11). -/
theorem badDoorbell_lastBad (m : Mach) (h : Port) (q : Fin 256) (cq : Bool) :
    (m.badDoorbell h.agent q cq).rdN Reg.DBL_LASTBAD = q.val + (if cq then 256 else 0) + 512 * h.num := by
  have hrd : (m.badDoorbell h.agent q cq).rd Reg.DBL_LASTBAD = BitVec.ofNat 32 (q.val + (if cq then 256 else 0) + 512 * h.num) := by
    unfold Mach.badDoorbell
    dsimp only
    rw [Mach.rd_touch, Mach.setQp_rd, Mach.rd_wr_same]
    cases h <;> rfl
  rw [Mach.rdN, hrd, BitVec.toNat_ofNat, Nat.mod_eq_of_lt (lastBad_lt ..)]

/-! ### What each doorbell comes to -/

section
variable {m : Mach} {q : Fin 256} {v : Word} (hon : m.pageSt .dbl ≠ .off)
include hon

theorem tailDoorbell_taken {h : Port} (hp : (m.qp q).port = h) (hs : (m.qp q).st = .active) (hv : v.toNat % 8192 < (m.qp q).depth) :
    m.tailDoorbell h.agent q v = m.pointerStored q { m.qp q with tail := v.toNat % 8192 } (tailReg q) (v.toNat % 8192) := by
  unfold Mach.tailDoorbell
  dsimp only
  rw [if_neg (by simpa using hon), if_pos (by simp [agent_port, hp, hs, hv])]
  rfl

theorem tailDoorbell_dropped {a : Agent}
    (hbad : ¬ (a.port = some (m.qp q).port ∧ (m.qp q).st = .active ∧ v.toNat % 8192 < (m.qp q).depth)) :
    m.tailDoorbell a q v = m.badDoorbell a q false := by
  unfold Mach.tailDoorbell
  dsimp only
  rw [if_neg (by simpa using hon), if_neg (by simpa [and_assoc] using hbad)]

theorem headDoorbell_taken {h : Port} (hp : (m.qp q).port = h) (hs : (m.qp q).st = .active ∨ (m.qp q).st = .deleting)
    (hv : (m.qp q).headOk (v.toNat % 8192) = true) :
    m.headDoorbell h.agent q v = m.pointerStored q { m.qp q with cqHead := v.toNat % 8192 } (headReg q) (v.toNat % 8192) := by
  unfold Mach.headDoorbell
  dsimp only
  rw [if_neg (by simpa using hon), if_pos (by simpa [agent_port, hp, hv] using hs)]
  rfl

theorem headDoorbell_dropped {a : Agent} (hbad : ¬ (a.port = some (m.qp q).port ∧ ((m.qp q).st = .active ∨ (m.qp q).st = .deleting) ∧
      (m.qp q).headOk (v.toNat % 8192) = true)) : m.headDoorbell a q v = m.badDoorbell a q true := by
  unfold Mach.headDoorbell
  dsimp only
  rw [if_neg (by simpa using hon), if_neg (by simpa [and_assoc] using hbad)]

end

theorem doorbell_off {m : Mach} (hoff : m.pageSt .dbl = .off) (a : Agent) (q : Fin 256) (v : Word) :
    m.tailDoorbell a q v = m.wdrop a ∧ m.headDoorbell a q v = m.wdrop a := ⟨if_pos (by simp [hoff]), if_pos (by simp [hoff])⟩

theorem wdrop_port (m : Mach) (h : Port) : m.wdrop h.agent = m.bump (portReg h Reg.PORT_WDROP) := by cases h <;> rfl

/-! ### The obligation -/

/-- Settles O22: each row is one of three equations, a stored pointer, a dropped doorbell or a dropped write, each with its frame. -/
theorem doorbells : Obligations.Doorbells := by
  have hlt (v : Word) : v.toNat % 8192 < 2 ^ 32 := by omega
  unfold Obligations.Doorbells
  refine ⟨?tail, ?head, ?badTail, ?badHead, ?mgmt, ?off⟩
  case tail =>
    intro s h q v hon hp hs hv
    exact completes_eq _ rfl (tailDoorbell_taken hon hp hs hv) (pointerStored_frame _ _ _ _ (hlt v))
  case head =>
    intro s h q v hon hp hs hv
    exact completes_eq _ rfl (headDoorbell_taken hon hp hs hv) (pointerStored_frame _ _ _ _ (hlt v))
  case badTail =>
    intro s h q v hon hbad
    obtain ⟨hself, hothers, hcmd, hcount, hregs, hsame⟩ := badDoorbell_frame s.m h.agent q false
    exact completes_eq _ rfl (tailDoorbell_dropped hon fun h => hbad (owns_port h))
      ⟨hself, hothers, hcmd, hcount, badDoorbell_lastBad s.m h q false, hregs, hsame⟩
  case badHead =>
    intro s h q v hon hbad
    obtain ⟨hself, hothers, hcmd, hcount, hregs, hsame⟩ := badDoorbell_frame s.m h.agent q true
    exact completes_eq _ rfl (headDoorbell_dropped hon fun h => hbad (owns_port h))
      ⟨hself, hothers, hcmd, hcount, badDoorbell_lastBad s.m h q true, hregs, hsame⟩
  case mgmt =>
    rintro s q v c (rfl | rfl) hon
    · exact completes_eq _ rfl (tailDoorbell_dropped hon fun h => nomatch h.1) (badDoorbell_frame ..)
    · exact completes_eq _ rfl (headDoorbell_dropped hon fun h => nomatch h.1) (badDoorbell_frame ..)
  case off =>
    rintro s h q v c (rfl | rfl) hoff
    · exact completes_eq _ rfl ((doorbell_off hoff ..).1.trans (wdrop_port ..)) ⟨rdN_bump .., rs_bump .., sb_bump ..⟩
    · exact completes_eq _ rfl ((doorbell_off hoff ..).2.trans (wdrop_port ..)) ⟨rdN_bump .., rs_bump .., sb_bump ..⟩

end Sys2Proof.Machine

/-! Fetching (O23): the arbiter's grant and what its one read leaves, the data reads that go ahead of it, and the two ends of a fetch read
(R78, R114, R115, R117, R118). -/

namespace Sys2Proof.Machine

/-! ### Slots are taken and read into -/

/-- The n slots in l have been taken: of the queues only the commands in them and the slots in use have changed. -/
structure Mach.Takes (n : Nat) (l : List Nat) (a b : Mach) : Prop where
  count : l.length = n
  others : ∀ i, i ∉ l → b.cmd i = a.cmd i
  rest : b.q = { a.q with cmd := b.q.cmd, used := b.q.used }
  same : Mach.SameBut [.q, .reg] a b

theorem takeSlot_takes (m : Mach) (c : Cmd) : m.Takes 1 [(m.takeSlot c).2] (m.takeSlot c).1 := by
  unfold Mach.takeSlot
  dsimp only
  refine ⟨rfl, fun i hi => ?_, ?_, by simp [Mach.SameBut]⟩
  · rw [Mach.touch_cmd, Mach.raiseTo_cmd, Mach.cmd_setCmd_ne _ _ _ _ (by simpa using hi)]
    rfl
  · rw [Mach.touch_q, Mach.raiseTo_q]
    rfl

theorem fetchSlots_takes (q : Fin 256) (n : Nat) : ∀ (i : Nat) (m : Mach), m.Takes n (m.fetchSlots q n i).2 (m.fetchSlots q n i).1 := by
  induction n with
  | zero => exact fun _ m => ⟨rfl, fun _ _ => rfl, rfl, same_refl ..⟩
  | succ n ih =>
    intro i m
    unfold Mach.fetchSlots
    dsimp only
    obtain ⟨-, hothers, hrest, hsame⟩ := takeSlot_takes m
      { qid := some q, port := some (m.qp q).port, sqhd := ((m.qp q).fetch + i + 1) % max 1 (m.qp q).depth }
    obtain ⟨hcount, hothers', hrest', hsame'⟩ := ih (i + 1)
      (m.takeSlot { qid := some q, port := some (m.qp q).port, sqhd := ((m.qp q).fetch + i + 1) % max 1 (m.qp q).depth }).1
    refine ⟨by rw [List.length_cons, hcount], fun j hj => ?_, by rw [hrest', hrest], same_trans hsame hsame'⟩
    obtain ⟨hne, hnot⟩ := not_or.mp (mt List.mem_cons.mpr hj)
    rw [hothers' j hnot, hothers j (by simpa using hne)]

/-! ### The arbiter's grant (R114, R117) -/

theorem fetchRead_none (q : Fin 256) (g entry : Nat) (m : Mach) : m.fetchRead q g entry [] = m := rfl

/-- A read of some entries leaves, and is noted. -/
theorem fetchRead_sends {q : Fin 256} {g entry : Nat} {l : List Nat} (m : Mach) (h : l ≠ []) : m.fetchRead q g entry l =
    (m.updQ fun t => { t with
      nextFetch := m.q.nextFetch + 1
      fetches := t.fetches ++ [{ id := m.q.nextFetch, group := g, qid := q, slots := l, back := false }] }).send
      (.fetchRead (m.qp q).port m.q.nextFetch ((m.qp q).sqBase + 64 * entry) (64 * l.length)) := if_neg (by simpa using h)

/-- A fetch of k entries that do not wrap: the pair's pointer and count advance, and one read of k slots leaves. -/
structure Mach.Fetched (q : Fin 256) (k : Nat) (l : List Nat) (a b : Mach) : Prop where
  pair : b.qp q = { a.qp q with fetch := ((a.qp q).fetch + k) % (a.qp q).depth, inflight := (a.qp q).inflight + k }
  pairs : ∀ j, j ≠ q → b.qp j = a.qp j
  count : l.length = k
  others : ∀ i, i ∉ l → b.cmd i = a.cmd i
  rest : b.q = { a.q with
    cmd := b.q.cmd, used := b.q.used, qp := b.q.qp, nextFetch := b.q.nextFetch
    fetches := a.q.fetches ++ [{ id := a.q.nextFetch, group := a.q.nextFetch, qid := q, slots := l, back := false }] }
  sent : a.Sent [.fetchRead (a.qp q).port a.q.nextFetch ((a.qp q).sqBase + 64 * (a.qp q).fetch) (64 * k)] b
  same : Mach.SameBut [.q, .reg, .out] a b

theorem issueFetch_fetches {m : Mach} {q : Fin 256} {k : Nat} (hk : 0 < k) (hfit : (m.qp q).fetch + k ≤ (m.qp q).depth) :
    ∃ l, m.Fetched q k l (m.issueFetch q k) := by
  obtain ⟨hcount, hothers, hrest, hsame⟩ := fetchSlots_takes q k 0 m
  have hfetch : m.issueFetch q k = ((m.fetchSlots q k 0).1.setQp q { m.qp q with
      fetch := ((m.qp q).fetch + k) % (m.qp q).depth, inflight := (m.qp q).inflight + k }).fetchRead q m.q.nextFetch (m.qp q).fetch
      (m.fetchSlots q k 0).2 := by
    have hg : (m.fetchSlots q k 0).1.q.nextFetch = m.q.nextFetch := by rw [hrest]
    unfold Mach.issueFetch
    dsimp only
    rw [List.take_of_length_le (by omega), List.drop_of_length_le (by omega), fetchRead_none, Nat.max_eq_right (by omega), ← hg]
    rfl
  generalize (m.fetchSlots q k 0).1 = u at hothers hrest hsame hfetch
  generalize (m.fetchSlots q k 0).2 = l at hcount hothers hfetch
  rw [hfetch, fetchRead_sends _ (List.length_pos_iff.mp (by omega))]
  have hqp : ∀ j, u.qp j = m.qp j := qp_of_qp (by rw [hrest])
  refine ⟨l, ⟨?_, fun j hj => ?_, hcount, fun i hi => ?_, ?_, ?_, ?_⟩⟩
  · exact Mach.qp_setQp_same ..
  · exact (Mach.qp_setQp_ne _ _ _ _ hj).trans (hqp j)
  · exact hothers i hi
  · rw [Mach.send_q, Mach.updQ_q, Mach.setQp, Mach.updQ_q, hrest]
  · rw [Mach.Sent, Mach.send_out, Mach.updQ_out, Mach.setQp_out, same_out hsame (by simp), Mach.qp_setQp_same, hcount]
    rw [Mach.setQp, Mach.updQ_q, hrest]
  · exact same_trans (same_mono hsame (by simp)) (by simp [Mach.SameBut])

theorem arbitrate_stopped {m : Mach} (h : m.fetching = false) : m.arbitrate = m := if_pos (by simp [h])

/-- With no eligible queue the credits are filled again (R117). -/
theorem arbitrate_refills {m : Mach} (h : m.fetching = true) (hnone : ∀ c < 3, m.nextEligible c (m.q.rr.getD c 255) = none) :
    m.arbitrate = { m with q := { m.q with credit := m.arbWeights } } := by
  have hall : ((List.range 3).all fun c => (m.nextEligible c (m.q.rr.getD c 255)).isNone) = true :=
    List.all_eq_true.mpr fun c hc => by rw [hnone c (List.mem_range.mp hc)]; rfl
  unfold Mach.arbitrate
  rw [if_neg (by simp [h]), if_pos hall]
  rfl

/-- What the current class has left for queue q of it, in entries (R114, R115, R117). -/
def Mach.burst (m : Mach) (q : Fin 256) : Nat :=
  min (min (bits (m.rdN Reg.QCT_BURST) 3 0) (m.qp q).submitted) (min (m.qp q).room (m.slotsFree (some (m.qp q).port)))

/-- The machine once the current class has paid for k entries of queue q. -/
def Mach.paid (cur : Fin 3) (cr : Int) (q : Fin 256) (k : Nat) (m : Mach) : Mach :=
  m.updQ fun t => { t with
    credit := t.credit.set cur.val (cr - k), rr := t.rr.set cur.val q.val, cur := if cr - k ≤ 0 then cur + 1 else cur }

/-- The current class has credit and an eligible queue, which is served (R117). -/
theorem arbitrate_serves {m : Mach} {q : Fin 256} (h : m.fetching = true) (hcr : 0 < m.q.credit.getD m.q.cur.val 0)
    (hq : m.nextEligible m.q.cur.val (m.q.rr.getD m.q.cur.val 255) = some q) :
    m.arbitrate = ((m.issueFetch q (m.burst q)).paid m.q.cur (m.q.credit.getD m.q.cur.val 0) q (m.burst q)).touch .qct := by
  have hsome : ¬ ((List.range 3).all fun c => (m.nextEligible c (m.q.rr.getD c 255)).isNone) = true := fun hall => by
    have := List.all_eq_true.mp hall m.q.cur.val (List.mem_range.mpr m.q.cur.isLt)
    rw [hq] at this
    cases this
  unfold Mach.arbitrate
  rw [if_neg (by simp [h]), if_neg hsome]
  unfold Mach.arbStep
  dsimp only
  rw [if_pos hcr, hq]
  rfl

/-! ### Data reads that waited (R78) -/

/-- FETCH_ARBITRATION: the data reads that waited, and then the arbiter. -/
def Mach.readsThenFetch (m : Mach) : Mach := ((m.moreReads .p0).moreReads .p1).arbitrate

theorem readsThenFetch_sent {m : Mach} (h : m.ReadsSent) : m.readsThenFetch = m.arbitrate := by
  rw [Mach.readsThenFetch, moreReads_none .p0 h, moreReads_none .p1 h]

/-- The one command in use sends the data reads that it still owes, through its own port. -/
theorem moreReads_one {m : Mach} {i : Nat} {p : Port} (hu : m.q.used = [i]) (hp : (m.cmd i).port = some p) :
    (m.moreReads .p0).moreReads .p1 = m.sendReads p i := by
  have hown : m.moreReads p = m.sendReads p i := by
    have : (m.q.used.filter fun s => (m.cmd s).port == some p) = [i] := by simp [hu, hp]
    unfold Mach.moreReads
    rw [this]
    rfl
  have hforeign {u : Mach} {r : Port} (hu' : u.q.used = [i]) (hp' : (u.cmd i).port = some p) (hr : r ≠ p) : u.moreReads r = u := by
    have : (u.q.used.filter fun s => (u.cmd s).port == some r) = [] := by simp [hu', hp', hr.symm]
    unfold Mach.moreReads
    rw [this]
    rfl
  cases p with
  | p0 =>
    have hsent : (m.sendReads .p0 i).q.used = [i] ∧ ((m.sendReads .p0 i).cmd i).port = some .p0 := by
      unfold Mach.sendReads
      dsimp only
      split
      · exact ⟨hu, hp⟩
      · rw [send_each]
        exact ⟨hu, (congrArg Cmd.port (Mach.cmd_setCmd_same ..)).trans hp⟩
    rw [hown, hforeign hsent.1 hsent.2 (by decide)]
  | p1 => rw [hforeign hu hp (by decide), hown]

theorem fetching_of {a b : Mach} (h : Mach.SameBut [.q, .out] a b) : b.fetching = a.fetching := by
  unfold Mach.fetching Mach.viral Mach.running Mach.pageSt Mach.hdr
  rw [same_reg h (by simp), same_dev h (by simp), same_port h (by simp)]

/-! ### A read comes back (R118) -/

theorem each_cons {α : Type} (x : α) (l : List α) (f : α → Mach → Mach) (m : Mach) : m.each (x :: l) f = (f x m).each l f := rfl

/-- Each slot takes its entry. -/
theorem storeEntries_facts (l : List Nat) : ∀ (es : List Entry) (m : Mach), l.Nodup →
    (∀ e ∈ l.zip es, (m.storeEntries l es).cmd e.1 = { m.cmd e.1 with entry := e.2 }) ∧
    (∀ i, i ∉ l → (m.storeEntries l es).cmd i = m.cmd i) ∧
    (m.storeEntries l es).q = { m.q with cmd := (m.storeEntries l es).q.cmd } ∧ m.SameBut [.q] (m.storeEntries l es) := by
  induction l with
  | nil => exact fun _ m _ => ⟨by simp, fun _ _ => rfl, rfl, same_refl ..⟩
  | cons s l ih =>
    intro es m hnodup
    obtain ⟨hs, hl⟩ := List.nodup_cons.mp hnodup
    cases es with
    | nil => exact ⟨by simp, fun _ _ => rfl, rfl, same_refl ..⟩
    | cons x es =>
      obtain ⟨hself, hne, hq, hsame⟩ := setCmd_facts m s { m.cmd s with entry := x }
      obtain ⟨hmine, hothers, hq', hsame'⟩ := ih es (m.setCmd s { m.cmd s with entry := x }) hl
      unfold Mach.storeEntries
      refine ⟨fun e he => ?_, fun i hi => ?_, by rw [hq']; rfl, same_trans hsame hsame'⟩
      · rcases List.mem_cons.mp he with rfl | he
        · rw [hothers s hs, hself]
        · rw [hmine e he, hne e.1 fun h => hs (h ▸ (List.of_mem_zip he).1)]
      · obtain ⟨hi, hil⟩ := not_or.mp (mt List.mem_cons.mpr hi)
        rw [hothers i hil, hne i hi]

/-- The commands of some slots wait for the admission point. -/
def Mach.awaiting (l : List Nat) (m : Mach) : Mach := m.each l fun s m => m.setCmd s { m.cmd s with stage := .waiting }

theorem awaiting_facts (l : List Nat) : ∀ m : Mach,
    (∀ i, (m.awaiting l).cmd i = if i ∈ l then { m.cmd i with stage := .waiting } else m.cmd i) ∧
    (m.awaiting l).q = { m.q with cmd := (m.awaiting l).q.cmd } ∧ m.SameBut [.q] (m.awaiting l) := by
  induction l with
  | nil => exact fun m => ⟨fun i => by simp [Mach.awaiting, each_nil'], rfl, same_refl ..⟩
  | cons s l ih =>
    intro m
    obtain ⟨hself, hne, hq, hsame⟩ := setCmd_facts m s { m.cmd s with stage := .waiting }
    obtain ⟨hcmd, hq', hsame'⟩ := ih (m.setCmd s { m.cmd s with stage := .waiting })
    rw [show m.awaiting (s :: l) = (m.setCmd s { m.cmd s with stage := .waiting }).awaiting l from rfl]
    refine ⟨fun i => ?_, by rw [hq']; rfl, same_trans hsame hsame'⟩
    rw [hcmd i]
    by_cases hi : i = s
    · rw [hi, hself]
      simp
    · rw [hne i hi]
      simp [hi]

/-- A fetch read as it stands once the read with a number is back. -/
def FetchRd.returned (id : Nat) (x : FetchRd) : FetchRd := if x.id == id then { x with back := true } else x

theorem FetchRd.returned_group (id : Nat) (x : FetchRd) : (x.returned id).group = x.group := by
  unfold FetchRd.returned
  split <;> rfl

theorem fetchReturn_stores {m : Mach} {f : FetchRd} {es : List Entry} (hf : m.q.fetches.find? (fun x => x.id == f.id && !x.back) = some f)
    (hlen : es.length = f.slots.length) : m.fetchReturn f.id es =
      ((m.storeEntries f.slots es).updQ fun q => { q with fetches := q.fetches.map (FetchRd.returned f.id) }).groupBack f.group := by
  unfold Mach.fetchReturn
  rw [hf]
  exact if_neg (by simp [hlen])

theorem groupBack_waits {m : Mach} {g : Nat} {f : FetchRd} (h : m.q.fetches.filter (fun x => x.group == g) = [f]) (hb : f.back = true) :
    m.groupBack g = ((m.awaiting f.slots).updQ fun q =>
      { q with fetches := q.fetches.filter fun x => x.group != g, adm := q.adm ++ f.slots }).bump64By Reg.QCT_FETCH_LO f.slots.length := by
  unfold Mach.groupBack
  rw [h]
  dsimp only
  rw [if_neg (by simp [hb]), List.flatMap_singleton]
  rfl

/-- What the entries of a read that is back leave: they wait for the admission point in their order. -/
structure Mach.Entered (f : FetchRd) (es : List Entry) (a b : Mach) : Prop where
  entries : ∀ e ∈ f.slots.zip es, b.cmd e.1 = { a.cmd e.1 with entry := e.2, stage := .waiting }
  others : ∀ i, i ∉ f.slots → b.cmd i = a.cmd i
  queues : b.q = { a.q with
    cmd := b.q.cmd, adm := a.q.adm ++ f.slots, fetches := a.q.fetches.filter fun x => x.group != f.group }
  count : b.rd64 Reg.QCT_FETCH_LO = a.rd64 Reg.QCT_FETCH_LO + BitVec.ofNat 64 f.slots.length
  regs : a.RegsBut [] b
  same : Mach.SameBut [.q, .reg] a b

/-- The fetch reads of a returned read's group, and those of every other. -/
theorem returned_groups {l : List FetchRd} {f : FetchRd} (hone : l.filter (fun x => x.group == f.group) = [f])
    (hid : ∀ x ∈ l, x.id = f.id → x = f) :
    (l.map (FetchRd.returned f.id)).filter (fun x => x.group == f.group) = [{ f with back := true }] ∧
    (l.map (FetchRd.returned f.id)).filter (fun x => x.group != f.group) = l.filter fun x => x.group != f.group := by
  constructor
  · rw [List.filter_map, show (fun x : FetchRd => x.group == f.group) ∘ FetchRd.returned f.id = fun x => x.group == f.group from
      funext fun x => by simp [FetchRd.returned_group], hone]
    simp [FetchRd.returned]
  · rw [List.filter_map, show (fun x : FetchRd => x.group != f.group) ∘ FetchRd.returned f.id = fun x => x.group != f.group from
      funext fun x => by simp [FetchRd.returned_group]]
    refine (List.map_congr_left fun x hx => ?_).trans (List.map_id _)
    obtain ⟨hmem, hg⟩ := List.mem_filter.mp hx
    have hne : x.id ≠ f.id := fun h => by simp [hid x hmem h] at hg
    simp [FetchRd.returned, hne]

theorem fetchReturn_enters {m : Mach} {f : FetchRd} {es : List Entry}
    (hf : m.q.fetches.find? (fun x => x.id == f.id && !x.back) = some f)
    (hone : m.q.fetches.filter (fun x => x.group == f.group) = [f]) (hid : ∀ x ∈ m.q.fetches, x.id = f.id → x = f)
    (hlen : es.length = f.slots.length) (hnodup : f.slots.Nodup) : m.Entered f es (m.fetchReturn f.id es) := by
  obtain ⟨hentry, hcmd, hq, hsame⟩ := storeEntries_facts f.slots es m hnodup
  obtain ⟨hmine, hrest⟩ := returned_groups hone hid
  have hback := fetchReturn_stores hf hlen
  generalize hu : (m.storeEntries f.slots es).updQ (fun q => { q with fetches := q.fetches.map (FetchRd.returned f.id) }) = u at hback
  have huq : u.q = { m.q with cmd := (m.storeEntries f.slots es).q.cmd, fetches := m.q.fetches.map (FetchRd.returned f.id) } := by
    rw [← hu, Mach.updQ_q, hq]
  have hucmd : ∀ i, u.cmd i = (m.storeEntries f.slots es).cmd i := cmd_of_cmd (by rw [huq])
  have hus : m.SameBut [.q] u := by
    rw [← hu]
    exact same_trans hsame (by simp [Mach.SameBut])
  obtain ⟨hwait, hqw, hws⟩ := awaiting_facts f.slots u
  rw [hback, groupBack_waits (f := { f with back := true }) (by rw [huq]; exact hmine) rfl]
  dsimp only
  generalize u.awaiting f.slots = w at hwait hqw hws
  have hwq : w.q = { m.q with cmd := w.q.cmd, fetches := m.q.fetches.map (FetchRd.returned f.id) } := by rw [hqw, huq]
  have hms : m.SameBut [.q] w := same_trans hus hws
  refine ⟨fun e he => ?_, fun i hi => ?_, ?_, ?_, fun k hk => ?_, ?_⟩
  · refine (Mach.bump64By_cmd ..).trans ((hwait e.1).trans ?_)
    rw [if_pos (List.of_mem_zip he).1, hucmd, hentry e he]
  · refine (Mach.bump64By_cmd ..).trans ((hwait i).trans ?_)
    rw [if_neg hi, hucmd, hcmd i hi]
  · rw [Mach.bump64By_q, Mach.updQ_q, hwq, ← hrest]
  · rw [rd64_bump64By_same]
    exact congrArg (· + _) (rd64_of_c64 (by rw [Mach.updQ_reg, same_reg hms (by simp)]) _)
  · rw [rd_bump64By]
    exact rb_of_reg (same_reg hms (by simp)) k hk
  · exact same_trans (same_mono hms (by simp)) (by simp [Mach.SameBut])

/-! ### A read fails (R118) -/

/-- No twin transfer carries the command of slot i. -/
def Mach.Uncarried (i : Nat) (m : Mach) : Prop := ∀ e ∈ m.twn.tx, e.2 ≠ .cmd i

theorem twnForget_uncarried {m : Mach} {s i : Nat} (hs : m.Uncarried s) (hi : m.Uncarried i) : (m.twnForget s).Uncarried i := by
  have hnone : (m.twn.tx.filter fun e => e.2 == .cmd s) = [] := List.filter_eq_nil_iff.mpr fun e he => by simpa using hs e he
  intro e he
  unfold Mach.twnForget at he
  rw [hnone] at he
  obtain ⟨x, hx, rfl⟩ := List.mem_map.mp he
  have hmem : x ∈ m.twn.tx := (List.mem_filter.mp hx).1
  split
  · split
    · simp
    · exact hi x hmem
  · exact hi x hmem

/-- The slots in l are free: their commands are gone, and of the queues nothing else has changed but what named them. -/
structure Mach.Frees (l : List Nat) (a b : Mach) : Prop where
  slots : ∀ i ∈ l, b.cmd i = {}
  others : ∀ i, i ∉ l → b.cmd i = a.cmd i
  used : b.q.used = a.q.used.filter (· ∉ l)
  rest : b.q = { a.q with cmd := b.q.cmd, used := b.q.used, adm := b.q.adm }
  regs : a.RegsBut [] b
  same : Mach.SameBut [.q, .reg, .twn] a b

/-- A command is written and the queue core's page steps. -/
theorem setCmd_touch_facts (m : Mach) (s : Nat) (c : Cmd) :
    let t := (m.setCmd s c).touch .qct
    t.cmd s = c ∧ (∀ i, i ≠ s → t.cmd i = m.cmd i) ∧ t.q = { m.q with cmd := t.q.cmd } ∧ m.RegsBut [] t ∧ m.SameBut [.q, .reg] t := by
  dsimp only
  exact ⟨by simp, fun i hi => by simp [Mach.cmd_setCmd_ne _ _ _ _ hi], by rw [Mach.touch_q]; rfl, fun k _ => by simp,
    by simp [Mach.SameBut]⟩

theorem freeSlot_frees {m : Mach} {s : Nat} (h : m.Uncarried s) : m.Frees [s] (m.freeSlot s) := by
  have hf := twnForget_same m s h
  have hq : (m.twnForget s).q = m.q := same_q hf (by simp)
  generalize hu : (m.twnForget s).updQ (fun q => { q with used := q.used.filter (· != s), adm := q.adm.filter (· != s) }) = u
  have huq : u.q = { m.q with used := m.q.used.filter (· != s), adm := m.q.adm.filter (· != s) } := by
    rw [← hu, Mach.updQ_q, hq]
  have hus : m.SameBut [.twn, .q] u := by
    rw [← hu]
    exact same_trans (same_mono hf (by simp)) (by simp [Mach.SameBut])
  obtain ⟨hslot, hne, hrest, hregs, hsame⟩ := setCmd_touch_facts u s {}
  have hfree : m.freeSlot s = (u.setCmd s {}).touch .qct := by
    rw [← hu]
    rfl
  rw [hfree]
  generalize (u.setCmd s {}).touch .qct = t at hslot hne hrest hregs hsame
  refine ⟨fun i hi => ?_, fun i hi => ?_, ?_, by rw [hrest, huq], rb_trans (rb_of_reg (same_reg hus (by simp))) hregs,
    same_trans (same_mono hus (by simp)) (same_mono hsame (by simp))⟩
  · rw [List.mem_singleton.mp hi, hslot]
  · rw [hne i (by simpa using hi)]
    exact cmd_of_cmd (by rw [huq]) i
  · rw [hrest, huq]
    exact List.filter_congr fun x _ => by by_cases hx : x = s <;> simp [hx]

theorem freeSlot_uncarried {m : Mach} {s i : Nat} (hs : m.Uncarried s) (hi : m.Uncarried i) : (m.freeSlot s).Uncarried i := by
  intro e he
  rw [Mach.freeSlot, Mach.touch_twn] at he
  exact twnForget_uncarried hs hi e he

theorem freeSlots_frees (l : List Nat) : ∀ m : Mach, (∀ i ∈ l, m.Uncarried i) → m.Frees l (m.each l Mach.freeSlot) := by
  induction l with
  | nil => exact fun m _ => ⟨by simp, fun _ _ => rfl, by simp [each_nil'], rfl, fun _ _ => rfl, same_refl ..⟩
  | cons s l ih =>
    intro m h
    obtain ⟨hs, hl⟩ := List.forall_mem_cons.mp h
    obtain ⟨hslot, hne, hused, hrest, hregs, hsame⟩ := freeSlot_frees hs
    obtain ⟨hslots, hothers, hused', hrest', hregs', hsame'⟩ := ih (m.freeSlot s) fun i hi => freeSlot_uncarried hs (hl i hi)
    rw [each_cons]
    refine ⟨fun i hi => ?_, fun i hi => ?_, ?_, by rw [hrest', hrest], rb_trans hregs hregs', same_trans hsame hsame'⟩
    · by_cases hil : i ∈ l
      · exact hslots i hil
      · rw [hothers i hil]
        exact hslot i (by simpa [hil] using hi)
    · obtain ⟨hi, hil⟩ := not_or.mp (mt List.mem_cons.mpr hi)
      rw [hothers i hil, hne i (by simpa using hi)]
    · rw [hused', hused, List.filter_filter]
      exact List.filter_congr fun x _ => by simp [Bool.and_comm]

/-- The machine once the entries of a failed read are discarded. -/
def Mach.entriesLost (f : FetchRd) (m : Mach) : Mach :=
  (m.updQ fun q => { q with fetches := q.fetches.filter fun x => x.group != f.group }).each f.slots Mach.freeSlot

/-- The machine once a failed read's entries are discarded, their room is given back and the pair is FAULTED. -/
def Mach.fetchLost (f : FetchRd) (m : Mach) : Mach :=
  let lost := (m.entriesLost f).setQp f.qid
    { (m.entriesLost f).qp f.qid with inflight := ((m.entriesLost f).qp f.qid).inflight - f.slots.length }
  lost.setQp f.qid { lost.qp f.qid with st := .faulted }

/-- The one read of its group fails: no other read of it is still out. -/
theorem fetchFailure_loses {m : Mach} {f : FetchRd} (hf : m.q.fetches.find? (fun x => x.id == f.id && !x.back) = some f)
    (hone : m.q.fetches.filter (fun x => x.group == f.group) = [f]) : m.fetchFailure f.id =
      ((m.fetchLost f).bump Reg.QCT_FETCHERR).devEvent .warn 0x0108 (BitVec.ofNat 64 f.qid.val) [] := by
  have hstill : (m.q.fetches.filter fun x => x.group == f.group && x.id != f.id && !x.back) = [] :=
    List.filter_eq_nil_iff.mpr fun x hx h => by
      simp only [Bool.and_eq_true] at h
      obtain ⟨⟨hg, hid⟩, -⟩ := h
      have hxf : x ∈ [f] := hone ▸ List.mem_filter.mpr ⟨hx, hg⟩
      simp [List.mem_singleton.mp hxf] at hid
  unfold Mach.fetchFailure
  rw [hf]
  dsimp only
  rw [hstill, Mach.discardFetches, hone, List.map_nil]
  have hnil (u : Mach) : (u.updQ fun q => { q with fetches := q.fetches ++ [] }) = u := by simp [Mach.updQ]
  rw [hnil]
  rfl

/-- What the discarded entries leave. -/
structure Mach.FetchLost (f : FetchRd) (a b : Mach) : Prop where
  pair : b.qp f.qid = { a.qp f.qid with st := .faulted, inflight := (a.qp f.qid).inflight - f.slots.length }
  pairs : ∀ j, j ≠ f.qid → b.qp j = a.qp j
  slots : ∀ i ∈ f.slots, b.cmd i = {} ∧ i ∉ b.q.used
  others : ∀ i, i ∉ f.slots → b.cmd i = a.cmd i
  fetches : b.q.fetches = a.q.fetches.filter fun x => x.group != f.group
  regs : a.RegsBut [] b
  same : Mach.SameBut [.q, .reg, .twn] a b

theorem fetchLost_loses {m : Mach} {f : FetchRd} (h : ∀ i ∈ f.slots, m.Uncarried i) : m.FetchLost f (m.fetchLost f) := by
  obtain ⟨hslots, hothers, hused, hrest, hregs, hsame⟩ :=
    freeSlots_frees f.slots (m.updQ fun q => { q with fetches := q.fetches.filter fun x => x.group != f.group }) h
  have hqp (j : Fin 256) : (m.entriesLost f).qp j = m.qp j := qp_of_qp (by rw [Mach.entriesLost, hrest, Mach.updQ_q]) j
  refine ⟨?_, fun j hj => ?_, fun i hi => ⟨hslots i hi, ?_⟩, hothers, ?_, hregs, ?_⟩
  · simp [Mach.fetchLost, hqp]
  · simp [Mach.fetchLost, Mach.qp_setQp_ne _ _ _ _ hj, hqp]
  · intro hmem
    replace hmem : i ∈ (m.entriesLost f).q.used := hmem
    rw [Mach.entriesLost, hused] at hmem
    simp [hi] at hmem
  · exact (congrArg Queues.fetches hrest).trans rfl
  · exact same_trans (b := m.entriesLost f) (same_trans (by simp [Mach.SameBut]) hsame) (by simp [Mach.SameBut, Mach.fetchLost])

theorem fetchFailure_none {m : Mach} {id : Nat} (h : m.q.fetches.find? (fun x => x.id == id && !x.back) = none) : m.fetchFailure id = m := by
  unfold Mach.fetchFailure
  rw [h]

theorem fetchReturn_none {m : Mach} {id : Nat} (es : List Entry) (h : m.q.fetches.find? (fun x => x.id == id && !x.back) = none) :
    m.fetchReturn id es = m := by
  unfold Mach.fetchReturn
  rw [h]

/-! ### The obligation -/

/-- Settles O23: the arbiter by its three outcomes, and each end of a fetch read by one equation and its frame. -/
theorem queueFetch : Obligations.QueueFetch := by
  unfold Obligations.QueueFetch
  refine ⟨?serve, ?refill, ?stopped, ?owed, ?returned, ?unknown, ?failed⟩
  case serve =>
    intro s q k hsent hrun hcr hq hk hpos hfit
    obtain rfl : k = s.m.burst q := hk
    obtain ⟨l, hpair, hpairs, hcount, hothers, hrest, hout, hsame⟩ := issueFetch_fetches (m := s.m) (q := q) hpos hfit
    refine completes_eq Mach.readsThenFetch rfl ((readsThenFetch_sent hsent).trans (arbitrate_serves hrun hcr hq))
      ⟨?_, fun j hj => ?_, ⟨l, hcount, fun i hi => ?_, ?_⟩, ?_, ?_, ?_, ?_⟩
    · exact (Mach.touch_qp ..).trans hpair
    · exact (Mach.touch_qp ..).trans (hpairs j hj)
    · exact (Mach.touch_cmd ..).trans (hothers i hi)
    · rw [Mach.touch_q]
      exact (congrArg Queues.fetches hrest).trans rfl
    · rw [Mach.Sent, Mach.touch_out]
      exact hout
    · rw [Mach.touch_q, Mach.paid, Mach.updQ_q, hrest]
    · rw [Mach.touch_q, Mach.paid, Mach.updQ_q, hrest]
    · exact same_trans hsame (by simp [Mach.SameBut, Mach.paid])
  case refill =>
    intro s hsent hrun hnone
    exact completes_eq Mach.readsThenFetch rfl ((readsThenFetch_sent hsent).trans (arbitrate_refills hrun hnone)) rfl
  case stopped =>
    intro s hsent hrun
    exact completes_eq Mach.readsThenFetch rfl ((readsThenFetch_sent hsent).trans (arbitrate_stopped hrun)) rfl
  case owed =>
    intro s i p hrun hu hp hroom
    obtain ⟨hself, hothers, hq, hsent, hsame⟩ := sendReads_all hroom
    have hstop : (s.m.sendReads p i).fetching = false := (fetching_of hsame).trans hrun
    exact completes_eq Mach.readsThenFetch rfl (by rw [Mach.readsThenFetch, moreReads_one hu hp, arbitrate_stopped hstop])
      ⟨hself, hothers, hq, hsent, hsame⟩
  case returned =>
    intro s f es hf hone hid hlen hnodup
    obtain ⟨hentries, hothers, hq, hcount, hregs, hsame⟩ := fetchReturn_enters hf hone hid hlen hnodup
    exact completes_eq _ rfl rfl ⟨by rw [hq], by rw [hq], hentries, hothers, by rw [hq], qp_of_qp (by rw [hq]), hcount, hregs, hsame⟩
  case unknown =>
    rintro s id es c (rfl | rfl) hnone
    · exact completes_eq _ rfl (fetchReturn_none es hnone) rfl
    · exact completes_eq _ rfl (fetchFailure_none hnone) rfl
  case failed =>
    intro s f hf hone hfree
    obtain ⟨hpair, hpairs, hslots, hothers, hfetches, hregs, hsame⟩ := fetchLost_loses (m := s.m) (f := f) hfree
    have hrec := recorded_devEvent ((s.m.fetchLost f).bump Reg.QCT_FETCHERR) .warn 0x0108 (BitVec.ofNat 64 f.qid.val) []
    have hq := (same_q hrec.same (by simp)).trans (Mach.bump_q ..)
    refine completes_eq _ rfl (fetchFailure_loses hf hone)
      ⟨(qp_of_q hq _).trans hpair, fun j hj => (qp_of_q hq j).trans (hpairs j hj),
        fun i hi => ⟨(cmd_of_q hq i).trans (hslots i hi).1, hq ▸ (hslots i hi).2⟩, fun i hi => (cmd_of_q hq i).trans (hothers i hi),
        hq ▸ hfetches, ?_, ?_⟩
    · rw [Mach.rdN, hrec.rd _ (by decide)]
      exact (rdN_bump ..).trans (by rw [Mach.rdN, hregs _ (by simp)]; rfl)
    · exact same_trans (same_mono hsame (by simp)) (same_trans (same_mono (sb_bump ..) (by simp)) (same_mono hrec.same (by simp)))

end Sys2Proof.Machine

/-! Queue pairs and ABORT (O25): the creation and deletion of a pair, one equation for each outcome, and the decision of Table 05.7 (R103,
R124 to R127). -/

namespace Sys2Proof.Machine

/-! ### A pair is written -/

/-- The machine in which pair q stands as x. -/
def Mach.pairSet (q : Fin 256) (x : Qp) (m : Mach) : Mach := (m.setQp q x).touch .qct

theorem pairSet_frame (m : Mach) (q : Fin 256) (x : Qp) :
    (m.pairSet q x).qp q = x ∧ (∀ j, j ≠ q → (m.pairSet q x).qp j = m.qp j) ∧ (∀ i, (m.pairSet q x).cmd i = m.cmd i) ∧
    m.RegsSame [] (m.pairSet q x) ∧ m.SameBut [.q, .reg] (m.pairSet q x) := by
  unfold Mach.pairSet
  exact ⟨by simp, fun j hj => by simp [Mach.qp_setQp_ne _ _ _ _ hj], fun i => by simp, rs_touch (m.setQp q x) .qct, by simp [Mach.SameBut]⟩

/-- As a pair is written, the port is answered. -/
theorem pairSet_answered (m : Mach) (q : Fin 256) (x : Qp) (p : Port) :
    ((m.pairSet q x).ok p []).qp q = x ∧ (∀ j, j ≠ q → ((m.pairSet q x).ok p []).qp j = m.qp j) ∧
    (∀ i, ((m.pairSet q x).ok p []).cmd i = m.cmd i) ∧ m.Replies p St.success [] ((m.pairSet q x).ok p []) ∧
    m.RegsSame [] ((m.pairSet q x).ok p []) ∧ m.SameBut [.q, .reg, .out] ((m.pairSet q x).ok p []) := by
  obtain ⟨hself, hothers, hcmd, hregs, hsame⟩ := pairSet_frame m q x
  obtain ⟨hsent, hout⟩ := replies_ok p [] (m.pairSet q x)
  have hq := same_q hout (by simp)
  refine ⟨by rw [qp_of_q hq, hself], fun j hj => by rw [qp_of_q hq, hothers j hj], fun i => by rw [cmd_of_q hq, hcmd], ?_,
    rs_trans hregs (rs_of_reg (same_reg hout (by simp))), same_trans (same_mono hsame (by simp)) (same_mono hout (by simp))⟩
  exact hsent.trans (by rw [same_out hsame (by simp)])

/-! ### Creation and deletion (R103, R126, R127) -/

theorem queueCreate_refused {m : Mach} {p : Port} {q : Fin 256} {depth cls : Nat} (crc : Bool) {sq cq : Nat}
    (h : (m.qp q).st ≠ .absent ∨ 128 ≤ m.pairsOf p ∨ depth < 2 ∨ 4096 < depth ∨ cls % 4 = 3 ∨ sq % 4096 ≠ 0 ∨ cq % 4096 ≠ 0) :
    m.queueCreate p q depth cls crc sq cq = m.refuse p St.invalidField := if_pos (by simpa [or_assoc] using h)

theorem queueCreate_makes {m : Mach} {p : Port} {q : Fin 256} {depth cls : Nat} (crc : Bool) {sq cq : Nat} (ha : (m.qp q).st = .absent)
    (hn : m.pairsOf p < 128) (hlo : 2 ≤ depth) (hhi : depth ≤ 4096) (hc : cls < 3) (hs : sq % 4096 = 0) (hq : cq % 4096 = 0) :
    m.queueCreate p q depth cls crc sq cq =
      (m.pairSet q { st := .active, port := p, cls := cls, depth := depth, crc := crc, sqBase := sq, cqBase := cq }).ok p [] := by
  have hcls : cls % 4 = cls := Nat.mod_eq_of_lt (by omega)
  unfold Mach.queueCreate
  rw [if_neg, hcls]
  · rfl
  · simp [ha, hs, hq, hcls]
    omega

/-- The machine in which pair q is being deleted at port p's request. -/
def Mach.stopping (p : Port) (q : Fin 256) (m : Mach) : Mach := m.setQp q { m.qp q with st := .deleting, delBy := some p }

theorem stopping_qp (p : Port) (q : Fin 256) (m : Mach) : (m.stopping p q).qp q = { m.qp q with st := .deleting, delBy := some p } :=
  Mach.qp_setQp_same ..

/-- Where no fetch read is chosen, none is discarded. -/
theorem discardFetches_none {m : Mach} {c : FetchRd → Bool} (h : ∀ f ∈ m.q.fetches, c f = false) : m.discardFetches c = m := by
  have hgone : m.q.fetches.filter c = [] := List.filter_eq_nil_iff.mpr fun f hf => by simp [h f hf]
  have hleft : (m.q.fetches.filter fun f => !c f) = m.q.fetches := List.filter_eq_self.mpr fun f hf => by simp [h f hf]
  unfold Mach.discardFetches
  rw [hgone]
  change ({ m with q := { m.q with fetches := m.q.fetches.filter fun f => !c f } } : Mach) = m
  rw [hleft]

section
variable {m : Mach} {p : Port} {q : Fin 256}

theorem queueDelete_refused (h : (m.qp q).port ≠ p ∨ (m.qp q).st = .absent ∨ (m.qp q).st = .deleting) :
    m.queueDelete p q = m.refuse p St.invalidField := if_pos (by simpa [or_assoc] using h)

theorem deleteEnd_waits (h : (m.qp q).st ≠ .deleting ∨ ∃ i ∈ m.q.used, (m.cmd i).qid = some q) : m.deleteEnd q = m :=
  if_pos (by simpa using h)

theorem deleteEnd_frees (hs : (m.qp q).st = .deleting) (hd : (m.qp q).delBy = some p) (hnone : ∀ i ∈ m.q.used, (m.cmd i).qid ≠ some q) :
    m.deleteEnd q = (m.pairSet q {}).ok p [] := by
  unfold Mach.deleteEnd
  dsimp only
  rw [if_neg (by simpa [hs] using hnone), hd]
  rfl

variable (hp : (m.qp q).port = p) (hs : (m.qp q).st = .active ∨ (m.qp q).st = .faulted) (hf : ∀ f ∈ m.q.fetches, f.qid ≠ q)
include hp hs hf

/-- A pair without fetches stops, and its commands short of their commit point are cut off. -/
theorem queueDelete_stops : m.queueDelete p q =
    ((m.stopping p q).each
      (m.q.used.filter fun s => (m.cmd s).qid == some q && (m.cmd s).short) fun s m =>
      if (m.cmd s).qid == some q && (m.cmd s).short then m.cutShort s St.abortedQueueDeleted else m).touch .qct := by
  have hgo : ¬ ((m.qp q).port != p || (m.qp q).st == .absent || (m.qp q).st == .deleting) = true := by
    rcases hs with hs | hs <;> simp [hp, hs]
  unfold Mach.queueDelete
  dsimp only
  rw [if_neg hgo, discardFetches_none fun f hfm => by simpa using hf f hfm]
  rfl

theorem queueDelete_idle (hnone : ∀ i ∈ m.q.used, (m.cmd i).qid ≠ some q) :
    m.queueDelete p q = m.pairSet q { m.qp q with st := .deleting, delBy := some p } := by
  have hnil : (m.q.used.filter fun s => (m.cmd s).qid == some q && (m.cmd s).short) = [] :=
    List.filter_eq_nil_iff.mpr fun i hi => by simp [hnone i hi]
  rw [queueDelete_stops hp hs hf, hnil]
  rfl

theorem queueDelete_one {i : Nat} (hu : m.q.used = [i]) (hq : (m.cmd i).qid = some q) (hsh : (m.cmd i).short = true) :
    m.queueDelete p q = ((m.stopping p q).cutShort i St.abortedQueueDeleted).touch .qct := by
  have hc : ((m.cmd i).qid == some q && (m.cmd i).short) = true := by simp [hq, hsh]
  have hone : (m.q.used.filter fun s => (m.cmd s).qid == some q && (m.cmd s).short) = [i] := by simp [hu, hc]
  rw [queueDelete_stops hp hs hf, hone]
  exact congrArg (Mach.touch .qct) (if_pos hc)

end

/-! ### ABORT (R124, R125) -/

/-- A command that follows with the mailbox and the CTRL frames does nothing more where nothing waits for management firmware. -/
theorem completes_onMail {c : Instr} {s : State} {P : Mach → Prop} {u : Mach} (f : Mach → Mach) (hx : exec c s = s.onMail f)
    (e : f s.m = u) (hc : u.Calm) (hP : P u) : Completes c s P :=
  completes_eq _ hx (by simp only [e, calm_quiet hc]) hP

/-- The machine once the oldest request has been taken up, where r are left. -/
def Mach.abortTaken (r : List (Port × BitVec 12)) (m : Mach) : Mach := m.updQ fun q => { q with aborts := r }

theorem abortTaken_frame (m : Mach) (r : List (Port × BitVec 12)) :
    (m.abortTaken r).q = { m.q with aborts := r } ∧ m.SameBut [.q] (m.abortTaken r) := ⟨rfl, by simp [Mach.SameBut, Mach.abortTaken]⟩

theorem abortDecide_none {m : Mach} (h : m.q.aborts = []) : m.abortDecide = m := by
  unfold Mach.abortDecide
  rw [h]

section
variable {m : Mach} {p : Port} {tag : BitVec 12} {r : List (Port × BitVec 12)} (ha : m.q.aborts = (p, tag) :: r)
include ha

theorem abortDecide_missing (ht : m.abortTarget p tag = none) : m.abortDecide = (m.abortTaken r).ok p (leBytes 4 2) := by
  have ht' : (m.updQ fun q => { q with aborts := r }).abortTarget p tag = none := ht
  unfold Mach.abortDecide
  rw [ha]
  dsimp only
  rw [ht']
  rfl

theorem abortDecide_late {i : Nat} (ht : m.abortTarget p tag = some i) (hs : (m.cmd i).short = false) :
    m.abortDecide = (m.abortTaken r).ok p (leBytes 4 1) := by
  have ht' : (m.updQ fun q => { q with aborts := r }).abortTarget p tag = some i := ht
  unfold Mach.abortDecide
  rw [ha]
  dsimp only
  rw [ht']
  exact if_neg (Bool.eq_false_iff.mp hs)

theorem abortDecide_cuts {i : Nat} (ht : m.abortTarget p tag = some i) (hs : (m.cmd i).short = true) :
    m.abortDecide = ((m.abortTaken r).cutShort i St.abortedByRequest).ok p (leBytes 4 0) := by
  have ht' : (m.updQ fun q => { q with aborts := r }).abortTarget p tag = some i := ht
  unfold Mach.abortDecide
  rw [ha]
  dsimp only
  rw [ht']
  exact if_pos hs

end

/-- An answered request changes the requests alone, and leaves nothing for management firmware. -/
theorem abort_answered {m : Mach} (p : Port) (r : List (Port × BitVec 12)) (b : List Byte) (hc : m.Calm) :
    ((m.abortTaken r).ok p b).Calm ∧ ((m.abortTaken r).ok p b).q = { m.q with aborts := r } ∧
    m.Replies p St.success b ((m.abortTaken r).ok p b) ∧ m.SameBut [.q, .out] ((m.abortTaken r).ok p b) := by
  obtain ⟨hq, hsame⟩ := abortTaken_frame m r
  obtain ⟨hsent, hout⟩ := replies_ok p b (m.abortTaken r)
  have hboth : m.SameBut [.q, .out] ((m.abortTaken r).ok p b) := same_trans (same_mono hsame (by simp)) (same_mono hout (by simp))
  refine ⟨calm_of hc (by rw [same_adm hboth (by simp)]) (same_twn hboth (by simp)), (same_q hout (by simp)).trans hq, ?_, hboth⟩
  exact hsent.trans (by rw [same_out hsame (by simp)])

/-- What is cut off is what `Trims` names, and then the command completes. -/
theorem cutWith_trims (m : Mach) (i st d2 d3 : Nat) : ∃ u, m.Trims i u ∧ m.cutWith i st d2 d3 = u.complete i st d2 d3 := by
  unfold Mach.cutWith
  refine ⟨_, ((wbAbandon_trims m i).trans (.setCmd _ (x := { (m.wbAbandon i).cmd i with todo := [], cover := [], covering := false, unsent := [] })
    rfl rfl rfl rfl rfl)).trans ?_, rfl⟩
  split
  · exact .of_same (quiet_pendlRange ..).same
  · exact .refl ..

/-- The end of a command that is cut off leaves the requests of ABORT. -/
theorem cutWith_aborts {m : Mach} {i : Nat} {q : Fin 256} (st d2 d3 : Nat) (hk : (m.cmd i).kind = .host) (hq : (m.cmd i).qid = some q)
    (hl : m.Loose i) : (m.cutWith i st d2 d3).q.aborts = m.q.aborts := by
  obtain ⟨u, hu, e⟩ := cutWith_trims m i st d2 d3
  obtain ⟨-, -, -, hrest⟩ := complete_done u i st d2 d3 q (hu.kind.trans hk) (hu.qid.trans hq)
    (loose_on hu.others hu.wait (same_twn hu.same (by simp)) hl)
  rw [e, hrest, hu.rest]

/-! ### The obligation -/

/-- Settles O25: each request has one equation for each outcome, and a command that ends with it completes as one that is cut off. -/
theorem queuePairsAndAbort : Obligations.QueuePairsAndAbort := by
  unfold Obligations.QueuePairsAndAbort
  refine ⟨?create, ?createRefused, ?delete, ?deleteOne, ?deleteRefused, ?ends, ?waits, ?asks, ?noRequest, ?missing, ?late, ?cuts⟩
  case create =>
    intro s p q depth cls crc sq cq hup hio hph ha hn hlo hhi hc hs hq
    refine completes_serves _ rfl ⟨hup, hio, hph⟩ ?_
    rw [queueCreate_makes crc ha hn hlo hhi hc hs hq]
    exact pairSet_answered ..
  case createRefused =>
    intro s p q depth cls crc sq cq hup hio hph h
    refine completes_serves _ rfl ⟨hup, hio, hph⟩ ?_
    rw [queueCreate_refused crc h]
    exact replies_no ..
  case delete =>
    intro s p q hup hio hph hp hs hf hnone
    refine completes_serves _ rfl ⟨hup, hio, hph⟩ ?_
    rw [queueDelete_idle hp hs hf hnone]
    exact pairSet_frame ..
  case deleteOne =>
    intro s p q i hup hio hph hp hs hf hu hq hk hsh _ hl
    refine completes_serves _ rfl ⟨hup, hio, hph⟩ ?_
    rw [queueDelete_one hp hs hf hu hq hsh]
    obtain ⟨hdone, -⟩ := cutWith_completed (m := s.m.stopping p q) St.abortedQueueDeleted 0 0 hk hq hl
    obtain ⟨hslot, hused, -, hpair, -, hsent⟩ := hdone
    rw [stopping_qp] at hpair hsent
    rw [Mach.touch_qp, Mach.touch_cmd, Mach.touch_q, Mach.cutShort, hpair, hused, Mach.Sent, Mach.touch_out]
    refine ⟨rfl, rfl, hslot, ?_, ?_⟩
    · simp [Mach.stopping, Mach.setQp, hu]
    · dsimp only at hsent
      rw [hp] at hsent
      exact hsent
  case deleteRefused =>
    intro s p q hup hio hph h
    refine completes_serves _ rfl ⟨hup, hio, hph⟩ ?_
    rw [queueDelete_refused h]
    exact replies_no ..
  case ends =>
    intro s p q hs hd hnone hc
    obtain ⟨hself, hothers, hcmd, hreply, hregs, hsame⟩ := pairSet_answered s.m q {} p
    exact completes_onMail _ rfl (deleteEnd_frees hs hd hnone) (calm_of hc (by rw [same_adm hsame (by simp)]) (same_twn hsame (by simp)))
      ⟨hself, hothers, hcmd, hreply, hregs, hsame⟩
  case waits =>
    intro s q h hc
    exact completes_onMail _ rfl (deleteEnd_waits h) hc rfl
  case asks =>
    intro s p tag hup hio hph
    exact completes_serves _ rfl ⟨hup, hio, hph⟩ rfl
  case noRequest =>
    intro s h hc
    exact completes_onMail _ rfl (abortDecide_none h) hc rfl
  case missing =>
    intro s p tag r ha ht hc
    obtain ⟨hcalm, hframe⟩ := abort_answered p r (leBytes 4 2) hc
    exact completes_onMail _ rfl (abortDecide_missing ha ht) hcalm hframe
  case late =>
    intro s p tag r i ha ht hs hc
    obtain ⟨hcalm, hframe⟩ := abort_answered p r (leBytes 4 1) hc
    exact completes_onMail _ rfl (abortDecide_late ha ht hs) hcalm hframe
  case cuts =>
    intro s p tag r i q ha ht hs hk hq _ hl hc
    obtain ⟨hdone, -⟩ := cutWith_completed (m := s.m.abortTaken r) St.abortedByRequest 0 0 hk hq hl
    have hsteady : s.m.Steady (((s.m.abortTaken r).cutShort i St.abortedByRequest).ok p (leBytes 4 0)) :=
      ((Mach.Steady.parts (.refl s.m) : s.m.Steady (s.m.abortTaken r)).cutWith i St.abortedByRequest 0 0).parts
    obtain ⟨hsent, hout⟩ := replies_ok p (leBytes 4 0) ((s.m.abortTaken r).cutShort i St.abortedByRequest)
    refine completes_onMail _ rfl (abortDecide_cuts ha ht hs) (hsteady.calm hc)
      ⟨⟨_, completed_of (b := s.m.abortTaken r) (fun _ => rfl) (fun _ => rfl) rfl rfl hdone, hsent, hout⟩, ?_⟩
    rw [same_q hout (by simp)]
    exact cutWith_aborts St.abortedByRequest 0 0 hk hq hl

end Sys2Proof.Machine

/-! Scatter lists (O27): the read of a list that is asked for once, and the three verdicts on what comes back (R109). -/

namespace Sys2Proof.Machine

/-! ### The list is asked for -/

theorem askList_sends {m : Mach} {i : Nat} {p : Port} (hp : (m.cmd i).port = some p) (hs : (m.cmd i).sglPending = false) :
    m.askList i = (m.setCmd i { m.cmd i with sglPending := true }).send (.listRead p (entDptr (m.cmd i).entry)) := by
  unfold Mach.askList
  dsimp only
  split
  · next q hq =>
    cases hp.symm.trans hq
    exact if_neg (by simp [hs])
  · next hnone => cases hp.symm.trans hnone

/-- A WRITE that needs a list, and may begin, asks for it first. -/
theorem writeRow_list {m : Mach} {i : Nat} (hf : m.fresh i opWrite = true) (hl : m.gln.level ≠ .exhausted)
    (hm : (m.volu (entVol (m.cmd i).entry)).mirrored = false) (hn : (m.cmd i).needsList = true) : m.writeRow i = m.askList i := by
  have hheld : m.heldForPartner (entVol (m.cmd i).entry) = false := by simp [Mach.heldForPartner, hm]
  unfold Mach.writeRow Mach.writeStart
  rw [if_pos hf]
  dsimp only
  rw [if_neg (by simpa using hl), if_neg (by simp [hheld]), if_pos hn]

theorem readRow_list {m : Mach} {i : Nat} (lost : List DramUser) (hf : m.fresh i opRead = true) (hn : (m.cmd i).needsList = true) :
    m.readRow i lost = m.askList i := by
  unfold Mach.readRow
  rw [if_neg (by simp [hf]), if_pos hn]

/-! ### The list comes back -/

section
variable {m : Mach} {i : Nat}

theorem listBack_unasked (ok : Bool) (l : List (BitVec 128)) (h : m.slotUsed i = false ∨ (m.cmd i).sglPending = false) :
    m.listBack i ok l = m := by
  unfold Mach.listBack
  exact if_pos (by rcases h with h | h <;> simp [h])

variable (hu : m.slotUsed i = true) (hs : (m.cmd i).sglPending = true)
include hu hs

theorem listBack_failed (l : List (BitVec 128)) : m.listBack i false l = m.complete i St.invalidField 0xFFFFFFFF 1 := by
  unfold Mach.listBack
  dsimp only
  rw [if_neg (by simp [hu, hs])]
  rfl

theorem listBack_kept {l xs : List (BitVec 128)} (h : sglOk (4096 * entCount (m.cmd i).entry) l = some xs) :
    m.listBack i true l = m.setCmd i { m.cmd i with sglPending := false, sgl := xs } := by
  unfold Mach.listBack
  dsimp only
  rw [if_neg (by simp [hu, hs]), if_neg (by simp), h]

theorem listBack_malformed {l : List (BitVec 128)} (h : sglOk (4096 * entCount (m.cmd i).entry) l = none) :
    m.listBack i true l = m.complete i St.invalidField 0xFFFFFFFF 0 := by
  unfold Mach.listBack
  dsimp only
  rw [if_neg (by simp [hu, hs]), if_neg (by simp), h]

end

/-! ### The obligation -/

/-- Settles O27: the request is one read, and each verdict on the list is one equation. -/
theorem scatterLists : Obligations.ScatterLists := by
  unfold Obligations.ScatterLists
  refine ⟨?asked, ?kept, ?refused, ?unasked⟩
  case asked =>
    intro s i p lost c hc hn hs hp
    have hframe : (s.m.askList i).cmd i = { s.m.cmd i with sglPending := true } ∧
        (∀ j : Nat, j ≠ i → (s.m.askList i).cmd j = s.m.cmd j) ∧
        (s.m.askList i).q = { s.m.q with cmd := (s.m.askList i).q.cmd } ∧
        s.m.Sent [.listRead p (entDptr (s.m.cmd i).entry)] (s.m.askList i) ∧ s.m.SameBut [.q, .out] (s.m.askList i) := by
      obtain ⟨hself, hothers, hq, -⟩ := setCmd_facts s.m i { s.m.cmd i with sglPending := true }
      rw [askList_sends hp hs]
      exact ⟨hself, hothers, hq, rfl, by simp [Mach.SameBut]⟩
    rcases hc with ⟨rfl, hf, hl, hm⟩ | ⟨rfl, hf⟩
    · exact completes_eq _ rfl (writeRow_list hf hl hm hn) hframe
    · exact completes_eq _ rfl (readRow_list lost hf hn) hframe
  case kept =>
    intro s i l xs hu hs hx
    exact completes_eq _ rfl (listBack_kept hu hs hx) (setCmd_facts ..)
  case refused =>
    intro s i q ok l hu hs hbad hp
    have hdone (d3 : Nat) := (complete_done s.m i St.invalidField 0xFFFFFFFF d3 q hp.kind hp.qid hp.loose).1
    cases ok with
    | false => exact completes_eq _ rfl (listBack_failed hu hs l) (hdone 1)
    | true => exact completes_eq _ rfl (listBack_malformed hu hs (by simpa using hbad)) (hdone 0)
  case unasked =>
    intro s i ok l h
    exact completes_eq _ rfl (listBack_unasked ok l h) rfl

end Sys2Proof.Machine

/-! FLUSH and DEALLOCATE (O29): a FLUSH waits for what it covers, and DEALLOCATE unmaps whole MUs and writes the rest as zeros (R120, R122,
R243, R248, R249). -/

namespace Sys2Proof.Machine

/-! ### FLUSH (R122) -/

/-- Nothing that waits for durability has all of it, and no answer is owed to the twin partner. -/
theorem settleCovers_waits {m : Mach} (hr : m.twn.rxWait = []) (h : ∀ j ∈ m.q.used, (m.cmd j).covering = false ∨ (m.cmd j).cover ≠ []) :
    m.settleCovers = m := by
  have hrx : m.settleRx = m := by
    unfold Mach.settleRx
    rw [hr]
    rfl
  have hnone : m.coveredSlots = [] := List.filter_eq_nil_iff.mpr fun j hj => by rcases h j hj with h | h <;> simp [h]
  unfold Mach.settleCovers
  dsimp only
  rw [hrx, hnone, each_nil']

/-- The machine in which the FLUSH of slot i waits for what it covers; one that has failed waits for nothing. -/
def Mach.flushing (i : Nat) (m : Mach) : Mach :=
  m.setCmd i { m.cmd i with stage := .running, covering := true, cover := if (m.cmd i).fails.isEmpty then (m.cmd i).cover else [] }

theorem flushing_cmd (m : Mach) (i : Nat) : (m.flushing i).cmd i = { m.cmd i with
    stage := .running, covering := true, cover := if (m.cmd i).fails.isEmpty then (m.cmd i).cover else [] } := Mach.cmd_setCmd_same ..

theorem flushing_others (m : Mach) {i j : Nat} (h : j ≠ i) : (m.flushing i).cmd j = m.cmd j := Mach.cmd_setCmd_ne _ _ _ _ h

section
variable {m : Mach} {i : Nat} (hf : m.fresh i opFlush = true) (hm : (m.volu (entVol (m.cmd i).entry)).mirrored = false) (ha : m.Alone i)
include hf hm

theorem flushRow_begins : m.flushRow i = ((m.flushing i).pushCovers i).settleCovers := by
  unfold Mach.flushRow Mach.flushStart
  rw [if_pos hf]
  dsimp only
  rw [if_neg (by simp [Mach.mirroring, hm])]
  dsimp only
  rw [List.append_nil]
  rfl

include ha

/-- A FLUSH that waits for nothing ends with its first failure, and where it has none with its partner's status (R122, R243). -/
theorem flushRow_completes {q : Fin 256} (hk : (m.cmd i).kind = .host) (hq : (m.cmd i).qid = some q) (hl : m.Loose i)
    (ht : (m.cmd i).todo = []) (hc : (m.cmd i).fails = [] → (m.cmd i).cover = []) :
    Mach.Completed i q (m.cmd i).finalStatus 0 0 m (m.flushRow i) := by
  have hself := flushing_cmd m i
  have hcover : ((m.flushing i).cmd i).cover = [] := by
    rw [hself]
    cases h : (m.cmd i).fails with
    | nil => exact hc h
    | cons x l => rfl
  have hpush : (m.flushing i).pushCovers i = m.flushing i := by
    unfold Mach.pushCovers
    rw [hcover, each_nil']
  have hopc : (entOpc ((m.flushing i).cmd i).entry == opDouse || entOpc ((m.flushing i).cmd i).entry == opPersist) = false := by
    rw [hself]
    dsimp only
    rw [(opc_fresh hf).1]
    rfl
  have hloose : (m.flushing i).Loose i := loose_on (fun _ => flushing_others m) (by rw [hself]) rfl hl
  rw [flushRow_begins hf hm, hpush, settle_one (m.flushing i) i ha.answers ha.nodup ha.used (by rw [hself]) hcover (by rw [hself]; exact ht)
    fun j hj => by rw [flushing_others m hj, ha.others j hj], hopc, hself]
  exact completed_on (fun _ => flushing_others m) (by rw [hself]) (by rw [hself]) (fun _ => rfl) rfl rfl
    (complete_done (m.flushing i) i (m.cmd i).finalStatus 0 0 q (by rw [hself]; exact hk) (by rw [hself]; exact hq) hloose).1

/-- A FLUSH that covers a deallocation record that is not durable waits for it (R122, R249). -/
theorem flushRow_waits {r : Nat} (hnofail : (m.cmd i).fails = []) (hc : (m.cmd i).cover = [.record r]) : m.flushRow i = m.flushing i := by
  have hcover : ((m.flushing i).cmd i).cover = [.record r] := by
    rw [flushing_cmd, hnofail, hc]
    rfl
  have hpush : (m.flushing i).pushCovers i = m.flushing i := by
    unfold Mach.pushCovers
    rw [hcover]
    rfl
  rw [flushRow_begins hf hm, hpush]
  refine settleCovers_waits ha.answers fun j _ => ?_
  by_cases hj : j = i
  · right
    rw [hj, hcover]
    simp
  · left
    rw [flushing_others m hj, ha.others j hj]

end

/-! ### A map entry becomes UNMAPPED (R248) -/

theorem validDown_want (f : Nat) (m : Mach) : (m.validDown f).hdl.want = m.hdl.want := by
  unfold Mach.validDown
  dsimp only
  split
  · unfold Mach.releaseFur Mach.endVictim Mach.putFur Mach.markTable
    exact (markSeg_same _ _).2
  · rfl

/-- A map entry that changes asks for no record. -/
theorem setEntry_want (m : Mach) (j : Nat) (e : BitVec 40) : (m.setEntry j e).hdl.want = m.hdl.want := by
  unfold Mach.setEntry
  dsimp only
  split
  · rfl
  · have hsegs := (markSegs_facts (mapSegsOf j) (m.updVol fun x => { x with map := SMap.set unmapped x.map j e })).2
    have hup (u : Mach) : (if isAddr e then u.validUp (u.furrowOfAddr e) else u).hdl.want = u.hdl.want := by
      split
      · rfl
      · rfl
    split
    · exact (validDown_want _ _).trans ((hup _).trans hsegs)
    · exact (hup _).trans hsegs

/-- What the UNMAPPED of an MU leaves: entry j reads UNMAPPED, every other as before, and the records asked for and the volumes stand. -/
structure Mach.Unmaps (j : Nat) (a b : Mach) : Prop where
  entry : b.entry j = unmapped
  others : ∀ k, k ≠ j → b.entry k = a.entry k
  want : b.hdl.want = a.hdl.want
  vols : ∀ v, b.volu v = a.volu v

theorem installAt_unmaps (m : Mach) (j wsn : Nat) : m.Unmaps j (m.installAt j wsn unmapped none) ∧
    m.SameBut [.vol, .gln, .hdl, .reg] (m.installAt j wsn unmapped none) := by
  obtain ⟨hentry, hvol, hsame⟩ := setEntry_facts (m.updVol fun x => { x with inst := SMap.set 0 x.inst j wsn }) j unmapped
  have hwant := setEntry_want (m.updVol fun x => { x with inst := SMap.set 0 x.inst j wsn }) j unmapped
  have hinstall : m.installAt j wsn unmapped none =
      ((m.updVol fun x => { x with inst := SMap.set 0 x.inst j wsn }).setEntry j unmapped).bump64 Reg.MAP_INSTALL_LO := by
    unfold Mach.installAt Mach.dropVers
    exact if_pos rfl
  rw [hinstall]
  generalize (m.updVol fun x => { x with inst := SMap.set 0 x.inst j wsn }).setEntry j unmapped = u at hentry hvol hsame hwant
  have hsee (k : Nat) : (u.bump64 Reg.MAP_INSTALL_LO).entry k = u.entry k := by simp [Mach.entry]
  refine ⟨⟨?_, fun k hk => ?_, ?_, fun v => ?_⟩, ?_⟩
  · rw [hsee, hentry, if_pos rfl]
  · rw [hsee, hentry, if_neg hk]
    rfl
  · rw [Mach.bump64_hdl]
    exact hwant
  · rw [Mach.bump64_volu]
    unfold Mach.volu
    rw [hvol]
    rfl
  · exact same_trans (b := m.updVol fun x => { x with inst := SMap.set 0 x.inst j wsn }) (by simp [Mach.SameBut])
      (same_trans hsame (by simp [Mach.SameBut]))

/-- With no map segment under recovery an MU's value goes to its entry. -/
theorem install_at {m : Mach} {v : Vid} {mu j : Nat} (wsn : Nat) (e : BitVec 40) (ver : Option Nat)
    (hj : entryIndex (m.volu v) (4 * mu) = some j) (hrecov : m.vol.recov = none) : m.install v mu wsn e ver = m.installAt j wsn e ver := by
  unfold Mach.install
  rw [hj]
  exact if_neg (by simp [Mach.installHeld, Mach.recovering, hrecov])

/-- An MU with no buffered version has none to discard. -/
theorem discardOlder_none {m : Mach} {v : Vid} {mu : Nat} (wsn rec : Nat) (h : ∀ x ∈ m.buf.vers, ¬ (x.vol = v ∧ x.mu = mu)) :
    m.discardOlder v mu wsn rec = m := by
  have hnone : (m.buf.vers.filter fun x => x.vol == v && x.mu == mu && decide (x.wsn < wsn) && x.st != .placed) = [] :=
    List.filter_eq_nil_iff.mpr fun x hx hmine => by
      simp only [Bool.and_eq_true, beq_iff_eq] at hmine
      obtain ⟨⟨hmu, -⟩, -⟩ := hmine
      exact h x hx hmu
  unfold Mach.discardOlder
  dsimp only
  rw [hnone]
  simp [Mach.updBuf]

/-! ### One whole MU (R120, R249) -/

theorem wholeMus_one (mu : Nat) : wholeMus (4 * mu) 4 = (mu, 1) := by
  unfold wholeMus
  rw [show (4 * mu + 3) / 4 = mu by omega, show (4 * mu + 4) / 4 - mu = 1 by omega]

theorem partialLbs_whole (mu : Nat) : partialLbs (4 * mu) 4 = [] := by
  unfold partialLbs
  refine List.filter_eq_nil_iff.mpr fun o ho => ?_
  rw [List.mem_range] at ho
  rw [wholeMus_one]
  simp
  omega

/-- One deallocation record names the MU and the WSN of its UNMAPPED. -/
theorem deallocMus_one (m : Mach) (v : Vid) (mu : Nat) : m.deallocMus v (4 * mu) 4 =
    (m.ask (.dealloc v mu 1 m.buf.wsn)).1.deallocMu v m.hdl.nextRec mu := by
  unfold Mach.deallocMus
  rw [wholeMus_one]
  rfl

theorem deallocMu_unmaps {m : Mach} {v : Vid} {mu j : Nat} (rec : Nat) (hj : entryIndex (m.volu v) (4 * mu) = some j)
    (hrecov : m.vol.recov = none) (hvers : ∀ x ∈ m.buf.vers, ¬ (x.vol = v ∧ x.mu = mu)) : m.Unmaps j (m.deallocMu v rec mu) ∧
    (m.deallocMu v rec mu).buf.wsn = m.buf.wsn + 1 ∧ m.SameBut [.vol, .gln, .hdl, .reg, .buf] (m.deallocMu v rec mu) := by
  generalize hu : (m.updBuf fun b => { b with wsn := m.buf.wsn + 1 }).touch .map = u
  have hsameu : m.SameBut [.reg, .buf] u := by
    rw [← hu]
    simp [Mach.SameBut]
  have hbuf : u.buf = { m.buf with wsn := m.buf.wsn + 1 } := by
    rw [← hu, Mach.touch_buf]
    rfl
  have hvol : u.vol = m.vol := same_vol hsameu (by simp)
  have hhdl : u.hdl = m.hdl := same_hdl hsameu (by simp)
  obtain ⟨⟨hentry, hothers, hwant, hvols⟩, hsame⟩ := installAt_unmaps u j m.buf.wsn
  have hbuf' : (u.installAt j m.buf.wsn unmapped none).buf = { m.buf with wsn := m.buf.wsn + 1 } := (same_buf hsame (by simp)).trans hbuf
  have hmu : m.deallocMu v rec mu = u.installAt j m.buf.wsn unmapped none := by
    unfold Mach.deallocMu
    dsimp only
    rw [hu, install_at _ _ _ (by rw [volu_of hvol]; exact hj) (by rw [hvol]; exact hrecov),
      discardOlder_none _ _ (by rw [hbuf']; exact hvers)]
  rw [hmu]
  refine ⟨⟨hentry, fun k hk => ?_, hwant.trans (by rw [hhdl]), fun v => (hvols v).trans (volu_of hvol v)⟩, by rw [hbuf'],
    same_trans (same_mono hsameu (by simp)) (same_mono hsame (by simp))⟩
  rw [hothers k hk]
  unfold Mach.entry
  rw [hvol]

/-! ### The beginning and the end of a DEALLOCATE -/

/-- The machine in which the DEALLOCATE of slot i has begun: the LBs of partial MUs are to do. -/
def Mach.deallocating (i : Nat) (m : Mach) : Mach :=
  m.setCmd i { m.cmd i with
    stage := if (wholeMus (entSlba (m.cmd i).entry) (entCount (m.cmd i).entry)).2 = 0 then .running else .committed
    todo := partialLbs (entSlba (m.cmd i).entry) (entCount (m.cmd i).entry) }

theorem deallocRow_begins {m : Mach} {i : Nat} (hf : m.fresh i opDealloc = true)
    (hm : (m.volu (entVol (m.cmd i).entry)).mirrored = false) : m.deallocRow i =
      ((((m.deallocating i).deallocMus (entVol (m.cmd i).entry) (entSlba (m.cmd i).entry) (entCount (m.cmd i).entry)).deallocLit
        (entVol (m.cmd i).entry) (entSlba (m.cmd i).entry) (entCount (m.cmd i).entry)).markWritten
        (entVol (m.cmd i).entry) (entSlba (m.cmd i).entry) (entCount (m.cmd i).entry)).deallocWork i := by
  have hheld : m.heldForPartner (entVol (m.cmd i).entry) = false := by simp [Mach.heldForPartner, hm]
  unfold Mach.deallocRow Mach.deallocStart
  rw [if_pos hf]
  dsimp only
  rw [if_neg (by simp [hheld]), twinOpen_unmirrored hm]
  rfl

/-- Outside the lamp regions no frame holds an LB of the range. -/
theorem deallocLit_none {m : Mach} {v : Vid} {slba n : Nat} (h : ∀ o, o < n → m.lampOf v (slba + o) = none) : m.deallocLit v slba n = m :=
  each_id _ _ _ fun o ho => by
    have hlamp := h o (List.mem_range.mp ho)
    rw [look_none _ _ _ hlamp]
    dsimp only
    rw [lit_none _ _ _ hlamp]

theorem deallocWork_done {m : Mach} {i : Nat} (h : (m.cmd i).todo = []) : m.deallocWork i = m.awaitPartner i := by
  unfold Mach.deallocWork
  dsimp only
  rw [h]
  exact if_pos (by rw [List.length_nil, Mach.deallocZeros, h]; rfl)

/-- A DEALLOCATE that has gone on to its end completes, as seen from the state in which it began. -/
theorem advances_deallocated {a b : Mach} {i : Fin 4096} {q : Fin 256} (h : a.Advances i b) (ho : entOpc (a.cmd i).entry = opDealloc)
    (hp : a.Plain i q) (ha : a.Alone i) (ht : (b.cmd i).todo = []) : Mach.Completed i q St.success 0 0 a (b.awaitPartner i) ∧
      (b.awaitPartner i).buf = (b.markCovered (b.cmd i).vers).buf ∧
      b.SameBut [.reg, .pff, .adm, .alm, .q, .buf, .fl, .twn, .free, .out] (b.awaitPartner i) := by
  obtain ⟨⟨st, vs, td, hself⟩, hothers, hq, htwn, hout⟩ := h
  obtain ⟨z, hend, hsame, hvers, hentry, hloose, hkind, hqid, hdone⟩ := dealloc_end a b i q ho ha.used hothers (by rw [hself])
    (by rw [hself]) (by rw [hself]; exact hp.kind) (by rw [hself]; exact hp.qid) (by rw [hself]; exact hp.fails)
    (by rw [hself]; exact hp.cover) (by rw [hself]; exact hp.xid) (by rw [hself]; exact hp.partner) ht (by rw [hself]) htwn
    (qp_of_qp (by rw [hq])) (by rw [hq]) hout hp.loose ha.answers ha.nodup ha.others
  rw [hend]
  refine ⟨hdone, ?_, same_trans (same_mono hsame (by simp)) (complete_done z i St.success 0 0 q hkind hqid hloose).2.1⟩
  rw [complete_buf z i St.success 0 0 hloose ⟨q, hqid⟩, if_pos (by simp [hentry, ho]), hvers]
  unfold Mach.markCovered
  rw [Mach.updBuf_buf, Mach.updBuf_buf, same_buf hsame (by simp)]

/-- The machine in which the DEALLOCATE of slot i has unmapped its one whole MU. -/
def Mach.unmapping (i mu : Nat) (m : Mach) : Mach :=
  ((m.deallocating i).ask (.dealloc (entVol (m.cmd i).entry) mu 1 m.buf.wsn)).1.deallocMu (entVol (m.cmd i).entry) m.hdl.nextRec mu

section
variable {m : Mach} {i mu j : Nat} (hslba : entSlba (m.cmd i).entry = 4 * mu) (hn : entCount (m.cmd i).entry = 4)
  (hj : entryIndex (m.volu (entVol (m.cmd i).entry)) (4 * mu) = some j) (hrecov : m.vol.recov = none)
  (hvers : ∀ x ∈ m.buf.vers, ¬ (x.vol = entVol (m.cmd i).entry ∧ x.mu = mu))
include hslba hn hj hrecov hvers

theorem unmapping_facts :
    (m.unmapping i mu).entry j = unmapped ∧ (∀ k, k ≠ j → (m.unmapping i mu).entry k = m.entry k) ∧
    (m.hdl.nextRec, HBody.dealloc (entVol (m.cmd i).entry) mu 1 m.buf.wsn) ∈ (m.unmapping i mu).hdl.want ∧
    (m.unmapping i mu).buf.wsn = m.buf.wsn + 1 ∧ (∀ v, (m.unmapping i mu).volu v = m.volu v) ∧ ((m.unmapping i mu).cmd i).todo = [] ∧
    m.Advances i (m.unmapping i mu) ∧ m.SameBut [.q, .vol, .gln, .hdl, .reg, .buf] (m.unmapping i mu) := by
  obtain ⟨⟨hentry, hothers, hwant, hvols⟩, hwsn, hsame⟩ :=
    deallocMu_unmaps (m := ((m.deallocating i).ask (.dealloc (entVol (m.cmd i).entry) mu 1 m.buf.wsn)).1) m.hdl.nextRec hj hrecov hvers
  have hq : (m.unmapping i mu).q = (m.deallocating i).q := (same_q hsame (by simp)).trans rfl
  have hself : (m.unmapping i mu).cmd i = { m.cmd i with stage := (if (wholeMus (4 * mu) 4).2 = 0 then .running else .committed), todo := [] } := by
    rw [cmd_of_q hq, Mach.deallocating, Mach.cmd_setCmd_same, hslba, hn, partialLbs_whole]
  refine ⟨hentry, hothers, ?_, hwsn, hvols, by rw [hself], ⟨⟨_, (m.cmd i).vers, _, hself⟩, fun k hk => ?_, ?_, ?_, ?_⟩, ?_⟩
  · exact hwant ▸ List.mem_append_right _ List.mem_cons_self
  · exact (cmd_of_q hq k).trans (Mach.cmd_setCmd_ne _ _ _ _ hk)
  · rw [hq]
    rfl
  · exact (same_twn hsame (by simp)).trans rfl
  · exact (same_out hsame (by simp)).trans rfl
  · exact same_trans (b := m.deallocating i) (by simp [Mach.SameBut, Mach.deallocating])
      (same_trans (b := ((m.deallocating i).ask (.dealloc (entVol (m.cmd i).entry) mu 1 m.buf.wsn)).1) (by simp [Mach.SameBut, Mach.ask])
        (same_mono hsame (by simp)))

theorem deallocRow_unmaps (hf : m.fresh i opDealloc = true) (hm : (m.volu (entVol (m.cmd i).entry)).mirrored = false)
    (hlamp : ∀ o, o < 4 → m.lampOf (entVol (m.cmd i).entry) (4 * mu + o) = none) : m.deallocRow i = (m.unmapping i mu).awaitPartner i := by
  obtain ⟨-, -, -, -, hvols, htodo, -, hsame⟩ := unmapping_facts hslba hn hj hrecov hvers
  have hmus : (m.deallocating i).deallocMus (entVol (m.cmd i).entry) (4 * mu) 4 = m.unmapping i mu := deallocMus_one ..
  rw [deallocRow_begins hf hm, hslba, hn, hmus, deallocLit_none, mark_none, deallocWork_done htodo]
  · rw [hvols]
    exact hm
  · intro o ho
    rw [lampOf_of (same_lamp hsame (by simp))]
    exact hlamp o ho

end

/-! ### One LB of a partial MU (R120, Table 12.3) -/

theorem wholeMus_none (slba : Nat) : (wholeMus slba 1).2 = 0 := by
  unfold wholeMus
  dsimp only
  omega

theorem partialLbs_one (slba : Nat) : partialLbs slba 1 = [0] := by
  unfold partialLbs wholeMus
  simp
  omega

theorem deallocMus_none {m : Mach} {v : Vid} {slba n : Nat} (h : (wholeMus slba n).2 = 0) : m.deallocMus v slba n = m := if_pos h

/-- The machine in which the DEALLOCATE of slot i has written its one zero LB. -/
def Mach.zeroing (i : Nat) (m : Mach) : Mach := (m.deallocating i).deallocZeros i 1

section
variable {m : Mach} {i : Nat} (hn : entCount (m.cmd i).entry = 1)
  (ho : m.openVer (entVol (m.cmd i).entry) (entSlba (m.cmd i).entry / 4) = none) (hroom : m.bufRoom = true)
include hn

theorem deallocating_one : (m.deallocating i).cmd i = { m.cmd i with stage := .running, todo := [0] } := by
  rw [Mach.deallocating, Mach.cmd_setCmd_same, hn, partialLbs_one, if_pos (wholeMus_none _)]

include ho hroom

/-- The zero LB opens a version under the next WSN. -/
theorem zeroing_facts :
    (m.zeroing i).buf.vers = m.buf.vers ++ [newVer m (entVol (m.cmd i).entry) (entSlba (m.cmd i).entry) 0
      (m.posFor (entVol (m.cmd i).entry) 0) false true] ∧
    (m.zeroing i).cmd i = { m.cmd i with vers := insertNat m.buf.nextId (m.cmd i).vers, stage := .committed, todo := [] } ∧
    m.Advances i (m.zeroing i) ∧ m.SameBut [.buf, .reg, .alm, .q] (m.zeroing i) := by
  obtain ⟨a, haccept, hsame, hvers, -, -⟩ := accept_open (m.deallocating i) (entVol (m.cmd i).entry) (entSlba (m.cmd i).entry) 0
    (m.posFor (entVol (m.cmd i).entry) 0) false true ho
  have hlb : (m.deallocating i).lbRoom (entVol (m.cmd i).entry) (entSlba (m.cmd i).entry) = true := by
    unfold Mach.lbRoom
    rw [show (m.deallocating i).bufRoom = true from hroom, Bool.or_true]
  have hmay : (m.deallocating i).mayAccept opDealloc (entVol (m.cmd i).entry) (entSlba (m.cmd i).entry) = true := by
    unfold Mach.mayAccept
    rw [hlb]
    rfl
  have hcmd : a.cmd i = { m.cmd i with stage := .running, todo := [0] } :=
    (cmd_of_q (same_q hsame (by simp)) i).trans (deallocating_one hn)
  have hzeros : m.zeroing i = (a.noteVersion i m.buf.nextId).nextLb i := by
    unfold Mach.zeroing Mach.deallocZeros
    dsimp only
    rw [deallocating_one hn]
    dsimp only
    rw [Nat.add_zero, makeRoom_room hlb, if_neg (by simp [hmay])]
    exact (congrArg (fun r : Mach × Nat => ((r.1.noteVersion i r.2).nextLb i).deallocZeros i 0) haccept).trans rfl
  rw [hzeros, accept_note, hcmd]
  have hself (x y : Cmd) : ((a.setCmd i x).setCmd i y).cmd i = y := Mach.cmd_setCmd_same ..
  refine ⟨hvers, hself _ _, ⟨⟨_, _, _, hself _ _⟩, fun j hj => ?_, ?_, (same_twn hsame (by simp)).trans rfl,
    (same_out hsame (by simp)).trans rfl⟩, ?_⟩
  · rw [Mach.cmd_setCmd_ne _ _ _ _ hj, Mach.cmd_setCmd_ne _ _ _ _ hj, cmd_of_q (same_q hsame (by simp))]
    exact Mach.cmd_setCmd_ne _ _ _ _ hj
  · rw [Mach.setCmd, Mach.setCmd, Mach.updQ_q, Mach.updQ_q, same_q hsame (by simp)]
    rfl
  · exact same_trans (b := m.deallocating i) (by simp [Mach.SameBut, Mach.deallocating])
      (same_trans (same_mono hsame (by simp)) (by simp [Mach.SameBut]))

theorem deallocRow_zeroes (hf : m.fresh i opDealloc = true) (hm : (m.volu (entVol (m.cmd i).entry)).mirrored = false)
    (hlamp : m.lampOf (entVol (m.cmd i).entry) (entSlba (m.cmd i).entry) = none) : m.deallocRow i = (m.zeroing i).awaitPartner i := by
  obtain ⟨-, hself, -, -⟩ := zeroing_facts hn ho hroom
  rw [deallocRow_begins hf hm, hn, deallocMus_none (wholeMus_none _), deallocLit_none, mark_none]
  · unfold Mach.deallocWork
    dsimp only
    rw [deallocating_one hn]
    exact if_pos (by rw [List.length_singleton, ← Mach.zeroing, hself]; rfl)
  · exact hm
  · intro o ho
    rw [Nat.lt_one_iff.mp ho]
    exact hlamp

end

theorem newVer_data (m : Mach) (v : Vid) (lba : Nat) (d : Block) (pos : Fin 8) (lw dl : Bool) :
    SMap.get 0 (newVer m v lba d pos lw dl).data (lba % 4) = d := SMap.get_set_same ..

/-- The mask of a version that holds one LB. -/
theorem setBit_one : ∀ k < 4, setBit (0 : BitVec 4) k true = BitVec.ofNat 4 (2 ^ k) := by decide

/-! ### The obligation -/

/-- Settles O29: a FLUSH by what is left of its cover, and a DEALLOCATE by its one whole MU or its one zero LB. -/
theorem hostFlushAndDeallocate : Obligations.HostFlushAndDeallocate := by
  unfold Obligations.HostFlushAndDeallocate
  refine ⟨?durable, ?waits, ?held, ?whole, ?zeros⟩
  case durable =>
    intro s i q hf hp ha ht hm
    have hstatus : (s.m.cmd i).finalStatus = St.success := by
      unfold Cmd.finalStatus
      rw [hp.fails]
      exact hp.partner
    have hdone := flushRow_completes hf hm ha hp.kind hp.qid hp.loose ht fun _ => hp.cover
    rw [hstatus] at hdone
    exact completes_eq _ rfl rfl hdone
  case waits =>
    intro s i r hf ha hnofail hc hm
    refine completes_eq _ rfl (flushRow_waits hf hm ha hnofail hc)
      ⟨?_, fun j hj => flushing_others s.m hj, rfl, by simp [Mach.SameBut, Mach.flushing]⟩
    rw [flushing_cmd, hnofail]
    rfl
  case held =>
    intro s i q hf ha hk hq hl hfail ht hm
    have hstatus : (s.m.cmd i).finalStatus = St.writeFault := by
      unfold Cmd.finalStatus
      rw [hfail]
    have hdone := flushRow_completes hf hm ha hk hq hl ht fun h => by simp [hfail] at h
    rw [hstatus] at hdone
    exact completes_eq _ rfl rfl hdone
  case whole =>
    intro s i q mu j hf hp ha hslba hn hm hlamp hj hrecov hvers
    obtain ⟨hentry, hothers, hwant, hwsn, -, htodo, hadv, -⟩ := unmapping_facts hslba hn hj hrecov hvers
    obtain ⟨hdone, hbuf, hsame⟩ := advances_deallocated hadv (opc_fresh hf).1 hp ha htodo
    have hvol := same_vol hsame (by simp)
    refine completes_eq _ rfl (deallocRow_unmaps hslba hn hj hrecov hvers hf hm hlamp) ⟨?_, fun k hk => ?_, ?_, ?_, hdone⟩
    · rw [Mach.entry, hvol]
      exact hentry
    · rw [Mach.entry, hvol]
      exact hothers k hk
    · rw [hbuf, markCovered_wsn, hwsn]
    · rw [same_hdl hsame (by simp)]
      exact hwant
  case zeros =>
    intro s i q hf hp ha hn hm hlamp ho hroom
    obtain ⟨hvers, hself, hadv, hsame⟩ := zeroing_facts hn ho hroom
    have htodo : ((s.m.zeroing i).cmd i).todo = [] := by rw [hself]
    obtain ⟨hdone, hbuf, hsame'⟩ := advances_deallocated hadv (opc_fresh hf).1 hp ha htodo
    have hmem : newVer s.m (entVol (s.m.cmd i).entry) (entSlba (s.m.cmd i).entry) 0 (s.m.posFor (entVol (s.m.cmd i).entry) 0) false true ∈
        (s.m.zeroing i).buf.vers := hvers ▸ List.mem_append_right _ List.mem_cons_self
    have hcovered := mem_markCovered (ids := ((s.m.zeroing i).cmd i).vers) hmem (by rw [hself, hp.vers]; exact List.mem_cons_self)
    rw [← hbuf] at hcovered
    refine completes_eq _ rfl (deallocRow_zeroes hn ho hroom hf hm hlamp) ⟨⟨_, hcovered, rfl, rfl, rfl,
      setBit_one _ (Nat.mod_lt _ (by decide)), ?_⟩, (same_vol hsame' (by simp)).trans (same_vol hsame (by simp)), hdone⟩
    dsimp only
    exact newVer_data ..

end Sys2Proof.Machine

/-! The security version floor (O60): the commands beside those of `exec_le` apply power, move RESET_N or load the test access port, and each
keeps SVFLOOR. -/

namespace Sys2Proof.Machine

theorem powerOn_svFloor (straps : BitVec 3) (m : Mach) : (m.powerOn straps).adm.svFloor = m.adm.svFloor := by
  have hreset : (m.deviceReset true 0).adm.svFloor = m.adm.svFloor := Mach.svFloor_of_sig (Mach.deviceReset_sig ..)
  unfold Mach.powerOn
  rw [Mach.svFloor_of_sig (Mach.bootGo_sig _)]
  split
  · exact (Mach.svFloor_of_sig (Mach.sampleStraps_sig ..)).trans hreset
  · exact hreset

theorem resetAssert_svFloor (m : Mach) : m.resetAssert.adm.svFloor = m.adm.svFloor := by
  unfold Mach.resetAssert
  dsimp only
  split
  · rfl
  · split
    · rfl
    · exact (Mach.svFloor_of_sig (Mach.resetRequest_sig ..)).trans rfl

theorem resetDeassert_svFloor (straps : BitVec 3) (m : Mach) : (m.resetDeassert straps).adm.svFloor = m.adm.svFloor := by
  unfold Mach.resetDeassert
  dsimp only
  split
  · rfl
  · split
    · rw [Mach.svFloor_of_sig (Mach.bootGo_sig _), Mach.svFloor_of_sig (Mach.sampleStraps_sig ..)]
      rfl
    · rfl

theorem tapLoad_adm (i : TapIr) (m : Mach) : (m.tapLoad i).adm = m.adm := by cases i <;> rfl

/-- A command whose meaning keeps SVFLOOR does not lower it. -/
theorem svFloor_le_on {s s' : State} {f : Mach → Mach} (h : s.on f = .next s') (hf : (f s.m).adm.svFloor = s.m.adm.svFloor) :
    s.m.adm.svFloor ≤ s'.m.adm.svFloor := by
  rw [eq_on h, hf]

/-- No command lowers SVFLOOR, whatever the state. -/
theorem exec_svFloor_le {c : Instr} {s s' : State} (h : exec c s = .next s') : s.m.adm.svFloor ≤ s'.m.adm.svFloor := by
  have htap (i : TapIr) : (s.m.tapLoad i).adm.svFloor = s.m.adm.svFloor := congrArg Admin.svFloor (tapLoad_adm i s.m)
  cases hc : changesSig c with
  | false => exact (exec_le h hc).2.2
  | true =>
    unfold changesSig at hc
    split at hc
    next => exact svFloor_le_on h (powerOn_svFloor ..)
    next => exact svFloor_le_on h (resetAssert_svFloor _)
    next => exact svFloor_le_on h (resetDeassert_svFloor ..)
    iterate 6 next => exact svFloor_le_on h (htap _)
    next => cases hc

/-- Settles O60: a step idles or runs the front command, and no command lowers the floor. -/
theorem stepNeverLowersTheSecurityFloor : Obligations.StepNeverLowersTheSecurityFloor := by
  unfold Obligations.StepNeverLowersTheSecurityFloor
  intro s t h
  unfold step at h
  split at h
  · cases h
    exact Nat.le_refl _
  · have hle := exec_svFloor_le h
    exact hle

end Sys2Proof.Machine

/-! The hitless switch (O21) fails in one clause: an activation whose port has been reset since it began ends without a word to that port
(Table 03.7), where the statement has its background status at 100 percent (R86). -/

namespace Sys2Proof.Machine

/-- Doorbells are paused for the switch to slot 1, which port 0 has asked for before it was reset. -/
def orphanSwitch : State :=
  { m := {
      dev := { st := .ioReady, stage := 10, fwRunning := true, loaded := true, formatted := true }
      adm := { hitless := some (1, true), bg := some { port := .p0, op := .activate 1, orphan := true } } } }

theorem orphanSwitch_calm : orphanSwitch.m.Calm := ⟨rfl, rfl, rfl⟩

/-- The switch's end leaves the background status of port 0 at 0 percent. -/
theorem orphanSwitch_percent : (orphanSwitch.m.hitlessReady.ctlRun.mailRun.port.get .p0).bgPct = 0 := by decide +kernel

/-- Refutes O21: in its clause on the new firmware being ready, the background status of the port that began the activation is said to go to
100 percent and the message to leave the part; where that port was reset meanwhile, the outcome goes to the health log and the Almanac. -/
theorem not_firmware : ¬ Obligations.Firmware := by
  unfold Obligations.Firmware
  rintro ⟨-, -, -, -, -, -, -, -, -, -, -, -, -, -, -, -, -, hready, -⟩
  obtain ⟨-, -, hport, -⟩ := of_completes (fun m => m.hitlessReady.ctlRun.mailRun) rfl
    (hready orphanSwitch 1 _ rfl rfl orphanSwitch_calm)
  exact absurd (orphanSwitch_percent.symm.trans (congrArg PortSt.bgPct hport)) (by decide)

end Sys2Proof.Machine

/-! IDENTIFY_CONTROLLER, GET_LOG_EXT and GET_FEATURE (O32): one equation for each answer, and the layout of the identity's 512 bytes (R132 to
R134, R136, Table 06.2). -/

namespace Sys2Proof.Machine

/-- A command of R63 whose payload has the length of its opcode has its effect when the mailbox takes it up. -/
theorem completes_early {c i : Instr} {s : State} {p : Port} {l : Nat} {P : Mach → Prop} (f : Mach → Mach)
    (hc : exec c s = s.on (Mach.mail i p l l true f)) (hup : s.m.mailboxUp p = true) (hP : P (f s.m)) : Completes c s P :=
  completes_eq _ hc (mail_open i p l l true f _ hup rfl (.inl rfl)) hP

/-! ### IDENTIFY_CONTROLLER (R132, Table 06.2) -/

theorem leBytes_zero (n : Nat) : leBytes n 0 = List.replicate n 0 := by
  induction n with
  | zero => rfl
  | succ n ih => rw [leBytes, Nat.zero_div, ih, List.replicate_succ]; rfl

/-- The identity begins with the vendor's number and the device's. -/
theorem identity_head (m : Mach) : ∃ r, m.identity = [0x51, 0x2C, 0x40, 0x71] ++ r := by
  have hvendor : leBytes 2 0x2C51 = [0x51, 0x2C] := rfl
  have hdevice : leBytes 2 0x7140 = [0x40, 0x71] := rfl
  unfold Mach.identity
  simp only [hvendor, hdevice, List.append_assoc, List.cons_append, List.nil_append]
  exact ⟨_, rfl⟩

/-- The answer is 512 bytes: the identity, then zeros. -/
theorem identify_eq (p : Port) (m : Mach) : ∃ b : List Byte, m.identify p = m.ok p b ∧ b.length = 512 ∧
    b.take 4 = [0x51, 0x2C, 0x40, 0x71] ∧ b.drop 0x72 = List.replicate 398 0 := by
  obtain ⟨r, hr⟩ := identity_head m
  refine ⟨_, rfl, ?_, ?_, ?_⟩
  · rw [List.length_append, identity_length, leBytes_length]
  · rw [hr, List.append_assoc]
    exact List.take_left' rfl
  · rw [List.drop_left' (identity_length m), leBytes_zero]

/-! ### GET_LOG_EXT (R133, R134) -/

/-- The part of a log from the offset on, as much of it as was asked for and as there is. -/
theorem getLogExt_part {m : Mach} (p : Port) {id sel off len : Nat} {b : List Byte} (hb : m.extLog id sel = some b) (h0 : 0 < len)
    (hmax : len ≤ 16384) (hoff : off < b.length) : m.getLogExt p id sel off len = (m.ok p ((b.drop off).take len)).draw := by
  unfold Mach.getLogExt
  rw [if_neg (by simp; omega), hb]
  exact if_neg (Nat.not_le.mpr hoff)

theorem getLogExt_refused {m : Mach} (p : Port) {id sel off len : Nat}
    (h : len = 0 ∨ 16384 < len ∨ m.extLog id sel = none ∨ ∃ b, m.extLog id sel = some b ∧ b.length ≤ off) :
    m.getLogExt p id sel off len = m.refuse p St.invalidField := by
  unfold Mach.getLogExt
  split
  · rfl
  · next hlen =>
    have hlog : m.extLog id sel = none ∨ ∃ b, m.extLog id sel = some b ∧ b.length ≤ off := by
      simp only [Bool.or_eq_true, decide_eq_true_eq, not_or] at hlen
      exact (h.resolve_left hlen.1).resolve_left hlen.2
    rcases hlog with hnone | ⟨b, hb, hoff⟩
    · rw [hnone]
    · rw [hb]
      exact if_pos hoff

/-! ### The obligation -/

/-- Settles O32: each command is taken up, and answers by its equation. -/
theorem adminReads : Obligations.AdminReads := by
  unfold Obligations.AdminReads
  refine ⟨?identity, ?length, ?log, ?noLog, ?feature, ?noFeature⟩
  case identity =>
    intro s p hup
    obtain ⟨b, hb, hlen, hhead, hzeros⟩ := identify_eq p s.m
    refine completes_early _ rfl hup ?_
    rw [hb]
    exact ⟨⟨b, (replies_ok ..).1, hlen, hhead, hzeros⟩, (replies_ok ..).2⟩
  case length =>
    intro s p len hup hlen
    exact completes_eq _ rfl (mail_len _ _ _ _ _ _ _ hup hlen) ⟨rfl, answer_same ..⟩
  case log =>
    intro s p id sel off len b hup hb h0 hmax hoff
    refine completes_early _ rfl hup ?_
    rw [getLogExt_part p hb h0 hmax hoff]
    exact replies_okd ..
  case noLog =>
    intro s p id sel off len hup h
    refine completes_early _ rfl hup ?_
    rw [getLogExt_refused p h]
    exact replies_no ..
  case feature =>
    intro s p fid sel a b hup h
    refine completes_early _ rfl hup ?_
    rw [Mach.getFeature, h]
    exact replies_ok ..
  case noFeature =>
    intro s p fid sel hup h
    refine completes_early _ rfl hup ?_
    rw [Mach.getFeature, h]
    exact replies_no ..

end Sys2Proof.Machine

/-! SET_FEATURE (O33): the features that are one stored number, and those with rules of their own, each with one equation for each outcome
(R136, R141, R143, R146, R294, R296, Table 06.6). -/

namespace Sys2Proof.Machine

/-! ### Reaching a feature -/

/-- A SET_FEATURE with a payload of the right length has the effect of its feature. -/
theorem completes_setFeature {s : State} {p : Port} {l fid sel v : Nat} {P : Mach → Prop} (hs : s.m.Serves p) (hl : l = featureLen fid)
    (hP : P (s.m.setFeature p fid sel v)) : Completes (.setFeature p l fid sel v) s P :=
  completes_eq _ rfl (mail_open _ p _ _ false _ _ hs.up hl (.inr (serves_ungated hs))) hP

section
variable {s : State} {p : Port} {c : Instr} {v sel : Nat} {P : Mach → Prop} (hs : s.m.Serves p)
include hs

/-- HOLDUP_US has a command of its own, with the same effect. -/
theorem completes_holdup (hc : c = .setHoldupUs p 12 v ∨ c = .setFeature p 12 3 sel v) (hP : P (s.m.setHoldup p v)) : Completes c s P := by
  rcases hc with rfl | rfl
  · exact completes_serves _ rfl hs hP
  · exact completes_setFeature hs rfl hP

/-- So has SERVICE_KEY. -/
theorem completes_serviceKey {k : BitVec 776} (hc : c = .setServiceKey p 101 k ∨ c = .setFeature p 101 9 sel k.toNat)
    (hP : P (s.m.setKey p k)) : Completes c s P := by
  rcases hc with rfl | rfl
  · exact completes_serves _ rfl hs hP
  · refine completes_setFeature hs rfl ?_
    change P (s.m.setKey p (BitVec.ofNat 776 k.toNat))
    rwa [BitVec.ofNat_toNat, BitVec.setWidth_eq]

/-- So has SV_COMMIT. -/
theorem completes_svCommit (hc : c = .setSvCommit p 12 v ∨ c = .setFeature p 12 0xA sel v) (hP : P (s.m.svCommit p v)) :
    Completes c s P := by
  rcases hc with rfl | rfl
  · exact completes_serves _ rfl hs hP
  · exact completes_setFeature hs rfl hP

/-- So has VOLUME_RO, whose selector is the volume. -/
theorem completes_volumeRo {vol : Vid} (hc : c = .setVolumeRo p 12 vol v ∨ c = .setFeature p 12 0x20 vol.val v)
    (hP : P (s.m.volumeRo p vol v)) : Completes c s P := by
  rcases hc with rfl | rfl
  · exact completes_serves _ rfl hs hP
  · refine completes_setFeature hs rfl ?_
    have hvol : s.m.setFeature p 0x20 vol.val v = s.m.volumeRo p vol v := dif_pos vol.isLt
    rwa [hvol]

end

/-! ### Stored numbers -/

/-- The features with rules of their own have no range in `featureOk`. -/
theorem featureOk_special {m : Mach} {fid v : Nat} (h : fid ∈ [3, 9, 0xA, 0x20]) : m.featureOk fid v = false := by
  simp only [List.mem_cons, List.not_mem_nil, or_false] at h
  rcases h with rfl | rfl | rfl | rfl <;> rfl

/-- Any other feature stores a value in range; PARTNER_LOST at 0 lets go on what waited for the partner (Table 17.5). -/
theorem setFeature_plain {m : Mach} {p : Port} {fid sel v : Nat} (h : fid ∉ [3, 9, 0xA, 0x20]) : m.setFeature p fid sel v =
    if !m.featureOk fid v then m.refuse p St.invalidField
    else (m.storeFeature p fid v).when (fid == 6 && v == 0) Mach.letUnmirrored := by
  unfold Mach.setFeature
  split
  iterate 4 next => simp at h
  next => rfl

theorem featureLen_plain {fid : Nat} (h : fid ∉ [3, 9, 0xA, 0x20]) : 12 = featureLen fid := by
  have h9 : fid ≠ 9 := by
    rintro rfl
    simp at h
  exact (if_neg h9).symm

theorem setFeature_refused {m : Mach} {p : Port} {fid sel v : Nat} (h : fid ∉ [3, 9, 0xA, 0x20]) (hv : m.featureOk fid v = false) :
    m.setFeature p fid sel v = m.refuse p St.invalidField := by
  rw [setFeature_plain h, hv]
  rfl

theorem setFeature_stored {m : Mach} {p : Port} {fid sel v : Nat} (h : fid ∉ [3, 9, 0xA, 0x20]) (hv : m.featureOk fid v = true)
    (h6 : ¬(fid = 6 ∧ v = 0)) : m.setFeature p fid sel v = m.storeFeature p fid v := by
  rw [setFeature_plain h, hv, Bool.not_true, if_neg Bool.false_ne_true]
  exact if_neg (by simpa using h6)

/-- What storing a value leaves: the value, and the record asked for. -/
theorem storeFeature_frame (m : Mach) (p : Port) (fid v : Nat) :
    (m.storeFeature p fid v).adm =
      { m.adm with nxt := m.adm.nxt.put fid v, now := if atOnce fid then m.adm.now.put fid v else m.adm.now } ∧
    m.AsksDefinition (.feature p) (m.storeFeature p fid v) ∧ m.SameBut [.adm, .hdl] (m.storeFeature p fid v) := by
  obtain ⟨hasks, hsame⟩ := asks (m.updAdm fun a => { a with
    nxt := a.nxt.put fid v, now := if atOnce fid then a.now.put fid v else a.now }) (.feature p)
  exact ⟨same_adm hsame (by simp), hasks, same_trans (by simp [Mach.SameBut]) (same_mono hsame (by simp))⟩

/-- With no command in a slot and no answer owed to the partner, nothing waits for a lost partner. -/
theorem letUnmirrored_idle {m : Mach} (hu : m.q.used = []) (hr : m.twn.rxWait = []) : m.letUnmirrored = m := by
  unfold Mach.letUnmirrored
  dsimp only
  rw [hu, each_nil', settleCovers_waits hr (by simp [hu])]

/-! ### HOLDUP_US (R294, R296) -/

/-- The machine under a new hold-up time: the budget of a capacitor-backed part follows at once. -/
def Mach.budgeted (v : Nat) (m : Mach) : Mach :=
  if m.adm.plm = 1 then
    m.updHdl fun h => { h with budget := m.budgetFor v, bufCap := bufCapFor (m.budgetFor v) (m.rdN Reg.LMP_DIRTYCAP) }
  else m

theorem budgeted_same (m : Mach) (v : Nat) : m.SameBut [.hdl] (m.budgeted v) := by
  unfold Mach.budgeted
  split <;> simp [Mach.SameBut]

theorem budgeted_waiters (m : Mach) (v : Nat) :
    (m.budgeted v).hdl.waiters = m.hdl.waiters ∧ (m.budgeted v).hdl.nextRec = m.hdl.nextRec := by
  unfold Mach.budgeted
  split <;> exact ⟨rfl, rfl⟩

theorem budgeted_budget {m : Mach} {v : Nat} (h : m.adm.plm = 1) : (m.budgeted v).hdl.budget = m.budgetFor v := by
  rw [Mach.budgeted, if_pos h]
  rfl

theorem budgeted_other {m : Mach} {v : Nat} (h : m.adm.plm ≠ 1) : m.budgeted v = m := if_neg h

theorem setHoldup_stored {m : Mach} (p : Port) {v : Nat} (h : m.holdupOk v = true) :
    m.setHoldup p v = (m.budgeted v).storeFeature p 3 v := by
  unfold Mach.setHoldup
  rw [h]
  rfl

theorem setHoldup_refused {m : Mach} (p : Port) {v : Nat} (h : m.holdupOk v = false) : m.setHoldup p v = m.refuse p St.invalidField := by
  unfold Mach.setHoldup
  rw [h]
  rfl

/-! ### SERVICE_KEY (R146) -/

theorem setKey_set {m : Mach} (p : Port) (k : BitVec 776) (h : m.adm.serviceKey ≠ none) : m.setKey p k = m.refuse p St.accessDenied :=
  if_pos (Option.isSome_iff_ne_none.mpr h)

/-- The first key on the curve is stored, and a key beside it is refused. -/
theorem setKey_first {m : Mach} (p : Port) (k : BitVec 776) (h : m.adm.serviceKey = none) : m.setKey p k =
    if Config.onCurve k then (m.updAdm fun a => { a with serviceKey := some k }).askDefinition (.feature p)
    else m.refuse p St.invalidField := by
  unfold Mach.setKey
  rw [h]
  cases Config.onCurve k <;> rfl

/-! ### SV_COMMIT (R143) -/

theorem svCommit_refused {m : Mach} (p : Port) {v : Nat}
    (h : v = 0 ∨ 63 < v ∨ v < m.adm.svFloor ∨ m.dev.recovery = true ∨ (m.slot m.dev.slot).img.sv < v) :
    m.svCommit p v = m.refuse p St.invalidField :=
  if_pos (by simpa [or_assoc] using h)

theorem svCommit_raises {m : Mach} (p : Port) {v : Nat} (h1 : 1 ≤ v) (h63 : v ≤ 63) (hfloor : m.adm.svFloor ≤ v)
    (hrec : m.dev.recovery = false) (himg : v ≤ (m.slot m.dev.slot).img.sv) :
    m.svCommit p v = (m.updAdm fun a => { a with svFloor := v }).ok p [] :=
  if_neg (by simp [hrec]; omega)

/-! ### VOLUME_RO (R141) -/

/-- A volume moves: to READ_ONLY from READY, or back where nothing keeps it there. -/
theorem volumeRo_moves {m : Mach} (p : Port) {vol : Vid} {v : Nat} {x : VolSt} (h : (v = 1 ∧ (m.volu vol).st = .ready ∧ x = .readOnly) ∨
    (v = 0 ∧ (m.volu vol).st = .readOnly ∧ m.stuckReadOnly = false ∧ x = .ready)) :
    m.volumeRo p vol v = (m.setVol vol { m.volu vol with st := x }).askDefinition (.feature p) := by
  unfold Mach.volumeRo
  rcases h with ⟨rfl, hst, rfl⟩ | ⟨rfl, hst, hfree, rfl⟩
  · simp [hst]
  · simp [hst, hfree]

theorem volumeRo_stuck {m : Mach} (p : Port) {vol : Vid} (hst : (m.volu vol).st = .readOnly) (hstuck : m.stuckReadOnly = true) :
    m.volumeRo p vol 0 = m.refuse p St.noSpace := by
  simp [Mach.volumeRo, hst, hstuck]

theorem volumeRo_refused {m : Mach} (p : Port) {vol : Vid} {v : Nat} (h1 : ¬(v = 1 ∧ (m.volu vol).st = .ready))
    (h0 : ¬(v = 0 ∧ (m.volu vol).st = .readOnly)) : m.volumeRo p vol v = m.refuse p St.invalidField := by
  unfold Mach.volumeRo
  dsimp only
  rw [if_neg (by simpa using h1), if_neg (by simpa using h0)]

/-! ### The obligation -/

/-- Settles O33: a stored number by one equation and its frame, and each feature with rules of its own by one equation for each outcome. -/
theorem setFeature : Obligations.SetFeature := by
  unfold Obligations.SetFeature
  refine ⟨?stored, ?range, ?holdup, ?holdupNo, ?partner, ?key, ?keySet, ?sv, ?svNo, ?volume, ?stuck, ?volumeNo⟩
  case stored =>
    intro s p fid sel v hs hv h6
    have hplain : fid ∉ [3, 9, 0xA, 0x20] := fun h => by simp [featureOk_special h] at hv
    refine completes_setFeature hs (featureLen_plain hplain) ?_
    rw [setFeature_stored hplain hv h6]
    exact storeFeature_frame ..
  case range =>
    intro s p fid sel v hs hv hplain
    refine completes_setFeature hs (featureLen_plain hplain) ?_
    rw [setFeature_refused hplain hv]
    exact replies_no ..
  case holdup =>
    intro s p v sel c hc hs hv
    refine completes_holdup hs hc ?_
    rw [setHoldup_stored p hv]
    obtain ⟨hadm, hasks, hsame⟩ := storeFeature_frame (s.m.budgeted v) p 3 v
    obtain ⟨hwaiters, hnext⟩ := budgeted_waiters s.m v
    have hbudget := budgeted_same s.m v
    refine ⟨?_, ?_, fun h1 => ?_, fun h1 => ?_, same_trans (same_mono hbudget (by simp)) hsame⟩
    · rw [hadm, same_adm hbudget (by simp)]
      rfl
    · rw [hasks, hwaiters, hnext]
    · rw [hasks, budgeted_budget h1]
    · rwa [budgeted_other h1] at hasks ⊢
  case holdupNo =>
    intro s p v sel c hc hs hv
    refine completes_holdup hs hc ?_
    rw [setHoldup_refused p hv]
    exact replies_no ..
  case partner =>
    intro s p sel hs hused hwait
    have hplain : 6 ∉ [3, 9, 0xA, 0x20] := by decide
    refine completes_setFeature hs rfl ?_
    obtain ⟨hadm, hasks, hsame⟩ := storeFeature_frame s.m p 6 0
    have hidle : (s.m.storeFeature p 6 0).letUnmirrored = s.m.storeFeature p 6 0 :=
      letUnmirrored_idle ((congrArg Queues.used (same_q hsame (by simp))).trans hused)
        ((congrArg Twin.rxWait (same_twn hsame (by simp))).trans hwait)
    have hset : s.m.setFeature p 6 sel 0 = s.m.storeFeature p 6 0 := (setFeature_plain hplain).trans hidle
    rw [hset]
    exact ⟨hadm, hasks, hsame⟩
  case key =>
    intro s p k sel c hc hs hnone
    refine completes_serviceKey hs hc ?_
    rw [setKey_first p k hnone]
    refine ⟨fun hk => ?_, fun hk => ?_⟩
    · rw [if_pos hk]
      obtain ⟨hasks, hsame⟩ := asks (s.m.updAdm fun a => { a with serviceKey := some k }) (.feature p)
      exact ⟨same_adm hsame (by simp), hasks, same_trans (by simp [Mach.SameBut]) (same_mono hsame (by simp))⟩
    · rw [if_neg (by simp [hk])]
      exact replies_no ..
  case keySet =>
    intro s p k sel c hc hs hset
    refine completes_serviceKey hs hc ?_
    rw [setKey_set p k hset]
    exact replies_no ..
  case sv =>
    intro s p v sel c hc hs h1 h63 hfloor hrec himg
    refine completes_svCommit hs hc ?_
    rw [svCommit_raises p h1 h63 hfloor hrec himg]
    obtain ⟨hreply, hsame⟩ := replies_ok p [] (s.m.updAdm fun a => { a with svFloor := v })
    exact ⟨same_adm hsame (by simp), hreply, same_trans (by simp [Mach.SameBut]) (same_mono hsame (by simp))⟩
  case svNo =>
    intro s p v sel c hc hs h
    refine completes_svCommit hs hc ?_
    rw [svCommit_refused p h]
    exact replies_no ..
  case volume =>
    intro s p vol v x c hc hs h
    refine completes_volumeRo hs hc ?_
    rw [volumeRo_moves p h]
    obtain ⟨hasks, hsame⟩ := asks (s.m.setVol vol { s.m.volu vol with st := x }) (.feature p)
    have hvol := same_vol hsame (by simp)
    refine ⟨(volu_of hvol vol).trans (Mach.volu_setVol_same ..), fun u hu => (volu_of hvol u).trans (Mach.volu_setVol_ne _ _ _ _ hu), ?_,
      hasks, same_trans (by simp [Mach.SameBut]) (same_mono hsame (by simp))⟩
    rw [hvol]
    rfl
  case stuck =>
    intro s p vol c hc hs hst hstuck
    refine completes_volumeRo hs hc ?_
    rw [volumeRo_stuck p hst hstuck]
    exact replies_no ..
  case volumeNo =>
    intro s p vol v c hc hs h1 h0
    refine completes_volumeRo hs hc ?_
    rw [volumeRo_refused p h1 h0]
    exact replies_no ..

end Sys2Proof.Machine

/-! SERVICE_UNLOCK (O34): one equation for each outcome of each phase, and what the lock-out records (R145, R146). -/

namespace Sys2Proof.Machine

/-! ### With and without a SERVICE_KEY -/

theorem withServiceKey_some {m : Mach} {p : Port} {f : BitVec 776 → Mach → Mach} {k : BitVec 776} (h : m.adm.serviceKey = some k) :
    m.withServiceKey p f = f k m := by
  rw [Mach.withServiceKey, h]

theorem withServiceKey_none {m : Mach} {p : Port} {f : BitVec 776 → Mach → Mach} (h : m.adm.serviceKey = none) :
    m.withServiceKey p f = m.refuse p St.accessDenied := by
  rw [Mach.withServiceKey, h]

/-- A phase has its effect where a SERVICE_KEY is set. -/
theorem completes_unlock {c i : Instr} {s : State} {p : Port} {l : Nat} {k : BitVec 776} {P : Mach → Prop} (f : BitVec 776 → Mach → Mach)
    (hc : exec c s = s.on (Mach.mail i p l l true (Mach.withServiceKey p f))) (hup : s.m.mailboxUp p = true)
    (hk : s.m.adm.serviceKey = some k) (hP : P (f k s.m)) : Completes c s P :=
  completes_early _ hc hup (by rwa [withServiceKey_some hk])

/-- And is refused where none is. -/
theorem completes_keyless {c i : Instr} {s : State} {p : Port} {l : Nat} (f : BitVec 776 → Mach → Mach)
    (hc : exec c s = s.on (Mach.mail i p l l true (Mach.withServiceKey p f))) (hup : s.m.mailboxUp p = true)
    (hk : s.m.adm.serviceKey = none) : Completes c s fun t => s.m.Replies p St.accessDenied [] t ∧ s.m.SameBut [.out] t :=
  completes_early _ hc hup (by rw [withServiceKey_none hk]; exact replies_no ..)

/-! ### PHASE 1: the signature -/

/-- The machine once a signature has been seen: the port's challenge is used up. -/
def Mach.challengeUsed (p : Port) (m : Mach) : Mach := m.updPort p fun x => { x with challenge := none }

theorem challengeUsed_port (p : Port) (m : Mach) :
    ((m.challengeUsed p).port.get p) = { m.port.get p with challenge := none } ∧
      ∀ q, q ≠ p → (m.challengeUsed p).port.get q = m.port.get q :=
  ⟨port_get_set .., fun _ hq => port_ne (a := m.port) rfl hq⟩

/-- The machine once a signature has verified: the port is unlocked, and the count of failures begins again. -/
def Mach.unlocks (p : Port) (m : Mach) : Mach :=
  ((m.challengeUsed p).updAdm fun a => { a with sigFails := 0 }).updPort p fun x => { x with unlocked := true }

theorem unlocks_port (p : Port) (m : Mach) :
    ((m.unlocks p).port.get p) = { m.port.get p with challenge := none, unlocked := true } ∧
      ∀ q, q ≠ p → (m.unlocks p).port.get q = m.port.get q := by
  obtain ⟨hself, hother⟩ := challengeUsed_port p m
  refine ⟨(port_get_set ..).trans ?_, fun q hq => (port_ne (a := (m.challengeUsed p).port) rfl hq).trans (hother q hq)⟩
  change { (m.challengeUsed p).port.get p with unlocked := true } = _
  rw [hself]

section
variable {m : Mach} (p : Port) (sig : BitVec 768) (k : BitVec 776) {c : BitVec 384}

theorem unlockSignature_unasked (h : (m.port.get p).challenge = none) : m.unlockSignature p sig k = m.refuse p St.accessDenied := by
  unfold Mach.unlockSignature
  rw [h]

theorem unlockSignature_locked (h : (m.port.get p).challenge = some c) (hl : m.adm.sigLocked = true ∨ 8 ≤ m.adm.sigFails) :
    m.unlockSignature p sig k = (m.challengeUsed p).refuse p St.accessDenied := by
  unfold Mach.unlockSignature
  rw [h]
  exact if_pos (by simpa using hl)

/-- Before the lock-out the signature over challenge and SERIAL decides. -/
theorem unlockSignature_checked (h : (m.port.get p).challenge = some c) (hl : m.adm.sigLocked = false) (h8 : m.adm.sigFails < 8) :
    m.unlockSignature p sig k =
      if Config.verifies k (leBytes 48 c.toNat ++ m.serialBytes) sig then (m.unlocks p).ok p []
      else ((m.challengeUsed p).updAdm fun a => { a with sigFails := a.sigFails + 1 }).refuse p St.accessDenied := by
  unfold Mach.unlockSignature
  rw [h]
  exact if_neg (by simpa [hl] using h8)

end

/-! ### The lock-out -/

theorem lockout_idle {m : Mach} (h : m.adm.sigFails < 8 ∨ m.adm.sigLocked = true) : m.lockout = m := if_pos (by simpa using h)

/-- The eighth failure in a row locks PHASE 1, and an event records it. -/
theorem lockout_locks {m : Mach} (h8 : 8 ≤ m.adm.sigFails) (hl : m.adm.sigLocked = false) :
    m.lockout = (m.updAdm fun a => { a with sigLocked := true }).devEvent .warn 0x010A 0 [] :=
  if_neg (by simpa [hl] using h8)

/-! ### The obligation -/

/-- Settles O34: each phase by its outcomes, with what it leaves of the port and of the count of failures. -/
theorem serviceUnlock : Obligations.ServiceUnlock := by
  unfold Obligations.ServiceUnlock
  refine ⟨?challenge, ?signature, ?locked, ?unasked, ?lockout, ?quiet, ?relock, ?keyless⟩
  case challenge =>
    intro s p hup hkey
    obtain ⟨k, hk⟩ := Option.ne_none_iff_exists'.mp hkey
    refine completes_unlock _ rfl hup hk ⟨⟨Config.random384 s.m.free, port_get_set .., rfl⟩, fun q hq => ?_, ?_⟩
    · exact port_ne (a := s.m.port) rfl hq
    · exact same_trans (b := s.m.draw.updPort p _) (by simp [Mach.SameBut]) (same_mono (replies_ok ..).2 (by simp))
  case signature =>
    intro s p sig k c hup hk hc hl h8
    obtain ⟨hself, hother⟩ := challengeUsed_port p s.m
    obtain ⟨huself, huother⟩ := unlocks_port p s.m
    refine completes_unlock _ rfl hup hk ?_
    rw [unlockSignature_checked p sig k hc hl h8]
    cases hv : Config.verifies k (leBytes 48 c.toNat ++ s.m.serialBytes) sig with
    | true =>
      refine ⟨fun _ => ⟨huself, rfl, rfl⟩, fun h => absurd h (by decide), huother, ?_⟩
      exact same_trans (b := s.m.unlocks p) (by simp [Mach.SameBut, Mach.unlocks, Mach.challengeUsed])
        (same_mono (replies_ok ..).2 (by simp))
    | false =>
      refine ⟨fun h => absurd h (by decide), fun _ => ⟨hself, rfl, rfl⟩, hother, ?_⟩
      exact same_trans (b := (s.m.challengeUsed p).updAdm _) (by simp [Mach.SameBut, Mach.challengeUsed])
        (same_mono (replies_no ..).2 (by simp))
  case locked =>
    intro s p sig k c hup hk hc hl
    refine completes_unlock _ rfl hup hk ?_
    rw [unlockSignature_locked p sig k hc hl]
    refine ⟨(challengeUsed_port p s.m).1, rfl, ?_⟩
    exact same_trans (b := s.m.challengeUsed p) (by simp [Mach.SameBut, Mach.challengeUsed]) (same_mono (replies_no ..).2 (by simp))
  case unasked =>
    intro s p sig hup hkey hc
    obtain ⟨k, hk⟩ := Option.ne_none_iff_exists'.mp hkey
    refine completes_unlock _ rfl hup hk ?_
    rw [unlockSignature_unasked p sig k hc]
    exact replies_no ..
  case lockout =>
    intro s h8 hl
    refine completes_eq _ rfl (lockout_locks h8 hl) ?_
    have hrec := recorded_devEvent (s.m.updAdm fun a => { a with sigLocked := true }) .warn 0x010A 0 []
    exact ⟨hrec.adm, same_trans (by simp [Mach.SameBut]) hrec.same⟩
  case quiet =>
    intro s h
    exact completes_eq _ rfl (lockout_idle h) rfl
  case relock =>
    intro s p hup hkey
    obtain ⟨k, hk⟩ := Option.ne_none_iff_exists'.mp hkey
    refine completes_unlock _ rfl hup hk ⟨port_get_set .., fun q hq => port_ne (a := s.m.port) rfl hq, rfl, ?_⟩
    exact same_trans (b := s.m.updPort p _) (by simp [Mach.SameBut]) (same_mono (replies_ok ..).2 (by simp))
  case keyless =>
    intro s p sig c hc hup hnone
    rcases hc with rfl | rfl | rfl
    · exact completes_keyless _ rfl hup hnone
    · exact completes_keyless _ rfl hup hnone
    · exact completes_keyless _ rfl hup hnone

end Sys2Proof.Machine

/-! LIGHT of one page (O30): the command begins, its page is marked by the state that it is in, a value at hand is filled in, and the command
ends with what its page came to (R154, R158). -/

namespace Sys2Proof.Machine

/-! ### What settles the command -/

/-- A completion of a command whose work was dropped tells what it would have told before. -/
theorem Mach.Trims.tells {s : Nat} {a b c : Mach} {q : Fin 256} {st d2 d3 : Nat} (h : a.Trims s b) (hdone : b.Completed s q st d2 d3 c) :
    a.Completed s q st d2 d3 c :=
  completed_on h.others h.entry h.sqhd (qp_of_qp (by rw [h.rest])) (by rw [h.rest]) (same_out h.same (by simp)) hdone

theorem finalStatus_failed {c : Cmd} {off st : Nat} {l : List (Nat × Nat)} (h : c.fails = (off, st) :: l) : c.finalStatus = st := by
  unfold Cmd.finalStatus
  rw [h]

theorem finalStatus_success {c : Cmd} (hf : c.fails = []) (hp : c.partnerStatus = St.success) : c.finalStatus = St.success := by
  unfold Cmd.finalStatus
  rw [hf]
  exact hp

/-- A host's LIGHT whose every page is settled completes, as seen from the state before its pages settled; the lamp window is that of a
machine w in which only pending lights and frames with nothing lit have been looked at again. -/
theorem lightDone_tells {a b : Mach} {i st n : Nat} {q : Fin 256} (h : a.Trims i b) (hp : a.Plain i q) (ht : (b.cmd i).todo = [])
    (hst : (b.cmd i).finalStatus = st) (hn : (b.cmd i).done = n) :
    ∃ w, LampQuiet b w ∧ (b.lightDone i).lamp = w.lamp ∧ a.Completed i q st n 0 (b.lightDone i) := by
  obtain ⟨w, hquiet, -, hdone, hlamp⟩ := lightDone_done b i q (h.kind.trans hp.kind) (h.qid.trans hp.qid)
    (loose_on h.others h.wait (same_twn h.same (by simp)) hp.loose) ht
  rw [hst, hn] at hdone
  exact ⟨w, hquiet, hlamp, h.tells hdone⟩

/-! ### The page is marked -/

section
variable {m : Mach} {i off k p : Nat} (hpage : m.cmdPage i off = some (k, p))
include hpage

theorem lightMark_lit (h : ((m.desc k).state p).isLit = true) : m.lightMark i off = m.lntUpdate k false := by
  unfold Mach.lightMark
  rw [hpage]
  dsimp only
  cases hst : (m.desc k).state p with
  | lit => rfl
  | litDirty => rfl
  | persisting => rfl
  | dark => simp [hst, PageLamp.isLit] at h
  | lighting => simp [hst, PageLamp.isLit] at h
  | dousing => simp [hst, PageLamp.isLit] at h
  | tainted => simp [hst, PageLamp.isLit] at h

theorem lightMark_tainted (h : (m.desc k).state p = .tainted) :
    m.lightMark i off = (m.lntUpdate k false).failLb i off St.poisonedMu := by
  unfold Mach.lightMark
  rw [hpage]
  dsimp only
  rw [h]

theorem lightMark_dark (h : (m.desc k).state p = .dark) : m.lightMark i off =
    (m.putDesc k { m.desc k with pendl := setBit (m.desc k).pendl (p / 4) true }).setCmd i
      { m.cmd i with todo := (m.cmd i).todo ++ [off] } := by
  unfold Mach.lightMark
  rw [hpage]
  dsimp only
  rw [h]

end

/-! ### The command begins -/

/-- The machine in which the LIGHT of slot i has begun and has looked at none of its pages. -/
def Mach.lightBegun (i : Nat) (m : Mach) : Mach := m.setCmd i { m.cmd i with stage := .running, todo := [] }

theorem lightBegun_cmd (m : Mach) (i : Nat) : (m.lightBegun i).cmd i = { m.cmd i with stage := .running, todo := [] } :=
  Mach.cmd_setCmd_same ..

theorem lightBegun_page (m : Mach) (i off : Nat) : (m.lightBegun i).cmdPage i off = m.cmdPage i off := by
  unfold Mach.cmdPage
  rw [lightBegun_cmd]
  rfl

theorem lightBegun_trims (m : Mach) (i : Nat) : m.Trims i (m.lightBegun i) := .setCmd m rfl rfl rfl rfl rfl

theorem lightRow_refused {m : Mach} {i : Nat} (hf : m.fresh i opLight = true) (hr : m.cmdInRegion i = false) :
    m.lightRow i [] = m.lightRefuse i St.invalidField := by
  unfold Mach.lightRow
  rw [if_pos hf]
  exact if_pos (by simp [Mach.readLost, each_nil', hr])

section
variable {m : Mach} {i k p : Nat} (hf : m.fresh i opLight = true) (hk : (m.cmd i).kind = .host) (hr : m.cmdInRegion i = true)
  (hn : entCount (m.cmd i).entry = 1) (hpage : m.cmdPage i 0 = some (k, p)) (hframe : (m.desc k).frame ≠ none)
include hf hk hr hn hpage hframe

/-- A host's LIGHT of one page, of a block that has a frame, marks its page and seeks the value that it then lacks. -/
theorem lightRow_one {u : Mach} (hu : (m.lightBegun i).lightMark i 0 = u) :
    m.lightRow i [] = (u.each (u.cmd i).todo fun off m => m.lightRead i off).lightDone i := by
  have hneed : (m.cmdBlocks i).filter (fun k => (m.desc k).frame.isNone) = [] := by
    rw [cmdBlocks_one m i k p hn hpage]
    simpa using hframe
  unfold Mach.lightRow Mach.lightStart
  rw [if_pos hf, show m.readLost i [] = m from rfl]
  dsimp only
  rw [if_neg (by simp [hr]), if_neg (by simp [hk]), hneed, if_neg (by simp), each_nil', ← Mach.lightBegun, hn, List.range_one,
    each_cons, each_nil', hu]

/-- A page that asks for nothing leaves the LIGHT to its end. -/
theorem lightRow_settled {u : Mach} (hu : (m.lightBegun i).lightMark i 0 = u) (ht : (u.cmd i).todo = []) :
    m.lightRow i [] = u.lightDone i := by
  rw [lightRow_one hf hk hr hn hpage hframe hu, ht, each_nil']

end

/-! ### A lit and a tainted page -/

section
variable {m : Mach} {i k p : Nat} {q : Fin 256} (hf : m.fresh i opLight = true) (hp : m.Plain i q) (hr : m.cmdInRegion i = true)
  (hn : entCount (m.cmd i).entry = 1) (hpage : m.cmdPage i 0 = some (k, p)) (hframe : (m.desc k).frame ≠ none)
include hf hp hr hn hpage hframe

/-- A page that is lit stands, and the command completes with nothing done. -/
theorem lightRow_lit (hst : ((m.desc k).state p).isLit = true) :
    (((m.lightRow i []).desc k).lit = (m.desc k).lit ∧ ((m.lightRow i []).desc k).dirty = (m.desc k).dirty) ∧
    (m.lightRow i []).lamp.line = m.lamp.line ∧ m.Completed i q St.success 0 0 (m.lightRow i []) := by
  have hmark := lightMark_lit ((lightBegun_page m i 0).trans hpage) (k := k) (p := p) hst
  have hlook := quiet_lnt (m.lightBegun i) k false
  have hcmd := (cmd_of_q (same_q hlook.same (by simp)) i).trans (lightBegun_cmd m i)
  have hrow := lightRow_settled hf hp.kind hr hn hpage hframe hmark (by rw [hcmd])
  obtain ⟨w, hquiet, hlamp, hdone⟩ := lightDone_tells (st := St.success) (n := 0) ((lightBegun_trims m i).trans (.of_same hlook.same)) hp
    (by rw [hcmd]) (by rw [hcmd]; exact finalStatus_success hp.fails hp.partner) (by rw [hcmd]; exact hp.done)
  rw [hrow]
  have hdesc : (((m.lightBegun i).lntUpdate k false).lightDone i).desc k = w.desc k := desc_of_lamp hlamp k
  refine ⟨?_, ?_, hdone⟩
  · rw [hdesc]
    exact ⟨(hquiet.lit k).trans (hlook.lit k), (hquiet.dirty k).trans (hlook.dirty k)⟩
  · rw [hlamp]
    exact hquiet.line.trans hlook.line

/-- A tainted page fails the command with POISONED_MU. -/
theorem lightRow_tainted (hst : (m.desc k).state p = .tainted) : m.Completed i q St.poisonedMu 0 0 (m.lightRow i []) := by
  have hmark := lightMark_tainted ((lightBegun_page m i 0).trans hpage) (k := k) (p := p) hst
  have hlook := quiet_lnt (m.lightBegun i) k false
  have hbegun := (cmd_of_q (same_q hlook.same (by simp)) i).trans (lightBegun_cmd m i)
  have hcmd : (((m.lightBegun i).lntUpdate k false).failLb i 0 St.poisonedMu).cmd i =
      { m.cmd i with stage := .running, todo := [], fails := [(0, St.poisonedMu)] } := by
    unfold Mach.failLb
    rw [Mach.cmd_setCmd_same, hbegun]
    dsimp only
    rw [hp.fails]
    rfl
  have hfail : ((m.lightBegun i).lntUpdate k false).Trims i (((m.lightBegun i).lntUpdate k false).failLb i 0 St.poisonedMu) :=
    .setCmd _ rfl rfl rfl rfl rfl
  obtain ⟨-, -, -, hdone⟩ := lightDone_tells (st := St.poisonedMu) (n := 0) (((lightBegun_trims m i).trans (.of_same hlook.same)).trans hfail)
    hp (by rw [hcmd]) (by rw [hcmd]; exact finalStatus_failed rfl) (by rw [hcmd]; exact hp.done)
  rwa [lightRow_settled hf hp.kind hr hn hpage hframe hmark (by rw [hcmd])]

end

/-! ### A dark page -/

/-- What a read of the buffer and the map depends on. -/
theorem storedSrc_of {a b : Mach} (hbuf : b.buf = a.buf) (hvol : b.vol = a.vol) (v : Vid) (lba : Nat) : b.storedSrc v lba = a.storedSrc v lba := by
  unfold Mach.storedSrc Mach.verOf Mach.versAt Mach.mapSrc Mach.superseded Mach.installed Mach.recovering Mach.entry Mach.volu
  rw [hbuf, hvol]

theorem lightRead_zero {m : Mach} {i off : Nat} (h : m.storedSrc (entVol (m.cmd i).entry) (entSlba (m.cmd i).entry + off) = .zero) :
    m.lightRead i off = m.fillNow i off 0 := by
  unfold Mach.lightRead
  dsimp only
  rw [h]

/-- The machine in which the LIGHT of slot i has marked the one page p of block k that it is to light. -/
def Mach.lightMarked (i k p : Nat) (m : Mach) : Mach :=
  ((m.lightBegun i).putDesc k { m.desc k with pendl := setBit (m.desc k).pendl (p / 4) true }).setCmd i
    { m.cmd i with stage := .running, todo := [0] }

theorem lightMarked_cmd (m : Mach) (i k p : Nat) : (m.lightMarked i k p).cmd i = { m.cmd i with stage := .running, todo := [0] } :=
  Mach.cmd_setCmd_same ..

theorem desc_putDesc_same (m : Mach) (k : Nat) (d : Desc) : (m.putDesc k d).desc k = d := by
  unfold Mach.putDesc Mach.desc
  rw [lnt_lamp]
  exact SMap.get_set_same ..

theorem putDesc_line (m : Mach) (k : Nat) (d : Desc) : (m.putDesc k d).lamp.line = m.lamp.line := by
  unfold Mach.putDesc
  rw [lnt_lamp]
  rfl

theorem lightMarked_frame (m : Mach) (i k p : Nat) :
    (m.lightMarked i k p).desc k = { m.desc k with pendl := setBit (m.desc k).pendl (p / 4) true } ∧
    (∀ j, j ≠ i → (m.lightMarked i k p).cmd j = m.cmd j) ∧ (m.lightMarked i k p).lamp.line = m.lamp.line ∧
    m.SameBut [.q, .lamp, .reg] (m.lightMarked i k p) := by
  unfold Mach.lightMarked
  generalize ({ m.desc k with pendl := setBit (m.desc k).pendl (p / 4) true } : Desc) = d
  have hput := putDesc_same (m.lightBegun i) k d
  refine ⟨desc_putDesc_same (m.lightBegun i) k d, fun j hj => ?_, putDesc_line (m.lightBegun i) k d, ?_⟩
  · rw [Mach.cmd_setCmd_ne _ _ _ _ hj, cmd_of_q (same_q hput (by simp))]
    exact Mach.cmd_setCmd_ne _ _ _ _ hj
  · exact same_trans (b := m.lightBegun i) (by simp [Mach.SameBut, Mach.lightBegun])
      (same_trans (same_mono hput (by simp)) (by simp [Mach.SameBut]))

/-- A dark page whose value is zero begins lighting: that value is to be filled in, and the command waits for its 64 line writes. -/
theorem lightRow_dark {m : Mach} {i k p : Nat} (hf : m.fresh i opLight = true) (hk : (m.cmd i).kind = .host) (hr : m.cmdInRegion i = true)
    (hn : entCount (m.cmd i).entry = 1) (hpage : m.cmdPage i 0 = some (k, p)) (hframe : (m.desc k).frame ≠ none)
    (hst : (m.desc k).state p = .dark) (hsrc : m.storedSrc (entVol (m.cmd i).entry) (entSlba (m.cmd i).entry) = .zero) :
    m.lightRow i [] = (m.lightMarked i k p).fillNow i 0 0 := by
  have hmark : (m.lightBegun i).lightMark i 0 = m.lightMarked i k p := by
    rw [lightMark_dark ((lightBegun_page m i 0).trans hpage) hst, lightBegun_cmd]
    rfl
  have hcmd := lightMarked_cmd m i k p
  obtain ⟨-, -, -, hsame⟩ := lightMarked_frame m i k p
  rw [lightRow_one hf hk hr hn hpage hframe hmark]
  generalize m.lightMarked i k p = u at hcmd hsame
  have hread : u.lightRead i 0 = u.fillNow i 0 0 := by
    refine lightRead_zero ?_
    rw [storedSrc_of (same_buf hsame (by simp)) (same_vol hsame (by simp)), hcmd]
    exact hsrc
  have htodo : ((u.fillNow i 0 0).cmd i).todo = [0] := by
    change (u.cmd i).todo = [0]
    rw [hcmd]
  rw [hcmd]
  dsimp only
  rw [each_cons, each_nil', hread]
  exact if_pos (by rw [htodo]; rfl)

/-- A lamp page lies within its block. -/
theorem cmdPage_lt {m : Mach} {i off k p : Nat} (h : m.cmdPage i off = some (k, p)) : p < 512 := by
  unfold Mach.cmdPage Mach.lampOf at h
  obtain ⟨r, -, hr⟩ := Option.map_eq_some_iff.mp h
  cases hr
  exact Nat.mod_lt _ (by decide)

/-- A dark page of which a light is pending is lighting. -/
theorem state_pendl {d : Desc} {p : Nat} (h : d.state p = .dark) (hp : p < 512) :
    ({ d with pendl := setBit d.pendl (p / 4) true } : Desc).state p = .lighting := by
  have hbit := setBit_self d.pendl (p / 4) (by omega)
  unfold Desc.state at h ⊢
  split at h
  · cases h
  · next hall =>
    split at h
    · split at h
      · cases h
      · split at h <;> cases h
    · next hlit =>
      split at h
      · cases h
      · next hdirty => simp [hall, hlit, hdirty, hbit]

/-! ### The 64 line writes (R158) -/

theorem setBit_cleared {w : Nat} (x : BitVec w) (i : Nat) : (setBit x i false).getLsbD i = false := by
  unfold setBit
  rw [if_neg (by simp), BitVec.getLsbD_and, BitVec.getLsbD_not, BitVec.getLsbD_ofNat, Nat.testBit_two_pow_self]
  simp

theorem lbFill_none {m : Mach} {task : Nat} (h : m.fl.fills.find? (fun y => y.task == task) = none) : m.lbFill task = m := by
  unfold Mach.lbFill
  rw [h]

/-- The machine in which the value of one task is no longer to be filled in. -/
def Mach.fillTaken (task : Nat) (m : Mach) : Mach := m.updFl fun f => { f with fills := f.fills.filter fun y => y.task != task }

theorem lbFill_found {m : Mach} {x : Fill} (h : m.fl.fills.find? (fun y => y.task == x.task) = some x) :
    m.lbFill x.task = (m.fillTaken x.task).lightFill x := by
  unfold Mach.lbFill
  rw [h]
  rfl

/-- The last page of a LIGHT is lit and clean with its value, and the command completes with one page done. -/
theorem lightFill_lights {m : Mach} {x : Fill} {q : Fin 256} {k p f : Nat} (hpage : m.cmdPage x.slot x.off = some (k, p))
    (hframe : (m.desc k).frame = some f) (hst : (m.desc k).state p = .lighting) (hp : m.Plain x.slot q)
    (ht : (m.cmd x.slot).todo = [x.off]) :
    (∀ l, l < 64 → SMap.get 0 (m.lightFill x).lamp.line (lineKey f p l) = (x.data >>> (512 * l)).setWidth 512) ∧
    ((m.lightFill x).desc k).lit.getLsbD p = true ∧ ((m.lightFill x).desc k).dirty.getLsbD p = false ∧
    m.Completed x.slot q St.success 1 0 (m.lightFill x) := by
  obtain ⟨v, y, hfill, hlines, hdesc, -, -, hsame, hqueues, hcmd, hothers, hcheck⟩ := lightFill_steps m x k p f hpage hframe hst
  have hv : m.Trims x.slot v := ⟨by rw [hcmd], by rw [hcmd], by rw [hcmd], by rw [hcmd], by rw [hcmd], hothers, hqueues, hsame⟩
  have hself : (y.cmd x.slot) = { m.cmd x.slot with stage := .committed, done := 1, todo := [] } := by
    rw [cmd_of_q (same_q hcheck.same (by simp)), hcmd, hp.done, ht]
    simp
  obtain ⟨w, hquiet, hlamp, hdone⟩ := lightDone_tells (st := St.success) (n := 1) (hv.trans (.of_same hcheck.same)) hp (by rw [hself])
    (by rw [hself]; exact finalStatus_success hp.fails hp.partner) (by rw [hself])
  have hall := quiet_trans hcheck hquiet
  have hdesc' (j : Nat) : (y.lightDone x.slot).desc j = w.desc j := desc_of_lamp hlamp j
  rw [hfill]
  refine ⟨fun l hl => ?_, ?_, ?_, hdone⟩
  · rw [hlamp, hall.line]
    exact hlines l hl
  · rw [hdesc', hall.lit, hdesc]
    exact setBit_self _ _ (cmdPage_lt hpage)
  · rw [hdesc', hall.dirty, hdesc]
    exact setBit_cleared ..

/-! ### The obligation -/

/-- Settles O30: LIGHT by the state its one page is in, and the fill by the end of the command whose last page it lights. -/
theorem lightCommand : Obligations.LightCommand := by
  unfold Obligations.LightCommand
  refine ⟨?dark, ?fill, ?nofill, ?lit, ?tainted, ?outside⟩
  case dark =>
    intro s i k p f hf hk hr hn hpage hframe hst hsrc
    obtain ⟨hdesc, hothers, hline, hsame⟩ := lightMarked_frame s.m i k p
    refine completes_eq _ rfl (lightRow_dark hf hk hr hn hpage (by simp [hframe]) hst hsrc)
      ⟨?_, lightMarked_cmd .., hothers, ?_, hline,
        same_trans (same_mono hsame (by simp)) (by simp [Mach.SameBut, Mach.fillNow, Mach.addFill])⟩
    · exact (congrArg (·.state p) hdesc).trans (state_pendl hst (cmdPage_lt hpage))
    · unfold Mach.fillNow Mach.addFill
      rw [Mach.updFl_fl, Mach.updFl_fl, same_fl hsame (by simp)]
  case fill =>
    intro s x q k p f hfind hpage hframe hst hp ht
    obtain ⟨hlines, hlit, hdirty, hdone⟩ := lightFill_lights (m := s.m.fillTaken x.task) hpage hframe hst
      ⟨hp.kind, hp.qid, hp.fails, hp.cover, hp.vers, hp.xid, hp.partner, hp.done, hp.rebuilt, hp.loose⟩ ht
    exact completes_eq _ rfl (lbFill_found hfind)
      ⟨hlines, hlit, hdirty, completed_of (b := s.m.fillTaken x.task) (fun _ => rfl) (fun _ => rfl) rfl rfl hdone⟩
  case nofill =>
    intro s task h
    exact completes_eq _ rfl (lbFill_none h) rfl
  case lit =>
    intro s i q k p hf hp hr hn hpage hframe hst
    exact completes_eq _ rfl rfl (lightRow_lit hf hp hr hn hpage hframe hst)
  case tainted =>
    intro s i q k p hf hp hr hn hpage hframe hst
    exact completes_eq _ rfl rfl (lightRow_tainted hf hp hr hn hpage hframe hst)
  case outside =>
    intro s i q hf hp hr
    exact completes_eq _ rfl (lightRow_refused hf hr) (lightRefuse_done s.m i _ q hp.kind hp.qid hp.loose)

end Sys2Proof.Machine

/-! DOUSE and PERSIST (O31): the statement admits a command that has not begun and yet is marked as copying a page. No row leaves such a command,
as the mark is set with the commit point; what its DOUSE makes of a clean page is evaluated below. -/

namespace Sys2Proof.Machine

/-- A DOUSE of LB 3 of volume 1, admitted and not begun, that is marked as copying. -/
def copyingDouse : Cmd :=
  { qid := some 9, port := some .p0, entry := mkEntry opDouse 1 3 0, stage := .admitted, copying := true }

/-- That DOUSE in slot 3, of a page that is lit and clean. -/
def douseCopies : State :=
  { m := {
      vol := { v := [(1, { st := .ready, size := 2 ^ 20 })] }
      lamp := { reg := [(0, { defined := true, vol := 1, base := 0, size := 2 ^ 30 })], desc := [(0, { lit := 8 })] }
      q := { used := [3], cmd := [(3, copyingDouse)], qp := [(9, { st := .active, port := .p0, depth := 4, inflight := 1 })] } } }

theorem douseCopies_cmd (j : Nat) : douseCopies.m.cmd j = if j = 3 then copyingDouse else {} := by
  by_cases h : j = 3 <;> simp [douseCopies, Mach.cmd, SMap.get, h]

theorem douseCopies_loose : douseCopies.m.Loose 3 := by
  refine ⟨fun j => ?_, by simp [douseCopies]⟩
  rw [douseCopies_cmd]
  split <;> simp [copyingDouse]

theorem douseCopies_plain : douseCopies.m.Plain 3 9 := ⟨rfl, rfl, rfl, rfl, rfl, rfl, rfl, rfl, rfl, douseCopies_loose⟩

theorem douseCopies_alone : douseCopies.m.Alone 3 := by
  refine ⟨by simp [douseCopies], by simp [douseCopies], fun j hj => ?_, rfl⟩
  rw [douseCopies_cmd, if_neg hj]

/-- The row goes on with a copy that was never begun, and the page stays lit. -/
theorem douseCopies_lit : ((douseCopies.m.wbRow 3 opDouse []).desc 0).lit.getLsbD 3 = true := by decide +kernel

/-- Refutes O31: in its clause on a clean page, a DOUSE leaves the page dark whatever the mark of a begun copy says. Where that mark is set on
a command that has not begun, the row takes the page for one that is being copied and leaves it lit. -/
theorem not_dousePersist : ¬ Obligations.DousePersist := by
  unfold Obligations.DousePersist
  rintro ⟨hclean, -⟩
  obtain ⟨hlit, -⟩ := of_completes (Mach.wbRow 3 opDouse []) rfl (hclean douseCopies 3 9 0 3 (.douse 3 []) opDouse (.inl ⟨rfl, rfl⟩)
    (by decide +kernel) douseCopies_plain douseCopies_alone (by decide +kernel) (by decide +kernel) (by decide +kernel) (by decide +kernel)
    rfl)
  exact absurd (douseCopies_lit.symm.trans hlit) (by decide)

end Sys2Proof.Machine

/-! LAMP_REGION_SET and the commands of neither port (O43): the verdict on a DEFINE, one equation for each answer, and the slot and lock that
a touch light or an own write-back takes (R149, R150, R153, R159, R165, Tables 07.1 and 07.2). -/

namespace Sys2Proof.Machine

/-! ### LAMP_REGION_SET -/

section
variable {m : Mach} {p : Port} {k : Nat} {lot : Bool} {v : Vid} {base size : Nat}

theorem define_asks (h : m.defineRefusal k v base size = none) : m.define p k lot v base size =
    m.askDefinition (.region p k { defined := true, lot := lot, vol := v, base := base, size := size, desc := m.placedEnd }) := by
  unfold Mach.define
  rw [h]

theorem define_refused {status dw2 : Nat} (h : m.defineRefusal k v base size = some (status, dw2)) :
    m.define p k lot v base size = m.refuse p status := by
  unfold Mach.define
  rw [h]

/-- A region that is defined, or a range that is none, is the first that Table 07.2 refuses. -/
theorem defineRefusal_range
    (h : (m.regionNow k).defined = true ∨ base % 512 ≠ 0 ∨ size = 0 ∨ size % 2 ^ 21 ≠ 0 ∨ 2 ^ 46 < size) :
    m.defineRefusal k v base size = some (St.invalidField, 0) := by
  unfold Mach.defineRefusal
  dsimp only
  cases hd : (m.regionNow k).defined with
  | true => rfl
  | false =>
    have hbad : (base % 512 != 0 || size == 0 || size % 2 ^ 21 != 0 || decide (2 ^ 46 < size)) = true := by
      simpa [hd, or_assoc] using h
    rw [hbad]
    rfl

/-- The volume comes next: it must be READY, and hold the range. -/
theorem defineRefusal_volume (hd : (m.regionNow k).defined = false) (hbase : base % 512 = 0) (hzero : size ≠ 0) (hmul : size % 2 ^ 21 = 0)
    (hmax : size ≤ 2 ^ 46) (h : (m.volu v).st ≠ .ready ∨ (m.volu v).size < base + size / 4096) :
    m.defineRefusal k v base size = some (if (m.volu v).st = .ready then St.lbaRange else St.volumeNotReady, 0) := by
  have hok : (base % 512 != 0 || size == 0 || size % 2 ^ 21 != 0 || decide (2 ^ 46 < size)) = false := by
    simpa [hbase, hzero] using And.intro hmul hmax
  unfold Mach.defineRefusal
  dsimp only
  rw [hd, hok]
  by_cases hready : (m.volu v).st = .ready
  · have hend : (m.volu v).size < base + size / 4096 := h.resolve_left (not_not_intro hready)
    simp [firstOf, refuseIf, hready, hend]
  · simp [firstOf, refuseIf, hready]

theorem delete_asks (hd : (m.regionNow k).defined = true) (hb : m.regionBusy k = false) : m.delete p k = m.askDefinition (.region p k {}) :=
  if_neg (by simp [hd, hb])

theorem delete_refused (h : (m.regionNow k).defined = false ∨ m.regionBusy k = true) : m.delete p k = m.refuse p St.invalidField :=
  if_pos (by simpa using h)

theorem setLot_refused (h : (m.region k).defined = false) : m.setLot p k lot = m.refuse p St.invalidField := if_neg (by simp [h])

/-- The machine whose region k has the LIGHT_ON_TOUCH given. -/
def Mach.lotSet (k : Nat) (lot : Bool) (m : Mach) : Mach := (m.setRegion k { m.region k with lot := lot }).touch .lmp

theorem setLot_answers (h : (m.region k).defined = true) : m.setLot p k lot = (m.lotSet k lot).ok p [] := if_pos h

end

theorem lotSet_frame (m : Mach) (k : Nat) (lot : Bool) : (m.lotSet k lot).region k = { m.region k with lot := lot } ∧
    (∀ j, j ≠ k → (m.lotSet k lot).region j = m.region j) ∧ (m.lotSet k lot).lamp = { m.lamp with reg := (m.lotSet k lot).lamp.reg } ∧
    m.RegsSame [] (m.lotSet k lot) ∧ m.SameBut [.lamp, .reg] (m.lotSet k lot) := by
  unfold Mach.lotSet
  refine ⟨by simp, fun j hj => by simp [Mach.region_setRegion_ne _ _ _ _ hj], ?_, rs_touch (m.setRegion k _) .lmp, by simp [Mach.SameBut]⟩
  rw [Mach.touch_lamp]
  rfl

/-- An accepted SET_LOT changes the one bit of its region and is answered. -/
theorem lotSet_answered (m : Mach) (k : Nat) (lot : Bool) (p : Port) {t : Mach} (ht : (m.lotSet k lot).ok p [] = t) :
    t.region k = { m.region k with lot := lot } ∧ (∀ j, j ≠ k → t.region j = m.region j) ∧ m.Replies p St.success [] t ∧
    t.lamp = { m.lamp with reg := t.lamp.reg } ∧ m.RegsSame [] t ∧ m.SameBut [.lamp, .reg, .out] t := by
  obtain ⟨hself, hothers, hlamp, hregs, hsame⟩ := lotSet_frame m k lot
  obtain ⟨hsent, hout⟩ := replies_ok p [] (m.lotSet k lot)
  rw [ht] at hsent hout
  have hlamp' : t.lamp = (m.lotSet k lot).lamp := same_lamp hout (by simp)
  have hregion (j : Nat) : t.region j = (m.lotSet k lot).region j := by
    unfold Mach.region
    rw [hlamp']
  refine ⟨(hregion k).trans hself, fun j hj => (hregion j).trans (hothers j hj), ?_, by rw [hlamp']; exact hlamp,
    rs_trans hregs (rs_of_reg (same_reg hout (by simp))), same_trans (same_mono hsame (by simp)) (same_mono hout (by simp))⟩
  unfold Mach.Replies Mach.Sent at hsent ⊢
  rw [hsent, same_out hsame (by simp)]

/-! ### Commands of neither port (R159, R165) -/

theorem touchRun_idle {m : Mach} (h : m.lamp.touch = [] ∨ m.ownEntry = false) : m.touchRun = m := by
  unfold Mach.touchRun
  split
  · rfl
  · next t ts ht => exact if_pos (by simpa [ht] using h)

theorem touchRun_runs {m : Mach} {t : Nat × Nat} {ts : List (Nat × Nat)} (ht : m.lamp.touch = t :: ts) (ho : m.ownEntry = true) :
    m.touchRun = (m.updLamp fun l => { l with touch := ts }).ownCommand .touch
      (mkEntry opLight (m.region (t.1 / 2 ^ 26)).vol ((m.region (t.1 / 2 ^ 26)).base + 512 * (t.1 % 2 ^ 26) + t.2) 0) [0] := by
  unfold Mach.touchRun
  rw [ht]
  exact if_neg (by simp [ho])

theorem autoWb_idle {m : Mach} (h : m.rdN Reg.LMP_AUTOWB = 0 ∨ m.dirtyLit < m.rdN Reg.LMP_AUTOWB) : m.autoWb = m :=
  if_pos (by rcases h with h | h <;> simp [h])

theorem autoWb_runs {m : Mach} {f key mu : Nat} (hset : m.rdN Reg.LMP_AUTOWB ≠ 0) (hlevel : m.rdN Reg.LMP_AUTOWB ≤ m.dirtyLit)
    (hrun : m.running .lmp = true) (ho : m.ownEntry = true) (hnext : m.scanNext = some (f, key, mu)) :
    m.autoWb = (m.updLamp fun l => { l with scan := f }).ownCommand .autowb
      (mkEntry opPersist (m.region (key / 2 ^ 26)).vol ((m.region (key / 2 ^ 26)).base + 512 * (key % 2 ^ 26) + 4 * mu) 3) [] := by
  unfold Mach.autoWb
  dsimp only
  rw [if_neg (by simp [hset, hlevel, hrun, ho]), hnext]

/-- A command of neither port that nothing excludes takes the lowest free slot and its lock, and is admitted at once; of the lamp window only
what had changed before stands changed. -/
theorem ownCommand_enters (m : Mach) (g : Lamp → Lamp) {kind : CmdKind} {e : Entry} {todo : List Nat} {c : Cmd}
    (hc : c = { kind := kind, entry := e, todo := todo }) (hk : kind ≠ .host) (h : ∀ j ∈ m.locks, conflicts (m.cmd j) c = false)
    {t : Mach} (ht : (m.updLamp g).ownCommand kind e todo = t) :
    t.cmd m.lowSlot = { c with locked := true, seq := m.q.rlkSeq, stage := .admitted } ∧ (∀ j, j ≠ m.lowSlot → t.cmd j = m.cmd j) ∧
    t.q.used = insertNat m.lowSlot m.q.used ∧ t.lamp = g m.lamp ∧ m.SameBut [.q, .reg, .lamp] t := by
  subst ht
  obtain ⟨hself, hothers, hused, hsame⟩ := own_facts (m.updLamp g) kind e todo c hc hk h
  exact ⟨hself, hothers, hused, same_lamp hsame (by simp),
    same_trans (b := m.updLamp g) (by simp [Mach.SameBut]) (same_mono hsame (by simp))⟩

/-! ### The obligation -/

/-- Settles O43: LAMP_REGION_SET by the first condition that refuses, and each own command by the lock it takes. -/
theorem lampRegionsAndOwnCommands : Obligations.LampRegionsAndOwnCommands := by
  unfold Obligations.LampRegionsAndOwnCommands
  refine ⟨?define, ?badRange, ?badVolume, ?delete, ?undeleted, ?setLot, ?noLot, ?touch, ?untouched, ?autowb, ?below⟩
  case define =>
    intro s p k lot v base size hs h
    refine completes_serves _ rfl hs ?_
    rw [define_asks h]
    exact asks ..
  case badRange =>
    intro s p k lot v base size hs h
    refine completes_serves _ rfl hs ?_
    rw [define_refused (defineRefusal_range h)]
    exact replies_no ..
  case badVolume =>
    intro s p k lot v base size hs hd hbase hzero hmul hmax h
    refine completes_serves _ rfl hs ?_
    rw [define_refused (defineRefusal_volume hd hbase hzero hmul hmax h)]
    exact replies_no ..
  case delete =>
    intro s p k hs hd hb
    refine completes_serves _ rfl hs ?_
    rw [delete_asks hd hb]
    exact asks ..
  case undeleted =>
    intro s p k hs h
    refine completes_serves _ rfl hs ?_
    rw [delete_refused h]
    exact replies_no ..
  case setLot =>
    intro s p k lot hs hd
    refine completes_serves _ rfl hs ?_
    rw [setLot_answers hd]
    exact lotSet_answered s.m k lot p rfl
  case noLot =>
    intro s p k lot hs h
    refine completes_serves _ rfl hs ?_
    rw [setLot_refused h]
    exact replies_no ..
  case touch =>
    intro s t0 ts c ht ho hc h
    exact completes_eq _ rfl (touchRun_runs ht ho) (ownCommand_enters s.m _ hc (by simp) h rfl)
  case untouched =>
    intro s h
    exact completes_eq _ rfl (touchRun_idle h) rfl
  case autowb =>
    intro s f key mu c hset hlevel hrun ho hnext hc h
    exact completes_eq _ rfl (autoWb_runs hset hlevel hrun ho hnext) (ownCommand_enters s.m _ hc (by simp) h rfl)
  case below =>
    intro s h
    exact completes_eq _ rfl (autoWb_idle h) rfl

end Sys2Proof.Machine

/-! The Lantern (O44): one equation for each event and each write of LNT_CTRL.EN, and what a changed entry or mode leaves alone (R168 to
R172). -/

namespace Sys2Proof.Machine

/-! ### Registers past a step of PG_SEQ -/

/-- What stands but for PG_SEQ behind a change that the register store does not see stands behind both. -/
theorem regsSame_then {ks : List Nat} {a b c : Mach} (h : a.RegsSame ks b) (g : b.RegsSame [] c) : a.RegsSame ks c := by
  obtain ⟨hregs, hc64, hlow, hhdr⟩ := h
  obtain ⟨hregs', hc64', hlow', hhdr'⟩ := g
  exact ⟨fun k hk => (hregs' k (by simp)).trans (hregs k hk), hc64'.trans hc64, hlow'.trans hlow, fun p => (hhdr' p).trans (hhdr p)⟩

theorem regsSame_wr (m : Mach) (k : Nat) (v : Word) : m.RegsSame [k] (m.wr k v) :=
  ⟨fun _ hj => Mach.rd_wr_ne _ _ _ _ (by simpa using hj), rfl, rfl, fun _ => rfl⟩

/-! ### One entry -/

theorem lnt_setLnt_same (m : Mach) (i : Nat) (x : LntEnt) : (m.setLnt i x).lnt i = x := SMap.get_set_same ..

theorem lnt_setLnt_ne (m : Mach) {i j : Nat} (x : LntEnt) (h : j ≠ i) : (m.setLnt i x).lnt j = m.lnt j := SMap.get_set_ne _ _ _ _ _ _ h

/-- An entry that changes leaves every other entry and the rest of the lamp window alone. -/
theorem setLnt_touched (m : Mach) (i : Nat) (x : LntEnt) : ((m.setLnt i x).touch .lnt).lnt i = x ∧
    (∀ j, j ≠ i → ((m.setLnt i x).touch .lnt).lnt j = m.lnt j) ∧
    ((m.setLnt i x).touch .lnt).lamp = { m.lamp with lnt := ((m.setLnt i x).touch .lnt).lamp.lnt } ∧
    m.RegsSame [] ((m.setLnt i x).touch .lnt) ∧ m.SameBut [.lamp, .reg] ((m.setLnt i x).touch .lnt) := by
  have hlnt (j : Nat) : ((m.setLnt i x).touch .lnt).lnt j = (m.setLnt i x).lnt j := by
    unfold Mach.lnt
    rw [Mach.touch_lamp]
  refine ⟨(hlnt i).trans (lnt_setLnt_same ..), fun j hj => (hlnt j).trans (lnt_setLnt_ne m x hj), ?_, rs_touch (m.setLnt i x) .lnt, ?_⟩
  · rw [Mach.touch_lamp]
    rfl
  · simp [Mach.SameBut, Mach.setLnt]

/-- The machine in which entry i, written during its write-back, has become x: it counts, and the victim pointer moves on (R169). -/
def Mach.redirtied (i : Nat) (x : LntEnt) (m : Mach) : Mach :=
  ((m.setLnt i x).updLamp fun l => { l with victim := m.lntNext i }).bump Reg.LNT_REDIRTY

theorem redirtied_frame (m : Mach) (i : Nat) (x : LntEnt) : (m.redirtied i x).lnt i = x ∧
    (∀ j, j ≠ i → (m.redirtied i x).lnt j = m.lnt j) ∧
    (m.redirtied i x).lamp = { m.lamp with lnt := (m.redirtied i x).lamp.lnt, victim := (m.redirtied i x).lamp.victim } ∧
    (m.redirtied i x).rdN Reg.LNT_REDIRTY = min 0xFFFFFFFF (m.rdN Reg.LNT_REDIRTY + 1) ∧
    m.RegsSame [Reg.LNT_REDIRTY] (m.redirtied i x) ∧ m.SameBut [.lamp, .reg] (m.redirtied i x) := by
  have hlamp : (m.redirtied i x).lamp = { (m.setLnt i x).lamp with victim := m.lntNext i } := Mach.bump_lamp ..
  have hlnt (j : Nat) : (m.redirtied i x).lnt j = (m.setLnt i x).lnt j := by
    unfold Mach.lnt
    rw [hlamp]
  refine ⟨(hlnt i).trans (lnt_setLnt_same ..), fun j hj => (hlnt j).trans (lnt_setLnt_ne m x hj), by rw [hlamp]; rfl, rdN_bump ..,
    rs_bump ((m.setLnt i x).updLamp _) _, by simp [Mach.SameBut, Mach.redirtied, Mach.setLnt]⟩

section
variable {m : Mach} {i : Nat}

theorem lntWritten_evicted (hs : (m.lnt i).st = .evicting) (hr : (m.lnt i).redirty = false) :
    m.lntWritten i = (m.setLnt i { m.lnt i with st := .invalid, tag := 0 }).touch .lnt := by
  simp [Mach.lntWritten, hs, hr]

theorem lntWritten_redirtied (hs : (m.lnt i).st = .evicting) (hr : (m.lnt i).redirty = true) :
    m.lntWritten i = m.redirtied i { m.lnt i with st := .dirty, redirty := false } := by
  simp [Mach.lntWritten, Mach.redirtied, hs, hr]

theorem lntWritten_flushed (hs : (m.lnt i).st = .dirty) (hm : m.lamp.mode = .flushing) :
    m.lntWritten i = (m.setLnt i { m.lnt i with st := .clean }).touch .lnt := by
  simp [Mach.lntWritten, hs, hm]

theorem lntWritten_idle
    (h : (m.lnt i).st = .invalid ∨ (m.lnt i).st = .clean ∨ ((m.lnt i).st = .dirty ∧ m.lamp.mode ≠ .flushing)) : m.lntWritten i = m := by
  rcases h with hs | hs | ⟨hs, hm⟩
  · simp [Mach.lntWritten, hs]
  · simp [Mach.lntWritten, hs]
  · simp [Mach.lntWritten, hs, hm]

theorem lntOff_retires (he : 4 ≤ (m.lnt i).err) (ho : (m.lnt i).off = false) :
    m.lntOff i = (m.setLnt i { m.lnt i with off := true, st := .invalid, redirty := false, tag := 0 }).touch .lnt :=
  if_pos (by simp [he, ho])

theorem lntOff_idle (h : (m.lnt i).err < 4 ∨ (m.lnt i).off = true) : m.lntOff i = m := if_neg (by simpa [or_iff_not_imp_left] using h)

end

/-! ### A descriptor fetch returns (R168, R169) -/

theorem fetchBack_none {m : Mach} (e : MemErr) (h : m.lamp.fetches = []) : m.fetchBack e = m := by
  unfold Mach.fetchBack
  rw [h]

/-- Requests that are taken are served. -/
theorem lampServes_of_open {m : Mach} (h : m.lampOpen = true) : m.lampServes = true := by
  simp only [Mach.lampOpen, Bool.and_eq_true] at h
  obtain ⟨⟨hio, hrun⟩, hphase⟩ := h
  simp [Mach.lampServes, hio, hrun, hphase]

/-- The machine whose one descriptor fetch has been taken out. -/
def Mach.fetchOut (m : Mach) : Mach := m.updLamp fun l => { l with fetches := [] }

/-- A read that waited for its descriptor is answered with its line, and the descriptor, which has not changed, may be installed. -/
theorem fetchBack_read {m : Mach} {p : Port} {dpa f key : Nat} {e : MemErr} {a : LampAddr}
    (hfetch : m.lamp.fetches = [{ tag := key, reqs := [.rd p dpa .clean] }]) (hlate : m.lamp.late = []) (hcap : m.lamp.capHeld = [])
    (he : e ≠ .descLost) (hopen : m.lampOpen = true) (ha : m.lampAddr dpa = some a) (hkey : key = descKey a.region a.block)
    (hlit : ((m.desc key).state a.page).isLit = true) (hf : (m.desc key).frame = some f) (hlost : lineKey f a.page a.line ∉ m.lamp.lost) :
    m.fetchBack e = (m.fetchOut.lineOut p (SMap.get 0 m.lamp.line (lineKey f a.page a.line))).lntInstall key false := by
  subst hkey
  have hmeet : m.fetchOut.serveReq (.rd p dpa .clean) false = m.fetchOut.lineOut p (SMap.get 0 m.lamp.line (lineKey f a.page a.line)) := by
    have hplace : m.fetchOut.lampAddr (LampReq.dpa (.rd p dpa .clean)) = some a := ha
    have hheld : m.fetchOut.lamp.capHeld = [] := hcap
    unfold Mach.serveReq
    rw [hplace]
    dsimp only
    rw [hheld]
    exact serveRead_lit hlit hf hlost
  have hserves : m.fetchOut.lampServes = true := lampServes_of_open (m := m.fetchOut) hopen
  have hline := lineOut_answers p (SMap.get 0 m.lamp.line (lineKey f a.page a.line)) m.fetchOut
  generalize m.fetchOut.lineOut p _ = w at hmeet hline ⊢
  have hlamp : w.lamp = m.fetchOut.lamp := same_lamp hline.same (by simp)
  have hlate' : (w.lntInstall (descKey a.region a.block) false).lamp.late = [] := by
    rw [install_lamp, hlamp]
    exact hlate
  have hone : m.fetchOut.each [.rd p dpa .clean] (fun r m => if m.lampServes then m.serveReq r false else m.memMiss r) = w := by
    rw [each_cons, each_nil', if_pos hserves, hmeet]
  unfold Mach.fetchBack
  rw [hfetch]
  dsimp only
  rw [if_neg (by simpa using he), ← Mach.fetchOut, hone, desc_of_lamp hlamp, bne_self_eq_false, hlate']

/-- The read's answer and the installation leave the lamp window alone but for the fetch and the Lantern's entries. -/
theorem fetchBack_read_frame (m : Mach) (p : Port) (key : Nat) (d : Line) {t : Mach} (ht : (m.fetchOut.lineOut p d).lntInstall key false = t) :
    m.Sent [.memData p d false] t ∧ t.lamp.fetches = [] ∧ (t.port.get p).inflight = (m.port.get p).inflight - 1 ∧
    (∀ k, t.desc k = m.desc k) ∧ t.lamp.line = m.lamp.line ∧ m.RegsSame [] t ∧ m.SameBut [.lamp, .port, .out, .reg] t := by
  have hline := lineOut_answers p d m.fetchOut
  have hregs : m.RegsSame [] (m.fetchOut.lineOut p d) := rs_touch ((m.fetchOut.send _).updPort p _) _
  generalize m.fetchOut.lineOut p d = w at hline hregs ht
  have hlamp : w.lamp = m.fetchOut.lamp := same_lamp hline.same (by simp)
  have hinst := install_lamp w key false
  have hsame := install_same w key false
  rw [ht, hlamp] at hinst
  rw [ht] at hsame
  refine ⟨?_, by rw [hinst]; rfl, ?_, fun k => ?_, by rw [hinst]; rfl, rs_trans hregs (rs_of_reg (same_reg hsame (by simp))), ?_⟩
  · have hsent := hline.sent
    unfold Mach.Sent at hsent ⊢
    rw [same_out hsame (by simp), hsent]
    rfl
  · rw [same_port hsame (by simp), port_get hline.port]
    rfl
  · unfold Mach.desc
    rw [hinst]
    rfl
  · exact same_trans (b := m.fetchOut) (by simp [Mach.SameBut, Mach.fetchOut])
      (same_trans (same_mono hline.same (by simp)) (same_mono hsame (by simp)))

/-! ### LNT_CTRL.EN and the flush (R172) -/

/-- The machine in which LNT_CTRL holds EN. -/
def Mach.lntCtrlSet (en : Bool) (m : Mach) : Mach := m.wr Reg.LNT_CTRL (if en then 1 else 0)

theorem lntCtrl_idle {m : Mach} (hoff : m.pageSt .lnt ≠ .off) (hrun : m.pageSt .lnt ≠ .running) (en : Bool) :
    m.lntCtrl .mgmt en = m.lntCtrlSet en := by
  have hset : (m.lntCtrlSet en).running .lnt = false := by
    simp [Mach.running, Mach.lntCtrlSet, hrun]
  unfold Mach.lntCtrl
  rw [if_neg (by simp [hoff]), ← Mach.lntCtrlSet]
  exact if_neg (by simp [hset])

theorem lntCtrl_running {m : Mach} (hrun : m.pageSt .lnt = .running) (en : Bool) : m.lntCtrl .mgmt en = (m.lntCtrlSet en).lntEnable en := by
  have hset : (m.lntCtrlSet en).running .lnt = true := by
    simp [Mach.running, Mach.lntCtrlSet, hrun]
  unfold Mach.lntCtrl
  rw [if_neg (by simp [hrun]), ← Mach.lntCtrlSet]
  exact if_pos hset

theorem lntCtrl_port (m : Mach) (h : Port) (en : Bool) : m.lntCtrl h.agent en = m.bump (portReg h Reg.PORT_WDROP) :=
  (if_pos (by cases h <;> rfl)).trans (wdrop_port m h)

/-- Past the write of LNT_CTRL, a change of the lamp window and a step of PG_SEQ leave EN as written. -/
theorem lntCtrlSet_then {m t : Mach} {en : Bool} (hr : (m.lntCtrlSet en).RegsSame [] t) (hs : (m.lntCtrlSet en).SameBut [.reg, .lamp] t) :
    t.rd Reg.LNT_CTRL = (if en then 1 else 0) ∧ m.RegsSame [Reg.LNT_CTRL] t ∧ m.SameBut [.reg, .lamp] t :=
  ⟨(hr.1 _ (by simp)).trans (Mach.rd_wr_same ..), regsSame_then (regsSame_wr ..) hr,
    same_trans (b := m.lntCtrlSet en) (by simp [Mach.SameBut, Mach.lntCtrlSet]) hs⟩

theorem lntEnable_flushes {m : Mach} (h : m.lamp.mode = .enabled) :
    m.lntEnable false = (m.updLamp fun l => { l with mode := .flushing, enPend := false }).touch .lnt := by
  unfold Mach.lntEnable
  rw [h]
  exact if_pos (by simp [h])

theorem lntEnable_pends {m : Mach} (h : m.lamp.mode = .flushing) : m.lntEnable true = m.updLamp fun l => { l with enPend := true } := by
  unfold Mach.lntEnable
  rw [h]

theorem lntEnable_enables {m : Mach} (h : m.lamp.mode = .disabled) :
    m.lntEnable true = (m.lntEmpty.updLamp fun l => { l with mode := .enabled }).touch .lnt := by
  unfold Mach.lntEnable
  rw [h]

theorem lntEmpty_invalid (m : Mach) : ∀ e ∈ m.lntEmpty.lamp.lnt, e.2.st = .invalid := by
  intro e he
  obtain ⟨hmap, -⟩ := List.mem_filter.mp he
  obtain ⟨x, -, rfl⟩ := List.mem_map.mp hmap
  rfl

/-! ### The obligation -/

/-- Settles O44: each event and each write of EN is one equation; what stands is that of one entry or of the Lantern's mode. -/
theorem lantern : Obligations.Lantern := by
  unfold Obligations.Lantern
  refine ⟨?fetch, ?nofetch, ?evicted, ?redirtied, ?flushed, ?unwritten, ?retired, ?stands, ?stopped, ?disable, ?pend, ?enable, ?port,
    ?ended, ?unflushed⟩
  case fetch =>
    intro s p dpa f key e a hfetch hlate hcap he hopen ha hkey hlit hf hlost
    exact completes_eq _ rfl (fetchBack_read hfetch hlate hcap he hopen ha hkey hlit hf hlost) (fetchBack_read_frame s.m p key _ rfl)
  case nofetch =>
    intro s e h
    exact completes_eq _ rfl (fetchBack_none e h) rfl
  case evicted =>
    intro s i hs hr
    exact completes_eq _ rfl (lntWritten_evicted hs hr) (setLnt_touched ..)
  case redirtied =>
    intro s i hs hr
    exact completes_eq _ rfl (lntWritten_redirtied hs hr) (redirtied_frame ..)
  case flushed =>
    intro s i hs hm
    exact completes_eq _ rfl (lntWritten_flushed hs hm) (setLnt_touched ..)
  case unwritten =>
    intro s i h
    exact completes_eq _ rfl (lntWritten_idle h) rfl
  case retired =>
    intro s i he ho
    exact completes_eq _ rfl (lntOff_retires he ho) (setLnt_touched ..)
  case stands =>
    intro s i h
    exact completes_eq _ rfl (lntOff_idle h) rfl
  case stopped =>
    intro s en hoff hrun
    exact completes_eq _ rfl (lntCtrl_idle hoff hrun en) ⟨Mach.rd_wr_same .., regsSame_wr .., by simp [Mach.SameBut, Mach.lntCtrlSet]⟩
  case disable =>
    intro s hrun hm
    refine completes_eq _ rfl ((lntCtrl_running hrun false).trans (lntEnable_flushes hm)) ?_
    obtain ⟨hen, hregs, hsame⟩ := lntCtrlSet_then (m := s.m) (en := false) (rs_touch ((s.m.lntCtrlSet false).updLamp fun l =>
      { l with mode := .flushing, enPend := false }) .lnt) (by simp [Mach.SameBut])
    exact ⟨hen, Mach.touch_lamp .., hregs, hsame⟩
  case pend =>
    intro s hrun hm
    refine completes_eq _ rfl ((lntCtrl_running hrun true).trans (lntEnable_pends hm)) ?_
    obtain ⟨hen, hregs, hsame⟩ := lntCtrlSet_then (m := s.m) (en := true) (t := (s.m.lntCtrlSet true).updLamp fun l =>
      { l with enPend := true }) (rs_of_reg rfl) (by simp [Mach.SameBut])
    exact ⟨hen, rfl, hregs, hsame⟩
  case enable =>
    intro s hrun hm
    refine completes_eq _ rfl ((lntCtrl_running hrun true).trans (lntEnable_enables hm)) ?_
    obtain ⟨hen, hregs, hsame⟩ := lntCtrlSet_then (m := s.m) (en := true) (rs_touch ((s.m.lntCtrlSet true).lntEmpty.updLamp fun l =>
      { l with mode := .enabled }) .lnt) (by simp [Mach.SameBut, Mach.lntEmpty])
    refine ⟨hen, ?_, ?_, hregs, hsame⟩
    · rw [Mach.touch_lamp]
      rfl
    · rw [Mach.touch_lamp]
      exact lntEmpty_invalid s.m
  case port =>
    intro s h en
    exact completes_eq _ rfl (lntCtrl_port s.m h en) ⟨rdN_bump .., rs_bump .., sb_bump ..⟩
  case ended =>
    intro s hm
    refine completes_eq _ rfl (if_pos (by simp [hm])) ⟨?_, ?_, ?_, ?_⟩
    · unfold Mach.lntDisabled
      rw [Mach.touch_lamp]
      rfl
    · unfold Mach.lntDisabled
      rw [Mach.touch_lamp]
      exact lntEmpty_invalid s.m
    · exact rs_touch (s.m.lntEmpty.updLamp _) .lnt
    · simp [Mach.SameBut, Mach.lntDisabled, Mach.lntEmpty]
  case unflushed =>
    intro s hm
    exact completes_eq _ rfl (if_neg (by simp [hm])) rfl

end Sys2Proof.Machine

/-! The channel engines (O47) and the erase scheduler (O48). Each of the two statements says in one clause that more stands than the manual lets
stand; the state where it fails is written out below with what the command makes of it. -/

namespace Sys2Proof.Machine

/-! ### The issue of an erase -/

/-- An erase of block 7 of the die at row 5 of channel 1, which waits in Q2. -/
def waitingErase : Op :=
  { id := 0, ch := 1, row := 5, req := .q2, kind := .erase 7 false, issued := false, rank0 := false, waited := false, stalled := false }

/-- A service-port read of one word of that block, which waits behind it. -/
def waitingRead : Op :=
  { id := 1, ch := 1, row := 5, req := .svc .mgmt, kind := .svc codeRead { block := 7, planes := 1, len := 4 }
    issued := false, rank0 := false, waited := false, stalled := false }

/-- A running channel 1 whose die at row 5 is free, with both operations queued. -/
def eraseBeforeRead : State :=
  { m := { reg := { pg := [((Page.fch 1).base, { st := .running })] }, fl := { ops := [waitingErase, waitingRead], nextOp := 2 } } }

/-- With the issue of the erase the read of its block ends in ERASE_PENDING, and FCH_EPEND counts it (R201). -/
theorem eraseBeforeRead_pends : eraseBeforeRead.m.rdN (fchReg 1 Reg.FCH_EPEND) = 0 ∧
    (eraseBeforeRead.m.issueNext 1).rdN (fchReg 1 Reg.FCH_EPEND) = 1 := by decide +kernel

/-- Refutes O47: in its clause on the issue of an erase no stored register changes. But a service-port read of the block that waits for the
same die completes with ERASE_PENDING once the erase runs, and counts in FCH_EPEND (R201). -/
theorem not_channelOperations : ¬ Obligations.ChannelOperations := by
  unfold Obligations.ChannelOperations
  rintro ⟨-, -, herase, -⟩
  obtain ⟨-, -, -, -, hregs, -⟩ := of_completes (Mach.issueNext 1) rfl
    (herase eraseBeforeRead 1 waitingErase 7 false (by decide +kernel) rfl (by decide +kernel) (by decide +kernel))
  obtain ⟨hbefore, hafter⟩ := eraseBeforeRead_pends
  exact absurd (hafter.symm.trans ((rdN_of_regsBut hregs (by simp)).trans hbefore)) (by decide)

/-! ### The resumption of an erase -/

/-- The die at row 5 of channel 1 with the erase of its block 7 suspended, on a running channel, and no table segment of the headland dirty. -/
def suspendedErase : State :=
  { m := {
      reg := { pg := [((Page.fch 1).base, { st := .running })] }
      fl := { die := [(dieOf 1 5, { esusp := some 7 })], blk := [(4096 * dieOf 1 5 + 7, { st := .eraseSuspended })] } } }

/-- The block's entry goes from ERASE_SUSPENDED to ERASING, and the table segment that holds it becomes dirty (R283, R285). -/
theorem suspendedErase_marks : suspendedErase.m.hdl.seg = [] ∧ (suspendedErase.m.schedResume 1 5).hdl.seg ≠ [] := by decide +kernel

/-- Refutes O48: in its clause on the resumption of an erase nothing changes outside the flash. But the state of the block is part of the block
table, so the resumption marks a table segment of the headland dirty (R283, R285), as the suspension does, whose clause leaves the headland
out too. -/
theorem not_eraseScheduler : ¬ Obligations.EraseScheduler := by
  unfold Obligations.EraseScheduler
  rintro ⟨-, -, hresume, -⟩
  obtain ⟨-, -, -, hsame⟩ := of_completes (Mach.schedResume 1 5) rfl (hresume suspendedErase 1 5 7 rfl rfl (by decide +kernel)
    (by decide +kernel) rfl rfl (by decide) (by decide +kernel))
  obtain ⟨hclean, hmarked⟩ := suspendedErase_marks
  exact hmarked ((congrArg Headland.seg (same_hdl hsame (by simp))).trans hclean)

end Sys2Proof.Machine

/-! The aperture's codes (O46), which stay unsettled. The clause on SUSPEND says that the command takes one free value, and does not ask
whether it meets the end of the erase (Table 08.10), which is a free value itself: Config.eraseEnded. Where it does, the furrow may become
FALLOW, the urgency level may rise to EXHAUSTED, and each host's WRITE that then completes takes a free value more. So the statement needs that
no SUSPEND meets the end of an erase, which no proof about an opaque function can say or deny. Below: given that, all its clauses hold; and
where a free value does not give it, the clause fails at a state that is written out. -/

namespace Sys2Proof.Machine

/-! ### The third write -/

/-- The sequence of an agent is over. -/
def Mach.seqOver (a : Agent) (m : Mach) : Mach := m.setSeq a { st := .idle, die := 0 }

theorem seqOver_idle (m : Mach) (a : Agent) : (m.seqOver a).fl.seq.get a = { st := .idle, die := 0 } := PerAgent.get_set_same ..

theorem seqOver_same (m : Mach) (a : Agent) : Mach.SameBut [.fl] m (m.seqOver a) := same_setSeq ..

/-- After the two unlock writes of the same agent at the same die, the write of a code ends the sequence and issues it (R191, R192). -/
theorem aptCode_issues {m : Mach} {a : Agent} {d : Die} {code : Nat} (hcode : code < 256) (ho : m.aptOpen a d = true)
    (hseq : m.fl.seq.get a = { st := .u2, die := d }) : m.aptCode a d code = (m.seqOver a).aptIssue a d code := by
  have hw : m.aptWrite1 a d (BitVec.ofNat 16 code) = (m.seqOver a).aptIssue a d code := by
    simp [Mach.aptWrite1, Mach.seqOver, hseq, Nat.mod_eq_of_lt hcode]
  rw [← hw]
  exact if_pos ho

theorem completes_code {c : Instr} {s : State} {a : Agent} {d : Die} {code : Nat} {P : Mach → Prop}
    (hc : exec c s = s.on (Mach.aptCode a d code)) (hcode : code < 256) (ho : s.m.aptOpen a d = true)
    (hseq : s.m.fl.seq.get a = { st := .u2, die := d }) (hP : P ((s.m.seqOver a).aptIssue a d code)) : Completes c s P :=
  completes_eq _ hc (aptCode_issues hcode ho hseq) hP

section
variable {m : Mach} {a : Agent} {d : Die} {code : Nat}

theorem aptIssue_refused {st : Nat} (h : m.aptRefusal a d code (m.parNow a) = some st) : (m.seqOver a).aptIssue a d code =
    if st = aptErasePending then ((m.seqOver a).svcStatus d.val a st code).bump (fchReg (dieChan d) Reg.FCH_EPEND)
    else (m.seqOver a).svcStatus d.val a st code := by
  have hv : (m.seqOver a).aptRefusal a d code ((m.seqOver a).parNow a) = some st := h
  unfold Mach.aptIssue
  dsimp only
  rw [hv]

theorem aptIssue_accepted (h : m.aptRefusal a d code (m.parNow a) = none) :
    (m.seqOver a).aptIssue a d code = (m.seqOver a).aptRun a d code (m.parNow a) := by
  have hv : (m.seqOver a).aptRefusal a d code ((m.seqOver a).parNow a) = none := h
  unfold Mach.aptIssue
  dsimp only
  rw [hv]
  rfl

/-! ### The status that an agent sees (R194) -/

theorem svcStatus_die (m : Mach) (d : Nat) (a : Agent) (st opc : Nat) : (m.svcStatus d a st opc).die d =
    { m.die d with code := (m.die d).code.set a st, opc := (m.die d).opc.set a opc } := Mach.die_setDie_same ..

theorem svcStatus_other (m : Mach) {d j : Nat} (a : Agent) (st opc : Nat) (h : j ≠ d) : (m.svcStatus d a st opc).die j = m.die j :=
  Mach.die_setDie_ne _ _ _ _ h

theorem svcStatus_same (m : Mach) (d : Nat) (a : Agent) (st opc : Nat) : Mach.SameBut [.fl] m (m.svcStatus d a st opc) :=
  same_updFl ..

theorem refused_shows {st : Nat} (h : m.aptRefusal a d code (m.parNow a) = some st) :
    let t := (m.seqOver a).aptIssue a d code
    t.die d = { m.die d with code := (m.die d).code.set a st, opc := (m.die d).opc.set a code } ∧ (∀ j : Nat, j ≠ d → t.die j = m.die j) ∧
      t.fl.ops = m.fl.ops ∧ Mach.SameBut (if st = aptErasePending then [.fl, .reg] else [.fl]) m t := by
  have hs : Mach.SameBut [.fl] m ((m.seqOver a).svcStatus d.val a st code) := same_trans (seqOver_same ..) (svcStatus_same ..)
  intro t
  have ht : t = _ := aptIssue_refused h
  clear_value t
  subst ht
  split
  · refine ⟨?_, fun j hj => ?_, ?_, same_trans (same_mono hs (by simp)) (same_mono (sb_bump ..) (by simp))⟩
    · rw [Mach.bump_die]
      exact svcStatus_die ..
    · rw [Mach.bump_die]
      exact svcStatus_other _ _ _ _ hj
    · rw [Mach.bump_fl]
      rfl
  · exact ⟨svcStatus_die .., fun j hj => svcStatus_other _ _ _ _ hj, rfl, hs⟩

/-! ### Codes that are queued -/

/-- A service-port operation as it is queued for its die. -/
def Mach.svcOp (a : Agent) (d : Die) (code : Nat) (x : Apt) (m : Mach) : Op :=
  { id := m.fl.nextOp, ch := dieChan d, row := Fin.ofNat 64 d.val, req := .svc a, kind := .svc code x, issued := false, rank0 := false
    waited := false, stalled := false }

/-- The block of an erase is part of the operation. -/
theorem opBlock_erase {e : Op} (h : e.kind.isErase = true) (m t : Mach) : t.opBlock e = m.opBlock e := by
  unfold Mach.opBlock
  split <;> simp_all [OpKind.isErase]

theorem eraseOp_isErase {d : Nat} {e : Op} (h : m.eraseOp d = some e) : e.kind.isErase = true := by
  have hp := List.find?_some h
  simp only [Bool.and_eq_true] at hp
  exact hp.1.2

/-- A read that does not ask for the block being erased is queued like every other code (R193, R201). -/
theorem svcRead_queues {x : Apt} (h : ((m.eraseOp d).any fun e => readsErased e (m.opBlock e) x) = false) :
    m.svcRead a d code x = m.svcQueue a d code x := by
  unfold Mach.svcRead
  dsimp only
  split
  case h_1 e o he ho =>
    have hno : readsErased e (m.opBlock e) x = false := by simpa [he] using h
    rw [opBlock_erase (eraseOp_isErase he) m, if_neg (Bool.eq_false_iff.mp hno)]
  case h_2 => rfl

theorem svcQueue_shows (x : Apt) (hcode : code < 256) :
    let t := (m.seqOver a).svcQueue a d code x
    t.fl.ops = m.fl.ops ++ [m.svcOp a d code x] ∧
      t.die d = { m.die d with code := (m.die d).code.set a aptInProgress, opc := (m.die d).opc.set a code } ∧
      (∀ j : Nat, j ≠ d → t.die j = m.die j) ∧ t.fl.seq.get a = { st := .idle, die := 0 } ∧ m.SameBut [.fl] t := by
  refine ⟨rfl, ?_, fun j hj => svcStatus_other _ _ _ _ hj, seqOver_idle .., same_trans (seqOver_same ..)
    (same_trans (same_updFl ..) (svcStatus_same ..))⟩
  have hmod : code % erasedMark = code := Nat.mod_eq_of_lt hcode
  exact (svcStatus_die ..).trans (by rw [hmod]; rfl)

theorem aptRun_read (x : Apt) (h : code = codeRead ∨ code = codeReadCache) : m.aptRun a d code x = m.svcRead a d code x := by
  rcases h with rfl | rfl <;> rfl

theorem aptRun_queues {x : Apt} (hsus : code ≠ codeSuspend) (hretry : code ≠ codeRetry) (hreset : code ≠ codeReset)
    (h : ¬ ((code = codeRead ∨ code = codeReadCache) ∧ ((m.eraseOp d).any fun e => readsErased e (m.opBlock e) x) = true)) :
    m.aptRun a d code x = m.svcQueue a d code x := by
  by_cases hr : code = codeRead ∨ code = codeReadCache
  · rw [aptRun_read x hr]
    exact svcRead_queues (Bool.eq_false_iff.mpr fun he => h ⟨hr, he⟩)
  · unfold Mach.aptRun
    dsimp only
    rw [if_neg hsus, if_neg hretry, if_neg hreset, if_neg (by simpa using hr)]

end

/-! ### The codes of Table 08.7 -/

/-- Each command of Table 08.7 with its code. -/
def aptCommands (a : Agent) (d : Die) : List (Instr × Nat) :=
  [(.readPage a d, codeRead), (.readPageCache a d, codeReadCache), (.programPage a d, codeProgram), (.programNested a d, codeNested),
    (.eraseBlock a d, codeErase), (.suspend a d, codeSuspend), (.resume a d, codeResume), (.aptSetFeature a d, codeSetFeature),
    (.aptGetFeature a d, codeGetFeature), (.setRetryStep a d, codeRetry), (.readId a d, codeReadId), (.readParameterPage a d, codeParam),
    (.resetDie a d, codeReset)]

theorem exec_aptCommand {a : Agent} {d : Die} {c : Instr} {code : Nat} (s : State) (h : (c, code) ∈ aptCommands a d) :
    exec c s = s.on (Mach.aptCode a d code) ∧ code < 256 := by
  simp only [aptCommands, List.mem_cons, Prod.mk.injEq, List.not_mem_nil, or_false] at h
  rcases h with ⟨rfl, rfl⟩ | ⟨rfl, rfl⟩ | ⟨rfl, rfl⟩ | ⟨rfl, rfl⟩ | ⟨rfl, rfl⟩ | ⟨rfl, rfl⟩ | ⟨rfl, rfl⟩ | ⟨rfl, rfl⟩ |
    ⟨rfl, rfl⟩ | ⟨rfl, rfl⟩ | ⟨rfl, rfl⟩ | ⟨rfl, rfl⟩ | ⟨rfl, rfl⟩
  all_goals exact ⟨rfl, by decide⟩

/-- The commands that are queued for their die. -/
def queuedCommands (a : Agent) (d : Die) : List (Instr × Nat) :=
  [(.readPage a d, codeRead), (.readPageCache a d, codeReadCache), (.programPage a d, codeProgram), (.programNested a d, codeNested),
    (.eraseBlock a d, codeErase), (.resume a d, codeResume), (.aptSetFeature a d, codeSetFeature), (.aptGetFeature a d, codeGetFeature),
    (.readId a d, codeReadId), (.readParameterPage a d, codeParam)]

theorem queuedCommands_subset (a : Agent) (d : Die) : queuedCommands a d ⊆ aptCommands a d := by simp [queuedCommands, aptCommands]

theorem queuedCommands_codes {a : Agent} {d : Die} {c : Instr} {code : Nat} (h : (c, code) ∈ queuedCommands a d) :
    code ≠ codeSuspend ∧ code ≠ codeRetry ∧ code ≠ codeReset := by
  have hcode : code ∈ [codeRead, codeReadCache, codeProgram, codeNested, codeErase, codeResume, codeSetFeature, codeGetFeature, codeReadId,
    codeParam] := List.mem_map_of_mem (f := Prod.snd) h
  refine ⟨?_, ?_, ?_⟩ <;> (rintro rfl; revert hcode; decide)

/-! ### SUSPEND (R198, Table 08.10) -/

theorem markTable_same (off : Nat) (m : Mach) : Mach.SameBut [.hdl, .reg] m (m.markTable off) := (markSeg_same ..).1

/-- Writing a block's entry changes the entry, and marks table segments of the headland. -/
theorem putBlk_same (d b : Nat) (x : Blk) (m : Mach) : Mach.SameBut [.hdl, .reg] (m.setBlk d b x) (m.putBlk d b x) := by
  unfold Mach.putBlk
  dsimp only
  split <;> split
  · exact same_refl ..
  · exact markTable_same ..
  · exact markTable_same ..
  · exact same_trans (markTable_same ..) (markTable_same ..)

theorem die_of_fl {a b : Mach} (h : b.fl = a.fl) (j : Nat) : b.die j = a.die j := by
  unfold Mach.die
  rw [h]

theorem putBlk_die (d b : Nat) (x : Blk) (m : Mach) (j : Nat) : (m.putBlk d b x).die j = m.die j :=
  die_of_fl (same_fl (putBlk_same d b x m) (by simp)) j

theorem putBlk_ops (d b : Nat) (x : Blk) (m : Mach) : (m.putBlk d b x).fl.ops = m.fl.ops := by
  rw [same_fl (putBlk_same d b x m) (by simp)]
  rfl

theorem suspendErase_eq {m : Mach} {d b : Nat} (h : (m.die d).erun = some b) : ∃ x r k n, m.suspendErase d true =
    (((m.setDie d { m.die d with erun := none, esusp := some b, suspends := (m.die d).suspends + 1 }).putBlk d b x).bump r).raiseTo k n
      65535 := by
  unfold Mach.suspendErase
  dsimp only
  rw [h]
  exact ⟨_, _, _, _, rfl⟩

/-- A running erase that is suspended: its die holds it suspended, with one suspend more, and no other die and no operation has changed. -/
theorem suspendErase_frame {m : Mach} {d b : Nat} (h : (m.die d).erun = some b) :
    (m.suspendErase d true).die d = { m.die d with erun := none, esusp := some b, suspends := (m.die d).suspends + 1 } ∧
      (∀ j, j ≠ d → (m.suspendErase d true).die j = m.die j) ∧ (m.suspendErase d true).fl.ops = m.fl.ops ∧
      Mach.SameBut [.fl, .reg, .hdl] m (m.suspendErase d true) := by
  obtain ⟨x, r, k, n, he⟩ := suspendErase_eq h
  rw [he]
  refine ⟨?_, fun j hj => ?_, ?_, ?_⟩
  · rw [Mach.raiseTo_die, Mach.bump_die, putBlk_die, Mach.die_setDie_same]
  · rw [Mach.raiseTo_die, Mach.bump_die, putBlk_die, Mach.die_setDie_ne _ _ _ _ hj]
  · rw [Mach.raiseTo_fl, Mach.bump_fl, putBlk_ops]
    rfl
  · have hblk := putBlk_same d b x (m.setDie d { m.die d with erun := none, esusp := some b, suspends := (m.die d).suspends + 1 })
    generalize Mach.putBlk d b x _ = u at hblk
    refine same_trans (same_trans (b := Mach.setBlk d b x (m.setDie d _)) ?_ (same_mono hblk (by simp))) (b := u) ?_ <;>
      simp [Mach.SameBut]

/-! ### Reads of the block being erased (R201) -/

theorem pffPacket_same (n : Fin 8) (ws : List Word) (m : Mach) : Mach.SameBut [.pff, .reg] m (m.pffPacket n ws) := by
  unfold Mach.pffPacket Mach.pffCommit
  dsimp only
  split
  · split <;> simp [Mach.SameBut]
  · simp [Mach.SameBut]

/-- A packet that a FIFO takes or drops counts on the FIFO's own page at most. -/
theorem pffPacket_rd (n : Fin 8) (ws : List Word) (m : Mach) {k : Nat} (h : k < 0x48000 ∨ 0x50000 ≤ k) : (m.pffPacket n ws).rd k = m.rd k := by
  unfold Mach.pffPacket Mach.pffCommit
  dsimp only
  split
  · split <;> rfl
  · exact Mach.rd_bump_ne _ _ _ (pffReg_ne _ _ _ h (by decide))

/-- The end of a service operation shows its status, and frees the die (R194). -/
theorem svcEnd_shows (o : Op) (a : Agent) (opc st : Nat) (m : Mach) :
    ((m.svcEnd o a opc st).die o.dieIx).code.get a = st ∧ ((m.svcEnd o a opc st).die o.dieIx).opc.get a = opc ∧
      Mach.SameBut [.fl] m (m.svcEnd o a opc st) := by
  unfold Mach.svcEnd
  dsimp only
  refine ⟨?_, ?_, same_trans (same_updFl ..) (same_trans (same_updFl ..) (svcStatus_same ..))⟩
  · rw [svcStatus_die]
    exact PerAgent.get_set_same ..
  · rw [svcStatus_die]
    exact PerAgent.get_set_same ..

/-- The outbound packet of a read of the block being erased goes at once where PFF4 has room and no transfer waits. -/
theorem svcTransfer_pending {m : Mach} (o : Op) {code : Nat} {x : Apt} (hcode : erasedMark ≤ code) (hfree : x.len / 4 ≤ m.pffFree 4)
    (hrun : m.running (.pff 4) = true) (hx : m.fl.xfers = []) : ∃ ws, m.svcTransfer o code x =
      (m.draw.pffPacket 4 ws).svcEnd o (Mach.svcAgent o) (code % erasedMark) aptErasePending := by
  have hws : m.svcWords o code x = freeWords Config.eraseReadWord m.free (x.len / 4) := if_pos hcode
  have hbehind : m.xferBehind o = false := by simp [Mach.xferBehind, hx]
  refine ⟨m.svcWords o code x, ?_⟩
  unfold Mach.svcTransfer
  dsimp only
  rw [if_pos (by simp [hws, freeWords, hfree, hrun, hbehind]), if_pos hcode]

theorem dieIx_svcOp (m : Mach) (a : Agent) (d : Die) (code : Nat) (x : Apt) : (m.svcOp a d code x).dieIx = d.val := by
  have := d.isLt
  simp [Mach.svcOp, Op.dieIx, dieOf, dieChan]
  omega

/-- Where operations are numbered below the next number, the operation just queued is the one with its number. -/
theorem op_svcQueue {m : Mach} (a : Agent) (d : Die) (code : Nat) (x : Apt) (h : ∀ o ∈ m.fl.ops, o.id < m.fl.nextOp) :
    (m.svcQueue a d code x).op m.fl.nextOp = some (m.svcOp a d code x) := by
  have hold : m.fl.ops.find? (fun o => o.id == m.fl.nextOp) = none := by
    simpa using fun o ho => (h o ho).ne
  have hops : (m.svcQueue a d code x).fl.ops = m.fl.ops ++ [m.svcOp a d code x] := rfl
  unfold Mach.op
  rw [hops, List.find?_append, hold]
  simp [Mach.svcOp]

/-- A read of the block being erased, as it ends. -/
def Mach.pendingOp (a : Agent) (d : Die) (x : Apt) (m : Mach) : Op :=
  { m.svcOp a d codeRead x with issued := true, kind := .svc (codeRead + erasedMark) x }

/-- Such a read has been queued and counted. -/
def Mach.svcCounted (a : Agent) (d : Die) (x : Apt) (m : Mach) : Mach :=
  ((m.svcQueue a d codeRead x).setOp (m.pendingOp a d x)).bump (fchReg (dieChan d) Reg.FCH_EPEND)

theorem pffFree_svcCounted (m : Mach) (a : Agent) (d : Die) (x : Apt) : (m.svcCounted a d x).pffFree 4 = m.pffFree 4 := by
  unfold Mach.pffFree Mach.svcCounted
  rw [Mach.bump_fifo]
  rfl

theorem fchReg_below (c : Chan) {off : Nat} (h : off < 0x1000) : fchReg c off < 0x48000 := by
  have hc := c.isLt
  simp [fchReg, Page.base]
  omega

/-- A read of the block being erased is answered at once: its packet goes to PFF4, it ends in ERASE_PENDING, and FCH_EPEND counts it. -/
theorem svcRead_pends {m : Mach} {a : Agent} {d : Die} {x : Apt}
    (he : ((m.eraseOp d).any fun e => readsErased e (m.opBlock e) x) = true) (hfree : x.len / 4 ≤ m.pffFree 4)
    (hrun : m.running (.pff 4) = true) (hids : ∀ o ∈ m.fl.ops, o.id < m.fl.nextOp) (hx : m.fl.xfers = []) :
    let t := m.svcRead a d codeRead x
    (t.die d).code.get a = aptErasePending ∧ (t.die d).opc.get a = codeRead ∧ t.free = m.free + 1 ∧
      t.rdN (fchReg (dieChan d) Reg.FCH_EPEND) = min 0xFFFFFFFF (m.rdN (fchReg (dieChan d) Reg.FCH_EPEND) + 1) := by
  obtain ⟨e, he', hreads⟩ := (Option.any_eq_true _ _).mp he
  intro t
  have ht : t = (m.svcQueue a d codeRead x).svcErased (m.svcOp a d codeRead x) codeRead x := by
    simp only [t]
    unfold Mach.svcRead
    dsimp only
    rw [he', op_svcQueue a d codeRead x hids]
    dsimp only
    rw [opBlock_erase (eraseOp_isErase he') m, if_pos hreads]
  obtain ⟨ws, hws⟩ := svcTransfer_pending (m := (m.svcCounted a d x)) (m.pendingOp a d x) (code := codeRead + erasedMark) (by decide)
    (hfree.trans_eq (pffFree_svcCounted m a d x).symm) ((Mach.running_bump ..).trans hrun) (by rw [Mach.svcCounted, Mach.bump_fl]; exact hx)
  have hdie : (m.pendingOp a d x).dieIx = d := dieIx_svcOp m a d codeRead x
  obtain ⟨hcode, hopc, hsame⟩ := svcEnd_shows (m.pendingOp a d x) a codeRead aptErasePending ((m.svcCounted a d x).draw.pffPacket 4 ws)
  rw [hdie] at hcode hopc
  have hw : t = ((m.svcCounted a d x).draw.pffPacket 4 ws).svcEnd (m.pendingOp a d x) a codeRead aptErasePending := ht.trans hws
  rw [hw]
  refine ⟨hcode, hopc, ?_, ?_⟩
  · calc _ = ((m.svcCounted a d x).draw.pffPacket 4 ws).free := same_free hsame (by simp)
      _ = (m.svcCounted a d x).draw.free := same_free (pffPacket_same ..) (by simp)
      _ = m.free + 1 := by rw [Mach.draw_free, Mach.svcCounted, Mach.bump_free]; rfl
  · have hrd : ((m.svcCounted a d x).draw.pffPacket 4 ws).rdN (fchReg (dieChan d) Reg.FCH_EPEND) =
        (m.svcCounted a d x).rdN (fchReg (dieChan d) Reg.FCH_EPEND) :=
      congrArg BitVec.toNat (pffPacket_rd 4 ws _ (.inl (fchReg_below (dieChan d) (by decide))))
    calc _ = ((m.svcCounted a d x).draw.pffPacket 4 ws).rdN (fchReg (dieChan d) Reg.FCH_EPEND) :=
          rdN_of_regsBut (rb_of_reg (same_reg hsame (by simp))) (by simp)
      _ = (m.svcCounted a d x).rdN (fchReg (dieChan d) Reg.FCH_EPEND) := hrd
      _ = min 0xFFFFFFFF (m.rdN (fchReg (dieChan d) Reg.FCH_EPEND) + 1) := rdN_bump ..

/-! ### Codes that act at once -/

section
variable {m : Mach} {a : Agent} {d : Die}

theorem svcSuspend_suspends (h : Config.eraseEnded m.free = false) :
    m.svcSuspend a d = (m.draw.suspendErase d true).svcStatus d a aptDone codeSuspend := by
  unfold Mach.svcSuspend
  dsimp only
  rw [h, if_neg Bool.false_ne_true]

/-- A SUSPEND that meets the end of the erase counts the erase as complete (Table 08.10). -/
theorem svcSuspend_completes (h : Config.eraseEnded m.free = true) :
    m.svcSuspend a d = (m.draw.eraseCompletes d).svcStatus d a aptDone codeSuspend := by
  unfold Mach.svcSuspend
  dsimp only
  rw [h, if_pos rfl]

/-- SUSPEND shows DONE and suspends the erase, where it does not meet the end of the erase (Table 08.10). -/
theorem suspend_shows {b : Nat} (hend : Config.eraseEnded m.free = false) (h : (m.die d).erun = some b) :
    let t := (m.seqOver a).aptRun a d codeSuspend (m.parNow a)
    t.die d = { m.die d with
      erun := none, esusp := some b, suspends := (m.die d).suspends + 1, code := (m.die d).code.set a aptDone
      opc := (m.die d).opc.set a codeSuspend } ∧
    (∀ j : Nat, j ≠ d → t.die j = m.die j) ∧ t.fl.ops = m.fl.ops ∧ t.free = m.free + 1 ∧ m.SameBut [.fl, .reg, .hdl, .free] t := by
  obtain ⟨hdie, hother, hops, hsame⟩ := suspendErase_frame (m := (m.seqOver a).draw) (d := d) (b := b) h
  have hw : (m.seqOver a).aptRun a d codeSuspend (m.parNow a) =
      ((m.seqOver a).draw.suspendErase d true).svcStatus d a aptDone codeSuspend := svcSuspend_suspends hend
  intro t
  have ht : t = _ := hw
  rw [ht]
  refine ⟨?_, fun j hj => ?_, hops, same_free hsame (by simp), ?_⟩
  · rw [svcStatus_die, hdie]
    rfl
  · rw [svcStatus_other _ _ _ _ hj, hother j hj]
    rfl
  · exact same_trans (same_trans (b := (m.seqOver a).draw) (by simp [Mach.SameBut, Mach.seqOver, Mach.setSeq]) (same_mono hsame (by simp)))
      (same_mono (svcStatus_same ..) (by simp))

/-- SET_RETRY_STEP has its step in effect at once. -/
theorem setRetry_shows :
    let t := (m.seqOver a).aptRun a d codeRetry (m.parNow a)
    t.die d = { m.die d with
      retry := (m.die d).retry.set a (m.parNow a).step, code := (m.die d).code.set a aptDone, opc := (m.die d).opc.set a codeRetry } ∧
    (∀ j : Nat, j ≠ d → t.die j = m.die j) ∧ t.fl.ops = m.fl.ops ∧ m.SameBut [.fl] t := by
  refine ⟨?_, fun j hj => ?_, rfl, same_trans (same_trans (seqOver_same ..) (same_updFl ..)) (svcStatus_same ..)⟩
  · exact (svcStatus_die ..).trans (by rw [Mach.die_setDie_same]; rfl)
  · exact (svcStatus_other _ _ _ _ hj).trans (Mach.die_setDie_ne _ _ _ _ hj)

/-- RESET_DIE of a die without an erase clears its erase registers and its cache register. -/
theorem resetDie_shows (h : m.eraseOp d = none) :
    let t := (m.seqOver a).aptRun a d codeReset (m.parNow a)
    t.die d = { m.die d with
      erun := none, esusp := none, suspends := 0, inInterval := false, cache := none, code := (m.die d).code.set a aptDone
      opc := (m.die d).opc.set a codeReset } ∧
    (∀ j : Nat, j ≠ d → t.die j = m.die j) ∧ t.fl.ops = m.fl.ops ∧ m.SameBut [.fl] t := by
  have hreset : (m.seqOver a).resetDie d = (m.seqOver a).dieEraseOver d := by
    have hnone : (m.seqOver a).eraseOp d = none := h
    unfold Mach.resetDie
    rw [hnone]
  have hw : (m.seqOver a).aptRun a d codeReset (m.parNow a) = (((m.seqOver a).dieEraseOver d).setDie d
      { ((m.seqOver a).dieEraseOver d).die d with cache := none }).svcStatus d a aptDone codeReset := by
    rw [← hreset]
    rfl
  intro t
  have ht : t = _ := hw
  rw [ht]
  refine ⟨?_, fun j hj => ?_, rfl, same_trans (same_trans (seqOver_same ..) (same_trans (same_updFl ..) (same_updFl ..))) (svcStatus_same ..)⟩
  · rw [svcStatus_die, Mach.die_setDie_same, Mach.dieEraseOver, Mach.die_setDie_same]
    rfl
  · rw [svcStatus_other _ _ _ _ hj, Mach.die_setDie_ne _ _ _ _ hj, Mach.dieEraseOver, Mach.die_setDie_ne _ _ _ _ hj]
    rfl

end

/-! ### The statement -/

/-- Where no SUSPEND meets the end of its erase, every clause holds: the verdict on a code decides between a status, the die's queue, and the codes
that act at once. -/
theorem apertureCodes_of_eraseEnded_false (hend : ∀ n, Config.eraseEnded n = false) : Obligations.ApertureCodes := by
  unfold Obligations.ApertureCodes
  refine ⟨?queued, ?suspend, ?retry, ?reset, ?pending, ?refused, ?unknown⟩
  case queued =>
    intro s a d c code ho hseq hmem href hnot
    obtain ⟨hc, hlt⟩ := exec_aptCommand s (queuedCommands_subset a d hmem)
    obtain ⟨hsuspend, hretry, hreset⟩ := queuedCommands_codes hmem
    refine completes_code hc hlt ho hseq ?_
    rw [aptIssue_accepted href, aptRun_queues (m := s.m.seqOver a) hsuspend hretry hreset hnot]
    exact svcQueue_shows _ hlt
  case suspend =>
    intro s a d b ho hseq href hrun
    obtain ⟨hdie, hother, hops, hfree, hsame⟩ := suspend_shows (a := a) (hend s.m.free) hrun
    refine completes_code rfl (by decide) ho hseq ?_
    rw [aptIssue_accepted href, hdie]
    exact ⟨PerAgent.get_set_same .., PerAgent.get_set_same .., hfree, fun _ => ⟨rfl, rfl, rfl, hops, hother, hsame⟩,
      fun h => absurd (h.symm.trans (hend _)) (by decide)⟩
  case retry =>
    intro s a d ho hseq href
    refine completes_code rfl (by decide) ho hseq ?_
    rw [aptIssue_accepted href]
    exact setRetry_shows
  case reset =>
    intro s a d ho hseq href herase
    refine completes_code rfl (by decide) ho hseq ?_
    rw [aptIssue_accepted href]
    exact resetDie_shows herase
  case pending =>
    intro s a d ho hseq href he hfree hrun hids hx
    refine completes_code rfl (by decide) ho hseq ?_
    rw [aptIssue_accepted href, aptRun_read _ (.inl rfl)]
    exact svcRead_pends (m := s.m.seqOver a) he hfree hrun hids hx
  case refused =>
    intro s a d c code st ho hseq hmem href
    obtain ⟨hc, hlt⟩ := exec_aptCommand s hmem
    obtain ⟨hdie, hother, hops, hsame⟩ := refused_shows href
    exact completes_code hc hlt ho hseq ⟨hdie, hother, hops, same_mono hsame (by split <;> simp)⟩
  case unknown =>
    intro s a d code ho hseq hcode hfree
    have href : s.m.aptRefusal a d code.toNat (s.m.parNow a) = some aptBadCmd := by
      unfold Mach.aptRefusal
      dsimp only
      rw [if_neg (by simpa using hfree), if_pos (by simpa using hcode)]
    obtain ⟨hdie, hother, hops, hsame⟩ := refused_shows href
    exact completes_code rfl code.isLt ho hseq ⟨hdie, hother, hops, hsame⟩

/-! ### What the end of an erase draws -/

theorem release_unlocked {m : Mach} {s : Nat} (h : (m.cmd s).locked = false) : m.release s = m := by
  unfold Mach.release
  rw [h]
  rfl

theorem freeSlot_free {m : Mach} {s : Nat} (h : ∀ e ∈ m.twn.tx, e.2 ≠ .cmd s) : (m.freeSlot s).free = m.free := by
  unfold Mach.freeSlot
  rw [Mach.touch_free, Mach.setCmd_free, Mach.updQ_free]
  exact same_free (twnForget_same m s h) (by simp)

/-- The end of a host's command draws the free value of its latency (quantity 0x20). -/
theorem complete_free {m : Mach} {s status : Nat} (d2 d3 : Nat) (hk : (m.cmd s).kind = .host) (hl : (m.cmd s).locked = false)
    (hq : (m.cmd s).qid = none) (hs : status ≠ St.writeFault) (htx : ∀ e ∈ m.twn.tx, e.2 ≠ .cmd s) :
    (m.complete s status d2 d3).free = m.free + 1 := by
  have hfault : ¬ (decide (status = St.writeFault) && (CmdKind.host == CmdKind.host)) = true := by simpa using hs
  obtain ⟨u, v, hu, hv, hw⟩ : ∃ u v : Mach, Mach.SameBut [.buf, .fl] m u ∧ Mach.SameBut [.alm] u.draw v ∧
      m.complete s status d2 d3 = v.freeSlot s := by
    unfold Mach.complete
    dsimp only
    rw [release_unlocked hl, hk, hq, if_neg hfault, if_pos (show (CmdKind.host == CmdKind.host) = true from rfl)]
    refine ⟨_, _, ?_, observe_same .., rfl⟩
    split <;> simp [Mach.SameBut, Mach.forgetReads, Mach.markCovered]
  have htwn : v.twn = m.twn := by rw [same_twn hv (by simp), Mach.draw_twn, same_twn hu (by simp)]
  rw [hw, freeSlot_free (by rw [htwn]; exact htx), same_free hv (by simp), Mach.draw_free, same_free hu (by simp)]

theorem rd_markSeg (s : Nat) (m : Mach) (k : Nat) : (m.markSeg s).rd k = m.rd k := by
  unfold Mach.markSeg Mach.raiseWindow
  dsimp only
  split
  · rfl
  · split
    · exact Mach.rd_touch ..
    · rfl

theorem rd_putBlk (d b : Nat) (x : Blk) (m : Mach) (k : Nat) : (m.putBlk d b x).rd k = m.rd k := by
  unfold Mach.putBlk Mach.markTable
  dsimp only
  split <;> split
  · rfl
  · exact rd_markSeg ..
  · exact rd_markSeg ..
  · exact (rd_markSeg ..).trans (rd_markSeg ..)

theorem rd_observe (q : Nat) (b : Option Nat) (v : Int) (m : Mach) (k : Nat) : (m.observe q b v).rd k = m.rd k := by
  unfold Mach.rd
  rw [same_reg (observe_same q b v m) (by simp)]

/-- What the end of an erase leaves before its furrow is looked at. -/
def Mach.blockErased (d b id : Nat) (x : Blk) (bin : Option Nat) (v : Int) (m : Mach) : Mach :=
  ((((((m.putBlk d b x).wipeBlock d b).bump64 Reg.GLN_ERASES_LO).observe 0x21 bin v).dieEraseOver d).dropOp id)

theorem blockErased_same (d b id : Nat) (x : Blk) (bin : Option Nat) (v : Int) (m : Mach) :
    Mach.SameBut [.fl, .hdl, .reg, .alm] m (m.blockErased d b id x bin v) := by
  have hblk : Mach.SameBut [.fl, .hdl, .reg] m (m.putBlk d b x) :=
    same_trans (b := m.setBlk d b x) (by simp [Mach.SameBut]) (same_mono (putBlk_same ..) (by simp))
  unfold Mach.blockErased
  generalize m.putBlk d b x = u at hblk
  have hcount : Mach.SameBut [.fl, .reg] u ((u.wipeBlock d b).bump64 Reg.GLN_ERASES_LO) := by simp [Mach.SameBut, Mach.wipeBlock]
  generalize (u.wipeBlock d b).bump64 Reg.GLN_ERASES_LO = w at hcount
  exact same_trans (same_mono hblk (by simp)) (same_trans (same_mono hcount (by simp))
    (same_trans (same_mono (observe_same ..) (by simp)) (same_mono (same_trans (same_updFl ..) (same_updFl ..)) (by simp))))

theorem blockErased_rd (d b id : Nat) (x : Blk) (bin : Option Nat) (v : Int) (m : Mach) (k : Nat) :
    (m.blockErased d b id x bin v).rd k = m.rd k :=
  calc (m.blockErased d b id x bin v).rd k = ((((m.putBlk d b x).wipeBlock d b).bump64 Reg.GLN_ERASES_LO).observe 0x21 bin v).rd k := rfl
    _ = (m.putBlk d b x).rd k := by rw [rd_observe, rd_bump64]; rfl
    _ = m.rd k := rd_putBlk ..

theorem eraseDone_member (o : Op) (b : Nat) (m : Mach) : ∃ x bin v, m.eraseDone o b false =
    (m.blockErased o.dieIx b o.id x bin v).memberErased o.ch ((m.blockErased o.dieIx b o.id x bin v).furrowOf o.ch o.row.val b) := by
  unfold Mach.eraseDone
  dsimp only
  rw [if_neg Bool.false_ne_true]
  exact ⟨_, _, _, rfl⟩

theorem memberErased_last {m : Mach} {c : Chan} {f : Nat} (hst : (m.fur f).st = .erasing) (hleft : (m.fur f).toErase &&& ~~~(bit32 c.val) = 0) :
    (m.memberErased c f).free = ((m.setFur f { m.fur f with toErase := 0 }).makeFallow f).free := by
  unfold Mach.memberErased
  dsimp only
  rw [hleft, if_pos (by simp [hst])]
  rfl

/-- A furrow that has become FALLOW. -/
def Fur.fallowed (x : Fur) : Fur := { x with
  st := .fallow, fsn := 0, layout1 := false, absent := 0, lost := 0, placed := 0, valid := 0, refresh := false,
  relocate := false, eRel := 0, toErase := 0, stripes := 0 }

theorem makeFallow_absent {m : Mach} {f : Nat} (h : (m.fur f).absent = 0xFFFFFFFF) :
    m.makeFallow f = (m.putFur f (Fur.fallowed (m.fur f))).urgency := by
  have hnone : ((List.finRange 32).filter fun c => !(0xFFFFFFFF : Word).getLsbD c.val) = [] := by decide
  unfold Mach.makeFallow
  dsimp only
  rw [h, hnone]
  rfl

/-- What the end of the erase of the last member leaves before the urgency level is looked at. -/
def Mach.fallowed (f : Nat) (m : Mach) : Mach :=
  (m.setFur f { m.fur f with toErase := 0 }).putFur f (Fur.fallowed { m.fur f with toErase := 0 })

theorem fallowed_same (f : Nat) (m : Mach) : Mach.SameBut [.gln, .hdl, .reg] m (m.fallowed f) :=
  same_trans (b := m.setFur f { m.fur f with toErase := 0 }) (by simp [Mach.SameBut]) (putFur_same ..)

theorem fallowed_rd (f : Nat) (m : Mach) (k : Nat) : (m.fallowed f).rd k = m.rd k := rd_markSeg ..

theorem fallowed_gln (f : Nat) (m : Mach) : (m.fallowed f).gln = { m.gln with
    fur := SMap.set {} (SMap.set {} m.gln.fur f { m.fur f with toErase := 0 }) f (Fur.fallowed { m.fur f with toErase := 0 }) } :=
  same_gln (markSeg_same ..).1 (by simp)

/-- The last member of a furrow without members that are absent or bad has been erased. -/
theorem memberErased_fallowed {m : Mach} {c : Chan} {f : Nat} (hst : (m.fur f).st = .erasing) (hleft : (m.fur f).toErase &&& ~~~(bit32 c.val) = 0)
    (habs : (m.fur f).absent = 0xFFFFFFFF) : (m.memberErased c f).free = (m.fallowed f).urgency.free := by
  rw [memberErased_last hst hleft, makeFallow_absent (by rw [Mach.fur_setFur_same]; exact habs), Mach.fur_setFur_same]
  rfl

/-- The urgency level rises to EXHAUSTED where GLN_EXHTHR takes the fallow count for it, and the one WRITE that is short of its commit point ends. -/
theorem urgency_free {m : Mach} {s : Nat} (hload : m.dev.loaded = true) (hn : m.fallowCount ≤ m.rdN Reg.GLN_EXHTHR)
    (hlev : m.gln.level = .low) (hshort : m.shortWrites = [s]) (hk : (m.cmd s).kind = .host) (hl : (m.cmd s).locked = false)
    (hq : (m.cmd s).qid = none) (htx : m.twn.tx = []) : m.urgency.free = m.free + 1 := by
  have hup : m.levelFor m.fallowCount = .exhausted := if_pos hn
  obtain ⟨u, hu, hw⟩ : ∃ u : Mach, Mach.SameBut [.gln, .reg] m u ∧ m.urgency = u.enterExhausted := by
    unfold Mach.urgency
    dsimp only
    rw [hload, hup, hlev]
    exact ⟨((m.updGln _).touch .gln), by simp [Mach.SameBut], rfl⟩
  have hcmd : u.cmd s = m.cmd s := cmd_of_q (same_q hu (by simp)) s
  have hshort' : u.shortWrites = [s] := by
    rw [← hshort]
    unfold Mach.shortWrites Mach.cmd
    rw [same_q hu (by simp)]
  rw [hw]
  unfold Mach.enterExhausted
  rw [hshort', same_free (raise_same ..) (by simp)]
  have hone := complete_free (m := u) (s := s) (status := St.noSpace) 0 0 (by rw [hcmd, hk]) (by rw [hcmd, hl]) (by rw [hcmd, hq]) (by decide)
    (by rw [same_twn hu (by simp), htx]; simp)
  rw [← same_free hu (by simp)]
  exact hone

/-! ### A SUSPEND that meets the end of the erase -/

/-- What training may learn of a die. -/
def someDie : DieInfo :=
  { row := 5, matched := true, extrate := true, nested := true, resMin := 1, slc := true, tempFa := 3, retry := 8, slcPages := 4
    slcCycles := 100, tReadNs := 1, tProgNs := 1, tBersNs := 1, tSlcNs := 1, maxSlcUs := 100, tProgMaxUs := 1000, endurance := 3000
    planes := 2, pages := 4, blocks := 256, factoryBad := [] }

/-- The erase of block 7 at row 5 of channel 1, issued. -/
def lastOp : Op :=
  { id := 0, ch := 1, row := 5, req := .q2, kind := .erase 7 false, issued := true, rank0 := false, waited := false, stalled := false }

/-- A WRITE of a host that is short of its commit point. -/
def shortWrite : Cmd := { entry := mkEntry opWrite 1 0 0, stage := .admitted }

/-- A furrow whose member on channel 1 alone is not yet erased. -/
def lastFur : Fur := { st := .erasing, toErase := 2, absent := 0xFFFFFFFF }

/-- A STOPPED channel 1 whose die at row 5 erases the last block of a furrow, before a SUSPEND of management firmware. The furrow will be the only
one that is FALLOW, which GLN_EXHTHR takes for EXHAUSTED, and a WRITE of a host is short of its commit point. -/
def lastErase (n : Nat) : State :=
  { m := {
      dev := { loaded := true }
      reg := { pg := [((Page.fch 1).base, { st := .stopped })], r := [(Reg.GLN_EXHTHR, 1)] }
      adm := { board := { targets := 4, dies := 4, planes := 2, pages := 4, blocks := 256 } }
      q := { used := [3], cmd := [(3, shortWrite)] }
      gln := { fur := [(4096 * 5 + 7, lastFur)] }
      fl := {
        die := [(69, { info := some someDie, erun := some 7 })], ops := [lastOp], nextOp := 1
        seq := { p0 := {}, p1 := {}, mgmt := { st := .u2, die := 69 } } }
      free := n } }

/-- There, when SUSPEND has drawn the free value that ends the erase. -/
def lastEnd (n : Nat) : Mach := ((lastErase n).m.seqOver .mgmt).draw

section
variable {n : Nat} {u : Mach}

theorem lastErase_furrow (hsame : Mach.SameBut [.fl, .hdl, .reg, .alm] (lastEnd n) u) : u.furrowOf lastOp.ch lastOp.row.val 7 = 4096 * 5 + 7 := by
  have hadm : u.adm = (lastErase n).m.adm := (same_adm hsame (by simp)).trans rfl
  have hspare : ¬ u.firstSpare ≤ 7 := by
    unfold Mach.firstSpare Mach.nspare
    rw [hadm]
    exact (by decide : ¬ 256 - (256 + 31) / 32 ≤ 7)
  unfold Mach.furrowOf
  simp [hspare, lastOp]

theorem lastErase_fur (hsame : Mach.SameBut [.fl, .hdl, .reg, .alm] (lastEnd n) u) : u.fur (4096 * 5 + 7) = lastFur := by
  unfold Mach.fur
  rw [same_gln hsame (by simp)]
  rfl

/-- With the furrow FALLOW, the WRITE completes with NO_SPACE, whose latency is a second free value (R263, quantity 0x20). -/
theorem lastErase_urgency (hsame : Mach.SameBut [.fl, .hdl, .reg, .alm] (lastEnd n) u) (hrd : ∀ k, u.rd k = (lastEnd n).rd k) :
    (u.fallowed (4096 * 5 + 7)).urgency.free = n + 2 := by
  have hgln := fallowed_gln (4096 * 5 + 7) u
  rw [lastErase_fur hsame, same_gln hsame (by simp)] at hgln
  have hw := fallowed_same (4096 * 5 + 7) u
  have hwrd := fallowed_rd (4096 * 5 + 7) u
  generalize u.fallowed (4096 * 5 + 7) = w at hgln hw hwrd
  have hq : w.q = (lastErase n).m.q := (same_q hw (by simp)).trans ((same_q hsame (by simp)).trans rfl)
  have hcmd : w.cmd 3 = shortWrite := cmd_of_q hq 3
  have hexh : w.rdN Reg.GLN_EXHTHR = 1 := by
    unfold Mach.rdN
    rw [hwrd, hrd]
    rfl
  have hcount : w.fallowCount = 1 := by
    unfold Mach.fallowCount Mach.fallows
    rw [hgln]
    rfl
  have hload : w.dev.loaded = true := by
    rw [same_dev hw (by simp), same_dev hsame (by simp)]
    rfl
  have hlevel : w.gln.level = .low := by
    rw [hgln]
    rfl
  have hshort : w.shortWrites = [3] := by
    have hopc : entOpc shortWrite.entry = opWrite := by decide +kernel
    have hused : w.q.used = [3] := congrArg (·.used) hq
    unfold Mach.shortWrites
    rw [hused]
    simp [hcmd, hopc, show shortWrite.kind = .host from rfl, show shortWrite.stage = .admitted from rfl]
  have htx : w.twn.tx = [] := by
    rw [same_twn hw (by simp), same_twn hsame (by simp)]
    rfl
  rw [urgency_free hload (by rw [hexh, hcount]) hlevel hshort (by rw [hcmd]; rfl) (by rw [hcmd]; rfl) (by rw [hcmd]; rfl) htx,
    same_free hw (by simp), same_free hsame (by simp)]
  rfl

end

/-- So the end of this erase draws two free values. -/
theorem lastErase_draws (n : Nat) : ((lastEnd n).eraseCompletes 69).free = n + 2 := by
  have hop : (lastEnd n).eraseCompletes 69 = (lastEnd n).eraseDone lastOp 7 false := rfl
  obtain ⟨x, bin, v, hdone⟩ := eraseDone_member lastOp 7 (lastEnd n)
  have hsame := blockErased_same lastOp.dieIx 7 lastOp.id x bin v (lastEnd n)
  have hfur := lastErase_fur hsame
  rw [hop, hdone, lastErase_furrow hsame, memberErased_fallowed (by rw [hfur]; rfl) (by rw [hfur]; rfl) (by rw [hfur]; rfl)]
  exact lastErase_urgency hsame fun _ => blockErased_rd ..

/-- The statement needs that no free value lets a SUSPEND meet the end of its erase: where one does, this SUSPEND takes two. -/
theorem eraseEnded_false_of_apertureCodes (h : Obligations.ApertureCodes) (n : Nat) : Config.eraseEnded n = false := by
  unfold Obligations.ApertureCodes at h
  obtain ⟨-, hsuspend, -⟩ := h
  have hopen : (lastErase n).m.aptOpen .mgmt 69 = true := rfl
  have href : (lastErase n).m.aptRefusal .mgmt 69 codeSuspend ((lastErase n).m.parNow .mgmt) = none := rfl
  obtain ⟨-, -, hfree, -⟩ := of_completes (Mach.aptCode .mgmt 69 codeSuspend) rfl (hsuspend (lastErase n) .mgmt 69 7 hopen rfl href rfl)
  by_contra hend
  have hw : (lastErase n).m.aptCode .mgmt 69 codeSuspend = ((lastEnd n).eraseCompletes 69).svcStatus 69 .mgmt aptDone codeSuspend := by
    rw [aptCode_issues (by decide) hopen rfl, aptIssue_accepted href]
    exact svcSuspend_completes (eq_true_of_ne_false hend)
  rw [hw, same_free (svcStatus_same ..) (by simp), lastErase_draws] at hfree
  have htwo : n + 2 = n + 1 := hfree
  omega

/-- What the aperture's statement comes to: it holds where no SUSPEND meets the end of an erase, and only there. -/
theorem apertureCodes_iff : Obligations.ApertureCodes ↔ ∀ n, Config.eraseEnded n = false :=
  ⟨eraseEnded_false_of_apertureCodes, apertureCodes_of_eraseEnded_false⟩

end Sys2Proof.Machine

/-! Decoding beyond the channel (O49): soft decode and the reconstruction from parity (R218 to R220, R225 to R227). First what the tables of
tasks and versions give back, the reads of peers, and the flag for refresh, which leaves the parity of every group as it is (R226); then how
a read ends, and one equation for each outcome of the two rows. That a row does nothing without its occasion is the model's choice (log
entry 11). -/

namespace Sys2Proof.Machine

/-! ### Tables of entries with numbers -/

/-- An entry put in the place of the one with its number is found under that number, and every other entry as before. -/
theorem find_replace {α : Type} (num : α → Nat) (x : α) (i : Nat) (l : List α) :
    (l.map fun y => if num y == num x then x else y).find? (fun y => num y == i) =
      if i = num x then (l.find? fun y => num y == i).map fun _ => x else l.find? fun y => num y == i := by
  induction l with
  | nil => simp
  | cons y l ih =>
    simp only [List.map_cons, List.find?_cons]
    grind

theorem task_of_fl {a b : Mach} (h : b.fl = a.fl) (i : Nat) : b.task i = a.task i := by
  unfold Mach.task
  rw [h]

theorem task_id {m : Mach} {i : Nat} {x : RdTask} (h : m.task i = some x) : x.id = i := by
  simpa using List.find?_some h

theorem ver_id {m : Mach} {i : Nat} {x : Ver} (h : m.ver i = some x) : x.id = i := by
  simpa using List.find?_some h

theorem task_setTask (m : Mach) (x : RdTask) (i : Nat) :
    (m.setTask x).task i = if i = x.id then (m.task i).map fun _ => x else m.task i := find_replace RdTask.id x i m.fl.tasks

theorem ver_setVer (m : Mach) (x : Ver) (i : Nat) :
    (m.setVer x).ver i = if i = x.id then (m.ver i).map fun _ => x else m.ver i := find_replace Ver.id x i m.buf.vers

theorem task_dropTask (m : Mach) (d i : Nat) : (m.dropTask d).task i = if i = d then none else m.task i := by
  unfold Mach.dropTask Mach.task
  simp only [Mach.updFl_fl, List.find?_filter]
  split
  · simp_all
  · next h => exact congrArg (List.find? · _) (funext fun x => by grind)

theorem dropTask_same (d : Nat) (m : Mach) : Mach.SameBut [.fl] m (m.dropTask d) := same_updFl ..

theorem setTask_same (x : RdTask) (m : Mach) : Mach.SameBut [.fl] m (m.setTask x) := same_updFl ..

theorem setVer_same (x : Ver) (m : Mach) : Mach.SameBut [.buf] m (m.setVer x) := by simp [Mach.SameBut, Mach.setVer]

/-! ### The reads of peers -/

/-- The reads of peers join the tasks and the queues behind what is there. -/
theorem readPeers_shows (t : RdTask) (l : List Peer) (m : Mach) :
    (∀ i x, m.task i = some x → (m.each l fun p m => m.readPeer t p).task i = some x) ∧
    (m.each l fun p m => m.readPeer t p).fl.softTasks = m.fl.softTasks ∧
    (m.each l fun p m => m.readPeer t p).fl.ops.length = m.fl.ops.length + l.length ∧
    Mach.SameBut [.fl] m (m.each l fun p m => m.readPeer t p) := by
  unfold Mach.each
  induction l generalizing m with
  | nil => exact ⟨fun _ _ h => h, rfl, rfl, same_refl ..⟩
  | cons p l ih =>
    obtain ⟨htask, hsoft, hops, hsame⟩ := ih (m.readPeer t p)
    refine ⟨fun i x h => htask i x ?_, hsoft, ?_, same_trans (by simp [Mach.SameBut, Mach.readPeer, Mach.queueOp]) hsame⟩
    · unfold Mach.task at h
      simp [Mach.readPeer, Mach.queueOp, Mach.task, List.find?_append, h]
    · rw [List.foldl_cons, hops]
      simp only [Mach.readPeer, Mach.queueOp, Mach.updFl_fl, List.length_append, List.length_cons, List.length_nil]
      omega

/-- The read as stage 4 takes it up (R226): its group with the parity that there is, Q asked for where two are erased. -/
def RdTask.rebuilding (x : RdTask) (g : Option Group) : RdTask := { x with stage := 4, sens := [], grp := g.map Group.askQ }

/-- Stage 4 begins with the group and the reads of its peers. -/
theorem beginStage4_shows {m : Mach} {x y : RdTask} (h : m.task x.id = some y) :
    (m.beginStage4 x).task x.id = some (x.rebuilding (m.parityGroup x.addr)) ∧ (m.beginStage4 x).fl.softTasks = m.fl.softTasks ∧
    (m.beginStage4 x).fl.ops.length = m.fl.ops.length +
      (((m.parityGroup x.addr).map fun g => g.askQ.peers.filter fun p => p.st == .reading).getD []).length ∧
    Mach.SameBut [.fl] m (m.beginStage4 x) := by
  obtain ⟨htask, hsoft, hops, hsame⟩ := readPeers_shows (x.rebuilding (m.parityGroup x.addr))
    ((((m.parityGroup x.addr).map Group.askQ).map (·.peers)).getD [] |>.filter fun p => p.st == .reading)
    (m.setTask (x.rebuilding (m.parityGroup x.addr)))
  refine ⟨htask _ _ ?_, hsoft, hops.trans ?_, same_trans (setTask_same ..) hsame⟩
  · rw [task_setTask, h]
    exact if_pos rfl
  · cases m.parityGroup x.addr <;> rfl

/-! ### A peer whose read has ended -/

theorem settle_asked {g : Group} (h : ∀ p ∈ g.peers, p.st ≠ .unasked) (r : PeerRole) (b : Option Body) :
    ∀ p ∈ (g.settle r b).peers, p.st ≠ .unasked := by
  intro p hp
  obtain ⟨q, hq, rfl⟩ := List.mem_map.mp hp
  split
  · cases b <;> simp
  · exact h q hq

theorem askQ_asked {g : Group} (h : ∀ p ∈ g.peers, p.st ≠ .unasked) : g.askQ = g := by
  have hpeers : g.peers.map (fun p => if p.st == .unasked then { p with st := .reading } else p) = g.peers :=
    (List.map_congr_left fun p hp => if_neg (by simpa using h p hp)).trans (List.map_id' _)
  unfold Group.askQ
  split
  · rw [hpeers]
  · rfl

/-- Where every peer has been asked for, the end of a peer's read does nothing but settle it. -/
theorem peerEnded_settles {m : Mach} {own : Nat} {y : RdTask} {g : Group} (hy : m.task own = some y) (hg : y.grp = some g)
    (hasked : ∀ p ∈ g.peers, p.st ≠ .unasked) (r : PeerRole) (b : Option Body) :
    m.peerEnded own r b = m.setTask { y with grp := some (g.settle r b) } := by
  have hsettled := settle_asked hasked r b
  have hnone : (g.settle r b).peers.filter (fun p => p.st == .unasked && (g.settle r b).asksQ) = [] :=
    List.filter_eq_nil_iff.mpr fun p hp => by simp [hsettled p hp]
  unfold Mach.peerEnded
  rw [hy]
  dsimp only
  rw [hg]
  dsimp only
  rw [hnone, askQ_asked hsettled]
  rfl

/-! ### A furrow that is flagged for refresh (R216) -/

theorem markSeg_regs (k : Nat) (m : Mach) : m.RegsSame [] (m.markSeg k) := by
  unfold Mach.markSeg Mach.raiseWindow
  dsimp only
  split
  · exact rs_of_reg rfl
  · split
    · exact rs_trans (rs_of_reg rfl) (rs_touch ..)
    · exact rs_of_reg rfl

theorem markSeg_log (k : Nat) (m : Mach) : (m.markSeg k).hdl.log = m.hdl.log := by
  unfold Mach.markSeg Mach.raiseWindow
  dsimp only
  split
  · rfl
  · split
    · rw [Mach.touch_hdl]
      rfl
    · rfl

theorem putFur_fur (f : Nat) (x : Fur) (m : Mach) (j : Nat) : (m.putFur f x).fur j = (m.setFur f x).fur j := by
  unfold Mach.putFur Mach.fur
  rw [same_gln (markTable_same ..) (by simp)]

section
variable (f : Nat) (m : Mach)

/-- What the flag can do: nothing, or REFRESH of the furrow and a count of it. -/
theorem flagRefresh_cases : m.flagRefresh f = m ∨
    m.flagRefresh f = (m.putFur f { m.fur f with refresh := true }).bump Reg.GLN_REFRESH := ite_eq_or_eq ..

theorem flagRefresh_same : Mach.SameBut [.gln, .hdl, .reg] m (m.flagRefresh f) := by
  obtain h | h := flagRefresh_cases f m <;> rw [h]
  · exact same_refl ..
  · exact same_trans (putFur_same ..) (same_mono (sb_bump ..) (by simp))

theorem flagRefresh_regs : m.RegsSame [Reg.GLN_REFRESH] (m.flagRefresh f) := by
  obtain h | h := flagRefresh_cases f m <;> rw [h]
  · exact ⟨fun _ _ => rfl, rfl, rfl, fun _ => rfl⟩
  · obtain ⟨hrd, hc64, hlow, hhdr⟩ := rs_bump (m.putFur f { m.fur f with refresh := true }) Reg.GLN_REFRESH
    obtain ⟨prd, pc64, plow, phdr⟩ : m.RegsSame [] (m.putFur f { m.fur f with refresh := true }) :=
      rs_trans (rs_of_reg (b := m.setFur ..) rfl) (markSeg_regs ..)
    exact ⟨fun k hk => (hrd k hk).trans (prd k (by simp)), hc64.trans pc64, hlow.trans plow, fun p => (hhdr p).trans (phdr p)⟩

theorem flagRefresh_log : (m.flagRefresh f).hdl.log = m.hdl.log := by
  obtain h | h := flagRefresh_cases f m <;> rw [h]
  rw [Mach.bump_hdl]
  exact markSeg_log ..

theorem flagRefresh_fur (j : Nat) : ∃ r, (m.flagRefresh f).fur j = { m.fur j with refresh := r } := by
  obtain h | h := flagRefresh_cases f m <;> rw [h]
  · exact ⟨_, rfl⟩
  · rw [Mach.bump_fur, putFur_fur]
    by_cases hj : j = f
    · subst hj
      exact ⟨true, Mach.fur_setFur_same ..⟩
    · exact ⟨_, Mach.fur_setFur_ne _ _ _ _ hj⟩

end

/-! ### What the parity of a group rests on (R226) -/

/-- What tells where the peers of a codeword lie, and which parity they have, is the same. -/
structure Mach.SameParity (a b : Mach) : Prop where
  adm : b.adm = a.adm
  die : b.fl.die = a.fl.die
  cw : b.fl.cw = a.fl.cw
  retired : b.fl.retired = a.fl.retired
  buf : b.buf = a.buf
  log : b.hdl.log = a.hdl.log
  page : ∀ p, b.pageSt p = a.pageSt p
  fur : ∀ j, ∃ r, b.fur j = { a.fur j with refresh := r }

namespace Mach.SameParity
variable {a b c : Mach}

theorem trans (h : a.SameParity b) (g : b.SameParity c) : a.SameParity c where
  adm := g.adm.trans h.adm
  die := g.die.trans h.die
  cw := g.cw.trans h.cw
  retired := g.retired.trans h.retired
  buf := g.buf.trans h.buf
  log := g.log.trans h.log
  page p := (g.page p).trans (h.page p)
  fur j := by
    obtain ⟨r, hr⟩ := h.fur j
    obtain ⟨q, hq⟩ := g.fur j
    exact ⟨q, by rw [hq, hr]⟩

/-- Registers do not tell it, but for the pages' states. -/
theorem of_reg (h : Mach.SameBut [.reg] a b) (hp : ∀ p, b.pageSt p = a.pageSt p) : a.SameParity b where
  adm := same_adm h (by simp)
  die := by rw [same_fl h (by simp)]
  cw := by rw [same_fl h (by simp)]
  retired := by rw [same_fl h (by simp)]
  buf := same_buf h (by simp)
  log := by rw [same_hdl h (by simp)]
  page := hp
  fur j := ⟨(a.fur j).refresh, by unfold Mach.fur; rw [same_gln h (by simp)]⟩

theorem flagRefresh (f : Nat) (a : Mach) : a.SameParity (a.flagRefresh f) where
  adm := same_adm (flagRefresh_same f a) (by simp)
  die := by rw [same_fl (flagRefresh_same f a) (by simp)]
  cw := by rw [same_fl (flagRefresh_same f a) (by simp)]
  retired := by rw [same_fl (flagRefresh_same f a) (by simp)]
  buf := same_buf (flagRefresh_same f a) (by simp)
  log := flagRefresh_log f a
  page p := Mach.flagRefresh_pageSt p f a
  fur := flagRefresh_fur f a

section
variable (h : a.SameParity b)
include h

theorem diesAt (d : Nat) : b.die d = a.die d := by
  unfold Mach.die
  rw [h.die]

theorem cwAt (x : BitVec 40) : b.cwAt x = a.cwAt x := by
  unfold Mach.cwAt
  rw [h.cw]

theorem furrowOfAddr (x : BitVec 40) : b.furrowOfAddr x = a.furrowOfAddr x := by
  unfold Mach.furrowOfAddr Mach.furrowOf Mach.firstSpare Mach.nspare
  rw [h.diesAt, h.adm]

theorem memberAddr (c : Chan) (f plane page slot : Nat) : b.memberAddr c f plane page slot = a.memberAddr c f plane page slot := by
  unfold Mach.memberAddr Mach.memberBlock
  rw [h.diesAt]

theorem memberDown (x : BitVec 40) (c : Chan) : b.memberDown x c = a.memberDown x c := by
  obtain ⟨r, hr⟩ := h.fur (a.furrowOfAddr x)
  unfold Mach.memberDown Mach.chanAway Mach.running
  rw [h.furrowOfAddr, h.page, h.retired, hr]

theorem parityWritten (f page : Nat) : b.parityWritten f page = a.parityWritten f page := by
  obtain ⟨r, hr⟩ := h.fur f
  unfold Mach.parityWritten
  simp only [hr, h.memberAddr, h.cwAt]

theorem provNow (fsn page : Nat) : b.provNow fsn page = a.provNow fsn page := by
  unfold Mach.provNow
  rw [h.log]

theorem flashParity (x : BitVec 40) (y : Fur) (r : Bool) : b.flashParity x { y with refresh := r } = a.flashParity x y := by
  unfold Mach.flashParity
  simp only [h.memberDown]

theorem groupWith (x : BitVec 40) (y : Fur) (r : Bool) (mask : Word) (l : List Peer) :
    b.groupWith x { y with refresh := r } mask l = a.groupWith x y mask l := by
  unfold Mach.groupWith dataMembers
  simp only [h.memberDown]

theorem parityGroup (x : BitVec 40) : b.parityGroup x = a.parityGroup x := by
  obtain ⟨r, hr⟩ := h.fur (a.furrowOfAddr x)
  unfold Mach.parityGroup
  simp only [h.furrowOfAddr, h.buf, hr, h.parityWritten, h.provNow, h.flashParity, h.groupWith]

end

end Mach.SameParity

/-! ### The key lanes (R319, R322, R340) -/

section
variable (enc : Bool) (m : Mach)

/-- A decryption or verification is counted, behind a miss of the key where there is one. -/
theorem decrypted_cases : ∃ u k, (u = m.bump Reg.CIP_KEYMISS ∨ u = m) ∧ (k = Reg.CIP_DEC_LO ∨ k = Reg.CIP_MAC_LO) ∧
    m.decrypted enc = u.bump64 k := ⟨_, _, ite_eq_or_eq .., ite_eq_or_eq .., rfl⟩

theorem decrypted_same : Mach.SameBut [.reg] m (m.decrypted enc) := by
  obtain ⟨u, k, rfl | rfl, -, h⟩ := decrypted_cases enc m <;> rw [h] <;> simp [Mach.SameBut]

theorem rd_decrypted {j : Nat} (hj : j ≠ Reg.CIP_KEYMISS) : (m.decrypted enc).rd j = m.rd j := by
  obtain ⟨u, k, hu, -, h⟩ := decrypted_cases enc m
  rw [h, rd_bump64]
  obtain rfl | rfl := hu
  · exact Mach.rd_bump_ne _ _ _ hj
  · rfl

theorem rd64_decrypted {j : Nat} (hd : j ≠ Reg.CIP_DEC_LO) (hm : j ≠ Reg.CIP_MAC_LO) : (m.decrypted enc).rd64 j = m.rd64 j := by
  obtain ⟨u, k, hu, hk, h⟩ := decrypted_cases enc m
  rw [h, Mach.bump64, rd64_bump64By_ne _ _ _ _ (by obtain rfl | rfl := hk <;> assumption)]
  obtain rfl | rfl := hu
  · exact rd64_bump ..
  · rfl

end

/-! ### A codeword that is checked (R219, R220) -/

theorem cwKeyOk_of {a b : Mach} (hk : b.key = a.key) (hv : b.vol = a.vol) (v : Vid) (x : Cw) : b.cwKeyOk v x = a.cwKeyOk v x := by
  unfold Mach.cwKeyOk
  simp only [Mach.kslot, Mach.volu, hk, hv]

theorem cwAt_of {a b : Mach} (h : b.fl.cw = a.fl.cw) (x : BitVec 40) : b.cwAt x = a.cwAt x := by
  unfold Mach.cwAt
  rw [h]

theorem cwGood_of {a b : Mach} {x : RdTask} (hc : b.fl.cw = a.fl.cw) (hk : b.key = a.key) (hv : b.vol = a.vol) (h : a.CwGood x) :
    b.CwGood x := by
  have hcw := cwAt_of hc x.addr
  exact ⟨by rw [hcw, h.kind], by rw [hcw, h.vol], by rw [hcw, h.lba], by rw [hcw, cwKeyOk_of hk hv, h.key], by rw [hcw, h.tag]⟩

/-- A codeword with a key goes through its lane. -/
def Mach.opened (x : RdTask) (m : Mach) : Mach := m.decrypted (m.cwAt x.addr).enc

theorem opened_same (x : RdTask) (m : Mach) : Mach.SameBut [.reg] m (m.opened x) := decrypted_same ..

section
variable {m : Mach} {x : RdTask}

theorem meets_good (h : m.CwGood x) {k : CwCheck} (hk : k ≠ .badMetadata) : (m.cwAt x.addr).meets x.vol x.lba k = true := by
  simp [Cw.meets, h.kind, h.vol, h.lba, hk]

theorem checkCw_good (h : m.CwGood x) : m.checkCw x .good = (m.opened x).endTask x St.success := by
  unfold Mach.checkCw Mach.opened
  simp [meets_good h, h.key, h.tag]

theorem checkCw_badTag (h : m.CwGood x) (hx : x.stage ≠ 4) :
    m.checkCw x .badTag = ((m.opened x).bump Reg.CIP_TAGFAIL).beginStage4 { x with tagRetry := true } := by
  unfold Mach.checkCw Mach.opened
  simp [meets_good h, h.key, hx]

theorem checkCw_unmet (hx : x.stage = 4) : m.checkCw x .badMetadata = (m.bump Reg.ECC_MDMISS).stage4Fails x := by
  unfold Mach.checkCw
  simp [Cw.meets, hx]

end

/-! ### The end of a read -/

section
variable (a : BitVec 40) (m : Mach)

/-- A read that an earlier stage has decoded adds to the histogram of stages. -/
theorem readEnds_decoded {stage : Nat} (h : stage ≠ 4) :
    m.readEnds a St.success stage 1 = m.observe 0x11 (some (stage - 1)) (stage - 1 : Nat) := by
  unfold Mach.readEnds
  simp [h, St.success, St.unrecoveredRead, St.authFail, Mach.each]

/-- A read that stage 4 has rebuilt is counted (R227). -/
def Mach.reconCounted (m : Mach) : Mach := (m.bump64 Reg.ECC_RECON_LO).health fun h => { h with recon := (h.recon + 1) % 2 ^ 64 }

theorem readEnds_rebuilt : m.readEnds a St.success 4 1 = m.reconCounted.observe 0x11 (some 3) 3 := rfl

/-- An unrecovered read is counted (R227, R432). -/
def Mach.unrecCounted (m : Mach) : Mach := (m.bump Reg.ECC_UNREC).health fun h => { h with unrec := (h.unrec + 1) % 2 ^ 64 }

theorem readEnds_unrecovered (stage : Nat) :
    m.readEnds a St.unrecoveredRead stage 1 = (m.unrecCounted.raise .ecc 16 (a.setWidth 64)).observe 0x11 (some 4) 4 := by
  unfold Mach.readEnds
  simp [St.unrecoveredRead, Mach.each, Mach.unrecCounted]

end

section
variable (m : Mach)

theorem reconCounted_same : Mach.SameBut [.reg, .adm] m m.reconCounted := by simp [Mach.SameBut, Mach.reconCounted, Mach.health]

theorem reconCounted_counts : m.reconCounted.rd64 Reg.ECC_RECON_LO = m.rd64 Reg.ECC_RECON_LO + 1 ∧
    m.reconCounted.adm.health.recon = (m.adm.health.recon + 1) % 2 ^ 64 := by
  refine ⟨rd64_bump64By_same m _ 1, ?_⟩
  simp [Mach.reconCounted, Mach.health]

theorem unrecCounted_same : Mach.SameBut [.reg, .adm] m m.unrecCounted := by simp [Mach.SameBut, Mach.unrecCounted, Mach.health]

theorem unrecCounted_health : m.unrecCounted.adm.health.unrec = (m.adm.health.unrec + 1) % 2 ^ 64 := by
  simp [Mach.unrecCounted, Mach.health]

/-- An unrecovered read has been counted in ECC_UNREC and the health log, and has set PG_ERR bit 16 of the ECC page. -/
structure Mach.Unrecovered (a b : Mach) : Prop where
  count : b.rdN Reg.ECC_UNREC = min 0xFFFFFFFF (a.rdN Reg.ECC_UNREC + 1)
  regs : a.RegsBut (Reg.ECC_UNREC :: almKeys) b
  health : b.adm.health.unrec = (a.adm.health.unrec + 1) % 2 ^ 64
  err : (b.hdr .ecc).err = (a.hdr .ecc).err ||| bit32 16
  same : Mach.SameBut [.reg, .pff, .adm, .alm, .fl, .buf] a b

/-- The flash before it and the buffer behind it do not tell. -/
theorem unrecovered_around {a b c d : Mach} (hab : Mach.SameBut [.fl] a b) (h : b.Unrecovered c) (hcd : Mach.SameBut [.buf] c d) :
    a.Unrecovered d := by
  obtain ⟨hrd, -, -, -⟩ := rs_of_reg (same_reg hab (by simp))
  obtain ⟨hrd', -, -, -⟩ := rs_of_reg (same_reg hcd (by simp))
  refine ⟨?_, fun k hk => (hrd' k (by simp)).trans ((h.regs k hk).trans (hrd k (by simp))), ?_, ?_, ?_⟩
  · rw [rdN_of_regsBut hrd' (by simp), h.count, rdN_of_regsBut hrd (by simp)]
  · rw [same_adm hcd (by simp), h.health, same_adm hab (by simp)]
  · unfold Mach.hdr
    rw [same_reg hcd (by simp), ← same_reg hab (by simp)]
    exact h.err
  · exact same_trans (same_mono hab (by simp)) (same_trans h.same (same_mono hcd (by simp)))

theorem readEnds_records (a : BitVec 40) (stage : Nat) :
    Mach.Recorded (m.unrecCounted.errBit .ecc 16) (m.readEnds a St.unrecoveredRead stage 1) := by
  rw [readEnds_unrecovered]
  exact recorded_trans (recorded_raise ..) (recorded_observe ..)

theorem readEnds_same (a : BitVec 40) (stage : Nat) :
    Mach.SameBut [.reg, .pff, .adm, .alm] m (m.readEnds a St.unrecoveredRead stage 1) :=
  same_trans (same_mono (unrecCounted_same m) (by simp))
    (same_trans (same_mono (sb_setHdr ..) (by simp)) (readEnds_records m a stage).same)

theorem readEnds_unrec (a : BitVec 40) (stage : Nat) : m.Unrecovered (m.readEnds a St.unrecoveredRead stage 1) := by
  have hrec := readEnds_records m a stage
  refine ⟨?_, fun k hk => ?_, ?_, ?_, same_mono (readEnds_same m a stage) (by simp)⟩
  · unfold Mach.rdN
    rw [hrec.rd _ (by decide), Mach.errBit_rd]
    exact rdN_bump m _
  · obtain ⟨hne, hk⟩ := not_or.mp (mt List.mem_cons.mpr hk)
    rw [hrec.rd k hk, Mach.errBit_rd]
    exact Mach.rd_bump_ne m _ _ hne
  · rw [hrec.adm, Mach.errBit_adm]
    exact unrecCounted_health m
  · rw [hrec.err .ecc (by simp), Mach.errBit, Mach.hdr_setHdr_same]
    exact congrArg (· ||| bit32 16) (err_of_hdr (m.hdr_bump Reg.ECC_UNREC .ecc))

end

/-! ### A missing LB of a version (R242) -/

/-- The missing LB lb of version id cannot be had: it is no longer sought, and the version cannot be completed; no other has changed. -/
def Mach.MissesLb (id lb : Nat) (y : Ver) (a b : Mach) : Prop :=
  b.ver id = some { y with rmwTodo := y.rmwTodo.filter (· != lb), rmwFail := true } ∧ ∀ j, j ≠ id → b.ver j = a.ver j

section
variable {m : Mach} {id lb : Nat} {y : Ver}

theorem setVer_shows (hy : m.ver id = some y) {z : Ver} (hz : z.id = y.id) :
    (m.setVer z).ver id = some z ∧ ∀ j, j ≠ id → (m.setVer z).ver j = m.ver j := by
  obtain rfl : z.id = id := hz.trans (ver_id hy)
  exact ⟨by rw [ver_setVer, if_pos rfl, hy]; rfl, fun j hj => by rw [ver_setVer, if_neg hj]⟩

theorem rmwLb_fills (hy : m.ver id = some y) (d : Block) : m.FillsLb id lb y d (m.rmwLb id lb St.success d) := by
  unfold Mach.rmwLb
  rw [hy]
  exact setVer_shows hy rfl

theorem rmwLb_misses (hy : m.ver id = some y) {status : Nat} (hs : status ≠ 0) (d : Block) :
    m.MissesLb id lb y (m.rmwLb id lb status d) := by
  unfold Mach.rmwLb
  rw [hy]
  dsimp only
  rw [if_neg hs]
  exact setVer_shows hy rfl

theorem rmwLb_same (m : Mach) (id lb status : Nat) (d : Block) : Mach.SameBut [.buf] m (m.rmwLb id lb status d) := by
  unfold Mach.rmwLb
  split
  · exact same_refl ..
  · dsimp only
    split <;> exact setVer_same ..

theorem ver_of_buf {a b : Mach} (h : b.buf = a.buf) (i : Nat) : b.ver i = a.ver i := by
  unfold Mach.ver
  rw [h]

theorem fillsLb_of {a b t : Mach} {d : Block} (h : b.buf = a.buf) (hf : b.FillsLb id lb y d t) : a.FillsLb id lb y d t :=
  ⟨hf.1, fun j hj => (hf.2 j hj).trans (ver_of_buf h j)⟩

theorem missesLb_of {a b t : Mach} (h : b.buf = a.buf) (hf : b.MissesLb id lb y t) : a.MissesLb id lb y t :=
  ⟨hf.1, fun j hj => (hf.2 j hj).trans (ver_of_buf h j)⟩

/-- A read that serves a version alone is counted, then given to the version. -/
theorem endTask_rmw {x : RdTask} (hw : x.who = [.rmw id lb]) (status : Nat) :
    m.endTask x status = ((m.dropTask x.id).readEnds x.addr status x.stage 1).rmwLb id lb status (m.cwAt x.addr).data := by
  unfold Mach.endTask
  rw [hw]
  rfl

/-- Where its counts leave the flash as it is, the task of a version's read is over. -/
theorem rmw_ends {u : Mach} (i status : Nat) (d : Block) (hu : u.fl = (m.dropTask i).fl) : (u.rmwLb id lb status d).task i = none := by
  rw [task_of_fl ((same_fl (rmwLb_same ..) (by simp)).trans hu), task_dropTask, if_pos rfl]

/-- A codeword that passes its checks fills its LB of the version, and is over; what else changes are the counts. -/
theorem endTask_fills {x : RdTask} (hw : x.who = [.rmw id lb]) (hy : m.ver id = some y) {u : Mach} {ps : List Part}
    (hu : (m.dropTask x.id).readEnds x.addr St.success x.stage 1 = u) (hc : Mach.SameBut ps (m.dropTask x.id) u)
    (hps : .buf ∉ ps ∧ .fl ∉ ps) :
    m.FillsLb id lb y (m.cwAt x.addr).data (m.endTask x St.success) ∧ (m.endTask x St.success).task x.id = none ∧
    Mach.SameBut [.buf] u (m.endTask x St.success) := by
  have hbuf := (same_buf hc hps.1).trans (same_buf (dropTask_same x.id m) (by simp))
  rw [endTask_rmw hw, hu]
  exact ⟨fillsLb_of hbuf (rmwLb_fills ((ver_of_buf hbuf id).trans hy) _), rmw_ends _ _ _ (same_fl hc hps.2), rmwLb_same ..⟩

/-- So at stages 1 to 3. -/
theorem endTask_decoded {x : RdTask} (hw : x.who = [.rmw id lb]) (hy : m.ver id = some y) (hx : x.stage ≠ 4) :
    m.FillsLb id lb y (m.cwAt x.addr).data (m.endTask x St.success) ∧ (m.endTask x St.success).task x.id = none ∧
    Mach.SameBut [.buf, .fl, .alm] m (m.endTask x St.success) := by
  have hcounts := observe_same 0x11 (some (x.stage - 1)) (x.stage - 1 : Nat) (m.dropTask x.id)
  obtain ⟨hfills, htask, hsame⟩ := endTask_fills hw hy (readEnds_decoded _ _ hx) hcounts (by simp)
  exact ⟨hfills, htask, same_trans (same_mono (dropTask_same ..) (by simp))
    (same_trans (same_mono hcounts (by simp)) (same_mono hsame (by simp)))⟩

/-- So at stage 4, where the rebuilt codeword is counted. -/
theorem endTask_rebuilt {x : RdTask} (hw : x.who = [.rmw id lb]) (hy : m.ver id = some y) (hx : x.stage = 4) :
    m.FillsLb id lb y (m.cwAt x.addr).data (m.endTask x St.success) ∧ (m.endTask x St.success).task x.id = none ∧
    (m.endTask x St.success).rd64 Reg.ECC_RECON_LO = m.rd64 Reg.ECC_RECON_LO + 1 ∧
    (m.endTask x St.success).adm.health.recon = (m.adm.health.recon + 1) % 2 ^ 64 ∧
    Mach.SameBut [.reg, .adm, .buf, .fl, .alm] m (m.endTask x St.success) := by
  have hobs := observe_same 0x11 (some 3) 3 (m.dropTask x.id).reconCounted
  have hcounts : Mach.SameBut [.reg, .adm, .alm] (m.dropTask x.id) _ :=
    same_trans (same_mono (reconCounted_same _) (by simp)) (same_mono hobs (by simp))
  obtain ⟨hfills, htask, hsame⟩ := endTask_fills hw hy (by rw [hx]; exact readEnds_rebuilt ..) hcounts (by simp)
  obtain ⟨hrecon, hhealth⟩ := reconCounted_counts (m.dropTask x.id)
  refine ⟨hfills, htask, ?_, ?_, same_trans (same_mono (dropTask_same ..) (by simp))
    (same_trans (same_mono hcounts (by simp)) (same_mono hsame (by simp)))⟩
  · rw [rd64_of_c64 (congrArg Regs.c64 ((same_reg hsame (by simp)).trans (same_reg hobs (by simp))))]
    exact hrecon
  · rw [same_adm hsame (by simp), same_adm hobs (by simp)]
    exact hhealth

/-- An unrecovered read leaves its version short of the LB, and is over. -/
theorem stage4Fails_unrec {x : RdTask} (hw : x.who = [.rmw id lb]) (ht : x.tagRetry = false) (hy : m.ver id = some y) :
    m.MissesLb id lb y (m.stage4Fails x) ∧ (m.stage4Fails x).task x.id = none ∧ m.Unrecovered (m.stage4Fails x) := by
  have hcounts := readEnds_same (m.dropTask x.id) x.addr x.stage
  have hbuf := (same_buf hcounts (by simp)).trans (same_buf (dropTask_same x.id m) (by simp))
  have heq : m.stage4Fails x = ((m.dropTask x.id).readEnds x.addr St.unrecoveredRead x.stage 1).rmwLb id lb St.unrecoveredRead
      (m.cwAt x.addr).data := by
    unfold Mach.stage4Fails
    rw [ht]
    exact endTask_rmw hw _
  rw [heq]
  exact ⟨missesLb_of hbuf (rmwLb_misses ((ver_of_buf hbuf id).trans hy) (by decide) _), rmw_ends _ _ _ (same_fl hcounts (by simp)),
    unrecovered_around (dropTask_same ..) (readEnds_unrec ..) (rmwLb_same ..)⟩

end

/-! ### The end of stage 3 (R218) -/

/-- The engine of a soft decode is free again. -/
def Mach.softFreed (task : Nat) (m : Mach) : Mach := m.updFl fun f => { f with softTasks := f.softTasks.filter (· != task) }

/-- A soft decode has found the codeword: it is counted, and the furrow flagged for refresh. -/
def Mach.softDecoded (task : Nat) (x : RdTask) (m : Mach) : Mach :=
  ((m.softFreed task).bump64 Reg.ECC_SOFT_LO).flagRefresh (m.furrowOfAddr x.addr)

section
variable {m : Mach} {task : Nat} {x : RdTask}

theorem softDone_idle (ok : Bool) (k : CwCheck) (h : ∀ x, m.task task = some x → x.stage ≠ 3) : m.softDone task ok k = m := by
  unfold Mach.softDone
  split
  · rfl
  · next x hx => simp [h x hx]

section
variable (hx : m.task task = some x) (h3 : x.stage = 3) (hq : task ∈ m.fl.softTasks.take 8)
include hx h3 hq

theorem softDone_engine (ok : Bool) (k : CwCheck) : m.softDone task ok k =
    if ok && !(m.cwAt x.addr).gone then (m.softDecoded task x).decoded x k else (m.softFreed task).escalate x := by
  have hengine : ¬ (x.stage != 3 || !(m.fl.softTasks.take 8).contains task) = true := by
    simpa [h3, List.contains_iff_mem] using hq
  unfold Mach.softDone
  rw [hx]
  dsimp only
  rw [if_neg hengine]
  rfl

theorem softDone_fails (k : CwCheck) : m.softDone task false k = (m.softFreed task).escalate x := softDone_engine hx h3 hq ..

theorem softDone_decodes (k : CwCheck) (hgone : (m.cwAt x.addr).gone = false) (hserves : x.serves = none) :
    m.softDone task true k = (m.softDecoded task x).checkCw x k := by
  rw [softDone_engine hx h3 hq, hgone]
  unfold Mach.decoded
  rw [hserves]
  rfl

end

theorem serves_rmw {id lb : Nat} (hw : x.who = [.rmw id lb]) : x.serves = none := by
  unfold RdTask.serves
  rw [hw]

theorem softFreed_same (m : Mach) (task : Nat) : Mach.SameBut [.fl] m (m.softFreed task) := same_updFl ..

theorem softDecoded_flagged (m : Mach) (task : Nat) (x : RdTask) :
    Mach.SameBut [.gln, .hdl, .reg] (m.softFreed task) (m.softDecoded task x) :=
  same_trans (b := (m.softFreed task).bump64 Reg.ECC_SOFT_LO) (by simp [Mach.SameBut]) (flagRefresh_same ..)

theorem softDecoded_same (m : Mach) (task : Nat) (x : RdTask) : Mach.SameBut [.fl, .gln, .hdl, .reg] m (m.softDecoded task x) :=
  same_trans (same_mono (softFreed_same m task) (by simp)) (same_mono (softDecoded_flagged m task x) (by simp))

theorem softDecoded_counts (m : Mach) (task : Nat) (x : RdTask) :
    (m.softDecoded task x).rd64 Reg.ECC_SOFT_LO = m.rd64 Reg.ECC_SOFT_LO + 1 := by
  obtain ⟨-, hc64, -⟩ := flagRefresh_regs (m.furrowOfAddr x.addr) ((m.softFreed task).bump64 Reg.ECC_SOFT_LO)
  exact (rd64_of_c64 hc64 _).trans (rd64_bump64By_same ..)

theorem softDecoded_rd (m : Mach) (task : Nat) (x : RdTask) {j : Nat} (hj : j ≠ Reg.GLN_REFRESH) :
    (m.softDecoded task x).rd j = m.rd j := by
  obtain ⟨hrd, -⟩ := flagRefresh_regs (m.furrowOfAddr x.addr) ((m.softFreed task).bump64 Reg.ECC_SOFT_LO)
  exact (hrd j (by simpa using hj)).trans (rd_bump64 ..)

theorem softDecoded_cw (m : Mach) (task : Nat) (x : RdTask) : (m.softDecoded task x).fl.cw = m.fl.cw := by
  rw [same_fl (softDecoded_flagged m task x) (by simp)]
  rfl

theorem softDecoded_good (hg : m.CwGood x) : (m.softDecoded task x).CwGood x :=
  cwGood_of (softDecoded_cw ..) (same_key (softDecoded_same ..) (by simp)) (same_vol (softDecoded_same ..) (by simp)) hg

theorem softDecoded_task (hx : m.task task = some x) : (m.softDecoded task x).task task = some x :=
  (task_of_fl (same_fl (softDecoded_flagged ..) (by simp)) _).trans hx

/-- A codeword that fails its tag is counted before stage 4 takes its read. -/
def Mach.tagFailed (task : Nat) (x : RdTask) (m : Mach) : Mach :=
  ((m.softDecoded task x).opened x).bump Reg.CIP_TAGFAIL

theorem tagFailed_reg (m : Mach) (task : Nat) (x : RdTask) : Mach.SameBut [.reg] (m.softDecoded task x) (m.tagFailed task x) :=
  same_trans (opened_same ..) (sb_bump ..)

theorem tagFailed_counts (m : Mach) (task : Nat) (x : RdTask) :
    (m.tagFailed task x).rdN Reg.CIP_TAGFAIL = min 0xFFFFFFFF (m.rdN Reg.CIP_TAGFAIL + 1) := by
  unfold Mach.tagFailed
  rw [rdN_bump]
  unfold Mach.rdN Mach.opened
  rw [rd_decrypted _ _ (by decide), softDecoded_rd _ _ _ (by decide)]

/-- Neither the count nor the flag tells in which parity the codeword has a part. -/
theorem tagFailed_parity (m : Mach) (task : Nat) (x : RdTask) : m.SameParity (m.tagFailed task x) :=
  have hfreed : m.SameParity (m.softFreed task) := ⟨rfl, rfl, rfl, rfl, rfl, rfl, fun _ => rfl, fun _ => ⟨_, rfl⟩⟩
  have hcounted : (m.softFreed task).SameParity ((m.softFreed task).bump64 Reg.ECC_SOFT_LO) :=
    .of_reg (by simp [Mach.SameBut]) fun _ => Mach.pageSt_bump64 ..
  ((hfreed.trans hcounted).trans (.flagRefresh ..)).trans
    (.of_reg (tagFailed_reg m task x) fun _ => (Mach.pageSt_bump ..).trans (Mach.decrypted_pageSt ..))

end

/-! ### The end of stage 4 (R225 to R227) -/

section
variable {m : Mach} {task : Nat} {x : RdTask}

theorem combine_waits (k : CwCheck)
    (h : ∀ x, m.task task = some x → x.stage ≠ 4 ∨ ∃ g, x.grp = some g ∧ g.settled = false) : m.combine task k = m := by
  unfold Mach.combine
  split
  · rfl
  · next x hx =>
    obtain hs | ⟨g, hg, hs⟩ := h x hx
    · simp [hs]
    · simp [hg, hs]

/-- A codeword has been rebuilt: its furrow is flagged for refresh. -/
def Mach.rebuiltFlagged (x : RdTask) (m : Mach) : Mach := m.flagRefresh (m.furrowOfAddr x.addr)

theorem combine_rebuilt (k : CwCheck) {g : Group} {b : Body} (hx : m.task task = some x) (h4 : x.stage = 4) (hg : x.grp = some g)
    (hs : g.settled = true) (hb : g.rebuilt = some b) :
    m.combine task k = (m.rebuiltFlagged x).checkCw x (if b == (m.cwAt x.addr).body then k else .badMetadata) := by
  unfold Mach.combine
  simp [hx, h4, hg, hs, hb, Mach.rebuiltFlagged]

theorem combine_unrebuilt (k : CwCheck) (hx : m.task task = some x) (h4 : x.stage = 4)
    (hg : x.grp = none ∨ ∃ g, x.grp = some g ∧ g.settled = true ∧ g.rebuilt = none) : m.combine task k = m.stage4Fails x := by
  unfold Mach.combine
  obtain hg | ⟨g, hg, hs, hb⟩ := hg
  · simp [hx, h4, hg]
  · simp [hx, h4, hg, hs, hb]

theorem rebuiltFlagged_same (m : Mach) (x : RdTask) : Mach.SameBut [.gln, .hdl, .reg] m (m.rebuiltFlagged x) := flagRefresh_same ..

theorem rebuiltFlagged_good (hg : m.CwGood x) : (m.rebuiltFlagged x).CwGood x :=
  cwGood_of (by rw [same_fl (rebuiltFlagged_same m x) (by simp)]) (same_key (rebuiltFlagged_same ..) (by simp))
    (same_vol (rebuiltFlagged_same ..) (by simp)) hg

end

/-! ### The rows -/

section
variable {m : Mach} {task id lb : Nat} {x : RdTask} {y : Ver}

/-- A failed soft decode of a read that serves no reconstruction goes to stage 4. -/
theorem softDone_escalates (k : CwCheck) (hx : m.task task = some x) (h3 : x.stage = 3) (hq : task ∈ m.fl.softTasks.take 8)
    (hserves : x.serves = none) :
    (m.softDone task false k).task task = some (x.rebuilding (m.parityGroup x.addr)) ∧
    (m.softDone task false k).fl.softTasks = m.fl.softTasks.filter (· != task) ∧
    (m.softDone task false k).fl.ops.length = m.fl.ops.length +
      (((m.parityGroup x.addr).map fun g => g.askQ.peers.filter fun p => p.st == .reading).getD []).length ∧
    Mach.SameBut [.fl] m (m.softDone task false k) := by
  obtain rfl := task_id hx
  have heq : m.softDone x.id false k = (m.softFreed x.id).beginStage4 x := by
    rw [softDone_fails hx h3 hq]
    unfold Mach.escalate
    rw [hserves]
  obtain ⟨htask, hsoft, hops, hsame⟩ := beginStage4_shows (m := m.softFreed x.id) hx
  rw [heq]
  exact ⟨htask, hsoft, hops, same_trans (softFreed_same ..) hsame⟩

/-- A failed soft decode of the read of a peer leaves that peer erased. -/
theorem softDone_erases {own : Nat} {r : PeerRole} {z : RdTask} {g : Group} (k : CwCheck) (hx : m.task task = some x)
    (h3 : x.stage = 3) (hq : task ∈ m.fl.softTasks.take 8) (hserves : x.serves = some (own, r)) (hown : own ≠ task)
    (hz : m.task own = some z) (hg : z.grp = some g) (hasked : ∀ p ∈ g.peers, p.st ≠ .unasked) :
    (m.softDone task false k).task task = none ∧
    (m.softDone task false k).task own = some { z with grp := some (g.settle r none) } ∧
    (m.softDone task false k).fl.ops = m.fl.ops ∧ Mach.SameBut [.fl] m (m.softDone task false k) := by
  obtain rfl := task_id hx
  obtain rfl := task_id hz
  have hz' : ((m.softFreed x.id).dropTask x.id).task z.id = some z := by
    rw [task_dropTask, if_neg hown]
    exact hz
  have heq : m.softDone x.id false k =
      ((m.softFreed x.id).dropTask x.id).setTask { z with grp := some (g.settle r none) } := by
    rw [softDone_fails hx h3 hq]
    unfold Mach.escalate
    rw [hserves]
    exact peerEnded_settles hz' hg hasked r none
  rw [heq]
  refine ⟨?_, ?_, rfl, same_trans (softFreed_same ..) (same_trans (dropTask_same ..) (setTask_same ..))⟩
  · rw [task_setTask, if_neg hown.symm, task_dropTask, if_pos rfl]
  · rw [task_setTask, hz']
    exact if_pos rfl

/-- A codeword that stage 3 decodes and that passes its checks fills the version that waits for it. -/
theorem softDone_fills (hx : m.task task = some x) (h3 : x.stage = 3) (hq : task ∈ m.fl.softTasks.take 8)
    (hgone : (m.cwAt x.addr).gone = false) (hg : m.CwGood x) (hw : x.who = [.rmw id lb]) (hy : m.ver id = some y) :
    m.FillsLb id lb y (m.cwAt x.addr).data (m.softDone task true .good) ∧ (m.softDone task true .good).task task = none ∧
    (m.softDone task true .good).rd64 Reg.ECC_SOFT_LO = m.rd64 Reg.ECC_SOFT_LO + 1 ∧
    Mach.SameBut [.reg, .buf, .fl, .gln, .hdl, .alm] m (m.softDone task true .good) := by
  obtain rfl := task_id hx
  have hreg := opened_same x (m.softDecoded x.id x)
  have hopen := same_trans (softDecoded_same m x.id x) (same_mono hreg (by simp))
  have hbuf := same_buf hopen (by simp)
  have hcw : ((m.softDecoded x.id x).opened x).cwAt x.addr = m.cwAt x.addr :=
    cwAt_of (by rw [same_fl hreg (by simp), softDecoded_cw]) _
  obtain ⟨hfills, htask, hsame⟩ := endTask_decoded hw ((ver_of_buf hbuf id).trans hy) (by rw [h3]; decide)
  rw [hcw] at hfills
  rw [softDone_decodes hx h3 hq .good hgone (serves_rmw hw), checkCw_good (softDecoded_good hg)]
  refine ⟨fillsLb_of hbuf hfills, htask, ?_, same_trans (same_mono hopen (by simp)) (same_mono hsame (by simp))⟩
  rw [rd64_of_c64 (congrArg Regs.c64 (same_reg hsame (by simp)))]
  exact (rd64_decrypted _ _ (by decide) (by decide)).trans (softDecoded_counts ..)

/-- A codeword whose tag fails goes to stage 4, once. -/
theorem softDone_badTag (hx : m.task task = some x) (h3 : x.stage = 3) (hq : task ∈ m.fl.softTasks.take 8)
    (hgone : (m.cwAt x.addr).gone = false) (hg : m.CwGood x) (hserves : x.serves = none) :
    (m.softDone task true .badTag).task task = some ({ x with tagRetry := true }.rebuilding (m.parityGroup x.addr)) ∧
    (m.softDone task true .badTag).rdN Reg.CIP_TAGFAIL = min 0xFFFFFFFF (m.rdN Reg.CIP_TAGFAIL + 1) ∧
    Mach.SameBut [.reg, .fl, .gln, .hdl, .alm] m (m.softDone task true .badTag) := by
  obtain rfl := task_id hx
  have heq : m.softDone x.id true .badTag = (m.tagFailed x.id x).beginStage4 { x with tagRetry := true } :=
    (softDone_decodes hx h3 hq .badTag hgone hserves).trans (checkCw_badTag (softDecoded_good hg) (by rw [h3]; decide))
  have hreg := tagFailed_reg m x.id x
  have hold : (m.tagFailed x.id x).task x.id = some x := (task_of_fl (same_fl hreg (by simp)) _).trans (softDecoded_task hx)
  obtain ⟨htask, -, -, hsame⟩ := beginStage4_shows (x := { x with tagRetry := true }) hold
  rw [heq]
  refine ⟨htask.trans ?_, ?_, ?_⟩
  · rw [(tagFailed_parity m x.id x).parityGroup]
  · unfold Mach.rdN Mach.rd
    rw [same_reg hsame (by simp)]
    exact tagFailed_counts ..
  · exact same_trans (same_mono (softDecoded_same m x.id x) (by simp))
      (same_trans (same_mono hreg (by simp)) (same_mono hsame (by simp)))

/-- A codeword that stage 4 rebuilds as it was stored fills the version that waits for it. -/
theorem combine_fills {g : Group} (hx : m.task task = some x) (h4 : x.stage = 4) (hgrp : x.grp = some g) (hs : g.settled = true)
    (hb : g.rebuilt = some (m.cwAt x.addr).body) (hg : m.CwGood x) (hw : x.who = [.rmw id lb]) (hy : m.ver id = some y) :
    m.FillsLb id lb y (m.cwAt x.addr).data (m.combine task .good) ∧ (m.combine task .good).task task = none ∧
    (m.combine task .good).rd64 Reg.ECC_RECON_LO = m.rd64 Reg.ECC_RECON_LO + 1 ∧
    (m.combine task .good).adm.health.recon = (m.adm.health.recon + 1) % 2 ^ 64 ∧
    Mach.SameBut [.reg, .adm, .buf, .fl, .gln, .hdl, .alm] m (m.combine task .good) := by
  obtain rfl := task_id hx
  have hreg := opened_same x (m.rebuiltFlagged x)
  have hopen : Mach.SameBut [.gln, .hdl, .reg] m _ := same_trans (rebuiltFlagged_same m x) (same_mono hreg (by simp))
  have hbuf := same_buf hopen (by simp)
  have hcw : ((m.rebuiltFlagged x).opened x).cwAt x.addr = m.cwAt x.addr := cwAt_of (by rw [same_fl hopen (by simp)]) _
  obtain ⟨-, hc64, -⟩ := flagRefresh_regs (m.furrowOfAddr x.addr) m
  obtain ⟨hfills, htask, hrecon, hhealth, hsame⟩ := endTask_rebuilt hw ((ver_of_buf hbuf id).trans hy) h4
  rw [hcw] at hfills
  rw [same_adm hopen (by simp)] at hhealth
  rw [combine_rebuilt .good hx h4 hgrp hs hb, if_pos (beq_self_eq_true _), checkCw_good (rebuiltFlagged_good hg)]
  refine ⟨fillsLb_of hbuf hfills, htask, ?_, hhealth, same_trans (same_mono hopen (by simp)) (same_mono hsame (by simp))⟩
  rw [hrecon]
  exact congrArg (· + 1) ((rd64_decrypted _ _ (by decide) (by decide)).trans (rd64_of_c64 hc64 _))

/-- Where stage 4 cannot rebuild the codeword, the read is unrecovered. -/
theorem combine_unrecovered (k : CwCheck) (hx : m.task task = some x) (h4 : x.stage = 4)
    (hgrp : x.grp = none ∨ ∃ g, x.grp = some g ∧ g.settled = true ∧ g.rebuilt = none) (ht : x.tagRetry = false)
    (hw : x.who = [.rmw id lb]) (hy : m.ver id = some y) :
    m.MissesLb id lb y (m.combine task k) ∧ (m.combine task k).task task = none ∧ m.Unrecovered (m.combine task k) := by
  obtain rfl := task_id hx
  rw [combine_unrebuilt k hx h4 hgrp]
  exact stage4Fails_unrec hw ht hy

/-- So where it rebuilds other bytes than were stored, which counts as metadata that do not fit. -/
theorem combine_mismatched {g : Group} {b : Body} (k : CwCheck) (hx : m.task task = some x) (h4 : x.stage = 4) (hgrp : x.grp = some g)
    (hs : g.settled = true) (hb : g.rebuilt = some b) (hne : b ≠ (m.cwAt x.addr).body) (ht : x.tagRetry = false)
    (hw : x.who = [.rmw id lb]) (hy : m.ver id = some y) :
    m.MissesLb id lb y (m.combine task k) ∧ (m.combine task k).task task = none ∧
    ((m.rebuiltFlagged x).bump Reg.ECC_MDMISS).Unrecovered (m.combine task k) := by
  obtain rfl := task_id hx
  have hbuf := (same_buf (sb_bump (m.rebuiltFlagged x) Reg.ECC_MDMISS) (by simp)).trans (same_buf (rebuiltFlagged_same m x) (by simp))
  have heq : m.combine x.id k = ((m.rebuiltFlagged x).bump Reg.ECC_MDMISS).stage4Fails x := by
    rw [combine_rebuilt k hx h4 hgrp hs hb, if_neg (by simpa using hne), checkCw_unmet h4]
  obtain ⟨hmiss, htask, hunrec⟩ := stage4Fails_unrec hw ht ((ver_of_buf hbuf id).trans hy)
  rw [heq]
  exact ⟨missesLb_of hbuf hmiss, htask, hunrec⟩

theorem mismatch_counts (m : Mach) (x : RdTask) :
    ((m.rebuiltFlagged x).bump Reg.ECC_MDMISS).rdN Reg.ECC_MDMISS = min 0xFFFFFFFF (m.rdN Reg.ECC_MDMISS + 1) := by
  obtain ⟨hrd, -⟩ := flagRefresh_regs (m.furrowOfAddr x.addr) m
  rw [rdN_bump, Mach.rebuiltFlagged, rdN_of_regsBut hrd (by decide)]

theorem mismatch_others (m : Mach) (x : RdTask) {j : Nat} (hm : j ≠ Reg.ECC_MDMISS) (hr : j ≠ Reg.GLN_REFRESH) :
    ((m.rebuiltFlagged x).bump Reg.ECC_MDMISS).rdN j = m.rdN j := by
  obtain ⟨hrd, -⟩ := flagRefresh_regs (m.furrowOfAddr x.addr) m
  obtain ⟨hbump, -⟩ := rs_bump (m.rebuiltFlagged x) Reg.ECC_MDMISS
  rw [rdN_of_regsBut hbump (by simpa using hm), Mach.rebuiltFlagged, rdN_of_regsBut hrd (by simpa using hr)]

theorem mismatch_err (m : Mach) (x : RdTask) (p : Page) :
    (((m.rebuiltFlagged x).bump Reg.ECC_MDMISS).hdr p).err = (m.hdr p).err := by
  obtain ⟨-, -, -, hhdr⟩ := flagRefresh_regs (m.furrowOfAddr x.addr) m
  exact (err_of_hdr (Mach.hdr_bump ..)).trans (err_of_hdr (hhdr p))

end

/-- Settles O49: each row is one equation for the end of the read, and what a read ends with is filled in, erased, escalated or counted. -/
theorem decodeBeyondTheChannel : Obligations.DecodeBeyondTheChannel := by
  unfold Obligations.DecodeBeyondTheChannel
  refine ⟨?idleSoft, ?escalated, ?erased, ?decoded, ?badTag, ?waiting, ?rebuilt, ?unrebuilt, ?mismatched⟩
  case idleSoft =>
    intro s task ok k h
    exact completes_eq (Mach.softDone task ok k) rfl (softDone_idle ok k h) rfl
  case escalated =>
    intro s task k x hx h3 hq hserves
    exact completes_on (Mach.softDone task false k) rfl (softDone_escalates k hx h3 hq hserves)
  case erased =>
    intro s task own k r x y g hx h3 hq hserves hown hy hg hasked
    exact completes_on (Mach.softDone task false k) rfl (softDone_erases k hx h3 hq hserves hown hy hg hasked)
  case decoded =>
    intro s task id lb x y hx h3 hq hgone hg hw hy
    exact completes_on (Mach.softDone task true .good) rfl (softDone_fills hx h3 hq hgone hg hw hy)
  case badTag =>
    intro s task x hx h3 hq hgone hg hserves
    obtain ⟨htask, hcount, hsame⟩ := softDone_badTag hx h3 hq hgone hg hserves
    exact completes_on (Mach.softDone task true .badTag) rfl ⟨⟨_, htask, rfl, rfl, rfl, rfl⟩, hcount, hsame⟩
  case waiting =>
    intro s task k h
    exact completes_eq (Mach.combine task k) rfl (combine_waits k h) rfl
  case rebuilt =>
    intro s task id lb x g y hx h4 hgrp hs hb hg hw hy
    exact completes_on (Mach.combine task .good) rfl (combine_fills hx h4 hgrp hs hb hg hw hy)
  case unrebuilt =>
    intro s task id lb k x y hx h4 hgrp ht hw hy
    obtain ⟨⟨hver, hothers⟩, htask, hu⟩ := combine_unrecovered k hx h4 hgrp ht hw hy
    exact completes_on (Mach.combine task k) rfl ⟨hver, hothers, htask, hu.count, hu.health, hu.err, hu.same⟩
  case mismatched =>
    intro s task id lb k x g b y hx h4 hgrp hs hb hne ht hw hy
    obtain ⟨⟨hver, -⟩, htask, hu⟩ := combine_mismatched k hx h4 hgrp hs hb hne ht hw hy
    refine completes_on (Mach.combine task k) rfl ⟨hver, htask, ?_, ?_, ?_⟩
    · rw [rdN_of_regsBut hu.regs (by decide)]
      exact mismatch_counts ..
    · rw [hu.count, mismatch_others _ _ (by decide) (by decide)]
    · rw [hu.err, mismatch_err]

end Sys2Proof.Machine

/-! Sealing, opening and page formation (O50). The statement says that a version which its reads complete changes nothing outside the write buffer;
the state where more changes is written out below. -/

namespace Sys2Proof.Machine

/-- Version 5 of MU 10 of volume 1, held since LBs 2 and 3 could not be read. -/
def lackingVer : Ver :=
  { id := 5, vol := 1, mu := 10, mask := 3, data := [(0, 1), (1, 2)], wsn := 20, st := .held, pos := 0, lampwb := 0, rmwTodo := []
    rmwFail := true, lost := 0, pri := false, cov := false, rsv := true, again := false }

/-- Version 6 of that MU, sealed: the host wrote its LB 3, LBs 0 and 1 come from version 5, and a second read of LB 2 has ended well. -/
def rereadVer : Ver := { lackingVer with id := 6, mask := 15, data := [(0, 1), (1, 2), (2, 3), (3, 4)], wsn := 30, st := .sealed, rmwFail := false }

/-- Both versions in the write buffer, with the SOW page RUNNING. -/
def heldBehind : State :=
  { m := { reg := { pg := [(Page.sow.base, { st := .running })] }, buf := { vers := [lackingVer, rereadVer], wsn := 31, nextId := 7 } } }

/-- Complete, version 6 supersedes version 5, which leaves the buffer (R242): SOW_BUFUSED falls, and PG_SEQ of the SOW page steps (R43). -/
theorem heldBehind_steps : (heldBehind.m.hdr .sow).seq = 0 ∧ (((heldBehind.m.finishVer 6).settleCovers).hdr .sow).seq = 2 := by
  decide +kernel

/-- Refutes O50: in its clause on the end of a version's reads nothing changes outside the write buffer. But where an older version of the MU
is held, that one is superseded and leaves the buffer (R242), which steps PG_SEQ of the SOW page. -/
theorem not_placement : ¬ Obligations.Placement := by
  unfold Obligations.Placement
  rintro ⟨-, -, -, -, hread, -⟩
  obtain ⟨-, -, hsame⟩ := of_completes (fun m => (m.finishVer 6).settleCovers) rfl
    (hread heldBehind 6 rereadVer rfl rfl rfl rfl ⟨rfl, fun _ => rfl⟩)
  obtain ⟨hbefore, hafter⟩ := heldBehind_steps
  have hseq := congrArg PageHdr.seq (hdr_reg (same_reg hsame (by simp)) .sow)
  rw [hbefore, hafter] at hseq
  exact absurd hseq (by decide)

end Sys2Proof.Machine

/-! Limits and the end of a recovery (O51): what a raised PG_ERR bit, a volume that becomes READ_ONLY or FAULTED and a written map entry leave,
then one equation for each outcome of the four limits and of the recovery (R251, R327, R328, R422, R424). That a row does nothing without its
occasion is the model's choice (log entry 11). -/

namespace Sys2Proof.Machine

/-! ### A PG_ERR bit is raised (R361) -/

theorem raiseAs_same (m : Mach) (sev : Sev) (p : Page) (i : Nat) (arg : BitVec 64) :
    Mach.SameBut [.reg, .pff, .adm, .alm] m (m.raiseAs sev p i arg) :=
  same_trans (b := m.errBit p i) (by simp [Mach.SameBut]) (recorded_raiseAs ..).same

theorem raiseAs_err (m : Mach) (sev : Sev) {p : Page} (i : Nat) (arg : BitVec 64) (hp : p ≠ .alm) :
    ((m.raiseAs sev p i arg).hdr p).err = (m.hdr p).err ||| bit32 i := by
  rw [(recorded_raiseAs m sev p i arg).err p hp, Mach.errBit, Mach.hdr_setHdr_same]

theorem raise_err (m : Mach) {p : Page} (i : Nat) (arg : BitVec 64) (hp : p ≠ .alm) :
    ((m.raise p i arg).hdr p).err = (m.hdr p).err ||| bit32 i := raiseAs_err m _ i arg hp

/-! ### Nonces (R327, R328, R424) -/

theorem kslot_of_key {a b : Mach} (h : b.key = a.key) (j : Nat) : b.kslot j = a.kslot j := by
  unfold Mach.kslot
  rw [h]

/-- Slot k has come to a limit of its nonces: its state follows, and bit i of PG_ERR of the KEY page is raised. -/
def Mach.slotLimited (k : Nat) (st : KeySt) (i : Nat) (m : Mach) : Mach :=
  ((m.setKslot k { m.kslot k with st := st }).touch .key).raise .key i (BitVec.ofNat 64 k)

theorem slotLimited_facts (m : Mach) (k : Nat) (st : KeySt) (i : Nat) :
    (m.slotLimited k st i).kslot k = { m.kslot k with st := st } ∧ (∀ j, j ≠ k → (m.slotLimited k st i).kslot j = m.kslot j) ∧
    (m.slotLimited k st i).key = { m.key with slot := (m.slotLimited k st i).key.slot } ∧
    ((m.slotLimited k st i).hdr .key).err = (m.hdr .key).err ||| bit32 i ∧
    Mach.SameBut [.key, .reg, .pff, .adm, .alm] m (m.slotLimited k st i) := by
  have hraise := raise_same ((m.setKslot k { m.kslot k with st := st }).touch .key) .key i (BitVec.ofNat 64 k)
  have hkey : (m.slotLimited k st i).key = (m.setKslot k { m.kslot k with st := st }).key :=
    (same_key hraise (by simp)).trans (Mach.touch_key ..)
  refine ⟨?_, fun j hj => ?_, ?_, ?_, ?_⟩
  · rw [kslot_of_key hkey, Mach.kslot_setKslot_same]
  · rw [kslot_of_key hkey, Mach.kslot_setKslot_ne _ _ _ _ hj]
  · rw [hkey]
    rfl
  · rw [Mach.slotLimited, raise_err _ _ _ (by simp), err_of_hdr (Mach.hdr_touch ..)]
    rfl
  · exact same_trans (b := (m.setKslot k { m.kslot k with st := st }).touch .key) (by simp [Mach.SameBut]) (same_mono hraise (by simp))

section
variable {m : Mach} {k : Nat}

theorem exhaustSlot_limits (hst : (m.kslot k).st = .loaded) (hn : nonceSoft ≤ (m.kslot k).nonce) :
    m.exhaustSlot k = m.slotLimited k .exhausted 16 := if_pos (by simp [hst, hn])

theorem exhaustSlot_idle (h : (m.kslot k).st ≠ .loaded ∨ (m.kslot k).nonce < nonceSoft) : m.exhaustSlot k = m :=
  if_neg (by rcases h with h | h <;> simp [h])

theorem haltSlot_limits (hst : (m.kslot k).st = .loaded ∨ (m.kslot k).st = .exhausted) (hn : nonceHard < (m.kslot k).nonce + 4) :
    m.haltSlot k = m.slotLimited k .halted 17 := if_pos (by rcases hst with h | h <;> simp [h, hn])

theorem haltSlot_idle (h : (m.kslot k).st = .empty ∨ (m.kslot k).st = .halted ∨ (m.kslot k).nonce + 4 ≤ nonceHard) : m.haltSlot k = m :=
  if_neg (by rcases h with h | h | h <;> simp [h])

end

/-- The integrity key has come to its first limit: bit 16 of PG_ERR of the KEY page is raised, at the highest severity. -/
def Mach.integExhausted (m : Mach) : Mach :=
  (m.updKey fun k => { k with integ := { m.key.integ with st := .exhausted } }).raiseAs .crit .key 16 (BitVec.ofNat 64 integSlot)

theorem integExhausted_facts (m : Mach) :
    m.integExhausted.key = { m.key with integ := { m.key.integ with st := .exhausted } } ∧
    (m.integExhausted.hdr .key).err = (m.hdr .key).err ||| bit32 16 ∧ Mach.SameBut [.key, .reg, .pff, .adm, .alm] m m.integExhausted := by
  have hset : Mach.SameBut [.key] m (m.updKey fun k => { k with integ := { m.key.integ with st := .exhausted } }) := by simp [Mach.SameBut]
  have hraise := raiseAs_same (m.updKey fun k => { k with integ := { m.key.integ with st := .exhausted } }) .crit .key 16
    (BitVec.ofNat 64 integSlot)
  refine ⟨same_key hraise (by simp), ?_, same_trans (same_mono hset (by simp)) (same_mono hraise (by simp))⟩
  rw [Mach.integExhausted, raiseAs_err _ _ _ _ (by simp), hdr_reg (same_reg hset (by simp))]

section
variable {m : Mach}

theorem exhaustIntegrity_limits (hst : m.key.integ.st ≠ .exhausted) (hn : nonceSoft ≤ m.key.integ.nonce) :
    m.exhaustIntegrity = m.integExhausted := if_pos (by simp [hst, hn])

theorem exhaustIntegrity_idle (h : m.key.integ.st = .exhausted ∨ m.key.integ.nonce < nonceSoft) : m.exhaustIntegrity = m :=
  if_neg (by rcases h with h | h <;> simp [h])

end

/-! ### Volumes that change one by one -/

theorem ask_want (b : HBody) (m : Mach) : (m.ask b).1.hdl.want = m.hdl.want ++ [(m.hdl.nextRec, b)] := rfl

theorem ask_same (b : HBody) (m : Mach) : Mach.SameBut [.hdl] m (m.ask b).1 := by simp [Mach.SameBut, Mach.ask]

/-- From a to b the volumes listed have taken the update g, every other volume stands, and so does what else the map engine holds. -/
structure Mach.VolsTake (g : Vol → Vol) (l : List Vid) (a b : Mach) : Prop where
  volu : ∀ v, b.volu v = if v ∈ l then g (a.volu v) else a.volu v
  rest : b.vol = { a.vol with v := b.vol.v }

section
variable {g : Vol → Vol} {a b c : Mach} {l : List Vid} {v : Vid}

theorem volsTake_setVol (m : Mach) (v : Vid) : m.VolsTake g [v] (m.setVol v (g (m.volu v))) := by
  refine ⟨fun u => ?_, rfl⟩
  by_cases h : u = v
  · simp [h]
  · rw [Mach.volu_setVol_ne _ _ _ _ h, if_neg (by simpa using h)]

/-- A volume that the update leaves as it is has taken it. -/
theorem volsTake_refl {m : Mach} (h : g (m.volu v) = m.volu v) : m.VolsTake g [v] m := by
  refine ⟨fun u => ?_, rfl⟩
  by_cases hu : u = v
  · simp [hu, h]
  · rw [if_neg (by simpa using hu)]

theorem volsTake_of_vol (h : a.VolsTake g l b) (hc : c.vol = b.vol) : a.VolsTake g l c :=
  ⟨fun v => (volu_of hc v).trans (h.volu v), by rw [hc]; exact h.rest⟩

theorem volsTake_cons (hg : ∀ x, g (g x) = g x) (h : a.VolsTake g [v] b) (h' : b.VolsTake g l c) : a.VolsTake g (v :: l) c := by
  refine ⟨fun u => ?_, by rw [h'.rest, h.rest]⟩
  rw [h'.volu, h.volu]
  by_cases hu : u = v
  · by_cases hl : v ∈ l <;> simp [hu, hg]
  · simp [hu]

theorem volsTake_each {f : Vid → Mach → Mach} (hg : ∀ x, g (g x) = g x) (hf : ∀ v m, Mach.VolsTake g [v] m (f v m)) (l : List Vid)
    (m : Mach) : m.VolsTake g l (m.each l f) := by
  unfold Mach.each
  induction l generalizing m with
  | nil => exact ⟨fun _ => rfl, rfl⟩
  | cons v l ih => exact volsTake_cons hg (hf v m) (ih _)

end

/-! ### The end of the sequence numbers (R422) -/

/-- A READY volume becomes READ_ONLY. -/
def Vol.toReadOnly (x : Vol) : Vol := if x.st = .ready then { x with st := .readOnly } else x

theorem toReadOnly_twice (x : Vol) : x.toReadOnly.toReadOnly = x.toReadOnly := by
  unfold Vol.toReadOnly
  split <;> simp [*]

/-- One volume of those that become READ_ONLY. -/
def Mach.makeReadOnly (v : Vid) (m : Mach) : Mach :=
  if (m.volu v).st == .ready then m.setVol v { m.volu v with st := .readOnly } else m

theorem makeReadOnly_takes (v : Vid) (m : Mach) : m.VolsTake Vol.toReadOnly [v] (m.makeReadOnly v) := by
  unfold Mach.makeReadOnly
  split
  · next h =>
    have hv : (m.volu v).toReadOnly = { m.volu v with st := .readOnly } := if_pos (by simpa using h)
    rw [← hv]
    exact volsTake_setVol m v
  · next h => exact volsTake_refl (if_neg (by simpa using h))

theorem makeReadOnly_same (v : Vid) (m : Mach) : Mach.SameBut [.vol] m (m.makeReadOnly v) := by
  unfold Mach.makeReadOnly
  split
  · simp [Mach.SameBut]
  · exact same_refl ..

/-- With a READY volume the DEFINITION record is asked for behind the change of all. -/
theorem allReadOnly_some {m : Mach} (h : ∃ v, (m.volu v).st = .ready) :
    m.allReadOnly = ((m.each (List.finRange 64) Mach.makeReadOnly).ask (.definition {})).1 := if_neg (by simpa using h)

theorem allReadOnly_none {m : Mach} (h : ¬ ∃ v, (m.volu v).st = .ready) : m.allReadOnly = m := if_pos (by simpa using h)

theorem allReadOnly_facts (m : Mach) : m.VolsTake Vol.toReadOnly (List.finRange 64) m.allReadOnly ∧
    ((∃ v, (m.volu v).st = .ready) → m.allReadOnly.hdl.want = m.hdl.want ++ [(m.hdl.nextRec, .definition {})]) ∧
    Mach.SameBut [.vol, .hdl] m m.allReadOnly := by
  by_cases h : ∃ v, (m.volu v).st = .ready
  · have htake := volsTake_each toReadOnly_twice makeReadOnly_takes (List.finRange 64) m
    have hsame := same_each (List.finRange 64) Mach.makeReadOnly makeReadOnly_same m
    rw [allReadOnly_some h]
    have hask := ask_same (.definition {}) (m.each (List.finRange 64) Mach.makeReadOnly)
    refine ⟨volsTake_of_vol htake (same_vol hask (by simp)), fun _ => ?_, same_trans (same_mono hsame (by simp)) (same_mono hask (by simp))⟩
    have hhdl : (m.each (List.finRange 64) Mach.makeReadOnly).hdl = m.hdl := same_hdl hsame (by simp)
    rw [ask_want, hhdl]
  · rw [allReadOnly_none h]
    refine ⟨⟨fun v => ?_, rfl⟩, fun hv => absurd hv h, same_refl ..⟩
    rw [if_pos (List.mem_finRange v)]
    exact (if_neg fun hv => h ⟨v, hv⟩).symm

/-- The end of the sequence numbers has been noted and raised. -/
def Mach.limitRaised (m : Mach) : Mach := (m.updBuf fun b => { b with limit := true }).raise .map 18 0

theorem limitRaised_same (m : Mach) :
    Mach.SameBut [.reg, .pff, .adm, .alm] (m.updBuf fun b => { b with limit := true }) m.limitRaised := raise_same ..

section
variable {m : Mach}

theorem sequenceLimit_limits (hl : m.buf.limit = false) (hn : 2 ^ 63 ≤ m.buf.wsn ∨ 2 ^ 39 ≤ m.buf.fsn) :
    m.sequenceLimit = m.limitRaised.allReadOnly := if_neg (by simp only [hl]; simp; omega)

theorem sequenceLimit_idle (h : m.buf.limit = true ∨ (m.buf.wsn < 2 ^ 63 ∧ m.buf.fsn < 2 ^ 39)) : m.sequenceLimit = m :=
  if_pos (by simpa only [Bool.or_eq_true, Bool.and_eq_true, decide_eq_true_eq] using h)

end

theorem sequenceEnd_facts (m : Mach) :
    m.limitRaised.allReadOnly.buf = { m.buf with limit := true } ∧
    (∀ v, m.limitRaised.allReadOnly.volu v = if (m.volu v).st = .ready then { m.volu v with st := .readOnly } else m.volu v) ∧
    m.limitRaised.allReadOnly.vol = { m.vol with v := m.limitRaised.allReadOnly.vol.v } ∧
    (m.limitRaised.allReadOnly.hdr .map).err = (m.hdr .map).err ||| bit32 18 ∧
    ((∃ v, (m.volu v).st = .ready) → m.limitRaised.allReadOnly.hdl.want = m.hdl.want ++ [(m.hdl.nextRec, .definition {})]) ∧
    Mach.SameBut [.buf, .vol, .reg, .pff, .adm, .alm, .hdl] m m.limitRaised.allReadOnly := by
  have hlimit : Mach.SameBut [.buf] m (m.updBuf fun b => { b with limit := true }) := by simp [Mach.SameBut]
  have hraise := limitRaised_same m
  have herr : (m.limitRaised.hdr .map).err = (m.hdr .map).err ||| bit32 18 := raise_err _ _ _ (by simp)
  have hbuf : m.limitRaised.buf = { m.buf with limit := true } := same_buf hraise (by simp)
  have hvol : m.limitRaised.vol = m.vol := (same_vol hraise (by simp)).trans rfl
  have hhdl : m.limitRaised.hdl = m.hdl := (same_hdl hraise (by simp)).trans rfl
  have hsame : Mach.SameBut [.buf, .reg, .pff, .adm, .alm] m m.limitRaised :=
    same_trans (same_mono hlimit (by simp)) (same_mono hraise (by simp))
  generalize m.limitRaised = a at *
  obtain ⟨⟨hvolu, hrest⟩, hwant, hall⟩ := allReadOnly_facts a
  refine ⟨(same_buf hall (by simp)).trans hbuf, fun v => ?_, by rw [hrest, hvol], ?_, fun ⟨v, hv⟩ => ?_, ?_⟩
  · rw [hvolu, if_pos (List.mem_finRange v), volu_of hvol]
    rfl
  · rw [hdr_reg (same_reg hall (by simp)), herr]
  · rw [hwant ⟨v, by rwa [volu_of hvol]⟩, hhdl]
  · exact same_trans (same_mono hsame (by simp)) (same_mono hall (by simp))

/-! ### What follows a recovery where nothing waits (R242, R122) -/

/-- With no missing LB sought, none is sought again. -/
theorem retryRmw_none {m : Mach} (h : ∀ x ∈ m.buf.vers, x.st = .sealed → x.rmwTodo = []) : m.retryRmw = m := by
  have hnone : (m.buf.vers.filter fun x => x.st == .sealed && !x.rmwTodo.isEmpty) = [] :=
    List.filter_eq_nil_iff.mpr fun x hx hmine => by
      simp only [Bool.and_eq_true, beq_iff_eq] at hmine
      simp [h x hx hmine.1] at hmine
  unfold Mach.retryRmw
  rw [hnone, each_nil']

theorem settleCovers_settled {m : Mach} (h : m.Settled) : m.settleCovers = m :=
  settleCovers_waits h.answers fun j _ => .inl (h.cmds j)

/-- A change that leaves commands and the twin link alone, and brings no version into the buffer, wakes nobody. -/
theorem recovered_quiet {ps : List Part} {a b : Mach} (hsame : Mach.SameBut ps a b) (hps : .q ∉ ps ∧ .twn ∉ ps)
    (hvers : ∀ x ∈ b.buf.vers, x ∈ a.buf.vers) (hfull : ∀ x ∈ a.buf.vers, x.st = .sealed → x.rmwTodo = []) (hs : a.Settled) :
    b.retryRmw.settleCovers = b := by
  rw [retryRmw_none fun x hx => hfull x (hvers x hx)]
  exact settleCovers_settled ⟨by rw [same_twn hsame hps.2]; exact hs.answers, fun j => by rw [cmd_of_q (same_q hsame hps.1)]; exact hs.cmds j⟩

/-! ### A recovery that ends well (R251) -/

theorem regsSame_after {ks : List Nat} {a b c : Mach} (h : a.RegsSame [] b) (g : b.RegsSame ks c) : a.RegsSame ks c := by
  obtain ⟨hregs, hc64, hlow, hhdr⟩ := h
  obtain ⟨hregs', hc64', hlow', hhdr'⟩ := g
  exact ⟨fun k hk => (hregs' k hk).trans (hregs k (by simp)), hc64'.trans hc64, hlow'.trans hlow, fun p => (hhdr' p).trans (hhdr p)⟩

/-- The recovery is over, and the updates that waited for it are in hand. -/
def Mach.recovered (m : Mach) : Mach := (m.updVol fun x => { x with recov := none, waiting := [] }).touch .map

theorem recovered_vol (m : Mach) : m.recovered.vol = { m.vol with recov := none, waiting := [] } := Mach.touch_vol ..

theorem recovered_regs (m : Mach) : m.RegsSame [] m.recovered := rs_trans (rs_of_reg rfl) (rs_touch ..)

theorem recovered_same (m : Mach) : Mach.SameBut [.vol, .reg] m m.recovered := by simp [Mach.SameBut, Mach.recovered]

theorem recovered_installed (m : Mach) (i : Nat) : m.recovered.installed i = SMap.get 0 m.vol.inst i := by
  simp [Mach.installed, recovered_vol]

theorem markSegs_regs (l : List Nat) (m : Mach) : m.RegsSame [] (m.each l Mach.markSeg) := by
  unfold Mach.each
  induction l generalizing m with
  | nil => exact rs_of_reg rfl
  | cons k l ih => exact rs_trans (markSeg_regs k m) (ih _)

theorem putFur_regs (f : Nat) (x : Fur) (m : Mach) : m.RegsSame [] (m.putFur f x) := by
  have hmark : (m.setFur f x).RegsSame [] (m.putFur f x) := markSeg_regs ..
  exact rs_trans (rs_of_reg rfl) hmark

theorem releaseFur_regs (f : Nat) (m : Mach) : m.RegsSame [] (m.releaseFur f) :=
  rs_trans (putFur_regs f { m.fur f with st := .released, eRel := m.nextRootEpoch } m) (rs_of_reg rfl)

theorem validDown_regs (f : Nat) (m : Mach) : m.RegsSame [] (m.validDown f) := by
  unfold Mach.validDown
  dsimp only
  split
  · exact rs_trans (b := m.setFur f { m.fur f with valid := (m.fur f).valid - 1 }) (rs_of_reg rfl) (releaseFur_regs ..)
  · exact rs_of_reg rfl

/-- A map entry that changes leaves every register but PG_SEQ. -/
theorem setEntry_regs (i : Nat) (e : BitVec 40) (m : Mach) : m.RegsSame [] (m.setEntry i e) := by
  have hup (u : Mach) : u.RegsSame [] (if isAddr e then u.validUp (u.furrowOfAddr e) else u) := by
    split <;> exact rs_of_reg rfl
  unfold Mach.setEntry
  dsimp only
  split
  · exact rs_of_reg rfl
  · have hsegs := markSegs_regs (mapSegsOf i) (m.updVol fun x => { x with map := SMap.set unmapped x.map i e })
    have hnew : m.RegsSame [] _ := rs_trans (rs_trans (rs_of_reg rfl) hsegs) (hup _)
    split
    · exact rs_trans hnew (validDown_regs ..)
    · exact hnew

/-- What the install of a value of no buffered version leaves (R248): the entry and its WSN, and one more in MAP_INSTALL. -/
theorem installAt_facts (m : Mach) (i w : Nat) (e : BitVec 40) :
    (∀ j, (m.installAt i w e none).entry j = if j = i then e else m.entry j) ∧
    (m.installAt i w e none).vol = { m.vol with map := (m.installAt i w e none).vol.map, inst := SMap.set 0 m.vol.inst i w } ∧
    (m.installAt i w e none).rd64 Reg.MAP_INSTALL_LO = m.rd64 Reg.MAP_INSTALL_LO + 1 ∧
    Mach.SameBut [.vol, .gln, .hdl, .reg] m (m.installAt i w e none) := by
  obtain ⟨hentry, hvol, hsame⟩ := setEntry_facts (m.updVol fun x => { x with inst := SMap.set 0 x.inst i w }) i e
  obtain ⟨-, hc64, -, -⟩ := setEntry_regs i e (m.updVol fun x => { x with inst := SMap.set 0 x.inst i w })
  have hinstall : m.installAt i w e none =
      ((m.updVol fun x => { x with inst := SMap.set 0 x.inst i w }).setEntry i e).bump64 Reg.MAP_INSTALL_LO := by
    unfold Mach.installAt Mach.dropVers
    exact if_pos rfl
  rw [hinstall]
  generalize (m.updVol fun x => { x with inst := SMap.set 0 x.inst i w }).setEntry i e = u at hentry hvol hsame hc64
  refine ⟨fun j => ?_, ?_, ?_, ?_⟩
  · have hbump : (u.bump64 Reg.MAP_INSTALL_LO).entry j = u.entry j := by simp [Mach.entry]
    exact hbump.trans (hentry j)
  · rw [Mach.bump64_vol, hvol]
    rfl
  · rw [Mach.bump64, rd64_bump64By_same, rd64_of_c64 hc64]
    rfl
  · exact same_trans (b := m.updVol fun x => { x with inst := SMap.set 0 x.inst i w }) (by simp [Mach.SameBut])
      (same_trans hsame (by simp [Mach.SameBut]))

section
variable {m : Mach} {seg i w : Nat} {a : BitVec 40} (hr : m.vol.recov = some seg)
  (hw : m.vol.waiting = [{ entry := i, addr := a, wsn := w, cas := none }])
include hr hw

theorem recoveryEnd_applies :
    m.recoveryEnd true = ((m.recovered.applyUpd { entry := i, addr := a, wsn := w, cas := none }).retryRmw).settleCovers := by
  unfold Mach.recoveryEnd
  rw [hr, hw]
  rfl

omit hr in
/-- The update that waits is the newest of its entry, unless a newer value has been installed there already. -/
theorem installed_waiting : m.installed i = max (m.recovered.installed i) w := by
  rw [recovered_installed]
  simp [Mach.installed, hw]

theorem recoveryEnd_installs (hn : m.installed i ≤ w) (hfull : ∀ x ∈ m.buf.vers, x.st = .sealed → x.rmwTodo = []) (hs : m.Settled) :
    m.recoveryEnd true = m.recovered.installAt i w a none := by
  have happly : m.recovered.applyUpd { entry := i, addr := a, wsn := w, cas := none } = m.recovered.installAt i w a none := by
    have hold : ¬ w < m.recovered.installed i := by
      rw [installed_waiting hw] at hn
      omega
    exact if_neg hold
  obtain ⟨-, -, -, hsame⟩ := installAt_facts m.recovered i w a
  have hall : Mach.SameBut [.vol, .gln, .hdl, .reg] m _ := same_trans (same_mono (recovered_same m) (by simp)) hsame
  rw [recoveryEnd_applies hr hw, happly]
  exact recovered_quiet hall (by simp) (fun x hx => by rwa [same_buf hall (by simp)] at hx) hfull hs

theorem recoveryEnd_supersedes (hn : w < m.installed i) (hfull : ∀ x ∈ m.buf.vers, x.st = .sealed → x.rmwTodo = []) (hs : m.Settled) :
    m.recoveryEnd true = m.recovered.bump Reg.MAP_SUPERSEDED := by
  have happly : m.recovered.applyUpd { entry := i, addr := a, wsn := w, cas := none } = m.recovered.bump Reg.MAP_SUPERSEDED := by
    have hnew : w < m.recovered.installed i := by
      rw [installed_waiting hw] at hn
      omega
    exact if_pos hnew
  have hall : Mach.SameBut [.vol, .reg] m (m.recovered.bump Reg.MAP_SUPERSEDED) :=
    same_trans (recovered_same m) (same_mono (sb_bump ..) (by simp))
  rw [recoveryEnd_applies hr hw, happly]
  exact recovered_quiet hall (by simp) (fun x hx => by rwa [same_buf hall (by simp)] at hx) hfull hs

end

/-! ### Volumes become FAULTED (R141, R150, R251) -/

/-- From a to b lit pages may have gone dark, with their records: no PG_ERR bit outside the Almanac's page has changed. -/
structure Mach.Darkens (a b : Mach) : Prop where
  same : Mach.SameBut [.lamp, .reg, .pff, .adm, .alm] a b
  err : ∀ p, p ≠ .alm → (b.hdr p).err = (a.hdr p).err

section
variable {a b c : Mach}

theorem darkens_refl (m : Mach) : m.Darkens m := ⟨same_refl .., fun _ _ => rfl⟩

theorem darkens_trans (h : a.Darkens b) (h' : b.Darkens c) : a.Darkens c :=
  ⟨same_trans h.same h'.same, fun p hp => (h'.err p hp).trans (h.err p hp)⟩

theorem darkens_each {α : Type} (l : List α) (f : α → Mach → Mach) (hf : ∀ x m, Mach.Darkens m (f x m)) (m : Mach) :
    m.Darkens (m.each l f) := by
  unfold Mach.each
  induction l generalizing m with
  | nil => exact darkens_refl m
  | cons x l ih => exact darkens_trans (hf x m) (ih _)

theorem darkens_of_lamp (h : Mach.SameBut [.lamp, .adm] a b) : a.Darkens b :=
  ⟨same_mono h (by simp), fun p _ => by rw [hdr_reg (same_reg h (by simp))]⟩

theorem darkens_recorded (h : a.Recorded b) : a.Darkens b := ⟨same_mono h.same (by simp), h.err⟩

end

theorem frameCheck_same (key : Nat) (m : Mach) : Mach.SameBut [.lamp, .adm] m (m.frameCheck key) := by
  unfold Mach.frameCheck
  dsimp only
  split
  · exact same_refl ..
  · split
    · simp [Mach.SameBut, Mach.dropPoison]
    · exact same_refl ..

theorem taint_same (key p : Nat) (ext : Bool) (m : Mach) : Mach.SameBut [.lamp, .adm] m (m.taint key p ext) := by
  unfold Mach.taint
  extract_lets d was d' u mark v
  have hu : Mach.SameBut [.lamp, .adm] m u := by simp [u, Mach.SameBut]
  have hv : Mach.SameBut [.lamp, .adm] u v := by
    unfold v
    split
    · split <;> simp [Mach.SameBut]
    · simp [Mach.SameBut, Mach.logEvent, Mach.addPoison]
  exact same_trans (same_trans hu hv) (frameCheck_same ..)

theorem darkRegions_darkens (v : Vid) (m : Mach) : m.Darkens (m.darkRegions v) := by
  refine darkens_each _ _ (fun k m => ?_) m
  dsimp only
  split
  · exact darkens_refl m
  · refine darkens_trans (darkens_each _ _ (fun key m => darkens_of_lamp ?_) m) (darkens_recorded (recorded_devEvent ..))
    have htaints := same_each ((List.range 512).filter fun p => (m.desc key).dirtyPages.getLsbD p) (fun p m => m.taint key p false)
      (fun p m => taint_same key p false m) m
    exact same_trans htaints (same_trans (by simp [Mach.SameBut]) (frameCheck_same ..))

/-- A volume is FAULTED. -/
def Vol.toFaulted (x : Vol) : Vol := { x with st := .faulted }

/-- From a to b the volumes listed have become FAULTED, and a DEFINITION record has been asked for behind each (R141). -/
structure Mach.Faults (l : List Vid) (a b : Mach) : Prop where
  vols : a.VolsTake Vol.toFaulted l b
  err : ∀ p, p ≠ .alm → (b.hdr p).err = (a.hdr p).err
  kept : ∀ r ∈ a.hdl.want, r ∈ b.hdl.want
  asked : l ≠ [] → (a.hdl.nextRec, .definition {}) ∈ b.hdl.want
  same : Mach.SameBut [.vol, .lamp, .hdl, .reg, .pff, .adm, .alm] a b

theorem faultVol_eq (v : Vid) (m : Mach) :
    m.faultVol v = (((m.setVol v (m.volu v).toFaulted).darkRegions v).ask (.definition {})).1 := rfl

theorem faults_refl (m : Mach) : m.Faults [] m :=
  ⟨⟨fun _ => rfl, rfl⟩, fun _ _ => rfl, fun _ hr => hr, fun h => absurd rfl h, same_refl ..⟩

theorem faults_cons {a b c : Mach} {v : Vid} {l : List Vid} (h : a.Faults [v] b) (h' : b.Faults l c) : a.Faults (v :: l) c where
  vols := volsTake_cons (fun _ => rfl) h.vols h'.vols
  err p hp := (h'.err p hp).trans (h.err p hp)
  kept r hr := h'.kept r (h.kept r hr)
  asked _ := h'.kept _ (h.asked (by simp))
  same := same_trans h.same h'.same

theorem faultVol_faults (v : Vid) (m : Mach) : m.Faults [v] (m.faultVol v) := by
  have hset : Mach.SameBut [.vol] m (m.setVol v (m.volu v).toFaulted) := by simp [Mach.SameBut]
  have hvols := volsTake_setVol (g := Vol.toFaulted) m v
  obtain ⟨hsame, herr⟩ := darkRegions_darkens v (m.setVol v (m.volu v).toFaulted)
  rw [faultVol_eq]
  have hregs : (m.setVol v (m.volu v).toFaulted).reg = m.reg := rfl
  generalize m.setVol v (m.volu v).toFaulted = a at *
  generalize a.darkRegions v = b at *
  have hhdl : b.hdl = m.hdl := (same_hdl hsame (by simp)).trans (same_hdl hset (by simp))
  have hask := ask_same (.definition {}) b
  refine ⟨volsTake_of_vol hvols ((same_vol hask (by simp)).trans (same_vol hsame (by simp))), fun p hp => ?_, fun r hr => ?_, fun _ => ?_, ?_⟩
  · exact (herr p hp).trans (by rw [hdr_reg hregs])
  · simp [ask_want, hhdl, hr]
  · simp [ask_want, hhdl]
  · exact same_trans (same_mono hset (by simp)) (same_trans (same_mono hsame (by simp)) (same_mono hask (by simp)))

theorem faultVols_fault (l : List Vid) (m : Mach) : m.Faults l (m.each l Mach.faultVol) := by
  unfold Mach.each
  induction l generalizing m with
  | nil => exact faults_refl m
  | cons v l ih => exact faults_cons (faultVol_faults v m) (ih _)

/-! ### A recovery that fails (R251) -/

/-- Versions that leave the buffer leave all but the registers and the Almanac's sums. -/
theorem dropVers_leaves (ids : List Nat) (m : Mach) : Mach.SameBut [.buf, .reg, .alm] m (m.dropVers ids) ∧
    (∀ x ∈ (m.dropVers ids).buf.vers, x ∈ m.buf.vers) ∧ ∀ p, p ≠ .alm → ((m.dropVers ids).hdr p).err = (m.hdr p).err := by
  unfold Mach.dropVers
  split
  · exact ⟨same_refl .., fun _ hx => hx, fun _ _ => rfl⟩
  · have hcut : Mach.SameBut [.buf] m (m.updBuf fun b => { b with vers := b.vers.filter fun x => !ids.contains x.id }) := by
      simp [Mach.SameBut]
    have hvers : ∀ x ∈ (m.updBuf fun b => { b with vers := b.vers.filter fun x => !ids.contains x.id }).buf.vers, x ∈ m.buf.vers :=
      fun _ hx => List.mem_of_mem_filter hx
    generalize (m.updBuf fun b => { b with vers := b.vers.filter fun x => !ids.contains x.id }) = a at *
    have hsame := observeBuf_same a
    have hrec : a.Recorded a.observeBuf := recorded_trans (recorded_observe ..) (recorded_touch ..)
    refine ⟨same_trans (same_mono hcut (by simp)) (same_mono hsame (by simp)), fun x hx => ?_, fun p hp => ?_⟩
    · rw [same_buf hsame (by simp)] at hx
      exact hvers x hx
    · rw [hrec.err p hp, hdr_reg (same_reg hcut (by simp))]

theorem recovered_volu (m : Mach) (v : Vid) : m.recovered.volu v = m.volu v := by
  unfold Mach.volu
  rw [recovered_vol]

theorem recovered_volsIn (m : Mach) (seg : Nat) : m.recovered.volsIn seg = m.volsIn seg := by
  unfold Mach.volsIn
  simp only [recovered_volu]

theorem recovered_mapSegs (m : Mach) : m.recovered.mapSegs = m.mapSegs := by
  unfold Mach.mapSegs
  rw [recovered_vol]

/-- The volumes of the segment are FAULTED, the versions that waited for it dropped, and the error raised. -/
def Mach.segmentFaulted (seg : Nat) (ids : List Nat) (m : Mach) : Mach :=
  ((m.dropVers ids).each (m.volsIn seg) Mach.faultVol).raise .map 17 (BitVec.ofNat 64 seg)

theorem segmentFaulted_facts (m : Mach) (seg : Nat) (ids : List Nat) :
    m.VolsTake Vol.toFaulted (m.volsIn seg) (m.segmentFaulted seg ids) ∧
    (m.volsIn seg ≠ [] → (m.hdl.nextRec, .definition {}) ∈ (m.segmentFaulted seg ids).hdl.want) ∧
    ((m.segmentFaulted seg ids).hdr .map).err = (m.hdr .map).err ||| bit32 17 ∧
    (∀ x ∈ (m.segmentFaulted seg ids).buf.vers, x ∈ m.buf.vers) ∧
    Mach.SameBut [.vol, .lamp, .buf, .hdl, .reg, .pff, .adm, .alm] m (m.segmentFaulted seg ids) := by
  unfold Mach.segmentFaulted
  generalize m.volsIn seg = l
  obtain ⟨hdrop, hvers, herr⟩ := dropVers_leaves ids m
  generalize m.dropVers ids = a at *
  obtain ⟨hvols, hkept, -, hasked, hfault⟩ := faultVols_fault l a
  generalize a.each l Mach.faultVol = b at *
  have hraise := raise_same b .map 17 (BitVec.ofNat 64 seg)
  refine ⟨⟨fun v => ?_, ?_⟩, fun hl => ?_, ?_, fun x hx => ?_, ?_⟩
  · rw [volu_of (same_vol hraise (by simp)), hvols.volu, volu_of (same_vol hdrop (by simp))]
  · rw [same_vol hraise (by simp), hvols.rest, same_vol hdrop (by simp)]
  · rw [same_hdl hraise (by simp), ← same_hdl hdrop (by simp)]
    exact hasked hl
  · rw [raise_err _ _ _ (by simp), hkept .map (by simp), herr .map (by simp)]
  · rw [same_buf hraise (by simp), same_buf hfault (by simp)] at hx
    exact hvers x hx
  · exact same_trans (same_mono hdrop (by simp)) (same_trans (same_mono hfault (by simp)) (same_mono hraise (by simp)))

section
variable {m : Mach} {seg : Nat} (hr : m.vol.recov = some seg)
include hr

theorem recoveryEnd_failed : m.recoveryEnd false =
    if m.recovered.mapSegs ≤ seg then m.recovered.fail 5
    else (m.recovered.segmentFaulted seg ((m.vol.waiting.foldr insertUpd []).filterMap (·.ver))).retryRmw.settleCovers := by
  unfold Mach.recoveryEnd Mach.segmentFaulted Mach.recovered
  simp only [hr, Bool.false_eq_true, if_false]

theorem recoveryEnd_faults (hseg : seg < m.mapSegs) (hfull : ∀ x ∈ m.buf.vers, x.st = .sealed → x.rmwTodo = []) (hs : m.Settled) :
    ∃ ids, m.recoveryEnd false = m.recovered.segmentFaulted seg ids := by
  refine ⟨(m.vol.waiting.foldr insertUpd []).filterMap (·.ver), ?_⟩
  rw [recoveryEnd_failed hr, recovered_mapSegs, if_neg (by omega)]
  obtain ⟨-, -, -, hvers, hsame⟩ := segmentFaulted_facts m.recovered seg ((m.vol.waiting.foldr insertUpd []).filterMap (·.ver))
  refine recovered_quiet (same_trans (same_mono (recovered_same m) (by simp)) hsame) (by simp) (fun x hx => ?_) hfull hs
  rw [← same_buf (recovered_same m) (by simp)]
  exact hvers x hx

theorem recoveryEnd_fails (hseg : m.mapSegs ≤ seg) : m.recoveryEnd false = m.recovered.fail 5 := by
  rw [recoveryEnd_failed hr, recovered_mapSegs, if_pos hseg]

end

theorem recoveryEnd_idle {m : Mach} (ok : Bool) (h : m.vol.recov = none) : m.recoveryEnd ok = m := by
  unfold Mach.recoveryEnd
  rw [h]

/-! ### What the end of a recovery leaves (R251) -/

theorem recovered_entry (m : Mach) (j : Nat) : m.recovered.entry j = m.entry j := by
  unfold Mach.entry
  rw [recovered_vol]

theorem recovered_installAt_facts (m : Mach) (i w : Nat) (a : BitVec 40) :
    (m.recovered.installAt i w a none).vol.recov = none ∧ (m.recovered.installAt i w a none).vol.waiting = [] ∧
    (m.recovered.installAt i w a none).entry i = a ∧ (m.recovered.installAt i w a none).installed i = w ∧
    (∀ j, j ≠ i → (m.recovered.installAt i w a none).entry j = m.entry j) ∧
    (m.recovered.installAt i w a none).rd64 Reg.MAP_INSTALL_LO = m.rd64 Reg.MAP_INSTALL_LO + 1 ∧
    Mach.SameBut [.vol, .reg, .hdl, .gln] m (m.recovered.installAt i w a none) := by
  obtain ⟨hentry, hvol, hcount, hsame⟩ := installAt_facts m.recovered i w a
  obtain ⟨-, hc64, -, -⟩ := recovered_regs m
  refine ⟨by rw [hvol, recovered_vol], by rw [hvol, recovered_vol], by rw [hentry, if_pos rfl], ?_, fun j hj => ?_, ?_, ?_⟩
  · rw [Mach.installed, hvol, recovered_vol]
    simp
  · rw [hentry, if_neg hj, recovered_entry]
  · rw [hcount, rd64_of_c64 hc64]
  · exact same_trans (same_mono (recovered_same m) (by simp)) (same_mono hsame (by simp))

theorem recovered_bump_facts (m : Mach) :
    (m.recovered.bump Reg.MAP_SUPERSEDED).vol = { m.vol with recov := none, waiting := [] } ∧
    (m.recovered.bump Reg.MAP_SUPERSEDED).rdN Reg.MAP_SUPERSEDED = min 0xFFFFFFFF (m.rdN Reg.MAP_SUPERSEDED + 1) ∧
    m.RegsSame [Reg.MAP_SUPERSEDED] (m.recovered.bump Reg.MAP_SUPERSEDED) ∧
    Mach.SameBut [.vol, .reg] m (m.recovered.bump Reg.MAP_SUPERSEDED) := by
  have hregs := recovered_regs m
  refine ⟨by rw [Mach.bump_vol, recovered_vol], ?_, regsSame_after hregs (rs_bump ..), ?_⟩
  · rw [rdN_bump, rdN_of_regsBut hregs.1 (by simp)]
  · exact same_trans (recovered_same m) (same_mono (sb_bump ..) (by simp))

theorem recovered_segmentFaulted_facts (m : Mach) (seg : Nat) (ids : List Nat) :
    (m.recovered.segmentFaulted seg ids).vol.recov = none ∧ (m.recovered.segmentFaulted seg ids).vol.waiting = [] ∧
    (∀ v, (m.recovered.segmentFaulted seg ids).volu v = if v ∈ m.volsIn seg then { m.volu v with st := .faulted } else m.volu v) ∧
    (m.volsIn seg ≠ [] → (m.hdl.nextRec, .definition {}) ∈ (m.recovered.segmentFaulted seg ids).hdl.want) ∧
    ((m.recovered.segmentFaulted seg ids).hdr .map).err = (m.hdr .map).err ||| bit32 17 ∧
    Mach.SameBut [.vol, .lamp, .buf, .hdl, .reg, .pff, .adm, .alm] m (m.recovered.segmentFaulted seg ids) := by
  obtain ⟨⟨hvolu, hrest⟩, hasked, herr, -, hsame⟩ := segmentFaulted_facts m.recovered seg ids
  obtain ⟨-, -, -, hhdr⟩ := recovered_regs m
  rw [recovered_volsIn] at hvolu hasked
  refine ⟨by rw [hrest, recovered_vol], by rw [hrest, recovered_vol], fun v => ?_, fun hl => ?_, ?_, ?_⟩
  · rw [hvolu, recovered_volu]
    rfl
  · rw [← same_hdl (recovered_same m) (by simp)]
    exact hasked hl
  · rw [herr, err_of_hdr (hhdr .map)]
  · exact same_trans (same_mono (recovered_same m) (by simp)) hsame

theorem recovered_fail_facts {m : Mach} (hst : m.dev.st ≠ .failed) :
    (m.recovered.fail 5).vol.recov = none ∧ (m.recovered.fail 5).dev.st = .failed ∧ (m.recovered.fail 5).dev.failCause = 5 := by
  have hend : m.recovered.Ending (m.recovered.fail 5) := Mach.Ending.fail (same_refl ..) 5
  have hdev : m.recovered.dev.st ≠ .failed := by rwa [same_dev (recovered_same m) (by simp)]
  exact ⟨by rw [same_vol hend (by decide), recovered_vol], fail_dev' _ _ hdev⟩

/-- Settles O51. Each limit that is reached is one change of the state and one PG_ERR bit, each that is not leaves the state as it is; the end of a
recovery is its update, its superseding, its faulted volumes or the failure of the controller. -/
theorem limitsAndRecoveries : Obligations.LimitsAndRecoveries := by
  unfold Obligations.LimitsAndRecoveries
  refine ⟨?exhausted, ?notExhausted, ?halted, ?notHalted, ?integrity, ?notIntegrity, ?sequence, ?notSequence, ?noRecovery, ?installs,
    ?supersedes, ?faults, ?fails⟩
  case exhausted =>
    intro s k hst hn
    exact completes_eq (Mach.exhaustSlot k) rfl (exhaustSlot_limits hst hn) (slotLimited_facts s.m k .exhausted 16)
  case notExhausted =>
    intro s k h
    exact completes_eq (Mach.exhaustSlot k) rfl (exhaustSlot_idle h) rfl
  case halted =>
    intro s k hst hn
    exact completes_eq (Mach.haltSlot k) rfl (haltSlot_limits hst hn) (slotLimited_facts s.m k .halted 17)
  case notHalted =>
    intro s k h
    exact completes_eq (Mach.haltSlot k) rfl (haltSlot_idle h) rfl
  case integrity =>
    intro s hst hn
    exact completes_eq Mach.exhaustIntegrity rfl (exhaustIntegrity_limits hst hn) (integExhausted_facts s.m)
  case notIntegrity =>
    intro s h
    exact completes_eq Mach.exhaustIntegrity rfl (exhaustIntegrity_idle h) rfl
  case sequence =>
    intro s hl hn
    exact completes_eq Mach.sequenceLimit rfl (sequenceLimit_limits hl hn) (sequenceEnd_facts s.m)
  case notSequence =>
    intro s h
    exact completes_eq Mach.sequenceLimit rfl (sequenceLimit_idle h) rfl
  case noRecovery =>
    intro s ok h
    exact completes_eq (Mach.recoveryEnd ok) rfl (recoveryEnd_idle ok h) rfl
  case installs =>
    intro s seg i w a hr hw hn hfull hs
    exact completes_eq (Mach.recoveryEnd true) rfl (recoveryEnd_installs hr hw hn hfull hs) (recovered_installAt_facts s.m i w a)
  case supersedes =>
    intro s seg i w a hr hw hn hfull hs
    exact completes_eq (Mach.recoveryEnd true) rfl (recoveryEnd_supersedes hr hw hn hfull hs) (recovered_bump_facts s.m)
  case faults =>
    intro s seg hr hseg hfull hs
    obtain ⟨ids, hend⟩ := recoveryEnd_faults hr hseg hfull hs
    exact completes_eq (Mach.recoveryEnd false) rfl hend (recovered_segmentFaulted_facts s.m seg ids)
  case fails =>
    intro s seg hr hseg hst
    exact completes_eq (Mach.recoveryEnd false) rfl (recoveryEnd_fails hr hseg) (recovered_fail_facts hst)

end Sys2Proof.Machine

/-! A step and its command (O1, O2), and the test access port (O58, O59). -/

namespace Sys2Proof.Machine

-- One proof at a time: proofs that wait for each other would each hold a thread and its stack.
set_option Elab.async false

/-! ### One step -/

/-- Settles O1: the two branches of `step` (log entry 10 for the idle one). -/
theorem stepRunsTheFrontCommand : Obligations.StepRunsTheFrontCommand := by
  refine ⟨?front, ?idle⟩
  case front =>
    intro s c rest hq
    simp only [step, hq]
  case idle =>
    intro s hq
    simp only [step, hq]

/-- Settles O2: the arm of every command changes the machine alone. Events out of their occasion and operands out of range answer with the
same state (log entries 9, 11 and 155). -/
theorem everyCommandAnswersANextState : Obligations.EveryCommandAnswersANextState := by
  intro c s
  cases c <;> exact ⟨_, rfl⟩

/-! ### The test access port -/

/-- An instruction that drives no pin is safe whatever RESET_N is. -/
theorem tapSafe_of_quiet {m : Mach} (h : m.tap ≠ .extest ∧ m.tap ≠ .highz ∧ m.tap ≠ .clamp) : m.tapSafe := by
  rintro (ht | ht | ht)
  · exact absurd ht h.1
  · exact absurd ht h.2.1
  · exact absurd ht h.2.2

@[simp] theorem tapLoad_tap (i : TapIr) (m : Mach) : (m.tapLoad i).tap = i := by cases i <;> rfl

@[simp] theorem tapLoad_dev (i : TapIr) (m : Mach) : (m.tapLoad i).dev = m.dev := by cases i <;> rfl

/-- The bits of IDCODE beside the maker's code (Table 22.9). -/
theorem idcodeWord_fixed : idcodeWord.getLsbD 0 = true ∧ idcodeWord.extractLsb' 12 16 = 0x7140 ∧ idcodeWord.extractLsb' 28 4 = 2 := by
  unfold idcodeWord
  generalize Config.jep106 = j
  refine ⟨by simp, ?_, ?_⟩
  · rw [BitVec.extractLsb'_or]
    have hmaker : (j.setWidth 32 <<< 1).extractLsb' 12 16 = 0 := by
      ext i hi
      simp
    rw [hmaker]
    rfl
  · rw [BitVec.extractLsb'_or]
    have hmaker : (j.setWidth 32 <<< 1).extractLsb' 28 4 = 0 := by
      ext i hi
      simp
      exact fun _ _ => BitVec.getLsbD_of_ge _ _ (by omega)
    rw [hmaker]
    rfl

/-- Settles O58. EXTEST, HIGHZ and CLAMP load BYPASS while RESET_N is high; the maker's code and the captured pins are free values
(log entry 148). -/
theorem testAccessPort : Obligations.TestAccessPort := by
  refine ⟨?idcode, idcodeWord_fixed, ?sample, ?bypass, ?released, ?inReset, ?extest⟩
  case idcode => exact fun s => completes_on _ rfl ⟨rfl, rfl, by simp [Mach.SameBut, Mach.tapLoad, Mach.send]⟩
  case sample => exact fun s => completes_on _ rfl ⟨rfl, rfl, rfl, by simp [Mach.SameBut, Mach.tapLoad, Mach.send, Mach.draw]⟩
  case bypass => exact fun s => completes_on _ rfl ⟨rfl, rfl, by simp [Mach.SameBut, Mach.tapLoad, Mach.send]⟩
  case released =>
    intro s c hr hc
    have hload (i : TapIr) : s.m.tapInReset i = s.m.tapLoad .bypass := by simp [Mach.tapInReset, hr]
    have hbypass : (s.m.tapLoad .bypass).tap = .bypass ∧ s.m.Sent [.tdo .bypass 0] (s.m.tapLoad .bypass) ∧
        s.m.SameBut [.tap, .out] (s.m.tapLoad .bypass) :=
      ⟨rfl, rfl, by simp [Mach.SameBut, Mach.tapLoad, Mach.send]⟩
    obtain rfl | rfl | rfl := hc
    · exact completes_eq _ rfl (hload .extest) hbypass
    · exact completes_eq _ rfl (hload .highz) hbypass
    · exact completes_eq _ rfl (hload .clamp) hbypass
  case inReset =>
    intro s c i hr hc
    have hload : s.m.tapInReset i = s.m.tapLoad i := by simp [Mach.tapInReset, hr]
    obtain ⟨rfl, rfl⟩ | ⟨rfl, rfl⟩ := hc
    · exact completes_eq _ rfl hload ⟨rfl, rfl, by simp [Mach.SameBut, Mach.tapLoad, Mach.send]⟩
    · exact completes_eq _ rfl hload ⟨rfl, rfl, by simp [Mach.SameBut, Mach.tapLoad, Mach.send]⟩
  case extest =>
    intro s hr
    have hload : s.m.tapInReset .extest = s.m.tapLoad .extest := by simp [Mach.tapInReset, hr]
    exact completes_eq _ rfl hload ⟨rfl, rfl, rfl, by simp [Mach.SameBut, Mach.tapLoad, Mach.send, Mach.draw]⟩

theorem tapIr_released_quiet (i : TapIr) : i.released ≠ .extest ∧ i.released ≠ .highz ∧ i.released ≠ .clamp := by
  cases i <;> decide

theorem powerOn_tapSafe (straps : BitVec 3) (m : Mach) : (m.powerOn straps).tapSafe := by
  unfold Mach.powerOn
  refine Mach.tapSafe_of_sig (Mach.bootGo_sig _) ?_
  split
  · exact Mach.tapSafe_of_sig (Mach.sampleStraps_sig ..) (tapSafe_of_quiet (by simp))
  · exact tapSafe_of_quiet (by simp)

theorem resetAssert_tapSafe {m : Mach} (h : m.tapSafe) : m.resetAssert.tapSafe := by
  unfold Mach.resetAssert
  dsimp only
  split
  · exact h
  · have hlow : (m.updDev fun d => { d with resetN := false }).tapSafe := fun _ => rfl
    split
    · exact hlow
    · exact Mach.tapSafe_of_sig (Mach.resetRequest_sig ..) hlow

theorem resetDeassert_tapSafe (straps : BitVec 3) {m : Mach} (h : m.tapSafe) : (m.resetDeassert straps).tapSafe := by
  unfold Mach.resetDeassert
  dsimp only
  split
  · exact h
  · have hquiet : ({ m.updDev (fun d => { d with resetN := true }) with tap := m.tap.released } : Mach).tapSafe :=
      tapSafe_of_quiet (tapIr_released_quiet m.tap)
    split
    · exact Mach.tapSafe_of_sig ((Mach.bootGo_sig _).trans (Mach.sampleStraps_sig ..)) hquiet
    · exact hquiet

theorem tapInReset_tapSafe (i : TapIr) (m : Mach) : (m.tapInReset i).tapSafe := by
  unfold Mach.tapInReset
  split
  · exact tapSafe_of_quiet (by simp)
  · next hr => exact fun _ => by simpa using hr

/-- A command whose meaning is safe leaves a safe state. -/
theorem tapSafe_on {s s' : State} {f : Mach → Mach} (h : s.on f = .next s') (hf : (f s.m).tapSafe) : s'.m.tapSafe := by
  rw [eq_on h]
  exact hf

/-- Every command keeps the test access port safe: most leave it and RESET_N alone; those that load it or move RESET_N each see to it. -/
theorem exec_tapSafe {c : Instr} {s s' : State} (hs : s.m.tapSafe) (h : exec c s = .next s') : s'.m.tapSafe := by
  cases hc : changesSig c with
  | false =>
    obtain ⟨htap, hreset, -⟩ := exec_le h hc
    rw [Mach.tapSafe, htap, hreset]
    exact hs
  | true =>
    unfold changesSig at hc
    split at hc
    next => exact tapSafe_on h (powerOn_tapSafe _ _)
    next => exact tapSafe_on h (resetAssert_tapSafe hs)
    next => exact tapSafe_on h (resetDeassert_tapSafe _ hs)
    next => exact tapSafe_on h (tapSafe_of_quiet (by simp))
    next => exact tapSafe_on h (tapSafe_of_quiet (by simp))
    next => exact tapSafe_on h (tapInReset_tapSafe _ _)
    next => exact tapSafe_on h (tapInReset_tapSafe _ _)
    next => exact tapSafe_on h (tapInReset_tapSafe _ _)
    next => exact tapSafe_on h (tapSafe_of_quiet (by simp))
    next => cases hc

/-- Settles O59: a step idles or runs the front command, and every command keeps the port safe. -/
theorem stepKeepsTheTapSafe : Obligations.StepKeepsTheTapSafe := by
  intro s t hs h
  unfold step at h
  split at h
  next =>
    cases h
    exact hs
  next rest _ => exact exec_tapSafe (s := { s with pending := rest }) hs h

end Sys2Proof.Machine

/-! The power-fail sequence (O14), the DRAM (O54), the junction trip (O55), the Almanac's clock (O57) and the handover timeout (O42). Each of the
five statements says in one clause more than the manual does; the state where it fails is written out below with what the command makes of it. -/

namespace Sys2Proof.Machine

-- One proof at a time: proofs that wait for each other would each hold a thread and its stack.
set_option Elab.async false

/-! ### The write-out at a GPF -/

/-- A version that an earlier dump holds, read back at a start-up and not durable yet. -/
def olderVersion : Ver :=
  { id := 3, vol := 1, mu := 0, mask := 1, data := [], wsn := 5, st := .opn, pos := 0, lampwb := 0, rmwTodo := [], rmwFail := false, lost := 0
    pri := false, cov := false, rsv := false, again := false }

/-- A write-out at a GPF of a part whose buffer is empty, while a version of an earlier dump is not durable. -/
def gpfAfterDump : State :=
  { m := {
      dev := { st := .ioReady, stage := 10, loaded := true, formatted := true, dump := some .gpf }
      hdl := { dumpActive := true, dumpValid := true, dumped := [olderVersion] } } }

/-- The new dump keeps the older version beside those of its own, of which there is none (R298). -/
theorem gpfAfterDump_keeps : gpfAfterDump.m.dumpVers = [] ∧ (gpfAfterDump.m.dumpEnd true).hdl.dumped = [olderVersion] := by decide +kernel

/-- Refutes O14: in its clause on the write-out at a GPF the dump holds the versions of this write-out alone. But a version of an earlier dump
that is not durable yet stays part of it (R298). -/
theorem not_powerFail : ¬ Obligations.PowerFail := by
  unfold Obligations.PowerFail
  rintro ⟨-, -, -, -, hgpf, -⟩
  obtain ⟨-, -, -, -, hdumped, -⟩ := of_completes (Mach.dumpEnd true) rfl (hgpf gpfAfterDump rfl rfl rfl rfl)
  obtain ⟨hnew, hkept⟩ := gpfAfterDump_keeps
  exact absurd (hkept.symm.trans (hdumped.trans hnew)) (List.cons_ne_nil _ _)

/-! ### A DRAM line of a subchannel rank whose marked device has every pin masked -/

/-- A running DRAM channel 0 that has marked device 0 of its subchannel rank 0, with all eight of its pins masked. -/
def wholeDeviceMarked : State :=
  { m := {
      reg := { pg := [((Page.drc 0).base, { st := .running })] }
      drc := [(0, { trained := true, marked := [(0, 1)], pins := [(0, 255)] })] } }

/-- A line with errors in two devices. -/
def twoDevices : DramSyndrome := { symbols := 2, devices := [0, 1], pins := 0 }

/-- Both check symbols recover the marked device, so that the errors of the line go undetected (R311). -/
theorem wholeDeviceMarked_undetected : wholeDeviceMarked.m.rdN Reg.DRG_UE = 0 ∧
    (wholeDeviceMarked.m.patrolScrub 0 false false twoDevices .unused false).rdN Reg.DRG_UE = 0 := by decide +kernel

/-- Refutes O54: in its clause on lines that cannot be corrected every line with errors in two devices counts. But where the marked device of the
subchannel rank has all its pins masked, errors of another device are neither corrected nor detected (R311). -/
theorem not_dram : ¬ Obligations.Dram := by
  unfold Obligations.Dram
  rintro ⟨-, -, -, -, -, huncorrectable, -⟩
  obtain ⟨-, hcounts, -⟩ := of_completes (Mach.patrolScrub 0 false false twoDevices .unused false) rfl
    (huncorrectable wholeDeviceMarked 0 false false twoDevices .unused 0 (by decide +kernel) (.inl (by decide)) (.inl rfl))
  obtain ⟨hbefore, hafter⟩ := wholeDeviceMarked_undetected
  rw [hbefore, hafter] at hcounts
  exact absurd hcounts (by decide)

/-! ### The junction trip -/

/-- The first die of channel 0 with a running erase of its block 7, whose entry is ERASING, and no table segment of the headland dirty. -/
def eraseAtTrip : State :=
  { m := { fl := { die := [(0, { erun := some 7 })], blk := [(7, { st := .erasing })] } } }

/-- The same with that erase suspended: the block's entry has gone to ERASE_SUSPENDED. -/
def suspendedAtTrip : Mach :=
  ((eraseAtTrip.m.updFl fun f => { f with trip := true }).updThm fun t => { t with trip := true }).suspendErase 0 false

/-- The table segment that holds the entry of the block has become dirty (R283, R285). -/
theorem suspendedAtTrip_marks : suspendedAtTrip.hdl.seg ≠ [] := by decide +kernel

theorem suspendErase_idle {m : Mach} {d : Nat} (count : Bool) (h : (m.die d).erun = none) : m.suspendErase d count = m := by
  unfold Mach.suspendErase
  simp [h]

theorem suspendChan_idle {m : Mach} (c : Chan) (h : ∀ d, (m.die d).erun = none) : m.suspendChan c = m :=
  each_id _ _ _ fun _ _ => suspendErase_idle false (h _)

/-- No erase runs any more. -/
theorem suspendedAtTrip_idle (d : Nat) : (suspendedAtTrip.die d).erun = none := by
  have hdies : suspendedAtTrip.fl.die = [(0, { esusp := some 7 })] := by decide +kernel
  rw [Mach.die, hdies]
  by_cases hd : d = 0
  · subst hd
    rfl
  · have hget : SMap.get ({} : DieSt) [(0, { esusp := some 7 })] d = {} := by simp [SMap.get, hd]
    rw [hget]

/-- The trip suspends that erase and finds no other. -/
theorem eraseAtTrip_suspends :
    ((eraseAtTrip.m.updFl fun f => { f with trip := true }).updThm fun t => { t with trip := true }).each (List.finRange 32) Mach.suspendChan =
      suspendedAtTrip := by
  rw [List.finRange_succ, each_cons]
  have hfirst : Mach.suspendChan 0 ((eraseAtTrip.m.updFl fun f => { f with trip := true }).updThm fun t => { t with trip := true }) =
      suspendedAtTrip := by
    unfold Mach.suspendChan
    rw [List.range_succ_eq_map, each_cons]
    exact each_id _ _ _ fun _ _ => suspendErase_idle false (suspendedAtTrip_idle _)
  rw [hfirst]
  exact each_id _ _ _ fun _ _ => suspendChan_idle _ suspendedAtTrip_idle

/-- The trip suspends the running erases, counts, and tells of it (R348). -/
theorem junctionTrip_eq {m : Mach} (h : m.fl.trip = false) : m.junctionTrip =
    (((((m.updFl fun f => { f with trip := true }).updThm fun t => { t with trip := true }).each (List.finRange 32) Mach.suspendChan).bump
      Reg.THM_TRIPCNT).updAdm fun a => { a with health := { a.health with tripSeen := true } }).raise .thm 17 0 := by
  unfold Mach.junctionTrip
  rw [if_neg (by simp [h])]

theorem tripTold_hdl (m : Mach) :
    (((m.bump Reg.THM_TRIPCNT).updAdm fun a => { a with health := { a.health with tripSeen := true } }).raise .thm 17 0).hdl = m.hdl := by
  rw [same_hdl (recorded_raise _ _ _ _).same (by simp)]
  simp [Mach.errBit]

/-- Refutes O55: in its clause on the junction trip nothing of the headland changes. But the state of a block is part of the block table, so the
suspension of its erase marks a table segment dirty (R283, R285). -/
theorem not_temperature : ¬ Obligations.Temperature := by
  unfold Obligations.Temperature
  rintro ⟨-, -, -, -, -, -, -, -, -, -, -, -, -, htrip, -⟩
  obtain ⟨-, -, -, -, -, -, -, hsame⟩ := of_completes Mach.junctionTrip rfl (htrip eraseAtTrip rfl)
  have hclean : suspendedAtTrip.hdl = eraseAtTrip.m.hdl := by
    rw [← eraseAtTrip_suspends, ← tripTold_hdl, ← junctionTrip_eq rfl]
    exact same_hdl hsame (by simp)
  exact suspendedAtTrip_marks (congrArg Headland.seg hclean)

/-! ### The power-on time -/

/-- A part that has been powered for as long as POT can tell. -/
def potAtEnd : State := { m := { alm := { pot := 0xFFFFFFFF } } }

/-- POT sticks at its end (Table 20.1). -/
theorem potAtEnd_sticks : potAtEnd.m.potAdvance.alm.pot = 0xFFFFFFFF := by decide +kernel

/-- Refutes O57: in its clause on POT the count advances whatever it is. But at 0xFFFFFFFF it sticks (Table 20.1), where the statement lets it
wrap. -/
theorem not_almanac : ¬ Obligations.Almanac := by
  unfold Obligations.Almanac
  rintro ⟨-, -, -, -, -, -, -, -, -, -, -, -, -, -, -, hpot, -⟩
  obtain ⟨halm, -⟩ := of_completes Mach.potAdvance rfl (hpot potAtEnd rfl)
  exact absurd (potAtEnd_sticks.symm.trans (congrArg Alm.pot halm)) (by decide)

/-! ### The end of a handover that took too long -/

/-- A takeover of volume 1 whose mailbox was reset meanwhile. -/
def aloneTakeover : TwinWait := { port := .p0, op := 4, vol := 1, fence := 1, arg := 0, was := .inSync, alone := true }

/-- Volume 1 is in HANDOVER, and that takeover waits. -/
def aloneHandover : State := { m := { vol := { v := [(1, { twin := .handover })] }, twn := { wait := [aloneTakeover] } } }

/-- The takeover ends and nobody is answered. -/
theorem aloneHandover_silent : (aloneHandover.m.handoverOver 1).ctlRun.mailRun.out = [] := by decide +kernel

/-- Refutes O42: in its clause on the handover timeout the mailbox of the takeover answers TWIN_UNAVAILABLE. But where that mailbox was reset
meanwhile, by a reset of its port, nobody is answered (R71, R394). -/
theorem not_twinControl : ¬ Obligations.TwinControl := by
  unfold Obligations.TwinControl
  rintro ⟨-, -, -, -, -, -, -, -, -, -, -, -, -, -, -, -, htimeout, -⟩
  obtain ⟨-, hreplies, -⟩ := of_completes (fun m => (m.handoverOver 1).ctlRun.mailRun) rfl
    (htimeout aloneHandover 1 aloneTakeover (by decide +kernel) (by decide +kernel) rfl rfl rfl ⟨rfl, rfl, rfl⟩)
  exact absurd (aloneHandover_silent.symm.trans hreplies) (by simp [aloneHandover])

end Sys2Proof.Machine

/-! The commands of the twin pair (O38): the mailbox takes each up, and a gated one has its effect on a volume for which none waits. -/

namespace Sys2Proof.Machine

-- One proof at a time: proofs that wait for each other would each hold a thread and its stack.
set_option Elab.async false

/-- PAIR, taken up by the mailbox, has its effect (R382). -/
theorem completes_pair {s : State} {p : Port} {n : BitVec 160} {P : Mach → Prop} (hs : s.m.Serves p) (hP : P (s.m.pair p n)) :
    Completes (.pair p 40 n) s P :=
  completes_eq _ rfl (mail_open _ _ _ _ _ _ _ hs.up rfl (.inr (serves_ungated hs))) hP

/-- A gated operation, taken up by the mailbox, has its effect on a volume for which none waits (R393). -/
theorem completes_twinOp {s : State} {c i : Instr} {p : Port} {l : Nat} {v : Vid} {P : Mach → Prop} (f : Mach → Mach)
    (hx : exec c s = s.on (Mach.mail i p l l false (Mach.twinOp p v f))) (hs : s.m.Serves p) (hfree : s.m.twinBusy v = false) (hP : P (f s.m)) :
    Completes c s P :=
  completes_eq _ hx ((mail_open _ _ _ _ _ _ _ hs.up rfl (.inr (serves_ungated hs))).trans (twinOp_open _ _ _ _ hfree)) hP

/-- A gated operation is refused on a volume for which one waits (R393). -/
theorem completes_twinBusy {s : State} {c i : Instr} {p : Port} {l : Nat} {v : Vid} (f : Mach → Mach)
    (hx : exec c s = s.on (Mach.mail i p l l false (Mach.twinOp p v f))) (hs : s.m.Serves p) (hbusy : s.m.twinBusy v = true) :
    Completes c s fun t => s.m.Replies p St.backgroundBusy [] t ∧ s.m.SameBut [.out] t :=
  completes_eq _ hx ((mail_open _ _ _ _ _ _ _ hs.up rfl (.inr (serves_ungated hs))).trans (if_pos hbusy)) (replies_no ..)

/-- A gated operation that its own conditions refuse answers with the status of the first (R393, R394). -/
theorem completes_twinRefusal {s : State} {c i : Instr} {p : Port} {l st : Nat} {v : Vid} (f : Mach → Mach)
    (hx : exec c s = s.on (Mach.mail i p l l false (Mach.twinOp p v f))) (hs : s.m.Serves p) (hfree : s.m.twinBusy v = false)
    (hf : f s.m = s.m.refuse p st) : Completes c s fun t => s.m.Replies p st [] t ∧ s.m.SameBut [.out] t :=
  completes_twinOp f hx hs hfree (by rw [hf]; exact replies_no ..)

/-! ### The branches of the commands -/

variable {m : Mach} {p : Port} {v : Vid}

theorem partnerLost_absent (h : m.twn.present = false) : m.partnerLost = m := by
  unfold Mach.partnerLost
  simp [h]

/-- PAIR with the partner absent, or with no volume mirrored, of the serial that is expected already or of any while no partner is
present. -/
theorem pair_sets {n : BitVec 160} (hfree : m.partnerPresent = false ∨ ∀ v, (m.volu v).mirrored = false)
    (hn : n = m.twn.expected ∨ m.twn.present = false) : m.pair p n =
      (m.updTwn fun t => { t with expected := n, paired := n != 0, mismatch := false }).askDefinition (.mbox p 0xC050) := by
  have hopen : (m.partnerPresent && (List.finRange 64).any fun v => (m.volu v).mirrored) = false := by
    obtain h | h := hfree <;> simp [h]
  have hkeep : (if n != m.twn.expected then m.partnerLost else m) = m := by
    obtain rfl | h := hn
    · simp
    · simp [partnerLost_absent h]
  unfold Mach.pair
  rw [hopen, if_neg (by simp), hkeep]

theorem pair_refused {n : BitVec 160} (hp : m.partnerPresent = true) (hv : (m.volu v).mirrored = true) :
    m.pair p n = m.refuse p St.invalidField := by
  unfold Mach.pair
  rw [if_pos (by simp only [hp, Bool.true_and, List.any_eq_true]; exact ⟨v, List.mem_finRange v, hv⟩)]

theorem mirrorCmd_sends {k : Nat} (hst : (m.volu v).st = .ready) (hm : (m.volu v).mirrored = false) (hpair : m.twn.paired = true)
    (hp : m.partnerPresent = true) : m.mirrorCmd p v k =
      (m.twnAwait { port := p, op := 1, vol := v, fence := 0, arg := k, was := (m.volu v).twin }).twnCtrl 2 v k (m.volu v).fence 0
        (m.volu v).size (layoutBits (m.volu v).layout1 (m.volu v).enc) := by
  simp [Mach.mirrorCmd, hst, hm, hpair, hp]

theorem mirrorCmd_refused {k : Nat} (h : (m.volu v).st ≠ .ready ∨ (m.volu v).mirrored = true) :
    m.mirrorCmd p v k = m.refuse p St.invalidField := by
  unfold Mach.mirrorCmd
  exact if_pos (by simpa using h)

theorem unmirrorCmd_sends (hm : (m.volu v).mirrored = true) (ho : (m.volu v).owner = true) (hl : v ∉ m.twn.lone)
    (hp : m.partnerPresent = true) : m.unmirrorCmd p v =
      (m.twnAwait { port := p, op := 2, vol := v, fence := 0, arg := 0, was := (m.volu v).twin }).twnCtrl 9 v 0 (m.volu v).fence 0 0 0 := by
  simp [Mach.unmirrorCmd, hm, ho, hl, hp]

theorem unmirrorCmd_alone (hm : (m.volu v).mirrored = true) (hl : v ∈ m.twn.lone) (hs : (m.volu v).twin = .stale) : m.unmirrorCmd p v =
    ((m.updTwn fun t => { t with lone := t.lone.filter (· != v) }).setVol v (m.volu v).unmirrored).askDefinition (.mbox p 0xC050) := by
  simp [Mach.unmirrorCmd, hm, hl, hs]

theorem unmirrorCmd_invalid (hm : (m.volu v).mirrored = false) : m.unmirrorCmd p v = m.refuse p St.invalidField := by
  simp [Mach.unmirrorCmd, hm]

theorem unmirrorCmd_notOwner (hm : (m.volu v).mirrored = true) (ho : (m.volu v).owner = false) (hs : (m.volu v).twin ≠ .stale) :
    m.unmirrorCmd p v = m.refuse p St.notOwner := by
  simp [Mach.unmirrorCmd, hm, ho, hs]

theorem demoteCmd_pends {e : Nat} (hm : (m.volu v).mirrored = true) (ho : (m.volu v).owner = true) (he : (m.volu v).fence < e) :
    m.demoteCmd p v e =
      (m.twnAwait { port := p, op := 3, vol := v, fence := e, arg := 0, was := (m.volu v).twin }).pendEpoch v e false .stale := by
  simp [Mach.demoteCmd, hm, ho, he]

theorem demoteCmd_invalid {e : Nat} (h : (m.volu v).mirrored = false ∨ e ≤ (m.volu v).fence) :
    m.demoteCmd p v e = m.refuse p St.invalidField := by
  unfold Mach.demoteCmd
  exact if_pos (by simpa using h)

theorem demoteCmd_notOwner {e : Nat} (hm : (m.volu v).mirrored = true) (ho : (m.volu v).owner = false) (he : (m.volu v).fence < e) :
    m.demoteCmd p v e = m.refuse p St.notOwner := by
  simp [Mach.demoteCmd, hm, ho, he]

theorem takeover_invalid {f : Bool} {e : Nat} (h : (m.volu v).mirrored = false ∨ e ≤ (m.volu v).fence) :
    m.takeover p v f e = m.refuse p St.invalidField := by
  unfold Mach.takeover
  exact if_pos (by simpa using h)

theorem takeover_unavailable {e : Nat} (hm : (m.volu v).mirrored = true) (he : (m.volu v).fence < e)
    (hs : (m.volu v).twin = .resyncing ∨ (m.volu v).twin = .stale) : m.takeover p v false e = m.refuse p St.twinUnavailable := by
  unfold Mach.takeover
  rw [if_neg (by simp [hm, he]), if_pos (by simpa using hs)]

/-- What keeps a takeover from a volume that is RESYNCING or STALE is FORCE 0 alone (R394). -/
theorem takeover_may {f : Bool} (hf : f = true ∨ ((m.volu v).twin ≠ .resyncing ∧ (m.volu v).twin ≠ .stale)) :
    (((m.volu v).twin == .resyncing || (m.volu v).twin == .stale) && !f) = false := by
  obtain rfl | ⟨hr, hs⟩ := hf
  · simp
  · simp [hr, hs]

theorem takeover_hands {f : Bool} {e : Nat} (hm : (m.volu v).mirrored = true) (he : (m.volu v).fence < e)
    (hf : f = true ∨ ((m.volu v).twin ≠ .resyncing ∧ (m.volu v).twin ≠ .stale)) (hp : m.partnerPresent = true) : m.takeover p v f e =
      ((m.twnAwait { port := p, op := 4, vol := v, fence := e, arg := 0, was := (m.volu v).twin }).setVol v
        { m.volu v with twin := .handover }).twnCtrl 4 v 0 e 0 0 0 := by
  unfold Mach.takeover
  rw [if_neg (by simp [hm, he]), takeover_may hf]
  exact if_pos hp

theorem takeover_alone {f : Bool} {e : Nat} (hm : (m.volu v).mirrored = true) (he : (m.volu v).fence < e)
    (hf : f = true ∨ ((m.volu v).twin ≠ .resyncing ∧ (m.volu v).twin ≠ .stale)) (hp : m.partnerPresent = false) : m.takeover p v f e =
      (m.twnAwait { port := p, op := 4, vol := v, fence := e, arg := 0, was := (m.volu v).twin }).pendEpoch v e true .lost := by
  unfold Mach.takeover
  rw [if_neg (by simp [hm, he]), takeover_may hf]
  exact if_neg (Bool.eq_false_iff.mp hp)

/-- Settles O38: the mailbox takes each command up, and each of its branches has one equation. The order of the refusals and the pending of an
epoch are the model's (log entries 64, 138 and 143). -/
theorem twinCommands : Obligations.TwinCommands := by
  refine ⟨?pairs, ?pairMirrored, ?mirror, ?mirrorRefused, ?unmirror, ?unmirrorAlone, ?demote, ?takeoverAlone, ?takeover, ?invalid, ?notOwner,
    ?unavailable, ?busy⟩
  case pairs =>
    intro s p n hs hfree hn
    have ha := asks (s.m.updTwn fun t => { t with expected := n, paired := n != 0, mismatch := false }) (.mbox p 0xC050)
    refine completes_pair hs ?_
    rw [pair_sets hfree hn]
    refine ⟨same_twn ha.2 (by simp), ha.1, same_trans (b := s.m.updTwn _) (by simp [Mach.SameBut]) (same_mono ha.2 (by simp))⟩
  case pairMirrored =>
    intro s p v n hs hp hv
    refine completes_pair hs ?_
    rw [pair_refused hp hv]
    exact replies_no ..
  case mirror =>
    intro s p v k hs hfree htwin hctrl hpair hst hm
    refine completes_twinOp _ rfl hs hfree ?_
    rw [mirrorCmd_sends hst hm hpair htwin.present]
    exact ctrl_sends _ _ _ _ _ _ _ _ (free_await htwin _) ⟨hctrl.fw, hctrl.fifo⟩
  case mirrorRefused => exact fun s p v k hs hfree h => completes_twinRefusal _ rfl hs hfree (mirrorCmd_refused h)
  case unmirror =>
    intro s p v hs hfree htwin hctrl hm ho hl
    refine completes_twinOp _ rfl hs hfree ?_
    rw [unmirrorCmd_sends hm ho hl htwin.present]
    exact ctrl_sends _ _ _ _ _ _ _ _ (free_await htwin _) ⟨hctrl.fw, hctrl.fifo⟩
  case unmirrorAlone =>
    intro s p v hs hfree hm hl hst
    let u := (s.m.updTwn fun t => { t with lone := t.lone.filter (· != v) }).setVol v (s.m.volu v).unmirrored
    have ha := asks u (.mbox p 0xC050)
    have hvol := volu_of (same_vol ha.2 (by simp))
    refine completes_twinOp _ rfl hs hfree ?_
    rw [unmirrorCmd_alone hm hl hst]
    refine ⟨?_, fun w hw => ?_, same_twn ha.2 (by simp), ha.1, same_trans (b := u) (by simp [u, Mach.SameBut]) (same_mono ha.2 (by simp))⟩
    · rw [hvol, Mach.volu_setVol_same]
    · rw [hvol, Mach.volu_setVol_ne _ _ _ _ hw]
      rfl
  case demote =>
    intro s p v e hs hfree hm ho he
    refine completes_twinOp _ rfl hs hfree ?_
    rw [demoteCmd_pends hm ho he]
    exact pend_await ..
  case takeoverAlone =>
    intro s p v f e hs hfree hm he hf hp
    refine completes_twinOp _ rfl hs hfree ?_
    rw [takeover_alone hm he hf hp]
    exact pend_await ..
  case takeover =>
    intro s p v f e hs hfree hm he hf htwin hctrl
    refine completes_twinOp _ rfl hs hfree ?_
    rw [takeover_hands hm he hf htwin.present]
    exact ctrl_sends _ _ _ _ _ _ _ _ ⟨htwin.present, htwin.window, htwin.waiting, htwin.order⟩ ⟨hctrl.fw, hctrl.fifo⟩
  case invalid =>
    rintro s p v f e c hs hfree (⟨rfl, hm⟩ | ⟨rfl | rfl, h⟩)
    · exact completes_twinRefusal _ rfl hs hfree (unmirrorCmd_invalid hm)
    · exact completes_twinRefusal _ rfl hs hfree (demoteCmd_invalid h)
    · exact completes_twinRefusal _ rfl hs hfree (takeover_invalid h)
  case notOwner =>
    rintro s p v e c hs hfree hm ho hst (rfl | ⟨rfl, he⟩)
    · exact completes_twinRefusal _ rfl hs hfree (unmirrorCmd_notOwner hm ho hst)
    · exact completes_twinRefusal _ rfl hs hfree (demoteCmd_notOwner hm ho he)
  case unavailable => exact fun s p v e hs hfree hm he hst => completes_twinRefusal _ rfl hs hfree (takeover_unavailable hm he hst)
  case busy =>
    rintro s p v k e f c hs hbusy (rfl | rfl | rfl | rfl)
    · exact completes_twinBusy _ rfl hs hbusy
    · exact completes_twinBusy _ rfl hs hbusy
    · exact completes_twinBusy _ rfl hs hbusy
    · exact completes_twinBusy _ rfl hs hbusy

end Sys2Proof.Machine

/-! The owner's side of a transfer (O41): what the sending of frames leaves alone, the answers to a DURABLE, the DURABLE interval, and one piece
of the walk whose LBs are all unmapped. -/

namespace Sys2Proof.Machine

-- One proof at a time: proofs that wait for each other would each hold a thread and its stack.
set_option Elab.async false

/-! ### What the sending of frames leaves alone -/

/-- From a to b frames have been sent, or have come to wait: nothing else has changed but counters, PFF3 and the link's own places for
frames. -/
structure Mach.Sending (a b : Mach) : Prop where
  same : Mach.SameBut [.pff, .twn, .reg, .out] a b
  twn : b.twn =
    { a.twn with
      txSeq := b.twn.txSeq, unacked := b.twn.unacked, peak := b.twn.peak, waiting := b.twn.waiting, order := b.twn.order
      ctlOut := b.twn.ctlOut }

namespace Mach.Sending

variable {a m u : Mach}

theorem refl (a : Mach) : a.Sending a := ⟨same_refl .., rfl⟩

theorem trans (h : a.Sending m) (g : m.Sending u) : a.Sending u where
  same := same_trans h.same g.same
  twn := by
    have hg := g.twn
    rw [h.twn] at hg
    exact hg

/-- A step of the link's own places for frames. -/
theorem places (h : a.Sending m) (f : Twin → Twin)
    (hf : f m.twn = { m.twn with
      txSeq := (f m.twn).txSeq, unacked := (f m.twn).unacked, peak := (f m.twn).peak, waiting := (f m.twn).waiting
      order := (f m.twn).order, ctlOut := (f m.twn).ctlOut } := by rfl) : a.Sending (m.updTwn f) :=
  h.trans ⟨by simp [Mach.SameBut], hf⟩

theorem other {ps : List Part} (h : a.Sending m) (g : Mach.SameBut ps m u)
    (hps : ∀ p ∈ ps, p ∈ ([.pff, .reg, .out] : List Part) := by decide) : a.Sending u :=
  h.trans ⟨same_mono g fun p hp => by have := hps p hp; simp at this; rcases this with rfl | rfl | rfl <;> simp,
    by rw [same_twn g fun hp => by simpa using hps _ hp]⟩

theorem ite {c : Prop} [Decidable c] (hm : a.Sending m) (hu : a.Sending u) : a.Sending (if c then m else u) := by
  split
  · exact hm
  · exact hu

theorem each {α : Type} (h : a.Sending m) (l : List α) (f : α → Mach → Mach) (hf : ∀ x {m}, a.Sending m → a.Sending (f x m)) :
    a.Sending (m.each l f) := by
  unfold Mach.each
  induction l generalizing m with
  | nil => exact h
  | cons x l ih => exact ih (hf x h)

theorem twnPut (h : a.Sending m) (f : Frame) : a.Sending (m.twnPut f) := by
  have hs := twnPut_sends m f
  exact h.trans ⟨same_mono hs.same (by simp), by rw [hs.twn]⟩

theorem twnGo (h : a.Sending m) (f : Frame) : a.Sending (m.twnGo f) := ite (h.twnPut f) (h.places _)

theorem twnNext (h : a.Sending m) (n : Nat) : a.Sending (m.twnNext n) := by
  induction n generalizing m with
  | zero => exact h
  | succ n ih =>
    unfold Mach.twnNext
    split
    · exact h
    · rename_i o os _
      have hg : a.Sending (m.each o.held Mach.twnGo) := h.each _ _ fun f _ h => h.twnGo f
      exact ite (ih (hg.places _)) (hg.places _)

theorem twnQueue (h : a.Sending m) (x : TxOpen) : a.Sending (m.twnQueue x) := ite h ((h.places _).twnNext _)

theorem twnFeed (h : a.Sending m) (x : Nat) (f : TxOpen → TxOpen) : a.Sending (m.twnFeed x f) := (h.places _).twnNext _

theorem twnCtl (h : a.Sending m) (ws : List Nat) : a.Sending (m.twnCtl ws) :=
  ite (twnQueue (h.other (ps := [.pff]) (by simp [Mach.SameBut, Mach.fifoPass])) _) (h.places _)

theorem twnWack (h : a.Sending m) (xid : Nat) (v : Vid) (status : Nat) : a.Sending (m.twnWack xid v status) := h.twnQueue _

theorem sendVolstate (h : a.Sending m) (v : Vid) : a.Sending (m.sendVolstate v) := h.twnCtl _

theorem rs (h : a.Sending m) (v : Vid) : m.rs v = a.rs v := by
  unfold Mach.rs
  rw [h.twn]

end Mach.Sending

/-! ### The walk's check and the handover's, where nothing is to be done -/

section
variable {m : Mach} {v : Vid}

theorem rs_setRs_same (m : Mach) (v : Vid) (x : Resync) : (m.setRs v x).rs v = x := by simp [Mach.rs, Mach.setRs, Mach.updTwn]

/-- No region waits for its answers, and the volume is not RESYNCING or has a region to go: the check changes nothing that can be seen. -/
theorem resyncCheck_idle (hw : (m.rs v).walked = []) (hd : (m.volu v).twin ≠ .resyncing ∨ (m.volu v).dirty ≠ []) :
    m.resyncCheck v = (m.setRs v (m.rs v)).setVol v (m.volu v) := by
  have hrs : ({ next := (m.rs v).next, walked := [], bad := (m.rs v).bad, data := (m.rs v).data } : Resync) = m.rs v := by rw [← hw]
  have hgo (u : Mach) : ¬((u.mirroring v && (m.volu v).twin == .resyncing && (m.volu v).dirty.isEmpty) = true) := by
    obtain h | h := hd <;> simp [h]
  have hvol : (m.setRs v (m.rs v)).volu v = m.volu v := rfl
  unfold Mach.resyncCheck
  simp only [hw, List.filter_nil, List.contains_nil, Bool.not_false, List.filter_true, hrs, hvol, Mach.volu_setVol_same]
  exact if_neg (hgo _)

theorem takeAckCheck_idle (h : (m.volu v).twin ≠ .handover) : m.takeAckCheck v = m := by
  unfold Mach.takeAckCheck
  simp [h]

theorem volu_setVol_self (m : Mach) (v w : Vid) : (m.setVol v (m.volu v)).volu w = m.volu w := by
  by_cases hw : w = v
  · subst hw
    exact Mach.volu_setVol_same ..
  · exact Mach.volu_setVol_ne _ _ _ _ hw

/-! ### The answer to a DURABLE -/

/-- What the acceptance of a frame leaves of what its meaning looks at. -/
theorem accepts_settled {a u : Mach} {h : FrameHdr} (ha : a.Accepts h u) (hr : a.twn.rxWait = []) (hc : ∀ i, (a.cmd i).covering = false) :
    u.Settled :=
  ⟨by rw [ha.twn]; exact hr, fun j => by rw [cmd_of_q (same_q ha.same (by simp))]; exact hc j⟩

theorem accepts_volu {a u : Mach} {h : FrameHdr} (ha : a.Accepts h u) (w : Vid) : u.volu w = a.volu w := volu_of (same_vol ha.same (by simp)) w

/-- An answer to a transfer that is not open has no meaning. -/
theorem wackIn_stray {x : Nat} (status epoch : Nat) (h : ∀ e ∈ m.twn.tx, e.1 ≠ x) : m.wackIn x status epoch = m := by
  have hnone : m.twn.tx.find? (fun e => e.1 == x) = none := List.find?_eq_none.mpr fun e he => by simpa using h e he
  unfold Mach.wackIn
  rw [hnone]

/-- An answer to the only open transfer, a DURABLE, whose EPOCH is not above E. -/
theorem wackIn_durable {x epoch : Nat} {rs : List Nat} (status : Nat) (htx : m.twn.tx = [(x, .durable v rs)])
    (he : ∀ u : Mach, u = (m.updTwn fun t => { t with tx := [] }).txAnswered (.durable v rs) x status → ¬ (u.volu v).fence < epoch) :
    m.wackIn x status epoch =
      ((((m.updTwn fun t => { t with tx := [] }).txAnswered (.durable v rs) x status).settleCovers.resyncCheck v).takeAckCheck v) := by
  have hdel : (m.updTwn fun t => { t with tx := SMap.del t.tx x }) = m.updTwn fun t => { t with tx := [] } := by
    simp [Mach.updTwn, htx, SMap.del]
  unfold Mach.wackIn
  rw [htx, List.find?_cons_of_pos (by simp)]
  simp only [hdel, Mach.txVol]
  rw [if_neg (by simpa using fun _ => he _ rfl)]

/-- Regions that no walk has been over become dirty, and an owner that was IN_SYNC is RESYNCING and says so (R387). -/
theorem refusedRegions_fresh {rs : List Nat} (hrs : m.rs v = {}) (hs : (m.volu v).twin = .inSync) (ho : (m.volu v).owner = true) :
    m.refusedRegions v rs = ((((m.markDirty v rs).setRs v {}).setVol v
      { m.volu v with dirty := unionNat rs (m.volu v).dirty, twin := .resyncing }).sendVolstate v) := by
  have hvol : (m.markDirty v rs).volu v = { m.volu v with dirty := unionNat rs (m.volu v).dirty } := Mach.volu_setVol_same ..
  have hset (x : Resync) : ((m.markDirty v rs).setRs v x).volu v = (m.markDirty v rs).volu v := rfl
  have hwalk : (m.markDirty v rs).rs v = {} := hrs
  have hagain : (rs.filter fun r => decide (0 / 32 = r ∧ 0 % 32 ≠ 0)) = [] := by simp
  unfold Mach.refusedRegions
  simp only [hwalk, hset, hvol, hs, ho, List.contains_nil, Bool.false_or, hagain]
  rfl

theorem insertNat_keeps {y : Nat} (x : Nat) {l : List Nat} (h : y = x ∨ y ∈ l) : y ∈ insertNat x l := by
  induction l with
  | nil => simpa [insertNat] using h
  | cons z l ih =>
    unfold insertNat
    split
    · simpa using h
    · split
      · next hxz => simpa [hxz] using h
      · rcases h with h | h
        · exact List.mem_cons_of_mem _ (ih (.inl h))
        · rcases List.mem_cons.mp h with rfl | h
          · exact List.mem_cons_self
          · exact List.mem_cons_of_mem _ (ih (.inr h))

theorem unionNat_keeps {y : Nat} {a b : List Nat} (h : y ∈ a ∨ y ∈ b) : y ∈ unionNat a b := by
  unfold unionNat
  induction a generalizing b with
  | nil => simpa using h
  | cons x a ih =>
    rw [List.foldl_cons]
    rcases h with h | h
    · rcases List.mem_cons.mp h with rfl | h
      · exact ih (.inr (insertNat_keeps _ (.inl rfl)))
      · exact ih (.inl h)
    · exact ih (.inr (insertNat_keeps _ (.inr h)))

/-- What a refused DURABLE of an owner that was IN_SYNC leaves. -/
theorem refusedRegions_facts {rs : List Nat} (hrs : m.rs v = {}) (hs : (m.volu v).twin = .inSync) (ho : (m.volu v).owner = true) :
    (m.refusedRegions v rs).volu v = { m.volu v with dirty := unionNat rs (m.volu v).dirty, twin := .resyncing } ∧
    (∀ w, w ≠ v → (m.refusedRegions v rs).volu w = m.volu w) ∧ (m.refusedRegions v rs).rs v = {} ∧
    (m.refusedRegions v rs).twn.tx = m.twn.tx ∧ (m.refusedRegions v rs).twn.rxWait = m.twn.rxWait ∧ (m.refusedRegions v rs).q = m.q := by
  rw [refusedRegions_fresh hrs hs ho]
  generalize hb : ((m.markDirty v rs).setRs v {}).setVol v { m.volu v with dirty := unionNat rs (m.volu v).dirty, twin := .resyncing } = b
  have hsend := (Mach.Sending.refl b).sendVolstate v
  have hvol := volu_of (same_vol hsend.same (by simp))
  have hq : (b.sendVolstate v).q = b.q := same_q hsend.same (by simp)
  refine ⟨?_, fun w hw => ?_, ?_, ?_, ?_, ?_⟩
  · rw [hvol, ← hb, Mach.volu_setVol_same]
  · rw [hvol, ← hb, Mach.volu_setVol_ne _ _ _ _ hw]
    exact Mach.volu_setVol_ne _ _ _ _ hw
  · rw [hsend.rs, ← hb]
    exact rs_setRs_same (m.markDirty v rs) v {}
  · rw [hsend.twn, ← hb]
    rfl
  · rw [hsend.twn, ← hb]
    rfl
  · rw [hq, ← hb]
    rfl

/-! ### The DURABLE interval -/

/-- The volumes that satisfy a predicate which one alone satisfies. -/
theorem filter_only {p : Vid → Bool} (hv : p v = true) (ho : ∀ u, u ≠ v → p u = false) : (List.finRange 64).filter p = [v] := by
  have hp : p = (· == v) := by
    funext u
    by_cases hu : u = v
    · simp [hu, hv]
    · simp [hu, ho u hu]
  rw [hp, List.filter_beq, List.count_eq_one_of_mem (List.nodup_finRange 64) (List.mem_finRange v)]
  rfl

/-- One DURABLE covers the unconfirmed regions of the volume (R386, R389). -/
theorem sendDurable_sends (hf : m.TwinFree) : ∃ a, a = { m with
      vol := (m.setVol v { m.volu v with unconf := [] }).vol
      twn := { m.twn with nextXid := (m.twn.nextXid + 1) % 65536, tx := SMap.put m.twn.tx m.twn.nextXid (.durable v (m.volu v).unconf) } } ∧
    a.SendsFrame (txFrame 0x14 0 m.twn.nextXid 0 [v.val] 0) (m.sendDurable (fun rs => .durable v rs) v).1 :=
  ⟨_, rfl, twnSend_sends _ _ _ _ _ _ _ ⟨hf.present, hf.window, hf.waiting, hf.order⟩⟩

/-! ### A piece of the walk -/

/-- What the reading of an LB for a piece looks at. -/
theorem storedSrc_congr {a b : Mach} (hbuf : b.buf = a.buf) (hvol : ∀ w, b.volu w = a.volu w) (hrest : b.vol = { a.vol with v := b.vol.v })
    (w : Vid) (lba : Nat) : b.storedSrc w lba = a.storedSrc w lba := by
  have hmap : b.vol.map = a.vol.map := by rw [hrest]
  have hinst : b.vol.inst = a.vol.inst := by rw [hrest]
  have hwait : b.vol.waiting = a.vol.waiting := by rw [hrest]
  have hrec : b.vol.recov = a.vol.recov := by rw [hrest]
  have hver : b.verOf w lba = a.verOf w lba := by
    unfold Mach.verOf Mach.versAt Mach.superseded Mach.installed
    rw [hbuf, hvol, hinst, hwait]
  have hsrc : b.mapSrc w lba = a.mapSrc w lba := by
    unfold Mach.mapSrc Mach.recovering Mach.entry
    rw [hvol, hmap, hrec]
  unfold Mach.storedSrc
  rw [hver, hsrc]

/-- LBs of a piece that are unmapped are read at once, and nothing is sought for them (R392). -/
theorem pieceReads_zero {a u : Mach} {s : Nat} (l : List Nat) (hu : Mach.SameBut [.q] a u) (hused : u.q.used = a.q.used)
    (hz : ∀ off ∈ l, a.storedSrc (entVol (u.cmd s).entry) (entSlba (u.cmd s).entry + off) = .zero) :
    ∃ w, u.each l (fun off m => m.pieceRead s off) = w ∧ Mach.SameBut [.q] a w ∧ w.q.used = a.q.used ∧
      w.cmd s = { u.cmd s with todo := (u.cmd s).todo.filter fun off => !l.contains off } := by
  induction l generalizing u with
  | nil => exact ⟨u, rfl, hu, hused, by simp⟩
  | cons off l ih =>
    have hread : u.pieceRead s off = u.setCmd s { u.cmd s with todo := (u.cmd s).todo.filter (· != off) } := by
      unfold Mach.pieceRead
      simp only [storedSrc_of (same_buf hu (by simp)) (same_vol hu (by simp)), hz off List.mem_cons_self]
    have hcmd := Mach.cmd_setCmd_same u s { u.cmd s with todo := (u.cmd s).todo.filter (· != off) }
    obtain ⟨w, hw, hsame, hwused, hwcmd⟩ := ih (u := u.setCmd s { u.cmd s with todo := (u.cmd s).todo.filter (· != off) })
      (same_trans hu (by simp [Mach.SameBut])) hused fun o ho => by
        rw [hcmd]
        exact hz o (List.mem_cons_of_mem _ ho)
    refine ⟨w, by rw [each_cons, hread]; exact hw, hsame, hwused, ?_⟩
    rw [hwcmd, hcmd, List.filter_filter]
    refine congrArg (fun todo => ({ u.cmd s with todo := todo } : Cmd)) (List.filter_congr fun o _ => ?_)
    by_cases ho : o = off <;> simp [ho]

/-- From a to b no slot has become free and no walk has moved. -/
structure Mach.Onward (a b : Mach) : Prop where
  used : b.q.used = a.q.used
  rs : b.twn.rs = a.twn.rs

namespace Mach.Onward

variable {a m u : Mach}

theorem refl (a : Mach) : a.Onward a := ⟨rfl, rfl⟩

/-- A step of which computing shows it. -/
theorem parts (h : a.Onward m) (hused : u.q.used = m.q.used := by rfl) (hrs : u.twn.rs = m.twn.rs := by rfl) : a.Onward u :=
  ⟨hused.trans h.used, hrs.trans h.rs⟩

theorem same {ps : List Part} (h : a.Onward m) (g : Mach.SameBut ps m u) (hps : Part.q ∉ ps ∧ Part.twn ∉ ps := by decide) : a.Onward u :=
  h.parts (by rw [same_q g hps.1]) (by rw [same_twn g hps.2])

theorem sending (h : a.Onward m) (g : m.Sending u) : a.Onward u := h.parts (by rw [same_q g.same (by simp)]) (by rw [g.twn])

theorem ite {c : Prop} [Decidable c] (hm : a.Onward m) (hu : a.Onward u) : a.Onward (if c then m else u) := by
  split
  · exact hm
  · exact hu

theorem each {α : Type} (h : a.Onward m) (l : List α) (f : α → Mach → Mach) (hf : ∀ x {m}, a.Onward m → a.Onward (f x m)) :
    a.Onward (m.each l f) := by
  unfold Mach.each
  induction l generalizing m with
  | nil => exact h
  | cons x l ih => exact ih (hf x h)

theorem touch (h : a.Onward m) (p : Page) : a.Onward (m.touch p) := h.same (ps := [.reg]) (by simp [Mach.SameBut])

theorem twnQueue (h : a.Onward m) (x : TxOpen) : a.Onward (m.twnQueue x) := h.sending ((Mach.Sending.refl m).twnQueue x)

theorem twnFeed (h : a.Onward m) (x : Nat) (f : TxOpen → TxOpen) : a.Onward (m.twnFeed x f) := h.sending ((Mach.Sending.refl m).twnFeed x f)

theorem sendHole (h : a.Onward m) (v : Vid) (slba mu : Nat) : a.Onward (m.sendHole v slba mu) := twnQueue h.parts _

theorem sendRun (h : a.Onward m) (v : Vid) (slba : Nat) (data : SMap Block) (run : Nat × Nat) : a.Onward (m.sendRun v slba data run) := by
  have hbegin : a.Onward ((m.twnXid (.resync v (slba / 16384))).1.twnBegin 0x10 2 (m.twnXid (.resync v (slba / 16384))).2 run.2
      (beginWords v ((m.twnXid (.resync v (slba / 16384))).1.volu v).fence (slba + run.1) (run.2 - 1))) := twnQueue h.parts _
  exact hbegin.each _ _ fun k _ h => h.twnFeed _ _

theorem twinOpen (h : a.Onward m) (s : Nat) : a.Onward (m.twinOpen s) := by
  unfold Mach.twinOpen Mach.twnXid Mach.twnBegin
  dsimp only
  exact ite (h.parts.twnQueue _) h

theorem raiseTo (h : a.Onward m) (k n top : Nat) : a.Onward (m.raiseTo k n top) := h.same (ps := [.reg]) (by simp [Mach.SameBut])

theorem observe (h : a.Onward m) (q : Nat) (b : Option Nat) (v : Int) : a.Onward (m.observe q b v) := h.same (recorded_observe ..).same

theorem draw (h : a.Onward m) : a.Onward m.draw := h.parts
theorem setCmd (h : a.Onward m) (s : Nat) (c : Cmd) : a.Onward (m.setCmd s c) := h.parts

theorem admitWaiter (h : a.Onward m) (s : Nat) : a.Onward (m.admitWaiter s) :=
  (((h.draw.raiseTo ..).observe ..).setCmd ..).twinOpen s

theorem release (h : a.Onward m) (s : Nat) : a.Onward (m.release s) := by
  refine ite h ((touch h.parts _).each _ _ fun t m h => ?_)
  exact ite (ite ((h.setCmd ..).admitWaiter t) (h.setCmd ..)) h

theorem twnForget (h : a.Onward m) (s : Nat) : a.Onward (m.twnForget s) := by
  unfold Mach.twnForget
  exact (h.each _ _ fun x _ h => h.twnFeed x _).parts

end Mach.Onward

/-- A slot that is freed leaves the table, and no walk moves. -/
theorem freeSlot_facts (m : Mach) (s : Nat) : (m.freeSlot s).q.used = m.q.used.filter (· != s) ∧ (m.freeSlot s).twn.rs = m.twn.rs := by
  have hf := (Mach.Onward.refl m).twnForget s
  unfold Mach.freeSlot
  refine ⟨?_, ?_⟩
  · rw [same_q (touch_same .qct _) (by simp)]
    exact congrArg (List.filter (· != s)) hf.used
  · rw [same_twn (touch_same .qct _) (by simp)]
    exact hf.rs

/-- The walk's step at a piece that is under way (R392). -/
theorem resyncStep_runs {u : Mach} {i : Nat} {r : List Nat} (hu : m.resyncCheck v = u)
    (hgo : (u.mirroring v && (u.volu v).twin == .resyncing && (u.volu v).serves) = true) (hp : u.pieceSlots v = i :: r) :
    m.resyncStep v = u.pieceRun i := by
  unfold Mach.resyncStep
  rw [hu]
  dsimp only
  rw [hgo, if_neg (by simp), hp]

/-- A volume that is not mirrored has no walk (R392). -/
theorem resyncStep_none (hm : (m.volu v).mirrored = false) :
    ∃ x l, m.resyncStep v = (m.setRs v x).setVol v { m.volu v with dirty := l } := by
  have hmir (u : Mach) (l : List Nat) : (u.setVol v { m.volu v with dirty := l }).mirroring v = false := by simp [Mach.mirroring, hm]
  have hcheck : ∃ x l, m.resyncCheck v = (m.setRs v x).setVol v { m.volu v with dirty := l } := by
    unfold Mach.resyncCheck
    extract_lets x gone clean m₁ y m₂
    refine ⟨_, _, if_neg ?_⟩
    rw [show m₂.mirroring v = false from hmir m₁ _]
    simp
  obtain ⟨x, l, hx⟩ := hcheck
  refine ⟨x, l, ?_⟩
  unfold Mach.resyncStep
  rw [hx]
  exact if_pos (by rw [hmir]; simp)

/-- A piece that is sent frees its slot, and the walk stands behind it (R392). -/
theorem pieceSend_facts (m : Mach) (s : Nat) : (m.pieceSend s).q.used = m.q.used.filter (· != s) ∧
    ((m.pieceSend s).rs (entVol (m.cmd s).entry)).next = entSlba (m.cmd s).entry / 512 + 1 := by
  unfold Mach.pieceSend
  extract_lets c v slba x failed held hole m₁ m₂ m₃ next r m₄
  have h₁ : m.Onward m₁ := (Mach.Onward.refl m).each _ _ fun run _ h => h.sendRun ..
  have h₂ : m.Onward m₂ := h₁.each _ _ fun mu _ h => h.sendHole ..
  have h₃ : m.Onward m₃ := h₂.each _ _ fun mu u h => h.same (raise_same u _ _ _)
  have h₄ : m₄.Onward (m₄.release s) := (Mach.Onward.refl m₄).release s
  obtain ⟨hused, hrs⟩ := freeSlot_facts (m₄.release s) s
  refine ⟨?_, ?_⟩
  · rw [hused, h₄.used, show m₄.q.used = m₃.q.used from rfl, h₃.used]
  · have hset : m₄.rs v = { x with
        next := next, walked := if next % 32 = 0 then insertNat r x.walked else x.walked
        bad := if c.fails.isEmpty then x.bad else insertNat r x.bad, data := [] } := rs_setRs_same ..
    have hkeep : ((m₄.release s).freeSlot s).rs v = m₄.rs v := by
      unfold Mach.rs
      rw [hrs, h₄.rs]
    exact (congrArg Resync.next (hkeep.trans hset))

theorem filter_not_self (l : List Nat) : (l.filter fun x => !l.contains x) = [] :=
  List.filter_eq_nil_iff.mpr fun _ hx => by simpa using hx

/-- The state in which the LBs of a piece are read. -/
def Mach.pieceBegun (s : Nat) (m : Mach) : Mach :=
  (m.setRs (entVol (m.cmd s).entry) { m.rs (entVol (m.cmd s).entry) with data := [] }).setCmd s
    { m.cmd s with stage := .running, todo := List.range 512 }

theorem pieceRun_admitted {s : Nat} (h : (m.cmd s).stage = .admitted) :
    m.pieceRun s = ((m.pieceBegun s).each (List.range 512) fun off m => m.pieceRead s off).pieceDone s := by
  unfold Mach.pieceRun Mach.pieceBegun
  rw [if_neg (by simp [h])]

theorem pieceBegun_cmd (m : Mach) (s : Nat) : (m.pieceBegun s).cmd s = { m.cmd s with stage := .running, todo := List.range 512 } :=
  Mach.cmd_setCmd_same ..

/-- An admitted piece whose LBs are all unmapped is sent at once (R392). -/
theorem pieceRun_zero {s : Nat} (hk : (m.cmd s).kind = .resync) (hst : (m.cmd s).stage = .admitted)
    (hz : ∀ off < 512, m.storedSrc (entVol (m.cmd s).entry) (entSlba (m.cmd s).entry + off) = .zero) :
    (m.pieceRun s).q.used = m.q.used.filter (· != s) ∧
      ((m.pieceRun s).rs (entVol (m.cmd s).entry)).next = entSlba (m.cmd s).entry / 512 + 1 := by
  have hu := pieceBegun_cmd m s
  obtain ⟨w, hw, hsame, hused, hcmd⟩ := pieceReads_zero (a := m.pieceBegun s) (s := s) (List.range 512) (same_refl ..) rfl fun off ho => by
    rw [hu]
    exact (storedSrc_of rfl rfl _ _).trans (hz off (List.mem_range.mp ho))
  have hdone : (w.cmd s).todo = [] := by simp only [hcmd, hu, filter_not_self]
  have hrun : m.pieceRun s = w.pieceSend s := by
    rw [pieceRun_admitted hst, hw]
    unfold Mach.pieceDone
    exact if_pos (by rw [hdone]; simp [hcmd, hu, hk])
  have hentry : (w.cmd s).entry = (m.cmd s).entry := by rw [hcmd, hu]
  obtain ⟨hfree, hnext⟩ := pieceSend_facts w s
  rw [hrun, hfree, hused]
  rw [hentry] at hnext
  exact ⟨rfl, hnext⟩

end

/-- Settles O41: an accepted answer that is open, the one DURABLE of an interval, and the walk's step each have one equation. The link's
choices are the model's (log entries 141 and 144), as are the clauses out of occasion (log entry 11). -/
theorem twinOwner : Obligations.TwinOwner := by
  refine ⟨?success, ?refusal, ?stray, ?interval, ?noInterval, ?piece, ?noWalk⟩
  case success =>
    intro s h v rs e hx htx hin he hrs hr hc
    obtain ⟨u, hu, hrun⟩ := rxSeq_open s.m h (Mach.wackIn h.xid 0 e) hx
    let w := u.updTwn fun t => { t with tx := [] }
    have hvol (j : Vid) : w.volu j = s.m.volu j := accepts_volu hu j
    have hutx : u.twn.tx = [(h.xid, .durable v rs)] := by
      rw [hu.twn]
      exact htx
    have hwalk : w.rs v = {} := by
      rw [show w.rs v = u.rs v from rfl, Mach.rs, hu.twn]
      exact hrs
    have hu' := accepts_settled hu hr hc
    have hset : w.Settled := ⟨hu'.answers, hu'.cmds⟩
    have hq : u.q = s.m.q := same_q hu.same (by simp)
    have hbuf : u.buf = s.m.buf := same_buf hu.same (by simp)
    have hend : u.wackIn h.xid 0 e = (w.setRs v (w.rs v)).setVol v (w.volu v) := by
      rw [wackIn_durable 0 hutx fun x hx => by rw [hx]; exact fun hlt => absurd (hvol v ▸ hlt) (Nat.not_lt.mpr he)]
      refine (congrArg (fun x : Mach => (x.resyncCheck v).takeAckCheck v) (settleCovers_settled hset)).trans ?_
      rw [resyncCheck_idle (by rw [hwalk]) (.inl (by rw [hvol, hin]; simp)), takeAckCheck_idle (by rw [Mach.volu_setVol_same, hvol, hin]; simp)]
    refine completes_eq _ rfl (hrun.trans hend) ⟨rfl, fun j => ?_, hq, hbuf⟩
    exact (volu_setVol_self (w.setRs v (w.rs v)) v j).trans (hvol j)
  case refusal =>
    intro s h v rs st e r hx htx hst hr he hrs hrw hc hin ho
    obtain ⟨u, hu, hrun⟩ := rxSeq_open s.m h (Mach.wackIn h.xid st.toNat e) hx
    have hst' : st.toNat ≠ 0 := fun h0 => hst (BitVec.eq_of_toNat_eq h0)
    have hutx : u.twn.tx = [(h.xid, .durable v rs)] := by
      rw [hu.twn]
      exact htx
    let w := u.updTwn fun t => { t with tx := [] }
    have hvol (j : Vid) : w.volu j = s.m.volu j := accepts_volu hu j
    have hwalk : w.rs v = {} := by
      rw [show w.rs v = u.rs v from rfl, Mach.rs, hu.twn]
      exact hrs
    obtain ⟨hself, hothers, hrs', htx', hwait, hq⟩ := refusedRegions_facts (rs := rs) hwalk (by rw [hvol]; exact hin) (by rw [hvol]; exact ho)
    rw [hvol] at hself
    have hans : w.txAnswered (.durable v rs) h.xid st.toNat = w.refusedRegions v rs := if_neg hst'
    generalize w.refusedRegions v rs = z at hself hothers hrs' htx' hwait hq hans
    have hu' := accepts_settled hu hrw hc
    have hset : z.Settled := ⟨hwait.trans hu'.answers, fun j => by rw [cmd_of_q hq]; exact hu'.cmds j⟩
    have hdirty : r ∈ (z.volu v).dirty := by
      rw [hself]
      exact unionNat_keeps (.inl hr)
    have hend : u.wackIn h.xid st.toNat e = (z.setRs v (z.rs v)).setVol v (z.volu v) := by
      rw [wackIn_durable _ hutx fun x hx => by rw [hx, hans, hself]; exact Nat.not_lt.mpr he]
      refine (congrArg (fun x : Mach => (x.settleCovers.resyncCheck v).takeAckCheck v) hans).trans ?_
      rw [settleCovers_settled hset, resyncCheck_idle (by rw [hrs']) (.inr (List.ne_nil_of_mem hdirty)),
        takeAckCheck_idle (by rw [Mach.volu_setVol_same, hself]; simp)]
    have hend' (j : Vid) : ((z.setRs v (z.rs v)).setVol v (z.volu v)).volu j = z.volu j := volu_setVol_self (z.setRs v (z.rs v)) v j
    refine completes_eq _ rfl (hrun.trans hend) ⟨htx', ?_, ?_, fun j hj => ?_⟩
    · rw [hend']
      exact hdirty
    · rw [hend', hself]
    · rw [hend', hothers j hj, hvol]
  case stray =>
    intro s h st e hx htx
    obtain ⟨u, hu, hrun⟩ := rxSeq_open s.m h (Mach.wackIn h.xid st.toNat e) hx
    refine completes_eq _ rfl hrun ?_
    rw [wackIn_stray _ _ (by rw [hu.twn]; exact htx)]
    exact hu
  case interval =>
    intro s v hf hv ho
    obtain ⟨a, ha, hs⟩ := sendDurable_sends (v := v) hf
    have hone : s.m.durables = (s.m.sendDurable (fun rs => .durable v rs) v).1 := by
      unfold Mach.durables
      rw [filter_only hv ho]
      rfl
    have hvol (j : Vid) : (s.m.sendDurable (fun rs => .durable v rs) v).1.volu j = (s.m.setVol v { s.m.volu v with unconf := [] }).volu j :=
      (volu_of (same_vol hs.same (by simp)) j).trans (by rw [ha]; rfl)
    refine completes_eq _ rfl hone ⟨?_, fun j hj => ?_, ?_, ?_, ?_, ?_⟩
    · rw [hvol, Mach.volu_setVol_same]
    · rw [hvol, Mach.volu_setVol_ne _ _ _ _ hj]
    · rw [hs.twn, ha]
      exact SMap.get_put_same ..
    · rw [hs.twn, ha]
    · have hsent := hs.sent
      rw [ha] at hsent
      exact hsent
    · refine same_trans (b := a) ?_ (same_mono hs.same (by simp))
      rw [ha]
      simp [Mach.SameBut]
  case noInterval =>
    intro s hv
    refine completes_eq _ rfl ?_ rfl
    unfold Mach.durables
    rw [List.filter_eq_nil_iff.mpr fun u _ => by simp [hv u], each_nil']
  case piece =>
    intro s v i r hm ht hsv hd hw hp hst hz
    have hi : i ∈ s.m.pieceSlots v := hp ▸ List.mem_cons_self
    obtain ⟨-, hmine⟩ := List.mem_filter.mp hi
    obtain ⟨hkind, hvid⟩ : (s.m.cmd i).kind = .resync ∧ entVol (s.m.cmd i).entry = v := by simpa using hmine
    have hvol := volu_setVol_self (s.m.setRs v (s.m.rs v)) v
    have hcheck : s.m.resyncCheck v = (s.m.setRs v (s.m.rs v)).setVol v ((s.m.setRs v (s.m.rs v)).volu v) := resyncCheck_idle hw (.inr hd)
    have hrun := pieceRun_zero (m := (s.m.setRs v (s.m.rs v)).setVol v ((s.m.setRs v (s.m.rs v)).volu v)) (s := i) hkind hst fun off ho => by
      refine ((storedSrc_congr (by rfl) hvol (by rfl) _ _).trans (storedSrc_of (a := s.m) rfl rfl _ _)).trans ?_
      exact hvid.symm ▸ hz off ho
    have hgo : ((s.m.setRs v (s.m.rs v)).setVol v ((s.m.setRs v (s.m.rs v)).volu v)).mirroring v = true := by
      rw [← hm]
      unfold Mach.mirroring
      rw [hvol]
      rfl
    have hself : ((s.m.setRs v (s.m.rs v)).setVol v ((s.m.setRs v (s.m.rs v)).volu v)).volu v = s.m.volu v := hvol v
    rw [← resyncStep_runs hcheck (by rw [hgo, hself, ht, hsv]; rfl) hp] at hrun
    obtain ⟨hfree, hnext⟩ := hrun
    refine completes_on _ rfl ⟨hfree, ?_⟩
    rw [← hvid]
    rw [← hvid] at hnext
    exact hnext
  case noWalk =>
    intro s v hm
    obtain ⟨x, l, hstep⟩ := resyncStep_none hm
    refine completes_eq _ rfl hstep ⟨fun w => ?_, by simp [Mach.SameBut, Mach.setRs]⟩
    by_cases hw : w = v
    · subst hw
      rw [Mach.volu_setVol_same]
      exact ⟨rfl, rfl⟩
    · rw [Mach.volu_setVol_ne _ _ _ _ hw]
      exact ⟨rfl, rfl⟩

end Sys2Proof.Machine

/-! The mirror's side of a transfer (O40): what the acceptance of a frame leaves, the steps of the transfer at the head, and the frames that are
out of order. -/

namespace Sys2Proof.Machine

-- One proof at a time: proofs that wait for each other would each hold a thread and its stack.
set_option Elab.async false

/-! ### The acceptance of a frame -/

section
variable {a u : Mach} {h : FrameHdr}

theorem accepts_pageSt (ha : a.Accepts h u) (p : Page) : u.pageSt p = a.pageSt p := by
  have hst := congrArg PageHdr.st (ha.hdr p)
  exact hst

theorem accepts_partner (ha : a.Accepts h u) : u.partnerPresent = a.partnerPresent := by
  unfold Mach.partnerPresent Mach.running
  rw [accepts_pageSt ha, ha.twn]

theorem accepts_bufRoom (ha : a.Accepts h u) : u.bufRoom = a.bufRoom := by
  unfold Mach.bufRoom Mach.bufUsed Mach.bufCap
  rw [same_buf ha.same (by simp), same_hdl ha.same (by simp), same_adm ha.same (by simp)]

/-- A frame can still go out at once after the acceptance of another. -/
theorem accepts_free (ha : a.Accepts h u) (hf : a.TwinFree) : u.TwinFree where
  present := (accepts_partner ha).trans hf.present
  window := by
    rw [ha.twn]
    exact Nat.lt_of_le_of_lt (List.length_filter_le ..) hf.window
  waiting := by
    rw [ha.twn]
    exact hf.waiting
  order := by
    rw [ha.twn]
    exact hf.order

/-- The refusal of a transfer looks at nothing that an acceptance changes. -/
theorem accepts_refusal (ha : a.Accepts h u) (v : Vid) (fence slba n : Nat) (write : Bool) :
    u.mirrorRefusal v fence slba n write = a.mirrorRefusal v fence slba n write := by
  have hkslot (k : Nat) : u.kslot k = a.kslot k := by
    unfold Mach.kslot
    rw [same_key ha.same (by simp)]
  have hcheck (x : Vol) (o : Nat) : u.keyCheck x o = a.keyCheck x o := by
    unfold Mach.keyCheck
    rw [hkslot, same_key ha.same (by simp)]
  have hopen : u.blockOpen = a.blockOpen := by
    unfold Mach.blockOpen Mach.ioUp Mach.running
    rw [accepts_pageSt ha, accepts_pageSt ha, same_dev ha.same (by simp)]
  unfold Mach.mirrorRefusal
  dsimp only
  rw [accepts_volu ha, hcheck, hopen, same_dev ha.same (by simp), same_buf ha.same (by simp), same_gln ha.same (by simp)]

end

/-! ### The steps of the transfer at the head (R385) -/

section
variable {m : Mach} {v : Vid} {x : RxXfer}

/-- A transfer that nothing refuses is of a volume mirrored here, whose owner is the partner, at the epoch held here. -/
theorem mirrorRefusal_none {fence slba n : Nat} {write : Bool} (h : m.mirrorRefusal v fence slba n write = none) : (m.volu v).fence = fence := by
  unfold Mach.mirrorRefusal at h
  by_contra hne
  by_cases hm : (m.volu v).mirrored = true
  · simp [hm, Ne.symm hne] at h
  · simp [hm] at h

/-- A transfer that nothing refuses joins those received. -/
theorem rxBegin_joins {fence n : Nat} {write : Bool} (h : m.mirrorRefusal v fence x.slba n write = none) :
    m.rxBegin v fence n write x = (m.rxPut x).rxDrain := by
  have hf := mirrorRefusal_none h
  unfold Mach.rxBegin
  simp only [hf, Nat.lt_irrefl, decide_false, Bool.and_false, Bool.false_eq_true, if_false, h]

/-- One for a volume that is not mirrored here is answered with WRITE_FAULT. -/
theorem rxBegin_unmirrored {fence n : Nat} {write : Bool} (h : (m.volu v).mirrored = false) :
    m.rxBegin v fence n write x = m.twnWack x.xid v St.writeFault := by
  have hr : m.mirrorRefusal v fence x.slba n write = some St.writeFault := by
    unfold Mach.mirrorRefusal
    simp [h]
  unfold Mach.rxBegin
  simp only [h, Bool.false_and, Bool.false_eq_true, if_false, hr]
  rfl

theorem rxSteps_still {m : Mach} (h : m.rxStep = (m, false)) (n : Nat) : m.rxSteps n = m := by
  cases n with
  | zero => rfl
  | succ n =>
    unfold Mach.rxSteps
    rw [h]
    rfl

theorem rxSteps_on {m u : Mach} (h : m.rxStep = (u, true)) (n : Nat) : m.rxSteps (n + 1) = u.rxSteps n := by
  rw [Mach.rxSteps, h]
  rfl

theorem rxStep_none (h : m.twn.rx = []) : m.rxStep = (m, false) := by
  unfold Mach.rxStep
  rw [h]

/-- The transfer at the head waits for the next part of its data. -/
theorem rxStep_waits {o : Nat} {os : List Nat} {r : List RxXfer} (hrx : m.twn.rx = x :: r) (hh : x.hole = 0) (ht : x.todo = o :: os)
    (hw : x.whole ≤ o) : m.rxStep = (m, false) := by
  unfold Mach.rxStep
  rw [hrx]
  simp only [hh, ht, if_pos hw, ne_eq, not_true_eq_false, if_false]

/-- The transfer at the head is over. -/
theorem rxStep_ends {r : List RxXfer} (hrx : m.twn.rx = x :: r) (hh : x.hole = 0) (ht : x.todo = []) : m.rxStep = (m.rxEnd x, true) := by
  unfold Mach.rxStep
  rw [hrx]
  simp only [hh, ht, ne_eq, not_true_eq_false, if_false]

/-- The whole MUs of a DEALLOC go first. -/
theorem rxStep_hole {r : List RxXfer} (hrx : m.twn.rx = x :: r) (hh : x.hole ≠ 0) :
    m.rxStep = ((m.deallocMus x.vol x.slba x.hole).updTwn fun t => { t with rx := { x with hole := 0 } :: r }, true) := by
  unfold Mach.rxStep
  rw [hrx]
  exact if_pos hh

theorem markCovered_none (m : Mach) : m.markCovered [] = m := by
  unfold Mach.markCovered
  simp [Mach.updBuf]

/-- A transfer that waits for nothing is answered at its end. -/
theorem rxEnd_answers (hv : x.vers = []) (ha : x.ask = false) (hf : x.fua = false) :
    m.rxEnd x = (m.updTwn fun t => { t with rx := t.rx.drop 1 }).twnWack x.xid x.vol St.success := by
  unfold Mach.rxEnd
  rw [hv, markCovered_none, ha, hf]
  rfl

/-- An LB of an MU that has no OPEN version makes a new one (R242). -/
theorem acceptLb_new {lba : Nat} (d : Block) (pos : Fin 8) (lw z : Bool) (h : m.openVer v (lba / 4) = none) :
    ∃ y, (m.acceptLb v lba d pos lw z).1.buf.vers = m.buf.vers ++ [y] ∧ y.vol = v ∧ y.mu = lba / 4 ∧ y.wsn = m.buf.wsn ∧
      SMap.get 0 y.data (lba % 4) = d ∧ (m.acceptLb v lba d pos lw z).1.twn = m.twn := by
  have hopen : ((m.updBuf fun b => { b with wsn := m.buf.wsn + 1 }).touch .map).openVer v (lba / 4) = none := by
    rw [← h]
    unfold Mach.openVer
    rw [Mach.touch_buf]
    rfl
  have hvers : ((m.updBuf fun b => { b with wsn := m.buf.wsn + 1 }).touch .map).buf.vers = m.buf.vers := by
    rw [Mach.touch_buf]
    rfl
  unfold Mach.acceptLb
  dsimp only
  rw [hopen]
  dsimp only
  rw [same_buf (observeBuf_same _) (by simp), same_twn (observeBuf_same _) (by simp)]
  refine ⟨_, congrArg (· ++ [_]) hvers, rfl, rfl, rfl, SMap.get_set_same .., ?_⟩
  simp

/-- A whole LB for which the buffer has room goes into it (R385, R390). -/
theorem rxStep_accepts {o : Nat} {os : List Nat} {r : List RxXfer} (hrx : m.twn.rx = x :: r) (hh : x.hole = 0) (hz : x.zeros = false)
    (ht : x.todo = o :: os) (hw : o < x.whole) (hopen : m.openVer x.vol ((x.slba + o) / 4) = none) (hroom : m.bufRoom = true)
    (hlevel : m.gln.level = .low) : ∃ u z, m.rxStep = (u, true) ∧ u.twn.rx = z :: r ∧ z.hole = 0 ∧ z.todo = os ∧ z.whole = x.whole ∧
      ∃ y ∈ u.buf.vers, y.vol = x.vol ∧ y.mu = (x.slba + o) / 4 ∧ y.wsn = m.buf.wsn ∧
        SMap.get 0 y.data ((x.slba + o) % 4) = SMap.get 0 x.data o := by
  have hlb : m.lbRoom x.vol (x.slba + o) = true := by simp [Mach.lbRoom, hroom]
  have hmay : m.mayAccept opWrite x.vol (x.slba + o) = true := by simp [Mach.mayAccept, hlb, Mach.paced, hlevel]
  obtain ⟨y, hvers, hvol, hmu, hwsn, hdata, -⟩ := acceptLb_new (SMap.get 0 x.data o) (m.posFor x.vol 0) false x.zeros hopen
  unfold Mach.rxStep
  rw [hrx]
  simp only [hh, ht, if_neg (Nat.not_le.mpr hw), makeRoom_room hlb, hz, hmay, ne_eq, not_true_eq_false, if_false, Bool.false_eq_true,
    Bool.not_true]
  rw [hz] at hvers
  exact ⟨_, _, rfl, rfl, rfl, rfl, rfl, y, by rw [Mach.updTwn_buf, hvers]; simp, hvol, hmu, hwsn, hdata⟩

/-! ### A DURABLE for which nothing waits (R386) -/

/-- An answer that waits for nothing goes at once. -/
theorem rxAwait_none (hs : m.Settled) : m.rxAwait x [] [] = m.twnWack x.xid x.vol St.success := by
  let w : RxWait := { xid := x.xid, vol := x.vol, cover := [], status := St.success }
  let u := m.updTwn fun t => { t with rxWait := t.rxWait ++ [w] }
  have hback : (u.updTwn fun t => { t with rxWait := t.rxWait.filter fun y => y.xid != w.xid }) = m := by
    have htwn : { u.twn with rxWait := u.twn.rxWait.filter fun y => y.xid != w.xid } = m.twn := by
      show { m.twn with rxWait := (m.twn.rxWait ++ [w]).filter fun y => y.xid != w.xid } = m.twn
      rw [hs.answers]
      have hnone : ([] ++ [w]).filter (fun y : RxWait => y.xid != w.xid) = [] := by simp
      rw [hnone, ← hs.answers]
    exact congrArg (fun t => ({ m with twn := t } : Mach)) htwn
  have hrx : u.settleRx = m.twnWack x.xid x.vol St.success := by
    have hdone : u.twn.rxWait.filter (fun y => y.cover.isEmpty) = [w] := by
      rw [show u.twn.rxWait = [w] by rw [show u.twn.rxWait = m.twn.rxWait ++ [w] from rfl, hs.answers]; rfl]
      rfl
    unfold Mach.settleRx
    rw [hdone]
    exact congrArg (Mach.twnWack x.xid x.vol St.success) hback
  have hq : (m.twnWack x.xid x.vol St.success).q = m.q := same_q ((Mach.Sending.refl m).twnWack ..).same (by simp)
  have hcovered : (m.twnWack x.xid x.vol St.success).coveredSlots = [] := List.filter_eq_nil_iff.mpr fun j _ => by
    rw [cmd_of_q hq, hs.cmds j]
    simp
  have hawait : m.rxAwait x [] [] = u.settleCovers := rfl
  rw [hawait]
  unfold Mach.settleCovers
  dsimp only
  rw [hrx, hcovered]
  rfl

/-- A DURABLE of a volume for which nothing received waits is answered at once. -/
theorem rxDrain_durable (hrx : m.twn.rx = []) (hs : m.Settled) (ha : x.ask = true) (hh : x.hole = 0) (ht : x.todo = []) (hx : x.vers = [])
    (hv : ∀ y ∈ m.buf.vers, y.vol ≠ x.vol) (hu : ∀ y ∈ m.buf.unprot, y.vol ≠ x.vol) (hd : m.openDeallocs x.vol = []) :
    (m.rxPut x).rxDrain = m.twnWack x.xid x.vol St.success := by
  have hput : (m.rxPut x).twn.rx = [x] := by
    show m.twn.rx ++ [x] = [x]
    rw [hrx]
    rfl
  have hback : ((m.rxPut x).updTwn fun t => { t with rx := t.rx.drop 1 }) = m := by
    have htwn : { (m.rxPut x).twn with rx := (m.rxPut x).twn.rx.drop 1 } = m.twn := by
      show { m.twn with rx := (m.twn.rx ++ [x]).drop 1 } = m.twn
      rw [hrx]
      exact congrArg (fun l => ({ m.twn with rx := l } : Twin)) hrx.symm
    exact congrArg (fun t => ({ m with twn := t } : Mach)) htwn
  have hvers : (m.buf.vers.filter fun y => y.vol == x.vol) = [] := List.filter_eq_nil_iff.mpr fun y hy => by simpa using hv y hy
  have hunprot : (m.buf.unprot.filter fun y => y.vol == x.vol) = [] := List.filter_eq_nil_iff.mpr fun y hy => by simpa using hu y hy
  have hend : (m.rxPut x).rxEnd x = m.twnWack x.xid x.vol St.success := by
    unfold Mach.rxEnd
    rw [hx, markCovered_none, ha, hback]
    dsimp only
    rw [hvers, hunprot, hd]
    exact rxAwait_none hs
  have hdone : (m.twnWack x.xid x.vol St.success).twn.rx = [] := by
    rw [((Mach.Sending.refl m).twnWack ..).twn]
    exact hrx
  have hstep : (m.rxPut x).rxStep = (m.twnWack x.xid x.vol St.success, true) := by rw [rxStep_ends hput hh ht, hend]
  unfold Mach.rxDrain
  rw [hput, List.map_cons, ht]
  exact (rxSteps_on hstep 1).trans (rxSteps_still (rxStep_none hdone) 1)

/-- A received transfer that waits for data goes no further. -/
theorem rxDrain_waits {o : Nat} {os : List Nat} {r : List RxXfer} (hrx : m.twn.rx = x :: r) (hh : x.hole = 0) (ht : x.todo = o :: os)
    (hw : x.whole ≤ o) : m.rxDrain = m := rxSteps_still (rxStep_waits hrx hh ht hw) _

/-- Data of the LB that is being received joins the transfer (R385). -/
theorem wdataIn_one {xid idx : Nat} {d : BitVec 2048} (hrx : m.twn.rx = [x]) (hxid : x.xid = xid) (ha : x.ask = false) (hz : x.zeros = false)
    (hw : x.whole = idx / 16) : m.wdataIn xid idx d = (m.updTwn fun w => { w with rx := [{ x with
      data := SMap.put x.data (idx / 16) (SMap.get 0 x.data (idx / 16) ||| (d.setWidth 32768 <<< (2048 * (idx % 16))))
      whole := if idx % 16 = 15 then idx / 16 + 1 else idx / 16 }] }).rxDrain := by
  unfold Mach.wdataIn Mach.updTwn
  dsimp only
  rw [hrx, List.map_cons, List.map_nil, if_pos (by simp [hxid, ha, hz, hw])]

/-- The LB that has become whole goes into the buffer, and the transfer waits for the next one. -/
theorem rxDrain_accepts {o o' : Nat} {os : List Nat} (hrx : m.twn.rx = [x]) (hh : x.hole = 0) (hz : x.zeros = false) (ht : x.todo = o :: o' :: os)
    (hw : o < x.whole) (hw' : x.whole ≤ o') (hopen : m.openVer x.vol ((x.slba + o) / 4) = none) (hroom : m.bufRoom = true)
    (hlevel : m.gln.level = .low) : ∃ u, m.rxDrain = u ∧
      (∃ y ∈ u.buf.vers, y.vol = x.vol ∧ y.mu = (x.slba + o) / 4 ∧ y.wsn = m.buf.wsn ∧
        SMap.get 0 y.data ((x.slba + o) % 4) = SMap.get 0 x.data o) ∧
      ∃ z, u.twn.rx = [z] ∧ z.todo = o' :: os ∧ z.whole = x.whole := by
  obtain ⟨u, z, hstep, hurx, hzh, hzt, hzw, hmade⟩ := rxStep_accepts hrx hh hz ht hw hopen hroom hlevel
  refine ⟨u, ?_, hmade, z, hurx, hzt, hzw⟩
  have hwait : u.rxStep = (u, false) := rxStep_waits hurx hzh hzt (by rw [hzw]; exact hw')
  unfold Mach.rxDrain
  rw [hrx, List.map_cons, ht]
  exact (rxSteps_on hstep _).trans (rxSteps_still hwait _)

/-! ### A DEALLOC of one whole MU (R390) -/

theorem deallocMu_pageSt (m : Mach) (v : Vid) (rec mu : Nat) (p : Page) : (m.deallocMu v rec mu).pageSt p = m.pageSt p := by
  have hdiscard (u : Mach) (wsn : Nat) : (u.discardOlder v mu wsn rec).pageSt p = u.pageSt p := by
    unfold Mach.discardOlder
    dsimp only
    split <;> simp
  unfold Mach.deallocMu
  simp [hdiscard]

/-- What it leaves, as seen from the machine in which it was accepted. -/
theorem rxDrain_dealloc {mu j : Nat} (hrx : m.twn.rx = []) (hslba : x.slba = 4 * mu) (hh : x.hole = 4) (ht : x.todo = []) (hx : x.vers = [])
    (ha : x.ask = false) (hf : x.fua = false) (hj : entryIndex (m.volu x.vol) (4 * mu) = some j) (hrecov : m.vol.recov = none)
    (hvers : ∀ y ∈ m.buf.vers, ¬ (y.vol = x.vol ∧ y.mu = mu)) :
    ∃ b : Mach, (m.rxPut x).rxDrain = b.twnWack x.xid x.vol St.success ∧ b.entry j = unmapped ∧ (∀ k, k ≠ j → b.entry k = m.entry k) ∧
      b.buf.wsn = m.buf.wsn + 1 ∧ (m.hdl.nextRec, HBody.dealloc x.vol mu 1 m.buf.wsn) ∈ b.hdl.want ∧ b.volu x.vol = m.volu x.vol ∧
      b.twn = m.twn ∧ b.out = m.out ∧ ∀ p, b.pageSt p = m.pageSt p := by
  let a := (m.rxPut x).ask (.dealloc x.vol mu 1 m.buf.wsn)
  obtain ⟨⟨hentry, hothers, hwant, hvols⟩, hwsn, hsame⟩ := deallocMu_unmaps (m := a.1) m.hdl.nextRec hj hrecov hvers
  have hz : (m.rxPut x).deallocMus x.vol x.slba x.hole = a.1.deallocMu x.vol m.hdl.nextRec mu := by
    rw [hslba, hh]
    exact deallocMus_one ..
  generalize hzd : a.1.deallocMu x.vol m.hdl.nextRec mu = z at hz hentry hothers hwant hvols hwsn hsame
  have hpage (p : Page) : z.pageSt p = m.pageSt p := by
    rw [← hzd, deallocMu_pageSt]
    simp [a, Mach.rxPut]
  have hout : z.out = m.out := Eq.trans (same_out hsame (by simp)) rfl
  have hput : (m.rxPut x).twn.rx = [x] := by
    show m.twn.rx ++ [x] = [x]
    rw [hrx]
    rfl
  let u := z.updTwn fun t => { t with rx := [{ x with hole := 0 }] }
  have hhole : (m.rxPut x).rxStep = (u, true) := by
    rw [rxStep_hole hput (by rw [hh]; simp), hz]
  have hend : u.rxStep = (u.rxEnd { x with hole := 0 }, true) := rxStep_ends rfl rfl ht
  refine ⟨u.updTwn fun t => { t with rx := t.rx.drop 1 }, ?_, hentry, hothers, hwsn, ?_, hvols x.vol, ?_, hout, hpage⟩
  · unfold Mach.rxDrain
    rw [hput, List.map_cons, ht]
    exact (rxSteps_on hhole 1).trans ((rxSteps_on hend 0).trans (rxEnd_answers hx ha hf))
  · rw [show (u.updTwn fun t => { t with rx := t.rx.drop 1 }).hdl.want = z.hdl.want from rfl, hwant]
    exact List.mem_append_right _ List.mem_cons_self
  · have htwn : z.twn = (m.rxPut x).twn := Eq.trans (same_twn hsame (by simp)) rfl
    show { z.twn with rx := [] } = m.twn
    rw [htwn]
    exact congrArg (fun l => ({ m.twn with rx := l } : Twin)) hrx.symm

/-! ### Frames out of order (R380) -/

/-- What the ACK of a frame and the end of a run of failed frames leave. -/
def Mach.heardAck (h : FrameHdr) (m : Mach) : Mach :=
  m.updTwn fun t => { t with
    crcRun := 0
    unacked := t.unacked.filter fun f => decide (0 < (f.seq + 65536 - h.ack) % 65536 ∧ (f.seq + 65536 - h.ack) % 65536 < 32768) }

/-- A frame whose CRC passed, while none waits for the window. -/
theorem rxPlain_heard {h : FrameHdr} (f : Mach → Mach) (hl : m.twinLive = true) (hw : m.twn.waiting = []) : m.rxPlain h f = f (m.heardAck h) := by
  unfold Mach.rxPlain
  rw [if_pos hl, acked_nowait _ _ (show (m.updTwn fun t => { t with crcRun := 0 }).twn.waiting = [] from hw)]
  rfl

theorem twnPlain_live (type : Nat) (words : List Nat) (hl : m.twinLive = true) : m.twnPlain type words =
    m.send (.frame { type := type, flags := 0, seq := 0, ack := m.twnAck, xid := 0, idx := 0, words := words, data := 0 }) := if_pos hl

theorem rxSeq_duplicate {h : FrameHdr} (f : Mach → Mach) (hl : m.twinLive = true) (hw : m.twn.waiting = []) (hp : m.twn.present = true)
    (hne : h.seq % 65536 ≠ m.twn.rxSeq) (hold : (m.twn.rxSeq + 65536 - h.seq % 65536) % 65536 ≤ 32768) :
    m.rxSeq h f = (m.heardAck h).twnPlain 0 [] := by
  unfold Mach.rxSeq
  rw [rxPlain_heard _ hl hw]
  dsimp only
  exact (if_neg (show ¬(!m.twn.present) = true by simp [hp])).trans ((if_neg hne).trans (if_pos hold))

theorem rxSeq_gap {h : FrameHdr} (f : Mach → Mach) (hl : m.twinLive = true) (hw : m.twn.waiting = []) (hp : m.twn.present = true)
    (hne : h.seq % 65536 ≠ m.twn.rxSeq) (hnew : 32768 < (m.twn.rxSeq + 65536 - h.seq % 65536) % 65536) :
    m.rxSeq h f = if m.twn.nakSent then m.heardAck h else (m.heardAck h).twnNak := by
  unfold Mach.rxSeq
  rw [rxPlain_heard _ hl hw]
  dsimp only
  exact (if_neg (show ¬(!m.twn.present) = true by simp [hp])).trans ((if_neg hne).trans (if_neg (Nat.not_le.mpr hnew)))

end

/-- Settles O40: an accepted frame has one equation for its effect, and a frame out of order changes the link alone. The answers of the mirror
are the model's where log entries 134, 135 and 195 say so. -/
theorem twinTransfers : Obligations.TwinTransfers := by
  refine ⟨?wbegin, ?unmirrored, ?part, ?lastPart, ?dealloc, ?durable, ?duplicate, ?gap⟩
  case wbegin =>
    intro s h v e slba nlb fua rs hx href hrx
    obtain ⟨u, hu, hrun⟩ := rxSeq_open s.m h (Mach.rxBegin v e (nlb + 1) true
      { xid := h.xid, vol := v, slba := slba, ask := false, fua := fua, zeros := false, hole := 0, data := [], whole := 0
        todo := List.range (nlb + 1), vers := [] }) hx
    have hurx : u.twn.rx = [] := by
      rw [hu.twn]
      exact hrx
    refine completes_eq _ rfl hrun ⟨u, hu, ?_⟩
    rw [rxBegin_joins ((accepts_refusal hu ..).trans href), rxDrain_waits (congrArg (· ++ [_]) hurx) rfl (List.range_succ_eq_map ..) (Nat.le_refl 0)]
    exact congrArg (fun l => u.updTwn fun w => { w with rx := l }) (congrArg (· ++ [_]) hurx)
  case unmirrored =>
    rintro s h v e slba nlb fua rs c (rfl | rfl) hx hf hm
    · obtain ⟨u, hu, hrun⟩ := rxSeq_open s.m h (Mach.rxBegin v e (nlb + 1) true
        { xid := h.xid, vol := v, slba := slba, ask := false, fua := fua, zeros := false, hole := 0, data := [], whole := 0
          todo := List.range (nlb + 1), vers := [] }) hx
      refine completes_eq _ rfl hrun ⟨u, hu, ?_⟩
      rw [rxBegin_unmirrored ((congrArg Vol.mirrored (accepts_volu hu v)).trans hm), ← accepts_volu hu v]
      exact twnSend_sends _ _ _ _ _ _ _ (accepts_free hu hf)
    · obtain ⟨u, hu, hrun⟩ := rxSeq_open s.m h (Mach.rxBegin v e (nlb + 1) false
        { xid := h.xid, vol := v, slba := slba, ask := false, fua := false, zeros := true, hole := nlb + 1, data := [], whole := nlb + 1
          todo := partialLbs slba (nlb + 1), vers := [] }) hx
      refine completes_eq _ rfl hrun ⟨u, hu, ?_⟩
      rw [rxBegin_unmirrored ((congrArg Vol.mirrored (accepts_volu hu v)).trans hm), ← accepts_volu hu v]
      exact twnSend_sends _ _ _ _ _ _ _ (accepts_free hu hf)
  case part =>
    intro s h idx d x o os hx hrx hxid hask hz hh hw ht hle hidx
    obtain ⟨u, hu, hrun⟩ := rxSeq_open s.m h (Mach.wdataIn h.xid idx d) hx
    have hurx : u.twn.rx = [x] := by
      rw [hu.twn]
      exact hrx
    refine completes_eq _ rfl hrun ⟨u, hu, ?_⟩
    rw [wdataIn_one hurx hxid hask hz hw, if_neg hidx, ← hw]
    exact rxDrain_waits rfl hh ht hle
  case lastPart =>
    intro s h d x os hx hrx hxid hask hz hh ht hos hne hopen hroom hlevel
    obtain ⟨u, hu, hrun⟩ := rxSeq_open s.m h (Mach.wdataIn h.xid (16 * x.whole + 15) d) hx
    have hurx : u.twn.rx = [x] := by
      rw [hu.twn]
      exact hrx
    have hidx : (16 * x.whole + 15) / 16 = x.whole := by omega
    have hpos : (16 * x.whole + 15) % 16 = 15 := by omega
    obtain ⟨o, os', rfl⟩ := List.exists_cons_of_ne_nil hne
    have hbuf : u.buf = s.m.buf := same_buf hu.same (by simp)
    have hdata := wdataIn_one (d := d) hurx hxid hask hz hidx.symm
    rw [if_pos hpos, hidx, hpos] at hdata
    obtain ⟨b, hb, hmade, z, hzrx, hzt, hzw⟩ := rxDrain_accepts (m := u.updTwn fun w => { w with rx := [{ x with
      data := SMap.put x.data x.whole (SMap.get 0 x.data x.whole ||| (d.setWidth 32768 <<< (2048 * 15))), whole := x.whole + 1 }] })
      rfl hh hz ht (Nat.lt_succ_self _) (hos o List.mem_cons_self)
      (by unfold Mach.openVer; rw [Mach.updTwn_buf, hbuf]; exact hopen)
      (accepts_bufRoom hu ▸ hroom) (by rw [Mach.updTwn_gln, same_gln hu.same (by simp)]; exact hlevel)
    refine completes_eq _ rfl (hrun.trans (hdata.trans hb)) ⟨?_, z, hzrx, hzt, hzw⟩
    obtain ⟨y, hy, hvol, hmu, hwsn, hval⟩ := hmade
    exact ⟨y, hy, hvol, hmu, hwsn.trans (by rw [Mach.updTwn_buf, hbuf]), hval.trans (SMap.get_put_same ..)⟩
  case dealloc =>
    intro s h v e mu j hx hf href hrx hrw hc hj hrecov hvers
    let x : RxXfer := { xid := h.xid, vol := v, slba := 4 * mu, ask := false, fua := false, zeros := true, hole := 4, data := [], whole := 4
                        todo := partialLbs (4 * mu) 4, vers := [] }
    obtain ⟨u, hu, hrun⟩ := rxSeq_open s.m h (Mach.rxBegin v e 4 false x) hx
    have hbuf : u.buf = s.m.buf := same_buf hu.same (by simp)
    have hvol : u.vol = s.m.vol := same_vol hu.same (by simp)
    obtain ⟨b, hb, hentry, hothers, hwsn, hwant, hvolu, htwn, hout, hpage⟩ := rxDrain_dealloc (m := u) (x := x) (mu := mu) (j := j)
      (by rw [hu.twn]; exact hrx) rfl rfl (partialLbs_whole mu) rfl rfl rfl (by rw [accepts_volu hu]; exact hj) (by rw [hvol]; exact hrecov)
      (by rw [hbuf]; exact hvers)
    have hfree : b.TwinFree := {
      present := by
        unfold Mach.partnerPresent Mach.running
        rw [htwn, hpage]
        exact (accepts_free hu hf).present
      window := by
        rw [htwn]
        exact (accepts_free hu hf).window
      waiting := by
        rw [htwn]
        exact (accepts_free hu hf).waiting
      order := by
        rw [htwn]
        exact (accepts_free hu hf).order }
    have hsend : Mach.SendsFrame (txFrame 0x12 0 h.xid 0 [St.success, (b.volu v).fence] 0) b (b.twnWack h.xid v St.success) :=
      twnSend_sends b _ _ _ _ _ _ hfree
    have hsame (k : Nat) : (b.twnWack h.xid v St.success).entry k = b.entry k := by
      unfold Mach.entry
      rw [same_vol hsend.same (by simp)]
    refine completes_eq _ rfl (hrun.trans ((rxBegin_joins ((accepts_refusal hu ..).trans href)).trans hb)) ⟨?_, ?_, ?_, ?_, u,
      { txFrame 0x12 0 h.xid 0 [St.success, (b.volu v).fence] 0 with seq := b.twn.txSeq, ack := b.twnAck }, hu, ?_, rfl, rfl, ?_⟩
    · exact (hsame _).trans hentry
    · exact fun k hk => (hsame k).trans ((hothers k hk).trans (by unfold Mach.entry; rw [hvol]))
    · rw [same_buf hsend.same (by simp), hwsn, hbuf]
    · rw [same_hdl hsend.same (by simp), ← hbuf, ← same_hdl hu.same (by simp)]
      exact hwant
    · exact Eq.trans hsend.sent (by rw [hout])
    · exact congrArg (fun y : Vol => [St.success, y.fence]) (hvolu.trans (accepts_volu hu v))
  case durable =>
    intro s h v hx hf hrx hrw hc hv hun hd
    let x : RxXfer := { xid := h.xid, vol := v, slba := 0, ask := true, fua := false, zeros := false, hole := 0, data := [], whole := 0
                        todo := [], vers := [] }
    obtain ⟨u, hu, hrun⟩ := rxSeq_open s.m h (fun m => (m.rxPut x).rxDrain) hx
    have hbuf : u.buf = s.m.buf := same_buf hu.same (by simp)
    have hd' : u.openDeallocs v = [] := by
      rw [← hd]
      unfold Mach.openDeallocs
      rw [same_hdl hu.same (by simp)]
    have hdone := rxDrain_durable (m := u) (x := x) (by rw [hu.twn]; exact hrx) (accepts_settled hu hrw hc) rfl rfl rfl rfl
      (by rw [hbuf]; exact hv) (by rw [hbuf]; exact hun) hd'
    refine completes_eq _ rfl (hrun.trans hdone) ⟨u, hu, ?_⟩
    rw [← accepts_volu hu v]
    exact twnSend_sends _ _ _ _ _ _ _ (accepts_free hu hf)
  case duplicate =>
    intro s h idx d hl hp hw hne hold
    have hlive : (s.m.heardAck h).twinLive = true := hl
    refine completes_eq _ rfl ((rxSeq_duplicate _ hl hw hp hne hold).trans (twnPlain_live _ _ hlive)) ⟨rfl, rfl, rfl, ?_⟩
    simp [Mach.SameBut, Mach.heardAck]
  case gap =>
    intro s h idx d hl hp hw hne hnew
    have hlive : ((s.m.heardAck h).updTwn fun t => { t with nakSent := true }).twinLive = true := hl
    refine completes_eq _ rfl (rxSeq_gap _ hl hw hp hne hnew) ?_
    cases hnak : s.m.twn.nakSent with
    | true => exact ⟨(List.append_nil _).symm, hnak, rfl, rfl, by simp [Mach.SameBut, Mach.heardAck]⟩
    | false =>
      have hsend : (s.m.heardAck h).twnNak = _ := twnPlain_live 0x02 [s.m.twn.rxSeq] hlive
      simp only [Bool.false_eq_true, if_false]
      rw [hsend]
      exact ⟨rfl, rfl, rfl, rfl, by simp [Mach.SameBut, Mach.heardAck]⟩

end Sys2Proof.Machine

/-! The twin link (O39): the events of the link itself, what is sent again, and what the loss of the partner leaves (R377 to R382). -/

namespace Sys2Proof.Machine

-- One proof at a time: proofs that wait for each other would each hold a thread and its stack.
set_option Elab.async false

section
variable {a m u : Mach}

/-! ### After firmware's turn -/

/-- Where nothing waits for management firmware, it does nothing behind an event of the link. -/
theorem completes_mail {c : Instr} {s : State} {P : Mach → Prop} {u : Mach} (f : Mach → Mach) (hx : exec c s = s.onMail f) (he : f s.m = u)
    (hc : u.Calm) (hP : P u) : Completes c s P := by
  subst he
  exact completes_eq _ hx (calm_quiet hc) hP

theorem live_running (h : m.twinLive = true) : m.running .twn = true := by
  unfold Mach.twinLive at h
  simp only [Bool.and_eq_true] at h
  exact h.2

theorem live_up (h : m.twinLive = true) : m.twn.up = true := by
  unfold Mach.twinLive at h
  simp only [Bool.and_eq_true] at h
  exact h.1

theorem rxPlain_dead {h : FrameHdr} (f : Mach → Mach) (hl : m.twinLive = false) : m.rxPlain h f = m := by
  unfold Mach.rxPlain
  rw [if_neg (by simp [hl])]

/-! ### Frames that go again (R380) -/

theorem regsSame_trans {ks : List Nat} {a b c : Mach} (h : a.RegsSame ks b) (g : b.RegsSame ks c) : a.RegsSame ks c := by
  obtain ⟨hregs, hc64, hlow, hhdr⟩ := h
  obtain ⟨hregs', hc64', hlow', hhdr'⟩ := g
  exact ⟨fun k hk => (hregs' k hk).trans (hregs k hk), hc64'.trans hc64, hlow'.trans hlow, fun p => (hhdr' p).trans (hhdr p)⟩

/-- What the sending of frames again leaves. -/
structure Mach.Resends (fs : List Frame) (a b : Mach) : Prop where
  twn : b.twn = a.twn
  sent : a.Sent (fs.map fun g => .frame { g with ack := a.twnAck }) b
  regs : a.RegsSame [Reg.TWN_REPLAY] b
  same : a.SameBut [.reg, .out] b

theorem resends_each (fs : List Frame) (m : Mach) :
    m.Resends fs (m.each fs fun f m => (m.send (.frame { f with ack := m.twnAck })).bump Reg.TWN_REPLAY) := by
  induction fs generalizing m with
  | nil => exact ⟨rfl, (List.append_nil _).symm, ⟨fun _ _ => rfl, rfl, rfl, fun _ => rfl⟩, same_refl _ _⟩
  | cons f fs ih =>
    rw [each_cons]
    let b := (m.send (.frame { f with ack := m.twnAck })).bump Reg.TWN_REPLAY
    have htwn : b.twn = m.twn := (Mach.bump_twn ..).trans rfl
    have hregs : m.RegsSame [Reg.TWN_REPLAY] b := regsSame_after (rs_of_reg rfl) (rs_bump ..)
    have hack : b.twnAck = m.twnAck := by
      unfold Mach.twnAck
      rw [htwn]
    obtain ⟨hb, hs, hr, hsame⟩ := ih b
    refine ⟨hb.trans htwn, ?_, regsSame_trans hregs hr, same_trans (by simp [b, Mach.SameBut]) hsame⟩
    rw [hack] at hs
    refine Eq.trans hs ?_
    rw [show b.out = m.out ++ [.frame { f with ack := m.twnAck }] by simp [b]]
    simp

theorem twnResend_resends (m : Mach) (n : Nat) :
    m.Resends (m.twn.unacked.filter fun f => decide ((f.seq + 65536 - n) % 65536 < 32768)) (m.twnResend n) := resends_each ..

/-- From the oldest on, every unacknowledged frame goes again. -/
theorem resendAll_resends {f : Frame} {r : List Frame} (hl : m.twinLive = true) (hf : m.twn.unacked = f :: r)
    (hr : ∀ g ∈ r, (g.seq + 65536 - f.seq) % 65536 < 32768) : m.Resends (f :: r) m.resendAll := by
  have hall : (m.twn.unacked.filter fun g => decide ((g.seq + 65536 - f.seq) % 65536 < 32768)) = f :: r := by
    rw [hf]
    refine List.filter_eq_self.mpr fun g hg => ?_
    rcases List.mem_cons.mp hg with rfl | hg
    · exact decide_eq_true (by omega)
    · exact decide_eq_true (hr g hg)
  have hres := twnResend_resends m f.seq
  rw [hall] at hres
  unfold Mach.resendAll
  rw [hf]
  dsimp only
  rw [if_pos hl]
  exact hres

theorem resendAll_dead (hl : m.twinLive = false) : m.resendAll = m := by
  unfold Mach.resendAll
  split
  · rfl
  · rw [if_neg (by simp [hl])]

/-! ### Failed frames and lost alignment (R378) -/

theorem alignmentLost_early (h : m.twn.crcRun < 8) : m.alignmentLost = m := by
  unfold Mach.alignmentLost
  rw [if_neg (by simp [h])]

theorem alignmentLost_eq (hl : m.twinLive = true) (h : 8 ≤ m.twn.crcRun) :
    m.alignmentLost = ((m.updTwn fun t => { t with crcRun := 0 }).bump Reg.TWN_RETRAIN).raise .twn 19 0 := by
  unfold Mach.alignmentLost
  rw [if_pos (by simp [hl, h])]

theorem crcFailed_live (sq : Bool) (hl : m.twinLive = true) :
    m.crcFailed sq = ((m.updTwn fun t => { t with crcRun := t.crcRun + 1 }).bump Reg.TWN_CRCERR).when sq Mach.twnNak := by
  unfold Mach.crcFailed
  rw [if_neg (by simp [hl])]

/-! ### Heartbeats (R381, R382) -/

/-- What a HEARTBEAT says of its sender and of the round trip. -/
def Mach.heardBeat (n : BitVec 160) (stamp echo now : Word) (m : Mach) : Mach :=
  m.updTwn fun t => { t with heard := n, lastStamp := stamp, rtt := rttOf now echo }

theorem heartbeatIn_plain {n : BitVec 160} {x y now : Word} (h : m.twn.paired = false ∨ (n = m.twn.expected ∧ m.twn.present = true)) :
    m.heartbeatIn n x y now = m.heardBeat n x y now := by
  unfold Mach.heartbeatIn
  dsimp only
  rcases h with h | ⟨hn, hp⟩
  · exact if_pos (by simp [h])
  · refine Eq.trans (ite_congr rfl (fun _ => rfl) fun _ => ?_) (ite_self _)
    refine (if_pos (by simp [hn])).trans ?_
    exact if_pos hp

/-- The expected partner is there, and no volume is mirrored of which it would have to be told. -/
theorem heartbeatIn_back {n : BitVec 160} {x y now : Word} (hp : m.twn.paired = true) (hn : n = m.twn.expected)
    (hv : ∀ v, (m.volu v).mirrored = false) : (m.heartbeatIn n x y now).twn.present = true ∧ (m.heartbeatIn n x y now).twn.heard = n ∧
      (m.heartbeatIn n x y now).twn.up = m.twn.up ∧ (∀ p, (m.heartbeatIn n x y now).pageSt p = m.pageSt p) ∧
      (m.heartbeatIn n x y now).out = m.out ∧ (m.Steady (m.heartbeatIn n x y now)) := by
  let b := m.heardBeat n x y now
  have heq : m.heartbeatIn n x y now = b.partnerBack := by
    unfold Mach.heartbeatIn
    exact (if_neg (by simp [hp])).trans (if_pos (by simp [hn]))
  have hnone : ((List.finRange 64).filter fun v => (b.volu v).mirrored) = [] :=
    List.filter_eq_nil_iff.mpr fun v _ => by
      rw [show b.volu v = m.volu v from rfl, hv]
      simp
  rw [heq]
  cases hpr : m.twn.present with
  | true =>
    rw [show b.partnerBack = b from if_pos hpr]
    exact ⟨hpr, rfl, rfl, fun _ => rfl, rfl, (Mach.Steady.refl m).parts⟩
  | false =>
    let c := b.updTwn fun t => { t with present := true, mismatch := false }
    have hback : b.partnerBack = c.settleDev := by
      unfold Mach.partnerBack
      rw [if_neg (show ¬b.twn.present = true by simp [b, Mach.heardBeat, hpr])]
      exact congrArg (fun l => (c.each l fun v m => m.sendVolstate v).settleDev) hnone
    have hs := settleDev_same c
    rw [hback]
    refine ⟨?_, ?_, ?_, fun p => ?_, ?_, Mach.Steady.settleDev (Mach.Steady.refl m).parts⟩
    · rw [same_twn hs (by simp)]; rfl
    · rw [same_twn hs (by simp)]; rfl
    · rw [same_twn hs (by simp)]; rfl
    · exact (same_pageSt hs (by simp) p).trans rfl
    · rw [same_out hs (by simp)]; rfl

/-- A partner that is not the expected one. -/
theorem heartbeatIn_mismatch {n : BitVec 160} {x y now : Word} (hp : m.twn.paired = true) (hn : n ≠ m.twn.expected)
    (hpr : m.twn.present = false) : m.heartbeatIn n x y now = (m.heardBeat n x y now).serialMismatch := by
  have hlost : (m.heardBeat n x y now).partnerLost = m.heardBeat n x y now := partnerLost_absent hpr
  unfold Mach.heartbeatIn
  refine (if_neg (by simp [hp])).trans ((if_neg (by simp [hn])).trans ?_)
  exact congrArg Mach.serialMismatch hlost

/-- PG_ERR.BLK bit 17, and the event unless it is masked. -/
theorem serialMismatch_recorded (m : Mach) :
    Mach.Recorded ((m.updTwn fun t => { t with mismatch := true }).errBit .twn 17) m.serialMismatch := by
  unfold Mach.serialMismatch
  dsimp only
  split
  · exact recorded_refl _
  · exact recorded_event ..

/-! ### The loss of the partner (R381, R389, R390) -/

/-- No partner is present and no frame is held. -/
structure Twin.Dead (t : Twin) : Prop where
  present : t.present = false
  unacked : t.unacked = []
  waiting : t.waiting = []
  order : t.order = []
  txSeq : t.txSeq = 0
  rxSeq : t.rxSeq = 0

/-- A volume that is what it was to the twin, save that its owner may have lost the partner. -/
structure Vol.Remains (x y : Vol) : Prop where
  mirrored : y.mirrored = x.mirrored
  owner : y.owner = x.owner
  lost : x.owner = true → x.twin = .lost → y.twin = .lost

theorem Vol.Remains.refl (x : Vol) : x.Remains x := ⟨rfl, rfl, fun _ => id⟩

theorem Vol.Remains.trans {x y z : Vol} (h : x.Remains y) (g : y.Remains z) : x.Remains z :=
  ⟨g.mirrored.trans h.mirrored, g.owner.trans h.owner, fun ho ht => g.lost (h.owner.trans ho) (h.lost ho ht)⟩

theorem Vol.atLoss_lost {x : Vol} (h : x.owner = true) : x.atLoss.twin = .lost := by
  unfold Vol.atLoss
  simp [h]

theorem Vol.atLoss_remains (x : Vol) : x.Remains x.atLoss := by
  have he : x.atLoss = { x with dirty := unionNat x.unconf x.dirty, unconf := [], twin := x.atLoss.twin } := by
    unfold Vol.atLoss
    dsimp only
    split
    · rfl
    · split <;> rfl
  exact ⟨(congrArg Vol.mirrored he).trans rfl, (congrArg Vol.owner he).trans rfl, fun ho _ => Vol.atLoss_lost ho⟩

/-- From a to b the link stays dead and every volume remains what it is. -/
structure Mach.Parted (a b : Mach) : Prop where
  dead : b.twn.Dead
  vols : ∀ v, (a.volu v).Remains (b.volu v)

namespace Mach.Parted

theorem trans (h : a.Parted m) (g : m.Parted u) : a.Parted u := ⟨g.dead, fun v => (h.vols v).trans (g.vols v)⟩

/-- A step that changes neither the volumes nor the link; that it does is a matter of computing its fields. -/
theorem parts (h : a.Parted m) (htwn : u.twn = m.twn := by rfl) (hvol : u.vol = m.vol := by rfl) : a.Parted u :=
  ⟨by rw [htwn]; exact h.dead, fun v => by rw [volu_of hvol]; exact h.vols v⟩

theorem other {ps : List Part} (h : a.Parted m) (hs : m.SameBut ps u) (ht : .twn ∉ ps := by simp) (hv : .vol ∉ ps := by simp) : a.Parted u :=
  h.parts (same_twn hs ht) (same_vol hs hv)

theorem ite {c : Prop} [Decidable c] (hm : a.Parted m) (hu : a.Parted u) : a.Parted (if c then m else u) := by
  split
  · exact hm
  · exact hu

theorem each {α : Type} (h : a.Parted m) (l : List α) (f : α → Mach → Mach) (hf : ∀ x {m}, a.Parted m → a.Parted (f x m)) :
    a.Parted (m.each l f) := by
  induction l generalizing m with
  | nil => exact h
  | cons x l ih => exact ih (hf x h)

/-- What is kept of the twin besides the frames may change. -/
theorem updTwn (h : a.Parted m) (f : Twin → Twin) (hf : (f m.twn).Dead) : a.Parted (m.updTwn f) := ⟨hf, h.vols⟩

theorem setVol (h : a.Parted m) (v : Vid) (x : Vol) (hx : (m.volu v).Remains x) : a.Parted (m.setVol v x) := by
  refine ⟨h.dead, fun w => ?_⟩
  by_cases hw : w = v
  · subst hw
    rw [Mach.volu_setVol_same]
    exact (h.vols w).trans hx
  · rw [Mach.volu_setVol_ne _ _ _ _ hw]
    exact h.vols w

theorem touch (h : a.Parted m) (p : Page) : a.Parted (m.touch p) := h.other (touch_same ..)
theorem bump (h : a.Parted m) (k : Nat) : a.Parted (m.bump k) := h.other (sb_bump ..)
theorem raise (h : a.Parted m) (p : Page) (i : Nat) (arg : BitVec 64) : a.Parted (m.raise p i arg) := h.other (raise_same ..)
theorem observe (h : a.Parted m) (q : Nat) (b : Option Nat) (v : Int) : a.Parted (m.observe q b v) := h.other (observe_same ..)
theorem settleDev (h : a.Parted m) : a.Parted m.settleDev := h.other (settleDev_same _)

/-! ### Commands that end, while nothing can be sent -/

theorem absent (h : a.Parted m) : m.partnerPresent = false := by
  unfold Mach.partnerPresent
  rw [h.dead.present]
  rfl

theorem twnQueue (h : a.Parted m) (x : TxOpen) : a.Parted (m.twnQueue x) := by
  unfold Mach.twnQueue
  rw [h.absent]
  exact h

theorem twnFeed (h : a.Parted m) (x : Nat) (f : TxOpen → TxOpen) : a.Parted (m.twnFeed x f) := by
  have he : m.twnFeed x f = m.updTwn fun t => { t with order := [] } := by
    unfold Mach.twnFeed Mach.updTwn
    dsimp only
    rw [h.dead.order]
    rfl
  rw [he]
  exact h.updTwn _ { h.dead with order := rfl }

theorem twnForget (h : a.Parted m) (s : Nat) : a.Parted (m.twnForget s) := by
  unfold Mach.twnForget
  extract_lets ids m₁ loose
  have h₁ : a.Parted m₁ := h.each _ _ fun x _ h => h.twnFeed x _
  exact h₁.updTwn _ { h₁.dead with }

theorem admitCmd (h : a.Parted m) (s : Nat) : a.Parted (m.admitCmd s) := by
  have hs : a.Parted (m.setCmd s { m.cmd s with stage := .admitted }) := h.parts
  unfold Mach.admitCmd Mach.twinOpen
  dsimp only
  rw [if_neg (by simp [Mach.mirroring, hs.absent])]
  exact hs

theorem admitWaiter (h : a.Parted m) (s : Nat) : a.Parted (m.admitWaiter s) := by
  have hr : a.Parted (m.draw.raiseTo Reg.RLK_MAXWAIT (Config.elapsedUs m.free) 0xFFFFFFFF) :=
    h.parts ((Mach.raiseTo_twn ..).trans rfl) ((Mach.raiseTo_vol ..).trans rfl)
  exact (hr.observe ..).admitCmd s

theorem release (h : a.Parted m) (s : Nat) : a.Parted (m.release s) :=
  ite h ((touch h.parts _).each _ _ fun t _ h => ite (ite (admitWaiter h.parts t) h.parts) h)

theorem freeSlot (h : a.Parted m) (s : Nat) : a.Parted (m.freeSlot s) := touch (h.twnForget s).parts _

theorem post (h : a.Parted m) (q : Fin 256) (tag sqhd status dw2 dw3 : Nat) : a.Parted (m.post q tag sqhd status dw2 dw3) :=
  (touch h.parts .qct).parts

theorem complete (h : a.Parted m) (s status dw2 dw3 : Nat) : a.Parted (m.complete s status dw2 dw3) := by
  unfold Mach.complete
  extract_lets c o m₁ m₂ m₃ u₁ m₄ us m₅ m₆
  have h₃ : a.Parted m₃ := ite (h.release s).parts (h.release s).parts
  have h₄ : a.Parted m₄ := ite (ite (raise h₃.parts ..) h₃.parts) h₃
  have h₅ : a.Parted m₅ := ite (observe h₄.parts ..) h₄
  have h₆ : a.Parted m₆ := by
    unfold m₆
    split
    · exact h₅.post ..
    · exact h₅
  exact h₆.freeSlot s

theorem settleRx (h : a.Parted m) : a.Parted m.settleRx :=
  h.each _ _ fun _ _ h => twnQueue (h.updTwn _ { h.dead with }) _

/-! ### What the loss does -/

theorem setRs (h : a.Parted m) (v : Vid) (x : Resync) : a.Parted (m.setRs v x) := h.updTwn _ { h.dead with }

theorem dropPieces (h : a.Parted m) (v : Vid) : a.Parted (m.dropPieces v) := by
  have hs : a.Parted (m.each (m.pieceSlots v) fun s m => ((m.release s).forgetReads s).freeSlot s) :=
    h.each _ _ fun s _ h => freeSlot (parts (h.release s)) s
  exact hs.setRs ..

theorem dropPartner (h : a.Parted m) : a.Parted m.dropPartner :=
  (settleRx (h.each _ _ fun _ _ h => ite h h.parts)).each _ _ fun s _ h => h.complete s ..

theorem endBg (h : a.Parted m) (status : Nat) : a.Parted (m.endBg status) := by
  unfold Mach.endBg
  split
  · exact h
  · exact ite (other h.parts (same_of_recorded (recorded_devEvent ..))) h.parts

theorem waitLost (h : a.Parted m) (w : TwinWait) : a.Parted (m.waitLost w) := by
  have hw : a.Parted (m.twnUnwait w) := h.updTwn _ { h.dead with }
  have hset : a.Parted ((m.twnUnwait w).setVol w.vol { (m.twnUnwait w).volu w.vol with
      internal := ((m.twnUnwait w).volu w.vol).op.isSome }) := hw.setVol w.vol _ ⟨rfl, rfl, fun _ => id⟩
  have hpend : a.Parted (m.pendEpoch w.vol w.fence true .lost) :=
    parts (h.setVol w.vol { m.volu w.vol with pendFence := some (w.fence, true, .lost) } ⟨rfl, rfl, fun _ => id⟩)
  exact ite h (ite hpend (ite (hset.endBg _) (ite hw hw.parts)))

/-- Each volume of the list in turn: an owner's is LOST at the end. -/
theorem lose (h : a.Parted m) (l : List Vid) : a.Parted (m.each l fun v m => (m.setVol v (m.volu v).atLoss).dropPieces v) ∧
    ∀ v ∈ l, (a.volu v).owner = true → ((m.each l fun v m => (m.setVol v (m.volu v).atLoss).dropPieces v).volu v).twin = .lost := by
  induction l generalizing a m with
  | nil => exact ⟨h, fun v hv => by simp at hv⟩
  | cons w l ih =>
    let b := (m.setVol w (m.volu w).atLoss).dropPieces w
    have hset : a.Parted (m.setVol w (m.volu w).atLoss) := h.setVol w _ (Vol.atLoss_remains _)
    have hfrom : (m.setVol w (m.volu w).atLoss).Parted b := dropPieces ⟨hset.dead, fun _ => Vol.Remains.refl _⟩ w
    have hab : a.Parted b := hset.trans hfrom
    rw [each_cons]
    obtain ⟨hall, hlost⟩ := ih hab
    obtain ⟨hrest, -⟩ := ih (a := b) (m := b) ⟨hab.dead, fun _ => Vol.Remains.refl _⟩
    refine ⟨hall, fun v hv ho => ?_⟩
    rcases List.mem_cons.mp hv with rfl | hv
    · have hown : (m.volu v).owner = true := (h.vols v).owner.trans ho
      have hb : (b.volu v).twin = .lost := (hfrom.vols v).lost
        (by rw [Mach.volu_setVol_same, (Vol.atLoss_remains _).owner]; exact hown)
        (by rw [Mach.volu_setVol_same]; exact Vol.atLoss_lost hown)
      exact (hrest.vols v).lost ((hab.vols v).owner.trans ho) hb
    · exact hlost v hv ho

end Mach.Parted

/-- Regions that are unconfirmed again change nothing of what a volume is to the twin. -/
theorem durableBack_remains (m : Mach) (v : Vid) : (m.volu v).Remains (m.durableBack.volu v) := by
  have hset (b : Mach) (w : Vid) (x : List Nat) : (b.volu v).Remains ((b.setVol w { b.volu w with unconf := x }).volu v) := by
    by_cases hw : v = w
    · subst hw
      rw [Mach.volu_setVol_same]
      exact ⟨rfl, rfl, fun _ => id⟩
    · rw [Mach.volu_setVol_ne _ _ _ _ hw]
      exact Vol.Remains.refl _
  unfold Mach.durableBack
  generalize m.twn.tx = l
  induction l generalizing m with
  | nil => exact Vol.Remains.refl _
  | cons e l ih =>
    rw [each_cons]
    refine Vol.Remains.trans ?_ (ih _)
    split
    · exact hset ..
    · exact hset ..
    · exact Vol.Remains.refl _

/-- The partner is lost: no frame is held, and the owner of each mirrored volume is LOST. -/
theorem partnerLost_parts (h : m.twn.present = true) : m.partnerLost.twn.Dead ∧
    ∀ v, (m.volu v).mirrored = true → (m.volu v).owner = true → (m.partnerLost.volu v).twin = .lost := by
  unfold Mach.partnerLost
  rw [if_neg (by simp [h])]
  extract_lets m₁ m₂ m₃ m₄ m₅
  have h₂ : m₁.Parted m₂ := ⟨⟨rfl, rfl, rfl, rfl, rfl, rfl⟩, fun _ => Vol.Remains.refl _⟩
  have h₃ : m₁.Parted m₃ := (h₂.bump _).raise ..
  have h₄ : m₁.Parted m₄ := (h₃.lose _).1
  have hlost : ∀ v ∈ (List.finRange 64).filter (fun v => (m₃.volu v).mirrored), (m₁.volu v).owner = true → (m₄.volu v).twin = .lost := (h₃.lose _).2
  have hend (x : Mach) (hx : x.Parted m₄) : x.Parted (m₅.each m₅.twn.wait Mach.waitLost).settleDev :=
    (hx.dropPartner.each _ _ fun w _ h => h.waitLost w).settleDev
  refine ⟨(hend m₁ h₄).dead, fun v hm ho => ?_⟩
  have hback : (m.volu v).Remains (m₁.volu v) := durableBack_remains m v
  have hv : v ∈ (List.finRange 64).filter fun v => (m₃.volu v).mirrored := List.mem_filter.mpr ⟨List.mem_finRange v, ((h₃.vols v).mirrored.trans hback.mirrored).trans hm⟩
  have hown : (m₁.volu v).owner = true := hback.owner.trans ho
  exact ((hend m₄ ⟨h₄.dead, fun _ => Vol.Remains.refl _⟩).vols v).lost ((h₄.vols v).owner.trans hown) (hlost v hv hown)

end

theorem exec_linkDown (s : State) :
    exec .twinLinkDown s = s.onMail fun m => (m.updTwn fun t => { t with up := false, crcRun := 0 }).partnerLost := rfl

theorem exec_interval (s : State) (now : Word) : exec (.heartbeatInterval now) s =
    s.on fun m => m.twnPlain 0x01 [m.adm.board.serial.toNat, now.toNat, m.twn.lastStamp.toNat] := rfl

/-- The link or the partner is lost while the partner was present. -/
theorem linkLost_parts {a : Mach} (u : Mach) (hp : u.twn.present = true) (hv : u.vol = a.vol) :
    u.partnerLost.twn.present = false ∧ u.partnerLost.twn.unacked = [] ∧ u.partnerLost.twn.waiting = [] ∧ u.partnerLost.twn.txSeq = 0 ∧
    u.partnerLost.twn.rxSeq = 0 ∧ u.partnerLost.partnerPresent = false ∧
    ∀ v, (a.volu v).mirrored = true → (a.volu v).owner = true → (u.partnerLost.volu v).twin = .lost := by
  obtain ⟨hd, hl⟩ := partnerLost_parts hp
  refine ⟨hd.present, hd.unacked, hd.waiting, hd.txSeq, hd.rxSeq, ?_, fun v hm ho => ?_⟩
  · unfold Mach.partnerPresent
    rw [hd.present]
    rfl
  · rw [← volu_of hv] at hm ho
    exact hl v hm ho

/-- A frame that fails its CRC counts, and a sequenced one is answered with a NAK (R378, R380). -/
theorem crcFailed_parts (m : Mach) (sq : Bool) (hl : m.twinLive = true) :
    (m.crcFailed sq).rdN Reg.TWN_CRCERR = min 0xFFFFFFFF (m.rdN Reg.TWN_CRCERR + 1) ∧
    (m.crcFailed sq).twn = { m.twn with crcRun := m.twn.crcRun + 1, nakSent := m.twn.nakSent || sq } ∧
    m.Sent (if sq then [.frame { type := 0x02, flags := 0, seq := 0, ack := m.twnAck, xid := 0, idx := 0, words := [m.twn.rxSeq], data := 0 }]
      else []) (m.crcFailed sq) ∧ m.RegsSame [Reg.TWN_CRCERR] (m.crcFailed sq) ∧ m.SameBut [.twn, .reg, .out] (m.crcFailed sq) := by
  let b := (m.updTwn fun t => { t with crcRun := t.crcRun + 1 }).bump Reg.TWN_CRCERR
  have hbtwn : b.twn = { m.twn with crcRun := m.twn.crcRun + 1 } := (Mach.bump_twn ..).trans rfl
  have hregs : m.RegsSame [Reg.TWN_CRCERR] b := regsSame_after (rs_of_reg rfl) (rs_bump ..)
  rw [crcFailed_live sq hl]
  cases sq with
  | false =>
    refine ⟨rdN_bump .., hbtwn.trans (by simp), ?_, hregs, by simp [Mach.when, Mach.SameBut]⟩
    exact (show b.out = _ by simp [b])
  | true =>
    let d := b.updTwn fun t => { t with nakSent := true }
    have hlive : d.twinLive = true := by
      rw [← hl]
      unfold Mach.twinLive Mach.running
      rw [show d.twn.up = m.twn.up from (congrArg Twin.up hbtwn).trans rfl, show d.pageSt .twn = m.pageSt .twn by simp [d, b]]
    have hnak : b.twnNak = _ := twnPlain_live 0x02 [b.twn.rxSeq] hlive
    have hack : d.twnAck = m.twnAck := by
      unfold Mach.twnAck
      rw [show d.twn.rxSeq = m.twn.rxSeq from (congrArg Twin.rxSeq hbtwn).trans rfl]
    simp only [Mach.when, if_true, Bool.or_true]
    rw [show ((m.updTwn fun t => { t with crcRun := t.crcRun + 1 }).bump Reg.TWN_CRCERR).twnNak = _ from hnak, hack, hbtwn]
    refine ⟨rdN_bump .., congrArg (fun t : Twin => { t with nakSent := true }) hbtwn, ?_, hregs, by simp [b, Mach.SameBut]⟩
    exact congrArg (· ++ [_]) (show b.out = m.out by simp [b])

/-- Settles O39: one equation for each event of the link; the loss of the partner keeps every volume's role (`Mach.Parted`) while it takes the
owners to LOST. What an event out of its occasion leaves alone is log entry 11, the link's choices log entries 133 to 138. -/
theorem twinLink : Obligations.TwinLink := by
  refine ⟨?linkUp, ?noLink, ?linkDown, ?noTimeout, ?lost, ?crc, ?alignment, ?aligned, ?idle, ?dead, ?beat, ?back, ?mismatch, ?nak, ?interval, ?resend⟩
  case linkUp =>
    intro s x4 r16 hr hc
    refine completes_eq _ rfl (if_pos (by simp [hr, hc])) ⟨rfl, by simp [Mach.SameBut]⟩
  case noLink =>
    intro s x4 r16 h
    exact completes_eq _ rfl (if_neg (by rcases h with h | h <;> rw [h] <;> simp)) rfl
  case linkDown =>
    intro s hp hc
    have hst : s.m.Steady (s.m.updTwn fun t => { t with up := false, crcRun := 0 }) := (Mach.Steady.refl s.m).parts
    have habs : (s.m.updTwn fun t => { t with up := false, crcRun := 0 }).partnerLost = s.m.updTwn fun t => { t with up := false, crcRun := 0 } :=
      partnerLost_absent (show s.m.twn.present = false from hp)
    exact completes_mail _ (exec_linkDown s) habs (hst.calm hc) ⟨rfl, by simp [Mach.SameBut]⟩
  case noTimeout =>
    intro s hp hc
    exact completes_mail _ rfl (partnerLost_absent hp) hc rfl
  case lost =>
    intro s c hp hc hcalm
    have hst : s.m.Steady (s.m.updTwn fun t => { t with up := false, crcRun := 0 }) := (Mach.Steady.refl s.m).parts
    rcases hc with rfl | rfl
    · exact completes_mail _ (exec_linkDown s) rfl (hst.partnerLost.calm hcalm) (linkLost_parts _ hp rfl)
    · exact completes_mail _ rfl rfl ((Mach.Steady.refl s.m).partnerLost.calm hcalm) (linkLost_parts _ hp rfl)
  case crc =>
    intro s sq hl
    exact completes_eq _ rfl rfl (crcFailed_parts s.m sq hl)
  case alignment =>
    intro s hl h8 hc
    have hst : s.m.Steady (s.m.updTwn fun t => { t with crcRun := 0 }) := (Mach.Steady.refl s.m).parts
    exact completes_mail _ rfl (alignmentLost_eq hl h8) (((hst.bump _).raise ..).calm hc) (recorded_raise ..)
  case aligned =>
    intro s h8 hc
    exact completes_mail _ rfl (alignmentLost_early h8) hc rfl
  case idle =>
    intro s h hl hw
    exact completes_eq _ rfl (rxPlain_heard _ hl hw) ⟨rfl, by simp [Mach.SameBut, Mach.heardAck]⟩
  case dead =>
    rintro s h n c hl (rfl | rfl | rfl) hc
    · exact completes_eq _ rfl (rxPlain_dead _ hl) rfl
    · exact completes_eq _ rfl (rxPlain_dead _ hl) rfl
    · exact completes_mail _ rfl (resendAll_dead hl) hc rfl
  case beat =>
    intro s h n a b now hl hw hp hc
    have heq : s.m.rxPlain h (Mach.heartbeatIn n a b now) = (s.m.heardAck h).heardBeat n a b now :=
      (rxPlain_heard _ hl hw).trans (heartbeatIn_plain hp)
    have hst : s.m.Steady ((s.m.heardAck h).heardBeat n a b now) := (Mach.Steady.refl s.m).parts
    exact completes_mail _ rfl heq (hst.calm hc) ⟨rfl, by simp [Mach.SameBut, Mach.heardBeat, Mach.heardAck]⟩
  case back =>
    intro s h n a b now hl hw hp hn hv hc
    obtain ⟨hpres, hheard, hup, hpage, hout, hst⟩ := heartbeatIn_back (m := s.m.heardAck h) (x := a) (y := b) (now := now) hp hn hv
    have hfrom : s.m.Steady (s.m.heardAck h) := (Mach.Steady.refl s.m).parts
    refine completes_mail _ rfl (rxPlain_heard _ hl hw) ((hfrom.trans hst).calm hc) ⟨hpres, hheard, ?_, hout⟩
    have hrun : s.m.running .twn = true := live_running hl
    unfold Mach.running at hrun
    unfold Mach.partnerPresent Mach.running
    rw [hpres, hup, hpage, show (s.m.heardAck h).twn.up = true from live_up hl]
    exact hrun
  case mismatch =>
    intro s h n a b now hl hw hp hn hpr hc
    let u := (s.m.heardAck h).heardBeat n a b now
    have hrec : Mach.Recorded ((u.updTwn fun t => { t with mismatch := true }).errBit .twn 17) u.serialMismatch := serialMismatch_recorded u
    have heq : s.m.rxPlain h (Mach.heartbeatIn n a b now) = u.serialMismatch := (rxPlain_heard _ hl hw).trans (heartbeatIn_mismatch hp hn hpr)
    have htwn : u.serialMismatch.twn = { u.twn with mismatch := true } := (same_twn hrec.same (by simp)).trans rfl
    have he : s.m.Steady ((u.updTwn fun t => { t with mismatch := true }).errBit .twn 17) := Mach.Steady.errBit (Mach.Steady.refl s.m).parts ..
    have hst : s.m.Steady u.serialMismatch := he.ite (he.event ..)
    refine completes_mail _ rfl heq (hst.calm hc) ⟨?_, ?_, ?_, ?_, ?_⟩
    · rw [htwn]; exact hpr
    · rw [htwn]
    · rw [htwn]; rfl
    · rw [hrec.err .twn (by simp), Mach.errBit, Mach.hdr_setHdr_same]
      rfl
    · exact same_trans (by simp [u, Mach.SameBut, Mach.heardBeat, Mach.heardAck]) (same_mono hrec.same (by simp))
  case nak =>
    intro s h n hl hw
    obtain ⟨htwn, hsent, hregs, hsame⟩ := twnResend_resends (s.m.heardAck h) n
    refine completes_eq _ rfl (rxPlain_heard _ hl hw) ⟨?_, ?_, ?_, ?_⟩
    · rw [htwn]; rfl
    · rw [htwn]; exact hsent
    · exact regsSame_after (rs_of_reg rfl) hregs
    · exact same_trans (by simp [Mach.SameBut, Mach.heardAck]) (same_mono hsame (by simp))
  case interval =>
    intro s now hl
    exact completes_eq _ (exec_interval s now) (twnPlain_live _ _ hl) ⟨rfl, by simp [Mach.SameBut]⟩
  case resend =>
    intro s f r hl hf hr hc
    obtain ⟨htwn, hsent, hregs, hsame⟩ := resendAll_resends hl hf hr
    exact completes_mail _ rfl rfl (calm_of hc (by rw [same_adm hsame (by simp)]) htwn) ⟨hsent, htwn, hsame⟩

end Sys2Proof.Machine

/-! Power domains and PLLs (O56): what a fault of a block leaves of the clocks (`Mach.Clocked`), the switch of a domain, and the loss of a
PLL's lock (R351 to R353, R359, R407). -/

namespace Sys2Proof.Machine

-- One proof at a time: proofs that wait for each other would each hold a thread and its stack.
set_option Elab.async false

/-! ### What a fault leaves of the clocks -/

/-- CLK_LOCK's flags. -/
def Dev.locks (d : Dev) : Bool × Bool × Bool × Bool × BitVec 8 := (d.mclk, d.qclk, d.aclk, d.twclk, d.fclk)

/-- From a to b no PLL has locked or lost lock, and a controller that has failed stays failed for its cause. -/
structure Mach.Clocked (a b : Mach) : Prop where
  count : b.rd Reg.CLK_UNLOCK = a.rd Reg.CLK_UNLOCK
  locks : b.dev.locks = a.dev.locks
  failed : a.dev.st = .failed → b.dev.st = .failed ∧ b.dev.failCause = a.dev.failCause

namespace Mach.Clocked

variable {a m u : Mach}

/-! #### Composition -/

theorem refl (a : Mach) : a.Clocked a := ⟨rfl, rfl, fun h => ⟨h, rfl⟩⟩

theorem trans (h : a.Clocked m) (g : m.Clocked u) : a.Clocked u where
  count := g.count.trans h.count
  locks := g.locks.trans h.locks
  failed hf := by
    obtain ⟨hm, hc⟩ := h.failed hf
    obtain ⟨hu, hc'⟩ := g.failed hm
    exact ⟨hu, hc'.trans hc⟩

/-- A step that changes neither a register nor the device; that it does is a matter of computing its fields. -/
theorem parts (h : a.Clocked m) (hreg : u.reg = m.reg := by rfl) (hdev : u.dev = m.dev := by rfl) : a.Clocked u :=
  h.trans ⟨by unfold Mach.rd; rw [hreg], by rw [hdev], fun hf => by rw [hdev]; exact ⟨hf, rfl⟩⟩

/-- A step that leaves the device alone and CLK_UNLOCK too. -/
theorem counts (h : a.Clocked m) (hrd : u.rd Reg.CLK_UNLOCK = m.rd Reg.CLK_UNLOCK) (hdev : u.dev = m.dev) : a.Clocked u :=
  h.trans ⟨hrd, by rw [hdev], fun hf => by rw [hdev]; exact ⟨hf, rfl⟩⟩

theorem ite {c : Prop} [Decidable c] (hm : a.Clocked m) (hu : a.Clocked u) : a.Clocked (if c then m else u) := by
  split
  · exact hm
  · exact hu

theorem each {α : Type} (h : a.Clocked m) (l : List α) (f : α → Mach → Mach) (hf : ∀ x {m}, a.Clocked m → a.Clocked (f x m)) :
    a.Clocked (m.each l f) := by
  induction l generalizing m with
  | nil => exact h
  | cons x l ih => exact ih (hf x h)

/-! #### Registers and events -/

theorem touch (h : a.Clocked m) (p : Page) : a.Clocked (m.touch p) := h.counts (Mach.rd_touch ..) (by simp)
theorem bump64 (h : a.Clocked m) (k : Nat) : a.Clocked (m.bump64 k) := h.counts (rd_bump64 ..) (by simp)

theorem bump (h : a.Clocked m) (k : Nat) (hk : Reg.CLK_UNLOCK ≠ k := by decide) : a.Clocked (m.bump k) :=
  h.counts (Mach.rd_bump_ne _ _ _ hk) (by simp)

theorem bumpPort (h : a.Clocked m) (p : Port) (k : Nat) (hk : k < 0x1000) : a.Clocked (m.bump (portReg p k)) :=
  h.bump _ (by cases p <;> simp [portReg, Page.base, Reg.CLK_UNLOCK] <;> omega)

theorem raiseTo (h : a.Clocked m) (k n top : Nat) (hk : Reg.CLK_UNLOCK ≠ k := by decide) : a.Clocked (m.raiseTo k n top) :=
  ite (h.counts (Mach.rd_set_ne _ _ _ _ hk) (by simp)) h

theorem setHdr (h : a.Clocked m) (p : Page) (x : PageHdr) : a.Clocked (m.setHdr p x) := h.counts rfl rfl

theorem recorded (h : a.Clocked m) (hr : Mach.Recorded m u) : a.Clocked u :=
  h.counts (hr.rd _ (by decide)) (same_dev hr.same (by simp))

theorem raise (h : a.Clocked m) (p : Page) (i : Nat) (arg : BitVec 64) : a.Clocked (m.raise p i arg) :=
  (h.setHdr p _).recorded (recorded_raise ..)

theorem observe (h : a.Clocked m) (q : Nat) (b : Option Nat) (v : Int) : a.Clocked (m.observe q b v) := h.recorded (recorded_observe ..)

/-! #### The twin link's sequenced frames -/

theorem twnGo (h : a.Clocked m) (f : Frame) : a.Clocked (m.twnGo f) := ite (bump64 h.parts _) h.parts

theorem twnNext (h : a.Clocked m) (n : Nat) : a.Clocked (m.twnNext n) := by
  induction n generalizing m with
  | zero => exact h
  | succ n ih =>
    unfold Mach.twnNext
    split
    · exact h
    · rename_i o os _
      have hg : a.Clocked (m.each o.held Mach.twnGo) := h.each _ _ fun f _ h => h.twnGo f
      exact ite (ih hg.parts) hg.parts

theorem twnQueue (h : a.Clocked m) (x : TxOpen) : a.Clocked (m.twnQueue x) := ite h (h.parts.twnNext _)

theorem twnForget (h : a.Clocked m) (s : Nat) : a.Clocked (m.twnForget s) := by
  unfold Mach.twnForget
  extract_lets ids m₁ loose
  have h₁ : a.Clocked m₁ := h.each _ _ fun _ _ h => h.parts.twnNext _
  exact h₁.parts

/-! #### Commands -/

theorem admitCmd (h : a.Clocked m) (s : Nat) : a.Clocked (m.admitCmd s) := by
  have hs : a.Clocked (m.setCmd s { m.cmd s with stage := .admitted }) := h.parts
  unfold Mach.admitCmd Mach.twinOpen
  exact ite (hs.parts.twnQueue _) hs

theorem release (h : a.Clocked m) (s : Nat) : a.Clocked (m.release s) :=
  ite h ((touch h.parts _).each _ _ fun t _ h => ite (ite (admitCmd (observe (raiseTo h.parts ..) ..) t) h.parts) h)

theorem freeSlot (h : a.Clocked m) (s : Nat) : a.Clocked (m.freeSlot s) := touch (h.twnForget s).parts _

theorem post (h : a.Clocked m) (q : Fin 256) (tag sqhd status dw2 dw3 : Nat) : a.Clocked (m.post q tag sqhd status dw2 dw3) :=
  (touch h.parts .qct).parts

theorem complete (h : a.Clocked m) (s status dw2 dw3 : Nat) : a.Clocked (m.complete s status dw2 dw3) := by
  unfold Mach.complete
  extract_lets c o m₁ m₂ m₃ u₁ m₄ us m₅ m₆
  have h₃ : a.Clocked m₃ := ite (h.release s).parts (h.release s).parts
  have h₄ : a.Clocked m₄ := ite (ite (raise h₃.parts ..) h₃.parts) h₃
  have h₅ : a.Clocked m₅ := ite (observe h₄.parts ..) h₄
  have h₆ : a.Clocked m₆ := by
    unfold m₆
    split
    · exact h₅.post ..
    · exact h₅
  exact h₆.freeSlot s

/-! #### Reads of codewords -/

theorem readPeers (h : a.Clocked m) (l : List Peer) (t : RdTask) : a.Clocked (m.each l fun p m => m.readPeer t p) :=
  h.each _ _ fun _ _ h => h.parts

theorem escalate (h : a.Clocked m) (t : RdTask) : a.Clocked (m.escalate t) := by
  unfold Mach.escalate Mach.peerEnded
  split
  · split
    · exact h.parts
    · dsimp only
      split
      · exact h.parts
      · exact readPeers h.parts ..
  · exact readPeers h.parts ..

/-- Tasks whose operations are gone are escalated. -/
theorem escalates (h : a.Clocked m) (l : List Nat) : a.Clocked (m.each l fun t m =>
    match m.task t with
    | some t => m.escalate t
    | none => m) := by
  refine h.each _ _ fun t m h => ?_
  split
  · exact h.escalate _
  · exact h

/-! #### Lamp requests and frames -/

theorem send (h : a.Clocked m) (o : Out) : a.Clocked (m.send o) := h.parts

theorem memEnd (h : a.Clocked m) (p : Port) : a.Clocked (m.memEnd p) := touch h.parts _

theorem poisonOut (h : a.Clocked m) (p : Port) : a.Clocked (m.poisonOut p) :=
  ((h.bumpPort p Reg.PORT_POISON_TX (by decide)).send _).memEnd p

theorem writeDone (h : a.Clocked m) (p : Port) (mute : Bool) : a.Clocked (m.writeDone p mute) := ite h ((h.send _).memEnd p)

theorem dropHeld (h : a.Clocked m) : a.Clocked m.dropHeld := each h.parts _ _ fun _ _ h => ite (h.poisonOut _) (h.writeDone ..)

theorem lampGone (h : a.Clocked m) : a.Clocked m.lampGone :=
  each h.parts _ _ fun _ _ h => ite (h.poisonOut _) ((h.bump _).writeDone ..)

theorem portIdle (h : a.Clocked m) (q : Port) : a.Clocked (m.portIdle q) :=
  ite (parts (bumpPort (m := m.updPort q _) h.parts q Reg.PORT_LINKDOWN (by decide))) h

theorem lntInstall (h : a.Clocked m) (key : Nat) (changed : Bool) : a.Clocked (m.lntInstall key changed) := by
  unfold Mach.lntInstall
  refine ite h ?_
  split
  · exact h
  · dsimp only
    split
    · exact h.parts
    · exact h
    · exact h.parts

theorem putDesc (h : a.Clocked m) (key : Nat) (d : Desc) : a.Clocked (m.putDesc key d) := by
  unfold Mach.putDesc Mach.lntUpdate
  have hd : a.Clocked (m.setDesc key d) := h.parts
  split
  · exact bump64 hd.parts _
  · exact ite (hd.bump64 _) ((hd.bump64 _).lntInstall ..)

theorem frameCheck (h : a.Clocked m) (key : Nat) : a.Clocked (m.frameCheck key) := by
  unfold Mach.frameCheck
  dsimp only
  split
  · exact h
  · exact ite h.parts h

theorem pendlRange (h : a.Clocked m) (v : Vid) (slba n : Nat) : a.Clocked (m.pendlRange v slba n) := by
  refine h.each _ _ fun o m h => ?_
  split
  · exact (ite ((h.putDesc ..).frameCheck _) h).frameCheck _
  · exact h

theorem wbClear (h : a.Clocked m) (s k p : Nat) : a.Clocked (m.wbClear s k p) :=
  frameCheck (ite h.parts (putDesc h.parts ..)) k

theorem wbAbandon (h : a.Clocked m) (s : Nat) : a.Clocked (m.wbAbandon s) := by
  unfold Mach.wbAbandon
  split
  · exact wbClear (ite h (h.putDesc ..)) ..
  · exact h

theorem cutWith (h : a.Clocked m) (s status dw2 dw3 : Nat) : a.Clocked (m.cutWith s status dw2 dw3) :=
  complete (ite (pendlRange (h.wbAbandon s).parts ..) (h.wbAbandon s).parts) s status dw2 dw3

theorem failCommands (h : a.Clocked m) : a.Clocked m.failCommands := by
  refine h.each _ _ fun s m h => ?_
  dsimp only
  split
  · exact h
  all_goals exact h.cutWith ..

/-! #### The device -/

theorem settleDev (h : a.Clocked m) : a.Clocked m.settleDev := by
  refine h.trans ⟨by unfold Mach.rd; rw [settleDev_reg], ?_, fun hf => ?_⟩
  · unfold Mach.settleDev
    split
    · rw [(setDev_frame ..).2.2]
      rfl
    · rfl
  · have hidle : m.settleDev = m := by
      unfold Mach.settleDev
      rw [if_neg (by simp [Mach.ioUp, hf])]
    rw [hidle]
    exact ⟨hf, rfl⟩

/-- A controller that fails keeps its locks. -/
theorem fail (h : a.Clocked m) (cause : Nat) : a.Clocked (m.fail cause) := by
  refine h.trans ?_
  by_cases hf : m.dev.st = .failed
  · unfold Mach.fail
    rw [if_pos (by simp [hf])]
    exact refl m
  · unfold Mach.fail
    rw [if_neg (by simp [hf])]
    extract_lets u₁ u₂ u₃
    have hset : (u₁.setDev .failed).dev = { u₁.dev with st := .failed } := (setDev_frame ..).2.2
    have h₁ : m.Clocked (u₁.setDev .failed) :=
      ⟨by unfold Mach.rd; rw [setDev_reg]; rfl, by rw [hset]; rfl, fun hm => absurd hm hf⟩
    have h₃ : m.Clocked u₃ := h₁.failCommands.dropHeld.each _ _ fun p _ h => ite ((touch h.parts _).send _) h
    exact h₃.recorded (recorded_devEvent ..)

/-! #### The loss of the twin partner -/

theorem dropPieces (h : a.Clocked m) (v : Vid) : a.Clocked (m.dropPieces v) := by
  have hs : a.Clocked (m.each (m.pieceSlots v) fun s m => ((m.release s).forgetReads s).freeSlot s) :=
    h.each _ _ fun s _ h => freeSlot (parts (h.release s)) s
  exact hs.parts

theorem dropPartner (h : a.Clocked m) : a.Clocked m.dropPartner :=
  each (each (h.each _ _ fun _ _ h => ite h h.parts) _ _ fun _ _ h => h.parts.twnQueue _) _ _ fun s _ h => h.complete s ..

theorem endBg (h : a.Clocked m) (status : Nat) : a.Clocked (m.endBg status) := by
  unfold Mach.endBg
  split
  · exact h
  · exact ite (recorded h.parts (recorded_devEvent ..)) h.parts

theorem waitLost (h : a.Clocked m) (w : TwinWait) : a.Clocked (m.waitLost w) := by
  have hw : a.Clocked (m.twnUnwait w) := h.parts
  exact ite h (ite h.parts (ite (endBg hw.parts _) (ite hw hw.parts)))

theorem durableBack (h : a.Clocked m) : a.Clocked m.durableBack := by
  refine h.each _ _ fun e m h => ?_
  dsimp only
  split
  · exact h.parts
  · exact h.parts
  · exact h

theorem partnerLost (h : a.Clocked m) : a.Clocked m.partnerLost := by
  unfold Mach.partnerLost
  extract_lets m₁ m₂ m₃ m₄ m₅
  have h₂ : a.Clocked m₂ := h.durableBack.parts
  have h₄ : a.Clocked m₄ := ((h₂.bump _).raise ..).each _ _ fun v _ h => dropPieces h.parts v
  exact ite h (h₄.dropPartner.each _ _ fun w _ h => h.waitLost w).settleDev

/-! #### Faults -/

theorem faultEnds (h : a.Clocked m) (p : Page) : a.Clocked (m.faultEnds p) := by
  cases p with
  | fch c =>
    have hs : a.Clocked (m.strandReads c true) := escalates h.parts _
    exact ite (hs.fail _) hs
  | drc d => exact h.fail _
  | ecc => exact escalates h.parts _
  | lnt => exact h.parts
  | twn => exact h.partnerLost
  | port q => exact h.portIdle q
  | lmp => exact h.lampGone
  | gln => exact h.parts
  | key => exact touch h.parts _
  | _ =>
    unfold Mach.faultEnds
    exact ite (h.fail _) h

theorem blockFault (h : a.Clocked m) (p : Page) (parity : Bool) : a.Clocked (m.blockFault p parity) := by
  have hf : a.Clocked (m.faulted p parity) := by
    unfold Mach.faulted Mach.when
    exact ite ((raise (h.setHdr ..) ..).raise ..) (raise (h.setHdr ..) ..)
  cases hst : m.pageSt p with
  | off => rw [blockFault_idle parity (.inl hst)]; exact h
  | stopped => rw [blockFault_idle parity (.inr (.inl hst))]; exact h
  | faulted => rw [blockFault_idle parity (.inr (.inr hst))]; exact h
  | starting => rw [blockFault_eq parity (.inl hst)]; exact (hf.faultEnds p).settleDev
  | running => rw [blockFault_eq parity (.inr (.inl hst))]; exact (hf.faultEnds p).settleDev
  | stopping => rw [blockFault_eq parity (.inr (.inr hst))]; exact (hf.faultEnds p).settleDev

end Mach.Clocked

end Sys2Proof.Machine

/-! The obligation on power domains and PLLs (O56): the pages of a domain, its switch, and the PLLs. -/

namespace Sys2Proof.Machine

-- One proof at a time: proofs that wait for each other would each hold a thread and its stack.
set_option Elab.async false

section
variable {a m u : Mach}

/-! ### The pages of a domain -/

theorem mem_allPages (p : Page) : p ∈ allPages := by
  cases p with
  | port q => cases q <;> simp [allPages]
  | _ => simp [allPages]

theorem mem_domainPages {p : Page} {i : Nat} : p ∈ domainPages i ↔ pageDomain p = i := by
  unfold domainPages
  simp [mem_allPages]

theorem setPagesSt_pageSt (l : List Page) (st : PageSt) (m : Mach) (q : Page) :
    (m.each l fun p m => m.setPageSt p st).pageSt q = if q ∈ l then st else m.pageSt q := by
  induction l generalizing m with
  | nil => simp [Mach.each]
  | cons p l ih =>
    rw [each_cons, ih, pageSt_ite']
    by_cases hl : q ∈ l <;> by_cases hq : q = p <;> simp [hl, hq]

theorem setPagesSt_frame (l : List Page) (st : PageSt) (m : Mach) : m.RegsBut [] (m.each l fun p m => m.setPageSt p st) ∧
    m.SameBut [.reg] (m.each l fun p m => m.setPageSt p st) :=
  hdrs_only l _ m fun p m => ⟨fun k _ => by simp, by simp [Mach.SameBut]⟩

/-- The pages of a domain all take one state. -/
theorem domainSt_pageSt (d : Nat) (st : PageSt) (m : Mach) (q : Page) :
    (m.each (domainPages d) fun p m => m.setPageSt p st).pageSt q = if pageDomain q = d then st else m.pageSt q := by
  rw [setPagesSt_pageSt]
  simp only [mem_domainPages]

/-! ### What a domain loses -/

theorem portReset_pageSt (p : Port) (m : Mach) (q : Page) : (m.portReset p).pageSt q = m.pageSt q := by
  have hpage (b : Mach) : (b.resetPortPage p).pageSt q = b.pageSt q := by
    unfold Mach.resetPortPage
    dsimp only
    by_cases hq : q = .port p
    · subst hq
      unfold Mach.pageSt
      rw [Mach.hdr_setHdr_same]
    · unfold Mach.pageSt
      rw [Mach.hdr_setHdr_ne _ _ _ _ hq]
      rfl
  unfold Mach.portReset
  simp [hpage]

theorem domainLoses_pageSt (d : Nat) (m : Mach) (q : Page) : (m.domainLoses d).pageSt q = m.pageSt q := by
  unfold Mach.domainLoses
  split
  case h_2 => exact portReset_pageSt ..
  case h_3 => exact portReset_pageSt ..
  case h_6 => exact Mach.each_pageSt _ _ _ _ fun _ _ => by simp
  case h_8 => split <;> simp
  all_goals simp

/-- A step that changes neither administration nor the twin link. -/
theorem calm_of_parts (h : m.Calm) (hadm : u.adm = m.adm := by rfl) (htwn : u.twn = m.twn := by rfl) : u.Calm := calm_of h (by rw [hadm]) htwn

theorem calm_closePartial (h : m.Calm) (pos : Fin 8) : (m.closePartial pos).Calm := by
  have hask (b : Mach) (hb : b.Calm) (x y : Nat) : (b.askProvpar x y).Calm := by
    unfold Mach.askProvpar
    split
    · exact hb
    · dsimp only
      split
      · exact hb
      · exact calm_of_parts hb
  have hclose (b : Mach) (hb : b.Calm) : (b.closeAt pos).Calm := by
    unfold Mach.closeAt Mach.closeFur
    split
    · exact hb
    · rename_i o _
      have hput := putFur_same o.furrow { (b.setOpenF pos none).fur o.furrow with st := .closed } (b.setOpenF pos none)
      have hb' : (b.setOpenF pos none).Calm := calm_of_parts hb
      refine calm_of_same ?_ (touch_same ..)
      dsimp only
      split
      · have hrel := same_trans hput (releaseFur_same o.furrow _)
        exact calm_of_parts hb' (same_adm hrel (by simp)) (same_twn hrel (by simp))
      · exact calm_of_parts hb' (same_adm hput (by simp)) (same_twn hput (by simp))
  unfold Mach.closePartial
  split
  · exact h
  · refine hclose _ ?_
    split
    · exact h
    · exact hask _ h ..

theorem calm_each {α : Type} (l : List α) (f : α → Mach → Mach) (hf : ∀ x {m : Mach}, m.Calm → (f x m).Calm) (h : m.Calm) : (m.each l f).Calm := by
  induction l generalizing m with
  | nil => exact h
  | cons x l ih => exact ih (hf x h)

theorem dropPortCmds_steady (p : Port) (m : Mach) : m.Steady (m.dropPortCmds p) := by
  refine (Mach.Steady.refl m).each _ _ fun s m h => ?_
  dsimp only
  have hset : ∀ c, _ := fun c => h.setCmd s c
  exact .ite (hset _) (((Mach.Steady.ite ((hset _).pendlRange ..) (hset _)).release s |>.forgetReads s).freeSlot s)

theorem calm_portReset (h : m.Calm) (p : Port) : (m.portReset p).Calm := by
  have hbox : (m.dropMailbox p).Calm := by
    refine ⟨?_, h.ctlIn, h.ctlOut⟩
    show m.adm.mboxQ.filter _ = []
    rw [h.mail]
    rfl
  have hcmds : ((m.dropMailbox p).dropPortCmds p).Calm := (dropPortCmds_steady ..).calm hbox
  have hq : (((m.dropMailbox p).dropPortCmds p).dropPortQueues p).Calm := calm_of_parts hcmds
  have hx : ((((m.dropMailbox p).dropPortCmds p).dropPortQueues p).dropTransfer p).Calm := by
    unfold Mach.dropTransfer
    split
    · split
      · exact ⟨hq.mail, hq.ctlIn, hq.ctlOut⟩
      · exact hq
    · exact hq
  have hreg : (((((m.dropMailbox p).dropPortCmds p).dropPortQueues p).dropTransfer p).resetPortPage p).Calm := calm_of_parts hx
  unfold Mach.portReset
  exact (Mach.Steady.settleDev (.refl _)).calm (calm_of_parts hreg)

theorem calm_domainLoses (h : m.Calm) (d : Nat) : (m.domainLoses d).Calm := by
  have hst : m.Steady m := .refl m
  unfold Mach.domainLoses
  split
  · exact calm_of_parts h
  · exact calm_portReset h _
  · exact calm_portReset h _
  · exact (Mach.Steady.parts hst.partnerLost).calm h
  · exact calm_of_parts h
  · exact calm_each _ _ (fun _ _ h => calm_closePartial h _) h
  · exact calm_of_parts h
  · split
    · exact calm_of_parts h
    · exact h

/-! ### OFF and ON (R352) -/

theorem domRefuse_parts (m : Mach) {d cause : Nat} (hd : d < 64) (hc : cause < 4) : (m.domRefuse d cause).rdN Reg.PWR_LASTERR = cause + 4 * d ∧
    ((m.domRefuse d cause).hdr .pwr).err = (m.hdr .pwr).err ||| bit32 16 ∧ (∀ p, (m.domRefuse d cause).pageSt p = m.pageSt p) ∧
    m.SameBut [.reg, .pff, .adm, .alm] (m.domRefuse d cause) ∧ m.Steady (m.domRefuse d cause) := by
  let b := m.set Reg.PWR_LASTERR (BitVec.ofNat 32 (cause + 4 * d))
  have hrec : Mach.Recorded (b.errBit .pwr 16) (m.domRefuse d cause) := recorded_raise ..
  have hb : m.SameBut [.reg] b := by simp [b, Mach.SameBut]
  refine ⟨?_, ?_, fun p => ?_, ?_, ((Mach.Steady.refl m).set ..).raise ..⟩
  · unfold Mach.rdN
    rw [hrec.rd _ (by decide), show (b.errBit .pwr 16).rd Reg.PWR_LASTERR = b.rd Reg.PWR_LASTERR from rfl, Mach.rd_set_same]
    exact Nat.mod_eq_of_lt (by omega)
  · rw [hrec.err .pwr (by simp), Mach.errBit, Mach.hdr_setHdr_same]
    exact congrArg (· ||| bit32 16) (err_of_hdr (m.hdr_set _ _ _))
  · unfold Mach.domRefuse
    rw [Mach.raise_pageSt]
    exact Mach.pageSt_of_hdr (m.hdr_set ..)
  · exact same_trans (same_mono hb (by simp)) (raise_same ..)

theorem domOff_refuses {ag : Agent} {d cause : Nat} (hm : m.domMay ag = true)
    (h : (if fixedDomain d then cause = 1 else m.thm.switching.isSome = true ∧ cause = 2) ∨
      (fixedDomain d = false ∧ m.thm.switching = none ∧ (∃ p, pageDomain p = d ∧ m.pageSt p ≠ .stopped) ∧ cause = 3)) :
    m.domOff ag d = m.domRefuse d cause := by
  unfold Mach.domOff
  rw [if_neg (by simp [hm])]
  rcases h with h | ⟨hf, hs, ⟨p, hp, hst⟩, rfl⟩
  · cases hf : fixedDomain d with
    | true =>
      rw [hf, if_pos rfl] at h
      rw [if_pos rfl, h]
    | false =>
      rw [hf, if_neg (by simp)] at h
      obtain ⟨hs, rfl⟩ := h
      rw [if_neg (by simp), if_pos hs]
  · rw [if_neg (by simp [hf]), if_neg (by simp [hs]), if_pos]
    exact List.any_eq_true.mpr ⟨p, mem_domainPages.mpr hp, by simpa using hst⟩

theorem domOn_refuses {ag : Agent} {d cause : Nat} (hm : m.domMay ag = true)
    (h : if fixedDomain d then cause = 1 else m.thm.switching.isSome = true ∧ cause = 2) : m.domOn ag d = m.domRefuse d cause := by
  unfold Mach.domOn
  rw [if_neg (by simp [hm])]
  cases hf : fixedDomain d with
  | true =>
    rw [hf, if_pos rfl] at h
    rw [if_pos rfl, h]
  | false =>
    rw [hf, if_neg (by simp)] at h
    obtain ⟨hs, rfl⟩ := h
    rw [if_neg (by simp), if_pos hs]

/-- OFF of a domain whose pages are all STOPPED. -/
theorem domOff_eq {ag : Agent} {d : Nat} (hm : m.domMay ag = true) (hf : fixedDomain d = false) (hs : m.thm.switching = none)
    (hp : ∀ p, pageDomain p = d → m.pageSt p = .stopped) :
    m.domOff ag d = (((m.each (domainPages d) fun p m => m.setPageSt p .off).domainLoses d).updThm fun t =>
      { t with switching := some (Fin.ofNat 64 d, false) }).touch .pwr := by
  unfold Mach.domOff
  rw [if_neg (by simp [hm]), if_neg (by simp [hf]), if_neg (by simp [hs]), if_neg]
  simp only [List.any_eq_true, not_exists, not_and]
  intro p hmem
  simp [hp p (mem_domainPages.mp hmem)]

/-- What PD_KEY loses when it is switched off. -/
theorem keyDomain_parts {d : Nat} (hd : d = 1) (hb : a.SameBut [.reg] m) (f : Therm → Therm) :
    (((m.domainLoses d).updThm f).touch .pwr).key = { a.key with xport := none, lost := true } ∧
    a.SameBut [.reg, .thm, .key] (((m.domainLoses d).updThm f).touch .pwr) := by
  subst hd
  refine ⟨?_, same_trans (same_mono hb (by simp)) (by simp [Mach.SameBut, Mach.domainLoses])⟩
  rw [Mach.touch_key, ← same_key hb (by simp)]
  rfl

theorem domMay_locked {h : Port} (hl : (m.port.get h).unlocked = false) : m.domMay h.agent = false := by
  cases h <;> exact hl

/-! ### The end of a switch -/

theorem SMap.get_filter_key {α : Type} (d : α) (l : SMap α) (f : Nat → Bool) (k : Nat) :
    SMap.get d (l.filter fun e => f e.1) k = if f k then SMap.get d l k else d := by
  induction l with
  | nil => simp
  | cons e l ih =>
    obtain ⟨j, v⟩ := e
    by_cases hj : k = j
    · subst hj
      cases hf : f k <;> simp [SMap.get, hf, ih]
    · cases hf : f j <;> simp [SMap.get, hf, ih, hj]

/-- The keys of a page's registers, those of each agent among them. -/
def pageOwns (p : Page) (k : Nat) : Bool := k % 0x800000 / 0x1000 == p.base / 0x1000

theorem resetPage_rd (p : Page) (m : Mach) (k : Nat) : (m.resetPage p).rd k = if pageOwns p k then regReset k else m.rd k := by
  have h := SMap.get_filter_key (regReset k) m.reg.r (fun k => !pageOwns p k) k
  refine Eq.trans h ?_
  cases pageOwns p k <;> simp [Mach.rd]

theorem resetPage_hdr (p q : Page) (m : Mach) : (m.resetPage p).hdr q = if q = p then {} else m.hdr q := by
  unfold Mach.resetPage
  dsimp only
  by_cases hq : q = p
  · subst hq
    rw [Mach.hdr_setHdr_same, if_pos rfl]
  · rw [Mach.hdr_setHdr_ne _ _ _ _ hq, if_neg hq]
    rfl

theorem resetPages_rd (l : List Page) (m : Mach) (k : Nat) :
    (m.each l Mach.resetPage).rd k = if l.any fun p => pageOwns p k then regReset k else m.rd k := by
  induction l generalizing m with
  | nil => rfl
  | cons p l ih =>
    rw [each_cons, ih, resetPage_rd, List.any_cons]
    cases pageOwns p k <;> simp

theorem resetPages_hdr (l : List Page) (m : Mach) (q : Page) : (m.each l Mach.resetPage).hdr q = if q ∈ l then {} else m.hdr q := by
  induction l generalizing m with
  | nil => simp [Mach.each]
  | cons p l ih =>
    rw [each_cons, ih, resetPage_hdr]
    by_cases hl : q ∈ l <;> by_cases hq : q = p <;> simp [hl, hq]

theorem resetPages_same (l : List Page) (m : Mach) : m.SameBut [.reg] (m.each l Mach.resetPage) :=
  same_each _ _ (fun p m => by simp [Mach.SameBut, Mach.resetPage]) _

/-- The domain whose switch has ended is on, or off, and no other changes. -/
theorem domOn_set {d : Nat} (x : BitVec 49) (hd : d < 49) : (x ||| BitVec.ofNat 49 (2 ^ d)).getLsbD d = true ∧
    (x &&& ~~~(BitVec.ofNat 49 (2 ^ d))).getLsbD d = false := by
  have hbit : (BitVec.ofNat 49 (2 ^ d)).getLsbD d = true := by
    rw [BitVec.getLsbD_ofNat, Nat.testBit_two_pow_self]
    simp [hd]
  constructor
  · rw [BitVec.getLsbD_or, hbit, Bool.or_true]
  · rw [BitVec.getLsbD_and, BitVec.getLsbD_not, hbit]
    simp

theorem domainOn_parts (d : Nat) (hd : d < 49) (m : Mach) : (m.domainOn d).domainIsOn d = true ∧
    (m.domainOn d).thm.switching = m.thm.switching ∧
    (∀ p, (m.domainOn d).pageSt p = if pageDomain p = d then .stopped else m.pageSt p) ∧
    m.RegsBut [] (m.domainOn d) ∧ m.SameBut [.reg, .thm] (m.domainOn d) := by
  let b := m.updThm fun t => { t with domOn := t.domOn ||| BitVec.ofNat 49 (2 ^ d) }
  have hthm : (m.domainOn d).thm = b.thm := same_thm (setPagesSt_frame (domainPages d) .stopped b).2 (by simp)
  refine ⟨?_, ?_, fun p => domainSt_pageSt d .stopped b p, domainOn_frame ..⟩
  · unfold Mach.domainIsOn
    rw [hthm]
    exact (domOn_set _ hd).1
  · rw [hthm]
    rfl

theorem domainOff_parts (d : Nat) (hd : d < 49) (m : Mach) : (m.domainOff d).domainIsOn d = false ∧
    (m.domainOff d).thm.switching = m.thm.switching ∧
    (∀ p, (m.domainOff d).pageSt p = if pageDomain p = d then .off else m.pageSt p) ∧
    m.SameBut [.reg, .thm] (m.domainOff d) ∧ m.RegsBut [] (m.domainOff d) := by
  let b := m.updThm fun t => { t with domOn := t.domOn &&& ~~~(BitVec.ofNat 49 (2 ^ d)) }
  obtain ⟨hregs, hsame⟩ := setPagesSt_frame (domainPages d) .off b
  have hthm : (m.domainOff d).thm = b.thm := same_thm hsame (by simp)
  refine ⟨?_, ?_, fun p => domainSt_pageSt d .off b p, same_trans (by simp [b, Mach.SameBut]) (same_mono hsame (by simp)), hregs⟩
  · unfold Mach.domainIsOn
    rw [hthm]
    exact (domOn_set _ hd).2
  · rw [hthm]
    rfl

/-- Pages of a domain that come on together have every register at its reset value. -/
theorem domainOn_hdr (d : Nat) (m : Mach) {p : Page} (hp : pageDomain p = d) : (m.domainOn d).hdr p = { m.hdr p with st := .stopped } := by
  have hone (l : List Page) (b : Mach) (h : p ∈ l) : (b.each l fun p m => m.setPageSt p .stopped).hdr p = { b.hdr p with st := .stopped } := by
    induction l generalizing b with
    | nil => simp at h
    | cons q l ih =>
      rw [each_cons]
      by_cases hl : p ∈ l
      · rw [ih _ hl]
        by_cases hq : p = q
        · subst hq
          rw [Mach.setPageSt, Mach.hdr_setHdr_same]
        · rw [Mach.setPageSt, Mach.hdr_setHdr_ne _ _ _ _ hq]
      · have hq : p = q := by simpa [hl] using h
        subst hq
        have hrest (c : Mach) : (c.each l fun p m => m.setPageSt p .stopped).hdr p = c.hdr p := by
          clear ih h
          induction l generalizing c with
          | nil => rfl
          | cons r l ih' =>
            rw [List.mem_cons, not_or] at hl
            rw [each_cons, ih' hl.2, Mach.setPageSt, Mach.hdr_setHdr_ne _ _ _ _ hl.1]
        rw [hrest, Mach.setPageSt, Mach.hdr_setHdr_same]
  unfold Mach.domainOn
  exact hone _ _ (mem_domainPages.mpr hp)

theorem base_whole (p : Page) : p.base % 0x1000 = 0 ∧ p.base < 0x80000 := by
  cases p with
  | port q => cases q <;> simp [Page.base]
  | fch c => simp only [Page.base]; omega
  | drc d => simp only [Page.base]; omega
  | pff n => simp only [Page.base]; omega
  | _ => simp [Page.base]

theorem base_pwr {p : Page} (h : p.base = 0x1C000) : p = .pwr := by
  cases p with
  | port q => cases q <;> simp [Page.base] at h
  | fch c => simp only [Page.base] at h; omega
  | drc d => simp only [Page.base] at h; omega
  | pff n => simp only [Page.base] at h; omega
  | pwr => rfl
  | _ => simp [Page.base] at h

theorem owns_own (p : Page) {off : Nat} (ho : off < 0x1000) : pageOwns p (p.base + off) = true := by
  obtain ⟨hw, hl⟩ := base_whole p
  unfold pageOwns
  exact beq_iff_eq.mpr (by omega)

theorem owns_switches {p : Page} (hp : p ≠ .pwr) : pageOwns p Reg.PWR_SWITCHES = false := by
  obtain ⟨hw, hl⟩ := base_whole p
  unfold pageOwns
  refine beq_eq_false_iff_ne.mpr fun h => hp (base_pwr ?_)
  have hn : Reg.PWR_SWITCHES % 0x800000 / 0x1000 = 0x1C := rfl
  omega

/-- A register of another page than PWR is not PWR_SWITCHES. -/
theorem key_ne_switches {p : Page} {off : Nat} (hp : p ≠ .pwr) (ho : off < 0x1000) : p.base + off ≠ Reg.PWR_SWITCHES := by
  intro h
  have hown := owns_own p ho
  rw [h, owns_switches hp] at hown
  cases hown

/-- A domain that can be switched does not hold PWR. -/
theorem switched_ne_pwr {p : Page} (hp : fixedDomain (pageDomain p) = false) : p ≠ .pwr := by
  rintro rfl
  cases hp

theorem domain13 {p : Page} (h : pageDomain p = 13) : p = .gln := by
  cases p with
  | port q => cases q <;> simp [pageDomain] at h
  | fch c => simp only [pageDomain] at h; omega
  | drc d => simp only [pageDomain] at h; omega
  | gln => rfl
  | _ => simp [pageDomain] at h

theorem touch_hdr_ne (m : Mach) {p q : Page} (h : p ≠ q) : (m.touch q).hdr p = m.hdr p := by
  unfold Mach.touch
  split
  · exact Mach.hdr_setHdr_ne _ _ _ _ h
  · rfl

/-- The count of switches touches no page but PWR's. -/
theorem countSwitch_hdr (m : Mach) {p : Page} (h : p ≠ .pwr) : (m.bump Reg.PWR_SWITCHES).hdr p = m.hdr p := by
  unfold Mach.bump Mach.bumpBy Mach.set
  exact touch_hdr_ne _ h

theorem countSwitch_pageSt (m : Mach) (p : Page) : (m.bump Reg.PWR_SWITCHES).pageSt p = m.pageSt p := Mach.pageSt_of_hdr (Mach.hdr_bump ..)

theorem domComesOn_parts (d : Nat) (hd : d < 49) (m : Mach) : (m.domComesOn d).domainIsOn d = true ∧
    (m.domComesOn d).thm.switching = m.thm.switching ∧
    (∀ p, (m.domComesOn d).pageSt p = if pageDomain p = d then .stopped else m.pageSt p) ∧
    (∀ p, p ≠ .gln → pageDomain p = d → (m.domComesOn d).PageClear p .stopped) ∧
    m.SameBut [.reg, .thm] (m.domComesOn d) := by
  let b := m.each (domainPages d) Mach.resetPage
  have hb : m.SameBut [.reg] b := resetPages_same ..
  obtain ⟨hon, hsw, hpage, hregs, hsame⟩ := domainOn_parts d hd b
  have hst (p : Page) : (b.domainOn d).pageSt p = if pageDomain p = d then .stopped else m.pageSt p := by
    rw [hpage]
    by_cases hp : pageDomain p = d
    · simp [hp]
    · rw [if_neg hp, if_neg hp]
      unfold Mach.pageSt
      rw [resetPages_hdr, if_neg (by rwa [mem_domainPages])]
  have hclear (p : Page) (hp : pageDomain p = d) : (b.domainOn d).PageClear p .stopped := by
    refine ⟨?_, fun off ho => ?_⟩
    · rw [domainOn_hdr d b hp, resetPages_hdr, if_pos (mem_domainPages.mpr hp)]
    · rw [hregs _ (by simp), resetPages_rd, if_pos]
      exact List.any_eq_true.mpr ⟨p, mem_domainPages.mpr hp, owns_own p ho⟩
  have hthm : (b.domainOn d).thm.switching = m.thm.switching := hsw.trans (by rw [same_thm hb (by simp)])
  have hall : m.SameBut [.reg, .thm] (b.domainOn d) := same_trans (same_mono hb (by simp)) hsame
  unfold Mach.domComesOn
  dsimp only
  split
  · rename_i h13
    exact ⟨hon, hthm, hst, fun p hp hpd => absurd (domain13 (hpd.trans h13)) hp, same_trans hall (by simp [b, Mach.SameBut])⟩
  · exact ⟨hon, hthm, hst, fun p _ hp => hclear p hp, hall⟩

theorem domComesOn_switches {d : Nat} (hf : fixedDomain d = false) (m : Mach) : (m.domComesOn d).rd Reg.PWR_SWITCHES = m.rd Reg.PWR_SWITCHES := by
  have hon : ((m.each (domainPages d) Mach.resetPage).domainOn d).rd Reg.PWR_SWITCHES = m.rd Reg.PWR_SWITCHES := by
    obtain ⟨hregs, -⟩ := domainOn_frame d (m.each (domainPages d) Mach.resetPage)
    rw [hregs _ (by simp), resetPages_rd, if_neg]
    simp only [List.any_eq_true, not_exists, not_and, Bool.not_eq_true]
    intro p hp
    exact owns_switches (switched_ne_pwr (by rw [mem_domainPages.mp hp]; exact hf))
  unfold Mach.domComesOn
  dsimp only
  split
  · exact (Mach.rd_wr_ne _ _ _ _ (by decide)).trans hon
  · exact hon

/-- The end of a switch (R351, R353). -/
theorem switchEnd_parts {d : Fin 64} {on : Bool} (hs : m.thm.switching = some (d, on)) (hf : fixedDomain d.val = false) :
    m.switchEnd.thm.switching = none ∧ m.switchEnd.domainIsOn d.val = on ∧
    (∀ p, m.switchEnd.pageSt p = if pageDomain p = d.val then (if on then .stopped else .off) else m.pageSt p) ∧
    (on = true → ∀ p, p ≠ .gln → pageDomain p = d.val → m.switchEnd.PageClear p .stopped) ∧
    m.switchEnd.rdN Reg.PWR_SWITCHES = min 0xFFFFFFFF (m.rdN Reg.PWR_SWITCHES + 1) ∧ m.SameBut [.thm, .reg] m.switchEnd := by
  let b := m.updThm fun t => { t with switching := none }
  have hd : d.val < 49 := by
    unfold fixedDomain at hf
    simp only [Bool.or_eq_false_iff, decide_eq_false_iff_not] at hf
    omega
  have heq : m.switchEnd = (if on then b.domComesOn d.val else b.domainOff d.val).bump Reg.PWR_SWITCHES := by
    unfold Mach.switchEnd
    rw [hs]
  have hbump (u : Mach) : u.SameBut [.reg] (u.bump Reg.PWR_SWITCHES) := sb_bump ..
  have hcount (u : Mach) (h : u.rd Reg.PWR_SWITCHES = b.rd Reg.PWR_SWITCHES) :
      (u.bump Reg.PWR_SWITCHES).rdN Reg.PWR_SWITCHES = min 0xFFFFFFFF (m.rdN Reg.PWR_SWITCHES + 1) := by
    rw [rdN_bump, Mach.rdN, h]
    rfl
  have hall (u : Mach) (h : b.SameBut [.reg, .thm] u) : m.SameBut [.thm, .reg] (u.bump Reg.PWR_SWITCHES) :=
    same_trans (by simp [b, Mach.SameBut]) (same_trans (same_mono h (by simp)) (same_mono (hbump u) (by simp)))
  have hthm (u : Mach) : (u.bump Reg.PWR_SWITCHES).thm = u.thm := same_thm (hbump u) (by simp)
  rw [heq]
  cases on with
  | true =>
    obtain ⟨hon, hsw, hpage, hclear, hsame⟩ := domComesOn_parts d.val hd b
    refine ⟨?_, ?_, fun p => (countSwitch_pageSt ..).trans (hpage p), fun _ p hp hpd => ?_, hcount _ ?_, hall _ hsame⟩
    · rw [hthm]
      exact hsw
    · unfold Mach.domainIsOn
      rw [hthm]
      exact hon
    · have hpwr : p ≠ .pwr := switched_ne_pwr (by rw [hpd]; exact hf)
      obtain ⟨hhdr, hrd⟩ := hclear p hp hpd
      exact ⟨(countSwitch_hdr _ hpwr).trans hhdr, fun off ho => (Mach.rd_bump_ne _ _ _ (key_ne_switches hpwr ho)).trans (hrd off ho)⟩
    · exact domComesOn_switches hf b
  | false =>
    obtain ⟨hoff, hsw, hpage, hsame, hregs⟩ := domainOff_parts d.val hd b
    refine ⟨?_, ?_, fun p => (countSwitch_pageSt ..).trans (hpage p), ?_, hcount _ (hregs _ (by simp)), hall _ hsame⟩
    · rw [if_neg (by simp), hthm]
      exact hsw
    · rw [if_neg (by simp)]
      unfold Mach.domainIsOn
      rw [hthm]
      exact hoff
    · intro h
      cases h

/-! ### PLLs (R359, R407) -/

theorem blockFault_faulted (q : Page) {p : Page} (h : m.pageSt p = .faulted) : (m.blockFault q false).pageSt p = .faulted := by
  have hf : ((m.faulted q false).faultEnds q).settleDev.pageSt p = .faulted := by
    rw [Mach.settleDev_pageSt, Mach.faultEnds_pageSt, faulted_pageSt, h]
    split <;> rfl
  cases hst : m.pageSt q with
  | off => rw [blockFault_idle false (.inl hst)]; exact h
  | stopped => rw [blockFault_idle false (.inr (.inl hst))]; exact h
  | faulted => rw [blockFault_idle false (.inr (.inr hst))]; exact h
  | starting => rw [blockFault_eq false (.inl hst)]; exact hf
  | running => rw [blockFault_eq false (.inr (.inl hst))]; exact hf
  | stopping => rw [blockFault_eq false (.inr (.inr hst))]; exact hf

theorem blockFault_steady (q : Page) (h : a.Steady m) : a.Steady (m.blockFault q false) := by
  have hf : a.Steady ((m.faulted q false).faultEnds q).settleDev :=
    .settleDev (.faultEnds (.trans (.raise (h.setPageSt ..) ..) (faulted_steady ..)) q)
  cases hst : m.pageSt q with
  | off => rw [blockFault_idle false (.inl hst)]; exact h
  | stopped => rw [blockFault_idle false (.inr (.inl hst))]; exact h
  | faulted => rw [blockFault_idle false (.inr (.inr hst))]; exact h
  | starting => rw [blockFault_eq false (.inl hst)]; exact hf
  | running => rw [blockFault_eq false (.inr (.inl hst))]; exact hf
  | stopping => rw [blockFault_eq false (.inr (.inr hst))]; exact hf

/-- Every page of the list that is at work ends FAULTED. -/
theorem blockFaults_faulted (l : List Page) (m : Mach) {p : Page} (hp : p ∈ l)
    (hst : m.pageSt p = .starting ∨ m.pageSt p = .running ∨ m.pageSt p = .stopping) :
    (m.each l fun x m => m.blockFault x false).pageSt p = .faulted := by
  have hkept (l : List Page) (b : Mach) (h : b.pageSt p = .faulted) : (b.each l fun x m => m.blockFault x false).pageSt p = .faulted := by
    induction l generalizing b with
    | nil => exact h
    | cons q l ih => exact ih _ (blockFault_faulted q h)
  induction l generalizing m with
  | nil => simp at hp
  | cons q l ih =>
    rw [each_cons]
    by_cases hq : p = q
    · subst hq
      refine hkept l _ ?_
      rw [blockFault_eq false hst, Mach.settleDev_pageSt, Mach.faultEnds_pageSt, faulted_pageSt, if_pos rfl]
    · have hrest : (m.blockFault q false).pageSt p = m.pageSt p := by
        cases hs : m.pageSt q with
        | off => rw [blockFault_idle false (.inl hs)]
        | stopped => rw [blockFault_idle false (.inr (.inl hs))]
        | faulted => rw [blockFault_idle false (.inr (.inr hs))]
        | starting => rw [blockFault_eq false (.inl hs), Mach.settleDev_pageSt, Mach.faultEnds_pageSt, faulted_pageSt, if_neg hq]
        | running => rw [blockFault_eq false (.inr (.inl hs)), Mach.settleDev_pageSt, Mach.faultEnds_pageSt, faulted_pageSt, if_neg hq]
        | stopping => rw [blockFault_eq false (.inr (.inr hs)), Mach.settleDev_pageSt, Mach.faultEnds_pageSt, faulted_pageSt, if_neg hq]
      exact ih _ ((List.mem_cons.mp hp).resolve_left hq) (by rw [hrest]; exact hst)

theorem setBit_getLsbD {w : Nat} (x : BitVec w) {i j : Nat} (hi : i < w) (b : Bool) :
    (setBit x i b).getLsbD j = if j = i then b else x.getLsbD j := by
  have hbit : (BitVec.ofNat w (2 ^ i)).getLsbD j = decide (j = i) := by
    rw [BitVec.getLsbD_ofNat, Nat.testBit_two_pow]
    by_cases hj : j = i
    · simp [hj, hi]
    · simp [hj, Ne.symm hj]
  have hout (h : w ≤ j) : x.getLsbD j = false := BitVec.getLsbD_of_ge x j h
  unfold setBit
  cases b with
  | true =>
    rw [if_pos rfl, BitVec.getLsbD_or, hbit]
    by_cases hj : j = i <;> simp [hj]
  | false =>
    rw [if_neg (by simp), BitVec.getLsbD_and, BitVec.getLsbD_not, hbit]
    by_cases hj : j = i
    · simp [hj]
    · by_cases hw : j < w
      · simp [hj, hw]
      · simp [hj, hout (Nat.not_lt.mp hw)]

/-- A lock flag that changes is the PLL's own. -/
theorem setLock_locks (p : Pll) (on : Bool) (m : Mach) : (m.setLock p on).dev.locks =
    (if p = .mclk then on else m.dev.mclk, if p = .qclk then on else m.dev.qclk, if p = .aclk then on else m.dev.aclk,
      if p = .twclk then on else m.dev.twclk, match p with | .fclk g => setBit m.dev.fclk g.val on | _ => m.dev.fclk) := by
  cases p <;> rfl

theorem lock_flag {p q : Pll} (x : Bool) : (if p = q then false else x) = (x && p != q) := by
  by_cases h : p = q <;> simp [h]

theorem lock_set {p q : Pll} (x : Bool) : (if p = q then true else x) = (x || p == q) := by
  by_cases h : p = q <;> simp [h]

theorem group_flag (p : Pll) (x : BitVec 8) (g : Fin 8) :
    (match p with | .fclk k => setBit x k.val false | _ => x).getLsbD g = (x.getLsbD g && p != .fclk g) := by
  cases p with
  | fclk k =>
    dsimp only
    rw [setBit_getLsbD _ k.isLt]
    by_cases h : k = g
    · simp [h]
    · have hv : g.val ≠ k.val := fun e => h (Fin.ext e.symm)
      simp [h, hv]
  | _ => simp

theorem group_set (p : Pll) (x : BitVec 8) (g : Fin 8) :
    (match p with | .fclk k => setBit x k.val true | _ => x).getLsbD g = (x.getLsbD g || p == .fclk g) := by
  cases p with
  | fclk k =>
    dsimp only
    rw [setBit_getLsbD _ k.isLt]
    by_cases h : k = g
    · simp [h]
    · have hv : g.val ≠ k.val := fun e => h (Fin.ext e.symm)
      simp [h, hv]
  | _ => simp

theorem unserviced_none (h : m.adm.bg = none) : m.unserviced = true := by
  unfold Mach.unserviced
  rw [h]
  rfl

theorem powerUp_on {i j : Nat} (hi : i < 49) (hj : j = i ∨ m.domainIsOn j = true) : (m.powerUp i).domainIsOn j = true := by
  unfold Mach.powerUp
  by_cases hon : m.domainIsOn i = true
  · rw [if_pos hon]
    rcases hj with rfl | hj
    · exact hon
    · exact hj
  · rw [if_neg hon]
    rcases hj with rfl | hj
    · exact (domainOn_parts j hi m).1
    · let b := m.updThm fun t => { t with domOn := t.domOn ||| BitVec.ofNat 49 (2 ^ i) }
      have hthm : (m.domainOn i).thm = b.thm := same_thm (setPagesSt_frame (domainPages i) .stopped b).2 (by simp)
      unfold Mach.domainIsOn at hj ⊢
      rw [hthm]
      show (m.thm.domOn ||| _).getLsbD j = true
      rw [BitVec.getLsbD_or, hj, Bool.true_or]

/-- The boot ROM powers PD_CXL0, PD_CXL1 and PD_KEY, and start-up is in its step 2. -/
theorem bootGo_powers (h : m.canBoot = true) : m.bootGo.dev.stage = 1 ∧ m.bootGo.domainIsOn 1 = true ∧ m.bootGo.domainIsOn 3 = true ∧
    m.bootGo.domainIsOn 4 = true := by
  have heq : m.bootGo = (((m.powerUp 3).powerUp 4).powerUp 1).updDev fun d => { d with stage := 1 } := if_pos h
  rw [heq]
  have h3 : (m.powerUp 3).domainIsOn 3 = true := powerUp_on (by decide) (.inl rfl)
  have h3' : ((m.powerUp 3).powerUp 4).domainIsOn 3 = true := powerUp_on (by decide) (.inr h3)
  have h4 : ((m.powerUp 3).powerUp 4).domainIsOn 4 = true := powerUp_on (by decide) (.inl rfl)
  exact ⟨rfl, powerUp_on (by decide) (.inl rfl), powerUp_on (by decide) (.inr h3'), powerUp_on (by decide) (.inr h4)⟩

/-- A PLL that loses lock and its count, before the pages that it clocks fault. -/
def Mach.unlocked (p : Pll) (m : Mach) : Mach := (m.setLock p false).bump Reg.CLK_UNLOCK

theorem unlocked_parts (p : Pll) (m : Mach) : (m.unlocked p).dev = (m.setLock p false).dev ∧
    (m.unlocked p).rdN Reg.CLK_UNLOCK = min 0xFFFFFFFF (m.rdN Reg.CLK_UNLOCK + 1) ∧ (∀ x, (m.unlocked p).pageSt x = m.pageSt x) ∧
    m.Steady (m.unlocked p) :=
  ⟨Mach.bump_dev .., rdN_bump .., fun _ => Mach.pageSt_of_hdr (Mach.hdr_bump ..), Mach.Steady.bump (Mach.Steady.refl m).parts _⟩

theorem blockFaults_clocked (l : List Page) (h : a.Clocked m) : a.Clocked (m.each l fun x m => m.blockFault x false) :=
  h.each _ _ fun x _ h => h.blockFault x false

theorem blockFaults_steady (l : List Page) (h : a.Steady m) : a.Steady (m.each l fun x m => m.blockFault x false) :=
  h.each _ _ fun x _ h => blockFault_steady x h

theorem pllLoss_core {p : Pll} (hp : p = .mclk ∨ p = .qclk ∨ p = .aclk) :
    m.pllLoss p = ((m.unlocked p).fail 7).each (pllPages p) fun x m => m.blockFault x false := by
  rcases hp with rfl | rfl | rfl <;> rfl

theorem pllLoss_pages {p : Pll} (hp : p = .twclk ∨ ∃ g, p = .fclk g) :
    m.pllLoss p = (m.unlocked p).each (pllPages p) fun x m => m.blockFault x false := by
  rcases hp with rfl | ⟨g, rfl⟩ <;> rfl

end

/-- Settles O56: each command on a domain is one equation, and what the faults of a PLL's pages leave of the clocks is `Mach.Clocked`. What a
domain loses is the model's choice where log entries 79, 80, 81 and 169 say so. -/
theorem powerAndClocks : Obligations.PowerAndClocks := by
  refine ⟨?off, ?on, ?isOn, ?refuse, ?locked, ?idle, ?ends, ?core, ?pages, ?lock, ?boot⟩
  case off =>
    intro s ag d hm hf hs hp hc
    let b := s.m.each (domainPages d.val) fun p m => m.setPageSt p .off
    have hb : s.m.SameBut [.reg] b := (setPagesSt_frame ..).2
    have hbc : (b.domainLoses d.val).Calm := calm_domainLoses (calm_of_same hc hb) _
    refine completes_mail _ rfl (domOff_eq hm hf hs hp) ?_ ⟨fun p => ?_, ?_, fun h1 => ?_⟩
    · exact (Mach.Steady.touch (Mach.Steady.refl _).parts .pwr).calm hbc
    · rw [Mach.pageSt_touch]
      exact (domainLoses_pageSt ..).trans (domainSt_pageSt ..)
    · rw [Mach.touch_thm]
      exact congrArg (fun x => some (x, false)) (Fin.ext (Nat.mod_eq_of_lt d.isLt))
    · exact keyDomain_parts h1 hb _
  case on =>
    intro s ag d hm hf hs hon
    have heq : s.m.domOn ag d.val = (s.m.updThm fun t => { t with switching := some (d, true) }).touch .pwr := by
      unfold Mach.domOn
      rw [if_neg (by simp [hm]), if_neg (by simp [hf]), if_neg (by simp [hs]), if_neg (by simp [hon])]
      rw [show Fin.ofNat 64 d.val = d from Fin.ext (Nat.mod_eq_of_lt d.isLt)]
    exact completes_eq _ rfl heq ⟨Mach.touch_thm .., fun _ _ => Mach.rd_touch .., by simp [Mach.SameBut]⟩
  case isOn =>
    intro s ag d hm hf hs hon
    refine completes_eq (Mach.domOn ag d.val) rfl ?_ rfl
    unfold Mach.domOn
    rw [if_neg (by simp [hm]), if_neg (by simp [hf]), if_neg (by simp [hs]), if_pos hon]
  case refuse =>
    rintro s ag d c cause hm h hc
    have hcause : cause < 4 := by
      rcases h with ⟨-, h⟩ | ⟨-, -, -, -, rfl⟩
      · split at h <;> omega
      · omega
    obtain ⟨hreg, herr, hpage, hsame, hst⟩ := domRefuse_parts s.m d.isLt hcause
    rcases h with ⟨rfl | rfl, h⟩ | ⟨rfl, h⟩
    · exact completes_mail _ rfl (domOff_refuses hm (.inl h)) (hst.calm hc) ⟨hreg, herr, hpage, hsame⟩
    · exact completes_eq _ rfl (domOn_refuses hm h) ⟨hreg, herr, hpage, hsame⟩
    · exact completes_mail _ rfl (domOff_refuses hm (.inr h)) (hst.calm hc) ⟨hreg, herr, hpage, hsame⟩
  case locked =>
    rintro s h d c hl (rfl | rfl) hc
    · have heq : s.m.domOff h.agent d.val = s.m.bump (portReg h Reg.PORT_WDROP) := by
        unfold Mach.domOff
        rw [if_pos (by rw [domMay_locked hl]; rfl), wdrop_port]
      exact completes_mail _ rfl heq (((Mach.Steady.refl s.m).bump _).calm hc) ⟨rdN_bump .., rs_bump .., sb_bump ..⟩
    · have heq : s.m.domOn h.agent d.val = s.m.bump (portReg h Reg.PORT_WDROP) := by
        unfold Mach.domOn
        rw [if_pos (by rw [domMay_locked hl]; rfl), wdrop_port]
      exact completes_eq _ rfl heq ⟨rdN_bump .., rs_bump .., sb_bump ..⟩
  case idle =>
    intro s hs
    refine completes_eq Mach.switchEnd rfl ?_ rfl
    unfold Mach.switchEnd
    rw [hs]
  case ends =>
    intro s d on hs hf
    exact completes_eq Mach.switchEnd rfl rfl (switchEnd_parts hs hf)
  case core =>
    intro s p hfail hbg hp hc
    obtain ⟨hdev, hcount, -, hst⟩ := unlocked_parts p s.m
    have hnot : (s.m.unlocked p).dev.st ≠ .failed := by
      rw [hdev]
      cases p <;> exact hfail
    obtain ⟨hfailed, hcause⟩ := fail_dev' _ 7 hnot
    have hkept := blockFaults_clocked (pllPages p) (Mach.Clocked.refl ((s.m.unlocked p).fail 7))
    obtain ⟨hstays, hstays'⟩ := hkept.failed hfailed
    have hall := ((Mach.Clocked.refl (s.m.unlocked p)).fail 7).trans hkept
    have hlocks := hall.locks.trans ((congrArg Dev.locks hdev).trans (setLock_locks ..))
    refine completes_pageWork (Mach.pllLoss p) rfl (unserviced_none hbg) hc ?_ ?_
    · rw [pllLoss_core hp]
      exact blockFaults_steady _ (hst.fail 7)
    · rw [pllLoss_core hp]
      simp only [Dev.locks, Prod.mk.injEq] at hlocks
      obtain ⟨hm, hq, ha, -, -⟩ := hlocks
      refine ⟨hstays, hstays'.trans hcause, hm.trans (lock_flag ..), hq.trans (lock_flag ..), ha.trans (lock_flag ..), ?_⟩
      unfold Mach.rdN
      rw [hall.count]
      exact hcount
  case pages =>
    intro s p hbg hp hc
    obtain ⟨hdev, hcount, hpage, hst⟩ := unlocked_parts p s.m
    have hall := blockFaults_clocked (pllPages p) (Mach.Clocked.refl (s.m.unlocked p))
    have hlocks := hall.locks.trans ((congrArg Dev.locks hdev).trans (setLock_locks ..))
    refine completes_pageWork (Mach.pllLoss p) rfl (unserviced_none hbg) hc ?_ ?_
    · rw [pllLoss_pages hp]
      exact blockFaults_steady _ hst
    · rw [pllLoss_pages hp]
      simp only [Dev.locks, Prod.mk.injEq] at hlocks
      obtain ⟨-, -, -, ht, hf⟩ := hlocks
      refine ⟨ht.trans (lock_flag ..), fun g => (congrArg (BitVec.getLsbD · g.val) hf).trans (group_flag ..), fun x hx hat => ?_, ?_⟩
      · exact blockFaults_faulted _ _ hx (by rw [hpage]; exact hat)
      · unfold Mach.rdN
        rw [hall.count]
        exact hcount
  case lock =>
    intro s p hb
    have heq : (s.m.setLock p true).bootGo = s.m.setLock p true := by
      unfold Mach.bootGo
      rw [if_neg (by simp [hb])]
    have hlocks := setLock_locks p true s.m
    simp only [Dev.locks, Prod.mk.injEq] at hlocks
    obtain ⟨hm, hq, ha, ht, hf⟩ := hlocks
    refine completes_eq (fun m => (m.setLock p true).bootGo) rfl heq ⟨hm.trans (lock_set ..), hq.trans (lock_set ..), ha.trans (lock_set ..),
      ht.trans (lock_set ..), fun g => (congrArg (BitVec.getLsbD · g.val) hf).trans (group_set ..), ?_, ?_⟩
    · cases p <;> rfl
    · simp [Mach.SameBut, Mach.setLock]
  case boot =>
    intro s p hb
    obtain ⟨hstage, h1, h3, h4⟩ := bootGo_powers hb
    obtain ⟨-, hsame, -⟩ := bootGo_frame (s.m.setLock p true)
    exact completes_eq (fun m => (m.setLock p true).bootGo) rfl rfl
      ⟨hstage, h1, h3, h4, same_trans (by simp [Mach.SameBut, Mach.setLock]) (same_mono hsame (by simp))⟩

end Sys2Proof.Machine

/-! The headland (O53): what a record that is appended leaves, the writer's order (R288), and what durability does (R281, R286, R298). -/

namespace Sys2Proof.Machine

-- One proof at a time: proofs that wait for each other would each hold a thread and its stack.
set_option Elab.async false

section
variable {m : Mach}

/-! ### Records in the open furrow -/

theorem hfur_setHfur_same (m : Mach) (k : Nat) (x : HFur) : (m.setHfur k x).hfur k = x := SMap.get_set_same ..

theorem hfur_setHfur_ne (m : Mach) {k j : Nat} (x : HFur) (h : j ≠ k) : (m.setHfur k x).hfur j = m.hfur j := SMap.get_set_ne _ _ _ _ _ _ h

/-- A record takes its room in the open furrow k and its place in the log. -/
def Mach.logged (k id : Nat) (b : HBody) (m : Mach) : Mach :=
  (m.setHfur k { m.hfur k with used := (m.hfur k).used + m.recCws b }).updHdl fun h => { h with
    log := h.log ++ [{ id := id, body := b, epoch := h.epoch + 1, flying := true, durable := false, furs := [k], pos := m.hdl.nextPos }]
    nextPos := m.hdl.nextPos + 1 }

/-- A record with room in the open furrow, logged and on its way to its channel through Q1. -/
def Mach.appended (k id : Nat) (b : HBody) (m : Mach) : Mach :=
  (m.logged k id b).queueOp ((m.logged k id b).hdlChan k) ⟨(k / 128) % 64, Nat.mod_lt _ (by omega)⟩ .q1 (.headland id false)

theorem hdlRoom_open {k n fuel : Nat} (ho : m.hdl.opn = some k) (hr : (m.hfur k).used + n ≤ m.hfurCap (m.hfur k)) :
    m.hdlRoom (fuel + 1) n = some (m.setHfur k { m.hfur k with used := (m.hfur k).used + n }, [k]) := by
  unfold Mach.hdlRoom
  rw [ho]
  dsimp only
  rw [if_pos (by omega)]

theorem append_open {k id : Nat} {b : HBody} (ho : m.hdl.opn = some k)
    (hr : (m.hfur k).used + m.recCws b ≤ m.hfurCap (m.hfur k)) : m.append id b = some (m.appended k id b) := by
  unfold Mach.append
  rw [hdlRoom_open ho hr]
  rfl

theorem appended_same (m : Mach) (k id : Nat) (b : HBody) : m.SameBut [.hdl, .fl] (m.appended k id b) := by
  simp [Mach.SameBut, Mach.appended, Mach.logged, Mach.queueOp, Mach.setHfur]

theorem appended_hfur (m : Mach) (k id : Nat) (b : HBody) :
    (m.appended k id b).hfur k = { m.hfur k with used := (m.hfur k).used + m.recCws b } := hfur_setHfur_same ..

theorem two_logged {x y z : List HRec} {r r' : HRec} (h : y = x ++ [r]) (h' : z = y ++ [r']) : z = x ++ [r, r'] := by
  rw [h', h, List.append_assoc]
  rfl

/-- Another record has room in the furrow that has room for both. -/
theorem appended_room {k id n : Nat} {b : HBody} (hr : (m.hfur k).used + m.recCws b + n ≤ m.hfurCap (m.hfur k)) :
    ((m.appended k id b).hfur k).used + n ≤ (m.appended k id b).hfurCap ((m.appended k id b).hfur k) := by
  rw [appended_hfur]
  exact hr

theorem appended_ops (m : Mach) (k id : Nat) (b : HBody) :
    ∃ o, (m.appended k id b).fl.ops = m.fl.ops ++ [o] ∧ o.kind = .headland id false ∧ o.req = .q1 ∧ o.issued = false :=
  ⟨_, rfl, rfl, rfl, rfl⟩

/-! ### Roots (R286) -/

/-- The root that goes behind a segment record, or behind none. -/
def Mach.rootFor (s : Option Nat) (m : Mach) : HBody := .root { m.rootNow with segId := s }

/-- A root that has room in the open furrow k. -/
def Mach.rooted (k : Nat) (s : Option Nat) (m : Mach) : Mach :=
  (((m.updHdl fun h => { h with nextRec := m.hdl.nextRec + 1 }).appended k m.hdl.nextRec (m.rootFor s)).updHdl fun h =>
    { h with epoch := m.hdl.epoch + 1, needRoot := false }).touch .hdl

theorem appendRootFor_open {k : Nat} (s : Option Nat) (ho : m.hdl.opn = some k) (hr : (m.hfur k).used + 1 ≤ m.hfurCap (m.hfur k)) :
    m.appendRootFor s = m.rooted k s := by
  have happ : (m.updHdl fun h => { h with nextRec := m.hdl.nextRec + 1 }).append m.hdl.nextRec (m.rootFor s) =
      some ((m.updHdl fun h => { h with nextRec := m.hdl.nextRec + 1 }).appended k m.hdl.nextRec (m.rootFor s)) := append_open ho hr
  unfold Mach.appendRootFor
  dsimp only
  rw [show HBody.root { m.rootNow with segId := s } = m.rootFor s from rfl, happ]
  rfl

theorem rooted_same (m : Mach) (k : Nat) (s : Option Nat) : m.SameBut [.hdl, .fl, .reg] (m.rooted k s) := by
  have h := appended_same (m.updHdl fun h => { h with nextRec := m.hdl.nextRec + 1 }) k m.hdl.nextRec (m.rootFor s)
  exact same_trans (by simp [Mach.SameBut]) (same_trans (same_mono h (by simp)) (by simp [Mach.SameBut, Mach.rooted]))

theorem rooted_facts (m : Mach) (k : Nat) (s : Option Nat) :
    (m.rooted k s).hdl.log = m.hdl.log ++
      [{ id := m.hdl.nextRec, body := m.rootFor s, epoch := m.hdl.epoch + 1, flying := true, durable := false, furs := [k], pos := m.hdl.nextPos }] ∧
    (m.rooted k s).hdl.epoch = m.hdl.epoch + 1 ∧ (m.rooted k s).hdl.needRoot = false ∧ (m.rooted k s).hdl.nextRec = m.hdl.nextRec + 1 ∧
    (m.rooted k s).hdl.nextPos = m.hdl.nextPos + 1 ∧ (m.rooted k s).hdl.seg = m.hdl.seg ∧ (m.rooted k s).hdl.sinceDir = m.hdl.sinceDir ∧
    (m.rooted k s).hdl.want = m.hdl.want ∧ (m.rooted k s).hdl.img = m.hdl.img ∧
    (m.rooted k s).hfur k = { m.hfur k with used := (m.hfur k).used + 1 } := by
  have hh : (m.rooted k s).hdl = { (((m.updHdl fun h => { h with nextRec := m.hdl.nextRec + 1 }).appended k m.hdl.nextRec (m.rootFor s))).hdl with
      epoch := m.hdl.epoch + 1, needRoot := false } := Mach.touch_hdl ..
  have hfur := appended_hfur (m.updHdl fun h => { h with nextRec := m.hdl.nextRec + 1 }) k m.hdl.nextRec (m.rootFor s)
  refine ⟨congrArg Headland.log hh, congrArg Headland.epoch hh, congrArg Headland.needRoot hh, congrArg Headland.nextRec hh,
    congrArg Headland.nextPos hh, (congrArg Headland.seg hh).trans rfl, (congrArg Headland.sinceDir hh).trans rfl,
    (congrArg Headland.want hh).trans rfl, (congrArg Headland.img hh).trans rfl,
    Eq.trans ?_ hfur⟩
  exact congrArg (fun h : Headland => SMap.get {} h.fur k) hh

theorem rooted_rd64 (m : Mach) (k : Nat) (s : Option Nat) (j : Nat) : (m.rooted k s).rd64 j = m.rd64 j := by
  have hreg := same_reg (appended_same (m.updHdl fun h => { h with nextRec := m.hdl.nextRec + 1 }) k m.hdl.nextRec (m.rootFor s)) (by simp)
  unfold Mach.rooted
  rw [Mach.rd64_touch]
  exact rd64_of_c64 (congrArg Regs.c64 hreg) j

theorem rooted_ops (m : Mach) (k : Nat) (s : Option Nat) :
    ∃ o, (m.rooted k s).fl.ops = m.fl.ops ++ [o] ∧ o.kind = .headland m.hdl.nextRec false ∧ o.req = .q1 ∧ o.issued = false :=
  ⟨_, congrArg Flash.ops (Mach.touch_fl ..), rfl, rfl, rfl⟩

/-! ### The writer's order (R288) -/

theorem volProgress_idle (h : ∀ v, (m.volu v).op = none ∨ (m.volu v).worked = true) : m.volProgress = m := by
  unfold Mach.volProgress
  split
  · refine each_id _ _ _ fun v _ => ?_
    unfold Mach.volWork
    dsimp only
    rw [if_pos]
    rcases h v with h | h <;> simp [h]
  · rfl

theorem replace_none (h : ∀ r ∈ m.hdl.log, r.flying = true → m.recQueued r.id = true) :
    (m.hdl.log.find? fun r => r.flying && !m.recQueued r.id) = none := by
  refine List.find?_eq_none.mpr fun r hr hmine => ?_
  simp only [Bool.and_eq_true, Bool.not_eq_true'] at hmine
  rw [h r hr hmine.1] at hmine
  exact Bool.noConfusion hmine.2

theorem headlandWrite_down (h : m.hdlUp = false) : m.headlandWrite = m := by
  unfold Mach.headlandWrite
  rw [if_pos (by simp [h])]

theorem rewrite_none (hw : m.hdlSegs = false ∨ m.rewriteSeg = none) :
    (if m.hdlSegs = true then m.rewriteSeg.filter m.imageable else none) = none := by
  rcases hw with h | h
  · rw [if_neg (by simp [h])]
  · rw [h]
    exact ite_self _

section
variable (hu : m.hdlUp = true) (hq : ∀ r ∈ m.hdl.log, r.flying = true → m.recQueued r.id = true)
include hu hq

theorem headlandWrite_root (hn : m.hdl.needRoot = true) : m.headlandWrite = m.appendRoot := by
  unfold Mach.headlandWrite
  rw [if_neg (by simp [hu]), replace_none hq]
  dsimp only
  rw [if_pos hn]

variable (hn : m.hdl.needRoot = false) (hw : m.hdlSegs = false ∨ m.rewriteSeg = none)
include hn hw

/-- The first record of those that go ahead of segments. -/
theorem headlandWrite_first {w : Nat × HBody} (hf : (m.hdl.want.find? fun w => w.2.first && (m.hdlSegs || !w.2.isErase)) = some w) :
    m.headlandWrite = m.appendWant w := by
  unfold Mach.headlandWrite
  rw [if_neg (by simp [hu]), replace_none hq]
  dsimp only
  rw [if_neg (by simp [hn]), rewrite_none hw]
  dsimp only
  rw [hf]

variable (hf : (m.hdl.want.find? fun w => w.2.first && (m.hdlSegs || !w.2.isErase)) = none) (hl : m.hdlLow = false)
include hf hl

/-- A record that goes behind them. -/
theorem headlandWrite_later {w : Nat × HBody} (hs : (m.hdl.want.find? fun w => !w.2.first) = some w) : m.headlandWrite = m.appendWant w := by
  unfold Mach.headlandWrite
  rw [if_neg (by simp [hu]), replace_none hq]
  dsimp only
  rw [if_neg (by simp [hn]), rewrite_none hw]
  dsimp only
  rw [hf]
  dsimp only
  rw [if_neg (by simp [hl]), hs]

/-- The dirty segment of lowest covered FSN. -/
theorem headlandWrite_segment {sg : Nat} (hs : (m.hdl.want.find? fun w => !w.2.first) = none) (hsegs : m.hdlSegs = true)
    (hscrub : m.scrubNext = none) (hdir : m.hdl.sinceDir < m.rdN Reg.HDL_DIRINT) (hd : m.nextDirty = some sg) :
    m.headlandWrite = m.appendSeg sg false := by
  unfold Mach.headlandWrite
  rw [if_neg (by simp [hu]), replace_none hq]
  dsimp only
  rw [if_neg (by simp [hn]), rewrite_none hw]
  dsimp only
  rw [hf]
  dsimp only
  rw [if_neg (by simp [hl]), hs]
  dsimp only
  rw [if_neg (by simp [hsegs]), hscrub]
  dsimp only
  rw [if_neg (by simp [Nat.not_le.mpr hdir]), hd]

end

/-! ### Records that were asked for -/

/-- A record of those that go ahead of segments leaves nothing but its place in the log. -/
theorem appendWant_first {k id : Nat} {b : HBody} (hb : b.first = true) (ho : m.hdl.opn = some k)
    (hr : (m.hfur k).used + m.recCws b ≤ m.hfurCap (m.hfur k)) :
    (m.appendWant (id, b)).hdl = { (m.appended k id b).hdl with want := m.hdl.want.filter fun w => w.1 != id } ∧
    (m.appendWant (id, b)).fl = (m.appended k id b).fl ∧ m.SameBut [.hdl, .fl, .reg] (m.appendWant (id, b)) := by
  have happ := append_open (id := id) ho hr
  have hs := appended_same m k id b
  let u := (m.appended k id b).updHdl fun h => { h with want := h.want.filter fun x => x.1 != id }
  have hu : u.hdl = { (m.appended k id b).hdl with want := m.hdl.want.filter fun w => w.1 != id } := rfl
  have hplain (he : m.appendWant (id, b) = u) : (m.appendWant (id, b)).hdl = u.hdl ∧ (m.appendWant (id, b)).fl = (m.appended k id b).fl ∧
      m.SameBut [.hdl, .fl, .reg] (m.appendWant (id, b)) := by
    rw [he]
    exact ⟨rfl, rfl, same_trans (same_mono hs (by simp)) (by simp [u, Mach.SameBut])⟩
  rw [← hu]
  cases b with
  | provpar x =>
    have heq : m.appendWant (id, .provpar x) = u.bump Reg.ECC_PROVREC := by
      unfold Mach.appendWant
      dsimp only
      rw [happ]
    rw [heq]
    exact ⟨Mach.bump_hdl .., Mach.bump_fl .., same_trans (same_mono hs (by simp)) (by simp [u, Mach.SameBut])⟩
  | furrowOpen f n p l a => exact hplain (by unfold Mach.appendWant; dsimp only; rw [happ])
  | eraseBegin f w => exact hplain (by unfold Mach.appendWant; dsimp only; rw [happ])
  | dealloc v x n w => exact hplain (by unfold Mach.appendWant; dsimp only; rw [happ])
  | poison v x w => exact hplain (by unfold Mach.appendWant; dsimp only; rw [happ])
  | nonce k e h => exact hplain (by unfold Mach.appendWant; dsimp only; rw [happ])
  | _ => cases hb

/-- A DEFINITION that is appended, and the image that later roots take up. -/
def Mach.defined (k id : Nat) (m : Mach) : Mach :=
  (m.appended k id (.definition m.defnNow)).updHdl fun h => { h with
    want := h.want.filter fun x => x.1 != id
    img := { h.img with defn := m.defnNow, map := freshMap h.img.defn m.defnNow h.img.map } }

theorem defined_facts (m : Mach) (k id : Nat) : (m.defined k id).hdl.log = m.hdl.log ++
      [{ id := id, body := .definition m.defnNow, epoch := m.hdl.epoch + 1, flying := true, durable := false, furs := [k], pos := m.hdl.nextPos }] ∧
    (m.defined k id).hdl.epoch = m.hdl.epoch ∧ (m.defined k id).hdl.want = m.hdl.want.filter (fun w => w.1 != id) ∧
    (m.defined k id).hdl.img.defn = m.defnNow ∧ m.SameBut [.hdl, .fl] (m.defined k id) := by
  have hs := appended_same m k id (.definition m.defnNow)
  have hlog : (m.appended k id (.definition m.defnNow)).hdl.log = m.hdl.log ++
      [{ id := id, body := .definition m.defnNow, epoch := m.hdl.epoch + 1, flying := true, durable := false, furs := [k], pos := m.hdl.nextPos }] := rfl
  have hepoch : (m.appended k id (.definition m.defnNow)).hdl.epoch = m.hdl.epoch := rfl
  have hwant : (m.appended k id (.definition m.defnNow)).hdl.want = m.hdl.want := rfl
  unfold Mach.defined
  generalize m.appended k id (.definition m.defnNow) = u at *
  generalize m.defnNow = d at *
  exact ⟨hlog, hepoch, congrArg (List.filter _) hwant, rfl, same_trans hs (by simp [Mach.SameBut])⟩

/-- A DEFINITION has a root behind it. -/
theorem appendWant_definition {k id : Nat} (d : Defn) (ho : m.hdl.opn = some k) (hr : (m.hfur k).used + 2 ≤ m.hfurCap (m.hfur k)) :
    m.appendWant (id, .definition d) = (m.defined k id).rooted k none := by
  have happ : m.append id (.definition m.defnNow) = some (m.appended k id (.definition m.defnNow)) :=
    append_open ho (show (m.hfur k).used + 1 ≤ _ by omega)
  have hroom := appended_room (m := m) (k := k) (id := id) (b := .definition m.defnNow) (n := 1) (show (m.hfur k).used + 1 + 1 ≤ _ by omega)
  have hroot : (m.defined k id).appendRoot = (m.defined k id).rooted k none := appendRootFor_open none ho hroom
  rw [← hroot]
  unfold Mach.appendWant
  dsimp only
  rw [happ]
  rfl

/-! ### Segments (R284, R286) -/

/-- The image of a segment is all that changes of the headland. -/
theorem imageSeg_facts (s pos : Nat) (m : Mach) : (m.imageSeg s pos).hdl.log = m.hdl.log ∧ (m.imageSeg s pos).hdl.epoch = m.hdl.epoch ∧
    (m.imageSeg s pos).hdl.seg = m.hdl.seg ∧ (m.imageSeg s pos).hdl.sinceDir = m.hdl.sinceDir ∧ (m.imageSeg s pos).hdl.opn = m.hdl.opn ∧
    (m.imageSeg s pos).hdl.fur = m.hdl.fur ∧ m.SameBut [.hdl] (m.imageSeg s pos) := by
  unfold Mach.imageSeg
  split
  · exact ⟨rfl, rfl, rfl, rfl, rfl, rfl, by simp [Mach.SameBut]⟩
  · exact ⟨rfl, rfl, rfl, rfl, rfl, rfl, by simp [Mach.SameBut]⟩

/-- A segment that has been written is clean, and counts towards the next DIRECTORY. -/
def Mach.segClean (s chain : Nat) (m : Mach) : Mach :=
  m.updHdl fun h => { h with
    seg := SMap.set {} h.seg s { dirty := false, cov := 0, chain := chain, full := true }
    sinceDir := h.sinceDir + 1 }

theorem segClean_facts (s chain : Nat) (m : Mach) : (m.segClean s chain).hdl.log = m.hdl.log ∧ (m.segClean s chain).hdl.epoch = m.hdl.epoch ∧
    (m.segClean s chain).hdl.seg = SMap.set {} m.hdl.seg s { dirty := false, cov := 0, chain := chain, full := true } ∧
    (m.segClean s chain).hdl.sinceDir = m.hdl.sinceDir + 1 ∧ (m.segClean s chain).hdl.opn = m.hdl.opn ∧
    (m.segClean s chain).hdl.fur = m.hdl.fur ∧ m.SameBut [.hdl] (m.segClean s chain) :=
  ⟨rfl, rfl, rfl, rfl, rfl, rfl, by simp [Mach.segClean, Mach.SameBut]⟩

/-- A segment record in the open furrow, under a new number. -/
def Mach.segLogged (k s : Nat) (full : Bool) (l : List (Nat × BitVec 40)) (m : Mach) : Mach :=
  (m.updHdl fun h => { h with nextRec := m.hdl.nextRec + 1 }).appended k m.hdl.nextRec (.seg s full l)

theorem segLogged_facts (m : Mach) (k s : Nat) (full : Bool) (l : List (Nat × BitVec 40)) :
    (m.segLogged k s full l).hdl.log = m.hdl.log ++
      [{ id := m.hdl.nextRec, body := .seg s full l, epoch := m.hdl.epoch + 1, flying := true, durable := false, furs := [k], pos := m.hdl.nextPos }] ∧
    (m.segLogged k s full l).hdl.epoch = m.hdl.epoch ∧ (m.segLogged k s full l).hdl.seg = m.hdl.seg ∧
    (m.segLogged k s full l).hdl.sinceDir = m.hdl.sinceDir ∧ (m.segLogged k s full l).hdl.opn = m.hdl.opn ∧
    (m.segLogged k s full l).hfur k = { m.hfur k with used := (m.hfur k).used + m.recCws (.seg s full l) } ∧
    m.SameBut [.hdl, .fl] (m.segLogged k s full l) :=
  ⟨rfl, rfl, rfl, rfl, rfl, appended_hfur (m.updHdl fun h => { h with nextRec := m.hdl.nextRec + 1 }) ..,
    same_trans (by simp [Mach.SameBut]) (appended_same ..)⟩

/-- A segment record that is appended, with its image and its count. -/
def Mach.segmented (k s : Nat) (full : Bool) (chain : Nat) (l : List (Nat × BitVec 40)) (m : Mach) : Mach :=
  (((m.segLogged k s full l).imageSeg s m.hdl.nextPos).segClean s chain).bump64 Reg.HDL_SEGWR_LO

theorem segmented_facts (m : Mach) (k s : Nat) (full : Bool) (chain : Nat) (l : List (Nat × BitVec 40)) :
    (m.segmented k s full chain l).hdl.log = m.hdl.log ++
      [{ id := m.hdl.nextRec, body := .seg s full l, epoch := m.hdl.epoch + 1, flying := true, durable := false, furs := [k], pos := m.hdl.nextPos }] ∧
    (m.segmented k s full chain l).hdl.epoch = m.hdl.epoch ∧
    (m.segmented k s full chain l).hdl.seg = SMap.set {} m.hdl.seg s { dirty := false, cov := 0, chain := chain, full := true } ∧
    (m.segmented k s full chain l).hdl.sinceDir = m.hdl.sinceDir + 1 ∧ (m.segmented k s full chain l).hdl.opn = m.hdl.opn ∧
    (m.segmented k s full chain l).hfur k = { m.hfur k with used := (m.hfur k).used + m.recCws (.seg s full l) } ∧
    (m.segmented k s full chain l).rd64 Reg.HDL_SEGWR_LO = m.rd64 Reg.HDL_SEGWR_LO + 1 ∧
    m.SameBut [.hdl, .fl, .reg] (m.segmented k s full chain l) := by
  obtain ⟨hlog, hepoch, hseg, hsince, hopn, hfur, hsame⟩ := segLogged_facts m k s full l
  unfold Mach.segmented
  generalize m.segLogged k s full l = a at *
  obtain ⟨hlog', hepoch', hseg', hsince', hopn', hfur', hsame'⟩ := imageSeg_facts s m.hdl.nextPos a
  generalize a.imageSeg s m.hdl.nextPos = b at *
  obtain ⟨hlog'', hepoch'', hseg'', hsince'', hopn'', hfur'', hsame''⟩ := segClean_facts s chain b
  generalize b.segClean s chain = c at *
  have hreg : c.reg = m.reg := by rw [same_reg hsame'' (by simp), same_reg hsame' (by simp), same_reg hsame (by simp)]
  have hc : (c.bump64 Reg.HDL_SEGWR_LO).hdl = c.hdl := Mach.bump64_hdl ..
  have hall : m.SameBut [.hdl, .fl, .reg] c := same_trans (same_mono hsame (by simp)) (same_trans (same_mono hsame' (by simp)) (same_mono hsame'' (by simp)))
  refine ⟨?_, ?_, ?_, ?_, ?_, ?_, ?_, same_trans hall (by simp [Mach.SameBut])⟩
  · rw [hc, hlog'', hlog', hlog]
  · rw [hc, hepoch'', hepoch', hepoch]
  · rw [hc, hseg'', hseg', hseg]
  · rw [hc, hsince'', hsince', hsince]
  · rw [hc, hopn'', hopn', hopn]
  · rw [← hfur]
    unfold Mach.hfur
    rw [hc, hfur'', hfur']
  · rw [show (c.bump64 Reg.HDL_SEGWR_LO).rd64 Reg.HDL_SEGWR_LO = c.rd64 Reg.HDL_SEGWR_LO + 1 from rd64_bump64By_same c _ 1]
    unfold Mach.rd64
    rw [hreg]

/-- A dirty segment is written as a SEG_DELTA or a SEG_FULL, with its root behind it. -/
theorem appendSeg_open {k s : Nat} (ho : m.hdl.opn = some k) (hr : ∀ full l, l = (if s < m.mapSegs then m.segDelta s else []) →
    (m.hfur k).used + m.recCws (.seg s full l) + 1 ≤ m.hfurCap (m.hfur k)) :
    ∃ full chain l, m.appendSeg s false = ((m.segmented k s full chain l).rooted k (some s)).observeWindow := by
  unfold Mach.appendSeg
  extract_lets x l bytes delta id pos
  have hroom := hr (!delta) l rfl
  have happ : (m.updHdl fun h => { h with nextRec := id + 1 }).append id (.seg s (!delta) l) = some (m.segLogged k s (!delta) l) :=
    append_open (m := m.updHdl fun h => { h with nextRec := id + 1 }) ho
      (show (m.hfur k).used + m.recCws (.seg s (!delta) l) ≤ m.hfurCap (m.hfur k) by omega)
  rw [happ]
  refine ⟨!delta, if delta then x.chain + bytes else 0, l, congrArg Mach.observeWindow ?_⟩
  obtain ⟨-, -, -, -, hopn, hfur, -, hsame⟩ := segmented_facts m k s (!delta) (if delta then x.chain + bytes else 0) l
  refine appendRootFor_open (m := m.segmented k s (!delta) (if delta then x.chain + bytes else 0) l) (some s) (hopn.trans ho) ?_
  have hcap (y : HFur) : (m.segmented k s (!delta) (if delta then x.chain + bytes else 0) l).hfurCap y = m.hfurCap y := by
    unfold Mach.hfurCap Mach.sysPages
    rw [same_adm hsame (by simp)]
  rw [hcap, hfur]
  exact hroom

theorem observeWindow_facts (b : Mach) : b.observeWindow.hdl.seg = b.hdl.seg ∧ b.observeWindow.hdl.sinceDir = b.hdl.sinceDir ∧
    b.observeWindow.hdl.epoch = b.hdl.epoch ∧ b.observeWindow.hdl.log = b.hdl.log ∧ ∀ k, b.observeWindow.rd64 k = b.rd64 k := by
  unfold Mach.observeWindow
  dsimp only
  generalize b.window = n
  have hrec := recorded_observe ((b.updHdl fun h => { h with winPeak := max h.winPeak (min n 31) }).touch .hdl) 0x51 none n
  have hh := (same_hdl hrec.same (by simp)).trans (Mach.touch_hdl ..)
  rw [hh]
  exact ⟨rfl, rfl, rfl, rfl, fun k => (rd64_of_c64 hrec.c64 k).trans (Mach.rd64_touch ..)⟩

/-- A write of a segment: the segment is clean, and its record and a root behind it are logged. -/
theorem segWritten_facts (m : Mach) (k s : Nat) (full : Bool) (chain : Nat) (l : List (Nat × BitVec 40)) :
    (((m.segmented k s full chain l).rooted k (some s)).observeWindow).hdl.seg =
      SMap.set {} m.hdl.seg s { dirty := false, cov := 0, chain := chain, full := true } ∧
    (((m.segmented k s full chain l).rooted k (some s)).observeWindow).hdl.sinceDir = m.hdl.sinceDir + 1 ∧
    (((m.segmented k s full chain l).rooted k (some s)).observeWindow).hdl.epoch = m.hdl.epoch + 1 ∧
    (((m.segmented k s full chain l).rooted k (some s)).observeWindow).rd64 Reg.HDL_SEGWR_LO = m.rd64 Reg.HDL_SEGWR_LO + 1 ∧
    ∃ r r' c, (((m.segmented k s full chain l).rooted k (some s)).observeWindow).hdl.log = m.hdl.log ++ [r, r'] ∧ r.body = .seg s full l ∧
      r'.body = .root c ∧ c.epoch = m.hdl.epoch + 1 := by
  obtain ⟨hlog, hepoch, hseg, hsince, -, -, hrd, -⟩ := segmented_facts m k s full chain l
  generalize m.segmented k s full chain l = u at *
  obtain ⟨hlog', hepoch', -, -, -, hseg', hsince', -, -, -⟩ := rooted_facts u k (some s)
  obtain ⟨hs, hd, he, hl, hr⟩ := observeWindow_facts (u.rooted k (some s))
  refine ⟨hs.trans (hseg'.trans hseg), hd.trans (hsince'.trans hsince), he.trans (hepoch'.trans (by rw [hepoch])),
    (hr _).trans ((rooted_rd64 ..).trans hrd), _, _, { u.rootNow with segId := some s }, hl.trans (two_logged hlog hlog'), rfl, rfl,
    congrArg (· + 1) hepoch⟩

/-! ### Durability (R281) -/

/-- A record is durable. -/
def Mach.recDurable (id : Nat) (m : Mach) : Mach :=
  m.updHdl fun h => { h with log := h.log.map fun x => if x.id == id then { x with durable := true } else x }

theorem headlandDurable_none (h : ∀ r, m.hdl.log.find? (fun r => !r.durable) = some r → r.flying = true) : m.headlandDurable = m := by
  unfold Mach.headlandDurable
  cases hf : m.hdl.log.find? fun r => !r.durable with
  | none => rfl
  | some r => exact if_pos (h r hf)

theorem headlandDurable_next {r : HRec} (h : m.hdl.log.find? (fun r => !r.durable) = some r) (hf : r.flying = false) :
    m.headlandDurable = ((m.recDurable r.id).resolveRec r.id).recordDurable r := by
  unfold Mach.headlandDurable
  rw [h]
  exact if_neg (by simp [hf])

/-- Nobody waits for a record alone. -/
theorem resolveRec_none {id : Nat} (h : ∀ w ∈ m.hdl.waiters, w.1 ≠ id ∨ w.2.1 = true) : m.resolveRec id = m := by
  have hnow : (m.hdl.waiters.filter fun w => w.1 == id && !w.2.1) = [] := List.filter_eq_nil_iff.mpr fun w hw => by
    rcases h w hw with h | h <;> simp [h]
  have hkeep : (m.hdl.waiters.filter fun w => !(w.1 == id && !w.2.1)) = m.hdl.waiters := List.filter_eq_self.mpr fun w hw => by
    rcases h w hw with h | h <;> simp [h]
  have hsame : (m.updHdl fun h => { h with waiters := h.waiters.filter fun w => !(w.1 == id && !w.2.1) }) = m := by
    unfold Mach.updHdl
    dsimp only
    rw [hkeep]
  unfold Mach.resolveRec
  rw [hnow, hsame]
  rfl

/-- The one that waits for a record has its due. -/
theorem resolveRec_one {id : Nat} {w : Waiter} (h : m.hdl.waiters = [(id, false, w)]) :
    m.resolveRec id = (m.updHdl fun h => { h with waiters := [] }).resolve w := by
  unfold Mach.resolveRec Mach.updHdl
  dsimp only
  rw [h]
  simp [Mach.each]

/-! ### Durable roots (R286) -/

/-- A root stands: its checkpoint is the newest. -/
def Mach.rootStands (c : Ckpt) (m : Mach) : Mach := (m.updHdl fun h => { h with durable := c.epoch, roots := c :: h.roots }).touch .hdl

theorem rootStands_facts (c : Ckpt) (m : Mach) : (m.rootStands c).hdl = { m.hdl with durable := c.epoch, roots := c :: m.hdl.roots } ∧
    m.RegsBut [] (m.rootStands c) ∧ m.SameBut [.hdl, .reg] (m.rootStands c) :=
  ⟨Mach.touch_hdl .., fun _ _ => Mach.rd_touch .., by simp [Mach.SameBut, Mach.rootStands]⟩

theorem hdlErase_none (h : ∀ k, (m.hfur k).st ≠ .released) : m.hdlErase = m := by
  have hnone : (m.hdlFurs.filter fun k => (m.hfur k).st == .released && decide ((m.hfur k).eRel ≤ m.hdl.durable)) = [] :=
    List.filter_eq_nil_iff.mpr fun k _ => by simp [h k]
  unfold Mach.hdlErase
  rw [hnone]
  exact ite_self _

/-- What is left of a durable root where nothing can be erased and no start-up waits for it. -/
theorem rootDurable_eq {c : Ckpt} {u : Mach} (hu : (m.rootStands c).resolveRoot c.epoch = u) (hr : ∀ k, (u.hfur k).st ≠ .released)
    (hs : u.dev.startRoot = false) :
    m.rootDurable c = if c.clean && u.dev.phase == .checkpoint && u.dev.pf == .none then u.shutdownDone else u := by
  unfold Mach.rootDurable
  dsimp only
  rw [show ((m.updHdl fun h => { h with durable := c.epoch, roots := c :: h.roots }).touch .hdl).resolveRoot c.epoch = u from hu,
    hdlErase_none hr, if_neg (show ¬u.dev.startRoot = true by simp [hs])]

theorem resolveRoot_none {e : Nat} (h : m.hdl.waiters = []) : m.resolveRoot e = m := by
  have hsame : (m.updHdl fun x => { x with waiters := [] }) = m := by
    unfold Mach.updHdl
    rw [← h]
  unfold Mach.resolveRoot Mach.updHdl
  dsimp only
  rw [h]
  exact hsame

/-- The one that waits for a root behind a record that is durable. -/
theorem resolveRoot_one {e id : Nat} {w : Waiter} (h : m.hdl.waiters = [(id, true, w)]) (hc : m.rootCovers id e = true) :
    m.resolveRoot e = (m.updHdl fun h => { h with waiters := [] }).resolve w := by
  unfold Mach.resolveRoot Mach.updHdl
  dsimp only
  rw [h]
  simp [Mach.each, hc]

theorem kslot_setKslot_same (m : Mach) (k : Nat) (x : KeySlot) : (m.setKslot k x).kslot k = x := SMap.get_set_same ..

theorem kslot_setKslot_ne (m : Mach) {k j : Nat} (x : KeySlot) (h : j ≠ k) : (m.setKslot k x).kslot j = m.kslot j := SMap.get_set_ne _ _ _ _ _ _ h

theorem nslot_setNslot (m : Mach) (k : Nat) (x : KeySlot) : (m.setNslot k x).nslot k = x := by
  unfold Mach.setNslot Mach.nslot
  by_cases hk : k = integSlot
  · rw [if_pos hk, if_pos hk]
    rfl
  · rw [if_neg hk, if_neg hk]
    exact kslot_setKslot_same ..

theorem setNslot_same (m : Mach) (k : Nat) (x : KeySlot) : m.SameBut [.key] (m.setNslot k x) := by
  unfold Mach.setNslot
  split
  · simp [Mach.SameBut]
  · simp [Mach.SameBut]

end

/-- Settles O53: an append with room in the open furrow is one equation, the writer's order is followed branch by branch, and a durable record
meets those that wait for it. The writer's order is log entries 44 and 45, the root's fields entry 57, the key records entry 126. -/
theorem headland : Obligations.Headland := by
  refine ⟨?down, ?root, ?first, ?definition, ?segment, ?flying, ?nonce, ?keyImport, ?rootStands, ?rootWaiter, ?clean, ?release, ?held, ?dump, ?noDump⟩
  case down =>
    intro s hv hu
    exact completes_eq (fun m => m.volProgress.headlandWrite) rfl (by rw [volProgress_idle hv]; exact headlandWrite_down hu) rfl
  case root =>
    intro s k hv hu hq hn ho hr
    have heq : s.m.volProgress.headlandWrite = s.m.rooted k none := by
      rw [volProgress_idle hv, headlandWrite_root hu hq hn]
      exact appendRootFor_open none ho hr
    obtain ⟨hlog, hepoch, hneed, hrec, hpos, -, -, -, -, hfur⟩ := rooted_facts s.m k none
    exact completes_eq (fun m => m.volProgress.headlandWrite) rfl heq
      ⟨hlog, hepoch, hneed, hrec, hpos, hfur, rooted_ops .., rooted_same ..⟩
  case first =>
    intro s k id b ws hv hu hq hn hsegs hw hwant hb ho hr
    have hf : (s.m.hdl.want.find? fun w => w.2.first && (s.m.hdlSegs || !w.2.isErase)) = some (id, b) := by
      rw [hwant]
      simp [hb, hsegs]
    have heq : s.m.volProgress.headlandWrite = s.m.appendWant (id, b) := by
      rw [volProgress_idle hv, headlandWrite_first hu hq hn (.inr hw) hf]
    obtain ⟨hh, hfl, hsame⟩ := appendWant_first (id := id) hb ho hr
    refine completes_eq (fun m => m.volProgress.headlandWrite) rfl heq ⟨?_, ?_, ?_, ?_, hsame⟩
    · rw [hh]
      rfl
    · rw [hh]
    · rw [hh]
      rfl
    · rw [hfl]
      exact appended_ops ..
  case definition =>
    intro s k id d hv hu hq hn hw hwant hl ho hr
    have hf : (s.m.hdl.want.find? fun w => w.2.first && (s.m.hdlSegs || !w.2.isErase)) = none := by
      rw [hwant]
      rfl
    have hs : (s.m.hdl.want.find? fun w => !w.2.first) = some (id, .definition d) := by
      rw [hwant]
      rfl
    have heq : s.m.volProgress.headlandWrite = (s.m.defined k id).rooted k none := by
      rw [volProgress_idle hv, headlandWrite_later hu hq hn hw hf hl hs, appendWant_definition d ho hr]
    obtain ⟨hlog, hepoch, hwants, himg, hsame⟩ := defined_facts s.m k id
    obtain ⟨hlog', hepoch', -, -, -, -, -, hwants', himg', -⟩ := rooted_facts (s.m.defined k id) k none
    refine completes_eq (fun m => m.volProgress.headlandWrite) rfl heq
      ⟨⟨_, _, two_logged hlog hlog', rfl, rfl, { (s.m.defined k id).rootNow with segId := none }, rfl, congrArg (· + 1) hepoch, himg⟩,
        hwants'.trans ?_, (congrArg Ckpt.defn himg').trans himg, hepoch'.trans (congrArg (· + 1) hepoch),
        same_trans (same_mono hsame (by simp)) (rooted_same ..)⟩
    rw [hwants, hwant]
    simp
  case segment =>
    intro s k sg hv hu hq hn hsegs hw hwant hl hscrub hdir hdirty ho hr
    have hnone (f : Nat × HBody → Bool) : s.m.hdl.want.find? f = none := by
      rw [hwant]
      rfl
    obtain ⟨full, chain, l, hseg⟩ := appendSeg_open ho hr
    have heq : s.m.volProgress.headlandWrite = ((s.m.segmented k sg full chain l).rooted k (some sg)).observeWindow := by
      rw [volProgress_idle hv, headlandWrite_segment hu hq hn (.inr hw) (hnone _) hl (hnone _) hsegs hscrub hdir hdirty, hseg]
    obtain ⟨hsegs', hsince, hepoch, hcount, r, r', c, hlog⟩ := segWritten_facts s.m k sg full chain l
    refine completes_eq (fun m => m.volProgress.headlandWrite) rfl heq ⟨?_, fun j hj => ?_, hsince, hepoch, hcount, r, r', full, l, c, hlog⟩
    · rw [hsegs', SMap.get_set_same]
    · rw [hsegs', SMap.get_set_ne _ _ _ _ _ _ hj]
  case flying =>
    intro s h hc
    exact completes_mail _ rfl (headlandDurable_none h) hc rfl
  case nonce =>
    intro s r k e h hfind hf hb hw he hc
    let u := s.m.recDurable r.id
    have heq : s.m.headlandDurable = (u.setNslot k { s.m.nslot k with hwm := max (s.m.nslot k).hwm h, waiting := false }).touch .key := by
      rw [headlandDurable_next hfind hf, resolveRec_none (m := s.m.recDurable r.id) fun w hwm => .inl (hw w hwm)]
      unfold Mach.recordDurable Mach.nonceDurable
      rw [hb]
      exact if_pos he
    have hsame := setNslot_same u k { s.m.nslot k with hwm := max (s.m.nslot k).hwm h, waiting := false }
    have hslot := nslot_setNslot u k { s.m.nslot k with hwm := max (s.m.nslot k).hwm h, waiting := false }
    generalize u.setNslot k { s.m.nslot k with hwm := max (s.m.nslot k).hwm h, waiting := false } = v at heq hsame hslot
    have hst : v.Steady (v.touch .key) := (Mach.Steady.refl v).touch _
    have hv : v.Calm := calm_of hc (by rw [same_adm hsame (by simp)]; rfl) (Eq.trans (same_twn hsame (by simp)) rfl)
    refine completes_mail _ rfl heq (hst.calm hv) ⟨?_, ?_, ?_⟩
    · rw [← hslot]
      unfold Mach.nslot Mach.kslot
      rw [Mach.touch_key]
    · rw [Mach.touch_hdl, same_hdl hsame (by simp)]
      rfl
    · exact same_trans (by simp [u, Mach.SameBut, Mach.recDurable]) (same_trans (same_mono hsame (by simp)) (by simp [Mach.SameBut]))
  case keyImport =>
    intro s r p k d hfind hf hb hw hc
    let u := (s.m.recDurable r.id).updHdl fun h => { h with waiters := [] }
    let v := (u.setKslot k { u.kslot k with st := .loaded, importing := false }).touch .key
    have heq : s.m.headlandDurable = (v.bump Reg.KEY_IMPORTS).ok p [] := by
      rw [headlandDurable_next hfind hf, resolveRec_one (m := s.m.recDurable r.id) hw]
      unfold Mach.recordDurable
      rw [hb]
      rfl
    have hv : s.m.SameBut [.hdl, .key, .reg] (v.bump Reg.KEY_IMPORTS) := by simp [v, u, Mach.SameBut, Mach.recDurable]
    have hkey (j : Nat) : ((v.bump Reg.KEY_IMPORTS).ok p []).kslot j = (u.setKslot k { u.kslot k with st := .loaded, importing := false }).kslot j := by
      unfold Mach.kslot
      exact congrArg (fun t : Keys => SMap.get {} t.slot j) ((Mach.bump_key ..).trans (Mach.touch_key ..))
    have hcalm : (v.bump Reg.KEY_IMPORTS).Calm := calm_of hc (by rw [same_adm hv (by simp)]) (same_twn hv (by simp))
    refine completes_mail _ rfl heq (calm_of_parts hcalm) ⟨?_, fun j hj => ?_, ?_, ?_, ?_, ?_⟩
    · exact (hkey k).trans (kslot_setKslot_same ..)
    · exact (hkey j).trans (kslot_setKslot_ne _ _ hj)
    · exact congrArg Headland.waiters ((Mach.bump_hdl ..).trans (Mach.touch_hdl ..))
    · have hcount := rdN_bump v Reg.KEY_IMPORTS
      refine hcount.trans ?_
      unfold Mach.rdN
      rw [Mach.rd_touch]
      rfl
    · exact congrArg (· ++ [_]) (same_out hv (by simp))
    · exact same_trans (same_mono hv (by simp)) (by simp [Mach.SameBut, Mach.ok, Mach.answer])
  case rootStands =>
    intro s r c hfind hf hb hcl hw hrel hst hc
    let u := s.m.recDurable r.id
    obtain ⟨hh, hregs, hsame⟩ := rootStands_facts c u
    have hall : s.m.SameBut [.hdl, .reg] (u.rootStands c) := same_trans (by simp [u, Mach.SameBut, Mach.recDurable]) hsame
    have heq : s.m.headlandDurable = u.rootStands c := by
      rw [headlandDurable_next hfind hf, resolveRec_none (m := u) fun w hwm => absurd hwm (by rw [show u.hdl.waiters = [] from hw]; simp)]
      unfold Mach.recordDurable
      rw [hb]
      refine (rootDurable_eq (resolveRoot_none (by rw [hh]; exact hw)) (fun k => ?_) (by rw [same_dev hall (by simp)]; exact hst)).trans ?_
      · unfold Mach.hfur
        rw [hh]
        exact hrel k
      · rw [if_neg (by simp [hcl])]
    exact completes_mail _ rfl heq (calm_of hc (by rw [same_adm hall (by simp)]) (same_twn hall (by simp)))
      ⟨hh, fun k hk => (hregs k hk).trans rfl, hall⟩
  case rootWaiter =>
    intro s r x c p w hfind hf hb hcl hw hws hne hx hd he hrel hst hc
    let u := s.m.recDurable r.id
    obtain ⟨hh, hregs, hsame⟩ := rootStands_facts c u
    let v := (u.rootStands c).updHdl fun h => { h with waiters := [] }
    have hall : s.m.SameBut [.hdl, .reg] v := same_trans (by simp [u, Mach.SameBut, Mach.recDurable]) (same_trans hsame (by simp [v, Mach.SameBut]))
    have hcov : (u.rootStands c).rootCovers x.id c.epoch = true := by
      unfold Mach.rootCovers
      rw [hh]
      refine List.any_eq_true.mpr ⟨x, List.mem_map.mpr ⟨x, hx, ?_⟩, by simp [hd, he]⟩
      exact if_neg (by simpa using Ne.symm hne)
    have hres : (u.rootStands c).resolveRoot c.epoch = v.ok p [] := by
      rw [resolveRoot_one (by rw [hh]; exact hws) hcov]
      rcases hw with rfl | rfl <;> rfl
    have hv : v.hdl = { u.hdl with durable := c.epoch, roots := c :: u.hdl.roots, waiters := [] } :=
      congrArg (fun h : Headland => { h with waiters := [] }) hh
    have heq : s.m.headlandDurable = v.ok p [] := by
      rw [headlandDurable_next hfind hf, resolveRec_none (m := u) fun y hy => .inr (by
        rw [show u.hdl.waiters = [(x.id, true, w)] from hws, List.mem_singleton] at hy
        rw [hy])]
      unfold Mach.recordDurable
      rw [hb]
      refine (rootDurable_eq hres (fun k => ?_) ((congrArg Dev.startRoot (same_dev hall (by simp))).trans hst)).trans ?_
      · have hfur : (v.ok p []).hdl.fur = s.m.hdl.fur := (congrArg Headland.fur hv).trans rfl
        unfold Mach.hfur
        rw [hfur]
        exact hrel k
      · rw [if_neg (by simp [hcl])]
    refine completes_mail _ rfl heq (calm_of_parts (calm_of (b := v) hc (by rw [same_adm hall (by simp)]) (same_twn hall (by simp))))
      ⟨congrArg Headland.durable hv, congrArg Headland.waiters hv, ?_, ?_⟩
    · exact congrArg (· ++ [_]) (same_out hall (by simp))
    · exact same_trans (same_mono hall (by simp)) (by simp [Mach.SameBut, Mach.ok, Mach.answer])
  case clean =>
    intro s r c hfind hf hb hcl hw hrel hst hph hord hpf hc
    let u := s.m.recDurable r.id
    obtain ⟨hh, hregs, hsame⟩ := rootStands_facts c u
    have hall : s.m.SameBut [.hdl, .reg] (u.rootStands c) := same_trans (by simp [u, Mach.SameBut, Mach.recDurable]) hsame
    have hdev : (u.rootStands c).dev = s.m.dev := same_dev hall (by simp)
    have heq : s.m.headlandDurable = (u.rootStands c).shutdownDone := by
      rw [headlandDurable_next hfind hf, resolveRec_none (m := u) fun w hwm => absurd hwm (by rw [show u.hdl.waiters = [] from hw]; simp)]
      unfold Mach.recordDurable
      rw [hb]
      refine (rootDurable_eq (resolveRoot_none (by rw [hh]; exact hw)) (fun k => ?_) (by rw [hdev]; exact hst)).trans ?_
      · unfold Mach.hfur
        rw [hh]
        exact hrel k
      · rw [if_pos (by rw [hdev]; simp [hcl, hph, hpf])]
    have hrec : Mach.Recorded (u.rootStands c) (u.rootStands c).almFlush := recorded_almFlush _
    have hdev' : (u.rootStands c).almFlush.dev = s.m.dev := (same_dev hrec.same (by simp)).trans hdev
    have hdone : (u.rootStands c).shutdownDone = (u.rootStands c).almFlush.updDev fun d => { d with phase := .done } := by
      unfold Mach.shutdownDone
      exact if_neg (show ¬(u.rootStands c).almFlush.dev.orderly = true by rw [hdev', hord]; simp)
    have hsteady : (u.rootStands c).Steady (u.rootStands c).almFlush := (Mach.Steady.refl _).almFlush
    have hcalm : (u.rootStands c).almFlush.Calm := hsteady.calm (calm_of hc (by rw [same_adm hall (by simp)]) (same_twn hall (by simp)))
    refine completes_mail _ rfl (heq.trans hdone) (calm_of_parts hcalm) ⟨?_, ?_, ?_⟩
    · exact congrArg Headland.durable ((same_hdl hrec.same (by simp)).trans hh)
    · exact congrArg (fun d : Dev => { d with phase := .done }) hdev'
    · exact same_trans (same_mono hall (by simp)) (same_trans (same_mono hrec.same (by simp)) (by simp [Mach.SameBut]))
  case release =>
    intro s k hk
    have heq : s.m.hdlRelease = (s.m.setHfur k { s.m.hfur k with st := .released, eRel := s.m.hdl.epoch + 1 }).touch .hdl := by
      unfold Mach.hdlRelease
      rw [hk]
      rfl
    have hfur (j : Nat) : ((s.m.setHfur k { s.m.hfur k with st := .released, eRel := s.m.hdl.epoch + 1 }).touch .hdl).hfur j =
        (s.m.setHfur k { s.m.hfur k with st := .released, eRel := s.m.hdl.epoch + 1 }).hfur j := by
      unfold Mach.hfur
      rw [Mach.touch_hdl]
    refine completes_eq Mach.hdlRelease rfl heq ⟨?_, fun j hj => ?_, ?_, fun _ _ => Mach.rd_touch .., by simp [Mach.SameBut, Mach.setHfur]⟩
    · rw [hfur, hfur_setHfur_same]
    · rw [hfur, hfur_setHfur_ne _ _ hj]
    · rw [Mach.touch_hdl]
      rfl
  case held =>
    intro s hk
    refine completes_eq Mach.hdlRelease rfl ?_ rfl
    unfold Mach.hdlRelease
    rw [hk]
  case dump =>
    intro s hv hr hd
    have heq : s.m.dumpConsumed = (s.m.updHdl fun h => { h with
        dumpValid := false, dumpPartial := false, dumped := [], dumpWait := [], needRoot := true }).touch .hdl := by
      unfold Mach.dumpConsumed
      rw [if_pos (by simp [hv, hr, hd])]
    exact completes_eq Mach.dumpConsumed rfl heq ⟨Mach.touch_hdl .., fun _ _ => Mach.rd_touch .., by simp [Mach.SameBut]⟩
  case noDump =>
    intro s h
    refine completes_eq Mach.dumpConsumed rfl ?_ rfl
    unfold Mach.dumpConsumed
    rw [if_neg (by rcases h with h | h | h <;> simp [h])]

end Sys2Proof.Machine

/-! The statement of gleaning and the scans (O52): what a source read keeps of the machine, whatever it meets, and what is left of a
victim's walk, of the erase gate and of the scans. -/

namespace Sys2Proof.Machine

-- One proof at a time: proofs that wait for each other would each hold a thread and its stack.
set_option Elab.async false

/-! ### The furrow table and the block table -/

theorem putFur_gln (f : Nat) (x : Fur) (m : Mach) : (m.putFur f x).gln = (m.setFur f x).gln := same_gln (markTable_same ..) (by simp)

theorem putFur_put (f : Nat) (x : Fur) (m : Mach) : (m.putFur f x).fur f = x ∧ ∀ g, g ≠ f → (m.putFur f x).fur g = m.fur g :=
  ⟨(putFur_fur ..).trans (Mach.fur_setFur_same ..), fun _ hg => (putFur_fur ..).trans (Mach.fur_setFur_ne _ _ _ _ hg)⟩

theorem same_updGln (m : Mach) (g : Glean → Glean) : m.SameBut [.gln] (m.updGln g) := by simp [Mach.SameBut]

theorem putFur_want (f : Nat) (x : Fur) (m : Mach) : (m.putFur f x).hdl.want = m.hdl.want := (markSeg_same ..).2

theorem putBlk_blk (d b : Nat) (x : Blk) (m : Mach) (e k : Nat) :
    (m.putBlk d b x).blk e k = if 4096 * e + k = 4096 * d + b then x else m.blk e k := by
  have hfl : (m.putBlk d b x).fl = (m.setBlk d b x).fl := same_fl (putBlk_same ..) (by simp)
  unfold Mach.blk
  rw [hfl]
  exact SMap.get_set ..

theorem putBlk_fl (d b : Nat) (x : Blk) (m : Mach) : (m.putBlk d b x).fl = { m.fl with blk := (m.putBlk d b x).fl.blk } := by
  rw [same_fl (putBlk_same d b x m) (by simp)]
  rfl

/-- An entry of the block table marks segments of the headland at most. -/
theorem putBlk_marks {R : Mach → Mach → Prop} (hr : ∀ a, R a a) (ht : ∀ {a b c}, R a b → R b c → R a c)
    (hm : ∀ s (a : Mach), R a (a.markSeg s)) (d b : Nat) (x : Blk) (m : Mach) : R (m.setBlk d b x) (m.putBlk d b x) := by
  unfold Mach.putBlk Mach.markTable
  dsimp only
  split <;> split
  · exact hr _
  · exact hm ..
  · exact hm ..
  · exact ht (hm ..) (hm ..)

theorem putBlk_regs (d b : Nat) (x : Blk) (m : Mach) : m.RegsSame [] (m.putBlk d b x) :=
  rs_trans (rs_of_reg (b := m.setBlk d b x) rfl)
    (putBlk_marks (R := Mach.RegsSame []) (fun _ => rs_of_reg rfl) rs_trans markSeg_regs d b x m)

theorem putBlk_want (d b : Nat) (x : Blk) (m : Mach) : (m.putBlk d b x).hdl.want = m.hdl.want :=
  putBlk_marks (R := fun a b => b.hdl.want = a.hdl.want) (fun _ => rfl) (fun h g => g.trans h) (fun _ _ => (markSeg_same ..).2) d b x m

/-! ### The choice of a victim (R259 to R261) -/

/-- The victim that a furrow becomes. -/
def Mach.newVictim (f : Nat) (rank4 : Bool) (m : Mach) : Victim :=
  { furrow := f, rank4 := rank4, cold := !rank4 || decide (m.rdN Reg.GLN_COLDAGE ≤ m.ageBucket (m.fur f)), page := 0, walk := 0, plane := 0,
    v0 := (m.fur f).valid, t0 := (m.fur f).placed, walked := false }

theorem beginVictim_fur (f : Nat) (r : Bool) (m : Mach) : (m.beginVictim f r).fur f = { m.fur f with st := .gleaning } ∧
    ∀ g, g ≠ f → (m.beginVictim f r).fur g = m.fur g := by
  have hfur (g : Nat) : (m.beginVictim f r).fur g = (m.putFur f { m.fur f with st := .gleaning }).fur g := by
    unfold Mach.beginVictim
    rw [Mach.touch_fur]
    cases r <;> rfl
  obtain ⟨hf, hg⟩ := putFur_put f { m.fur f with st := .gleaning } m
  exact ⟨(hfur f).trans hf, fun g h => (hfur g).trans (hg g h)⟩

theorem beginVictim_low (f : Nat) (m : Mach) : (m.beginVictim f false).gln =
    { m.gln with fur := (m.beginVictim f false).gln.fur, vic0 := some (m.newVictim f false) } := by
  unfold Mach.beginVictim
  rw [Mach.touch_gln]
  dsimp only [Mach.updGln]
  rw [putFur_gln]
  rfl

theorem beginVictim_best (f : Nat) (m : Mach) : (m.beginVictim f true).gln =
    { m.gln with fur := (m.beginVictim f true).gln.fur, vic1 := some (m.newVictim f true) } := by
  unfold Mach.beginVictim
  rw [Mach.touch_gln]
  dsimp only [Mach.updGln]
  rw [putFur_gln]
  rfl

theorem beginVictim_same (f : Nat) (r : Bool) (m : Mach) : m.SameBut [.gln, .hdl, .reg] (m.beginVictim f r) :=
  same_trans (putFur_same f { m.fur f with st := .gleaning } m)
    (same_trans (same_mono (same_updGln ..) (by simp)) (same_mono (touch_same ..) (by simp)))

section
variable {m : Mach} {f : Nat}

theorem selectVictim_low (hg : m.gleaning = true) (hv : m.gln.vic0 = none) (hf : m.lowVictim = some f) :
    m.selectVictim = m.beginVictim f false := by
  unfold Mach.selectVictim
  simp [hg, hv, hf]

/-- Where the slot of ranks 1 to 3 takes nothing, that of rank 4 is looked at. -/
theorem selectVictim_rank4 (hg : m.gleaning = true) (hl : m.gln.vic0.isSome ∨ m.lowVictim = none) : m.selectVictim =
    match m.gln.vic1, m.bestVictim with
    | none, some f => if m.gln.level == .low && decide ((m.fur f).vterm < m.rdN Reg.GLN_LOWMIN) then m else m.beginVictim f true
    | _, _ => m := by
  unfold Mach.selectVictim
  rw [hg]
  obtain hs | hn := hl
  · obtain ⟨w, hw⟩ := Option.isSome_iff_exists.mp hs
    rw [hw]
    rfl
  · rw [hn]
    cases m.gln.vic0 <;> rfl

theorem selectVictim_best (hg : m.gleaning = true) (hl : m.gln.vic0.isSome ∨ m.lowVictim = none) (hv : m.gln.vic1 = none)
    (hf : m.bestVictim = some f) (hw : m.gln.level ≠ .low ∨ m.rdN Reg.GLN_LOWMIN ≤ (m.fur f).vterm) :
    m.selectVictim = m.beginVictim f true := by
  rw [selectVictim_rank4 hg hl, hv, hf]
  refine if_neg fun h => ?_
  obtain ⟨hlow, hlt⟩ := Bool.and_eq_true_iff.mp h
  exact hw.elim (fun hn => hn (by simpa using hlow)) fun hn => absurd (of_decide_eq_true hlt) (by omega)

theorem selectVictim_none (h : m.gleaning = false ∨ ((m.gln.vic0.isSome ∨ m.lowVictim = none) ∧
    (m.gln.vic1.isSome ∨ ∀ f, m.bestVictim = some f → m.gln.level = .low ∧ (m.fur f).vterm < m.rdN Reg.GLN_LOWMIN))) :
    m.selectVictim = m := by
  obtain hg | ⟨hl, hr⟩ := h
  · simp [Mach.selectVictim, hg]
  · by_cases hg : m.gleaning = true
    · rw [selectVictim_rank4 hg hl]
      split
      · rename_i f hv hf
        obtain ⟨hlow, hlt⟩ := hr.resolve_left (by simp [hv]) f hf
        simp [hlow, hlt]
      · rfl
    · simp [Mach.selectVictim, hg]

end

/-! ### The erase gate (R268) -/

section
variable {m : Mach}

theorem gate_shut (h : m.running .hdl = false ∨ m.dev.pf ≠ .none ∨ m.ioUp = false ∨ ∀ e ∈ m.gln.fur, e.2.st ≠ .released) : m.gate = m := by
  have hrel (h : ∀ e ∈ m.gln.fur, e.2.st ≠ .released) : m.gln.fur.filter (fun e => e.2.st == .released) = [] :=
    List.filter_eq_nil_iff.mpr fun e he => by simp [h e he]
  unfold Mach.gate
  obtain h | h | h | h := h
  · simp [h]
  · simp [h]
  · simp [h]
  · simp [hrel h]

/-- One furrow is released: it alone can pass. -/
theorem gate_one {f : Nat} {x : Fur} (h : m.gln.fur.filter (fun e => e.2.st == .released) = [(f, x)]) :
    m.gate = if !m.running .hdl || m.dev.pf != .none || !m.ioUp then m else if (m.fur f).eRel ≤ m.hdl.durable then m.passGate f else m := by
  unfold Mach.gate
  simp [h]

/-- The members of a mask are set in it. -/
theorem foldl_bit32 (l : List Chan) (w : Word) (c : Chan) (h : c ∈ l ∨ w.getLsbD c.val = true) :
    (l.foldl (fun w c => w ||| bit32 c.val) w).getLsbD c.val = true := by
  induction l generalizing w with
  | nil => simpa using h
  | cons a l ih =>
    refine ih _ ?_
    rw [BitVec.getLsbD_or, getLsbD_bit32]
    obtain h | h := h
    · obtain rfl | h := List.mem_cons.mp h
      · simp
      · exact .inl h
    · simp [h]

end

/-- A member's block is to be erased, and its erase is queued. -/
def Mach.eraseMember (f : Nat) (c : Chan) (m : Mach) : Mach :=
  (m.putBlk (dieOf c (f / 4096)) (m.memberBlock c f) { m.blk (dieOf c (f / 4096)) (m.memberBlock c f) with st := .erasing }).queueErase c
    (f / 4096) (m.memberBlock c f) false

/-- An operation erases the member c of furrow f in the machine a. -/
structure Mach.ErasesMember (a : Mach) (f : Nat) (c : Chan) (o : Op) : Prop where
  ch : o.ch = c
  row : o.row = Fin.ofNat 64 (f / 4096)
  req : o.req = .q2
  kind : o.kind = .erase (a.memberBlock c f) false
  issued : o.issued = false

/-- From a to b the erases of some members of a furrow have been queued, and nothing else has come of it. -/
structure Mach.QueuesErases (f : Nat) (cs : List Chan) (a b : Mach) : Prop where
  erasing : ∀ c ∈ cs, (b.blk (dieOf c (f / 4096)) (a.memberBlock c f)).st = .erasing
  still : ∀ d k, (a.blk d k).st = .erasing → (b.blk d k).st = .erasing
  ops : ∃ l, b.fl.ops = a.fl.ops ++ l ∧ l.length = cs.length ∧ ∀ c ∈ cs, ∃ o ∈ l, a.ErasesMember f c o
  die : b.fl.die = a.fl.die
  want : b.hdl.want = a.hdl.want
  regs : a.RegsSame [] b
  same : a.SameBut [.fl, .hdl, .reg] b

theorem memberBlock_of {a b : Mach} (h : b.fl.die = a.fl.die) (c : Chan) (f : Nat) : b.memberBlock c f = a.memberBlock c f := by
  unfold Mach.memberBlock Mach.die
  rw [h]

theorem queuesErases_nil (f : Nat) (m : Mach) : m.QueuesErases f [] m :=
  ⟨by simp, fun _ _ h => h, ⟨[], by simp⟩, rfl, rfl, rs_of_reg rfl, same_refl ..⟩

theorem eraseMember_queues (f : Nat) (c : Chan) (m : Mach) : m.QueuesErases f [c] (m.eraseMember f c) := by
  unfold Mach.eraseMember
  have hblk := putBlk_blk (dieOf c (f / 4096)) (m.memberBlock c f) { m.blk (dieOf c (f / 4096)) (m.memberBlock c f) with st := .erasing } m
  have hfl := putBlk_fl (dieOf c (f / 4096)) (m.memberBlock c f) { m.blk (dieOf c (f / 4096)) (m.memberBlock c f) with st := .erasing } m
  have hregs := putBlk_regs (dieOf c (f / 4096)) (m.memberBlock c f) { m.blk (dieOf c (f / 4096)) (m.memberBlock c f) with st := .erasing } m
  have hwant := putBlk_want (dieOf c (f / 4096)) (m.memberBlock c f) { m.blk (dieOf c (f / 4096)) (m.memberBlock c f) with st := .erasing } m
  have hsame := putBlk_same (dieOf c (f / 4096)) (m.memberBlock c f) { m.blk (dieOf c (f / 4096)) (m.memberBlock c f) with st := .erasing } m
  generalize m.putBlk _ _ _ = u at *
  refine ⟨fun x hx => ?_, fun d k hk => ?_, ⟨_, congrArg (· ++ _) ((congrArg (fun x : Flash => x.ops) hfl).trans rfl), rfl, fun x hx =>
    ⟨_, List.mem_singleton_self _, ?_⟩⟩, (congrArg (fun x : Flash => x.die) hfl).trans rfl, hwant, rs_trans hregs (rs_of_reg rfl), ?_⟩
  · obtain rfl := List.mem_singleton.mp hx
    exact congrArg Blk.st ((hblk ..).trans (if_pos rfl))
  · refine (congrArg Blk.st (hblk d k)).trans ?_
    split
    · rfl
    · exact hk
  · obtain rfl := List.mem_singleton.mp hx
    exact ⟨rfl, rfl, rfl, rfl, rfl⟩
  · exact same_trans (b := m.setBlk ..) (same_mono (same_updFl ..) (by simp)) (same_trans (same_mono hsame (by simp)) (same_mono (same_updFl ..) (by simp)))

theorem queuesErases_cons {f : Nat} {c : Chan} {cs : List Chan} {a b d : Mach} (h : a.QueuesErases f [c] b) (g : b.QueuesErases f cs d) :
    a.QueuesErases f (c :: cs) d := by
  have hblock (x : Chan) := memberBlock_of h.die x f
  obtain ⟨l, hops, hlen, hl⟩ := h.ops
  obtain ⟨r, gops, glen, hr⟩ := g.ops
  refine ⟨fun x hx => ?_, fun e k hk => g.still _ _ (h.still _ _ hk), ⟨l ++ r, by rw [gops, hops, List.append_assoc], ?_, fun x hx => ?_⟩,
    g.die.trans h.die, g.want.trans h.want, rs_trans h.regs g.regs, same_trans h.same g.same⟩
  · obtain rfl | hx := List.mem_cons.mp hx
    · exact g.still _ _ (h.erasing _ (List.mem_singleton_self _))
    · rw [← hblock]
      exact g.erasing x hx
  · rw [List.length_append, hlen, glen, List.length_singleton, List.length_cons, Nat.add_comm]
  · obtain rfl | hx := List.mem_cons.mp hx
    · obtain ⟨o, ho, hm⟩ := hl _ (List.mem_singleton_self _)
      exact ⟨o, List.mem_append_left _ ho, hm⟩
    · obtain ⟨o, ho, hm⟩ := hr x hx
      exact ⟨o, List.mem_append_right _ ho, hm.ch, hm.row, hm.req, by rw [hm.kind, hblock], hm.issued⟩

theorem eraseMembers_queue (f : Nat) (cs : List Chan) (m : Mach) : m.QueuesErases f cs (m.each cs (Mach.eraseMember f)) := by
  unfold Mach.each
  induction cs generalizing m with
  | nil => exact queuesErases_nil f m
  | cons c cs ih => exact queuesErases_cons (eraseMember_queues f c m) (ih _)

/-- A furrow is to be erased: the record of it is asked for, and the furrow has become ERASING. -/
def Mach.eraseBegun (f : Nat) (mask : Word) (m : Mach) : Mach :=
  (m.ask (.eraseBegin f mask)).1.putFur f { m.fur f with st := .erasing, toErase := mask }

theorem passGate_eq {f : Nat} {m : Mach} {mask : Word} (hc : m.eraseMembers f ≠ [])
    (hm : mask = (m.eraseMembers f).foldl (fun w c => w ||| bit32 c.val) 0) :
    m.passGate f = (m.eraseBegun f mask).each (m.eraseMembers f) (Mach.eraseMember f) := by
  obtain ⟨c, hmem⟩ := List.exists_mem_of_ne_nil _ hc
  have hbit : mask.getLsbD c.val = true := by
    rw [hm]
    exact foldl_bit32 _ _ _ (.inl hmem)
  have hne : mask ≠ 0 := by
    rintro rfl
    simp at hbit
  subst hm
  exact if_neg hne

theorem eraseBegun_facts (f : Nat) (mask : Word) (m : Mach) :
    (m.eraseBegun f mask).fur f = { m.fur f with st := .erasing, toErase := mask } ∧ (∀ g, g ≠ f → (m.eraseBegun f mask).fur g = m.fur g) ∧
    (m.eraseBegun f mask).hdl.want = m.hdl.want ++ [(m.hdl.nextRec, .eraseBegin f mask)] ∧ (m.eraseBegun f mask).fl = m.fl ∧
    m.RegsSame [] (m.eraseBegun f mask) ∧ m.SameBut [.gln, .hdl, .reg] (m.eraseBegun f mask) := by
  have hput := putFur_put f { m.fur f with st := .erasing, toErase := mask } (m.ask (.eraseBegin f mask)).1
  have hsame := putFur_same f { m.fur f with st := .erasing, toErase := mask } (m.ask (.eraseBegin f mask)).1
  exact ⟨hput.1, hput.2, putFur_want .., (same_fl hsame (by decide)).trans rfl, rs_trans (rs_of_reg rfl) (putFur_regs ..),
    same_trans (same_mono (show m.SameBut [.hdl] (m.ask (.eraseBegin f mask)).1 by simp [Mach.SameBut, Mach.ask]) (by simp)) hsame⟩

/-! ### The scans (R276, R277) -/

theorem senses_blk (d b n : Nat) (m : Mach) (e k : Nat) : (m.senses d b n).blk e k =
    if 4096 * e + k = 4096 * d + b then { m.blk d b with reads := min 0xFFFFFF ((m.blk d b).reads + n) } else m.blk e k := putBlk_blk ..

/-- From a to b blocks have been read: their entries have changed, and segments of the headland are marked. -/
structure Mach.Senses (a b : Mach) : Prop where
  fl : b.fl = { a.fl with blk := b.fl.blk }
  regs : a.RegsSame [] b
  same : a.SameBut [.fl, .hdl, .reg] b

theorem senses_trans {a b c : Mach} (h : a.Senses b) (g : b.Senses c) : a.Senses c :=
  ⟨by rw [g.fl, h.fl], rs_trans h.regs g.regs, same_trans h.same g.same⟩

theorem putBlk_senses (d b : Nat) (x : Blk) (m : Mach) : m.Senses (m.putBlk d b x) :=
  ⟨putBlk_fl .., putBlk_regs .., same_trans (b := m.setBlk ..) (same_mono (same_updFl ..) (by simp)) (same_mono (putBlk_same ..) (by simp))⟩

theorem senses_senses (d b n : Nat) (m : Mach) : m.Senses (m.senses d b n) := putBlk_senses ..

section
variable {a b m : Mach} {f : Nat}

theorem Mach.Senses.block (h : a.Senses b) (c : Chan) (f : Nat) : b.memberBlock c f = a.memberBlock c f :=
  memberBlock_of (by rw [h.fl]) c f

theorem Mach.Senses.furs (h : a.Senses b) (f : Nat) : b.fur f = a.fur f := by
  unfold Mach.fur
  rw [same_gln h.same (by simp)]

theorem Mach.Senses.cws (h : a.Senses b) (x : BitVec 40) : b.cwAt x = a.cwAt x := cwAt_of (by rw [h.fl]) x

theorem Mach.Senses.scans (h : a.Senses b) (c : Chan) (f : Nat) : b.scanned c f = a.scanned c f := by
  unfold Mach.scanned Mach.planeAddr
  rw [h.furs, h.block, same_adm h.same (by simp)]

theorem scanMember_eq (c : Chan) (f : Nat) (m : Mach) : m.scanMember c f =
    (m.senses (dieOf c (f / 4096)) (m.memberBlock c f) (m.fur f).stripes, (m.scanned c f).any fun a => (m.cwAt a).gone) := by
  have hlen : (m.scanned c f).length = (m.fur f).stripes := by simp [Mach.scanned]
  rw [← hlen]
  rfl

theorem scanned_whole {c : Chan} (h : ∀ a ∈ m.scanned c f, (m.cwAt a).gone = false) :
    ((m.scanned c f).any fun a => (m.cwAt a).gone) = false :=
  List.any_eq_false.mpr fun a ha => by simp [h a ha]

/-- The entries of two members of a furrow are two. -/
theorem member_key {c d : Chan} {row i j : Nat} (hi : i < 4096) (hj : j < 4096) (h : 4096 * dieOf c row + i = 4096 * dieOf d row + j) :
    c = d := by
  unfold dieOf at h
  exact Fin.ext (by omega)

/-- Members that are scanned one after the other, none of whose codewords is destroyed: each counts a read for every stripe. -/
theorem scanMembers_facts (cs : List Chan) (m : Mach) (hb : ∀ c, m.memberBlock c f < 4096) (hnd : cs.Nodup)
    (hw : ∀ c ∈ cs, ∀ a ∈ m.scanned c f, (m.cwAt a).gone = false) :
    (m.scanMembers f cs).2 = false ∧ m.Senses (m.scanMembers f cs).1 ∧
    (∀ c ∈ cs, ((m.scanMembers f cs).1.blk (dieOf c (f / 4096)) (m.memberBlock c f)).reads =
      min 0xFFFFFF ((m.blk (dieOf c (f / 4096)) (m.memberBlock c f)).reads + (m.fur f).stripes)) ∧
    ∀ c, c ∉ cs → (m.scanMembers f cs).1.blk (dieOf c (f / 4096)) (m.memberBlock c f) =
      m.blk (dieOf c (f / 4096)) (m.memberBlock c f) := by
  induction cs generalizing m with
  | nil => exact ⟨rfl, ⟨rfl, rs_of_reg rfl, same_refl ..⟩, by simp, fun _ _ => rfl⟩
  | cons x cs ih =>
    obtain ⟨hx, hnd⟩ := List.nodup_cons.mp hnd
    have hblk := senses_blk (dieOf x (f / 4096)) (m.memberBlock x f) (m.fur f).stripes m
    have hs := senses_senses (dieOf x (f / 4096)) (m.memberBlock x f) (m.fur f).stripes m
    have heq : m.scanMembers f (x :: cs) =
        (((m.senses (dieOf x (f / 4096)) (m.memberBlock x f) (m.fur f).stripes).scanMembers f cs).1,
          ((m.senses (dieOf x (f / 4096)) (m.memberBlock x f) (m.fur f).stripes).scanMembers f cs).2) := by
      rw [Mach.scanMembers, scanMember_eq, scanned_whole (hw x (by simp))]
      dsimp only
      rw [Bool.false_or]
    rw [heq]
    generalize m.senses (dieOf x (f / 4096)) (m.memberBlock x f) (m.fur f).stripes = u at hblk hs
    obtain ⟨hgone, hsense, hreads, hother⟩ := ih u (fun c => by rw [hs.block]; exact hb c) hnd fun c hc a ha => by
      rw [hs.cws]
      rw [hs.scans] at ha
      exact hw c (List.mem_cons_of_mem _ hc) a ha
    simp only [hs.block, hs.furs] at hreads hother
    have hne (c : Chan) (hc : c ≠ x) : u.blk (dieOf c (f / 4096)) (m.memberBlock c f) = m.blk (dieOf c (f / 4096)) (m.memberBlock c f) :=
      (hblk ..).trans (if_neg fun h => hc (member_key (hb c) (hb x) h))
    refine ⟨hgone, senses_trans hs hsense, fun c hc => ?_, fun c hc => ?_⟩
    · obtain rfl | hin := List.mem_cons.mp hc
      · rw [hother c hx, hblk, if_pos rfl]
      · rw [hreads c hin, hne c fun h => hx (h ▸ hin)]
    · obtain ⟨hcx, hc⟩ := not_or.mp (mt List.mem_cons.mpr hc)
      rw [hother c hc, hne c hcx]

theorem flagRefresh_flags (h : (m.fur f).st = .closed) : ((m.flagRefresh f).fur f).refresh = true := by
  unfold Mach.flagRefresh
  by_cases hr : (m.fur f).refresh = true
  · simp [hr]
  · simp [h, hr, (putFur_put ..).1]

/-- Whether a furrow is flagged, and whether a pass ends, after a scan of it. -/
theorem patrolScan_ends {u : Mach} (flagged passEnd : Bool) (hst : (u.fur f).st = .closed) :
    let w := if flagged then u.flagRefresh f else u
    let t := if passEnd then w.bumpWrap Reg.GLN_SCANPASS else w
    t.fl = u.fl ∧ (t.fur f).refresh = ((u.fur f).refresh || flagged) ∧
    t.rd Reg.GLN_SCANPASS = (if passEnd then u.rd Reg.GLN_SCANPASS + 1 else u.rd Reg.GLN_SCANPASS) ∧
    u.SameBut [.gln, .hdl, .reg] t := by
  have hw (b : Bool) : (if b then u.flagRefresh f else u).fl = u.fl ∧
      ((if b then u.flagRefresh f else u).fur f).refresh = ((u.fur f).refresh || b) ∧
      (if b then u.flagRefresh f else u).rd Reg.GLN_SCANPASS = u.rd Reg.GLN_SCANPASS ∧
      u.SameBut [.gln, .hdl, .reg] (if b then u.flagRefresh f else u) := by
    cases b
    · exact ⟨rfl, (Bool.or_false _).symm, rfl, same_refl ..⟩
    · exact ⟨same_fl (flagRefresh_same ..) (by simp), by rw [Bool.or_true]; exact flagRefresh_flags hst,
        (flagRefresh_regs f u).1 _ (by decide), flagRefresh_same ..⟩
  obtain ⟨hfl, href, hrd, hsame⟩ := hw flagged
  dsimp only
  generalize (if flagged then u.flagRefresh f else u) = w at *
  cases passEnd
  · exact ⟨hfl, href, hrd, hsame⟩
  · refine ⟨hfl, href, ?_, same_trans hsame (by simp [Mach.SameBut])⟩
    rw [← hrd]
    simp [Mach.bumpWrap]

/-- A member whose read count has come to GLN_RDDIST is counted and scanned. -/
def Mach.disturbed (c : Chan) (f : Nat) (m : Mach) : Mach :=
  (m.bump Reg.GLN_DISTURB).senses (dieOf c (f / 4096)) (m.memberBlock c f) (m.fur f).stripes

theorem disturbed_senses (c : Chan) (f : Nat) (m : Mach) : (m.bump Reg.GLN_DISTURB).Senses (m.disturbed c f) := senses_senses ..

theorem disturbScan_eq {c : Chan} {r : Row} {b : Nat} {flagged : Bool} (hg : m.gleaning = true)
    (hr : m.rdN Reg.GLN_RDDIST ≤ (m.blk (dieOf c r.val) b).reads) : m.disturbScan c r b flagged =
    let f := m.furrowOf c r.val b
    let u := m.disturbed c f
    if flagged || ((m.scanned c f).any fun a => (m.cwAt a).gone) then u.flagRefresh f
    else u.putBlk (dieOf c r.val) b { u.blk (dieOf c r.val) b with reads := m.rdN Reg.GLN_RDDIST / 2 } := by
  have hblock (f : Nat) : (m.bump Reg.GLN_DISTURB).memberBlock c f = m.memberBlock c f := memberBlock_of (by simp) c f
  have hscan (f : Nat) : (m.bump Reg.GLN_DISTURB).scanned c f = m.scanned c f := by
    unfold Mach.scanned Mach.planeAddr
    rw [hblock, Mach.bump_fur, Mach.bump_adm]
  have hcw (a : BitVec 40) : (m.bump Reg.GLN_DISTURB).cwAt a = m.cwAt a := cwAt_of (by simp) a
  unfold Mach.disturbScan Mach.disturbed
  dsimp only
  rw [if_neg (by simp [hg, hr])]
  simp only [scanMember_eq, hscan, hblock, hcw, Mach.bump_fur]

theorem disturbScan_idle {c : Chan} {r : Row} {b : Nat} {flagged : Bool}
    (h : (m.blk (dieOf c r.val) b).reads < m.rdN Reg.GLN_RDDIST ∨ m.gleaning = false) : m.disturbScan c r b flagged = m :=
  if_pos (by simpa using h)

theorem disturb_counted (hs : (m.bump Reg.GLN_DISTURB).Senses b) :
    b.rdN Reg.GLN_DISTURB = min 0xFFFFFFFF (m.rdN Reg.GLN_DISTURB + 1) ∧ b.fl = { m.fl with blk := b.fl.blk } ∧
    m.RegsSame [Reg.GLN_DISTURB] b ∧ m.SameBut [.fl, .reg, .hdl] b :=
  ⟨(rdN_of_regsBut hs.regs.1 (by simp)).trans (rdN_bump ..), by rw [hs.fl, Mach.bump_fl], regsSame_then (rs_bump ..) hs.regs,
    same_trans (same_mono (sb_bump ..) (by simp)) (same_mono hs.same (by simp))⟩

theorem disturbScan_whole {c : Chan} {r : Row} {b : Nat} (hg : m.gleaning = true)
    (hr : m.rdN Reg.GLN_RDDIST ≤ (m.blk (dieOf c r.val) b).reads)
    (hw : ∀ a ∈ m.scanned c (m.furrowOf c r.val b), (m.cwAt a).gone = false) :
    ((m.disturbScan c r b false).blk (dieOf c r.val) b).reads = m.rdN Reg.GLN_RDDIST / 2 ∧
    (m.bump Reg.GLN_DISTURB).Senses (m.disturbScan c r b false) := by
  rw [disturbScan_eq hg hr]
  dsimp only
  rw [scanned_whole hw, if_neg (by simp)]
  exact ⟨congrArg Blk.reads ((putBlk_blk ..).trans (if_pos rfl)), senses_trans (disturbed_senses ..) (putBlk_senses ..)⟩

theorem disturbScan_flagged {c : Chan} {r : Row} {b : Nat} (hg : m.gleaning = true)
    (hr : m.rdN Reg.GLN_RDDIST ≤ (m.blk (dieOf c r.val) b).reads) (hst : (m.fur (m.furrowOf c r.val b)).st = .closed) :
    ((m.disturbScan c r b true).fur (m.furrowOf c r.val b)).refresh = true ∧
    (m.disturbScan c r b true).rdN Reg.GLN_DISTURB = min 0xFFFFFFFF (m.rdN Reg.GLN_DISTURB + 1) ∧
    (m.disturbScan c r b true).fl = { m.fl with blk := (m.disturbScan c r b true).fl.blk } := by
  have hs := disturbed_senses c (m.furrowOf c r.val b) m
  obtain ⟨hcount, hfl, -, -⟩ := disturb_counted hs
  rw [disturbScan_eq hg hr]
  dsimp only
  rw [Bool.true_or, if_pos rfl]
  refine ⟨flagRefresh_flags ?_, ?_, ?_⟩
  · rw [hs.furs, Mach.bump_fur, hst]
  · rw [← hcount]
    exact rdN_of_regsBut (flagRefresh_regs ..).1 (by decide)
  · rw [same_fl (flagRefresh_same ..) (by simp)]
    exact hfl

end

end Sys2Proof.Machine

/-! The source reads of the Gleaner (O52): what a read keeps, whatever it meets, and what it gives where every codeword is whole
(R216 to R220, R225, R265). -/

namespace Sys2Proof.Machine

-- One proof at a time: proofs that wait for each other would each hold a thread and its stack.
set_option Elab.async false

/-! ### What reading keeps -/

/-- From a to b codewords have been read. Read counts, refresh flags, statistics and records may have changed, in the parts named; no
furrow has been released, no victim changed, no record asked for and no map entry poisoned. -/
structure Mach.Probed (ps : List Part) (a b : Mach) : Prop where
  same : a.SameBut ps b
  fl : b.fl = { a.fl with blk := b.fl.blk }
  blkSt : ∀ d k, (b.blk d k).st = (a.blk d k).st
  gln : b.gln = { a.gln with fur := b.gln.fur }
  fur : ∀ f, ∃ r, b.fur f = { a.fur f with refresh := r }
  want : b.hdl.want = a.hdl.want
  nextRec : b.hdl.nextRec = a.hdl.nextRec
  page : ∀ p, b.pageSt p = a.pageSt p
  err : (b.hdr .gln).err = (a.hdr .gln).err
  poison : b.rd Reg.GLN_POISON = a.rd Reg.GLN_POISON

/-- The parts that a read changes that succeeds. -/
def probeParts : List Part := [.fl, .gln, .hdl, .reg, .alm]

/-- The parts that a read may change whatever it meets. -/
def readParts : List Part := [.fl, .gln, .hdl, .reg, .alm, .adm, .pff]

theorem markSeg_nextRec (s : Nat) (m : Mach) : (m.markSeg s).hdl.nextRec = m.hdl.nextRec := by
  unfold Mach.markSeg Mach.raiseWindow
  dsimp only
  split
  · rfl
  · split
    · rw [Mach.touch_hdl]
      rfl
    · rfl

namespace Mach.Probed
variable {ps qs : List Part} {a m u : Mach}

theorem refl (a : Mach) : a.Probed ps a := ⟨same_refl .., rfl, fun _ _ => rfl, rfl, fun _ => ⟨_, rfl⟩, rfl, rfl, fun _ => rfl, rfl, rfl⟩

/-- Reading goes on; the further step changes no part but those of the whole. -/
theorem andThen (h : a.Probed ps m) (g : m.Probed qs u) (hq : ∀ p ∈ qs, p ∈ ps := by decide) : a.Probed ps u where
  same := same_trans h.same (same_mono g.same hq)
  fl := by rw [g.fl, h.fl]
  blkSt d k := (g.blkSt d k).trans (h.blkSt d k)
  gln := by rw [g.gln, h.gln]
  fur f := by
    obtain ⟨r, hr⟩ := h.fur f
    obtain ⟨q, hq⟩ := g.fur f
    exact ⟨q, by rw [hq, hr]⟩
  want := g.want.trans h.want
  nextRec := g.nextRec.trans h.nextRec
  page p := (g.page p).trans (h.page p)
  err := g.err.trans h.err
  poison := g.poison.trans h.poison

theorem mono (h : a.Probed ps m) (hq : ∀ p ∈ ps, p ∈ qs := by decide) : a.Probed qs m := (refl a).andThen h hq

theorem ite {c : Prop} [Decidable c] (hm : a.Probed ps m) (hu : a.Probed ps u) : a.Probed ps (if c then m else u) := by
  split
  · exact hm
  · exact hu

theorem each {α : Type} (l : List α) (f : α → Mach → Mach) (hf : ∀ (x : α) (m : Mach), m.Probed ps (f x m)) (m : Mach) : m.Probed ps (m.each l f) := by
  unfold Mach.each
  induction l generalizing m with
  | nil => exact refl m
  | cons x l ih => exact (hf x m).andThen (ih _) fun _ h => h

/-! ### The steps of a read -/

/-- A step that leaves registers, flash, furrows and headland alone. -/
theorem other (h : m.SameBut ps u) (hr : .reg ∉ ps := by decide) (hf : .fl ∉ ps := by decide) (hg : .gln ∉ ps := by decide)
    (hh : .hdl ∉ ps := by decide) : m.Probed ps u where
  same := h
  fl := by rw [same_fl h hf]
  blkSt d k := by unfold Mach.blk; rw [same_fl h hf]
  gln := by rw [same_gln h hg]
  fur f := ⟨(m.fur f).refresh, by unfold Mach.fur; rw [same_gln h hg]⟩
  want := by rw [same_hdl h hh]
  nextRec := by rw [same_hdl h hh]
  page p := by unfold Mach.pageSt Mach.hdr; rw [same_reg h hr]
  err := by unfold Mach.hdr; rw [same_reg h hr]
  poison := by unfold Mach.rd; rw [same_reg h hr]

/-- A step of registers alone. -/
theorem regs (h : m.SameBut [.reg] u) (hp : ∀ p, u.pageSt p = m.pageSt p) (he : (u.hdr .gln).err = (m.hdr .gln).err)
    (hk : u.rd Reg.GLN_POISON = m.rd Reg.GLN_POISON) : m.Probed [.reg] u where
  same := h
  fl := by rw [same_fl h (by decide)]
  blkSt d k := by unfold Mach.blk; rw [same_fl h (by decide)]
  gln := by rw [same_gln h (by decide)]
  fur f := ⟨(m.fur f).refresh, by unfold Mach.fur; rw [same_gln h (by decide)]⟩
  want := by rw [same_hdl h (by decide)]
  nextRec := by rw [same_hdl h (by decide)]
  page := hp
  err := he
  poison := hk

theorem touch (p : Page) (m : Mach) : m.Probed [.reg] (m.touch p) :=
  regs (touch_same ..) (m.pageSt_touch p) (err_of_hdr (m.hdr_touch p _)) (Mach.rd_touch ..)

theorem bump (k : Nat) (m : Mach) (hk : Reg.GLN_POISON ≠ k := by decide) : m.Probed [.reg] (m.bump k) :=
  regs (sb_bump ..) (m.pageSt_bump k) (err_of_hdr (m.hdr_bump k _)) (Mach.rd_bump_ne _ _ _ hk)

theorem bump64 (k : Nat) (m : Mach) : m.Probed [.reg] (m.bump64 k) :=
  regs (by simp [Mach.SameBut]) (fun p => Mach.pageSt_bump64 p k m) (err_of_hdr (hdr_bump64 m k _)) (rd_bump64 ..)

theorem raiseTo (k n top : Nat) (m : Mach) (hk : Reg.GLN_POISON ≠ k := by decide) : m.Probed [.reg] (m.raiseTo k n top) :=
  ite (regs (by simp [Mach.SameBut]) (fun p => m.pageSt_set k _ p) (err_of_hdr (m.hdr_set k _ _)) (Mach.rd_set_ne _ _ _ _ hk)) (refl m)

theorem health (f : Health → Health) (m : Mach) : m.Probed [.adm] (m.health f) := other (by simp [Mach.SameBut, Mach.health])

theorem observe (q : Nat) (b : Option Nat) (v : Int) (m : Mach) : m.Probed [.alm] (m.observe q b v) := other (observe_same ..)

theorem recorded (h : Mach.Recorded m u) : m.Probed [.reg, .pff, .adm, .alm] u where
  same := h.same
  fl := by rw [same_fl h.same (by decide)]
  blkSt d k := by unfold Mach.blk; rw [same_fl h.same (by decide)]
  gln := by rw [same_gln h.same (by decide)]
  fur f := ⟨(m.fur f).refresh, by unfold Mach.fur; rw [same_gln h.same (by decide)]⟩
  want := by rw [same_hdl h.same (by decide)]
  nextRec := by rw [same_hdl h.same (by decide)]
  page := recorded_pageSt h
  err := h.err _ (by decide)
  poison := h.rd _ (by decide)

/-- An error of a page other than the Gleaner's. -/
theorem raise (p : Page) (i : Nat) (arg : BitVec 64) (m : Mach) (hp : .gln ≠ p := by decide) :
    m.Probed [.reg, .pff, .adm, .alm] (m.raise p i arg) := by
  have hbit : m.Probed [.reg] (m.errBit p i) := by
    refine regs (sb_setHdr ..) (fun q => ?_) (by unfold Mach.errBit; rw [Mach.hdr_setHdr_ne _ _ _ _ hp]) (Mach.errBit_rd ..)
    unfold Mach.errBit Mach.pageSt
    by_cases hq : q = p
    · subst hq
      rw [Mach.hdr_setHdr_same]
    · rw [Mach.hdr_setHdr_ne _ _ _ _ hq]
  exact (mono hbit).andThen (recorded (recorded_raise ..))

theorem markSeg (s : Nat) (m : Mach) : m.Probed [.hdl, .reg] (m.markSeg s) where
  same := (markSeg_same ..).1
  fl := by rw [same_fl (markSeg_same s m).1 (by decide)]
  blkSt d k := by unfold Mach.blk; rw [same_fl (markSeg_same s m).1 (by decide)]
  gln := by rw [same_gln (markSeg_same s m).1 (by decide)]
  fur f := ⟨(m.fur f).refresh, by unfold Mach.fur; rw [same_gln (markSeg_same s m).1 (by decide)]⟩
  want := (markSeg_same ..).2
  nextRec := markSeg_nextRec ..
  page p := Mach.pageSt_of_hdr ((markSeg_regs s m).2.2.2 p)
  err := err_of_hdr ((markSeg_regs s m).2.2.2 _)
  poison := (markSeg_regs s m).1 _ (by decide)

/-- A block's entry whose state stands. -/
theorem putBlk (d b : Nat) (x : Blk) (m : Mach) (hx : x.st = (m.blk d b).st) : m.Probed [.fl, .hdl, .reg] (m.putBlk d b x) := by
  have hset : m.Probed [.fl] (m.setBlk d b x) := by
    refine ⟨same_updFl .., rfl, fun e k => ?_, rfl, fun f => ⟨_, rfl⟩, rfl, rfl, fun _ => rfl, rfl, rfl⟩
    have hget : (m.setBlk d b x).blk e k = if 4096 * e + k = 4096 * d + b then x else m.blk e k := SMap.get_set ..
    rw [hget]
    split
    · rename_i h
      unfold Mach.blk at hx ⊢
      rw [hx, h]
    · rfl
  exact (mono hset).andThen (putBlk_marks (R := Mach.Probed [.hdl, .reg]) refl (fun h g => h.andThen g fun _ h => h) markSeg d b x m)

theorem senses (d b n : Nat) (m : Mach) : m.Probed [.fl, .hdl, .reg] (m.senses d b n) := putBlk _ _ _ _ rfl

theorem flagRefresh (f : Nat) (m : Mach) : m.Probed [.gln, .hdl, .reg] (m.flagRefresh f) := by
  obtain h | h := flagRefresh_cases f m <;> rw [h]
  · exact refl m
  · have hset : m.Probed [.gln] (m.setFur f { m.fur f with refresh := true }) := by
      refine ⟨by simp [Mach.SameBut], rfl, fun _ _ => rfl, rfl, fun g => ?_, rfl, rfl, fun _ => rfl, rfl, rfl⟩
      by_cases hg : g = f
      · exact ⟨true, by rw [hg, Mach.fur_setFur_same]⟩
      · exact ⟨_, Mach.fur_setFur_ne _ _ _ _ hg⟩
    exact ((mono hset).andThen (markSeg ..)).andThen (bump ..)

theorem decrypted (enc : Bool) (m : Mach) : m.Probed [.reg] (m.decrypted enc) := by
  obtain ⟨v, k, hv, -, h⟩ := decrypted_cases enc m
  have hmiss : m.Probed [.reg] v := by
    obtain rfl | rfl := hv
    · exact bump ..
    · exact refl _
  rw [h]
  exact hmiss.andThen (bump64 ..)

theorem hardCounts (x : BitVec 40) (d : HardDecode) (m : Mach) : m.Probed probeParts (m.hardCounts x d) := by
  unfold Mach.hardCounts
  extract_lets f die b u
  have hs : m.Probed probeParts u := mono (senses ..)
  clear_value u
  cases d with
  | stage1 bits =>
    have hw (bin : Option Nat) : m.Probed probeParts (if 0 < bits then (u.observe 0x10 bin bits).bump64 Reg.ECC_CORR_LO
        else u.observe 0x10 bin bits) :=
      have ho : m.Probed probeParts (u.observe 0x10 bin bits) := hs.andThen (observe ..)
      ite (ho.andThen (bump64 ..)) ho
    exact ite ((hw _).andThen (flagRefresh ..)) (hw _)
  | stage2 step =>
    have hw : m.Probed probeParts ((u.bump64 Reg.ECC_LADDER_LO).raiseTo Reg.ECC_MAXSTEP step 15) :=
      (hs.andThen (bump64 ..)).andThen (raiseTo ..)
    exact (hw.andThen (putBlk die b { (Mach.blk _ die b) with step := step } _ rfl)).andThen (flagRefresh ..)
  | failed => exact hs

theorem readEnds (x : BitVec 40) (status stage : Nat) (m : Mach) : m.Probed readParts (m.readEnds x status stage 1) := by
  unfold Mach.readEnds
  extract_lets u bin
  have hu : m.Probed readParts u := by
    refine ite ?_ (ite ?_ (ite ?_ (refl m)))
    · exact (mono (bump64 ..)).andThen (health ..)
    · exact ((mono (bump ..)).andThen (health ..)).andThen (raise ..)
    · exact ((mono (bump ..)).andThen (health ..)).andThen (raise ..)
  clear_value bin u
  cases bin with
  | none => exact hu
  | some b => exact hu.andThen (each _ _ (fun _ _ => observe ..) u)

end Mach.Probed

/-! ### A source read, whatever it meets -/

section
variable {ps : List Part} (a : BitVec 40) (r : SrcRead) (m : Mach)

open Mach.Probed

theorem srcRebuild_probed : m.Probed probeParts (m.srcRebuild a r).1 := by
  unfold Mach.srcRebuild
  extract_lets reads ok u
  have hu : m.Probed probeParts u := each _ _ (fun _ _ => mono (senses ..)) m
  exact ite (hu.andThen (flagRefresh ..)) hu

theorem srcDecode_probed : m.Probed probeParts (m.srcDecode a r).1 := by
  unfold Mach.srcDecode
  split
  · exact refl m
  · extract_lets u d w
    have hw : m.Probed probeParts w := (mono (senses ..)).andThen (hardCounts ..)
    clear_value d w
    cases d with
    | stage1 _ => exact hw
    | stage2 _ => exact hw
    | failed =>
      dsimp only
      split
      · exact hw
      · have hs := hw.andThen (senses (adrDie a) (adrBlock a) 4 w)
        split
        · exact (hs.andThen (bump64 ..)).andThen (flagRefresh ..)
        · exact hs

theorem srcStage4_probed (good : Bool) : m.Probed readParts (m.srcStage4 a good r).1 := by
  have h : m.Probed readParts (m.srcRebuild a r).1 := mono (srcRebuild_probed a r m)
  unfold Mach.srcStage4
  generalize m.srcRebuild a r = x at h
  obtain ⟨u, ok⟩ := x
  dsimp only at h ⊢
  have hfails : m.Probed readParts (u.readEnds a St.unrecoveredRead 4 1) := h.andThen (readEnds ..)
  have hmiss : m.Probed readParts (u.bump Reg.ECC_MDMISS) := h.andThen (bump ..)
  have hmissed : m.Probed readParts ((u.bump Reg.ECC_MDMISS).readEnds a St.unrecoveredRead 4 1) := hmiss.andThen (readEnds ..)
  split
  · exact hfails
  · split
    · exact h
    · exact hmissed

theorem srcRead_probed (meets : Cw → Bool) : m.Probed readParts (m.srcRead a meets r).1 := by
  have h : m.Probed readParts (m.srcDecode a r).1 := mono (srcDecode_probed a r m)
  unfold Mach.srcRead
  generalize m.srcDecode a r = x at h
  obtain ⟨u, st⟩ := x
  cases st with
  | none => exact h.andThen (srcStage4_probed ..)
  | some k =>
    dsimp only at h ⊢
    split
    · exact h
    · exact (h.andThen (bump ..)).andThen (srcStage4_probed ..)

theorem srcTag_probed (v : Vid) (stage : Nat) : m.Probed readParts (m.srcTag v a stage r).1 := by
  unfold Mach.srcTag
  dsimp only
  split
  · exact refl m
  · have h : m.Probed readParts (m.decrypted (m.cwAt a).enc) := mono (decrypted ..)
    generalize m.decrypted (m.cwAt a).enc = u at h
    generalize (if stage = 4 then r.check4 else r.check) = check
    have hends (status stage : Nat) : m.Probed readParts (u.readEnds a status stage 1) := h.andThen (readEnds ..)
    split
    · exact hends St.success stage
    · split
      · exact hends St.authFail 4
      · have hs := (h.andThen (bump Reg.CIP_TAGFAIL u)).andThen (srcRebuild_probed a r _)
        generalize (u.bump Reg.CIP_TAGFAIL).srcRebuild a r = x at hs
        obtain ⟨w, ok⟩ := x
        dsimp only at hs ⊢
        have hagain (status : Nat) : m.Probed readParts (w.readEnds a status 4 1) := hs.andThen (readEnds ..)
        split
        · exact hagain St.success
        · exact hagain St.authFail

theorem copyLb_probed (id : Cw) (s0 k0 s : Nat) : m.Probed readParts (m.copyLb a id s0 k0 s r).1 := by
  have h (meets : Cw → Bool) : m.Probed readParts (if s < s0 then (m, none) else if s = s0 then (m, some k0)
      else m.srcRead (a + BitVec.ofNat 40 s) meets r).1 := by
    split
    · exact refl m
    · split
      · exact refl m
      · exact srcRead_probed ..
  unfold Mach.copyLb
  dsimp only
  specialize h fun x => x.kind == .data && x.vol == id.vol && x.lba == id.lba / 4 * 4 + s && x.wsn == id.wsn
  generalize (if s < s0 then (m, none) else if s = s0 then (m, some k0) else _) = x at h
  obtain ⟨u, st⟩ := x
  cases st with
  | none => exact h
  | some k => exact h.andThen (srcTag_probed ..)

theorem copyLbs_probed (rs : List SrcRead) (id : Cw) (s0 k0 : Nat) (l : List Nat) : m.Probed readParts (m.copyLbs a rs id s0 k0 l).1 := by
  induction l generalizing m with
  | nil => exact refl m
  | cons s l ih => exact (copyLb_probed a (rs.getD s goodRead) m id s0 k0 s).andThen (ih _)

/-- A codeword whose metadata do not meet the request is unreadable. -/
theorem srcStage4_unmet : (m.srcStage4 a false r).2 = none := by
  unfold Mach.srcStage4
  generalize m.srcRebuild a r = x
  obtain ⟨u, ok⟩ := x
  cases ok <;> rfl

theorem srcRead_unmet {meets : Cw → Bool} (h : meets (m.cwAt a) = false) : (m.srcRead a meets r).2 = none := by
  unfold Mach.srcRead
  rw [h]
  generalize m.srcDecode a r = x
  obtain ⟨u, st⟩ := x
  cases st <;> exact srcStage4_unmet ..

end

theorem Mach.Probed.cws {ps : List Part} {a b : Mach} (h : a.Probed ps b) (x : BitVec 40) : b.cwAt x = a.cwAt x := cwAt_of (by rw [h.fl]) x

/-- An LB behind the identifying codeword that carries another WSN cannot be had. -/
theorem copyLbs_lacks {a : BitVec 40} {rs : List SrcRead} {id : Cw} {k0 n : Nat} (hn : 0 < n) (l : List Nat) (hl : n ∈ l) (m : Mach)
    (hw : (m.cwAt (a + BitVec.ofNat 40 n)).wsn ≠ id.wsn) : ((m.copyLbs a rs id 0 k0 l).2.all fun e => e.2.isSome) = false := by
  induction l generalizing m with
  | nil => cases hl
  | cons s l ih =>
    have hcons : (m.copyLbs a rs id 0 k0 (s :: l)).2 =
        (s, (m.copyLb a id 0 k0 s (rs.getD s goodRead)).2) :: ((m.copyLb a id 0 k0 s (rs.getD s goodRead)).1.copyLbs a rs id 0 k0 l).2 := rfl
    rw [hcons, List.all_cons]
    obtain rfl | hl := List.mem_cons.mp hl
    · have hnone : (m.copyLb a id 0 k0 n (rs.getD n goodRead)).2 = none := by
        have hst : (m.srcRead (a + BitVec.ofNat 40 n)
            (fun x => x.kind == .data && x.vol == id.vol && x.lba == id.lba / 4 * 4 + n && x.wsn == id.wsn) (rs.getD n goodRead)).2 = none :=
          srcRead_unmet _ _ _ (by simp [hw])
        unfold Mach.copyLb
        dsimp only
        rw [if_neg (by omega), if_neg (by omega)]
        generalize m.srcRead _ _ _ = x at hst
        obtain ⟨u, st⟩ := x
        dsimp only at hst
        rw [hst]
      rw [hnone]
      rfl
    · rw [ih hl _ (by rwa [(copyLb_probed ..).cws]), Bool.and_false]

/-! ### A source read of codewords that are whole -/

/-- What a read keeps that succeeds: codewords that could be read and pass every check still can be, and do. -/
theorem lbGood_of {u m : Mach} {a : BitVec 40} {id : Cw} {n : Nat} (hu : m.Probed probeParts u) (h : m.LbGood a id n) : u.LbGood a id n := by
  have hcw := hu.cws (a + BitVec.ofNat 40 n)
  have hfur : u.furrowOfAddr (a + BitVec.ofNat 40 n) = m.furrowOfAddr (a + BitVec.ofNat 40 n) := by
    unfold Mach.furrowOfAddr Mach.furrowOf Mach.firstSpare Mach.nspare Mach.die
    rw [same_adm hu.same (by decide), hu.fl]
  refine ⟨?_, ?_, by rw [hcw, h.whole], by rw [hcw, h.kind], by rw [hcw, h.vol], by rw [hcw, h.lba], by rw [hcw, h.wsn], ?_, by rw [hcw, h.tag]⟩
  · rw [← h.here]
    unfold Mach.chanAway Mach.running
    rw [hu.page, hu.fl]
  · obtain ⟨r, hr⟩ := hu.fur (m.furrowOfAddr (a + BitVec.ofNat 40 n))
    rw [← h.held]
    unfold Mach.addrLost
    rw [hfur, hr, hu.blkSt]
  · rw [hcw, cwKeyOk_of (same_key hu.same (by decide)) (same_vol hu.same (by decide)), h.key]

section
variable {a : BitVec 40} {id : Cw} {n : Nat} {m : Mach}

open Mach.Probed

theorem srcDecode_good (h : m.LbGood a id n) :
    ∃ u, m.srcDecode (a + BitVec.ofNat 40 n) goodRead = (u, some 1) ∧ m.Probed probeParts u := by
  have hs : m.Probed probeParts (m.senses (adrDie (a + BitVec.ofNat 40 n)) (adrBlock (a + BitVec.ofNat 40 n)) 1) := mono (senses ..)
  have hhard : (m.senses (adrDie (a + BitVec.ofNat 40 n)) (adrBlock (a + BitVec.ofNat 40 n)) 1).hardOf (a + BitVec.ofNat 40 n)
      goodRead.hard = .stage1 0 := by
    unfold Mach.hardOf
    rw [hs.cws, h.whole]
    rfl
  unfold Mach.srcDecode
  rw [if_neg (by simp [h.here, h.held])]
  dsimp only
  rw [hhard]
  exact ⟨_, rfl, hs.andThen (hardCounts ..)⟩

theorem srcRead_good (h : m.LbGood a id n) {meets : Cw → Bool} (hm : meets (m.cwAt (a + BitVec.ofNat 40 n)) = true) :
    ∃ u, m.srcRead (a + BitVec.ofNat 40 n) meets goodRead = (u, some 1) ∧ m.Probed probeParts u := by
  obtain ⟨u, hu, hprobe⟩ := srcDecode_good h
  refine ⟨u, ?_, hprobe⟩
  unfold Mach.srcRead
  rw [hu, hm]
  rfl

theorem srcTag_good (h : m.LbGood a id n) :
    ∃ u, m.srcTag (Fin.ofNat 64 id.vol) (a + BitVec.ofNat 40 n) 1 goodRead = (u, true) ∧ m.Probed probeParts u := by
  have hd : m.Probed probeParts (m.decrypted (m.cwAt (a + BitVec.ofNat 40 n)).enc) := mono (decrypted ..)
  refine ⟨_, ?_, hd.andThen (observe 0x11 (some 0) 0 _)⟩
  unfold Mach.srcTag
  dsimp only
  rw [h.key, h.tag, if_neg (by simp), if_pos (show ((if 1 = 4 then goodRead.check4 else goodRead.check) != .badTag && true) = true from rfl),
    readEnds_decoded _ _ (by decide)]
  rfl

theorem copyLb_good (h : m.LbGood a id n) (hid : id.lba % 4 = 0) :
    ∃ u, m.copyLb a id 0 1 n goodRead = (u, some (m.cwAt (a + BitVec.ofNat 40 n)).data) ∧ m.Probed probeParts u := by
  have hmeets : ((m.cwAt (a + BitVec.ofNat 40 n)).kind == .data && (m.cwAt (a + BitVec.ofNat 40 n)).vol == id.vol &&
      (m.cwAt (a + BitVec.ofNat 40 n)).lba == id.lba / 4 * 4 + n && (m.cwAt (a + BitVec.ofNat 40 n)).wsn == id.wsn) = true := by
    have hlba : id.lba / 4 * 4 + n = id.lba + n := by omega
    simp [h.kind, h.vol, h.lba, h.wsn, hlba]
  obtain ⟨u, hu, hprobe⟩ : ∃ u, (if n < 0 then (m, none) else if n = 0 then (m, some 1) else m.srcRead (a + BitVec.ofNat 40 n)
      (fun x => x.kind == .data && x.vol == id.vol && x.lba == id.lba / 4 * 4 + n && x.wsn == id.wsn) goodRead) = (u, some 1) ∧
      m.Probed probeParts u := by
    rw [if_neg (by omega)]
    split
    · exact ⟨m, rfl, refl m⟩
    · exact srcRead_good h hmeets
  obtain ⟨w, hw, htag⟩ := srcTag_good (lbGood_of hprobe h)
  have hprobed := hprobe.andThen htag
  refine ⟨w, ?_, hprobed⟩
  unfold Mach.copyLb
  dsimp only
  rw [hu]
  dsimp only
  rw [hw]
  dsimp only
  rw [if_pos rfl, hprobed.cws]

theorem copyLbs_good {rs : List SrcRead} (hid : id.lba % 4 = 0) (hr : ∀ n < 4, rs.getD n goodRead = goodRead) (l : List Nat)
    (hl : ∀ n ∈ l, n < 4) (m : Mach) (h : ∀ n < 4, m.LbGood a id n) :
    ∃ u, m.copyLbs a rs id 0 1 l = (u, l.map fun n => (n, some (m.cwAt (a + BitVec.ofNat 40 n)).data)) ∧ m.Probed probeParts u := by
  induction l generalizing m with
  | nil => exact ⟨m, rfl, refl m⟩
  | cons s l ih =>
    have hs := hl s List.mem_cons_self
    obtain ⟨u, hu, hprobe⟩ := copyLb_good (h s hs) hid
    obtain ⟨w, hw, hrest⟩ := ih (fun n hn => hl n (List.mem_cons_of_mem _ hn)) u fun n hn => lbGood_of hprobe (h n hn)
    refine ⟨w, ?_, hprobe.andThen hrest⟩
    rw [Mach.copyLbs, hr s hs, hu]
    dsimp only
    rw [hw]
    simp only [hprobe.cws, List.map_cons]

/-- The first slot that identifies a position, where its codeword is that of the first LB of an MU. -/
theorem identifyMu_good {rs : List SrcRead} {l : List Nat} (h : m.LbGood a id 0) (hid : id.lba % 4 = 0) (hr : rs.getD 0 goodRead = goodRead) :
    ∃ u, m.identifyMu a rs (0 :: l) = (u, some (0, 1)) ∧ m.Probed probeParts u := by
  have hmeets : ((m.cwAt (a + BitVec.ofNat 40 0)).kind == .data && (m.cwAt (a + BitVec.ofNat 40 0)).lba % 4 == 0 ||
      (m.cwAt (a + BitVec.ofNat 40 0)).kind == .filler) = true := by
    rw [h.kind, h.lba, Nat.add_zero, hid]
    rfl
  obtain ⟨u, hu, hprobe⟩ := srcRead_good h (meets := fun x => (x.kind == .data && x.lba % 4 == 0) || x.kind == .filler) hmeets
  refine ⟨u, ?_, hprobe⟩
  rw [Mach.identifyMu, hr, hu]

end

end Sys2Proof.Machine

/-! The statement of gleaning (O52): what a source read, the end of a walk, the erase gate and a scan leave (R257 to R268, R276, R277). -/

namespace Sys2Proof.Machine

-- One proof at a time: proofs that wait for each other would each hold a thread and its stack.
set_option Elab.async false

/-! ### A victim's walk (R259, R265) -/

theorem setVictim_victim (low : Bool) (x : Option Victim) (m : Mach) : (m.setVictim low x).victim low = x := by
  cases low <;> rfl

theorem setVictim_gln (low : Bool) (x : Option Victim) (m : Mach) :
    (m.setVictim low x).gln = { m.gln with vic0 := (m.setVictim low x).gln.vic0, vic1 := (m.setVictim low x).gln.vic1 } := by
  cases low <;> rfl

/-- The turn is the other victim's. -/
def Mach.turned (low : Bool) (m : Mach) : Mach := m.updGln fun g => { g with turnLow := !low }

/-- A victim goes on to its next place, where it is still one. -/
def Mach.walksOn (low : Bool) (v : Victim) (m : Mach) : Mach :=
  match m.victim low with
  | some w => if v.again.isEmpty then m.advance low w else m.setVictim low (some { w with again := v.again.drop 1 })
  | none => m

section
variable {m u : Mach} {low : Bool} {v w : Victim} {a : BitVec 40}

theorem gleanRead_sources (h : m.Sources low v a) (rs : List SrcRead) :
    m.gleanRead low rs = ((m.turned low).gleanPlane low v a rs).walksOn low v := by
  have hturn : (m.sourceReady (!low) && m.gln.turnLow != low) = false := by
    obtain ht | ht := h.turn <;> simp [ht]
  unfold Mach.gleanRead
  rw [if_neg (by simp [h.on, h.ready, hturn]), h.vic]
  dsimp only
  rw [h.next]
  rfl

theorem gleanRead_idle (rs : List SrcRead) (h : m.victim low = none ∨ m.gleaning = false ∨ m.sourceReady low = false ∨
    (m.sourceReady (!low) = true ∧ m.gln.turnLow ≠ low)) : m.gleanRead low rs = m := by
  have hnone (h : m.victim low = none) : m.sourceReady low = false := by simp [Mach.sourceReady, h]
  refine if_pos ?_
  obtain h | h | h | ⟨h, ht⟩ := h
  · simp [hnone h]
  · simp [h]
  · simp [h]
  · simp [h, ht]

theorem walksOn_cases (low : Bool) (v : Victim) (m : Mach) : m.walksOn low v = m ∨ ∃ x, m.walksOn low v = m.setVictim low x := by
  unfold Mach.walksOn Mach.advance
  split
  · split
    · exact .inr ⟨_, rfl⟩
    · exact .inr ⟨_, rfl⟩
  · exact .inl rfl

theorem walksOn_gln (low : Bool) (v : Victim) (m : Mach) :
    (m.walksOn low v).gln = { m.gln with vic0 := (m.walksOn low v).gln.vic0, vic1 := (m.walksOn low v).gln.vic1 } := by
  obtain h | ⟨x, h⟩ := walksOn_cases low v m <;> rw [h]
  exact setVictim_gln ..

/-- Besides the Gleaner's state nothing changes as a walk goes on. -/
theorem walksOn_rest (low : Bool) (v : Victim) (m : Mach) : m.SameBut [.gln] (m.walksOn low v) := by
  obtain h | ⟨x, h⟩ := walksOn_cases low v m <;> rw [h]
  · exact same_refl ..
  · exact same_updGln ..

theorem walksOn_entry (low : Bool) (v : Victim) (m : Mach) (j : Nat) : (m.walksOn low v).entry j = m.entry j := by
  unfold Mach.entry
  rw [same_vol (walksOn_rest low v m) (by decide)]

theorem walksOn_plane (h : m.victim low = some w) (ha : v.again = []) (hp : w.plane + 1 < m.adm.board.planes) :
    (m.walksOn low v).victim low = some { w with
      plane := w.plane + 1, walked := decide (min m.adm.board.pages ((m.fur w.furrow).stripes + 1) ≤ w.page) } := by
  unfold Mach.walksOn Mach.advance
  simp only [h, ha, List.isEmpty_nil, if_pos, if_pos hp, setVictim_victim]

theorem walksOn_keeps (h : m.victim low = some w) :
    ∃ x, (m.walksOn low v).victim low = some x ∧ x.furrow = w.furrow ∧ x.unidentified = w.unidentified := by
  unfold Mach.walksOn Mach.advance
  simp only [h]
  split
  · rw [setVictim_victim]
    refine ⟨_, rfl, ?_⟩
    split
    · exact ⟨rfl, rfl⟩
    · split <;> exact ⟨rfl, rfl⟩
  · exact ⟨_, setVictim_victim .., rfl, rfl⟩

theorem victim_of (h : u.gln.vic0 = m.gln.vic0) (h' : u.gln.vic1 = m.gln.vic1) (low : Bool) : u.victim low = m.victim low := by
  cases low
  · exact h'
  · exact h

theorem Mach.Probed.victims {ps : List Part} (h : m.Probed ps u) (low : Bool) : u.victim low = m.victim low :=
  victim_of (by rw [h.gln]) (by rw [h.gln]) low

/-! ### A plane page whose MU is whole (R265) -/

theorem lbData_slots (f : Nat → Block) : ∀ n < 4, SMap.get 0 (lbData ([0, 1, 2, 3].map fun n => (n, some (f n)))) n = f n := by
  intro n hn
  simp only [lbData, List.map_cons, List.map_nil, List.foldl_cons, List.foldl_nil, SMap.get_set]
  interval_cases n <;> rfl

theorem gleanMu_identified {id : Cw} {vol : Vid} {i : Nat} (hid : m.MuAt a id) (hv : vol = Fin.ofNat 64 id.vol)
    (hi : entryIndex (m.volu vol) id.lba = some i) (he : m.entry i = a) (rs : List SrcRead) :
    m.gleanMu v a rs 0 1 = if (m.copyLbs a rs id 0 1 [0, 1, 2, 3]).2.all fun e => e.2.isSome
      then (m.copyLbs a rs id 0 1 [0, 1, 2, 3]).1.stageCopy v a id (m.copyLbs a rs id 0 1 [0, 1, 2, 3]).2
      else (m.copyLbs a rs id 0 1 [0, 1, 2, 3]).1.poisonMu i a id (m.copyLbs a rs id 0 1 [0, 1, 2, 3]).2 := by
  have hcw : m.cwAt (a + BitVec.ofNat 40 0) = id := by simp [hid.cw]
  unfold Mach.gleanMu
  dsimp only
  rw [hcw, if_neg (by simp [hid.kind]), ← hv, hi]
  dsimp only
  rw [if_neg (by simp [he])]

theorem muAt_of {ps : List Part} {id : Cw} (h : m.Probed ps u) (hid : m.MuAt a id) : u.MuAt a id :=
  ⟨by rw [h.cws]; exact hid.cw, hid.kind, hid.lba⟩

/-- The read of a plane page whose MU is identified goes on to its LBs. -/
theorem gleanPlane_identified {id : Cw} {vol : Vid} {i : Nat} {rs : List SrcRead} (hid : m.MuAt a id) (hv : vol = Fin.ofNat 64 id.vol)
    (hr : rs.getD 0 goodRead = goodRead) (hg : m.LbGood a id 0) (hi : entryIndex (m.volu vol) id.lba = some i) (he : m.entry i = a) :
    ∃ u, m.Probed probeParts u ∧ m.gleanPlane low v a rs = if (u.copyLbs a rs id 0 1 [0, 1, 2, 3]).2.all fun e => e.2.isSome
      then (u.copyLbs a rs id 0 1 [0, 1, 2, 3]).1.stageCopy v a id (u.copyLbs a rs id 0 1 [0, 1, 2, 3]).2
      else (u.copyLbs a rs id 0 1 [0, 1, 2, 3]).1.poisonMu i a id (u.copyLbs a rs id 0 1 [0, 1, 2, 3]).2 := by
  obtain ⟨u, hu, hprobe⟩ := identifyMu_good (l := [1, 2, 3]) hg hid.lba hr
  have hvol := same_vol hprobe.same (by decide)
  refine ⟨u, hprobe, ?_⟩
  unfold Mach.gleanPlane
  rw [if_neg (by simp [← hid.cw, hid.kind]), hu]
  refine gleanMu_identified (muAt_of hprobe hid) hv ?_ ?_ rs
  · unfold Mach.volu at hi ⊢
    rw [hvol, hi]
  · unfold Mach.entry at he ⊢
    rw [hvol, he]

/-- A valid MU whose every LB is whole is staged. -/
theorem gleanPlane_copies {id : Cw} {vol : Vid} {i : Nat} {rs : List SrcRead} (hid : m.MuAt a id) (hv : vol = Fin.ofNat 64 id.vol)
    (hr : ∀ n < 4, rs.getD n goodRead = goodRead) (hg : ∀ n < 4, m.LbGood a id n) (hi : entryIndex (m.volu vol) id.lba = some i)
    (he : m.entry i = a) : ∃ u, m.Probed probeParts u ∧ m.gleanPlane low v a rs =
      u.stageCopy v a id ([0, 1, 2, 3].map fun n => (n, some (m.cwAt (a + BitVec.ofNat 40 n)).data)) := by
  obtain ⟨u, hprobe, hplane⟩ := gleanPlane_identified (low := low) (v := v) hid hv (hr 0 (by decide)) (hg 0 (by decide)) hi he
  obtain ⟨w, hw, hcopy⟩ := copyLbs_good hid.lba hr [0, 1, 2, 3] (by decide) u fun n hn => lbGood_of hprobe (hg n hn)
  refine ⟨w, hprobe.andThen hcopy, ?_⟩
  rw [hplane, hw]
  simp only [hprobe.cws]
  rfl

/-- A valid MU of which an LB carries another WSN is poisoned. -/
theorem gleanPlane_poisons {id : Cw} {vol : Vid} {i n : Nat} {rs : List SrcRead} (hid : m.MuAt a id) (hv : vol = Fin.ofNat 64 id.vol)
    (hr : rs.getD 0 goodRead = goodRead) (hg : m.LbGood a id 0) (hn : 0 < n) (h4 : n < 4)
    (hw : (m.cwAt (a + BitVec.ofNat 40 n)).wsn ≠ id.wsn) (hi : entryIndex (m.volu vol) id.lba = some i) (he : m.entry i = a) :
    ∃ u l, m.Probed readParts u ∧ m.gleanPlane low v a rs = u.poisonMu i a id l := by
  obtain ⟨u, hprobe, hplane⟩ := gleanPlane_identified (low := low) (v := v) hid hv hr hg hi he
  have hlack := copyLbs_lacks (a := a) (rs := rs) (k0 := 1) hn [0, 1, 2, 3] (by interval_cases n <;> decide) u (by rwa [hprobe.cws])
  refine ⟨_, (u.copyLbs a rs id 0 1 [0, 1, 2, 3]).2, (hprobe.mono (qs := readParts)).andThen (copyLbs_probed a u rs id 0 1 [0, 1, 2, 3]), ?_⟩
  rw [hplane, hlack]
  exact if_neg Bool.false_ne_true

theorem gleanPlane_erased (h : (m.cwAt a).kind = .erased) (rs : List SrcRead) : m.gleanPlane low v a rs = m := by
  unfold Mach.gleanPlane
  rw [h]
  rfl

/-! ### A position that cannot be identified -/

/-- Of administration only the parts of the board tell where a codeword lies. -/
theorem parityGroup_updAdm {f : Admin → Admin} (h : (f m.adm).board = m.adm.board) (x : BitVec 40) :
    (m.updAdm f).parityGroup x = m.parityGroup x := by
  have hfur (y : BitVec 40) : (m.updAdm f).furrowOfAddr y = m.furrowOfAddr y := by
    unfold Mach.furrowOfAddr Mach.furrowOf Mach.firstSpare Mach.nspare Mach.updAdm
    dsimp only
    rw [h]
    rfl
  unfold Mach.parityGroup Mach.groupWith Mach.flashParity Mach.memberDown
  simp only [hfur]
  rfl

/-- A read that fails leaves what tells where the peers of a codeword lie, and which can be read. -/
theorem parityGroup_readEnds (b x : BitVec 40) (m : Mach) : (m.readEnds b St.unrecoveredRead 4 1).parityGroup x = m.parityGroup x := by
  have hprobe := Mach.Probed.readEnds b St.unrecoveredRead 4 m
  have hsame := readEnds_same m b 4
  have hboard : (m.readEnds b St.unrecoveredRead 4 1).adm.board = m.adm.board := by
    rw [(readEnds_records m b 4).adm]
    rfl
  generalize m.readEnds b St.unrecoveredRead 4 1 = u at *
  have hu : m.SameParity (u.updAdm fun _ => m.adm) :=
    { adm := rfl, die := by rw [← same_fl hsame (by decide)]; rfl, cw := by rw [← same_fl hsame (by decide)]; rfl
      retired := by rw [← same_fl hsame (by decide)]; rfl, buf := by rw [← same_buf hsame (by decide)]; rfl
      log := by rw [← same_hdl hsame (by decide)]; rfl, page := hprobe.page, fur := hprobe.fur }
  rw [← hu.parityGroup, parityGroup_updAdm hboard.symm]

theorem srcRebuild_alone (r : SrcRead) (hp : m.parityGroup a = none) : m.srcRebuild a r = (m, false) := by
  unfold Mach.srcRebuild Mach.rebuildNow
  rw [hp]
  rfl

theorem srcRead_away {meets : Cw → Bool} {r : SrcRead} (hc : m.chanAway (adrChan a) = true) (hp : m.parityGroup a = none) :
    m.srcRead a meets r = (m.readEnds a St.unrecoveredRead 4 1, none) := by
  have hdecode : m.srcDecode a r = (m, none) := by
    unfold Mach.srcDecode
    rw [hc]
    rfl
  unfold Mach.srcRead
  rw [hdecode]
  dsimp only
  unfold Mach.srcStage4
  rw [srcRebuild_alone r hp]
  rfl

theorem identifyMu_away {rs : List SrcRead} (l : List Nat) (m : Mach)
    (h : ∀ n ∈ l, m.chanAway (adrChan (a + BitVec.ofNat 40 n)) = true ∧ m.parityGroup (a + BitVec.ofNat 40 n) = none) :
    ∃ u, m.identifyMu a rs l = (u, none) ∧ m.Probed readParts u := by
  induction l generalizing m with
  | nil => exact ⟨m, rfl, .refl m⟩
  | cons s l ih =>
    obtain ⟨hc, hp⟩ := h s List.mem_cons_self
    have hprobe := Mach.Probed.readEnds (a + BitVec.ofNat 40 s) St.unrecoveredRead 4 m
    have hparity (x : BitVec 40) := parityGroup_readEnds (a + BitVec.ofNat 40 s) x m
    rw [Mach.identifyMu, srcRead_away hc hp]
    dsimp only
    generalize m.readEnds (a + BitVec.ofNat 40 s) St.unrecoveredRead 4 1 = u at hprobe hparity
    have haway (c : Chan) : u.chanAway c = m.chanAway c := by
      unfold Mach.chanAway Mach.running
      rw [hprobe.page, hprobe.fl]
    obtain ⟨w, hw, hrest⟩ := ih u fun n hn => by rw [haway, hparity]; exact h n (List.mem_cons_of_mem _ hn)
    exact ⟨w, hw, hprobe.andThen hrest⟩

theorem gleanPlane_unidentified {rs : List SrcRead} (hk : (m.cwAt a).kind ≠ .erased)
    (h : ∀ n < 4, m.chanAway (adrChan (a + BitVec.ofNat 40 n)) = true ∧ m.parityGroup (a + BitVec.ofNat 40 n) = none) :
    ∃ u, m.Probed readParts u ∧
      m.gleanPlane low v a rs = u.setVictim low ((m.victim low).map fun v => { v with unidentified := v.unidentified + 1 }) := by
  obtain ⟨u, hu, hprobe⟩ := identifyMu_away (rs := rs) [0, 1, 2, 3] m fun n hn => h n (by revert n; decide)
  refine ⟨u, hprobe, ?_⟩
  unfold Mach.gleanPlane
  rw [if_neg (by simpa using hk), hu]
  dsimp only
  rw [hprobe.victims]

end

/-! ### A map entry is poisoned (R265, R269) -/

/-- No copy is dropped, and no record asked for, as an entry changes. -/
theorem setEntry_keeps (i : Nat) (e : BitVec 40) (m : Mach) :
    (m.setEntry i e).hdl.nextRec = m.hdl.nextRec ∧ (m.setEntry i e).gln.copies = m.gln.copies := by
  have hdown (f : Nat) (m : Mach) : (m.validDown f).hdl.nextRec = m.hdl.nextRec ∧ (m.validDown f).gln.copies = m.gln.copies := by
    unfold Mach.validDown
    dsimp only
    split
    · unfold Mach.releaseFur Mach.endVictim
      refine ⟨markSeg_nextRec .., ?_⟩
      dsimp only [Mach.updGln]
      rw [putFur_gln]
      rfl
    · exact ⟨rfl, rfl⟩
  have hsegs (l : List Nat) (m : Mach) : (m.each l Mach.markSeg).hdl.nextRec = m.hdl.nextRec ∧
      (m.each l Mach.markSeg).gln.copies = m.gln.copies :=
    have h := Mach.Probed.each l Mach.markSeg Mach.Probed.markSeg m
    ⟨h.nextRec, by rw [h.gln]⟩
  have hup (b : Bool) (f : Nat) (m : Mach) : (if b then m.validUp f else m).hdl.nextRec = m.hdl.nextRec ∧
      (if b then m.validUp f else m).gln.copies = m.gln.copies := by
    cases b <;> exact ⟨rfl, rfl⟩
  unfold Mach.setEntry
  dsimp only
  split
  · exact ⟨rfl, rfl⟩
  · obtain ⟨hsr, hsc⟩ := hsegs (mapSegsOf i) (m.updVol fun x => { x with map := SMap.set unmapped x.map i e })
    generalize Mach.each (mapSegsOf i) Mach.markSeg _ = u at *
    obtain ⟨hur, huc⟩ := hup (isAddr e) (u.furrowOfAddr e) u
    generalize (if isAddr e then u.validUp (u.furrowOfAddr e) else u) = w at *
    split
    · obtain ⟨hdr, hdc⟩ := hdown (w.furrowOfAddr (m.entry i)) w
      exact ⟨hdr.trans (hur.trans hsr), hdc.trans (huc.trans hsc)⟩
    · exact ⟨hur.trans hsr, huc.trans hsc⟩

/-- From a to b entry i, of an MU of a volume, has been poisoned: counted, with the record of it asked for. -/
structure Mach.Poisons (i : Nat) (b : HBody) (m u : Mach) : Prop where
  entry : u.entry i = poisoned
  others : ∀ j, j ≠ i → u.entry j = m.entry j
  copies : u.gln.copies = m.gln.copies
  count : u.rdN Reg.GLN_POISON = min 0xFFFFFFFF (m.rdN Reg.GLN_POISON + 1)
  err : (u.hdr .gln).err = (m.hdr .gln).err
  want : (m.hdl.nextRec, b) ∈ u.hdl.want
  regs : m.RegsBut [Reg.GLN_POISON] u

section
variable {m u w : Mach} {i : Nat} {src : BitVec 40}

theorem casPoison_poisons (he : m.entry i = src) (v : Vid) (mu wsn : Nat) : m.Poisons i (.poison v mu wsn) (m.casPoison i src v mu wsn) := by
  have heq : m.casPoison i src v mu wsn =
      ((((m.setEntry i poisoned).bump64 Reg.MAP_INSTALL_LO).bump Reg.GLN_POISON).ask (.poison v mu wsn)).1 := if_neg (by simp [he])
  obtain ⟨hentry, -, -⟩ := setEntry_facts m i poisoned
  obtain ⟨hnext, hcopies⟩ := setEntry_keeps i poisoned m
  obtain ⟨hrd, -, -, hhdr⟩ := setEntry_regs i poisoned m
  rw [heq]
  generalize m.setEntry i poisoned = s at hentry hnext hcopies hrd hhdr
  have hcount := Mach.Probed.bump64 Reg.MAP_INSTALL_LO s
  generalize hz : s.bump64 Reg.MAP_INSTALL_LO = z at hcount
  have hzrd (k : Nat) : z.rd k = s.rd k := by rw [← hz, rd_bump64]
  have hasks : ((z.bump Reg.GLN_POISON).ask (.poison v mu wsn)).1.hdl.want =
      (z.bump Reg.GLN_POISON).hdl.want ++ [((z.bump Reg.GLN_POISON).hdl.nextRec, .poison v mu wsn)] := rfl
  have hsee (j : Nat) : ((z.bump Reg.GLN_POISON).ask (.poison v mu wsn)).1.entry j = s.entry j := by
    have hvol : (z.bump Reg.GLN_POISON).vol = s.vol := by rw [Mach.bump_vol, same_vol hcount.same (by decide)]
    exact congrArg (fun x : Vols => SMap.get unmapped x.map j) hvol
  refine ⟨by rw [hsee, hentry, if_pos rfl], fun j hj => by rw [hsee, hentry, if_neg hj], ?_, ?_, ?_, ?_, fun k hk => ?_⟩
  · have hgln : (z.bump Reg.GLN_POISON).gln.copies = s.gln.copies := by rw [Mach.bump_gln, hcount.gln]
    exact hgln.trans hcopies
  · refine (rdN_bump z _).trans ?_
    unfold Mach.rdN
    rw [hzrd, hrd _ (by simp)]
  · exact (err_of_hdr (Mach.hdr_bump ..)).trans (hcount.err.trans (err_of_hdr (hhdr _)))
  · rw [hasks, Mach.bump_hdl, hcount.nextRec, hnext]
    exact List.mem_append_right _ (List.mem_singleton_self _)
  · exact (Mach.rd_bump_ne _ _ _ (by simpa using hk)).trans ((hzrd k).trans (hrd k (by simp)))

/-- The parts that the end of a poisoning may change. -/
def heldParts : List Part := [.buf, .reg, .alm, .adm, .pff]

theorem discardVers_probed (l : List Ver) (m : Mach) : m.Probed heldParts (m.discardVers l) := by
  have hobserve (u : Mach) : u.Probed heldParts u.observeBuf :=
    (Mach.Probed.mono (.observe 0x50 none u.bufUsed u)).andThen (.touch ..)
  refine .each _ _ (fun x u => ?_) m
  have hdrop : u.Probed heldParts (u.dropVer x.id) := by
    unfold Mach.dropVer Mach.dropVers
    exact .ite (.refl u) (Mach.Probed.andThen (ps := heldParts) (.mono (.other (ps := [.buf]) (by simp [Mach.SameBut]))) (hobserve _))
  exact (hdrop.andThen (.bump ..)).andThen (.recorded (recorded_devEvent ..))

/-- Behind the error of a poisoning only a version is held, and others are discarded for it. -/
theorem poisonMu_holds (i : Nat) (a : BitVec 40) (id : Cw) (l : List (Nat × Option Block)) (m : Mach) :
    ∃ arg, ((m.casPoison i a (Fin.ofNat 64 id.vol) (id.lba / 4) id.wsn).raise .gln 16 arg).Probed heldParts (m.poisonMu i a id l) := by
  unfold Mach.poisonMu
  extract_lets vol mu mask u held w z
  refine ⟨_, .ite (.refl u) ?_⟩
  have hw : u.Probed heldParts w := .ite (.refl u) (discardVers_probed ..)
  have hz : u.Probed heldParts z :=
    ((hw.andThen (.other (ps := [.buf]) (by simp [Mach.SameBut]))).andThen (.observe 0x50 none _ _)).andThen (.touch ..)
  exact .ite (hz.andThen (discardVers_probed ..)) hz

/-- What a poisoned MU leaves. -/
theorem poisonMu_poisons {id : Cw} (he : m.entry i = src) (l : List (Nat × Option Block)) :
    (m.poisonMu i src id l).entry i = poisoned ∧ (∀ j, j ≠ i → (m.poisonMu i src id l).entry j = m.entry j) ∧
    (m.poisonMu i src id l).gln.copies = m.gln.copies ∧
    (m.poisonMu i src id l).rdN Reg.GLN_POISON = min 0xFFFFFFFF (m.rdN Reg.GLN_POISON + 1) ∧
    ((m.poisonMu i src id l).hdr .gln).err = (m.hdr .gln).err ||| bit32 16 ∧
    (m.hdl.nextRec, .poison (Fin.ofNat 64 id.vol) (id.lba / 4) id.wsn) ∈ (m.poisonMu i src id l).hdl.want := by
  have hcas := casPoison_poisons he (Fin.ofNat 64 id.vol) (id.lba / 4) id.wsn
  obtain ⟨arg, hheld⟩ := poisonMu_holds i src id l m
  have hraise := recorded_raise (m.casPoison i src (Fin.ofNat 64 id.vol) (id.lba / 4) id.wsn) .gln 16 arg
  generalize m.casPoison i src (Fin.ofNat 64 id.vol) (id.lba / 4) id.wsn = p at *
  generalize m.poisonMu i src id l = t at *
  generalize p.raise .gln 16 arg = r at *
  have hentry (j : Nat) : t.entry j = p.entry j := by
    unfold Mach.entry
    rw [same_vol hheld.same (by decide), same_vol hraise.same (by decide)]
    rfl
  have hgln : t.gln.copies = p.gln.copies := by
    rw [hheld.gln, same_gln hraise.same (by decide)]
    rfl
  refine ⟨(hentry i).trans hcas.entry, fun j hj => (hentry j).trans (hcas.others j hj), hgln.trans hcas.copies, ?_, ?_, ?_⟩
  · rw [← hcas.count]
    unfold Mach.rdN
    rw [hheld.poison, hraise.rd _ (by decide), Mach.errBit_rd]
  · rw [hheld.err, hraise.err _ (by decide), Mach.errBit, Mach.hdr_setHdr_same, ← hcas.err]
  · rw [hheld.want, same_hdl hraise.same (by decide)]
    exact hcas.want

/-! ### The end of a walk (R265) -/

theorem residual_idle {low : Bool} (h : ∀ v, m.victim low = some v → v.walked = false ∨ (m.fur v.furrow).valid = 0) : m.residual low = m := by
  unfold Mach.residual
  split
  · rfl
  · rename_i v hv
    refine if_pos ?_
    obtain h | h := h v hv <;> simp [h]

/-- One entry is left: it is poisoned, under its version that is installed. -/
theorem residual_one {low : Bool} {v : Victim} {mu : Nat} {e : BitVec 40} {vol : Vid} (hv : m.victim low = some v) (hg : m.gleaning = true)
    (hw : v.walked = true) (ha : v.again = []) (hi : m.installHeld i = false) (hs : m.stagedFrom v.furrow = false)
    (hn : (m.fur v.furrow).valid ≠ 0) (hl : m.vol.map.filter (fun e => isAddr e.2 && m.furrowOfAddr e.2 == v.furrow) = [(i, e)])
    (ho : m.entryOwner i = some (vol, mu)) : m.residual low = ((m.bump Reg.GLN_RESIDUAL).casPoison i e vol mu (m.installed i)).devEvent .warn 0x010E
      (BitVec.ofNat 64 (vol.val + 64 * mu)) [] := by
  have howner : (m.bump Reg.GLN_RESIDUAL).entryOwner i = m.entryOwner i := by
    unfold Mach.entryOwner
    simp only [Mach.bump_volu]
  have hinst : (m.bump Reg.GLN_RESIDUAL).installed i = m.installed i := by
    unfold Mach.installed
    rw [Mach.bump_vol]
  unfold Mach.residual
  rw [hv]
  dsimp only
  rw [hl, if_neg (by simp [hg, hw, ha, hs, hn, hi])]
  unfold Mach.each
  rw [List.foldl_cons, List.foldl_nil]
  dsimp only
  rw [howner, ho, hinst]

theorem residual_poisons {vol : Vid} {mu wsn : Nat} {e : BitVec 40} {arg : BitVec 64} (he : m.entry i = e)
    (hu : u = ((m.bump Reg.GLN_RESIDUAL).casPoison i e vol mu wsn).devEvent .warn 0x010E arg []) :
    u.entry i = poisoned ∧ (∀ j, j ≠ i → u.entry j = m.entry j) ∧
    u.rdN Reg.GLN_RESIDUAL = min 0xFFFFFFFF (m.rdN Reg.GLN_RESIDUAL + 1) ∧
    u.rdN Reg.GLN_POISON = min 0xFFFFFFFF (m.rdN Reg.GLN_POISON + 1) ∧ (m.hdl.nextRec, .poison vol mu wsn) ∈ u.hdl.want := by
  have hcas := casPoison_poisons (m := m.bump Reg.GLN_RESIDUAL) (i := i) (by rw [Mach.bump_entry, he]) vol mu wsn
  have hevent := recorded_devEvent ((m.bump Reg.GLN_RESIDUAL).casPoison i e vol mu wsn) .warn 0x010E arg []
  rw [← hu] at hevent
  generalize (m.bump Reg.GLN_RESIDUAL).casPoison i e vol mu wsn = p at *
  have hentry (j : Nat) : u.entry j = p.entry j := by
    unfold Mach.entry
    rw [same_vol hevent.same (by decide)]
  have hrd (k : Nat) (hk : k ∉ almKeys) : u.rdN k = p.rdN k := by
    unfold Mach.rdN
    rw [hevent.rd k hk]
  refine ⟨(hentry i).trans hcas.entry, fun j hj => (hentry j).trans ((hcas.others j hj).trans (Mach.bump_entry ..)), ?_, ?_, ?_⟩
  · rw [hrd _ (by decide), rdN_of_regsBut hcas.regs (by decide), rdN_bump]
  · rw [hrd _ (by decide), hcas.count]
    unfold Mach.rdN
    rw [Mach.rd_bump_ne _ _ _ (by decide)]
  · have hwant := hcas.want
    rw [Mach.bump_hdl] at hwant
    rwa [same_hdl hevent.same (by decide)]

/-! ### The source reads, put together (R265) -/

/-- The turn does not tell which codewords are whole. -/
theorem turned_lbGood {low : Bool} {a : BitVec 40} {id : Cw} {n : Nat} (h : m.LbGood a id n) : (m.turned low).LbGood a id n :=
  ⟨h.here, h.held, h.whole, h.kind, h.vol, h.lba, h.wsn, h.key, h.tag⟩

theorem turned_muAt {low : Bool} {a : BitVec 40} {id : Cw} (h : m.MuAt a id) : (m.turned low).MuAt a id := ⟨h.cw, h.kind, h.lba⟩

theorem turned_victim (low : Bool) (m : Mach) (k : Bool) : (m.turned low).victim k = m.victim k := by cases k <;> rfl

/-- The copy of an MU that is staged. -/
def Mach.staged (v : Victim) (a : BitVec 40) (id : Cw) (l : List (Nat × Option Block)) (m : Mach) : Copy :=
  { id := m.gln.nextCopy, vol := Fin.ofNat 64 id.vol, mu := id.lba / 4, src := a, wsn := id.wsn, data := lbData l
    lampwb := (List.range 4).foldl (fun w s => setBit w s (m.cwAt (a + BitVec.ofNat 40 s)).lampwb) 0
    pos := if (m.volu (Fin.ofNat 64 id.vol)).layout1 then 3 else if v.cold then 5 else 4, flying := false }

theorem stageCopy_gln (v : Victim) (a : BitVec 40) (id : Cw) (l : List (Nat × Option Block)) (m : Mach) : (m.stageCopy v a id l).gln =
    { m.gln with copies := m.gln.copies ++ [m.staged v a id l], nextCopy := m.gln.nextCopy + 1 } := rfl

theorem stageCopy_same (v : Victim) (a : BitVec 40) (id : Cw) (l : List (Nat × Option Block)) (m : Mach) :
    m.SameBut [.gln] (m.stageCopy v a id l) := same_updGln ..

theorem gleanRead_copies {low : Bool} {rs : List SrcRead} {v : Victim} {a : BitVec 40} {id : Cw} {vol : Vid} (h : m.Sources low v a)
    (hid : m.MuAt a id) (hv : vol = Fin.ofNat 64 id.vol) (hr : ∀ n < 4, rs.getD n goodRead = goodRead) (hg : ∀ n < 4, m.LbGood a id n)
    (hi : entryIndex (m.volu vol) id.lba = some i) (he : m.entry i = a) (ht : w = m.gleanRead low rs) :
    (∃ x, w.gln.copies = m.gln.copies ++ [x] ∧ x.id = m.gln.nextCopy ∧ x.vol = vol ∧ x.mu = id.lba / 4 ∧ x.src = a ∧ x.wsn = id.wsn ∧
      x.flying = false ∧ x.pos = (if (m.volu vol).layout1 then 3 else if v.cold then 5 else 4) ∧
      ∀ n < 4, SMap.get 0 x.data n = (m.cwAt (a + BitVec.ofNat 40 n)).data) ∧
    w.gln.nextCopy = m.gln.nextCopy + 1 ∧ w.gln.turnLow = !low ∧
    (v.again = [] → v.plane + 1 < m.adm.board.planes → w.victim low =
      some { v with plane := v.plane + 1, walked := decide (min m.adm.board.pages ((m.fur v.furrow).stripes + 1) ≤ v.page) }) ∧
    (∀ j, w.entry j = m.entry j) ∧ m.SameBut [.gln, .fl, .hdl, .reg, .alm] w := by
  obtain ⟨u, hprobe, hplane⟩ := gleanPlane_copies (low := low) (v := v) (turned_muAt (low := low) hid) hv hr
    (fun n hn => turned_lbGood (hg n hn)) hi he
  rw [gleanRead_sources h rs, hplane] at ht
  generalize hl : ([0, 1, 2, 3].map fun n => (n, some ((m.turned low).cwAt (a + BitVec.ofNat 40 n)).data)) = l at ht
  have hwalk := walksOn_gln low v (u.stageCopy v a id l)
  have hrest := walksOn_rest low v (u.stageCopy v a id l)
  rw [← ht] at hwalk hrest
  have hvol : u.vol = m.vol := (same_vol hprobe.same (by decide)).trans rfl
  have hadm : u.adm = m.adm := (same_adm hprobe.same (by decide)).trans rfl
  have hgln := hprobe.gln
  have hsame : m.SameBut [.gln, .fl, .hdl, .reg, .alm] w := by
    refine same_trans (b := m.turned low) (same_mono (same_updGln ..) (by decide)) (same_trans (same_mono hprobe.same (by decide)) ?_)
    exact same_trans (same_mono (stageCopy_same ..) (by decide)) (same_mono hrest (by decide))
  refine ⟨⟨u.staged v a id l, ?_, ?_, hv.symm, rfl, rfl, rfl, rfl, ?_, ?_⟩, ?_, ?_, fun hag hp => ?_, fun j => ?_, hsame⟩
  · rw [hwalk, stageCopy_gln, hgln]
    rfl
  · unfold Mach.staged
    rw [hgln]
    rfl
  · unfold Mach.staged Mach.volu
    rw [hvol, hv]
  · rw [← hl]
    exact lbData_slots fun n => (m.cwAt (a + BitVec.ofNat 40 n)).data
  · rw [hwalk, stageCopy_gln, hgln]
    rfl
  · rw [hwalk, stageCopy_gln, hgln]
    rfl
  · have hvic : (u.stageCopy v a id l).victim low = some v :=
      (victim_of rfl rfl low).trans ((hprobe.victims low).trans ((turned_victim ..).trans h.vic))
    obtain ⟨r, hfur⟩ := hprobe.fur v.furrow
    have hstripes : ((u.stageCopy v a id l).fur v.furrow).stripes = (m.fur v.furrow).stripes :=
      Eq.trans (b := (u.fur v.furrow).stripes) rfl ((congrArg Fur.stripes hfur).trans rfl)
    have hboard : (u.stageCopy v a id l).adm.board = m.adm.board := congrArg Admin.board hadm
    rw [ht, walksOn_plane hvic hag (by rw [hboard]; exact hp), hstripes, hboard]
  · unfold Mach.entry
    rw [same_vol hsame (by decide)]

theorem gleanRead_poisons {low : Bool} {rs : List SrcRead} {v : Victim} {a : BitVec 40} {id : Cw} {vol : Vid} {n : Nat}
    (h : m.Sources low v a) (hid : m.MuAt a id) (hv : vol = Fin.ofNat 64 id.vol) (hr : rs.getD 0 goodRead = goodRead)
    (hg : m.LbGood a id 0) (hn : 0 < n) (h4 : n < 4) (hw : (m.cwAt (a + BitVec.ofNat 40 n)).wsn ≠ id.wsn)
    (hi : entryIndex (m.volu vol) id.lba = some i) (he : m.entry i = a) (ht : w = m.gleanRead low rs) :
    w.entry i = poisoned ∧ (∀ j, j ≠ i → w.entry j = m.entry j) ∧ w.gln.copies = m.gln.copies ∧
    w.rdN Reg.GLN_POISON = min 0xFFFFFFFF (m.rdN Reg.GLN_POISON + 1) ∧ (w.hdr .gln).err = (m.hdr .gln).err ||| bit32 16 ∧
    (m.hdl.nextRec, .poison vol (id.lba / 4) id.wsn) ∈ w.hdl.want := by
  obtain ⟨u, l, hprobe, hplane⟩ := gleanPlane_poisons (low := low) (v := v) (turned_muAt (low := low) hid) hv hr (turned_lbGood hg) hn h4 hw hi he
  rw [gleanRead_sources h rs, hplane] at ht
  have hentry (j : Nat) : u.entry j = m.entry j := by
    unfold Mach.entry
    rw [same_vol hprobe.same (by decide)]
    rfl
  obtain ⟨pentry, pothers, pcopies, pcount, perr, pwant⟩ := poisonMu_poisons (id := id) ((hentry i).trans he) l
  have hwalk := walksOn_gln low v (u.poisonMu i a id l)
  have hrest := walksOn_rest low v (u.poisonMu i a id l)
  have hsee := walksOn_entry low v (u.poisonMu i a id l)
  rw [← ht] at hwalk hrest hsee
  have hreg := same_reg hrest (by decide)
  refine ⟨(hsee i).trans pentry, fun j hj => (hsee j).trans ((pothers j hj).trans (hentry j)), ?_, ?_, ?_, ?_⟩
  · rw [hwalk]
    exact pcopies.trans (by rw [hprobe.gln]; rfl)
  · have hcount : w.rdN Reg.GLN_POISON = (u.poisonMu i a id l).rdN Reg.GLN_POISON := by
      unfold Mach.rdN Mach.rd
      rw [hreg]
    rw [hcount, pcount]
    unfold Mach.rdN
    rw [hprobe.poison]
    rfl
  · have herr : (w.hdr .gln).err = ((u.poisonMu i a id l).hdr .gln).err := by
      unfold Mach.hdr
      rw [hreg]
    rw [herr, perr, hprobe.err]
    rfl
  · rw [same_hdl hrest (by decide), hv]
    rw [hprobe.nextRec] at pwant
    exact pwant

theorem gleanRead_unidentified {low : Bool} {rs : List SrcRead} {v : Victim} {a : BitVec 40} (h : m.Sources low v a)
    (hk : (m.cwAt a).kind ≠ .erased)
    (hc : ∀ n < 4, m.chanAway (adrChan (a + BitVec.ofNat 40 n)) = true ∧ m.parityGroup (a + BitVec.ofNat 40 n) = none)
    (ht : w = m.gleanRead low rs) :
    (∃ x, w.victim low = some x ∧ x.furrow = v.furrow ∧ x.unidentified = v.unidentified + 1) ∧ w.gln.copies = m.gln.copies ∧
    ∀ j, w.entry j = m.entry j := by
  obtain ⟨u, hprobe, hplane⟩ := gleanPlane_unidentified (low := low) (v := v) (rs := rs) (m := m.turned low) hk hc
  rw [turned_victim, h.vic] at hplane
  rw [gleanRead_sources h rs, hplane] at ht
  subst ht
  refine ⟨walksOn_keeps (setVictim_victim ..), ?_, fun j => ?_⟩
  · rw [walksOn_gln, setVictim_gln, hprobe.gln]
    rfl
  · rw [walksOn_entry]
    unfold Mach.entry
    exact congrArg (fun x : Vols => SMap.get unmapped x.map j) ((same_vol hprobe.same (by decide)).trans rfl)

end

/-! ### The erase gate and the scans, put together (R268, R276, R277) -/

theorem gate_erases {m w : Mach} {f : Nat} {x : Fur} {mask : Word} (hr : m.running .hdl = true) (hp : m.dev.pf = .none) (hu : m.ioUp = true)
    (hl : m.gln.fur.filter (fun e => e.2.st == .released) = [(f, x)]) (hd : (m.fur f).eRel ≤ m.hdl.durable) (hc : m.eraseMembers f ≠ [])
    (hm : mask = (m.eraseMembers f).foldl (fun w c => w ||| bit32 c.val) 0) (ht : w = m.gate) :
    w.fur f = { m.fur f with st := .erasing, toErase := mask } ∧ (∀ g, g ≠ f → w.fur g = m.fur g) ∧
    w.hdl.want = m.hdl.want ++ [(m.hdl.nextRec, .eraseBegin f mask)] ∧
    (∀ c ∈ m.eraseMembers f, (w.blk (dieOf c (f / 4096)) (m.memberBlock c f)).st = .erasing ∧
      ∃ o ∈ w.fl.ops, o.ch = c ∧ o.row = Fin.ofNat 64 (f / 4096) ∧ o.req = .q2 ∧ o.kind = .erase (m.memberBlock c f) false ∧
        o.issued = false) ∧
    w.fl.ops.length = m.fl.ops.length + (m.eraseMembers f).length ∧ m.RegsSame [] w ∧ m.SameBut [.fl, .gln, .hdl, .reg] w := by
  obtain ⟨hfur, hothers, hwant, hfl, hregs, hsame⟩ := eraseBegun_facts f mask m
  have hqueue := eraseMembers_queue f (m.eraseMembers f) (m.eraseBegun f mask)
  have heq : m.gate = (m.eraseBegun f mask).each (m.eraseMembers f) (Mach.eraseMember f) := by
    rw [gate_one hl, if_neg (by simp [hr, hp, hu]), if_pos hd]
    exact passGate_eq hc hm
  rw [← heq, ← ht] at hqueue
  generalize m.eraseBegun f mask = u at *
  have hblock (c : Chan) : u.memberBlock c f = m.memberBlock c f := memberBlock_of (by rw [hfl]) c f
  have hfurs (g : Nat) : w.fur g = u.fur g := by
    unfold Mach.fur
    rw [same_gln hqueue.same (by decide)]
  obtain ⟨l, hops, hlen, hl⟩ := hqueue.ops
  refine ⟨(hfurs f).trans hfur, fun g hg => (hfurs g).trans (hothers g hg), hqueue.want.trans hwant, fun c hc => ⟨?_, ?_⟩, ?_,
    rs_trans hregs hqueue.regs, same_trans (same_mono hsame (by decide)) (same_mono hqueue.same (by decide))⟩
  · rw [← hblock]
    exact hqueue.erasing c hc
  · obtain ⟨o, ho, hch, hrow, hreq, hkind, hissued⟩ := hl c hc
    exact ⟨o, by rw [hops]; exact List.mem_append_right _ ho, hch, hrow, hreq, by rw [hkind, hblock], hissued⟩
  · rw [hops, List.length_append, hlen, hfl]

theorem gate_waits {m : Mach} {f : Nat} {x : Fur} (hl : m.gln.fur.filter (fun e => e.2.st == .released) = [(f, x)])
    (hd : m.hdl.durable < (m.fur f).eRel) : m.gate = m := by
  rw [gate_one hl, if_neg (Nat.not_le.mpr hd), ite_self]

theorem goodMembers_nodup (x : Fur) : (goodMembers x).Nodup := (List.nodup_finRange 32).filter _

theorem patrolScan_counts {m w : Mach} {f : Nat} {flagged passEnd : Bool} (hst : (m.fur f).st = .closed) (hg : m.gleaning = true)
    (hb : ∀ c, m.memberBlock c f < 4096) (hw : ∀ c ∈ goodMembers (m.fur f), ∀ a ∈ m.scanned c f, (m.cwAt a).gone = false)
    (ht : w = m.patrolScan f flagged passEnd) :
    (∀ c ∈ goodMembers (m.fur f), m.chanAway c = false → (w.blk (dieOf c (f / 4096)) (m.memberBlock c f)).reads =
      min 0xFFFFFF ((m.blk (dieOf c (f / 4096)) (m.memberBlock c f)).reads + (m.fur f).stripes)) ∧
    (w.fur f).refresh = ((m.fur f).refresh || flagged) ∧
    w.rd Reg.GLN_SCANPASS = (if passEnd then m.rd Reg.GLN_SCANPASS + 1 else m.rd Reg.GLN_SCANPASS) ∧
    m.SameBut [.fl, .gln, .hdl, .reg] w := by
  obtain ⟨hgone, hsense, hreads, -⟩ := scanMembers_facts ((goodMembers (m.fur f)).filter fun c => !m.chanAway c) m hb
    ((goodMembers_nodup _).filter _) fun c hc => hw c (List.mem_of_mem_filter hc)
  unfold Mach.patrolScan at ht
  rw [if_neg (by simp [hst, hg])] at ht
  generalize m.scanMembers f ((goodMembers (m.fur f)).filter fun c => !m.chanAway c) = r at *
  obtain ⟨u, gone⟩ := r
  dsimp only at hgone hsense hreads ht
  subst hgone
  rw [Bool.or_false] at ht
  obtain ⟨hfl, href, hrd, hsame⟩ := patrolScan_ends (u := u) flagged passEnd (by rw [hsense.furs, hst])
  rw [← ht] at hfl href hrd hsame
  have hpass : u.rd Reg.GLN_SCANPASS = m.rd Reg.GLN_SCANPASS := hsense.regs.1 _ (by simp)
  refine ⟨fun c hc ha => ?_, by rw [href, hsense.furs], by rw [hrd, hpass],
    same_trans (same_mono hsense.same (by decide)) (same_mono hsame (by decide))⟩
  rw [← hreads c (List.mem_filter.mpr ⟨hc, by simp [ha]⟩)]
  unfold Mach.blk
  rw [hfl]

theorem patrolScan_idle {m : Mach} {f : Nat} {flagged passEnd : Bool} (h : (m.fur f).st ≠ .closed ∨ m.gleaning = false) :
    m.patrolScan f flagged passEnd = m := by
  refine if_pos ?_
  obtain h | h := h <;> simp [h]

/-- Settles O52: each command's effect is given by the lemma about the one function that it runs; a source read keeps, whatever it
meets, what `Mach.Probed` lists, so that the copies, the victims and the map follow from the read's last step alone. -/
theorem gleaning : Obligations.Gleaning := by
  unfold Obligations.Gleaning
  refine ⟨?low, ?best, ?noVictim, ?noRead, ?copies, ?poisons, ?erased, ?unidentified, ?noResidual, ?residual, ?shut, ?waits, ?erases, ?patrol,
    ?noPatrol, ?disturb, ?flagged, ?noDisturb⟩
  case low =>
    intro s f hg hv hf
    obtain ⟨hfur, hothers⟩ := beginVictim_fur f false s.m
    exact completes_eq _ rfl (selectVictim_low hg hv hf) ⟨hfur, hothers, beginVictim_low f s.m, beginVictim_same ..⟩
  case best =>
    intro s f hg hl hv hf hw
    obtain ⟨hfur, hothers⟩ := beginVictim_fur f true s.m
    exact completes_eq _ rfl (selectVictim_best hg hl hv hf hw) ⟨hfur, hothers, beginVictim_best f s.m, beginVictim_same ..⟩
  case noVictim => exact fun s h => completes_eq _ rfl (selectVictim_none h) rfl
  case noRead => exact fun s low rs h => completes_eq _ rfl (gleanRead_idle rs h) rfl
  case copies =>
    intro s low rs v a id vol i h hid hv hr hg hi he
    exact completes_eq _ rfl rfl (gleanRead_copies h hid hv hr hg hi he rfl)
  case poisons =>
    intro s low rs v a id vol i n h hid hv hr hg hn h4 hw hi he
    exact completes_eq _ rfl rfl (gleanRead_poisons h hid hv hr hg hn h4 hw hi he rfl)
  case erased =>
    intro s low rs v a h hk ha hp
    refine completes_eq _ rfl (gleanRead_sources h rs) ?_
    rw [gleanPlane_erased (m := s.m.turned low) hk]
    exact ⟨walksOn_plane ((turned_victim ..).trans h.vic) ha hp, walksOn_gln low v (s.m.turned low),
      same_trans (same_updGln ..) (walksOn_rest ..)⟩
  case unidentified =>
    intro s low rs v a h hk hc
    exact completes_eq _ rfl rfl (gleanRead_unidentified h hk hc rfl)
  case noResidual => exact fun s low h => completes_eq _ rfl (residual_idle h) rfl
  case residual =>
    intro s low v i mu e vol hv hg hw ha hi hs hn hl he ho
    exact completes_eq _ rfl rfl (residual_poisons he (residual_one hv hg hw ha hi hs hn hl ho))
  case shut => exact fun s h => completes_eq _ rfl (gate_shut h) rfl
  case waits => exact fun s f x hl hd => completes_eq _ rfl (gate_waits hl hd) rfl
  case erases =>
    intro s f x mask hr hp hu hl hd hc hm
    exact completes_eq _ rfl rfl (gate_erases hr hp hu hl hd hc hm rfl)
  case patrol =>
    intro s f flagged passEnd hst hg hb hw
    exact completes_eq _ rfl rfl (patrolScan_counts hst hg hb hw rfl)
  case noPatrol => exact fun s f flagged passEnd h => completes_eq _ rfl (patrolScan_idle h) rfl
  case disturb =>
    intro s c r b hg hr hw
    obtain ⟨hreads, hsense⟩ := disturbScan_whole hg hr hw
    obtain ⟨hcount, hfl, hregs, hsame⟩ := disturb_counted hsense
    exact completes_eq _ rfl rfl ⟨hreads, hcount, hfl, hregs, hsame⟩
  case flagged =>
    intro s c r b f hg hr hf hst
    subst hf
    exact completes_eq _ rfl rfl (disturbScan_flagged hg hr hst)
  case noDisturb => exact fun s c r b flagged h => completes_eq _ rfl (disturbScan_idle h) rfl

end Sys2Proof.Machine
